-- ==== Sys2Proof/Word.lean ====
section
/-! DEFINITION. The plain words of the model: bytes, the binary32 and binary64 patterns, and the sparse
table that holds sparse architectural state as data. -/

namespace Sys2Proof

/-- One byte. -/
abbrev Byte := BitVec 8

/-- An FP32 bit pattern (R79, code 6). -/
abbrev F32 := BitVec 32

/-- An FP64 bit pattern (R255, R258). -/
abbrev F64 := BitVec 64

/-- A sparse table: pairs of key and value, keys strictly rising, no pair whose value is what an
absent key reads as. -/
abbrev Tbl (α : Type) := List (Nat × α)

end Sys2Proof
end

