-- ==== Sys2Proof/Syntax.lean ====
section
/-! DEFINITION. The commands of the block: the ONE inductive Instr, one constructor for each row of
spec/opcode_table.json, and the plain records their operands are made of. -/

namespace Sys2Proof

/-- Who sends a Sivar operation (R393, R396): a management session slot 0-7 or a PCIe host port 0-1. -/
inductive Client where
  | session (k : Nat)
  | pcie (i : Nat)
deriving DecidableEq, Repr

/-- One scratchpad row: 512 bytes and the words (0-63) that carry poison (R34, R36). -/
structure Row where
  bytes : List Byte
  poison : List Nat
deriving DecidableEq, Repr

/-- A tile packet (R196): its 256-bit header, element bytes, scale bytes, and what the check bits of its
words say on arrival at the load stage (R120). -/
structure Packet where
  header : BitVec 256
  elems : List Byte
  scales : List Byte
  headerBad : Bool
  bodyBad : Bool
  corrected : Nat
  north : Bool
deriving DecidableEq, Repr

/-- An image header (R165), fields as uploaded. -/
structure ImageHeader where
  magic : Nat
  version : Nat
  variant : Nat
  width : Nat
  firstColumns : Nat
  modes : Nat
  tideEntries : Nat
  period : Nat
  group : Nat
  vectorRevision : Nat
  barrierAssumed : Nat
  transit : BitVec 32
  quayBandwidth : Nat
  fabricBandwidth : Nat
  sectionCount : Nat
  length : Nat
  signed : Nat
  zero : Nat
deriving DecidableEq, Repr

/-- A section directory entry (R166). -/
structure DirEntry where
  type : Nat
  variant : Nat
  inst : Nat
  zero : Nat
  offset : Nat
  length : Nat
deriving DecidableEq, Repr

/-- A core segment (R167): head fields and parts, raw words. -/
structure Segment where
  variant : Nat
  entry : Nat
  bundles : List (BitVec 128)
  ranges : List (BitVec 32)
  descs : List (BitVec 512)
  branch : List Nat
  participates : List Nat
  zero : Nat
deriving DecidableEq, Repr

/-- One column of the gantry tap table (R116, R117): injection pattern and the 128-bit entry of each core y. -/
structure TapColumn where
  pattern : BitVec 8
  taps : List (Nat × BitVec 128)
deriving DecidableEq, Repr

/-- A stash layout section (R240, R241). -/
structure StashLayout where
  kind : Nat
  bit : Nat
  smax : Nat
  extra : Nat
  boundary : Nat
  gatherRecord : Nat
  latchEntry : Nat
  latchInner : Nat
  layers : List (BitVec 128)
deriving DecidableEq, Repr

/-- What a packet's header says of the transfer it belongs to: its source channel and that channel's transfer tag (R109). -/
structure TransferTag where
  ch : Nat
  tag : Nat
deriving DecidableEq, Repr

/-- What the header of a read request says beside its ends and its row: virtual channel, source channel, transfer tag (R109). -/
structure RequestTag where
  vc : Nat
  ch : Nat
  tag : Nat
deriving DecidableEq, Repr

/-- A place on the row links: its row and its column. -/
structure Station where
  y : Nat
  x : Nat
deriving DecidableEq, Repr

/-- Cores of one column (R122): the column and their rows. -/
structure CoreSet where
  x : Nat
  rows : List Nat
deriving DecidableEq, Repr

/-- A Yamuyth image, its sections as raw words (R165-R167, R199, R224, R253, R357). The byte framing of
the governor, tap, window and tensor sections is not in the spec (log 13); `framed`: they could be read. `digest` covers every
byte, `signedDigest` every byte before the signature section (R443). -/
structure Image where
  header : ImageHeader
  dir : List DirEntry
  segments : List (Nat × Segment)
  variants : List (Nat × Segment)
  tide : List (BitVec 128)
  tideVariants : List (Nat × List (BitVec 128))
  taps : List (Nat × TapColumn)
  tapVariants : List (Nat × Nat × TapColumn)
  stash : List StashLayout
  plan : List (BitVec 512)
  egress : List (BitVec 512)
  update : Option (BitVec 128)
  recovery : Option (BitVec 128)
  columnShift : Option (List Nat)
  rowShift : List Nat
  links : List (Nat × Nat × Nat)
  windows : List (Nat × Nat × BitVec 128)
  tensors : List (Nat × Nat)
  digest : BitVec 512
  signedDigest : BitVec 512
  signSlot : Nat
  signature : List Byte
  framed : Bool
  uploaded : Nat
deriving DecidableEq, Repr

/-- One Sivar operation as REQUEST and SLOT_TAKEN carry it (R398). -/
structure SivarOp where
  op : Nat
  draft : Bool
  final : Bool
  hostbuf : Bool
  reserved : Nat
  index : Nat
  sub : Nat
  length : Nat
  ticket : Nat
  offset : Nat
  data : List Byte
deriving DecidableEq, Repr

/-- A variant word request as the domain root announces it (R170, R184): group, the bits it decides, their values, and the tide
time (in cycles) of the mark instance that latches it. -/
structure VariantNote where
  group : Nat
  mask : BitVec 16
  word : BitVec 16
  time : Nat
deriving DecidableEq, Repr

/-- A group relaunch that the domain root announces (R364): group, path (2 or 3), relaunch tick, hole positions in use. -/
structure GroupRelaunch where
  group : Nat
  path : Nat
  tick : Nat
  holes : List Nat
deriving DecidableEq, Repr

/-- What a member reports of a partition of a group (R162, R170, R185, log 80): the bits of the checks that fail for STRICT, whether it
runs ELASTIC, was demoted and may be, its slip, its last mark, its step number and the times of its next STEP_START instance and of its
first one 128 ticks ahead, and the formats in force by layer. -/
structure GroupReport where
  group : Nat
  fails : Nat
  elastic : Bool
  demoted : Bool
  permits : Bool
  slip : Int
  passed : Nat
  step : Nat
  next : Nat
  start : Nat
  formats : List (Nat × Nat)
deriving DecidableEq, Repr

/-- Sums of frame statistics of a partition's layer in a step (R234). -/
structure LayerStats where
  amax : F32 := 0
  sumsq : F64 := 0
  nonzero : Nat := 0
  uMx : Nat := 0
  uE5 : Nat := 0
  uBf : Nat := 0
  overflow : Nat := 0
deriving DecidableEq, Repr

/-- A member's report to the root and the standby root (R185): its module, the tick at which it made it, its stretch request (R180), the
failing checks of its partitions by group (R162), statistics of a completed step by group, step and layer (R238), measured segments by
group, step and outer index (R242), the variant words that its stash rule asks for with the segments behind them (R243), and its handoff results
with the branch instance each concerns (R286). -/
structure MemberReport where
  module : Nat
  tick : Nat
  request : Nat
  groups : List GroupReport
  stats : List (Nat × Nat × Nat × LayerStats)
  segments : List (Nat × Nat × Nat × Nat)
  wants : List (Nat × Nat × Nat × VariantNote)
  results : List (Nat × Nat × Nat × VariantNote)
deriving DecidableEq, Repr

/-- What a tide marker carries (R184): tick, root and epoch, the stretch schedule (target, start tick), pending variant words,
mode changes (group, ELASTIC, time of the STEP_START instance), formats (group, layer, step they are for, format, k), group relaunches, the members' reports
on their way to the root (log 80), and the skew that the receiving port measures on its arrival. -/
structure Marker where
  tick : Nat
  root : Nat
  epoch : Nat
  stretch : Option (Nat × Nat)
  variants : List VariantNote
  modes : List (Nat × Bool × Nat)
  formats : List (Nat × Nat × Nat × Nat × Int)
  relaunches : List GroupRelaunch
  reports : List MemberReport
  skewPs : Int
deriving DecidableEq, Repr

/-- A firmware image (R435), fields as uploaded. -/
structure FirmwareImage where
  magic : Nat
  version : BitVec 32
  security : Nat
  flags : Nat
  sections : Nat
  zero : Nat
  bodyLength : Nat
  dirTypes : List Nat
  dirOverlap : Bool
  bodyDigest : BitVec 512
  bodyHash : BitVec 512
  vendorKey : List Byte
  ownerKey : List Byte
  vendorSig : List Byte
  ownerSig : List Byte
  headerHash : BitVec 512
  mcDigest : BitVec 512
  quayDigest : BitVec 512
  opticalDigest : BitVec 512
deriving DecidableEq, Repr

/-- A member of a membership table (R296). -/
structure Member where
  module : Nat
  rank : Nat
  domain : Nat
  hall : Nat
  partner : Nat
  witnesses : Nat
  zero : Nat
  tideDomain : Nat
deriving DecidableEq, Repr

/-- A membership table (R296). -/
structure Membership where
  ledger : Nat
  domains : Nat
  witnesses : Nat
  lateWindow : Nat
  zero : Nat
  farWait : Nat
  version : Nat
  members : List Member
deriving DecidableEq, Repr

/-- Counts of one shard entry of a STEP record (R308). -/
structure ShardEntry where
  shard : Nat
  status : Nat
  mirror : Bool
  nearOnTime : Nat
  nearFolded : Nat
  nearDropped : Nat
  farOnTime : Nat
  farFolded : Nat
  farDropped : Nat
  streamSum : BitVec 64
deriving DecidableEq, Repr

/-- A ledger record (R308). -/
structure LedgerRecord where
  ledger : Nat
  kind : Nat
  step : Nat
  term : Nat
  roleMap : Nat
  g2 : F64
  flags : Nat
  entries : List ShardEntry
  digest : BitVec 512
  roles : List (Nat × Nat × Nat × Bool)
deriving DecidableEq, Repr

/-- The commands. Core events and slots name a core by its index; Sivar commands name their client;
events of other parties name the unit concerned. -/
inductive Instr where
  -- sequencer (R27)
  | next (c : Nat)
  | loop (c level count : Nat)
  | endl (c level : Nat)
  | setix (c r value : Nat)
  | addix (c r value : Nat)
  | waitmark (c entry : Nat)
  | barrier (c wire : Nat)
  | waitdma (c ch : Nat)
  | halt (c : Nat)
  | jump (c target : Nat)
  | armwin (c win rowsM1 : Nat)
  -- matrix array slot (R59)
  | arrNop (c : Nat)
  | aset (c reg : Nat) (value : BitVec 18)
  | wsg (c sel src dst : Nat) (sr drain acc : Bool)
  | wss (c sel src dst : Nat) (sr drain acc : Bool)
  | wtg (c sel src dst : Nat) (sr drain acc : Bool)
  | wts (c sel src dst : Nat) (sr drain acc : Bool)
  | osp (c sel src dst : Nat) (seedz : Bool)
  -- springbok slot (R77)
  | spbNop (c : Nat)
  | sset (c reg : Nat) (value : BitVec 16)
  | svld (c sel src : Nat)
  | smv (c sel src : Nat)
  | sfin (c sel dst : Nat) (sr : Bool)
  | sclr (c : Nat)
  -- vector slot (R97)
  | vecNop (c : Nat)
  | vset (c reg : Nat) (value : BitVec 21)
  | vlds (c sel src : Nat)
  | vldt (c sel src bank : Nat) (sum : Bool)
  | vstt (c sel dst bank : Nat)
  | vclr (c mask : Nat)
  | vbin (c sel src dst sub : Nat) (sr accd : Bool)
  | vun (c sel src dst sub : Nat) (sr accd : Bool)
  | vtok (c sel src dst sub : Nat) (sr accd : Bool)
  | vred (c sel src dst sub : Nat) (accd : Bool)
  | vnrm (c sel src dst sub : Nat) (sr : Bool)
  | vsmx (c sel src dst : Nat) (accd : Bool)
  | vlse (c sel src bank : Nat)
  | vxent (c sel src dst : Nat) (sr accd : Bool)
  | vkld (c sel src dst sub : Nat) (sr accd : Bool)
  | vtopk (c sel src dst sub : Nat)
  | vdrop (c sel src dst sub : Nat) (sr : Bool)
  -- DMA slot (R30) and the core's own events
  | dmaStart (c sel ch desc target : Nat)
  | scoreboardRelease (c entry : Nat)
  | stationaryLoad (c : Nat)
  | passSwap (c : Nat)
  | chainDrain (c : Nat)
  | scrubRowRead (c : Nat)
  | scrubWriteBack (c row : Nat)
  | windowSet (cl : Client) (p c win : Nat) (map : BitVec 128)
  | remoteRowArrival (c srcModule srcCore : Nat) (tag : TransferTag) (row : Nat) (data : Row)
  | remoteReadRequest (c srcModule srcCore : Nat) (tag : RequestTag) (row : Nat)
  | descriptorBegin (c ch : Nat)
  | channelRowMove (c ch : Nat)
  | transitSlotEntry (p : Nat) (place : Station) (cycle : Nat) (east : Bool)
  | writeResponseArrival (c : Nat) (tag : TransferTag)
  | readResponseArrival (c : Nat) (tag : TransferTag) (k : Nat) (data : Row)
  | rejectArrival (c : Nat) (tag : TransferTag) (k : Nat)
  | channelComplete (c ch : Nat)
  | dmaDisable (cl : Client) (p c mask : Nat)
  -- gantries and core loading (R115-R123)
  | gantryCommit (x : Nat) (north : Bool)
  | gantryBeatArrival (c : Nat) (north : Bool)
  | creditReturn (c : Nat) (north : Bool)
  | multicastStall (x : Nat) (north : Bool)
  | storeLoad (cores : CoreSet) (seg : Segment)
  | barrierComplete (p wire : Nat)
  | heartbeatToggle (c : Nat)
  | heartbeatMiss (c : Nat)
  | routerError (site : Nat)
  -- clocks (R150-R153)
  | fastClockStart (tile : Nat)
  | boundaryPhaseCheck (a b : Nat) (err16 : Int)
  | boundaryRecalibrate (a b : Nat)
  -- partitions (R160-R179)
  | markInstanceFires (p : Nat) (insts : List (Nat × Nat × Nat))
  | preempt (cl : Client) (p : Nat)
  | partitionHalt (cl : Client) (p : Nat)
  | partitionEnd (cl : Client) (p : Nat)
  | withdraw (cl : Client) (p : Nat)
  | preemptTimeout (p : Nat)
  | launch (cl : Client) (p : Nat) (rec : BitVec 256)
  | resume (cl : Client) (p : Nat) (rec : BitVec 256)
  | cancel (cl : Client) (p : Nat) (rec : BitVec 256)
  | launchMark (p : Nat)
  | imageUpload (cl : Client) (slot : Nat) (img : Image)
  -- tide (R180-R187, R389, R446)
  | tideStop (cl : Client)
  | tideStart (cl : Client)
  | tideLock
  | tideMarkerSend
  | tideMarkerReceive (port : Nat) (m : Marker)
  | upstreamSwitch
  | freeEntry
  | rootTakeover
  | domainJoin (domain root revision tick : Nat)
  | stretchRampStep
  | referenceTick
  | ptpSync (utc : Nat)
  | timedRowRelease (p port sent c srcModule srcCore : Nat) (tag : TransferTag) (row : Nat) (complete : Bool) (data : Row)
  -- quays (R190-R214)
  | tensorCreate (cl : Client) (rec : BitVec 512)
  | tensorDelete (cl : Client) (id : Nat)
  | pinEdit (cl : Client) (id lead residency : Nat)
  | contentWrite (cl : Client) (id version offset : Nat) (final : Bool) (data : List Byte)
  | checkpoint (cl : Client) (id : Nat)
  | checkpointComplete (id : Nat) (ok : Bool)
  | quayRowWrite (q srcModule srcCore offset : Nat) (flash : Bool) (data : Row)
  | quayRowRead (q srcModule srcCore offset : Nat) (flash : Bool)
  | fetchIssue (p rec j k step i o : Nat)
  | fetchDataReady (q entry : Nat)
  | decisionPoint (q entry : Nat)
  | flashRecoveryStep (q entry : Nat) (ok : Bool)
  | dramUncorrectable (q entry : Nat) (retryOk mirrorOk : Bool)
  | tilePacketSend (q p col seq : Nat)
  | bufferCreditReturn (x : Nat) (north : Bool)
  | residencyCopyDone (q id : Nat)
  | flashScanPage (q id page step : Nat)
  -- gradients and stash (R222-R246)
  | intakeRow (address srcModule srcCore : Nat) (data : Row)
  | frameConvert (unit col : Nat)
  | frameAccumulate (q : Nat) (header : BitVec 256) (payload : List Byte)
  | statisticsReport (q p layer : Nat)
  | formatDecision (p layer : Nat)
  | layerPin (cl : Client) (p layer pin : Nat)
  | stashDecision (p step o segs : Nat)
  -- update (R249-R275)
  | reduceScatterBegin (p : Nat)
  | passOneBegin (p : Nat)
  | passTwoBegin (p : Nat)
  | publicationBegin (p : Nat)
  | unitWriteback (q engine : Nat)
  | rootComputation (id a b : Nat) (right : Bool)
  | engineFault (q engine : Nat) (afterWrite : Bool)
  | assignment (cl : Client) (id group : Nat)
  | stateReset (cl : Client) (id : Nat)
  | stateWrite (cl : Client) (id part offset : Nat) (data : List Byte)
  | groupRecordWrite (cl : Client) (g : Nat) (rec : BitVec 512)
  -- distillation (R286-R289)
  | handoffResultReceive (p member result : Nat)
  | handoffReportDeadline (p : Nat)
  -- quay fabric and ledger (R294-R319)
  | packetForward (q : Nat) (header : BitVec 256) (payload : List Byte)
  | contribReceive (q : Nat) (header : BitVec 256) (payload : List Byte)
  | partialReceive (q : Nat) (header : BitVec 256) (payload : List Byte)
  | nearClose (q : Nat)
  | farClose (q : Nat)
  | mirrorReceive (q : Nat) (header : BitVec 256) (payload : List Byte)
  | mirrorAck (q shard : Nat)
  | normReceive (q : Nat) (header : BitVec 256) (payload : List Byte)
  | gatherReceive (q : Nat) (header : BitVec 256) (payload : List Byte)
  | rejectPacketReceive (q : Nat) (header : BitVec 256)
  | shardDoneReceive (step holderModule holderQuay : Nat) (e : ShardEntry)
  | witnessAck (w term : Nat)
  | commitReceive (q step term : Nat)
  | electionTimeout (w : Nat)
  | voteRequest (w term candidate lastTerm lastRecord : Nat)
  | voteGrant (w term voter : Nat)
  | hmHeartbeat (module quay term : Nat)
  | heartbeatAnswer (module quay : Nat)
  | memberLost (module quay : Nat)
  | harbourMasterSilence (q : Nat)
  | partitioned (q : Nat)
  | rejoin (q term : Nat)
  | resyncDone (q shard : Nat)
  | membershipWrite (cl : Client) (table : Option Membership)
  | digestReport (module : Nat) (digest : BitVec 512)
  | restore (cl : Client) (ledger : Nat)
  -- bring-up, tests, sparing and ports (R320-R344)
  | powerEnable
  | stageEnd (result detail tested firstFailing : Nat) (failing : List (Nat × Nat)) (passing : List (Nat × Nat))
  | discardResultsRecord (cl : Client)
  | testRequest (cl : Client) (rec : BitVec 256)
  | testComplete (tag : Nat) (failing : List (Nat × Nat)) (tested : Nat)
  | testCancel (cl : Client) (tag : Nat)
  | overlayAdd (cl : Client) (rec : BitVec 128)
  | overlayRemove (cl : Client) (cls unit : Nat)
  | portRetrainFast (cl : Client) (port : Nat)
  | portRetrainFull (cl : Client) (port : Nat)
  | trainingComplete (port good latency : Nat) (ok : Bool)
  | wavelengthFailure (port wavelength : Nat)
  | calibrationMeasure (port : Nat) (ratios : List (Nat × Nat)) (calibRatio : Nat) (drift : Bool)
  | downRetry (port : Nat)
  | leaveReceived (port : Nat)
  -- resets and recovery (R345-R367)
  | moduleResetRequest (cl : Client)
  | moduleResetInstance
  | moduleResetDrainDone
  | fallbackReset
  | reset (cl : Client) (p : Nat)
  | recover (cl : Client) (p : Nat)
  | coreReset (cl : Client) (p c : Nat)
  | berthReset (cl : Client) (p c : Nat)
  | coreResetComplete (c : Nat)
  | drainAbandon (c ch : Nat)
  | recoveryDecision (p : Nat)
  | recoveryWaitEnd (p : Nat)
  -- heat (R368-R375)
  | thermalEvaluation (temps : List Int) (inlet : Int)
  | thermalEmergency (tile : Nat)
  | emergencyRelease (tile : Nat)
  | emergencyTimeout (tile : Nat)
  | thermalTrip (tile : Nat)
  | manualShedLeave (cl : Client) (tile : Nat)
  | manualShedCompute (cl : Client) (tile : Nat)
  | manualShedDark (cl : Client) (tile : Nat)
  | watchdogExpiry
  | journalReplay
  | eventLogCopy
  -- Sivar (R381-R415)
  | hello (k maxDatagram : Nat) (notify : Bool) (nonce : List Byte) (kemKey : List Byte)
  | prove (sid : Nat) (signature : List Byte)
  | close (sid : Nat) (tagOk : Bool)
  | proveTimeout (sid : Nat)
  | sessionIdleTimeout (sid : Nat)
  | sessionLifetimeExpiry (sid : Nat)
  | request (sid seq : Nat) (tagOk : Bool) (ops : List SivarOp)
  | read (cl : Client) (index sub : Nat) (draft : Bool)
  | write (cl : Client) (index sub : Nat) (draft : Bool) (data : List Byte)
  | describe (cl : Client) (index sub : Nat)
  | readSeg (cl : Client) (index sub : Nat) (draft : Bool) (offset length : Nat)
  | writeSeg (cl : Client) (index sub : Nat) (draft final : Bool) (offset : Nat) (data : List Byte)
  | ticket (cl : Client) (t : Nat)
  | ticketDone (t status : Nat)
  | slotTaken (port slot : Nat) (interrupt : Bool) (tag length zeroField : Nat) (ops : List SivarOp)
  | offer (cl : Client)
  | accept (cl : Client)
  | take (cl : Client)
  | offerExpiry
  | openDraft (cl : Client)
  | discardDraft (cl : Client)
  | commit (cl : Client)
  | revert (cl : Client)
  | configDefaults (cl : Client)
  | closeSessions (cl : Client)
  | keySlotWrite (cl : Client) (k : Nat) (data : List Byte)
  | mailboxRowWrite (srcCore p row : Nat) (data : Row)
  -- power and pins (R416-R433)
  | enterDeepPark (cl : Client)
  | leaveDeepPark (cl : Client)
  | goToStandby (cl : Client)
  | powerDisable
  | modResetAssert
  | modResetRelease
  | pumpOkLost
  | pumpOkRestored
  | pumpLossShed
  | pumpLossStandby
  | ppsEdge
  | inputLoss (lowestMv : Nat)
  | inputOvervoltage
  | inputReturn
  | thermAlertRelease
  | pcieReset (i : Nat)
  | pcieLinkDown (i : Nat)
  -- firmware (R435-R442)
  | firmwareUpload (cl : Client) (img : FirmwareImage)
  | apply (cl : Client)
  | discardStaging (cl : Client)
  | firmwareRestart
  | counterAdvance (cl : Client)
  | ownerKeyFuse (cl : Client) (hash : BitVec 512)
  | attestationRequest (cl : Client) (nonce : List Byte)
  | spdmGetMeasurements (i : Nat)
  | pcieLinkUp (i width rate : Nat) (flit : Bool)
  | ideKeyProgramming (i : Nat)
  | deepParkEntryComplete
  | standbyDrainEnd
  | beaconClockLost (tile : Nat)
  | ptpGrandmasterLost
  | quayReadReqReceive (q : Nat) (header : BitVec 256)
  | witnessRecordReceive (w : Nat) (rec : LedgerRecord)
deriving DecidableEq, Repr

end Sys2Proof
end

