-- ==== Sys2Proof/Machine/State.lean ====
section
/-! DEFINITION. The state of the module as plain data: everything the spec gives the machine, the model's
own free counter and answer register, the queue of waiting commands, and State.reset. Default field values
are the reset values; the log entries named in INVENTORY.md say which of them the spec gives. -/

namespace Sys2Proof.Machine

/-- Why a step stops with a fault. -/
inductive Fault where
  /-- Raised by a command that names a unit the module does not have: a core index of 27,648 or more or of a
  column fused off (R3, R12), a tile, quay, partition, port or column number out of range (log 3). Safe: no
  such unit exists. -/
  | noSuchUnit
deriving DecidableEq, Repr

/-- Why a step refuses a command. -/
inductive Refusal where
  /-- Raised only by an arm of exec that has no meaning yet. Safe: nothing is claimed of it. -/
  | notModelled (mnemonic : String)
deriving DecidableEq, Repr

/-! ### Cores -/

/-- Access kind of a scoreboard entry (R42). -/
inductive Access where | read | write
deriving DecidableEq, Repr

/-- The party that owns a scoreboard entry (R43). -/
inductive Party where | arr | spb | vec | dma (ch : Nat) | window (w : Nat)
deriving DecidableEq, Repr

/-- A scoreboard entry: inclusive row range, kind, party (R42), and the issue number of the work it
belongs to (R43). -/
structure SbEntry where
  first : Nat
  last : Nat
  kind : Access
  party : Party
  owner : Nat
deriving DecidableEq, Repr

/-- What the sequencer waits for (R25-R27, R46). -/
inductive Wait where
  | idle
  | running
  | mark (entry : Nat) (target : Nat) (arrived : Nat)
  | wire (w : Nat)
  | dma (ch : Nat)
  | halted
  | stopped
deriving DecidableEq, Repr

/-- Schedule fault causes of a core (R46 table). -/
inductive Cause where
  | sbHazard | sbFull | intraBundle | rowRange | dmaPending | poison | istoreEcc | windowArm
deriving DecidableEq, Repr

/-- A row range resolved at issue: first row and row count (R29). -/
structure Span where
  first : Nat
  rows : Nat
deriving DecidableEq, Repr

/-- Array opcodes that compute (R59). -/
inductive ArrOp where | wsg | wss | wtg | wts | osp
deriving DecidableEq, Repr

/-- An array instruction as queued: issue number, issue cycle, opcode, register copy (R58), ranges, modifiers. -/
structure ArrInstr where
  id : Nat
  issued : Nat
  op : ArrOp
  regs : Tbl (BitVec 18)
  srcA : Span
  srcB : Span
  dst : Span
  sr : Bool
  drain : Bool
  acc : Bool
  seedz : Bool
deriving DecidableEq, Repr

/-- Springbok opcodes that enter the queue (R77). -/
inductive SpbOp where | svld | smv | sfin | sclr
deriving DecidableEq, Repr

/-- A springbok instruction as queued: register copy, ranges, rounding. -/
structure SpbInstr where
  id : Nat
  op : SpbOp
  regs : Tbl (BitVec 16)
  srcs : List Span
  dst : Option Span
  sr : Bool
deriving DecidableEq, Repr

/-- Vector opcodes that enter the queue (R97). -/
inductive VecOp where
  | vlds | vldt | vstt | vclr | vbin | vun | vtok | vred | vnrm | vsmx | vlse | vxent | vkld | vtopk | vdrop
deriving DecidableEq, Repr

/-- A vector instruction as queued: register copy, ranges, modifier fields (`sub` also carries the bank
code or mask of the bank instructions). -/
structure VecInstr where
  id : Nat
  op : VecOp
  regs : Tbl (BitVec 21)
  srcs : List Span
  dst : Option Span
  sub : Nat
  sum : Bool
  sr : Bool
  accd : Bool
deriving DecidableEq, Repr

/-- A descriptor in a channel's pending register, its index, the cycle it entered (R30, R45), and whether STRICT has refused it for a
conflict, after which it does not issue (R44). -/
structure Pending where
  desc : BitVec 512
  idx : Nat
  entered : Nat
  refused : Bool := false
deriving DecidableEq, Repr

/-- The registers, queues, scoreboard and pending registers that one bundle's issue changes (R31). -/
structure IssueState where
  arrRegs : Tbl (BitVec 18) := []
  spbRegs : Tbl (BitVec 16) := []
  vecRegs : Tbl (BitVec 21) := []
  arrQ : List ArrInstr := []
  spbQ : List SpbInstr := []
  vecQ : List VecInstr := []
  sb : List SbEntry := []
  pend : Tbl (Option Pending) := []
  serial : Nat := 0
deriving DecidableEq, Repr

/-- A stationary bank (R62, R63): a loaded tile, its format (R52), orientation, poison and skip. -/
structure TileBank where
  format : Nat
  elems : List Byte
  scales : List Byte
  transposed : Bool
  poison : Bool
  skip : Bool
deriving DecidableEq, Repr

/-- A finished chain waiting for its drain (R67), or an OSP tile waiting to be written (R68), with the freezes since its last
vector: first frozen cycle and count (R70). -/
structure DrainJob where
  ins : ArrInstr
  chain : Nat
  pass : Nat
  bank : Nat
  lastVec : Nat
  shifts : List (Nat × Nat)
deriving DecidableEq, Repr

/-- The matrix array (R57-R74). `clash` holds the freezes of the last pass for reads or writes of the array that met at a port: the
first frozen cycle and how many (R70). -/
structure ArrayState where
  cur : Option ArrInstr := none
  chain : Nat := 0
  pass : Nat := 0
  live : Option TileBank := none
  shadow : Option TileBank := none
  loadDone : Nat := 0
  bankBit : Bool := false
  acc : Tbl F32 := []
  accPoison : List Nat := []
  accBank : Nat := 0
  ospBank : Nat := 0
  kept : Option Nat := none
  passStart : Nat := 0
  passLen : Nat := 0
  lastVec : Nat := 0
  lastOsp : Bool := false
  drains : List DrainJob := []
  drainedAt : Nat := 0
  clash : Nat × Nat := (0, 0)
  skipSlices : List Nat := []
deriving DecidableEq, Repr

/-- The springbok path (R76-R78): the instruction in flight, accumulators (key 8 j + v), their poison,
resident vectors by number; `lanesFrom` is the cycle after which its lanes take the next group (R77, R90). -/
structure SpbState where
  run : Option SpbInstr := none
  acc : Tbl F32 := []
  accPoison : List Nat := []
  resident : Tbl (List Byte) := []
  residentPoison : List Nat := []
  lanesFrom : Nat := 0
deriving DecidableEq, Repr

/-- The vector unit (R93, R94): the instruction in flight, scalars, banks (key 256 b + t for TA 0, TB 1, TL 2) and their poison;
`lanesFrom` is the cycle after which the lanes take the next group (R90, R95). -/
structure VecState where
  run : Option VecInstr := none
  scalars : Tbl F32 := []
  scalarPoison : List Nat := []
  banks : Tbl F32 := []
  bankPoison : List Nat := []
  lanesFrom : Nat := 0
deriving DecidableEq, Repr

/-- DMA channel states (R133). -/
inductive ChState where | idle | active | draining
deriving DecidableEq, Repr

/-- A DMA channel (R132, R133, R140, R144, R149). `tag` is the transfer tag of its packets, `ready` the cycle in which the data of
each staged row leaves the ECC stage, `lastDone` the cycle in which its last data row retired or was acknowledged, and `triedAt` the
cycle after the last one in which it was not served. -/
structure Channel where
  state : ChState := .idle
  desc : BitVec 512 := 0
  idx : Nat := 0
  rowsRead : Nat := 0
  rowsSent : Nat := 0
  rowsDone : Nat := 0
  owed : Nat := 0
  resultOwed : Bool := false
  resultDone : Bool := false
  staging : List (Nat × Row) := []
  ready : Tbl Nat := []
  check : BitVec 64 := 0
  poison : Bool := false
  rejected : Option Nat := none
  status : BitVec 64 := 0xF0000000#64
  tag : Nat := 0
  lastDone : Nat := 0
  triedAt : Nat := 0
  bankWait : Nat := 0
  rejectedCount : Nat := 0
  target : Option Nat := none
  since : Nat := 0
  flight : List (Nat × Row) := []
  doneAt : Option Nat := none
  drainSince : Nat := 0
deriving DecidableEq, Repr

/-- A DNet packet as a router puts it out (R109): its 64-bit header, the address word of an edge target, its row. -/
structure NetPacket where
  header : BitVec 64
  address : Option (BitVec 64)
  data : Option Row
deriving DecidableEq, Repr

/-- A remote window (R47-R49, R286, R288). -/
structure Window where
  map : BitVec 128 := 0
  left : Nat := 0
  armed : Bool := false
  closedSinceLoad : Bool := false
  fenced : Bool := false
  poisoned : Bool := false
  exhausted : Bool := false
  armedAt : Nat := 0
deriving DecidableEq, Repr

/-- A core (02 to 06). `portBusy` names the cycles that the DMA engine's ports are taken (port, first, count), `responses` the read
responses that wait for the injection port, with the first cycle in which each may start (R138, R139, R141). -/
structure Core where
  bundles : List (BitVec 128) := []
  ranges : List (BitVec 32) := []
  descs : List (BitVec 512) := []
  branch : List Nat := []
  participates : List Nat := []
  entry : Nat := 0
  storeBad : List Nat := []
  bp : Nat := 0
  ix : Tbl (BitVec 12) := []
  loops : List (Nat × Nat) := []
  wait : Wait := .idle
  nextIssue : Nat := 0
  cursor : Nat := 0
  iss : IssueState := {}
  snap : Option IssueState := none
  arr : ArrayState := {}
  queue : List Packet := []
  spb : SpbState := {}
  vec : VecState := {}
  chans : Tbl Channel := []
  rrRead : Nat := 2
  rrWrite : Nat := 2
  rrInject : Nat := 2
  routerTurn : Tbl Nat := []
  portBusy : List (Nat × Nat × Nat) := []
  responses : List (Nat × NetPacket) := []
  lastBegin : Option Nat := none
  windows : Tbl Window := []
  rejecting : List (Nat × Nat × Nat) := []
  firstFault : Option Cause := none
  laterFaults : Nat := 0
  genSeed : Option Nat := none
  genStart : Nat := 0
  genPaused : Nat := 0
deriving DecidableEq, Repr

/-- The parts of a core that its counters and health keep apart from its work (R35-R40, R50, R126). -/
structure CoreHealth where
  corrected : Nat := 0
  freezes : Nat := 0
  issueStalls : Nat := 0
  sbWaits : Nat := 0
  scrubUncorrectable : Nat := 0
  faultSinceLaunch : Nat := 0
  windowRejects : Nat := 0
  writeBack : List Nat := []
  scrubRow : Nat := 0
  scrubLast : Nat := 0
  scrubPending : List Nat := []
  scrubDone : Nat := 0
  passCorrected : Nat := 0
  offered : Bool := false
  fenced : Bool := false
  dead : Bool := false
  resetting : Bool := false
  heartbeat : Bool := false
  toggled : Nat := 0
  toggleBit : Bool := false
deriving DecidableEq, Repr

/-- What is stored in the check bits of a scratchpad word (R34, R36): one flipped bit, the poison pattern
or an uncorrectable error, or three or more flipped bits. -/
inductive Mark where | single | uncorrectable | many
deriving DecidableEq, Repr

/-! ### Networks -/

/-- A packet waiting in a breakwater unit's inbound buffer (R198), with its sequence number, the partition it serves and the quay
that holds its buffer credit. -/
structure Inbound where
  packet : Packet
  seq : Nat
  part : Nat
  quay : Nat
deriving DecidableEq, Repr

/-- One beat of a tile packet (R115): its number, whether it is its packet's last, the stream tag lines, 512 B of payload, the
32 B sideband, and what the check lanes say of both on arrival (R120): an uncorrectable word, words corrected. -/
structure Beat where
  number : Nat
  last : Bool
  tag : Nat
  payload : List Byte
  sideband : List Byte
  payloadBad : Bool
  sidebandBad : Bool
  corrected : Nat
deriving DecidableEq, Repr

/-- One end of a gantry: the unit's share of credits per core, its waiting packets and its counts (R118, R119). `nextFree` is the
first cycle after the last slot used (R116), `owed` the quays to which buffer credits go back (R198), `lane` holds core, arrival cycle
and beat, `taps` the beats a core's tap has of a packet not yet whole, by row, and `returning` core and cycle of each slot freed. -/
structure GantryEnd where
  inbound : List Inbound := []
  nextSince : Nat := 0
  stallReported : Bool := false
  orphans : Nat := 0
  credits : Tbl Nat := []
  nextFree : Nat := 0
  lane : List (Nat × Nat × Beat) := []
  taps : Tbl (List Beat) := []
  returning : List (Nat × Nat) := []
  owed : List Nat := []
deriving DecidableEq, Repr

/-- The gantry of one logical column (R115-R121). -/
structure Gantry where
  pattern : BitVec 8 := 0
  masks : Tbl (BitVec 64) := []
  northCredits : Tbl Nat := []
  north : GantryEnd := {}
  south : GantryEnd := {}
deriving DecidableEq, Repr

/-- A transit flit (R113): the partition whose slots it rides, row and direction, the column whose router it waits at, the column it
leaves the row links at (192 or more: the east edge port; none the west edge port), and the column it has last entered with the cycle,
none while it waits in order. -/
structure Flit where
  part : Nat
  row : Nat
  east : Bool
  source : Nat
  dest : Option Nat
  entered : Option (Nat × Nat)
deriving DecidableEq, Repr

/-- Tile states (R374). -/
inductive TileState where | normal | emergency | computeShed | darkShed | tripped
deriving DecidableEq, Repr

/-- A reticle tile: clocks (R150-R153) and heat (R368-R374). -/
structure Tile where
  fastClock : Bool := false
  pickUp : Nat := 0
  parent : Option Nat := none
  unreachable : Bool := false
  temp16 : Int := 0
  state : TileState := .normal
  atLimit : Nat := 0
  coolCount : Nat := 0
  emergencySince : Nat := 0
  emergencyEnd : Nat := 0
  due : Bool := false
  badTypes : Nat := 0
deriving DecidableEq, Repr

/-! ### Partitions -/

/-- Run states of partitions and functions (R163, R388). -/
inductive RunState where | stopped | starting | running | stopping | fault
deriving DecidableEq, Repr

/-- Causes of a partition fault (R354, R379). -/
inductive PFault where
  | coreDead (c : Nat) | routerDead (site mask : Nat) | tileShed (t : Nat) | boundaryPhase (a b : Nat) (err : Int) | tideFree
  | poison (c : Nat)
  | overrun (kind unit : Nat) (thermal : Bool)
  | multicastStall (unit tag : Nat)
  | schedule (c : Nat) (cause : Cause)
  | stashOverflow (s : Nat) | logitsLate (code : Nat) | strictRefused (bit : Nat)
  | controllerLost
deriving DecidableEq, Repr

/-- A pre-empted partition's saved point (R179). -/
structure ResumePoint where
  time : Nat
  cursor : Nat
  step : Nat
  variant : BitVec 16
  cores : List (Nat × Nat × Tbl (BitVec 12))
deriving DecidableEq, Repr

/-- A variant word request: word and mask of bits it decides, entry, inner, outer index (R170, R244, R287), the step it
names, and the detail of the event that its instance records (R244). -/
structure VariantReq where
  mask : BitVec 16
  word : BitVec 16
  entry : Nat
  inner : Nat
  outer : Nat
  step : Nat
  detail : Option Nat := none
  choice : Option Nat := none
deriving DecidableEq, Repr

/-- Fault and recovery record (R356). -/
structure RecoveryRecord where
  fault : Nat := 0
  step : Nat := 0
  code : Nat := 0
  detail : Nat := 0
  unit : Nat := 0xFFFFFFFF
  state : Nat := 0
  path : Nat := 0xFF
  units : List (Nat × Nat) := []
  inPlace : Nat := 0
  relaunch : Nat := 0
  prevColumn : Nat := 0
  prevWidth : Nat := 0
  prevSlot : Nat := 0
  status : Nat := 0
  cause : Option PFault := none
  allPaths : Bool := false
  stopping : Bool := false
deriving DecidableEq, Repr

/-- Per-step counts of a partition (R163 `.0B`, R18, R206, R223). -/
structure StepCounts where
  early : Nat := 0
  waitmarkLate : Nat := 0
  dmaLate : Nat := 0
  linkLate : Nat := 0
  marks : Nat := 0
  egressRejects : Nat := 0
  rejectedTransfers : Nat := 0
  discardedFrames : Nat := 0
  skippedTiles : Nat := 0
  excluded : List (Nat × Nat) := []
deriving DecidableEq, Repr

/-- A governor decision as a step report lists it (R18, R20): kind and unit as in the journal, the value in force, the choice that the
governor would have made, and the tide time of its effect. -/
structure Decision where
  kind : Nat
  unit : Nat
  value : Nat
  choice : Nat
  time : Nat
deriving DecidableEq, Repr

/-- The report of one step of a partition (R18, R20, R21, R50, R206): step number, decisions that took effect in it, totals of its
cores' counters, whether no freeze fell in it, and its counts. -/
structure StepReport where
  step : Nat
  decisions : List Decision
  corrected : Nat
  freezes : Nat
  issueStalls : Nat
  sbWaits : Nat
  scrubUncorrectable : Nat
  windowRejects : Nat
  freezeFree : Bool
  counts : StepCounts
deriving DecidableEq, Repr

/-- A partition (R163, R164). Placement, mode, slot and seed stand in the configuration. -/
structure Partition where
  run : RunState := .stopped
  elastic : Bool := false
  demoted : Bool := false
  image : Option Image := none
  variants : List Nat := []
  launchTick : Nat := 0
  period : Nat := 0
  steps : Nat := 0
  n0 : Nat := 0
  nb : Nat := 0
  stepIndex : Nat := 0
  stepsDone : Nat := 0
  delta : Nat := 0
  slip : Int := 0
  cursor : Nat := 0
  variant : BitVec 16 := 0
  resume : Option ResumePoint := none
  barriers : List (Nat × Nat × Nat) := []
  barrierLatency : Nat := 0
  leftGroup : Bool := false
  resetAt : Option Nat := none
  latches : List VariantReq := []
deriving DecidableEq, Repr

/-- What waits for a mark of a partition, and what its record and report hold (R20, R47, R147, R164, R178, R356). -/
structure PartControl where
  preempt : Option (Nat × Nat) := none
  halt : Bool := false
  haltAtStepStart : Bool := false
  ending : Bool := false
  windowSets : List (Nat × Nat × BitVec 128) := []
  disables : List (Nat × Nat) := []
  pins : List (Nat × Nat) := []
  tensorPins : List (Nat × Nat × Nat) := []
  faults : List PFault := []
  laterFaults : Nat := 0
  counts : StepCounts := {}
  launchRecord : BitVec 256 := 0
  launchStatus : Nat := 0
  recovery : RecoveryRecord := {}
  relaunches : List Nat := []
  poisons : List (Nat × Nat) := []
  mailRecords : Tbl (Nat × Bool × Nat) := []
  overflowAt : List VariantReq := []
  logitsLateAt : Option VariantReq := none
  modeNext : Option (Bool × Nat) := none
  groupHalt : Option GroupRelaunch := none
  reloaded : Bool := false
  placementNoted : Bool := false
  decisions : List Decision := []
  report : Option StepReport := none
deriving DecidableEq, Repr

/-- An image slot (R168). State: 0 EMPTY, 1 LOADED, 2 VERIFIED ELASTIC, 3 VERIFIED STRICT, 4 REJECTED. -/
structure ImageSlot where
  image : Option Image := none
  state : Nat := 0
  failures : BitVec 32 := 0
  failSection : Nat := 0xFFFFFFFF
  failOffset : Nat := 0xFFFFFFFF
  status : Nat := 0
deriving DecidableEq, Repr

/-! ### Tide -/

/-- Format governor state of one layer (R235, R236, R239); `decidedFor` is the step number for which the last decision was made. -/
structure FormatState where
  window : List LayerStats := []
  inForce : Nat := 1
  k : Int := 0
  lastChoice : Nat := 0
  run : Nat := 0
  pin : Nat := 0
  pinNext : Option Nat := none
  forced : Nat := 0
  aHat : F32 := 0
  uHat : List (Nat × Nat) := []
  delayed : Bool := false
  pendingFormat : Nat := 1
  pendingK : Int := 0
  decidedFor : Nat := 0
deriving DecidableEq, Repr

/-- The tide function and domain (R180-R187, R389, R446). `modeNotes` and `groupFormats` hold what a root decides for groups that run on no
partition of its own, the latter by 4,096 * group + layer (log 80). `lock`: 0 FREE, 1 ACQUIRING, 2 LOCKED, 3 HOLDOVER. -/
structure Tide where
  run : RunState := .stopped
  lock : Nat := 0
  startedAt : Nat := 0
  skewPs : Int := 0
  skewBad : Nat := 0
  upstreamSecondary : Bool := false
  lastMarker : Nat := 0
  holdoverSince : Nat := 0
  epoch : Nat := 0
  isRoot : Bool := false
  stretch : Nat := 0
  ownRequest : Nat := 0
  target : Nat := 0
  rampFrom : Nat := 0
  changes : List (Nat × Nat) := []
  sent : List (Nat × Marker) := []
  reports : List MemberReport := []
  heard : Option Marker := none
  root : Nat := 0
  seen : Tbl Nat := []
  taken : List VariantNote := []
  relaunches : List GroupRelaunch := []
  modeNotes : List (Nat × Bool × Nat) := []
  groupFormats : Tbl FormatState := []
  ppsAt : Nat := 0
  joined : Bool := false
  lastAny : Nat := 0
deriving DecidableEq, Repr

/-- The MC's real-time clock (R446) in units of 1/384,000 us, and the last reference tick (R182). -/
structure Rtc where
  valid : Bool := false
  units : Nat := 0
  ptp : Bool := false
  refTick : Nat := 0
  refUtc : Nat := 0
  refSource : Nat := 0
deriving DecidableEq, Repr

/-! ### Quays -/

/-- A version slot of a tensor in its primary quay (R194, R195). -/
structure Version where
  number : Nat
  committed : Bool
  complete : Bool
  bytes : List Host.Cell
deriving DecidableEq, Repr

/-- A gradient frame (R228): the egress record it was formed under, its header and payload, and the port it was sent on (log 76). -/
structure EgFrame where
  number : Nat
  header : BitVec 256
  payload : List Byte
  port : Nat := 0
deriving DecidableEq, Repr

/-- How an entry ended (R204, R205, R209). -/
inductive Outcome where
  | data | shadow | skip | checkpoint | fault
deriving DecidableEq, Repr

/-- What a GATHER waiter writes (R211): the plan record, its token's position in the list, its slice, the token read at issue. -/
structure GatherTag where
  record : BitVec 512
  position : Nat
  slice : Nat
  token : Nat
deriving DecidableEq, Repr

/-- One waiter of a fetch entry (R203): partition, band-local column, sequence number, deadline, stream tag, tide-table
entry, outer index and step of its instance; a gather waiter writes to a region in place of a packet. -/
structure Waiter where
  part : Nat
  col : Nat
  seq : Nat
  deadline : Nat
  tag : Nat
  markEntry : Nat
  outer : Nat
  step : Nat
  issued : Nat
  gather : Option GatherTag := none
deriving DecidableEq, Repr

/-- A fetch entry (R203, R204). With outcome SHADOW or CHECKPOINT it is the entry of the substitute read, in the format of that copy,
until its data is `ready`; `since` is the cycle in which that read was issued. An entry left with no waiter while a flash recovery
works for it stays until the recovery ends (R207, R209); one whose outcome was a MISS stays until its own data comes, which `missed`
names the waiting partitions of (log 79). -/
structure FetchEntry where
  tid : Nat
  tile : Nat
  version : Nat
  waiters : List Waiter
  outcome : Option Outcome
  ready : Bool
  since : Nat
  missed : List Nat
  rebuilt : Bool
  recovery : Nat
  unreadable : Bool
  waiting : Bool
deriving DecidableEq, Repr

/-- A packet ready in its sequence place, not yet sent (R198). -/
structure Outgoing where
  part : Nat
  col : Nat
  seq : Nat
  packet : Packet
deriving DecidableEq, Repr

/-- One partition's step counts of a tensor in one tier (R213): misses, fetches and whether a miss's data came after P. -/
structure LeadCount where
  misses : Nat := 0
  lateAfterP : Bool := false
  fetches : Nat := 0
deriving DecidableEq, Repr

/-- What the lead governor measures of one tensor in one tier (R213): latencies, the target, and each partition's counts of its present
step. -/
structure Lead where
  latencies : List Nat := []
  target : Nat := 0
  counts : Tbl LeadCount := []
deriving DecidableEq, Repr

/-- The lead of a quay's copy of one plan record (R169, R213), 0 while it is the image's, and for how many steps the target has stood
below it. -/
structure RecordLead where
  lead : Nat := 0
  below : Nat := 0
deriving DecidableEq, Repr

/-- A fetch that a quay has issued (R202): partition, plan record, column j, tile k, and its instance. -/
structure IssuedFetch where
  part : Nat
  number : Nat
  j : Nat
  k : Nat
  step : Nat
  inner : Nat
  outer : Nat
deriving DecidableEq, Repr

/-- An allocation of a quay (R193, R215). Tier: 0 DRAM, 1 flash. Kind: 0 tensor, 1 region, 2 residency copy, 3 ledger stores. -/
structure Alloc where
  tier : Nat
  kind : Nat
  tid : Nat
  base : Nat
  size : Nat
deriving DecidableEq, Repr

/-- A quay (08). `state`: 0 ABSENT, 1 ATTACHING, 2 READY, 3 FAULT. -/
structure Quay where
  state : Nat := 0
  allocs : List Alloc := []
  entries : List FetchEntry := []
  outgoing : List Outgoing := []
  issued : List IssuedFetch := []
  seqs : Tbl Nat := []
  sentSeq : Tbl Nat := []
  credits : Tbl Nat := []
  highWater : Nat := 0
  issueWaits : Nat := 0
  counts : Tbl Nat := []
  rejects : Nat := 0
  rangeRejects : Nat := 0
  badTokens : Nat := 0
  excluded : List (Nat × Nat × Nat) := []
  damaged : List (Nat × Nat × Nat × Outcome) := []
  leads : Tbl Lead := []
  recordLeads : Tbl RecordLead := []
  turn : Tbl Nat := []
  resident : List (Nat × Nat × Nat) := []
  copying : List (Nat × Nat) := []
  copied : List (Nat × Nat) := []
  leaving : List Nat := []
  gathered : List (Nat × Nat) := []
  scan : Nat := 0
  scanned : List (Nat × Nat) := []
  weights : Tbl Nat := []
  weightChanges : List (Nat × Nat) := []
  lateFrames : List (Nat × EgFrame) := []
  heldRows : List (Nat × EgFrame) := []
  frameCounts : Tbl Nat := []
  segments : List (Nat × Nat × Nat × Nat) := []
deriving DecidableEq, Repr

/-! ### Gradient egress and governors -/

/-- An open egress record case (R225): record number, record, step, outer index, rows taken, tiles framed. -/
structure OpenRec where
  part : Nat
  number : Nat
  record : BitVec 512
  step : Nat
  outer : Nat
  rows : Nat
  framed : Nat
  perCore : Tbl Nat
  framedCore : Tbl Nat
deriving DecidableEq, Repr

/-- One column's intake of a breakwater unit (R225-R230). -/
structure Intake where
  opens : List OpenRec := []
  held : List (Nat × Row) := []
  unsent : List EgFrame := []
  sent : List EgFrame := []
  credits : Nat := 16
deriving DecidableEq, Repr

/-- One stash log line (R246). -/
structure StashLine where
  time : Nat
  step : Nat
  outer : Nat
  bit : Nat
  kind : Nat
  s : Nat
  smax : Nat
deriving DecidableEq, Repr

/-- Governors of one partition: format layers, reported statistics, stash log (09). -/
structure Governor where
  layers : Tbl FormatState := []
  stats : Tbl LayerStats := []
  reported : Tbl LayerStats := []
  reportedStep : Tbl Nat := []
  toRoot : List (Nat × Nat × LayerStats) := []
  stashLog : List StashLine := []
  stashHeard : List (Nat × Nat) := []
  stashDone : List (Nat × Nat) := []
deriving DecidableEq, Repr

/-! ### Optimizer -/

/-- Row state of a lazy row: count and last update (R248, R261). -/
structure RowState where
  count : Nat := 0
  last : Nat := 0
deriving DecidableEq, Repr

/-- Block state of a PRECOND tensor (R264-R266): statistics, snapshots and roots as row-major matrices, the empty list
being all zeros; the sides computed from the last snapshot, and whether each was accepted. -/
structure BlockState where
  sl : List F32 := []
  sr : List F32 := []
  snapL : List F32 := []
  snapR : List F32 := []
  ql : List F32 := []
  qr : List F32 := []
  newL : Option (List F32) := none
  newR : Option (List F32) := none
  acceptedL : Bool := false
  acceptedR : Bool := false
  validL : Bool := false
  validR : Bool := false
  due : Option Nat := none
  validFrom : Nat := 0
  fallback : Nat := 0
  attemptsL : Nat := 0
  attemptsR : Nat := 0
  missedL : Bool := false
  missedR : Bool := false
  fallbacks : Nat := 0
  late : Nat := 0
  failed : Bool := false
deriving DecidableEq, Repr

/-- Optimizer state of a tensor (R248). -/
structure OptState where
  group : Nat := 0
  assigned : Bool := false
  w : Tbl F32 := []
  m : Tbl F32 := []
  v : Tbl F32 := []
  acc : Tbl F32 := []
  u : Nat := 0
  rows : Tbl (RowState × RowState) := []
  touched : List Nat := []
  dense : Bool := false
  blocks : Tbl BlockState := []
deriving DecidableEq, Repr

/-- A checkpoint copy (R194, R271): the stream copy of a version and the optimizer state at the end of its pass two. -/
structure Checkpoint where
  version : Version
  state : OptState
deriving DecidableEq, Repr

/-- A tensor-table record and what its quays hold for it (R192-R195, R271). -/
structure Tensor where
  record : BitVec 512 := 0
  versions : List Version := []
  checkpoint : Option Checkpoint := none
  replica : Option Checkpoint := none
  checkpointing : Option (Nat × Checkpoint × Checkpoint) := none
  retiring : List Nat := []
  flashDamaged : Bool := false
deriving DecidableEq, Repr

/-- One update report (R276). -/
structure UpdateReport where
  step : Nat := 0
  domain : Nat := 0
  flags : Nat := 0
  g2 : F64 := 0
  cf : F32 := 0
  lr : F32 := 0
  lateness : List Nat := []
  touchedRows : Nat := 0
  saturations : Nat := 0
  fallbacks : Nat := 0
  lateRoots : Nat := 0
  enginesFenced : Nat := 0
deriving DecidableEq, Repr

/-- The update in progress of one domain (R253-R257). `phase`: 0 none, 1 reduce-scatter, 2 pass one,
3 pass two, 4 publication. `sums` holds the slab partials of pass one. `launch` is the launch that the step belongs to, `times` the
last instances of the four entries in the step; `par` holds the domain's tensors, each with its group record, `domRec` the domain
record, `pinned` the preconditioner pin and `table` the membership table: they are fixed as the update begins (R252, R318). `prior` holds, by version, the optimizer
state that a later pass two has replaced (R271). -/
structure UpdateRun where
  phase : Nat := 0
  step : Nat := 0
  launch : Nat := 0
  times : List Nat := []
  par : Tbl (BitVec 512) := []
  domRec : List Byte := []
  pinned : Bool := false
  table : Option Membership := none
  prior : Tbl (Tbl OptState) := []
  g2 : Option F64 := none
  cf : F32 := 0x3F800000#32
  lr : F64 := 0
  skipped : Bool := false
  sums : Tbl F64 := []
  lost : List Nat := []
  done : Bool := false
  fallbackBase : Nat := 0
  lateBase : Nat := 0
  report : UpdateReport := {}
deriving DecidableEq, Repr

/-- Update engines of a quay (R250, R251, R270): the pass in work and its domain, the queue of each engine as units
(tensor, unit index), and the unit each engine works on. -/
structure Engines where
  dom : Nat := 0
  pass : Nat := 0
  queues : Tbl (List (Nat × Nat)) := []
  working : Tbl (Option (Nat × Nat)) := []
  fenced : List Nat := []
  passDone : Bool := true
deriving DecidableEq, Repr

/-- The optimizer (10). -/
structure Optimizer where
  tensors : Tbl OptState := []
  runs : Tbl UpdateRun := []
  engines : Tbl Engines := []
  reports : List UpdateReport := []
deriving DecidableEq, Repr

/-! ### Pairs -/

/-- Handoff state of one student partition (R282-R289). -/
structure Pair where
  inStep : Bool := true
  fence : Bool := false
  report : List (Nat × Nat × Nat × Bool × Nat) := []
  counts : Tbl Nat := []
  results : List (Nat × Nat) := []
  checkStep : Nat := 0
  checkOuter : Nat := 0
  checkTime : Option Nat := none
  branchTime : Nat := 0
  late : Nat := 0
  ownResult : Nat := 0
  decided : Bool := true
  endClear : Bool := false
deriving DecidableEq, Repr

/-! ### Ledger -/

/-- A witness quay's election state and journal (R308-R310). -/
structure Witness where
  term : Nat := 0
  votedFor : Option (Nat × Nat) := none
  candidate : Bool := false
  votes : List Nat := []
  lastHeartbeat : Nat := 0
  journal : List LedgerRecord := []
  count : Nat := 0
deriving DecidableEq, Repr

/-- One slab of one contribution (R299, R306): its source rank, or source domain for a far chunk, its step, the slab's place
in the domain's slab list, the packets taken, its values by element key. -/
structure Chunk where
  far : Bool
  src : Nat
  step : Nat
  slab : Nat
  got : List Nat := []
  vals : Tbl F32 := []
  rows : List Nat := []
  complete : Bool := false
deriving DecidableEq, Repr

/-- Counts of contributions at one level: sources on time, folded and dropped, and how many chunks were folded (R308). -/
structure LevelCounts where
  onTime : List Nat := []
  folded : List Nat := []
  dropped : List Nat := []
  foldedChunks : Nat := 0
deriving DecidableEq, Repr

/-- A quay's exchange of one domain (R299-R307). Keys of stores are element keys, rows are row keys. `ended` names sources and
steps; `nextNear` and `nextFar` count what waits for the next step; `earlyNorms` holds shard sums (step, shard) of a step not begun;
`reducedFor` names the shards whose gradient `reduced` holds, `inherited` those whose role came to the quay within the step; mirror data
stand under their shards, `mirrorStep` gives their step. `mirrorAcks` names the shards of acknowledgements awaited; `gathered` holds, by
shard, the lengths of the stream bytes received at each offset. -/
structure Exchange where
  began : Bool := false
  step : Nat := 0
  contributes : Bool := false
  own : Tbl F32 := []
  ownRows : List Nat := []
  chunks : List Chunk := []
  ended : List (Nat × Nat) := []
  nearClosed : Bool := false
  nearCloseAt : Nat := 0
  farClosed : Bool := false
  partialStore : Tbl F32 := []
  partialRows : List Nat := []
  reduced : Tbl F32 := []
  rows : List Nat := []
  nearFold : Tbl F32 := []
  nearFoldRows : List Nat := []
  farFold : Tbl F32 := []
  farFoldRows : List Nat := []
  near : LevelCounts := {}
  farLevel : LevelCounts := {}
  nextNear : LevelCounts := {}
  nextFar : LevelCounts := {}
  reducedFor : List Nat := []
  inherited : List Nat := []
  mirrorAcks : List Nat := []
  mirror : Tbl F32 := []
  mirrorRows : List (Nat × Nat) := []
  mirrorStep : Tbl Nat := []
  mirrorGot : List (Nat × Nat) := []
  mirrorFinal : List (Nat × Nat) := []
  norms : Tbl F64 := []
  earlyNorms : List (Nat × Nat × F64) := []
  normsSent : List Nat := []
  gathered : Tbl (Tbl Nat) := []
  relayed : Bool := false
  shardDone : Bool := false
deriving DecidableEq, Repr

/-- What a quay of this module sends to the ledger's other parties (R303-R311, R296). The spec gives LEDGER packets no
layout, so the model holds their content (log 21). -/
inductive LedgerMsg where
  | shardDone (ledger step module quay : Nat) (e : ShardEntry)
  | propose (rec : LedgerRecord)
  | ack (w term : Nat)
  | commit (ledger step term : Nat)
  | askVote (w term : Nat)
  | vote (w term candidate : Nat)
  | heartbeat (term : Nat)
  | answer (quay : Nat)
  | digest (d : BitVec 512)
  | shardLost (ledger step shard : Nat)
  | mirrorAck (shard module quay : Nat)
deriving DecidableEq, Repr

/-- The ledger (12). `state` is `0x6000.31`; `committed` holds the last committed step plus one by ledger ID; `chunks`
counts chunks on time, folded and dropped, near (0-2) and far (3-5). `tableVersion` is the membership version last committed plus one; `heard`
holds records sent to witnesses of other modules. -/
structure Ledger where
  state : Nat := 0
  committed : Tbl Nat := []
  term : Nat := 0
  hm : Option (Nat × Nat) := none
  roleMap : Nat := 0
  roles : List (Nat × Nat × Nat × Bool) := []
  records : List LedgerRecord := []
  witnesses : Tbl Witness := []
  exchange : Tbl Exchange := []
  proposed : List (LedgerRecord × List Nat) := []
  dones : List (Nat × Nat × Nat × Nat × ShardEntry) := []
  digests : List (Nat × BitVec 512) := []
  membership : Option Membership := none
  lastHm : Tbl Nat := []
  silent : List Nat := []
  lastAnswer : List (Nat × Nat × Nat) := []
  lost : List (Nat × Nat) := []
  mirrorInvalid : List Nat := []
  chunks : Tbl Nat := []
  framesHeld : Nat := 0
  framesDropped : Nat := 0
  rejectsReceived : Nat := 0
  lags : List (Nat × Int) := []
  resyncing : List (Nat × Nat) := []
  heartbeatAt : Nat := 0
  rollbackTo : Nat := 0
  tableVersion : Nat := 0
  heard : List LedgerRecord := []
  sentMsgs : List LedgerMsg := []
deriving DecidableEq, Repr

/-- Quay-fabric packets sent, with their ports, sequence numbers by flow, packets already seen, far ends of trained ports,
and the count of discarded packets (R294, R295). -/
structure Fabric where
  discarded : Nat := 0
  sent : List (Nat × BitVec 256 × List Byte) := []
  nextSeq : List (Nat × Nat) := []
  seen : List (Nat × Nat × Nat) := []
  peers : List (Nat × Nat × Nat) := []
deriving DecidableEq, Repr

/-! ### Bring-up, ports, overlay -/

/-- A stage report (R323). -/
structure StageReport where
  stage : Nat := 0
  result : Nat := 0xFF
  detail : Nat := 0
  start : Nat := 0
  duration : Nat := 0
  tested : Nat := 0
  fenced : Nat := 0
  passing : Nat := 0
  firstFailing : Nat := 0xFFFFFFFF
deriving DecidableEq, Repr

/-- A test during work (R342). -/
structure TestRun where
  tag : Nat
  kind : Nat
  tiles : BitVec 64
  port : Nat
  quay : Nat
  stack : Nat
  start : Nat
deriving DecidableEq, Repr

/-- A finished test (R342 result). -/
structure TestResult where
  tag : Nat
  kind : Nat
  outcome : Nat
  tested : Nat
  fenced : Nat
  start : Nat
  finish : Nat
deriving DecidableEq, Repr

/-- The saved results record (R326). -/
structure ResultsRecord where
  written : Nat
  digest : BitVec 512
  inputs : BitVec 512
  pll : List Nat
  minMv : List Nat
  margins : List Nat
  lanes : Tbl Nat
deriving DecidableEq, Repr

/-- A manifest or overlay entry (R331). -/
structure Fence where
  cls : Nat
  origin : Nat
  flags : Nat
  unit : Nat
  utc : Nat
  quaySerial : Nat
deriving DecidableEq, Repr

/-- Bring-up state (R320-R326). `form`: 0 cold, 1 fast, 2 deep-park exit. `pll`, `minMv`, `margins`: the stored results of each
tile, tile and stack; `noted`: overlay units whose passing test this start has noted; `powered`: quay DRAM lost
its content; `absent`: quays whose fuse record S1 could not read; `service`: the saved settings of the service ports, 64 B each (R334). -/
structure BringUp where
  active : Bool := true
  stage : Nat := 0
  stopped : Bool := false
  form : Nat := 0
  coldS5 : Bool := false
  moduleReset : Bool := false
  startAt : Nat := 0
  stageAt : Nat := 0
  reports : Tbl StageReport := []
  results : Option ResultsRecord := none
  s4At : Nat := 0
  pll : List Nat := []
  minMv : List Nat := []
  margins : List Nat := []
  noted : List (Nat × Nat) := []
  tests : List TestRun := []
  finished : List TestResult := []
  recon : Tbl (List Nat) := []
  loader : Bool := false
  powered : Bool := true
  absent : List Nat := []
  filledAt : Nat := 0
  service : List Byte := []
deriving DecidableEq, Repr

/-- Fuse manifest, soft-fuse overlay and spare map (R327-R332). -/
structure Overlay where
  fuses : List Fence := []
  entries : List Fence := []
  startFences : List Fence := []
  pending : List (Nat × Fence) := []
  spare : Tbl Nat := []
  measured : Tbl Nat := []
  unusable : List Nat := []
  shiftsSinceVerify : List Nat := []
  fuseCrc : BitVec 32 := 0
deriving DecidableEq, Repr

/-- A Lulis port record (R336, R337). Outcome: 0 DOWN, 1 NARROW, 2 DEGRADED, 3 FULL, 4 TRAINING, 5 FUSED_OFF. Training under way:
0 none, 1 fast, 2 full, 3 bulk. `move` is a data wavelength that the governor moves at the next mark; error ratios are in 10^-9. -/
structure Port where
  outcome : Nat := 0
  lanes : Nat := 0
  map : Nat := 0
  calib : Nat := 0xFF
  retrainPending : Bool := false
  retrains : Nat := 0
  latency16 : Nat := 0
  badCounts : Tbl Nat := []
  removed : List Nat := []
  hold : Bool := false
  left : Bool := false
  downSince : Nat := 0
  trainKind : Nat := 0
  pinnedDown : Bool := false
  move : Option Nat := none
  worst9 : Nat := 0
deriving DecidableEq, Repr

/-! ### Events, thermal, module reset -/

/-- An event log entry (R377). -/
structure Event where
  time : Nat
  seq : Nat
  severity : Nat
  code : Nat
  unit : Nat
  detail : Nat
  utc : Nat
deriving DecidableEq, Repr

/-- The event log (R377, R380). -/
structure EventLog where
  entries : List Event := []
  seq : Nat := 0
  overwritten : Nat := 0
  flash : List Event := []
  buffered : List Event := []
deriving DecidableEq, Repr

/-- A journal entry of the controller (R376): kind of decision, unit, effect time, done. -/
structure JournalEntry where
  kind : Nat
  unit : Nat
  effect : Nat
  done : Bool
deriving DecidableEq, Repr

/-- The controller (R350, R351, R376). -/
structure Controller where
  journal : List JournalEntry := []
  restarting : Bool := false
  dropped : Nat := 0
  mresetAt : Option Nat := none
  mresetDraining : Bool := false
  expired : Bool := false
  applying : Bool := false
  up : Bool := false
deriving DecidableEq, Repr

/-- Module thermal governor (R368, R369). -/
structure Thermal where
  inlet16 : Int := 0
  request : Nat := 0
  below : Nat := 0
  lastEval : Nat := 0
deriving DecidableEq, Repr

/-! ### Sivar -/

/-- The answer of the last Sivar operation or slot: the model's own field (log 20). -/
structure Resp where
  status : Nat := 0
  flags : Nat := 0
  ticket : Nat := 0
  data : List Byte := []
  executed : Nat := 0
deriving DecidableEq, Repr

/-- A session (R401, R403, R404). `phase`: 1 challenged, 2 open. -/
structure Session where
  id : Nat
  slot : Nat
  role : Nat
  phase : Nat
  maxDatagram : Nat
  notify : Bool
  transcript : BitVec 512
  challengedAt : Nat
  acceptedAt : Nat
  lastValid : Nat
  highest : Nat
  accepted : List Nat
  kept : List (Nat × Resp)
  staging : List (Nat × List Host.Cell)
  notifySeq : Nat
  notified : List Nat
deriving DecidableEq, Repr

/-- A ticket (R405). -/
structure Ticket where
  number : Nat
  index : Nat
  sub : Nat
  done : Bool
  status : Nat
  taken : Nat
  finish : Nat
  journalled : Bool
deriving DecidableEq, Repr

/-- The open draft (R393). -/
structure Draft where
  owner : Client
  values : List (Nat × List Byte)
deriving DecidableEq, Repr

/-- Configuration and protocol state (15). Keys of objects are index * 256 + sub. -/
structure Sivar where
  config : Tbl (List Byte) := []
  previous : Tbl (List Byte) := []
  version : Nat := 1
  prevVersion : Nat := 0
  draft : Option Draft := none
  report : Nat × Nat × Nat := (0, 0, 0)
  volatileVals : Tbl (List Byte) := []
  tickets : List Ticket := []
  nextTicket : Nat := 1
  sessions : Tbl (Option Session) := []
  nextSession : Nat := 1
  dropped : Nat := 0
  primary : Nat := 0
  offerUntil : Option Nat := none
  staging : List (Nat × Nat × List Host.Cell) := []
  turn : Nat := 0
deriving DecidableEq, Repr

/-- Request slot states (R408). -/
structure Slot where
  state : Nat := 0
  interrupt : Bool := false
  executed : Nat := 0
  status : Nat := 0
  tag : Nat := 0
  response : List Byte := []
deriving DecidableEq, Repr

/-- A PCIe host port (R407-R411, R425-R427). -/
structure HostPort where
  up : Bool := false
  width : Nat := 0
  rate : Nat := 0
  flit : Bool := false
  ide : Bool := false
  aerCorrectable : Nat := 0
  aerUncorrectable : Nat := 0
  surpriseDown : Nat := 0
  reportDue : Bool := false
  downSince : Nat := 0
  slots : Tbl Slot := []
  lastSlot : Nat := 127
  msix : List Nat := []
deriving DecidableEq, Repr

/-! ### Power and firmware -/

/-- Power states (R418); PARKED and ACTIVE differ only in load, so ACTIVE is read from the load. -/
inductive PowerState where | off | standby | bringingUp | parked | deepPark | transition
deriving DecidableEq, Repr

/-- Power, sideband and cooling (R416-R432). -/
structure Power where
  state : PowerState := .bringingUp
  input : Bool := true
  lossUtc : Nat := 0
  lossMv : Nat := 0
  lossState : Nat := 0
  lossKind : Nat := 0
  pwrEn : Bool := true
  modResetN : Bool := true
  pumpOk : Bool := false
  pumpOkSince : Nat := 0
  pumpLostAt : Nat := 0
  pps : Bool := false
  ready : Bool := false
  thermAlert : Bool := false
  alertClearAt : Nat := 0
  draining : Bool := false
  transitionAt : Nat := 0
deriving DecidableEq, Repr

/-- Firmware, fuses, attestation (17). -/
structure Firmware where
  counter : Nat := 0
  vendorHash : BitVec 512 := 0
  ownerFused : Bool := false
  ownerHash : BitVec 512 := 0
  stored : Option FirmwareImage := none
  running : Option FirmwareImage := none
  stagingState : Nat := 0
  stagingDetail : Nat := 0
  staging : Option FirmwareImage := none
  applyTicket : Nat := 0
  quayDigest : BitVec 512 := 0
  opticalDigest : BitVec 512 := 0
  reports : List (Client × List Byte) := []
  identityKey : List Byte := []
  chain : List Byte := []
deriving DecidableEq, Repr

/-- Identity of the module (R2, R8, R92, R413). Ordering code: 0 F-1536, 1 F-1152, 2 D-1536, 3 D-1152. -/
structure Identity where
  code : Nat := 0
  serial : List Byte := []
  waferStepping : List Byte := []
  quayStepping : List (List Byte) := []
  vectorRevision : Nat := 0
  fusedStacks : List Nat := []
  quaySerials : List Nat := [0, 0, 0, 0]
deriving DecidableEq, Repr

/-! ### The whole module -/

/-- The state of the module. -/
structure State where
  pending : List Instr
  now : Nat
  freeCtr : Nat
  resp : Resp
  link : Option Row
  net : List NetPacket
  transit : List Flit
  transitUsed : List (Nat × Nat × Bool × Nat)
  ident : Identity
  cores : Tbl Core
  health : Tbl CoreHealth
  pad : List Host.Cell
  marks : Tbl (Option Mark)
  gantries : Tbl Gantry
  tiles : Tbl Tile
  boundaries : Tbl Int
  routersDown : List Nat
  parts : Tbl Partition
  ctl : Tbl PartControl
  slots : Tbl ImageSlot
  tide : Tide
  rtc : Rtc
  quays : Tbl Quay
  dram : List Host.Cell
  flash : List Host.Cell
  quayMarks : Tbl (Option Mark)
  tensors : Tbl Tensor
  intakes : Tbl Intake
  govs : Tbl Governor
  opt : Optimizer
  pairs : Tbl Pair
  ledger : Ledger
  fabric : Fabric
  bring : BringUp
  overlay : Overlay
  ports : Tbl Port
  log : EventLog
  mc : Controller
  thermal : Thermal
  sivar : Sivar
  hosts : Tbl HostPort
  mail : List Host.Cell
  mailMarks : Tbl (Option Mark)
  power : Power
  fw : Firmware
deriving DecidableEq, Repr

/-- The module at the release of MOD_RESET_N with PWR_EN high (R432): bring-up begins at S0 (R320), nothing has
run, saved objects have their defaults, no memory byte is listed (log 14, log 15, log 16). -/
def State.reset : State where
  pending := []
  now := 0
  freeCtr := 0
  resp := {}
  link := none
  net := []
  transit := []
  transitUsed := []
  ident := {}
  cores := []
  health := []
  pad := []
  marks := []
  gantries := []
  tiles := []
  boundaries := []
  routersDown := []
  parts := []
  ctl := []
  slots := []
  tide := {}
  rtc := {}
  quays := []
  dram := []
  flash := []
  quayMarks := []
  tensors := []
  intakes := []
  govs := []
  opt := {}
  pairs := []
  ledger := {}
  fabric := {}
  bring := {}
  overlay := {}
  ports := []
  log := {}
  mc := {}
  thermal := {}
  sivar := {}
  hosts := []
  mail := []
  mailMarks := []
  power := {}
  fw := {}

end Sys2Proof.Machine
end

