-- ==== Sys2Proof/Machine/Flags.lean ====
section
/-! DEFINITION. The numbered results of the machine: status codes (R387), event codes (R379), schedule fault
causes (R46). -/

namespace Sys2Proof.Machine

/-! ### Status codes of a Sivar operation (R387) -/

/-- Done, or accepted with a ticket (R387). -/
def stOk : Nat := 0x0000
/-- E_INDEX (R387). -/
def stIndex : Nat := 0x0101
/-- E_SUBINDEX (R387). -/
def stSubindex : Nat := 0x0102
/-- E_TYPE (R387). -/
def stType : Nat := 0x0103
/-- E_RANGE (R387). -/
def stRange : Nat := 0x0104
/-- E_ACCESS (R387). -/
def stAccess : Nat := 0x0105
/-- E_STATE (R387). -/
def stState : Nat := 0x0106
/-- E_BUSY (R387). -/
def stBusy : Nat := 0x0107
/-- E_FROZEN (R387). -/
def stFrozen : Nat := 0x0108
/-- E_VERSION (R387). -/
def stVersion : Nat := 0x0109
/-- E_ALIGN (R387). -/
def stAlign : Nat := 0x010A
/-- E_AUTH (R387). -/
def stAuth : Nat := 0x010B
/-- E_NOSPARE (R387). -/
def stNospare : Nat := 0x010C
/-- E_CAPACITY (R387). -/
def stCapacity : Nat := 0x010D
/-- E_SIGNATURE (R387). -/
def stSignature : Nat := 0x010E
/-- E_TIMEOUT (R387). -/
def stTimeout : Nat := 0x010F

/-! ### Event codes (R379) -/

/-- STAGE_STOP. -/
def evStageStop : Nat := 0x0001
/-- STAGE_DEGRADED. -/
def evStageDegraded : Nat := 0x0002
/-- MODULE_RESET. -/
def evModuleReset : Nat := 0x0003
/-- WATCHDOG. -/
def evWatchdog : Nat := 0x0004
/-- OVERLAY_FULL. -/
def evOverlayFull : Nat := 0x0005
/-- TIDE_STATE. -/
def evTideState : Nat := 0x0010
/-- STRETCH. -/
def evStretch : Nat := 0x0011
/-- SCHEDULE_FAULT. -/
def evScheduleFault : Nat := 0x0100
/-- TIDE_OVERRUN. -/
def evTideOverrun : Nat := 0x0101
/-- CORE_DEAD. -/
def evCoreDead : Nat := 0x0102
/-- ROUTER_DEAD. -/
def evRouterDead : Nat := 0x0103
/-- BOUNDARY_PHASE. -/
def evBoundaryPhase : Nat := 0x0104
/-- MULTICAST_STALL. -/
def evMulticastStall : Nat := 0x0105
/-- GANTRY_ORPHAN. -/
def evGantryOrphan : Nat := 0x0106
/-- CE_THRESHOLD. -/
def evCeThreshold : Nat := 0x0107
/-- SCRUB_UNCORRECTABLE. -/
def evScrubUncorrectable : Nat := 0x0108
/-- CONTROLLER_LOST. -/
def evControllerLost : Nat := 0x0109
/-- TILE_SHED. -/
def evTileShed : Nat := 0x010A
/-- TIDE_FREE. -/
def evTideFree : Nat := 0x010B
/-- STRICT_REFUSED. -/
def evStrictRefused : Nat := 0x010C
/-- TILE_UNSHED. -/
def evTileUnshed : Nat := 0x010D
/-- FORMAT_CHANGE. -/
def evFormatChange : Nat := 0x0200
/-- STASH_DECISION. -/
def evStashDecision : Nat := 0x0201
/-- STASH_OVERFLOW. -/
def evStashOverflow : Nat := 0x0202
/-- HARD_PATH. -/
def evHardPath : Nat := 0x0203
/-- LOGITS_LATE. -/
def evLogitsLate : Nat := 0x0204
/-- UNPAIRED. -/
def evUnpaired : Nat := 0x0205
/-- MODE_CHANGE. -/
def evModeChange : Nat := 0x0206
/-- PREEMPT_DEFERRED. -/
def evPreemptDeferred : Nat := 0x0207
/-- FETCH_FAULT. -/
def evFetchFault : Nat := 0x0300
/-- FLASH_PAGE. -/
def evFlashPage : Nat := 0x0301
/-- TILE_DAMAGED. -/
def evTileDamaged : Nat := 0x0302
/-- FRAME_DISCARDED. -/
def evFrameDiscarded : Nat := 0x0303
/-- FLASH_TENSOR_DAMAGED. -/
def evFlashTensorDamaged : Nat := 0x0304
/-- UPDATE_SKIPPED. -/
def evUpdateSkipped : Nat := 0x0305
/-- PRECOND_FALLBACK. -/
def evPrecondFallback : Nat := 0x0306
/-- PORT_OUTCOME. -/
def evPortOutcome : Nat := 0x0400
/-- COLUMN_UNUSABLE. -/
def evColumnUnusable : Nat := 0x0401
/-- FENCED. -/
def evFenced : Nat := 0x0402
/-- OVERLAY_NOTE. -/
def evOverlayNote : Nat := 0x0403
/-- SPARE_SUBSTITUTED. -/
def evSpareSubstituted : Nat := 0x0500
/-- BERTH_VARIANT. -/
def evBerthVariant : Nat := 0x0501
/-- REPLACED. -/
def evReplaced : Nat := 0x0502
/-- NO_RECOVERY. -/
def evNoRecovery : Nat := 0x0503
/-- RELAUNCH. -/
def evRelaunch : Nat := 0x0504
/-- PLACEMENT_RESTORABLE. -/
def evPlacementRestorable : Nat := 0x0505
/-- SHARD_UNMIRRORED. -/
def evShardUnmirrored : Nat := 0x0600
/-- MIRROR_MISMATCH. -/
def evMirrorMismatch : Nat := 0x0601
/-- LEDGER_HALT. -/
def evLedgerHalt : Nat := 0x0602
/-- LEDGER_HALLS. -/
def evLedgerHalls : Nat := 0x0603

/-! ### Schedule fault causes (R46) -/

/-- The 4-bit cause code. -/
def Cause.code : Cause → Nat
  | .sbHazard => 1
  | .sbFull => 2
  | .intraBundle => 3
  | .rowRange => 4
  | .dmaPending => 5
  | .poison => 6
  | .istoreEcc => 7
  | .windowArm => 8

end Sys2Proof.Machine
end

