-- ==== Sys2Proof/Config.lean ====
section
/-! DEFINITION. What the spec leaves open or defines elsewhere, as constants with no body: the free values,
the transcendental functions (R104) and the cryptographic functions of outside standards. -/

namespace Sys2Proof.Config

/-- A free bit: which of several outcomes the spec leaves open (log 9). First argument: the free counter. -/
opaque freeBool : Nat → Nat → Bool

/-- A free byte: content the spec calls undefined (R41, R191; log 7). Arguments: free counter, place. -/
opaque freeByte : Nat → Nat → Byte

/-- A free FP32 word: a value the spec calls undefined (R72, R94; log 8). -/
opaque freeF32 : Nat → Nat → F32

/-- A free natural number: a count or a delay the spec does not fix (log 8). -/
opaque freeNat : Nat → Nat → Nat

/-- The cycles that one group of elements of the vector unit or the springbok path waits for its bank (R33, R78, R105): fixed
by the schedule and open in the spec. Arguments: what fixes the schedule (the digest of the image), the core, the cycle since
the launch mark, the group (log 11). -/
opaque laneWait : Nat → Nat → Nat → Nat → Nat

/-- The cycles in which one of the array's own reads or writes is not served during a pass, and the cycle of the pass before
the first of them (R70): fixed by the schedule and open in the spec. Arguments as `laneWait`, then 0 for the count and 1 for
the place (log 70). -/
opaque arrayClash : Nat → Nat → Nat → Nat → Nat

/-- A free 64-bit word. -/
opaque freeWord : Nat → Nat → BitVec 64

/-- exp2 within 1 ulp (R104), for inputs outside its table of special inputs (log 10). -/
opaque exp2Core : F32 → F32

/-- Tokens and slices of a student's core in a landing, by image (R283; log 63). -/
opaque landingTokens : Nat → Nat
opaque landingSlices : Nat → Nat

/-- exp within 2 ulp (R104). -/
opaque expCore : F32 → F32

/-- log2 within 1 ulp (R104). -/
opaque log2Core : F32 → F32

/-- ln within 2 ulp (R104). -/
opaque lnCore : F32 → F32

/-- Reciprocal within 1 ulp (R104). -/
opaque recipCore : F32 → F32

/-- Reciprocal square root within 1 ulp (R104). -/
opaque rsqrtCore : F32 → F32

/-- Sigmoid within 2 ulp (R104). -/
opaque sigmoidCore : F32 → F32

/-- SiLU within 3 ulp (R104). -/
opaque siluCore : F32 → F32

/-- SHA3-512 of a byte string, a standard outside the spec (log 12). -/
opaque sha3 : List Byte → BitVec 512

/-- ML-DSA-87 verification: public key, message digest, signature (log 12). -/
opaque mldsaVerify : List Byte → BitVec 512 → List Byte → Bool

/-- ML-DSA-87 signature by the device identity key over a digest (R401, R442; log 12). -/
opaque identitySign : BitVec 512 → List Byte

/-- KMAC256 tag of a message under the key of a session and direction (R401; log 12). -/
opaque kmac : Nat → Nat → List Byte → BitVec 256

/-- The ML-KEM-1024 ciphertext that answers an encapsulation key (R401; log 12). -/
opaque kemEncaps : Nat → List Byte → List Byte

/-- The fixed hash by which a quay picks one of the allowed ports of a flow (R295 gives no function; log 8). -/
opaque flowHash : Nat → Nat → Nat → Nat → Nat

/-- The governor, tap, window and tensor sections of an image's bytes, as the fields of an image that hold them; none where they
cannot be read. The spec does not give their framing (log 13); every other field is decoded by `imageFrom`. -/
opaque imageOf : List Byte → Option Image

end Sys2Proof.Config
end

