-- ==== Sys2Proof/Machine/Ops.lean ====
section
/-! DEFINITION. The shared operations: sparse tables, bit fields, byte strings, byte memory, unit numbers and
placement, configuration values, the event log, the journal and the clock. -/

namespace Sys2Proof.Machine

/-! ### Outcomes -/

/-- The outcome type of every meaning. -/
abbrev Out := Host.Outcome State Fault Refusal

/-! ### Sparse tables -/

/-- The value listed under a key. -/
def tfind {α : Type} : List (Nat × α) → Nat → Option α
  | [], _ => none
  | (k', v) :: m, k => if k' = k then some v else tfind m k

/-- The value under a key, or what an absent key reads as. -/
def tget {α : Type} (d : α) (m : List (Nat × α)) (k : Nat) : α := (tfind m k).getD d

/-- Lists a value under a key, keeping the keys rising. -/
def tset {α : Type} : List (Nat × α) → Nat → α → List (Nat × α)
  | [], k, v => [(k, v)]
  | (k', v') :: m, k, v =>
    if k' = k then (k, v) :: m
    else if k < k' then (k, v) :: (k', v') :: m
    else (k', v') :: tset m k v

/-- Removes a key. -/
def tdel {α : Type} (m : List (Nat × α)) (k : Nat) : List (Nat × α) := m.filter (fun e => e.1 != k)

/-- Writes a table: the value an absent key reads as is not listed. -/
def tput {α : Type} [DecidableEq α] (d : α) (m : List (Nat × α)) (k : Nat) (v : α) : List (Nat × α) :=
  if v = d then tdel m k else tset m k v

/-- Changes the value under a key. -/
def tmod {α : Type} [DecidableEq α] (d : α) (m : List (Nat × α)) (k : Nat) (f : α → α) : List (Nat × α) :=
  tput d m k (f (tget d m k))

/-- Every key is above a bound and the keys rise strictly. -/
def risingFrom {α : Type} : Nat → List (Nat × α) → Bool
  | _, [] => true
  | b, (k, _) :: m => decide (b ≤ k) && risingFrom (k + 1) m

/-- The keys rise strictly. -/
def rising {α : Type} (m : List (Nat × α)) : Bool := risingFrom 0 m

/-! ### Byte memory: an address that is not listed holds undefined content (R41, R191; log 7) -/

/-- The canonical form of a byte memory: addresses strictly rising. No unlisted address has a value, so
no entry can equal one. -/
def Memory.wf (m : List Host.Cell) : Bool := rising m

/-- The byte at an address, or none where nothing has written it. -/
def readByte (m : List Host.Cell) (a : Nat) : Option Byte := tfind m a

/-- Writes one byte. -/
def writeByte (m : List Host.Cell) (a : Nat) (b : Byte) : List Host.Cell := tset m a b

/-- Writes a byte string at an address. -/
def writeBytes (m : List Host.Cell) : Nat → List Byte → List Host.Cell
  | _, [] => m
  | a, b :: bs => writeBytes (writeByte m a b) (a + 1) bs

/-- Makes the content of [a, a + n) undefined. -/
def forget (m : List Host.Cell) (a n : Nat) : List Host.Cell :=
  m.filter (fun e => decide (e.1 < a ∨ a + n ≤ e.1))

/-- The bytes from an address, undefined ones delivered as free values of counter fc. -/
def readBytes (fc : Nat) (m : List Host.Cell) (a n : Nat) : List Byte :=
  (List.range n).map (fun i => (readByte m (a + i)).getD (Config.freeByte fc (a + i)))

/-- The bytes from an address, unlisted ones as zero (mailboxes, whose rows are zeros: R414). -/
def readZeroed (m : List Host.Cell) (a n : Nat) : List Byte :=
  (List.range n).map (fun i => (readByte m (a + i)).getD 0)

/-- Drops the keys of the 8-byte words that lie wholly in [a, a + n): a whole write gives a word valid check bits (R37). -/
def clearWords {α : Type} (m : List (Nat × α)) (a n : Nat) : List (Nat × α) :=
  m.filter (fun e => decide (8 * e.1 < a ∨ a + n < 8 * e.1 + 8))

/-! ### Bit fields and byte strings -/

/-- Bits [hi:lo] of a word. -/
def bits {w : Nat} (x : BitVec w) (hi lo : Nat) : Nat := (x.toNat >>> lo) % 2 ^ (hi + 1 - lo)

/-- Bit i of a word. -/
def bitAt {w : Nat} (x : BitVec w) (i : Nat) : Bool := x.getLsbD i

/-- Little-endian value of a byte string (R80, R382). -/
def leNat : List Byte → Nat
  | [] => 0
  | b :: bs => b.toNat + 256 * leNat bs

/-- A number as n little-endian bytes. -/
def leBytes : Nat → Nat → List Byte
  | 0, _ => []
  | n + 1, v => BitVec.ofNat 8 v :: leBytes n (v / 256)

/-- A byte string cut or padded with zeros to n bytes. -/
def fitBytes (n : Nat) (bs : List Byte) : List Byte := bs.take n ++ List.replicate (n - bs.length) 0

/-- Bytes [lo, lo + n) of a byte string as a number. -/
def leAt (bs : List Byte) (lo n : Nat) : Nat := leNat ((bs.drop lo).take n)

/-- Two's complement value of n low bits. -/
def signedOf (n v : Nat) : Int := if v % 2 ^ n < 2 ^ (n - 1) then (v % 2 ^ n : Nat) else (v % 2 ^ n : Nat) - (2 ^ n : Nat)

/-- Low n bits of an integer's two's complement. -/
def unsignedOf (n : Nat) (v : Int) : Nat := (v % (2 ^ n : Nat)).toNat

/-- Number of set bits among the low n. -/
def popCount (n v : Nat) : Nat := ((List.range n).filter (fun i => v.testBit i)).length

/-- Upper rounding of a quotient. -/
def ceilDiv (a b : Nat) : Nat := (a + b - 1) / b

/-- Replaces entry i of a list. -/
def setAt {α : Type} (l : List α) (i : Nat) (v : α) : List α := l.set i v

/-- Adds a value to a list once. -/
def addOnce {α : Type} [DecidableEq α] (l : List α) (a : α) : List α := if a ∈ l then l else l ++ [a]

/-- A counter of n bits that saturates (R50). -/
def satAdd (n a b : Nat) : Nat := min (2 ^ n - 1) (a + b)

/-! ### Tide time (R10, R11) -/

/-- Fast cycles in a tick. -/
def cyPerTick : Nat := 1500

/-- Tick of a time in cycles. -/
def tickOf (t : Nat) : Nat := t / cyPerTick

/-- Offset within the tick. -/
def offsetOf (t : Nat) : Nat := t % cyPerTick

/-- The 64-bit TIME encoding of a time in cycles. -/
def timeWord (t : Nat) : BitVec 64 := BitVec.ofNat 64 (tickOf t * 2048 + offsetOf t)

/-- The time in cycles of a TIME encoding. -/
def timeOfWord (w : BitVec 64) : Nat := bits w 63 11 * cyPerTick + bits w 10 0

/-- A TIME encoding is legal when its offset is below 1,500 (R11). -/
def timeLegal (w : BitVec 64) : Bool := decide (bits w 10 0 < 1500)

/-- The module reaches a later instant: tide time moves on, and the real-time clock with it (R182). The free-running clock may
drift from tide time by up to 20 ppm (R446); the model's drift is 0 (DESIGN CHOICE, log 74). -/
def State.advance (s : State) (t : Nat) : State :=
  { s with
    now := max s.now t
    rtc := { s.rtc with units := s.rtc.units + (t - s.now) * (256 + s.tide.stretch) } }

/-- UTC in us of the MC's real-time clock, 0 while it holds no valid time (R446). -/
def State.utc (s : State) : Nat := if s.rtc.valid then s.rtc.units / 384000 else 0

/-! ### Units and placement -/

/-- D ordering codes (R2). -/
def State.isD (s : State) : Bool := decide (2 ≤ s.ident.code)

/-- A logical column that the ordering code has (R3). -/
def columnExists (s : State) (x : Nat) : Bool := decide (x < 192) && (!s.isD || decide (x % 24 < 22))

/-- A core index that the ordering code has (R3, R12). -/
def coreExists (s : State) (c : Nat) : Bool := decide (c < 27648) && columnExists s (c % 192)

/-- Logical x of a core index. -/
def coreX (c : Nat) : Nat := c % 192

/-- Logical y of a core index. -/
def coreY (c : Nat) : Nat := c / 192

/-- Tile index of logical coordinates: 24 by 24 logical sites a tile, index ty * 8 + tx. -/
def tileOf (x y : Nat) : Nat := (y / 24) * 8 + x / 24

/-- Tile index of a core. -/
def coreTile (c : Nat) : Nat := tileOf (coreX c) (coreY c)

/-- Breakwater unit number over both edges (R328): 96 * edge + u. -/
def unitOf (x : Nat) (north : Bool) : Nat := (if north then 96 else 0) + x / 2

/-- A breakwater unit that the ordering code has (R4). -/
def unitExists (s : State) (u : Nat) : Bool := decide (u < 192) && (!s.isD || decide (u % 12 ≠ 11))

/-- A fabric port number fused off in D codes (R5), by port index (R335). -/
def portFused (s : State) (i : Nat) : Bool :=
  s.isD && decide (240 ≤ i ∧ i < 496) && decide ((i - 240) % 128 % 4 = 3)

/-! ### Configuration: the one home of every saved object (R391) -/

/-- The key of an object. -/
def okey (idx sub : Nat) : Nat := idx * 256 + sub

/-- Default value of a saved scalar object, as a number; 0 where its table gives 0. -/
def cfgDefault (key : Nat) : Nat :=
  let idx := key / 256
  let sub := key % 256
  if 0x2100 ≤ idx ∧ idx ≤ 0x2107 ∧ sub = 5 then 0xFF
  else if key = okey 0x3100 0x10 then 2441
  else if key = okey 0x3100 0x11 then 16
  else if key = okey 0x4000 8 then 0xFFFFFFFF
  else if key = okey 0x4000 0x0D then 0xFFFF
  else if idx = 0x6200 ∧ 2 ≤ sub ∧ sub ≤ 9 then 0xFF
  else if key = okey 0x8000 5 then 3
  else if key = okey 0x9000 5 then 95
  else 0

/-- The value of a saved scalar object in a configuration. -/
def cfgOf (cfg : Tbl (List Byte)) (idx sub : Nat) : Nat :=
  match tfind cfg (okey idx sub) with
  | some v => leNat v
  | none =>
    if okey idx sub = okey 0x4000 3 then
      (match tfind cfg (okey 0x1000 0x0A) with | some v => leNat v | none => 0)
    else cfgDefault (okey idx sub)

/-- The value of a saved scalar object now in force. -/
def State.cfg (s : State) (idx sub : Nat) : Nat := cfgOf s.sivar.config idx sub

/-- The bytes of a saved BLOB object now in force; empty by default. -/
def State.cfgBytes (s : State) (idx sub : Nat) : List Byte := tget [] s.sivar.config (okey idx sub)

/-- The module's own number (`0x1000.0A`). -/
def State.moduleNumber (s : State) : Nat := s.cfg 0x1000 0x0A

/-- First tile column of partition p (`0x210p.02`). -/
def State.firstCol (s : State) (p : Nat) : Nat := s.cfg (0x2100 + p) 2

/-- Width of partition p in tile columns (`0x210p.03`); 0 is undefined. -/
def State.widthOf (s : State) (p : Nat) : Nat := s.cfg (0x2100 + p) 3

/-- A tile column of the band of partition p. -/
def State.bandHas (s : State) (p tx : Nat) : Bool :=
  decide (s.firstCol p ≤ tx ∧ tx < s.firstCol p + s.widthOf p)

/-- The defined partition that holds a tile column (R163). -/
def State.partOfColumn (s : State) (tx : Nat) : Option Nat :=
  (List.range 8).find? (fun p => s.bandHas p tx)

/-- The partition that holds a core. -/
def State.partOfCore (s : State) (c : Nat) : Option Nat := s.partOfColumn (coreX c / 24)

/-! ### Parts of the state -/

def State.core (s : State) (c : Nat) : Core := tget {} s.cores c
def State.setCore (s : State) (c : Nat) (v : Core) : State := { s with cores := tput {} s.cores c v }
def State.heal (s : State) (c : Nat) : CoreHealth := tget {} s.health c
def State.setHeal (s : State) (c : Nat) (v : CoreHealth) : State := { s with health := tput {} s.health c v }
def State.part (s : State) (p : Nat) : Partition := tget {} s.parts p
def State.setPart (s : State) (p : Nat) (v : Partition) : State := { s with parts := tput {} s.parts p v }
def State.ctlOf (s : State) (p : Nat) : PartControl := tget {} s.ctl p
def State.setCtl (s : State) (p : Nat) (v : PartControl) : State := { s with ctl := tput {} s.ctl p v }
def State.tile (s : State) (t : Nat) : Tile := tget {} s.tiles t
def State.setTile (s : State) (t : Nat) (v : Tile) : State := { s with tiles := tput {} s.tiles t v }
def State.gantry (s : State) (x : Nat) : Gantry := tget {} s.gantries x
def State.setGantry (s : State) (x : Nat) (v : Gantry) : State := { s with gantries := tput {} s.gantries x v }
def State.slotOf (s : State) (k : Nat) : ImageSlot := tget {} s.slots k
def State.setSlot (s : State) (k : Nat) (v : ImageSlot) : State := { s with slots := tput {} s.slots k v }
def State.quay (s : State) (q : Nat) : Quay := tget {} s.quays q
def State.setQuay (s : State) (q : Nat) (v : Quay) : State := { s with quays := tput {} s.quays q v }
def State.tensor (s : State) (t : Nat) : Tensor := tget {} s.tensors t
def State.setTensor (s : State) (t : Nat) (v : Tensor) : State := { s with tensors := tput {} s.tensors t v }
def State.intake (s : State) (k : Nat) : Intake := tget {} s.intakes k
def State.setIntake (s : State) (k : Nat) (v : Intake) : State := { s with intakes := tput {} s.intakes k v }
def State.gov (s : State) (p : Nat) : Governor := tget {} s.govs p
def State.setGov (s : State) (p : Nat) (v : Governor) : State := { s with govs := tput {} s.govs p v }
def State.pair (s : State) (p : Nat) : Pair := tget {} s.pairs p
def State.setPair (s : State) (p : Nat) (v : Pair) : State := { s with pairs := tput {} s.pairs p v }
def State.port (s : State) (i : Nat) : Port := tget {} s.ports i
def State.setPort (s : State) (i : Nat) (v : Port) : State := { s with ports := tput {} s.ports i v }
def State.host (s : State) (i : Nat) : HostPort := tget {} s.hosts i
def State.setHost (s : State) (i : Nat) (v : HostPort) : State := { s with hosts := tput {} s.hosts i v }

/-- Takes a free value: the counter moves on. -/
def State.bump (s : State) : State := { s with freeCtr := s.freeCtr + 1 }

/-- The one condition on a core command's name: the core exists. -/
def onCore (s : State) (c : Nat) (k : State) : Out :=
  if coreExists s c then .next k else .fault .noSuchUnit

/-- The condition on a partition number. -/
def onPart (p : Nat) (k : State) : Out := if p < 8 then .next k else .fault .noSuchUnit

/-- The condition on a tile index. -/
def onTile (t : Nat) (k : State) : Out := if t < 48 then .next k else .fault .noSuchUnit

/-- The condition on a quay number. -/
def onQuay (q : Nat) (k : State) : Out := if q < 4 then .next k else .fault .noSuchUnit

/-- The condition on a logical column. -/
def onColumn (s : State) (x : Nat) (k : State) : Out :=
  if columnExists s x then .next k else .fault .noSuchUnit

/-- The condition on a Lulis port index (R335). -/
def onPort (i : Nat) (k : State) : Out := if i < 640 then .next k else .fault .noSuchUnit

/-- The condition on a host port number. -/
def onHost (i : Nat) (k : State) : Out := if i < 2 then .next k else .fault .noSuchUnit

/-! ### Event log (R377-R380) -/

/-- Severities (R378). -/
def sevInfo : Nat := 0
def sevAbsorbed : Nat := 1
def sevDegraded : Nat := 2
def sevFault : Nat := 3
def sevFatal : Nat := 4

/-- The oldest entry of the lowest severity leaves a full log (R380). -/
def dropLowest (es : List Event) : List Event :=
  let low := es.foldl (fun m e => min m e.severity) 4
  match es.findIdx? (fun e => e.severity == low) with
  | some i => es.eraseIdx i
  | none => es

/-- Appends one entry with the next sequence number, a copy to flash where it is severe, and its notifications (R377, R380, R406,
R411). -/
def State.append (s : State) (e0 : Event) : State :=
  let e : Event := { e0 with seq := (s.log.seq + 1) % 2 ^ 32 }
  let full := decide (4096 ≤ s.log.entries.length)
  let kept := if full then dropLowest s.log.entries else s.log.entries
  let es := kept ++ [e]
  let notify := decide (s.cfg 0x8000 5 ≤ e.severity)
  { s with
    log := { s.log with
             entries := es
             seq := e.seq
             overwritten := s.log.overwritten + (if full then 1 else 0)
             flash := if sevFault ≤ e.severity then es else s.log.flash }
    hosts := if notify then
        (List.range 2).foldl (fun h i =>
          let hp := tget {} h i
          if hp.up then tput {} h i { hp with msix := addOnce hp.msix 1 } else h) s.hosts
      else s.hosts
    sivar := if notify then
        { s.sivar with
          sessions := s.sivar.sessions.map (fun (k, o) => (k, o.map (fun ses =>
            if ses.notify && decide (ses.phase = 2) then
              { ses with notified := ses.notified ++ [e.seq], notifySeq := ses.notifySeq + 1 } else ses))) }
      else s.sivar }

/-- Records one event at its time, 0 before S8: below the lowest severity recorded it is dropped, and while the controller
restarts its unit buffers it (R376). -/
def State.eventAt (s : State) (time sev code unit detail : Nat) : State :=
  if sev < sevFault ∧ sev < s.cfg 0x8000 3 then s
  else
    let e : Event := { time := if s.bring.active && decide (s.bring.stage < 8) then 0 else time, seq := 0, severity := sev,
                       code := code, unit := unit, detail := detail, utc := s.utc }
    if s.mc.restarting then
      if s.log.buffered.length < 256 then { s with log := { s.log with buffered := s.log.buffered ++ [e] } }
      else { s with log := { s.log with overwritten := s.log.overwritten + 1 } }
    else s.append e

/-- Appends one entry at the present tide time. -/
def State.event (s : State) (sev code unit detail : Nat) : State := s.eventAt s.now sev code unit detail

/-! ### Controller journal (R18, R376) -/

/-- Journals a decision before it takes effect. -/
def State.journal (s : State) (kind unit effect : Nat) : State :=
  { s with mc := { s.mc with journal := s.mc.journal ++ [{ kind := kind, unit := unit, effect := effect, done := false }] } }

/-- Marks the journal entries of a kind and unit done. -/
def State.journalDone (s : State) (kind unit : Nat) : State :=
  { s with mc := { s.mc with journal := s.mc.journal.map (fun e =>
      if e.kind = kind ∧ e.unit = unit then { e with done := true } else e) } }

/-- The kinds of journalled decisions. -/
def jReset : Nat := 1
def jRecovery : Nat := 2
def jFormat : Nat := 3
def jStash : Nat := 4
def jHandoff : Nat := 5
def jApply : Nat := 6
def jFuse : Nat := 7
def jLaunch : Nat := 8
def jCheckpoint : Nat := 9
def jThermal : Nat := 10
def jPort : Nat := 11
def jLead : Nat := 12
def jResidency : Nat := 13

/-- A decision takes effect for a partition: the report of its present step lists it (R18, R20). -/
def State.decided (s : State) (p kind unit value choice : Nat) : State :=
  let ct := s.ctlOf p
  s.setCtl p { ct with decisions := ct.decisions ++ [{ kind := kind, unit := unit, value := value, choice := choice, time := s.now }] }

/-- A decision that is made at the mark at which it takes effect: journalled, listed, done (R18). -/
def State.decideNow (s : State) (p kind unit value choice : Nat) : State :=
  ((s.journal kind unit s.now).decided p kind unit value choice).journalDone kind unit

/-! ### The clock between commands (log 1) -/

/-- One fast cycle passes. -/
def State.idleCycle (s : State) : State := s.advance (s.now + 1)

end Sys2Proof.Machine
end

