-- ==== Sys2Proof/Machine/Numerics.lean ====
section
/-! DEFINITION. Number formats, exact arithmetic with one rounding, conversions, stochastic rounding, the
random generators and CRC-32C (R79-R90, R104, R143). -/

namespace Sys2Proof.Machine

/-! ### Exact values -/

/-- A value held exactly: not a number, an infinity, or a signed dyadic number (a zero keeps its sign). -/
inductive Fp where
  | nan
  | inf (neg : Bool)
  | fin (neg : Bool) (man : Nat) (exp : Int)
deriving DecidableEq, Repr

/-- A storage format (R79): exponent and mantissa bits, bias, largest finite magnitude, whether it has
infinities, its NaN pattern and the magnitude an infinity converts to (R85). -/
structure FpFormat where
  ebits : Nat
  mbits : Nat
  bias : Nat
  maxMag : Nat
  hasInf : Bool
  hasNan : Bool
  nanPat : Nat
  overMag : Nat
deriving DecidableEq, Repr

def fmtE4M3 : FpFormat := ⟨4, 3, 7, 0x7E, false, true, 0x7F, 0x7E⟩
def fmtE5M2 : FpFormat := ⟨5, 2, 15, 0x7B, true, true, 0x7E, 0x7C⟩
def fmtE2M1 : FpFormat := ⟨2, 1, 1, 7, false, false, 0, 7⟩
def fmtBF16 : FpFormat := ⟨8, 7, 127, 0x7F7F, true, true, 0x7FC0, 0x7F80⟩
def fmtF32 : FpFormat := ⟨8, 23, 127, 0x7F7FFFFF, true, true, 0x7FC00000, 0x7F800000⟩
def fmtF64 : FpFormat := ⟨11, 52, 1023, 0x7FEFFFFFFFFFFFFF, true, true, 0x7FF8000000000000, 0x7FF0000000000000⟩

/-- Bits below the sign. -/
def FpFormat.magBits (f : FpFormat) : Nat := f.ebits + f.mbits

/-- The exact value of a pattern (R79). -/
def decodeFp (f : FpFormat) (x : Nat) : Fp :=
  let neg := x.testBit f.magBits
  let mag := x % 2 ^ f.magBits
  let ef := mag >>> f.mbits
  let mf := mag % 2 ^ f.mbits
  if f.hasInf && decide (ef = 2 ^ f.ebits - 1) then (if mf = 0 then .inf neg else .nan)
  else if !f.hasInf && f.hasNan && decide (mag = f.nanPat) then .nan
  else if ef = 0 then .fin neg mf (1 - (f.bias : Int) - f.mbits)
  else .fin neg (2 ^ f.mbits + mf) ((ef : Int) - f.bias - f.mbits)

/-- The magnitude pattern nearest to man * 2^exp: to nearest-even without a draw (R83, R85), by R87 with one.
The pattern is not yet limited to the largest finite value. -/
def roundMag (f : FpFormat) (draw : Option Nat) (man : Nat) (exp : Int) : Nat :=
  if man = 0 then 0
  else
    let emin : Int := 1 - (f.bias : Int)
    let e := max ((Nat.log2 man : Int) + exp) emin
    let sh := exp - (e - f.mbits)
    let u :=
      if 0 ≤ sh then man <<< sh.toNat
      else
        let k := (-sh).toNat
        let lo := man >>> k
        let rem := man % 2 ^ k
        match draw with
        | none => if 2 ^ k < 2 * rem ∨ (2 ^ k = 2 * rem ∧ lo % 2 = 1) then lo + 1 else lo
        | some r => if 65536 ≤ rem * 65536 / 2 ^ k + r then lo + 1 else lo
    ((e - emin).toNat <<< f.mbits) + u

/-- Puts a sign above a magnitude. -/
def withSign (f : FpFormat) (neg : Bool) (mag : Nat) : Nat := if neg then 2 ^ f.magBits + mag else mag

/-- Rounds an exact value into a format, with the overflow and special columns of R85. -/
def roundFp (f : FpFormat) (draw : Option Nat) : Fp → Nat
  | .nan => f.nanPat
  | .inf neg => if f.hasInf then withSign f neg f.overMag else f.nanPat
  | .fin neg man exp =>
    let mag := roundMag f draw man exp
    withSign f neg (if f.maxMag < mag then f.overMag else mag)

/-- Signed mantissa. -/
def signedMan (neg : Bool) (man : Nat) : Int := if neg then -(man : Int) else man

/-- The exact sum; a zero sum is +0 unless both addends are -0 (R83, R84). -/
def addFp : Fp → Fp → Fp
  | .nan, _ => .nan
  | _, .nan => .nan
  | .inf a, .inf b => if a = b then .inf a else .nan
  | .inf a, .fin _ _ _ => .inf a
  | .fin _ _ _, .inf b => .inf b
  | .fin n1 m1 e1, .fin n2 m2 e2 =>
    let e := min e1 e2
    let v := signedMan n1 (m1 <<< (e1 - e).toNat) + signedMan n2 (m2 <<< (e2 - e).toNat)
    if v = 0 then .fin (n1 && n2 && decide (m1 = 0) && decide (m2 = 0)) 0 0 else .fin (decide (v < 0)) v.natAbs e

/-- The exact product; infinity times zero is not a number (R84). -/
def mulFp : Fp → Fp → Fp
  | .nan, _ => .nan
  | _, .nan => .nan
  | .inf a, .inf b => .inf (a != b)
  | .inf a, .fin n m _ => if m = 0 then .nan else .inf (a != n)
  | .fin n m _, .inf b => if m = 0 then .nan else .inf (n != b)
  | .fin n1 m1 e1, .fin n2 m2 e2 => .fin (n1 != n2) (m1 * m2) (e1 + e2)

/-- Scaling by a power of two. -/
def scaleFp (k : Int) : Fp → Fp
  | .nan => .nan
  | .inf a => .inf a
  | .fin n m e => .fin n m (e + k)

/-- Sign change. -/
def negFp : Fp → Fp
  | .nan => .nan
  | .inf a => .inf (!a)
  | .fin n m e => .fin (!n) m e

/-- A quotient kept to 64 bits and a sticky bit, enough for one correct rounding. -/
def divFp : Fp → Fp → Fp
  | .nan, _ => .nan
  | _, .nan => .nan
  | .inf _, .inf _ => .nan
  | .inf a, .fin n _ _ => .inf (a != n)
  | .fin n _ _, .inf b => .fin (n != b) 0 0
  | .fin n1 m1 e1, .fin n2 m2 e2 =>
    if m2 = 0 then (if m1 = 0 then .nan else .inf (n1 != n2))
    else if m1 = 0 then .fin (n1 != n2) 0 0
    else
      let s := 66 + Nat.log2 m2
      let q := (m1 <<< s) / m2
      let r := (m1 <<< s) % m2
      .fin (n1 != n2) (2 * q + (if r = 0 then 0 else 1)) (e1 - e2 - s - 1)

/-- Integer square root, one bit a round from bit i - 1 down. -/
def isqrtFrom (n : Nat) : Nat → Nat → Nat
  | 0, r => r
  | i + 1, r => if (r + 2 ^ i) * (r + 2 ^ i) ≤ n then isqrtFrom n i (r + 2 ^ i) else isqrtFrom n i r

/-- Integer square root. -/
def isqrt (n : Nat) : Nat := isqrtFrom n (Nat.log2 n / 2 + 1) 0

/-- A square root kept to more than 60 bits and a sticky bit. -/
def sqrtFp : Fp → Fp
  | .nan => .nan
  | .inf neg => if neg then .nan else .inf false
  | .fin neg m e =>
    if m = 0 then .fin neg 0 0
    else if neg then .nan
    else
      let odd := decide (e % 2 = 1)
      let m1 := (if odd then 2 * m else m) <<< 128
      let e1 := (if odd then e - 1 else e) - 128
      let r := isqrt m1
      .fin false (2 * r + (if r * r = m1 then 0 else 1)) (e1 / 2 - 1)

/-! ### FP32 and FP64 operations (R83) -/

def ofF32 (x : F32) : Fp := decodeFp fmtF32 x.toNat
def toF32 (v : Fp) : F32 := BitVec.ofNat 32 (roundFp fmtF32 none v)
def ofF64 (x : F64) : Fp := decodeFp fmtF64 x.toNat
def toF64 (v : Fp) : F64 := BitVec.ofNat 64 (roundFp fmtF64 none v)

def fadd (a b : F32) : F32 := toF32 (addFp (ofF32 a) (ofF32 b))
def fsub (a b : F32) : F32 := toF32 (addFp (ofF32 a) (negFp (ofF32 b)))
def fmul (a b : F32) : F32 := toF32 (mulFp (ofF32 a) (ofF32 b))
/-- a * b + c with one rounding (R84). -/
def ffma (a b c : F32) : F32 := toF32 (addFp (mulFp (ofF32 a) (ofF32 b)) (ofF32 c))
def fdiv (a b : F32) : F32 := toF32 (divFp (ofF32 a) (ofF32 b))
def fsqrt (a : F32) : F32 := toF32 (sqrtFp (ofF32 a))
def fneg (a : F32) : F32 := toF32 (negFp (ofF32 a))
def dadd (a b : F64) : F64 := toF64 (addFp (ofF64 a) (ofF64 b))
def dmul (a b : F64) : F64 := toF64 (mulFp (ofF64 a) (ofF64 b))
def ddiv (a b : F64) : F64 := toF64 (divFp (ofF64 a) (ofF64 b))
def dsqrt (a : F64) : F64 := toF64 (sqrtFp (ofF64 a))
def f32ToF64 (a : F32) : F64 := toF64 (ofF32 a)
def f64ToF32 (a : F64) : F32 := toF32 (ofF64 a)

def fZero : F32 := 0
def fOne : F32 := 0x3F800000#32
def fNan : F32 := 0x7FC00000#32
def fInf : F32 := 0x7F800000#32
def fNegInf : F32 := 0xFF800000#32

/-- A pattern that is not a number. -/
def isNan (x : F32) : Bool := decide (0x7F800000 < x.toNat % 2 ^ 31)
/-- A positive or negative zero. -/
def isZero (x : F32) : Bool := decide (x.toNat % 2 ^ 31 = 0)
/-- A finite pattern. -/
def isFinite (x : F32) : Bool := decide (x.toNat % 2 ^ 31 < 0x7F800000)

/-- The total order of patterns that are numbers, -0 below +0. -/
def orderKey (x : F32) : Int := if x.toNat < 2 ^ 31 then x.toNat else -((x.toNat % 2 ^ 31 : Nat) : Int) - 1

/-- Absolute value; NaN is canonical (R83). -/
def fabs (x : F32) : F32 := if isNan x then fNan else BitVec.ofNat 32 (x.toNat % 2 ^ 31)

/-- Maximum (R98): NaN when an input is NaN; max(+0, -0) is +0. -/
def fmax (a b : F32) : F32 := if isNan a || isNan b then fNan else if orderKey a < orderKey b then b else a

/-- Minimum (R98). -/
def fmin (a b : F32) : F32 := if isNan a || isNan b then fNan else if orderKey b < orderKey a then b else a

/-- a below b as numbers; false when either is NaN. -/
def flt (a b : F32) : Bool :=
  !isNan a && !isNan b && !(isZero a && isZero b) && decide (orderKey a < orderKey b)

/-- The FP32 value of an integer. -/
def f32OfInt (v : Int) : F32 := toF32 (.fin (decide (v < 0)) v.natAbs 0)
/-- The FP64 value of a natural number. -/
def f64OfNat (v : Nat) : F64 := toF64 (.fin false v 0)

/-- A power of a, by repeated multiplication. -/
def fpow (a : F32) : Nat → F32
  | 0 => fOne
  | n + 1 => fmul (fpow a n) a

/-! ### Error bounds of the transcendental functions (R104; log 10)

The true value of a function is enclosed in an interval computed in fixed point, and a result of the opaque function counts only
where it lies within the bound of R104; elsewhere the nearest FP32 value stands in its place. -/

/-- An interval that holds a true value: [lo, hi] times 2^exp. -/
structure Enclosure where
  lo : Int
  hi : Int
  exp : Int
deriving DecidableEq, Repr

/-- Fraction bits of the fixed-point values below. -/
def fracBits : Nat := 120

/-- ln 2 in fixed point, rounded down. -/
def lnTwo : Nat := 921350637599661305226344307672478454

/-- A finite value in fixed point, rounded down. -/
def fixedOf (neg : Bool) (m : Nat) (e : Int) : Int :=
  let v := signedMan neg m
  let k := e + fracBits
  if 0 ≤ k then v * 2 ^ k.toNat else v / 2 ^ (-k).toNat

/-- Terms of the series of e^y from term number i on, in fixed point. -/
def expTerms (y : Nat) : Nat → Nat → Nat → Nat
  | 0, _, _ => 0
  | n + 1, i, t => t + expTerms y n (i + 1) (t * y / 2 ^ fracBits / i)

/-- e^y of a fixed-point y in [0, 1): 40 terms, less than 200 units too small. -/
def expFixed (y : Nat) : Nat := expTerms y 40 1 (2 ^ fracBits)

/-- 2^x. -/
def exp2Span (neg : Bool) (m : Nat) (e : Int) : Enclosure :=
  let v := fixedOf neg m e
  let y := (v % 2 ^ fracBits).toNat * lnTwo / 2 ^ fracBits
  { lo := expFixed y, hi := expFixed y + 4096, exp := v / 2 ^ fracBits - fracBits }

/-- e^x, for magnitudes below 1,024. -/
def expSpan (neg : Bool) (m : Nat) (e : Int) : Enclosure :=
  let v := fixedOf neg m e
  let k := v / lnTwo
  let y := (v - k * lnTwo).toNat
  { lo := (expFixed y : Int) - 4096, hi := expFixed y + 4096, exp := k - fracBits }

/-- Terms of the series of artanh from term number i on, in fixed point. -/
def artanhTerms (zz : Nat) : Nat → Nat → Nat → Nat
  | 0, _, _ => 0
  | n + 1, i, t => t / (2 * i + 1) + artanhTerms zz n (i + 1) (t * zz / 2 ^ fracBits)

/-- ln of the mantissa of a positive value, in fixed point, and its exponent. -/
def lnParts (m : Nat) (e : Int) : Nat × Int :=
  let l := Nat.log2 m
  let z := ((m - 2 ^ l) <<< fracBits) / (m + 2 ^ l)
  (2 * artanhTerms (z * z / 2 ^ fracBits) 60 0 z, e + l)

/-- ln x of a positive value. -/
def lnSpan (m : Nat) (e : Int) : Enclosure :=
  let p := lnParts m e
  let v := p.2 * lnTwo + p.1
  { lo := v - 4096, hi := v + 4096, exp := -(fracBits : Int) }

/-- log2 x of a positive value. -/
def log2Span (m : Nat) (e : Int) : Enclosure :=
  let p := lnParts m e
  let v := p.2 * 2 ^ fracBits + ((p.1 <<< fracBits) / lnTwo : Nat)
  { lo := v - 4096, hi := v + 4096, exp := -(fracBits : Int) }

/-- An interval times a signed dyadic value. -/
def Enclosure.mul (t : Enclosure) (neg : Bool) (m : Nat) (e : Int) : Enclosure :=
  if neg then { lo := -(t.hi * m), hi := -(t.lo * m), exp := t.exp + e } else { lo := t.lo * m, hi := t.hi * m, exp := t.exp + e }

/-- 1/x of a value other than zero. -/
def recipSpan (neg : Bool) (m : Nat) (e : Int) : Enclosure :=
  let q := 2 ^ (2 * fracBits) / m
  Enclosure.mul { lo := q, hi := q + 1, exp := -(2 * fracBits : Int) - e } neg 1 0

/-- 1/√x of a positive value. -/
def rsqrtSpan (m : Nat) (e : Int) : Enclosure :=
  let odd := decide (e % 2 = 1)
  let q := isqrt (2 ^ (4 * fracBits) / (if odd then 2 * m else m))
  { lo := q, hi := q + 2, exp := -(2 * fracBits : Int) - (if odd then e - 1 else e) / 2 }

/-- 1/(1 + e^-x). -/
def sigmoidSpan (neg : Bool) (m : Nat) (e : Int) : Enclosure :=
  if m ≠ 0 ∧ 8 ≤ (Nat.log2 m : Int) + e then
    if neg then { lo := 0, hi := 1, exp := -300 } else { lo := 2 ^ fracBits - 1, hi := 2 ^ fracBits, exp := -(fracBits : Int) }
  else
    let t := expSpan true m e
    let one : Int := 2 ^ (-t.exp).toNat
    if neg then { lo := t.lo * one / (one + t.lo), hi := t.hi * one / (one + t.hi) + 1, exp := t.exp }
    else
      { lo := one * 2 ^ fracBits / (one + t.hi), hi := one * 2 ^ fracBits / (one + t.lo) + 1, exp := -(fracBits : Int) }

/-- The FP32 value nearest to the lower end. -/
def Enclosure.nearest (t : Enclosure) : F32 := toF32 (.fin (decide (t.lo < 0)) t.lo.natAbs t.exp)

/-- A result lies within n units in the last place of the interval, or within 2^k of it where an absolute bound is given. Beyond
the largest binade only an infinity stands (R85). -/
def Enclosure.near (t : Enclosure) (n : Nat) (absolute : Option Int) (r : F32) : Bool :=
  let base := min t.exp (-400)
  let at' := fun (v : Int) (e : Int) => v * 2 ^ (e - base).toNat
  let top := at' 1 128
  let size := max t.lo.natAbs t.hi.natAbs
  let unit := max ((Nat.log2 size : Int) + t.exp) (-126) - 23
  let slack := max (at' n unit) (match absolute with | some k => at' 1 k | none => 0)
  let lo := max (-top) (min top (at' t.lo t.exp))
  let hi := max (-top) (min top (at' t.hi t.exp))
  let forced := decide (top ≤ lo ∨ hi ≤ -top)
  match ofF32 r with
  | .nan => false
  | .inf neg => let v := if neg then -top else top; decide (lo - slack ≤ v ∧ v ≤ hi + slack)
  | .fin neg m e => let v := at' (signedMan neg m) e; !forced && decide (lo - slack ≤ v ∧ v ≤ hi + slack)

/-- A result held to its bound. -/
def Enclosure.bound (t : Enclosure) (n : Nat) (absolute : Option Int) (r : F32) : F32 := if t.near n absolute r then r else t.nearest

/-- A function's result for a finite input, held to its bound. -/
def bounded (f : F32 → F32) (n : Nat) (span : Bool → Nat → Int → Enclosure) (x : F32) : F32 :=
  match ofF32 x with
  | .fin neg m e => (span neg m e).bound n none (f x)
  | _ => f x

/-- The absolute bound 2^k on [0.5, 2], and none elsewhere. -/
def absoluteBound (k : Int) (x : F32) : Option Int := if flt x 0x3F000000#32 || flt 0x40000000#32 x then none else some k

/-- A logarithm of a finite positive input, held to its bound. -/
def boundedLog (f : F32 → F32) (n : Nat) (k : Int) (span : Nat → Int → Enclosure) (x : F32) : F32 :=
  match ofF32 x with
  | .fin _ m e => (span m e).bound n (absoluteBound k x) (f x)
  | _ => f x

/-! ### Transcendental functions with their special inputs (R104; log 10) -/

def fexp2 (x : F32) : F32 :=
  if isNan x then fNan
  else if !flt x 0x43000000#32 then fInf
  else if flt x 0xC3150000#32 then fZero
  else bounded Config.exp2Core 1 exp2Span x

/-- exp: +infinity from the first FP32 value whose result lies beyond FP32, +0 where it lies below 2^-149 (R104). At 0 it is exactly 1:
DEDUCED from R284, which rests on it (log 10). -/
def fexp (x : F32) : F32 :=
  if isNan x then fNan
  else if !flt x 0x42B17218#32 then fInf
  else if flt x 0xC2CE8ECF#32 then fZero
  else if isZero x then fOne
  else bounded Config.expCore 2 expSpan x

def flog2 (x : F32) : F32 :=
  if isNan x then fNan else if isZero x then fNegInf else if flt x fZero then fNan
  else if x = fInf then fInf else boundedLog Config.log2Core 1 (-24) log2Span x

/-- ln; at 1 exactly +0.0: DEDUCED from R284 (log 10). -/
def fln (x : F32) : F32 :=
  if isNan x then fNan else if isZero x then fNegInf else if flt x fZero then fNan
  else if x = fInf then fInf else if x = fOne then fZero else boundedLog Config.lnCore 2 (-23) lnSpan x

def frecip (x : F32) : F32 :=
  if isNan x then fNan
  else if isZero x then (if x = fZero then fInf else fNegInf)
  else if x = fInf then fZero else if x = fNegInf then 0x80000000#32
  else bounded Config.recipCore 1 recipSpan x

def frsqrt (x : F32) : F32 :=
  if isNan x then fNan
  else if isZero x then (if x = fZero then fInf else fNegInf)
  else if flt x fZero then fNan
  else if x = fInf then fZero
  else bounded Config.rsqrtCore 1 (fun _ m e => rsqrtSpan m e) x

def fsigmoid (x : F32) : F32 :=
  if isNan x then fNan else if x = fInf then fOne else if x = fNegInf then fZero else bounded Config.sigmoidCore 2 sigmoidSpan x

def fsilu (x : F32) : F32 :=
  if isNan x then fNan else if x = fInf then fInf else if x = fNegInf then 0x80000000#32 else bounded Config.siluCore 3 (fun neg m e => (sigmoidSpan neg m e).mul neg m e) x

/-! ### Codes of R52 -/

/-- The element format of a code. -/
def codeFormat (code : Nat) : FpFormat :=
  match code with
  | 0 | 2 => fmtE4M3
  | 1 | 3 => fmtE5M2
  | 4 => fmtE2M1
  | 5 => fmtBF16
  | _ => fmtF32

/-- Block-scaled codes. -/
def codeMx (code : Nat) : Bool := decide (2 ≤ code ∧ code ≤ 4)

/-- Element bytes of one token of one slice, without scale. -/
def codeBytes (code : Nat) : Nat :=
  match code with
  | 4 => 16
  | 5 => 64
  | 6 => 128
  | _ => 32

/-- Width class. -/
def codeWidth (code : Nat) : Nat :=
  match code with
  | 4 => 4
  | 5 => 16
  | 6 => 32
  | _ => 8

/-- Bits of one element. -/
def codeBits (code : Nat) : Nat := codeWidth code

/-- Bytes of one slice of T tokens (R54). -/
def sliceBytes (code T : Nat) : Nat := T * codeBytes code + (if codeMx code then T else 0)

/-- Twice the cycles per token of a pass (R53), from the two scheduled codes. -/
def twoC (a b : Nat) : Nat :=
  let w := max (codeWidth a) (codeWidth b)
  if w = 4 then 1 else if w = 8 then 2 else 4

/-- Token time of a pass of T tokens. -/
def tokenTime (a b T : Nat) : Nat := ceilDiv (twoC a b * T) 2

/-- The exact value of an MX element: element times block scale, all NaN under scale 0xFF (R81). -/
def mxValue (v : Fp) (scale : Nat) : Fp := if scale = 255 then .nan else scaleFp ((scale : Int) - 127) v

/-- An element widened to FP32 (R82): exact, with an MX product beyond FP32 widened to infinity. -/
def widen (code pat scale : Nat) : F32 :=
  let v := decodeFp (codeFormat code) pat
  toF32 (if codeMx code then mxValue v scale else v)

/-- One element's pattern, element i of a byte string given by its reader (R80). -/
def elemPat (rd : Nat → Byte) (code i : Nat) : Nat :=
  match code with
  | 4 => ((rd (i / 2)).toNat >>> (4 * (i % 2))) % 16
  | 5 => (rd (2 * i)).toNat + 256 * (rd (2 * i + 1)).toNat
  | 6 => (rd (4 * i)).toNat + 256 * (rd (4 * i + 1)).toNat + 65536 * (rd (4 * i + 2)).toNat
           + 16777216 * (rd (4 * i + 3)).toNat
  | _ => (rd i).toNat

/-- Element patterns packed into bytes (R80). -/
def packElems (code : Nat) : List Nat → List Byte
  | [] => []
  | p :: ps =>
    if code = 4 then
      match ps with
      | [] => [BitVec.ofNat 8 p]
      | q :: qs => BitVec.ofNat 8 (p % 16 + 16 * (q % 16)) :: packElems code qs
    else leBytes (codeBits code / 8) p ++ packElems code ps

/-- Converts 32 exact values into an output format: element patterns and the scale byte (R85, R86). -/
def convertBlock (code : Nat) (draws : List (Option Nat)) (vs : List Fp) : List Nat × Nat :=
  if code = 6 then (vs.map (roundFp fmtF32 none), 0)
  else if codeMx code then
    let bad := vs.any (fun v => match v with | .nan => true | .inf _ => true | .fin _ _ _ => false)
    let tops : List (Option Int) := vs.map (fun v => match v with
      | .fin _ m e => if m = 0 then none else some ((Nat.log2 m : Int) + e)
      | _ => none)
    let top : Option Int := tops.foldl (fun acc o => match acc, o with
      | none, o => o
      | a, none => a
      | some a, some b => some (max a b)) none
    if bad then (vs.map (fun _ => 0), 0xFF)
    else
      match top with
      | none => (vs.map (fun v => roundFp (codeFormat code) none v), 0x7F)
      | some t =>
        let emax : Int := match code with | 2 => 8 | 3 => 15 | _ => 2
        let x := max (-127) (min 127 (t - emax))
        ((vs.zip draws).map (fun (v, d) =>
            let q := scaleFp (-x) v
            match q with
            | .fin neg m e =>
              let f := codeFormat code
              withSign f neg (min f.maxMag (roundMag f d m e))
            | _ => 0),
          (x + 127).toNat)
  else ((vs.zip draws).map (fun (v, d) => roundFp (codeFormat code) d v), 0)

/-! ### Random generators (R88, R89) -/

/-- mix64 of R89. -/
def mix64 (z : BitVec 64) : BitVec 64 :=
  let z1 := z + 0x9E3779B97F4A7C15#64
  let z2 := (z1 ^^^ (z1 >>> 30)) * 0xBF58476D1CE4E5B9#64
  let z3 := (z2 ^^^ (z2 >>> 27)) * 0x94D049BB133111EB#64
  z3 ^^^ (z3 >>> 31)

/-- A generator's four words. -/
structure Gen where
  x : BitVec 32
  y : BitVec 32
  z : BitVec 32
  w : BitVec 32
deriving DecidableEq, Repr

/-- One step of a generator. -/
def Gen.step (g : Gen) : Gen :=
  let t := g.x ^^^ (g.x <<< 11)
  { x := g.y, y := g.z, z := g.w, w := g.w ^^^ (g.w >>> 19) ^^^ t ^^^ (t >>> 8) }

/-- The draw of the state held: bits [31:16] of the output. -/
def Gen.draw (g : Gen) : Nat :=
  let o := (g.w + g.y) * 0x9E3779B9#32
  bits (o ^^^ (o >>> 16)) 31 16

/-- The seed of a lane (R89): partition seed, launch tick, logical core index, lane. -/
def seedGen (seed tick core lane : Nat) : Gen :=
  let ls := BitVec.ofNat 64 seed ^^^ mix64 (BitVec.ofNat 64 tick)
  let u := BitVec.ofNat 64 (core * 128 + lane)
  let h0 := mix64 (ls ^^^ mix64 u)
  let h1 := mix64 h0
  let x := h0.extractLsb' 32 32
  let y := h0.extractLsb' 0 32
  let z := h1.extractLsb' 32 32
  let w := h1.extractLsb' 0 32
  { x := x, y := y, z := z, w := if x = 0 ∧ y = 0 ∧ z = 0 ∧ w = 0 then 1 else w }

/-- A generator after n steps. -/
def Gen.after (g : Gen) : Nat → Gen
  | 0 => g
  | n + 1 => (g.after n).step

/-! ### CRC-32C (R143) -/

/-- One bit of the reflected polynomial. -/
def crcBit (c : Nat) : Nat := if c % 2 = 1 then (c / 2) ^^^ 0x82F63B78 else c / 2

/-- One byte into the CRC register. -/
def crcByte (c : Nat) (b : Byte) : Nat :=
  crcBit (crcBit (crcBit (crcBit (crcBit (crcBit (crcBit (crcBit (c ^^^ b.toNat))))))))

/-- The CRC register after a byte string. -/
def crcRun (c : Nat) (bs : List Byte) : Nat := bs.foldl crcByte c

/-- CRC-32C of a byte string. -/
def crc32c (bs : List Byte) : Nat := crcRun 0xFFFFFFFF bs ^^^ 0xFFFFFFFF

end Sys2Proof.Machine
end

