-- ==== Sys2Proof/Machine/Operands.lean ====
section
/-! DEFINITION. The operands of core commands: scratchpad rows and words with their marks, ranges, the
scoreboard, the issue of a bundle, tide instances, and the layouts of slices and descriptors. -/

namespace Sys2Proof.Machine

/-! ### Scratchpad words and rows (R33-R37) -/

/-- Byte address of a core's row in the one byte list of all scratchpads. -/
def padAt (c row : Nat) : Nat := c * 2097152 + row * 512

/-- Word number of byte address a. -/
def wordOf (a : Nat) : Nat := a / 8

/-- Whether a word reads as uncorrectable (R34): three or more flipped bits decode as a free one of three. -/
def wordBad (s : State) (k : Nat) : Bool :=
  match tget none s.marks k with
  | some .uncorrectable => true
  | some .many => decide (Config.freeNat s.freeCtr k % 3 = 1)
  | _ => false

/-- Whether a read corrects a word (R34, R35). -/
def wordCorrected (s : State) (k : Nat) : Bool :=
  match tget none s.marks k with
  | some .single => true
  | some .many => decide (Config.freeNat s.freeCtr k % 3 = 0)
  | _ => false

/-- The byte a read delivers: free where nothing has written it (R41) or no assurance is given (R34). -/
def padByte (s : State) (a : Nat) : Byte :=
  match tget none s.marks (wordOf a) with
  | some .many => Config.freeByte s.freeCtr a
  | _ => (readByte s.pad a).getD (Config.freeByte s.freeCtr a)

/-- Whether a word holding one of the n bytes from a is uncorrectable. -/
def bytesBad (s : State) (a n : Nat) : Bool :=
  (List.range (wordOf (a + n - 1) + 1 - wordOf a)).any (fun i => wordBad s (wordOf a + i)) && decide (0 < n)

/-- One row as its reader receives it (R34, R36). -/
def readRow (s : State) (c row : Nat) : Row :=
  { bytes := (List.range 512).map (fun i => padByte s (padAt c row + i)),
    poison := (List.range 64).filter (fun w => wordBad s (wordOf (padAt c row) + w)) }

/-- Raises a schedule fault cause of a core (R46): the first cause is kept, later ones are counted. -/
def State.raise (s : State) (c : Nat) (cause : Cause) : State :=
  let k := s.core c
  match k.firstFault with
  | some _ => s.setCore c { k with laterFaults := k.laterFaults + 1 }
  | none =>
    let s1 := (s.setCore c { k with firstFault := some cause }).setHeal c
      { s.heal c with faultSinceLaunch := cause.code }
    match s.partOfCore c with
    | none => s1
    | some p =>
      let f : PFault := if cause = .poison then .poison c else .schedule c cause
      s1.setCtl p { s1.ctlOf p with faults := (s1.ctlOf p).faults ++ [f] }

/-- Counts n corrected words of a core (R35) and checks the threshold of R40. -/
def State.addCorrected (s : State) (c n : Nat) : State :=
  if n = 0 then s
  else
    let h := s.heal c
    let thr := s.cfg 0x3100 0x11
    let before := h.passCorrected
    let s1 := s.setHeal c { h with corrected := satAdd 32 h.corrected n, passCorrected := before + n }
    if 0 < thr ∧ before < thr ∧ thr ≤ before + n then
      (s1.setHeal c { s1.heal c with offered := true }).event sevDegraded evCeThreshold c (before + n)
    else s1

/-- Queues a row for the scrubber's write-back; a full queue of four takes no more (R35). -/
def State.queueWriteBack (s : State) (c row : Nat) : State :=
  let h := s.heal c
  if row ∈ h.writeBack ∨ 4 ≤ h.writeBack.length then s
  else s.setHeal c { h with writeBack := h.writeBack ++ [row] }

/-- The corrected words of a row. -/
def correctedIn (s : State) (c row : Nat) : Nat :=
  ((List.range 64).filter (fun w => wordCorrected s (wordOf (padAt c row) + w))).length

/-- The effects of reading a row, apart from raising POISON. -/
def State.noteRow (s : State) (c row : Nat) : State :=
  let n := correctedIn s c row
  if n = 0 then s else (s.addCorrected c n).queueWriteBack c row

/-- The effects of an engine or DMA read of rows (R35, R36): corrections are counted and queued, an
uncorrectable word raises POISON. -/
def State.noteRows (s : State) (c first n : Nat) : State :=
  let s1 := (List.range n).foldl (fun t i => t.noteRow c (first + i)) s
  if bytesBad s (padAt c first) (512 * n) then s1.raise c .poison else s1

/-- Stores a word's mark. -/
def putMark (m : Tbl (Option Mark)) (k : Nat) (bad : Bool) : Tbl (Option Mark) :=
  tput none m k (if bad then some .uncorrectable else none)

/-- A write of any party retires in a row: a scrubber write-back of that row is discarded (R39). -/
def State.rowWritten (s : State) (c row : Nat) : State :=
  let h := s.heal c
  if row ∈ h.scrubPending ∨ row ∈ h.writeBack then
    s.setHeal c { h with scrubPending := h.scrubPending.filter (· != row), writeBack := h.writeBack.filter (· != row) }
  else s

/-- A complete row write (R37): all 64 words and their check bits are replaced. -/
def State.writeRow (s : State) (c row : Nat) (d : Row) : State :=
  let a := padAt c row
  ({ s with
    pad := writeBytes s.pad a (fitBytes 512 d.bytes)
    marks := (List.range 64).foldl (fun m w => putMark m (wordOf a + w) (decide (w ∈ d.poison))) s.marks }).rowWritten c row

/-- The read and write-back of a row that an output covers in part (R67): corrections are counted (R35), every word is stored
as read, poison included, with fresh check bits (R37), and POISON is not raised. -/
def State.mergeRow (s : State) (c row : Nat) : State :=
  (s.addCorrected c (correctedIn s c row)).writeRow c row (readRow s c row)

/-- The rows that an output of n bytes from address a covers in part: its first, unless an output of the same instruction before it
shares that row, and its last, unless one after it does. -/
def partRows (a n : Nat) (joinFirst joinLast : Bool) : List Nat :=
  let row0 := a % 2097152 / 512
  let row1 := (a % 2097152 + n - 1) / 512
  let head := !joinFirst && decide (a % 512 ≠ 0)
  let tail := !joinLast && decide ((a + n) % 512 ≠ 0)
  if row0 = row1 then (if head || tail then [row0] else [])
  else (if head then [row0] else []) ++ (if tail then [row1] else [])

/-- Writes result bytes at a byte address with their per-byte poison, merging partly covered rows and words as R67 says; `joinFirst`
and `joinLast` say that the outputs before and after it of the same instruction share its first and last row in the merge buffer.
The spec gives merging for the array drain and SFIN; a vector DST whose last row is covered in part keeps the rest of that row in
the same way (log 71). -/
def State.writeOut (s0 : State) (c a : Nat) (bs : List Byte) (bad : List Bool) (joinFirst joinLast : Bool) : State :=
  let n := bs.length
  if n = 0 then s0
  else
    let s := (partRows a n joinFirst joinLast).foldl (fun (t : State) row => t.mergeRow c row) s0
    let w0 := wordOf a
    let w1 := wordOf (a + n - 1)
    let marks := (List.range (w1 + 1 - w0)).foldl (fun m i =>
      let w := w0 + i
      let lo := max a (8 * w)
      let hi := min (a + n) (8 * w + 8)
      let res := ((bad.drop (lo - a)).take (hi - lo)).any id
      let whole := decide (hi - lo = 8) || (joinLast && decide (w = w1 ∧ lo = 8 * w))
      putMark m w (res || (!whole && wordBad s w))) s.marks
    let row0 := a % 2097152 / 512
    let row1 := (a % 2097152 + n - 1) / 512
    let s1 : State := { s with pad := writeBytes s.pad a bs, marks := marks }
    (List.range (row1 + 1 - row0)).foldl (fun t i => t.rowWritten c (row0 + i)) s1

/-- Writes the poison pattern into every word of rows (R72, R94). -/
def State.poisonRows (s : State) (c first n : Nat) : State :=
  (List.range n).foldl (fun (t : State) i =>
    ({ t with marks := (List.range 64).foldl (fun m w => putMark m (wordOf (padAt c (first + i)) + w) true) t.marks }).rowWritten
      c (first + i)) s

/-! ### Lane draws (R88-R90) -/

/-- The image that fixes a core's schedule, by its digest. -/
def imageKey (s : State) (c : Nat) : Nat :=
  match s.partOfCore c with
  | some p => match (s.part p).image with | some i => i.digest.toNat | none => 0
  | none => 0

/-- The draw of a lane's generator in a cycle (R88, R89): free where the core was never launched. -/
def laneDraw (s : State) (c lane cycle : Nat) : Nat :=
  let k := s.core c
  match k.genSeed with
  | some seed => ((seedGen seed (tickOf k.genStart) c lane).after (cycle - k.genStart - k.genPaused)).draw
  | none => Config.freeNat s.freeCtr (cycle * 128 + lane) % 65536

/-- The array holds an instruction in a cycle: a pass, a finished chain or tile, or one in its queue (R33, R70). -/
def arrayBusy (k : Core) (t : Nat) : Bool :=
  k.arr.cur.isSome || !k.iss.arrQ.isEmpty || !k.arr.drains.isEmpty || decide (t < k.arr.passStart + k.arr.passLen)

/-- The vector unit holds an instruction in a cycle. -/
def vectorBusy (k : Core) (t : Nat) : Bool := k.vec.run.isSome || decide (t < k.vec.lanesFrom)

/-- The springbok path holds an instruction in a cycle. -/
def springbokBusy (k : Core) (t : Nat) : Bool := k.spb.run.isSome || decide (t < k.spb.lanesFrom)

/-- The cycles for which a party waits for its bank from cycle t on: none unless a party that outranks it is at work; how many is then
fixed by the schedule and open in the spec (R33; log 11, log 67). -/
def bankWaits (s : State) (c t n : Nat) (outranked : Bool) : Nat :=
  if outranked then Config.laneWait (imageKey s c) c (t - (s.core c).genStart) n else 0

/-- The cycle in which group g of an instruction enters the lanes that take their next group after cycle `start`: one group a cycle,
each after its waits for the bank (R33, R90, R95; log 11). -/
def laneCycle (s : State) (c start g : Nat) (outranked : Bool) : Nat :=
  (List.range (g + 1)).foldl (fun n i => n + 1 + bankWaits s c start i outranked) start

/-! ### Ranges (R24, R29, R445) -/

/-- The value of an index register; selector 0 adds nothing. -/
def Core.ixOf (k : Core) (sel : Nat) : Nat := if sel = 0 then 0 else (tget 0 k.ix sel).toNat

/-- Whether the segment loaded a range-table entry. -/
def Core.hasRange (k : Core) (i : Nat) : Bool := decide (i < k.ranges.length)

/-- The effective range of an operand before the row limit is checked. -/
def Core.rangeOf (k : Core) (sel i : Nat) : Span :=
  let e := k.ranges.getD i 0
  { first := bits e 11 0 + k.ixOf sel, rows := bits e 23 12 + 1 }

/-- An effective range within rows 0-4,095 (R29). -/
def Span.fits (r : Span) : Bool := decide (r.first + r.rows ≤ 4096)

/-! ### Scoreboard (R42-R45) -/

/-- Two inclusive row ranges overlap. -/
def overlap (a b : SbEntry) : Bool := decide (a.first ≤ b.last ∧ b.first ≤ a.last)

/-- A new entry conflicts with an existing one (R42). -/
def conflicts (new old : SbEntry) : Bool := overlap new old && !(decide (new.kind = .read) && decide (old.kind = .read))

/-- The entry of a span. -/
def entryOf (r : Span) (k : Access) (p : Party) (owner : Nat) : SbEntry :=
  { first := r.first, last := r.first + r.rows - 1, kind := k, party := p, owner := owner }

/-- The outcome of a scoreboard check. -/
inductive SbCheck where
  | clear
  | intraBundle
  | hazard
  | full
deriving DecidableEq, Repr

/-- Checks new entries against the live entries and those the bundle allocated before (R42, R44, R45). -/
def checkSb (live mine new : List SbEntry) : SbCheck :=
  if new.any (fun n => mine.any (conflicts n)) then .intraBundle
  else if new.any (fun n => live.any (conflicts n)) then .hazard
  else if 32 < live.length + mine.length + new.length then .full
  else .clear

/-! ### Issue (R25, R31, R44, R46) -/

/-- A core that issues: its sequencer runs and the core is neither dead nor in reset. -/
def canIssue (s : State) (c : Nat) : Bool :=
  decide ((s.core c).wait = .running) && !(s.heal c).dead && !(s.heal c).fenced && !(s.heal c).resetting

/-- The mode of a core's partition (R159): ELASTIC waits where STRICT faults. -/
def coreElastic (s : State) (c : Nat) : Bool :=
  match s.partOfCore c with
  | some p => (s.part p).elastic
  | none => false

/-- The module reaches the core's next issue cycle (R25). -/
def State.toIssue (s : State) (c : Nat) : State := s.advance (s.core c).nextIssue

/-- Opens a bundle: what its slots change is kept apart until its sequencer operation (R31). -/
def openBundle (k : Core) : Core :=
  match k.snap with
  | some _ => k
  | none => { k with snap := some k.iss }

/-- The bundle does not issue: nothing of it stands. -/
def dropBundle (k : Core) : Core :=
  match k.snap with
  | some i => { k with iss := i, snap := none }
  | none => k

/-- The bundle waits one cycle and is counted as an issue stall (R31). -/
def State.stallBundle (s : State) (c : Nat) : State :=
  let k := dropBundle (s.core c)
  let h := s.heal c
  (s.setCore c { k with nextIssue := s.now + 1 }).setHeal c { h with issueStalls := satAdd 32 h.issueStalls 1 }

/-- The bundle waits one cycle on the scoreboard (R44). -/
def State.waitBundle (s : State) (c : Nat) : State :=
  let k := dropBundle (s.core c)
  let h := s.heal c
  (s.setCore c { k with nextIssue := s.now + 1 }).setHeal c { h with sbWaits := satAdd 32 h.sbWaits 1 }

/-- The bundle does not issue and the sequencer stops with a cause (R29, R44, R46). -/
def State.stopBundle (s : State) (c : Nat) (cause : Cause) : State :=
  (s.setCore c { dropBundle (s.core c) with wait := .stopped }).raise c cause

/-- Entries the open bundle has allocated so far. -/
def Core.mine (k : Core) : List SbEntry :=
  match k.snap with
  | some i => k.iss.sb.drop i.sb.length
  | none => []

/-- Entries that were live before the open bundle. -/
def Core.live (k : Core) : List SbEntry :=
  match k.snap with
  | some i => i.sb
  | none => k.iss.sb

/-- What one slot asks of the issue stage. -/
structure SlotAsk where
  reads : List (Span × Nat)
  writes : List (Span × Nat)
  party : Party
  queueFull : Bool
  entries : List Nat := []

/-- Issues one slot: a full queue stalls the bundle (R31), a range past the last row or too short stops it
(R29, R61), the scoreboard decides the rest (R44, R45). `put` records the instruction under its issue number. -/
def issueSlot (s : State) (c : Nat) (ask : SlotAsk) (put : IssueState → Nat → IssueState) : State :=
  let s1 := s.toIssue c
  let k := openBundle (s1.core c)
  let s2 := s1.setCore c k
  let all := ask.reads ++ ask.writes
  if k.bp ∈ k.storeBad ∨ ask.entries.any (fun i => decide (4096 + i ∈ k.storeBad)) then s2.stopBundle c .istoreEcc
  else if ask.queueFull then s2.stallBundle c
  else if all.any (fun (r, need) => !r.fits || decide (r.rows < need)) then s2.stopBundle c .rowRange
  else
    let id := k.iss.serial
    let new := ask.reads.map (fun (r, _) => entryOf r .read ask.party id)
      ++ ask.writes.map (fun (r, _) => entryOf r .write ask.party id)
    match checkSb k.live k.mine new with
    | .intraBundle => s2.stopBundle c .intraBundle
    | .hazard => if coreElastic s c then s2.waitBundle c else s2.stopBundle c .sbHazard
    | .full => if coreElastic s c then s2.waitBundle c else s2.stopBundle c .sbFull
    | .clear => s2.setCore c { k with iss := put { k.iss with sb := k.iss.sb ++ new, serial := id + 1 } id }

/-- A register-setting slot acts in its issue cycle and allocates nothing (R31, R58). -/
def setSlot (s : State) (c : Nat) (f : IssueState → IssueState) : State :=
  let s1 := s.toIssue c
  let k := openBundle (s1.core c)
  if k.bp ∈ k.storeBad then (s1.setCore c k).stopBundle c .istoreEcc
  else s1.setCore c { k with iss := f k.iss }

/-- Removes entry i of the scoreboard. -/
def dropEntry (k : Core) (i : Nat) : Core := { k with iss := { k.iss with sb := k.iss.sb.eraseIdx i } }

/-! ### Tide-table entries and instances (R154-R156) -/

def tideBase (e : BitVec 128) : Nat := bits e 127 104
def tideOffset (e : BitVec 128) : Nat := bits e 103 93
def tideInner (e : BitVec 128) : Nat := bits e 92 81 + 1
def tideInnerPeriod (e : BitVec 128) : Nat := bits e 80 57
def tideOuter (e : BitVec 128) : Nat := bits e 56 45 + 1
def tideOuterPeriod (e : BitVec 128) : Nat := bits e 44 21
def tideSlack (e : BitVec 128) : Nat := bits e 20 9
def tideStepStart (e : BitVec 128) : Bool := bitAt e 8
def tideAnchor (e : BitVec 128) : Bool := bitAt e 7
def tidePreempt (e : BitVec 128) : Bool := bitAt e 6
def tideBranch (e : BitVec 128) : Bool := bitAt e 5
def tideVariantBit (e : BitVec 128) : Nat := bits e 4 1

/-- Time of instance (i, o) of an entry in step n, in cycles (R155). -/
def instTime (pt : Partition) (e : BitVec 128) (n i o : Nat) : Nat :=
  (pt.launchTick + n * pt.period + pt.delta + tideBase e + i * tideInnerPeriod e + o * tideOuterPeriod e) * cyPerTick
    + tideOffset e

/-- The earliest instance of an entry strictly after a time: its step, inner and outer index (R156). -/
def nextInst (pt : Partition) (e : BitVec 128) (after : Nat) : Nat × Nat × Nat :=
  let origin := (pt.launchTick + pt.delta) * cyPerTick
  let first := tideBase e * cyPerTick + tideOffset e
  if after < origin + first then (0, 0, 0)
  else
    let p := pt.period * cyPerTick
    let n := (after - origin) / p
    let d := (after - origin) % p
    if d < first then (n, 0, 0)
    else
      let op := tideOuterPeriod e * cyPerTick
      let ip := tideInnerPeriod e * cyPerTick
      let o := min ((d - first) / op) (tideOuter e - 1)
      let i := if tideInner e = 1 then 1 else (d - first - o * op) / ip + 1
      if i < tideInner e then (n, i, o)
      else if o + 1 < tideOuter e then (n, 0, o + 1)
      else (n + 1, 0, 0)

/-- The tide table of a partition's loaded image. -/
def tideTable (pt : Partition) : List (BitVec 128) :=
  match pt.image with
  | some img => img.tide
  | none => []

/-- The entry of a number. -/
def tideEntry (pt : Partition) (e : Nat) : BitVec 128 := (tideTable pt).getD e 0

/-! ### Slices and streams (R54, R95) -/

/-- Reader of bytes from a base byte address. -/
def byteReader (s : State) (base : Nat) : Nat → Byte := fun i => padByte s (base + i)

/-- An element of a slice operand, widened: slice si, token t, feature j. -/
def sliceElem (s : State) (base code T si t j : Nat) : F32 :=
  let a := base + si * sliceBytes code T
  let rd := byteReader s (a + t * codeBytes code)
  let scale := if codeMx code then (padByte s (a + T * codeBytes code + t)).toNat else 0
  widen code (elemPat rd code j) scale

/-- Whether a token's 32 elements, or its scale, hold a poisoned word. -/
def sliceTokenBad (s : State) (base code T si t : Nat) : Bool :=
  let a := base + si * sliceBytes code T
  bytesBad s (a + t * codeBytes code) (codeBytes code)
    || (codeMx code && bytesBad s (a + T * codeBytes code + t) 1)

/-- Whether the word of one element, or its scale, is poisoned. -/
def sliceElemBad (s : State) (base code T si t j : Nat) : Bool :=
  let a := base + si * sliceBytes code T
  bytesBad s (a + t * codeBytes code + j * codeBits code / 8) (max 1 (codeBits code / 8))
    || (codeMx code && bytesBad s (a + T * codeBytes code + t) 1)

/-- Rows that n bytes from byte offset off of a range need. -/
def rowsFor (off n : Nat) : Nat := ceilDiv (off + n) 512

/-- An FP32 value at byte i of a range. -/
def f32At (s : State) (base i : Nat) : F32 :=
  BitVec.ofNat 32 (elemPat (byteReader s (base + i)) 6 0)

/-- The 32 output patterns of one token of one slice as the byte runs of its elements and its scale, with
the poison of each byte. -/
structure TokenOut where
  elems : List Byte
  ebad : List Bool
  scale : Option Byte
  sbad : Bool
deriving DecidableEq, Repr

/-- Converts the 32 results of one token (R85-R87). In a block-scaled format every byte depends on all 32. -/
def tokenOut (code : Nat) (draws : List (Option Nat)) (vs : List Fp) (bad : List Bool) : TokenOut :=
  let (ps, sc) := convertBlock code draws vs
  let es := packElems code ps
  let anyBad := bad.any id
  { elems := es
    ebad := (List.range es.length).map (fun i => if codeMx code then anyBad else bad.getD (i * 8 / codeBits code) false)
    scale := if codeMx code then some (BitVec.ofNat 8 sc) else none
    sbad := anyBad }

/-- One slice of tokens as bytes with their poison (R54). -/
def sliceOut (ts : List TokenOut) : List Byte × List Bool :=
  (ts.flatMap (fun t => t.elems) ++ ts.filterMap (fun t => t.scale),
   ts.flatMap (fun t => t.ebad) ++ ts.filterMap (fun t => t.scale.map (fun _ => t.sbad)))

/-- A NaN becomes the canonical one (R82). -/
def canonF32 (v : F32) : F32 := if isNan v then fNan else v

/-- FP32 results as bytes with their poison. -/
def f32sOut (vs : List (F32 × Bool)) : List Byte × List Bool :=
  (vs.flatMap (fun v => leBytes 4 v.1.toNat), vs.flatMap (fun v => List.replicate 4 v.2))

/-! ### The condition on a core's own issue commands -/

/-- A slot or sequencer operation happens only on a core that issues (log 2). -/
def onIssuing (s : State) (c : Nat) (k : State) : Out :=
  onCore s c (if canIssue s c then k else s)

end Sys2Proof.Machine
end

