-- ==== Sys2Proof/Machine/Springbok.lean ====
section
/-! DEFINITION. The springbok path: registers, SVLD, SMV, SFIN, SCLR (R76-R78). -/

namespace Sys2Proof.Machine

/-! ### Registers (R76) -/

def spbV (r : Tbl (BitVec 16)) : Nat := bits (tget 0 r 0) 2 0 + 1
def spbWeight (r : Tbl (BitVec 16)) : Nat := bits (tget 0 r 1) 15 13
def spbVector (r : Tbl (BitVec 16)) : Nat := bits (tget 0 r 1) 12 10
def spbOutput (r : Tbl (BitVec 16)) : Nat := bits (tget 0 r 1) 9 7
def spbBase (r : Tbl (BitVec 16)) : Nat := bits (tget 0 r 2) 8 0
def spbN (r : Tbl (BitVec 16)) : Nat := bits (tget 0 r 3) 8 0 + 1

/-- Elements of one weight row: 512 in FP8, 1,024 in MX E2M1, 256 in BF16. -/
def spbChunk (r : Tbl (BitVec 16)) : Nat := 4096 / codeBits (spbWeight r)

/-- Rows of one resident vector (R77, SVLD). -/
def spbVecRows (r : Tbl (BitVec 16)) : Nat := ceilDiv (spbChunk r * (codeBits (spbVector r) / 8)) 512

/-- The accumulator of output j and vector v. -/
def spbKey (j v : Nat) : Nat := 8 * j + v

/-! ### Effects, at the start of the instruction (log 6) -/

/-- SVLD: loads V resident vectors of m rows each. -/
def runSvld (s : State) (c : Nat) (i : SpbInstr) (src : Span) : State :=
  let m := spbVecRows i.regs
  let k := s.core c
  let sp := (List.range (spbV i.regs)).foldl (fun (sp : SpbState) v =>
    let a := padAt c (src.first + v * m)
    let len := spbChunk i.regs * (codeBits (spbVector i.regs) / 8)
    { sp with
      resident := tset sp.resident v ((List.range (512 * m)).map (fun b => padByte s (a + b)))
      residentPoison := if bytesBad s a len then addOnce sp.residentPoison v
        else sp.residentPoison.filter (· != v) }) k.spb
  (s.setCore c { k with spb := sp }).noteRows c src.first (spbV i.regs * m)

/-- Byte b of resident vector v: free where no SVLD since the launch has loaded it (log 7). -/
def residentByte (s : State) (k : Core) (v b : Nat) : Byte :=
  ((tget [] k.spb.resident v)[b]?).getD (Config.freeByte s.freeCtr (65536 * v + b))

/-- One dot product in element order (R77, R84). -/
def spbDot (s : State) (c : Nat) (r : Tbl (BitVec 16)) (row scaleRow : Nat) (j : Nat) (vec : Nat → Byte) : F32 :=
  let w := spbWeight r
  let x := spbVector r
  (List.range (spbChunk r)).foldl (fun acc e =>
    let sc := if w = 4 then (padByte s (padAt c scaleRow + 32 * (j % 16) + e / 32)).toNat else 0
    let wv := widen w (elemPat (byteReader s (padAt c row)) w e) sc
    let xv := widen x (elemPat vec x e) 0
    toF32 (addFp (ofF32 acc) (mulFp (ofF32 wv) (ofF32 xv)))) fZero

/-- SMV: each weight row against each resident vector into the accumulators. -/
def runSmv (s : State) (c : Nat) (i : SpbInstr) (src : Span) (scales : Option Span) : State :=
  let k := s.core c
  let base := spbBase i.regs
  let scaleFirst := match scales with | some r => r.first | none => 0
  let pairs := (List.range src.rows).flatMap (fun j => (List.range (spbV i.regs)).map (fun v => (j, v)))
  let sp := pairs.foldl (fun (sp : SpbState) (j, v) =>
    let key := spbKey (base + j) v
    let row := src.first + j
    let srow := scaleFirst + j / 16
    let d := spbDot s c i.regs row srow j (residentByte s k v)
    let bad := bytesBad s (padAt c row) 512
      || (scales.isSome && bytesBad s (padAt c srow + 32 * (j % 16)) 32)
      || decide (v ∈ k.spb.residentPoison)
    { sp with
      acc := tput fZero sp.acc key (fadd (tget fZero sp.acc key) d)
      accPoison := if bad then addOnce sp.accPoison key else sp.accPoison }) k.spb
  let s1 := (s.setCore c { k with spb := sp }).noteRows c src.first src.rows
  match scales with
  | some r => s1.noteRows c r.first (ceilDiv src.rows 16)
  | none => s1

/-- The cycle after which the path's next instruction takes its first group, and whether the array or the vector unit outranks it there
(R33, R78). -/
def spbStart (s : State) (c : Nat) : Nat := max s.now (s.core c).spb.lanesFrom
def spbOutranked (s : State) (c : Nat) : Bool :=
  arrayBusy (s.core c) (spbStart s c) || vectorBusy (s.core c) (spbStart s c)

/-- The cycles of a springbok instruction, waits apart (R77). -/
def spbCycles (i : SpbInstr) : Nat :=
  let rows := (i.srcs.getD 0 { first := 0, rows := 1 }).rows
  match i.op with
  | .svld => rows
  | .smv => rows * spbV i.regs * (if spbWeight i.regs = 4 then 2 else 1)
  | .sfin => ceilDiv (spbN i.regs * spbV i.regs) 32
  | .sclr => 1

/-- The path has taken the groups of an instruction: the next one's come after them. -/
def spbTaken (s : State) (c : Nat) (i : SpbInstr) (t : State) : State :=
  let k := t.core c
  t.setCore c { k with spb := { k.spb with lanesFrom := laneCycle s c (spbStart s c) (spbCycles i - 1) (spbOutranked s c) } }

/-- SFIN: converts the accumulators into DST, 32 a cycle, and sets them to +0.0. The m-th value of a cycle takes the draw of lane
96 + m (R90). -/
def runSfin (s : State) (c : Nat) (i : SpbInstr) (dst : Span) : State :=
  let k := s.core c
  let n := spbN i.regs
  let base := spbBase i.regs
  let code := spbOutput i.regs
  let keys := (List.range (spbV i.regs)).flatMap (fun v => (List.range n).map (fun j => spbKey (base + j) v))
  let outs := (keys.zip (List.range keys.length)).map (fun (key, n) =>
    let draw := if i.sr then some (laneDraw s c (96 + n % 32) (laneCycle s c (spbStart s c) (n / 32) (spbOutranked s c))) else none
    let p := roundFp (codeFormat code) (if code = 6 then none else draw) (ofF32 (tget fZero k.spb.acc key))
    (leBytes (codeBits code / 8) p, decide (key ∈ k.spb.accPoison)))
  let sp : SpbState := { k.spb with
    acc := keys.foldl (fun a key => tput fZero a key fZero) k.spb.acc
    accPoison := k.spb.accPoison.filter (fun key => decide (key ∉ keys)) }
  (s.setCore c { k with spb := sp }).writeOut c (padAt c dst.first) (outs.flatMap (fun o => o.1))
    (outs.flatMap (fun o => o.1.map (fun _ => o.2))) false false

/-- SCLR: every accumulator is +0.0. -/
def runSclr (s : State) (c : Nat) : State :=
  let k := s.core c
  s.setCore c { k with spb := { k.spb with acc := [], accPoison := [] } }

/-- The effect of a springbok instruction. -/
def runSpb (s : State) (c : Nat) (i : SpbInstr) : State :=
  let src := i.srcs.getD 0 { first := 0, rows := 1 }
  match i.op with
  | .svld => runSvld s c i src
  | .smv => runSmv s c i src i.srcs[1]?
  | .sfin => match i.dst with | some d => runSfin s c i d | none => s
  | .sclr => runSclr s c

/-- Whether an issue number still holds entries. -/
def holdsEntries (k : Core) (id : Nat) : Bool := k.iss.sb.any (fun e => e.owner == id)

/-- Starts queued springbok instructions while none is in flight; one without entries is done at once. -/
def startSpb (c : Nat) : Nat → State → State
  | 0, s => s
  | n + 1, s =>
    let k := s.core c
    match k.spb.run, k.iss.spbQ with
    | none, i :: q =>
      let s0 := s.setCore c { k with iss := { k.iss with spbQ := q } }
      let s1 := spbTaken s0 c i (runSpb s0 c i)
      let k1 := s1.core c
      if holdsEntries k1 i.id then (s1.setCore c { k1 with spb := { k1.spb with run := some i } }).bump
      else startSpb c n s1.bump
    | _, _ => s

/-! ### Slots (R77) -/

/-- The springbok queue of two entries is full (R31). -/
def spbFull (s : State) (c : Nat) : Bool := decide (2 ≤ (s.core c).iss.spbQ.length)

/-- Records a springbok instruction with its register copy. -/
def putSpb (op : SpbOp) (srcs : List Span) (dst : Option Span) (sr : Bool) (i : IssueState) (id : Nat) : IssueState :=
  { i with spbQ := i.spbQ ++ [{ id := id, op := op, regs := i.spbRegs, srcs := srcs, dst := dst, sr := sr }] }

/-- A range one row too short for any need. -/
def tooShort (r : Span) : Nat := r.rows + 1

/-- SPB NOP. -/
def execSpbNop (c : Nat) (s : State) : Out := onCore s c s

/-- SSET: writes a springbok register in its issue cycle (R77). -/
def execSset (c reg : Nat) (value : BitVec 16) (s : State) : Out :=
  onIssuing s c (setSlot s c (fun i => { i with spbRegs := tput 0 i.spbRegs reg value }))

/-- SVLD (R77). -/
def execSvld (c sel src : Nat) (s : State) : Out :=
  let k := s.core c
  let r := k.rangeOf sel src
  let need := spbV k.iss.spbRegs * spbVecRows k.iss.spbRegs
  onIssuing s c (if !k.hasRange src then s else
    issueSlot s c { reads := [(r, need)], writes := [], party := .spb, queueFull := spbFull s c, entries := [src] }
      (putSpb .svld [r] none false))

/-- SMV (R77): MX E2M1 weights read their scales from SRC + 1. -/
def execSmv (c sel src : Nat) (s : State) : Out :=
  let k := s.core c
  let mx := decide (spbWeight k.iss.spbRegs = 4)
  let r := k.rangeOf sel src
  let r2 := k.rangeOf sel (src + 1)
  let need := if 512 < spbBase k.iss.spbRegs + r.rows then tooShort r else r.rows
  let reads := if mx then [(r, need), (r2, ceilDiv r.rows 16)] else [(r, need)]
  onIssuing s c (if !k.hasRange (if mx then src + 1 else src) then s else
    issueSlot s c { reads := reads, writes := [], party := .spb, queueFull := spbFull s c,
                      entries := if mx then [src, src + 1] else [src] }
      (putSpb .smv (reads.map (·.1)) none false))

/-- SFIN (R77). -/
def execSfin (c sel dst : Nat) (sr : Bool) (s : State) : Out :=
  let k := s.core c
  let r := k.rangeOf sel dst
  let regs := k.iss.spbRegs
  let need := if 512 < spbBase regs + spbN regs then tooShort r
    else rowsFor 0 (spbN regs * spbV regs * (codeBits (spbOutput regs) / 8))
  onIssuing s c (if !k.hasRange dst then s else
    issueSlot s c { reads := [], writes := [(r, need)], party := .spb, queueFull := spbFull s c, entries := [dst] }
      (putSpb .sfin [] (some r) sr))

/-- SCLR (R77). -/
def execSclr (c : Nat) (s : State) : Out :=
  onIssuing s c (issueSlot s c { reads := [], writes := [], party := .spb, queueFull := spbFull s c }
    (putSpb .sclr [] none false))

end Sys2Proof.Machine
end

