-- ==== Sys2Proof/Machine/Vector.lean ====
section
/-! DEFINITION. The vector unit: registers, scalars, banks and its instructions (R93-R105). -/

namespace Sys2Proof.Machine

/-! ### Registers (R93) -/

def vecT (r : Tbl (BitVec 21)) : Nat := bits (tget 0 r 0) 7 0 + 1
def vecS (r : Tbl (BitVec 21)) : Nat := bits (tget 0 r 1) 11 0 + 1
def vecA (r : Tbl (BitVec 21)) : Nat := bits (tget 0 r 2) 20 18
def vecB (r : Tbl (BitVec 21)) : Nat := bits (tget 0 r 2) 17 15
def vecOut (r : Tbl (BitVec 21)) : Nat := bits (tget 0 r 2) 14 12
def vecK (r : Tbl (BitVec 21)) : Nat := bits (tget 0 r 3) 5 0 + 1
def vecBase (r : Tbl (BitVec 21)) : Nat := (tget 0 r 4).toNat

/-! ### Operands of an instruction in flight (R95) -/

/-- What the functions of one instruction read: the state before it, its core and itself. -/
structure VecCtx where
  s : State
  c : Nat
  i : VecInstr

def VecCtx.T (x : VecCtx) : Nat := vecT x.i.regs
def VecCtx.S (x : VecCtx) : Nat := vecS x.i.regs
def VecCtx.K (x : VecCtx) : Nat := vecK x.i.regs
/-- Byte address of source range n. -/
def VecCtx.src (x : VecCtx) (n : Nat) : Nat := padAt x.c (x.i.srcs.getD n { first := 0, rows := 1 }).first
/-- Byte address of DST. -/
def VecCtx.dst (x : VecCtx) : Nat := padAt x.c (match x.i.dst with | some d => d.first | none => 0)
/-- Scalar n (R94). -/
def VecCtx.scalar (x : VecCtx) (n : Nat) : F32 := tget fZero (x.s.core x.c).vec.scalars n
def VecCtx.scalarBad (x : VecCtx) (n : Nat) : Bool := decide (n ∈ (x.s.core x.c).vec.scalarPoison)
/-- Bank value: bank 0 TA, 1 TB, 2 TL. -/
def VecCtx.bank (x : VecCtx) (b t : Nat) : F32 := tget fZero (x.s.core x.c).vec.banks (256 * b + t)
def VecCtx.bankBad (x : VecCtx) (b t : Nat) : Bool := decide (256 * b + t ∈ (x.s.core x.c).vec.bankPoison)
/-- Element of slice operand A. -/
def VecCtx.a (x : VecCtx) (si t j : Nat) : F32 := sliceElem x.s (x.src 0) (vecA x.i.regs) x.T si t j
def VecCtx.aBad (x : VecCtx) (si t j : Nat) : Bool := sliceElemBad x.s (x.src 0) (vecA x.i.regs) x.T si t j
/-- Element of slice operand B. -/
def VecCtx.b (x : VecCtx) (si t j : Nat) : F32 := sliceElem x.s (x.src 1) (vecB x.i.regs) x.T si t j
def VecCtx.bBad (x : VecCtx) (si t j : Nat) : Bool := sliceElemBad x.s (x.src 1) (vecB x.i.regs) x.T si t j
/-- Whether any element of token t of operand A is poisoned. -/
def VecCtx.aTokenBad (x : VecCtx) (t : Nat) : Bool :=
  (List.range x.S).any (fun si => sliceTokenBad x.s (x.src 0) (vecA x.i.regs) x.T si t)
/-- FP32 word n of source range r. -/
def VecCtx.word (x : VecCtx) (r n : Nat) : F32 := f32At x.s (x.src r) (4 * n)
def VecCtx.wordBadAt (x : VecCtx) (r n : Nat) : Bool := bytesBad x.s (x.src r + 4 * n) 4
/-- FP32 word n of DST. -/
def VecCtx.old (x : VecCtx) (n : Nat) : F32 := f32At x.s x.dst (4 * n)
def VecCtx.oldBad (x : VecCtx) (n : Nat) : Bool := bytesBad x.s (x.dst + 4 * n) 4
/-- Global feature index of feature j of slice si. -/
def VecCtx.g (x : VecCtx) (si j : Nat) : Nat := vecBase x.i.regs + 32 * si + j
/-- The index of entry n of token t's list in range r. -/
def VecCtx.listIndex (x : VecCtx) (r t n : Nat) : Nat := (x.word r (2 * (t * x.K + n) + 1)).toNat
/-- The position of a global index in token t's list. -/
def VecCtx.listed (x : VecCtx) (r t gi : Nat) : Option Nat := (List.range x.K).find? (fun n => x.listIndex r t n == gi)
/-- Whether a list entry of token t is poisoned. -/
def VecCtx.listBad (x : VecCtx) (r t : Nat) : Bool :=
  (List.range (2 * x.K)).any (fun n => x.wordBadAt r (2 * t * x.K + n))
/-- FP32 word n of source range r as a number: a NaN is canonical (R82). -/
def VecCtx.num (x : VecCtx) (r n : Nat) : F32 := canonF32 (x.word r n)
/-- The cycle after which the lanes take the instruction's first group, and whether the array outranks it there (R33, R95). -/
def vecStart (s : State) (c : Nat) : Nat := max s.now (s.core c).vec.lanesFrom
def vecOutranked (s : State) (c : Nat) : Bool := arrayBusy (s.core c) (vecStart s c)

/-- The cycles in which a vector instruction takes its elements, waits and pipeline apart (R95, R97). -/
def vecCycles (i : VecInstr) : Nat :=
  let T := vecT i.regs
  let S := vecS i.regs
  let K := vecK i.regs
  let E := ceilDiv (T * S) 2
  match i.op with
  | .vlds | .vclr => 1
  | .vldt => ceilDiv ((if i.sum then S else 1) * T) 64
  | .vstt => ceilDiv T 64
  | .vbin | .vun | .vtok | .vsmx | .vxent | .vdrop => E
  | .vred => if i.sub = 4 then 2 * E else E
  | .vnrm => 2 * E
  | .vlse => ceilDiv (2 * S * T) 64
  | .vkld => if i.sub = 0 then E else 2 * E
  | .vtopk => (if i.sub = 0 then T * S else S * T * ceilDiv K 32) + ceilDiv (8 * K * T) 512

/-- The groups of an instruction's last pass over its elements come after those of the passes before it: the draws belong to the pass
whose results are converted (R90; log 11). -/
def vecSkip (i : VecInstr) : Nat := vecCycles i - ceilDiv (vecT i.regs * vecS i.regs) 2

/-- The draw of element n: lane n mod 64, in the cycle in which its group enters the lanes (R90, R95). -/
def VecCtx.draw (x : VecCtx) (n : Nat) : Nat :=
  laneDraw x.s x.c (n % 64) (laneCycle x.s x.c (vecStart x.s x.c) (vecSkip x.i + n / 64) (vecOutranked x.s x.c))

/-! ### Shared algorithms -/

/-- One level of the tree: neighbours are combined. -/
def treeLevel (op : F32 → F32 → F32) : List F32 → List F32
  | x :: y :: r => op x y :: treeLevel op r
  | l => l

/-- The five levels over 32 values (R98). -/
def treeReduce (op : F32 → F32 → F32) (v : List F32) : F32 :=
  (treeLevel op (treeLevel op (treeLevel op (treeLevel op (treeLevel op v))))).headD fZero

/-- The per-token reduction of R98 over the slices in order. -/
def reduceToken (op : F32 → F32 → F32) (init : F32) (S : Nat) (f : Nat → Nat → F32) : F32 :=
  (List.range S).foldl (fun acc si => op acc (treeReduce op ((List.range 32).map (f si)))) init

/-- exp(v - m) under the conventions of R99. -/
def expDiff (v m : F32) : F32 :=
  if isNan v || isNan m then fNan
  else if v = m || (isZero v && isZero m) then fOne
  else if v = fNegInf then fZero
  else fexp (fsub v m)

/-- The result of an elementwise instruction: exact value of each element before the one rounding, and its
poison; under ACCD it is added to DST (R96). -/
def elementwise (x : VecCtx) (f : Nat → Nat → Nat → Fp × Bool) : State :=
  let code := vecOut x.i.regs
  let base := x.dst
  let slices := (List.range x.S).map (fun si =>
    sliceOut ((List.range x.T).map (fun t =>
      let rs := (List.range 32).map (fun j =>
        let (v, bad) := f si t j
        let w := if x.i.accd then
            toF32 (addFp (ofF32 (sliceElem x.s base code x.T si t j)) v) else toF32 v
        (ofF32 w, bad || (x.i.accd && sliceElemBad x.s base code x.T si t j)))
      let draws := (List.range 32).map (fun j => if x.i.sr then some (x.draw ((si * x.T + t) * 32 + j)) else none)
      tokenOut code draws (rs.map (·.1)) (rs.map (·.2)))))
  x.s.writeOut x.c base (slices.flatMap (·.1)) (slices.flatMap (·.2)) false false

/-- Writes per-token FP32 results to DST. -/
def tokenResults (x : VecCtx) (vs : List (F32 × Bool)) : State :=
  let (bs, bad) := f32sOut vs
  x.s.writeOut x.c x.dst bs bad false false

/-- Sets bank values of tokens 0, 1, ... -/
def setBank (s : State) (c b : Nat) (vs : List (F32 × Bool)) : State :=
  let k := s.core c
  let ve := (List.range vs.length).foldl (fun (ve : VecState) t =>
    let v := vs.getD t (fZero, false)
    let key := 256 * b + t
    { ve with
      banks := tput fZero ve.banks key v.1
      bankPoison := if v.2 then addOnce ve.bankPoison key else ve.bankPoison.filter (· != key) }) k.vec
  s.setCore c { k with vec := ve }

/-! ### Loads and stores of scalars and banks (R97) -/

def runVlds (x : VecCtx) : State :=
  let k := x.s.core x.c
  x.s.setCore x.c { k with vec := { k.vec with
    scalars := (List.range 16).foldl (fun m n => tput fZero m n (x.num 0 n)) k.vec.scalars
    scalarPoison := (List.range 16).filter (x.wordBadAt 0) } }

def runVldt (x : VecCtx) : State :=
  setBank x.s x.c x.i.sub ((List.range x.T).map (fun t =>
    if x.i.sum then
      ((List.range (x.S - 1)).foldl (fun acc gb => fadd acc (x.word 0 ((gb + 1) * x.T + t))) (x.num 0 t),
       (List.range x.S).any (fun gb => x.wordBadAt 0 (gb * x.T + t)))
    else (x.num 0 t, x.wordBadAt 0 t)))

def runVstt (x : VecCtx) : State :=
  tokenResults x ((List.range x.T).map (fun t => (x.bank x.i.sub t, x.bankBad x.i.sub t)))

def runVclr (x : VecCtx) : State :=
  let k := x.s.core x.c
  let keep := fun (key : Nat) => !(x.i.sub.testBit (key / 256))
  x.s.setCore x.c { k with vec := { k.vec with
    banks := k.vec.banks.filter (fun e => keep e.1)
    bankPoison := k.vec.bankPoison.filter keep } }

/-! ### Elementwise (R97) -/

def runVbin (x : VecCtx) : State :=
  elementwise x (fun si t j =>
    let a := x.a si t j
    let b := x.b si t j
    let v := match x.i.sub with
      | 0 => ofF32 (fadd a b)
      | 1 => ofF32 (fsub a b)
      | 2 => mulFp (ofF32 a) (ofF32 b)
      | 3 => ofF32 (fmax a b)
      | _ => ofF32 (fmin a b)
    (v, x.aBad si t j || x.bBad si t j))

def runVun (x : VecCtx) : State :=
  elementwise x (fun si t j =>
    let a := x.a si t j
    let v := match x.i.sub with
      | 0 => a
      | 1 => fexp2 a
      | 2 => flog2 a
      | 3 => frecip a
      | 4 => frsqrt a
      | 5 => fexp a
      | 6 => ffma a (x.scalar 0) (x.scalar 1)
      | 7 => fabs a
      | 8 => fneg a
      | 9 => fsigmoid a
      | _ => fsilu a
    (ofF32 v, x.aBad si t j || (decide (x.i.sub = 6) && (x.scalarBad 0 || x.scalarBad 1))))

def runVtok (x : VecCtx) : State :=
  elementwise x (fun si t j =>
    let a := x.a si t j
    let f := 32 * si + j
    let v := match x.i.sub with
      | 0 => fsub a (x.bank 0 t)
      | 1 => fmul a (x.bank 0 t)
      | 2 => fmul (fmul a (x.bank 0 t)) (x.word 1 f)
      | _ => if x.g si j ≤ (x.word 1 t).toNat then a else fNegInf
    let bad := match x.i.sub with
      | 0 => x.bankBad 0 t
      | 1 => x.bankBad 0 t
      | 2 => x.bankBad 0 t || x.wordBadAt 1 f
      | _ => x.wordBadAt 1 t
    (ofF32 v, x.aBad si t j || bad))

/-- VDROP: the mask of draws at or above h, or its application (R103). The spec gives no h where s1 is NaN: it is a free value of 0 to
65,536 (DESIGN CHOICE, log 11). -/
def runVdrop (x : VecCtx) : State :=
  if x.i.sub = 0 then
    let h : Nat := match ofF32 (x.scalar 1) with
      | .nan => Config.freeNat x.s.freeCtr 65536 % 65537
      | .inf neg => if neg then 0 else 65536
      | .fin neg m e =>
        if neg then 0
        else
          let e1 := e + 16
          let n := if 0 ≤ e1 then m <<< e1.toNat
            else
              let k := (-e1).toNat
              let lo := m >>> k
              let rem := m % 2 ^ k
              if 2 ^ k < 2 * rem ∨ (2 ^ k = 2 * rem ∧ lo % 2 = 1) then lo + 1 else lo
          min 65536 n
    let bs := (List.range (4 * x.T * x.S)).map (fun by' =>
      BitVec.ofNat 8 ((List.range 8).foldl (fun acc b =>
        acc + (if h ≤ x.draw (8 * by' + b) then 2 ^ b else 0)) 0))
    x.s.writeOut x.c x.dst bs (bs.map (fun _ => x.scalarBad 1)) false false
  else
    elementwise x (fun si t j =>
      let i := (si * x.T + t) * 32 + j
      let bit := (padByte x.s (x.src 1 + i / 8)).getLsbD (i % 8)
      (if bit then ofF32 (fmul (x.a si t j) (x.scalar 0)) else .fin false 0 0,
       x.aBad si t j || x.scalarBad 0 || bytesBad x.s (x.src 1 + i / 8) 1))

/-! ### Reductions and normalisation (R98-R100) -/

def runVred (x : VecCtx) : State :=
  let op := match x.i.sub with | 2 => fmax | 3 => fmin | _ => fadd
  let init0 := match x.i.sub with | 2 => fNegInf | 3 => fInf | _ => fZero
  tokenResults x ((List.range x.T).map (fun t =>
    let f := fun si j =>
      let a := x.a si t j
      match x.i.sub with
      | 1 => fmul a a
      | 4 => if (x.listed 1 t (x.g si j)).isSome then fexp (fsub (fmul a (x.scalar 0)) (x.bank 1 t)) else fZero
      | _ => a
    let v := reduceToken op (if x.i.accd then x.old t else init0) x.S f
    let bad := x.aTokenBad t || (x.i.accd && x.oldBad t)
      || (decide (x.i.sub = 4) && (x.listBad 1 t
        || ((List.range x.S).any (fun si => (List.range 32).any (fun j => (x.listed 1 t (x.g si j)).isSome))
            && (x.scalarBad 0 || x.bankBad 1 t))))
    (v, bad)))

def runVnrm (x : VecCtx) : State :=
  let F := 32 * x.S
  let stat := fun t =>
    let sum := reduceToken fadd fZero x.S (fun si j => x.a si t j)
    let sq := reduceToken fadd fZero x.S (fun si j => fmul (x.a si t j) (x.a si t j))
    if x.i.sub = 0 then (fZero, frsqrt (fadd (fmul sq (x.scalar 1)) (x.scalar 0)))
    else
      let mu := fmul sum (x.scalar 1)
      let dev := fun si j => fsub (x.a si t j) mu
      let var := fmul (reduceToken fadd fZero x.S (fun si j => fmul (dev si j) (dev si j))) (x.scalar 1)
      (mu, frsqrt (fadd var (x.scalar 0)))
  let stats := (List.range x.T).map (fun t =>
    (stat t, x.aTokenBad t || x.scalarBad 0 || x.scalarBad 1))
  let s1 := elementwise x (fun si t j =>
    let st := stats.getD t ((fZero, fZero), false)
    let f := 32 * si + j
    let a := x.a si t j
    let v := if x.i.sub = 0 then fmul (fmul a st.1.2) (x.word 1 f)
      else ffma (fmul (fsub a st.1.1) st.1.2) (x.word 1 f) (x.word 1 (F + f))
    (ofF32 v, st.2 || x.wordBadAt 1 f || (decide (x.i.sub ≠ 0) && x.wordBadAt 1 (F + f))))
  setBank s1 x.c 0 (stats.map (fun st => (st.1.2, st.2)))

/-- The running maximum and sum of one token (R99). -/
def softmaxToken (x : VecCtx) (t : Nat) (m0 l0 : F32) : F32 × F32 :=
  (List.range x.S).foldl (fun (ml : F32 × F32) si =>
    let v := (List.range 32).map (fun j => fmul (x.a si t j) (x.scalar 0))
    let mn := fmax ml.1 (treeReduce fmax v)
    (mn, fadd (fmul ml.2 (expDiff ml.1 mn)) (treeReduce fadd (v.map (fun e => expDiff e mn))))) (m0, l0)

def runVsmx (x : VecCtx) : State :=
  let rs := (List.range x.T).map (fun t =>
    let m0 := if x.i.accd then x.old t else fNegInf
    let l0 := if x.i.accd then x.old (x.T + t) else fZero
    (softmaxToken x t m0 l0,
      x.aTokenBad t || x.scalarBad 0 || (x.i.accd && (x.oldBad t || x.oldBad (x.T + t)))))
  tokenResults x (rs.map (fun r => (r.1.1, r.2)) ++ rs.map (fun r => (r.1.2, r.2)))

def runVlse (x : VecCtx) : State :=
  let m := fun gb t => x.word 0 (gb * 2 * x.T + t)
  let l := fun gb t => x.word 0 (gb * 2 * x.T + x.T + t)
  setBank x.s x.c (if x.i.sub = 0 then 1 else 0) ((List.range x.T).map (fun t =>
    let mm := (List.range x.S).foldl (fun acc gb => fmax acc (m gb t)) fNegInf
    let ll := (List.range x.S).foldl (fun acc gb => fadd acc (fmul (l gb t) (expDiff (m gb t) mm))) fZero
    (if isZero ll then fNegInf else fadd mm (fln ll),
     (List.range x.S).any (fun gb => x.wordBadAt 0 (gb * 2 * x.T + t) || x.wordBadAt 0 (gb * 2 * x.T + x.T + t)))))

/-! ### Losses (R101) -/

/-- Scaled log-probability of the student's element. -/
def studentLog (x : VecCtx) (si t j : Nat) : F32 := fsub (fmul (x.a si t j) (x.scalar 0)) (x.bank 1 t)

def runVxent (x : VecCtx) : State :=
  let label := fun t => (x.word 1 t).toNat
  let skip := fun t => decide (label t = 0xFFFFFFFF)
  let s1 := elementwise x (fun si t j =>
    let q := fexp (studentLog x si t j)
    let y := if x.g si j = label t then fOne else fZero
    (if skip t then .fin false 0 0 else ofF32 (fmul (x.scalar 1) (fsub q y)),
     x.wordBadAt 1 t || (!skip t && (x.aBad si t j || x.bankBad 1 t || x.scalarBad 0 || x.scalarBad 1))))
  setBank s1 x.c 2 ((List.range x.T).map (fun t =>
    let hits := (List.range x.S).flatMap (fun si =>
      ((List.range 32).filter (fun j => x.g si j == label t && !skip t)).map (fun j => (si, j)))
    let v := hits.foldl (fun acc (si, j) => fsub acc (fmul (x.scalar 2) (studentLog x si t j))) (x.bank 2 t)
    (v, x.bankBad 2 t || x.wordBadAt 1 t || (!hits.isEmpty && (x.bankBad 1 t || x.scalarBad 0 || x.scalarBad 2))
        || (!skip t && x.aTokenBad t))))

/-- Gradient and loss term of one element of VKLD. -/
def kldElem (x : VecCtx) (si t j : Nat) : F32 × F32 :=
  let ls := studentLog x si t j
  let q := fexp ls
  let s1 := x.scalar 1
  if x.i.sub = 0 then
    let lt := fsub (fmul (x.b si t j) (x.scalar 0)) (x.bank 0 t)
    let p := fexp lt
    (fmul s1 (fsub q p), fmul p (fsub lt ls))
  else
    let rt := x.word 1 (2 * x.K * x.T + t)
    match x.listed 1 t (x.g si j) with
    | some n =>
      let lt := x.word 1 (2 * (t * x.K + n))
      let p := fexp lt
      (fmul s1 (fsub q p), fmul p (fsub lt ls))
    | none => (fmul (fmul s1 q) (fsub fOne (fdiv (fexp rt) (fsub fOne (x.bank 0 t)))), fZero)

/-- A gradient of VKLD is poisoned by each value it is computed from, and by every poisoned list entry of its token: the residual and
TA enter only where an index is not listed (R101, R105). -/
def kldBad (x : VecCtx) (si t j : Nat) : Bool :=
  x.aBad si t j || x.scalarBad 0 || x.scalarBad 1 || x.bankBad 1 t
    || (if x.i.sub = 0 then x.bBad si t j || x.bankBad 0 t
        else x.listBad 1 t
          || ((x.listed 1 t (x.g si j)).isNone && (x.wordBadAt 1 (2 * x.K * x.T + t) || x.bankBad 0 t)))

/-- Whether a token has an element here whose loss term is computed: every element, or one that its list names. -/
def kldTerms (x : VecCtx) (t : Nat) : Bool :=
  decide (x.i.sub = 0)
    || (List.range x.S).any (fun si => (List.range 32).any (fun j => (x.listed 1 t (x.g si j)).isSome))

/-- The loss of a token is poisoned by each value that its terms use (R105); TA and the residual enter SUB 2 only. -/
def kldLossBad (x : VecCtx) (t : Nat) : Bool :=
  x.bankBad 2 t || x.scalarBad 2 || x.aTokenBad t
    || (kldTerms x t && (x.scalarBad 0 || x.bankBad 1 t))
    || (if x.i.sub = 0 then
          x.bankBad 0 t || (List.range x.S).any (fun si => sliceTokenBad x.s (x.src 1) (vecB x.i.regs) x.T si t)
        else x.listBad 1 t)
    || (decide (x.i.sub = 2) && (x.wordBadAt 1 (2 * x.K * x.T + t) || x.bankBad 0 t))

def runVkld (x : VecCtx) : State :=
  let s1 := elementwise x (fun si t j => (ofF32 (kldElem x si t j).1, kldBad x si t j))
  setBank s1 x.c 2 ((List.range x.T).map (fun t =>
    let sum := reduceToken fadd fZero x.S (fun si j => (kldElem x si t j).2)
    let v := fadd (x.bank 2 t) (fmul (x.scalar 2) sum)
    let rt := x.word 1 (2 * x.K * x.T + t)
    let v2 := if x.i.sub = 2 then
        fadd v (fmul (fmul (x.scalar 2) (fexp rt)) (fsub rt (fln (fsub fOne (x.bank 0 t))))) else v
    (v2, kldLossBad x t)))

/-! ### Lists (R102) -/

/-- Puts a value with its index into a list that runs in descending value, then ascending index. -/
def insertTop (v : F32) (gi : Nat) : List (F32 × Nat) → List (F32 × Nat)
  | [] => [(v, gi)]
  | (w, h) :: r =>
    if flt w v || (!flt v w && decide (gi < h)) then (v, gi) :: (w, h) :: r else (w, h) :: insertTop v gi r

/-- The k largest of a token's candidates, padded. -/
def topList (k : Nat) (cands : List (F32 × Nat)) : List (F32 × Nat) :=
  let l := cands.foldl (fun acc (v, gi) => if isNan v then acc else (insertTop v gi acc).take k) []
  l ++ List.replicate (k - l.length) (fNegInf, 0xFFFFFFFF)

def runVtopk (x : VecCtx) : State :=
  let rs := (List.range x.T).map (fun t =>
    if x.i.sub = 0 then
      (topList x.K ((List.range x.S).flatMap (fun si => (List.range 32).map (fun j => (x.a si t j, x.g si j)))),
       x.aTokenBad t)
    else
      (topList x.K ((List.range x.S).flatMap (fun gb => (List.range x.K).map (fun n =>
          let p := 2 * ((gb * x.T + t) * x.K + n)
          (x.word 0 p, (x.word 0 (p + 1)).toNat)))),
       (List.range x.S).any (fun gb => (List.range (2 * x.K)).any (fun n =>
          x.wordBadAt 0 (2 * (gb * x.T + t) * x.K + n)))))
  tokenResults x (rs.flatMap (fun r => r.1.flatMap (fun e => [(e.1, r.2), (BitVec.ofNat 32 e.2, r.2)])))

/-! ### Needs (R105) -/

/-- Rows each source range needs. -/
def vecReadRows (op : VecOp) (regs : Tbl (BitVec 21)) (sub : Nat) (sum : Bool) : List Nat :=
  let T := vecT regs
  let S := vecS regs
  let K := vecK regs
  let A := rowsFor 0 (S * sliceBytes (vecA regs) T)
  let B := rowsFor 0 (S * sliceBytes (vecB regs) T)
  let list := rowsFor 0 (8 * K * T)
  match op with
  | .vlds => [1]
  | .vldt => [rowsFor 0 (4 * T * (if sum then S else 1))]
  | .vstt => []
  | .vclr => []
  | .vbin => [A, B]
  | .vun => [A]
  | .vtok => match sub with
    | 2 => [A, rowsFor 0 (128 * S)]
    | 3 => [A, rowsFor 0 (4 * T)]
    | _ => [A]
  | .vred => if sub = 4 then [A, list] else [A]
  | .vnrm => [A, rowsFor 0 (if sub = 1 then 256 * S else 128 * S)]
  | .vsmx => [A]
  | .vlse => [rowsFor 0 (8 * S * T)]
  | .vxent => [A, rowsFor 0 (4 * T)]
  | .vkld => if sub = 0 then [A, B] else [A, rowsFor 0 (8 * K * T + 4 * T)]
  | .vtopk => if sub = 0 then [A] else [rowsFor 0 (8 * S * K * T)]
  | .vdrop => if sub = 1 then [A, rowsFor 0 (4 * S * T)] else [A]

/-- Rows DST needs; none where the instruction writes no range. -/
def vecWriteRows (op : VecOp) (regs : Tbl (BitVec 21)) (sub : Nat) : Option Nat :=
  let T := vecT regs
  let S := vecS regs
  let out := rowsFor 0 (S * sliceBytes (vecOut regs) T)
  match op with
  | .vlds | .vldt | .vclr | .vlse => none
  | .vstt => some (rowsFor 0 (4 * T))
  | .vbin | .vun | .vtok | .vnrm | .vxent | .vkld => some out
  | .vred => some (rowsFor 0 (4 * T))
  | .vsmx => some (rowsFor 0 (8 * T))
  | .vtopk => some (rowsFor 0 (8 * vecK regs * T))
  | .vdrop => if sub = 0 then some (rowsFor 0 (4 * S * T)) else some out

/-! ### Start of an instruction (log 6) -/

/-- The effect of a vector instruction: reads with their ECC effects, then results. -/
def runVec (s : State) (c : Nat) (i : VecInstr) : State :=
  let reads := (i.srcs.zip (vecReadRows i.op i.regs i.sub i.sum)).map (fun (r, n) => (r.first, n))
  let own := match i.dst, vecWriteRows i.op i.regs i.sub with
    | some d, some n => if i.accd then [(d.first, n)] else []
    | _, _ => []
  let x : VecCtx := { s := (reads ++ own).foldl (fun t (first, n) => t.noteRows c first n) s, c := c, i := i }
  match i.op with
  | .vlds => runVlds x
  | .vldt => runVldt x
  | .vstt => runVstt x
  | .vclr => runVclr x
  | .vbin => runVbin x
  | .vun => runVun x
  | .vtok => runVtok x
  | .vred => runVred x
  | .vnrm => runVnrm x
  | .vsmx => runVsmx x
  | .vlse => runVlse x
  | .vxent => runVxent x
  | .vkld => runVkld x
  | .vtopk => runVtopk x
  | .vdrop => runVdrop x

/-- The lanes have taken the groups of an instruction: the next one's come after them, so that no lane takes two draws in a cycle (R90,
R95). -/
def vecTaken (s : State) (c : Nat) (i : VecInstr) (t : State) : State :=
  let k := t.core c
  t.setCore c { k with vec := { k.vec with lanesFrom := laneCycle s c (vecStart s c) (vecCycles i - 1) (vecOutranked s c) } }

/-- Starts queued vector instructions while none is in flight; one without entries is done at once. -/
def startVec (c : Nat) : Nat → State → State
  | 0, s => s
  | n + 1, s =>
    let k := s.core c
    match k.vec.run, k.iss.vecQ with
    | none, i :: q =>
      let s0 := s.setCore c { k with iss := { k.iss with vecQ := q } }
      let s1 := vecTaken s0 c i (runVec s0 c i)
      let k1 := s1.core c
      if k1.iss.sb.any (fun e => e.owner == i.id) then
        (s1.setCore c { k1 with vec := { k1.vec with run := some i } }).bump
      else startVec c n s1.bump
    | _, _ => s

/-! ### Slots (R97) -/

/-- Issues a vector instruction. -/
def issueVec (s : State) (c : Nat) (op : VecOp) (sel src dst sub : Nat) (sum sr accd : Bool) : State :=
  let k := s.core c
  let regs := k.iss.vecRegs
  let needs := vecReadRows op regs sub sum
  let reads := (List.range needs.length).map (fun n => (k.rangeOf sel (src + n), needs.getD n 0))
  let w := vecWriteRows op regs sub
  let writes := match w with | some n => [(k.rangeOf sel dst, n)] | none => []
  let known := (List.range needs.length).all (fun n => k.hasRange (src + n)) && (w.isNone || k.hasRange dst)
  if !known then s
  else
    issueSlot s c { reads := reads, writes := writes, party := .vec, queueFull := decide (2 ≤ k.iss.vecQ.length),
                      entries := (List.range needs.length).map (src + ·) ++ (if w.isSome then [dst] else []) }
      (fun i id => { i with vecQ := i.vecQ ++
        [{ id := id, op := op, regs := i.vecRegs, srcs := reads.map (·.1), dst := writes.head?.map (·.1),
           sub := sub, sum := sum, sr := sr, accd := accd }] })

/-- VEC NOP. -/
def execVecNop (c : Nat) (s : State) : Out := onCore s c s
/-- VSET: writes a vector register in its issue cycle (R93). -/
def execVset (c reg : Nat) (value : BitVec 21) (s : State) : Out :=
  onIssuing s c (setSlot s c (fun i => { i with vecRegs := tput 0 i.vecRegs reg value }))
/-- VLDS (R97). -/
def execVlds (c sel src : Nat) (s : State) : Out := onIssuing s c (issueVec s c .vlds sel src 0 0 false false false)
/-- VLDT (R97). -/
def execVldt (c sel src bank : Nat) (sum : Bool) (s : State) : Out :=
  onIssuing s c (issueVec s c .vldt sel src 0 bank sum false false)
/-- VSTT (R97). -/
def execVstt (c sel dst bank : Nat) (s : State) : Out :=
  onIssuing s c (issueVec s c .vstt sel 0 dst bank false false false)
/-- VCLR (R97). -/
def execVclr (c mask : Nat) (s : State) : Out := onIssuing s c (issueVec s c .vclr 0 0 0 mask false false false)
/-- VBIN (R97). -/
def execVbin (c sel src dst sub : Nat) (sr accd : Bool) (s : State) : Out :=
  onIssuing s c (issueVec s c .vbin sel src dst sub false sr accd)
/-- VUN (R97, R104). -/
def execVun (c sel src dst sub : Nat) (sr accd : Bool) (s : State) : Out :=
  onIssuing s c (issueVec s c .vun sel src dst sub false sr accd)
/-- VTOK (R97). -/
def execVtok (c sel src dst sub : Nat) (sr accd : Bool) (s : State) : Out :=
  onIssuing s c (issueVec s c .vtok sel src dst sub false sr accd)
/-- VRED (R98). -/
def execVred (c sel src dst sub : Nat) (accd : Bool) (s : State) : Out :=
  onIssuing s c (issueVec s c .vred sel src dst sub false false accd)
/-- VNRM (R100). -/
def execVnrm (c sel src dst sub : Nat) (sr : Bool) (s : State) : Out :=
  onIssuing s c (issueVec s c .vnrm sel src dst sub false sr false)
/-- VSMX (R99). -/
def execVsmx (c sel src dst : Nat) (accd : Bool) (s : State) : Out :=
  onIssuing s c (issueVec s c .vsmx sel src dst 0 false false accd)
/-- VLSE (R99). -/
def execVlse (c sel src bank : Nat) (s : State) : Out :=
  onIssuing s c (issueVec s c .vlse sel src 0 bank false false false)
/-- VXENT (R101). -/
def execVxent (c sel src dst : Nat) (sr accd : Bool) (s : State) : Out :=
  onIssuing s c (issueVec s c .vxent sel src dst 0 false sr accd)
/-- VKLD (R101). -/
def execVkld (c sel src dst sub : Nat) (sr accd : Bool) (s : State) : Out :=
  onIssuing s c (issueVec s c .vkld sel src dst sub false sr accd)
/-- VTOPK (R102). -/
def execVtopk (c sel src dst sub : Nat) (s : State) : Out :=
  onIssuing s c (issueVec s c .vtopk sel src dst sub false false false)
/-- VDROP (R103). -/
def execVdrop (c sel src dst sub : Nat) (sr : Bool) (s : State) : Out :=
  onIssuing s c (issueVec s c .vdrop sel src dst sub false sr false)

end Sys2Proof.Machine
end

