-- ==== Sys2Proof/Machine/Array.lean ====
section
/-! DEFINITION. The matrix array: registers, issue, stationary loads, passes, drains (R51-R75), the release of
scoreboard entries and the abandonment of work in flight. -/

namespace Sys2Proof.Machine

/-! ### Registers (R57) -/

def arrT (r : Tbl (BitVec 18)) : Nat := bits (tget 0 r 0) 7 0 + 1
def arrP (r : Tbl (BitVec 18)) : Nat := bits (tget 0 r 1) 13 0 + 1
def arrC (r : Tbl (BitVec 18)) : Nat := bits (tget 0 r 2) 11 0 + 1
def arrA (r : Tbl (BitVec 18)) : Nat := bits (tget 0 r 3) 17 15
def arrB (r : Tbl (BitVec 18)) : Nat := bits (tget 0 r 3) 14 12
def arrOut (r : Tbl (BitVec 18)) : Nat := bits (tget 0 r 3) 11 9
def arrStrmOff (r : Tbl (BitVec 18)) : Nat := bits (tget 0 r 4) 5 0
def arrDrnOff (r : Tbl (BitVec 18)) : Nat := bits (tget 0 r 5) 5 0
def arrScale (r : Tbl (BitVec 18)) : Int := signedOf 9 (bits (tget 0 r 6) 8 0)
def arrTidOn (r : Tbl (BitVec 18)) : Bool := bitAt (tget 0 r 7) 17
def arrTid (r : Tbl (BitVec 18)) : Nat := bits (tget 0 r 7) 15 0

/-- Output-stationary. -/
def ArrInstr.osp (i : ArrInstr) : Bool := decide (i.op = .osp)
/-- Tiles from the tile queue. -/
def ArrInstr.fromQueue (i : ArrInstr) : Bool := decide (i.op = .wsg) || decide (i.op = .wtg)
/-- Tiles loaded transposed. -/
def ArrInstr.trans (i : ArrInstr) : Bool := decide (i.op = .wtg) || decide (i.op = .wts)
/-- Chains whose output slices are written (R59). -/
def ArrInstr.drained (i : ArrInstr) : Nat := if i.drain then arrC i.regs else arrC i.regs - 1

/-- Rows of one scratchpad tile in a weight format (R56). -/
def tileRows (code : Nat) : Nat :=
  match code with
  | 2 | 3 => 3
  | 5 => 4
  | _ => 2

/-- Token time of a pass. -/
def arrTokenTime (r : Tbl (BitVec 18)) : Nat := tokenTime (arrA r) (arrB r) (arrT r)

/-- Load minimum of a pass by its scheduled weight format (R63, R69). -/
def loadMin (i : ArrInstr) : Nat := if i.trans && codeMx (arrB i.regs) then 64 else 32

/-- Pass length (R63, R68, R69). -/
def passLength (i : ArrInstr) : Nat :=
  if i.osp then max (arrTokenTime i.regs) 32 + 8 else max (arrTokenTime i.regs) (loadMin i)

/-! ### Needs (R61) -/

/-- Rows that stream A needs. -/
def arrNeedA (r : Tbl (BitVec 18)) : Nat := rowsFor (8 * arrStrmOff r) (arrP r * sliceBytes (arrA r) (arrT r))
/-- Rows that the scratchpad tiles need. -/
def arrNeedTiles (r : Tbl (BitVec 18)) : Nat := arrC r * arrP r * tileRows (arrB r)
/-- Rows that the second stream of OSP needs. -/
def arrNeedB (r : Tbl (BitVec 18)) : Nat := rowsFor 0 (arrC r * sliceBytes (arrB r) (arrT r))
/-- Rows that n drained chains need. -/
def arrNeedOut (r : Tbl (BitVec 18)) (n : Nat) : Nat := rowsFor (8 * arrDrnOff r) (n * sliceBytes (arrOut r) (arrT r))
/-- Rows that the tiles of OSP need. -/
def arrNeedOsp (r : Tbl (BitVec 18)) : Nat := 8 * arrC r * arrP r

/-! ### Slots (R58-R61) -/

/-- An array instruction whose tile is loading and whose first pass has not begun. -/
def arrWaiting (k : Core) : Bool := k.arr.cur.isSome && decide (k.arr.chain = 0 ∧ k.arr.pass = 0)

/-- Instructions in the array's queue: an instruction stays there until its first pass begins (R31, R64; log 33). -/
def arrQueued (k : Core) : Nat := k.iss.arrQ.length + (if arrWaiting k then 1 else 0)

/-- Issues an array instruction. -/
def issueArr (s : State) (c : Nat) (op : ArrOp) (sel src dst : Nat) (sr drain acc seedz : Bool) : State :=
  let k := s.core c
  let regs := k.iss.arrRegs
  let two := decide (op = .wss) || decide (op = .wts) || decide (op = .osp)
  let a := k.rangeOf sel src
  let b := k.rangeOf sel (src + 1)
  let d := k.rangeOf sel dst
  let n := if drain then arrC regs else arrC regs - 1
  let bNeed := if op = .osp then arrNeedB regs else arrNeedTiles regs
  let reads := if two then [(a, arrNeedA regs), (b, bNeed)] else [(a, arrNeedA regs)]
  let writes := if op = .osp then [(d, arrNeedOsp regs)] else if n = 0 then [] else [(d, arrNeedOut regs n)]
  if !(k.hasRange (if two then src + 1 else src) && (k.hasRange dst || writes.isEmpty)) then s
  else
    let at' := max s.now k.nextIssue
    issueSlot s c { reads := reads, writes := writes, party := .arr, queueFull := decide (2 ≤ arrQueued k),
                      entries := (if two then [src, src + 1] else [src]) ++ (if writes.isEmpty then [] else [dst]) }
      (fun i id => { i with arrQ := i.arrQ ++
        [{ id := id, issued := at', op := op, regs := i.arrRegs, srcA := a, srcB := b, dst := d,
           sr := sr, drain := drain, acc := acc, seedz := seedz }] })

/-- ARR NOP. -/
def execArrNop (c : Nat) (s : State) : Out := onCore s c s
/-- ASET changes its register in its issue cycle (R58). -/
def execAset (c reg : Nat) (value : BitVec 18) (s : State) : Out :=
  onIssuing s c (setSlot s c (fun i => { i with arrRegs := tput 0 i.arrRegs reg value }))
/-- WSG (R59). -/
def execWsg (c sel src dst : Nat) (sr drain acc : Bool) (s : State) : Out :=
  onIssuing s c (issueArr s c .wsg sel src dst sr drain acc false)
/-- WSS (R59). -/
def execWss (c sel src dst : Nat) (sr drain acc : Bool) (s : State) : Out :=
  onIssuing s c (issueArr s c .wss sel src dst sr drain acc false)
/-- WTG (R59, R69). -/
def execWtg (c sel src dst : Nat) (sr drain acc : Bool) (s : State) : Out :=
  onIssuing s c (issueArr s c .wtg sel src dst sr drain acc false)
/-- WTS (R59, R69). -/
def execWts (c sel src dst : Nat) (sr drain acc : Bool) (s : State) : Out :=
  onIssuing s c (issueArr s c .wts sel src dst sr drain acc false)
/-- OSP (R68). -/
def execOsp (c sel src dst : Nat) (seedz : Bool) (s : State) : Out :=
  onIssuing s c (issueArr s c .osp sel src dst false true false seedz)

/-! ### Stationary loads (R55, R56, R62-R64, R69, R120) -/

/-- The next instruction enters the array when every pass of the one before has begun, between bundles. -/
def nextArr (k : Core) : Core :=
  match k.snap, k.arr.cur, k.iss.arrQ with
  | none, none, i :: q =>
    { k with iss := { k.iss with arrQ := q }, arr := { k.arr with cur := some i, chain := 0, pass := 0 } }
  | _, _, _ => k

/-- Header fields of a tile packet (R196). -/
def hdrTensor (h : BitVec 256) : Nat := bits h 255 232
def hdrFormat (h : BitVec 256) : Nat := bits h 183 180
def hdrSkip (h : BitVec 256) : Bool := bitAt h 179
def hdrTag (h : BitVec 256) : Nat := bits h 171 166

/-- What a packet becomes in the shadow bank: the first failing check of R56 applies; an uncorrectable header
counts as a failed tensor-ID check, an uncorrectable body poisons the chain (R120). -/
def bankOfPacket (i : ArrInstr) (p : Packet) : TileBank :=
  let f := hdrFormat p.header
  let tidFails := p.headerBad || (arrTidOn i.regs && decide (hdrTensor p.header % 65536 ≠ arrTid i.regs))
  let wide := decide (codeWidth (arrB i.regs) < codeWidth f)
  let skip := !tidFails && !wide && hdrSkip p.header
  { format := f
    elems := if skip then p.elems.map (fun _ => 0) else p.elems
    scales := if skip then p.scales.map (fun _ => 127) else p.scales
    transposed := i.trans
    poison := tidFails || wide || (p.bodyBad && !skip)
    skip := skip }

/-- The array is frozen while the tile's emergency signal stands (R70). -/
def arrayFrozen (s : State) (c : Nat) : Bool := decide ((s.tile (coreTile c)).state = .emergency)

/-- The cycle in which a load of a length that begins in a cycle ends: the freezes of a clash hold it (R70). -/
def loadEnd (a : ArrayState) (start len : Nat) : Nat :=
  let f := a.clash
  let begin := if f.1 ≤ start ∧ start < f.1 + f.2 then f.1 + f.2 else start
  if begin ≤ f.1 ∧ f.1 < begin + len then begin + len + f.2 else begin + len

/-- STATIONARY_LOAD: the tile at the queue head, or the next scratchpad tile, enters the shadow bank. Its slot is free in the cycle
after the load (R55), and a core that has died frees none (R121). -/
def execStationaryLoad (c : Nat) (s : State) : Out :=
  onCore s c (
    let k := nextArr (s.core c)
    match k.arr.cur with
    | none => s
    | some i =>
      if i.osp || k.arr.shadow.isSome || arrayFrozen s c || (s.heal c).dead then s
      else
        let start := max s.now i.issued
        if i.fromQueue then
          match k.queue with
          | [] => s
          | p :: q =>
            let b := bankOfPacket i p
            let len := if b.transposed && codeMx b.format then 64 else 32
            let x := coreX c
            let g := s.gantry x
            let done := loadEnd k.arr start len
            let back := [(c, done + 1)]
            let g1 := if p.north then { g with north := { g.north with returning := g.north.returning ++ back } }
              else { g with south := { g.south with returning := g.south.returning ++ back } }
            ((s.setCore c { k with queue := q, arr := { k.arr with shadow := some b, loadDone := done } }).setGantry
              x g1).addCorrected c p.corrected
        else
          let ti := k.arr.chain * arrP i.regs + k.arr.pass
          let code := arrB i.regs
          let rows := tileRows code
          let first := i.srcB.first + ti * rows
          let a := padAt c first
          let eb := 1024 * codeBits code / 8
          let sb := if codeMx code then 32 else 0
          let b : TileBank :=
            { format := code
              elems := (List.range eb).map (fun n => padByte s (a + n))
              scales := (List.range sb).map (fun n => padByte s (a + eb + n))
              transposed := i.trans
              poison := bytesBad s a (eb + sb)
              skip := false }
          let len := if b.transposed && codeMx code then 64 else 32
          ((s.setCore c { k with arr := { k.arr with shadow := some b, loadDone := loadEnd k.arr start len } }).noteRows
            c first rows).bump)

/-! ### Passes (R62-R66, R68-R70, R73, R74) -/

/-- Weight element (r, n) of a tile, widened with its block scale (R81, R82). -/
def tileElem (b : TileBank) (r n : Nat) : F32 :=
  widen b.format (elemPat (fun i => b.elems.getD i 0) b.format (32 * r + n)) (b.scales.getD n 0).toNat

/-- The 32-term sum of one output of one token: over r for a direct tile, over n for a transposed one (R65, R69). -/
def passSum (b : TileBank) (x : Nat → F32) (out : Nat) : F32 :=
  (List.range 32).foldl (fun acc m =>
    let w := if b.transposed then tileElem b out m else tileElem b m out
    toF32 (addFp (ofF32 acc) (mulFp (ofF32 w) (ofF32 (x m))))) fZero

/-- Accumulator of bank, token and output. -/
def accKey (bank t n : Nat) : Nat := bank * 8192 + t * 32 + n
/-- Accumulator of an OSP tile. -/
def ospKey (bank k n : Nat) : Nat := 16384 + bank * 1024 + k * 32 + n

/-- The cycle at which the next pass is due (R63, R64, R68). A first tile that loads in 64 cy (R69) is due like any other at issue + 32:
its other 32 cycles are tile-late freezes (log 70). -/
def passDue (k : Core) (i : ArrInstr) : Nat :=
  let passEnd := k.arr.passStart + k.arr.passLen
  if k.arr.chain ≠ 0 ∨ k.arr.pass ≠ 0 then passEnd
  else if k.arr.passLen = 0 ∨ k.arr.lastVec + 2 ≤ i.issued then max passEnd (i.issued + (if i.osp then 33 else 32))
  else if i.osp && !k.arr.lastOsp then max passEnd (max i.issued (k.arr.lastVec + 1) + 33)
  else passEnd

/-- Moves to the next pass; the last pass of the last chain ends the instruction's entry into the array. -/
def stepPass (a : ArrayState) (i : ArrInstr) : ArrayState :=
  if a.pass + 1 < arrP i.regs then { a with pass := a.pass + 1 }
  else if a.chain + 1 < arrC i.regs then { a with chain := a.chain + 1, pass := 0 }
  else { a with cur := none, chain := 0, pass := 0 }

/-- Counts freeze cycles of a core (R70). -/
def State.addFreezes (s : State) (c n : Nat) : State :=
  let h := s.heal c
  s.setHeal c { h with freezes := satAdd 32 h.freezes n }

/-- The rows that n bytes at byte offset off of a range touch: first row and row count. -/
def touched (first off n : Nat) : Nat × Nat := (first + off / 512, (off + n - 1) / 512 + 1 - off / 512)

/-- The cycle that a cycle of the drain moves to under the freezes since its last vector (R70). -/
def shifted (fs : List (Nat × Nat)) (cy : Nat) : Nat := fs.foldl (fun n f => if f.1 ≤ n then n + f.2 else n) cy

/-- A finished chain whose first or last row of the instruction's output is covered in part, so that its drain reads (R67). -/
def DrainJob.merges (j : DrainJob) : Bool :=
  !j.ins.osp
    && ((decide (j.chain = 0) && decide (arrDrnOff j.ins.regs ≠ 0))
      || (decide (j.chain + 1 = j.ins.drained)
          && decide ((8 * arrDrnOff j.ins.regs + j.ins.drained * sliceBytes (arrOut j.ins.regs) (arrT j.ins.regs)) % 512 ≠ 0)))

/-- The freezes of a pass in which two of the array's own reads, or writes, meet at one bank port (R70): the first frozen cycle and how
many. Only a pass with two operand ranges, or one beside a drain that merges, has them; how many the schedule fixes and the spec
leaves open (log 70). -/
def passClash (s : State) (c : Nat) (i : ArrInstr) (start : Nat) : Nat × Nat :=
  let k := s.core c
  if i.op = .wss ∨ i.op = .wts ∨ i.op = .osp ∨ k.arr.drains.any (fun j => j.merges) then
    let at' := start - k.genStart
    (start + Config.arrayClash (imageKey s c) c at' 1 % arrTokenTime i.regs, Config.arrayClash (imageKey s c) c at' 0)
  else (start, 0)

/-- Freezes move every drain in flight (R70). -/
def freezeDrains (js : List DrainJob) (f : Nat × Nat) : List DrainJob :=
  if f.2 = 0 then js else js.map (fun j => { j with shifts := j.shifts ++ [f] })

/-- An instruction that goes on with the accumulators the one before it kept (R66). -/
def ArrInstr.continues (i : ArrInstr) (a : ArrayState) : Bool :=
  decide (a.pass = 0) && decide (a.chain = 0) && i.acc && decide (a.kept = some (arrT i.regs))

/-- The accumulator bank that the next pass takes. -/
def nextBank (a : ArrayState) (i : ArrInstr) : Nat :=
  if i.osp then 1 - a.ospBank else if a.pass = 0 && !i.continues a then 1 - a.accBank else a.accBank

/-- A finished chain or tile whose drain the next pass waits for: it holds the bank that the pass takes (R67, R70). -/
def awaited (a : ArrayState) (i : ArrInstr) (j : DrainJob) : Bool :=
  (i.osp || decide (a.pass = 0)) && (j.ins.osp == i.osp) && decide (j.bank = nextBank a i)

/-- The next pass and the cycle in which it is due: a freeze stands from that cycle until it begins (R70). -/
def passWaits (k : Core) : Option (ArrInstr × Nat) :=
  let k1 := nextArr k
  k1.arr.cur.map (fun i => (i, passDue k1 i))

/-- A weight-stationary pass with the tile of the shadow bank. The other accumulator bank counts as free once its last row has
retired. While the pass waits for it, that drain alone goes on unmoved: R70 stops every drain stage and R67 lets the freeze end with
that drain (R67; log 70). -/
def swapWs (s : State) (c : Nat) (k : Core) (i : ArrInstr) (b : TileBank) : State :=
  let a := k.arr
  let T := arrT i.regs
  let begins := decide (a.pass = 0)
  let opening := begins && decide (a.chain = 0)
  let continues := i.continues a
  let bank := nextBank a i
  if a.drains.any (awaited a i) then s
  else
    let due := passDue k i
    let start := max (max s.now due) a.loadDone
    let S := sliceBytes (arrA i.regs) T
    let off := 8 * arrStrmOff i.regs + a.pass * S
    let base := padAt c i.srcA.first + off
    let fresh := begins && !continues
    let acc := (List.range T).foldl (fun m t =>
      let x := fun r => sliceElem s base (arrA i.regs) T 0 t r
      (List.range 32).foldl (fun m n =>
        let old := if fresh then fZero else tget fZero a.acc (accKey bank t n)
        tput fZero m (accKey bank t n) (fadd old (passSum b x n))) m) a.acc
    let broken := opening && i.acc && !continues
    let badT := (List.range T).filter (fun t => b.poison || broken || sliceTokenBad s base (arrA i.regs) T 0 t)
    let keep := if fresh then a.accPoison.filter (fun e => e / 256 != bank) else a.accPoison
    let poison := badT.foldl (fun m t => addOnce m (256 * bank + t)) keep
    let clash := passClash s c i start
    let lastVec := start + arrTokenTime i.regs - 1 + clash.2
    let ends := decide (a.pass + 1 = arrP i.regs)
    let moved := freezeDrains (freezeDrains a.drains (due, start - due)) clash
    let drains := if ends && decide (a.chain < i.drained) then
        moved ++ [{ ins := i, chain := a.chain, pass := a.pass, bank := bank, lastVec := lastVec, shifts := [] }]
      else moved
    let a1 : ArrayState := { a with
      live := some b, shadow := none, bankBit := !a.bankBit, acc := acc, accPoison := poison, accBank := bank
      kept := if ends && !decide (a.chain < i.drained) then some T else if opening then none else a.kept
      passStart := start, passLen := passLength i + clash.2, lastVec := lastVec, lastOsp := false, clash := clash
      drains := drains, skipSlices := if b.skip then addOnce a.skipSlices a.chain else a.skipSlices }
    let (r0, rn) := touched i.srcA.first off S
    let s1 := ((((s.advance start).setCore c { k with arr := stepPass a1 i }).addFreezes c (start - due + clash.2)).noteRows c r0 rn)
    let s2 := if b.skip then
        match s.partOfCore c with
        | some p =>
          let ct := s1.ctlOf p
          s1.setCtl p { ct with counts := { ct.counts with skippedTiles := ct.counts.skippedTiles + 1 } }
        | none => s1
      else s1
    (if (b.poison && i.fromQueue) || broken then s2.raise c .poison else s2).bump

/-- An output-stationary tile. -/
def swapOsp (s : State) (c : Nat) (k : Core) (i : ArrInstr) : State :=
  let a := k.arr
  let T := arrT i.regs
  let bank := nextBank a i
  if a.drains.any (awaited a i) then s
  else
    let due := passDue k i
    let start := max s.now due
    let sa := sliceBytes (arrA i.regs) T
    let sb := sliceBytes (arrB i.regs) T
    let offA := 8 * arrStrmOff i.regs + a.pass * sa
    let offB := a.chain * sb
    let baseA := padAt c i.srcA.first + offA
    let baseB := padAt c i.srcB.first + offB
    let seedRow := i.dst.first + 8 * (a.chain * arrP i.regs + a.pass)
    let seed := padAt c seedRow
    let acc := (List.range 32).foldl (fun m kk =>
      (List.range 32).foldl (fun m n =>
        let s0 := if i.seedz then fZero else f32At s seed (4 * (32 * kk + n))
        tput fZero m (ospKey bank kk n) ((List.range T).foldl (fun v t =>
          toF32 (addFp (ofF32 v) (mulFp (ofF32 (sliceElem s baseA (arrA i.regs) T 0 t kk))
            (ofF32 (sliceElem s baseB (arrB i.regs) T 0 t n))))) s0)) m) a.acc
    let bad := (List.range T).any (fun t => sliceTokenBad s baseA (arrA i.regs) T 0 t
        || sliceTokenBad s baseB (arrB i.regs) T 0 t)
      || (!i.seedz && bytesBad s seed 4096)
    let clash := passClash s c i start
    let lastVec := start + arrTokenTime i.regs - 1 + clash.2
    let keep := a.accPoison.filter (· != 1024 + bank)
    let a1 : ArrayState := { a with
      live := none, bankBit := !a.bankBit, acc := acc
      accPoison := if bad then addOnce keep (1024 + bank) else keep
      ospBank := bank, kept := none
      passStart := start, passLen := passLength i + clash.2, lastVec := lastVec, lastOsp := true, clash := clash
      drains := freezeDrains (freezeDrains a.drains (due, start - due)) clash
        ++ [{ ins := i, chain := a.chain, pass := a.pass, bank := bank, lastVec := lastVec, shifts := [] }] }
    let (ra, na) := touched i.srcA.first offA sa
    let (rb, nb) := touched i.srcB.first offB sb
    let s1 := ((((s.advance start).setCore c { k with arr := stepPass a1 i }).addFreezes c (start - due + clash.2)).noteRows
      c ra na).noteRows c rb nb
    (if i.seedz then s1 else s1.noteRows c seedRow 8).bump

/-- PASS_SWAP: the next pass begins behind the previous one (R62); a pass that cannot begin yet does not. -/
def execPassSwap (c : Nat) (s : State) : Out :=
  onCore s c (
    let k := nextArr (s.core c)
    match k.arr.cur with
    | none => s
    | some i =>
      if arrayFrozen s c then s
      else if i.osp then swapOsp s c k i
      else
        match k.arr.shadow with
        | none => s
        | some b => swapWs s c k i b)

/-! ### Drains (R67, R68) -/

/-- The cycle in which token t of a finished chain is converted (R67, R70). -/
def drainCycle (j : DrainJob) (t : Nat) : Nat := shifted j.shifts (j.lastVec + 65 + t)

/-- The bytes of one finished chain, converted, with the poison of each. -/
def chainBytes (s : State) (c : Nat) (j : DrainJob) : List Byte × List Bool :=
  let a := (s.core c).arr
  let r := j.ins.regs
  let T := arrT r
  sliceOut ((List.range T).map (fun t =>
    let vs := (List.range 32).map (fun n => scaleFp (arrScale r) (ofF32 (tget fZero a.acc (accKey j.bank t n))))
    let draws := (List.range 32).map (fun n =>
      if j.ins.sr then some (laneDraw s c (64 + n) (drainCycle j t)) else none)
    tokenOut (arrOut r) draws vs (List.replicate 32 (decide (256 * j.bank + t ∈ a.accPoison)))))

/-- The address of the first byte of a finished chain's output. -/
def chainAddr (c : Nat) (j : DrainJob) : Nat :=
  padAt c j.ins.dst.first + 8 * arrDrnOff j.ins.regs + j.chain * sliceBytes (arrOut j.ins.regs) (arrT j.ins.regs)

/-- Writes one finished chain: a row that it shares with the chain before or after it stays in the merge buffer (R67). -/
def drainWs (s : State) (c : Nat) (j : DrainJob) : State :=
  let o := chainBytes s c j
  (s.writeOut c (chainAddr c j) o.1 o.2 (decide (j.chain ≠ 0)) (decide (j.chain + 1 < j.ins.drained))).bump

/-- The bytes of one finished OSP tile, with the poison of each. -/
def ospBytes (s : State) (c : Nat) (j : DrainJob) : List Byte × List Bool :=
  let a := (s.core c).arr
  let bad := decide (1024 + j.bank ∈ a.accPoison)
  f32sOut ((List.range 1024).map (fun e => (tget fZero a.acc (ospKey j.bank (e / 32) (e % 32)), bad)))

/-- The address of the first byte of a finished OSP tile. -/
def ospAddr (c : Nat) (j : DrainJob) : Nat := padAt c (j.ins.dst.first + 8 * (j.chain * arrP j.ins.regs + j.pass))

/-- Writes one finished OSP tile over its seed. -/
def drainOsp (s : State) (c : Nat) (j : DrainJob) : State :=
  s.writeOut c (ospAddr c j) (ospBytes s c j).1 (ospBytes s c j).2 false false

/-- Writes the oldest finished chain or tile. -/
def drainJob (s : State) (c : Nat) (j : DrainJob) : State := if j.ins.osp then drainOsp s c j else drainWs s c j

/-- The cycle in which row n of an OSP tile retires: after the idle cycles of a short tile and the 8 cy bank switch, one row every 4 cy
(R68). The spec gives no cycle for a row of a tile: the model takes over R67's 2 cy from the last conversion to the row's write, after
the 14 cy that the bank switch and the first row take (DESIGN CHOICE, log 70); R72 poisons the rows that have not reached it. -/
def ospRowCycle (j : DrainJob) (n : Nat) : Nat :=
  shifted j.shifts (j.lastVec + (max (arrTokenTime j.ins.regs) 32 - arrTokenTime j.ins.regs) + 14 + 4 * n)

/-- The cycle in which the last row of a finished chain or tile retires. -/
def drainEnd (j : DrainJob) : Nat :=
  if j.ins.osp then ospRowCycle j 7 else drainCycle j (arrT j.ins.regs - 1) + 2

/-- The oldest finished chain or tile under the freeze of a pass that waits for its tile: none while that freeze holds it and its end is
not known (R70). -/
def heldDrain (k : Core) (j : DrainJob) : Option DrainJob :=
  match passWaits k with
  | none => some j
  | some (i, due) =>
    if i.osp || awaited (nextArr k).arr i j || decide (drainEnd j < due) then some j
    else if k.arr.shadow.isNone then none
    else (freezeDrains [j] (due, k.arr.loadDone - due)).head?

/-- CHAIN_DRAIN: the oldest finished chain or tile is converted and written. -/
def execChainDrain (c : Nat) (s : State) : Out :=
  onCore s c (
    let k := s.core c
    match k.arr.drains with
    | [] => s
    | j0 :: js =>
      match (if arrayFrozen s c then none else heldDrain k j0) with
      | none => s
      | some j =>
        let s1 := drainJob (s.advance (drainEnd j)) c j
        let k1 := s1.core c
        s1.setCore c { k1 with arr := { k1.arr with drains := js, drainedAt := drainEnd j } })

/-! ### Release of entries (R43) -/

/-- Whether the work behind an entry is done with its rows. -/
def releasable (k : Core) (e : SbEntry) : Bool :=
  match e.party with
  | .arr =>
    !k.iss.arrQ.any (fun i => i.id == e.owner)
      && !(match k.arr.cur with | some i => i.id == e.owner | none => false)
      && (decide (e.kind = .read) || !k.arr.drains.any (fun j => j.ins.id == e.owner))
  | .spb => match k.spb.run with | some i => i.id == e.owner | none => false
  | .vec => match k.vec.run with | some i => i.id == e.owner | none => false
  | .dma ch =>
    let d := tget {} k.chans ch
    decide (e.kind = .read) && decide (d.state = .active) && decide (bits d.desc 319 308 + 1 ≤ d.rowsRead)
  | .window _ => false

/-- An engine whose instruction in flight holds no more entries starts the next. -/
def settle (s : State) (c : Nat) : State :=
  let k := s.core c
  let spbDone := match k.spb.run with | some i => !holdsEntries k i.id | none => false
  let vecDone := match k.vec.run with | some i => !holdsEntries k i.id | none => false
  let k1 := { k with spb := if spbDone then { k.spb with run := none } else k.spb
                     vec := if vecDone then { k.vec with run := none } else k.vec }
  startVec c 4 (startSpb c 4 (s.setCore c k1))

/-- SCOREBOARD_RELEASE: entry number e is released whole, when its work is done with it. -/
def execScoreboardRelease (c entry : Nat) (s : State) : Out :=
  onCore s c (
    let k := s.core c
    match k.iss.sb[entry]? with
    | none => s
    | some e =>
      if releasable k e && k.snap.isNone then
        settle (s.setCore c (dropEntry k entry)) c
      else s)

/-! ### Abandonment (R72, R94) -/

/-- The chain whose output ends row r of a weight-stationary instruction's DST, and the token whose conversion completes the row
there (R54, R67). -/
def rowLast (i : ArrInstr) (r : Nat) : Nat × Nat :=
  let T := arrT i.regs
  let e := codeBytes (arrOut i.regs)
  let S := sliceBytes (arrOut i.regs) T
  let off := 8 * arrDrnOff i.regs
  let last := min ((r + 1) * 512) (off + i.drained * S) - 1 - off
  let ch := last / S
  let lo := max (r * 512) (off + ch * S) - off - ch * S
  let o := last % S
  (ch, if o < T * e then o / e else max (o - T * e) (if lo < T * e then T - 1 else 0))

/-- Whether row r of an instruction's DST has retired: its chain or tile has ended and been drained, or the row's own cycle has
passed. -/
def arrRowRetired (now : Nat) (k : Core) (i : ArrInstr) (r : Nat) : Bool :=
  let here := match k.arr.cur with | some j => j.id == i.id | none => false
  if i.osp then
    let tile := r / 8
    (!here || decide (tile < k.arr.chain * arrP i.regs + k.arr.pass))
      && (match k.arr.drains.find? (fun j => j.ins.id == i.id && decide (j.chain * arrP i.regs + j.pass = tile)) with
          | some j => decide (ospRowCycle j (r % 8) ≤ now)
          | none => true)
  else
    let e := rowLast i r
    (!here || decide (e.1 < k.arr.chain))
      && (match k.arr.drains.find? (fun j => j.ins.id == i.id && decide (j.chain = e.1)) with
          | some j => decide (drainCycle j e.2 + 2 ≤ now)
          | none => true)

/-- Array instructions in flight: the one in the array, once its first pass has begun, and those still draining. -/
def arrInFlight (k : Core) : List ArrInstr :=
  (k.arr.drains.map (·.ins) ++ (if arrWaiting k then [] else k.arr.cur.toList)).foldl
    (fun acc i => if acc.any (fun j => j.id == i.id) then acc else acc ++ [i]) []

/-- Rows an array instruction writes. -/
def arrDstRows (i : ArrInstr) : Nat :=
  if i.osp then arrNeedOsp i.regs else if i.drained = 0 then 0 else arrNeedOut i.regs i.drained

/-- The freeze that stands for the next pass of the array: its first cycle, and the cycle after its last, or the next one while it goes
on (R70). -/
def passFreeze (now : Nat) (k : Core) : Nat × Nat :=
  match passWaits k with
  | none => (now, now)
  | some (i, due) =>
    if now < due then (now, now)
    else if !i.osp && k.arr.shadow.isSome && decide (k.arr.loadDone ≤ now) && !k.arr.drains.any (awaited k.arr i) then
      (due, max due k.arr.loadDone)
    else (due, now + 1)

/-- The freezes that stand at a core whose work ends now: of its next pass, and of its tile's emergency. -/
def standing (s : State) (c : Nat) : List (Nat × Nat) :=
  let k := s.core c
  let f := passFreeze s.now k
  let e := if arrayFrozen s c && arrayBusy k (s.tile (coreTile c)).emergencySince then [((s.tile (coreTile c)).emergencySince, s.now + 1)] else []
  (if f.1 < f.2 then [f] else []) ++ e

/-- Cycles before the present one that the freezes standing at a core cover. -/
def frozenCycles (now : Nat) (fs : List (Nat × Nat)) : Nat :=
  let first := fs.foldl (fun m f => min m f.1) now
  ((List.range (now - first)).filter (fun i => fs.any (fun f => decide (f.1 ≤ first + i ∧ first + i < f.2)))).length

/-- Abandons the instructions in flight and discards the queues: every DST row not yet retired takes the poison
pattern, and a retired row keeps its results; a freeze that stands holds the drains and is counted (R70, R72). How many rows a vector or
springbok instruction had retired is free. -/
def State.abandon (s00 : State) (c : Nat) : State :=
  let fs := standing s00 c
  let k0 := s00.core c
  let hold := fun (j : DrainJob) =>
    match passWaits k0 with
    | some (i, _) => if awaited k0.arr i j then fs.filter (fun f => f != passFreeze s00.now k0) else fs
    | none => fs
  let k := { k0 with arr := { k0.arr with drains := k0.arr.drains.map (fun j =>
    { j with shifts := j.shifts ++ (hold j).map (fun f => (f.1, f.2 - f.1)) }) } }
  let s := s00.addFreezes c (frozenCycles s00.now fs)
  let s0 := k.arr.drains.foldl (fun t j => drainJob t c j) s
  let s1 := (arrInFlight k).foldl (fun t i =>
    ((List.range (arrDstRows i)).filter (fun r => !arrRowRetired s.now k i r)).foldl
      (fun t r => t.poisonRows c (i.dst.first + r) 1) t) s0
  let late := fun (t : State) (d : Span) (need : Nat) =>
    let done := Config.freeNat s.freeCtr d.first % (need + 1)
    t.poisonRows c (d.first + done) (need - done)
  let s2 := match k.spb.run with
    | some i => match i.dst with
      | some d => late s1 d (rowsFor 0 (spbN i.regs * spbV i.regs * (codeBits (spbOutput i.regs) / 8)))
      | none => s1
    | none => s1
  let s3 := match k.vec.run with
    | some i => match i.dst, vecWriteRows i.op i.regs i.sub with
      | some d, some n => late s2 d n
      | _, _ => s2
    | none => s2
  (s3.setCore c { k with
    iss := {}, snap := none
    arr := { k.arr with cur := none, chain := 0, pass := 0, live := none, shadow := none, kept := none, drains := [], passLen := 0 }
    spb := { k.spb with run := none, resident := [], residentPoison := [] }
    vec := { k.vec with run := none }
    queue := [] }).bump

end Sys2Proof.Machine
end

