-- ==== Sys2Proof/Machine/Fabric.lean ====
section
/-! DEFINITION. Quay-fabric packets as a quay sends them: header and CRC, flows, the forwarding table, packets sent again when a port goes
DOWN, and the rows that a quay forwards for its own module (R292-R295). -/

namespace Sys2Proof.Machine

/-- The header of a packet's bytes 4-31, over which its CRC runs (R196). -/
def headerCrcBytes (h : BitVec 256) : List Byte := (leBytes 32 h.toNat).drop 4

/-! ### Packets (R294) -/

def fabType (h : BitVec 256) : Nat := bits h 255 252
def fabDst (h : BitVec 256) : Nat := bits h 251 238
def fabDstQuay (h : BitVec 256) : Nat := bits h 237 236
def fabSrc (h : BitVec 256) : Nat := bits h 235 222
def fabSrcQuay (h : BitVec 256) : Nat := bits h 221 220
def fabLedger (h : BitVec 256) : Nat := bits h 215 184
def fabStep (h : BitVec 256) : Nat := bits h 183 120
def fabShard (h : BitVec 256) : Nat := bits h 119 104
def fabOffset (h : BitVec 256) : Nat := bits h 103 72
def fabLength (h : BitVec 256) : Nat := bits h 71 56
def fabFinal (h : BitVec 256) : Bool := bitAt h 54
def fabSeq (h : BitVec 256) : Nat := bits h 47 32

/-- What a packet is about: type, destination, step, shard, offset, flags. -/
structure FabHead where
  typ : Nat
  dm : Nat
  dq : Nat
  ledger : Nat
  step : Nat
  shard : Nat
  off : Nat
  final : Bool := false
  late : Bool := false
  poison : Bool := false
deriving DecidableEq, Repr

/-- A packet's header with its CRC. -/
def fabHeader (sm sq seq : Nat) (f : FabHead) (payload : List Byte) : BitVec 256 :=
  let w := f.typ % 16 * 2 ^ 252 + f.dm % 16384 * 2 ^ 238 + f.dq % 4 * 2 ^ 236 + sm % 16384 * 2 ^ 222 + sq % 4 * 2 ^ 220
    + f.ledger % 2 ^ 32 * 2 ^ 184 + f.step % 2 ^ 64 * 2 ^ 120 + f.shard % 2 ^ 16 * 2 ^ 104 + f.off % 2 ^ 32 * 2 ^ 72
    + payload.length % 2 ^ 16 * 2 ^ 56 + (if f.late then 2 ^ 55 else 0) + (if f.final then 2 ^ 54 else 0) + (if f.poison then 2 ^ 53 else 0)
    + seq % 2 ^ 16 * 2 ^ 32
  BitVec.ofNat 256 (w + crc32c (headerCrcBytes (BitVec.ofNat 256 w) ++ payload))

/-- A flow: source, destination, type, shard (R295). -/
def flowKey (sm sq dm dq typ shard : Nat) : Nat := ((((sm * 4 + sq) * 16384 + dm) * 4 + dq) * 16 + typ) * 65536 + shard

/-- A port that carries traffic. -/
def Port.up (v : Port) : Bool := decide (1 ≤ v.outcome ∧ v.outcome ≤ 3)

/-- The quay-fabric ports of a quay that may carry packets toward a destination: by the written table, else by far-end
identity (R295). -/
def allowedPorts (s : State) (q m dq : Nat) : List Nat :=
  let bs := s.cfgBytes (0x5000 + q) 0x10
  (List.range 32).filter (fun p =>
    if bs.isEmpty then decide ((512 + 32 * q + p, m, dq) ∈ s.fabric.peers)
    else (leAt bs (4 * (4 * m + dq)) 4).testBit p)

/-- The port of a flow: the one its hash picks, or the next allowed one in ascending order that is up. -/
def routePort (s : State) (q m dq flow : Nat) : Option Nat :=
  let l := allowedPorts s q m dq
  let k := Config.flowHash flow q m dq % max 1 l.length
  ((l.drop k ++ l.take k).find? (fun p => (s.port (512 + 32 * q + p)).up)).map (fun p => 512 + 32 * q + p)

/-- Sends one packet from a quay; without an allowed port it is rejected and counted (R295). -/
def State.sendPacket (s : State) (q : Nat) (f : FabHead) (payload : List Byte) : State :=
  let flow := flowKey s.moduleNumber q f.dm f.dq f.typ f.shard
  match routePort s q f.dm f.dq flow with
  | none => { s with ledger := { s.ledger with rejectsReceived := satAdd 32 s.ledger.rejectsReceived 1 } }
  | some port =>
    let seq := tget 0 s.fabric.nextSeq flow
    { s with fabric := { s.fabric with
        sent := s.fabric.sent ++ [(port, fabHeader s.moduleNumber q seq f payload, payload)]
        nextSeq := tput 0 s.fabric.nextSeq flow ((seq + 1) % 65536) } }

/-- Puts a packet already formed on the port that its flow has now. -/
def State.putPacket (s : State) (q : Nat) (h : BitVec 256) (payload : List Byte) : State :=
  match routePort s q (fabDst h) (fabDstQuay h)
      (flowKey (fabSrc h) (fabSrcQuay h) (fabDst h) (fabDstQuay h) (fabType h) (fabShard h)) with
  | none => s
  | some port => { s with fabric := { s.fabric with sent := s.fabric.sent ++ [(port, h, payload)] } }

/-- A quay-fabric port has gone DOWN: the last packets that it carried, as many as its link had accepted and not acknowledged, go out
again on the next allowed port of their flows with their sequence numbers (R292, R295). How many those are is a free number (log 8). -/
def State.resendFabric (s : State) (port : Nat) : State :=
  let mine := s.fabric.sent.filter (fun e => e.1 == port)
  let n := Config.freeNat s.freeCtr (2 ^ 21 + port)
  (mine.drop (mine.length - n)).foldl (fun t e => t.putPacket ((port - 512) / 32) e.2.1 e.2.2) s

/-- Bytes of a DNet packet within a ROW packet: its header, the address that a packet to an edge target carries, its row (log 21). -/
def netBytes (p : NetPacket) : List Byte :=
  leBytes 8 p.header.toNat ++ (match p.address with | some a => leBytes 8 a.toNat | none => [])
    ++ (match p.data with | some r => fitBytes 512 r.bytes | none => [])

/-- The packet as its source quay forwards it: to the quay of the same number of the destination module (R293, R294). -/
def rowHead (m q off : Nat) (data : Option Row) : FabHead :=
  { typ := 9, dm := m, dq := q, ledger := 0, step := 0, shard := 0, off := off / 512
    poison := match data with | some r => !r.poison.isEmpty | none => false }

/-- A row of class 1 or 2 for another module: the source core's own quay of that number forwards it (R293). -/
def State.forwardRow (s : State) (p : NetPacket) : State :=
  match p.address with
  | none => s
  | some a =>
    let m := a.toNat / 2 ^ 50 % 16384
    let class_ := a.toNat / 2 ^ 47 % 8
    let q := a.toNat / 2 ^ 45 % 4
    if m = s.moduleNumber ∨ (class_ ≠ 1 ∧ class_ ≠ 2) then s
    else s.sendPacket q (rowHead m q (a.toNat % 2 ^ 45) p.data) (netBytes p)

end Sys2Proof.Machine
end

