-- ==== Sys2Proof/Machine/Access.lean ====
section
/-! DEFINITION. What every Sivar operation shares: who may ask (R386, R402, R412), the answer, the one way a saved
object changes (R391, R392), tickets (R405). -/

namespace Sys2Proof.Machine

/-- The answer of an operation (R387; log 20). -/
def State.answer (s : State) (status : Nat) : State :=
  { s with resp := { s.resp with status := status, executed := 1 } }

/-- The answer of an operation that returns data. -/
def State.answerData (s : State) (data : List Byte) : State :=
  { s with resp := { status := stOk, data := data, executed := 1 } }

/-- The open session of a slot. -/
def State.session (s : State) (k : Nat) : Option Session :=
  match tget none s.sivar.sessions k with
  | some ses => if ses.phase = 2 then some ses else none
  | none => none

/-- The role a client acts with: that of its open session; ADMIN from a host whose link is up (R402). -/
def State.roleOf (s : State) (cl : Client) : Option Nat :=
  match cl with
  | .session k => (s.session k).map (fun x => x.role)
  | .pcie i => if (s.host i).up then some 3 else none

/-- The outcome of the checks on the client (R386 steps 2 and 3): none where the operation goes on. -/
def clientStatus (s : State) (cl : Client) (admin : Bool) : Option Nat :=
  match s.roleOf cl with
  | none => some stAuth
  | some r =>
    if r < 2 ∨ (r = 2 ∧ admin) then some stAuth
    else
      match cl with
      | .pcie i => if i = s.sivar.primary then none else some stAccess
      | .session _ => none

/-- The controller serves operations from the end of S0, unless it restarts (R321, R376, R418). -/
def State.serving (s : State) : Bool := s.mc.up && !s.mc.restarting

/-- A write or command of a client, of the few that the recovery loader serves too (R441): nothing happens where no client of
that name is connected; a refused client gets its status; else the operation gives its state and its status. -/
def State.loaderCommand (s : State) (cl : Client) (admin : Bool) (f : State → State × Nat) : State :=
  if !s.serving || (s.roleOf cl).isNone then s
  else
    let s0 : State := { s with resp := {} }
    match clientStatus s cl admin with
    | some st => s0.answer st
    | none => (f s0).1.answer (f s0).2

/-- Any other write or command: the recovery loader answers E_STATE (R441). -/
def State.command (s : State) (cl : Client) (admin : Bool) (f : State → State × Nat) : State :=
  s.loaderCommand cl admin (fun t => if t.bring.loader then (t, stState) else f t)

/-- An object that an open draft holds (R392). -/
def State.drafted (s : State) (key : Nat) : Bool :=
  match s.sivar.draft with
  | some d => d.values.any (fun e => e.1 == key)
  | none => false

/-- Replaces the configuration: the current one becomes the previous one, versions count on (R394). -/
def State.newConfig (s : State) (cfg : Tbl (List Byte)) : State :=
  { s with sivar := { s.sivar with config := cfg, previous := s.sivar.config, version := s.sivar.version + 1,
                                   prevVersion := s.sivar.version } }

/-- A direct write of one saved object: E_BUSY where a draft holds it, else a new version (R392). -/
def State.save (s : State) (idx sub : Nat) (v : List Byte) : State × Nat :=
  if s.drafted (okey idx sub) then (s, stBusy)
  else (s.newConfig (tset s.sivar.config (okey idx sub) v), stOk)

/-- Opens a ticket for a deferred action (R405); the last 256 are kept. -/
def State.openTicket (s : State) (idx sub : Nat) : State :=
  let t : Ticket := { number := s.sivar.nextTicket, index := idx, sub := sub, done := false, status := 0,
                      taken := s.utc, finish := 0, journalled := false }
  let l := s.sivar.tickets ++ [t]
  { s with sivar := { s.sivar with tickets := l.drop (l.length - 256), nextTicket := s.sivar.nextTicket + 1 }
           resp := { s.resp with flags := 1, ticket := t.number } }

/-- A deferred action that holds an object (R405). -/
def State.heldByTicket (s : State) (idx sub : Nat) : Bool :=
  s.sivar.tickets.any (fun t => !t.done && t.index == idx && t.sub == sub)

/-- Ends the running tickets of an object with a status. -/
def State.closeTicket (s : State) (idx sub status : Nat) : State :=
  { s with sivar := { s.sivar with tickets := s.sivar.tickets.map (fun t =>
      if !t.done ∧ t.index = idx ∧ t.sub = sub then { t with done := true, status := status, finish := s.utc } else t) } }

/-- Ends ticket number n with a status. -/
def State.endTicket (s : State) (n status : Nat) : State :=
  { s with sivar := { s.sivar with tickets := s.sivar.tickets.map (fun t =>
      if !t.done ∧ t.number = n then { t with done := true, status := status, finish := s.utc } else t) } }

/-- The run state of partition p as its number (R163). -/
def RunState.number : RunState → Nat
  | .stopped => 0
  | .starting => 1
  | .running => 2
  | .stopping => 3
  | .fault => 4

/-- A defined partition (R163). -/
def State.defined (s : State) (p : Nat) : Bool := decide (0 < s.widthOf p)

/-- Whether a partition has marks: RUNNING or STOPPING. -/
def Partition.marks (pt : Partition) : Bool := decide (pt.run = .running) || decide (pt.run = .stopping)

end Sys2Proof.Machine
end

