-- ==== Sys2Proof/Machine/Net.lean ====
section
/-! DEFINITION. The DNet: global addresses, packet headers and their injection, router pointers, transit trains, and the column
shifts that delay links and gantries (R12, R106-R114, R128, R222, R293, R414). -/

namespace Sys2Proof.Machine

/-! ### Addresses (R12, R134, R222, R414) -/

/-- Module of an address: locality 01 qualifies it to this module. -/
def addrModule (s : State) (loc a : Nat) : Nat := if loc = 0 then a / 2 ^ 50 % 16384 else s.moduleNumber
def addrClass (a : Nat) : Nat := a / 2 ^ 47 % 8
def addrCore (a : Nat) : Nat := a / 2 ^ 32 % 32768
def addrQuay (a : Nat) : Nat := a / 2 ^ 45 % 4
def addrOffset (a : Nat) : Nat := a % 2 ^ 45
def addrMailPart (a : Nat) : Nat := a / 2 ^ 44 % 8
def addrRow (a : Nat) : Nat := a / 512 % 4096
/-- Edge, unit and column of a class 4 address (R222). -/
def addrNorth (a : Nat) : Bool := decide (a / 2 ^ 46 % 2 = 1)
def addrUnit (a : Nat) : Nat := a / 2 ^ 39 % 128
def addrColumn (a : Nat) : Nat := a / 2 ^ 38 % 2
/-- Base row of an address on this core. -/
def localBase (a : Nat) : Nat := a / 512

/-- Aligned as R12 asks of its class. -/
def addrAligned (a : Nat) : Bool :=
  decide (a % 512 = 0)
    && (match addrClass a with
        | 0 => decide (a / 2 ^ 21 % 2048 = 0)
        | 3 => decide (a / 2 ^ 21 % 2 ^ 23 = 0)
        | 4 => decide (a / 2 ^ 21 % 2 ^ 17 = 0)
        | _ => true)

/-- The address with its module field, as a second header word carries it. -/
def globalAddr (s : State) (loc a : Nat) : Nat := addrModule s loc a * 2 ^ 50 + a % 2 ^ 50

/-- Quays that a band reaches (R14): quays 0 and 2 on tile columns 0-3, quays 1 and 3 on columns 4-7. -/
def bandReaches (s : State) (p q : Nat) : Bool :=
  (List.range 4).any (fun i => s.bandHas p (4 * (q % 2) + i))

/-- The entry of a module in a partition's route table (R293). -/
def routeEntry (s : State) (p m : Nat) : Nat := leAt (s.cfgBytes (0x2100 + p) 0x26) (2 * m) 2

/-- Whether the source router, or the address itself, turns a packet back (R12, R15, R108, R135, R293, R414). A core names itself by
locality 10 alone. -/
def routerRejects (s : State) (c loc a : Nat) : Bool :=
  let m := addrModule s loc a
  let home := decide (m = s.moduleNumber)
  match s.partOfCore c with
  | none => true
  | some p =>
    !addrAligned a
      || (match addrClass a with
          | 0 =>
            let t := addrCore a
            if !coreExists s t then true
            else if home then decide (t = c) || (!s.bandHas p (coreX t / 24) && decide (coreY t ≠ coreY c))
            else decide (routeEntry s p m / 16384 = 0)
          | 1 => !bandReaches s p (addrQuay a)
          | 2 => !bandReaches s p (addrQuay a)
          | 3 => !home || decide (addrMailPart a ≠ p) || decide (256 ≤ addrRow a)
          | 4 => !home
          | _ => true)

/-! ### Packets (R109) -/

/-- A header word. Types: 0 row write, 1 read request, 2 read response, 3 write response, 4 reject. -/
def netHeader (type vc dx dy sx sy ch row tag : Nat) : BitVec 64 :=
  BitVec.ofNat 64 (type % 8 * 2 ^ 61 + vc % 4 * 2 ^ 59 + dx % 256 * 2 ^ 51 + dy % 256 * 2 ^ 43 + sx % 256 * 2 ^ 35
    + sy % 256 * 2 ^ 27 + ch % 8 * 2 ^ 24 + row % 4096 * 2 ^ 12 + tag % 4096)

def netType (h : BitVec 64) : Nat := bits h 63 61
def netVc (h : BitVec 64) : Nat := bits h 60 59
def netX (h : BitVec 64) : Nat := bits h 58 51
def netY (h : BitVec 64) : Nat := bits h 50 43
def netSrcX (h : BitVec 64) : Nat := bits h 42 35
def netSrcY (h : BitVec 64) : Nat := bits h 34 27
def netChan (h : BitVec 64) : Nat := bits h 26 24
def netRow (h : BitVec 64) : Nat := bits h 23 12
def netTag (h : BitVec 64) : Nat := bits h 11 0

/-- Logical row of a fabric port (R108). -/
def fabricRow (n : Nat) : Nat := n + n / 8

/-- Destination x and y of a packet that leaves by a route entry (R109, R293). -/
def routeDest (e : Nat) : Nat × Nat := (if e / 16384 = 1 then 0xFE else 0xFF, fabricRow (e % 128))

/-- Destination x and y of a packet to an address, and whether it is an edge target (R108, R109). -/
def netDest (s : State) (c loc a : Nat) : Nat × Nat × Bool :=
  match addrClass a with
  | 0 =>
    if addrModule s loc a = s.moduleNumber then (coreX (addrCore a), coreY (addrCore a), false)
    else
      let d := routeDest (routeEntry s ((s.partOfCore c).getD 0) (addrModule s loc a))
      (d.1, d.2, true)
  | 1 => (coreX c, if addrQuay a < 2 then 0xFF else 0xFE, true)
  | 2 => (coreX c, if addrQuay a < 2 then 0xFF else 0xFE, true)
  | 4 => (coreX c, if addrNorth a then 0xFF else 0xFE, true)
  | _ => (coreX c, 0xFF, true)

/-- The packet of a channel's row write or read request to an address. -/
def rowPacket (s : State) (c loc a type vc ch tag : Nat) (data : Option Row) : NetPacket :=
  let d := netDest s c loc a
  { header := netHeader type vc d.1 d.2.1 (coreX c) (coreY c) ch (if d.2.2 then 0 else addrRow a) tag
    address := if d.2.2 then some (BitVec.ofNat 64 (globalAddr s loc a)) else none
    data := data }

/-- The response or reject of core c to a channel of a source core; none where its module has no route back (log 72). -/
def responsePacket (s : State) (c srcModule srcCore type vc ch tag : Nat) (data : Option Row) : Option NetPacket :=
  if srcModule = s.moduleNumber then
    some { header := netHeader type vc (coreX srcCore) (coreY srcCore) (coreX c) (coreY c) ch 0 tag, address := none, data := data }
  else
    match s.partOfCore c with
    | none => none
    | some p =>
      let e := routeEntry s p srcModule
      let d := routeDest e
      if e / 16384 = 0 then none
      else some { header := netHeader type vc d.1 d.2 (coreX c) (coreY c) ch 0 tag
                  address := some (BitVec.ofNat 64 (srcModule % 16384 * 2 ^ 50 + srcCore % 32768 * 2 ^ 32)), data := data }

/-- Flits of a packet (R109). -/
def packetFlits (h : BitVec 64) : Nat := if netType h = 0 ∨ netType h = 2 then 4 else 1

/-! ### Transit (R113) -/

/-- The transit of a packet that leaves its partition's columns: partition, direction, row, the column that it waits at, the column it
leaves the row links at. -/
def transitOf (s : State) (p : Nat) (h : BitVec 64) : Option (Nat × Bool × Nat × Nat × Option Nat) :=
  let first := 24 * s.firstCol p
  let next := 24 * (s.firstCol p + s.widthOf p)
  let x := netX h
  let y := if x = 0xFE ∨ x = 0xFF then netY h else netSrcY h
  if x = 0xFE then (if 0 < first then some (p, false, y, first, none) else none)
  else if x = 0xFF then (if next < 192 then some (p, true, y, next - 1, some 192) else none)
  else if next ≤ x then some (p, true, y, next - 1, some x)
  else if x < first then some (p, false, y, first, some x)
  else none

/-- The transit of a response or reject to a core of another partition of this module: it rides the slots of the requester's partition
from the responder's column on, whose links lie outside that partition's columns, up to the last foreign column (R113, R114 and its
worked example). -/
def transitBack (s : State) (p : Nat) (h : BitVec 64) : Option (Nat × Bool × Nat × Nat × Option Nat) :=
  match s.partOfColumn (netX h / 24) with
  | none => none
  | some q =>
    let first := 24 * s.firstCol q
    let next := 24 * (s.firstCol q + s.widthOf q)
    let x := netSrcX h
    if q = p then none
    else if next < x then some (q, false, netSrcY h, x, some next)
    else if x + 1 < first then some (q, true, netSrcY h, x, some (first - 1))
    else none

/-- The flits of a packet that cross columns of another partition. -/
def transitFlits (s : State) (c : Nat) (h : BitVec 64) : List Flit :=
  match s.partOfCore c with
  | none => []
  | some b =>
    match (if 2 ≤ netType h ∧ netX h < 192 then transitBack s b h else transitOf s b h) with
    | none => []
    | some (part, east, y, source, dest) =>
      List.replicate (packetFlits h) { part := part, row := y, east := east, source := source, dest := dest, entered := none }

/-- The output that dimension order gives a packet at its source router: 0 east, 1 west, 2 north, 3 south, 4 ejection. A packet to an
edge port goes along its source column first (R108). -/
def firstOutput (h : BitVec 64) : Nat :=
  let edgeX := decide (netX h = 0xFE ∨ netX h = 0xFF)
  if !edgeX && decide (netSrcX h < netX h) then 0
  else if !edgeX && decide (netX h < netSrcX h) then 1
  else if netY h = 0xFF ∨ (netSrcY h < netY h ∧ netY h ≠ 0xFE) then 2
  else if netY h = 0xFE ∨ netY h < netSrcY h then 3
  else if netX h = 0xFF then 0
  else if netX h = 0xFE then 1
  else 4

/-- A core's router puts a packet out: a reserved type is discarded and counted at the source tile (R109); any other is on the
DNet, the round-robin pointer of its output moves past the local input's channel (R111, log 72), and the flits of a packet whose path
leaves its partition's columns wait in order for its transit slots (R113). The own quay forwards a row of class 1 or 2 for another module
(R293). -/
def State.inject (s : State) (c : Nat) (p : NetPacket) : State :=
  let t := s.tile (coreTile c)
  if 4 < netType p.header then s.setTile (coreTile c) { t with badTypes := t.badTypes + 1 }
  else
    let k := s.core c
    let s1 := s.setCore c { k with routerTurn := tput 0 k.routerTurn (firstOutput p.header) (16 + netVc p.header + 1) }
    State.forwardRow { s1 with net := s1.net ++ [p], transit := s1.transit ++ transitFlits s c p.header } p

/-- Puts out a response where it has a way back. -/
def State.injectSome (s : State) (c : Nat) (p : Option NetPacket) : State :=
  match p with
  | some q => s.inject c q
  | none => s

/-- Slots a partition's image holds in a direction (R114). -/
def slotsHeld (s : State) (p : Nat) (east : Bool) : Nat :=
  match (s.part p).image with
  | some img => if east then bits img.header.transit 31 24 else bits img.header.transit 23 16
  | none => 0

/-- Whether logical row y of column x lay past a removed site when bring-up stage S3 measured the links (R113, R128). -/
def offsetAt (s : State) (x y : Nat) : Bool :=
  let f := tget 0 s.overlay.measured (tileOf x y * 24 + x % 24)
  decide (0 < f ∧ f ≤ y % 24 + 1)

/-- Calibrated distance of the link of row y that enters column x, from the west edge router eastbound and from the east edge router
westbound: one cycle a hop, three a tile boundary, one a hop between rows of different physical offset (R106, R113, R128). -/
def linkDistance (s : State) (y x : Nat) (east : Bool) : Nat :=
  let hops := if east then x - 1 else 190 - x
  let skew := ((List.range hops).filter (fun i =>
    let a := if east then i else 191 - i
    let b := if east then i + 1 else 190 - i
    offsetAt s a y != offsetAt s b y)).length
  hops + 3 * (hops / 24) + skew

/-- The slot of the link that enters column x in a cycle (R113). -/
def linkSlot (s : State) (y x cycle : Nat) (east : Bool) : Nat :=
  (cycle + 8 * (linkDistance s y x east / 8 + 1) - linkDistance s y x east) % 8

/-- The column whose link a flit enters next. -/
def nextColumn (f : Flit) : Nat :=
  match f.entered with
  | none => if f.east then f.source + 1 else f.source - 1
  | some (x, _) => if f.east then x + 1 else x - 1

/-- A flit enters the link of the next column: it leaves the row links at its destination column or at the edge. -/
def moveFlit (l : List Flit) (n x cycle : Nat) (f : Flit) : List Flit :=
  if f.dest = some x ∨ (f.east ∧ x = 191) ∨ (!f.east ∧ x = 0) then l.eraseIdx n
  else l.set n { f with entered := some (x, cycle) }

/-- The first cycle in which a further flit of a partition may enter its first foreign link of a row: one flit a cycle. -/
def transitFrom (s : State) (p y : Nat) (east : Bool) : Nat :=
  match s.transitUsed.find? (fun e => e.1 == p && e.2.1 == y && e.2.2.1 == east) with
  | some e => e.2.2.2 + 1
  | none => 0

/-- The first foreign link of a row has taken a flit in a cycle. -/
def State.useTransit (s : State) (p y : Nat) (east : Bool) (cycle : Nat) : State :=
  { s with transitUsed := (s.transitUsed.filter (fun e => !(e.1 == p && e.2.1 == y && e.2.2.1 == east))) ++ [(p, y, east, cycle)] }

/-- TRANSIT_SLOT_ENTRY: the oldest flit of a partition that is next for a foreign link of a row enters it, where its partition
holds the slot of that cycle; past its first foreign link it keeps pace with its train. Nothing of the crossed partition
changes, and a link of the flit's own columns takes no slot. -/
def execTransitSlotEntry (p : Nat) (place : Station) (cycle : Nat) (east : Bool) (s : State) : Out :=
  onPart p (
    let y := place.y
    let x := place.x
    match s.transit.findIdx? (fun f => f.part == p && f.row == y && f.east == east && nextColumn f == x) with
    | none => s
    | some n =>
      match s.transit[n]? with
      | none => s
      | some f =>
        let at' := match f.entered with
          | none => max (max s.now cycle) (transitFrom s p y east)
          | some (w, t) => t + linkDistance s y x east - linkDistance s y w east
        if s.bandHas p (x / 24) || !(slotsHeld s p east).testBit (linkSlot s y x at' east) then s
        else
          let s1 := { s.advance at' with transit := moveFlit s.transit n x at' f }
          if f.entered.isNone then s1.useTransit p y east at' else s1)

/-! ### Column shifts on the vertical links (R128) -/

/-- An overlay entry waits for the restart of a partition before it takes effect in hardware (R330). -/
def pendingFence (s : State) (f : Fence) : Bool := s.overlay.pending.any (fun e => e.2 == f)

/-- The removed site's physical row in a tile's column, when the column carries a shift that is in force. -/
def shiftRow (s : State) (t col : Nat) : Option Nat :=
  ((s.overlay.fuses ++ s.overlay.entries ++ s.overlay.startFences).find?
    (fun f => f.cls == 2 && f.unit / 65536 == t && f.unit / 256 % 256 == col && !pendingFence s f)).map (fun f => f.unit % 256)

/-- Removed sites that a gantry beat passes on its way from an end to row y of column x. -/
def sitesPassed (s : State) (north : Bool) (x y : Nat) : Nat :=
  ((List.range 6).filter (fun ty =>
    match shiftRow s (ty * 8 + x / 24) (x % 24) with
    | none => false
    | some f =>
      if ty = y / 24 then (if north then decide (y % 24 < f) else decide (f ≤ y % 24))
      else if north then decide (y / 24 < ty) else decide (ty < y / 24))).length

end Sys2Proof.Machine
end

