-- ==== Sys2Proof/Machine/Sequencer.lean ====
section
/-! DEFINITION. The sequencer operations, the end of a bundle, and the DMA slot (R25-R31, R48, R156, R157). -/

namespace Sys2Proof.Machine

/-- The bundle issues: its slots stand, the core's fields change as its sequencer operation says, the next bundle
may issue one cycle later, and idle engines start what was queued (R28, R31). -/
def closeBundle (s : State) (c : Nat) (f : Core → Core) : State :=
  let s1 := s.toIssue c
  let k := f { s1.core c with snap := none }
  let s2 := s1.setCore c { k with nextIssue := s1.now + 1 }
  startVec c 4 (startSpb c 4 s2)

/-- A sequencer operation: an unreadable bundle stops the core (R46), else the bundle issues. -/
def seqOp (s : State) (c : Nat) (f : Core → Core) : Out :=
  onIssuing s c (
    if (s.core c).bp ∈ (s.core c).storeBad then (s.toIssue c).stopBundle c .istoreEcc else closeBundle s c f)

/-- The pointer moves to the next bundle. -/
def bpNext (k : Core) : Core := { k with bp := (k.bp + 1) % 4096 }

/-- NEXT does nothing of its own (R27). -/
def execNext (c : Nat) (s : State) : Out := seqOp s c bpNext

/-- LOOP opens a level whose body starts at the next bundle (R27). -/
def execLoop (c level count : Nat) (s : State) : Out :=
  seqOp s c (fun k => bpNext { k with loops := k.loops.take level ++ [(count, (k.bp + 1) % 4096)] })

/-- ENDL loops back to the body's first bundle, or falls through on the last iteration (R28). -/
def execEndl (c level : Nat) (s : State) : Out :=
  seqOp s c (fun k =>
    match k.loops[level]? with
    | none => bpNext k
    | some (n, start) =>
      if 1 < n then { k with loops := k.loops.set level (n - 1, start), bp := start }
      else bpNext { k with loops := k.loops.take level })

/-- SETIX takes effect from the next bundle (R28). -/
def execSetix (c r value : Nat) (s : State) : Out :=
  seqOp s c (fun k => bpNext { k with ix := tput 0 k.ix r (BitVec.ofNat 12 value) })

/-- ADDIX adds modulo 4,096 (R27). -/
def execAddix (c r value : Nat) (s : State) : Out :=
  seqOp s c (fun k => bpNext { k with ix := tput 0 k.ix r (tget 0 k.ix r + BitVec.ofNat 12 value) })

/-- WAITMARK stops issue until the earliest instance of the entry after the core's cursor, and arrives for it
(R156, R157). An arrival before the slack water is counted as early, where the core's participation bit is set. -/
def execWaitmark (c entry : Nat) (s : State) : Out :=
  onIssuing s c (
    if (s.core c).bp ∈ (s.core c).storeBad then (s.toIssue c).stopBundle c .istoreEcc
    else
      match s.partOfCore c with
      | none => s
      | some p =>
        let pt := s.part p
        let e := tideEntry pt entry
        let (n, i, o) := nextInst pt e (s.core c).cursor
        let target := instTime pt e n i o
        let arrived := max s.now (s.core c).nextIssue
        let s1 := closeBundle s c (fun k => bpNext { k with wait := .mark entry target arrived })
        let ct := s1.ctlOf p
        if arrived + tideSlack e < target ∧ entry ∈ (s.core c).participates then
          s1.setCtl p { ct with counts := { ct.counts with early := satAdd 32 ct.counts.early 1 } }
        else s1)

/-- BARRIER arrives on a wire and stops issue until the barrier completes (R27, R124). -/
def execBarrier (c wire : Nat) (s : State) : Out :=
  onIssuing s c (
    if (s.core c).bp ∈ (s.core c).storeBad then (s.toIssue c).stopBundle c .istoreEcc
    else
      let s1 := closeBundle s c (fun k => bpNext { k with wait := .wire wire })
      match s.partOfCore c with
      | none => s1
      | some p => s1.setPart p { s1.part p with barriers := (s1.part p).barriers ++ [(wire, c, s1.now)] })

/-- A channel with neither a pending nor an active descriptor. -/
def channelFree (k : Core) (ch : Nat) : Bool :=
  decide ((tget {} k.chans ch).state = .idle) && (tget none k.iss.pend ch).isNone

/-- WAITDMA stops issue until the channel has no pending and no active descriptor (R27). -/
def execWaitdma (c ch : Nat) (s : State) : Out :=
  seqOp s c (fun k => bpNext { k with wait := if channelFree k ch then .running else .dma ch })

/-- HALT ends the segment; the core idles until the next launch (R27). -/
def execHalt (c : Nat) (s : State) : Out := seqOp s c (fun k => { k with wait := .halted })

/-- JUMP sets the bundle pointer (R27). -/
def execJump (c target : Nat) (s : State) : Out := seqOp s c (fun k => { k with bp := target % 4096 })

/-! ### Windows armed (R43, R48) -/

def winDir (m : BitVec 128) : Nat := bits m 45 44
def winBase (m : BitVec 128) : Nat := bits m 69 58
def winRows (m : BitVec 128) : Nat := bits m 57 46 + 1

/-- ARMWIN: the window's entry is checked after the bundle's slots; a closed or fenced window arms nothing. -/
def execArmwin (c win rowsM1 : Nat) (s : State) : Out :=
  onIssuing s c (
    let s1 := s.toIssue c
    let k := openBundle (s1.core c)
    let w := tget {} k.windows win
    let s2 := s1.setCore c k
    if k.bp ∈ k.storeBad then s2.stopBundle c .istoreEcc
    else if w.armed then s2.stopBundle c .windowArm
    else if w.fenced || w.closedSinceLoad || decide (winDir w.map = 0) then closeBundle s2 c bpNext
    else
      let span : Span := { first := winBase w.map, rows := winRows w.map }
      let id := k.iss.serial
      let kind : Access := if winDir w.map = 1 then .write else .read
      let e := entryOf span kind (.window win) id
      match checkSb k.live k.mine [e] with
      | .intraBundle => s2.stopBundle c .intraBundle
      | .hazard => if coreElastic s c then s2.waitBundle c else s2.stopBundle c .sbHazard
      | .full => if coreElastic s c then s2.waitBundle c else s2.stopBundle c .sbFull
      | .clear =>
        closeBundle s2 c (fun k => bpNext { k with
          iss := { k.iss with sb := k.iss.sb ++ [e], serial := id + 1 }
          windows := tput {} k.windows win { w with armed := true, left := rowsM1 + 1, exhausted := false, poisoned := false, armedAt := s1.now } }))

/-! ### The DMA slot (R30, R31, R134) -/

def descKind (d : BitVec 512) : Nat := bits d 511 508
def descSrcLoc (d : BitVec 512) : Nat := bits d 507 506
def descDstLoc (d : BitVec 512) : Nat := bits d 505 504
def descVc (d : BitVec 512) : Nat := bits d 503 502
def descCheck (d : BitVec 512) : Nat := bits d 501 500
def descResult (d : BitVec 512) : Bool := decide (bits d 499 498 = 1)
def descTag (d : BitVec 512) : Nat := bits d 497 486
def descSrc (d : BitVec 512) : Nat := bits d 447 384
def descDst (d : BitVec 512) : Nat := bits d 383 320
def descN (d : BitVec 512) : Nat := bits d 319 308 + 1
def descL (d : BitVec 512) : Nat := bits d 307 296 + 1
def descSrcStride (d : BitVec 512) : Nat := bits d 295 276
def descDstStride (d : BitVec 512) : Nat := bits d 275 256
def descPattern (d : BitVec 512) : BitVec 64 := d.extractLsb' 192 64

/-- A pending descriptor with the rows of its offset (R30): the offset never changes a remote address. -/
def withOffset (d : BitVec 512) (target ix : Nat) : BitVec 512 :=
  let src := if target % 2 = 1 ∧ descSrcLoc d = 2 then 512 * ix else 0
  let dst := if 2 ≤ target ∧ descDstLoc d = 2 then 512 * ix else 0
  d + (BitVec.ofNat 512 src <<< 384) + (BitVec.ofNat 512 dst <<< 320)

/-- DMA START: the descriptor, with its offset, enters the channel's pending register; an occupied one makes the
bundle wait in ELASTIC mode and stops the core in STRICT mode (R30, R31). -/
def execDmaStart (c sel ch desc target : Nat) (s : State) : Out :=
  onIssuing s c (
    let s1 := s.toIssue c
    let k := openBundle (s1.core c)
    let s2 := s1.setCore c k
    match k.descs[desc]? with
    | none => s
    | some d =>
      if k.bp ∈ k.storeBad ∨ 4352 + desc ∈ k.storeBad then s2.stopBundle c .istoreEcc
      else if (tget none k.iss.pend ch).isSome then
        (if coreElastic s c then s2.stallBundle c else s2.stopBundle c .dmaPending)
      else
        let pd : Pending := { desc := withOffset d target (k.ixOf sel), idx := desc, entered := s1.now }
        s2.setCore c { k with iss := { k.iss with pend := tput none k.iss.pend ch (some pd) } })

end Sys2Proof.Machine
end

