-- ==== Sys2Proof/Machine/Cores.lean ====
section
/-! DEFINITION. The scrubber, the remote windows and remote rows (R38-R40, R47-R49, R141), store loads, barriers
and heartbeats (R23, R124-R126). -/

namespace Sys2Proof.Machine

/-! ### Scrubber (R38-R40) -/

/-- Cycles between two row reads of the scrubber (R38). -/
def scrubInterval (s : State) : Nat := if s.cfg 0x3100 0x10 = 0 then 16 else max 16 (s.cfg 0x3100 0x10 * cyPerTick)

/-- Uncorrectable words of a row. -/
def badIn (s : State) (c row : Nat) : Nat :=
  ((List.range 64).filter (fun w => wordBad s (wordOf (padAt c row) + w))).length

/-- Corrects the stored words of a row: a word with one flipped bit is as it was; a word that decoded as
corrected by chance holds free data with valid check bits (R34). -/
def State.rewriteRow (s : State) (c row : Nat) : State :=
  (List.range 64).foldl (fun (t : State) w =>
    let k := wordOf (padAt c row) + w
    if wordCorrected s k then
      { t with marks := putMark t.marks k false
               pad := if tget none s.marks k = some .many then forget t.pad (8 * k) 8 else t.pad }
    else t) s

/-- SCRUB_WRITE_BACK: a corrected row is written back unless a write retired in between (R35, R39). A row of the write-back queue,
which holds row numbers alone, is read for it, and an uncorrectable word found there is reported and left (log 73). -/
def execScrubWriteBack (c row : Nat) (s : State) : Out :=
  onCore s c (
    let h := s.heal c
    let bad := if row ∈ h.scrubPending then 0 else badIn s c row
    if row ∈ h.scrubPending ∨ row ∈ h.writeBack then
      let s1 := (s.rewriteRow c row).setHeal c { h with
        scrubPending := h.scrubPending.filter (· != row), writeBack := h.writeBack.filter (· != row)
        scrubUncorrectable := satAdd 16 h.scrubUncorrectable bad }
      (if bad = 0 then s1 else s1.event sevAbsorbed evScrubUncorrectable c row).bump
    else s)

/-! ### Windows (R47-R49) -/

def winSrcModFirst (m : BitVec 128) : Nat := bits m 127 114
def winSrcModLast (m : BitVec 128) : Nat := bits m 113 100
def winSrcCoreFirst (m : BitVec 128) : Nat := bits m 99 85
def winSrcCoreLast (m : BitVec 128) : Nat := bits m 84 70

/-- The field checks of a window map (R47). -/
def winMapOk (m : BitVec 128) : Bool :=
  decide (winSrcModFirst m ≤ winSrcModLast m) && decide (winSrcCoreFirst m ≤ winSrcCoreLast m)
    && decide (winSrcCoreLast m < 27648) && decide (winBase m + winRows m ≤ 4096)
    && decide (winDir m ≠ 3) && decide (bits m 43 0 = 0)

/-- Sets a window's map; a window closed so arms nothing later (R48). A window that has been armed between an accepted write of
`0x210p.20` and the mark at which it takes effect is disarmed, and its scoreboard entry stays live: the spec is silent on both
(log 74). -/
def State.putWindow (s : State) (c win : Nat) (map : BitVec 128) : State :=
  let k := s.core c
  let w := tget {} k.windows win
  let w1 := { w with map := map, armed := false, left := 0, closedSinceLoad := decide (winDir map = 0) }
  s.setCore c { k with windows := tput {} k.windows win w1 }

/-- The window command of `0x210p.20`: for a partition with marks it takes effect at the next one. -/
def doWindowSet (p c win : Nat) (map : BitVec 128) (s : State) : State × Nat :=
  if !winMapOk map || decide (15 < win) || !coreExists s c || decide (s.partOfCore c ≠ some p) then (s, stRange)
  else if (tget {} (s.core c).windows win).armed then (s, stBusy)
  else if (s.part p).marks then
    (s.setCtl p { s.ctlOf p with windowSets := (s.ctlOf p).windowSets ++ [(c, win, map)] }, stOk)
  else (s.putWindow c win map, stOk)

/-- WINDOW_SET. -/
def execWindowSet (cl : Client) (p c win : Nat) (map : BitVec 128) (s : State) : Out :=
  onPart p (s.command cl false (doWindowSet p c win map))

/-- Whether a window admits a row (R49). -/
def winAdmits (w : Window) (dir srcModule srcCore row : Nat) : Bool :=
  w.armed && !w.fenced && decide (0 < w.left) && decide (winDir w.map = dir)
    && decide (winSrcModFirst w.map ≤ srcModule ∧ srcModule ≤ winSrcModLast w.map)
    && decide (winSrcCoreFirst w.map ≤ srcCore ∧ srcCore ≤ winSrcCoreLast w.map)
    && decide (winBase w.map ≤ row ∧ row < winBase w.map + winRows w.map)

/-- The window of a core that admits a row. The spec does not say which counts the row where two armed windows admit it, as two
outgoing ones may: the model takes the lowest number (log 74). -/
def findWindow (k : Core) (dir srcModule srcCore row : Nat) : Option Nat :=
  (k.windows.find? (fun e => winAdmits e.2 dir srcModule srcCore row)).map (fun e => e.1)

/-- A core that answers remote traffic: not fenced, dead or in reset (R112). -/
def answers (s : State) (c : Nat) : Bool := !(s.heal c).fenced && !(s.heal c).dead && !(s.heal c).resetting

/-- Counts a row against a window; the last row disarms it and releases its entry (R43, R48). -/
def countRow (k : Core) (win : Nat) (bad : Bool) : Core :=
  let w := tget {} k.windows win
  let last := decide (w.left = 1)
  let w1 := { w with left := w.left - 1, armed := !last, exhausted := w.exhausted || last, poisoned := w.poisoned || bad }
  { k with
    windows := tput {} k.windows win w1
    iss := if last then { k.iss with sb := k.iss.sb.filter (fun e => e.party != .window win) } else k.iss
    snap := if last then k.snap.map (fun i => { i with sb := i.sb.filter (fun e => e.party != .window win) }) else k.snap }

/-- The source of a packet that has reached a core: module, core, channel, transfer tag (R109). -/
abbrev Sender := Nat × Nat × Nat × Nat

/-- The transfer that a packet belongs to: its source core, channel and tag. -/
def Sender.transfer (f : Sender) : Nat × Nat × Nat := (f.1, f.2.1, f.2.2.1 * 4096 + f.2.2.2)

/-- The destination router turns a packet back with a reject that carries the transfer tag, in buffer set R of VC 3 (R107, R112). -/
def State.turnBack (s : State) (c : Nat) (f : Sender) : State :=
  s.injectSome c (responsePacket s c f.1 f.2.1 4 3 f.2.2.1 f.2.2.2 none)

/-- Rejects a row and every later row of its transfer (R49). -/
def State.rejectRow (s : State) (c : Nat) (f : Sender) : State :=
  let k := s.core c
  let h := s.heal c
  ((s.setCore c { k with rejecting := addOnce k.rejecting f.transfer }).setHeal c
    { h with windowRejects := satAdd 8 h.windowRejects 1 }).turnBack c f

/-- The window of an answering core that takes a row of a transfer of which none has been rejected. -/
def takingWindow (k : Core) (dir : Nat) (f : Sender) (row : Nat) : Option Nat :=
  if f.transfer ∈ k.rejecting then none else findWindow k dir f.1 f.2.1 row

/-- The first of n consecutive cycles from t on in which one of the DMA engine's ports (0 bank read, 1 bank write, 2 injection) is free
(R138, R139). -/
def Core.portAt (k : Core) (port t n : Nat) : Nat :=
  k.portBusy.foldl (fun cy e => if e.1 = port ∧ cy < e.2.1 + e.2.2 ∧ e.2.1 < cy + n then e.2.1 + e.2.2 else cy) t

/-- Lists taken cycles in the order of their first. -/
def insertBusy (x : Nat × Nat × Nat) : List (Nat × Nat × Nat) → List (Nat × Nat × Nat)
  | [] => [x]
  | e :: l => if x.2.1 < e.2.1 then x :: e :: l else e :: insertBusy x l

/-- A port is taken from cycle t for n cycles; cycles gone by are forgotten. -/
def Core.takePort (k : Core) (now port t n : Nat) : Core :=
  { k with portBusy := insertBusy (port, t, n) (k.portBusy.filter (fun e => decide (now < e.2.1 + e.2.2))) }

/-- An engine instruction is in flight in a core in a cycle: only then does DMA wait for a bank (R33). -/
def engineBusy (k : Core) (t : Nat) : Bool := arrayBusy k t || vectorBusy k t || springbokBusy k t

/-- The cycle in which a port of the DMA engine serves n cycles of traffic that asks from cycle `early` on: when it is free of earlier
traffic, and for a bank port when no engine takes the bank (R33, R138). How many cycles engines at work take it is fixed by the schedule
and open in the spec (log 67). -/
def grantAt (s : State) (c port early n : Nat) : Nat :=
  let k := s.core c
  let t := k.portAt port (max s.now early) n
  if port = 2 then t else k.portAt port (t + bankWaits s c t (256 + port) (engineBusy k t)) n

/-! ### What a DMA channel does next (R140, R142, R144) -/

def Core.chan (k : Core) (ch : Nat) : Channel := tget {} k.chans ch
def Core.putChan (k : Core) (ch : Nat) (v : Channel) : Core := { k with chans := tput {} k.chans ch v }

def descFill (d : BitVec 512) : Bool := decide (descKind d = 2)
def descSrcHere (d : BitVec 512) : Bool := !descFill d && decide (descSrcLoc d = 2)
def descDstHere (d : BitVec 512) : Bool := decide (descDstLoc d = 2)

/-- Write responses owed to the whole engine (R132). -/
def engineOwed (k : Core) : Nat :=
  k.chans.foldl (fun n e => if descDstHere e.2.desc then n else n + e.2.owed) 0

/-- A channel may reserve one more write-response entry (R132). -/
def responseRoom (k : Core) (v : Channel) : Bool := decide (v.owed < 128) && decide (engineOwed k < 256)

/-- What an active channel does next. -/
inductive RowAct where
  | fill
  | read
  | store (k : Nat) (row : Row)
  | send (k : Nat) (row : Row)
  | ask
  | storeResult
  | sendResult
deriving DecidableEq, Repr

/-- The port that an action takes: 0 bank read, 1 bank write, 2 injection. -/
def RowAct.port : RowAct → Nat
  | .fill => 1
  | .read => 0
  | .store _ _ => 1
  | .send _ _ => 2
  | .ask => 2
  | .storeResult => 1
  | .sendResult => 2

/-- Flits or rows, in cycles of the port. -/
def RowAct.cycles : RowAct → Nat
  | .send _ _ => 4
  | .sendResult => 4
  | _ => 1

/-- The result row's action when every data row is done. -/
def resultAct (k : Core) (v : Channel) : Option (RowAct × Nat) :=
  if !descResult v.desc || v.resultDone || v.resultOwed || decide (v.rowsDone ≠ descN v.desc) then none
  else if descDstHere v.desc then some (.storeResult, v.lastDone + 1)
  else if responseRoom k v then some (.sendResult, v.lastDone + 1)
  else none

/-- What a staged row of a local source does next: it is written, or it goes out where a response entry is free. Its data leave the ECC
stage 4 cy after the read's grant, and a row for a remote target starts in the cycle after (R34, R140). -/
def stagedAct (k : Core) (v : Channel) : Option (RowAct × Nat) :=
  match v.staging with
  | [] => none
  | (n, row) :: _ =>
    let t := tget 0 v.ready n
    if descDstHere v.desc then some (.store n row, t)
    else if responseRoom k v then some (.send n row, t + 1)
    else none

/-- The next actions of a channel, each on a port of its own, with the first cycle in which each may take it (R140, R142, R144): a local
row is read, or a remote one asked for from the cycle after the begin on (log 67), while staging has room. After a reject only rows of a
remote source below the rejected one are still written (R146). -/
def nextActs (k : Core) (ch : Nat) : List (RowAct × Nat) :=
  let v := k.chan ch
  if v.state ≠ .active then []
  else if descFill v.desc then
    if v.rowsDone < descN v.desc then [(.fill, v.since + 6)] else (resultAct k v).toList
  else if descSrcHere v.desc then
    if v.rejected.isSome then []
    else
      (stagedAct k v).toList
        ++ (if v.rowsRead < descN v.desc ∧ v.staging.length < 4 then [(.read, v.since)] else [])
        ++ (if v.rowsRead < descN v.desc ∨ !v.staging.isEmpty then [] else (resultAct k v).toList)
  else
    (match tfind v.staging v.rowsDone with
      | some row => [(.store v.rowsDone row, tget 0 v.ready v.rowsDone)]
      | none => [])
      ++ (if v.rejected.isSome then []
          else if v.rowsSent < descN v.desc ∧ v.rowsSent - v.rowsDone < 4 then [(.ask, v.since + 1)]
          else if (tfind v.staging v.rowsDone).isSome then []
          else (resultAct k v).toList)

/-- Channel 0 or 1 has something ready for a port by a cycle: it comes before remote traffic (R138, R139). -/
def highReady (k : Core) (port t : Nat) : Bool :=
  (List.range 2).any (fun ch => (nextActs k ch).any (fun a => decide (a.1.port = port) && decide (a.2 ≤ t)))

/-- The cycle in which a bank port serves remote traffic that has come now (R138, R141). -/
def remoteAt (s : State) (c port : Nat) : Nat := grantAt s c port (s.now + 1) 1

/-- Remote traffic waits in the router: in the cycle that would serve it, channel 0 or 1 comes first (R138, R141). -/
def remoteWaits (s : State) (c port : Nat) : Bool := highReady (s.core c) port (remoteAt s c port)

/-- The oldest read response that waits takes the injection port, unless channel 0 or 1 has a packet ready for that boundary (R139). -/
def State.sendResponse (s : State) (c : Nat) : State :=
  let k := s.core c
  match k.responses with
  | [] => s
  | (ready, p) :: rest =>
    let t := k.portAt 2 (max s.now ready) 4
    if highReady k 2 t then s
    else (s.setCore c ({ k with responses := rest }.takePort s.now 2 t 4)).inject c p

/-- Every read response that the injection port can take goes out, in order. -/
def State.sendResponses (s : State) (c : Nat) : State :=
  (s.core c).responses.foldl (fun (t : State) _ => t.sendResponse c) s

/-- A remote row reaches its core: a window admits it, it is written, and the router puts out its write response (R141); or it is
rejected. While the bank port serves channel 0 or 1 first, its flits wait in the router and nothing changes (R138). A core that
answers nothing has it turned back (R112). -/
def State.rowArrives (s : State) (c : Nat) (f : Sender) (row : Nat) (data : Row) : State :=
  if !answers s c then s.turnBack c f
  else
    match takingWindow (s.core c) 1 f row with
    | none => s.rejectRow c f
    | some w =>
      if remoteWaits s c 1 then s
      else
      let s1 := s.writeRow c row data
      let s2 := s1.setCore c ((countRow (s1.core c) w (!data.poison.isEmpty)).takePort s.now 1 (remoteAt s c 1) 1)
      s2.injectSome c (responsePacket s2 c f.1 f.2.1 3 3 f.2.2.1 f.2.2.2 none)

/-- REMOTE_ROW_ARRIVAL. -/
def execRemoteRowArrival (c srcModule srcCore : Nat) (tag : TransferTag) (row : Nat) (data : Row) (s : State) : Out :=
  onCore s c (s.rowArrives c (srcModule, srcCore, tag.ch, tag.tag) row data)

/-- REMOTE_READ_REQUEST: the row is read and returned on the request's VC, a poisoned word with the pattern of R36, which raises POISON
here (R141). The request waits in the router while the bank port serves channel 0 or 1 first; its response takes the injection port
when the row has left the ECC stage, after channels 0 and 1 (R138, R139). -/
def execRemoteReadRequest (c srcModule srcCore : Nat) (tag : RequestTag) (row : Nat) (s : State) : Out :=
  onCore s c (
    let f : Sender := (srcModule, srcCore, tag.ch, tag.tag)
    if !answers s c then s.turnBack c f
    else
      match takingWindow (s.core c) 2 f row with
      | none => s.rejectRow c f
      | some w =>
        if remoteWaits s c 0 then s
        else
        let data := readRow s c row
        let t := remoteAt s c 0
        let k := (countRow (s.core c) w false).takePort s.now 0 t 1
        let back := responsePacket s c srcModule srcCore 2 tag.vc tag.ch tag.tag (some data)
        let s1 := ((s.setCore c { k with responses := k.responses ++ (back.map (fun p => (t + 5, p))).toList }).noteRows c row 1).bump
        { s1.sendResponses c with link := some data })

/-! ### Store loads (R23, R167) -/

/-- The cores of a partition's band that hold anything. -/
def bandCores (s : State) (p : Nat) : List Nat :=
  (s.cores.map (fun e => e.1)).filter (fun c => s.bandHas p (coreX c / 24))

/-- The partition's last reset is complete: 1,000 ticks have passed, or no core of it is still in reset (R346, R348). -/
def resetDone (s : State) (p : Nat) : Bool :=
  (match (s.part p).resetAt with
    | none => true
    | some t => decide (t ≤ s.now))
  || !(bandCores s p).any (fun c => (s.heal c).resetting)

/-- Whether the stores of a partition's cores may be loaded: STOPPED, or FAULT with its reset complete. -/
def loadable (s : State) (p : Nat) : Bool :=
  decide ((s.part p).run = .stopped) || (decide ((s.part p).run = .fault) && resetDone s p)

/-- Writes a segment into a core's stores. -/
def State.loadSegment (s : State) (c : Nat) (seg : Segment) : State :=
  s.setCore c { s.core c with bundles := seg.bundles, ranges := seg.ranges, descs := seg.descs, branch := seg.branch,
                              participates := seg.participates, entry := seg.entry, storeBad := [] }

/-- STORE_LOAD: the controller's load of one segment into a set of cores of one column (R122), E_STATE in any other run state. -/
def execStoreLoad (cores : CoreSet) (seg : Segment) (s : State) : Out :=
  let x := cores.x
  if cores.rows.all (fun y => coreExists s (y * 192 + x)) then
    onColumn s x (
      match s.partOfColumn (x / 24) with
      | some p =>
        if loadable s p then (cores.rows.foldl (fun (t : State) y => t.loadSegment (y * 192 + x) seg) s).answer stOk else s.answer stState
      | none => s.answer stState)
  else .fault .noSuchUnit

/-! ### Barriers and heartbeats (R124-R126, R355) -/

/-- A core that takes part in its partition's barriers: not fenced and in the variant (R125). A core with no loaded segment counts
as outside the variant, which the spec does not say in words (log 74). -/
def takesPart (s : State) (p : Nat) (e : Nat × Core) : Bool :=
  s.bandHas p (coreX e.1 / 24) && !(s.heal e.1).fenced && !e.2.bundles.isEmpty

/-- The cores of a partition that take part. -/
def State.enabledCores (s : State) (p : Nat) : List Nat :=
  (s.cores.filter (takesPart s p)).map (fun e => e.1)

/-- BARRIER_COMPLETE: when every enabled core has arrived, all of them see it in the same cycle and issue resumes
one cycle later. -/
def execBarrierComplete (p wire : Nat) (s : State) : Out :=
  onPart p (
    let pt := s.part p
    let here := pt.barriers.filter (fun e => e.1 == wire)
    let all := s.enabledCores p
    if here.isEmpty || !all.all (fun c => here.any (fun e => e.2.1 == c)) then s
    else
      let last := here.foldl (fun m e => max m e.2.2) 0
      let s1 := (s.advance (last + pt.barrierLatency)).setPart p
        { pt with barriers := pt.barriers.filter (fun e => e.1 != wire) }
      all.foldl (fun t c =>
        let k := t.core c
        if k.wait = .wire wire then t.setCore c { k with wait := .running, nextIssue := t.now + 1 } else t) s1)

/-- HEARTBEAT_TOGGLE: an enabled core toggles its bit once in each tick, at the tick's boundary, while its fast clock runs; it is in the
heartbeat from its launch mark until its next reset (R126, R346). A core that has toggled in this tick toggles next at the boundary of
the next one. -/
def execHeartbeatToggle (c : Nat) (s : State) : Out :=
  onCore s c (
    let h := s.heal c
    if !h.heartbeat || h.dead || !(s.tile (coreTile c)).fastClock then s
    else
      let s1 := s.advance ((h.toggled + 1) * cyPerTick)
      s1.setHeal c { h with toggled := tickOf s1.now, toggleBit := !h.toggleBit })

/-- HEARTBEAT_MISS: the core that missed its toggle is dead, and only its own partition faults (R355). A core that was dead
before its launch misses its first toggle. -/
def execHeartbeatMiss (c : Nat) (s : State) : Out :=
  onCore s c (
    let h := s.heal c
    if !h.heartbeat || !(s.tile (coreTile c)).fastClock || decide (tickOf s.now ≤ h.toggled) then s
    else
      let s1 := s.setHeal c { h with dead := true, heartbeat := false }
      match s.partOfCore c with
      | some p => s1.setCtl p { s1.ctlOf p with faults := (s1.ctlOf p).faults ++ [.coreDead c] }
      | none => s1)

end Sys2Proof.Machine
end

