-- ==== Sys2Proof/Machine/Dma.lean ====
section
/-! DEFINITION. The DMA engine: begin, row moves, responses, rejects, completion, the disable action, transit slots
(R113, R132-R149). -/

namespace Sys2Proof.Machine

/-! ### Rows of a transfer (R136) -/

/-- Row of transfer row k on a side. -/
def transferRow (base stride L k : Nat) : Nat := base + k / L * stride + k % L

/-- Highest row of a side. -/
def transferTop (base stride L N : Nat) : Nat :=
  let g := (N - 1) / L
  max (transferRow base stride L (N - 1)) (if 0 < g then base + (g - 1) * stride + L - 1 else base)

/-- Bits of an address below the fields that name its target (R12, R222, R414). -/
def addrSpan (a : Nat) : Nat := if addrClass a = 1 ∨ addrClass a = 2 then 45 else 21

/-- The address of the n-th row on from a base address; none where it leaves the target's span. -/
def rowAddr (base n : Nat) : Option Nat :=
  let a := base + 512 * n
  if a / 2 ^ addrSpan base = base / 2 ^ addrSpan base then some a else none

/-- Rows from the base of a remote side to transfer row k; the appended result row follows the last one (R136, R144). -/
def sideRow (stride L N k : Nat) : Nat := if k < N then transferRow 0 stride L k else transferRow 0 stride L (N - 1) + 1

/-- The address of transfer row k at a remote source and at a remote destination. -/
def srcAddrOf (d : BitVec 512) (k : Nat) : Option Nat := rowAddr (descSrc d) (sideRow (descSrcStride d) (descL d) (descN d) k)
def dstAddrOf (d : BitVec 512) (k : Nat) : Option Nat := rowAddr (descDst d) (sideRow (descDstStride d) (descL d) (descN d) k)

/-- Whether a row of a remote side is turned back at its source. -/
def rowRejected (s : State) (c loc : Nat) (a : Option Nat) : Bool :=
  match a with
  | some n => routerRejects s c loc n
  | none => true

def srcRowOf (d : BitVec 512) (k : Nat) : Nat := transferRow (localBase (descSrc d)) (descSrcStride d) (descL d) k
def dstRowOf (d : BitVec 512) (k : Nat) : Nat := transferRow (localBase (descDst d)) (descDstStride d) (descL d) k

/-- The local source span. -/
def srcSpan (d : BitVec 512) : Span :=
  let b := localBase (descSrc d)
  { first := b, rows := transferTop b (descSrcStride d) (descL d) (descN d) + 1 - b }

/-- The local destination span, with the appended result row (R137). -/
def dstSpan (d : BitVec 512) : Span :=
  let b := localBase (descDst d)
  let top := transferTop b (descDstStride d) (descL d) (descN d)
  let last := dstRowOf d (descN d - 1) + 1
  { first := b, rows := (if descResult d then max top last else top) + 1 - b }

/-- The range check of R137. -/
def descInRange (d : BitVec 512) : Bool :=
  (!descSrcHere d || (srcSpan d).fits) && (!descDstHere d || (dstSpan d).fits)

/-- The alignment check of R137. -/
def descAligned (d : BitVec 512) : Bool :=
  (descFill d || (if descSrcHere d then decide (descSrc d % 512 = 0) else addrAligned (descSrc d)))
    && (if descDstHere d then decide (descDst d % 512 = 0) else addrAligned (descDst d))

/-! ### Channels -/

/-- The status word (R144). -/
def statusWord (idx outcome : Nat) (poison : Bool) (rejected rows : Nat) : BitVec 64 :=
  BitVec.ofNat 64 (idx % 256 * 2 ^ 32 + outcome % 16 * 2 ^ 28 + (if poison then 2 ^ 27 else 0)
    + rejected % 4096 * 2 ^ 13 + rows % 8192)

/-- A WAITDMA whose channel has become free resumes in the next cycle (R27, R144). -/
def wakeDma (k : Core) (ch now : Nat) : Core :=
  if k.wait = .dma ch ∧ channelFree k ch then { k with wait := .running, nextIssue := max k.nextIssue (now + 1) } else k

/-- Releases the entries of a channel, in the open bundle's image of the queues too. -/
def releaseChannel (k : Core) (ch : Nat) : Core :=
  let f := fun (i : IssueState) => { i with sb := i.sb.filter (fun e => e.party != .dma ch) }
  { k with iss := f k.iss, snap := k.snap.map f }

/-- The new entries of a descriptor (R135, R43). -/
def descEntries (d : BitVec 512) (ch id : Nat) : List SbEntry :=
  (if descSrcHere d then [entryOf (srcSpan d) .read (.dma ch) id] else [])
    ++ (if descDstHere d then [entryOf (dstSpan d) .write (.dma ch) id] else [])

/-- Whether a channel's pending descriptor is eligible in this cycle and would use the cycle's one begin (R45). -/
def takesBegin (k : Core) (now ch : Nat) : Bool :=
  match tget none k.iss.pend ch with
  | none => false
  | some pd =>
    decide ((k.chan ch).state = .idle) && decide (pd.entered < now) && !pd.refused
      && (!descInRange pd.desc || !descAligned pd.desc
          || decide (checkSb k.iss.sb [] (descEntries pd.desc ch k.iss.serial) = .clear))

/-- The time of the mark that a completion tag names, at the descriptor's beginning (R145, R156). -/
def tagTarget (s : State) (c : Nat) (d : BitVec 512) : Option Nat :=
  if descTag d = 0xFFF then none
  else
    match s.partOfCore c with
    | none => none
    | some p =>
      let pt := s.part p
      let e := tideEntry pt (descTag d)
      let (n, i, o) := nextInst pt e (s.core c).cursor
      some (instTime pt e n i o)

/-- Whether a tagged descriptor arrives for its mark before that mark's slack water (R157). -/
def tagEarly (s : State) (c : Nat) (d : BitVec 512) (target : Option Nat) : Bool :=
  match target, s.partOfCore c with
  | some m, some p => decide (s.now + tideSlack (tideEntry (s.part p) (descTag d)) < m)
  | _, _ => false

/-- The CRC register or sum at the start of a transfer. -/
def checkInit (d : BitVec 512) : BitVec 64 := if descCheck d = 1 then 0xFFFFFFFF#64 else 0

/-- The check value after one more row (R143). -/
def checkRow (d : BitVec 512) (v : BitVec 64) (bs : List Byte) : BitVec 64 :=
  match descCheck d with
  | 1 => BitVec.ofNat 64 (crcRun v.toNat bs)
  | 2 => (List.range 64).foldl (fun acc w => acc + BitVec.ofNat 64 (leAt bs (8 * w) 8)) v
  | _ => 0

/-- The check value of word 0 of the result row. -/
def checkFinal (d : BitVec 512) (v : BitVec 64) : BitVec 64 := if descCheck d = 1 then v ^^^ 0xFFFFFFFF#64 else v

/-- Rejects a descriptor at its beginning (R137): it never begins and its status word says why. It completes here, for its tag too
(R145). -/
def State.rejectDesc (s : State) (c ch : Nat) (pd : Pending) (outcome : Nat) : State :=
  let k := s.core c
  let v := k.chan ch
  let v1 := { v with status := statusWord pd.idx outcome false 0 0, rejectedCount := satAdd 16 v.rejectedCount 1 }
  let k1 := { k.putChan ch v1 with iss := { k.iss with pend := tput none k.iss.pend ch none }, lastBegin := some s.now }
  let s1 := s.setCore c (wakeDma k1 ch s.now)
  match s.partOfCore c with
  | some p =>
    if tagEarly s c pd.desc (tagTarget s c pd.desc) then
      let ct := s1.ctlOf p
      s1.setCtl p { ct with counts := { ct.counts with early := satAdd 32 ct.counts.early 1 } }
    else s1
  | none => s1

/-- The first cycle in which a pending descriptor may begin: after the one it entered in, and after the engine's last begin or
rejection (R45, R137). -/
def Core.beginAt (k : Core) (pd : Pending) : Nat :=
  max (pd.entered + 1) (match k.lastBegin with | some t => t + 1 | none => 0)

/-- A bundle of the core is due by a cycle and has not issued: its slots are checked first (R45). -/
def bundleDue (s : State) (c t : Nat) : Bool := canIssue s c && decide ((s.core c).nextIssue ≤ t)

/-- A descriptor waits for the scoreboard in ELASTIC mode: every cycle since it could begin counts once (R44). -/
def State.waitBegin (s : State) (c ch : Nat) (pd : Pending) : State :=
  let k := s.core c
  let v := k.chan ch
  let h := s.heal c
  let from' := max v.triedAt (k.beginAt pd)
  (s.setCore c (k.putChan ch { v with triedAt := max v.triedAt (s.now + 1) })).setHeal c
    { h with sbWaits := satAdd 32 h.sbWaits (s.now + 1 - from') }

/-- A descriptor meets a conflict or a full scoreboard: it waits in ELASTIC mode; in STRICT mode it does not issue and the sequencer
stops (R44). -/
def State.heldBegin (s : State) (c ch : Nat) (pd : Pending) (cause : Cause) : State :=
  if coreElastic s c then s.waitBegin c ch pd
  else
    let k := s.core c
    (s.setCore c { k with
      wait := .stopped, iss := { k.iss with pend := tput none k.iss.pend ch (some { pd with refused := true }) } }).raise c cause

/-- DESCRIPTOR_BEGIN (R45, R137). -/
def execDescriptorBegin (c ch : Nat) (s : State) : Out :=
  onCore s c (
    let k := s.core c
    match tget none k.iss.pend ch with
    | none => s
    | some pd =>
      let s1 := s.advance (k.beginAt pd)
      if k.snap.isSome || decide ((k.chan ch).state ≠ .idle) || !answers s c || pd.refused || bundleDue s c s1.now then s
      else if (List.range ch).any (takesBegin k s1.now) then s
      else if !descInRange pd.desc then s1.rejectDesc c ch pd 2
      else if !descAligned pd.desc then s1.rejectDesc c ch pd 1
      else
        let id := k.iss.serial
        let new := descEntries pd.desc ch id
        match checkSb k.iss.sb [] new with
        | .clear =>
          let v : Channel := { k.chan ch with
            state := .active, desc := pd.desc, idx := pd.idx, rowsRead := 0, rowsSent := 0, rowsDone := 0, owed := 0
            resultOwed := false, resultDone := false, staging := [], ready := [], check := checkInit pd.desc, poison := false
            rejected := none, target := tagTarget s c pd.desc, since := s1.now, flight := [], doneAt := none
            tag := ((k.chan ch).tag + 1) % 4096, lastDone := s1.now }
          let iss := { k.iss with pend := tput none k.iss.pend ch none, sb := k.iss.sb ++ new, serial := id + 1 }
          s1.setCore c { k.putChan ch v with iss := iss, lastBegin := some s1.now }
        | .full => s1.heldBegin c ch pd .sbFull
        | _ => s1.heldBegin c ch pd .sbHazard)

/-! ### Row moves (R140, R142-R144) -/

/-- The result row (R144): check value, status word, completion tide time, which is the cycle in which the row is formed. -/
def resultRow (v : Channel) : Row :=
  { bytes := leBytes 8 (checkFinal v.desc v.check).toNat
      ++ leBytes 8 (statusWord v.idx 0 v.poison 0 v.rowsDone).toNat
      ++ leBytes 8 (timeWord (v.lastDone + 1)).toNat ++ List.replicate 488 0
    poison := [] }

/-- The pointer of a port over channels 2-7. -/
def Core.pointer (k : Core) (port : Nat) : Nat :=
  match port with
  | 0 => k.rrRead
  | 1 => k.rrWrite
  | _ => k.rrInject

/-- The place of a channel in a port's order: channel 0, channel 1, then channels 2-7 from the pointer (R138, R139). -/
def portRank (ptr ch : Nat) : Nat := if ch < 2 then ch else 2 + (ch + 6 - ptr) % 6

/-- A round-robin pointer over channels 2-7 moves past a channel that its resource has served (R138). -/
def passRr (p ch : Nat) : Nat := if ch < 2 then p else if ch = 7 then 2 else ch + 1

/-- A port has served a channel. -/
def Core.served (k : Core) (now port ch t n : Nat) : Core :=
  let k1 := k.takePort now port t n
  match port with
  | 0 => { k1 with rrRead := passRr k1.rrRead ch }
  | 1 => { k1 with rrWrite := passRr k1.rrWrite ch }
  | _ => { k1 with rrInject := passRr k1.rrInject ch }

/-- Another channel comes before channel ch at a port that would serve ch in cycle t: it is ready by then and first in the port's order,
or the port serves it earlier; and a read response that waits comes before channels 2 to 7 (R138, R139). -/
def portRival (s : State) (c ch port t : Nat) : Bool :=
  let k := s.core c
  (List.range 8).any (fun o => decide (o ≠ ch) && (nextActs k o).any (fun a =>
      decide (a.1.port = port) && decide (a.2 ≤ t)
        && (decide (portRank (k.pointer port) o < portRank (k.pointer port) ch) || decide (grantAt s c port a.2 a.1.cycles < t))))
    || (decide (port = 2 ∧ 2 ≤ ch) && k.responses.any (fun r => decide (r.1 ≤ t)))

/-- A channel that its bank port does not serve in a cycle retries in the next, and counts the cycle once (R138). -/
def State.notServed (s : State) (c ch port : Nat) : State :=
  let k := s.core c
  let v := k.chan ch
  if port = 2 ∨ s.now < v.triedAt then s
  else s.setCore c (k.putChan ch { v with bankWait := satAdd 32 v.bankWait 1, triedAt := s.now + 1 })

/-- The module reaches the cycle in which a port serves a channel, which has waited for the bank since it was ready. -/
def State.serve (s : State) (c ch : Nat) (a : RowAct) (early : Nat) : State :=
  let t := grantAt s c a.port early a.cycles
  let s1 := s.advance t
  let k := s1.core c
  let v := k.chan ch
  let waited := if a.port = 2 then 0 else t - max (max s.now v.triedAt) early
  s1.setCore c ((k.putChan ch { v with bankWait := satAdd 32 v.bankWait waited }).served s.now a.port ch t a.cycles)

/-- Takes a row out of staging; it was the row of a transfer, so its check value and poison count. -/
def Channel.leave (v : Channel) (k : Nat) (row : Row) : Channel :=
  { v with check := checkRow v.desc v.check row.bytes, poison := v.poison || !row.poison.isEmpty
           staging := tdel v.staging k, ready := tdel v.ready k }

/-- A row retires at its local destination. -/
def State.retireRow (s : State) (c ch k : Nat) (row : Row) : State :=
  let v := (s.core c).chan ch
  let s1 := s.writeRow c (dstRowOf v.desc k) row
  s1.setCore c ((s1.core c).putChan ch { v.leave k row with rowsDone := v.rowsDone + 1, lastDone := s.now })

/-- A row goes out to its remote target: one response entry is reserved and the packet carries the row's own address (R109, R136). A
row that the source router turns back uses no link (R108). Where that row is the appended result row, the status word's field for the
first rejected transfer row takes k = N modulo 4,096: the spec names no value for it (DESIGN CHOICE, log 67). -/
def State.sendRow (s : State) (c ch k : Nat) (row : Row) : State :=
  let v := (s.core c).chan ch
  let loc := descDstLoc v.desc
  match dstAddrOf v.desc k with
  | some a =>
    if routerRejects s c loc a then s.setCore c ((s.core c).putChan ch { v with rejected := some k, staging := [], ready := [] })
    else
      let v1 := if k < descN v.desc then { v.leave k row with rowsSent := v.rowsSent + 1 } else { v with resultOwed := true }
      (s.setCore c ((s.core c).putChan ch { v1 with owed := v.owed + 1, flight := v.flight ++ [(k, row)] })).inject c
        (rowPacket s c loc a 0 (descVc v.desc) ch v.tag (some row))
  | none => s.setCore c ((s.core c).putChan ch { v with rejected := some k, staging := [], ready := [] })

/-- A read request goes out, and its staging row is reserved (R111, R140). -/
def State.sendRequest (s : State) (c ch : Nat) : State :=
  let v := (s.core c).chan ch
  let loc := descSrcLoc v.desc
  let turned := s.setCore c ((s.core c).putChan ch { v with rejected := some v.rowsSent })
  match srcAddrOf v.desc v.rowsSent with
  | some a =>
    if routerRejects s c loc a then turned
    else
      (s.setCore c ((s.core c).putChan ch { v with rowsSent := v.rowsSent + 1, owed := v.owed + 1 })).inject c
        (rowPacket s c loc a 1 (descVc v.desc) ch v.tag none)
  | none => turned

/-- Reads the next local row into staging. -/
def State.readLocal (s : State) (c ch : Nat) : State :=
  let v := (s.core c).chan ch
  let r := srcRowOf v.desc v.rowsRead
  let v1 := { v with staging := tset v.staging v.rowsRead (readRow s c r), ready := tset v.ready v.rowsRead (s.now + 4)
                     rowsRead := v.rowsRead + 1 }
  ((s.setCore c ((s.core c).putChan ch v1)).noteRows c r 1).bump

/-- Does an action in the cycle its port serves it. -/
def State.act (s : State) (c ch : Nat) (a : RowAct) : State :=
  let v := (s.core c).chan ch
  match a with
  | .fill => s.retireRow c ch v.rowsDone { bytes := (List.replicate 64 (leBytes 8 (descPattern v.desc).toNat)).flatten, poison := [] }
  | .read => s.readLocal c ch
  | .store k row => s.retireRow c ch k row
  | .send k row => s.sendRow c ch k row
  | .ask => s.sendRequest c ch
  | .storeResult =>
    let s1 := s.writeRow c (dstRowOf v.desc (descN v.desc - 1) + 1) (resultRow v)
    s1.setCore c ((s1.core c).putChan ch { v with resultDone := true })
  | .sendResult => s.sendRow c ch (descN v.desc) (resultRow v)

/-- Of the actions that no other channel comes before, the one whose port serves it first (R138-R140). -/
def chosenAct (s : State) (c ch : Nat) : Option (RowAct × Nat) :=
  let at' := fun (a : RowAct × Nat) => grantAt s c a.1.port a.2 a.1.cycles
  ((nextActs (s.core c) ch).filter (fun a => !portRival s c ch a.1.port (at' a))).foldl
    (fun best a => match best with
      | some b => if at' a < at' b then some a else some b
      | none => some a) none

/-- CHANNEL_ROW_MOVE: a row action of an active channel, in the cycle its port serves it; then the read responses that the injection
port has room for go out. A channel that another comes before in that cycle waits (R138, R139). -/
def execChannelRowMove (c ch : Nat) (s : State) : Out :=
  onCore s c (
    if !answers s c then s
    else
      match chosenAct s c ch with
      | some (a, early) => ((s.serve c ch a early).act c ch a).sendResponses c
      | none =>
        match nextActs (s.core c) ch with
        | [] => s
        | (a, _) :: _ => s.notServed c ch a.port)

/-! ### Responses (R140, R146, R147) -/

/-- A response for a channel's transfer arrives: a draining channel discards it and becomes idle with the last one owed. The ejection
port discards a response that carries another transfer's tag, as one of an abandoned transfer does (R109, R347). -/
def takeResponse (k : Core) (ch tag now : Nat) (f : Channel → Channel) : Core :=
  let v := k.chan ch
  if v.owed = 0 ∨ tag ≠ v.tag then k
  else
    match v.state with
    | .active => k.putChan ch { f v with owed := v.owed - 1 }
    | .draining =>
      if v.owed = 1 then wakeDma (k.putChan ch { v with owed := 0, state := .idle, flight := [] }) ch now
      else k.putChan ch { v with owed := v.owed - 1 }
    | .idle => k

/-- WRITE_RESPONSE_ARRIVAL releases the oldest response entry. -/
def execWriteResponseArrival (c : Nat) (tag : TransferTag) (s : State) : Out :=
  onCore s c (s.setCore c (takeResponse (s.core c) tag.ch tag.tag s.now (fun v =>
    match v.flight with
    | (n, _) :: rest =>
      if n = descN v.desc then { v with flight := rest, resultOwed := false, resultDone := true }
      else { v with flight := rest, rowsDone := v.rowsDone + 1, lastDone := s.now }
    | [] => v)))

/-- READ_RESPONSE_ARRIVAL: the row waits in its staging row; rows at or after a reject are discarded. -/
def execReadResponseArrival (c : Nat) (tag : TransferTag) (k : Nat) (data : Row) (s : State) : Out :=
  onCore s c (s.setCore c (takeResponse (s.core c) tag.ch tag.tag s.now (fun v =>
    let v1 := { v with staging := tset v.staging k data, ready := tset v.ready k s.now }
    match v.rejected with
    | some r => if r ≤ k then v else v1
    | none => v1)))

/-- REJECT_ARRIVAL: no further row is sent; the lowest rejected row is kept. -/
def execRejectArrival (c : Nat) (tag : TransferTag) (k : Nat) (s : State) : Out :=
  onCore s c (s.setCore c (takeResponse (s.core c) tag.ch tag.tag s.now (fun v =>
    { v with rejected := some (match v.rejected with | some r => min r k | none => k)
             staging := v.staging.filter (fun e => !descSrcHere v.desc && decide (e.1 < k))
             flight := v.flight.filter (fun e => e.1 != k) })))

/-! ### Completion (R144) -/

/-- Whether everything a channel waits for has happened. -/
def channelDone (v : Channel) : Bool :=
  decide (v.state = .active) && decide (v.owed = 0)
    && ((v.rejected.isSome && (tfind v.staging v.rowsDone).isNone)
        || (decide (v.rowsDone = descN v.desc) && (!descResult v.desc || v.resultDone)))

/-- A channel completes: status word, W entry, IDLE, in one cycle. A tagged descriptor has arrived for its mark, early or on time
(R145, R157); a rejected transfer is counted for the step report (R146). -/
def State.completeChannel (s : State) (c ch : Nat) : State :=
  let k := s.core c
  let v := k.chan ch
  let out := if v.rejected.isSome then 3 else 0
  let v1 : Channel := { v with
    state := .idle, staging := [], ready := [], flight := [], doneAt := some s.now
    status := statusWord v.idx out v.poison (v.rejected.getD 0) v.rowsDone
    rejectedCount := if v.rejected.isSome then satAdd 16 v.rejectedCount 1 else v.rejectedCount }
  let s1 := s.setCore c (wakeDma ((releaseChannel k ch).putChan ch v1) ch s.now)
  match s.partOfCore c with
  | none => s1
  | some p =>
    let ct := s1.ctlOf p
    s1.setCtl p { ct with counts := { ct.counts with
      rejectedTransfers := ct.counts.rejectedTransfers + (if v.rejected.isSome then 1 else 0)
      early := if tagEarly s c v.desc v.target then satAdd 32 ct.counts.early 1 else ct.counts.early } }

/-- CHANNEL_COMPLETE. -/
def execChannelComplete (c ch : Nat) (s : State) : Out :=
  onCore s c (
    let k := s.core c
    if !channelDone (k.chan ch) || k.snap.isSome then s else s.completeChannel c ch)

/-! ### The disable action (R147, R148) -/

/-- Empties a channel's pending register, in the open bundle too. -/
def dropPending (k : Core) (ch : Nat) : Core :=
  let f := fun (i : IssueState) => { i with pend := tput none i.pend ch none }
  { k with iss := f k.iss, snap := k.snap.map f }

/-- Ends an active transfer: staged rows of a local destination are each written or lost, which one is free; the number of rows
completed is free. -/
def State.endTransfer (s : State) (c ch : Nat) : State :=
  let k := s.core c
  let v := k.chan ch
  let s1 := if descDstHere v.desc && v.rejected.isNone then
      v.staging.foldl (fun (t : State) e =>
        if Config.freeBool s.freeCtr e.1 then t.writeRow c (dstRowOf v.desc e.1) e.2 else t) s
    else s
  let v1 : Channel := { v with
    state := if v.owed = 0 then .idle else .draining
    staging := [], ready := [], flight := [], target := none, doneAt := none, rejected := none, drainSince := s.now
    status := statusWord v.idx 4 v.poison 0 (Config.freeNat s.freeCtr (8 * c + ch) % 4097) }
  (s1.setCore c (wakeDma ((releaseChannel k ch).putChan ch v1) ch s.now)).bump

/-- Disables one channel. A completion of the same cycle stands with its outcome; a descriptor that would begin in this cycle never
begins, and its status word is as it was (R148). -/
def State.disableChannel (s : State) (c ch : Nat) : State :=
  let s1 := s.setCore c (dropPending (s.core c) ch)
  let k := s1.core c
  let v := k.chan ch
  match v.state with
  | .idle => s1.setCore c (wakeDma k ch s1.now)
  | .draining => s1
  | .active =>
    if channelDone v then s1.completeChannel c ch
    else if v.since = s.now then
      s1.setCore c (wakeDma ((releaseChannel k ch).putChan ch { v with state := .idle, staging := [], ready := [], target := none }) ch s1.now)
    else s1.endTransfer c ch

/-- Disables the channels of a mask. -/
def State.disableMask (s : State) (c mask : Nat) : State :=
  (List.range 8).foldl (fun t ch => if mask.testBit ch then t.disableChannel c ch else t) s

/-- The command of `0x210p.25`: for a partition with marks it takes effect at the next one. -/
def doDmaDisable (p c mask : Nat) (s : State) : State × Nat :=
  if !coreExists s c || decide (s.partOfCore c ≠ some p) || decide (255 < mask) then (s, stRange)
  else if (s.part p).marks then
    (s.setCtl p { s.ctlOf p with disables := (s.ctlOf p).disables ++ [(c, mask)] }, stOk)
  else (s.disableMask c mask, stOk)

/-- DMA_DISABLE. -/
def execDmaDisable (cl : Client) (p c mask : Nat) (s : State) : Out :=
  onPart p (s.command cl false (doDmaDisable p c mask))

end Sys2Proof.Machine
end

