-- ==== Sys2Proof/Machine/Gantry.lean ====
section
/-! DEFINITION. The gantries: injection slots, all-or-nothing commits, arrivals, credits, multicast stalls
(R115-R121, R198). -/

namespace Sys2Proof.Machine

/-- One end of a gantry. -/
def Gantry.side (g : Gantry) (north : Bool) : GantryEnd := if north then g.north else g.south
def Gantry.putSide (g : Gantry) (north : Bool) (e : GantryEnd) : Gantry :=
  if north then { g with north := e } else { g with south := e }

/-- Whether a cycle's injection slot belongs to an end (R116). -/
def slotOwned (g : Gantry) (north : Bool) (cycle : Nat) : Bool := g.pattern.getLsbD (cycle % 8) == north

/-- The first slot of an end at or after a cycle; none where the pattern gives the end no slot. -/
def nextSlot (g : Gantry) (north : Bool) (cycle : Nat) : Option Nat :=
  ((List.range 8).map (fun i => cycle + i)).find? (slotOwned g north)

/-- The n-th further slot of an end after a cycle. -/
def slotAfter (g : Gantry) (north : Bool) (cycle : Nat) : Nat → Nat
  | 0 => cycle
  | n + 1 => match nextSlot g north (slotAfter g north cycle n + 1) with
    | some t => t
    | none => cycle

/-- Beats of a packet (R115). -/
def packetBeats (p : Packet) : Nat := if hdrFormat p.header = 5 then 4 else 2

/-- Element bytes of a packet by its header's format code (R115, R197). -/
def packetElems (h : BitVec 256) : Nat :=
  match hdrFormat h with
  | 4 => 512
  | 5 => 2048
  | _ => 1024

/-- A block-scaled format, whose packets carry scale bytes. -/
def packetScaled (h : BitVec 256) : Bool := decide (2 ≤ hdrFormat h ∧ hdrFormat h ≤ 4)

/-- The beats of a packet (R115): 512 B of elements each, the header in the sideband of the first, the scale bytes of a
block-scaled tile in that of the second, zeros elsewhere. What the check lanes will say of the words stands with the beats that
carry them (R120). -/
def beatsOf (p : Packet) : List Beat :=
  (List.range (packetBeats p)).map (fun n =>
    { number := n
      last := decide (n + 1 = packetBeats p)
      tag := hdrTag p.header
      payload := fitBytes 512 ((p.elems.drop (512 * n)).take 512)
      sideband := if n = 0 then leBytes 32 p.header.toNat
        else if n = 1 ∧ packetScaled p.header then fitBytes 32 (p.scales.take 32)
        else List.replicate 32 0
      payloadBad := p.bodyBad && decide (n = 0)
      sidebandBad := p.headerBad && decide (n = 0)
      corrected := if n = 0 then p.corrected else 0 })

/-- The packet that a tap has from its beats, in order; an uncorrectable word of a payload or of scale bytes is one of the tile's body,
one of the first beat's sideband one of its header. -/
def packetOfBeats (bs : List Beat) (north : Bool) : Packet :=
  let h : BitVec 256 := BitVec.ofNat 256 (leNat ((bs.take 1).flatMap (fun b => b.sideband)))
  { header := h
    elems := (bs.flatMap (fun b => b.payload)).take (packetElems h)
    scales := if packetScaled h then ((bs.drop 1).take 1).flatMap (fun b => b.sideband) else []
    headerBad := (bs.take 1).any (fun b => b.sidebandBad)
    bodyBad := bs.any (fun b => b.payloadBad) || (bs.drop 1).any (fun b => b.sidebandBad)
    corrected := bs.foldl (fun n b => n + b.corrected) 0
    north := north }

/-- Distance of row y from an end, in cores: the north edge is at y = 143. -/
def endDistance (north : Bool) (y : Nat) : Nat := if north then 143 - y else y

/-- Cycles from a beat's commit to its arrival at row y of column x (R115), one more for each removed site it passes (R128). -/
def beatLatency (s : State) (north : Bool) (x y : Nat) : Nat :=
  let d := endDistance north y
  d / 4 + 3 * (d / 24) + 1 + sitesPassed s north x y

/-- The beats of a committed packet on their way: each takes a slot of its own end, the first the slot at t, and reaches every
accepting core. -/
def beatsInLane (s : State) (g : Gantry) (north : Bool) (x t : Nat) (p : Packet) (rows : List Nat) : List (Nat × Nat × Beat) :=
  (beatsOf p).flatMap (fun b =>
    rows.map (fun y => (y * 192 + x, slotAfter g north t b.number + beatLatency s north x y, b)))

/-- The rows of a column that accept a stream tag (R117). -/
def acceptors (g : Gantry) (tag : Nat) : List Nat :=
  (g.masks.filter (fun e => e.2.getLsbD tag)).map (fun e => e.1)

/-- The checks of the breakwater unit before injection (R198): a failed CRC, a reserved format or a FAULT packet
carries the poisoned header word, a SKIP packet a zero payload. -/
def injectPacket (p : Packet) : Packet :=
  let bad := decide (bits p.header 31 0 ≠ crc32c (headerCrcBytes p.header)) || decide (5 < hdrFormat p.header)
    || bitAt p.header 175
  { p with headerBad := p.headerBad || bad
           elems := if hdrSkip p.header then p.elems.map (fun _ => 0) else p.elems }

/-- The partition of a column. -/
def State.partOfX (s : State) (x : Nat) : Option Nat := s.partOfColumn (x / 24)

/-- Removes the head packet of an end: the next one counts its wait from now (R119), and a buffer credit is owed to the
quay that sent it (R198). -/
def popInbound (e : GantryEnd) (now : Nat) : GantryEnd :=
  { e with inbound := e.inbound.drop 1, nextSince := now, stallReported := false, owed := e.owed ++ (e.inbound.take 1).map (fun i => i.quay) }

/-- GANTRY_COMMIT: the head packet's first beat is committed in the end's next slot when every accepting core has a
credit, after the slots of the packet before it; a packet that no core accepts is an orphan (R116, R118). -/
def execGantryCommit (x : Nat) (north : Bool) (s : State) : Out :=
  onColumn s x (
    let g := s.gantry x
    let e := g.side north
    match e.inbound with
    | [] => s
    | i :: _ =>
      let p := injectPacket i.packet
      let rows := acceptors g (hdrTag p.header)
      if rows.isEmpty then
        s.setGantry x (g.putSide north { popInbound e s.now with orphans := e.orphans + 1 })
      else if !rows.all (fun y => decide (0 < tget 0 e.credits y)) then s
      else
        match nextSlot g north (max s.now e.nextFree) with
        | none => s
        | some t =>
          (s.advance t).setGantry x (g.putSide north { popInbound e t with
            credits := rows.foldl (fun m y => tput 0 m y (tget 0 m y - 1)) e.credits
            nextFree := slotAfter g north t (packetBeats p - 1) + 1
            lane := e.lane ++ beatsInLane s g north x t p rows }))

/-- A beat at the tap of a core whose mask accepts it: the packet goes into the tile queue with its last beat (R55). -/
def State.tapBeat (s : State) (c : Nat) (north : Bool) (b : Beat) : State :=
  let x := coreX c
  let g := s.gantry x
  let e := g.side north
  let have' := tget [] e.taps (coreY c) ++ [b]
  if b.last then
    let s1 := s.setGantry x (g.putSide north { e with taps := tdel e.taps (coreY c) })
    s1.setCore c { s1.core c with queue := (s1.core c).queue ++ [packetOfBeats have' north] }
  else s.setGantry x (g.putSide north { e with taps := tset e.taps (coreY c) have' })

/-- GANTRY_BEAT_ARRIVAL: the oldest beat in the lane toward a core reaches its tap, which takes it for its packet, or discards it where
the tag mask is clear (R55, R115, R121). -/
def execGantryBeatArrival (c : Nat) (north : Bool) (s : State) : Out :=
  onCore s c (
    let x := coreX c
    let g := s.gantry x
    let e := g.side north
    match e.lane.findIdx? (fun l => l.1 == c) with
    | none => s
    | some n =>
      match e.lane[n]? with
      | none => s
      | some (_, due, b) =>
        let s1 := (s.advance due).setGantry x (g.putSide north { e with lane := e.lane.eraseIdx n })
        if (tget 0 g.masks (coreY c)).getLsbD b.tag then s1.tapBeat c north b else s1)

/-- CREDIT_RETURN: the credit of the oldest freed slot reaches its end's unit, a lane's latency after the slot was freed (R118); while
an emergency holds the slot's load, it is not free (R55, R70). -/
def execCreditReturn (c : Nat) (north : Bool) (s : State) : Out :=
  onCore s c (
    let x := coreX c
    let g := s.gantry x
    let e := g.side north
    match tfind e.returning c with
    | none => s
    | some freed =>
      if arrayFrozen s c && decide ((s.tile (coreTile c)).emergencySince < freed) then s
      else
      (s.advance (freed + beatLatency s north x (coreY c))).setGantry x (g.putSide north { e with
        returning := e.returning.erase (c, freed), credits := tput 0 e.credits (coreY c) (tget 0 e.credits (coreY c) + 1) }))

/-- The unit field of an event that names a column and an end (log 21). -/
def columnEnd (x : Nat) (north : Bool) : Nat := 2 * x + (if north then 1 else 0)

/-- The head packet of an end is still not committed 4,096 cy after it became the next: some core accepts it, and a credit is missing
or its first slot comes no earlier (R118, R119). -/
def stalls (g : Gantry) (e : GantryEnd) (north : Bool) (now : Nat) : Bool :=
  match e.inbound with
  | [] => false
  | i :: _ =>
    let rows := acceptors g (hdrTag i.packet.header)
    !rows.isEmpty
      && (!rows.all (fun y => decide (0 < tget 0 e.credits y))
        || (match nextSlot g north (max now e.nextFree) with
            | none => true
            | some t => decide (e.nextSince + 4096 ≤ t)))

/-- MULTICAST_STALL: the head packet has waited 4,096 cy (R119): a fault in STRICT mode, one DEGRADED event a packet
in ELASTIC mode. -/
def execMulticastStall (x : Nat) (north : Bool) (s : State) : Out :=
  onColumn s x (
    let g := s.gantry x
    let e := g.side north
    match e.inbound with
    | [] => s
    | i :: _ =>
      if e.stallReported || !stalls g e north s.now then s
      else
        let s1 := (s.advance (e.nextSince + 4096)).setGantry x (g.putSide north { e with stallReported := true })
        let tag := hdrTag i.packet.header
        match s.partOfX x with
        | none => s1
        | some p =>
          if (s.part p).elastic then s1.event sevDegraded evMulticastStall (columnEnd x north) tag
          else s1.setCtl p { s1.ctlOf p with faults := (s1.ctlOf p).faults ++ [.multicastStall (columnEnd x north) tag] })

/-! ### Clearing and loading (R117, R121, R198) -/

/-- Clears a column at a halt or reset: masks, waiting packets, lanes and taps; each credit counter takes its table value. -/
def clearGantry (g : Gantry) : Gantry :=
  let full := (List.range 144).foldl (fun m y => tput 0 m y (8 - tget 0 g.northCredits y)) []
  { g with
    masks := []
    north := { g.north with inbound := [], lane := [], taps := [], returning := [], stallReported := false, credits := g.northCredits, owed := [] }
    south := { g.south with inbound := [], lane := [], taps := [], returning := [], stallReported := false, credits := full, owed := [] } }

/-- Loads a column's tap table: the mask of a fenced core is zero (R117). -/
def loadTaps (s : State) (x : Nat) (t : TapColumn) : Gantry :=
  let base := clearGantry (s.gantry x)
  let masks := t.taps.foldl (fun m (y, w) =>
    if (s.heal (y * 192 + x)).fenced then m else tput 0 m y (w.extractLsb' 64 64)) []
  let nc := t.taps.foldl (fun m (y, w) => tput 0 m y (bits w 63 60)) []
  let full := (List.range 144).foldl (fun m y => tput 0 m y (8 - tget 0 nc y)) []
  { base with
    pattern := t.pattern
    masks := masks
    northCredits := nc
    north := { base.north with credits := nc, orphans := 0 }
    south := { base.south with credits := full, orphans := 0 } }

end Sys2Proof.Machine
end

