-- ==== Sys2Proof/Machine/Sparing.lean ====
section
/-! DEFINITION. Units that are off, the overlay, column shifts and spare rows (R127-R130, R327-R332), the frequency
tree, and which partitions a site, a tile or a boundary touches (R152, R153, R355, R370). -/

namespace Sys2Proof.Machine

/-! ### Units (R328) -/

/-- A partition that may run: STARTING, RUNNING or STOPPING. -/
def Partition.live (pt : Partition) : Bool :=
  decide (pt.run = .starting) || decide (pt.run = .running) || decide (pt.run = .stopping)

/-- A partition that is not STOPPED. -/
def Partition.busy (pt : Partition) : Bool := decide (pt.run ≠ .stopped)

/-- A partition that is defined and not STOPPED. -/
def State.busyPart (s : State) (p : Nat) : Bool := s.defined p && (s.part p).busy

/-- The partitions 0-7 that satisfy a test. -/
def partsWhere (f : Nat → Bool) : List Nat := (List.range 8).filter f

/-- The mask of a list of partitions. -/
def partMask (l : List Nat) : Nat := l.foldl (fun m p => m ||| 2 ^ p) 0

def siteTile (site : Nat) : Nat := site / 65536
def siteCol (site : Nat) : Nat := site / 256 % 256
def siteRow (site : Nat) : Nat := site % 256
/-- A router site ID from tile, tile-local column and physical row. -/
def siteId (t col row : Nat) : Nat := t * 65536 + col * 256 + row

/-- A unit ID within its class's range (R328). -/
def unitInRange (s : State) (cls unit : Nat) : Bool :=
  match cls with
  | 1 => coreExists s unit
  | 2 => decide (siteTile unit < 48 ∧ siteCol unit < 24 ∧ siteRow unit < 25)
  | 3 => decide (unit < 192)
  | 4 => decide (unit < 640)
  | 5 => decide (unit / 16 < 640 ∧ unit % 16 < 9)
  | 6 => decide (unit < 16)
  | 7 => decide (unit < 1024)
  | 8 => decide (unit < 256)
  | _ => false

/-- A unit of a class and an ID is off: the fuses, the overlay or a fence of this start name it. -/
def unitOff (s : State) (cls unit : Nat) : Bool :=
  (s.overlay.fuses ++ s.overlay.entries ++ s.overlay.startFences).any (fun f => f.cls == cls && f.unit == unit)

/-- A unit is off in hardware: an entry that waits for a restart does not count yet (R330). -/
def unitFenced (s : State) (cls unit : Nat) : Bool :=
  (s.overlay.fuses ++ s.overlay.entries ++ s.overlay.startFences).any (fun f => f.cls == cls && f.unit == unit && !pendingFence s f)

/-- The column of tiles that a class of unit lies in; quay units lie in none. -/
def unitColumn (cls unit : Nat) : Option Nat :=
  match cls with
  | 1 => some (coreX unit / 24)
  | 2 => some (siteTile unit % 8)
  | 3 => some (unit % 96 / 12)
  | 4 => if unit < 240 then some (4 * (unit / 60 % 2) + unit % 60 / 15) else none
  | 5 => if unit / 16 < 240 then some (4 * (unit / 16 / 60 % 2) + unit / 16 % 60 / 15) else none
  | _ => none

/-- The quay of a quay unit. -/
def unitQuay (cls unit : Nat) : Option Nat :=
  match cls with
  | 6 => some (unit / 4)
  | 7 => some (unit / 256)
  | 8 => some (unit / 64)
  | _ => none

/-! ### Fabric routes and ports that a partition uses -/

/-- Port index of a fabric port by edge (0 west, 1 east) and number (R335). -/
def fabricPort (edge n : Nat) : Nat := if edge = 0 then 240 + n else 368 + n

/-- Whether the route table of a partition names a fabric port (R293). -/
def routeUses (s : State) (p i : Nat) : Bool :=
  let bs := s.cfgBytes (0x2100 + p) 0x26
  (List.range (bs.length / 2)).any (fun m =>
    let e := leAt bs (2 * m) 2
    (e / 16384 == 1 && fabricPort 0 (e % 128) == i) || (e / 16384 == 2 && fabricPort 1 (e % 128) == i))

/-- Whether the link assumptions of a partition's image name a fabric port (R173). -/
def linkUses (s : State) (p i : Nat) : Bool :=
  match (s.part p).image with
  | some img => img.links.any (fun (e, n, _) => fabricPort e n == i)
  | none => false

/-- An upstream port of the tide domain (R183): the primary and the secondary. -/
def upstreamPorts (s : State) : List Nat :=
  let w := s.cfg 0x4000 8
  [w / 65536 % 65536, w % 65536].filterMap (fun h =>
    if h = 0xFFFF then none else some (fabricPort (h / 32768) (h % 128)))

/-- Whether a partition uses a Lulis port (R341). -/
def portUsed (s : State) (p i : Nat) : Bool :=
  s.defined p
    && ((decide (i < 240) && (match unitColumn 4 i with | some tx => s.bandHas p tx | none => false))
      || routeUses s p i || linkUses s p i)

/-- The partitions that hold a unit. -/
def holders (s : State) (cls unit : Nat) : List Nat :=
  partsWhere (fun p => s.defined p
    && (match unitColumn cls unit with
        | some tx => s.bandHas p tx
        | none =>
          match unitQuay cls unit with
          | some q => bandReaches s p q
          | none =>
            if cls = 4 then portUsed s p unit else if cls = 5 then portUsed s p (unit / 16) else false))

/-! ### The spare map (R331) and column shifts (R128) -/

/-- Spare map byte of a tile's column. -/
def spareOf (s : State) (t col : Nat) : Nat :=
  if s.isD && decide (22 ≤ col) then 5 else tget 0 s.overlay.spare (t * 24 + col)

/-- A physical site that carries a logical row. -/
def siteInUse (s : State) (site : Nat) : Bool :=
  match shiftRow s (siteTile site) (siteCol site) with
  | some f => decide (siteRow site ≠ f)
  | none => decide (siteRow site < 24)

/-- The logical core of a physical site, when it carries one. -/
def siteCore (s : State) (site : Nat) : Option Nat :=
  let t := siteTile site
  let r := match shiftRow s t (siteCol site) with
    | some f => if siteRow site < f then some (siteRow site) else if siteRow site = f then none else some (siteRow site - 1)
    | none => if siteRow site < 24 then some (siteRow site) else none
  r.map (fun row => (t / 8 * 24 + row) * 192 + (t % 8 * 24 + siteCol site))

/-- The physical site of a logical core. -/
def coreSite (s : State) (c : Nat) : Nat :=
  let t := coreTile c
  let col := coreX c % 24
  let r := coreY c % 24
  siteId t col (match shiftRow s t col with | some f => if r < f then r else r + 1 | none => r)

/-- Whether any column of a band carries a shift (R124). -/
def bandShifted (s : State) (p : Nat) : Bool :=
  (List.range 48).any (fun t => s.bandHas p (t % 8)
    && (List.range 24).any (fun col => decide (1 ≤ spareOf s t col ∧ spareOf s t col ≤ 3)))

/-! ### Fences and the overlay (R329, R330) -/

/-- The content of a core's scratchpad becomes undefined; `marks` says whether its check bits become valid (R41). -/
def State.forgetPad (s : State) (c : Nat) (marks : Bool) : State :=
  { s with
    pad := forget s.pad (padAt c 0) 2097152
    marks := if marks then s.marks.filter (fun e => decide (e.1 < c * 262144 ∨ (c + 1) * 262144 ≤ e.1)) else s.marks }

/-- Takes a port DOWN. -/
def Port.down (v : Port) (now : Nat) : Port :=
  { v with outcome := 0, lanes := 0, map := 0, calib := 0xFF, downSince := now }

/-! ### The lane rule (R336) -/

/-- Data lanes for a number of good wavelengths. -/
def lanesFor (g : Nat) : Nat := if 8 ≤ g then 8 else if 2 ≤ g then g / 2 * 2 else g

/-- The outcome for a number of good wavelengths. -/
def outcomeFor (g : Nat) : Nat := if 9 ≤ g then 3 else if g = 8 then 2 else if 0 < g then 1 else 0

/-- A port's lanes, map and calibration wavelength for its good wavelengths, in rising order. -/
def Port.lane (v : Port) (good : List Nat) : Port :=
  let n := lanesFor good.length
  { v with
    outcome := outcomeFor good.length
    lanes := n
    map := (good.take n).foldl (fun m w => m ||| 2 ^ w) 0
    calib := match (good.drop n).getLast? with | some w => w | none => 0xFF }

/-- The wavelengths in use: data and calibration. -/
def Port.used (v : Port) : List Nat := (List.range 9).filter (fun w => v.map.testBit w || v.calib == w)

/-- The event for a change of outcome: DEGRADED when worse, INFO on a return to FULL. -/
def State.notePort (s : State) (i : Nat) (old : Port) : State :=
  let v := s.port i
  if v.outcome = old.outcome ∧ v.lanes = old.lanes then s
  else if v.outcome = 4 then s
  else if v.outcome = 3 then s.event sevInfo evPortOutcome i (256 * v.outcome + v.lanes)
  else if v.outcome < old.outcome ∨ v.lanes < old.lanes ∨ old.outcome = 4 then s.event sevDegraded evPortOutcome i (256 * v.outcome + v.lanes)
  else s

/-- A wavelength of a port is off: a port that carries traffic takes the lanes of those it has left (R328, R336). -/
def State.dropWavelength (s : State) (i w : Nat) : State :=
  let v := s.port i
  let off := { v with removed := addOnce v.removed w }
  if 1 ≤ v.outcome ∧ v.outcome ≤ 3 ∧ w ∈ v.used then (s.setPort i (off.lane (v.used.filter (· != w)))).notePort i v else s.setPort i off

/-- The hardware effect of a fence (R328). -/
def State.applyFence (s : State) (cls unit : Nat) : State :=
  match cls with
  | 1 =>
    let h := s.heal unit
    let x := coreX unit
    let g := s.gantry x
    ((s.setHeal unit { h with fenced := true, heartbeat := false, offered := false }).forgetPad unit false).setGantry x
      { g with masks := tput 0 g.masks (coreY unit) 0 }
  | 4 => s.setPort unit ((s.port unit).down s.now)
  | 5 => s.dropWavelength (unit / 16) (unit % 16)
  | 7 =>
    let e := tget {} s.opt.engines (unit / 256)
    { s with opt := { s.opt with engines := tput {} s.opt.engines (unit / 256) { e with fenced := addOnce e.fenced (unit % 256) } } }
  | _ => s

/-- Adds one overlay entry with its effect at once: a full overlay fences for this start only, records FAULT and reports
E_CAPACITY (R330). -/
def State.addFence (s : State) (cls origin flags unit : Nat) : State × Nat :=
  let f : Fence := { cls := cls, origin := origin, flags := flags, unit := unit, utc := s.utc, quaySerial := 0 }
  if s.overlay.entries.length < 1024 then
    ({ s with overlay := { s.overlay with entries := s.overlay.entries ++ [f] } }.applyFence cls unit, stOk)
  else
    (({ s with overlay := { s.overlay with startFences := s.overlay.startFences ++ [f] } }.applyFence cls unit).event
      sevFault evOverlayFull unit cls, stCapacity)

/-- Adds one overlay entry during work: its effect waits for the restart of a partition that holds the unit (R330). -/
def State.addFenceLater (s : State) (cls origin flags unit : Nat) : State × Nat :=
  match holders s cls unit with
  | [] => s.addFence cls origin flags unit
  | p :: _ =>
    let f : Fence := { cls := cls, origin := origin, flags := flags, unit := unit, utc := s.utc, quaySerial := 0 }
    if s.overlay.entries.length < 1024 then
      ({ s with overlay := { s.overlay with entries := s.overlay.entries ++ [f], pending := s.overlay.pending ++ [(p, f)] } }, stOk)
    else s.addFence cls origin flags unit

/-- Marks the wafer's tile column of a tile unusable: one DEGRADED event for each (R332). -/
def State.markUnusable (s : State) (t : Nat) : State :=
  if t % 8 ∈ s.overlay.unusable then s
  else { s with overlay := { s.overlay with unusable := s.overlay.unusable ++ [t % 8] } }.event
    sevDegraded evColumnUnusable (t % 8) t

/-- A column of a tile that cannot pass traffic: spare map 4, and its tile column unusable (R129, R332). -/
def State.loseColumn (s : State) (t col : Nat) : State :=
  { s with overlay := { s.overlay with spare := tset s.overlay.spare (t * 24 + col) 4 } }.markUnusable t

/-- What belongs to a site moves with the sites: after a shift from local row f on, the logical core of each row has the health
of the next row's site, and the last that of the spare site. -/
def State.moveHealth (s : State) (t col f : Nat) : State :=
  let core := fun (r : Nat) => (t / 8 * 24 + r) * 192 + (t % 8 * 24 + col)
  ((List.range 24).filter (fun r => decide (f ≤ r))).foldl (fun (u : State) r =>
    let n := if r < 23 then s.heal (core (r + 1)) else {}
    let h := s.heal (core r)
    if h.dead = n.dead ∧ h.offered = n.offered then u
    else u.setHeal (core r) { u.heal (core r) with dead := n.dead, offered := n.offered }) s

/-- The hardware's part of a column shift: the rows that move reach cores whose scratchpads hold nothing defined (R128). -/
def State.shiftSites (s : State) (site : Nat) : State :=
  let t := siteTile site
  let col := siteCol site
  ((List.range 24).filter (fun r => decide (siteRow site ≤ r))).foldl (fun (u : State) r =>
    u.forgetPad ((t / 8 * 24 + r) * 192 + (t % 8 * 24 + col)) true) (s.moveHealth t col (siteRow site))

/-- The spare map's new byte of a shifted column; one made during operation counts until the next verification (R130, R331). -/
def State.noteShift (s : State) (site used : Nat) : State :=
  let k := siteTile site * 24 + siteCol site
  { s with overlay := { s.overlay with
      spare := tset s.overlay.spare k used
      shiftsSinceVerify := if used = 3 then s.overlay.shiftsSinceVerify ++ [k] else s.overlay.shiftsSinceVerify } }

/-- Removes a site by a column shift, when its column has none in that tile: `used` is the spare map's new byte. A failed shift loses the
column (R128, R129). -/
def State.shiftColumn (s : State) (site used origin flags : Nat) : State × Nat :=
  if spareOf s (siteTile site) (siteCol site) = 0 then
    let r := (s.shiftSites site).addFence 2 origin flags site
    (r.1.noteShift site used, r.2)
  else (s.loseColumn (siteTile site) (siteCol site), stNospare)

/-- A column shift made during work: in columns of a defined partition it takes effect in hardware at that partition's restart (R330). -/
def State.shiftLater (s : State) (site used origin flags : Nat) : State × Nat :=
  if spareOf s (siteTile site) (siteCol site) ≠ 0 ∨ holders s 2 site = [] ∨ 1024 ≤ s.overlay.entries.length then s.shiftColumn site used origin flags
  else ((s.addFenceLater 2 origin flags site).1.noteShift site used, stOk)

/-- The fences that waited for a partition take effect. -/
def State.applyPending (s : State) (p : Nat) : State :=
  let mine := s.overlay.pending.filter (fun e => e.1 == p)
  let s1 : State := { s with overlay := { s.overlay with pending := s.overlay.pending.filter (fun e => e.1 != p) } }
  mine.foldl (fun t e => if e.2.cls = 2 then t.shiftSites e.2.unit else t.applyFence e.2.cls e.2.unit) s1

/-- Shifts of a column that were made during operation since the last verification. -/
def operationShifts (s : State) (x : Nat) : Nat :=
  (s.overlay.shiftsSinceVerify.filter (fun k => decide (k / 24 % 8 = x / 24 ∧ k % 24 = x % 24))).length

/-- A core offered under R40 is replaced by its column's spare, where that is free and the pin allows it: with `later`, as an entry made
during work (R330). No running partition uses the column, so the pin written is the one in force (R20). -/
def State.substituteOffer (s : State) (later : Bool) (c p : Nat) : State :=
  if !(s.heal c).offered || decide (s.cfg 0x3100 1 = 2) || decide (spareOf s (coreTile c) (coreX c % 24) ≠ 0)
      || decide (0 < operationShifts s (coreX c)) then s
  else
    let site := coreSite s c
    let r := if later then s.shiftLater site 3 3 2 else s.shiftColumn site 3 3 2
    r.1.event sevAbsorbed evSpareSubstituted site p

/-- An offered core in a STOPPED partition or in unallocated columns is replaced at once (R366). The event names no
partition there as 0xFF (log 49). -/
def State.substituteIdle (s : State) (c : Nat) : State :=
  match s.partOfColumn (coreX c / 24) with
  | none => s.substituteOffer true c 0xFF
  | some p => if (s.part p).run = .stopped then s.substituteOffer true c p else s

/-! ### The frequency tree (R152) -/

/-- Neighbours of a tile in the 8 by 6 array. -/
def tileNeighbours (t : Nat) : List Nat :=
  (if t % 8 = 0 then [] else [t - 1]) ++ (if t % 8 = 7 then [] else [t + 1])
    ++ (if t < 8 then [] else [t - 8]) ++ (if t < 40 then [t + 8] else [])

/-- The ancestors of a tile toward tile (0,0). -/
def ancestors (s : State) : Nat → Nat → List Nat
  | 0, _ => []
  | n + 1, t =>
    match (s.tile t).parent with
    | some q => q :: ancestors s n q
    | none => []

/-- The tiles of a partition's frequency-tree paths. -/
def treePath (s : State) (p t : Nat) : Bool :=
  (List.range 48).any (fun u => s.bandHas p (u % 8) && decide (t ∈ ancestors s 48 u))

/-- Children of a stopped tile take another neighbour that has a running fast clock; which one is free (R152). -/
def State.reparent (s : State) (t : Nat) : State :=
  let kids := (List.range 48).filter (fun u => (s.tile u).parent == some t)
  (kids.foldl (fun (w : State) u =>
    let cand := (tileNeighbours u).filter (fun v => v != t && (w.tile v).fastClock && !(decide (u ∈ ancestors w 48 v)))
    let pick := cand[Config.freeNat w.freeCtr u % cand.length]?
    w.setTile u { w.tile u with parent := pick }) s).bump

/-! ### What a partition crosses -/

/-- A column outside the band that a partition's transit crosses: the side of a direction it holds slots in (R113). -/
def transitColumn (s : State) (p tx : Nat) : Bool :=
  s.defined p && ((decide (0 < slotsHeld s p true) && decide (s.firstCol p + s.widthOf p ≤ tx))
    || (decide (0 < slotsHeld s p false) && decide (tx < s.firstCol p)))

/-- A partition whose band, routes, transit, gantry or frequency-tree path cross a tile. -/
def crossesTile (s : State) (p t : Nat) : Bool :=
  s.defined p && (s.bandHas p (t % 8) || transitColumn s p (t % 8) || treePath s p t)

/-- Two tiles that share a boundary. -/
def isBoundary (a b : Nat) : Bool := decide (a < 48 ∧ b < 48) && decide (b ∈ tileNeighbours a)

/-- A partition whose routes, gantry or transit cross the boundary of two tiles (R153). -/
def crossesBoundary (s : State) (p a b : Nat) : Bool :=
  s.defined p
    && (if a % 8 = b % 8 then s.bandHas p (a % 8)
        else (s.bandHas p (a % 8) && s.bandHas p (b % 8)) || transitColumn s p (a % 8) || transitColumn s p (b % 8))

/-- Adds a cause to a partition that may run: it faults at its next mark (R354). -/
def State.addFault (s : State) (p : Nat) (f : PFault) : State :=
  if (s.part p).live then s.setCtl p { s.ctlOf p with faults := (s.ctlOf p).faults ++ [f] } else s

/-- Adds a cause to every partition of a list. -/
def State.addFaults (s : State) (ps : List Nat) (f : PFault) : State := ps.foldl (fun t p => t.addFault p f) s

end Sys2Proof.Machine
end

