-- ==== Sys2Proof/Machine/Resets.lean ====
section
/-! DEFINITION. Core, berth and partition resets (R345-R349), the cancelling of fetches (R209) and of egress (R230). -/

namespace Sys2Proof.Machine

/-- The intake of a column at an edge (R222): key 192 * edge + x. -/
def intakeKey (x : Nat) (north : Bool) : Nat := (if north then 192 else 0) + x

/-- The quay that faces a column at an edge (R14). -/
def quayOf (x : Nat) (north : Bool) : Nat := (if north then 0 else 2) + x / 96

/-- The logical columns of a partition's band that exist. -/
def bandColumns (s : State) (p : Nat) : List Nat :=
  (List.range 192).filter (fun x => s.bandHas p (x / 24) && columnExists s x)

/-- Adds to a count of a quay's step report (R215): 0 DATA, 1 MISS, 2 GONE, 3 CANCELLED, 4 SHADOW, 5 SKIP,
6 CHECKPOINT, 7 FAULT, 8 flash recovered, 9 flash lost, 10 DRAM recovered, 11 DRAM lost. -/
def Quay.count (q : Quay) (key n : Nat) : Quay := { q with counts := tput 0 q.counts key (satAdd 32 (tget 0 q.counts key) n) }

/-! ### Versions that retire (R17, R195, R208) -/

/-- The version slot of a number. -/
def Tensor.slot (t : Tensor) (v : Nat) : Option Version := t.versions.find? (fun x => x.number == v)

/-- Replaces the version slot of a number. -/
def Tensor.putSlot (t : Tensor) (v : Version) : Tensor :=
  if (t.slot v.number).isSome then { t with versions := t.versions.map (fun x => if x.number = v.number then v else x) }
  else { t with versions := t.versions ++ [v] }

/-- The oldest version number held. -/
def Tensor.oldest (t : Tensor) : Nat :=
  match t.versions with
  | [] => 0
  | v :: l => l.foldl (fun m x => min m x.number) v.number

/-- A fetch entry names a version: its outcome is open, or the shadow copy of that version is still to be read; an abandoned one names
none (R195, R209). -/
def versionNamed (s : State) (tid v : Nat) : Bool :=
  s.quays.any (fun e => e.2.entries.any (fun f => f.tid == tid && f.version == v && !f.waiters.isEmpty
    && (f.outcome.isNone || (decide (f.outcome = some .shadow) && !f.ready))))

/-- Drops the damage marks of a version that retires (R208). -/
def State.clearDamage (s : State) (tid v : Nat) : State :=
  { s with quays := s.quays.map (fun e =>
      (e.1, { e.2 with damaged := e.2.damaged.filter (fun d => d.1 != tid || d.2.2.1 != v) })) }

/-- Retires one version of a tensor. -/
def State.retireVersion (s : State) (tid v : Nat) : State :=
  let t := s.tensor tid
  (s.setTensor tid { t with versions := t.versions.filter (fun x => x.number != v) }).clearDamage tid v

/-- The versions of a tensor that are to retire do so, each once no fetch entry names it (R195). -/
def State.retireUnnamed (s : State) (tid : Nat) : State :=
  let t := s.tensor tid
  let free := t.retiring.filter (fun n => !versionNamed s tid n)
  let s1 := free.foldl (fun u n => u.retireVersion tid n) s
  if free.isEmpty then s
  else s1.setTensor tid { s1.tensor tid with retiring := t.retiring.filter (fun n => versionNamed s tid n) }

/-! ### Cancelled fetches (R202, R209) -/

/-- Entries in use: from issue until the last packet is sent (R202). -/
def Quay.inUse (qu : Quay) : Nat := (qu.entries.filter (fun e => !e.waiting && !e.waiters.isEmpty)).length

/-- The first n waiting entries become active, the oldest first. -/
def admitIn : Nat → List FetchEntry → List FetchEntry
  | _, [] => []
  | n, e :: l =>
    if !e.waiting then e :: admitIn n l
    else if n = 0 then e :: l
    else { e with waiting := false } :: admitIn (n - 1) l

/-- Room for entries: the oldest waiting entries become active while fewer than 65,536 are (R202). -/
def Quay.takeWaiting (qu : Quay) : Quay := { qu with entries := admitIn (65536 - qu.inUse) qu.entries }

/-- Entries of a quay have ended: those that wait for room take it, and versions of the tensor that no entry names any more retire. -/
def State.settle (s : State) (q tid : Nat) : State := (s.setQuay q (s.quay q).takeWaiting).retireUnnamed tid

/-- A flash recovery is at work in an entry (R207). -/
def FetchEntry.recovering (e : FetchEntry) : Bool := decide (0 < e.recovery ∧ e.recovery < 4)

/-- An entry that the quay has done with: no waiter, no recovery at work, no data to come after a MISS. -/
def FetchEntry.spent (e : FetchEntry) : Bool := e.waiters.isEmpty && e.missed.isEmpty && !e.recovering

/-- Cancels every waiter of a partition in one quay (R209): an entry left with no waiter is abandoned, but for a flash recovery at work
in it, whose rewrite completes (R207). -/
def Quay.cancel (q : Quay) (p : Nat) : Quay :=
  let n := (q.entries.map (fun e => (e.waiters.filter (fun w => w.part == p)).length)).foldl (· + ·) 0
  { q.count 3 n with
    entries := (q.entries.map (fun e => { e with waiters := e.waiters.filter (fun w => w.part != p)
                                                 missed := e.missed.filter (· != p) })).filter (fun e => !e.spent)
    outgoing := q.outgoing.filter (fun o => o.part != p) }

/-- Cancels every waiter of a partition in every quay: entries that waited take the room, and versions that only it named retire. -/
def State.cancelFetches (s : State) (p : Nat) : State :=
  let s1 : State := { s with quays := s.quays.map (fun e => (e.1, (e.2.cancel p).takeWaiting)) }
  (s1.tensors.map (fun e => e.1)).foldl (fun (u : State) tid => u.retireUnnamed tid) s1

/-- A ROWS frame that a quay holds belongs to a partition (R228). -/
def heldFor (p : Nat) (f : Nat × EgFrame) : Bool := decide (bits f.2.header 159 157 = p)

/-- ROWS frames of a partition that the quays of an intake's edge hold from its column. -/
def heldFrames (s : State) (p key : Nat) : Nat :=
  let q := if 192 ≤ key then 0 else 2
  let held := (s.quay q).heldRows ++ (s.quay (q + 1)).heldRows
  (held.filter (fun f => heldFor p f && decide (f.1 = key % 192))).length

/-- Clears a partition's breakwater intakes (R230): open instances close, held rows and unsent frames are discarded and
no credit stays with them. ROWS frames that wait in a quay for the rest of an instance go with it, and their credits return (log 76). -/
def State.clearEgress (s : State) (p : Nat) : State :=
  { s with
    intakes := s.intakes.map (fun e =>
      if s.bandHas p (e.1 % 192 / 24) then
        (e.1, { e.2 with opens := [], held := [], unsent := [], credits := e.2.credits + heldFrames s p e.1 })
      else e)
    quays := s.quays.map (fun e => (e.1, { e.2 with heldRows := e.2.heldRows.filter (fun f => !heldFor p f) })) }

/-- Every quay that a band reaches has 32 buffer credits for each of its columns (R198). -/
def State.freshCredits (s : State) (p : Nat) : State :=
  ((List.range 4).filter (bandReaches s p)).foldl (fun (t : State) q =>
    let a := t.quay q
    t.setQuay q { a with credits := (bandColumns s p).foldl (fun m x => tset m x 32) a.credits }) s

/-- Clears the gantries of a partition's columns and restores the quays' buffer credits to 32 (R121, R198). -/
def State.clearColumns (s : State) (p : Nat) : State :=
  let s1 : State := { s with gantries := s.gantries.map (fun e => if s.bandHas p (e.1 / 24) then (e.1, clearGantry e.2) else e) }
  s1.freshCredits p

/-- The end of a core's work at its reset (R346): the tag mask clears, work in flight is abandoned, channels are disabled. -/
def State.coreStop (s : State) (c : Nat) : State :=
  let g := s.gantry (coreX c)
  let s1 := s.setGantry (coreX c) { g with masks := tput 0 g.masks (coreY c) 0 }
  (s1.abandon c).disableMask c 255

/-- What a core's reset clears: everything but the stores, the row marks and the counters; row contents become undefined (R345,
R346). The banks and scalars of the vector unit are undefined until the next launch (R94); nothing reads them before it, and the
model holds +0.0 there (DESIGN CHOICE, log 74). -/
def State.coreClear (s : State) (c : Nat) : State :=
  let s2 := s.forgetPad c false
  let k := s2.core c
  let busy := k.chans.any (fun e => decide (e.2.state = .draining))
  let h := s2.heal c
  let s3 := k.responses.foldl (fun (t : State) r => t.inject c r.2) s2
  let k := s3.core c
  (s3.setCore c { k with
    bp := k.entry, ix := [], loops := [], wait := .idle, iss := {}, snap := none, arr := {}, spb := {}, vec := {}
    queue := [], windows := [], responses := [], portBusy := [], firstFault := none, laterFaults := 0, genSeed := none, genPaused := 0 }).setHeal c
    { h with heartbeat := false, resetting := busy, writeBack := [], scrubPending := [] }

/-- The reset of a set of cores in one cycle (R346-R348). -/
def State.coresReset (s : State) (cs : List Nat) : State :=
  cs.foldl (fun t c => t.coreClear c) (cs.foldl (fun t c => t.coreStop c) s)

/-- Withdraws a pending PREEMPT with a status (R178). -/
def State.withdrawPreempt (s : State) (p status : Nat) : State :=
  match (s.ctlOf p).preempt with
  | some (n, _) => (s.setCtl p { s.ctlOf p with preempt := none }).endTicket n status
  | none => s

/-- A partition reset at the present mark (R348). It completes within 1,000 ticks. -/
def State.partitionReset (s : State) (p : Nat) : State :=
  let s1 := ((((s.clearColumns p).clearEgress p)).cancelFetches p).withdrawPreempt p stState
  let cs := bandCores s p
  let s2 := s1.coresReset cs
  let busy := cs.any (fun c => (s2.heal c).resetting)
  let pt := s2.part p
  let ct := s2.ctlOf p
  (s2.setPart p { pt with
    barriers := [], variant := 0, resume := none, latches := []
    resetAt := if busy then some (s.now + 1000 * cyPerTick) else none }).setCtl p { ct with
      halt := false, haltAtStepStart := false, ending := false, windowSets := [], disables := [], pins := [], tensorPins := []
      faults := [], overflowAt := [], logitsLateAt := none }

/-! ### Commands and events of resets -/

/-- The cores of a core's berth (R4): 4 by 4 logical cores, 2 columns wide where D codes cut it. -/
def berthCores (s : State) (c : Nat) : List Nat :=
  let x0 := coreX c / 4 * 4
  let y0 := coreY c / 4 * 4
  ((List.range 16).map (fun i => (y0 + i / 4) * 192 + x0 + i % 4)).filter (coreExists s)

/-- The checks of `0x210p.27` (R345, R353), then the reset of the cores named at the next tick boundary. -/
def doUnitReset (p c : Nat) (cs : List Nat) (s : State) : State × Nat :=
  if !coreExists s c || decide (s.partOfCore c ≠ some p) then (s, stRange)
  else if (s.part p).run ≠ .stopped ∧ (s.part p).run ≠ .fault then (s, stBusy)
  else ((s.advance ((tickOf s.now + 1) * cyPerTick)).coresReset cs, stOk)

/-- CORE_RESET. -/
def execCoreReset (cl : Client) (p c : Nat) (s : State) : Out := onPart p (s.command cl false (doUnitReset p c [c]))

/-- BERTH_RESET: every core of the berth in one cycle (R347). -/
def execBerthReset (cl : Client) (p c : Nat) (s : State) : Out :=
  onPart p (s.command cl false (doUnitReset p c (berthCores s c)))

/-- CORE_RESET_COMPLETE: when every channel has left DRAINING. -/
def execCoreResetComplete (c : Nat) (s : State) : Out :=
  onCore s c (
    if (s.core c).chans.any (fun e => decide (e.2.state = .draining)) then s
    else s.setHeal c { s.heal c with resetting := false })

/-- DRAIN_ABANDON: a channel of a core in reset that has been DRAINING for 1,000 ticks owes nothing more; later responses
are discarded (R346). -/
def execDrainAbandon (c ch : Nat) (s : State) : Out :=
  onCore s c (
    let k := s.core c
    let v := k.chan ch
    if v.state ≠ .draining ∨ !(s.heal c).resetting then s
    else (s.advance (v.drainSince + 1000 * cyPerTick)).setCore c
      (k.putChan ch { v with state := .idle, owed := 0, flight := [] }))

end Sys2Proof.Machine
end

