-- ==== Sys2Proof/Machine/Clocks.lean ====
section
/-! DEFINITION. Fast clocks, boundary phases, the loss of a beacon clock (R150-R153), the scrubber's reads (R40, R366) and router errors (R355). -/

namespace Sys2Proof.Machine

/-- SCRUB_ROW_READ: the scrubber reads its next row when due; it pauses while the tile's fast clock is stopped. An idle core that it has
offered is replaced at once (R40, R366). -/
def execScrubRowRead (c : Nat) (s : State) : Out :=
  onCore s c (
    if !(s.tile (coreTile c)).fastClock || (s.heal c).fenced then s
    else
      let h0 := s.heal c
      let row := h0.scrubRow
      let s1 := s.advance (h0.scrubLast + scrubInterval s)
      let fixed := correctedIn s c row
      let bad := badIn s c row
      let s2 := s1.addCorrected c fixed
      let h := s2.heal c
      let ends := decide (row = 4095)
      let s3 := s2.setHeal c { h with
        scrubPending := if fixed = 0 then h.scrubPending else addOnce h.scrubPending row
        scrubUncorrectable := satAdd 16 h.scrubUncorrectable bad
        scrubRow := if ends then 0 else row + 1
        scrubLast := s1.now
        scrubDone := if ends then s1.now else h.scrubDone
        passCorrected := if ends then 0 else h.passCorrected }
      ((if bad = 0 then s3 else s3.event sevAbsorbed evScrubUncorrectable c row).substituteIdle c).bump)

/-- A tile whose fast clock may run: reachable, not dark, not tripped, not in deep park (R151). -/
def clockAllowed (s : State) (t : Nat) : Bool :=
  !(s.tile t).unreachable && decide ((s.tile t).state ≠ .darkShed ∧ (s.tile t).state ≠ .tripped)
    && decide (s.power.state ≠ .deepPark ∧ s.power.state ≠ .standby ∧ s.power.state ≠ .off)

/-- Starts a tile's fast clock: it takes up the count at the next tick boundary, at offset 0. -/
def State.startClock (s : State) (t : Nat) : State :=
  if (s.tile t).fastClock || !clockAllowed s t then s
  else s.setTile t { s.tile t with fastClock := true, pickUp := (tickOf s.now + 1) * cyPerTick }

/-- FAST_CLOCK_START. -/
def execFastClockStart (tile : Nat) (s : State) : Out := onTile tile (s.startClock tile)

/-- The number of a boundary, and the unit field of its event (log 21). -/
def boundaryKey (a b : Nat) : Nat := 64 * min a b + max a b

/-- BOUNDARY_PHASE_CHECK: within 2 cy nothing happens; beyond it the partitions that cross the boundary fault at their next
marks, a FAULT event names the boundary, and it waits for recalibration (R153). The error is in 1/16 cy. -/
def execBoundaryPhaseCheck (a b : Nat) (err16 : Int) (s : State) : Out :=
  if !isBoundary a b then .fault .noSuchUnit
  else if err16.natAbs ≤ 32 then .next s
  else
    let hit := partsWhere (fun p => crossesBoundary s p a b)
    let s1 : State := { s with boundaries := tput 0 s.boundaries (boundaryKey a b) err16 }
    .next ((s1.addFaults hit (.boundaryPhase a b err16)).event sevFault evBoundaryPhase (boundaryKey a b) (unsignedOf 32 err16))

/-- Whether a partition has come to rest: STOPPED, or FAULT with its reset complete (log 22). -/
def atRest (s : State) (p : Nat) : Bool :=
  decide ((s.part p).run = .stopped) || (decide ((s.part p).run = .fault) && resetDone s p)

/-- BOUNDARY_RECALIBRATE: once the partitions that cross it are at rest, the boundary has no phase error. -/
def execBoundaryRecalibrate (a b : Nat) (s : State) : Out :=
  if !isBoundary a b then .fault .noSuchUnit
  else if (partsWhere (fun p => crossesBoundary s p a b)).all (atRest s) then
    .next { s with boundaries := tdel s.boundaries (boundaryKey a b) }
  else .next s

/-- BEACON_CLOCK_LOST: the tile is unreachable and dead: no core or router of it works, its column is unusable, its children
take another parent, and every partition that crosses it faults (R150, R332, R355; log 22). -/
def execBeaconClockLost (tile : Nat) (s : State) : Out :=
  onTile tile (
    if (s.tile tile).unreachable then s
    else
      let hit := partsWhere (fun p => crossesTile s p tile)
      let site := siteId tile 0 0
      let s1 := (s.setTile tile { s.tile tile with unreachable := true, fastClock := false, parent := none }).reparent tile
      let cs := (s.cores.map (fun e => e.1)).filter (fun c => coreTile c == tile)
      let s2 := cs.foldl (fun (t : State) c => t.setHeal c { t.heal c with dead := true, heartbeat := false }) s1
      (s2.addFaults hit (.routerDead site (partMask hit))).markUnusable tile)

/-- A router site in columns of no partition with nothing running across it: its column is shifted at once (R355). In a defined
partition's columns the site stays down, and a STOPPED partition's next launch shifts it (R130, R330). -/
def State.shiftDown (s : State) (site : Nat) : State :=
  match s.partOfColumn (siteTile site % 8) with
  | some _ => s
  | none =>
    let r := s.shiftColumn site 3 3 2
    { r.1 with routersDown := if r.2 = stNospare then r.1.routersDown else r.1.routersDown.filter (· != site) }

/-- ROUTER_ERROR: the site stops forwarding. Every partition whose band, transit, ports, gantry or tree path cross it faults
at its next mark; with none, its column is shifted at once (R355, R129). A second site of one column in a tile loses the column (R129). A
spare row in no use changes nothing. -/
def execRouterError (site : Nat) (s : State) : Out :=
  if siteTile site < 48 ∧ siteCol site < 24 ∧ siteRow site < 25 then
    .next (
      if site ∈ s.routersDown || !siteInUse s site then s
      else
        let s1 : State := { s with routersDown := s.routersDown ++ [site] }
        let hit := partsWhere (fun p => crossesTile s p (siteTile site) && (s.part p).live)
        if hit.isEmpty then s1.shiftDown site
        else
          let s2 := s1.addFaults hit (.routerDead site (partMask hit))
          if spareOf s (siteTile site) (siteCol site) = 0 then s2 else s2.loseColumn (siteTile site) (siteCol site))
  else .fault .noSuchUnit

end Sys2Proof.Machine
end

