-- ==== Sys2Proof/Machine/Tensors.lean ====
section
/-! DEFINITION. The tensor table, allocation, versions, content and checkpoints of the quays (R189-R195), and the
optimizer's groups as the table needs them (R248, R274). -/

namespace Sys2Proof.Machine

/-! ### Records (R192) -/

/-- Byte i of a 64 B record. -/
def recByte (r : BitVec 512) (i : Nat) : Nat := r.toNat / 256 ^ i % 256
/-- Bytes [lo, lo + n) of a 64 B record, little-endian. -/
def recAt (r : BitVec 512) (lo n : Nat) : Nat := r.toNat / 256 ^ lo % 256 ^ n

def recId (r : BitVec 512) : Nat := recAt r 0 4
def recKind (r : BitVec 512) : Nat := recByte r 4
def recFlag (r : BitVec 512) (b : Nat) : Bool := (recByte r 5).testBit b
def recFrozen (r : BitVec 512) : Bool := recFlag r 0
def recParkTiles (r : BitVec 512) : Bool := recFlag r 1
def recParkRows (r : BitVec 512) : Bool := recFlag r 2
def recMirror (r : BitVec 512) : Bool := recFlag r 3
def recShadow (r : BitVec 512) : Bool := recFlag r 4
def recCheckpoint (r : BitVec 512) : Bool := recFlag r 5
def recRemote (r : BitVec 512) : Bool := recFlag r 6
def recStream (r : BitVec 512) : Nat := recByte r 6
def recShadowFmt (r : BitVec 512) : Nat := recByte r 7
def recTier (r : BitVec 512) : Nat := recByte r 8 / 16 % 4
def recReplica (r : BitVec 512) : Nat := recByte r 8 / 4 % 4
def recPrimary (r : BitVec 512) : Nat := recByte r 8 % 4
def recPath (r : BitVec 512) : Nat := recByte r 9
def recWindow (r : BitVec 512) : Nat := recByte r 10
def recHandle (r : BitVec 512) : Nat := recByte r 11
def recTin (r : BitVec 512) : Nat := recAt r 12 4
def recTout (r : BitVec 512) : Nat := recAt r 16 4
def recLead (r : BitVec 512) : Nat := recAt r 20 2
def recResidency (r : BitVec 512) : Nat := recByte r 22
def recGrant (r : BitVec 512) : Nat := recByte r 23
def recBase (r : BitVec 512) : Nat := recAt r 24 8
def recSize (r : BitVec 512) : Nat := recAt r 32 8
def recTiles (r : BitVec 512) : Nat := recTin r * recTout r
/-- The primary quay and tier hold a region. -/
def recRegion (r : BitVec 512) : Bool := decide (recKind r = 2)

/-- Bytes of one tile in a format (R195). -/
def tileBytes (code : Nat) : Nat :=
  match code with
  | 0 => 1024
  | 1 => 1024
  | 4 => 544
  | 5 => 2048
  | _ => 1056

/-- The field checks of a record that give E_RANGE (R192, R212). A region grant byte that is not zero on a record of another kind, for which
the table names no violation, is refused too (DESIGN CHOICE, log 74). -/
def recInRange (r : BitVec 512) : Bool :=
  let k := recKind r
  let weight := decide (k < 2)
  let anyPark := recParkTiles r || recParkRows r
  decide (1 ≤ recId r ∧ recId r < 2 ^ 24) && decide (k ≤ 2)
    && !recFlag r 7
    && (if weight then !recRemote r else decide (recByte r 5 % 64 = 0))
    && decide (recStream r ≤ 5 ∧ recShadowFmt r ≤ 5)
    && (if recShadow r then decide (codeWidth (recShadowFmt r) ≤ codeWidth (recStream r)) else decide (recShadowFmt r = 0))
    && decide (recByte r 8 < 64 ∧ recTier r ≤ 1)
    && !(decide (k = 0) && decide (recTier r = 1) && !recFrozen r)
    && decide (recPath r ≤ 3 ∧ recWindow r ≤ 2)
    && (if weight then decide (1 ≤ recTin r ∧ 1 ≤ recTout r ∧ recTiles r ≤ 2 ^ 32) else decide (recTin r = 0 ∧ recTout r = 0))
    && decide (recLead r ≤ 4095 ∧ recResidency r ≤ 2)
    && (decide (recTier r = 1) || decide (recResidency r = 0))
    && (recRegion r || decide (recGrant r = 0))
    && (if recRegion r then decide (recBase r % 512 = 0 ∧ recSize r % 512 = 0 ∧ 512 ≤ recSize r) else decide (recSize r = 0))
    && decide (recAt r 40 24 = 0)
    && (!(anyPark && recParkRows r) || decide (recStream r = 0 ∨ recStream r = 1 ∨ recStream r = 4 ∨ recStream r = 5))

/-- The record of a tensor of the table. -/
def State.recOf (s : State) (tid : Nat) : Option (BitVec 512) := (tfind s.tensors tid).map (fun t => t.record)

/-! ### Capacity and allocation (R189, R193, R195, R215) -/

/-- DRAM stacks of a quay that are on (R6, R328). -/
def stacksOn (s : State) (q : Nat) : Nat :=
  ((List.range 4).filter (fun i => !(decide (4 * q + i ∈ s.ident.fusedStacks)) && !unitOff s 6 (4 * q + i))).length

/-- DRAM capacity of a quay: 96 GB a stack. -/
def dramCap (s : State) (q : Nat) : Nat := stacksOn s q * 96000000000

/-- Usable flash of a quay. -/
def flashCap : Nat := 40000000000000

/-- Capacity of a tier. -/
def tierCap (s : State) (q tier : Nat) : Nat := if tier = 0 then dramCap s q else flashCap

/-- Version slots (R195). -/
def recSlots (r : BitVec 512) : Nat := if recFrozen r then 1 else max 2 (recWindow r + 1)

/-- Bytes of the tiles view of a park view (R212). -/
def parkTilesBytes (r : BitVec 512) : Nat :=
  let rows := match recStream r with
    | 2 => 3
    | 3 => 3
    | 5 => 4
    | _ => 2
  recTiles r * 512 * rows

/-- Elements of a row of the rows view. -/
def parkChunk (r : BitVec 512) : Nat :=
  match recStream r with
  | 4 => 1024
  | 5 => 256
  | _ => 512

/-- Rows of the rows view (R212). -/
def parkRowCount (r : BitVec 512) : Nat :=
  let c := ceilDiv (32 * recTin r) (parkChunk r)
  let f := 32 * recTout r
  c * f + (if recStream r = 4 then c * ceilDiv f 16 else 0)

/-- Bytes of the park views of one slot: the tiles view first, then the rows view (log 23). -/
def parkBytes (r : BitVec 512) : Nat :=
  (if recParkTiles r then parkTilesBytes r else 0) + (if recParkRows r then 512 * parkRowCount r else 0)

/-- DRAM bytes of a WEIGHT or EMBEDDING tensor in its primary quay. -/
def recDram (r : BitVec 512) : Nat :=
  if recRegion r then 0
  else recSlots r * ((if recTier r = 0 then recTiles r * tileBytes (recStream r) else 0)
    + (if recShadow r then recTiles r * tileBytes (recShadowFmt r) else 0) + parkBytes r)

/-- A group record (R274). -/
def State.groupRec (s : State) (g : Nat) : BitVec 512 := BitVec.ofNat 512 (leNat (s.cfgBytes 0x6000 (0x10 + g)))

def grpRule (g : BitVec 512) : Nat := recByte g 0
def grpBf16 (g : BitVec 512) : Bool := decide (recByte g 1 = 1)
def grpLazy (g : BitVec 512) : Bool := (recByte g 3).testBit 0
def grpBin (g : BitVec 512) : Nat := recAt g 28 2
def grpBout (g : BitVec 512) : Nat := recAt g 30 2

/-- The rule in force for a tensor: 0 where it is frozen or unassigned. -/
def State.ruleOf (s : State) (tid : Nat) : Nat :=
  match s.recOf tid with
  | none => 0
  | some r =>
    let o := tget {} s.opt.tensors tid
    if recFrozen r || recRegion r || !o.assigned then 0 else grpRule (s.groupRec o.group)

/-- A trained tensor. -/
def State.trained (s : State) (tid : Nat) : Bool := decide (0 < s.ruleOf tid)

/-- Bytes of optimizer state of a tensor under a group (R248). -/
def stateBytes (r g : BitVec 512) : Nat :=
  let n := 1024 * recTiles r
  if grpRule g = 0 then 0
  else n * (4 + 4 + (if grpBf16 g then 4 else 8)) + 8
    + (if recKind r = 1 ∧ grpLazy g then 32 * (32 * recTout r) + 4 * recTout r else 0)
    + (if grpRule g = 2 ∧ 0 < grpBin g ∧ 0 < grpBout g then
        (32 * recTin r / grpBin g) * (32 * recTout r / grpBout g) * 8 * (grpBin g * grpBin g + grpBout g * grpBout g) else 0)

/-- Bytes of optimizer state of a tensor as it is assigned. -/
def State.stateOf (s : State) (tid : Nat) (r : BitVec 512) : Nat :=
  let o := tget {} s.opt.tensors tid
  if recFrozen r || recRegion r || !o.assigned then 0 else stateBytes r (s.groupRec o.group)

/-- Allocations of a tier in rising base order. The residency pool is what the tensor table has not allocated (R189), so its copies
count as taken only where another copy is placed. -/
def usedIn (allocs : List Alloc) (tier : Nat) (pool : Bool) : List (Nat × Nat) :=
  allocs.foldl (fun l a => if a.tier = tier ∧ (pool ∨ a.kind ≠ 2) then tset l a.base a.size else l) []

/-- An allocation meets one of some intervals of its tier. -/
def Alloc.meets (a : Alloc) (tier : Nat) (l : List (Nat × Nat)) : Bool :=
  a.tier == tier && l.any (fun e => decide (a.base < e.1 + e.2 ∧ e.1 < a.base + a.size))

/-- Residency copies give way to space that the tensor table allocates: a tensor with a copy in it is no longer resident. -/
def Quay.yieldPool (qu : Quay) (tier : Nat) (l : List (Nat × Nat)) : Quay :=
  let gone := (qu.allocs.filter (fun a => a.kind == 2 && a.meets tier l)).map (fun a => a.tid)
  { qu with
    allocs := qu.allocs.filter (fun a => a.kind != 2 || !decide (a.tid ∈ gone))
    resident := qu.resident.filter (fun e => !decide (e.1 ∈ gone))
    copied := qu.copied.filter (fun e => !decide (e.1 ∈ gone)) }

/-- Free gaps of [from, cap) among used intervals, lowest first. -/
def gapsFrom (cap : Nat) : Nat → List (Nat × Nat) → List (Nat × Nat)
  | lo, [] => if lo < cap then [(lo, cap - lo)] else []
  | lo, (b, n) :: l => (if lo < b then [(lo, b - lo)] else []) ++ gapsFrom cap (max lo (b + n)) l

/-- Takes a size from the highest free offsets downward; none where space is short (R193). -/
def takeDown : List (Nat × Nat) → Nat → Option (List (Nat × Nat))
  | _, 0 => some []
  | [], _ => none
  | (b, n) :: l, need =>
    if need ≤ n then some [(b + n - need, need)]
    else (takeDown l (need - n)).map (fun r => (b, n) :: r)

/-- Allocates space of a kind in a quay's tier. -/
def placeIn (s : State) (q tier kind tid size : Nat) : Option State :=
  let qu := s.quay q
  match takeDown (gapsFrom (tierCap s q tier) 0 (usedIn qu.allocs tier (decide (kind = 2)))).reverse size with
  | none => none
  | some l =>
    let qu1 := if kind = 2 then qu else qu.yieldPool tier l
    some (s.setQuay q { qu1 with allocs := qu1.allocs ++ l.map (fun e =>
      { tier := tier, kind := kind, tid := tid, base := e.1, size := e.2 }) })

/-- Allocates several sizes, all or none. -/
def placeAll (s : State) (tid : Nat) : List (Nat × Nat × Nat) → Option State
  | [] => some s
  | (q, tier, size) :: l =>
    match placeIn s q tier 0 tid size with
    | some t => placeAll t tid l
    | none => none

/-- Frees every allocation of a tensor. -/
def freeAll (s : State) (tid : Nat) : State :=
  { s with quays := s.quays.map (fun e => (e.1, { e.2 with allocs := e.2.allocs.filter (fun a => a.tid != tid || a.kind == 3) })) }

/-- Nothing that the quays keep of a tensor's old content outlives it: damage marks, residency, copies, scans, measured latencies, the
mirror's state. -/
def State.forgetTensor (s : State) (tid : Nat) : State :=
  { s with
    quays := s.quays.map (fun e => (e.1, { e.2 with
      damaged := e.2.damaged.filter (fun d => d.1 != tid)
      resident := e.2.resident.filter (fun d => d.1 != tid)
      copying := e.2.copying.filter (fun d => d.1 != tid)
      copied := e.2.copied.filter (fun d => d.1 != tid)
      leaving := e.2.leaving.filter (· != tid)
      gathered := e.2.gathered.filter (fun d => d.1 != tid)
      scanned := e.2.scanned.filter (fun d => d.1 != tid)
      leads := e.2.leads.filter (fun d => d.1 / 2 != tid) }))
    opt := { s.opt with tensors := tdel s.opt.tensors (tid + 2 ^ 24) } }

/-- What a tensor needs: quay, tier and bytes (R193, R195, R248). -/
def needsOf (r : BitVec 512) (state : Nat) : List (Nat × Nat × Nat) :=
  let stream := recTiles r * tileBytes (recStream r)
  [(recPrimary r, 0, recDram r + state)]
    ++ (if recTier r = 1 then [(recPrimary r, 1, recSlots r * stream)] else [])
    ++ (if recMirror r then [(recReplica r, 0, recDram r + state)] else [])
    ++ (if recCheckpoint r then [(recPrimary r, 1, 2 * (stream + state)), (recReplica r, 1, 2 * (stream + state))] else [])

/-- Whether a region's interval is free and within its tier. -/
def regionFits (s : State) (q : Nat) (r : BitVec 512) : Bool :=
  decide (recBase r + recSize r ≤ tierCap s q (recTier r))
    && (usedIn (s.quay q).allocs (recTier r) false).all (fun e => decide (e.1 + e.2 ≤ recBase r ∨ recBase r + recSize r ≤ e.1))

/-- Where the content of a quay's tier lies among the module's quay addresses: class 1 offsets first, those of class 2 above them. -/
def tierBase (q tier : Nat) : Nat := tier * 2 ^ 47 + q * 2 ^ 45

/-- Allocates a record's space; none where space is short. A new region's rows are undefined without poison (R191). -/
def allocate (s : State) (r : BitVec 512) (state : Nat) : Option State :=
  if recRegion r then
    let q := recPrimary r
    if regionFits s q r then
      let qu := s.quay q
      let qu1 := qu.yieldPool (recTier r) [(recBase r, recSize r)]
      let s1 := s.setQuay q { qu1 with allocs := qu1.allocs ++ [{ tier := recTier r, kind := 1, tid := recId r, base := recBase r, size := recSize r }] }
      some { s1 with quayMarks := clearWords s.quayMarks (tierBase q (recTier r) + recBase r) (recSize r) }
    else none
  else placeAll s (recId r) (needsOf r state)

/-! ### Who uses a tensor -/

/-- A partition whose loaded image's tensor references name a tensor. -/
def namesTensor (s : State) (p tid : Nat) : Bool :=
  match (s.part p).image with
  | some img => img.tensors.any (fun e => e.1 == tid)
  | none => false

/-- Some partition that is not STOPPED names the tensor. -/
def tensorBusy (s : State) (tid : Nat) : Bool := (partsWhere (fun p => s.busyPart p && namesTensor s p tid)) != []

def planTensor (r : BitVec 512) : Nat := recAt r 4 4

/-- A partition whose fetch plan names a tensor may fetch its slots. -/
def fetches (s : State) (p tid : Nat) : Bool :=
  match (s.part p).image with
  | some img => img.plan.any (fun r => planTensor r == tid)
  | none => false

/-- A partition that feeds a tensor: its egress plan names it. -/
def feeds (s : State) (p tid : Nat) : Bool :=
  match (s.part p).image with
  | some img => img.egress.any (fun r => recAt r 4 4 == tid) || (img.update.isSome && namesTensor s p tid)
  | none => false

/-- Some partition that feeds the tensor is not STOPPED. -/
def feedBusy (s : State) (tid : Nat) : Bool := (partsWhere (fun p => s.busyPart p && feeds s p tid)) != []

/-! ### Table commands (R193) -/

/-- What a replacement must leave unchanged to keep the loaded versions and state. -/
def sameShape (a b : BitVec 512) : Bool :=
  recKind a == recKind b && recStream a == recStream b && recShadowFmt a == recShadowFmt b && recByte a 8 == recByte b 8
    && recTin a == recTin b && recTout a == recTout b && recWindow a == recWindow b && recByte a 5 == recByte b 5

/-- A park handle in use by another tensor of the primary quay. -/
def handleUsed (s : State) (r : BitVec 512) : Bool :=
  (recParkTiles r || recParkRows r) && s.tensors.any (fun e =>
    e.1 != recId r && recPrimary e.2.record == recPrimary r && (recParkTiles e.2.record || recParkRows e.2.record)
      && recHandle e.2.record == recHandle r)

/-- The record at `0x5100.02`: checks in the order of its table, then space. -/
def doTensorCreate (r : BitVec 512) (s : State) : State × Nat :=
  if !recInRange r then (s, stRange)
  else if handleUsed s r then (s, stState)
  else if tensorBusy s (recId r) then (s, stBusy)
  else
    let tid := recId r
    match tfind s.tensors tid with
    | some old =>
      if sameShape old.record r && !recRegion r then
        (s.setTensor tid { old with record := r }, stOk)
      else
        let freed := (freeAll s tid).forgetTensor tid
        let o := tget {} s.opt.tensors tid
        let st := if recFrozen r || recRegion r || !o.assigned then 0 else stateBytes r (s.groupRec o.group)
        match allocate freed r st with
        | none => (s, stCapacity)
        | some t =>
          let keep : OptState := { group := o.group, assigned := o.assigned && !recRegion r }
          ({ t.setTensor tid { record := r } with
              opt := { t.opt with tensors := tput {} t.opt.tensors tid keep } }, stOk)
    | none =>
      match allocate s r 0 with
      | none => (s, stCapacity)
      | some t => (t.setTensor tid { record := r }, stOk)

/-- TENSOR_CREATE. -/
def execTensorCreate (cl : Client) (rec : BitVec 512) (s : State) : Out := .next (s.command cl false (doTensorCreate rec))

/-- The deletion at `0x5100.03`. -/
def doTensorDelete (id : Nat) (s : State) : State × Nat :=
  if (s.recOf id).isNone then (s, stIndex)
  else if tensorBusy s id then (s, stBusy)
  else
    let t := (freeAll s id).forgetTensor id
    ({ t with tensors := tdel t.tensors id, opt := { t.opt with tensors := tdel t.opt.tensors id } }, stOk)

/-- TENSOR_DELETE. -/
def execTensorDelete (cl : Client) (id : Nat) (s : State) : Out := .next (s.command cl false (doTensorDelete id))

/-- Replaces n bytes of a record. -/
def recPut (r : BitVec 512) (lo n v : Nat) : BitVec 512 :=
  BitVec.ofNat 512 (r.toNat + (v % 256 ^ n) * 256 ^ lo - recAt r lo n * 256 ^ lo)

/-- The pin edit at `0x5100.05`: a partition with marks that uses the tensor keeps the old pins in force until its next
step (R20). -/
def doPinEdit (id lead residency : Nat) (s : State) : State × Nat :=
  match tfind s.tensors id with
  | none => (s, if 4095 < lead ∨ 2 < residency then stRange else stIndex)
  | some t =>
    if 4095 < lead ∨ 2 < residency ∨ (recTier t.record = 0 ∧ residency ≠ 0) then (s, stRange)
    else
      let s1 := (partsWhere (fun p => (s.part p).marks && namesTensor s p id)).foldl (fun (u : State) p =>
        let ct := u.ctlOf p
        if ct.tensorPins.any (fun e => e.1 == id) then u
        else u.setCtl p { ct with tensorPins := ct.tensorPins ++ [(id, recLead t.record, recResidency t.record)] }) s
      (s1.setTensor id { t with record := recPut (recPut t.record 20 2 lead) 22 1 residency }, stOk)

/-- PIN_EDIT. -/
def execPinEdit (cl : Client) (id lead residency : Nat) (s : State) : Out :=
  .next (s.command cl false (doPinEdit id lead residency))

/-! ### Versions (R17, R195) -/

/-- The newest committed version. -/
def Tensor.newest (t : Tensor) : Option Version :=
  (t.versions.filter (fun v => v.committed)).foldl (fun m v =>
    match m with
    | none => some v
    | some w => if w.number < v.number then some v else some w) none

/-- A slot for version v is there, free, or that of an oldest version that no entry names (R195). -/
def slotReady (s : State) (tid v : Nat) : Bool :=
  let t := s.tensor tid
  (t.slot v).isSome || decide (t.versions.length < recSlots t.record) || !versionNamed s tid t.oldest

/-- A slot for version v: a free one, or that of the oldest version, which retires. While an entry names that one, publication into
its slot waits (R195). -/
def State.openSlot (s : State) (tid v : Nat) : State :=
  let t := s.tensor tid
  if (t.slot v).isSome || !slotReady s tid v then s
  else
    let s1 := if t.versions.length < recSlots t.record then s else s.retireVersion tid t.oldest
    s1.setTensor tid ((s1.tensor tid).putSlot { number := v, committed := false, complete := false, bytes := [] })

/-- Version v counts as committed: every version older than v less the window retires, once no entry names it. -/
def State.commitVersion (s : State) (tid v : Nat) : State :=
  let t := s.tensor tid
  match t.slot v with
  | none => s
  | some x =>
    let old := (t.versions.filter (fun y => decide (y.number + recWindow t.record < v))).map (·.number)
    let s1 := s.setTensor tid { t.putSlot { x with committed := true, complete := true } with retiring := (t.retiring ++ old).eraseDups }
    s1.retireUnnamed tid

/-- A version that has retired: it is not held and a later one is (R204 GONE). -/
def Tensor.retired (t : Tensor) (v : Nat) : Bool :=
  (t.slot v).isNone && t.versions.any (fun x => decide (v < x.number))

/-- A tile's bytes in a version, undefined bytes free. -/
def versionTile (fc : Nat) (r : BitVec 512) (v : Version) (tile : Nat) : List Byte :=
  readBytes fc v.bytes (tile * tileBytes (recStream r)) (tileBytes (recStream r))

/-- Elements of a tile widened to FP32 in element order; the scale of column n is byte n after the elements (R81). -/
def tileElems (code : Nat) (bs : List Byte) : List F32 :=
  (List.range 1024).map (fun i =>
    let n := if codeMx code then 32 * codeBytes code else 0
    widen code (elemPat (fun a => bs.getD a 0) code i) (if codeMx code then (bs.getD (n + i % 32) 0).toNat else 0))

/-- Packs 1,024 values of a tile in a format: block n is elements (0-31, n) (R81, R85-R87). `draw` gives the draw of an
element for stochastic rounding. -/
def packTile (code : Nat) (draw : Nat → Option Nat) (vs : List F32) : List Byte :=
  let v := fun i => ofF32 (vs.getD i 0)
  if codeMx code then
    let blocks := (List.range 32).map (fun n =>
      convertBlock code ((List.range 32).map (fun r => draw (32 * r + n))) ((List.range 32).map (fun r => v (32 * r + n))))
    packElems code ((List.range 1024).map (fun i => (blocks.getD (i % 32) ([], 0)).1.getD (i / 32) 0))
      ++ blocks.map (fun b => BitVec.ofNat 8 b.2)
  else packElems code ((List.range 1024).flatMap (fun i => (convertBlock code [draw i] [v i]).1))

/-- The shadow tile of a stream tile (R268): widened exactly, converted with nearest-even. -/
def shadowTile (r : BitVec 512) (bs : List Byte) : List Byte :=
  packTile (recShadowFmt r) (fun _ => none) (tileElems (recStream r) bs)

/-! ### Content writes (R194) -/

/-- The master weights of a trained tensor take the first loaded version's content (R248). -/
def State.seedMaster (s : State) (tid : Nat) (r : BitVec 512) (v : Version) : State :=
  let o := tget {} s.opt.tensors tid
  if !s.trained tid || !o.w.isEmpty || o.u ≠ 0 then s
  else
    let w := (List.range (recTiles r)).flatMap (fun t =>
      (tileElems (recStream r) (versionTile s.freeCtr r v t)).zipIdx.filterMap (fun e =>
        if e.1 = 0 then none else some (1024 * t + e.2, e.1)))
    let ts := tset s.opt.tensors tid { o with w := w }
    { s with opt := { s.opt with tensors := if recMirror r then tset ts (tid + 2 ^ 24) { tget {} ts (tid + 2 ^ 24) with w := w } else ts } }

/-- The content write at `0x5100.06`. -/
def doContentWrite (id version offset : Nat) (final : Bool) (data : List Byte) (s : State) : State × Nat :=
  match tfind s.tensors id with
  | none => (s, stIndex)
  | some t =>
    let r := t.record
    if recRegion r then
      if recSize r < offset + data.length then (s, stRange)
      else
        let base := recPrimary r * 2 ^ 45 + recBase r + offset
        let marks := clearWords s.quayMarks (tierBase (recPrimary r) (recTier r) + recBase r + offset) data.length
        (if recTier r = 0 then { s with dram := writeBytes s.dram base data, quayMarks := marks }
         else { s with flash := writeBytes s.flash base data, quayMarks := marks }, stOk)
    else if recTiles r * tileBytes (recStream r) < offset + data.length then (s, stRange)
    else if recFrozen r ∧ version ≠ recBase r then (s, stRange)
    else if (partsWhere (fun p => s.busyPart p && fetches s p id)) ≠ [] then (s, stBusy)
    else
      let s1 := s.openSlot id version
      let t1 := s1.tensor id
      match t1.slot version with
      | none => (s, stState)
      | some v =>
        let v1 := { v with bytes := writeBytes v.bytes offset data }
        let s2 := s1.setTensor id (t1.putSlot v1)
        if final then ((s2.commitVersion id version).seedMaster id r v1, stOk) else (s2, stOk)

/-- CONTENT_WRITE. -/
def execContentWrite (cl : Client) (id version offset : Nat) (final : Bool) (data : List Byte) (s : State) : Out :=
  .next (s.command cl false (doContentWrite id version offset final data))

/-! ### Checkpoints (R194, R271) -/

/-- The optimizer state of a key as at the end of the pass two that gave a version: the state that the first pass two since has replaced,
else the present one (R271). -/
def stateAt (s : State) (key version : Nat) : OptState :=
  match s.opt.runs.findSome? (fun e => (e.2.prior.find? (fun x => decide (version ≤ x.1))).bind (fun x => tfind x.2 key)) with
  | some o => o
  | none => tget {} s.opt.tensors key

/-- Begins the checkpoint copies of a tensor, in the primary and in the replica quay, under a ticket. -/
def State.beginCheckpoint (s : State) (n tid : Nat) : State :=
  let t := s.tensor tid
  match t.newest with
  | none => s
  | some v => s.setTensor tid { t with
      checkpointing := some (n, { version := v, state := stateAt s tid v.number }, { version := v, state := stateAt s (tid + 2 ^ 24) v.number }) }

/-- A checkpoint copy of a tensor of a version, in the primary or in the replica quay (R207, R313). -/
def Tensor.copyOf (t : Tensor) (version : Nat) : Option Checkpoint :=
  let fits := fun (c : Option Checkpoint) => c.filter (fun k => k.version.number == version)
  (fits t.checkpoint).or (fits t.replica)

/-- The checkpoint command at `0x5100.07`: deferred, its ticket ends when every copy has; a tensor with no committed version
cannot be copied. One named by its ID is copied whether or not it is flagged CHECKPOINT (DESIGN CHOICE, log 74). -/
def doCheckpoint (id : Nat) (s : State) : State × Nat :=
  let ids := if id = 0 then (s.tensors.filter (fun e => recCheckpoint e.2.record)).map (fun e => e.1) else [id]
  if id ≠ 0 ∧ (s.recOf id).isNone then (s, stIndex)
  else if s.heldByTicket 0x5100 7 then (s, stBusy)
  else
    let n := s.sivar.nextTicket
    let s1 := (s.openTicket 0x5100 7).journal jCheckpoint id s.now
    let s2 := ids.foldl (fun t i => t.beginCheckpoint n i) s1
    (if ids.isEmpty then s2.endTicket n stOk
     else if ids.any (fun i => (s.tensor i).newest.isNone) then s2.endTicket n stTimeout else s2, stOk)

/-- CHECKPOINT. -/
def execCheckpoint (cl : Client) (id : Nat) (s : State) : Out := .next (s.command cl false (doCheckpoint id))

/-- CHECKPOINT_COMPLETE: a complete copy in both quays replaces the previous one; the ticket ends with the last copy, with
E_TIMEOUT where one could not be completed. -/
def execCheckpointComplete (id : Nat) (ok : Bool) (s : State) : Out :=
  .next (
    let t := s.tensor id
    match t.checkpointing with
    | none => s
    | some (n, ck, rep) =>
      let t1 := if ok then { t with checkpointing := none, checkpoint := some ck, replica := some rep }
        else { t with checkpointing := none }
      let s1 := s.setTensor id t1
      let more := s1.tensors.any (fun e => match e.2.checkpointing with | some c => c.1 == n | none => false)
      if !ok then s1.endTicket n stTimeout
      else if more then s1 else (s1.endTicket n stOk).journalDone jCheckpoint id)

/-! ### Region rows and park views (R190, R191, R212) -/

/-- The source partition of a row: that of its core, for a core of this module. -/
def sourcePart (s : State) (srcModule srcCore : Nat) : Option Nat :=
  if srcModule = s.moduleNumber then s.partOfCore srcCore else none

/-- A region record of a quay's tier that holds a whole row and grants its source; a misaligned row and one beyond the tier's
capacity are in none (R12, R190). -/
def regionGrants (s : State) (q tier srcModule srcCore offset : Nat) : Bool :=
  s.tensors.any (fun e =>
    let r := e.2.record
    recRegion r && recPrimary r == q && recTier r == tier
      && decide (offset % 512 = 0 ∧ offset + 512 ≤ tierCap s q tier)
      && decide (recBase r ≤ offset ∧ offset + 512 ≤ recBase r + recSize r)
      && (match sourcePart s srcModule srcCore with
          | some p => (recGrant r).testBit p
          | none => decide (srcModule ≠ s.moduleNumber) && recRemote r))

/-- The tensor of a park handle in a quay. -/
def parkTensor (s : State) (q handle : Nat) : Option (BitVec 512) :=
  (s.tensors.find? (fun e => let r := e.2.record
    !recRegion r && recPrimary r == q && (recParkTiles r || recParkRows r) && recHandle r == handle)).map (fun e => e.2.record)

/-- The version that a partition names in its present step with a lag (R201). -/
def versionNow (s : State) (p : Nat) (r : BitVec 512) (step lag : Nat) : Nat :=
  let pt := s.part p
  if recFrozen r then recBase r else max (pt.n0 + step - lag) pt.nb

/-- An element of a tensor in a version: feature in, feature out, as its pattern and scale. -/
def elemAt (fc : Nat) (r : BitVec 512) (v : Version) (i o : Nat) : Nat × Nat :=
  let code := recStream r
  let bs := versionTile fc r v (o / 32 * recTin r + i / 32)
  (elemPat (fun a => bs.getD a 0) code (32 * (i % 32) + o % 32),
   if codeMx code then (bs.getD (32 * codeBytes code + o % 32) 0).toNat else 0)

/-- A row of the tiles view: tile t at t * 512 * r in the tile layout of R56: elements, then scales. -/
def parkTileRow (fc : Nat) (r : BitVec 512) (v : Version) (row : Nat) : List Byte :=
  let per := tileRows (recStream r)
  let bs := versionTile fc r v (row / per)
  fitBytes 512 (bs.drop (row % per * 512))

/-- A row of the rows view (R212): weights joining a chunk to an output, or the scales of sixteen such rows. -/
def parkRowsRow (fc : Nat) (r : BitVec 512) (v : Version) (row : Nat) : List Byte :=
  let code := recStream r
  let cl := parkChunk r
  let C := ceilDiv (32 * recTin r) cl
  let F := 32 * recTout r
  let elem := fun c f k => if c * cl + k < 32 * recTin r then (elemAt fc r v (c * cl + k) f).1 else 0
  if row < C * F then packElems code ((List.range cl).map (fun k => elem (row / F) (row % F) k))
  else
    let c := (row - C * F) / ceilDiv F 16
    let g := (row - C * F) % ceilDiv F 16
    (List.range 16).flatMap (fun a => (List.range 32).map (fun b =>
      let i := c * cl + 32 * b
      BitVec.ofNat 8 (if i < 32 * recTin r ∧ 16 * g + a < F then (elemAt fc r v i (16 * g + a)).2 else 0)))

/-- Uncorrectable words of a row of a quay's region space, park views or flash regions (R191). -/
def quayRowBad (s : State) (base : Nat) : List Nat :=
  (List.range 64).filter (fun w => (tget none s.quayMarks (base / 8 + w)) == some .uncorrectable)

/-- The row a permitted read returns, or none where the quay rejects it. A park view of a version that the quay does not hold gives free
bytes, and that of one not yet committed what is stored of it (DESIGN CHOICE, log 74). -/
def quayRow (s : State) (q srcModule srcCore offset : Nat) (flash : Bool) : Option Row :=
  if !flash && decide (2 ^ 44 ≤ offset) then
    let handle := offset / 2 ^ 36 % 256
    let off := offset % 2 ^ 36
    match parkTensor s q handle with
    | none => none
    | some r =>
      match sourcePart s srcModule srcCore with
      | none => none
      | some p =>
        if parkBytes r < off + 512 ∨ off % 512 ≠ 0 then none
        else
          let t := s.tensor (recId r)
          let v := (t.slot (versionNow s p r (s.part p).stepIndex 0)).getD { number := 0, committed := false, complete := false, bytes := [] }
          let tiles := if recParkTiles r then parkTilesBytes r else 0
          some { bytes := if off < tiles then parkTileRow s.freeCtr r v (off / 512) else parkRowsRow s.freeCtr r v ((off - tiles) / 512)
                 poison := quayRowBad s (q * 2 ^ 45 + offset) }
  else
    let tier := if flash then 1 else 0
    if regionGrants s q tier srcModule srcCore offset then
      let base := q * 2 ^ 45 + offset
      some { bytes := readBytes s.freeCtr (if flash then s.flash else s.dram) base 512
             poison := quayRowBad s (tierBase q tier + offset) }
    else none

/-- A quay's port that may carry a partition's packets: in its tile columns, with a weight, and up: one that has gone DOWN is used no
more, whatever its weight until the next mark (R214). -/
def portCarries (s : State) (q p i : Nat) : Bool :=
  let v := s.port (60 * q + i)
  decide (i < 60) && s.bandHas p (4 * (q % 2) + i / 15) && decide (0 < tget 0 (s.quay q).weights i)
    && decide (1 ≤ v.outcome ∧ v.outcome ≤ 3)

/-- A quay has a usable port in the tile columns of a partition (R214). -/
def portUsable (s : State) (q p : Nat) : Bool := (List.range 60).any (fun i => portCarries s q p i)

/-- A row of a source core can reach a quay and its response come back: its partition has a usable port there; without one the row waits,
bounded by its completion tag alone (R15, R145, R191). A row of another module comes by the fabric. -/
def rowReaches (s : State) (q srcModule srcCore : Nat) : Bool :=
  match sourcePart s srcModule srcCore with
  | some p => portUsable s q p
  | none => true

/-- Counts a rejected row (R190, R215). -/
def State.quayReject (s : State) (q offset : Nat) (flash : Bool) : State :=
  let qu := s.quay q
  let beyond := !flash && decide (offset < 2 ^ 44 ∧ dramCap s q ≤ offset)
  { s.setQuay q { qu with rejects := satAdd 32 qu.rejects 1, rangeRejects := qu.rangeRejects + (if beyond then 1 else 0) } with
    link := none }

/-- The answer to a row of another module goes back over the quay fabric as it came: a read response with its row, a write response or a
reject. No operand gives the channel and the tag of the row, free values (R293; log 21). -/
def State.answerRow (s : State) (q srcModule srcCore offset type : Nat) (data : Option Row) : State :=
  if srcModule = s.moduleNumber then s
  else
    let h := netHeader type 3 (coreX srcCore) (coreY srcCore) 0 0 (Config.freeNat s.freeCtr 2097152) 0 (Config.freeNat s.freeCtr 2097153)
    (s.sendPacket q (rowHead srcModule q offset data)
      (netBytes { header := h, address := some (BitVec.ofNat 64 (srcModule % 16384 * 2 ^ 50 + srcCore % 32768 * 2 ^ 32)), data := data })).bump

/-- QUAY_ROW_WRITE. -/
def execQuayRowWrite (q srcModule srcCore offset : Nat) (flash : Bool) (data : Row) (s : State) : Out :=
  onQuay q (
    if !rowReaches s q srcModule srcCore then s
    else if !flash && decide (offset < 2 ^ 44) && regionGrants s q 0 srcModule srcCore offset then
      let base := q * 2 ^ 45 + offset
      State.answerRow { s with
        dram := writeBytes s.dram base (fitBytes 512 data.bytes)
        quayMarks := (List.range 64).foldl (fun m w => putMark m (base / 8 + w) (decide (w ∈ data.poison))) s.quayMarks }
        q srcModule srcCore offset 3 none
    else (s.quayReject q offset flash).answerRow q srcModule srcCore offset 4 none)

/-- QUAY_ROW_READ: the row goes to the source, or a reject does. -/
def execQuayRowRead (q srcModule srcCore offset : Nat) (flash : Bool) (s : State) : Out :=
  onQuay q (
    if !rowReaches s q srcModule srcCore then s
    else match quayRow s q srcModule srcCore offset flash with
    | some row => ({ s with link := some row }.bump).answerRow q srcModule srcCore offset 2 (some row)
    | none => (s.quayReject q offset flash).answerRow q srcModule srcCore offset 4 none)

end Sys2Proof.Machine
end

