-- ==== Sys2Proof/Machine/Fetch.lean ====
section
/-! DEFINITION. The fetch plan, fetch entries and their outcomes, tile packets, gathers, unreadable data, the lead governor's
copies and the flash scan (R196-R214, R333). -/

namespace Sys2Proof.Machine

/-! ### Plan records (R199, R211) -/

def planType (r : BitVec 512) : Nat := recByte r 0
def planGather (r : BitVec 512) : Bool := decide (planType r = 1)
def planTag (r : BitVec 512) : Nat := recByte r 1
def planLag (r : BitVec 512) : Nat := recByte r 2
def planEntry (r : BitVec 512) : Nat := recAt r 8 2
def planInner (r : BitVec 512) : Nat := recAt r 10 2
def planOffset (r : BitVec 512) : Int := signedOf 32 (recAt r 12 4)
def planPace (r : BitVec 512) : Nat := recAt r 16 2
def planLead (r : BitVec 512) : Nat := recAt r 18 2
def planFirst (r : BitVec 512) : Nat := recAt r 20 4
def planCount (r : BitVec 512) : Nat := recAt r 24 4
def planColStride (r : BitVec 512) : Nat := recAt r 28 4
def planGroupStride (r : BitVec 512) : Nat := recAt r 32 4
def planGroup (r : BitVec 512) : Nat := if recAt r 36 2 = 0 then planCount r else recAt r 36 2
def planFirstCol (r : BitVec 512) : Nat := recByte r 38
def planCols (r : BitVec 512) : Nat := recByte r 39 + 1
def gatherIndex (r : BitVec 512) : Nat := recAt r 20 8
def gatherOutput (r : BitVec 512) : Nat := recAt r 28 8
def gatherT (r : BitVec 512) : Nat := recAt r 36 2
def gatherB (r : BitVec 512) : Nat := recAt r 38 2

/-- Tile of column j, position k (R200). -/
def planTile (r : BitVec 512) (j k : Nat) : Nat :=
  planFirst r + j * planColStride r + k / planGroup r * planGroupStride r + k % planGroup r

/-- The image's plan of a partition. -/
def planOf (s : State) (p : Nat) : List (BitVec 512) :=
  match (s.part p).image with
  | some img => img.plan
  | none => []

/-- Size of one block of a gather's output (R211). -/
def gatherBlock (r : BitVec 512) (tin code : Nat) : Nat := ceilDiv (tin * sliceBytes code (gatherT r)) 512 * 512

/-- The logical column x of a partition's band-local column. -/
def bandX (s : State) (p col : Nat) : Nat := 24 * s.firstCol p + col

/-! ### Leads and decision leads (R204, R213) -/

/-- The key of a tensor at a tier. -/
def leadKey (tid tier : Nat) : Nat := 2 * tid + tier

/-- The 99.9th percentile of a list of latencies, by nearest rank (log 24); none where nothing is measured. -/
def percentile (l : List Nat) : Option Nat :=
  if l.isEmpty then none
  else
    let sorted := l.foldl (fun acc x => (acc.takeWhile (fun y => decide (y ≤ x))) ++ x :: acc.dropWhile (fun y => decide (y ≤ x))) []
    sorted[ceilDiv (999 * l.length) 1000 - 1]?

/-- The substitute term of the decision lead, in ticks. -/
def substituteTerm (qu : Quay) (tid tier : Nat) : Nat :=
  match percentile (tget {} qu.leads (leadKey tid tier)).latencies with
  | some p => ceilDiv (5 * p) (4 * 1500)
  | none => if tier = 0 then 3 else 400

/-- The decision lead Ld of a tensor, in ticks (R204). -/
def decisionLead (qu : Quay) (r : BitVec 512) : Nat :=
  match recPath r with
  | 0 => 1 + substituteTerm qu (recId r) 0
  | 2 => 1 + substituteTerm qu (recId r) 1
  | _ => 1

/-- The pins of a tensor in force for a partition, which keeps the old ones until its next step (R20). -/
def tensorPins (s : State) (p tid : Nat) (r : BitVec 512) : Nat × Nat :=
  match (s.ctlOf p).tensorPins.find? (fun e => e.1 == tid) with
  | some e => (e.2.1, e.2.2)
  | none => (recLead r, recResidency r)

/-- The tier that serves a tensor to a partition: flash, unless it is resident in DRAM and the pin in force lets it be (R213). -/
def servingTier (s : State) (q p : Nat) (r : BitVec 512) : Nat :=
  if recTier r = 0 then 0
  else if (tensorPins s p (recId r) r).2 ≠ 2 ∧ (s.quay q).resident.any (fun e => e.1 == recId r && e.2.1 == 0) then 0 else 1

/-- The tier that serves one tile: that of the tensor, or DRAM where its output tile is resident (part o + 1). -/
def servingTierAt (s : State) (q p : Nat) (r : BitVec 512) (tile : Nat) : Nat :=
  if (tensorPins s p (recId r) r).2 ≠ 2 ∧ (s.quay q).resident.any (fun e => e.1 == recId r && e.2.1 == tile / recTin r + 1) then 0
  else servingTier s q p r

/-- The key of a quay's copy of a plan record. -/
def recordKey (p rec : Nat) : Nat := p * 65536 + rec

/-- The issue lead of a plan record in ticks: the pin, else the governor's, else the image's. -/
def leadInForce (s : State) (q p number : Nat) (rec r : BitVec 512) : Nat :=
  let pin := (tensorPins s p (recId r) r).1
  let gov := (tget {} (s.quay q).recordLeads (recordKey p number)).lead
  if pin ≠ 0 then pin else if gov ≠ 0 then gov else planLead rec

/-- The slip of a partition as the quays know it: 0 in STRICT mode. -/
def slipOf (s : State) (p : Nat) : Int := if (s.part p).elastic then (s.part p).slip else 0

/-- The time of an integer cycle count, not below 0. -/
def clampTime (v : Int) : Nat := v.toNat

/-- The decision point of an entry (R204). -/
def decisionTime (s : State) (q : Nat) (e : FetchEntry) : Nat :=
  let ds := e.waiters.map (fun w => clampTime ((w.deadline : Int) + slipOf s w.part))
  let first := match ds with
    | [] => s.now
    | d :: l => l.foldl min d
  match s.recOf e.tid with
  | none => first
  | some r => first - decisionLead (s.quay q) r * cyPerTick

/-! ### Packets (R196-R198) -/

/-- The header of a tile packet, with its CRC. -/
def tileHeader (tid tile version code flags tag : Nat) (deadline seq entry outer : Nat) : BitVec 256 :=
  let w := tid % 2 ^ 24 * 2 ^ 232 + tile % 2 ^ 32 * 2 ^ 200 + version % 2 ^ 16 * 2 ^ 184 + code % 16 * 2 ^ 180
    + flags % 256 * 2 ^ 172 + tag % 64 * 2 ^ 166 + (timeWord deadline).toNat * 2 ^ 96 + seq % 2 ^ 16 * 2 ^ 80
    + entry % 4096 * 2 ^ 68 + outer % 4096 * 2 ^ 56
  let h := BitVec.ofNat 256 w
  BitVec.ofNat 256 (w + crc32c (headerCrcBytes h))

def flagSkip : Nat := 128
def flagShadow : Nat := 64
def flagCheckpoint : Nat := 32
def flagRebuilt : Nat := 16
def flagFault : Nat := 8

/-- Splits a tile's bytes into elements and scales, and makes the packet. -/
def packetOf (h : BitVec 256) (code : Nat) (bs : List Byte) (north : Bool) : Packet :=
  let n := 32 * codeBytes code
  { header := h, elems := bs.take n, scales := bs.drop n, headerBad := false, bodyBad := false, corrected := 0, north := north }

/-- What an outcome delivers for a tile: format code, version named, flags, bytes (R205). -/
def outcomeTile (s : State) (e : FetchEntry) (r : BitVec 512) (o : Outcome) : Nat × Nat × Nat × List Byte :=
  let t := s.tensor e.tid
  let v := (t.slot e.version).getD { number := e.version, committed := false, complete := false, bytes := [] }
  match o with
  | .data => (recStream r, e.version, if e.rebuilt then flagRebuilt else 0, versionTile s.freeCtr r v e.tile)
  | .shadow => (recShadowFmt r, e.version, flagShadow, shadowTile r (versionTile s.freeCtr r v e.tile))
  | .checkpoint =>
    match t.checkpoint with
    | some c => (recStream r, c.version.number, flagCheckpoint, versionTile s.freeCtr r c.version e.tile)
    | none => (recStream r, e.version, flagSkip, [])
  | .skip => (recStream r, e.version, flagSkip, [])
  | .fault => (recStream r, e.version, flagFault, [])

/-- The outgoing packet of one waiter. Its deadline field is the waiter's deadline without the slip of R204, in ELASTIC mode too (DESIGN
CHOICE, log 74). -/
def waiterPacket (q : Nat) (e : FetchEntry) (d : Nat × Nat × Nat × List Byte) (w : Waiter) : Outgoing :=
  let h := tileHeader e.tid e.tile d.2.1 d.1 d.2.2.1 w.tag w.deadline w.seq w.markEntry w.outer
  { part := w.part, col := w.col, seq := w.seq, packet := packetOf h d.1 d.2.2.2 (decide (q < 2)) }

/-! ### Gathers (R211) -/

/-- The pattern of output feature f of input slice i in a delivered tile, in the stream format, and its scale: a shadow tile
is converted to the stream format with nearest-even. -/
def gatherSlice (code : Nat) (d : Nat × Nat × Nat × List Byte) (feature : Nat) : List Nat × Nat :=
  let bs := if d.1 = code then d.2.2.2 else packTile code (fun _ => none) (tileElems d.1 d.2.2.2)
  ((List.range 32).map (fun r => elemPat (fun a => bs.getD a 0) code (32 * r + feature)),
   if codeMx code then (bs.getD (32 * codeBytes code + feature) 0).toNat else 0)

/-- Where a slice's block of a gather's output lies. -/
def gatherBase (q : Nat) (g : GatherTag) (code tin : Nat) : Nat :=
  let T := gatherT g.record
  q * 2 ^ 45 + gatherOutput g.record + g.position / T * gatherBlock g.record tin code + g.slice * sliceBytes code T

/-- Where a token's elements of a slice lie. -/
def gatherElems (q : Nat) (g : GatherTag) (code tin : Nat) : Nat :=
  gatherBase q g code tin + g.position % gatherT g.record * codeBytes code

/-- Where a token's scale of a slice lies. -/
def gatherScale (q : Nat) (g : GatherTag) (code tin : Nat) : Nat :=
  gatherBase q g code tin + gatherT g.record * codeBytes code + g.position % gatherT g.record

/-- Writes one token's slice of a gather's output: elements at the token, scale after the slice's elements (R54). -/
def State.gatherWrite (s : State) (q : Nat) (g : GatherTag) (code tin : Nat) (pats : List Nat) (scale : Nat) : State :=
  let at' := gatherElems q g code tin
  let d1 := writeBytes s.dram at' (packElems code pats)
  { s with
    dram := if codeMx code then writeByte d1 (gatherScale q g code tin) (BitVec.ofNat 8 scale) else d1
    quayMarks :=
      let m := clearWords s.quayMarks at' (codeBytes code)
      if codeMx code then clearWords m (gatherScale q g code tin) 1 else m }

/-- Zeros of a slice: zero elements, scale 0x7F (R211). -/
def State.gatherZero (s : State) (q : Nat) (g : GatherTag) (code tin : Nat) : State :=
  s.gatherWrite q g code tin (List.replicate 32 0) 0x7F

/-- The token at a position of a gather's list. -/
def gatherToken (s : State) (q : Nat) (r : BitVec 512) (position : Nat) : Nat :=
  leNat (readBytes s.freeCtr s.dram (q * 2 ^ 45 + gatherIndex r + 4 * position) 4)

/-! ### Outcomes (R204-R208) -/

/-- Records a micro-batch of a partition as excluded in a quay (R206). The record stays when a later launch runs that step number again
(DESIGN CHOICE, log 74). -/
def State.exclude (s : State) (q p step outer : Nat) : State :=
  let qu := s.quay q
  if (p, step, outer) ∈ qu.excluded then s
  else
    let ct := s.ctlOf p
    (s.setQuay q { qu with excluded := qu.excluded ++ [(p, step, outer)] }).setCtl p
      { ct with counts := { ct.counts with excluded := addOnce ct.counts.excluded (step, outer) } }

/-- A micro-batch excluded in some quay of the module (R206). -/
def isExcluded (s : State) (p step outer : Nat) : Bool := s.quays.any (fun e => decide ((p, step, outer) ∈ e.2.excluded))

/-- A version is held, complete and committed, so that its data may be served (R17). -/
def Tensor.served (t : Tensor) (v : Nat) : Bool :=
  match t.slot v with
  | some x => x.committed
  | none => false

/-- An entry's primary data is available for service (R17, R204). -/
def dataServed (s : State) (e : FetchEntry) : Bool := (s.tensor e.tid).served e.version

/-- The cheaper path of a tensor for a version, with SKIP where its data is absent: no shadow copy of a version that is not held and
committed, no checkpoint copy (R17, R205). -/
def cheaperPath (t : Tensor) (version : Nat) : Outcome :=
  match recPath t.record with
  | 0 => if recShadow t.record && t.served version then .shadow else .skip
  | 1 => .skip
  | 2 => if t.checkpoint.isSome then .checkpoint else .skip
  | _ => .fault

/-- An outcome whose data the quay has still to read from another copy. -/
def Outcome.substitute (o : Outcome) : Bool := decide (o = .shadow) || decide (o = .checkpoint)

/-- The data of an entry whose outcome is fixed goes to every waiter: packets in their sequence places, and gathers' slices. A gather
writes zeros for a tile whose outcome is FAULT, of which R211 says nothing, as for a SKIP tile (DESIGN CHOICE, log 74). -/
def State.deliver (s : State) (q i : Nat) (o : Outcome) : State :=
  match (s.quay q).entries[i]? with
  | none => s
  | some e =>
    match s.recOf e.tid with
    | none => s
    | some r =>
      let d := outcomeTile s e r o
      let keep := e.waiters.filter (fun w => w.gather.isNone)
      let e1 := { e with ready := true, waiters := keep }
      let qu := s.quay q
      let s1 := s.setQuay q { qu with
        entries := if e1.spent then qu.entries.eraseIdx i else qu.entries.set i e1
        outgoing := qu.outgoing ++ keep.map (waiterPacket q e d) }
      ((e.waiters.filterMap (fun w => w.gather)).foldl (fun (t : State) g =>
        if d.2.2.2.isEmpty then t.gatherZero q g (recStream r) (recTin r)
        else
          let x := gatherSlice (recStream r) d (g.token % 32)
          t.gatherWrite q g (recStream r) (recTin r) x.1 x.2) s1).bump

/-- The entry of a substitute read under way for the same tensor, tile, version and format (R203). -/
def Quay.sameRead (qu : Quay) (e : FetchEntry) (o : Outcome) : Option Nat :=
  qu.entries.findIdx? (fun f => f.tid == e.tid && f.tile == e.tile && f.version == e.version && f.outcome == some o && !f.ready
    && !f.waiters.isEmpty)

/-- Fixes an entry's outcome, once, for every waiter. A substitute's read issues, or its waiters join one under way for the same
format; every other outcome is delivered at once. -/
def State.fixOutcome (s : State) (q i : Nat) (o : Outcome) (miss : Bool) : State :=
  match (s.quay q).entries[i]? with
  | none => s
  | some e =>
    let key := match o with | .data => 0 | .shadow => 4 | .skip => 5 | .checkpoint => 6 | .fault => 7
    let qu := (s.quay q).count key 1
    let qu1 := if miss then qu.count 1 1 else qu
    let e1 := { e with outcome := some o, ready := false, since := s.now, missed := if miss then (e.waiters.map (fun w => w.part)).eraseDups else [] }
    let s1 :=
      if o.substitute then
        match qu1.sameRead e o with
        | some n =>
          let es := qu1.entries.modify n (fun f => { f with waiters := f.waiters ++ e.waiters })
          let rest := { e1 with waiters := [], ready := true }
          s.setQuay q { qu1 with entries := if rest.spent then es.eraseIdx i else es.set i rest }
        | none => s.setQuay q { qu1 with entries := qu1.entries.set i e1 }
      else (s.setQuay q { qu1 with entries := qu1.entries.set i e1 }).deliver q i o
    let s2 := if o = .skip then e.waiters.foldl (fun t w => t.exclude q w.part w.step w.outer) s1 else s1
    (if o = .fault then s2.event sevFault evFetchFault e.tid e.tile else s2).settle q e.tid

/-- Records a latency of a tensor at a tier; the last 4,096 are kept (R213). -/
def Quay.measure (qu : Quay) (tid tier latency : Nat) : Quay :=
  let l := tget {} qu.leads (leadKey tid tier)
  let xs := l.latencies ++ [latency]
  { qu with leads := tput {} qu.leads (leadKey tid tier) { l with latencies := xs.drop (xs.length - 4096) } }

/-- An entry of a tensor at a tier has ended, as a MISS or not, or its data has come after a MISS: the counts of the present step of every
partition that it served (R213). -/
def Quay.tally (qu : Quay) (parts : List Nat) (tid tier : Nat) (fetches misses : Nat) (late : Bool) : Quay :=
  let l := tget {} qu.leads (leadKey tid tier)
  let counts := parts.eraseDups.foldl (fun m p =>
    let c := tget {} m p
    tput {} m p { fetches := c.fetches + fetches, misses := c.misses + misses, lateAfterP := c.lateAfterP || late }) l.counts
  { qu with leads := tput {} qu.leads (leadKey tid tier) { l with counts := counts } }

/-- The partitions that wait for an entry. -/
def FetchEntry.parts (e : FetchEntry) : List Nat := e.waiters.map (fun w => w.part)

/-- Which segments a gather's block holds: 1 plus the boundary tokens at positions 0 to T - 2 (R242). -/
def blockSegments (s : State) (q : Nat) (r : BitVec 512) (boundary b : Nat) : Nat :=
  1 + ((List.range (gatherT r - 1)).filter (fun t =>
    let v := gatherToken s q r (b * gatherT r + t)
    v == boundary && v != 0xFFFFFFFF)).length

/-- The measured segment count of a gather: the largest over its blocks; 1 without a boundary token. -/
def segmentCount (s : State) (q : Nat) (r : BitVec 512) (boundary : Nat) : Nat :=
  if boundary = 0xFFFFFFFF then 1
  else ((List.range (gatherB r)).map (blockSegments s q r boundary)).foldl max 1

/-- The base stash layout of a partition's image. -/
def baseLayout (s : State) (p : Nat) : Option StashLayout :=
  match (s.part p).image with
  | some img => img.stash.find? (fun l => l.kind == 0)
  | none => none

/-- The measuring of a gather's token list, reported with partition, step and outer index (R242). -/
def State.measureSegments (s : State) (q p rec step outer : Nat) (r : BitVec 512) : State :=
  match baseLayout s p with
  | some l =>
    if l.gatherRecord = rec ∧ !(s.quay q).segments.any (fun e => e.1 == p && e.2.1 == step && e.2.2.1 == outer) then
      s.setQuay q { s.quay q with segments := (s.quay q).segments ++ [(p, step, outer, segmentCount s q r l.boundary)] }
    else s
  | none => s

/-! ### Issue (R202, R203) -/

/-- The waiter of a fetch. -/
def fetchWaiter (s : State) (p : Nat) (rec : BitVec 512) (j k step o i seq at' token : Nat) : Waiter :=
  let pt := s.part p
  let m := instTime pt (tideEntry pt (planEntry rec)) step i o
  let pace := if planGather rec then 0 else k * planPace rec
  { part := p
    col := if planGather rec then 0 else planFirstCol rec + j
    seq := seq
    deadline := clampTime ((m : Int) + planOffset rec + (pace : Int))
    tag := planTag rec
    markEntry := planEntry rec
    outer := o
    step := pt.n0 + step
    issued := at'
    gather := if planGather rec then some { record := rec, position := j, slice := k, token := token } else none }

/-- Opens or joins an entry (R203); a tile marked damaged takes its recorded outcome and a retired version is GONE, both at
once (R204, R208). -/
def State.joinEntry (s : State) (q tid tile version : Nat) (w : Waiter) : State :=
  let qu := s.quay q
  match qu.entries.findIdx? (fun e => e.tid == tid && e.tile == tile && e.version == version && e.outcome.isNone && !e.waiters.isEmpty) with
  | some i => s.setQuay q { qu with entries := qu.entries.modify i (fun e => { e with waiters := e.waiters ++ [w] }) }
  | none =>
    let n := qu.inUse
    let full := decide (65536 ≤ n) || qu.entries.any (fun e => e.waiting)
    let e : FetchEntry := { tid := tid, tile := tile, version := version, waiters := [w], outcome := none
                            ready := false, since := s.now, missed := [], rebuilt := false, recovery := 0, unreadable := false
                            waiting := full }
    let s1 := s.setQuay q { qu with
      entries := qu.entries ++ [e]
      highWater := max qu.highWater (min 65536 (n + 1))
      issueWaits := qu.issueWaits + (if full then 1 else 0) }
    let i := qu.entries.length
    match qu.damaged.find? (fun d => d.1 == tid && d.2.1 == tile && d.2.2.1 == version) with
    | some d => s1.fixOutcome q i d.2.2.2 false
    | none =>
      if (s.tensor tid).retired version then
        let s2 := s1.fixOutcome q i .skip false
        s2.setQuay q ((s2.quay q).count 2 1)
      else s1

/-- A fetch that the plan holds and the quay has not issued: instance, column and tile within their counts, the column one that
the ordering code has (R2, R200). -/
def fetchKnown (s : State) (p rec j k step i o : Nat) : Option (BitVec 512 × BitVec 512) :=
  let pt := s.part p
  match (planOf s p)[rec]? with
  | none => none
  | some pr =>
    match s.recOf (planTensor pr) with
    | none => none
    | some r =>
      let e := tideEntry pt (planEntry pr)
      let inRange := decide (i < tideInner e ∧ o < tideOuter e ∧ (pt.steps = 0 ∨ step < pt.steps)) && (planInner pr == 0xFFFF || planInner pr == i)
        && (if planGather pr then decide (j < gatherT pr * gatherB pr ∧ k < recTin r)
            else decide (j < planCols pr ∧ k < planCount pr) && columnExists s (bandX s p (planFirstCol pr + j)))
      if inRange then some (pr, r) else none

/-- A resident tensor has been fetched at a time (R213). -/
def Quay.noteFetch (qu : Quay) (tid at' : Nat) : Quay :=
  { qu with resident := qu.resident.map (fun e => if e.1 = tid then (e.1, e.2.1, at') else e) }

/-- A fetch has been issued. -/
def Quay.noteIssued (qu : Quay) (key : IssuedFetch) : Quay := { qu with issued := qu.issued ++ [key] }

/-- An output tile has been gathered; the last 65,536 are kept, the most recent last. -/
def Quay.noteGather (qu : Quay) (tid o : Nat) : Quay :=
  let l := qu.gathered.filter (fun e => e != (tid, o)) ++ [(tid, o)]
  { qu with gathered := l.drop (l.length - 65536) }

/-- The cycle in which a fetch issues: its deadline less the lead, or the launch mark (R202). -/
def issueTime (s : State) (p number : Nat) (pr r : BitVec 512) (j k step i o : Nat) : Nat :=
  max ((s.part p).launchTick * cyPerTick)
    ((fetchWaiter s p pr j k step o i 0 0 0).deadline - leadInForce s (recPrimary r) p number pr r * cyPerTick)

/-- Steps of a partition in which a fetch of a record could issue at a cycle: every step up to it at the launch mark, else the one
that its time names. -/
def issueSteps (s : State) (p number : Nat) (pr r : BitVec 512) (j k i o at' : Nat) : List Nat :=
  let pt := s.part p
  let d := (fetchWaiter s p pr j k 0 o i 0 0 0).deadline
  let last := (at' + leadInForce s (recPrimary r) p number pr r * cyPerTick - d) / max 1 (pt.period * cyPerTick)
  if at' = pt.launchTick * cyPerTick then List.range (last + 1) else [last]

/-- Order of fetches of one cycle: record, then column, then k (R202). -/
def before (a b : Nat × Nat × Nat) : Bool :=
  decide (a.1 < b.1) || (decide (a.1 = b.1) && (decide (a.2.1 < b.2.1) || (decide (a.2.1 = b.2.1) && decide (a.2.2 < b.2.2))))

/-- Columns or positions, and tiles or slices, of a plan record. -/
def planSpan (s : State) (pr : BitVec 512) : Nat × Nat :=
  if planGather pr then (gatherT pr * gatherB pr, match s.recOf (planTensor pr) with | some r => recTin r | none => 0)
  else (planCols pr, planCount pr)

/-- A fetch of the same partition and cycle that comes first and is not issued yet (R202). -/
def issuesFirst (s : State) (p rec j k at' : Nat) : Bool :=
  (List.range (rec + 1)).any (fun n =>
    match (planOf s p)[n]? with
    | none => false
    | some pr =>
      match s.recOf (planTensor pr) with
      | none => false
      | some r =>
        let e := tideEntry (s.part p) (planEntry pr)
        (List.range (planSpan s pr).1).any (fun a => (List.range (planSpan s pr).2).any (fun b =>
          before (n, a, b) (rec, j, k)
            && (List.range (tideInner e)).any (fun i => (List.range (tideOuter e)).any (fun o =>
              (issueSteps s p n pr r a b i o at').any (fun step =>
                (fetchKnown s p n a b step i o).isSome
                  && !decide (({ part := p, number := n, j := a, k := b, step := step, inner := i, outer := o } : IssuedFetch)
                      ∈ (s.quay (recPrimary r)).issued)
                  && decide (issueTime s p n pr r a b step i o = at')))))))

/-- The token of a gather fetch is in range: a padding token or an ID past the tensor's rows reads nothing (R211). -/
def tokenReads (r : BitVec 512) (v : Nat) : Bool := decide (v ≠ 0xFFFFFFFF ∧ v < 32 * recTout r)

/-- A gather's fetch: it reads its tile, or gives zeros; an ID past the rows is counted once, with its first slice (R211). -/
def State.gatherFetch (s : State) (q : Nat) (r : BitVec 512) (g : GatherTag) (version : Nat) (w : Waiter) : State :=
  if tokenReads r g.token then
    (s.setQuay q ((s.quay q).noteGather (recId r) (g.token / 32))).joinEntry q (recId r) (g.token / 32 * recTin r + g.slice) version w
  else
    let bad := decide (g.token ≠ 0xFFFFFFFF) && decide (g.slice = 0)
    (s.setQuay q { s.quay q with badTokens := (s.quay q).badTokens + (if bad then 1 else 0) }).gatherZero q g (recStream r) (recTin r)

/-- FETCH_ISSUE: at the deadline less the lead, or at the launch mark, after the partition's earlier fetches of that cycle (R202).
For a gather, j is the position in the token list and k the input slice. -/
def execFetchIssue (p rec j k step i o : Nat) (s : State) : Out :=
  onPart p (
    let pt := s.part p
    match fetchKnown s p rec j k step i o with
    | none => s
    | some (pr, r) =>
      let q := recPrimary r
      let key : IssuedFetch := { part := p, number := rec, j := j, k := k, step := step, inner := i, outer := o }
      let at' := issueTime s p rec pr r j k step i o
      if !pt.marks || decide (key ∈ (s.quay q).issued) || issuesFirst s p rec j k at' then s
      else
        let s1 := s.advance at'
        let seqKey := p * 256 + (planFirstCol pr + j)
        let seq := tget 0 (s1.quay q).seqs seqKey
        let token := if planGather pr then gatherToken s1 q pr j else 0
        let w := fetchWaiter s p pr j k step o i seq at' token
        let s2 := s1.setQuay q (((s1.quay q).noteFetch (recId r) at').noteIssued key)
        let version := versionNow s p r step (planLag pr)
        match w.gather with
        | some g => ((s2.measureSegments q p rec (pt.n0 + step) o pr).gatherFetch q r g version w).bump
        | none =>
          (s2.setQuay q { s2.quay q with seqs := tput 0 (s2.quay q).seqs seqKey ((seq + 1) % 65536) }).joinEntry q (recId r)
            (planTile pr j k) version w)

/-! ### What becomes of an entry -/

/-- An entry's data can be ready to send: some waiter is a gather's, or its partition has a usable port; without one the
entry resolves at its decision point (R214). -/
def canSend (s : State) (q : Nat) (e : FetchEntry) : Bool :=
  e.waiters.any (fun w => w.gather.isSome || portUsable s q w.part)

/-- The tier of a quay that serves an entry's own data. -/
def entryTier (s : State) (q : Nat) (e : FetchEntry) : Nat :=
  match s.recOf e.tid with
  | some r => servingTierAt s q (e.parts.headD 8) r e.tile
  | none => 0

/-- P has passed without the entry's data: GONE where its version has retired, else a MISS with the cheaper path (R204). -/
def State.missEntry (s : State) (q i : Nat) (e : FetchEntry) : State :=
  if (s.tensor e.tid).retired e.version then
    let t := s.fixOutcome q i .skip false
    t.setQuay q ((t.quay q).count 2 1)
  else (s.setQuay q ((s.quay q).tally e.parts e.tid (entryTier s q e) 1 1 false)).fixOutcome q i (cheaperPath (s.tensor e.tid) e.version) true

/-- The entry's own data is there, ready to send (R204): DATA, where P has not passed. -/
def State.dataEntry (s : State) (q i : Nat) (e : FetchEntry) : State :=
  (s.setQuay q ((s.quay q).tally e.parts e.tid (entryTier s q e) 1 0 false)).fixOutcome q i .data false

/-- The first issue among an entry's waiters. -/
def FetchEntry.issuedAt (e : FetchEntry) (now : Nat) : Nat := (e.waiters.map (fun w => w.issued)).foldl min now

/-- FETCH_DATA_READY: an entry's read is ready to send. Before P or at it the outcome is DATA; past it the entry is a MISS and its
data is discarded, which its lead takes note of (R204, R210, R213). For an entry whose outcome is a substitute, that copy's read is
ready, measured at its own tier. -/
def execFetchDataReady (q entry : Nat) (s : State) : Out :=
  onQuay q (
    match (s.quay q).entries[entry]? with
    | none => s
    | some e =>
      match e.outcome with
      | none =>
        if e.waiting || e.unreadable || decide (0 < e.recovery) || !dataServed s e || !canSend s q e then s
        else
          let tier := entryTier s q e
          let s1 := s.setQuay q ((s.quay q).measure e.tid tier (s.now - e.issuedAt s.now))
          if decisionTime s q e < s.now then
            let t := s1.missEntry q entry e
            t.setQuay q ((t.quay q).tally e.parts e.tid tier 0 0 true)
          else s1.dataEntry q entry e
      | some o =>
        if o.substitute && !e.ready && !e.waiters.isEmpty then
          let tier := if o = .shadow then 0 else 1
          ((s.setQuay q ((s.quay q).measure e.tid tier (s.now - e.since))).deliver q entry o).settle q e.tid
        else if !e.missed.isEmpty then
          let e1 := { e with missed := [] }
          let qu := (s.quay q).tally e.missed e.tid (entryTier s q e) 0 0 true
          s.setQuay q { qu with entries := if e1.spent then qu.entries.eraseIdx entry else qu.entries.set entry e1 }
        else s)

/-- DECISION_POINT: P passes without data (R204). Data and a commit of P's own cycle come before it, so it closes that cycle (R210). -/
def execDecisionPoint (q entry : Nat) (s : State) : Out :=
  onQuay q (
    match (s.quay q).entries[entry]? with
    | none => s
    | some e =>
      if e.outcome.isSome || e.waiters.isEmpty then s
      else (s.advance (decisionTime s q e + 1)).missEntry q entry e)

/-- An entry's data is unreadable: the cheaper path, once; where P is reached in the same cycle it is a MISS too. Past P, which came
first, it is what P makes of it (R204, R210). -/
def State.unreadableEntry (s : State) (q i : Nat) (e : FetchEntry) : State :=
  let at' := decisionTime s q e
  if at' < s.now then s.missEntry q i e
  else
    let miss := decide (at' = s.now)
    (s.setQuay q ((s.quay q).tally e.parts e.tid (entryTier s q e) 1 (if miss then 1 else 0) false)).fixOutcome q i
      (cheaperPath (s.tensor e.tid) e.version) miss

/-! ### Sending (R198, R214) -/

/-- The weight of a port outcome (R214, R337). -/
def portWeight (v : Port) : Nat :=
  match v.outcome with
  | 3 => 8
  | 2 => 8
  | 1 => v.lanes
  | _ => 0

/-- The weight in force of a quay port. -/
def Quay.weight (qu : Quay) (port : Nat) : Nat := tget 0 qu.weights port

/-- The port that carries a partition's next packet, by weighted round robin: ports in ascending number, each for as many packets in a
row as its weight says (log 75); `turn` holds 64 times the packets sent on the present port, plus its number. `lane` is 0 for tile
packets and 1 for gradient frames. None without a usable port. -/
def nextPort (s : State) (q p lane : Nat) : Option (Nat × Nat) :=
  let turn := tget 0 (s.quay q).turn (8 * lane + p)
  let at' := turn % 64
  let sent := turn / 64
  if portCarries s q p at' && decide (sent < (s.quay q).weight at') then some (at', sent + 1)
  else (((List.range 60).map (fun i => (at' + 1 + i) % 60)).find? (fun i => portCarries s q p i)).map (fun i => (i, 1))

/-- A port has carried a packet or a frame of a partition. -/
def Quay.carried (qu : Quay) (p lane : Nat) (port : Nat × Nat) : Quay :=
  { qu with turn := tput 0 qu.turn (8 * lane + p) (64 * port.2 + port.1) }

/-- TILE_PACKET_SEND: the packet of a column with number `seq`, where it is the next in its sequence, goes out on a port of the partition, against a buffer credit of the
quay for the column, into the breakwater unit's inbound buffer; the crossbar of the edge reaches every column of the band (R15,
R214). -/
def execTilePacketSend (q p col seq : Nat) (s : State) : Out :=
  onQuay q (
    let qu := s.quay q
    let x := bandX s p col
    let north := decide (q < 2)
    let seqKey := p * 256 + col
    let next := tget 0 qu.sentSeq seqKey
    match nextPort s q p 0 with
    | none => s
    | some port =>
      if p ≥ 8 ∨ seq ≠ next ∨ tget 0 qu.credits x = 0 ∨ !s.bandHas p (x / 24) then s
      else
        match qu.outgoing.find? (fun o => o.part == p && o.col == col && o.seq == next) with
        | none => s
        | some o =>
          let drop := fun (e : FetchEntry) =>
            if e.outcome.isSome && e.ready then
              { e with waiters := e.waiters.filter (fun w => w.part != p || w.col != col || w.seq != next) } else e
          let qu1 := { qu.carried p 0 port with
            outgoing := qu.outgoing.erase o
            sentSeq := tput 0 qu.sentSeq seqKey ((next + 1) % 65536)
            credits := tput 0 qu.credits x (tget 0 qu.credits x - 1)
            entries := (qu.entries.map drop).filter (fun e => e.outcome.isNone || !e.spent) }
          let g := s.gantry x
          let e := g.side north
          let first := e.inbound.isEmpty
          (s.setQuay q qu1.takeWaiting).setGantry x (g.putSide north { e with
            inbound := e.inbound ++ [{ packet := o.packet, seq := next, part := p, quay := q }]
            nextSince := if first then s.now else e.nextSince
            stallReported := !first && e.stallReported }))

/-- BUFFER_CREDIT_RETURN: one credit of a packet that has left the inbound buffer, to the quay that sent it. -/
def execBufferCreditReturn (x : Nat) (north : Bool) (s : State) : Out :=
  onColumn s x (
    let g := s.gantry x
    let e := g.side north
    match e.owed with
    | [] => s
    | q :: rest =>
      let qu := s.quay q
      (s.setGantry x (g.putSide north { e with owed := rest })).setQuay q
        { qu with credits := tput 0 qu.credits x (tget 0 qu.credits x + 1) })

/-! ### Lead governor and residency (R213) -/

/-- A copy begun for a part of a tensor: 0 the whole, else an output tile of an EMBEDDING plus 1. -/
def Quay.wantCopy (qu : Quay) (tid part : Nat) : Quay :=
  if (tid, part) ∈ qu.copying ∨ qu.resident.any (fun e => e.1 == tid && e.2.1 == part) then qu
  else { qu with copying := qu.copying ++ [(tid, part)] }

/-- The copies that the rule asks for: a tensor whole, an EMBEDDING by output tile, most recently gathered first; the pin
asks for the whole. -/
def Quay.wantCopies (qu : Quay) (r : BitVec 512) (pinned : Bool) : Quay :=
  if pinned || decide (recKind r ≠ 1) then qu.wantCopy (recId r) 0
  else ((qu.gathered.filter (fun e => e.1 == recId r)).reverse).foldl (fun (m : Quay) e => m.wantCopy e.1 (e.2 + 1)) qu

/-- The target of a tensor at a tier, in ticks, before its bounds (R213). -/
def rawTarget (qu : Quay) (r : BitVec 512) (l : Lead) : Nat :=
  decisionLead qu r + ceilDiv (5 * ((percentile l.latencies).getD 0)) (4 * 1500)

/-- The target: at least the decision lead plus 1, at most 4,095. -/
def leadTarget (qu : Quay) (r : BitVec 512) (l : Lead) : Nat := min 4095 (max (decisionLead qu r + 1) (rawTarget qu r l))

/-- The governor's decision for one plan record at the end of a step (R213). -/
def leadDecision (target : Nat) (late : Bool) (v : RecordLead) (imageLead : Nat) : RecordLead :=
  let lead := if v.lead = 0 then imageLead else v.lead
  let below := if target + 1 ≤ lead then v.below + 1 else 0
  let lead1 := if late then max target (lead + ceilDiv lead 4)
    else if lead < target then target
    else if 16 ≤ below then target else lead
  { lead := min 4095 lead1, below := if 16 ≤ below then 0 else below }

/-- A tensor that is not to be in DRAM is resident no more, and its copies leave the pool. -/
def Quay.unpool (qu : Quay) (tid : Nat) : Quay :=
  { qu with
    resident := qu.resident.filter (fun e => e.1 != tid)
    copying := qu.copying.filter (fun e => e.1 != tid)
    copied := qu.copied.filter (fun e => e.1 != tid)
    allocs := qu.allocs.filter (fun a => a.kind != 2 || a.tid != tid) }

/-- A partition's counts of its present step for a tensor at a tier. -/
def Lead.countOf (l : Lead) (p : Nat) : LeadCount := tget {} l.counts p

/-- The residency rule asks for a copy: a target beyond 4,095 ticks or a MISS fraction of the step above 2^-10 (R213). -/
def asksCopy (qu : Quay) (r : BitVec 512) (l : Lead) (p : Nat) : Bool :=
  decide (4095 < rawTarget qu r l ∨ (l.countOf p).fetches < 1024 * (l.countOf p).misses)

/-- Another partition with marks keeps an old pin that lets a tensor be in DRAM (R20). -/
def keptResident (s : State) (p tid : Nat) : Bool :=
  (partsWhere (fun o => decide (o ≠ p) && (s.part o).marks && (s.ctlOf o).tensorPins.any (fun e => e.1 == tid && e.2.2 != 2))) != []

/-- The residency rule for one tensor of a partition's plan (R213): the pin first, else the rule. -/
def residencyStep (s : State) (q p : Nat) (m : Quay) (tid : Nat) : Quay :=
  match s.recOf tid with
  | none => m
  | some rc =>
    if recPrimary rc ≠ q || recTier rc ≠ 1 then m
    else
      let l := tget {} m.leads (leadKey tid (servingTier s q p rc))
      let pin := (tensorPins s p tid rc).2
      if pin = 2 then (if keptResident s p tid then m else m.unpool tid)
      else if pin = 1 ∨ asksCopy m rc l p then m.wantCopies rc (decide (pin = 1))
      else m

/-- The lead rule for one plan record of a partition. -/
def leadStep (s : State) (q p : Nat) (m : Quay) (e : BitVec 512 × Nat) : Quay :=
  match s.recOf (planTensor e.1) with
  | none => m
  | some rc =>
    if recPrimary rc ≠ q then m
    else
      let key := leadKey (recId rc) (servingTier s q p rc)
      let l := tget {} m.leads key
      let v := tget {} m.recordLeads (recordKey p e.2)
      { m with
        leads := tput {} m.leads key { l with target := leadTarget m rc l }
        recordLeads := tput {} m.recordLeads (recordKey p e.2) (leadDecision (leadTarget m rc l) (l.countOf p).lateAfterP v (planLead e.1)) }

/-- A partition's counts of a tensor restart with its step. -/
def Quay.restartLead (m : Quay) (p tid : Nat) : Quay :=
  (List.range 2).foldl (fun (u : Quay) tier =>
    let l := tget {} u.leads (leadKey tid tier)
    { u with leads := tput {} u.leads (leadKey tid tier) { l with counts := tdel l.counts p } }) m

/-- Lists the decision on one plan record's lead, where the governor changed it or a pin stands over it (R18, R20). -/
def State.listLead (s : State) (q p : Nat) (old : Quay) (e : BitVec 512 × Nat) : State :=
  match s.recOf (planTensor e.1) with
  | none => s
  | some rc =>
    let choice := (tget {} (s.quay q).recordLeads (recordKey p e.2)).lead
    let pinned := decide ((tensorPins s p (recId rc) rc).1 ≠ 0)
    if recPrimary rc = q ∧ (pinned ∨ choice ≠ (tget {} old.recordLeads (recordKey p e.2)).lead) then
      s.decideNow p jLead e.2 (leadInForce s q p e.2 e.1 rc) choice
    else s

/-- A tensor of which a quay has something in the pool that serves. -/
def Quay.hasResident (qu : Quay) (tid : Nat) : Bool := qu.resident.any (fun e => e.1 == tid)

/-- What the residency rule would do for a tensor without its pin: 1 a copy, 0 none. -/
def residencyChoice (s : State) (q p tid : Nat) : Nat :=
  match s.recOf tid with
  | none => 0
  | some rc => if asksCopy (s.quay q) rc (tget {} (s.quay q).leads (leadKey tid (servingTier s q p rc))) p then 1 else 0

/-- Lists the decision on one tensor's residency where a pin stands over it: what serves, and what the rule would do (R18, R20). A copy
that the rule asks for is listed at the mark from which it serves, a release at the mark at which it acts. -/
def State.listResidency (s : State) (q p : Nat) (tid : Nat) : State :=
  match s.recOf tid with
  | none => s
  | some rc =>
    if recPrimary rc = q ∧ recTier rc = 1 ∧ (tensorPins s p tid rc).2 ≠ 0 then
      s.decideNow p jResidency tid (if (s.quay q).hasResident tid then 1 else 0) (residencyChoice s q p tid)
    else s

/-- The residency pins of a plan's tensors as a launch or a step finds them (R19, R20, R213). -/
def State.pinResidency (s : State) (q p : Nat) : State :=
  let tids := ((planOf s p).map planTensor).eraseDups
  tids.foldl (fun (t : State) tid => t.listResidency q p tid) (s.setQuay q (tids.foldl (residencyStep s q p) (s.quay q)))

/-- The lead governor of a quay at the end of a partition's step: leads of its plan records, copies of flash tensors, and the step's
counts of its tensors (R213); its decisions are listed (R18). -/
def State.leadGovernor (s : State) (q p : Nat) : State :=
  let plan := planOf s p
  let s1 := s.setQuay q (plan.zipIdx.foldl (leadStep s q p) (s.quay q))
  let s2 := (plan.zipIdx.foldl (fun (t : State) e => t.listLead q p (s.quay q) e) s1).pinResidency q p
  s2.setQuay q ((plan.map planTensor).eraseDups.foldl (fun (m : Quay) tid => m.restartLead p tid) (s2.quay q))

/-- A change of a tensor's residency is due at a mark of partition p: it fetches the tensor, or no partition with marks does (R19). -/
def residencyDue (s : State) (p tid : Nat) : Bool :=
  fetches s p tid || (partsWhere (fun o => (s.part o).marks && fetches s o tid)).isEmpty

/-- Residency changes at a mark of a partition (R18, R19, R213): tensors that give way leave the pool, and copies that completed serve
from here on; both are listed in the step. -/
def State.residencyMark (s : State) (q p : Nat) : State :=
  let qu := s.quay q
  let out := qu.leaving.filter (residencyDue s p)
  let now' := qu.copied.filter (fun e => !decide (e.1 ∈ out) && residencyDue s p e.1)
  let left := out.foldl (fun (m : Quay) tid => m.unpool tid) qu
  let s1 := s.setQuay q { left with
    leaving := qu.leaving.filter (fun tid => !decide (tid ∈ out))
    resident := left.resident ++ now'.map (fun e => (e.1, e.2, s.now))
    copied := left.copied.filter (fun e => !decide (e ∈ now')) }
  let list := fun (value : Nat) (u : State) (tid : Nat) => (u.decided p jResidency tid value value).journalDone jResidency tid
  ((now'.map (fun e => e.1)).eraseDups).foldl (list 1) (out.foldl (list 0) s1)

/-- When a tensor with something in the pool was last fetched. -/
def Quay.lastFetch (qu : Quay) (tid : Nat) : Nat := (qu.resident.filter (fun e => e.1 == tid)).foldl (fun n e => max n e.2.2) 0

/-- The tensor fetched least recently of a list. -/
def Quay.oldestOf (qu : Quay) : List Nat → Option Nat
  | [] => none
  | a :: l =>
    match qu.oldestOf l with
    | none => some a
    | some b => if qu.lastFetch a ≤ qu.lastFetch b then some a else some b

/-- A tensor that some partition, or the table, pins in DRAM (R213). -/
def pinnedResident (s : State) (tid : Nat) : Bool :=
  (match s.recOf tid with | some r => decide (recResidency r = 1) | none => false)
    || s.ctl.any (fun e => e.2.tensorPins.any (fun d => d.1 == tid && d.2.2 == 1))

/-- A copy of a size fits once some tensors have left the pool. -/
def fitsWithout (s : State) (q id size : Nat) (gone : List Nat) : Bool :=
  (placeIn (s.setQuay q (gone.foldl (fun (m : Quay) tid => m.unpool tid) (s.quay q))) q 0 2 id size).isSome

/-- The tensors that leave the pool for a copy, least recently fetched first, until it fits: none where it would not (R213). `left` are
those that may still go. -/
def giveWay (s : State) (q id size : Nat) : Nat → List Nat → List Nat → Option (List Nat)
  | 0, gone, _ => if fitsWithout s q id size gone then some gone else none
  | n + 1, gone, left =>
    if fitsWithout s q id size gone then some gone
    else
      match (s.quay q).oldestOf left with
      | none => none
      | some tid => giveWay s q id size n (gone ++ [tid]) (left.filter (· != tid))

/-- RESIDENCY_COPY_DONE: a copy into the pool is complete when the pool has room; it serves from the next mark. Without room the resident
tensors fetched least recently leave at the next mark, and the copy is then complete (R19, R213; log 75). -/
def execResidencyCopyDone (q id : Nat) (s : State) : Out :=
  onQuay q (
    let qu := s.quay q
    match qu.copying.find? (fun e => e.1 == id) with
    | none => s
    | some c =>
      match s.recOf id with
      | none => s
      | some r =>
        let size := (if c.2 = 0 then recTiles r else recTin r) * tileBytes (recStream r)
        match placeIn s q 0 2 id size with
        | some t =>
          let w := t.quay q
          (t.setQuay q { w with copying := w.copying.erase c, copied := w.copied ++ [c] }).journal jResidency id s.now
        | none =>
          let may := ((qu.resident.map (fun e => e.1)).eraseDups).filter (fun tid => tid != id && !decide (tid ∈ qu.leaving) && !pinnedResident s tid)
          match giveWay s q id size may.length qu.leaving may with
          | none => s
          | some gone => (gone.filter (fun tid => !decide (tid ∈ qu.leaving))).foldl (fun (u : State) tid =>
              (u.setQuay q { u.quay q with leaving := (u.quay q).leaving ++ [tid] }).journal jResidency tid s.now) s)

/-- FLASH_SCAN_PAGE: the background scan after S9 reads one page of a flash tensor: `step` 0 reads, 1-3 recover, 4 is lost
(R207, R333). -/
def execFlashScanPage (q id page step : Nat) (s : State) : Out :=
  onQuay q (
    match tfind s.tensors id with
    | none => s
    | some t =>
      let r := t.record
      let pages := ceilDiv (recTiles r * tileBytes (recStream r)) 16384
      if recPrimary r ≠ q || recTier r ≠ 1 || recRegion r || decide (s.bring.stage < 9) || s.bring.active || decide (pages ≤ page) then s
      else
        let qu := s.quay q
        let scanned := addOnce qu.scanned (id, page)
        let total := s.tensors.foldl (fun n e =>
          let x := e.2.record
          if recPrimary x = q ∧ recTier x = 1 ∧ !recRegion x then n + ceilDiv (recTiles x * tileBytes (recStream x)) 16384 else n) 0
        let s1 := s.setQuay q { qu with scanned := scanned, scan := 100 * scanned.length / max 1 total }
        if step = 0 then s1
        else if step ≤ 3 then (s1.setQuay q ((s1.quay q).count 8 1)).event sevAbsorbed evFlashPage q step
        else
          ((s1.setQuay q ((s1.quay q).count 9 1)).setTensor id { t with flashDamaged := true }).event sevDegraded evFlashPage q 4)

end Sys2Proof.Machine
end

