-- ==== Sys2Proof/Machine/Gradients.lean ====
section
/-! DEFINITION. Gradient egress: the intake of rows, frames and their statistics, accumulation in the quays (R222-R234,
R307). -/

namespace Sys2Proof.Machine

/-! ### Egress records (R224) -/

def egRows (r : BitVec 512) : Bool := decide (recByte r 0 = 1)
def egFormat (r : BitVec 512) : Nat := recByte r 1
def egK (r : BitVec 512) : Int := signedOf 8 (recByte r 2)
def egTensor (r : BitVec 512) : Nat := recAt r 4 4
def egEntry (r : BitVec 512) : Nat := recAt r 8 2
def egInner (r : BitVec 512) : Nat := recAt r 10 2
def egLayer (r : BitVec 512) : Nat := recAt r 12 2
def egGather (r : BitVec 512) : Nat := recAt r 14 2
def egFirst (r : BitVec 512) : Nat := recAt r 16 4
def egCount (r : BitVec 512) : Nat := recAt r 20 4
def egColStride (r : BitVec 512) : Nat := recAt r 24 4
def egGroupStride (r : BitVec 512) : Nat := recAt r 28 4
def egGroup (r : BitVec 512) : Nat := if recAt r 32 2 = 0 then egCount r else recAt r 32 2
def egFirstCol (r : BitVec 512) : Nat := recByte r 34
def egCols (r : BitVec 512) : Nat := recByte r 35 + 1

/-- Slices per column of a ROWS record. -/
def egSlices (r : BitVec 512) : Nat := egGroupStride r

/-- Tile of column j, position k (R200, R225). -/
def egTile (r : BitVec 512) (j k : Nat) : Nat :=
  egFirst r + j * egColStride r + k / egGroup r * egGroupStride r + k % egGroup r

/-- The egress plan of a partition as the breakwater units hold it (R169). -/
def egressOf (s : State) (p : Nat) : List (BitVec 512) :=
  match (s.part p).image with
  | some img => img.egress
  | none => []

/-- Rows that one token of a ROWS record takes (R225). -/
def rowsPerToken (r : BitVec 512) : Nat := ceilDiv (egSlices r * 128) 512

/-- The step number of a partition's present step (R174, R201). -/
def stepNumber (s : State) (p : Nat) : Nat := (s.part p).n0 + (s.part p).stepIndex

/-- Opens the egress instances of fired mark instances, in record order (R225). -/
def State.openEgress (s : State) (p : Nat) (insts : List (Nat × Nat × Nat)) : State :=
  (egressOf s p).zipIdx.foldl (fun (t : State) (r, number) =>
    match t.recOf (egTensor r) with
    | none => t
    | some rec =>
      insts.foldl (fun (t : State) (e, i, o) =>
        if e = egEntry r ∧ (egInner r = 0xFFFF ∨ egInner r = i) then
          (List.range (egCols r)).foldl (fun (t : State) j =>
            let x := bandX t p (egFirstCol r + j)
            if columnExists t x then
              let key := intakeKey x (decide (recPrimary rec < 2))
              let ik := t.intake key
              t.setIntake key { ik with opens := ik.opens ++ [{
                part := p, number := number, record := r, step := stepNumber t p, outer := o, rows := 0, framed := 0
                perCore := [], framedCore := [] }] }
            else t) t
        else t) t) s

/-! ### The intake (R222, R223, R230) -/

/-- Rows an open instance still expects from a source row y; `terminal` says that the source is the terminal core. -/
def expects (o : OpenRec) (y : Nat) (terminal : Bool) : Bool :=
  if egRows o.record then decide (tget 0 o.perCore y < egCount o.record * rowsPerToken o.record)
  else terminal && decide (o.rows < 8 * egCount o.record)

/-- The key of a held row: its source row, and whether it belongs to a ROWS record. -/
def heldKey (y : Nat) (rows : Bool) : Nat := 2 * y + (if rows then 1 else 0)

/-- The unit of a class 4 address: 96 * edge + u, none for u from 96 on (R222). -/
def intakeUnit (a : Nat) : Option Nat :=
  if addrUnit a < 96 then some ((if addrNorth a then 96 else 0) + addrUnit a) else none

/-- The column of a class 4 address that names a unit. -/
def intakeColumn (a : Nat) : Nat := 2 * addrUnit a + addrColumn a

/-- A class 4 address names a unit and a column that are there, aligned as R222 asks. -/
def intakeNamed (s : State) (a : Nat) : Bool :=
  addrAligned a && (match intakeUnit a with
    | none => false
    | some u => unitExists s u && columnExists s (intakeColumn a))

/-- A row is rejected to its source and counted for a partition (R222, R223). -/
def State.rejectEgress (s : State) (p : Option Nat) : State :=
  match p with
  | none => { s with link := none }
  | some p =>
    let ct := s.ctlOf p
    { s.setCtl p { ct with counts := { ct.counts with egressRejects := ct.counts.egressRejects + 1 } } with link := none }

/-- An open instance takes a row of source row y. -/
def OpenRec.takeRow (o : OpenRec) (y : Nat) : OpenRec :=
  if egRows o.record then { o with rows := o.rows + 1, perCore := tput 0 o.perCore y (tget 0 o.perCore y + 1) }
  else { o with rows := o.rows + 1 }

/-- The partition of the core that a row comes from; none for a core of another module. -/
def rowPart (s : State) (srcModule srcCore : Nat) : Option Nat :=
  if srcModule = s.moduleNumber then s.partOfCore srcCore else none

/-- INTAKE_ROW: a row to a class 4 address (R222). A full intake accepts nothing and the row waits (R230); else the row is admitted to
the oldest open instance that expects it, or rejected and counted (R223), for the source's partition where no unit is named. A row
from another module is rejected. A row
to another module or class never reaches a unit. -/
def execIntakeRow (address srcModule srcCore : Nat) (data : Row) (s : State) : Out :=
  if addrClass address ≠ 4 ∨ addrModule s 0 address ≠ s.moduleNumber then .next s
  else if !intakeNamed s address then .next (s.rejectEgress (rowPart s srcModule srcCore))
  else
    let x := intakeColumn address
    let north := addrNorth address
    let y := coreY srcCore
    let key := intakeKey x north
    let ik := s.intake key
    let terminal := decide (y = if north then 143 else 0)
    if 32 ≤ ik.held.length then .next s
    else
      match s.partOfX x with
      | none => .next (s.rejectEgress (rowPart s srcModule srcCore))
      | some p =>
        match if srcModule = s.moduleNumber ∧ coreX srcCore = x ∧ y < 144 then ik.opens.findIdx? (fun o => o.part == p && expects o y terminal) else none with
        | none => .next (s.rejectEgress (some p))
        | some i =>
          let rows := match ik.opens[i]? with | some o => egRows o.record | none => false
          .next (s.setIntake key { ik with opens := ik.opens.modify i (fun o => o.takeRow y), held := ik.held ++ [(heldKey y rows, data)] })

/-! ### Conversion and statistics (R226, R227) -/

/-- The binary exponent of a finite non-zero value: floor of log2 of its size. -/
def fpTop : Fp → Option Int
  | .fin _ m e => if m = 0 then none else some ((Nat.log2 m : Int) + e)
  | _ => none

/-- Whether a value is finite. -/
def fpFinite : Fp → Bool
  | .fin _ _ _ => true
  | _ => false

/-- Converts one value to E5M2 with a scale exponent: beyond the largest finite it saturates (R226). -/
def toE5 (k : Int) (v : Fp) : Nat :=
  match scaleFp k v with
  | .fin neg m e => withSign fmtE5M2 neg (min fmtE5M2.maxMag (roundMag fmtE5M2 none m e))
  | w => roundFp fmtE5M2 none w

/-- Whether a value saturates in E5M2 under a scale exponent. -/
def e5Saturates (k : Int) (v : Fp) : Bool :=
  match scaleFp k v with
  | .fin _ m e => decide (fmtE5M2.maxMag < roundMag fmtE5M2 none m e)
  | _ => false

/-- The MX E4M3 scale exponent of a block, none where it has no finite non-zero value or is not all finite (R86). -/
def mxExp (vs : List Fp) : Option Int :=
  if vs.all fpFinite then
    (vs.filterMap fpTop).foldl (fun acc t => match acc with
      | none => some t
      | some u => some (max t u)) none |>.map (fun t => max (-127) (min 127 (t - 8)))
  else none

/-- Saturations of a block in MX E4M3. -/
def mxSaturations (vs : List Fp) : Nat :=
  match mxExp vs with
  | none => 0
  | some x => (vs.filter (fun v =>
      match scaleFp (-x) v with
      | .fin _ m e => decide (fmtE4M3.maxMag < roundMag fmtE4M3 none m e)
      | _ => false)).length

/-- A frame's statistics. -/
structure FrameStats where
  amax : F32
  sumsq : F32
  nonzero : Nat
  uMx : Nat
  uE5 : Nat
  uBf : Nat
  overflow : Nat
deriving DecidableEq, Repr

/-- Measures a frame over its values in element order and its blocks. -/
def measureFrame (format : Nat) (k : Int) (vs : List F32) (blocks : List (List F32)) : FrameStats :=
  let fin := vs.filter isFinite
  let fps := vs.map ofF32
  let bl := blocks.map (fun b => b.map ofF32)
  { amax := fin.foldl (fun m v => fmax m (fabs v)) fZero
    sumsq := fin.foldl (fun a v => fadd a (fmul v v)) fZero
    nonzero := (fin.filter (fun v => !isZero v)).length
    uMx := (bl.map (fun b => match mxExp b with
      | none => 0
      | some x => (b.filter (fun v => match fpTop v with | some t => decide (t < x - 6) | none => false)).length)).foldl (· + ·) 0
    uE5 := (fps.filter (fun v => match fpTop v with | some t => decide (t + k < -14) | none => false)).length
    uBf := (fps.filter (fun v => match fpTop v with | some t => decide (t < -126) | none => false)).length
    overflow := match format with
      | 1 => (fps.filter (e5Saturates k)).length
      | 2 => (bl.map mxSaturations).foldl (· + ·) 0
      | _ => 0 }

/-- The payload of a frame: a tile in element order, or slices of a token. -/
def framePayload (format : Nat) (k : Int) (rows : Bool) (vs : List F32) (blocks : List (List F32)) : List Byte :=
  match format with
  | 1 => (vs.map (fun v => BitVec.ofNat 8 (toE5 k (ofF32 v))))
  | 2 =>
    let cs := blocks.map (fun b => convertBlock 2 (b.map (fun _ => none)) (b.map ofF32))
    let n := blocks.length
    let elems := if rows then cs.flatMap (fun c => c.1)
      else (List.range vs.length).map (fun i => (cs.getD (i % n) ([], 0)).1.getD (i / n) 0)
    packElems 2 elems ++ cs.map (fun c => BitVec.ofNat 8 c.2)
  | _ => packElems 5 (vs.map (fun v => roundFp fmtBF16 none (ofF32 v)))

/-- A frame's header (R228), its CRC over bits [255:32] and the payload. -/
def frameHeader (tid tile step outer format : Nat) (k : Int) (p : Nat) (poison nonfinite rows : Bool) (st : FrameStats)
    (payload : List Byte) : BitVec 256 :=
  let w := tid % 2 ^ 24 * 2 ^ 232 + tile % 2 ^ 32 * 2 ^ 200 + step % 2 ^ 16 * 2 ^ 184 + outer % 4096 * 2 ^ 172
    + format % 16 * 2 ^ 168 + (if format = 1 then unsignedOf 8 k else 0) * 2 ^ 160 + p % 8 * 2 ^ 157
    + (if poison then 2 ^ 156 else 0) + (if 0 < st.overflow then 2 ^ 155 else 0) + (if nonfinite then 2 ^ 154 else 0)
    + (if rows then 2 ^ 152 else 0) + st.amax.toNat * 2 ^ 120 + st.sumsq.toNat * 2 ^ 88 + st.nonzero * 2 ^ 77
    + st.uMx * 2 ^ 66 + st.uE5 * 2 ^ 55 + st.uBf * 2 ^ 44 + st.overflow * 2 ^ 33
  BitVec.ofNat 256 (w + crc32c (headerCrcBytes (BitVec.ofNat 256 w) ++ payload))

/-- The FP32 values of rows. -/
def rowValues (rows : List Row) : List F32 :=
  rows.flatMap (fun r => (List.range 128).map (fun i => BitVec.ofNat 32 (leAt r.bytes (4 * i) 4)))

/-- One frame of values under a record. Blocks are columns of a tile, or slices of a token. -/
def makeFrame (number : Nat) (r : BitVec 512) (p step outer tile : Nat) (poison : Bool) (vs : List F32) : EgFrame :=
  let rows := egRows r
  let blocks := if rows then (List.range (vs.length / 32)).map (fun b => (vs.drop (32 * b)).take 32)
    else (List.range 32).map (fun n => (List.range 32).map (fun i => vs.getD (32 * i + n) 0))
  let st := measureFrame (egFormat r) (egK r) vs blocks
  let pay := framePayload (egFormat r) (egK r) rows vs blocks
  { number := number
    header := frameHeader (egTensor r) tile step outer (egFormat r) (egK r) p poison (vs.any (fun v => !isFinite v)) rows st pay
    payload := pay }

/-- Takes the first n held rows of a key: the rows, and what is left. -/
def takeHeld : List (Nat × Row) → Nat → Nat → List Row × List (Nat × Row)
  | [], _, _ => ([], [])
  | (k, row) :: l, key, n =>
    if n = 0 then ([], (k, row) :: l)
    else if k = key then
      let r := takeHeld l key (n - 1)
      (row :: r.1, r.2)
    else
      let r := takeHeld l key n
      (r.1, (k, row) :: r.2)

def frTensor (h : BitVec 256) : Nat := bits h 255 232
def frPart (h : BitVec 256) : Nat := bits h 159 157

/-- The quay a frame goes to: its tensor's primary quay (R229), or the quay that faces the column where the tensor is not known. -/
def frameQuay (s : State) (key : Nat) (h : BitVec 256) : Nat :=
  match s.recOf (frTensor h) with
  | some r => recPrimary r
  | none => quayOf (key % 192) (decide (192 ≤ key))

/-- A unit sends the oldest frame of a column that it has not sent, against a frame credit, on the partition's next port of the
frame's quay (R214, R229); without a usable port it waits. -/
def State.sendFrame (s : State) (key : Nat) : State :=
  let ik := s.intake key
  match ik.unsent with
  | [] => s
  | f :: rest =>
    let q := frameQuay s key f.header
    match nextPort s q (frPart f.header) 1 with
    | none => s
    | some port =>
      if ik.credits = 0 then s
      else
        (s.setQuay q ((s.quay q).carried (frPart f.header) 1 port)).setIntake key
          { ik with sent := ik.sent ++ [{ f with port := 60 * q + port.1 }], unsent := rest, credits := ik.credits - 1 }

/-- A unit sends what it has framed of a column while it holds frame credits (R229). -/
def State.sendFrames (s : State) (key : Nat) : State :=
  (List.range (s.intake key).unsent.length).foldl (fun (t : State) _ => t.sendFrame key) s

/-- A frame in flight whose port went DOWN is sent again on the partition's next port, in its place (R229); with no usable port it stays
to be sent on the first that comes. -/
def State.resendFrame (s : State) (key i : Nat) : State :=
  let ik := s.intake key
  match ik.sent[i]? with
  | none => s
  | some f =>
    let q := frameQuay s key f.header
    match nextPort s q (frPart f.header) 1 with
    | none => s
    | some port =>
      (s.setQuay q ((s.quay q).carried (frPart f.header) 1 port)).setIntake key
        { ik with sent := ik.sent.set i { f with port := 60 * q + port.1 } }

/-- Every frame in flight on a port that is not up is sent again (R229). -/
def State.resendFrames (s : State) : State :=
  (s.intakes.map (fun e => e.1)).foldl (fun (t : State) key =>
    (List.range (t.intake key).sent.length).foldl (fun (u : State) i =>
      match (u.intake key).sent[i]? with
      | some f => if (u.port f.port).up then u else u.resendFrame key i
      | none => u) t) s

/-- Frame credits of a column return to its unit: payloads have been added or discarded (R229). -/
def State.returnFrames (s : State) (q x n : Nat) : State :=
  let key := intakeKey x (decide (q < 2))
  let ik := s.intake key
  (s.setIntake key { ik with credits := ik.credits + n }).sendFrames key

/-- A source row has a whole token unframed. -/
def wholeToken (o : OpenRec) (e : Nat × Nat) : Bool := decide (rowsPerToken o.record * (tget 0 o.framedCore e.1 + 1) ≤ e.2)

/-- Where the n-th held row of a key stands among the held rows. -/
def nthHeld : List (Nat × Row) → Nat → Nat → Nat
  | [], _, _ => 0
  | (k, _) :: l, key, n => if k = key then (if n ≤ 1 then 0 else nthHeld l key (n - 1) + 1) else nthHeld l key n + 1

/-- The source row of a ROWS record whose whole unframed token arrived first (R225). -/
def tokenReady (held : List (Nat × Row)) (o : OpenRec) : Option Nat :=
  let at' := fun (y : Nat) => nthHeld held (heldKey y true) (rowsPerToken o.record)
  (o.perCore.filter (wholeToken o)).foldl (fun best e => match best with
    | none => some e.1
    | some y => if at' e.1 < at' y then some e.1 else some y) none

/-- An instance whose rows have all arrived and been framed is gone. -/
def openDone (enabled : Nat) (o : OpenRec) : Bool :=
  if egRows o.record then decide (o.framed = egCount o.record * enabled) else decide (o.framed = egCount o.record)

/-- An instance has a complete tile, or a complete token of some source row, unframed. -/
def frameReady (o : OpenRec) : Bool := if egRows o.record then o.perCore.any (wholeToken o) else decide (8 * (o.framed + 1) ≤ o.rows)

/-- The frames of the next complete tile of an instance in column x, or of the next token of its source row y (R225, R226). -/
def framesOf (s : State) (o : OpenRec) (x y : Nat) (rows : List Row) : List EgFrame :=
  let r := o.record
  let vs := rowValues rows
  let poisoned := fun (l : List Row) => l.any (fun w => !w.poison.isEmpty)
  let S := egSlices r
  if egRows r then
    let token := vs.take (32 * S)
    let halves := if S ≤ 32 then [(0, token, poisoned rows)]
      else [(0, token.take 1024, poisoned (rows.take 8)), (1, token.drop 1024, poisoned (rows.drop 8))]
    halves.map (fun (h, v, bad) => makeFrame o.number r o.part o.step o.outer (y * 512 + 2 * tget 0 o.framedCore y + h) bad v)
  else [makeFrame o.number r o.part o.step o.outer (egTile r (x - bandX s o.part (egFirstCol r)) o.framed) (poisoned rows) vs]

/-- FRAME_CONVERT: the unit converts the next complete tile or token of a column, measures it, frames it and sends what it may. -/
def execFrameConvert (unit col : Nat) (s : State) : Out :=
  if 192 ≤ unit ∨ 1 < col then .fault .noSuchUnit
  else
    let x := 2 * (unit % 96) + col
    let north := decide (96 ≤ unit)
    let key := intakeKey x north
    let ik := s.intake key
    match ik.opens.findIdx? frameReady with
    | none => .next (s.sendFrames key)
    | some i =>
      match ik.opens[i]? with
      | none => .next s
      | some o =>
        let r := o.record
        let y := if egRows r then (tokenReady ik.held o).getD 0 else if north then 143 else 0
        let n := if egRows r then rowsPerToken r else 8
        let (rows, rest) := takeHeld ik.held (heldKey y (egRows r)) n
        let t := tget 0 o.framedCore y
        let frames := framesOf s o x y rows
        let o1 := { o with framed := o.framed + 1, framedCore := if egRows r then tput 0 o.framedCore y (t + 1) else o.framedCore }
        let enabled := ((s.enabledCores o.part).filter (fun c => coreX c == x)).length
        let opens := if openDone enabled o1 then ik.opens.eraseIdx i else ik.opens.set i o1
        .next ((s.setIntake key { ik with opens := opens, held := rest, unsent := ik.unsent ++ frames }).sendFrames key)

/-! ### Accumulation (R231-R234, R307) -/

def frTile (h : BitVec 256) : Nat := bits h 231 200
def frStep16 (h : BitVec 256) : Nat := bits h 199 184
def frOuter (h : BitVec 256) : Nat := bits h 183 172
def frFormat (h : BitVec 256) : Nat := bits h 171 168
def frK (h : BitVec 256) : Int := signedOf 8 (bits h 167 160)
def frPoison (h : BitVec 256) : Bool := bitAt h 156
def frRows (h : BitVec 256) : Bool := decide (bits h 153 152 = 1)

/-- Counts frames of a partition's step at a quay: 0 added, 1 excluded, 2 poisoned, 3 corrupt or unknown, 4 frozen, 5 bad token,
6 dropped late, 7 held. -/
def Quay.frames (qu : Quay) (p reason : Nat) : Quay :=
  { qu with frameCounts := tput 0 qu.frameCounts (8 * p + reason) (satAdd 32 (tget 0 qu.frameCounts (8 * p + reason)) 1) }

/-- Counts a frame that is not added (R233). -/
def State.countDrop (s : State) (q p reason : Nat) : State :=
  let ct := s.ctlOf p
  (s.setQuay q ((s.quay q).frames p reason)).setCtl p
    { ct with counts := { ct.counts with discardedFrames := ct.counts.discardedFrames + 1 } }

/-- Discards a frame of column x: it is counted, and its credit returns (R229, R233). -/
def State.dropFrame (s : State) (q x p reason : Nat) : State := (s.countDrop q p reason).returnFrames q x 1

/-- The step of a frame: the most recent one with its low bits, no later than the accumulators' (R307). -/
def frameStep (cur f16 : Nat) : Nat := cur - (cur + 65536 - f16 % 65536) % 65536

/-- The elements of a frame's payload, widened exactly (R232). ROWS frames give slices of 32; MX scales follow the elements. -/
def frameElems (format : Nat) (k : Int) (rows : Bool) (n : Nat) (pay : List Byte) : List F32 :=
  (List.range n).map (fun i =>
    let rd := fun a => pay.getD a 0
    match format with
    | 1 => toF32 (scaleFp (-k) (decodeFp fmtE5M2 (elemPat rd 1 i)))
    | 2 => widen 2 (elemPat rd 2 i) (pay.getD (n + (if rows then i / 32 else i % 32)) 0).toNat
    | _ => widen 5 (elemPat rd 5 i) 0)

/-- Adds values into accumulators, each to nearest-even. -/
def addAcc (acc : Tbl F32) (es : List (Nat × F32)) : Tbl F32 :=
  es.foldl (fun m e => tput fZero m e.1 (fadd (tget fZero m e.1) e.2)) acc

/-- The optimizer state of a tensor. -/
def State.optOf (s : State) (tid : Nat) : OptState := tget {} s.opt.tensors tid
def State.setOptOf (s : State) (tid : Nat) (o : OptState) : State := { s with opt := { s.opt with tensors := tput {} s.opt.tensors tid o } }

/-- Adds a DENSE frame. -/
def State.addDense (s : State) (r : BitVec 512) (h : BitVec 256) (pay : List Byte) : State :=
  let tid := recId r
  let o := s.optOf tid
  let vs := frameElems (frFormat h) (frK h) false 1024 pay
  s.setOptOf tid { o with
    acc := addAcc o.acc (vs.zipIdx.map (fun e => (1024 * frTile h + e.2, e.1)))
    dense := o.dense || decide (recKind r = 1) }

/-- The token of a ROWS frame under its record, none where it is outside the tensor's rows (R232). -/
def frameToken (s : State) (q : Nat) (er r : BitVec 512) (h : BitVec 256) : Option Nat :=
  match (planOf s (frPart h))[egGather er]? with
  | none => none
  | some g =>
    let v := gatherToken s q g (frTile h / 512 * gatherT g + frTile h % 512 / 2)
    if 32 * recTout r ≤ v then none else some v

/-- Adds one ROWS frame of column j under its record (R232); a token outside the table is discarded and counted. -/
def State.addRows (s : State) (q j : Nat) (er : BitVec 512) (r : BitVec 512) (h : BitVec 256) (pay : List Byte) : State :=
  let tid := recId r
  let p := frPart h
  let half := frTile h % 2
  match frameToken s q er r h with
  | none => s.countDrop q p 5
  | some v =>
      let S := egSlices er
      let n := 32 * (if half = 0 then min S 32 else S - 32)
      let vs := frameElems (frFormat h) (frK h) true n pay
      let o := s.optOf tid
      let es := vs.zipIdx.map (fun e =>
        let i := egFirst er + egColStride er + j * S + 32 * half + e.2 / 32
        (1024 * (v / 32 * recTin r + i) + 32 * (e.2 % 32) + v % 32, e.1))
      ((s.setQuay q ((s.quay q).frames p 0)).setOptOf tid { o with acc := addAcc o.acc es, touched := addOnce o.touched v }).bump

/-- The record of a frame in the partition's egress plan. The header names neither the record nor the column; the model takes the record
that the frame was formed under, and where that is not of the header's tensor and type, the first that is (DESIGN CHOICE, log 76). -/
def frameRecord (s : State) (number : Nat) (h : BitVec 256) : Option (BitVec 512) :=
  let fits := fun (r : BitVec 512) => egTensor r == frTensor h && egRows r == frRows h
  match (egressOf s (frPart h))[number]? with
  | some r => if fits r then some r else (egressOf s (frPart h)).find? fits
  | none => (egressOf s (frPart h)).find? fits

/-- Adds a frame's statistics to its layer's sums at a quay (R234): to those of the step whose accumulators it meets (log 77). -/
def State.addStats (s : State) (q number : Nat) (h : BitVec 256) : State :=
  match frameRecord s number h with
  | none => s
  | some er =>
    let p := frPart h
    let g := s.gov p
    let key := q * 4096 + egLayer er
    let l := tget {} g.stats key
    let l1 : LayerStats :=
      { amax := fmax l.amax (BitVec.ofNat 32 (bits h 151 120))
        sumsq := dadd l.sumsq (f32ToF64 (BitVec.ofNat 32 (bits h 119 88)))
        nonzero := l.nonzero + bits h 87 77
        uMx := l.uMx + bits h 76 66
        uE5 := l.uE5 + bits h 65 55
        uBf := l.uBf + bits h 54 44
        overflow := l.overflow + bits h 43 33 }
    s.setGov p { g with stats := tset g.stats key l1 }

/-- The late window of the ledger: 0 without a membership table (log 25). -/
def lateWindow (s : State) : Nat := match s.ledger.membership with | some m => m.lateWindow | none => 0

/-- The group of a partition's loaded image. -/
def groupOf (s : State) (p : Nat) : Option Nat := (s.part p).image.map (fun i => i.header.group)

/-- The partitions of this module whose image has the same group. -/
def groupParts (s : State) (p : Nat) : List Nat :=
  partsWhere (fun q => (groupOf s q).isSome && groupOf s q == groupOf s p)

/-- The partition that stands for an update domain on this module: the lowest of its group that carries an update record. -/
def feedOf (s : State) (p : Nat) : Option Nat :=
  (groupParts s p).find? (fun q => match (s.part q).image with | some i => i.update.isSome | none => false)

/-- A trained tensor of a partition's domain, so far as this module names it: one that an image of its group names (R253). -/
def domainNames (s : State) (p tid : Nat) : Bool := s.trained tid && (groupParts s p).any (fun q => namesTensor s q tid)

/-- The largest version lag in the STREAM records of the domain's tensors (R305). -/
def lagLambda (s : State) (p : Nat) : Nat :=
  ((groupParts s p).flatMap (planOf s)).foldl (fun m r =>
    if planType r = 0 ∧ domainNames s p (planTensor r) then max m (planLag r) else m) 0

/-- The smallest version window of the domain's tensors (R305). -/
def windowW (s : State) (p : Nat) : Nat :=
  let ws := (s.tensors.filter (fun e => domainNames s p e.1)).map (fun e => recWindow e.2.record)
  match ws with
  | [] => 0
  | w :: l => l.foldl min w

/-- Whether data of step n may still be folded into step m (R306, R307). -/
def mayFold (s : State) (p n m : Nat) : Bool :=
  decide (m - n ≤ lateWindow s) && decide (m - n + lagLambda s p ≤ windowW s p)

/-- The number of frames a column sends for one ROWS instance. -/
def columnFrames (s : State) (p x : Nat) (er : BitVec 512) : Nat :=
  egCount er * (if egSlices er ≤ 32 then 1 else 2) * ((s.enabledCores p).filter (fun c => coreX c == x)).length

/-- The frames of one column's instance among held ones, in ascending tile-index field. -/
def sortFrames (l : List (Nat × EgFrame)) : List (Nat × EgFrame) :=
  let upTo := fun (e f : Nat × EgFrame) => decide (frTile f.2.header ≤ frTile e.2.header)
  l.foldl (fun acc e => acc.takeWhile (upTo e) ++ e :: acc.dropWhile (upTo e)) []

/-- A held frame of the same column and instance as a frame: record, tensor, partition, step and outer index (R232). -/
def sameColumn (x : Nat) (f : EgFrame) (e : Nat × EgFrame) : Bool :=
  e.1 == x && e.2.number == f.number && frTensor e.2.header == frTensor f.header && frPart e.2.header == frPart f.header
    && frStep16 e.2.header == frStep16 f.header && frOuter e.2.header == frOuter f.header

/-- Takes a checked frame into the accumulators and its statistics into the sums: DENSE at once, ROWS when its column's frames are
complete, its statistics as it arrives unless its token is one that is discarded (R232, R234). -/
def State.takeFrame (s : State) (q x : Nat) (r : BitVec 512) (f : EgFrame) : State :=
  let h := f.header
  let p := frPart h
  if frRows h then
    match frameRecord s f.number h with
    | none => s.dropFrame q x p 3
    | some er =>
      let s0 := if (frameToken s q er r h).isSome then s.addStats q f.number h else s
      let qu := s0.quay q
      let same := sameColumn x f
      let all := qu.heldRows.filter same ++ [(x, f)]
      if all.length < columnFrames s0 p x er then s0.setQuay q { qu with heldRows := qu.heldRows ++ [(x, f)] }
      else
        let s1 := s0.setQuay q { qu with heldRows := qu.heldRows.filter (fun e => !same e) }
        ((sortFrames all).foldl (fun t e => t.addRows q (x - bandX t p (egFirstCol er)) er r e.2.header e.2.payload) s1).returnFrames q x all.length
  else (((s.setQuay q ((s.quay q).frames p 0)).addStats q f.number h).addDense r h f.payload).returnFrames q x 1

/-- Whether the update of a partition's present step has begun its reduce-scatter: its domain's update works on that step, or has ended
with it (R272, R307). -/
def scatterBegun (s : State) (p : Nat) : Bool :=
  let run := tget {} s.opt.runs ((feedOf s p).getD p)
  (decide (0 < run.phase) || run.done) && decide (run.step = stepNumber s p)

/-- The intake whose frame in flight this is, and the frame's place: the same frame, else the oldest in flight to the quay (its link
changed it). The crossbar of an edge joins every unit of a partition with every port of the partition (R15, R214). -/
def frameSource (s : State) (q : Nat) (h : BitVec 256) (pay : List Byte) : Option (Nat × Nat) :=
  let place := fun (e : Nat × Intake) (ok : EgFrame → Bool) =>
    (e.2.sent.findIdx? (fun f => decide (frameQuay s e.1 f.header = q) && (s.port f.port).up && ok f)).map (fun i => (e.1, i))
  match s.intakes.findSome? (fun e => place e (fun f => f.header == h && f.payload == pay)) with
  | some r => some r
  | none => s.intakes.findSome? (fun e => place e (fun _ => true))

/-- What a quay does with a checked header (R233, R307). -/
def State.judgeFrame (s : State) (q x : Nat) (f : EgFrame) : State :=
  let h := f.header
  let pay := f.payload
  let p := frPart h
  let bad := decide (bits h 31 0 ≠ crc32c (headerCrcBytes h ++ pay))
  let cur := stepNumber s p
  let n := frameStep cur (frStep16 h)
  match s.recOf (frTensor h) with
  | none => ((s.exclude q p n (frOuter h)).dropFrame q x p 3).event sevDegraded evFrameDiscarded p 3
  | some r =>
    if bad || decide (recPrimary r ≠ q) || recRegion r || !(decide (frFormat h = 1 ∨ frFormat h = 2 ∨ frFormat h = 5)) then
      ((s.exclude q p n (frOuter h)).dropFrame q x p 3).event sevDegraded evFrameDiscarded p 3
    else if isExcluded s p n (frOuter h) then (s.addStats q f.number h).dropFrame q x p 1
    else if frPoison h then s.dropFrame q x p 2
    else if recFrozen r || !s.trained (frTensor h) then s.dropFrame q x p 4
    else if scatterBegun s p then
      let qu := s.quay q
      let size := (qu.lateFrames.map (fun e => 32 + e.2.payload.length)).foldl (· + ·) 0
      if size + 32 + pay.length ≤ 67108864 ∧ (n = cur ∨ mayFold s p n (cur + 1)) then
        { s.setQuay q ({ qu with lateFrames := qu.lateFrames ++ [(x, f)] }.frames p 7) with
          ledger := { s.ledger with framesHeld := satAdd 32 s.ledger.framesHeld 1 } }
      else { s.dropFrame q x p 6 with ledger := { s.ledger with framesDropped := satAdd 32 s.ledger.framesDropped 1 } }
    else if n = cur || mayFold s p n cur then s.takeFrame q x r f
    else { s.dropFrame q x p 6 with ledger := { s.ledger with framesDropped := satAdd 32 s.ledger.framesDropped 1 } }

/-- FRAME_ACCUMULATE: a frame reaches the quay; its credit returns to its unit when it has been added or discarded (R229). -/
def execFrameAccumulate (q : Nat) (header : BitVec 256) (payload : List Byte) (s : State) : Out :=
  onQuay q (
    match frameSource s q header payload with
    | none => s
    | some (key, i) =>
      let ik := s.intake key
      let number := match ik.sent[i]? with | some f => f.number | none => 0
      let s1 := s.setIntake key { ik with sent := ik.sent.eraseIdx i }
      s1.judgeFrame q (key % 192) { number := number, header := header, payload := payload })

/-- The accumulators of a partition's tensors clear at its STEP_START, and the frames held for it are added (R231, R307). -/
def State.clearAccumulators (s : State) (p : Nat) : State :=
  let s1 : State := { s with opt := { s.opt with tensors := s.opt.tensors.map (fun e =>
    if feeds s p e.1 then (e.1, { e.2 with acc := [], touched := [], dense := false }) else e) } }
  (List.range 4).foldl (fun (t : State) q =>
    let qu := t.quay q
    let mine := qu.lateFrames.filter (fun f => frPart f.2.header == p)
    let t1 := t.setQuay q { qu with lateFrames := qu.lateFrames.filter (fun f => frPart f.2.header != p) }
    mine.foldl (fun (u : State) f =>
      match u.recOf (frTensor f.2.header) with
      | some r => u.takeFrame q f.1 r f.2
      | none => u.dropFrame q f.1 p 3) t1) s1

/-- The sums of one layer combined: the largest amax, the sum of everything else. -/
def joinStats (a b : LayerStats) : LayerStats :=
  { amax := fmax a.amax b.amax, sumsq := dadd a.sumsq b.sumsq, nonzero := a.nonzero + b.nonzero, uMx := a.uMx + b.uMx
    uE5 := a.uE5 + b.uE5, uBf := a.uBf + b.uBf, overflow := a.overflow + b.overflow }

/-- Every instance of the present step at which a layer's records open has fired. -/
def layerFired (s : State) (p layer : Nat) : Bool :=
  let pt := s.part p
  (egressOf s p).all (fun r =>
    let e := tideEntry pt (egEntry r)
    let i := if egInner r = 0xFFFF then tideInner e - 1 else egInner r
    egLayer r != layer || decide (instTime pt e pt.stepIndex i (tideOuter e - 1) ≤ pt.cursor))

/-- A quay reports the sums of a layer in a step to the controller, which keeps the number of the step after it. -/
def State.reportStats (s : State) (p step key : Nat) : State :=
  let g := s.gov p
  let layer := key % 4096
  match tfind g.stats key with
  | none => s
  | some l =>
    let sum := match tfind g.reported layer with | some o => joinStats o l | none => l
    s.setGov p { g with
      stats := tdel g.stats key, reported := tset g.reported layer sum, reportedStep := tset g.reportedStep layer (step + 1) }

/-- The governor layers of a partition's egress plan. -/
def layersOf (s : State) (p : Nat) : List Nat := (egressOf s p).foldl (fun l r => addOnce l (egLayer r)) []

/-- A layer of which no frame was summed in a step reports sums of nothing: the governor decides for every layer after every step (R236). -/
def State.reportEmpty (s : State) (p step layer : Nat) : State :=
  let g := s.gov p
  if (tfind g.reported layer).isSome ∨ tget 0 g.reportedStep layer = step + 1 then s
  else s.setGov p { g with reported := tset g.reported layer {}, reportedStep := tset g.reportedStep layer (step + 1) }

/-- The same for a layer of the plan of which no quay holds sums. -/
def State.reportNone (s : State) (p step layer : Nat) : State :=
  if (List.range 4).any (fun q => (tfind (s.gov p).stats (q * 4096 + layer)).isSome) || !decide (layer ∈ layersOf s p) then s
  else s.reportEmpty p step layer

/-- What is left of a step's sums is reported as the next step starts, and an empty report for each layer that had none. -/
def State.reportRest (s : State) (p : Nat) : State :=
  let step := stepNumber s p - 1
  let s1 := (s.gov p).stats.foldl (fun (t : State) e => t.reportStats p step e.1) s
  (layersOf s1 p).foldl (fun (t : State) layer => t.reportNone p step layer) s1

/-- STATISTICS_REPORT: a quay reports a layer's sums when the layer's last instance of the step has closed (R234). -/
def execStatisticsReport (q p layer : Nat) (s : State) : Out :=
  if 4 ≤ q ∨ 8 ≤ p then .fault .noSuchUnit
  else
    let isOpen := s.intakes.any (fun e => e.2.opens.any (fun o => o.part == p && egLayer o.record == layer))
    if isOpen || decide (4096 ≤ layer) || !layerFired s p layer then .next s
    else .next ((s.reportStats p (stepNumber s p) (q * 4096 + layer)).reportNone p (stepNumber s p) layer)

end Sys2Proof.Machine
end

