-- ==== Sys2Proof/Machine/Governors.lean ====
section
/-! DEFINITION. The format governor and its pins (R235-R239), the stash governor (R240-R246), and pins in force (R20). -/

namespace Sys2Proof.Machine

/-! ### Pins (R19, R20) -/

/-- The value of a governor pin for a partition: one written while it runs stays as it was until its next step. -/
def pinFor (s : State) (p idx sub : Nat) : Nat :=
  match (s.ctlOf p).pins.find? (fun e => e.1 == okey idx sub) with
  | some e => e.2
  | none => s.cfg idx sub

/-- A volatile object as a number. -/
def State.volatile (s : State) (idx sub : Nat) : Nat := leNat (tget [] s.sivar.volatileVals (okey idx sub))

/-- A partition of a group, while its module is in a tide domain; every group ID names a group (R165). -/
def inGroup (s : State) (p : Nat) : Bool := s.tide.joined && (s.part p).image.isSome

/-- A partition whose decisions another module makes: it runs in a tide domain, in a group, and this module is not the
root (R238, R242). -/
def decidedElsewhere (s : State) (p : Nat) : Bool := !s.tide.isRoot && inGroup s p

/-! ### Reports of the domain's members (R185, log 80) -/

/-- Reports stand for 64 ticks. -/
def reportFresh (s : State) (r : MemberReport) : Bool := decide (tickOf s.now ≤ r.tick + 64)

/-- The group of a partition's loaded image, 0 for none. -/
def groupNumber (s : State) (p : Nat) : Nat := match (s.part p).image with | some i => i.header.group | none => 0

/-- What a member reports of a group. -/
def reportOn (r : MemberReport) (g : Nat) : List GroupReport := r.groups.filter (fun e => e.group == g)

/-- The newest report of every other member that has run a group. -/
def membersOf (s : State) (g : Nat) : List MemberReport := s.tide.reports.filter (fun r => !(reportOn r g).isEmpty)

/-- The reports that other members of a partition's group have sent, as far as they stand. -/
def groupReports (s : State) (p : Nat) : List MemberReport := (membersOf s (groupNumber s p)).filter (reportFresh s)

/-- What the other members of a partition's group report of it. -/
def groupPeers (s : State) (p : Nat) : List GroupReport := (groupReports s p).flatMap (fun r => reportOn r (groupNumber s p))

/-- The standby root that the configuration names (R185). -/
def standsBy (s : State) : Bool := decide (s.cfg 0x4000 0x0D = s.moduleNumber)

/-! ### Format governor (R236, R237) -/

/-- Whether the size of an exact value is at most a natural number. -/
def fpAtMost (v : Fp) (n : Nat) : Bool :=
  match v with
  | .fin _ m e => if 0 ≤ e then decide (m <<< e.toNat ≤ n) else decide (m ≤ n <<< (-e).toNat)
  | _ => false

/-- The larger of two ratios of counts; a ratio over no values is 0. -/
def maxRatio (a b : Nat × Nat) : Nat × Nat :=
  if b.2 = 0 then a else if a.2 = 0 ∨ a.1 * b.2 < b.1 * a.2 then b else a

/-- A ratio below 2^-10. -/
def ratioSmall (a : Nat × Nat) : Bool := decide (a.2 = 0 ∨ a.1 * 1024 < a.2)

/-- The largest amax and underflow ratios (MX E4M3, E5M2, BF16) over a window. -/
def windowMax (w : List LayerStats) : F32 × List (Nat × Nat) :=
  (w.foldl (fun m x => fmax m x.amax) fZero,
   [w.foldl (fun m x => maxRatio m (x.uMx, x.nonzero)) (0, 0),
    w.foldl (fun m x => maxRatio m (x.uE5, x.nonzero)) (0, 0),
    w.foldl (fun m x => maxRatio m (x.uBf, x.nonzero)) (0, 0)])

/-- The scale exponent for the next step. -/
def nextK (aHat : F32) : Int :=
  match fpTop (ofF32 aHat) with
  | none => 0
  | some t => max (-127) (min 127 (13 - t))

/-- The choice of R236, as a format code (R52): 2 MX E4M3, 1 E5M2, 5 BF16. -/
def formatChoice (aHat : F32) (u : List (Nat × Nat)) : Nat :=
  let a2 := scaleFp 1 (ofF32 aHat)
  if ratioSmall (u.getD 0 (0, 0)) then 2
  else if ratioSmall (u.getD 1 (0, 0)) && fpAtMost (scaleFp (nextK aHat) a2) 57344 then 1
  else 5

/-- One decision of a layer over a window of steps. What a pin or a forced period makes of it is settled at the STEP_START instance that
it takes effect at (R20, R237). -/
def FormatState.decideOver (l : FormatState) (win : List LayerStats) : FormatState :=
  let m := windowMax win
  let choice := formatChoice m.1 m.2
  let run := if choice = l.inForce then 0 else if choice = l.lastChoice then l.run + 1 else 1
  { l with
    window := win
    aHat := m.1
    uHat := m.2
    run := run
    lastChoice := choice
    pendingFormat := if 4 ≤ run then choice else l.inForce
    pendingK := nextK m.1 }

/-- The decision of a layer over its completed step's sums, for the step `next` (R236). -/
def FormatState.decide (l : FormatState) (st : LayerStats) (next : Nat) : FormatState :=
  let w := l.window ++ [st]
  { l.decideOver (w.drop (w.length - 16)) with decidedFor := next }

/-- The decision of a layer over the steps before one whose statistics have not all come (R238). -/
def FormatState.decideLate (l : FormatState) : FormatState := l.decideOver l.window

/-- The next STEP_START instance of a partition after its present mark (R156). -/
def nextStepStart (pt : Partition) : Nat :=
  let l := ((tideTable pt).filter tideStepStart).map (fun e =>
    let n := nextInst pt e pt.cursor
    instTime pt e n.1 n.2.1 n.2.2)
  match l with
  | [] => 0
  | t :: ts => ts.foldl min t

/-- A format and its scale exponent as one number. -/
def formatWord (f : Nat) (k : Int) : Nat := 256 * f + unsignedOf 8 k

/-- The statistics that a member has reported for a layer of a group in a step. -/
def memberStats (r : MemberReport) (group step layer : Nat) : Option LayerStats :=
  (r.stats.find? (fun e => e.1 == group && e.2.1 == step && e.2.2.1 == layer)).map (fun e => e.2.2.2)

/-- The statistics of a layer's step over the members of a partition's group: the largest amax, the sums of the rest (R238); none while
some member's has not come, a silent one's included. -/
def groupStats (s : State) (p step layer : Nat) (own : LayerStats) : Option LayerStats :=
  let rs := (membersOf s (groupNumber s p)).map (fun r => memberStats r (groupNumber s p) step layer)
  if rs.all (fun r => r.isSome) then some ((rs.filterMap id).foldl joinStats own) else none

/-- A layer of a member that the root decides for: its measurements and choice are its own, or the group's at the standby root, which
computes the decision and announces none; what is pending stays the root's (R185, R239). -/
def FormatState.shadow (l : FormatState) (st : LayerStats) : FormatState :=
  { l.decide st 0 with pendingFormat := l.pendingFormat, pendingK := l.pendingK, decidedFor := l.decidedFor }

/-- The controller's decision on one layer's reported sums (R236, R238). A member keeps them for its reports to the root; the root
waits for the other members' until 64 ticks before the next STEP_START instance, and decides on the steps before when one is missing
then. -/
def State.decideFormat (s : State) (p layer : Nat) (st : LayerStats) : State :=
  let g := s.gov p
  let l := tget {} g.layers layer
  let step := tget 0 g.reportedStep layer - 1
  let g1 := { g with reported := tdel g.reported layer }
  let kept := g.toRoot.filter (fun e => e.1 != layer) ++ [(layer, step, st)]
  let joined := groupStats s p step layer st
  if decidedElsewhere s p then
    s.setGov p { g1 with
      toRoot := kept
      layers := tput {} g.layers layer (l.shadow (if standsBy s then joined.getD st else st)) }
  else
    match (if inGroup s p then joined else some st) with
    | some sum =>
      (s.setGov p { g1 with toRoot := kept, layers := tput {} g.layers layer (l.decide sum (step + 1)) }).journal jFormat
        (p * 4096 + layer) (nextStepStart (s.part p))
    | none =>
      if s.now + 64 * cyPerTick < nextStepStart (s.part p) then s
      else
        (s.setGov p { g1 with toRoot := kept, layers := tput {} g.layers layer l.decideLate }).journal jFormat (p * 4096 + layer)
          (nextStepStart (s.part p))

/-- FORMAT_DECISION: after a completed step, once every quay has reported its statistics; in a tide domain a member sends them
to the root, which decides for the group. -/
def execFormatDecision (p layer : Nat) (s : State) : Out :=
  onPart p (
    let g := s.gov p
    let waiting := (List.range 4).any (fun q => (tfind g.stats (q * 4096 + layer)).isSome)
    match tfind g.reported layer with
    | none => s
    | some st => if waiting then s else s.decideFormat p layer st)

/-- The format code of a layer pin. -/
def pinFormat (pin : Nat) : Nat := if pin = 1 then 2 else if pin = 2 then 1 else 5

/-- The format and scale exponent that take force at a STEP_START instance: a layer's pin, the module's hold, a forced step or
test mode, else the governor's decision (R236, R237, R239); where a group's root decides, a decision that was not made for the
step that starts is flagged (R238). -/
def FormatState.take (l : FormatState) (hold test grouped : Bool) (step : Nat) : FormatState :=
  let pin := l.pinNext.getD l.pin
  let f := if pin ≠ 0 then pinFormat pin else if hold then l.inForce
    else if 1 < l.forced ∨ test then 1 else l.pendingFormat
  { l with
    inForce := f, k := l.pendingK, pin := pin, pinNext := none, forced := l.forced - 1, pendingFormat := f,
    delayed := grouped && (l.decidedFor != step) }

/-- Rewrites the format and scale exponent of a layer in the units' copy of the egress records (R169, R235). -/
def setImageFormat (img : Image) (layer format : Nat) (k : Int) : Image :=
  { img with egress := img.egress.map (fun r =>
      if egLayer r = layer then recPut (recPut r 1 1 format) 2 1 (unsignedOf 8 k) else r) }

/-- Puts a layer's format and scale exponent into the loaded copy of the plan. -/
def State.putFormat (s : State) (p layer format : Nat) (k : Int) : State :=
  let pt := s.part p
  s.setPart p { pt with image := pt.image.map (fun i => setImageFormat i layer format k) }

/-- The format decisions of every layer take effect at a STEP_START instance, an INFO event for each change (R235); the step report
lists each beside the governor's own choice (R18, R20). -/
def State.applyFormats (s : State) (p : Nat) : State :=
  (layersOf s p).foldl (fun (t : State) layer =>
    let g := t.gov p
    let l := tget {} g.layers layer
    let n := l.take (decide (s.cfg 0x6100 1 = 1)) (decide (s.volatile 0x6100 2 = 1)) (inGroup s p) (stepNumber t p)
    let t1 := (((t.setGov p { g with layers := tput {} g.layers layer n }).putFormat p layer n.inForce n.k).decided
      p jFormat (p * 4096 + layer) (formatWord n.inForce n.k) (formatWord l.pendingFormat l.pendingK)).journalDone
        jFormat (p * 4096 + layer)
    if n.inForce = l.inForce then t1 else t1.event sevInfo evFormatChange p (layer * 256 + n.inForce)) s

/-- The governors at a launch: what they hold by step number goes, as a launch may run the same steps again; a launch clears window, run and
last choice, a relaunch by recovery keeps them, and the
first 64 steps are E5M2 (R237). Pins stay. -/
def State.launchFormats (s : State) (p : Nat) (recovery : Bool) : State :=
  let g := s.gov p
  let test := fun (layer : Nat) => (egressOf s p).find? (fun r => egLayer r == layer)
  let hold := decide (s.cfg 0x6100 1 = 1)
  let ls : Tbl FormatState := (layersOf s p).foldl (fun m layer =>
    let old := tget {} g.layers layer
    let r := (test layer).getD 0
    let pin := old.pinNext.getD old.pin
    let own := if recovery then old.inForce else egFormat r
    let f := if pin ≠ 0 then pinFormat pin else if hold then own else 1
    let base : FormatState := if recovery then old else { pendingK := egK r, k := egK r }
    tput {} m layer { base with inForce := f, pendingFormat := f, pin := pin, pinNext := none, forced := 64 }) []
  let s1 := s.setGov p { g with
    layers := ls, stats := [], reported := [], reportedStep := [], toRoot := [], stashHeard := [], stashDone := [] }
  (layersOf s p).foldl (fun (t : State) layer =>
    let l := tget {} ls layer
    t.putFormat p layer l.inForce l.k) s1

/-- The layer pin at `0x6100.20`: E_RANGE, then E_INDEX; a running partition takes it at its next step. -/
def doLayerPin (p layer pin : Nat) (s : State) : State × Nat :=
  if 3 < pin ∨ 8 ≤ p then (s, stRange)
  else if !decide (layer ∈ layersOf s p) then (s, stIndex)
  else
    let g := s.gov p
    let l := tget {} g.layers layer
    let n := if (s.part p).marks then { l with pinNext := some pin } else { l with pin := pin, pinNext := none }
    (s.setGov p { g with layers := tput {} g.layers layer n }, stOk)

/-- LAYER_PIN. -/
def execLayerPin (cl : Client) (p layer pin : Nat) (s : State) : Out := .next (s.command cl false (doLayerPin p layer pin))

/-! ### Stash governor (R242-R246) -/

/-- The stash layouts of a partition's image that lie on variant bits. -/
def stashVariants (s : State) (p : Nat) : List StashLayout :=
  match (s.part p).image with
  | some img => img.stash.filter (fun l => decide (l.kind ≠ 0))
  | none => []

/-- The word of every stash bit. -/
def stashMask (s : State) (p : Nat) : BitVec 16 :=
  BitVec.ofNat 16 ((stashVariants s p).foldl (fun m l => m ||| 2 ^ l.bit) 0)

/-- The policy in force: the partition's, or the module's where it follows that (R246). -/
def stashPolicy (s : State) (p : Nat) : Nat :=
  if pinFor s p 0x6200 (2 + p) = 0xFF then pinFor s p 0x6200 1 else pinFor s p 0x6200 (2 + p)

/-- What is wanted for a micro-batch (R243). -/
inductive StashWant where | none | variant (l : StashLayout) | fault
deriving DecidableEq, Repr

/-- The candidate of least capacity, then lowest bit. -/
def leastStash : List StashLayout → Option StashLayout
  | [] => none
  | l :: ls => some (ls.foldl (fun m x => if x.smax < m.smax ∨ (x.smax = m.smax ∧ x.bit < m.bit) then x else m) l)

/-- The stash governor's rule under a policy (R243). -/
def stashWantFor (s : State) (p pol segs : Nat) (base : StashLayout) : StashWant :=
  if segs ≤ base.smax then .none
  else
    let kind := if pol = 0 then 1 else 2
    let cand := (stashVariants s p).filter (fun v =>
      v.kind == kind && decide (segs ≤ v.smax) && ((s.part p).elastic || decide (v.extra = 0)))
    if pol = 2 then .fault
    else
      match leastStash cand with
      | some v => .variant v
      | none => .fault

/-- The stash governor's rule. -/
def stashWant (s : State) (p segs : Nat) (base : StashLayout) : StashWant := stashWantFor s p (stashPolicy s p) segs base

/-- A decision of the stash governor as a number: the detail of its event, 256 * 255 for no bit, 65,536 for a fault. -/
def StashWant.word : StashWant → Nat
  | .none => 256 * 0xFF
  | .variant v => 256 * v.bit + v.kind
  | .fault => 65536

/-- Time of a request's instance. -/
def reqTime (pt : Partition) (r : VariantReq) : Nat := instTime pt (tideEntry pt r.entry) r.step r.inner r.outer

/-- Adds a line to the stash log; the last 256 are kept (R246). -/
def State.stashLine (s : State) (p : Nat) (l : StashLine) : State :=
  let g := s.gov p
  let xs := g.stashLog ++ [l]
  s.setGov p { g with stashLog := xs.drop (xs.length - 256) }

/-- A mark at a time has passed in some other member of a partition's group, as its report says (R170). -/
def passedElsewhere (s : State) (p time : Nat) : Bool := (groupPeers s p).any (fun e => decide (time ≤ e.passed)) && inGroup s p

/-- A request is made only where its instance lies at least one tick ahead and has passed in no member, else it is refused with E_TIMEOUT
and the word stays (R170); the journal and the log hold it. -/
def State.requestStash (s : State) (p o kind segs smax bit : Nat) (r : VariantReq) : State :=
  let pt := s.part p
  let time := reqTime pt r
  if time < s.now + cyPerTick ∨ passedElsewhere s p time then s.answer stTimeout
  else
    let s1 := (s.journal jStash p time).stashLine p
      { time := time, step := pt.n0 + r.step, outer := o, bit := bit, kind := kind, s := segs, smax := smax }
    if kind = 3 then s1.setCtl p { s1.ctlOf p with overflowAt := (s1.ctlOf p).overflowAt ++ [r] }
    else s1.setPart p { s1.part p with latches := (s1.part p).latches ++ [r] }

/-- The word in force once the requests already made have latched. -/
def wordAhead (s : State) (p : Nat) : BitVec 16 :=
  (s.part p).latches.foldl (fun (w : BitVec 16) r => (w &&& ~~~r.mask) ||| (r.word &&& r.mask)) (s.part p).variant

/-- The request for a layout in a micro-batch of step index `step`. -/
def stashRequest (s : State) (p step o segs : Nat) (b l : StashLayout) (w : BitVec 16) (detail : Nat) : VariantReq :=
  { mask := stashMask s p, word := w, entry := l.latchEntry, inner := l.latchInner, outer := o, step := step
    detail := some detail, choice := some (stashWantFor s p 0 segs b).word }

/-- A decision that asks for nothing, as no bit is wanted and none is set, is journalled and logged, and its event comes at the base latch
instance (R244): what waits for that instance changes no bit. -/
def State.noteStash (s : State) (p o segs smax : Nat) (r : VariantReq) : State :=
  let time := reqTime (s.part p) r
  let s1 := (s.journal jStash p time).stashLine p
    { time := time, step := (s.part p).n0 + r.step, outer := o, bit := 0xFF, kind := 0, s := segs, smax := smax }
  if time ≤ s.now then (s1.event sevInfo evStashDecision p (256 * 0xFF)).journalDone jStash p
  else s1.setPart p { s1.part p with latches := (s1.part p).latches ++ [{ r with mask := 0 }] }

/-- The stash decision of a micro-batch: step index, outer index, measured segments (R244). -/
def State.decideStash (s : State) (p step o segs : Nat) : State :=
  match baseLayout s p with
  | none => s
  | some b =>
    match stashWant s p segs b with
    | .none =>
      let r := stashRequest s p step o segs b b 0 (256 * 0xFF)
      if wordAhead s p &&& stashMask s p ≠ 0 then s.requestStash p o 0 segs b.smax 0xFF r else s.noteStash p o segs b.smax r
    | .variant v =>
      s.requestStash p o v.kind segs v.smax v.bit (stashRequest s p step o segs b v (BitVec.ofNat 16 (2 ^ v.bit)) (256 * v.bit + v.kind))
    | .fault => s.requestStash p o 3 segs b.smax 0xFF (stashRequest s p step o segs b b 0 segs)

/-- The word that a member's own rule asks for, as it reports it to the root: no bit to change where nothing is to be requested, or a fault
is wanted (log 80). -/
def stashNote (s : State) (p step o segs : Nat) : Option VariantNote :=
  (baseLayout s p).map (fun b =>
    let note := fun (r : VariantReq) (mask : BitVec 16) =>
      ({ group := groupNumber s p, mask := mask, word := r.word, time := reqTime (s.part p) r } : VariantNote)
    match stashWant s p segs b with
    | .none => note (stashRequest s p step o segs b b 0 0) (if wordAhead s p &&& stashMask s p ≠ 0 then stashMask s p else 0)
    | .variant v => note (stashRequest s p step o segs b v (BitVec.ofNat 16 (2 ^ v.bit)) 0) (stashMask s p)
    | .fault => note (stashRequest s p step o segs b b 0 0) 0)

/-- The segments that this module's quays measured for a micro-batch: the largest number (R242). -/
def ownSegments (s : State) (p step o : Nat) : Option Nat :=
  (s.quays.flatMap (fun e => (e.2.segments.filter (fun m => m.1 == p && m.2.1 == step && m.2.2.1 == o)).map (fun m => m.2.2.2))).foldl
    (fun (m : Option Nat) n => some (max n (m.getD 0))) none

/-- The largest number that any member of the group measured for a micro-batch, as far as it is known here (R242). -/
def groupSegments (s : State) (p step o : Nat) : Option Nat :=
  (ownSegments s p step o).map (fun n =>
    ((groupReports s p).flatMap (fun r =>
      (r.segments.filter (fun m => m.1 == groupNumber s p && m.2.1 == step && m.2.2.1 == o)).map (fun m => m.2.2.2))).foldl max n)

/-- STASH_DECISION: once for each micro-batch whose segments a quay has measured (`step` is the step number, `o` the
micro-batch); in a tide domain the root decides for the group, on the largest number that a member measured (R242). -/
def execStashDecision (p step o segs : Nat) (s : State) : Out :=
  onPart p (
    let pt := s.part p
    let measured := decide (groupSegments s p step o = some segs)
    let done := decide ((step, o) ∈ (s.gov p).stashDone)
    if !pt.marks || !measured || done || decidedElsewhere s p || decide (step < pt.n0) then s
    else
      (s.setGov p { s.gov p with stashDone := (s.gov p).stashDone ++ [(step, o)] }).decideStash p (step - pt.n0) o segs)

end Sys2Proof.Machine
end

