-- ==== Sys2Proof/Machine/Update.lean ====
section
/-! DEFINITION. What the parameter update computes: domains, slabs and shards (R249, R253, R297), the norm (R255, R256), the
Adam-type rule (R258-R261), the block preconditioner (R263-R266), the stream copy (R267), and the update engines (R251). -/

namespace Sys2Proof.Machine

/-! ### Group and domain records (R274, R275) -/

/-- An FP32 field of a record. -/
def recF32 (r : BitVec 512) (lo : Nat) : F32 := BitVec.ofNat 32 (recAt r lo 4)

def grpStochastic (g : BitVec 512) : Bool := decide (recByte g 2 = 1)
def grpBeta1 (g : BitVec 512) : F32 := recF32 g 4
def grpBeta2 (g : BitVec 512) : F32 := recF32 g 8
def grpEps (g : BitVec 512) : F32 := recF32 g 12
def grpWd (g : BitVec 512) : F32 := recF32 g 16
def grpLrmul (g : BitVec 512) : F32 := recF32 g 20
def grpGmul (g : BitVec 512) : F32 := recF32 g 24
def grpK (g : BitVec 512) : Nat := recAt g 32 2
def grpExp (g : BitVec 512) : Nat := recByte g 34
def grpIters (g : BitVec 512) : Nat := recByte g 35
def grpDelta (g : BitVec 512) : F32 := recF32 g 36
def grpTau (g : BitVec 512) : F32 := recF32 g 40
def grpSeed (g : BitVec 512) : Nat := recAt g 48 8

/-- The domain record of the model fed by a partition. -/
def domainRec (s : State) (p : Nat) : List Byte := s.cfgBytes 0x6000 (0x20 + p)

/-- The clip threshold: 0 by default. -/
def domTheta (d : List Byte) : F32 := BitVec.ofNat 32 (leAt d 0 4)

/-- The breakpoints of a schedule; by default (0, 0.0). -/
def domPoints (d : List Byte) : List (Nat × F32) :=
  if d.isEmpty then [(0, fZero)]
  else (List.range (leAt d 4 2)).map (fun i => (leAt d (16 * i + 16) 8, BitVec.ofNat 32 (leAt d (16 * i + 24) 4)))

/-- FP64 difference. -/
def dsub (a b : F64) : F64 := toF64 (addFp (ofF64 a) (negFp (ofF64 b)))

/-- The learning rate of a step (R259). -/
def lrAt : List (Nat × F32) → Nat → F64
  | [], _ => 0
  | [(_, l)], _ => f32ToF64 l
  | (n0, l0) :: (n1, l1) :: rest, n =>
    if n ≤ n0 then f32ToF64 l0
    else if n < n1 then
      dadd (f32ToF64 l0) (ddiv (dmul (dsub (f32ToF64 l1) (f32ToF64 l0)) (f64OfNat (n - n0))) (f64OfNat (n1 - n0)))
    else lrAt ((n1, l1) :: rest) n

/-! ### Domains (R253) -/

def State.run (s : State) (p : Nat) : UpdateRun := tget {} s.opt.runs p
def State.setRun (s : State) (p : Nat) (r : UpdateRun) : State := { s with opt := { s.opt with runs := tput {} s.opt.runs p r } }

/-- Whether a domain's update is in work; it then keeps to what was fixed as it began, whatever is launched (R252, R254). -/
def State.updating (s : State) (p : Nat) : Bool := decide (0 < (s.run p).phase)

/-- The ledger ID of a domain. -/
def ledgerOf (s : State) (p : Nat) : Nat := if s.updating p then (s.run p).report.domain else (groupOf s p).getD 0

/-- The tensors of an update domain, in ascending ID. -/
def domainTensors (s : State) (p : Nat) : List Nat :=
  if s.updating p then (s.run p).par.map (fun e => e.1) else (s.tensors.map (fun e => e.1)).filter (domainNames s p)

/-- The group record by which a domain updates a tensor: that fixed as the update began (R252). -/
def groupFor (s : State) (p tid : Nat) : BitVec 512 :=
  if s.updating p then tget 0 (s.run p).par tid else s.groupRec (s.optOf tid).group

/-- The entries of an update record: 0 reduce-scatter, 1 pass one, 2 pass two, 3 publication. -/
def updEntry (r : BitVec 128) (i : Nat) : Nat := bits r (16 * i + 15) (16 * i)

/-- The update record that a partition's image carries. -/
def updateRec (s : State) (p : Nat) : Option (BitVec 128) :=
  match (s.part p).image with
  | some i => i.update
  | none => none

/-- The time of the last instance of an entry in a step (index from the launch). -/
def lastInstance (pt : Partition) (entry step : Nat) : Nat :=
  let e := tideEntry pt entry
  instTime pt e step (tideInner e - 1) (tideOuter e - 1)

/-! ### Slabs and shards (R249, R297) -/

/-- Elements of a slab. -/
def slabSize : Nat := 16384

/-- Mirror copies of optimizer state stand under the tensor ID plus this. -/
def mirrorKey : Nat := 2 ^ 24

/-- The tensor of an optimizer key. -/
def baseTid (k : Nat) : Nat := k % mirrorKey

/-- Elements of a tensor. -/
def elemsOf (s : State) (tid : Nat) : Nat := match s.recOf tid with | some r => 1024 * recTiles r | none => 0

/-- Slabs of a tensor. -/
def slabCount (s : State) (tid : Nat) : Nat := ceilDiv (elemsOf s tid) slabSize

/-- First element and element count of a slab. -/
def slabSpan (s : State) (tid j : Nat) : Nat × Nat := (slabSize * j, min slabSize (elemsOf s tid - slabSize * j))

/-- The key of an element of a tensor. -/
def ekey (tid e : Nat) : Nat := tid * 2 ^ 43 + e

/-- The slabs of a domain, by tensor and slab. -/
def domainSlabs (s : State) (p : Nat) : List (Nat × Nat) :=
  (domainTensors s p).flatMap (fun tid => (List.range (slabCount s tid)).map (fun j => (tid, j)))

/-- Tiles of one row of blocks of a PRECOND tensor, none for another rule. -/
def blockRowTiles (s : State) (p tid : Nat) : Option Nat :=
  match s.recOf tid with
  | none => none
  | some r =>
    let g := groupFor s p tid
    if grpRule g = 2 then some (grpBout g / 32 * recTin r) else none

/-- Moves a boundary forward to a row of blocks, or to the tensor's end (R297). -/
def alignBound (s : State) (p : Nat) (slabs : List (Nat × Nat)) (b : Nat) : Nat :=
  match slabs[b]? with
  | none => slabs.length
  | some (tid, j) =>
    match blockRowTiles s p tid with
    | none => b
    | some t =>
      if j = 0 ∨ t = 0 then b
      else
        let n := slabCount s tid
        match (List.range (n - j)).find? (fun i => (16 * (j + i)) % t == 0) with
        | some i => b + i
        | none => b + (n - j)

/-- The membership table of a domain, where the ledger has one with its ID; an update in work keeps the one it began with (R318). -/
def tableOf (s : State) (p : Nat) : Option Membership :=
  if s.updating p then (s.run p).table
  else
    match s.ledger.membership with
    | some m => if m.ledger = ledgerOf s p then some m else none
    | none => none

/-- A member's place in a ledger: ranks M, domains D, rank i, domain index d. -/
structure Place where
  m : Nat
  dd : Nat
  i : Nat
  d : Nat
deriving DecidableEq, Repr

/-- This module's place: alone in a ledger of its own where there is no table (R296). -/
def placeOf (s : State) (p : Nat) : Place :=
  match tableOf s p with
  | none => { m := 1, dd := 1, i := 0, d := 0 }
  | some t =>
    match t.members.find? (fun x => x.module == s.moduleNumber) with
    | none => { m := 1, dd := 1, i := 0, d := 0 }
    | some x => { m := t.members.length / max 1 t.domains, dd := t.domains, i := x.rank, d := x.domain }

/-- The module of rank i in domain d. -/
def memberModule (s : State) (p i d : Nat) : Nat :=
  match tableOf s p with
  | none => s.moduleNumber
  | some t => match t.members.find? (fun x => x.rank == i && x.domain == d) with | some x => x.module | none => s.moduleNumber

/-- Slab range of slice i. -/
def sliceRange (s : State) (p : Nat) (pl : Place) (i : Nat) : Nat × Nat :=
  let slabs := domainSlabs s p
  let ns := slabs.length
  (alignBound s p slabs (ns * i / pl.m), if i + 1 = pl.m then ns else alignBound s p slabs (ns * (i + 1) / pl.m))

/-- Slab range of shard (i, d). -/
def shardRange (s : State) (p : Nat) (pl : Place) (i d : Nat) : Nat × Nat :=
  let slabs := domainSlabs s p
  let r := sliceRange s p pl i
  let n := r.2 - r.1
  (min r.2 (alignBound s p slabs (r.1 + n * d / pl.dd)),
   if d + 1 = pl.dd then r.2 else min r.2 (alignBound s p slabs (r.1 + n * (d + 1) / pl.dd)))

/-- The slabs of a range whose tensors have a primary quay, each with its place in the domain's list. -/
def slabsIn (s : State) (p q : Nat) (r : Nat × Nat) : List (Nat × Nat × Nat) :=
  ((domainSlabs s p).zipIdx.filter (fun e => decide (r.1 ≤ e.2 ∧ e.2 < r.2)
    && (match s.recOf e.1.1 with | some x => recPrimary x == q | none => false))).map (fun e => (e.2, e.1.1, e.1.2))

/-- Slabs that quay q holds as the slice owner of slice i. -/
def sliceSlabs (s : State) (p q i : Nat) : List (Nat × Nat × Nat) := slabsIn s p q (sliceRange s p (placeOf s p) i)

/-- Slabs of shard (i, d) in quay q. -/
def shardSlabs (s : State) (p q i d : Nat) : List (Nat × Nat × Nat) := slabsIn s p q (shardRange s p (placeOf s p) i d)

/-- The number of shard (i, d) in quay q (R297). -/
def shardNo (pl : Place) (i d q : Nat) : Nat := 4 * (pl.dd * i + d) + q

/-- Rank, domain and quay of a shard number. -/
def shardPlace (pl : Place) (n : Nat) : Nat × Nat × Nat := (n / 4 / pl.dd, n / 4 % pl.dd, n % 4)

/-- Slabs of a shard number. -/
def shardSlabsNo (s : State) (p n : Nat) : List (Nat × Nat × Nat) :=
  let x := shardPlace (placeOf s p) n
  shardSlabs s p x.2.2 x.1 x.2.1

/-- The shards of a domain that hold slabs, in ascending number; the others take no part. -/
def liveShards (s : State) (p : Nat) : List Nat :=
  let pl := placeOf s p
  (List.range (4 * pl.m * pl.dd)).filter (fun n => !(shardSlabsNo s p n).isEmpty)

/-- This module's own shard number in a quay. -/
def ownShard (s : State) (p q : Nat) : Nat := let pl := placeOf s p; shardNo pl pl.i pl.d q

/-- The quays of this module that hold slabs of its slice. -/
def activeQuays (s : State) (p : Nat) : List Nat :=
  (List.range 4).filter (fun q => !(sliceSlabs s p q (placeOf s p).i).isEmpty)

/-- The quays of this module that hold slabs of its shard. -/
def shardQuays (s : State) (p : Nat) : List Nat :=
  (List.range 4).filter (fun q => !(shardSlabsNo s p (ownShard s p q)).isEmpty)

/-- The exchange of a domain in a quay. -/
def State.exchange (s : State) (p q : Nat) : Exchange := tget {} s.ledger.exchange (4 * p + q)
def State.setExchange (s : State) (p q : Nat) (e : Exchange) : State :=
  { s with ledger := { s.ledger with exchange := tput {} s.ledger.exchange (4 * p + q) e } }
def State.engines (s : State) (q : Nat) : Engines := tget {} s.opt.engines q
def State.setEngines (s : State) (q : Nat) (e : Engines) : State :=
  { s with opt := { s.opt with engines := tput {} s.opt.engines q e } }

/-! ### Pass one (R255, R256) -/

/-- The pairwise tree over 2^k values. -/
def treeSum : Nat → List F64 → F64
  | 0, xs => xs.headD 0
  | k + 1, xs => dadd (treeSum k (xs.take (2 ^ k))) (treeSum k (xs.drop (2 ^ k)))

/-- The least power of two, as its exponent, that holds n values. -/
def treeDepth (n : Nat) : Nat := if n ≤ 1 then 0 else Nat.log2 (n - 1) + 1

/-- The tree over a list padded with +0.0. -/
def treeOf (xs : List F64) : F64 := let k := treeDepth xs.length; treeSum k (xs ++ List.replicate (2 ^ k - xs.length) 0)

/-- A slab's partial: FP64 sum of exact squares in ascending element order. -/
def slabPartial (store : Tbl F32) (tid first n : Nat) (gmul : F32) : F64 :=
  (List.range n).foldl (fun q i =>
    let g := f32ToF64 (fmul (tget fZero store (ekey tid (first + i))) gmul)
    dadd q (dmul g g)) 0

/-- The clip factor (R256). -/
def clipFactor (g2 : F64) (theta : F32) : F32 :=
  let norm := dsqrt g2
  let t := f32ToF64 theta
  if isZero theta || ofF64 norm == .nan || !(decide (t.toNat < norm.toNat)) then fOne else f64ToF32 (ddiv t norm)

/-- Whether an FP64 value is infinite or not a number (R257). -/
def dFinite (x : F64) : Bool := fpFinite (ofF64 x)

/-! ### The Adam-type rule (R258-R261) -/

/-- pw over the bits of a count below 2^k, most significant first. -/
def pwBits (beta : F64) (c : Nat) : Nat → F64 → F64
  | 0, acc => acc
  | k + 1, acc =>
    let sq := dmul acc acc
    pwBits beta c k (if c.testBit k then dmul sq beta else sq)

/-- pw(beta, c) (R258). -/
def pw (beta : F32) (c : Nat) : F64 := pwBits (f32ToF64 beta) c (if c = 0 then 0 else Nat.log2 c + 1) (f64OfNat 1)

/-- The shared parameters of a tensor's update. -/
structure AdamPar where
  beta1 : F32
  beta2 : F32
  omb1 : F32
  omb2 : F32
  eps : F32
  gmul : F32
  cf : F32
  lrg : F32
  lrwd : F32
deriving DecidableEq, Repr

/-- The parameters from a group record, the step's learning rate and the clip factor. -/
def adamPar (g : BitVec 512) (lr : F64) (cf : F32) : AdamPar :=
  let lrg := f64ToF32 (dmul lr (f32ToF64 (grpLrmul g)))
  { beta1 := grpBeta1 g, beta2 := grpBeta2 g, omb1 := fsub fOne (grpBeta1 g), omb2 := fsub fOne (grpBeta2 g)
    eps := grpEps g, gmul := grpGmul g, cf := cf, lrg := lrg, lrwd := fmul lrg (grpWd g) }

/-- One element after the rule up to d: new moments, mh and d. -/
structure AdamOut where
  g : F32
  m : F32
  v : F32
  mh : F32
  d : F32
deriving DecidableEq, Repr

/-- The rule of R260 for one element, up to d. -/
def adamStep (a : AdamPar) (c : Nat) (acc m v : F32) : AdamOut :=
  let bc1 := f64ToF32 (dsub (f64OfNat 1) (pw a.beta1 c))
  let bc2 := f64ToF32 (dsub (f64OfNat 1) (pw a.beta2 c))
  let g := fmul (fmul acc a.gmul) a.cf
  let m1 := ffma a.beta1 m (fmul a.omb1 g)
  let v1 := ffma a.beta2 v (fmul a.omb2 (fmul g g))
  let mh := fdiv m1 bc1
  let vh := fdiv v1 bc2
  { g := g, m := m1, v := v1, mh := mh, d := fdiv mh (fadd (fsqrt vh) a.eps) }

/-- Weight decay, then the step along h. -/
def adamWeight (a : AdamPar) (w h : F32) : F32 := ffma (fneg a.lrg) h (ffma (fneg a.lrwd) w w)

/-- A moment as it is written: rounded to BF16 and widened where the group says so. -/
def momentOut (bf16 : Bool) (x : F32) : F32 := if bf16 then widen 5 (roundFp fmtBF16 none (ofF32 x)) 0 else x

/-- The output feature of an element: its row of an EMBEDDING. -/
def elemRow (tin e : Nat) : Nat := e / 1024 / tin * 32 + e % 32

/-- Writes one element's new values. -/
def OptState.putElem (o : OptState) (e : Nat) (w m v : F32) : OptState :=
  { o with w := tput fZero o.w e w, m := tput fZero o.m e m, v := tput fZero o.v e v }

/-- The state of a row before update u: copy (u - 1) mod 2. -/
def rowOld (o : OptState) (u row : Nat) : RowState := let r := tget ({}, {}) o.rows row; if (u - 1) % 2 = 0 then r.1 else r.2

/-- Writes copy u mod 2 of a row. -/
def OptState.putRow (o : OptState) (u row : Nat) (n : RowState) : OptState :=
  let r := tget ({}, {}) o.rows row
  { o with rows := tput ({}, {}) o.rows row (if u % 2 = 0 then (n, r.2) else (r.1, n)) }

/-- One element of a lazy row that is touched: the missed decay, then the rule with the row's own count (R261). -/
def lazyElem (a : AdamPar) (bf16 : Bool) (o : OptState) (u row e : Nat) (acc : F32) : OptState :=
  let st := rowOld o u row
  let k := u - st.last - 1
  let m0 := fmul (tget fZero o.m e) (f64ToF32 (pw a.beta1 k))
  let v0 := fmul (tget fZero o.v e) (f64ToF32 (pw a.beta2 k))
  let r := adamStep a (st.count + 1) acc m0 v0
  o.putElem e (adamWeight a (tget fZero o.w e) r.d) (momentOut bf16 r.m) (momentOut bf16 r.v)

/-- One element of a dense update. -/
def denseElem (a : AdamPar) (bf16 : Bool) (o : OptState) (u e : Nat) (acc : F32) : OptState :=
  let r := adamStep a u acc (tget fZero o.m e) (tget fZero o.v e)
  o.putElem e (adamWeight a (tget fZero o.w e) r.d) (momentOut bf16 r.m) (momentOut bf16 r.v)

/-- The slabs of a row that a quay holds of a shard: the lowest of them writes the row's new state. -/
def rowSlabs (tin row : Nat) (slabs : List Nat) : List Nat :=
  slabs.filter (fun j => (List.range 16).any (fun t => decide ((16 * j + t) / tin = row / 32)))

/-- Pass two over a slab of an ADAM tensor; `slabs` are the tensor's slabs in the quay's shard. -/
def adamSlab (s : State) (a : AdamPar) (g : BitVec 512) (key : Nat) (o : OptState) (store : Tbl F32) (rows : List Nat)
    (slabs : List Nat) (j : Nat) : OptState :=
  let tid := baseTid key
  match s.recOf tid with
  | none => o
  | some r =>
    let tin := recTin r
    let (first, n) := slabSpan s tid j
    let acc := fun e => tget fZero store (ekey tid e)
    if recKind r = 1 ∧ grpLazy g then
      let o1 := (List.range n).foldl (fun w i =>
        let e := first + i
        if ekey tid (elemRow tin e) ∈ rows then lazyElem a (grpBf16 g) w o.u (elemRow tin e) e (acc e) else w) o
      let mine := (List.range (32 * recTout r)).filter (fun row => (rowSlabs tin row slabs).head? == some j)
      mine.foldl (fun w row =>
        let st := rowOld o o.u row
        w.putRow o.u row (if ekey tid row ∈ rows then { count := st.count + 1, last := o.u } else st)) o1
    else (List.range n).foldl (fun w i => denseElem a (grpBf16 g) w o.u (first + i) (acc (first + i))) o

/-! ### The block preconditioner (R263-R266) -/

/-- An entry of a row-major matrix of n columns; absent entries are zero. -/
def matAt (a : List F32) (n i j : Nat) : F32 := a.getD (n * i + j) fZero

/-- A matrix from its entries. -/
def matOf (rows cols : Nat) (f : Nat → Nat → F32) : List F32 :=
  (List.range (rows * cols)).map (fun k => f (k / cols) (k % cols))

/-- A product of matrices: exact products summed into FP32 in ascending index order. -/
def matMul (n k m : Nat) (a b : List F32) : List F32 :=
  matOf n m (fun i j => (List.range k).foldl (fun acc x => ffma (matAt a k i x) (matAt b m x j) acc) fZero)

/-- The transpose of a matrix. -/
def matT (n m : Nat) (a : List F32) : List F32 := matOf m n (fun i j => matAt a m j i)

/-- A Cholesky factor built column by column; none where a pivot is not above the floor. -/
def cholesky (dd : List F32) (n : Nat) (floor' : F32) : Bool :=
  ((List.range n).foldl (fun (acc : Option (List F32)) j =>
    match acc with
    | none => none
    | some c =>
      let dot := fun i => (List.range j).foldl (fun t k => ffma (matAt c n i k) (matAt c n j k) t) fZero
      let p := fsub (matAt dd n j j) (dot j)
      if flt floor' p then
        let d := fsqrt p
        some (matOf n n (fun i k =>
          if k ≠ j then matAt c n i k
          else if i < j then fZero
          else if i = j then d
          else fdiv (fsub (matAt dd n i j) (dot i)) d))
      else none) (some [])).isSome

/-- The iterations of the inverse root. -/
def rootIters (n r : Nat) : Nat → List F32 × List F32 → List F32 × List F32
  | 0, xm => xm
  | k + 1, (x, mm) =>
    let ir := fdiv fOne (f32OfInt r)
    let t := matOf n n (fun i j => fmul (fsub (if i = j then f32OfInt (r + 1) else fZero) (matAt mm n i j)) ir)
    let t2 := matMul n n n t t
    rootIters n r k (matMul n n n x t, matMul n n n (if r = 2 then t2 else matMul n n n t2 t2) mm)

/-- One attempt at a root with a damping; none where it is not accepted. -/
def rootAttempt (st : List F32) (n r iters : Nat) (tr delta tau : F32) : Option (List F32) :=
  let nf := f32OfInt n
  let damp := fdiv (fmul delta tr) nf
  let dd := matOf n n (fun i j => if i = j then fadd (matAt st n i j) damp else matAt st n i j)
  if cholesky dd n (fdiv (fmul tau tr) nf) then
    let sums := (List.range n).map (fun i => (List.range n).foldl (fun a j => fadd a (fabs (matAt dd n i j))) fZero)
    let z := fdiv fOne (sums.foldl fmax fZero)
    let xm := rootIters n r iters (matOf n n (fun i j => if i = j then fOne else fZero), dd.map (fun v => fmul v z))
    let f := if r = 2 then fsqrt z else fsqrt (fsqrt z)
    let q := xm.1.map (fun v => fmul v f)
    if q.all isFinite then some q else none
  else none

/-- What the computation of one side gives: nothing to compute, a root with its attempt count, or failure. -/
inductive RootResult where
  | kept
  | root (q : List F32) (attempts : Nat)
  | failed
deriving DecidableEq, Repr

/-- The attempts from one on, the damping ten times larger each time. -/
def rootTry (st : List F32) (n r iters : Nat) (tr tau : F32) : Nat → Nat → F32 → RootResult
  | 0, _, _ => .failed
  | k + 1, done, delta =>
    match rootAttempt st n r iters tr delta tau with
    | some q => .root q (done + 1)
    | none => rootTry st n r iters tr tau k (done + 1) (fmul delta (f32OfInt 10))

/-- The root of one block side (R265). -/
def blockRoot (g : BitVec 512) (st : List F32) (n : Nat) : RootResult :=
  let tr := (List.range n).foldl (fun a i => fadd a (matAt st n i i)) fZero
  if isZero tr || !isFinite tr then .kept
  else rootTry st n (grpExp g) (grpIters g) tr (grpTau g) 5 0 (grpDelta g)

/-- Blocks across the input features of a tensor. -/
def blocksIn (r g : BitVec 512) : Nat := 32 * recTin r / max 1 (grpBin g)

/-- Element index of input feature i and output feature f. -/
def elemIndex (tin i f : Nat) : Nat := 1024 * (f / 32 * tin + i / 32) + 32 * (i % 32) + f % 32

/-- The element of entry (i, j) of a block, unit index b * columns + a. -/
def blockElem (r g : BitVec 512) (unit i j : Nat) : Nat :=
  elemIndex (recTin r) (unit % blocksIn r g * grpBin g + i) (unit / blocksIn r g * grpBout g + j)

/-- The FP64 norm's square over a block's entries, in tensor element order. -/
def blockNorm (r g : BitVec 512) (unit : Nat) (x : List F32) : F64 :=
  let es : Tbl F32 := ((List.range (grpBin g * grpBout g)).map (fun k =>
    (blockElem r g unit (k / grpBout g) (k % grpBout g), x.getD k fZero))).foldl (fun m e => tset m e.1 e.2) []
  es.foldl (fun a e => dadd a (dmul (f32ToF64 e.2) (f32ToF64 e.2))) 0

/-- A side of a block has its result of the computation that is due. -/
def BlockState.sideDone (b : BlockState) (right : Bool) : Bool :=
  if right then b.newR.isSome || b.missedR else b.newL.isSome || b.missedL

/-- Roots due at an update come into force, both sides together; a computation of which a side is not complete counts as late, whether
or not the other side failed (R266). -/
def BlockState.install (b : BlockState) (u : Nat) : BlockState :=
  match b.due with
  | none => b
  | some n =>
    if u < n then b
    else
      match b.newL, b.newR with
      | some l, some r =>
        { b with ql := if b.acceptedL then l else b.ql, qr := if b.acceptedR then r else b.qr
                 validL := b.validL || b.acceptedL, validR := b.validR || b.acceptedR
                 validFrom := if b.acceptedL || b.acceptedR then u else b.validFrom
                 due := none, newL := none, newR := none, acceptedL := false, acceptedR := false }
      | _, _ =>
        if b.sideDone false && b.sideDone true then { b with due := none }
        else { b with late := b.late + 1, due := none, newL := none, newR := none }

/-- Pass two over one block (R264). `pinned` is the preconditioner pin. -/
def precondBlock (s : State) (a : AdamPar) (g : BitVec 512) (key : Nat) (o : OptState) (store : Tbl F32) (pinned : Bool)
    (unit : Nat) : OptState :=
  let tid := baseTid key
  match s.recOf tid with
  | none => o
  | some r =>
    let bi := grpBin g
    let bo := grpBout g
    let el := fun i j => blockElem r g unit i j
    let outs := (List.range (bi * bo)).map (fun k =>
      let e := el (k / bo) (k % bo)
      adamStep a o.u (tget fZero store (ekey tid e)) (tget fZero o.m e) (tget fZero o.v e))
    let gm := outs.map (fun x => x.g)
    let da := outs.map (fun x => x.d)
    let mh := outs.map (fun x => x.mh)
    let b0 := (tget {} o.blocks unit).install o.u
    let gt := matT bi bo gm
    let gl := matMul bi bo bi gm gt
    let gr := matMul bo bi bo gt gm
    let sl := matOf bi bi (fun i j => ffma a.beta2 (matAt b0.sl bi i j) (fmul a.omb2 (matAt gl bi i j)))
    let sr := matOf bo bo (fun i j => ffma a.beta2 (matAt b0.sr bo i j) (fmul a.omb2 (matAt gr bo i j)))
    let b1 : BlockState := { b0 with sl := sl, sr := sr }
    let use := b1.validL && b1.validR && decide (b1.fallback = 0) && !pinned
    let h0 := matMul bi bo bo (matMul bi bi bo b1.ql mh) b1.qr
    let nh := blockNorm r g unit h0
    let na := blockNorm r g unit da
    let good := decide (0 < nh.toNat) && h0.all isFinite && dFinite nh
    let h := if use && good then h0.map (fun x => fmul x (f64ToF32 (ddiv (dsqrt na) (dsqrt nh)))) else da
    let b2 := { b1 with fallback := b1.fallback - 1 }
    let o1 := (List.range (bi * bo)).foldl (fun w k =>
      let e := el (k / bo) (k % bo)
      let x := outs.getD k { g := 0, m := 0, v := 0, mh := 0, d := 0 }
      w.putElem e (adamWeight a (tget fZero o.w e) (h.getD k fZero)) (momentOut (grpBf16 g) x.m) (momentOut (grpBf16 g) x.v)) o
    { o1 with blocks := tput {} o1.blocks unit b2 }

/-- Snapshots after an update with u mod K = 0: every block of the tensor, roots due at u + K (R265). -/
def OptState.snapshot (o : OptState) (k : Nat) : OptState :=
  if k = 0 ∨ o.u % k ≠ 0 then o
  else { o with blocks := o.blocks.map (fun e =>
    (e.1, { e.2 with snapL := e.2.sl, snapR := e.2.sr, newL := none, newR := none, acceptedL := false, acceptedR := false
                     failed := false, missedL := false, missedR := false, due := some (o.u + k) })) }

/-! ### The stream copy (R267) -/

/-- The draw of an element under STOCHASTIC rounding. -/
def streamDraw (seed step tid e : Nat) : Nat :=
  let h := mix64 (BitVec.ofNat 64 seed ^^^ mix64 (BitVec.ofNat 64 step ^^^ mix64 (BitVec.ofNat 64 tid ^^^ mix64 (BitVec.ofNat 64 e))))
  bits h 63 48

/-- The bytes of one tile of the new stream copy. -/
def streamTile (r g : BitVec 512) (o : OptState) (step tile : Nat) : List Byte :=
  packTile (recStream r) (fun i => if grpStochastic g then some (streamDraw (grpSeed g) step (recId r) (1024 * tile + i)) else none)
    ((List.range 1024).map (fun i => tget fZero o.w (1024 * tile + i)))

/-- Saturations of a tile in an FP8 E4M3 stream copy: finite values beyond the largest; an infinite one is stored as NaN (R85). -/
def streamSaturations (r g : BitVec 512) (o : OptState) (step tile : Nat) : Nat :=
  if recStream r ≠ 0 then 0
  else ((List.range 1024).filter (fun i =>
    let d := if grpStochastic g then some (streamDraw (grpSeed g) step (recId r) (1024 * tile + i)) else none
    match ofF32 (tget fZero o.w (1024 * tile + i)) with
    | .fin _ m e => decide (fmtE4M3.maxMag < roundMag fmtE4M3 d m e)
    | .inf _ => false
    | .nan => false)).length

/-! ### Update engines (R250-R252, R270) -/

/-- Engines of a quay that are enabled. -/
def enabledEngines (s : State) (q : Nat) : List Nat :=
  (List.range 256).filter (fun e => !decide (e ∈ (s.engines q).fenced) && !unitOff s 7 (256 * q + e))

/-- Puts a unit in its place by tensor, then by unit index (R251). -/
def insertUnit (u : Nat × Nat) (l : List (Nat × Nat)) : List (Nat × Nat) :=
  let before := fun (x : Nat × Nat) => decide (baseTid x.1 < baseTid u.1 ∨ (baseTid x.1 = baseTid u.1 ∧ x.2 ≤ u.2))
  l.takeWhile before ++ u :: l.dropWhile before

/-- Units in ascending tensor ID and then ascending unit index, mirror copies under their tensors' IDs. -/
def orderUnits (l : List (Nat × Nat)) : List (Nat × Nat) := l.foldl (fun acc u => insertUnit u acc) []

/-- Deals units round robin over engines from the lowest. -/
def dealUnits (engines : List Nat) (units : List (Nat × Nat)) : Tbl (List (Nat × Nat)) :=
  let n := engines.length
  engines.zipIdx.foldl (fun m e =>
    tput [] m e.1 ((units.zipIdx.filter (fun u => u.2 % max 1 n == e.2)).map (fun u => u.1))) []

/-- The engine with the longest queue, the lower-numbered one of equals. -/
def longestQueue (qs : Tbl (List (Nat × Nat))) : Option (Nat × List (Nat × Nat)) :=
  qs.foldl (fun m e =>
    match m with
    | none => if e.2.isEmpty then none else some e
    | some x => if x.2.length < e.2.length then some e else some x) none

/-- An engine takes its own head, or the tail of the longest queue. -/
def Engines.take (e : Engines) (k : Nat) : Engines :=
  match tget [] e.queues k with
  | u :: rest => { e with queues := tput [] e.queues k rest, working := tput none e.working k (some u) }
  | [] =>
    match longestQueue e.queues with
    | none => { e with working := tput none e.working k none }
    | some (j, l) => { e with queues := tput [] e.queues j l.dropLast, working := tput none e.working k l.getLast? }

/-- Starts a pass: the units are dealt and every enabled engine takes its first one. -/
def Engines.begin (e : Engines) (dom pass : Nat) (engines : List Nat) (units : List (Nat × Nat)) : Engines :=
  let e1 := { e with dom := dom, pass := pass, queues := dealUnits engines units, working := [], passDone := units.isEmpty }
  if units.isEmpty then e1 else engines.foldl (fun w k => w.take k) e1

/-- Whether every unit of the pass has been written back. -/
def Engines.idle (e : Engines) : Bool := e.queues.isEmpty && e.working.isEmpty

end Sys2Proof.Machine
end

