-- ==== Sys2Proof/Machine/Exchange.lean ====
section
/-! DEFINITION. Quay-fabric packets (R292-R295), the near and far stages, mirrors and gathers (R299-R307), and the phases of an
update (R254-R257, R267-R272). -/

namespace Sys2Proof.Machine

/-! ### Packets taken (R294) -/

/-- The checks that a quay makes on a packet's header and payload. -/
def fabOk (h : BitVec 256) (payload : List Byte) : Bool :=
  decide (1 ≤ fabType h ∧ fabType h ≤ 10) && decide (bits h 219 216 = 0) && decide (bits h 52 48 = 0)
    && decide (fabLength h ≤ 4096 ∧ fabLength h = payload.length)
    && decide (bits h 31 0 = crc32c (headerCrcBytes h ++ payload))

/-- The partitions that stand for the domains of this module: one whose update is in work stands for its domain until that ends, else the
lowest of its group that carries an update record (R253, R254). -/
def feeders (s : State) : List Nat :=
  (List.range 8).filter (fun p => s.updating p
    || (feedOf s p == some p && !(List.range 8).any (fun o => s.updating o && ledgerOf s o == ledgerOf s p)))

/-- The domain of this module that has a ledger ID. -/
def feedByLedger (s : State) (id : Nat) : Option Nat := (feeders s).find? (fun p => ledgerOf s p == id)

/-- Counts a discarded packet. -/
def State.dropPacket (s : State) : State := { s with fabric := { s.fabric with discarded := satAdd 32 s.fabric.discarded 1 } }

/-- A packet of a type reaches the quay it is addressed to: violations are discarded and counted, duplicates in silence;
else its domain is given. -/
def State.fabricTake (s : State) (q typ : Nat) (h : BitVec 256) (payload : List Byte) : State × Option Nat :=
  if fabDst h ≠ s.moduleNumber ∨ fabDstQuay h ≠ q then (s, none)
  else if !fabOk h payload then (s.dropPacket, none)
  else if fabType h ≠ typ then (s, none)
  else
    match feedByLedger s (fabLedger h) with
    | none => (s.dropPacket, none)
    | some p =>
      let flow := flowKey (fabSrc h) (fabSrcQuay h) (fabDst h) q typ (fabShard h)
      if (q, flow, fabSeq h) ∈ s.fabric.seen then (s, none)
      else
        let mine := s.fabric.seen.filter (fun e => e.2.1 == flow)
        let old := mine.take (mine.length - 32767)
        ({ s with fabric := { s.fabric with seen := s.fabric.seen.filter (fun e => !decide (e ∈ old)) ++ [(q, flow, fabSeq h)] } },
         some p)

/-- Answers a packet with a REJECT to its source. -/
def State.rejectPacket (s : State) (q : Nat) (h : BitVec 256) : State :=
  s.sendPacket q { typ := 10, dm := fabSrc h, dq := fabSrcQuay h, ledger := fabLedger h, step := fabStep h, shard := fabShard h
                   off := fabOffset h } []

/-- PACKET_FORWARD: a packet for another quay goes on by the table or the far-end identity, or draws a REJECT (R295). -/
def execPacketForward (q : Nat) (header : BitVec 256) (payload : List Byte) (s : State) : Out :=
  onQuay q (
    if fabDst header = s.moduleNumber ∧ fabDstQuay header = q then s
    else if !fabOk header payload then s.dropPacket
    else
      let flow := flowKey (fabSrc header) (fabSrcQuay header) (fabDst header) (fabDstQuay header) (fabType header) (fabShard header)
      match routePort s q (fabDst header) (fabDstQuay header) flow with
      | some port => { s with fabric := { s.fabric with sent := s.fabric.sent ++ [(port, header, payload)] } }
      | none => if fabType header = 10 then s else s.rejectPacket q header)

/-- REJECT_PACKET_RECEIVE: the source counts it; what it carried is late (R295, R306). -/
def execRejectPacketReceive (q : Nat) (header : BitVec 256) (s : State) : Out :=
  onQuay q (
    let r := s.fabricTake q 10 header []
    match r.2 with
    | none => r.1
    | some _ => { r.1 with ledger := { r.1.ledger with rejectsReceived := satAdd 32 r.1.ledger.rejectsReceived 1 } })

/-! ### Values on the fabric -/

/-- The first unit of 512 B of each slab of a list, for four bytes an element. -/
def slabBases (s : State) : List (Nat × Nat × Nat) → Nat → List (Nat × Nat × Nat × Nat)
  | [], _ => []
  | (k, tid, j) :: l, b => (b, k, tid, j) :: slabBases s l (b + (slabSpan s tid j).2 / 128)

/-- The bytes of [first, first + n) of a store. -/
def storeBytes (store : Tbl F32) (tid first n : Nat) : List Byte :=
  (List.range n).flatMap (fun i => leBytes 4 (tget fZero store (ekey tid (first + i))).toNat)

/-- Rows of an EMBEDDING slab that a list of touched rows names. -/
def slabRows (s : State) (tid j : Nat) (rows : List Nat) : List Nat :=
  match s.recOf tid with
  | none => []
  | some r =>
    let span := slabSpan s tid j
    rows.filter (fun k => decide (k / 2 ^ 43 = tid)
      && (List.range (ceilDiv span.2 1024)).any (fun t => decide ((span.1 / 1024 + t) / recTin r = k % 2 ^ 43 / 32)))

/-- The mark of a packet that carries touched rows in place of values (log 21): the offset's top bit, above the place of the
slab in the list. -/
def rowsMark : Nat := 2 ^ 31

/-- The packets of one slab: its touched rows, then its values, a tile each. -/
def slabPackets (s : State) (base idx tid j : Nat) (store : Tbl F32) (rows : List Nat) : List (Nat × List Byte) :=
  let span := slabSpan s tid j
  let rs := slabRows s tid j rows
  (if rs.isEmpty then [] else [(rowsMark + idx, rs.flatMap (fun k => leBytes 4 (k % 2 ^ 43)))])
    ++ (List.range (span.2 / 1024)).map (fun t => (base + 8 * t, storeBytes store tid (span.1 + 1024 * t) 1024))

/-- Sends the slabs of a list as packets of one kind, FINAL on the last. -/
def State.sendSlabs (s : State) (q : Nat) (f : FabHead) (slabs : List (Nat × Nat × Nat)) (store : Tbl F32) (rows : List Nat) : State :=
  let ps := (slabBases s slabs 0).zipIdx.flatMap (fun e => slabPackets s e.1.1 e.2 e.1.2.2.1 e.1.2.2.2 store rows)
  ps.zipIdx.foldl (fun t e => t.sendPacket q { f with off := e.1.1, final := decide (e.2 + 1 = ps.length) } e.1.2) s

/-- Where a packet's values stand: place, tensor and slab, and the first element. -/
def locateSlab (s : State) (slabs : List (Nat × Nat × Nat)) (off : Nat) : Option (Nat × Nat × Nat × Nat) :=
  if rowsMark ≤ off then
    (slabs[off - rowsMark]?).map (fun e => (e.1, e.2.1, e.2.2, 0))
  else
    ((slabBases s slabs 0).find? (fun e => decide (e.1 ≤ off ∧ off < e.1 + (slabSpan s e.2.2.1 e.2.2.2).2 / 128))).map
      (fun e => (e.2.1, e.2.2.1, e.2.2.2, (slabSpan s e.2.2.1 e.2.2.2).1 + 128 * (off - e.1)))

/-- Writes the values of a payload into a store. -/
def putValues (store : Tbl F32) (tid first : Nat) (payload : List Byte) : Tbl F32 :=
  (List.range (payload.length / 4)).foldl (fun m i => tput fZero m (ekey tid (first + i)) (BitVec.ofNat 32 (leAt payload (4 * i) 4))) store

/-- The row keys of a payload. -/
def payloadRows (tid : Nat) (payload : List Byte) : List Nat :=
  (List.range (payload.length / 4)).map (fun i => ekey tid (leAt payload (4 * i) 4))

/-- Takes a packet into the chunk that it belongs to. -/
def takeChunk (s : State) (cs : List Chunk) (far : Bool) (src step slab tid j first off : Nat) (payload : List Byte) : List Chunk :=
  let same := fun (c : Chunk) => c.far == far && c.src == src && c.step == step && c.slab == slab
  let old := (cs.find? same).getD { far := far, src := src, step := step, slab := slab }
  let new : Chunk :=
    if rowsMark ≤ off then { old with rows := old.rows ++ payloadRows tid payload }
    else
      let got := addOnce old.got off
      { old with got := got, vals := putValues old.vals tid first payload
                 complete := decide (got.length = (slabSpan s tid j).2 / 1024) }
  if cs.any same then cs.map (fun c => if same c then new else c) else cs ++ [new]

/-- Adds to one of the ledger's chunk counts (R319). -/
def State.countChunk (s : State) (k n : Nat) : State :=
  { s with ledger := { s.ledger with chunks := tput 0 s.ledger.chunks k (satAdd 32 (tget 0 s.ledger.chunks k) n) } }

/-- Folded chunks of a step that is skipped count as dropped in their place (R306). -/
def State.dropFolded (s : State) (base n : Nat) : State :=
  let c := s.ledger.chunks
  State.countChunk { s with ledger := { s.ledger with chunks := tput 0 c (base + 1) (tget 0 c (base + 1) - n) } } (base + 2) n

/-- Adds a chunk's values into a fold store. -/
def foldInto (store vals : Tbl F32) : Tbl F32 :=
  vals.foldl (fun m e => tput fZero m e.1 (fadd (tget fZero m e.1) e.2)) store

/-! ### Near stage (R299) -/

/-- The ordered sum of stores over an element, from the first of them. -/
def orderedSum (stores : List (Tbl F32)) (k : Nat) : F32 :=
  match stores with
  | [] => fZero
  | t :: ts => ts.foldl (fun a u => fadd a (tget fZero u k)) (tget fZero t k)

/-- The sums of one slab: contributions in order, then the fold store. -/
def slabSums (s : State) (tid j : Nat) (stores : List (Tbl F32)) (fold out : Tbl F32) : Tbl F32 :=
  let span := slabSpan s tid j
  (List.range span.2).foldl (fun m i =>
    let k := ekey tid (span.1 + i)
    tput fZero m k (fadd (orderedSum stores k) (tget fZero fold k))) out

/-- The complete chunk of a source. -/
def chunkOf (ex : Exchange) (far : Bool) (src step slab : Nat) : Option Chunk :=
  ex.chunks.find? (fun c => c.complete && c.far == far && c.src == src && c.step == step && c.slab == slab)

/-- Whether a source's contribution is complete over a list of slabs. -/
def sourceComplete (ex : Exchange) (far : Bool) (src : Nat) (slabs : List (Nat × Nat × Nat)) : Bool :=
  (!far && decide ((src, ex.step) ∈ ex.ended)) || slabs.all (fun e => (chunkOf ex far src ex.step e.1).isSome)

/-- Own accumulators of a domain's tensors in a quay, by element key. -/
def ownStore (s : State) (tids : List Nat) : Tbl F32 :=
  tids.foldl (fun m tid => (s.optOf tid).acc.foldl (fun n e => tput fZero n (ekey tid e.1) e.2) m) []

/-- Own touched rows: every row of an EMBEDDING that a DENSE frame reached (R260). -/
def ownTouched (s : State) (tids : List Nat) : List Nat :=
  tids.flatMap (fun tid =>
    let o := s.optOf tid
    match s.recOf tid with
    | none => []
    | some r => if o.dense then (List.range (32 * recTout r)).map (ekey tid) else o.touched.map (ekey tid))

/-- Whether a partition still runs under the launch that an update began in. -/
def sameLaunch (s : State) (p : Nat) : Bool :=
  let pt := s.part p
  decide (pt.launchTick = (s.run p).launch ∧ pt.n0 ≤ (s.run p).step) && (updateRec s p).isSome

/-- The last instance of a phase of the update in work: 0 reduce-scatter, 1 pass one, 2 pass two, 3 publication. Under another launch
that of the launch record it began in stands (R254, R304). -/
def phaseTime (s : State) (p k : Nat) : Nat :=
  let run := s.run p
  match updateRec s p with
  | some rec => if sameLaunch s p then lastInstance (s.part p) (updEntry rec k) (run.step - (s.part p).n0) else run.times.getD k 0
  | none => run.times.getD k 0

/-- A phase may begin: a partition with marks, under the same launch, must have fired its instance, and any other follows the launch
record (R254, R304). From a module reset on no phase begins (R350). -/
def phaseReady (s : State) (p k : Nat) : Option State :=
  let t := phaseTime s p k
  if s.mc.mresetDraining then none
  else if (s.part p).marks && sameLaunch s p then (if t ≤ (s.part p).cursor then some s else none)
  else some (s.advance t)

/-- Ticks by which a phase began after its instance (R254). -/
def lateTicks (s : State) (p k : Nat) : Nat := tickOf s.now - tickOf (phaseTime s p k)

/-- The partitions of a domain's group that feed it: those with an update record (R253). -/
def feedingParts (s : State) (p : Nat) : List Nat := (groupParts s p).filter (fun k => (updateRec s k).isSome)

/-- A partition's part of the gradient of a step: its accumulators are of that step, and it runs or had fired its reduce-scatter instance
before it left RUNNING (R304). -/
def fedBy (s : State) (step k : Nat) : Bool :=
  let pt := s.part k
  match updateRec s k with
  | none => false
  | some rec => decide (pt.n0 ≤ step ∧ step = stepNumber s k) && (pt.marks || decide (lastInstance pt (updEntry rec 0) (step - pt.n0) ≤ pt.cursor))

/-- Whether the accumulators hold the gradient of a step: a later STEP_START instance clears them, and where one feeding partition has
left RUNNING before its instance the module contributes nothing (R231, R299, R304). -/
def holdsGradient (s : State) (p step : Nat) : Bool := (feedingParts s p).all (fedBy s step) && !(feedingParts s p).isEmpty

/-- The step that a domain updates next: the one after its last update, else the first of the launch; a partition that is alone in
its ledger leaves out the steps of which a relaunch kept it (R254, R304; log 27). -/
def nextUpdate (s : State) (p : Nat) (others : Bool) : Nat :=
  let n := if (s.run p).done then (s.run p).step + 1 else (s.part p).n0
  if others then n else max n (s.part p).n0

/-- The reduce-scatter of a step may begin: at its instance, or at once where the step lies before the launch that now runs. -/
def stepReady (s : State) (p entry step : Nat) : Option State :=
  let pt := s.part p
  let t := lastInstance pt entry (step - pt.n0)
  if s.mc.mresetDraining then none
  else if step < pt.n0 then some s
  else if pt.marks then (if t ≤ pt.cursor then some s else none)
  else some (s.advance t)

/-- The update of a step as it begins: its instances, the domain's tensors with their group records, the domain record, the pin and the
membership table are fixed (R252, R254, R318). -/
def openRun (s : State) (p step : Nat) (rec : BitVec 128) : UpdateRun :=
  let pt := s.part p
  let old := s.run p
  let times := (List.range 4).map (fun k => if step < pt.n0 then s.now else lastInstance pt (updEntry rec k) (step - pt.n0))
  { phase := 1, step := step, launch := pt.launchTick, times := times
    par := (domainTensors s p).map (fun tid => (tid, groupFor s p tid))
    domRec := domainRec s p, pinned := decide (pinFor s p 0x6000 1 = 1), table := tableOf s p, prior := old.prior
    report := { step := step, domain := ledgerOf s p, lateness := [tickOf s.now - tickOf (times.getD 0 0)] }
    fallbackBase := old.fallbackBase, lateBase := old.lateBase }

/-- A module that contributes nothing to a step discards what its accumulators hold of it (R304). -/
def State.discardGradient (s : State) (tids : List Nat) : State :=
  tids.foldl (fun t tid => t.setOptOf tid { t.optOf tid with acc := [], touched := [], dense := false }) s

/-- Opens the exchange of a step in one quay: the own contribution is what the accumulators hold, and what was folded waits. A module
that had stopped sends each rank one empty packet; chunks of accumulators already cleared are counted as dropped, and a packet sent past
the pass-one instance is marked LATE (R299, R304, R306). -/
def State.openExchange (s : State) (p q step : Nat) (contributes cleared : Bool) : State :=
  let pl := placeOf s p
  let ex := s.exchange p q
  let slabs := sliceSlabs s p q pl.i
  let tids := (domainTensors s p).filter (fun tid => match s.recOf tid with | some r => recPrimary r == q | none => false)
  let store := ownStore s tids
  let rows := ownTouched s tids
  let s1 := s.setExchange p q {
    began := true, step := step, contributes := contributes
    own := if contributes then store else []
    ownRows := if contributes then rows else []
    chunks := ex.chunks.filter (fun c => decide (step ≤ c.step) || !c.complete)
    nearFold := ex.nearFold, nearFoldRows := ex.nearFoldRows, farFold := ex.farFold, farFoldRows := ex.farFoldRows
    ended := ex.ended.filter (fun e => decide (step ≤ e.2))
    near := { ex.nextNear with onTime := if contributes && !slabs.isEmpty then [pl.i] else [] }
    farLevel := ex.nextFar
    mirror := ex.mirror
    mirrorStep := ex.mirrorStep.filter (fun e => decide (step ≤ e.2))
    mirrorRows := ex.mirrorRows.filter (fun e => decide (step ≤ tget 0 ex.mirrorStep e.1))
    mirrorGot := ex.mirrorGot.filter (fun e => decide (step ≤ tget 0 ex.mirrorStep e.1))
    mirrorFinal := ex.mirrorFinal.filter (fun e => decide (step ≤ e.2))
    norms := (ex.earlyNorms.filter (fun e => e.1 == step)).foldl (fun m e => tset m e.2.1 e.2.2) []
    earlyNorms := ex.earlyNorms.filter (fun e => decide (step < e.1)) }
  (List.range (pl.m - 1)).foldl (fun t k =>
    let j := (pl.i + 1 + k) % pl.m
    let f : FabHead := { typ := 1, dm := memberModule s p j pl.d, dq := q, ledger := ledgerOf s p, step := step
                         shard := shardNo pl j pl.d q, off := 0, late := decide (phaseTime s p 1 < s.now) }
    let out := sliceSlabs s p q j
    if contributes then (if out.isEmpty then t else t.sendSlabs q f out store rows)
    else if cleared then t.countChunk 2 out.length
    else t.sendPacket q { f with final := true } []) s1

/-- The quay that holds a shard in the role map in force; by default its owner does (R297, R311). -/
def holderOf (s : State) (p n : Nat) : Nat × Nat :=
  match s.ledger.roles.find? (fun e => e.1 == n) with
  | some e => (e.2.1, e.2.2.1)
  | none => let x := shardPlace (placeOf s p) n; (memberModule s p x.1 x.2.1, x.2.2)

/-- Whether a quay of this module holds a shard. -/
def holdsShard (s : State) (p q n : Nat) : Bool := decide (holderOf s p n = (s.moduleNumber, q))

/-- The module that mirrors the shards of member (i, d). -/
def partnerOf (s : State) (p i d : Nat) : Nat :=
  match tableOf s p with
  | none => s.moduleNumber
  | some t =>
    match t.members.find? (fun x => x.rank == i && x.domain == d) with
    | some x => if x.partner = 0xFFFF then x.module else x.partner
    | none => s.moduleNumber

/-- The slabs of a shard that are mirrored in a replica quay. -/
def mirrorSlabs (s : State) (p n rq : Nat) : List (Nat × Nat × Nat) :=
  (shardSlabsNo s p n).filter (fun e =>
    match s.recOf e.2.1 with
    | some r => recMirror r && recReplica r == rq
    | none => false)

/-- A shard whose mirror is not valid (R311, R312). -/
def mirrorBad (s : State) (n : Nat) : Bool :=
  decide (n ∈ s.ledger.mirrorInvalid) || s.ledger.roles.any (fun e => e.1 == n && !e.2.2.2)

/-- The mirror of the shard that holds a tile is valid: its copy may serve reads (R312). A slab is 16 tiles. -/
def mirrorServes (s : State) (tid tile : Nat) : Bool :=
  (List.range 8).all (fun p => !decide (tid ∈ domainTensors s p) || (liveShards s p).all (fun n =>
    !mirrorBad s n || !(shardSlabsNo s p n).any (fun e => e.2.1 == tid && e.2.2 == tile / 16)))

/-- The replica quays that mirror a shard, none where its mirror is not valid (R312). -/
def mirrorQuays (s : State) (p n : Nat) : List Nat :=
  if mirrorBad s n then [] else (List.range 4).filter (fun rq => !(mirrorSlabs s p n rq).isEmpty)

/-- The owner's quay of a shard. -/
def ownerOf (s : State) (p n : Nat) : Nat × Nat :=
  let x := shardPlace (placeOf s p) n
  (memberModule s p x.1 x.2.1, x.2.2)

/-- The quays that a shard's holder sends its reduced store to, each with the replica quay that its slabs go by: the mirror's, or
the owner's once roles are swapped (R301, R317). -/
def mirrorTargets (s : State) (p n : Nat) : List (Nat × Nat × Nat) :=
  if mirrorBad s n then []
  else if holderOf s p n = ownerOf s p n then
    let x := shardPlace (placeOf s p) n
    (mirrorQuays s p n).map (fun rq => (partnerOf s p x.1 x.2.1, rq, rq))
  else [((ownerOf s p n).1, (ownerOf s p n).2, (holderOf s p n).2)]

/-- The quays that keep the copy of a shard for its holder, valid or not: the mirror's, or the owner's once roles are swapped. -/
def copyQuays (s : State) (p n : Nat) : List (Nat × Nat) :=
  if holderOf s p n = ownerOf s p n then
    let x := shardPlace (placeOf s p) n
    ((List.range 4).filter (fun rq => !(mirrorSlabs s p n rq).isEmpty)).map (fun rq => (partnerOf s p x.1 x.2.1, rq))
  else [ownerOf s p n]

/-- A quay mirrors every slab of a shard: only then can it stand for the owner (R297, R311; log 27). -/
def mirrorFull (s : State) (p n rq : Nat) : Bool := decide ((mirrorSlabs s p n rq).length = (shardSlabsNo s p n).length)

/-- The copy of a shard has all of its slabs. -/
def copyWhole (s : State) (p n : Nat) : Bool :=
  decide (holderOf s p n ≠ ownerOf s p n) || (List.range 4).any (fun rq => mirrorFull s p n rq)

/-- The shards whose mirror this module's quay rq is. -/
def mirroredHere (s : State) (p rq : Nat) : List Nat :=
  (liveShards s p).filter (fun n =>
    let x := shardPlace (placeOf s p) n
    decide (partnerOf s p x.1 x.2.1 = s.moduleNumber) && !(mirrorSlabs s p n rq).isEmpty)

/-- The quay's own shard, where it has slabs. -/
def ownLive (s : State) (p q : Nat) : List Nat :=
  if (shardSlabsNo s p (ownShard s p q)).isEmpty then [] else [ownShard s p q]

/-- The shards that a quay holds: its own, and those of lost owners that it mirrored (R311). -/
def heldShards (s : State) (p q : Nat) : List Nat := (ownLive s p q ++ mirroredHere s p q).filter (holdsShard s p q)

/-- The shards that a quay keeps a valid copy of for their holder. -/
def copyShards (s : State) (p q : Nat) : List Nat :=
  (mirroredHere s p q).filter (fun n => !holdsShard s p q n)
    ++ (ownLive s p q).filter (fun n => !holdsShard s p q n && !mirrorBad s n)

/-- The slabs of a shard that a quay works on as its holder. -/
def heldSlabs (s : State) (p q n : Nat) : List (Nat × Nat × Nat) :=
  if n = ownShard s p q then shardSlabsNo s p n else mirrorSlabs s p n q

/-- The slabs of a shard that come to a quay as the holder's copy. -/
def copySlabs (s : State) (p q n : Nat) : List (Nat × Nat × Nat) :=
  if n = ownShard s p q then mirrorSlabs s p n (holderOf s p n).2 else mirrorSlabs s p n q

/-- Every slab whose far stage a quay works on. -/
def farSlabs (s : State) (p q : Nat) : List (Nat × Nat × Nat) := (heldShards s p q).flatMap (heldSlabs s p q)

/-- One more folded chunk of a source. -/
def LevelCounts.fold (l : LevelCounts) (src : Nat) : LevelCounts :=
  { l with folded := addOnce l.folded src, foldedChunks := l.foldedChunks + 1 }

/-- A chunk that is complete is judged against the close of its level (R306). -/
def State.judgeChunk (s : State) (p q : Nat) (far : Bool) (src step slab : Nat) : State :=
  let ex := s.exchange p q
  match chunkOf ex far src step slab with
  | none => s
  | some c =>
    let closed := if far then ex.farClosed else ex.nearClosed
    let base := if far then 3 else 0
    if ex.step < step ∨ !ex.began then s
    else if step = ex.step ∧ !closed then
      let slabs := if far then farSlabs s p q else sliceSlabs s p q (placeOf s p).i
      let s1 := s.countChunk base 1
      if sourceComplete ex far src slabs then
        s1.setExchange p q (if far then { ex with farLevel := { ex.farLevel with onTime := addOnce ex.farLevel.onTime src } }
          else { ex with near := { ex.near with onTime := addOnce ex.near.onTime src } })
      else s1
    else
      let m := if closed then ex.step + 1 else ex.step
      let rest := ex.chunks.filter (fun x => x != c)
      if mayFold s p step m then
        let s1 := s.countChunk (base + 1) 1
        s1.setExchange p q (if far then
            { ex with chunks := rest, farFold := foldInto ex.farFold c.vals, farFoldRows := ex.farFoldRows ++ c.rows
                      farLevel := if closed then ex.farLevel else ex.farLevel.fold src
                      nextFar := if closed then ex.nextFar.fold src else ex.nextFar }
          else
            { ex with chunks := rest, nearFold := foldInto ex.nearFold c.vals, nearFoldRows := ex.nearFoldRows ++ c.rows
                      near := if closed then ex.near else ex.near.fold src
                      nextNear := if closed then ex.nextNear.fold src else ex.nextNear })
      else
        let s1 := s.countChunk (base + 2) 1
        s1.setExchange p q (if far then
            { ex with chunks := rest, farLevel := { ex.farLevel with dropped := addOnce ex.farLevel.dropped src } }
          else { ex with chunks := rest, near := { ex.near with dropped := addOnce ex.near.dropped src } })

/-- Chunks of a step that came before its exchange opened are judged as it opens. -/
def State.judgeHeld (s : State) (p q step : Nat) : State :=
  let cs := (s.exchange p q).chunks.filter (fun c => c.complete && c.step == step)
  cs.foldl (fun t c => t.judgeChunk p q c.far c.src c.step c.slab) s

/-- REDUCE_SCATTER_BEGIN: at the last instance of its entry, or at once after the previous update. A partition that left RUNNING
before the instance contributes nothing where other members go on; a halted ledger opens no further step (R254, R299, R304, R315). -/
def execReduceScatterBegin (p : Nat) (s : State) : Out :=
  onPart p (
    let pt := s.part p
    let run := s.run p
    match updateRec s p with
    | none => s
    | some rec =>
      if run.phase ≠ 0 ∨ p ∉ feeders s then s
      else
        let others := match tableOf s p with | some t => decide (1 < t.members.length) | none => false
        let step := nextUpdate s p others
        let holds := holdsGradient s p step
        if !pt.marks && !holds && (!others || decide (3 ≤ s.ledger.state)) then s
        else
          match stepReady s p (updEntry rec 0) step with
          | none => s
          | some s1 =>
            let cleared := pt.marks && decide (pt.n0 ≤ step ∧ step ≠ stepNumber s p)
            let s2 := s1.setRun p (openRun s1 p step rec)
            let s3 := (List.range 4).foldl (fun t q => (t.openExchange p q step holds cleared).judgeHeld p q step) s2
            if !holds && decide (step = stepNumber s p) then s3.discardGradient (domainTensors s3 p) else s3)

/-- A chunk of a source is ahead of its turn: a lower rank's chunk of that slab is not complete, or its step has not begun (R299). -/
def aheadOf (s : State) (p q src step slab : Nat) : Bool :=
  let ex := s.exchange p q
  !ex.began || decide (ex.step < step) || (!ex.nearClosed && decide (step = ex.step) && (List.range src).any (fun r =>
    r != (placeOf s p).i && !decide ((r, step) ∈ ex.ended) && (chunkOf ex false r step slab).isNone))

/-- Bytes that wait in a quay's staging, which is taken from the residency pool (R299). -/
def stagingBytes (s : State) (q : Nat) : Nat :=
  ((List.range 8).map (fun p =>
    (((s.exchange p q).chunks.filter (fun c => !c.far && aheadOf s p q c.src c.step c.slab)).map (fun c => 4096 * c.got.length)).foldl (· + ·) 0)).foldl
      (· + ·) 0

/-- The pool has no room for a packet more in the staging. -/
def stagingFull (s : State) (q len : Nat) : Bool := (placeIn s q 0 2 0 (stagingBytes s q + len)).isNone

/-- The rank of this module's domain that a contribution comes from. -/
def contribSource (s : State) (p : Nat) (h : BitVec 256) : Option Nat :=
  let pl := placeOf s p
  (List.range pl.m).find? (fun i => memberModule s p i pl.d == fabSrc h && i != pl.i)

/-- A contribution ahead of its turn that finds the staging full: the quay withholds link credits, and the packet stays with its sender
(R299). -/
def contribWaits (s : State) (q : Nat) (h : BitVec 256) (payload : List Byte) : Bool :=
  match feedByLedger s (fabLedger h) with
  | none => false
  | some p =>
    match contribSource s p h, locateSlab s (sliceSlabs s p q (placeOf s p).i) (fabOffset h) with
    | some src, some (k, _) => aheadOf s p q src (fabStep h) k && stagingFull s q payload.length
    | _, _ => false

/-- A packet that begins a chunk, one for a whole slab: at it the chunk is counted. -/
def atSlab (s : State) (slabs : List (Nat × Nat × Nat)) (off : Nat) : Bool := (slabBases s slabs 0).any (fun e => e.1 == off)

/-- CONTRIB_RECEIVE: a chunk of another rank of the domain; a slice that the quay does not own draws a REJECT, each chunk of it counted
once (R299, R306). -/
def execContribReceive (q : Nat) (header : BitVec 256) (payload : List Byte) (s : State) : Out :=
  onQuay q (
    if contribWaits s q header payload then s
    else
    let r := s.fabricTake q 1 header payload
    match r.2 with
    | none => r.1
    | some p =>
      let s1 := r.1
      let pl := placeOf s1 p
      let x := shardPlace pl (fabShard header)
      match contribSource s1 p header with
      | none => s1.dropPacket
      | some src =>
        if x ≠ (pl.i, pl.d, q) then
          (s1.rejectPacket q header).countChunk 2 (if atSlab s1 (sliceSlabs s1 p x.2.2 x.1) (fabOffset header) then 1 else 0)
        else
          let ex := s1.exchange p q
          if payload.isEmpty then
            (if fabFinal header then s1.setExchange p q { ex with ended := addOnce ex.ended (src, fabStep header) } else s1)
          else
            match locateSlab s1 (sliceSlabs s1 p q pl.i) (fabOffset header) with
            | none => s1.dropPacket
            | some (k, tid, j, first) =>
              let cs := takeChunk s1 ex.chunks false src (fabStep header) k tid j first (fabOffset header) payload
              (s1.setExchange p q { ex with chunks := cs }).judgeChunk p q false src (fabStep header) k)

/-- What each rank of the domain contributes to a slab, in rank order: the own accumulators, and complete chunks. -/
def nearParts (s : State) (p q slab : Nat) : List (Tbl F32) :=
  let pl := placeOf s p
  let ex := s.exchange p q
  (List.range pl.m).filterMap (fun r =>
    if r = pl.i then (if ex.contributes then some ex.own else none) else (chunkOf ex false r ex.step slab).map (fun c => c.vals))

/-- The domain partial of a quay's slice: the contributions of every slab in order, then the near fold store (R299). -/
def nearStore (s : State) (p q : Nat) : Tbl F32 :=
  (sliceSlabs s p q (placeOf s p).i).foldl (fun out e =>
    slabSums s e.2.1 e.2.2 (nearParts s p q e.1) (s.exchange p q).nearFold out) []

/-- The near close: contributions in rank order, then the near fold store; the domain partial goes to the shards' holders. -/
def State.closeNear (s : State) (p q : Nat) : State :=
  let pl := placeOf s p
  let ex := s.exchange p q
  let store := nearStore s p q
  let used := ex.chunks.filter (fun c => !c.far && c.complete && c.step == ex.step)
  let rows := (ex.ownRows ++ used.flatMap (fun c => c.rows) ++ ex.nearFoldRows).foldl addOnce []
  let s1 := s.setExchange p q { ex with
    nearClosed := true, nearCloseAt := s.now, partialStore := store, partialRows := rows, nearFold := [], nearFoldRows := []
    chunks := ex.chunks.filter (fun c => c.far || !c.complete || c.step != ex.step)
    farLevel := { ex.farLevel with onTime := addOnce ex.farLevel.onTime pl.d } }
  (List.range pl.dd).foldl (fun t d =>
    let out := shardSlabs s p q pl.i d
    let n := shardNo pl pl.i d q
    let h := holderOf s p n
    if holdsShard s p q n ∨ out.isEmpty then t
    else t.sendSlabs q { typ := 2, dm := h.1, dq := h.2, ledger := ledgerOf s p, step := ex.step, shard := n, off := 0 }
      (if h = ownerOf s p n then out else mirrorSlabs s p n h.2) store rows) s1

/-- The state at the near close of a domain in a quay: at once when every rank is complete, else at the pass-one instance; none where
neither is so. -/
def nearReady (s : State) (p q : Nat) : Option State :=
  let pl := placeOf s p
  let ex := s.exchange p q
  let slabs := sliceSlabs s p q pl.i
  if !ex.began || ex.nearClosed then none
  else if (List.range pl.m).all (fun r => r == pl.i || sourceComplete ex false r slabs) then some s
  else phaseReady s p 1

/-- NEAR_CLOSE: when every rank is complete, or at the pass-one instance (R299). The lag of this domain is free where there are
others (R319; log 8). -/
def execNearClose (q : Nat) (s : State) : Out :=
  onQuay q (
    match (List.range 8).findSome? (fun p => (nearReady s p q).map (fun t => (p, t))) with
    | none => s
    | some (p, s1) =>
      let ex := s.exchange p q
      let s2 := s1.closeNear p q
      let lag : Int := if (placeOf s p).dd = 1 then 0 else (Config.freeNat s2.freeCtr ex.step : Int)
      let lags := s2.ledger.lags.filter (fun e => e.1 != ex.step) ++ [(ex.step, lag)]
      { s2 with ledger := { s2.ledger with lags := lags.drop (lags.length - 64) } }.bump)

/-! ### Far stage and mirrors (R300, R301) -/

/-- PARTIAL_RECEIVE: a domain partial's chunk for a shard that the quay holds; for any other it draws a REJECT (R300, R306). -/
def execPartialReceive (q : Nat) (header : BitVec 256) (payload : List Byte) (s : State) : Out :=
  onQuay q (
    let r := s.fabricTake q 2 header payload
    match r.2 with
    | none => r.1
    | some p =>
      let s1 := r.1
      let pl := placeOf s1 p
      let n := fabShard header
      let i := (shardPlace pl n).1
      match (List.range pl.dd).find? (fun d => memberModule s1 p i d == fabSrc header && (i != pl.i || d != pl.d)) with
      | none => s1.dropPacket
      | some src =>
        if n ∉ heldShards s1 p q then
          (s1.rejectPacket q header).countChunk 5 (if atSlab s1 (shardSlabsNo s1 p n) (fabOffset header) then 1 else 0)
        else
          let ex := s1.exchange p q
          match locateSlab s1 (heldSlabs s1 p q n) (fabOffset header) with
          | none => s1.dropPacket
          | some (k, tid, j, first) =>
            let cs := takeChunk s1 ex.chunks true src (fabStep header) k tid j first (fabOffset header) payload
            (s1.setExchange p q { ex with chunks := cs }).judgeChunk p q true src (fabStep header) k)

/-- The partial of a slab from a domain: this module's own, or the one received. -/
def slabPartialOf (s : State) (p : Nat) (ex : Exchange) (n k d : Nat) : Option (Tbl F32) :=
  let pl := placeOf s p
  if (shardPlace pl n).1 = pl.i ∧ d = pl.d then some ex.partialStore else (chunkOf ex true d ex.step k).map (fun c => c.vals)

/-- The shards whose far stage a quay works on: those that it holds, but for one whose role came to it within the step (R313). -/
def farShards (s : State) (p q : Nat) : List Nat := (heldShards s p q).filter (fun n => !decide (n ∈ (s.exchange p q).inherited))

/-- The reduced store of a quay's shards: the partials of every slab in domain order, then the far fold store (R300). -/
def farStore (s : State) (p q : Nat) : Tbl F32 :=
  (farShards s p q).foldl (fun acc n =>
    (heldSlabs s p q n).foldl (fun out e =>
      slabSums s e.2.1 e.2.2 ((List.range (placeOf s p).dd).filterMap (slabPartialOf s p (s.exchange p q) n e.1)) (s.exchange p q).farFold out) acc) []

/-- Closes the far stage: partials in domain order, then the far fold store; the reduced store goes to the mirror. -/
def State.closeFar (s : State) (p q : Nat) : State :=
  let ex := s.exchange p q
  let ns := farShards s p q
  let store := farStore s p q
  let used := ex.chunks.filter (fun c => c.far && c.complete && c.step == ex.step)
  let rows := (ex.partialRows ++ used.flatMap (fun c => c.rows) ++ ex.farFoldRows).foldl addOnce []
  let targets := ns.flatMap (fun n => (mirrorTargets s p n).map (fun t => (n, t)))
  let s1 := s.setExchange p q { ex with
    farClosed := true, reduced := store, reducedFor := ns, rows := rows, farFold := [], farFoldRows := []
    mirrorAcks := targets.map (fun e => e.1)
    chunks := ex.chunks.filter (fun c => !c.far || !c.complete || c.step != ex.step) }
  targets.foldl (fun t e =>
    t.sendSlabs q { typ := 5, dm := e.2.1, dq := e.2.2.1, ledger := ledgerOf s p, step := ex.step, shard := e.1, off := 0 }
      (mirrorSlabs s p e.1 e.2.2.2) store rows) s1

/-- Whether every partial of the shards that a quay holds is complete. -/
def farComplete (s : State) (p q : Nat) : Bool :=
  let ex := s.exchange p q
  (farShards s p q).all (fun n => (heldSlabs s p q n).all (fun e =>
    (List.range (placeOf s p).dd).all (fun d => (slabPartialOf s p ex n e.1 d).isSome)))

/-- The domain whose exchange in a quay satisfies a test. -/
def exchangeWhere (s : State) (q : Nat) (f : Nat → Exchange → Bool) : Option Nat :=
  (List.range 8).find? (fun p => let e := s.exchange p q; e.began && f p e)

/-- FAR_CLOSE: when every partial is complete, or when the far wait is over (R300). -/
def execFarClose (q : Nat) (s : State) : Out :=
  onQuay q (
    let due := fun (e : Exchange) => e.nearClosed && !e.farClosed
    match exchangeWhere s q (fun p e => due e && farComplete s p q) with
    | some p => s.closeFar p q
    | none =>
      match exchangeWhere s q (fun _ e => due e) with
      | none => s
      | some p =>
        let wait := match tableOf s p with | some t => t.farWait | none => 0
        (s.advance ((s.exchange p q).nearCloseAt + wait * cyPerTick)).closeFar p q)

/-- Whether a quay has the whole reduced store of a shard and step from its holder. -/
def mirrorWhole (s : State) (p q n step : Nat) : Bool :=
  let ex := s.exchange p q
  let tiles := ((copySlabs s p q n).map (fun e => (slabSpan s e.2.1 e.2.2).2 / 1024)).foldl (· + ·) 0
  decide ((ex.mirrorGot.filter (fun e => e.1 == n)).length = tiles) && decide ((n, step) ∈ ex.mirrorFinal)
    && tfind ex.mirrorStep n == some step

/-- Sends a message of the ledger. -/
def State.say (s : State) (m : LedgerMsg) : State := { s with ledger := { s.ledger with sentMsgs := s.ledger.sentMsgs ++ [m] } }

/-- MIRROR_RECEIVE: reduced-store data of a shard that the quay mirrors; the whole store is acknowledged. -/
def execMirrorReceive (q : Nat) (header : BitVec 256) (payload : List Byte) (s : State) : Out :=
  onQuay q (
    let r := s.fabricTake q 5 header payload
    match r.2 with
    | none => r.1
    | some p =>
      let s1 := r.1
      let n := fabShard header
      let step := fabStep header
      let ex0 := s1.exchange p q
      if n ∉ copyShards s1 p q then s1.rejectPacket q header
      else if step < ex0.step then s1
      else
        let ex := if tfind ex0.mirrorStep n = some step then ex0
          else { ex0 with
            mirrorStep := tset ex0.mirrorStep n step, mirrorGot := ex0.mirrorGot.filter (fun e => e.1 != n)
            mirrorRows := ex0.mirrorRows.filter (fun e => e.1 != n), mirrorFinal := ex0.mirrorFinal.filter (fun e => e.1 != n) }
        match locateSlab s1 (copySlabs s1 p q n) (fabOffset header) with
        | none => s1.dropPacket
        | some (_, tid, _, first) =>
          let ex1 := if rowsMark ≤ fabOffset header then
              { ex with mirrorRows := ((payloadRows tid payload).map (fun k => (n, k))).foldl addOnce ex.mirrorRows }
            else { ex with mirror := putValues ex.mirror tid first payload, mirrorGot := addOnce ex.mirrorGot (n, fabOffset header) }
          let ex2 := if fabFinal header then { ex1 with mirrorFinal := addOnce ex1.mirrorFinal (n, step) } else ex1
          let s2 := s1.setExchange p q ex2
          if mirrorWhole s2 p q n step && !mirrorWhole s p q n step then s2.say (.mirrorAck n (fabSrc header) (fabSrcQuay header)) else s2)

/-! ### The norm (R255, R301) -/

/-- What a quay has as a shard's reduced gradient in a step: what its far stage gave, or its holder's copy; zero where that is not
whole, so too where the role came to it within the step (R301, R313). -/
def shardGrad (s : State) (p q n : Nat) : Tbl F32 × List Nat :=
  let ex := s.exchange p q
  if n ∈ ex.reducedFor then (ex.reduced, ex.rows)
  else if mirrorWhole s p q n ex.step then (ex.mirror, (ex.mirrorRows.filter (fun e => e.1 == n)).map (fun e => e.2))
  else ([], [])

/-- The shard sum of a held shard, its slab partials in slab order; for the quay's own shard those of pass one, none before it. -/
def shardSum (s : State) (p q n : Nat) : Option F64 :=
  let run := s.run p
  let slabs := heldSlabs s p q n
  if n ≠ ownShard s p q then
    some (treeOf (slabs.map (fun e =>
      let span := slabSpan s e.2.1 e.2.2
      slabPartial (shardGrad s p q n).1 e.2.1 span.1 span.2 (grpGmul (groupFor s p e.2.1)))))
  else if slabs.all (fun e => (tfind run.sums (ekey e.2.1 e.2.2)).isSome) then
    some (treeOf (slabs.map (fun e => tget 0 run.sums (ekey e.2.1 e.2.2))))
  else none

/-- A quay holds the shard sum of every shard that takes part. -/
def normsWhole (s : State) (p q : Nat) : Bool := (liveShards s p).all (fun n => (tfind (s.exchange p q).norms n).isSome)

/-- Forms g2 once a quay holds the shard sum of every shard that takes part, and with it the clip factor. -/
def State.formNorm (s : State) (p q : Nat) : State :=
  let run := s.run p
  let ex := s.exchange p q
  let live := liveShards s p
  if run.g2.isSome || !normsWhole s p q then s
  else
    let g2 := treeOf (live.map (fun n => tget 0 ex.norms n))
    let cf := clipFactor g2 (domTheta run.domRec)
    s.setRun p { run with g2 := some g2, cf := cf, report := { run.report with g2 := g2, cf := cf } }

/-- Every quay that holds a shard of the domain. -/
def holderQuays (s : State) (p : Nat) : List (Nat × Nat) := (liveShards s p).foldl (fun l n => addOnce l (holderOf s p n)) []

/-- Sends the shard sum of one held shard to every quay that holds a shard. -/
def State.sendShardSum (s : State) (p q n : Nat) : State :=
  let ex := s.exchange p q
  match shardSum s p q n with
  | none => s
  | some x =>
    let s1 := s.setExchange p q { ex with normsSent := addOnce ex.normsSent n, norms := tset ex.norms n x }
    let s2 := (holderQuays s p).foldl (fun t h =>
      if h = (s.moduleNumber, q) then t
      else t.sendPacket q { typ := 3, dm := h.1, dq := h.2, ledger := ledgerOf s p, step := ex.step, shard := n, off := 0, final := true }
        (leBytes 8 x.toNat)) s1
    s2.formNorm p q

/-- A quay sends the shard sums of the shards it holds once its far stage is closed, its mirrors have acknowledged and pass one is
over; a quay without a harbour master sends none (R301, R311). -/
def State.sendNorm (s : State) (p q : Nat) : State :=
  let ex := s.exchange p q
  let e := s.engines q
  let passed := decide (2 ≤ (s.run p).phase) && !(e.dom == p && e.pass == 1 && !e.passDone)
  if !ex.farClosed || !ex.mirrorAcks.isEmpty || decide (q ∈ s.ledger.silent) || !passed then s
  else ((heldShards s p q).filter (fun n => n ∉ ex.normsSent)).foldl (fun t n => t.sendShardSum p q n) s

/-- MIRROR_ACK: the acknowledgement of a whole store of a shard; with the last one awaited the shard sum may go out. -/
def execMirrorAck (q shard : Nat) (s : State) : Out :=
  onQuay q (
    match exchangeWhere s q (fun p e => e.farClosed && decide (shard ∈ e.mirrorAcks) && decide (shard ∈ heldShards s p q)) with
    | none => s
    | some p =>
      let ex := s.exchange p q
      (s.setExchange p q { ex with mirrorAcks := ex.mirrorAcks.erase shard }).sendNorm p q)

/-- NORM_RECEIVE: a shard sum from its holder in the role map; one of a step not yet begun here waits. -/
def execNormReceive (q : Nat) (header : BitVec 256) (payload : List Byte) (s : State) : Out :=
  onQuay q (
    let r := s.fabricTake q 3 header payload
    match r.2 with
    | none => r.1
    | some p =>
      let s1 := r.1
      let ex := s1.exchange p q
      let n := fabShard header
      let x := BitVec.ofNat 64 (leNat payload)
      if holderOf s1 p n ≠ (fabSrc header, fabSrcQuay header) ∨ payload.length ≠ 8 then s1
      else if ex.step < fabStep header ∨ !ex.began then
        s1.setExchange p q { ex with earlyNorms := ex.earlyNorms ++ [(fabStep header, n, x)] }
      else if fabStep header < ex.step then s1
      else (s1.setExchange p q { ex with norms := tset ex.norms n x }).formNorm p q)

/-! ### Passes (R251, R254, R260, R270) -/

/-- Optimizer keys and slabs that a quay updates, of its own shard and of the shards it mirrors, in ascending tensor ID and slab (R251). -/
def quaySlabs (s : State) (p q : Nat) : List (Nat × Nat) :=
  orderUnits ((shardSlabsNo s p (ownShard s p q)).map (fun e => (e.2.1, e.2.2))
    ++ (mirroredHere s p q).flatMap (fun n => (mirrorSlabs s p n q).map (fun e => (e.2.1 + mirrorKey, e.2.2))))

/-- The units of pass two: slabs, or the blocks that lie in them (R263). -/
def passTwoUnits (s : State) (p q : Nat) : List (Nat × Nat) :=
  let slabs := quaySlabs s p q
  let keys := slabs.foldl (fun l e => addOnce l e.1) []
  keys.flatMap (fun k =>
    let tid := baseTid k
    let js := (slabs.filter (fun e => e.1 == k)).map (fun e => e.2)
    match s.recOf tid with
    | none => []
    | some r =>
      let g := groupFor s p tid
      if grpRule g = 2 then
        let per := grpBout g / 32 * recTin r
        let rows := 32 * recTout r / max 1 (grpBout g)
        ((List.range rows).filter (fun b => decide (b * per / 16 ∈ js))).flatMap (fun b =>
          (List.range (blocksIn r g)).map (fun a => (k, b * blocksIn r g + a)))
      else js.map (fun j => (k, j)))

/-- Begins a pass in every quay of the module. -/
def State.beginPass (s : State) (p pass : Nat) (units : Nat → List (Nat × Nat)) : State :=
  (List.range 4).foldl (fun t q =>
    let us := units q
    if us.isEmpty then t else t.setEngines q ((t.engines q).begin p pass (enabledEngines t q) us)) s

/-- The engines of every quay that has units of a pass are free of another domain's pass (R251; log 26). -/
def enginesFree (s : State) (p : Nat) (units : Nat → List (Nat × Nat)) : Bool :=
  (List.range 4).all (fun q => (units q).isEmpty || (s.engines q).dom == p || (s.engines q).passDone)

/-- The pass of a domain is over in every quay. -/
def passOver (s : State) (p pass : Nat) : Bool :=
  (List.range 4).all (fun q => let e := s.engines q; !(e.dom == p && e.pass == pass) || e.passDone)

/-- PASS_ONE_BEGIN: after its instance, with the reduce-scatter of every quay over. -/
def execPassOneBegin (p : Nat) (s : State) : Out :=
  onPart p (
    let run := s.run p
    if run.phase ≠ 1 ∨ !(activeQuays s p).all (fun q => (s.exchange p q).farClosed) ∨ !enginesFree s p (quaySlabs s p) then s
    else
      match phaseReady s p 1 with
      | none => s
      | some s1 =>
        let late := lateTicks s1 p 1
        let s2 := s1.setRun p { run with phase := 2, sums := [], report := { run.report with lateness := run.report.lateness ++ [late] } }
        s2.beginPass p 1 (quaySlabs s2 p))

/-- Every optimizer key of a domain that this module updates. -/
def domainKeys (s : State) (p : Nat) : List Nat := (List.range 4).foldl (fun l q => (quaySlabs s p q).foldl (fun m e => addOnce m e.1) l) []

/-- Touched rows that a quay's held shards update: those of EMBEDDINGs with lazy rows that its slabs contain (R261, R276). -/
def lazyRows (s : State) (p q : Nat) : List Nat :=
  (heldShards s p q).flatMap (fun n =>
    let rows := (shardGrad s p q n).2
    ((heldSlabs s p q n).flatMap (fun e =>
      match s.recOf e.2.1 with
      | some r => if recKind r = 1 ∧ grpLazy (groupFor s p e.2.1) then slabRows s e.2.1 e.2.2 rows else []
      | none => [])).foldl addOnce [])

/-- The optimizer state of a domain's tensors, primaries and mirrors. -/
def domainState (s : State) (p : Nat) : Tbl OptState :=
  s.opt.tensors.filter (fun e => decide (baseTid e.1 ∈ domainTensors s p))

/-- The states that checkpoints may still ask for, with the present one under version n as pass two of step n begins (R271). -/
def priorStates (s : State) (p : Nat) : Tbl (Tbl OptState) :=
  let run := s.run p
  tset (run.prior.filter (fun e => decide (tget 0 s.ledger.committed (ledgerOf s p) ≤ e.1))) run.step (domainState s p)

/-- PASS_TWO_BEGIN: after its instance and pass one, with g2 formed in every quay that holds a shard and no checkpoint copy of the
domain open; a g2 that is not finite skips the update (R257, R260, R271, R301). -/
def execPassTwoBegin (p : Nat) (s : State) : Out :=
  onPart p (
    let run := s.run p
    match run.g2 with
    | some g2 =>
      let copying := (domainTensors s p).any (fun tid => (s.tensor tid).checkpointing.isSome)
      let whole := (List.range 4).all (fun q => (heldShards s p q).isEmpty || normsWhole s p q)
      if run.phase ≠ 2 ∨ !passOver s p 1 ∨ copying ∨ !whole ∨ !enginesFree s p (passTwoUnits s p) then s
      else
        match phaseReady s p 2 with
        | none => s
        | some s1 =>
          let late := lateTicks s1 p 2
          let lr := lrAt (domPoints run.domRec) run.step
          let skip := !dFinite g2
          let rows := ((List.range 4).map (fun q => (lazyRows s p q).length)).foldl (· + ·) 0
          let rep := { run.report with
            lateness := run.report.lateness ++ [late], lr := f64ToF32 lr, touchedRows := if skip then 0 else rows
            flags := run.report.flags ||| (if skip then 1 else 0) ||| (if run.pinned then 4 else 0) }
          let s2 := s1.setRun p { run with
            phase := 3, lr := lr, skipped := skip, report := rep, prior := if skip then run.prior else priorStates s p }
          if skip then
            let s3 := (List.range 4).foldl (fun (t : State) q =>
              let ex := t.exchange p q
              ((t.setExchange p q { ex with
                near := { ex.near with folded := [], foldedChunks := 0, dropped := ex.near.folded.foldl addOnce ex.near.dropped }
                farLevel := { ex.farLevel with folded := [], foldedChunks := 0, dropped := ex.farLevel.folded.foldl addOnce ex.farLevel.dropped } }).dropFolded
                  0 ex.near.foldedChunks).dropFolded 3 ex.farLevel.foldedChunks) s2
            s3.event sevDegraded evUpdateSkipped (ledgerOf s p) (run.step % 2 ^ 32)
          else
            let s3 := (domainKeys s2 p).foldl (fun (t : State) k => t.setOptOf k { t.optOf k with u := (t.optOf k).u + 1 }) s2
            s3.beginPass p 2 (passTwoUnits s3 p)
    | none => s)

/-- The shard that a unit of a pass belongs to. -/
def unitShard (s : State) (p q pass key unit : Nat) : Option Nat :=
  if key < mirrorKey then some (ownShard s p q)
  else
    let tid := baseTid key
    let g := groupFor s p tid
    let slab := match s.recOf tid with
      | some r => if pass = 2 ∧ grpRule g = 2 then unit / blocksIn r g * (grpBout g / 32 * recTin r) / 16 else unit
      | none => unit
    (mirroredHere s p q).find? (fun n => (mirrorSlabs s p n q).any (fun e => e.2.1 == tid && e.2.2 == slab))

/-- A unit is computed and written back. -/
def State.doUnit (s : State) (p q pass key unit : Nat) : State :=
  let run := s.run p
  let tid := baseTid key
  let (store, rows) := match unitShard s p q pass key unit with
    | some n => shardGrad s p q n
    | none => ([], [])
  let o := s.optOf key
  let g := groupFor s p tid
  if pass = 1 then
    let span := slabSpan s tid unit
    s.setRun p { run with sums := tset run.sums (ekey key unit) (slabPartial store tid span.1 span.2 (grpGmul g)) }
  else
    let a := adamPar g run.lr run.cf
    let slabs := ((quaySlabs s p q).filter (fun e => e.1 == key)).map (fun e => e.2)
    s.setOptOf key (if grpRule g = 2 then precondBlock s a g key o store run.pinned unit
      else adamSlab s a g key o store rows slabs unit)

/-- Statistics are kept for the root computations of every tensor that is due one (R265). -/
def State.snapshots (s : State) (p q : Nat) : State :=
  let keys := (quaySlabs s p q).foldl (fun l e => addOnce l e.1) []
  keys.foldl (fun (t : State) k =>
    let g := groupFor t p (baseTid k)
    if grpRule g = 2 then t.setOptOf k ((t.optOf k).snapshot (grpK g)) else t) s

/-- A pass ends in a quay when every unit has been written back. -/
def State.endPass (s : State) (p q : Nat) : State :=
  let e := s.engines q
  if !e.idle || e.passDone then s
  else
    let s1 := s.setEngines q { e with passDone := true }
    if e.pass = 1 then s1.sendNorm p q else s1.snapshots p q

/-- UNIT_WRITEBACK: the engine's unit is done, and it takes its own next one or the tail of the longest queue. -/
def execUnitWriteback (q engine : Nat) (s : State) : Out :=
  onQuay q (
    let e := s.engines q
    match tget none e.working engine with
    | none => s
    | some (key, unit) =>
      let s1 := s.doUnit e.dom q e.pass key unit
      (s1.setEngines q ((s1.engines q).take engine)).endPass e.dom q)

/-- Puts one side's result into a block. The block enters fallback once in a computation, whichever sides fail (R265; log 40). -/
def BlockState.takeRoot (b : BlockState) (right : Bool) (k : Nat) : RootResult → BlockState
  | .kept => if right then { b with newR := some [] } else { b with newL := some [] }
  | .root x n =>
    if right then { b with newR := some x, acceptedR := true, attemptsR := n } else { b with newL := some x, acceptedL := true, attemptsL := n }
  | .failed =>
    let b1 := { b with failed := true, fallback := k, fallbacks := b.fallbacks + if b.failed then 0 else 1 }
    if right then { b1 with attemptsR := 5, missedR := true } else { b1 with attemptsL := 5, missedL := true }

/-- ROOT_COMPUTATION: one side of one block from its snapshot; a side that fails sends the block into fallback (R265, R266). -/
def execRootComputation (id a b : Nat) (right : Bool) (s : State) : Out :=
  .next (
    match s.recOf id with
    | none => s
    | some r =>
      let g := s.groupRec (s.optOf id).group
      let unit := b * blocksIn r g + a
      if grpRule g ≠ 2 ∨ blocksIn r g ≤ a then s
      else
        let one := fun (t : State) (key : Nat) =>
          let o := t.optOf key
          let bl := tget {} o.blocks unit
          if bl.due.isNone || bl.sideDone right then t
          else
            let res := if right then blockRoot g bl.snapR (grpBout g) else blockRoot g bl.snapL (grpBin g)
            t.setOptOf key { o with blocks := tput {} o.blocks unit (bl.takeRoot right (grpK g) res) }
        let s1 := one (one s id) (id + mirrorKey)
        let missed := fun (t : State) =>
          let bl := tget {} (t.optOf id).blocks unit
          if right then bl.missedR else bl.missedL
        if !missed s && missed s1 then s1.event sevDegraded evPrecondFallback id (a * 65536 + b * 2 + (if right then 1 else 0)) else s1)

/-! ### Publication (R267-R269, R302, R303) -/

/-- Tiles of a slab list in stream order. -/
def streamTiles (s : State) (slabs : List (Nat × Nat × Nat)) : List (Nat × Nat) :=
  slabs.flatMap (fun e =>
    let span := slabSpan s e.2.1 e.2.2
    (List.range (span.2 / 1024)).map (fun t => (e.2.1, span.1 / 1024 + t)))

/-- The stream bytes of a shard in a version, as this module holds them. -/
def shardStream (s : State) (p n version : Nat) : List Byte :=
  (streamTiles s (shardSlabsNo s p n)).flatMap (fun e =>
    match s.recOf e.1 with
    | none => []
    | some r =>
      match (s.tensor e.1).slot version with
      | some v => versionTile s.freeCtr r v e.2
      | none => [])

/-- Length of a shard's stream bytes. -/
def streamLength (s : State) (p n : Nat) : Nat :=
  ((streamTiles s (shardSlabsNo s p n)).map (fun e =>
    match s.recOf e.1 with
    | some r => tileBytes (recStream r)
    | none => 0)).foldl (· + ·) 0

/-- The 64-bit running sum of a byte string (R143). -/
def runningSum (bs : List Byte) : BitVec 64 :=
  (List.range (bs.length / 8)).foldl (fun a i => a + BitVec.ofNat 64 (leAt bs (8 * i) 8)) 0

/-- Writes stream bytes at an offset of a shard's stream into the version slots. -/
def State.putStream (s : State) (p n version off : Nat) (data : List Byte) : State :=
  let tiles := streamTiles s (shardSlabsNo s p n)
  (tiles.foldl (fun (acc : State × Nat) e =>
    match acc.1.recOf e.1 with
    | none => acc
    | some r =>
      let len := tileBytes (recStream r)
      let base := acc.2
      let lo := max base off
      let hi := min (base + len) (off + data.length)
      if lo < hi then
        let t := (acc.1.openSlot e.1 version).tensor e.1
        match t.slot version with
        | none => (acc.1, base + len)
        | some v =>
          let v1 := { v with bytes := writeBytes v.bytes (e.2 * len + (lo - base)) ((data.drop (lo - off)).take (hi - lo)) }
          ((acc.1.openSlot e.1 version).setTensor e.1 (t.putSlot v1), base + len)
      else (acc.1, base + len)) (s, 0)).1

/-- Sends the stream bytes of a shard to the quay of its number in a module. -/
def State.sendBytes (s : State) (p q n step dm : Nat) (bs : List Byte) : State :=
  let k := ceilDiv bs.length 4096
  (List.range k).foldl (fun t i =>
    t.sendPacket q { typ := 4, dm := dm, dq := n % 4, ledger := ledgerOf s p, step := step, shard := n, off := 8 * i
                     final := decide (i + 1 = k) } ((bs.drop (4096 * i)).take 4096)) s

/-- Sends the stream bytes of a shard as this module holds them. -/
def State.sendStream (s : State) (p q n step dm : Nat) : State := s.sendBytes p q n step dm (shardStream s p n (step + 1))

/-- Stream bytes of a shard have come at an offset. -/
def Exchange.gather (ex : Exchange) (n off len : Nat) : Exchange :=
  { ex with gathered := tset ex.gathered n (tset (tget [] ex.gathered n) off (max len (tget 0 (tget [] ex.gathered n) off))) }

/-- Bytes of a shard's stream that a quay has, none counted twice: how far the received pieces reach without a gap or an overlap (R269). -/
def Exchange.gatheredOf (ex : Exchange) (n : Nat) : Nat :=
  (tget [] ex.gathered n).foldl (fun reach e => if e.1 ≤ reach then max reach (e.1 + e.2) else reach) 0

/-- Every byte of a shard's new stream copy is in a quay. -/
def streamWhole (s : State) (p n : Nat) (ex : Exchange) : Bool := decide (streamLength s p n ≤ ex.gatheredOf n)

/-- The shards of this module's slice in a quay. -/
def sliceShards (s : State) (p q : Nat) : List Nat :=
  let pl := placeOf s p
  (liveShards s p).filter (fun n => let x := shardPlace pl n; decide (x.1 = pl.i ∧ x.2.2 = q))

/-- The second stage of the gather, once the whole slice is here (R302). -/
def State.relayGather (s : State) (p q : Nat) : State :=
  let pl := placeOf s p
  let ex := s.exchange p q
  let ns := sliceShards s p q
  if ex.relayed || ns.isEmpty || !ns.all (fun n => streamWhole s p n ex) then s
  else
    let s1 := s.setExchange p q { ex with relayed := true }
    (List.range pl.m).foldl (fun t j =>
      if j = pl.i then t else ns.foldl (fun u n => u.sendStream p q n ex.step (memberModule s p j pl.d)) t) s1

/-- The stream bytes of a shard as a mirror's own copy of the state gives them; a skipped step leaves those of the version before (R257,
R303). -/
def mirrorStream (s : State) (p q n : Nat) : List Byte :=
  let run := s.run p
  if run.skipped then shardStream s p n (run.step + 1)
  else
    (streamTiles s (mirrorSlabs s p n q)).flatMap (fun e =>
      match s.recOf e.1 with
      | none => []
      | some r => streamTile r (groupFor s p e.1) (s.optOf (e.1 + mirrorKey)) run.step e.2)

/-- The counts of a shard for its SHARD_DONE. Near counts are those of a slice owner: a mirror has none (log 27). -/
def shardEntry (s : State) (p q n : Nat) (mirror : Bool) : ShardEntry :=
  let ex := s.exchange p q
  let run := s.run p
  let near := fun (l : List Nat) => if mirror then 0 else l.length
  { shard := n
    status := if run.skipped then 2 else if n ∈ ex.reducedFor ∨ mirrorWhole s p q n ex.step then 0 else 1
    mirror := mirror
    nearOnTime := near ex.near.onTime
    nearFolded := near ex.near.folded
    nearDropped := near ex.near.dropped
    farOnTime := ex.farLevel.onTime.length
    farFolded := ex.farLevel.folded.length
    farDropped := ex.farLevel.dropped.length
    streamSum := runningSum (if mirror then mirrorStream s p q n else shardStream s p n (run.step + 1)) }

/-- The SHARD_DONE messages that a module owes for the shards of quay number q: of its own shard, and of those that its quays hold or keep
a valid copy of; none of a lost one (R270, R303). Each is (quay, shard, mirror). -/
def donesOwed (s : State) (p q : Nat) : List (Nat × Nat × Bool) :=
  let run := s.run p
  let valid := fun (rq n : Nat) => !decide (n ∈ run.lost) && (holdsShard s p rq n || !mirrorBad s n)
  ((ownLive s p q).filter (valid q)).map (fun n => (q, n, false))
    ++ (List.range 4).flatMap (fun rq =>
      ((mirroredHere s p rq).filter (fun n => n % 4 == q && mirrorFull s p n rq && valid rq n)).map (fun n => (rq, n, true)))

/-- Keeps every element that fails a test, and the first n that meet it. -/
def keepFirst {α : Type} (f : α → Bool) : Nat → List α → List α
  | _, [] => []
  | 0, a :: l => if f a then keepFirst f 0 l else a :: keepFirst f 0 l
  | n + 1, a :: l => if f a then a :: keepFirst f n l else a :: keepFirst f (n + 1) l

/-- A domain's update report, most recent first; the last 16 of each domain are kept (R276). -/
def State.pushReport (s : State) (rep : UpdateReport) : State :=
  { s with opt := { s.opt with reports := keepFirst (fun r => r.domain == rep.domain) 16 (rep :: s.opt.reports) } }

/-- Version n + 1 is complete in a quay when every tile is there (R269); the holders of its shards and of their copies then report, once
they hear a harbour master (R303, R311). The whole update ends with the last quay. -/
def State.completeVersion (s : State) (p q : Nat) : State :=
  let run := s.run p
  let ex := s.exchange p q
  let ns := (liveShards s p).filter (fun n => n % 4 == q)
  let owed := donesOwed s p q
  if run.phase ≠ 4 ∨ ex.shardDone ∨ q ∈ s.ledger.silent ∨ owed.any (fun e => decide (e.1 ∈ s.ledger.silent))
      ∨ !ns.all (fun n => run.skipped || streamWhole s p n ex) then s
  else
    let tids := (domainTensors s p).filter (fun tid => match s.recOf tid with | some r => recPrimary r == q | none => false)
    let s1 := tids.foldl (fun (t : State) tid =>
      let x := t.tensor tid
      match x.slot (run.step + 1) with
      | some v => t.setTensor tid (x.putSlot { v with complete := true })
      | none => t) s
    let s2 := owed.foldl (fun (t : State) e =>
      t.say (.shardDone (ledgerOf s p) run.step s.moduleNumber e.1 (shardEntry s p e.1 e.2.1 e.2.2))) s1
    let s3 := s2.setExchange p q { ex with shardDone := true }
    if (List.range 4).all (fun k => (s3.exchange p k).shardDone || ((liveShards s p).filter (fun n => n % 4 == k)).isEmpty) then
      (s3.setRun p { run with phase := 0, done := true, par := [] }).pushReport run.report
    else s3

/-- Publishes the slabs of a quay's own shard: written here, and sent to the shard's rank in every domain. -/
def State.publishOwn (s : State) (p q n : Nat) : State :=
  let run := s.run p
  let ex := s.exchange p q
  let s1 := (streamTiles s (shardSlabsNo s p n)).foldl (fun (t : State) e =>
    match t.recOf e.1 with
    | none => t
    | some r =>
      let g := groupFor t p e.1
      let o := t.optOf e.1
      let x := t.tensor e.1
      match x.slot (run.step + 1) with
      | none => t
      | some v =>
        let t1 := t.setTensor e.1 (x.putSlot { v with
          bytes := writeBytes v.bytes (e.2 * tileBytes (recStream r)) (streamTile r g o run.step e.2) })
        let ru := t1.run p
        t1.setRun p { ru with report := { ru.report with saturations := ru.report.saturations + streamSaturations r g o run.step e.2 } }) s
  let s2 := s1.setExchange p q (ex.gather n 0 (streamLength s p n))
  let pl := placeOf s p
  (List.range pl.dd).foldl (fun t d => if d = pl.d then t else t.sendStream p q n run.step (memberModule s p pl.i d)) s2

/-- Stream bytes that this module has of itself: into the version slot, and counted as received. -/
def State.landStream (s : State) (p n step off : Nat) (data : List Byte) : State :=
  let t := s.putStream p n (step + 1) off data
  t.setExchange p (n % 4) ((t.exchange p (n % 4)).gather n off data.length)

/-- Publishes a shard whose role has passed to this quay from the copy of its state: to the shard's rank in every domain, this module's
own quay of its number among them (R302, R311). Saturations count as the owner's would (R267). -/
def State.publishHeld (s : State) (p q n : Nat) : State :=
  let run := s.run p
  let pl := placeOf s p
  let i := (shardPlace pl n).1
  let bs := mirrorStream s p q n
  let sat := ((streamTiles s (mirrorSlabs s p n q)).map (fun e =>
    match s.recOf e.1 with
    | none => 0
    | some r => streamSaturations r (groupFor s p e.1) (s.optOf (e.1 + mirrorKey)) run.step e.2)).foldl (· + ·) 0
  let s1 := s.setRun p { run with report := { run.report with saturations := run.report.saturations + sat } }
  (List.range pl.dd).foldl (fun t d =>
    let m := memberModule s p i d
    if m = s.moduleNumber then (t.landStream p n run.step 0 bs).relayGather p (n % 4) else t.sendBytes p q n run.step m bs) s1

/-- Publication in one quay: version n + 1 is written for every shard that the quay holds, or a skipped step copies version n (R257,
R267). -/
def State.publish (s : State) (p q : Nat) : State :=
  let run := s.run p
  let tids := (domainTensors s p).filter (fun tid => match s.recOf tid with | some r => recPrimary r == q | none => false)
  if run.skipped then
    tids.foldl (fun (t : State) tid =>
      let old := (t.tensor tid).slot run.step
      let t1 := t.openSlot tid (run.step + 1)
      let x := t1.tensor tid
      match x.slot (run.step + 1), old with
      | some v, some o => t1.setTensor tid (x.putSlot { v with bytes := o.bytes })
      | _, _ => t1) s
  else
    let s0 := tids.foldl (fun (t : State) tid => t.openSlot tid (run.step + 1)) s
    let s1 := (heldShards s p q).foldl (fun t n => if n = ownShard s p q then t.publishOwn p q n else t.publishHeld p q n) s0
    s1.relayGather p q

/-- Preconditioner counts of a domain: an update report gives what came since the last publication. -/
def blockTotals (s : State) (p : Nat) (f : BlockState → Nat) : Nat :=
  ((domainTensors s p).map (fun tid => ((s.optOf tid).blocks.map (fun e => f e.2)).foldl (· + ·) 0)).foldl (· + ·) 0

/-- PUBLICATION_BEGIN: after its instance and pass two, once no entry names a version whose slot it takes (R195). -/
def execPublicationBegin (p : Nat) (s : State) : Out :=
  onPart p (
    let run := s.run p
    if run.phase ≠ 3 ∨ !passOver s p 2 then s
    else
      match phaseReady s p 3 with
      | none => s
      | some s1 =>
        if !(domainTensors s p).all (fun tid => slotReady s tid (run.step + 1)) then s1
        else
        let late := lateTicks s1 p 3
        let rep := { run.report with
          lateness := run.report.lateness ++ [late]
          fallbacks := blockTotals s1 p (fun b => b.fallbacks) - run.fallbackBase
          lateRoots := blockTotals s1 p (fun b => b.late) - run.lateBase }
        let s2 := s1.setRun p { run with
          phase := 4, report := rep
          fallbackBase := blockTotals s1 p (fun b => b.fallbacks), lateBase := blockTotals s1 p (fun b => b.late) }
        let s3 := (List.range 4).foldl (fun t q => t.publish p q) s2
        ((List.range 4).foldl (fun t q => t.completeVersion p q) s3).bump)

/-- GATHER_RECEIVE: stream bytes of the new version; they wait while an entry names the version whose slot they take (R195). -/
def execGatherReceive (q : Nat) (header : BitVec 256) (payload : List Byte) (s : State) : Out :=
  onQuay q (
    let waits := (List.range 8).any (fun p =>
      (streamTiles s (shardSlabsNo s p (fabShard header))).any (fun e => !slotReady s e.1 ((s.exchange p q).step + 1)))
    if waits then s
    else
    let r := s.fabricTake q 4 header payload
    match r.2 with
    | none => r.1
    | some p =>
      let s1 := r.1
      let ex := s1.exchange p q
      let n := fabShard header
      if fabStep header ≠ ex.step ∨ n % 4 ≠ q ∨ n ∉ liveShards s1 p ∨ (s1.run p).skipped then s1
      else
        (((s1.landStream p n ex.step (512 * fabOffset header) payload).relayGather p q).completeVersion p q).bump)

/-- QUAY_READ_REQ_RECEIVE: a read of the stream bytes of a shard, the step naming the version, is answered with a READ_RESP of up
to 4,096 B (R294; log 21). -/
def execQuayReadReqReceive (q : Nat) (header : BitVec 256) (s : State) : Out :=
  onQuay q (
    let r := s.fabricTake q 6 header []
    match r.2 with
    | none => r.1
    | some p =>
      let s1 := r.1
      let n := fabShard header
      let held := if (streamTiles s1 (shardSlabsNo s1 p n)).all (fun e => ((s1.tensor e.1).slot (fabStep header)).isSome) then
          shardStream s1 p n (fabStep header)
        else
          (streamTiles s1 (shardSlabsNo s1 p n)).flatMap (fun e =>
            match s1.recOf e.1, (s1.tensor e.1).copyOf (fabStep header) with
            | some rc, some c => versionTile s1.freeCtr rc c.version e.2
            | _, _ => [])
      let data := (held.drop (512 * fabOffset header)).take 4096
      if data.isEmpty then s1.rejectPacket q header
      else (s1.sendPacket q { typ := 7, dm := fabSrc header, dq := fabSrcQuay header, ledger := fabLedger header, step := fabStep header
                              shard := n, off := fabOffset header, final := true } data).bump)

/-! ### Copies of another module (R207, R208, R294, R297) -/

/-- The module that holds this module's replicas and mirrors: its partner in the membership table, else itself (R297). -/
def partnerModule (s : State) : Nat :=
  match s.ledger.membership with
  | none => s.moduleNumber
  | some t =>
    match t.members.find? (fun x => x.module == s.moduleNumber) with
    | some x => if x.partner = 0xFFFF then s.moduleNumber else x.partner
    | none => s.moduleNumber

/-- Where a tile stands in the stream of a shard: domain, shard, and offset in units of 512 B. -/
def streamPlace (s : State) (tid tile : Nat) : Option (Nat × Nat × Nat) :=
  (feeders s).findSome? (fun p => (liveShards s p).findSome? (fun n =>
    let tiles := streamTiles s (shardSlabsNo s p n)
    if (tid, tile) ∈ tiles then
      let before := (tiles.takeWhile (fun e => e != (tid, tile))).map (fun e => match s.recOf e.1 with | some r => tileBytes (recStream r) | none => 0)
      some (p, n, before.foldl (· + ·) 0 / 512)
    else none))

/-- Asks the replica quay in the partner module for a tile of a version (R207, R208; log 21). -/
def State.askReplica (s : State) (q tid tile version : Nat) : State :=
  match s.recOf tid, streamPlace s tid tile with
  | some r, some (p, n, off) =>
    if partnerModule s = s.moduleNumber then s
    else s.sendPacket q { typ := 6, dm := partnerModule s, dq := recReplica r, ledger := ledgerOf s p, step := version, shard := n, off := off } []
  | _, _ => s

/-- The shadow copy of an entry cannot be read: SKIP in its place, in the counts too (R205). -/
def State.shadowLost (s : State) (q i : Nat) (e : FetchEntry) : State :=
  let qu := (s.quay q).count 11 1
  let counts := tput 0 qu.counts 4 (tget 0 qu.counts 4 - 1)
  let dead := (s.setQuay q { qu with counts := counts, entries := qu.entries.set i { e with outcome := some .skip } }).deliver q i .skip
  (e.waiters.foldl (fun t w => t.exclude q w.part w.step w.outer) (dead.setQuay q ((dead.quay q).count 5 1))).settle q e.tid

/-- DRAM_UNCORRECTABLE: a retry, the mirror copy while it is valid, else the cheaper path with a damage mark (R208, R312). A shadow copy
that cannot be read gives SKIP (R205). -/
def execDramUncorrectable (q entry : Nat) (retryOk mirrorOk : Bool) (s : State) : Out :=
  onQuay q (
    match (s.quay q).entries[entry]? with
    | none => s
    | some e =>
      let t := s.tensor e.tid
      let ok := retryOk || (mirrorOk && recMirror t.record && mirrorServes s e.tid e.tile)
      if e.waiters.isEmpty then s
      else if decide (e.outcome = some .shadow) && !e.ready && !ok then s.shadowLost q entry e
      else if e.outcome.isSome || e.waiting || !dataServed s e then s
      else if ok then
        let s0 := if retryOk then s else s.askReplica q e.tid e.tile e.version
        let s1 := s0.setQuay q ((s0.quay q).count 10 1)
        if !canSend s q e then s1
        else if decisionTime s q e < s.now then s1.missEntry q entry e
        else s1.dataEntry q entry e
      else
        let qu := (s.quay q).count 11 1
        let s1 := s.setQuay q { qu with damaged := qu.damaged ++ [(e.tid, e.tile, e.version, cheaperPath t e.version)] }
        (s1.unreadableEntry q entry e).event sevDegraded evTileDamaged e.tid e.tile)

/-- FLASH_RECOVERY_STEP: re-reads, then the stripe, then the replica's checkpoint copy when it holds the version, then the
cheaper path (R207). `ok` says that the step yields the data. Past a MISS, or once no waiter is left, the recovery goes on for its
rewrite alone (R209). -/
def execFlashRecoveryStep (q entry : Nat) (ok : Bool) (s : State) : Out :=
  onQuay q (
    match (s.quay q).entries[entry]? with
    | none => s
    | some e =>
      let t := s.tensor e.tid
      if recTier t.record ≠ 1 || e.waiting || e.unreadable || decide (e.outcome = some .data) then s
      else
        let step := e.recovery + 1
        let noCopy := match t.replica with
          | some c => c.version.number != e.version
          | none => true
        let works := ok && !(decide (step = 3) && noCopy)
        let next := if step = 2 ∧ noCopy then 3 else step
        let put := fun (e1 : FetchEntry) =>
          let qu := s.quay q
          s.setQuay q { qu with entries := if e1.spent then qu.entries.eraseIdx entry else qu.entries.set entry e1 }
        if works then
          let s1 := put { e with recovery := 0, missed := [], rebuilt := e.rebuilt || decide (2 ≤ step) }
          let s2 := (s1.setQuay q ((s1.quay q).count 8 1)).event sevAbsorbed evFlashPage q step
          if e.outcome.isNone && !e.waiters.isEmpty && dataServed s e && canSend s q e && decide (s.now ≤ decisionTime s q e) then
            s2.dataEntry q entry e
          else s2.settle q e.tid
        else if next < 3 then
          let s1 := put { e with recovery := next }
          if next = 2 then s1.askReplica q e.tid e.tile e.version else s1
        else
          let s1 := put { e with recovery := 4, missed := [], unreadable := true }
          let s2 := (s1.setQuay q ((s1.quay q).count 9 1)).event sevDegraded evFlashPage q 4
          if e.outcome.isNone && !e.waiters.isEmpty then s2.unreadableEntry q entry e else s2.settle q e.tid)

/-! ### Optimizer objects (R273, R274) -/

/-- Drops the state of a tensor, keeping its assignment. -/
def OptState.cleared (o : OptState) : OptState := { group := o.group, assigned := o.assigned }

/-- The shape checks of an assignment to a PRECOND group (R263). -/
def precondFits (r g : BitVec 512) : Bool :=
  grpRule g != 2 || (decide (recKind r ≠ 1) && decide (0 < grpBin g ∧ 0 < grpBout g)
    && decide (32 * recTin r % grpBin g = 0 ∧ 32 * recTout r % grpBout g = 0))

/-- Allocates a tensor anew with the state that a group asks of it; none where space is short. -/
def reallocate (s : State) (tid : Nat) (g : BitVec 512) : Option State :=
  match s.recOf tid with
  | none => none
  | some r => allocate (freeAll s tid) r (if recFrozen r || recRegion r then 0 else stateBytes r g)

/-- The assignment at `0x6000.02`: where the rule stays, primary and replica each keep their state. A FROZEN tensor is fed by no partition
(R262). -/
def doAssignment (id group : Nat) (s : State) : State × Nat :=
  if 15 < group then (s, stRange)
  else
    match s.recOf id with
    | none => (s, stIndex)
    | some r =>
      let g := s.groupRec group
      if recFrozen r ∧ grpRule g ≠ 0 then (s, stFrozen)
      else if recRegion r || !precondFits r g then (s, stRange)
      else if !recFrozen r && feedBusy s id then (s, stBusy)
      else
        match reallocate s id g with
        | none => (s, stCapacity)
        | some t =>
          let keep := t.optOf id
          let fresh := decide (grpRule (s.groupRec keep.group) ≠ grpRule g) || !keep.assigned
          let give := fun (o : OptState) => if fresh then { group := group, assigned := true } else { o with group := group, assigned := true }
          let t1 := t.setOptOf id (give keep)
          let t2 := if recMirror r then t1.setOptOf (id + mirrorKey) (give (t.optOf (id + mirrorKey))) else t1
          (match (t2.tensor id).newest with
            | some v => if fresh then t2.seedMaster id r v else t2
            | none => t2, stOk)

/-- ASSIGNMENT. -/
def execAssignment (cl : Client) (id group : Nat) (s : State) : Out := .next (s.command cl false (doAssignment id group))

/-- The checks that a state reset and a state write share. -/
def stateChecks (s : State) (id : Nat) : Option Nat :=
  match s.recOf id with
  | none => some stIndex
  | some r =>
    if recFrozen r then some stFrozen
    else if recRegion r then some stRange
    else if !(s.optOf id).assigned then some stIndex
    else if feedBusy s id then some stBusy
    else none

/-- A block after a state reset: no statistics, no roots, no computation due; its fallback and its counters stay (R273). -/
def BlockState.zeroed (b : BlockState) : BlockState :=
  { attemptsL := b.attemptsL, attemptsR := b.attemptsR, fallback := b.fallback, fallbacks := b.fallbacks, late := b.late }

/-- The state reset at `0x6000.03`: the master stays; a root computation in work is discarded (R272). -/
def doStateReset (id : Nat) (s : State) : State × Nat :=
  match stateChecks s id with
  | some st => (s, st)
  | none =>
    let zero := fun (o : OptState) => { o with m := [], v := [], u := 0, rows := [], blocks := o.blocks.map (fun e => (e.1, e.2.zeroed)) }
    ((s.setOptOf id (zero (s.optOf id))).setOptOf (id + mirrorKey) (zero (s.optOf (id + mirrorKey))), stOk)

/-- STATE_RESET. -/
def execStateReset (cl : Client) (id : Nat) (s : State) : Out := .next (s.command cl false (doStateReset id))

/-- Bytes of one part of a tensor's state: 0 master, 1 m, 2 v, 3 u and row state. -/
def partBytes (r g : BitVec 512) (part : Nat) : Nat :=
  let n := 1024 * recTiles r
  match part with
  | 0 => 4 * n
  | 3 => 8 + (if recKind r = 1 ∧ grpLazy g then 32 * (32 * recTout r) else 0)
  | _ => if grpBf16 g then 2 * n else 4 * n

/-- Writes bytes over a table of words of w bytes, widened from BF16 where w is 2. -/
def overWords (t : Tbl F32) (w off : Nat) (data : List Byte) : Tbl F32 :=
  let first := off / w
  let last := (off + data.length + w - 1) / w
  (List.range (last - first)).foldl (fun m i =>
    let k := first + i
    let old := if w = 4 then leBytes 4 (tget fZero t k).toNat else leBytes 2 ((tget fZero t k).toNat / 65536)
    let new := (List.range w).map (fun b =>
      let a := k * w + b
      if off ≤ a ∧ a < off + data.length then data.getD (a - off) 0 else old.getD b 0)
    tput fZero m k (if w = 4 then BitVec.ofNat 32 (leNat new) else BitVec.ofNat 32 (leNat new * 65536))) t

/-- The bytes of u and the row state: u, then 32 B a row, its two copies of count, zero and last update. -/
def rowBytes (o : OptState) (rows : Nat) : List Byte :=
  leBytes 8 o.u ++ (List.range rows).flatMap (fun k =>
    let r := tget ({}, {}) o.rows k
    leBytes 8 r.1.count ++ leBytes 8 r.1.last ++ leBytes 8 r.2.count ++ leBytes 8 r.2.last)

/-- State from those bytes. -/
def putRowBytes (o : OptState) (rows : Nat) (bs : List Byte) : OptState :=
  { o with
    u := leAt bs 0 8
    rows := (List.range rows).foldl (fun m k =>
      let b := 8 + 32 * k
      tput ({}, {}) m k ({ count := leAt bs b 4, last := leAt bs (b + 8) 8 }, { count := leAt bs (b + 16) 4, last := leAt bs (b + 24) 8 })) [] }

/-- One part of a state written. -/
def OptState.write (o : OptState) (r g : BitVec 512) (part off : Nat) (data : List Byte) : OptState :=
  let w := if grpBf16 g then 2 else 4
  match part with
  | 0 => { o with w := overWords o.w 4 off data }
  | 1 => { o with m := overWords o.m w off data }
  | 2 => { o with v := overWords o.v w off data }
  | _ =>
    let rows := if recKind r = 1 ∧ grpLazy g then 32 * recTout r else 0
    let old := rowBytes o rows
    putRowBytes o rows (old.take off ++ data ++ old.drop (off + data.length))

/-- The state write at `0x6000.04`. -/
def doStateWrite (id part off : Nat) (data : List Byte) (s : State) : State × Nat :=
  match stateChecks s id with
  | some st => (s, st)
  | none =>
    match s.recOf id with
    | none => (s, stIndex)
    | some r =>
      let g := s.groupRec (s.optOf id).group
      if 3 < part ∨ partBytes r g part < off + data.length then (s, stRange)
      else
        let t := s.setOptOf id ((s.optOf id).write r g part off data)
        (if recMirror r then t.setOptOf (id + mirrorKey) ((t.optOf (id + mirrorKey)).write r g part off data) else t, stOk)

/-- STATE_WRITE. -/
def execStateWrite (cl : Client) (id part offset : Nat) (data : List Byte) (s : State) : Out :=
  .next (s.command cl false (doStateWrite id part offset data))

/-- An FP32 field that is finite and not below zero; -0.0 is zero. -/
def fNonneg (x : F32) : Bool := isFinite x && (isZero x || decide (x.toNat < 2 ^ 31))
/-- An FP32 field that is finite and above zero. -/
def fPositive (x : F32) : Bool := fNonneg x && !isZero x
/-- An FP32 field in [0, 1). -/
def fUnit (x : F32) : Bool := fNonneg x && (isZero x || decide (x.toNat < 0x3F800000))

/-- The field checks of a group record (R274). -/
def groupOk (g : BitVec 512) : Bool :=
  let side := fun (b : Nat) => decide (32 ≤ b ∧ b ≤ 1024 ∧ b % 32 = 0)
  let pre := decide (grpRule g = 2)
  decide (grpRule g ≤ 2 ∧ recByte g 1 ≤ 1 ∧ recByte g 2 ≤ 1 ∧ recByte g 3 ≤ 1)
    && fUnit (grpBeta1 g) && fUnit (grpBeta2 g) && fPositive (grpEps g) && fNonneg (grpWd g) && fNonneg (grpLrmul g)
    && fPositive (grpGmul g)
    && (if pre then side (grpBin g) && side (grpBout g) && decide (1 ≤ grpK g) && decide (grpExp g = 2 ∨ grpExp g = 4)
          && decide (1 ≤ grpIters g ∧ grpIters g ≤ 32) && fPositive (grpDelta g) && fPositive (grpTau g) && fUnit (grpTau g)
        else decide (grpBin g = 0 ∧ grpBout g = 0 ∧ grpK g = 0 ∧ grpExp g = 0 ∧ grpIters g = 0))
    && decide (recAt g 44 4 = 0 ∧ recAt g 56 8 = 0)

/-- Gives every tensor of a group the state that its new record asks for, in both quays; none where space is short. -/
def regroup (s : State) (gi : Nat) (old new : BitVec 512) : List Nat → Option State
  | [] => some s
  | tid :: l =>
    let fresh := grpRule old ≠ grpRule new ∧ (grpRule old = 0 ∨ grpRule new = 0)
    match reallocate s tid new with
    | none => none
    | some t =>
      let t1 := if fresh then (t.setOptOf tid (t.optOf tid).cleared).setOptOf (tid + mirrorKey) (t.optOf (tid + mirrorKey)).cleared else t
      regroup t1 gi old new l

/-- The tensors assigned to a group. -/
def groupTensors (s : State) (gi : Nat) : List Nat :=
  (s.opt.tensors.filter (fun e => decide (e.1 < mirrorKey) && e.2.assigned && e.2.group == gi)).map (fun e => e.1)

/-- What a new group record does before it is in force: every tensor of the group must fit it (R263); a change of rule to or from NONE
frees or allocates state. -/
def prepareGroup (gi : Nat) (g : BitVec 512) (s : State) : State × Nat :=
  let mine := groupTensors s gi
  if mine.any (fun tid => match s.recOf tid with | some r => !recFrozen r && !precondFits r g | none => false) then (s, stRange)
  else
    match regroup s gi (s.groupRec gi) g mine with
    | none => (s, stCapacity)
    | some t => (t, stOk)

/-- What it does once in force: fresh state takes its master weights from the newest version (R248). -/
def settleGroup (gi : Nat) (s : State) : State :=
  (groupTensors s gi).foldl (fun (u : State) tid =>
    match u.recOf tid, (u.tensor tid).newest with
    | some r, some v => u.seedMaster tid r v
    | _, _ => u) s

end Sys2Proof.Machine
end

