-- ==== Sys2Proof/Machine/Ledger.lean ====
section
/-! DEFINITION. The step ledger: membership, harbour master and witnesses, role maps, lost shards, splits and rejoins
(R296, R298, R308-R319), and update engines that fail (R270). -/

namespace Sys2Proof.Machine

/-! ### Parties -/

/-- The witness quays in position order: by the table, or quays 0-2 of this module (R296). -/
def witnessList (s : State) : List (Nat × Nat) :=
  match s.ledger.membership with
  | none => [(s.moduleNumber, 0), (s.moduleNumber, 1), (s.moduleNumber, 2)]
  | some t => t.members.flatMap (fun m => ((List.range 4).filter (fun q => m.witnesses.testBit q)).map (fun q => (m.module, q)))

/-- f of 2f + 1 witnesses. -/
def faultsBorne (s : State) : Nat := ((witnessList s).length - 1) / 2

/-- A witness position of this module. -/
def ownWitness (s : State) (w : Nat) : Bool :=
  match (witnessList s)[w]? with
  | some e => e.1 == s.moduleNumber
  | none => false

/-- Whether the harbour master sits in this module. -/
def hmHere (s : State) : Bool :=
  match s.ledger.hm with
  | some e => e.1 == s.moduleNumber
  | none => false

/-- The witness position of the harbour master. -/
def hmPosition (s : State) : Option Nat :=
  match s.ledger.hm with
  | some e => (witnessList s).findIdx? (fun x => x == e)
  | none => none

/-- The ledger's own ID: that of the table. -/
def tableId (s : State) : Nat := match s.ledger.membership with | some t => t.ledger | none => 0

/-- The domains of the ledger that has a table, or all of them where the module is alone. -/
def ledgerParts (s : State) : List Nat :=
  match s.ledger.membership with
  | none => feeders s
  | some _ => (feeders s).filter (fun p => (tableOf s p).isSome)

/-- A ledger in force with no table: this module is all of it, and its quay 0 is harbour master (R296; log 25). -/
def State.ownLedger (s : State) : State :=
  if s.ledger.membership.isNone ∧ s.ledger.hm.isNone then
    { s with ledger := { s.ledger with hm := some (s.moduleNumber, 0), term := max 1 s.ledger.term, state := 2, heartbeatAt := s.now
                                       lastHm := [(0, s.now), (1, s.now), (2, s.now), (3, s.now)] } }
  else s

/-! ### Journals and records (R308, R309) -/

def State.witness (s : State) (w : Nat) : Witness := tget {} s.ledger.witnesses w
def State.setWitness (s : State) (w : Nat) (x : Witness) : State :=
  { s with ledger := { s.ledger with witnesses := tput {} s.ledger.witnesses w x } }

/-- Appends a record to a journal; the last 65,536 are kept. -/
def Witness.append (x : Witness) (rec : LedgerRecord) : Witness :=
  let l := x.journal ++ [rec]
  { x with journal := l.drop (l.length - 65536), count := x.count + 1, term := max x.term rec.term }

/-- Last committed step of a ledger, plus one; 0 before the first. -/
def committedNext (s : State) (ledger : Nat) : Nat := tget 0 s.ledger.committed ledger

/-- Halts the feeding partitions at their next STEP_START (R313, R315). -/
def State.haltFeeders (s : State) : State :=
  (ledgerParts s).foldl (fun (t : State) p =>
    (groupParts t p).foldl (fun (u : State) k =>
      if (u.part k).marks then u.setCtl k { u.ctlOf k with haltAtStepStart := true } else u) t) s

/-- The ledger stops for a reason: the state of `0x6000.31`, halts, and a FAULT event. -/
def State.ledgerHalt (s : State) (st : Nat) : State :=
  let s1 : State := { s with ledger := { s.ledger with state := st } }
  s1.haltFeeders.event sevFault evLedgerHalt (tableId s) st

/-- The shards that this module holds, by domain and quay. -/
def heldNow (s : State) : List (Nat × Nat × Nat) :=
  (ledgerParts s).flatMap (fun p => (List.range 4).flatMap (fun q => (heldShards s p q).map (fun n => (p, q, n))))

/-- A role that comes to a quay in a step in work: it completes the step from the mirror data that it has (R313), and what the lost
owner had not sent goes out (R301, R302). -/
def State.inherit (s : State) (p q n : Nat) : State :=
  let ex := s.exchange p q
  let run := s.run p
  let s1 := if s.updating p && ex.began then s.setExchange p q { ex with inherited := addOnce ex.inherited n } else s
  let s2 := s1.sendNorm p q
  if run.phase = 4 ∧ !run.skipped then ((s2.publishHeld p q n).completeVersion p (n % 4)).bump else s2

/-- Acknowledgements of mirrors that a role map no longer names are awaited no more, and the shard sums that waited for them go out (R301,
R311). -/
def State.freeAcks (s : State) : State :=
  (ledgerParts s).foldl (fun (t : State) p => (List.range 4).foldl (fun (u : State) q =>
    let ex := u.exchange p q
    let left := ex.mirrorAcks.filter (fun n => holdsShard u p q n && !(mirrorTargets u p n).isEmpty)
    if left = ex.mirrorAcks then u else (u.setExchange p q { ex with mirrorAcks := left }).sendNorm p q) t) s

/-- Roles that have passed to this module. -/
def State.takeRoles (s : State) (before : List (Nat × Nat × Nat)) : State :=
  (((heldNow s).filter (fun e => e ∉ before)).foldl (fun (t : State) e => t.inherit e.1 e.2.1 e.2.2) s).freeAcks

/-- What a committed record does on this module. -/
def State.applyRecord (s : State) (rec : LedgerRecord) : State :=
  if rec ∈ s.ledger.records then s
  else
    let kept := s.ledger.records ++ [rec]
    let s1 : State := { s with ledger := { s.ledger with records := kept.drop (kept.length - 65536), heard := s.ledger.heard.filter (fun r => r != rec) } }
    match rec.kind with
    | 1 => { s1 with ledger := { s1.ledger with committed := tset s1.ledger.committed rec.ledger (rec.step + 1) } }
    | 2 =>
      let s2 : State := { s1 with ledger := { s1.ledger with
        roles := rec.roles, roleMap := rec.roleMap
        dones := s1.ledger.dones.filter (fun d => rec.roles.any (fun r => r.1 == d.2.2.2.2.shard && (r.2.1 == d.2.2.1 && r.2.2.1 == d.2.2.2.1) || d.2.2.2.2.mirror)) } }
      ((rec.roles.filter (fun r => !r.2.2.2 && !(s.ledger.roles.any (fun x => x.1 == r.1 && !x.2.2.2)))).foldl (fun (t : State) r =>
        t.event sevDegraded evShardUnmirrored r.1 r.2.1) s2).takeRoles (heldNow s)
    | 4 => ({ s1 with ledger := { s1.ledger with rollbackTo := rec.step, proposed := s1.ledger.proposed.filter (fun e => e.1.kind != 1) } }).ledgerHalt 6
    | _ => s1

/-- The harbour master commits a record that f + 1 witnesses hold, and sends COMMIT. -/
def State.commitIfHeld (s : State) (rec : LedgerRecord) : State :=
  match s.ledger.proposed.find? (fun e => e.1 == rec) with
  | none => s
  | some e =>
    if e.2.length ≤ faultsBorne s then s
    else
      let s1 : State := { s with ledger := { s.ledger with proposed := s.ledger.proposed.filter (fun x => x.1 != rec) } }
      (s1.applyRecord rec).say (.commit rec.ledger rec.step s.ledger.term)

/-- The harbour master, and no other module, proposes a record: its own journal holds it first. From a module reset on, none is proposed
(R309, R350). -/
def State.propose (s : State) (rec : LedgerRecord) : State :=
  match hmPosition s with
  | none => s
  | some w =>
    if s.mc.mresetDraining || !hmHere s then s else
    let s1 := (s.setWitness w ((s.witness w).append rec)).say (.propose rec)
    ({ s1 with ledger := { s1.ledger with proposed := s1.ledger.proposed ++ [(rec, [w])] } }).commitIfHeld rec

/-- SHARD_DONE messages that a STEP record needs: one from the holder of every shard. -/
def doneEntries (s : State) (p step : Nat) : Option (List ShardEntry) :=
  let led := ledgerOf s p
  let es := (liveShards s p).map (fun n =>
    (s.ledger.dones.find? (fun d => d.1 == led && d.2.1 == step && d.2.2.2.2.shard == n
      && (d.2.2.1, d.2.2.2.1) == holderOf s p n)).map (fun d => d.2.2.2.2))
  if es.all (fun e => e.isSome) then some (es.filterMap id) else none

/-- The STEP record of a step, once every holder has reported and the step before is committed; the first step of a launch needs none
before it where the version that it reads is committed (R309; log 27). -/
def State.proposeStep (s : State) (p step : Nat) : State :=
  let led := ledgerOf s p
  let pl := placeOf s p
  match doneEntries s p step with
  | none => s
  | some es =>
    let known := s.ledger.proposed.any (fun e => e.1.kind == 1 && e.1.ledger == led && e.1.step == step)
      || s.ledger.records.any (fun r => r.kind == 1 && r.ledger == led && r.step == step)
    let based := (domainTensors s p).all (fun tid => match (s.tensor tid).slot step with | some v => v.committed | none => false)
    let turn := decide (committedNext s led = step) || (decide ((s.part p).n0 = step) && based)
    if known || !turn || s.ledger.state = 3 || s.ledger.state = 6 then s
    else
      let flag := fun (b : Bool) (v : Nat) => if b then v else 0
      s.propose { ledger := led, kind := 1, step := step, term := s.ledger.term, roleMap := s.ledger.roleMap
                  g2 := (s.run p).g2.getD 0
                  flags := flag (es.any (fun e => e.status == 2)) 1
                    + flag (es.any (fun e => decide (e.nearOnTime < pl.m ∨ e.farOnTime < pl.dd))) 2
                    + flag (es.any (fun e => decide (0 < e.nearFolded + e.farFolded))) 4
                    + flag (es.any (fun e => decide (0 < e.nearDropped + e.farDropped))) 8
                  entries := es, digest := 0, roles := [] }

/-- The role map as it stands, with a shard's mirror marked invalid. -/
def rolesWithout (s : State) (p n : Nat) : List (Nat × Nat × Nat × Bool) :=
  (liveShards s p).map (fun k =>
    let h := holderOf s p k
    (k, h.1, h.2, !mirrorBad s k && k != n && !(copyQuays s p k).isEmpty))

/-- The harbour master proposes a role map. -/
def State.proposeRoles (s : State) (p : Nat) (roles : List (Nat × Nat × Nat × Bool)) : State :=
  let led := ledgerOf s p
  s.propose { ledger := led, kind := 2, step := committedNext s led - 1, term := s.ledger.term, roleMap := s.ledger.roleMap + 1
              g2 := 0, flags := 0, entries := [], digest := 0, roles := roles }

/-- SHARD_DONE_RECEIVE: the harbour master keeps the report; sums of owner and mirror that differ leave the owner's result and an
invalid mirror, which a ROLES record tells every member (R309, R312; log 27). -/
def execShardDoneReceive (step holderModule holderQuay : Nat) (e : ShardEntry) (s : State) : Out :=
  .next (
    if !hmHere s then s
    else
      let fits := fun (p : Nat) => decide (e.shard ∈ liveShards s p)
        && (holderModule != s.moduleNumber || (decide ((s.run p).step = step) && (s.exchange p holderQuay).shardDone))
      match (ledgerParts s).find? fits with
      | none => s
      | some p =>
        let led := ledgerOf s p
        let new := (led, step, holderModule, holderQuay, e)
        if new ∈ s.ledger.dones then s
        else
          let s1 : State := { s with ledger := { s.ledger with dones := s.ledger.dones ++ [new] } }
          let other := s.ledger.dones.find? (fun d => d.1 == led && d.2.1 == step && d.2.2.2.2.shard == e.shard && d.2.2.2.2.mirror != e.mirror)
          let s2 := match other with
            | some d =>
              if d.2.2.2.2.streamSum ≠ e.streamSum then
                (({ s1 with ledger := { s1.ledger with mirrorInvalid := addOnce s1.ledger.mirrorInvalid e.shard } }).event
                  sevFault evMirrorMismatch e.shard (step % 2 ^ 32)).proposeRoles p (rolesWithout s p e.shard)
              else s1
            | none => s1
          s2.proposeStep p step)

/-- WITNESS_RECORD_RECEIVE: the record is journalled before it is acknowledged, and one of a higher term ends a candidacy (R308, R310). One
for a witness of another module is heard alone: a COMMIT makes it effective here too (log 27). -/
def execWitnessRecordReceive (w : Nat) (rec : LedgerRecord) (s : State) : Out :=
  .next (
    let x := s.witness w
    if !ownWitness s w then
      (if (witnessList s).length ≤ w ∨ rec.term < s.ledger.term ∨ rec ∈ s.ledger.heard then s
      else { s with ledger := { s.ledger with heard := s.ledger.heard ++ [rec] } })
    else if rec.term < x.term then s
    else
      let x1 := if x.term < rec.term then { x with candidate := false } else x
      let s1 := if rec ∈ x.journal then s.setWitness w x1 else s.setWitness w (x1.append rec)
      ({ s1 with ledger := { s1.ledger with term := max s1.ledger.term rec.term } }).say (.ack w rec.term))

/-- WITNESS_ACK: a record that f + 1 witnesses hold is committed (R309). -/
def execWitnessAck (w term : Nat) (s : State) : Out :=
  .next (
    if !hmHere s || decide ((witnessList s).length ≤ w) then s
    else
      match s.ledger.proposed.find? (fun e => e.1.term == term && !decide (w ∈ e.2)) with
      | none => s
      | some e =>
        let s1 : State := { s with ledger := { s.ledger with
          proposed := s.ledger.proposed.map (fun x => if x.1 = e.1 then (x.1, x.2 ++ [w]) else x) } }
        let s2 := s1.commitIfHeld e.1
        (ledgerParts s2).foldl (fun t p => if (t.run p).done then t.proposeStep p (t.run p).step else t) s2)

/-- The records that a COMMIT names: those of its step and term that this module's witnesses hold or that it has heard. After a ROLLBACK
no STEP record is among them (R313). -/
def namedRecords (s : State) (step term : Nat) : List LedgerRecord :=
  ((s.ledger.witnesses.flatMap (fun e => e.2.journal)) ++ s.ledger.heard).filter (fun r =>
    r.step == step && r.term == term && (r.kind != 1 || s.ledger.state != 6))

/-- A quay's part of version step + 1 is complete: in the update that works on that step or has ended with it, or in one that a later step
has followed (R309). -/
def partDone (s : State) (p q step : Nat) : Bool :=
  let run := s.run p
  decide (step < run.step)
    || (decide (run.step = step) && (run.done || decide (run.phase = 4))
      && ((s.exchange p q).shardDone || ((liveShards s p).filter (fun n => n % 4 == q)).isEmpty))

/-- COMMIT_RECEIVE: the quay counts version step + 1 as committed (R17, R309), and the records that the COMMIT names take their effect.
After a ROLLBACK no further step is committed (R313). -/
def execCommitReceive (q step term : Nat) (s : State) : Out :=
  onQuay q (
    if term < s.ledger.term then s
    else
      let s1 : State := { s with ledger := { s.ledger with term := term } }
      let s2 := (namedRecords s1 step term).foldl (fun t r => t.applyRecord r) s1
      if s.ledger.state = 6 then s2
      else (ledgerParts s2).foldl (fun (t : State) p =>
        if partDone t p q step then
          let led := ledgerOf t p
          let t1 : State := { t with ledger := { t.ledger with committed := tset t.ledger.committed led (max (step + 1) (committedNext t led)) } }
          ((domainTensors t1 p).filter (fun tid => match t1.recOf tid with | some r => recPrimary r == q | none => false)).foldl
            (fun u tid => u.commitVersion tid (step + 1)) t1
        else t) s2)

/-! ### Roles, lost quays and rollback (R311, R313, R315) -/

/-- The latest version of which this module has a checkpoint copy, in a primary or a replica quay, of every tensor of a domain. Whether
the other members have the same no message of the spec says, a free bit (R313; log 8). -/
def commonCheckpoint (s : State) (p : Nat) : Option Nat :=
  let tids := domainTensors s p
  let vs := tids.flatMap (fun tid => ((s.tensor tid).checkpoint.toList ++ (s.tensor tid).replica.toList).map (fun c => c.version.number))
  let whole := vs.filter (fun v => tids.all (fun tid => ((s.tensor tid).copyOf v).isSome))
  let alone := match tableOf s p with | some t => decide (t.members.length ≤ 1) | none => true
  match whole with
  | [] => none
  | v :: l => if alone || Config.freeNat s.freeCtr (2 ^ 22 + p) % 2 == 0 then some (l.foldl max v) else none

/-- The role map after shards lose their holder or their copy: the role of a lost holder passes to the copy, be it the mirror or an owner
whose role had passed, where that is valid, whole and not lost itself; none where a shard is left without a holder (R311, R313). -/
def rolesAfter (s : State) (p : Nat) (gone goneMirror : Nat → Bool) : Option (List (Nat × Nat × Nat × Bool)) :=
  let es := (liveShards s p).map (fun n =>
    let h := holderOf s p n
    let cs := copyQuays s p n
    if gone n then
      (match cs with
        | [c] => if mirrorBad s n || goneMirror n || decide (c ∈ s.ledger.lost) || !copyWhole s p n then none else some (n, c.1, c.2, false)
        | _ => none)
    else some (n, h.1, h.2, !cs.isEmpty && !mirrorBad s n && !goneMirror n))
  if es.all (fun e => e.isSome) then some (es.filterMap id) else none

/-- The harbour master commits a ROLLBACK record: it takes the place of STEP records not yet committed (R313, R318). -/
def State.proposeRollback (s : State) (p c : Nat) : State :=
  let t : State := { s with ledger := { s.ledger with proposed := s.ledger.proposed.filter (fun e => e.1.kind != 1) } }
  t.propose { ledger := ledgerOf s p, kind := 4, step := c, term := s.ledger.term, roleMap := s.ledger.roleMap
              g2 := 0, flags := 0, entries := [], digest := 0, roles := [] }

/-- The harbour master commits a ROLES record for lost shards. Without a valid holder a ROLLBACK names the checkpoint that every tensor
has (R313); where there is none, or where the lost quays may stand on the other side of a split, the ledger is held (R315; log 27). -/
def State.loseShards (s : State) (gone goneMirror : Nat → Nat → Bool) (split : Bool) : State :=
  if !hmHere s then s
  else
    (ledgerParts s).foldl (fun (t : State) p =>
      if !(liveShards t p).any (fun n => gone p n || goneMirror p n) then t
      else
        match rolesAfter t p (gone p) (goneMirror p) with
        | some roles => t.proposeRoles p roles
        | none =>
          if split then t.ledgerHalt 3
          else
            match commonCheckpoint t p with
            | some c => t.proposeRollback p c
            | none => t.ledgerHalt 3) s

/-- MEMBER_LOST: a member quay silent for 10 ms (R311). Whether its side of a split or the quay itself is lost the harbour master cannot
know, a free bit (R315; log 8). -/
def execMemberLost (module quay : Nat) (s : State) : Out :=
  .next (
    if !hmHere s || decide ((module, quay) ∈ s.ledger.lost) then s
    else
      let heard := match s.ledger.lastAnswer.find? (fun e => e.1 == module && e.2.1 == quay) with | some e => e.2.2 | none => 0
      let s1 := s.advance (heard + 10000 * cyPerTick)
      let s2 : State := { s1 with ledger := { s1.ledger with lost := s1.ledger.lost ++ [(module, quay)] } }
      (s2.loseShards (fun p n => holderOf s2 p n == (module, quay)) (fun p n => decide ((module, quay) ∈ copyQuays s2 p n))
        (Config.freeNat s2.freeCtr (2 ^ 22 + 8) % 2 == 1)).bump)

/-- HEARTBEAT_ANSWER. -/
def execHeartbeatAnswer (module quay : Nat) (s : State) : Out :=
  .next (
    if !hmHere s then s
    else { s with ledger := { s.ledger with
      lastAnswer := s.ledger.lastAnswer.filter (fun e => e.1 != module || e.2.1 != quay) ++ [(module, quay, s.now)] } })

/-- HARBOUR_MASTER_SILENCE: after 10 ms the quay sends no NORM and no SHARD_DONE (R311). -/
def execHarbourMasterSilence (q : Nat) (s : State) : Out :=
  onQuay q (
    let s1 := s.advance (tget 0 s.ledger.lastHm q + 10000 * cyPerTick)
    { s1 with ledger := { s1.ledger with silent := addOnce s1.ledger.silent q } })

/-- PARTITIONED: after 100 ms (R315). -/
def execPartitioned (q : Nat) (s : State) : Out :=
  onQuay q (
    if s.ledger.state = 4 then s
    else (s.advance (tget 0 s.ledger.lastHm q + 100000 * cyPerTick)).ledgerHalt 4)

/-! ### Elections (R310) -/

/-- ELECTION_TIMEOUT: 20 ms + 5 ms for each position without a heartbeat make a witness a candidate. -/
def execElectionTimeout (w : Nat) (s : State) : Out :=
  .next (
    if !ownWitness s w || hmPosition s == some w && hmHere s then s
    else
      let x := s.witness w
      let s1 := s.advance (x.lastHeartbeat + (20000 + 5000 * w) * cyPerTick)
      let term := max x.term s.ledger.term + 1
      (s1.setWitness w { x with term := term, votedFor := some (term, w), candidate := true, votes := [w], lastHeartbeat := s1.now }).say
        (.askVote w term))

/-- Where a journal ends: term of the last record, number of records. -/
def Witness.tip (x : Witness) : Nat × Nat := match x.journal.getLast? with | some r => (r.term, x.count) | none => (0, x.count)

/-- VOTE_REQUEST: one vote a term, for a journal that ends at the same or a later term and record. -/
def execVoteRequest (w term candidate lastTerm lastRecord : Nat) (s : State) : Out :=
  .next (
    if !ownWitness s w then s
    else
      let x0 := s.witness w
      if term < x0.term then s
      else
        let x := if x0.term < term then { x0 with term := term, candidate := false, votes := [], votedFor := none } else x0
        let tip := x.tip
        let fresh := decide (tip.1 < lastTerm ∨ (tip.1 = lastTerm ∧ tip.2 ≤ lastRecord))
        let free := match x.votedFor with
          | none => true
          | some v => v == (term, candidate)
        if fresh && free then (s.setWitness w { x with votedFor := some (term, candidate) }).say (.vote w term candidate)
        else s.setWitness w x)

/-- The ledger is ACTIVE when every member has reported this module's digest and a harbour master is elected (R296). -/
def State.activate (s : State) : State :=
  match s.ledger.membership with
  | none => s
  | some t =>
    let own := (s.ledger.digests.find? (fun d => d.1 == s.moduleNumber)).map (fun d => d.2)
    let all := t.members.all (fun m => s.ledger.digests.any (fun d => d.1 == m.module && some d.2 == own))
    if s.ledger.state = 1 ∧ all ∧ s.ledger.hm.isSome then { s with ledger := { s.ledger with state := 2 } } else s

/-- VOTE_GRANT: f + 1 votes make the candidate harbour master; it proposes again its last record not known to be committed, and a held
ledger goes on where every shard is covered, else it is held (R310, R314-R316). -/
def execVoteGrant (w term voter : Nat) (s : State) : Out :=
  .next (
    let x := s.witness w
    if !ownWitness s w || !x.candidate || decide (x.term ≠ term) || decide ((witnessList s).length ≤ voter) then s
    else
      let votes := addOnce x.votes voter
      let s1 := s.setWitness w { x with votes := votes }
      if votes.length ≤ faultsBorne s then s1
      else
        let s2 : State := { s1.setWitness w { x with votes := votes, candidate := false } with
          ledger := { (s1.setWitness w { x with votes := votes, candidate := false }).ledger with
            term := term, hm := (witnessList s)[w]?, heartbeatAt := s.now, proposed := []
            lastAnswer := (s.ledger.membership.map (fun t => t.members.flatMap (fun m => (List.range 4).map (fun q => (m.module, q, s.now))))).getD [] } }
        let covered := (ledgerParts s2).all (fun p => (liveShards s2 p).all (fun n => holderOf s2 p n ∉ s2.ledger.lost))
        let s3 := (if covered then (if s2.ledger.state = 3 then { s2 with ledger := { s2.ledger with state := 2 } } else s2)
          else if s2.ledger.state = 2 then s2.ledgerHalt 3 else s2).activate
        match x.journal.getLast? with
        | some r => if r ∈ s.ledger.records then s3 else s3.propose { r with term := term }
        | none => s3)

/-! ### Heartbeats (R310, R311) -/

/-- Held-back NORM and SHARD_DONE messages of a quay go out. -/
def State.speakAgain (s : State) (q : Nat) : State :=
  (feeders s).foldl (fun (u : State) p => (List.range 4).foldl (fun (v : State) k => v.completeVersion p k) (u.sendNorm p q)) s

/-- The quays and witnesses of this module hear a heartbeat: the quays answer it, and what they held back goes out (R310, R311). -/
def State.hearHeartbeat (s : State) : State :=
  let quiet := s.ledger.silent
  let s1 : State := { s with ledger := { s.ledger with
    lastHm := (List.range 4).map (fun q => (q, s.now))
    silent := []
    witnesses := (List.range (witnessList s).length).foldl (fun m w =>
      if ownWitness s w then
        let x := tget {} m w
        tput {} m w { x with lastHeartbeat := s.now, candidate := false, term := max x.term s.ledger.term }
      else m) s.ledger.witnesses } }
  let s2 := (List.range 4).foldl (fun (t : State) q => t.say (.answer q)) s1
  quiet.foldl (fun (t : State) q => t.speakAgain q) s2

/-- The role map of a harbour master of a later term, so far as this module has it: the newest ROLES record of the terms between (R317). -/
def laterRoles (s : State) (term : Nat) : Option LedgerRecord :=
  (((s.ledger.witnesses.flatMap (fun e => e.2.journal)) ++ s.ledger.heard).filter (fun r =>
    r.kind == 2 && decide (s.ledger.term < r.term ∧ r.term ≤ term))).foldl (fun m r =>
      match m with
      | none => some r
      | some x => if x.roleMap ≤ r.roleMap then some r else some x) none

/-- The role map of a halted module as that harbour master has it. -/
def State.hearRoles (s : State) (term : Nat) : State :=
  match laterRoles s term with
  | none => s
  | some r => { s with ledger := { s.ledger with roles := r.roles, roleMap := r.roleMap } }

/-- The shards of this module's own whose role has passed to another quay, by domain. -/
def movedShards (s : State) : List (Nat × Nat) :=
  (ledgerParts s).flatMap (fun p => (((List.range 4).map (fun k => ownShard s p k)).filter (fun n =>
    decide (n ∈ liveShards s p) && holderOf s p n != (s.moduleNumber, n % 4))).map (fun n => (p, n)))

/-- HM_HEARTBEAT: the harbour master's heartbeat, every 1 ms, of the witness quay (module, quay) in a term. Where it is a quay of this
module the heartbeat goes out; one of another module is heard, unless its term is old. A halted module that hears a later term goes on
with its held step, unless a shard of its own has passed to another quay: then it must rejoin first (R310, R311, R316, R317; log 27). -/
def execHmHeartbeat (module quay term : Nat) (s : State) : Out :=
  .next (
    if (module, quay) ∉ witnessList s then s
    else if module = s.moduleNumber then
      (if s.ledger.hm ≠ some (module, quay) then s
      else
        let s1 := (s.advance (s.ledger.heartbeatAt + 1000 * cyPerTick)).say (.heartbeat s.ledger.term)
        ({ s1 with ledger := { s1.ledger with heartbeatAt := s1.now } }).hearHeartbeat)
    else
      let halted := decide (s.ledger.term < term ∧ (s.ledger.state = 3 ∨ s.ledger.state = 4))
      if term < s.ledger.term ∨ (halted ∧ movedShards (s.hearRoles term) ≠ []) then s
      else
        let gone := hmHere s
        ({ s with ledger := { s.ledger with
          hm := some (module, quay), term := term, proposed := if gone then [] else s.ledger.proposed
          state := if halted then 2 else s.ledger.state } }).hearHeartbeat.activate)

/-! ### Rejoin (R317) -/

/-- A domain of which a shard has passed to another quay: what the side that went on did not commit is discarded (R317). -/
def State.discardStep (s : State) (p : Nat) : State :=
  let s1 := (domainTensors s p).foldl (fun (u : State) tid =>
    let x := u.tensor tid
    u.setTensor tid { x with versions := x.versions.filter (fun v => v.committed) }) s
  let s2 := (List.range 4).foldl (fun (u : State) k => u.setExchange p k {}) s1
  s2.setRun p { s2.run p with phase := 0, par := [] }

/-- Asks the holder of a shard in another module for its copy (R317; log 21). -/
def State.askHolder (s : State) (p n : Nat) : State :=
  let h := holderOf s p n
  if h.1 = s.moduleNumber then s
  else s.sendPacket (n % 4) { typ := 6, dm := h.1, dq := h.2, ledger := ledgerOf s p, step := committedNext s (ledgerOf s p), shard := n, off := 0 } []

/-- REJOIN: a halted quay hears a higher term: where shards of its own have passed to other quays it drops what was not committed and
copies them; where none has, it goes on with the step that it held (R316, R317). -/
def execRejoin (q term : Nat) (s : State) : Out :=
  onQuay q (
    if term ≤ s.ledger.term ∨ (s.ledger.state ≠ 3 ∧ s.ledger.state ≠ 4) then s
    else
      let s0 := s.hearRoles term
      let moved := movedShards s0
      let copies := moved.map (fun e => (e.2 % 4, e.2))
      let s1 := moved.foldl (fun (t : State) e => t.askHolder e.1 e.2) s0
      let s2 := ((moved.map (fun e => e.1)).eraseDups).foldl (fun (t : State) p => t.discardStep p) s1
      let s3 : State := { s2 with
        ledger := { s2.ledger with
          term := term, state := if copies.isEmpty then 2 else 5, resyncing := copies, proposed := []
          dones := if copies.isEmpty then s2.ledger.dones else []
          lastHm := (List.range 4).map (fun k => (k, s.now)), silent := []
          heard := if copies.isEmpty then s2.ledger.heard else []
          witnesses := s2.ledger.witnesses.map (fun e => (e.1, { e.2 with
            candidate := false, term := max e.2.term term
            journal := if copies.isEmpty then e.2.journal else e.2.journal.filter (fun r => decide (r ∈ s.ledger.records)) })) } }
      if copies.isEmpty then s.ledger.silent.foldl (fun (t : State) k => t.speakAgain k) s3 else s3)

/-- State copied from a holder in another module: values that no command of this module carries, free values (log 8). -/
def State.freeShard (s : State) (p n : Nat) : State :=
  ((shardSlabsNo s p n).foldl (fun (t : State) e =>
    let span := slabSpan t e.2.1 e.2.2
    let o := t.optOf e.2.1
    let put := fun (m : Tbl F32) (k : Nat) => (List.range span.2).foldl (fun a i =>
      tput fZero a (span.1 + i) (Config.freeF32 (s.freeCtr + k) (ekey e.2.1 (span.1 + i)))) m
    let row := fun (k : Nat) => ({ count := Config.freeNat s.freeCtr (2 * k), last := Config.freeNat s.freeCtr (2 * k + 1) } : RowState)
    let mat := fun (base : Nat) (l : List F32) => l.zipIdx.map (fun x => Config.freeF32 (s.freeCtr + 3) (base + x.2))
    t.setOptOf e.2.1 { o with
      w := put o.w 0, m := put o.m 1, v := put o.v 2, u := Config.freeNat s.freeCtr e.2.1
      rows := o.rows.map (fun r => (r.1, row (4 * ekey e.2.1 r.1), row (4 * ekey e.2.1 r.1 + 1)))
      blocks := o.blocks.map (fun b =>
        let key := 2 ^ 22 * (4 * ekey e.2.1 b.1)
        (b.1, { b.2 with
          sl := mat key b.2.sl, sr := mat (key + 2 ^ 20) b.2.sr, ql := mat (key + 2 ^ 21) b.2.ql, qr := mat (key + 3 * 2 ^ 20) b.2.qr
          fallback := Config.freeNat (s.freeCtr + 3) key })) }) s).bump.bump.bump.bump

/-- The steps committed so far in the ledger of the holder that a copy comes from: no fewer than this module knows of. Which step m
the copy was taken from no command carries, a free value (log 8). -/
def resyncNext (s : State) (p : Nat) : Nat := committedNext s (ledgerOf s p) + Config.freeNat s.freeCtr (2 ^ 20 + p)

/-- The stream copies that the window holds after a copy: versions of this module's own stand, the content of the others is that of
the holder, undefined bytes of this model (log 8). -/
def State.copyWindow (s : State) (p n next : Nat) : State :=
  (((shardSlabsNo s p n).map (fun e => e.2.1)).eraseDups).foldl (fun (t : State) tid =>
    let x := t.tensor tid
    t.setTensor tid { x with
      versions := (List.range (min (recWindow x.record) next + 1)).map (fun i =>
        (x.slot (next - i)).getD { number := next - i, committed := true, complete := true, bytes := [] })
      retiring := [] }) s

/-- State copied from a holder in this module, which keeps it as the mirror of the shard. -/
def State.takeShard (s : State) (p n : Nat) : State :=
  (shardSlabsNo s p n).foldl (fun (t : State) e =>
    let span := slabSpan t e.2.1 e.2.2
    let o := t.optOf e.2.1
    let h := t.optOf (e.2.1 + mirrorKey)
    let put := fun (m from' : Tbl F32) => (List.range span.2).foldl (fun a i => tput fZero a (span.1 + i) (tget fZero from' (span.1 + i))) m
    t.setOptOf e.2.1 { o with
      w := put o.w h.w, m := put o.m h.m, v := put o.v h.v, u := h.u
      rows := h.rows.foldl (fun m r => tset m r.1 r.2) o.rows
      blocks := h.blocks.foldl (fun m b => tset m b.1 b.2) o.blocks }) s

/-- A shard of a domain as a holder in another module has it: state, stream copies, and the count of committed steps (R317). -/
def State.fetchShard (s : State) (p n : Nat) : State :=
  let next := resyncNext s p
  let s1 := (s.freeShard p n).copyWindow p n next
  let s2 := s1.setRun p { s1.run p with phase := 0, done := decide (0 < next), step := next - 1 }
  { s2 with ledger := { s2.ledger with committed := tset s2.ledger.committed (ledgerOf s p) next } }

/-- A shard of a domain as its holder has it. -/
def State.copyShard (s : State) (p n : Nat) : State :=
  if (holderOf s p n).1 = s.moduleNumber then s.takeShard p n else s.fetchShard p n

/-- RESYNC_DONE: the copy of a shard is complete, and the quay is its valid mirror from the next step on. -/
def execResyncDone (q shard : Nat) (s : State) : Out :=
  onQuay q (
    if (q, shard) ∉ s.ledger.resyncing then s
    else
      let left := s.ledger.resyncing.filter (fun e => e != (q, shard))
      let s1 := (ledgerParts s).foldl (fun (t : State) p => if shard ∈ liveShards t p then t.copyShard p shard else t) s
      { s1 with ledger := { s1.ledger with
        resyncing := left
        state := if left.isEmpty then 2 else 5
        mirrorInvalid := s1.ledger.mirrorInvalid.filter (· != shard)
        roles := s1.ledger.roles.map (fun r => if r.1 = shard then (r.1, r.2.1, r.2.2.1, true) else r) } })

/-! ### Membership (R296, R298) -/

/-- The bytes of a membership table. -/
def encodeTable (t : Membership) : List Byte :=
  leBytes 4 t.ledger ++ leBytes 2 t.members.length ++ leBytes 1 t.domains ++ leBytes 1 t.witnesses ++ leBytes 1 t.lateWindow
    ++ leBytes 3 t.zero ++ leBytes 4 t.farWait ++ leBytes 4 t.version ++ List.replicate 44 0
    ++ t.members.flatMap (fun m => leBytes 2 m.module ++ leBytes 2 m.rank ++ leBytes 1 m.domain ++ leBytes 1 m.hall ++ leBytes 2 m.partner
        ++ leBytes 1 m.witnesses ++ leBytes 3 m.zero ++ leBytes 4 m.tideDomain)

/-- The table that a byte string spells; none for the empty string and for one of a wrong length. -/
def decodeTable (bs : List Byte) : Option Membership :=
  let n := leAt bs 4 2
  if bs.length ≠ 64 + 16 * n ∨ bs.isEmpty then none
  else
    some {
      ledger := leAt bs 0 4, domains := leAt bs 6 1, witnesses := leAt bs 7 1, lateWindow := leAt bs 8 1
      zero := leAt bs 9 3 + leAt bs 20 44, farWait := leAt bs 12 4, version := leAt bs 16 4
      members := (List.range n).map (fun i =>
        let b := 64 + 16 * i
        { module := leAt bs b 2, rank := leAt bs (b + 2) 2, domain := leAt bs (b + 4) 1, hall := leAt bs (b + 5) 1
          partner := leAt bs (b + 6) 2, witnesses := leAt bs (b + 8) 1, zero := leAt bs (b + 9) 3, tideDomain := leAt bs (b + 12) 4 }) }

/-- The halls of a table. -/
def tableHalls (t : Membership) : List Nat := t.members.foldl (fun l m => addOnce l m.hall) []

/-- Witnesses in a hall. -/
def hallWitnesses (t : Membership) (h : Nat) : Nat := ((t.members.filter (fun m => m.hall == h)).map (fun m => popCount 4 m.witnesses)).foldl (· + ·) 0

/-- The field checks of a membership table that give E_RANGE (R296, R298). -/
def tableOk (s : State) (t : Membership) : Bool :=
  let n := t.members.length
  let ranks := n / max 1 t.domains
  let halls := tableHalls t
  let f := (t.witnesses - 1) / 2
  decide (1 ≤ n ∧ n ≤ 16384 ∧ 1 ≤ t.domains ∧ t.domains ≤ 32 ∧ n % t.domains = 0 ∧ ranks ≤ 512)
    && decide (t.witnesses = 3 ∨ t.witnesses = 5 ∨ t.witnesses = 7 ∨ t.witnesses = 9)
    && decide (t.lateWindow ≤ 2 ∧ t.zero = 0 ∧ 1000 ≤ t.farWait ∧ t.farWait ≤ 10000000)
    && decide ((t.members.map (fun m => m.module)).Nodup)
    && t.members.zipIdx.all (fun e =>
      let m := e.1
      decide (m.module < 16384 ∧ m.rank < ranks ∧ m.domain < t.domains ∧ m.hall ≤ 15 ∧ m.witnesses < 16 ∧ m.zero = 0)
        && decide (m.domain * ranks + m.rank = e.2)
        && (if m.partner = 0xFFFF then decide (halls.length = 1)
            else t.members.any (fun x => x.module == m.partner && x.hall != m.hall))
        && t.members.all (fun x => decide (x.domain = m.domain ↔ x.tideDomain = m.tideDomain))
        && (m.module != s.moduleNumber || m.tideDomain == s.cfg 0x4000 2))
    && decide ((t.members.map (fun m => popCount 4 m.witnesses)).foldl (· + ·) 0 = t.witnesses)
    && (decide (halls.length < 3) || halls.all (fun h => decide (hallWitnesses t h ≤ f)))

/-- Bytes of the reduced and fold stores of a domain in a quay. -/
def storeBytesOf (s : State) (p q : Nat) : Nat :=
  let size := fun (l : List (Nat × Nat × Nat)) => (l.map (fun e => (slabSpan s e.2.1 e.2.2).2)).foldl (· + ·) 0
  4 * (2 * size (shardSlabsNo s p (ownShard s p q)) + size (sliceSlabs s p q (placeOf s p).i))

/-- Allocates the stores of a ledger's domains anew; none where space is short (R300). -/
def allocStores (s : State) : Option State :=
  let s0 : State := { s with quays := s.quays.map (fun e => (e.1, { e.2 with allocs := e.2.allocs.filter (fun a => a.kind != 3) })) }
  ((ledgerParts s0).flatMap (fun p => (List.range 4).map (fun q => (p, q)))).foldl (fun (o : Option State) e =>
    match o with
    | none => none
    | some t => placeIn t e.2 0 3 (ledgerOf t e.1) (storeBytesOf t e.1 e.2)) (some s0)

/-- What a new membership table does before it is in force: its stores are allocated. An empty one leaves the module a ledger of its own
(R296, R300). -/
def prepareTable (table : Option Membership) (s : State) : State × Nat :=
  match table with
  | none =>
    ({ s with ledger := { s.ledger with membership := none, state := 0, hm := none, roles := [], digests := [], proposed := [], dones := [] } }, stOk)
  | some t =>
    let s1 : State := { s with ledger := { s.ledger with
      membership := some t, state := 1, roles := [], roleMap := 0, tableVersion := t.version + 1, digests := [(s.moduleNumber, Config.sha3 (encodeTable t))]
      proposed := [], dones := []
      hm := if s.ledger.state = 2 ∧ s.ledger.membership.isSome then s.ledger.hm else none } }
    match allocStores s1 with
    | none => (s, stCapacity)
    | some s2 => (s2, stOk)

/-- What it does once in force: the digest goes to the witnesses; an ACTIVE ledger commits the change as a record (R298, R308). `was` is
the state of the ledger before. -/
def settleTable (table : Option Membership) (was : Nat) (s : State) : State :=
  match table with
  | none => s
  | some t =>
    let digest := Config.sha3 (encodeTable t)
    let s3 := s.say (.digest digest)
    let s4 := if (tableHalls t).length < 3 then s3.event sevInfo evLedgerHalls t.ledger (tableHalls t).length else s3
    if was = 2 then s4.propose { ledger := t.ledger, kind := 3, step := committedNext s4 t.ledger - 1, term := s4.ledger.term, roleMap := 0
                                 g2 := 0, flags := 0, entries := [], digest := digest, roles := [] }
    else s4

/-- DIGEST_REPORT: the witnesses collect the members' digests; one that differs leaves the ledger FORMING. -/
def execDigestReport (module : Nat) (digest : BitVec 512) (s : State) : Out :=
  .next (
    match s.ledger.membership with
    | none => s
    | some t =>
      if !t.members.any (fun m => m.module == module) then s
      else
        ({ s with ledger := { s.ledger with
          digests := s.ledger.digests.filter (fun (d : Nat × BitVec 512) => d.1 != module || module == s.moduleNumber)
            ++ (if module = s.moduleNumber then [] else [(module, digest)]) } }).activate)

/-- A tensor's checkpoint copy of a version, and the state that stands in each quay's copy of it. -/
def State.restoreTensor (s : State) (tid c : Nat) : State :=
  let x := s.tensor tid
  match x.copyOf c with
  | none => s
  | some k =>
    let rep := match x.replica with | some r => if r.version.number = c then r.state else k.state | none => k.state
    let s1 := (s.setTensor tid { x with versions := [{ k.version with committed := true, complete := true }] }).setOptOf tid k.state
    if recMirror x.record then s1.setOptOf (tid + mirrorKey) rep else s1

/-- The restore at `0x6000.39`: each tensor's checkpoint copy and state are loaded (R313, R319). -/
def doRestore (ledger : Nat) (s : State) : State × Nat :=
  if s.ledger.state ≠ 6 then (s, stState)
  else
    match (ledgerParts s).find? (fun p => ledgerOf s p == ledger) with
    | none => (s, stState)
    | some p =>
      let tids := domainTensors s p
      let c := s.ledger.rollbackTo
      if tids.any (fun tid => ((s.tensor tid).copyOf c).isNone) then (s, stTimeout)
      else
        let s1 := tids.foldl (fun (t : State) tid => t.restoreTensor tid c) s
        let s2 := (List.range 4).foldl (fun (u : State) k => u.setExchange p k {}) s1
        ({ s2.setRun p {} with ledger := { (s2.setRun p {}).ledger with
            state := 2, proposed := [], dones := [], committed := tset s2.ledger.committed ledger s.ledger.rollbackTo } }, stOk)

/-- RESTORE. -/
def execRestore (cl : Client) (ledger : Nat) (s : State) : Out := .next (s.command cl false (doRestore ledger))

/-! ### Engines that fail (R270) -/

/-- Shards that a quay has lost for the step: the update report says so, and the ledger hears it (R270). -/
def State.loseOwn (s : State) (p q : Nat) (ns : List Nat) : State :=
  let r := s.run p
  let s1 := s.setRun p { r with lost := ns.foldl addOnce r.lost, report := { r.report with flags := r.report.flags ||| 2 } }
  let s2 := ns.foldl (fun (t : State) n => t.say (.shardLost (ledgerOf s p) r.step n)) s1
  s2.loseShards (fun o n => o == p && decide (n ∈ ns) && holderOf s2 p n == (s.moduleNumber, q))
    (fun o n => o == p && decide (n ∈ ns) && holderOf s2 p n != (s.moduleNumber, q)) false

/-- ENGINE_FAULT: before it writes, its unit and queue go back to the others and it is fenced; after, the shard with the unit is lost for
the step (R270; log 26). A quay with no engine left is in FAULT (log 68). -/
def execEngineFault (q engine : Nat) (afterWrite : Bool) (s : State) : Out :=
  onQuay q (
    if 256 ≤ engine ∨ engine ∈ (s.engines q).fenced then s
    else
      let e := s.engines q
      let run := s.run e.dom
      let mine := (tget none e.working engine).toList
      let back := (if afterWrite then [] else mine) ++ tget [] e.queues engine
      let e1 := { e with fenced := e.fenced ++ [engine], working := tput none e.working engine none, queues := tput [] e.queues engine [] }
      let s0 := s.setEngines q e1
      let s1 := if (enabledEngines s0 q).isEmpty && decide ((s0.quay q).state = 2) then s0.setQuay q { s0.quay q with state := 3 } else s0
      let left := enabledEngines s1 q
      let e2 := { e1 with queues := back.zipIdx.foldl (fun m u =>
        let k := left.getD (u.2 % max 1 left.length) 0
        tput [] m k (tget [] m k ++ [u.1])) e1.queues }
      let e3 := left.foldl (fun w k => if (tget none w.working k).isNone then w.take k else w) e2
      let s2 := s1.setEngines q e3
      let busy := !e.passDone
      let rep := { run.report with enginesFenced := run.report.enginesFenced + 1 }
      let s3 := if busy then s2.setRun e.dom { run with report := rep } else s2
      let s4 := match afterWrite, mine with
        | true, [(key, unit)] => s3.loseOwn e.dom q (unitShard s e.dom q e.pass key unit).toList
        | _, _ => s3
      s4.endPass e.dom q)

end Sys2Proof.Machine
end

