-- ==== Sys2Proof/Machine/Heat.lean ====
section
/-! DEFINITION. Heat: the thermal governor, emergencies, trips, compute and dark shed (R368-R375). -/

namespace Sys2Proof.Machine

/-! ### Pins of the whole module (R20) -/

/-- The value in force of a pin for a unit: a partition with marks that uses the unit keeps the value of its present step; where none
does, the value written is in force at once. -/
def unitPin (s : State) (uses : Nat → Bool) (idx sub : Nat) : Nat :=
  match (partsWhere (fun p => (s.part p).marks && uses p && (s.ctlOf p).pins.any (fun e => e.1 == okey idx sub))) with
  | p :: _ => pinFor s p idx sub
  | [] => s.cfg idx sub

/-- The value in force of a pin of the whole module, which every partition uses. -/
def modulePin (s : State) (idx sub : Nat) : Nat := unitPin s (fun _ => true) idx sub

/-- The value in force of a pin for a tile: the partitions that hold it or cross it use it. -/
def tilePin (s : State) (t idx sub : Nat) : Nat := unitPin s (fun p => s.bandHas p (t % 8) || crossesTile s p t) idx sub

/-! ### Shed tiles (R371, R372) -/

/-- A tile that is shed: compute shed, dark shed or tripped. -/
def Tile.shed (t : Tile) : Bool :=
  decide (t.state = .computeShed) || decide (t.state = .darkShed) || decide (t.state = .tripped)

/-- `0x9000.06`: the tile columns that hold a shed tile. -/
def shedMask (s : State) : Nat := partMask ((List.range 8).filter (fun tx => (List.range 6).any (fun ty => (s.tile (8 * ty + tx)).shed)))

/-- A tile state as `0x9000.03` reports it (R374). -/
def TileState.number : TileState → Nat
  | .normal => 0
  | .emergency => 1
  | .computeShed => 2
  | .darkShed => 3
  | .tripped => 4

/-- The cores of a tile that hold anything. -/
def tileCores (s : State) (t : Nat) : List Nat := (s.cores.map (fun e => e.1)).filter (fun c => coreTile c == t)

/-- The start of the next tick. -/
def nextTick (s : State) : Nat := (tickOf s.now + 1) * cyPerTick

/-- Sequencers and engines of a tile are powered off: what they held is lost, and its cores leave the heartbeat. -/
def State.powerOff (s : State) (t : Nat) : State :=
  (tileCores s t).foldl (fun (u : State) c => u.setHeal c { u.heal c with heartbeat := false, resetting := false }) (s.coresReset (tileCores s t))

/-- A tile goes to compute shed. -/
def State.toCompute (s : State) (t : Nat) : State :=
  let s1 := s.powerOff t
  s1.setTile t { s1.tile t with state := .computeShed, due := false, atLimit := 0, coolCount := 0 }

/-- A tile goes dark: its fast clock stops too, and its children take another parent. -/
def State.toDark (s : State) (t : Nat) : State :=
  let s1 := s.powerOff t
  (s1.setTile t { s1.tile t with state := .darkShed, due := false, atLimit := 0, coolCount := 0, fastClock := false }).reparent t

/-- The tile of a fabric port's row, at its edge (R110). -/
def fabricTile (i : Nat) : Nat :=
  let n := (i - 240) % 128
  (n + n / 8) / 24 * 8 + (if i < 368 then 0 else 7)

/-- The partition not STOPPED that holds a tile. -/
def tileHolder (s : State) (t : Nat) : Option Nat := (partsWhere (fun p => s.busyPart p && s.bandHas p (t % 8))).head?

/-- Why a tile may not go dark (R372): 0 it may, 1 the pin, 2 tile (0,0), 3 a partition that is not STOPPED holds it, 4 running
traffic crosses it (log 21 for the codes). A frequency-tree path is no reason: the tile's children take another parent. -/
def darkRefusal (s : State) (t : Nat) : Nat :=
  if tilePin s t 0x9000 2 ≠ 0 then 1
  else if t = 0 then 2
  else if (tileHolder s t).isSome then 3
  else if (partsWhere (fun p => decide ((s.part p).run = .running) && transitColumn s p (t % 8))) != []
      || ((partsWhere (fun p => decide ((s.part p).run = .running))) != [] && (upstreamPorts s).any (fun i => fabricTile i == t)) then 4
  else 0

/-- The time that the launch record in force names (R174). -/
def launchAt (s : State) (p : Nat) : Nat := timeOfWord ((s.ctlOf p).launchRecord.extractLsb' 0 64)

/-- A STARTING partition's launch is cancelled (R175, R375); where recovery had written it, its decision is made again (R367). -/
def State.cancelLaunch (s : State) (p : Nat) : State :=
  let pt := s.part p
  let ct := s.ctlOf p
  if ct.recovery.state = 3 ∧ ct.recovery.relaunch = launchAt s p then
    (s.setPart p { pt with run := .fault }).setCtl p { ct with recovery := { ct.recovery with state := 1, relaunch := 0 } }
  else s.setPart p { pt with run := .stopped }

/-- The time of a partition's next mark instance (R156). -/
def nextInstance (pt : Partition) : Nat :=
  let l := (tideTable pt).map (fun e =>
    let n := nextInst pt e pt.cursor
    instTime pt e n.1 n.2.1 n.2.2)
  match l with
  | [] => 0
  | t :: ts => ts.foldl min t

/-- A tile is due and its partition will fault for it: the decision is journalled with the time of that mark (R18). -/
def State.dueAtFault (s : State) (p t : Nat) : State :=
  if PFault.tileShed t ∈ (s.ctlOf p).faults then s
  else ((s.setTile t { s.tile t with due := true }).addFault p (.tileShed t)).journal jThermal (256 + t) (nextInstance (s.part p))

/-- Why a due tile goes to compute shed: what refuses dark shed, or the pin that fixes the stretch, under which a tile still over its
limit goes to compute shed (R19, R368). -/
def shedReason (s : State) (t : Nat) : Nat :=
  let why := darkRefusal s t
  if why = 0 ∧ tilePin s t 0x9000 1 ≠ 0 then 1 else why

/-- A tile is shed at the next tick boundary, which is journalled first (R18): `go` sheds it. -/
def State.shedNow (s : State) (t : Nat) (go : State → State) : State :=
  (go ((s.journal jThermal (256 + t) (nextTick s)).advance (nextTick s))).journalDone jThermal (256 + t)

/-- A due tile is shed (R370-R372, R375): dark where allowed, at the next tick boundary; else compute shed, at the fault
instance of the partition that holds it, or at the next tick boundary. -/
def State.shedDue (s : State) (t : Nat) : State :=
  if (s.tile t).shed then s
  else
    let why := shedReason s t
    if why = 0 then s.shedNow t (fun u => (u.toDark t).event sevDegraded evTileShed t 3)
    else
      let now' := fun (u : State) => u.shedNow t (fun v => (v.toCompute t).event sevDegraded evTileShed t (2 + 256 * why))
      match tileHolder s t with
      | none => now' s
      | some p =>
        match (s.part p).run with
        | .starting =>
          if s.now + 500 * cyPerTick ≤ launchAt s p then now' (s.cancelLaunch p)
          else s.dueAtFault p t
        | .running => s.dueAtFault p t
        | .stopping => s.dueAtFault p t
        | _ => now' s

/-- Due tiles of a band that faulted are shed at the fault instance. -/
def State.shedBand (s : State) (p : Nat) : State :=
  (List.range 48).foldl (fun (u : State) t =>
    if s.bandHas p (t % 8) ∧ (u.tile t).due then (u.toCompute t).journalDone jThermal (256 + t) else u) s

/-- The decisions to shed that a faulting partition's step report lists: tile, its state 2 (R18, R371). -/
def State.listShed (s : State) (p : Nat) : State :=
  (List.range 48).foldl (fun (u : State) t =>
    if s.bandHas p (t % 8) ∧ (u.tile t).due then u.decided p jThermal (256 + t) 2 2 else u) s

/-- The original placement of a re-placed partition is usable again: its columns are neither shed nor unusable, and no other
partition holds them (R362). -/
def restorable (s : State) (p : Nat) : Bool :=
  let r := (s.ctlOf p).recovery
  let cols := (List.range 8).filter (fun tx => decide (r.prevColumn ≤ tx ∧ tx < r.prevColumn + r.prevWidth))
  decide (r.path = 3 ∧ 0 < r.prevWidth) && cols.all (fun tx => !(shedMask s).testBit tx && !decide (tx ∈ s.overlay.unusable)
    && (match s.partOfColumn tx with | some q => q == p | none => true))

/-- Records PLACEMENT_RESTORABLE once. -/
def State.noteRestorable (s : State) : State :=
  (List.range 8).foldl (fun (u : State) p =>
    let ct := u.ctlOf p
    if restorable u p && !ct.placementNoted then
      (u.setCtl p { ct with placementNoted := true }).event sevInfo evPlacementRestorable p (256 * ct.recovery.prevColumn + ct.recovery.prevWidth)
    else u) s

/-- A dark tile starts its fast clock, which takes 20 ticks, and the tree is restored (R373). -/
def State.wakeTile (s : State) (t : Nat) : State :=
  let x := s.tile t
  if x.state ≠ .darkShed then s
  else
    s.setTile t { x with
      parent := if x.parent.isNone then (tileNeighbours t).find? (fun v => (s.tile v).fastClock) else x.parent
      fastClock := true, pickUp := s.now + 20 * cyPerTick }

/-- A tile leaves its shed state at the next tick boundary (R373); the scratchpad content is undefined. -/
def State.unshed (s : State) (t : Nat) : State :=
  let was := (s.tile t).state
  let s1 := (s.advance (nextTick s)).wakeTile t
  let s2 := s1.setTile t { s1.tile t with state := .normal, coolCount := 0, atLimit := 0 }
  let s3 := (tileCores s2 t).foldl (fun (u : State) c => u.forgetPad c true) s2
  (s3.event sevInfo evTileUnshed t was.number).noteRestorable

/-! ### THERM_ALERT_N and coolant flow (R422, R431) -/

/-- Fast clocks run on the wafer. -/
def anyFast (s : State) : Bool := (List.range 48).any (fun t => (s.tile t).fastClock)

/-- Coolant flow is not confirmed while fast clocks run. -/
def flowLost (s : State) : Bool := !s.power.pumpOk && anyFast s

/-- What drives THERM_ALERT_N. -/
def alertCause (s : State) : Bool :=
  (List.range 48).any (fun t => decide ((s.tile t).state = .emergency ∨ (s.tile t).state = .tripped))
    || decide (720 < s.thermal.inlet16) || decide (128 ≤ s.tide.ownRequest) || flowLost s

/-- The output follows its causes; it is released 10 s after the last one clears. -/
def State.noteAlert (s : State) : State :=
  if alertCause s then { s with power := { s.power with thermAlert := true, alertClearAt := 0 } }
  else if s.power.thermAlert ∧ s.power.alertClearAt = 0 then { s with power := { s.power with alertClearAt := s.now } }
  else s

/-! ### The governor (R368, R369) -/

/-- Hottest sensor over the tiles that are not shed, in 1/16 °C. -/
def hottest (s : State) : Option Int :=
  ((List.range 48).filter (fun t => !(s.tile t).shed)).foldl (fun (m : Option Int) t =>
    match m with
    | none => some (s.tile t).temp16
    | some v => some (max v (s.tile t).temp16)) none

/-- The least request that the coolant inlet asks for. -/
def inletRequest (inlet16 : Int) : Nat := if inlet16 ≤ 720 then 0 else min 255 (32 * ceilDiv (inlet16 - 720).toNat 16)

/-- The governor's rule: the new request and the new count of cool evaluations. -/
def thermalRule (h : Option Int) (g : Nat) (r below : Nat) : Nat × Nat :=
  match h with
  | none => (r, 0)
  | some v =>
    if 1600 ≤ v then (min 255 (r + 16), 0)
    else if 16 * ((g : Int) + 2) ≤ v then (min 255 (r + 4), 0)
    else if 16 * (g : Int) ≤ v then (min 255 (r + 1), 0)
    else if v < 16 * ((g : Int) - 3) then (if 15 ≤ below then (r - 1, 0) else (r, below + 1))
    else (r, 0)

/-- A shed tile may leave once 64 evaluations in a row read below G - 5 °C (R373). -/
def coolEnough (x : Tile) : Bool := decide (64 ≤ x.coolCount)

/-- THERMAL_EVALUATION: every 1,024 ticks, over the sensors (in 1/16 °C) of the 48 tiles and the coolant inlet. -/
def execThermalEvaluation (temps : List Int) (inlet : Int) (s : State) : Out :=
  .next (
    if temps.length ≠ 48 then s
    else
      let s1 := s.advance ((s.thermal.lastEval / 1024 + 1) * 1024 * cyPerTick)
      let g := s1.cfg 0x9000 5
      let pin := modulePin s1 0x9000 1
      let s2 := (List.range 48).foldl (fun (u : State) t => u.setTile t { u.tile t with temp16 := temps.getD t 0 }) s1
      let rule := thermalRule (hottest s2) g s2.thermal.request s2.thermal.below
      let lost := flowLost s2
      let r := if lost then 255 else max rule.1 (inletRequest inlet)
      let full := decide (r = 255) || decide (pin ≠ 0)
      let s3 : State := { s2 with
        thermal := { s2.thermal with inlet16 := inlet, request := r, below := rule.2, lastEval := tickOf s1.now / 1024 * 1024 }
        tide := { s2.tide with ownRequest := if lost then 255 else if pin ≠ 0 then pin else r } }
      let s4 := (List.range 48).foldl (fun (u : State) t =>
        let x := u.tile t
        u.setTile t { x with
          atLimit := if 1648 ≤ x.temp16 ∧ full then x.atLimit + 1 else 0
          coolCount := if x.shed ∧ x.temp16 < 16 * ((g : Int) - 5) then x.coolCount + 1 else 0 }) s3
      State.noteAlert <| (List.range 48).foldl (fun (u : State) t =>
        let x := u.tile t
        if x.shed then (if coolEnough x && decide (x.state ≠ .tripped) then u.unshed t else u)
        else if 8 ≤ x.atLimit then u.shedDue t
        else u) s4)

/-! ### Emergencies and trips (R370) -/

/-- THERMAL_EMERGENCY: the tile's signal stands and its arrays freeze (R70). -/
def execThermalEmergency (tile : Nat) (s : State) : Out :=
  onTile tile (
    let x := s.tile tile
    if x.state ≠ .normal then s else (s.setTile tile { x with state := .emergency, emergencySince := s.now }).noteAlert)

/-- A tile-queue slot whose load a freeze has held is free that much later (R55, R70). -/
def State.thawReturns (s : State) (c since m : Nat) : State :=
  let f := fun (e : GantryEnd) => { e with
    returning := e.returning.map (fun r => if r.1 = c ∧ since < r.2 then (r.1, r.2 + m) else r) }
  let g := s.gantry (coreX c)
  s.setGantry (coreX c) { g with north := f g.north, south := f g.south }

/-- The frozen cycles of a core: an array with work in flight or queued counts them and goes on where it stood; every later
cycle of it moves by as much (R70). -/
def State.thaw (s : State) (c n : Nat) : State :=
  let k := s.core c
  let a := k.arr
  let waiting := (if arrWaiting k then a.cur.toList else []) ++ k.iss.arrQ
  let running := (a.cur.isSome && !arrWaiting k) || !a.drains.isEmpty || decide (s.now - n < a.passStart + a.passLen)
  let since := if running then s.now - n
    else waiting.foldl (fun m i => min m (max (s.now - n) i.issued)) s.now
  let m := s.now - since
  if !running && waiting.isEmpty then s
  else
    let later := fun (i : ArrInstr) => { i with issued := i.issued + (s.now - max since i.issued) }
    ((s.setCore c { k with
      iss := { k.iss with arrQ := k.iss.arrQ.map later }
      arr := { a with
        cur := if arrWaiting k then a.cur.map later else a.cur
        passStart := a.passStart + m, lastVec := if since ≤ a.lastVec ∨ waiting.any (fun i => decide (i.issued < a.lastVec + 2)) then a.lastVec + m else a.lastVec
        loadDone := if a.shadow.isSome && decide (since ≤ a.loadDone) then a.loadDone + m else a.loadDone
        drains := a.drains.map (fun j =>
          if since ≤ j.lastVec then { j with lastVec := j.lastVec + m } else { j with shifts := j.shifts ++ [(since, m)] }) } }).thawReturns c since m).addFreezes c m

/-- Ends an emergency of a tile at the present time. -/
def State.endEmergency (s : State) (tile : Nat) : State :=
  let x := s.tile tile
  let n := s.now - x.emergencySince
  let s1 := s.setTile tile { x with state := .normal, emergencyEnd := s.now }
  (tileCores s tile).foldl (fun (u : State) c => u.thaw c n) s1

/-- EMERGENCY_RELEASE: below 104 °C the arrays continue. -/
def execEmergencyRelease (tile : Nat) (s : State) : Out :=
  onTile tile (if (s.tile tile).state ≠ .emergency then s else (s.endEmergency tile).noteAlert)

/-- EMERGENCY_TIMEOUT: after 1,024 ticks of emergency the tile is due for shedding at once. -/
def execEmergencyTimeout (tile : Nat) (s : State) : Out :=
  onTile tile (
    let x := s.tile tile
    if x.state ≠ .emergency then s else ((s.advance (x.emergencySince + 1024 * cyPerTick)).shedDue tile).noteAlert)

/-- THERMAL_TRIP: the fast clock stops in the same cycle, the children re-parent, every partition that crosses the tile faults
at its next mark, and the tile stays TRIPPED until a module reset. -/
def execThermalTrip (tile : Nat) (s : State) : Out :=
  onTile tile (
    if (s.tile tile).state = .tripped then s
    else
      let hit := partsWhere (fun p => crossesTile s p tile && (s.part p).live)
      let s1 := (s.setTile tile { s.tile tile with state := .tripped, fastClock := false, due := false }).reparent tile
      let s2 := (s1.addFaults hit (.tileShed tile)).noteAlert
      if hit.isEmpty then s2.event sevDegraded evTileShed tile 4 else s2)

/-! ### Manual shed (R374) -/

/-- The checks of `0x9000.07` on the tile. -/
def manualBusy (s : State) (tile : Nat) : Bool := (tileHolder s tile).isSome

/-- State 0 of `0x9000.07`: leave. -/
def doShedLeave (tile : Nat) (s : State) : State × Nat :=
  if 48 ≤ tile then (s, stRange)
  else if manualBusy s tile then (s, stBusy)
  else
    let x := s.tile tile
    if 8 ≤ x.atLimit ∨ 1648 ≤ x.temp16 ∨ x.state = .tripped then (s, stState)
    else if x.shed then (s.unshed tile, stOk) else (s, stOk)

/-- State 2 of `0x9000.07`: compute shed; a dark tile leaves the dark for it. -/
def doShedCompute (tile : Nat) (s : State) : State × Nat :=
  if 48 ≤ tile then (s, stRange)
  else if manualBusy s tile then (s, stBusy)
  else if (s.tile tile).state = .darkShed then
    let s1 := (s.advance (nextTick s)).wakeTile tile
    ((s1.setTile tile { s1.tile tile with state := .computeShed, coolCount := 0, atLimit := 0 }).event sevDegraded evTileShed tile 2, stOk)
  else if (s.tile tile).shed then (s, stOk)
  else (((s.advance (nextTick s)).toCompute tile).event sevDegraded evTileShed tile 2, stOk)

/-- State 3 of `0x9000.07`: dark shed. -/
def doShedDark (tile : Nat) (s : State) : State × Nat :=
  if 48 ≤ tile then (s, stRange)
  else if manualBusy s tile then (s, stBusy)
  else if darkRefusal s tile ≠ 0 ∨ (s.tile tile).state = .tripped then (s, stState)
  else if (s.tile tile).state = .darkShed then (s, stOk)
  else (((s.advance (nextTick s)).toDark tile).event sevDegraded evTileShed tile 3, stOk)

/-- MANUAL_SHED_LEAVE. -/
def execManualShedLeave (cl : Client) (tile : Nat) (s : State) : Out := .next (s.command cl false (doShedLeave tile))
/-- MANUAL_SHED_COMPUTE. -/
def execManualShedCompute (cl : Client) (tile : Nat) (s : State) : Out := .next (s.command cl false (doShedCompute tile))
/-- MANUAL_SHED_DARK. -/
def execManualShedDark (cl : Client) (tile : Nat) (s : State) : Out := .next (s.command cl false (doShedDark tile))

end Sys2Proof.Machine
end

