-- ==== Sys2Proof/Machine/Distill.lean ====
section
/-! DEFINITION. Teacher and student: pair records, the handoff check, its decision, the fence (R277-R290). -/

namespace Sys2Proof.Machine

/-! ### Pair records (R279) -/

/-- The pair record of a student partition; empty means no teacher. -/
def pairBytes (s : State) (p : Nat) : List Byte := s.cfgBytes 0x6300 (0x10 + p)

def prTeacher (b : List Byte) : Nat := leAt b 0 1
def prMode (b : List Byte) : Nat := leAt b 1 1
def prK (b : List Byte) : Nat := leAt b 2 1
def prWindow (b : List Byte) : Nat := leAt b 3 1
def prFirstCol (b : List Byte) : Nat := leAt b 4 1
def prCols (b : List Byte) : Nat := leAt b 5 1 + 1
def prRows (b : List Byte) : Nat := leAt b 6 2
def prArm (b : List Byte) : Nat := leAt b 8 2
def prCheck (b : List Byte) : Nat := leAt b 10 2
def prBranch (b : List Byte) : Nat := leAt b 12 2
def prHard (b : List Byte) : Nat := leAt b 14 1
def prOffset (b : List Byte) : Int := signedOf 32 (leAt b 16 4)
def prEnd (b : List Byte) : Nat := leAt b 20 2
def prMask (b : List Byte) : Nat := leAt b 22 1
def prModule (b : List Byte) : Nat := leAt b 24 2

/-- The teacher lies on this module. -/
def teacherHere (s : State) (b : List Byte) : Bool := decide (prModule b = 0xFFFF ∨ prModule b = s.moduleNumber)

/-- The landing cores: every enabled core of the landing columns. -/
def landingCores (s : State) (p : Nat) : List Nat :=
  let b := pairBytes s p
  (s.enabledCores p).filter (fun c =>
    decide (bandX s p (prFirstCol b) ≤ coreX c ∧ coreX c < bandX s p (prFirstCol b) + prCols b))

/-! ### In step (R282) -/

/-- Step start of a partition, its resume shift included, in ticks. -/
def stepOrigin (pt : Partition) : Int := (pt.launchTick : Int) + pt.delta

/-- The pair is in step. A teacher on another module cannot be seen from here: free (log 28). -/
def pairInStep (s : State) (p : Nat) : Bool :=
  let b := pairBytes s p
  if teacherHere s b then decide (stepOrigin (s.part (prTeacher b)) - stepOrigin (s.part p) = prOffset b)
  else Config.freeBool s.freeCtr (8 * p)

/-- Notes whether the pair is in step; a DEGRADED event when it falls out. -/
def State.notePair (s : State) (p : Nat) : State :=
  let b := pairBytes s p
  if b.isEmpty then s
  else
    let ok := pairInStep s p
    let x := s.pair p
    let s1 := s.setPair p { x with inStep := ok }
    if x.inStep && !ok then s1.event sevDegraded evUnpaired p (prTeacher b) else s1

/-- Notes every pair that a partition belongs to. -/
def State.notePairs (s : State) (p : Nat) : State :=
  (List.range 8).foldl (fun (u : State) q =>
    if q = p ∨ (!(pairBytes u q).isEmpty ∧ teacherHere u (pairBytes u q) ∧ prTeacher (pairBytes u q) = p) then
      (if (u.part q).live then u.notePair q else u)
    else u) s

/-! ### The fence (R288) -/

/-- A window goes back to its configured map, disarmed, its scoreboard entry released. -/
def clearWindow (k : Core) (win : Nat) (fenced : Bool) : Core :=
  let w := tget {} k.windows win
  let drop := fun (i : IssueState) => { i with sb := i.sb.filter (fun e => e.party != .window win) }
  { k with
    windows := tput {} k.windows win { w with armed := false, left := 0, fenced := fenced, exhausted := false, poisoned := false }
    iss := drop k.iss
    snap := k.snap.map drop }

/-- Fences the landing windows of a pair. -/
def State.fencePair (s : State) (p : Nat) : State :=
  let win := prWindow (pairBytes s p)
  let s1 := (landingCores s p).foldl (fun (u : State) c => u.setCore c (clearWindow (u.core c) win true)) s
  s1.setPair p { s1.pair p with fence := true, endClear := false }

/-- The windows of a pair whose fence stands are fenced again once a launch or resume has set them up: only the conditions of R288 lift a
fence. -/
def State.refence (s : State) (p : Nat) : State :=
  if (s.pair p).fence && !(pairBytes s p).isEmpty then
    let x := s.pair p
    let s1 := s.fencePair p
    s1.setPair p { s1.pair p with endClear := x.endClear }
  else s

/-- Every channel of the mask is IDLE with an empty pending register, in every core of the teacher. -/
def teacherIdle (s : State) (b : List Byte) : Bool :=
  (bandCores s (prTeacher b)).all (fun c =>
    let k := s.core c
    (List.range 8).all (fun ch => !(prMask b).testBit ch || channelFree k ch))

/-- A teacher end instance fires: fenced pairs of the teacher note whether its channels are idle. -/
def State.noteTeacherEnd (s : State) (t : Nat) (insts : List (Nat × Nat × Nat)) : State :=
  (List.range 8).foldl (fun (u : State) p =>
    let b := pairBytes u p
    let x := u.pair p
    if b.isEmpty || !x.fence || !teacherHere u b || decide (prTeacher b ≠ t) || !insts.any (fun e => e.1 == prEnd b) then u
    else if teacherIdle u b then u.setPair p { x with endClear := true } else u) s

/-- The fence may be lifted. -/
def fenceOver (s : State) (p : Nat) : Bool :=
  let b := pairBytes s p
  if teacherHere s b then (s.pair p).endClear || atRest s (prTeacher b) else Config.freeBool s.freeCtr (8 * p + 1)

/-- The first student arm instance after that lifts the fence; the lift comes before any arming in the cycle (R290). -/
def State.liftFence (s : State) (p : Nat) (insts : List (Nat × Nat × Nat)) : State :=
  let b := pairBytes s p
  if b.isEmpty || !(s.pair p).fence || !insts.any (fun e => e.1 == prArm b) then s
  else if fenceOver s p then
    let s1 := (landingCores s p).foldl (fun (u : State) c => u.setCore c (clearWindow (u.core c) (prWindow b) false)) s
    (s1.setPair p { s1.pair p with fence := false, endClear := false }).bump
  else s.bump

/-! ### The check (R286) -/

/-- The latest arm instance at or before a time, in micro-batch o of step index n. -/
def latestArm (pt : Partition) (b : List Byte) (n o at' : Nat) : Nat :=
  let e := tideEntry pt (prArm b)
  ((List.range (tideInner e)).map (fun i => instTime pt e n i o)).foldl (fun m t => if t ≤ at' then max m t else m) 0

/-- Whether a landing core's window is VALID. -/
def landed (k : Core) (win since : Nat) : Bool :=
  let w := tget {} k.windows win
  w.exhausted && !w.armed && !w.poisoned && decide (since ≤ w.armedAt)

/-- The result of a check, before the other members are heard: the first code of R289 that applies. -/
def handoffCode (s : State) (p o : Nat) (anyLate anyPoison : Bool) : Nat :=
  let b := pairBytes s p
  let t := prTeacher b
  let tp := s.part t
  let here := teacherHere s b
  let stopped := if here then decide (tp.run ≠ .running) else Config.freeBool s.freeCtr (8 * p + 2)
  let skip := if here then isExcluded s t (tp.n0 + (s.part p).stepIndex) o else Config.freeBool s.freeCtr (8 * p + 3)
  if pinFor s p 0x6300 1 = 2 then 7
  else if !(s.pair p).inStep then 5
  else if stopped then 4
  else if skip then 3
  else if (s.pair p).fence then 8
  else if anyPoison then 2
  else if anyLate then 1
  else 0

/-- The handoff check of micro-batch o at the present instance: landing cores judge, windows still armed are disarmed and the
pair fenced, and the result goes to the controller. -/
def State.handoffCheck (s : State) (p o : Nat) : State :=
  let b := pairBytes s p
  if b.isEmpty then s
  else
    let s0 := s.notePair p
    let pt := s0.part p
    let win := prWindow b
    let since := latestArm pt b pt.stepIndex o s0.now
    let cs := landingCores s0 p
    let late := cs.filter (fun c => !landed (s0.core c) win since)
    let poison := cs.any (fun c => let w := tget {} (s0.core c).windows win; w.poisoned && decide (since ≤ w.armedAt))
    let code := handoffCode s0 p o (!late.isEmpty) poison
    let armed := cs.any (fun c => (tget {} (s0.core c).windows win).armed)
    let s1 := if armed then s0.fencePair p else s0
    let e := tideEntry pt (prBranch b)
    (s1.setPair p { s1.pair p with
      checkStep := pt.stepIndex, checkOuter := o, checkTime := some s0.now, branchTime := instTime pt e pt.stepIndex 0 o
      late := late.length, ownResult := code, results := [], decided := false }).bump

/-! ### The decision (R287, R289) -/

/-- The HARD bit as a mask. -/
def hardMask (s : State) (p : Nat) : BitVec 16 := BitVec.ofNat 16 (2 ^ prHard (pairBytes s p))

/-- The request that names the branch instance of the checked micro-batch. -/
def hardRequest (s : State) (p : Nat) (set : Bool) (code : Nat) : VariantReq :=
  let x := s.pair p
  { mask := hardMask s p, word := if set then hardMask s p else 0, entry := prBranch (pairBytes s p), inner := 0
    outer := x.checkOuter, step := x.checkStep, detail := if set then some code else none }

/-- The HARD bit is set, or a pending request will set it. -/
def hardSet (s : State) (p : Nat) : Bool :=
  let pt := s.part p
  decide (pt.variant &&& hardMask s p ≠ 0) || pt.latches.any (fun r => decide (r.word &&& hardMask s p ≠ 0))

/-- Counts and reports the decision: `result` for the report, `hard` the path selected. -/
def State.reportHandoff (s : State) (p result : Nat) (hard : Bool) : State :=
  let x := s.pair p
  let line := ((s.part p).n0 + x.checkStep, x.checkOuter, result, hard, x.late)
  s.setPair p { x with
    decided := true
    counts := tput 0 x.counts result (satAdd 32 (tget 0 x.counts result) 1)
    report := (line :: x.report).take 256 }

/-- The controller's decision on the checked micro-batch. `code` is the code of the event. -/
def State.decideHandoff (s : State) (p result code : Nat) (hard : Bool) : State :=
  let policy := pinFor s p 0x6300 1
  let s1 := s.journal jHandoff p (s.pair p).branchTime
  if hard && decide (policy = 1) then
    (s1.setCtl p { s1.ctlOf p with logitsLateAt := some (hardRequest s p true code) }).reportHandoff p result false
  else if hard then
    ((s1.setPart p { s1.part p with latches := (s1.part p).latches ++ [{ hardRequest s p true code with detail := none }] }).reportHandoff
      p result true).event sevAbsorbed evHardPath p code
  else if hardSet s p || (s.tide.joined && s.tide.isRoot) then
    (s1.setPart p { s1.part p with latches := (s1.part p).latches ++ [hardRequest s p false 0] }).reportHandoff p result false
  else s1.reportHandoff p result false

/-- The modules of the tide domain that report to the root: this one, and the members of the table with its domain. -/
def tideMembers (s : State) : List Nat :=
  if !s.tide.joined then [s.moduleNumber]
  else
    match s.ledger.membership with
    | none => [s.moduleNumber]
    | some t => addOnce ((t.members.filter (fun m => m.tideDomain == s.cfg 0x4000 2)).map (fun m => m.module)) s.moduleNumber

/-- The members that report a partition's handoff results to the root: this module, and in a domain every other that runs its group. -/
def handoffMembers (s : State) (p : Nat) : List Nat :=
  if inGroup s p then ((membersOf s (groupNumber s p)).map (fun r => r.module)).foldl addOnce [s.moduleNumber] else [s.moduleNumber]

/-- The student partitions of a partition's group on this module that wait for the same decision, itself first: the root decides for all of
them (R286). -/
def handoffPeers (s : State) (p : Nat) : List Nat :=
  let x := s.pair p
  p :: (if inGroup s p then (groupParts s p).filter (fun q =>
    decide (q ≠ p) && !(pairBytes s q).isEmpty && (s.pair q).checkTime.isSome && !(s.pair q).decided
      && decide ((s.pair q).checkStep = x.checkStep ∧ (s.pair q).checkOuter = x.checkOuter)) else [])

/-- The code of a decision at a partition: its own result where that is not VALID, else the one that selected the path (R289). -/
def ownCode (s : State) (p code : Nat) : Nat := if (s.pair p).ownResult = 0 then code else (s.pair p).ownResult

/-- The controller's decision for every student partition that it concerns (R286, R287). `missing` says that a result did not come in time,
which the report then names where the partition's own result is VALID. -/
def State.decideGroup (s : State) (p code : Nat) (hard missing : Bool) : State :=
  (handoffPeers s p).foldl (fun (u : State) q =>
    u.decideHandoff q (if missing then ownCode u q code else (u.pair q).ownResult) (ownCode u q code) hard) s

/-- HANDOFF_RESULT_RECEIVE: a member's result reaches the root (in a domain of one, the module's own); any result other than
VALID selects the HARD path, all VALID the normal one (R286). -/
def execHandoffResultReceive (p member result : Nat) (s : State) : Out :=
  onPart p (
    let x := s.pair p
    let own := decide (member = s.moduleNumber)
    if x.checkTime.isNone || x.decided || (pairBytes s p).isEmpty || decide (8 < result)
        || !decide (member ∈ tideMembers s ∨ member ∈ handoffMembers s p)
        || x.results.any (fun r => r.1 == member) || (own && decide (result ≠ x.ownResult))
        || (!own && s.tide.joined && !s.tide.isRoot && !standsBy s) then s
    else
      let rs := x.results ++ [(member, result)]
      let s1 := s.setPair p { x with results := rs }
      if s.tide.joined && !s.tide.isRoot then s1
      else if result ≠ 0 then s1.decideGroup p result true false
      else if (handoffMembers s p).all (fun m => rs.any (fun r => r.1 == m)) then s1.decideGroup p 0 false false
      else s1)

/-- HANDOFF_REPORT_DEADLINE: at the root, 8 ticks before the branch instance a missing result selects the HARD path; at another
member, 4 ticks before it a missing decision does (R185, R286). -/
def execHandoffReportDeadline (p : Nat) (s : State) : Out :=
  onPart p (
    let x := s.pair p
    if x.checkTime.isNone || x.decided || (pairBytes s p).isEmpty || decide (x.branchTime < s.now) then s
    else
      let lead := if s.tide.joined && !s.tide.isRoot then 4 else 8
      let s1 := s.advance (x.branchTime - lead * cyPerTick)
      if s.tide.joined && !s.tide.isRoot then s1.decideHandoff p (ownCode s p 6) (ownCode s p 6) true else s1.decideGroup p 6 true true)

/-- The root's announcement reaches another member: its HARD bit decides the checked micro-batch there (R286). -/
def State.handoffAnnounced (s : State) (p : Nat) (mask word : BitVec 16) : State :=
  let x := s.pair p
  if x.checkTime.isNone || x.decided || (pairBytes s p).isEmpty || decide (mask &&& hardMask s p = 0) then s
  else
    let hard := decide (word &&& hardMask s p ≠ 0)
    if hard && decide (pinFor s p 0x6300 1 ≠ 1) then (s.reportHandoff p x.ownResult true).event sevAbsorbed evHardPath p x.ownResult
    else s.reportHandoff p x.ownResult false

/-- The branch instance of the checked micro-batch comes with no decision made. -/
def handoffMissing (s : State) (p : Nat) (insts : List (Nat × Nat × Nat)) : Bool :=
  let b := pairBytes s p
  let x := s.pair p
  !b.isEmpty && !x.decided && x.checkTime.isSome && insts.any (fun e => e.1 == prBranch b && e.2.2 == x.checkOuter)
    && decide (x.checkStep = (s.part p).stepIndex)

/-- A missing decision at the branch instance is the HARD path with REPORT_MISSING, latched here (R185). -/
def State.handoffOverdue (s : State) (p : Nat) (insts : List (Nat × Nat × Nat)) : State :=
  if handoffMissing s p insts then s.decideHandoff p (ownCode s p 6) (ownCode s p 6) true else s

/-- Under late policy 1 it is a fault there (R287). -/
def handoffFault (s : State) (p : Nat) (insts : List (Nat × Nat × Nat)) : Option Nat :=
  if handoffMissing s p insts && decide (pinFor s p 0x6300 1 = 1) then some (ownCode s p 6) else none

end Sys2Proof.Machine
end

