-- ==== Sys2Proof/Machine/Image.lean ====
section
/-! DEFINITION. The bytes of an image (R165-R167, R173, R240, R443): header, section directory, core segments, tide tables,
stash layouts, link assumptions and signature. The governor, tap, window and tensor sections have no framing in the spec and
come from `Config.imageOf` (log 13). -/

namespace Sys2Proof.Machine

/-- The n words of w bits that a byte string holds from an offset on. -/
def wordsAt (w n : Nat) (v : List Byte) (at' : Nat) : List (BitVec w) :=
  (List.range n).map (fun i => BitVec.ofNat w (leAt v (at' + i * (w / 8)) (w / 8)))

/-- The header (R165). -/
def headerAt (v : List Byte) : ImageHeader where
  magic := leAt v 0 4
  version := leAt v 4 2
  variant := leAt v 6 1
  width := leAt v 7 1
  firstColumns := leAt v 8 1
  modes := leAt v 9 1
  tideEntries := leAt v 10 2
  period := leAt v 12 4
  group := leAt v 16 4
  vectorRevision := leAt v 20 2
  barrierAssumed := leAt v 22 2
  transit := BitVec.ofNat 32 (leAt v 24 4)
  quayBandwidth := leAt v 28 4
  fabricBandwidth := leAt v 32 4
  sectionCount := leAt v 36 4
  length := leAt v 40 8
  signed := leAt v 48 1
  zero := leAt v 49 15

/-- Directory entry i (R166). The directory follows the header. -/
def dirEntryAt (v : List Byte) (i : Nat) : DirEntry where
  type := leAt v (64 + 16 * i) 2
  variant := leAt v (66 + 16 * i) 2
  inst := leAt v (68 + 16 * i) 2
  zero := leAt v (70 + 16 * i) 2
  offset := leAt v (72 + 16 * i) 4
  length := leAt v (76 + 16 * i) 4

/-- Bytes of a section. -/
def sectionBytes (v : List Byte) (e : DirEntry) : List Byte := (v.drop e.offset).take e.length

/-- A core segment (R167): 64 B head, 512 B participation map, bundles, ranges, descriptors. Bit i of the map is entry i, as
little-endian fields number their bits (log 13). A section too short for its parts breaks the zero field. -/
def segmentAt (variant : Nat) (b : List Byte) : Segment :=
  let n := leAt b 2 2
  let r := leAt b 4 2
  let d := leAt b 6 2
  let bundleAt := 576
  let rangeAt := bundleAt + 16 * n
  let descAt := rangeAt + 4 * r
  { variant := variant
    entry := leAt b 0 2
    bundles := wordsAt 128 n b bundleAt
    ranges := wordsAt 32 r b rangeAt
    descs := wordsAt 512 d b descAt
    branch := (List.range 16).map (fun i => leAt b (8 + 2 * i) 2)
    participates := (List.range 4096).filter (fun i => (leAt b (64 + i / 8) 1).testBit (i % 8))
    zero := if b.length < descAt + 64 * d then 1 else leAt b 40 24 }

/-- A tide table, entries in order (R154, R166). -/
def tideTableAt (b : List Byte) : List (BitVec 128) := wordsAt 128 (b.length / 16) b 0

/-- A stash layout (R240, R241). A kind that its variant ID forbids, another variant bit and a zero field that is not zero become
the kind 255, which no layout may have. -/
def stashAt (variant : Nat) (b : List Byte) : StashLayout :=
  let kind := leAt b 0 1
  let n := leAt b 18 2
  let agrees := if variant = 0 then decide (kind = 0) else decide (kind ≠ 0 ∧ leAt b 1 1 + 1 = variant)
  { kind := if agrees && decide (leAt b 20 44 = 0 ∧ 64 + 16 * n ≤ b.length) then kind else 255
    bit := leAt b 1 1
    smax := leAt b 2 2
    extra := leAt b 4 4
    boundary := leAt b 8 4
    gatherRecord := leAt b 12 2
    latchEntry := leAt b 14 2
    latchInner := leAt b 16 2
    layers := wordsAt 128 n b 64 }

/-- The records of the link assumptions (R173): edge, port and delivery latency of each port used, after the bytes of the
columns and rows. -/
def linkRecordsAt (columns : Nat) (b : List Byte) : List (Nat × Nat × Nat) :=
  (List.range ((b.length - columns - 144) / 4)).map (fun i =>
    let o := columns + 144 + 4 * i
    (leAt b o 1, leAt b (o + 1) 1, leAt b (o + 2) 2))

/-- The image that the bytes of an upload spell. -/
def imageFrom (v : List Byte) : Image :=
  let h := headerAt v
  let dir := (List.range (min h.sectionCount 65535)).map (dirEntryAt v)
  let ofType := fun (t : Nat) (base : Bool) => dir.filter (fun e => e.type == t && (e.variant == 0) == base)
  let open' := Config.imageOf v
  let links := (dir.find? (fun e => e.type == 6)).map (sectionBytes v)
  let sign := (dir.find? (fun e => e.type == 9))
  let signBytes := ((sign.map (sectionBytes v)).getD [])
  { header := h
    dir := dir
    segments := (ofType 1 true).map (fun e => (e.inst, segmentAt 0 (sectionBytes v e)))
    variants := (ofType 1 false).map (fun e => (e.inst, segmentAt e.variant (sectionBytes v e)))
    tide := ((ofType 2 true).head?.map (fun e => tideTableAt (sectionBytes v e))).getD []
    tideVariants := (ofType 2 false).map (fun e => (e.variant, tideTableAt (sectionBytes v e)))
    taps := (open'.map (fun o => o.taps)).getD []
    tapVariants := (open'.map (fun o => o.tapVariants)).getD []
    stash := (dir.filter (fun e => e.type == 4)).map (fun e => stashAt e.variant (sectionBytes v e))
    plan := (open'.map (fun o => o.plan)).getD []
    egress := (open'.map (fun o => o.egress)).getD []
    update := open'.bind (fun o => o.update)
    recovery := open'.bind (fun o => o.recovery)
    columnShift := links.map (fun b => (List.range (24 * h.width)).map (fun i => leAt b i 1))
    rowShift := (links.map (fun b => (List.range 144).map (fun y => leAt b (24 * h.width + y) 1))).getD []
    links := (links.map (linkRecordsAt (24 * h.width))).getD []
    windows := (open'.map (fun o => o.windows)).getD []
    tensors := (open'.map (fun o => o.tensors)).getD []
    digest := Config.sha3 v
    signedDigest := Config.sha3 (v.take ((sign.map (fun e => e.offset)).getD v.length))
    signSlot := leAt signBytes 0 1
    signature := signBytes.drop 8
    framed := open'.isSome
    uploaded := v.length }

end Sys2Proof.Machine
end

