-- ==== Sys2Proof/Machine/Verify.lean ====
section
/-! DEFINITION. Image verification (R171-R173): header and directory, tide table, segments, opcodes and descriptors, taps,
stash layouts, signature, placement, fenced cores, barrier latency, shifts, bandwidth, timed links, transit. -/

namespace Sys2Proof.Machine

/-- The status of the first test that fails. -/
def firstFail : List (Bool × Nat) → Option Nat
  | [] => none
  | (bad, st) :: l => if bad then some st else firstFail l

/-- The first status of several checks. -/
def firstSome : List (Option Nat) → Option Nat
  | [] => none
  | some v :: _ => some v
  | none :: l => firstSome l

/-! ### Header and directory (R165, R166) -/

/-- Header checks in the order of the table, but for those of bits 2 and 3 of R172: violated, status, byte of the field. -/
def headerChecks (s : State) (img : Image) : List (Bool × Nat × Nat) :=
  let h := img.header
  [ (decide (h.magic ≠ 0x48544D59), stVersion, 0),
    (decide (h.version ≠ 3), stVersion, 4),
    (decide (h.variant ≠ if s.isD then 1 else 0), stRange, 6),
    (decide (h.width < 1 ∨ 8 < h.width), stRange, 7),
    (decide (h.modes % 4 = 0 ∨ 8 ≤ h.modes ∨ (h.modes.testBit 2 ∧ h.modes % 4 ≠ 3)), stRange, 9),
    (decide (h.tideEntries < 1 ∨ 4095 < h.tideEntries ∨ h.tideEntries ≠ img.tide.length), stRange, 10),
    (decide (h.period < 1 ∨ 16777216 < h.period), stRange, 12),
    (decide (2 < popCount 8 (bits h.transit 31 24) ∨ 2 < popCount 8 (bits h.transit 23 16) ∨ 2 < popCount 8 (bits h.transit 15 8)
      ∨ 2 < popCount 8 (bits h.transit 7 0)), stRange, 24),
    (decide (h.sectionCount < 1 ∨ 65535 < h.sectionCount ∨ h.sectionCount ≠ img.dir.length), stRange, 36),
    (decide (2 ^ 34 < h.length), stCapacity, 40),
    (decide (h.length ≠ img.uploaded), stRange, 40),
    (decide (1 < h.signed), stRange, 48),
    (decide (h.zero ≠ 0), stRange, 49)]

/-- The header's status. -/
def headerStatus (s : State) (img : Image) : Option Nat := firstFail ((headerChecks s img).map (fun e => (e.1, e.2.1)))

/-- The variant IDs that a section type allows (R166). -/
def dirVariantOk (e : DirEntry) : Bool :=
  let berth := decide (e.variant = 0 ∨ (0x100 ≤ e.variant ∧ e.variant ≤ 0x10F))
  match e.type with
  | 1 => berth
  | 2 => berth
  | 3 => berth
  | 4 => decide (e.variant ≤ 0x10)
  | 5 => decide (e.variant = 0)
  | 6 => decide (e.variant = 0)
  | 7 => decide (e.variant = 0)
  | 8 => decide (e.variant = 0)
  | 9 => decide (e.variant = 0)
  | _ => false

/-- A directory entry by itself: type and variant ID, zero field, within the image; a section that no core or column names has instance 0. -/
def dirEntryOk (img : Image) (e : DirEntry) : Bool :=
  dirVariantOk e && decide (e.zero = 0 ∧ e.offset + e.length ≤ img.header.length)
    && decide (e.inst = 0 ∨ e.type = 1 ∨ e.type = 3 ∨ e.type = 7)

/-- Two sections share a byte. -/
def dirOverlap (a b : DirEntry) : Bool :=
  decide (0 < a.length ∧ 0 < b.length ∧ a.offset < b.offset + b.length ∧ b.offset < a.offset + a.length)

/-- The first directory entry that is malformed or overlaps one before it. -/
def dirFault (img : Image) : Option Nat :=
  let d := img.dir
  (List.range d.length).find? (fun i =>
    match d[i]? with
    | none => false
    | some a => !dirEntryOk img a || (d.take i).any (dirOverlap a))

/-- The fields of the image are those of the sections that its directory lists (type, variant ID, place in the band; R166): an
image read from bytes always has this form. -/
def sectionsListed (img : Image) : Bool :=
  let ofType := fun (t : Nat) (base : Bool) => img.dir.filter (fun e => e.type == t && (e.variant == 0) == base)
  let has := fun (t : Nat) => img.dir.any (fun e => e.type == t)
  decide ((ofType 1 true).map (fun e => e.inst) = img.segments.map (fun e => e.1))
    && decide ((ofType 1 false).map (fun e => (e.inst, e.variant)) = img.variants.map (fun e => (e.1, e.2.variant)))
    && (has 2 || img.tide.isEmpty) && decide ((ofType 2 false).map (fun e => e.variant) = img.tideVariants.map (fun e => e.1))
    && decide ((ofType 3 true).map (fun e => e.inst) = img.taps.map (fun e => e.1))
    && decide ((ofType 3 false).map (fun e => (e.variant, e.inst)) = img.tapVariants.map (fun e => (e.1, e.2.1)))
    && decide ((img.dir.filter (fun e => e.type == 4)).length = img.stash.length)
    && (has 5 || (img.plan.isEmpty && img.egress.isEmpty && img.update.isNone && img.recovery.isNone))
    && (has 6 == img.columnShift.isSome) && (has 6 || (img.rowShift.isEmpty && img.links.isEmpty))
    && img.windows.all (fun w => img.dir.any (fun e => e.type == 7 && e.inst == w.1))
    && (has 8 || img.tensors.isEmpty) && (has 9 || img.signature.isEmpty)

/-- Sections do not overlap, lie within the image, are those that the image holds, and there is a tide table (R166). -/
def dirStatus (img : Image) : Option Nat :=
  firstFail [
    ((dirFault img).isSome, stRange),
    (!img.dir.any (fun e => e.type == 2 && e.variant == 0), stRange),
    (!sectionsListed img, stRange)]

/-! ### Tide table (R154) -/

/-- One entry of a table for a step period. -/
def tideEntryOk (period : Nat) (e : BitVec 128) : Bool :=
  let i := tideInner e
  let o := tideOuter e
  decide (tideBase e + (i - 1) * tideInnerPeriod e + (o - 1) * tideOuterPeriod e < period)
    && decide (tideOffset e < 1500)
    && (decide (i = 1) || decide (0 < tideInnerPeriod e))
    && (decide (o = 1) || decide (0 < tideOuterPeriod e ∧ i * tideInnerPeriod e ≤ tideOuterPeriod e))
    && (!tideStepStart e || decide (tideBase e = 0 ∧ tideOffset e = 0 ∧ i = 1 ∧ o = 1))
    && !bitAt e 0

/-- A tide table: every entry, and exactly one STEP_START. -/
def tideOk (period : Nat) (t : List (BitVec 128)) : Bool :=
  t.all (tideEntryOk period) && decide ((t.filter tideStepStart).length = 1)

/-! ### Bundles (R26, R27, R30, R57, R59, R76, R77, R93, R97, R445) -/

def bSeqOp (b : BitVec 128) : Nat := bits b 127 124
def bSeqA (b : BitVec 128) : Nat := bits b 123 120
def bSeqImm (b : BitVec 128) : Nat := bits b 119 104

/-- What the checks of a segment see besides the segment. -/
structure SegEnv where
  tide : List (BitVec 128)
  windows : List Nat

/-- One sequencer operation, loops and jumps apart (R27). -/
def seqOk (env : SegEnv) (b : BitVec 128) : Bool :=
  let a := bSeqA b
  let imm := bSeqImm b
  match bSeqOp b with
  | 0 => true
  | 1 => decide (a ≤ 3 ∧ 0 < imm)
  | 2 => decide (a ≤ 3)
  | 3 => decide (1 ≤ a ∧ a ≤ 7)
  | 4 => decide (1 ≤ a ∧ a ≤ 7)
  | 5 => decide (imm < env.tide.length)
  | 6 => decide (a ≤ 7)
  | 7 => decide (a ≤ 7)
  | 8 => true
  | 9 => true
  | 10 => decide (a ∈ env.windows)
  | _ => false

/-- An ASET value (R57). -/
def asetOk (reg v : Nat) : Bool :=
  match reg with
  | 0 => decide (v < 2 ^ 8)
  | 1 => decide (v < 2 ^ 14)
  | 2 => decide (v < 2 ^ 12)
  | 3 => decide (v / 2 ^ 15 < 6 ∧ v / 2 ^ 12 % 8 < 6 ∧ v / 2 ^ 9 % 8 < 7 ∧ v % 2 ^ 9 = 0)
  | 4 => decide (v < 2 ^ 6)
  | 5 => decide (v < 2 ^ 6)
  | 6 => decide (v < 2 ^ 9)
  | 7 => decide (v / 2 ^ 16 % 2 = 0)
  | _ => false

/-- An SSET value (R76). -/
def ssetOk (reg v : Nat) : Bool :=
  match reg with
  | 0 => decide (v < 8)
  | 1 => decide (v / 2 ^ 13 ∈ [0, 1, 4, 5] ∧ v / 2 ^ 10 % 8 ∈ [0, 1, 5] ∧ v / 2 ^ 7 % 8 ∈ [0, 1, 5, 6] ∧ v % 2 ^ 7 = 0)
  | 2 => decide (v < 2 ^ 9)
  | 3 => decide (v < 2 ^ 9)
  | _ => false

/-- A VSET value (R93). -/
def vsetOk (reg v : Nat) : Bool :=
  match reg with
  | 0 => decide (v < 2 ^ 8)
  | 1 => decide (v < 2 ^ 12)
  | 2 => decide (v / 2 ^ 18 < 7 ∧ v / 2 ^ 15 % 8 < 7 ∧ v / 2 ^ 12 % 8 < 7 ∧ v % 2 ^ 12 = 0)
  | 3 => decide (v < 2 ^ 6)
  | 4 => true
  | _ => false

/-- The segment sets CHAINS above 1 somewhere: its array instructions can have chains before the last one, which always write
DST (R57, R59). -/
def setsChains (bundles : List (BitVec 128)) : Bool :=
  bundles.any (fun b => decide (bits b 103 98 = 1 ∧ bits b 97 94 = 2 ∧ bits b 93 76 ≠ 0))

/-- The segment selects MX E2M1 springbok weights somewhere: its SMV can read scales in SRC + 1 (R76, R77). -/
def setsSpbMx (bundles : List (BitVec 128)) : Bool :=
  bundles.any (fun b => decide (bits b 75 72 = 1 ∧ bits b 71 68 = 1 ∧ bits b 67 65 = 4))

/-- The ARR slot, with `n` range-table entries loaded; `chains`: the segment sets CHAINS above 1 (R59, R445; log 44). -/
def arrSlotOk (n : Nat) (chains : Bool) (b : BitVec 128) : Bool :=
  let src := bits b 94 87
  let dst := bits b 86 79
  let drain := bitAt b 77 || chains
  match bits b 103 98 with
  | 0 => decide (bits b 78 76 = 0)
  | 1 => asetOk (bits b 97 94) (bits b 93 76)
  | 2 => decide (src < n) && (!drain || decide (dst < n))
  | 3 => decide (src + 1 < n) && (!drain || decide (dst < n))
  | 4 => decide (src < n) && (!drain || decide (dst < n))
  | 5 => decide (src + 1 < n) && (!drain || decide (dst < n))
  | 6 => decide (src + 1 < n ∧ dst < n) && !bitAt b 78 && !bitAt b 76
  | _ => false

/-- The SPB slot, with `n` range-table entries loaded; `mx`: the segment selects MX E2M1 weights (R77, R445; log 44). -/
def spbSlotOk (n : Nat) (mx : Bool) (b : BitVec 128) : Bool :=
  match bits b 75 72 with
  | 0 => !bitAt b 52
  | 1 => ssetOk (bits b 71 68) (bits b 67 52)
  | 2 => decide (bits b 68 61 < n)
  | 3 => decide (bits b 68 61 < n) && (!mx || decide (bits b 68 61 + 1 < n))
  | 4 => decide (bits b 60 53 < n)
  | 5 => !bitAt b 52
  | _ => false

/-- SUB values, whether ACCD is allowed, whether SRC, SRC + 1 and DST are used by a vector opcode with a SUB (R97). -/
def vecForm (op sub : Nat) : Option (Bool × Bool × Bool × Bool × Bool) :=
  match op with
  | 0x02 => some (decide (sub = 0), false, true, false, false)
  | 0x10 => some (decide (sub ≤ 4), true, true, true, true)
  | 0x11 => some (decide (sub ≤ 10), true, true, false, true)
  | 0x12 => some (decide (sub ≤ 3), true, true, decide (2 ≤ sub), true)
  | 0x13 => some (decide (sub ≤ 4), true, true, decide (sub = 4), true)
  | 0x14 => some (decide (sub ≤ 1), false, true, true, true)
  | 0x15 => some (decide (sub = 0), true, true, false, true)
  | 0x17 => some (decide (sub = 0), true, true, true, true)
  | 0x18 => some (decide (sub ≤ 2), true, true, true, true)
  | 0x19 => some (decide (sub ≤ 1), false, true, false, true)
  | 0x1A => some (decide (sub ≤ 1), false, true, decide (sub = 1), true)
  | _ => none

/-- The VEC slot (R96, R97, R445). -/
def vecSlotOk (n : Nat) (b : BitVec 128) : Bool :=
  let op := bits b 51 45
  let src := bits b 41 34
  let dst := bits b 33 26
  let sub := bits b 23 20
  match op with
  | 0 => decide (bits b 25 20 = 0)
  | 1 => vsetOk (bits b 44 41) (bits b 40 20)
  | 3 => decide (src < n ∧ bits b 21 20 ≠ 3 ∧ bits b 24 23 = 0)
  | 4 => decide (dst < n ∧ bits b 21 20 ≠ 3 ∧ bits b 24 22 = 0)
  | 5 => decide (bits b 22 20 ≠ 0 ∧ bits b 24 23 = 0)
  | 0x16 => decide (src < n ∧ bits b 24 21 = 0)
  | _ =>
    match vecForm op sub with
    | none => false
    | some (subOk, accd, usesSrc, two, usesDst) =>
      subOk && (accd || !bitAt b 24) && (!usesSrc || decide (src < n)) && (!two || decide (src + 1 < n)) && (!usesDst || decide (dst < n))

/-- The DMA slot over the segment's descriptors (R30). -/
def dmaSlotOk (descs : List (BitVec 512)) (b : BitVec 128) : Bool :=
  let sel := bits b 16 14
  let tgt := bits b 2 1
  match bits b 19 17 with
  | 0 => !bitAt b 0
  | 1 =>
    !bitAt b 0
      && (match descs[bits b 10 3]? with
          | none => false
          | some d =>
            decide (sel = 0)
              || (decide (tgt ≠ 0) && (!(tgt.testBit 0) || descSrcHere d) && (!(tgt.testBit 1) || descDstHere d)))
  | _ => false

/-- Loops and jumps of a segment: for each bundle the opening bundles of the loop bodies it lies in; none where the nesting
breaks R27. -/
def loopBodies : List (BitVec 128) → Nat → List Nat → Option (List (List Nat))
  | [], _, stack => if stack.isEmpty then some [] else none
  | b :: bs, i, stack =>
    match bSeqOp b with
    | 1 => if bSeqA b = stack.length ∧ stack.length < 4 then (loopBodies bs (i + 1) (i :: stack)).map (fun r => stack :: r) else none
    | 2 =>
      match stack with
      | _ :: rest => if bSeqA b = rest.length then (loopBodies bs (i + 1) rest).map (fun r => stack :: r) else none
      | [] => none
    | _ => (loopBodies bs (i + 1) stack).map (fun r => stack :: r)

/-- Every JUMP lands in the segment, and in no loop body that it does not lie in itself. -/
def jumpsOk (bundles : List (BitVec 128)) (bodies : List (List Nat)) : Bool :=
  bundles.zipIdx.all (fun e =>
    if bSeqOp e.1 = 9 then
      let t := bSeqImm e.1 % 4096
      decide (t < bundles.length) && (bodies.getD t []).all (fun o => decide (o ∈ bodies.getD e.2 []))
    else true)

/-! ### Descriptors (R134, R135) -/

/-- The fields of an address that its locality fixes. -/
def localityOk (loc a : Nat) : Bool :=
  match loc with
  | 0 => true
  | 1 => decide (a / 2 ^ 50 = 0)
  | 2 => decide (a / 2 ^ 50 = 0 ∧ addrClass a = 0 ∧ addrCore a = 0)
  | _ => false

/-- One descriptor at load, with the tide table's length. -/
def descStatus (entries : Nat) (d : BitVec 512) : Option Nat :=
  let fill := descFill d
  let src := descSrc d
  let dst := descDst d
  let srcClass := addrClass src
  let dstClass := addrClass dst
  let N := descN d
  let L := descL d
  firstFail [
    (decide (descKind d ≠ 1 ∧ descKind d ≠ 2), stRange),
    (!localityOk (descSrcLoc d) src, stRange),
    (!localityOk (descDstLoc d) dst, stRange),
    (decide (descCheck d = 3 ∨ 2 ≤ bits d 499 498), stRange),
    (decide (descTag d ≠ 0xFFF ∧ entries ≤ descTag d), stRange),
    (decide (bits d 485 448 ≠ 0 ∨ bits d 191 0 ≠ 0), stRange),
    (fill && decide (src ≠ 0), stRange),
    (!fill && !addrAligned src, stAlign),
    (!addrAligned dst, stAlign),
    (decide (N < L ∨ (L < N ∧ descDstStride d < L)), stRange),
    (!fill && decide (descPattern d ≠ 0), stRange),
    (fill && !descDstHere d, stRange),
    (!fill && !descSrcHere d && !descDstHere d, stRange),
    (!fill && !descSrcHere d && decide (srcClass ≠ 0 ∧ srcClass ≠ 1 ∧ srcClass ≠ 2), stRange),
    (!descDstHere d && decide (dstClass = 2 ∨ 4 < dstClass), stRange),
    (!descDstHere d && decide (dstClass = 3 ∧ descVc d ≠ 3), stRange)]

/-! ### Segments (R167) -/

/-- One core segment. -/
def segStatus (env : SegEnv) (g : Segment) : Option Nat :=
  let n := g.bundles.length
  let r := g.ranges.length
  let chains := setsChains g.bundles
  let mx := setsSpbMx g.bundles
  firstSome [
    firstFail [
      (decide (n < 1 ∨ 4096 < n ∨ n ≤ g.entry ∨ 256 < r ∨ 256 < g.descs.length ∨ g.zero ≠ 0 ∨ g.branch.length ≠ 16), stRange),
      (!g.ranges.all (fun e => decide (bits e 31 24 = 0)), stRange),
      (!g.bundles.all (fun b => seqOk env b && arrSlotOk r chains b && spbSlotOk r mx b && vecSlotOk r b && dmaSlotOk g.descs b), stRange),
      (match g.bundles.getLast? with | some b => decide (bSeqOp b ≠ 8 ∧ bSeqOp b ≠ 9) | none => true, stRange),
      (match loopBodies g.bundles 0 [] with | some bs => !jumpsOk g.bundles bs | none => true, stRange),
      (!g.participates.all (fun e => decide (e < env.tide.length)
        && (let t := env.tide.getD e 0
            !tideBranch t || decide (g.branch.getD (tideVariantBit t) 0xFFFF < n))), stRange)],
    firstSome (g.descs.map (descStatus env.tide.length))]

/-- Windows that an image opens for a core (R47). -/
def imageWindows (img : Image) (c : Nat) : List Nat :=
  (img.windows.filter (fun w => w.1 == c && decide (winDir w.2.2 ≠ 0))).map (fun w => w.2.1)

/-- The tide table of a variant. -/
def variantTide (img : Image) (v : Nat) : List (BitVec 128) :=
  match tfind img.tideVariants v with
  | some t => t
  | none => img.tide

/-- The step period while berth variants are loaded (R357, R361): their tide tables are judged by it. -/
def variantPeriod (img : Image) : Nat :=
  match img.recovery with
  | some r => if bits r 63 32 = 0 then img.header.period else bits r 63 32
  | none => img.header.period

/-- A tap column (R117). -/
def tapOk (t : TapColumn) : Bool := t.taps.all (fun e => decide (e.1 < 144 ∧ bits e.2 63 60 ≤ 8 ∧ bits e.2 59 0 = 0))

/-- The measuring GATHER's deadline leads every latch of the same outer index by 64 ticks: that of each variant and the base's overflow
mark (R240; log 44). The deadlines are linear in the outer index, so its first and last decide. -/
def gatherLeads (img : Image) (r : BitVec 512) : Bool :=
  let t := img.tide.getD (planEntry r) 0
  let inner := if planInner r = 0xFFFF then tideInner t - 1 else planInner r
  img.stash.all (fun v =>
    let w := img.tide.getD v.latchEntry 0
    [0, min (tideOuter t) (tideOuter w) - 1].all (fun o =>
      decide (((tideBase t + inner * tideInnerPeriod t + o * tideOuterPeriod t) * 1500 + tideOffset t : Nat) + planOffset r + 64 * 1500
        ≤ (((tideBase w + v.latchInner * tideInnerPeriod w + o * tideOuterPeriod w) * 1500 + tideOffset w : Nat) : Int))))

/-- A stash layout (R240, R241). Of the base's extra ticks and of the number of layer records the table says what they are, and no
violation of them. -/
def stashOk (img : Image) (l : StashLayout) : Bool :=
  let base := decide (l.kind = 0)
  let e := img.tide.getD l.latchEntry 0
  decide (l.kind ≤ 2 ∧ 1 ≤ l.smax ∧ l.smax ≤ 256)
    && (if base then decide (l.bit = 0xFF) else decide (l.bit ≤ 15 ∧ l.boundary = 0))
    && decide (l.latchEntry < img.tide.length ∧ l.latchInner < tideInner e)
    && (base || (tideBranch e && decide (tideVariantBit e = l.bit)))
    && l.layers.all (fun r => decide (bits r 23 16 ≤ 1 ∧ bits r 31 24 ≤ 1 ∧ bits r 47 32 < 4096 ∧ bits r 63 48 < 4096))
    && (!base || decide (l.boundary = 0xFFFFFFFF)
        || (match img.plan[l.gatherRecord]? with
            | none => false
            | some r => planGather r && gatherLeads img r))

/-- Bit 1 of R172: segments, opcodes, tide tables, taps, windows and stash layouts. -/
def bodyStatus (s : State) (img : Image) : Option Nat :=
  let w := img.header.width
  let coreOk := fun (c : Nat) => decide (c < 24 * w * 144) && (!s.isD || decide (c % (24 * w) % 24 < 22))
  let colOk := fun (x : Nat) => decide (x < 24 * w) && (!s.isD || decide (x % 24 < 22))
  firstSome [
    firstFail [
      (!img.framed, stRange),
      (!tideOk img.header.period img.tide, stRange),
      (!img.tideVariants.all (fun t => decide (0x100 ≤ t.1 ∧ t.1 ≤ 0x10F) && tideOk (variantPeriod img) t.2), stRange),
      (!(img.segments ++ img.variants).all (fun e => coreOk e.1), stRange),
      (!img.taps.all (fun e => colOk e.1 && tapOk e.2), stRange),
      (!img.tapVariants.all (fun e => decide (0x100 ≤ e.1 ∧ e.1 ≤ 0x10F) && colOk e.2.1 && tapOk e.2.2), stRange),
      (!img.windows.all (fun e => coreOk e.1 && decide (e.2.1 ≤ 15) && winMapOk e.2.2), stRange),
      (!img.stash.all (stashOk img), stRange)],
    firstSome (img.segments.map (fun e => segStatus { tide := img.tide, windows := imageWindows img e.1 } e.2)),
    firstSome (img.variants.map (fun e =>
      segStatus { tide := variantTide img e.2.variant, windows := imageWindows img e.1 } e.2))]

/-! ### Signature and revision (R443, R92) -/

/-- Bit 2: the signature, where it is enforced. -/
def signOk (s : State) (img : Image) : Bool :=
  decide (s.cfg 0xA000 8 = 0)
    || (decide (img.header.signed = 1)
        && (match img.dir.getLast? with | some e => decide (e.type = 9) | none => false)
        && decide (img.signSlot < 4) && !(s.cfgBytes 0xA000 (0x40 + img.signSlot)).isEmpty
        && Config.mldsaVerify (s.cfgBytes 0xA000 (0x40 + img.signSlot)) img.signedDigest img.signature)

/-! ### Placement (R15, R172) -/

/-- Bit 4: width, first column, tensor quays. -/
def placeOk (s : State) (p : Nat) (img : Image) : Bool :=
  decide (s.widthOf p = img.header.width) && img.header.firstColumns.testBit (s.firstCol p)
    && img.tensors.all (fun e => bandReaches s p (match s.recOf e.1 with | some r => recPrimary r | none => e.2))

/-- A fenced core: its hardware state, or a class 1 entry of the fuses or the overlay. -/
def coreFenced (s : State) (c : Nat) : Bool := (s.heal c).fenced || unitOff s 1 c

/-- The fenced cores of a band. -/
def bandHoles (s : State) (p : Nat) : List Nat :=
  let units := ((s.overlay.fuses ++ s.overlay.entries ++ s.overlay.startFences).filter (fun f => f.cls == 1)).map (fun f => f.unit)
  let kept := (s.health.filter (fun e => e.2.fenced)).map (fun e => e.1)
  (kept ++ units).foldl (fun l c => if s.bandHas p (coreX c / 24) && coreExists s c then addOnce l c else l) []

/-- The hole position of a core within its berth (R170). -/
def holeOf (c : Nat) : Nat := 4 * (coreY c % 4) + coreX c % 4

/-- The berth of a core (R4). -/
def berthOf (c : Nat) : Nat := coreY c / 4 * 48 + coreX c / 4

/-- Bit 5: no fenced core in the band, or a berth variant for each. A variant covers the one hole of its berth (R359; log 44). -/
def holesOk (s : State) (p : Nat) (img : Image) : Bool :=
  let holes := bandHoles s p
  holes.all (fun c => img.variants.any (fun e => e.2.variant == 0x100 + holeOf c)
    && decide ((holes.filter (fun d => decide (berthOf d = berthOf c))).length = 1))

/-! ### What STRICT needs (R173, R186) -/

/-- Barrier completion latency of a band: 38 + 7 w, and up to 2 cy more where columns are shifted (R124). -/
def measuredBarrier (s : State) (p : Nat) : Nat :=
  38 + 7 * s.widthOf p + (if bandShifted s p then Config.freeNat s.freeCtr p % 3 else 0)

/-- Physical row of a logical core within its tile. -/
def physRow (s : State) (x y : Nat) : Nat := siteRow (coreSite s (y * 192 + x))

/-- Measured extra cycles of vertical shifts over a column's full height. -/
def columnExcess (s : State) (x : Nat) : Nat :=
  ((List.range 6).filter (fun ty => decide (1 ≤ spareOf s (8 * ty + x / 24) (x % 24) ∧ spareOf s (8 * ty + x / 24) (x % 24) ≤ 3))).length

/-- Measured extra cycles of horizontal offsets of a logical row across a band. -/
def rowExcess (s : State) (xs : List Nat) (y : Nat) : Nat :=
  ((xs.zip (xs.drop 1)).filter (fun e => decide (physRow s e.1 y ≠ physRow s e.2 y))).length

/-- The columns of a band, and the shifts that the margin of R130 covers do not count. -/
def shiftsOk (s : State) (p : Nat) (img : Image) : Bool :=
  match img.columnShift with
  | none => false
  | some cs =>
    let xs := bandColumns s p
    xs.all (fun x => decide (columnExcess s x - operationShifts s x ≤ cs.getD (x - 24 * s.firstCol p) 0 ∧ operationShifts s x ≤ 1))
      && (decide (s.overlay.spare = []) || (List.range 144).all (fun y => decide (rowExcess s xs y ≤ img.rowShift.getD y 0
        + 2 * (xs.filter (fun x => decide (0 < operationShifts s x))).length)))

/-- Capacity of a port in GB/s: 25 a lane (R336). -/
def portGB (v : Port) : Nat := if v.outcome = 1 ∨ v.outcome = 2 ∨ v.outcome = 3 then 25 * v.lanes else 0

/-- Bit 8: the capacity of the band's quay ports and of the fabric ports that the image names. -/
def bandwidthOk (s : State) (p : Nat) (img : Image) : Bool :=
  let quay := ((List.range 240).filter (fun i => match unitColumn 4 i with | some tx => s.bandHas p tx | none => false)).foldl
    (fun n i => n + portGB (s.port i)) 0
  let fabric := (img.links.map (fun e => fabricPort e.1 e.2.1)).eraseDups.foldl (fun n i => n + portGB (s.port i)) 0
  decide (img.header.quayBandwidth ≤ quay ∧ img.header.fabricBandwidth ≤ fabric)

/-- Bit 9: every fabric port of the link assumptions has its delivery latency and a fibre of at most 150 m: 180 cy and
7.5 cy a metre (R186). -/
def linksOk (s : State) (img : Image) : Bool :=
  img.columnShift.isSome && img.links.all (fun e =>
    let v := s.port (fabricPort e.1 e.2.1)
    decide (portGB v ≠ 0 ∧ ceilDiv v.latency16 16 + 8 ≤ e.2.2 ∧ v.latency16 ≤ 16 * 1305))

/-- Bit 9 for a partition: its timed links fail once recovery has left its group's period (R364). -/
def timedOk (s : State) (p : Nat) (img : Image) : Bool := linksOk s img && (!(s.part p).leftGroup || img.links.isEmpty)

/-! ### Transit (R114) -/

/-- Tile columns that a partition's transit crosses: east of its band where it holds eastbound slots, west of it where it holds
westbound ones, in both directions there, since responses return through the columns that the requests crossed. How far it goes
is not in the image, so to the edge (log 44). -/
def transitCrosses (s : State) (p : Nat) (t : BitVec 32) (tx : Nat) : Bool :=
  (decide (bits t 31 24 ≠ 0) && decide (s.firstCol p + s.widthOf p ≤ tx ∧ tx < 8)) || (decide (bits t 23 16 ≠ 0) && decide (tx < s.firstCol p))

/-- The held slots of one image, in both directions, lie in the left-free masks of another. -/
def slotsWithin (t u : BitVec 32) : Bool :=
  decide (bits t 31 24 &&& bits u 15 8 = bits t 31 24 ∧ bits t 23 16 &&& bits u 7 0 = bits t 23 16)

/-- Two images hold one slot in one direction. -/
def slotsShared (t u : BitVec 32) : Bool := decide (bits t 31 24 &&& bits u 31 24 ≠ 0 ∨ bits t 23 16 &&& bits u 23 16 ≠ 0)

/-- Bit 10: an image's transit field against the partitions that run or launch: each crossed partition leaves the held slots
free, and no link that both cross sees one slot held twice. -/
def transitOk (s : State) (p : Nat) (img : Image) : Bool :=
  let t := img.header.transit
  (partsWhere (fun q => q != p && s.defined q && (s.part q).live)).all (fun q =>
    match (s.part q).image with
    | none => true
    | some i =>
      let u := i.header.transit
      let columns := List.range 8
      (!columns.any (fun tx => s.bandHas q tx && transitCrosses s p t tx) || slotsWithin t u)
        && (!columns.any (fun tx => s.bandHas p tx && transitCrosses s q u tx) || slotsWithin u t)
        && !(slotsShared t u && columns.any (fun tx => transitCrosses s p t tx && transitCrosses s q u tx)))

/-! ### The whole (R172) -/

/-- Verification of an image, placed as partition p where there is one: failure bits and the status of the first failing check
that rejects the image. With no partition, bits 4 to 10 have nothing to be checked against and stay clear (DESIGN CHOICE, log
74): a slot that no partition names reads VERIFIED STRICT or ELASTIC by bits 0 to 3 alone. -/
def verifyImage (s : State) (p : Option Nat) (img : Image) : Nat × Nat :=
  let head := firstSome [headerStatus s img, dirStatus img]
  let body := bodyStatus s img
  let sig := signOk s img
  let rev := decide (img.header.vectorRevision = s.ident.vectorRevision)
  let flag := fun (ok : Bool) (b : Nat) => if ok then 0 else 2 ^ b
  let placed := match p with
    | none => 0
    | some p => flag (placeOk s p img) 4 + flag (holesOk s p img) 5 + flag (decide (measuredBarrier s p ≤ img.header.barrierAssumed)) 6
        + flag (shiftsOk s p img) 7 + flag (bandwidthOk s p img) 8 + flag (timedOk s p img) 9 + flag (transitOk s p img) 10
  (flag head.isNone 0 + flag body.isNone 1 + flag sig 2 + flag rev 3 + placed,
   (firstSome [head, if rev then none else some stVersion, body, if sig then none else some stSignature]).getD stOk)

/-- The bits refused for STRICT only. -/
def strictMask : Nat := 0x3C0

/-- Bits 6 to 9 for a partition that runs: its barrier latency is the one measured at its launch (R124, R171). -/
def strictFailures (s : State) (p : Nat) : Nat :=
  match (s.part p).image with
  | none => 0
  | some img =>
    let flag := fun (ok : Bool) (b : Nat) => if ok then 0 else 2 ^ b
    flag (decide ((s.part p).barrierLatency ≤ img.header.barrierAssumed)) 6 + flag (shiftsOk s p img) 7 + flag (bandwidthOk s p img) 8
      + flag (timedOk s p img) 9

/-! ### The place of a failure (R168; log 13) -/

/-- No section, no offset. -/
def noPlace : Nat := 0xFFFFFFFF

/-- A section of the directory fails its check of bit 1. -/
def sectionBad (s : State) (img : Image) (e : DirEntry) : Bool :=
  let listed := fun (g : Segment) (tide : List (BitVec 128)) =>
    (segStatus { tide := tide, windows := imageWindows img e.inst } g).isSome
  match e.type with
  | 1 =>
    if e.variant = 0 then img.segments.any (fun g => g.1 == e.inst && listed g.2 img.tide)
    else img.variants.any (fun g => g.1 == e.inst && g.2.variant == e.variant && listed g.2 (variantTide img e.variant))
  | 2 =>
    if e.variant = 0 then !tideOk img.header.period img.tide
    else img.tideVariants.any (fun t => t.1 == e.variant && !tideOk (variantPeriod img) t.2)
  | 3 =>
    if e.variant = 0 then img.taps.any (fun t => t.1 == e.inst && !tapOk t.2)
    else img.tapVariants.any (fun t => t.1 == e.variant && t.2.1 == e.inst && !tapOk t.2.2)
  | 4 =>
    img.stash.any (fun l => decide (e.variant = if l.kind = 0 then 0 else l.bit + 1) && !stashOk img l)
  | 7 => img.windows.any (fun w => w.1 == e.inst && !winMapOk w.2.2)
  | _ => (bodyStatus s img).isSome && !img.framed && decide (e.type = 5 ∨ e.type = 8)

/-- The number in the directory of the first section with a property, and its offset in the image. -/
def firstSection (img : Image) (f : DirEntry → Bool) : Nat × Nat :=
  match img.dir.zipIdx.find? (fun e => f e.1) with
  | some (e, i) => (i, e.offset)
  | none => (noPlace, noPlace)

/-- Section and offset of the first failing check: the directory number of the section, all ones where the header or the
directory itself fails. The spec names both fields and gives neither their widths nor their counting (log 13). -/
def failPlace (s : State) (img : Image) (failures : Nat) : Nat × Nat :=
  match (List.range 11).find? (fun b => failures.testBit b) with
  | none => (noPlace, noPlace)
  | some 0 =>
    (noPlace, match (headerChecks s img).find? (fun e => e.1) with
      | some e => e.2.2
      | none => match dirFault img with | some i => 64 + 16 * i | none => 64)
  | some 1 => firstSection img (sectionBad s img)
  | some 2 => if img.header.signed = 1 then firstSection img (fun e => e.type == 9) else (noPlace, 48)
  | some 3 => (noPlace, 20)
  | some 4 => (noPlace, 7)
  | some 5 => (noPlace, 8)
  | some 6 => (noPlace, 22)
  | some 8 => (noPlace, 28)
  | some 10 => (noPlace, 24)
  | some _ => firstSection img (fun e => e.type == 6)

/-- The lowest failing bit. -/
def lowestBit (n : Nat) : Nat := ((List.range 11).find? (fun b => n.testBit b)).getD 0xFF

/-- The slot state that a verification gives (R168, R172). -/
def slotStateOf (failures : Nat) : Nat :=
  if failures &&& 0xF ≠ 0 then 4 else if failures &&& 0x430 ≠ 0 then 1 else if failures &&& strictMask ≠ 0 then 2 else 3

/-- The partition whose slot object names a slot. Where several do, the upload is verified for the lowest of them: the spec does
not say for which (DESIGN CHOICE, log 74); each launch verifies for its own partition. -/
def slotUser (s : State) (k : Nat) : Option Nat := (partsWhere (fun p => s.defined p && decide (s.cfg (0x2100 + p) 5 = k))).head?

/-- Verifies a slot for a partition and stores the report. -/
def State.verifySlot (s : State) (k : Nat) (p : Option Nat) : State :=
  let x := s.slotOf k
  match x.image with
  | none => s
  | some img =>
    let v := verifyImage s p img
    let place := failPlace s img v.1
    s.setSlot k { x with
      state := slotStateOf v.1
      failures := BitVec.ofNat 32 v.1
      failSection := place.1
      failOffset := place.2
      status := v.2 }

/-- The upload at `0x4101.01` to `0x4108.01`: storage, users, then verification (R168, R171). A rejected image stays in its
slot as REJECTED. -/
def doImageUpload (k : Nat) (img : Image) (s : State) : State × Nat :=
  if 8 ≤ k then (s, stIndex)
  else
    let used := ((s.slots.filter (fun e => e.1 != k)).map (fun e => match e.2.image with | some i => i.uploaded | none => 0)).foldl (· + ·) 0
    if 68719476736 < used + img.uploaded then (s, stCapacity)
    else if (partsWhere (fun p => s.busyPart p && decide (s.cfg (0x2100 + p) 5 = k))) != [] then (s, stBusy)
    else
      let users := partsWhere (fun p => decide (s.cfg (0x2100 + p) 5 = k))
      let s0 := users.foldl (fun (u : State) p => u.setCtl p { u.ctlOf p with reloaded := true }) s
      let s1 := (s0.setSlot k { image := some img, state := 1 }).verifySlot k (slotUser s0 k)
      (s1, (s1.slotOf k).status)

/-- IMAGE_UPLOAD. -/
def execImageUpload (cl : Client) (slot : Nat) (img : Image) (s : State) : Out := .next (s.command cl false (doImageUpload slot img))

end Sys2Proof.Machine
end

