-- ==== Sys2Proof/Machine/Ports.lean ====
section
/-! DEFINITION. The Lulis ports: the lane rule, trainings, failures, the port width governor and its pin (R335-R340). -/

namespace Sys2Proof.Machine

/-! ### Wavelengths and fuses -/

/-- The good wavelengths among a mask: those that are not off (R328 class 5). -/
def goodOf (s : State) (i mask : Nat) : List Nat := (List.range 9).filter (fun w => mask.testBit w && !unitOff s 5 (16 * i + w))

/-- A port that is fused off (R5, R328). -/
def fusedPort (s : State) (i : Nat) : Bool :=
  portFused s i || s.overlay.fuses.any (fun f => f.cls == 4 && f.unit == i) || (s.port i).outcome == 5

/-! ### Who uses a port (R341) -/

/-- The partitions that use a port and have marks. -/
def usersWithMarks (s : State) (i : Nat) : List Nat := partsWhere (fun p => (s.part p).marks && portUsed s p i)

/-- A partition that may run uses the port, or it is a tide upstream port while one may run. -/
def portBusy (s : State) (i : Nat) : Bool :=
  (partsWhere (fun p => (s.part p).live && (portUsed s p i || decide (i ∈ upstreamPorts s)))) != []

/-! ### Changes of outcome (R339, R340, R214) -/

/-- The new weight of a quay port: at the next mark of a partition that uses it, or at once. -/
def State.weighPort (s : State) (i : Nat) : State :=
  if 240 ≤ i then s
  else
    let qu := s.quay (i / 60)
    let w := portWeight (s.port i)
    if (usersWithMarks s i).isEmpty then s.setQuay (i / 60) { qu with weights := tput 0 qu.weights (i % 60) w }
    else s.setQuay (i / 60) { qu with weightChanges := qu.weightChanges.filter (fun e => e.1 != i % 60) ++ [(i % 60, w)] }

/-- What a port that goes DOWN carried and its link did not acknowledge goes out again on another (R229, R292). -/
def State.resendAll (s : State) (i : Nat) : State :=
  let t := s.resendFrames
  if 512 ≤ i then (t.resendFabric i).bump else t

/-- Puts a port's new record in force. -/
def State.changePort (s : State) (i : Nat) (v : Port) : State :=
  let old := s.port i
  let v1 := if v.outcome = 0 ∧ old.outcome ≠ 0 then { v with downSince := s.now } else v
  let s1 := ((s.setPort i v1).notePort i old).weighPort i
  if v1.outcome = 0 ∧ old.up then s1.resendAll i else s1.resendFrames

/-- The pin of `0x7000.01` takes a NARROW port DOWN (R339). -/
def State.pinDown (s : State) (i : Nat) : State :=
  s.changePort i { (s.port i).down s.now with pinnedDown := true }

/-- The pin of `0x7000.01` in force for a port: that of a partition that uses it, or at once the value written where none does
(R20). -/
def portPin (s : State) (i : Nat) : Nat :=
  match usersWithMarks s i with
  | p :: _ => pinFor s p 0x7000 1
  | [] => s.cfg 0x7000 1

/-- A NARROW port under the pin: at once where no partition with marks uses it. -/
def State.pinNarrow (s : State) (i : Nat) : State :=
  if (s.port i).outcome = 1 ∧ portPin s i = 1 ∧ (usersWithMarks s i).isEmpty then s.pinDown i else s

/-- The outcome and lanes of a port as a step report gives them. -/
def portWord (v : Port) : Nat := 256 * v.outcome + v.lanes

/-- At a mark of a partition: a governor's lane move, and the pin (R339); its step report lists both (R18, R20). -/
def State.portsAtMark (s : State) (p : Nat) : State :=
  (s.ports.map (fun e => e.1)).foldl (fun (u : State) i =>
    if !portUsed u p i then u
    else
      let v := u.port i
      let u1 := match v.move with
        | some w =>
          if v.up && v.map.testBit w && decide (v.calib ≠ 0xFF) then
            (u.setPort i { v with map := v.map - 2 ^ w + 2 ^ v.calib, calib := w, move := none, trainKind := 1, retrains := satAdd 16 v.retrains 1 }).decideNow
              p jPort i (portWord v) (portWord v)
          else u.setPort i { v with move := none }
        | none => u
      if (u1.port i).outcome = 1 ∧ pinFor u1 p 0x7000 1 = 1 then (u1.pinDown i).decideNow p jPort i 0 (portWord (u1.port i)) else u1) s

/-- The weight changes of a band's quay ports, the crossbar map, take effect at its mark and are listed there (R18, R19, R214). -/
def State.weighBand (s : State) (p : Nat) : State :=
  (List.range 4).foldl (fun (u : State) q =>
    let qu := u.quay q
    let mine := qu.weightChanges.filter (fun e => u.bandHas p (4 * (q % 2) + e.1 / 15))
    if mine.isEmpty then u
    else
      let u1 := u.setQuay q { qu with
        weightChanges := qu.weightChanges.filter (fun e => !u.bandHas p (4 * (q % 2) + e.1 / 15))
        weights := mine.foldl (fun m e => tput 0 m e.1 e.2) qu.weights }
      mine.foldl (fun (w : State) e => w.decideNow p jPort (60 * q + e.1) (portWord (w.port (60 * q + e.1))) (portWord (w.port (60 * q + e.1)))) u1) s

/-- The weights of a band's quay ports at its launch. -/
def State.weighLaunch (s : State) (p : Nat) : State :=
  let s1 := s.weighBand p
  ((List.range 240).filter (fun i => match unitColumn 4 i with | some tx => s.bandHas p tx | none => false)).foldl
    (fun (u : State) i =>
      let qu := u.quay (i / 60)
      u.setQuay (i / 60) { qu with weights := tput 0 qu.weights (i % 60) (portWeight (u.port i)) }) s1

/-! ### Tests of a link that fails (R344) -/

/-- Ends a running test with an outcome; a dark tile's fast clock stops again (R151). -/
def State.endTest (s : State) (t : TestRun) (outcome tested fenced : Nat) : State :=
  let r : TestResult := { tag := t.tag, kind := t.kind, outcome := outcome, tested := tested, fenced := fenced, start := t.start, finish := s.utc }
  let l := s.bring.finished ++ [r]
  let s0 := ((List.range 48).filter (fun k => t.tiles.getLsbD k && decide ((s.tile k).state = .darkShed))).foldl
    (fun (u : State) k => u.setTile k { u.tile k with fastClock := false }) s
  { s0 with bring := { s.bring with tests := s.bring.tests.filter (fun x => x != t), finished := l.drop (l.length - 64) } }

/-- A port that fails under a LINK test aborts it. -/
def State.abortLink (s : State) (i : Nat) : State :=
  match s.bring.tests.find? (fun t => t.kind == 5 && t.port == i) with
  | some t => s.endTest t 2 0 0
  | none => s

/-! ### Trainings (R338) -/

/-- Begins a full training: no traffic, outcome TRAINING. -/
def State.trainFull (s : State) (i : Nat) : State :=
  let v := s.port i
  s.changePort i { v with
    outcome := 4, lanes := 0, map := 0, calib := 0xFF, trainKind := 2, retrainPending := false, move := none, badCounts := []
    retrains := satAdd 16 v.retrains 1 }

/-- Removes a wavelength with a fast training (R339): its lane goes to the calibration wavelength, or lanes are lost. -/
def State.loseWavelength (s : State) (i w : Nat) : State :=
  let v := s.port i
  let good := v.used.filter (· != w)
  let n := v.lane good
  (((s.changePort i { n with
    trainKind := if good.isEmpty then 0 else 1, removed := addOnce v.removed w, move := none, badCounts := tdel v.badCounts w
    retrains := satAdd 16 v.retrains 1 }).pinNarrow i).abortLink i)

/-- WAVELENGTH_FAILURE: an uncorrectable codeword on a data wavelength. -/
def execWavelengthFailure (port wavelength : Nat) (s : State) : Out :=
  onPort port (
    let v := s.port port
    if !v.up || !v.map.testBit wavelength || decide (8 < wavelength) then s else s.loseWavelength port wavelength)

/-- A quay-fabric port that trains learns what its far end is: a module and a quay, which the cabling decides (R295; log 8). -/
def State.learnPeer (s : State) (i : Nat) : State :=
  if i < 512 ∨ !(s.port i).up then s
  else
    let far := (i, Config.freeNat s.freeCtr (2 * i) % 16384, Config.freeNat s.freeCtr (2 * i + 1) % 4)
    { s with fabric := { s.fabric with peers := (s.fabric.peers.filter (fun (e : Nat × Nat × Nat) => e.1 != i)) ++ [far] } }.bump

/-- TRAINING_COMPLETE: the lane rule over the good wavelengths; a full training that fails leaves the port DOWN. A full or bulk
training has measured the latency again; a fast one keeps the lane map it was made for. Every training tells what the far end is (R295). A
port that is off stays off, whatever a test of it finds (R328, R329). -/
def execTrainingComplete (port good latency : Nat) (ok : Bool) (s : State) : Out :=
  onPort port (
    let v := s.port port
    if v.trainKind = 0 then s
    else if fusedPort s port || unitFenced s 4 port then
      let s1 := s.setPort port { v.down s.now with outcome := if fusedPort s port then 5 else 0, trainKind := 0 }
      if ok then s1 else s1.abortLink port
    else if v.trainKind = 1 then
      (if ok then (s.setPort port { v with trainKind := 0 }).learnPeer port else s.trainFull port)
    else if ok then
      let n := v.lane (goodOf s port good)
      let s1 := (s.changePort port { n with trainKind := 0, latency16 := latency, removed := [], pinnedDown := false, left := false }).pinNarrow port
      s1.learnPeer port
    else (s.changePort port { v.down s.now with trainKind := 0, downSince := s.now }).abortLink port)

/-- CALIBRATION_MEASURE: every 1 ms. `ratios` are the data wavelengths' error ratios and `calibRatio` the calibration
wavelength's, in 10^-9 (log 21). -/
def execCalibrationMeasure (port : Nat) (ratios : List (Nat × Nat)) (calibRatio : Nat) (drift : Bool) (s : State) : Out :=
  onPort port (
    let v := s.port port
    if !v.up then s
    else
      let mine := ratios.filter (fun e => v.map.testBit e.1 && decide (e.1 ≤ 8))
      let counts := mine.foldl (fun m e => tput 0 m e.1 (if 1000 < e.2 then tget 0 m e.1 + 1 else 0)) v.badCounts
      let v1 := { v with worst9 := mine.foldl (fun m e => max m e.2) 0, badCounts := counts }
      let s1 := s.setPort port v1
      match mine.find? (fun e => decide (100000 < e.2)) with
      | some e => s1.loseWavelength port e.1
      | none =>
        let s2 := match mine.find? (fun e => decide (100 ≤ tget 0 counts e.1)) with
          | some e =>
            if v.calib ≠ 0xFF ∧ calibRatio < 100 then
              (if (usersWithMarks s port).isEmpty then
                s1.setPort port { v1 with
                  map := v.map - 2 ^ e.1 + 2 ^ v.calib, calib := e.1, badCounts := tdel counts e.1, trainKind := 1
                  retrains := satAdd 16 v.retrains 1 }
              else s1.setPort port { v1 with move := some e.1 })
            else s1
          | none => s1
        if (drift && decide (v.calib ≠ 0xFF)) || v.retrainPending then
          (if v.outcome = 1 ∨ portBusy s port = false then s2.trainFull port
            else s2.setPort port { s2.port port with retrainPending := true })
        else s2)

/-- Ports that stay down in deep park and on the way into it: all but the 16 service ports (R22, R419). -/
def parkedPort (s : State) (i : Nat) : Bool :=
  decide (s.power.state = .deepPark ∨ s.power.state = .transition) && !decide (496 ≤ i ∧ i < 512)

/-- DOWN_RETRY: every 10 s a DOWN port is trained again in full, but none that deep park holds down. -/
def execDownRetry (port : Nat) (s : State) : Out :=
  onPort port (
    let v := s.port port
    if v.outcome ≠ 0 ∨ fusedPort s port ∨ unitFenced s 4 port ∨ parkedPort s port ∨ (v.pinnedDown ∧ portPin s port = 1) then s
    else (s.advance (v.downSince + 10000000 * cyPerTick)).trainFull port)

/-- LEAVE_RECEIVED: the peer is leaving: the port goes DOWN with an INFO event; a tide upstream changes at the next tick (R350). -/
def execLeaveReceived (port : Nat) (s : State) : Out :=
  onPort port (
    let v := s.port port
    if !v.up then s
    else
      let s1 := (((s.setPort port { v.down s.now with left := true }).weighPort port).resendAll port).event sevInfo evPortOutcome port 0
      if (upstreamPorts s).head? = some port then { s1 with tide := { s1.tide with upstreamSecondary := true } }
      else s1)

/-- The retrain command's checks (R337). -/
def doRetrain (i : Nat) (full : Bool) (s : State) : State × Nat :=
  if 640 ≤ i ∨ fusedPort s i then (s, stRange)
  else if portBusy s i then (s, stBusy)
  else if parkedPort s i then (s, stState)
  else if full then (s.trainFull i, stOk)
  else (s.setPort i { s.port i with trainKind := 1, retrains := satAdd 16 (s.port i).retrains 1 }, stOk)

/-- PORT_RETRAIN_FAST. -/
def execPortRetrainFast (cl : Client) (port : Nat) (s : State) : Out := .next (s.command cl false (doRetrain port false))
/-- PORT_RETRAIN_FULL. -/
def execPortRetrainFull (cl : Client) (port : Nat) (s : State) : Out := .next (s.command cl false (doRetrain port true))

end Sys2Proof.Machine
end

