-- ==== Sys2Proof/Machine/Marks.lean ====
section
/-! DEFINITION. Mark instances: when they fire, overruns, partition faults, halts, pre-emption, mode changes, step starts, and
everything that takes effect at a mark (R154-R164, R170, R177-R179, R348, R354, R356). -/

namespace Sys2Proof.Machine

/-! ### The next instances (R155, R161) -/

/-- What fires next in a partition: its time, its step index, the coinciding instances in entry order. -/
structure Firing where
  time : Nat
  step : Nat
  insts : List (Nat × Nat × Nat)
deriving DecidableEq, Repr

/-- The next instance of each entry after the cursor: time, step, entry, inner, outer. -/
def nextOfAll (pt : Partition) : List (Nat × Nat × Nat × Nat × Nat) :=
  (tideTable pt).zipIdx.map (fun e =>
    let n := nextInst pt e.1 pt.cursor
    (instTime pt e.1 n.1 n.2.1 n.2.2, n.1, e.2, n.2.1, n.2.2))

/-- The instances at one time. -/
def instsAt (l : List (Nat × Nat × Nat × Nat × Nat)) (m : Nat) : List (Nat × Nat × Nat) :=
  (l.filter (fun e => e.1 == m)).map (fun e => (e.2.2.1, e.2.2.2.1, e.2.2.2.2))

/-- The next firing of a partition. -/
def nextFiring (pt : Partition) : Option Firing :=
  let l := nextOfAll pt
  match l with
  | [] => none
  | e :: es =>
    let first := es.foldl (fun (m : Nat × Nat) x => if x.1 < m.1 then (x.1, x.2.1) else m) (e.1, e.2.1)
    some { time := first.1, step := first.2, insts := instsAt l first.1 }

/-- Some instance of a firing belongs to an entry with a property. -/
def Firing.has (f : Firing) (pt : Partition) (q : BitVec 128 → Bool) : Bool := f.insts.any (fun e => q (tideEntry pt e.1))

/-- Every instance does. -/
def Firing.all (f : Firing) (pt : Partition) (q : BitVec 128 → Bool) : Bool := f.insts.all (fun e => q (tideEntry pt e.1))

/-- A firing with a STEP_START instance. -/
def Firing.starts (f : Firing) (pt : Partition) : Bool := f.has pt tideStepStart

/-- A request names an instance of the firing. -/
def Firing.names (f : Firing) (r : VariantReq) : Bool := decide (r.step = f.step) && decide ((r.entry, r.inner, r.outer) ∈ f.insts)

/-- No later instance lies in the same step. -/
def Firing.last (f : Firing) (pt : Partition) : Bool :=
  match nextFiring { pt with cursor := f.time } with
  | some g => decide (f.step < g.step)
  | none => true

/-! ### Arrivals (R157) -/

/-- When a core arrived for the firing, if it did. -/
def coreArrival (k : Core) (f : Firing) : Option Nat :=
  match k.wait with
  | .mark e t a => if t = f.time ∧ f.insts.any (fun i => i.1 == e) then some a else none
  | _ => none

/-- The cores that the firing waits for: enabled, with the participation bit of one of its entries. -/
def markCores (s : State) (p : Nat) (f : Firing) : List Nat :=
  (s.enabledCores p).filter (fun c => f.insts.any (fun i => decide (i.1 ∈ (s.core c).participates)))

/-- The channels whose descriptors are tagged with the firing. -/
def markChannels (s : State) (p : Nat) (f : Firing) : List (Nat × Nat) :=
  (bandCores s p).flatMap (fun c => ((s.core c).chans.filter (fun e => e.2.target == some f.time)).map (fun e => (c, e.1)))

/-- The arrival times of every party; none stands for a party that has not arrived. -/
def arrivals (s : State) (p : Nat) (f : Firing) : List (Option Nat) :=
  (markCores s p f).map (fun c => coreArrival (s.core c) f) ++ (markChannels s p f).map (fun e => ((s.core e.1).chan e.2).doneAt)

/-- Late at a time: not arrived, or arrived after it. -/
def lateAt (m : Nat) (a : Option Nat) : Bool :=
  match a with
  | none => true
  | some t => decide (m < t)

/-- The tile of a core has frozen its arrays at some time since the last mark (R158), whenever the freeze began. -/
def frozenLate (s : State) (p c : Nat) : Bool :=
  let x := s.tile (coreTile c)
  decide (x.state = .emergency) || decide ((s.part p).cursor < x.emergencyEnd)

/-- The tide overruns of a STRICT firing (R158): cores first, then channels. -/
def overruns (s : State) (p : Nat) (f : Firing) : List PFault :=
  ((markCores s p f).filter (fun c => lateAt f.time (coreArrival (s.core c) f))).map (fun c => .overrun 1 c (frozenLate s p c))
    ++ ((markChannels s p f).filter (fun e => lateAt f.time ((s.core e.1).chan e.2).doneAt)).map (fun e => .overrun 2 (8 * e.1 + e.2) false)

/-! ### Faults (R354, R356) -/

/-- The order of causes. -/
def PFault.rank : PFault → Nat
  | .coreDead _ => 1
  | .routerDead _ _ => 1
  | .tileShed _ => 1
  | .boundaryPhase _ _ _ => 1
  | .tideFree => 1
  | .poison _ => 2
  | .overrun k _ th => if k = 1 ∧ th then 3 else 4
  | .multicastStall _ _ => 4
  | .schedule _ _ => 5
  | .stashOverflow _ => 6
  | .logitsLate _ => 6
  | .strictRefused _ => 6
  | .controllerLost => 7

/-- The first cause of a list. -/
def firstCause : List PFault → Option PFault
  | [] => none
  | c :: cs => some (cs.foldl (fun m x => if x.rank < m.rank then x else m) c)

/-- Code, unit and detail of a fault's event (R379). -/
def PFault.event (s : State) (p : Nat) : PFault → Nat × Nat × Nat
  | .coreDead c => (evCoreDead, c, p)
  | .routerDead site mask => (evRouterDead, site, mask)
  | .tileShed t => (evTileShed, t, if (s.tile t).state = .tripped then 4 else 2)
  | .boundaryPhase a b err => (evBoundaryPhase, boundaryKey a b, unsignedOf 32 err)
  | .tideFree => (evTideFree, p, s.tide.lock)
  | .poison c => (evScheduleFault, c, Cause.poison.code)
  | .overrun k u th => (evTideOverrun, u, k + (if th then 256 else 0))
  | .multicastStall u tag => (evMulticastStall, u, tag)
  | .schedule c cause => (evScheduleFault, c, cause.code)
  | .stashOverflow n => (evStashOverflow, p, n)
  | .logitsLate code => (evLogitsLate, p, code)
  | .strictRefused b => (evStrictRefused, p, b)
  | .controllerLost => (evControllerLost, p, 0)

/-- The failed unit of a cause: class in [31:24], ID below. -/
def PFault.unit : PFault → Option Nat
  | .coreDead c => some (2 ^ 24 + c)
  | .routerDead site _ => some (2 * 2 ^ 24 + site)
  | _ => none

/-- Relaunches in place within the last 64 steps. -/
def recentRelaunches (ct : PartControl) (step : Nat) : Nat := (ct.relaunches.filter (fun n => decide (step < n + 64))).length

/-- Reports the orphans of the step in one column and restarts their counts (R118). -/
def State.noteOrphans (s : State) (x : Nat) : State :=
  let g := s.gantry x
  let n := g.north.orphans + g.south.orphans
  if n = 0 then s
  else
    (s.setGantry x { g with north := { g.north with orphans := 0 }, south := { g.south with orphans := 0 } }).event
      sevInfo evGantryOrphan x n

/-- The total of one counter over the cores of a partition (R50). -/
def coreTotal (s : State) (p : Nat) (f : CoreHealth → Nat) : Nat := ((bandCores s p).map (fun c => f (s.heal c))).foldl (· + ·) 0

/-- No core of the partition froze, and in ELASTIC mode none waited on its scoreboard (R21). -/
def freezeFree (s : State) (p : Nat) : Bool :=
  (bandCores s p).all (fun c =>
    decide ((s.heal c).freezes = 0) && (!(s.part p).elastic || decide ((s.heal c).sbWaits = 0)))

/-- The report of a partition's present step, as its end finds it (R18, R20, R21, R50, R206). -/
def stepReport (s : State) (p : Nat) : StepReport :=
  { step := stepNumber s p
    decisions := (s.ctlOf p).decisions
    corrected := coreTotal s p (fun h => h.corrected)
    freezes := coreTotal s p (fun h => h.freezes)
    issueStalls := coreTotal s p (fun h => h.issueStalls)
    sbWaits := coreTotal s p (fun h => h.sbWaits)
    scrubUncorrectable := coreTotal s p (fun h => h.scrubUncorrectable)
    windowRejects := coreTotal s p (fun h => h.windowRejects)
    freezeFree := freezeFree s p
    counts := (s.ctlOf p).counts }

/-- A step of a partition ends, with the step or with the run: its report is made, and each column's orphans are reported (R18, R118,
log 78). -/
def State.closeStep (s : State) (p : Nat) : State :=
  (bandColumns s p).foldl (fun (u : State) x => u.noteOrphans x)
    (s.setCtl p { s.ctlOf p with report := some (stepReport s p), decisions := [] })

/-- A stash decision that wanted a fault takes effect as one: the step report lists it beside the governor's own choice (R18, R20). -/
def State.listOverflow (s : State) (p : Nat) (f : Firing) : State :=
  ((s.ctlOf p).overflowAt.filter f.names).foldl (fun (u : State) r =>
    (u.decided p jStash r.outer StashWant.fault.word (r.choice.getD StashWant.fault.word)).journalDone jStash p) s

/-- A partition faults at a firing: the record, one FAULT event, a partition reset, and due tiles are shed. -/
def State.partitionFault (s : State) (p : Nat) (f : Firing) (causes : List PFault) : State :=
  match firstCause causes with
  | none => s
  | some c =>
    let pt := s.part p
    let ct := s.ctlOf p
    let ev := c.event s p
    let units := causes.filterMap PFault.unit
    let step := pt.n0 + f.step
    let rec' : RecoveryRecord := {
      fault := s.now, step := step, code := ev.1, detail := ev.2.2, unit := (c.unit).getD 0xFFFFFFFF, state := 1
      units := units.eraseDups.map (fun u => (u, 0xFF)), inPlace := recentRelaunches ct step, cause := some c
      prevColumn := ct.recovery.prevColumn, prevWidth := ct.recovery.prevWidth, prevSlot := ct.recovery.prevSlot
      stopping := decide (pt.run = .stopping) }
    let s1 := s.setCtl p { ct with
      recovery := rec'
      laterFaults := ct.laterFaults + causes.length - 1
      poisons := ct.poisons ++ causes.filterMap (fun x => match x with | .poison k => some (k, step) | _ => none) }
    let s2 := match c with
      | .boundaryPhase _ _ _ => s1
      | _ => s1.event sevFault ev.1 ev.2.1 ev.2.2
    let s3 := (((s2.listShed p).listOverflow p f).closeStep p).partitionReset p
    (s3.setPart p { s3.part p with run := .fault }).shedBand p

/-- A partition stops at a mark without a fault: a partition reset, no resume point. -/
def State.partitionStop (s : State) (p : Nat) : State :=
  let s1 := (s.closeStep p).partitionReset p
  s1.setPart p { s1.part p with run := .stopped }

/-! ### Modes (R162) -/

/-- Whether a check refused for STRICT fails now, over every partition of the group in a tide domain, those of other members as they
report it (R162, R185). -/
def groupFailures (s : State) (p : Nat) : Nat :=
  if s.tide.joined then
    let others := (groupPeers s p).map (fun e => e.fails)
    (((groupParts s p).map (strictFailures s)) ++ others).foldl (· ||| ·) 0
  else strictFailures s p

/-- Demotion, promotion, or the bit that refuses STRICT, at a STEP_START instance. -/
inductive ModeStep where | stay | demote (bit : Nat) | promote | refuse (bit : Nat)
deriving DecidableEq, Repr

/-- The change of mode that the domain root has announced for a STEP_START instance at or before a time: true to ELASTIC. -/
def announcedMode (s : State) (p at' : Nat) : Option Bool :=
  match (s.ctlOf p).modeNext with
  | some (e, t) => if t ≤ at' then some e else none
  | none => none

/-- What a STEP_START instance at a time does to the mode. In a domain's group the root's announcement decides on every member, its own
partitions included, so that the change falls on one instance (R162). -/
def modeStep (s : State) (p at' : Nat) : ModeStep :=
  let pt := s.part p
  let fails := groupFailures s p
  let own := strictFailures s p
  let permits := match pt.image with | some i => i.header.modes.testBit 2 | none => false
  if !pt.elastic then
    (if own ≠ 0 ∧ !permits then .refuse (lowestBit own)
    else if inGroup s p then (if announcedMode s p at' = some true ∧ permits then .demote (lowestBit fails) else .stay)
    else if own ≠ 0 then .demote (lowestBit own)
    else .stay)
  else if !pt.demoted then .stay
  else if inGroup s p then (if announcedMode s p at' = some false ∧ pt.slip = 0 then .promote else .stay)
  else if own = 0 ∧ pt.slip = 0 then .promote
  else .stay

/-- An announced change still waits: for its instance, or a promotion for a slip of 0. -/
def modeWaits (s : State) (p at' : Nat) : Bool :=
  match (s.ctlOf p).modeNext with
  | some (e, t) => decide (at' < t) || (!e && (s.part p).elastic && (s.part p).demoted)
  | none => false

/-- Applies a mode change. -/
def State.changeMode (s : State) (p : Nat) (m : ModeStep) : State :=
  let pt := s.part p
  let s0 := if decide (m = .stay) && modeWaits s p s.now then s else s.setCtl p { s.ctlOf p with modeNext := none }
  match m with
  | .demote b => (s0.setPart p { pt with elastic := true, demoted := true, slip := 0 }).event sevDegraded evModeChange p b
  | .promote => (s0.setPart p { pt with elastic := false, demoted := false }).event sevInfo evModeChange p 0xFF
  | _ => s0

/-! ### Step starts -/

/-- Restarts a core's counts of the step (R50, R149). -/
def State.restartCore (s : State) (c : Nat) : State :=
  let h := s.heal c
  let k := s.core c
  (s.setCore c { k with
    chans := k.chans.foldl (fun m e => tput {} m e.1 { e.2 with bankWait := 0, rejectedCount := 0 }) [] }).setHeal c
    { h with freezes := 0, issueStalls := 0, sbWaits := 0, windowRejects := 0 }

/-- Restarts the per-step counts of the quays that a band reaches (R215). -/
def State.restartQuays (s : State) (p : Nat) : State :=
  (List.range 4).foldl (fun (u : State) q =>
    if bandReaches s p q then
      let qu := u.quay q
      u.setQuay q { qu with
        counts := [], highWater := qu.inUse, issueWaits := 0, rejects := 0
        frameCounts := qu.frameCounts.filter (fun e => decide (e.1 / 8 ≠ p)) }
    else u) s

/-- The verification at a STEP_START instance: every check but the signature's (R443), whose bit stands as the last verification
left it; the bits refused for STRICT only as they stand for the running partition (R124, R171, R172). -/
def State.reverify (s : State) (p : Nat) : State :=
  let k := s.cfg (0x2100 + p) 5
  let x := s.slotOf k
  match x.image with
  | none => s
  | some img =>
    let full := BitVec.ofNat 32 (verifyImage s (some p) img).1
    let all := (full &&& ~~~(4 : BitVec 32)) ||| (x.failures &&& 4)
    let f : BitVec 32 := if (s.part p).image.isNone then all
      else (all &&& ~~~(BitVec.ofNat 32 strictMask)) ||| BitVec.ofNat 32 (strictFailures s p)
    let place := failPlace s img f.toNat
    s.setSlot k { x with failures := f, state := slotStateOf f.toNat, failSection := place.1, failOffset := place.2 }

/-- Decisions listed for the step that starts: those of the launch stand for step 0. -/
def PartControl.startDecisions (ct : PartControl) (n : Nat) : List Decision := if n = 0 then ct.decisions else []

/-- The lead governor of the quays that a band reaches at a STEP_START instance, with the pins then in force; at a launch only the
residency pins act (R19, R20, R213). -/
def State.governLeads (s : State) (p n : Nat) : State :=
  (List.range 4).foldl (fun (u : State) q =>
    if !bandReaches s p q then u else if n = 0 then u.pinResidency q p else u.leadGovernor q p) s

/-- What a STEP_START instance of step index n brings (R20, R169, R171, R213, R231, R235); the formats of step 0 are those of
the launch. -/
def State.stepStart (s : State) (p n : Nat) : State :=
  let s1 := if 0 < n then s.closeStep p else s
  let pt := s1.part p
  let s2 := s1.setPart p { pt with stepIndex := n, stepsDone := n }
  let s3 := s2.setCtl p { s2.ctlOf p with counts := {}, pins := [], tensorPins := [], decisions := (s.ctlOf p).startDecisions n }
  let s4 := (bandCores s3 p).foldl (fun (u : State) c => u.restartCore c) s3
  let s5 := s4.governLeads p n
  let s6 := (s5.restartQuays p).setPair p { s5.pair p with counts := [] }
  let s7 : State := if (feedOf s6 p) = some p then { s6 with ledger := { s6.ledger with
                                                      chunks := [], framesHeld := 0, framesDropped := 0, rejectsReceived := 0 } } else s6
  let s8 := (s7.reportRest p).clearAccumulators p
  let s9 := s8.reverify p
  if n = 0 then s9 else (s9.applyFormats p).noteRestorable

/-! ### Latches and branches (R170) -/

/-- Latches the requests that name the firing; each with a detail records its event (R244). -/
def State.latch (s : State) (p : Nat) (f : Firing) : State :=
  let pt := s.part p
  let mine := pt.latches.filter f.names
  let word := mine.foldl (fun (w : BitVec 16) r => (w &&& ~~~r.mask) ||| (r.word &&& r.mask)) pt.variant
  let s1 := s.setPart p { pt with variant := word, latches := pt.latches.filter (fun r => !f.names r) }
  let s2 := mine.foldl (fun (u : State) r =>
    match r.detail with
    | some d => ((u.event sevInfo evStashDecision p d).decided p jStash r.outer d (r.choice.getD d)).journalDone jStash p
    | none => (u.decided p jHandoff r.outer r.word.toNat r.word.toNat).journalDone jHandoff p) s1
  s2

/-- The bundle at which a core resumes from a mark: its branch table's, where a BRANCH entry's variant bit is set. -/
def resumeAt (pt : Partition) (k : Core) (entry : Nat) : Nat :=
  let e := tideEntry pt entry
  let b := k.branch.getD (tideVariantBit e) 0xFFFF
  if tideBranch e && pt.variant.getLsbD (tideVariantBit e) && decide (b ≠ 0xFFFF) then b else k.bp

/-- The cores that wait for the firing go on: their next bundle may issue two cycles later (R25). -/
def State.wakeCores (s : State) (p : Nat) (f : Firing) : State :=
  let pt := s.part p
  (bandCores s p).foldl (fun (u : State) c =>
    let k := u.core c
    let k1 := { k with cursor := f.time, chans := k.chans.foldl (fun m e =>
      tput {} m e.1 (if e.2.target = some f.time then { e.2 with target := none, doneAt := none } else e.2)) [] }
    match k.wait with
    | .mark e t _ =>
      if t = f.time then u.setCore c { k1 with wait := .running, nextIssue := s.now + 2, bp := resumeAt pt k e } else u.setCore c k1
    | _ => u.setCore c k1) s

/-- Window commands and disables that waited for a mark take effect (R47, R147). -/
def State.deferred (s : State) (p : Nat) : State :=
  let ct := s.ctlOf p
  let s1 := s.setCtl p { ct with windowSets := [], disables := [] }
  let s2 := ct.windowSets.foldl (fun (u : State) w => u.putWindow w.1 w.2.1 w.2.2) s1
  ct.disables.foldl (fun (u : State) d => u.disableMask d.1 d.2) s2

/-- The handoff checks of a firing. -/
def State.checks (s : State) (p : Nat) (f : Firing) : State :=
  let b := pairBytes s p
  if b.isEmpty then s
  else (f.insts.filter (fun e => e.1 == prCheck b)).foldl (fun (u : State) e => u.handoffCheck p e.2.2) s

/-- Everything a mark does that stops nothing. -/
def State.fireEffects (s : State) (p : Nat) (f : Firing) : State :=
  let s1 := (s.handoffOverdue p f.insts).latch p f
  let s2 := (s1.liftFence p f.insts).noteTeacherEnd p f.insts
  let s3 := ((s2.deferred p).openEgress p f.insts).portsAtMark p
  let s4 := (List.range 4).foldl (fun (u : State) q => if bandReaches s p q then u.residencyMark q p else u) (s3.weighBand p)
  let s5 := (s4.checks p f).wakeCores p f
  let pt := s5.part p
  let ct := s5.ctlOf p
  (s5.setPart p { pt with cursor := f.time }).setCtl p
    { ct with counts := { ct.counts with marks := satAdd 32 ct.counts.marks f.insts.length } }

/-! ### Pre-emption (R177-R179) -/

/-- A channel that stands in the way of a pre-emption: what begins in the mark's own cycle does not, the disable action takes it
(R148, R177). -/
def channelHolds (k : Core) (now ch : Nat) : Bool :=
  !channelFree k ch && !decide ((k.chan ch).state = .active ∧ (k.chan ch).since = now)

/-- Why a partition cannot be pre-empted now: 1 a loop level, 2 an engine, 3 a DMA channel, 4 an armed window; 0 it can. -/
def preemptRefusal (s : State) (p : Nat) : Nat :=
  let ks := (bandCores s p).map (fun c => s.core c)
  if ks.any (fun k => !k.loops.isEmpty) then 1
  else if ks.any (fun k => k.arr.cur.isSome || !k.arr.drains.isEmpty || !k.iss.arrQ.isEmpty || k.spb.run.isSome || !k.iss.spbQ.isEmpty
      || k.vec.run.isSome || !k.iss.vecQ.isEmpty) then 2
  else if ks.any (fun k => (List.range 8).any (fun ch => channelHolds k s.now ch)) then 3
  else if ks.any (fun k => k.windows.any (fun w => w.2.armed)) then 4
  else 0

/-- The bundle that a core's resume point saves: that of a wait still standing, which issues again (log 29). -/
def savedBundle (k : Core) : Nat :=
  match k.wait with
  | .mark _ _ _ => (k.bp + 4095) % 4096
  | .wire _ => (k.bp + 4095) % 4096
  | _ => k.bp

/-- A core at a pre-emption: registers, banks, queue and windows do not survive (R179, R72). -/
def preemptCore (k : Core) : Core :=
  { k with
    wait := if k.wait = .halted then .halted else .idle
    iss := {}, snap := none, arr := {}, spb := {}, vec := {}, queue := [], windows := [], genSeed := none }

/-- The pre-emption takes effect: the resume point is kept. -/
def State.takePreempt (s : State) (p : Nat) (f : Firing) (ticket : Nat) : State :=
  let pt := s.part p
  let cs := bandCores s p
  let point : ResumePoint := {
    time := f.time, cursor := f.time, step := f.step, variant := pt.variant
    cores := cs.map (fun c => (c, savedBundle (s.core c), (s.core c).ix)) }
  let s0 := cs.foldl (fun (u : State) c => u.disableMask c 255) (s.closeStep p)
  let s1 := ((s0.clearColumns p).clearEgress p).cancelFetches p
  let s2 := cs.foldl (fun (u : State) c => (u.setCore c (preemptCore (u.core c))).setHeal c { u.heal c with heartbeat := false }) s1
  let s3 := s2.setPart p { s2.part p with run := .stopped, resume := some point, barriers := [] }
  (s3.setCtl p { s3.ctlOf p with preempt := none, ending := false, halt := false, pins := [], tensorPins := [] }).endTicket ticket stOk

/-! ### Firing (R160, R161) -/

/-- The cycle in which an ELASTIC firing takes effect: `ready` is the last arrival, none where no party takes part. -/
def elasticTime (pt : Partition) (f : Firing) (ready : Option Nat) : Nat :=
  let base := if f.all pt tideAnchor then f.time else ((f.time : Int) + pt.slip).toNat
  match ready with
  | none => base
  | some r => max base (r + pt.barrierLatency)

/-- At a member that the domain root decides for: a micro-batch whose segments exceed the base layout's limit reaches its overflow mark with
no request received (R185, R244). -/
def stashUnanswered (s : State) (p : Nat) (f : Firing) : List PFault :=
  match baseLayout s p with
  | none => []
  | some b =>
    if !decidedElsewhere s p then []
    else
      f.insts.filterMap (fun i =>
        let step := (s.part p).n0 + f.step
        match groupSegments s p step i.2.2 with
        | none => none
        | some n =>
          if i.1 = b.latchEntry ∧ i.2.1 = b.latchInner ∧ b.smax < n ∧ (step, i.2.2) ∉ (s.gov p).stashHeard then
            some (PFault.stashOverflow n)
          else none)

/-- The causes that reach a firing: those pending, overruns, and what governors placed at it. -/
def causesAt (s : State) (p : Nat) (f : Firing) : List PFault :=
  let pt := s.part p
  let ct := s.ctlOf p
  let gov := (ct.overflowAt.filter f.names).map (fun r => PFault.stashOverflow (r.detail.getD 0))
    ++ (match ct.logitsLateAt with
      | some r => if f.names r then [PFault.logitsLate (r.detail.getD 0)] else []
      | none => [])
    ++ (match handoffFault s p f.insts with | some code => [PFault.logitsLate code] | none => [])
    ++ stashUnanswered s p f
  let mode := if f.starts pt && decide (pt.run = .running) then
      (match modeStep s p f.time with | .refuse b => [PFault.strictRefused b] | _ => []) else []
  ct.faults ++ (if pt.elastic then [] else overruns s p f) ++ gov ++ mode

/-- Counts the overruns of a firing by cause (R163). -/
def State.countOverruns (s : State) (p : Nat) (causes : List PFault) : State :=
  let kind := fun (k : Nat) => (causes.filter (fun c => match c with | .overrun j _ _ => j == k | _ => false)).length
  let ct := s.ctlOf p
  s.setCtl p { ct with counts := { ct.counts with
    waitmarkLate := satAdd 32 ct.counts.waitmarkLate (kind 1), dmaLate := satAdd 32 ct.counts.dmaLate (kind 2)
    linkLate := satAdd 32 ct.counts.linkLate (kind 3) } }

/-- The firing is the last instance of a run: of its last step by count, or of the step in which END stands (R164). -/
def finalFiring (s : State) (p : Nat) (f : Firing) : Bool :=
  let pt := s.part p
  f.last pt && (decide (0 < pt.steps ∧ f.step + 1 = pt.steps) || (s.ctlOf p).ending)

/-- The final instance of a run takes a RUNNING partition to STOPPING (R164). -/
def State.finishRun (s : State) (p : Nat) (final : Bool) : State :=
  if final && decide ((s.part p).run = .running) then s.setPart p { s.part p with run := .stopping } else s

/-- A firing with nothing that stops the partition before it. -/
def State.fireOn (s : State) (p : Nat) (f : Firing) : State :=
  let pt := s.part p
  let s1 := if f.starts pt then ((s.stepStart p f.step).changeMode p (modeStep s p f.time)) else s
  let s2 := s1.fireEffects p f
  let pt2 := s2.part p
  let final := finalFiring s p f
  match (s2.ctlOf p).preempt with
  | some (ticket, _) =>
    if f.has pt tidePreempt && decide (pt.run = .running) then
      let why := preemptRefusal s2 p
      if why = 0 then s2.takePreempt p f ticket
      else
        let s3 := s2.event sevInfo evPreemptDeferred p why
        if final then ((s3.withdrawPreempt p stState).setPart p { pt2 with run := .stopping }) else s3
    else if final then (s2.withdrawPreempt p stState).setPart p { pt2 with run := .stopping }
    else s2
  | none => s2.finishRun p final

/-- The step start before a group relaunch (R364). -/
def groupHaltDue (pt : Partition) (ct : PartControl) (f : Firing) : Bool :=
  match ct.groupHalt with
  | some g => f.starts pt && decide (g.tick * cyPerTick ≤ f.time + pt.period * cyPerTick)
  | none => false

/-- A firing takes effect in cycle t: a fault wins over a HALT, a HALT over END and PREEMPT (R164). -/
def State.fireAt (s : State) (p : Nat) (f : Firing) (t : Nat) (causes : List PFault) : State :=
  let s1 := s.advance t
  let pt := s1.part p
  let s2 := s1.setPart p { pt with slip := if pt.elastic then (t : Int) - f.time else 0 }
  let ct := s2.ctlOf p
  if !causes.isEmpty then
    (((if (handoffFault s p f.insts).isSome then s2.handoffOverdue p f.insts else s2).countOverruns p causes)).partitionFault p f causes
  else if ct.halt || (ct.haltAtStepStart && f.starts pt) || groupHaltDue pt ct f then s2.partitionStop p
  else if pt.run = .stopping ∧ f.starts pt then
    let s3 := s2.partitionStop p
    s3.setPart p { s3.part p with stepsDone := f.step }
  else s2.fireOn p f

/-- MARK_INSTANCE_FIRES: the next instances of a partition fire together; in ELASTIC mode not before every party has arrived,
unless a fault or a HALT stops the partition there (R354). -/
def execMarkInstanceFires (p : Nat) (insts : List (Nat × Nat × Nat)) (s : State) : Out :=
  onPart p (
    let pt := s.part p
    if !pt.marks then s
    else
      match nextFiring pt with
      | none => s
      | some f =>
        if insts ≠ f.insts then s
        else
          let causes := causesAt s p f
          let arr := arrivals s p f
          if !pt.elastic then s.fireAt p f f.time causes
          else if !causes.isEmpty || (s.ctlOf p).halt then s.fireAt p f (elasticTime pt f none) causes
          else if arr.any (fun a => a.isNone) then s
          else
            let ready := if arr.isEmpty then none else some ((arr.filterMap id).foldl max 0)
            s.fireAt p f (elasticTime pt f ready) [])

/-! ### The commands of `0x210p.0D` (R163, R164, R178) -/

/-- PREEMPT. -/
def doPreempt (p : Nat) (s : State) : State × Nat :=
  let pt := s.part p
  if pt.run ≠ .running ∨ (s.ctlOf p).preempt.isSome ∨ !(tideTable pt).any tidePreempt then (s, stState)
  else
    let n := s.sivar.nextTicket
    let s1 := s.openTicket (0x2100 + p) 0x0D
    (s1.setCtl p { s1.ctlOf p with preempt := some (n, s.now) }, stOk)

/-- PREEMPT of `0x210p.0D`. -/
def execPreempt (cl : Client) (p : Nat) (s : State) : Out := onPart p (s.command cl false (doPreempt p))

/-- HALT. -/
def doHalt (p : Nat) (s : State) : State × Nat :=
  if (s.part p).run ≠ .running then (s, stState) else (s.setCtl p { s.ctlOf p with halt := true }, stOk)

/-- PARTITION_HALT. -/
def execPartitionHalt (cl : Client) (p : Nat) (s : State) : Out := onPart p (s.command cl false (doHalt p))

/-- END. -/
def doEnd (p : Nat) (s : State) : State × Nat :=
  if (s.part p).run ≠ .running then (s, stState) else (s.setCtl p { s.ctlOf p with ending := true }, stOk)

/-- PARTITION_END. -/
def execPartitionEnd (cl : Client) (p : Nat) (s : State) : Out := onPart p (s.command cl false (doEnd p))

/-- WITHDRAW. -/
def doWithdraw (p : Nat) (s : State) : State × Nat :=
  if (s.part p).run ≠ .running ∨ (s.ctlOf p).preempt.isNone then (s, stState) else (s.withdrawPreempt p stState, stOk)

/-- WITHDRAW of `0x210p.0D`. -/
def execWithdraw (cl : Client) (p : Nat) (s : State) : Out := onPart p (s.command cl false (doWithdraw p))

/-- PREEMPT_TIMEOUT: four step periods after the command. -/
def execPreemptTimeout (p : Nat) (s : State) : Out :=
  onPart p (
    match (s.ctlOf p).preempt with
    | none => s
    | some (_, since) =>
      ((s.advance (since + 4 * (s.part p).period * cyPerTick)).withdrawPreempt p stTimeout).event sevInfo evPreemptDeferred p 0xFFFF)

end Sys2Proof.Machine
end

