-- ==== Sys2Proof/Machine/Launch.lean ====
section
/-! DEFINITION. Launch records: their checks, what the controller does before a launch mark, the launch and resume marks, CANCEL
(R171, R174-R176, R179), and the plan checks made at every launch and resume (R199, R211, R224, R241, R253, R277-R281, R296, R357). -/

namespace Sys2Proof.Machine

/-! ### The record (R174) -/

def lrTime (r : BitVec 256) : BitVec 64 := r.extractLsb' 0 64
def lrTick (r : BitVec 256) : Nat := bits r 63 11
def lrSteps (r : BitVec 256) : Nat := bits r 95 64
def lrKind (r : BitVec 256) : Nat := bits r 103 96
def lrFirst (r : BitVec 256) : Nat := bits r 191 128

/-- The record with a kind. -/
def withKind (kind : Nat) (r : BitVec 256) : BitVec 256 := r &&& ~~~(0xFF#256 <<< 96) ||| BitVec.ofNat 256 (kind % 256) <<< 96

/-- A launch record from its fields. -/
def launchRecord (tick steps kind first : Nat) : BitVec 256 :=
  BitVec.ofNat 256 (tick * 2048 + steps * 2 ^ 64 + kind * 2 ^ 96 + first * 2 ^ 128)

/-- The field checks. The table exempts no kind from the launch tick's. -/
def recordOk (s : State) (r : BitVec 256) : Bool :=
  decide (bits r 10 0 = 0 ∧ s.now + 1000 * cyPerTick ≤ timeOfWord (lrTime r))
    && decide (1 ≤ lrKind r ∧ lrKind r ≤ 3) && decide (bits r 127 104 = 0) && decide (bits r 255 192 = 0)

/-! ### Plans -/

/-- A DRAM region of a quay that grants a partition holds [offset, offset + size). -/
def grantsSpan (s : State) (q p offset size : Nat) : Bool :=
  s.tensors.any (fun e =>
    let r := e.2.record
    recRegion r && recPrimary r == q && recTier r == 0 && (recGrant r).testBit p
      && decide (recBase r ≤ offset ∧ offset + size ≤ recBase r + recSize r))

/-- The highest tile index of a record's formula (R200). -/
def topTile (first colStride cols groupStride g k : Nat) : Nat :=
  let last := (k - 1) / g * groupStride + (k - 1) % g
  let full := if g ≤ k - 1 then ((k - 1) / g - 1) * groupStride + (g - 1) else 0
  first + (cols - 1) * colStride + max last full

/-- Band-local columns that exist. -/
def colsOk (s : State) (p first cols : Nat) : Bool :=
  (List.range cols).all (fun j => decide (first + j < 24 * s.widthOf p) && columnExists s (bandX s p (first + j)))

/-- An entry and inner index of a tide table. -/
def entryOk (tide : List (BitVec 128)) (e i : Nat) : Bool :=
  decide (e < tide.length) && (decide (i = 0xFFFF) || decide (i < tideInner (tide.getD e 0)))

/-- One plan record (R199, R211). -/
def planStatus (s : State) (p : Nat) (tide : List (BitVec 128)) (r : BitVec 512) : Option Nat :=
  match s.recOf (planTensor r) with
  | none => some stRange
  | some t =>
    let common := firstFail [
      (decide (1 < planType r ∨ 63 < planTag r ∨ 2 < planLag r ∨ recWindow t < planLag r ∨ recByte r 3 ≠ 0) || recRegion t, stRange),
      (!bandReaches s p (recPrimary t), stState),
      (!entryOk tide (planEntry r) (planInner r), stRange),
      (decide (planPace r = 0 ∨ planLead r = 0 ∨ 4095 < planLead r ∨ recAt r 40 24 ≠ 0), stRange)]
    if planGather r then
      firstSome [common, firstFail [
        (decide (recKind t ≠ 1 ∨ gatherT r < 1 ∨ 256 < gatherT r ∨ gatherB r = 0), stRange),
        (!grantsSpan s (recPrimary t) p (gatherIndex r) (4 * gatherT r * gatherB r), stRange),
        (!grantsSpan s (recPrimary t) p (gatherOutput r) (gatherB r * gatherBlock r (recTin t) (recStream t)), stRange)]]
    else
      firstSome [common, firstFail [
        (decide (planCount r = 0 ∨ 192 < planCols r), stRange),
        (decide (recTiles t ≤ topTile (planFirst r) (planColStride r) (planCols r) (planGroupStride r) (planGroup r) (planCount r)), stRange),
        (!colsOk s p (planFirstCol r) (planCols r), stRange)]]

/-- The records of a plan that a quay receives. -/
def planIn (s : State) (plan : List (BitVec 512)) (q : Nat) : Nat :=
  (plan.filter (fun r => match s.recOf (planTensor r) with | some t => recPrimary t == q | none => false)).length

/-- The plan and its limits. -/
def plansStatus (s : State) (p : Nat) (img : Image) : Option Nat :=
  firstSome [
    firstSome (img.plan.map (planStatus s p img.tide)),
    firstFail [((List.range 4).any (fun q =>
      decide (16384 < planIn s img.plan q)
        || decide (65536 < ((partsWhere (fun k => k != p && (s.part k).live)).map (fun k => planIn s (planOf s k) q)).foldl (· + ·)
          (planIn s img.plan q))), stCapacity)]]

/-- One egress record (R224). -/
def egressStatus (s : State) (p : Nat) (img : Image) (r : BitVec 512) : Option Nat :=
  match s.recOf (egTensor r) with
  | none => some stRange
  | some t =>
    let rows := egRows r
    firstFail [
      (decide (1 < recByte r 0 ∨ egFormat r ∉ [1, 2, 5] ∨ recByte r 2 = 0x80 ∨ recByte r 3 ≠ 0), stRange),
      (decide (recKind t ≠ if rows then 1 else 0), stRange),
      (!entryOk img.tide (egEntry r) (egInner r), stRange),
      (decide (4095 < egLayer r), stRange),
      (if rows then (match img.plan[egGather r]? with | some g => !planGather g | none => true) else decide (egGather r ≠ 0), stRange),
      (if rows then decide (egFirst r ≠ 0 ∨ egCount r < 1 ∨ 256 < egCount r) else
        decide (egCount r = 0 ∨ recTiles t ≤ topTile (egFirst r) (egColStride r) (egCols r) (egGroupStride r) (egGroup r) (egCount r)), stRange),
      (decide (192 < egCols r) || !colsOk s p (egFirstCol r) (egCols r), stRange),
      (decide (recAt r 36 28 ≠ 0), stRange)]

/-- The edge of a record: north for quays 0 and 1. -/
def egNorth (s : State) (r : BitVec 512) : Bool := match s.recOf (egTensor r) with | some t => decide (recPrimary t < 2) | none => false

/-- The egress plan and its limits: 4,096 records in a unit, 16,384 at an edge. -/
def egressesStatus (s : State) (p : Nat) (img : Image) : Option Nat :=
  let at' := fun (north : Bool) => img.egress.filter (fun r => egNorth s r == north)
  let full := fun (l : List (BitVec 512)) =>
    decide (16384 < l.length)
      || (decide (4096 < l.length) && (List.range (12 * s.widthOf p)).any (fun u =>
        decide (4096 < (l.filter (fun r => decide (egFirstCol r ≤ 2 * u + 1 ∧ 2 * u < egFirstCol r + egCols r))).length)))
  firstSome [firstSome (img.egress.map (egressStatus s p img)), firstFail [(full (at' true) || full (at' false), stCapacity)]]

/-- The update record (R253). -/
def updateStatus (img : Image) : Option Nat :=
  match img.update with
  | none => none
  | some r =>
    firstFail [
      ((List.range 4).any (fun i => decide (img.tide.length ≤ updEntry r i)), stRange),
      (decide (bits r 95 64 ≠ img.header.group ∨ bits r 127 96 ≠ 0), stRange)]

/-- The recovery record (R357), where there is one. -/
def recoveryStatus (img : Image) : Option Nat :=
  match img.recovery with
  | none => none
  | some r =>
    firstFail [
      (decide (bits r 31 0 < 1000 ∨ 16777215 < bits r 31 0), stRange),
      (decide (bits r 63 32 ≠ 0 ∧ bits r 63 32 < img.header.period), stRange),
      (decide (7 < bits r 71 64 ∧ bits r 71 64 ≠ 0xFF), stRange),
      (decide (1 < bits r 79 72 ∨ 15 < bits r 87 80 ∨ bits r 127 88 ≠ 0), stRange)]

/-- Spill offsets of the stash layouts (R241). -/
def spillStatus (s : State) (p : Nat) (img : Image) : Option Nat :=
  firstFail [(img.stash.any (fun l => l.layers.any (fun r =>
    decide (bits r 23 16 = 1)
      && !(List.range 4).any (fun q => bandReaches s p q && grantsSpan s q p (bits r 127 64) 512))), stState)]

/-! ### Pairs (R277, R279-R281) -/

/-- The image that a partition runs or would run. -/
def imageFor (s : State) (p : Nat) : Option Image :=
  if (s.part p).busy then (s.part p).image else (s.slotOf (s.cfg (0x2100 + p) 5)).image

/-- Times of an entry's instances of inner index 0 in a step, in cycles from the step start, by outer index. -/
def outerTimes (e : BitVec 128) : List Int :=
  (List.range (tideOuter e)).map (fun o => (((tideBase e + o * tideOuterPeriod e) * cyPerTick + tideOffset e : Nat) : Int))

/-- The last inner instance of each outer index. -/
def outerEnds (e : BitVec 128) : List Int :=
  (List.range (tideOuter e)).map (fun o =>
    (((tideBase e + (tideInner e - 1) * tideInnerPeriod e + o * tideOuterPeriod e) * cyPerTick + tideOffset e : Nat) : Int))

/-- Two lists in order, element by element. -/
def inOrder (gap : Int) (a b : List Int) : Bool := (a.zip b).all (fun e => decide (e.1 + gap ≤ e.2))

/-- The student's own entries (R279): in the table, BRANCH on the HARD bit, no stash layout for that bit. -/
def pairEntriesOk (b : List Byte) (img : Image) : Bool :=
  let e := img.tide.getD (prBranch b) 0
  decide (prArm b < img.tide.length ∧ prCheck b < img.tide.length ∧ prBranch b < img.tide.length)
    && tideBranch e && decide (tideVariantBit e = prHard b) && !img.stash.any (fun l => decide (l.kind ≠ 0 ∧ l.bit = prHard b))

/-- The decision time of a pair (R281). -/
def decisionOk (ticks : Nat) (img : Image) (b : List Byte) : Bool :=
  inOrder (1500 * ticks) (outerEnds (img.tide.getD (prCheck b) 0)) (outerTimes (img.tide.getD (prBranch b) 0))

/-- Entries of one outer count and, beyond one micro-batch, one outer period (R280). -/
def samePace (e f : BitVec 128) : Bool :=
  decide (tideOuter e = tideOuter f ∧ (tideOuter e ≤ 1 ∨ tideOuterPeriod e = tideOuterPeriod f))

/-- A descriptor tagged with the teacher end entry appends a result row (R144). -/
def appendsResult (b : List Byte) (t : Image) : Bool :=
  t.segments.any (fun e => e.2.descs.any (fun d => decide (descTag d = prEnd b) && descResult d))

/-- The rows that a landing needs (R283): the lists and residuals, or the logits and their log-sum-exps, and a result row where the teacher
appends one. The spec names no place of T and S that the controller could read; they are free values of the image (log 63). -/
def landingNeed (b : List Byte) (img : Image) (result : Bool) : Nat :=
  let t := Config.landingTokens img.digest.toNat
  let n := Config.landingSlices img.digest.toNat
  ceilDiv (if prMode b = 0 then 8 * prK b * t + 4 * t else 64 * n * t + 4 * t) 512 + (if result then 1 else 0)

/-- The pair of a student at its launch or resume. Of a teacher on another module this model sees nothing: whether its tensors, image, periods
and order pass is free, and the student's own entries are checked (log 28). -/
def pairStatus (s : State) (p : Nat) (img : Image) : Option Nat :=
  let b := pairBytes s p
  if b.isEmpty then none
  else if !teacherHere s b then
    let check := img.tide.getD (prCheck b) 0
    firstFail [
      (decide (prRows b < landingNeed b img (Config.freeBool s.freeCtr (8 * p + 5))), stRange),
      (Config.freeBool s.freeCtr (8 * p + 4), stState),
      (!decide (prModule b ∈ tideMembers s), stState), (!pairEntriesOk b img, stRange),
      (!(samePace (img.tide.getD (prArm b) 0) check && samePace (img.tide.getD (prBranch b) 0) check), stState),
      (!decisionOk 64 img b, stState)]
  else
    match imageFor s (prTeacher b) with
    | none => some stState
    | some t =>
      let entry := fun (i : Image) (e : Nat) => i.tide.getD e 0
      let own := [entry img (prArm b), entry img (prCheck b), entry img (prBranch b)]
      let endE := entry t (prEnd b)
      let off := prOffset b * 1500
      firstFail [
        (!pairEntriesOk b img || decide (t.tide.length ≤ prEnd b ∨ prRows b < landingNeed b img (appendsResult b t)), stRange),
        (!s.defined (prTeacher b), stState),
        (!t.tensors.all (fun e => match s.recOf e.1 with | some r => recFrozen r | none => false), stState),
        (!t.egress.isEmpty || t.update.isSome, stState),
        (decide (t.header.period ≠ img.header.period)
          || !own.all (fun e => samePace e endE), stState),
        (!(inOrder 1500 (outerEnds (entry img (prArm b))) ((outerTimes endE).map (· + off))
          && inOrder 1500 ((outerEnds endE).map (· + off)) (outerTimes (entry img (prCheck b)))), stState),
        (!decisionOk (if s.tide.joined then 64 else 16) img b, stState)]

/-! ### The ledger (R296, R318) and the tensor table (R333) -/

/-- A module's digest is held by fewer members than another: its table is the one that differs (R296; log 27). -/
def digestDiffers (s : State) : Bool :=
  let ds := s.ledger.digests.map (fun e => e.2)
  let votes := fun (d : BitVec 512) => (ds.filter (fun x => x == d)).length
  match s.ledger.digests.find? (fun e => e.1 == s.moduleNumber) with
  | some own => ds.any (fun d => decide (votes own.2 < votes d))
  | none => false

/-- The stores of a ledger fit once a partition has an image: a table committed before the first launch has them allocated at it (R300;
log 27). -/
def storesFit (s : State) (p : Nat) (img : Image) : Bool := (allocStores (s.setPart p { s.part p with image := some img })).isSome

/-- A partition that feeds a domain: its image carries an update record. -/
def ledgerStatus (s : State) (p : Nat) (img : Image) : Option Nat :=
  if img.update.isNone then none
  else
    match s.ledger.membership with
    | none => none
    | some t =>
      firstFail [
        (decide (t.ledger ≠ img.header.group), stState),
        (decide (s.ledger.state = 1) && digestDiffers s, stVersion),
        (decide (s.ledger.state ≠ 2), stState),
        (decide (s.ledger.resyncing ≠ []), stState),
        (!storesFit s p img, stCapacity)]

/-- A tensor that no longer fits its quay. -/
def tensorLost (s : State) (tid : Nat) : Bool :=
  s.quays.any (fun e => e.2.allocs.any (fun a => a.tid == tid && a.kind != 3 && decide (tierCap s e.1 a.tier < a.base + a.size)))

/-! ### Admission (R171, R172, R175) -/

/-- A test runs on a tile of the band. -/
def testOnBand (s : State) (p : Nat) : Bool :=
  s.bring.tests.any (fun t => (List.range 48).any (fun u => t.tiles.getLsbD u && s.bandHas p (u % 8)))

/-- Columns that a launch must be able to use: the band, and where the image's transit crosses. -/
def launchColumn (s : State) (p : Nat) (img : Image) (tx : Nat) : Bool :=
  s.bandHas p tx
    || (decide (bits img.header.transit 31 24 ≠ 0) && decide (s.firstCol p + s.widthOf p ≤ tx))
    || (decide (bits img.header.transit 23 16 ≠ 0) && decide (tx < s.firstCol p))

/-- The verification of R172 at a launch: bits 0 to 3 with their own status, 4 and 10 E_STATE, 5 E_NOSPARE, and for STRICT 6 to 9. -/
def verifyStatus (s : State) (p : Nat) (img : Image) : Option Nat :=
  let v := verifyImage s (some p) img
  let elastic := decide (s.cfg (0x2100 + p) 4 = 1)
  firstFail [
    (decide (v.1 &&& 0xF ≠ 0), v.2),
    (decide (v.1 &&& 0x410 ≠ 0), stState),
    (decide (v.1 &&& 0x20 ≠ 0), stNospare),
    (!img.header.modes.testBit (if elastic then 1 else 0), stState),
    (!elastic && decide (v.1 &&& strictMask ≠ 0), stState)]

/-- Everything that can refuse a launch or resume of a STOPPED partition with an image. -/
def admitStatus (s : State) (p : Nat) (img : Image) : Option Nat :=
  firstSome [
    firstFail [(testOnBand s p, stBusy), (decide (s.tide.run = .stopped) || s.mc.mresetDraining || s.power.draining, stState)],
    verifyStatus s p img,
    firstFail [
      ((List.range 8).any (fun tx => launchColumn s p img tx && ((shedMask s).testBit tx || decide (tx ∈ s.overlay.unusable))), stNospare),
      (s.routersDown.any (fun k => launchColumn s p img (siteTile k % 8) && siteInUse s k), stNospare),
      ((List.range 192).any (fun u => unitOff s 3 u && s.bandHas p (u % 96 / 12)), stNospare)],
    recoveryStatus img,
    plansStatus s p img,
    egressesStatus s p img,
    updateStatus img,
    spillStatus s p img,
    firstFail [(img.tensors.any (fun e => tensorLost s e.1), stCapacity)],
    pairStatus s p img,
    ledgerStatus s p img]

/-! ### Substitution at a launch (R366) -/

/-- A router site of a STOPPED partition's columns that stopped forwarding is replaced by its column's spare, where that is free, the column
has had no other shift in operation since the verification, and the pin allows it (R130, R330). -/
def State.substituteSite (s : State) (site p : Nat) : State :=
  if decide (s.cfg 0x3100 1 = 2) || decide (spareOf s (siteTile site) (siteCol site) ≠ 0)
      || decide (0 < operationShifts s (siteTile site % 8 * 24 + siteCol site)) then s
  else
    let r := s.shiftColumn site 3 3 2
    ({ r.1 with routersDown := r.1.routersDown.filter (· != site) }).event sevAbsorbed evSpareSubstituted site p

/-- Before a launch or a relaunch the entries that waited for it take effect, and every offered core of the band and every router site of
it that is down is replaced (R330, R366). -/
def State.substituteBand (s : State) (p : Nat) : State :=
  let s0 := s.applyPending p
  let s1 := (s0.routersDown.filter (fun k => s0.bandHas p (siteTile k % 8) && siteInUse s0 k)).foldl
    (fun (u : State) k => u.substituteSite k p) s0
  ((s1.health.map (fun e => e.1)).filter (fun c => s1.bandHas p (coreX c / 24))).foldl
    (fun (u : State) c => u.substituteOffer false c p) s1

/-! ### Loading (R175) -/

/-- The core of a band-local index. -/
def bandCore (s : State) (p idx : Nat) : Nat :=
  let w := 24 * s.widthOf p
  idx / w * 192 + 24 * s.firstCol p + idx % w

/-- The hole position of the berth that a core lies in, among fenced cores (R170). -/
def berthHole (holes : List Nat) (c : Nat) : Option Nat :=
  (holes.find? (fun h => coreX h / 4 == coreX c / 4 && coreY h / 4 == coreY c / 4)).map holeOf

/-- The segment of a core: the berth variant's where its berth has a hole whose variant is loaded. -/
def segmentFor (img : Image) (vs holes : List Nat) (idx c : Nat) : Option Segment :=
  let base := (img.segments.find? (fun e => e.1 == idx)).map (fun e => e.2)
  match berthHole holes c with
  | some h =>
    if h ∈ vs then (img.variants.find? (fun e => e.1 == idx && e.2.variant == 0x100 + h)).map (fun e => e.2) else base
  | none => base

/-- The tap column of a band-local column. Where the image gives a column none, its masks are all zero (R117); its injection pattern, on
which the spec is silent, stays as it was (log 74). -/
def tapFor (s : State) (img : Image) (vs : List Nat) (x col : Nat) : TapColumn :=
  let base : TapColumn := match img.taps.find? (fun e => e.1 == col) with
    | some e => e.2
    | none => { pattern := (s.gantry x).pattern, taps := [] }
  match img.tapVariants.find? (fun e => vs.any (fun h => e.1 == 0x100 + h) && e.2.1 == col) with
  | some e => e.2.2
  | none => base

/-- A core's registers, banks, queues, channels, windows and router pointers as every launch and resume finds them (R57, R76, R94, R111,
R133); a channel's status says that none has ended since the launch (R144). -/
def freshCore (k : Core) : Core :=
  { k with
    ix := [], loops := [], wait := .idle, iss := {}, snap := none, arr := {}, spb := {}, vec := {}, queue := []
    chans := [], rrRead := 2, rrWrite := 2, rrInject := 2, routerTurn := [], portBusy := [], responses := [], lastBegin := none
    windows := [], rejecting := [], firstFault := none, laterFaults := 0
    genSeed := none, genPaused := 0 }

/-- Writes the stores of a band's cores; a core with no segment is empty. -/
def State.loadStores (s : State) (p : Nat) (img : Image) (vs : List Nat) : State :=
  let holes := bandHoles s p
  let named := (img.segments.map (fun e => e.1) ++ img.variants.map (fun e => e.1)).eraseDups
  let s1 := (bandCores s p).foldl (fun (u : State) c =>
    u.loadSegment c { variant := 0, entry := 0, bundles := [], ranges := [], descs := [], branch := [], participates := [], zero := 0 }) s
  named.foldl (fun (u : State) idx =>
    let c := bandCore s p idx
    match segmentFor img vs holes idx c with
    | some g => if coreExists s c && !coreFenced s c then u.loadSegment c g else u
    | none => u) s1

/-- Writes the tap tables of a band: the mask of a core with no segment is zero (R117). -/
def State.loadBandTaps (s : State) (p : Nat) (img : Image) (vs : List Nat) : State :=
  (bandColumns s p).foldl (fun (u : State) x =>
    let t := tapFor s img vs x (x - 24 * s.firstCol p)
    let mine := t.taps.map (fun e =>
      if (s.core (e.1 * 192 + x)).bundles.isEmpty then (e.1, e.2 &&& 0xFFFFFFFFFFFFFFFF#128) else e)
    u.setGantry x (loadTaps u x { t with taps := mine })) s

/-- Opens the initial windows (R47). -/
def State.openWindows (s : State) (p : Nat) (img : Image) : State :=
  img.windows.foldl (fun (u : State) w => u.putWindow (bandCore s p w.1) w.2.1 w.2.2) s

/-- Starts the fast clocks that a partition needs (R151). -/
def State.startClocks (s : State) (p : Nat) (img : Image) : State :=
  ((List.range 48).filter (fun t => launchColumn s p img (t % 8))).foldl (fun (u : State) t => u.startClock t) s

/-- The quays begin a partition's sequences again, and its columns have 32 buffer credits (R198). -/
def State.freshQuays (s : State) (p : Nat) (keep : IssuedFetch → Bool) : State :=
  let s1 : State := { s with quays := s.quays.map (fun e => (e.1, { e.2 with
    seqs := e.2.seqs.filter (fun k => k.1 / 256 != p)
    sentSeq := e.2.sentSeq.filter (fun k => k.1 / 256 != p)
    issued := e.2.issued.filter (fun f => f.part != p || keep f) })) }
  s1.freshCredits p

/-- The leads of a partition's plan records are the image's again (R169, R213), and the segments measured of its micro-batches go, as a launch
may run the same steps again (R242). -/
def State.freshLeads (s : State) (p : Nat) : State :=
  { s with quays := s.quays.map (fun e => (e.1, { e.2 with
      recordLeads := e.2.recordLeads.filter (fun l => l.1 / 65536 != p)
      segments := e.2.segments.filter (fun m => m.1 != p) })) }

/-- The mailbox of a partition at a row (R414): key of its first byte. -/
def mailAt (p row : Nat) : Nat := p * 131072 + row * 512

/-- Clears the mailbox of a partition and its records (R414). -/
def State.clearMail (s : State) (p : Nat) : State :=
  { s with
    mail := forget s.mail (mailAt p 0) 131072
    mailMarks := s.mailMarks.filter (fun e => decide (e.1 < p * 16384 ∨ (p + 1) * 16384 ≤ e.1)) }

/-- The image as the controller holds it for a run: with berth variants loaded, their tide table. -/
def loadedImage (img : Image) (vs : List Nat) : Image :=
  match vs with
  | [] => img
  | h :: _ => { img with tide := variantTide img (0x100 + h) }

/-- The step period in force (R361). -/
def periodFor (img : Image) (vs : List Nat) : Nat :=
  if vs.isEmpty then img.header.period else variantPeriod img

/-- The record of a launch: what a partition's control fields become. -/
def launchCtl (ct : PartControl) (rec : BitVec 256) (recovery : Bool) : PartControl :=
  { launchRecord := rec, launchStatus := stOk, recovery := ct.recovery, placementNoted := ct.placementNoted
    relaunches := if recovery then ct.relaunches else [], poisons := if recovery then ct.poisons else []
    mailRecords := if recovery then ct.mailRecords else [] }

/-- The stores of the ledger that has a table, allocated for what this module now feeds (R300). -/
def State.fitStores (s : State) : State := if s.ledger.membership.isSome then (allocStores s).getD s else s

/-- A launch that goes back to a step already updated: its updates count from there (R174, R194; log 27). -/
def State.backUpdates (s : State) (p n0 : Nat) : State :=
  if (s.run p).phase = 0 ∧ n0 ≤ (s.run p).step then s.setRun p { s.run p with done := false, prior := [] } else s

/-- The controller's work on an accepted launch: STARTING, and everything of R175 before the launch tick. What the scratchpads hold is
undefined at a task's start (R41). -/
def State.startPartition (s : State) (p : Nat) (img0 : Image) (vs : List Nat) (rec : BitVec 256) (recovery : Bool) : State :=
  let img := loadedImage img0 vs
  let pt := s.part p
  let latency := measuredBarrier s p
  let pt1 : Partition := {
    run := .starting, elastic := decide (s.cfg (0x2100 + p) 4 = 1), image := some img, variants := vs, launchTick := lrTick rec
    period := periodFor img0 vs, steps := lrSteps rec, n0 := lrFirst rec, nb := if recovery then pt.nb else lrFirst rec
    barrierLatency := latency, leftGroup := recovery && pt.leftGroup }
  let s1 := ((s.setPart p pt1).setCtl p (launchCtl (s.ctlOf p) rec recovery)).applyPending p
  let s2 := s1.loadStores p img vs
  let s3 := (bandCores s2 p).foldl (fun (u : State) c =>
    (((u.forgetPad c false).setCore c (freshCore (u.core c))).setHeal c
      { u.heal c with faultSinceLaunch := 0, resetting := false }).restartCore c) s2
  let s4 := ((s3.loadBandTaps p img vs).openWindows p img).startClocks p img
  let s5 := ((s4.freshQuays p (fun _ => false)).freshLeads p).weighLaunch p
  let s6 := ((s5.clearEgress p).setPair p { report := (s5.pair p).report, fence := (s5.pair p).fence, endClear := (s5.pair p).endClear }).refence p
  let s7 : State := { s6 with overlay := { s6.overlay with
    shiftsSinceVerify := s6.overlay.shiftsSinceVerify.filter (fun k => !s6.bandHas p (k / 24 % 8)) } }
  let s8 := if recovery then s7 else s7.clearMail p
  let s9 := if img.update.isSome then (s8.ownLedger.fitStores).backUpdates p (lrFirst rec) else s8
  ((s9.notePairs p).journal jLaunch p (timeOfWord (lrTime rec))).bump

/-! ### The launch object (R174, R175, R179) -/

/-- Kind 1: LAUNCH; its verification goes into the slot's report (R171, R172). -/
def doLaunch (p : Nat) (rec : BitVec 256) (s : State) : State × Nat :=
  if (s.part p).run ≠ .stopped ∨ !s.defined p then (s, stState)
  else
    let s1 := s.substituteBand p
    let k := s1.cfg (0x2100 + p) 5
    match (s1.slotOf k).image with
    | none => (s, stState)
    | some img =>
      match admitStatus s1 p img with
      | some st => (s.verifySlot k (some p), st)
      | none => ((s1.verifySlot k (some p)).startPartition p img [] rec false, stOk)

/-- The controller's work on an accepted resume (R175, R179), in the mode now configured (R159): the stores and the scratchpads stay, and so do the barrier latency measured
at the launch (R124) and the channels' status words. -/
def State.startResume (s : State) (p : Nat) (point : ResumePoint) (rec : BitVec 256) : State :=
  let pt := s.part p
  match pt.image with
  | none => s
  | some img =>
    let s1 := (s.setPart p { pt with
        run := .starting, slip := 0, barriers := [], elastic := decide (s.cfg (0x2100 + p) 4 = 1), demoted := false }).setCtl p
      { s.ctlOf p with launchRecord := rec, launchStatus := stOk }
    let s2 := (bandCores s1 p).foldl (fun (u : State) c =>
      let k := u.core c
      u.setCore c { freshCore k with
        wait := if k.wait = .halted then .halted else .idle
        chans := k.chans.foldl (fun m e => tput {} m e.1 { status := e.2.status }) [] }) (s1.applyPending p)
    let s3 := (s2.loadBandTaps p img pt.variants).startClocks p img
    let keep := fun (f : IssuedFetch) =>
      match img.plan[f.number]? with
      | some r => decide (instTime pt (img.tide.getD (planEntry r) 0) f.step f.inner f.outer ≤ point.cursor)
      | none => false
    (((s3.freshQuays p keep).weighLaunch p).refence p).bump

/-- Kind 2: RESUME. -/
def doResume (p : Nat) (rec : BitVec 256) (s : State) : State × Nat :=
  let pt := s.part p
  if pt.run ≠ .stopped then (s, stState)
  else
    match pt.resume, pt.image, (s.slotOf (s.cfg (0x2100 + p) 5)).image with
    | some point, some img, some slot =>
      if (s.ctlOf p).reloaded || decide (img.digest ≠ slot.digest) then (s, stState)
      else if 1497 < offsetOf point.time then (s, stRange)
      else
        let k := s.cfg (0x2100 + p) 5
        let s1 := s.applyPending p
        match admitStatus s1 p slot with
        | some st => (s.verifySlot k (some p), st)
        | none => ((s1.verifySlot k (some p)).startResume p point rec, stOk)
    | _, _, _ => (s, stState)

/-- Kind 3: CANCEL, while STARTING and at least 500 ticks remain. -/
def doCancel (p : Nat) (s : State) : State × Nat :=
  let pt := s.part p
  if pt.run ≠ .starting then (s, stState)
  else if launchAt s p < s.now + 500 * cyPerTick then (s, stBusy)
  else (s.setPart p { pt with run := .stopped }, stOk)

/-- A write of the launch object `0x4110.01` + p; `.02` keeps its status. -/
def doLaunchWrite (p : Nat) (rec : BitVec 256) (s : State) : State × Nat :=
  let r := if !recordOk s rec then (s, stRange)
    else if lrKind rec = 1 then doLaunch p rec s
    else if lrKind rec = 2 then doResume p rec s
    else doCancel p s
  (r.1.setCtl p { r.1.ctlOf p with launchStatus := r.2 }, r.2)

/-- LAUNCH. -/
def execLaunch (cl : Client) (p : Nat) (rec : BitVec 256) (s : State) : Out :=
  onPart p (s.command cl false (doLaunchWrite p (withKind 1 rec)))

/-- RESUME. -/
def execResume (cl : Client) (p : Nat) (rec : BitVec 256) (s : State) : Out :=
  onPart p (s.command cl false (doLaunchWrite p (withKind 2 rec)))

/-- CANCEL. -/
def execCancel (cl : Client) (p : Nat) (rec : BitVec 256) (s : State) : Out :=
  onPart p (s.command cl false (doLaunchWrite p (withKind 3 rec)))

/-! ### The launch mark (R175, R179) -/

/-- A core begins: it runs from a bundle two cycles after the mark, its generators seeded from the mark (R25, R89). -/
def State.beginCore (s : State) (c bp : Nat) (ix : Tbl (BitVec 12)) (seed : Nat) : State :=
  let k := s.core c
  (s.setCore c { k with
    wait := if k.wait = .halted then .halted else .running, bp := bp, ix := ix, nextIssue := s.now + 2, cursor := s.now
    genSeed := some seed, genStart := s.now, genPaused := 0 }).setHeal c
    { s.heal c with heartbeat := true, toggled := tickOf s.now }

/-- The partition seed (R90). -/
def partSeed (s : State) (p : Nat) : Nat := s.cfg (0x2100 + p) 8

/-- Whether the launch in force was written by recovery. -/
def byRecovery (s : State) (p : Nat) : Bool :=
  let r := (s.ctlOf p).recovery
  decide (r.state = 3 ∧ r.relaunch = launchAt s p)

/-- A partition at its launch mark, before anything happens. -/
def State.atLaunch (s : State) (p : Nat) : State :=
  s.setPart p { s.part p with run := .running, cursor := s.now - 1 }

/-- What fires at the launch mark. -/
def launchFiring (s : State) (p : Nat) : Firing :=
  { time := s.now, step := 0, insts := instsAt (nextOfAll ((s.atLaunch p).part p)) s.now }

/-- The causes that stop a partition at its launch mark. -/
def launchCauses (s : State) (p : Nat) : List PFault :=
  let s1 := s.atLaunch p
  causesAt (s1.setPart p { s1.part p with elastic := true }) p (launchFiring s p) ++
    (match modeStep s1 p s.now with | .refuse b => [PFault.strictRefused b] | _ => [])

/-- A relaunch by recovery: the first step's report lists the path (R18, R19). -/
def State.listRecovery (s : State) (p : Nat) : State :=
  if byRecovery s p then s.decided p jRecovery p (s.ctlOf p).recovery.path (s.ctlOf p).recovery.path else s

/-- The launch mark L:0: every core issues its entry bundle at L:2, and the instances at L:0 fire with it; they may be the run's last (R164). -/
def State.launchNow (s : State) (p : Nat) : State :=
  let s1 := s.atLaunch p
  let f := launchFiring s p
  if !(launchCauses s p).isEmpty then s1.partitionFault p f (launchCauses s p)
  else
    let s2 := ((((s1.listRecovery p).changeMode p (modeStep s1 p s.now)).launchFormats p (byRecovery s1 p)).stepStart p 0).fireEffects p f
    let s3 := s2.finishRun p (!f.insts.isEmpty && finalFiring s1 p f)
    (s3.enabledCores p).foldl (fun (u : State) c => u.beginCore c (u.core c).entry [] (partSeed s p)) s3

/-- The resume mark R:c: the saved cores go on at R:(c + 2), and every later instance has moved by R - Q. -/
def State.resumeNow (s : State) (p : Nat) (point : ResumePoint) : State :=
  let pt := s.part p
  let shift := lrTick (s.ctlOf p).launchRecord - tickOf point.time
  let s1 := s.setPart p { pt with
    run := .running, delta := pt.delta + shift, cursor := point.cursor + shift * cyPerTick, variant := point.variant
    resume := none }
  let f : Firing := { time := s.now, step := point.step, insts := [] }
  let causes := (s1.ctlOf p).faults
  if !causes.isEmpty then s1.partitionFault p f causes
  else ((point.cores.filter (fun e => decide (e.1 ∈ s1.enabledCores p))).foldl (fun (u : State) e =>
    u.beginCore e.1 e.2.1 e.2.2 (partSeed s p)) s1).notePairs p |>.governLeads p 0

/-- LAUNCH_MARK: the launch or resume mark of a STARTING partition. -/
def execLaunchMark (p : Nat) (s : State) : Out :=
  onPart p (
    let pt := s.part p
    if pt.run ≠ .starting then s
    else
      let at' := launchAt s p
      match (if lrKind (s.ctlOf p).launchRecord = 2 then pt.resume else none) with
      | some point => ((s.advance (at' + offsetOf point.time)).journalDone jLaunch p).resumeNow p point
      | none => ((s.advance at').journalDone jLaunch p).launchNow p)

end Sys2Proof.Machine
end

