-- ==== Sys2Proof/Machine/Recovery.lean ====
section
/-! DEFINITION. Recovery of a faulted partition: the decision, its three paths, relaunch in place, group relaunches, RESET and
RECOVER (R353, R357-R367). -/

namespace Sys2Proof.Machine

/-! ### The recovery record (R357) -/

/-- The record of a partition's image, none where it carries none. -/
def recoveryRec (s : State) (p : Nat) : Option (BitVec 128) := match (s.part p).image with | some i => i.recovery | none => none

/-- Minimum relaunch lead in ticks. -/
def minLead (s : State) (p : Nat) : Nat := match recoveryRec s p with | some r => bits r 31 0 | none => 250000
/-- Degraded step period, 0 none. -/
def degradedPeriod (s : State) (p : Nat) : Nat := match recoveryRec s p with | some r => bits r 63 32 | none => 0
/-- Fallback slot, 0xFF none. -/
def fallbackSlot (s : State) (p : Nat) : Nat := match recoveryRec s p with | some r => bits r 71 64 | none => 0xFF
/-- Group action: 0 GROUP, 1 LEAVE. -/
def groupAction (s : State) (p : Nat) : Nat := match recoveryRec s p with | some r => bits r 79 72 | none => 0
/-- Relaunches in place allowed per 64 steps. -/
def inPlaceLimit (s : State) (p : Nat) : Nat := match recoveryRec s p with | some r => bits r 87 80 | none => 3

/-! ### What a cause asks for (R358) -/

/-- The kind of recovery that a first cause selects. -/
inductive Remedy where | sites | replace | inPlace | whenLocked | whenStrict | afterBoundary (key : Nat) | imageFault
deriving DecidableEq, Repr

/-- A second POISON from one core within 64 steps. -/
def poisonAgain (ct : PartControl) (c step : Nat) : Bool :=
  decide (2 ≤ (ct.poisons.filter (fun e => decide (e.1 = c ∧ e.2 ≤ step ∧ step < e.2 + 64))).length)

/-- The remedy of a first cause. -/
def remedyOf (ct : PartControl) (step : Nat) : PFault → Remedy
  | .coreDead _ => .sites
  | .routerDead _ _ => .sites
  | .tileShed _ => .replace
  | .boundaryPhase a b _ => .afterBoundary (boundaryKey a b)
  | .tideFree => .whenLocked
  | .poison c => if poisonAgain ct c step then .sites else .inPlace
  | .overrun _ _ _ => .inPlace
  | .multicastStall _ _ => .inPlace
  | .schedule _ cause => if cause = .istoreEcc then .inPlace else if cause = .poison then .inPlace else .imageFault
  | .stashOverflow _ => .inPlace
  | .logitsLate _ => .inPlace
  | .strictRefused _ => .whenStrict
  | .controllerLost => .inPlace

/-! ### Paths (R359) -/

/-- Router site of a failed unit. -/
def unitSite (s : State) (u : Nat) : Nat := if u / 2 ^ 24 = 1 then coreSite s (u % 2 ^ 24) else u % 2 ^ 24

/-- Every failed unit: those of the record and the sites in the band that stopped forwarding since (R367). -/
def failedUnits (s : State) (p : Nat) : List Nat :=
  let r := (s.ctlOf p).recovery
  let own := r.units.map (fun e => e.1)
  let poison := match r.cause with
    | some (.poison c) => if poisonAgain (s.ctlOf p) c r.step then [2 ^ 24 + c] else []
    | _ => []
  let routers := (s.routersDown.filter (fun k => s.bandHas p (siteTile k % 8) && siteInUse s k)).map (fun k => 2 * 2 ^ 24 + k)
  (poison ++ routers).foldl (fun l u => addOnce l u) own

/-- Path 1: the column has no shift in its tile, none was made in operation since verification, and no other failed site of it takes one,
in whichever tile (R130, R359). -/
def pathOne (s : State) (earlier : List Nat) (u : Nat) : Bool :=
  let site := unitSite s u
  let t := siteTile site
  let col := siteCol site
  decide (spareOf s t col = 0) && decide (operationShifts s (t % 8 * 24 + col) = 0)
    && !earlier.any (fun v => siteTile (unitSite s v) % 8 == t % 8 && siteCol (unitSite s v) == col)

/-- Two cores of one berth. -/
def sameBerth (a b : Nat) : Bool := coreX a / 4 == coreX b / 4 && coreY a / 4 == coreY b / 4

/-- The tide tables of every berth variant that a partition needs are identical. -/
def sameTides (img : Image) (hs : List Nat) : Bool :=
  match hs with
  | [] => true
  | h :: l => l.all (fun k => variantTide img (0x100 + k) == variantTide img (0x100 + h))

/-- Path 2: the site's router works, its berth has no other hole, and the image has the variant, a degraded period and one tide
table for all of them. -/
def pathTwo (s : State) (p : Nat) (img : Image) (earlier : List Nat) (u : Nat) : Bool :=
  let c := u % 2 ^ 24
  let h := holeOf c
  decide (u / 2 ^ 24 = 1) && !decide (coreSite s c ∈ s.routersDown)
    && !(bandHoles s p).any (fun d => d != c && sameBerth d c)
    && !earlier.any (fun v => decide (v / 2 ^ 24 = 1) && sameBerth (v % 2 ^ 24) c)
    && img.variants.any (fun e => e.2.variant == 0x100 + h)
    && decide (degradedPeriod s p ≠ 0) && sameTides img (addOnce (s.part p).variants h)

/-- The pin allows a path: 0 all, 1 spare substitution only, 2 none. -/
def pathAllowed (pin path : Nat) : Bool := decide (pin = 0) || (decide (pin = 1) && decide (path = 1))

/-- The path of each failed unit under a pin, in order: 3 where it qualifies for neither of the first two. -/
def pathsOf (s : State) (p : Nat) (img : Image) (pin : Nat) : List Nat → List Nat → List (Nat × Nat)
  | _, [] => []
  | earlier, u :: us =>
    let k := if pathAllowed pin 1 && pathOne s earlier u then 1
      else if pathAllowed pin 2 && pathTwo s p img earlier u then 2 else 3
    (u, k) :: pathsOf s p img pin (earlier ++ [u]) us

/-- A tile column of the band is shed or unusable (R367). -/
def bandLost (s : State) (p : Nat) : Bool :=
  (List.range 8).any (fun tx => s.bandHas p tx && ((shedMask s).testBit tx || decide (tx ∈ s.overlay.unusable)))

/-! ### Ends of a recovery -/

/-- NO_RECOVERY with a status (R358, R359); the record keeps the path that was or would have been taken. -/
def State.noRecovery (s : State) (p status path : Nat) (units : List (Nat × Nat)) : State :=
  let ct := s.ctlOf p
  ((s.setCtl p { ct with recovery := { ct.recovery with state := 4, status := status, path := path, units := units, relaunch := 0 } }).event
    sevFault evNoRecovery p status).journalDone jRecovery p

/-- The step start of a relaunch (R363): the smallest j whose tick lies at least the lead after a time, and as far ahead as a
launch record must name (R174). -/
def relaunchStep (s : State) (p base : Nat) : Nat :=
  let pt := s.part p
  let origin := (pt.launchTick + pt.delta) * cyPerTick
  let want := max (base + minLead s p * cyPerTick) (s.now + 1000 * cyPerTick)
  ceilDiv (want - origin) (max 1 pt.period * cyPerTick)

/-- Writes the relaunch record (R363): path k, the image, its variants, the lead counted from `base`; a refused write is
NO_RECOVERY with its status (R367). -/
def State.relaunch (s0 : State) (p k base : Nat) (units : List (Nat × Nat)) (img : Image) (vs : List Nat) : State :=
  let leaves := s0.tide.joined && decide (2 ≤ k ∧ groupAction s0 p = 1)
  let s := if leaves then s0.setPart p { s0.part p with leftGroup := true } else s0
  let pt := s.part p
  let j := relaunchStep s p base
  let tick := pt.launchTick + pt.delta + j * pt.period
  let rec' := launchRecord tick (if pt.steps = 0 then 0 else pt.steps - j) 1 (pt.n0 + j)
  let s1 := s.substituteBand p
  let refused := if pt.steps ≠ 0 ∧ pt.steps ≤ j then some stState else admitStatus s1 p img
  match refused with
  | some st => s.noRecovery p st k units
  | none =>
    let ct := s.ctlOf p
    let s2 := s1.setCtl p { ct with
      recovery := { ct.recovery with state := 3, path := k, status := stOk, units := units, relaunch := tick * cyPerTick }
      relaunches := if k = 0 then ct.relaunches ++ [ct.recovery.step] else ct.relaunches }
    (((s2.verifySlot (s.cfg (0x2100 + p) 5) (some p)).startPartition p img vs rec' true).event sevInfo evRelaunch p k).journalDone jRecovery p

/-! ### Paths carried out (R360-R362) -/

/-- The first tide mark of a halted partition after a decision: a substitution decided later than the fault instance takes effect there
(R130, R360). -/
def State.haltedMark (s : State) (p : Nat) : State :=
  if s.now = (s.ctlOf p).recovery.fault then s
  else
    match nextFiring { s.part p with cursor := s.now - 1 } with
    | some f => s.advance f.time
    | none => s

/-- Path 1 of a failed unit. -/
def State.takeSpare (s : State) (p u : Nat) : State :=
  let site := unitSite s u
  let r := s.shiftColumn site 3 3 2
  ({ r.1 with routersDown := r.1.routersDown.filter (· != site) }).event sevAbsorbed evSpareSubstituted site p

/-- Path 2 of a failed core: its fence and a berth reset. -/
def State.takeBerth (s : State) (u : Nat) : State :=
  let c := u % 2 ^ 24
  let s1 := (s.addFence 1 3 0 c).1
  s1.coresReset (berthCores s1 c)

/-- The placement of path 3: the lowest first column that the image's header allows, within the band and unallocated columns,
none of them shed or unusable. -/
def placements (s : State) (p : Nat) (img : Image) : List Nat :=
  let w := img.header.width
  (List.range 8).filter (fun x => decide (x + w ≤ 8) && img.header.firstColumns.testBit x
    && (List.range w).all (fun i =>
      (match s.partOfColumn (x + i) with | some q => q == p | none => true)
        && !(shedMask s).testBit (x + i) && !decide (x + i ∈ s.overlay.unusable)))

/-- The module with partition p re-placed. -/
def State.replaced (s : State) (p x w slot : Nat) : State :=
  let key := 0x2100 + p
  s.newConfig (tset (tset (tset s.sivar.config (okey key 2) (leBytes 1 x)) (okey key 3) (leBytes 1 w)) (okey key 5) (leBytes 1 slot))

/-- Hole positions of a band. -/
def holesIn (s : State) (p : Nat) : List Nat := ((bandHoles s p).map holeOf).eraseDups

/-- The first placement whose image verifies and can launch. -/
def State.findPlace (s : State) (p slot : Nat) (img : Image) : List Nat → Option State
  | [] => none
  | x :: xs =>
    let t := s.replaced p x img.header.width slot
    if (admitStatus t p img).isNone && sameTides img (holesIn t p) then some t else s.findPlace p slot img xs

/-- Path 3 (R362). -/
def State.replacePart (s : State) (p base : Nat) (units : List (Nat × Nat)) : State :=
  let slot := fallbackSlot s p
  match (if slot < 8 then (s.slotOf slot).image else none) with
  | none => s.noRecovery p stNospare 3 units
  | some img =>
    match s.findPlace p slot img (placements s p img) with
    | none => s.noRecovery p stNospare 3 units
    | some t =>
      let ct := t.ctlOf p
      let t1 := t.setCtl p { ct with
        placementNoted := false
        recovery := { ct.recovery with
          prevColumn := s.firstCol p, prevWidth := s.widthOf p, prevSlot := s.cfg (0x2100 + p) 5 } }
      let t2 := t1.relaunch p 3 base (units.map (fun u => (u.1, 3))) img (holesIn t1 p)
      if (t2.part p).run = .starting then t2.event sevDegraded evReplaced p (256 * t2.firstCol p + t2.widthOf p) else t2

/-! ### Group relaunches (R364) -/

/-- The group follows a partition whose step period changed: the root announces it and halts its own partitions of the group. -/
def State.groupFollows (s : State) (p k : Nat) : State :=
  let pt := s.part p
  match groupOf s p with
  | none => s
  | some g =>
    if !s.tide.joined || decide (groupAction s p ≠ 0) || decide (pt.run ≠ .starting) then s
    else
      let note : GroupRelaunch := { group := g, path := k, tick := pt.launchTick, holes := pt.variants }
      let s1 : State := if s.tide.isRoot then { s with tide := { s.tide with relaunches := s.tide.relaunches ++ [note] } } else s
      (groupParts s1 p).foldl (fun (u : State) q =>
        if q ≠ p ∧ (u.part q).marks then u.setCtl q { u.ctlOf q with groupHalt := some note } else u) s1

/-- A halted member of a group relaunches with the announced tick: the variant's tide table with its base segments, or the
fallback slot; where it has no such slot the relaunch is refused with E_STATE and it stays halted. -/
def State.groupRelaunch (s : State) (p : Nat) (g : GroupRelaunch) : State :=
  let pt := s.part p
  let slot := if g.path = 3 then fallbackSlot s p else s.cfg (0x2100 + p) 5
  let j := (g.tick - (pt.launchTick + pt.delta)) / max 1 pt.period
  let ct := s.ctlOf p
  let s0 := s.setCtl p { ct with groupHalt := none }
  let refuse := fun (st : Nat) => (s0.setCtl p { s0.ctlOf p with launchStatus := st }).event sevFault evNoRecovery p st
  match (if slot < 8 then (s.slotOf slot).image else none) with
  | none => refuse stState
  | some img =>
    let rec' := launchRecord g.tick (if pt.steps = 0 then 0 else pt.steps - j) 1 (pt.n0 + j)
    let vs := if g.path = 2 then g.holes else []
    let place := if g.path = 3 then s0.findPlace p slot img (placements s0 p img) else some s0
    match place with
    | none => refuse stNospare
    | some t0 =>
      let t := t0.substituteBand p
      match (if !recordOk t rec' then some stRange else admitStatus t p img) with
      | some st => refuse st
      | none =>
        let ct1 := t.ctlOf p
        let t1 := t.setCtl p { ct1 with recovery := { ct1.recovery with state := 3, path := g.path, status := stOk, relaunch := g.tick * cyPerTick } }
        ((t1.verifySlot slot (some p)).startPartition p img vs rec' true).event sevInfo evRelaunch p g.path

/-! ### The decision (R358, R359) -/

/-- Relaunch in place: refused at the limit of relaunches per 64 steps, unless RECOVER asks for it. -/
def State.relaunchInPlace (s : State) (p base : Nat) (all : Bool) : State :=
  let ct := s.ctlOf p
  if !all && decide (inPlaceLimit s p ≤ recentRelaunches ct ct.recovery.step) then s.noRecovery p stOk 0 ct.recovery.units
  else
    match (s.slotOf (s.cfg (0x2100 + p) 5)).image with
    | none => s.noRecovery p stState 0 ct.recovery.units
    | some img => s.relaunch p 0 base ct.recovery.units img (s.part p).variants

/-- The paths of failed sites, carried out. `base` is the time that the lead counts from. -/
def State.recoverSites (s : State) (p base pin : Nat) : State :=
  match (s.slotOf (s.cfg (0x2100 + p) 5)).image with
  | none => s.noRecovery p stNospare 0xFF (s.ctlOf p).recovery.units
  | some img =>
    let us := failedUnits s p
    let plan := pathsOf s p img pin [] us
    let free := pathsOf s p img 0 [] us
    if bandLost s p || plan.any (fun e => e.2 == 3) then
      (if pathAllowed pin 3 then s.replacePart p base plan
      else s.noRecovery p stNospare ((free.map (fun e => e.2)).foldl max 0) free)
    else
      let ones := plan.filter (fun e => e.2 == 1)
      let s1 := ones.foldl (fun (t : State) e => t.takeSpare p e.1) (if ones.isEmpty then s else s.haltedMark p)
      let twos := plan.filter (fun e => e.2 == 2)
      let s2 := twos.foldl (fun (t : State) e => t.takeBerth e.1) s1
      let vs := twos.foldl (fun l e => addOnce l (holeOf (e.1 % 2 ^ 24))) (s.part p).variants
      let s3 := if twos.isEmpty then s2 else s2.event sevDegraded evBerthVariant p (vs.foldl (fun m h => m ||| 2 ^ h) 0)
      let k := if twos.isEmpty then 1 else 2
      let s4 := s3.relaunch p k base plan img vs
      if k = 2 then s4.groupFollows p 2 else s4

/-- A recovery waits for a condition (R358). -/
def State.recoveryWaits (s : State) (p : Nat) : State :=
  let ct := s.ctlOf p
  s.setCtl p { ct with recovery := { ct.recovery with state := 2 } }

/-- The condition of a waiting recovery: LOCKED again, or every check refused for STRICT passing again. -/
def recoveryReady (s : State) (p : Nat) : Bool :=
  match (s.ctlOf p).recovery.cause with
  | some .tideFree => decide (s.tide.lock = 2)
  | some (.strictRefused _) => decide (groupFailures s p = 0)
  | _ => true

/-- The decision for a partition in FAULT whose partition reset is complete; `all` is RECOVER's. -/
def State.decideRecovery (s : State) (p : Nat) (all : Bool) : State :=
  let ct := s.ctlOf p
  let r := ct.recovery
  if (s.part p).run ≠ .fault ∨ !resetDone s p ∨ s.mc.restarting then s
  else if r.stopping then
    (s.setPart p { s.part p with run := .stopped }).setCtl p { ct with recovery := { r with state := 0 } }
  else
    match r.cause with
    | none => s
    | some c =>
      let pin := if all then 0 else s.cfg 0x3100 1
      let s1 := s.journal jRecovery p r.fault
      let sites := fun (t : State) =>
        let u := t.recoverSites p r.fault pin
        if (u.ctlOf p).recovery.path = 3 then u.groupFollows p 3 else u
      if bandLost s p then sites s1
      else
        match remedyOf ct r.step c with
        | .sites => sites s1
        | .replace => if pathAllowed pin 3 then (s1.replacePart p r.fault r.units).groupFollows p 3 else s1.noRecovery p stNospare 3 r.units
        | .inPlace => s1.relaunchInPlace p r.fault all
        | .whenLocked => if recoveryReady s p then s1.relaunchInPlace p s.now all else s1.recoveryWaits p
        | .whenStrict => if recoveryReady s p then s1.relaunchInPlace p s.now all else s1.recoveryWaits p
        | .afterBoundary key => if (tfind s.boundaries key).isSome then s else s1.relaunchInPlace p r.fault all
        | .imageFault => if all then s1.relaunchInPlace p r.fault all else s1.noRecovery p stOk 0xFF r.units

/-- A further failure before the relaunch tick (R367): the launch is taken back and the partition is in FAULT again. -/
def State.takeBack (s : State) (p : Nat) : State :=
  let ct := s.ctlOf p
  let new := ct.faults.filterMap PFault.unit
  (s.cancelLaunch p).setCtl p { (s.cancelLaunch p).ctlOf p with
    faults := []
    recovery := { ((s.cancelLaunch p).ctlOf p).recovery with units := ct.recovery.units ++ new.map (fun u => (u, 0xFF)) } }

/-- RECOVERY_DECISION: for a partition in FAULT that is deciding; for one whose relaunch is pending when a further failure comes;
for a halted member of a relaunched group. -/
def execRecoveryDecision (p : Nat) (s : State) : Out :=
  onPart p (
    let ct := s.ctlOf p
    match (s.part p).run with
    | .fault => if ct.recovery.state = 1 then s.decideRecovery p ct.recovery.allPaths else s
    | .starting =>
      if byRecovery s p && !(ct.faults.filterMap PFault.unit).isEmpty && decide (s.now + 500 * cyPerTick ≤ launchAt s p) then
        (s.takeBack p).decideRecovery p ct.recovery.allPaths
      else s
    | .stopped => match ct.groupHalt with | some g => s.groupRelaunch p g | none => s
    | _ => s)

/-- RECOVERY_WAIT_END: the lock or the checks have come back; the lead counts from now. -/
def execRecoveryWaitEnd (p : Nat) (s : State) : Out :=
  onPart p (
    let ct := s.ctlOf p
    if (s.part p).run ≠ .fault ∨ ct.recovery.state ≠ 2 ∨ !recoveryReady s p ∨ !resetDone s p ∨ s.mc.restarting then s
    else s.relaunchInPlace p s.now ct.recovery.allPaths)

/-! ### Commands (R353) -/

/-- RESET: FAULT to STOPPED; a recovery not yet launched is CANCELLED. -/
def doReset (p : Nat) (s : State) : State × Nat :=
  let pt := s.part p
  if pt.run ≠ .fault then (s, stState)
  else
    let ct := s.ctlOf p
    let r := ct.recovery
    (((s.setPart p { pt with run := .stopped }).setCtl p
      { ct with recovery := { r with state := if r.state = 1 ∨ r.state = 2 then 5 else r.state } }).journalDone jRecovery p, stOk)

/-- RESET of `0x210p.0F`. -/
def execReset (cl : Client) (p : Nat) (s : State) : Out := onPart p (s.command cl false (doReset p))

/-- RECOVER: recovery with every path, whatever the pin; decided at once where the partition reset is complete. -/
def doRecover (p : Nat) (s : State) : State × Nat :=
  if (s.part p).run ≠ .fault then (s, stState)
  else
    let ct := s.ctlOf p
    ((s.setCtl p { ct with recovery := { ct.recovery with state := 1, allPaths := true } }).decideRecovery p true, stOk)

/-- RECOVER of `0x210p.0F`. -/
def execRecover (cl : Client) (p : Nat) (s : State) : Out := onPart p (s.command cl false (doRecover p))

end Sys2Proof.Machine
end

