-- ==== Sys2Proof/Machine/TideDomain.lean ====
section
/-! DEFINITION. The tide function, markers, upstreams, the root and its standby, stretch, timed links, and the real-time clock
(R180-R187, R389, R446). -/

namespace Sys2Proof.Machine

/-! ### The tide function (R389) -/

/-- STOP: only while every partition is STOPPED. -/
def doTideStop (s : State) : State × Nat :=
  if (partsWhere (fun p => (s.part p).busy)) != [] then (s, stBusy)
  else ({ s with tide := { s.tide with run := .stopped, joined := false, isRoot := false, lock := 0, sent := [] } }, stOk)

/-- TIDE_STOP. -/
def execTideStop (cl : Client) (s : State) : Out := .next (s.command cl false doTideStop)

/-- The domain ID. -/
def domainId (s : State) : Nat := s.cfg 0x4000 2

/-- This module is the root that its configuration names. -/
def namedRoot (s : State) : Bool := decide (s.cfg 0x4000 3 = s.moduleNumber)

/-- START: a domain of one runs at once, free; any other acquires. -/
def doTideStart (s : State) : State × Nat :=
  if s.tide.run ≠ .stopped ∨ (s.bring.active ∧ s.bring.stage = 8) then (s, stState)
  else if domainId s = 0 then
    ({ s with tide := { s.tide with run := .running, lock := 0, joined := false, isRoot := false, startedAt := s.now } }, stOk)
  else
    ({ s with tide := { s.tide with
        run := .starting, lock := 1, startedAt := s.now, joined := namedRoot s, isRoot := namedRoot s, skewBad := 0
        root := s.cfg 0x4000 3 } }, stOk)

/-- TIDE_START. -/
def execTideStart (cl : Client) (s : State) : Out := .next (s.command cl false doTideStart)

/-- TIDE_LOCK: RUNNING when LOCKED, or after 10 s in FREE or HOLDOVER with an event. The root of a domain is its own reference. -/
def execTideLock (s : State) : Out :=
  .next (
    if s.tide.run ≠ .starting then s
    else if s.tide.isRoot || decide (s.tide.lock = 2) then { s with tide := { s.tide with run := .running, lock := 2 } }
    else
      let s1 := s.advance (s.tide.startedAt + 10000000 * cyPerTick)
      let lock := if s1.tide.lock = 3 then 3 else 0
      { s1 with tide := { s1.tide with run := .running, lock := lock } }.event sevDegraded evTideState s.moduleNumber lock)

/-- DOMAIN_JOIN: the module adopts the root's tide time, which may step its own; refused with E_BUSY while a partition is not
STOPPED, and with E_VERSION where the members' vector function revision differs (R92, R187). -/
def execDomainJoin (domain root revision tick : Nat) (s : State) : Out :=
  .next (
    if s.tide.run = .stopped ∨ s.tide.joined ∨ domain ≠ domainId s ∨ domain = 0 ∨ root ≠ s.cfg 0x4000 3 then s
    else if (partsWhere (fun p => (s.part p).busy)) != [] then s.answer stBusy
    else if revision ≠ s.ident.vectorRevision then s.answer stVersion
    else
      let t := tick * cyPerTick
      { s with
        now := t
        tide := { s.tide with joined := true, root := root, lock := 1, sent := [], lastMarker := t, lastAny := t, upstreamSecondary := false, skewBad := 0 } }.answer stOk)

/-! ### Stretch (R180, R181) -/

/-- This module decides for the domain: its root, or a domain of one. -/
def decidesTide (s : State) : Bool := !s.tide.joined || s.tide.isRoot

/-- The largest request of any member, as the members' reports that stand give them, its own included (R180). -/
def largestRequest (s : State) : Nat :=
  ((s.tide.reports.filter (reportFresh s)).map (fun r => r.request)).foldl max s.tide.ownRequest

/-- Journals a stretch change with the tick at which it starts (R18). -/
def State.journalStretch (s : State) (tick : Nat) : State := s.journal jThermal 0 (tick * cyPerTick)

/-- The root announces a change that starts 64 ticks ahead, once the last one is complete. -/
def State.announceStretch (s : State) : State :=
  let m := if s.tide.joined then largestRequest s else s.tide.ownRequest
  if !decidesTide s || decide (s.tide.stretch ≠ s.tide.target) || decide (m = s.tide.target) then s
  else
    let at' := tickOf s.now + 64
    let log := s.tide.changes ++ [(at', m)]
    State.journalStretch { s with tide := { s.tide with target := m, rampFrom := at', changes := log.drop (log.length - 64) } } at'

/-- As a ramp starts, the step report of every partition with marks lists its target beside what the thermal governor itself asks for,
a pin apart (R18, R20). -/
def State.listStretch (s : State) : State :=
  if s.mc.journal.any (fun e => decide (e.kind = jThermal ∧ e.unit = 0) && !e.done) then
    ((partsWhere (fun p => (s.part p).marks)).foldl (fun (u : State) p => u.decided p jThermal 0 s.tide.target s.thermal.request) s).journalDone
      jThermal 0
  else s

/-- STRETCH_RAMP_STEP: from the start tick on, each tick moves n one step toward the target. -/
def execStretchRampStep (s : State) : Out :=
  .next (
    if s.tide.stretch = s.tide.target then s
    else
      let s1 := (s.advance (s.tide.rampFrom * cyPerTick)).listStretch
      let n := if s.tide.stretch < s.tide.target then s.tide.stretch + 1 else s.tide.stretch - 1
      let s2 : State := { s1 with tide := { s1.tide with stretch := n, rampFrom := s1.tide.rampFrom + 1 } }
      if n = s.tide.target then s2.event (if n = 0 then sevInfo else sevDegraded) evStretch s.moduleNumber n else s2)

/-! ### Markers (R184) -/

/-- The trained fabric ports, held ones included (R351). -/
def markerPorts (s : State) : List Nat :=
  ((s.ports.map (fun e => e.1)).filter (fun i => decide (240 ≤ i ∧ i < 496))).filter (fun i => (s.port i).up || (s.port i).hold)

/-- The partitions of a group that may run. -/
def groupLive (s : State) (g : Nat) : List Nat := partsWhere (fun p => (s.part p).live && groupOf s p == some g)

/-- Partitions whose group a domain decides for. -/
def domainParts (s : State) : List Nat := partsWhere (fun p => (s.part p).live && (groupOf s p).isSome)

/-- The groups that other members report and no partition of this module runs: a root decides for them too (R162, R170, R185, R238). -/
def foreignGroups (s : State) : List Nat :=
  (((s.tide.reports.filter (reportFresh s)).flatMap (fun r => r.groups.map (fun e => e.group))).foldl addOnce []).filter
    (fun g => (groupLive s g).isEmpty)

/-- The stash words for a foreign group: of the members' wishes for each micro-batch the one behind the most segments, once every member has
measured it (R242, R243). -/
def foreignStash (s : State) (g : Nat) : List VariantNote :=
  let rs := (membersOf s g).filter (reportFresh s)
  let ws := rs.flatMap (fun r => r.wants.filter (fun e => e.2.2.2.group == g))
  let cases := (ws.map (fun e => (e.1, e.2.1))).eraseDups
  cases.filterMap (fun c =>
    let mine := ws.filter (fun e => decide ((e.1, e.2.1) = c))
    if rs.all (fun r => r.wants.any (fun e => e.2.2.2.group == g && decide ((e.1, e.2.1) = c))) then
      match mine with
      | [] => none
      | e :: es =>
        let n := (es.foldl (fun m x => if m.2.2.1 < x.2.2.1 then x else m) e).2.2.2
        if n.mask = 0 ∨ rs.any (fun r => (reportOn r g).any (fun q => decide (n.time ≤ q.passed))) then none else some n
    else none)

/-- The handoff decisions for a foreign group: HARD where a result is not VALID, or is missing 8 ticks before the branch instance; the bit
is cleared where every member's is VALID (R286, R287). -/
def foreignHandoffs (s : State) (g : Nat) : List VariantNote :=
  let rs := (membersOf s g).filter (reportFresh s)
  let ws := rs.flatMap (fun r => r.results.filter (fun e => e.2.2.2.group == g))
  let cases := (ws.map (fun e => (e.1, e.2.1, e.2.2.2))).eraseDups
  cases.filterMap (fun (c : Nat × Nat × VariantNote) =>
    let mine : List (Nat × Nat × Nat × VariantNote) := ws.filter (fun e => decide (e.1 = c.1 ∧ e.2.1 = c.2.1))
    let all := rs.all (fun r => r.results.any (fun e => e.2.2.2.group == g && decide (e.1 = c.1 ∧ e.2.1 = c.2.1)))
    if mine.any (fun e => e.2.2.1 != 0) || (!all && decide (c.2.2.time ≤ s.now + 8 * cyPerTick)) then
      some { c.2.2 with word := c.2.2.mask }
    else if all then some { c.2.2 with word := 0 }
    else none)

/-- The variant words that the root announces: its partitions' pending requests, a HARD bit under the late policy that faults included,
and those that it decides for foreign groups. -/
def variantNotes (s : State) : List VariantNote :=
  (((domainParts s).flatMap (fun p =>
    let pt := s.part p
    ((pt.latches ++ (s.ctlOf p).logitsLateAt.toList).filter (fun r => decide (r.mask ≠ 0))).map (fun r => ({
      group := (groupOf s p).getD 0, mask := r.mask, word := r.word
      time := instTime pt (tideEntry pt r.entry) r.step r.inner r.outer } : VariantNote))))
    ++ (foreignGroups s).flatMap (fun g => foreignStash s g ++ foreignHandoffs s g)).eraseDups

/-- The mode that a group's checks ask for: true ELASTIC, false back to STRICT, none no change (R162); back to STRICT only while no member
has a slip, so that one instance can promote them all. -/
def wantedMode (s : State) (p : Nat) : Option Bool :=
  let pt := s.part p
  let fails := groupFailures s p
  let permits := match pt.image with | some i => i.header.modes.testBit 2 | none => false
  if !pt.elastic && decide (fails ≠ 0) && permits then some true
  else if pt.demoted && decide (fails = 0) && decide (pt.slip = 0) && (groupPeers s p).all (fun e => decide (e.slip = 0)) then some false
  else none

/-- The same for a foreign group, as its members' reports give it. -/
def foreignMode (s : State) (g : Nat) : Option (Bool × Nat) :=
  let es := ((membersOf s g).filter (reportFresh s)).flatMap (fun r => reportOn r g)
  let at' := (es.map (fun e => e.start)).foldl max 0
  if es.any (fun e => !e.elastic && e.permits) && es.any (fun e => decide (e.fails ≠ 0)) then some (true, at')
  else if es.any (fun e => e.demoted) && es.all (fun e => decide (e.fails = 0 ∧ e.slip = 0)) then some (false, at')
  else none

/-- The first STEP_START instance of a partition after a time. -/
def stepStartAfter (pt : Partition) (after : Nat) : Nat :=
  let l := ((tideTable pt).filter tideStepStart).map (fun e =>
    let n := nextInst pt e after
    instTime pt e n.1 n.2.1 n.2.2)
  match l with
  | [] => after
  | t :: ts => ts.foldl min t

/-- The root sets the instance of a mode change: the group's first STEP_START instance at least 64 ticks ahead (log 80). -/
def State.announceModes (s0 : State) : State :=
  if !decidesTide s0 then s0
  else
    let kept := s0.tide.modeNotes.filter (fun e => decide (s0.now < e.2.2 + 64 * cyPerTick))
    let new := (foreignGroups s0).filterMap (fun g =>
      if kept.any (fun e => e.1 == g) then none else (foreignMode s0 g).map (fun m => (g, m.1, m.2)))
    let s : State := { s0 with tide := { s0.tide with modeNotes := kept ++ new } }
    (domainParts s).foldl (fun (u : State) p =>
      match (if (u.ctlOf p).modeNext.isSome then none else wantedMode u p) with
      | none => u
      | some e =>
        let t := stepStartAfter (u.part p) (u.now + 64 * cyPerTick - 1)
        (groupLive u (groupNumber u p)).foldl (fun (w : State) q => w.setCtl q { w.ctlOf q with modeNext := some (e, t) }) u) s

/-- The mode changes that the root announces. -/
def modeNotes (s : State) : List (Nat × Bool × Nat) :=
  ((domainParts s).filterMap (fun p => (s.ctlOf p).modeNext.map (fun e => (groupNumber s p, e.1, e.2)))).eraseDups ++ s.tide.modeNotes

/-- The formats that the root announces: group, layer, the step they are for, format and scale exponent. -/
def formatNotes (s : State) : List (Nat × Nat × Nat × Nat × Int) :=
  ((domainParts s).flatMap (fun p =>
    (s.gov p).layers.map (fun l => ((groupOf s p).getD 0, l.1, l.2.decidedFor, l.2.pendingFormat, l.2.pendingK)))).eraseDups
    ++ s.tide.groupFormats.map (fun l => (l.1 / 4096, l.1 % 4096, l.2.decidedFor, l.2.pendingFormat, l.2.pendingK))

/-- One layer of a foreign group: the root decides over the members' statistics of a step once all have come, and on the steps before
when some are missing 64 ticks before the next STEP_START instance (R238). -/
def State.foreignFormat (s : State) (g layer : Nat) : State :=
  let rs := membersOf s g
  let step := ((rs.filter (reportFresh s)).flatMap (fun r => (reportOn r g).map (fun e => e.step))).foldl max 0
  let next := (rs.flatMap (fun r => (reportOn r g).map (fun e => e.next))).foldl max 0
  let key := 4096 * g + layer
  let l0 := tget {} s.tide.groupFormats key
  let force := (rs.flatMap (fun r => (reportOn r g).flatMap (fun e => (e.formats.filter (fun f => f.1 == layer)).map (fun f => f.2)))).head?
  let l : FormatState := { l0 with inForce := force.getD l0.inForce }
  let got := rs.map (fun r => memberStats r g step layer)
  let put := fun (m : FormatState) =>
    ({ s with tide := { s.tide with groupFormats := tput {} s.tide.groupFormats key m } } : State).journal jFormat key next
  if l.decidedFor = step + 1 then s
  else
    match got.filterMap id with
    | x :: xs => if got.all (fun o => o.isSome) then put (l.decide (xs.foldl joinStats x) (step + 1))
        else if s.now + 64 * cyPerTick < next then s else put l.decideLate
    | [] => s

/-- The formats of every foreign group that the root, or the standby root, decides (R185, R238). -/
def State.foreignFormats (s : State) : State :=
  if !(s.tide.isRoot || standsBy s) then s
  else
    (foreignGroups s).foldl (fun (u : State) g =>
      (((membersOf s g).flatMap (fun r => (r.stats.filter (fun e => e.1 == g)).map (fun e => e.2.2.1))).foldl addOnce []).foldl
        (fun (w : State) layer => w.foreignFormat g layer) u) s

/-- What this module reports of one of its partitions (R162, R185). -/
def groupReport (s : State) (p : Nat) : GroupReport :=
  let pt := s.part p
  { group := groupNumber s p
    fails := strictFailures s p
    elastic := pt.elastic
    demoted := pt.demoted
    permits := match pt.image with | some i => i.header.modes.testBit 2 | none => false
    slip := pt.slip
    passed := pt.cursor
    step := stepNumber s p
    next := nextStepStart pt
    start := stepStartAfter pt (s.now + 128 * cyPerTick - 1)
    formats := (s.gov p).layers.map (fun l => (l.1, l.2.inForce)) }

/-- This module's report to the root and the standby root (R185). -/
def ownReport (s : State) : MemberReport :=
  let ps := domainParts s
  { module := s.moduleNumber
    tick := tickOf s.now
    request := s.tide.ownRequest
    groups := ps.map (groupReport s)
    stats := ps.flatMap (fun p => (s.gov p).toRoot.map (fun e => (groupNumber s p, e.2.1, e.1, e.2.2)))
    segments := ps.flatMap (fun p => s.quays.flatMap (fun e =>
      (e.2.segments.filter (fun m => m.1 == p)).map (fun m => (groupNumber s p, m.2.1, m.2.2.1, m.2.2.2))))
    wants := ps.flatMap (fun p => (s.quays.flatMap (fun e => e.2.segments.filter (fun m => m.1 == p))).filterMap (fun m =>
      (stashNote s p (m.2.1 - (s.part p).n0) m.2.2.1 m.2.2.2).map (fun n => (m.2.1, m.2.2.1, m.2.2.2, n))))
    results := ps.flatMap (fun p =>
      let x := s.pair p
      let note : VariantNote := { group := groupNumber s p, mask := hardMask s p, word := hardMask s p, time := x.branchTime }
      if (pairBytes s p).isEmpty || x.checkTime.isNone || decide (x.branchTime < s.now) then []
      else [((s.part p).n0 + x.checkStep, x.checkOuter, x.ownResult, note)]) }

/-- The reports of a marker: this module's, and those of others that still stand. -/
def reportsNow (s : State) : List MemberReport := ownReport s :: s.tide.reports.filter (reportFresh s)

/-- Keeps the newest report of each other module. -/
def mergeReports (own : Nat) (kept : List MemberReport) (rs : List MemberReport) : List MemberReport :=
  rs.foldl (fun (l : List MemberReport) r =>
    if r.module = own ∨ l.any (fun x => x.module == r.module && decide (r.tick ≤ x.tick)) then l
    else l.filter (fun x => x.module != r.module) ++ [r]) kept

/-- The marker of the present tick: the root puts its decisions into it, another member what the last marker of its upstream brought, for
the hops after it (R170, R184). How the reports travel is the model's choice (log 80). -/
def markerNow (s : State) : Marker :=
  let root := decidesTide s
  { tick := tickOf s.now
    root := s.tide.root
    epoch := s.tide.epoch
    stretch := s.tide.changes.getLast?.map (fun c => (c.2, c.1))
    variants := if root then variantNotes s else (s.tide.heard.map (fun m => m.variants)).getD []
    modes := if root then modeNotes s else (s.tide.heard.map (fun m => m.modes)).getD []
    formats := if root then formatNotes s else (s.tide.heard.map (fun m => m.formats)).getD []
    relaunches := s.tide.relaunches
    reports := reportsNow s
    skewPs := 0 }

/-- The tick at which the next markers leave. -/
def markerTick (s : State) : Nat :=
  let t := ceilDiv s.now cyPerTick
  match s.tide.sent.head? with
  | some e => max t (e.2.tick + 1)
  | none => t

/-- TIDE_MARKER_SEND: at offset 0 of a tick; a STOPPED tide function sends none. -/
def execTideMarkerSend (s : State) : Out :=
  .next (
    let s1 := (((s.advance (markerTick s * cyPerTick)).announceStretch).announceModes).foreignFormats
    if s1.tide.run = .stopped then s1
    else
      let m := markerNow s1
      { s1 with tide := { s1.tide with
        sent := (markerPorts s1).map (fun i => (i, m))
        relaunches := s1.tide.relaunches.filter (fun g => decide (tickOf s1.now < g.tick)) } })

/-- The primary and the secondary upstream port. -/
def primaryUp (s : State) : Option Nat := let h := s.cfg 0x4000 8 / 65536 % 65536; if h = 0xFFFF then none else some (fabricPort (h / 32768) (h % 128))
def secondaryUp (s : State) : Option Nat := let h := s.cfg 0x4000 8 % 65536; if h = 0xFFFF then none else some (fabricPort (h / 32768) (h % 128))

/-- The upstream in use. -/
def upstreamNow (s : State) : Option Nat := if s.tide.upstreamSecondary then secondaryUp s else primaryUp s

/-- The instance of a partition at a time, as a request. -/
def requestAt (pt : Partition) (v : VariantNote) : Option VariantReq :=
  ((tideTable pt).zipIdx.filterMap (fun e =>
    let n := nextInst pt e.1 (v.time - 1)
    if instTime pt e.1 n.1 n.2.1 n.2.2 = v.time then
      some ({ mask := v.mask, word := v.word, entry := e.2, inner := n.2.1, outer := n.2.2, step := n.1 } : VariantReq) else none)).head?

/-- Marks a micro-batch's stash request as received (R185). -/
def State.hearStash (s : State) (p : Nat) (r : VariantReq) : State :=
  if r.mask &&& stashMask s p = 0 then s
  else s.setGov p { s.gov p with stashHeard := addOnce (s.gov p).stashHeard ((s.part p).n0 + r.step, r.outer) }

/-- An announced variant word reaches a partition for the first time: refused with E_TIMEOUT where its mark has passed (R170); a HARD bit
under the policy that faults is a pending fault (R287). -/
def State.takeVariant (s : State) (p : Nat) (v : VariantNote) : State :=
  let pt := s.part p
  if v.time ≤ max s.now pt.cursor then s.answer stTimeout
  else
    match requestAt pt v with
    | none => s
    | some r =>
      let s1 := (s.handoffAnnounced p v.mask v.word).hearStash p r
      let b := pairBytes s1 p
      let hard := !b.isEmpty && decide (v.mask &&& v.word &&& hardMask s1 p ≠ 0) && decide (pinFor s1 p 0x6300 1 = 1)
      if hard then s1.setCtl p { s1.ctlOf p with logitsLateAt := some { r with detail := some (s1.pair p).ownResult } }
      else if r ∈ (s1.part p).latches then s1
      else s1.setPart p { s1.part p with latches := (s1.part p).latches ++ [r] }

/-- Takes what the root announces. -/
def State.takeAnnouncements (s : State) (m : Marker) : State :=
  let s1 : State := match m.stretch with
    | some (target, at') =>
      if target = s.tide.target then s
      else
        let log := s.tide.changes ++ [(at', target)]
        State.journalStretch { s with tide := { s.tide with target := target, rampFrom := at', changes := log.drop (log.length - 64) } } at'
    | none => s
  let s2 := m.variants.foldl (fun (u : State) v =>
    if v ∈ u.tide.taken then u
    else
      let u1 : State := { u with tide := { u.tide with
        taken := u.tide.taken.filter (fun w => decide (u.now < w.time + 64 * cyPerTick)) ++ [v] } }
      (groupLive u1 v.group).foldl (fun (w : State) p => w.takeVariant p v) u1) s1
  let s3 := m.modes.foldl (fun (u : State) e =>
    (groupLive u e.1).foldl (fun (w : State) p =>
      if (w.part p).cursor < e.2.2 then w.setCtl p { w.ctlOf p with modeNext := some e.2 } else w) u) s2
  let s4 := m.formats.foldl (fun (u : State) e =>
    (groupLive u e.1).foldl (fun (w : State) p =>
      let g := w.gov p
      match tfind g.layers e.2.1 with
      | some l =>
        let l1 := { l with decidedFor := e.2.2.1, pendingFormat := e.2.2.2.1, pendingK := e.2.2.2.2 }
        w.setGov p { g with layers := tput {} g.layers e.2.1 l1 }
      | none => w) u) s3
  m.relaunches.foldl (fun (u : State) g =>
    let u1 : State := { u with tide := { u.tide with relaunches := addOnce u.tide.relaunches g } }
    (groupLive u1 g.group).foldl (fun (w : State) p =>
      if (w.part p).marks ∧ tickOf w.now < g.tick then w.setCtl p { w.ctlOf p with groupHalt := some g } else w) u1) s4

/-- 3 cy in ps at s = 1; a stretched cycle is longer by s (R181). -/
def skewLimit : Nat := 2000

/-- TIDE_MARKER_RECEIVE: every marker brings its sender's stretch request; the upstream's steers the reference and brings the
root's announcements; a higher epoch on either upstream is turned to, a lower one is not accepted; in HOLDOVER and FREE the member turns
to whichever upstream is there (R184, R185). -/
def execTideMarkerReceive (port : Nat) (m : Marker) (s : State) : Out :=
  onPort port (
    if s.tide.run = .stopped ∨ !s.tide.joined ∨ !((s.port port).up || (s.port port).hold) ∨ m.epoch < s.tide.epoch then s
    else
      let isUp := decide (primaryUp s = some port) || decide (secondaryUp s = some port)
      let newer := isUp && decide (s.tide.epoch < m.epoch)
      let s1 : State := { s with tide := { s.tide with
        reports := mergeReports s.moduleNumber s.tide.reports m.reports
        seen := if isUp then tset s.tide.seen port s.now else s.tide.seen
        lastAny := if isUp ∨ m.epoch = s.tide.epoch then s.now else s.tide.lastAny } }
      let s2 : State := if newer then
          { s1 with tide := { s1.tide with
            epoch := m.epoch, root := m.root, isRoot := false, upstreamSecondary := decide (primaryUp s ≠ some port) } }.event
              sevDegraded evTideState s.moduleNumber 0x10
        else if isUp && decide (s.tide.lock = 3 ∨ s.tide.lock = 0) then
          { s1 with tide := { s1.tide with upstreamSecondary := decide (primaryUp s ≠ some port) } }
        else s1
      if s2.tide.isRoot || decide (upstreamNow s2 ≠ some port) then s2
      else
        let bad := decide (skewLimit * (256 + s.tide.stretch) < m.skewPs.natAbs * 256)
        let lock := if bad then s2.tide.lock else if s2.tide.lock = 0 then 1 else 2
        let s3 : State := { s2 with tide := { s2.tide with
          lastMarker := s2.now, heard := some m, root := m.root, skewPs := m.skewPs, skewBad := if bad then s2.tide.skewBad + 1 else 0, lock := lock } }
        s3.takeAnnouncements m)

/-- The member is steered by markers and is no root. -/
def follows (s : State) : Bool := decide (s.tide.run ≠ .stopped) && s.tide.joined && !s.tide.isRoot

/-- An upstream port that is present at a time: trained, its markers not missing for two ticks (R184). -/
def upstreamPresent (s : State) (i at' : Nat) : Bool :=
  ((s.port i).up || (s.port i).hold) && decide (tickOf at' < tickOf (tget 0 s.tide.seen i) + 3)

/-- UPSTREAM_SWITCH: two missing markers; the other upstream at the next tick where it is present, else HOLDOVER. -/
def execUpstreamSwitch (s : State) : Out :=
  .next (
    if !follows s || decide (s.tide.lock = 0 ∨ s.tide.lock = 3) then s
    else
      let s1 := s.advance ((tickOf s.tide.lastMarker + 3) * cyPerTick)
      let other := if s.tide.upstreamSecondary then primaryUp s else secondaryUp s
      match other with
      | some i =>
        if upstreamPresent s i s1.now then
          { s1 with tide := { s1.tide with upstreamSecondary := !s.tide.upstreamSecondary, lastMarker := s1.now } }
        else { s1 with tide := { s1.tide with lock := 3, holdoverSince := s1.now } }.event sevDegraded evTideState s.moduleNumber 3
      | none => { s1 with tide := { s1.tide with lock := 3, holdoverSince := s1.now } }.event sevDegraded evTideState s.moduleNumber 3)

/-- A STRICT partition that holds a timed link. -/
def holdsTimed (s : State) (p : Nat) : Bool :=
  (s.part p).live && !(s.part p).elastic && (match (s.part p).image with | some i => !i.links.isEmpty | none => false)

/-- FREE_ENTRY: after 1,000 ticks of HOLDOVER or four markers beyond 3 cy. -/
def execFreeEntry (s : State) : Out :=
  .next (
    if !follows s || !(decide (s.tide.lock = 3) || decide (4 ≤ s.tide.skewBad)) || decide (s.tide.lock = 0) then s
    else
      let s1 := if 4 ≤ s.tide.skewBad then s else s.advance (s.tide.holdoverSince + 1000 * cyPerTick)
      let s2 : State := { s1 with tide := { s1.tide with lock := 0, skewBad := 0 } }
      (s2.event sevDegraded evTideState s.moduleNumber 0).addFaults (partsWhere (holdsTimed s2)) .tideFree)

/-- ROOT_TAKEOVER: the standby root after four ticks without a marker of the current epoch, at the next tick boundary (R185). -/
def execRootTakeover (s : State) : Out :=
  .next (
    if !follows s || decide (s.cfg 0x4000 0x0D ≠ s.moduleNumber) then s
    else
      let s1 := s.advance ((tickOf s.tide.lastAny + 5) * cyPerTick)
      { s1 with tide := { s1.tide with epoch := (s1.tide.epoch + 1) % 65536, isRoot := true, root := s1.moduleNumber } }.event
        sevDegraded evTideState s.moduleNumber 0x10)

/-! ### Timed links (R186) -/

/-- TIMED_ROW_RELEASE: a row sent at tide time `sent` on a timed link is released at `sent` + D, or the receiver reports
LINK_LATE where it is not complete in the buffer by then. -/
def execTimedRowRelease (p port sent c srcModule srcCore : Nat) (tag : TransferTag) (row : Nat) (complete : Bool) (data : Row) (s : State) : Out :=
  onCore s c (
    let pt := s.part p
    if 8 ≤ p ∨ !pt.marks ∨ pt.elastic ∨ s.partOfCore c ≠ some p then s
    else
      match (match pt.image with | some i => i.links.find? (fun (e : Nat × Nat × Nat) => fabricPort e.1 e.2.1 == port) | none => none) with
      | none => s
      | some link =>
        let s1 := s.advance (sent + link.2.2)
        if complete then s1.rowArrives c (srcModule, srcCore, tag.ch, tag.tag) row data else s1.addFault p (.overrun 3 port false))

/-! ### The real-time clock (R182, R446) -/

/-- Clock units in a second. -/
def unitsPerSecond : Nat := 384000 * 1000000

/-- REFERENCE_TICK: the first tick that starts at or after the clock's next whole second. -/
def execReferenceTick (s : State) : Out :=
  .next (
    if !s.rtc.valid then { s with rtc := { s.rtc with refTick := 0, refUtc := 0, refSource := 0 } }
    else
      let next := (s.rtc.units / unitsPerSecond + 1) * unitsPerSecond
      let cy := ceilDiv (next - s.rtc.units) (256 + s.tide.stretch)
      let s1 := s.advance (ceilDiv (s.now + cy) cyPerTick * cyPerTick)
      { s1 with rtc := { s1.rtc with refTick := tickOf s1.now, refUtc := s1.utc, refSource := if s1.rtc.ptp then 2 else 1 } })

/-- PTP_SYNC: a grandmaster sets and disciplines the clock. -/
def execPtpSync (utc : Nat) (s : State) : Out :=
  .next { s with rtc := { s.rtc with valid := true, units := utc * 384000, ptp := true } }

/-- PTP_GRANDMASTER_LOST: the clock runs free from its last setting. -/
def execPtpGrandmasterLost (s : State) : Out := .next { s with rtc := { s.rtc with ptp := false } }

end Sys2Proof.Machine
end

