-- ==== Sys2Proof/Machine/Controller.lean ====
section
/-! DEFINITION. The controller itself: the ROM's check of a firmware image (R435-R437), its restarts, its journal, the copy of the
event log (R376, R377). -/

namespace Sys2Proof.Machine

/-! ### Firmware images (R435, R437) -/

/-- A well-formed header and directory (R435). -/
def firmwareFormed (i : FirmwareImage) : Bool :=
  decide (i.magic = 0x574D464E ∧ i.flags < 2 ∧ 1 ≤ i.sections ∧ i.sections ≤ 8 ∧ i.zero = 0 ∧ i.bodyLength ≤ 48 * 1048576)
    && decide (i.dirTypes.length = i.sections) && i.dirTypes.all (fun t => decide (1 ≤ t ∧ t ≤ 3)) && decide (1 ∈ i.dirTypes)
    && !i.dirOverlap

/-- The image carries a valid owner signature by a key of this hash (R437, R439). -/
def ownerSigned (i : FirmwareImage) (hash : BitVec 512) : Bool :=
  decide (i.flags % 2 = 1) && decide (Config.sha3 i.ownerKey = hash) && Config.mldsaVerify i.ownerKey i.headerHash i.ownerSig

/-- The checks of R437 in order: 0, or the detail of the first that fails. -/
def firmwareDetail (s : State) (i : FirmwareImage) : Nat :=
  if !firmwareFormed i then 5
  else if Config.sha3 i.vendorKey ≠ s.fw.vendorHash then 1
  else if i.bodyDigest ≠ i.bodyHash ∨ !Config.mldsaVerify i.vendorKey i.headerHash i.vendorSig then 2
  else if s.fw.ownerFused && !ownerSigned i s.fw.ownerHash then 3
  else if 64 < i.security ∨ i.security < s.fw.counter then 4
  else 0

/-- What the ROM finds at S0. -/
def romDetail (s : State) : Nat :=
  match s.fw.stored with
  | none => 5
  | some i => firmwareDetail s i

/-- The ROM starts the recovery loader: S0 has failed (R321, R437, R441). -/
def State.enterLoader (s : State) (detail : Nat) : State :=
  { s with
    mc := { s.mc with up := true, restarting := false }
    bring := { s.bring with active := true, stage := 0, stopped := true, loader := true } }.event sevFatal evStageStop 0 detail

/-! ### Restarts of the controller (R376, R440) -/

/-- Clears every mailbox and its records (R414). -/
def State.clearMails (s : State) : State :=
  { s with mail := [], mailMarks := [], ctl := s.ctl.map (fun e => (e.1, { e.2 with mailRecords := [] })) }

/-- The sessions close, staging and drafts go, and every running ticket ends with E_TIMEOUT unless its action was journalled
(R393, R401, R404, R405). -/
def State.dropClients (s : State) : State :=
  { s with sivar := { s.sivar with
      sessions := []
      staging := []
      draft := none
      offerUntil := none
      tickets := s.sivar.tickets.map (fun t =>
        if t.done || t.journalled then t else { t with done := true, status := stTimeout, finish := s.utc }) } }

/-- The processor restarts through the ROM; the wafer and the quays go on. -/
def State.restart (s : State) (expired : Bool) : State :=
  let s1 := s.dropClients.clearMails
  { s1 with mc := { s1.mc with restarting := true, expired := expired } }

/-- WATCHDOG_EXPIRY: each RUNNING partition faults at its next mark with CONTROLLER_LOST. -/
def execWatchdogExpiry (s : State) : Out :=
  .next (
    if !s.mc.up || s.mc.restarting then s
    else (s.restart true).addFaults (partsWhere (fun p => decide ((s.part p).run = .running))) .controllerLost)

/-- The entries buffered by the units follow in their order. -/
def State.drainBuffers (s : State) : State :=
  s.log.buffered.foldl (fun (t : State) e => t.append e) { s with log := { s.log with buffered := [] } }

/-- A journal entry not done whose effect still lies ahead is requested again (R376). -/
def replays (s : State) (e : JournalEntry) : Bool := !e.done && decide (s.now < e.effect)

/-- EVENT_LOG_COPY: every second. -/
def execEventLogCopy (s : State) : Out := .next (if s.mc.up then { s with log := { s.log with flash := s.log.entries } } else s)

end Sys2Proof.Machine
end

