-- ==== Sys2Proof/Machine/BringUp.lean ====
section
/-! DEFINITION. Bring-up: its forms, stages and reports, the saved results record, the manifest and reconciliation (R320-R334). -/

namespace Sys2Proof.Machine

/-! ### The manifest and the overlay as bytes (R327, R331) -/

/-- A manifest or overlay entry. -/
def Fence.toBytes (f : Fence) : List Byte := leBytes 1 f.cls ++ leBytes 1 f.origin ++ leBytes 2 f.flags ++ leBytes 4 f.unit ++ leBytes 8 f.utc

/-- A fused unit's entry. -/
def fuseEntry (cls unit : Nat) : Fence := { cls := cls, origin := 0, flags := 0, unit := unit, utc := 0, quaySerial := 0 }

/-- What the ordering code fuses off: tile-local columns 22 and 23, their breakwater units and the fabric ports of R5 in D codes, and
the fused stacks (R3-R6, R327). -/
def codeFuses (s : State) : List Fence :=
  (if s.isD then
    ((List.range 27648).filter (fun c => decide (22 ≤ c % 192 % 24))).map (fuseEntry 1)
      ++ ((List.range 192).filter (fun u => decide (u % 12 = 11))).map (fuseEntry 3)
      ++ ((List.range 640).filter (portFused s)).map (fuseEntry 4)
  else []) ++ s.ident.fusedStacks.map (fuseEntry 6)

/-- The manifest's entries. -/
def manifest (s : State) : List Fence := codeFuses s ++ s.overlay.fuses

/-- Digest of the manifest's entries. -/
def manifestDigest (s : State) : BitVec 512 := Config.sha3 ((manifest s).flatMap Fence.toBytes)

/-- Digest of the overlay's entries. -/
def overlayDigest (s : State) : BitVec 512 := Config.sha3 (s.overlay.entries.flatMap Fence.toBytes)

/-! ### The saved results record (R325, R326) -/

/-- 24 h in microseconds. -/
def dayUs : Nat := 86400000000

/-- Digest over what a start compares: manifest, quay fuse records and serial numbers, firmware (the one running, or the stored one that a
start will run), overlay. -/
def startInputs (s : State) : BitVec 512 :=
  Config.sha3 (leBytes 64 (manifestDigest s).toNat ++ s.ident.fusedStacks.map (fun k => BitVec.ofNat 8 k)
    ++ s.ident.quaySerials.flatMap (leBytes 8)
    ++ leBytes 64 (match s.fw.running.or s.fw.stored with | some i => i.mcDigest.toNat | none => 0)
    ++ leBytes 64 (overlayDigest s).toNat)

/-- The record's content as bytes (its layout is the model's: log 13). -/
def ResultsRecord.content (r : ResultsRecord) : List Byte :=
  leBytes 8 r.written ++ leBytes 64 r.inputs.toNat ++ r.pll.flatMap (leBytes 4) ++ r.minMv.flatMap (leBytes 4)
    ++ r.margins.flatMap (leBytes 4) ++ r.lanes.flatMap (fun e => leBytes 2 e.1 ++ leBytes 2 e.2)

/-- Writes the saved results record. -/
def State.writeResults (s : State) : State :=
  let r : ResultsRecord := {
    written := s.utc, digest := 0, inputs := startInputs s, pll := s.bring.pll, minMv := s.bring.minMv
    margins := s.bring.margins, lanes := s.ports.map (fun e => (e.1, e.2.map)) }
  { s with bring := { s.bring with results := some { r with digest := Config.sha3 r.content } } }

/-- The conditions of a fast start on the record (R325). -/
def resultsHold (s : State) : Bool :=
  match s.bring.results with
  | none => false
  | some r => decide (r.digest = Config.sha3 r.content) && s.rtc.valid && decide (s.utc < r.written + dayUs) && decide (r.inputs = startInputs s)

/-- A start is fast. -/
def fastAllowed (s : State) : Bool := decide (s.cfg 0x3000 3 = 0) && resultsHold s

/-! ### The start of a run (R320, R352) -/

/-- S4 results of the saved record that are 24 h old or older, or none. -/
def s4Old (s : State) : Bool := s.bring.results.isNone || !s.rtc.valid || decide (s.bring.s4At + dayUs ≤ s.utc)

/-- The stages of a run: a module reset, a deep-park exit, or all. -/
def stageList (form : Nat) (moduleReset s4 : Bool) : List Nat :=
  if moduleReset then [3, 4, 5, 6, 7, 8, 9]
  else if form = 2 then (if s4 then [3, 4, 5, 6, 7, 8, 9] else [3, 5, 6, 7, 8, 9])
  else [0, 1, 2, 3, 4, 5, 6, 7, 8, 9]

/-- A report of a stage that has not run, or that the form skips. -/
def blankReport (k result : Nat) : StageReport := { stage := k, result := result }

/-- The spare map as the fuses and the overlay give it. -/
def spareMap (s : State) : Tbl Nat :=
  let put := fun (m : Tbl Nat) (f : Fence) (v : Nat) => if f.cls = 2 then tset m (siteTile f.unit * 24 + siteCol f.unit) v else m
  s.overlay.fuses.foldl (fun m f => put m f 1)
    (s.overlay.entries.foldl (fun m f => put m f (if f.flags / 2 % 2 = 1 then 3 else 2)) [])

/-- The effect of every fence, put in force again. -/
def State.applyFences (s : State) : State :=
  (s.overlay.fuses ++ s.overlay.entries ++ s.overlay.startFences).foldl (fun (t : State) f => t.applyFence f.cls f.unit) s

/-- The wafer starts with nothing in it: a TRIPPED tile is normal again, other shed states stand (R345, R370). -/
def State.clearWafer (s : State) : State :=
  let s1 : State := { s with
    cores := [], health := [], pad := [], marks := [], gantries := [], boundaries := [], routersDown := [], intakes := [], net := []
    transit := [] }
  (s1.tiles.map (fun e => e.1)).foldl (fun (t : State) k =>
    let v := t.tile k
    t.setTile k { v with
      fastClock := false, pickUp := 0, parent := none, unreachable := false
      state := if v.state = .computeShed ∨ v.state = .darkShed then v.state else .normal }) s1

/-- The quays' engines, entries and update phases are reset (R350 step 5); versions that were to retire do so (R195). -/
def State.clearQuays (s : State) : State :=
  let s1 : State := { s with
    quays := s.quays.map (fun e => (e.1, { e.2 with
      entries := [], outgoing := [], issued := [], copying := [], copied := [], leaving := [], lateFrames := [], heldRows := [], segments := []
      seqs := [], sentSeq := [], credits := [] }))
    opt := { s.opt with
      runs := []
      engines := s.opt.engines.map (fun e => (e.1, { e.2 with queues := [], working := [], passDone := true })) }
    ledger := { s.ledger with
      exchange := [], proposed := [], dones := [], sentMsgs := []
      state := if s.ledger.membership.isSome ∧ 2 ≤ s.ledger.state ∧ s.ledger.state ≠ 6 then 4
               else if s.ledger.membership.isNone then 0 else s.ledger.state
      hm := if s.ledger.membership.isNone then none else s.ledger.hm } }
  (s1.tensors.map (fun e => e.1)).foldl (fun (t : State) tid => t.retireUnnamed tid) s1

/-- Every version that is not committed is discarded; with `dram`, a DRAM tensor holds no version (R333, R352, R417). -/
def State.dropVersions (s : State) (dram : Bool) : State :=
  { s with tensors := s.tensors.map (fun e => (e.1, { e.2 with
      versions := if dram && decide (recTier e.2.record = 0) then [] else e.2.versions.filter (fun v => v.committed)
      checkpointing := none })) }

/-- A run of bring-up begins. A start event discards volatile overlay entries, fences of the last start and the values of volatile
objects, and counts anew (R330, R337, R380, R384); a module reset does not. -/
def State.beginStages (s : State) (form : Nat) (moduleReset : Bool) : State :=
  let list := stageList form moduleReset (s4Old s)
  let first := list.headD 0
  let skipped := (List.range 9).filter (fun k => !(decide (k ∈ list)))
  let cold := if moduleReset then !resultsHold s else decide (form = 0)
  let s1 := s.clearWafer
  let o := s1.overlay
  let o1 : Overlay := if moduleReset then o
    else { o with entries := o.entries.filter (fun f => f.flags % 2 = 0), startFences := [] }
  let s2 : State := { s1 with overlay := { o1 with pending := [] } }
  let s3 : State := { s2 with
    overlay := if 4 ∈ list then { s2.overlay with spare := spareMap s2, unusable := [] } else s2.overlay
    power := { s2.power with state := .bringingUp, ready := false }
    ports := if moduleReset then s2.ports else s2.ports.map (fun e => (e.1, { e.2 with retrains := 0 }))
    log := if moduleReset then s2.log else { s2.log with overwritten := 0 }
    sivar := if moduleReset then s2.sivar else { s2.sivar with volatileVals := [] }
    bring := { s2.bring with
      active := true
      stage := first
      stopped := false
      loader := false
      form := if moduleReset then s2.bring.form else form
      coldS5 := cold
      moduleReset := moduleReset
      startAt := s2.now
      stageAt := s2.now
      reports := (List.range 10).map (fun k => (k, blankReport k (if k ∈ skipped then 3 else 0xFF)))
      recon := []
      noted := []
      absent := if moduleReset then s2.bring.absent else [] } }
  s3.applyFences

/-! ### Reconciliation (R329) -/

/-- A unit as events and reports name it: class and ID. -/
def unitWord (cls unit : Nat) : Nat := cls * 16777216 + unit % 16777216

/-- The fuses name a unit. -/
def fusedUnit (s : State) (cls unit : Nat) : Bool :=
  s.overlay.fuses.any (fun f => f.cls == cls && f.unit == unit) || (cls == 6 && decide (unit ∈ s.ident.fusedStacks))
    || (cls == 4 && portFused s unit) || (cls == 3 && !unitExists s unit)
    || (cls == 1 && decide (unit < 27648) && !coreExists s unit) || (cls == 2 && s.isD && decide (22 ≤ siteCol unit))

/-- A good unit that fails its test is fenced: at once in bring-up, or as the entries of R330 take effect during work. The flag says
whether an entry was added. A router site is a matter of sparing (R332). -/
def State.failUnit (s : State) (origin : Nat) (later : Bool) (cls unit : Nat) : State × Bool :=
  if !unitInRange s cls unit || fusedUnit s cls unit || unitOff s cls unit then (s, false)
  else if cls = 2 then
    let r := if later then s.shiftLater unit 2 origin 0 else s.shiftColumn unit 2 origin 0
    if r.2 = stNospare then (r.1, false) else (r.1.event sevDegraded evFenced (unitWord cls unit) origin, true)
  else
    let r := if later then s.addFenceLater cls origin 0 unit else s.addFence cls origin 0 unit
    (r.1.event sevDegraded evFenced (unitWord cls unit) origin, true)

/-- Every failing unit in order, with the number fenced. -/
def State.failUnits (s : State) (origin : Nat) (later : Bool) (units : List (Nat × Nat)) : State × Nat :=
  units.foldl (fun (a : State × Nat) u =>
    let r := a.1.failUnit origin later u.1 u.2
    (r.1, if r.2 then a.2 + 1 else a.2)) (s, 0)

/-- Passing units that are off: fused ones are counted; one that the overlay names stays fenced, with one INFO event a start. -/
def State.passUnits (s : State) (units : List (Nat × Nat)) : State × Nat :=
  units.foldl (fun (a : State × Nat) u =>
    if fusedUnit a.1 u.1 u.2 then (a.1, a.2 + 1)
    else
      match a.1.overlay.entries.find? (fun f => f.cls == u.1 && f.unit == u.2) with
      | none => a
      | some f =>
        if u ∈ a.1.bring.noted then a
        else (({ a.1 with bring := { a.1.bring with noted := a.1.bring.noted ++ [u] } }).event sevInfo evOverlayNote (unitWord u.1 u.2) f.origin, a.2))
    (s, 0)

/-- The cores of unreachable tiles could not be tested: they are fenced for this start by volatile entries, one event each (R329-R331). -/
def State.fenceUntested (s : State) : State × Nat :=
  let cs := (List.range 27648).filter (fun c =>
    (s.tile (coreTile c)).unreachable && coreExists s c && !fusedUnit s 1 c && !unitOff s 1 c)
  let add := fun (t : State) (c : Nat) =>
    ((t.addFence 1 5 1 c).1).event sevDegraded evFenced (unitWord 1 c) 5
  if (List.range 48).any (fun t => (s.tile t).unreachable) then (cs.foldl add s, cs.length) else (s, 0)

/-- Adds to the reconciliation report of a class: tested, fenced, fused found passing, untested. -/
def State.recon (s : State) (cls tested fenced passing untested : Nat) : State :=
  let old := tget [0, 0, 0, 0] s.bring.recon cls
  let v := [tested, old.getD 1 0 + fenced, old.getD 2 0 + passing, old.getD 3 0 + untested]
  { s with bring := { s.bring with recon := tset s.bring.recon cls v } }

/-- Units of a class that the module has. -/
def unitCount (s : State) (cls : Nat) : Nat :=
  match cls with
  | 1 => if s.isD then 25344 else 27648
  | 2 => if s.isD then 26400 else 28800
  | 3 => if s.isD then 176 else 192
  | 4 => if s.isD then 576 else 640
  | 5 => if s.isD then 5184 else 5760
  | 6 => 16 - s.ident.fusedStacks.length
  | 7 => 1024
  | _ => 256

/-- Reconciles a stage's tests of some classes: the new state, units fenced and fused units found passing. -/
def State.reconcile (s : State) (classes : List Nat) (failing passing : List (Nat × Nat)) (untested : Nat) : State × Nat × Nat :=
  let a := s.failUnits 1 false failing
  let b := a.1.passUnits passing
  let s1 := classes.foldl (fun (t : State) k =>
    let n := if k = 1 then untested else 0
    t.recon k (unitCount t k - n)
      ((failing.filter (fun u => u.1 == k && !fusedUnit s u.1 u.2 && !unitOff s u.1 u.2 && unitInRange s u.1 u.2)).length)
      ((passing.filter (fun u => u.1 == k && fusedUnit s u.1 u.2)).length) n) b.1
  (s1, a.2, b.2)

/-! ### The stages -/

/-- The stage after a stage in this run. -/
def stageAfter (s : State) (k : Nat) : Nat :=
  let list := stageList s.bring.form s.bring.moduleReset ((tget {} s.bring.reports 4).result != 3)
  (list.find? (fun j => decide (k < j))).getD 9

/-- What a stage's end says: result, detail, units tested, fenced, fused found passing, first failing unit. -/
structure StageEnd where
  result : Nat
  detail : Nat := 0
  tested : Nat := 0
  fenced : Nat := 0
  passing : Nat := 0
  first : Nat := 0xFFFFFFFF
deriving DecidableEq, Repr

/-- Milliseconds of a span of fast cycles. -/
def msOf (cy : Nat) : Nat := cy / 1500000

/-- The quays attach in S7 (R215, R320). -/
def State.attachQuays (s : State) : State := (List.range 4).foldl (fun (t : State) q => t.setQuay q { t.quay q with state := 1 }) s

/-- Writes a stage's report; a stopping stage leaves a FATAL event and the next one does not begin (R321-R323). -/
def State.closeStage (s : State) (k : Nat) (e : StageEnd) : State :=
  let r : StageReport := {
    stage := k, result := e.result, detail := e.detail, start := msOf (s.bring.stageAt - s.bring.startAt)
    duration := msOf (s.now - s.bring.stageAt), tested := e.tested, fenced := e.fenced, passing := e.passing, firstFailing := e.first }
  let b := { s.bring with reports := tset s.bring.reports k r }
  if e.result = 2 then ({ s with bring := { b with stopped := true } }).event sevFatal evStageStop k e.detail
  else
    let t : State := { s with bring := { b with stage := stageAfter s k, stageAt := s.now } }
    if stageAfter s k = 7 then t.attachQuays else t

/-- S0: the controller answers from its end; port 0 is primary when its link is up (R321, R412, R437). -/
def State.endS0 (s : State) (e : StageEnd) : State :=
  let d := if romDetail s ≠ 0 then romDetail s else if e.result = 2 then e.detail else 0
  let primary := if (s.host 0).up then 0 else 1
  let s1 : State := { s with mc := { s.mc with up := true, restarting := false }, sivar := { s.sivar with primary := primary } }
  if d ≠ 0 then
    ({ s1 with bring := { s1.bring with loader := true } }).closeStage 0 { e with result := 2, detail := d }
  else ({ s1 with fw := { s1.fw with running := s1.fw.stored } }).closeStage 0 { e with result := 0 }

/-- Stack entries of origin VARIANT, one for each quay of a -1152 module whose fuse record names no fused stack (R7). -/
def State.variantStacks (s : State) : State :=
  let serial := fun (q : Nat) => s.ident.quaySerials.getD q 0
  let kept := s.overlay.entries.filter (fun f => f.origin != 6 || f.quaySerial == serial (f.unit / 4))
  let s1 : State := { s with overlay := { s.overlay with entries := kept } }
  if s.ident.code % 2 = 0 then s1
  else (List.range 4).foldl (fun (t : State) q =>
    if t.ident.fusedStacks.any (fun k => k / 4 == q) || t.overlay.entries.any (fun f => f.origin == 6 && f.unit / 4 == q) then t
    else
      let r := (t.addFence 6 6 0 (4 * q + 3)).1
      { r with overlay := { r.overlay with entries := r.overlay.entries.map (fun f =>
          if f.origin = 6 ∧ f.unit = 4 * q + 3 then { f with quaySerial := serial q } else f) } }) s1

/-- S1: a quay whose record cannot be read (class 0) counts as absent. -/
def State.endS1 (s : State) (e : StageEnd) (failing : List (Nat × Nat)) : State :=
  if e.result = 2 then s.closeStage 1 e
  else
    let lost := (failing.filter (fun u => u.1 == 0)).map (fun u => u.2)
    ({ s with bring := { s.bring with absent := lost } }.variantStacks).closeStage 1 { e with result := if lost.isEmpty then 0 else 1 }

/-- A port at the end of a training in which these units fail: the lane rule over its good wavelengths, or DOWN. -/
def State.trainAtStart (s : State) (failing : List (Nat × Nat)) (i : Nat) : State :=
  if fusedPort s i then s.setPort i { s.port i with outcome := 5, lanes := 0, map := 0, calib := 0xFF, trainKind := 0 }
  else if unitOff s 4 i || decide ((4, i) ∈ failing) || (decide (512 ≤ i) && decide ((i - 512) / 32 ∈ s.bring.absent)) then
    s.setPort i { (s.port i).down s.now with trainKind := 0, hold := false }
  else
    let good := (goodOf s i 511).filter (fun w => !(decide ((5, 16 * i + w) ∈ failing)))
    let v := (s.port i).lane good
    (s.setPort i { v with
      trainKind := 0, hold := false, left := false, pinnedDown := false, retrainPending := false, removed := [], badCounts := []
      latency16 := Config.freeNat s.freeCtr i, downSince := s.now }).learnPeer i

/-- Service port n of a corner that carries traffic. -/
def cornerUp (s : State) (c : Nat) : Bool := (List.range 4).any (fun n => (s.port (496 + 4 * c + n)).up)

/-- At the end of S9 the settings with which the service ports trained in S2 replace the saved ones, port by port; the others stay. Their
values are the world's, free values (R334; log 8). A run without S2 saves none. -/
def State.saveService (s : State) : State :=
  if s.bring.moduleReset || decide (s.bring.form = 2) then s
  else
    ({ s with bring := { s.bring with service := (List.range 1024).map (fun i =>
        if (s.port (496 + i / 64)).up then Config.freeByte s.freeCtr i else s.bring.service.getD i 0) } }).bump

/-- S2: the service ports; degraded when a corner has none, stopping when no port trains (R334). -/
def State.endS2 (s : State) (e : StageEnd) (failing : List (Nat × Nat)) : State :=
  let s1 := ((List.range 16).foldl (fun (t : State) n => t.trainAtStart failing (496 + n)) s).bump
  if (List.range 4).all (fun c => !cornerUp s1 c) then s1.closeStage 2 { e with result := 2 }
  else if (List.range 4).all (cornerUp s1) then s1.closeStage 2 { e with result := 0 }
  else (s1.event sevDegraded evStageDegraded 2 e.detail).closeStage 2 { e with result := 1 }

/-- A breadth-first tree of the tiles from tile (0,0): each tile's parent is a neighbour one hop nearer the root. Of several the first in
the order x - 1, x + 1, y - 1, y + 1 is taken, where the spec names none (R152): DESIGN CHOICE, log 74. -/
def growTree (ok : Nat → Bool) : Nat → List (Nat × Option Nat) → List (Nat × Option Nat)
  | 0, tree => tree
  | n + 1, tree =>
    let reached := fun (t : Nat) => tree.any (fun e => e.1 == t)
    let next := (List.range 48).filterMap (fun t =>
      if reached t || !ok t then none
      else ((tileNeighbours t).find? reached).map (fun q => (t, some q)))
    growTree ok n (tree ++ next)

/-- The frequency tree over the tiles that may be reached. -/
def clockTree (ok : Nat → Bool) : List (Nat × Option Nat) := if ok 0 then growTree ok 12 [(0, none)] else []

/-- The shifts that S3 measures with the links (R113, R128): the removed row of each tile's column plus one. -/
def measuredShifts (s : State) : Tbl Nat :=
  (List.range 48).foldl (fun (m : Tbl Nat) t =>
    (List.range 24).foldl (fun (n : Tbl Nat) col =>
      match shiftRow s t col with
      | some f => tput 0 n (t * 24 + col) (f + 1)
      | none => n) m) []

/-- S3: clocks and the tree. `failing` names tiles without a clock, or of a boundary that does not calibrate, in class 0. Without
PUMP_OK high for 2 s within 60 s of the end of S2 it fails (R150-R153, R332, R422). -/
def State.endS3 (s : State) (e : StageEnd) (failing : List (Nat × Nat)) : State :=
  if !s.power.pumpOk || decide (s.bring.stageAt + 58 * 1500000000 < s.power.pumpOkSince) then
    (s.advance (s.bring.stageAt + 60 * 1500000000)).closeStage 3 { e with result := 2, detail := 0x0301 }
  else
    let s0 := s.advance (s.power.pumpOkSince + 2 * 1500000000)
    let bad := (failing.filter (fun u => u.1 == 0)).map (fun u => u.2)
    let tree := clockTree (fun t => !(decide (t ∈ bad)))
    let s1 := (List.range 48).foldl (fun (t : State) k =>
      let v := t.tile k
      match tree.find? (fun x => x.1 == k) with
      | some x => t.setTile k { v with
          parent := x.2, unreachable := false, fastClock := decide (v.state ≠ .darkShed), pickUp := (tickOf t.now + 1) * cyPerTick }
      | none => (t.setTile k { v with parent := none, unreachable := true, fastClock := false }).markUnusable k) s0
    let s2 : State := { s1 with
      overlay := { s1.overlay with measured := measuredShifts s1 }
      bring := { s1.bring with pll := (List.range 48).map (Config.freeNat s1.freeCtr) } }
    s2.bump.closeStage 3 { e with result := if tree.length = 48 then 0 else 1 }

/-- S4: scan test, reconciliation, sparing. -/
def State.endS4 (s : State) (e : StageEnd) (failing passing : List (Nat × Nat)) : State :=
  let u := s.fenceUntested
  let r := u.1.reconcile [1, 2, 3] failing passing u.2
  let s1 : State := { r.1 with bring := { r.1.bring with s4At := r.1.utc } }
  let n := r.2.1 + u.2
  s1.closeStage 4 { e with result := if n = 0 ∧ s1.overlay.unusable = s.overlay.unusable then 0 else 1, fenced := n, passing := r.2.2 }

/-- S5: every scratchpad row is written with valid check bits, which counts as a scrub pass (R41). A reduced form that finds an error
runs again in its cold form; the cold form fences. DRAM of a quay whose stack fails holds no verified content (R320, R321, R333). -/
def State.endS5 (s : State) (e : StageEnd) (failing passing : List (Nat × Nat)) : State :=
  let clean : State := { s with pad := [], marks := [], bring := { s.bring with filledAt := s.now } }
  if !s.bring.coldS5 then
    (if failing.isEmpty then clean.closeStage 5 { e with result := 0 }
     else { clean with bring := { clean.bring with coldS5 := true } })
  else
    let r := clean.reconcile [1, 6] failing passing 0
    let hurt := failing.filterMap (fun u => if u.1 = 6 then some (u.2 / 4) else none)
    let s1 : State := { r.1 with
      tensors := r.1.tensors.map (fun t =>
        if recTier t.2.record = 0 ∧ recPrimary t.2.record ∈ hurt then (t.1, { t.2 with versions := [] }) else t)
      bring := { r.1.bring with
        minMv := (List.range 48).map (Config.freeNat r.1.freeCtr)
        margins := (List.range 16).map (fun k => Config.freeNat r.1.freeCtr (48 + k)) } }
    s1.bump.closeStage 5 { e with result := if r.2.1 = 0 then 0 else 1, fenced := r.2.1, passing := r.2.2 }

/-- S6: every wafer and quay-fabric port is trained. Ports that a fallback reset holds keep their lanes unless they fail; both ends
discard what neither acknowledged and number their packets anew (R351, R352). -/
def State.endS6 (s : State) (e : StageEnd) (failing : List (Nat × Nat)) : State :=
  let held := (s.ports.filter (fun p => p.2.hold)).map (fun p => p.1)
  let fails := fun (i : Nat) => failing.any (fun u => (u.1 == 4 && u.2 == i) || (u.1 == 5 && u.2 / 16 == i))
  let list := ((List.range 640).filter (fun i => decide (i < 496 ∨ 512 ≤ i)))
  let s1 := (list.foldl (fun (t : State) i =>
    if i ∈ held ∧ !fails i then t.setPort i { t.port i with hold := false } else (t.trainAtStart failing i).pinNarrow i) s).bump
  let lost := (s1.fabric.sent.filter (fun p => decide (p.1 ∈ held))).length
  let s2 : State := { s1 with
    fabric := if held.isEmpty then s1.fabric
      else { s1.fabric with nextSeq := [], seen := [], discarded := s1.fabric.discarded + lost
                            sent := s1.fabric.sent.filter (fun p => !(decide (p.1 ∈ held))) }
    fw := { s1.fw with opticalDigest := match s1.fw.running with | some i => i.opticalDigest | none => 0 } }
  let s3 := (List.range 240).foldl (fun (t : State) i => t.weighPort i) s2
  s3.closeStage 6 { e with result := if list.all (fun i => fusedPort s3 i || (s3.port i).outcome == 3) then 0 else 1 }

/-- A quay answers: control channel, a stack, a quay port, an update engine, a tile-fetch engine (R333). -/
def quayAnswers (s : State) (failing : List (Nat × Nat)) (q : Nat) : Bool :=
  !(decide (q ∈ s.bring.absent)) && !(decide ((0, q) ∈ failing)) && cornerUp s q && decide (0 < stacksOn s q)
    && (List.range 60).any (fun i => (s.port (60 * q + i)).up)
    && (List.range 256).any (fun k => !unitOff s 7 (256 * q + k))
    && (List.range 64).any (fun k => !unitOff s 8 (64 * q + k))

/-- S7: the quays attach. `failing` names quays that do not respond in class 0 and flash tensors that fail their checks in class 9.
A quay that does not answer stops bring-up, its number in the detail's mask (R1; log 21). -/
def State.endS7 (s : State) (e : StageEnd) (failing : List (Nat × Nat)) : State :=
  let quiet := (List.range 4).filter (fun q => !quayAnswers s failing q)
  if quiet != [] then
    ((List.range 4).foldl (fun (t : State) q => t.setQuay q { t.quay q with state := if q ∈ quiet then 0 else 2 }) s).closeStage 7
      { e with result := 2, detail := partMask quiet }
  else
    let s1 := (List.range 4).foldl (fun (t : State) q => t.setQuay q { t.quay q with state := 2, scan := 0, scanned := [] }) s
    let s2 := s1.dropVersions s1.bring.powered
    let bad := (failing.filter (fun u => u.1 == 9)).map (fun u => u.2)
    let s3 := bad.foldl (fun (t : State) tid =>
      let x := t.tensor tid
      if x.record = 0 ∨ recTier x.record = 0 then t
      else (t.setTensor tid { x with flashDamaged := true }).event sevDegraded evFlashTensorDamaged tid (recPrimary x.record)) s2
    let s4 : State := { s3 with
      bring := { s3.bring with powered := false }
      fw := { s3.fw with quayDigest := match s3.fw.running with | some i => i.quayDigest | none => 0 } }
    let short := (s4.tensors.map (fun t => t.1)).any (tensorLost s4)
    s4.closeStage 7 { e with result := if bad.isEmpty && !short then 0 else 1 }

/-- The tide function as S8 starts it. -/
def State.beginTide (s : State) : State :=
  let s1 : State := { s with bring := { s.bring with stage := 7 }, tide := { s.tide with run := .stopped } }
  let t := (doTideStart s1).1
  { t with bring := s.bring }

/-- S8: passes when LOCKED or a domain of one; else it is degraded and the tide runs on in FREE or HOLDOVER (R322, R389). -/
def State.endS8 (s : State) (e : StageEnd) : State :=
  if domainId s = 0 ∨ s.tide.lock = 2 ∨ s.tide.isRoot then
    { s with tide := { s.tide with run := .running, lock := if domainId s = 0 then 0 else 2 } }.closeStage 8 { e with result := 0 }
  else
    let lock := if s.tide.lock = 3 then 3 else 0
    let s1 := s.advance (s.bring.stageAt + 10000000 * cyPerTick)
    (({ s1 with tide := { s1.tide with run := .running, lock := lock } }.event sevDegraded evTideState s.moduleNumber lock).event
      sevDegraded evStageDegraded 8 e.detail).closeStage 8 { e with result := 1 }

/-- S9: ready. A cold S5 has new results to save (R321, R326, R418, R431). -/
def State.endS9 (s : State) (e : StageEnd) : State :=
  let s1 := s.saveService.closeStage 9 { e with result := 0 }
  let s2 : State := { s1 with
    bring := { s1.bring with active := false, moduleReset := false }
    power := { s1.power with state := .parked, ready := true } }
  if s2.bring.coldS5 then s2.writeResults else s2

/-- STAGE_END: only while bring-up runs; its stages stop when the module goes to STANDBY (R433). At the end of S7, S8 starts the tide function. -/
def execStageEnd (result detail tested firstFailing : Nat) (failing passing : List (Nat × Nat)) (s : State) : Out :=
  .next (
    if !s.bring.active || s.bring.stopped || s.power.draining then s
    else
      let first := match failing.head? with
        | some u => unitWord u.1 u.2
        | none => firstFailing
      let e : StageEnd := { result := result, detail := detail, tested := tested, first := first }
      match s.bring.stage with
      | 0 => s.endS0 e
      | 1 => s.endS1 e failing
      | 2 => s.endS2 e failing
      | 3 => s.endS3 e failing
      | 4 => s.endS4 e failing passing
      | 5 => s.endS5 e failing passing
      | 6 => s.endS6 e failing
      | 7 =>
        let s1 := s.endS7 e failing
        if s1.bring.stopped then s1 else s1.beginTide
      | 8 => s.endS8 e
      | 9 => s.endS9 e
      | _ => s)

/-- DISCARD_RESULTS_RECORD: role ADMIN (R324, R402). -/
def doDiscardResults (s : State) : State × Nat := ({ s with bring := { s.bring with results := none } }, stOk)

/-- DISCARD_RESULTS_RECORD. -/
def execDiscardResultsRecord (cl : Client) (s : State) : Out := .next (s.command cl true doDiscardResults)

end Sys2Proof.Machine
end

