-- ==== Sys2Proof/Machine/Service.lean ====
section
/-! DEFINITION. Tests during work (R341-R344) and the operator's overlay entries (R331). -/

namespace Sys2Proof.Machine

/-! ### Test requests (R341, R342) -/

def tqKind (r : BitVec 256) : Nat := bits r 7 0
def tqTag (r : BitVec 256) : Nat := bits r 63 32
def tqTiles (r : BitVec 256) : BitVec 64 := r.extractLsb' 64 64
def tqPort (r : BitVec 256) : Nat := bits r 143 128
def tqQuay (r : BitVec 256) : Nat := bits r 151 144
def tqStack (r : BitVec 256) : Nat := bits r 159 152

/-- The ranges of a test request (R342). -/
def testRangeOk (r : BitVec 256) : Bool :=
  decide (1 ≤ tqKind r ∧ tqKind r ≤ 6 ∧ bits r 31 8 = 0 ∧ bits r 127 112 = 0 ∧ bits r 255 160 = 0)
    && (if tqKind r = 4 ∨ tqKind r = 5 then decide (tqTiles r = 0) else true)
    && (if tqKind r = 5 then decide (tqPort r < 640) else decide (tqPort r = 0))
    && (if tqKind r = 4 then decide (tqQuay r < 4 ∧ tqStack r < 4) else decide (tqQuay r = 0 ∧ tqStack r = 0))

/-- The tiles of a request. -/
def tqList (r : BitVec 256) : List Nat := (List.range 48).filter (fun t => (tqTiles r).getLsbD t)

/-- A spare site of a tile is marked free. -/
def spareFree (s : State) (t : Nat) : Bool := (List.range 24).any (fun col => spareOf s t col == 0)

/-- A running partition's transit or tide-tree path crosses a tile (R341). -/
def crossedByRunning (s : State) (t : Nat) : Bool :=
  (partsWhere (fun p => s.defined p && (s.part p).live && (transitColumn s p (t % 8) || treePath s p t))) != []

/-- Whether a tile may take a kind of test: none, or the status that refuses it (R341). -/
def tileTest (s : State) (kind t : Nat) : Option Nat :=
  if kind = 6 then (if spareFree s t then none else some stState)
  else
    match s.partOfColumn (t % 8) with
    | none => if kind = 1 ∧ crossedByRunning s t then some stBusy else none
    | some p =>
      if (s.part p).run = .stopped then none
      else if (s.part p).run = .fault then
        (if (s.ctlOf p).recovery.state = 1 ∨ (s.ctlOf p).recovery.state = 2 then some stBusy else none)
      else some stBusy

/-- A stack that holds none of its quay's allocated bytes. The spec gives no map from allocations to stacks: where neither nothing is
allocated nor more than the other stacks hold, it is a free choice (log 8). -/
def stackEmpty (s : State) (q stack : Nat) : Bool :=
  let used := ((s.quay q).allocs.filter (fun a => a.tier == 0)).foldl (fun n a => n + a.size) 0
  if used = 0 then true
  else if dramCap s q < used + 96000000000 then false
  else Config.freeBool s.freeCtr (4 * q + stack)

/-- The status that refuses a test request by state, if any; a port that deep park holds down takes none (R22; log 74). -/
def testRefusal (s : State) (r : BitVec 256) : Option Nat :=
  if tqKind r = 4 then (if stackEmpty s (tqQuay r) (tqStack r) then none else some stBusy)
  else if tqKind r = 5 then
    (if portBusy s (tqPort r) || decide (tqPort r ∈ upstreamPorts s) then some stBusy
    else if parkedPort s (tqPort r) then some stState else none)
  else firstSome ((tqList r).map (tileTest s (tqKind r)))

/-- A tile that a test needs has its fast clock started first, a dark one for as long as the test runs (R151). -/
def State.testClock (s : State) (t : Nat) : State :=
  let v := s.tile t
  if v.fastClock || v.unreachable || decide (v.state = .tripped ∨ s.power.state = .deepPark) then s
  else s.setTile t { v with fastClock := true, pickUp := (tickOf s.now + 1) * cyPerTick }

/-- TEST_REQUEST: a LINK test trains its port in full. -/
def doTestRequest (r : BitVec 256) (s : State) : State × Nat :=
  if !testRangeOk r then (s, stRange)
  else
    match testRefusal s r with
    | some st => (s, st)
    | none =>
      let t : TestRun := { tag := tqTag r, kind := tqKind r, tiles := tqTiles r, port := tqPort r, quay := tqQuay r, stack := tqStack r,
                           start := s.utc }
      let s0 := ((List.range 48).filter (fun k => t.tiles.getLsbD k)).foldl (fun (u : State) k => u.testClock k) s
      let s1 : State := { s0 with bring := { s0.bring with tests := s0.bring.tests ++ [t] } }
      ((if tqKind r = 5 then s1.trainFull (tqPort r) else s1).bump, stOk)

/-- TEST_REQUEST. -/
def execTestRequest (cl : Client) (rec : BitVec 256) (s : State) : Out := .next (s.command cl false (doTestRequest rec))

/-- Seconds, in tenths, that a kind of test takes (R342). -/
def testTenths (kind : Nat) : Nat :=
  match kind with
  | 1 => 140
  | 2 => 140
  | 3 => 2000
  | 4 => 1800
  | 5 => 11
  | _ => 10

/-- A unit that a test covers. -/
def testCovers (t : TestRun) (cls unit : Nat) : Bool :=
  match cls with
  | 1 => decide (t.kind ≤ 3) && t.tiles.getLsbD (coreTile unit)
  | 2 =>
    t.tiles.getLsbD (siteTile unit) && (decide (t.kind = 1) || (decide (t.kind = 6) && decide (siteRow unit = 24)))
  | 4 => decide (t.kind = 5 ∧ unit = t.port)
  | 5 => decide (t.kind = 5 ∧ unit / 16 = t.port)
  | 6 => decide (t.kind = 4 ∧ unit = 4 * t.quay + t.stack)
  | _ => false

/-- The scratchpad rows of a test's tiles are undefined, with valid check bits (R342). -/
def State.undefineTiles (s : State) (t : TestRun) : State :=
  if 3 < t.kind then s
  else
    let hit := fun (c : Nat) => t.tiles.getLsbD (coreTile c)
    { s with pad := s.pad.filter (fun e => !hit (e.1 / 2097152)), marks := s.marks.filter (fun e => !hit (e.1 / 262144)) }

/-- The stored results that a passing test changes: a tile's minimum voltage, a stack's margin, a port's lane settings (R326). -/
def State.storeTest (s : State) (t : TestRun) : State :=
  match t.kind with
  | 3 =>
    let v := (List.range 48).map (fun k => if t.tiles.getLsbD k then Config.freeNat s.freeCtr k else s.bring.minMv.getD k 0)
    ({ s with bring := { s.bring with minMv := v } }.bump).writeResults
  | 4 =>
    let k := 4 * t.quay + t.stack
    let v := (List.range 16).map (fun j => if j = k then Config.freeNat s.freeCtr (48 + k) else s.bring.margins.getD j 0)
    ({ s with bring := { s.bring with margins := v } }.bump).writeResults
  | 5 =>
    match s.bring.results with
    | some r => if tget 0 r.lanes t.port = (s.port t.port).map then s else s.writeResults
    | none => s.writeResults
  | _ => s

/-- TEST_COMPLETE: the units are reconciled with origin SERVICE_TEST and the result is reported; a unit that passes stays fenced where the
overlay names it (R329). -/
def execTestComplete (tag : Nat) (failing : List (Nat × Nat)) (tested : Nat) (s : State) : Out :=
  .next (
    match s.bring.tests.find? (fun t => t.tag == tag) with
    | none => s
    | some t =>
      let s1 := s.advance (s.now + (testTenths t.kind * 100000 - (s.utc - t.start)) * cyPerTick)
      let units := failing.filter (fun u => testCovers t u.1 u.2)
      let s2 := if t.kind = 5 then (s1.trainAtStart units t.port).bump.weighPort t.port else s1
      let r := s2.failUnits 2 true units
      let fine := (r.1.overlay.entries.map (fun f => (f.cls, f.unit))).filter (fun u =>
        testCovers t u.1 u.2 && !decide (u ∈ units) && unitOff s2 u.1 u.2)
      let s3 := ((r.1.passUnits fine).1.undefineTiles t).endTest t (if r.2 = 0 then 0 else 1) tested r.2
      if units.isEmpty then s3.storeTest t else s3)

/-- TEST_CANCEL: its units stay as they were before the test (R324). -/
def doTestCancel (tag : Nat) (s : State) : State × Nat :=
  match s.bring.tests.find? (fun t => t.tag == tag) with
  | none => (s, stIndex)
  | some t => (s.endTest t 3 0 0, stOk)

/-- TEST_CANCEL. -/
def execTestCancel (cl : Client) (tag : Nat) (s : State) : Out := .next (s.command cl false (doTestCancel tag))

/-! ### Operator's overlay entries (R331) -/

def oeClass (r : BitVec 128) : Nat := bits r 7 0
def oeOrigin (r : BitVec 128) : Nat := bits r 15 8
def oeFlags (r : BitVec 128) : Nat := bits r 31 16
def oeUnit (r : BitVec 128) : Nat := bits r 63 32

/-- A unit that a partition which is not STOPPED holds. -/
def heldUnit (s : State) (cls unit : Nat) : Bool := (holders s cls unit).any (fun p => s.busyPart p)

/-- OVERLAY_ADD. A router site is removed by a column shift. -/
def doOverlayAdd (r : BitVec 128) (s : State) : State × Nat :=
  let cls := oeClass r
  let unit := oeUnit r
  if cls < 1 ∨ 8 < cls ∨ oeOrigin r ≠ 4 ∨ 4 ≤ oeFlags r ∨ !unitInRange s cls unit then (s, stRange)
  else if heldUnit s cls unit then (s, stBusy)
  else if cls = 2 then
    (if spareOf s (siteTile unit) (siteCol unit) ≠ 0 then (s, stNospare)
     else s.shiftLater unit (if oeFlags r / 2 % 2 = 1 then 3 else 2) 4 (oeFlags r))
  else s.addFenceLater cls 4 (oeFlags r) unit

/-- OVERLAY_ADD. -/
def execOverlayAdd (cl : Client) (rec : BitVec 128) (s : State) : Out := .next (s.command cl false (doOverlayAdd rec))

/-- What a removed entry kept off, if nothing else names the unit; an entry that still waited had moved nothing. -/
def State.liftUnit (s : State) (waited : Bool) (cls unit : Nat) : State :=
  if unitOff s cls unit then s
  else
    match cls with
    | 1 => s.setHeal unit { s.heal unit with fenced := false }
    | 2 =>
      let t := siteTile unit
      let col := siteCol unit
      let moved := if waited then [] else (List.range 24).filter (fun r => decide (siteRow unit ≤ r))
      let s1 := moved.foldl (fun (u : State) r => u.forgetPad ((t / 8 * 24 + r) * 192 + (t % 8 * 24 + col)) true) s
      { s1 with overlay := { s1.overlay with spare := tdel s1.overlay.spare (t * 24 + col) } }
    | 7 =>
      let e := tget {} s.opt.engines (unit / 256)
      { s with opt := { s.opt with engines := tput {} s.opt.engines (unit / 256) { e with fenced := e.fenced.filter (· != unit % 256) } } }
    | _ => s

/-- A running test covers a unit (R344). -/
def unitTested (s : State) (cls unit : Nat) : Bool := s.bring.tests.any (fun t => testCovers t cls unit)

/-- OVERLAY_REMOVE. -/
def doOverlayRemove (cls unit : Nat) (s : State) : State × Nat :=
  if fusedUnit s cls unit then (s, stAccess)
  else
    match s.overlay.entries.findIdx? (fun f => f.cls == cls && f.unit == unit) with
    | none => (s, stIndex)
    | some i =>
      if (s.overlay.entries.getD i (fuseEntry 0 0)).origin = 6 then (s, stAccess)
      else if heldUnit s cls unit || unitTested s cls unit then (s, stBusy)
      else
        ({ s with overlay := { s.overlay with
            entries := s.overlay.entries.eraseIdx i
            pending := s.overlay.pending.filter (fun e => e.2.cls != cls || e.2.unit != unit) } }.liftUnit
          (s.overlay.pending.any (fun e => e.2.cls == cls && e.2.unit == unit)) cls unit, stOk)

/-- OVERLAY_REMOVE. -/
def execOverlayRemove (cl : Client) (cls unit : Nat) (s : State) : Out := .next (s.command cl false (doOverlayRemove cls unit))

end Sys2Proof.Machine
end

