-- ==== Sys2Proof/Machine/ModuleReset.lean ====
section
/-! DEFINITION. The module reset: its request, its instance, its drain, the fallback (R350-R352). -/

namespace Sys2Proof.Machine

/-- A module reset runs. -/
def resetting (s : State) : Bool := s.mc.mresetAt.isSome || s.mc.mresetDraining || (s.bring.active && s.bring.moduleReset)

/-- MODULE_RESET_REQUEST: the instance is the next tick boundary; journalled first. -/
def doModuleReset (s : State) : State × Nat :=
  if resetting s then (s, stBusy)
  else
    let t := nextTick s
    let s1 := s.journal jReset 0 t
    (({ s1 with mc := { s1.mc with mresetAt := some t } }).event sevFault evModuleReset 0 0, stOk)

/-- MODULE_RESET_REQUEST. -/
def execModuleResetRequest (cl : Client) (s : State) : Out := .next (s.command cl false doModuleReset)

/-- A partition that is not STOPPED takes a partition reset and stops; a step under way ends with its report and its orphan events (R118);
a recovery in progress is cancelled (R350, R367). -/
def State.stopForReset (s : State) (p : Nat) : State :=
  if (s.part p).run = .stopped then s
  else
    let s1 := (if (s.part p).marks then s.closeStep p else s).partitionReset p
    let ct := s1.ctlOf p
    let r := ct.recovery
    (s1.setPart p { s1.part p with run := .stopped, resume := none }).setCtl p
      { ct with relaunches := [], recovery := { r with state := if r.state = 1 ∨ r.state = 2 then 5 else r.state } }

/-- Steps 1 to 3 of R350 begin: partitions and tests. -/
def State.beginDrain (s : State) : State :=
  let s1 := (List.range 8).foldl (fun (t : State) p => t.stopForReset p) s
  s1.bring.tests.foldl (fun (t : State) x => t.endTest x 3 0 0) s1

/-- MODULE_RESET_INSTANCE: the drain begins, and MOD_READY goes low (R350, R431). -/
def execModuleResetInstance (s : State) : Out :=
  .next (
    match s.mc.mresetAt with
    | none => s
    | some t =>
      let s1 := (s.advance t).beginDrain
      { s1 with mc := { s1.mc with mresetDraining := true }, power := { s1.power with ready := false } })

/-- Every Lulis port but the service ports sends LEAVE and goes DOWN. -/
def State.leavePorts (s : State) : State :=
  (s.ports.map (fun e => e.1)).foldl (fun (t : State) i =>
    let v := t.port i
    if (496 ≤ i ∧ i < 512) ∨ v.outcome = 5 then t
    else (t.setPort i { v.down t.now with trainKind := 0, retrainPending := false, move := none, hold := false })) s

/-- The shards in progress: those that this module holds or mirrors in an update in pass two or publication, with that update's report
(R270). -/
def inProgress (s : State) : List (Nat × UpdateReport × List (Nat × Nat)) :=
  ((feeders s).filter (fun p => decide ((s.run p).phase = 3 ∨ (s.run p).phase = 4))).map (fun p =>
    (p, (s.run p).report, (List.range 4).flatMap (fun q => (ownLive s p q ++ mirroredHere s p q).map (fun n => (q, n)))))

/-- A module reset marks every shard in progress as lost, as an engine fault would: the update report says so, and the ledger hears it
(R270); a module that is a ledger of its own settles it at once (R313; log 27). -/
def State.loseProgress (s : State) (l : List (Nat × UpdateReport × List (Nat × Nat))) : State :=
  l.foldl (fun (t : State) e =>
    let s1 := t.pushReport { e.2.1 with flags := e.2.1.flags ||| 2 }
    let s2 := e.2.2.foldl (fun (u : State) x => u.say (.shardLost e.2.1.domain e.2.1.step x.2)) s1
    if s2.ledger.membership.isSome then s2
    else
      let s3 := s2.ownLedger
      let mine := e.2.2.map (fun x => x.2)
      s3.loseShards (fun o n => o == e.1 && decide (n ∈ mine)) (fun o n => o == e.1 && decide (n ∈ mine)) false) s

/-- The wafer engine and the quays' work state are reset: no resume point and no uncommitted version remains; bring-up runs (R350
step 5, R352). -/
def State.resetModule (s : State) : State :=
  let hurt := inProgress s
  let s1 := (s.clearQuays.dropVersions false).journalDone jReset 0
  let s2 : State := { s1 with
    parts := s1.parts.map (fun e => (e.1, { e.2 with run := .stopped, resume := none, barriers := [], resetAt := none }))
    tide := { s1.tide with run := .stopped, joined := false, isRoot := false, lock := 0, sent := [] }
    mc := { s1.mc with mresetAt := none, mresetDraining := false } }
  ((s2.loseProgress hurt).beginStages s2.bring.form true).noteAlert

/-- MODULE_RESET_DRAIN_DONE: before T + 100 ticks everything under way has drained. -/
def execModuleResetDrainDone (s : State) : Out :=
  .next (if !s.mc.mresetDraining then s else s.leavePorts.resetModule)

/-- FALLBACK_RESET: at T + 100 ticks the drain is not complete. Every port that carries traffic enters HOLD, and every packet inside the
module is lost (R351). -/
def execFallbackReset (s : State) : Out :=
  .next (
    match s.mc.mresetAt with
    | none => s
    | some t =>
      if !s.mc.mresetDraining then s
      else
        let s1 := s.advance (t + 100 * cyPerTick)
        let s2 := (s1.ports.map (fun e => e.1)).foldl (fun (u : State) i =>
          if (u.port i).up ∧ ¬(496 ≤ i ∧ i < 512) then u.setPort i { u.port i with hold := true } else u) s1
        (s2.event sevFault evModuleReset 0 1).resetModule)

end Sys2Proof.Machine
end

