-- ==== Sys2Proof/Machine/Power.lean ====
section
/-! DEFINITION. Power states, input power, the sideband's inputs and outputs, the coolant pump and the host ports' links (R416-R433). -/

namespace Sys2Proof.Machine

/-! ### Reports (R418, R420) -/

/-- The power state's number at `0x9000.10`; ACTIVE is PARKED with a partition that is not STOPPED or with a test running. -/
def powerNumber (s : State) : Nat :=
  match s.power.state with
  | .bringingUp => 0
  | .parked => if (partsWhere (fun p => (s.part p).busy)) != [] || !s.bring.tests.isEmpty then 2 else 1
  | .deepPark => 3
  | .transition => 4
  | _ => 0xFF

/-- MOD_FAULT_N is driven active (R431). -/
def moduleFault (s : State) : Bool :=
  s.bring.stopped || (List.range 48).any (fun t => decide ((s.tile t).state = .tripped))
    || (List.range 8).any (fun p => decide ((s.part p).run = .fault ∧ (s.ctlOf p).recovery.state = 4))

/-- The sideband levels of `0x9000.15` (R420, R431): the recovery loader drives no alert (R441). -/
def sideband (s : State) : Nat :=
  (if s.mc.up then 0 else 1) + (if s.power.ready then 2 else 0) + (if moduleFault s then 0 else 4)
    + (if s.power.thermAlert && !s.bring.loader then 0 else 8) + (if s.mc.up then 16 else 0)
    + (if s.power.pwrEn then 256 else 0) + (if s.power.modResetN then 512 else 0) + (if s.power.pumpOk then 1024 else 0)
    + (if s.power.pps then 2048 else 0)

/-! ### Loss of power (R417-R419) -/

/-- Optimizer state that lay in quay DRAM: what was written is undefined (log 8). -/
def OptState.lose (o : OptState) (fc : Nat) : OptState :=
  let free := fun (m : Tbl F32) => m.map (fun e => (e.1, Config.freeF32 fc e.1))
  { o with w := free o.w, m := free o.m, v := free o.v, acc := free o.acc, touched := [], dense := false }

/-- Power goes away: the controller and every link are down; wafer, quay DRAM, uncommitted versions, resume points, sessions, tickets
and volatile state are lost; flash content and the saved records stay, but for an image that was being written (R440). The log is what flash holds of it (R377). -/
def State.removePower (s : State) (copyLog : Bool) (st : PowerState) : State :=
  let es := if copyLog then s.log.entries else s.log.flash
  let s1 := (s.clearWafer.clearQuays.dropVersions true).bump
  { s1 with
    tiles := []
    parts := []
    ctl := []
    pairs := []
    govs := []
    dram := []
    quayMarks := []
    mail := []
    mailMarks := []
    quays := s1.quays.map (fun e => (e.1, { e.2 with state := 0, resident := [], leads := [], counts := [], weights := [], weightChanges := [] }))
    opt := { s1.opt with tensors := s1.opt.tensors.map (fun e => (e.1, e.2.lose s.freeCtr)), reports := [] }
    ports := s1.ports.map (fun e => (e.1, { e.2.down s.now with trainKind := 0, hold := false, move := none, retrainPending := false }))
    hosts := []
    fabric := {}
    tide := {}
    rtc := { s1.rtc with ptp := false }
    thermal := {}
    log := { s1.log with entries := es, flash := es, buffered := [], seq := match es.getLast? with | some e => e.seq | none => 0 }
    mc := { journal := s1.mc.journal }
    sivar := { s1.sivar with sessions := [], draft := none, offerUntil := none, staging := [], tickets := [], volatileVals := [] }
    bring := { s1.bring with
      active := false, stopped := false, loader := false, moduleReset := false, powered := true, tests := [], finished := [] }
    fw := { s1.fw with stored := if s1.fw.stagingState = 2 ∧ !s1.mc.applying then none else s1.fw.stored, running := none, staging := none, stagingState := 0, stagingDetail := 0, reports := [] }
    power := { s1.power with
      state := st, ready := false, thermAlert := false, alertClearAt := 0, draining := false } }

/-! ### Starts (R320, R432) -/

/-- A start of bring-up from STANDBY: fast where R325 holds, otherwise cold. -/
def State.startUp (s : State) : State := s.beginStages (if fastAllowed s then 1 else 0) false

/-- POWER_ENABLE: PWR_EN rises. -/
def execPowerEnable (s : State) : Out :=
  .next (
    if s.power.pwrEn then s
    else
      let s1 : State := { s with power := { s.power with pwrEn := true } }
      if s.power.state = .standby ∧ s.power.modResetN then s1.startUp else s1)

/-- Steps 1 to 3 of R350 before STANDBY (R419): a drain that runs goes on from where it stands. -/
def State.drainToStandby (s : State) : State :=
  if s.mc.mresetDraining then
    { s with mc := { s.mc with mresetAt := none, mresetDraining := false }, power := { s.power with draining := true, ready := false } }
  else
    let s1 := (s.advance (nextTick s)).beginDrain
    { s1 with mc := { s1.mc with mresetAt := none }, power := { s1.power with draining := true, ready := false } }

/-- POWER_DISABLE: PWR_EN falls. Bring-up stops at once; a controller that is up drains first. -/
def execPowerDisable (s : State) : Out :=
  .next (
    if !s.power.pwrEn then s
    else
      let s1 : State := { s with power := { s.power with pwrEn := false } }
      if s1.power.state = .off ∨ s1.power.state = .standby ∨ s1.power.draining then s1
      else if s1.bring.active then s1.removePower s1.mc.up .standby
      else s1.drainToStandby)

/-- STANDBY_DRAIN_END: the log is copied and power removed. -/
def execStandbyDrainEnd (s : State) : Out := .next (if s.power.draining then s.removePower true .standby else s)

/-- MOD_RESET_ASSERT: the reset wins at once; nothing drains and nothing is copied (R432, R433). -/
def execModResetAssert (s : State) : Out :=
  .next (
    let s1 : State := { s with power := { s.power with modResetN := false } }
    if !s.power.modResetN ∨ s.power.state = .off then s1 else s1.removePower false .standby)

/-- MOD_RESET_RELEASE: bring-up, with PWR_EN high. -/
def execModResetRelease (s : State) : Out :=
  .next (
    if s.power.modResetN then s
    else
      let s1 : State := { s with power := { s.power with modResetN := true } }
      if s.power.state = .standby ∧ s.power.pwrEn then s1.startUp else s1)

/-! ### Deep park and STANDBY by command (R419, R420) -/

/-- A ledger of one module, or none in force. -/
def ledgerAlone (s : State) : Bool :=
  decide (s.ledger.state = 0) || (match s.ledger.membership with
    | none => true
    | some m => m.members.all (fun x => x.module == s.moduleNumber))

/-- Command 1 of `0x9000.11`: every resume point goes, the ports leave, the module passes into deep park. -/
def doEnterDeepPark (s : State) : State × Nat :=
  if (partsWhere (fun p => (s.part p).busy)) != [] || decide (s.tide.run ≠ .stopped) || !ledgerAlone s then (s, stState)
  else if !s.bring.tests.isEmpty || resetting s then (s, stBusy)
  else if s.power.state ≠ .parked then (s, stState)
  else
    let s1 := s.leavePorts
    ({ s1 with
      parts := s1.parts.map (fun e => (e.1, { e.2 with resume := none }))
      power := { s1.power with state := .transition, transitionAt := s.now, ready := false } }, stOk)

/-- ENTER_DEEP_PARK. -/
def execEnterDeepPark (cl : Client) (s : State) : Out := .next (s.command cl false doEnterDeepPark)

/-- DEEP_PARK_ENTRY_COMPLETE: within 5 s; the wafer keeps nothing. -/
def execDeepParkEntryComplete (s : State) : Out :=
  .next (
    if s.power.state ≠ .transition then s
    else
      let s1 := s.clearWafer
      { s1 with power := { s1.power with state := .deepPark } })

/-- Command 2 of `0x9000.11`: the deep-park exit form. -/
def doLeaveDeepPark (s : State) : State × Nat :=
  if s.power.state ≠ .deepPark then (s, stState) else (s.beginStages 2 false, stOk)

/-- LEAVE_DEEP_PARK. -/
def execLeaveDeepPark (cl : Client) (s : State) : Out := .next (s.command cl false doLeaveDeepPark)

/-- Command 3 of `0x9000.11`. -/
def doStandby (s : State) : State × Nat := if s.power.draining then (s, stOk) else (s.drainToStandby, stOk)

/-- GO_TO_STANDBY. -/
def execGoToStandby (cl : Client) (s : State) : Out := .next (s.command cl false doStandby)

/-! ### The coolant pump (R422, R431) -/

/-- PUMP_OK_LOST: the stretch request follows at the next evaluation. -/
def execPumpOkLost (s : State) : Out :=
  .next (
    if !s.power.pumpOk then s
    else ({ s with power := { s.power with pumpOk := false, pumpLostAt := s.now } }).noteAlert)

/-- PUMP_OK_RESTORED. -/
def execPumpOkRestored (s : State) : Out :=
  .next (
    if s.power.pumpOk then s
    else ({ s with power := { s.power with pumpOk := true, pumpOkSince := s.now } }).noteAlert)

/-- A tile goes to compute shed for want of flow: at the fault instance of the partition that holds it, or at once. -/
def State.shedFlow (s : State) (t : Nat) : State :=
  if (s.tile t).shed then s
  else
    match (partsWhere (fun p => (s.part p).live && s.bandHas p (t % 8))).head? with
    | some p => (s.setTile t { s.tile t with due := true }).addFault p (.tileShed t)
    | none => (s.toCompute t).event sevDegraded evTileShed t 2

/-- PUMP_LOSS_SHED: 10 s without PUMP_OK while fast clocks run. -/
def execPumpLossShed (s : State) : Out :=
  .next (
    if !flowLost s then s
    else (List.range 48).foldl (fun (t : State) k => t.shedFlow k) (s.advance (s.power.pumpLostAt + 10 * 1500000000)))

/-- PUMP_LOSS_STANDBY: 60 s without PUMP_OK, in any state in which the controller runs. -/
def execPumpLossStandby (s : State) : Out :=
  .next (
    if s.power.pumpOk ∨ !s.mc.up ∨ s.power.draining then s
    else (s.advance (s.power.pumpLostAt + 60 * 1500000000)).drainToStandby)

/-- PPS_EDGE: phase for tide acquisition. -/
def execPpsEdge (s : State) : Out :=
  .next { s with power := { s.power with pps := true }, tide := { s.tide with ppsAt := s.now } }

/-- THERM_ALERT_RELEASE: 10 s after the last cause has cleared. -/
def execThermAlertRelease (s : State) : Out :=
  .next (
    if !s.power.thermAlert || alertCause s then s
    else
      let s1 := s.advance (s.power.alertClearAt + 10 * 1500000000)
      { s1 with power := { s1.power with thermAlert := false, alertClearAt := 0 } })

/-! ### Input power (R417) -/

/-- The record of a loss at `0x9000.14`, and the loss. -/
def State.loseInput (s : State) (mv kind : Nat) (copyLog : Bool) : State :=
  let p := { s.power with input := false, lossUtc := s.utc, lossMv := mv, lossState := powerNumber s, lossKind := kind }
  ({ s with power := p }).removePower copyLog .off

/-- INPUT_LOSS: below 700 V for more than 10 ms. A controller held in reset copies nothing (R433). -/
def execInputLoss (lowestMv : Nat) (s : State) : Out :=
  .next (if s.power.state = .off ∨ 700000 ≤ lowestMv then s else s.loseInput lowestMv 1 s.mc.up)

/-- INPUT_OVERVOLTAGE: disconnected at once, no copy. The lowest voltage seen is not the command's: a free value (log 8). -/
def execInputOvervoltage (s : State) : Out :=
  .next (if s.power.state = .off then s else (s.loseInput (Config.freeNat s.freeCtr 0) 2 false).bump)

/-- INPUT_RETURN: STANDBY; bring-up waits for PWR_EN. -/
def execInputReturn (s : State) : Out :=
  .next (if s.power.state ≠ .off then s else { s with power := { s.power with state := .standby, input := true } })

/-! ### The host ports' links (R425-R427) -/

/-- PCIE_RESET: only the port's PCIe logic: the link trains again, its stream is not keyed, no vector is pending. -/
def execPcieReset (i : Nat) (s : State) : Out :=
  onHost i (
    let h := s.host i
    s.setHost i { h with up := false, width := 0, rate := 0, flit := false, ide := false, msix := [], downSince := if h.up then s.now else h.downSince })

/-- PCIE_LINK_DOWN: a surprise link down is counted. -/
def execPcieLinkDown (i : Nat) (s : State) : Out :=
  onHost i (
    let h := s.host i
    if !h.up then s
    else s.setHost i { h with
      up := false, width := 0, rate := 0, flit := false, ide := false, surpriseDown := h.surpriseDown + 1, reportDue := true, downSince := s.now })

/-- PCIE_LINK_UP: from the end of S0; a surprise link down before it is reported through AER. -/
def execPcieLinkUp (i width rate : Nat) (flit : Bool) (s : State) : Out :=
  onHost i (
    let h := s.host i
    if !s.mc.up || h.up || !(decide (width ∈ [1, 2, 4, 8, 16])) || !(decide (rate ∈ [2, 5, 8, 16, 32, 64])) then s
    else s.setHost i { h with
      up := true, width := width, rate := rate, flit := flit || decide (rate = 64), reportDue := false
      aerUncorrectable := if h.reportDue then h.aerUncorrectable + 1 else h.aerUncorrectable })

/-- IDE_KEY_PROGRAMMING: the port's selective stream is secure. -/
def execIdeKeyProgramming (i : Nat) (s : State) : Out :=
  onHost i (if (s.host i).up then s.setHost i { s.host i with ide := true } else s)

end Sys2Proof.Machine
end

