-- ==== Sys2Proof/Machine/Dictionary.lean ====
section
/-! DEFINITION. The object dictionary: which objects exist, their types, access classes, persistence, owners and defaults
(R381-R385, R389, R390, R413), the configuration they form (R391) and its digest (R396). -/

namespace Sys2Proof.Machine

/-- Object types (R382). -/
inductive OType where | bool | u8 | u16 | u32 | u64 | i16 | i32 | f32 | time | string | blob
deriving DecidableEq, Repr

/-- Access classes (R383). -/
inductive OAccess where | ro | rw | rws | wo | cmd
deriving DecidableEq, Repr

/-- An object: type, access, whether it is saved, maximum length of a STRING or BLOB, mask of owning functions (bit 15: feeding
partitions). Where the spec gives a BLOB or STRING no maximum, the number is the model's (log 30). -/
structure ObjInfo where
  type : OType
  access : OAccess
  saved : Bool := false
  max : Nat := 0
  owners : Nat := 0
deriving DecidableEq, Repr

/-- The type's code (R382). -/
def OType.code : OType → Nat
  | .bool => 1
  | .u8 => 2
  | .u16 => 3
  | .u32 => 4
  | .u64 => 5
  | .i16 => 6
  | .i32 => 7
  | .f32 => 8
  | .time => 9
  | .string => 10
  | .blob => 11

/-- Bytes of a scalar type; 0 for a STRING or BLOB. -/
def OType.width : OType → Nat
  | .bool => 1
  | .u8 => 1
  | .u16 => 2
  | .u32 => 4
  | .u64 => 8
  | .i16 => 2
  | .i32 => 4
  | .f32 => 4
  | .time => 8
  | .string => 0
  | .blob => 0

/-- The access class's code (R385). -/
def OAccess.code : OAccess → Nat
  | .ro => 0
  | .rw => 1
  | .rws => 2
  | .wo => 3
  | .cmd => 4

def roObj (t : OType) (max : Nat := 65536) : Option ObjInfo := some { type := t, access := .ro, max := max }
def cmdObj (t : OType) (max : Nat := 0) : Option ObjInfo := some { type := t, access := .cmd, max := max }
def rwObj (t : OType) (max : Nat := 0) : Option ObjInfo := some { type := t, access := .rw, saved := true, max := max }
def rwsObj (t : OType) (owners : Nat) (max : Nat := 0) : Option ObjInfo := some { type := t, access := .rws, saved := true, max := max, owners := owners }

/-- A sub-index in [lo, lo + n). -/
def within (sub lo n : Nat) : Bool := decide (lo ≤ sub ∧ sub < lo + n)

/-- Indices `0x1000` and `0x1100` (R8, R413). -/
def identityObj (idx sub : Nat) : Option ObjInfo :=
  if idx = 0x1000 then
    if within sub 1 7 then roObj .string 32
    else if sub = 8 then roObj .u32
    else if sub = 9 then roObj .u8
    else if sub = 0x0A then rwsObj .u16 0x1FF
    else if within sub 0x10 2 then rwObj .blob 28
    else none
  else if within sub 1 2 then roObj .u8
  else if sub = 3 then roObj .u16
  else if sub = 4 then roObj .u8
  else if sub = 5 then roObj .u16
  else if sub = 6 then roObj .u32
  else if sub = 8 then roObj .u16
  else none

/-- Index `0x2000` (R396, R402, R405, R412, R427). -/
def controlObj (sub : Nat) : Option ObjInfo :=
  if within sub 1 2 then roObj .u32
  else if within sub 3 3 ∨ sub = 9 ∨ sub = 0x21 then cmdObj .u8
  else if within sub 6 3 ∨ sub = 0x0A ∨ within sub 0x22 2 ∨ sub = 0x30 then roObj .blob
  else if sub = 0x20 then roObj .u8
  else if sub = 0x24 then rwObj .u8
  else none

/-- Indices `0x2100` to `0x2107` (R163, R47, R50, R114, R125, R147, R149, R293, R353, R414). -/
def partitionObj (p sub : Nat) : Option ObjInfo :=
  if sub = 1 then roObj .u8
  else if within sub 2 4 then rwsObj .u8 (2 ^ p)
  else if sub = 6 then roObj .u64
  else if sub = 7 then roObj .i32
  else if sub = 8 then rwsObj .u64 (2 ^ p)
  else if sub = 9 ∨ sub = 0x23 then roObj .u16
  else if sub = 0x0A ∨ sub = 0x0B ∨ sub = 0x0E ∨ sub = 0x10 then roObj .blob 1048576
  else if sub = 0x0C ∨ sub = 0x22 then roObj .u32
  else if sub = 0x0D ∨ sub = 0x0F then cmdObj .u8
  else if sub = 0x20 then cmdObj .blob 19
  else if sub = 0x21 ∨ sub = 0x24 ∨ within sub 0x28 2 then roObj .blob 4194304
  else if sub = 0x25 ∨ sub = 0x27 then cmdObj .blob 3
  else if sub = 0x26 then rwsObj .blob (2 ^ p) 32768
  else none

/-- Indices `0x3000` and `0x3100` (R38, R40, R324, R327, R331, R353). -/
def bringUpObj (idx sub : Nat) : Option ObjInfo :=
  if idx = 0x3000 then
    if within sub 1 2 then roObj .u8
    else if sub = 3 then rwObj .u8
    else if sub = 4 then roObj .blob 72
    else if within sub 5 2 then cmdObj .u8
    else if within sub 0x10 10 then roObj .blob 32
    else if sub = 0x20 then cmdObj .blob 32
    else if sub = 0x21 then roObj .blob 2048
    else if sub = 0x22 then cmdObj .blob 4
    else none
  else if sub = 1 then rwObj .u8
  else if within sub 2 3 ∨ sub = 7 then roObj .blob 1048576
  else if within sub 5 2 then cmdObj .blob 16
  else if sub = 8 then roObj .u8
  else if sub = 0x10 then rwObj .u32
  else if sub = 0x11 then rwObj .u16
  else none

/-- Index `0x4000` (R180-R183, R389). The RWS fields change only while the tide function is STOPPED. -/
def tideObj (sub : Nat) : Option ObjInfo :=
  if sub = 1 then roObj .time
  else if sub = 2 ∨ sub = 8 then rwsObj .u32 0x100
  else if sub = 3 ∨ sub = 0x0D then rwsObj .u16 0x100
  else if within sub 4 3 ∨ sub = 0x0B then roObj .u8
  else if sub = 7 then roObj .i32
  else if within sub 9 2 then roObj .blob
  else if sub = 0x0C then cmdObj .u8
  else if sub = 0x0E then roObj .u16
  else none

/-- Indices `0x4101` to `0x4108` and `0x4110` to `0x4117` (R168, R174). -/
def imageObj (idx sub : Nat) : Option ObjInfo :=
  if idx < 0x4110 then
    if sub = 1 then some { type := .blob, access := .wo, max := 17179869184 }
    else if sub = 2 then roObj .u8
    else if sub = 3 then roObj .blob 12
    else if sub = 4 then roObj .blob 64
    else none
  else if sub = 1 then some { type := .blob, access := .rw, max := 32 }
  else if sub = 2 then roObj .u16
  else none

/-- Indices `0x5000` to `0x5003` and `0x5100` (R192, R215, R295, R333). -/
def quayObj (idx sub : Nat) : Option ObjInfo :=
  if idx < 0x5100 then
    if sub = 1 ∨ sub = 0x11 then roObj .u8
    else if within sub 2 5 then roObj .u64
    else if within sub 7 2 ∨ sub = 0x0D then roObj .u32
    else if within sub 9 4 ∨ sub = 0x0E ∨ within sub 0x12 2 then roObj .blob 1048576
    else if sub = 0x10 then rwsObj .blob 0x8000 262144
    else none
  else if sub = 1 then roObj .u32
  else if sub = 2 then cmdObj .blob 64
  else if sub = 3 ∨ sub = 7 then cmdObj .blob 4
  else if sub = 4 then roObj .blob 1073741824
  else if sub = 5 then cmdObj .blob 7
  else if sub = 6 then cmdObj .blob 67108864
  else none

/-- Index `0x6000` (R248, R273-R276, R296, R308-R319). -/
def optimizerObj (sub : Nat) : Option ObjInfo :=
  if sub = 1 then rwObj .u8
  else if sub = 2 then cmdObj .blob 5
  else if sub = 3 ∨ sub = 0x39 then cmdObj .blob 4
  else if sub = 4 then cmdObj .blob 67108864
  else if within sub 5 2 then roObj .blob 1048576
  else if within sub 0x10 16 then rwsObj .blob 0x8000 64
  else if within sub 0x20 8 then rwsObj .blob 0x8000 4096
  else if sub = 0x30 then rwsObj .blob 0x8000 262208
  else if sub = 0x31 then roObj .u8
  else if sub = 0x32 then roObj .u64
  else if within sub 0x33 5 then roObj .blob 1048576
  else none

/-- Indices `0x6100`, `0x6200` and `0x6300` (R239, R246, R279, R289). -/
def governorObj (idx sub : Nat) : Option ObjInfo :=
  if idx = 0x6100 then
    if sub = 1 then rwObj .u8
    else if sub = 2 then some { type := .bool, access := .rw }
    else if within sub 0x10 8 then roObj .blob
    else if sub = 0x20 then cmdObj .blob 5
    else none
  else if idx = 0x6200 then
    if within sub 1 9 then rwObj .u8
    else if within sub 0x10 8 then roObj .blob
    else none
  else if sub = 1 then rwObj .u8
  else if within sub 0x10 8 then rwsObj .blob (2 ^ (sub - 0x10)) 32
  else if within sub 0x20 8 ∨ within sub 0x30 8 then roObj .blob
  else none

/-- Indices `0x7000`, `0x8000` and `0x9000` (R337, R374, R380, R420). -/
def deviceObj (idx sub : Nat) : Option ObjInfo :=
  if idx = 0x7000 then
    if sub = 1 then rwObj .u8
    else if sub = 2 ∨ sub = 4 then roObj .blob
    else if sub = 3 then cmdObj .blob 3
    else none
  else if idx = 0x8000 then
    if sub = 1 ∨ sub = 4 then roObj .u32
    else if sub = 2 then roObj .blob 131072
    else if sub = 3 ∨ sub = 5 then rwObj .u8
    else none
  else if within sub 1 2 ∨ sub = 5 then rwObj .u8
  else if sub = 3 ∨ within sub 0x12 3 then roObj .blob
  else if sub = 4 then roObj .i16
  else if sub = 6 ∨ sub = 0x10 then roObj .u8
  else if sub = 7 then cmdObj .blob 2
  else if sub = 0x11 then cmdObj .u8
  else if sub = 0x15 then roObj .u16
  else none

/-- Index `0xA000` (R402, R436-R443). -/
def securityObj (sub : Nat) : Option ObjInfo :=
  if sub = 1 then some { type := .blob, access := .wo, max := 50348032 }
  else if sub = 2 then roObj .blob 16
  else if sub = 3 ∨ sub = 5 ∨ sub = 0x30 then cmdObj .u8
  else if sub = 4 then cmdObj .blob 64
  else if sub = 6 then cmdObj .blob 32
  else if sub = 7 then roObj .blob 5443
  else if sub = 8 then rwObj .u8
  else if sub = 9 then roObj .blob 136
  else if sub = 0x10 then roObj .blob 2592
  else if sub = 0x11 then roObj .blob 32768
  else if within sub 0x20 16 then rwObj .blob 2600
  else if within sub 0x40 4 then rwObj .blob 2592
  else none

/-- The object at an index and a sub-index above 0. -/
def definedObj (idx sub : Nat) : Option ObjInfo :=
  if idx = 0x1000 ∨ idx = 0x1100 then identityObj idx sub
  else if idx = 0x2000 then controlObj sub
  else if within idx 0x2100 8 then partitionObj (idx - 0x2100) sub
  else if idx = 0x3000 ∨ idx = 0x3100 then bringUpObj idx sub
  else if idx = 0x4000 then tideObj sub
  else if within idx 0x4101 8 ∨ within idx 0x4110 8 then imageObj idx sub
  else if within idx 0x5000 4 ∨ idx = 0x5100 then quayObj idx sub
  else if idx = 0x6000 then optimizerObj sub
  else if idx = 0x6100 ∨ idx = 0x6200 ∨ idx = 0x6300 then governorObj idx sub
  else if idx = 0x7000 ∨ idx = 0x8000 ∨ idx = 0x9000 then deviceObj idx sub
  else if idx = 0xA000 then securityObj sub
  else none

/-- Highest sub-index defined at an index; 0 where the index does not exist. -/
def highestSub (idx : Nat) : Nat := ((List.range 256).filter (fun k => (definedObj idx k).isSome)).foldl max 0

/-- An index exists. -/
def indexExists (idx : Nat) : Bool := decide (0 < highestSub idx)

/-- The object of an index and a sub-index; sub-index 0 is the highest sub-index defined (R381). -/
def objInfo (idx sub : Nat) : Option ObjInfo :=
  if sub = 0 then (if indexExists idx then roObj .u8 else none) else definedObj idx sub

/-- The status of a name that is no object. -/
def nameStatus (idx sub : Nat) : Option Nat :=
  if !indexExists idx then some stIndex
  else if (objInfo idx sub).isNone then some stSubindex
  else none

/-! ### The configuration (R391) -/

/-- Every saved object in index and sub-index order. -/
def savedKeys : List Nat :=
  let at' := fun (idx : Nat) (subs : List Nat) => subs.map (okey idx)
  at' 0x1000 [0x0A, 0x10, 0x11] ++ at' 0x2000 [0x24]
    ++ (List.range 8).flatMap (fun p => at' (0x2100 + p) [2, 3, 4, 5, 8, 0x26])
    ++ at' 0x3000 [3] ++ at' 0x3100 [1, 0x10, 0x11] ++ at' 0x4000 [2, 3, 8, 0x0D]
    ++ (List.range 4).map (fun q => okey (0x5000 + q) 0x10)
    ++ at' 0x6000 ([1] ++ List.range' 0x10 24 ++ [0x30]) ++ at' 0x6100 [1] ++ at' 0x6200 (List.range' 1 9)
    ++ at' 0x6300 ([1] ++ List.range' 0x10 8) ++ at' 0x7000 [1] ++ at' 0x8000 [3, 5] ++ at' 0x9000 [1, 2, 5]
    ++ at' 0xA000 ([8] ++ List.range' 0x20 16 ++ List.range' 0x40 4)

/-- The default of an object's value: of a saved scalar as its table gives it; a port address DHCP, a route table with no route, a
group of rule NONE, a domain record with no clipping and one breakpoint; every other BLOB empty. -/
def defaultBytes (cfg : Tbl (List Byte)) (key : Nat) : List Byte :=
  let idx := key / 256
  let sub := key % 256
  match definedObj idx sub with
  | none => []
  | some o =>
    if 0 < o.type.width then leBytes o.type.width (cfgOf (tdel cfg key) idx sub)
    else if idx = 0x1000 ∧ within sub 0x10 2 then List.replicate 28 0
    else if within idx 0x2100 8 ∧ sub = 0x26 then List.replicate 32768 0
    else if idx = 0x6000 ∧ within sub 0x10 16 then List.replicate 64 0
    else if idx = 0x6000 ∧ within sub 0x20 8 then leBytes 4 0 ++ leBytes 2 1 ++ List.replicate 26 0
    else []

/-- The value of a saved object in a configuration. -/
def savedBytes (cfg : Tbl (List Byte)) (key : Nat) : List Byte :=
  match tfind cfg key with
  | some v => v
  | none => defaultBytes cfg key

/-- The digest of a configuration: each value after its index, sub-index and length. -/
def configDigest (cfg : Tbl (List Byte)) : BitVec 512 :=
  Config.sha3 (savedKeys.flatMap (fun k =>
    let v := savedBytes cfg k
    leBytes 2 (k / 256) ++ leBytes 1 (k % 256) ++ leBytes 4 v.length ++ v))

/-- Objects that differ between two configurations. -/
def configChanges (a b : Tbl (List Byte)) : List Nat := savedKeys.filter (fun k => savedBytes a k != savedBytes b k)

/-! ### DESCRIBE (R385) -/

/-- The default that an RO object's table states; empty where it states none, or Empty. -/
def reportDefault (idx sub : Nat) : List Byte :=
  let zeros := fun (n : Nat) => List.replicate n (0 : Byte)
  if idx = 0x1000 then (if sub = 9 then leBytes 1 1 else [])
  else if idx = 0x1100 then (if sub = 4 then leBytes 1 8 else if sub = 5 then leBytes 2 128 else if sub = 6 then leBytes 4 4194304 else [])
  else if idx = 0x2000 then (if sub = 1 then leBytes 4 1 else if sub = 2 then zeros 4 else [])
  else if within idx 0x2100 8 then
    (if sub = 1 then zeros 1 else if sub = 6 then zeros 8 else if sub = 9 then zeros 2 else if sub = 0x0B then zeros 20
    else if sub = 0x0C then zeros 4 else if sub = 0x28 then zeros 131072 else if sub = 0x29 then zeros 4096 else [])
  else if idx = 0x3000 ∧ within sub 0x10 10 then leBytes 1 (sub - 0x10) ++ leBytes 1 0xFF ++ zeros 22 ++ leBytes 4 0xFFFFFFFF ++ zeros 4
  else if idx = 0x4000 then (if sub = 0x0E then zeros 2 else [])
  else if idx = 0x6000 then
    (if sub = 0x31 then zeros 1 else if sub = 0x32 then zeros 8 else if sub = 0x33 then zeros 16 else if sub = 0x35 then zeros 36 else [])
  else if idx = 0x6300 then (if within sub 0x30 8 then zeros 36 else [])
  else if idx = 0x8000 then (if sub = 4 then zeros 4 else [])
  else if idx = 0x9000 then (if sub = 6 then zeros 1 else if sub = 0x14 then zeros 16 else [])
  else if idx = 0xA000 then (if sub = 2 then zeros 16 else [])
  else []

/-- The descriptor of an object, and its default where that is no longer than 64 B. -/
def describeBytes (idx sub : Nat) (o : ObjInfo) : List Byte :=
  let d := if o.access = .rw ∨ o.access = .rws then
      (if sub = 0 then [] else if o.saved then defaultBytes [] (okey idx sub) else List.replicate o.type.width 0)
    else if o.access = .ro then reportDefault idx sub else []
  let persistence := if o.saved then 1 else if o.access = .rw then 0 else 2
  leBytes 1 o.type.code ++ leBytes 1 o.access.code ++ leBytes 1 persistence ++ leBytes 1 0
    ++ leBytes 4 (if 0 < o.type.width then o.type.width else o.max) ++ leBytes 2 o.owners ++ leBytes 2 0 ++ leBytes 4 d.length
    ++ (if d.length ≤ 64 then d else [])

end Sys2Proof.Machine
end

