-- ==== Sys2Proof/Machine/Reports.lean ====
section
/-! DEFINITION. What every object reads as: the reports of all chapters as bytes in the layouts they give. Where a chapter names a
report and gives no layout, the order of its fields is the model's (log 13). -/

namespace Sys2Proof.Machine

/-- ASCII text. -/
def ascii (t : String) : List Byte := t.toList.map (fun c => BitVec.ofNat 8 c.toNat)

def b1 (v : Nat) : List Byte := leBytes 1 v
def b2 (v : Nat) : List Byte := leBytes 2 v
/-- A count as a U32 that saturates. -/
def b4 (v : Nat) : List Byte := leBytes 4 (min v 0xFFFFFFFF)
def b8 (v : Nat) : List Byte := leBytes 8 v
/-- A TIME value of a time in fast cycles (R11). -/
def bTime (t : Nat) : List Byte := leBytes 8 (timeWord t).toNat

/-! ### Identity and configuration (R8, R396, R405, R413, R427) -/

/-- The ordering code. -/
def orderingCode (s : State) : String :=
  match s.ident.code with
  | 0 => "OWM-48F-1536"
  | 1 => "OWM-48F-1152"
  | 2 => "OWM-48D-1536"
  | _ => "OWM-48D-1152"

def identityBytes (s : State) (idx sub : Nat) : List Byte :=
  if idx = 0x1000 then
    match sub with
    | 1 => s.ident.serial
    | 2 => ascii (orderingCode s)
    | 3 => s.ident.waferStepping
    | 8 => b4 (match s.fw.running with | some i => i.version.toNat | none => 0)
    | 9 => b1 1
    | _ => s.ident.quayStepping.getD (sub - 4) []
  else
    match sub with
    | 1 => b1 (if s.isD then 1 else 0)
    | 2 => b1 (if s.ident.code % 2 = 1 then 3 else 4)
    | 3 => b2 (if s.isD then 192 else 256)
    | 4 => b1 8
    | 5 => b2 128
    | 6 => b4 4194304
    | _ => b2 s.ident.vectorRevision

/-- A client as the draft's report names it. -/
def clientNumber : Client → Nat
  | .session k => k
  | .pcie i => 8 + i

def ticketBytes (t : Ticket) : List Byte :=
  b4 t.number ++ b2 t.index ++ b1 t.sub ++ b1 (if t.done then 1 else 0) ++ b2 t.status ++ List.replicate 6 0 ++ b8 t.taken ++ b8 t.finish

def hostBytes (h : HostPort) : List Byte :=
  b1 (if h.up then 1 else 0) ++ b1 h.width ++ b1 h.rate ++ b1 (if h.flit then 1 else 0) ++ b1 (if h.ide then 1 else 0)
    ++ List.replicate 3 0 ++ b4 h.aerCorrectable ++ b4 h.aerUncorrectable

def controlBytes (s : State) (sub : Nat) : List Byte :=
  match sub with
  | 1 => b4 s.sivar.version
  | 2 => b4 s.sivar.prevVersion
  | 6 =>
    match s.sivar.draft with
    | none => []
    | some d => b1 (clientNumber d.owner) ++ List.replicate 3 0 ++ b4 d.values.length
        ++ d.values.flatMap (fun e => b2 (e.1 / 256) ++ b1 (e.1 % 256) ++ b1 0 ++ b4 e.2.length)
  | 7 =>
    let r := s.sivar.report
    if r = (0, 0, 0) then [] else b4 r.1 ++ b2 r.2.1 ++ b2 (r.2.2 / 256) ++ b1 (r.2.2 % 256) ++ List.replicate 7 0
  | 8 => leBytes 64 (configDigest s.sivar.config).toNat
  | 0x0A => (configChanges s.sivar.config s.sivar.previous).flatMap (fun k => b2 (k / 256) ++ b1 (k % 256) ++ b1 0)
  | 0x20 => b1 s.sivar.primary
  | 0x22 => hostBytes (s.host 0)
  | 0x23 => hostBytes (s.host 1)
  | 0x30 => s.sivar.tickets.flatMap ticketBytes
  | _ => []

/-! ### Partitions (R50, R149, R163, R173, R179, R356, R414) -/

/-- The cores of a band in index order. -/
def bandList (s : State) (p : Nat) : List Nat := (List.range 27648).filter (fun c => s.bandHas p (coreX c / 24))

/-- A core's counters (R50). -/
def counterBytes (s : State) (c : Nat) : List Byte :=
  if !coreExists s c || coreFenced s c then List.replicate 22 0 ++ b1 0xFF ++ List.replicate 9 0
  else
    let h := s.heal c
    b4 h.corrected ++ b4 h.freezes ++ b4 h.issueStalls ++ b4 h.sbWaits ++ b4 (tickOf s.now - tickOf (max h.scrubDone s.bring.filledAt))
      ++ b2 (min h.scrubUncorrectable 0xFFFF) ++ b1 h.faultSinceLaunch ++ b1 (min h.windowRejects 0xFF) ++ List.replicate 8 0

/-- A channel state's number (R149). -/
def ChState.number : ChState → Nat
  | .idle => 0
  | .active => 1
  | .draining => 2

/-- A core's channels (R149). -/
def channelBytes (s : State) (c : Nat) : List Byte :=
  if !coreExists s c || coreFenced s c then List.replicate 128 0
  else (List.range 8).flatMap (fun i =>
    let v := (s.core c).chan i
    b8 v.status.toNat ++ b4 v.bankWait ++ b2 (min v.rejectedCount 0xFFFF) ++ b1 v.state.number ++ b1 0)

/-- The fault and recovery record (R356). -/
def recoveryBytes (r : RecoveryRecord) : List Byte :=
  bTime r.fault ++ b8 r.step ++ b2 r.code ++ b2 r.detail ++ leBytes 4 r.unit ++ b1 r.state ++ b1 r.path ++ b2 r.units.length
    ++ b1 r.inPlace ++ List.replicate 3 0 ++ (if r.relaunch = 0 then b8 0 else bTime r.relaunch) ++ b1 r.prevColumn ++ b1 r.prevWidth
    ++ b1 r.prevSlot ++ b1 0 ++ b2 r.status ++ b2 0 ++ List.replicate 16 0
    ++ r.units.flatMap (fun e => leBytes 4 e.1 ++ b1 e.2 ++ List.replicate 3 0)

/-- A resume point (R179). -/
def resumeBytes (r : ResumePoint) : List Byte :=
  bTime r.time ++ bTime r.cursor ++ b8 r.step ++ b2 r.variant.toNat
    ++ r.cores.flatMap (fun e => b2 e.1 ++ b2 e.2.1 ++ (List.range' 1 7).flatMap (fun k => b2 (tget 0 e.2.2 k).toNat))

/-- The measured latency table (R173). Its D is the measured latency rounded up, without the 8 cy that R186 adds (DESIGN CHOICE, log 13). -/
def latencyBytes (s : State) (p : Nat) : List Byte :=
  (List.range (24 * s.widthOf p)).flatMap (fun i => b1 (if columnExists s (bandX s p i) then columnExcess s (bandX s p i) else 0))
    ++ (List.range 144).flatMap (fun y => b1 (rowExcess s (bandColumns s p) y))
    ++ ((List.range 256).filter (fun n => portUsed s p (240 + n))).flatMap (fun n =>
      b1 (n / 128) ++ b1 (n % 128) ++ b2 (ceilDiv (s.port (240 + n)).latency16 16))

def partitionBytes (s : State) (p sub : Nat) : List Byte :=
  let pt := s.part p
  let ct := s.ctlOf p
  match sub with
  | 1 => b1 pt.run.number
  | 6 => b8 pt.stepsDone
  | 7 => leBytes 4 (unsignedOf 32 pt.slip)
  | 9 => b2 pt.variant.toNat
  | 0x0A => match pt.resume with | some r => resumeBytes r | none => []
  | 0x0B => b4 ct.counts.early ++ b4 ct.counts.waitmarkLate ++ b4 ct.counts.dmaLate ++ b4 ct.counts.linkLate ++ b4 ct.counts.marks
  | 0x0C => b4 (match pt.image with | some i => i.header.group | none => 0)
  | 0x0E => latencyBytes s p
  | 0x10 => recoveryBytes ct.recovery
  | 0x21 => (bandList s p).flatMap (counterBytes s)
  | 0x22 => b4 (match pt.image with | some i => i.header.transit.toNat | none => 0)
  | 0x23 => b2 pt.barrierLatency
  | 0x24 => (bandList s p).flatMap (channelBytes s)
  | 0x28 => readZeroed s.mail (p * 131072) 131072
  | 0x29 => (List.range 256).flatMap (fun row =>
      let r := tget (0, false, 0) ct.mailRecords row
      b4 r.1 ++ b1 (if r.2.1 then 1 else 0) ++ List.replicate 3 0 ++ bTime r.2.2)
  | _ => []

/-! ### Bring-up, sparing (R323-R331, R342) -/

def stageBytes (r : StageReport) : List Byte :=
  b1 r.stage ++ b1 r.result ++ b2 r.detail ++ b4 r.start ++ b4 r.duration ++ b4 r.tested ++ b4 r.fenced ++ b4 r.passing
    ++ leBytes 4 r.firstFailing ++ List.replicate 4 0

def testBytes (t : TestResult) : List Byte :=
  b4 t.tag ++ b1 t.kind ++ b1 t.outcome ++ b2 0 ++ b4 t.tested ++ b4 t.fenced ++ b4 0 ++ b4 (t.finish - t.start) ++ b8 t.start

/-- The manifest's report (R327). -/
def manifestBytes (s : State) : List Byte :=
  b2 1 ++ b1 (if s.isD then 1 else 0) ++ b1 (s.ident.code % 2) ++ b4 (manifest s).length ++ leBytes 4 s.overlay.fuseCrc.toNat
    ++ List.replicate 52 0 ++ leBytes 64 (manifestDigest s).toNat ++ (manifest s).flatMap Fence.toBytes

def bringUpBytes (s : State) (idx sub : Nat) : List Byte :=
  if idx = 0x3000 then
    if sub = 1 then b1 (s.bring.stage + (if s.bring.stopped then 128 else 0))
    else if sub = 2 then b1 s.bring.form
    else if sub = 4 then (match s.bring.results with | some r => b8 r.written ++ leBytes 64 r.digest.toNat | none => [])
    else if sub = 0x21 then s.bring.finished.flatMap testBytes
    else stageBytes (tget (blankReport (sub - 0x10) 0xFF) s.bring.reports (sub - 0x10))
  else
    match sub with
    | 2 => manifestBytes s
    | 3 => (List.range 1152).flatMap (fun k => b1 (spareOf s (k / 24) (k % 24)))
    | 4 => s.overlay.entries.flatMap Fence.toBytes
    | 7 => (List.range' 1 8).flatMap (fun c => (tget [0, 0, 0, 0] s.bring.recon c).flatMap b4)
    | 8 => b1 (partMask s.overlay.unusable)
    | _ => []

/-! ### Tide, images (R168, R174, R180-R185) -/

def tideBytes (s : State) (sub : Nat) : List Byte :=
  match sub with
  | 1 => bTime s.now
  | 4 => b1 s.tide.lock
  | 5 => b1 s.tide.stretch
  | 6 => b1 s.tide.ownRequest
  | 7 => leBytes 4 (unsignedOf 32 s.tide.skewPs)
  | 9 => if s.rtc.refSource = 0 then List.replicate 24 0 else b8 s.rtc.refTick ++ b8 s.rtc.refUtc ++ b1 s.rtc.refSource ++ List.replicate 7 0
  | 0x0A => s.tide.changes.flatMap (fun e => b8 e.1 ++ b1 e.2)
  | 0x0B => b1 s.tide.run.number
  | 0x0E => b2 s.tide.epoch
  | _ => []

def imageBytes (s : State) (idx sub : Nat) : List Byte :=
  if idx < 0x4110 then
    let v := s.slotOf (idx - 0x4101)
    match sub with
    | 2 => b1 v.state
    | 3 => leBytes 4 v.failures.toNat ++ leBytes 4 v.failSection ++ leBytes 4 v.failOffset
    | _ => match v.image with | some i => leBytes 64 i.digest.toNat | none => List.replicate 64 0
  else
    let ct := s.ctlOf (idx - 0x4110)
    if sub = 1 then leBytes 32 ct.launchRecord.toNat else b2 ct.launchStatus

/-! ### Quays and tensors (R192, R213-R215, R333) -/

/-- The lowest partition whose plan names a tensor, 8 where none does. -/
def reportPart (s : State) (tid : Nat) : Nat := (partsWhere (fun p => (planOf s p).any (fun e => planTensor e == tid))).headD 8

/-- The lead that the report gives for a tensor: that of the first plan record naming it, of the lowest partition, else the pin (log
75). -/
def reportedLead (s : State) (q tid : Nat) (r : BitVec 512) : Nat :=
  let p := reportPart s tid
  match (planOf s p).zipIdx.find? (fun e => planTensor e.1 == tid) with
  | some e => leadInForce s q p e.2 e.1 r
  | none => recLead r

/-- A record in the record report: the 64 B of R192, with the version of the checkpoint copy in its zero bytes 40-47 where one stands. R194
puts that version into the report and gives no place for it (DESIGN CHOICE, log 74). -/
def recordReport (t : Tensor) : List Byte :=
  match t.checkpoint with
  | some c => leBytes 64 (recPut t.record 40 8 c.version.number).toNat
  | none => leBytes 64 t.record.toNat

/-- The lead report of a quay. -/
def leadBytes (s : State) (q : Nat) : List Byte :=
  let mine := s.tensors.filter (fun e => recPrimary e.2.record == q && !recRegion e.2.record)
  mine.flatMap (fun e =>
    let r := e.2.record
    let tier := servingTier s q (reportPart s e.1) r
    let l := tget {} (s.quay q).leads (leadKey e.1 tier)
    b4 e.1 ++ b2 (reportedLead s q e.1 r) ++ b2 l.target ++ b4 ((percentile l.latencies).getD 0) ++ b2 (min (l.counts.foldl (fun n c => n + c.2.misses) 0) 0xFFFF)
      ++ b1 (if recTier r = 1 ∧ tier = 0 then 1 else 0) ++ b1 0)

def allocBytes (a : Alloc) : List Byte :=
  b1 a.tier ++ b1 a.kind ++ b2 0 ++ b4 (if a.kind = 3 then 0 else a.tid) ++ b8 a.base ++ b8 a.size ++ b8 0

/-- An entry in its place by base offset. -/
def insertAlloc (a : Alloc) : List Alloc → List Alloc
  | [] => [a]
  | b :: l => if a.base < b.base then a :: b :: l else b :: insertAlloc a l

/-- Bytes allocated in a tier. -/
def allocated (qu : Quay) (tier : Nat) : Nat := (qu.allocs.filter (fun a => a.tier == tier)).foldl (fun n a => n + a.size) 0

/-- What an absent quay reads as (R215): 0, zeros or empty. -/
def absentQuayBytes (sub : Nat) : List Byte :=
  match sub with
  | 1 => b1 0
  | 2 => b8 0
  | 3 => b8 0
  | 4 => b8 0
  | 5 => b8 0
  | 6 => b8 0
  | 7 => b4 0
  | 8 => b4 0
  | 9 => List.replicate 48 0
  | 0x0D => b4 0
  | 0x0E => List.replicate 240 0
  | 0x11 => b1 0
  | _ => []

/-- A quay that attaches, is there, or has failed (R215). -/
def presentQuayBytes (s : State) (q sub : Nat) : List Byte :=
  let qu := s.quay q
  match sub with
  | 1 => b1 qu.state
  | 2 => b8 (dramCap s q)
  | 3 => b8 ((qu.allocs.filter (fun a => a.tier == 0 && decide (a.kind < 2))).foldl (fun n a => n + a.size) 0)
  | 4 => b8 (dramCap s q - allocated qu 0)
  | 5 => b8 flashCap
  | 6 => b8 (allocated qu 1)
  | 7 => b4 qu.inUse
  | 8 => b2 (min qu.highWater 0xFFFF) ++ b2 (min qu.issueWaits 0xFFFF)
  | 9 => (List.range 12).flatMap (fun k => b4 (tget 0 qu.counts k))
  | 0x0A => leadBytes s q
  | 0x0B => (qu.excluded.drop (qu.excluded.length - 1024)).flatMap (fun e => b1 e.1 ++ b1 0 ++ b2 e.2.2 ++ b4 0 ++ b8 e.2.1)
  | 0x0C => qu.damaged.flatMap (fun e => b4 e.1 ++ b4 e.2.1 ++ b8 e.2.2.1)
  | 0x0D => b4 qu.rejects
  | 0x0E => (List.range 60).flatMap (fun i =>
      let v := s.port (60 * q + i)
      b1 v.outcome ++ b1 v.lanes ++ b1 (qu.weight i) ++ b1 0)
  | 0x11 => b1 qu.scan
  | 0x12 => ((s.tensors.filter (fun e => recPrimary e.2.record == q && tensorLost s e.1)).map (fun e => e.1)).flatMap b4
  | 0x13 => (qu.allocs.foldl (fun l a => insertAlloc a l) []).flatMap allocBytes
  | _ => []

def quayBytes (s : State) (q sub : Nat) : List Byte :=
  if (s.quay q).state = 0 then absentQuayBytes sub else presentQuayBytes s q sub

/-! ### Optimizer and ledger (R265, R276, R308) -/

def updateBytes (u : UpdateReport) : List Byte :=
  b8 u.step ++ b4 u.domain ++ b4 u.flags ++ b8 u.g2.toNat ++ b4 u.cf.toNat ++ b4 u.lr.toNat
    ++ (List.range 4).flatMap (fun k => b2 (min (u.lateness.getD k 0) 0xFFFF)) ++ b4 u.touchedRows ++ b4 u.saturations
    ++ b4 u.fallbacks ++ b4 u.lateRoots ++ b2 u.enginesFenced ++ List.replicate 6 0

/-- The preconditioner report (R273): every block of a PRECOND tensor, block a across the input features, block b across the output. -/
def precondBytes (s : State) (tid : Nat) (o : OptState) : List Byte :=
  let g := s.groupRec o.group
  match s.recOf tid with
  | none => []
  | some r =>
    if grpRule g ≠ 2 then []
    else (List.range (32 * recTout r / max 1 (grpBout g) * blocksIn r g)).flatMap (fun unit =>
      let b := tget {} o.blocks unit
      b4 tid ++ b2 (unit % blocksIn r g) ++ b2 (unit / blocksIn r g) ++ b8 b.validFrom ++ b2 (min b.fallback 0xFFFF)
        ++ b1 (min b.attemptsL 0xFF) ++ b1 (min b.attemptsR 0xFF) ++ b4 b.fallbacks ++ b4 b.late ++ List.replicate 4 0)

def shardBytes (e : ShardEntry) : List Byte :=
  b2 e.shard ++ b1 e.status ++ b1 (if e.mirror then 1 else 0) ++ b2 e.nearOnTime ++ b2 e.nearFolded ++ b2 e.nearDropped
    ++ b1 e.farOnTime ++ b1 e.farFolded ++ b1 e.farDropped ++ b1 0 ++ b8 e.streamSum.toNat ++ List.replicate 10 0

/-- The role map's entries. -/
def roleBytes (roles : List (Nat × Nat × Nat × Bool)) : List Byte :=
  roles.flatMap (fun r => b2 r.2.1 ++ b1 r.2.2.1 ++ b1 (if r.2.2.2 then 1 else 0))

/-- A role map in full: one entry for every shard number of the ledger, in ascending number; a shard that holds no slabs stands with its
owner and no mirror (R297, R308). -/
def fullRoles (s : State) (ledger : Nat) (l : List (Nat × Nat × Nat × Bool)) : List (Nat × Nat × Nat × Bool) :=
  match (ledgerParts s).find? (fun p => ledgerOf s p == ledger) with
  | none => l
  | some p =>
    let pl := placeOf s p
    (List.range (4 * pl.m * pl.dd)).map (fun n =>
      match l.find? (fun e => e.1 == n) with
      | some e => e
      | none => (n, (ownerOf s p n).1, (ownerOf s p n).2, false))

/-- A ledger record (R308). A MEMBERSHIP record has the table digest in its bytes 32-95 (log 27). -/
def recordBytes (s : State) (r : LedgerRecord) : List Byte :=
  let head := b4 r.ledger ++ b1 r.kind ++ List.replicate 3 0 ++ b8 r.step ++ b8 r.term ++ b4 r.roleMap ++ b4 r.entries.length
  if r.kind = 3 then head ++ leBytes 64 r.digest.toNat
  else head ++ b8 r.g2.toNat ++ b4 r.flags ++ List.replicate 20 0
    ++ (if r.kind = 2 then roleBytes (fullRoles s r.ledger r.roles) else r.entries.flatMap shardBytes)

/-- The role map in force: every shard's holder, by default its owner (R297, R308). -/
def rolesNow (s : State) : List (Nat × Nat × Nat × Bool) :=
  (ledgerParts s).flatMap (fun p => fullRoles s (ledgerOf s p) ((liveShards s p).map (fun n =>
    let h := holderOf s p n
    (n, h.1, h.2, !mirrorBad s n && !(copyQuays s p n).isEmpty))))

/-- A committed record names a shard of this module: a STEP record by its entries, every other record concerns all (R319; log 27). -/
def namesOwnShard (s : State) (r : LedgerRecord) : Bool :=
  r.kind != 1 || r.entries.any (fun e => (ledgerParts s).any (fun p => ledgerOf s p == r.ledger
    && (List.range 4).any (fun q => ownShard s p q == e.shard)))

/-- The ledger that this module's table names, or that its one committed sequence has. -/
def ledgerNow (s : State) : Nat :=
  match s.ledger.membership with
  | some t => t.ledger
  | none => match s.ledger.committed.head? with | some e => e.1 | none => 0

def optimizerBytes (s : State) (sub : Nat) : List Byte :=
  let l := s.ledger
  match sub with
  | 5 => s.opt.reports.flatMap updateBytes
  | 6 => (s.opt.tensors.filter (fun e => decide (e.1 < mirrorKey))).flatMap (fun e => precondBytes s e.1 e.2)
  | 0x31 => b1 l.state
  | 0x32 => b8 (committedNext s (ledgerNow s) - 1)
  | 0x33 =>
    match l.hm with
    | some h => b8 l.term ++ b2 h.1 ++ b1 h.2 ++ b1 ((hmPosition s).getD 0) ++ b4 l.roleMap
    | none => b8 l.term ++ leBytes 4 0 ++ b4 l.roleMap
  | 0x34 =>
    let own := l.records.filter (namesOwnShard s)
    (own.drop (own.length - 64)).flatMap (recordBytes s)
  | 0x35 => (List.range 6).flatMap (fun k => b4 (tget 0 l.chunks k)) ++ b4 l.framesHeld ++ b4 l.framesDropped ++ b4 l.rejectsReceived
  | 0x36 => l.lags.flatMap (fun e => b8 e.1 ++ leBytes 4 (unsignedOf 32 e.2))
  | 0x37 => roleBytes (rolesNow s)
  | _ => []

/-! ### Governors and pairs (R239, R246, R289) -/

/-- A fraction as an FP32 value. -/
def ratioF32 (e : Nat × Nat) : F32 := if e.2 = 0 then fZero else fdiv (f32OfInt e.1) (f32OfInt e.2)

/-- A governor layer at `0x6100.10` + p (R239): the overflows are those of the last step in its window. -/
def layerBytes (layer : Nat) (f : FormatState) : List Byte :=
  b2 layer ++ b1 f.inForce ++ b1 (unsignedOf 8 f.k) ++ b1 f.lastChoice ++ b1 (min f.run 0xFF) ++ b1 f.pin ++ b1 (min f.forced 0xFF)
    ++ leBytes 4 f.aHat.toNat ++ (List.range 3).flatMap (fun k => leBytes 4 (ratioF32 (f.uHat.getD k (0, 0))).toNat)
    ++ b4 (match f.window.getLast? with | some st => st.overflow | none => 0) ++ b4 (if f.delayed then 1 else 0)

def stashBytes (l : StashLine) : List Byte :=
  bTime l.time ++ b8 l.step ++ b2 l.outer ++ b1 l.bit ++ b1 l.kind ++ b1 l.s ++ b1 l.smax ++ List.replicate 10 0

def governorBytes (s : State) (idx sub : Nat) : List Byte :=
  if idx = 0x6100 then
    if sub = 2 then b1 (s.volatile 0x6100 2)
    else
      let g := s.gov (sub - 0x10)
      g.layers.flatMap (fun e => layerBytes e.1 e.2)
  else if idx = 0x6200 then (s.gov (sub - 0x10)).stashLog.flatMap stashBytes
  else if sub < 0x30 then
    (s.pair (sub - 0x20)).report.flatMap (fun e => b8 e.1 ++ b2 e.2.1 ++ b1 e.2.2.1 ++ b1 (if e.2.2.2.1 then 1 else 0) ++ b4 e.2.2.2.2)
  else (List.range 9).flatMap (fun k => b4 (tget 0 (s.pair (sub - 0x30)).counts k))

/-! ### Ports, events, heat, power (R337, R374, R377, R420) -/

def portBytes (s : State) (i : Nat) : List Byte :=
  let v := s.port i
  let out := if portFused s i then 5 else v.outcome
  let timed := (partsWhere (fun p => linkUses s p i)) != []
  let flags := (if timed then 1 else 0) + (if unitOff s 4 i then 2 else 0) + (if v.retrainPending then 4 else 0)
    + (if i ∈ upstreamPorts s then 8 else 0)
  b1 out ++ b1 v.lanes ++ b2 v.map ++ b1 v.calib ++ b1 flags ++ b2 v.retrains ++ b4 v.latency16
    ++ leBytes 4 (fdiv (f32OfInt v.worst9) (f32OfInt 1000000000)).toNat

def eventBytes (e : Event) : List Byte :=
  bTime e.time ++ b4 e.seq ++ b1 e.severity ++ b1 0 ++ b2 e.code ++ leBytes 4 e.unit ++ leBytes 4 e.detail ++ b8 e.utc

def tileBytes' (x : Tile) : List Byte :=
  leBytes 2 (unsignedOf 16 x.temp16) ++ b1 x.state.number ++ b1 0 ++ b2 (min x.atLimit 0xFFFF) ++ b2 0

/-- Measured electrical and coolant quantities are the world's: free values (log 8). -/
def measured (s : State) (n k : Nat) : List Byte := (List.range n).map (fun i => Config.freeByte s.freeCtr (1000 * k + i))

def deviceBytes (s : State) (idx sub : Nat) : List Byte :=
  if idx = 0x7000 then
    (if sub = 2 then (List.range 640).flatMap (portBytes s) else fitBytes 1024 s.bring.service)
  else if idx = 0x8000 then
    if sub = 1 then b4 s.log.seq
    else if sub = 2 then fitBytes 131072 (s.log.entries.flatMap eventBytes)
    else b4 s.log.overwritten
  else
    match sub with
    | 3 => (List.range 48).flatMap (fun t => tileBytes' (s.tile t))
    | 4 => leBytes 2 (unsignedOf 16 s.thermal.inlet16)
    | 6 => b1 (shedMask s)
    | 0x10 => b1 (powerNumber s)
    | 0x12 => measured s 44 1
    | 0x13 => (List.range 5).flatMap (fun i => measured s 6 (2 + i) ++ b2 0)
    | 0x14 => b8 s.power.lossUtc ++ b4 s.power.lossMv ++ b1 s.power.lossState ++ b1 s.power.lossKind ++ b2 0
    | _ => b2 (sideband s)

/-! ### Security (R436, R440, R442) -/

def securityBytes (s : State) (cl : Client) (sub : Nat) : List Byte :=
  match sub with
  | 2 =>
    b1 s.fw.stagingState ++ b1 0 ++ b2 s.fw.stagingDetail
      ++ (match s.fw.staging with | some i => leBytes 4 i.version.toNat ++ b1 i.security | none => List.replicate 5 0) ++ List.replicate 7 0
  | 7 => match s.fw.reports.find? (fun e => e.1 == cl) with | some e => e.2 | none => []
  | 9 =>
    b1 s.fw.counter ++ b1 (if s.fw.ownerFused then 1 else 0) ++ List.replicate 6 0 ++ leBytes 64 s.fw.vendorHash.toNat
      ++ leBytes 64 (if s.fw.ownerFused then s.fw.ownerHash.toNat else 0)
  | 0x10 => s.fw.identityKey
  | 0x11 => s.fw.chain
  | _ => []

/-! ### Every object -/

/-- The value of a readable object as a client reads it. -/
def objectBytes (s : State) (cl : Client) (idx sub : Nat) : List Byte :=
  match objInfo idx sub with
  | none => []
  | some o =>
    if sub = 0 then b1 (highestSub idx)
    else if o.saved then savedBytes s.sivar.config (okey idx sub)
    else if idx = 0x1000 ∨ idx = 0x1100 then identityBytes s idx sub
    else if idx = 0x2000 then controlBytes s sub
    else if within idx 0x2100 8 then partitionBytes s (idx - 0x2100) sub
    else if idx = 0x3000 ∨ idx = 0x3100 then bringUpBytes s idx sub
    else if idx = 0x4000 then tideBytes s sub
    else if within idx 0x4101 8 ∨ within idx 0x4110 8 then imageBytes s idx sub
    else if within idx 0x5000 4 then quayBytes s (idx - 0x5000) sub
    else if idx = 0x5100 then
      (if sub = 1 then b4 s.tensors.length else s.tensors.flatMap (fun e => recordReport e.2))
    else if idx = 0x6000 then optimizerBytes s sub
    else if idx = 0x6100 ∨ idx = 0x6200 ∨ idx = 0x6300 then governorBytes s idx sub
    else if idx = 0x7000 ∨ idx = 0x8000 ∨ idx = 0x9000 then deviceBytes s idx sub
    else securityBytes s cl sub

end Sys2Proof.Machine
end

