-- ==== Sys2Proof/Machine/Firmware.lean ====
section
/-! DEFINITION. Firmware images, fuses and attestation (R435-R442), and the controller's return from a restart (R376, R440). -/

namespace Sys2Proof.Machine

/-! ### The image as bytes (R435) -/

/-- Directory entries of a body: type, offset, length. -/
def firmwareDir (body : List Byte) (n : Nat) : List (Nat × Nat × Nat) :=
  (List.range n).map (fun k => (leAt body (16 * k) 2, leAt body (16 * k + 4) 4, leAt body (16 * k + 8) 4))

/-- Two sections overlap, or one leaves the body. -/
def dirClash (len : Nat) : List (Nat × Nat × Nat) → Bool
  | [] => false
  | e :: l => decide (len < e.2.1 + e.2.2)
      || l.any (fun f => decide (e.2.1 < f.2.1 + f.2.2 ∧ f.2.1 < e.2.1 + e.2.2)) || dirClash len l

/-- Digest of the section of a type; of the empty string where the image has none. -/
def sectionDigest (body : List Byte) (dir : List (Nat × Nat × Nat)) (type : Nat) : BitVec 512 :=
  match dir.find? (fun e => e.1 == type) with
  | some e => Config.sha3 ((body.drop e.2.1).take e.2.2)
  | none => Config.sha3 []

/-- The fields of an uploaded image. One whose length is not header and body together is malformed. -/
def firmwareOf (v : List Byte) : FirmwareImage :=
  let body := v.drop 16384
  let n := leAt v 10 2
  let dir := firmwareDir body (min n 8)
  let wrong := decide (v.length ≠ 16384 + leAt v 16 8)
  { magic := leAt v 0 4, version := BitVec.ofNat 32 (leAt v 4 4), security := leAt v 8 1, flags := leAt v 9 1, sections := n
    zero := leAt v 12 4 + leAt v 14526 1858 + (if wrong then 1 else 0), bodyLength := leAt v 16 8, dirTypes := dir.map (fun e => e.1)
    dirOverlap := dirClash body.length dir, bodyDigest := BitVec.ofNat 512 (leAt v 24 64), bodyHash := Config.sha3 body
    vendorKey := (v.drop 88).take 2592, ownerKey := (v.drop 2680).take 2592, vendorSig := (v.drop 5272).take 4627
    ownerSig := (v.drop 9899).take 4627, headerHash := Config.sha3 (v.take 5272), mcDigest := sectionDigest body dir 1
    quayDigest := sectionDigest body dir 2, opticalDigest := sectionDigest body dir 3 }

/-! ### Upload, apply, discard (R440) -/

/-- The status of a check's detail. -/
def detailStatus (d : Nat) : Nat := if d = 0 then stOk else if d ≤ 3 then stSignature else if d = 4 then stVersion else stRange

/-- FIRMWARE_UPLOAD: checked against the fuses; a failing image leaves nothing staged. -/
def doFirmwareUpload (i : FirmwareImage) (s : State) : State × Nat :=
  if s.fw.stagingState = 2 then (s, stBusy)
  else
    let d := firmwareDetail s i
    ({ s with fw := { s.fw with
        stagingDetail := d, stagingState := if d = 0 then 1 else 0, staging := if d = 0 then some i else none } }, detailStatus d)

/-- FIRMWARE_UPLOAD. -/
def execFirmwareUpload (cl : Client) (img : FirmwareImage) (s : State) : Out := .next (s.loaderCommand cl true (doFirmwareUpload img))

/-- Every function is STOPPED (R388). -/
def allStopped (s : State) : Bool := decide (partsWhere (fun p => decide ((s.part p).run ≠ .stopped)) = []) && decide (s.tide.run = .stopped)

/-- APPLY: deferred and journalled; the flash write takes at most 30 s. -/
def doApply (s : State) : State × Nat :=
  if s.fw.stagingState = 2 then (s, stBusy)
  else if s.fw.stagingState ≠ 1 ∨ !allStopped s then (s, stState)
  else
    let s1 := (s.journal jApply 0 (s.now + 30 * 1500000000)).openTicket 0xA000 3
    ({ s1 with
      fw := { s1.fw with stagingState := 2, applyTicket := s.sivar.nextTicket }
      sivar := { s1.sivar with tickets := s1.sivar.tickets.map (fun t =>
        if t.number = s.sivar.nextTicket then { t with journalled := true } else t) } }, stOk)

/-- APPLY. -/
def execApply (cl : Client) (s : State) : Out := .next (s.loaderCommand cl true doApply)

/-- DISCARD_STAGING. -/
def doDiscardStaging (s : State) : State × Nat :=
  if s.fw.stagingState = 2 then (s, stBusy)
  else ({ s with fw := { s.fw with stagingState := 0, staging := none } }, stOk)

/-- DISCARD_STAGING. -/
def execDiscardStaging (cl : Client) (s : State) : Out := .next (s.command cl true doDiscardStaging)

/-- FIRMWARE_RESTART: the single stored image is overwritten, then the processor restarts as a watchdog restart does. -/
def execFirmwareRestart (s : State) : Out :=
  .next (
    if s.fw.stagingState ≠ 2 ∨ s.mc.restarting then s
    else
      let s1 := s.journalDone jApply 0
      let s2 : State := { s1 with fw := { s1.fw with stored := s1.fw.staging } }
      let s3 := s2.restart false
      { s3 with mc := { s3.mc with applying := true } })

/-- JOURNAL_REPLAY: 8 s after the restart. Where the ROM refuses the image the recovery loader starts; else the journal is replayed,
the dropped entries are counted, and the buffers drain. An apply that was under way ends with OK; from the loader, S0 ends. -/
def execJournalReplay (s : State) : Out :=
  .next (
    if !s.mc.restarting then s
    else
      let s0 := s.advance (s.now + 8 * 1000000 * cyPerTick)
      if romDetail s0 ≠ 0 then s0.enterLoader (romDetail s0)
      else
        let lost := (s0.mc.journal.filter (fun e => !e.done && !replays s0 e && e.kind != jApply)).length
        let s1 : State := { s0 with
          mc := { s0.mc with
            restarting := false
            dropped := lost
            journal := s0.mc.journal.filter (replays s0)
            applying := false
            expired := false }
          fw := { s0.fw with running := s0.fw.stored, stagingState := if s0.mc.applying then 0 else s0.fw.stagingState
                             staging := if s0.mc.applying then none else s0.fw.staging } }
        let s2 := if s0.mc.applying then s1.endTicket s0.fw.applyTicket stOk else s1
        let s3 := if s0.mc.expired then s2.event sevFault evWatchdog 0 lost else s2
        let s4 := s3.drainBuffers
        if s4.bring.loader then ({ s4 with bring := { s4.bring with loader := false, stopped := false } }).endS0 { result := 0 } else s4)

/-! ### Fuses (R436, R438, R439) -/

/-- Security version of the running image. -/
def runningSecurity (s : State) : Nat := match s.fw.running with | some i => i.security | none => 0

/-- COUNTER_ADVANCE: fuses are blown one at a time, each journalled. -/
def doCounterAdvance (s : State) : State × Nat :=
  if s.fw.stagingState = 2 then (s, stBusy)
  else if runningSecurity s ≤ s.fw.counter then (s, stState)
  else
    let s1 := (List.range' s.fw.counter (runningSecurity s - s.fw.counter)).foldl
      (fun (t : State) k => (t.journal jFuse k t.now).journalDone jFuse k) s
    ({ s1 with fw := { s1.fw with counter := runningSecurity s } }, stOk)

/-- COUNTER_ADVANCE. -/
def execCounterAdvance (cl : Client) (s : State) : Out := .next (s.command cl true doCounterAdvance)

/-- OWNER_KEY_FUSE. -/
def doOwnerKeyFuse (hash : BitVec 512) (s : State) : State × Nat :=
  if s.fw.ownerFused then (s, stState)
  else
    match s.fw.running with
    | none => (s, stSignature)
    | some i =>
      if ownerSigned i hash then ({ s with fw := { s.fw with ownerFused := true, ownerHash := hash } }, stOk) else (s, stSignature)

/-- OWNER_KEY_FUSE. -/
def execOwnerKeyFuse (cl : Client) (hash : BitVec 512) (s : State) : Out := .next (s.command cl true (doOwnerKeyFuse hash))

/-! ### Attestation (R442) -/

/-- A digest as bytes. -/
def b64 (d : BitVec 512) : List Byte := leBytes 64 d.toNat

/-- S1 of this start has ended. -/
def pastS1 (s : State) : Bool := !s.bring.active || decide (2 ≤ s.bring.stage)

/-- Bytes 88 to 807 of the report: the measured values. -/
def measurements (s : State) : List Byte :=
  let img := fun (f : FirmwareImage → BitVec 512) => match s.fw.running with | some i => f i | none => 0
  leBytes 4 (match s.fw.running with | some i => i.version.toNat | none => 0) ++ b1 (runningSecurity s) ++ b1 s.fw.counter
    ++ b1 (if s.fw.ownerFused then 1 else 0) ++ b1 (s.cfg 0xA000 8) ++ b64 s.fw.vendorHash
    ++ b64 (if s.fw.ownerFused then s.fw.ownerHash else 0) ++ b64 (img (fun i => i.mcDigest))
    ++ (List.range 4).flatMap (fun q => b64 (if (s.quay q).state = 0 then 0 else s.fw.quayDigest)) ++ b64 s.fw.opticalDigest
    ++ b64 (if pastS1 s then manifestDigest s else 0) ++ b64 (if pastS1 s then overlayDigest s else 0)
    ++ b4 s.sivar.version ++ leBytes 4 0 ++ b64 (configDigest s.sivar.config)

/-- Bytes 0 to 815 of the report. -/
def reportBody (s : State) (nonce : List Byte) : List Byte :=
  leBytes 4 0x5454414E ++ b2 1 ++ b2 0 ++ nonce ++ b8 s.utc ++ bTime s.now ++ fitBytes 32 s.ident.serial ++ measurements s ++ leBytes 8 0

/-- The report of a nonce, signed. -/
def attestation (s : State) (nonce : List Byte) : List Byte :=
  reportBody s nonce ++ Config.identitySign (Config.sha3 (reportBody s nonce))

/-- ATTESTATION_REQUEST: the client's own report, until its next one. -/
def doAttestation (cl : Client) (nonce : List Byte) (s : State) : State × Nat :=
  if nonce.length ≠ 32 then (s, stRange)
  else
    ({ s with fw := { s.fw with reports := (s.fw.reports.filter (fun e => e.1 != cl)) ++ [(cl, attestation s nonce)] } }, stOk)

/-- ATTESTATION_REQUEST. -/
def execAttestationRequest (cl : Client) (nonce : List Byte) (s : State) : Out := .next (s.command cl true (doAttestation cl nonce))

/-- SPDM_GET_MEASUREMENTS: blocks 1 to 11, signed by the identity key (the framing of SPDM is another standard's: log 12). -/
def execSpdmGetMeasurements (i : Nat) (s : State) : Out :=
  onHost i (
    if !s.serving || !(s.host i).up then s
    else s.answerData (measurements s ++ Config.identitySign (Config.sha3 (measurements s))))

end Sys2Proof.Machine
end

