-- ==== Sys2Proof/Machine/Objects.lean ====
section
/-! DEFINITION. How a saved object changes: the checks on its value, its owners and the configuration that would result (R386, R390, R392),
its effect, drafts, commits, REVERT and defaults (R393-R396). -/

namespace Sys2Proof.Machine

/-! ### Value ranges, as each object's own table gives them -/

/-- A domain record (R275). -/
def domainOk (v : List Byte) : Bool :=
  let n := leAt v 4 2
  let theta := BitVec.ofNat 32 (leAt v 0 4)
  let at' := fun (i : Nat) => leAt v (16 * i + 16) 8
  decide (1 ≤ n ∧ n ≤ 255 ∧ v.length = 16 + 16 * n ∧ leAt v 6 10 = 0) && fNonneg theta
    && (List.range n).all (fun i =>
      decide (i = 0 ∨ at' (i - 1) < at' i) && fNonneg (BitVec.ofNat 32 (leAt v (16 * i + 24) 4)) && decide (leAt v (16 * i + 28) 4 = 0))

/-- A route table (R293): zero bits, no reserved code, no fused port. -/
def routesOk (s : State) (v : List Byte) : Bool :=
  decide (v.length = 32768) && (List.range 16384).all (fun m =>
    let e := leAt v (2 * m) 2
    let edge := e / 16384
    decide (edge < 3 ∧ e / 128 % 128 = 0) && (edge == 0 || !portFused s (fabricPort (edge - 1) (e % 128))))

/-- The upstream ports of the tide domain (R183): each none or a port that is there. -/
def upstreamOk (s : State) (w : Nat) : Bool :=
  [w / 65536 % 65536, w % 65536].all (fun h =>
    h == 0xFFFF || (decide (h / 128 % 256 = 0) && !portFused s (fabricPort (h / 32768) (h % 128))))

/-- A management port's address (R413). -/
def addressOk (v : List Byte) : Bool :=
  decide (v.length = 28 ∧ leAt v 0 1 ≤ 1 ∧ leAt v 1 1 ≤ 32 ∧ leAt v 2 1 ≤ 128 ∧ leAt v 3 1 = 0)

/-- A host key slot (R402): empty, or a role and a key. -/
def keySlotOk (v : List Byte) : Bool :=
  v.isEmpty || decide (v.length = 2600 ∧ 1 ≤ leAt v 0 1 ∧ leAt v 0 1 ≤ 3 ∧ leAt v 1 7 = 0)

/-- The fewest landing rows that a pair of one token and one slice needs (R283): the record names neither count (log 63). -/
def prLeastRows (b : List Byte) : Nat := if prMode b = 0 then ceilDiv (8 * prK b + 4) 512 else 1

/-- A pair record (R279): its fields, and the entries it names in the images at hand. -/
def pairOk (s : State) (p : Nat) (b : List Byte) : Bool :=
  b.isEmpty
    || (decide (b.length = 32 ∧ prTeacher b ≤ 7 ∧ prTeacher b ≠ p ∧ prWindow b ≤ 15 ∧ prLeastRows b ≤ prRows b ∧ prRows b ≤ 4096 ∧ prHard b ≤ 15)
      && decide (leAt b 15 1 = 0 ∧ prMask b ≠ 0 ∧ leAt b 23 1 = 0 ∧ leAt b 26 6 = 0 ∧ (prModule b < 16384 ∨ prModule b = 0xFFFF))
      && (if prMode b = 0 then decide (1 ≤ prK b ∧ prK b ≤ 64) else decide (prMode b = 1 ∧ prK b = 0))
      && (match imageFor s p with | some i => pairEntriesOk b i | none => true)
      && (!teacherHere s b || (match imageFor s (prTeacher b) with | some t => decide (prEnd b < t.tide.length) | none => true)))

/-- The membership table's fields (R296): E_RANGE, then E_VERSION, which an empty table written between does not lift. -/
def tableStatus (s : State) (v : List Byte) : Option Nat :=
  if v.isEmpty then none
  else
    match decodeTable v with
    | none => some stRange
    | some t =>
      if !tableOk s t then some stRange
      else
        if t.version < s.ledger.tableVersion then some stVersion else none

/-- The range of a saved scalar. -/
def scalarOk (s : State) (idx sub n : Nat) : Bool :=
  if idx = 0x1000 then decide (n < 16384)
  else if within idx 0x2100 8 then
    (match sub with
     | 2 => decide (n ≤ 7)
     | 3 => decide (n ≤ 8)
     | 4 => decide (n ≤ 1)
     | 5 => decide (n ≤ 7 ∨ n = 0xFF)
     | _ => true)
  else if idx = 0x3100 then decide (sub ≠ 1 ∨ n ≤ 2)
  else if idx = 0x4000 then (sub != 8 || upstreamOk s n)
  else if idx = 0x6200 then decide (n ≤ 2 ∨ (sub ≠ 1 ∧ n = 0xFF))
  else if idx = 0x6300 then decide (n ≤ 2)
  else if idx = 0x8000 then (if sub = 3 then decide (n ≤ 2) else decide (n ≤ 4))
  else if idx = 0x9000 then
    (match sub with
     | 1 => true
     | 2 => decide (n ≤ 1)
     | _ => decide (70 ≤ n ∧ n ≤ 95))
  else decide (n ≤ 1)

/-- The value of a saved object: none where its table takes it. -/
def valueStatus (s : State) (key : Nat) (v : List Byte) : Option Nat :=
  let idx := key / 256
  let sub := key % 256
  let ok := fun (b : Bool) => if b then none else some stRange
  match definedObj idx sub with
  | none => some stSubindex
  | some o =>
    if 0 < o.type.width then ok (scalarOk s idx sub (leNat v))
    else if idx = 0x1000 then ok (addressOk v)
    else if within idx 0x2100 8 then ok (routesOk s v)
    else if within idx 0x5000 4 then ok (v.isEmpty || decide (v.length = 262144))
    else if idx = 0x6300 then ok (pairOk s (sub - 0x10) v)
    else if idx = 0xA000 then (if sub < 0x40 then ok (keySlotOk v) else ok (v.isEmpty || decide (v.length = 2592)))
    else if sub = 0x30 then tableStatus s v
    else if sub < 0x20 then ok (decide (v.length = 64) && groupOk (BitVec.ofNat 512 (leNat v)))
    else ok (domainOk v)

/-- The type and length of a value (R382): E_TYPE, then what the type itself rules out. -/
def typeStatus (o : ObjInfo) (v : List Byte) : Option Nat :=
  match o.type with
  | .blob => if o.max < v.length then some stCapacity else none
  | .string => if o.max < v.length then some stRange else none
  | .bool => if v.length ≠ 1 then some stType else if 1 < leNat v then some stRange else none
  | .time => if v.length ≠ 8 then some stType else if !timeLegal (BitVec.ofNat 64 (leNat v)) then some stRange else none
  | t => if v.length ≠ t.width then some stType else none

/-! ### Owners (R390) -/

/-- Some partition is not STOPPED. -/
def partsBusy (s : State) : Bool := (partsWhere (fun p => decide ((s.part p).run ≠ .stopped))) != []

/-- A partition of a pair that is not STOPPED: the student, or a teacher that the record has or is to have; whether one on another module is
STOPPED cannot be seen from here and is free (R278, log 28). -/
def pairBusy (s : State) (p : Nat) (v : List Byte) : Bool :=
  let running := fun (q : Nat) => decide ((s.part q).run ≠ .stopped)
  let teacher := fun (b : List Byte) =>
    !b.isEmpty && (if teacherHere s b then running (prTeacher b) else Config.freeBool s.freeCtr (8 * p + 6))
  running p || teacher (pairBytes s p) || teacher v

/-- The owners of a saved object: none where every one is STOPPED. -/
def ownerStatus (s : State) (key : Nat) (v : List Byte) : Option Nat :=
  let idx := key / 256
  let sub := key % 256
  let need := fun (busy : Bool) (st : Nat) => if busy then some st else none
  if key = okey 0x1000 0x0A then need (partsBusy s || decide (s.tide.run ≠ .stopped)) stState
  else if within idx 0x2100 8 then need (decide ((s.part (idx - 0x2100)).run ≠ .stopped)) stState
  else if idx = 0x4000 then
    (if sub ≠ 8 ∧ partsBusy s then some stBusy else need (decide (s.tide.run ≠ .stopped)) stState)
  else if within idx 0x5000 4 then need ((partsWhere (fun p => s.busyPart p && (feedOf s p).isSome)) != []) stBusy
  else if idx = 0x6300 ∧ within sub 0x10 8 then need (pairBusy s (sub - 0x10) v) stState
  else if idx = 0x6000 ∧ within sub 0x10 16 then need ((groupTensors s (sub - 0x10)).any (feedBusy s)) stState
  else if idx = 0x6000 ∧ within sub 0x20 8 then
    need (s.busyPart (sub - 0x20) || (groupParts s (sub - 0x20)).any (fun k => s.busyPart k)) stState
  else if key = okey 0x6000 0x30 then
    need ((feeders s).any (fun p => (v.isEmpty || s.ledger.membership.isSome || ledgerOf s p == leAt v 0 4)
      && (groupParts s p).any (fun k => s.busyPart k))) stState
  else none

/-! ### Rules across objects (R394) -/

/-- Width of a partition in a configuration. -/
def cfgWidth (cfg : Tbl (List Byte)) (p : Nat) : Nat := cfgOf cfg (0x2100 + p) 3

/-- A tile column of a partition's band in a configuration. -/
def cfgHas (cfg : Tbl (List Byte)) (p tx : Nat) : Bool :=
  decide (cfgOf cfg (0x2100 + p) 2 ≤ tx ∧ tx < cfgOf cfg (0x2100 + p) 2 + cfgWidth cfg p)

/-- The placement of a partition (R163, R343). -/
def placementStatus (s : State) (cfg : Tbl (List Byte)) (p : Nat) : Option Nat :=
  if cfgWidth cfg p = 0 then none
  else if 8 < cfgOf cfg (0x2100 + p) 2 + cfgWidth cfg p then some stRange
  else if (List.range 8).any (fun q => q != p && (List.range 8).any (fun tx => cfgHas cfg p tx && cfgHas cfg q tx)) then some stState
  else if s.bring.tests.any (fun t => (List.range 48).any (fun u => t.tiles.getLsbD u && cfgHas cfg p (u % 8))) then some stBusy
  else none

/-- The slot that a partition names holds an image of its width (R163). -/
def slotStatus (s : State) (cfg : Tbl (List Byte)) (p : Nat) : Option Nat :=
  let k := cfgOf cfg (0x2100 + p) 5
  if k = 0xFF then none
  else
    match (s.slotOf k).image with
    | none => some stState
    | some i => if i.header.width = cfgWidth cfg p then none else some stState

/-- Whether a configuration keeps a host key of role ADMIN, or no session of that role is open (R402). -/
def adminKept (s : State) (cfg : Tbl (List Byte)) : Bool :=
  (List.range 16).any (fun k => leAt (tget [] cfg (okey 0xA000 (0x20 + k))) 0 1 == 3)
    || !((List.range 8).any (fun k => match s.session k with | some x => x.role == 3 | none => false))

/-- The landing columns of a pair lie in the student's band and none is fused (R279). -/
def landingOk (s : State) (cfg : Tbl (List Byte)) (p : Nat) : Bool :=
  let b := tget [] cfg (okey 0x6300 (0x10 + p))
  let x0 := 24 * cfgOf cfg (0x2100 + p) 2
  b.isEmpty || (decide (prFirstCol b + prCols b ≤ 24 * cfgWidth cfg p)
    && (List.range (prCols b)).all (fun i => columnExists s (x0 + prFirstCol b + i)))

/-- The rules across objects that an object takes part in, on the configuration that would result. -/
def crossStatus (s : State) (cfg : Tbl (List Byte)) (key : Nat) : Option Nat :=
  let idx := key / 256
  let sub := key % 256
  if within idx 0x2100 8 then
    let p := idx - 0x2100
    if sub = 2 then placementStatus s cfg p
    else if sub = 3 then
      (match placementStatus s cfg p with
       | some st => some st
       | none => if cfgWidth cfg p = 0 then none else slotStatus s cfg p)
    else if sub = 5 then slotStatus s cfg p
    else none
  else if (idx = 0x4000 ∧ (sub = 3 ∨ sub = 0x0D)) ∨ key = okey 0x1000 0x0A then
    (if cfgOf cfg 0x4000 0x0D ≠ 0xFFFF ∧ cfgOf cfg 0x4000 0x0D = cfgOf cfg 0x4000 3 then some stRange else none)
  else if idx = 0xA000 ∧ within sub 0x20 16 then (if adminKept s cfg then none else some stState)
  else if idx = 0x6300 ∧ within sub 0x10 8 then (if landingOk s cfg (sub - 0x10) then none else some stRange)
  else none

/-! ### Effects -/

/-- Closes a session: its staging, its draft and its attestation report go (R393, R401, R404, R442). -/
def State.closeSession (s : State) (k : Nat) : State :=
  { s with
    sivar := { s.sivar with
      sessions := tput none s.sivar.sessions k none
      draft := match s.sivar.draft with | some d => if d.owner = .session k then none else some d | none => none }
    fw := { s.fw with reports := s.fw.reports.filter (fun e => e.1 != .session k) } }

/-- A governor's pin (R19). -/
def isPin (key : Nat) : Bool :=
  decide (key ∈ [okey 0x3100 1, okey 0x6000 1, okey 0x6200 1, okey 0x6300 1, okey 0x7000 1, okey 0x9000 1, okey 0x9000 2])
    || (decide (key / 256 = 0x6200) && within (key % 256) 2 8)

/-- A pin written while partitions run: each keeps the old value until its next step (R20). -/
def State.holdPin (s : State) (key old : Nat) : State :=
  (List.range 8).foldl (fun (t : State) p =>
    if !(t.part p).marks || (t.ctlOf p).pins.any (fun e => e.1 == key) then t
    else t.setCtl p { t.ctlOf p with pins := (t.ctlOf p).pins ++ [(key, old)] }) s

/-- What a new value does before it is in force; what can still fail is space. -/
def State.prepareValue (s : State) (key : Nat) (v : List Byte) : State × Nat :=
  let sub := key % 256
  if key / 256 ≠ 0x6000 then (s, stOk)
  else if within sub 0x10 16 then prepareGroup (sub - 0x10) (BitVec.ofNat 512 (leNat v)) s
  else if sub = 0x30 then prepareTable (decodeTable v) s
  else (s, stOk)

/-- What it does once in force. `before` is the state before the change. Which sessions run over a management port is not the state's: a
free value (log 9). -/
def State.settleValue (s before : State) (key : Nat) : State :=
  let idx := key / 256
  let sub := key % 256
  let s1 := if isPin key then s.holdPin key (before.cfg idx sub) else s
  if key = okey 0x7000 1 then (List.range 640).foldl (fun (t : State) i => t.pinNarrow i) s1
  else if idx = 0x1000 ∧ within sub 0x10 2 then
    ((List.range 8).foldl (fun (t : State) k => if Config.freeBool s.freeCtr (8 * sub + k) then t.closeSession k else t) s1).bump
  else if idx = 0x6000 ∧ within sub 0x10 16 then settleGroup (sub - 0x10) s1
  else if key = okey 0x6000 0x30 then settleTable s.ledger.membership before.ledger.state s1
  else s1

/-- The first failing check of a list of objects: its status and its key. -/
def firstKey (f : Nat → Option Nat) : List Nat → Option (Nat × Nat)
  | [] => none
  | k :: l => match f k with | some st => some (st, k) | none => firstKey f l

/-- Prepares every changed object, up to the first that fails. -/
def prepareAll (cfg : Tbl (List Byte)) : List Nat → State → State × Nat × Nat
  | [], s => (s, stOk, 0)
  | k :: l, s =>
    let r := s.prepareValue k (savedBytes cfg k)
    if r.2 ≠ stOk then (s, r.2, k) else prepareAll cfg l r.1

/-- Puts a configuration in force as one new version where every check on the changed objects passes: owners, rules across objects, space
(R394). The answer is the status and the object that fails. -/
def State.adopt (s : State) (cfg : Tbl (List Byte)) (keys : List Nat) (checked : Bool) : State × Nat × Nat :=
  let fails := if !checked then none
    else
      match firstKey (fun k => ownerStatus s k (savedBytes cfg k)) keys with
      | some e => some e
      | none => firstKey (crossStatus s cfg) keys
  match fails with
  | some e => (s, e.1, e.2)
  | none =>
    let r := prepareAll cfg keys s
    if r.2.1 ≠ stOk then (s, r.2)
    else (keys.foldl (fun (t : State) k => t.settleValue s k) (r.1.newConfig cfg), stOk, 0)

/-- A direct write of one saved object (R392): its value, a draft that holds it, its owners, the rules across objects. -/
def State.writeSaved (s : State) (key : Nat) (v : List Byte) : State × Nat :=
  match valueStatus s key v with
  | some st => (s, st)
  | none =>
    if s.drafted key then (s, stBusy)
    else
      let r := s.adopt (tset s.sivar.config key v) [key] true
      (r.1, r.2.1)

/-! ### Rows of single objects -/

/-- GROUP_RECORD_WRITE at `0x6000.10` + g. -/
def execGroupRecordWrite (cl : Client) (g : Nat) (rec : BitVec 512) (s : State) : Out :=
  .next (s.command cl false (fun t => if 15 < g then (t, stSubindex) else t.writeSaved (okey 0x6000 (0x10 + g)) (leBytes 64 rec.toNat)))

/-- The table as the bytes that its fields spell; a field too wide for its bytes is out of range. -/
def doMembershipWrite (table : Option Membership) (s : State) : State × Nat :=
  match table with
  | none => s.writeSaved (okey 0x6000 0x30) []
  | some t => if decodeTable (encodeTable t) = some t then s.writeSaved (okey 0x6000 0x30) (encodeTable t) else (s, stRange)

/-- MEMBERSHIP_WRITE at `0x6000.30`. -/
def execMembershipWrite (cl : Client) (table : Option Membership) (s : State) : Out :=
  .next (s.command cl false (doMembershipWrite table))

/-- KEY_SLOT_WRITE at `0xA000.20` + k. -/
def doKeySlotWrite (k : Nat) (data : List Byte) (s : State) : State × Nat :=
  if 15 < k then (s, stSubindex)
  else if 2600 < data.length then (s, stCapacity)
  else s.writeSaved (okey 0xA000 (0x20 + k)) data

/-- KEY_SLOT_WRITE. -/
def execKeySlotWrite (cl : Client) (k : Nat) (data : List Byte) (s : State) : Out := .next (s.command cl true (doKeySlotWrite k data))

/-! ### Drafts (R393) -/

/-- OPEN_DRAFT. -/
def doOpenDraft (cl : Client) (s : State) : State × Nat :=
  if s.sivar.draft.isSome then (s, stBusy) else ({ s with sivar := { s.sivar with draft := some { owner := cl, values := [] } } }, stOk)

/-- OPEN_DRAFT. -/
def execOpenDraft (cl : Client) (s : State) : Out := .next (s.command cl false (doOpenDraft cl))

/-- The client owns the open draft. -/
def ownsDraft (s : State) (cl : Client) : Bool := match s.sivar.draft with | some d => d.owner == cl | none => false

/-- DISCARD_DRAFT. -/
def doDiscardDraft (cl : Client) (s : State) : State × Nat :=
  if ownsDraft s cl then ({ s with sivar := { s.sivar with draft := none } }, stOk) else (s, stState)

/-- DISCARD_DRAFT. -/
def execDiscardDraft (cl : Client) (s : State) : Out := .next (s.command cl false (doDiscardDraft cl))

/-- A write into the draft: the value is checked now, owners and rules across objects at the commit. -/
def State.draftWrite (s : State) (cl : Client) (key : Nat) (v : List Byte) : State × Nat :=
  match valueStatus s key v with
  | some st => (s, st)
  | none =>
    match s.sivar.draft with
    | none => (s, stState)
    | some d =>
      if d.owner ≠ cl then (s, stState)
      else
        let vs := if d.values.any (fun e => e.1 == key) then d.values.map (fun e => if e.1 = key then (key, v) else e) else d.values ++ [(key, v)]
        if 512 < vs.length ∨ 4194304 < vs.foldl (fun n e => n + e.2.length) 0 then (s, stCapacity)
        else ({ s with sivar := { s.sivar with draft := some { d with values := vs } } }, stOk)

/-! ### COMMIT, REVERT, defaults (R394-R396) -/

/-- Records a commit's or REVERT's report: version, 0 where refused; status; object. -/
def State.reportCommit (s : State) (r : Nat × Nat) : State :=
  { s with sivar := { s.sivar with report := (if r.1 = stOk then s.sivar.version else 0, r.1, r.2) } }

/-- COMMIT. An empty draft closes and creates no version. -/
def doCommit (cl : Client) (s : State) : State × Nat :=
  match s.sivar.draft with
  | none => (s, stState)
  | some d =>
    if d.owner ≠ cl then (s, stState)
    else if d.values.isEmpty then (({ s with sivar := { s.sivar with draft := none } }).reportCommit (stOk, 0), stOk)
    else
      let cfg := d.values.foldl (fun m e => tset m e.1 e.2) s.sivar.config
      let r := s.adopt cfg (d.values.map (fun e => e.1)) true
      let s1 : State := if r.2.1 = stOk then { r.1 with sivar := { r.1.sivar with draft := none } } else r.1
      (s1.reportCommit r.2, r.2.1)

/-- COMMIT. -/
def execCommit (cl : Client) (s : State) : Out := .next (s.command cl false (doCommit cl))

/-- REVERT: the previous configuration as a new version; only objects that differ are checked. -/
def doRevert (s : State) : State × Nat :=
  if s.sivar.prevVersion = 0 then (s, stState)
  else if s.sivar.draft.isSome then (s, stBusy)
  else
    let r := s.adopt s.sivar.previous (configChanges s.sivar.config s.sivar.previous) true
    (r.1.reportCommit r.2, r.2.1)

/-- REVERT. -/
def execRevert (cl : Client) (s : State) : Out := .next (s.command cl false doRevert)

/-- CONFIG_DEFAULTS: every saved object takes its default as one new version. -/
def doConfigDefaults (s : State) : State × Nat :=
  if !allStopped s then (s, stState)
  else
    let r := s.adopt [] (configChanges s.sivar.config []) false
    (r.1, r.2.1)

/-- CONFIG_DEFAULTS. -/
def execConfigDefaults (cl : Client) (s : State) : Out := .next (s.command cl false doConfigDefaults)

/-- CLOSE_SESSIONS: every open session but the requester's. -/
def doCloseSessions (cl : Client) (s : State) : State × Nat :=
  ((List.range 8).foldl (fun (t : State) k => if (t.session k).isNone ∨ cl = .session k then t else t.closeSession k) s, stOk)

/-- CLOSE_SESSIONS. -/
def execCloseSessions (cl : Client) (s : State) : Out := .next (s.command cl true (doCloseSessions cl))

end Sys2Proof.Machine
end

