-- ==== Sys2Proof/Machine/Protocol.lean ====
section
/-! DEFINITION. The operations of the Sivar protocol (R386, R398-R405, R410), requests and sessions (R397, R401-R403), request slots
(R407-R409), the two hosts (R412), controller mailboxes (R414). -/

namespace Sys2Proof.Machine

/-! ### Commands by object: what a write of a CMD object does -/

/-- One of a U8 command's values; every other is out of range. -/
def cmdCase (n : Nat) (cases : List (Nat × (State → State × Nat))) (s : State) : State × Nat :=
  match cases.find? (fun e => e.1 == n) with
  | some e => e.2 s
  | none => (s, stRange)

/-- A BLOB command of one exact length. -/
def cmdSized (n : Nat) (v : List Byte) (f : State → State × Nat) (s : State) : State × Nat :=
  if v.length = n then f s else (s, stRange)

/-- A word of w bits, little-endian. -/
def word (w : Nat) (v : List Byte) : BitVec w := BitVec.ofNat w (leNat v)

/-- `0x2000.21` (R412): the old primary's draft goes, and its slots that are READY are refused. -/
def State.passOwnership (s : State) : State :=
  let old := s.sivar.primary
  let h := s.host old
  let refuse := fun (x : Slot) => if x.state = 1 then { x with state := 4, status := stAccess } else x
  ({ s with sivar := { s.sivar with
      primary := 1 - old
      offerUntil := none
      draft := match s.sivar.draft with | some d => if d.owner = Client.pcie old then none else some d | none => none } }).setHost old
    { h with slots := h.slots.map (fun (e : Nat × Slot) => (e.1, refuse e.2)) }

/-- OFFER: from the primary host, for 10 s. -/
def doOffer (cl : Client) (s : State) : State × Nat :=
  if cl = .pcie s.sivar.primary then ({ s with sivar := { s.sivar with offerUntil := some (s.now + 10 * 1500000000) } }, stOk)
  else (s, stAccess)

/-- ACCEPT: from the secondary host, while an offer stands. -/
def doAccept (cl : Client) (s : State) : State × Nat :=
  if cl ≠ .pcie (1 - s.sivar.primary) then (s, stAccess)
  else
    match s.sivar.offerUntil with
    | none => (s, stState)
    | some t => if s.now < t then (s.passOwnership, stOk) else (s, stState)

/-- TAKE: from the secondary host, when the primary's link has been down for 5 s. -/
def doTake (cl : Client) (s : State) : State × Nat :=
  if cl ≠ .pcie (1 - s.sivar.primary) then (s, stAccess)
  else
    let h := s.host s.sivar.primary
    if h.up ∨ s.now < h.downSince + 5 * 1500000000 then (s, stState) else (s.passOwnership, stOk)

/-- A command at an index of the control, bring-up, tide, device and security objects. -/
def moduleCommand (cl : Client) (idx sub : Nat) (v : List Byte) (s : State) : State × Nat :=
  let n := leNat v
  if idx = 0x2000 then
    (match sub with
     | 3 => cmdCase n [(1, doOpenDraft cl), (2, doDiscardDraft cl)] s
     | 4 => cmdCase n [(1, doCommit cl)] s
     | 5 => cmdCase n [(1, doRevert)] s
     | 9 => cmdCase n [(1, doConfigDefaults)] s
     | _ => cmdCase n [(1, doOffer cl), (2, doAccept cl), (3, doTake cl)] s)
  else if idx = 0x3000 then
    (match sub with
     | 5 => cmdCase n [(1, doDiscardResults)] s
     | 6 => cmdCase n [(1, doModuleReset)] s
     | 0x20 => cmdSized 32 v (doTestRequest (word 256 v)) s
     | _ => cmdSized 4 v (doTestCancel n) s)
  else if idx = 0x3100 then
    (if sub = 5 then cmdSized 16 v (doOverlayAdd (word 128 v)) s
     else cmdSized 16 v (doOverlayRemove (oeClass (word 128 v)) (oeUnit (word 128 v))) s)
  else if idx = 0x4000 then cmdCase n [(1, doTideStop), (2, doTideStart)] s
  else if idx = 0x7000 then cmdSized 3 v (fun t => if 1 < leAt v 2 1 then (t, stRange) else doRetrain (leAt v 0 2) (leAt v 2 1 == 1) t) s
  else if idx = 0x9000 then
    (if sub = 7 then cmdSized 2 v (fun t =>
        cmdCase (leAt v 1 1) [(0, doShedLeave (leAt v 0 1)), (2, doShedCompute (leAt v 0 1)), (3, doShedDark (leAt v 0 1))] t) s
     else cmdCase n [(1, doEnterDeepPark), (2, doLeaveDeepPark), (3, doStandby)] s)
  else
    match sub with
    | 3 => cmdCase n [(1, doApply), (2, doDiscardStaging)] s
    | 4 => cmdSized 64 v (doOwnerKeyFuse (word 512 v)) s
    | 5 => cmdCase n [(1, doCounterAdvance)] s
    | 6 => doAttestation cl v s
    | _ => cmdCase n [(1, doCloseSessions cl)] s

/-- A command at an index of the partitions, quays, optimizer and governors. -/
def workCommand (idx sub : Nat) (v : List Byte) (s : State) : State × Nat :=
  let n := leNat v
  if within idx 0x2100 8 then
    let p := idx - 0x2100
    match sub with
    | 0x0D => cmdCase n [(1, doPreempt p), (2, doHalt p), (3, doEnd p), (4, doWithdraw p)] s
    | 0x0F => cmdCase n [(1, doReset p), (2, doRecover p)] s
    | 0x20 => cmdSized 19 v (doWindowSet p (leAt v 0 2) (leAt v 2 1) (word 128 (v.drop 3))) s
    | 0x25 => cmdSized 3 v (doDmaDisable p (leAt v 0 2) (leAt v 2 1)) s
    | _ => cmdSized 3 v (fun t =>
        let c := leAt v 0 2
        cmdCase (leAt v 2 1) [(1, doUnitReset p c [c]), (2, doUnitReset p c (berthCores t c))] t) s
  else if idx = 0x5100 then
    (match sub with
     | 2 => cmdSized 64 v (doTensorCreate (word 512 v)) s
     | 3 => cmdSized 4 v (doTensorDelete n) s
     | 5 => cmdSized 7 v (doPinEdit (leAt v 0 4) (leAt v 4 2) (leAt v 6 1)) s
     | 6 =>
       if v.length < 21 ∨ 1 < leAt v 20 1 then (s, stRange)
       else doContentWrite (leAt v 0 4) (leAt v 4 8) (leAt v 12 8) (leAt v 20 1 == 1) (v.drop 21) s
     | _ => cmdSized 4 v (doCheckpoint n) s)
  else if idx = 0x6000 then
    (match sub with
     | 2 => cmdSized 5 v (doAssignment (leAt v 0 4) (leAt v 4 1)) s
     | 3 => cmdSized 4 v (doStateReset n) s
     | 4 =>
       if v.length < 16 ∨ leAt v 5 3 ≠ 0 then (s, stRange)
       else doStateWrite (leAt v 0 4) (leAt v 4 1) (leAt v 8 8) (v.drop 16) s
     | _ => cmdSized 4 v (doRestore n) s)
  else cmdSized 5 v (fun t => if leAt v 1 1 ≠ 0 then (t, stRange) else doLayerPin (leAt v 0 1) (leAt v 2 2) (leAt v 4 1) t) s

/-- A command by object. -/
def doCommand (cl : Client) (idx sub : Nat) (v : List Byte) (s : State) : State × Nat :=
  if within idx 0x2100 8 ∨ idx = 0x5100 ∨ (0x6000 ≤ idx ∧ idx ≤ 0x6300) then workCommand idx sub v s
  else moduleCommand cl idx sub v s

/-! ### WRITE (R383, R386, R392) -/

/-- A host port whose IDE stream is not secure. -/
def insecure (s : State) (cl : Client) : Bool := match cl with | .pcie i => !(s.host i).ide | .session _ => false

/-- A write without the DRAFT flag, its name, client, access and type checked. -/
def doWrite (cl : Client) (idx sub : Nat) (o : ObjInfo) (v : List Byte) (s : State) : State × Nat :=
  if o.access = .cmd then doCommand cl idx sub v s
  else if idx = 0xA000 ∧ sub = 1 then doFirmwareUpload (firmwareOf v) s
  else if o.access = .wo then
    doImageUpload (idx - 0x4101) (imageFrom v) s
  else if within idx 0x4110 8 then cmdSized 32 v (doLaunchWrite (idx - 0x4110) (word 256 v)) s
  else if !o.saved then ({ s with sivar := { s.sivar with volatileVals := tset s.sivar.volatileVals (okey idx sub) v } }, stOk)
  else if idx = 0x2000 ∧ sub = 0x24 ∧ leNat v = 1 ∧ insecure s cl then (s, stState)
  else s.writeSaved (okey idx sub) v

/-- A write of a whole value, its name, client and access checked: type and length, then range, state and effect. -/
def doWriteOp (cl : Client) (idx sub : Nat) (draft : Bool) (o : ObjInfo) (v : List Byte) (s : State) : State × Nat :=
  match typeStatus o v with
  | some st => (s, st)
  | none => if draft then s.draftWrite cl (okey idx sub) v else doWrite cl idx sub o v s

/-! ### Host buffers (R410, R427) -/

/-- Bytes of a host-buffer list, its head included. -/
def hostListSize (d : List Byte) : Nat := 8 + 16 * leAt d 0 4

/-- Bytes that a host-buffer list names. -/
def hostListTotal (d : List Byte) : Nat := ((List.range (leAt d 0 4)).map (fun i => leAt d (16 + 16 * i) 4)).foldl (· + ·) 0

/-- The checks on a host-buffer list. -/
def hostListStatus (s : State) (cl : Client) (d : List Byte) : Option Nat :=
  let n := leAt d 0 4
  let ks := List.range n
  if s.cfg 0x2000 0x24 = 1 ∧ insecure s cl then some stAuth
  else if n < 1 ∨ 256 < n ∨ leAt d 4 4 ≠ 0 ∨ d.length < hostListSize d then some stRange
  else if ks.any (fun i => decide (leAt d (8 + 16 * i) 8 % 4096 ≠ 0 ∨ (i + 1 < n ∧ leAt d (16 + 16 * i) 4 % 512 ≠ 0))) then some stAlign
  else if ks.any (fun i => decide (leAt d (20 + 16 * i) 4 ≠ 0)) ∨ 1073741824 < hostListTotal d then some stRange
  else none

/-! ### WRITE_SEG (R404) -/

/-- What a client has staged of an object. -/
def stagedOf (s : State) (cl : Client) (key : Nat) : List Host.Cell :=
  match cl with
  | .session k => match s.session k with | some x => ((x.staging.find? (fun e => e.1 == key)).map (fun e => e.2)).getD [] | none => []
  | .pcie i => ((s.sivar.staging.find? (fun e => e.1 == i && e.2.1 == key)).map (fun e => e.2.2)).getD []

/-- Replaces what a client has staged of an object; the empty list discards it. -/
def State.putStaged (s : State) (cl : Client) (key : Nat) (m : List Host.Cell) : State :=
  match cl with
  | .session k =>
    match s.session k with
    | none => s
    | some x =>
      let rest := x.staging.filter (fun e => e.1 != key)
      { s with sivar := { s.sivar with
          sessions := tput none s.sivar.sessions k (some { x with staging := if m.isEmpty then rest else rest ++ [(key, m)] }) } }
  | .pcie i =>
    let rest := s.sivar.staging.filter (fun e => e.1 != i || e.2.1 != key)
    { s with sivar := { s.sivar with staging := if m.isEmpty then rest else rest ++ [(i, key, m)] } }

/-- WRITE_SEG, its name, client and access checked. An upload of an image streams into slot storage, so its buffer has no limit of its
own. -/
def doWriteSeg (cl : Client) (idx sub : Nat) (draft final : Bool) (offset : Nat) (o : ObjInfo) (v : List Byte) (s : State) : State × Nat :=
  let key := okey idx sub
  let fw := decide (idx = 0xA000 ∧ sub = 1)
  let limit := if o.access = .wo then o.max else 67108864
  if fw ∧ s.fw.stagingState = 2 then (s, stBusy)
  else if limit < offset + v.length then (s, stCapacity)
  else
    let s1 : State := if fw ∧ offset = 0 then { s with fw := { s.fw with stagingState := 0, staging := none } } else s
    let m := writeBytes (if offset = 0 then [] else stagedOf s1 cl key) offset v
    if !final then (s1.putStaged cl key m, stOk)
    else
      let s2 := s1.putStaged cl key []
      let n := offset + v.length
      if !((List.range n).all (fun a => (readByte m a).isSome)) then (s2, stRange)
      else doWriteOp cl idx sub draft o (readZeroed m 0 n) s2

/-! ### The checks in order (R386), and one operation -/

/-- Whether a role may make an operation on an object (R402): reading operations for all, writes from OPERATOR on. -/
def roleAllows (role op idx sub : Nat) : Bool :=
  op == 1 || op == 4 || op == 5 || op == 7 || role == 3
    || (role == 2 && !(idx == 0x1000) && !(idx == 0xA000) && !(idx == 0x3000 && sub == 5))

/-- Whether the access class and the host's ownership allow an operation (R383, R412). -/
def accessAllows (s : State) (cl : Client) (op idx sub : Nat) (draft : Bool) (o : ObjInfo) : Bool :=
  let reading := op == 1 || op == 4 || op == 5
  let class' :=
    if op = 4 then true
    else if reading then decide (o.access ≠ .wo ∧ o.access ≠ .cmd)
    else if op = 3 then decide (o.access = .cmd) && !draft
    else decide (o.access ≠ .ro) && (!draft || o.saved)
  let owner := match cl with
    | .pcie i => reading || decide (i = s.sivar.primary) || decide (idx = 0x2000 ∧ sub = 0x21)
    | .session _ => true
  class' && owner

/-- What the recovery loader serves (R441). -/
def loaderServes (op idx sub : Nat) (v : List Byte) : Bool :=
  if op = 1 ∨ op = 5 then decide (okey idx sub ∈
    [okey 0x1000 1, okey 0x1000 8, okey 0x3000 1, okey 0x3000 0x10, okey 0xA000 2, okey 0xA000 9])
  else if idx = 0xA000 ∧ sub = 1 then op == 2 || op == 6
  else if idx = 0xA000 ∧ sub = 3 then (op == 2 || op == 3) && leNat v == 1
  else idx == 0x2000 && sub == 0x21 && (op == 2 || op == 3)

/-- The value that a read delivers (R393, R441). -/
def readValue (s : State) (cl : Client) (idx sub : Nat) (draft : Bool) : List Byte :=
  let now := if s.bring.loader ∧ idx = 0x1000 ∧ sub = 8 then b4 0 else objectBytes s cl idx sub
  match s.sivar.draft with
  | some d => if draft then ((d.values.find? (fun e => e.1 == okey idx sub)).map (fun e => e.2)).getD now else now
  | none => now

/-- TICKET: the state of a kept ticket (R405). -/
def State.readTicket (s : State) (t : Nat) : State :=
  match s.sivar.tickets.find? (fun x => x.number == t) with
  | some x => s.answerData (ticketBytes x)
  | none => s.answer stIndex

/-- The object's part of an operation, its name, client and access checked. -/
def State.operate (s : State) (cl : Client) (o : SivarOp) (info : ObjInfo) : State :=
  let listed := o.hostbuf
  let bad := if listed then
      (match cl with
       | .session _ => some stType
       | .pcie _ => if o.op = 3 ∨ o.op = 4 then some stType else hostListStatus s cl o.data)
    else none
  match bad with
  | some st => s.answer st
  | none =>
    let sent := if listed then o.data.drop (hostListSize o.data) else o.data
    let done := fun (r : State × Nat) => r.1.answer r.2
    if (o.op = 2 ∨ o.op = 6) ∧ listed ∧ sent.length < hostListTotal o.data then s.answer stTimeout
    else
      match o.op with
      | 1 => s.answerData (readValue s cl o.index o.sub o.draft)
      | 4 => s.answerData (describeBytes o.index o.sub info)
      | 5 =>
        let v := readValue s cl o.index o.sub o.draft
        if v.length < o.offset then s.answer stRange else s.answerData ((v.drop o.offset).take o.length)
      | 6 => done (doWriteSeg cl o.index o.sub o.draft o.final o.offset info sent s)
      | _ => done (doWriteOp cl o.index o.sub o.draft info sent s)

/-- One operation, in the order of R386: its head, the name, the role, access and ownership, then the object's part. The answer stands in
`resp`, with the whole value of a read. -/
def State.perform (s : State) (cl : Client) (o : SivarOp) : State :=
  let s0 : State := { s with resp := {} }
  if o.op < 1 ∨ 7 < o.op ∨ o.reserved ≠ 0 ∨ (o.op ≠ 5 ∧ o.op ≠ 6 ∧ o.offset ≠ 0) ∨ (o.op ≠ 7 ∧ o.ticket ≠ 0) then s0.answer stRange
  else
    match s.roleOf cl with
    | none => s0.answer stAuth
    | some role =>
      if o.op = 7 then (if s.bring.loader then s0.answer stState else s0.readTicket o.ticket)
      else
        match nameStatus o.index o.sub, objInfo o.index o.sub with
        | some st, _ => s0.answer st
        | none, none => s0.answer stSubindex
        | none, some info =>
          if !roleAllows role o.op o.index o.sub then s0.answer stAuth
          else if !accessAllows s cl o.op o.index o.sub o.draft info then s0.answer stAccess
          else if s.bring.loader && !loaderServes o.op o.index o.sub o.data then s0.answer stState
          else s0.operate cl o info

/-! ### Results as bytes (R400, R408) -/

/-- Data padded with zeros to a multiple of 8 B. -/
def pad8 (bs : List Byte) : List Byte := bs ++ List.replicate ((8 - bs.length % 8) % 8) 0

/-- What of the data goes into a response that has room for so many bytes more. -/
def fitData (room : Nat) (d : List Byte) : List Byte := if (pad8 d).length ≤ room then d else d.take (room / 8 * 8)

/-- An operation's answer cut to its room: the data, and TRUNCATED where a whole value did not fit. A host-buffer read puts its data into
the buffers. -/
def cutAnswer (o : SivarOp) (r : Resp) (room : Nat) : Resp :=
  if o.hostbuf then { r with flags := r.flags + if hostListTotal o.data < r.data.length then 2 else 0 }
  else
    let d := fitData room r.data
    { r with data := d, flags := r.flags + if d.length < r.data.length ∧ o.op ≠ 5 then 2 else 0 }

/-- The result of one operation: its head and its data. -/
def resultBytes (o : SivarOp) (r : Resp) (room : Nat) : List Byte :=
  let c := cutAnswer o r room
  b1 o.op ++ b1 c.flags ++ b2 o.index ++ b1 o.sub ++ b1 0 ++ b2 c.status ++ b4 (if o.op = 5 then c.data.length else r.data.length) ++ b4 c.ticket
    ++ (if o.hostbuf then [] else pad8 c.data)

/-- The operations of a message in order, up to the first that is not OK: the state, the results, how many were executed (R399). -/
def runOps (cl : Client) (cap : Nat) : List SivarOp → State → List Byte → Nat → State × List Byte × Nat
  | [], s, body, n => (s, body, n)
  | o :: rest, s, body, n =>
    let t := s.perform cl o
    let out := body ++ resultBytes o t.resp (cap - body.length - 16 - 16 * rest.length)
    if t.resp.status ≠ stOk then (t, out, n + 1) else runOps cl cap rest t out (n + 1)

/-- Room for results in one message: a datagram less its header and tag, or a slot's response area. -/
def roomOf (s : State) (cl : Client) : Nat :=
  match cl with
  | .session k => match s.session k with | some x => x.maxDatagram - 64 | none => 0
  | .pcie _ => 32768

/-- A message's operations; the answer holds their results. -/
def State.message (s : State) (cl : Client) (ops : List SivarOp) : State :=
  let r := runOps cl (roomOf s cl) ops { s with resp := {} } [] 0
  { r.1 with resp := { r.1.resp with data := r.2.1, executed := r.2.2 } }

/-- One operation by itself; nothing happens where no client of that name is connected. -/
def State.single (s : State) (cl : Client) (o : SivarOp) : State :=
  if !s.serving || (s.roleOf cl).isNone then s
  else
    let t := s.perform cl o
    { t with resp := cutAnswer o t.resp (roomOf s cl - 16) }

/-- An operation with nothing but its name. -/
def plainOp (op index sub : Nat) : SivarOp :=
  { op := op, draft := false, final := false, hostbuf := false, reserved := 0, index := index, sub := sub, length := 0, ticket := 0, offset := 0
    data := [] }

/-- READ. -/
def execRead (cl : Client) (index sub : Nat) (draft : Bool) (s : State) : Out :=
  .next (s.single cl { plainOp 1 index sub with draft := draft })

/-- WRITE. -/
def execWrite (cl : Client) (index sub : Nat) (draft : Bool) (data : List Byte) (s : State) : Out :=
  .next (s.single cl { plainOp 2 index sub with draft := draft, data := data, length := data.length })

/-- DESCRIBE. -/
def execDescribe (cl : Client) (index sub : Nat) (s : State) : Out := .next (s.single cl (plainOp 4 index sub))

/-- READ_SEG. -/
def execReadSeg (cl : Client) (index sub : Nat) (draft : Bool) (offset length : Nat) (s : State) : Out :=
  .next (s.single cl { plainOp 5 index sub with draft := draft, offset := offset, length := length })

/-- WRITE_SEG. -/
def execWriteSeg (cl : Client) (index sub : Nat) (draft final : Bool) (offset : Nat) (data : List Byte) (s : State) : Out :=
  .next (s.single cl { plainOp 6 index sub with draft := draft, final := final, offset := offset, data := data, length := data.length })

/-- TICKET. -/
def execTicket (cl : Client) (t : Nat) (s : State) : Out := .next (s.single cl { plainOp 7 0 0 with ticket := t })

/-- TICKET_DONE: the deferred action has completed; its ticket records the final status. -/
def execTicketDone (t status : Nat) (s : State) : Out := .next (s.endTicket t status)

/-! ### Sessions (R401, R402) -/

/-- Cycles of a second. -/
def second : Nat := 1500000000

/-- The session slot that holds an ID. -/
def slotOfId (s : State) (sid : Nat) : Option (Nat × Session) :=
  (List.range 8).findSome? (fun k => match tget none s.sivar.sessions k with | some x => if x.id = sid then some (k, x) else none | none => none)

/-- A message is dropped and counted. -/
def State.dropMessage (s : State) : State := { s with sivar := { s.sivar with dropped := s.sivar.dropped + 1 } }

/-- Stores a session. -/
def State.putSession (s : State) (k : Nat) (x : Session) : State :=
  { s with sivar := { s.sivar with sessions := tput none s.sivar.sessions k (some x) } }

/-- The body of HELLO. -/
def helloBody (k maxDatagram : Nat) (nonce kemKey : List Byte) : List Byte :=
  b1 k ++ b1 0 ++ b2 maxDatagram ++ leBytes 4 0 ++ nonce ++ kemKey

/-- The body of CHALLENGE without its signature: the ID, a nonce of the controller's choice, the ciphertext. -/
def challengeBody (s : State) (id : Nat) (kemKey : List Byte) : List Byte :=
  b8 id ++ (List.range 32).map (Config.freeByte s.freeCtr) ++ Config.kemEncaps id kemKey

/-- HELLO: CHALLENGE, or an ERROR that carries only the status. -/
def execHello (k maxDatagram : Nat) (notify : Bool) (nonce : List Byte) (kemKey : List Byte) (s : State) : Out :=
  .next (
    if !s.serving then s
    else
      let s0 : State := { s with resp := {} }
      let free := (List.range 8).find? (fun i => (tget none s.sivar.sessions i).isNone)
      if 15 < k ∨ maxDatagram < 1280 ∨ 9000 < maxDatagram then s0.answer stRange
      else if (s.cfgBytes 0xA000 (0x20 + k)).isEmpty then s0.answer stAuth
      else
        match free with
        | none => s0.answer stBusy
        | some i =>
          let id := s.sivar.nextSession
          let body := challengeBody s id kemKey
          let h := Config.sha3 (helloBody k maxDatagram nonce kemKey ++ body)
          let x : Session := {
            id := id, slot := k, role := 0, phase := 1, maxDatagram := maxDatagram, notify := notify, transcript := h, challengedAt := s.now
            acceptedAt := 0, lastValid := s.now, highest := 0, accepted := [], kept := [], staging := [], notifySeq := 0, notified := [] }
          let s1 := s0.putSession i x
          ({ s1 with sivar := { s1.sivar with nextSession := id + 1 } }.answerData (body ++ Config.identitySign h)).bump)

/-- PROVE: ACCEPT with the slot's role, or E_AUTH and the ID is discarded. -/
def execProve (sid : Nat) (signature : List Byte) (s : State) : Out :=
  .next (
    if !s.serving then s
    else
      match slotOfId s sid with
      | none => s.dropMessage
      | some (i, x) =>
        let key := s.cfgBytes 0xA000 (0x20 + x.slot)
        if x.phase ≠ 1 then s.dropMessage
        else if x.challengedAt + 10 * second < s.now then (s.closeSession i).dropMessage
        else
          let s0 : State := { s with resp := {} }
          if !key.isEmpty && Config.mldsaVerify (key.drop 8) x.transcript signature then
            let role := leAt key 0 1
            let body := b1 role ++ List.replicate 7 0
            (s0.putSession i { x with phase := 2, role := role, acceptedAt := s.now, lastValid := s.now }).answerData
              (body ++ leBytes 32 (Config.kmac sid 1 body).toNat)
          else (s0.closeSession i).answer stAuth)

/-- The open session of an ID. -/
def openOf (s : State) (sid : Nat) : Option (Nat × Session) :=
  match slotOfId s sid with
  | some e => if e.2.phase = 2 then some e else none
  | none => none

/-- CLOSE: a message whose tag fails, or of an unknown session, is dropped and counted. -/
def execClose (sid : Nat) (tagOk : Bool) (s : State) : Out :=
  .next (
    if !s.serving then s
    else
      match openOf s sid with
      | none => s.dropMessage
      | some (i, _) => if tagOk then s.closeSession i else s.dropMessage)

/-- PROVE_TIMEOUT: 10 s after CHALLENGE. -/
def execProveTimeout (sid : Nat) (s : State) : Out :=
  .next (
    match slotOfId s sid with
    | none => s
    | some (i, x) => if x.phase ≠ 1 then s else (s.advance (x.challengedAt + 10 * second)).closeSession i)

/-- SESSION_IDLE_TIMEOUT: 60 s with no valid message. -/
def execSessionIdleTimeout (sid : Nat) (s : State) : Out :=
  .next (
    match openOf s sid with
    | none => s
    | some (i, x) => (s.advance (x.lastValid + 60 * second)).closeSession i)

/-- SESSION_LIFETIME_EXPIRY: 24 h after ACCEPT. -/
def execSessionLifetimeExpiry (sid : Nat) (s : State) : Out :=
  .next (
    match openOf s sid with
    | none => s
    | some (i, x) => (s.advance (x.acceptedAt + 86400 * second)).closeSession i)

/-! ### REQUEST (R397, R403) -/

/-- A request number is new: above the highest accepted, or within 64 below it and not accepted. -/
def newNumber (x : Session) (seq : Nat) : Bool :=
  decide (1 ≤ seq) && (decide (x.highest < seq) || (decide (x.highest < seq + 64) && !(decide (seq ∈ x.accepted))))

/-- A session after an accepted number and its response: the numbers within 64 below the highest, the last 64 responses. -/
def keepResponse (x : Session) (seq : Nat) (r : Resp) (now : Nat) : Session :=
  let top := max x.highest seq
  let kept := x.kept ++ [(seq, r)]
  { x with
    highest := top
    accepted := (x.accepted ++ [seq]).filter (fun n => decide (top < n + 64))
    kept := kept.drop (kept.length - 64)
    lastValid := now }

/-- REQUEST. -/
def execRequest (sid seq : Nat) (tagOk : Bool) (ops : List SivarOp) (s : State) : Out :=
  .next (
    if !s.serving then s
    else
      match openOf s sid with
      | none => s.dropMessage
      | some (i, x) =>
        if !tagOk then s.dropMessage
        else if ops.isEmpty ∨ 64 < ops.length then ({ s.putSession i { x with lastValid := s.now } with resp := {} }).answer stRange
        else if newNumber x seq then
          let t := (s.putSession i { x with lastValid := s.now }).message (.session i) ops
          (match openOf t sid with
           | some (_, y) => { t.putSession i (keepResponse y seq t.resp s.now) with sivar := { (t.putSession i (keepResponse y seq t.resp s.now)).sivar with turn := 2 } }
           | none => t)
        else
          match x.kept.find? (fun e => e.1 == seq) with
          | some e => { s.putSession i { x with lastValid := s.now } with resp := e.2 }
          | none => (s.putSession i { x with lastValid := s.now }).dropMessage)

/-! ### Request slots (R407-R409, R427) -/

/-- The controller's mark on a slot it took, and the vector that the host asked for (R408, R411). -/
def State.endSlot (s : State) (i slot : Nat) (x : Slot) : State :=
  let h := s.host i
  let s1 := s.setHost i { h with
    slots := tput {} h.slots slot x, lastSlot := slot, msix := if x.interrupt then addOnce h.msix 0 else h.msix }
  { s1 with sivar := { s1.sivar with turn := i } }

/-- SLOT_TAKEN: DONE with the results, or REFUSED with no operation executed. A malformed request's status is not stated: a free value
(log 8). -/
def execSlotTaken (port slot : Nat) (interrupt : Bool) (tag length zeroField : Nat) (ops : List SivarOp) (s : State) : Out :=
  onHost port (
    if !s.serving || !(s.host port).up || decide (127 < slot) then s
    else
      let x : Slot := { interrupt := interrupt, tag := tag }
      let refused := fun (st : Nat) => ({ s with resp := { status := st } }).endSlot port slot { x with state := 4, status := st }
      if 32704 < length ∨ 64 < ops.length ∨ zeroField ≠ 0 then (refused (Config.freeNat s.freeCtr slot % 65536)).bump
      else if s.cfg 0x2000 0x24 = 1 ∧ !(s.host port).ide then refused stAuth
      else
        let t := s.message (.pcie port) ops
        t.endSlot port slot { x with state := 3, executed := t.resp.executed, status := t.resp.status, response := t.resp.data })

/-! ### Two hosts (R412) -/

/-- A command of `0x2000.21`: it needs a connected client that may command. -/
def State.hostCommand (s : State) (cl : Client) (f : State → State × Nat) : State :=
  if !s.serving then s
  else
    match s.roleOf cl with
    | none => s
    | some r =>
      let s0 : State := { s with resp := {} }
      if r < 2 then s0.answer stAuth else (f s0).1.answer (f s0).2

/-- OFFER. -/
def execOffer (cl : Client) (s : State) : Out := .next (s.hostCommand cl (doOffer cl))

/-- ACCEPT. -/
def execAccept (cl : Client) (s : State) : Out := .next (s.hostCommand cl (doAccept cl))

/-- TAKE. -/
def execTake (cl : Client) (s : State) : Out := .next (s.hostCommand cl (doTake cl))

/-- OFFER_EXPIRY: 10 s after the offer. -/
def execOfferExpiry (s : State) : Out :=
  .next (
    match s.sivar.offerUntil with
    | none => s
    | some t =>
      let s1 := s.advance t
      { s1 with sivar := { s1.sivar with offerUntil := none } })

/-! ### Controller mailboxes (R414) -/

/-- MAILBOX_ROW_WRITE: the row is stored whole with its poison, its record follows. A row for another partition's mailbox, or past its last
row, is rejected to its source. -/
def execMailboxRowWrite (srcCore p row : Nat) (data : Row) (s : State) : Out :=
  if 8 ≤ p then .fault .noSuchUnit
  else onCore s srcCore (
    if !s.serving || decide (s.partOfCore srcCore ≠ some p) || decide (255 < row) then s
    else
      let a := mailAt p row
      let ct := s.ctlOf p
      let old := tget (0, false, 0) ct.mailRecords row
      ({ s with
        mail := writeBytes s.mail a (fitBytes 512 data.bytes)
        mailMarks := (List.range 64).foldl (fun m w => putMark m (wordOf a + w) (decide (w ∈ data.poison))) s.mailMarks }).setCtl p
        { ct with mailRecords := tput (0, false, 0) ct.mailRecords row (satAdd 32 old.1 1, data.poison != [], s.now) })

end Sys2Proof.Machine
end

