-- ==== Sys2Proof/Machine/Dispatch.lean ====
section
/-! DEFINITION. The dispatch: one arm for each command, each a direct call of its meaning. -/

namespace Sys2Proof.Machine

/-- The effect of one command on everything but the queue of waiting commands. -/
def exec (i : Instr) (s : State) : Host.Outcome State Fault Refusal :=
  match i with
  | .next c => Sys2Proof.Machine.execNext c s
  | .loop c level count => Sys2Proof.Machine.execLoop c level count s
  | .endl c level => Sys2Proof.Machine.execEndl c level s
  | .setix c r value => Sys2Proof.Machine.execSetix c r value s
  | .addix c r value => Sys2Proof.Machine.execAddix c r value s
  | .waitmark c entry => Sys2Proof.Machine.execWaitmark c entry s
  | .barrier c wire => Sys2Proof.Machine.execBarrier c wire s
  | .waitdma c ch => Sys2Proof.Machine.execWaitdma c ch s
  | .halt c => Sys2Proof.Machine.execHalt c s
  | .jump c target => Sys2Proof.Machine.execJump c target s
  | .armwin c win rowsM1 => Sys2Proof.Machine.execArmwin c win rowsM1 s
  | .arrNop c => Sys2Proof.Machine.execArrNop c s
  | .aset c reg value => Sys2Proof.Machine.execAset c reg value s
  | .wsg c sel src dst sr drain acc => Sys2Proof.Machine.execWsg c sel src dst sr drain acc s
  | .wss c sel src dst sr drain acc => Sys2Proof.Machine.execWss c sel src dst sr drain acc s
  | .wtg c sel src dst sr drain acc => Sys2Proof.Machine.execWtg c sel src dst sr drain acc s
  | .wts c sel src dst sr drain acc => Sys2Proof.Machine.execWts c sel src dst sr drain acc s
  | .osp c sel src dst seedz => Sys2Proof.Machine.execOsp c sel src dst seedz s
  | .spbNop c => Sys2Proof.Machine.execSpbNop c s
  | .sset c reg value => Sys2Proof.Machine.execSset c reg value s
  | .svld c sel src => Sys2Proof.Machine.execSvld c sel src s
  | .smv c sel src => Sys2Proof.Machine.execSmv c sel src s
  | .sfin c sel dst sr => Sys2Proof.Machine.execSfin c sel dst sr s
  | .sclr c => Sys2Proof.Machine.execSclr c s
  | .vecNop c => Sys2Proof.Machine.execVecNop c s
  | .vset c reg value => Sys2Proof.Machine.execVset c reg value s
  | .vlds c sel src => Sys2Proof.Machine.execVlds c sel src s
  | .vldt c sel src bank sum => Sys2Proof.Machine.execVldt c sel src bank sum s
  | .vstt c sel dst bank => Sys2Proof.Machine.execVstt c sel dst bank s
  | .vclr c mask => Sys2Proof.Machine.execVclr c mask s
  | .vbin c sel src dst sub sr accd => Sys2Proof.Machine.execVbin c sel src dst sub sr accd s
  | .vun c sel src dst sub sr accd => Sys2Proof.Machine.execVun c sel src dst sub sr accd s
  | .vtok c sel src dst sub sr accd => Sys2Proof.Machine.execVtok c sel src dst sub sr accd s
  | .vred c sel src dst sub accd => Sys2Proof.Machine.execVred c sel src dst sub accd s
  | .vnrm c sel src dst sub sr => Sys2Proof.Machine.execVnrm c sel src dst sub sr s
  | .vsmx c sel src dst accd => Sys2Proof.Machine.execVsmx c sel src dst accd s
  | .vlse c sel src bank => Sys2Proof.Machine.execVlse c sel src bank s
  | .vxent c sel src dst sr accd => Sys2Proof.Machine.execVxent c sel src dst sr accd s
  | .vkld c sel src dst sub sr accd => Sys2Proof.Machine.execVkld c sel src dst sub sr accd s
  | .vtopk c sel src dst sub => Sys2Proof.Machine.execVtopk c sel src dst sub s
  | .vdrop c sel src dst sub sr => Sys2Proof.Machine.execVdrop c sel src dst sub sr s
  | .dmaStart c sel ch desc target => Sys2Proof.Machine.execDmaStart c sel ch desc target s
  | .scoreboardRelease c entry => Sys2Proof.Machine.execScoreboardRelease c entry s
  | .stationaryLoad c => Sys2Proof.Machine.execStationaryLoad c s
  | .passSwap c => Sys2Proof.Machine.execPassSwap c s
  | .chainDrain c => Sys2Proof.Machine.execChainDrain c s
  | .scrubRowRead c => Sys2Proof.Machine.execScrubRowRead c s
  | .scrubWriteBack c row => Sys2Proof.Machine.execScrubWriteBack c row s
  | .windowSet cl p c win map => Sys2Proof.Machine.execWindowSet cl p c win map s
  | .remoteRowArrival c srcModule srcCore tag row data => Sys2Proof.Machine.execRemoteRowArrival c srcModule srcCore tag row data s
  | .remoteReadRequest c srcModule srcCore tag row => Sys2Proof.Machine.execRemoteReadRequest c srcModule srcCore tag row s
  | .descriptorBegin c ch => Sys2Proof.Machine.execDescriptorBegin c ch s
  | .channelRowMove c ch => Sys2Proof.Machine.execChannelRowMove c ch s
  | .transitSlotEntry p place cycle east => Sys2Proof.Machine.execTransitSlotEntry p place cycle east s
  | .writeResponseArrival c tag => Sys2Proof.Machine.execWriteResponseArrival c tag s
  | .readResponseArrival c tag k data => Sys2Proof.Machine.execReadResponseArrival c tag k data s
  | .rejectArrival c tag k => Sys2Proof.Machine.execRejectArrival c tag k s
  | .channelComplete c ch => Sys2Proof.Machine.execChannelComplete c ch s
  | .dmaDisable cl p c mask => Sys2Proof.Machine.execDmaDisable cl p c mask s
  | .gantryCommit x north => Sys2Proof.Machine.execGantryCommit x north s
  | .gantryBeatArrival c north => Sys2Proof.Machine.execGantryBeatArrival c north s
  | .creditReturn c north => Sys2Proof.Machine.execCreditReturn c north s
  | .multicastStall x north => Sys2Proof.Machine.execMulticastStall x north s
  | .storeLoad cores seg => Sys2Proof.Machine.execStoreLoad cores seg s
  | .barrierComplete p wire => Sys2Proof.Machine.execBarrierComplete p wire s
  | .heartbeatToggle c => Sys2Proof.Machine.execHeartbeatToggle c s
  | .heartbeatMiss c => Sys2Proof.Machine.execHeartbeatMiss c s
  | .routerError site => Sys2Proof.Machine.execRouterError site s
  | .fastClockStart tile => Sys2Proof.Machine.execFastClockStart tile s
  | .boundaryPhaseCheck a b err16 => Sys2Proof.Machine.execBoundaryPhaseCheck a b err16 s
  | .boundaryRecalibrate a b => Sys2Proof.Machine.execBoundaryRecalibrate a b s
  | .markInstanceFires p insts => Sys2Proof.Machine.execMarkInstanceFires p insts s
  | .preempt cl p => Sys2Proof.Machine.execPreempt cl p s
  | .partitionHalt cl p => Sys2Proof.Machine.execPartitionHalt cl p s
  | .partitionEnd cl p => Sys2Proof.Machine.execPartitionEnd cl p s
  | .withdraw cl p => Sys2Proof.Machine.execWithdraw cl p s
  | .preemptTimeout p => Sys2Proof.Machine.execPreemptTimeout p s
  | .launch cl p r => Sys2Proof.Machine.execLaunch cl p r s
  | .resume cl p r => Sys2Proof.Machine.execResume cl p r s
  | .cancel cl p r => Sys2Proof.Machine.execCancel cl p r s
  | .launchMark p => Sys2Proof.Machine.execLaunchMark p s
  | .imageUpload cl slot img => Sys2Proof.Machine.execImageUpload cl slot img s
  | .tideStop cl => Sys2Proof.Machine.execTideStop cl s
  | .tideStart cl => Sys2Proof.Machine.execTideStart cl s
  | .tideLock => Sys2Proof.Machine.execTideLock  s
  | .tideMarkerSend => Sys2Proof.Machine.execTideMarkerSend  s
  | .tideMarkerReceive port m => Sys2Proof.Machine.execTideMarkerReceive port m s
  | .upstreamSwitch => Sys2Proof.Machine.execUpstreamSwitch  s
  | .freeEntry => Sys2Proof.Machine.execFreeEntry  s
  | .rootTakeover => Sys2Proof.Machine.execRootTakeover  s
  | .domainJoin domain root revision tick => Sys2Proof.Machine.execDomainJoin domain root revision tick s
  | .stretchRampStep => Sys2Proof.Machine.execStretchRampStep  s
  | .referenceTick => Sys2Proof.Machine.execReferenceTick  s
  | .ptpSync utc => Sys2Proof.Machine.execPtpSync utc s
  | .timedRowRelease p port sent c srcModule srcCore tag row complete data => Sys2Proof.Machine.execTimedRowRelease p port sent c srcModule srcCore tag row complete data s
  | .tensorCreate cl r => Sys2Proof.Machine.execTensorCreate cl r s
  | .tensorDelete cl id => Sys2Proof.Machine.execTensorDelete cl id s
  | .pinEdit cl id lead residency => Sys2Proof.Machine.execPinEdit cl id lead residency s
  | .contentWrite cl id version offset final data => Sys2Proof.Machine.execContentWrite cl id version offset final data s
  | .checkpoint cl id => Sys2Proof.Machine.execCheckpoint cl id s
  | .checkpointComplete id ok => Sys2Proof.Machine.execCheckpointComplete id ok s
  | .quayRowWrite q srcModule srcCore offset flash data => Sys2Proof.Machine.execQuayRowWrite q srcModule srcCore offset flash data s
  | .quayRowRead q srcModule srcCore offset flash => Sys2Proof.Machine.execQuayRowRead q srcModule srcCore offset flash s
  | .fetchIssue p r j k step unitNo o => Sys2Proof.Machine.execFetchIssue p r j k step unitNo o s
  | .fetchDataReady q entry => Sys2Proof.Machine.execFetchDataReady q entry s
  | .decisionPoint q entry => Sys2Proof.Machine.execDecisionPoint q entry s
  | .flashRecoveryStep q entry ok => Sys2Proof.Machine.execFlashRecoveryStep q entry ok s
  | .dramUncorrectable q entry retryOk mirrorOk => Sys2Proof.Machine.execDramUncorrectable q entry retryOk mirrorOk s
  | .tilePacketSend q p col seq => Sys2Proof.Machine.execTilePacketSend q p col seq s
  | .bufferCreditReturn x north => Sys2Proof.Machine.execBufferCreditReturn x north s
  | .residencyCopyDone q id => Sys2Proof.Machine.execResidencyCopyDone q id s
  | .flashScanPage q id page step => Sys2Proof.Machine.execFlashScanPage q id page step s
  | .intakeRow address srcModule srcCore data => Sys2Proof.Machine.execIntakeRow address srcModule srcCore data s
  | .frameConvert unit col => Sys2Proof.Machine.execFrameConvert unit col s
  | .frameAccumulate q header payload => Sys2Proof.Machine.execFrameAccumulate q header payload s
  | .statisticsReport q p layer => Sys2Proof.Machine.execStatisticsReport q p layer s
  | .formatDecision p layer => Sys2Proof.Machine.execFormatDecision p layer s
  | .layerPin cl p layer pin => Sys2Proof.Machine.execLayerPin cl p layer pin s
  | .stashDecision p step o segs => Sys2Proof.Machine.execStashDecision p step o segs s
  | .reduceScatterBegin p => Sys2Proof.Machine.execReduceScatterBegin p s
  | .passOneBegin p => Sys2Proof.Machine.execPassOneBegin p s
  | .passTwoBegin p => Sys2Proof.Machine.execPassTwoBegin p s
  | .publicationBegin p => Sys2Proof.Machine.execPublicationBegin p s
  | .unitWriteback q engine => Sys2Proof.Machine.execUnitWriteback q engine s
  | .rootComputation id a b right => Sys2Proof.Machine.execRootComputation id a b right s
  | .engineFault q engine afterWrite => Sys2Proof.Machine.execEngineFault q engine afterWrite s
  | .assignment cl id group => Sys2Proof.Machine.execAssignment cl id group s
  | .stateReset cl id => Sys2Proof.Machine.execStateReset cl id s
  | .stateWrite cl id part offset data => Sys2Proof.Machine.execStateWrite cl id part offset data s
  | .groupRecordWrite cl g r => Sys2Proof.Machine.execGroupRecordWrite cl g r s
  | .handoffResultReceive p member result => Sys2Proof.Machine.execHandoffResultReceive p member result s
  | .handoffReportDeadline p => Sys2Proof.Machine.execHandoffReportDeadline p s
  | .packetForward q header payload => Sys2Proof.Machine.execPacketForward q header payload s
  | .contribReceive q header payload => Sys2Proof.Machine.execContribReceive q header payload s
  | .partialReceive q header payload => Sys2Proof.Machine.execPartialReceive q header payload s
  | .nearClose q => Sys2Proof.Machine.execNearClose q s
  | .farClose q => Sys2Proof.Machine.execFarClose q s
  | .mirrorReceive q header payload => Sys2Proof.Machine.execMirrorReceive q header payload s
  | .mirrorAck q shard => Sys2Proof.Machine.execMirrorAck q shard s
  | .normReceive q header payload => Sys2Proof.Machine.execNormReceive q header payload s
  | .gatherReceive q header payload => Sys2Proof.Machine.execGatherReceive q header payload s
  | .rejectPacketReceive q header => Sys2Proof.Machine.execRejectPacketReceive q header s
  | .shardDoneReceive step holderModule holderQuay e => Sys2Proof.Machine.execShardDoneReceive step holderModule holderQuay e s
  | .witnessAck w term => Sys2Proof.Machine.execWitnessAck w term s
  | .commitReceive q step term => Sys2Proof.Machine.execCommitReceive q step term s
  | .electionTimeout w => Sys2Proof.Machine.execElectionTimeout w s
  | .voteRequest w term candidate lastTerm lastRecord => Sys2Proof.Machine.execVoteRequest w term candidate lastTerm lastRecord s
  | .voteGrant w term voter => Sys2Proof.Machine.execVoteGrant w term voter s
  | .hmHeartbeat module quay term => Sys2Proof.Machine.execHmHeartbeat module quay term s
  | .heartbeatAnswer module quay => Sys2Proof.Machine.execHeartbeatAnswer module quay s
  | .memberLost module quay => Sys2Proof.Machine.execMemberLost module quay s
  | .harbourMasterSilence q => Sys2Proof.Machine.execHarbourMasterSilence q s
  | .partitioned q => Sys2Proof.Machine.execPartitioned q s
  | .rejoin q term => Sys2Proof.Machine.execRejoin q term s
  | .resyncDone q shard => Sys2Proof.Machine.execResyncDone q shard s
  | .membershipWrite cl table => Sys2Proof.Machine.execMembershipWrite cl table s
  | .digestReport module digest => Sys2Proof.Machine.execDigestReport module digest s
  | .restore cl ledger => Sys2Proof.Machine.execRestore cl ledger s
  | .powerEnable => Sys2Proof.Machine.execPowerEnable  s
  | .stageEnd result detail tested firstFailing failing passing => Sys2Proof.Machine.execStageEnd result detail tested firstFailing failing passing s
  | .discardResultsRecord cl => Sys2Proof.Machine.execDiscardResultsRecord cl s
  | .testRequest cl r => Sys2Proof.Machine.execTestRequest cl r s
  | .testComplete tag failing tested => Sys2Proof.Machine.execTestComplete tag failing tested s
  | .testCancel cl tag => Sys2Proof.Machine.execTestCancel cl tag s
  | .overlayAdd cl r => Sys2Proof.Machine.execOverlayAdd cl r s
  | .overlayRemove cl cls unit => Sys2Proof.Machine.execOverlayRemove cl cls unit s
  | .portRetrainFast cl port => Sys2Proof.Machine.execPortRetrainFast cl port s
  | .portRetrainFull cl port => Sys2Proof.Machine.execPortRetrainFull cl port s
  | .trainingComplete port good latency ok => Sys2Proof.Machine.execTrainingComplete port good latency ok s
  | .wavelengthFailure port wavelength => Sys2Proof.Machine.execWavelengthFailure port wavelength s
  | .calibrationMeasure port ratios calibRatio drift => Sys2Proof.Machine.execCalibrationMeasure port ratios calibRatio drift s
  | .downRetry port => Sys2Proof.Machine.execDownRetry port s
  | .leaveReceived port => Sys2Proof.Machine.execLeaveReceived port s
  | .moduleResetRequest cl => Sys2Proof.Machine.execModuleResetRequest cl s
  | .moduleResetInstance => Sys2Proof.Machine.execModuleResetInstance  s
  | .moduleResetDrainDone => Sys2Proof.Machine.execModuleResetDrainDone  s
  | .fallbackReset => Sys2Proof.Machine.execFallbackReset  s
  | .reset cl p => Sys2Proof.Machine.execReset cl p s
  | .recover cl p => Sys2Proof.Machine.execRecover cl p s
  | .coreReset cl p c => Sys2Proof.Machine.execCoreReset cl p c s
  | .berthReset cl p c => Sys2Proof.Machine.execBerthReset cl p c s
  | .coreResetComplete c => Sys2Proof.Machine.execCoreResetComplete c s
  | .drainAbandon c ch => Sys2Proof.Machine.execDrainAbandon c ch s
  | .recoveryDecision p => Sys2Proof.Machine.execRecoveryDecision p s
  | .recoveryWaitEnd p => Sys2Proof.Machine.execRecoveryWaitEnd p s
  | .thermalEvaluation temps inlet => Sys2Proof.Machine.execThermalEvaluation temps inlet s
  | .thermalEmergency tile => Sys2Proof.Machine.execThermalEmergency tile s
  | .emergencyRelease tile => Sys2Proof.Machine.execEmergencyRelease tile s
  | .emergencyTimeout tile => Sys2Proof.Machine.execEmergencyTimeout tile s
  | .thermalTrip tile => Sys2Proof.Machine.execThermalTrip tile s
  | .manualShedLeave cl tile => Sys2Proof.Machine.execManualShedLeave cl tile s
  | .manualShedCompute cl tile => Sys2Proof.Machine.execManualShedCompute cl tile s
  | .manualShedDark cl tile => Sys2Proof.Machine.execManualShedDark cl tile s
  | .watchdogExpiry => Sys2Proof.Machine.execWatchdogExpiry  s
  | .journalReplay => Sys2Proof.Machine.execJournalReplay  s
  | .eventLogCopy => Sys2Proof.Machine.execEventLogCopy  s
  | .hello k maxDatagram notify nonce kemKey => Sys2Proof.Machine.execHello k maxDatagram notify nonce kemKey s
  | .prove sid signature => Sys2Proof.Machine.execProve sid signature s
  | .close sid tagOk => Sys2Proof.Machine.execClose sid tagOk s
  | .proveTimeout sid => Sys2Proof.Machine.execProveTimeout sid s
  | .sessionIdleTimeout sid => Sys2Proof.Machine.execSessionIdleTimeout sid s
  | .sessionLifetimeExpiry sid => Sys2Proof.Machine.execSessionLifetimeExpiry sid s
  | .request sid seq tagOk ops => Sys2Proof.Machine.execRequest sid seq tagOk ops s
  | .read cl index sub draft => Sys2Proof.Machine.execRead cl index sub draft s
  | .write cl index sub draft data => Sys2Proof.Machine.execWrite cl index sub draft data s
  | .describe cl index sub => Sys2Proof.Machine.execDescribe cl index sub s
  | .readSeg cl index sub draft offset length => Sys2Proof.Machine.execReadSeg cl index sub draft offset length s
  | .writeSeg cl index sub draft final offset data => Sys2Proof.Machine.execWriteSeg cl index sub draft final offset data s
  | .ticket cl t => Sys2Proof.Machine.execTicket cl t s
  | .ticketDone t status => Sys2Proof.Machine.execTicketDone t status s
  | .slotTaken port slot interrupt tag length zeroField ops => Sys2Proof.Machine.execSlotTaken port slot interrupt tag length zeroField ops s
  | .offer cl => Sys2Proof.Machine.execOffer cl s
  | .accept cl => Sys2Proof.Machine.execAccept cl s
  | .take cl => Sys2Proof.Machine.execTake cl s
  | .offerExpiry => Sys2Proof.Machine.execOfferExpiry  s
  | .openDraft cl => Sys2Proof.Machine.execOpenDraft cl s
  | .discardDraft cl => Sys2Proof.Machine.execDiscardDraft cl s
  | .commit cl => Sys2Proof.Machine.execCommit cl s
  | .revert cl => Sys2Proof.Machine.execRevert cl s
  | .configDefaults cl => Sys2Proof.Machine.execConfigDefaults cl s
  | .closeSessions cl => Sys2Proof.Machine.execCloseSessions cl s
  | .keySlotWrite cl k data => Sys2Proof.Machine.execKeySlotWrite cl k data s
  | .mailboxRowWrite srcCore p row data => Sys2Proof.Machine.execMailboxRowWrite srcCore p row data s
  | .enterDeepPark cl => Sys2Proof.Machine.execEnterDeepPark cl s
  | .leaveDeepPark cl => Sys2Proof.Machine.execLeaveDeepPark cl s
  | .goToStandby cl => Sys2Proof.Machine.execGoToStandby cl s
  | .powerDisable => Sys2Proof.Machine.execPowerDisable  s
  | .modResetAssert => Sys2Proof.Machine.execModResetAssert  s
  | .modResetRelease => Sys2Proof.Machine.execModResetRelease  s
  | .pumpOkLost => Sys2Proof.Machine.execPumpOkLost  s
  | .pumpOkRestored => Sys2Proof.Machine.execPumpOkRestored  s
  | .pumpLossShed => Sys2Proof.Machine.execPumpLossShed  s
  | .pumpLossStandby => Sys2Proof.Machine.execPumpLossStandby  s
  | .ppsEdge => Sys2Proof.Machine.execPpsEdge  s
  | .inputLoss lowestMv => Sys2Proof.Machine.execInputLoss lowestMv s
  | .inputOvervoltage => Sys2Proof.Machine.execInputOvervoltage  s
  | .inputReturn => Sys2Proof.Machine.execInputReturn  s
  | .thermAlertRelease => Sys2Proof.Machine.execThermAlertRelease  s
  | .pcieReset unitNo => Sys2Proof.Machine.execPcieReset unitNo s
  | .pcieLinkDown unitNo => Sys2Proof.Machine.execPcieLinkDown unitNo s
  | .firmwareUpload cl img => Sys2Proof.Machine.execFirmwareUpload cl img s
  | .apply cl => Sys2Proof.Machine.execApply cl s
  | .discardStaging cl => Sys2Proof.Machine.execDiscardStaging cl s
  | .firmwareRestart => Sys2Proof.Machine.execFirmwareRestart  s
  | .counterAdvance cl => Sys2Proof.Machine.execCounterAdvance cl s
  | .ownerKeyFuse cl hash => Sys2Proof.Machine.execOwnerKeyFuse cl hash s
  | .attestationRequest cl nonce => Sys2Proof.Machine.execAttestationRequest cl nonce s
  | .spdmGetMeasurements unitNo => Sys2Proof.Machine.execSpdmGetMeasurements unitNo s
  | .pcieLinkUp unitNo width rate flit => Sys2Proof.Machine.execPcieLinkUp unitNo width rate flit s
  | .ideKeyProgramming unitNo => Sys2Proof.Machine.execIdeKeyProgramming unitNo s
  | .deepParkEntryComplete => Sys2Proof.Machine.execDeepParkEntryComplete  s
  | .standbyDrainEnd => Sys2Proof.Machine.execStandbyDrainEnd  s
  | .beaconClockLost tile => Sys2Proof.Machine.execBeaconClockLost tile s
  | .ptpGrandmasterLost => Sys2Proof.Machine.execPtpGrandmasterLost  s
  | .quayReadReqReceive q header => Sys2Proof.Machine.execQuayReadReqReceive q header s
  | .witnessRecordReceive w r => Sys2Proof.Machine.execWitnessRecordReceive w r s

end Sys2Proof.Machine
end

