-- ==== Sys2Proof/Safety.lean ====
section
/-! DEFINITION. What a safe run is, and the terms the statements use: canonical memories, the conditions under which
a command has its own effect, and frames. -/

namespace Sys2Proof.Machine

/-- A step that does not stop. -/
def Goes (s : State) : Prop := ∃ t, step s = .next t

/-- The byte memories of a state are in canonical form. -/
def State.canonical (s : State) : Bool :=
  Memory.wf s.pad && Memory.wf s.dram && Memory.wf s.flash && Memory.wf s.mail

/-! ### Slots and sequencer operations of a core -/

/-- A core that takes a slot or a sequencer operation: it exists, issues, and its bundle is readable. -/
def CoreReady (s : State) (c : Nat) : Prop :=
  coreExists s c = true ∧ canIssue s c = true ∧ (s.core c).bp ∉ (s.core c).storeBad

/-- What a slot leaves unchanged: all but the time, and of its own core all but what the bundle's issue holds. -/
def SlotFrame (s t : State) (c : Nat) : Prop :=
  t = { s with now := t.now, rtc := t.rtc, cores := t.cores }
    ∧ t.now = max s.now (s.core c).nextIssue
    ∧ (∀ c', c' ≠ c → t.core c' = s.core c')
    ∧ t.core c = { s.core c with iss := (t.core c).iss, snap := (openBundle (s.core c)).snap }

/-- The ranges of a slot are loaded and readable, fit the scratchpad, are long enough and conflict with nothing. -/
def RangesClear (s : State) (c : Nat) (idx : List Nat) (reads writes : List (Span × Nat)) (p : Party) : Prop :=
  let k := openBundle (s.core c)
  (∀ i ∈ idx, i < k.ranges.length ∧ 4096 + i ∉ k.storeBad)
    ∧ (∀ r ∈ reads ++ writes, r.1.first + r.1.rows ≤ 4096 ∧ r.2 ≤ r.1.rows)
    ∧ checkSb k.live k.mine (reads.map (fun r => entryOf r.1 .read p k.iss.serial)
        ++ writes.map (fun r => entryOf r.1 .write p k.iss.serial)) = .clear

/-- The issue state with the scoreboard entries of a slot's ranges, under the next issue number. -/
def IssueState.held (i : IssueState) (reads writes : List (Span × Nat)) (p : Party) : IssueState :=
  { i with
    sb := i.sb ++ (reads.map (fun r => entryOf r.1 .read p i.serial) ++ writes.map (fun r => entryOf r.1 .write p i.serial))
    serial := i.serial + 1 }

/-- The ranges a vector slot reads, with the rows each needs. -/
def vecReads (s : State) (c : Nat) (op : VecOp) (sel src sub : Nat) (sum : Bool) : List (Span × Nat) :=
  let needs := vecReadRows op (s.core c).iss.vecRegs sub sum
  (List.range needs.length).map (fun n => ((s.core c).rangeOf sel (src + n), needs.getD n 0))

/-- The range a vector slot writes, with the rows it needs. -/
def vecWrites (s : State) (c : Nat) (op : VecOp) (sel dst sub : Nat) : List (Span × Nat) :=
  match vecWriteRows op (s.core c).iss.vecRegs sub with
  | some n => [((s.core c).rangeOf sel dst, n)]
  | none => []

/-- The conditions under which a vector slot issues (R29, R31, R44, R45). -/
def VecIssues (s : State) (c : Nat) (op : VecOp) (sel src dst sub : Nat) (sum : Bool) : Prop :=
  CoreReady s c ∧ (s.core c).iss.vecQ.length < 2
    ∧ RangesClear s c ((List.range (vecReadRows op (s.core c).iss.vecRegs sub sum).length).map (src + ·)
        ++ (if (vecWriteRows op (s.core c).iss.vecRegs sub).isSome then [dst] else []))
        (vecReads s c op sel src sub sum) (vecWrites s c op sel dst sub) .vec

/-- A vector slot has issued: its entries stand in the scoreboard, and its instruction, with a copy of the registers,
stands last in the queue. -/
def VecIssued (s t : State) (c : Nat) (op : VecOp) (sel src dst sub : Nat) (sum sr accd : Bool) : Prop :=
  let i := (s.core c).iss
  let reads := vecReads s c op sel src sub sum
  let writes := vecWrites s c op sel dst sub
  (t.core c).iss = { i.held reads writes .vec with
      vecQ := i.vecQ ++ [{ id := i.serial, op := op, regs := i.vecRegs, srcs := reads.map (·.1)
                           dst := writes.head?.map (·.1), sub := sub, sum := sum, sr := sr, accd := accd }] }
    ∧ SlotFrame s t c

/-- The ranges an array slot reads: stream A, and the tiles or the second stream. -/
def arrReads (s : State) (c : Nat) (op : ArrOp) (sel src : Nat) : List (Span × Nat) :=
  let k := s.core c
  let r := k.iss.arrRegs
  match op with
  | .wsg | .wtg => [(k.rangeOf sel src, arrNeedA r)]
  | .wss | .wts => [(k.rangeOf sel src, arrNeedA r), (k.rangeOf sel (src + 1), arrNeedTiles r)]
  | .osp => [(k.rangeOf sel src, arrNeedA r), (k.rangeOf sel (src + 1), arrNeedB r)]

/-- The range an array slot writes: none where no chain is drained. -/
def arrWrites (s : State) (c : Nat) (op : ArrOp) (sel dst : Nat) (drain : Bool) : List (Span × Nat) :=
  let k := s.core c
  let r := k.iss.arrRegs
  match op with
  | .osp => [(k.rangeOf sel dst, arrNeedOsp r)]
  | _ =>
    let n := if drain then arrC r else arrC r - 1
    if n = 0 then [] else [(k.rangeOf sel dst, arrNeedOut r n)]

/-- The conditions under which an array slot issues. -/
def ArrIssues (s : State) (c : Nat) (op : ArrOp) (sel src dst : Nat) (drain : Bool) : Prop :=
  CoreReady s c ∧ arrQueued (s.core c) < 2
    ∧ RangesClear s c ((List.range (arrReads s c op sel src).length).map (src + ·)
        ++ (if (arrWrites s c op sel dst drain).isEmpty then [] else [dst]))
        (arrReads s c op sel src) (arrWrites s c op sel dst drain) .arr

/-- An array slot has issued. -/
def ArrIssued (s t : State) (c : Nat) (op : ArrOp) (sel src dst : Nat) (sr drain acc seedz : Bool) : Prop :=
  let k := s.core c
  let i := k.iss
  (t.core c).iss = { i.held (arrReads s c op sel src) (arrWrites s c op sel dst drain) .arr with
      arrQ := i.arrQ ++ [{ id := i.serial, issued := max s.now k.nextIssue, op := op, regs := i.arrRegs
                           srcA := k.rangeOf sel src, srcB := k.rangeOf sel (src + 1), dst := k.rangeOf sel dst
                           sr := sr, drain := drain, acc := acc, seedz := seedz }] }
    ∧ SlotFrame s t c

/-- The conditions under which a springbok slot issues. -/
def SpbIssues (s : State) (c : Nat) (idx : List Nat) (reads writes : List (Span × Nat)) : Prop :=
  CoreReady s c ∧ (s.core c).iss.spbQ.length < 2 ∧ RangesClear s c idx reads writes .spb

/-- A springbok slot has issued. -/
def SpbIssued (s t : State) (c : Nat) (op : SpbOp) (reads writes : List (Span × Nat)) (sr : Bool) : Prop :=
  let i := (s.core c).iss
  (t.core c).iss = { i.held reads writes .spb with
      spbQ := i.spbQ ++ [{ id := i.serial, op := op, regs := i.spbRegs, srcs := reads.map (·.1)
                           dst := writes.head?.map (·.1), sr := sr }] }
    ∧ SlotFrame s t c

/-- What the end of a bundle leaves unchanged. A bundle that leaves no springbok or vector instruction to start changes
nothing but its core's sequencer and the time. -/
def SeqFrame (s t : State) (c : Nat) : Prop :=
  t = { s with now := t.now, rtc := t.rtc, freeCtr := t.freeCtr, cores := t.cores, health := t.health, pad := t.pad
               marks := t.marks, ctl := t.ctl, log := t.log, hosts := t.hosts, sivar := t.sivar }
    ∧ t.now = max s.now (s.core c).nextIssue
    ∧ (∀ c', c' ≠ c → t.core c' = s.core c' ∧ t.heal c' = s.heal c')
    ∧ (t.core c).snap = none ∧ (t.core c).nextIssue = t.now + 1
    ∧ ((s.core c).iss.spbQ = [] → (s.core c).iss.vecQ = [] →
        t = { s with now := t.now, rtc := t.rtc, cores := t.cores }
          ∧ t.core c = { s.core c with bp := (t.core c).bp, loops := (t.core c).loops, ix := (t.core c).ix
                                       wait := (t.core c).wait, snap := none, nextIssue := t.now + 1 })

/-- The sequencer of a core after an operation: pointer, loops, index registers, wait. -/
def SeqTo (s t : State) (c bp : Nat) (loops : List (Nat × Nat)) (ix : Tbl (BitVec 12)) (wait : Wait) : Prop :=
  (t.core c).bp = bp ∧ (t.core c).loops = loops ∧ (t.core c).ix = ix ∧ (t.core c).wait = wait ∧ SeqFrame s t c

/-! ### Commands of clients, memory, poison -/

/-- A client whose write or command is carried out: the controller serves, the client may write (and is ADMIN where the
command needs it), and the module runs its firmware. -/
def Serves (s : State) (cl : Client) (admin : Bool) : Prop :=
  s.serving = true ∧ clientStatus s cl admin = none ∧ s.bring.loader = false

/-- The state in which an operation is carried out: the answer register cleared. -/
def State.asked (s : State) : State := { s with resp := {} }

/-- The answer of an operation that returns a status alone. -/
def answered (status : Nat) : Resp := { status := status, executed := 1 }

/-- A byte list holds bytes from an address on, and is unchanged everywhere else. -/
def WroteBytes (m m' : List Host.Cell) (a : Nat) (bs : List Byte) : Prop :=
  ∀ x, readByte m' x = if a ≤ x ∧ x < a + bs.length then bs[x - a]? else readByte m x

/-- A core's output is written at an address; of the rows it covers in part every other byte is stored as it was read (R67), and
every other byte is unchanged. -/
def WroteMerged (s t : State) (c a : Nat) (bs : List Byte) (joinFirst joinLast : Bool) : Prop :=
  ∀ x, readByte t.pad x =
    if a ≤ x ∧ x < a + bs.length then bs[x - a]?
    else if bs ≠ [] ∧ ∃ r ∈ partRows a bs.length joinFirst joinLast, padAt c r ≤ x ∧ x < padAt c r + 512 then some (padByte s x)
    else readByte s.pad x

/-- The lines of a table outside one key are unchanged. -/
def SameBut {α : Type} (d : α) (m m' : List (Nat × α)) (k : Nat) : Prop := ∀ j, j ≠ k → tget d m' j = tget d m j

/-- A channel's row has retired at its local destination in the cycle its bank port served it: counted, the port's pointer past the
channel, nothing else of the core's channels touched (R138, R140, R142). -/
def RowRetired (s t : State) (c ch early : Nat) : Prop :=
  ((t.core c).chan ch).rowsDone = ((s.core c).chan ch).rowsDone + 1 ∧ ((t.core c).chan ch).lastDone = t.now
    ∧ (t.core c).rrWrite = passRr (s.core c).rrWrite ch ∧ t.now = max s.now (grantAt s c 1 early 1)
    ∧ SameBut {} (s.core c).chans (t.core c).chans ch ∧ SameBut {} s.cores t.cores c ∧ SameBut {} s.health t.health c
    ∧ t = { s with cores := t.cores, health := t.health, pad := t.pad, marks := t.marks, now := t.now, rtc := t.rtc }

/-- A channel's row (4 flits) or request (1) has gone out as the injection port served it: one response owed, the packet on the DNet, no
byte changed; the own quay forwards a row of class 1 or 2 for another module (R109, R139, R140, R293). -/
def RowPutOut (s t : State) (c ch early n : Nat) (p : NetPacket) : Prop :=
  ((t.core c).chan ch).owed = ((s.core c).chan ch).owed + 1 ∧ ((t.core c).chan ch).rowsSent = ((s.core c).chan ch).rowsSent + 1
    ∧ ((t.core c).chan ch).rowsDone = ((s.core c).chan ch).rowsDone ∧ t.net = s.net ++ [p]
    ∧ (t.core c).rrInject = passRr (s.core c).rrInject ch ∧ t.now = max s.now (grantAt s c 2 early n)
    ∧ SameBut {} (s.core c).chans (t.core c).chans ch ∧ SameBut {} s.cores t.cores c
    ∧ t = { s with cores := t.cores, now := t.now, rtc := t.rtc, net := t.net, transit := t.transit, fabric := t.fabric
                   ledger := { s.ledger with rejectsReceived := t.ledger.rejectsReceived } }

/-- A core's router turns a packet away: counted, its transfer remembered, a reject put out, nothing else (R49, R112). -/
def TurnedAway (s t : State) (c sm sc ch tag : Nat) : Prop :=
  (t.heal c).windowRejects = min 255 ((s.heal c).windowRejects + 1)
    ∧ Sender.transfer (sm, sc, ch, tag) ∈ (t.core c).rejecting ∧ (t.core c).windows = (s.core c).windows
    ∧ t.net = s.net ++ (responsePacket s c sm sc 4 3 ch tag none).toList
    ∧ SameBut {} s.cores t.cores c ∧ SameBut {} s.health t.health c
    ∧ t = { s with cores := t.cores, health := t.health, net := t.net, transit := t.transit }

/-- An event is recorded: unless the controller restarts or the severity is below the lowest recorded, the log's newest entry
is it. Severities of FAULT and above are always recorded (R377-R380). -/
def Logged (s t : State) (sev code unit detail : Nat) : Prop :=
  s.mc.restarting = false → 3 ≤ sev ∨ s.cfg 0x8000 3 ≤ sev →
    ∃ e, t.log.entries.getLast? = some e ∧ e.severity = sev ∧ e.code = code ∧ e.unit = unit ∧ e.detail = detail
      ∧ e.seq = (s.log.seq + 1) % 4294967296

/-- A cause is added to the partitions of a test that may run, and to no other (R354). -/
def FaultsAdded (s t : State) (hit : Nat → Bool) (f : PFault) : Prop :=
  ∀ p, (t.ctlOf p).faults
    = if p < 8 ∧ hit p = true ∧ (s.part p).live = true then (s.ctlOf p).faults ++ [f] else (s.ctlOf p).faults

/-- A core after its reset: the stores and the index of its entry bundle stand, its work is gone, no channel is active, it is
out of the heartbeat, and its scratchpad holds nothing defined; read responses that waited have gone out (R345, R346). -/
def CoreCleared (s t : State) (c : Nat) : Prop :=
  t.core c = { s.core c with
      bp := (s.core c).entry, ix := [], loops := [], wait := .idle, iss := {}, snap := none, arr := {}, spb := {}, vec := {}
      queue := [], windows := [], responses := [], portBusy := [], firstFault := none, laterFaults := 0, genSeed := none, genPaused := 0
      routerTurn := (t.core c).routerTurn, chans := (t.core c).chans, nextIssue := (t.core c).nextIssue }
    ∧ (∀ ch, ch < 8 → ((t.core c).chan ch).state ≠ .active)
    ∧ (t.heal c).heartbeat = false ∧ (t.heal c).writeBack = [] ∧ (t.heal c).scrubPending = []
    ∧ (∀ a, padAt c 0 ≤ a → a < padAt c 0 + 2097152 → readByte t.pad a = none)

/-- A saved object takes a value: the value is legal, no draft holds the object, its owners are STOPPED, the rules across objects hold,
and there is space (R382, R390-R394). -/
def Writable (s : State) (key : Nat) (v : List Byte) : Prop :=
  valueStatus s.asked key v = none ∧ s.drafted key = false ∧ ownerStatus s.asked key v = none
    ∧ crossStatus s.asked (tset s.sivar.config key v) key = none ∧ (s.asked.prepareValue key v).2 = stOk

/-- The configuration after a write of one object: its value, as one new version; the one before is kept (R392, R394). -/
def Saved (s t : State) (key : Nat) (v : List Byte) : Prop :=
  t.sivar.config = tset s.sivar.config key v ∧ t.sivar.previous = s.sivar.config
    ∧ t.sivar.version = s.sivar.version + 1 ∧ t.sivar.prevVersion = s.sivar.version

/-- A packet goes out of a quay on the port of its flow with the flow's next sequence number; none goes where no port leads (R294,
R295). -/
def Sent (s t : State) (q : Nat) (f : FabHead) (payload : List Byte) : Prop :=
  let flow := flowKey s.moduleNumber q f.dm f.dq f.typ f.shard
  (∀ port, routePort s q f.dm f.dq flow = some port →
      t.fabric.sent = s.fabric.sent
        ++ [(port, fabHeader s.moduleNumber q (tget 0 s.fabric.nextSeq flow) f payload, payload)])
    ∧ (routePort s q f.dm f.dq flow = none → t.fabric.sent = s.fabric.sent)

/-- A chunk that is complete is counted on time while its level is open; a late one is folded into the step in work, or after the close
into the next, where the late window lets it, and is dropped otherwise; one that is not complete, or of a step not begun, waits (R299,
R300, R306). -/
def ChunkJudged (s t : State) (p q : Nat) (far : Bool) (src step k : Nat) (cs : List Chunk) : Prop :=
  let ex := s.exchange p q
  let ex1 := { ex with chunks := cs }
  let ex' := t.exchange p q
  let closed := if far then ex.farClosed else ex.nearClosed
  let base := if far then 3 else 0
  let counted := fun (n : Nat) => tget 0 t.ledger.chunks (base + n) = satAdd 32 (tget 0 s.ledger.chunks (base + n)) 1
  (chunkOf ex1 far src step k = none → ex' = ex1)
    ∧ (∀ c, chunkOf ex1 far src step k = some c → ex.began = true → step = ex.step → closed = false →
        ex'.chunks = cs ∧ counted 0 ∧ ex'.nearFold = ex.nearFold ∧ ex'.farFold = ex.farFold
          ∧ (sourceComplete ex1 far src (if far then farSlabs s p q else sliceSlabs s p q (placeOf s p).i) = true →
              src ∈ (if far then ex'.farLevel.onTime else ex'.near.onTime)))
    ∧ (ex.began = false ∨ ex.step < step → ex' = ex1)
    ∧ (∀ c, chunkOf ex1 far src step k = some c → ex.began = true → (step < ex.step ∨ (step = ex.step ∧ closed = true)) →
        let m := if closed = true then ex.step + 1 else ex.step
        ex'.chunks = cs.filter (fun x => x != c)
        ∧ (mayFold s p step m = true → counted 1
          ∧ ex'.nearFold = (if far then ex.nearFold else foldInto ex.nearFold c.vals)
          ∧ ex'.farFold = (if far then foldInto ex.farFold c.vals else ex.farFold))
        ∧ (mayFold s p step m = false → counted 2 ∧ ex'.nearFold = ex.nearFold ∧ ex'.farFold = ex.farFold))
    ∧ ex'.own = ex.own ∧ ex'.partialStore = ex.partialStore ∧ ex'.reduced = ex.reduced

/-- The bytes that the gather waiters of an entry store to. -/
def gatherStores (q : Nat) (e : FetchEntry) (r : BitVec 512) (x : Nat) : Prop :=
  ∃ g, some g ∈ e.waiters.map (fun w => w.gather)
    ∧ (gatherElems q g (recStream r) (recTin r) ≤ x
          ∧ x < gatherElems q g (recStream r) (recTin r) + codeBytes (recStream r)
        ∨ codeMx (recStream r) = true ∧ x = gatherScale q g (recStream r) (recTin r))

/-- Of the tensors, one loses at most versions that were to retire, once no open entry names them; of the other quays, damage marks
at most (R195, R208). -/
def OnlyRetires (s t : State) (q tid : Nat) : Prop :=
  (∀ j, j ≠ tid → t.tensor j = s.tensor j)
    ∧ t.tensor tid = { s.tensor tid with versions := (t.tensor tid).versions, retiring := (t.tensor tid).retiring }
    ∧ (∀ v ∈ (t.tensor tid).versions, v ∈ (s.tensor tid).versions)
    ∧ (∀ v ∈ (s.tensor tid).versions, v.number ∉ (s.tensor tid).retiring ∨ versionNamed t tid v.number = true →
        v ∈ (t.tensor tid).versions)
    ∧ (∀ j, j ≠ q → t.quay j = { s.quay j with damaged := (t.quay j).damaged })
    ∧ (∀ j, j ≠ q → ∀ d ∈ (t.quay j).damaged, d ∈ (s.quay j).damaged)

/-- An entry's outcome is fixed for every waiter: what is at hand goes to the columns at once, one packet each in the entry's order, and into
the gathers' bytes; a substitute copy is read first, by this entry or by one that reads the same format already. A skip excludes the
micro-batch of each waiter; nothing but the gathers' bytes is stored (R203-R206, R211). -/
def OutcomeFixed (s t : State) (q i : Nat) (e : FetchEntry) (r : BitVec 512) (o : Outcome) : Prop :=
  let keep := e.waiters.filter (fun w => w.gather.isNone)
  (o.substitute = false →
      (t.quay q).outgoing = (s.quay q).outgoing ++ keep.map (waiterPacket q e (outcomeTile s e r o))
      ∧ (keep ≠ [] → ∃ e', (t.quay q).entries[i]? = some e' ∧ e'.outcome = some o ∧ e'.ready = true ∧ e'.waiters = keep)
      ∧ (keep = [] → (t.quay q).entries.length + 1 = (s.quay q).entries.length
          ∨ ∃ e', (t.quay q).entries[i]? = some e' ∧ e'.outcome = some o ∧ e'.waiters = []))
    ∧ (o.substitute = true →
      (t.quay q).outgoing = (s.quay q).outgoing ∧ t.dram = s.dram
      ∧ ((s.quay q).sameRead e o = none →
          ∃ e', (t.quay q).entries[i]? = some e' ∧ e'.outcome = some o ∧ e'.ready = false ∧ e'.waiters = e.waiters ∧ e'.since = t.now)
      ∧ (∀ n f, (s.quay q).sameRead e o = some n → (s.quay q).entries[n]? = some f →
          ∃ f' ∈ (t.quay q).entries, f'.outcome = some o ∧ f'.waiters = f.waiters ++ e.waiters))
    ∧ (o = .skip → ∀ w ∈ e.waiters, (w.part, w.step, w.outer) ∈ (t.quay q).excluded)
    ∧ (o ≠ .skip → t.ctl = s.ctl ∧ (t.quay q).excluded = (s.quay q).excluded)
    ∧ (∀ x, ¬ gatherStores q e r x → readByte t.dram x = readByte s.dram x)
    ∧ OnlyRetires s t q e.tid

/-- A frame without the port that it goes on. -/
def bareFrame (f : EgFrame) : EgFrame := { f with port := 0 }

/-- A frame has left its unit and reached a quay: `back` of the frame credits that the frames of its column hold return, and the unit
they return to sends what it may; nothing else of the intakes changes, and of the other quays only the turns of their ports (R229). -/
def FrameTaken (s t : State) (key i q back : Nat) : Prop :=
  let home := intakeKey (key % 192) (decide (q < 2))
  (∀ k, ((t.intake k).sent ++ (t.intake k).unsent).map bareFrame
      = ((if k = key then (s.intake k).sent.eraseIdx i else (s.intake k).sent) ++ (s.intake k).unsent).map bareFrame
    ∧ (t.intake k).credits + (t.intake k).sent.length + (if k = key then 1 else 0)
      = (s.intake k).credits + (s.intake k).sent.length + (if k = home then back else 0)
    ∧ t.intake k = { s.intake k with
        sent := (t.intake k).sent, unsent := (t.intake k).unsent, credits := (t.intake k).credits })
  ∧ (∀ j, j ≠ q → t.quay j = { s.quay j with turn := (t.quay j).turn })
  ∧ t.quay q = { s.quay q with
      turn := (t.quay q).turn, frameCounts := (t.quay q).frameCounts, heldRows := (t.quay q).heldRows
      lateFrames := (t.quay q).lateFrames, excluded := (t.quay q).excluded }

/-- A relaunch in place can be written: the limit allows it or every path is asked for, the slot holds an image, the step has not
ended the run, and nothing refuses the image once the band's offered and failed units are replaced (R358, R363, R366, R367). -/
def InPlaceReady (s : State) (p base : Nat) (all : Bool) (img : Image) : Prop :=
  let ct := s.ctlOf p
  (all = true ∨ recentRelaunches ct ct.recovery.step < inPlaceLimit s p)
    ∧ (s.slotOf (s.cfg (0x2100 + p) 5)).image = some img
    ∧ ((s.part p).steps = 0 ∨ relaunchStep s p base < (s.part p).steps) ∧ admitStatus (s.substituteBand p) p img = none

/-- A relaunch in place: STARTING at the step start that the lead gives, with the steps that are left; the record says it is launched,
by path 0 (R357, R363). -/
def RelaunchedInPlace (s t : State) (p base : Nat) : Prop :=
  let pt := s.part p
  let ct := s.ctlOf p
  let j := relaunchStep s p base
  let tick := pt.launchTick + pt.delta + j * pt.period
  let rec' := launchRecord tick (if pt.steps = 0 then 0 else pt.steps - j) 1 (pt.n0 + j)
  (t.part p).run = .starting ∧ (t.part p).launchTick = lrTick rec' ∧ (t.part p).steps = lrSteps rec' ∧ (t.part p).n0 = lrFirst rec'
    ∧ (t.ctlOf p).launchRecord = rec' ∧ (t.ctlOf p).recovery.state = 3 ∧ (t.ctlOf p).recovery.path = 0
    ∧ (t.ctlOf p).recovery.relaunch = tick * 1500 ∧ (t.ctlOf p).relaunches = ct.relaunches ++ [ct.recovery.step]
    ∧ SameBut {} s.parts t.parts p ∧ SameBut {} s.ctl t.ctl p
    ∧ t.now = s.now ∧ t.dram = s.dram ∧ t.flash = s.flash ∧ t.tensors = s.tensors

/-- A tile's sequencers and engines are off: of the cores that held work, none has any or takes part in the heartbeat, and nothing
defined stands in their scratchpads (R371, R372). -/
def TileOff (s t : State) (tile : Nat) : Prop :=
  ∀ c ∈ s.cores.map (·.1), coreTile c = tile →
    (t.heal c).heartbeat = false ∧ (t.core c).arr = {} ∧ (t.core c).vec = {} ∧ (t.core c).spb = {} ∧ (t.core c).iss = {}
      ∧ (rising s.cores = true → ∀ a, padAt c 0 ≤ a → a < padAt c 0 + 2097152 → readByte t.pad a = none)

/-- The client whose operation a row is; none for an event, a session message and a request of several operations. -/
def clientOf : Instr → Option Client
  | .windowSet cl _ _ _ _ => some cl
  | .dmaDisable cl _ _ _ => some cl
  | .preempt cl _ => some cl
  | .partitionHalt cl _ => some cl
  | .partitionEnd cl _ => some cl
  | .withdraw cl _ => some cl
  | .launch cl _ _ => some cl
  | .resume cl _ _ => some cl
  | .cancel cl _ _ => some cl
  | .imageUpload cl _ _ => some cl
  | .tideStop cl => some cl
  | .tideStart cl => some cl
  | .tensorCreate cl _ => some cl
  | .tensorDelete cl _ => some cl
  | .pinEdit cl _ _ _ => some cl
  | .contentWrite cl _ _ _ _ _ => some cl
  | .checkpoint cl _ => some cl
  | .layerPin cl _ _ _ => some cl
  | .assignment cl _ _ => some cl
  | .stateReset cl _ => some cl
  | .stateWrite cl _ _ _ _ => some cl
  | .groupRecordWrite cl _ _ => some cl
  | .membershipWrite cl _ => some cl
  | .restore cl _ => some cl
  | .discardResultsRecord cl => some cl
  | .testRequest cl _ => some cl
  | .testCancel cl _ => some cl
  | .overlayAdd cl _ => some cl
  | .overlayRemove cl _ _ => some cl
  | .portRetrainFast cl _ => some cl
  | .portRetrainFull cl _ => some cl
  | .moduleResetRequest cl => some cl
  | .reset cl _ => some cl
  | .recover cl _ => some cl
  | .coreReset cl _ _ => some cl
  | .berthReset cl _ _ => some cl
  | .manualShedLeave cl _ => some cl
  | .manualShedCompute cl _ => some cl
  | .manualShedDark cl _ => some cl
  | .read cl _ _ _ => some cl
  | .write cl _ _ _ _ => some cl
  | .describe cl _ _ => some cl
  | .readSeg cl _ _ _ _ _ => some cl
  | .writeSeg cl _ _ _ _ _ _ => some cl
  | .ticket cl _ => some cl
  | .offer cl => some cl
  | .accept cl => some cl
  | .take cl => some cl
  | .openDraft cl => some cl
  | .discardDraft cl => some cl
  | .commit cl => some cl
  | .revert cl => some cl
  | .configDefaults cl => some cl
  | .closeSessions cl => some cl
  | .keySlotWrite cl _ _ => some cl
  | .enterDeepPark cl => some cl
  | .leaveDeepPark cl => some cl
  | .goToStandby cl => some cl
  | .firmwareUpload cl _ => some cl
  | .apply cl => some cl
  | .discardStaging cl => some cl
  | .counterAdvance cl => some cl
  | .ownerKeyFuse cl _ => some cl
  | .attestationRequest cl _ => some cl
  | _ => none

end Sys2Proof.Machine
end

