-- ==== Sys2Proof/Certificates/Slice0/Obligations.lean ====
section
/-! DEFINITION. The statements about the model, one definition each. -/

open Sys2Proof Sys2Proof.Machine

/-- A step takes the command at the front of the queue and is exec of it with the queue's rest (the interface's own rule; the spec has no
queue). On an empty queue the block idles: one fast cycle of tide time passes, the real-time clock moves with it, and nothing else changes
(the model's own choice: log 1). -/
def Obligations.StepTakesTheFrontCommandOrIdles : Prop :=
  (∀ (s : State) (c : Instr) (rest : List Instr), s.pending = c :: rest → step s = exec c { s with pending := rest })
  ∧ (∀ s, s.pending = [] → ∃ t, step s = .next t ∧ t.now = s.now + 1
    ∧ t.rtc.units = s.rtc.units + (256 + s.tide.stretch) ∧ t = { s with now := t.now, rtc := t.rtc })

/-- A NOP slot does nothing; ASET, SSET and VSET write their register in their issue cycle, leave every other register, allocate no
scoreboard entry and enter no queue. A springbok slot issues: SVLD reads its V resident vectors, SMV its weight rows and, for MX E2M1
weights, their scale rows, SFIN writes its outputs, SCLR holds nothing. The model's own readings and choices in it: log 18, 71. -/
def Obligations.RegisterAndSpringbokSlotsIssue : Prop :=
  (∀ s c, coreExists s c = true →
    exec (.arrNop c) s = .next s ∧ exec (.spbNop c) s = .next s ∧ exec (.vecNop c) s = .next s)
  ∧ (∀ s c reg v, CoreReady s c → ∃ t, exec (.aset c reg v) s = .next t
      ∧ (∀ r, tget 0 (t.core c).iss.arrRegs r = if r = reg then v else tget 0 (s.core c).iss.arrRegs r)
      ∧ (t.core c).iss = { (s.core c).iss with arrRegs := (t.core c).iss.arrRegs } ∧ SlotFrame s t c)
  ∧ (∀ s c reg v, CoreReady s c → ∃ t, exec (.sset c reg v) s = .next t
      ∧ (∀ r, tget 0 (t.core c).iss.spbRegs r = if r = reg then v else tget 0 (s.core c).iss.spbRegs r)
      ∧ (t.core c).iss = { (s.core c).iss with spbRegs := (t.core c).iss.spbRegs } ∧ SlotFrame s t c)
  ∧ (∀ s c reg v, CoreReady s c → ∃ t, exec (.vset c reg v) s = .next t
      ∧ (∀ r, tget 0 (t.core c).iss.vecRegs r = if r = reg then v else tget 0 (s.core c).iss.vecRegs r)
      ∧ (t.core c).iss = { (s.core c).iss with vecRegs := (t.core c).iss.vecRegs } ∧ SlotFrame s t c)
  ∧ (∀ s c sel src,
    let r := (s.core c).iss.spbRegs
    let reads := [((s.core c).rangeOf sel src, spbV r * spbVecRows r)]
    SpbIssues s c [src] reads [] →
    ∃ t, exec (.svld c sel src) s = .next t ∧ SpbIssued s t c .svld reads [] false)
  ∧ (∀ s c sel src,
    let r := (s.core c).iss.spbRegs
    let w := (s.core c).rangeOf sel src
    let mx := spbWeight r = 4
    let reads := (w, w.rows) :: (if mx then [((s.core c).rangeOf sel (src + 1), ceilDiv w.rows 16)] else [])
    spbBase r + w.rows ≤ 512 → SpbIssues s c (if mx then [src, src + 1] else [src]) reads [] →
    ∃ t, exec (.smv c sel src) s = .next t ∧ SpbIssued s t c .smv reads [] false)
  ∧ (∀ s c sel dst sr,
    let r := (s.core c).iss.spbRegs
    let writes := [((s.core c).rangeOf sel dst, rowsFor 0 (spbN r * spbV r * (codeBits (spbOutput r) / 8)))]
    spbBase r + spbN r ≤ 512 → SpbIssues s c [dst] [] writes →
    ∃ t, exec (.sfin c sel dst sr) s = .next t ∧ SpbIssued s t c .sfin [] writes sr)
  ∧ (∀ s c, SpbIssues s c [] [] [] →
    ∃ t, exec (.sclr c) s = .next t ∧ SpbIssued s t c .sclr [] [] false)

/-- A vector slot issues, first half of the opcodes: VLDS, VLDT, VSTT, VCLR, VBIN, VUN, VTOK, VRED. A vector slot issues, second half:
VNRM, VSMX, VLSE, VXENT, VKLD, VTOPK, VDROP. The model's own readings and choices in it: log 18. -/
def Obligations.VectorSlotsIssue : Prop :=
  (∀ s c sel src, VecIssues s c .vlds sel src 0 0 false →
    ∃ t, exec (.vlds c sel src) s = .next t ∧ VecIssued s t c .vlds sel src 0 0 false false false)
  ∧ (∀ s c sel src bank sum, VecIssues s c .vldt sel src 0 bank sum →
    ∃ t, exec (.vldt c sel src bank sum) s = .next t ∧ VecIssued s t c .vldt sel src 0 bank sum false false)
  ∧ (∀ s c sel dst bank, VecIssues s c .vstt sel 0 dst bank false →
    ∃ t, exec (.vstt c sel dst bank) s = .next t ∧ VecIssued s t c .vstt sel 0 dst bank false false false)
  ∧ (∀ s c mask, VecIssues s c .vclr 0 0 0 mask false →
    ∃ t, exec (.vclr c mask) s = .next t ∧ VecIssued s t c .vclr 0 0 0 mask false false false)
  ∧ (∀ s c sel src dst sub sr accd, VecIssues s c .vbin sel src dst sub false →
    ∃ t, exec (.vbin c sel src dst sub sr accd) s = .next t ∧ VecIssued s t c .vbin sel src dst sub false sr accd)
  ∧ (∀ s c sel src dst sub sr accd, VecIssues s c .vun sel src dst sub false →
    ∃ t, exec (.vun c sel src dst sub sr accd) s = .next t ∧ VecIssued s t c .vun sel src dst sub false sr accd)
  ∧ (∀ s c sel src dst sub sr accd, VecIssues s c .vtok sel src dst sub false →
    ∃ t, exec (.vtok c sel src dst sub sr accd) s = .next t ∧ VecIssued s t c .vtok sel src dst sub false sr accd)
  ∧ (∀ s c sel src dst sub accd, VecIssues s c .vred sel src dst sub false →
    ∃ t, exec (.vred c sel src dst sub accd) s = .next t ∧ VecIssued s t c .vred sel src dst sub false false accd)
  ∧ (∀ s c sel src dst sub sr, VecIssues s c .vnrm sel src dst sub false →
    ∃ t, exec (.vnrm c sel src dst sub sr) s = .next t ∧ VecIssued s t c .vnrm sel src dst sub false sr false)
  ∧ (∀ s c sel src dst accd, VecIssues s c .vsmx sel src dst 0 false →
    ∃ t, exec (.vsmx c sel src dst accd) s = .next t ∧ VecIssued s t c .vsmx sel src dst 0 false false accd)
  ∧ (∀ s c sel src bank, VecIssues s c .vlse sel src 0 bank false →
    ∃ t, exec (.vlse c sel src bank) s = .next t ∧ VecIssued s t c .vlse sel src 0 bank false false false)
  ∧ (∀ s c sel src dst sr accd, VecIssues s c .vxent sel src dst 0 false →
    ∃ t, exec (.vxent c sel src dst sr accd) s = .next t ∧ VecIssued s t c .vxent sel src dst 0 false sr accd)
  ∧ (∀ s c sel src dst sub sr accd, VecIssues s c .vkld sel src dst sub false →
    ∃ t, exec (.vkld c sel src dst sub sr accd) s = .next t ∧ VecIssued s t c .vkld sel src dst sub false sr accd)
  ∧ (∀ s c sel src dst sub, VecIssues s c .vtopk sel src dst sub false →
    ∃ t, exec (.vtopk c sel src dst sub) s = .next t ∧ VecIssued s t c .vtopk sel src dst sub false false false)
  ∧ (∀ s c sel src dst sub sr, VecIssues s c .vdrop sel src dst sub false →
    ∃ t, exec (.vdrop c sel src dst sub sr) s = .next t ∧ VecIssued s t c .vdrop sel src dst sub false sr false)

/-- NEXT, LOOP, ENDL, SETIX, ADDIX, HALT and JUMP: the bundle pointer, the loop levels, the index registers and the wait state after each,
and the frame. The operations that wait. WAITDMA waits for its channel unless that has neither a pending nor an active descriptor; BARRIER
arrives on its wire and waits; WAITMARK waits for the earliest instance of its entry after the core's cursor, arrives for it, and counts
an arrival before the slack water as early where the core's participation bit is set. The model's own readings and choices in it: log 6,
18. -/
def Obligations.SequencerOperationsStepWaitAndHalt : Prop :=
  (∀ s c, CoreReady s c → ∃ t, exec (.next c) s = .next t
      ∧ SeqTo s t c (((s.core c).bp + 1) % 4096) (s.core c).loops (s.core c).ix .running)
  ∧ (∀ s c level count, CoreReady s c → ∃ t, exec (.loop c level count) s = .next t
      ∧ SeqTo s t c (((s.core c).bp + 1) % 4096)
          ((s.core c).loops.take level ++ [(count, ((s.core c).bp + 1) % 4096)]) (s.core c).ix .running)
  ∧ (∀ s c level n start, CoreReady s c → (s.core c).loops[level]? = some (n, start) →
      (1 < n → ∃ t, exec (.endl c level) s = .next t
        ∧ SeqTo s t c start ((s.core c).loops.set level (n - 1, start)) (s.core c).ix .running)
      ∧ (n ≤ 1 → ∃ t, exec (.endl c level) s = .next t
        ∧ SeqTo s t c (((s.core c).bp + 1) % 4096) ((s.core c).loops.take level) (s.core c).ix .running))
  ∧ (∀ s c r v, CoreReady s c → ∃ t, exec (.setix c r v) s = .next t
      ∧ SeqTo s t c (((s.core c).bp + 1) % 4096) (s.core c).loops (t.core c).ix .running
      ∧ ∀ j, (tget 0 (t.core c).ix j).toNat = if j = r then v % 4096 else (tget 0 (s.core c).ix j).toNat)
  ∧ (∀ s c r v, CoreReady s c → ∃ t, exec (.addix c r v) s = .next t
      ∧ SeqTo s t c (((s.core c).bp + 1) % 4096) (s.core c).loops (t.core c).ix .running
      ∧ ∀ j, (tget 0 (t.core c).ix j).toNat
          = if j = r then ((tget 0 (s.core c).ix r).toNat + v) % 4096 else (tget 0 (s.core c).ix j).toNat)
  ∧ (∀ s c, CoreReady s c → ∃ t, exec (.halt c) s = .next t
      ∧ SeqTo s t c (s.core c).bp (s.core c).loops (s.core c).ix .halted)
  ∧ (∀ s c target, CoreReady s c → target < 4096 → ∃ t, exec (.jump c target) s = .next t
      ∧ SeqTo s t c target (s.core c).loops (s.core c).ix .running)
  ∧ (∀ s c ch, CoreReady s c → ∃ t, exec (.waitdma c ch) s = .next t
      ∧ SeqTo s t c (((s.core c).bp + 1) % 4096) (s.core c).loops (s.core c).ix
          (if (tget {} (s.core c).chans ch).state = .idle ∧ tget none (s.core c).iss.pend ch = none then .running else .dma ch))
  ∧ (∀ s c wire p, CoreReady s c → s.partOfCore c = some p → ∃ t, exec (.barrier c wire) s = .next t
      ∧ SeqTo s { t with parts := s.parts } c (((s.core c).bp + 1) % 4096) (s.core c).loops (s.core c).ix (.wire wire)
      ∧ t.part p = { s.part p with barriers := (s.part p).barriers ++ [(wire, c, t.now)] }
      ∧ ∀ p', p' ≠ p → t.part p' = s.part p')
  ∧ (∀ s c entry p n i o, CoreReady s c → s.partOfCore c = some p →
      nextInst (s.part p) (tideEntry (s.part p) entry) (s.core c).cursor = (n, i, o) →
      let at' := max s.now (s.core c).nextIssue
      let due := instTime (s.part p) (tideEntry (s.part p) entry) n i o
      ∃ t, exec (.waitmark c entry) s = .next t
        ∧ (t.core c).bp = ((s.core c).bp + 1) % 4096 ∧ (t.core c).loops = (s.core c).loops ∧ (t.core c).ix = (s.core c).ix
        ∧ (t.core c).wait = .mark entry due at' ∧ t.now = at'
        ∧ (t.ctlOf p).counts.early = (if at' + tideSlack (tideEntry (s.part p) entry) < due ∧ entry ∈ (s.core c).participates
            then min 4294967295 ((s.ctlOf p).counts.early + 1) else (s.ctlOf p).counts.early)
        ∧ (∀ c', c' ≠ c → t.core c' = s.core c' ∧ t.heal c' = s.heal c')
        ∧ ((s.core c).iss.spbQ = [] → (s.core c).iss.vecQ = [] →
            t = { s with now := t.now, rtc := t.rtc, cores := t.cores, ctl := t.ctl }
              ∧ ∀ p', p' ≠ p → t.ctlOf p' = s.ctlOf p'))

/-- ARMWIN arms an open window that is not armed and whose rows are clear on the scoreboard: the window holds its rows and counts its rows
down from the immediate plus 1. A window that is closed or fenced arms nothing; one that is armed already stops the core with WINDOW_ARM.
DMA_START puts its descriptor into the channel's empty pending register. The model's own readings and choices in it: log 18. -/
def Obligations.WindowArmsAndDescriptorsStart : Prop :=
  (∀ s c win rowsM1,
    let k := s.core c
    let w := tget {} k.windows win
    let e := entryOf { first := winBase w.map, rows := winRows w.map } (if winDir w.map = 1 then .write else .read)
      (.window win) k.iss.serial
    CoreReady s c → w.armed = false → w.fenced = false → w.closedSinceLoad = false → winDir w.map ≠ 0 →
    checkSb (openBundle k).live (openBundle k).mine [e] = .clear →
    ∃ t, exec (.armwin c win rowsM1) s = .next t ∧ (t.core c).bp = (k.bp + 1) % 4096 ∧ (t.core c).wait = .running
      ∧ (t.core c).loops = k.loops ∧ (t.core c).ix = k.ix
      ∧ (t.core c).iss.sb = k.iss.sb ++ [e]
      ∧ (∀ n, tget {} (t.core c).windows n = if n = win then
          { w with armed := true, left := rowsM1 + 1, exhausted := false, poisoned := false, armedAt := t.now }
          else tget {} k.windows n)
      ∧ (∀ c', c' ≠ c → t.core c' = s.core c' ∧ t.heal c' = s.heal c')
      ∧ (k.iss.spbQ = [] → k.iss.vecQ = [] → t = { s with now := t.now, rtc := t.rtc, cores := t.cores }))
  ∧ (∀ s c win rowsM1, CoreReady s c → (tget {} (s.core c).windows win).armed = false →
    (tget {} (s.core c).windows win).fenced = true ∨ (tget {} (s.core c).windows win).closedSinceLoad = true →
    ∃ t, exec (.armwin c win rowsM1) s = .next t
      ∧ SeqTo s t c (((s.core c).bp + 1) % 4096) (s.core c).loops (s.core c).ix .running
      ∧ (t.core c).windows = (s.core c).windows)
  ∧ (∀ s c win rowsM1, CoreReady s c → (tget {} (s.core c).windows win).armed = true →
    ∃ t, exec (.armwin c win rowsM1) s = .next t ∧ (t.core c).wait = .stopped
      ∧ ((s.core c).firstFault = none → (t.core c).firstFault = some .windowArm)
      ∧ (t.core c).windows = (s.core c).windows ∧ t.pad = s.pad ∧ t.marks = s.marks)
  ∧ (∀ s c sel ch desc target d, CoreReady s c → (s.core c).descs[desc]? = some d → 4352 + desc ∉ (s.core c).storeBad →
    tget none (s.core c).iss.pend ch = none →
    ∃ t, exec (.dmaStart c sel ch desc target) s = .next t
      ∧ (∀ n, tget none (t.core c).iss.pend n = if n = ch
          then some { desc := withOffset d target ((s.core c).ixOf sel), idx := desc, entered := t.now }
          else tget none (s.core c).iss.pend n)
      ∧ (t.core c).iss = { (s.core c).iss with pend := (t.core c).iss.pend } ∧ SlotFrame s t c)

/-- SCOREBOARD_RELEASE removes one entry whose work is done with it, whole. STATIONARY_LOAD moves the packet at the queue head, or the
scratchpad tile that is next, into the empty shadow bank of a core that lives; the slot of a packet goes back in the cycle after the load.
-/
def Obligations.EntriesReleaseAndTilesLoad : Prop :=
  (∀ s c entry e, coreExists s c = true → (s.core c).iss.sb[entry]? = some e → releasable (s.core c) e = true →
    (s.core c).snap = none →
    ∃ t, exec (.scoreboardRelease c entry) s = .next t
      ∧ (t.core c).iss.sb = (s.core c).iss.sb.eraseIdx entry
      ∧ (t.core c).bp = (s.core c).bp ∧ (t.core c).wait = (s.core c).wait ∧ (t.core c).windows = (s.core c).windows
      ∧ (∀ d, d ≠ c → t.core d = s.core d ∧ t.heal d = s.heal d)
      ∧ ((s.core c).iss.spbQ = [] → (s.core c).iss.vecQ = [] → t = { s with cores := t.cores }))
  ∧ (∀ s c i p q, coreExists s c = true → (nextArr (s.core c)).arr.cur = some i → i.fromQueue = true →
    (nextArr (s.core c)).arr.shadow = none → arrayFrozen s c = false → (s.heal c).dead = false →
    (nextArr (s.core c)).queue = p :: q →
    let start := max s.now i.issued
    let len := if (bankOfPacket i p).transposed && codeMx (bankOfPacket i p).format then 64 else 32
    let done := loadEnd (nextArr (s.core c)).arr start len
    ((nextArr (s.core c)).arr.clash.2 = 0 → done = start + len) ∧ ∃ t, exec (.stationaryLoad c) s = .next t ∧ (t.core c).queue = q ∧ (t.core c).arr.shadow = some (bankOfPacket i p)
      ∧ (t.core c).arr.loadDone = done
      ∧ (if p.north then (t.gantry (coreX c)).north.returning = (s.gantry (coreX c)).north.returning ++ [(c, done + 1)]
          else (t.gantry (coreX c)).south.returning = (s.gantry (coreX c)).south.returning ++ [(c, done + 1)])
      ∧ (t.heal c).corrected = (if p.corrected = 0 then (s.heal c).corrected
          else min 4294967295 ((s.heal c).corrected + p.corrected))
      ∧ SameBut {} s.cores t.cores c ∧ SameBut {} s.gantries t.gantries (coreX c) ∧ SameBut {} s.health t.health c
      ∧ t = { s with cores := t.cores, gantries := t.gantries, health := t.health, log := t.log, hosts := t.hosts
                     sivar := t.sivar })
  ∧ (∀ s c i, coreExists s c = true → (nextArr (s.core c)).arr.cur = some i → i.fromQueue = false → i.osp = false →
    (nextArr (s.core c)).arr.shadow = none → arrayFrozen s c = false → (s.heal c).dead = false →
    let a := padAt c (i.srcB.first + ((nextArr (s.core c)).arr.chain * arrP i.regs + (nextArr (s.core c)).arr.pass)
      * tileRows (arrB i.regs))
    let n := 1024 * codeBits (arrB i.regs) / 8
    ∃ t b, exec (.stationaryLoad c) s = .next t ∧ (t.core c).arr.shadow = some b
      ∧ b.format = arrB i.regs ∧ b.elems = (List.range n).map (fun j => padByte s (a + j))
      ∧ b.transposed = i.trans ∧ b.skip = false
      ∧ b.scales = (List.range (if codeMx (arrB i.regs) then 32 else 0)).map (fun j => padByte s (a + n + j))
      ∧ t.pad = s.pad ∧ t.marks = s.marks ∧ t.gantries = s.gantries ∧ SameBut {} s.cores t.cores c)

/-- PASS_SWAP of a weight-stationary pass: the shadow bank goes live, and every accumulator of the pass's tokens is the old value, or +0.0
in the first pass of a chain that does not continue one, plus the pass's sum. Of an output-stationary pass: the finished tile waits to be
written. Neither writes the scratchpad. CHAIN_DRAIN writes the oldest finished chain, or OSP tile, at its address; of a row that a chain's
output covers in part every other byte is stored as it was read, and no other byte changes. A freeze of the array holds a drain that
nothing waits for (R70). The model's own readings and choices in it: log 11, 31, 70, 71. -/
def Obligations.PassesAccumulateAndDrain : Prop :=
  (∀ s c i b, coreExists s c = true → (nextArr (s.core c)).arr.cur = some i → i.osp = false → arrayFrozen s c = false →
    (nextArr (s.core c)).arr.shadow = some b →
    let a := (nextArr (s.core c)).arr
    let T := arrT i.regs
    let cont := i.acc = true ∧ a.chain = 0 ∧ a.kept = some T
    let fresh := a.pass = 0 ∧ ¬ cont
    let bank := if fresh then 1 - a.accBank else a.accBank
    let base := padAt c i.srcA.first + (8 * arrStrmOff i.regs + a.pass * sliceBytes (arrA i.regs) T)
    (a.pass = 0 → ∀ j ∈ a.drains, j.ins.osp = true ∨ j.bank ≠ bank) →
    ∃ t, exec (.passSwap c) s = .next t
      ∧ (t.core c).arr.live = some b ∧ (t.core c).arr.shadow = none ∧ (t.core c).arr.bankBit = !a.bankBit
      ∧ (∀ tok n, tok < T → n < 32 → tget fZero (t.core c).arr.acc (accKey bank tok n)
          = fadd (if fresh then fZero else tget fZero a.acc (accKey bank tok n))
              (passSum b (fun r => sliceElem s base (arrA i.regs) T 0 tok r) n))
      ∧ t.pad = s.pad ∧ t.marks = s.marks ∧ SameBut {} s.cores t.cores c)
  ∧ (∀ s c i, coreExists s c = true → (nextArr (s.core c)).arr.cur = some i → i.osp = true → arrayFrozen s c = false →
    let a := (nextArr (s.core c)).arr
    (∀ j ∈ a.drains, j.ins.osp = false ∨ j.bank ≠ 1 - a.ospBank) →
    ∃ t js j, exec (.passSwap c) s = .next t ∧ (t.core c).arr.drains = js ++ [j]
      ∧ js.map (fun d => { d with shifts := [] }) = a.drains.map (fun d => { d with shifts := [] })
      ∧ j.ins = i ∧ j.chain = a.chain ∧ j.pass = a.pass ∧ j.bank = 1 - a.ospBank
      ∧ t.pad = s.pad ∧ t.marks = s.marks ∧ SameBut {} s.cores t.cores c)
  ∧ (∀ s c j0 j js, coreExists s c = true → (s.core c).arr.drains = j0 :: js → arrayFrozen s c = false →
    heldDrain (s.core c) j0 = some j → j.ins.osp = false →
    ∃ t, exec (.chainDrain c) s = .next t ∧ (t.core c).arr.drains = js
      ∧ WroteMerged s t c (chainAddr c j) (chainBytes s c j).1 (decide (j.chain ≠ 0)) (decide (j.chain + 1 < j.ins.drained))
      ∧ t.now = max s.now (drainEnd j)
      ∧ SameBut {} s.cores t.cores c ∧ SameBut {} s.health t.health c
      ∧ t = { s with cores := t.cores, health := t.health, pad := t.pad, marks := t.marks, now := t.now, rtc := t.rtc
                     freeCtr := t.freeCtr, log := t.log, hosts := t.hosts, sivar := t.sivar })
  ∧ (∀ s c j0 js, coreExists s c = true → (s.core c).arr.drains = j0 :: js →
    ((s.core c).arr.cur = none → (s.core c).iss.arrQ = [] → heldDrain (s.core c) j0 = some j0)
      ∧ (∀ j, heldDrain (s.core c) j0 = some j → { j with shifts := [] } = { j0 with shifts := [] })
      ∧ (arrayFrozen s c = true ∨ heldDrain (s.core c) j0 = none → exec (.chainDrain c) s = .next s))
  ∧ (∀ s c j0 j js, coreExists s c = true → (s.core c).arr.drains = j0 :: js → arrayFrozen s c = false →
    heldDrain (s.core c) j0 = some j → j.ins.osp = true →
    ∃ t, exec (.chainDrain c) s = .next t ∧ (t.core c).arr.drains = js
      ∧ WroteBytes s.pad t.pad (ospAddr c j) (ospBytes s c j).1 ∧ t.now = max s.now (drainEnd j)
      ∧ SameBut {} s.cores t.cores c ∧ SameBut {} s.health t.health c
      ∧ t = { s with cores := t.cores, health := t.health, pad := t.pad, marks := t.marks, now := t.now, rtc := t.rtc })

/-- SCRUB_ROW_READ reads the next row, counts what it finds, and moves on; no byte changes unless a core that it has offered is idle and
takes its column's spare. SCRUB_WRITE_BACK rewrites a row that waits: its corrected words have valid check bits, and only a word that
decoded by chance loses its data; the uncorrectable words that it finds in a row of the write-back queue are counted. BARRIER_COMPLETE:
when every enabled core has arrived on the wire, every core that waits on it resumes one cycle after the completion, and no arrival of
that wire is left. HEARTBEAT_TOGGLE toggles the bit of a core in the heartbeat at the boundary of the tick after its last toggle;
HEARTBEAT_MISS makes a core that missed its toggle dead and faults its partition alone. The model's own readings and choices in it: log 5,
32, 49, 73, 74. -/
def Obligations.ScrubberBarriersAndHeartbeats : Prop :=
  (∀ s c, coreExists s c = true → (s.tile (coreTile c)).fastClock = true → (s.heal c).fenced = false →
    ∃ t, exec (.scrubRowRead c) s = .next t
      ∧ t.now = max s.now ((s.heal c).scrubLast + scrubInterval s) ∧ (t.heal c).scrubLast = t.now
      ∧ (t.heal c).scrubRow = (if (s.heal c).scrubRow = 4095 then 0 else (s.heal c).scrubRow + 1)
      ∧ (t.heal c).corrected = (if correctedIn s c (s.heal c).scrubRow = 0 then (s.heal c).corrected
          else min 4294967295 ((s.heal c).corrected + correctedIn s c (s.heal c).scrubRow))
      ∧ (t.heal c).scrubUncorrectable = min 65535 ((s.heal c).scrubUncorrectable + badIn s c (s.heal c).scrubRow)
      ∧ (correctedIn s c (s.heal c).scrubRow ≠ 0 → (s.heal c).scrubRow ∈ (t.heal c).scrubPending)
      ∧ t = { s with now := t.now, rtc := t.rtc, health := t.health, freeCtr := t.freeCtr, log := t.log, hosts := t.hosts
                     sivar := t.sivar, overlay := t.overlay, pad := t.pad, marks := t.marks }
      ∧ (let before := (s.heal c).passCorrected
         let takes := ((s.heal c).offered = true ∨ (before < s.cfg 0x3100 0x11
             ∧ s.cfg 0x3100 0x11 ≤ before + correctedIn s c (s.heal c).scrubRow))
           ∧ s.cfg 0x3100 1 ≠ 2 ∧ spareOf s (coreTile c) (coreX c % 24) = 0 ∧ operationShifts s (coreX c) = 0
           ∧ (∀ p, s.partOfColumn (coreX c / 24) = some p → (s.part p).run = .stopped)
         (¬ takes → SameBut {} s.health t.health c ∧ t.overlay = s.overlay ∧ t.pad = s.pad ∧ t.marks = s.marks)
         ∧ (takes → spareOf t (coreTile c) (coreX c % 24) = 3
             ∧ (s.overlay.entries.length < 1024 →
                 ∃ f, t.overlay.entries = s.overlay.entries ++ [f] ∧ f.cls = 2 ∧ f.unit = coreSite s c ∧ f.origin = 3 ∧ f.flags = 2))))
  ∧ (∀ s c row, coreExists s c = true → row ∈ (s.heal c).scrubPending ∨ row ∈ (s.heal c).writeBack →
    let w0 := wordOf (padAt c row)
    ∃ t, exec (.scrubWriteBack c row) s = .next t
      ∧ (∀ w, tget none t.marks w
          = if w0 ≤ w ∧ w < w0 + 64 ∧ wordCorrected s w = true then none else tget none s.marks w)
      ∧ (∀ a, readByte t.pad a = if w0 ≤ wordOf a ∧ wordOf a < w0 + 64 ∧ wordCorrected s (wordOf a) = true
            ∧ tget none s.marks (wordOf a) = some .many then none else readByte s.pad a)
      ∧ row ∉ (t.heal c).scrubPending ∧ row ∉ (t.heal c).writeBack ∧ SameBut {} s.health t.health c
      ∧ (t.heal c).scrubUncorrectable
          = min 65535 ((s.heal c).scrubUncorrectable + (if row ∈ (s.heal c).scrubPending then 0 else badIn s c row))
      ∧ t = { s with pad := t.pad, marks := t.marks, health := t.health, freeCtr := t.freeCtr, log := t.log, hosts := t.hosts
                     sivar := t.sivar })
  ∧ (∀ s p wire, p < 8 →
    let here := (s.part p).barriers.filter (fun e => e.1 == wire)
    here ≠ [] → (∀ c ∈ s.enabledCores p, ∃ e ∈ here, e.2.1 = c) →
    ∃ t, exec (.barrierComplete p wire) s = .next t
      ∧ t.now = max s.now (here.foldl (fun m e => max m e.2.2) 0 + (s.part p).barrierLatency)
      ∧ (t.part p).barriers = (s.part p).barriers.filter (fun e => e.1 != wire)
      ∧ (∀ c, t.core c = if c ∈ s.enabledCores p ∧ (s.core c).wait = .wire wire
          then { s.core c with wait := .running, nextIssue := t.now + 1 } else s.core c)
      ∧ SameBut {} s.parts t.parts p
      ∧ t = { s with cores := t.cores, parts := t.parts, now := t.now, rtc := t.rtc })
  ∧ (∀ s c, coreExists s c = true → (s.heal c).heartbeat = true → (s.heal c).dead = false →
    (s.tile (coreTile c)).fastClock = true →
    ∃ t, exec (.heartbeatToggle c) s = .next t
      ∧ t.now = max s.now (((s.heal c).toggled + 1) * 1500)
      ∧ t.heal c = { s.heal c with toggled := t.now / 1500, toggleBit := !(s.heal c).toggleBit }
      ∧ SameBut {} s.health t.health c ∧ t = { s with health := t.health, now := t.now, rtc := t.rtc })
  ∧ (∀ s c p, coreExists s c = true → (s.heal c).heartbeat = true → (s.tile (coreTile c)).fastClock = true →
    (s.heal c).toggled < s.now / 1500 → s.partOfCore c = some p →
    ∃ t, exec (.heartbeatMiss c) s = .next t
      ∧ t.heal c = { s.heal c with dead := true, heartbeat := false }
      ∧ (t.ctlOf p).faults = (s.ctlOf p).faults ++ [.coreDead c]
      ∧ SameBut {} s.health t.health c ∧ SameBut {} s.ctl t.ctl p ∧ t = { s with health := t.health, ctl := t.ctl })

/-- REMOTE_ROW_ARRIVAL and REMOTE_READ_REQUEST: an armed window that admits the row lets it be written and acknowledged, or read and
answered on the request's virtual channel, and counts it; the last counted row disarms the window and releases its entries. A row that no
window admits, or of a transfer that was rejected before, changes no byte, is counted as a reject and answered by one. While the bank port
would serve channel 0 or 1 first, an admitted row or request waits in the router (R138); a read's response takes the injection port after
what waits there and after channels 0 and 1 (R139). A core that is fenced, dead or in reset answers with a reject and changes nothing
else. WINDOW_SET sets a window's map at once where the partition has no marks, and at its next mark otherwise; STORE_LOAD writes the
stores of a set of cores of one column in the run states that allow it and answers E_STATE in the others. The model's own readings and
choices in it: log 72, 74. -/
def Obligations.WindowsAdmitRowsAndLoad : Prop :=
  (∀ s c sm sc ch tag row data w, coreExists s c = true → answers s c = true →
    takingWindow (s.core c) 1 (sm, sc, ch, tag) row = some w → data.bytes.length = 512 →
    (remoteWaits s c 1 = true → exec (.remoteRowArrival c sm sc ⟨ch, tag⟩ row data) s = .next s)
    ∧ (remoteWaits s c 1 = false → ∃ t, exec (.remoteRowArrival c sm sc ⟨ch, tag⟩ row data) s = .next t
      ∧ WroteBytes s.pad t.pad (padAt c row) data.bytes
      ∧ (tget {} (t.core c).windows w).left = (tget {} (s.core c).windows w).left - 1
      ∧ ((tget {} (t.core c).windows w).armed = true ↔ (tget {} (s.core c).windows w).left ≠ 1)
      ∧ ((tget {} (s.core c).windows w).left = 1 → ∀ e ∈ (t.core c).iss.sb, e.party ≠ .window w)
      ∧ t.net = s.net ++ (responsePacket s c sm sc 3 3 ch tag none).toList
      ∧ SameBut {} (s.core c).windows (t.core c).windows w ∧ SameBut {} s.cores t.cores c ∧ SameBut {} s.health t.health c
      ∧ t = { s with cores := t.cores, health := t.health, pad := t.pad, marks := t.marks, net := t.net, transit := t.transit }))
  ∧ (∀ s c sm sc ch tag row data, coreExists s c = true → answers s c = true →
    takingWindow (s.core c) 1 (sm, sc, ch, tag) row = none →
    ∃ t, exec (.remoteRowArrival c sm sc ⟨ch, tag⟩ row data) s = .next t ∧ TurnedAway s t c sm sc ch tag)
  ∧ (∀ s c sm sc vc ch tag row w, coreExists s c = true → answers s c = true →
    takingWindow (s.core c) 2 (sm, sc, ch, tag) row = some w →
    let back := (responsePacket s c sm sc 2 vc ch tag (some (readRow s c row))).toList
    (remoteWaits s c 0 = true → exec (.remoteReadRequest c sm sc ⟨vc, ch, tag⟩ row) s = .next s)
    ∧ (remoteWaits s c 0 = false → ∃ t, exec (.remoteReadRequest c sm sc ⟨vc, ch, tag⟩ row) s = .next t
      ∧ t.link = some (readRow s c row) ∧ t.pad = s.pad ∧ t.marks = s.marks
      ∧ ((s.core c).responses = [] → t.net = s.net ++ back
          ∨ t.net = s.net ∧ (t.core c).responses = back.map (fun p => (remoteAt s c 0 + 5, p)))
      ∧ ((s.core c).responses = [] → (∀ n, n < 2 → ((s.core c).chan n).state ≠ .active) → t.net = s.net ++ back)
      ∧ (tget {} (t.core c).windows w).left = (tget {} (s.core c).windows w).left - 1
      ∧ SameBut {} (s.core c).windows (t.core c).windows w ∧ SameBut {} s.cores t.cores c))
  ∧ (∀ s c sm sc vc ch tag row, coreExists s c = true → answers s c = true →
    takingWindow (s.core c) 2 (sm, sc, ch, tag) row = none →
    ∃ t, exec (.remoteReadRequest c sm sc ⟨vc, ch, tag⟩ row) s = .next t ∧ t.link = s.link ∧ TurnedAway s t c sm sc ch tag)
  ∧ (∀ s c sm sc vc ch tag row data, coreExists s c = true → answers s c = false →
    ∃ t, exec (.remoteRowArrival c sm sc ⟨ch, tag⟩ row data) s = .next t ∧ exec (.remoteReadRequest c sm sc ⟨vc, ch, tag⟩ row) s = .next t
      ∧ t.net = s.net ++ (responsePacket s c sm sc 4 3 ch tag none).toList
      ∧ t = { s with cores := t.cores, net := t.net, transit := t.transit })
  ∧ (∀ s cl p c win map, p < 8 → Serves s cl false → winMapOk map = true → win ≤ 15 → coreExists s c = true →
    s.partOfCore c = some p → (tget {} (s.core c).windows win).armed = false → (s.part p).marks = false →
    ∃ t, exec (.windowSet cl p c win map) s = .next t ∧ t.resp = answered stOk
      ∧ tget {} (t.core c).windows win = { tget {} (s.core c).windows win with
          map := map, armed := false, left := 0, closedSinceLoad := decide (winDir map = 0) }
      ∧ SameBut {} (s.core c).windows (t.core c).windows win ∧ SameBut {} s.cores t.cores c
      ∧ t = { s with cores := t.cores, resp := t.resp })
  ∧ (∀ s cl p c win map, p < 8 → Serves s cl false → winMapOk map = true → win ≤ 15 → coreExists s c = true →
    s.partOfCore c = some p → (tget {} (s.core c).windows win).armed = false → (s.part p).marks = true →
    ∃ t, exec (.windowSet cl p c win map) s = .next t ∧ t.resp = answered stOk
      ∧ (t.ctlOf p).windowSets = (s.ctlOf p).windowSets ++ [(c, win, map)]
      ∧ SameBut {} s.ctl t.ctl p ∧ t = { s with ctl := t.ctl, resp := t.resp })
  ∧ (∀ s x rows seg p, columnExists s x = true → (∀ y ∈ rows, y < 144) → s.partOfColumn (x / 24) = some p →
    (loadable s p = true → ∃ t, exec (.storeLoad ⟨x, rows⟩ seg) s = .next t
      ∧ (∀ y ∈ rows, t.core (y * 192 + x) = { s.core (y * 192 + x) with
          bundles := seg.bundles, ranges := seg.ranges, descs := seg.descs, branch := seg.branch
          participates := seg.participates, entry := seg.entry, storeBad := [] })
      ∧ (∀ d, (∀ y ∈ rows, d ≠ y * 192 + x) → t.core d = s.core d)
      ∧ t.resp.status = stOk ∧ t = { s with cores := t.cores, resp := t.resp })
    ∧ (loadable s p = false → ∃ t, exec (.storeLoad ⟨x, rows⟩ seg) s = .next t ∧ t.resp.status = stState
      ∧ t = { s with resp := t.resp }))

/-- DESCRIPTOR_BEGIN: the pending descriptor of an idle channel that is in range, aligned and clear on the scoreboard becomes active,
holds its rows, and leaves the pending register; one that fails a check never begins and its status word says which check. Either way it
is the engine's one begin of that cycle. No byte changes. A bundle that is due is checked first (R45); in STRICT mode a descriptor that
conflicts stops its core and does not issue later (R44). CHANNEL_ROW_MOVE does, of the next actions of a channel that no other comes
before at their ports, the one whose port serves it first, in the cycle its port serves it: a FILL writes its pattern into its next row; a
copy from local rows reads its next row into staging, and writes its oldest staged row to a local destination or sends it to its remote
row address; a copy from a remote side asks for its next row by its own address, and writes the next row that has come; the result row
follows the last. The own quay forwards a row of class 1 or 2 for another module. No other byte changes. A channel that another comes
before moves nothing. The model's own readings and choices in it: log 35, 67, 72. -/
def Obligations.DescriptorsBeginAndChannelsMoveRows : Prop :=
  (∀ s c ch pd, coreExists s c = true → answers s c = true → tget none (s.core c).iss.pend ch = some pd →
    (s.core c).snap = none → ((s.core c).chan ch).state = .idle →
    let at' := max s.now ((s.core c).beginAt pd)
    (bundleDue s c at' = true ∨ pd.refused = true → exec (.descriptorBegin c ch) s = .next s)
    ∧ (bundleDue s c at' = false → pd.refused = false → (∀ n, n < ch → takesBegin (s.core c) at' n = false) →
    let new := descEntries pd.desc ch (s.core c).iss.serial
    (descInRange pd.desc = true → descAligned pd.desc = true → checkSb (s.core c).iss.sb [] new = .clear →
      ∃ t, exec (.descriptorBegin c ch) s = .next t
        ∧ ((t.core c).chan ch).state = .active ∧ ((t.core c).chan ch).desc = pd.desc ∧ ((t.core c).chan ch).idx = pd.idx
        ∧ ((t.core c).chan ch).rowsRead = 0 ∧ ((t.core c).chan ch).rowsDone = 0 ∧ ((t.core c).chan ch).owed = 0
        ∧ ((t.core c).chan ch).tag = (((s.core c).chan ch).tag + 1) % 4096 ∧ (t.core c).lastBegin = some at'
        ∧ (t.core c).iss = { (s.core c).iss with pend := (t.core c).iss.pend, sb := (s.core c).iss.sb ++ new
                                                 serial := (s.core c).iss.serial + 1 }
        ∧ tget none (t.core c).iss.pend ch = none ∧ SameBut none (s.core c).iss.pend (t.core c).iss.pend ch
        ∧ SameBut {} (s.core c).chans (t.core c).chans ch ∧ SameBut {} s.cores t.cores c
        ∧ t.now = at' ∧ t = { s with cores := t.cores, now := t.now, rtc := t.rtc })
    ∧ (descInRange pd.desc = false ∨ descAligned pd.desc = false →
      ∃ t, exec (.descriptorBegin c ch) s = .next t
        ∧ ((t.core c).chan ch).status = statusWord pd.idx (if descInRange pd.desc = false then 2 else 1) false 0 0
        ∧ ((t.core c).chan ch).state = .idle ∧ (t.core c).lastBegin = some at'
        ∧ ((t.core c).chan ch).rejectedCount = min 65535 (((s.core c).chan ch).rejectedCount + 1)
        ∧ tget none (t.core c).iss.pend ch = none ∧ (t.core c).iss.sb = (s.core c).iss.sb
        ∧ SameBut {} (s.core c).chans (t.core c).chans ch ∧ SameBut {} s.cores t.cores c
        ∧ (∀ p, s.partOfCore c ≠ some p → t.ctlOf p = s.ctlOf p) ∧ (descTag pd.desc = 0xFFF → t.ctl = s.ctl)
        ∧ t.now = at' ∧ t = { s with cores := t.cores, ctl := t.ctl, now := t.now, rtc := t.rtc })
    ∧ (descInRange pd.desc = true → descAligned pd.desc = true → checkSb (s.core c).iss.sb [] new = .hazard → coreElastic s c = false →
      ∃ t, exec (.descriptorBegin c ch) s = .next t ∧ (t.core c).wait = .stopped ∧ (t.core c).chans = (s.core c).chans
        ∧ (t.core c).iss = { (s.core c).iss with pend := (t.core c).iss.pend }
        ∧ tget none (t.core c).iss.pend ch = some { pd with refused := true } ∧ SameBut none (s.core c).iss.pend (t.core c).iss.pend ch
        ∧ ((s.core c).firstFault = none → (t.core c).firstFault = some .sbHazard) ∧ SameBut {} s.cores t.cores c
        ∧ t.pad = s.pad ∧ t.marks = s.marks)))
  ∧ (∀ s c ch a early, chosenAct s c ch = some (a, early) →
    (a, early) ∈ nextActs (s.core c) ch ∧ portRival s c ch a.port (grantAt s c a.port early a.cycles) = false
    ∧ ∀ b e, (b, e) ∈ nextActs (s.core c) ch → portRival s c ch b.port (grantAt s c b.port e b.cycles) = false →
        grantAt s c a.port early a.cycles ≤ grantAt s c b.port e b.cycles)
  ∧ (∀ s c ch, let v := (s.core c).chan ch
    let early := v.since + 6
    coreExists s c = true → answers s c = true → v.state = .active → descFill v.desc = true →
    v.rowsDone < descN v.desc → (s.core c).responses = [] → portRival s c ch 1 (grantAt s c 1 early 1) = false →
    ∃ t, exec (.channelRowMove c ch) s = .next t
      ∧ WroteBytes s.pad t.pad (padAt c (dstRowOf v.desc v.rowsDone))
          (List.replicate 64 (leBytes 8 (descPattern v.desc).toNat)).flatten
      ∧ RowRetired s t c ch early)
  ∧ (∀ s c ch early, let v := (s.core c).chan ch
    coreExists s c = true → answers s c = true → chosenAct s c ch = some (.read, early) →
    ∃ t, exec (.channelRowMove c ch) s = .next t
      ∧ ((t.core c).chan ch) = { v with
          staging := ((t.core c).chan ch).staging, ready := ((t.core c).chan ch).ready, rowsRead := v.rowsRead + 1
          bankWait := ((t.core c).chan ch).bankWait }
      ∧ (∃ n, ((t.core c).chan ch).bankWait = satAdd 32 v.bankWait n) ∧ (t.core c).rrRead = passRr (s.core c).rrRead ch
      ∧ tfind ((t.core c).chan ch).staging v.rowsRead = some (readRow s c (srcRowOf v.desc v.rowsRead))
      ∧ (∀ n, n ≠ v.rowsRead → tfind ((t.core c).chan ch).staging n = tfind v.staging n)
      ∧ tfind ((t.core c).chan ch).ready v.rowsRead = some (t.now + 4) ∧ t.now = max s.now (grantAt s c 0 early 1)
      ∧ SameBut {} (s.core c).chans (t.core c).chans ch ∧ SameBut {} s.cores t.cores c
      ∧ t.pad = s.pad ∧ t.marks = s.marks)
  ∧ (∀ s c ch n row early, let v := (s.core c).chan ch
    coreExists s c = true → answers s c = true → chosenAct s c ch = some (.store n row, early) →
    (s.core c).responses = [] → row.bytes.length = 512 →
    ∃ t, exec (.channelRowMove c ch) s = .next t
      ∧ WroteBytes s.pad t.pad (padAt c (dstRowOf v.desc n)) row.bytes
      ∧ (((t.core c).chan ch).poison = true ↔ v.poison = true ∨ row.poison ≠ [])
      ∧ tfind ((t.core c).chan ch).staging n = none ∧ RowRetired s t c ch early)
  ∧ (∀ s c ch early, let v := (s.core c).chan ch
    coreExists s c = true → answers s c = true → chosenAct s c ch = some (.storeResult, early) →
    ∃ t, exec (.channelRowMove c ch) s = .next t ∧ ((t.core c).chan ch).resultDone = true
      ∧ ((t.core c).chan ch).rowsDone = v.rowsDone ∧ t.now = max s.now (grantAt s c 1 early 1)
      ∧ WroteBytes s.pad t.pad (padAt c (dstRowOf v.desc (descN v.desc - 1) + 1)) (resultRow v).bytes)
  ∧ (∀ s c ch n row a early, let v := (s.core c).chan ch
    coreExists s c = true → answers s c = true → chosenAct s c ch = some (.send n row, early) → n < descN v.desc →
    (s.core c).responses = [] → dstAddrOf v.desc n = some a → routerRejects s c (descDstLoc v.desc) a = false →
    let p := rowPacket s c (descDstLoc v.desc) a 0 (descVc v.desc) ch v.tag (some row)
    ∃ t, exec (.channelRowMove c ch) s = .next t ∧ ((t.core c).chan ch).flight = v.flight ++ [(n, row)]
      ∧ tfind ((t.core c).chan ch).staging n = none ∧ RowPutOut s t c ch early 4 p
      ∧ (descDstLoc v.desc = 0 → addrModule s 0 a ≠ s.moduleNumber → addrClass a = 1 ∨ addrClass a = 2 →
          Sent s t (addrQuay a) (rowHead (addrModule s 0 a) (addrQuay a) (addrOffset a) (some row)) (netBytes p)))
  ∧ (∀ s c ch a early, let v := (s.core c).chan ch
    coreExists s c = true → answers s c = true → chosenAct s c ch = some (.ask, early) → (s.core c).responses = [] →
    srcAddrOf v.desc v.rowsSent = some a → routerRejects s c (descSrcLoc v.desc) a = false →
    ∃ t, exec (.channelRowMove c ch) s = .next t ∧ ((t.core c).chan ch).staging = v.staging
      ∧ RowPutOut s t c ch early 1 (rowPacket s c (descSrcLoc v.desc) a 1 (descVc v.desc) ch v.tag none))
  ∧ (∀ s c ch, coreExists s c = true → answers s c = true → chosenAct s c ch = none →
    ∃ t, exec (.channelRowMove c ch) s = .next t ∧ (t.core c).chan ch = { (s.core c).chan ch with
          bankWait := ((t.core c).chan ch).bankWait, triedAt := ((t.core c).chan ch).triedAt }
      ∧ SameBut {} (s.core c).chans (t.core c).chans ch ∧ SameBut {} s.cores t.cores c ∧ t = { s with cores := t.cores })

/-- Responses and rejects of its own transfer reach an active channel that is owed one: a write response counts its row done, a read
response is staged, a reject keeps the lowest rejected row. A channel that drains discards what arrives and is idle with the last one
owed. One that carries another transfer's tag changes nothing. Nothing but the channel changes. CHANNEL_COMPLETE: a channel whose rows,
responses and result row are all done becomes idle with its status word, and its entries leave the scoreboard; a rejected transfer, and a
tagged one that ends before its mark's slack water, are counted for the step report. DMA_DISABLE: every masked channel loses its pending
descriptor and is no longer active; a staged row for a local destination may still be written, and no other byte changes; while the
partition has marks the command waits for the next one. The model's own readings and choices in it: log 8, 72. -/
def Obligations.ResponsesReachChannelsThatComplete : Prop :=
  ((∀ s c ch n row rest, let v := (s.core c).chan ch
    coreExists s c = true → v.state = .active → v.owed ≠ 0 → v.flight = (n, row) :: rest →
    ∃ t, exec (.writeResponseArrival c ⟨ch, v.tag⟩) s = .next t
      ∧ (t.core c).chan ch = (if n = descN v.desc
          then { v with owed := v.owed - 1, flight := rest, resultOwed := false, resultDone := true }
          else { v with owed := v.owed - 1, flight := rest, rowsDone := v.rowsDone + 1, lastDone := s.now })
      ∧ t.core c = { s.core c with chans := (t.core c).chans } ∧ SameBut {} (s.core c).chans (t.core c).chans ch
      ∧ SameBut {} s.cores t.cores c ∧ t = { s with cores := t.cores })
  ∧ (∀ s c ch k data, let v := (s.core c).chan ch
    coreExists s c = true → v.state = .active → v.owed ≠ 0 → (∀ r, v.rejected = some r → k < r) →
    ∃ t, exec (.readResponseArrival c ⟨ch, v.tag⟩ k data) s = .next t
      ∧ tfind ((t.core c).chan ch).staging k = some data ∧ tfind ((t.core c).chan ch).ready k = some s.now
      ∧ (∀ n, n ≠ k → tfind ((t.core c).chan ch).staging n = tfind v.staging n)
      ∧ (t.core c).chan ch = { v with owed := v.owed - 1, staging := ((t.core c).chan ch).staging
                                      ready := ((t.core c).chan ch).ready }
      ∧ t.core c = { s.core c with chans := (t.core c).chans } ∧ SameBut {} (s.core c).chans (t.core c).chans ch
      ∧ SameBut {} s.cores t.cores c ∧ t = { s with cores := t.cores })
  ∧ (∀ s c ch k, let v := (s.core c).chan ch
    coreExists s c = true → v.state = .active → v.owed ≠ 0 →
    ∃ t, exec (.rejectArrival c ⟨ch, v.tag⟩ k) s = .next t
      ∧ ((t.core c).chan ch).rejected = some (min (v.rejected.getD k) k) ∧ ((t.core c).chan ch).owed = v.owed - 1
      ∧ ((t.core c).chan ch).rowsDone = v.rowsDone
      ∧ t.core c = { s.core c with chans := (t.core c).chans } ∧ SameBut {} (s.core c).chans (t.core c).chans ch
      ∧ SameBut {} s.cores t.cores c ∧ t = { s with cores := t.cores })
  ∧ (∀ s c ch, let v := (s.core c).chan ch
    coreExists s c = true → v.state = .draining → v.owed ≠ 0 →
    ∃ t, exec (.writeResponseArrival c ⟨ch, v.tag⟩) s = .next t ∧ ((t.core c).chan ch).owed = v.owed - 1
      ∧ (((t.core c).chan ch).state = .idle ↔ v.owed = 1)
      ∧ SameBut {} (s.core c).chans (t.core c).chans ch ∧ SameBut {} s.cores t.cores c ∧ t = { s with cores := t.cores })
  ∧ (∀ s c ch tag k data, coreExists s c = true → tag ≠ ((s.core c).chan ch).tag →
    ∃ t, exec (.writeResponseArrival c ⟨ch, tag⟩) s = .next t ∧ exec (.readResponseArrival c ⟨ch, tag⟩ k data) s = .next t
      ∧ exec (.rejectArrival c ⟨ch, tag⟩ k) s = .next t ∧ (∀ d, t.core d = s.core d) ∧ t = { s with cores := t.cores }))
  ∧ ((∀ s c ch p, let v := (s.core c).chan ch
    coreExists s c = true → channelDone v = true → (s.core c).snap = none → s.partOfCore c = some p →
    ∃ t, exec (.channelComplete c ch) s = .next t
      ∧ ((t.core c).chan ch).state = .idle
      ∧ ((t.core c).chan ch).status = statusWord v.idx (if v.rejected.isSome then 3 else 0) v.poison (v.rejected.getD 0) v.rowsDone
      ∧ (∀ e, e ∈ (t.core c).iss.sb ↔ e ∈ (s.core c).iss.sb ∧ e.party ≠ .dma ch)
      ∧ (tget none (s.core c).iss.pend ch = none → (s.core c).wait = .dma ch → (t.core c).wait = .running)
      ∧ (t.ctlOf p).counts.rejectedTransfers = (s.ctlOf p).counts.rejectedTransfers + (if v.rejected.isSome then 1 else 0)
      ∧ (t.ctlOf p).counts.early = (if tagEarly s c v.desc v.target then min 4294967295 ((s.ctlOf p).counts.early + 1)
          else (s.ctlOf p).counts.early)
      ∧ SameBut {} (s.core c).chans (t.core c).chans ch ∧ SameBut {} s.cores t.cores c ∧ SameBut {} s.ctl t.ctl p
      ∧ t = { s with cores := t.cores, ctl := t.ctl })
  ∧ (∀ s cl p c mask, p < 8 → Serves s cl false → coreExists s c = true → s.partOfCore c = some p → mask ≤ 255 →
    (s.part p).marks = false →
    ∃ t, exec (.dmaDisable cl p c mask) s = .next t ∧ t.resp = answered stOk
      ∧ (∀ ch, ch < 8 → mask.testBit ch = true →
          tget none (t.core c).iss.pend ch = none ∧ ((t.core c).chan ch).state ≠ .active
          ∧ (((s.core c).chan ch).state = .active → (((t.core c).chan ch).state = .idle
              ↔ ((s.core c).chan ch).owed = 0 ∨ ((s.core c).chan ch).since = s.now)))
      ∧ (∀ ch, mask.testBit ch = false → (t.core c).chan ch = (s.core c).chan ch)
      ∧ (∀ a, readByte t.pad a = readByte s.pad a ∨ ∃ ch e, mask.testBit ch = true ∧ e ∈ ((s.core c).chan ch).staging
          ∧ padAt c (dstRowOf ((s.core c).chan ch).desc e.1) ≤ a
          ∧ a < padAt c (dstRowOf ((s.core c).chan ch).desc e.1) + 512)
      ∧ SameBut {} s.cores t.cores c ∧ SameBut {} s.ctl t.ctl p
      ∧ t = { s with cores := t.cores, health := t.health, pad := t.pad, marks := t.marks, freeCtr := t.freeCtr, ctl := t.ctl
                     resp := t.resp })
  ∧ (∀ s cl p c mask, p < 8 → Serves s cl false → coreExists s c = true → s.partOfCore c = some p → mask ≤ 255 →
    (s.part p).marks = true →
    ∃ t, exec (.dmaDisable cl p c mask) s = .next t ∧ t.resp = answered stOk
      ∧ (t.ctlOf p).disables = (s.ctlOf p).disables ++ [(c, mask)] ∧ SameBut {} s.ctl t.ctl p
      ∧ t = { s with ctl := t.ctl, resp := t.resp }))

/-- GANTRY_COMMIT takes the head packet in the end's next slot after those of the packet before it, when every core that accepts its tag
has a credit: its beats are sent to each of them, one slot a beat, and one credit of each is used; a packet that no core accepts is
dropped and counted an orphan. Either way the quay that sent it is owed its buffer credit. GANTRY_BEAT_ARRIVAL: the beat that arrived
joins its packet at the core's tap where the core's mask has its tag, and is discarded elsewhere; with the last beat the packet enters the
core's tile queue. CREDIT_RETURN gives one credit of the core back to its end, a lane's latency after the slot was freed; while the tile's
emergency holds the load of that slot, none (R55, R70). MULTICAST_STALL, for a packet that cannot be committed: a fault of the partition
in STRICT mode, one DEGRADED event in ELASTIC mode. TRANSIT_SLOT_ENTRY: the oldest flit of a partition that is next for a foreign link
enters it in a cycle whose slot the partition holds, no two in one cycle, and nothing of the crossed partition changes; in any other
cycle, on a link of its own columns, or with no flit waiting, none enters. Past its first foreign link a flit keeps pace with its train.
The model's own readings and choices in it: log 5, 21, 72. -/
def Obligations.GantriesCommitDeliverAndPass : Prop :=
  (∀ s x north i rest, columnExists s x = true → ((s.gantry x).side north).inbound = i :: rest →
    let g := s.gantry x
    let e := g.side north
    let p := injectPacket i.packet
    let rows := acceptors g (hdrTag p.header)
    (rows = [] → ∃ t, exec (.gantryCommit x north) s = .next t
      ∧ (t.gantry x).side north = { e with inbound := rest, nextSince := s.now, stallReported := false
                                           owed := e.owed ++ [i.quay], orphans := e.orphans + 1 }
      ∧ (t.gantry x).side (!north) = g.side (!north) ∧ SameBut {} s.gantries t.gantries x ∧ t = { s with gantries := t.gantries })
    ∧ (∀ at', rows ≠ [] → (∀ y ∈ rows, 0 < tget 0 e.credits y) → nextSlot g north (max s.now e.nextFree) = some at' →
      ∃ t, exec (.gantryCommit x north) s = .next t
        ∧ ((t.gantry x).side north).inbound = rest ∧ ((t.gantry x).side north).owed = e.owed ++ [i.quay]
        ∧ (∀ y, tget 0 ((t.gantry x).side north).credits y = tget 0 e.credits y - rows.count y)
        ∧ ((t.gantry x).side north).lane = e.lane ++ beatsInLane s g north x at' p rows
        ∧ ((t.gantry x).side north).nextFree = slotAfter g north at' (packetBeats p - 1) + 1
        ∧ (t.gantry x).side (!north) = g.side (!north) ∧ (t.gantry x).masks = g.masks ∧ t.now = max s.now at'
        ∧ SameBut {} s.gantries t.gantries x ∧ t = { s with gantries := t.gantries, now := t.now, rtc := t.rtc }))
  ∧ ((∀ s c north n due b, let e := (s.gantry (coreX c)).side north
    let mine := (tget 0 (s.gantry (coreX c)).masks (coreY c)).getLsbD b.tag
    let have' := tget [] e.taps (coreY c) ++ [b]
    coreExists s c = true → e.lane.findIdx? (fun l => l.1 == c) = some n → e.lane[n]? = some (c, due, b) →
    ∃ t, exec (.gantryBeatArrival c north) s = .next t
      ∧ (t.core c).queue = (if mine ∧ b.last = true then (s.core c).queue ++ [packetOfBeats have' north] else (s.core c).queue)
      ∧ tget [] ((t.gantry (coreX c)).side north).taps (coreY c)
          = (if !mine then tget [] e.taps (coreY c) else if b.last then [] else have')
      ∧ ((t.gantry (coreX c)).side north).lane = e.lane.eraseIdx n
      ∧ t.now = max s.now due ∧ SameBut {} s.cores t.cores c ∧ SameBut {} s.gantries t.gantries (coreX c)
      ∧ t = { s with cores := t.cores, gantries := t.gantries, now := t.now, rtc := t.rtc })
  ∧ (∀ s c north freed, let e := (s.gantry (coreX c)).side north
    let held := arrayFrozen s c = true ∧ (s.tile (coreTile c)).emergencySince < freed
    coreExists s c = true → tfind e.returning c = some freed →
    (held → exec (.creditReturn c north) s = .next s) ∧ (¬ held → ∃ t, exec (.creditReturn c north) s = .next t
      ∧ (∀ y, tget 0 ((t.gantry (coreX c)).side north).credits y
          = if y = coreY c then tget 0 e.credits y + 1 else tget 0 e.credits y)
      ∧ ((t.gantry (coreX c)).side north).returning = e.returning.erase (c, freed)
      ∧ t.now = max s.now (freed + beatLatency s north (coreX c) (coreY c))
      ∧ (t.gantry (coreX c)).side (!north) = (s.gantry (coreX c)).side (!north)
      ∧ SameBut {} s.gantries t.gantries (coreX c) ∧ t = { s with gantries := t.gantries, now := t.now, rtc := t.rtc }))
  ∧ (∀ s x north, columnExists s x = true → stalls (s.gantry x) ((s.gantry x).side north) north s.now = false →
    exec (.multicastStall x north) s = .next s)
  ∧ (∀ s x north i rest p, let e := (s.gantry x).side north
    columnExists s x = true → e.inbound = i :: rest → e.stallReported = false →
    stalls (s.gantry x) e north s.now = true → s.partOfX x = some p →
    ∃ t, exec (.multicastStall x north) s = .next t ∧ t.now = max s.now (e.nextSince + 4096)
      ∧ (t.gantry x).side north = { e with stallReported := true }
      ∧ ((s.part p).elastic = true → t.ctl = s.ctl ∧ Logged s t 2 0x0105 (columnEnd x north) (hdrTag i.packet.header))
      ∧ ((s.part p).elastic = false → t.log = s.log ∧ (t.ctlOf p).faults
          = (s.ctlOf p).faults ++ [.multicastStall (columnEnd x north) (hdrTag i.packet.header)] ∧ SameBut {} s.ctl t.ctl p)
      ∧ SameBut {} s.gantries t.gantries x
      ∧ t = { s with gantries := t.gantries, ctl := t.ctl, log := t.log, hosts := t.hosts, sivar := t.sivar, now := t.now
                     rtc := t.rtc }))
  ∧ (∀ s p y x cycle east n f, p < 8 →
    s.transit.findIdx? (fun g => g.part == p && g.row == y && g.east == east && nextColumn g == x) = some n →
    s.transit[n]? = some f → s.bandHas p (x / 24) = false →
    let at' := match f.entered with
      | none => max (max s.now cycle) (transitFrom s p y east)
      | some (w, u) => u + linkDistance s y x east - linkDistance s y w east
    ((slotsHeld s p east).testBit (linkSlot s y x at' east) = true →
      ∃ t, exec (.transitSlotEntry p ⟨y, x⟩ cycle east) s = .next t ∧ t.transit = moveFlit s.transit n x at' f
        ∧ t.now = max s.now at' ∧ t = { s with now := t.now, rtc := t.rtc, transit := t.transit, transitUsed := t.transitUsed }
        ∧ (if f.entered = none then transitFrom t p y east = at' + 1 else t.transitUsed = s.transitUsed))
    ∧ ((slotsHeld s p east).testBit (linkSlot s y x at' east) = false →
      exec (.transitSlotEntry p ⟨y, x⟩ cycle east) s = .next s))
  ∧ (∀ s p y x cycle east, p < 8 →
    s.transit.findIdx? (fun g => g.part == p && g.row == y && g.east == east && nextColumn g == x) = none ∨ s.bandHas p (x / 24) = true →
    exec (.transitSlotEntry p ⟨y, x⟩ cycle east) s = .next s)

/-- FAST_CLOCK_START: the clock of a tile that may run takes up the count at the next tick boundary. BOUNDARY_PHASE_CHECK: within 2 cycles
nothing happens; beyond them every running partition that crosses the boundary has a fault, and a FAULT event names the boundary.
BOUNDARY_RECALIBRATE: with the crossing partitions at rest the boundary has no error. BEACON_CLOCK_LOST: the tile is unreachable, its
cores are dead, its children have another parent, its column is unusable and the partitions that cross it fault. ROUTER_ERROR: a site in
use stops forwarding, and the running partitions that cross its tile fault; where its column in that tile has a shift or is lost already,
the column is lost. The model's own readings and choices in it: log 5, 21, 22, 37. -/
def Obligations.ClocksBoundariesAndLostTiles : Prop :=
  (∀ s tile, tile < 48 → (s.tile tile).fastClock = false → clockAllowed s tile = true →
    ∃ t, exec (.fastClockStart tile) s = .next t
      ∧ t.tile tile = { s.tile tile with fastClock := true, pickUp := (s.now / 1500 + 1) * 1500 }
      ∧ SameBut {} s.tiles t.tiles tile ∧ t = { s with tiles := t.tiles })
  ∧ (∀ s a b err, isBoundary a b = true →
    (err.natAbs ≤ 32 → exec (.boundaryPhaseCheck a b err) s = .next s)
    ∧ (32 < err.natAbs → ∃ t, exec (.boundaryPhaseCheck a b err) s = .next t
        ∧ tget 0 t.boundaries (boundaryKey a b) = err ∧ SameBut 0 s.boundaries t.boundaries (boundaryKey a b)
        ∧ FaultsAdded s t (fun p => crossesBoundary s p a b) (.boundaryPhase a b err)
        ∧ Logged s t 3 0x0104 (boundaryKey a b) (unsignedOf 32 err)
        ∧ t = { s with boundaries := t.boundaries, ctl := t.ctl, log := t.log, hosts := t.hosts, sivar := t.sivar }))
  ∧ (∀ s a b, isBoundary a b = true → (∀ p, p < 8 → crossesBoundary s p a b = true → atRest s p = true) →
    ∃ t, exec (.boundaryRecalibrate a b) s = .next t ∧ tget 0 t.boundaries (boundaryKey a b) = 0
      ∧ SameBut 0 s.boundaries t.boundaries (boundaryKey a b) ∧ t = { s with boundaries := t.boundaries })
  ∧ (∀ s tile, tile < 48 → (s.tile tile).unreachable = false →
    ∃ t, exec (.beaconClockLost tile) s = .next t
      ∧ (t.tile tile).unreachable = true ∧ (t.tile tile).fastClock = false
      ∧ (∀ c ∈ s.cores.map (·.1), coreTile c = tile → (t.heal c).dead = true ∧ (t.heal c).heartbeat = false)
      ∧ (∀ c, coreTile c ≠ tile → t.heal c = s.heal c)
      ∧ (∀ u, u < 48 → u ≠ tile → (s.tile u).parent = some tile → (t.tile u).parent ≠ some tile)
      ∧ (∀ u, (s.tile u).parent ≠ some tile → u ≠ tile → t.tile u = s.tile u)
      ∧ tile % 8 ∈ t.overlay.unusable
      ∧ FaultsAdded s t (fun p => crossesTile s p tile)
          (.routerDead (siteId tile 0 0) (partMask (partsWhere (fun p => crossesTile s p tile))))
      ∧ t.cores = s.cores ∧ t.pad = s.pad)
  ∧ (∀ s site, siteTile site < 48 → siteCol site < 24 → siteRow site < 25 → site ∉ s.routersDown → siteInUse s site = true →
    let hit := fun p => crossesTile s p (siteTile site) && (s.part p).live
    (∃ p, p < 8 ∧ hit p = true) →
    ∃ t, exec (.routerError site) s = .next t ∧ t.routersDown = s.routersDown ++ [site]
      ∧ FaultsAdded s t hit (.routerDead site (partMask (partsWhere hit)))
      ∧ (spareOf s (siteTile site) (siteCol site) = 0 → t = { s with routersDown := t.routersDown, ctl := t.ctl })
      ∧ (spareOf s (siteTile site) (siteCol site) ≠ 0 →
          (s.isD = false ∨ siteCol site < 22 → spareOf t (siteTile site) (siteCol site) = 4) ∧ siteTile site % 8 ∈ t.overlay.unusable
          ∧ t = { s with routersDown := t.routersDown, ctl := t.ctl, overlay := t.overlay, log := t.log, hosts := t.hosts
                         sivar := t.sivar }))

/-- CORE_RESET and BERTH_RESET clear the core, or every core of its berth, at the next tick boundary, when the partition is STOPPED or in
FAULT, and touch no other core; with the partition in any other run state they answer E_BUSY and do nothing. CORE_RESET_COMPLETE ends a
reset with no channel draining; DRAIN_ABANDON makes a channel that still drains idle. The model's own readings and choices in it: log 5,
74. -/
def Obligations.CoreResetsClearTheirCores : Prop :=
  (∀ s cl p c, p < 8 → Serves s cl false → coreExists s c = true → s.partOfCore c = some p →
    (s.part p).run = .stopped ∨ (s.part p).run = .fault →
    ∃ t, exec (.coreReset cl p c) s = .next t ∧ t.resp = answered stOk ∧ t.now = max s.now ((s.now / 1500 + 1) * 1500)
      ∧ CoreCleared s t c ∧ SameBut {} s.cores t.cores c ∧ SameBut {} s.health t.health c ∧ SameBut {} s.ctl t.ctl p
      ∧ t = { s with resp := t.resp, now := t.now, rtc := t.rtc, gantries := t.gantries, cores := t.cores, health := t.health
                     pad := t.pad, marks := t.marks, freeCtr := t.freeCtr, ctl := t.ctl, log := t.log, hosts := t.hosts
                     sivar := t.sivar, net := t.net, transit := t.transit, tiles := t.tiles, fabric := t.fabric
                     ledger := t.ledger }
      ∧ ((s.core c).responses = [] → t.net = s.net ∧ t.transit = s.transit ∧ t.tiles = s.tiles ∧ t.fabric = s.fabric ∧ t.ledger = s.ledger))
  ∧ (∀ s cl p c, p < 8 → Serves s cl false → coreExists s c = true → s.partOfCore c = some p →
    (s.part p).run = .stopped ∨ (s.part p).run = .fault →
    ∃ t, exec (.berthReset cl p c) s = .next t ∧ t.resp = answered stOk
      ∧ (∀ d ∈ berthCores s c, CoreCleared s t d)
      ∧ (∀ d, d ∉ berthCores s c → t.core d = s.core d ∧ t.heal d = s.heal d) ∧ SameBut {} s.ctl t.ctl p
      ∧ t = { s with resp := t.resp, now := t.now, rtc := t.rtc, gantries := t.gantries, cores := t.cores, health := t.health
                     pad := t.pad, marks := t.marks, freeCtr := t.freeCtr, ctl := t.ctl, log := t.log, hosts := t.hosts
                     sivar := t.sivar, net := t.net, transit := t.transit, tiles := t.tiles, fabric := t.fabric
                     ledger := t.ledger }
      ∧ ((∀ d ∈ berthCores s c, (s.core d).responses = []) → t.net = s.net ∧ t.transit = s.transit ∧ t.tiles = s.tiles ∧ t.fabric = s.fabric ∧ t.ledger = s.ledger))
  ∧ (∀ s cl p c, p < 8 → Serves s cl false → coreExists s c = true → s.partOfCore c = some p →
    (s.part p).run ≠ .stopped → (s.part p).run ≠ .fault →
    exec (.coreReset cl p c) s = .next { s with resp := answered stBusy }
      ∧ exec (.berthReset cl p c) s = .next { s with resp := answered stBusy })
  ∧ (∀ s c, coreExists s c = true → (∀ e ∈ (s.core c).chans, e.2.state ≠ .draining) →
    ∃ t, exec (.coreResetComplete c) s = .next t ∧ t.heal c = { s.heal c with resetting := false }
      ∧ SameBut {} s.health t.health c ∧ t = { s with health := t.health })
  ∧ (∀ s c ch, coreExists s c = true → ((s.core c).chan ch).state = .draining → (s.heal c).resetting = true →
    ∃ t, exec (.drainAbandon c ch) s = .next t
      ∧ (t.core c).chan ch = { (s.core c).chan ch with state := .idle, owed := 0, flight := [] }
      ∧ t.now = max s.now (((s.core c).chan ch).drainSince + 1500000)
      ∧ SameBut {} (s.core c).chans (t.core c).chans ch ∧ SameBut {} s.cores t.cores c
      ∧ t = { s with cores := t.cores, now := t.now, rtc := t.rtc })

/-- The commands of a RUNNING partition: PREEMPT opens a ticket and waits for a pre-emptable mark, HALT and END wait for theirs, WITHDRAW
ends the ticket of a waiting PREEMPT with E_STATE, PREEMPT_TIMEOUT ends it with E_TIMEOUT four step periods after the command. With the
partition in any other state each command answers E_STATE and changes nothing. The model's own readings and choices in it: log 52, 74, 78.
-/
def Obligations.PartitionCommandsWaitForMarks : Prop :=
  (∀ s cl p, p < 8 → Serves s cl false → (s.part p).run = .running → (s.ctlOf p).preempt = none →
    (tideTable (s.part p)).any tidePreempt = true →
    ∃ t, exec (.preempt cl p) s = .next t
      ∧ t.resp = { status := 0, flags := 1, ticket := s.sivar.nextTicket, data := [], executed := 1 }
      ∧ t.ctlOf p = { s.ctlOf p with preempt := some (s.sivar.nextTicket, s.now) }
      ∧ (∃ k, t.sivar.tickets.getLast? = some k ∧ k.number = s.sivar.nextTicket ∧ k.done = false)
      ∧ t.sivar.nextTicket = s.sivar.nextTicket + 1
      ∧ t.sivar = { s.sivar with tickets := t.sivar.tickets, nextTicket := t.sivar.nextTicket }
      ∧ SameBut {} s.ctl t.ctl p ∧ t = { s with ctl := t.ctl, resp := t.resp, sivar := t.sivar })
  ∧ (∀ s cl p, p < 8 → Serves s cl false → (s.part p).run = .running →
    (∃ t, exec (.partitionHalt cl p) s = .next t ∧ t.resp = answered stOk ∧ t.ctlOf p = { s.ctlOf p with halt := true }
      ∧ SameBut {} s.ctl t.ctl p ∧ t = { s with ctl := t.ctl, resp := t.resp })
    ∧ (∃ t, exec (.partitionEnd cl p) s = .next t ∧ t.resp = answered stOk ∧ t.ctlOf p = { s.ctlOf p with ending := true }
      ∧ SameBut {} s.ctl t.ctl p ∧ t = { s with ctl := t.ctl, resp := t.resp }))
  ∧ (∀ s cl p n since, p < 8 → Serves s cl false → (s.part p).run = .running → (s.ctlOf p).preempt = some (n, since) →
    ∃ t, exec (.withdraw cl p) s = .next t ∧ t.resp = answered stOk
      ∧ t.ctlOf p = { s.ctlOf p with preempt := none }
      ∧ (∀ k ∈ t.sivar.tickets, k.number = n → k.done = true)
      ∧ SameBut {} s.ctl t.ctl p ∧ t = { s with ctl := t.ctl, resp := t.resp, sivar := t.sivar })
  ∧ (∀ s p n since, p < 8 → (s.ctlOf p).preempt = some (n, since) →
    ∃ t, exec (.preemptTimeout p) s = .next t ∧ t.now = max s.now (since + 4 * (s.part p).period * 1500)
      ∧ t.ctlOf p = { s.ctlOf p with preempt := none }
      ∧ (∀ k ∈ t.sivar.tickets, k.number = n → k.done = true)
      ∧ SameBut {} s.ctl t.ctl p
      ∧ t = { s with ctl := t.ctl, sivar := t.sivar, now := t.now, rtc := t.rtc, log := t.log, hosts := t.hosts })
  ∧ (∀ s cl p, p < 8 → Serves s cl false → (s.part p).run ≠ .running →
    exec (.preempt cl p) s = .next { s with resp := answered stState }
      ∧ exec (.partitionHalt cl p) s = .next { s with resp := answered stState }
      ∧ exec (.partitionEnd cl p) s = .next { s with resp := answered stState }
      ∧ exec (.withdraw cl p) s = .next { s with resp := answered stState })

/-- LAUNCH of a STOPPED partition whose record and image pass every check: STARTING with the record's tick, steps and first step, the step
period of the image and the mode now configured. CANCEL of a STARTING partition at least 500 ticks before its launch makes it STOPPED.
RESUME of a STOPPED partition with a saved point of the same image that passes every check: STARTING; the stores of every core stand.
IMAGE_UPLOAD stores an image with its verification's result in a slot that no busy partition uses, within the storage; it answers
E_CAPACITY and E_BUSY otherwise, and the slot stands. The model's own readings and choices in it: log 45. -/
def Obligations.LaunchResumeCancelAndUpload : Prop :=
  (∀ s cl p rec img, p < 8 → Serves s cl false → (s.part p).run = .stopped → s.defined p = true →
    let r := withKind 1 rec
    let s1 := s.asked.substituteBand p
    recordOk s r = true → (s1.slotOf (s1.cfg (0x2100 + p) 5)).image = some img → admitStatus s1 p img = none →
    ∃ t, exec (.launch cl p rec) s = .next t ∧ t.resp = answered stOk
      ∧ (t.part p).run = .starting ∧ (t.part p).image = some img ∧ (t.part p).launchTick = lrTick r
      ∧ (t.part p).elastic = decide (s.cfg (0x2100 + p) 4 = 1) ∧ (t.part p).period = img.header.period ∧ (t.part p).steps = lrSteps r ∧ (t.part p).n0 = lrFirst r
      ∧ (t.ctlOf p).launchRecord = r ∧ (t.ctlOf p).launchStatus = 0
      ∧ SameBut {} s.parts t.parts p
      ∧ t.now = s.now ∧ t.dram = s.dram ∧ t.flash = s.flash ∧ t.tensors = s.tensors ∧ t.tide = s.tide)
  ∧ (∀ s cl p rec, p < 8 → Serves s cl false → (s.part p).run = .starting → recordOk s (withKind 3 rec) = true →
    s.now + 750000 ≤ launchAt s p →
    ∃ t, exec (.cancel cl p rec) s = .next t ∧ t.resp = answered stOk ∧ t.part p = { s.part p with run := .stopped }
      ∧ t.ctlOf p = { s.ctlOf p with launchStatus := 0 } ∧ SameBut {} s.parts t.parts p ∧ SameBut {} s.ctl t.ctl p
      ∧ t = { s with parts := t.parts, ctl := t.ctl, resp := t.resp })
  ∧ (∀ s cl p rec point img slot, p < 8 → Serves s cl false → (s.part p).run = .stopped →
    recordOk s (withKind 2 rec) = true → (s.part p).resume = some point → (s.part p).image = some img →
    (s.slotOf (s.cfg (0x2100 + p) 5)).image = some slot → (s.ctlOf p).reloaded = false → img.digest = slot.digest →
    offsetOf point.time ≤ 1497 → admitStatus (s.asked.applyPending p) p slot = none →
    ∃ t, exec (.resume cl p rec) s = .next t ∧ t.resp = answered stOk
      ∧ (t.part p).run = .starting ∧ (t.part p).resume = some point ∧ (t.part p).image = some img
      ∧ (t.part p).elastic = decide (s.cfg (0x2100 + p) 4 = 1)
      ∧ (t.part p).variant = (s.part p).variant ∧ (t.part p).delta = (s.part p).delta
      ∧ (t.ctlOf p).launchRecord = withKind 2 rec ∧ (t.ctlOf p).launchStatus = 0
      ∧ (∀ c, (t.core c).bundles = (s.core c).bundles ∧ (t.core c).ranges = (s.core c).ranges
          ∧ (t.core c).descs = (s.core c).descs)
      ∧ SameBut {} s.parts t.parts p ∧ t.now = s.now ∧ t.dram = s.dram ∧ t.flash = s.flash ∧ t.tensors = s.tensors)
  ∧ (∀ s cl k img, Serves s cl false → k < 8 →
    let used := ((s.slots.filter (fun e => e.1 != k)).map
      (fun e => match e.2.image with | some i => i.uploaded | none => 0)).foldl (· + ·) 0
    (used + img.uploaded ≤ 68719476736 → (∀ p, p < 8 → s.cfg (0x2100 + p) 5 = k → s.busyPart p = false) →
      ∃ t, exec (.imageUpload cl k img) s = .next t ∧ (t.slotOf k).image = some img
        ∧ t.resp = answered (t.slotOf k).status ∧ 1 ≤ (t.slotOf k).state ∧ (t.slotOf k).state ≤ 4
        ∧ (∀ p, p < 8 → s.cfg (0x2100 + p) 5 = k → (t.ctlOf p).reloaded = true)
        ∧ SameBut {} s.slots t.slots k ∧ t = { s with slots := t.slots, ctl := t.ctl, resp := t.resp })
    ∧ (68719476736 < used + img.uploaded → exec (.imageUpload cl k img) s = .next { s with resp := answered stCapacity })
    ∧ (used + img.uploaded ≤ 68719476736 → (∃ p, p < 8 ∧ s.cfg (0x2100 + p) 5 = k ∧ s.busyPart p = true) →
      exec (.imageUpload cl k img) s = .next { s with resp := answered stBusy }))

/-- LAUNCH_MARK with nothing that stops the partition: it is RUNNING from the mark's tick, or STOPPING where the instances at the mark are
the run's last, and every enabled core issues its entry bundle two cycles later, its generators seeded. At a resume mark every saved core
goes on from its saved bundle and index registers two cycles after the mark. MARK_INSTANCE_FIRES. The next instances of a partition fire
together: with a cause pending the partition faults; with none and a HALT it stops; otherwise its cursor moves to the instance, the cores
that wait for it run on two cycles later, and the partition is STOPPING after the last instance of its last step. In ELASTIC mode the
instance waits for every party, and nothing happens before. The model's own readings and choices in it: log 5, 45, 78. -/
def Obligations.MarksLaunchFireFaultAndStop : Prop :=
  (∀ s p, p < 8 → (s.part p).run = .starting → lrKind (s.ctlOf p).launchRecord ≠ 2 →
    let at' := (s.advance (launchAt s p)).journalDone jLaunch p
    let f := launchFiring at' p
    launchCauses at' p = [] →
    ∃ t, exec (.launchMark p) s = .next t ∧ t.now = max s.now (launchAt s p)
      ∧ (t.part p).run = (if f.insts ≠ [] ∧ finalFiring (at'.atLaunch p) p f = true then .stopping else .running)
      ∧ (∀ c ∈ s.enabledCores p, (s.core c).wait ≠ .halted → (t.core c).wait = .running
          ∧ (t.core c).bp = (s.core c).entry ∧ (t.core c).ix = [] ∧ (t.core c).nextIssue = t.now + 2
          ∧ (t.core c).genSeed = some (partSeed s p) ∧ (t.heal c).heartbeat = true)
      ∧ SameBut {} s.parts t.parts p ∧ t.dram = s.dram ∧ t.flash = s.flash)
  ∧ (∀ s p point, p < 8 → (s.part p).run = .starting → lrKind (s.ctlOf p).launchRecord = 2 →
    (s.part p).resume = some point → (s.ctlOf p).faults = [] →
    ∃ t, exec (.launchMark p) s = .next t ∧ t.now = max s.now (launchAt s p + offsetOf point.time)
      ∧ (t.part p).run = .running ∧ (t.part p).resume = none ∧ (t.part p).variant = point.variant
      ∧ (∀ c ∈ s.enabledCores p, c ∈ point.cores.map (·.1) → (t.core c).nextIssue = t.now + 2
          ∧ ∃ e ∈ point.cores, e.1 = c ∧ (t.core c).bp = e.2.1 ∧ (t.core c).ix = e.2.2)
      ∧ SameBut {} s.parts t.parts p ∧ t.pad = s.pad ∧ t.dram = s.dram ∧ t.flash = s.flash)
  ∧ (∀ s p f, p < 8 → (s.part p).marks = true → nextFiring (s.part p) = some f →
    let pt := s.part p
    let ct := s.ctlOf p
    let arr := arrivals s p f
    let at' := if pt.elastic then elasticTime pt f (if arr = [] then none else some ((arr.filterMap id).foldl max 0)) else f.time
    (causesAt s p f ≠ [] → ∃ t, exec (.markInstanceFires p f.insts) s = .next t ∧ (t.part p).run = .fault
      ∧ t.now = max s.now (if pt.elastic then elasticTime pt f none else f.time)
      ∧ (t.ctlOf p).recovery.state = 1 ∧ (t.ctlOf p).recovery.fault = t.now ∧ (t.ctlOf p).recovery.step = pt.n0 + f.step
      ∧ (t.part p).resume = none ∧ t.dram = s.dram ∧ t.flash = s.flash)
    ∧ (causesAt s p f = [] → ct.halt = true → ∃ t, exec (.markInstanceFires p f.insts) s = .next t
      ∧ (t.part p).run = .stopped ∧ (t.part p).resume = none ∧ (t.ctlOf p).halt = false
      ∧ t.dram = s.dram ∧ t.flash = s.flash)
    ∧ (causesAt s p f = [] → ct.halt = false → pt.elastic = true → none ∈ arr →
      exec (.markInstanceFires p f.insts) s = .next s)
    ∧ (causesAt s p f = [] → ct.halt = false → (pt.elastic = true → none ∉ arr) →
      (ct.haltAtStepStart = false ∨ f.starts pt = false) → groupHaltDue pt ct f = false →
      (pt.run = .running ∨ f.starts pt = false) → ct.preempt = none →
      ∃ t, exec (.markInstanceFires p f.insts) s = .next t ∧ t.now = max s.now at' ∧ (t.part p).cursor = f.time
        ∧ (t.part p).run = (if f.last pt = true ∧ (ct.ending = true ∨ (0 < pt.steps ∧ f.step + 1 = pt.steps))
            then .stopping else pt.run)
        ∧ (∀ c ∈ bandCores s p, ∀ e a, (s.core c).wait = .mark e f.time a →
            (t.core c).wait = .running ∧ (t.core c).nextIssue = t.now + 2 ∧ (t.core c).cursor = f.time)
        ∧ t.dram = s.dram ∧ t.flash = s.flash))

/-- TIDE_STOP with every partition STOPPED, TIDE_START of a stopped tide function, TIDE_LOCK of a locked or root module or after 10 s, and
DOMAIN_JOIN of a module with no busy partition and the members' vector function revision. The model's own readings and choices in it: log
43, 47. -/
def Obligations.TideStartsLocksAndJoins : Prop :=
  (∀ s cl, Serves s cl false →
    ((∀ p, p < 8 → (s.part p).run = .stopped) → ∃ t, exec (.tideStop cl) s = .next t ∧ t.resp = answered stOk
      ∧ t.tide = { s.tide with run := .stopped, joined := false, isRoot := false, lock := 0, sent := [] }
      ∧ t = { s with tide := t.tide, resp := t.resp })
    ∧ ((∃ p, p < 8 ∧ (s.part p).run ≠ .stopped) → exec (.tideStop cl) s = .next { s with resp := answered stBusy }))
  ∧ (∀ s cl, Serves s cl false →
    (s.tide.run = .stopped → ¬ (s.bring.active = true ∧ s.bring.stage = 8) →
      ∃ t, exec (.tideStart cl) s = .next t ∧ t.resp = answered stOk ∧ t.tide.startedAt = s.now
        ∧ t.tide.run = (if s.cfg 0x4000 2 = 0 then .running else .starting)
        ∧ t.tide.lock = (if s.cfg 0x4000 2 = 0 then 0 else 1)
        ∧ (t.tide.isRoot = true ↔ s.cfg 0x4000 2 ≠ 0 ∧ s.cfg 0x4000 3 = s.moduleNumber)
        ∧ t.tide.epoch = s.tide.epoch ∧ t.tide.stretch = s.tide.stretch
        ∧ t = { s with tide := t.tide, resp := t.resp })
    ∧ (s.tide.run ≠ .stopped → exec (.tideStart cl) s = .next { s with resp := answered stState }))
  ∧ (∀ s, s.tide.run = .starting →
    (s.tide.isRoot = true ∨ s.tide.lock = 2 → ∃ t, exec (.tideLock) s = .next t
      ∧ t.tide = { s.tide with run := .running, lock := 2 } ∧ t = { s with tide := t.tide })
    ∧ (s.tide.isRoot = false → s.tide.lock ≠ 2 → ∃ t, exec (.tideLock) s = .next t
      ∧ t.now = max s.now (s.tide.startedAt + 15000000000) ∧ t.tide.run = .running
      ∧ t.tide.lock = (if s.tide.lock = 3 then 3 else 0)
      ∧ Logged s t 2 0x0010 s.moduleNumber t.tide.lock
      ∧ t = { s with tide := t.tide, now := t.now, rtc := t.rtc, log := t.log, hosts := t.hosts, sivar := t.sivar }))
  ∧ (∀ s domain root rev tick, s.tide.run ≠ .stopped → s.tide.joined = false → domain = s.cfg 0x4000 2 → domain ≠ 0 →
      root = s.cfg 0x4000 3 →
    ((∀ p, p < 8 → (s.part p).run = .stopped) → rev = s.ident.vectorRevision →
      ∃ t, exec (.domainJoin domain root rev tick) s = .next t ∧ t.now = tick * 1500 ∧ t.tide.joined = true ∧ t.tide.lock = 1
        ∧ t.tide.sent = [] ∧ t.resp.status = 0 ∧ t = { s with tide := t.tide, now := t.now, resp := t.resp })
    ∧ ((∃ p, p < 8 ∧ (s.part p).run ≠ .stopped) → ∃ t, exec (.domainJoin domain root rev tick) s = .next t
      ∧ t.resp.status = stBusy ∧ t = { s with resp := t.resp }))

/-- TIDE_MARKER_SEND: at offset 0 of a tick the present marker leaves on every trained fabric port. TIDE_MARKER_RECEIVE: the upstream's
marker is taken as the last one, with its skew; in HOLDOVER and FREE the module turns to the upstream whose marker comes; a marker with a
lower epoch changes nothing. UPSTREAM_SWITCH turns to the other upstream where it is present and goes to HOLDOVER where it is not. The
model's own readings and choices in it: log 19, 43, 80. -/
def Obligations.MarkersSteerTheModule : Prop :=
  (∀ s, s.tide.run ≠ .stopped →
    let s1 := (((s.advance (markerTick s * 1500)).announceStretch).announceModes).foreignFormats
    ∃ t, exec (.tideMarkerSend) s = .next t ∧ t.now = max s.now (markerTick s * 1500)
      ∧ t.tide.sent = (markerPorts s1).map (fun i => (i, markerNow s1))
      ∧ (∀ g ∈ t.tide.relaunches, t.now / 1500 < g.tick) ∧ t.tide.stretch = s.tide.stretch ∧ t.tide.epoch = s.tide.epoch
      ∧ (decidesTide s = false → t.ctl = s.ctl ∧ t.tide.target = s.tide.target ∧ (standsBy s = false → t.mc = s.mc))
      ∧ t = { s with tide := t.tide, ctl := t.ctl, mc := t.mc, now := t.now, rtc := t.rtc })
  ∧ (∀ s port m, port < 640 → s.tide.run ≠ .stopped → s.tide.joined = true → s.tide.isRoot = false →
      (s.port port).up = true → m.epoch = s.tide.epoch → upstreamNow s = some port → m.stretch = none → m.variants = [] →
      m.modes = [] → m.formats = [] → m.relaunches = [] →
    let bad := 2000 * (256 + s.tide.stretch) < m.skewPs.natAbs * 256
    ∃ t, exec (.tideMarkerReceive port m) s = .next t ∧ t.tide.lastMarker = s.now ∧ t.tide.lastAny = s.now
      ∧ t.tide.skewPs = m.skewPs ∧ t.tide.skewBad = (if bad then s.tide.skewBad + 1 else 0)
      ∧ t.tide.lock = (if bad then s.tide.lock else if s.tide.lock = 0 then 1 else 2)
      ∧ t.tide.heard = some m ∧ t.tide.root = m.root
      ∧ t = { s with tide := t.tide })
  ∧ (∀ s port m, port < 640 → s.tide.run ≠ .stopped → s.tide.joined = true → s.tide.isRoot = false →
      (s.port port).up = true → m.epoch = s.tide.epoch → primaryUp s = some port ∨ secondaryUp s = some port →
      s.tide.lock = 3 ∨ s.tide.lock = 0 →
    ∃ t, exec (.tideMarkerReceive port m) s = .next t ∧ t.tide.lastMarker = s.now ∧ t.tide.heard = some m
      ∧ upstreamNow t = some port)
  ∧ (∀ s port m target at', port < 640 → s.tide.run ≠ .stopped → s.tide.joined = true → s.tide.isRoot = false →
      (s.port port).up = true → m.epoch = s.tide.epoch → upstreamNow s = some port → m.stretch = some (target, at') →
      target ≠ s.tide.target → m.variants = [] → m.modes = [] → m.formats = [] → m.relaunches = [] →
    ∃ t, exec (.tideMarkerReceive port m) s = .next t ∧ t.tide.target = target ∧ t.tide.rampFrom = at'
      ∧ t.tide.stretch = s.tide.stretch ∧ t = { s with tide := t.tide, mc := t.mc })
  ∧ (∀ s port m, port < 640 → m.epoch < s.tide.epoch → exec (.tideMarkerReceive port m) s = .next s)
  ∧ (∀ s, follows s = true → s.tide.lock ≠ 0 → s.tide.lock ≠ 3 →
    let other := if s.tide.upstreamSecondary then primaryUp s else secondaryUp s
    let at' := max s.now ((s.tide.lastMarker / 1500 + 3) * 1500)
    (∀ i, other = some i → upstreamPresent s i at' = true → ∃ t, exec (.upstreamSwitch) s = .next t
      ∧ t.tide.upstreamSecondary = !s.tide.upstreamSecondary ∧ t.tide.lock = s.tide.lock ∧ t.tide.lastMarker = t.now
      ∧ t.now = at' ∧ t = { s with tide := t.tide, now := t.now, rtc := t.rtc })
    ∧ ((∀ i, other = some i → upstreamPresent s i at' = false) → ∃ t, exec (.upstreamSwitch) s = .next t ∧ t.tide.lock = 3 ∧ t.tide.holdoverSince = t.now ∧ t.now = at'
      ∧ Logged s t 2 0x0010 s.moduleNumber 3
      ∧ t = { s with tide := t.tide, now := t.now, rtc := t.rtc, log := t.log, hosts := t.hosts, sivar := t.sivar }))

/-- FREE_ENTRY after 1,000 ticks of HOLDOVER or four bad markers: FREE, and every STRICT partition with a timed link faults.
ROOT_TAKEOVER: the standby root takes the next epoch. STRETCH_RAMP_STEP moves the stretch one step toward its target. The real-time clock:
PTP_SYNC sets it, PTP_GRANDMASTER_LOST lets it run free, REFERENCE_TICK notes the first tick that starts at or after its next whole
second. TIMED_ROW_RELEASE: a row complete in its buffer is released D after it was sent, through the window rule of any remote row; one
that is not complete is a link overrun of the STRICT partition. The model's own readings and choices in it: log 5, 43, 74, 78. -/
def Obligations.FreeRunClocksAndTimedRows : Prop :=
  (∀ s, follows s = true → s.tide.lock ≠ 0 → s.tide.lock = 3 ∨ 4 ≤ s.tide.skewBad →
    ∃ t, exec (.freeEntry) s = .next t
      ∧ t.now = (if 4 ≤ s.tide.skewBad then s.now else max s.now (s.tide.holdoverSince + 1500000))
      ∧ t.tide = { s.tide with lock := 0, skewBad := 0 }
      ∧ FaultsAdded s t (holdsTimed s) .tideFree ∧ Logged s t 2 0x0010 s.moduleNumber 0
      ∧ t = { s with tide := t.tide, ctl := t.ctl, now := t.now, rtc := t.rtc, log := t.log, hosts := t.hosts, sivar := t.sivar })
  ∧ (∀ s, follows s = true → s.cfg 0x4000 0x0D = s.moduleNumber →
    ∃ t, exec (.rootTakeover) s = .next t ∧ t.now = max s.now ((s.tide.lastAny / 1500 + 5) * 1500)
      ∧ t.tide = { s.tide with epoch := (s.tide.epoch + 1) % 65536, isRoot := true, root := s.moduleNumber }
      ∧ Logged s t 2 0x0010 s.moduleNumber 0x10
      ∧ t = { s with tide := t.tide, now := t.now, rtc := t.rtc, log := t.log, hosts := t.hosts, sivar := t.sivar })
  ∧ (∀ s, s.tide.stretch ≠ s.tide.target →
    ∃ t, exec (.stretchRampStep) s = .next t ∧ t.now = max s.now (s.tide.rampFrom * 1500)
      ∧ t.tide.stretch = (if s.tide.stretch < s.tide.target then s.tide.stretch + 1 else s.tide.stretch - 1)
      ∧ t.tide.target = s.tide.target ∧ t.tide.rampFrom = s.tide.rampFrom + 1
      ∧ t = { s with tide := t.tide, ctl := t.ctl, mc := t.mc, now := t.now, rtc := t.rtc, log := t.log, hosts := t.hosts, sivar := t.sivar })
  ∧ (∀ s utc, ∃ t, exec (.ptpSync utc) s = .next t ∧ t.utc = utc ∧ t.rtc.ptp = true ∧ t = { s with rtc := t.rtc })
  ∧ (∀ s, ∃ t, exec (.ptpGrandmasterLost) s = .next t ∧ t.rtc = { s.rtc with ptp := false } ∧ t = { s with rtc := t.rtc })
  ∧ (∀ s, s.rtc.valid = true → ∃ t, exec (.referenceTick) s = .next t
      ∧ t.now % 1500 = 0 ∧ t.rtc.refTick = t.now / 1500 ∧ t.rtc.refUtc = t.utc
      ∧ s.rtc.units / 384000000000 + 1 ≤ t.rtc.units / 384000000000
      ∧ t.rtc.refSource = (if s.rtc.ptp then 2 else 1) ∧ t = { s with now := t.now, rtc := t.rtc })
  ∧ (∀ s p port sent c sm sc ch tag row data link, coreExists s c = true → p < 8 → (s.part p).marks = true →
      (s.part p).elastic = false → s.partOfCore c = some p →
      (∃ img, (s.part p).image = some img
        ∧ img.links.find? (fun (e : Nat × Nat × Nat) => fabricPort e.1 e.2.1 == port) = some link) →
    exec (.timedRowRelease p port sent c sm sc ⟨ch, tag⟩ row true data) s
        = exec (.remoteRowArrival c sm sc ⟨ch, tag⟩ row data) (s.advance (sent + link.2.2))
    ∧ (∃ t, exec (.timedRowRelease p port sent c sm sc ⟨ch, tag⟩ row false data) s = .next t
        ∧ t.now = max s.now (sent + link.2.2) ∧ t.pad = s.pad
        ∧ (t.ctlOf p).faults = (s.ctlOf p).faults ++ [.overrun 3 port false]
        ∧ SameBut {} s.ctl t.ctl p ∧ t = { s with ctl := t.ctl, now := t.now, rtc := t.rtc })
    ∧ ∀ w, answers s c = true → takingWindow (s.core c) 1 (sm, sc, ch, tag) row = some w → data.bytes.length = 512 →
        remoteWaits (s.advance (sent + link.2.2)) c 1 = false →
        ∃ t, exec (.timedRowRelease p port sent c sm sc ⟨ch, tag⟩ row true data) s = .next t ∧ t.now = max s.now (sent + link.2.2)
          ∧ WroteBytes s.pad t.pad (padAt c row) data.bytes
          ∧ (tget {} (t.core c).windows w).left = (tget {} (s.core c).windows w).left - 1
          ∧ t.net = s.net ++ (responsePacket s c sm sc 3 3 ch tag none).toList
          ∧ SameBut {} (s.core c).windows (t.core c).windows w ∧ SameBut {} s.cores t.cores c ∧ SameBut {} s.health t.health c
          ∧ t = { s with cores := t.cores, health := t.health, pad := t.pad, marks := t.marks, net := t.net, transit := t.transit
                         now := t.now, rtc := t.rtc })

/-- TENSOR_CREATE, TENSOR_DELETE, PIN_EDIT. A record that passes the checks and has space is the tensor's record; one that fails a check
gives its status and changes nothing. A deletion removes the record and frees its space. A pin edit changes the two pins, and nothing else
of the record. -/
def Obligations.TensorTableCommands : Prop :=
  (∀ s cl rec, Serves s cl false →
    (recInRange rec = false → exec (.tensorCreate cl rec) s = .next { s with resp := answered stRange })
    ∧ (recInRange rec = true → handleUsed s rec = true →
      exec (.tensorCreate cl rec) s = .next { s with resp := answered stState })
    ∧ (recInRange rec = true → handleUsed s rec = false → tensorBusy s (recId rec) = true →
      exec (.tensorCreate cl rec) s = .next { s with resp := answered stBusy })
    ∧ (recInRange rec = true → handleUsed s rec = false → tensorBusy s (recId rec) = false → tfind s.tensors (recId rec) = none →
      (∀ u, allocate s.asked rec 0 = some u → ∃ t, exec (.tensorCreate cl rec) s = .next t ∧ t.resp = answered stOk
        ∧ t.tensor (recId rec) = { record := rec } ∧ t.quays = u.quays
        ∧ (∀ j, j ≠ recId rec → tfind t.tensors j = tfind s.tensors j)
        ∧ t = { s with tensors := t.tensors, quays := t.quays, quayMarks := u.quayMarks, resp := t.resp })
      ∧ (allocate s.asked rec 0 = none → exec (.tensorCreate cl rec) s = .next { s with resp := answered stCapacity }))
    ∧ (recInRange rec = true → handleUsed s rec = false → tensorBusy s (recId rec) = false →
      ∀ old, tfind s.tensors (recId rec) = some old → sameShape old.record rec = true → recRegion rec = false →
      ∃ t, exec (.tensorCreate cl rec) s = .next t ∧ t.resp = answered stOk
        ∧ t.tensor (recId rec) = { old with record := rec } ∧ (∀ j, j ≠ recId rec → tfind t.tensors j = tfind s.tensors j)
        ∧ t = { s with tensors := t.tensors, resp := t.resp })
    ∧ (recInRange rec = true → handleUsed s rec = false → tensorBusy s (recId rec) = false →
      ∀ old, tfind s.tensors (recId rec) = some old → (sameShape old.record rec = false ∨ recRegion rec = true) →
      ∃ t, exec (.tensorCreate cl rec) s = .next t
        ∧ ((t.resp = answered stCapacity ∧ t = { s with resp := t.resp })
          ∨ (t.resp = answered stOk ∧ t.tensor (recId rec) = { record := rec } ∧ (∀ q, ∀ d ∈ (t.quay q).damaged, d.1 ≠ recId rec)
            ∧ (∀ q, ∀ d ∈ (t.quay q).resident, d.1 ≠ recId rec)
            ∧ (∀ j, j ≠ recId rec → tfind t.tensors j = tfind s.tensors j)
            ∧ t = { s with tensors := t.tensors, quays := t.quays, quayMarks := t.quayMarks, opt := t.opt, resp := t.resp }))))
  ∧ (∀ s cl id, Serves s cl false → (s.recOf id).isSome = true → tensorBusy s id = false →
    ∃ t, exec (.tensorDelete cl id) s = .next t ∧ t.resp = answered stOk ∧ t.recOf id = none
      ∧ (∀ j, j ≠ id → tfind t.tensors j = tfind s.tensors j)
      ∧ (∀ q a, a ∈ (t.quay q).allocs ↔ a ∈ (s.quay q).allocs ∧ (a.tid ≠ id ∨ a.kind = 3))
      ∧ (∀ q d, d ∈ (t.quay q).damaged ↔ d ∈ (s.quay q).damaged ∧ d.1 ≠ id)
      ∧ t = { s with tensors := t.tensors, quays := t.quays, opt := t.opt, resp := t.resp })
  ∧ (∀ s cl id lead residency tt, Serves s cl false → tfind s.tensors id = some tt → lead ≤ 4095 → residency ≤ 2 →
    (recTier tt.record ≠ 0 ∨ residency = 0) →
    ∃ t, exec (.pinEdit cl id lead residency) s = .next t ∧ t.resp = answered stOk
      ∧ t.tensor id = { tt with record := (t.tensor id).record }
      ∧ recLead (t.tensor id).record = lead ∧ recResidency (t.tensor id).record = residency
      ∧ (∀ i, i < 64 → i ≠ 20 → i ≠ 21 → i ≠ 22 → recByte (t.tensor id).record i = recByte tt.record i)
      ∧ (∀ j, j ≠ id → tfind t.tensors j = tfind s.tensors j)
      ∧ t = { s with tensors := t.tensors, ctl := t.ctl, resp := t.resp })

/-- CONTENT_WRITE, CHECKPOINT, CHECKPOINT_COMPLETE. Content goes to the version's slot, which the final write commits, or to a region's
bytes. A checkpoint copies the newest committed version and the optimizer's state at the end of its pass two, in the primary and the
replica quay, under a ticket; the complete copies replace those before, abandoned ones leave them. QUAY_ROW_WRITE, QUAY_ROW_READ. A row of
a region that grants its source is written whole, its uncorrectable words marked, and read whole; any other row is rejected, changes no
memory, and is counted. The answer to another module's row goes back over the quay fabric. A row of a partition with no usable port of its
own waits. The model's own readings and choices in it: log 7, 52. -/
def Obligations.ContentCheckpointsAndRegions : Prop :=
  (∀ s cl id version offset final data tt, Serves s cl false → tfind s.tensors id = some tt → recRegion tt.record = false →
    offset + data.length ≤ recTiles tt.record * tileBytes (recStream tt.record) →
    (recFrozen tt.record = true → version = recBase tt.record) → (partsWhere (fun p => s.busyPart p && fetches s p id)) = [] →
    slotReady s id version = true → version ∉ tt.retiring →
    ∃ t v, exec (.contentWrite cl id version offset final data) s = .next t ∧ t.resp = answered stOk
      ∧ (t.tensor id).slot version = some v
      ∧ WroteBytes (match tt.slot version with | some w => w.bytes | none => []) v.bytes offset data
      ∧ (final = true → v.committed = true ∧ v.complete = true)
      ∧ (t.tensor id).record = tt.record ∧ (∀ j, j ≠ id → tfind t.tensors j = tfind s.tensors j)
      ∧ t = { s with tensors := t.tensors, quays := t.quays, opt := t.opt, resp := t.resp })
  ∧ (∀ s cl id version offset final data tt, Serves s cl false → tfind s.tensors id = some tt → recRegion tt.record = false →
    offset + data.length ≤ recTiles tt.record * tileBytes (recStream tt.record) →
    (recFrozen tt.record = true → version = recBase tt.record) → (partsWhere (fun p => s.busyPart p && fetches s p id)) = [] →
    slotReady s id version = false →
    exec (.contentWrite cl id version offset final data) s = .next { s with resp := answered stState })
  ∧ (∀ s cl id version offset final data tt, Serves s cl false → tfind s.tensors id = some tt → recRegion tt.record = true →
    offset + data.length ≤ recSize tt.record →
    let base := recPrimary tt.record * 2 ^ 45 + recBase tt.record + offset
    ∃ t, exec (.contentWrite cl id version offset final data) s = .next t ∧ t.resp = answered stOk
      ∧ (recTier tt.record = 0 → WroteBytes s.dram t.dram base data ∧ t.flash = s.flash)
      ∧ (recTier tt.record ≠ 0 → WroteBytes s.flash t.flash base data ∧ t.dram = s.dram)
      ∧ t = { s with dram := t.dram, flash := t.flash, quayMarks := t.quayMarks, resp := t.resp })
  ∧ (∀ s cl id tt v, Serves s cl false → id ≠ 0 → tfind s.tensors id = some tt → tt.newest = some v →
    s.heldByTicket 0x5100 7 = false →
    ∃ t, exec (.checkpoint cl id) s = .next t
      ∧ t.resp = { status := 0, flags := 1, ticket := s.sivar.nextTicket, data := [], executed := 1 }
      ∧ t.tensor id = { tt with checkpointing := some (s.sivar.nextTicket, { version := v, state := stateAt s id v.number },
          { version := v, state := stateAt s (id + 2 ^ 24) v.number }) }
      ∧ ((∀ e ∈ s.opt.runs, e.2.prior = []) → stateAt s id v.number = tget {} s.opt.tensors id)
      ∧ (∀ j, j ≠ id → tfind t.tensors j = tfind s.tensors j)
      ∧ t = { s with tensors := t.tensors, sivar := t.sivar, mc := t.mc, resp := t.resp })
  ∧ (∀ s id n ck rep ok, (s.tensor id).checkpointing = some (n, ck, rep) →
    ∃ t, exec (.checkpointComplete id ok) s = .next t
      ∧ (t.tensor id).checkpointing = none
      ∧ (t.tensor id).checkpoint = (if ok = true then some ck else (s.tensor id).checkpoint)
      ∧ (t.tensor id).replica = (if ok = true then some rep else (s.tensor id).replica)
      ∧ ((ok = false ∨ ∀ e ∈ t.tensors, ∀ c, e.2.checkpointing = some c → c.1 ≠ n) →
          ∀ k ∈ t.sivar.tickets, k.number = n → k.done = true)
      ∧ (∀ j, j ≠ id → tfind t.tensors j = tfind s.tensors j)
      ∧ t = { s with tensors := t.tensors, sivar := t.sivar, mc := t.mc })
  ∧ (let frame := fun (s t : State) =>
    t = { s with dram := t.dram, quayMarks := t.quayMarks, quays := t.quays, link := t.link, freeCtr := t.freeCtr, fabric := t.fabric
                 ledger := { s.ledger with rejectsReceived := t.ledger.rejectsReceived } }
  let answer := fun (s t : State) (q m c offset type : Nat) (data : Option Row) =>
    (m = s.moduleNumber → t.fabric = s.fabric ∧ t.ledger = s.ledger)
    ∧ (m ≠ s.moduleNumber → ∃ ch tag, Sent s t q (rowHead m q offset data)
        (netBytes { header := netHeader type 3 (coreX c) (coreY c) 0 0 ch 0 tag
                    address := some (BitVec.ofNat 64 (m % 16384 * 2 ^ 50 + c % 32768 * 2 ^ 32)), data := data }))
  (∀ s q m c offset data, q < 4 → rowReaches s q m c = true → offset < 2 ^ 44 → regionGrants s q 0 m c offset = true →
    ∃ t, exec (.quayRowWrite q m c offset false data) s = .next t
      ∧ WroteBytes s.dram t.dram (q * 2 ^ 45 + offset) (fitBytes 512 data.bytes)
      ∧ (∀ w, w < 64 → tget none t.quayMarks ((q * 2 ^ 45 + offset) / 8 + w)
          = if w ∈ data.poison then some .uncorrectable else none)
      ∧ answer s t q m c offset 3 none ∧ t.quays = s.quays ∧ t.link = s.link ∧ frame s t)
  ∧ (∀ s q m c offset flash, q < 4 → rowReaches s q m c = true → (flash = true ∨ offset < 2 ^ 44) →
    regionGrants s q (if flash = true then 1 else 0) m c offset = true →
    ∃ t row, exec (.quayRowRead q m c offset flash) s = .next t ∧ t.link = some row ∧ row.bytes.length = 512
      ∧ (∀ i b, i < 512 → readByte (if flash = true then s.flash else s.dram) (q * 2 ^ 45 + offset + i) = some b →
          row.bytes[i]? = some b)
      ∧ answer s t q m c offset 2 (some row) ∧ t.quays = s.quays ∧ t.dram = s.dram ∧ t.quayMarks = s.quayMarks ∧ frame s t)
  ∧ (∀ s q m c offset flash data, q < 4 → rowReaches s q m c = true →
    (flash = true ∨ 2 ^ 44 ≤ offset ∨ regionGrants s q 0 m c offset = false) →
    ∃ t, exec (.quayRowWrite q m c offset flash data) s = .next t ∧ t.link = none
      ∧ (t.quay q).rejects = satAdd 32 (s.quay q).rejects 1 ∧ SameBut {} s.quays t.quays q
      ∧ answer s t q m c offset 4 none ∧ t.dram = s.dram ∧ t.quayMarks = s.quayMarks ∧ frame s t)
  ∧ (∀ s q m c offset flash data, q < 4 → rowReaches s q m c = false →
    exec (.quayRowWrite q m c offset flash data) s = .next s ∧ exec (.quayRowRead q m c offset flash) s = .next s))

/-- FETCH_ISSUE. A known fetch that has not been issued, with none of its partition's before it in the cycle, is issued at its deadline
less the lead in force, not before the launch mark: it joins the open entry of its tile and version or opens one. A gather's padding
token, or an ID past the tensor's rows, stores zeros and opens none. The model's own readings and choices in it: log 39. -/
def Obligations.FetchesIssueAndJoinEntries : Prop :=
  ∀ s p n j k step i o pr r, p < 8 → (s.part p).marks = true → fetchKnown s p n j k step i o = some (pr, r) →
    let q := recPrimary r
    let at' := issueTime s p n pr r j k step i o
    let w0 := fetchWaiter s p pr j k step o i 0 0 0
    let seqKey := p * 256 + (planFirstCol pr + j)
    let version := versionNow s p r step (planLag pr)
    let token := gatherToken s q pr j
    let key : IssuedFetch := { part := p, number := n, j := j, k := k, step := step, inner := i, outer := o }
    let g : GatherTag := { record := pr, position := j, slice := k, token := token }
    key ∉ (s.quay q).issued → issuesFirst s p n j k at' = false →
    ∃ t, exec (.fetchIssue p n j k step i o) s = .next t
      ∧ t.now = max s.now at'
      ∧ at' = max ((s.part p).launchTick * 1500) (w0.deadline - leadInForce s q p n pr r * 1500)
      ∧ key ∈ (t.quay q).issued
      ∧ (planGather pr = false →
          (∃ e ∈ (t.quay q).entries, e.tid = recId r ∧ e.tile = planTile pr j k ∧ e.version = version
            ∧ ∃ w ∈ e.waiters, w.part = p ∧ w.col = planFirstCol pr + j ∧ w.seq = tget 0 (s.quay q).seqs seqKey
              ∧ w.deadline = w0.deadline ∧ w.tag = planTag pr ∧ w.issued = at' ∧ w.gather = none)
          ∧ tget 0 (t.quay q).seqs seqKey = (tget 0 (s.quay q).seqs seqKey + 1) % 65536 ∧ t.dram = s.dram)
      ∧ (planGather pr = true → tokenReads r token = true → (s.quay q).damaged = [] →
          (s.tensor (recId r)).retired version = false →
          ∃ e ∈ (t.quay q).entries, e.tid = recId r ∧ e.tile = token / 32 * recTin r + k ∧ e.version = version
            ∧ ∃ w ∈ e.waiters, w.part = p ∧ w.gather = some g)
      ∧ (planGather pr = true → tokenReads r token = false →
          let a := gatherElems q g (recStream r) (recTin r)
          let sc := gatherScale q g (recStream r) (recTin r)
          (t.quay q).entries = (s.quay q).entries
          ∧ (t.quay q).badTokens = (s.quay q).badTokens + (if token ≠ 0xFFFFFFFF ∧ k = 0 then 1 else 0)
          ∧ (∀ b, b < codeBytes (recStream r) → readByte t.dram (a + b) = some 0)
          ∧ (codeMx (recStream r) = true → readByte t.dram sc = some 127)
          ∧ (∀ b, (b < a ∨ a + codeBytes (recStream r) ≤ b) → (codeMx (recStream r) = false ∨ b ≠ sc) →
              readByte t.dram b = readByte s.dram b))
      ∧ OnlyRetires s t q (recId r)
      ∧ t = { s with now := t.now, rtc := t.rtc, quays := t.quays, ctl := t.ctl, dram := t.dram, quayMarks := t.quayMarks
                     tensors := t.tensors, log := t.log, hosts := t.hosts, sivar := t.sivar, freeCtr := t.freeCtr }

/-- FETCH_DATA_READY, DECISION_POINT, FLASH_RECOVERY_STEP, DRAM_UNCORRECTABLE. An open entry's outcome is DATA where its data is ready by
its decision point, and else the tensor's cheaper path: where the decision point passes, or no step of recovery gives the data; a version
that has retired is skipped. Data that comes later is discarded. A tile lost in DRAM is marked with the path taken. An abandoned entry has
no outcome. The model's own readings and choices in it: log 39, 79. -/
def Obligations.EntryOutcomesAreFixed : Prop :=
  (∀ s q i e, q < 4 → (s.quay q).entries[i]? = some e → e.outcome = none → e.waiters = [] → ∀ retryOk mirrorOk,
    exec (.decisionPoint q i) s = .next s ∧ exec (.fetchDataReady q i) s = .next s
      ∧ exec (.dramUncorrectable q i retryOk mirrorOk) s = .next s)
  ∧ ∀ s q i e r, q < 4 → (s.quay q).entries[i]? = some e → s.recOf e.tid = some r → e.outcome = none → e.waiters ≠ [] →
    let tt := s.tensor e.tid
    let path := cheaperPath tt e.version
    let P := decisionTime s q e
    let frame := fun (t : State) =>
      t = { s with quays := t.quays, ctl := t.ctl, dram := t.dram, quayMarks := t.quayMarks, tensors := t.tensors, log := t.log
                   hosts := t.hosts, sivar := t.sivar, freeCtr := t.freeCtr, now := t.now, rtc := t.rtc, fabric := t.fabric
                   ledger := { s.ledger with rejectsReceived := t.ledger.rejectsReceived } }
    let quiet := fun (t : State) => t.fabric = s.fabric ∧ t.ledger = s.ledger
    (∃ t, exec (.decisionPoint q i) s = .next t ∧ t.now = max s.now (P + 1)
      ∧ OutcomeFixed s t q i e r (if tt.retired e.version = true then .skip else path) ∧ frame t ∧ quiet t)
    ∧ (e.waiting = false → e.unreadable = false → e.recovery = 0 → dataServed s e = true → canSend s q e = true →
      ∃ t, exec (.fetchDataReady q i) s = .next t ∧ t.now = s.now ∧ OutcomeFixed s t q i e r (if s.now ≤ P then .data else path)
        ∧ frame t ∧ quiet t)
    ∧ (e.waiting = false → dataServed s e = true → ∀ retryOk mirrorOk,
      ((retryOk = true ∨ (mirrorOk = true ∧ recMirror tt.record = true ∧ mirrorServes s e.tid e.tile = true)) →
        (canSend s q e = true → ∃ t, exec (.dramUncorrectable q i retryOk mirrorOk) s = .next t ∧ t.now = s.now
          ∧ OutcomeFixed s t q i e r (if s.now ≤ P then .data else path) ∧ frame t ∧ (retryOk = true → quiet t))
        ∧ (canSend s q e = false → ∃ t, exec (.dramUncorrectable q i retryOk mirrorOk) s = .next t ∧ t.now = s.now
          ∧ (t.quay q).entries = (s.quay q).entries ∧ SameBut {} s.quays t.quays q ∧ t.dram = s.dram ∧ t.tensors = s.tensors
          ∧ frame t ∧ (retryOk = true → quiet t)))
      ∧ (retryOk = false → (mirrorOk = false ∨ recMirror tt.record = false ∨ mirrorServes s e.tid e.tile = false) →
        ∃ t, exec (.dramUncorrectable q i retryOk mirrorOk) s = .next t ∧ t.now = s.now
          ∧ (e.version ∉ tt.retiring → (e.tid, e.tile, e.version, path) ∈ (t.quay q).damaged)
          ∧ OutcomeFixed s t q i e r path ∧ frame t ∧ quiet t))
    ∧ (e.waiting = false → e.unreadable = false → recTier tt.record = 1 →
      let copy := ∃ c, tt.replica = some c ∧ c.version.number = e.version
      let e1 := { e with recovery := 0, missed := [], rebuilt := e.rebuilt || decide (1 ≤ e.recovery) }
      let plain := fun (l : List FetchEntry) => l.map (fun f => { f with waiting := false })
      ((e.recovery < 2 ∨ copy) →
        (dataServed s e = true → canSend s q e = true → s.now ≤ P →
          ∃ t, exec (.flashRecoveryStep q i true) s = .next t ∧ t.now = s.now ∧ OutcomeFixed s t q i e1 r .data ∧ frame t ∧ quiet t)
        ∧ ((dataServed s e = false ∨ canSend s q e = false ∨ P < s.now) →
          ∃ t, exec (.flashRecoveryStep q i true) s = .next t ∧ plain (t.quay q).entries = plain ((s.quay q).entries.set i e1)
            ∧ OnlyRetires s t q e.tid ∧ Logged s t sevAbsorbed evFlashPage q (e.recovery + 1) ∧ t.dram = s.dram ∧ t.ctl = s.ctl
            ∧ frame t ∧ quiet t))
      ∧ ((e.recovery = 0 ∨ (e.recovery = 1 ∧ copy)) →
        ∃ t, exec (.flashRecoveryStep q i false) s = .next t
          ∧ (t.quay q).entries[i]? = some { e with recovery := e.recovery + 1 }
          ∧ SameBut {} s.quays t.quays q ∧ t.dram = s.dram ∧ t.tensors = s.tensors ∧ t.log = s.log ∧ t.now = s.now
          ∧ frame t ∧ (e.recovery = 0 → quiet t))
      ∧ ((2 ≤ e.recovery ∨ (e.recovery = 1 ∧ ¬ copy)) →
        ∃ t, exec (.flashRecoveryStep q i false) s = .next t ∧ t.now = s.now
          ∧ OutcomeFixed s t q i { e with recovery := 4, missed := [], unreadable := true } r
              (if P < s.now ∧ tt.retired e.version = true then .skip else path)
          ∧ frame t ∧ quiet t))

/-- TILE_PACKET_SEND, BUFFER_CREDIT_RETURN, RESIDENCY_COPY_DONE, FLASH_SCAN_PAGE. The next packet of a column's sequence enters the
column's inbound buffer against one credit, and any other waits; the credit comes back once the packet has left. A copy that has room is
complete; for one that has none, residents are named that leave at the next mark. A scanned page is noted; one that no step recovers marks
its tensor damaged. The model's own readings and choices in it: log 24, 39, 75. -/
def Obligations.PacketsCreditsCopiesAndScans : Prop :=
  (∀ s q p lane,
      (∀ i, portCarries s q p i = true → (nextPort s q p lane).isSome = true)
      ∧ (∀ port, nextPort s q p lane = some port →
          portCarries s q p port.1 = true ∧ 1 ≤ port.2 ∧ port.2 ≤ (s.quay q).weight port.1))
  ∧ (∀ s q p col seq, q < 4 → seq ≠ tget 0 (s.quay q).sentSeq (p * 256 + col) → exec (.tilePacketSend q p col seq) s = .next s)
  ∧ (∀ s q p col port o, q < 4 → p < 8 → nextPort s q p 0 = some port →
    let x := bandX s p col
    let north := decide (q < 2)
    let next := tget 0 (s.quay q).sentSeq (p * 256 + col)
    tget 0 (s.quay q).credits x ≠ 0 → s.bandHas p (x / 24) = true →
    (s.quay q).outgoing.find? (fun o => o.part == p && o.col == col && o.seq == next) = some o →
    ∃ t, exec (.tilePacketSend q p col next) s = .next t
      ∧ ((t.gantry x).side north).inbound = ((s.gantry x).side north).inbound ++ [{ packet := o.packet, seq := next, part := p, quay := q }]
      ∧ (t.gantry x).side (!north) = (s.gantry x).side (!north)
      ∧ (t.quay q).outgoing = (s.quay q).outgoing.erase o
      ∧ tget 0 (t.quay q).turn p = 64 * port.2 + port.1
      ∧ tget 0 (t.quay q).credits x = tget 0 (s.quay q).credits x - 1
      ∧ tget 0 (t.quay q).sentSeq (p * 256 + col) = (next + 1) % 65536
      ∧ SameBut {} s.gantries t.gantries x ∧ SameBut {} s.quays t.quays q
      ∧ t = { s with quays := t.quays, gantries := t.gantries })
  ∧ (∀ s x north q rest, columnExists s x = true → ((s.gantry x).side north).owed = q :: rest →
    ∃ t, exec (.bufferCreditReturn x north) s = .next t
      ∧ ((t.gantry x).side north).owed = rest
      ∧ tget 0 (t.quay q).credits x = tget 0 (s.quay q).credits x + 1
      ∧ (t.gantry x).side (!north) = (s.gantry x).side (!north)
      ∧ SameBut {} s.gantries t.gantries x ∧ SameBut {} s.quays t.quays q
      ∧ t = { s with quays := t.quays, gantries := t.gantries })
  ∧ (∀ s q id c r u, q < 4 → (s.quay q).copying.find? (fun e => e.1 == id) = some c → s.recOf id = some r →
    placeIn s q 0 2 id ((if c.2 = 0 then recTiles r else recTin r) * tileBytes (recStream r)) = some u →
    ∃ t, exec (.residencyCopyDone q id) s = .next t ∧ (t.quay q).copied = (s.quay q).copied ++ [c]
      ∧ (t.quay q).copying = (s.quay q).copying.erase c ∧ (t.quay q).allocs = (u.quay q).allocs
      ∧ (t.quay q).resident = (s.quay q).resident ∧ SameBut {} s.quays t.quays q ∧ t = { s with quays := t.quays, mc := t.mc })
  ∧ (∀ s q id c r, q < 4 → (s.quay q).copying.find? (fun e => e.1 == id) = some c → s.recOf id = some r →
    placeIn s q 0 2 id ((if c.2 = 0 then recTiles r else recTin r) * tileBytes (recStream r)) = none →
    ∃ t, exec (.residencyCopyDone q id) s = .next t
      ∧ t.quay q = { s.quay q with leaving := (t.quay q).leaving }
      ∧ (∀ tid ∈ (t.quay q).leaving, tid ∈ (s.quay q).leaving ∨ (tid ≠ id ∧ pinnedResident s tid = false
          ∧ tid ∈ (s.quay q).resident.map (fun e => e.1)))
      ∧ SameBut {} s.quays t.quays q ∧ t = { s with quays := t.quays, mc := t.mc })
  ∧ (∀ s q id page step tt, q < 4 → tfind s.tensors id = some tt → recPrimary tt.record = q → recTier tt.record = 1 →
    recRegion tt.record = false → 9 ≤ s.bring.stage → s.bring.active = false →
    page < ceilDiv (recTiles tt.record * tileBytes (recStream tt.record)) 16384 →
    ∃ t, exec (.flashScanPage q id page step) s = .next t ∧ (id, page) ∈ (t.quay q).scanned
      ∧ (step = 0 → t = { s with quays := t.quays })
      ∧ (1 ≤ step → step ≤ 3 → t.tensors = s.tensors ∧ Logged s t sevAbsorbed evFlashPage q step)
      ∧ (4 ≤ step → t.tensor id = { tt with flashDamaged := true } ∧ Logged s t sevDegraded evFlashPage q 4
          ∧ ∀ j, j ≠ id → tfind t.tensors j = tfind s.tensors j)
      ∧ SameBut {} s.quays t.quays q
      ∧ t = { s with quays := t.quays, tensors := t.tensors, log := t.log, hosts := t.hosts, sivar := t.sivar })

/-- HANDOFF_RESULT_RECEIVE, HANDOFF_REPORT_DEADLINE. At the root, the first result that is not VALID decides the HARD path for every
student partition of the group that waits for the same decision, and the last VALID of all members the normal one; a deadline with no
decision decides the HARD path, with REPORT_MISSING where the own result is VALID. The HARD path sets the HARD bit at the branch, or under
the second policy asks for the fault there; the decision is counted and reported. The model's own readings and choices in it: log 19, 28.
-/
def Obligations.HandoffResultsDecideThePath : Prop :=
  ∀ s p, p < 8 → (s.pair p).checkTime ≠ none → (s.pair p).decided = false → pairBytes s p ≠ [] →
    let x := s.pair p
    let own := fun (code q : Nat) => if (s.pair q).ownResult = 0 then code else (s.pair q).ownResult
    let line := fun (q result : Nat) (hard : Bool) =>
      ((s.part q).n0 + (s.pair q).checkStep, (s.pair q).checkOuter, result, hard, (s.pair q).late)
    let decided := fun (t : State) (who : List Nat) (result : Nat → Nat) (code : Nat) (hard : Bool) =>
      (∀ q ∈ who, (t.pair q).decided = true
        ∧ (t.pair q).report = (line q (result q) (hard && decide (pinFor s q 0x6300 1 ≠ 1)) :: (s.pair q).report).take 256
        ∧ tget 0 (t.pair q).counts (result q) = satAdd 32 (tget 0 (s.pair q).counts (result q)) 1
        ∧ t.part q = { s.part q with latches := (t.part q).latches })
      ∧ (∀ q, q ∉ who → t.pair q = s.pair q ∧ t.part q = s.part q ∧ t.ctlOf q = s.ctlOf q)
      ∧ (hard = true → pinFor s p 0x6300 1 ≠ 1 →
          (t.part p).latches = (s.part p).latches ++ [{ hardRequest s p true (own code p) with detail := none }]
          ∧ (who = [p] → t.ctl = s.ctl ∧ Logged s t sevAbsorbed evHardPath p (own code p)))
      ∧ (hard = true → pinFor s p 0x6300 1 = 1 →
          t.ctlOf p = { s.ctlOf p with logitsLateAt := some (hardRequest s p true (own code p)) } ∧ (who = [p] → t.parts = s.parts))
      ∧ (hard = false → t.ctl = s.ctl
          ∧ (t.part p).latches = (s.part p).latches
            ++ (if hardSet s p || (s.tide.joined && s.tide.isRoot) then [hardRequest s p false 0] else []))
      ∧ t = { s with pairs := t.pairs, parts := t.parts, ctl := t.ctl, mc := t.mc, log := t.log, hosts := t.hosts
                     sivar := t.sivar, now := t.now, rtc := t.rtc }
    p ∈ handoffPeers s p
    ∧ (∀ member result, result ≤ 8 → member ∈ tideMembers s ∨ member ∈ handoffMembers s p → (∀ r ∈ x.results, r.1 ≠ member) →
      (member = s.moduleNumber → result = x.ownResult) →
      ((s.tide.joined = true → s.tide.isRoot = true) →
        (result ≠ 0 → ∃ t, exec (.handoffResultReceive p member result) s = .next t
          ∧ decided t (handoffPeers s p) (fun q => (s.pair q).ownResult) result true ∧ t.now = s.now)
        ∧ (result = 0 → (∀ m ∈ handoffMembers s p, m = member ∨ ∃ r ∈ x.results, r.1 = m) →
          ∃ t, exec (.handoffResultReceive p member result) s = .next t
            ∧ decided t (handoffPeers s p) (fun q => (s.pair q).ownResult) 0 false ∧ t.now = s.now)
        ∧ (result = 0 → (∃ m ∈ handoffMembers s p, m ≠ member ∧ ∀ r ∈ x.results, r.1 ≠ m) →
          exec (.handoffResultReceive p member result) s
            = .next (s.setPair p { x with results := x.results ++ [(member, result)] })))
      ∧ (s.tide.joined = true → s.tide.isRoot = false → member = s.moduleNumber →
        exec (.handoffResultReceive p member result) s
          = .next (s.setPair p { x with results := x.results ++ [(member, result)] })))
    ∧ (s.now ≤ x.branchTime →
      ((s.tide.joined = true → s.tide.isRoot = true) →
        ∃ t, exec (.handoffReportDeadline p) s = .next t ∧ t.now = max s.now (x.branchTime - 8 * 1500)
          ∧ decided t (handoffPeers s p) (own 6) 6 true)
      ∧ (s.tide.joined = true → s.tide.isRoot = false →
        ∃ t, exec (.handoffReportDeadline p) s = .next t ∧ t.now = max s.now (x.branchTime - 4 * 1500)
          ∧ decided t [p] (own 6) 6 true))

/-- INTAKE_ROW. A row to a unit and column that are there waits, with no effect, while the intake holds 32 rows; else it is admitted to
the oldest open case of the column that expects it and held, or rejected and counted where nothing expects it or it comes from another
module. A row to a unit or column that is not there is rejected and counted for its source's partition. FRAME_CONVERT. The oldest case
with a complete tile, or the token that arrived first, gives its frames, in order, behind those not yet sent; the unit sends the oldest
ones while it holds credits and their quay has a usable port, and each goes on a port of its quay. The model's own readings and choices in
it: log 38, 75. -/
def Obligations.IntakeRowsBecomeFrames : Prop :=
  (∀ s a m c data, addrClass a = 4 → addrModule s 0 a = s.moduleNumber →
    let x := intakeColumn a
    let north := addrNorth a
    let y := coreY c
    let terminal := decide (y = if north then 143 else 0)
    let key := intakeKey x north
    let ik := s.intake key
    let rejected := fun (t : State) (p : Option Nat) => t.link = none
      ∧ (∀ j, (t.ctlOf j).counts.egressRejects = (s.ctlOf j).counts.egressRejects + (if p = some j then 1 else 0))
      ∧ (∀ j, p ≠ some j → t.ctlOf j = s.ctlOf j) ∧ t = { s with ctl := t.ctl, link := none }
    let source := if m = s.moduleNumber then s.partOfCore c else none
    (intakeNamed s a = false → ∃ t, exec (.intakeRow a m c data) s = .next t ∧ rejected t source)
    ∧ (intakeNamed s a = true → 32 ≤ ik.held.length → exec (.intakeRow a m c data) s = .next s)
    ∧ (intakeNamed s a = true → ik.held.length < 32 → s.partOfX x = none →
      ∃ t, exec (.intakeRow a m c data) s = .next t ∧ rejected t source)
    ∧ (∀ p, intakeNamed s a = true → ik.held.length < 32 → s.partOfX x = some p →
      (∀ i o, m = s.moduleNumber → coreX c = x → y < 144 → ik.opens.findIdx? (fun o => o.part == p && expects o y terminal) = some i →
        ik.opens[i]? = some o →
        ∃ t, exec (.intakeRow a m c data) s = .next t
          ∧ (t.intake key).held = ik.held ++ [(heldKey y (egRows o.record), data)]
          ∧ (∃ o', (t.intake key).opens[i]? = some o' ∧ o'.rows = o.rows + 1
              ∧ (∀ z, tget 0 o'.perCore z = tget 0 o.perCore z + (if egRows o.record = true ∧ z = y then 1 else 0))
              ∧ o' = { o with rows := o'.rows, perCore := o'.perCore })
          ∧ (∀ n, n ≠ i → (t.intake key).opens[n]? = ik.opens[n]?)
          ∧ t.intake key = { ik with held := (t.intake key).held, opens := (t.intake key).opens }
          ∧ SameBut {} s.intakes t.intakes key ∧ t = { s with intakes := t.intakes })
      ∧ ((m ≠ s.moduleNumber ∨ coreX c ≠ x ∨ 144 ≤ y ∨ ik.opens.findIdx? (fun o => o.part == p && expects o y terminal) = none) →
        ∃ t, exec (.intakeRow a m c data) s = .next t ∧ rejected t (some p))))
  ∧ (∀ s unit col, unit < 192 → col < 2 →
    let x := 2 * (unit % 96) + col
    let north := decide (96 ≤ unit)
    let key := intakeKey x north
    let ik := s.intake key
    let sends := fun (t : State) (frames : List EgFrame) =>
      ∃ n, n ≤ ik.credits ∧ (t.intake key).unsent = (ik.unsent ++ frames).drop n ∧ (t.intake key).credits + n = ik.credits
        ∧ (t.intake key).sent.take ik.sent.length = ik.sent
        ∧ ((t.intake key).sent.drop ik.sent.length).map bareFrame = ((ik.unsent ++ frames).take n).map bareFrame
        ∧ (∀ f ∈ (t.intake key).sent.drop ik.sent.length, f.port / 60 = frameQuay s key f.header)
        ∧ ((t.intake key).credits = 0 ∨ ∀ f, (t.intake key).unsent.head? = some f →
            nextPort t (frameQuay t key f.header) (frPart f.header) 1 = none)
        ∧ SameBut {} s.intakes t.intakes key ∧ (∀ q, t.quay q = { s.quay q with turn := (t.quay q).turn })
        ∧ t = { s with intakes := t.intakes, quays := t.quays }
    (ik.opens.findIdx? frameReady = none →
      ∃ t, exec (.frameConvert unit col) s = .next t ∧ sends t [] ∧ (t.intake key).held = ik.held ∧ (t.intake key).opens = ik.opens)
    ∧ (∀ i o, ik.opens.findIdx? frameReady = some i → ik.opens[i]? = some o →
      let y := if egRows o.record = true then (tokenReady ik.held o).getD 0 else if north then 143 else 0
      let taken := takeHeld ik.held (heldKey y (egRows o.record)) (if egRows o.record = true then rowsPerToken o.record else 8)
      ∃ t, exec (.frameConvert unit col) s = .next t
        ∧ sends t (framesOf s o x y taken.1) ∧ (t.intake key).held = taken.2
        ∧ ((t.intake key).opens = ik.opens.eraseIdx i
            ∨ ∃ o', (t.intake key).opens = ik.opens.set i o' ∧ o'.framed = o.framed + 1
                ∧ (∀ z, tget 0 o'.framedCore z = tget 0 o.framedCore z + (if egRows o.record = true ∧ z = y then 1 else 0))
                ∧ o' = { o with framed := o'.framed, framedCore := o'.framedCore })))

/-- FRAME_ACCUMULATE. A whole frame of a trained tensor that nothing excludes, of the accumulators' step or of one that may still be
folded in, is added: a DENSE frame at once, a ROWS frame once its column's frames are all there, and its statistics join its layer's; one
that comes after the reduce-scatter began is held for the next step, or dropped where the buffer is full or it is too old. A bad frame
excludes its micro-batch and is counted; an excluded, poisoned or frozen one is counted only. The unit gets a frame's credit back once it
has been added or discarded. The model's own readings and choices in it: log 38, 76, 77. -/
def Obligations.FramesAreAccumulated : Prop :=
  (∀ s q h pay, q < 4 → frameSource s q h pay = none → exec (.frameAccumulate q h pay) s = .next s)
  ∧ ∀ s q h pay key i f0, q < 4 → frameSource s q h pay = some (key, i) → (s.intake key).sent[i]? = some f0 →
    let f : EgFrame := { number := f0.number, header := h, payload := pay }
    let p := frPart h
    let x := key % 192
    let cur := stepNumber s p
    let n := frameStep cur (frStep16 h)
    let counted := fun (t : State) (reason : Nat) =>
      tget 0 (t.quay q).frameCounts (8 * p + reason) = satAdd 32 (tget 0 (s.quay q).frameCounts (8 * p + reason)) 1
        ∧ SameBut 0 (s.quay q).frameCounts (t.quay q).frameCounts (8 * p + reason)
    let discarded := fun (t : State) => (t.ctlOf p).counts.discardedFrames = (s.ctlOf p).counts.discardedFrames + 1
      ∧ SameBut {} s.ctl t.ctl p
    let excludes := ∃ t, exec (.frameAccumulate q h pay) s = .next t ∧ counted t 3 ∧ discarded t ∧ FrameTaken s t key i q 1
      ∧ (p, n, frOuter h) ∈ (t.quay q).excluded ∧ Logged s t sevDegraded evFrameDiscarded p 3
      ∧ t = { s with intakes := t.intakes, quays := t.quays, ctl := t.ctl, log := t.log, hosts := t.hosts, sivar := t.sivar }
    (s.recOf (frTensor h) = none → excludes)
    ∧ ∀ r, s.recOf (frTensor h) = some r →
      let good := bits h 31 0 = crc32c (headerCrcBytes h ++ pay) ∧ recPrimary r = q ∧ recRegion r = false
        ∧ (frFormat h = 1 ∨ frFormat h = 2 ∨ frFormat h = 5)
      let trains := frPoison h = false ∧ recFrozen r = false ∧ s.trained (frTensor h) = true
      let measured := fun (t : State) (er : BitVec 512) =>
        let old := tget {} (s.gov p).stats (q * 4096 + egLayer er)
        ∃ l, tfind (t.gov p).stats (q * 4096 + egLayer er) = some l
          ∧ l.amax = fmax old.amax (BitVec.ofNat 32 (bits h 151 120)) ∧ l.nonzero = old.nonzero + bits h 87 77
          ∧ l.uMx = old.uMx + bits h 76 66 ∧ l.uE5 = old.uE5 + bits h 65 55 ∧ l.uBf = old.uBf + bits h 54 44
          ∧ l.overflow = old.overflow + bits h 43 33 ∧ t.gov p = { s.gov p with stats := (t.gov p).stats }
          ∧ SameBut {} s.govs t.govs p
      (good → isExcluded s p n (frOuter h) = false → trains → scatterBegun s p = false → (n = cur ∨ mayFold s p n cur = true) →
        (frRows h = false →
          ∃ t, exec (.frameAccumulate q h pay) s = .next t ∧ counted t 0 ∧ FrameTaken s t key i q 1
            ∧ (t.optOf (recId r)).acc = addAcc (s.optOf (recId r)).acc
                ((frameElems (frFormat h) (frK h) false 1024 pay).zipIdx.map (fun e => (1024 * frTile h + e.2, e.1)))
            ∧ t.optOf (recId r) = { s.optOf (recId r) with acc := (t.optOf (recId r)).acc, dense := (t.optOf (recId r)).dense }
            ∧ SameBut {} s.opt.tensors t.opt.tensors (recId r) ∧ t.opt = { s.opt with tensors := t.opt.tensors }
            ∧ (∀ er, frameRecord s f.number h = some er → measured t er)
            ∧ t = { s with intakes := t.intakes, quays := t.quays, opt := t.opt, govs := t.govs })
        ∧ (frRows h = true → ∀ er, frameRecord s f.number h = some er →
          let held := (s.quay q).heldRows.filter (sameColumn x f)
          let all := columnFrames s p x er
          (held.length + 1 < all → ∃ t, exec (.frameAccumulate q h pay) s = .next t ∧ FrameTaken s t key i q 0
            ∧ (t.quay q).heldRows = (s.quay q).heldRows ++ [(x, f)] ∧ (t.quay q).frameCounts = (s.quay q).frameCounts
            ∧ (∀ v, frameToken s q er r h = some v → measured t er)
            ∧ t = { s with intakes := t.intakes, quays := t.quays, govs := t.govs })
          ∧ (all ≤ held.length + 1 → ∃ t, exec (.frameAccumulate q h pay) s = .next t ∧ FrameTaken s t key i q (held.length + 1)
            ∧ (t.quay q).heldRows = (s.quay q).heldRows.filter (fun e => !sameColumn x f e)
            ∧ (∀ v, held = [] → frameToken s q er r h = some v →
                let n := 32 * (if frTile h % 2 = 0 then min (egSlices er) 32 else egSlices er - 32)
                let first := egFirst er + egColStride er + (x - bandX s p (egFirstCol er)) * egSlices er + 32 * (frTile h % 2)
                counted t 0 ∧ v ∈ (t.optOf (recId r)).touched ∧ measured t er
                ∧ (t.optOf (recId r)).acc = addAcc (s.optOf (recId r)).acc
                    ((frameElems (frFormat h) (frK h) true n pay).zipIdx.map (fun e =>
                      (1024 * (v / 32 * recTin r + (first + e.2 / 32)) + 32 * (e.2 % 32) + v % 32, e.1))))
            ∧ (held = [] → frameToken s q er r h = none → counted t 5 ∧ discarded t ∧ t.opt = s.opt ∧ t.govs = s.govs)
            ∧ SameBut {} s.opt.tensors t.opt.tensors (recId r)
            ∧ t = { s with intakes := t.intakes, quays := t.quays, opt := t.opt, govs := t.govs, ctl := t.ctl, freeCtr := t.freeCtr })))
      ∧ (good → isExcluded s p n (frOuter h) = false → trains → scatterBegun s p = true →
        let fits := (n = cur ∨ mayFold s p n (cur + 1) = true)
          ∧ ((s.quay q).lateFrames.map (fun f => 32 + f.2.payload.length)).sum + 32 + pay.length ≤ 67108864
        (fits → ∃ t, exec (.frameAccumulate q h pay) s = .next t ∧ counted t 7 ∧ FrameTaken s t key i q 0
          ∧ (t.quay q).lateFrames = (s.quay q).lateFrames ++ [(x, f)]
          ∧ t = { s with intakes := t.intakes, quays := t.quays
                         ledger := { s.ledger with framesHeld := satAdd 32 s.ledger.framesHeld 1 } })
        ∧ (¬ fits → ∃ t, exec (.frameAccumulate q h pay) s = .next t ∧ counted t 6 ∧ discarded t ∧ FrameTaken s t key i q 1
          ∧ t = { s with intakes := t.intakes, quays := t.quays, ctl := t.ctl
                         ledger := { s.ledger with framesDropped := satAdd 32 s.ledger.framesDropped 1 } }))
      ∧ (¬ good → excludes)
      ∧ (good → isExcluded s p n (frOuter h) = true → ∃ t, exec (.frameAccumulate q h pay) s = .next t ∧ counted t 1 ∧ discarded t
          ∧ FrameTaken s t key i q 1 ∧ (∀ er, frameRecord s f.number h = some er → measured t er)
          ∧ t = { s with intakes := t.intakes, quays := t.quays, ctl := t.ctl, govs := t.govs })
      ∧ (good → isExcluded s p n (frOuter h) = false → (frPoison h = true ∨ recFrozen r = true ∨ s.trained (frTensor h) = false) →
          ∃ t, exec (.frameAccumulate q h pay) s = .next t ∧ counted t (if frPoison h = true then 2 else 4) ∧ discarded t
            ∧ FrameTaken s t key i q 1 ∧ t = { s with intakes := t.intakes, quays := t.quays, ctl := t.ctl })

/-- STATISTICS_REPORT, FORMAT_DECISION, LAYER_PIN, STASH_DECISION complete in every state. Once a layer's last case of the step has
closed, a quay's sums of it join the reported ones, and a layer of which no quay has sums reports sums of nothing. The decision takes a
step's sums into the window of 16 steps and changes format after four like choices; a member keeps its sums for the root, and the root
waits for the members' until 64 ticks before the next STEP_START instance, then decides on the steps before. A pin waits for a running
partition's next step. A micro-batch has one stash decision: it asks for its variant, or for a fault, at an event at least one tick ahead
that no member has passed, else the word stays and the answer is E_TIMEOUT. The model's own readings and choices in it: log 19, 40, 69,
77, 80. -/
def Obligations.GovernorsMeasureAndDecide : Prop :=
  (∀ s q p layer, q < 4 → p < 8 → layer < 4096 →
    let key := q * 4096 + layer
    let closed := ∀ e ∈ s.intakes, ∀ o ∈ e.2.opens, o.part = p → egLayer o.record ≠ layer
    (layerFired s p layer = false ∨ ¬ closed → exec (.statisticsReport q p layer) s = .next s)
    ∧ (layerFired s p layer = true → closed → ∃ t, exec (.statisticsReport q p layer) s = .next t
      ∧ (∀ l, tfind (s.gov p).stats key = some l →
          tfind (t.gov p).reported layer
            = some (match tfind (s.gov p).reported layer with | some o => joinStats o l | none => l)
          ∧ tget 0 (t.gov p).reportedStep layer = stepNumber s p + 1)
      ∧ ((∀ j, j < 4 → tfind (s.gov p).stats (j * 4096 + layer) = none) → layer ∈ layersOf s p →
          tfind (s.gov p).reported layer = none → tget 0 (s.gov p).reportedStep layer ≠ stepNumber s p + 1 →
          tfind (t.gov p).reported layer = some {} ∧ tget 0 (t.gov p).reportedStep layer = stepNumber s p + 1)
      ∧ tfind (t.gov p).stats key = none ∧ (∀ k, k ≠ key → tfind (t.gov p).stats k = tfind (s.gov p).stats k)
      ∧ (∀ k, k ≠ layer → tfind (t.gov p).reported k = tfind (s.gov p).reported k)
      ∧ SameBut 0 (s.gov p).reportedStep (t.gov p).reportedStep layer
      ∧ t.gov p = { s.gov p with stats := (t.gov p).stats, reported := (t.gov p).reported, reportedStep := (t.gov p).reportedStep }
      ∧ SameBut {} s.govs t.govs p ∧ t = { s with govs := t.govs }))
  ∧ (∀ s p layer, p < 8 → (tfind (s.gov p).reported layer = none ∨ ∃ q, q < 4 ∧ tfind (s.gov p).stats (q * 4096 + layer) ≠ none) →
    exec (.formatDecision p layer) s = .next s)
  ∧ (∀ s p layer st, p < 8 → tfind (s.gov p).reported layer = some st →
    (∀ q, q < 4 → tfind (s.gov p).stats (q * 4096 + layer) = none) →
    let step := tget 0 (s.gov p).reportedStep layer - 1
    let l := tget {} (s.gov p).layers layer
    let sums := if inGroup s p = true then groupStats s p step layer st else some st
    let late := decide (nextStepStart (s.part p) ≤ s.now + 64 * 1500)
    let done := fun (t : State) =>
      (t.gov p).toRoot = (s.gov p).toRoot.filter (fun e => e.1 != layer) ++ [(layer, step, st)]
      ∧ tfind (t.gov p).reported layer = none ∧ (∀ k, k ≠ layer → tfind (t.gov p).reported k = tfind (s.gov p).reported k)
      ∧ SameBut {} (s.gov p).layers (t.gov p).layers layer
      ∧ t.gov p = { s.gov p with toRoot := (t.gov p).toRoot, reported := (t.gov p).reported, layers := (t.gov p).layers }
      ∧ SameBut {} s.govs t.govs p ∧ t = { s with govs := t.govs, mc := t.mc }
    let chosen := fun (m : FormatState) =>
      (m.aHat, m.uHat) = windowMax m.window ∧ m.lastChoice = formatChoice m.aHat m.uHat
      ∧ m.run = (if m.lastChoice = l.inForce then 0 else if m.lastChoice = l.lastChoice then l.run + 1 else 1)
      ∧ m.inForce = l.inForce ∧ m.k = l.k ∧ m.pin = l.pin ∧ m.forced = l.forced
    let pends := fun (m : FormatState) =>
      m.pendingFormat = (if 4 ≤ m.run then m.lastChoice else l.inForce) ∧ m.pendingK = nextK m.aHat
    (decidedElsewhere s p = true → ∃ t, exec (.formatDecision p layer) s = .next t ∧ done t ∧ t.mc = s.mc
      ∧ (let m := tget {} (t.gov p).layers layer
         chosen m ∧ m.pendingFormat = l.pendingFormat ∧ m.pendingK = l.pendingK ∧ m.decidedFor = l.decidedFor
         ∧ m.window = (l.window ++ [if standsBy s = true then (groupStats s p step layer st).getD st else st]).drop (l.window.length + 1 - 16)))
    ∧ (decidedElsewhere s p = false →
      (∀ sum, sums = some sum → ∃ t, exec (.formatDecision p layer) s = .next t ∧ done t
        ∧ (let m := tget {} (t.gov p).layers layer
           chosen m ∧ pends m ∧ m.decidedFor = step + 1 ∧ m.window = (l.window ++ [sum]).drop (l.window.length + 1 - 16)))
      ∧ (sums = none → late = false → exec (.formatDecision p layer) s = .next s)
      ∧ (sums = none → late = true → ∃ t, exec (.formatDecision p layer) s = .next t ∧ done t
        ∧ (let m := tget {} (t.gov p).layers layer
           chosen m ∧ pends m ∧ m.decidedFor = l.decidedFor ∧ m.window = l.window))))
  ∧ (∀ s cl p layer pin, Serves s cl false →
    (3 < pin ∨ 8 ≤ p → exec (.layerPin cl p layer pin) s = .next { s with resp := answered stRange })
    ∧ (pin ≤ 3 → p < 8 → layer ∉ layersOf s p → exec (.layerPin cl p layer pin) s = .next { s with resp := answered stIndex })
    ∧ (pin ≤ 3 → p < 8 → layer ∈ layersOf s p →
      let l := tget {} (s.gov p).layers layer
      ∃ t, exec (.layerPin cl p layer pin) s = .next t ∧ t.resp = answered stOk
        ∧ tget {} (t.gov p).layers layer
          = (if (s.part p).marks = true then { l with pinNext := some pin } else { l with pin := pin, pinNext := none })
        ∧ t.gov p = { s.gov p with layers := (t.gov p).layers }
        ∧ SameBut {} (s.gov p).layers (t.gov p).layers layer
        ∧ SameBut {} s.govs t.govs p ∧ t = { s with govs := t.govs, resp := t.resp }))
  ∧ (∀ s p step o segs, p < 8 →
    let asks := (s.part p).marks = true ∧ groupSegments s p step o = some segs ∧ (step, o) ∉ (s.gov p).stashDone
      ∧ decidedElsewhere s p = false ∧ (s.part p).n0 ≤ step
    (¬ asks → exec (.stashDecision p step o segs) s = .next s)
    ∧ (asks →
      let n := step - (s.part p).n0
      let noted := fun (t : State) => (t.gov p).stashDone = (s.gov p).stashDone ++ [(step, o)]
        ∧ t.gov p = { s.gov p with stashDone := (t.gov p).stashDone, stashLog := (t.gov p).stashLog } ∧ SameBut {} s.govs t.govs p
      let line := fun (t : State) (kind bit smax time : Nat) =>
        ∃ l, (t.gov p).stashLog.getLast? = some l ∧ l.step = step ∧ l.outer = o ∧ l.kind = kind ∧ l.bit = bit ∧ l.s = segs
          ∧ l.smax = smax ∧ l.time = time
      (baseLayout s p = none → ∃ t, exec (.stashDecision p step o segs) s = .next t ∧ noted t ∧ t = { s with govs := t.govs })
      ∧ (∀ b, baseLayout s p = some b →
        let ask := fun (l : StashLayout) (w : BitVec 16) (detail : Nat) =>
          ({ mask := stashMask s p, word := w, entry := l.latchEntry, inner := l.latchInner, outer := o, step := n
             detail := some detail, choice := some (stashWantFor s p 0 segs b).word } : VariantReq)
        let refused := fun (r : VariantReq) => reqTime (s.part p) r < s.now + 1500 ∨ passedElsewhere s p (reqTime (s.part p) r) = true
        let late := ∃ t, exec (.stashDecision p step o segs) s = .next t ∧ noted t ∧ (t.gov p).stashLog = (s.gov p).stashLog
          ∧ t = { s.answer stTimeout with govs := t.govs }
        let latched := fun (t : State) (r : VariantReq) =>
          t.part p = { s.part p with latches := (s.part p).latches ++ [r] } ∧ SameBut {} s.parts t.parts p
        (segs ≤ b.smax → wordAhead s p &&& stashMask s p = 0 →
          let r := ask b 0 (256 * 0xFF)
          ∃ t, exec (.stashDecision p step o segs) s = .next t ∧ noted t ∧ line t 0 0xFF b.smax (reqTime (s.part p) r)
            ∧ (s.now < reqTime (s.part p) r → latched t { r with mask := 0 } ∧ t = { s with govs := t.govs, mc := t.mc, parts := t.parts })
            ∧ (reqTime (s.part p) r ≤ s.now → Logged s t sevInfo evStashDecision p (256 * 0xFF)
                ∧ t = { s with govs := t.govs, mc := t.mc, log := t.log, hosts := t.hosts, sivar := t.sivar }))
        ∧ (segs ≤ b.smax → wordAhead s p &&& stashMask s p ≠ 0 →
          let r := ask b 0 (256 * 0xFF)
          (refused r → late)
          ∧ (¬ refused r → ∃ t, exec (.stashDecision p step o segs) s = .next t ∧ noted t ∧ line t 0 0xFF b.smax (reqTime (s.part p) r)
              ∧ latched t r ∧ t = { s with govs := t.govs, mc := t.mc, parts := t.parts }))
        ∧ (∀ v, stashWant s p segs b = .variant v →
          let r := ask v (BitVec.ofNat 16 (2 ^ v.bit)) (256 * v.bit + v.kind)
          (refused r → late)
          ∧ (¬ refused r → ∃ t, exec (.stashDecision p step o segs) s = .next t ∧ noted t
              ∧ line t v.kind v.bit v.smax (reqTime (s.part p) r)
              ∧ latched t r ∧ t = { s with govs := t.govs, mc := t.mc, parts := t.parts }))
        ∧ (stashWant s p segs b = .fault →
          let r := ask b 0 segs
          (refused r → late)
          ∧ (¬ refused r → ∃ t, exec (.stashDecision p step o segs) s = .next t ∧ noted t
              ∧ line t 3 0xFF b.smax (reqTime (s.part p) r)
              ∧ (t.ctlOf p) = { s.ctlOf p with overflowAt := (s.ctlOf p).overflowAt ++ [r] }
              ∧ SameBut {} s.ctl t.ctl p ∧ t = { s with govs := t.govs, mc := t.mc, ctl := t.ctl })))))

/-- REDUCE_SCATTER_BEGIN, PASS_ONE_BEGIN, PASS_TWO_BEGIN, PUBLICATION_BEGIN. Each phase begins at the last event of its entry once the
phase before is over and the engines are free; the reduce-scatter fixes the tensors, their group records, the domain record, the pin and
the table of the update, and takes the accumulators, where they still hold that step's gradient, as its own contribution; pass two counts
an update on every tensor that takes part, and skips it where g2 is not finite; publication opens version n + 1 of every tensor of the
domain, and waits while an entry names a version whose slot it takes. The model's own readings and choices in it: log 5. -/
def Obligations.UpdatePhasesBegin : Prop :=
  (∀ s p rec s1, p < 8 → updateRec s p = some rec → p ∈ feeders s → (s.run p).phase = 0 →
    let pt := s.part p
    let others := match tableOf s p with | some tb => decide (1 < tb.members.length) | none => false
    let step := nextUpdate s p others
    let holds := holdsGradient s p step
    (pt.marks = true ∨ holds = true ∨ (others = true ∧ s.ledger.state < 3)) → stepReady s p (updEntry rec 0) step = some s1 →
    ∃ t, exec (.reduceScatterBegin p) s = .next t ∧ t.now = s1.now ∧ (t.run p).phase = 1 ∧ (t.run p).step = step
      ∧ (t.run p).par = (domainTensors s p).map (fun tid => (tid, s.groupRec (s.optOf tid).group))
      ∧ (t.run p).domRec = domainRec s p ∧ (t.run p).table = tableOf s p ∧ (t.run p).launch = pt.launchTick
      ∧ (∀ q, q < 4 → (t.exchange p q).began = true ∧ (t.exchange p q).step = step
          ∧ (t.exchange p q).contributes = holds
          ∧ (t.exchange p q).own = (if holds = true then ownStore s ((domainTensors s p).filter (fun tid =>
              match s.recOf tid with | some r => recPrimary r == q | none => false)) else []))
      ∧ (holds = true ∨ step ≠ stepNumber s p → t.opt.tensors = s.opt.tensors)
      ∧ (holds = false → step = stepNumber s p → ∀ k, t.optOf k =
          if k ∈ domainTensors s p then { s.optOf k with acc := [], touched := [], dense := false } else s.optOf k)
      ∧ t = { s with now := t.now, rtc := t.rtc, opt := t.opt, ledger := t.ledger, fabric := t.fabric })
  ∧ (∀ s p s1, p < 8 → (s.run p).phase = 1 → (∀ q ∈ activeQuays s p, (s.exchange p q).farClosed = true) →
    enginesFree s p (quaySlabs s p) = true → phaseReady s p 1 = some s1 →
    ∃ t, exec (.passOneBegin p) s = .next t ∧ t.now = s1.now ∧ (t.run p).phase = 2 ∧ (t.run p).sums = []
      ∧ (t.run p).step = (s.run p).step
      ∧ (∀ q, q < 4 → quaySlabs s p q ≠ [] → (t.engines q).dom = p ∧ (t.engines q).pass = 1 ∧ (t.engines q).passDone = false)
      ∧ t.opt.tensors = s.opt.tensors ∧ t = { s with now := t.now, rtc := t.rtc, opt := t.opt })
  ∧ (∀ s p g2 s1, p < 8 → (s.run p).g2 = some g2 → (s.run p).phase = 2 →
    passOver s p 1 = true → (∀ tid ∈ domainTensors s p, (s.tensor tid).checkpointing = none) →
    (∀ q, q < 4 → heldShards s p q = [] ∨ ∀ n ∈ liveShards s p, tfind (s.exchange p q).norms n ≠ none) →
    enginesFree s p (passTwoUnits s p) = true → phaseReady s p 2 = some s1 →
    ∃ t, exec (.passTwoBegin p) s = .next t ∧ t.now = s1.now ∧ (t.run p).phase = 3
      ∧ (t.run p).lr = lrAt (domPoints (s.run p).domRec) (s.run p).step ∧ (t.run p).skipped = !dFinite g2
      ∧ (dFinite g2 = false → t.opt.tensors = s.opt.tensors
          ∧ Logged s t sevDegraded evUpdateSkipped (ledgerOf s p) ((s.run p).step % 2 ^ 32))
      ∧ (dFinite g2 = true →
          (∀ k, t.optOf k = { s.optOf k with u := (s.optOf k).u + (if k ∈ domainKeys s p then 1 else 0) })
          ∧ (∀ q, q < 4 → passTwoUnits s p q ≠ [] → (t.engines q).dom = p ∧ (t.engines q).pass = 2)
          ∧ t.log = s.log)
      ∧ t = { s with now := t.now, rtc := t.rtc, opt := t.opt, ledger := t.ledger, log := t.log, hosts := t.hosts, sivar := t.sivar })
  ∧ (∀ s p s1, p < 8 → (s.run p).phase = 3 → passOver s p 2 = true → phaseReady s p 3 = some s1 →
    (∀ tid ∈ domainTensors s p, s.recOf tid ≠ none ∧ slotReady s tid ((s.run p).step + 1) = true ∧ (s.run p).step + 1 ∉ (s.tensor tid).retiring) →
    ∃ t, exec (.publicationBegin p) s = .next t ∧ t.now = s1.now
      ∧ ((t.run p).phase = 4 ∨ ((t.run p).phase = 0 ∧ (t.run p).done = true))
      ∧ (∀ tid ∈ domainTensors s p, ((t.tensor tid).slot ((s.run p).step + 1)).isSome = true)
      ∧ ((s.run p).skipped = true → ∀ tid ∈ domainTensors s p, ∀ o, (s.tensor tid).slot (s.run p).step = some o →
          ∃ v, (t.tensor tid).slot ((s.run p).step + 1) = some v ∧ v.bytes = o.bytes)
      ∧ t.opt.tensors = s.opt.tensors
      ∧ t = { s with now := t.now, rtc := t.rtc, opt := t.opt, tensors := t.tensors, quays := t.quays, ledger := t.ledger
                     fabric := t.fabric, freeCtr := t.freeCtr })
  ∧ (∀ s p s1, p < 8 → (s.run p).phase = 3 → passOver s p 2 = true → phaseReady s p 3 = some s1 →
    (∃ tid ∈ domainTensors s p, slotReady s tid ((s.run p).step + 1) = false) → exec (.publicationBegin p) s = .next s1)

/-- UNIT_WRITEBACK, ROOT_COMPUTATION, ENGINE_FAULT. A unit of pass one gives its slab's partial; one of pass two under the ADAM rule gives
every element of its slab the rule's weight and moments and leaves the others; the engine takes its next unit. A root is computed from the
block's snapshot, a failure sends the block into fallback. A faulty engine is fenced; after a write its unit's shard is lost for the step.
A quay without an engine left is in FAULT. The model's own readings and choices in it: log 26, 40. -/
def Obligations.EnginesComputeAndFail : Prop :=
  (∀ s q engine key unit, q < 4 → tget none (s.engines q).working engine = some (key, unit) →
    let e := s.engines q
    let p := e.dom
    let tid := baseTid key
    let g := groupFor s p tid
    let grad := match unitShard s p q e.pass key unit with | some n => (shardGrad s p q n).1 | none => []
    let span := slabSpan s tid unit
    ∃ t, exec (.unitWriteback q engine) s = .next t
      ∧ (e.pass = 1 →
          tfind (t.run p).sums (ekey key unit) = some (slabPartial grad tid span.1 span.2 (grpGmul g))
          ∧ (∀ k, k ≠ ekey key unit → tfind (t.run p).sums k = tfind (s.run p).sums k) ∧ t.opt.tensors = s.opt.tensors)
      ∧ (e.pass ≠ 1 → grpRule g ≠ 2 → ∀ r, s.recOf tid = some r → (recKind r ≠ 1 ∨ grpLazy g = false) →
          let a := adamPar g (s.run p).lr (s.run p).cf
          let o := s.optOf key
          let o' := t.optOf key
          (∀ x, span.1 ≤ x → x < span.1 + span.2 →
            let out := adamStep a o.u (tget fZero grad (ekey tid x)) (tget fZero o.m x) (tget fZero o.v x)
            tget fZero o'.w x = adamWeight a (tget fZero o.w x) out.d
            ∧ tget fZero o'.m x = momentOut (grpBf16 g) out.m ∧ tget fZero o'.v x = momentOut (grpBf16 g) out.v)
          ∧ (∀ x, (x < span.1 ∨ span.1 + span.2 ≤ x) →
            tget fZero o'.w x = tget fZero o.w x ∧ tget fZero o'.m x = tget fZero o.m x ∧ tget fZero o'.v x = tget fZero o.v x)
          ∧ o'.u = o.u ∧ o'.rows = o.rows)
      ∧ (∀ u tail, tget [] e.queues engine = u :: tail →
          tget none (t.engines q).working engine = some u ∧ tget [] (t.engines q).queues engine = tail)
      ∧ t = { s with opt := t.opt, ledger := t.ledger, fabric := t.fabric })
  ∧ (∀ s id a b right r, s.recOf id = some r →
    let g := s.groupRec (s.optOf id).group
    let unit := b * blocksIn r g + a
    let bl := tget {} (s.optOf id).blocks unit
    let res := if right = true then blockRoot g bl.snapR (grpBout g) else blockRoot g bl.snapL (grpBin g)
    grpRule g = 2 → a < blocksIn r g → bl.due ≠ none →
    bl.sideDone right = false →
    ∃ t, exec (.rootComputation id a b right) s = .next t
      ∧ tget {} (t.optOf id).blocks unit = bl.takeRoot right (grpK g) res
      ∧ SameBut {} (s.optOf id).blocks (t.optOf id).blocks unit
      ∧ (∀ k, k ≠ id → k ≠ id + mirrorKey → t.optOf k = s.optOf k)
      ∧ (res = .failed → (tget {} (t.optOf id).blocks unit).fallback = grpK g
          ∧ Logged s t sevDegraded evPrecondFallback id (a * 65536 + b * 2 + (if right then 1 else 0)))
      ∧ (res ≠ .failed → t.log = s.log)
      ∧ t = { s with opt := t.opt, log := t.log, hosts := t.hosts, sivar := t.sivar })
  ∧ (∀ s q engine afterWrite, q < 4 → engine < 256 → engine ∉ (s.engines q).fenced →
    let e := s.engines q
    ∃ t, exec (.engineFault q engine afterWrite) s = .next t
      ∧ (t.engines q).fenced = e.fenced ++ [engine]
      ∧ (enabledEngines t q ≠ [] → tget none (t.engines q).working engine = none ∧ tget [] (t.engines q).queues engine = [])
      ∧ (t.quay q).state = (if enabledEngines t q = [] ∧ (s.quay q).state = 2 then 3 else (s.quay q).state)
      ∧ (afterWrite = false → (t.run e.dom).lost = (s.run e.dom).lost ∧ SameBut {} s.quays t.quays q
          ∧ t.quay q = { s.quay q with state := (t.quay q).state } ∧ t.opt.tensors = s.opt.tensors
          ∧ t = { s with opt := t.opt, ledger := t.ledger, fabric := t.fabric, quays := t.quays })
      ∧ (afterWrite = true → ∀ key unit n, tget none e.working engine = some (key, unit) → unitShard s e.dom q e.pass key unit = some n →
          n ∈ (t.run e.dom).lost)
      ∧ t.now = s.now ∧ t.pad = s.pad ∧ t.dram = s.dram ∧ t.flash = s.flash ∧ t.parts = s.parts ∧ t.cores = s.cores)

/-- ASSIGNMENT, STATE_RESET, STATE_WRITE, GROUP_RECORD_WRITE. An assignment that passes its checks and has space gives the tensor its
group; a reset zeroes the moments, the counts and the blocks and keeps the master weights; a write changes its part; a group record that
passes its checks is in force as a new version of the configuration. -/
def Obligations.OptimizerObjectsAreWritten : Prop :=
  (∀ s cl id group r u, Serves s cl false → group ≤ 15 → s.recOf id = some r →
    (recFrozen r = false ∨ grpRule (s.groupRec group) = 0) → recRegion r = false → precondFits r (s.groupRec group) = true →
    (recFrozen r = true ∨ feedBusy s id = false) → reallocate s.asked id (s.groupRec group) = some u →
    ∃ t, exec (.assignment cl id group) s = .next t ∧ t.resp = answered stOk
      ∧ (t.optOf id).group = group ∧ (t.optOf id).assigned = true ∧ t.quays = u.quays
      ∧ (grpRule (s.groupRec (s.optOf id).group) = grpRule (s.groupRec group) → (s.optOf id).assigned = true →
          t.optOf id = { s.optOf id with group := group }
            ∧ (recMirror r = true → t.optOf (id + mirrorKey) = { s.optOf (id + mirrorKey) with group := group, assigned := true }))
      ∧ (∀ k, k ≠ id → k ≠ id + mirrorKey → t.optOf k = s.optOf k)
      ∧ t = { s with quays := t.quays, opt := t.opt, resp := t.resp })
  ∧ (∀ s cl id, Serves s cl false → stateChecks s id = none →
    ∃ t, exec (.stateReset cl id) s = .next t ∧ t.resp = answered stOk
      ∧ t.optOf id = { s.optOf id with m := [], v := [], u := 0, rows := [], blocks := (s.optOf id).blocks.map (fun e => (e.1, e.2.zeroed)) }
      ∧ (∀ k, k ≠ id → k ≠ id + mirrorKey → t.optOf k = s.optOf k)
      ∧ t = { s with opt := t.opt, resp := t.resp })
  ∧ (∀ s cl id part off data r, Serves s cl false → stateChecks s id = none → s.recOf id = some r → part ≤ 3 →
    off + data.length ≤ partBytes r (s.groupRec (s.optOf id).group) part →
    ∃ t, exec (.stateWrite cl id part off data) s = .next t ∧ t.resp = answered stOk
      ∧ t.optOf id = (s.optOf id).write r (s.groupRec (s.optOf id).group) part off data
      ∧ (part ≠ 0 → (t.optOf id).w = (s.optOf id).w) ∧ (part ≠ 1 → (t.optOf id).m = (s.optOf id).m)
      ∧ (part ≠ 2 → (t.optOf id).v = (s.optOf id).v) ∧ (part ≠ 3 → (t.optOf id).u = (s.optOf id).u ∧ (t.optOf id).rows = (s.optOf id).rows)
      ∧ (∀ k, k ≠ id → k ≠ id + mirrorKey → t.optOf k = s.optOf k)
      ∧ t = { s with opt := t.opt, resp := t.resp })
  ∧ (∀ s cl g rec, Serves s cl false → g ≤ 15 → Writable s (okey 0x6000 (0x10 + g)) (leBytes 64 rec.toNat) →
    ∃ t, exec (.groupRecordWrite cl g rec) s = .next t ∧ t.resp = answered stOk
      ∧ Saved s t (okey 0x6000 (0x10 + g)) (leBytes 64 rec.toNat) ∧ t.groupRec g = rec
      ∧ t.now = s.now ∧ t.tensors = s.tensors ∧ t.pad = s.pad ∧ t.dram = s.dram ∧ t.flash = s.flash)

/-- CONTRIB_RECEIVE, PARTIAL_RECEIVE, NEAR_CLOSE, FAR_CLOSE. A chunk for this quay is taken and, once complete, judged; one for a slice or
shard that the quay does not hold draws a REJECT; one ahead of its turn waits with its sender while the staging is full. A close sums
every slab's contributions in order and then its fold store, and empties that. The model's own readings and choices in it: log 40. -/
def Obligations.ContributionsAreSummedInOrder : Prop :=
  (∀ s q h pay p s1 src, q < 4 → s.fabricTake q 1 h pay = (s1, some p) →
    let pl := placeOf s p
    contribSource s p h = some src → contribWaits s q h pay = false →
    (shardPlace pl (fabShard h) = (pl.i, pl.d, q) → pay ≠ [] → ∀ k tid j first,
      locateSlab s (sliceSlabs s p q pl.i) (fabOffset h) = some (k, tid, j, first) →
      ∃ t, exec (.contribReceive q h pay) s = .next t
        ∧ ChunkJudged s t p q false src (fabStep h) k
            (takeChunk s (s.exchange p q).chunks false src (fabStep h) k tid j first (fabOffset h) pay)
        ∧ t = { s with fabric := s1.fabric, ledger := t.ledger })
    ∧ (shardPlace pl (fabShard h) = (pl.i, pl.d, q) → pay = [] → fabFinal h = true →
      ∃ t, exec (.contribReceive q h pay) s = .next t ∧ (src, fabStep h) ∈ (t.exchange p q).ended
        ∧ t.exchange p q = { s.exchange p q with ended := (t.exchange p q).ended }
        ∧ t = { s with fabric := s1.fabric, ledger := t.ledger })
    ∧ (shardPlace pl (fabShard h) ≠ (pl.i, pl.d, q) →
      ∃ t, exec (.contribReceive q h pay) s = .next t ∧ t.exchange p q = s.exchange p q
        ∧ tget 0 t.ledger.chunks 2 = satAdd 32 (tget 0 s.ledger.chunks 2)
            (let x := shardPlace pl (fabShard h); if atSlab s (sliceSlabs s p x.2.2 x.1) (fabOffset h) = true then 1 else 0)
        ∧ Sent s t q { typ := 10, dm := fabSrc h, dq := fabSrcQuay h, ledger := fabLedger h, step := fabStep h, shard := fabShard h
                       off := fabOffset h } []
        ∧ t = { s with fabric := t.fabric, ledger := t.ledger }))
  ∧ (∀ s q h pay p src k, q < 4 → feedByLedger s (fabLedger h) = some p → contribSource s p h = some src →
    (locateSlab s (sliceSlabs s p q (placeOf s p).i) (fabOffset h)).map (fun e => e.1) = some k →
    aheadOf s p q src (fabStep h) k = true → stagingFull s q pay.length = true → exec (.contribReceive q h pay) s = .next s)
  ∧ (∀ s q h pay p s1 src, q < 4 → s.fabricTake q 2 h pay = (s1, some p) →
    let pl := placeOf s p
    let i := (shardPlace pl (fabShard h)).1
    (List.range pl.dd).find? (fun d => memberModule s p i d == fabSrc h && (i != pl.i || d != pl.d)) = some src →
    (fabShard h ∈ heldShards s p q → ∀ k tid j first,
      locateSlab s (heldSlabs s p q (fabShard h)) (fabOffset h) = some (k, tid, j, first) →
      ∃ t, exec (.partialReceive q h pay) s = .next t
        ∧ ChunkJudged s t p q true src (fabStep h) k
            (takeChunk s (s.exchange p q).chunks true src (fabStep h) k tid j first (fabOffset h) pay)
        ∧ t = { s with fabric := s1.fabric, ledger := t.ledger })
    ∧ (fabShard h ∉ heldShards s p q →
      ∃ t, exec (.partialReceive q h pay) s = .next t ∧ t.exchange p q = s.exchange p q
        ∧ tget 0 t.ledger.chunks 5 = satAdd 32 (tget 0 s.ledger.chunks 5)
            (if atSlab s (shardSlabsNo s p (fabShard h)) (fabOffset h) = true then 1 else 0)
        ∧ Sent s t q { typ := 10, dm := fabSrc h, dq := fabSrcQuay h, ledger := fabLedger h, step := fabStep h, shard := fabShard h
                       off := fabOffset h } []
        ∧ t = { s with fabric := t.fabric, ledger := t.ledger }))
  ∧ (∀ s q p s1, q < 4 → (List.range 8).findSome? (fun p => (nearReady s p q).map (fun t => (p, t))) = some (p, s1) →
    ∃ t, exec (.nearClose q) s = .next t ∧ t.now = s1.now ∧ (t.exchange p q).nearClosed = true
      ∧ (t.exchange p q).nearCloseAt = s1.now ∧ (t.exchange p q).partialStore = nearStore s p q
      ∧ (t.exchange p q).nearFold = [] ∧ (t.exchange p q).own = (s.exchange p q).own
      ∧ (placeOf s p).d ∈ (t.exchange p q).farLevel.onTime
      ∧ t = { s with now := t.now, rtc := t.rtc, fabric := t.fabric, ledger := t.ledger, freeCtr := s.freeCtr + 1 })
  ∧ (∀ s q p, q < 4 →
    let due := fun (e : Exchange) => e.nearClosed && !e.farClosed
    let closed := fun (t : State) =>
      (t.exchange p q).farClosed = true ∧ (t.exchange p q).reduced = farStore s p q ∧ (t.exchange p q).reducedFor = farShards s p q
      ∧ (t.exchange p q).mirrorAcks = (farShards s p q).flatMap (fun n => (mirrorTargets s p n).map (fun _ => n))
      ∧ (t.exchange p q).farFold = [] ∧ (t.exchange p q).partialStore = (s.exchange p q).partialStore
      ∧ t = { s with now := t.now, rtc := t.rtc, fabric := t.fabric, ledger := t.ledger }
    (exchangeWhere s q (fun p e => due e && farComplete s p q) = some p →
      ∃ t, exec (.farClose q) s = .next t ∧ t.now = s.now ∧ closed t)
    ∧ (exchangeWhere s q (fun p e => due e && farComplete s p q) = none → exchangeWhere s q (fun _ e => due e) = some p →
      ∃ t, exec (.farClose q) s = .next t ∧ closed t
        ∧ t.now = max s.now ((s.exchange p q).nearCloseAt + (match tableOf s p with | some tb => tb.farWait | none => 0) * 1500)))
  ∧ (∀ s tid j stores fold out,
    let span := slabSpan s tid j
    (∀ i, i < span.2 →
      let k := ekey tid (span.1 + i)
      tget fZero (slabSums s tid j stores fold out) k = fadd (orderedSum stores k) (tget fZero fold k))
    ∧ (∀ k, (k < ekey tid span.1 ∨ ekey tid (span.1 + span.2) ≤ k) →
      tget fZero (slabSums s tid j stores fold out) k = tget fZero out k))

/-- PACKET_FORWARD, REJECT_PACKET_RECEIVE, QUAY_READ_REQ_RECEIVE, MIRROR_RECEIVE, MIRROR_ACK, NORM_RECEIVE, GATHER_RECEIVE. A packet for
another quay goes on as it is, or draws a REJECT; a REJECT is counted; a read is answered with its bytes; mirror data, norms and stream
bytes are kept under their shards, and a norm of a later step waits; stream bytes wait while an entry names the version whose slot they
take. The model's own readings and choices in it: log 21, 41. -/
def Obligations.FabricPacketsAreHandled : Prop :=
  (∀ s q h pay, q < 4 → (fabDst h ≠ s.moduleNumber ∨ fabDstQuay h ≠ q) → fabOk h pay = true →
    let flow := flowKey (fabSrc h) (fabSrcQuay h) (fabDst h) (fabDstQuay h) (fabType h) (fabShard h)
    (∀ port, routePort s q (fabDst h) (fabDstQuay h) flow = some port →
      exec (.packetForward q h pay) s = .next { s with fabric := { s.fabric with sent := s.fabric.sent ++ [(port, h, pay)] } })
    ∧ (routePort s q (fabDst h) (fabDstQuay h) flow = none → fabType h ≠ 10 →
      ∃ t, exec (.packetForward q h pay) s = .next t
        ∧ Sent s t q { typ := 10, dm := fabSrc h, dq := fabSrcQuay h, ledger := fabLedger h, step := fabStep h, shard := fabShard h
                       off := fabOffset h } []
        ∧ t = { s with fabric := t.fabric, ledger := t.ledger }))
  ∧ (∀ s q h pay, q < 4 → (fabDst h ≠ s.moduleNumber ∨ fabDstQuay h ≠ q) → fabOk h pay = false →
    exec (.packetForward q h pay) s
      = .next { s with fabric := { s.fabric with discarded := satAdd 32 s.fabric.discarded 1 } })
  ∧ (∀ s q h p s1, q < 4 → s.fabricTake q 10 h [] = (s1, some p) →
    exec (.rejectPacketReceive q h) s = .next { s with fabric := s1.fabric
                                                       ledger := { s.ledger with rejectsReceived := satAdd 32 s.ledger.rejectsReceived 1 } })
  ∧ (∀ s q h p s1, q < 4 → s.fabricTake q 6 h [] = (s1, some p) →
    (∀ e ∈ streamTiles s (shardSlabsNo s p (fabShard h)), ((s.tensor e.1).slot (fabStep h)).isSome = true) →
    let data := ((shardStream s p (fabShard h) (fabStep h)).drop (512 * fabOffset h)).take 4096
    data ≠ [] →
    ∃ t, exec (.quayReadReqReceive q h) s = .next t
      ∧ Sent s t q { typ := 7, dm := fabSrc h, dq := fabSrcQuay h, ledger := fabLedger h, step := fabStep h, shard := fabShard h
                     off := fabOffset h, final := true } data
      ∧ t = { s with fabric := t.fabric, ledger := t.ledger, freeCtr := s.freeCtr + 1 })
  ∧ (∀ s q h pay p s1 k tid j first, q < 4 → s.fabricTake q 5 h pay = (s1, some p) → fabShard h ∈ copyShards s p q →
    (s.exchange p q).step ≤ fabStep h → locateSlab s (copySlabs s p q (fabShard h)) (fabOffset h) = some (k, tid, j, first) →
    ∃ t, exec (.mirrorReceive q h pay) s = .next t
      ∧ tfind (t.exchange p q).mirrorStep (fabShard h) = some (fabStep h)
      ∧ (fabOffset h < rowsMark → (t.exchange p q).mirror = putValues (s.exchange p q).mirror tid first pay
          ∧ (fabShard h, fabOffset h) ∈ (t.exchange p q).mirrorGot)
      ∧ (rowsMark ≤ fabOffset h → (t.exchange p q).mirror = (s.exchange p q).mirror
          ∧ ∀ r ∈ payloadRows tid pay, (fabShard h, r) ∈ (t.exchange p q).mirrorRows)
      ∧ (fabFinal h = true → (fabShard h, fabStep h) ∈ (t.exchange p q).mirrorFinal)
      ∧ (mirrorWhole t p q (fabShard h) (fabStep h) = true → mirrorWhole s p q (fabShard h) (fabStep h) = false →
          t.ledger.sentMsgs = s.ledger.sentMsgs ++ [.mirrorAck (fabShard h) (fabSrc h) (fabSrcQuay h)])
      ∧ (mirrorWhole t p q (fabShard h) (fabStep h) = false → t.ledger.sentMsgs = s.ledger.sentMsgs)
      ∧ t = { s with fabric := s1.fabric, ledger := t.ledger })
  ∧ (∀ s q n p, q < 4 →
    exchangeWhere s q (fun p e => e.farClosed && decide (n ∈ e.mirrorAcks) && decide (n ∈ heldShards s p q)) = some p →
    ∃ t, exec (.mirrorAck q n) s = .next t ∧ (t.exchange p q).mirrorAcks = (s.exchange p q).mirrorAcks.erase n
      ∧ ((s.exchange p q).mirrorAcks.erase n ≠ [] → (t.exchange p q).normsSent = (s.exchange p q).normsSent ∧ t.fabric = s.fabric)
      ∧ t = { s with fabric := t.fabric, ledger := t.ledger, opt := t.opt })
  ∧ (∀ s q h pay p s1, q < 4 → s.fabricTake q 3 h pay = (s1, some p) →
    holderOf s p (fabShard h) = (fabSrc h, fabSrcQuay h) → pay.length = 8 →
    let x := BitVec.ofNat 64 (leNat pay)
    (((s.exchange p q).step < fabStep h ∨ (s.exchange p q).began = false) →
      ∃ t, exec (.normReceive q h pay) s = .next t
        ∧ (t.exchange p q).earlyNorms = (s.exchange p q).earlyNorms ++ [(fabStep h, fabShard h, x)]
        ∧ t = { s with fabric := s1.fabric, ledger := t.ledger })
    ∧ ((s.exchange p q).began = true → fabStep h = (s.exchange p q).step →
      ∃ t, exec (.normReceive q h pay) s = .next t ∧ tfind (t.exchange p q).norms (fabShard h) = some x
        ∧ ((s.run p).g2 = none → (∀ n ∈ liveShards s p, (tfind (t.exchange p q).norms n).isSome = true) →
            (t.run p).g2 = some (treeOf ((liveShards s p).map (fun n => tget 0 (t.exchange p q).norms n)))
            ∧ (t.run p).cf = clipFactor (treeOf ((liveShards s p).map (fun n => tget 0 (t.exchange p q).norms n)))
                (domTheta (s.run p).domRec))
        ∧ t = { s with fabric := s1.fabric, ledger := t.ledger, opt := t.opt }))
  ∧ (∀ s q h pay p, q < 4 → p < 8 →
    (∃ e ∈ streamTiles s (shardSlabsNo s p (fabShard h)), slotReady s e.1 ((s.exchange p q).step + 1) = false) →
    exec (.gatherReceive q h pay) s = .next s)
  ∧ (∀ s q h pay p s1, q < 4 → s.fabricTake q 4 h pay = (s1, some p) → fabStep h = (s.exchange p q).step → fabShard h % 4 = q →
    (∀ j, j < 8 → ∀ e ∈ streamTiles s (shardSlabsNo s j (fabShard h)), slotReady s e.1 ((s.exchange j q).step + 1) = true) →
    fabShard h ∈ liveShards s p → (s.run p).skipped = false →
    ∃ t, exec (.gatherReceive q h pay) s = .next t
      ∧ tget 0 (tget [] (t.exchange p q).gathered (fabShard h)) (512 * fabOffset h)
        = max pay.length (tget 0 (tget [] (s.exchange p q).gathered (fabShard h)) (512 * fabOffset h))
      ∧ t = { s with fabric := t.fabric, ledger := t.ledger, opt := t.opt, tensors := t.tensors, quays := t.quays
                     freeCtr := s.freeCtr + 1 })

/-- SHARD_DONE_RECEIVE, WITNESS_RECORD_RECEIVE, WITNESS_ACK, COMMIT_RECEIVE, DIGEST_REPORT. The harbour master keeps each report, and a
mirror that differs is invalid, which it proposes as a role map; a witness journals a record before it acknowledges it, and a module hears
one that goes to another's; a record that more than f witnesses hold is committed and a COMMIT sent; with the COMMIT the records that it
names are effective and the version of the step counts as committed; the ledger is ACTIVE once every digest agrees. The model's own
readings and choices in it: log 25, 27. -/
def Obligations.LedgerRecordsAreCommitted : Prop :=
  (∀ s step m hq e p, hmHere s = true →
    (ledgerParts s).find? (fun p => decide (e.shard ∈ liveShards s p)
      && (m != s.moduleNumber || (decide ((s.run p).step = step) && (s.exchange p hq).shardDone))) = some p →
    (ledgerOf s p, step, m, hq, e) ∉ s.ledger.dones → 1 ≤ faultsBorne s → (∀ x ∈ s.ledger.proposed, x.2.length ≤ faultsBorne s) →
    ∃ t, exec (.shardDoneReceive step m hq e) s = .next t
      ∧ (ledgerOf s p, step, m, hq, e) ∈ t.ledger.dones
      ∧ (∀ d, s.ledger.dones.find? (fun d => d.1 == ledgerOf s p && d.2.1 == step && d.2.2.2.2.shard == e.shard
            && d.2.2.2.2.mirror != e.mirror) = some d → d.2.2.2.2.streamSum ≠ e.streamSum →
          e.shard ∈ t.ledger.mirrorInvalid ∧ Logged s t sevFault evMirrorMismatch e.shard (step % 2 ^ 32)
          ∧ (∀ w, hmPosition s = some w → s.mc.mresetDraining = false →
              ∃ rec, LedgerMsg.propose rec ∈ t.ledger.sentMsgs ∧ rec.kind = 2 ∧ rec.roles = rolesWithout s p e.shard
                ∧ rec.roleMap = s.ledger.roleMap + 1))
      ∧ t = { s with ledger := t.ledger, log := t.log, hosts := t.hosts, sivar := t.sivar })
  ∧ (∀ s w rec, ownWitness s w = true → (s.witness w).term ≤ rec.term →
    ∃ t, exec (.witnessRecordReceive w rec) s = .next t ∧ rec ∈ (t.witness w).journal
      ∧ t.ledger.sentMsgs = s.ledger.sentMsgs ++ [.ack w rec.term] ∧ t.ledger.term = max s.ledger.term rec.term
      ∧ ((s.witness w).term < rec.term → (t.witness w).candidate = false)
      ∧ SameBut {} s.ledger.witnesses t.ledger.witnesses w ∧ t = { s with ledger := t.ledger })
  ∧ (∀ s w rec, ownWitness s w = false → w < (witnessList s).length → s.ledger.term ≤ rec.term → rec ∉ s.ledger.heard →
    exec (.witnessRecordReceive w rec) s = .next { s with ledger := { s.ledger with heard := s.ledger.heard ++ [rec] } })
  ∧ (∀ s w term e, hmHere s = true → w < (witnessList s).length → 1 ≤ faultsBorne s →
    s.ledger.proposed.find? (fun e => e.1.term == term && !decide (w ∈ e.2)) = some e →
    s.ledger.proposed.find? (fun x => x.1 == e.1) = some e →
    ∃ t, exec (.witnessAck w term) s = .next t
      ∧ (e.2.length + 1 ≤ faultsBorne s → (e.1, e.2 ++ [w]) ∈ t.ledger.proposed ∧ t.ledger.records = s.ledger.records)
      ∧ (faultsBorne s < e.2.length + 1 → e.1 ∈ t.ledger.records
          ∧ LedgerMsg.commit e.1.ledger e.1.step s.ledger.term ∈ t.ledger.sentMsgs
          ∧ (e.1.kind = 1 → e.1 ∉ s.ledger.records → tget 0 t.ledger.committed e.1.ledger = e.1.step + 1))
      ∧ (e.1.kind ≠ 2 → t.tensors = s.tensors)
      ∧ t.now = s.now ∧ t.parts = s.parts ∧ t.pad = s.pad ∧ t.dram = s.dram ∧ t.flash = s.flash)
  ∧ (∀ s q step term, q < 4 → s.ledger.term ≤ term →
    let waiting := namedRecords s step term
    ∃ t, exec (.commitReceive q step term) s = .next t ∧ t.ledger.term = term
      ∧ ((∀ r ∈ waiting, r.kind ≠ 2 ∧ r.kind ≠ 4) →
          (s.ledger.state ≠ 6 → ∀ p ∈ ledgerParts s, partDone s p q step = true → step + 1 ≤ committedNext t (ledgerOf s p) ∧ ∀ tid ∈ domainTensors s p, ∀ r v, s.recOf tid = some r → recPrimary r = q →
            (s.tensor tid).slot (step + 1) = some v → step + 1 ∉ (s.tensor tid).retiring →
            ∃ v', (t.tensor tid).slot (step + 1) = some v' ∧ v'.committed = true ∧ v'.complete = true ∧ v'.bytes = v.bytes)
          ∧ t = { s with ledger := t.ledger, tensors := t.tensors, quays := t.quays })
      ∧ (∀ r ∈ waiting, (∀ x ∈ waiting, x = r) → r.kind = 2 → r ∉ s.ledger.records →
          t.ledger.roles = r.roles ∧ t.ledger.roleMap = r.roleMap ∧ r ∈ t.ledger.records)
      ∧ (∀ r ∈ waiting, (∀ x ∈ waiting, x = r) → r.kind = 4 → r ∉ s.ledger.records → t.ledger.state = 6 ∧ t.ledger.rollbackTo = step)
      ∧ t.now = s.now ∧ t.pad = s.pad ∧ t.dram = s.dram ∧ t.flash = s.flash)
  ∧ (∀ s module digest tb, s.ledger.membership = some tb → (∃ m ∈ tb.members, m.module = module) → module ≠ s.moduleNumber →
    ∃ t, exec (.digestReport module digest) s = .next t ∧ (module, digest) ∈ t.ledger.digests
      ∧ (∀ d ∈ t.ledger.digests, d.1 = module → d.2 = digest)
      ∧ (let own := (t.ledger.digests.find? (fun d => d.1 == s.moduleNumber)).map (fun d => d.2)
         let agree := ∀ m ∈ tb.members, ∃ d ∈ t.ledger.digests, d.1 = m.module ∧ some d.2 = own
         (s.ledger.state = 1 → s.ledger.hm.isSome = true → agree → t.ledger.state = 2)
         ∧ ((s.ledger.state ≠ 1 ∨ s.ledger.hm = none ∨ ¬ agree) → t.ledger.state = s.ledger.state))
      ∧ t = { s with ledger := { s.ledger with digests := t.ledger.digests, state := t.ledger.state } })

/-- MEMBERSHIP_WRITE, RESTORE. A table that passes its checks is in force as a new version, the ledger FORMING and its digest sent; an
empty one leaves the module a ledger of its own, and the version last in force stands. A restore of a rolled-back ledger loads each
tensor's checkpoint copy of the version that the record names, with each quay's own copy of the state. The model's own readings and
choices in it: log 27. -/
def Obligations.MembershipAndRestore : Prop :=
  (∀ s cl table, Serves s cl false → decodeTable (encodeTable table) = some table →
    Writable s (okey 0x6000 0x30) (encodeTable table) →
    ∃ t, exec (.membershipWrite cl (some table)) s = .next t ∧ t.resp = answered stOk
      ∧ t.ledger.membership = some table ∧ t.ledger.state = 1 ∧ t.ledger.roles = [] ∧ t.ledger.tableVersion = table.version + 1
      ∧ LedgerMsg.digest (Config.sha3 (encodeTable table)) ∈ t.ledger.sentMsgs
      ∧ t.sivar.config = tset s.sivar.config (okey 0x6000 0x30) (encodeTable table) ∧ t.sivar.version = s.sivar.version + 1
      ∧ t.now = s.now ∧ t.tensors = s.tensors ∧ t.pad = s.pad ∧ t.dram = s.dram ∧ t.flash = s.flash)
  ∧ (∀ s cl, Serves s cl false → Writable s (okey 0x6000 0x30) [] →
    ∃ t, exec (.membershipWrite cl none) s = .next t ∧ t.resp = answered stOk
      ∧ t.ledger = { s.ledger with membership := none, state := 0, hm := none, roles := [], digests := [], proposed := [], dones := [] }
      ∧ Saved s t (okey 0x6000 0x30) [] ∧ t = { s with ledger := t.ledger, sivar := t.sivar, resp := t.resp })
  ∧ (∀ s cl ledger p, Serves s cl false → s.ledger.state = 6 → (ledgerParts s).find? (fun p => ledgerOf s p == ledger) = some p →
    (∀ tid ∈ domainTensors s p, ((s.tensor tid).copyOf s.ledger.rollbackTo).isSome = true) →
    ∃ t, exec (.restore cl ledger) s = .next t ∧ t.resp = answered stOk ∧ t.ledger.state = 2
      ∧ tget 0 t.ledger.committed ledger = s.ledger.rollbackTo ∧ (t.run p).phase = 0
      ∧ (∀ tid ∈ domainTensors s p, ∀ c, (s.tensor tid).copyOf s.ledger.rollbackTo = some c →
          (t.tensor tid).versions = [{ c.version with committed := true, complete := true }]
          ∧ ((∀ x ∈ domainTensors s p, x < mirrorKey) → t.optOf tid = c.state
            ∧ (recMirror (s.tensor tid).record = true → ∀ k, (s.tensor tid).replica = some k → k.version.number = s.ledger.rollbackTo →
                t.optOf (tid + mirrorKey) = k.state)))
      ∧ (∀ tid, tid ∉ domainTensors s p → t.tensor tid = s.tensor tid)
      ∧ t = { s with tensors := t.tensors, opt := t.opt, ledger := t.ledger, resp := t.resp })

/-- ELECTION_TIMEOUT, VOTE_REQUEST, VOTE_GRANT, HM_HEARTBEAT, HEARTBEAT_ANSWER. A witness that hears nothing becomes a candidate of a new
term; a witness votes once a term, for a journal that does not end before its own; f + 1 votes make a harbour master, and a held ledger
whose shards are all covered goes on; its heartbeat goes out every millisecond and ends every quay's silence, and a halted module none of
whose own shards has passed to another quay goes on with the step that it held. The model's own readings and choices in it: log 27. -/
def Obligations.HarbourMastersAreElected : Prop :=
  (∀ s w, ownWitness s w = true → (hmPosition s ≠ some w ∨ hmHere s = false) →
    let term := max (s.witness w).term s.ledger.term + 1
    ∃ t, exec (.electionTimeout w) s = .next t
      ∧ t.now = max s.now ((s.witness w).lastHeartbeat + (20000 + 5000 * w) * 1500)
      ∧ t.witness w = { s.witness w with term := term, votedFor := some (term, w), candidate := true, votes := [w]
                                         lastHeartbeat := t.now }
      ∧ t.ledger.sentMsgs = s.ledger.sentMsgs ++ [.askVote w term]
      ∧ SameBut {} s.ledger.witnesses t.ledger.witnesses w ∧ t = { s with now := t.now, rtc := t.rtc, ledger := t.ledger })
  ∧ (∀ s w term c lastTerm lastRecord, ownWitness s w = true → (s.witness w).term ≤ term →
    let x := s.witness w
    let grant := (x.tip.1 < lastTerm ∨ (x.tip.1 = lastTerm ∧ x.tip.2 ≤ lastRecord))
      ∧ (x.term < term ∨ x.votedFor = none ∨ x.votedFor = some (term, c))
    ∃ t, exec (.voteRequest w term c lastTerm lastRecord) s = .next t
      ∧ (grant → (t.witness w).votedFor = some (term, c) ∧ t.ledger.sentMsgs = s.ledger.sentMsgs ++ [.vote w term c])
      ∧ (¬ grant → t.ledger.sentMsgs = s.ledger.sentMsgs)
      ∧ (t.witness w).term = term ∧ (t.witness w).journal = x.journal
      ∧ SameBut {} s.ledger.witnesses t.ledger.witnesses w ∧ t = { s with ledger := t.ledger })
  ∧ (∀ s w voter, ownWitness s w = true → (s.witness w).candidate = true → voter < (witnessList s).length →
    let term := (s.witness w).term
    let votes := addOnce (s.witness w).votes voter
    ∃ t, exec (.voteGrant w term voter) s = .next t
      ∧ (votes.length ≤ faultsBorne s → t.witness w = { s.witness w with votes := votes } ∧ t.ledger.hm = s.ledger.hm)
      ∧ (faultsBorne s < votes.length → t.ledger.hm = (witnessList s)[w]? ∧ t.ledger.term = term
          ∧ (t.witness w).candidate = false ∧ t.ledger.heartbeatAt = s.now
          ∧ (1 ≤ faultsBorne s → s.ledger.state = 3 → (∀ p ∈ ledgerParts s, ∀ n ∈ liveShards s p, holderOf s p n ∉ s.ledger.lost) →
              t.ledger.state = 2))
      ∧ (1 ≤ faultsBorne s → t.tensors = s.tensors)
      ∧ t.now = s.now ∧ t.parts = s.parts ∧ t.pad = s.pad ∧ t.dram = s.dram ∧ t.flash = s.flash)
  ∧ (∀ s module quay term, (module, quay) ∈ witnessList s →
    (module = s.moduleNumber → s.ledger.hm = some (module, quay)) →
    let halted := s.ledger.term < term ∧ (s.ledger.state = 3 ∨ s.ledger.state = 4)
    (module ≠ s.moduleNumber → s.ledger.term ≤ term ∧ (halted → movedShards (s.hearRoles term) = [])) →
    ∃ t, exec (.hmHeartbeat module quay term) s = .next t
      ∧ t.now = (if module = s.moduleNumber then max s.now (s.ledger.heartbeatAt + 1500000) else s.now)
      ∧ t.ledger.hm = some (module, quay)
      ∧ t.ledger.term = (if module = s.moduleNumber then s.ledger.term else term)
      ∧ (module ≠ s.moduleNumber → halted → t.ledger.state = 2)
      ∧ (module = s.moduleNumber → LedgerMsg.heartbeat s.ledger.term ∈ t.ledger.sentMsgs)
      ∧ t.ledger.silent = [] ∧ (∀ q, q < 4 → tget 0 t.ledger.lastHm q = t.now ∧ LedgerMsg.answer q ∈ t.ledger.sentMsgs)
      ∧ (∀ w, w < (witnessList s).length → ownWitness s w = true →
          (t.witness w).lastHeartbeat = t.now ∧ (t.witness w).candidate = false)
      ∧ t = { s with now := t.now, rtc := t.rtc, ledger := t.ledger, fabric := t.fabric, opt := t.opt, tensors := t.tensors })
  ∧ (∀ s module quay, hmHere s = true →
    ∃ t, exec (.heartbeatAnswer module quay) s = .next t ∧ (module, quay, s.now) ∈ t.ledger.lastAnswer
      ∧ (∀ e ∈ t.ledger.lastAnswer, e.1 = module → e.2.1 = quay → e.2.2 = s.now)
      ∧ t = { s with ledger := { s.ledger with lastAnswer := t.ledger.lastAnswer } })

/-- MEMBER_LOST, HARBOUR_MASTER_SILENCE, PARTITIONED, REJOIN, RESYNC_DONE. A member silent for 10 ms is lost, and a ROLES record gives its
shards to their mirrors, or, where a shard is left without a holder, a ROLLBACK names the checkpoint that every tensor has, or the ledger
is held; a quay without a harbour master for 10 ms is silent itself, and after 100 ms the ledger stops and its partitions halt at their
next step; a rejoin whose shards have moved drops what was not committed; a copied shard is valid again. The model's own readings and
choices in it: log 27, 41. -/
def Obligations.LostMembersAndRejoins : Prop :=
  (∀ s module quay, hmHere s = true → (module, quay) ∉ s.ledger.lost →
    let heard := match s.ledger.lastAnswer.find? (fun e => e.1 == module && e.2.1 == quay) with | some e => e.2.2 | none => 0
    let gone := fun (p n : Nat) => holderOf s p n == (module, quay)
    let goneMirror := fun (p n : Nat) => decide ((module, quay) ∈ copyQuays s p n)
    let u : State := { s with ledger := { s.ledger with lost := s.ledger.lost ++ [(module, quay)] } }
    let split := Config.freeNat s.freeCtr (2 ^ 22 + 8) % 2 = 1
    let hit := fun (p : Nat) => (liveShards s p).any (fun n => gone p n || goneMirror p n) = true
    ∃ t, exec (.memberLost module quay) s = .next t ∧ t.now = max s.now (heard + 15000000)
      ∧ (module, quay) ∈ t.ledger.lost
      ∧ (∀ p w roles, ledgerParts s = [p] → hmPosition s = some w → s.mc.mresetDraining = false →
          hit p → rolesAfter u p (gone p) (goneMirror p) = some roles →
          ∃ rec, LedgerMsg.propose rec ∈ t.ledger.sentMsgs ∧ rec.kind = 2 ∧ rec.roles = roles
            ∧ rec.roleMap = s.ledger.roleMap + 1)
      ∧ (∀ p w c, ledgerParts s = [p] → hmPosition s = some w → s.mc.mresetDraining = false → hit p →
          rolesAfter u p (gone p) (goneMirror p) = none → ¬ split → commonCheckpoint s p = some c →
          ∃ rec, LedgerMsg.propose rec ∈ t.ledger.sentMsgs ∧ rec.kind = 4 ∧ rec.step = c)
      ∧ (∀ p, ledgerParts s = [p] → hit p → rolesAfter u p (gone p) (goneMirror p) = none →
          (split ∨ commonCheckpoint s p = none) → t.ledger.state = 3)
      ∧ ((∀ p ∈ ledgerParts s, ∀ n ∈ liveShards s p, gone p n = false ∧ goneMirror p n = false) →
          t = { u with now := t.now, rtc := t.rtc, freeCtr := s.freeCtr + 1 })
      ∧ (1 ≤ faultsBorne s → (∀ x ∈ s.ledger.proposed, x.2.length ≤ faultsBorne s) → t.tensors = s.tensors)
      ∧ t.parts = s.parts ∧ t.pad = s.pad ∧ t.dram = s.dram ∧ t.flash = s.flash)
  ∧ (∀ s q, q < 4 →
    ∃ t, exec (.harbourMasterSilence q) s = .next t ∧ t.now = max s.now (tget 0 s.ledger.lastHm q + 15000000)
      ∧ q ∈ t.ledger.silent ∧ (∀ k, k ∈ t.ledger.silent → k = q ∨ k ∈ s.ledger.silent)
      ∧ t = { s with now := t.now, rtc := t.rtc, ledger := { s.ledger with silent := t.ledger.silent } })
  ∧ (∀ s q, q < 4 → s.ledger.state ≠ 4 →
    ∃ t, exec (.partitioned q) s = .next t ∧ t.now = max s.now (tget 0 s.ledger.lastHm q + 150000000)
      ∧ t.ledger = { s.ledger with state := 4 }
      ∧ (∀ p ∈ ledgerParts s, ∀ k ∈ groupParts s p, (s.part k).marks = true → (t.ctlOf k).haltAtStepStart = true)
      ∧ Logged s t sevFault evLedgerHalt (tableId s) 4
      ∧ t = { s with now := t.now, rtc := t.rtc, ledger := t.ledger, ctl := t.ctl, log := t.log, hosts := t.hosts, sivar := t.sivar })
  ∧ (∀ s q term, q < 4 → s.ledger.term < term → (s.ledger.state = 3 ∨ s.ledger.state = 4) →
    let moved := movedShards (s.hearRoles term)
    ∃ t, exec (.rejoin q term) s = .next t ∧ t.ledger.term = term ∧ t.ledger.silent = [] ∧ t.ledger.proposed = []
      ∧ t.ledger.roles = (s.hearRoles term).ledger.roles
      ∧ t.ledger.resyncing = moved.map (fun e => (e.2 % 4, e.2)) ∧ t.ledger.state = (if moved = [] then 2 else 5)
      ∧ (moved = [] → t.ledger.dones = s.ledger.dones ∧ ∀ w, (t.witness w).journal = (s.witness w).journal)
      ∧ (moved ≠ [] → t.ledger.dones = [] ∧ t.ledger.heard = []
          ∧ (∀ e ∈ moved, (t.run e.1).phase = 0 ∧ (∀ k, k < 4 → t.exchange e.1 k = {})
              ∧ ∀ tid ∈ domainTensors s e.1, (t.tensor tid).versions = (s.tensor tid).versions.filter (fun v => v.committed))
          ∧ (∀ w, ∀ r ∈ (t.witness w).journal, r ∈ s.ledger.records))
      ∧ t = { s with tensors := t.tensors, opt := t.opt, ledger := t.ledger, fabric := t.fabric })
  ∧ (∀ s q shard, q < 4 → (q, shard) ∈ s.ledger.resyncing →
    ∃ t, exec (.resyncDone q shard) s = .next t
      ∧ t.ledger.resyncing = s.ledger.resyncing.filter (fun e => e != (q, shard))
      ∧ t.ledger.state = (if t.ledger.resyncing = [] then 2 else 5) ∧ shard ∉ t.ledger.mirrorInvalid
      ∧ (∀ r ∈ t.ledger.roles, r.1 = shard → r.2.2.2 = true)
      ∧ (∀ p ∈ ledgerParts s, committedNext s (ledgerOf s p) ≤ committedNext t (ledgerOf s p))
      ∧ t = { s with ledger := t.ledger, opt := t.opt, tensors := t.tensors, freeCtr := t.freeCtr })

/-- STAGE_END. Each stage that passes leaves its report and begins the next of its run; S0 opens the controller or, with a bad image, the
recovery loader; S3 fails without coolant flow; S5 clears every scratchpad; S8 starts the tide of a domain of one; S9 makes the module
PARKED and ready. A stage that fails stops bring-up with a FATAL event. The model's own readings and choices in it: log 4, 48, 74. -/
def Obligations.BringUpStagesEnd : Prop :=
  ∀ s result detail tested first failing passing, s.bring.active = true → s.bring.stopped = false →
    let run := exec (.stageEnd result detail tested first failing passing) s
    let frame := fun (t : State) => t.parts = s.parts ∧ t.tensors = s.tensors ∧ t.dram = s.dram ∧ t.flash = s.flash
      ∧ t.sivar.config = s.sivar.config
    (s.power.draining = true → run = .next s)
    ∧ (s.power.draining = false →
    (s.bring.stage = 0 → romDetail s = 0 → result ≠ 2 → ∃ t, run = .next t ∧ t.mc.up = true ∧ t.fw.running = s.fw.stored
      ∧ (tget {} t.bring.reports 0).result = 0 ∧ t.bring.stage = stageAfter s 0 ∧ t.bring.stopped = false ∧ t.bring.stageAt = s.now
      ∧ t.sivar.primary = (if (s.host 0).up then 0 else 1)
      ∧ frame t ∧ t = { s with bring := t.bring, mc := t.mc, sivar := t.sivar, fw := t.fw })
    ∧ (s.bring.stage = 0 → romDetail s ≠ 0 → ∃ t, run = .next t ∧ t.mc.up = true ∧ t.bring.loader = true ∧ t.bring.stopped = true
      ∧ (tget {} t.bring.reports 0).result = 2 ∧ (tget {} t.bring.reports 0).detail = romDetail s
      ∧ (∃ e, t.log.entries.getLast? = some e ∧ e.severity = sevFatal ∧ e.code = evStageStop ∧ e.unit = 0 ∧ e.detail = romDetail s)
      ∧ t.fw = s.fw ∧ frame t)
    ∧ (s.bring.stage = 3 → s.power.pumpOk = false ∨ s.bring.stageAt + 87000000000 < s.power.pumpOkSince → ∃ t, run = .next t ∧ t.now = max s.now (s.bring.stageAt + 90000000000)
      ∧ t.bring.stopped = true ∧ (tget {} t.bring.reports 3).result = 2 ∧ (tget {} t.bring.reports 3).detail = 0x0301
      ∧ Logged s t sevFatal evStageStop 3 0x0301 ∧ frame t ∧ t.tiles = s.tiles)
    ∧ (s.bring.stage = 5 → s.bring.coldS5 = false → failing = [] → ∃ t, run = .next t ∧ t.pad = [] ∧ t.marks = []
      ∧ (tget {} t.bring.reports 5).result = 0 ∧ t.bring.stage = stageAfter s 5 ∧ t.bring.filledAt = s.now ∧ frame t
      ∧ t = { s with pad := [], marks := [], bring := t.bring })
    ∧ (s.bring.stage = 5 → s.bring.coldS5 = false → failing ≠ [] → ∃ t, run = .next t ∧ t.pad = [] ∧ t.marks = []
      ∧ t.bring = { s.bring with coldS5 := true, filledAt := s.now } ∧ t = { s with pad := [], marks := [], bring := t.bring })
    ∧ (s.bring.stage = 8 → domainId s = 0 → ∃ t, run = .next t ∧ t.tide = { s.tide with run := .running, lock := 0 }
      ∧ (tget {} t.bring.reports 8).result = 0 ∧ t.bring.stage = stageAfter s 8 ∧ t = { s with tide := t.tide, bring := t.bring })
    ∧ (s.bring.stage = 9 → ∃ t, run = .next t ∧ t.bring.active = false ∧ t.bring.moduleReset = false
      ∧ t.power = { s.power with state := .parked, ready := true } ∧ (tget {} t.bring.reports 9).result = 0
      ∧ (s.bring.moduleReset = true ∨ s.bring.form = 2 → t.bring.service = s.bring.service)
      ∧ (∀ n k, n < 16 → k < 64 → (s.port (496 + n)).up = false → s.bring.service.length = 1024 →
          t.bring.service.getD (64 * n + k) 0 = s.bring.service.getD (64 * n + k) 0)
      ∧ (s.bring.coldS5 = false → t.bring.results = s.bring.results)
      ∧ (s.bring.coldS5 = true → ∃ r, t.bring.results = some r ∧ r.written = s.utc ∧ r.digest = Config.sha3 r.content)
      ∧ t = { s with bring := t.bring, power := t.power, freeCtr := t.freeCtr }))

/-- TEST_REQUEST, TEST_COMPLETE, TEST_CANCEL, OVERLAY_ADD, OVERLAY_REMOVE, DISCARD_RESULTS_RECORD. A request that no state refuses runs;
its end reports what failed and leaves the rows of its tiles undefined; a cancelled one leaves them. An operator's entry is added with its
effect at once, or at the restart of the partition that holds its unit; a removed one is gone. The model's own readings and choices in it:
log 4, 5, 49. -/
def Obligations.TestsAndOverlayEntries : Prop :=
  (∀ s cl r, Serves s cl false → testRangeOk r = true → testRefusal s r = none →
    ∃ t, exec (.testRequest cl r) s = .next t ∧ t.resp = answered stOk
      ∧ t.bring.tests = s.bring.tests ++ [{ tag := tqTag r, kind := tqKind r, tiles := tqTiles r, port := tqPort r
                                            quay := tqQuay r, stack := tqStack r, start := s.utc }]
      ∧ (∀ k, t.tile k = if k < 48 ∧ (tqTiles r).getLsbD k = true ∧ (s.tile k).fastClock = false ∧ (s.tile k).unreachable = false
            ∧ (s.tile k).state ≠ .tripped ∧ s.power.state ≠ .deepPark
          then { s.tile k with fastClock := true, pickUp := (s.now / 1500 + 1) * 1500 } else s.tile k)
      ∧ (tqKind r ≠ 5 → t = { s with bring := t.bring, tiles := t.tiles, freeCtr := s.freeCtr + 1, resp := t.resp })
      ∧ (tqKind r = 5 → (t.port (tqPort r)).outcome = 4 ∧ (t.port (tqPort r)).trainKind = 2
          ∧ SameBut {} s.ports t.ports (tqPort r)
          ∧ t = { s with bring := t.bring, tiles := t.tiles, ports := t.ports, quays := t.quays, intakes := t.intakes
                         freeCtr := s.freeCtr + 1, resp := t.resp }))
  ∧ (∀ s tag failing tested run, s.bring.tests.find? (fun t => t.tag == tag) = some run →
    ∃ t r, exec (.testComplete tag failing tested) s = .next t
      ∧ t.now = s.now + (testTenths run.kind * 100000 - (s.utc - run.start)) * 1500
      ∧ run ∉ t.bring.tests ∧ t.bring.finished.getLast? = some r
      ∧ r.tag = run.tag ∧ r.kind = run.kind ∧ r.tested = tested ∧ r.outcome = (if r.fenced = 0 then 0 else 1)
      ∧ (failing.filter (fun u => testCovers run u.1 u.2) = [] → r.fenced = 0 ∧ t.overlay = s.overlay)
      ∧ (run.kind ≤ 3 → ∀ a, run.tiles.getLsbD (coreTile (a / 2097152)) = true → readByte t.pad a = none)
      ∧ t.parts = s.parts ∧ t.dram = s.dram ∧ t.flash = s.flash ∧ t.tensors = s.tensors)
  ∧ (∀ s cl tag run, Serves s cl false → s.bring.tests.find? (fun t => t.tag == tag) = some run →
    ∃ t r, exec (.testCancel cl tag) s = .next t ∧ t.resp = answered stOk
      ∧ run ∉ t.bring.tests ∧ t.bring.finished.getLast? = some r ∧ r.tag = run.tag ∧ r.outcome = 3
      ∧ (∀ k, t.tile k = if k < 48 ∧ run.tiles.getLsbD k = true ∧ (s.tile k).state = .darkShed
          then { s.tile k with fastClock := false } else s.tile k)
      ∧ t = { s with bring := t.bring, tiles := t.tiles, resp := t.resp })
  ∧ (∀ s cl r, Serves s cl false → 1 ≤ oeClass r → oeClass r ≤ 8 → oeClass r ≠ 2 → oeOrigin r = 4 → oeFlags r < 4 →
    unitInRange s (oeClass r) (oeUnit r) = true → heldUnit s (oeClass r) (oeUnit r) = false → s.overlay.entries.length < 1024 →
    let f : Fence := { cls := oeClass r, origin := 4, flags := oeFlags r, unit := oeUnit r, utc := s.utc, quaySerial := 0 }
    ∃ t, exec (.overlayAdd cl r) s = .next t ∧ t.resp = answered stOk ∧ t.overlay.entries = s.overlay.entries ++ [f]
      ∧ (∀ p l, holders s (oeClass r) (oeUnit r) = p :: l →
          t.overlay.pending = s.overlay.pending ++ [(p, f)] ∧ t = { s with overlay := t.overlay, resp := t.resp })
      ∧ (holders s (oeClass r) (oeUnit r) = [] →
          (oeClass r = 1 → (t.heal (oeUnit r)).fenced = true ∧ (t.heal (oeUnit r)).heartbeat = false)
          ∧ (oeClass r = 4 → (t.port (oeUnit r)).outcome = 0 ∧ (t.port (oeUnit r)).lanes = 0)
          ∧ (oeClass r = 7 → oeUnit r % 256 ∈ (t.engines (oeUnit r / 256)).fenced)
          ∧ t = { s with overlay := t.overlay, health := t.health, pad := t.pad, gantries := t.gantries, ports := t.ports
                         opt := t.opt, resp := t.resp }))
  ∧ (∀ s cl r, Serves s cl false → oeClass r = 2 → oeOrigin r = 4 → oeFlags r < 4 →
    unitInRange s 2 (oeUnit r) = true → heldUnit s 2 (oeUnit r) = false →
    let tile := siteTile (oeUnit r)
    let col := siteCol (oeUnit r)
    let f : Fence := { cls := 2, origin := 4, flags := oeFlags r, unit := oeUnit r, utc := s.utc, quaySerial := 0 }
    (spareOf s tile col ≠ 0 → exec (.overlayAdd cl r) s = .next { s with resp := answered stNospare })
    ∧ (spareOf s tile col = 0 → s.overlay.entries.length < 1024 →
      ∃ t, exec (.overlayAdd cl r) s = .next t ∧ t.resp = answered stOk ∧ t.overlay.entries = s.overlay.entries ++ [f]
        ∧ spareOf t tile col = (if oeFlags r / 2 % 2 = 1 then 3 else 2)
        ∧ (∀ p l, holders s 2 (oeUnit r) = p :: l →
            t.overlay.pending = s.overlay.pending ++ [(p, f)] ∧ t = { s with overlay := t.overlay, resp := t.resp })
        ∧ (holders s 2 (oeUnit r) = [] → t.overlay.pending = s.overlay.pending
            ∧ t = { s with overlay := t.overlay, health := t.health, pad := t.pad, marks := t.marks, resp := t.resp })))
  ∧ (∀ s cl cls unit i, Serves s cl false → fusedUnit s cls unit = false →
    s.overlay.entries.findIdx? (fun f => f.cls == cls && f.unit == unit) = some i →
    (s.overlay.entries.getD i (fuseEntry 0 0)).origin ≠ 6 → heldUnit s cls unit = false → unitTested s cls unit = false →
    ∃ t, exec (.overlayRemove cl cls unit) s = .next t ∧ t.resp = answered stOk
      ∧ t.overlay.entries = s.overlay.entries.eraseIdx i
      ∧ (∀ e ∈ t.overlay.pending, e ∈ s.overlay.pending ∧ (e.2.cls ≠ cls ∨ e.2.unit ≠ unit))
      ∧ t = { s with overlay := t.overlay, health := t.health, pad := t.pad, marks := t.marks, opt := t.opt, resp := t.resp })
  ∧ (∀ s cl, Serves s cl true →
    exec (.discardResultsRecord cl) s = .next { s with bring := { s.bring with results := none }, resp := answered stOk })

/-- PORT_RETRAIN_FAST, PORT_RETRAIN_FULL, TRAINING_COMPLETE, WAVELENGTH_FAILURE, CALIBRATION_MEASURE, DOWN_RETRY, LEAVE_RECEIVED. A full
training takes a port from traffic and gives it the lane rule's outcome over its good wavelengths; a fast one keeps its lanes; each tells
a quay-fabric port its far end; a failing data wavelength is removed; a DOWN port is tried again every 10 s; a leaving peer takes its port
DOWN. The model's own readings and choices in it: log 4, 5. -/
def Obligations.PortsTrainAndFail : Prop :=
  (∀ s cl i, i < 640 → Serves s cl false → fusedPort s i = false → portBusy s i = false →
    (parkedPort s i = true → exec (.portRetrainFast cl i) s = .next { s with resp := answered stState }
      ∧ exec (.portRetrainFull cl i) s = .next { s with resp := answered stState })
    ∧ (parkedPort s i = false → ∃ t, exec (.portRetrainFast cl i) s = .next t ∧ t.resp = answered stOk
      ∧ t.port i = { s.port i with trainKind := 1, retrains := satAdd 16 (s.port i).retrains 1 }
      ∧ SameBut {} s.ports t.ports i ∧ t = { s with ports := t.ports, resp := t.resp })
    ∧ (parkedPort s i = false → ∃ t, exec (.portRetrainFull cl i) s = .next t ∧ t.resp = answered stOk ∧ (t.port i).outcome = 4 ∧ (t.port i).lanes = 0
      ∧ (t.port i).trainKind = 2 ∧ (t.port i).retrains = satAdd 16 (s.port i).retrains 1
      ∧ SameBut {} s.ports t.ports i ∧ t = { s with ports := t.ports, quays := t.quays, intakes := t.intakes, resp := t.resp }))
  ∧ (∀ s i good latency, i < 640 →
    let v := s.port i
    let g := (goodOf s i good).length
    let frame := fun (t : State) => SameBut {} s.ports t.ports i
      ∧ t = { s with ports := t.ports, quays := t.quays, log := t.log, hosts := t.hosts, sivar := t.sivar, fabric := t.fabric
                     tiles := t.tiles, intakes := t.intakes, freeCtr := t.freeCtr, bring := t.bring }
    (v.trainKind ≠ 0 → fusedPort s i = true ∨ unitFenced s 4 i = true → ∀ ok,
      ∃ t, exec (.trainingComplete i good latency ok) s = .next t ∧ (t.port i).outcome = (if fusedPort s i then 5 else 0)
        ∧ (t.port i).lanes = 0 ∧ (t.port i).trainKind = 0 ∧ SameBut {} s.ports t.ports i ∧ t = { s with ports := t.ports, bring := t.bring, tiles := t.tiles })
    ∧ (fusedPort s i = false → unitFenced s 4 i = false → v.trainKind = 1 →
      (∃ t, exec (.trainingComplete i good latency true) s = .next t ∧ t.port i = { v with trainKind := 0 }
        ∧ (512 ≤ i ∧ v.up = true → ∃ m q, (i, m, q) ∈ t.fabric.peers) ∧ (i < 512 ∨ v.up = false → t.fabric = s.fabric)
        ∧ (∀ e, e.1 ≠ i → (e ∈ t.fabric.peers ↔ e ∈ s.fabric.peers)) ∧ t.fabric = { s.fabric with peers := t.fabric.peers }
        ∧ SameBut {} s.ports t.ports i ∧ t = { s with ports := t.ports, fabric := t.fabric, freeCtr := t.freeCtr })
      ∧ (∃ t, exec (.trainingComplete i good latency false) s = .next t ∧ (t.port i).outcome = 4 ∧ (t.port i).trainKind = 2 ∧ frame t))
    ∧ (fusedPort s i = false → unitFenced s 4 i = false → 2 ≤ v.trainKind →
      (usersWithMarks s i = [] → portPin s i = 1 → outcomeFor g = 1 →
        ∃ t, exec (.trainingComplete i good latency true) s = .next t
          ∧ (t.port i).outcome = 0 ∧ (t.port i).pinnedDown = true ∧ frame t)
      ∧ ((portPin s i ≠ 1 ∨ usersWithMarks s i ≠ [] ∨ outcomeFor g ≠ 1) →
        ∃ t, exec (.trainingComplete i good latency true) s = .next t
          ∧ (t.port i).outcome = outcomeFor g ∧ (t.port i).lanes = lanesFor g ∧ (t.port i).latency16 = latency
          ∧ (t.port i).trainKind = 0 ∧ (t.port i).removed = [] ∧ frame t)
      ∧ (∃ t, exec (.trainingComplete i good latency false) s = .next t ∧ (t.port i).outcome = 0 ∧ (t.port i).lanes = 0
          ∧ (t.port i).trainKind = 0 ∧ (t.port i).downSince = s.now ∧ frame t)))
  ∧ (∀ s i w, i < 640 → (s.port i).up = true → (s.port i).map.testBit w = true → w ≤ 8 → (portPin s i ≠ 1 ∨ usersWithMarks s i ≠ []) →
    let good := (s.port i).used.filter (· != w)
    let lost := fun (t : State) =>
      (t.port i).outcome = outcomeFor good.length ∧ (t.port i).lanes = lanesFor good.length ∧ w ∈ (t.port i).removed
      ∧ (t.port i).trainKind = (if good = [] then 0 else 1) ∧ (t.port i).retrains = satAdd 16 (s.port i).retrains 1
      ∧ SameBut {} s.ports t.ports i
      ∧ t = { s with ports := t.ports, quays := t.quays, log := t.log, hosts := t.hosts, sivar := t.sivar, bring := t.bring
                     tiles := t.tiles, intakes := t.intakes, fabric := t.fabric, freeCtr := t.freeCtr }
    (∃ t, exec (.wavelengthFailure i w) s = .next t ∧ lost t)
    ∧ (∀ ratio calib drift, 100000 < ratio → ∃ t, exec (.calibrationMeasure i [(w, ratio)] calib drift) s = .next t ∧ lost t)
    ∧ (∀ ratio calib, ratio ≤ 100000 → (ratio ≤ 1000 ∨ tget 0 (s.port i).badCounts w + 1 < 100) → (s.port i).retrainPending = false →
        ∃ t, exec (.calibrationMeasure i [(w, ratio)] calib false) s = .next t
          ∧ (t.port i).worst9 = ratio
          ∧ tget 0 (t.port i).badCounts w = (if 1000 < ratio then tget 0 (s.port i).badCounts w + 1 else 0)
          ∧ t.port i = { s.port i with worst9 := ratio, badCounts := (t.port i).badCounts }
          ∧ SameBut {} s.ports t.ports i ∧ t = { s with ports := t.ports })
    ∧ (∀ ratio calib, ratio ≤ 1000 → (s.port i).calib ≠ 0xFF →
        ((s.port i).outcome = 1 ∨ portBusy s i = false →
          ∃ t, exec (.calibrationMeasure i [(w, ratio)] calib true) s = .next t ∧ (t.port i).outcome = 4
            ∧ (t.port i).trainKind = 2 ∧ SameBut {} s.ports t.ports i)
        ∧ ((s.port i).outcome ≠ 1 → portBusy s i = true →
          ∃ t, exec (.calibrationMeasure i [(w, ratio)] calib true) s = .next t ∧ (t.port i).retrainPending = true
            ∧ (t.port i).outcome = (s.port i).outcome ∧ SameBut {} s.ports t.ports i ∧ t = { s with ports := t.ports })))
  ∧ (∀ s i, i < 640 → (s.port i).outcome = 0 → fusedPort s i = false → unitOff s 4 i = false →
    (parkedPort s i = true → exec (.downRetry i) s = .next s)
    ∧ (parkedPort s i = false → ((s.port i).pinnedDown = false ∨ portPin s i ≠ 1) →
    ∃ t, exec (.downRetry i) s = .next t ∧ t.now = max s.now ((s.port i).downSince + 15000000000)
      ∧ (t.port i).outcome = 4 ∧ (t.port i).trainKind = 2 ∧ SameBut {} s.ports t.ports i
      ∧ t = { s with now := t.now, rtc := t.rtc, ports := t.ports, quays := t.quays, intakes := t.intakes }))
  ∧ (∀ s i, i < 640 → (s.port i).up = true →
    ∃ t, exec (.leaveReceived i) s = .next t ∧ (t.port i).outcome = 0 ∧ (t.port i).left = true
      ∧ Logged s t sevInfo evPortOutcome i 0
      ∧ ((upstreamPorts s).head? = some i → t.tide = { s.tide with upstreamSecondary := true })
      ∧ ((upstreamPorts s).head? ≠ some i → t.tide = s.tide)
      ∧ SameBut {} s.ports t.ports i
      ∧ t = { s with ports := t.ports, quays := t.quays, intakes := t.intakes, fabric := t.fabric, freeCtr := t.freeCtr, tide := t.tide
                     log := t.log, hosts := t.hosts, sivar := t.sivar })

/-- MODULE_RESET_REQUEST, MODULE_RESET_INSTANCE, MODULE_RESET_DRAIN_DONE, FALLBACK_RESET. The instance is the next tick boundary,
journalled first; at it every partition and test stops; once drained, or 100 ticks later by the fallback, the ports leave or hold, the
wafer holds nothing, no resume point and no uncommitted version remains, and bring-up begins at S3. DRAM and flash stand. An update in
pass two or publication reports its shards lost (R270). Its own event is the only one, unless a row that an array drain merges into is
corrected past the threshold, orphan packets stand in a gantry (R118), a wavelength fence meets a port that still uses the wavelength, or
a shard in progress is lost. The model's own readings and choices in it: log 50. -/
def Obligations.ModuleResetDrainsAndRestarts : Prop :=
  let begun := fun (s t : State) =>
    t.bring.active = true ∧ t.bring.moduleReset = true ∧ t.bring.stage = 3 ∧ t.bring.stopped = false ∧ t.bring.loader = false
      ∧ t.power.state = .bringingUp ∧ t.power.ready = false
      ∧ t.mc.mresetAt = none ∧ t.mc.mresetDraining = false
      ∧ t.cores = [] ∧ t.pad = [] ∧ t.marks = []
      ∧ (∀ p, (t.part p).run = .stopped ∧ (t.part p).resume = none) ∧ (∀ id, ∀ v ∈ (t.tensor id).versions, v.committed = true)
      ∧ t.dram = s.dram ∧ t.flash = s.flash ∧ t.sivar.config = s.sivar.config
  let settled := fun (s : State) => ∀ f ∈ s.overlay.fuses ++ s.overlay.entries ++ s.overlay.startFences, f.cls = 5 →
    ¬ (1 ≤ (s.port (f.unit / 16)).outcome ∧ (s.port (f.unit / 16)).outcome ≤ 3 ∧ f.unit % 16 ∈ (s.port (f.unit / 16)).used)
  let inWork := fun (s : State) (p : Nat) => (s.run p).phase = 3 ∨ (s.run p).phase = 4
  let lost := fun (s t : State) => ∀ p ∈ feeders s, inWork s p →
    { (s.run p).report with flags := (s.run p).report.flags ||| 2 } ∈ t.opt.reports
  (∀ s cl, Serves s cl false → resetting s = false →
    ∃ t, exec (.moduleResetRequest cl) s = .next t ∧ t.resp = answered stOk
      ∧ t.mc = { s.mc with mresetAt := some ((s.now / 1500 + 1) * 1500), journal := t.mc.journal }
      ∧ (∃ e, t.mc.journal = s.mc.journal ++ [e] ∧ e.kind = jReset ∧ e.effect = (s.now / 1500 + 1) * 1500 ∧ e.done = false)
      ∧ Logged s t sevFault evModuleReset 0 0
      ∧ t = { s with mc := t.mc, log := t.log, hosts := t.hosts, sivar := t.sivar, resp := t.resp })
  ∧ (∀ s cl, Serves s cl false → resetting s = true →
    exec (.moduleResetRequest cl) s = .next { s with resp := answered stBusy })
  ∧ (∀ s at', s.mc.mresetAt = some at' →
    ∃ t, exec (.moduleResetInstance) s = .next t ∧ t.now = max s.now at' ∧ t.mc = { s.mc with mresetDraining := true }
      ∧ (∀ p, p < 8 → (t.part p).run = .stopped) ∧ t.bring.tests = []
      ∧ (∀ p, p < 8 → (s.part p).run ≠ .stopped → (t.part p).resume = none
          ∧ ((s.ctlOf p).recovery.state = 1 ∨ (s.ctlOf p).recovery.state = 2 → (t.ctlOf p).recovery.state = 5))
      ∧ t.dram = s.dram ∧ t.flash = s.flash ∧ t.sivar.config = s.sivar.config
      ∧ (∀ id, ∀ v ∈ (s.tensor id).versions, v.number ∉ (s.tensor id).retiring → v ∈ (t.tensor id).versions)
      ∧ ((∀ e ∈ s.cores, e.2.arr.drains = []) → (∀ x, (s.gantry x).north.orphans = 0 ∧ (s.gantry x).south.orphans = 0) → t.log = s.log))
  ∧ (∀ s, s.mc.mresetDraining = true →
    ∃ t, exec (.moduleResetDrainDone) s = .next t ∧ begun s t ∧ t.now = s.now ∧ lost s t
      ∧ (settled s → (∀ p ∈ feeders s, ¬ inWork s p) → t.log = s.log)
      ∧ ∀ i, ¬ (496 ≤ i ∧ i < 512) → (s.port i).outcome ≠ 5 → (t.port i).outcome = 0)
  ∧ (∀ s at', s.mc.mresetAt = some at' → s.mc.mresetDraining = true →
    ∃ t, exec (.fallbackReset) s = .next t ∧ begun s t ∧ t.now = max s.now (at' + 150000) ∧ lost s t
      ∧ (settled s → (∀ p ∈ feeders s, ¬ inWork s p) → Logged s t sevFault evModuleReset 0 1)
      ∧ ∀ i, ¬ (496 ≤ i ∧ i < 512) → (s.port i).up = true → (t.port i).hold = true)

/-- RESET, RECOVER, RECOVERY_DECISION, RECOVERY_WAIT_END. A partition in FAULT is made STOPPED by RESET; its recovery, once the partition
reset is complete, relaunches it in place, waits for the lock, or ends in NO_RECOVERY at the limit, for an image fault, or where no
allowed path serves a failed unit; RECOVER asks for every path. The model's own readings and choices in it: log 46. -/
def Obligations.FaultedPartitionsRecover : Prop :=
  (∀ s cl p, p < 8 → Serves s cl false →
    ((s.part p).run = .fault → ∃ t, exec (.reset cl p) s = .next t ∧ t.resp = answered stOk
      ∧ t.part p = { s.part p with run := .stopped }
      ∧ (t.ctlOf p).recovery.state = (if (s.ctlOf p).recovery.state = 1 ∨ (s.ctlOf p).recovery.state = 2 then 5
          else (s.ctlOf p).recovery.state)
      ∧ SameBut {} s.parts t.parts p ∧ SameBut {} s.ctl t.ctl p
      ∧ t = { s with parts := t.parts, ctl := t.ctl, mc := t.mc, resp := t.resp })
    ∧ ((s.part p).run ≠ .fault → exec (.reset cl p) s = .next { s with resp := answered stState }
        ∧ exec (.recover cl p) s = .next { s with resp := answered stState })
    ∧ ((s.part p).run = .fault → resetDone s p = false → ∃ t, exec (.recover cl p) s = .next t ∧ t.resp = answered stOk
      ∧ t.ctlOf p = { s.ctlOf p with recovery := { (s.ctlOf p).recovery with state := 1, allPaths := true } }
      ∧ SameBut {} s.ctl t.ctl p ∧ t = { s with ctl := t.ctl, resp := t.resp })
    ∧ (∀ c img, (s.part p).run = .fault → resetDone s p = true → (s.ctlOf p).recovery.stopping = false →
      (s.ctlOf p).recovery.cause = some c → bandLost s p = false →
      remedyOf (s.ctlOf p) (s.ctlOf p).recovery.step c = .inPlace ∨ remedyOf (s.ctlOf p) (s.ctlOf p).recovery.step c = .imageFault →
      InPlaceReady s p (s.ctlOf p).recovery.fault true img →
      ∃ t, exec (.recover cl p) s = .next t ∧ t.resp = answered stOk ∧ RelaunchedInPlace s t p (s.ctlOf p).recovery.fault))
  ∧ (∀ s p, p < 8 → (s.part p).run = .fault → (s.ctlOf p).recovery.state = 1 → resetDone s p = true → s.mc.restarting = false →
    let ct := s.ctlOf p
    let r := ct.recovery
    let run := exec (.recoveryDecision p) s
    let ended := fun (t : State) (status path : Nat) => (t.ctlOf p).recovery.state = 4 ∧ (t.ctlOf p).recovery.status = status
      ∧ (t.ctlOf p).recovery.path = path ∧ Logged s t sevFault evNoRecovery p status ∧ SameBut {} s.ctl t.ctl p
      ∧ t = { s with ctl := t.ctl, mc := t.mc, log := t.log, hosts := t.hosts, sivar := t.sivar }
    (r.stopping = true → ∃ t, run = .next t ∧ t.part p = { s.part p with run := .stopped } ∧ (t.ctlOf p).recovery.state = 0
      ∧ SameBut {} s.parts t.parts p ∧ SameBut {} s.ctl t.ctl p ∧ t = { s with parts := t.parts, ctl := t.ctl })
    ∧ (∀ c, r.stopping = false → r.cause = some c →
      (∀ img, bandLost s p = false → remedyOf ct r.step c = .inPlace → InPlaceReady s p r.fault r.allPaths img →
        ∃ t, run = .next t ∧ RelaunchedInPlace s t p r.fault)
      ∧ (bandLost s p = false → remedyOf ct r.step c = .inPlace → r.allPaths = false →
          inPlaceLimit s p ≤ recentRelaunches ct r.step → ∃ t, run = .next t ∧ ended t stOk 0)
      ∧ (bandLost s p = false → remedyOf ct r.step c = .imageFault → r.allPaths = false → ∃ t, run = .next t ∧ ended t stOk 0xFF)
      ∧ (bandLost s p = false → remedyOf ct r.step c = .whenLocked → c = .tideFree → s.tide.lock ≠ 2 →
          ∃ t, run = .next t ∧ (t.ctlOf p).recovery = { r with state := 2 } ∧ SameBut {} s.ctl t.ctl p
            ∧ t = { s with ctl := t.ctl, mc := t.mc })
      ∧ (∀ img, bandLost s p = true ∨ remedyOf ct r.step c = .sites → r.allPaths = false → pathAllowed (s.cfg 0x3100 1) 3 = false →
          (s.slotOf (s.cfg (0x2100 + p) 5)).image = some img →
          bandLost s p = true ∨ (∃ e ∈ pathsOf s p img (s.cfg 0x3100 1) [] (failedUnits s p), e.2 = 3) →
          ∃ t path, run = .next t ∧ ended t stNospare path)))
  ∧ (∀ s p img, p < 8 → (s.part p).run = .fault → (s.ctlOf p).recovery.state = 2 → recoveryReady s p = true → resetDone s p = true →
    s.mc.restarting = false → InPlaceReady s p s.now (s.ctlOf p).recovery.allPaths img →
    ∃ t, exec (.recoveryWaitEnd p) s = .next t ∧ RelaunchedInPlace s t p s.now)

/-- THERMAL_EVALUATION: the governor's request by the hottest sensor, the inlet and the coolant flow. THERMAL_EMERGENCY,
EMERGENCY_RELEASE, EMERGENCY_TIMEOUT, THERMAL_TRIP: a tile's arrays freeze and go on where they stood, the tile is shed after 1,024 ticks
(dark where nothing refuses it and no pin fixes the stretch; the decision is journalled, R18, R19), or stops at once and faults the
partitions that cross it. MANUAL_SHED_LEAVE, MANUAL_SHED_COMPUTE, MANUAL_SHED_DARK. The model's own readings and choices in it: log 42. -/
def Obligations.HeatStretchesAndSheds : Prop :=
  let noted := fun (t : State) (k : Nat) => ∃ e ∈ t.mc.journal, e.kind = jThermal ∧ e.unit = 256 + k ∧ e.effect = t.now
  (∀ s temps inlet v, temps.length = 48 → (∀ k, k < 48 → (s.tile k).shed = false ∧ (s.tile k).atLimit < 7) →
    v ∈ temps → (∀ x ∈ temps, x ≤ v) →
    let g : Int := s.cfg 0x9000 5
    let r := s.thermal.request
    let want := if 1600 ≤ v then min 255 (r + 16) else if 16 * (g + 2) ≤ v then min 255 (r + 4)
      else if 16 * g ≤ v then min 255 (r + 1) else if v < 16 * (g - 3) ∧ 15 ≤ s.thermal.below then r - 1 else r
    let pin := modulePin s 0x9000 1
    ∃ t, exec (.thermalEvaluation temps inlet) s = .next t
      ∧ t.now = max s.now ((s.thermal.lastEval / 1024 + 1) * 1024 * 1500)
      ∧ t.thermal.request = (if flowLost s then 255 else max want (inletRequest inlet)) ∧ t.thermal.inlet16 = inlet
      ∧ t.thermal.below = (if v < 16 * (g - 3) ∧ v < 1600 ∧ s.thermal.below < 15 then s.thermal.below + 1 else 0)
      ∧ t.tide = { s.tide with ownRequest := if flowLost s then 255 else if pin ≠ 0 then pin else t.thermal.request }
      ∧ (∀ k, k < 48 → (t.tile k).temp16 = temps.getD k 0 ∧ (t.tile k).state = (s.tile k).state)
      ∧ t = { s with now := t.now, rtc := t.rtc, tiles := t.tiles, thermal := t.thermal, tide := t.tide, power := t.power })
  ∧ (∀ s k, k < 48 →
    ((s.tile k).state = .normal → ∃ t, exec (.thermalEmergency k) s = .next t
      ∧ t.tile k = { s.tile k with state := .emergency, emergencySince := s.now } ∧ t.power.thermAlert = true
      ∧ SameBut {} s.tiles t.tiles k ∧ t = { s with tiles := t.tiles, power := t.power })
    ∧ (let n := s.now - (s.tile k).emergencySince
      (s.tile k).state = .emergency → ∃ t, exec (.emergencyRelease k) s = .next t
      ∧ t.tile k = { s.tile k with state := .normal, emergencyEnd := s.now }
      ∧ (rising s.cores = true → ∀ c, coreTile c = k → (s.core c).arr.cur ≠ none → arrWaiting (s.core c) = false →
          (t.core c).arr.passStart = (s.core c).arr.passStart + n
          ∧ (t.core c).arr.lastVec = (s.core c).arr.lastVec + (if s.now - n ≤ (s.core c).arr.lastVec
              ∨ (s.core c).iss.arrQ.any (fun i => decide (i.issued < (s.core c).arr.lastVec + 2)) = true then n else 0)
          ∧ (t.core c).arr.cur = (s.core c).arr.cur ∧ (t.core c).arr.acc = (s.core c).arr.acc
          ∧ (t.core c).iss.arrQ.length = (s.core c).iss.arrQ.length
          ∧ (t.core c).iss = { (s.core c).iss with arrQ := (t.core c).iss.arrQ }
          ∧ ∀ r, (c, r) ∈ (s.gantry (coreX c)).north.returning → s.now - n < r →
              (c, r + n) ∈ (t.gantry (coreX c)).north.returning)
      ∧ (∀ c, coreTile c ≠ k → t.core c = s.core c) ∧ (∀ x, x / 24 % 8 ≠ k % 8 → t.gantry x = s.gantry x)
      ∧ SameBut {} s.tiles t.tiles k
      ∧ t = { s with tiles := t.tiles, cores := t.cores, health := t.health, gantries := t.gantries, power := t.power })
    ∧ ((s.tile k).state = .emergency → ∃ t, exec (.emergencyTimeout k) s = .next t
      ∧ (shedReason s k = 0 → (t.tile k).state = .darkShed ∧ (t.tile k).fastClock = false ∧ TileOff s t k ∧ noted t k
          ∧ Logged s t sevDegraded evTileShed k 3)
      ∧ (shedReason s k ≠ 0 → tileHolder s k = none → (t.tile k).state = .computeShed ∧ TileOff s t k ∧ noted t k
          ∧ Logged s t sevDegraded evTileShed k (2 + 256 * shedReason s k))
      ∧ (∀ p, tileHolder s k = some p → shedReason s k ≠ 0 → (s.part p).run = .running → PFault.tileShed k ∉ (s.ctlOf p).faults →
          (t.tile k) = { s.tile k with due := true } ∧ (t.ctlOf p).faults = (s.ctlOf p).faults ++ [.tileShed k]
          ∧ t.now = max s.now ((s.tile k).emergencySince + 1536000) ∧ t.cores = s.cores)
      ∧ (∀ j, j ≠ k → (t.tile j).state = (s.tile j).state) ∧ t.dram = s.dram ∧ t.flash = s.flash)
    ∧ ((s.tile k).state ≠ .tripped → ∃ t, exec (.thermalTrip k) s = .next t
      ∧ (t.tile k).state = .tripped ∧ (t.tile k).fastClock = false ∧ t.power.thermAlert = true
      ∧ FaultsAdded s t (fun p => crossesTile s p k) (.tileShed k)
      ∧ ((∀ p, p < 8 → crossesTile s p k = true → (s.part p).live = false) → Logged s t sevDegraded evTileShed k 4)
      ∧ (∀ j, j ≠ k → (t.tile j).state = (s.tile j).state)
      ∧ t = { s with tiles := t.tiles, freeCtr := t.freeCtr, ctl := t.ctl, power := t.power, log := t.log, hosts := t.hosts
                     sivar := t.sivar }))
  ∧ (∀ s cl k, Serves s cl false → k < 48 → tileHolder s k = none →
    ((s.tile k).shed = true → (s.tile k).state ≠ .tripped → (s.tile k).atLimit < 8 → (s.tile k).temp16 < 1648 →
      ∃ t, exec (.manualShedLeave cl k) s = .next t ∧ t.resp = answered stOk ∧ (t.tile k).state = .normal
        ∧ t.now = (s.now / 1500 + 1) * 1500 ∧ SameBut {} s.tiles t.tiles k
        ∧ (∀ c ∈ s.cores.map (·.1), coreTile c = k → ∀ a, padAt c 0 ≤ a → a < padAt c 0 + 2097152 → readByte t.pad a = none)
        ∧ t = { s with now := t.now, rtc := t.rtc, tiles := t.tiles, pad := t.pad, marks := t.marks, ctl := t.ctl, log := t.log
                       hosts := t.hosts, sivar := t.sivar, resp := t.resp })
    ∧ ((s.tile k).state = .darkShed → ∃ t, exec (.manualShedCompute cl k) s = .next t ∧ t.resp = answered stOk
      ∧ (t.tile k).state = .computeShed ∧ (t.tile k).fastClock = true ∧ t.now = (s.now / 1500 + 1) * 1500
      ∧ SameBut {} s.tiles t.tiles k
      ∧ t = { s with now := t.now, rtc := t.rtc, tiles := t.tiles, log := t.log, hosts := t.hosts, sivar := t.sivar, resp := t.resp })
    ∧ ((s.tile k).shed = true → (s.tile k).state ≠ .darkShed →
      exec (.manualShedCompute cl k) s = .next { s with resp := answered stOk })
    ∧ ((s.tile k).shed = false → ∃ t, exec (.manualShedCompute cl k) s = .next t ∧ t.resp = answered stOk
      ∧ (t.tile k).state = .computeShed ∧ t.now = (s.now / 1500 + 1) * 1500 ∧ TileOff s t k
      ∧ Logged s t sevDegraded evTileShed k 2 ∧ SameBut {} s.tiles t.tiles k
      ∧ t.parts = s.parts ∧ t.dram = s.dram ∧ t.flash = s.flash)
    ∧ (darkRefusal s k = 0 → (s.tile k).state ≠ .tripped → (s.tile k).state ≠ .darkShed →
      ∃ t, exec (.manualShedDark cl k) s = .next t ∧ t.resp = answered stOk
        ∧ (t.tile k).state = .darkShed ∧ (t.tile k).fastClock = false ∧ t.now = (s.now / 1500 + 1) * 1500 ∧ TileOff s t k
        ∧ Logged s t sevDegraded evTileShed k 3 ∧ (∀ j, j ≠ k → (t.tile j).state = (s.tile j).state)
        ∧ t.parts = s.parts ∧ t.dram = s.dram ∧ t.flash = s.flash))
  ∧ (∀ s cl k, Serves s cl false → k < 48 → tileHolder s k ≠ none →
    exec (.manualShedLeave cl k) s = .next { s with resp := answered stBusy }
      ∧ exec (.manualShedCompute cl k) s = .next { s with resp := answered stBusy }
      ∧ exec (.manualShedDark cl k) s = .next { s with resp := answered stBusy })

/-- WATCHDOG_EXPIRY: the sessions, drafts and mailboxes go, running tickets end unless journalled, and every RUNNING partition faults with
CONTROLLER_LOST; the wafer and the quays stand. JOURNAL_REPLAY: the controller serves again 8 s later, or its recovery loader does.
FIRMWARE_RESTART stores the staged image; EVENT_LOG_COPY copies the log to flash. The model's own readings and choices in it: log 5, 54.
-/
def Obligations.ControllerRestartsAndReplays : Prop :=
  let gone := fun (s t : State) => t.sivar.sessions = [] ∧ t.sivar.staging = [] ∧ t.sivar.draft = none ∧ t.sivar.offerUntil = none
    ∧ t.mail = [] ∧ t.mailMarks = [] ∧ (∀ k ∈ t.sivar.tickets, k.done = true ∨ k.journalled = true)
    ∧ t.sivar = { s.sivar with sessions := [], staging := [], draft := none, offerUntil := none, tickets := t.sivar.tickets }
  (∀ s, s.mc.up = true → s.mc.restarting = false →
    ∃ t, exec (.watchdogExpiry) s = .next t ∧ t.mc = { s.mc with restarting := true, expired := true } ∧ gone s t
      ∧ FaultsAdded s t (fun p => decide ((s.part p).run = .running)) .controllerLost
      ∧ t = { s with mc := t.mc, sivar := t.sivar, mail := t.mail, mailMarks := t.mailMarks, ctl := t.ctl })
  ∧ (∀ s, s.fw.stagingState = 2 → s.mc.restarting = false →
    ∃ t, exec (.firmwareRestart) s = .next t ∧ t.fw = { s.fw with stored := s.fw.staging } ∧ gone s t
      ∧ t.mc = { s.mc with restarting := true, expired := false, applying := true, journal := t.mc.journal }
      ∧ (∀ e ∈ t.mc.journal, e.kind = jApply → e.unit = 0 → e.done = true)
      ∧ (∀ p, (t.ctlOf p).faults = (s.ctlOf p).faults)
      ∧ t = { s with fw := t.fw, mc := t.mc, sivar := t.sivar, mail := t.mail, mailMarks := t.mailMarks, ctl := t.ctl })
  ∧ (∀ s, s.mc.restarting = true → romDetail s = 0 → s.bring.loader = false →
    ∃ t, exec (.journalReplay) s = .next t ∧ t.now = s.now + 12000000000 ∧ t.fw.running = s.fw.stored
      ∧ t.mc = { s.mc with restarting := false, expired := false, applying := false
                           journal := s.mc.journal.filter (fun e => !e.done && decide (t.now < e.effect))
                           dropped := (s.mc.journal.filter (fun e => !e.done && !decide (t.now < e.effect) && e.kind != jApply)).length }
      ∧ t.log.buffered = []
      ∧ (s.mc.expired = true → s.log.buffered = [] → ∃ e, t.log.entries.getLast? = some e ∧ e.severity = sevFault
          ∧ e.code = evWatchdog ∧ e.detail = t.mc.dropped)
      ∧ (s.mc.expired = false → s.log.buffered = [] → t.log = s.log)
      ∧ (s.mc.applying = true → t.fw.stagingState = 0 ∧ t.fw.staging = none
          ∧ ∀ k ∈ t.sivar.tickets, k.number = s.fw.applyTicket → k.done = true)
      ∧ t = { s with now := t.now, rtc := t.rtc, mc := t.mc, fw := t.fw, log := t.log, hosts := t.hosts, sivar := t.sivar })
  ∧ (∀ s, s.mc.restarting = true → romDetail s ≠ 0 →
    ∃ t e, exec (.journalReplay) s = .next t ∧ t.now = s.now + 12000000000 ∧ t.mc = { s.mc with up := true, restarting := false }
      ∧ t.bring = { s.bring with active := true, stage := 0, stopped := true, loader := true }
      ∧ t.log.entries.getLast? = some e ∧ e.severity = sevFatal ∧ e.code = evStageStop ∧ e.detail = romDetail s
      ∧ t = { s with now := t.now, rtc := t.rtc, mc := t.mc, bring := t.bring, log := t.log, hosts := t.hosts, sivar := t.sivar })
  ∧ (∀ s, s.mc.up = true → exec (.eventLogCopy) s = .next { s with log := { s.log with flash := s.log.entries } })

/-- HELLO, PROVE, CLOSE, PROVE_TIMEOUT, SESSION_IDLE_TIMEOUT, SESSION_LIFETIME_EXPIRY, CLOSE_SESSIONS. HELLO for a key slot in use takes a
free session slot; PROVE with a valid signature opens the session with its slot's role; a session that closes leaves no draft and no
report; an unknown, unverified or untimely message is dropped and counted. The model's own readings and choices in it: log 12, 58. -/
def Obligations.SessionsOpenAndClose : Prop :=
  let closed := fun (s t : State) (k : Nat) => tget none t.sivar.sessions k = none ∧ SameBut none s.sivar.sessions t.sivar.sessions k
    ∧ (∀ d, t.sivar.draft = some d → d.owner ≠ .session k)
    ∧ (∀ d, s.sivar.draft = some d → d.owner ≠ .session k → t.sivar.draft = some d)
    ∧ t.fw = { s.fw with reports := s.fw.reports.filter (fun e => e.1 != .session k) }
  let dropped := fun (s : State) => ({ s with sivar := { s.sivar with dropped := s.sivar.dropped + 1 } } : State)
  (∀ s k maxDatagram notify nonce kemKey, s.serving = true →
    let run := exec (.hello k maxDatagram notify nonce kemKey) s
    let key := s.cfgBytes 0xA000 (0x20 + k)
    (k ≤ 15 → 1280 ≤ maxDatagram → maxDatagram ≤ 9000 → key ≠ [] → ∀ i,
      (List.range 8).find? (fun j => (tget none s.sivar.sessions j).isNone) = some i →
      ∃ t x, run = .next t ∧ t.resp.status = stOk ∧ tget none t.sivar.sessions i = some x
        ∧ x.id = s.sivar.nextSession ∧ x.slot = k ∧ x.phase = 1 ∧ x.challengedAt = s.now ∧ x.maxDatagram = maxDatagram
        ∧ x.notify = notify ∧ t.sivar.nextSession = s.sivar.nextSession + 1
        ∧ SameBut none s.sivar.sessions t.sivar.sessions i
        ∧ t.sivar = { s.sivar with sessions := t.sivar.sessions, nextSession := t.sivar.nextSession }
        ∧ t = { s with sivar := t.sivar, resp := t.resp, freeCtr := s.freeCtr + 1 })
    ∧ (k ≤ 15 → 1280 ≤ maxDatagram → maxDatagram ≤ 9000 → key ≠ [] → (∀ i, i < 8 → tget none s.sivar.sessions i ≠ none) →
        run = .next { s with resp := answered stBusy })
    ∧ (k ≤ 15 → 1280 ≤ maxDatagram → maxDatagram ≤ 9000 → key = [] → run = .next { s with resp := answered stAuth })
    ∧ (15 < k ∨ maxDatagram < 1280 ∨ 9000 < maxDatagram → run = .next { s with resp := answered stRange }))
  ∧ (∀ s sid sig i x, s.serving = true → slotOfId s sid = some (i, x) → x.phase = 1 → s.now ≤ x.challengedAt + 15000000000 →
    let key := s.cfgBytes 0xA000 (0x20 + x.slot)
    (key ≠ [] → Config.mldsaVerify (key.drop 8) x.transcript sig = true →
      ∃ t, exec (.prove sid sig) s = .next t ∧ t.resp.status = stOk
        ∧ tget none t.sivar.sessions i = some { x with phase := 2, role := leAt key 0 1, acceptedAt := s.now, lastValid := s.now }
        ∧ SameBut none s.sivar.sessions t.sivar.sessions i ∧ t.sivar = { s.sivar with sessions := t.sivar.sessions }
        ∧ t = { s with sivar := t.sivar, resp := t.resp })
    ∧ (key = [] ∨ Config.mldsaVerify (key.drop 8) x.transcript sig = false →
      ∃ t, exec (.prove sid sig) s = .next t ∧ t.resp = answered stAuth ∧ closed s t i
        ∧ t = { s with sivar := t.sivar, fw := t.fw, resp := t.resp }))
  ∧ (∀ s sid sig, s.serving = true → slotOfId s sid = none → exec (.prove sid sig) s = .next (dropped s))
  ∧ (∀ s sid, s.serving = true →
    (∀ i x, openOf s sid = some (i, x) → ∃ t, exec (.close sid true) s = .next t ∧ closed s t i
      ∧ t = { s with sivar := t.sivar, fw := t.fw })
    ∧ (openOf s sid = none → ∀ ok, exec (.close sid ok) s = .next (dropped s))
    ∧ exec (.close sid false) s = .next (dropped s))
  ∧ (∀ s sid i x, slotOfId s sid = some (i, x) → x.phase = 1 →
    ∃ t, exec (.proveTimeout sid) s = .next t ∧ closed s t i ∧ t.now = max s.now (x.challengedAt + 15000000000)
      ∧ t = { s with sivar := t.sivar, fw := t.fw, now := t.now, rtc := t.rtc })
  ∧ (∀ s sid i x, openOf s sid = some (i, x) →
    (∃ t, exec (.sessionIdleTimeout sid) s = .next t ∧ closed s t i ∧ t.now = max s.now (x.lastValid + 90000000000)
      ∧ t = { s with sivar := t.sivar, fw := t.fw, now := t.now, rtc := t.rtc })
    ∧ (∃ t, exec (.sessionLifetimeExpiry sid) s = .next t ∧ closed s t i ∧ t.now = max s.now (x.acceptedAt + 129600000000000)
      ∧ t = { s with sivar := t.sivar, fw := t.fw, now := t.now, rtc := t.rtc }))
  ∧ (∀ s cl, Serves s cl true →
    ∃ t, exec (.closeSessions cl) s = .next t ∧ t.resp = answered stOk
      ∧ (∀ k, k < 8 → t.session k = if cl = .session k then s.session k else none)
      ∧ t = { s with sivar := t.sivar, fw := t.fw, resp := t.resp })

/-- REQUEST, SLOT_TAKEN, MAILBOX_ROW_WRITE. The operations of a request or a slot run in order up to the first that is not OK; the
response of an accepted number is kept, a repeated number gets it again with nothing executed, and a message that is not valid is dropped.
A slot is DONE with its results or REFUSED. A mailbox row is stored whole, and its record counts it. The model's own readings and choices
in it: log 12, 58, 59. -/
def Obligations.RequestsSlotsAndMailboxes : Prop :=
  (∀ (s : State) cl ops, ops ≠ [] → let m := s.message cl ops
    1 ≤ m.resp.executed ∧ m.resp.executed ≤ ops.length ∧ (m.resp.executed < ops.length → m.resp.status ≠ stOk))
  ∧ (∀ s sid seq ops i x, s.serving = true → openOf s sid = some (i, x) → ops ≠ [] → ops.length ≤ 64 →
    (newNumber x seq = true →
      let m := (s.putSession i { x with lastValid := s.now }).message (.session i) ops
      ∃ t, exec (.request sid seq true ops) s = .next t ∧ t.resp = m.resp
        ∧ (∀ e, openOf m sid = some e → tget none t.sivar.sessions i = some (keepResponse e.2 seq m.resp s.now)
            ∧ SameBut none m.sivar.sessions t.sivar.sessions i ∧ t.sivar.turn = 2 ∧ t = { m with sivar := t.sivar })
        ∧ (openOf m sid = none → t = m))
    ∧ (newNumber x seq = false →
      ∃ t, exec (.request sid seq true ops) s = .next t
        ∧ (∀ e, x.kept.find? (fun e => e.1 == seq) = some e → t.resp = e.2 ∧ t.sivar.dropped = s.sivar.dropped)
        ∧ (x.kept.find? (fun e => e.1 == seq) = none → t.resp = s.resp ∧ t.sivar.dropped = s.sivar.dropped + 1)
        ∧ tget none t.sivar.sessions i = some { x with lastValid := s.now }
        ∧ SameBut none s.sivar.sessions t.sivar.sessions i
        ∧ t.sivar = { s.sivar with sessions := t.sivar.sessions, dropped := t.sivar.dropped }
        ∧ t = { s with sivar := t.sivar, resp := t.resp })
    ∧ exec (.request sid seq false ops) s = .next { s with sivar := { s.sivar with dropped := s.sivar.dropped + 1 } })
  ∧ (∀ s port slot interrupt tag len zf ops, port < 2 → s.serving = true → (s.host port).up = true → slot ≤ 127 →
    let run := exec (.slotTaken port slot interrupt tag len zf ops) s
    let marked := fun (m t : State) (x : Slot) => tget {} (t.host port).slots slot = x ∧ (t.host port).lastSlot = slot
      ∧ (interrupt = true → 0 ∈ (t.host port).msix) ∧ SameBut {} m.hosts t.hosts port ∧ t.sivar = { m.sivar with turn := port }
    (len ≤ 32704 → ops.length ≤ 64 → zf = 0 → s.cfg 0x2000 0x24 ≠ 1 ∨ (s.host port).ide = true →
      let m := s.message (.pcie port) ops
      ∃ t, run = .next t ∧ t.resp = m.resp
        ∧ marked m t { interrupt := interrupt, tag := tag, state := 3, executed := m.resp.executed, status := m.resp.status
                       response := m.resp.data }
        ∧ t = { m with hosts := t.hosts, sivar := t.sivar })
    ∧ (len ≤ 32704 → ops.length ≤ 64 → zf = 0 → s.cfg 0x2000 0x24 = 1 → (s.host port).ide = false →
      ∃ t, run = .next t ∧ marked s t { interrupt := interrupt, tag := tag, state := 4, status := stAuth }
        ∧ t = { s with hosts := t.hosts, sivar := t.sivar, resp := t.resp })
    ∧ (32704 < len ∨ 64 < ops.length ∨ zf ≠ 0 →
      ∃ t st, run = .next t ∧ marked s t { interrupt := interrupt, tag := tag, state := 4, status := st }
        ∧ t = { s with hosts := t.hosts, sivar := t.sivar, resp := t.resp, freeCtr := t.freeCtr }))
  ∧ (∀ s c p row data, s.serving = true → p < 8 → coreExists s c = true → s.partOfCore c = some p → row ≤ 255 →
    data.bytes.length = 512 →
    let old := tget (0, false, 0) (s.ctlOf p).mailRecords row
    ∃ t, exec (.mailboxRowWrite c p row data) s = .next t ∧ WroteBytes s.mail t.mail (mailAt p row) data.bytes
      ∧ tget (0, false, 0) (t.ctlOf p).mailRecords row = (min 4294967295 (old.1 + 1), data.poison != [], s.now)
      ∧ (∀ w, w < 64 → tget none t.mailMarks (wordOf (mailAt p row) + w) = if w ∈ data.poison then some .uncorrectable else none)
      ∧ SameBut (0, false, 0) (s.ctlOf p).mailRecords (t.ctlOf p).mailRecords row ∧ SameBut {} s.ctl t.ctl p
      ∧ t = { s with mail := t.mail, mailMarks := t.mailMarks, ctl := t.ctl })

/-- READ, WRITE, DESCRIBE, READ_SEG, WRITE_SEG, TICKET, TICKET_DONE over the objects: a read delivers the object's value, a descriptor its
descriptor; a write of a saved object that passes every check is one new version of the configuration, and a pin that is written while a
partition runs keeps its old value for that partition's present step; a draft write waits in the draft; a segment is staged. The model's
own readings and choices in it: log 56, 59. -/
def Obligations.ObjectsAreReadAndWritten : Prop :=
  let room := fun (s : State) (cl : Client) => roomOf s.asked cl - 16
  (∀ s cl role idx sub info, s.serving = true → s.roleOf cl = some role → s.bring.loader = false →
    nameStatus idx sub = none → objInfo idx sub = some info →
    (info.access ≠ .wo → info.access ≠ .cmd →
      (let v := objectBytes s.asked cl idx sub
        ∃ t, exec (.read cl idx sub false) s = .next t ∧ t.resp.status = stOk ∧ t.resp.data = fitData (room s cl) v
          ∧ t.resp.flags = (if (fitData (room s cl) v).length < v.length then 2 else 0) ∧ t = { s with resp := t.resp })
      ∧ (∀ offset len, let v := objectBytes s.asked cl idx sub
          (offset ≤ v.length → ∃ t, exec (.readSeg cl idx sub false offset len) s = .next t ∧ t.resp.status = stOk
            ∧ t.resp.data = fitData (room s cl) ((v.drop offset).take len) ∧ t = { s with resp := t.resp })
          ∧ (v.length < offset → exec (.readSeg cl idx sub false offset len) s = .next { s with resp := answered stRange })))
    ∧ (∃ t, exec (.describe cl idx sub) s = .next t ∧ t.resp.status = stOk
        ∧ t.resp.data = fitData (room s cl) (describeBytes idx sub info) ∧ t = { s with resp := t.resp })
    ∧ (∀ v, info.saved = true → info.access = .rw ∨ info.access = .rws → roleAllows role 2 idx sub = true →
        accessAllows s cl 2 idx sub false info = true → typeStatus info v = none → within idx 0x4110 8 = false →
        sub < 256 → ¬ (idx = 0xA000 ∧ sub = 1) → ¬ (idx = 0x2000 ∧ sub = 0x24) → Writable s (okey idx sub) v →
        ∃ t, exec (.write cl idx sub false v) s = .next t ∧ t.resp = answered stOk ∧ Saved s t (okey idx sub) v
          ∧ (isPin (okey idx sub) = true → ∀ p, p < 8 → (s.part p).marks = true →
              (∀ e ∈ (s.ctlOf p).pins, e.1 ≠ okey idx sub) →
              (t.ctlOf p).pins = (s.ctlOf p).pins ++ [(okey idx sub, s.cfg idx sub)])
          ∧ (isPin (okey idx sub) = false → idx ≠ 0x6000 → ¬ (idx = 0x1000 ∧ within sub 0x10 2 = true) →
              t = { s with sivar := t.sivar, resp := t.resp }))
    ∧ (∀ v d, info.saved = true → info.access = .rw ∨ info.access = .rws → roleAllows role 2 idx sub = true →
        accessAllows s cl 2 idx sub true info = true → typeStatus info v = none → valueStatus s.asked (okey idx sub) v = none →
        s.sivar.draft = some d → d.owner = cl → (∀ e ∈ d.values, e.1 ≠ okey idx sub) → d.values.length < 512 →
        (d.values ++ [(okey idx sub, v)]).foldl (fun n e => n + e.2.length) 0 ≤ 4194304 →
        exec (.write cl idx sub true v) s = .next { s with
          sivar := { s.sivar with draft := some { d with values := d.values ++ [(okey idx sub, v)] } }, resp := answered stOk })
    ∧ (∀ v offset, roleAllows role 6 idx sub = true → accessAllows s cl 6 idx sub false info = true →
        ¬ (idx = 0xA000 ∧ sub = 1) → offset + v.length ≤ (if info.access = .wo then info.max else 67108864) →
        ∃ t, exec (.writeSeg cl idx sub false false offset v) s = .next t ∧ t.resp = answered stOk
          ∧ stagedOf t cl (okey idx sub) = writeBytes (if offset = 0 then [] else stagedOf s cl (okey idx sub)) offset v
          ∧ t.sivar.config = s.sivar.config ∧ t = { s with sivar := t.sivar, resp := t.resp }))
  ∧ (∀ s cl role idx sub st, s.serving = true → s.roleOf cl = some role → nameStatus idx sub = some st →
    exec (.read cl idx sub false) s = .next { s with resp := answered st }
      ∧ exec (.describe cl idx sub) s = .next { s with resp := answered st })
  ∧ (∀ s cl role n, s.serving = true → s.roleOf cl = some role → s.bring.loader = false →
    (∀ x, s.sivar.tickets.find? (fun k => k.number == n) = some x →
      ∃ t, exec (.ticket cl n) s = .next t ∧ t.resp.status = stOk ∧ t.resp.data = fitData (room s cl) (ticketBytes x)
        ∧ t = { s with resp := t.resp })
    ∧ (s.sivar.tickets.find? (fun k => k.number == n) = none → exec (.ticket cl n) s = .next { s with resp := answered stIndex }))
  ∧ (∀ s n st, ∃ t, exec (.ticketDone n st) s = .next t ∧ t.sivar.tickets.length = s.sivar.tickets.length
      ∧ (∀ (i : Nat) x, s.sivar.tickets[i]? = some x → t.sivar.tickets[i]? = some (if x.done = false ∧ x.number = n
          then { x with done := true, status := st, finish := s.utc } else x))
      ∧ t = { s with sivar := { s.sivar with tickets := t.sivar.tickets } })

/-- OFFER, ACCEPT, TAKE, OFFER_EXPIRY: the primary host offers its role for 10 s; the secondary accepts it, or takes it once the primary's
link has been down for 5 s; the old primary's READY slots are refused and its draft goes. OPEN_DRAFT, DISCARD_DRAFT, COMMIT,
CONFIG_DEFAULTS, KEY_SLOT_WRITE: one draft at a time; a commit whose owners, rules and space pass puts every value of the draft in force
as one version, one that fails changes nothing and reports the object; the defaults need every function STOPPED. The model's own readings
and choices in it: log 61, 62. -/
def Obligations.HostsAndDraftsChangeHands : Prop :=
  (let passed := fun (s t : State) => t.sivar.primary = 1 - s.sivar.primary ∧ t.sivar.offerUntil = none
    ∧ (∀ n x, tfind (s.host s.sivar.primary).slots n = some x → tfind (t.host s.sivar.primary).slots n
        = some (if x.state = 1 then { x with state := 4, status := stAccess } else x))
    ∧ (∀ d, t.sivar.draft = some d → s.sivar.draft = some d ∧ d.owner ≠ .pcie s.sivar.primary)
    ∧ SameBut {} s.hosts t.hosts s.sivar.primary
    ∧ t.sivar = { s.sivar with primary := t.sivar.primary, offerUntil := none, draft := t.sivar.draft }
    ∧ t = { s with sivar := t.sivar, hosts := t.hosts, resp := answered stOk }
  (∀ (s : State), s.serving = true → s.sivar.primary < 2 →
    let mine := Client.pcie s.sivar.primary
    let other := Client.pcie (1 - s.sivar.primary)
    ((s.host s.sivar.primary).up = true →
      exec (.offer mine) s = .next { s with
        sivar := { s.sivar with offerUntil := some (s.now + 15000000000) }, resp := answered stOk }
      ∧ exec (.accept mine) s = .next { s with resp := answered stAccess }
      ∧ exec (.take mine) s = .next { s with resp := answered stAccess })
    ∧ ((s.host (1 - s.sivar.primary)).up = true →
      exec (.offer other) s = .next { s with resp := answered stAccess }
      ∧ (∀ u, s.sivar.offerUntil = some u → s.now < u → ∃ t, exec (.accept other) s = .next t ∧ passed s t)
      ∧ ((∀ u, s.sivar.offerUntil = some u → u ≤ s.now) → exec (.accept other) s = .next { s with resp := answered stState })
      ∧ ((s.host s.sivar.primary).up = false → (s.host s.sivar.primary).downSince + 7500000000 ≤ s.now →
          ∃ t, exec (.take other) s = .next t ∧ passed s t)
      ∧ ((s.host s.sivar.primary).up = true ∨ s.now < (s.host s.sivar.primary).downSince + 7500000000 →
          exec (.take other) s = .next { s with resp := answered stState })))
  ∧ (∀ s u, s.sivar.offerUntil = some u →
    ∃ t, exec (.offerExpiry) s = .next t ∧ t.now = max s.now u ∧ t.sivar = { s.sivar with offerUntil := none }
      ∧ t = { s with sivar := t.sivar, now := t.now, rtc := t.rtc }))
  ∧ (∀ s cl, Serves s cl false →
    (s.sivar.draft = none → exec (.openDraft cl) s = .next { s with
      sivar := { s.sivar with draft := some { owner := cl, values := [] } }, resp := answered stOk })
    ∧ (s.sivar.draft ≠ none → exec (.openDraft cl) s = .next { s with resp := answered stBusy })
    ∧ (∀ d, s.sivar.draft = some d → d.owner = cl →
        exec (.discardDraft cl) s = .next { s with sivar := { s.sivar with draft := none }, resp := answered stOk })
    ∧ ((∀ d, s.sivar.draft = some d → d.owner ≠ cl) →
        exec (.discardDraft cl) s = .next { s with resp := answered stState }
        ∧ exec (.commit cl) s = .next { s with resp := answered stState })
    ∧ (∀ d, s.sivar.draft = some d → d.owner = cl → d.values = [] → ∃ t, exec (.commit cl) s = .next t ∧ t.resp = answered stOk
        ∧ t.sivar = { s.sivar with draft := none, report := (s.sivar.version, stOk, 0) } ∧ t = { s with sivar := t.sivar, resp := t.resp })
    ∧ (∀ d, s.sivar.draft = some d → d.owner = cl → d.values ≠ [] →
        let cfg := d.values.foldl (fun m e => tset m e.1 e.2) s.sivar.config
        let keys := d.values.map (fun e => e.1)
        (firstKey (fun k => ownerStatus s.asked k (savedBytes cfg k)) keys = none → firstKey (crossStatus s.asked cfg) keys = none →
          (prepareAll cfg keys s.asked).2.1 = stOk →
          ∃ t, exec (.commit cl) s = .next t ∧ t.resp = answered stOk ∧ t.sivar.config = cfg ∧ t.sivar.previous = s.sivar.config
            ∧ t.sivar.version = s.sivar.version + 1 ∧ t.sivar.prevVersion = s.sivar.version ∧ t.sivar.draft = none
            ∧ t.sivar.report = (s.sivar.version + 1, stOk, 0))
        ∧ (∀ st key, firstKey (fun k => ownerStatus s.asked k (savedBytes cfg k)) keys = some (st, key) → st ≠ stOk →
          exec (.commit cl) s = .next { s with sivar := { s.sivar with report := (0, st, key) }, resp := answered st }))
    ∧ (allStopped s = true → (prepareAll [] (configChanges s.sivar.config []) s.asked).2.1 = stOk →
        ∃ t, exec (.configDefaults cl) s = .next t ∧ t.resp = answered stOk ∧ t.sivar.config = []
          ∧ t.sivar.previous = s.sivar.config ∧ t.sivar.version = s.sivar.version + 1)
    ∧ (allStopped s = false → exec (.configDefaults cl) s = .next { s with resp := answered stState }))
  ∧ (∀ s cl k data, Serves s cl true → k ≤ 15 → data.length ≤ 2600 → Writable s (okey 0xA000 (0x20 + k)) data →
    ∃ t, exec (.keySlotWrite cl k data) s = .next t ∧ t.resp = answered stOk ∧ Saved s t (okey 0xA000 (0x20 + k)) data
      ∧ t = { s with sivar := t.sivar, resp := t.resp })

/-- REVERT makes the previous configuration current as a new version and keeps the one it leaves as the previous one; it checks the
objects that differ, as a commit does, and answers E_BUSY while a draft is open (R395). -/
def Obligations.RevertMakesThePreviousCurrent : Prop :=
  ∀ s cl, Serves s cl false → s.sivar.prevVersion ≠ 0 →
    let keys := configChanges s.sivar.config s.sivar.previous
    (s.sivar.draft ≠ none → exec (.revert cl) s = .next { s with resp := answered stBusy })
    ∧ (s.sivar.draft = none →
      (firstKey (fun k => ownerStatus s.asked k (savedBytes s.sivar.previous k)) keys = none →
        firstKey (crossStatus s.asked s.sivar.previous) keys = none → (prepareAll s.sivar.previous keys s.asked).2.1 = stOk →
        ∃ t, exec (.revert cl) s = .next t ∧ t.resp = answered stOk ∧ t.sivar.config = s.sivar.previous
          ∧ t.sivar.previous = s.sivar.config ∧ t.sivar.version = s.sivar.version + 1 ∧ t.sivar.prevVersion = s.sivar.version
          ∧ t.sivar.report = (s.sivar.version + 1, stOk, 0))
      ∧ (∀ st key, firstKey (fun k => ownerStatus s.asked k (savedBytes s.sivar.previous k)) keys = some (st, key) → st ≠ stOk →
        exec (.revert cl) s = .next { s with sivar := { s.sivar with report := (0, st, key) }, resp := answered st })
      ∧ (∀ st key, firstKey (fun k => ownerStatus s.asked k (savedBytes s.sivar.previous k)) keys = none →
        firstKey (crossStatus s.asked s.sivar.previous) keys = some (st, key) → st ≠ stOk →
        exec (.revert cl) s = .next { s with sivar := { s.sivar with report := (0, st, key) }, resp := answered st }))

/-- POWER_ENABLE, POWER_DISABLE, STANDBY_DRAIN_END, MOD_RESET_ASSERT, MOD_RESET_RELEASE, GO_TO_STANDBY, INPUT_LOSS, INPUT_OVERVOLTAGE,
INPUT_RETURN, ENTER_DEEP_PARK, DEEP_PARK_ENTRY_COMPLETE, LEAVE_DEEP_PARK. Power is removed after a drain, or at once by reset or loss of
input; flash content, the configuration, the overlay and the saved results stay, all else of the wafer, the quays and the clients goes. A
start begins bring-up at S0, a deep-park exit at S3. The model's own readings and choices in it: log 51. -/
def Obligations.PowerStatesChange : Prop :=
  let gone := fun (s t : State) (copyLog : Bool) (st : PowerState) =>
    t.power.state = st ∧ t.power.ready = false ∧ t.power.draining = false ∧ t.cores = [] ∧ t.pad = [] ∧ t.dram = [] ∧ t.parts = []
      ∧ t.hosts = [] ∧ t.mc.up = false ∧ t.bring.active = false ∧ t.sivar.sessions = [] ∧ t.sivar.tickets = [] ∧ t.sivar.volatileVals = []
      ∧ (∀ id, ∀ v ∈ (t.tensor id).versions, v.committed = true)
      ∧ (∀ id, recTier (s.tensor id).record = 0 → (t.tensor id).versions = [])
      ∧ t.log.entries = (if copyLog then s.log.entries else s.log.flash)
      ∧ t.flash = s.flash ∧ t.sivar.config = s.sivar.config ∧ t.overlay = s.overlay ∧ t.bring.results = s.bring.results
      ∧ (s.fw.stagingState ≠ 2 → t.fw.stored = s.fw.stored)
  let draining := fun (s t : State) => t.power.draining = true ∧ t.power.ready = false ∧ t.mc.mresetAt = none
    ∧ (∀ p, p < 8 → (t.part p).run = .stopped) ∧ t.bring.tests = []
    ∧ t.dram = s.dram ∧ t.flash = s.flash ∧ t.sivar.config = s.sivar.config
    ∧ (∀ id, ∀ v ∈ (s.tensor id).versions, v.number ∉ (s.tensor id).retiring → v ∈ (t.tensor id).versions)
  let begun := fun (s t : State) (form stage : Nat) => t.bring.active = true ∧ t.bring.form = form ∧ t.bring.stage = stage
    ∧ t.bring.stopped = false ∧ t.bring.moduleReset = false ∧ t.power.state = .bringingUp ∧ t.power.ready = false
    ∧ t.cores = [] ∧ t.pad = [] ∧ t.sivar.volatileVals = [] ∧ t.dram = s.dram ∧ t.flash = s.flash ∧ t.sivar.config = s.sivar.config
  (∀ s, s.power.pwrEn = false →
    (s.power.state = .standby → s.power.modResetN = true → ∃ t, exec (.powerEnable) s = .next t ∧ t.power.pwrEn = true
      ∧ begun s t (if fastAllowed s then 1 else 0) 0)
    ∧ (s.power.state ≠ .standby ∨ s.power.modResetN = false →
      exec (.powerEnable) s = .next { s with power := { s.power with pwrEn := true } }))
  ∧ (∀ s, s.power.modResetN = false →
    (s.power.state = .standby → s.power.pwrEn = true → ∃ t, exec (.modResetRelease) s = .next t ∧ t.power.modResetN = true
      ∧ begun s t (if fastAllowed s then 1 else 0) 0)
    ∧ (s.power.state ≠ .standby ∨ s.power.pwrEn = false →
      exec (.modResetRelease) s = .next { s with power := { s.power with modResetN := true } }))
  ∧ (∀ s, s.power.pwrEn = true →
    (s.power.state = .off ∨ s.power.state = .standby ∨ s.power.draining = true →
      exec (.powerDisable) s = .next { s with power := { s.power with pwrEn := false } })
    ∧ (s.power.state ≠ .off → s.power.state ≠ .standby → s.power.draining = false → s.bring.active = true →
      ∃ t, exec (.powerDisable) s = .next t ∧ t.power.pwrEn = false ∧ gone s t s.mc.up .standby)
    ∧ (s.power.state ≠ .off → s.power.state ≠ .standby → s.power.draining = false → s.bring.active = false →
      s.mc.mresetDraining = false →
      ∃ t, exec (.powerDisable) s = .next t ∧ t.power.pwrEn = false ∧ t.now = (s.now / 1500 + 1) * 1500 ∧ draining s t))
  ∧ (∀ s, s.power.draining = true → ∃ t, exec (.standbyDrainEnd) s = .next t ∧ gone s t true .standby)
  ∧ (∀ s, s.power.modResetN = true → s.power.state ≠ .off →
    ∃ t, exec (.modResetAssert) s = .next t ∧ t.power.modResetN = false ∧ gone s t false .standby)
  ∧ (∀ s cl, Serves s cl false → s.power.draining = false → s.mc.mresetDraining = false →
    ∃ t, exec (.goToStandby cl) s = .next t ∧ t.resp = answered stOk ∧ t.now = (s.now / 1500 + 1) * 1500 ∧ draining s t)
  ∧ (∀ s mv, s.power.state ≠ .off → mv < 700000 →
    ∃ t, exec (.inputLoss mv) s = .next t ∧ gone s t s.mc.up .off ∧ t.power.input = false ∧ t.power.lossMv = mv
      ∧ t.power.lossKind = 1 ∧ t.power.lossState = powerNumber s ∧ t.power.lossUtc = s.utc)
  ∧ (∀ s, s.power.state ≠ .off →
    ∃ t, exec (.inputOvervoltage) s = .next t ∧ gone s t false .off ∧ t.power.input = false ∧ t.power.lossKind = 2
      ∧ t.power.lossState = powerNumber s)
  ∧ (∀ s, s.power.state = .off → exec (.inputReturn) s = .next { s with power := { s.power with state := .standby, input := true } })
  ∧ (∀ s cl, Serves s cl false →
    ((∀ p, p < 8 → (s.part p).run = .stopped) → s.tide.run = .stopped → ledgerAlone s = true → s.bring.tests = [] → resetting s = false →
      s.power.state = .parked →
      ∃ t, exec (.enterDeepPark cl) s = .next t ∧ t.resp = answered stOk
        ∧ t.power = { s.power with state := .transition, transitionAt := s.now, ready := false }
        ∧ (∀ p, (t.part p).resume = none ∧ (t.part p).run = (s.part p).run)
        ∧ (∀ i, ¬ (496 ≤ i ∧ i < 512) → (s.port i).outcome ≠ 5 → (t.port i).outcome = 0)
        ∧ (∀ i, 496 ≤ i → i < 512 → t.port i = s.port i)
        ∧ t = { s with parts := t.parts, ports := t.ports, power := t.power, resp := t.resp })
    ∧ ((∃ p, p < 8 ∧ (s.part p).run ≠ .stopped) ∨ s.tide.run ≠ .stopped →
      exec (.enterDeepPark cl) s = .next { s with resp := answered stState })
    ∧ (s.power.state = .deepPark →
      ∃ t, exec (.leaveDeepPark cl) s = .next t ∧ t.resp = answered stOk ∧ begun s t 2 3)
    ∧ (s.power.state ≠ .deepPark → exec (.leaveDeepPark cl) s = .next { s with resp := answered stState }))
  ∧ (∀ s, s.power.state = .transition →
    ∃ t, exec (.deepParkEntryComplete) s = .next t ∧ t.power = { s.power with state := .deepPark } ∧ t.cores = [] ∧ t.pad = []
      ∧ t.gantries = [] ∧ t.dram = s.dram ∧ t.flash = s.flash ∧ t.tensors = s.tensors ∧ t.sivar = s.sivar)

/-- PUMP_OK_LOST, PUMP_OK_RESTORED, PUMP_LOSS_SHED, PUMP_LOSS_STANDBY, PPS_EDGE, THERM_ALERT_RELEASE, PCIE_RESET, PCIE_LINK_DOWN,
PCIE_LINK_UP, IDE_KEY_PROGRAMMING. Without coolant flow while fast clocks run the alert is driven, every tile is shed after 10 s and the
module goes to STANDBY after 60 s; a host port's events touch that port alone. The model's own readings and choices in it: log 5, 53. -/
def Obligations.PumpAlertAndHostLinks : Prop :=
  (∀ s, s.power.pumpOk = true → ∃ t, exec (.pumpOkLost) s = .next t ∧ t.power.pumpOk = false ∧ t.power.pumpLostAt = s.now
      ∧ (anyFast s = true → t.power.thermAlert = true) ∧ t = { s with power := t.power })
  ∧ (∀ s, s.power.pumpOk = false → ∃ t, exec (.pumpOkRestored) s = .next t ∧ t.power.pumpOk = true ∧ t.power.pumpOkSince = s.now
      ∧ (s.power.thermAlert = true → t.power.thermAlert = true) ∧ t = { s with power := t.power })
  ∧ (∀ s, flowLost s = true → ∃ t, exec (.pumpLossShed) s = .next t ∧ t.now = max s.now (s.power.pumpLostAt + 15000000000)
      ∧ (∀ k, k < 48 → (s.tile k).shed = true → (t.tile k).state = (s.tile k).state)
      ∧ (∀ k, k < 48 → (s.tile k).shed = false → (∀ p, p < 8 → (s.part p).live = true → s.bandHas p (k % 8) = false) →
          (t.tile k).state = .computeShed
            ∧ ∀ c ∈ s.cores.map (·.1), coreTile c = k → (t.heal c).heartbeat = false ∧ (t.core c).arr = {} ∧ (t.core c).iss = {})
      ∧ (∀ k p, k < 48 → (s.tile k).shed = false → p < 8 → (s.part p).live = true → s.bandHas p (k % 8) = true →
          (∀ q, q < p → (s.part q).live = true → s.bandHas q (k % 8) = false) →
          (t.tile k).due = true ∧ (t.tile k).state = (s.tile k).state ∧ PFault.tileShed k ∈ (t.ctlOf p).faults)
      ∧ t.parts = s.parts ∧ t.dram = s.dram ∧ t.flash = s.flash)
  ∧ (∀ s, s.power.pumpOk = false → s.mc.up = true → s.power.draining = false → s.mc.mresetDraining = false →
      ∃ t, exec (.pumpLossStandby) s = .next t ∧ s.power.pumpLostAt + 90000000000 ≤ t.now
        ∧ t.power.draining = true ∧ t.power.ready = false ∧ (∀ p, p < 8 → (t.part p).run = .stopped)
        ∧ t.dram = s.dram ∧ t.flash = s.flash)
  ∧ (∀ s, exec (.ppsEdge) s = .next { s with power := { s.power with pps := true }, tide := { s.tide with ppsAt := s.now } })
  ∧ (∀ s, s.power.thermAlert = true → alertCause s = false → ∃ t, exec (.thermAlertRelease) s = .next t
      ∧ t.now = max s.now (s.power.alertClearAt + 15000000000) ∧ t.power.thermAlert = false
      ∧ t = { s with now := t.now, rtc := t.rtc, power := t.power })
  ∧ (∀ s i, i < 2 →
    let h := s.host i
    (∃ t, exec (.pcieReset i) s = .next t ∧ (t.host i).up = false ∧ (t.host i).ide = false ∧ (t.host i).msix = []
      ∧ (t.host i).slots = h.slots ∧ SameBut {} s.hosts t.hosts i ∧ t = { s with hosts := t.hosts })
    ∧ (h.up = true → ∃ t, exec (.pcieLinkDown i) s = .next t ∧ (t.host i).up = false ∧ (t.host i).ide = false
        ∧ (t.host i).surpriseDown = h.surpriseDown + 1 ∧ (t.host i).downSince = s.now ∧ (t.host i).slots = h.slots
        ∧ SameBut {} s.hosts t.hosts i ∧ t = { s with hosts := t.hosts })
    ∧ (∀ width rate flit, s.mc.up = true → h.up = false → width ∈ [1, 2, 4, 8, 16] → rate ∈ [2, 5, 8, 16, 32, 64] →
        ∃ t, exec (.pcieLinkUp i width rate flit) s = .next t ∧ (t.host i).up = true ∧ (t.host i).width = width ∧ (t.host i).rate = rate
          ∧ (t.host i).aerUncorrectable = (if h.reportDue then h.aerUncorrectable + 1 else h.aerUncorrectable)
          ∧ (t.host i).slots = h.slots ∧ SameBut {} s.hosts t.hosts i ∧ t = { s with hosts := t.hosts })
    ∧ (h.up = true → ∃ t, exec (.ideKeyProgramming i) s = .next t ∧ t.host i = { h with ide := true }
        ∧ SameBut {} s.hosts t.hosts i ∧ t = { s with hosts := t.hosts }))

/-- FIRMWARE_UPLOAD, APPLY, DISCARD_STAGING, COUNTER_ADVANCE, OWNER_KEY_FUSE, ATTESTATION_REQUEST, SPDM_GET_MEASUREMENTS. An image that
passes the checks in order is staged, and one that fails leaves nothing; an apply opens a ticket and is journalled; the counter and the
owner's key are fused once their conditions hold; a report is the client's own. The model's own readings and choices in it: log 12, 64,
65. -/
def Obligations.FirmwareAndFuses : Prop :=
  (∀ s cl img, s.serving = true → clientStatus s cl true = none →
    (s.fw.stagingState ≠ 2 →
      exec (.firmwareUpload cl img) s = .next { s with
        fw := { s.fw with stagingDetail := firmwareDetail s img
                          stagingState := if firmwareDetail s img = 0 then 1 else 0
                          staging := if firmwareDetail s img = 0 then some img else none }
        resp := answered (detailStatus (firmwareDetail s img)) })
    ∧ (s.fw.stagingState = 2 → exec (.firmwareUpload cl img) s = .next { s with resp := answered stBusy }
        ∧ exec (.apply cl) s = .next { s with resp := answered stBusy })
    ∧ (s.fw.stagingState = 1 → allStopped s = true → ∃ t, exec (.apply cl) s = .next t
        ∧ t.resp = { status := stOk, flags := 1, ticket := s.sivar.nextTicket, data := [], executed := 1 }
        ∧ t.fw = { s.fw with stagingState := 2, applyTicket := s.sivar.nextTicket }
        ∧ (∃ k, t.sivar.tickets.getLast? = some k ∧ k.number = s.sivar.nextTicket ∧ k.done = false ∧ k.journalled = true)
        ∧ (∃ e, t.mc.journal = s.mc.journal ++ [e] ∧ e.kind = jApply ∧ e.done = false ∧ e.effect = s.now + 45000000000)
        ∧ t = { s with fw := t.fw, mc := t.mc, sivar := t.sivar, resp := t.resp })
    ∧ (s.fw.stagingState ≠ 2 → s.fw.stagingState ≠ 1 ∨ allStopped s = false →
        exec (.apply cl) s = .next { s with resp := answered stState }))
  ∧ (∀ s cl, Serves s cl true →
    (s.fw.stagingState ≠ 2 → exec (.discardStaging cl) s = .next { s with
      fw := { s.fw with stagingState := 0, staging := none }, resp := answered stOk })
    ∧ (s.fw.stagingState ≠ 2 → s.fw.counter < runningSecurity s → ∃ t, exec (.counterAdvance cl) s = .next t ∧ t.resp = answered stOk
        ∧ t.fw = { s.fw with counter := runningSecurity s } ∧ t = { s with fw := t.fw, mc := t.mc, resp := t.resp })
    ∧ (s.fw.stagingState ≠ 2 → runningSecurity s ≤ s.fw.counter →
        exec (.counterAdvance cl) s = .next { s with resp := answered stState })
    ∧ (∀ hash i, s.fw.ownerFused = false → s.fw.running = some i →
        (ownerSigned i hash = true → exec (.ownerKeyFuse cl hash) s = .next { s with
          fw := { s.fw with ownerFused := true, ownerHash := hash }, resp := answered stOk })
        ∧ (ownerSigned i hash = false → exec (.ownerKeyFuse cl hash) s = .next { s with resp := answered stSignature }))
    ∧ (∀ hash, s.fw.ownerFused = true → exec (.ownerKeyFuse cl hash) s = .next { s with resp := answered stState })
    ∧ (∀ nonce, nonce.length = 32 → ∃ t, exec (.attestationRequest cl nonce) s = .next t ∧ t.resp = answered stOk
        ∧ t.fw = { s.fw with reports := s.fw.reports.filter (fun e => e.1 != cl) ++ [(cl, attestation s nonce)] }
        ∧ t = { s with fw := t.fw, resp := t.resp }))
  ∧ (∀ s i, i < 2 → s.serving = true → (s.host i).up = true →
    ∃ t, exec (.spdmGetMeasurements i) s = .next t ∧ t.resp.status = stOk
      ∧ t.resp.data = measurements s ++ Config.identitySign (Config.sha3 (measurements s)) ∧ t = { s with resp := t.resp })

/-- Right after reset: bring-up stands at S0 and runs, no partition runs and the tide is stopped, no byte of any memory is defined, no
session, draft or ticket is open, nobody is served, and saved objects read as their defaults (R320, R321, R391, R432; the power-on content
of the memories is none: log 7). -/
def Obligations.ResetStands : Prop :=
  let s := State.reset
  s.canonical = true ∧ s.pending = [] ∧ s.bring.active = true ∧ s.bring.stage = 0 ∧ s.bring.stopped = false ∧ s.serving = false
    ∧ (∀ p, (s.part p).run = .stopped) ∧ s.tide.run = .stopped ∧ s.tide.lock = 0
    ∧ (∀ a, readByte s.pad a = none ∧ readByte s.dram a = none ∧ readByte s.flash a = none ∧ readByte s.mail a = none)
    ∧ (∀ k, tget none s.sivar.sessions k = none) ∧ s.sivar.draft = none ∧ s.sivar.tickets = [] ∧ s.sivar.config = []
    ∧ s.sivar.version = 1 ∧ s.log.entries = []
    ∧ s.cfg 0x9000 5 = 95 ∧ s.cfg 0x8000 5 = 3 ∧ s.cfg 0x4000 8 = 0xFFFFFFFF ∧ s.cfg 0x4000 0x0D = 0xFFFF ∧ s.cfg 0x3100 0x10 = 2441
    ∧ s.cfg 0x3100 0x11 = 16 ∧ (∀ p, p < 8 → s.cfg (0x2100 + p) 5 = 0xFF ∧ s.widthOf p = 0)

/-- Every step that answers a next state keeps the byte memories of scratchpads, DRAM, flash and mailboxes in canonical form: addresses
strictly rising, so that equal contents are equal data. -/
def Obligations.StepsKeepMemoriesCanonical : Prop :=
  ∀ s t, s.canonical = true → step s = .next t → t.canonical = true

/-- No row is refused, and a row stops only where it names a unit that the module does not have: a core, a column, a tile, a partition, a
quay, a port. The model's own readings and choices in it: log 3. -/
def Obligations.OnlyMissingUnitsStopARow : Prop :=
  (∀ i s r, exec i s ≠ .refused r) ∧ (∀ i s f, exec i s = .fault f → f = .noSuchUnit)
  ∧ (∀ s c, coreExists s c = false → exec (.next c) s = .fault .noSuchUnit ∧ exec (.dmaStart c 0 0 0 0) s = .fault .noSuchUnit
      ∧ exec (.chainDrain c) s = .fault .noSuchUnit ∧ exec (.heartbeatToggle c) s = .fault .noSuchUnit)
  ∧ (∀ s p, 8 ≤ p → exec (.launchMark p) s = .fault .noSuchUnit ∧ exec (.recoveryDecision p) s = .fault .noSuchUnit
      ∧ exec (.passOneBegin p) s = .fault .noSuchUnit)
  ∧ (∀ s k, 48 ≤ k → exec (.thermalTrip k) s = .fault .noSuchUnit ∧ exec (.fastClockStart k) s = .fault .noSuchUnit)
  ∧ (∀ s q, 4 ≤ q → exec (.nearClose q) s = .fault .noSuchUnit ∧ exec (.decisionPoint q 0) s = .fault .noSuchUnit)
  ∧ (∀ s x, columnExists s x = false → exec (.gantryCommit x true) s = .fault .noSuchUnit)
  ∧ (∀ s i, 640 ≤ i → exec (.downRetry i) s = .fault .noSuchUnit)

/-- While the controller does not serve, an operation of a client changes nothing; and a client whose role is below OPERATOR changes
nothing but the answer that it gets, whatever operation it asks for (R321, R376, R402). -/
def Obligations.OnlyOperatorsChangeAnything : Prop :=
  (∀ i s cl t, clientOf i = some cl → s.serving = false → exec i s = .next t → t = s)
  ∧ (∀ i s cl r t, clientOf i = some cl → s.roleOf cl = some r → r < 2 → exec i s = .next t → t = { s with resp := t.resp })
  ∧ (∀ i s cl t, clientOf i = some cl → s.roleOf cl = none → exec i s = .next t → t = s)

/-- pw(beta, c) squares for every bit of c, the most significant first, and multiplies by beta where the bit is 1, each product rounded to
FP64; pw(beta, 0) is 1.0. Both bias corrections of the rule divide by 1 less pw of their beta and the count, and the decay of a lazy row's
moments over the updates that it missed is pw of their beta and the number missed (R258). -/
def Obligations.PowersFollowTheBits : Prop :=
  (∀ beta, pw beta 0 = f64OfNat 1 ∧ pw beta 1 = dmul (dmul (f64OfNat 1) (f64OfNat 1)) (f32ToF64 beta)
    ∧ ∀ c, 1 ≤ c → pw beta (2 * c) = dmul (pw beta c) (pw beta c)
        ∧ pw beta (2 * c + 1) = dmul (dmul (pw beta c) (pw beta c)) (f32ToF64 beta))
  ∧ (∀ a c acc m v, let r := adamStep a c acc m v
    r.mh = fdiv r.m (f64ToF32 (dsub (f64OfNat 1) (pw a.beta1 c)))
      ∧ r.d = fdiv r.mh (fadd (fsqrt (fdiv r.v (f64ToF32 (dsub (f64OfNat 1) (pw a.beta2 c))))) a.eps))
  ∧ (∀ a o u row e acc, let missed := u - (rowOld o u row).last - 1
    let r := adamStep a ((rowOld o u row).count + 1) acc (fmul (tget fZero o.m e) (f64ToF32 (pw a.beta1 missed)))
      (fmul (tget fZero o.v e) (f64ToF32 (pw a.beta2 missed)))
    tget fZero (lazyElem a false o u row e acc).m e = r.m ∧ tget fZero (lazyElem a false o u row e acc).v e = r.v)

/-- A complete row write replaces all 64 words and their check bits, and clears poison and any stored error of the row: a row that the DMA
engines or a window write, 512 B of an engine's output at a row's start, and so a row that arrives at an armed window (R37). The model's
own readings and choices in it: log 72. -/
def Obligations.CompleteRowWritesReplaceTheRow : Prop :=
  let replaced := fun (t : State) (c row : Nat) (bs : List Byte) =>
    (∀ w, w < 64 → tget none t.marks (wordOf (padAt c row) + w) = none) ∧ (∀ i, i < 512 → readByte t.pad (padAt c row + i) = bs[i]?)
  (∀ s c row d, d.bytes.length = 512 → d.poison = [] → replaced (State.writeRow s c row d) c row d.bytes)
  ∧ (∀ s c row bs bad first last, bs.length = 512 → bad = List.replicate 512 false →
      replaced (State.writeOut s c (padAt c row) bs bad first last) c row bs)
  ∧ (∀ s c sm sc ch tag row data w, coreExists s c = true → answers s c = true →
    takingWindow (s.core c) 1 (sm, sc, ch, tag) row = some w → remoteWaits s c 1 = false → data.bytes.length = 512 → data.poison = [] →
    ∃ t, exec (.remoteRowArrival c sm sc ⟨ch, tag⟩ row data) s = .next t ∧ replaced t c row data.bytes)

/-- ASET changes its register in the cycle it issues and leaves the queued instructions as they are; every array instruction that issues
takes a copy of all eight registers, stands last in the queue with it, and enters the array with it (R58). -/
def Obligations.ArrayInstructionsRunFromTheirCopy : Prop :=
  (∀ s c reg v, CoreReady s c → ∃ t, exec (.aset c reg v) s = .next t
      ∧ (∀ r, tget 0 (t.core c).iss.arrRegs r = if r = reg then v else tget 0 (s.core c).iss.arrRegs r)
      ∧ (t.core c).iss = { (s.core c).iss with arrRegs := (t.core c).iss.arrRegs } ∧ SlotFrame s t c)
  ∧ (∀ s c sel src dst sr drain acc, ArrIssues s c .wsg sel src dst drain →
    ∃ t, exec (.wsg c sel src dst sr drain acc) s = .next t ∧ ArrIssued s t c .wsg sel src dst sr drain acc false)
  ∧ (∀ s c sel src dst sr drain acc, ArrIssues s c .wss sel src dst drain →
    ∃ t, exec (.wss c sel src dst sr drain acc) s = .next t ∧ ArrIssued s t c .wss sel src dst sr drain acc false)
  ∧ (∀ s c sel src dst sr drain acc, ArrIssues s c .wtg sel src dst drain →
    ∃ t, exec (.wtg c sel src dst sr drain acc) s = .next t ∧ ArrIssued s t c .wtg sel src dst sr drain acc false)
  ∧ (∀ s c sel src dst sr drain acc, ArrIssues s c .wts sel src dst drain →
    ∃ t, exec (.wts c sel src dst sr drain acc) s = .next t ∧ ArrIssued s t c .wts sel src dst sr drain acc false)
  ∧ (∀ s c sel src dst seedz, ArrIssues s c .osp sel src dst true →
    ∃ t, exec (.osp c sel src dst seedz) s = .next t ∧ ArrIssued s t c .osp sel src dst false true false seedz)
  ∧ (∀ (k : Core) i q, k.snap = none → k.arr.cur = none → k.iss.arrQ = i :: q →
    (nextArr k).arr.cur = some i ∧ (nextArr k).iss.arrQ = q ∧ (nextArr k).iss.arrRegs = k.iss.arrRegs)
end

