-- ==== Sys2Proof/Laws/Tables.lean ====
section
/-! SUPPORT. Sparse tables and byte memories: what is read after a write, and that every operation keeps the keys rising. -/

namespace Sys2Proof.Machine

variable {α : Type}

theorem tfind_tset (m : List (Nat × α)) (k j : Nat) (v : α) :
    tfind (tset m k v) j = if j = k then some v else tfind m j := by
  induction m with
  | nil => simp [tset, tfind, eq_comm]
  | cons e m ih =>
    obtain ⟨a, b⟩ := e
    simp only [tset]
    split_ifs <;> simp only [tfind, ih] <;> (repeat' split) <;> first | rfl | omega

theorem tfind_filter (m : List (Nat × α)) (p : Nat → Bool) (j : Nat) :
    tfind (m.filter (fun e => p e.1)) j = if p j = true then tfind m j else none := by
  induction m with
  | nil => simp [tfind]
  | cons e m ih =>
    obtain ⟨a, b⟩ := e
    simp only [List.filter_cons]
    split_ifs <;> simp only [tfind, ih] <;> split_ifs <;> simp_all

theorem tfind_tdel (m : List (Nat × α)) (k j : Nat) :
    tfind (tdel m k) j = if j = k then none else tfind m j := by
  have h := tfind_filter m (fun x => x != k) j
  simp only [tdel, h]
  split_ifs <;> simp_all

/-- What a table reads after a write. -/
theorem tget_tput [DecidableEq α] (d : α) (m : List (Nat × α)) (k j : Nat) (v : α) :
    tget d (tput d m k v) j = if j = k then v else tget d m j := by
  simp only [tget, tput]
  split_ifs <;> simp_all [tfind_tset, tfind_tdel]

theorem tget_tset (d : α) (m : List (Nat × α)) (k j : Nat) (v : α) :
    tget d (tset m k v) j = if j = k then v else tget d m j := by
  simp only [tget, tfind_tset]; split_ifs <;> simp

@[simp] theorem tget_tput_same [DecidableEq α] (d : α) (m : List (Nat × α)) (k : Nat) (v : α) :
    tget d (tput d m k v) k = v := by simp [tget_tput]

theorem tget_tput_ne [DecidableEq α] (d : α) (m : List (Nat × α)) (k j : Nat) (v : α) (h : j ≠ k) :
    tget d (tput d m k v) j = tget d m j := by simp [tget_tput, h]

@[simp] theorem tget_nil (d : α) (k : Nat) : tget d ([] : List (Nat × α)) k = d := rfl

/-! ### Rising keys -/

theorem risingFrom_mono (m : List (Nat × α)) (a b : Nat) (h : a ≤ b) (hm : risingFrom b m = true) :
    risingFrom a m = true := by
  cases m with
  | nil => rfl
  | cons e m =>
    simp only [risingFrom, Bool.and_eq_true, decide_eq_true_eq] at hm ⊢
    exact ⟨by omega, hm.2⟩

theorem risingFrom_tset (m : List (Nat × α)) (a k : Nat) (v : α) (hk : a ≤ k) (h : risingFrom a m = true) :
    risingFrom a (tset m k v) = true := by
  induction m generalizing a with
  | nil => simp [tset, risingFrom, hk]
  | cons e m ih =>
    simp only [risingFrom, Bool.and_eq_true, decide_eq_true_eq] at h
    simp only [tset]
    split_ifs with h1 h2
    · subst h1; simp [risingFrom, h]
    · simp [risingFrom, hk, h.2]; omega
    · simp only [risingFrom, Bool.and_eq_true, decide_eq_true_eq]
      exact ⟨h.1, ih (e.1 + 1) (by omega) h.2⟩

theorem risingFrom_filter (m : List (Nat × α)) (p : Nat × α → Bool) (a : Nat) (h : risingFrom a m = true) :
    risingFrom a (m.filter p) = true := by
  induction m generalizing a with
  | nil => rfl
  | cons e m ih =>
    simp only [risingFrom, Bool.and_eq_true, decide_eq_true_eq] at h
    rw [List.filter_cons]
    split_ifs
    · simp only [risingFrom, Bool.and_eq_true, decide_eq_true_eq]
      exact ⟨h.1, ih (e.1 + 1) h.2⟩
    · exact ih a (risingFrom_mono m a (e.1 + 1) (by omega) h.2)

theorem rising_tset (m : List (Nat × α)) (k : Nat) (v : α) (h : rising m = true) : rising (tset m k v) = true :=
  risingFrom_tset m 0 k v (Nat.zero_le k) h

theorem rising_filter (m : List (Nat × α)) (p : Nat × α → Bool) (h : rising m = true) : rising (m.filter p) = true :=
  risingFrom_filter m p 0 h

theorem rising_tdel (m : List (Nat × α)) (k : Nat) (h : rising m = true) : rising (tdel m k) = true :=
  rising_filter m _ h

theorem rising_tput [DecidableEq α] (d : α) (m : List (Nat × α)) (k : Nat) (v : α) (h : rising m = true) :
    rising (tput d m k v) = true := by
  unfold tput; split_ifs
  · exact rising_tdel m k h
  · exact rising_tset m k v h

/-! ### Byte memories -/

/-- What a byte reads after one byte is written. -/
theorem readByte_writeByte (m : List Host.Cell) (a x : Nat) (b : Byte) :
    readByte (writeByte m a b) x = if x = a then some b else readByte m x := tfind_tset m a x b

/-- Every memory operation keeps the canonical form: one byte. -/
theorem wf_writeByte (m : List Host.Cell) (a : Nat) (b : Byte) (h : Memory.wf m = true) :
    Memory.wf (writeByte m a b) = true := rising_tset m a b h

/-- Every memory operation keeps the canonical form: a byte string. -/
theorem wf_writeBytes (bs : List Byte) (m : List Host.Cell) (a : Nat) (h : Memory.wf m = true) :
    Memory.wf (writeBytes m a bs) = true := by
  induction bs generalizing m a with
  | nil => exact h
  | cons b bs ih => exact ih _ _ (wf_writeByte m a b h)

/-- Every memory operation keeps the canonical form: forgetting a range. -/
theorem wf_forget (m : List Host.Cell) (a n : Nat) (h : Memory.wf m = true) : Memory.wf (forget m a n) = true :=
  rising_filter m _ h

/-- The memories after reset are canonical. -/
theorem wf_reset : Memory.wf State.reset.pad = true ∧ Memory.wf State.reset.dram = true
    ∧ Memory.wf State.reset.flash = true ∧ Memory.wf State.reset.mail = true := by decide

/-- What a byte reads after a byte string is written. -/
theorem readByte_writeBytes (bs : List Byte) (m : List Host.Cell) (a x : Nat) :
    readByte (writeBytes m a bs) x = if a ≤ x ∧ x < a + bs.length then bs[x - a]? else readByte m x := by
  induction bs generalizing m a with
  | nil => simp [writeBytes]
  | cons b bs ih =>
    simp only [writeBytes, ih, readByte_writeByte, List.length_cons]
    by_cases h1 : x = a
    · subst h1; simp
    · by_cases h2 : a + 1 ≤ x ∧ x < a + 1 + bs.length
      · have h3 : a ≤ x ∧ x < a + (bs.length + 1) := by omega
        have h4 : x - a = (x - (a + 1)) + 1 := by omega
        rw [if_pos h2, if_pos h3, h4, List.getElem?_cons_succ]
      · have h3 : ¬ (a ≤ x ∧ x < a + (bs.length + 1)) := by omega
        rw [if_neg h2, if_neg h3, if_neg h1]

/-- What a byte reads after a range is forgotten. -/
theorem readByte_forget (m : List Host.Cell) (a n x : Nat) :
    readByte (forget m a n) x = if a ≤ x ∧ x < a + n then none else readByte m x := by
  have h := tfind_filter m (fun y => decide (y < a ∨ a + n ≤ y)) x
  simp only [readByte, forget, h]
  split_ifs <;> simp_all
  omega

end Sys2Proof.Machine
end

