-- ==== Sys2Proof/Laws/State.lean ====
section
/-! SUPPORT. What each update of the state changes and leaves unchanged: one lemma for each field and update. -/

namespace Sys2Proof.Machine

section
variable (s : State) (k : Nat) (v : Core)
@[simp] theorem State.setCore_pending : (s.setCore k v).pending = s.pending := rfl
@[simp] theorem State.setCore_now : (s.setCore k v).now = s.now := rfl
@[simp] theorem State.setCore_freeCtr : (s.setCore k v).freeCtr = s.freeCtr := rfl
@[simp] theorem State.setCore_resp : (s.setCore k v).resp = s.resp := rfl
@[simp] theorem State.setCore_link : (s.setCore k v).link = s.link := rfl
@[simp] theorem State.setCore_net : (s.setCore k v).net = s.net := rfl
@[simp] theorem State.setCore_transit : (s.setCore k v).transit = s.transit := rfl
@[simp] theorem State.setCore_transitUsed : (s.setCore k v).transitUsed = s.transitUsed := rfl
@[simp] theorem State.setCore_ident : (s.setCore k v).ident = s.ident := rfl
@[simp] theorem State.setCore_health : (s.setCore k v).health = s.health := rfl
@[simp] theorem State.setCore_pad : (s.setCore k v).pad = s.pad := rfl
@[simp] theorem State.setCore_marks : (s.setCore k v).marks = s.marks := rfl
@[simp] theorem State.setCore_gantries : (s.setCore k v).gantries = s.gantries := rfl
@[simp] theorem State.setCore_tiles : (s.setCore k v).tiles = s.tiles := rfl
@[simp] theorem State.setCore_boundaries : (s.setCore k v).boundaries = s.boundaries := rfl
@[simp] theorem State.setCore_routersDown : (s.setCore k v).routersDown = s.routersDown := rfl
@[simp] theorem State.setCore_parts : (s.setCore k v).parts = s.parts := rfl
@[simp] theorem State.setCore_ctl : (s.setCore k v).ctl = s.ctl := rfl
@[simp] theorem State.setCore_slots : (s.setCore k v).slots = s.slots := rfl
@[simp] theorem State.setCore_tide : (s.setCore k v).tide = s.tide := rfl
@[simp] theorem State.setCore_rtc : (s.setCore k v).rtc = s.rtc := rfl
@[simp] theorem State.setCore_quays : (s.setCore k v).quays = s.quays := rfl
@[simp] theorem State.setCore_dram : (s.setCore k v).dram = s.dram := rfl
@[simp] theorem State.setCore_flash : (s.setCore k v).flash = s.flash := rfl
@[simp] theorem State.setCore_quayMarks : (s.setCore k v).quayMarks = s.quayMarks := rfl
@[simp] theorem State.setCore_tensors : (s.setCore k v).tensors = s.tensors := rfl
@[simp] theorem State.setCore_intakes : (s.setCore k v).intakes = s.intakes := rfl
@[simp] theorem State.setCore_govs : (s.setCore k v).govs = s.govs := rfl
@[simp] theorem State.setCore_opt : (s.setCore k v).opt = s.opt := rfl
@[simp] theorem State.setCore_pairs : (s.setCore k v).pairs = s.pairs := rfl
@[simp] theorem State.setCore_ledger : (s.setCore k v).ledger = s.ledger := rfl
@[simp] theorem State.setCore_fabric : (s.setCore k v).fabric = s.fabric := rfl
@[simp] theorem State.setCore_bring : (s.setCore k v).bring = s.bring := rfl
@[simp] theorem State.setCore_overlay : (s.setCore k v).overlay = s.overlay := rfl
@[simp] theorem State.setCore_ports : (s.setCore k v).ports = s.ports := rfl
@[simp] theorem State.setCore_log : (s.setCore k v).log = s.log := rfl
@[simp] theorem State.setCore_mc : (s.setCore k v).mc = s.mc := rfl
@[simp] theorem State.setCore_thermal : (s.setCore k v).thermal = s.thermal := rfl
@[simp] theorem State.setCore_sivar : (s.setCore k v).sivar = s.sivar := rfl
@[simp] theorem State.setCore_hosts : (s.setCore k v).hosts = s.hosts := rfl
@[simp] theorem State.setCore_mail : (s.setCore k v).mail = s.mail := rfl
@[simp] theorem State.setCore_mailMarks : (s.setCore k v).mailMarks = s.mailMarks := rfl
@[simp] theorem State.setCore_power : (s.setCore k v).power = s.power := rfl
@[simp] theorem State.setCore_fw : (s.setCore k v).fw = s.fw := rfl
@[simp] theorem State.setCore_heal (j : Nat) : (s.setCore k v).heal j = s.heal j := rfl
@[simp] theorem State.setCore_part (j : Nat) : (s.setCore k v).part j = s.part j := rfl
@[simp] theorem State.setCore_ctlOf (j : Nat) : (s.setCore k v).ctlOf j = s.ctlOf j := rfl
@[simp] theorem State.setCore_tile (j : Nat) : (s.setCore k v).tile j = s.tile j := rfl
@[simp] theorem State.setCore_gantry (j : Nat) : (s.setCore k v).gantry j = s.gantry j := rfl
@[simp] theorem State.setCore_slotOf (j : Nat) : (s.setCore k v).slotOf j = s.slotOf j := rfl
@[simp] theorem State.setCore_quay (j : Nat) : (s.setCore k v).quay j = s.quay j := rfl
@[simp] theorem State.setCore_tensor (j : Nat) : (s.setCore k v).tensor j = s.tensor j := rfl
@[simp] theorem State.setCore_intake (j : Nat) : (s.setCore k v).intake j = s.intake j := rfl
@[simp] theorem State.setCore_gov (j : Nat) : (s.setCore k v).gov j = s.gov j := rfl
@[simp] theorem State.setCore_pair (j : Nat) : (s.setCore k v).pair j = s.pair j := rfl
@[simp] theorem State.setCore_port (j : Nat) : (s.setCore k v).port j = s.port j := rfl
@[simp] theorem State.setCore_host (j : Nat) : (s.setCore k v).host j = s.host j := rfl
@[simp] theorem State.setCore_cfg (i j : Nat) : (s.setCore k v).cfg i j = s.cfg i j := rfl
@[simp] theorem State.setCore_cores : (s.setCore k v).cores = tput {} s.cores k v := rfl
theorem State.setCore_core (j : Nat) : (s.setCore k v).core j = if j = k then v else s.core j := tget_tput _ _ _ _ _
@[simp] theorem State.setCore_core_same : (s.setCore k v).core k = v := tget_tput_same _ _ _ _
@[simp] theorem State.setCore_core_ne (j : Nat) (h : j ≠ k) : (s.setCore k v).core j = s.core j := tget_tput_ne _ _ _ _ _ h
end

section
variable (s : State) (k : Nat) (v : CoreHealth)
@[simp] theorem State.setHeal_pending : (s.setHeal k v).pending = s.pending := rfl
@[simp] theorem State.setHeal_now : (s.setHeal k v).now = s.now := rfl
@[simp] theorem State.setHeal_freeCtr : (s.setHeal k v).freeCtr = s.freeCtr := rfl
@[simp] theorem State.setHeal_resp : (s.setHeal k v).resp = s.resp := rfl
@[simp] theorem State.setHeal_link : (s.setHeal k v).link = s.link := rfl
@[simp] theorem State.setHeal_net : (s.setHeal k v).net = s.net := rfl
@[simp] theorem State.setHeal_transit : (s.setHeal k v).transit = s.transit := rfl
@[simp] theorem State.setHeal_transitUsed : (s.setHeal k v).transitUsed = s.transitUsed := rfl
@[simp] theorem State.setHeal_ident : (s.setHeal k v).ident = s.ident := rfl
@[simp] theorem State.setHeal_cores : (s.setHeal k v).cores = s.cores := rfl
@[simp] theorem State.setHeal_pad : (s.setHeal k v).pad = s.pad := rfl
@[simp] theorem State.setHeal_marks : (s.setHeal k v).marks = s.marks := rfl
@[simp] theorem State.setHeal_gantries : (s.setHeal k v).gantries = s.gantries := rfl
@[simp] theorem State.setHeal_tiles : (s.setHeal k v).tiles = s.tiles := rfl
@[simp] theorem State.setHeal_boundaries : (s.setHeal k v).boundaries = s.boundaries := rfl
@[simp] theorem State.setHeal_routersDown : (s.setHeal k v).routersDown = s.routersDown := rfl
@[simp] theorem State.setHeal_parts : (s.setHeal k v).parts = s.parts := rfl
@[simp] theorem State.setHeal_ctl : (s.setHeal k v).ctl = s.ctl := rfl
@[simp] theorem State.setHeal_slots : (s.setHeal k v).slots = s.slots := rfl
@[simp] theorem State.setHeal_tide : (s.setHeal k v).tide = s.tide := rfl
@[simp] theorem State.setHeal_rtc : (s.setHeal k v).rtc = s.rtc := rfl
@[simp] theorem State.setHeal_quays : (s.setHeal k v).quays = s.quays := rfl
@[simp] theorem State.setHeal_dram : (s.setHeal k v).dram = s.dram := rfl
@[simp] theorem State.setHeal_flash : (s.setHeal k v).flash = s.flash := rfl
@[simp] theorem State.setHeal_quayMarks : (s.setHeal k v).quayMarks = s.quayMarks := rfl
@[simp] theorem State.setHeal_tensors : (s.setHeal k v).tensors = s.tensors := rfl
@[simp] theorem State.setHeal_intakes : (s.setHeal k v).intakes = s.intakes := rfl
@[simp] theorem State.setHeal_govs : (s.setHeal k v).govs = s.govs := rfl
@[simp] theorem State.setHeal_opt : (s.setHeal k v).opt = s.opt := rfl
@[simp] theorem State.setHeal_pairs : (s.setHeal k v).pairs = s.pairs := rfl
@[simp] theorem State.setHeal_ledger : (s.setHeal k v).ledger = s.ledger := rfl
@[simp] theorem State.setHeal_fabric : (s.setHeal k v).fabric = s.fabric := rfl
@[simp] theorem State.setHeal_bring : (s.setHeal k v).bring = s.bring := rfl
@[simp] theorem State.setHeal_overlay : (s.setHeal k v).overlay = s.overlay := rfl
@[simp] theorem State.setHeal_ports : (s.setHeal k v).ports = s.ports := rfl
@[simp] theorem State.setHeal_log : (s.setHeal k v).log = s.log := rfl
@[simp] theorem State.setHeal_mc : (s.setHeal k v).mc = s.mc := rfl
@[simp] theorem State.setHeal_thermal : (s.setHeal k v).thermal = s.thermal := rfl
@[simp] theorem State.setHeal_sivar : (s.setHeal k v).sivar = s.sivar := rfl
@[simp] theorem State.setHeal_hosts : (s.setHeal k v).hosts = s.hosts := rfl
@[simp] theorem State.setHeal_mail : (s.setHeal k v).mail = s.mail := rfl
@[simp] theorem State.setHeal_mailMarks : (s.setHeal k v).mailMarks = s.mailMarks := rfl
@[simp] theorem State.setHeal_power : (s.setHeal k v).power = s.power := rfl
@[simp] theorem State.setHeal_fw : (s.setHeal k v).fw = s.fw := rfl
@[simp] theorem State.setHeal_core (j : Nat) : (s.setHeal k v).core j = s.core j := rfl
@[simp] theorem State.setHeal_part (j : Nat) : (s.setHeal k v).part j = s.part j := rfl
@[simp] theorem State.setHeal_ctlOf (j : Nat) : (s.setHeal k v).ctlOf j = s.ctlOf j := rfl
@[simp] theorem State.setHeal_tile (j : Nat) : (s.setHeal k v).tile j = s.tile j := rfl
@[simp] theorem State.setHeal_gantry (j : Nat) : (s.setHeal k v).gantry j = s.gantry j := rfl
@[simp] theorem State.setHeal_slotOf (j : Nat) : (s.setHeal k v).slotOf j = s.slotOf j := rfl
@[simp] theorem State.setHeal_quay (j : Nat) : (s.setHeal k v).quay j = s.quay j := rfl
@[simp] theorem State.setHeal_tensor (j : Nat) : (s.setHeal k v).tensor j = s.tensor j := rfl
@[simp] theorem State.setHeal_intake (j : Nat) : (s.setHeal k v).intake j = s.intake j := rfl
@[simp] theorem State.setHeal_gov (j : Nat) : (s.setHeal k v).gov j = s.gov j := rfl
@[simp] theorem State.setHeal_pair (j : Nat) : (s.setHeal k v).pair j = s.pair j := rfl
@[simp] theorem State.setHeal_port (j : Nat) : (s.setHeal k v).port j = s.port j := rfl
@[simp] theorem State.setHeal_host (j : Nat) : (s.setHeal k v).host j = s.host j := rfl
@[simp] theorem State.setHeal_cfg (i j : Nat) : (s.setHeal k v).cfg i j = s.cfg i j := rfl
@[simp] theorem State.setHeal_health : (s.setHeal k v).health = tput {} s.health k v := rfl
theorem State.setHeal_heal (j : Nat) : (s.setHeal k v).heal j = if j = k then v else s.heal j := tget_tput _ _ _ _ _
@[simp] theorem State.setHeal_heal_same : (s.setHeal k v).heal k = v := tget_tput_same _ _ _ _
@[simp] theorem State.setHeal_heal_ne (j : Nat) (h : j ≠ k) : (s.setHeal k v).heal j = s.heal j := tget_tput_ne _ _ _ _ _ h
end

section
variable (s : State) (k : Nat) (v : Partition)
@[simp] theorem State.setPart_pending : (s.setPart k v).pending = s.pending := rfl
@[simp] theorem State.setPart_now : (s.setPart k v).now = s.now := rfl
@[simp] theorem State.setPart_freeCtr : (s.setPart k v).freeCtr = s.freeCtr := rfl
@[simp] theorem State.setPart_resp : (s.setPart k v).resp = s.resp := rfl
@[simp] theorem State.setPart_link : (s.setPart k v).link = s.link := rfl
@[simp] theorem State.setPart_net : (s.setPart k v).net = s.net := rfl
@[simp] theorem State.setPart_transit : (s.setPart k v).transit = s.transit := rfl
@[simp] theorem State.setPart_transitUsed : (s.setPart k v).transitUsed = s.transitUsed := rfl
@[simp] theorem State.setPart_ident : (s.setPart k v).ident = s.ident := rfl
@[simp] theorem State.setPart_cores : (s.setPart k v).cores = s.cores := rfl
@[simp] theorem State.setPart_health : (s.setPart k v).health = s.health := rfl
@[simp] theorem State.setPart_pad : (s.setPart k v).pad = s.pad := rfl
@[simp] theorem State.setPart_marks : (s.setPart k v).marks = s.marks := rfl
@[simp] theorem State.setPart_gantries : (s.setPart k v).gantries = s.gantries := rfl
@[simp] theorem State.setPart_tiles : (s.setPart k v).tiles = s.tiles := rfl
@[simp] theorem State.setPart_boundaries : (s.setPart k v).boundaries = s.boundaries := rfl
@[simp] theorem State.setPart_routersDown : (s.setPart k v).routersDown = s.routersDown := rfl
@[simp] theorem State.setPart_ctl : (s.setPart k v).ctl = s.ctl := rfl
@[simp] theorem State.setPart_slots : (s.setPart k v).slots = s.slots := rfl
@[simp] theorem State.setPart_tide : (s.setPart k v).tide = s.tide := rfl
@[simp] theorem State.setPart_rtc : (s.setPart k v).rtc = s.rtc := rfl
@[simp] theorem State.setPart_quays : (s.setPart k v).quays = s.quays := rfl
@[simp] theorem State.setPart_dram : (s.setPart k v).dram = s.dram := rfl
@[simp] theorem State.setPart_flash : (s.setPart k v).flash = s.flash := rfl
@[simp] theorem State.setPart_quayMarks : (s.setPart k v).quayMarks = s.quayMarks := rfl
@[simp] theorem State.setPart_tensors : (s.setPart k v).tensors = s.tensors := rfl
@[simp] theorem State.setPart_intakes : (s.setPart k v).intakes = s.intakes := rfl
@[simp] theorem State.setPart_govs : (s.setPart k v).govs = s.govs := rfl
@[simp] theorem State.setPart_opt : (s.setPart k v).opt = s.opt := rfl
@[simp] theorem State.setPart_pairs : (s.setPart k v).pairs = s.pairs := rfl
@[simp] theorem State.setPart_ledger : (s.setPart k v).ledger = s.ledger := rfl
@[simp] theorem State.setPart_fabric : (s.setPart k v).fabric = s.fabric := rfl
@[simp] theorem State.setPart_bring : (s.setPart k v).bring = s.bring := rfl
@[simp] theorem State.setPart_overlay : (s.setPart k v).overlay = s.overlay := rfl
@[simp] theorem State.setPart_ports : (s.setPart k v).ports = s.ports := rfl
@[simp] theorem State.setPart_log : (s.setPart k v).log = s.log := rfl
@[simp] theorem State.setPart_mc : (s.setPart k v).mc = s.mc := rfl
@[simp] theorem State.setPart_thermal : (s.setPart k v).thermal = s.thermal := rfl
@[simp] theorem State.setPart_sivar : (s.setPart k v).sivar = s.sivar := rfl
@[simp] theorem State.setPart_hosts : (s.setPart k v).hosts = s.hosts := rfl
@[simp] theorem State.setPart_mail : (s.setPart k v).mail = s.mail := rfl
@[simp] theorem State.setPart_mailMarks : (s.setPart k v).mailMarks = s.mailMarks := rfl
@[simp] theorem State.setPart_power : (s.setPart k v).power = s.power := rfl
@[simp] theorem State.setPart_fw : (s.setPart k v).fw = s.fw := rfl
@[simp] theorem State.setPart_core (j : Nat) : (s.setPart k v).core j = s.core j := rfl
@[simp] theorem State.setPart_heal (j : Nat) : (s.setPart k v).heal j = s.heal j := rfl
@[simp] theorem State.setPart_ctlOf (j : Nat) : (s.setPart k v).ctlOf j = s.ctlOf j := rfl
@[simp] theorem State.setPart_tile (j : Nat) : (s.setPart k v).tile j = s.tile j := rfl
@[simp] theorem State.setPart_gantry (j : Nat) : (s.setPart k v).gantry j = s.gantry j := rfl
@[simp] theorem State.setPart_slotOf (j : Nat) : (s.setPart k v).slotOf j = s.slotOf j := rfl
@[simp] theorem State.setPart_quay (j : Nat) : (s.setPart k v).quay j = s.quay j := rfl
@[simp] theorem State.setPart_tensor (j : Nat) : (s.setPart k v).tensor j = s.tensor j := rfl
@[simp] theorem State.setPart_intake (j : Nat) : (s.setPart k v).intake j = s.intake j := rfl
@[simp] theorem State.setPart_gov (j : Nat) : (s.setPart k v).gov j = s.gov j := rfl
@[simp] theorem State.setPart_pair (j : Nat) : (s.setPart k v).pair j = s.pair j := rfl
@[simp] theorem State.setPart_port (j : Nat) : (s.setPart k v).port j = s.port j := rfl
@[simp] theorem State.setPart_host (j : Nat) : (s.setPart k v).host j = s.host j := rfl
@[simp] theorem State.setPart_cfg (i j : Nat) : (s.setPart k v).cfg i j = s.cfg i j := rfl
@[simp] theorem State.setPart_parts : (s.setPart k v).parts = tput {} s.parts k v := rfl
theorem State.setPart_part (j : Nat) : (s.setPart k v).part j = if j = k then v else s.part j := tget_tput _ _ _ _ _
@[simp] theorem State.setPart_part_same : (s.setPart k v).part k = v := tget_tput_same _ _ _ _
@[simp] theorem State.setPart_part_ne (j : Nat) (h : j ≠ k) : (s.setPart k v).part j = s.part j := tget_tput_ne _ _ _ _ _ h
end

section
variable (s : State) (k : Nat) (v : PartControl)
@[simp] theorem State.setCtl_pending : (s.setCtl k v).pending = s.pending := rfl
@[simp] theorem State.setCtl_now : (s.setCtl k v).now = s.now := rfl
@[simp] theorem State.setCtl_freeCtr : (s.setCtl k v).freeCtr = s.freeCtr := rfl
@[simp] theorem State.setCtl_resp : (s.setCtl k v).resp = s.resp := rfl
@[simp] theorem State.setCtl_link : (s.setCtl k v).link = s.link := rfl
@[simp] theorem State.setCtl_net : (s.setCtl k v).net = s.net := rfl
@[simp] theorem State.setCtl_transit : (s.setCtl k v).transit = s.transit := rfl
@[simp] theorem State.setCtl_transitUsed : (s.setCtl k v).transitUsed = s.transitUsed := rfl
@[simp] theorem State.setCtl_ident : (s.setCtl k v).ident = s.ident := rfl
@[simp] theorem State.setCtl_cores : (s.setCtl k v).cores = s.cores := rfl
@[simp] theorem State.setCtl_health : (s.setCtl k v).health = s.health := rfl
@[simp] theorem State.setCtl_pad : (s.setCtl k v).pad = s.pad := rfl
@[simp] theorem State.setCtl_marks : (s.setCtl k v).marks = s.marks := rfl
@[simp] theorem State.setCtl_gantries : (s.setCtl k v).gantries = s.gantries := rfl
@[simp] theorem State.setCtl_tiles : (s.setCtl k v).tiles = s.tiles := rfl
@[simp] theorem State.setCtl_boundaries : (s.setCtl k v).boundaries = s.boundaries := rfl
@[simp] theorem State.setCtl_routersDown : (s.setCtl k v).routersDown = s.routersDown := rfl
@[simp] theorem State.setCtl_parts : (s.setCtl k v).parts = s.parts := rfl
@[simp] theorem State.setCtl_slots : (s.setCtl k v).slots = s.slots := rfl
@[simp] theorem State.setCtl_tide : (s.setCtl k v).tide = s.tide := rfl
@[simp] theorem State.setCtl_rtc : (s.setCtl k v).rtc = s.rtc := rfl
@[simp] theorem State.setCtl_quays : (s.setCtl k v).quays = s.quays := rfl
@[simp] theorem State.setCtl_dram : (s.setCtl k v).dram = s.dram := rfl
@[simp] theorem State.setCtl_flash : (s.setCtl k v).flash = s.flash := rfl
@[simp] theorem State.setCtl_quayMarks : (s.setCtl k v).quayMarks = s.quayMarks := rfl
@[simp] theorem State.setCtl_tensors : (s.setCtl k v).tensors = s.tensors := rfl
@[simp] theorem State.setCtl_intakes : (s.setCtl k v).intakes = s.intakes := rfl
@[simp] theorem State.setCtl_govs : (s.setCtl k v).govs = s.govs := rfl
@[simp] theorem State.setCtl_opt : (s.setCtl k v).opt = s.opt := rfl
@[simp] theorem State.setCtl_pairs : (s.setCtl k v).pairs = s.pairs := rfl
@[simp] theorem State.setCtl_ledger : (s.setCtl k v).ledger = s.ledger := rfl
@[simp] theorem State.setCtl_fabric : (s.setCtl k v).fabric = s.fabric := rfl
@[simp] theorem State.setCtl_bring : (s.setCtl k v).bring = s.bring := rfl
@[simp] theorem State.setCtl_overlay : (s.setCtl k v).overlay = s.overlay := rfl
@[simp] theorem State.setCtl_ports : (s.setCtl k v).ports = s.ports := rfl
@[simp] theorem State.setCtl_log : (s.setCtl k v).log = s.log := rfl
@[simp] theorem State.setCtl_mc : (s.setCtl k v).mc = s.mc := rfl
@[simp] theorem State.setCtl_thermal : (s.setCtl k v).thermal = s.thermal := rfl
@[simp] theorem State.setCtl_sivar : (s.setCtl k v).sivar = s.sivar := rfl
@[simp] theorem State.setCtl_hosts : (s.setCtl k v).hosts = s.hosts := rfl
@[simp] theorem State.setCtl_mail : (s.setCtl k v).mail = s.mail := rfl
@[simp] theorem State.setCtl_mailMarks : (s.setCtl k v).mailMarks = s.mailMarks := rfl
@[simp] theorem State.setCtl_power : (s.setCtl k v).power = s.power := rfl
@[simp] theorem State.setCtl_fw : (s.setCtl k v).fw = s.fw := rfl
@[simp] theorem State.setCtl_core (j : Nat) : (s.setCtl k v).core j = s.core j := rfl
@[simp] theorem State.setCtl_heal (j : Nat) : (s.setCtl k v).heal j = s.heal j := rfl
@[simp] theorem State.setCtl_part (j : Nat) : (s.setCtl k v).part j = s.part j := rfl
@[simp] theorem State.setCtl_tile (j : Nat) : (s.setCtl k v).tile j = s.tile j := rfl
@[simp] theorem State.setCtl_gantry (j : Nat) : (s.setCtl k v).gantry j = s.gantry j := rfl
@[simp] theorem State.setCtl_slotOf (j : Nat) : (s.setCtl k v).slotOf j = s.slotOf j := rfl
@[simp] theorem State.setCtl_quay (j : Nat) : (s.setCtl k v).quay j = s.quay j := rfl
@[simp] theorem State.setCtl_tensor (j : Nat) : (s.setCtl k v).tensor j = s.tensor j := rfl
@[simp] theorem State.setCtl_intake (j : Nat) : (s.setCtl k v).intake j = s.intake j := rfl
@[simp] theorem State.setCtl_gov (j : Nat) : (s.setCtl k v).gov j = s.gov j := rfl
@[simp] theorem State.setCtl_pair (j : Nat) : (s.setCtl k v).pair j = s.pair j := rfl
@[simp] theorem State.setCtl_port (j : Nat) : (s.setCtl k v).port j = s.port j := rfl
@[simp] theorem State.setCtl_host (j : Nat) : (s.setCtl k v).host j = s.host j := rfl
@[simp] theorem State.setCtl_cfg (i j : Nat) : (s.setCtl k v).cfg i j = s.cfg i j := rfl
@[simp] theorem State.setCtl_ctl : (s.setCtl k v).ctl = tput {} s.ctl k v := rfl
theorem State.setCtl_ctlOf (j : Nat) : (s.setCtl k v).ctlOf j = if j = k then v else s.ctlOf j := tget_tput _ _ _ _ _
@[simp] theorem State.setCtl_ctlOf_same : (s.setCtl k v).ctlOf k = v := tget_tput_same _ _ _ _
@[simp] theorem State.setCtl_ctlOf_ne (j : Nat) (h : j ≠ k) : (s.setCtl k v).ctlOf j = s.ctlOf j := tget_tput_ne _ _ _ _ _ h
end

section
variable (s : State) (k : Nat) (v : Tile)
@[simp] theorem State.setTile_pending : (s.setTile k v).pending = s.pending := rfl
@[simp] theorem State.setTile_now : (s.setTile k v).now = s.now := rfl
@[simp] theorem State.setTile_freeCtr : (s.setTile k v).freeCtr = s.freeCtr := rfl
@[simp] theorem State.setTile_resp : (s.setTile k v).resp = s.resp := rfl
@[simp] theorem State.setTile_link : (s.setTile k v).link = s.link := rfl
@[simp] theorem State.setTile_net : (s.setTile k v).net = s.net := rfl
@[simp] theorem State.setTile_transit : (s.setTile k v).transit = s.transit := rfl
@[simp] theorem State.setTile_transitUsed : (s.setTile k v).transitUsed = s.transitUsed := rfl
@[simp] theorem State.setTile_ident : (s.setTile k v).ident = s.ident := rfl
@[simp] theorem State.setTile_cores : (s.setTile k v).cores = s.cores := rfl
@[simp] theorem State.setTile_health : (s.setTile k v).health = s.health := rfl
@[simp] theorem State.setTile_pad : (s.setTile k v).pad = s.pad := rfl
@[simp] theorem State.setTile_marks : (s.setTile k v).marks = s.marks := rfl
@[simp] theorem State.setTile_gantries : (s.setTile k v).gantries = s.gantries := rfl
@[simp] theorem State.setTile_boundaries : (s.setTile k v).boundaries = s.boundaries := rfl
@[simp] theorem State.setTile_routersDown : (s.setTile k v).routersDown = s.routersDown := rfl
@[simp] theorem State.setTile_parts : (s.setTile k v).parts = s.parts := rfl
@[simp] theorem State.setTile_ctl : (s.setTile k v).ctl = s.ctl := rfl
@[simp] theorem State.setTile_slots : (s.setTile k v).slots = s.slots := rfl
@[simp] theorem State.setTile_tide : (s.setTile k v).tide = s.tide := rfl
@[simp] theorem State.setTile_rtc : (s.setTile k v).rtc = s.rtc := rfl
@[simp] theorem State.setTile_quays : (s.setTile k v).quays = s.quays := rfl
@[simp] theorem State.setTile_dram : (s.setTile k v).dram = s.dram := rfl
@[simp] theorem State.setTile_flash : (s.setTile k v).flash = s.flash := rfl
@[simp] theorem State.setTile_quayMarks : (s.setTile k v).quayMarks = s.quayMarks := rfl
@[simp] theorem State.setTile_tensors : (s.setTile k v).tensors = s.tensors := rfl
@[simp] theorem State.setTile_intakes : (s.setTile k v).intakes = s.intakes := rfl
@[simp] theorem State.setTile_govs : (s.setTile k v).govs = s.govs := rfl
@[simp] theorem State.setTile_opt : (s.setTile k v).opt = s.opt := rfl
@[simp] theorem State.setTile_pairs : (s.setTile k v).pairs = s.pairs := rfl
@[simp] theorem State.setTile_ledger : (s.setTile k v).ledger = s.ledger := rfl
@[simp] theorem State.setTile_fabric : (s.setTile k v).fabric = s.fabric := rfl
@[simp] theorem State.setTile_bring : (s.setTile k v).bring = s.bring := rfl
@[simp] theorem State.setTile_overlay : (s.setTile k v).overlay = s.overlay := rfl
@[simp] theorem State.setTile_ports : (s.setTile k v).ports = s.ports := rfl
@[simp] theorem State.setTile_log : (s.setTile k v).log = s.log := rfl
@[simp] theorem State.setTile_mc : (s.setTile k v).mc = s.mc := rfl
@[simp] theorem State.setTile_thermal : (s.setTile k v).thermal = s.thermal := rfl
@[simp] theorem State.setTile_sivar : (s.setTile k v).sivar = s.sivar := rfl
@[simp] theorem State.setTile_hosts : (s.setTile k v).hosts = s.hosts := rfl
@[simp] theorem State.setTile_mail : (s.setTile k v).mail = s.mail := rfl
@[simp] theorem State.setTile_mailMarks : (s.setTile k v).mailMarks = s.mailMarks := rfl
@[simp] theorem State.setTile_power : (s.setTile k v).power = s.power := rfl
@[simp] theorem State.setTile_fw : (s.setTile k v).fw = s.fw := rfl
@[simp] theorem State.setTile_core (j : Nat) : (s.setTile k v).core j = s.core j := rfl
@[simp] theorem State.setTile_heal (j : Nat) : (s.setTile k v).heal j = s.heal j := rfl
@[simp] theorem State.setTile_part (j : Nat) : (s.setTile k v).part j = s.part j := rfl
@[simp] theorem State.setTile_ctlOf (j : Nat) : (s.setTile k v).ctlOf j = s.ctlOf j := rfl
@[simp] theorem State.setTile_gantry (j : Nat) : (s.setTile k v).gantry j = s.gantry j := rfl
@[simp] theorem State.setTile_slotOf (j : Nat) : (s.setTile k v).slotOf j = s.slotOf j := rfl
@[simp] theorem State.setTile_quay (j : Nat) : (s.setTile k v).quay j = s.quay j := rfl
@[simp] theorem State.setTile_tensor (j : Nat) : (s.setTile k v).tensor j = s.tensor j := rfl
@[simp] theorem State.setTile_intake (j : Nat) : (s.setTile k v).intake j = s.intake j := rfl
@[simp] theorem State.setTile_gov (j : Nat) : (s.setTile k v).gov j = s.gov j := rfl
@[simp] theorem State.setTile_pair (j : Nat) : (s.setTile k v).pair j = s.pair j := rfl
@[simp] theorem State.setTile_port (j : Nat) : (s.setTile k v).port j = s.port j := rfl
@[simp] theorem State.setTile_host (j : Nat) : (s.setTile k v).host j = s.host j := rfl
@[simp] theorem State.setTile_cfg (i j : Nat) : (s.setTile k v).cfg i j = s.cfg i j := rfl
@[simp] theorem State.setTile_tiles : (s.setTile k v).tiles = tput {} s.tiles k v := rfl
theorem State.setTile_tile (j : Nat) : (s.setTile k v).tile j = if j = k then v else s.tile j := tget_tput _ _ _ _ _
@[simp] theorem State.setTile_tile_same : (s.setTile k v).tile k = v := tget_tput_same _ _ _ _
@[simp] theorem State.setTile_tile_ne (j : Nat) (h : j ≠ k) : (s.setTile k v).tile j = s.tile j := tget_tput_ne _ _ _ _ _ h
end

section
variable (s : State) (k : Nat) (v : Gantry)
@[simp] theorem State.setGantry_pending : (s.setGantry k v).pending = s.pending := rfl
@[simp] theorem State.setGantry_now : (s.setGantry k v).now = s.now := rfl
@[simp] theorem State.setGantry_freeCtr : (s.setGantry k v).freeCtr = s.freeCtr := rfl
@[simp] theorem State.setGantry_resp : (s.setGantry k v).resp = s.resp := rfl
@[simp] theorem State.setGantry_link : (s.setGantry k v).link = s.link := rfl
@[simp] theorem State.setGantry_net : (s.setGantry k v).net = s.net := rfl
@[simp] theorem State.setGantry_transit : (s.setGantry k v).transit = s.transit := rfl
@[simp] theorem State.setGantry_transitUsed : (s.setGantry k v).transitUsed = s.transitUsed := rfl
@[simp] theorem State.setGantry_ident : (s.setGantry k v).ident = s.ident := rfl
@[simp] theorem State.setGantry_cores : (s.setGantry k v).cores = s.cores := rfl
@[simp] theorem State.setGantry_health : (s.setGantry k v).health = s.health := rfl
@[simp] theorem State.setGantry_pad : (s.setGantry k v).pad = s.pad := rfl
@[simp] theorem State.setGantry_marks : (s.setGantry k v).marks = s.marks := rfl
@[simp] theorem State.setGantry_tiles : (s.setGantry k v).tiles = s.tiles := rfl
@[simp] theorem State.setGantry_boundaries : (s.setGantry k v).boundaries = s.boundaries := rfl
@[simp] theorem State.setGantry_routersDown : (s.setGantry k v).routersDown = s.routersDown := rfl
@[simp] theorem State.setGantry_parts : (s.setGantry k v).parts = s.parts := rfl
@[simp] theorem State.setGantry_ctl : (s.setGantry k v).ctl = s.ctl := rfl
@[simp] theorem State.setGantry_slots : (s.setGantry k v).slots = s.slots := rfl
@[simp] theorem State.setGantry_tide : (s.setGantry k v).tide = s.tide := rfl
@[simp] theorem State.setGantry_rtc : (s.setGantry k v).rtc = s.rtc := rfl
@[simp] theorem State.setGantry_quays : (s.setGantry k v).quays = s.quays := rfl
@[simp] theorem State.setGantry_dram : (s.setGantry k v).dram = s.dram := rfl
@[simp] theorem State.setGantry_flash : (s.setGantry k v).flash = s.flash := rfl
@[simp] theorem State.setGantry_quayMarks : (s.setGantry k v).quayMarks = s.quayMarks := rfl
@[simp] theorem State.setGantry_tensors : (s.setGantry k v).tensors = s.tensors := rfl
@[simp] theorem State.setGantry_intakes : (s.setGantry k v).intakes = s.intakes := rfl
@[simp] theorem State.setGantry_govs : (s.setGantry k v).govs = s.govs := rfl
@[simp] theorem State.setGantry_opt : (s.setGantry k v).opt = s.opt := rfl
@[simp] theorem State.setGantry_pairs : (s.setGantry k v).pairs = s.pairs := rfl
@[simp] theorem State.setGantry_ledger : (s.setGantry k v).ledger = s.ledger := rfl
@[simp] theorem State.setGantry_fabric : (s.setGantry k v).fabric = s.fabric := rfl
@[simp] theorem State.setGantry_bring : (s.setGantry k v).bring = s.bring := rfl
@[simp] theorem State.setGantry_overlay : (s.setGantry k v).overlay = s.overlay := rfl
@[simp] theorem State.setGantry_ports : (s.setGantry k v).ports = s.ports := rfl
@[simp] theorem State.setGantry_log : (s.setGantry k v).log = s.log := rfl
@[simp] theorem State.setGantry_mc : (s.setGantry k v).mc = s.mc := rfl
@[simp] theorem State.setGantry_thermal : (s.setGantry k v).thermal = s.thermal := rfl
@[simp] theorem State.setGantry_sivar : (s.setGantry k v).sivar = s.sivar := rfl
@[simp] theorem State.setGantry_hosts : (s.setGantry k v).hosts = s.hosts := rfl
@[simp] theorem State.setGantry_mail : (s.setGantry k v).mail = s.mail := rfl
@[simp] theorem State.setGantry_mailMarks : (s.setGantry k v).mailMarks = s.mailMarks := rfl
@[simp] theorem State.setGantry_power : (s.setGantry k v).power = s.power := rfl
@[simp] theorem State.setGantry_fw : (s.setGantry k v).fw = s.fw := rfl
@[simp] theorem State.setGantry_core (j : Nat) : (s.setGantry k v).core j = s.core j := rfl
@[simp] theorem State.setGantry_heal (j : Nat) : (s.setGantry k v).heal j = s.heal j := rfl
@[simp] theorem State.setGantry_part (j : Nat) : (s.setGantry k v).part j = s.part j := rfl
@[simp] theorem State.setGantry_ctlOf (j : Nat) : (s.setGantry k v).ctlOf j = s.ctlOf j := rfl
@[simp] theorem State.setGantry_tile (j : Nat) : (s.setGantry k v).tile j = s.tile j := rfl
@[simp] theorem State.setGantry_slotOf (j : Nat) : (s.setGantry k v).slotOf j = s.slotOf j := rfl
@[simp] theorem State.setGantry_quay (j : Nat) : (s.setGantry k v).quay j = s.quay j := rfl
@[simp] theorem State.setGantry_tensor (j : Nat) : (s.setGantry k v).tensor j = s.tensor j := rfl
@[simp] theorem State.setGantry_intake (j : Nat) : (s.setGantry k v).intake j = s.intake j := rfl
@[simp] theorem State.setGantry_gov (j : Nat) : (s.setGantry k v).gov j = s.gov j := rfl
@[simp] theorem State.setGantry_pair (j : Nat) : (s.setGantry k v).pair j = s.pair j := rfl
@[simp] theorem State.setGantry_port (j : Nat) : (s.setGantry k v).port j = s.port j := rfl
@[simp] theorem State.setGantry_host (j : Nat) : (s.setGantry k v).host j = s.host j := rfl
@[simp] theorem State.setGantry_cfg (i j : Nat) : (s.setGantry k v).cfg i j = s.cfg i j := rfl
@[simp] theorem State.setGantry_gantries : (s.setGantry k v).gantries = tput {} s.gantries k v := rfl
theorem State.setGantry_gantry (j : Nat) : (s.setGantry k v).gantry j = if j = k then v else s.gantry j := tget_tput _ _ _ _ _
@[simp] theorem State.setGantry_gantry_same : (s.setGantry k v).gantry k = v := tget_tput_same _ _ _ _
@[simp] theorem State.setGantry_gantry_ne (j : Nat) (h : j ≠ k) : (s.setGantry k v).gantry j = s.gantry j := tget_tput_ne _ _ _ _ _ h
end

section
variable (s : State) (k : Nat) (v : ImageSlot)
@[simp] theorem State.setSlot_pending : (s.setSlot k v).pending = s.pending := rfl
@[simp] theorem State.setSlot_now : (s.setSlot k v).now = s.now := rfl
@[simp] theorem State.setSlot_freeCtr : (s.setSlot k v).freeCtr = s.freeCtr := rfl
@[simp] theorem State.setSlot_resp : (s.setSlot k v).resp = s.resp := rfl
@[simp] theorem State.setSlot_link : (s.setSlot k v).link = s.link := rfl
@[simp] theorem State.setSlot_net : (s.setSlot k v).net = s.net := rfl
@[simp] theorem State.setSlot_transit : (s.setSlot k v).transit = s.transit := rfl
@[simp] theorem State.setSlot_transitUsed : (s.setSlot k v).transitUsed = s.transitUsed := rfl
@[simp] theorem State.setSlot_ident : (s.setSlot k v).ident = s.ident := rfl
@[simp] theorem State.setSlot_cores : (s.setSlot k v).cores = s.cores := rfl
@[simp] theorem State.setSlot_health : (s.setSlot k v).health = s.health := rfl
@[simp] theorem State.setSlot_pad : (s.setSlot k v).pad = s.pad := rfl
@[simp] theorem State.setSlot_marks : (s.setSlot k v).marks = s.marks := rfl
@[simp] theorem State.setSlot_gantries : (s.setSlot k v).gantries = s.gantries := rfl
@[simp] theorem State.setSlot_tiles : (s.setSlot k v).tiles = s.tiles := rfl
@[simp] theorem State.setSlot_boundaries : (s.setSlot k v).boundaries = s.boundaries := rfl
@[simp] theorem State.setSlot_routersDown : (s.setSlot k v).routersDown = s.routersDown := rfl
@[simp] theorem State.setSlot_parts : (s.setSlot k v).parts = s.parts := rfl
@[simp] theorem State.setSlot_ctl : (s.setSlot k v).ctl = s.ctl := rfl
@[simp] theorem State.setSlot_tide : (s.setSlot k v).tide = s.tide := rfl
@[simp] theorem State.setSlot_rtc : (s.setSlot k v).rtc = s.rtc := rfl
@[simp] theorem State.setSlot_quays : (s.setSlot k v).quays = s.quays := rfl
@[simp] theorem State.setSlot_dram : (s.setSlot k v).dram = s.dram := rfl
@[simp] theorem State.setSlot_flash : (s.setSlot k v).flash = s.flash := rfl
@[simp] theorem State.setSlot_quayMarks : (s.setSlot k v).quayMarks = s.quayMarks := rfl
@[simp] theorem State.setSlot_tensors : (s.setSlot k v).tensors = s.tensors := rfl
@[simp] theorem State.setSlot_intakes : (s.setSlot k v).intakes = s.intakes := rfl
@[simp] theorem State.setSlot_govs : (s.setSlot k v).govs = s.govs := rfl
@[simp] theorem State.setSlot_opt : (s.setSlot k v).opt = s.opt := rfl
@[simp] theorem State.setSlot_pairs : (s.setSlot k v).pairs = s.pairs := rfl
@[simp] theorem State.setSlot_ledger : (s.setSlot k v).ledger = s.ledger := rfl
@[simp] theorem State.setSlot_fabric : (s.setSlot k v).fabric = s.fabric := rfl
@[simp] theorem State.setSlot_bring : (s.setSlot k v).bring = s.bring := rfl
@[simp] theorem State.setSlot_overlay : (s.setSlot k v).overlay = s.overlay := rfl
@[simp] theorem State.setSlot_ports : (s.setSlot k v).ports = s.ports := rfl
@[simp] theorem State.setSlot_log : (s.setSlot k v).log = s.log := rfl
@[simp] theorem State.setSlot_mc : (s.setSlot k v).mc = s.mc := rfl
@[simp] theorem State.setSlot_thermal : (s.setSlot k v).thermal = s.thermal := rfl
@[simp] theorem State.setSlot_sivar : (s.setSlot k v).sivar = s.sivar := rfl
@[simp] theorem State.setSlot_hosts : (s.setSlot k v).hosts = s.hosts := rfl
@[simp] theorem State.setSlot_mail : (s.setSlot k v).mail = s.mail := rfl
@[simp] theorem State.setSlot_mailMarks : (s.setSlot k v).mailMarks = s.mailMarks := rfl
@[simp] theorem State.setSlot_power : (s.setSlot k v).power = s.power := rfl
@[simp] theorem State.setSlot_fw : (s.setSlot k v).fw = s.fw := rfl
@[simp] theorem State.setSlot_core (j : Nat) : (s.setSlot k v).core j = s.core j := rfl
@[simp] theorem State.setSlot_heal (j : Nat) : (s.setSlot k v).heal j = s.heal j := rfl
@[simp] theorem State.setSlot_part (j : Nat) : (s.setSlot k v).part j = s.part j := rfl
@[simp] theorem State.setSlot_ctlOf (j : Nat) : (s.setSlot k v).ctlOf j = s.ctlOf j := rfl
@[simp] theorem State.setSlot_tile (j : Nat) : (s.setSlot k v).tile j = s.tile j := rfl
@[simp] theorem State.setSlot_gantry (j : Nat) : (s.setSlot k v).gantry j = s.gantry j := rfl
@[simp] theorem State.setSlot_quay (j : Nat) : (s.setSlot k v).quay j = s.quay j := rfl
@[simp] theorem State.setSlot_tensor (j : Nat) : (s.setSlot k v).tensor j = s.tensor j := rfl
@[simp] theorem State.setSlot_intake (j : Nat) : (s.setSlot k v).intake j = s.intake j := rfl
@[simp] theorem State.setSlot_gov (j : Nat) : (s.setSlot k v).gov j = s.gov j := rfl
@[simp] theorem State.setSlot_pair (j : Nat) : (s.setSlot k v).pair j = s.pair j := rfl
@[simp] theorem State.setSlot_port (j : Nat) : (s.setSlot k v).port j = s.port j := rfl
@[simp] theorem State.setSlot_host (j : Nat) : (s.setSlot k v).host j = s.host j := rfl
@[simp] theorem State.setSlot_cfg (i j : Nat) : (s.setSlot k v).cfg i j = s.cfg i j := rfl
@[simp] theorem State.setSlot_slots : (s.setSlot k v).slots = tput {} s.slots k v := rfl
theorem State.setSlot_slotOf (j : Nat) : (s.setSlot k v).slotOf j = if j = k then v else s.slotOf j := tget_tput _ _ _ _ _
@[simp] theorem State.setSlot_slotOf_same : (s.setSlot k v).slotOf k = v := tget_tput_same _ _ _ _
@[simp] theorem State.setSlot_slotOf_ne (j : Nat) (h : j ≠ k) : (s.setSlot k v).slotOf j = s.slotOf j := tget_tput_ne _ _ _ _ _ h
end

section
variable (s : State) (k : Nat) (v : Quay)
@[simp] theorem State.setQuay_pending : (s.setQuay k v).pending = s.pending := rfl
@[simp] theorem State.setQuay_now : (s.setQuay k v).now = s.now := rfl
@[simp] theorem State.setQuay_freeCtr : (s.setQuay k v).freeCtr = s.freeCtr := rfl
@[simp] theorem State.setQuay_resp : (s.setQuay k v).resp = s.resp := rfl
@[simp] theorem State.setQuay_link : (s.setQuay k v).link = s.link := rfl
@[simp] theorem State.setQuay_net : (s.setQuay k v).net = s.net := rfl
@[simp] theorem State.setQuay_transit : (s.setQuay k v).transit = s.transit := rfl
@[simp] theorem State.setQuay_transitUsed : (s.setQuay k v).transitUsed = s.transitUsed := rfl
@[simp] theorem State.setQuay_ident : (s.setQuay k v).ident = s.ident := rfl
@[simp] theorem State.setQuay_cores : (s.setQuay k v).cores = s.cores := rfl
@[simp] theorem State.setQuay_health : (s.setQuay k v).health = s.health := rfl
@[simp] theorem State.setQuay_pad : (s.setQuay k v).pad = s.pad := rfl
@[simp] theorem State.setQuay_marks : (s.setQuay k v).marks = s.marks := rfl
@[simp] theorem State.setQuay_gantries : (s.setQuay k v).gantries = s.gantries := rfl
@[simp] theorem State.setQuay_tiles : (s.setQuay k v).tiles = s.tiles := rfl
@[simp] theorem State.setQuay_boundaries : (s.setQuay k v).boundaries = s.boundaries := rfl
@[simp] theorem State.setQuay_routersDown : (s.setQuay k v).routersDown = s.routersDown := rfl
@[simp] theorem State.setQuay_parts : (s.setQuay k v).parts = s.parts := rfl
@[simp] theorem State.setQuay_ctl : (s.setQuay k v).ctl = s.ctl := rfl
@[simp] theorem State.setQuay_slots : (s.setQuay k v).slots = s.slots := rfl
@[simp] theorem State.setQuay_tide : (s.setQuay k v).tide = s.tide := rfl
@[simp] theorem State.setQuay_rtc : (s.setQuay k v).rtc = s.rtc := rfl
@[simp] theorem State.setQuay_dram : (s.setQuay k v).dram = s.dram := rfl
@[simp] theorem State.setQuay_flash : (s.setQuay k v).flash = s.flash := rfl
@[simp] theorem State.setQuay_quayMarks : (s.setQuay k v).quayMarks = s.quayMarks := rfl
@[simp] theorem State.setQuay_tensors : (s.setQuay k v).tensors = s.tensors := rfl
@[simp] theorem State.setQuay_intakes : (s.setQuay k v).intakes = s.intakes := rfl
@[simp] theorem State.setQuay_govs : (s.setQuay k v).govs = s.govs := rfl
@[simp] theorem State.setQuay_opt : (s.setQuay k v).opt = s.opt := rfl
@[simp] theorem State.setQuay_pairs : (s.setQuay k v).pairs = s.pairs := rfl
@[simp] theorem State.setQuay_ledger : (s.setQuay k v).ledger = s.ledger := rfl
@[simp] theorem State.setQuay_fabric : (s.setQuay k v).fabric = s.fabric := rfl
@[simp] theorem State.setQuay_bring : (s.setQuay k v).bring = s.bring := rfl
@[simp] theorem State.setQuay_overlay : (s.setQuay k v).overlay = s.overlay := rfl
@[simp] theorem State.setQuay_ports : (s.setQuay k v).ports = s.ports := rfl
@[simp] theorem State.setQuay_log : (s.setQuay k v).log = s.log := rfl
@[simp] theorem State.setQuay_mc : (s.setQuay k v).mc = s.mc := rfl
@[simp] theorem State.setQuay_thermal : (s.setQuay k v).thermal = s.thermal := rfl
@[simp] theorem State.setQuay_sivar : (s.setQuay k v).sivar = s.sivar := rfl
@[simp] theorem State.setQuay_hosts : (s.setQuay k v).hosts = s.hosts := rfl
@[simp] theorem State.setQuay_mail : (s.setQuay k v).mail = s.mail := rfl
@[simp] theorem State.setQuay_mailMarks : (s.setQuay k v).mailMarks = s.mailMarks := rfl
@[simp] theorem State.setQuay_power : (s.setQuay k v).power = s.power := rfl
@[simp] theorem State.setQuay_fw : (s.setQuay k v).fw = s.fw := rfl
@[simp] theorem State.setQuay_core (j : Nat) : (s.setQuay k v).core j = s.core j := rfl
@[simp] theorem State.setQuay_heal (j : Nat) : (s.setQuay k v).heal j = s.heal j := rfl
@[simp] theorem State.setQuay_part (j : Nat) : (s.setQuay k v).part j = s.part j := rfl
@[simp] theorem State.setQuay_ctlOf (j : Nat) : (s.setQuay k v).ctlOf j = s.ctlOf j := rfl
@[simp] theorem State.setQuay_tile (j : Nat) : (s.setQuay k v).tile j = s.tile j := rfl
@[simp] theorem State.setQuay_gantry (j : Nat) : (s.setQuay k v).gantry j = s.gantry j := rfl
@[simp] theorem State.setQuay_slotOf (j : Nat) : (s.setQuay k v).slotOf j = s.slotOf j := rfl
@[simp] theorem State.setQuay_tensor (j : Nat) : (s.setQuay k v).tensor j = s.tensor j := rfl
@[simp] theorem State.setQuay_intake (j : Nat) : (s.setQuay k v).intake j = s.intake j := rfl
@[simp] theorem State.setQuay_gov (j : Nat) : (s.setQuay k v).gov j = s.gov j := rfl
@[simp] theorem State.setQuay_pair (j : Nat) : (s.setQuay k v).pair j = s.pair j := rfl
@[simp] theorem State.setQuay_port (j : Nat) : (s.setQuay k v).port j = s.port j := rfl
@[simp] theorem State.setQuay_host (j : Nat) : (s.setQuay k v).host j = s.host j := rfl
@[simp] theorem State.setQuay_cfg (i j : Nat) : (s.setQuay k v).cfg i j = s.cfg i j := rfl
@[simp] theorem State.setQuay_quays : (s.setQuay k v).quays = tput {} s.quays k v := rfl
theorem State.setQuay_quay (j : Nat) : (s.setQuay k v).quay j = if j = k then v else s.quay j := tget_tput _ _ _ _ _
@[simp] theorem State.setQuay_quay_same : (s.setQuay k v).quay k = v := tget_tput_same _ _ _ _
@[simp] theorem State.setQuay_quay_ne (j : Nat) (h : j ≠ k) : (s.setQuay k v).quay j = s.quay j := tget_tput_ne _ _ _ _ _ h
end

section
variable (s : State) (k : Nat) (v : Tensor)
@[simp] theorem State.setTensor_pending : (s.setTensor k v).pending = s.pending := rfl
@[simp] theorem State.setTensor_now : (s.setTensor k v).now = s.now := rfl
@[simp] theorem State.setTensor_freeCtr : (s.setTensor k v).freeCtr = s.freeCtr := rfl
@[simp] theorem State.setTensor_resp : (s.setTensor k v).resp = s.resp := rfl
@[simp] theorem State.setTensor_link : (s.setTensor k v).link = s.link := rfl
@[simp] theorem State.setTensor_net : (s.setTensor k v).net = s.net := rfl
@[simp] theorem State.setTensor_transit : (s.setTensor k v).transit = s.transit := rfl
@[simp] theorem State.setTensor_transitUsed : (s.setTensor k v).transitUsed = s.transitUsed := rfl
@[simp] theorem State.setTensor_ident : (s.setTensor k v).ident = s.ident := rfl
@[simp] theorem State.setTensor_cores : (s.setTensor k v).cores = s.cores := rfl
@[simp] theorem State.setTensor_health : (s.setTensor k v).health = s.health := rfl
@[simp] theorem State.setTensor_pad : (s.setTensor k v).pad = s.pad := rfl
@[simp] theorem State.setTensor_marks : (s.setTensor k v).marks = s.marks := rfl
@[simp] theorem State.setTensor_gantries : (s.setTensor k v).gantries = s.gantries := rfl
@[simp] theorem State.setTensor_tiles : (s.setTensor k v).tiles = s.tiles := rfl
@[simp] theorem State.setTensor_boundaries : (s.setTensor k v).boundaries = s.boundaries := rfl
@[simp] theorem State.setTensor_routersDown : (s.setTensor k v).routersDown = s.routersDown := rfl
@[simp] theorem State.setTensor_parts : (s.setTensor k v).parts = s.parts := rfl
@[simp] theorem State.setTensor_ctl : (s.setTensor k v).ctl = s.ctl := rfl
@[simp] theorem State.setTensor_slots : (s.setTensor k v).slots = s.slots := rfl
@[simp] theorem State.setTensor_tide : (s.setTensor k v).tide = s.tide := rfl
@[simp] theorem State.setTensor_rtc : (s.setTensor k v).rtc = s.rtc := rfl
@[simp] theorem State.setTensor_quays : (s.setTensor k v).quays = s.quays := rfl
@[simp] theorem State.setTensor_dram : (s.setTensor k v).dram = s.dram := rfl
@[simp] theorem State.setTensor_flash : (s.setTensor k v).flash = s.flash := rfl
@[simp] theorem State.setTensor_quayMarks : (s.setTensor k v).quayMarks = s.quayMarks := rfl
@[simp] theorem State.setTensor_intakes : (s.setTensor k v).intakes = s.intakes := rfl
@[simp] theorem State.setTensor_govs : (s.setTensor k v).govs = s.govs := rfl
@[simp] theorem State.setTensor_opt : (s.setTensor k v).opt = s.opt := rfl
@[simp] theorem State.setTensor_pairs : (s.setTensor k v).pairs = s.pairs := rfl
@[simp] theorem State.setTensor_ledger : (s.setTensor k v).ledger = s.ledger := rfl
@[simp] theorem State.setTensor_fabric : (s.setTensor k v).fabric = s.fabric := rfl
@[simp] theorem State.setTensor_bring : (s.setTensor k v).bring = s.bring := rfl
@[simp] theorem State.setTensor_overlay : (s.setTensor k v).overlay = s.overlay := rfl
@[simp] theorem State.setTensor_ports : (s.setTensor k v).ports = s.ports := rfl
@[simp] theorem State.setTensor_log : (s.setTensor k v).log = s.log := rfl
@[simp] theorem State.setTensor_mc : (s.setTensor k v).mc = s.mc := rfl
@[simp] theorem State.setTensor_thermal : (s.setTensor k v).thermal = s.thermal := rfl
@[simp] theorem State.setTensor_sivar : (s.setTensor k v).sivar = s.sivar := rfl
@[simp] theorem State.setTensor_hosts : (s.setTensor k v).hosts = s.hosts := rfl
@[simp] theorem State.setTensor_mail : (s.setTensor k v).mail = s.mail := rfl
@[simp] theorem State.setTensor_mailMarks : (s.setTensor k v).mailMarks = s.mailMarks := rfl
@[simp] theorem State.setTensor_power : (s.setTensor k v).power = s.power := rfl
@[simp] theorem State.setTensor_fw : (s.setTensor k v).fw = s.fw := rfl
@[simp] theorem State.setTensor_core (j : Nat) : (s.setTensor k v).core j = s.core j := rfl
@[simp] theorem State.setTensor_heal (j : Nat) : (s.setTensor k v).heal j = s.heal j := rfl
@[simp] theorem State.setTensor_part (j : Nat) : (s.setTensor k v).part j = s.part j := rfl
@[simp] theorem State.setTensor_ctlOf (j : Nat) : (s.setTensor k v).ctlOf j = s.ctlOf j := rfl
@[simp] theorem State.setTensor_tile (j : Nat) : (s.setTensor k v).tile j = s.tile j := rfl
@[simp] theorem State.setTensor_gantry (j : Nat) : (s.setTensor k v).gantry j = s.gantry j := rfl
@[simp] theorem State.setTensor_slotOf (j : Nat) : (s.setTensor k v).slotOf j = s.slotOf j := rfl
@[simp] theorem State.setTensor_quay (j : Nat) : (s.setTensor k v).quay j = s.quay j := rfl
@[simp] theorem State.setTensor_intake (j : Nat) : (s.setTensor k v).intake j = s.intake j := rfl
@[simp] theorem State.setTensor_gov (j : Nat) : (s.setTensor k v).gov j = s.gov j := rfl
@[simp] theorem State.setTensor_pair (j : Nat) : (s.setTensor k v).pair j = s.pair j := rfl
@[simp] theorem State.setTensor_port (j : Nat) : (s.setTensor k v).port j = s.port j := rfl
@[simp] theorem State.setTensor_host (j : Nat) : (s.setTensor k v).host j = s.host j := rfl
@[simp] theorem State.setTensor_cfg (i j : Nat) : (s.setTensor k v).cfg i j = s.cfg i j := rfl
@[simp] theorem State.setTensor_tensors : (s.setTensor k v).tensors = tput {} s.tensors k v := rfl
theorem State.setTensor_tensor (j : Nat) : (s.setTensor k v).tensor j = if j = k then v else s.tensor j := tget_tput _ _ _ _ _
@[simp] theorem State.setTensor_tensor_same : (s.setTensor k v).tensor k = v := tget_tput_same _ _ _ _
@[simp] theorem State.setTensor_tensor_ne (j : Nat) (h : j ≠ k) : (s.setTensor k v).tensor j = s.tensor j := tget_tput_ne _ _ _ _ _ h
end

section
variable (s : State) (k : Nat) (v : Intake)
@[simp] theorem State.setIntake_pending : (s.setIntake k v).pending = s.pending := rfl
@[simp] theorem State.setIntake_now : (s.setIntake k v).now = s.now := rfl
@[simp] theorem State.setIntake_freeCtr : (s.setIntake k v).freeCtr = s.freeCtr := rfl
@[simp] theorem State.setIntake_resp : (s.setIntake k v).resp = s.resp := rfl
@[simp] theorem State.setIntake_link : (s.setIntake k v).link = s.link := rfl
@[simp] theorem State.setIntake_net : (s.setIntake k v).net = s.net := rfl
@[simp] theorem State.setIntake_transit : (s.setIntake k v).transit = s.transit := rfl
@[simp] theorem State.setIntake_transitUsed : (s.setIntake k v).transitUsed = s.transitUsed := rfl
@[simp] theorem State.setIntake_ident : (s.setIntake k v).ident = s.ident := rfl
@[simp] theorem State.setIntake_cores : (s.setIntake k v).cores = s.cores := rfl
@[simp] theorem State.setIntake_health : (s.setIntake k v).health = s.health := rfl
@[simp] theorem State.setIntake_pad : (s.setIntake k v).pad = s.pad := rfl
@[simp] theorem State.setIntake_marks : (s.setIntake k v).marks = s.marks := rfl
@[simp] theorem State.setIntake_gantries : (s.setIntake k v).gantries = s.gantries := rfl
@[simp] theorem State.setIntake_tiles : (s.setIntake k v).tiles = s.tiles := rfl
@[simp] theorem State.setIntake_boundaries : (s.setIntake k v).boundaries = s.boundaries := rfl
@[simp] theorem State.setIntake_routersDown : (s.setIntake k v).routersDown = s.routersDown := rfl
@[simp] theorem State.setIntake_parts : (s.setIntake k v).parts = s.parts := rfl
@[simp] theorem State.setIntake_ctl : (s.setIntake k v).ctl = s.ctl := rfl
@[simp] theorem State.setIntake_slots : (s.setIntake k v).slots = s.slots := rfl
@[simp] theorem State.setIntake_tide : (s.setIntake k v).tide = s.tide := rfl
@[simp] theorem State.setIntake_rtc : (s.setIntake k v).rtc = s.rtc := rfl
@[simp] theorem State.setIntake_quays : (s.setIntake k v).quays = s.quays := rfl
@[simp] theorem State.setIntake_dram : (s.setIntake k v).dram = s.dram := rfl
@[simp] theorem State.setIntake_flash : (s.setIntake k v).flash = s.flash := rfl
@[simp] theorem State.setIntake_quayMarks : (s.setIntake k v).quayMarks = s.quayMarks := rfl
@[simp] theorem State.setIntake_tensors : (s.setIntake k v).tensors = s.tensors := rfl
@[simp] theorem State.setIntake_govs : (s.setIntake k v).govs = s.govs := rfl
@[simp] theorem State.setIntake_opt : (s.setIntake k v).opt = s.opt := rfl
@[simp] theorem State.setIntake_pairs : (s.setIntake k v).pairs = s.pairs := rfl
@[simp] theorem State.setIntake_ledger : (s.setIntake k v).ledger = s.ledger := rfl
@[simp] theorem State.setIntake_fabric : (s.setIntake k v).fabric = s.fabric := rfl
@[simp] theorem State.setIntake_bring : (s.setIntake k v).bring = s.bring := rfl
@[simp] theorem State.setIntake_overlay : (s.setIntake k v).overlay = s.overlay := rfl
@[simp] theorem State.setIntake_ports : (s.setIntake k v).ports = s.ports := rfl
@[simp] theorem State.setIntake_log : (s.setIntake k v).log = s.log := rfl
@[simp] theorem State.setIntake_mc : (s.setIntake k v).mc = s.mc := rfl
@[simp] theorem State.setIntake_thermal : (s.setIntake k v).thermal = s.thermal := rfl
@[simp] theorem State.setIntake_sivar : (s.setIntake k v).sivar = s.sivar := rfl
@[simp] theorem State.setIntake_hosts : (s.setIntake k v).hosts = s.hosts := rfl
@[simp] theorem State.setIntake_mail : (s.setIntake k v).mail = s.mail := rfl
@[simp] theorem State.setIntake_mailMarks : (s.setIntake k v).mailMarks = s.mailMarks := rfl
@[simp] theorem State.setIntake_power : (s.setIntake k v).power = s.power := rfl
@[simp] theorem State.setIntake_fw : (s.setIntake k v).fw = s.fw := rfl
@[simp] theorem State.setIntake_core (j : Nat) : (s.setIntake k v).core j = s.core j := rfl
@[simp] theorem State.setIntake_heal (j : Nat) : (s.setIntake k v).heal j = s.heal j := rfl
@[simp] theorem State.setIntake_part (j : Nat) : (s.setIntake k v).part j = s.part j := rfl
@[simp] theorem State.setIntake_ctlOf (j : Nat) : (s.setIntake k v).ctlOf j = s.ctlOf j := rfl
@[simp] theorem State.setIntake_tile (j : Nat) : (s.setIntake k v).tile j = s.tile j := rfl
@[simp] theorem State.setIntake_gantry (j : Nat) : (s.setIntake k v).gantry j = s.gantry j := rfl
@[simp] theorem State.setIntake_slotOf (j : Nat) : (s.setIntake k v).slotOf j = s.slotOf j := rfl
@[simp] theorem State.setIntake_quay (j : Nat) : (s.setIntake k v).quay j = s.quay j := rfl
@[simp] theorem State.setIntake_tensor (j : Nat) : (s.setIntake k v).tensor j = s.tensor j := rfl
@[simp] theorem State.setIntake_gov (j : Nat) : (s.setIntake k v).gov j = s.gov j := rfl
@[simp] theorem State.setIntake_pair (j : Nat) : (s.setIntake k v).pair j = s.pair j := rfl
@[simp] theorem State.setIntake_port (j : Nat) : (s.setIntake k v).port j = s.port j := rfl
@[simp] theorem State.setIntake_host (j : Nat) : (s.setIntake k v).host j = s.host j := rfl
@[simp] theorem State.setIntake_cfg (i j : Nat) : (s.setIntake k v).cfg i j = s.cfg i j := rfl
@[simp] theorem State.setIntake_intakes : (s.setIntake k v).intakes = tput {} s.intakes k v := rfl
theorem State.setIntake_intake (j : Nat) : (s.setIntake k v).intake j = if j = k then v else s.intake j := tget_tput _ _ _ _ _
@[simp] theorem State.setIntake_intake_same : (s.setIntake k v).intake k = v := tget_tput_same _ _ _ _
@[simp] theorem State.setIntake_intake_ne (j : Nat) (h : j ≠ k) : (s.setIntake k v).intake j = s.intake j := tget_tput_ne _ _ _ _ _ h
end

section
variable (s : State) (k : Nat) (v : Governor)
@[simp] theorem State.setGov_pending : (s.setGov k v).pending = s.pending := rfl
@[simp] theorem State.setGov_now : (s.setGov k v).now = s.now := rfl
@[simp] theorem State.setGov_freeCtr : (s.setGov k v).freeCtr = s.freeCtr := rfl
@[simp] theorem State.setGov_resp : (s.setGov k v).resp = s.resp := rfl
@[simp] theorem State.setGov_link : (s.setGov k v).link = s.link := rfl
@[simp] theorem State.setGov_net : (s.setGov k v).net = s.net := rfl
@[simp] theorem State.setGov_transit : (s.setGov k v).transit = s.transit := rfl
@[simp] theorem State.setGov_transitUsed : (s.setGov k v).transitUsed = s.transitUsed := rfl
@[simp] theorem State.setGov_ident : (s.setGov k v).ident = s.ident := rfl
@[simp] theorem State.setGov_cores : (s.setGov k v).cores = s.cores := rfl
@[simp] theorem State.setGov_health : (s.setGov k v).health = s.health := rfl
@[simp] theorem State.setGov_pad : (s.setGov k v).pad = s.pad := rfl
@[simp] theorem State.setGov_marks : (s.setGov k v).marks = s.marks := rfl
@[simp] theorem State.setGov_gantries : (s.setGov k v).gantries = s.gantries := rfl
@[simp] theorem State.setGov_tiles : (s.setGov k v).tiles = s.tiles := rfl
@[simp] theorem State.setGov_boundaries : (s.setGov k v).boundaries = s.boundaries := rfl
@[simp] theorem State.setGov_routersDown : (s.setGov k v).routersDown = s.routersDown := rfl
@[simp] theorem State.setGov_parts : (s.setGov k v).parts = s.parts := rfl
@[simp] theorem State.setGov_ctl : (s.setGov k v).ctl = s.ctl := rfl
@[simp] theorem State.setGov_slots : (s.setGov k v).slots = s.slots := rfl
@[simp] theorem State.setGov_tide : (s.setGov k v).tide = s.tide := rfl
@[simp] theorem State.setGov_rtc : (s.setGov k v).rtc = s.rtc := rfl
@[simp] theorem State.setGov_quays : (s.setGov k v).quays = s.quays := rfl
@[simp] theorem State.setGov_dram : (s.setGov k v).dram = s.dram := rfl
@[simp] theorem State.setGov_flash : (s.setGov k v).flash = s.flash := rfl
@[simp] theorem State.setGov_quayMarks : (s.setGov k v).quayMarks = s.quayMarks := rfl
@[simp] theorem State.setGov_tensors : (s.setGov k v).tensors = s.tensors := rfl
@[simp] theorem State.setGov_intakes : (s.setGov k v).intakes = s.intakes := rfl
@[simp] theorem State.setGov_opt : (s.setGov k v).opt = s.opt := rfl
@[simp] theorem State.setGov_pairs : (s.setGov k v).pairs = s.pairs := rfl
@[simp] theorem State.setGov_ledger : (s.setGov k v).ledger = s.ledger := rfl
@[simp] theorem State.setGov_fabric : (s.setGov k v).fabric = s.fabric := rfl
@[simp] theorem State.setGov_bring : (s.setGov k v).bring = s.bring := rfl
@[simp] theorem State.setGov_overlay : (s.setGov k v).overlay = s.overlay := rfl
@[simp] theorem State.setGov_ports : (s.setGov k v).ports = s.ports := rfl
@[simp] theorem State.setGov_log : (s.setGov k v).log = s.log := rfl
@[simp] theorem State.setGov_mc : (s.setGov k v).mc = s.mc := rfl
@[simp] theorem State.setGov_thermal : (s.setGov k v).thermal = s.thermal := rfl
@[simp] theorem State.setGov_sivar : (s.setGov k v).sivar = s.sivar := rfl
@[simp] theorem State.setGov_hosts : (s.setGov k v).hosts = s.hosts := rfl
@[simp] theorem State.setGov_mail : (s.setGov k v).mail = s.mail := rfl
@[simp] theorem State.setGov_mailMarks : (s.setGov k v).mailMarks = s.mailMarks := rfl
@[simp] theorem State.setGov_power : (s.setGov k v).power = s.power := rfl
@[simp] theorem State.setGov_fw : (s.setGov k v).fw = s.fw := rfl
@[simp] theorem State.setGov_core (j : Nat) : (s.setGov k v).core j = s.core j := rfl
@[simp] theorem State.setGov_heal (j : Nat) : (s.setGov k v).heal j = s.heal j := rfl
@[simp] theorem State.setGov_part (j : Nat) : (s.setGov k v).part j = s.part j := rfl
@[simp] theorem State.setGov_ctlOf (j : Nat) : (s.setGov k v).ctlOf j = s.ctlOf j := rfl
@[simp] theorem State.setGov_tile (j : Nat) : (s.setGov k v).tile j = s.tile j := rfl
@[simp] theorem State.setGov_gantry (j : Nat) : (s.setGov k v).gantry j = s.gantry j := rfl
@[simp] theorem State.setGov_slotOf (j : Nat) : (s.setGov k v).slotOf j = s.slotOf j := rfl
@[simp] theorem State.setGov_quay (j : Nat) : (s.setGov k v).quay j = s.quay j := rfl
@[simp] theorem State.setGov_tensor (j : Nat) : (s.setGov k v).tensor j = s.tensor j := rfl
@[simp] theorem State.setGov_intake (j : Nat) : (s.setGov k v).intake j = s.intake j := rfl
@[simp] theorem State.setGov_pair (j : Nat) : (s.setGov k v).pair j = s.pair j := rfl
@[simp] theorem State.setGov_port (j : Nat) : (s.setGov k v).port j = s.port j := rfl
@[simp] theorem State.setGov_host (j : Nat) : (s.setGov k v).host j = s.host j := rfl
@[simp] theorem State.setGov_cfg (i j : Nat) : (s.setGov k v).cfg i j = s.cfg i j := rfl
@[simp] theorem State.setGov_govs : (s.setGov k v).govs = tput {} s.govs k v := rfl
theorem State.setGov_gov (j : Nat) : (s.setGov k v).gov j = if j = k then v else s.gov j := tget_tput _ _ _ _ _
@[simp] theorem State.setGov_gov_same : (s.setGov k v).gov k = v := tget_tput_same _ _ _ _
@[simp] theorem State.setGov_gov_ne (j : Nat) (h : j ≠ k) : (s.setGov k v).gov j = s.gov j := tget_tput_ne _ _ _ _ _ h
end

section
variable (s : State) (k : Nat) (v : Pair)
@[simp] theorem State.setPair_pending : (s.setPair k v).pending = s.pending := rfl
@[simp] theorem State.setPair_now : (s.setPair k v).now = s.now := rfl
@[simp] theorem State.setPair_freeCtr : (s.setPair k v).freeCtr = s.freeCtr := rfl
@[simp] theorem State.setPair_resp : (s.setPair k v).resp = s.resp := rfl
@[simp] theorem State.setPair_link : (s.setPair k v).link = s.link := rfl
@[simp] theorem State.setPair_net : (s.setPair k v).net = s.net := rfl
@[simp] theorem State.setPair_transit : (s.setPair k v).transit = s.transit := rfl
@[simp] theorem State.setPair_transitUsed : (s.setPair k v).transitUsed = s.transitUsed := rfl
@[simp] theorem State.setPair_ident : (s.setPair k v).ident = s.ident := rfl
@[simp] theorem State.setPair_cores : (s.setPair k v).cores = s.cores := rfl
@[simp] theorem State.setPair_health : (s.setPair k v).health = s.health := rfl
@[simp] theorem State.setPair_pad : (s.setPair k v).pad = s.pad := rfl
@[simp] theorem State.setPair_marks : (s.setPair k v).marks = s.marks := rfl
@[simp] theorem State.setPair_gantries : (s.setPair k v).gantries = s.gantries := rfl
@[simp] theorem State.setPair_tiles : (s.setPair k v).tiles = s.tiles := rfl
@[simp] theorem State.setPair_boundaries : (s.setPair k v).boundaries = s.boundaries := rfl
@[simp] theorem State.setPair_routersDown : (s.setPair k v).routersDown = s.routersDown := rfl
@[simp] theorem State.setPair_parts : (s.setPair k v).parts = s.parts := rfl
@[simp] theorem State.setPair_ctl : (s.setPair k v).ctl = s.ctl := rfl
@[simp] theorem State.setPair_slots : (s.setPair k v).slots = s.slots := rfl
@[simp] theorem State.setPair_tide : (s.setPair k v).tide = s.tide := rfl
@[simp] theorem State.setPair_rtc : (s.setPair k v).rtc = s.rtc := rfl
@[simp] theorem State.setPair_quays : (s.setPair k v).quays = s.quays := rfl
@[simp] theorem State.setPair_dram : (s.setPair k v).dram = s.dram := rfl
@[simp] theorem State.setPair_flash : (s.setPair k v).flash = s.flash := rfl
@[simp] theorem State.setPair_quayMarks : (s.setPair k v).quayMarks = s.quayMarks := rfl
@[simp] theorem State.setPair_tensors : (s.setPair k v).tensors = s.tensors := rfl
@[simp] theorem State.setPair_intakes : (s.setPair k v).intakes = s.intakes := rfl
@[simp] theorem State.setPair_govs : (s.setPair k v).govs = s.govs := rfl
@[simp] theorem State.setPair_opt : (s.setPair k v).opt = s.opt := rfl
@[simp] theorem State.setPair_ledger : (s.setPair k v).ledger = s.ledger := rfl
@[simp] theorem State.setPair_fabric : (s.setPair k v).fabric = s.fabric := rfl
@[simp] theorem State.setPair_bring : (s.setPair k v).bring = s.bring := rfl
@[simp] theorem State.setPair_overlay : (s.setPair k v).overlay = s.overlay := rfl
@[simp] theorem State.setPair_ports : (s.setPair k v).ports = s.ports := rfl
@[simp] theorem State.setPair_log : (s.setPair k v).log = s.log := rfl
@[simp] theorem State.setPair_mc : (s.setPair k v).mc = s.mc := rfl
@[simp] theorem State.setPair_thermal : (s.setPair k v).thermal = s.thermal := rfl
@[simp] theorem State.setPair_sivar : (s.setPair k v).sivar = s.sivar := rfl
@[simp] theorem State.setPair_hosts : (s.setPair k v).hosts = s.hosts := rfl
@[simp] theorem State.setPair_mail : (s.setPair k v).mail = s.mail := rfl
@[simp] theorem State.setPair_mailMarks : (s.setPair k v).mailMarks = s.mailMarks := rfl
@[simp] theorem State.setPair_power : (s.setPair k v).power = s.power := rfl
@[simp] theorem State.setPair_fw : (s.setPair k v).fw = s.fw := rfl
@[simp] theorem State.setPair_core (j : Nat) : (s.setPair k v).core j = s.core j := rfl
@[simp] theorem State.setPair_heal (j : Nat) : (s.setPair k v).heal j = s.heal j := rfl
@[simp] theorem State.setPair_part (j : Nat) : (s.setPair k v).part j = s.part j := rfl
@[simp] theorem State.setPair_ctlOf (j : Nat) : (s.setPair k v).ctlOf j = s.ctlOf j := rfl
@[simp] theorem State.setPair_tile (j : Nat) : (s.setPair k v).tile j = s.tile j := rfl
@[simp] theorem State.setPair_gantry (j : Nat) : (s.setPair k v).gantry j = s.gantry j := rfl
@[simp] theorem State.setPair_slotOf (j : Nat) : (s.setPair k v).slotOf j = s.slotOf j := rfl
@[simp] theorem State.setPair_quay (j : Nat) : (s.setPair k v).quay j = s.quay j := rfl
@[simp] theorem State.setPair_tensor (j : Nat) : (s.setPair k v).tensor j = s.tensor j := rfl
@[simp] theorem State.setPair_intake (j : Nat) : (s.setPair k v).intake j = s.intake j := rfl
@[simp] theorem State.setPair_gov (j : Nat) : (s.setPair k v).gov j = s.gov j := rfl
@[simp] theorem State.setPair_port (j : Nat) : (s.setPair k v).port j = s.port j := rfl
@[simp] theorem State.setPair_host (j : Nat) : (s.setPair k v).host j = s.host j := rfl
@[simp] theorem State.setPair_cfg (i j : Nat) : (s.setPair k v).cfg i j = s.cfg i j := rfl
@[simp] theorem State.setPair_pairs : (s.setPair k v).pairs = tput {} s.pairs k v := rfl
theorem State.setPair_pair (j : Nat) : (s.setPair k v).pair j = if j = k then v else s.pair j := tget_tput _ _ _ _ _
@[simp] theorem State.setPair_pair_same : (s.setPair k v).pair k = v := tget_tput_same _ _ _ _
@[simp] theorem State.setPair_pair_ne (j : Nat) (h : j ≠ k) : (s.setPair k v).pair j = s.pair j := tget_tput_ne _ _ _ _ _ h
end

section
variable (s : State) (k : Nat) (v : Port)
@[simp] theorem State.setPort_pending : (s.setPort k v).pending = s.pending := rfl
@[simp] theorem State.setPort_now : (s.setPort k v).now = s.now := rfl
@[simp] theorem State.setPort_freeCtr : (s.setPort k v).freeCtr = s.freeCtr := rfl
@[simp] theorem State.setPort_resp : (s.setPort k v).resp = s.resp := rfl
@[simp] theorem State.setPort_link : (s.setPort k v).link = s.link := rfl
@[simp] theorem State.setPort_net : (s.setPort k v).net = s.net := rfl
@[simp] theorem State.setPort_transit : (s.setPort k v).transit = s.transit := rfl
@[simp] theorem State.setPort_transitUsed : (s.setPort k v).transitUsed = s.transitUsed := rfl
@[simp] theorem State.setPort_ident : (s.setPort k v).ident = s.ident := rfl
@[simp] theorem State.setPort_cores : (s.setPort k v).cores = s.cores := rfl
@[simp] theorem State.setPort_health : (s.setPort k v).health = s.health := rfl
@[simp] theorem State.setPort_pad : (s.setPort k v).pad = s.pad := rfl
@[simp] theorem State.setPort_marks : (s.setPort k v).marks = s.marks := rfl
@[simp] theorem State.setPort_gantries : (s.setPort k v).gantries = s.gantries := rfl
@[simp] theorem State.setPort_tiles : (s.setPort k v).tiles = s.tiles := rfl
@[simp] theorem State.setPort_boundaries : (s.setPort k v).boundaries = s.boundaries := rfl
@[simp] theorem State.setPort_routersDown : (s.setPort k v).routersDown = s.routersDown := rfl
@[simp] theorem State.setPort_parts : (s.setPort k v).parts = s.parts := rfl
@[simp] theorem State.setPort_ctl : (s.setPort k v).ctl = s.ctl := rfl
@[simp] theorem State.setPort_slots : (s.setPort k v).slots = s.slots := rfl
@[simp] theorem State.setPort_tide : (s.setPort k v).tide = s.tide := rfl
@[simp] theorem State.setPort_rtc : (s.setPort k v).rtc = s.rtc := rfl
@[simp] theorem State.setPort_quays : (s.setPort k v).quays = s.quays := rfl
@[simp] theorem State.setPort_dram : (s.setPort k v).dram = s.dram := rfl
@[simp] theorem State.setPort_flash : (s.setPort k v).flash = s.flash := rfl
@[simp] theorem State.setPort_quayMarks : (s.setPort k v).quayMarks = s.quayMarks := rfl
@[simp] theorem State.setPort_tensors : (s.setPort k v).tensors = s.tensors := rfl
@[simp] theorem State.setPort_intakes : (s.setPort k v).intakes = s.intakes := rfl
@[simp] theorem State.setPort_govs : (s.setPort k v).govs = s.govs := rfl
@[simp] theorem State.setPort_opt : (s.setPort k v).opt = s.opt := rfl
@[simp] theorem State.setPort_pairs : (s.setPort k v).pairs = s.pairs := rfl
@[simp] theorem State.setPort_ledger : (s.setPort k v).ledger = s.ledger := rfl
@[simp] theorem State.setPort_fabric : (s.setPort k v).fabric = s.fabric := rfl
@[simp] theorem State.setPort_bring : (s.setPort k v).bring = s.bring := rfl
@[simp] theorem State.setPort_overlay : (s.setPort k v).overlay = s.overlay := rfl
@[simp] theorem State.setPort_log : (s.setPort k v).log = s.log := rfl
@[simp] theorem State.setPort_mc : (s.setPort k v).mc = s.mc := rfl
@[simp] theorem State.setPort_thermal : (s.setPort k v).thermal = s.thermal := rfl
@[simp] theorem State.setPort_sivar : (s.setPort k v).sivar = s.sivar := rfl
@[simp] theorem State.setPort_hosts : (s.setPort k v).hosts = s.hosts := rfl
@[simp] theorem State.setPort_mail : (s.setPort k v).mail = s.mail := rfl
@[simp] theorem State.setPort_mailMarks : (s.setPort k v).mailMarks = s.mailMarks := rfl
@[simp] theorem State.setPort_power : (s.setPort k v).power = s.power := rfl
@[simp] theorem State.setPort_fw : (s.setPort k v).fw = s.fw := rfl
@[simp] theorem State.setPort_core (j : Nat) : (s.setPort k v).core j = s.core j := rfl
@[simp] theorem State.setPort_heal (j : Nat) : (s.setPort k v).heal j = s.heal j := rfl
@[simp] theorem State.setPort_part (j : Nat) : (s.setPort k v).part j = s.part j := rfl
@[simp] theorem State.setPort_ctlOf (j : Nat) : (s.setPort k v).ctlOf j = s.ctlOf j := rfl
@[simp] theorem State.setPort_tile (j : Nat) : (s.setPort k v).tile j = s.tile j := rfl
@[simp] theorem State.setPort_gantry (j : Nat) : (s.setPort k v).gantry j = s.gantry j := rfl
@[simp] theorem State.setPort_slotOf (j : Nat) : (s.setPort k v).slotOf j = s.slotOf j := rfl
@[simp] theorem State.setPort_quay (j : Nat) : (s.setPort k v).quay j = s.quay j := rfl
@[simp] theorem State.setPort_tensor (j : Nat) : (s.setPort k v).tensor j = s.tensor j := rfl
@[simp] theorem State.setPort_intake (j : Nat) : (s.setPort k v).intake j = s.intake j := rfl
@[simp] theorem State.setPort_gov (j : Nat) : (s.setPort k v).gov j = s.gov j := rfl
@[simp] theorem State.setPort_pair (j : Nat) : (s.setPort k v).pair j = s.pair j := rfl
@[simp] theorem State.setPort_host (j : Nat) : (s.setPort k v).host j = s.host j := rfl
@[simp] theorem State.setPort_cfg (i j : Nat) : (s.setPort k v).cfg i j = s.cfg i j := rfl
@[simp] theorem State.setPort_ports : (s.setPort k v).ports = tput {} s.ports k v := rfl
theorem State.setPort_port (j : Nat) : (s.setPort k v).port j = if j = k then v else s.port j := tget_tput _ _ _ _ _
@[simp] theorem State.setPort_port_same : (s.setPort k v).port k = v := tget_tput_same _ _ _ _
@[simp] theorem State.setPort_port_ne (j : Nat) (h : j ≠ k) : (s.setPort k v).port j = s.port j := tget_tput_ne _ _ _ _ _ h
end

section
variable (s : State) (k : Nat) (v : HostPort)
@[simp] theorem State.setHost_pending : (s.setHost k v).pending = s.pending := rfl
@[simp] theorem State.setHost_now : (s.setHost k v).now = s.now := rfl
@[simp] theorem State.setHost_freeCtr : (s.setHost k v).freeCtr = s.freeCtr := rfl
@[simp] theorem State.setHost_resp : (s.setHost k v).resp = s.resp := rfl
@[simp] theorem State.setHost_link : (s.setHost k v).link = s.link := rfl
@[simp] theorem State.setHost_net : (s.setHost k v).net = s.net := rfl
@[simp] theorem State.setHost_transit : (s.setHost k v).transit = s.transit := rfl
@[simp] theorem State.setHost_transitUsed : (s.setHost k v).transitUsed = s.transitUsed := rfl
@[simp] theorem State.setHost_ident : (s.setHost k v).ident = s.ident := rfl
@[simp] theorem State.setHost_cores : (s.setHost k v).cores = s.cores := rfl
@[simp] theorem State.setHost_health : (s.setHost k v).health = s.health := rfl
@[simp] theorem State.setHost_pad : (s.setHost k v).pad = s.pad := rfl
@[simp] theorem State.setHost_marks : (s.setHost k v).marks = s.marks := rfl
@[simp] theorem State.setHost_gantries : (s.setHost k v).gantries = s.gantries := rfl
@[simp] theorem State.setHost_tiles : (s.setHost k v).tiles = s.tiles := rfl
@[simp] theorem State.setHost_boundaries : (s.setHost k v).boundaries = s.boundaries := rfl
@[simp] theorem State.setHost_routersDown : (s.setHost k v).routersDown = s.routersDown := rfl
@[simp] theorem State.setHost_parts : (s.setHost k v).parts = s.parts := rfl
@[simp] theorem State.setHost_ctl : (s.setHost k v).ctl = s.ctl := rfl
@[simp] theorem State.setHost_slots : (s.setHost k v).slots = s.slots := rfl
@[simp] theorem State.setHost_tide : (s.setHost k v).tide = s.tide := rfl
@[simp] theorem State.setHost_rtc : (s.setHost k v).rtc = s.rtc := rfl
@[simp] theorem State.setHost_quays : (s.setHost k v).quays = s.quays := rfl
@[simp] theorem State.setHost_dram : (s.setHost k v).dram = s.dram := rfl
@[simp] theorem State.setHost_flash : (s.setHost k v).flash = s.flash := rfl
@[simp] theorem State.setHost_quayMarks : (s.setHost k v).quayMarks = s.quayMarks := rfl
@[simp] theorem State.setHost_tensors : (s.setHost k v).tensors = s.tensors := rfl
@[simp] theorem State.setHost_intakes : (s.setHost k v).intakes = s.intakes := rfl
@[simp] theorem State.setHost_govs : (s.setHost k v).govs = s.govs := rfl
@[simp] theorem State.setHost_opt : (s.setHost k v).opt = s.opt := rfl
@[simp] theorem State.setHost_pairs : (s.setHost k v).pairs = s.pairs := rfl
@[simp] theorem State.setHost_ledger : (s.setHost k v).ledger = s.ledger := rfl
@[simp] theorem State.setHost_fabric : (s.setHost k v).fabric = s.fabric := rfl
@[simp] theorem State.setHost_bring : (s.setHost k v).bring = s.bring := rfl
@[simp] theorem State.setHost_overlay : (s.setHost k v).overlay = s.overlay := rfl
@[simp] theorem State.setHost_ports : (s.setHost k v).ports = s.ports := rfl
@[simp] theorem State.setHost_log : (s.setHost k v).log = s.log := rfl
@[simp] theorem State.setHost_mc : (s.setHost k v).mc = s.mc := rfl
@[simp] theorem State.setHost_thermal : (s.setHost k v).thermal = s.thermal := rfl
@[simp] theorem State.setHost_sivar : (s.setHost k v).sivar = s.sivar := rfl
@[simp] theorem State.setHost_mail : (s.setHost k v).mail = s.mail := rfl
@[simp] theorem State.setHost_mailMarks : (s.setHost k v).mailMarks = s.mailMarks := rfl
@[simp] theorem State.setHost_power : (s.setHost k v).power = s.power := rfl
@[simp] theorem State.setHost_fw : (s.setHost k v).fw = s.fw := rfl
@[simp] theorem State.setHost_core (j : Nat) : (s.setHost k v).core j = s.core j := rfl
@[simp] theorem State.setHost_heal (j : Nat) : (s.setHost k v).heal j = s.heal j := rfl
@[simp] theorem State.setHost_part (j : Nat) : (s.setHost k v).part j = s.part j := rfl
@[simp] theorem State.setHost_ctlOf (j : Nat) : (s.setHost k v).ctlOf j = s.ctlOf j := rfl
@[simp] theorem State.setHost_tile (j : Nat) : (s.setHost k v).tile j = s.tile j := rfl
@[simp] theorem State.setHost_gantry (j : Nat) : (s.setHost k v).gantry j = s.gantry j := rfl
@[simp] theorem State.setHost_slotOf (j : Nat) : (s.setHost k v).slotOf j = s.slotOf j := rfl
@[simp] theorem State.setHost_quay (j : Nat) : (s.setHost k v).quay j = s.quay j := rfl
@[simp] theorem State.setHost_tensor (j : Nat) : (s.setHost k v).tensor j = s.tensor j := rfl
@[simp] theorem State.setHost_intake (j : Nat) : (s.setHost k v).intake j = s.intake j := rfl
@[simp] theorem State.setHost_gov (j : Nat) : (s.setHost k v).gov j = s.gov j := rfl
@[simp] theorem State.setHost_pair (j : Nat) : (s.setHost k v).pair j = s.pair j := rfl
@[simp] theorem State.setHost_port (j : Nat) : (s.setHost k v).port j = s.port j := rfl
@[simp] theorem State.setHost_cfg (i j : Nat) : (s.setHost k v).cfg i j = s.cfg i j := rfl
@[simp] theorem State.setHost_hosts : (s.setHost k v).hosts = tput {} s.hosts k v := rfl
theorem State.setHost_host (j : Nat) : (s.setHost k v).host j = if j = k then v else s.host j := tget_tput _ _ _ _ _
@[simp] theorem State.setHost_host_same : (s.setHost k v).host k = v := tget_tput_same _ _ _ _
@[simp] theorem State.setHost_host_ne (j : Nat) (h : j ≠ k) : (s.setHost k v).host j = s.host j := tget_tput_ne _ _ _ _ _ h
end

section
variable (s : State) (n : Nat)
@[simp] theorem State.advance_pending : (s.advance n).pending = s.pending := rfl
@[simp] theorem State.advance_freeCtr : (s.advance n).freeCtr = s.freeCtr := rfl
@[simp] theorem State.advance_resp : (s.advance n).resp = s.resp := rfl
@[simp] theorem State.advance_link : (s.advance n).link = s.link := rfl
@[simp] theorem State.advance_net : (s.advance n).net = s.net := rfl
@[simp] theorem State.advance_transit : (s.advance n).transit = s.transit := rfl
@[simp] theorem State.advance_transitUsed : (s.advance n).transitUsed = s.transitUsed := rfl
@[simp] theorem State.advance_ident : (s.advance n).ident = s.ident := rfl
@[simp] theorem State.advance_cores : (s.advance n).cores = s.cores := rfl
@[simp] theorem State.advance_health : (s.advance n).health = s.health := rfl
@[simp] theorem State.advance_pad : (s.advance n).pad = s.pad := rfl
@[simp] theorem State.advance_marks : (s.advance n).marks = s.marks := rfl
@[simp] theorem State.advance_gantries : (s.advance n).gantries = s.gantries := rfl
@[simp] theorem State.advance_tiles : (s.advance n).tiles = s.tiles := rfl
@[simp] theorem State.advance_boundaries : (s.advance n).boundaries = s.boundaries := rfl
@[simp] theorem State.advance_routersDown : (s.advance n).routersDown = s.routersDown := rfl
@[simp] theorem State.advance_parts : (s.advance n).parts = s.parts := rfl
@[simp] theorem State.advance_ctl : (s.advance n).ctl = s.ctl := rfl
@[simp] theorem State.advance_slots : (s.advance n).slots = s.slots := rfl
@[simp] theorem State.advance_tide : (s.advance n).tide = s.tide := rfl
@[simp] theorem State.advance_quays : (s.advance n).quays = s.quays := rfl
@[simp] theorem State.advance_dram : (s.advance n).dram = s.dram := rfl
@[simp] theorem State.advance_flash : (s.advance n).flash = s.flash := rfl
@[simp] theorem State.advance_quayMarks : (s.advance n).quayMarks = s.quayMarks := rfl
@[simp] theorem State.advance_tensors : (s.advance n).tensors = s.tensors := rfl
@[simp] theorem State.advance_intakes : (s.advance n).intakes = s.intakes := rfl
@[simp] theorem State.advance_govs : (s.advance n).govs = s.govs := rfl
@[simp] theorem State.advance_opt : (s.advance n).opt = s.opt := rfl
@[simp] theorem State.advance_pairs : (s.advance n).pairs = s.pairs := rfl
@[simp] theorem State.advance_ledger : (s.advance n).ledger = s.ledger := rfl
@[simp] theorem State.advance_fabric : (s.advance n).fabric = s.fabric := rfl
@[simp] theorem State.advance_bring : (s.advance n).bring = s.bring := rfl
@[simp] theorem State.advance_overlay : (s.advance n).overlay = s.overlay := rfl
@[simp] theorem State.advance_ports : (s.advance n).ports = s.ports := rfl
@[simp] theorem State.advance_log : (s.advance n).log = s.log := rfl
@[simp] theorem State.advance_mc : (s.advance n).mc = s.mc := rfl
@[simp] theorem State.advance_thermal : (s.advance n).thermal = s.thermal := rfl
@[simp] theorem State.advance_sivar : (s.advance n).sivar = s.sivar := rfl
@[simp] theorem State.advance_hosts : (s.advance n).hosts = s.hosts := rfl
@[simp] theorem State.advance_mail : (s.advance n).mail = s.mail := rfl
@[simp] theorem State.advance_mailMarks : (s.advance n).mailMarks = s.mailMarks := rfl
@[simp] theorem State.advance_power : (s.advance n).power = s.power := rfl
@[simp] theorem State.advance_fw : (s.advance n).fw = s.fw := rfl
@[simp] theorem State.advance_core (j : Nat) : (s.advance n).core j = s.core j := rfl
@[simp] theorem State.advance_heal (j : Nat) : (s.advance n).heal j = s.heal j := rfl
@[simp] theorem State.advance_part (j : Nat) : (s.advance n).part j = s.part j := rfl
@[simp] theorem State.advance_ctlOf (j : Nat) : (s.advance n).ctlOf j = s.ctlOf j := rfl
@[simp] theorem State.advance_tile (j : Nat) : (s.advance n).tile j = s.tile j := rfl
@[simp] theorem State.advance_gantry (j : Nat) : (s.advance n).gantry j = s.gantry j := rfl
@[simp] theorem State.advance_slotOf (j : Nat) : (s.advance n).slotOf j = s.slotOf j := rfl
@[simp] theorem State.advance_quay (j : Nat) : (s.advance n).quay j = s.quay j := rfl
@[simp] theorem State.advance_tensor (j : Nat) : (s.advance n).tensor j = s.tensor j := rfl
@[simp] theorem State.advance_intake (j : Nat) : (s.advance n).intake j = s.intake j := rfl
@[simp] theorem State.advance_gov (j : Nat) : (s.advance n).gov j = s.gov j := rfl
@[simp] theorem State.advance_pair (j : Nat) : (s.advance n).pair j = s.pair j := rfl
@[simp] theorem State.advance_port (j : Nat) : (s.advance n).port j = s.port j := rfl
@[simp] theorem State.advance_host (j : Nat) : (s.advance n).host j = s.host j := rfl
@[simp] theorem State.advance_cfg (i j : Nat) : (s.advance n).cfg i j = s.cfg i j := rfl
@[simp] theorem State.advance_now : (s.advance n).now = max s.now n := rfl
end

section
variable (s : State) (n : Nat)
@[simp] theorem State.toIssue_pending : (s.toIssue n).pending = s.pending := rfl
@[simp] theorem State.toIssue_freeCtr : (s.toIssue n).freeCtr = s.freeCtr := rfl
@[simp] theorem State.toIssue_resp : (s.toIssue n).resp = s.resp := rfl
@[simp] theorem State.toIssue_link : (s.toIssue n).link = s.link := rfl
@[simp] theorem State.toIssue_net : (s.toIssue n).net = s.net := rfl
@[simp] theorem State.toIssue_transit : (s.toIssue n).transit = s.transit := rfl
@[simp] theorem State.toIssue_transitUsed : (s.toIssue n).transitUsed = s.transitUsed := rfl
@[simp] theorem State.toIssue_ident : (s.toIssue n).ident = s.ident := rfl
@[simp] theorem State.toIssue_cores : (s.toIssue n).cores = s.cores := rfl
@[simp] theorem State.toIssue_health : (s.toIssue n).health = s.health := rfl
@[simp] theorem State.toIssue_pad : (s.toIssue n).pad = s.pad := rfl
@[simp] theorem State.toIssue_marks : (s.toIssue n).marks = s.marks := rfl
@[simp] theorem State.toIssue_gantries : (s.toIssue n).gantries = s.gantries := rfl
@[simp] theorem State.toIssue_tiles : (s.toIssue n).tiles = s.tiles := rfl
@[simp] theorem State.toIssue_boundaries : (s.toIssue n).boundaries = s.boundaries := rfl
@[simp] theorem State.toIssue_routersDown : (s.toIssue n).routersDown = s.routersDown := rfl
@[simp] theorem State.toIssue_parts : (s.toIssue n).parts = s.parts := rfl
@[simp] theorem State.toIssue_ctl : (s.toIssue n).ctl = s.ctl := rfl
@[simp] theorem State.toIssue_slots : (s.toIssue n).slots = s.slots := rfl
@[simp] theorem State.toIssue_tide : (s.toIssue n).tide = s.tide := rfl
@[simp] theorem State.toIssue_quays : (s.toIssue n).quays = s.quays := rfl
@[simp] theorem State.toIssue_dram : (s.toIssue n).dram = s.dram := rfl
@[simp] theorem State.toIssue_flash : (s.toIssue n).flash = s.flash := rfl
@[simp] theorem State.toIssue_quayMarks : (s.toIssue n).quayMarks = s.quayMarks := rfl
@[simp] theorem State.toIssue_tensors : (s.toIssue n).tensors = s.tensors := rfl
@[simp] theorem State.toIssue_intakes : (s.toIssue n).intakes = s.intakes := rfl
@[simp] theorem State.toIssue_govs : (s.toIssue n).govs = s.govs := rfl
@[simp] theorem State.toIssue_opt : (s.toIssue n).opt = s.opt := rfl
@[simp] theorem State.toIssue_pairs : (s.toIssue n).pairs = s.pairs := rfl
@[simp] theorem State.toIssue_ledger : (s.toIssue n).ledger = s.ledger := rfl
@[simp] theorem State.toIssue_fabric : (s.toIssue n).fabric = s.fabric := rfl
@[simp] theorem State.toIssue_bring : (s.toIssue n).bring = s.bring := rfl
@[simp] theorem State.toIssue_overlay : (s.toIssue n).overlay = s.overlay := rfl
@[simp] theorem State.toIssue_ports : (s.toIssue n).ports = s.ports := rfl
@[simp] theorem State.toIssue_log : (s.toIssue n).log = s.log := rfl
@[simp] theorem State.toIssue_mc : (s.toIssue n).mc = s.mc := rfl
@[simp] theorem State.toIssue_thermal : (s.toIssue n).thermal = s.thermal := rfl
@[simp] theorem State.toIssue_sivar : (s.toIssue n).sivar = s.sivar := rfl
@[simp] theorem State.toIssue_hosts : (s.toIssue n).hosts = s.hosts := rfl
@[simp] theorem State.toIssue_mail : (s.toIssue n).mail = s.mail := rfl
@[simp] theorem State.toIssue_mailMarks : (s.toIssue n).mailMarks = s.mailMarks := rfl
@[simp] theorem State.toIssue_power : (s.toIssue n).power = s.power := rfl
@[simp] theorem State.toIssue_fw : (s.toIssue n).fw = s.fw := rfl
@[simp] theorem State.toIssue_core (j : Nat) : (s.toIssue n).core j = s.core j := rfl
@[simp] theorem State.toIssue_heal (j : Nat) : (s.toIssue n).heal j = s.heal j := rfl
@[simp] theorem State.toIssue_part (j : Nat) : (s.toIssue n).part j = s.part j := rfl
@[simp] theorem State.toIssue_ctlOf (j : Nat) : (s.toIssue n).ctlOf j = s.ctlOf j := rfl
@[simp] theorem State.toIssue_tile (j : Nat) : (s.toIssue n).tile j = s.tile j := rfl
@[simp] theorem State.toIssue_gantry (j : Nat) : (s.toIssue n).gantry j = s.gantry j := rfl
@[simp] theorem State.toIssue_slotOf (j : Nat) : (s.toIssue n).slotOf j = s.slotOf j := rfl
@[simp] theorem State.toIssue_quay (j : Nat) : (s.toIssue n).quay j = s.quay j := rfl
@[simp] theorem State.toIssue_tensor (j : Nat) : (s.toIssue n).tensor j = s.tensor j := rfl
@[simp] theorem State.toIssue_intake (j : Nat) : (s.toIssue n).intake j = s.intake j := rfl
@[simp] theorem State.toIssue_gov (j : Nat) : (s.toIssue n).gov j = s.gov j := rfl
@[simp] theorem State.toIssue_pair (j : Nat) : (s.toIssue n).pair j = s.pair j := rfl
@[simp] theorem State.toIssue_port (j : Nat) : (s.toIssue n).port j = s.port j := rfl
@[simp] theorem State.toIssue_host (j : Nat) : (s.toIssue n).host j = s.host j := rfl
@[simp] theorem State.toIssue_cfg (i j : Nat) : (s.toIssue n).cfg i j = s.cfg i j := rfl
@[simp] theorem State.toIssue_now : (s.toIssue n).now = max s.now (s.core n).nextIssue := rfl
end

section
variable (s : State)
@[simp] theorem State.bump_pending : (s.bump).pending = s.pending := rfl
@[simp] theorem State.bump_now : (s.bump).now = s.now := rfl
@[simp] theorem State.bump_resp : (s.bump).resp = s.resp := rfl
@[simp] theorem State.bump_link : (s.bump).link = s.link := rfl
@[simp] theorem State.bump_net : (s.bump).net = s.net := rfl
@[simp] theorem State.bump_transit : (s.bump).transit = s.transit := rfl
@[simp] theorem State.bump_transitUsed : (s.bump).transitUsed = s.transitUsed := rfl
@[simp] theorem State.bump_ident : (s.bump).ident = s.ident := rfl
@[simp] theorem State.bump_cores : (s.bump).cores = s.cores := rfl
@[simp] theorem State.bump_health : (s.bump).health = s.health := rfl
@[simp] theorem State.bump_pad : (s.bump).pad = s.pad := rfl
@[simp] theorem State.bump_marks : (s.bump).marks = s.marks := rfl
@[simp] theorem State.bump_gantries : (s.bump).gantries = s.gantries := rfl
@[simp] theorem State.bump_tiles : (s.bump).tiles = s.tiles := rfl
@[simp] theorem State.bump_boundaries : (s.bump).boundaries = s.boundaries := rfl
@[simp] theorem State.bump_routersDown : (s.bump).routersDown = s.routersDown := rfl
@[simp] theorem State.bump_parts : (s.bump).parts = s.parts := rfl
@[simp] theorem State.bump_ctl : (s.bump).ctl = s.ctl := rfl
@[simp] theorem State.bump_slots : (s.bump).slots = s.slots := rfl
@[simp] theorem State.bump_tide : (s.bump).tide = s.tide := rfl
@[simp] theorem State.bump_rtc : (s.bump).rtc = s.rtc := rfl
@[simp] theorem State.bump_quays : (s.bump).quays = s.quays := rfl
@[simp] theorem State.bump_dram : (s.bump).dram = s.dram := rfl
@[simp] theorem State.bump_flash : (s.bump).flash = s.flash := rfl
@[simp] theorem State.bump_quayMarks : (s.bump).quayMarks = s.quayMarks := rfl
@[simp] theorem State.bump_tensors : (s.bump).tensors = s.tensors := rfl
@[simp] theorem State.bump_intakes : (s.bump).intakes = s.intakes := rfl
@[simp] theorem State.bump_govs : (s.bump).govs = s.govs := rfl
@[simp] theorem State.bump_opt : (s.bump).opt = s.opt := rfl
@[simp] theorem State.bump_pairs : (s.bump).pairs = s.pairs := rfl
@[simp] theorem State.bump_ledger : (s.bump).ledger = s.ledger := rfl
@[simp] theorem State.bump_fabric : (s.bump).fabric = s.fabric := rfl
@[simp] theorem State.bump_bring : (s.bump).bring = s.bring := rfl
@[simp] theorem State.bump_overlay : (s.bump).overlay = s.overlay := rfl
@[simp] theorem State.bump_ports : (s.bump).ports = s.ports := rfl
@[simp] theorem State.bump_log : (s.bump).log = s.log := rfl
@[simp] theorem State.bump_mc : (s.bump).mc = s.mc := rfl
@[simp] theorem State.bump_thermal : (s.bump).thermal = s.thermal := rfl
@[simp] theorem State.bump_sivar : (s.bump).sivar = s.sivar := rfl
@[simp] theorem State.bump_hosts : (s.bump).hosts = s.hosts := rfl
@[simp] theorem State.bump_mail : (s.bump).mail = s.mail := rfl
@[simp] theorem State.bump_mailMarks : (s.bump).mailMarks = s.mailMarks := rfl
@[simp] theorem State.bump_power : (s.bump).power = s.power := rfl
@[simp] theorem State.bump_fw : (s.bump).fw = s.fw := rfl
@[simp] theorem State.bump_core (j : Nat) : (s.bump).core j = s.core j := rfl
@[simp] theorem State.bump_heal (j : Nat) : (s.bump).heal j = s.heal j := rfl
@[simp] theorem State.bump_part (j : Nat) : (s.bump).part j = s.part j := rfl
@[simp] theorem State.bump_ctlOf (j : Nat) : (s.bump).ctlOf j = s.ctlOf j := rfl
@[simp] theorem State.bump_tile (j : Nat) : (s.bump).tile j = s.tile j := rfl
@[simp] theorem State.bump_gantry (j : Nat) : (s.bump).gantry j = s.gantry j := rfl
@[simp] theorem State.bump_slotOf (j : Nat) : (s.bump).slotOf j = s.slotOf j := rfl
@[simp] theorem State.bump_quay (j : Nat) : (s.bump).quay j = s.quay j := rfl
@[simp] theorem State.bump_tensor (j : Nat) : (s.bump).tensor j = s.tensor j := rfl
@[simp] theorem State.bump_intake (j : Nat) : (s.bump).intake j = s.intake j := rfl
@[simp] theorem State.bump_gov (j : Nat) : (s.bump).gov j = s.gov j := rfl
@[simp] theorem State.bump_pair (j : Nat) : (s.bump).pair j = s.pair j := rfl
@[simp] theorem State.bump_port (j : Nat) : (s.bump).port j = s.port j := rfl
@[simp] theorem State.bump_host (j : Nat) : (s.bump).host j = s.host j := rfl
@[simp] theorem State.bump_cfg (i j : Nat) : (s.bump).cfg i j = s.cfg i j := rfl
@[simp] theorem State.bump_freeCtr : s.bump.freeCtr = s.freeCtr + 1 := rfl
end

section
variable (s : State) (a b d : Nat)
@[simp] theorem State.journal_pending : (s.journal a b d).pending = s.pending := rfl
@[simp] theorem State.journal_now : (s.journal a b d).now = s.now := rfl
@[simp] theorem State.journal_freeCtr : (s.journal a b d).freeCtr = s.freeCtr := rfl
@[simp] theorem State.journal_resp : (s.journal a b d).resp = s.resp := rfl
@[simp] theorem State.journal_link : (s.journal a b d).link = s.link := rfl
@[simp] theorem State.journal_net : (s.journal a b d).net = s.net := rfl
@[simp] theorem State.journal_transit : (s.journal a b d).transit = s.transit := rfl
@[simp] theorem State.journal_transitUsed : (s.journal a b d).transitUsed = s.transitUsed := rfl
@[simp] theorem State.journal_ident : (s.journal a b d).ident = s.ident := rfl
@[simp] theorem State.journal_cores : (s.journal a b d).cores = s.cores := rfl
@[simp] theorem State.journal_health : (s.journal a b d).health = s.health := rfl
@[simp] theorem State.journal_pad : (s.journal a b d).pad = s.pad := rfl
@[simp] theorem State.journal_marks : (s.journal a b d).marks = s.marks := rfl
@[simp] theorem State.journal_gantries : (s.journal a b d).gantries = s.gantries := rfl
@[simp] theorem State.journal_tiles : (s.journal a b d).tiles = s.tiles := rfl
@[simp] theorem State.journal_boundaries : (s.journal a b d).boundaries = s.boundaries := rfl
@[simp] theorem State.journal_routersDown : (s.journal a b d).routersDown = s.routersDown := rfl
@[simp] theorem State.journal_parts : (s.journal a b d).parts = s.parts := rfl
@[simp] theorem State.journal_ctl : (s.journal a b d).ctl = s.ctl := rfl
@[simp] theorem State.journal_slots : (s.journal a b d).slots = s.slots := rfl
@[simp] theorem State.journal_tide : (s.journal a b d).tide = s.tide := rfl
@[simp] theorem State.journal_rtc : (s.journal a b d).rtc = s.rtc := rfl
@[simp] theorem State.journal_quays : (s.journal a b d).quays = s.quays := rfl
@[simp] theorem State.journal_dram : (s.journal a b d).dram = s.dram := rfl
@[simp] theorem State.journal_flash : (s.journal a b d).flash = s.flash := rfl
@[simp] theorem State.journal_quayMarks : (s.journal a b d).quayMarks = s.quayMarks := rfl
@[simp] theorem State.journal_tensors : (s.journal a b d).tensors = s.tensors := rfl
@[simp] theorem State.journal_intakes : (s.journal a b d).intakes = s.intakes := rfl
@[simp] theorem State.journal_govs : (s.journal a b d).govs = s.govs := rfl
@[simp] theorem State.journal_opt : (s.journal a b d).opt = s.opt := rfl
@[simp] theorem State.journal_pairs : (s.journal a b d).pairs = s.pairs := rfl
@[simp] theorem State.journal_ledger : (s.journal a b d).ledger = s.ledger := rfl
@[simp] theorem State.journal_fabric : (s.journal a b d).fabric = s.fabric := rfl
@[simp] theorem State.journal_bring : (s.journal a b d).bring = s.bring := rfl
@[simp] theorem State.journal_overlay : (s.journal a b d).overlay = s.overlay := rfl
@[simp] theorem State.journal_ports : (s.journal a b d).ports = s.ports := rfl
@[simp] theorem State.journal_log : (s.journal a b d).log = s.log := rfl
@[simp] theorem State.journal_thermal : (s.journal a b d).thermal = s.thermal := rfl
@[simp] theorem State.journal_sivar : (s.journal a b d).sivar = s.sivar := rfl
@[simp] theorem State.journal_hosts : (s.journal a b d).hosts = s.hosts := rfl
@[simp] theorem State.journal_mail : (s.journal a b d).mail = s.mail := rfl
@[simp] theorem State.journal_mailMarks : (s.journal a b d).mailMarks = s.mailMarks := rfl
@[simp] theorem State.journal_power : (s.journal a b d).power = s.power := rfl
@[simp] theorem State.journal_fw : (s.journal a b d).fw = s.fw := rfl
@[simp] theorem State.journal_core (j : Nat) : (s.journal a b d).core j = s.core j := rfl
@[simp] theorem State.journal_heal (j : Nat) : (s.journal a b d).heal j = s.heal j := rfl
@[simp] theorem State.journal_part (j : Nat) : (s.journal a b d).part j = s.part j := rfl
@[simp] theorem State.journal_ctlOf (j : Nat) : (s.journal a b d).ctlOf j = s.ctlOf j := rfl
@[simp] theorem State.journal_tile (j : Nat) : (s.journal a b d).tile j = s.tile j := rfl
@[simp] theorem State.journal_gantry (j : Nat) : (s.journal a b d).gantry j = s.gantry j := rfl
@[simp] theorem State.journal_slotOf (j : Nat) : (s.journal a b d).slotOf j = s.slotOf j := rfl
@[simp] theorem State.journal_quay (j : Nat) : (s.journal a b d).quay j = s.quay j := rfl
@[simp] theorem State.journal_tensor (j : Nat) : (s.journal a b d).tensor j = s.tensor j := rfl
@[simp] theorem State.journal_intake (j : Nat) : (s.journal a b d).intake j = s.intake j := rfl
@[simp] theorem State.journal_gov (j : Nat) : (s.journal a b d).gov j = s.gov j := rfl
@[simp] theorem State.journal_pair (j : Nat) : (s.journal a b d).pair j = s.pair j := rfl
@[simp] theorem State.journal_port (j : Nat) : (s.journal a b d).port j = s.port j := rfl
@[simp] theorem State.journal_host (j : Nat) : (s.journal a b d).host j = s.host j := rfl
@[simp] theorem State.journal_cfg (i j : Nat) : (s.journal a b d).cfg i j = s.cfg i j := rfl
end

section
variable (s : State) (a b : Nat)
@[simp] theorem State.journalDone_pending : (s.journalDone a b).pending = s.pending := rfl
@[simp] theorem State.journalDone_now : (s.journalDone a b).now = s.now := rfl
@[simp] theorem State.journalDone_freeCtr : (s.journalDone a b).freeCtr = s.freeCtr := rfl
@[simp] theorem State.journalDone_resp : (s.journalDone a b).resp = s.resp := rfl
@[simp] theorem State.journalDone_link : (s.journalDone a b).link = s.link := rfl
@[simp] theorem State.journalDone_net : (s.journalDone a b).net = s.net := rfl
@[simp] theorem State.journalDone_transit : (s.journalDone a b).transit = s.transit := rfl
@[simp] theorem State.journalDone_transitUsed : (s.journalDone a b).transitUsed = s.transitUsed := rfl
@[simp] theorem State.journalDone_ident : (s.journalDone a b).ident = s.ident := rfl
@[simp] theorem State.journalDone_cores : (s.journalDone a b).cores = s.cores := rfl
@[simp] theorem State.journalDone_health : (s.journalDone a b).health = s.health := rfl
@[simp] theorem State.journalDone_pad : (s.journalDone a b).pad = s.pad := rfl
@[simp] theorem State.journalDone_marks : (s.journalDone a b).marks = s.marks := rfl
@[simp] theorem State.journalDone_gantries : (s.journalDone a b).gantries = s.gantries := rfl
@[simp] theorem State.journalDone_tiles : (s.journalDone a b).tiles = s.tiles := rfl
@[simp] theorem State.journalDone_boundaries : (s.journalDone a b).boundaries = s.boundaries := rfl
@[simp] theorem State.journalDone_routersDown : (s.journalDone a b).routersDown = s.routersDown := rfl
@[simp] theorem State.journalDone_parts : (s.journalDone a b).parts = s.parts := rfl
@[simp] theorem State.journalDone_ctl : (s.journalDone a b).ctl = s.ctl := rfl
@[simp] theorem State.journalDone_slots : (s.journalDone a b).slots = s.slots := rfl
@[simp] theorem State.journalDone_tide : (s.journalDone a b).tide = s.tide := rfl
@[simp] theorem State.journalDone_rtc : (s.journalDone a b).rtc = s.rtc := rfl
@[simp] theorem State.journalDone_quays : (s.journalDone a b).quays = s.quays := rfl
@[simp] theorem State.journalDone_dram : (s.journalDone a b).dram = s.dram := rfl
@[simp] theorem State.journalDone_flash : (s.journalDone a b).flash = s.flash := rfl
@[simp] theorem State.journalDone_quayMarks : (s.journalDone a b).quayMarks = s.quayMarks := rfl
@[simp] theorem State.journalDone_tensors : (s.journalDone a b).tensors = s.tensors := rfl
@[simp] theorem State.journalDone_intakes : (s.journalDone a b).intakes = s.intakes := rfl
@[simp] theorem State.journalDone_govs : (s.journalDone a b).govs = s.govs := rfl
@[simp] theorem State.journalDone_opt : (s.journalDone a b).opt = s.opt := rfl
@[simp] theorem State.journalDone_pairs : (s.journalDone a b).pairs = s.pairs := rfl
@[simp] theorem State.journalDone_ledger : (s.journalDone a b).ledger = s.ledger := rfl
@[simp] theorem State.journalDone_fabric : (s.journalDone a b).fabric = s.fabric := rfl
@[simp] theorem State.journalDone_bring : (s.journalDone a b).bring = s.bring := rfl
@[simp] theorem State.journalDone_overlay : (s.journalDone a b).overlay = s.overlay := rfl
@[simp] theorem State.journalDone_ports : (s.journalDone a b).ports = s.ports := rfl
@[simp] theorem State.journalDone_log : (s.journalDone a b).log = s.log := rfl
@[simp] theorem State.journalDone_thermal : (s.journalDone a b).thermal = s.thermal := rfl
@[simp] theorem State.journalDone_sivar : (s.journalDone a b).sivar = s.sivar := rfl
@[simp] theorem State.journalDone_hosts : (s.journalDone a b).hosts = s.hosts := rfl
@[simp] theorem State.journalDone_mail : (s.journalDone a b).mail = s.mail := rfl
@[simp] theorem State.journalDone_mailMarks : (s.journalDone a b).mailMarks = s.mailMarks := rfl
@[simp] theorem State.journalDone_power : (s.journalDone a b).power = s.power := rfl
@[simp] theorem State.journalDone_fw : (s.journalDone a b).fw = s.fw := rfl
@[simp] theorem State.journalDone_core (j : Nat) : (s.journalDone a b).core j = s.core j := rfl
@[simp] theorem State.journalDone_heal (j : Nat) : (s.journalDone a b).heal j = s.heal j := rfl
@[simp] theorem State.journalDone_part (j : Nat) : (s.journalDone a b).part j = s.part j := rfl
@[simp] theorem State.journalDone_ctlOf (j : Nat) : (s.journalDone a b).ctlOf j = s.ctlOf j := rfl
@[simp] theorem State.journalDone_tile (j : Nat) : (s.journalDone a b).tile j = s.tile j := rfl
@[simp] theorem State.journalDone_gantry (j : Nat) : (s.journalDone a b).gantry j = s.gantry j := rfl
@[simp] theorem State.journalDone_slotOf (j : Nat) : (s.journalDone a b).slotOf j = s.slotOf j := rfl
@[simp] theorem State.journalDone_quay (j : Nat) : (s.journalDone a b).quay j = s.quay j := rfl
@[simp] theorem State.journalDone_tensor (j : Nat) : (s.journalDone a b).tensor j = s.tensor j := rfl
@[simp] theorem State.journalDone_intake (j : Nat) : (s.journalDone a b).intake j = s.intake j := rfl
@[simp] theorem State.journalDone_gov (j : Nat) : (s.journalDone a b).gov j = s.gov j := rfl
@[simp] theorem State.journalDone_pair (j : Nat) : (s.journalDone a b).pair j = s.pair j := rfl
@[simp] theorem State.journalDone_port (j : Nat) : (s.journalDone a b).port j = s.port j := rfl
@[simp] theorem State.journalDone_host (j : Nat) : (s.journalDone a b).host j = s.host j := rfl
@[simp] theorem State.journalDone_cfg (i j : Nat) : (s.journalDone a b).cfg i j = s.cfg i j := rfl
end

section
variable (s : State) (a : Nat)
@[simp] theorem State.answer_pending : (s.answer a).pending = s.pending := rfl
@[simp] theorem State.answer_now : (s.answer a).now = s.now := rfl
@[simp] theorem State.answer_freeCtr : (s.answer a).freeCtr = s.freeCtr := rfl
@[simp] theorem State.answer_link : (s.answer a).link = s.link := rfl
@[simp] theorem State.answer_net : (s.answer a).net = s.net := rfl
@[simp] theorem State.answer_transit : (s.answer a).transit = s.transit := rfl
@[simp] theorem State.answer_transitUsed : (s.answer a).transitUsed = s.transitUsed := rfl
@[simp] theorem State.answer_ident : (s.answer a).ident = s.ident := rfl
@[simp] theorem State.answer_cores : (s.answer a).cores = s.cores := rfl
@[simp] theorem State.answer_health : (s.answer a).health = s.health := rfl
@[simp] theorem State.answer_pad : (s.answer a).pad = s.pad := rfl
@[simp] theorem State.answer_marks : (s.answer a).marks = s.marks := rfl
@[simp] theorem State.answer_gantries : (s.answer a).gantries = s.gantries := rfl
@[simp] theorem State.answer_tiles : (s.answer a).tiles = s.tiles := rfl
@[simp] theorem State.answer_boundaries : (s.answer a).boundaries = s.boundaries := rfl
@[simp] theorem State.answer_routersDown : (s.answer a).routersDown = s.routersDown := rfl
@[simp] theorem State.answer_parts : (s.answer a).parts = s.parts := rfl
@[simp] theorem State.answer_ctl : (s.answer a).ctl = s.ctl := rfl
@[simp] theorem State.answer_slots : (s.answer a).slots = s.slots := rfl
@[simp] theorem State.answer_tide : (s.answer a).tide = s.tide := rfl
@[simp] theorem State.answer_rtc : (s.answer a).rtc = s.rtc := rfl
@[simp] theorem State.answer_quays : (s.answer a).quays = s.quays := rfl
@[simp] theorem State.answer_dram : (s.answer a).dram = s.dram := rfl
@[simp] theorem State.answer_flash : (s.answer a).flash = s.flash := rfl
@[simp] theorem State.answer_quayMarks : (s.answer a).quayMarks = s.quayMarks := rfl
@[simp] theorem State.answer_tensors : (s.answer a).tensors = s.tensors := rfl
@[simp] theorem State.answer_intakes : (s.answer a).intakes = s.intakes := rfl
@[simp] theorem State.answer_govs : (s.answer a).govs = s.govs := rfl
@[simp] theorem State.answer_opt : (s.answer a).opt = s.opt := rfl
@[simp] theorem State.answer_pairs : (s.answer a).pairs = s.pairs := rfl
@[simp] theorem State.answer_ledger : (s.answer a).ledger = s.ledger := rfl
@[simp] theorem State.answer_fabric : (s.answer a).fabric = s.fabric := rfl
@[simp] theorem State.answer_bring : (s.answer a).bring = s.bring := rfl
@[simp] theorem State.answer_overlay : (s.answer a).overlay = s.overlay := rfl
@[simp] theorem State.answer_ports : (s.answer a).ports = s.ports := rfl
@[simp] theorem State.answer_log : (s.answer a).log = s.log := rfl
@[simp] theorem State.answer_mc : (s.answer a).mc = s.mc := rfl
@[simp] theorem State.answer_thermal : (s.answer a).thermal = s.thermal := rfl
@[simp] theorem State.answer_sivar : (s.answer a).sivar = s.sivar := rfl
@[simp] theorem State.answer_hosts : (s.answer a).hosts = s.hosts := rfl
@[simp] theorem State.answer_mail : (s.answer a).mail = s.mail := rfl
@[simp] theorem State.answer_mailMarks : (s.answer a).mailMarks = s.mailMarks := rfl
@[simp] theorem State.answer_power : (s.answer a).power = s.power := rfl
@[simp] theorem State.answer_fw : (s.answer a).fw = s.fw := rfl
@[simp] theorem State.answer_core (j : Nat) : (s.answer a).core j = s.core j := rfl
@[simp] theorem State.answer_heal (j : Nat) : (s.answer a).heal j = s.heal j := rfl
@[simp] theorem State.answer_part (j : Nat) : (s.answer a).part j = s.part j := rfl
@[simp] theorem State.answer_ctlOf (j : Nat) : (s.answer a).ctlOf j = s.ctlOf j := rfl
@[simp] theorem State.answer_tile (j : Nat) : (s.answer a).tile j = s.tile j := rfl
@[simp] theorem State.answer_gantry (j : Nat) : (s.answer a).gantry j = s.gantry j := rfl
@[simp] theorem State.answer_slotOf (j : Nat) : (s.answer a).slotOf j = s.slotOf j := rfl
@[simp] theorem State.answer_quay (j : Nat) : (s.answer a).quay j = s.quay j := rfl
@[simp] theorem State.answer_tensor (j : Nat) : (s.answer a).tensor j = s.tensor j := rfl
@[simp] theorem State.answer_intake (j : Nat) : (s.answer a).intake j = s.intake j := rfl
@[simp] theorem State.answer_gov (j : Nat) : (s.answer a).gov j = s.gov j := rfl
@[simp] theorem State.answer_pair (j : Nat) : (s.answer a).pair j = s.pair j := rfl
@[simp] theorem State.answer_port (j : Nat) : (s.answer a).port j = s.port j := rfl
@[simp] theorem State.answer_host (j : Nat) : (s.answer a).host j = s.host j := rfl
@[simp] theorem State.answer_cfg (i j : Nat) : (s.answer a).cfg i j = s.cfg i j := rfl
end

section
variable (s : State) (a : List Byte)
@[simp] theorem State.answerData_pending : (s.answerData a).pending = s.pending := rfl
@[simp] theorem State.answerData_now : (s.answerData a).now = s.now := rfl
@[simp] theorem State.answerData_freeCtr : (s.answerData a).freeCtr = s.freeCtr := rfl
@[simp] theorem State.answerData_link : (s.answerData a).link = s.link := rfl
@[simp] theorem State.answerData_net : (s.answerData a).net = s.net := rfl
@[simp] theorem State.answerData_transit : (s.answerData a).transit = s.transit := rfl
@[simp] theorem State.answerData_transitUsed : (s.answerData a).transitUsed = s.transitUsed := rfl
@[simp] theorem State.answerData_ident : (s.answerData a).ident = s.ident := rfl
@[simp] theorem State.answerData_cores : (s.answerData a).cores = s.cores := rfl
@[simp] theorem State.answerData_health : (s.answerData a).health = s.health := rfl
@[simp] theorem State.answerData_pad : (s.answerData a).pad = s.pad := rfl
@[simp] theorem State.answerData_marks : (s.answerData a).marks = s.marks := rfl
@[simp] theorem State.answerData_gantries : (s.answerData a).gantries = s.gantries := rfl
@[simp] theorem State.answerData_tiles : (s.answerData a).tiles = s.tiles := rfl
@[simp] theorem State.answerData_boundaries : (s.answerData a).boundaries = s.boundaries := rfl
@[simp] theorem State.answerData_routersDown : (s.answerData a).routersDown = s.routersDown := rfl
@[simp] theorem State.answerData_parts : (s.answerData a).parts = s.parts := rfl
@[simp] theorem State.answerData_ctl : (s.answerData a).ctl = s.ctl := rfl
@[simp] theorem State.answerData_slots : (s.answerData a).slots = s.slots := rfl
@[simp] theorem State.answerData_tide : (s.answerData a).tide = s.tide := rfl
@[simp] theorem State.answerData_rtc : (s.answerData a).rtc = s.rtc := rfl
@[simp] theorem State.answerData_quays : (s.answerData a).quays = s.quays := rfl
@[simp] theorem State.answerData_dram : (s.answerData a).dram = s.dram := rfl
@[simp] theorem State.answerData_flash : (s.answerData a).flash = s.flash := rfl
@[simp] theorem State.answerData_quayMarks : (s.answerData a).quayMarks = s.quayMarks := rfl
@[simp] theorem State.answerData_tensors : (s.answerData a).tensors = s.tensors := rfl
@[simp] theorem State.answerData_intakes : (s.answerData a).intakes = s.intakes := rfl
@[simp] theorem State.answerData_govs : (s.answerData a).govs = s.govs := rfl
@[simp] theorem State.answerData_opt : (s.answerData a).opt = s.opt := rfl
@[simp] theorem State.answerData_pairs : (s.answerData a).pairs = s.pairs := rfl
@[simp] theorem State.answerData_ledger : (s.answerData a).ledger = s.ledger := rfl
@[simp] theorem State.answerData_fabric : (s.answerData a).fabric = s.fabric := rfl
@[simp] theorem State.answerData_bring : (s.answerData a).bring = s.bring := rfl
@[simp] theorem State.answerData_overlay : (s.answerData a).overlay = s.overlay := rfl
@[simp] theorem State.answerData_ports : (s.answerData a).ports = s.ports := rfl
@[simp] theorem State.answerData_log : (s.answerData a).log = s.log := rfl
@[simp] theorem State.answerData_mc : (s.answerData a).mc = s.mc := rfl
@[simp] theorem State.answerData_thermal : (s.answerData a).thermal = s.thermal := rfl
@[simp] theorem State.answerData_sivar : (s.answerData a).sivar = s.sivar := rfl
@[simp] theorem State.answerData_hosts : (s.answerData a).hosts = s.hosts := rfl
@[simp] theorem State.answerData_mail : (s.answerData a).mail = s.mail := rfl
@[simp] theorem State.answerData_mailMarks : (s.answerData a).mailMarks = s.mailMarks := rfl
@[simp] theorem State.answerData_power : (s.answerData a).power = s.power := rfl
@[simp] theorem State.answerData_fw : (s.answerData a).fw = s.fw := rfl
@[simp] theorem State.answerData_core (j : Nat) : (s.answerData a).core j = s.core j := rfl
@[simp] theorem State.answerData_heal (j : Nat) : (s.answerData a).heal j = s.heal j := rfl
@[simp] theorem State.answerData_part (j : Nat) : (s.answerData a).part j = s.part j := rfl
@[simp] theorem State.answerData_ctlOf (j : Nat) : (s.answerData a).ctlOf j = s.ctlOf j := rfl
@[simp] theorem State.answerData_tile (j : Nat) : (s.answerData a).tile j = s.tile j := rfl
@[simp] theorem State.answerData_gantry (j : Nat) : (s.answerData a).gantry j = s.gantry j := rfl
@[simp] theorem State.answerData_slotOf (j : Nat) : (s.answerData a).slotOf j = s.slotOf j := rfl
@[simp] theorem State.answerData_quay (j : Nat) : (s.answerData a).quay j = s.quay j := rfl
@[simp] theorem State.answerData_tensor (j : Nat) : (s.answerData a).tensor j = s.tensor j := rfl
@[simp] theorem State.answerData_intake (j : Nat) : (s.answerData a).intake j = s.intake j := rfl
@[simp] theorem State.answerData_gov (j : Nat) : (s.answerData a).gov j = s.gov j := rfl
@[simp] theorem State.answerData_pair (j : Nat) : (s.answerData a).pair j = s.pair j := rfl
@[simp] theorem State.answerData_port (j : Nat) : (s.answerData a).port j = s.port j := rfl
@[simp] theorem State.answerData_host (j : Nat) : (s.answerData a).host j = s.host j := rfl
@[simp] theorem State.answerData_cfg (i j : Nat) : (s.answerData a).cfg i j = s.cfg i j := rfl
end

section
variable (s : State) (a : Tbl (List Byte))
@[simp] theorem State.newConfig_pending : (s.newConfig a).pending = s.pending := rfl
@[simp] theorem State.newConfig_now : (s.newConfig a).now = s.now := rfl
@[simp] theorem State.newConfig_freeCtr : (s.newConfig a).freeCtr = s.freeCtr := rfl
@[simp] theorem State.newConfig_resp : (s.newConfig a).resp = s.resp := rfl
@[simp] theorem State.newConfig_link : (s.newConfig a).link = s.link := rfl
@[simp] theorem State.newConfig_net : (s.newConfig a).net = s.net := rfl
@[simp] theorem State.newConfig_transit : (s.newConfig a).transit = s.transit := rfl
@[simp] theorem State.newConfig_transitUsed : (s.newConfig a).transitUsed = s.transitUsed := rfl
@[simp] theorem State.newConfig_ident : (s.newConfig a).ident = s.ident := rfl
@[simp] theorem State.newConfig_cores : (s.newConfig a).cores = s.cores := rfl
@[simp] theorem State.newConfig_health : (s.newConfig a).health = s.health := rfl
@[simp] theorem State.newConfig_pad : (s.newConfig a).pad = s.pad := rfl
@[simp] theorem State.newConfig_marks : (s.newConfig a).marks = s.marks := rfl
@[simp] theorem State.newConfig_gantries : (s.newConfig a).gantries = s.gantries := rfl
@[simp] theorem State.newConfig_tiles : (s.newConfig a).tiles = s.tiles := rfl
@[simp] theorem State.newConfig_boundaries : (s.newConfig a).boundaries = s.boundaries := rfl
@[simp] theorem State.newConfig_routersDown : (s.newConfig a).routersDown = s.routersDown := rfl
@[simp] theorem State.newConfig_parts : (s.newConfig a).parts = s.parts := rfl
@[simp] theorem State.newConfig_ctl : (s.newConfig a).ctl = s.ctl := rfl
@[simp] theorem State.newConfig_slots : (s.newConfig a).slots = s.slots := rfl
@[simp] theorem State.newConfig_tide : (s.newConfig a).tide = s.tide := rfl
@[simp] theorem State.newConfig_rtc : (s.newConfig a).rtc = s.rtc := rfl
@[simp] theorem State.newConfig_quays : (s.newConfig a).quays = s.quays := rfl
@[simp] theorem State.newConfig_dram : (s.newConfig a).dram = s.dram := rfl
@[simp] theorem State.newConfig_flash : (s.newConfig a).flash = s.flash := rfl
@[simp] theorem State.newConfig_quayMarks : (s.newConfig a).quayMarks = s.quayMarks := rfl
@[simp] theorem State.newConfig_tensors : (s.newConfig a).tensors = s.tensors := rfl
@[simp] theorem State.newConfig_intakes : (s.newConfig a).intakes = s.intakes := rfl
@[simp] theorem State.newConfig_govs : (s.newConfig a).govs = s.govs := rfl
@[simp] theorem State.newConfig_opt : (s.newConfig a).opt = s.opt := rfl
@[simp] theorem State.newConfig_pairs : (s.newConfig a).pairs = s.pairs := rfl
@[simp] theorem State.newConfig_ledger : (s.newConfig a).ledger = s.ledger := rfl
@[simp] theorem State.newConfig_fabric : (s.newConfig a).fabric = s.fabric := rfl
@[simp] theorem State.newConfig_bring : (s.newConfig a).bring = s.bring := rfl
@[simp] theorem State.newConfig_overlay : (s.newConfig a).overlay = s.overlay := rfl
@[simp] theorem State.newConfig_ports : (s.newConfig a).ports = s.ports := rfl
@[simp] theorem State.newConfig_log : (s.newConfig a).log = s.log := rfl
@[simp] theorem State.newConfig_mc : (s.newConfig a).mc = s.mc := rfl
@[simp] theorem State.newConfig_thermal : (s.newConfig a).thermal = s.thermal := rfl
@[simp] theorem State.newConfig_hosts : (s.newConfig a).hosts = s.hosts := rfl
@[simp] theorem State.newConfig_mail : (s.newConfig a).mail = s.mail := rfl
@[simp] theorem State.newConfig_mailMarks : (s.newConfig a).mailMarks = s.mailMarks := rfl
@[simp] theorem State.newConfig_power : (s.newConfig a).power = s.power := rfl
@[simp] theorem State.newConfig_fw : (s.newConfig a).fw = s.fw := rfl
@[simp] theorem State.newConfig_core (j : Nat) : (s.newConfig a).core j = s.core j := rfl
@[simp] theorem State.newConfig_heal (j : Nat) : (s.newConfig a).heal j = s.heal j := rfl
@[simp] theorem State.newConfig_part (j : Nat) : (s.newConfig a).part j = s.part j := rfl
@[simp] theorem State.newConfig_ctlOf (j : Nat) : (s.newConfig a).ctlOf j = s.ctlOf j := rfl
@[simp] theorem State.newConfig_tile (j : Nat) : (s.newConfig a).tile j = s.tile j := rfl
@[simp] theorem State.newConfig_gantry (j : Nat) : (s.newConfig a).gantry j = s.gantry j := rfl
@[simp] theorem State.newConfig_slotOf (j : Nat) : (s.newConfig a).slotOf j = s.slotOf j := rfl
@[simp] theorem State.newConfig_quay (j : Nat) : (s.newConfig a).quay j = s.quay j := rfl
@[simp] theorem State.newConfig_tensor (j : Nat) : (s.newConfig a).tensor j = s.tensor j := rfl
@[simp] theorem State.newConfig_intake (j : Nat) : (s.newConfig a).intake j = s.intake j := rfl
@[simp] theorem State.newConfig_gov (j : Nat) : (s.newConfig a).gov j = s.gov j := rfl
@[simp] theorem State.newConfig_pair (j : Nat) : (s.newConfig a).pair j = s.pair j := rfl
@[simp] theorem State.newConfig_port (j : Nat) : (s.newConfig a).port j = s.port j := rfl
@[simp] theorem State.newConfig_host (j : Nat) : (s.newConfig a).host j = s.host j := rfl
end

section
variable (s : State) (a b : Nat)
@[simp] theorem State.openTicket_pending : (s.openTicket a b).pending = s.pending := rfl
@[simp] theorem State.openTicket_now : (s.openTicket a b).now = s.now := rfl
@[simp] theorem State.openTicket_freeCtr : (s.openTicket a b).freeCtr = s.freeCtr := rfl
@[simp] theorem State.openTicket_link : (s.openTicket a b).link = s.link := rfl
@[simp] theorem State.openTicket_net : (s.openTicket a b).net = s.net := rfl
@[simp] theorem State.openTicket_transit : (s.openTicket a b).transit = s.transit := rfl
@[simp] theorem State.openTicket_transitUsed : (s.openTicket a b).transitUsed = s.transitUsed := rfl
@[simp] theorem State.openTicket_ident : (s.openTicket a b).ident = s.ident := rfl
@[simp] theorem State.openTicket_cores : (s.openTicket a b).cores = s.cores := rfl
@[simp] theorem State.openTicket_health : (s.openTicket a b).health = s.health := rfl
@[simp] theorem State.openTicket_pad : (s.openTicket a b).pad = s.pad := rfl
@[simp] theorem State.openTicket_marks : (s.openTicket a b).marks = s.marks := rfl
@[simp] theorem State.openTicket_gantries : (s.openTicket a b).gantries = s.gantries := rfl
@[simp] theorem State.openTicket_tiles : (s.openTicket a b).tiles = s.tiles := rfl
@[simp] theorem State.openTicket_boundaries : (s.openTicket a b).boundaries = s.boundaries := rfl
@[simp] theorem State.openTicket_routersDown : (s.openTicket a b).routersDown = s.routersDown := rfl
@[simp] theorem State.openTicket_parts : (s.openTicket a b).parts = s.parts := rfl
@[simp] theorem State.openTicket_ctl : (s.openTicket a b).ctl = s.ctl := rfl
@[simp] theorem State.openTicket_slots : (s.openTicket a b).slots = s.slots := rfl
@[simp] theorem State.openTicket_tide : (s.openTicket a b).tide = s.tide := rfl
@[simp] theorem State.openTicket_rtc : (s.openTicket a b).rtc = s.rtc := rfl
@[simp] theorem State.openTicket_quays : (s.openTicket a b).quays = s.quays := rfl
@[simp] theorem State.openTicket_dram : (s.openTicket a b).dram = s.dram := rfl
@[simp] theorem State.openTicket_flash : (s.openTicket a b).flash = s.flash := rfl
@[simp] theorem State.openTicket_quayMarks : (s.openTicket a b).quayMarks = s.quayMarks := rfl
@[simp] theorem State.openTicket_tensors : (s.openTicket a b).tensors = s.tensors := rfl
@[simp] theorem State.openTicket_intakes : (s.openTicket a b).intakes = s.intakes := rfl
@[simp] theorem State.openTicket_govs : (s.openTicket a b).govs = s.govs := rfl
@[simp] theorem State.openTicket_opt : (s.openTicket a b).opt = s.opt := rfl
@[simp] theorem State.openTicket_pairs : (s.openTicket a b).pairs = s.pairs := rfl
@[simp] theorem State.openTicket_ledger : (s.openTicket a b).ledger = s.ledger := rfl
@[simp] theorem State.openTicket_fabric : (s.openTicket a b).fabric = s.fabric := rfl
@[simp] theorem State.openTicket_bring : (s.openTicket a b).bring = s.bring := rfl
@[simp] theorem State.openTicket_overlay : (s.openTicket a b).overlay = s.overlay := rfl
@[simp] theorem State.openTicket_ports : (s.openTicket a b).ports = s.ports := rfl
@[simp] theorem State.openTicket_log : (s.openTicket a b).log = s.log := rfl
@[simp] theorem State.openTicket_mc : (s.openTicket a b).mc = s.mc := rfl
@[simp] theorem State.openTicket_thermal : (s.openTicket a b).thermal = s.thermal := rfl
@[simp] theorem State.openTicket_hosts : (s.openTicket a b).hosts = s.hosts := rfl
@[simp] theorem State.openTicket_mail : (s.openTicket a b).mail = s.mail := rfl
@[simp] theorem State.openTicket_mailMarks : (s.openTicket a b).mailMarks = s.mailMarks := rfl
@[simp] theorem State.openTicket_power : (s.openTicket a b).power = s.power := rfl
@[simp] theorem State.openTicket_fw : (s.openTicket a b).fw = s.fw := rfl
@[simp] theorem State.openTicket_core (j : Nat) : (s.openTicket a b).core j = s.core j := rfl
@[simp] theorem State.openTicket_heal (j : Nat) : (s.openTicket a b).heal j = s.heal j := rfl
@[simp] theorem State.openTicket_part (j : Nat) : (s.openTicket a b).part j = s.part j := rfl
@[simp] theorem State.openTicket_ctlOf (j : Nat) : (s.openTicket a b).ctlOf j = s.ctlOf j := rfl
@[simp] theorem State.openTicket_tile (j : Nat) : (s.openTicket a b).tile j = s.tile j := rfl
@[simp] theorem State.openTicket_gantry (j : Nat) : (s.openTicket a b).gantry j = s.gantry j := rfl
@[simp] theorem State.openTicket_slotOf (j : Nat) : (s.openTicket a b).slotOf j = s.slotOf j := rfl
@[simp] theorem State.openTicket_quay (j : Nat) : (s.openTicket a b).quay j = s.quay j := rfl
@[simp] theorem State.openTicket_tensor (j : Nat) : (s.openTicket a b).tensor j = s.tensor j := rfl
@[simp] theorem State.openTicket_intake (j : Nat) : (s.openTicket a b).intake j = s.intake j := rfl
@[simp] theorem State.openTicket_gov (j : Nat) : (s.openTicket a b).gov j = s.gov j := rfl
@[simp] theorem State.openTicket_pair (j : Nat) : (s.openTicket a b).pair j = s.pair j := rfl
@[simp] theorem State.openTicket_port (j : Nat) : (s.openTicket a b).port j = s.port j := rfl
@[simp] theorem State.openTicket_host (j : Nat) : (s.openTicket a b).host j = s.host j := rfl
end

section
variable (s : State) (a b d : Nat)
@[simp] theorem State.closeTicket_pending : (s.closeTicket a b d).pending = s.pending := rfl
@[simp] theorem State.closeTicket_now : (s.closeTicket a b d).now = s.now := rfl
@[simp] theorem State.closeTicket_freeCtr : (s.closeTicket a b d).freeCtr = s.freeCtr := rfl
@[simp] theorem State.closeTicket_resp : (s.closeTicket a b d).resp = s.resp := rfl
@[simp] theorem State.closeTicket_link : (s.closeTicket a b d).link = s.link := rfl
@[simp] theorem State.closeTicket_net : (s.closeTicket a b d).net = s.net := rfl
@[simp] theorem State.closeTicket_transit : (s.closeTicket a b d).transit = s.transit := rfl
@[simp] theorem State.closeTicket_transitUsed : (s.closeTicket a b d).transitUsed = s.transitUsed := rfl
@[simp] theorem State.closeTicket_ident : (s.closeTicket a b d).ident = s.ident := rfl
@[simp] theorem State.closeTicket_cores : (s.closeTicket a b d).cores = s.cores := rfl
@[simp] theorem State.closeTicket_health : (s.closeTicket a b d).health = s.health := rfl
@[simp] theorem State.closeTicket_pad : (s.closeTicket a b d).pad = s.pad := rfl
@[simp] theorem State.closeTicket_marks : (s.closeTicket a b d).marks = s.marks := rfl
@[simp] theorem State.closeTicket_gantries : (s.closeTicket a b d).gantries = s.gantries := rfl
@[simp] theorem State.closeTicket_tiles : (s.closeTicket a b d).tiles = s.tiles := rfl
@[simp] theorem State.closeTicket_boundaries : (s.closeTicket a b d).boundaries = s.boundaries := rfl
@[simp] theorem State.closeTicket_routersDown : (s.closeTicket a b d).routersDown = s.routersDown := rfl
@[simp] theorem State.closeTicket_parts : (s.closeTicket a b d).parts = s.parts := rfl
@[simp] theorem State.closeTicket_ctl : (s.closeTicket a b d).ctl = s.ctl := rfl
@[simp] theorem State.closeTicket_slots : (s.closeTicket a b d).slots = s.slots := rfl
@[simp] theorem State.closeTicket_tide : (s.closeTicket a b d).tide = s.tide := rfl
@[simp] theorem State.closeTicket_rtc : (s.closeTicket a b d).rtc = s.rtc := rfl
@[simp] theorem State.closeTicket_quays : (s.closeTicket a b d).quays = s.quays := rfl
@[simp] theorem State.closeTicket_dram : (s.closeTicket a b d).dram = s.dram := rfl
@[simp] theorem State.closeTicket_flash : (s.closeTicket a b d).flash = s.flash := rfl
@[simp] theorem State.closeTicket_quayMarks : (s.closeTicket a b d).quayMarks = s.quayMarks := rfl
@[simp] theorem State.closeTicket_tensors : (s.closeTicket a b d).tensors = s.tensors := rfl
@[simp] theorem State.closeTicket_intakes : (s.closeTicket a b d).intakes = s.intakes := rfl
@[simp] theorem State.closeTicket_govs : (s.closeTicket a b d).govs = s.govs := rfl
@[simp] theorem State.closeTicket_opt : (s.closeTicket a b d).opt = s.opt := rfl
@[simp] theorem State.closeTicket_pairs : (s.closeTicket a b d).pairs = s.pairs := rfl
@[simp] theorem State.closeTicket_ledger : (s.closeTicket a b d).ledger = s.ledger := rfl
@[simp] theorem State.closeTicket_fabric : (s.closeTicket a b d).fabric = s.fabric := rfl
@[simp] theorem State.closeTicket_bring : (s.closeTicket a b d).bring = s.bring := rfl
@[simp] theorem State.closeTicket_overlay : (s.closeTicket a b d).overlay = s.overlay := rfl
@[simp] theorem State.closeTicket_ports : (s.closeTicket a b d).ports = s.ports := rfl
@[simp] theorem State.closeTicket_log : (s.closeTicket a b d).log = s.log := rfl
@[simp] theorem State.closeTicket_mc : (s.closeTicket a b d).mc = s.mc := rfl
@[simp] theorem State.closeTicket_thermal : (s.closeTicket a b d).thermal = s.thermal := rfl
@[simp] theorem State.closeTicket_hosts : (s.closeTicket a b d).hosts = s.hosts := rfl
@[simp] theorem State.closeTicket_mail : (s.closeTicket a b d).mail = s.mail := rfl
@[simp] theorem State.closeTicket_mailMarks : (s.closeTicket a b d).mailMarks = s.mailMarks := rfl
@[simp] theorem State.closeTicket_power : (s.closeTicket a b d).power = s.power := rfl
@[simp] theorem State.closeTicket_fw : (s.closeTicket a b d).fw = s.fw := rfl
@[simp] theorem State.closeTicket_core (j : Nat) : (s.closeTicket a b d).core j = s.core j := rfl
@[simp] theorem State.closeTicket_heal (j : Nat) : (s.closeTicket a b d).heal j = s.heal j := rfl
@[simp] theorem State.closeTicket_part (j : Nat) : (s.closeTicket a b d).part j = s.part j := rfl
@[simp] theorem State.closeTicket_ctlOf (j : Nat) : (s.closeTicket a b d).ctlOf j = s.ctlOf j := rfl
@[simp] theorem State.closeTicket_tile (j : Nat) : (s.closeTicket a b d).tile j = s.tile j := rfl
@[simp] theorem State.closeTicket_gantry (j : Nat) : (s.closeTicket a b d).gantry j = s.gantry j := rfl
@[simp] theorem State.closeTicket_slotOf (j : Nat) : (s.closeTicket a b d).slotOf j = s.slotOf j := rfl
@[simp] theorem State.closeTicket_quay (j : Nat) : (s.closeTicket a b d).quay j = s.quay j := rfl
@[simp] theorem State.closeTicket_tensor (j : Nat) : (s.closeTicket a b d).tensor j = s.tensor j := rfl
@[simp] theorem State.closeTicket_intake (j : Nat) : (s.closeTicket a b d).intake j = s.intake j := rfl
@[simp] theorem State.closeTicket_gov (j : Nat) : (s.closeTicket a b d).gov j = s.gov j := rfl
@[simp] theorem State.closeTicket_pair (j : Nat) : (s.closeTicket a b d).pair j = s.pair j := rfl
@[simp] theorem State.closeTicket_port (j : Nat) : (s.closeTicket a b d).port j = s.port j := rfl
@[simp] theorem State.closeTicket_host (j : Nat) : (s.closeTicket a b d).host j = s.host j := rfl
end

section
variable (s : State) (a b : Nat)
@[simp] theorem State.endTicket_pending : (s.endTicket a b).pending = s.pending := rfl
@[simp] theorem State.endTicket_now : (s.endTicket a b).now = s.now := rfl
@[simp] theorem State.endTicket_freeCtr : (s.endTicket a b).freeCtr = s.freeCtr := rfl
@[simp] theorem State.endTicket_resp : (s.endTicket a b).resp = s.resp := rfl
@[simp] theorem State.endTicket_link : (s.endTicket a b).link = s.link := rfl
@[simp] theorem State.endTicket_net : (s.endTicket a b).net = s.net := rfl
@[simp] theorem State.endTicket_transit : (s.endTicket a b).transit = s.transit := rfl
@[simp] theorem State.endTicket_transitUsed : (s.endTicket a b).transitUsed = s.transitUsed := rfl
@[simp] theorem State.endTicket_ident : (s.endTicket a b).ident = s.ident := rfl
@[simp] theorem State.endTicket_cores : (s.endTicket a b).cores = s.cores := rfl
@[simp] theorem State.endTicket_health : (s.endTicket a b).health = s.health := rfl
@[simp] theorem State.endTicket_pad : (s.endTicket a b).pad = s.pad := rfl
@[simp] theorem State.endTicket_marks : (s.endTicket a b).marks = s.marks := rfl
@[simp] theorem State.endTicket_gantries : (s.endTicket a b).gantries = s.gantries := rfl
@[simp] theorem State.endTicket_tiles : (s.endTicket a b).tiles = s.tiles := rfl
@[simp] theorem State.endTicket_boundaries : (s.endTicket a b).boundaries = s.boundaries := rfl
@[simp] theorem State.endTicket_routersDown : (s.endTicket a b).routersDown = s.routersDown := rfl
@[simp] theorem State.endTicket_parts : (s.endTicket a b).parts = s.parts := rfl
@[simp] theorem State.endTicket_ctl : (s.endTicket a b).ctl = s.ctl := rfl
@[simp] theorem State.endTicket_slots : (s.endTicket a b).slots = s.slots := rfl
@[simp] theorem State.endTicket_tide : (s.endTicket a b).tide = s.tide := rfl
@[simp] theorem State.endTicket_rtc : (s.endTicket a b).rtc = s.rtc := rfl
@[simp] theorem State.endTicket_quays : (s.endTicket a b).quays = s.quays := rfl
@[simp] theorem State.endTicket_dram : (s.endTicket a b).dram = s.dram := rfl
@[simp] theorem State.endTicket_flash : (s.endTicket a b).flash = s.flash := rfl
@[simp] theorem State.endTicket_quayMarks : (s.endTicket a b).quayMarks = s.quayMarks := rfl
@[simp] theorem State.endTicket_tensors : (s.endTicket a b).tensors = s.tensors := rfl
@[simp] theorem State.endTicket_intakes : (s.endTicket a b).intakes = s.intakes := rfl
@[simp] theorem State.endTicket_govs : (s.endTicket a b).govs = s.govs := rfl
@[simp] theorem State.endTicket_opt : (s.endTicket a b).opt = s.opt := rfl
@[simp] theorem State.endTicket_pairs : (s.endTicket a b).pairs = s.pairs := rfl
@[simp] theorem State.endTicket_ledger : (s.endTicket a b).ledger = s.ledger := rfl
@[simp] theorem State.endTicket_fabric : (s.endTicket a b).fabric = s.fabric := rfl
@[simp] theorem State.endTicket_bring : (s.endTicket a b).bring = s.bring := rfl
@[simp] theorem State.endTicket_overlay : (s.endTicket a b).overlay = s.overlay := rfl
@[simp] theorem State.endTicket_ports : (s.endTicket a b).ports = s.ports := rfl
@[simp] theorem State.endTicket_log : (s.endTicket a b).log = s.log := rfl
@[simp] theorem State.endTicket_mc : (s.endTicket a b).mc = s.mc := rfl
@[simp] theorem State.endTicket_thermal : (s.endTicket a b).thermal = s.thermal := rfl
@[simp] theorem State.endTicket_hosts : (s.endTicket a b).hosts = s.hosts := rfl
@[simp] theorem State.endTicket_mail : (s.endTicket a b).mail = s.mail := rfl
@[simp] theorem State.endTicket_mailMarks : (s.endTicket a b).mailMarks = s.mailMarks := rfl
@[simp] theorem State.endTicket_power : (s.endTicket a b).power = s.power := rfl
@[simp] theorem State.endTicket_fw : (s.endTicket a b).fw = s.fw := rfl
@[simp] theorem State.endTicket_core (j : Nat) : (s.endTicket a b).core j = s.core j := rfl
@[simp] theorem State.endTicket_heal (j : Nat) : (s.endTicket a b).heal j = s.heal j := rfl
@[simp] theorem State.endTicket_part (j : Nat) : (s.endTicket a b).part j = s.part j := rfl
@[simp] theorem State.endTicket_ctlOf (j : Nat) : (s.endTicket a b).ctlOf j = s.ctlOf j := rfl
@[simp] theorem State.endTicket_tile (j : Nat) : (s.endTicket a b).tile j = s.tile j := rfl
@[simp] theorem State.endTicket_gantry (j : Nat) : (s.endTicket a b).gantry j = s.gantry j := rfl
@[simp] theorem State.endTicket_slotOf (j : Nat) : (s.endTicket a b).slotOf j = s.slotOf j := rfl
@[simp] theorem State.endTicket_quay (j : Nat) : (s.endTicket a b).quay j = s.quay j := rfl
@[simp] theorem State.endTicket_tensor (j : Nat) : (s.endTicket a b).tensor j = s.tensor j := rfl
@[simp] theorem State.endTicket_intake (j : Nat) : (s.endTicket a b).intake j = s.intake j := rfl
@[simp] theorem State.endTicket_gov (j : Nat) : (s.endTicket a b).gov j = s.gov j := rfl
@[simp] theorem State.endTicket_pair (j : Nat) : (s.endTicket a b).pair j = s.pair j := rfl
@[simp] theorem State.endTicket_port (j : Nat) : (s.endTicket a b).port j = s.port j := rfl
@[simp] theorem State.endTicket_host (j : Nat) : (s.endTicket a b).host j = s.host j := rfl
end

end Sys2Proof.Machine
end

