-- ==== Sys2Proof/Laws/Commands.lean ====
section
/-! SUPPORT. Everything a client's write or command can do, said once: it is served and carried out, or the client gets the
status of the first check that fails, or nothing happens (R321, R376, R386, R402, R441). -/

namespace Sys2Proof.Machine

theorem State.loaderCommand_unserved (s : State) (cl : Client) (a : Bool) (f : State → State × Nat) (h : s.serving = false) :
    s.loaderCommand cl a f = s := by simp [State.loaderCommand, h]

theorem State.loaderCommand_unconnected (s : State) (cl : Client) (a : Bool) (f : State → State × Nat) (h : s.roleOf cl = none) :
    s.loaderCommand cl a f = s := by simp [State.loaderCommand, h]

theorem State.roleOf_of_clientStatus {s : State} {cl : Client} {a : Bool} (h : clientStatus s cl a = none) : (s.roleOf cl).isNone = false := by
  unfold clientStatus at h
  cases hr : s.roleOf cl with
  | none => simp [hr] at h
  | some r => rfl

/-- The operation of a client that may ask for it, on the state with the answer cleared. -/
theorem State.loaderCommand_served (s : State) (cl : Client) (a : Bool) (f : State → State × Nat) (h : s.serving = true)
    (hc : clientStatus s cl a = none) : s.loaderCommand cl a f = (f s.asked).1.answer (f s.asked).2 := by
  simp [State.loaderCommand, h, State.roleOf_of_clientStatus hc, hc, State.asked]

/-- A client that may not ask for it gets a status, and nothing else changes. -/
theorem State.loaderCommand_refused (s : State) (cl : Client) (a : Bool) (f : State → State × Nat) (r st : Nat) (h : s.serving = true)
    (hr : s.roleOf cl = some r) (hc : clientStatus s cl a = some st) : s.loaderCommand cl a f = { s with resp := answered st } := by
  simp [State.loaderCommand, h, hr, hc, State.answer, answered]

theorem State.command_unserved (s : State) (cl : Client) (a : Bool) (f : State → State × Nat) (h : s.serving = false) :
    s.command cl a f = s := State.loaderCommand_unserved s cl a _ h

theorem State.command_unconnected (s : State) (cl : Client) (a : Bool) (f : State → State × Nat) (h : s.roleOf cl = none) :
    s.command cl a f = s := State.loaderCommand_unconnected s cl a _ h

theorem State.command_served {s : State} {cl : Client} {a : Bool} (f : State → State × Nat) (h : Serves s cl a) :
    s.command cl a f = (f s.asked).1.answer (f s.asked).2 := by
  obtain ⟨hs, hc, hl⟩ := h
  have : s.asked.bring.loader = false := hl
  simp [State.command, State.loaderCommand_served s cl a _ hs hc, this]

theorem State.command_refused (s : State) (cl : Client) (a : Bool) (f : State → State × Nat) (r st : Nat) (h : s.serving = true)
    (hr : s.roleOf cl = some r) (hc : clientStatus s cl a = some st) : s.command cl a f = { s with resp := answered st } :=
  State.loaderCommand_refused s cl a _ r st h hr hc

/-- A client below OPERATOR is refused every write and command (R402). -/
theorem clientStatus_of_low_role {s : State} {cl : Client} {r : Nat} (a : Bool) (hr : s.roleOf cl = some r) (h : r < 2) :
    clientStatus s cl a = some stAuth := by simp [clientStatus, hr, h]

/-- Whatever the operation does: without service, a connection or the right to it, the answer alone may change. -/
theorem State.command_frame_of_low_role (s : State) (cl : Client) (a : Bool) (f : State → State × Nat) (r : Nat) (hr : s.roleOf cl = some r)
    (h : r < 2) : s.command cl a f = { s with resp := (s.command cl a f).resp } := by
  cases hs : s.serving with
  | false => simp [State.command_unserved, hs]
  | true => rw [State.command_refused s cl a f r stAuth hs hr (clientStatus_of_low_role a hr h)]

theorem State.answer_resp (s : State) (st : Nat) : (s.answer st).resp = { s.resp with status := st, executed := 1 } := rfl

/-- An operation that leaves the answer cleared answers its status alone. -/
theorem State.answer_of_cleared (t : State) (st : Nat) (h : t.resp = {}) : (t.answer st).resp = answered st := by
  simp [State.answer, answered, h]

end Sys2Proof.Machine
end

