-- ==== Sys2Proof/Laws/Events.lean ====
section
/-! SUPPORT. What recording an event leaves unchanged: everything but the log, the hosts' interrupts and the sessions' notifications. -/

namespace Sys2Proof.Machine

/-- What an appended entry changes. -/
theorem State.append_frame (s : State) (e : Event) :
    s.append e = { s with log := (s.append e).log, hosts := (s.append e).hosts, sivar := (s.append e).sivar } := rfl

/-- What a recorded event changes. -/
theorem State.eventAt_frame (s : State) (a b c d e : Nat) :
    s.eventAt a b c d e = { s with log := (s.eventAt a b c d e).log, hosts := (s.eventAt a b c d e).hosts
                                   sivar := (s.eventAt a b c d e).sivar } := by
  unfold State.eventAt
  split_ifs <;> rfl

/-- An entry changes no configuration. -/
@[simp] theorem State.append_config (s : State) (e : Event) : (s.append e).sivar.config = s.sivar.config := by
  simp only [State.append]; split_ifs <;> rfl

section
variable (s : State) (a b c d e : Nat)
@[simp] theorem State.eventAt_config : (s.eventAt a b c d e).sivar.config = s.sivar.config := by
  unfold State.eventAt; split_ifs <;> first | rfl | simp
@[simp] theorem State.event_config : (s.event a b c d).sivar.config = s.sivar.config := State.eventAt_config s _ a b c d
@[simp] theorem State.event_cfg (i j : Nat) : (s.event a b c d).cfg i j = s.cfg i j := by simp [State.cfg]
@[simp] theorem State.eventAt_pending : (s.eventAt a b c d e).pending = s.pending := by rw [State.eventAt_frame]
@[simp] theorem State.event_pending : (s.event a b c d).pending = s.pending := State.eventAt_pending s _ a b c d
@[simp] theorem State.eventAt_now : (s.eventAt a b c d e).now = s.now := by rw [State.eventAt_frame]
@[simp] theorem State.event_now : (s.event a b c d).now = s.now := State.eventAt_now s _ a b c d
@[simp] theorem State.eventAt_freeCtr : (s.eventAt a b c d e).freeCtr = s.freeCtr := by rw [State.eventAt_frame]
@[simp] theorem State.event_freeCtr : (s.event a b c d).freeCtr = s.freeCtr := State.eventAt_freeCtr s _ a b c d
@[simp] theorem State.eventAt_resp : (s.eventAt a b c d e).resp = s.resp := by rw [State.eventAt_frame]
@[simp] theorem State.event_resp : (s.event a b c d).resp = s.resp := State.eventAt_resp s _ a b c d
@[simp] theorem State.eventAt_link : (s.eventAt a b c d e).link = s.link := by rw [State.eventAt_frame]
@[simp] theorem State.event_link : (s.event a b c d).link = s.link := State.eventAt_link s _ a b c d
@[simp] theorem State.eventAt_net : (s.eventAt a b c d e).net = s.net := by rw [State.eventAt_frame]
@[simp] theorem State.event_net : (s.event a b c d).net = s.net := State.eventAt_net s _ a b c d
@[simp] theorem State.eventAt_transit : (s.eventAt a b c d e).transit = s.transit := by rw [State.eventAt_frame]
@[simp] theorem State.event_transit : (s.event a b c d).transit = s.transit := State.eventAt_transit s _ a b c d
@[simp] theorem State.eventAt_transitUsed : (s.eventAt a b c d e).transitUsed = s.transitUsed := by rw [State.eventAt_frame]
@[simp] theorem State.event_transitUsed : (s.event a b c d).transitUsed = s.transitUsed := State.eventAt_transitUsed s _ a b c d
@[simp] theorem State.eventAt_ident : (s.eventAt a b c d e).ident = s.ident := by rw [State.eventAt_frame]
@[simp] theorem State.event_ident : (s.event a b c d).ident = s.ident := State.eventAt_ident s _ a b c d
@[simp] theorem State.eventAt_cores : (s.eventAt a b c d e).cores = s.cores := by rw [State.eventAt_frame]
@[simp] theorem State.event_cores : (s.event a b c d).cores = s.cores := State.eventAt_cores s _ a b c d
@[simp] theorem State.eventAt_health : (s.eventAt a b c d e).health = s.health := by rw [State.eventAt_frame]
@[simp] theorem State.event_health : (s.event a b c d).health = s.health := State.eventAt_health s _ a b c d
@[simp] theorem State.eventAt_pad : (s.eventAt a b c d e).pad = s.pad := by rw [State.eventAt_frame]
@[simp] theorem State.event_pad : (s.event a b c d).pad = s.pad := State.eventAt_pad s _ a b c d
@[simp] theorem State.eventAt_marks : (s.eventAt a b c d e).marks = s.marks := by rw [State.eventAt_frame]
@[simp] theorem State.event_marks : (s.event a b c d).marks = s.marks := State.eventAt_marks s _ a b c d
@[simp] theorem State.eventAt_gantries : (s.eventAt a b c d e).gantries = s.gantries := by rw [State.eventAt_frame]
@[simp] theorem State.event_gantries : (s.event a b c d).gantries = s.gantries := State.eventAt_gantries s _ a b c d
@[simp] theorem State.eventAt_tiles : (s.eventAt a b c d e).tiles = s.tiles := by rw [State.eventAt_frame]
@[simp] theorem State.event_tiles : (s.event a b c d).tiles = s.tiles := State.eventAt_tiles s _ a b c d
@[simp] theorem State.eventAt_boundaries : (s.eventAt a b c d e).boundaries = s.boundaries := by rw [State.eventAt_frame]
@[simp] theorem State.event_boundaries : (s.event a b c d).boundaries = s.boundaries := State.eventAt_boundaries s _ a b c d
@[simp] theorem State.eventAt_routersDown : (s.eventAt a b c d e).routersDown = s.routersDown := by rw [State.eventAt_frame]
@[simp] theorem State.event_routersDown : (s.event a b c d).routersDown = s.routersDown := State.eventAt_routersDown s _ a b c d
@[simp] theorem State.eventAt_parts : (s.eventAt a b c d e).parts = s.parts := by rw [State.eventAt_frame]
@[simp] theorem State.event_parts : (s.event a b c d).parts = s.parts := State.eventAt_parts s _ a b c d
@[simp] theorem State.eventAt_ctl : (s.eventAt a b c d e).ctl = s.ctl := by rw [State.eventAt_frame]
@[simp] theorem State.event_ctl : (s.event a b c d).ctl = s.ctl := State.eventAt_ctl s _ a b c d
@[simp] theorem State.eventAt_slots : (s.eventAt a b c d e).slots = s.slots := by rw [State.eventAt_frame]
@[simp] theorem State.event_slots : (s.event a b c d).slots = s.slots := State.eventAt_slots s _ a b c d
@[simp] theorem State.eventAt_tide : (s.eventAt a b c d e).tide = s.tide := by rw [State.eventAt_frame]
@[simp] theorem State.event_tide : (s.event a b c d).tide = s.tide := State.eventAt_tide s _ a b c d
@[simp] theorem State.eventAt_rtc : (s.eventAt a b c d e).rtc = s.rtc := by rw [State.eventAt_frame]
@[simp] theorem State.event_rtc : (s.event a b c d).rtc = s.rtc := State.eventAt_rtc s _ a b c d
@[simp] theorem State.eventAt_quays : (s.eventAt a b c d e).quays = s.quays := by rw [State.eventAt_frame]
@[simp] theorem State.event_quays : (s.event a b c d).quays = s.quays := State.eventAt_quays s _ a b c d
@[simp] theorem State.eventAt_dram : (s.eventAt a b c d e).dram = s.dram := by rw [State.eventAt_frame]
@[simp] theorem State.event_dram : (s.event a b c d).dram = s.dram := State.eventAt_dram s _ a b c d
@[simp] theorem State.eventAt_flash : (s.eventAt a b c d e).flash = s.flash := by rw [State.eventAt_frame]
@[simp] theorem State.event_flash : (s.event a b c d).flash = s.flash := State.eventAt_flash s _ a b c d
@[simp] theorem State.eventAt_quayMarks : (s.eventAt a b c d e).quayMarks = s.quayMarks := by rw [State.eventAt_frame]
@[simp] theorem State.event_quayMarks : (s.event a b c d).quayMarks = s.quayMarks := State.eventAt_quayMarks s _ a b c d
@[simp] theorem State.eventAt_tensors : (s.eventAt a b c d e).tensors = s.tensors := by rw [State.eventAt_frame]
@[simp] theorem State.event_tensors : (s.event a b c d).tensors = s.tensors := State.eventAt_tensors s _ a b c d
@[simp] theorem State.eventAt_intakes : (s.eventAt a b c d e).intakes = s.intakes := by rw [State.eventAt_frame]
@[simp] theorem State.event_intakes : (s.event a b c d).intakes = s.intakes := State.eventAt_intakes s _ a b c d
@[simp] theorem State.eventAt_govs : (s.eventAt a b c d e).govs = s.govs := by rw [State.eventAt_frame]
@[simp] theorem State.event_govs : (s.event a b c d).govs = s.govs := State.eventAt_govs s _ a b c d
@[simp] theorem State.eventAt_opt : (s.eventAt a b c d e).opt = s.opt := by rw [State.eventAt_frame]
@[simp] theorem State.event_opt : (s.event a b c d).opt = s.opt := State.eventAt_opt s _ a b c d
@[simp] theorem State.eventAt_pairs : (s.eventAt a b c d e).pairs = s.pairs := by rw [State.eventAt_frame]
@[simp] theorem State.event_pairs : (s.event a b c d).pairs = s.pairs := State.eventAt_pairs s _ a b c d
@[simp] theorem State.eventAt_ledger : (s.eventAt a b c d e).ledger = s.ledger := by rw [State.eventAt_frame]
@[simp] theorem State.event_ledger : (s.event a b c d).ledger = s.ledger := State.eventAt_ledger s _ a b c d
@[simp] theorem State.eventAt_fabric : (s.eventAt a b c d e).fabric = s.fabric := by rw [State.eventAt_frame]
@[simp] theorem State.event_fabric : (s.event a b c d).fabric = s.fabric := State.eventAt_fabric s _ a b c d
@[simp] theorem State.eventAt_bring : (s.eventAt a b c d e).bring = s.bring := by rw [State.eventAt_frame]
@[simp] theorem State.event_bring : (s.event a b c d).bring = s.bring := State.eventAt_bring s _ a b c d
@[simp] theorem State.eventAt_overlay : (s.eventAt a b c d e).overlay = s.overlay := by rw [State.eventAt_frame]
@[simp] theorem State.event_overlay : (s.event a b c d).overlay = s.overlay := State.eventAt_overlay s _ a b c d
@[simp] theorem State.eventAt_ports : (s.eventAt a b c d e).ports = s.ports := by rw [State.eventAt_frame]
@[simp] theorem State.event_ports : (s.event a b c d).ports = s.ports := State.eventAt_ports s _ a b c d
@[simp] theorem State.eventAt_mc : (s.eventAt a b c d e).mc = s.mc := by rw [State.eventAt_frame]
@[simp] theorem State.event_mc : (s.event a b c d).mc = s.mc := State.eventAt_mc s _ a b c d
@[simp] theorem State.eventAt_thermal : (s.eventAt a b c d e).thermal = s.thermal := by rw [State.eventAt_frame]
@[simp] theorem State.event_thermal : (s.event a b c d).thermal = s.thermal := State.eventAt_thermal s _ a b c d
@[simp] theorem State.eventAt_mail : (s.eventAt a b c d e).mail = s.mail := by rw [State.eventAt_frame]
@[simp] theorem State.event_mail : (s.event a b c d).mail = s.mail := State.eventAt_mail s _ a b c d
@[simp] theorem State.eventAt_mailMarks : (s.eventAt a b c d e).mailMarks = s.mailMarks := by rw [State.eventAt_frame]
@[simp] theorem State.event_mailMarks : (s.event a b c d).mailMarks = s.mailMarks := State.eventAt_mailMarks s _ a b c d
@[simp] theorem State.eventAt_power : (s.eventAt a b c d e).power = s.power := by rw [State.eventAt_frame]
@[simp] theorem State.event_power : (s.event a b c d).power = s.power := State.eventAt_power s _ a b c d
@[simp] theorem State.eventAt_fw : (s.eventAt a b c d e).fw = s.fw := by rw [State.eventAt_frame]
@[simp] theorem State.event_fw : (s.event a b c d).fw = s.fw := State.eventAt_fw s _ a b c d
@[simp] theorem State.event_core (j : Nat) : (s.event a b c d).core j = s.core j := by simp [State.core]
@[simp] theorem State.event_heal (j : Nat) : (s.event a b c d).heal j = s.heal j := by simp [State.heal]
@[simp] theorem State.event_part (j : Nat) : (s.event a b c d).part j = s.part j := by simp [State.part]
@[simp] theorem State.event_ctlOf (j : Nat) : (s.event a b c d).ctlOf j = s.ctlOf j := by simp [State.ctlOf]
@[simp] theorem State.event_tile (j : Nat) : (s.event a b c d).tile j = s.tile j := by simp [State.tile]
@[simp] theorem State.event_gantry (j : Nat) : (s.event a b c d).gantry j = s.gantry j := by simp [State.gantry]
@[simp] theorem State.event_slotOf (j : Nat) : (s.event a b c d).slotOf j = s.slotOf j := by simp [State.slotOf]
@[simp] theorem State.event_quay (j : Nat) : (s.event a b c d).quay j = s.quay j := by simp [State.quay]
@[simp] theorem State.event_tensor (j : Nat) : (s.event a b c d).tensor j = s.tensor j := by simp [State.tensor]
@[simp] theorem State.event_intake (j : Nat) : (s.event a b c d).intake j = s.intake j := by simp [State.intake]
@[simp] theorem State.event_gov (j : Nat) : (s.event a b c d).gov j = s.gov j := by simp [State.gov]
@[simp] theorem State.event_pair (j : Nat) : (s.event a b c d).pair j = s.pair j := by simp [State.pair]
@[simp] theorem State.event_port (j : Nat) : (s.event a b c d).port j = s.port j := by simp [State.port]
end

end Sys2Proof.Machine
end

