-- ==== Sys2Proof/Laws/Engines.lean ====
section
/-! SUPPORT. Everything that starting a queued springbok or vector instruction can change: its core's engines and
scratchpad, ECC counts, faults raised, and events; the sequencer, the other cores and the rest of the module stand. -/

namespace Sys2Proof.Machine

/-- What work of a core's springbok and vector units leaves unchanged. -/
structure EngStep (c : Nat) (s t : State) : Prop where
  rest : t = { s with freeCtr := t.freeCtr, cores := t.cores, health := t.health, pad := t.pad, marks := t.marks
                      ctl := t.ctl, log := t.log, hosts := t.hosts, sivar := t.sivar }
  config : t.sivar.config = s.sivar.config
  others : ∀ d, d ≠ c → t.core d = s.core d ∧ t.heal d = s.heal d
  own : t.core c = { s.core c with
    iss := { (s.core c).iss with spbQ := (t.core c).iss.spbQ, vecQ := (t.core c).iss.vecQ }
    spb := (t.core c).spb, vec := (t.core c).vec, firstFault := (t.core c).firstFault
    laterFaults := (t.core c).laterFaults }
  counts : ∀ p, (t.ctlOf p).counts = (s.ctlOf p).counts
  wf : Memory.wf s.pad = true → Memory.wf t.pad = true

namespace EngStep

theorem refl (c : Nat) (s : State) : EngStep c s s :=
  ⟨rfl, rfl, fun _ _ => ⟨rfl, rfl⟩, rfl, fun _ => rfl, id⟩

theorem trans {c : Nat} {s t u : State} (h : EngStep c s t) (g : EngStep c t u) : EngStep c s u := by
  refine ⟨?_, g.config.trans h.config, fun d hd => ⟨((g.others d hd).1.trans (h.others d hd).1),
    ((g.others d hd).2.trans (h.others d hd).2)⟩, ?_, fun p => (g.counts p).trans (h.counts p), fun w => g.wf (h.wf w)⟩
  · conv_lhs => rw [g.rest, h.rest]
  · conv_lhs => rw [g.own, h.own]

theorem foldl {α : Type} {c : Nat} {f : State → α → State} (h : ∀ s a, EngStep c s (f s a)) (l : List α) (s : State) :
    EngStep c s (l.foldl f s) := by
  induction l generalizing s with
  | nil => exact refl c s
  | cons a l ih => exact (h s a).trans (ih _)

theorem ite {c : Nat} {s t u : State} {p : Prop} [Decidable p] (h : EngStep c s t) (g : EngStep c s u) :
    EngStep c s (if p then t else u) := by split <;> assumption

theorem setSpb (c : Nat) (s : State) (v : SpbState) : EngStep c s (s.setCore c { s.core c with spb := v }) :=
  ⟨rfl, rfl, fun d hd => by simp [hd], by simp, fun _ => rfl, id⟩

theorem setVec (c : Nat) (s : State) (v : VecState) : EngStep c s (s.setCore c { s.core c with vec := v }) :=
  ⟨rfl, rfl, fun d hd => by simp [hd], by simp, fun _ => rfl, id⟩

theorem setHeal (c : Nat) (s : State) (v : CoreHealth) : EngStep c s (s.setHeal c v) :=
  ⟨rfl, rfl, fun d hd => by simp [hd], rfl, fun _ => rfl, id⟩

theorem bump (c : Nat) (s : State) : EngStep c s s.bump :=
  ⟨rfl, rfl, fun _ _ => ⟨rfl, rfl⟩, rfl, fun _ => rfl, id⟩

theorem event (c : Nat) (s : State) (a b d e : Nat) : EngStep c s (s.event a b d e) := by
  refine ⟨?_, by simp, fun _ _ => by simp, by simp, fun _ => by simp, fun h => by simpa using h⟩
  have h := State.eventAt_frame s s.now a b d e
  conv_lhs => rw [State.event, h]
  simp [State.event]

theorem raise (c : Nat) (s : State) (x : Cause) : EngStep c s (s.raise c x) := by
  unfold State.raise
  dsimp only
  split
  · exact ⟨rfl, rfl, fun d hd => by simp [hd], by simp, fun _ => rfl, id⟩
  · split
    · exact ⟨rfl, rfl, fun d hd => by simp [hd], by simp, fun _ => rfl, id⟩
    · refine ⟨rfl, rfl, fun d hd => by simp [hd], by simp, fun p => ?_, id⟩
      simp only [State.setCtl_ctlOf]; split_ifs <;> simp_all

theorem addCorrected (c : Nat) (s : State) (n : Nat) : EngStep c s (s.addCorrected c n) := by
  unfold State.addCorrected
  dsimp only
  split
  · exact refl c s
  · split
    · exact ((setHeal c s _).trans (setHeal c _ _)).trans (event c _ _ _ _ _)
    · exact setHeal c s _

theorem noteRow (c : Nat) (s : State) (r : Nat) : EngStep c s (s.noteRow c r) := by
  unfold State.noteRow
  dsimp only
  split
  · exact refl c s
  · refine (addCorrected c s (correctedIn s c r)).trans ?_
    unfold State.queueWriteBack
    dsimp only
    split
    · exact refl c _
    · exact setHeal c _ _

theorem noteRows (c : Nat) (s : State) (a n : Nat) : EngStep c s (s.noteRows c a n) := by
  unfold State.noteRows
  dsimp only
  split
  · exact (foldl (fun t i => noteRow c t _) _ s).trans (raise c _ _)
  · exact foldl (fun t i => noteRow c t _) _ s

theorem rowWritten (c : Nat) (s : State) (r : Nat) : EngStep c s (s.rowWritten c r) := by
  unfold State.rowWritten
  dsimp only
  split
  · exact setHeal c s _
  · exact refl c s

theorem padMarks (c : Nat) (s : State) (a : Nat) (bs : List Byte) (m : Tbl (Option Mark)) :
    EngStep c s { s with pad := writeBytes s.pad a bs, marks := m } :=
  ⟨rfl, rfl, fun _ _ => ⟨rfl, rfl⟩, rfl, fun _ => rfl, wf_writeBytes bs s.pad a⟩

theorem writeRow (c : Nat) (s : State) (r : Nat) (d : Row) : EngStep c s (s.writeRow c r d) := by
  unfold State.writeRow
  exact (padMarks c s _ _ _).trans (rowWritten c _ _)

theorem mergeRow (c : Nat) (s : State) (r : Nat) : EngStep c s (s.mergeRow c r) := by
  unfold State.mergeRow
  exact (addCorrected c s _).trans (writeRow c _ _ _)

theorem writeOut (c : Nat) (s : State) (a : Nat) (bs : List Byte) (bad : List Bool) (j k : Bool) :
    EngStep c s (s.writeOut c a bs bad j k) := by
  unfold State.writeOut
  dsimp only
  split
  · exact refl c s
  · exact ((foldl (fun t r => mergeRow c t r) _ s).trans (padMarks c _ _ _ _)).trans (foldl (fun t i => rowWritten c t _) _ _)

theorem runSpb (c : Nat) (s : State) (i : SpbInstr) : EngStep c s (runSpb s c i) := by
  unfold Machine.runSpb
  dsimp only
  split
  · unfold runSvld; exact (setSpb c s _).trans (noteRows c _ _ _)
  · unfold runSmv
    dsimp only
    split
    · exact ((setSpb c s _).trans (noteRows c _ _ _)).trans (noteRows c _ _ _)
    · exact (setSpb c s _).trans (noteRows c _ _ _)
  · split
    · unfold runSfin; exact (setSpb c s _).trans (writeOut c _ _ _ _ _ _)
    · exact refl c s
  · unfold runSclr; exact setSpb c s _

theorem setBank (c : Nat) (s : State) (b : Nat) (vs : List (F32 × Bool)) : EngStep c s (setBank s c b vs) := by
  unfold Machine.setBank; exact setVec c s _

theorem elementwise (x : VecCtx) (f : Nat → Nat → Nat → Fp × Bool) : EngStep x.c x.s (elementwise x f) := by
  unfold Machine.elementwise; exact writeOut x.c x.s _ _ _ _ _

theorem tokenResults (x : VecCtx) (vs : List (F32 × Bool)) : EngStep x.c x.s (tokenResults x vs) := by
  unfold Machine.tokenResults; exact writeOut x.c x.s _ _ _ _ _

theorem runVlds (x : VecCtx) : EngStep x.c x.s (runVlds x) := by
  unfold Machine.runVlds; exact setVec x.c x.s _

theorem runVldt (x : VecCtx) : EngStep x.c x.s (runVldt x) := by
  unfold Machine.runVldt; exact setBank x.c x.s _ _

theorem runVstt (x : VecCtx) : EngStep x.c x.s (runVstt x) := by
  unfold Machine.runVstt; exact tokenResults x _

theorem runVclr (x : VecCtx) : EngStep x.c x.s (runVclr x) := by
  unfold Machine.runVclr; exact setVec x.c x.s _

theorem runVbin (x : VecCtx) : EngStep x.c x.s (runVbin x) := by
  unfold Machine.runVbin; exact elementwise x _

theorem runVun (x : VecCtx) : EngStep x.c x.s (runVun x) := by
  unfold Machine.runVun; exact elementwise x _

theorem runVtok (x : VecCtx) : EngStep x.c x.s (runVtok x) := by
  unfold Machine.runVtok; exact elementwise x _

theorem runVred (x : VecCtx) : EngStep x.c x.s (runVred x) := by
  unfold Machine.runVred; exact tokenResults x _

theorem runVnrm (x : VecCtx) : EngStep x.c x.s (runVnrm x) := by
  unfold Machine.runVnrm; exact (elementwise x _).trans (setBank x.c _ _ _)

theorem runVsmx (x : VecCtx) : EngStep x.c x.s (runVsmx x) := by
  unfold Machine.runVsmx; exact tokenResults x _

theorem runVlse (x : VecCtx) : EngStep x.c x.s (runVlse x) := by
  unfold Machine.runVlse; exact setBank x.c x.s _ _

theorem runVxent (x : VecCtx) : EngStep x.c x.s (runVxent x) := by
  unfold Machine.runVxent; exact (elementwise x _).trans (setBank x.c _ _ _)

theorem runVkld (x : VecCtx) : EngStep x.c x.s (runVkld x) := by
  unfold Machine.runVkld; exact (elementwise x _).trans (setBank x.c _ _ _)

theorem runVtopk (x : VecCtx) : EngStep x.c x.s (runVtopk x) := by
  unfold Machine.runVtopk; exact tokenResults x _

theorem runVdrop (x : VecCtx) : EngStep x.c x.s (runVdrop x) := by
  unfold Machine.runVdrop
  split
  · exact writeOut x.c x.s _ _ _ _ _
  · exact elementwise x _

theorem runVec (c : Nat) (s : State) (i : VecInstr) : EngStep c s (runVec s c i) := by
  unfold Machine.runVec
  dsimp only
  generalize hl : (_ ++ _ : List (Nat × Nat)) = l
  have h0 := foldl (c := c) (f := fun (t : State) (x : Nat × Nat) => t.noteRows c x.1 x.2)
    (fun t a => noteRows c t a.1 a.2) l s
  refine h0.trans ?_
  generalize (List.foldl _ s _) = u
  split
  · exact runVlds (VecCtx.mk u c i)
  · exact runVldt (VecCtx.mk u c i)
  · exact runVstt (VecCtx.mk u c i)
  · exact runVclr (VecCtx.mk u c i)
  · exact runVbin (VecCtx.mk u c i)
  · exact runVun (VecCtx.mk u c i)
  · exact runVtok (VecCtx.mk u c i)
  · exact runVred (VecCtx.mk u c i)
  · exact runVnrm (VecCtx.mk u c i)
  · exact runVsmx (VecCtx.mk u c i)
  · exact runVlse (VecCtx.mk u c i)
  · exact runVxent (VecCtx.mk u c i)
  · exact runVkld (VecCtx.mk u c i)
  · exact runVtopk (VecCtx.mk u c i)
  · exact runVdrop (VecCtx.mk u c i)

theorem popSpb (c : Nat) (s : State) (q : List SpbInstr) :
    EngStep c s (s.setCore c { s.core c with iss := { (s.core c).iss with spbQ := q } }) :=
  ⟨rfl, rfl, fun d hd => by simp [hd], by simp, fun _ => rfl, id⟩

theorem popVec (c : Nat) (s : State) (q : List VecInstr) :
    EngStep c s (s.setCore c { s.core c with iss := { (s.core c).iss with vecQ := q } }) :=
  ⟨rfl, rfl, fun d hd => by simp [hd], by simp, fun _ => rfl, id⟩

/-- Everything that starting springbok instructions can change. -/
theorem startSpb (c n : Nat) (s : State) : EngStep c s (startSpb c n s) := by
  induction n generalizing s with
  | zero => exact refl c s
  | succ n ih =>
    unfold Machine.startSpb
    dsimp only
    split
    · split
      · exact ((((popSpb c s _).trans (runSpb c _ _)).trans (setSpb c _ _)).trans (setSpb c _ _)).trans (bump c _)
      · exact ((((popSpb c s _).trans (runSpb c _ _)).trans (setSpb c _ _)).trans (bump c _)).trans (ih _)
    · exact refl c s

/-- Everything that starting vector instructions can change. -/
theorem startVec (c n : Nat) (s : State) : EngStep c s (startVec c n s) := by
  induction n generalizing s with
  | zero => exact refl c s
  | succ n ih =>
    unfold Machine.startVec
    dsimp only
    split
    · split
      · exact ((((popVec c s _).trans (runVec c _ _)).trans (setVec c _ _)).trans (setVec c _ _)).trans (bump c _)
      · exact ((((popVec c s _).trans (runVec c _ _)).trans (setVec c _ _)).trans (bump c _)).trans (ih _)
    · exact refl c s

end EngStep

/-- With nothing queued no springbok instruction starts. -/
theorem startSpb_empty (c n : Nat) (s : State) (h : (s.core c).iss.spbQ = []) : startSpb c n s = s := by
  cases n with
  | zero => rfl
  | succ n => unfold startSpb; simp [h]

/-- With nothing queued no vector instruction starts. -/
theorem startVec_empty (c n : Nat) (s : State) (h : (s.core c).iss.vecQ = []) : startVec c n s = s := by
  cases n with
  | zero => rfl
  | succ n => unfold startVec; simp [h]

end Sys2Proof.Machine
end

