-- ==== Sys2Proof/Laws/Slots.lean ====
section
/-! SUPPORT. Everything the issue of one slot can do where nothing holds it back, said once (R31, R44, R58). -/

namespace Sys2Proof.Machine

theorem State.advance_frame (s : State) (t : Nat) : s.advance t = { s with now := (s.advance t).now, rtc := (s.advance t).rtc } := rfl

@[simp] theorem openBundle_bp (k : Core) : (openBundle k).bp = k.bp := by unfold openBundle; cases k.snap <;> rfl
@[simp] theorem openBundle_iss (k : Core) : (openBundle k).iss = k.iss := by unfold openBundle; cases k.snap <;> rfl
@[simp] theorem openBundle_storeBad (k : Core) : (openBundle k).storeBad = k.storeBad := by unfold openBundle; cases k.snap <;> rfl
@[simp] theorem openBundle_ranges (k : Core) : (openBundle k).ranges = k.ranges := by unfold openBundle; cases k.snap <;> rfl

theorem openBundle_eq (k : Core) : openBundle k = { k with snap := (openBundle k).snap } := by unfold openBundle; cases k.snap <;> rfl

/-- Opening a bundle twice is opening it once. -/
@[simp] theorem openBundle_openBundle (k : Core) : openBundle (openBundle k) = openBundle k := by
  unfold openBundle; cases h : k.snap <;> simp [h]

/-- What a slot's issue leaves unchanged, on a core that another write has opened. -/
theorem slotFrame_setCore (s u : State) (c : Nat) (i : IssueState) (hu : u = { s with now := u.now, rtc := u.rtc, cores := u.cores })
    (hn : u.now = max s.now (s.core c).nextIssue) (ho : ∀ d, d ≠ c → u.core d = s.core d) :
    SlotFrame s (u.setCore c { openBundle (s.core c) with iss := i }) c
      ∧ ((u.setCore c { openBundle (s.core c) with iss := i }).core c).iss = i := by
  have hc : (u.setCore c { openBundle (s.core c) with iss := i }).core c = { openBundle (s.core c) with iss := i } := by
    simp [State.core, State.setCore]
  refine ⟨⟨?_, hn, fun d h => ?_, ?_⟩, by rw [hc]⟩
  · rw [hu]; rfl
  · rw [← ho d h]; simp [State.core, State.setCore, tget_tput, h]
  · rw [hc]; conv_lhs => rw [openBundle_eq]

/-- A slot whose queue has room and whose ranges are loaded, fit and conflict with nothing issues: its entries stand in the scoreboard
under the next issue number, its instruction is recorded, and nothing else changes. -/
theorem issueSlot_clear (s : State) (c : Nat) (ask : SlotAsk) (put : IssueState → Nat → IssueState)
    (hb : (s.core c).bp ∉ (s.core c).storeBad) (hq : ask.queueFull = false)
    (h : RangesClear s c ask.entries ask.reads ask.writes ask.party) :
    SlotFrame s (issueSlot s c ask put) c
      ∧ ((issueSlot s c ask put).core c).iss = put ((s.core c).iss.held ask.reads ask.writes ask.party) (s.core c).iss.serial := by
  obtain ⟨hi, hr, hc⟩ := h
  have h1 : ask.entries.any (fun i => decide (4096 + i ∈ (s.core c).storeBad)) = false := by
    simp only [List.any_eq_false, decide_eq_true_eq]
    intro i hm; simpa using (hi i hm).2
  have h2 : (ask.reads ++ ask.writes).any (fun (r : Span × Nat) => !r.1.fits || decide (r.1.rows < r.2)) = false := by
    simp only [List.any_eq_false]
    intro r hm
    have := hr r hm
    simp [Span.fits, this.1]; omega
  have e : issueSlot s c ask put = ((s.toIssue c).setCore c (openBundle (s.core c))).setCore c { openBundle (s.core c) with
      iss := put ((s.core c).iss.held ask.reads ask.writes ask.party) (s.core c).iss.serial } := by
    unfold issueSlot
    simp only [State.toIssue, State.advance_core, openBundle_bp, openBundle_storeBad, openBundle_iss] at *
    rw [if_neg (by rw [h1]; simp [hb]), if_neg (by simp [hq]), if_neg (by rw [h2]; simp)]
    simp [hc, IssueState.held]
  rw [e]
  refine slotFrame_setCore s _ c _ rfl rfl (fun d h => ?_)
  simp [State.core, State.setCore, State.toIssue, State.advance, tget_tput, h]

/-- A register slot of a readable bundle changes the issue state as it says, and nothing else. -/
theorem setSlot_ready (s : State) (c : Nat) (f : IssueState → IssueState) (h : (s.core c).bp ∉ (s.core c).storeBad) :
    SlotFrame s (setSlot s c f) c ∧ ((setSlot s c f).core c).iss = f (s.core c).iss := by
  have e : setSlot s c f = (s.toIssue c).setCore c { openBundle (s.core c) with iss := f (s.core c).iss } := by
    simp [setSlot, State.toIssue, State.advance_core, h]
  rw [e]
  exact slotFrame_setCore s _ c _ rfl rfl (fun d _ => rfl)

/-- A slot operation on a core that issues answers a next state. -/
theorem onIssuing_ready (s : State) (c : Nat) (k : State) (h : CoreReady s c) : onIssuing s c k = .next k := by
  simp [onIssuing, onCore, h.1, h.2.1]

end Sys2Proof.Machine
end

