-- ==== Sys2Proof/WellFormed.lean ====
section
/-! DEFINITION. The well-formed commands: every operand within the width or range the spec gives it. -/

namespace Sys2Proof

/-- A core index (R12). -/
def coreOk (c : Nat) : Bool := decide (c < 27648)
/-- A partition number (R163). -/
def partOk (p : Nat) : Bool := decide (p < 8)
/-- A tile index (R6). -/
def tileOk (t : Nat) : Bool := decide (t < 48)
/-- A quay number (R190). -/
def quayOk (q : Nat) : Bool := decide (q < 4)
/-- A logical column (R3). -/
def colOk (x : Nat) : Bool := decide (x < 192)
/-- A Lulis port index (R335). -/
def portOk (i : Nat) : Bool := decide (i < 640)
/-- A host port number (R407). -/
def hostOk (i : Nat) : Bool := decide (i < 2)
/-- A value of n bits. -/
def fits (n v : Nat) : Bool := decide (v < 2 ^ n)
/-- A client: session slot 0-7 or host port 0-1. -/
def clientOk : Client → Bool
  | .session k => decide (k < 8)
  | .pcie i => hostOk i
/-- A scratchpad row: 512 bytes, poisoned words below 64 (R33, R34). -/
def rowOk (r : Row) : Bool := decide (r.bytes.length = 512) && r.poison.all (fun w => decide (w < 64))
/-- A range-table index of a slot (R26). -/
def rangeOk (i : Nat) : Bool := fits 8 i
/-- An index selector of a slot (R26). -/
def selOk (i : Nat) : Bool := fits 3 i
/-- An object's index and sub-index (R381). -/
def objOk (index sub : Nat) : Bool := fits 16 index && fits 8 sub
/-- A module number (R12). -/
def moduleOk (m : Nat) : Bool := fits 14 m

/-- A transfer tag: a channel and 12 bits (R109). -/
def tagOk (t : TransferTag) : Bool := fits 3 t.ch && fits 12 t.tag
/-- A tide time in cycles whose TIME encoding has 64 bits (R11). -/
def timeOk (t : Nat) : Bool := decide (t < 2 ^ 53 * 1500)
/-- A count pair list of unit classes and IDs (R327): class 0 to 9. -/
def unitsOk (l : List (Nat × Nat)) : Bool := l.all (fun u => decide (u.1 ≤ 9) && fits 32 u.2)
/-- A Sivar operation's head and data (R398). -/
def opOk (o : SivarOp) : Bool :=
  fits 8 o.op && objOk o.index o.sub && fits 32 o.length && fits 32 o.ticket && fits 64 o.offset
    && (o.op == 5 || o.length == o.data.length || o.hostbuf)
/-- The fields of a core segment's head and parts (R167). -/
def segmentOk (s : Segment) : Bool :=
  fits 16 s.entry && decide (s.bundles.length ≤ 4096 ∧ s.ranges.length ≤ 256 ∧ s.descs.length ≤ 256) && s.branch.all (fun e => fits 16 e)
/-- The header fields of an image (R165). -/
def imageOk (i : Image) : Bool :=
  fits 32 i.header.magic && fits 8 i.header.width && fits 8 i.header.firstColumns && fits 32 i.header.group
    && i.segments.all (fun e => coreOk e.1 && segmentOk e.2) && i.variants.all (fun e => coreOk e.1 && segmentOk e.2)
/-- The header fields of a firmware image (R435). -/
def firmwareOk (i : FirmwareImage) : Bool :=
  fits 32 i.magic && fits 8 i.security && fits 8 i.flags && fits 16 i.sections && fits 64 i.bodyLength
    && decide (i.vendorKey.length = 2592 ∧ i.ownerKey.length = 2592)
/-- A membership table's fields (R296). -/
def membershipOk (t : Membership) : Bool :=
  fits 32 t.ledger && fits 8 t.domains && fits 8 t.witnesses && fits 8 t.lateWindow && fits 32 t.farWait && fits 32 t.version
    && decide (t.members.length < 65536)
    && t.members.all (fun m => fits 16 m.module && fits 16 m.rank && fits 8 m.domain && fits 8 m.hall && fits 16 m.partner && fits 8 m.witnesses
      && fits 32 m.tideDomain)
/-- A shard entry's fields (R308). -/
def shardOk (e : ShardEntry) : Bool :=
  fits 16 e.shard && fits 8 e.status && fits 16 e.nearOnTime && fits 16 e.nearFolded && fits 16 e.nearDropped && fits 8 e.farOnTime
    && fits 8 e.farFolded && fits 8 e.farDropped
/-- A ledger record's fields (R308). -/
def recordOk' (r : LedgerRecord) : Bool := fits 32 r.ledger && fits 8 r.kind && fits 64 r.step && fits 64 r.term && r.entries.all shardOk
/-- A marker's fields (R184). -/
def markerOk (m : Marker) : Bool := fits 53 m.tick && moduleOk m.root && fits 16 m.epoch && m.reports.all (fun r => moduleOk r.module && fits 53 r.tick && fits 8 r.request)
/-- Temperatures in sixteenths of a degree, one a tile (R368). -/
def tempsOk (l : List Int) : Bool := decide (l.length = 48) && l.all (fun t => decide (-32768 ≤ t ∧ t < 32768))

/-- Every operand of a command has a value that its field can hold and that the spec's table of the command admits. -/
def Instr.wf : Instr → Bool
  | .next c => coreOk c
  | .loop c level count => coreOk c && fits 2 level && decide (1 ≤ count ∧ count ≤ 65535)
  | .endl c level => coreOk c && fits 2 level
  | .setix c r value => coreOk c && decide (1 ≤ r ∧ r ≤ 7) && fits 12 value
  | .addix c r value => coreOk c && decide (1 ≤ r ∧ r ≤ 7) && fits 12 value
  | .waitmark c entry => coreOk c && fits 16 entry
  | .barrier c wire => coreOk c && fits 3 wire
  | .waitdma c ch => coreOk c && fits 3 ch
  | .halt c => coreOk c
  | .jump c target => coreOk c && fits 12 target
  | .armwin c win rowsM1 => coreOk c && fits 4 win && fits 12 rowsM1
  | .arrNop c => coreOk c
  | .aset c reg _ => coreOk c && fits 4 reg
  | .wsg c sel src dst _ _ _ => coreOk c && selOk sel && rangeOk src && rangeOk dst
  | .wss c sel src dst _ _ _ => coreOk c && selOk sel && rangeOk src && rangeOk dst
  | .wtg c sel src dst _ _ _ => coreOk c && selOk sel && rangeOk src && rangeOk dst
  | .wts c sel src dst _ _ _ => coreOk c && selOk sel && rangeOk src && rangeOk dst
  | .osp c sel src dst _ => coreOk c && selOk sel && rangeOk src && rangeOk dst
  | .spbNop c => coreOk c
  | .sset c reg _ => coreOk c && fits 4 reg
  | .svld c sel src => coreOk c && selOk sel && rangeOk src
  | .smv c sel src => coreOk c && selOk sel && rangeOk src
  | .sfin c sel dst _ => coreOk c && selOk sel && rangeOk dst
  | .sclr c => coreOk c
  | .vecNop c => coreOk c
  | .vset c reg _ => coreOk c && fits 4 reg
  | .vlds c sel src => coreOk c && selOk sel && rangeOk src
  | .vldt c sel src bank _ => coreOk c && selOk sel && rangeOk src && decide (bank < 3)
  | .vstt c sel dst bank => coreOk c && selOk sel && rangeOk dst && decide (bank < 3)
  | .vclr c mask => coreOk c && decide (1 ≤ mask ∧ mask ≤ 7)
  | .vbin c sel src dst sub _ _ => coreOk c && selOk sel && rangeOk src && rangeOk dst && decide (sub ≤ 4)
  | .vun c sel src dst sub _ _ => coreOk c && selOk sel && rangeOk src && rangeOk dst && decide (sub ≤ 10)
  | .vtok c sel src dst sub _ _ => coreOk c && selOk sel && rangeOk src && rangeOk dst && decide (sub ≤ 3)
  | .vred c sel src dst sub _ => coreOk c && selOk sel && rangeOk src && rangeOk dst && decide (sub ≤ 4)
  | .vnrm c sel src dst sub _ => coreOk c && selOk sel && rangeOk src && rangeOk dst && decide (sub ≤ 1)
  | .vsmx c sel src dst _ => coreOk c && selOk sel && rangeOk src && rangeOk dst
  | .vlse c sel src bank => coreOk c && selOk sel && rangeOk src && decide (bank < 2)
  | .vxent c sel src dst _ _ => coreOk c && selOk sel && rangeOk src && rangeOk dst
  | .vkld c sel src dst sub _ _ => coreOk c && selOk sel && rangeOk src && rangeOk dst && decide (sub ≤ 2)
  | .vtopk c sel src dst sub => coreOk c && selOk sel && rangeOk src && rangeOk dst && decide (sub ≤ 1)
  | .vdrop c sel src dst sub _ => coreOk c && selOk sel && rangeOk src && rangeOk dst && decide (sub ≤ 1)
  | .dmaStart c sel ch desc target => coreOk c && selOk sel && decide (target = 0 → sel = 0) && fits 3 ch && fits 8 desc && fits 2 target
  | .scoreboardRelease c entry => coreOk c && decide (entry < 32)
  | .stationaryLoad c => coreOk c
  | .passSwap c => coreOk c
  | .chainDrain c => coreOk c
  | .scrubRowRead c => coreOk c
  | .scrubWriteBack c row => coreOk c && fits 12 row
  | .windowSet cl p c win _ => clientOk cl && partOk p && coreOk c && fits 4 win
  | .remoteRowArrival c srcModule srcCore tag row data => coreOk c && moduleOk srcModule && coreOk srcCore && tagOk tag && fits 12 row && rowOk data
  | .remoteReadRequest c srcModule srcCore tag row => coreOk c && moduleOk srcModule && coreOk srcCore && fits 2 tag.vc && fits 3 tag.ch && fits 12 tag.tag && fits 12 row
  | .descriptorBegin c ch => coreOk c && fits 3 ch
  | .channelRowMove c ch => coreOk c && fits 3 ch
  | .transitSlotEntry p place _ _ => partOk p && decide (place.y < 144) && colOk place.x
  | .writeResponseArrival c tag => coreOk c && tagOk tag
  | .readResponseArrival c tag k data => coreOk c && tagOk tag && fits 12 k && rowOk data
  | .rejectArrival c tag k => coreOk c && tagOk tag && fits 12 k
  | .channelComplete c ch => coreOk c && fits 3 ch
  | .dmaDisable cl p c mask => clientOk cl && partOk p && coreOk c && fits 8 mask
  | .gantryCommit x _ => colOk x
  | .gantryBeatArrival c _ => coreOk c
  | .creditReturn c _ => coreOk c
  | .multicastStall x _ => colOk x
  | .storeLoad cores seg => colOk cores.x && cores.rows.all (fun y => decide (y < 144)) && segmentOk seg
  | .barrierComplete p wire => partOk p && fits 3 wire
  | .heartbeatToggle c => coreOk c
  | .heartbeatMiss c => coreOk c
  | .routerError site => decide (site < 28800)
  | .fastClockStart tile => tileOk tile
  | .boundaryPhaseCheck a b _ => tileOk a && tileOk b
  | .boundaryRecalibrate a b => tileOk a && tileOk b
  | .markInstanceFires p insts => partOk p && insts.all (fun e => fits 16 e.1 && fits 12 e.2.1 && fits 12 e.2.2)
  | .preempt cl p => clientOk cl && partOk p
  | .partitionHalt cl p => clientOk cl && partOk p
  | .partitionEnd cl p => clientOk cl && partOk p
  | .withdraw cl p => clientOk cl && partOk p
  | .preemptTimeout p => partOk p
  | .launch cl p _ => clientOk cl && partOk p
  | .resume cl p _ => clientOk cl && partOk p
  | .cancel cl p _ => clientOk cl && partOk p
  | .launchMark p => partOk p
  | .imageUpload cl slot img => clientOk cl && decide (slot < 8) && imageOk img
  | .tideStop cl => clientOk cl
  | .tideStart cl => clientOk cl
  | .tideLock => true
  | .tideMarkerSend => true
  | .tideMarkerReceive port m => portOk port && markerOk m
  | .upstreamSwitch => true
  | .freeEntry => true
  | .rootTakeover => true
  | .domainJoin domain root revision tick => fits 32 domain && moduleOk root && fits 8 revision && fits 53 tick
  | .stretchRampStep => true
  | .referenceTick => true
  | .ptpSync utc => fits 64 utc
  | .timedRowRelease p port sent c srcModule srcCore tag row _ data => partOk p && portOk port && timeOk sent && coreOk c && moduleOk srcModule && coreOk srcCore && tagOk tag && fits 12 row && rowOk data
  | .tensorCreate cl _ => clientOk cl
  | .tensorDelete cl id => clientOk cl && fits 32 id
  | .pinEdit cl id lead residency => clientOk cl && fits 32 id && fits 16 lead && fits 8 residency
  | .contentWrite cl id version offset _ _ => clientOk cl && fits 32 id && fits 64 version && fits 64 offset
  | .checkpoint cl id => clientOk cl && fits 32 id
  | .checkpointComplete id _ => fits 24 id
  | .quayRowWrite q srcModule srcCore offset _ data => quayOk q && moduleOk srcModule && coreOk srcCore && fits 45 offset && rowOk data
  | .quayRowRead q srcModule srcCore offset _ => quayOk q && moduleOk srcModule && coreOk srcCore && fits 45 offset
  | .fetchIssue p r j k step i o => partOk p && fits 16 r && fits 8 j && fits 32 k && fits 64 step && fits 12 i && fits 12 o
  | .fetchDataReady q _ => quayOk q
  | .decisionPoint q _ => quayOk q
  | .flashRecoveryStep q _ _ => quayOk q
  | .dramUncorrectable q _ _ _ => quayOk q
  | .tilePacketSend q p col seq => quayOk q && partOk p && colOk col && fits 16 seq
  | .bufferCreditReturn x _ => colOk x
  | .residencyCopyDone q id => quayOk q && fits 24 id
  | .flashScanPage q id page step => quayOk q && fits 24 id && fits 40 page && fits 64 step
  | .intakeRow address srcModule srcCore data => decide (address < 2 ^ 64) && moduleOk srcModule && coreOk srcCore && rowOk data
  | .frameConvert unit col => decide (unit < 192) && decide (col < 2)
  | .frameAccumulate q _ payload => quayOk q && decide (payload.length ≤ 4096)
  | .statisticsReport q p layer => quayOk q && partOk p && fits 12 layer
  | .formatDecision p layer => partOk p && fits 12 layer
  | .layerPin cl p layer pin => clientOk cl && partOk p && fits 16 layer && fits 8 pin
  | .stashDecision p step o segs => partOk p && fits 64 step && fits 12 o && fits 8 segs
  | .reduceScatterBegin p => partOk p
  | .passOneBegin p => partOk p
  | .passTwoBegin p => partOk p
  | .publicationBegin p => partOk p
  | .unitWriteback q engine => quayOk q && fits 8 engine
  | .rootComputation id a b _ => fits 24 id && fits 16 a && fits 16 b
  | .engineFault q engine _ => quayOk q && fits 8 engine
  | .assignment cl id group => clientOk cl && fits 32 id && decide (group < 16)
  | .stateReset cl id => clientOk cl && fits 32 id
  | .stateWrite cl id part offset _ => clientOk cl && fits 32 id && decide (part ≤ 3) && fits 64 offset
  | .groupRecordWrite cl g _ => clientOk cl && decide (g < 16)
  | .handoffResultReceive p member result => partOk p && moduleOk member && decide (result ≤ 8)
  | .handoffReportDeadline p => partOk p
  | .packetForward q _ payload => quayOk q && decide (payload.length ≤ 4096)
  | .contribReceive q _ payload => quayOk q && decide (payload.length ≤ 4096)
  | .partialReceive q _ payload => quayOk q && decide (payload.length ≤ 4096)
  | .nearClose q => quayOk q
  | .farClose q => quayOk q
  | .mirrorReceive q _ payload => quayOk q && decide (payload.length ≤ 4096)
  | .mirrorAck q shard => quayOk q && fits 16 shard
  | .normReceive q _ payload => quayOk q && decide (payload.length ≤ 4096)
  | .gatherReceive q _ payload => quayOk q && decide (payload.length ≤ 4096)
  | .rejectPacketReceive q _ => quayOk q
  | .shardDoneReceive step holderModule holderQuay e => fits 64 step && moduleOk holderModule && quayOk holderQuay && shardOk e
  | .witnessAck w term => decide (w < 9) && fits 64 term
  | .commitReceive q step term => quayOk q && fits 64 step && fits 64 term
  | .electionTimeout w => decide (w < 9)
  | .voteRequest w term candidate lastTerm lastRecord => decide (w < 9) && fits 64 term && decide (candidate < 9) && fits 64 lastTerm && fits 64 lastRecord
  | .voteGrant w term voter => decide (w < 9) && fits 64 term && decide (voter < 9)
  | .hmHeartbeat module quay term => moduleOk module && quayOk quay && fits 64 term
  | .heartbeatAnswer module quay => moduleOk module && quayOk quay
  | .memberLost module quay => moduleOk module && quayOk quay
  | .harbourMasterSilence q => quayOk q
  | .partitioned q => quayOk q
  | .rejoin q term => quayOk q && fits 64 term
  | .resyncDone q shard => quayOk q && fits 16 shard
  | .membershipWrite cl table => clientOk cl && (match table with | some t => membershipOk t | none => true)
  | .digestReport module _ => moduleOk module
  | .restore cl ledger => clientOk cl && fits 32 ledger
  | .powerEnable => true
  | .stageEnd result detail tested firstFailing failing passing => decide (result ≤ 3) && fits 16 detail && fits 32 tested && fits 32 firstFailing && unitsOk failing && unitsOk passing
  | .discardResultsRecord cl => clientOk cl
  | .testRequest cl _ => clientOk cl
  | .testComplete tag failing tested => fits 32 tag && unitsOk failing && fits 32 tested
  | .testCancel cl tag => clientOk cl && fits 32 tag
  | .overlayAdd cl _ => clientOk cl
  | .overlayRemove cl cls unit => clientOk cl && decide (1 ≤ cls ∧ cls ≤ 8) && fits 32 unit
  | .portRetrainFast cl port => clientOk cl && portOk port
  | .portRetrainFull cl port => clientOk cl && portOk port
  | .trainingComplete port good latency _ => portOk port && fits 9 good && fits 32 latency
  | .wavelengthFailure port wavelength => portOk port && decide (wavelength < 9)
  | .calibrationMeasure port ratios calibRatio _ => portOk port && ratios.all (fun e => decide (e.1 < 9)) && fits 32 calibRatio
  | .downRetry port => portOk port
  | .leaveReceived port => portOk port
  | .moduleResetRequest cl => clientOk cl
  | .moduleResetInstance => true
  | .moduleResetDrainDone => true
  | .fallbackReset => true
  | .reset cl p => clientOk cl && partOk p
  | .recover cl p => clientOk cl && partOk p
  | .coreReset cl p c => clientOk cl && partOk p && coreOk c
  | .berthReset cl p c => clientOk cl && partOk p && coreOk c
  | .coreResetComplete c => coreOk c
  | .drainAbandon c ch => coreOk c && fits 3 ch
  | .recoveryDecision p => partOk p
  | .recoveryWaitEnd p => partOk p
  | .thermalEvaluation temps inlet => tempsOk temps && decide (-32768 ≤ inlet ∧ inlet < 32768)
  | .thermalEmergency tile => tileOk tile
  | .emergencyRelease tile => tileOk tile
  | .emergencyTimeout tile => tileOk tile
  | .thermalTrip tile => tileOk tile
  | .manualShedLeave cl tile => clientOk cl && tileOk tile
  | .manualShedCompute cl tile => clientOk cl && tileOk tile
  | .manualShedDark cl tile => clientOk cl && tileOk tile
  | .watchdogExpiry => true
  | .journalReplay => true
  | .eventLogCopy => true
  | .hello k maxDatagram _ nonce kemKey => fits 8 k && fits 16 maxDatagram && decide (nonce.length = 32) && decide (kemKey.length = 1568)
  | .prove sid signature => fits 64 sid && decide (signature.length = 4627)
  | .close sid _ => fits 64 sid
  | .proveTimeout sid => fits 64 sid
  | .sessionIdleTimeout sid => fits 64 sid
  | .sessionLifetimeExpiry sid => fits 64 sid
  | .request sid seq _ ops => fits 64 sid && fits 64 seq && ops.all opOk
  | .read cl index sub _ => clientOk cl && objOk index sub
  | .write cl index sub _ _ => clientOk cl && objOk index sub
  | .describe cl index sub => clientOk cl && objOk index sub
  | .readSeg cl index sub _ offset length => clientOk cl && objOk index sub && fits 64 offset && fits 32 length
  | .writeSeg cl index sub _ _ offset _ => clientOk cl && objOk index sub && fits 64 offset
  | .ticket cl t => clientOk cl && fits 32 t
  | .ticketDone t status => fits 32 t && fits 16 status
  | .slotTaken port slot _ tag length zeroField ops => hostOk port && decide (slot < 128) && fits 64 tag && fits 32 length && fits 64 zeroField && ops.all opOk
  | .offer cl => clientOk cl
  | .accept cl => clientOk cl
  | .take cl => clientOk cl
  | .offerExpiry => true
  | .openDraft cl => clientOk cl
  | .discardDraft cl => clientOk cl
  | .commit cl => clientOk cl
  | .revert cl => clientOk cl
  | .configDefaults cl => clientOk cl
  | .closeSessions cl => clientOk cl
  | .keySlotWrite cl k _ => clientOk cl && decide (k < 16)
  | .mailboxRowWrite srcCore p row data => coreOk srcCore && partOk p && fits 12 row && rowOk data
  | .enterDeepPark cl => clientOk cl
  | .leaveDeepPark cl => clientOk cl
  | .goToStandby cl => clientOk cl
  | .powerDisable => true
  | .modResetAssert => true
  | .modResetRelease => true
  | .pumpOkLost => true
  | .pumpOkRestored => true
  | .pumpLossShed => true
  | .pumpLossStandby => true
  | .ppsEdge => true
  | .inputLoss lowestMv => fits 32 lowestMv
  | .inputOvervoltage => true
  | .inputReturn => true
  | .thermAlertRelease => true
  | .pcieReset i => hostOk i
  | .pcieLinkDown i => hostOk i
  | .firmwareUpload cl img => clientOk cl && firmwareOk img
  | .apply cl => clientOk cl
  | .discardStaging cl => clientOk cl
  | .firmwareRestart => true
  | .counterAdvance cl => clientOk cl
  | .ownerKeyFuse cl _ => clientOk cl
  | .attestationRequest cl _ => clientOk cl
  | .spdmGetMeasurements i => hostOk i
  | .pcieLinkUp i width rate _ => hostOk i && fits 8 width && fits 8 rate
  | .ideKeyProgramming i => hostOk i
  | .deepParkEntryComplete => true
  | .standbyDrainEnd => true
  | .beaconClockLost tile => tileOk tile
  | .ptpGrandmasterLost => true
  | .quayReadReqReceive q _ => quayOk q
  | .witnessRecordReceive w r => decide (w < 9) && recordOk' r

end Sys2Proof
end

