-- ==== Sys2Proof/Tests/Slice0.lean ====
section
/-! SUPPORT. The model's own tests: witnesses for the statements, and single steps with the values the spec gives. -/

namespace Sys2Proof.Tests

open Sys2Proof.Machine

set_option Elab.async false

/-! ### Small states -/

/-- The controller serves host 0, nothing runs. -/
def served : State := { State.reset with mc := { up := true }, bring := { active := false }, hosts := [(0, { up := true })] }

/-- Core 0 in a state. -/
def withCore (k : Core) : State := { State.reset with cores := [(0, k)] }

/-- A core that issues, with three ranges that start at row 0, 1,024 and 2,048 and a last one that ends with row 4,095. -/
def running : Core := { wait := .running, ranges := [0x3FF000, 0x3FF400, 0x3FF800, 0x3FFC00] }

/-! ### Witnesses: states and operands that meet the hypotheses of each statement -/

theorem witness_StepTakesTheFrontCommandOrIdles :
    ({ State.reset with pending := [.eventLogCopy] } : State).pending = .eventLogCopy :: [] ∧ State.reset.pending = [] := by decide

theorem witness_RegisterAndSpringbokSlotsIssue :
    coreExists State.reset 27647 = true ∧ CoreReady (withCore running) 0
      ∧ SpbIssues (withCore running) 0 [0] [((withCore running |>.core 0).rangeOf 0 0, spbV [] * spbVecRows [])] []
      ∧ (spbBase [(1, 0x8000)] + 512 ≤ 512 ∧ spbWeight [(1, 0x8000)] = 4
        ∧ SpbIssues (withCore { running with ranges := [0x1FF000, 0x3FF400], iss := { spbRegs := [(1, 0x8000)] } }) 0 [0, 1]
            [({ first := 0, rows := 512 }, 512), ({ first := 1024, rows := 1024 }, 32)] [])
      ∧ (spbBase [] + spbN [] ≤ 512
        ∧ SpbIssues (withCore running) 0 [3] [] [({ first := 3072, rows := 1024 }, rowsFor 0 (spbN [] * spbV [] * (codeBits (spbOutput []) / 8)))])
      ∧ SpbIssues (withCore running) 0 [] [] [] := by
  unfold SpbIssues CoreReady RangesClear
  try dsimp only
  and_intros
  all_goals decide +kernel

theorem witness_VectorSlotsIssue :
    VecIssues (withCore running) 0 .vlds 0 0 0 0 false ∧ VecIssues (withCore running) 0 .vldt 0 1 0 0 false
      ∧ VecIssues (withCore running) 0 .vstt 0 0 3 0 false ∧ VecIssues (withCore running) 0 .vclr 0 0 0 0 false
      ∧ VecIssues (withCore running) 0 .vbin 0 0 2 0 false ∧ VecIssues (withCore running) 0 .vun 0 0 2 0 false
      ∧ VecIssues (withCore running) 0 .vtok 0 0 2 0 false ∧ VecIssues (withCore running) 0 .vred 0 0 2 0 false
      ∧ VecIssues (withCore running) 0 .vnrm 0 0 2 0 false ∧ VecIssues (withCore running) 0 .vsmx 0 0 3 0 false
      ∧ VecIssues (withCore running) 0 .vlse 0 0 0 0 false ∧ VecIssues (withCore running) 0 .vxent 0 0 2 0 false
      ∧ VecIssues (withCore running) 0 .vkld 0 0 2 0 false ∧ VecIssues (withCore running) 0 .vtopk 0 0 2 0 false
      ∧ VecIssues (withCore running) 0 .vdrop 0 0 3 0 false := by
  unfold VecIssues CoreReady RangesClear
  try dsimp only
  and_intros
  all_goals decide +kernel

theorem witness_SequencerOperationsStepWaitAndHalt :
    CoreReady (withCore running) 0
      ∧ (CoreReady (withCore { running with loops := [(2, 7)] }) 0 ∧ ([(2, 7)] : List (Nat × Nat))[0]? = some (2, 7) ∧ 1 < 2)
      ∧ (CoreReady (withCore { running with loops := [(1, 7)] }) 0 ∧ ([(1, 7)] : List (Nat × Nat))[0]? = some (1, 7))
      ∧ 4095 < 4096
      ∧ (let s : State := { withCore running with sivar := { config := [(okey 0x2100 3, [8])] } }
         CoreReady s 0 ∧ s.partOfCore 0 = some 0 ∧ s.partOfCore 27647 = some 0) := by
  unfold CoreReady
  try dsimp only
  and_intros
  all_goals decide +kernel

theorem witness_WindowArmsAndDescriptorsStart :
    (let k : Core := { running with windows := [(15, { map := BitVec.ofNat 128 (2 ^ 44 + 4095 * 2 ^ 58) })] }
      let w := tget {} k.windows 15
      CoreReady (withCore k) 0 ∧ w.armed = false ∧ w.fenced = false ∧ w.closedSinceLoad = false ∧ winDir w.map ≠ 0
        ∧ checkSb (openBundle k).live (openBundle k).mine [entryOf { first := winBase w.map, rows := winRows w.map }
            (if winDir w.map = 1 then .write else .read) (.window 15) k.iss.serial] = .clear)
      ∧ (CoreReady (withCore { running with windows := [(0, { fenced := true })] }) 0)
      ∧ (CoreReady (withCore { running with windows := [(0, { armed := true })] }) 0)
      ∧ (let k : Core := { running with descs := List.replicate 256 0 }
         CoreReady (withCore k) 0 ∧ k.descs[255]? = some 0 ∧ 4352 + 255 ∉ k.storeBad ∧ tget none k.iss.pend 7 = none) := by
  unfold CoreReady
  try dsimp only
  and_intros
  all_goals decide +kernel

/-- A queued array instruction whose registers stand at 0: one token, one pass, one chain. -/
def aInstr : ArrInstr :=
  { id := 0, issued := 0, op := .wss, regs := [], srcA := { first := 0, rows := 1 }, srcB := { first := 8, rows := 4 }
    dst := { first := 16, rows := 1 }, sr := false, drain := true, acc := false, seedz := false }

/-- A queue packet of BF16 that carries nothing yet. -/
def aPacket : Packet :=
  { header := 0, elems := [], scales := [], headerBad := false, bodyBad := false, corrected := 0, north := false }

/-- A loaded tile. -/
def aBank : TileBank := { format := 0, elems := [], scales := [], transposed := false, poison := false, skip := false }

/-- A chain that waits for its drain. -/
def aJob (i : ArrInstr) : DrainJob := { ins := i, chain := 0, pass := 0, bank := 0, lastVec := 0, shifts := [] }

/-- The module with heat and clocks on one tile, and one health record of one core. -/
def withHeal (c : Nat) (h : CoreHealth) : State :=
  { State.reset with health := [(c, h)], tiles := [(coreTile c, { fastClock := true })] }

theorem witness_EntriesReleaseAndTilesLoad :
    (let k : Core := { iss := { sb := [{ first := 0, last := 4095, kind := .read, party := .arr, owner := 0 }] } };
      coreExists (withCore k) 0 = true ∧ (∃ e, k.iss.sb[0]? = some e ∧ releasable k e = true) ∧ k.snap = none)
      ∧ (let k : Core := { arr := { cur := some { aInstr with op := .wsg } }, queue := [aPacket] };
        (∃ i, (nextArr ((withCore k).core 0)).arr.cur = some i ∧ i.fromQueue = true ∧ (nextArr ((withCore k).core 0)).arr.shadow = none
          ∧ arrayFrozen (withCore k) 0 = false ∧ ((withCore k).heal 0).dead = false
          ∧ (nextArr ((withCore k).core 0)).queue = aPacket :: []))
      ∧ (let k : Core := { arr := { cur := some aInstr } };
        (∃ i, (nextArr ((withCore k).core 0)).arr.cur = some i ∧ i.fromQueue = false ∧ i.osp = false
          ∧ (nextArr ((withCore k).core 0)).arr.shadow = none ∧ arrayFrozen (withCore k) 0 = false
          ∧ ((withCore k).heal 0).dead = false)) := by
  refine ⟨⟨by decide +kernel, ⟨_, rfl, by decide +kernel⟩, rfl⟩, ⟨{ aInstr with op := .wsg }, ?_⟩, ⟨aInstr, ?_⟩⟩
  all_goals decide +kernel

theorem witness_PassesAccumulateAndDrain :
    (let s := withCore { arr := { cur := some aInstr, shadow := some aBank } };
      let a := (nextArr (s.core 0)).arr
      (nextArr (s.core 0)).arr.cur = some aInstr ∧ aInstr.osp = false ∧ arrayFrozen s 0 = false
        ∧ (nextArr (s.core 0)).arr.shadow = some aBank ∧ (a.pass = 0 ∧ aInstr.acc = false
          ∧ ∀ j ∈ a.drains, j.ins.osp = true ∨ j.bank ≠ 1 - a.accBank))
      ∧ (let s := withCore { arr := { cur := some { aInstr with op := .osp } } };
        let a := (nextArr (s.core 0)).arr
        a.cur = some { aInstr with op := .osp } ∧ ({ aInstr with op := .osp } : ArrInstr).osp = true ∧ arrayFrozen s 0 = false
          ∧ ∀ j ∈ a.drains, j.ins.osp = false ∨ j.bank ≠ 1 - a.ospBank)
      ∧ (let s := withCore { arr := { drains := [aJob aInstr] } };
        (s.core 0).arr.drains = aJob aInstr :: [] ∧ arrayFrozen s 0 = false ∧ (aJob aInstr).ins.osp = false
          ∧ heldDrain (s.core 0) (aJob aInstr) = some (aJob aInstr) ∧ (s.core 0).arr.cur = none ∧ (s.core 0).iss.arrQ = [])
      ∧ heldDrain { arr := { cur := some aInstr, drains := [aJob aInstr] } } (aJob aInstr) = none
      ∧ arrayFrozen { withCore {} with tiles := [(0, { state := .emergency })] } 0 = true
      ∧ (let s := withCore { arr := { drains := [aJob { aInstr with op := .osp }] } };
        (s.core 0).arr.drains = aJob { aInstr with op := .osp } :: [] ∧ arrayFrozen s 0 = false
          ∧ heldDrain (s.core 0) (aJob { aInstr with op := .osp }) = some (aJob { aInstr with op := .osp })
          ∧ (aJob { aInstr with op := .osp }).ins.osp = true) := by
  dsimp only
  and_intros
  all_goals decide +kernel

theorem witness_ScrubberBarriersAndHeartbeats :
    (let s := withHeal 27647 { scrubRow := 4095 };
      coreExists s 27647 = true ∧ (s.tile (coreTile 27647)).fastClock = true ∧ (s.heal 27647).fenced = false
        ∧ (s.heal 27647).offered = false ∧ s.cfg 0x3100 0x11 ≠ 0)
      ∧ (let s := withHeal 27647 { offered := true };
        (s.heal 27647).offered = true ∧ s.cfg 0x3100 1 ≠ 2 ∧ spareOf s (coreTile 27647) (coreX 27647 % 24) = 0 ∧ operationShifts s (coreX 27647) = 0
          ∧ s.partOfColumn (coreX 27647 / 24) = none ∧ s.overlay.entries.length < 1024)
      ∧ (4095 ∈ ((withHeal 0 { scrubPending := [4095] }).heal 0).scrubPending)
      ∧ (0 ∈ ((withHeal 0 { writeBack := [0] }).heal 0).writeBack)
      ∧ (let s : State := { State.reset with parts := [(7, { barriers := [(15, 0, 0)] })] };
        (7 < 8 ∧ (s.part 7).barriers.filter (fun e => e.1 == 15) ≠ [])
          ∧ ∀ c ∈ s.enabledCores 7, ∃ e ∈ (s.part 7).barriers.filter (fun e => e.1 == 15), e.2.1 = c)
      ∧ (let s := withHeal 0 { heartbeat := true };
        (s.heal 0).heartbeat = true ∧ (s.heal 0).dead = false ∧ (s.tile (coreTile 0)).fastClock = true)
      ∧ (let s : State := { withHeal 0 { heartbeat := true } with now := 1500, sivar := { config := [(okey 0x2100 3, [8])] } };
        (s.heal 0).toggled < s.now / 1500 ∧ s.partOfCore 0 = some 0) := by
  dsimp only
  and_intros
  all_goals decide +kernel

/-- An entry for a router site of a STOPPED partition's columns waits for its restart (R330). -/
theorem test_shift_waits_for_restart :
    (let s : State := { State.reset with sivar := { config := [(okey 0x2100 3, [1])] } };
     let r := s.shiftLater 5 2 4 0;
     r.2 = stOk ∧ shiftRow r.1 0 0 = none ∧ spareOf r.1 0 0 = 2 ∧ shiftRow (r.1.applyPending 0) 0 0 = some 5) := by
  decide +kernel

/-- The module serves, and partition 0 has every column, in a run state. -/
def banded (p : Partition) : State :=
  { served with sivar := { config := [(okey 0x2100 3, [8])] }, parts := [(0, p)] }

/-- A window map over every source, base row and rows given, for writes (1) or reads (2). -/
def aMap (dir base rowsM1 : Nat) : BitVec 128 :=
  BitVec.ofNat 128 (0x3FFF * 2 ^ 100 + 27647 * 2 ^ 70 + base * 2 ^ 58 + rowsM1 * 2 ^ 46 + dir * 2 ^ 44)

/-- A core with window 15 armed. -/
def windowed (dir base left : Nat) : Core := { windows := [(15, { map := aMap dir base 0, armed := true, left := left })] }

/-- A descriptor that copies rows from row 0 to row 1,024 of its own core. -/
def copyDesc (rowsM1 : Nat) : BitVec 512 :=
  BitVec.ofNat 512 (2 * 2 ^ 506 + 2 * 2 ^ 504 + 4095 * 2 ^ 486 + 1024 * 512 * 2 ^ 320 + rowsM1 * 2 ^ 308 + rowsM1 * 2 ^ 296 + 2 ^ 276 + 2 ^ 256)

/-- A descriptor that fills row 4,095 with a pattern. -/
def fillDesc : BitVec 512 :=
  BitVec.ofNat 512 (2 * 2 ^ 508 + 2 * 2 ^ 504 + 4095 * 2 ^ 486 + 4095 * 512 * 2 ^ 320 + 0xA5 * 2 ^ 192)

/-- A row of 512 bytes. -/
def aRow : Row := { bytes := List.replicate 512 1, poison := [] }

/-- Channel 7 of core 0. -/
def channelled (v : Channel) : State := withCore { chans := [(7, v)] }

theorem witness_WindowsAdmitRowsAndLoad :
    (let s := withCore (windowed 1 4095 1);
      coreExists s 0 = true ∧ answers s 0 = true ∧ takingWindow (s.core 0) 1 (16383, 27647, 7, 4095) 4095 = some 15
        ∧ aRow.bytes.length = 512 ∧ remoteWaits s 0 1 = false)
      ∧ (let s : State := { withCore { windowed 1 4095 1 with chans := [(0, { state := .active, desc := fillDesc })] } with now := 5 };
        takingWindow (s.core 0) 1 (0, 0, 0, 0) 4095 = some 15 ∧ remoteWaits s 0 1 = true)
      ∧ (let s : State := { withCore { windowed 2 0 1 with chans := [(1, { state := .active, desc := copyDesc 0 })] } with now := 5 };
        takingWindow (s.core 0) 2 (0, 0, 0, 0) 0 = some 15 ∧ remoteWaits s 0 0 = true)
      ∧ (let s := withCore (windowed 1 4095 2); takingWindow (s.core 0) 1 (0, 0, 0, 0) 4095 = some 15)
      ∧ (let s := withCore (windowed 1 4095 1); takingWindow (s.core 0) 1 (0, 0, 0, 0) 4094 = none)
      ∧ (let s := withCore { windowed 1 4095 1 with rejecting := [Sender.transfer (0, 0, 0, 0)] };
        takingWindow (s.core 0) 1 (0, 0, 0, 0) 4095 = none)
      ∧ (let s := withCore (windowed 2 0 1); answers s 0 = true ∧ takingWindow (s.core 0) 2 (0, 0, 0, 0) 0 = some 15
        ∧ remoteWaits s 0 0 = false ∧ (s.core 0).responses = [] ∧ ∀ n, n < 2 → ((s.core 0).chan n).state ≠ .active)
      ∧ (let s := withCore (windowed 2 0 1); takingWindow (s.core 0) 2 (0, 0, 0, 0) 1 = none)
      ∧ answers { State.reset with health := [(27647, { fenced := true })] } 27647 = false
      ∧ (let s := banded {};
        Serves s (.pcie 0) false ∧ winMapOk (aMap 1 4095 0) = true ∧ s.partOfCore 0 = some 0
          ∧ (tget {} (s.core 0).windows 15).armed = false ∧ (s.part 0).marks = false)
      ∧ (let s := banded { run := .running };
        Serves s (.pcie 0) false ∧ winMapOk (aMap 0 0 4095) = true ∧ s.partOfCore 27647 = some 0 ∧ (s.part 0).marks = true)
      ∧ (columnExists (banded {}) 191 = true ∧ (∀ y ∈ [0, 143], y < 144) ∧ (banded {}).partOfColumn (191 / 24) = some 0)
      ∧ (loadable (banded {}) 0 = true ∧ loadable (banded { run := .fault }) 0 = true ∧ loadable (banded { run := .starting }) 0 = false) := by
  unfold Serves
  dsimp only
  and_intros
  all_goals decide +kernel

/-- A descriptor of one row between row 4,095 of its own core and an address of quay 0: a read of the quay, or a write to it. -/
def quayDesc (read : Bool) : BitVec 512 :=
  BitVec.ofNat 512 (if read then 2 ^ 506 + 2 * 2 ^ 504 + 4095 * 2 ^ 486 + 2 ^ 47 * 2 ^ 384 + 4095 * 512 * 2 ^ 320
    else 2 * 2 ^ 506 + 2 ^ 504 + 4095 * 2 ^ 486 + 4095 * 512 * 2 ^ 384 + 2 ^ 47 * 2 ^ 320)

/-- Channel 7 of core 0, in a partition that has every column. -/
def banding (v : Channel) : State := { channelled v with sivar := { config := [(okey 0x2100 3, [8])] } }

/-- The same with every port of quay 0 up. -/
def portable (v : Channel) : State := { banding v with ports := [(0, { outcome := 3 })] }

theorem witness_DescriptorsBeginAndChannelsMoveRows :
    (let s := withCore { iss := { pend := [(7, some { desc := copyDesc 1023, idx := 255, entered := 0 })] } };
      let at' := max s.now ((s.core 0).beginAt { desc := copyDesc 1023, idx := 255, entered := 0 });
      answers s 0 = true ∧ (s.core 0).snap = none ∧ ((s.core 0).chan 7).state = .idle
        ∧ (∀ n, n < 7 → takesBegin (s.core 0) at' n = false)
        ∧ descInRange (copyDesc 1023) = true ∧ descAligned (copyDesc 1023) = true
        ∧ checkSb (s.core 0).iss.sb [] (descEntries (copyDesc 1023) 7 0) = .clear
        ∧ descInRange (copyDesc 4095) = false ∧ descAligned (copyDesc 1023 + 2 ^ 384) = false ∧ bundleDue s 0 at' = false)
      ∧ bundleDue (withCore running) 0 0 = true
      ∧ (let s := banding {}; let e := descEntries (copyDesc 0) 7 0;
        checkSb e [] e = .hazard ∧ coreElastic s 0 = false)
      ∧ (let s := channelled { state := .active, desc := fillDesc }; let v := (s.core 0).chan 7;
        v.state = .active ∧ descFill v.desc = true ∧ v.rowsDone < descN v.desc ∧ (s.core 0).responses = []
          ∧ portRival s 0 7 1 (grantAt s 0 1 (v.since + 6) 1) = false ∧ chosenAct s 0 7 = some (.fill, 6))
      ∧ chosenAct (channelled { state := .active, desc := copyDesc 0 }) 0 7 = some (.read, 0)
      ∧ chosenAct (channelled { state := .active, desc := copyDesc 0, rowsRead := 1, staging := [(0, aRow)] }) 0 7 = some (.store 0 aRow, 0)
      ∧ chosenAct (banding { state := .active, desc := quayDesc true, staging := [(0, aRow)], rowsSent := 1 }) 0 7 = some (.store 0 aRow, 0)
      ∧ chosenAct (channelled { state := .active, desc := copyDesc 0 + 2 ^ 498, rowsRead := 1, rowsDone := 1 }) 0 7 = some (.storeResult, 1)
      ∧ (let s := portable { state := .active, desc := quayDesc false, rowsRead := 1, staging := [(0, aRow)] };
        let v := (s.core 0).chan 7;
        chosenAct s 0 7 = some (.send 0 aRow, 1) ∧ 0 < descN v.desc ∧ dstAddrOf v.desc 0 = some (2 ^ 47)
          ∧ routerRejects s 0 (descDstLoc v.desc) (2 ^ 47) = false)
      ∧ (let s := portable { state := .active, desc := quayDesc true }; let v := (s.core 0).chan 7;
        chosenAct s 0 7 = some (.ask, 1) ∧ (s.core 0).responses = [] ∧ srcAddrOf v.desc v.rowsSent = some (2 ^ 47)
          ∧ routerRejects s 0 (descSrcLoc v.desc) (2 ^ 47) = false)
      ∧ (let s := withCore { chans := [(0, { state := .active, desc := fillDesc }), (7, { state := .active, desc := fillDesc })] };
        nextActs (s.core 0) 7 = [(.fill, 6)] ∧ portRival s 0 7 RowAct.fill.port (grantAt s 0 1 6 1) = true ∧ chosenAct s 0 7 = none) := by
  dsimp only
  and_intros
  all_goals decide +kernel

theorem witness_ResponsesReachChannelsThatComplete :
    (let s := channelled { state := .active, desc := fillDesc, owed := 1, flight := [(1, aRow)] }; let v := (s.core 0).chan 7;
      v.state = .active ∧ v.owed ≠ 0 ∧ v.flight = (1, aRow) :: [] ∧ 1 = descN v.desc)
      ∧ (let s := channelled { state := .active, desc := copyDesc 1, owed := 2, flight := [(1, aRow)], rejected := some 1 };
        let v := (s.core 0).chan 7;
        v.owed ≠ 0 ∧ v.flight = (1, aRow) :: [] ∧ 1 ≠ descN v.desc ∧ (∀ r, v.rejected = some r → 0 < r))
      ∧ (let s := channelled { state := .draining, owed := 1 }; ((s.core 0).chan 7).state = .draining ∧ ((s.core 0).chan 7).owed ≠ 0)
      ∧ ((channelled { state := .active, owed := 1, tag := 4095 }).core 0 |>.chan 7).tag ≠ 0
      ∧ (let s := banding { state := .active, desc := fillDesc, rowsDone := 1 };
        channelDone ((s.core 0).chan 7) = true ∧ (s.core 0).snap = none ∧ ((s.core 0).chan 7).rejected = none
          ∧ s.partOfCore 0 = some 0 ∧ tagEarly s 0 ((s.core 0).chan 7).desc ((s.core 0).chan 7).target = false)
      ∧ (let s := banding { state := .active, desc := fillDesc, rowsDone := 1, target := some 1000000 };
        tagEarly s 0 ((s.core 0).chan 7).desc ((s.core 0).chan 7).target = true)
      ∧ (let s := banding { state := .active, rejected := some 0 };
        channelDone ((s.core 0).chan 7) = true ∧ ((s.core 0).chan 7).rejected = some 0 ∧ s.partOfCore 0 = some 0)
      ∧ (let s : State := { banded {} with cores := [(0, { chans := [(7, { state := .active, owed := 1 })] })] };
        Serves s (.pcie 0) false ∧ s.partOfCore 0 = some 0 ∧ (s.part 0).marks = false ∧ Nat.testBit 255 7 = true
          ∧ ((s.core 0).chan 7).state = .active)
      ∧ (Serves (banded { run := .running }) (.pcie 0) false ∧ ((banded { run := .running }).part 0).marks = true) := by
  unfold Serves
  refine ⟨⟨by decide +kernel, by decide +kernel, by decide +kernel, by decide +kernel⟩,
    ⟨by decide +kernel, by decide +kernel, by decide +kernel, ?_⟩, ?_⟩
  · intro r h
    cases h
    decide
  · dsimp only
    and_intros
    all_goals decide +kernel

/-- An image of one stop entry. -/
def anImage (tide : List (BitVec 128)) : Image :=
  { header := { magic := 0, version := 0, variant := 0, width := 8, firstColumns := 1, modes := 3, tideEntries := 1, period := 1000, group := 0
                vectorRevision := 0, barrierAssumed := 0, transit := 0, quayBandwidth := 0, fabricBandwidth := 0, sectionCount := 0
                length := 0, signed := 0, zero := 0 }
    dir := [], segments := [], variants := [], tide := tide, tideVariants := [], taps := [], tapVariants := [], stash := [], plan := []
    egress := [], update := none, recovery := none, columnShift := none, rowShift := [], links := [], windows := [], tensors := []
    digest := 0, signSlot := 0, signature := [], uploaded := 0, signedDigest := 0, framed := true }

/-- The gantry of column 191 with a packet at one end. -/
def ganted (north : Bool) (masks : Tbl (BitVec 64)) (credits : Tbl Nat) : State :=
  let e : GantryEnd := { inbound := [{ packet := aPacket, seq := 0, part := 0, quay := 3 }], credits := credits }
  { banded {} with gantries := [(191, { pattern := 0x0F, masks := masks, north := if north then e else {}, south := if north then {} else e })] }

/-- The last beat of a packet of tag 0. -/
def aBeat : Beat :=
  { number := 7, last := true, tag := 0, payload := [], sideband := [], payloadBad := false, sidebandBad := false, corrected := 0 }

/-- A flit of row 143 of partition 0 from column 23 to column 191. -/
def aFlit (entered : Option (Nat × Nat)) : Flit := { part := 0, row := 143, east := true, source := 23, dest := some 191, entered := entered }

/-- A partition of tile column 0 whose image holds the slots given in each direction, with a flit of row 143 for column 191. -/
def trained (slots : Nat) (entered : Option (Nat × Nat)) : State :=
  { banded { image := some { anImage [] with header := { (anImage []).header with transit := BitVec.ofNat 32 slots } } } with
    sivar := { config := [(okey 0x2100 3, [1])] }
    transit := [{ part := 0, row := 143, east := true, source := 23, dest := some 191, entered := entered }] }

theorem witness_GantriesCommitDeliverAndPass :
    (let s := ganted true [] []; columnExists s 191 = true ∧ (((s.gantry 191).side true).inbound.length = 1)
      ∧ acceptors (s.gantry 191) (hdrTag (injectPacket aPacket).header) = [])
      ∧ (let s := ganted false [(143, 1)] [(143, 1)]; let e := (s.gantry 191).side false;
        let rows := acceptors (s.gantry 191) (hdrTag (injectPacket aPacket).header);
        rows ≠ [] ∧ (∀ y ∈ rows, 0 < tget 0 e.credits y) ∧ nextSlot (s.gantry 191) false (max s.now e.nextFree) = some 4)
      ∧ (let s : State := { State.reset with gantries := [(0, { masks := [(0, 1)], north := { lane := [(0, 5, aBeat)], returning := [(0, 9)] } })] };
        let e := (s.gantry (coreX 0)).side true;
        e.lane.findIdx? (fun l => l.1 == 0) = some 0 ∧ e.lane[0]? = some (0, 5, aBeat) ∧ tfind e.returning 0 = some 9
          ∧ (tget 0 (s.gantry (coreX 0)).masks (coreY 0)).getLsbD aBeat.tag = true ∧ aBeat.last = true)
      ∧ (let s := ganted true [] []; stalls (s.gantry 191) ((s.gantry 191).side true) true s.now = false)
      ∧ (let s := ganted true [(143, 1)] []; ((s.gantry 191).side true).stallReported = false ∧ s.partOfX 191 = some 0
        ∧ stalls (s.gantry 191) ((s.gantry 191).side true) true s.now = true ∧ (s.part 0).elastic = false)
      ∧ (let s : State := { State.reset with tiles := [(0, { state := .emergency, emergencySince := 8 })] };
        arrayFrozen s 0 = true ∧ (s.tile (coreTile 0)).emergencySince < 9)
      ∧ (let s : State := { ganted true [] [] with parts := [(0, { elastic := true })] }; (s.part 0).elastic = true)
      ∧ (let s := trained 0xFF000000 none;
        s.transit.findIdx? (fun g => g.part == 0 && g.row == 143 && g.east == true && nextColumn g == 24) = some 0 ∧ s.transit[0]? = some (aFlit none)
          ∧ s.bandHas 0 (24 / 24) = false ∧ (slotsHeld s 0 true).testBit (linkSlot s 143 24 (max (max s.now 9) (transitFrom s 0 143 true)) true) = true)
      ∧ (let s := trained 0 (some (190, 300)); let u := 300 + linkDistance s 143 191 true - linkDistance s 143 190 true;
        s.transit.findIdx? (fun g => g.part == 0 && g.row == 143 && g.east == true && nextColumn g == 191) = some 0 ∧ s.transit[0]? = some (aFlit (some (190, 300)))
          ∧ s.bandHas 0 (191 / 24) = false ∧ (slotsHeld s 0 true).testBit (linkSlot s 143 191 u true) = false)
      ∧ (let s := trained 0 none;
        s.transit.findIdx? (fun g => g.part == 0 && g.row == 142 && g.east == true && nextColumn g == 24) = none
          ∧ s.bandHas 0 (23 / 24) = true) := by
  dsimp only
  and_intros
  all_goals decide +kernel

theorem witness_ClocksBoundariesAndLostTiles :
    ((State.reset.tile 47).fastClock = false ∧ clockAllowed State.reset 47 = true)
      ∧ (isBoundary 0 1 = true ∧ isBoundary 0 8 = true ∧ isBoundary 46 47 = true ∧ (32 : Int).natAbs ≤ 32 ∧ 32 < (-33 : Int).natAbs)
      ∧ (∀ p, p < 8 → crossesBoundary (banded {}) p 46 47 = true → atRest (banded {}) p = true)
      ∧ crossesBoundary (banded {}) 0 46 47 = true
      ∧ (State.reset.tile 47).unreachable = false
      ∧ (let s := banded { run := .running }; let site := siteId 47 23 23;
        siteTile site < 48 ∧ siteCol site < 24 ∧ siteRow site < 25 ∧ site ∉ s.routersDown ∧ siteInUse s site = true
          ∧ spareOf s (siteTile site) (siteCol site) = 0 ∧ spareOf { s with overlay := { s.overlay with spare := [(47 * 24 + 23, 4)] } } 47 23 ≠ 0
          ∧ ∃ p, p < 8 ∧ (crossesTile s p (siteTile site) && (s.part p).live) = true) := by
  refine ⟨by decide +kernel, by decide +kernel, by decide +kernel, by decide +kernel, by decide +kernel, ?_⟩
  refine ⟨by decide +kernel, by decide +kernel, by decide +kernel, by decide +kernel, by decide +kernel, by decide +kernel,
    by decide +kernel, 0, by decide +kernel⟩

theorem witness_CoreResetsClearTheirCores :
    (∀ r ∈ [RunState.stopped, .fault], let s := banded { run := r };
        Serves s (.pcie 0) false ∧ s.partOfCore 27647 = some 0 ∧ ((s.part 0).run = .stopped ∨ (s.part 0).run = .fault))
      ∧ (∀ r ∈ [RunState.starting, .running, .stopping], let s := banded { run := r };
        Serves s (.pcie 0) false ∧ s.partOfCore 0 = some 0 ∧ (s.part 0).run ≠ .stopped ∧ (s.part 0).run ≠ .fault)
      ∧ (∀ e ∈ ((channelled {}).core 0).chans, e.2.state ≠ .draining)
      ∧ (let s : State := { channelled { state := .draining, owed := 1 } with health := [(0, { resetting := true })] };
        ((s.core 0).chan 7).state = .draining ∧ (s.heal 0).resetting = true) := by
  unfold Serves
  dsimp only
  and_intros
  all_goals decide +kernel

theorem witness_PartitionCommandsWaitForMarks :
    (let s := banded { run := .running, image := some (anImage [0x40]) };
      Serves s (.pcie 0) false ∧ (s.part 0).run = .running ∧ (s.ctlOf 0).preempt = none
        ∧ (tideTable (s.part 0)).any tidePreempt = true)
      ∧ (let s : State := { banded { run := .running } with ctl := [(0, { preempt := some (1, 0) })] };
        Serves s (.pcie 0) false ∧ (s.part 0).run = .running ∧ (s.ctlOf 0).preempt = some (1, 0))
      ∧ (∀ r ∈ [RunState.stopped, .starting, .stopping, .fault], Serves (banded { run := r }) (.pcie 0) false
        ∧ ((banded { run := r }).part 0).run ≠ .running) := by
  unfold Serves
  dsimp only
  and_intros
  all_goals decide +kernel

/-- An image of one column that the verification passes for ELASTIC: one entry, STEP_START and pre-emptable, every 1,000 ticks. -/
def goodImage : Image :=
  { anImage [0x140] with
    header := { (anImage []).header with magic := 0x48544D59, version := 3, width := 1, sectionCount := 1 }
    dir := [{ type := 2, variant := 0, inst := 0, zero := 0, offset := 0, length := 0 }] }

/-- Partition 0 of one tile column, ELASTIC, with that image in its slot; signatures are not enforced and the tide runs. -/
def ready (p : Partition) (ct : PartControl) : State :=
  { served with
    sivar := { config := [(okey 0x2100 3, [1]), (okey 0x2100 4, [1]), (okey 0x2100 5, [0]), (okey 0xA000 8, [0])] }
    slots := [(0, { image := some goodImage, state := 3 })], tide := { run := .running }, parts := [(0, p)], ctl := [(0, ct)] }

/-- A launch record of tick 1,000, the first that a write at time 0 may name. -/
def aRecord : BitVec 256 := launchRecord 1000 0 1 0

/-- A resume point at the image's only entry. -/
def aPoint : ResumePoint := { time := 1497, cursor := 0, step := 0, variant := 0, cores := [(0, 4095, [])] }

theorem witness_LaunchResumeCancelAndUpload :
    (let s := ready {} {};
      Serves s (.pcie 0) false ∧ (s.part 0).run = .stopped ∧ s.defined 0 = true ∧ recordOk s (withKind 1 aRecord) = true
        ∧ ((s.asked.substituteBand 0).slotOf ((s.asked.substituteBand 0).cfg 0x2100 5)).image = some goodImage
        ∧ admitStatus (s.asked.substituteBand 0) 0 goodImage = none)
      ∧ (let s := ready { run := .starting } { launchRecord := launchRecord 500 0 1 0 };
        (s.part 0).run = .starting ∧ recordOk s (withKind 3 aRecord) = true ∧ s.now + 750000 ≤ launchAt s 0)
      ∧ (let s := ready { resume := some aPoint, image := some goodImage } {};
        recordOk s (withKind 2 aRecord) = true ∧ (s.part 0).resume = some aPoint ∧ (s.part 0).image = some goodImage
          ∧ (s.slotOf (s.cfg 0x2100 5)).image = some goodImage ∧ (s.ctlOf 0).reloaded = false ∧ offsetOf aPoint.time ≤ 1497
          ∧ admitStatus (s.asked.applyPending 0) 0 goodImage = none)
      ∧ (let s := ready {} {}; (∀ p, p < 8 → s.cfg (0x2100 + p) 5 = 7 → s.busyPart p = false) ∧ 0 + 68719476736 ≤ 68719476736)
      ∧ (let s := ready { run := .running } {}; s.cfg 0x2100 5 = 0 ∧ s.busyPart 0 = true) := by
  unfold Serves
  dsimp only
  and_intros
  all_goals decide +kernel

/-- A RUNNING partition of one tile column at its first instance, at tick 1,000. -/
def marching (p : Partition) (ct : PartControl) : State :=
  ready { p with run := .running, image := some goodImage, launchTick := 1000, period := 1000 } ct

/-- The firing of that instance. -/
def aFiring : Firing := { time := 1500000, step := 0, insts := [(0, 0, 0)] }

theorem witness_MarksLaunchFireFaultAndStop :
    (let s := ready { run := .starting, image := some goodImage, launchTick := 1000, period := 1000, elastic := true } { launchRecord := aRecord };
      (s.part 0).run = .starting ∧ lrKind (s.ctlOf 0).launchRecord ≠ 2
        ∧ launchCauses ((s.advance (launchAt s 0)).journalDone jLaunch 0) 0 = [])
      ∧ (let s := ready { run := .starting, resume := some aPoint } { launchRecord := withKind 2 aRecord };
        lrKind (s.ctlOf 0).launchRecord = 2 ∧ (s.part 0).resume = some aPoint ∧ (s.ctlOf 0).faults = [])
      ∧ (let s := marching { elastic := true } { faults := [.coreDead 0] };
        (s.part 0).marks = true ∧ nextFiring (s.part 0) = some aFiring ∧ causesAt s 0 aFiring ≠ [])
      ∧ (let s := marching { elastic := true } { halt := true }; nextFiring (s.part 0) = some aFiring ∧ causesAt s 0 aFiring = []
        ∧ (s.ctlOf 0).halt = true)
      ∧ (let s : State := { marching { elastic := true } {} with cores := [(0, { participates := [0], bundles := [0] })] };
        nextFiring (s.part 0) = some aFiring ∧ causesAt s 0 aFiring = [] ∧ (s.part 0).elastic = true ∧ none ∈ arrivals s 0 aFiring)
      ∧ (let s := marching { elastic := true } { ending := true };
        nextFiring (s.part 0) = some aFiring ∧ causesAt s 0 aFiring = [] ∧ none ∉ arrivals s 0 aFiring
          ∧ (s.ctlOf 0).haltAtStepStart = false ∧ groupHaltDue (s.part 0) (s.ctlOf 0) aFiring = false ∧ (s.part 0).run = .running
          ∧ (s.ctlOf 0).preempt = none ∧ aFiring.last (s.part 0) = true) := by
  dsimp only
  and_intros
  all_goals decide +kernel

/-- A module of tide domain 1 that follows root 5, with primary upstream port 0 north and secondary port 0 south. -/
def following (t : Tide) (utc : Nat) : State :=
  { served with sivar := { config := [(okey 0x4000 2, [1, 0]), (okey 0x4000 3, [5, 0]), (okey 0x4000 8, [0, 128, 0, 0]), (okey 0x4000 13, [0, 0])] }
                tide := t, rtc := { valid := true, units := utc }
                ports := [(240, { outcome := 3 }), (368, { outcome := 3 })] }

/-- A marker of epoch 1 with a skew. -/
def aMarker (skew : Int) (st : Option (Nat × Nat)) : Marker :=
  { epoch := 1, tick := 0, root := 5, stretch := st, variants := [], modes := [], formats := [], relaunches := [], reports := [], skewPs := skew }

theorem witness_TideStartsLocksAndJoins :
    (Serves served (.pcie 0) false ∧ (∀ p, p < 8 → (served.part p).run = .stopped))
      ∧ (∃ p, p < 8 ∧ ((ready { run := .fault } {}).part p).run ≠ .stopped)
      ∧ (served.tide.run = .stopped ∧ ¬ (served.bring.active = true ∧ served.bring.stage = 8))
      ∧ ((following { run := .starting } 0).tide.run = .starting ∧ (following { run := .starting } 0).tide.isRoot = false
        ∧ (following { run := .starting } 0).tide.lock ≠ 2)
      ∧ (let s := following { run := .starting, lock := 2 } 0; s.tide.lock = 2)
      ∧ (let s := following { run := .running } 0; s.tide.joined = false ∧ 1 = s.cfg 0x4000 2 ∧ 5 = s.cfg 0x4000 3
        ∧ (∀ p, p < 8 → (s.part p).run = .stopped)) := by
  unfold Serves
  refine ⟨by decide +kernel, ⟨0, by decide +kernel⟩, by decide +kernel, by decide +kernel, by decide +kernel, ?_⟩
  dsimp only
  and_intros
  all_goals decide +kernel

theorem witness_MarkersSteerTheModule :
    (following { run := .running } 0).tide.run ≠ .stopped
      ∧ (let s := following { run := .running, joined := true, epoch := 1, lock := 2 } 0;
        s.tide.joined = true ∧ s.tide.isRoot = false ∧ (s.port 240).up = true ∧ (aMarker 2000 none).epoch = s.tide.epoch
          ∧ upstreamNow s = some 240 ∧ ¬ 2000 * (256 + s.tide.stretch) < (aMarker 2000 none).skewPs.natAbs * 256
          ∧ 2000 * (256 + s.tide.stretch) < (aMarker (-2001) none).skewPs.natAbs * 256
          ∧ (aMarker 0 (some (128, 100))).stretch = some (128, 100) ∧ 128 ≠ s.tide.target)
      ∧ (let s := following { run := .running, joined := true, epoch := 1, lock := 3, upstreamSecondary := true } 0;
        primaryUp s = some 240 ∧ (s.port 240).up = true ∧ upstreamNow s = some 368 ∧ (aMarker 0 none).epoch = s.tide.epoch)
      ∧ (let s := following { run := .running, epoch := 2 } 0; (aMarker 0 none).epoch < s.tide.epoch)
      ∧ (let s := following { run := .running, joined := true, lock := 2, seen := [(368, 1500)] } 0;
        follows s = true ∧ s.tide.lock ≠ 0 ∧ s.tide.lock ≠ 3 ∧ secondaryUp s = some 368
          ∧ upstreamPresent s 368 (max s.now ((s.tide.lastMarker / 1500 + 3) * 1500)) = true)
      ∧ (let s : State := { following { run := .running, joined := true, lock := 1 } 0 with
            sivar := { config := [(okey 0x4000 8, [255, 255, 0, 0])] } };
        follows s = true ∧ secondaryUp s = none) := by
  dsimp only
  and_intros
  all_goals decide +kernel

theorem witness_FreeRunClocksAndTimedRows :
    (let s := following { run := .running, joined := true, lock := 3 } 0; follows s = true ∧ s.tide.lock = 3)
      ∧ (let s := following { run := .running, joined := true, lock := 2, skewBad := 4 } 0; 4 ≤ s.tide.skewBad ∧ s.tide.lock ≠ 0)
      ∧ (let s := following { run := .running, joined := true, lock := 2 } 0; s.cfg 0x4000 0x0D = s.moduleNumber)
      ∧ (let s := following { run := .running, stretch := 0, target := 1 } 0; s.tide.stretch ≠ s.tide.target)
      ∧ (following {} 1).rtc.valid = true
      ∧ (let s := ready { run := .running, image := some { goodImage with links := [(1, 127, 1313)] } } {};
        (s.part 0).marks = true ∧ (s.part 0).elastic = false ∧ s.partOfCore 0 = some 0
          ∧ (let u : State := { s with cores := [(0, windowed 1 4095 1)] };
            answers u 0 = true ∧ takingWindow (u.core 0) 1 (0, 0, 0, 0) 4095 = some 15 ∧ remoteWaits (u.advance 1313) 0 1 = false)
          ∧ [((1, 127, 1313) : Nat × Nat × Nat)].find? (fun e => fabricPort e.1 e.2.1 == 495) = some (1, 127, 1313)) := by
  dsimp only
  and_intros
  all_goals decide +kernel

/-- A tensor record: ID, kind, flags, primary quay and tier, tiles, base, size, grants. -/
def aTensor (id kind flags place tin tout base size grant : Nat) : BitVec 512 :=
  BitVec.ofNat 512 (id + kind * 256 ^ 4 + flags * 256 ^ 5 + place * 256 ^ 8 + tin * 256 ^ 12 + tout * 256 ^ 16 + grant * 256 ^ 23
    + base * 256 ^ 24 + size * 256 ^ 32)

/-- One tensor in the table. -/
def tabled (t : Tensor) : State := { served with tensors := [(1, t)] }

theorem witness_TensorTableCommands :
    (Serves served (.pcie 0) false
      ∧ recInRange (aTensor 0 0 0 0 1 1 0 0 0) = false
      ∧ (let s := tabled { record := aTensor 1 0 2 0 1 1 0 0 0 }; recInRange (aTensor 16777215 0 2 0 1 1 0 0 0) = true
        ∧ handleUsed s (aTensor 16777215 0 2 0 1 1 0 0 0) = true)
      ∧ (let s : State := { ready { run := .running, image := some { goodImage with tensors := [(1, 0)] } } {} with tensors := [] };
        handleUsed s (aTensor 1 0 0 0 1 1 0 0 0) = false ∧ tensorBusy s 1 = true))
      ∧ (recInRange (aTensor 1 0 0 3 1 1 0 0 0) = true ∧ handleUsed served (aTensor 1 0 0 3 1 1 0 0 0) = false
        ∧ tensorBusy served 1 = false ∧ tfind served.tensors 1 = none
        ∧ (allocate served.asked (aTensor 1 0 0 3 1 1 0 0 0) 0).isSome = true)
      ∧ allocate served.asked (aTensor 1 0 0 3 65535 65535 0 0 0) 0 = none
      ∧ (let s := tabled { record := aTensor 1 0 0 0 1 1 0 0 0 };
        (∃ old, tfind s.tensors 1 = some old ∧ sameShape old.record (aTensor 1 0 0 0 1 1 7 0 0) = true)
          ∧ recRegion (aTensor 1 0 0 0 1 1 7 0 0) = false ∧ recInRange (aTensor 1 0 0 0 1 1 7 0 0) = true
          ∧ (s.recOf 1).isSome = true ∧ tensorBusy s 1 = false ∧ tfind s.tensors 1 = some { record := aTensor 1 0 0 0 1 1 0 0 0 }
          ∧ recTier (aTensor 1 0 0 0 1 1 0 0 0) = 0)
      ∧ recTier (aTensor 1 0 1 16 1 1 0 0 0) ≠ 0 := by
  unfold Serves
  refine ⟨by decide +kernel, by decide +kernel, by decide +kernel, ⟨⟨_, rfl, by decide +kernel⟩, by decide +kernel⟩, by decide +kernel⟩

/-- A version that is committed. -/
def aVersion (n : Nat) : Version := { number := n, committed := true, complete := true, bytes := [] }

/-- An open entry of version 4 of tensor 1 with one waiter, a gather's. -/
def anEntry (recovery : Nat) : FetchEntry :=
  { tid := 1, tile := 0, version := 4
    waiters := [{ part := 0, col := 0, seq := 0, deadline := 3000, tag := 0, markEntry := 0, outer := 0, step := 0, issued := 0
                  gather := some { record := 1, position := 0, slice := 0, token := 0 } }]
    outcome := none, ready := false, since := 0, missed := [], rebuilt := false, recovery := recovery, unreadable := false
    waiting := false }

/-- A region of two rows at the end of quay 3's DRAM, granted to partition 7 and to other modules. -/
def aRegion (tier : Nat) : Tensor := { record := aTensor 1 2 64 (16 * tier + 3) 0 0 (384000000000 - 1024) 1024 128 }

theorem witness_ContentCheckpointsAndRegions :
    (let s := tabled { record := aTensor 1 0 1 0 1 1 0 0 0 };
      Serves s (.pcie 0) false ∧ recRegion (aTensor 1 0 1 0 1 1 0 0 0) = false
        ∧ 1023 + [(0 : Byte)].length ≤ recTiles (aTensor 1 0 1 0 1 1 0 0 0) * tileBytes (recStream (aTensor 1 0 1 0 1 1 0 0 0))
        ∧ recFrozen (aTensor 1 0 1 0 1 1 0 0 0) = true ∧ 0 = recBase (aTensor 1 0 1 0 1 1 0 0 0)
        ∧ partsWhere (fun p => s.busyPart p && fetches s p 1) = []
        ∧ slotReady s 1 0 = true ∧ 0 ∉ (s.tensor 1).retiring)
      ∧ (let tt : Tensor := { record := aTensor 1 0 0 0 1 1 0 0 0, versions := [aVersion 4, aVersion 5] };
        slotReady { tabled tt with quays := [(3, { entries := [anEntry 0] })] } 1 6 = false)
      ∧ (recRegion (aRegion 0).record = true ∧ 1024 ≤ recSize (aRegion 0).record ∧ recTier (aRegion 0).record = 0
        ∧ recTier (aRegion 1).record ≠ 0)
      ∧ (let s := tabled { record := aTensor 1 0 0 0 1 1 0 0 0, versions := [aVersion 4] };
        tfind s.tensors 1 = some { record := aTensor 1 0 0 0 1 1 0 0 0, versions := [aVersion 4] }
          ∧ ({ versions := [aVersion 4] } : Tensor).newest = some (aVersion 4) ∧ s.heldByTicket 0x5100 7 = false)
      ∧ (let ck : Checkpoint := { version := aVersion 4, state := {} };
        ((tabled { checkpointing := some (9, ck, ck) }).tensor 1).checkpointing = some (9, ck, ck))
      ∧ rowReaches (tabled (aRegion 0)) 3 9 0 = true ∧ rowReaches (banded {}) 3 (banded {}).moduleNumber 0 = false
      ∧ (let s : State := { banded {} with quays := [(3, { weights := [(59, 1)] })], ports := [(239, { outcome := 3 })] };
        rowReaches s 3 s.moduleNumber 0 = true)
      ∧ (regionGrants (tabled (aRegion 0)) 3 0 9 0 (384000000000 - 512) = true
        ∧ regionGrants (tabled (aRegion 0)) 3 0 9 0 (384000000000 - 511) = false ∧ regionGrants (tabled (aRegion 1)) 3 1 9 0 (384000000000 - 1024) = true)
      := by
  unfold Serves
  dsimp only
  and_intros
  all_goals decide +kernel

/-- A fetch plan record of tensor 1 on entry 0: type, tiles and columns 0 of the band, or a gather of one token list. -/
def aPlan (gather : Nat) : BitVec 512 :=
  BitVec.ofNat 512 (gather + 256 ^ 4 + 0xFFFF * 256 ^ 10 + 256 ^ 16 + 256 ^ 18
    + (if gather = 0 then 256 ^ 24 else 0) + (if gather = 1 then 256 ^ 36 + 256 ^ 38 else 0))

/-- A RUNNING partition with one fetch record of a tensor. -/
def fetching (pr rec : BitVec 512) (dram : List Host.Cell) : State :=
  { marching {} {} with
    parts := [(0, { run := .running, image := some { goodImage with plan := [pr] }, launchTick := 1000, period := 1000 })]
    tensors := [(1, { record := rec, versions := [aVersion 0] })], dram := dram }

/-- An embedding of one input and one output tile. -/
def anEmbedding : BitVec 512 := aTensor 1 1 1 0 1 1 0 0 0

theorem witness_FetchesIssueAndJoinEntries :
    (let s := fetching (aPlan 0) (aTensor 1 0 1 0 1 1 0 0 0) [];
      (s.part 0).marks = true ∧ fetchKnown s 0 0 0 0 0 0 0 = some (aPlan 0, aTensor 1 0 1 0 1 1 0 0 0)
        ∧ { part := 0, number := 0, j := 0, k := 0, step := 0, inner := 0, outer := 0 } ∉ (s.quay 0).issued
        ∧ issuesFirst s 0 0 0 0 (issueTime s 0 0 (aPlan 0) (aTensor 1 0 1 0 1 1 0 0 0) 0 0 0 0 0) = false
        ∧ planGather (aPlan 0) = false)
      ∧ (let s := fetching (aPlan 1) anEmbedding [(0, 31), (1, 0), (2, 0), (3, 0)];
        fetchKnown s 0 0 0 0 0 0 0 = some (aPlan 1, anEmbedding) ∧ planGather (aPlan 1) = true
          ∧ issuesFirst s 0 0 0 0 (issueTime s 0 0 (aPlan 1) anEmbedding 0 0 0 0 0) = false
          ∧ tokenReads anEmbedding (gatherToken s 0 (aPlan 1) 0) = true ∧ (s.quay 0).damaged = [] ∧ (s.tensor 1).retired 0 = false)
      ∧ (let s := fetching (aPlan 1) anEmbedding [(0, 32), (1, 0), (2, 0), (3, 0)];
        tokenReads anEmbedding (gatherToken s 0 (aPlan 1) 0) = false)
      ∧ (let s := fetching (aPlan 1) anEmbedding [(0, 255), (1, 255), (2, 255), (3, 255)];
        gatherToken s 0 (aPlan 1) 0 = 0xFFFFFFFF ∧ tokenReads anEmbedding 0xFFFFFFFF = false) := by
  dsimp only
  and_intros
  all_goals decide +kernel

/-- A quay with one entry. -/
def entried (e : FetchEntry) (tt : Tensor) : State :=
  { banded { run := .running } with quays := [(0, { entries := [e] })], tensors := [(1, tt)] }

/-- A checkpoint of version 4, whole in both quays. -/
def checkpointed (tt : Tensor) : Tensor := { tt with checkpoint := some { version := aVersion 4, state := {} }, replica := some { version := aVersion 4, state := {} } }

theorem witness_EntryOutcomesAreFixed :
    (let tt : Tensor := { record := aTensor 1 1 9 16 1 1 0 0 0, versions := [aVersion 4] };
      (let s := entried (anEntry 0) tt;
        (s.quay 0).entries[0]? = some (anEntry 0) ∧ s.recOf (anEntry 0).tid = some tt.record ∧ (anEntry 0).outcome = none
          ∧ (anEntry 0).waiting = false ∧ (anEntry 0).unreadable = false ∧ dataServed s (anEntry 0) = true ∧ canSend s 0 (anEntry 0) = true
          ∧ recMirror tt.record = true ∧ mirrorServes s 1 0 = true ∧ recTier tt.record = 1
          ∧ s.now ≤ decisionTime s 0 (anEntry 0) ∧ decisionTime s 0 (anEntry 0) < ({ s with now := 4501 } : State).now)
      ∧ (let e : FetchEntry := { anEntry 0 with waiters := [{ part := 0, col := 0, seq := 0, deadline := 0, tag := 0, markEntry := 0, outer := 0
                                                              step := 0, issued := 0 }] };
        canSend (entried e tt) 0 e = false)
      ∧ dataServed (entried (anEntry 0) { tt with versions := [] }) (anEntry 0) = false
      ∧ ((entried (anEntry 0) { tt with versions := [aVersion 5] }).tensor 1).retired 4 = true
      ∧ (dataServed (entried (anEntry 1) tt) (anEntry 1) = true ∧ (anEntry 1).recovery < 2
        ∧ ((entried (anEntry 1) tt).tensor 1).replica = none)
      ∧ ((entried (anEntry 1) (checkpointed tt)).tensor 1 = checkpointed tt ∧ (anEntry 0).waiters ≠ []
        ∧ (∃ c, (checkpointed tt).replica = some c ∧ c.version.number = (anEntry 2).version) ∧ 2 ≤ (anEntry 2).recovery)) := by
  refine ⟨by decide +kernel, by decide +kernel, by decide +kernel, by decide +kernel, by decide +kernel, by decide +kernel,
    by decide +kernel, ⟨{ version := aVersion 4, state := {} }, by decide +kernel⟩, by decide +kernel⟩

theorem witness_PacketsCreditsCopiesAndScans :
    (let o : Outgoing := { part := 0, col := 191, seq := 65535, packet := aPacket };
      let s : State := { banded { run := .running } with
        quays := [(3, { weights := [(59, 1)], credits := [(191, 1)], sentSeq := [(191, 65535)], outgoing := [o] })]
        ports := [(239, { outcome := 3 })] };
      let x := bandX s 0 191;
      portCarries s 3 0 59 = true ∧ nextPort s 3 0 0 = some (59, 1) ∧ tget 0 (s.quay 3).credits x ≠ 0 ∧ s.bandHas 0 (x / 24) = true
        ∧ (s.quay 3).outgoing.find? (fun o => o.part == 0 && o.col == 191 && o.seq == tget 0 (s.quay 3).sentSeq (0 * 256 + 191)) = some o
        ∧ 0 ≠ tget 0 (s.quay 3).sentSeq (0 * 256 + 191))
      ∧ (let s : State := { State.reset with gantries := [(191, { north := { owed := [1, 0] } })] };
        columnExists s 191 = true ∧ ((s.gantry 191).side true).owed = 1 :: [0])
      ∧ (let s : State := { tabled { record := aTensor 1 0 1 19 1 1 0 0 0 } with quays := [(3, { copying := [(1, 0)] })] };
        (s.quay 3).copying.find? (fun e => e.1 == 1) = some (1, 0) ∧ s.recOf 1 = some (aTensor 1 0 1 19 1 1 0 0 0)
          ∧ (placeIn s 3 0 2 1 (recTiles (aTensor 1 0 1 19 1 1 0 0 0) * tileBytes (recStream (aTensor 1 0 1 19 1 1 0 0 0)))).isSome = true)
      ∧ (let s : State := { tabled { record := aTensor 1 0 1 19 1 1 0 0 0 } with
            quays := [(3, { copying := [(1, 0)], allocs := [{ tier := 0, kind := 0, tid := 2, base := 0, size := 384000000000 }] })] };
        (s.quay 3).copying.find? (fun e => e.1 == 1) = some (1, 0)
          ∧ (placeIn s 3 0 2 1 (recTiles (aTensor 1 0 1 19 1 1 0 0 0) * tileBytes (recStream (aTensor 1 0 1 19 1 1 0 0 0)))).isSome = false)
      ∧ (let s : State := { tabled { record := aTensor 1 0 1 19 1 1 0 0 0 } with bring := { active := false, stage := 9 } };
        tfind s.tensors 1 = some { record := aTensor 1 0 1 19 1 1 0 0 0 } ∧ recPrimary (aTensor 1 0 1 19 1 1 0 0 0) = 3
          ∧ recTier (aTensor 1 0 1 19 1 1 0 0 0) = 1 ∧ recRegion (aTensor 1 0 1 19 1 1 0 0 0) = false ∧ 9 ≤ s.bring.stage
          ∧ s.bring.active = false
          ∧ 0 < ceilDiv (recTiles (aTensor 1 0 1 19 1 1 0 0 0) * tileBytes (recStream (aTensor 1 0 1 19 1 1 0 0 0))) 16384) := by
  dsimp only
  and_intros
  all_goals decide +kernel

/-- A member of domain 0 with the second module as its witness. -/
def aMember (module rank : Nat) : Member :=
  { module := module, rank := rank, domain := 0, hall := rank, partner := 0, witnesses := 15, zero := 0, tideDomain := 0 }

/-- A membership table of one domain. -/
def aTable (members : List Member) : Membership :=
  { ledger := 0, domains := 1, witnesses := 1, lateWindow := 0, zero := 0, farWait := 0, version := 1, members := members }

/-- What a member reports of group 1. -/
def aGroup : GroupReport :=
  { group := 1, fails := 0, elastic := false, demoted := false, permits := false, slip := 0, passed := 0, step := 0, next := 0, start := 0
    formats := [] }

/-- The report of module 9, which runs group 1, at tick 0. -/
def aReport (stats : List (Nat × Nat × Nat × LayerStats)) : MemberReport :=
  { module := 9, tick := 0, request := 0, groups := [aGroup], stats := stats, segments := [], wants := [], results := [] }

/-- A student partition whose check has begun; the pin policy of the HARD path in its object. -/
def checking (pair : Pair) (t : Tide) (policy : Nat) : State :=
  { served with
    sivar := { config := [(okey 0x6300 1, [BitVec.ofNat 8 policy]), (okey 0x6300 0x10, List.replicate 32 0)] }
    pairs := [(0, pair)], tide := t, parts := [(0, { run := .running })] }

theorem witness_HandoffResultsDecideThePath :
    (∀ policy ∈ [0, 1], let s := checking { checkTime := some 0, decided := false, branchTime := 20000 } {} policy;
        let x := s.pair 0;
        x.checkTime ≠ none ∧ x.decided = false ∧ pairBytes s 0 ≠ [] ∧ s.moduleNumber ∈ tideMembers s
          ∧ (∀ r ∈ x.results, r.1 ≠ s.moduleNumber) ∧ 0 = x.ownResult ∧ s.tide.joined = false ∧ s.now ≤ x.branchTime
          ∧ handoffPeers s 0 = [0] ∧ (∀ m ∈ handoffMembers s 0, m = s.moduleNumber ∨ ∃ r ∈ x.results, r.1 = m)
          ∧ (pinFor s 0 0x6300 1 = 1 ↔ policy = 1))
      ∧ (let s := checking { checkTime := some 0, decided := false, ownResult := 8 } {} 0;
        8 = (s.pair 0).ownResult ∧ (8 : Nat) ≠ 0 ∧ (8 : Nat) ≤ 8)
      ∧ (let s : State := { checking { checkTime := some 0, decided := false } { joined := true, isRoot := true, reports := [aReport []] } 0 with
            parts := [(0, { run := .running, image := some { goodImage with header := { goodImage.header with group := 1 } } })] };
        s.tide.isRoot = true ∧ s.moduleNumber ∈ tideMembers s
          ∧ ∃ m ∈ handoffMembers s 0, m ≠ s.moduleNumber ∧ ∀ r ∈ (s.pair 0).results, r.1 ≠ m)
      ∧ (let s := checking { checkTime := some 0, decided := false } { joined := true } 0;
        s.tide.joined = true ∧ s.tide.isRoot = false ∧ s.moduleNumber ∈ tideMembers s) := by
  refine ⟨?_, by decide +kernel, ⟨by decide +kernel, by decide +kernel, 9, by decide +kernel⟩, by decide +kernel⟩
  dsimp only
  decide +kernel

/-- An egress record on tensor 1: DENSE (0) or ROWS (1), one tile or token, one column. -/
def anEgress (rows : Nat) : BitVec 512 :=
  BitVec.ofNat 512 (rows + 256 + 256 ^ 4 + 0xFFFF * 256 ^ 10 + 4095 * 256 ^ 12 + 256 ^ 20 + rows * 256 ^ 28)

/-- An open egress case of partition 0. -/
def anOpen (rows taken : Nat) (perCore : Tbl Nat) : OpenRec :=
  { part := 0, number := 0, record := anEgress rows, step := 0, outer := 0, rows := taken, framed := 0, perCore := perCore, framedCore := [] }

/-- The intake of column 191 at the north edge. -/
def intaking (ik : Intake) : State := { banded { run := .running } with intakes := [(191 + 192, ik)] }

/-- The class 4 address of column 191 at the north edge. -/
def anIntake : Nat := 4 * 2 ^ 47 + 2 ^ 46 + 95 * 2 ^ 39 + 2 ^ 38

theorem witness_IntakeRowsBecomeFrames :
    (addrClass anIntake = 4 ∧ addrModule (intaking {}) 0 anIntake = (intaking {}).moduleNumber ∧ intakeNamed (intaking {}) anIntake = true
      ∧ intakeColumn anIntake = 191 ∧ intakeKey (intakeColumn anIntake) (addrNorth anIntake) = 383
      ∧ 16383 ≠ (intaking {}).moduleNumber)
      ∧ (let s := intaking { opens := [anOpen 0 7 []], held := List.replicate 31 (286, aRow) };
        (s.intake 383).held.length < 32 ∧ s.partOfX 191 = some 0 ∧ coreX (143 * 192 + 191) = 191 ∧ coreY (143 * 192 + 191) = 143
          ∧ (s.intake 383).opens.findIdx? (fun o => o.part == 0 && expects o 143 true) = some 0
          ∧ (s.intake 383).opens[0]? = some (anOpen 0 7 []))
      ∧ (let s := intaking { opens := [anOpen 1 0 []], held := List.replicate 32 (287, aRow) };
        32 ≤ (s.intake 383).held.length ∧ (s.intake 383).opens.findIdx? (fun o => o.part == 0 && expects o 0 false) = some 0)
      ∧ (let s := intaking { opens := [anOpen 0 8 []] };
        (s.intake 383).opens.findIdx? (fun o => o.part == 0 && expects o 143 true) = none)
      ∧ (intakeNamed (intaking {}) (anIntake + 2 ^ 39) = false ∧ addrClass (anIntake + 2 ^ 39) = 4)
      ∧ (served.partOfX 191 = none ∧ intakeNamed served anIntake = true ∧ (served.intake 383).held.length < 32)
      ∧ (let s := intaking { opens := [anOpen 0 8 []], held := List.replicate 8 (286, aRow), credits := 0 };
        (s.intake 383).opens.findIdx? frameReady = some 0 ∧ (s.intake 383).opens[0]? = some (anOpen 0 8 []))
      ∧ (let s := intaking { opens := [anOpen 1 1 [(0, 1)]], held := [(1, aRow)] };
        (s.intake 383).opens.findIdx? frameReady = some 0 ∧ egRows (anEgress 1) = true)
      ∧ (let s := intaking { opens := [anOpen 0 7 []] }; (s.intake 383).opens.findIdx? frameReady = none) := by
  dsimp only
  and_intros
  all_goals decide +kernel

/-- A frame header of tensor 1, partition 0, with its CRC: rows flag, poison flag. -/
def aFrame (rows poison : Nat) (pay : List Byte) : BitVec 256 :=
  let h := BitVec.ofNat 256 (2 ^ 232 + 2 ^ 168 + poison * 2 ^ 156 + rows * 2 ^ 152)
  h + BitVec.ofNat 256 (crc32c (headerCrcBytes h ++ pay))

/-- A frame in flight from column 0 of the north edge, of tensor 1 with a rule of its group. -/
def framing (h : BitVec 256) (flags kind : Nat) (held : List (Nat × EgFrame)) : State :=
  { served with
    ports := [(0, { outcome := 3 })]
    sivar := { config := [(okey 0x2100 3, [1]), (okey 0x6000 0x10, 1 :: List.replicate 63 0)] }
    parts := [(0, { run := .running, image := some { goodImage with egress := [anEgress kind] } })]
    cores := [(0, { bundles := [0] }), (192, { bundles := [0] })]
    tensors := [(1, { record := aTensor 1 kind flags 0 1 1 0 0 0 })], intakes := [(192, { sent := [{ number := 0, header := h, payload := [] }] })]
    opt := { tensors := [(1, { assigned := true })] }, quays := [(0, { heldRows := held })] }

theorem witness_FramesAreAccumulated :
    (let h := aFrame 0 0 []; let s := framing h 0 0 [];
      frameSource s 0 h [] = some (192, 0) ∧ s.recOf (frTensor h) = some (aTensor 1 0 0 0 1 1 0 0 0)
        ∧ (s.intake 192).sent[0]? = some { number := 0, header := h, payload := [] } ∧ recPrimary (aTensor 1 0 0 0 1 1 0 0 0) = 0
        ∧ recRegion (aTensor 1 0 0 0 1 1 0 0 0) = false
        ∧ (bits h 31 0 = crc32c (headerCrcBytes h ++ []) ∧ frFormat h = 1)
        ∧ isExcluded s 0 (frameStep (stepNumber s 0) (frStep16 h)) (frOuter h) = false ∧ frPoison h = false
        ∧ s.trained (frTensor h) = true ∧ scatterBegun s 0 = false
        ∧ frameStep (stepNumber s 0) (frStep16 h) = stepNumber s 0 ∧ frRows h = false)
      ∧ (let h := aFrame 1 0 []; let s := framing h 0 1 [];
        frameSource s 0 h [] = some (192, 0) ∧ s.trained (frTensor h) = true ∧ frRows h = true ∧ frameRecord s 0 h = some (anEgress 1)
          ∧ 0 + 1 < columnFrames s 0 0 (anEgress 1)
          ∧ columnFrames (framing h 0 1 [(0, { number := 0, header := h, payload := [] })]) 0 0 (anEgress 1) ≤ 1 + 1)
      ∧ (let h := aFrame 1 0 [];
        let s : State := { framing h 0 1 [] with cores := [(0, { bundles := [0] })] };
        let u : State := { s with
          dram := [(0, 31), (1, 0), (2, 0), (3, 0)]
          parts := [(0, { run := .running, image := some { goodImage with egress := [anEgress 1], plan := [aPlan 1] } })] };
        columnFrames s 0 0 (anEgress 1) ≤ 0 + 1 ∧ frameToken s 0 (anEgress 1) (aTensor 1 1 0 0 1 1 0 0 0) h = none
          ∧ frameToken u 0 (anEgress 1) (aTensor 1 1 0 0 1 1 0 0 0) h = some 31 ∧ columnFrames u 0 0 (anEgress 1) ≤ 0 + 1)
      ∧ (let h := aFrame 0 0 []; let s : State := { framing h 0 0 [] with tensors := [] };
        frameSource s 0 h [] = some (192, 0) ∧ s.recOf (frTensor h) = none ∧ frameSource served 0 h [] = none)
      ∧ (let h := aFrame 0 0 [] + 1; frameSource (framing h 0 0 []) 0 h [] = some (192, 0)
        ∧ bits h 31 0 ≠ crc32c (headerCrcBytes h ++ []))
      ∧ (let h := aFrame 0 1 []; frameSource (framing h 0 0 []) 0 h [] = some (192, 0) ∧ frPoison h = true
        ∧ bits h 31 0 = crc32c (headerCrcBytes h ++ []))
      ∧ (let h := aFrame 0 0 [];
        let s : State := { framing h 0 0 [] with quays := [(0, { excluded := [(0, 0, 0)] })] };
        frameSource s 0 h [] = some (192, 0) ∧ isExcluded s 0 (frameStep (stepNumber s 0) (frStep16 h)) (frOuter h) = true)
      ∧ (let h := aFrame 0 0 [];
        let s : State := { framing h 0 0 [] with
          parts := [(0, { run := .running, image := some { goodImage with egress := [anEgress 0], tensors := [(1, 0)] } })]
          tensors := [(1, { record := aTensor 1 0 0 0 1 1 0 0 0 + 256 ^ 10 })]
          opt := { tensors := [(1, { assigned := true })], runs := [(0, { phase := 1 })] }
          ledger := { membership := some { aTable [] with lateWindow := 1 } } };
        let n := frameStep (stepNumber s 0) (frStep16 h);
        frameSource s 0 h [] = some (192, 0) ∧ scatterBegun s 0 = true ∧ mayFold s 0 n (stepNumber s 0 + 1) = true
          ∧ isExcluded s 0 n (frOuter h) = false ∧ s.trained (frTensor h) = true
          ∧ mayFold { s with ledger := {} } 0 3 6 = false ∧ frameStep 5 3 = 3
          ∧ ((s.quay 0).lateFrames.map (fun f => 32 + f.2.payload.length)).sum + 32 + ([] : List Byte).length ≤ 67108864)
      ∧ (recFrozen (aTensor 1 0 1 0 1 1 0 0 0) = true ∧ (framing 0 1 0 []).trained 1 = false) := by
  dsimp only
  and_intros
  all_goals decide +kernel

/-- A partition whose egress plan has layer 4,095, past its only event. -/
def governed (gov : Governor) (run : RunState) : State :=
  { served with
    sivar := { config := [(okey 0x2100 3, [1])] }
    parts := [(0, { run := run, image := some { goodImage with egress := [anEgress 0] }, cursor := 2 })], govs := [(0, gov)] }

/-- The same partition in group 1 of a tide domain, with what a member reported at tick 0. -/
def grouped (gov : Governor) (root : Bool) (reports : List MemberReport) : State :=
  { governed gov .running with
    tide := { joined := true, isRoot := root, reports := reports }
    parts := [(0, { run := .running, launchTick := 1000, period := 1000
                    image := some { goodImage with egress := [anEgress 0], header := { goodImage.header with group := 1 } } })] }

/-- A stash layout: kind, variant bit, bound. -/
def aLayout (kind bit smax : Nat) : StashLayout :=
  { kind := kind, bit := bit, smax := smax, extra := 0, boundary := 0, gatherRecord := 0, latchEntry := 0, latchInner := 0, layers := [] }

/-- A RUNNING partition with stash layouts; 5 segments measured for outer index 0 of step 0. -/
def stashing (stash : List StashLayout) (now : Nat) : State :=
  { served with
    now := now, sivar := { config := [(okey 0x2100 3, [1])] }
    parts := [(0, { run := .running, image := some { goodImage with stash := stash }, launchTick := 1, period := 1000 })]
    quays := [(0, { segments := [(0, 0, 0, 5)] })] }

theorem witness_GovernorsMeasureAndDecide :
    (let s := governed { stats := [(4095, {})] } .running;
      layerFired s 0 4095 = true ∧ (∀ e ∈ s.intakes, ∀ o ∈ e.2.opens, o.part = 0 → egLayer o.record ≠ 4095)
        ∧ tfind (s.gov 0).stats (0 * 4096 + 4095) = some {})
      ∧ (let s := governed { reported := [(4095, {})] } .running;
        tfind (s.gov 0).reported 4095 = some {} ∧ decidedElsewhere s 0 = false
          ∧ (∀ q, q < 4 → tfind (s.gov 0).stats (q * 4096 + 4095) = none) ∧ inGroup s 0 = false)
      ∧ (let s := grouped { reported := [(4095, {})] } false [];
        tfind (s.gov 0).reported 4095 = some {} ∧ decidedElsewhere s 0 = true)
      ∧ (let s := grouped { reported := [(4095, {})] } true [aReport []];
        decidedElsewhere s 0 = false ∧ inGroup s 0 = true ∧ groupStats s 0 0 4095 {} = none
          ∧ s.now + 64 * 1500 < nextStepStart (s.part 0))
      ∧ (let s := grouped { reported := [(4095, {})] } true
            [aReport [(1, 0, 4095, {})]];
        groupStats s 0 0 4095 {} = some (joinStats {} {}))
      ∧ (let s : State := { grouped { reported := [(4095, {})] } true [aReport []] with now := 936 * 1500 };
        groupStats s 0 0 4095 {} = none ∧ nextStepStart (s.part 0) ≤ s.now + 64 * 1500)
      ∧ (let s := governed {} .running;
        layerFired s 0 4095 = true ∧ 4095 ∈ layersOf s 0 ∧ tget 0 (s.gov 0).reportedStep 4095 ≠ stepNumber s 0 + 1)
      ∧ (∀ r ∈ [RunState.stopped, .running], let s := governed {} r; Serves s (.pcie 0) false ∧ 4095 ∈ layersOf s 0)
      ∧ (let s := stashing [aLayout 0 0 5] 0;
        (s.part 0).marks = true ∧ baseLayout s 0 = some (aLayout 0 0 5) ∧ decidedElsewhere s 0 = false
          ∧ groupSegments s 0 0 0 = some 5 ∧ (0, 0) ∉ (s.gov 0).stashDone
          ∧ (s.part 0).n0 ≤ 0 ∧ baseLayout (stashing [] 0) 0 = none ∧ wordAhead s 0 &&& stashMask s 0 = 0)
      ∧ (let s : State := { stashing [aLayout 0 0 5, aLayout 1 15 5] 0 with
            parts := [(0, { run := .running, image := some { goodImage with stash := [aLayout 0 0 5, aLayout 1 15 5] }
                            launchTick := 1, period := 1000, variant := 0x8000 })] };
        wordAhead s 0 &&& stashMask s 0 ≠ 0)
      ∧ (let s := stashing [aLayout 0 0 4, aLayout 1 15 5] 0;
        stashWant s 0 5 (aLayout 0 0 4) = .variant (aLayout 1 15 5)
          ∧ passedElsewhere s 0 1500 = false ∧ s.now + 1500 ≤ reqTime (s.part 0) { mask := stashMask s 0, word := 0, entry := 0, inner := 0, outer := 0, step := 0 })
      ∧ (let r : VariantReq := { mask := 0, word := 0, entry := 0, inner := 0, outer := 0, step := 0 };
        stashWant (stashing [aLayout 0 0 4] 0) 0 5 (aLayout 0 0 4) = .fault
          ∧ (stashing [aLayout 0 0 4] 0).now + 1500 ≤ reqTime ((stashing [aLayout 0 0 4] 0).part 0) r
          ∧ reqTime ((stashing [aLayout 0 0 4] 1).part 0) r < (stashing [aLayout 0 0 4] 1).now + 1500) := by
  unfold Serves
  refine ⟨by decide +kernel, by decide +kernel, by decide +kernel, by decide +kernel, by decide +kernel, by decide +kernel, by decide +kernel,
    by decide +kernel, by decide +kernel⟩

/-- Members of modules 0 and 9 that mirror each other: two ranks of one domain, or one rank of two domains; five witnesses. -/
def twoMembers (far : Bool) : List Member :=
  [{ module := 0, rank := 0, domain := 0, hall := 0, partner := 9, witnesses := 7, zero := 0, tideDomain := 0 },
   { module := 9, rank := if far then 0 else 1, domain := if far then 1 else 0, hall := 1, partner := 0, witnesses := 3, zero := 0, tideDomain := 0 }]

/-- A group record: rule, and the block sides of a PRECOND group. -/
def groupRow (rule bin bout : Nat) : List Byte := leBytes 64 (rule + bin * 256 ^ 28 + bout * 256 ^ 30)

/-- A run whose phase is not 0 keeps what its update began with: tensor 1 under the ADAM rule, the table and the launch. -/
def runIn (table : Option Membership) (run : UpdateRun) : UpdateRun :=
  if run.phase = 0 then run else { run with par := [(1, 1)], table := table, launch := 1 }

/-- A training partition: update record on entry 0, group 0, tensor 1 of four slabs in quay 0, mirrored in quay 1, assigned to group 0. -/
def training (table : Option Membership) (run : UpdateRun) (ex : Exchange) : State :=
  { served with
    sivar := { config := [(okey 0x2100 3, [1]), (okey 0x6000 0x10, groupRow 1 0 0)] }
    parts := [(0, { run := .running, image := some { goodImage with update := some 0, tensors := [(1, 0)] }, launchTick := 1, period := 1000
                    cursor := 1500 })]
    tensors := [(1, { record := aTensor 1 0 8 4 8 8 0 0 0, versions := [aVersion 0] })]
    opt := { tensors := [(1, { assigned := true })], runs := [(0, runIn table run)] }
    ledger := { state := 2, membership := table, hm := some (0, 0), exchange := [(0, ex), (1, ex)] } }

theorem witness_UpdatePhasesBegin :
    (let s := training none {} {};
      updateRec s 0 = some 0 ∧ 0 ∈ feeders s ∧ (s.run 0).phase = 0 ∧ (s.part 0).marks = true ∧ (s.run 0).done = false
        ∧ tableOf s 0 = none ∧ nextUpdate s 0 false = 0 ∧ holdsGradient s 0 0 = true
        ∧ (stepReady s 0 (updEntry 0 0) 0).isSome = true)
      ∧ (let s : State := { training (some (aTable (twoMembers false))) { done := true, step := 4 } {} with
            parts := [(0, { image := some { goodImage with update := some 0, tensors := [(1, 0)] } })] };
        (∃ tb, tableOf s 0 = some tb ∧ 1 < tb.members.length) ∧ (s.run 0).done = true ∧ 0 ∈ feeders s
          ∧ nextUpdate s 0 true = 5 ∧ s.ledger.state < 3 ∧ (stepReady s 0 (updEntry 0 0) 5).isSome = true)
      ∧ (let s : State := { training none {} {} with
            sivar := { config := [(okey 0x2100 3, [1]), (okey 0x2101 3, [1])] }
            parts := [(0, ((training none {} {}).part 0)),
                      (1, { (training none {} {}).part 0 with run := .stopped, cursor := 0 })] };
        0 ∈ feeders s ∧ (s.run 0).phase = 0 ∧ (s.part 0).marks = true ∧ nextUpdate s 0 false = stepNumber s 0
          ∧ holdsGradient s 0 (stepNumber s 0) = false ∧ (stepReady s 0 (updEntry 0 0) (stepNumber s 0)).isSome = true)
      ∧ (let s := training none { phase := 1 } { farClosed := true };
        (s.run 0).phase = 1 ∧ (∀ q ∈ activeQuays s 0, (s.exchange 0 q).farClosed = true) ∧ activeQuays s 0 = [0]
          ∧ enginesFree s 0 (quaySlabs s 0) = true
          ∧ (phaseReady s 0 1).isSome = true ∧ quaySlabs s 0 0 ≠ [])
      ∧ (let s := training none { phase := 2, g2 := some 0 } { norms := [(0, 0)] };
        (s.run 0).g2 = some 0 ∧ passOver s 0 1 = true ∧ (∀ tid ∈ domainTensors s 0, (s.tensor tid).checkpointing = none)
          ∧ (∀ q, q < 4 → heldShards s 0 q = [] ∨ ∀ n ∈ liveShards s 0, tfind (s.exchange 0 q).norms n ≠ none)
          ∧ enginesFree s 0 (passTwoUnits s 0) = true ∧ (phaseReady s 0 2).isSome = true ∧ 1 ∈ domainKeys s 0)
      ∧ (dFinite 0 = true ∧ dFinite 0x7FF0000000000000#64 = false)
      ∧ (let s := training none { phase := 3, skipped := true } {};
        (s.run 0).phase = 3 ∧ passOver s 0 2 = true ∧ (phaseReady s 0 3).isSome = true
          ∧ (s.run 0).skipped = true ∧ 1 ∈ domainTensors s 0 ∧ (s.tensor 1).slot (s.run 0).step = some (aVersion 0)
          ∧ ∀ tid ∈ domainTensors s 0, s.recOf tid ≠ none ∧ slotReady s tid ((s.run 0).step + 1) = true ∧ (s.run 0).step + 1 ∉ (s.tensor tid).retiring)
      ∧ (let s : State := { training none { phase := 3 } {} with
            tensors := [(1, { record := aTensor 1 0 8 4 8 8 0 0 0, versions := [aVersion 4, aVersion 5] })], quays := [(0, { entries := [anEntry 0] })] };
        passOver s 0 2 = true ∧ (phaseReady s 0 3).isSome = true ∧ 1 ∈ domainTensors s 0
          ∧ slotReady s 1 ((s.run 0).step + 1) = false) := by
  refine ⟨by decide +kernel, ⟨⟨aTable (twoMembers false), by decide +kernel⟩, by decide +kernel⟩, by decide +kernel, by decide +kernel,
    by decide +kernel, by decide +kernel, by decide +kernel, by decide +kernel⟩

/-- A quay whose engine 255 works on the last slab of tensor 1, with one more in its queue. -/
def engined (pass : Nat) (fenced : List Nat) : State :=
  { training none { phase := pass + 1, cf := 0 } {} with
    opt := { tensors := [(1, { assigned := true })]
             engines := [(0, { dom := 0, pass := pass, working := [(255, some (1, 3))], queues := [(255, [(1, 2)])], fenced := fenced, passDone := false })] } }

/-- A PRECOND tensor of one block with a snapshot. -/
def rooting (b : BlockState) : State :=
  { training none {} {} with
    sivar := { config := [(okey 0x6000 0x10, groupRow 2 256 256)] }, opt := { tensors := [(1, { assigned := true, blocks := [(0, b)] })] } }

theorem witness_EnginesComputeAndFail :
    (∀ pass ∈ [1, 2], let s := engined pass [];
        let g := groupFor s 0 1;
        tget none (s.engines 0).working 255 = some (1, 3) ∧ (s.engines 0).pass = pass ∧ grpRule g ≠ 2 ∧ s.recOf 1 = some (aTensor 1 0 8 4 8 8 0 0 0)
          ∧ recKind (aTensor 1 0 8 4 8 8 0 0 0) ≠ 1 ∧ tget [] (s.engines 0).queues 255 = (1, 2) :: [] ∧ slabSpan s 1 3 = (49152, 16384))
      ∧ (let s := rooting { due := some 0, attemptsL := 5, attemptsR := 4, failed := true };
        let bl := tget {} (s.optOf 1).blocks 0; let g := s.groupRec (s.optOf 1).group;
        grpRule g = 2 ∧ 0 < blocksIn (aTensor 1 0 8 4 8 8 0 0 0) g ∧ bl.due ≠ none ∧ bl.sideDone true = false)
      ∧ (let s := rooting { due := some 0, attemptsL := 5, failed := false }; let bl := tget {} (s.optOf 1).blocks 0;
        bl.newL = none ∧ ¬ (bl.attemptsL = 5 ∧ bl.failed = true))
      ∧ (255 < 256 ∧ 255 ∉ ((engined 2 [0]).engines 0).fenced ∧ enabledEngines (engined 2 [255]) 0 ≠ []
        ∧ unitShard (engined 2 []) 0 0 2 1 3 = some 0) := by
  refine ⟨by decide +kernel, by decide +kernel, by decide +kernel, by decide +kernel, by decide +kernel, by decide +kernel, by decide +kernel⟩

/-- A stopped module with a tensor assigned to group 0 of the ADAM rule. -/
def assigning (rec : BitVec 512) (o : OptState) : State :=
  { served with sivar := { config := [(okey 0x6000 0x10, groupRow 1 0 0)] }, tensors := [(1, { record := rec })], opt := { tensors := [(1, o)] } }

theorem witness_OptimizerObjectsAreWritten :
    (let s := assigning (aTensor 1 0 0 0 1 1 0 0 0) {};
      Serves s (.pcie 0) false ∧ s.recOf 1 = some (aTensor 1 0 0 0 1 1 0 0 0) ∧ recFrozen (aTensor 1 0 0 0 1 1 0 0 0) = false
        ∧ recRegion (aTensor 1 0 0 0 1 1 0 0 0) = false ∧ precondFits (aTensor 1 0 0 0 1 1 0 0 0) (s.groupRec 0) = true
        ∧ feedBusy s 1 = false ∧ (reallocate s.asked 1 (s.groupRec 0)).isSome = true)
      ∧ (let s := assigning (aTensor 1 0 1 0 1 1 0 0 0) { assigned := true, group := 15 };
        recFrozen (aTensor 1 0 1 0 1 1 0 0 0) = true ∧ grpRule (s.groupRec 15) = 0 ∧ (s.optOf 1).assigned = true
          ∧ grpRule (s.groupRec (s.optOf 1).group) = grpRule (s.groupRec 14) ∧ (reallocate s.asked 1 (s.groupRec 14)).isSome = true)
      ∧ (let s := assigning (aTensor 1 0 0 0 1 1 0 0 0) { assigned := true };
        stateChecks s 1 = none ∧ (∀ part ∈ [0, 1, 2], 4095 + 1 ≤ partBytes (aTensor 1 0 0 0 1 1 0 0 0) (s.groupRec (s.optOf 1).group) part)
          ∧ 7 + 1 ≤ partBytes (aTensor 1 0 0 0 1 1 0 0 0) (s.groupRec (s.optOf 1).group) 3)
      ∧ Writable served (okey 0x6000 (0x10 + 15)) (leBytes 64 (0x322BCC77 * 256 ^ 12 + 0x3F800000 * 256 ^ 24)) := by
  unfold Serves Writable
  dsimp only
  and_intros
  all_goals decide +kernel

/-- A packet of module 9, quay 0 for a quay of this module. -/
def aHeader (typ q shard off : Nat) (final : Bool) (pay : List Byte) : BitVec 256 :=
  fabHeader 9 0 0 { typ := typ, dm := 0, dq := q, ledger := 0, step := 0, shard := shard, off := off, final := final } pay

/-- Eight bytes. -/
def eight : List Byte := List.replicate 8 0

theorem witness_ContributionsAreSummedInOrder :
    (let s := training (some (aTable (twoMembers false))) { phase := 1 } { began := true };
      let pl := placeOf s 0;
      (s.fabricTake 0 1 (aHeader 1 0 0 0 false eight) eight).2 = some 0
        ∧ (List.range pl.m).find? (fun i => memberModule s 0 i pl.d == fabSrc (aHeader 1 0 0 0 false eight) && i != pl.i) = some 1
        ∧ contribSource s 0 (aHeader 1 0 0 0 false eight) = some 1 ∧ contribWaits s 0 (aHeader 1 0 0 0 false eight) eight = false
        ∧ contribWaits s 0 (aHeader 1 0 0 0 true []) [] = false ∧ contribWaits s 0 (aHeader 1 0 4 0 false eight) eight = false
        ∧ shardPlace pl (fabShard (aHeader 1 0 0 0 false eight)) = (pl.i, pl.d, 0)
        ∧ (locateSlab s (sliceSlabs s 0 0 pl.i) 255).isSome = true ∧ locateSlab s (sliceSlabs s 0 0 pl.i) 256 = none
        ∧ (s.fabricTake 0 1 (aHeader 1 0 0 0 true []) []).2 = some 0 ∧ fabFinal (aHeader 1 0 0 0 true []) = true
        ∧ (s.fabricTake 0 1 (aHeader 1 0 4 0 false eight) eight).2 = some 0 ∧ shardPlace pl 4 ≠ (pl.i, pl.d, 0))
      ∧ (let s : State := { training (some (aTable (twoMembers false))) { phase := 1 } {} with
            quays := [(0, { allocs := [{ tier := 0, kind := 0, tid := 9, base := 0, size := dramCap served 0 }] })] };
        feedByLedger s (fabLedger (aHeader 1 0 0 0 false eight)) = some 0 ∧ contribSource s 0 (aHeader 1 0 0 0 false eight) = some 1
          ∧ (∃ e, locateSlab s (sliceSlabs s 0 0 (placeOf s 0).i) 0 = some e ∧ aheadOf s 0 0 1 0 e.1 = true)
          ∧ stagingFull s 0 eight.length = true)
      ∧ (let s := training (some { aTable (twoMembers true) with domains := 2 }) { phase := 1 } { began := true, nearClosed := true };
        let pl := placeOf s 0;
        (s.fabricTake 0 2 (aHeader 2 0 0 0 false eight) eight).2 = some 0
          ∧ (List.range pl.dd).find? (fun d => memberModule s 0 0 d == 9 && (0 != pl.i || d != pl.d)) = some 1
          ∧ 0 ∈ heldShards s 0 0 ∧ (locateSlab s (heldSlabs s 0 0 0) 0).isSome = true ∧ 4 ∉ heldShards s 0 0
          ∧ (s.fabricTake 0 2 (aHeader 2 0 4 0 false eight) eight).2 = some 0
          ∧ exchangeWhere s 0 (fun p e => (e.nearClosed && !e.farClosed) && farComplete s p 0) = none
          ∧ exchangeWhere s 0 (fun _ e => e.nearClosed && !e.farClosed) = some 0)
      ∧ (let s := training none { phase := 1 } { began := true };
        ((List.range 8).findSome? (fun p => (nearReady s p 0).map (fun t => (p, t)))).map (fun e => e.1) = some 0)
      ∧ (let s := training none { phase := 1 } { began := true, nearClosed := true };
        exchangeWhere s 0 (fun p e => (e.nearClosed && !e.farClosed) && farComplete s p 0) = some 0) := by
  dsimp only
  and_intros
  all_goals decide +kernel

/-- Port 0 of quay 0 is trained and its far end is module 9, quay 0. -/
def peered (s : State) : State := { s with fabric := { peers := [(512, 9, 0)] }, ports := [(512, { outcome := 3 })] }

theorem witness_FabricPacketsAreHandled :
    (∀ flow, routePort (peered served) 0 9 0 flow = some 512) ∧ (∀ flow, routePort served 0 9 0 flow = none)
      ∧ (let h := fabHeader 5 0 0 { typ := 1, dm := 9, dq := 0, ledger := 0, step := 0, shard := 0, off := 0 } eight;
        fabDst h ≠ served.moduleNumber ∧ fabDst h = 9 ∧ fabOk h eight = true ∧ fabType h ≠ 10 ∧ fabOk (h + 1) eight = false
          ∧ fabDst (h + 1) = 9)
      ∧ (let s := training (some (aTable (twoMembers false))) {} { began := true };
        (s.fabricTake 0 10 (aHeader 10 0 0 0 false []) []).2 = some 0
          ∧ ((s.fabricTake 0 6 (aHeader 6 0 0 0 false []) []).2 = some 0
            ∧ (∀ e ∈ streamTiles s (shardSlabsNo s 0 0), ((s.tensor e.1).slot 0).isSome = true)
            ∧ ((shardStream s 0 0 0).drop (512 * 0)).take 4096 ≠ [])
          ∧ ((s.fabricTake 1 5 (aHeader 5 1 4 0 true eight) eight).2 = some 0 ∧ 4 ∈ copyShards s 0 1 ∧ (s.exchange 0 1).step ≤ 0
            ∧ (locateSlab s (copySlabs s 0 1 4) 0).isSome = true ∧ (locateSlab s (copySlabs s 0 1 4) rowsMark).isSome = true
            ∧ (s.fabricTake 1 5 (aHeader 5 1 4 rowsMark true eight) eight).2 = some 0 ∧ mirrorWhole s 0 1 4 0 = false)
          ∧ ((s.fabricTake 0 3 (aHeader 3 0 4 0 false eight) eight).2 = some 0 ∧ holderOf s 0 4 = (9, 0) ∧ (s.exchange 0 0).began = true
            ∧ (s.exchange 0 0).step = 0 ∧ (s.run 0).g2 = none)
          ∧ ((s.fabricTake 0 4 (aHeader 4 0 4 0 false eight) eight).2 = some 0 ∧ 4 % 4 = 0 ∧ 4 ∈ liveShards s 0 ∧ (s.run 0).skipped = false
            ∧ ∀ j, j < 8 → ∀ e ∈ streamTiles s (shardSlabsNo s j 4), slotReady s e.1 ((s.exchange j 0).step + 1) = true))
      ∧ (let s : State := { training (some (aTable (twoMembers false))) {} { began := true } with
            tensors := [(1, { record := aTensor 1 0 8 4 8 8 0 0 0, versions := [aVersion 4, aVersion 5] })], quays := [(0, { entries := [anEntry 0] })] };
        streamTiles s (shardSlabsNo s 0 0) ≠ [] ∧ ∀ e ∈ streamTiles s (shardSlabsNo s 0 0), slotReady s e.1 ((s.exchange 0 0).step + 1) = false)
      ∧ (∀ l ∈ [[0], [0, 4]], let s := training (some (aTable (twoMembers false))) {} { began := true, farClosed := true, mirrorAcks := l };
        exchangeWhere s 0 (fun p e => e.farClosed && decide (0 ∈ e.mirrorAcks) && decide (0 ∈ heldShards s p 0)) = some 0)
      ∧ (let s := training (some (aTable (twoMembers false))) {} {};
        (s.fabricTake 0 3 (aHeader 3 0 4 0 false eight) eight).2 = some 0 ∧ (s.exchange 0 0).began = false) := by
  refine ⟨fun flow => ?_, fun flow => ?_, ?_, ?_, ?_, ?_, ?_⟩
  · have h : allowedPorts (peered served) 0 9 0 = [0] := by decide +kernel
    simp only [routePort, h, List.length_cons, List.length_nil, Nat.zero_add, Nat.max_self, Nat.mod_one]
    decide +kernel
  · have h : allowedPorts served 0 9 0 = [] := by decide +kernel
    simp [routePort, h]
  all_goals dsimp only
  all_goals and_intros
  all_goals decide +kernel

/-- A record of ledger 0. -/
def aRec (kind step term : Nat) : LedgerRecord :=
  { ledger := 0, kind := kind, step := step, term := term, roleMap := 0, g2 := 0, flags := 0, entries := [], digest := 0, roles := [] }

/-- What a shard reports. -/
def aDone (mirror : Bool) (sum : BitVec 64) : ShardEntry :=
  { shard := 0, status := 0, mirror := mirror, nearOnTime := 0, nearFolded := 0, nearDropped := 0, farOnTime := 0, farFolded := 0
    farDropped := 0, streamSum := sum }

/-- A ledger of this module with a harbour master in quay 0. -/
def ledgered (table : Option Membership) (l : Ledger) : State :=
  { training table {} {} with ledger := { l with membership := table, hm := some (0, 0) } }

theorem witness_LedgerRecordsAreCommitted :
    (let s := ledgered none { dones := [(0, 0, 9, 1, aDone true 1)] };
      hmHere s = true ∧ 1 ≤ faultsBorne s ∧ s.ledger.proposed = [] ∧ hmPosition s = some 0 ∧ s.mc.mresetDraining = false
        ∧ (ledgerParts s).find? (fun p => decide (0 ∈ liveShards s p)
          && ((9 : Nat) != s.moduleNumber || (decide ((s.run p).step = 0) && (s.exchange p 0).shardDone))) = some 0
        ∧ (ledgerOf s 0, 0, 9, 0, aDone false 0) ∉ s.ledger.dones
        ∧ s.ledger.dones.find? (fun d => d.1 == ledgerOf s 0 && d.2.1 == 0 && d.2.2.2.2.shard == 0 && d.2.2.2.2.mirror != false)
          = some (0, 0, 9, 1, aDone true 1))
      ∧ (let s := ledgered none {}; ownWitness s 2 = true ∧ (s.witness 2).term ≤ 0)
      ∧ (let s := ledgered (some (aTable (twoMembers false))) {};
        ownWitness s 4 = false ∧ 4 < (witnessList s).length ∧ s.ledger.term ≤ 1 ∧ aRec 2 0 1 ∉ s.ledger.heard)
      ∧ (let s := ledgered none { proposed := [(aRec 1 0 1, [0])] };
        hmHere s = true ∧ 2 < (witnessList s).length ∧ faultsBorne s = 1
          ∧ s.ledger.proposed.find? (fun e => e.1.term == 1 && !decide (2 ∈ e.2)) = some (aRec 1 0 1, [0])
          ∧ s.ledger.proposed.find? (fun x => x.1 == aRec 1 0 1) = some (aRec 1 0 1, [0]) ∧ aRec 1 0 1 ∉ s.ledger.records)
      ∧ (let s := ledgered (some (aTable (twoMembers false))) { proposed := [(aRec 1 0 1, [0])] };
        faultsBorne s = 2 ∧ 4 < (witnessList s).length)
      ∧ (∀ k ∈ [2, 4], let s := ledgered none { witnesses := [(0, { journal := [aRec k 0 1] })] };
        namedRecords s 0 1 = [aRec k 0 1] ∧ aRec k 0 1 ∉ s.ledger.records ∧ s.ledger.term ≤ 1)
      ∧ (let s : State := { training none { done := true } { shardDone := true } with
            tensors := [(1, { record := aTensor 1 0 8 4 8 8 0 0 0, versions := [{ aVersion 1 with committed := false }] })] };
        namedRecords s 0 1 = [] ∧ s.ledger.state ≠ 6 ∧ 0 ∈ ledgerParts s ∧ partDone s 0 0 0 = true
          ∧ s.recOf 1 = some (aTensor 1 0 8 4 8 8 0 0 0) ∧ recPrimary (aTensor 1 0 8 4 8 8 0 0 0) = 0 ∧ 1 ∉ (s.tensor 1).retiring ∧ 1 ∈ domainTensors s 0
          ∧ (s.tensor 1).slot (0 + 1) = some { aVersion 1 with committed := false })
      ∧ (let tb := aTable (twoMembers false); let s := ledgered (some tb) { state := 1, digests := [(0, 7)] };
        s.ledger.membership = some tb ∧ (∃ m ∈ tb.members, m.module = 9) ∧ 9 ≠ s.moduleNumber ∧ s.ledger.hm.isSome = true
          ∧ (s.ledger.digests.find? (fun d => d.1 == s.moduleNumber)).map (fun d => d.2) = some 7) := by
  dsimp only
  and_intros
  all_goals decide +kernel

theorem witness_MembershipAndRestore :
    (let tb : Membership := { aTable (twoMembers false) with
        witnesses := 5, farWait := 1000 };
      Serves served (.pcie 0) false ∧ decodeTable (encodeTable tb) = some tb ∧ Writable served (okey 0x6000 0x30) (encodeTable tb))
      ∧ Writable served (okey 0x6000 0x30) []
      ∧ (let s : State := { training none {} {} with
            tensors := [(1, { record := aTensor 1 0 8 4 8 8 0 0 0, checkpoint := some { version := aVersion 3, state := {} }, replica := some { version := aVersion 3, state := {} } })]
            ledger := { state := 6, rollbackTo := 3 } };
        Serves s (.pcie 0) false ∧ s.ledger.state = 6 ∧ (ledgerParts s).find? (fun p => ledgerOf s p == 0) = some 0
          ∧ (∀ tid ∈ domainTensors s 0, ((s.tensor tid).copyOf s.ledger.rollbackTo).isSome = true) ∧ recMirror (s.tensor 1).record = true ∧ domainTensors s 0 = [1]
          ∧ (∀ x ∈ domainTensors s 0, x < mirrorKey)) := by
  unfold Serves Writable
  dsimp only
  and_intros
  all_goals decide +kernel

/-- Two modules of a ledger, this one's witness 2 with a journal and a vote. -/
def electing (hm : Option (Nat × Nat)) (w : Witness) : State :=
  { training (some (aTable (twoMembers false))) {} {} with
    ledger := { state := 2, membership := some (aTable (twoMembers false)), hm := hm, witnesses := [(2, w)] } }

theorem witness_HarbourMastersAreElected :
    (let s := electing (some (0, 0)) {}; ownWitness s 2 = true ∧ hmPosition s ≠ some 2)
      ∧ (let s := electing none {}; ownWitness s 0 = true ∧ hmHere s = false)
      ∧ (let s := electing none { term := 1, votedFor := some (1, 4), journal := [aRec 1 5 1] }; let x := s.witness 2;
        ((x.tip.1 < 1 ∨ (x.tip.1 = 1 ∧ x.tip.2 ≤ 5)) ∧ (x.term < 1 ∨ x.votedFor = none ∨ x.votedFor = some (1, 4)))
          ∧ ¬ ((x.tip.1 < 1 ∨ (x.tip.1 = 1 ∧ x.tip.2 ≤ 5)) ∧ (x.term < 1 ∨ x.votedFor = none ∨ x.votedFor = some (1, 3)))
          ∧ x.term ≤ 1)
      ∧ (let s := electing none { candidate := true, votes := [2], term := 3 };
        (s.witness 2).candidate = true ∧ 4 < (witnessList s).length ∧ (addOnce (s.witness 2).votes 4).length ≤ faultsBorne s)
      ∧ (let s := electing none { candidate := true, votes := [2, 0], term := 3 }; faultsBorne s < (addOnce (s.witness 2).votes 4).length)
      ∧ (let s0 := electing none { candidate := true, votes := [2, 0], term := 3 }; let s : State := { s0 with ledger := { s0.ledger with state := 3 } };
        ownWitness s 2 = true ∧ 1 ≤ faultsBorne s ∧ faultsBorne s < (addOnce (s.witness 2).votes 4).length ∧ s.ledger.state = 3
          ∧ ∀ p ∈ ledgerParts s, ∀ n ∈ liveShards s p, holderOf s p n ∉ s.ledger.lost)
      ∧ (∀ st ∈ [3, 4], let s : State := { electing none {} with ledger := { (electing none {}).ledger with state := st } };
        (9, 1) ∈ witnessList s ∧ s.ledger.term < 1 ∧ (s.ledger.state = 3 ∨ s.ledger.state = 4) ∧ movedShards (s.hearRoles 1) = [])
      ∧ (let s := electing (some (0, 1)) {}; (0, 1) ∈ witnessList s ∧ 0 = s.moduleNumber ∧ s.ledger.hm = some (0, 1) ∧ hmHere s = true)
      ∧ (let s := electing none {}; (9, 1) ∈ witnessList s ∧ 9 ≠ s.moduleNumber ∧ s.ledger.term ≤ 7 ∧ s.ledger.state ≠ 3 ∧ s.ledger.state ≠ 4) := by
  dsimp only
  and_intros
  all_goals decide +kernel

theorem witness_LostMembersAndRejoins :
    (let s := electing (some (0, 0)) {};
      hmHere s = true ∧ (9, 0) ∉ s.ledger.lost ∧ ledgerParts s = [0] ∧ hmPosition s = some 0 ∧ s.mc.mresetDraining = false
        ∧ (liveShards s 0).any (fun n => holderOf s 0 n == (9, 0)) = true
        ∧ (rolesAfter { s with ledger := { s.ledger with lost := s.ledger.lost ++ [(9, 0)] } } 0 (fun n => holderOf s 0 n == (9, 0))
          (fun n => decide ((9, 0) ∈ copyQuays s 0 n))).isSome = true
        ∧ (∀ p ∈ ledgerParts s, ∀ n ∈ liveShards s p, (holderOf s p n == (9, 3)) = false ∧ decide ((9, 3) ∈ copyQuays s p n) = false)
        ∧ 1 ≤ faultsBorne s ∧ s.ledger.proposed = [])
      ∧ (∀ c ∈ [none, some { version := aVersion 3, state := {} }], let s : State := { training none {} {} with
            tensors := [(1, { record := aTensor 1 0 8 4 8 8 0 0 0, checkpoint := c })], ledger := { state := 2, hm := some (0, 0), lost := [(0, 1)] } };
        hmHere s = true ∧ (0, 0) ∉ s.ledger.lost ∧ ledgerParts s = [0] ∧ hmPosition s = some 0 ∧ s.mc.mresetDraining = false
          ∧ (liveShards s 0).any (fun n => holderOf s 0 n == (0, 0)) = true
          ∧ rolesAfter { s with ledger := { s.ledger with lost := s.ledger.lost ++ [(0, 0)] } } 0 (fun n => holderOf s 0 n == (0, 0))
              (fun n => decide ((0, 0) ∈ copyQuays s 0 n)) = none
          ∧ commonCheckpoint s 0 = c.map (fun _ => 3))
      ∧ (3 < 4 ∧ (electing none {}).ledger.state ≠ 4 ∧ 0 ∈ ledgerParts (electing none {}) ∧ 0 ∈ groupParts (electing none {}) 0
        ∧ ((electing none {}).part 0).marks = true)
      ∧ (∀ st ∈ [3, 4], let s : State := { electing none {} with ledger := { (electing none {}).ledger with state := st } };
        s.ledger.term < 1 ∧ (s.ledger.state = 3 ∨ s.ledger.state = 4) ∧ movedShards (s.hearRoles 1) = [])
      ∧ (let s : State := { electing none {} with
            ledger := { (electing none {}).ledger with state := 4, heard := [{ aRec 2 0 1 with roleMap := 1, roles := [(0, 9, 1, false)] }] } };
        s.ledger.term < 1 ∧ s.ledger.state = 4 ∧ movedShards (s.hearRoles 1) ≠ [])
      ∧ (let s : State := { electing none {} with ledger := { (electing none {}).ledger with resyncing := [(0, 4)], state := 5 } };
        (0, 4) ∈ s.ledger.resyncing) := by
  dsimp only
  and_intros
  all_goals decide +kernel

/-- Bring-up at the start of a stage. -/
def staged (stage : Nat) (cold : Bool) : State := { State.reset with bring := { stage := stage, coldS5 := cold } }

/-- A firmware image that the ROM accepts where its signature verifies. -/
def aFirmware (security : Nat) : FirmwareImage :=
  { magic := 0x574D464E, version := 0, security := security, flags := 0, sections := 1, zero := 0, bodyLength := 0, dirTypes := [1]
    dirOverlap := false, bodyDigest := 0, bodyHash := 0, vendorKey := [], ownerKey := [], vendorSig := [], ownerSig := [], headerHash := 0, mcDigest := 0
    quayDigest := 0, opticalDigest := 0 }

/-- The state whose ROM finds that image, and the hash of its key in the fuses. -/
def storedAt (security : Nat) : State := { staged 0 false with fw := { stored := some (aFirmware security), vendorHash := Config.sha3 [] } }

theorem firmware_detail_of_signature (h : Config.mldsaVerify [] 0 [] = true) : romDetail (storedAt 64) = 0 := by
  have f : firmwareFormed (aFirmware 64) = true := by decide +kernel
  have e : romDetail (storedAt 64) = firmwareDetail (storedAt 64) (aFirmware 64) := rfl
  rw [e]
  unfold firmwareDetail
  rw [f, show Config.mldsaVerify (aFirmware 64).vendorKey (aFirmware 64).headerHash (aFirmware 64).vendorSig = true from h]
  simp [aFirmware, storedAt, staged, State.reset]

theorem witness_BringUpStagesEnd :
    ((storedAt 64).bring.active = true ∧ (storedAt 64).bring.stopped = false ∧ (storedAt 64).bring.stage = 0
        ∧ (Config.mldsaVerify [] 0 [] = true → romDetail (storedAt 64) = 0))
      ∧ ((staged 0 false).bring.stage = 0 ∧ romDetail (staged 0 false) ≠ 0)
      ∧ ((staged 3 false).bring.stage = 3 ∧ (staged 3 false).power.pumpOk = false ∧ (staged 3 false).power.draining = false)
      ∧ (let s : State := { staged 3 false with power := { draining := true, pumpOk := true, pumpOkSince := 87000000001 } };
        s.power.draining = true ∧ s.bring.stageAt + 87000000000 < s.power.pumpOkSince)
      ∧ ((staged 5 false).bring.stage = 5 ∧ (staged 5 false).bring.coldS5 = false)
      ∧ ((staged 8 false).bring.stage = 8 ∧ domainId (staged 8 false) = 0)
      ∧ ((staged 9 false).bring.stage = 9 ∧ (staged 9 false).bring.coldS5 = false ∧ (staged 9 true).bring.coldS5 = true
        ∧ (staged 9 true).bring.active = true ∧ (staged 9 true).bring.stopped = false
        ∧ (staged 9 true).bring.moduleReset = false ∧ (staged 9 true).bring.form ≠ 2 ∧ ((staged 9 true).port 496).up = false) := by
  refine ⟨⟨by decide +kernel, by decide +kernel, by decide +kernel, firmware_detail_of_signature⟩,
    by decide +kernel, by decide +kernel, by decide +kernel, by decide +kernel, by decide +kernel, by decide +kernel⟩

/-- A test request: kind, tag, tiles, port, quay and stack. -/
def aTest (kind tag tiles port quay stack : Nat) : BitVec 256 :=
  BitVec.ofNat 256 (kind + tag * 2 ^ 32 + tiles * 2 ^ 64 + port * 2 ^ 128 + quay * 2 ^ 144 + stack * 2 ^ 152)

/-- A module whose tests and overlay are given. -/
def tested (run : Option TestRun) (es : List Fence) (parts : Tbl Partition) : State :=
  { served with bring := { active := false, stage := 9, tests := run.toList }, overlay := { entries := es }, parts := parts
                sivar := { config := [(okey 0x2100 3, [1])] } }

/-- An entry of an operator for a unit. -/
def anEntryOf (cls unit : Nat) : BitVec 128 := BitVec.ofNat 128 (cls + 4 * 256 + 3 * 65536 + unit * 2 ^ 32)

theorem witness_TestsAndOverlayEntries :
    (let s := tested none [] [];
      Serves s (.pcie 0) false ∧ [aTest 1 7 (2 ^ 47) 0 0 0, aTest 4 7 0 0 3 3, aTest 5 7 0 639 0 0].all (fun r =>
        testRangeOk r && decide (testRefusal s r = none)) = true ∧ tqKind (aTest 5 7 0 639 0 0) = 5)
      ∧ (let run : TestRun := { tag := 7, kind := 3, tiles := 1, port := 0, quay := 0, stack := 0, start := 0 };
        (tested (some run) [] []).bring.tests.find? (fun t => t.tag == 7) = some run ∧ run.kind ≤ 3 ∧ run.tiles.getLsbD (coreTile 0) = true
          ∧ ([] : List (Nat × Nat)).filter (fun u => testCovers run u.1 u.2) = [])
      ∧ (let s := tested none [] [];
        [(1, 27647), (3, 191), (4, 639), (5, 10232), (6, 15), (7, 1023), (8, 255)].all (fun e => let r := anEntryOf e.1 e.2;
          decide (1 ≤ oeClass r ∧ oeClass r ≤ 8 ∧ oeClass r ≠ 2 ∧ oeOrigin r = 4 ∧ oeFlags r < 4) && unitInRange s (oeClass r) (oeUnit r)
            && !heldUnit s (oeClass r) (oeUnit r)) = true ∧ s.overlay.entries.length < 1024)
      ∧ (let s := tested none [] [];
        [siteId 47 23 24, siteId 0 0 0].all (fun u => let r := anEntryOf 2 u;
          decide (oeClass r = 2 ∧ oeOrigin r = 4 ∧ oeFlags r < 4) && unitInRange s 2 (oeUnit r) && !heldUnit s 2 (oeUnit r)
            && decide (spareOf s (siteTile u) (siteCol u) = 0)) = true
          ∧ holders s 2 (siteId 47 23 24) = [] ∧ holders s 2 (siteId 0 0 0) = 0 :: []
          ∧ spareOf { s with overlay := { s.overlay with spare := [(0, 4)] } } 0 0 ≠ 0)
      ∧ (holders (tested none [] []) 1 27647 = [] ∧ holders (tested none [] []) 1 0 = 0 :: [] ∧ heldUnit (tested none [] []) 1 0 = false)
      ∧ (let f : Fence := { cls := 1, origin := 4, flags := 0, unit := 27647, utc := 0, quaySerial := 0 }; let s := tested none [f] [];
        fusedUnit s 1 27647 = false ∧ s.overlay.entries.findIdx? (fun f => f.cls == 1 && f.unit == 27647) = some 0
          ∧ (s.overlay.entries.getD 0 (fuseEntry 0 0)).origin ≠ 6 ∧ heldUnit s 1 27647 = false ∧ unitTested s 1 27647 = false)
      ∧ Serves served (.pcie 0) true := by
  unfold Serves
  dsimp only
  and_intros
  all_goals decide +kernel

/-- Port 0 in a state; it belongs to tile column 0. -/
def ported (v : Port) (parts : Tbl Partition) : State :=
  { served with ports := [(0, v)], parts := parts, sivar := { config := [(okey 0x2100 3, [1])] } }

/-- A FULL port with its ninth wavelength for calibration. -/
def fullPort : Port := { outcome := 3, lanes := 8, map := 255, calib := 8 }

theorem witness_PortsTrainAndFail :
    (let s := ported fullPort []; Serves s (.pcie 0) false ∧ fusedPort s 0 = false ∧ portBusy s 0 = false
        ∧ parkedPort s 0 = false ∧ parkedPort { s with power := { state := .deepPark } } 0 = true)
      ∧ ((ported { fullPort with trainKind := 1 } []).port 0).trainKind = 1
      ∧ (let s : State := { served with ports := [(639, { fullPort with trainKind := 1 })] }; (s.port 639).trainKind = 1 ∧ (s.port 639).up = true)
      ∧ (let s : State := { ported { trainKind := 2 } [] with overlay := { entries := [{ cls := 4, origin := 4, flags := 0, unit := 0, utc := 0, quaySerial := 0 }] } };
        (s.port 0).trainKind ≠ 0 ∧ unitFenced s 4 0 = true)
      ∧ (let s := ported { trainKind := 2 } []; 2 ≤ (s.port 0).trainKind ∧ unitFenced s 4 0 = false ∧ fusedPort s 0 = false ∧ usersWithMarks s 0 = [] ∧ portPin s 0 ≠ 1 ∧ (goodOf s 0 0x1FF).length = 9
        ∧ (goodOf s 0 7).length = 3 ∧ (goodOf s 0 0).length = 0)
      ∧ (let s0 := ported { trainKind := 2 } []; let s : State := { s0 with sivar := { config := (okey 0x7000 1, [1]) :: s0.sivar.config } };
        2 ≤ (s.port 0).trainKind ∧ usersWithMarks s 0 = [] ∧ portPin s 0 = 1 ∧ outcomeFor (goodOf s 0 7).length = 1)
      ∧ (let s := ported fullPort []; (s.port 0).up = true ∧ (s.port 0).map.testBit 7 = true ∧ portPin s 0 ≠ 1
        ∧ (s.port 0).retrainPending = false ∧ (s.port 0).calib ≠ 0xFF ∧ (s.port 0).outcome ≠ 1)
      ∧ (let s := ported { outcome := 1, lanes := 1, map := 1, calib := 2 } [];
        (s.port 0).up = true ∧ (s.port 0).map.testBit 0 = true ∧ (s.port 0).outcome = 1)
      ∧ portBusy (ported fullPort [(0, { run := .running })]) 0 = true
      ∧ (let s := ported {} []; (s.port 0).outcome = 0 ∧ fusedPort s 0 = false ∧ unitOff s 4 0 = false ∧ (s.port 0).pinnedDown = false
        ∧ parkedPort s 0 = false)
      ∧ (let s := following {} 0; (s.port 368).up = true ∧ (upstreamPorts s).head? = some 240 ∧ (s.port 240).up = true) := by
  unfold Serves
  dsimp only
  and_intros
  all_goals decide +kernel

theorem witness_ModuleResetDrainsAndRestarts :
    (Serves served (.pcie 0) false ∧ resetting served = false)
      ∧ (let s : State := { served with mc := { up := true, mresetAt := some 1500 } };
        Serves s (.pcie 0) false ∧ resetting s = true ∧ s.mc.mresetAt = some 1500
          ∧ (∀ e ∈ s.cores, e.2.arr.drains = []) ∧ s.gantries = [])
      ∧ (let s : State := { served with mc := { up := true, mresetAt := some 1500, mresetDraining := true } };
        s.mc.mresetDraining = true ∧ s.mc.mresetAt = some 1500 ∧ feeders s = []
          ∧ (∀ f ∈ s.overlay.fuses ++ s.overlay.entries ++ s.overlay.startFences, f.cls = 5 →
              ¬ (1 ≤ (s.port (f.unit / 16)).outcome ∧ (s.port (f.unit / 16)).outcome ≤ 3 ∧ f.unit % 16 ∈ (s.port (f.unit / 16)).used)))
      ∧ (let s : State := { training none { phase := 3 } {} with mc := { up := true, mresetAt := some 1500, mresetDraining := true } };
        s.mc.mresetDraining = true ∧ 0 ∈ feeders s ∧ (s.run 0).phase = 3) := by
  unfold Serves
  and_intros
  all_goals decide +kernel

/-- Partition 0 in FAULT for a cause, its image in its slot. -/
def faulted (c : PFault) (r : RecoveryRecord) (p : Partition) : State :=
  ready { p with run := .fault, image := some goodImage, launchTick := 1000, period := 1000 } { recovery := { r with state := 1, cause := some c } }

theorem witness_FaultedPartitionsRecover :
    (Serves (faulted .controllerLost {} {}) (.pcie 0) false ∧ ((faulted .controllerLost {} {}).part 0).run = .fault)
      ∧ (Serves served (.pcie 0) false ∧ (served.part 0).run ≠ .fault)
      ∧ (let s : State := { faulted .controllerLost {} { resetAt := some 1 } with
            health := [(0, { resetting := true })], cores := [(0, { bp := 1 })] };
        resetDone s 0 = false)
      ∧ (let s := faulted .controllerLost {} {};
        resetDone s 0 = true ∧ (s.ctlOf 0).recovery.stopping = false ∧ (s.ctlOf 0).recovery.cause = some .controllerLost ∧ bandLost s 0 = false
          ∧ remedyOf (s.ctlOf 0) (s.ctlOf 0).recovery.step .controllerLost = .inPlace ∧ (s.ctlOf 0).recovery.state = 1
          ∧ s.mc.restarting = false ∧ InPlaceReady s 0 (s.ctlOf 0).recovery.fault true goodImage ∧ InPlaceReady s 0 (s.ctlOf 0).recovery.fault false goodImage)
      ∧ remedyOf {} 0 (.schedule 0 .sbHazard) = .imageFault
      ∧ (let s := faulted .controllerLost { stopping := true } {}; (s.ctlOf 0).recovery.stopping = true)
      ∧ (let s : State := { faulted .controllerLost {} {} with
            ctl := [(0, { recovery := { state := 1, cause := some .controllerLost }, relaunches := [0, 0, 0] })] };
        (s.ctlOf 0).recovery.allPaths = false ∧ inPlaceLimit s 0 ≤ recentRelaunches (s.ctlOf 0) (s.ctlOf 0).recovery.step)
      ∧ (let s := faulted .tideFree {} {}; remedyOf (s.ctlOf 0) 0 .tideFree = .whenLocked ∧ s.tide.lock ≠ 2)
      ∧ (let s0 := faulted (.tileShed 0) {} {}; let s : State := { s0 with sivar := { config := s0.sivar.config ++ [(okey 0x3100 1, [2])] }, overlay := { unusable := [0] } };
        bandLost s 0 = true ∧ pathAllowed (s.cfg 0x3100 1) 3 = false ∧ (s.slotOf (s.cfg 0x2100 5)).image = some goodImage)
      ∧ (let s0 := faulted (.coreDead 0) { units := [(2 ^ 24, 0xFF)] } {};
        let s : State := { s0 with sivar := { config := s0.sivar.config ++ [(okey 0x3100 1, [2])] } };
        bandLost s 0 = false ∧ remedyOf (s.ctlOf 0) 0 (.coreDead 0) = .sites ∧ failedUnits s 0 = [2 ^ 24]
          ∧ ∃ e ∈ pathsOf s 0 goodImage (s.cfg 0x3100 1) [] (failedUnits s 0), e.2 = 3)
      ∧ (let s0 := ready { run := .fault, image := some goodImage, launchTick := 1000, period := 1000 } { recovery := { state := 2, cause := some .tideFree } };
        let s : State := { s0 with tide := { run := .running, lock := 2 } };
        (s.ctlOf 0).recovery.state = 2 ∧ recoveryReady s 0 = true ∧ resetDone s 0 = true
          ∧ InPlaceReady s 0 s.now (s.ctlOf 0).recovery.allPaths goodImage) := by
  unfold Serves InPlaceReady
  dsimp only
  and_intros
  all_goals decide +kernel

/-- Tile 47 in a state; partition 0 has tile column 7 and a run state. -/
def heated (x : Tile) (run : RunState) (pin : Nat) : State :=
  { served with
    tiles := [(47, x)], power := { state := .parked, pumpOk := true }
    sivar := { config := [(okey 0x2100 2, [7]), (okey 0x2100 3, [1]), (okey 0x9000 2, [BitVec.ofNat 8 pin])] }, parts := [(0, { run := run })]
    cores := [(27647, { arr := { cur := some aInstr, pass := 1 } })] }

theorem witness_HeatStretchesAndSheds :
    (let temps : List Int := List.replicate 48 1600;
      temps.length = 48 ∧ (∀ k, k < 48 → (served.tile k).shed = false ∧ (served.tile k).atLimit < 7) ∧ (1600 : Int) ∈ temps ∧ (∀ x ∈ temps, x ≤ 1600))
      ∧ ((heated {} .stopped 0).tile 47).state = .normal
      ∧ (let s := heated { state := .emergency } .stopped 0;
        (s.tile 47).state = .emergency ∧ rising s.cores = true ∧ coreTile 27647 = 47 ∧ (s.core 27647).arr.cur ≠ none
          ∧ arrWaiting (s.core 27647) = false ∧ shedReason s 47 = 0)
      ∧ (let s : State := { heated { state := .emergency } .stopped 0 with gantries := [(191, { north := { returning := [(27647, 5)] } })] };
        coreX 27647 = 191 ∧ (27647, 5) ∈ (s.gantry (coreX 27647)).north.returning ∧ s.now - (s.now - (s.tile 47).emergencySince) < 5)
      ∧ (let s := heated { state := .emergency } .stopped 1; shedReason s 47 ≠ 0 ∧ tileHolder s 47 = none)
      ∧ (let s := heated { state := .emergency } .running 0; tileHolder s 47 = some 0 ∧ shedReason s 47 ≠ 0 ∧ (s.part 0).run = .running
        ∧ PFault.tileShed 47 ∉ (s.ctlOf 0).faults)
      ∧ (let s := heated {} .stopped 0; (s.tile 47).state ≠ .tripped ∧ (∀ p, p < 8 → crossesTile s p 47 = true → (s.part p).live = false))
      ∧ (let s := heated { state := .darkShed, atLimit := 7, temp16 := 1647 } .stopped 0;
        Serves s (.pcie 0) false ∧ tileHolder s 47 = none ∧ (s.tile 47).shed = true ∧ (s.tile 47).state ≠ .tripped ∧ (s.tile 47).atLimit < 8
          ∧ (s.tile 47).temp16 < 1648)
      ∧ (let s := heated { state := .computeShed } .stopped 0; tileHolder s 47 = none ∧ (s.tile 47).shed = true ∧ (s.tile 47).state ≠ .darkShed)
      ∧ (let s := heated {} .stopped 0; tileHolder s 47 = none ∧ (s.tile 47).shed = false ∧ darkRefusal s 47 = 0 ∧ (s.tile 47).state ≠ .darkShed)
      ∧ (let s := heated {} .fault 0; Serves s (.pcie 0) false ∧ tileHolder s 47 ≠ none) := by
  unfold Serves
  dsimp only
  and_intros
  all_goals decide +kernel

theorem witness_ControllerRestartsAndReplays :
    (served.mc.up = true ∧ served.mc.restarting = false)
      ∧ (let s : State := { served with fw := { stagingState := 2, staging := some (aFirmware 0) } }; s.fw.stagingState = 2 ∧ s.mc.restarting = false)
      ∧ (let s : State := { storedAt 64 with mc := { up := true, restarting := true, expired := true, applying := true } };
        s.mc.restarting = true ∧ (Config.mldsaVerify [] 0 [] = true → romDetail s = 0) ∧ s.bring.loader = false ∧ s.log.buffered = [])
      ∧ (let s : State := { served with mc := { up := true, restarting := true } }; s.mc.restarting = true ∧ romDetail s ≠ 0) := by
  refine ⟨by decide +kernel, by decide +kernel, ⟨by decide +kernel, fun h => ?_, by decide +kernel, by decide +kernel⟩, by decide +kernel⟩
  exact firmware_detail_of_signature h

/-- A session of key slot 15, in a phase. -/
def aSession (phase : Nat) : Session :=
  { id := 9, slot := 15, role := 3, phase := phase, maxDatagram := 1280, notify := false, transcript := 0, challengedAt := 0, acceptedAt := 0
    lastValid := 0, highest := 0, accepted := [], kept := [], staging := [], notifySeq := 0, notified := [] }

/-- A served module with a session in slot 7 and the key of key slot 15. -/
def sessioned (phase : Nat) : State :=
  { served with sivar := { sessions := [(7, some (aSession phase))], config := [(okey 0xA000 0x2F, [3])] } }

theorem witness_SessionsOpenAndClose :
    (let s := sessioned 1;
      s.serving = true ∧ s.cfgBytes 0xA000 (0x20 + 15) ≠ [] ∧ 1280 ≤ 9000
        ∧ (List.range 8).find? (fun j => (tget none s.sivar.sessions j).isNone) = some 0)
      ∧ (let s : State := { served with sivar := { sessions := (List.range 8).map (fun j => (j, some (aSession 2))), config := [(okey 0xA000 0x2F, [3])] } };
        s.cfgBytes 0xA000 (0x20 + 15) ≠ [] ∧ ∀ i, i < 8 → tget none s.sivar.sessions i ≠ none)
      ∧ (served.cfgBytes 0xA000 (0x20 + 15) = [] ∧ 15 < 16 ∧ 1279 < 1280 ∧ 9000 < 9001)
      ∧ (let s := sessioned 1;
        slotOfId s 9 = some (7, aSession 1) ∧ (aSession 1).phase = 1 ∧ s.now ≤ 0 + 15000000000 ∧ slotOfId s 8 = none ∧ openOf s 9 = none
          ∧ s.cfgBytes 0xA000 (0x20 + 15) ≠ [])
      ∧ (slotOfId { sessioned 1 with sivar := { (sessioned 1).sivar with config := [] } } 9 = some (7, aSession 1)
        ∧ ({ sessioned 1 with sivar := { (sessioned 1).sivar with config := [] } } : State).cfgBytes 0xA000 (0x20 + 15) = [])
      ∧ openOf (sessioned 2) 9 = some (7, aSession 2) ∧ Serves (sessioned 2) (.session 7) true := by
  unfold Serves
  dsimp only
  and_intros
  all_goals decide +kernel

theorem witness_RequestsSlotsAndMailboxes :
    (let s := sessioned 2; s.serving = true ∧ openOf s 9 = some (7, aSession 2) ∧ newNumber (aSession 2) 1 = true ∧ newNumber (aSession 2) 0 = false)
      ∧ (let x : Session := { aSession 2 with highest := 64, accepted := [64], kept := [(64, {})] };
        newNumber x 64 = false ∧ newNumber x 63 = true ∧ newNumber x 1 = true ∧ newNumber x 0 = false
          ∧ x.kept.find? (fun e => e.1 == 64) = some (64, {}))
      ∧ (served.serving = true ∧ (served.host 0).up = true ∧ served.cfg 0x2000 0x24 ≠ 1 ∧ (127 : Nat) ≤ 127 ∧ (32704 : Nat) ≤ 32704)
      ∧ (let s : State := { served with sivar := { config := [(okey 0x2000 0x24, [1])] } };
        s.serving = true ∧ s.cfg 0x2000 0x24 = 1 ∧ (s.host 0).ide = false ∧ (s.host 0).up = true)
      ∧ (let s : State := { served with sivar := { config := [(okey 0x2107 3, [8])] } };
        s.serving = true ∧ coreExists s 27647 = true ∧ s.partOfCore 27647 = some 7 ∧ (List.replicate 512 (0 : Byte)).length = 512) := by
  dsimp only
  and_intros
  all_goals decide +kernel

theorem witness_ObjectsAreReadAndWritten :
    (served.serving = true ∧ served.roleOf (.pcie 0) = some 3 ∧ served.bring.loader = false)
      ∧ (nameStatus 0x9000 5 = none ∧ objInfo 0x9000 5 = some { type := .u8, access := .rw, saved := true }
        ∧ roleAllows 3 2 0x9000 5 = true ∧ accessAllows served (.pcie 0) 2 0x9000 5 false { type := .u8, access := .rw, saved := true } = true
        ∧ typeStatus { type := .u8, access := .rw, saved := true } [90] = none ∧ within 0x9000 0x4110 8 = false ∧ isPin (okey 0x9000 5) = false
        ∧ Writable served (okey 0x9000 5) [90])
      ∧ (let s := ready { run := .running } {};
        nameStatus 0x9000 2 = none ∧ objInfo 0x9000 2 = some { type := .u8, access := .rw, saved := true } ∧ isPin (okey 0x9000 2) = true
          ∧ accessAllows s (.pcie 0) 2 0x9000 2 false { type := .u8, access := .rw, saved := true } = true ∧ (s.part 0).marks = true
          ∧ (∀ e ∈ (s.ctlOf 0).pins, e.1 ≠ okey 0x9000 2) ∧ Writable s (okey 0x9000 2) [1])
      ∧ (let s : State := { served with sivar := { draft := some { owner := .pcie 0, values := [] } } };
        accessAllows s (.pcie 0) 2 0x9000 5 true { type := .u8, access := .rw, saved := true } = true
          ∧ valueStatus s.asked (okey 0x9000 5) [90] = none ∧ s.sivar.draft = some { owner := .pcie 0, values := [] }
          ∧ ([(okey 0x9000 5, [90])] : List (Nat × List Byte)).foldl (fun n e => n + e.2.length) 0 ≤ 4194304)
      ∧ (roleAllows 3 6 0x9000 5 = true ∧ accessAllows served (.pcie 0) 6 0x9000 5 false { type := .u8, access := .rw, saved := true } = true
        ∧ 0 + ([90] : List Byte).length ≤ 67108864)
      ∧ (nameStatus 0x9000 0x80 = some stSubindex ∧ nameStatus 1 1 = some stIndex)
      ∧ (let k : Ticket := { number := 7, index := 0xA000, sub := 3, done := false, status := 0, taken := 0, finish := 0, journalled := false };
        let s : State := { served with sivar := { tickets := [k] } };
        s.serving = true ∧ s.roleOf (.pcie 0) = some 3 ∧ s.sivar.tickets.find? (fun k => k.number == 7) = some k
          ∧ s.sivar.tickets.find? (fun k => k.number == 8) = none ∧ s.sivar.tickets[0]? = some k) := by
  unfold Writable
  dsimp only
  and_intros
  all_goals decide +kernel

/-- Two hosts, of which the first is primary. -/
def hosted (first second : HostPort) (sv : Sivar) : State := { served with hosts := [(0, first), (1, second)], sivar := sv }

/-- A draft of host 0. -/
def drafted (values : List (Nat × List Byte)) : State := { served with sivar := { draft := some { owner := .pcie 0, values := values } } }

theorem witness_HostsAndDraftsChangeHands :
    (let s := hosted { up := true } { up := true } {}; s.serving = true ∧ s.sivar.primary < 2 ∧ (s.host 0).up = true ∧ (s.host (1 - 0)).up = true)
      ∧ (let s := hosted { up := true } { up := true } { offerUntil := some 1 }; s.sivar.offerUntil = some 1 ∧ s.now < 1)
      ∧ (let s := hosted { up := true } { up := true } { offerUntil := some 0 }; ∀ u, s.sivar.offerUntil = some u → u ≤ s.now)
      ∧ (let s : State := { hosted { downSince := 1 } { up := true } {} with now := 7500000001 };
        (s.host 0).up = false ∧ (s.host 0).downSince + 7500000000 ≤ s.now)
      ∧ (let s : State := { hosted { downSince := 1 } { up := true } {} with now := 7500000000 }; s.now < (s.host 0).downSince + 7500000000)
      ∧ (Serves served (.pcie 0) false ∧ served.sivar.draft = none ∧ allStopped served = true
        ∧ (prepareAll [] (configChanges served.sivar.config []) served.asked).2.1 = stOk)
      ∧ (Serves (drafted []) (.pcie 0) false ∧ (drafted []).sivar.draft = some { owner := .pcie 0, values := [] })
      ∧ (let s := hosted { up := true } { up := true } { draft := some { owner := .session 0, values := [] } };
        Serves s (.pcie 0) false ∧ ∀ d, s.sivar.draft = some d → d.owner ≠ .pcie 0)
      ∧ (let s := drafted [(okey 0x9000 5, [90])];
        let cfg := [(okey 0x9000 5, ([90] : List Byte))].foldl (fun m e => tset m e.1 e.2) s.sivar.config;
        Serves s (.pcie 0) false ∧ firstKey (fun k => ownerStatus s.asked k (savedBytes cfg k)) [okey 0x9000 5] = none
          ∧ firstKey (crossStatus s.asked cfg) [okey 0x9000 5] = none ∧ (prepareAll cfg [okey 0x9000 5] s.asked).2.1 = stOk)
      ∧ (let s : State := { drafted [(okey 0x2100 2, [7])] with parts := [(0, { run := .running })] };
        let cfg := [(okey 0x2100 2, ([7] : List Byte))].foldl (fun m e => tset m e.1 e.2) s.sivar.config;
        firstKey (fun k => ownerStatus s.asked k (savedBytes cfg k)) [okey 0x2100 2] = some (stState, okey 0x2100 2) ∧ stState ≠ stOk)
      ∧ (let s : State := { served with parts := [(7, { run := .running })] }; Serves s (.pcie 0) false ∧ allStopped s = false)
      ∧ (Serves served (.pcie 0) true ∧ (List.replicate 8 (3 : Byte)).length ≤ 2600
        ∧ Writable served (okey 0xA000 (0x20 + 15)) []) := by
  unfold Serves Writable
  dsimp only
  and_intros
  all_goals decide +kernel

theorem witness_RevertMakesThePreviousCurrent :
    (let s : State := { served with sivar := { previous := [(okey 0x9000 5, [90])], prevVersion := 1, version := 2 } };
      let keys := configChanges s.sivar.config s.sivar.previous;
      Serves s (.pcie 0) false ∧ s.sivar.prevVersion ≠ 0 ∧ s.sivar.draft = none ∧ keys = [okey 0x9000 5]
        ∧ firstKey (fun k => ownerStatus s.asked k (savedBytes s.sivar.previous k)) [okey 0x9000 5] = none
        ∧ firstKey (crossStatus s.asked s.sivar.previous) [okey 0x9000 5] = none
        ∧ (prepareAll s.sivar.previous [okey 0x9000 5] s.asked).2.1 = stOk)
      ∧ (let s : State := { served with sivar := { previous := [(okey 0x2100 2, [7])], prevVersion := 1, version := 2 }, parts := [(0, { run := .running })] };
        configChanges s.sivar.config s.sivar.previous = [okey 0x2100 2]
          ∧ firstKey (fun k => ownerStatus s.asked k (savedBytes s.sivar.previous k)) [okey 0x2100 2] = some (stState, okey 0x2100 2) ∧ stState ≠ stOk)
      ∧ (let s : State := { served with sivar := { prevVersion := 1, version := 2, draft := some { owner := .pcie 1, values := [] } } };
        Serves s (.pcie 0) false ∧ s.sivar.prevVersion ≠ 0 ∧ s.sivar.draft ≠ none) := by
  unfold Serves
  dsimp only
  and_intros
  all_goals decide +kernel

/-- A served module in a power state. -/
def powered (p : Power) (bring : Bool) : State := { served with power := p, bring := { active := bring } }

theorem witness_PowerStatesChange :
    (let s := powered { state := .standby, pwrEn := false } false; s.power.pwrEn = false ∧ s.power.state = .standby ∧ s.power.modResetN = true)
      ∧ (let s := powered { state := .off, pwrEn := false } false; s.power.pwrEn = false ∧ s.power.state ≠ .standby)
      ∧ (let s := powered { state := .standby, modResetN := false } false;
        s.power.modResetN = false ∧ s.power.state = .standby ∧ s.power.pwrEn = true)
      ∧ (let s := powered { state := .standby, modResetN := false, pwrEn := false } false; s.power.modResetN = false ∧ s.power.pwrEn = false)
      ∧ (let s := powered { state := .off } false; s.power.pwrEn = true ∧ s.power.state = .off)
      ∧ (let s := powered { state := .bringingUp } true;
        s.power.pwrEn = true ∧ s.power.state ≠ .off ∧ s.power.state ≠ .standby ∧ s.power.draining = false ∧ s.bring.active = true)
      ∧ (let s := powered { state := .parked } false;
        s.power.pwrEn = true ∧ s.power.draining = false ∧ s.bring.active = false ∧ s.mc.mresetDraining = false ∧ Serves s (.pcie 0) false
          ∧ s.power.modResetN = true ∧ (∀ p, p < 8 → (s.part p).run = .stopped) ∧ s.tide.run = .stopped ∧ ledgerAlone s = true
          ∧ s.bring.tests = [] ∧ resetting s = false ∧ s.power.state = .parked)
      ∧ ((powered { state := .parked, draining := true } false).power.draining = true ∧ (699999 : Nat) < 700000)
      ∧ (Serves { served with parts := [(7, { run := .running })] } (.pcie 0) false
        ∧ ∃ p, p < 8 ∧ (({ served with parts := [(7, { run := .running })] } : State).part p).run ≠ .stopped)
      ∧ (Serves (powered { state := .deepPark } false) (.pcie 0) false ∧ (powered { state := .deepPark } false).power.state = .deepPark)
      ∧ (powered { state := .transition } false).power.state = .transition := by
  unfold Serves
  dsimp only
  and_intros
  all_goals decide +kernel

/-- Tile 47 with its fast clock running and no coolant flow confirmed. -/
def dry (x : Tile) (parts : Tbl Partition) (cores : Tbl Core) : State :=
  { served with tiles := [(47, x)], power := { state := .parked, pumpOk := false }, parts := parts, cores := cores
                sivar := { config := [(okey 0x2100 2, [7]), (okey 0x2100 3, [1])] } }

theorem witness_PumpAlertAndHostLinks :
    (let s : State := { served with power := { pumpOk := true }, tiles := [(47, { fastClock := true })] }; s.power.pumpOk = true ∧ anyFast s = true)
      ∧ (let s : State := { served with power := { thermAlert := true } };
        s.power.pumpOk = false ∧ s.power.thermAlert = true ∧ alertCause s = false ∧ s.mc.up = true ∧ s.power.draining = false
          ∧ s.mc.mresetDraining = false)
      ∧ (let s := dry { fastClock := true } [] [(27647, {})];
        flowLost s = true ∧ (s.tile 47).shed = false ∧ (∀ p, p < 8 → (s.part p).live = true → s.bandHas p (47 % 8) = false)
          ∧ 27647 ∈ s.cores.map (·.1) ∧ coreTile 27647 = 47)
      ∧ (let s := dry { fastClock := true, state := .darkShed } [] []; flowLost s = true ∧ (s.tile 47).shed = true)
      ∧ (let s := dry { fastClock := true } [(0, { run := .running })] [];
        flowLost s = true ∧ (s.tile 47).shed = false ∧ (s.part 0).live = true ∧ s.bandHas 0 (47 % 8) = true)
      ∧ (served.host 0).up = true
      ∧ ((served.host 1).up = false ∧ (16 : Nat) ∈ [1, 2, 4, 8, 16] ∧ (64 : Nat) ∈ [2, 5, 8, 16, 32, 64]) := by
  dsimp only
  and_intros
  all_goals decide +kernel

theorem witness_FirmwareAndFuses :
    (clientStatus served (.pcie 0) true = none ∧ served.serving = true ∧ served.fw.stagingState ≠ 2)
      ∧ (let s : State := { served with fw := { stagingState := 2 } }; s.fw.stagingState = 2 ∧ clientStatus s (.pcie 0) true = none)
      ∧ (let s : State := { served with fw := { stagingState := 1 } };
        s.fw.stagingState = 1 ∧ allStopped s = true ∧ clientStatus s (.pcie 0) true = none)
      ∧ (let s : State := { served with fw := { counter := 1, running := some (aFirmware 2) } };
        Serves s (.pcie 0) true ∧ s.fw.stagingState ≠ 2 ∧ s.fw.counter < runningSecurity s ∧ s.fw.ownerFused = false
          ∧ s.fw.running = some (aFirmware 2) ∧ ownerSigned (aFirmware 2) 0 = false)
      ∧ (let i : FirmwareImage := { aFirmware 2 with flags := 1 };
        Config.mldsaVerify [] 0 [] = true → ownerSigned i (Config.sha3 []) = true)
      ∧ (let s : State := { served with fw := { counter := 2, running := some (aFirmware 2), ownerFused := true } };
        runningSecurity s ≤ s.fw.counter ∧ s.fw.ownerFused = true)
      ∧ ((List.replicate 32 (0 : Byte)).length = 32 ∧ (served.host 0).up = true) := by
  unfold Serves
  refine ⟨by decide +kernel, by decide +kernel, by decide +kernel, by decide +kernel, fun h => ?_, by decide +kernel, by decide +kernel⟩
  unfold ownerSigned
  simpa [aFirmware] using h

theorem witness_StepsKeepMemoriesCanonical :
    State.reset.canonical = true
      ∧ ∃ t, step { served with pending := [.ppsEdge] } = .next t ∧ ({ served with pending := [.ppsEdge] } : State).canonical = true := by
  exact ⟨by decide +kernel, _, rfl, by decide +kernel⟩

theorem witness_OnlyMissingUnitsStopARow :
    coreExists State.reset 27648 = false ∧ columnExists State.reset 768 = false ∧ exec (.next 27648) State.reset = .fault .noSuchUnit := by
  refine ⟨by decide +kernel, by decide +kernel, rfl⟩

theorem witness_OnlyOperatorsChangeAnything :
    (clientOf (.openDraft (.pcie 0)) = some (.pcie 0) ∧ State.reset.serving = false ∧ ∃ t, exec (.openDraft (.pcie 0)) State.reset = .next t)
      ∧ (let s : State := { served with sivar := { sessions := [(7, some { aSession 2 with role := 1 })] } };
        s.roleOf (.session 7) = some 1 ∧ ∃ t, exec (.openDraft (.session 7)) s = .next t)
      ∧ (served.roleOf (.session 0) = none ∧ ∃ t, exec (.openDraft (.session 0)) served = .next t) := by
  exact ⟨⟨rfl, by decide +kernel, _, rfl⟩, ⟨by decide +kernel, _, rfl⟩, by decide +kernel, _, rfl⟩

theorem witness_CompleteRowWritesReplaceTheRow :
    (aRow.bytes.length = 512 ∧ aRow.poison = [])
      ∧ (let s := withCore (windowed 1 0 1);
        coreExists s 0 = true ∧ answers s 0 = true ∧ takingWindow (s.core 0) 1 (0, 0, 0, 0) 0 = some 15 ∧ remoteWaits s 0 1 = false) := by
  dsimp only
  and_intros
  all_goals decide +kernel

theorem witness_ArrayInstructionsRunFromTheirCopy :
    CoreReady (withCore running) 0
      ∧ ArrIssues (withCore running) 0 .wsg 0 0 0 false ∧ ArrIssues (withCore running) 0 .wss 0 0 3 true
      ∧ ArrIssues (withCore running) 0 .wtg 0 0 3 true ∧ ArrIssues (withCore running) 0 .wts 0 0 0 false
      ∧ ArrIssues (withCore running) 0 .osp 0 0 3 true
      ∧ (let k : Core := { iss := { arrQ := [aInstr] } }; k.snap = none ∧ k.arr.cur = none ∧ k.iss.arrQ = aInstr :: []) := by
  unfold ArrIssues CoreReady RangesClear
  try dsimp only
  and_intros
  all_goals decide +kernel

/-! ### Ill-formed commands: each check refuses a term -/

/-- A row one byte short, a row whose poisoned word lies outside the row. -/
def shortRow : Row := { bytes := List.replicate 511 0, poison := [] }
def strayRow : Row := { bytes := List.replicate 512 0, poison := [64] }

/-- An empty segment, and a READ of the module's tick. -/
def aSegment : Segment := { variant := 0, entry := 0, bundles := [], ranges := [], descs := [], branch := [], participates := [], zero := 0 }
def anOp : SivarOp :=
  { op := 1, draft := false, final := false, hostbuf := false, reserved := 0, index := 0x4000, sub := 1, length := 0, ticket := 0, offset := 0, data := [] }

/-- No term of the list is well-formed. -/
def allIll (l : List Instr) : Bool := l.all (fun i => !i.wf)

/-- A marker and a membership table, each with a field too wide. -/
def wideMarker : Marker := { aMarker 0 none with tick := 2 ^ 53 }
def wideTable : Membership := { aTable [] with witnesses := 256 }

theorem smoke_sequencer_slots :
    allIll [.next 27648, .loop 0 4 1, .loop 0 0 0, .loop 0 0 65536, .endl 0 4, .setix 0 0 0, .setix 0 8 0, .setix 0 1 4096, .addix 0 0 0, .addix 0 1 4096
      , .waitmark 0 65536, .barrier 0 8, .waitdma 0 8, .halt 27648, .jump 0 4096, .armwin 0 16 0, .armwin 0 0 4096] = true
      ∧ (Instr.loop 27647 3 65535).wf = true := by decide +kernel

theorem smoke_engine_slots :
    allIll [.aset 0 16 0, .wsg 0 8 0 0 false false false, .wss 0 0 256 0 false false false, .wtg 0 0 0 256 false false false, .osp 0 8 0 0 false
      , .sset 0 16 0, .svld 0 8 0, .smv 0 0 256, .sfin 0 0 256 false, .vset 0 16 0, .vlds 0 0 256, .vldt 0 0 0 3 false, .vstt 0 0 0 3, .vclr 0 0, .vclr 0 8
      , .vbin 0 0 0 0 5 false false, .vun 0 0 0 0 11 false false, .vtok 0 0 0 0 4 false false, .vred 0 0 0 0 5 false, .vnrm 0 0 0 0 2 false
      , .vlse 0 0 0 2, .vkld 0 0 0 0 3 false false, .vtopk 0 0 0 0 2, .vdrop 0 0 0 0 2 false, .dmaStart 0 1 0 0 0, .dmaStart 0 0 8 0 0
      , .dmaStart 0 0 0 256 0, .dmaStart 0 0 0 0 4] = true
      ∧ (Instr.vun 27647 7 255 255 10 true true).wf = true := by decide +kernel

theorem smoke_core_events :
    allIll [.scoreboardRelease 0 32, .scrubWriteBack 0 4096, .windowSet (.session 8) 0 0 0 0, .windowSet (.pcie 2) 0 0 0 0, .windowSet (.pcie 0) 8 0 0 0
      , .windowSet (.pcie 0) 0 0 16 0, .remoteRowArrival 0 16384 0 ⟨0, 0⟩ 0 aRow, .remoteRowArrival 0 0 0 ⟨0, 4096⟩ 0 aRow, .remoteRowArrival 0 0 0 ⟨8, 0⟩ 0 aRow, .remoteRowArrival 0 0 0 ⟨0, 0⟩ 0 shortRow
      , .remoteRowArrival 0 0 0 ⟨0, 0⟩ 0 strayRow, .remoteReadRequest 0 0 27648 ⟨0, 0, 0⟩ 0, .remoteReadRequest 0 0 0 ⟨4, 0, 0⟩ 0, .descriptorBegin 0 8
      , .transitSlotEntry 0 ⟨144, 0⟩ 0 true, .transitSlotEntry 0 ⟨0, 192⟩ 0 true, .rejectArrival 0 ⟨0, 0⟩ 4096, .rejectArrival 0 ⟨0, 4096⟩ 0
      , .dmaDisable (.pcie 0) 0 0 256, .gantryCommit 192 true, .storeLoad ⟨0, [144]⟩ aSegment, .storeLoad ⟨0, [0]⟩ { aSegment with entry := 65536 }, .barrierComplete 0 8
      , .routerError 28800, .fastClockStart 48, .boundaryPhaseCheck 0 48 0] = true
      ∧ (Instr.remoteRowArrival 27647 16383 27647 ⟨7, 4095⟩ 4095 aRow).wf = true := by decide +kernel

theorem smoke_partitions_and_tide :
    allIll [.markInstanceFires 0 [(65536, 0, 0)], .markInstanceFires 0 [(0, 4096, 0)], .preempt (.pcie 0) 8, .launchMark 8, .imageUpload (.pcie 0) 8 goodImage
      , .imageUpload (.pcie 0) 0 { goodImage with header := { goodImage.header with width := 256 } }, .tideMarkerReceive 640 (aMarker 0 none)
      , .tideMarkerReceive 0 wideMarker, .domainJoin (2 ^ 32) 0 0 0, .domainJoin 0 0 256 0, .ptpSync (2 ^ 64)
      , .timedRowRelease 0 0 (2 ^ 53 * 1500) 0 0 0 ⟨0, 0⟩ 0 true aRow] = true
      ∧ (Instr.imageUpload (.pcie 1) 7 goodImage).wf = true := by decide +kernel

theorem smoke_quays :
    allIll [.tensorDelete (.pcie 0) (2 ^ 32), .pinEdit (.pcie 0) 0 65536 0, .contentWrite (.pcie 0) 0 (2 ^ 64) 0 false [], .checkpointComplete (2 ^ 24) true
      , .quayRowWrite 4 0 0 0 false aRow, .quayRowWrite 0 0 0 (2 ^ 45) false aRow, .fetchIssue 0 65536 0 0 0 0 0, .fetchIssue 0 0 256 0 0 0 0
      , .fetchDataReady 4 0, .tilePacketSend 0 0 192 0, .tilePacketSend 0 0 0 65536, .residencyCopyDone 0 (2 ^ 24), .flashScanPage 0 0 (2 ^ 40) 0, .intakeRow (2 ^ 64) 0 0 aRow
      , .intakeRow 0 0 27648 aRow, .intakeRow 0 16384 0 aRow, .frameConvert 0 2, .frameAccumulate 0 0 (List.replicate 4097 0), .statisticsReport 0 0 4096, .layerPin (.pcie 0) 0 0 256
      , .stashDecision 0 0 4096 0, .unitWriteback 0 256, .rootComputation 0 65536 0 0, .assignment (.pcie 0) 0 16, .stateWrite (.pcie 0) 0 4 0 []
      , .groupRecordWrite (.pcie 0) 16 0] = true
      ∧ (Instr.intakeRow anIntake 16383 27647 aRow).wf = true := by decide +kernel

theorem smoke_fabric_and_bring_up :
    allIll [.handoffResultReceive 0 0 9, .packetForward 4 0 [], .contribReceive 0 0 (List.replicate 4097 0), .mirrorAck 0 65536
      , .shardDoneReceive 0 0 4 (aDone true 0), .shardDoneReceive 0 0 0 { aDone true 0 with status := 256 }, .witnessAck 9 0, .commitReceive 0 (2 ^ 64) 0
      , .electionTimeout 9, .voteRequest 0 0 9 0 0, .voteGrant 0 0 9, .hmHeartbeat 16384 0 0, .rejoin 0 (2 ^ 64), .membershipWrite (.pcie 0) (some wideTable)
      , .witnessRecordReceive 0 { aRec 1 0 0 with kind := 256 }, .stageEnd 4 0 0 0 [] [], .stageEnd 0 0 0 0 [(10, 0)] [], .stageEnd 0 0 0 0 [] [(0, 2 ^ 32)]
      , .testCancel (.pcie 0) (2 ^ 32), .overlayRemove (.pcie 0) 0 0, .overlayRemove (.pcie 0) 9 0, .portRetrainFull (.pcie 0) 640
      , .trainingComplete 0 512 0 true, .wavelengthFailure 0 9, .calibrationMeasure 0 [(9, 0)] 0 false] = true
      ∧ (Instr.membershipWrite (.pcie 0) none).wf = true := by decide +kernel

theorem smoke_recovery_and_clients :
    allIll [.coreReset (.pcie 0) 8 0, .drainAbandon 0 8, .recoveryDecision 8, .thermalEvaluation (List.replicate 47 0) 0
      , .thermalEvaluation (List.replicate 48 32768) 0, .thermalEvaluation (List.replicate 48 0) 32768, .thermalTrip 48, .manualShedDark (.pcie 0) 48
      , .hello 256 0 false (List.replicate 32 0) (List.replicate 1568 0), .hello 0 0 false [] (List.replicate 1568 0), .hello 0 0 false (List.replicate 32 0) []
      , .prove 0 [], .request 0 0 true [{ anOp with op := 256 }], .read (.pcie 0) 65536 0 false, .write (.pcie 0) 0 256 false []
      , .writeSeg (.pcie 0) 0 0 false false (2 ^ 64) [], .ticketDone 0 65536, .slotTaken 2 0 false 0 0 0 [], .slotTaken 0 128 false 0 0 0 []
      , .keySlotWrite (.pcie 0) 16 [], .mailboxRowWrite 0 0 4096 aRow, .inputLoss (2 ^ 32), .pcieLinkUp 0 256 0 false
      , .firmwareUpload (.pcie 0) (aFirmware 0), .spdmGetMeasurements 2] = true
      ∧ (Instr.thermalEvaluation (List.replicate 48 (-32768)) 32767).wf = true := by decide +kernel

/-! ### Single steps with the values of the spec's worked examples -/

/-- The command answers a next state of which something holds. -/
def holdsAfter (i : Instr) (s : State) (f : State → Bool) : Bool := match exec i s with | .next t => f t | _ => false

/-- 1,000,000:750 encodes as 0x0000_0000_7A12_02EE (after R11). -/
theorem test_time_encodes_ticks_and_offset : timeWord (1000000 * 1500 + 750) = 0x7A1202EE#64 ∧ timeOfWord 0x7A1202EE#64 = 1000000 * 1500 + 750 := by
  decide +kernel

/-- Module 5, core x = 37, y = 100, row 2,000 (the example of R12). -/
theorem test_address_names_module_core_and_row :
    let a := 0x00144B25000FA000; addrModule State.reset 0 a = 5 ∧ addrClass a = 0 ∧ addrCore a = 100 * 192 + 37 ∧ addrRow a = 2000 ∧ addrAligned a = true := by
  decide +kernel

/-- The range entries of the S11 projection name rows 0-1,025 and 3,000-3,085 (03's example). -/
theorem test_range_entries_name_rows :
    let k : Core := { ranges := [0x00401000, 0x00055BB8] }
    k.rangeOf 0 0 = { first := 0, rows := 1026 } ∧ k.rangeOf 0 1 = { first := 3000, rows := 86 } := by decide +kernel

/-- Chain 0 of that projection: 6 slices of 114 tokens in BF16 fill 85.5 rows; a pass takes 114 cycles. -/
theorem test_projection_rows_and_pass : rowsFor 0 (6 * 114 * codeBytes 5) = 86 ∧ arrTokenTime [(0, 113)] = 114 := by decide +kernel

/-- ADDIX ix1, 86 from 172 gives 258, and wraps at 12 bits (02's example, R30). -/
theorem test_addix_adds_and_wraps :
    holdsAfter (.addix 0 1 86) (withCore { running with ix := [(1, 172)] }) (fun t => decide (tget 0 (t.core 0).ix 1 = 258)) = true
      ∧ holdsAfter (.addix 0 1 86) (withCore { running with ix := [(1, 4095)] }) (fun t => decide (tget 0 (t.core 0).ix 1 = 85)) = true := by
  decide +kernel

/-- START of descriptor 0x35 with offset target 10 and ix1 = 172 moves the destination to rows 1,198-1,283, not the source (02's example). -/
theorem test_start_offsets_the_destination :
    let d : BitVec 512 := BitVec.ofNat 512 (1 * 2 ^ 508 + 2 * 2 ^ 506 + 2 * 2 ^ 504 + 3000 * 512 * 2 ^ 384 + 1026 * 512 * 2 ^ 320 + 85 * 2 ^ 308 + 85 * 2 ^ 296)
    holdsAfter (.dmaStart 0 1 2 0x35 2) (withCore { running with ix := [(1, 172)], descs := List.replicate 53 0 ++ [d] }) (fun t =>
      match tget none (t.core 0).iss.pend 2 with
      | some p => decide (srcSpan p.desc = { first := 3000, rows := 86 } ∧ dstSpan p.desc = { first := 1198, rows := 86 })
      | none => false) = true := by decide +kernel

/-- The spill descriptor: kind, localities, VC, check, result, tag, rows, quay 1 at offset 0x4000_0000 (06's example). -/
theorem test_descriptor_fields :
    let d : BitVec 512 := BitVec.ofNat 512 (0x19D4100000000000 * 2 ^ 448 + 0x177000 * 2 ^ 384 + 0x0000A00040000000 * 2 ^ 320 + 0x0550550000000000 * 2 ^ 256)
    descKind d = 1 ∧ descSrcLoc d = 2 ∧ descDstLoc d = 1 ∧ descVc d = 3 ∧ descCheck d = 1 ∧ descResult d = true ∧ descTag d = 0x40
      ∧ srcSpan d = { first := 3000, rows := 86 } ∧ descN d = 86 ∧ addrClass (descDst d) = 1 ∧ addrQuay (descDst d) = 1
      ∧ addrOffset (descDst d) = 0x40000000 ∧ dstRowOf d 85 * 512 + 512 = 0xA00040000000 + 86 * 512 := by decide +kernel

/-- CRC-32C of "123456789" (R143). -/
theorem test_crc32c_reference : crc32c [0x31, 0x32, 0x33, 0x34, 0x35, 0x36, 0x37, 0x38, 0x39] = 0xE3069283 := by decide +kernel

/-- 0.3 to E4M3: nearest-even gives 0x2A; a draw of 26,215 gives 0x2A and one of 26,214 gives 0x29 (after R87). -/
theorem test_rounding_of_three_tenths :
    let v := ofF32 0x3E99999A#32
    roundFp fmtE4M3 none v = 0x2A ∧ roundFp fmtE4M3 (some 26215) v = 0x2A ∧ roundFp fmtE4M3 (some 26214) v = 0x29 := by decide +kernel

/-- The S11 layer mark (10, 3) of step 2 from launch tick 2,000,000 is 4,686,688:0 (07's example). -/
theorem test_layer_mark_instance :
    let e : BitVec 128 := 0x00004000004600073000E04492008020#128
    instTime { ({} : Partition) with launchTick := 2000000, period := 1128064 } e 2 10 3 = 4686688 * 1500
      ∧ tideInner e = 36 ∧ tideOuter e = 8 ∧ tideSlack e = 64 ∧ tideBranch e = true ∧ tideVariantBit e = 0 := by decide +kernel

/-- The header of tile 0xAE8 of tensor 0x01_00A0, version 2, shadow, and its deadline 4,686,703:130 (08's example). -/
theorem test_tile_packet_header :
    let h := tileHeader 0x0100A0 0xAE8 2 4 0x40 5 (4686688 * 1500 + 22630) 0 0 3
    bits h 255 160 = 0x0100A000000AE80002440140 ∧ bits h 159 96 = 0x000000023C1B7882 := by decide +kernel

/-- The frame header of the S11 chain: tensor, tile, step 2, o = 3, format 1, k = 0x14 (09's example). -/
theorem test_frame_header : bits (frameHeader 0x0100A0 0xAE8 2 3 1 20 1 false false false
    { amax := 0x3C400000, sumsq := 0, nonzero := 0, uMx := 0, uE5 := 0, uBf := 0, overflow := 0 } []) 255 160 = 0x0100A000000AE80002003114 := by
  decide +kernel

/-- The pair record of T230 and S11 (11's example). -/
theorem test_pair_record_fields :
    let b : List Byte := [0, 0, 0x40, 3, 0, 0x17, 0x74, 0, 0x30, 0, 0x31, 0, 0x32, 0, 2, 0, 0x40, 0xA2, 0xFF, 0xFF, 0x51, 0, 0x10, 0, 0xFF, 0xFF, 0, 0, 0, 0, 0, 0]
    prTeacher b = 0 ∧ prMode b = 0 ∧ prK b = 64 ∧ prWindow b = 3 ∧ prFirstCol b = 0 ∧ prCols b = 24 ∧ prRows b = 116 ∧ prArm b = 0x30 ∧ prCheck b = 0x31
      ∧ prBranch b = 0x32 ∧ prHard b = 2 ∧ prOffset b = -24000 := by decide +kernel

/-- pw(0.9, 101) and pw(0.95, 101) to five figures, and lr of step 100 (10's example). -/
theorem test_powers_and_schedule :
    4537676765322821923 ≤ (pw 0x3F666666#32 101).toNat ∧ (pw 0x3F666666#32 101).toNat ≤ 4537676853867193477
      ∧ 4573134606097914063 ≤ (pw 0x3F733333#32 101).toNat ∧ (pw 0x3F733333#32 101).toNat ≤ 4573134663743989293
      ∧ 4554169628419569752 ≤ (lrAt [(0, 0), (200, 0x3A1D4952#32), (200000, 0x387BA882#32)] 100).toNat
      ∧ (lrAt [(0, 0), (200, 0x3A1D4952#32), (200000, 0x387BA882#32)] 100).toNat ≤ 4554169665313057899 := by decide +kernel

/-- The element of step 100: d, the weight, and the stream byte 0x0A (10's example, five figures: it works in exact decimals, the engine in FP32). -/
theorem test_adam_element :
    let a : AdamPar := { beta1 := 0x3F666666#32, beta2 := 0x3F733333#32, omb1 := fsub fOne 0x3F666666#32, omb2 := fsub fOne 0x3F733333#32, eps := 0x322BCC77#32, gmul := fOne,
                          cf := 0x3ECCCCCD#32, lrg := 0x399D4952#32, lrwd := fmul 0x399D4952#32 0x3DCCCCCD#32 }
    let r := adamStep a 101 0x3BA3D70A#32 0x3A83126F#32 0x368637BD#32
    let w := adamWeight a 0x3CA3D70A#32 r.d
    1057777632 ≤ r.d.toNat ∧ r.d.toNat ≤ 1057777733 ∧ 1017281687 ≤ w.toNat ∧ w.toNat ≤ 1017281795
      ∧ roundFp fmtE4M3 none (ofF32 w) = 0x0A := by decide +kernel

/-- A commit of `0x2101.04` while partition 1 runs: E_STATE, the report names the object, the draft stays open (15's example). -/
theorem test_commit_of_a_running_partition :
    let d : Draft := { owner := .pcie 0, values := [(okey 0x2101 4, [1]), (okey 0x2101 8, [5, 0, 0, 0, 0, 0, 0, 0])] }
    holdsAfter (.commit (.pcie 0)) { served with sivar := { version := 57, draft := some d }, parts := [(1, { run := .running })] } (fun t =>
      decide (t.resp.status = stState ∧ t.sivar.report = (0, stState, okey 0x2101 4) ∧ t.sivar.draft = some d ∧ t.sivar.version = 57)) = true := by decide +kernel

/-- The same commit once the partition is STOPPED: version 58 is current (15's example). -/
theorem test_commit_of_a_stopped_partition :
    let d : Draft := { owner := .pcie 0, values := [(okey 0x2101 4, [1]), (okey 0x2101 8, [5, 0, 0, 0, 0, 0, 0, 0])] }
    holdsAfter (.commit (.pcie 0)) { served with sivar := { version := 57, draft := some d } } (fun t =>
      decide (t.resp.status = stOk ∧ t.sivar.version = 58 ∧ t.sivar.prevVersion = 57 ∧ t.cfg 0x2101 4 = 1 ∧ t.cfg 0x2101 8 = 5)) = true := by decide +kernel

/-- An idle core that was offered takes its column's spare at its next scrub: logical row 23 of tile 47 (R40, R366, R128). -/
theorem test_scrub_substitutes_idle_core :
    holdsAfter (.scrubRowRead 27647) (withHeal 27647 { offered := true }) (fun t =>
      spareOf t 47 23 == 3 && t.overlay.entries.map (fun f => (f.cls, f.unit, f.origin, f.flags)) == [(2, siteId 47 23 23, 3, 2)]) = true := by
  decide +kernel

end Sys2Proof.Tests
end

section
/-! SUPPORT. A complete row write (R37): the marks and bytes that a row holds afterwards, for each party that can write one, and
that row bookkeeping and the networks leave the scratchpads alone. -/

namespace Sys2Proof.Machine

/-! ### What the marks of a run of words read after it is written -/

/-- The mark that a word is stored with. -/
def storedMark (bad : Bool) : Option Mark := if bad then some .uncorrectable else none

@[simp] theorem storedMark_false : storedMark false = none := rfl

theorem tget_putMark (m : Tbl (Option Mark)) (k j : Nat) (bad : Bool) :
    tget none (putMark m k bad) j = if j = k then storedMark bad else tget none m j := tget_tput none m k j _

/-- Storing n consecutive words stores the mark of each and leaves every other word's. -/
theorem tget_foldl_putMark (bad : Nat → Bool) (m : Tbl (Option Mark)) (k n j : Nat) :
    tget none ((List.range n).foldl (fun m i => putMark m (k + i) (bad i)) m) j
      = if k ≤ j ∧ j < k + n then storedMark (bad (j - k)) else tget none m j := by
  induction n with
  | zero => simp
  | succ n ih =>
    rw [List.range_succ, List.foldl_append, List.foldl_cons, List.foldl_nil, tget_putMark, ih]
    by_cases hj : j = k + n
    · simp [hj]
    · have hiff : (k ≤ j ∧ j < k + n) ↔ (k ≤ j ∧ j < k + (n + 1)) := by omega
      simp only [hj, if_false, hiff]

theorem tget_foldl_putMark_within (bad : Nat → Bool) (m : Tbl (Option Mark)) (k n i : Nat) (hi : i < n) :
    tget none ((List.range n).foldl (fun m i => putMark m (k + i) (bad i)) m) (k + i) = storedMark (bad i) := by
  rw [tget_foldl_putMark, if_pos (by omega), Nat.add_sub_cancel_left]

/-- A byte of a byte string that has just been written. -/
theorem readByte_writeBytes_within (bs : List Byte) (m : List Host.Cell) (a i : Nat) (hi : i < bs.length) :
    readByte (writeBytes m a bs) (a + i) = bs[i]? := by
  rw [readByte_writeBytes, if_pos (by omega), Nat.add_sub_cancel_left]

theorem fitBytes_of_length (bs : List Byte) (n : Nat) (h : bs.length = n) : fitBytes n bs = bs := by
  simp [fitBytes, ← h]

/-! ### What leaves the scratchpads and their marks alone -/

section
variable (s : State) (c : Nat)

@[simp] theorem State.rowWritten_pad (row : Nat) : (s.rowWritten c row).pad = s.pad := by
  unfold State.rowWritten; dsimp only; split <;> rfl

@[simp] theorem State.rowWritten_marks (row : Nat) : (s.rowWritten c row).marks = s.marks := by
  unfold State.rowWritten; dsimp only; split <;> rfl

theorem State.foldl_rowWritten_pad (row : Nat) (l : List Nat) :
    (l.foldl (fun t i => t.rowWritten c (row + i)) s).pad = s.pad := by
  induction l generalizing s with
  | nil => rfl
  | cons i l ih => rw [List.foldl_cons, ih, State.rowWritten_pad]

theorem State.foldl_rowWritten_marks (row : Nat) (l : List Nat) :
    (l.foldl (fun t i => t.rowWritten c (row + i)) s).marks = s.marks := by
  induction l generalizing s with
  | nil => rfl
  | cons i l ih => rw [List.foldl_cons, ih, State.rowWritten_marks]

@[simp] theorem State.sendPacket_pad (q : Nat) (f : FabHead) (bs : List Byte) : (s.sendPacket q f bs).pad = s.pad := by
  unfold State.sendPacket; dsimp only; split <;> rfl

@[simp] theorem State.sendPacket_marks (q : Nat) (f : FabHead) (bs : List Byte) : (s.sendPacket q f bs).marks = s.marks := by
  unfold State.sendPacket; dsimp only; split <;> rfl

@[simp] theorem State.forwardRow_pad (p : NetPacket) : (s.forwardRow p).pad = s.pad := by
  unfold State.forwardRow
  split
  · rfl
  · dsimp only; split <;> simp

@[simp] theorem State.forwardRow_marks (p : NetPacket) : (s.forwardRow p).marks = s.marks := by
  unfold State.forwardRow
  split
  · rfl
  · dsimp only; split <;> simp

@[simp] theorem State.inject_pad (p : NetPacket) : (s.inject c p).pad = s.pad := by
  unfold State.inject; dsimp only; split <;> simp

@[simp] theorem State.inject_marks (p : NetPacket) : (s.inject c p).marks = s.marks := by
  unfold State.inject; dsimp only; split <;> simp

@[simp] theorem State.injectSome_pad (p : Option NetPacket) : (s.injectSome c p).pad = s.pad := by
  cases p with
  | none => rfl
  | some q => exact s.inject_pad c q

@[simp] theorem State.injectSome_marks (p : Option NetPacket) : (s.injectSome c p).marks = s.marks := by
  cases p with
  | none => rfl
  | some q => exact s.inject_marks c q

end

/-! ### A row holds what was written into it -/

/-- A row's words read as good or bad as given, and its bytes are the given ones. -/
structure RowHolds (t : State) (c row : Nat) (bs : List Byte) (bad : Nat → Bool) : Prop where
  mark : ∀ w, w < 64 → tget none t.marks (wordOf (padAt c row) + w) = storedMark (bad w)
  byte : ∀ i, i < 512 → readByte t.pad (padAt c row + i) = bs[i]?

/-- What a row holds is in the scratchpads and their marks alone. -/
theorem RowHolds.of_same_pad {s t : State} {c row : Nat} {bs : List Byte} {bad : Nat → Bool} (h : RowHolds s c row bs bad)
    (hp : t.pad = s.pad) (hm : t.marks = s.marks) : RowHolds t c row bs bad :=
  ⟨fun w hw => hm ▸ h.mark w hw, fun i hi => hp ▸ h.byte i hi⟩

/-- A complete row write (R37): the row's 64 marks are the written row's, whatever they were before, and so are its bytes. -/
theorem State.writeRow_holds (s : State) (c row : Nat) (d : Row) (hd : d.bytes.length = 512) :
    RowHolds (s.writeRow c row d) c row d.bytes (fun w => decide (w ∈ d.poison)) where
  mark w hw := by
    simp only [State.writeRow, State.rowWritten_marks]
    exact tget_foldl_putMark_within (fun w => decide (w ∈ d.poison)) s.marks _ 64 w hw
  byte i hi := by
    simp only [State.writeRow, State.rowWritten_pad, fitBytes_of_length d.bytes 512 hd]
    exact readByte_writeBytes_within d.bytes s.pad _ i (hd ▸ hi)

theorem wordOf_padAt (c row : Nat) : 8 * wordOf (padAt c row) = padAt c row := by unfold wordOf padAt; omega

/-- No part of a string of good bytes is bad. -/
theorem any_take_drop_replicate_false (n k m : Nat) : (((List.replicate n false).drop k).take m).any id = false :=
  List.any_eq_false.2 fun b hb => by simp [List.eq_of_mem_replicate (List.mem_of_mem_drop (List.mem_of_mem_take hb))]

/-- An output of 512 B that starts with a word covers its 64 words whole: each gets the mark of its own eight bytes. -/
theorem State.writeOut_mark (s : State) (c a w : Nat) (bs : List Byte) (bad : List Bool) (first last : Bool)
    (hb : bs.length = 512) (ha : 8 * wordOf a = a) (hw : w < 64) :
    tget none (s.writeOut c a bs bad first last).marks (wordOf a + w) = storedMark (((bad.drop (8 * w)).take 8).any id) := by
  have hcount : wordOf (a + 512 - 1) + 1 - wordOf a = 64 := by unfold wordOf at ha ⊢; omega
  have hlo : max a (8 * (wordOf a + w)) = a + 8 * w := by omega
  have hhi : min (a + 512) (8 * (wordOf a + w) + 8) = a + 8 * w + 8 := by omega
  unfold State.writeOut
  dsimp only
  rw [if_neg (by omega), State.foldl_rowWritten_marks, hb, hcount, tget_foldl_putMark_within _ _ _ _ _ hw, hlo, hhi,
    Nat.add_sub_cancel_left, Nat.add_sub_cancel_left]
  simp

/-- An output's bytes stand where it was written. -/
theorem State.writeOut_byte (s : State) (c a i : Nat) (bs : List Byte) (bad : List Bool) (first last : Bool) (hi : i < bs.length) :
    readByte (s.writeOut c a bs bad first last).pad (a + i) = bs[i]? := by
  unfold State.writeOut
  dsimp only
  rw [if_neg (by omega), State.foldl_rowWritten_pad, readByte_writeBytes_within _ _ _ _ hi]

/-- An output of 512 B at a row's start is a complete row write (R37): nothing of the row's old marks is left. -/
theorem State.writeOut_whole_row_holds (s : State) (c row : Nat) (bs : List Byte) (bad : List Bool) (first last : Bool)
    (hb : bs.length = 512) :
    RowHolds (s.writeOut c (padAt c row) bs bad first last) c row bs (fun w => ((bad.drop (8 * w)).take 8).any id) where
  mark w hw := s.writeOut_mark c _ w bs bad first last hb (wordOf_padAt c row) hw
  byte i hi := s.writeOut_byte c _ i bs bad first last (hb ▸ hi)

/-- A row that an armed window takes, and that does not wait in the router, is written complete (R141). -/
theorem State.rowArrives_holds (s : State) (c : Nat) (f : Sender) (row w : Nat) (d : Row) (ha : answers s c = true)
    (ht : takingWindow (s.core c) 1 f row = some w) (hw : remoteWaits s c 1 = false) (hd : d.bytes.length = 512) :
    RowHolds (s.rowArrives c f row d) c row d.bytes (fun w => decide (w ∈ d.poison)) := by
  refine (s.writeRow_holds c row d hd).of_same_pad ?_ ?_ <;> simp [State.rowArrives, ha, ht, hw]

theorem exec_remoteRowArrival (s : State) (c sm sc ch tag row : Nat) (d : Row) (hc : coreExists s c = true) :
    exec (.remoteRowArrival c sm sc ⟨ch, tag⟩ row d) s = .next (s.rowArrives c (sm, sc, ch, tag) row d) :=
  if_pos hc

/-- Settles O59: each party's row write stores the 64 marks of what it writes, here all good, and its 512 bytes. -/
theorem completeRowWritesReplaceTheRow : Obligations.CompleteRowWritesReplaceTheRow := by
  refine ⟨fun s c row d hd hp => ?_, fun s c row bs bad first last hb hbad => ?_,
    fun s c sm sc ch tag row d w hc ha ht hw hd hp => ⟨_, exec_remoteRowArrival s c sm sc ch tag row d hc, ?_⟩⟩
  · have h := s.writeRow_holds c row d hd
    exact ⟨by simpa [hp] using h.mark, h.byte⟩
  · have h := s.writeOut_whole_row_holds c row bs bad first last hb
    exact ⟨by simpa only [hbad, any_take_drop_replicate_false, storedMark_false] using h.mark, h.byte⟩
  · have h := s.rowArrives_holds c (sm, sc, ch, tag) row w d ha ht hw hd
    exact ⟨by simpa [hp] using h.mark, h.byte⟩

end Sys2Proof.Machine
end

section
/-! SUPPORT. The array slot (R57-R61): what each array instruction asks of the issue stage and what it records there, and that an
instruction that issues runs from its own copy of the registers. -/

namespace Sys2Proof.Machine

/-! ### What an array instruction asks for and records -/

/-- The instructions that read a second range, SRC + 1: the tiles of the scratchpad, or the second stream of OSP (R59, R68). -/
def ArrOp.readsTwo (op : ArrOp) : Bool := decide (op = .wss) || decide (op = .wts) || decide (op = .osp)

/-- The ranges that an array slot reads, by number: from SRC on (R26). -/
def arrSrcIdx (op : ArrOp) (src : Nat) : List Nat := if op.readsTwo then [src, src + 1] else [src]

/-- The ranges that an array slot names, by number: those it reads, and DST where it writes. -/
def arrRangeIdx (s : State) (c : Nat) (op : ArrOp) (sel src dst : Nat) (drain : Bool) : List Nat :=
  arrSrcIdx op src ++ (if (arrWrites s c op sel dst drain).isEmpty then [] else [dst])

/-- What an array slot asks of the issue stage. -/
def arrAsk (s : State) (c : Nat) (op : ArrOp) (sel src dst : Nat) (drain : Bool) : SlotAsk where
  reads := arrReads s c op sel src
  writes := arrWrites s c op sel dst drain
  party := .arr
  queueFull := decide (2 ≤ arrQueued (s.core c))
  entries := arrRangeIdx s c op sel src dst drain

/-- What an array slot records: its instruction stands last in the queue, with a copy of the registers (R58). -/
def arrRecord (s : State) (c : Nat) (op : ArrOp) (sel src dst : Nat) (sr drain acc seedz : Bool) (i : IssueState) (id : Nat) : IssueState :=
  let k := s.core c
  { i with arrQ := i.arrQ ++ [{ id := id, issued := max s.now k.nextIssue, op := op, regs := i.arrRegs
                                srcA := k.rangeOf sel src, srcB := k.rangeOf sel (src + 1), dst := k.rangeOf sel dst
                                sr := sr, drain := drain, acc := acc, seedz := seedz }] }

section
variable (s : State) (c : Nat) (op : ArrOp) (sel src dst : Nat) (sr drain acc seedz : Bool)

/-- As many ranges are numbered as `arrReads` reads. -/
theorem arrSrcIdx_eq_range : arrSrcIdx op src = (List.range (arrReads s c op sel src).length).map (src + ·) := by
  cases op <;> rfl

theorem arrSrcIdx_loaded (k : Core) :
    (arrSrcIdx op src).all k.hasRange = k.hasRange (if op.readsTwo then src + 1 else src) := by
  unfold arrSrcIdx
  cases op.readsTwo with
  | false => simp
  | true => simp [Core.hasRange]; omega

theorem arrRangeIdx_loaded (k : Core) :
    (arrRangeIdx s c op sel src dst drain).all k.hasRange
      = (k.hasRange (if op.readsTwo then src + 1 else src) && (k.hasRange dst || (arrWrites s c op sel dst drain).isEmpty)) := by
  rw [arrRangeIdx, List.all_append, arrSrcIdx_loaded]
  cases (arrWrites s c op sel dst drain).isEmpty <;> simp

/-- An array slot goes to the issue stage where every range that it names is loaded. -/
theorem issueArr_eq :
    issueArr s c op sel src dst sr drain acc seedz
      = if !(arrRangeIdx s c op sel src dst drain).all (s.core c).hasRange then s
        else issueSlot s c (arrAsk s c op sel src dst drain) (arrRecord s c op sel src dst sr drain acc seedz) := by
  rw [arrRangeIdx_loaded]
  cases op <;> rfl

/-- An array slot that meets its conditions issues. -/
theorem issueArr_issued (h : ArrIssues s c op sel src dst drain) :
    ArrIssued s (issueArr s c op sel src dst sr drain acc seedz) c op sel src dst sr drain acc seedz := by
  obtain ⟨⟨-, -, hb⟩, hq, hr⟩ := h
  rw [← arrSrcIdx_eq_range] at hr
  have hloaded : (arrRangeIdx s c op sel src dst drain).all (s.core c).hasRange = true :=
    List.all_eq_true.2 fun i hi => by simpa [Core.hasRange] using (hr.1 i hi).1
  rw [issueArr_eq, if_neg (by simp [hloaded])]
  exact (issueSlot_clear s c (arrAsk s c op sel src dst drain) _ hb (by simp [arrAsk, hq]) hr).symm

end

/-! ### The copy of the registers (R58) -/

/-- The first instruction of the queue enters an empty array as it was recorded, between bundles. -/
theorem nextArr_enters (k : Core) (i : ArrInstr) (q : List ArrInstr)
    (hs : k.snap = none) (hc : k.arr.cur = none) (hq : k.iss.arrQ = i :: q) :
    nextArr k = { k with iss := { k.iss with arrQ := q }, arr := { k.arr with cur := some i, chain := 0, pass := 0 } } := by
  unfold nextArr; rw [hs, hc, hq]

/-- ASET acts on the registers in its issue cycle, and on nothing else of the issue state. -/
theorem execAset_ready (s : State) (c reg : Nat) (v : BitVec 18) (h : CoreReady s c) :
    ∃ t, execAset c reg v s = .next t ∧ SlotFrame s t c
      ∧ (t.core c).iss = { (s.core c).iss with arrRegs := tput 0 (s.core c).iss.arrRegs reg v } :=
  ⟨_, onIssuing_ready s c _ h, setSlot_ready s c _ h.2.2⟩

/-- The issue of an array instruction on a core that takes it. -/
theorem onIssuing_issueArr (s : State) (c : Nat) (op : ArrOp) (sel src dst : Nat) (sr drain acc seedz : Bool)
    (h : ArrIssues s c op sel src dst drain) :
    ∃ t, onIssuing s c (issueArr s c op sel src dst sr drain acc seedz) = .next t
      ∧ ArrIssued s t c op sel src dst sr drain acc seedz :=
  ⟨_, onIssuing_ready s c _ h.1, issueArr_issued s c op sel src dst sr drain acc seedz h⟩

/-- Settles O60: a register slot writes the one register, and an array slot records its instruction with the copy of the registers
that `nextArr` hands to the array. -/
theorem arrayInstructionsRunFromTheirCopy : Obligations.ArrayInstructionsRunFromTheirCopy := by
  refine ⟨fun s c reg v h => ?aset, fun s c sel src dst sr drain acc => onIssuing_issueArr s c .wsg sel src dst sr drain acc false,
    fun s c sel src dst sr drain acc => onIssuing_issueArr s c .wss sel src dst sr drain acc false,
    fun s c sel src dst sr drain acc => onIssuing_issueArr s c .wtg sel src dst sr drain acc false,
    fun s c sel src dst sr drain acc => onIssuing_issueArr s c .wts sel src dst sr drain acc false,
    fun s c sel src dst seedz => onIssuing_issueArr s c .osp sel src dst false true false seedz, fun k i q hs hc hq => ?enters⟩
  case aset =>
    obtain ⟨t, ht, hframe, hiss⟩ := execAset_ready s c reg v h
    exact ⟨t, ht, fun r => by rw [hiss]; exact tget_tput 0 _ reg r v, by rw [hiss], hframe⟩
  case enters =>
    rw [nextArr_enters k i q hs hc hq]
    exact ⟨rfl, rfl, rfl⟩

end Sys2Proof.Machine
end

section
/-! SUPPORT. The power function of the update rule (R258): the recurrence of pw over the last bit of the count, and where the bias
corrections and the lazy decay use it. -/

namespace Sys2Proof.Machine

/-! ### pw, one bit after another -/

/-- What one bit of the count does to the power of the bits before it. -/
def pwBit (beta : F64) (bit : Bool) (p : F64) : F64 := if bit then dmul (dmul p p) beta else dmul p p

/-- `pwBits` takes the highest of its bits first. -/
theorem pwBits_succ_high (beta : F64) (c k : Nat) (p : F64) :
    pwBits beta c (k + 1) p = pwBits beta c k (pwBit beta (c.testBit k) p) := rfl

/-- The lowest bit comes last, after the bits of the halved count. -/
theorem pwBits_succ_low (beta : F64) (c k : Nat) (p : F64) :
    pwBits beta c (k + 1) p = pwBit beta (c.testBit 0) (pwBits beta (c / 2) k p) := by
  induction k generalizing p with
  | zero => rfl
  | succ k ih =>
    calc pwBits beta c (k + 2) p
        = pwBits beta c (k + 1) (pwBit beta (c.testBit (k + 1)) p) := pwBits_succ_high beta c (k + 1) p
      _ = pwBit beta (c.testBit 0) (pwBits beta (c / 2) k (pwBit beta (c.testBit (k + 1)) p)) := ih _
      _ = pwBit beta (c.testBit 0) (pwBits beta (c / 2) (k + 1) p) := by rw [pwBits_succ_high, Nat.testBit_succ]

@[simp] theorem pw_zero (beta : F32) : pw beta 0 = f64OfNat 1 := rfl

/-- A count from 1 on has one bit more than its half: the half's bits, as `pw` counts them, are the log of the whole. -/
theorem bits_half (c : Nat) : (if c / 2 = 0 then 0 else (c / 2).log2 + 1) = c.log2 := by
  rw [Nat.log2_def c]
  split_ifs <;> omega

/-- The power of a count is that of its half, and then its last bit. -/
theorem pw_half (beta : F32) (c : Nat) (hc : c ≠ 0) :
    pw beta c = pwBit (f32ToF64 beta) (c.testBit 0) (pw beta (c / 2)) := by
  unfold pw
  rw [if_neg hc, pwBits_succ_low, bits_half c]

theorem pw_two_mul (beta : F32) (c : Nat) (hc : c ≠ 0) : pw beta (2 * c) = dmul (pw beta c) (pw beta c) := by
  rw [pw_half beta (2 * c) (by omega), Nat.mul_div_cancel_left c (by decide)]
  simp [pwBit]

/-- This holds at count 0 too, where it gives `pw beta 1`. -/
theorem pw_two_mul_add_one (beta : F32) (c : Nat) :
    pw beta (2 * c + 1) = dmul (dmul (pw beta c) (pw beta c)) (f32ToF64 beta) := by
  rw [pw_half beta (2 * c + 1) (by omega), show (2 * c + 1) / 2 = c by omega]
  simp [pwBit]

/-! ### Where the rule uses it -/

theorem adamStep_mh (a : AdamPar) (c : Nat) (acc m v : F32) :
    (adamStep a c acc m v).mh = fdiv (adamStep a c acc m v).m (f64ToF32 (dsub (f64OfNat 1) (pw a.beta1 c))) := rfl

theorem adamStep_d (a : AdamPar) (c : Nat) (acc m v : F32) :
    (adamStep a c acc m v).d = fdiv (adamStep a c acc m v).mh
      (fadd (fsqrt (fdiv (adamStep a c acc m v).v (f64ToF32 (dsub (f64OfNat 1) (pw a.beta2 c))))) a.eps) := rfl

@[simp] theorem momentOut_fp32 (x : F32) : momentOut false x = x := rfl

theorem OptState.putElem_m (o : OptState) (e : Nat) (w m v : F32) : tget fZero (o.putElem e w m v).m e = m :=
  tget_tput_same fZero o.m e m

theorem OptState.putElem_v (o : OptState) (e : Nat) (w m v : F32) : tget fZero (o.putElem e w m v).v e = v :=
  tget_tput_same fZero o.v e v

/-- The rule on a touched element of a lazy row: the row's own count, and moments decayed over the updates that the row missed (R261). -/
def lazyStep (a : AdamPar) (o : OptState) (u row e : Nat) (acc : F32) : AdamOut :=
  let missed := u - (rowOld o u row).last - 1
  adamStep a ((rowOld o u row).count + 1) acc (fmul (tget fZero o.m e) (f64ToF32 (pw a.beta1 missed)))
    (fmul (tget fZero o.v e) (f64ToF32 (pw a.beta2 missed)))

theorem lazyElem_eq_putElem (a : AdamPar) (bf16 : Bool) (o : OptState) (u row e : Nat) (acc : F32) :
    lazyElem a bf16 o u row e acc = o.putElem e (adamWeight a (tget fZero o.w e) (lazyStep a o u row e acc).d)
      (momentOut bf16 (lazyStep a o u row e acc).m) (momentOut bf16 (lazyStep a o u row e acc).v) := rfl

/-- The moments that a touched element of a lazy row keeps, as they are written. -/
theorem lazyElem_moments (a : AdamPar) (bf16 : Bool) (o : OptState) (u row e : Nat) (acc : F32) :
    tget fZero (lazyElem a bf16 o u row e acc).m e = momentOut bf16 (lazyStep a o u row e acc).m
      ∧ tget fZero (lazyElem a bf16 o u row e acc).v e = momentOut bf16 (lazyStep a o u row e acc).v := by
  rw [lazyElem_eq_putElem]
  exact ⟨OptState.putElem_m .., OptState.putElem_v ..⟩

theorem lazyElem_moments_fp32 (a : AdamPar) (o : OptState) (u row e : Nat) (acc : F32) :
    tget fZero (lazyElem a false o u row e acc).m e = (lazyStep a o u row e acc).m
      ∧ tget fZero (lazyElem a false o u row e acc).v e = (lazyStep a o u row e acc).v := by
  simpa only [momentOut_fp32] using lazyElem_moments a false o u row e acc

/-- Settles O58: the powers by the recurrence over the last bit of the count, the rule and the lazy decay by their equations. -/
theorem powersFollowTheBits : Obligations.PowersFollowTheBits :=
  ⟨fun beta => ⟨pw_zero beta, pw_two_mul_add_one beta 0, fun c hc => ⟨pw_two_mul beta c (by omega), pw_two_mul_add_one beta c⟩⟩,
    fun a c acc m v => ⟨adamStep_mh a c acc m v, adamStep_d a c acc m v⟩,
    lazyElem_moments_fp32⟩

end Sys2Proof.Machine
end

section
/-! SUPPORT. The one step that puts a configuration in force (R394, R395): checks that fail change nothing, and where all pass, the
effects of the changed objects leave the answer and the versions as the new configuration set them. -/

namespace Sys2Proof.Machine

/-! ### What the effects of a configuration leave unchanged -/

/-- The answer and the dictionary's own state, its open sessions and its draft left out: effects close sessions, notify them and drop the
draft of one that closes. -/
def State.versionView (s : State) : Resp × Sivar := (s.resp, { s.sivar with sessions := [], draft := none })

theorem foldl_versionView {α : Type} {f : State → α → State} (hf : ∀ t a, (f t a).versionView = t.versionView) (l : List α) (s : State) :
    (l.foldl f s).versionView = s.versionView :=
  List.foldlRecOn (motive := fun t => t.versionView = s.versionView) l f rfl fun t ht a _ => (hf t a).trans ht

@[simp] theorem State.newConfig_versionView (s : State) (cfg : Tbl (List Byte)) : (s.newConfig cfg).versionView =
    (s.versionView.1, { s.versionView.2 with config := cfg, previous := s.versionView.2.config, version := s.versionView.2.version + 1
                                             prevVersion := s.versionView.2.version }) := rfl

section
variable (s : State)

/-! #### Parts of the state, and events -/

@[simp] theorem State.bump_versionView : s.bump.versionView = s.versionView := rfl
@[simp] theorem State.setCtl_versionView (p : Nat) (v : PartControl) : (s.setCtl p v).versionView = s.versionView := rfl
@[simp] theorem State.setQuay_versionView (q : Nat) (v : Quay) : (s.setQuay q v).versionView = s.versionView := rfl
@[simp] theorem State.setTensor_versionView (t : Nat) (v : Tensor) : (s.setTensor t v).versionView = s.versionView := rfl
@[simp] theorem State.setIntake_versionView (k : Nat) (v : Intake) : (s.setIntake k v).versionView = s.versionView := rfl
@[simp] theorem State.setPort_versionView (i : Nat) (v : Port) : (s.setPort i v).versionView = s.versionView := rfl
@[simp] theorem State.setOptOf_versionView (t : Nat) (o : OptState) : (s.setOptOf t o).versionView = s.versionView := rfl
@[simp] theorem State.setRun_versionView (p : Nat) (r : UpdateRun) : (s.setRun p r).versionView = s.versionView := rfl
@[simp] theorem State.setExchange_versionView (p q : Nat) (e : Exchange) : (s.setExchange p q e).versionView = s.versionView := rfl
@[simp] theorem State.setWitness_versionView (w : Nat) (x : Witness) : (s.setWitness w x).versionView = s.versionView := rfl
@[simp] theorem State.say_versionView (m : LedgerMsg) : (s.say m).versionView = s.versionView := rfl
@[simp] theorem State.pushReport_versionView (r : UpdateReport) : (s.pushReport r).versionView = s.versionView := rfl
@[simp] theorem State.clearDamage_versionView (t v : Nat) : (s.clearDamage t v).versionView = s.versionView := rfl
@[simp] theorem State.closeSession_versionView (k : Nat) : (s.closeSession k).versionView = s.versionView := rfl
@[simp] theorem freeAll_versionView (t : Nat) : (freeAll s t).versionView = s.versionView := rfl

@[simp] theorem State.ledger_versionView (x : Ledger) : ({ s with ledger := x } : State).versionView = s.versionView := rfl
@[simp] theorem State.log_versionView (x : EventLog) : ({ s with log := x } : State).versionView = s.versionView := rfl

@[simp] theorem State.append_versionView (e : Event) : (s.append e).versionView = s.versionView := by
  simp only [State.append, State.versionView]
  split_ifs <;> rfl

@[simp] theorem State.event_versionView (sev code unit detail : Nat) : (s.event sev code unit detail).versionView = s.versionView := by
  simp only [State.event, State.eventAt]
  split_ifs <;> simp

/-! #### Pins (R20), and NARROW ports that go DOWN under one (R339) -/

@[simp] theorem State.holdPin_versionView (key old : Nat) : (s.holdPin key old).versionView = s.versionView := by
  refine foldl_versionView (fun t p => ?_) _ s
  split_ifs <;> simp

@[simp] theorem State.weighPort_versionView (i : Nat) : (s.weighPort i).versionView = s.versionView := by
  simp only [State.weighPort]
  split_ifs <;> simp

@[simp] theorem State.notePort_versionView (i : Nat) (old : Port) : (s.notePort i old).versionView = s.versionView := by
  simp only [State.notePort]
  split_ifs <;> simp

@[simp] theorem State.resendFrame_versionView (key i : Nat) : (s.resendFrame key i).versionView = s.versionView := by
  simp only [State.resendFrame]
  split
  · rfl
  · split <;> simp

@[simp] theorem State.resendFrames_versionView : s.resendFrames.versionView = s.versionView := by
  refine foldl_versionView (fun t key => foldl_versionView (fun u i => ?_) _ t) _ s
  split
  · split_ifs <;> simp
  · rfl

@[simp] theorem State.putPacket_versionView (q : Nat) (h : BitVec 256) (payload : List Byte) :
    (s.putPacket q h payload).versionView = s.versionView := by
  unfold State.putPacket
  split <;> rfl

@[simp] theorem State.resendFabric_versionView (port : Nat) : (s.resendFabric port).versionView = s.versionView := by
  unfold State.resendFabric
  exact foldl_versionView (fun t e => by simp) _ s

@[simp] theorem State.resendAll_versionView (i : Nat) : (s.resendAll i).versionView = s.versionView := by
  simp only [State.resendAll]
  split_ifs <;> simp

@[simp] theorem State.changePort_versionView (i : Nat) (v : Port) : (s.changePort i v).versionView = s.versionView := by
  simp only [State.changePort]
  split_ifs <;> simp

@[simp] theorem State.pinNarrow_versionView (i : Nat) : (s.pinNarrow i).versionView = s.versionView := by
  simp only [State.pinNarrow, State.pinDown]
  split_ifs <;> simp

/-! #### Packets of the fabric and streams of an update (R295, R302-R304) -/

@[simp] theorem State.sendPacket_versionView (q : Nat) (f : FabHead) (payload : List Byte) :
    (s.sendPacket q f payload).versionView = s.versionView := by
  simp only [State.sendPacket]
  split <;> rfl

@[simp] theorem State.sendBytes_versionView (p q n step dm : Nat) (bs : List Byte) :
    (s.sendBytes p q n step dm bs).versionView = s.versionView := by
  unfold State.sendBytes
  exact foldl_versionView (fun t _ => t.sendPacket_versionView q _ _) _ s

@[simp] theorem State.sendStream_versionView (p q n step dm : Nat) : (s.sendStream p q n step dm).versionView = s.versionView :=
  s.sendBytes_versionView p q n step dm _

@[simp] theorem State.formNorm_versionView (p q : Nat) : (s.formNorm p q).versionView = s.versionView := by
  simp only [State.formNorm]
  split_ifs <;> simp

@[simp] theorem State.sendShardSum_versionView (p q n : Nat) : (s.sendShardSum p q n).versionView = s.versionView := by
  simp only [State.sendShardSum]
  split
  · rfl
  · rw [State.formNorm_versionView, foldl_versionView, State.setExchange_versionView]
    intro t h
    split_ifs <;> simp

@[simp] theorem State.sendNorm_versionView (p q : Nat) : (s.sendNorm p q).versionView = s.versionView := by
  simp only [State.sendNorm]
  split_ifs
  · rfl
  · exact foldl_versionView (fun t n => t.sendShardSum_versionView p q n) _ s

@[simp] theorem State.relayGather_versionView (p q : Nat) : (s.relayGather p q).versionView = s.versionView := by
  simp only [State.relayGather]
  split_ifs
  · rfl
  · refine (foldl_versionView (fun t j => ?_) _ _).trans (s.setExchange_versionView p q _)
    split_ifs
    · rfl
    · exact foldl_versionView (fun u n => u.sendStream_versionView p q n _ _) _ t

@[simp] theorem State.openSlot_versionView (tid v : Nat) : (s.openSlot tid v).versionView = s.versionView := by
  simp only [State.openSlot, State.retireVersion]
  split_ifs <;> simp

@[simp] theorem State.putStream_versionView (p n version off : Nat) (data : List Byte) :
    (s.putStream p n version off data).versionView = s.versionView := by
  unfold State.putStream
  refine List.foldlRecOn (motive := fun (acc : State × Nat) => acc.1.versionView = s.versionView) _ _ rfl fun acc h e _ => ?_
  split
  · exact h
  · dsimp only
    split_ifs
    · split
      · exact h
      · simpa using h
    · exact h

@[simp] theorem State.landStream_versionView (p n step off : Nat) (data : List Byte) :
    (s.landStream p n step off data).versionView = s.versionView := by
  simp only [State.landStream, State.setExchange_versionView, State.putStream_versionView]

@[simp] theorem State.publishHeld_versionView (p q n : Nat) : (s.publishHeld p q n).versionView = s.versionView := by
  unfold State.publishHeld
  refine (foldl_versionView (fun t d => ?_) _ _).trans (s.setRun_versionView p _)
  dsimp only
  split_ifs <;> simp

@[simp] theorem State.completeVersion_versionView (p q : Nat) : (s.completeVersion p q).versionView = s.versionView := by
  unfold State.completeVersion
  dsimp only
  split
  · rfl
  · rw [apply_ite State.versionView, State.pushReport_versionView, State.setRun_versionView, ite_self, State.setExchange_versionView,
      foldl_versionView fun t e => ?said, foldl_versionView fun t tid => ?completed]
    case said => exact t.say_versionView _
    case completed => split <;> simp

/-! #### The ledger (R298, R308-R315) -/

@[simp] theorem State.inherit_versionView (p q n : Nat) : (s.inherit p q n).versionView = s.versionView := by
  simp only [State.inherit]
  split_ifs <;> simp

@[simp] theorem State.freeAcks_versionView : s.freeAcks.versionView = s.versionView := by
  refine foldl_versionView (fun t p => foldl_versionView (fun u q => ?_) _ t) _ s
  dsimp only
  split_ifs <;> simp

@[simp] theorem State.takeRoles_versionView (before : List (Nat × Nat × Nat)) : (s.takeRoles before).versionView = s.versionView := by
  rw [State.takeRoles, State.freeAcks_versionView]
  exact foldl_versionView (fun (t : State) (e : Nat × Nat × Nat) => t.inherit_versionView e.1 e.2.1 e.2.2) _ s

@[simp] theorem State.haltFeeders_versionView : s.haltFeeders.versionView = s.versionView := by
  refine foldl_versionView (fun t p => foldl_versionView (fun u k => ?_) _ t) _ s
  split_ifs <;> simp

@[simp] theorem State.ledgerHalt_versionView (st : Nat) : (s.ledgerHalt st).versionView = s.versionView := by
  simp only [State.ledgerHalt, State.event_versionView, State.haltFeeders_versionView]
  rfl

@[simp] theorem State.applyRecord_versionView (rec : LedgerRecord) : (s.applyRecord rec).versionView = s.versionView := by
  unfold State.applyRecord
  split_ifs
  · rfl
  · split
    · exact s.ledger_versionView _
    · rw [State.takeRoles_versionView, foldl_versionView fun t r => t.event_versionView _ _ _ _]
      exact s.ledger_versionView _
    · rw [State.ledgerHalt_versionView]
      exact s.ledger_versionView _
    · exact s.ledger_versionView _

@[simp] theorem State.commitIfHeld_versionView (rec : LedgerRecord) : (s.commitIfHeld rec).versionView = s.versionView := by
  simp only [State.commitIfHeld]
  split
  · rfl
  · split_ifs
    · rfl
    · exact State.applyRecord_versionView _ rec

@[simp] theorem State.propose_versionView (rec : LedgerRecord) : (s.propose rec).versionView = s.versionView := by
  simp only [State.propose]
  split
  · rfl
  · split_ifs
    · rfl
    · simp

@[simp] theorem settleTable_versionView (table : Option Membership) (was : Nat) : (settleTable table was s).versionView = s.versionView := by
  simp only [settleTable]
  split
  · rfl
  · split_ifs <;> simp

/-! #### Optimizer groups (R248, R274) -/

@[simp] theorem State.seedMaster_versionView (tid : Nat) (r : BitVec 512) (v : Version) : (s.seedMaster tid r v).versionView = s.versionView := by
  simp only [State.seedMaster]
  split_ifs <;> rfl

@[simp] theorem settleGroup_versionView (gi : Nat) : (settleGroup gi s).versionView = s.versionView := by
  refine foldl_versionView (fun u tid => ?_) _ s
  split <;> simp

/-! #### One object in force -/

/-- Holding a pin back comes first; then one effect, by the object's key. -/
@[simp] theorem State.settleValue_versionView (before : State) (key : Nat) : (s.settleValue before key).versionView = s.versionView := by
  have pin : (if isPin key then s.holdPin key (before.cfg (key / 256) (key % 256)) else s).versionView = s.versionView := by
    split_ifs <;> simp
  unfold State.settleValue
  dsimp only
  generalize (if isPin key then s.holdPin key (before.cfg (key / 256) (key % 256)) else s) = s1 at pin ⊢
  split_ifs
  · rw [foldl_versionView fun t i => t.pinNarrow_versionView i, pin]
  · rw [State.bump_versionView, foldl_versionView fun t k => ?_, pin]
    split_ifs <;> simp
  · rw [settleGroup_versionView, pin]
  · rw [settleTable_versionView, pin]
  · exact pin

end

/-! ### What preparing a value leaves unchanged (R193, R300) -/

section
variable {s t : State}

theorem placeIn_versionView {q tier kind tid size : Nat} (h : placeIn s q tier kind tid size = some t) : t.versionView = s.versionView := by
  simp only [placeIn] at h
  split at h
  · cases h
  · cases h; simp

theorem placeAll_versionView {tid : Nat} {l : List (Nat × Nat × Nat)} (h : placeAll s tid l = some t) : t.versionView = s.versionView := by
  induction l generalizing s with
  | nil => cases h; rfl
  | cons e l ih =>
    simp only [placeAll] at h
    split at h
    next u hu => exact (ih h).trans (placeIn_versionView hu)
    next => cases h

theorem allocate_versionView {r : BitVec 512} {n : Nat} (h : allocate s r n = some t) : t.versionView = s.versionView := by
  simp only [allocate] at h
  split_ifs at h
  · cases h; rfl
  · exact placeAll_versionView h

theorem reallocate_versionView {tid : Nat} {g : BitVec 512} (h : reallocate s tid g = some t) : t.versionView = s.versionView := by
  simp only [reallocate] at h
  split at h
  · cases h
  · exact (allocate_versionView h).trans (freeAll_versionView s tid)

theorem regroup_versionView {gi : Nat} {old new : BitVec 512} {l : List Nat} (h : regroup s gi old new l = some t) :
    t.versionView = s.versionView := by
  induction l generalizing s with
  | nil => cases h; rfl
  | cons tid l ih =>
    simp only [regroup] at h
    split at h
    next => cases h
    next u hu =>
      rw [ih h, ← reallocate_versionView hu]
      split_ifs <;> simp

theorem allocStores_versionView (h : allocStores s = some t) : t.versionView = s.versionView := by
  revert t
  refine List.foldlRecOn (motive := fun (o : Option State) => ∀ {t}, o = some t → t.versionView = s.versionView) _ _
    (fun h => by cases h; rfl) fun o ho e _ t h => ?_
  split at h
  next => cases h
  next u => exact (placeIn_versionView h).trans (ho rfl)

end

@[simp] theorem prepareGroup_versionView (gi : Nat) (g : BitVec 512) (s : State) : (prepareGroup gi g s).1.versionView = s.versionView := by
  simp only [prepareGroup]
  split_ifs
  · rfl
  · split
    next => rfl
    next u h => exact regroup_versionView h

@[simp] theorem prepareTable_versionView (table : Option Membership) (s : State) : (prepareTable table s).1.versionView = s.versionView := by
  simp only [prepareTable]
  split
  · rfl
  · split
    next => rfl
    next u h => exact (allocStores_versionView h).trans (s.ledger_versionView _)

@[simp] theorem State.prepareValue_versionView (s : State) (key : Nat) (v : List Byte) : (s.prepareValue key v).1.versionView = s.versionView := by
  simp only [State.prepareValue]
  split_ifs <;> simp

@[simp] theorem prepareAll_versionView (cfg : Tbl (List Byte)) (keys : List Nat) (s : State) :
    (prepareAll cfg keys s).1.versionView = s.versionView := by
  induction keys generalizing s with
  | nil => rfl
  | cons k l ih =>
    simp only [prepareAll]
    split_ifs
    · rfl
    · rw [ih, State.prepareValue_versionView]

/-! ### The one step (R394) -/

/-- The first changed object that an owner does not release, with its status. -/
abbrev State.ownerFails (s : State) (cfg : Tbl (List Byte)) (keys : List Nat) : Option (Nat × Nat) :=
  firstKey (fun k => ownerStatus s k (savedBytes cfg k)) keys

section
variable {s : State} {cfg : Tbl (List Byte)} {keys : List Nat}

theorem State.adopt_of_ownerFails {e : Nat × Nat} (h : s.ownerFails cfg keys = some e) : s.adopt cfg keys true = (s, e.1, e.2) := by
  simp [State.adopt, h]

theorem State.adopt_of_crossFails {e : Nat × Nat} (ho : s.ownerFails cfg keys = none) (h : firstKey (crossStatus s cfg) keys = some e) :
    s.adopt cfg keys true = (s, e.1, e.2) := by
  simp [State.adopt, ho, h]

/-- Where every check passes, the configuration is in force as a new version, and no effect of an object undoes that. -/
theorem State.adopt_of_passes (ho : s.ownerFails cfg keys = none) (hc : firstKey (crossStatus s cfg) keys = none)
    (hp : (prepareAll cfg keys s).2.1 = stOk) :
    ∃ t, s.adopt cfg keys true = (t, stOk, 0) ∧ t.versionView = (s.newConfig cfg).versionView := by
  refine ⟨_, by simp only [State.adopt, ho, hc, hp]; rfl, ?_⟩
  rw [foldl_versionView fun t k => t.settleValue_versionView s k]
  simp

end

/-! ### REVERT (R395) -/

theorem exec_revert_served {s : State} {cl : Client} (h : Serves s cl false) :
    exec (.revert cl) s = .next ((doRevert s.asked).1.answer (doRevert s.asked).2) :=
  congrArg Host.Outcome.next (State.command_served doRevert h)

theorem doRevert_of_draft {s : State} (hv : s.sivar.prevVersion ≠ 0) (hd : s.sivar.draft ≠ none) : doRevert s = (s, stBusy) := by
  simp [doRevert, hv, Option.isSome_iff_ne_none.mpr hd]

/-- Without a draft it is the step of a commit on the objects that differ, with its report. -/
theorem doRevert_of_no_draft {s t : State} {r : Nat × Nat} (hv : s.sivar.prevVersion ≠ 0) (hd : s.sivar.draft = none)
    (h : s.adopt s.sivar.previous (configChanges s.sivar.config s.sivar.previous) true = (t, r)) :
    doRevert s = (t.reportCommit r, r.1) := by
  simp [doRevert, hv, hd, h]

theorem State.reportCommit_of_fails (s : State) {st : Nat} (key : Nat) (h : st ≠ stOk) :
    s.reportCommit (st, key) = { s with sivar := { s.sivar with report := (0, st, key) } } := by
  simp [State.reportCommit, h]

/-- A check that fails is answered and reported, and nothing else changes. -/
theorem exec_revert_of_fails {s : State} {cl : Client} (h : Serves s cl false) (hv : s.sivar.prevVersion ≠ 0) (hd : s.sivar.draft = none)
    {st key : Nat} (hs : st ≠ stOk)
    (ha : s.asked.adopt s.sivar.previous (configChanges s.sivar.config s.sivar.previous) true = (s.asked, st, key)) :
    exec (.revert cl) s = .next { s with sivar := { s.sivar with report := (0, st, key) }, resp := answered st } := by
  rw [exec_revert_served h, doRevert_of_no_draft (s := s.asked) hv hd ha, State.reportCommit_of_fails _ key hs]
  rfl

/-- Settles O50: REVERT is the step of a commit on the objects that differ, whose effects leave the versions as the new configuration
sets them. -/
theorem revertMakesThePreviousCurrent : Obligations.RevertMakesThePreviousCurrent := by
  intro s cl hserve hv keys
  refine ⟨fun hd => ?busy, fun hd => ⟨fun ho hc hp => ?passes, fun st key ho hst => ?owner, fun st key ho hc hst => ?cross⟩⟩
  case busy =>
    rw [exec_revert_served hserve, doRevert_of_draft (s := s.asked) hv hd]
    rfl
  case passes =>
    obtain ⟨t, ha, ht⟩ := State.adopt_of_passes ho hc hp
    obtain ⟨hresp, hsivar⟩ := Prod.mk.inj ht
    obtain ⟨hcfg, hprev, hver, hpver, -⟩ := Sivar.mk.inj hsivar
    refine ⟨(t.reportCommit (stOk, 0)).answer stOk, ?_, ?_, hcfg, hprev, hver, hpver, ?_⟩
    · rw [exec_revert_served hserve, doRevert_of_no_draft (s := s.asked) hv hd ha]
    · exact State.answer_of_cleared _ _ hresp
    · exact congrArg (·, stOk, 0) hver
  case owner => exact exec_revert_of_fails hserve hv hd hst (State.adopt_of_ownerFails ho)
  case cross => exact exec_revert_of_fails hserve hv hd hst (State.adopt_of_crossFails ho hc)

end Sys2Proof.Machine
end

section
/-! SUPPORT. What an operation of a client can change where the controller does not serve, or where the client is below OPERATOR
(R321, R376, R402): the guards that every such row passes. -/

namespace Sys2Proof.Machine

/-- What a client's operation changes at most: nothing without service or without a connection, and the answer alone where the client
is below OPERATOR. -/
structure ClientGuarded (cl : Client) (s t : State) : Prop where
  unserved : s.serving = false → t = s
  unconnected : s.roleOf cl = none → t = s
  belowOperator : ∀ r, s.roleOf cl = some r → r < 2 → t = { s with resp := t.resp }

namespace ClientGuarded

variable {cl : Client} {s t : State}

theorem command (a : Bool) (f : State → State × Nat) : ClientGuarded cl s (s.command cl a f) where
  unserved := s.command_unserved cl a f
  unconnected := s.command_unconnected cl a f
  belowOperator := s.command_frame_of_low_role cl a f

theorem loaderCommand (a : Bool) (f : State → State × Nat) : ClientGuarded cl s (s.loaderCommand cl a f) where
  unserved := s.loaderCommand_unserved cl a f
  unconnected := s.loaderCommand_unconnected cl a f
  belowOperator r hr hlow := by
    cases hs : s.serving with
    | false => rw [s.loaderCommand_unserved cl a f hs]
    | true => rw [s.loaderCommand_refused cl a f r stAuth hs hr (clientStatus_of_low_role a hr hlow)]

theorem hostCommand (f : State → State × Nat) : ClientGuarded cl s (s.hostCommand cl f) where
  unserved h := by simp [State.hostCommand, h]
  unconnected h := by simp [State.hostCommand, h]
  belowOperator r hr hlow := by
    unfold State.hostCommand
    split_ifs
    · rfl
    · simp [hr, hlow, State.answer]

/-- The state is the given one up to its answer. -/
def SameButAnswer (s t : State) : Prop := t = { s with resp := t.resp }

theorem sameButAnswer_answer {u : State} (h : SameButAnswer s u) (st : Nat) : SameButAnswer s (u.answer st) := by
  rw [SameButAnswer] at h ⊢
  rw [h]
  rfl

theorem sameButAnswer_answerData {u : State} (h : SameButAnswer s u) (bs : List Byte) : SameButAnswer s (u.answerData bs) := by
  rw [SameButAnswer] at h ⊢
  rw [h]
  rfl

theorem sameButAnswer_asked (s : State) : SameButAnswer s { s with resp := {} } := rfl

theorem sameButAnswer_readTicket {u : State} (h : SameButAnswer s u) (n : Nat) : SameButAnswer s (u.readTicket n) := by
  unfold State.readTicket
  split
  · exact sameButAnswer_answerData h _
  · exact sameButAnswer_answer h _

/-- Below OPERATOR only the reading operations are allowed (R402). -/
theorem reading_of_roleAllows {r op idx sub : Nat} (hlow : r < 2) (h : roleAllows r op idx sub = true) : op = 1 ∨ op = 4 ∨ op = 5 ∨ op = 7 := by
  have h3 : r ≠ 3 := by omega
  have h2 : r ≠ 2 := by omega
  simpa [roleAllows, h2, h3, or_assoc] using h

/-- The object's part of a read, a segment read or a description changes the answer alone. -/
theorem sameButAnswer_operate {u : State} (h : SameButAnswer s u) (o : SivarOp) (info : ObjInfo) (hop : o.op = 1 ∨ o.op = 4 ∨ o.op = 5) :
    SameButAnswer s (u.operate cl o info) := by
  unfold State.operate
  dsimp only
  split
  · exact sameButAnswer_answer h _
  · rw [if_neg (by omega)]
    obtain hop | hop | hop := hop <;> rw [hop]
    · exact sameButAnswer_answerData h _
    · exact sameButAnswer_answerData h _
    · change SameButAnswer s (if _ < o.offset then _ else _)
      split
      · exact sameButAnswer_answer h _
      · exact sameButAnswer_answerData h _

/-- An operation of a client below OPERATOR changes the answer alone, whatever it asks for. -/
theorem sameButAnswer_perform (o : SivarOp) {r : Nat} (hr : s.roleOf cl = some r) (hlow : r < 2) : SameButAnswer s (s.perform cl o) := by
  have asked := sameButAnswer_asked s
  unfold State.perform
  dsimp only
  rw [hr]
  dsimp only
  split
  · exact sameButAnswer_answer asked _
  · split
    · split
      · exact sameButAnswer_answer asked _
      · exact sameButAnswer_readTicket asked _
    · split
      · exact sameButAnswer_answer asked _
      · exact sameButAnswer_answer asked _
      · split_ifs with hrole
        · exact sameButAnswer_answer asked _
        · exact sameButAnswer_answer asked _
        · exact sameButAnswer_answer asked _
        · have hread := reading_of_roleAllows hlow (by simpa using hrole)
          exact sameButAnswer_operate asked o _ (by omega)

theorem single (o : SivarOp) : ClientGuarded cl s (s.single cl o) where
  unserved h := by simp [State.single, h]
  unconnected h := by simp [State.single, h]
  belowOperator r hr hlow := by
    unfold State.single
    split_ifs
    · rfl
    · have h := sameButAnswer_perform o hr hlow
      dsimp only
      rw [SameButAnswer] at h
      rw [h]

/-- A row that names its partition does what its command does, or stops. -/
theorem of_onPart {p : Nat} {u : State} (h : ClientGuarded cl s u) (he : onPart p u = .next t) : ClientGuarded cl s t := by
  unfold onPart at he
  split_ifs at he
  cases he
  exact h

theorem of_next {u : State} (h : ClientGuarded cl s u) (he : (.next u : Out) = .next t) : ClientGuarded cl s t := by
  cases he
  exact h

end ClientGuarded

open ClientGuarded in
/-- Every row that is a client's operation is guarded. -/
theorem exec_clientGuarded {i : Instr} {cl : Client} {s t : State} (hcl : clientOf i = some cl) (he : exec i s = .next t) :
    ClientGuarded cl s t := by
  cases i <;> cases hcl
  case windowSet | dmaDisable | preempt | partitionHalt | partitionEnd | withdraw | launch | resume | cancel | reset | recover | coreReset
      | berthReset =>
    exact of_onPart (command _ _) he
  case read | write | describe | readSeg | writeSeg | ticket => exact of_next (single _) he
  case offer | accept | take => exact of_next (hostCommand _) he
  case firmwareUpload | apply => exact of_next (loaderCommand _ _) he
  all_goals exact of_next (command _ _) he

/-- Settles O57: every client's row is guarded by the service and by the client's role. -/
theorem onlyOperatorsChangeAnything : Obligations.OnlyOperatorsChangeAnything :=
  ⟨fun _ _ _ _ hcl hs he => (exec_clientGuarded hcl he).unserved hs,
    fun _ _ _ r _ hcl hr hlow he => (exec_clientGuarded hcl he).belowOperator r hr hlow,
    fun _ _ _ _ hcl hr he => (exec_clientGuarded hcl he).unconnected hr⟩

end Sys2Proof.Machine
end

section
/-! SUPPORT. The byte memories of the state as one view, and that an operation which stores no byte leaves them as they are. -/

namespace Sys2Proof.Machine

/-- The four byte memories: scratchpads, DRAM, flash and mailboxes. -/
def State.memories (s : State) : List Host.Cell × List Host.Cell × List Host.Cell × List Host.Cell := (s.pad, s.dram, s.flash, s.mail)

@[simp] theorem memories_mk : ∀ x1 x2 x3 x4 x5 x6 x7 x8 x9 x10 x11 pad x12 x13 x14 x15 x16 x17 x18 x19 x20 x21 x22 dram flash x23 x24 x25 x26 x27 x28
      x29 x30 x31 x32 x33 x34 x35 x36 x37 x38 mail x39 x40 x41,
    (State.mk x1 x2 x3 x4 x5 x6 x7 x8 x9 x10 x11 pad x12 x13 x14 x15 x16 x17 x18 x19 x20 x21 x22 dram flash x23 x24 x25 x26 x27 x28 x29 x30 x31 x32
      x33 x34 x35 x36 x37 x38 mail x39 x40 x41).memories = (pad, dram, flash, mail) := by
  intros; rfl

@[simp] theorem memories_fold (s : State) : (s.pad, s.dram, s.flash, s.mail) = s.memories := by rfl

theorem State.ledger_memories (s : State) (l : Ledger) : ({ s with ledger := l } : State).memories = s.memories := by rfl

@[simp] theorem memories_ite {p : Prop} [Decidable p] (s t : State) : (if p then s else t).memories = if p then s.memories else t.memories :=
  apply_ite State.memories p s t

@[simp] theorem fst_ite {α β : Type} {p : Prop} [Decidable p] (a b : α × β) : (if p then a else b).1 = if p then a.1 else b.1 := apply_ite Prod.fst p a b

@[simp] theorem foldl_memories {α : Type} {f : State → α → State} (hf : ∀ t a, (f t a).memories = t.memories) (l : List α) (s : State) :
    (l.foldl f s).memories = s.memories :=
  List.foldlRecOn (motive := fun t => t.memories = s.memories) l f rfl fun t ht a _ => (hf t a).trans ht

theorem foldl_fst_memories {α β : Type} {f : State × β → α → State × β} (hf : ∀ t a, (f t a).1.memories = t.1.memories) (l : List α)
    (s : State × β) : (l.foldl f s).1.memories = s.1.memories :=
  List.foldlRecOn (motive := fun t => t.1.memories = s.1.memories) l f rfl fun t ht a _ => (hf t a).trans ht


/-! ### Of Machine/Ops.lean -/

@[simp] theorem State.advance_memories (s : State) (t : Nat) : (s.advance t).memories = s.memories := by rfl
@[simp] theorem State.setCore_memories (s : State) (c : Nat) (v : Core) : (s.setCore c v).memories = s.memories := by rfl
@[simp] theorem State.setHeal_memories (s : State) (c : Nat) (v : CoreHealth) : (s.setHeal c v).memories = s.memories := by rfl
@[simp] theorem State.setPart_memories (s : State) (p : Nat) (v : Partition) : (s.setPart p v).memories = s.memories := by rfl
@[simp] theorem State.setCtl_memories (s : State) (p : Nat) (v : PartControl) : (s.setCtl p v).memories = s.memories := by rfl
@[simp] theorem State.setTile_memories (s : State) (t : Nat) (v : Tile) : (s.setTile t v).memories = s.memories := by rfl
@[simp] theorem State.setGantry_memories (s : State) (x : Nat) (v : Gantry) : (s.setGantry x v).memories = s.memories := by rfl
@[simp] theorem State.setSlot_memories (s : State) (k : Nat) (v : ImageSlot) : (s.setSlot k v).memories = s.memories := by rfl
@[simp] theorem State.setQuay_memories (s : State) (q : Nat) (v : Quay) : (s.setQuay q v).memories = s.memories := by rfl
@[simp] theorem State.setTensor_memories (s : State) (t : Nat) (v : Tensor) : (s.setTensor t v).memories = s.memories := by rfl
@[simp] theorem State.setIntake_memories (s : State) (k : Nat) (v : Intake) : (s.setIntake k v).memories = s.memories := by rfl
@[simp] theorem State.setGov_memories (s : State) (p : Nat) (v : Governor) : (s.setGov p v).memories = s.memories := by rfl
@[simp] theorem State.setPair_memories (s : State) (p : Nat) (v : Pair) : (s.setPair p v).memories = s.memories := by rfl
@[simp] theorem State.setPort_memories (s : State) (i : Nat) (v : Port) : (s.setPort i v).memories = s.memories := by rfl
@[simp] theorem State.setHost_memories (s : State) (i : Nat) (v : HostPort) : (s.setHost i v).memories = s.memories := by rfl
@[simp] theorem State.bump_memories (s : State) : (s.bump).memories = s.memories := by rfl
@[simp] theorem State.append_memories (s : State) (e0 : Event) : (s.append e0).memories = s.memories := by rfl
@[simp] theorem State.eventAt_memories (s : State) (time sev code unit detail : Nat) :
    (s.eventAt time sev code unit detail).memories = s.memories := by simp [State.eventAt]
@[simp] theorem State.event_memories (s : State) (sev code unit detail : Nat) : (s.event sev code unit detail).memories = s.memories := by
  simp [State.event]
@[simp] theorem State.journal_memories (s : State) (kind unit effect : Nat) : (s.journal kind unit effect).memories = s.memories := by rfl
@[simp] theorem State.journalDone_memories (s : State) (kind unit : Nat) : (s.journalDone kind unit).memories = s.memories := by rfl
@[simp] theorem State.decided_memories (s : State) (p kind unit value choice : Nat) :
    (s.decided p kind unit value choice).memories = s.memories := by rfl
@[simp] theorem State.decideNow_memories (s : State) (p kind unit value choice : Nat) :
    (s.decideNow p kind unit value choice).memories = s.memories := by rfl
@[simp] theorem State.idleCycle_memories (s : State) : (s.idleCycle).memories = s.memories := by rfl

/-! ### Of Machine/Operands.lean -/

@[simp] theorem State.raise_memories (s : State) (c : Nat) (cause : Cause) : (s.raise c cause).memories = s.memories := by
  unfold State.raise
  dsimp only
  (repeat' split) <;> simp
@[simp] theorem State.addCorrected_memories (s : State) (c n : Nat) : (s.addCorrected c n).memories = s.memories := by
  simp [State.addCorrected]
@[simp] theorem State.queueWriteBack_memories (s : State) (c row : Nat) : (s.queueWriteBack c row).memories = s.memories := by
  simp [State.queueWriteBack]
@[simp] theorem State.noteRow_memories (s : State) (c row : Nat) : (s.noteRow c row).memories = s.memories := by
  simp [State.noteRow]
@[simp] theorem State.noteRows_memories (s : State) (c first n : Nat) : (s.noteRows c first n).memories = s.memories := by
  simp [State.noteRows]
@[simp] theorem State.rowWritten_memories (s : State) (c row : Nat) : (s.rowWritten c row).memories = s.memories := by
  simp [State.rowWritten]
@[simp] theorem State.poisonRows_memories (s : State) (c first n : Nat) : (s.poisonRows c first n).memories = s.memories := by
  simp [State.poisonRows]
@[simp] theorem State.toIssue_memories (s : State) (c : Nat) : (s.toIssue c).memories = s.memories := by rfl
@[simp] theorem State.stallBundle_memories (s : State) (c : Nat) : (s.stallBundle c).memories = s.memories := by rfl
@[simp] theorem State.waitBundle_memories (s : State) (c : Nat) : (s.waitBundle c).memories = s.memories := by rfl
@[simp] theorem State.stopBundle_memories (s : State) (c : Nat) (cause : Cause) : (s.stopBundle c cause).memories = s.memories := by
  simp [State.stopBundle]
@[simp] theorem issueSlot_memories (s : State) (c : Nat) (ask : SlotAsk) (put : IssueState → Nat → IssueState) :
    (issueSlot s c ask put).memories = s.memories := by
  unfold issueSlot
  dsimp only
  split
  · simp
  · split
    · simp
    · split
      · simp
      · split <;> simp
@[simp] theorem setSlot_memories (s : State) (c : Nat) (f : IssueState → IssueState) : (setSlot s c f).memories = s.memories := by
  unfold setSlot
  dsimp only
  split <;> simp

/-! ### Of Machine/Springbok.lean -/

@[simp] theorem runSvld_memories (s : State) (c : Nat) (i : SpbInstr) (src : Span) : (runSvld s c i src).memories = s.memories := by
  simp [runSvld]
@[simp] theorem runSmv_memories (s : State) (c : Nat) (i : SpbInstr) (src : Span) (scales : Option Span) :
    (runSmv s c i src scales).memories = s.memories := by
  simp only [runSmv]
  split <;> simp
@[simp] theorem spbTaken_memories (s : State) (c : Nat) (i : SpbInstr) (t : State) : (spbTaken s c i t).memories = t.memories := by rfl
@[simp] theorem runSclr_memories (s : State) (c : Nat) : (runSclr s c).memories = s.memories := by rfl

/-! ### Of Machine/Vector.lean -/

@[simp] theorem setBank_memories (s : State) (c b : Nat) (vs : List (F32 × Bool)) : (setBank s c b vs).memories = s.memories := by rfl
@[simp] theorem vecTaken_memories (s : State) (c : Nat) (i : VecInstr) (t : State) : (vecTaken s c i t).memories = t.memories := by rfl
@[simp] theorem issueVec_memories (s : State) (c : Nat) (op : VecOp) (sel src dst sub : Nat) (sum sr accd : Bool) :
    (issueVec s c op sel src dst sub sum sr accd).memories = s.memories := by
  unfold issueVec
  dsimp only
  split <;> simp

/-! ### Of Machine/Array.lean -/

@[simp] theorem issueArr_memories (s : State) (c : Nat) (op : ArrOp) (sel src dst : Nat) (sr drain acc seedz : Bool) :
    (issueArr s c op sel src dst sr drain acc seedz).memories = s.memories := by
  unfold issueArr
  dsimp only
  split <;> simp
@[simp] theorem State.addFreezes_memories (s : State) (c n : Nat) : (s.addFreezes c n).memories = s.memories := by rfl
@[simp] theorem swapWs_memories (s : State) (c : Nat) (k : Core) (i : ArrInstr) (b : TileBank) : (swapWs s c k i b).memories = s.memories := by
  unfold swapWs
  extract_lets
  split
  · rfl
  · rw [State.bump_memories, apply_ite State.memories, State.raise_memories, ite_self, apply_ite State.memories]
    split
    · split <;> simp
    · simp
@[simp] theorem swapOsp_memories (s : State) (c : Nat) (k : Core) (i : ArrInstr) : (swapOsp s c k i).memories = s.memories := by
  simp [swapOsp]

/-! ### Of Machine/Fabric.lean -/

@[simp] theorem State.sendPacket_memories (s : State) (q : Nat) (f : FabHead) (payload : List Byte) :
    (s.sendPacket q f payload).memories = s.memories := by
  simp only [State.sendPacket]
  split <;> simp
@[simp] theorem State.putPacket_memories (s : State) (q : Nat) (h : BitVec 256) (payload : List Byte) :
    (s.putPacket q h payload).memories = s.memories := by
  simp only [State.putPacket]
  split <;> simp
@[simp] theorem State.resendFabric_memories (s : State) (port : Nat) : (s.resendFabric port).memories = s.memories := by
  simp [State.resendFabric]
@[simp] theorem State.forwardRow_memories (s : State) (p : NetPacket) : (s.forwardRow p).memories = s.memories := by
  simp only [State.forwardRow]
  split <;> simp

/-! ### Of Machine/Access.lean -/

@[simp] theorem State.answer_memories (s : State) (status : Nat) : (s.answer status).memories = s.memories := by rfl
@[simp] theorem State.answerData_memories (s : State) (data : List Byte) : (s.answerData data).memories = s.memories := by rfl
@[simp] theorem State.newConfig_memories (s : State) (cfg : Tbl (List Byte)) : (s.newConfig cfg).memories = s.memories := by rfl
@[simp] theorem State.save_memories (s : State) (idx sub : Nat) (v : List Byte) : (s.save idx sub v).1.memories = s.memories := by
  simp [State.save]
@[simp] theorem State.openTicket_memories (s : State) (idx sub : Nat) : (s.openTicket idx sub).memories = s.memories := by rfl
@[simp] theorem State.closeTicket_memories (s : State) (idx sub status : Nat) : (s.closeTicket idx sub status).memories = s.memories := by rfl
@[simp] theorem State.endTicket_memories (s : State) (n status : Nat) : (s.endTicket n status).memories = s.memories := by rfl

/-! ### Of Machine/Net.lean -/

@[simp] theorem State.inject_memories (s : State) (c : Nat) (p : NetPacket) : (s.inject c p).memories = s.memories := by
  simp [State.inject]
@[simp] theorem State.injectSome_memories (s : State) (c : Nat) (p : Option NetPacket) : (s.injectSome c p).memories = s.memories := by
  simp only [State.injectSome]
  split <;> simp
@[simp] theorem State.useTransit_memories (s : State) (p y : Nat) (east : Bool) (cycle : Nat) :
    (s.useTransit p y east cycle).memories = s.memories := by rfl

/-! ### Of Machine/Cores.lean -/

@[simp] theorem State.putWindow_memories (s : State) (c win : Nat) (map : BitVec 128) : (s.putWindow c win map).memories = s.memories := by rfl
@[simp] theorem doWindowSet_memories (p c win : Nat) (map : BitVec 128) (s : State) : (doWindowSet p c win map s).1.memories = s.memories := by
  simp [doWindowSet]
@[simp] theorem State.turnBack_memories (s : State) (c : Nat) (f : Sender) : (s.turnBack c f).memories = s.memories := by
  simp [State.turnBack]
@[simp] theorem State.rejectRow_memories (s : State) (c : Nat) (f : Sender) : (s.rejectRow c f).memories = s.memories := by
  simp [State.rejectRow]
@[simp] theorem State.sendResponse_memories (s : State) (c : Nat) : (s.sendResponse c).memories = s.memories := by
  simp only [State.sendResponse]
  split <;> simp
@[simp] theorem State.sendResponses_memories (s : State) (c : Nat) : (s.sendResponses c).memories = s.memories := by
  simp [State.sendResponses]
@[simp] theorem State.loadSegment_memories (s : State) (c : Nat) (seg : Segment) : (s.loadSegment c seg).memories = s.memories := by rfl

/-! ### Of Machine/Dma.lean -/

@[simp] theorem State.rejectDesc_memories (s : State) (c ch : Nat) (pd : Pending) (outcome : Nat) :
    (s.rejectDesc c ch pd outcome).memories = s.memories := by
  simp only [State.rejectDesc]
  split <;> simp
@[simp] theorem State.waitBegin_memories (s : State) (c ch : Nat) (pd : Pending) : (s.waitBegin c ch pd).memories = s.memories := by rfl
@[simp] theorem State.heldBegin_memories (s : State) (c ch : Nat) (pd : Pending) (cause : Cause) :
    (s.heldBegin c ch pd cause).memories = s.memories := by simp [State.heldBegin]
@[simp] theorem State.notServed_memories (s : State) (c ch port : Nat) : (s.notServed c ch port).memories = s.memories := by
  simp [State.notServed]
@[simp] theorem State.serve_memories (s : State) (c ch : Nat) (a : RowAct) (early : Nat) : (s.serve c ch a early).memories = s.memories := by rfl
@[simp] theorem State.sendRow_memories (s : State) (c ch k : Nat) (row : Row) : (s.sendRow c ch k row).memories = s.memories := by
  simp only [State.sendRow]
  split <;> simp
@[simp] theorem State.sendRequest_memories (s : State) (c ch : Nat) : (s.sendRequest c ch).memories = s.memories := by
  simp only [State.sendRequest]
  split <;> simp
@[simp] theorem State.readLocal_memories (s : State) (c ch : Nat) : (s.readLocal c ch).memories = s.memories := by
  simp [State.readLocal]
@[simp] theorem State.completeChannel_memories (s : State) (c ch : Nat) : (s.completeChannel c ch).memories = s.memories := by
  simp only [State.completeChannel]
  split <;> simp

/-! ### Of Machine/Gantry.lean -/

@[simp] theorem State.tapBeat_memories (s : State) (c : Nat) (north : Bool) (b : Beat) : (s.tapBeat c north b).memories = s.memories := by
  simp [State.tapBeat]

/-! ### Of Machine/Sparing.lean -/

@[simp] theorem State.notePort_memories (s : State) (i : Nat) (old : Port) : (s.notePort i old).memories = s.memories := by
  simp [State.notePort]
@[simp] theorem State.dropWavelength_memories (s : State) (i w : Nat) : (s.dropWavelength i w).memories = s.memories := by
  simp [State.dropWavelength]
@[simp] theorem State.markUnusable_memories (s : State) (t : Nat) : (s.markUnusable t).memories = s.memories := by
  simp [State.markUnusable]
@[simp] theorem State.loseColumn_memories (s : State) (t col : Nat) : (s.loseColumn t col).memories = s.memories := by
  simp [State.loseColumn]
@[simp] theorem State.moveHealth_memories (s : State) (t col f : Nat) : (s.moveHealth t col f).memories = s.memories := by
  simp [State.moveHealth]
@[simp] theorem State.noteShift_memories (s : State) (site used : Nat) : (s.noteShift site used).memories = s.memories := by rfl
@[simp] theorem State.reparent_memories (s : State) (t : Nat) : (s.reparent t).memories = s.memories := by
  simp [State.reparent]
@[simp] theorem State.addFault_memories (s : State) (p : Nat) (f : PFault) : (s.addFault p f).memories = s.memories := by
  simp [State.addFault]
@[simp] theorem State.addFaults_memories (s : State) (ps : List Nat) (f : PFault) : (s.addFaults ps f).memories = s.memories := by
  simp [State.addFaults]

/-! ### Of Machine/Resets.lean -/

@[simp] theorem State.clearDamage_memories (s : State) (tid v : Nat) : (s.clearDamage tid v).memories = s.memories := by rfl
@[simp] theorem State.retireVersion_memories (s : State) (tid v : Nat) : (s.retireVersion tid v).memories = s.memories := by rfl
@[simp] theorem State.retireUnnamed_memories (s : State) (tid : Nat) : (s.retireUnnamed tid).memories = s.memories := by
  simp [State.retireUnnamed]
@[simp] theorem State.settle_memories (s : State) (q tid : Nat) : (s.settle q tid).memories = s.memories := by
  simp [State.settle]
@[simp] theorem State.cancelFetches_memories (s : State) (p : Nat) : (s.cancelFetches p).memories = s.memories := by
  simp [State.cancelFetches]
@[simp] theorem State.clearEgress_memories (s : State) (p : Nat) : (s.clearEgress p).memories = s.memories := by rfl
@[simp] theorem State.freshCredits_memories (s : State) (p : Nat) : (s.freshCredits p).memories = s.memories := by
  simp [State.freshCredits]
@[simp] theorem State.clearColumns_memories (s : State) (p : Nat) : (s.clearColumns p).memories = s.memories := by
  simp [State.clearColumns]
@[simp] theorem State.withdrawPreempt_memories (s : State) (p status : Nat) : (s.withdrawPreempt p status).memories = s.memories := by
  simp only [State.withdrawPreempt]
  split <;> simp

/-! ### Of Machine/Clocks.lean -/

@[simp] theorem State.startClock_memories (s : State) (t : Nat) : (s.startClock t).memories = s.memories := by
  simp [State.startClock]

/-! ### Of Machine/Tensors.lean -/

theorem placeIn_memories {s t : State} {q tier kind tid size : Nat} (h : placeIn s q tier kind tid size = some t) : t.memories = s.memories := by
  simp only [placeIn] at h
  split at h
  · cases h
  · cases h; simp
theorem placeAll_memories {s t : State} {tid : Nat} {l : List (Nat × Nat × Nat)} (h : placeAll s tid l = some t) : t.memories = s.memories := by
  induction l generalizing s with
  | nil => cases h; rfl
  | cons e l ih =>
    simp only [placeAll] at h
    split at h
    next u hu => exact (ih h).trans (placeIn_memories hu)
    next => cases h
@[simp] theorem freeAll_memories (s : State) (tid : Nat) : (freeAll s tid).memories = s.memories := by rfl
@[simp] theorem State.forgetTensor_memories (s : State) (tid : Nat) : (s.forgetTensor tid).memories = s.memories := by rfl
theorem allocate_memories {s t : State} {r : BitVec 512} {n : Nat} (h : allocate s r n = some t) : t.memories = s.memories := by
  simp only [allocate] at h
  split_ifs at h
  · cases h; simp
  · exact placeAll_memories h
@[simp] theorem doTensorCreate_memories (r : BitVec 512) (s : State) : (doTensorCreate r s).1.memories = s.memories := by
  unfold doTensorCreate
  iterate 3 split; rfl
  dsimp only
  split
  · split
    · simp
    · split
      · rfl
      next h => simpa using allocate_memories h
  · split
    · rfl
    next h => simpa using allocate_memories h
@[simp] theorem doTensorDelete_memories (id : Nat) (s : State) : (doTensorDelete id s).1.memories = s.memories := by
  simp [doTensorDelete]
@[simp] theorem doPinEdit_memories (id lead residency : Nat) (s : State) : (doPinEdit id lead residency s).1.memories = s.memories := by
  simp only [doPinEdit]
  split <;> simp
@[simp] theorem State.openSlot_memories (s : State) (tid v : Nat) : (s.openSlot tid v).memories = s.memories := by
  simp [State.openSlot]
@[simp] theorem State.commitVersion_memories (s : State) (tid v : Nat) : (s.commitVersion tid v).memories = s.memories := by
  simp only [State.commitVersion]
  split <;> simp
@[simp] theorem State.seedMaster_memories (s : State) (tid : Nat) (r : BitVec 512) (v : Version) :
    (s.seedMaster tid r v).memories = s.memories := by simp [State.seedMaster]
@[simp] theorem State.beginCheckpoint_memories (s : State) (n tid : Nat) : (s.beginCheckpoint n tid).memories = s.memories := by
  simp only [State.beginCheckpoint]
  split <;> simp
@[simp] theorem doCheckpoint_memories (id : Nat) (s : State) : (doCheckpoint id s).1.memories = s.memories := by
  simp [doCheckpoint]
@[simp] theorem State.quayReject_memories (s : State) (q offset : Nat) (flash : Bool) :
    (s.quayReject q offset flash).memories = s.memories := by rfl
@[simp] theorem State.answerRow_memories (s : State) (q srcModule srcCore offset type : Nat) (data : Option Row) :
    (s.answerRow q srcModule srcCore offset type data).memories = s.memories := by simp [State.answerRow]

/-! ### Of Machine/Fetch.lean -/

@[simp] theorem State.exclude_memories (s : State) (q p step outer : Nat) : (s.exclude q p step outer).memories = s.memories := by
  simp [State.exclude]
@[simp] theorem State.measureSegments_memories (s : State) (q p rec step outer : Nat) (r : BitVec 512) :
    (s.measureSegments q p rec step outer r).memories = s.memories := by
  simp only [State.measureSegments]
  split <;> simp
@[simp] theorem State.listLead_memories (s : State) (q p : Nat) (old : Quay) (e : BitVec 512 × Nat) :
    (s.listLead q p old e).memories = s.memories := by
  simp only [State.listLead]
  split <;> simp
@[simp] theorem State.listResidency_memories (s : State) (q p tid : Nat) : (s.listResidency q p tid).memories = s.memories := by
  simp only [State.listResidency]
  split <;> simp
@[simp] theorem State.pinResidency_memories (s : State) (q p : Nat) : (s.pinResidency q p).memories = s.memories := by
  simp [State.pinResidency]
@[simp] theorem State.leadGovernor_memories (s : State) (q p : Nat) : (s.leadGovernor q p).memories = s.memories := by
  simp [State.leadGovernor]
@[simp] theorem State.residencyMark_memories (s : State) (q p : Nat) : (s.residencyMark q p).memories = s.memories := by
  simp [State.residencyMark]

/-! ### Of Machine/Gradients.lean -/

@[simp] theorem State.openEgress_memories (s : State) (p : Nat) (insts : List (Nat × Nat × Nat)) :
    (s.openEgress p insts).memories = s.memories := by
  unfold State.openEgress
  refine foldl_memories (fun t x => ?_) _ s
  dsimp only
  (repeat' split) <;> simp
@[simp] theorem State.rejectEgress_memories (s : State) (p : Option Nat) : (s.rejectEgress p).memories = s.memories := by
  simp only [State.rejectEgress]
  split <;> simp
@[simp] theorem State.sendFrame_memories (s : State) (key : Nat) : (s.sendFrame key).memories = s.memories := by
  unfold State.sendFrame
  dsimp only
  (repeat' split) <;> simp
@[simp] theorem State.sendFrames_memories (s : State) (key : Nat) : (s.sendFrames key).memories = s.memories := by
  simp [State.sendFrames]
@[simp] theorem State.resendFrame_memories (s : State) (key i : Nat) : (s.resendFrame key i).memories = s.memories := by
  unfold State.resendFrame
  dsimp only
  (repeat' split) <;> simp
@[simp] theorem State.resendFrames_memories (s : State) : (s.resendFrames).memories = s.memories := by
  refine foldl_memories (fun t key => foldl_memories (fun u i => ?_) _ t) _ s
  split
  · split_ifs <;> simp
  · rfl
@[simp] theorem State.returnFrames_memories (s : State) (q x n : Nat) : (s.returnFrames q x n).memories = s.memories := by
  simp [State.returnFrames]
@[simp] theorem State.countDrop_memories (s : State) (q p reason : Nat) : (s.countDrop q p reason).memories = s.memories := by rfl
@[simp] theorem State.dropFrame_memories (s : State) (q x p reason : Nat) : (s.dropFrame q x p reason).memories = s.memories := by
  simp [State.dropFrame]
@[simp] theorem State.setOptOf_memories (s : State) (tid : Nat) (o : OptState) : (s.setOptOf tid o).memories = s.memories := by rfl
@[simp] theorem State.addDense_memories (s : State) (r : BitVec 512) (h : BitVec 256) (pay : List Byte) :
    (s.addDense r h pay).memories = s.memories := by rfl
@[simp] theorem State.addRows_memories (s : State) (q j : Nat) (er r : BitVec 512) (h : BitVec 256) (pay : List Byte) :
    (s.addRows q j er r h pay).memories = s.memories := by
  unfold State.addRows
  dsimp only
  split
  · simp
  · simp only [State.bump_memories, State.setOptOf_memories, State.setQuay_memories]
@[simp] theorem State.addStats_memories (s : State) (q number : Nat) (h : BitVec 256) : (s.addStats q number h).memories = s.memories := by
  simp only [State.addStats]
  split <;> simp
@[simp] theorem State.takeFrame_memories (s : State) (q x : Nat) (r : BitVec 512) (f : EgFrame) :
    (s.takeFrame q x r f).memories = s.memories := by
  unfold State.takeFrame
  dsimp only
  (repeat' split) <;> simp
@[simp] theorem State.judgeFrame_memories (s : State) (q x : Nat) (f : EgFrame) : (s.judgeFrame q x f).memories = s.memories := by
  simp only [State.judgeFrame]
  split <;> simp
@[simp] theorem State.clearAccumulators_memories (s : State) (p : Nat) : (s.clearAccumulators p).memories = s.memories := by
  refine (foldl_memories (fun t q => ?_) _ _).trans (by simp)
  refine (foldl_memories (fun u f => ?_) _ _).trans (t.setQuay_memories q _)
  split <;> simp
@[simp] theorem State.reportStats_memories (s : State) (p step key : Nat) : (s.reportStats p step key).memories = s.memories := by
  simp only [State.reportStats]
  split <;> simp
@[simp] theorem State.reportEmpty_memories (s : State) (p step layer : Nat) : (s.reportEmpty p step layer).memories = s.memories := by
  simp [State.reportEmpty]
@[simp] theorem State.reportNone_memories (s : State) (p step layer : Nat) : (s.reportNone p step layer).memories = s.memories := by
  simp [State.reportNone]
@[simp] theorem State.reportRest_memories (s : State) (p : Nat) : (s.reportRest p).memories = s.memories := by
  simp [State.reportRest]

/-! ### Of Machine/Governors.lean -/

@[simp] theorem State.decideFormat_memories (s : State) (p layer : Nat) (st : LayerStats) :
    (s.decideFormat p layer st).memories = s.memories := by
  unfold State.decideFormat
  dsimp only
  (repeat' split) <;> simp
@[simp] theorem State.putFormat_memories (s : State) (p layer format : Nat) (k : Int) :
    (s.putFormat p layer format k).memories = s.memories := by rfl
@[simp] theorem State.applyFormats_memories (s : State) (p : Nat) : (s.applyFormats p).memories = s.memories := by
  simp [State.applyFormats]
@[simp] theorem State.launchFormats_memories (s : State) (p : Nat) (recovery : Bool) : (s.launchFormats p recovery).memories = s.memories := by
  simp [State.launchFormats]
@[simp] theorem doLayerPin_memories (p layer pin : Nat) (s : State) : (doLayerPin p layer pin s).1.memories = s.memories := by
  simp [doLayerPin]
@[simp] theorem State.stashLine_memories (s : State) (p : Nat) (l : StashLine) : (s.stashLine p l).memories = s.memories := by rfl
@[simp] theorem State.requestStash_memories (s : State) (p o kind segs smax bit : Nat) (r : VariantReq) :
    (s.requestStash p o kind segs smax bit r).memories = s.memories := by simp [State.requestStash]
@[simp] theorem State.noteStash_memories (s : State) (p o segs smax : Nat) (r : VariantReq) :
    (s.noteStash p o segs smax r).memories = s.memories := by simp [State.noteStash]
@[simp] theorem State.decideStash_memories (s : State) (p step o segs : Nat) : (s.decideStash p step o segs).memories = s.memories := by
  unfold State.decideStash
  dsimp only
  (repeat' split) <;> simp

/-! ### Of Machine/Update.lean -/

@[simp] theorem State.setRun_memories (s : State) (p : Nat) (r : UpdateRun) : (s.setRun p r).memories = s.memories := by rfl
@[simp] theorem State.setExchange_memories (s : State) (p q : Nat) (e : Exchange) : (s.setExchange p q e).memories = s.memories := by rfl
@[simp] theorem State.setEngines_memories (s : State) (q : Nat) (e : Engines) : (s.setEngines q e).memories = s.memories := by rfl

/-! ### Of Machine/Exchange.lean -/

@[simp] theorem State.dropPacket_memories (s : State) : (s.dropPacket).memories = s.memories := by rfl
@[simp] theorem State.fabricTake_memories (s : State) (q typ : Nat) (h : BitVec 256) (payload : List Byte) :
    (s.fabricTake q typ h payload).1.memories = s.memories := by
  unfold State.fabricTake
  dsimp only
  (repeat' split) <;> simp
@[simp] theorem State.rejectPacket_memories (s : State) (q : Nat) (h : BitVec 256) : (s.rejectPacket q h).memories = s.memories := by
  simp [State.rejectPacket]
@[simp] theorem State.sendSlabs_memories (s : State) (q : Nat) (f : FabHead) (slabs : List (Nat × Nat × Nat)) (store : Tbl F32) (rows : List Nat) :
    (s.sendSlabs q f slabs store rows).memories = s.memories := by simp [State.sendSlabs]
@[simp] theorem State.countChunk_memories (s : State) (k n : Nat) : (s.countChunk k n).memories = s.memories := by rfl
@[simp] theorem State.dropFolded_memories (s : State) (base n : Nat) : (s.dropFolded base n).memories = s.memories := by rfl
theorem phaseReady_memories {s t : State} {p k : Nat} (h : phaseReady s p k = some t) : t.memories = s.memories := by
  simp only [phaseReady] at h
  split_ifs at h <;> cases h <;> rfl
theorem stepReady_memories {s t : State} {p entry step : Nat} (h : stepReady s p entry step = some t) : t.memories = s.memories := by
  simp only [stepReady] at h
  split_ifs at h <;> cases h <;> rfl
@[simp] theorem State.discardGradient_memories (s : State) (tids : List Nat) :
    (s.discardGradient tids).memories = s.memories := foldl_memories (fun t tid => t.setOptOf_memories tid _) tids s
@[simp] theorem State.openExchange_memories (s : State) (p q step : Nat) (contributes cleared : Bool) :
    (s.openExchange p q step contributes cleared).memories = s.memories := by simp [State.openExchange]
@[simp] theorem State.judgeChunk_memories (s : State) (p q : Nat) (far : Bool) (src step slab : Nat) :
    (s.judgeChunk p q far src step slab).memories = s.memories := by
  simp only [State.judgeChunk]
  split <;> simp
@[simp] theorem State.judgeHeld_memories (s : State) (p q step : Nat) : (s.judgeHeld p q step).memories = s.memories := by
  simp [State.judgeHeld]
@[simp] theorem State.closeNear_memories (s : State) (p q : Nat) : (s.closeNear p q).memories = s.memories := by
  simp [State.closeNear]
theorem nearReady_memories {s t : State} {p q : Nat} (h : nearReady s p q = some t) : t.memories = s.memories := by
  simp only [nearReady] at h
  split_ifs at h
  · cases h; rfl
  · exact phaseReady_memories h
@[simp] theorem State.closeFar_memories (s : State) (p q : Nat) : (s.closeFar p q).memories = s.memories := by
  simp [State.closeFar]
@[simp] theorem State.say_memories (s : State) (m : LedgerMsg) : (s.say m).memories = s.memories := by rfl
@[simp] theorem State.formNorm_memories (s : State) (p q : Nat) : (s.formNorm p q).memories = s.memories := by
  simp [State.formNorm]
@[simp] theorem State.sendShardSum_memories (s : State) (p q n : Nat) : (s.sendShardSum p q n).memories = s.memories := by
  simp only [State.sendShardSum]
  split <;> simp
@[simp] theorem State.sendNorm_memories (s : State) (p q : Nat) : (s.sendNorm p q).memories = s.memories := by
  simp [State.sendNorm]
@[simp] theorem State.beginPass_memories (s : State) (p pass : Nat) (units : Nat → List (Nat × Nat)) :
    (s.beginPass p pass units).memories = s.memories := by simp [State.beginPass]
@[simp] theorem State.doUnit_memories (s : State) (p q pass key unit : Nat) : (s.doUnit p q pass key unit).memories = s.memories := by
  unfold State.doUnit
  dsimp only
  split_ifs
  · exact s.setRun_memories p _
  all_goals exact s.setOptOf_memories key _
@[simp] theorem State.snapshots_memories (s : State) (p q : Nat) : (s.snapshots p q).memories = s.memories := by
  refine foldl_memories (fun t k => ?_) _ s
  dsimp only
  split_ifs
  · exact t.setOptOf_memories k _
  · rfl
@[simp] theorem State.endPass_memories (s : State) (p q : Nat) : (s.endPass p q).memories = s.memories := by
  simp [State.endPass]
@[simp] theorem State.putStream_memories (s : State) (p n version off : Nat) (data : List Byte) :
    (s.putStream p n version off data).memories = s.memories := by
  unfold State.putStream
  refine foldl_fst_memories (fun acc e => ?_) _ _
  split
  · rfl
  · extract_lets
    split
    · split <;> simp
    · rfl
@[simp] theorem State.sendBytes_memories (s : State) (p q n step dm : Nat) (bs : List Byte) :
    (s.sendBytes p q n step dm bs).memories = s.memories := by simp [State.sendBytes]
@[simp] theorem State.sendStream_memories (s : State) (p q n step dm : Nat) : (s.sendStream p q n step dm).memories = s.memories := by
  simp [State.sendStream]
@[simp] theorem State.relayGather_memories (s : State) (p q : Nat) : (s.relayGather p q).memories = s.memories := by
  simp [State.relayGather]
@[simp] theorem State.pushReport_memories (s : State) (rep : UpdateReport) : (s.pushReport rep).memories = s.memories := by rfl
@[simp] theorem State.completeVersion_memories (s : State) (p q : Nat) : (s.completeVersion p q).memories = s.memories := by
  unfold State.completeVersion
  dsimp only
  split
  · rfl
  · rw [apply_ite State.memories, State.pushReport_memories, State.setRun_memories, ite_self, State.setExchange_memories,
      foldl_memories fun t e => ?said, foldl_memories fun t tid => ?completed]
    case said => exact t.say_memories _
    case completed => split <;> simp
@[simp] theorem State.publishOwn_memories (s : State) (p q n : Nat) : (s.publishOwn p q n).memories = s.memories := by
  unfold State.publishOwn
  dsimp only
  rw [foldl_memories fun t d => ?sent, State.setExchange_memories, foldl_memories fun t e => ?tile]
  case sent => split_ifs <;> simp
  case tile =>
    split
    · rfl
    · split <;> simp
@[simp] theorem State.landStream_memories (s : State) (p n step off : Nat) (data : List Byte) :
    (s.landStream p n step off data).memories = s.memories := by simp [State.landStream]
@[simp] theorem State.publishHeld_memories (s : State) (p q n : Nat) : (s.publishHeld p q n).memories = s.memories := by
  simp [State.publishHeld]
@[simp] theorem State.publish_memories (s : State) (p q : Nat) : (s.publish p q).memories = s.memories := by
  unfold State.publish
  dsimp only
  split_ifs
  · refine foldl_memories (fun t tid => ?_) _ s
    split <;> simp
  · rw [State.relayGather_memories, foldl_memories fun t n => ?shard, foldl_memories fun t tid => t.openSlot_memories tid _]
    case shard => split_ifs <;> simp
@[simp] theorem State.askReplica_memories (s : State) (q tid tile version : Nat) : (s.askReplica q tid tile version).memories = s.memories := by
  simp only [State.askReplica]
  split <;> simp
theorem reallocate_memories {s t : State} {tid : Nat} {g : BitVec 512} (h : reallocate s tid g = some t) : t.memories = s.memories := by
  simp only [reallocate] at h
  split at h
  · cases h
  · exact (allocate_memories h).trans (freeAll_memories s tid)
@[simp] theorem doAssignment_memories (id group : Nat) (s : State) : (doAssignment id group s).1.memories = s.memories := by
  unfold doAssignment
  split_ifs
  · rfl
  · split
    · rfl
    · dsimp only
      split_ifs
      iterate 3 rfl
      all_goals
        split
        · rfl
        next h =>
          rw [← reallocate_memories h]
          dsimp only
          split <;> simp [State.setOptOf_memories]
@[simp] theorem doStateReset_memories (id : Nat) (s : State) : (doStateReset id s).1.memories = s.memories := by
  unfold doStateReset
  split
  · rfl
  · exact (State.setOptOf_memories _ _ _).trans (s.setOptOf_memories id _)
@[simp] theorem doStateWrite_memories (id part off : Nat) (data : List Byte) (s : State) :
    (doStateWrite id part off data s).1.memories = s.memories := by
  unfold doStateWrite
  split
  · rfl
  · split
    · rfl
    · dsimp only
      split_ifs
      · rfl
      · exact (State.setOptOf_memories _ _ _).trans (s.setOptOf_memories id _)
      · exact s.setOptOf_memories id _
theorem regroup_memories {s t : State} {gi : Nat} {old new : BitVec 512} {l : List Nat} (h : regroup s gi old new l = some t) :
    t.memories = s.memories := by
  induction l generalizing s with
  | nil => cases h; rfl
  | cons tid l ih =>
    simp only [regroup] at h
    split at h
    next => cases h
    next u hu =>
      rw [ih h, ← reallocate_memories hu]
      split_ifs <;> simp
@[simp] theorem prepareGroup_memories (gi : Nat) (g : BitVec 512) (s : State) : (prepareGroup gi g s).1.memories = s.memories := by
  unfold prepareGroup
  dsimp only
  split_ifs
  · rfl
  · split
    · rfl
    next h => exact regroup_memories h
@[simp] theorem settleGroup_memories (gi : Nat) (s : State) : (settleGroup gi s).memories = s.memories := by
  refine foldl_memories (fun t x => ?_) _ s
  split <;> simp

/-! ### Of Machine/Ledger.lean -/

@[simp] theorem State.ownLedger_memories (s : State) : (s.ownLedger).memories = s.memories := by simp [State.ownLedger]
@[simp] theorem State.setWitness_memories (s : State) (w : Nat) (x : Witness) : (s.setWitness w x).memories = s.memories := by rfl
@[simp] theorem State.haltFeeders_memories (s : State) : (s.haltFeeders).memories = s.memories := by
  simp [State.haltFeeders]
@[simp] theorem State.ledgerHalt_memories (s : State) (st : Nat) : (s.ledgerHalt st).memories = s.memories := by
  simp [State.ledgerHalt]
@[simp] theorem State.inherit_memories (s : State) (p q n : Nat) : (s.inherit p q n).memories = s.memories := by
  simp [State.inherit]
@[simp] theorem State.freeAcks_memories (s : State) : (s.freeAcks).memories = s.memories := by simp [State.freeAcks]
@[simp] theorem State.takeRoles_memories (s : State) (before : List (Nat × Nat × Nat)) : (s.takeRoles before).memories = s.memories := by
  simp [State.takeRoles]
@[simp] theorem State.applyRecord_memories (s : State) (rec : LedgerRecord) : (s.applyRecord rec).memories = s.memories := by
  unfold State.applyRecord
  split
  · rfl
  · split
    · exact s.ledger_memories _
    · rw [State.takeRoles_memories, foldl_memories fun t r => t.event_memories _ _ _ _]
      exact s.ledger_memories _
    · rw [State.ledgerHalt_memories]
      exact s.ledger_memories _
    · exact s.ledger_memories _
@[simp] theorem State.commitIfHeld_memories (s : State) (rec : LedgerRecord) : (s.commitIfHeld rec).memories = s.memories := by
  simp only [State.commitIfHeld]
  split <;> simp
@[simp] theorem State.propose_memories (s : State) (rec : LedgerRecord) : (s.propose rec).memories = s.memories := by
  simp only [State.propose]
  split <;> simp
@[simp] theorem State.proposeStep_memories (s : State) (p step : Nat) : (s.proposeStep p step).memories = s.memories := by
  simp only [State.proposeStep]
  split <;> simp
@[simp] theorem State.proposeRoles_memories (s : State) (p : Nat) (roles : List (Nat × Nat × Nat × Bool)) :
    (s.proposeRoles p roles).memories = s.memories := by simp [State.proposeRoles]
@[simp] theorem State.proposeRollback_memories (s : State) (p c : Nat) : (s.proposeRollback p c).memories = s.memories := by
  simp [State.proposeRollback]
@[simp] theorem State.loseShards_memories (s : State) (gone goneMirror : Nat → Nat → Bool) (split : Bool) :
    (s.loseShards gone goneMirror split).memories = s.memories := by
  unfold State.loseShards
  split
  · rfl
  · refine foldl_memories (fun t p => ?_) _ s
    split
    · rfl
    · split
      · simp
      · split
        · simp
        · split <;> simp
@[simp] theorem State.activate_memories (s : State) : (s.activate).memories = s.memories := by
  simp only [State.activate]
  split <;> simp
@[simp] theorem State.speakAgain_memories (s : State) (q : Nat) : (s.speakAgain q).memories = s.memories := by
  simp [State.speakAgain]
@[simp] theorem State.hearHeartbeat_memories (s : State) : (s.hearHeartbeat).memories = s.memories := by
  simp [State.hearHeartbeat]
@[simp] theorem State.hearRoles_memories (s : State) (term : Nat) : (s.hearRoles term).memories = s.memories := by
  simp only [State.hearRoles]
  split <;> simp
@[simp] theorem State.discardStep_memories (s : State) (p : Nat) : (s.discardStep p).memories = s.memories := by
  simp [State.discardStep]
@[simp] theorem State.askHolder_memories (s : State) (p n : Nat) : (s.askHolder p n).memories = s.memories := by
  simp [State.askHolder]
@[simp] theorem State.freeShard_memories (s : State) (p n : Nat) : (s.freeShard p n).memories = s.memories := by
  unfold State.freeShard
  simp only [State.bump_memories]
  exact foldl_memories (fun t e => t.setOptOf_memories _ _) _ s
@[simp] theorem State.copyWindow_memories (s : State) (p n next : Nat) : (s.copyWindow p n next).memories = s.memories := by
  simp [State.copyWindow]
@[simp] theorem State.takeShard_memories (s : State) (p n : Nat) : (s.takeShard p n).memories = s.memories := by
  unfold State.takeShard
  exact foldl_memories (fun t e => t.setOptOf_memories _ _) _ s
@[simp] theorem State.fetchShard_memories (s : State) (p n : Nat) : (s.fetchShard p n).memories = s.memories := by
  simp [State.fetchShard]
@[simp] theorem State.copyShard_memories (s : State) (p n : Nat) : (s.copyShard p n).memories = s.memories := by
  simp [State.copyShard]
theorem allocStores_memories {s t : State} (h : allocStores s = some t) : t.memories = s.memories := by
  revert t
  refine List.foldlRecOn (motive := fun (o : Option State) => ∀ {t}, o = some t → t.memories = s.memories) _ _
    (fun h => by cases h; simp) fun o ho e _ t h => ?_
  split at h
  next => cases h
  next u => exact (placeIn_memories h).trans (ho rfl)
@[simp] theorem prepareTable_memories (table : Option Membership) (s : State) : (prepareTable table s).1.memories = s.memories := by
  unfold prepareTable
  split
  · simp
  · dsimp only
    split
    · rfl
    next h => simpa using allocStores_memories h
@[simp] theorem settleTable_memories (table : Option Membership) (was : Nat) (s : State) : (settleTable table was s).memories = s.memories := by
  simp only [settleTable]
  split <;> simp
@[simp] theorem State.restoreTensor_memories (s : State) (tid c : Nat) : (s.restoreTensor tid c).memories = s.memories := by
  unfold State.restoreTensor
  dsimp only
  split
  · rfl
  · split_ifs
    · exact (State.setOptOf_memories _ _ _).trans (State.setOptOf_memories _ _ _)
    · exact State.setOptOf_memories _ _ _
@[simp] theorem doRestore_memories (ledger : Nat) (s : State) : (doRestore ledger s).1.memories = s.memories := by
  unfold doRestore
  dsimp only
  (repeat' split) <;> simp
@[simp] theorem State.loseOwn_memories (s : State) (p q : Nat) (ns : List Nat) : (s.loseOwn p q ns).memories = s.memories := by
  simp [State.loseOwn]

/-! ### Of Machine/Heat.lean -/

@[simp] theorem State.cancelLaunch_memories (s : State) (p : Nat) : (s.cancelLaunch p).memories = s.memories := by
  simp [State.cancelLaunch]
@[simp] theorem State.dueAtFault_memories (s : State) (p t : Nat) : (s.dueAtFault p t).memories = s.memories := by
  simp [State.dueAtFault]
@[simp] theorem State.listShed_memories (s : State) (p : Nat) : (s.listShed p).memories = s.memories := by
  simp [State.listShed]
@[simp] theorem State.noteRestorable_memories (s : State) : (s.noteRestorable).memories = s.memories := by
  simp [State.noteRestorable]
@[simp] theorem State.wakeTile_memories (s : State) (t : Nat) : (s.wakeTile t).memories = s.memories := by
  simp [State.wakeTile]
@[simp] theorem State.noteAlert_memories (s : State) : (s.noteAlert).memories = s.memories := by simp [State.noteAlert]
@[simp] theorem State.thawReturns_memories (s : State) (c since m : Nat) : (s.thawReturns c since m).memories = s.memories := by rfl
@[simp] theorem State.thaw_memories (s : State) (c n : Nat) : (s.thaw c n).memories = s.memories := by
  simp [State.thaw]
@[simp] theorem State.endEmergency_memories (s : State) (tile : Nat) : (s.endEmergency tile).memories = s.memories := by
  simp [State.endEmergency]

/-! ### Of Machine/Distill.lean -/

@[simp] theorem State.notePair_memories (s : State) (p : Nat) : (s.notePair p).memories = s.memories := by
  simp [State.notePair]
@[simp] theorem State.notePairs_memories (s : State) (p : Nat) : (s.notePairs p).memories = s.memories := by
  simp [State.notePairs]
@[simp] theorem State.fencePair_memories (s : State) (p : Nat) : (s.fencePair p).memories = s.memories := by
  simp [State.fencePair]
@[simp] theorem State.refence_memories (s : State) (p : Nat) : (s.refence p).memories = s.memories := by
  simp [State.refence]
@[simp] theorem State.noteTeacherEnd_memories (s : State) (t : Nat) (insts : List (Nat × Nat × Nat)) :
    (s.noteTeacherEnd t insts).memories = s.memories := by simp [State.noteTeacherEnd]
@[simp] theorem State.liftFence_memories (s : State) (p : Nat) (insts : List (Nat × Nat × Nat)) :
    (s.liftFence p insts).memories = s.memories := by simp [State.liftFence]
@[simp] theorem State.handoffCheck_memories (s : State) (p o : Nat) : (s.handoffCheck p o).memories = s.memories := by
  simp [State.handoffCheck]
@[simp] theorem State.reportHandoff_memories (s : State) (p result : Nat) (hard : Bool) :
    (s.reportHandoff p result hard).memories = s.memories := by rfl
@[simp] theorem State.decideHandoff_memories (s : State) (p result code : Nat) (hard : Bool) :
    (s.decideHandoff p result code hard).memories = s.memories := by simp [State.decideHandoff]
@[simp] theorem State.decideGroup_memories (s : State) (p code : Nat) (hard missing : Bool) :
    (s.decideGroup p code hard missing).memories = s.memories := by simp [State.decideGroup]
@[simp] theorem State.handoffAnnounced_memories (s : State) (p : Nat) (mask word : BitVec 16) :
    (s.handoffAnnounced p mask word).memories = s.memories := by simp [State.handoffAnnounced]
@[simp] theorem State.handoffOverdue_memories (s : State) (p : Nat) (insts : List (Nat × Nat × Nat)) :
    (s.handoffOverdue p insts).memories = s.memories := by simp [State.handoffOverdue]

/-! ### Of Machine/Verify.lean -/

@[simp] theorem State.verifySlot_memories (s : State) (k : Nat) (p : Option Nat) : (s.verifySlot k p).memories = s.memories := by
  simp only [State.verifySlot]
  split <;> simp
@[simp] theorem doImageUpload_memories (k : Nat) (img : Image) (s : State) : (doImageUpload k img s).1.memories = s.memories := by
  simp [doImageUpload]

/-! ### Of Machine/Ports.lean -/

@[simp] theorem State.weighPort_memories (s : State) (i : Nat) : (s.weighPort i).memories = s.memories := by
  simp [State.weighPort]
@[simp] theorem State.resendAll_memories (s : State) (i : Nat) : (s.resendAll i).memories = s.memories := by
  simp [State.resendAll]
@[simp] theorem State.changePort_memories (s : State) (i : Nat) (v : Port) : (s.changePort i v).memories = s.memories := by
  simp [State.changePort]
@[simp] theorem State.pinDown_memories (s : State) (i : Nat) : (s.pinDown i).memories = s.memories := by
  simp [State.pinDown]
@[simp] theorem State.pinNarrow_memories (s : State) (i : Nat) : (s.pinNarrow i).memories = s.memories := by
  simp [State.pinNarrow]
@[simp] theorem State.portsAtMark_memories (s : State) (p : Nat) : (s.portsAtMark p).memories = s.memories := by
  unfold State.portsAtMark
  refine foldl_memories (fun t x => ?_) _ s
  dsimp only
  (repeat' split) <;> simp
@[simp] theorem State.weighBand_memories (s : State) (p : Nat) : (s.weighBand p).memories = s.memories := by
  simp [State.weighBand]
@[simp] theorem State.weighLaunch_memories (s : State) (p : Nat) : (s.weighLaunch p).memories = s.memories := by
  simp [State.weighLaunch]
@[simp] theorem State.endTest_memories (s : State) (t : TestRun) (outcome tested fenced : Nat) :
    (s.endTest t outcome tested fenced).memories = s.memories := by simp [State.endTest]
@[simp] theorem State.abortLink_memories (s : State) (i : Nat) : (s.abortLink i).memories = s.memories := by
  simp only [State.abortLink]
  split <;> simp
@[simp] theorem State.trainFull_memories (s : State) (i : Nat) : (s.trainFull i).memories = s.memories := by
  simp [State.trainFull]
@[simp] theorem State.loseWavelength_memories (s : State) (i w : Nat) : (s.loseWavelength i w).memories = s.memories := by
  simp [State.loseWavelength]
@[simp] theorem State.learnPeer_memories (s : State) (i : Nat) : (s.learnPeer i).memories = s.memories := by
  simp [State.learnPeer]
@[simp] theorem doRetrain_memories (i : Nat) (full : Bool) (s : State) : (doRetrain i full s).1.memories = s.memories := by
  simp [doRetrain]

/-! ### Of Machine/Marks.lean -/

@[simp] theorem State.noteOrphans_memories (s : State) (x : Nat) : (s.noteOrphans x).memories = s.memories := by
  simp [State.noteOrphans]
@[simp] theorem State.closeStep_memories (s : State) (p : Nat) : (s.closeStep p).memories = s.memories := by
  simp [State.closeStep]
@[simp] theorem State.listOverflow_memories (s : State) (p : Nat) (f : Firing) : (s.listOverflow p f).memories = s.memories := by
  simp [State.listOverflow]
@[simp] theorem State.changeMode_memories (s : State) (p : Nat) (m : ModeStep) : (s.changeMode p m).memories = s.memories := by
  simp only [State.changeMode]
  split <;> simp
@[simp] theorem State.restartCore_memories (s : State) (c : Nat) : (s.restartCore c).memories = s.memories := by rfl
@[simp] theorem State.restartQuays_memories (s : State) (p : Nat) : (s.restartQuays p).memories = s.memories := by
  simp [State.restartQuays]
@[simp] theorem State.reverify_memories (s : State) (p : Nat) : (s.reverify p).memories = s.memories := by
  simp only [State.reverify]
  split <;> simp
@[simp] theorem State.governLeads_memories (s : State) (p n : Nat) : (s.governLeads p n).memories = s.memories := by
  simp [State.governLeads]
@[simp] theorem State.stepStart_memories (s : State) (p n : Nat) : (s.stepStart p n).memories = s.memories := by
  unfold State.stepStart
  dsimp only
  (repeat' split) <;> simp
@[simp] theorem State.latch_memories (s : State) (p : Nat) (f : Firing) : (s.latch p f).memories = s.memories := by
  unfold State.latch
  dsimp only
  refine (foldl_memories (fun t x => ?_) _ _).trans ?_ <;> (repeat' split) <;> simp
@[simp] theorem State.wakeCores_memories (s : State) (p : Nat) (f : Firing) : (s.wakeCores p f).memories = s.memories := by
  unfold State.wakeCores
  refine foldl_memories (fun t x => ?_) _ s
  dsimp only
  (repeat' split) <;> simp
@[simp] theorem State.checks_memories (s : State) (p : Nat) (f : Firing) : (s.checks p f).memories = s.memories := by
  simp [State.checks]
@[simp] theorem State.countOverruns_memories (s : State) (p : Nat) (causes : List PFault) :
    (s.countOverruns p causes).memories = s.memories := by rfl
@[simp] theorem State.finishRun_memories (s : State) (p : Nat) (final : Bool) : (s.finishRun p final).memories = s.memories := by
  simp [State.finishRun]
@[simp] theorem doPreempt_memories (p : Nat) (s : State) : (doPreempt p s).1.memories = s.memories := by
  simp [doPreempt]
@[simp] theorem doHalt_memories (p : Nat) (s : State) : (doHalt p s).1.memories = s.memories := by simp [doHalt]
@[simp] theorem doEnd_memories (p : Nat) (s : State) : (doEnd p s).1.memories = s.memories := by simp [doEnd]
@[simp] theorem doWithdraw_memories (p : Nat) (s : State) : (doWithdraw p s).1.memories = s.memories := by
  simp [doWithdraw]

/-! ### Of Machine/Launch.lean -/

@[simp] theorem State.loadStores_memories (s : State) (p : Nat) (img : Image) (vs : List Nat) :
    (s.loadStores p img vs).memories = s.memories := by
  unfold State.loadStores
  dsimp only
  refine (foldl_memories (fun t x => ?_) _ _).trans ?_ <;> (repeat' split) <;> simp
@[simp] theorem State.loadBandTaps_memories (s : State) (p : Nat) (img : Image) (vs : List Nat) :
    (s.loadBandTaps p img vs).memories = s.memories := by simp [State.loadBandTaps]
@[simp] theorem State.openWindows_memories (s : State) (p : Nat) (img : Image) : (s.openWindows p img).memories = s.memories := by
  simp [State.openWindows]
@[simp] theorem State.startClocks_memories (s : State) (p : Nat) (img : Image) : (s.startClocks p img).memories = s.memories := by
  simp [State.startClocks]
@[simp] theorem State.freshQuays_memories (s : State) (p : Nat) (keep : IssuedFetch → Bool) : (s.freshQuays p keep).memories = s.memories := by
  simp [State.freshQuays]
@[simp] theorem State.freshLeads_memories (s : State) (p : Nat) : (s.freshLeads p).memories = s.memories := by rfl
@[simp] theorem State.fitStores_memories (s : State) : (s.fitStores).memories = s.memories := by
  unfold State.fitStores
  split_ifs
  · cases h : allocStores s with
    | none => rfl
    | some t => exact allocStores_memories h
  · rfl
@[simp] theorem State.backUpdates_memories (s : State) (p n0 : Nat) : (s.backUpdates p n0).memories = s.memories := by
  simp [State.backUpdates]
@[simp] theorem doCancel_memories (p : Nat) (s : State) : (doCancel p s).1.memories = s.memories := by
  simp [doCancel]
@[simp] theorem State.beginCore_memories (s : State) (c bp : Nat) (ix : Tbl (BitVec 12)) (seed : Nat) :
    (s.beginCore c bp ix seed).memories = s.memories := by rfl
@[simp] theorem State.atLaunch_memories (s : State) (p : Nat) : (s.atLaunch p).memories = s.memories := by rfl
@[simp] theorem State.listRecovery_memories (s : State) (p : Nat) : (s.listRecovery p).memories = s.memories := by
  simp [State.listRecovery]

/-! ### Of Machine/Recovery.lean -/

@[simp] theorem State.noRecovery_memories (s : State) (p status path : Nat) (units : List (Nat × Nat)) :
    (s.noRecovery p status path units).memories = s.memories := by simp [State.noRecovery]
@[simp] theorem State.haltedMark_memories (s : State) (p : Nat) : (s.haltedMark p).memories = s.memories := by
  unfold State.haltedMark
  dsimp only
  (repeat' split) <;> simp
@[simp] theorem State.replaced_memories (s : State) (p x w slot : Nat) : (s.replaced p x w slot).memories = s.memories := by rfl
theorem State.findPlace_memories {s t : State} {p slot : Nat} {img : Image} {l : List Nat} (h : s.findPlace p slot img l = some t) :
    t.memories = s.memories := by
  induction l with
  | nil => cases h
  | cons x l ih =>
    simp only [State.findPlace] at h
    split_ifs at h
    · cases h; simp
    · exact ih h
@[simp] theorem State.groupFollows_memories (s : State) (p k : Nat) : (s.groupFollows p k).memories = s.memories := by
  simp only [State.groupFollows]
  split <;> simp
@[simp] theorem State.recoveryWaits_memories (s : State) (p : Nat) : (s.recoveryWaits p).memories = s.memories := by rfl
@[simp] theorem State.takeBack_memories (s : State) (p : Nat) : (s.takeBack p).memories = s.memories := by
  simp [State.takeBack]
@[simp] theorem doReset_memories (p : Nat) (s : State) : (doReset p s).1.memories = s.memories := by
  simp [doReset]

/-! ### Of Machine/TideDomain.lean -/

@[simp] theorem doTideStop_memories (s : State) : (doTideStop s).1.memories = s.memories := by simp [doTideStop]
@[simp] theorem doTideStart_memories (s : State) : (doTideStart s).1.memories = s.memories := by simp [doTideStart]
@[simp] theorem State.journalStretch_memories (s : State) (tick : Nat) : (s.journalStretch tick).memories = s.memories := by rfl
@[simp] theorem State.announceStretch_memories (s : State) : (s.announceStretch).memories = s.memories := by
  simp [State.announceStretch]
@[simp] theorem State.listStretch_memories (s : State) : (s.listStretch).memories = s.memories := by
  simp [State.listStretch]
@[simp] theorem State.announceModes_memories (s0 : State) : (s0.announceModes).memories = s0.memories := by
  unfold State.announceModes
  split_ifs
  · rfl
  · refine (foldl_memories (fun u p => ?_) _ _).trans (by simp)
    split
    · rfl
    · exact foldl_memories (fun w q => w.setCtl_memories q _) _ u
@[simp] theorem State.foreignFormat_memories (s : State) (g layer : Nat) : (s.foreignFormat g layer).memories = s.memories := by
  unfold State.foreignFormat
  dsimp only
  (repeat' split) <;> simp
@[simp] theorem State.foreignFormats_memories (s : State) : (s.foreignFormats).memories = s.memories := by
  simp [State.foreignFormats]
@[simp] theorem State.hearStash_memories (s : State) (p : Nat) (r : VariantReq) : (s.hearStash p r).memories = s.memories := by
  simp [State.hearStash]
@[simp] theorem State.takeVariant_memories (s : State) (p : Nat) (v : VariantNote) : (s.takeVariant p v).memories = s.memories := by
  unfold State.takeVariant
  dsimp only
  (repeat' split) <;> simp
@[simp] theorem State.takeAnnouncements_memories (s : State) (m : Marker) : (s.takeAnnouncements m).memories = s.memories := by
  unfold State.takeAnnouncements
  dsimp only
  rw [foldl_memories fun u g => ?relaunch, foldl_memories fun u e => ?format, foldl_memories fun u e => ?mode,
    foldl_memories fun u v => ?variant]
  case relaunch =>
    refine (foldl_memories (fun w p => ?_) _ _).trans (by simp)
    split <;> simp
  case format =>
    refine foldl_memories (fun w p => ?_) _ u
    split <;> simp
  case mode =>
    refine foldl_memories (fun w p => ?_) _ u
    split <;> simp
  case variant =>
    split
    · rfl
    · exact (foldl_memories (fun w p => w.takeVariant_memories p v) _ _).trans (by simp)
  split
  · split <;> simp
  · rfl

/-! ### Of Machine/Controller.lean -/

@[simp] theorem State.enterLoader_memories (s : State) (detail : Nat) : (s.enterLoader detail).memories = s.memories := by rfl
@[simp] theorem State.dropClients_memories (s : State) : (s.dropClients).memories = s.memories := by rfl
@[simp] theorem State.drainBuffers_memories (s : State) : (s.drainBuffers).memories = s.memories := by
  simp [State.drainBuffers]

/-! ### Of Machine/BringUp.lean -/

@[simp] theorem State.writeResults_memories (s : State) : (s.writeResults).memories = s.memories := by rfl
@[simp] theorem State.clearQuays_memories (s : State) : (s.clearQuays).memories = s.memories := by simp [State.clearQuays]
@[simp] theorem State.dropVersions_memories (s : State) (dram : Bool) : (s.dropVersions dram).memories = s.memories := by rfl
@[simp] theorem State.passUnits_memories (s : State) (units : List (Nat × Nat)) : (s.passUnits units).1.memories = s.memories := by
  refine foldl_fst_memories (fun a u => ?_) _ _
  split
  · rfl
  · split
    · rfl
    · split <;> simp
@[simp] theorem State.recon_memories (s : State) (cls tested fenced passing untested : Nat) :
    (s.recon cls tested fenced passing untested).memories = s.memories := by rfl
@[simp] theorem State.attachQuays_memories (s : State) : (s.attachQuays).memories = s.memories := by
  simp [State.attachQuays]
@[simp] theorem State.closeStage_memories (s : State) (k : Nat) (e : StageEnd) : (s.closeStage k e).memories = s.memories := by
  simp [State.closeStage]
@[simp] theorem State.endS0_memories (s : State) (e : StageEnd) : (s.endS0 e).memories = s.memories := by
  simp [State.endS0]
@[simp] theorem State.trainAtStart_memories (s : State) (failing : List (Nat × Nat)) (i : Nat) :
    (s.trainAtStart failing i).memories = s.memories := by simp [State.trainAtStart]
@[simp] theorem State.saveService_memories (s : State) : (s.saveService).memories = s.memories := by
  simp [State.saveService]
@[simp] theorem State.endS2_memories (s : State) (e : StageEnd) (failing : List (Nat × Nat)) : (s.endS2 e failing).memories = s.memories := by
  simp [State.endS2]
@[simp] theorem State.endS3_memories (s : State) (e : StageEnd) (failing : List (Nat × Nat)) : (s.endS3 e failing).memories = s.memories := by
  unfold State.endS3
  split_ifs
  · simp
  · dsimp only
    rw [State.closeStage_memories, State.bump_memories]
    simp only [memories_mk, memories_fold]
    refine (foldl_memories (fun t k => ?_) _ _).trans (s.advance_memories _)
    split <;> simp
@[simp] theorem State.endS6_memories (s : State) (e : StageEnd) (failing : List (Nat × Nat)) : (s.endS6 e failing).memories = s.memories := by
  simp [State.endS6]
@[simp] theorem State.endS7_memories (s : State) (e : StageEnd) (failing : List (Nat × Nat)) : (s.endS7 e failing).memories = s.memories := by
  simp [State.endS7]
@[simp] theorem State.beginTide_memories (s : State) : (s.beginTide).memories = s.memories := by simp [State.beginTide]
@[simp] theorem State.endS8_memories (s : State) (e : StageEnd) : (s.endS8 e).memories = s.memories := by
  simp [State.endS8]
@[simp] theorem State.endS9_memories (s : State) (e : StageEnd) : (s.endS9 e).memories = s.memories := by
  simp [State.endS9]
@[simp] theorem doDiscardResults_memories (s : State) : (doDiscardResults s).1.memories = s.memories := by rfl

/-! ### Of Machine/Service.lean -/

@[simp] theorem State.testClock_memories (s : State) (t : Nat) : (s.testClock t).memories = s.memories := by
  simp [State.testClock]
@[simp] theorem doTestRequest_memories (r : BitVec 256) (s : State) : (doTestRequest r s).1.memories = s.memories := by
  unfold doTestRequest
  dsimp only
  (repeat' split) <;> simp
@[simp] theorem State.storeTest_memories (s : State) (t : TestRun) : (s.storeTest t).memories = s.memories := by
  unfold State.storeTest
  dsimp only
  (repeat' split) <;> simp
@[simp] theorem doTestCancel_memories (tag : Nat) (s : State) : (doTestCancel tag s).1.memories = s.memories := by
  simp only [doTestCancel]
  split <;> simp

/-! ### Of Machine/ModuleReset.lean -/

@[simp] theorem doModuleReset_memories (s : State) : (doModuleReset s).1.memories = s.memories := by
  simp [doModuleReset]
@[simp] theorem State.leavePorts_memories (s : State) : (s.leavePorts).memories = s.memories := by simp [State.leavePorts]
@[simp] theorem State.loseProgress_memories (s : State) (l : List (Nat × UpdateReport × List (Nat × Nat))) :
    (s.loseProgress l).memories = s.memories := by simp [State.loseProgress]

/-! ### Of Machine/Power.lean -/

@[simp] theorem doEnterDeepPark_memories (s : State) : (doEnterDeepPark s).1.memories = s.memories := by
  simp [doEnterDeepPark]

/-! ### Of Machine/Firmware.lean -/

@[simp] theorem doFirmwareUpload_memories (i : FirmwareImage) (s : State) : (doFirmwareUpload i s).1.memories = s.memories := by
  simp [doFirmwareUpload]
@[simp] theorem doApply_memories (s : State) : (doApply s).1.memories = s.memories := by simp [doApply]
@[simp] theorem doDiscardStaging_memories (s : State) : (doDiscardStaging s).1.memories = s.memories := by
  simp [doDiscardStaging]
@[simp] theorem doCounterAdvance_memories (s : State) : (doCounterAdvance s).1.memories = s.memories := by
  simp [doCounterAdvance]
@[simp] theorem doOwnerKeyFuse_memories (hash : BitVec 512) (s : State) : (doOwnerKeyFuse hash s).1.memories = s.memories := by
  unfold doOwnerKeyFuse
  dsimp only
  (repeat' split) <;> simp
@[simp] theorem doAttestation_memories (cl : Client) (nonce : List Byte) (s : State) : (doAttestation cl nonce s).1.memories = s.memories := by
  simp [doAttestation]

/-! ### Of Machine/Objects.lean -/

@[simp] theorem State.closeSession_memories (s : State) (k : Nat) : (s.closeSession k).memories = s.memories := by rfl
@[simp] theorem State.holdPin_memories (s : State) (key old : Nat) : (s.holdPin key old).memories = s.memories := by
  simp [State.holdPin]
@[simp] theorem State.prepareValue_memories (s : State) (key : Nat) (v : List Byte) : (s.prepareValue key v).1.memories = s.memories := by
  simp [State.prepareValue]
@[simp] theorem State.settleValue_memories (s before : State) (key : Nat) : (s.settleValue before key).memories = s.memories := by
  simp [State.settleValue]
@[simp] theorem prepareAll_memories (cfg : Tbl (List Byte)) (x0 : List Nat) (x1 : State) : (prepareAll cfg x0 x1).1.memories = x1.memories := by
  induction x0 generalizing x1 with
  | nil => rfl
  | cons k l ih =>
    simp only [prepareAll]
    split_ifs
    · rfl
    · rw [ih, State.prepareValue_memories]
@[simp] theorem State.adopt_memories (s : State) (cfg : Tbl (List Byte)) (keys : List Nat) (checked : Bool) :
    (s.adopt cfg keys checked).1.memories = s.memories := by
  simp only [State.adopt]
  split <;> simp
@[simp] theorem State.writeSaved_memories (s : State) (key : Nat) (v : List Byte) : (s.writeSaved key v).1.memories = s.memories := by
  simp only [State.writeSaved]
  split <;> simp
@[simp] theorem doMembershipWrite_memories (table : Option Membership) (s : State) : (doMembershipWrite table s).1.memories = s.memories := by
  simp only [doMembershipWrite]
  split <;> simp
@[simp] theorem doKeySlotWrite_memories (k : Nat) (data : List Byte) (s : State) : (doKeySlotWrite k data s).1.memories = s.memories := by
  simp [doKeySlotWrite]
@[simp] theorem doOpenDraft_memories (cl : Client) (s : State) : (doOpenDraft cl s).1.memories = s.memories := by
  simp [doOpenDraft]
@[simp] theorem doDiscardDraft_memories (cl : Client) (s : State) : (doDiscardDraft cl s).1.memories = s.memories := by
  simp [doDiscardDraft]
@[simp] theorem State.draftWrite_memories (s : State) (cl : Client) (key : Nat) (v : List Byte) :
    (s.draftWrite cl key v).1.memories = s.memories := by
  unfold State.draftWrite
  dsimp only
  (repeat' split) <;> simp
@[simp] theorem State.reportCommit_memories (s : State) (r : Nat × Nat) : (s.reportCommit r).memories = s.memories := by rfl
@[simp] theorem doCommit_memories (cl : Client) (s : State) : (doCommit cl s).1.memories = s.memories := by
  simp only [doCommit]
  split <;> simp
@[simp] theorem doRevert_memories (s : State) : (doRevert s).1.memories = s.memories := by simp [doRevert]
@[simp] theorem doConfigDefaults_memories (s : State) : (doConfigDefaults s).1.memories = s.memories := by
  simp [doConfigDefaults]
@[simp] theorem doCloseSessions_memories (cl : Client) (s : State) : (doCloseSessions cl s).1.memories = s.memories := by
  simp [doCloseSessions]

/-! ### Of Machine/Protocol.lean -/

@[simp] theorem State.passOwnership_memories (s : State) : (s.passOwnership).memories = s.memories := by rfl
@[simp] theorem doOffer_memories (cl : Client) (s : State) : (doOffer cl s).1.memories = s.memories := by
  simp [doOffer]
@[simp] theorem doAccept_memories (cl : Client) (s : State) : (doAccept cl s).1.memories = s.memories := by
  unfold doAccept
  split_ifs
  · rfl
  · split
    · rfl
    · split_ifs <;> simp
@[simp] theorem doTake_memories (cl : Client) (s : State) : (doTake cl s).1.memories = s.memories := by
  simp [doTake]
@[simp] theorem State.putStaged_memories (s : State) (cl : Client) (key : Nat) (m : List Host.Cell) :
    (s.putStaged cl key m).memories = s.memories := by
  unfold State.putStaged
  dsimp only
  (repeat' split) <;> simp
@[simp] theorem State.readTicket_memories (s : State) (t : Nat) : (s.readTicket t).memories = s.memories := by
  simp only [State.readTicket]
  split <;> simp
@[simp] theorem State.dropMessage_memories (s : State) : (s.dropMessage).memories = s.memories := by rfl
@[simp] theorem State.putSession_memories (s : State) (k : Nat) (x : Session) : (s.putSession k x).memories = s.memories := by rfl
@[simp] theorem State.endSlot_memories (s : State) (i slot : Nat) (x : Slot) : (s.endSlot i slot x).memories = s.memories := by rfl

/-! ### Of Machine/Step.lean -/

@[simp] theorem State.withFetchWord_memories (s : State) (nbits w : Nat) : (s.withFetchWord nbits w).memories = s.memories := by rfl
end Sys2Proof.Machine
end

section
/-! SUPPORT. The canonical form of the byte memories, and that the operations which store bytes keep it. -/

namespace Sys2Proof.Machine

/-- Every one of the four byte memories has its addresses strictly rising. -/
def CanonicalMem (m : List Host.Cell × List Host.Cell × List Host.Cell × List Host.Cell) : Prop :=
  Memory.wf m.1 = true ∧ Memory.wf m.2.1 = true ∧ Memory.wf m.2.2.1 = true ∧ Memory.wf m.2.2.2 = true

theorem canonical_iff (s : State) : s.canonical = true ↔ CanonicalMem s.memories := by
  simp only [State.canonical, CanonicalMem, State.memories, Bool.and_eq_true, and_assoc]

@[simp] theorem canonicalMem_mk {a b c d : List Host.Cell} :
    CanonicalMem (a, b, c, d) ↔ Memory.wf a = true ∧ Memory.wf b = true ∧ Memory.wf c = true ∧ Memory.wf d = true := Iff.rfl

@[simp] theorem canonicalMem_ite {p : Prop} [Decidable p] (a b : List Host.Cell × List Host.Cell × List Host.Cell × List Host.Cell) :
    CanonicalMem (if p then a else b) ↔ if p then CanonicalMem a else CanonicalMem b := by
  split <;> rfl

@[simp] theorem wf_nil : Memory.wf [] = true := rfl

section
variable {s : State} (h : CanonicalMem s.memories)
include h
theorem CanonicalMem.pad : Memory.wf s.pad = true := h.1
theorem CanonicalMem.dram : Memory.wf s.dram = true := h.2.1
theorem CanonicalMem.flash : Memory.wf s.flash = true := h.2.2.1
theorem CanonicalMem.mail : Memory.wf s.mail = true := h.2.2.2
end

theorem foldl_canon {α : Type} {f : State → α → State} (hf : ∀ t a, CanonicalMem t.memories → CanonicalMem (f t a).memories) (l : List α) {s : State} (h : CanonicalMem s.memories) :
    CanonicalMem (l.foldl f s).memories :=
  List.foldlRecOn (motive := fun t => CanonicalMem t.memories) l f h fun t ht a _ => hf t a ht

theorem foldl_fst_canon {α β : Type} {f : State × β → α → State × β} (hf : ∀ t a, CanonicalMem t.1.memories → CanonicalMem (f t a).1.memories) (l : List α) {s : State × β}
    (h : CanonicalMem s.1.memories) : CanonicalMem (l.foldl f s).1.memories :=
  List.foldlRecOn (motive := fun t => CanonicalMem t.1.memories) l f h fun t ht a _ => hf t a ht

/-- Work of a core's engines keeps the canonical form. -/
theorem EngStep.canon {c : Nat} {s t : State} (e : EngStep c s t) (h : CanonicalMem s.memories) : CanonicalMem t.memories := by
  have hrest := e.rest
  have hdram : t.dram = s.dram := by rw [hrest]
  have hflash : t.flash = s.flash := by rw [hrest]
  have hmail : t.mail = s.mail := by rw [hrest]
  simp only [State.memories, hdram, hflash, hmail]
  exact ⟨e.wf h.pad, h.dram, h.flash, h.mail⟩



/-! ### Of Machine/Operands.lean -/

@[simp] theorem State.writeRow_canon {s : State} (c row : Nat) (d : Row) (h : CanonicalMem s.memories) :
    CanonicalMem (s.writeRow c row d).memories := (EngStep.writeRow c s row d).canon h
@[simp] theorem State.mergeRow_canon {s : State} (c row : Nat) (h : CanonicalMem s.memories) :
    CanonicalMem (s.mergeRow c row).memories := (EngStep.mergeRow c s row).canon h
@[simp] theorem State.writeOut_canon {s0 : State} (c a : Nat) (bs : List Byte) (bad : List Bool) (joinFirst joinLast : Bool) (h : CanonicalMem s0.memories) :
    CanonicalMem (s0.writeOut c a bs bad joinFirst joinLast).memories := (EngStep.writeOut c s0 a bs bad joinFirst joinLast).canon h

/-! ### Of Machine/Springbok.lean -/

@[simp] theorem startSpb_canon (c x0 : Nat) {x1 : State} (h : CanonicalMem x1.memories) :
    CanonicalMem (startSpb c x0 x1).memories := (EngStep.startSpb c x0 x1).canon h

/-! ### Of Machine/Vector.lean -/

@[simp] theorem startVec_canon (c x0 : Nat) {x1 : State} (h : CanonicalMem x1.memories) :
    CanonicalMem (startVec c x0 x1).memories := (EngStep.startVec c x0 x1).canon h

/-! ### Of Machine/Array.lean -/

@[simp] theorem drainWs_canon {s : State} (c : Nat) (j : DrainJob) (h : CanonicalMem s.memories) : CanonicalMem (drainWs s c j).memories := by
  simp [drainWs, h]
@[simp] theorem drainOsp_canon {s : State} (c : Nat) (j : DrainJob) (h : CanonicalMem s.memories) : CanonicalMem (drainOsp s c j).memories := by
  simp [drainOsp, h]
@[simp] theorem drainJob_canon {s : State} (c : Nat) (j : DrainJob) (h : CanonicalMem s.memories) : CanonicalMem (drainJob s c j).memories := by
  simp [drainJob, h]
@[simp] theorem settle_canon {s : State} (c : Nat) (h : CanonicalMem s.memories) : CanonicalMem (settle s c).memories := by
  simp [settle, h]
@[simp] theorem State.abandon_canon {s00 : State} (c : Nat) (h : CanonicalMem s00.memories) : CanonicalMem (s00.abandon c).memories := by
  have drained (l : List DrainJob) (t : State) (ht : CanonicalMem t.memories) :
      CanonicalMem (l.foldl (fun t j => drainJob t c j) t).memories :=
    foldl_canon (fun t j ht => drainJob_canon c j ht) l ht
  have poisoned (l : List ArrInstr) (f : ArrInstr → List Nat) (g : ArrInstr → Nat → Nat) (t : State) :
      (l.foldl (fun t i => (f i).foldl (fun t r => t.poisonRows c (g i r) 1) t) t).memories = t.memories :=
    foldl_memories (fun t i => foldl_memories (fun t r => t.poisonRows_memories c _ 1) _ t) l t
  unfold State.abandon
  extract_lets fs k0 hold arr k s s0 s1 late s2 s3
  have h0 : CanonicalMem s0.memories := drained _ _ (by simpa [s] using h)
  have h1 : CanonicalMem s1.memories := by
    rw [poisoned]
    exact h0
  have h2 : s2.memories = s1.memories := by
    simp only [s2, late]
    split
    · split <;> simp
    · rfl
  have h3 : s3.memories = s2.memories := by
    simp only [s3, late]
    split
    · split <;> simp
    · rfl
  simpa [h3, h2] using h1

/-! ### Of Machine/Access.lean -/

theorem State.loaderCommand_canon {s : State} {cl : Client} {a : Bool} {f : State → State × Nat}
    (hf : ∀ t, CanonicalMem t.memories → CanonicalMem (f t).1.memories) (h : CanonicalMem s.memories) :
    CanonicalMem (s.loaderCommand cl a f).memories := by
  unfold State.loaderCommand
  split
  · exact h
  · dsimp only
    split
    · simpa using h
    · simpa using hf _ (by simpa using h)
theorem State.command_canon {s : State} {cl : Client} {a : Bool} {f : State → State × Nat}
    (hf : ∀ t, CanonicalMem t.memories → CanonicalMem (f t).1.memories) (h : CanonicalMem s.memories) :
    CanonicalMem (s.command cl a f).memories :=
  State.loaderCommand_canon (fun t ht => by split; exacts [ht, hf t ht]) h

/-! ### Of Machine/Sequencer.lean -/

@[simp] theorem closeBundle_canon {s : State} (c : Nat) (f : Core → Core) (h : CanonicalMem s.memories) :
    CanonicalMem (closeBundle s c f).memories := by
  simp [closeBundle, h]

/-! ### Of Machine/Cores.lean -/

@[simp] theorem State.rewriteRow_canon {s : State} (c row : Nat) (h : CanonicalMem s.memories) : CanonicalMem (s.rewriteRow c row).memories := by
  refine foldl_canon (fun t w ht => ?_) _ h
  dsimp only
  split
  · simp only [memories_mk, canonicalMem_mk]
    refine ⟨?_, ht.dram, ht.flash, ht.mail⟩
    split
    · exact wf_forget _ _ _ ht.pad
    · exact ht.pad
  · exact ht
@[simp] theorem State.rowArrives_canon {s : State} (c : Nat) (f : Sender) (row : Nat) (data : Row) (h : CanonicalMem s.memories) :
    CanonicalMem (s.rowArrives c f row data).memories := by
  unfold State.rowArrives
  dsimp only
  (repeat' split) <;> simp [h]

/-! ### Of Machine/Dma.lean -/

@[simp] theorem State.retireRow_canon {s : State} (c ch k : Nat) (row : Row) (h : CanonicalMem s.memories) :
    CanonicalMem (s.retireRow c ch k row).memories := by
  simp [State.retireRow, h]
@[simp] theorem State.act_canon {s : State} (c ch : Nat) (a : RowAct) (h : CanonicalMem s.memories) : CanonicalMem (s.act c ch a).memories := by
  simp only [State.act]
  split <;> simp [h]
@[simp] theorem State.endTransfer_canon {s : State} (c ch : Nat) (h : CanonicalMem s.memories) : CanonicalMem (s.endTransfer c ch).memories := by
  unfold State.endTransfer
  dsimp only
  rw [State.bump_memories, State.setCore_memories]
  split
  · refine foldl_canon (fun t e ht => ?_) _ h
    split <;> simp [ht]
  · exact h
@[simp] theorem State.disableChannel_canon {s : State} (c ch : Nat) (h : CanonicalMem s.memories) :
    CanonicalMem (s.disableChannel c ch).memories := by
  simp only [State.disableChannel]
  split <;> simp [h]
@[simp] theorem State.disableMask_canon {s : State} (c mask : Nat) (h : CanonicalMem s.memories) :
    CanonicalMem (s.disableMask c mask).memories := by
  unfold State.disableMask
  exact foldl_canon (fun t x ht => by simp [ht]) _ h
@[simp] theorem doDmaDisable_canon (p c mask : Nat) {s : State} (h : CanonicalMem s.memories) :
    CanonicalMem (doDmaDisable p c mask s).1.memories := by
  simp [doDmaDisable, h]

/-! ### Of Machine/Sparing.lean -/

@[simp] theorem State.forgetPad_canon {s : State} (c : Nat) (marks : Bool) (h : CanonicalMem s.memories) :
    CanonicalMem (s.forgetPad c marks).memories := by
  simp only [State.forgetPad, memories_mk, canonicalMem_mk]
  exact ⟨wf_forget _ _ _ h.pad, h.dram, h.flash, h.mail⟩
@[simp] theorem State.applyFence_canon {s : State} (cls unit : Nat) (h : CanonicalMem s.memories) :
    CanonicalMem (s.applyFence cls unit).memories := by
  simp only [State.applyFence]
  split <;> simp [h]
@[simp] theorem State.addFence_canon {s : State} (cls origin flags unit : Nat) (h : CanonicalMem s.memories) :
    CanonicalMem (s.addFence cls origin flags unit).1.memories := by
  simp [State.addFence, h]
@[simp] theorem State.addFenceLater_canon {s : State} (cls origin flags unit : Nat) (h : CanonicalMem s.memories) :
    CanonicalMem (s.addFenceLater cls origin flags unit).1.memories := by
  simp only [State.addFenceLater]
  split <;> simp [h]
@[simp] theorem State.shiftSites_canon {s : State} (site : Nat) (h : CanonicalMem s.memories) : CanonicalMem (s.shiftSites site).memories := by
  unfold State.shiftSites
  exact foldl_canon (fun t r ht => by simp [ht]) _ (by simpa using h)
@[simp] theorem State.shiftColumn_canon {s : State} (site used origin flags : Nat) (h : CanonicalMem s.memories) :
    CanonicalMem (s.shiftColumn site used origin flags).1.memories := by
  simp [State.shiftColumn, h]
@[simp] theorem State.shiftLater_canon {s : State} (site used origin flags : Nat) (h : CanonicalMem s.memories) :
    CanonicalMem (s.shiftLater site used origin flags).1.memories := by
  simp [State.shiftLater, h]
@[simp] theorem State.applyPending_canon {s : State} (p : Nat) (h : CanonicalMem s.memories) : CanonicalMem (s.applyPending p).memories := by
  unfold State.applyPending
  exact foldl_canon (fun t x ht => by simp [ht]) _ h
@[simp] theorem State.substituteOffer_canon {s : State} (later : Bool) (c p : Nat) (h : CanonicalMem s.memories) :
    CanonicalMem (s.substituteOffer later c p).memories := by
  simp [State.substituteOffer, h]
@[simp] theorem State.substituteIdle_canon {s : State} (c : Nat) (h : CanonicalMem s.memories) : CanonicalMem (s.substituteIdle c).memories := by
  simp only [State.substituteIdle]
  split <;> simp [h]

/-! ### Of Machine/Resets.lean -/

@[simp] theorem State.coreStop_canon {s : State} (c : Nat) (h : CanonicalMem s.memories) : CanonicalMem (s.coreStop c).memories := by
  simp [State.coreStop, h]
@[simp] theorem State.coreClear_canon {s : State} (c : Nat) (h : CanonicalMem s.memories) : CanonicalMem (s.coreClear c).memories := by
  simp [State.coreClear, h]
@[simp] theorem State.coresReset_canon {s : State} (cs : List Nat) (h : CanonicalMem s.memories) : CanonicalMem (s.coresReset cs).memories := by
  unfold State.coresReset
  exact foldl_canon (fun t c ht => by simp [ht]) _ (foldl_canon (fun t c ht => by simp [ht]) _ h)
@[simp] theorem State.partitionReset_canon {s : State} (p : Nat) (h : CanonicalMem s.memories) : CanonicalMem (s.partitionReset p).memories := by
  simp [State.partitionReset, h]
@[simp] theorem doUnitReset_canon (p c : Nat) (cs : List Nat) {s : State} (h : CanonicalMem s.memories) :
    CanonicalMem (doUnitReset p c cs s).1.memories := by
  simp [doUnitReset, h]

/-! ### Of Machine/Clocks.lean -/

@[simp] theorem State.shiftDown_canon {s : State} (site : Nat) (h : CanonicalMem s.memories) : CanonicalMem (s.shiftDown site).memories := by
  simp only [State.shiftDown]
  split <;> simp [h]

/-! ### Of Machine/Tensors.lean -/

@[simp] theorem doContentWrite_canon (id version offset : Nat) (final : Bool) (data : List Byte) {s : State} (h : CanonicalMem s.memories) :
    CanonicalMem (doContentWrite id version offset final data s).1.memories := by
  unfold doContentWrite
  split
  · exact h
  next t _ =>
    dsimp only
    split
    · split
      · exact h
      · rw [apply_ite State.memories, canonicalMem_ite]
        split
        · simp only [memories_mk, canonicalMem_mk]
          exact ⟨h.pad, wf_writeBytes _ _ _ h.dram, h.flash, h.mail⟩
        · simp only [memories_mk, canonicalMem_mk]
          exact ⟨h.pad, h.dram, wf_writeBytes _ _ _ h.flash, h.mail⟩
    · iterate 3 split; exact h
      split
      · exact h
      · split <;> simp [h]

/-! ### Of Machine/Fetch.lean -/

@[simp] theorem State.gatherWrite_canon {s : State} (q : Nat) (g : GatherTag) (code tin : Nat) (pats : List Nat) (scale : Nat) (h : CanonicalMem s.memories) :
    CanonicalMem (s.gatherWrite q g code tin pats scale).memories := by
  simp only [State.gatherWrite, memories_mk, canonicalMem_mk]
  refine ⟨h.pad, ?_, h.flash, h.mail⟩
  have hw := wf_writeBytes (packElems code pats) s.dram (gatherElems q g code tin) h.dram
  split
  · exact wf_writeByte _ _ _ hw
  · exact hw
@[simp] theorem State.gatherZero_canon {s : State} (q : Nat) (g : GatherTag) (code tin : Nat) (h : CanonicalMem s.memories) :
    CanonicalMem (s.gatherZero q g code tin).memories := by
  simp [State.gatherZero, h]
@[simp] theorem State.deliver_canon {s : State} (q i : Nat) (o : Outcome) (h : CanonicalMem s.memories) :
    CanonicalMem (s.deliver q i o).memories := by
  unfold State.deliver
  split
  · exact h
  · split
    · exact h
    · dsimp only
      rw [State.bump_memories]
      refine foldl_canon (fun t g ht => ?_) _ (by simpa using h)
      split <;> simp [ht]
@[simp] theorem State.fixOutcome_canon {s : State} (q i : Nat) (o : Outcome) (miss : Bool) (h : CanonicalMem s.memories) :
    CanonicalMem (s.fixOutcome q i o miss).memories := by
  unfold State.fixOutcome
  dsimp only
  (repeat' split) <;> simp [h]
@[simp] theorem State.joinEntry_canon {s : State} (q tid tile version : Nat) (w : Waiter) (h : CanonicalMem s.memories) :
    CanonicalMem (s.joinEntry q tid tile version w).memories := by
  unfold State.joinEntry
  dsimp only
  (repeat' split) <;> simp [h]
@[simp] theorem State.gatherFetch_canon {s : State} (q : Nat) (r : BitVec 512) (g : GatherTag) (version : Nat) (w : Waiter) (h : CanonicalMem s.memories) :
    CanonicalMem (s.gatherFetch q r g version w).memories := by
  simp [State.gatherFetch, h]
@[simp] theorem State.missEntry_canon {s : State} (q i : Nat) (e : FetchEntry) (h : CanonicalMem s.memories) :
    CanonicalMem (s.missEntry q i e).memories := by
  simp [State.missEntry, h]
@[simp] theorem State.dataEntry_canon {s : State} (q i : Nat) (e : FetchEntry) (h : CanonicalMem s.memories) :
    CanonicalMem (s.dataEntry q i e).memories := by
  simp [State.dataEntry, h]
@[simp] theorem State.unreadableEntry_canon {s : State} (q i : Nat) (e : FetchEntry) (h : CanonicalMem s.memories) :
    CanonicalMem (s.unreadableEntry q i e).memories := by
  simp [State.unreadableEntry, h]

/-! ### Of Machine/Exchange.lean -/

@[simp] theorem State.shadowLost_canon {s : State} (q i : Nat) (e : FetchEntry) (h : CanonicalMem s.memories) :
    CanonicalMem (s.shadowLost q i e).memories := by
  simp [State.shadowLost, h]

/-! ### Of Machine/Heat.lean -/

@[simp] theorem State.powerOff_canon {s : State} (t : Nat) (h : CanonicalMem s.memories) : CanonicalMem (s.powerOff t).memories := by
  simp [State.powerOff, h]
@[simp] theorem State.toCompute_canon {s : State} (t : Nat) (h : CanonicalMem s.memories) : CanonicalMem (s.toCompute t).memories := by
  simp [State.toCompute, h]
@[simp] theorem State.toDark_canon {s : State} (t : Nat) (h : CanonicalMem s.memories) : CanonicalMem (s.toDark t).memories := by
  simp [State.toDark, h]
theorem State.shedNow_canon {s : State} {t : Nat} {go : State → State} (hgo : ∀ u : State, CanonicalMem u.memories → CanonicalMem (go u).memories)
    (h : CanonicalMem s.memories) : CanonicalMem (s.shedNow t go).memories := by
  simpa [State.shedNow] using hgo _ (by simpa using h)
@[simp] theorem State.shedDue_canon {s : State} (t : Nat) (h : CanonicalMem s.memories) : CanonicalMem (s.shedDue t).memories := by
  unfold State.shedDue
  have compute (u : State) (hu : CanonicalMem u.memories) (f : State → State)
      (hf : ∀ v : State, CanonicalMem v.memories → CanonicalMem (f v).memories) : CanonicalMem (u.shedNow t f).memories :=
    State.shedNow_canon hf hu
  split
  · exact h
  · dsimp only
    split
    · exact compute s h _ fun v hv => by simp [hv]
    · split
      · exact compute s h _ fun v hv => by simp [hv]
      · split
        · split
          · exact compute _ (by simpa using h) _ fun v hv => by simp [hv]
          · simpa using h
        · simpa using h
        · simpa using h
        · exact compute s h _ fun v hv => by simp [hv]
@[simp] theorem State.shedBand_canon {s : State} (p : Nat) (h : CanonicalMem s.memories) : CanonicalMem (s.shedBand p).memories := by
  unfold State.shedBand
  exact foldl_canon (fun t x ht => by simp [ht]) _ h
@[simp] theorem State.unshed_canon {s : State} (t : Nat) (h : CanonicalMem s.memories) : CanonicalMem (s.unshed t).memories := by
  simp only [State.unshed, State.noteRestorable_memories, State.event_memories]
  exact foldl_canon (fun u c hu => State.forgetPad_canon c true hu) _ (by simpa using h)
@[simp] theorem doShedLeave_canon (tile : Nat) {s : State} (h : CanonicalMem s.memories) : CanonicalMem (doShedLeave tile s).1.memories := by
  simp [doShedLeave, h]
@[simp] theorem doShedCompute_canon (tile : Nat) {s : State} (h : CanonicalMem s.memories) : CanonicalMem (doShedCompute tile s).1.memories := by
  simp [doShedCompute, h]
@[simp] theorem doShedDark_canon (tile : Nat) {s : State} (h : CanonicalMem s.memories) : CanonicalMem (doShedDark tile s).1.memories := by
  simp [doShedDark, h]

/-! ### Of Machine/Marks.lean -/

@[simp] theorem State.partitionFault_canon {s : State} (p : Nat) (f : Firing) (causes : List PFault) (h : CanonicalMem s.memories) :
    CanonicalMem (s.partitionFault p f causes).memories := by
  unfold State.partitionFault
  dsimp only
  (repeat' split) <;> simp [h]
@[simp] theorem State.partitionStop_canon {s : State} (p : Nat) (h : CanonicalMem s.memories) : CanonicalMem (s.partitionStop p).memories := by
  simp [State.partitionStop, h]
@[simp] theorem State.deferred_canon {s : State} (p : Nat) (h : CanonicalMem s.memories) : CanonicalMem (s.deferred p).memories := by
  unfold State.deferred
  refine foldl_canon (fun u d hu => State.disableMask_canon d.1 d.2 hu) _ ?_
  simpa using h
@[simp] theorem State.fireEffects_canon {s : State} (p : Nat) (f : Firing) (h : CanonicalMem s.memories) :
    CanonicalMem (s.fireEffects p f).memories := by
  simp [State.fireEffects, h]
@[simp] theorem State.takePreempt_canon {s : State} (p : Nat) (f : Firing) (ticket : Nat) (h : CanonicalMem s.memories) :
    CanonicalMem (s.takePreempt p f ticket).memories := by
  unfold State.takePreempt
  extract_lets pt cs point s0 s1 s2
  have h0 : CanonicalMem s0.memories := foldl_canon (fun u c hu => State.disableMask_canon c 255 hu) _ (by simpa using h)
  have h2 : s2.memories = s1.memories := foldl_memories (fun u c => by simp) _ _
  simp only [State.endTicket_memories, State.setCtl_memories]
  rw [State.setPart_memories, h2]
  simp only [s1, State.cancelFetches_memories, State.clearEgress_memories, State.clearColumns_memories]
  exact h0
@[simp] theorem State.fireOn_canon {s : State} (p : Nat) (f : Firing) (h : CanonicalMem s.memories) : CanonicalMem (s.fireOn p f).memories := by
  simp only [State.fireOn]
  split <;> simp [h]
@[simp] theorem State.fireAt_canon {s : State} (p : Nat) (f : Firing) (t : Nat) (causes : List PFault) (h : CanonicalMem s.memories) :
    CanonicalMem (s.fireAt p f t causes).memories := by
  unfold State.fireAt
  dsimp only
  (repeat' split) <;> simp [h]

/-! ### Of Machine/Launch.lean -/

@[simp] theorem State.substituteSite_canon {s : State} (site p : Nat) (h : CanonicalMem s.memories) :
    CanonicalMem (s.substituteSite site p).memories := by
  simp [State.substituteSite, h]
@[simp] theorem State.substituteBand_canon {s : State} (p : Nat) (h : CanonicalMem s.memories) : CanonicalMem (s.substituteBand p).memories := by
  unfold State.substituteBand
  exact foldl_canon (fun u c hu => State.substituteOffer_canon false c p hu) _
    (foldl_canon (fun u k hu => State.substituteSite_canon k p hu) _ (State.applyPending_canon p h))
@[simp] theorem State.clearMail_canon {s : State} (p : Nat) (h : CanonicalMem s.memories) : CanonicalMem (s.clearMail p).memories := by
  simp only [State.clearMail, memories_mk, canonicalMem_mk]
  exact ⟨h.pad, h.dram, h.flash, wf_forget _ _ _ h.mail⟩
@[simp] theorem State.startPartition_canon {s : State} (p : Nat) (img0 : Image) (vs : List Nat) (rec : BitVec 256) (recovery : Bool) (h : CanonicalMem s.memories) :
    CanonicalMem (s.startPartition p img0 vs rec recovery).memories := by
  unfold State.startPartition
  extract_lets img pt latency pt1 s1 s2 s3 s4 s5 s6 overlay s7 s8 s9
  have h1 : CanonicalMem s1.memories := State.applyPending_canon p (by simpa using h)
  have h3 : CanonicalMem s3.memories := foldl_canon (fun u c hu => by simp [hu]) _ (by simpa [s2] using h1)
  have h7 : CanonicalMem s7.memories := by simpa [s7, s6, s5, s4] using h3
  have h8 : CanonicalMem s8.memories := by
    simp only [s8]
    split
    · exact h7
    · exact State.clearMail_canon p h7
  have h9 : s9.memories = s8.memories := by
    simp only [s9]
    split <;> simp
  simpa [h9] using h8
@[simp] theorem doLaunch_canon (p : Nat) (rec : BitVec 256) {s : State} (h : CanonicalMem s.memories) :
    CanonicalMem (doLaunch p rec s).1.memories := by
  unfold doLaunch
  dsimp only
  (repeat' split) <;> simp [h]
@[simp] theorem State.startResume_canon {s : State} (p : Nat) (point : ResumePoint) (rec : BitVec 256) (h : CanonicalMem s.memories) :
    CanonicalMem (s.startResume p point rec).memories := by
  simp only [State.startResume]
  split <;> simp [h]
@[simp] theorem doResume_canon (p : Nat) (rec : BitVec 256) {s : State} (h : CanonicalMem s.memories) :
    CanonicalMem (doResume p rec s).1.memories := by
  unfold doResume
  dsimp only
  (repeat' split) <;> simp [h]
@[simp] theorem doLaunchWrite_canon (p : Nat) (rec : BitVec 256) {s : State} (h : CanonicalMem s.memories) :
    CanonicalMem (doLaunchWrite p rec s).1.memories := by
  simp [doLaunchWrite, h]
@[simp] theorem State.launchNow_canon {s : State} (p : Nat) (h : CanonicalMem s.memories) : CanonicalMem (s.launchNow p).memories := by
  simp [State.launchNow, h]
@[simp] theorem State.resumeNow_canon {s : State} (p : Nat) (point : ResumePoint) (h : CanonicalMem s.memories) :
    CanonicalMem (s.resumeNow p point).memories := by
  simp [State.resumeNow, h]

/-! ### Of Machine/Recovery.lean -/

@[simp] theorem State.relaunch_canon {s0 : State} (p k base : Nat) (units : List (Nat × Nat)) (img : Image) (vs : List Nat) (h : CanonicalMem s0.memories) :
    CanonicalMem (s0.relaunch p k base units img vs).memories := by
  simp only [State.relaunch]
  split <;> simp [h]
@[simp] theorem State.takeSpare_canon {s : State} (p u : Nat) (h : CanonicalMem s.memories) : CanonicalMem (s.takeSpare p u).memories := by
  simp [State.takeSpare, h]
@[simp] theorem State.takeBerth_canon {s : State} (u : Nat) (h : CanonicalMem s.memories) : CanonicalMem (s.takeBerth u).memories := by
  simp [State.takeBerth, h]
@[simp] theorem State.replacePart_canon {s : State} (p base : Nat) (units : List (Nat × Nat)) (h : CanonicalMem s.memories) :
    CanonicalMem (s.replacePart p base units).memories := by
  unfold State.replacePart
  extract_lets slot
  split
  · simpa using h
  · split
    · simpa using h
    next hplace =>
      rw [← State.findPlace_memories hplace] at h
      extract_lets ct r t1 t2
      have h2 : CanonicalMem t2.memories := State.relaunch_canon p _ _ _ _ _ (by simpa [t1] using h)
      split
      · simpa using h2
      · exact h2
@[simp] theorem State.groupRelaunch_canon {s : State} (p : Nat) (g : GroupRelaunch) (h : CanonicalMem s.memories) :
    CanonicalMem (s.groupRelaunch p g).memories := by
  have refused (u : State) (hu : CanonicalMem u.memories) (a b c d : Nat) : CanonicalMem (u.event a b c d).memories := by
    rwa [State.event_memories]
  fun_cases State.groupRelaunch s p g
  case case1 => exact refused _ (by exact h) _ _ _ _
  case case2 => exact refused _ (by exact h) _ _ _ _
  case case3 => exact refused _ (by exact h) _ _ _ _
  case case4 slot _ s0 img _ _ _ place t0 hplace t _ _ _ =>
    have hsame : t0.memories = s0.memories := by
      simp only [place] at hplace
      split at hplace
      · exact State.findPlace_memories hplace
      · cases hplace
        rfl
    have ht : CanonicalMem t.memories := State.substituteBand_canon p (by rw [hsame]; exact h)
    refine refused _ (State.startPartition_canon p _ _ _ _ ?_) _ _ _ _
    rw [State.verifySlot_memories]
    exact ht
@[simp] theorem State.relaunchInPlace_canon {s : State} (p base : Nat) (all : Bool) (h : CanonicalMem s.memories) :
    CanonicalMem (s.relaunchInPlace p base all).memories := by
  unfold State.relaunchInPlace
  dsimp only
  (repeat' split) <;> simp [h]
@[simp] theorem State.recoverSites_canon {s : State} (p base pin : Nat) (h : CanonicalMem s.memories) :
    CanonicalMem (s.recoverSites p base pin).memories := by
  unfold State.recoverSites
  split
  · simpa using h
  · extract_lets us plan free ones s1 twos s2 vs s3 k s4
    have h1 : CanonicalMem s1.memories := foldl_canon (fun t e ht => State.takeSpare_canon p _ ht) _ (by split <;> simp [h])
    have h2 : CanonicalMem s2.memories := foldl_canon (fun t e ht => State.takeBerth_canon _ ht) _ h1
    have h3 : s3.memories = s2.memories := by
      simp only [s3]
      split <;> simp
    have h4 : CanonicalMem s4.memories := State.relaunch_canon p _ _ _ _ _ (h3 ▸ h2)
    split
    · split <;> simp [h]
    · split <;> simp [h4]
@[simp] theorem State.decideRecovery_canon {s : State} (p : Nat) (all : Bool) (h : CanonicalMem s.memories) :
    CanonicalMem (s.decideRecovery p all).memories := by
  unfold State.decideRecovery
  dsimp only
  (repeat' split) <;> simp [h]
@[simp] theorem doRecover_canon (p : Nat) {s : State} (h : CanonicalMem s.memories) : CanonicalMem (doRecover p s).1.memories := by
  simp [doRecover, h]

/-! ### Of Machine/Controller.lean -/

@[simp] theorem State.clearMails_canon {s : State} (h : CanonicalMem s.memories) : CanonicalMem (s.clearMails).memories := by
  simp only [State.clearMails, memories_mk, canonicalMem_mk]
  exact ⟨h.pad, h.dram, h.flash, wf_nil⟩
@[simp] theorem State.restart_canon {s : State} (expired : Bool) (h : CanonicalMem s.memories) : CanonicalMem (s.restart expired).memories := by
  simp [State.restart, h]

/-! ### Of Machine/BringUp.lean -/

@[simp] theorem State.applyFences_canon {s : State} (h : CanonicalMem s.memories) : CanonicalMem (s.applyFences).memories := by
  unfold State.applyFences
  exact foldl_canon (fun t x ht => by simp [ht]) _ h
@[simp] theorem State.clearWafer_canon {s : State} (h : CanonicalMem s.memories) : CanonicalMem (s.clearWafer).memories := by
  unfold State.clearWafer
  dsimp only
  rw [foldl_memories fun t k => by simp, memories_mk, canonicalMem_mk]
  exact ⟨wf_nil, h.dram, h.flash, h.mail⟩
@[simp] theorem State.beginStages_canon {s : State} (form : Nat) (moduleReset : Bool) (h : CanonicalMem s.memories) :
    CanonicalMem (s.beginStages form moduleReset).memories := by
  simp [State.beginStages, h]
@[simp] theorem State.failUnit_canon {s : State} (origin : Nat) (later : Bool) (cls unit : Nat) (h : CanonicalMem s.memories) :
    CanonicalMem (s.failUnit origin later cls unit).1.memories := by
  simp [State.failUnit, h]
@[simp] theorem State.failUnits_canon {s : State} (origin : Nat) (later : Bool) (units : List (Nat × Nat)) (h : CanonicalMem s.memories) :
    CanonicalMem (s.failUnits origin later units).1.memories := foldl_fst_canon (fun a u ha => State.failUnit_canon origin later u.1 u.2 ha) units h
@[simp] theorem State.fenceUntested_canon {s : State} (h : CanonicalMem s.memories) : CanonicalMem (s.fenceUntested).1.memories := by
  unfold State.fenceUntested
  extract_lets cs add
  clear_value cs
  split
  · exact foldl_canon (fun t c ht => by simp [add, ht]) cs h
  · exact h
@[simp] theorem State.reconcile_canon {s : State} (classes : List Nat) (failing passing : List (Nat × Nat)) (untested : Nat) (h : CanonicalMem s.memories) :
    CanonicalMem (s.reconcile classes failing passing untested).1.memories := by
  simp [State.reconcile, h]
@[simp] theorem State.variantStacks_canon {s : State} (h : CanonicalMem s.memories) : CanonicalMem (s.variantStacks).memories := by
  unfold State.variantStacks
  dsimp only
  split
  · simpa using h
  · refine foldl_canon (fun t q ht => ?_) _ (by simpa using h)
    split
    · exact ht
    · simpa using State.addFence_canon 6 6 0 (4 * q + 3) ht
@[simp] theorem State.endS1_canon {s : State} (e : StageEnd) (failing : List (Nat × Nat)) (h : CanonicalMem s.memories) :
    CanonicalMem (s.endS1 e failing).memories := by
  simp [State.endS1, h]
@[simp] theorem State.endS4_canon {s : State} (e : StageEnd) (failing passing : List (Nat × Nat)) (h : CanonicalMem s.memories) :
    CanonicalMem (s.endS4 e failing passing).memories := by
  simp [State.endS4, h]
@[simp] theorem State.endS5_canon {s : State} (e : StageEnd) (failing passing : List (Nat × Nat)) (h : CanonicalMem s.memories) :
    CanonicalMem (s.endS5 e failing passing).memories := by
  have clean (m : Tbl (Option Mark)) (b : BringUp) : CanonicalMem ({ s with pad := [], marks := m, bring := b } : State).memories := by
    rw [memories_mk, canonicalMem_mk]
    exact ⟨wf_nil, h.dram, h.flash, h.mail⟩
  unfold State.endS5
  dsimp only
  split
  · split
    · rw [State.closeStage_memories]
      exact clean _ _
    · exact clean _ _
  · rw [State.closeStage_memories, State.bump_memories]
    exact State.reconcile_canon [1, 6] failing passing 0 (clean _ _)

/-! ### Of Machine/Service.lean -/

@[simp] theorem State.undefineTiles_canon {s : State} (t : TestRun) (h : CanonicalMem s.memories) :
    CanonicalMem (s.undefineTiles t).memories := by
  unfold State.undefineTiles
  split
  · exact h
  · simp only [memories_mk, canonicalMem_mk]
    exact ⟨rising_filter _ _ h.pad, h.dram, h.flash, h.mail⟩
@[simp] theorem doOverlayAdd_canon (r : BitVec 128) {s : State} (h : CanonicalMem s.memories) : CanonicalMem (doOverlayAdd r s).1.memories := by
  simp [doOverlayAdd, h]
@[simp] theorem State.liftUnit_canon {s : State} (waited : Bool) (cls unit : Nat) (h : CanonicalMem s.memories) :
    CanonicalMem (s.liftUnit waited cls unit).memories := by
  unfold State.liftUnit
  split
  · exact h
  · split
    · simpa using h
    · simp only [memories_mk, memories_fold]
      exact foldl_canon (fun u r hu => State.forgetPad_canon _ true hu) _ h
    · simpa using h
    · exact h
@[simp] theorem doOverlayRemove_canon (cls unit : Nat) {s : State} (h : CanonicalMem s.memories) :
    CanonicalMem (doOverlayRemove cls unit s).1.memories := by
  unfold doOverlayRemove
  dsimp only
  (repeat' split) <;> simp [h]

/-! ### Of Machine/ModuleReset.lean -/

@[simp] theorem State.stopForReset_canon {s : State} (p : Nat) (h : CanonicalMem s.memories) : CanonicalMem (s.stopForReset p).memories := by
  simp [State.stopForReset, h]
@[simp] theorem State.beginDrain_canon {s : State} (h : CanonicalMem s.memories) : CanonicalMem (s.beginDrain).memories := by
  unfold State.beginDrain
  dsimp only
  rw [foldl_memories fun t x => t.endTest_memories x 3 0 0]
  exact foldl_canon (fun t p ht => State.stopForReset_canon p ht) _ h
@[simp] theorem State.resetModule_canon {s : State} (h : CanonicalMem s.memories) : CanonicalMem (s.resetModule).memories := by
  simp [State.resetModule, h]

/-! ### Of Machine/Power.lean -/

@[simp] theorem State.removePower_canon {s : State} (copyLog : Bool) (st : PowerState) (h : CanonicalMem s.memories) :
    CanonicalMem (s.removePower copyLog st).memories := by
  have hw : CanonicalMem (s.clearWafer.clearQuays.dropVersions true).bump.memories := by simp [h]
  simp only [State.removePower, memories_mk, canonicalMem_mk]
  exact ⟨hw.pad, wf_nil, hw.flash, wf_nil⟩
@[simp] theorem State.startUp_canon {s : State} (h : CanonicalMem s.memories) : CanonicalMem (s.startUp).memories := by
  simp [State.startUp, h]
@[simp] theorem State.drainToStandby_canon {s : State} (h : CanonicalMem s.memories) : CanonicalMem (s.drainToStandby).memories := by
  simp [State.drainToStandby, h]
@[simp] theorem doLeaveDeepPark_canon {s : State} (h : CanonicalMem s.memories) : CanonicalMem (doLeaveDeepPark s).1.memories := by
  simp [doLeaveDeepPark, h]
@[simp] theorem doStandby_canon {s : State} (h : CanonicalMem s.memories) : CanonicalMem (doStandby s).1.memories := by
  simp [doStandby, h]
@[simp] theorem State.shedFlow_canon {s : State} (t : Nat) (h : CanonicalMem s.memories) : CanonicalMem (s.shedFlow t).memories := by
  unfold State.shedFlow
  dsimp only
  (repeat' split) <;> simp [h]
@[simp] theorem State.loseInput_canon {s : State} (mv kind : Nat) (copyLog : Bool) (h : CanonicalMem s.memories) :
    CanonicalMem (s.loseInput mv kind copyLog).memories := by
  simp [State.loseInput, h]

/-! ### Of Machine/Protocol.lean -/

@[simp] theorem cmdCase_canon {n : Nat} {cases : List (Nat × (State → State × Nat))} {s : State}
    (hc : ∀ e ∈ cases, CanonicalMem (e.2 s).1.memories) (h : CanonicalMem s.memories) : CanonicalMem (cmdCase n cases s).1.memories := by
  unfold cmdCase
  split
  next e he => exact hc e (List.mem_of_find?_eq_some he)
  · exact h
@[simp] theorem cmdSized_canon {n : Nat} {v : List Byte} {s : State} {f : State → State × Nat} (hf : CanonicalMem (f s).1.memories)
    (h : CanonicalMem s.memories) : CanonicalMem (cmdSized n v f s).1.memories := by
  unfold cmdSized
  split
  · exact hf
  · exact h
@[simp] theorem moduleCommand_canon (cl : Client) (idx sub : Nat) (v : List Byte) {s : State} (h : CanonicalMem s.memories) :
    CanonicalMem (moduleCommand cl idx sub v s).1.memories := by
  unfold moduleCommand
  dsimp only
  split
  · split <;> simp [h]
  · split
    · split <;> simp [h]
    · split
      · split <;> simp [h]
      · split
        · simp [h]
        · split
          · refine cmdSized_canon ?_ h
            split <;> simp [h]
          · split
            · split
              · exact cmdSized_canon (cmdCase_canon (by simp [h]) h) h
              · simp [h]
            · split <;> simp [h]
@[simp] theorem workCommand_canon (idx sub : Nat) (v : List Byte) {s : State} (h : CanonicalMem s.memories) :
    CanonicalMem (workCommand idx sub v s).1.memories := by
  unfold workCommand
  dsimp only
  split
  · split
    iterate 4 simp [h]
    exact cmdSized_canon (cmdCase_canon (by simp [h]) h) h
  · split
    · split
      · simp [h]
      · simp [h]
      · simp [h]
      · split <;> simp [h]
      · simp [h]
    · split
      · split
        · simp [h]
        · simp [h]
        · split <;> simp [h]
        · simp [h]
      · refine cmdSized_canon ?_ h
        split <;> simp [h]
@[simp] theorem doCommand_canon (cl : Client) (idx sub : Nat) (v : List Byte) {s : State} (h : CanonicalMem s.memories) :
    CanonicalMem (doCommand cl idx sub v s).1.memories := by
  simp [doCommand, h]
@[simp] theorem doWrite_canon (cl : Client) (idx sub : Nat) (o : ObjInfo) (v : List Byte) {s : State} (h : CanonicalMem s.memories) :
    CanonicalMem (doWrite cl idx sub o v s).1.memories := by
  unfold doWrite
  split
  · simp [h]
  · split
    · simp [h]
    · split
      · simp [h]
      · split
        · simp [h]
        · split
          · simpa using h
          · split <;> simp [h]
@[simp] theorem doWriteOp_canon (cl : Client) (idx sub : Nat) (draft : Bool) (o : ObjInfo) (v : List Byte) {s : State} (h : CanonicalMem s.memories) :
    CanonicalMem (doWriteOp cl idx sub draft o v s).1.memories := by
  simp only [doWriteOp]
  split <;> simp [h]
@[simp] theorem doWriteSeg_canon (cl : Client) (idx sub : Nat) (draft final : Bool) (offset : Nat) (o : ObjInfo) (v : List Byte) {s : State} (h : CanonicalMem s.memories) :
    CanonicalMem (doWriteSeg cl idx sub draft final offset o v s).1.memories := by
  simp [doWriteSeg, h]
@[simp] theorem State.operate_canon {s : State} (cl : Client) (o : SivarOp) (info : ObjInfo) (h : CanonicalMem s.memories) :
    CanonicalMem (s.operate cl o info).memories := by
  unfold State.operate
  dsimp only
  (repeat' split) <;> simp [h]
@[simp] theorem State.perform_canon {s : State} (cl : Client) (o : SivarOp) (h : CanonicalMem s.memories) :
    CanonicalMem (s.perform cl o).memories := by
  unfold State.perform
  dsimp only
  (repeat' split) <;> simp [h]
@[simp] theorem runOps_canon (cl : Client) (cap : Nat) (x0 : List SivarOp) {x1 : State} (x2 : List Byte) (x3 : Nat) (h : CanonicalMem x1.memories) :
    CanonicalMem (runOps cl cap x0 x1 x2 x3).1.memories := by
  induction x0 generalizing x1 x2 x3 with
  | nil => exact h
  | cons o rest ih =>
    simp only [runOps]
    split
    · exact State.perform_canon cl o h
    · exact ih _ _ (State.perform_canon cl o h)
@[simp] theorem State.message_canon {s : State} (cl : Client) (ops : List SivarOp) (h : CanonicalMem s.memories) :
    CanonicalMem (s.message cl ops).memories := by
  simp [State.message, h]
@[simp] theorem State.single_canon {s : State} (cl : Client) (o : SivarOp) (h : CanonicalMem s.memories) :
    CanonicalMem (s.single cl o).memories := by
  simp [State.single, h]
theorem State.hostCommand_canon {s : State} {cl : Client} {f : State → State × Nat}
    (hf : ∀ t, CanonicalMem t.memories → CanonicalMem (f t).1.memories) (h : CanonicalMem s.memories) :
    CanonicalMem (s.hostCommand cl f).memories := by
  unfold State.hostCommand
  split
  · exact h
  · split
    · exact h
    · dsimp only
      split
      · simpa using h
      · simpa using hf _ (by simpa using h)
end Sys2Proof.Machine
end

section
/-! SUPPORT. Every row keeps the canonical form of the byte memories, and the step with it. -/

namespace Sys2Proof.Machine

/-- Where an outcome is a next state, that state's byte memories are canonical. -/
def OutCanon (o : Out) : Prop := ∀ t, o = .next t → CanonicalMem t.memories

@[simp] theorem outCanon_next (t : State) : OutCanon (.next t) ↔ CanonicalMem t.memories :=
  ⟨fun h => h t rfl, fun h u hu => by cases hu; exact h⟩

@[simp] theorem outCanon_fault (f : Fault) : OutCanon (.fault f) := fun t ht => by cases ht

@[simp] theorem outCanon_ite {p : Prop} [Decidable p] (a b : Out) : OutCanon (if p then a else b) ↔ if p then OutCanon a else OutCanon b := by
  split <;> rfl

section
variable {s k : State} (h : CanonicalMem k.memories)
include h

@[simp] theorem onCore_canon (c : Nat) : OutCanon (onCore s c k) := by unfold onCore; split <;> simp [h]
@[simp] theorem onPart_canon (p : Nat) : OutCanon (onPart p k) := by unfold onPart; split <;> simp [h]
@[simp] theorem onQuay_canon (q : Nat) : OutCanon (onQuay q k) := by unfold onQuay; split <;> simp [h]
@[simp] theorem onPort_canon (i : Nat) : OutCanon (onPort i k) := by unfold onPort; split <;> simp [h]
@[simp] theorem onTile_canon (t : Nat) : OutCanon (onTile t k) := by unfold onTile; split <;> simp [h]
@[simp] theorem onHost_canon (i : Nat) : OutCanon (onHost i k) := by unfold onHost; split <;> simp [h]
@[simp] theorem onColumn_canon (x : Nat) : OutCanon (onColumn s x k) := by unfold onColumn; split <;> simp [h]

/-- A row that does not issue is a stop or changes nothing. -/
@[simp] theorem onIssuing_canon (hs : CanonicalMem s.memories) (c : Nat) : OutCanon (onIssuing s c k) := by
  unfold onIssuing
  refine onCore_canon ?_ c
  split <;> simp [h, hs]
end

@[simp] theorem seqOp_canon {s : State} (h : CanonicalMem s.memories) (c : Nat) (f : Core → Core) : OutCanon (seqOp s c f) := by
  unfold seqOp
  exact onIssuing_canon (by simp [h]) h c


section
variable {s : State} (h : CanonicalMem s.memories)
include h

@[simp] theorem execSpbNop_canon (c : Nat) : OutCanon (execSpbNop c s) := by simp [execSpbNop, h]
@[simp] theorem execSset_canon (c reg : Nat) (value : BitVec 16) : OutCanon (execSset c reg value s) := by simp [execSset, h]
@[simp] theorem execSvld_canon (c sel src : Nat) : OutCanon (execSvld c sel src s) := by simp [execSvld, h]
@[simp] theorem execSmv_canon (c sel src : Nat) : OutCanon (execSmv c sel src s) := by simp [execSmv, h]
@[simp] theorem execSfin_canon (c sel dst : Nat) (sr : Bool) : OutCanon (execSfin c sel dst sr s) := by simp [execSfin, h]
@[simp] theorem execSclr_canon (c : Nat) : OutCanon (execSclr c s) := by simp [execSclr, h]
@[simp] theorem execVecNop_canon (c : Nat) : OutCanon (execVecNop c s) := by simp [execVecNop, h]
@[simp] theorem execVset_canon (c reg : Nat) (value : BitVec 21) : OutCanon (execVset c reg value s) := by simp [execVset, h]
@[simp] theorem execVlds_canon (c sel src : Nat) : OutCanon (execVlds c sel src s) := by simp [execVlds, h]
@[simp] theorem execVldt_canon (c sel src bank : Nat) (sum : Bool) : OutCanon (execVldt c sel src bank sum s) := by simp [execVldt, h]
@[simp] theorem execVstt_canon (c sel dst bank : Nat) : OutCanon (execVstt c sel dst bank s) := by simp [execVstt, h]
@[simp] theorem execVclr_canon (c mask : Nat) : OutCanon (execVclr c mask s) := by simp [execVclr, h]
@[simp] theorem execVbin_canon (c sel src dst sub : Nat) (sr accd : Bool) : OutCanon (execVbin c sel src dst sub sr accd s) := by
  simp [execVbin, h]
@[simp] theorem execVun_canon (c sel src dst sub : Nat) (sr accd : Bool) : OutCanon (execVun c sel src dst sub sr accd s) := by simp [execVun, h]
@[simp] theorem execVtok_canon (c sel src dst sub : Nat) (sr accd : Bool) : OutCanon (execVtok c sel src dst sub sr accd s) := by
  simp [execVtok, h]
@[simp] theorem execVred_canon (c sel src dst sub : Nat) (accd : Bool) : OutCanon (execVred c sel src dst sub accd s) := by simp [execVred, h]
@[simp] theorem execVnrm_canon (c sel src dst sub : Nat) (sr : Bool) : OutCanon (execVnrm c sel src dst sub sr s) := by simp [execVnrm, h]
@[simp] theorem execVsmx_canon (c sel src dst : Nat) (accd : Bool) : OutCanon (execVsmx c sel src dst accd s) := by simp [execVsmx, h]
@[simp] theorem execVlse_canon (c sel src bank : Nat) : OutCanon (execVlse c sel src bank s) := by simp [execVlse, h]
@[simp] theorem execVxent_canon (c sel src dst : Nat) (sr accd : Bool) : OutCanon (execVxent c sel src dst sr accd s) := by simp [execVxent, h]
@[simp] theorem execVkld_canon (c sel src dst sub : Nat) (sr accd : Bool) : OutCanon (execVkld c sel src dst sub sr accd s) := by
  simp [execVkld, h]
@[simp] theorem execVtopk_canon (c sel src dst sub : Nat) : OutCanon (execVtopk c sel src dst sub s) := by simp [execVtopk, h]
@[simp] theorem execVdrop_canon (c sel src dst sub : Nat) (sr : Bool) : OutCanon (execVdrop c sel src dst sub sr s) := by simp [execVdrop, h]
@[simp] theorem execArrNop_canon (c : Nat) : OutCanon (execArrNop c s) := by simp [execArrNop, h]
@[simp] theorem execAset_canon (c reg : Nat) (value : BitVec 18) : OutCanon (execAset c reg value s) := by simp [execAset, h]
@[simp] theorem execWsg_canon (c sel src dst : Nat) (sr drain acc : Bool) : OutCanon (execWsg c sel src dst sr drain acc s) := by
  simp [execWsg, h]
@[simp] theorem execWss_canon (c sel src dst : Nat) (sr drain acc : Bool) : OutCanon (execWss c sel src dst sr drain acc s) := by
  simp [execWss, h]
@[simp] theorem execWtg_canon (c sel src dst : Nat) (sr drain acc : Bool) : OutCanon (execWtg c sel src dst sr drain acc s) := by
  simp [execWtg, h]
@[simp] theorem execWts_canon (c sel src dst : Nat) (sr drain acc : Bool) : OutCanon (execWts c sel src dst sr drain acc s) := by
  simp [execWts, h]
@[simp] theorem execOsp_canon (c sel src dst : Nat) (seedz : Bool) : OutCanon (execOsp c sel src dst seedz s) := by simp [execOsp, h]
@[simp] theorem execStationaryLoad_canon (c : Nat) : OutCanon (execStationaryLoad c s) := by
  unfold execStationaryLoad
  dsimp only
  (repeat' split) <;> simp [h]
@[simp] theorem execPassSwap_canon (c : Nat) : OutCanon (execPassSwap c s) := by
  unfold execPassSwap
  dsimp only
  (repeat' split) <;> simp [h]
@[simp] theorem execChainDrain_canon (c : Nat) : OutCanon (execChainDrain c s) := by
  unfold execChainDrain
  dsimp only
  (repeat' split) <;> simp [h]
@[simp] theorem execScoreboardRelease_canon (c entry : Nat) : OutCanon (execScoreboardRelease c entry s) := by
  simp only [execScoreboardRelease]
  split <;> simp [h]
@[simp] theorem execTransitSlotEntry_canon (p : Nat) (place : Station) (cycle : Nat) (east : Bool) :
    OutCanon (execTransitSlotEntry p place cycle east s) := by
  unfold execTransitSlotEntry
  dsimp only
  (repeat' split) <;> simp [h]
@[simp] theorem execNext_canon (c : Nat) : OutCanon (execNext c s) := by simp [execNext, h]
@[simp] theorem execLoop_canon (c level count : Nat) : OutCanon (execLoop c level count s) := by simp [execLoop, h]
@[simp] theorem execEndl_canon (c level : Nat) : OutCanon (execEndl c level s) := by simp [execEndl, h]
@[simp] theorem execSetix_canon (c r value : Nat) : OutCanon (execSetix c r value s) := by simp [execSetix, h]
@[simp] theorem execAddix_canon (c r value : Nat) : OutCanon (execAddix c r value s) := by simp [execAddix, h]
@[simp] theorem execWaitmark_canon (c entry : Nat) : OutCanon (execWaitmark c entry s) := by
  unfold execWaitmark
  dsimp only
  (repeat' split) <;> simp [h]
@[simp] theorem execBarrier_canon (c wire : Nat) : OutCanon (execBarrier c wire s) := by
  unfold execBarrier
  dsimp only
  (repeat' split) <;> simp [h]
@[simp] theorem execWaitdma_canon (c ch : Nat) : OutCanon (execWaitdma c ch s) := by simp [execWaitdma, h]
@[simp] theorem execHalt_canon (c : Nat) : OutCanon (execHalt c s) := by simp [execHalt, h]
@[simp] theorem execJump_canon (c target : Nat) : OutCanon (execJump c target s) := by simp [execJump, h]
@[simp] theorem execArmwin_canon (c win rowsM1 : Nat) : OutCanon (execArmwin c win rowsM1 s) := by
  unfold execArmwin
  dsimp only
  (repeat' split) <;> simp [h]
@[simp] theorem execDmaStart_canon (c sel ch desc target : Nat) : OutCanon (execDmaStart c sel ch desc target s) := by
  simp only [execDmaStart]
  split <;> simp [h]
@[simp] theorem execScrubWriteBack_canon (c row : Nat) : OutCanon (execScrubWriteBack c row s) := by simp [execScrubWriteBack, h]
@[simp] theorem execWindowSet_canon (cl : Client) (p c win : Nat) (map : BitVec 128) : OutCanon (execWindowSet cl p c win map s) := by
  unfold execWindowSet
  exact onPart_canon (State.command_canon (fun t ht => by simp [ht]) h) _
@[simp] theorem execRemoteRowArrival_canon (c srcModule srcCore : Nat) (tag : TransferTag) (row : Nat) (data : Row) :
    OutCanon (execRemoteRowArrival c srcModule srcCore tag row data s) := by
  simp [execRemoteRowArrival, h]
@[simp] theorem execRemoteReadRequest_canon (c srcModule srcCore : Nat) (tag : RequestTag) (row : Nat) :
    OutCanon (execRemoteReadRequest c srcModule srcCore tag row s) := by
  unfold execRemoteReadRequest
  dsimp only
  (repeat' split) <;> simp [h]
@[simp] theorem execStoreLoad_canon (cores : CoreSet) (seg : Segment) : OutCanon (execStoreLoad cores seg s) := by
  unfold execStoreLoad
  dsimp only
  (repeat' split) <;> simp [h]
@[simp] theorem execBarrierComplete_canon (p wire : Nat) : OutCanon (execBarrierComplete p wire s) := by simp [execBarrierComplete, h]
@[simp] theorem execHeartbeatToggle_canon (c : Nat) : OutCanon (execHeartbeatToggle c s) := by simp [execHeartbeatToggle, h]
@[simp] theorem execHeartbeatMiss_canon (c : Nat) : OutCanon (execHeartbeatMiss c s) := by
  unfold execHeartbeatMiss
  dsimp only
  (repeat' split) <;> simp [h]
@[simp] theorem execDescriptorBegin_canon (c ch : Nat) : OutCanon (execDescriptorBegin c ch s) := by
  unfold execDescriptorBegin
  dsimp only
  (repeat' split) <;> simp [h]
@[simp] theorem execChannelRowMove_canon (c ch : Nat) : OutCanon (execChannelRowMove c ch s) := by
  unfold execChannelRowMove
  refine onCore_canon ?_ c
  split
  · exact h
  · split
    · simpa using State.act_canon c ch _ (by simpa using h)
    · split <;> simp [h]
@[simp] theorem execWriteResponseArrival_canon (c : Nat) (tag : TransferTag) : OutCanon (execWriteResponseArrival c tag s) := by
  simp [execWriteResponseArrival, h]
@[simp] theorem execReadResponseArrival_canon (c : Nat) (tag : TransferTag) (k : Nat) (data : Row) :
    OutCanon (execReadResponseArrival c tag k data s) := by
  simp [execReadResponseArrival, h]
@[simp] theorem execRejectArrival_canon (c : Nat) (tag : TransferTag) (k : Nat) : OutCanon (execRejectArrival c tag k s) := by
  simp [execRejectArrival, h]
@[simp] theorem execChannelComplete_canon (c ch : Nat) : OutCanon (execChannelComplete c ch s) := by simp [execChannelComplete, h]
@[simp] theorem execDmaDisable_canon (cl : Client) (p c mask : Nat) : OutCanon (execDmaDisable cl p c mask s) := by
  unfold execDmaDisable
  exact onPart_canon (State.command_canon (fun t ht => by simp [ht]) h) _
@[simp] theorem execGantryCommit_canon (x : Nat) (north : Bool) : OutCanon (execGantryCommit x north s) := by
  unfold execGantryCommit
  dsimp only
  (repeat' split) <;> simp [h]
@[simp] theorem execGantryBeatArrival_canon (c : Nat) (north : Bool) : OutCanon (execGantryBeatArrival c north s) := by
  unfold execGantryBeatArrival
  dsimp only
  (repeat' split) <;> simp [h]
@[simp] theorem execCreditReturn_canon (c : Nat) (north : Bool) : OutCanon (execCreditReturn c north s) := by
  simp only [execCreditReturn]
  split <;> simp [h]
@[simp] theorem execMulticastStall_canon (x : Nat) (north : Bool) : OutCanon (execMulticastStall x north s) := by
  unfold execMulticastStall
  dsimp only
  (repeat' split) <;> simp [h]
@[simp] theorem execCoreReset_canon (cl : Client) (p c : Nat) : OutCanon (execCoreReset cl p c s) := by
  unfold execCoreReset
  exact onPart_canon (State.command_canon (fun t ht => by simp [ht]) h) _
@[simp] theorem execBerthReset_canon (cl : Client) (p c : Nat) : OutCanon (execBerthReset cl p c s) := by
  unfold execBerthReset
  exact onPart_canon (State.command_canon (fun t ht => by simp [ht]) h) _
@[simp] theorem execCoreResetComplete_canon (c : Nat) : OutCanon (execCoreResetComplete c s) := by simp [execCoreResetComplete, h]
@[simp] theorem execDrainAbandon_canon (c ch : Nat) : OutCanon (execDrainAbandon c ch s) := by simp [execDrainAbandon, h]
@[simp] theorem execScrubRowRead_canon (c : Nat) : OutCanon (execScrubRowRead c s) := by simp [execScrubRowRead, h]
@[simp] theorem execFastClockStart_canon (tile : Nat) : OutCanon (execFastClockStart tile s) := by simp [execFastClockStart, h]
@[simp] theorem execBoundaryPhaseCheck_canon (a b : Nat) (err16 : Int) : OutCanon (execBoundaryPhaseCheck a b err16 s) := by
  simp [execBoundaryPhaseCheck, h]
@[simp] theorem execBoundaryRecalibrate_canon (a b : Nat) : OutCanon (execBoundaryRecalibrate a b s) := by simp [execBoundaryRecalibrate, h]
@[simp] theorem execBeaconClockLost_canon (tile : Nat) : OutCanon (execBeaconClockLost tile s) := by simp [execBeaconClockLost, h]
@[simp] theorem execRouterError_canon (site : Nat) : OutCanon (execRouterError site s) := by simp [execRouterError, h]
@[simp] theorem execTensorCreate_canon (cl : Client) (rec : BitVec 512) : OutCanon (execTensorCreate cl rec s) := by
  unfold execTensorCreate
  exact (outCanon_next _).2 (State.command_canon (fun t ht => by simp [ht]) h)
@[simp] theorem execTensorDelete_canon (cl : Client) (id : Nat) : OutCanon (execTensorDelete cl id s) := by
  unfold execTensorDelete
  exact (outCanon_next _).2 (State.command_canon (fun t ht => by simp [ht]) h)
@[simp] theorem execPinEdit_canon (cl : Client) (id lead residency : Nat) : OutCanon (execPinEdit cl id lead residency s) := by
  unfold execPinEdit
  exact (outCanon_next _).2 (State.command_canon (fun t ht => by simp [ht]) h)
@[simp] theorem execContentWrite_canon (cl : Client) (id version offset : Nat) (final : Bool) (data : List Byte) :
    OutCanon (execContentWrite cl id version offset final data s) := by
  unfold execContentWrite
  exact (outCanon_next _).2 (State.command_canon (fun t ht => by simp [ht]) h)
@[simp] theorem execCheckpoint_canon (cl : Client) (id : Nat) : OutCanon (execCheckpoint cl id s) := by
  unfold execCheckpoint
  exact (outCanon_next _).2 (State.command_canon (fun t ht => by simp [ht]) h)
@[simp] theorem execCheckpointComplete_canon (id : Nat) (ok : Bool) : OutCanon (execCheckpointComplete id ok s) := by
  unfold execCheckpointComplete
  dsimp only
  (repeat' split) <;> simp [h]
@[simp] theorem execQuayRowWrite_canon (q srcModule srcCore offset : Nat) (flash : Bool) (data : Row) :
    OutCanon (execQuayRowWrite q srcModule srcCore offset flash data s) := by
  unfold execQuayRowWrite
  refine onQuay_canon ?_ q
  split
  · exact h
  · split
    · simp only [State.answerRow_memories, memories_mk, canonicalMem_mk]
      exact ⟨h.pad, wf_writeBytes _ _ _ h.dram, h.flash, h.mail⟩
    · simpa using h
@[simp] theorem execQuayRowRead_canon (q srcModule srcCore offset : Nat) (flash : Bool) :
    OutCanon (execQuayRowRead q srcModule srcCore offset flash s) := by
  unfold execQuayRowRead
  refine onQuay_canon ?_ q
  split
  · exact h
  · split <;> simp [h]
@[simp] theorem execFetchIssue_canon (p rec j k step i o : Nat) : OutCanon (execFetchIssue p rec j k step i o s) := by
  unfold execFetchIssue
  dsimp only
  (repeat' split) <;> simp [h]
@[simp] theorem execFetchDataReady_canon (q entry : Nat) : OutCanon (execFetchDataReady q entry s) := by
  unfold execFetchDataReady
  dsimp only
  (repeat' split) <;> simp [h]
@[simp] theorem execDecisionPoint_canon (q entry : Nat) : OutCanon (execDecisionPoint q entry s) := by
  simp only [execDecisionPoint]
  split <;> simp [h]
@[simp] theorem execTilePacketSend_canon (q p col seq : Nat) : OutCanon (execTilePacketSend q p col seq s) := by
  unfold execTilePacketSend
  dsimp only
  (repeat' split) <;> simp [h]
@[simp] theorem execBufferCreditReturn_canon (x : Nat) (north : Bool) : OutCanon (execBufferCreditReturn x north s) := by
  simp only [execBufferCreditReturn]
  split <;> simp [h]
@[simp] theorem execResidencyCopyDone_canon (q id : Nat) : OutCanon (execResidencyCopyDone q id s) := by
  unfold execResidencyCopyDone
  refine onQuay_canon ?_ q
  dsimp only
  split
  · exact h
  · split
    · exact h
    · split
      next hplace =>
        rw [← placeIn_memories hplace] at h
        simpa using h
      · split
        · exact h
        · exact foldl_canon (fun u tid hu => by simpa using hu) _ h
@[simp] theorem execFlashScanPage_canon (q id page step : Nat) : OutCanon (execFlashScanPage q id page step s) := by
  simp only [execFlashScanPage]
  split <;> simp [h]
@[simp] theorem execIntakeRow_canon (address srcModule srcCore : Nat) (data : Row) :
    OutCanon (execIntakeRow address srcModule srcCore data s) := by
  unfold execIntakeRow
  dsimp only
  (repeat' split) <;> simp [h]
@[simp] theorem execFrameConvert_canon (unit col : Nat) : OutCanon (execFrameConvert unit col s) := by
  unfold execFrameConvert
  dsimp only
  (repeat' split) <;> simp [h]
@[simp] theorem execFrameAccumulate_canon (q : Nat) (header : BitVec 256) (payload : List Byte) :
    OutCanon (execFrameAccumulate q header payload s) := by
  simp only [execFrameAccumulate]
  split <;> simp [h]
@[simp] theorem execStatisticsReport_canon (q p layer : Nat) : OutCanon (execStatisticsReport q p layer s) := by simp [execStatisticsReport, h]
@[simp] theorem execFormatDecision_canon (p layer : Nat) : OutCanon (execFormatDecision p layer s) := by
  simp only [execFormatDecision]
  split <;> simp [h]
@[simp] theorem execLayerPin_canon (cl : Client) (p layer pin : Nat) : OutCanon (execLayerPin cl p layer pin s) := by
  unfold execLayerPin
  exact (outCanon_next _).2 (State.command_canon (fun t ht => by simp [ht]) h)
@[simp] theorem execStashDecision_canon (p step o segs : Nat) : OutCanon (execStashDecision p step o segs s) := by simp [execStashDecision, h]
@[simp] theorem execPacketForward_canon (q : Nat) (header : BitVec 256) (payload : List Byte) :
    OutCanon (execPacketForward q header payload s) := by
  unfold execPacketForward
  dsimp only
  (repeat' split) <;> simp [h]
@[simp] theorem execRejectPacketReceive_canon (q : Nat) (header : BitVec 256) : OutCanon (execRejectPacketReceive q header s) := by
  simp only [execRejectPacketReceive]
  split <;> simp [h]
@[simp] theorem execReduceScatterBegin_canon (p : Nat) : OutCanon (execReduceScatterBegin p s) := by
  unfold execReduceScatterBegin
  refine onPart_canon ?_ p
  extract_lets pt run others step holds cleared
  clear_value others
  split
  · exact h
  · split
    · exact h
    · split
      · exact h
      · split
        · exact h
        next hready =>
          rw [← stepReady_memories hready] at h
          split <;> simp [h]
@[simp] theorem execContribReceive_canon (q : Nat) (header : BitVec 256) (payload : List Byte) :
    OutCanon (execContribReceive q header payload s) := by
  unfold execContribReceive
  dsimp only
  (repeat' split) <;> simp [h]
@[simp] theorem execNearClose_canon (q : Nat) : OutCanon (execNearClose q s) := by
  unfold execNearClose
  refine onQuay_canon ?_ q
  split
  · exact h
  next p s1 hfind =>
    obtain ⟨p', -, hp⟩ := List.exists_of_findSome?_eq_some hfind
    obtain ⟨t, ht, heq⟩ := Option.map_eq_some_iff.1 hp
    obtain ⟨-, rfl⟩ := Prod.mk.inj heq
    rw [← nearReady_memories ht] at h
    simpa using h
@[simp] theorem execPartialReceive_canon (q : Nat) (header : BitVec 256) (payload : List Byte) :
    OutCanon (execPartialReceive q header payload s) := by
  unfold execPartialReceive
  dsimp only
  (repeat' split) <;> simp [h]
@[simp] theorem execFarClose_canon (q : Nat) : OutCanon (execFarClose q s) := by
  unfold execFarClose
  dsimp only
  (repeat' split) <;> simp [h]
@[simp] theorem execMirrorReceive_canon (q : Nat) (header : BitVec 256) (payload : List Byte) :
    OutCanon (execMirrorReceive q header payload s) := by
  unfold execMirrorReceive
  dsimp only
  (repeat' split) <;> simp [h]
@[simp] theorem execMirrorAck_canon (q shard : Nat) : OutCanon (execMirrorAck q shard s) := by
  simp only [execMirrorAck]
  split <;> simp [h]
@[simp] theorem execNormReceive_canon (q : Nat) (header : BitVec 256) (payload : List Byte) : OutCanon (execNormReceive q header payload s) := by
  simp only [execNormReceive]
  split <;> simp [h]
@[simp] theorem execPassOneBegin_canon (p : Nat) : OutCanon (execPassOneBegin p s) := by
  unfold execPassOneBegin
  refine onPart_canon ?_ p
  dsimp only
  split
  · exact h
  · split
    · exact h
    next hready =>
      rw [← phaseReady_memories hready] at h
      simpa using h
@[simp] theorem execPassTwoBegin_canon (p : Nat) : OutCanon (execPassTwoBegin p s) := by
  unfold execPassTwoBegin
  refine onPart_canon ?_ p
  dsimp only
  split
  · split
    · exact h
    · split
      · exact h
      next hready =>
        rw [← phaseReady_memories hready] at h
        split
        · rw [State.event_memories]
          rw [foldl_memories fun t q => ?dropped, State.setRun_memories]
          · exact h
          case dropped => rw [State.dropFolded_memories, State.dropFolded_memories, State.setExchange_memories]
        · rw [State.beginPass_memories, foldl_memories fun t k => t.setOptOf_memories k _, State.setRun_memories]
          exact h
  · exact h
@[simp] theorem execUnitWriteback_canon (q engine : Nat) : OutCanon (execUnitWriteback q engine s) := by
  simp only [execUnitWriteback]
  split <;> simp [h]
@[simp] theorem execRootComputation_canon (id a b : Nat) (right : Bool) : OutCanon (execRootComputation id a b right s) := by
  simp only [execRootComputation]
  split <;> simp [h]
@[simp] theorem execPublicationBegin_canon (p : Nat) : OutCanon (execPublicationBegin p s) := by
  unfold execPublicationBegin
  refine onPart_canon ?_ p
  dsimp only
  split
  · exact h
  · split
    · exact h
    next hready =>
      rw [← phaseReady_memories hready] at h
      split <;> simp [h]
@[simp] theorem execGatherReceive_canon (q : Nat) (header : BitVec 256) (payload : List Byte) :
    OutCanon (execGatherReceive q header payload s) := by
  unfold execGatherReceive
  dsimp only
  (repeat' split) <;> simp [h]
@[simp] theorem execQuayReadReqReceive_canon (q : Nat) (header : BitVec 256) : OutCanon (execQuayReadReqReceive q header s) := by
  simp only [execQuayReadReqReceive]
  split <;> simp [h]
@[simp] theorem execDramUncorrectable_canon (q entry : Nat) (retryOk mirrorOk : Bool) :
    OutCanon (execDramUncorrectable q entry retryOk mirrorOk s) := by
  simp only [execDramUncorrectable]
  split <;> simp [h]
@[simp] theorem execFlashRecoveryStep_canon (q entry : Nat) (ok : Bool) : OutCanon (execFlashRecoveryStep q entry ok s) := by
  simp only [execFlashRecoveryStep]
  split <;> simp [h]
@[simp] theorem execAssignment_canon (cl : Client) (id group : Nat) : OutCanon (execAssignment cl id group s) := by
  unfold execAssignment
  exact (outCanon_next _).2 (State.command_canon (fun t ht => by simp [ht]) h)
@[simp] theorem execStateReset_canon (cl : Client) (id : Nat) : OutCanon (execStateReset cl id s) := by
  unfold execStateReset
  exact (outCanon_next _).2 (State.command_canon (fun t ht => by simp [ht]) h)
@[simp] theorem execStateWrite_canon (cl : Client) (id part offset : Nat) (data : List Byte) :
    OutCanon (execStateWrite cl id part offset data s) := by
  unfold execStateWrite
  exact (outCanon_next _).2 (State.command_canon (fun t ht => by simp [ht]) h)
@[simp] theorem execShardDoneReceive_canon (step holderModule holderQuay : Nat) (e : ShardEntry) :
    OutCanon (execShardDoneReceive step holderModule holderQuay e s) := by
  unfold execShardDoneReceive
  dsimp only
  (repeat' split) <;> simp [h]
@[simp] theorem execWitnessRecordReceive_canon (w : Nat) (rec : LedgerRecord) : OutCanon (execWitnessRecordReceive w rec s) := by
  simp [execWitnessRecordReceive, h]
@[simp] theorem execWitnessAck_canon (w term : Nat) : OutCanon (execWitnessAck w term s) := by
  unfold execWitnessAck
  dsimp only
  (repeat' split) <;> simp [h]
@[simp] theorem execCommitReceive_canon (q step term : Nat) : OutCanon (execCommitReceive q step term s) := by
  have committed (l : List Nat) (v : Nat) (t : State) (ht : CanonicalMem t.memories) :
      CanonicalMem (l.foldl (fun u tid => u.commitVersion tid v) t).memories :=
    foldl_canon (fun u tid hu => by simpa using hu) l ht
  unfold execCommitReceive
  refine onQuay_canon ?_ q
  split
  · exact h
  · dsimp only
    split
    · simpa using h
    · refine foldl_canon (fun t p ht => ?_) _ (by simpa using h)
      split
      · exact committed _ _ _ ht
      · exact ht
@[simp] theorem execMemberLost_canon (module quay : Nat) : OutCanon (execMemberLost module quay s) := by simp [execMemberLost, h]
@[simp] theorem execHeartbeatAnswer_canon (module quay : Nat) : OutCanon (execHeartbeatAnswer module quay s) := by simp [execHeartbeatAnswer, h]
@[simp] theorem execHarbourMasterSilence_canon (q : Nat) : OutCanon (execHarbourMasterSilence q s) := by simp [execHarbourMasterSilence, h]
@[simp] theorem execPartitioned_canon (q : Nat) : OutCanon (execPartitioned q s) := by simp [execPartitioned, h]
@[simp] theorem execElectionTimeout_canon (w : Nat) : OutCanon (execElectionTimeout w s) := by simp [execElectionTimeout, h]
@[simp] theorem execVoteRequest_canon (w term candidate lastTerm lastRecord : Nat) :
    OutCanon (execVoteRequest w term candidate lastTerm lastRecord s) := by
  simp [execVoteRequest, h]
@[simp] theorem execVoteGrant_canon (w term voter : Nat) : OutCanon (execVoteGrant w term voter s) := by
  unfold execVoteGrant
  dsimp only
  (repeat' split) <;> simp [h]
@[simp] theorem execHmHeartbeat_canon (module quay term : Nat) : OutCanon (execHmHeartbeat module quay term s) := by simp [execHmHeartbeat, h]
@[simp] theorem execRejoin_canon (q term : Nat) : OutCanon (execRejoin q term s) := by simp [execRejoin, h]
@[simp] theorem execResyncDone_canon (q shard : Nat) : OutCanon (execResyncDone q shard s) := by simp [execResyncDone, h]
@[simp] theorem execDigestReport_canon (module : Nat) (digest : BitVec 512) : OutCanon (execDigestReport module digest s) := by
  simp only [execDigestReport]
  split <;> simp [h]
@[simp] theorem execRestore_canon (cl : Client) (ledger : Nat) : OutCanon (execRestore cl ledger s) := by
  unfold execRestore
  exact (outCanon_next _).2 (State.command_canon (fun t ht => by simp [ht]) h)
@[simp] theorem execEngineFault_canon (q engine : Nat) (afterWrite : Bool) : OutCanon (execEngineFault q engine afterWrite s) := by
  unfold execEngineFault
  dsimp only
  (repeat' split) <;> simp [h]
@[simp] theorem execThermalEvaluation_canon (temps : List Int) (inlet : Int) : OutCanon (execThermalEvaluation temps inlet s) := by
  have tiles (f : State → Nat → Tile) (u : State) (hu : CanonicalMem u.memories) :
      CanonicalMem ((List.range 48).foldl (fun u t => u.setTile t (f u t)) u).memories := by
    rwa [foldl_memories fun u t => u.setTile_memories t _]
  unfold execThermalEvaluation
  rw [outCanon_next]
  split
  · exact h
  · rw [State.noteAlert_memories]
    refine foldl_canon (fun u t hu => ?_) _ (tiles _ _ ?_)
    · dsimp only
      split
      · split <;> simp [hu]
      · split <;> simp [hu]
    · rw [memories_mk, memories_fold]
      exact tiles _ _ (by rwa [State.advance_memories])
@[simp] theorem execThermalEmergency_canon (tile : Nat) : OutCanon (execThermalEmergency tile s) := by simp [execThermalEmergency, h]
@[simp] theorem execEmergencyRelease_canon (tile : Nat) : OutCanon (execEmergencyRelease tile s) := by simp [execEmergencyRelease, h]
@[simp] theorem execEmergencyTimeout_canon (tile : Nat) : OutCanon (execEmergencyTimeout tile s) := by simp [execEmergencyTimeout, h]
@[simp] theorem execThermalTrip_canon (tile : Nat) : OutCanon (execThermalTrip tile s) := by simp [execThermalTrip, h]
@[simp] theorem execManualShedLeave_canon (cl : Client) (tile : Nat) : OutCanon (execManualShedLeave cl tile s) := by
  unfold execManualShedLeave
  exact (outCanon_next _).2 (State.command_canon (fun t ht => by simp [ht]) h)
@[simp] theorem execManualShedCompute_canon (cl : Client) (tile : Nat) : OutCanon (execManualShedCompute cl tile s) := by
  unfold execManualShedCompute
  exact (outCanon_next _).2 (State.command_canon (fun t ht => by simp [ht]) h)
@[simp] theorem execManualShedDark_canon (cl : Client) (tile : Nat) : OutCanon (execManualShedDark cl tile s) := by
  unfold execManualShedDark
  exact (outCanon_next _).2 (State.command_canon (fun t ht => by simp [ht]) h)
@[simp] theorem execHandoffResultReceive_canon (p member result : Nat) : OutCanon (execHandoffResultReceive p member result s) := by
  simp [execHandoffResultReceive, h]
@[simp] theorem execHandoffReportDeadline_canon (p : Nat) : OutCanon (execHandoffReportDeadline p s) := by simp [execHandoffReportDeadline, h]
@[simp] theorem execImageUpload_canon (cl : Client) (slot : Nat) (img : Image) : OutCanon (execImageUpload cl slot img s) := by
  unfold execImageUpload
  exact (outCanon_next _).2 (State.command_canon (fun t ht => by simp [ht]) h)
@[simp] theorem execWavelengthFailure_canon (port wavelength : Nat) : OutCanon (execWavelengthFailure port wavelength s) := by
  simp [execWavelengthFailure, h]
@[simp] theorem execTrainingComplete_canon (port good latency : Nat) (ok : Bool) : OutCanon (execTrainingComplete port good latency ok s) := by
  simp [execTrainingComplete, h]
@[simp] theorem execCalibrationMeasure_canon (port : Nat) (ratios : List (Nat × Nat)) (calibRatio : Nat) (drift : Bool) :
    OutCanon (execCalibrationMeasure port ratios calibRatio drift s) := by
  unfold execCalibrationMeasure
  dsimp only
  (repeat' split) <;> simp [h]
@[simp] theorem execDownRetry_canon (port : Nat) : OutCanon (execDownRetry port s) := by simp [execDownRetry, h]
@[simp] theorem execLeaveReceived_canon (port : Nat) : OutCanon (execLeaveReceived port s) := by simp [execLeaveReceived, h]
@[simp] theorem execPortRetrainFast_canon (cl : Client) (port : Nat) : OutCanon (execPortRetrainFast cl port s) := by
  unfold execPortRetrainFast
  exact (outCanon_next _).2 (State.command_canon (fun t ht => by simp [ht]) h)
@[simp] theorem execPortRetrainFull_canon (cl : Client) (port : Nat) : OutCanon (execPortRetrainFull cl port s) := by
  unfold execPortRetrainFull
  exact (outCanon_next _).2 (State.command_canon (fun t ht => by simp [ht]) h)
@[simp] theorem execMarkInstanceFires_canon (p : Nat) (insts : List (Nat × Nat × Nat)) : OutCanon (execMarkInstanceFires p insts s) := by
  unfold execMarkInstanceFires
  dsimp only
  (repeat' split) <;> simp [h]
@[simp] theorem execPreempt_canon (cl : Client) (p : Nat) : OutCanon (execPreempt cl p s) := by
  unfold execPreempt
  exact onPart_canon (State.command_canon (fun t ht => by simp [ht]) h) _
@[simp] theorem execPartitionHalt_canon (cl : Client) (p : Nat) : OutCanon (execPartitionHalt cl p s) := by
  unfold execPartitionHalt
  exact onPart_canon (State.command_canon (fun t ht => by simp [ht]) h) _
@[simp] theorem execPartitionEnd_canon (cl : Client) (p : Nat) : OutCanon (execPartitionEnd cl p s) := by
  unfold execPartitionEnd
  exact onPart_canon (State.command_canon (fun t ht => by simp [ht]) h) _
@[simp] theorem execWithdraw_canon (cl : Client) (p : Nat) : OutCanon (execWithdraw cl p s) := by
  unfold execWithdraw
  exact onPart_canon (State.command_canon (fun t ht => by simp [ht]) h) _
@[simp] theorem execPreemptTimeout_canon (p : Nat) : OutCanon (execPreemptTimeout p s) := by
  simp only [execPreemptTimeout]
  split <;> simp [h]
@[simp] theorem execLaunch_canon (cl : Client) (p : Nat) (rec : BitVec 256) : OutCanon (execLaunch cl p rec s) := by
  unfold execLaunch
  exact onPart_canon (State.command_canon (fun t ht => by simp [ht]) h) _
@[simp] theorem execResume_canon (cl : Client) (p : Nat) (rec : BitVec 256) : OutCanon (execResume cl p rec s) := by
  unfold execResume
  exact onPart_canon (State.command_canon (fun t ht => by simp [ht]) h) _
@[simp] theorem execCancel_canon (cl : Client) (p : Nat) (rec : BitVec 256) : OutCanon (execCancel cl p rec s) := by
  unfold execCancel
  exact onPart_canon (State.command_canon (fun t ht => by simp [ht]) h) _
@[simp] theorem execLaunchMark_canon (p : Nat) : OutCanon (execLaunchMark p s) := by
  unfold execLaunchMark
  dsimp only
  (repeat' split) <;> simp [h]
@[simp] theorem execRecoveryDecision_canon (p : Nat) : OutCanon (execRecoveryDecision p s) := by
  unfold execRecoveryDecision
  dsimp only
  (repeat' split) <;> simp [h]
@[simp] theorem execRecoveryWaitEnd_canon (p : Nat) : OutCanon (execRecoveryWaitEnd p s) := by simp [execRecoveryWaitEnd, h]
@[simp] theorem execReset_canon (cl : Client) (p : Nat) : OutCanon (execReset cl p s) := by
  unfold execReset
  exact onPart_canon (State.command_canon (fun t ht => by simp [ht]) h) _
@[simp] theorem execRecover_canon (cl : Client) (p : Nat) : OutCanon (execRecover cl p s) := by
  unfold execRecover
  exact onPart_canon (State.command_canon (fun t ht => by simp [ht]) h) _
@[simp] theorem execTideStop_canon (cl : Client) : OutCanon (execTideStop cl s) := by
  unfold execTideStop
  exact (outCanon_next _).2 (State.command_canon (fun t ht => by simp [ht]) h)
@[simp] theorem execTideStart_canon (cl : Client) : OutCanon (execTideStart cl s) := by
  unfold execTideStart
  exact (outCanon_next _).2 (State.command_canon (fun t ht => by simp [ht]) h)
@[simp] theorem execTideLock_canon : OutCanon (execTideLock s) := by simp [execTideLock, h]
@[simp] theorem execDomainJoin_canon (domain root revision tick : Nat) : OutCanon (execDomainJoin domain root revision tick s) := by
  simp [execDomainJoin, h]
@[simp] theorem execStretchRampStep_canon : OutCanon (execStretchRampStep s) := by simp [execStretchRampStep, h]
@[simp] theorem execTideMarkerSend_canon : OutCanon (execTideMarkerSend s) := by simp [execTideMarkerSend, h]
@[simp] theorem execTideMarkerReceive_canon (port : Nat) (m : Marker) : OutCanon (execTideMarkerReceive port m s) := by
  simp [execTideMarkerReceive, h]
@[simp] theorem execUpstreamSwitch_canon : OutCanon (execUpstreamSwitch s) := by
  unfold execUpstreamSwitch
  dsimp only
  (repeat' split) <;> simp [h]
@[simp] theorem execFreeEntry_canon : OutCanon (execFreeEntry s) := by simp [execFreeEntry, h]
@[simp] theorem execRootTakeover_canon : OutCanon (execRootTakeover s) := by simp [execRootTakeover, h]
@[simp] theorem execTimedRowRelease_canon (p port sent c srcModule srcCore : Nat) (tag : TransferTag) (row : Nat) (complete : Bool) (data : Row) :
    OutCanon (execTimedRowRelease p port sent c srcModule srcCore tag row complete data s) := by
  unfold execTimedRowRelease
  dsimp only
  (repeat' split) <;> simp [h]
@[simp] theorem execReferenceTick_canon : OutCanon (execReferenceTick s) := by simp [execReferenceTick, h]
@[simp] theorem execPtpSync_canon (utc : Nat) : OutCanon (execPtpSync utc s) := by simp [execPtpSync, h]
@[simp] theorem execPtpGrandmasterLost_canon : OutCanon (execPtpGrandmasterLost s) := by simp [execPtpGrandmasterLost, h]
@[simp] theorem execWatchdogExpiry_canon : OutCanon (execWatchdogExpiry s) := by simp [execWatchdogExpiry, h]
@[simp] theorem execEventLogCopy_canon : OutCanon (execEventLogCopy s) := by simp [execEventLogCopy, h]
@[simp] theorem execStageEnd_canon (result detail tested firstFailing : Nat) (failing passing : List (Nat × Nat)) :
    OutCanon (execStageEnd result detail tested firstFailing failing passing s) := by
  unfold execStageEnd
  dsimp only
  (repeat' split) <;> simp [h]
@[simp] theorem execDiscardResultsRecord_canon (cl : Client) : OutCanon (execDiscardResultsRecord cl s) := by
  unfold execDiscardResultsRecord
  exact (outCanon_next _).2 (State.command_canon (fun t ht => by simp [ht]) h)
@[simp] theorem execTestRequest_canon (cl : Client) (rec : BitVec 256) : OutCanon (execTestRequest cl rec s) := by
  unfold execTestRequest
  exact (outCanon_next _).2 (State.command_canon (fun t ht => by simp [ht]) h)
@[simp] theorem execTestComplete_canon (tag : Nat) (failing : List (Nat × Nat)) (tested : Nat) :
    OutCanon (execTestComplete tag failing tested s) := by
  simp only [execTestComplete]
  split <;> simp [h]
@[simp] theorem execTestCancel_canon (cl : Client) (tag : Nat) : OutCanon (execTestCancel cl tag s) := by
  unfold execTestCancel
  exact (outCanon_next _).2 (State.command_canon (fun t ht => by simp [ht]) h)
@[simp] theorem execOverlayAdd_canon (cl : Client) (rec : BitVec 128) : OutCanon (execOverlayAdd cl rec s) := by
  unfold execOverlayAdd
  exact (outCanon_next _).2 (State.command_canon (fun t ht => by simp [ht]) h)
@[simp] theorem execOverlayRemove_canon (cl : Client) (cls unit : Nat) : OutCanon (execOverlayRemove cl cls unit s) := by
  unfold execOverlayRemove
  exact (outCanon_next _).2 (State.command_canon (fun t ht => by simp [ht]) h)
@[simp] theorem execModuleResetRequest_canon (cl : Client) : OutCanon (execModuleResetRequest cl s) := by
  unfold execModuleResetRequest
  exact (outCanon_next _).2 (State.command_canon (fun t ht => by simp [ht]) h)
@[simp] theorem execModuleResetInstance_canon : OutCanon (execModuleResetInstance s) := by
  simp only [execModuleResetInstance]
  split <;> simp [h]
@[simp] theorem execModuleResetDrainDone_canon : OutCanon (execModuleResetDrainDone s) := by simp [execModuleResetDrainDone, h]
@[simp] theorem execFallbackReset_canon : OutCanon (execFallbackReset s) := by
  simp only [execFallbackReset]
  split <;> simp [h]
@[simp] theorem execPowerEnable_canon : OutCanon (execPowerEnable s) := by simp [execPowerEnable, h]
@[simp] theorem execPowerDisable_canon : OutCanon (execPowerDisable s) := by simp [execPowerDisable, h]
@[simp] theorem execStandbyDrainEnd_canon : OutCanon (execStandbyDrainEnd s) := by simp [execStandbyDrainEnd, h]
@[simp] theorem execModResetAssert_canon : OutCanon (execModResetAssert s) := by simp [execModResetAssert, h]
@[simp] theorem execModResetRelease_canon : OutCanon (execModResetRelease s) := by simp [execModResetRelease, h]
@[simp] theorem execEnterDeepPark_canon (cl : Client) : OutCanon (execEnterDeepPark cl s) := by
  unfold execEnterDeepPark
  exact (outCanon_next _).2 (State.command_canon (fun t ht => by simp [ht]) h)
@[simp] theorem execDeepParkEntryComplete_canon : OutCanon (execDeepParkEntryComplete s) := by simp [execDeepParkEntryComplete, h]
@[simp] theorem execLeaveDeepPark_canon (cl : Client) : OutCanon (execLeaveDeepPark cl s) := by
  unfold execLeaveDeepPark
  exact (outCanon_next _).2 (State.command_canon (fun t ht => by simp [ht]) h)
@[simp] theorem execGoToStandby_canon (cl : Client) : OutCanon (execGoToStandby cl s) := by
  unfold execGoToStandby
  exact (outCanon_next _).2 (State.command_canon (fun t ht => by simp [ht]) h)
@[simp] theorem execPumpOkLost_canon : OutCanon (execPumpOkLost s) := by simp [execPumpOkLost, h]
@[simp] theorem execPumpOkRestored_canon : OutCanon (execPumpOkRestored s) := by simp [execPumpOkRestored, h]
@[simp] theorem execPumpLossShed_canon : OutCanon (execPumpLossShed s) := by
  unfold execPumpLossShed
  rw [outCanon_next]
  split
  · exact h
  · exact foldl_canon (fun t k ht => State.shedFlow_canon k ht) _ h
@[simp] theorem execPumpLossStandby_canon : OutCanon (execPumpLossStandby s) := by simp [execPumpLossStandby, h]
@[simp] theorem execPpsEdge_canon : OutCanon (execPpsEdge s) := by simp [execPpsEdge, h]
@[simp] theorem execThermAlertRelease_canon : OutCanon (execThermAlertRelease s) := by simp [execThermAlertRelease, h]
@[simp] theorem execInputLoss_canon (lowestMv : Nat) : OutCanon (execInputLoss lowestMv s) := by simp [execInputLoss, h]
@[simp] theorem execInputOvervoltage_canon : OutCanon (execInputOvervoltage s) := by simp [execInputOvervoltage, h]
@[simp] theorem execInputReturn_canon : OutCanon (execInputReturn s) := by simp [execInputReturn, h]
@[simp] theorem execPcieReset_canon (i : Nat) : OutCanon (execPcieReset i s) := by simp [execPcieReset, h]
@[simp] theorem execPcieLinkDown_canon (i : Nat) : OutCanon (execPcieLinkDown i s) := by simp [execPcieLinkDown, h]
@[simp] theorem execPcieLinkUp_canon (i width rate : Nat) (flit : Bool) : OutCanon (execPcieLinkUp i width rate flit s) := by
  simp [execPcieLinkUp, h]
@[simp] theorem execIdeKeyProgramming_canon (i : Nat) : OutCanon (execIdeKeyProgramming i s) := by simp [execIdeKeyProgramming, h]
@[simp] theorem execFirmwareUpload_canon (cl : Client) (img : FirmwareImage) : OutCanon (execFirmwareUpload cl img s) := by
  unfold execFirmwareUpload
  exact (outCanon_next _).2 (State.loaderCommand_canon (fun t ht => by simp [ht]) h)
@[simp] theorem execApply_canon (cl : Client) : OutCanon (execApply cl s) := by
  unfold execApply
  exact (outCanon_next _).2 (State.loaderCommand_canon (fun t ht => by simp [ht]) h)
@[simp] theorem execDiscardStaging_canon (cl : Client) : OutCanon (execDiscardStaging cl s) := by
  unfold execDiscardStaging
  exact (outCanon_next _).2 (State.command_canon (fun t ht => by simp [ht]) h)
@[simp] theorem execFirmwareRestart_canon : OutCanon (execFirmwareRestart s) := by simp [execFirmwareRestart, h]
@[simp] theorem execJournalReplay_canon : OutCanon (execJournalReplay s) := by simp [execJournalReplay, h]
@[simp] theorem execCounterAdvance_canon (cl : Client) : OutCanon (execCounterAdvance cl s) := by
  unfold execCounterAdvance
  exact (outCanon_next _).2 (State.command_canon (fun t ht => by simp [ht]) h)
@[simp] theorem execOwnerKeyFuse_canon (cl : Client) (hash : BitVec 512) : OutCanon (execOwnerKeyFuse cl hash s) := by
  unfold execOwnerKeyFuse
  exact (outCanon_next _).2 (State.command_canon (fun t ht => by simp [ht]) h)
@[simp] theorem execAttestationRequest_canon (cl : Client) (nonce : List Byte) : OutCanon (execAttestationRequest cl nonce s) := by
  unfold execAttestationRequest
  exact (outCanon_next _).2 (State.command_canon (fun t ht => by simp [ht]) h)
@[simp] theorem execSpdmGetMeasurements_canon (i : Nat) : OutCanon (execSpdmGetMeasurements i s) := by simp [execSpdmGetMeasurements, h]
@[simp] theorem execGroupRecordWrite_canon (cl : Client) (g : Nat) (rec : BitVec 512) : OutCanon (execGroupRecordWrite cl g rec s) := by
  unfold execGroupRecordWrite
  exact (outCanon_next _).2 (State.command_canon (fun t ht => by simp [ht]) h)
@[simp] theorem execMembershipWrite_canon (cl : Client) (table : Option Membership) : OutCanon (execMembershipWrite cl table s) := by
  unfold execMembershipWrite
  exact (outCanon_next _).2 (State.command_canon (fun t ht => by simp [ht]) h)
@[simp] theorem execKeySlotWrite_canon (cl : Client) (k : Nat) (data : List Byte) : OutCanon (execKeySlotWrite cl k data s) := by
  unfold execKeySlotWrite
  exact (outCanon_next _).2 (State.command_canon (fun t ht => by simp [ht]) h)
@[simp] theorem execOpenDraft_canon (cl : Client) : OutCanon (execOpenDraft cl s) := by
  unfold execOpenDraft
  exact (outCanon_next _).2 (State.command_canon (fun t ht => by simp [ht]) h)
@[simp] theorem execDiscardDraft_canon (cl : Client) : OutCanon (execDiscardDraft cl s) := by
  unfold execDiscardDraft
  exact (outCanon_next _).2 (State.command_canon (fun t ht => by simp [ht]) h)
@[simp] theorem execCommit_canon (cl : Client) : OutCanon (execCommit cl s) := by
  unfold execCommit
  exact (outCanon_next _).2 (State.command_canon (fun t ht => by simp [ht]) h)
@[simp] theorem execRevert_canon (cl : Client) : OutCanon (execRevert cl s) := by
  unfold execRevert
  exact (outCanon_next _).2 (State.command_canon (fun t ht => by simp [ht]) h)
@[simp] theorem execConfigDefaults_canon (cl : Client) : OutCanon (execConfigDefaults cl s) := by
  unfold execConfigDefaults
  exact (outCanon_next _).2 (State.command_canon (fun t ht => by simp [ht]) h)
@[simp] theorem execCloseSessions_canon (cl : Client) : OutCanon (execCloseSessions cl s) := by
  unfold execCloseSessions
  exact (outCanon_next _).2 (State.command_canon (fun t ht => by simp [ht]) h)
@[simp] theorem execRead_canon (cl : Client) (index sub : Nat) (draft : Bool) : OutCanon (execRead cl index sub draft s) := by simp [execRead, h]
@[simp] theorem execWrite_canon (cl : Client) (index sub : Nat) (draft : Bool) (data : List Byte) :
    OutCanon (execWrite cl index sub draft data s) := by
  simp [execWrite, h]
@[simp] theorem execDescribe_canon (cl : Client) (index sub : Nat) : OutCanon (execDescribe cl index sub s) := by simp [execDescribe, h]
@[simp] theorem execReadSeg_canon (cl : Client) (index sub : Nat) (draft : Bool) (offset length : Nat) :
    OutCanon (execReadSeg cl index sub draft offset length s) := by
  simp [execReadSeg, h]
@[simp] theorem execWriteSeg_canon (cl : Client) (index sub : Nat) (draft final : Bool) (offset : Nat) (data : List Byte) :
    OutCanon (execWriteSeg cl index sub draft final offset data s) := by
  simp [execWriteSeg, h]
@[simp] theorem execTicket_canon (cl : Client) (t : Nat) : OutCanon (execTicket cl t s) := by simp [execTicket, h]
@[simp] theorem execTicketDone_canon (t status : Nat) : OutCanon (execTicketDone t status s) := by simp [execTicketDone, h]
@[simp] theorem execHello_canon (k maxDatagram : Nat) (notify : Bool) (nonce kemKey : List Byte) :
    OutCanon (execHello k maxDatagram notify nonce kemKey s) := by
  unfold execHello
  dsimp only
  (repeat' split) <;> simp [h]
@[simp] theorem execProve_canon (sid : Nat) (signature : List Byte) : OutCanon (execProve sid signature s) := by
  unfold execProve
  dsimp only
  (repeat' split) <;> simp [h]
@[simp] theorem execClose_canon (sid : Nat) (tagOk : Bool) : OutCanon (execClose sid tagOk s) := by
  unfold execClose
  rw [outCanon_next]
  split
  · exact h
  · split
    · simpa using h
    · split <;> simp [h]
@[simp] theorem execProveTimeout_canon (sid : Nat) : OutCanon (execProveTimeout sid s) := by
  simp only [execProveTimeout]
  split <;> simp [h]
@[simp] theorem execSessionIdleTimeout_canon (sid : Nat) : OutCanon (execSessionIdleTimeout sid s) := by
  simp only [execSessionIdleTimeout]
  split <;> simp [h]
@[simp] theorem execSessionLifetimeExpiry_canon (sid : Nat) : OutCanon (execSessionLifetimeExpiry sid s) := by
  simp only [execSessionLifetimeExpiry]
  split <;> simp [h]
@[simp] theorem execRequest_canon (sid seq : Nat) (tagOk : Bool) (ops : List SivarOp) : OutCanon (execRequest sid seq tagOk ops s) := by
  unfold execRequest
  dsimp only
  (repeat' split) <;> simp [h]
@[simp] theorem execSlotTaken_canon (port slot : Nat) (interrupt : Bool) (tag length zeroField : Nat) (ops : List SivarOp) :
    OutCanon (execSlotTaken port slot interrupt tag length zeroField ops s) := by
  simp [execSlotTaken, h]
@[simp] theorem execOffer_canon (cl : Client) : OutCanon (execOffer cl s) := by
  unfold execOffer
  exact (outCanon_next _).2 (State.hostCommand_canon (fun t ht => by simp [ht]) h)
@[simp] theorem execAccept_canon (cl : Client) : OutCanon (execAccept cl s) := by
  unfold execAccept
  exact (outCanon_next _).2 (State.hostCommand_canon (fun t ht => by simp [ht]) h)
@[simp] theorem execTake_canon (cl : Client) : OutCanon (execTake cl s) := by
  unfold execTake
  exact (outCanon_next _).2 (State.hostCommand_canon (fun t ht => by simp [ht]) h)
@[simp] theorem execOfferExpiry_canon : OutCanon (execOfferExpiry s) := by
  simp only [execOfferExpiry]
  split <;> simp [h]
@[simp] theorem execMailboxRowWrite_canon (srcCore p row : Nat) (data : Row) : OutCanon (execMailboxRowWrite srcCore p row data s) := by
  unfold execMailboxRowWrite
  split
  · exact outCanon_fault _
  · refine onCore_canon ?_ srcCore
    split
    · exact h
    · simp only [State.setCtl_memories, memories_mk, canonicalMem_mk]
      exact ⟨h.pad, h.dram, h.flash, wf_writeBytes _ _ _ h.mail⟩
end

/-- Every command keeps the canonical form of the byte memories. -/
theorem exec_canon {s : State} (h : CanonicalMem s.memories) (i : Instr) : OutCanon (exec i s) := by
  cases i <;> simp [exec, h]

/-- Settles O55: every command stores bytes by operations that keep the addresses rising, or leaves the four memories as they are. -/
theorem stepsKeepMemoriesCanonical : Obligations.StepsKeepMemoriesCanonical := by
  intro s t hs ht
  rw [canonical_iff] at hs ⊢
  unfold step at ht
  split at ht
  next =>
    cases ht
    exact hs
  next c rest _ => exact exec_canon (s := { s with pending := rest }) hs c t ht

end Sys2Proof.Machine
end

section
/-! SUPPORT. What stops a row (log 3): nothing is refused, and a stop names a unit that is not there. -/

namespace Sys2Proof.Machine

/-- An outcome is no refusal, and where it is a stop, a unit is not there. -/
def UnitStop (o : Out) : Prop := (∀ r, o ≠ .refused r) ∧ ∀ f, o = .fault f → f = .noSuchUnit

theorem next_unitStop (t : State) : UnitStop (.next t) := ⟨nofun, nofun⟩

theorem fault_unitStop : UnitStop (.fault .noSuchUnit) := ⟨nofun, fun _ h => by cases h; rfl⟩

theorem ite_unitStop {p : Prop} [Decidable p] {a b : Out} (ha : UnitStop a) (hb : UnitStop b) : UnitStop (if p then a else b) := by
  split <;> assumption

/-- A row whose unit is there goes on, and any other stops. -/
theorem unitOr_unitStop (p : Prop) [Decidable p] (k : State) : UnitStop (if p then .next k else .fault .noSuchUnit) :=
  ite_unitStop (next_unitStop k) fault_unitStop

theorem onCore_unitStop (s : State) (c : Nat) (k : State) : UnitStop (onCore s c k) := unitOr_unitStop _ k
theorem onIssuing_unitStop (s : State) (c : Nat) (k : State) : UnitStop (onIssuing s c k) := unitOr_unitStop _ _
theorem onPart_unitStop (p : Nat) (k : State) : UnitStop (onPart p k) := unitOr_unitStop _ k
theorem onTile_unitStop (t : Nat) (k : State) : UnitStop (onTile t k) := unitOr_unitStop _ k
theorem onQuay_unitStop (q : Nat) (k : State) : UnitStop (onQuay q k) := unitOr_unitStop _ k
theorem onColumn_unitStop (s : State) (x : Nat) (k : State) : UnitStop (onColumn s x k) := unitOr_unitStop _ k
theorem onPort_unitStop (i : Nat) (k : State) : UnitStop (onPort i k) := unitOr_unitStop _ k
theorem onHost_unitStop (i : Nat) (k : State) : UnitStop (onHost i k) := unitOr_unitStop _ k

theorem execIntakeRow_unitStop (address srcModule srcCore : Nat) (data : Row) (s : State) :
    UnitStop (execIntakeRow address srcModule srcCore data s) := by
  fun_cases execIntakeRow address srcModule srcCore data s <;> exact next_unitStop _

theorem execFrameConvert_unitStop (unit col : Nat) (s : State) : UnitStop (execFrameConvert unit col s) := by
  fun_cases execFrameConvert unit col s
  case case1 => exact fault_unitStop
  all_goals exact next_unitStop _

/-- Every command is one of those: its unit is there, or it stops. -/
theorem exec_unitStop (i : Instr) (s : State) : UnitStop (exec i s) := by
  cases i
  case next | loop | endl | setix | addix | waitdma | halt | jump | waitmark | barrier | armwin | aset | wsg | wss | wtg | wts | osp | sset | sclr
      | vset | vlds | vldt | vstt | vclr | vbin | vun | vtok | vred | vnrm | vsmx | vlse | vxent | vkld | vtopk | vdrop | dmaStart | svld | smv |
      sfin =>
    exact onIssuing_unitStop _ _ _
  case arrNop | spbNop | vecNop | scoreboardRelease | stationaryLoad | passSwap | chainDrain | scrubRowRead | scrubWriteBack | remoteRowArrival |
      remoteReadRequest | descriptorBegin | channelRowMove | writeResponseArrival | readResponseArrival | rejectArrival | channelComplete |
      gantryBeatArrival | creditReturn | heartbeatToggle | heartbeatMiss | timedRowRelease | coreResetComplete | drainAbandon =>
    exact onCore_unitStop _ _ _
  case windowSet | transitSlotEntry | dmaDisable | barrierComplete | markInstanceFires | preempt | partitionHalt | partitionEnd | withdraw |
      preemptTimeout | launch | resume | cancel | launchMark | fetchIssue | formatDecision | stashDecision | reduceScatterBegin | passOneBegin |
      passTwoBegin | publicationBegin | handoffResultReceive | handoffReportDeadline | reset | recover | coreReset | berthReset | recoveryDecision
      | recoveryWaitEnd =>
    exact onPart_unitStop _ _
  case gantryCommit | multicastStall | bufferCreditReturn =>
    exact onColumn_unitStop _ _ _
  case fastClockStart | thermalEmergency | emergencyRelease | emergencyTimeout | thermalTrip | beaconClockLost =>
    exact onTile_unitStop _ _
  case tideMarkerReceive | trainingComplete | wavelengthFailure | calibrationMeasure | downRetry | leaveReceived =>
    exact onPort_unitStop _ _
  case quayRowWrite | quayRowRead | fetchDataReady | decisionPoint | flashRecoveryStep | dramUncorrectable | tilePacketSend | residencyCopyDone |
      flashScanPage | frameAccumulate | unitWriteback | engineFault | packetForward | contribReceive | partialReceive | nearClose | farClose |
      mirrorReceive | mirrorAck | normReceive | gatherReceive | rejectPacketReceive | commitReceive | harbourMasterSilence | partitioned | rejoin
      | resyncDone | quayReadReqReceive =>
    exact onQuay_unitStop _ _
  case slotTaken | pcieReset | pcieLinkDown | spdmGetMeasurements | pcieLinkUp | ideKeyProgramming =>
    exact onHost_unitStop _ _
  case storeLoad => exact ite_unitStop (onColumn_unitStop _ _ _) fault_unitStop
  case routerError => exact unitOr_unitStop _ _
  case boundaryPhaseCheck => exact ite_unitStop fault_unitStop (ite_unitStop (next_unitStop _) (next_unitStop _))
  case boundaryRecalibrate => exact ite_unitStop fault_unitStop (ite_unitStop (next_unitStop _) (next_unitStop _))
  case intakeRow => exact execIntakeRow_unitStop _ _ _ _ s
  case frameConvert => exact execFrameConvert_unitStop _ _ s
  case statisticsReport => exact ite_unitStop fault_unitStop (ite_unitStop (next_unitStop _) (next_unitStop _))
  case mailboxRowWrite => exact ite_unitStop fault_unitStop (onCore_unitStop _ _ _)
  all_goals exact next_unitStop _

theorem onCore_missing {s : State} {c : Nat} (h : coreExists s c = false) (k : State) : onCore s c k = .fault .noSuchUnit := by
  simp [onCore, h]

theorem onPart_missing {p : Nat} (h : 8 ≤ p) (k : State) : onPart p k = .fault .noSuchUnit := if_neg (by omega)

theorem onTile_missing {t : Nat} (h : 48 ≤ t) (k : State) : onTile t k = .fault .noSuchUnit := if_neg (by omega)

theorem onQuay_missing {q : Nat} (h : 4 ≤ q) (k : State) : onQuay q k = .fault .noSuchUnit := if_neg (by omega)

/-- Settles O56: every row asks for its units first, and stops where one is not there. -/
theorem onlyMissingUnitsStopARow : Obligations.OnlyMissingUnitsStopARow := by
  refine ⟨fun i s => (exec_unitStop i s).1, fun i s => (exec_unitStop i s).2, fun s c h => ?core, fun s p h => ?part, fun s k h => ?tile,
    fun s q h => ?quay, fun s x h => ?column, fun s i h => ?port⟩
  case core => exact ⟨onCore_missing h _, onCore_missing h _, onCore_missing h _, onCore_missing h _⟩
  case part => exact ⟨onPart_missing h _, onPart_missing h _, onPart_missing h _⟩
  case tile => exact ⟨onTile_missing h _, onTile_missing h _⟩
  case quay => exact ⟨onQuay_missing h _, onQuay_missing h _⟩
  case column =>
    show onColumn s x _ = _
    simp [onColumn, h]
  case port => exact if_neg (by omega)

end Sys2Proof.Machine
end

section
/-! SUPPORT. A step on a queue and on an empty one (log 1), and what reset leaves. -/

namespace Sys2Proof.Machine

theorem step_of_front {s : State} {c : Instr} {rest : List Instr} (h : s.pending = c :: rest) :
    step s = exec c { s with pending := rest } := by
  unfold step
  rw [h]

/-- An idle cycle counts one cycle of tide time, and the clock of the module with it. -/
theorem step_of_empty {s : State} (h : s.pending = []) : step s = .next (s.advance (s.now + 1)) := by
  unfold step
  rw [h]
  rfl

theorem advance_succ_now (s : State) : (s.advance (s.now + 1)).now = s.now + 1 := by simp [State.advance]

theorem advance_succ_units (s : State) : (s.advance (s.now + 1)).rtc.units = s.rtc.units + (256 + s.tide.stretch) := by
  simp [State.advance]

/-- Settles O1: the queue's front is run on the rest, and an empty queue lets one cycle pass. -/
theorem stepTakesTheFrontCommandOrIdles : Obligations.StepTakesTheFrontCommandOrIdles :=
  ⟨fun _ _ _ h => step_of_front h,
    fun s h => ⟨_, step_of_empty h, advance_succ_now s, advance_succ_units s, s.advance_frame _⟩⟩

/-- The configuration of reset holds no object, so that each reads as its default. -/
theorem reset_partition_defaults (p : Nat) (h : p < 8) :
    State.reset.cfg (0x2100 + p) 5 = 0xFF ∧ State.reset.widthOf p = 0 := by
  interval_cases p <;> decide +kernel

/-- Settles O54: every field at its reset value, and the saved objects at their defaults. -/
theorem resetStands : Obligations.ResetStands := by
  refine ⟨rfl, rfl, rfl, rfl, rfl, rfl, fun _ => rfl, rfl, rfl, fun _ => ⟨rfl, rfl, rfl, rfl⟩, fun _ => rfl, rfl, rfl, rfl, rfl, rfl, ?_, ?_, ?_,
    ?_, ?_, ?_, reset_partition_defaults⟩ <;> decide +kernel

end Sys2Proof.Machine
end

section
/-! SUPPORT. Register, springbok and vector slots that meet their conditions issue (R57, R76, R77, R93, R97). -/

namespace Sys2Proof.Machine

/-- A slot of a core that is there goes through its core's gate. -/
theorem onCore_exists {s : State} {c : Nat} (k : State) (h : coreExists s c = true) : onCore s c k = .next k := by
  simp [onCore, h]

/-- A springbok slot that meets its conditions issues, whatever ranges it was asked for in writing the same reads and writes. -/
theorem spbSlot_issued (s : State) (c : Nat) (op : SpbOp) (idx : List Nat) (reads writes : List (Span × Nat)) (sr : Bool)
    (h : SpbIssues s c idx reads writes) :
    SpbIssued s (issueSlot s c { reads := reads, writes := writes, party := .spb, queueFull := spbFull s c, entries := idx }
      (putSpb op (reads.map (·.1)) (writes.head?.map (·.1)) sr)) c op reads writes sr := by
  obtain ⟨⟨-, -, hb⟩, hq, hr⟩ := h
  exact (issueSlot_clear s c _ _ hb (by simp [spbFull, hq]) hr).symm

/-- Every range that a slot with clear ranges names is loaded. -/
theorem RangesClear.loaded {s : State} {c : Nat} {idx : List Nat} {reads writes : List (Span × Nat)} {p : Party}
    (h : RangesClear s c idx reads writes p) {i : Nat} (hi : i ∈ idx) : (s.core c).hasRange i = true := by
  simpa [Core.hasRange] using (h.1 i hi).1

/-- Settles O2: a register slot changes its register, and a springbok slot that meets its conditions goes to the issue stage with the
ranges its instruction asks for. -/
theorem registerAndSpringbokSlotsIssue : Obligations.RegisterAndSpringbokSlotsIssue := by
  refine ⟨fun s c h => ⟨onCore_exists s h, onCore_exists s h, onCore_exists s h⟩, fun s c reg v h => ?aset, fun s c reg v h => ?sset,
    fun s c reg v h => ?vset, ?svld, ?smv, ?sfin, fun s c h => ?sclr⟩
  case aset =>
    obtain ⟨hf, hi⟩ := setSlot_ready s c (fun i => { i with arrRegs := tput 0 i.arrRegs reg v }) h.2.2
    exact ⟨_, onIssuing_ready s c _ h, fun r => by rw [hi]; exact tget_tput 0 _ reg r v, by rw [hi], hf⟩
  case sset =>
    obtain ⟨hf, hi⟩ := setSlot_ready s c (fun i => { i with spbRegs := tput 0 i.spbRegs reg v }) h.2.2
    exact ⟨_, onIssuing_ready s c _ h, fun r => by rw [hi]; exact tget_tput 0 _ reg r v, by rw [hi], hf⟩
  case vset =>
    obtain ⟨hf, hi⟩ := setSlot_ready s c (fun i => { i with vecRegs := tput 0 i.vecRegs reg v }) h.2.2
    exact ⟨_, onIssuing_ready s c _ h, fun r => by rw [hi]; exact tget_tput 0 _ reg r v, by rw [hi], hf⟩
  case svld =>
    intro s c sel src r reads h
    have hl : (s.core c).hasRange src = true := h.2.2.loaded (by simp)
    refine ⟨_, onIssuing_ready s c _ h.1, ?_⟩
    rw [if_neg (by simp [hl])]
    exact spbSlot_issued s c .svld [src] reads [] false h
  case smv =>
    intro s c sel src r w mx reads hfit h
    have hl : (s.core c).hasRange (if decide mx then src + 1 else src) = true :=
      h.2.2.loaded (by by_cases hm : mx <;> simp [hm])
    have e : (if decide mx = true then [(w, if 512 < spbBase r + w.rows then tooShort w else w.rows),
        ((s.core c).rangeOf sel (src + 1), ceilDiv w.rows 16)] else [(w, if 512 < spbBase r + w.rows then tooShort w else w.rows)])
        = reads := by
      rw [if_neg (Nat.not_lt.2 hfit)]; by_cases hm : mx <;> simp [reads, hm]
    refine ⟨_, onIssuing_ready s c _ h.1, ?_⟩
    rw [if_neg (by simpa using hl), e]
    exact spbSlot_issued s c .smv _ reads [] false (by simpa using h)
  case sfin =>
    intro s c sel dst sr r writes hfit h
    have hl : (s.core c).hasRange dst = true := h.2.2.loaded (by simp)
    refine ⟨_, onIssuing_ready s c _ h.1, ?_⟩
    rw [if_neg (by simp [hl]), if_neg (Nat.not_lt.2 hfit)]
    exact spbSlot_issued s c .sfin [dst] [] writes sr h
  case sclr => exact ⟨_, onIssuing_ready s c _ h.1, spbSlot_issued s c .sclr [] [] [] false h⟩

/-- A vector slot that meets its conditions issues. -/
theorem issueVec_issued {s : State} {c : Nat} {op : VecOp} {sel src dst sub : Nat} {sum : Bool} (sr accd : Bool)
    (h : VecIssues s c op sel src dst sub sum) :
    VecIssued s (issueVec s c op sel src dst sub sum sr accd) c op sel src dst sub sum sr accd := by
  obtain ⟨⟨-, -, hb⟩, hq, hr⟩ := h
  have hsrc : (List.range (vecReadRows op (s.core c).iss.vecRegs sub sum).length).all
      (fun n => (s.core c).hasRange (src + n)) = true :=
    List.all_eq_true.2 fun n hn => hr.loaded (List.mem_append_left _ (List.mem_map_of_mem hn))
  have hdst : ((vecWriteRows op (s.core c).iss.vecRegs sub).isNone || (s.core c).hasRange dst) = true := by
    cases hw : vecWriteRows op (s.core c).iss.vecRegs sub with
    | none => rfl
    | some n => exact hr.loaded (List.mem_append_right _ (by simp [hw]))
  dsimp only [issueVec]
  rw [hsrc, hdst, if_neg (by simp)]
  exact (issueSlot_clear s c _ _ hb (decide_eq_false (Nat.not_le.2 hq)) hr).symm

/-- The issue of a vector instruction on a core that takes it. -/
theorem onIssuing_issueVec {s : State} {c : Nat} {op : VecOp} {sel src dst sub : Nat} {sum : Bool} (sr accd : Bool)
    (h : VecIssues s c op sel src dst sub sum) :
    ∃ t, onIssuing s c (issueVec s c op sel src dst sub sum sr accd) = .next t
      ∧ VecIssued s t c op sel src dst sub sum sr accd :=
  ⟨_, onIssuing_ready s c _ h.1, issueVec_issued sr accd h⟩

/-- Settles O3: every vector instruction is the issue of a vector slot with its own operands. -/
theorem vectorSlotsIssue : Obligations.VectorSlotsIssue :=
  ⟨fun _ _ _ _ => onIssuing_issueVec false false, fun _ _ _ _ _ _ => onIssuing_issueVec false false,
    fun _ _ _ _ _ => onIssuing_issueVec false false, fun _ _ _ => onIssuing_issueVec false false,
    fun _ _ _ _ _ _ sr accd => onIssuing_issueVec sr accd, fun _ _ _ _ _ _ sr accd => onIssuing_issueVec sr accd,
    fun _ _ _ _ _ _ sr accd => onIssuing_issueVec sr accd, fun _ _ _ _ _ _ accd => onIssuing_issueVec false accd,
    fun _ _ _ _ _ _ sr => onIssuing_issueVec sr false, fun _ _ _ _ _ accd => onIssuing_issueVec false accd,
    fun _ _ _ _ _ => onIssuing_issueVec false false, fun _ _ _ _ _ sr accd => onIssuing_issueVec sr accd,
    fun _ _ _ _ _ _ sr accd => onIssuing_issueVec sr accd, fun _ _ _ _ _ _ => onIssuing_issueVec false false,
    fun _ _ _ _ _ _ sr => onIssuing_issueVec sr false⟩

end Sys2Proof.Machine
end

section
/-! SUPPORT. The end of a bundle: what its sequencer operation leaves its core in, and what else the springbok and vector instructions
that then start may change (R37, R45, R46). -/

namespace Sys2Proof.Machine

/-- The bundle of a core has closed in `t`: its sequencer has left the core as `k`, and what has changed beside it and the time is what
the springbok and vector instructions that start may change. -/
structure Closed (s t : State) (c : Nat) (k : Core) : Prop where
  rest : t = { s with now := t.now, rtc := t.rtc, freeCtr := t.freeCtr, cores := t.cores, health := t.health, pad := t.pad
                      marks := t.marks, ctl := t.ctl, log := t.log, hosts := t.hosts, sivar := t.sivar }
  now : t.now = max s.now (s.core c).nextIssue
  others : ∀ d, d ≠ c → t.core d = s.core d ∧ t.heal d = s.heal d
  own : t.core c = { k with
    nextIssue := t.now + 1, iss := { k.iss with spbQ := (t.core c).iss.spbQ, vecQ := (t.core c).iss.vecQ }
    spb := (t.core c).spb, vec := (t.core c).vec, firstFault := (t.core c).firstFault, laterFaults := (t.core c).laterFaults }
  counts : ∀ p, (t.ctlOf p).counts = (s.ctlOf p).counts
  quiet : k.iss.spbQ = [] → k.iss.vecQ = [] →
    t = { s with now := t.now, rtc := t.rtc, cores := t.cores } ∧ t.core c = { k with nextIssue := t.now + 1 }

/-- A bundle closes with the sequencer operation on its core, its snapshot gone. -/
theorem closed_closeBundle (s : State) (c : Nat) (f : Core → Core) :
    Closed s (closeBundle s c f) c (f { s.core c with snap := none }) := by
  have hk : ((s.toIssue c).core c) = s.core c := rfl
  have e : closeBundle s c f = startVec c 4 (startSpb c 4 ((s.toIssue c).setCore c
      { f { s.core c with snap := none } with nextIssue := (s.toIssue c).now + 1 })) := rfl
  generalize hu : (s.toIssue c).setCore c { f { s.core c with snap := none } with nextIssue := (s.toIssue c).now + 1 } = u at e
  have huc : u.core c = { f { s.core c with snap := none } with nextIssue := (s.toIssue c).now + 1 } := by simp [← hu]
  have huo : ∀ d, d ≠ c → u.core d = s.core d := fun d hd => by rw [← hu, State.setCore_core, if_neg hd]; rfl
  have hrest : u = { s with now := u.now, rtc := u.rtc, cores := u.cores } := by rw [← hu]; rfl
  have hnow : u.now = max s.now (s.core c).nextIssue := by rw [← hu]; rfl
  have hnow' : u.now = (s.toIssue c).now := by rw [← hu]; rfl
  have hheal : ∀ d, u.heal d = s.heal d := fun d => by rw [← hu]; rfl
  have hctl : ∀ p, u.ctlOf p = s.ctlOf p := fun p => by rw [← hu]; rfl
  have h := (EngStep.startSpb c 4 u).trans (EngStep.startVec c 4 _)
  rw [← e] at h
  have ht : (closeBundle s c f).now = u.now := by rw [h.rest]
  refine ⟨?_, ht.trans hnow, fun d hd => ?_, ?_, fun p => (h.counts p).trans (by rw [hctl]), fun hs hv => ?_⟩
  · conv_lhs => rw [h.rest, hrest]
    rw [ht]
    conv_rhs => rw [h.rest]
  · obtain ⟨h1, h2⟩ := h.others d hd
    exact ⟨h1.trans (huo d hd), h2.trans (hheal d)⟩
  · conv_lhs => rw [h.own, huc]
    rw [ht, hnow']
  · have hs' : (u.core c).iss.spbQ = [] := by rw [huc]; exact hs
    have hv' : (u.core c).iss.vecQ = [] := by rw [huc]; exact hv
    have e' : closeBundle s c f = u := by rw [e, startSpb_empty c 4 u hs', startVec_empty c 4 u hv']
    rw [e', hnow']
    exact ⟨by conv_lhs => rw [hrest, hnow'], huc⟩

/-- A sequencer operation of a core that issues closes its bundle. -/
theorem seqOp_ready {s : State} {c : Nat} (f : Core → Core) (h : CoreReady s c) : seqOp s c f = .next (closeBundle s c f) := by
  rw [seqOp, onIssuing_ready s c _ h, if_neg h.2.2]

/-- The frame of a closed bundle whose operation changed no more than pointer, loops, index registers and wait. -/
theorem Closed.seqTo {s t : State} {c : Nat} {k : Core} (h : Closed s t c k)
    (hk : k = { s.core c with bp := k.bp, loops := k.loops, ix := k.ix, wait := k.wait, snap := none }) :
    SeqTo s t c k.bp k.loops k.ix k.wait := by
  have hs : k.snap = none := by rw [hk]
  have hi : k.iss = (s.core c).iss := by rw [hk]
  refine ⟨by rw [h.own], by rw [h.own], by rw [h.own], by rw [h.own], h.rest, h.now, h.others, by rw [h.own]; exact hs, by rw [h.own],
    fun h1 h2 => ?_⟩
  obtain ⟨hq, hc⟩ := h.quiet (by rw [hi]; exact h1) (by rw [hi]; exact h2)
  refine ⟨hq, ?_⟩
  rw [hc, hk]

/-- A sequencer operation that changes no more than pointer, loops, index registers and wait. -/
theorem seqOp_seqTo {s : State} {c : Nat} (f : Core → Core) (h : CoreReady s c)
    (hk : f { s.core c with snap := none } = { s.core c with
      bp := (f { s.core c with snap := none }).bp, loops := (f { s.core c with snap := none }).loops
      ix := (f { s.core c with snap := none }).ix, wait := (f { s.core c with snap := none }).wait, snap := none }) :
    ∃ t, seqOp s c f = .next t ∧ SeqTo s t c (f { s.core c with snap := none }).bp (f { s.core c with snap := none }).loops
      (f { s.core c with snap := none }).ix (f { s.core c with snap := none }).wait :=
  ⟨_, seqOp_ready f h, (closed_closeBundle s c f).seqTo hk⟩

/-- A core that issues runs. -/
theorem CoreReady.running {s : State} {c : Nat} (h : CoreReady s c) : (s.core c).wait = .running := by
  have := h.2.1
  simp only [canIssue, Bool.and_eq_true, decide_eq_true_eq] at this
  exact this.1.1.1

/-- BARRIER closes its bundle, waits on the wire, and arrives there. -/
theorem execBarrier_ready (s : State) (c wire p : Nat) (h : CoreReady s c) (hp : s.partOfCore c = some p) :
    ∃ t, exec (.barrier c wire) s = .next t
      ∧ SeqTo s { t with parts := s.parts } c (((s.core c).bp + 1) % 4096) (s.core c).loops (s.core c).ix (.wire wire)
      ∧ t.part p = { s.part p with barriers := (s.part p).barriers ++ [(wire, c, t.now)] }
      ∧ ∀ p', p' ≠ p → t.part p' = s.part p' := by
  have hc := closed_closeBundle s c (fun k => bpNext { k with wait := .wire wire })
  generalize hu : closeBundle s c (fun k => bpNext { k with wait := .wire wire }) = u at hc
  have hparts : u.parts = s.parts := by rw [hc.rest]
  have hpart : ∀ q, u.part q = s.part q := fun q => by rw [State.part, State.part, hparts]
  have hsame : { u.setPart p { u.part p with barriers := (u.part p).barriers ++ [(wire, c, u.now)] } with parts := s.parts } = u := by
    rw [← hparts]; rfl
  refine ⟨u.setPart p { u.part p with barriers := (u.part p).barriers ++ [(wire, c, u.now)] },
    (onIssuing_ready s c _ h).trans ?_, ?_, ?_, fun p' hp' => ?_⟩
  · rw [if_neg h.2.2, hp]; simp only [hu]
  · rw [hsame]; exact hc.seqTo rfl
  · simp [hpart]
  · simp [hp', hpart]

/-- WAITMARK closes its bundle and waits for its firing; an arrival before the slack water is counted where the core takes part. -/
theorem execWaitmark_ready (s : State) (c entry p n i o : Nat) (h : CoreReady s c) (hp : s.partOfCore c = some p)
    (hn : nextInst (s.part p) (tideEntry (s.part p) entry) (s.core c).cursor = (n, i, o)) :
    let at' := max s.now (s.core c).nextIssue
    let due := instTime (s.part p) (tideEntry (s.part p) entry) n i o
    ∃ t, exec (.waitmark c entry) s = .next t
      ∧ (t.core c).bp = ((s.core c).bp + 1) % 4096 ∧ (t.core c).loops = (s.core c).loops ∧ (t.core c).ix = (s.core c).ix
      ∧ (t.core c).wait = .mark entry due at' ∧ t.now = at'
      ∧ (t.ctlOf p).counts.early = (if at' + tideSlack (tideEntry (s.part p) entry) < due ∧ entry ∈ (s.core c).participates
          then min 4294967295 ((s.ctlOf p).counts.early + 1) else (s.ctlOf p).counts.early)
      ∧ (∀ c', c' ≠ c → t.core c' = s.core c' ∧ t.heal c' = s.heal c')
      ∧ ((s.core c).iss.spbQ = [] → (s.core c).iss.vecQ = [] →
          t = { s with now := t.now, rtc := t.rtc, cores := t.cores, ctl := t.ctl }
            ∧ ∀ p', p' ≠ p → t.ctlOf p' = s.ctlOf p') := by
  intro at' due
  have hc := closed_closeBundle s c (fun k => bpNext { k with wait := .mark entry due at' })
  generalize hu : closeBundle s c (fun k => bpNext { k with wait := .mark entry due at' }) = u at hc
  obtain ⟨hbp, hloops, hix, hwait, -, hnow, hothers, -, -, hquiet⟩ := hc.seqTo rfl
  have hcounts := hc.counts p
  by_cases hearly : at' + tideSlack (tideEntry (s.part p) entry) < due ∧ entry ∈ (s.core c).participates
  · refine ⟨u.setCtl p { u.ctlOf p with counts := { (u.ctlOf p).counts with early := satAdd 32 (u.ctlOf p).counts.early 1 } },
      (onIssuing_ready s c _ h).trans ?_, hbp, hloops, hix, hwait, hnow, ?_, hothers, fun h1 h2 => ?_⟩
    · rw [if_neg h.2.2, hp]; simp only [hn]
      rw [if_pos hearly, hu]
    · rw [if_pos hearly]; simp [hcounts, satAdd]
    · obtain ⟨hq, -⟩ := hquiet h1 h2
      have hctl : u.ctl = s.ctl := by rw [hq]
      refine ⟨congrArg (fun v : State => { v with ctl := tput {} u.ctl p { u.ctlOf p with
        counts := { (u.ctlOf p).counts with early := satAdd 32 (u.ctlOf p).counts.early 1 } } }) hq, fun p' hp' => ?_⟩
      rw [State.setCtl_ctlOf, if_neg hp', State.ctlOf, hctl]; rfl
  · refine ⟨u, (onIssuing_ready s c _ h).trans ?_, hbp, hloops, hix, hwait, hnow, ?_, hothers, fun h1 h2 => ?_⟩
    · rw [if_neg h.2.2, hp]; simp only [hn]
      rw [if_neg hearly, hu]
    · rw [if_neg hearly, hcounts]
    · obtain ⟨hq, -⟩ := hquiet h1 h2
      have hctl : u.ctl = s.ctl := by rw [hq]
      refine ⟨?_, fun p' _ => by rw [State.ctlOf, hctl]; rfl⟩
      rw [hctl]; exact hq

/-- Settles O4: each operation closes its bundle with its own change of pointer, loops, index registers and wait. -/
theorem sequencerOperationsStepWaitAndHalt : Obligations.SequencerOperationsStepWaitAndHalt := by
  refine ⟨fun s c h => ?next, fun s c level count h => ?loop, fun s c level n start h hl => ⟨fun hn => ?again, fun hn => ?leave⟩,
    fun s c r v h => ?setix, fun s c r v h => ?addix, fun s c h => ?halt, fun s c target h ht => ?jump, fun s c ch h => ?waitdma,
    execBarrier_ready, execWaitmark_ready⟩
  case next => rw [← h.running]; exact seqOp_seqTo bpNext h rfl
  case loop => rw [← h.running]; exact seqOp_seqTo _ h rfl
  case again =>
    obtain ⟨t, ht, hs⟩ := seqOp_seqTo (fun k => match k.loops[level]? with
      | none => bpNext k
      | some (n, start) => if 1 < n then { k with loops := k.loops.set level (n - 1, start), bp := start }
        else bpNext { k with loops := k.loops.take level }) h (by simp [hl, hn])
    refine ⟨t, ht, ?_⟩
    simpa only [hl, hn, if_true, h.running] using hs
  case leave =>
    have hn' : ¬ 1 < n := by omega
    obtain ⟨t, ht, hs⟩ := seqOp_seqTo (fun k => match k.loops[level]? with
      | none => bpNext k
      | some (n, start) => if 1 < n then { k with loops := k.loops.set level (n - 1, start), bp := start }
        else bpNext { k with loops := k.loops.take level }) h (by simp [hl, hn', bpNext])
    refine ⟨t, ht, ?_⟩
    simpa only [hl, hn', if_false, bpNext, h.running] using hs
  case setix =>
    obtain ⟨t, ht, hs⟩ := seqOp_seqTo (fun k => bpNext { k with ix := tput 0 k.ix r (BitVec.ofNat 12 v) }) h rfl
    have hix : (t.core c).ix = tput 0 (s.core c).ix r (BitVec.ofNat 12 v) := hs.2.2.1
    refine ⟨t, ht, by rw [hix, ← h.running]; exact hs, fun j => ?_⟩
    rw [hix, tget_tput]; split <;> simp
  case addix =>
    obtain ⟨t, ht, hs⟩ := seqOp_seqTo (fun k => bpNext { k with ix := tput 0 k.ix r (tget 0 k.ix r + BitVec.ofNat 12 v) }) h rfl
    have hix : (t.core c).ix = tput 0 (s.core c).ix r (tget 0 (s.core c).ix r + BitVec.ofNat 12 v) := hs.2.2.1
    refine ⟨t, ht, by rw [hix, ← h.running]; exact hs, fun j => ?_⟩
    rw [hix, tget_tput]; split <;> simp
  case halt => exact seqOp_seqTo _ h rfl
  case jump =>
    obtain ⟨t, ht', hs⟩ := seqOp_seqTo (fun k => { k with bp := target % 4096 }) h rfl
    refine ⟨t, ht', ?_⟩
    rw [← h.running]
    simpa only [Nat.mod_eq_of_lt ht] using hs
  case waitdma =>
    obtain ⟨t, ht, hs⟩ := seqOp_seqTo (fun k => bpNext { k with wait := if channelFree k ch then .running else .dma ch }) h rfl
    refine ⟨t, ht, ?_⟩
    have hf : channelFree { s.core c with snap := none } ch = true
        ↔ (tget {} (s.core c).chans ch).state = .idle ∧ tget none (s.core c).iss.pend ch = none := by
      simp [channelFree]
    simpa only [bpNext, hf] using hs

end Sys2Proof.Machine
end

section
/-! SUPPORT. ARMWIN and DMA START: a bundle that is opened first closes as one that was not (R45, R46, R49, R51). -/

namespace Sys2Proof.Machine

/-- The state in which ARMWIN and a DMA START act: the time of issue, the bundle open. -/
def State.opened (s : State) (c : Nat) : State := (s.toIssue c).setCore c (openBundle (s.core c))

theorem State.opened_core (s : State) (c d : Nat) : (s.opened c).core d = if d = c then openBundle (s.core c) else s.core d := by
  rw [State.opened, State.setCore_core]; rfl

@[simp] theorem openBundle_nextIssue (k : Core) : (openBundle k).nextIssue = k.nextIssue := by unfold openBundle; cases k.snap <;> rfl
@[simp] theorem openBundle_windows (k : Core) : (openBundle k).windows = k.windows := by unfold openBundle; cases k.snap <;> rfl
@[simp] theorem openBundle_firstFault (k : Core) : (openBundle k).firstFault = k.firstFault := by unfold openBundle; cases k.snap <;> rfl
@[simp] theorem openBundle_descs (k : Core) : (openBundle k).descs = k.descs := by unfold openBundle; cases k.snap <;> rfl
@[simp] theorem openBundle_ix (k : Core) : (openBundle k).ix = k.ix := by unfold openBundle; cases k.snap <;> rfl
@[simp] theorem openBundle_ixOf (k : Core) (sel : Nat) : (openBundle k).ixOf sel = k.ixOf sel := by unfold Core.ixOf; simp

/-- Opening a bundle leaves no trace once its snapshot is gone. -/
theorem openBundle_snap_none (k : Core) : { openBundle k with snap := none } = { k with snap := none } := by
  unfold openBundle; cases k.snap <;> rfl

@[simp] theorem dropBundle_windows (k : Core) : (dropBundle k).windows = k.windows := by unfold dropBundle; cases k.snap <;> rfl
@[simp] theorem dropBundle_firstFault (k : Core) : (dropBundle k).firstFault = k.firstFault := by unfold dropBundle; cases k.snap <;> rfl

/-- An opened bundle closes as one that was not opened first. -/
theorem closed_opened (s : State) (c : Nat) (f : Core → Core) :
    Closed s (closeBundle (s.opened c) c f) c (f { s.core c with snap := none }) := by
  have h := closed_closeBundle (s.opened c) c f
  have hc : (s.opened c).core c = openBundle (s.core c) := by rw [State.opened_core, if_pos rfl]
  rw [hc, openBundle_snap_none] at h
  have hnow : (closeBundle (s.opened c) c f).now = max s.now (s.core c).nextIssue := by
    rw [h.now, hc, openBundle_nextIssue]; exact max_eq_left (le_max_right _ _)
  generalize closeBundle (s.opened c) c f = t at h hnow
  refine ⟨h.rest, hnow, fun d hd => ?_, h.own, h.counts, h.quiet⟩
  obtain ⟨h1, h2⟩ := h.others d hd
  exact ⟨h1.trans (by rw [State.opened_core, if_neg hd]), h2⟩

/-- Raising a cause on a core that has none makes it the first; either way the core keeps its wait and its windows. -/
theorem State.raise_core (s : State) (c : Nat) (x : Cause) :
    ((s.raise c x).core c).wait = (s.core c).wait ∧ ((s.raise c x).core c).windows = (s.core c).windows
      ∧ ((s.core c).firstFault = none → ((s.raise c x).core c).firstFault = some x)
      ∧ (s.raise c x).pad = s.pad ∧ (s.raise c x).marks = s.marks := by
  unfold State.raise
  dsimp only
  split
  next y h => exact ⟨by simp, by simp, fun h' => absurd (h.symm.trans h') (by simp), rfl, rfl⟩
  next h => split <;> exact ⟨by simp, by simp, fun _ => by simp, rfl, rfl⟩

/-- A bundle that stops raises its cause, and moves neither windows nor bytes. -/
theorem State.stopBundle_core (s : State) (c : Nat) (x : Cause) :
    ((s.stopBundle c x).core c).wait = .stopped ∧ ((s.stopBundle c x).core c).windows = (s.core c).windows
      ∧ ((s.core c).firstFault = none → ((s.stopBundle c x).core c).firstFault = some x)
      ∧ (s.stopBundle c x).pad = s.pad ∧ (s.stopBundle c x).marks = s.marks := by
  obtain ⟨hw, hwin, hf, hp, hm⟩ := (s.setCore c { dropBundle (s.core c) with wait := .stopped }).raise_core c x
  exact ⟨hw.trans (by simp), hwin.trans (by simp), fun h => hf (by simp [h]), hp, hm⟩

/-- Settles O5: ARMWIN on an open, closed or armed window, and a DMA START into an empty pending register. -/
theorem windowArmsAndDescriptorsStart : Obligations.WindowArmsAndDescriptorsStart := by
  refine ⟨?arm, fun s c win rowsM1 h harm hshut => ?shut, fun s c win rowsM1 h harm => ?armed,
    fun s c sel ch desc target d h hd hbad hpend => ?start⟩
  case arm =>
    intro s c win rowsM1 k w e h harmed hfenced hclosed hdir hsb
    have hex : exec (.armwin c win rowsM1) s = .next (closeBundle (s.opened c) c (fun k' => bpNext { k' with
        iss := { k'.iss with sb := k'.iss.sb ++ [e], serial := k.iss.serial + 1 }
        windows := tput {} k'.windows win
          { w with armed := true, left := rowsM1 + 1, exhausted := false, poisoned := false, armedAt := (s.toIssue c).now } })) := by
      refine (onIssuing_ready s c _ h).trans (congrArg Host.Outcome.next ?_)
      simp only [State.toIssue, State.advance_core, openBundle_bp, openBundle_storeBad, openBundle_iss, openBundle_windows]
      rw [if_neg h.2.2, if_neg (by simp [w, k] at harmed ⊢; exact harmed),
        if_neg (by simp [w, k] at hfenced hclosed hdir ⊢; exact ⟨⟨hfenced, hclosed⟩, hdir⟩), hsb]
      rfl
    have hc := closed_opened s c (fun k' => bpNext { k' with
        iss := { k'.iss with sb := k'.iss.sb ++ [e], serial := k.iss.serial + 1 }
        windows := tput {} k'.windows win
          { w with armed := true, left := rowsM1 + 1, exhausted := false, poisoned := false, armedAt := (s.toIssue c).now } })
    generalize closeBundle (s.opened c) c _ = t at hex hc
    have hnow : (s.toIssue c).now = t.now := hc.now.symm
    rw [hnow] at hc
    refine ⟨t, hex, ?_, ?_, ?_, ?_, ?_, fun n => ?_, hc.others, fun h1 h2 => (hc.quiet h1 h2).1⟩
    · rw [hc.own]; rfl
    · rw [hc.own]; exact h.running
    · rw [hc.own]; rfl
    · rw [hc.own]; rfl
    · rw [hc.own]; rfl
    · rw [hc.own]; exact tget_tput ({} : Window) k.windows win n _
  case shut =>
    have hex : exec (.armwin c win rowsM1) s = .next (closeBundle (s.opened c) c bpNext) := by
      refine (onIssuing_ready s c _ h).trans (congrArg Host.Outcome.next ?_)
      simp only [State.toIssue, State.advance_core, openBundle_bp, openBundle_storeBad, openBundle_iss, openBundle_windows]
      rw [if_neg h.2.2, if_neg (by rw [harm]; simp), if_pos (by rcases hshut with h | h <;> rw [h] <;> simp)]
      rfl
    have hc := closed_opened s c bpNext
    generalize closeBundle (s.opened c) c _ = t at hex hc
    refine ⟨t, hex, ?_, by rw [hc.own]; rfl⟩
    rw [← h.running]
    exact hc.seqTo rfl
  case armed =>
    have hex : exec (.armwin c win rowsM1) s = .next ((s.opened c).stopBundle c .windowArm) := by
      refine (onIssuing_ready s c _ h).trans (congrArg Host.Outcome.next ?_)
      simp only [State.toIssue, State.advance_core, openBundle_bp, openBundle_storeBad, openBundle_iss, openBundle_windows]
      rw [if_neg h.2.2, if_pos (by rw [harm])]
      rfl
    obtain ⟨hw, hwin, hf, hp, hm⟩ := (s.opened c).stopBundle_core c .windowArm
    rw [State.opened_core, if_pos rfl, openBundle_windows] at hwin
    rw [State.opened_core, if_pos rfl, openBundle_firstFault] at hf
    exact ⟨_, hex, hw, hf, hwin, hp, hm⟩
  case start =>
    let i : IssueState := { (s.core c).iss with
      pend := tput none (s.core c).iss.pend ch
        (some { desc := withOffset d target ((s.core c).ixOf sel), idx := desc, entered := (s.toIssue c).now }) }
    have hex : exec (.dmaStart c sel ch desc target) s
        = .next ((s.opened c).setCore c { openBundle (s.core c) with iss := i }) := by
      refine (onIssuing_ready s c _ h).trans (congrArg Host.Outcome.next ?_)
      simp only [State.toIssue, State.advance_core, openBundle_bp, openBundle_storeBad, openBundle_iss, openBundle_descs, hd, hpend]
      rw [if_neg (by simp [h.2.2, hbad]), if_neg (by simp)]
      simp only [openBundle_ixOf]
      rfl
    obtain ⟨hframe, hiss⟩ := slotFrame_setCore s (s.opened c) c i rfl rfl (fun d hd => by rw [State.opened_core, if_neg hd])
    generalize (s.opened c).setCore c { openBundle (s.core c) with iss := i } = t at hex hframe hiss
    refine ⟨t, hex, fun n => ?_, ?_, hframe⟩
    · rw [hiss, show t.now = (s.toIssue c).now from hframe.2.1]
      simp only [i, tget_tput]
    · rw [hiss]

end Sys2Proof.Machine
end

section
/-! SUPPORT. What the reads of an engine may change (R35, R36), and the array's shadow bank (R55, R63). -/

namespace Sys2Proof.Machine

/-- The counts of a read of corrected words: the core's health, and an event where they cross the threshold. -/
structure Counted (c : Nat) (s t : State) : Prop where
  rest : t = { s with health := t.health, log := t.log, hosts := t.hosts, sivar := t.sivar }
  config : t.sivar.config = s.sivar.config
  heal : ∀ d, d ≠ c → t.heal d = s.heal d

namespace Counted

variable {c : Nat} {s t u : State}

theorem refl (c : Nat) (s : State) : Counted c s s := ⟨rfl, rfl, fun _ _ => rfl⟩

theorem trans (h : Counted c s t) (g : Counted c t u) : Counted c s u :=
  ⟨by conv_lhs => rw [g.rest, h.rest], g.config.trans h.config, fun d hd => (g.heal d hd).trans (h.heal d hd)⟩

theorem setHeal (c : Nat) (s : State) (v : CoreHealth) : Counted c s (s.setHeal c v) := ⟨rfl, rfl, fun d hd => by simp [hd]⟩

theorem event (c : Nat) (s : State) (a b d e : Nat) : Counted c s (s.event a b d e) := by
  refine ⟨?_, by simp, fun _ _ => by simp⟩
  have h := State.eventAt_frame s s.now a b d e
  conv_lhs => rw [State.event, h]
  simp [State.event]

theorem addCorrected (c : Nat) (s : State) (n : Nat) : Counted c s (s.addCorrected c n) := by
  unfold State.addCorrected
  dsimp only
  split
  · exact refl c s
  · split
    · exact ((setHeal c s _).trans (setHeal c _ _)).trans (event c _ _ _ _ _)
    · exact setHeal c s _

theorem queueWriteBack (c : Nat) (s : State) (row : Nat) : Counted c s (s.queueWriteBack c row) := by
  unfold State.queueWriteBack
  dsimp only
  split
  · exact refl c s
  · exact setHeal c s _

theorem noteRow (c : Nat) (s : State) (row : Nat) : Counted c s (s.noteRow c row) := by
  unfold State.noteRow
  dsimp only
  split
  · exact refl c s
  · exact (addCorrected c s _).trans (queueWriteBack c _ _)

theorem foldl {α : Type} {f : State → α → State} (h : ∀ s a, Counted c s (f s a)) (l : List α) (s : State) :
    Counted c s (l.foldl f s) := by
  induction l generalizing s with
  | nil => exact refl c s
  | cons a l ih => exact (h s a).trans (ih _)

end Counted

/-- The corrected words of a core after n more (R35). -/
theorem State.addCorrected_corrected (s : State) (c n : Nat) :
    ((s.addCorrected c n).heal c).corrected
      = if n = 0 then (s.heal c).corrected else min 4294967295 ((s.heal c).corrected + n) := by
  unfold State.addCorrected
  dsimp only
  split
  · rfl
  · split <;> simp [satAdd]

/-- What the reads of an engine may change: the core's health, its causes, and the log. -/
structure Noted (c : Nat) (s t : State) : Prop where
  rest : t = { s with cores := t.cores, health := t.health, ctl := t.ctl, log := t.log, hosts := t.hosts, sivar := t.sivar }
  others : ∀ d, d ≠ c → t.core d = s.core d ∧ t.heal d = s.heal d
  own : t.core c = { s.core c with firstFault := (t.core c).firstFault, laterFaults := (t.core c).laterFaults }

namespace Noted

variable {c : Nat} {s t u : State}

theorem refl (c : Nat) (s : State) : Noted c s s := ⟨rfl, fun _ _ => ⟨rfl, rfl⟩, rfl⟩

theorem trans (h : Noted c s t) (g : Noted c t u) : Noted c s u :=
  ⟨by conv_lhs => rw [g.rest, h.rest],
    fun d hd => ⟨(g.others d hd).1.trans (h.others d hd).1, (g.others d hd).2.trans (h.others d hd).2⟩,
    by conv_lhs => rw [g.own, h.own]⟩

theorem of_counted (h : Counted c s t) : Noted c s t := by
  have hc : t.cores = s.cores := by rw [h.rest]
  have hk : t.ctl = s.ctl := by rw [h.rest]
  have hcore : ∀ d, t.core d = s.core d := fun d => by rw [State.core, hc]; rfl
  refine ⟨?_, fun d hd => ⟨hcore d, h.heal d hd⟩, by rw [hcore]⟩
  rw [hc, hk]; exact h.rest

theorem setHeal (c : Nat) (s : State) (v : CoreHealth) : Noted c s (s.setHeal c v) := of_counted (Counted.setHeal c s v)

theorem setCtl (c : Nat) (s : State) (p : Nat) (v : PartControl) : Noted c s (s.setCtl p v) := ⟨rfl, fun _ _ => ⟨rfl, rfl⟩, rfl⟩

theorem raise (c : Nat) (s : State) (x : Cause) : Noted c s (s.raise c x) := by
  unfold State.raise
  dsimp only
  split
  · exact ⟨rfl, fun d hd => by simp [hd], by simp⟩
  · split
    · exact ⟨rfl, fun d hd => by simp [hd], by simp⟩
    · exact ⟨rfl, fun d hd => by simp [hd], by simp⟩

theorem noteRows (c : Nat) (s : State) (first n : Nat) : Noted c s (s.noteRows c first n) := by
  have h0 : Noted c s ((List.range n).foldl (fun t i => t.noteRow c (first + i)) s) :=
    of_counted (Counted.foldl (fun t i => Counted.noteRow c t (first + i)) _ s)
  unfold State.noteRows
  dsimp only
  split
  · exact h0.trans (raise c _ _)
  · exact h0

theorem pad (h : Noted c s t) : t.pad = s.pad := by rw [h.rest]
theorem marks (h : Noted c s t) : t.marks = s.marks := by rw [h.rest]
theorem gantries (h : Noted c s t) : t.gantries = s.gantries := by rw [h.rest]
theorem arr (h : Noted c s t) : (t.core c).arr = (s.core c).arr := by rw [h.own]

end Noted

/-- The tables of `SameBut` by their accessors. -/
theorem sameBut_cores {s t : State} {c : Nat} (h : ∀ d, d ≠ c → t.core d = s.core d) : SameBut {} s.cores t.cores c := h

theorem sameBut_health {s t : State} {c : Nat} (h : ∀ d, d ≠ c → t.heal d = s.heal d) : SameBut {} s.health t.health c := h

/-- A core settles: instructions that hold no entry are done, and what starts then may change what any instruction may. -/
theorem EngStep.settle (c : Nat) (s : State) : EngStep c s (settle s c) := by
  unfold Machine.settle
  dsimp only
  refine EngStep.trans ?_ ((EngStep.startSpb c 4 _).trans (EngStep.startVec c 4 _))
  exact ⟨rfl, rfl, fun d hd => by simp [hd], by simp, fun _ => rfl, id⟩

/-- A core with no springbok or vector instruction queued settles in its own state alone. -/
theorem settle_empty (c : Nat) (s : State) (hs : (s.core c).iss.spbQ = []) (hv : (s.core c).iss.vecQ = []) :
    settle s c = { s with cores := (settle s c).cores } := by
  have e : ∃ k : Core, settle s c = s.setCore c k := by
    unfold Machine.settle
    refine ⟨?_, ?_⟩
    rotate_left
    · dsimp only
      rw [startSpb_empty _ _ _ (by simpa using hs), startVec_empty _ _ _ (by simpa using hv)]
  obtain ⟨k, hk⟩ := e
  rw [hk]; rfl

/-- An array load is never held up by an instruction that streams both operands. -/
theorem ArrInstr.osp_of_fromQueue {i : ArrInstr} (h : i.fromQueue = true) : i.osp = false := by
  unfold ArrInstr.fromQueue at h
  unfold ArrInstr.osp
  cases hop : i.op <;> simp_all

theorem loadEnd_of_noClash (a : ArrayState) (start len : Nat) (h : a.clash.2 = 0) : loadEnd a start len = start + len := by
  have hno : ¬ (a.clash.1 ≤ start ∧ start < a.clash.1) := by omega
  simp [loadEnd, h, hno]

/-- An entry of a core between bundles whose work is done is released, and the core settles. -/
theorem execScoreboardRelease_released (s : State) (c entry : Nat) (e : SbEntry) (hc : coreExists s c = true)
    (he : (s.core c).iss.sb[entry]? = some e) (hr : releasable (s.core c) e = true) (hsnap : (s.core c).snap = none) :
    ∃ t, exec (.scoreboardRelease c entry) s = .next t
      ∧ (t.core c).iss.sb = (s.core c).iss.sb.eraseIdx entry
      ∧ (t.core c).bp = (s.core c).bp ∧ (t.core c).wait = (s.core c).wait ∧ (t.core c).windows = (s.core c).windows
      ∧ (∀ d, d ≠ c → t.core d = s.core d ∧ t.heal d = s.heal d)
      ∧ ((s.core c).iss.spbQ = [] → (s.core c).iss.vecQ = [] → t = { s with cores := t.cores }) := by
  have hex : exec (.scoreboardRelease c entry) s = .next (settle (s.setCore c (dropEntry (s.core c) entry)) c) := by
    refine (onCore_exists _ hc).trans ?_
    simp only [he, hr, hsnap]
    rfl
  have hk : (s.setCore c (dropEntry (s.core c) entry)).core c = dropEntry (s.core c) entry := by simp
  have h := EngStep.settle c (s.setCore c (dropEntry (s.core c) entry))
  have hq := settle_empty c (s.setCore c (dropEntry (s.core c) entry))
  generalize settle (s.setCore c (dropEntry (s.core c) entry)) c = t at hex h hq
  rw [hk] at hq
  have hown := h.own
  rw [hk] at hown
  refine ⟨t, hex, by rw [hown]; rfl, by rw [hown]; rfl, by rw [hown]; rfl, by rw [hown]; rfl, fun d hd => ?_,
    fun hs hv => (hq hs hv).trans rfl⟩
  obtain ⟨h1, h2⟩ := h.others d hd
  exact ⟨h1.trans (by simp [hd]), h2⟩

/-- A core's state with a bank in the shadow and the load's end, its queue as given. -/
def Core.loaded (k : Core) (q : List Packet) (b : TileBank) (done : Nat) : Core :=
  { k with queue := q, arr := { k.arr with shadow := some b, loadDone := done } }

/-- A gantry with the slot of a packet owed back to the packet's own end (R55). -/
def Gantry.returned (g : Gantry) (north : Bool) (back : Nat × Nat) : Gantry :=
  if north then { g with north := { g.north with returning := g.north.returning ++ [back] } }
  else { g with south := { g.south with returning := g.south.returning ++ [back] } }

/-- The cycles that the load of a bank takes: twice as many for a transposed tile with block scales (R63). -/
def TileBank.loadCycles (b : TileBank) : Nat := if b.transposed && codeMx b.format then 64 else 32

/-- The tile of the scratchpad that the array of core state `k` loads next for `i`: its first row. -/
def tileRow (k : Core) (i : ArrInstr) : Nat :=
  i.srcB.first + (k.arr.chain * arrP i.regs + k.arr.pass) * tileRows (arrB i.regs)

/-- The bank that a tile of the scratchpad fills. -/
def bankOfPad (s : State) (c : Nat) (k : Core) (i : ArrInstr) : TileBank :=
  let code := arrB i.regs
  let a := padAt c (tileRow k i)
  let eb := 1024 * codeBits code / 8
  let sb := if codeMx code then 32 else 0
  { format := code, elems := (List.range eb).map (fun n => padByte s (a + n))
    scales := (List.range sb).map (fun n => padByte s (a + eb + n)), transposed := i.trans
    poison := bytesBad s a (eb + sb), skip := false }

section
variable {s : State} {c : Nat} {i : ArrInstr} (hc : coreExists s c = true) (hcur : (nextArr (s.core c)).arr.cur = some i)
  (hosp : i.osp = false) (hsh : (nextArr (s.core c)).arr.shadow = none) (hfr : arrayFrozen s c = false)
  (hdead : (s.heal c).dead = false)
include hc hcur hosp hsh hfr hdead

/-- The load of the packet at the queue's head. -/
theorem execStationaryLoad_queue {p : Packet} {q : List Packet} (hfq : i.fromQueue = true)
    (hqueue : (nextArr (s.core c)).queue = p :: q) (done : Nat)
    (hdone : done = loadEnd (nextArr (s.core c)).arr (max s.now i.issued) (bankOfPacket i p).loadCycles) (u : State)
    (hu : u = (s.setCore c ((nextArr (s.core c)).loaded q (bankOfPacket i p) done)).setGantry (coreX c)
      ((s.gantry (coreX c)).returned p.north (c, done + 1))) :
    exec (.stationaryLoad c) s = .next (u.addCorrected c p.corrected) := by
  rw [hu, hdone]
  generalize hR : State.addCorrected _ c p.corrected = R
  refine (onCore_exists _ hc).trans (congrArg Host.Outcome.next ?_)
  extract_lets k
  split
  next h => exact absurd (h.symm.trans hcur) (by simp)
  next j h =>
    obtain rfl : j = i := Option.some.inj (h.symm.trans hcur)
    rw [if_neg (by rw [hosp, hsh, hfr, hdead]; simp), if_pos hfq]
    split
    next h => exact absurd (h.symm.trans hqueue) (by simp)
    next p' q' h =>
      obtain ⟨rfl, rfl⟩ : p' = p ∧ q' = q := by simpa using h.symm.trans hqueue
      exact hR

/-- The load of the next tile of the scratchpad. -/
theorem execStationaryLoad_pad (hfq : i.fromQueue = false) (u : State)
    (hu : u = s.setCore c ((nextArr (s.core c)).loaded (nextArr (s.core c)).queue (bankOfPad s c (nextArr (s.core c)) i)
      (loadEnd (nextArr (s.core c)).arr (max s.now i.issued) (bankOfPad s c (nextArr (s.core c)) i).loadCycles))) :
    exec (.stationaryLoad c) s
      = .next (u.noteRows c (tileRow (nextArr (s.core c)) i) (tileRows (arrB i.regs))).bump := by
  rw [hu]
  generalize hR : State.bump _ = R
  refine (onCore_exists _ hc).trans (congrArg Host.Outcome.next ?_)
  extract_lets k
  split
  next h => exact absurd (h.symm.trans hcur) (by simp)
  next j h =>
    obtain rfl : j = i := Option.some.inj (h.symm.trans hcur)
    rw [if_neg (by rw [hosp, hsh, hfr, hdead]; simp), if_neg (by simp [hfq])]
    exact hR

end

/-- Settles O6: an entry is released whole, and the shadow bank is loaded from the queue or from the scratchpad. -/
theorem entriesReleaseAndTilesLoad : Obligations.EntriesReleaseAndTilesLoad := by
  refine ⟨execScoreboardRelease_released, ?queue, ?pad⟩
  case queue =>
    intro s c i p q hc hcur hfq hsh hfr hdead hqueue start len done
    refine ⟨loadEnd_of_noClash _ _ _, ?_⟩
    generalize hu : (s.setCore c ((nextArr (s.core c)).loaded q (bankOfPacket i p) done)).setGantry (coreX c)
      ((s.gantry (coreX c)).returned p.north (c, done + 1)) = u
    have hex := execStationaryLoad_queue hc hcur (i.osp_of_fromQueue hfq) hsh hfr hdead hfq hqueue done rfl u hu.symm
    have h := Counted.addCorrected c u p.corrected
    have hcor := u.addCorrected_corrected c p.corrected
    generalize u.addCorrected c p.corrected = t at hex h hcor
    have hheal : ∀ d, u.heal d = s.heal d := fun d => by rw [← hu, State.setGantry_heal, State.setCore_heal]
    have hcores : t.cores = u.cores := by rw [h.rest]
    have hgan : t.gantries = u.gantries := by rw [h.rest]
    have hcore : ∀ d, t.core d = if d = c then (nextArr (s.core c)).loaded q (bankOfPacket i p) done else s.core d := fun d => by
      rw [State.core, hcores, ← hu]; exact State.setCore_core ..
    have hg : ∀ x, t.gantry x
        = if x = coreX c then (s.gantry (coreX c)).returned p.north (c, done + 1) else s.gantry x := fun x => by
      rw [State.gantry, hgan, ← hu]; exact State.setGantry_gantry ..
    refine ⟨t, hex, by rw [hcore, if_pos rfl]; rfl, by rw [hcore, if_pos rfl]; rfl, by rw [hcore, if_pos rfl]; rfl, ?_,
      by rw [hcor, hheal], fun d hd => (hcore d).trans (if_neg hd), fun d hd => (hg d).trans (if_neg hd),
      fun d hd => (h.heal d hd).trans (hheal d), ?_⟩
    · rw [hg, if_pos rfl]; by_cases hn : p.north = true <;> simp [Gantry.returned, hn]
    · conv_lhs => rw [h.rest]
      rw [hcores, hgan, ← hu]
      rfl
  case pad =>
    intro s c i hc hcur hfq hosp hsh hfr hdead a n
    generalize hu : s.setCore c ((nextArr (s.core c)).loaded (nextArr (s.core c)).queue (bankOfPad s c (nextArr (s.core c)) i)
      (loadEnd (nextArr (s.core c)).arr (max s.now i.issued) (bankOfPad s c (nextArr (s.core c)) i).loadCycles)) = u
    have hex := execStationaryLoad_pad hc hcur hosp hsh hfr hdead hfq u hu.symm
    have h := Noted.noteRows c u (tileRow (nextArr (s.core c)) i) (tileRows (arrB i.regs))
    generalize u.noteRows c _ _ = t at hex h
    refine ⟨t.bump, bankOfPad s c (nextArr (s.core c)) i, hex, ?_, rfl, rfl, rfl, rfl, rfl, ?_, ?_, ?_, fun d hd => ?_⟩
    · rw [State.bump_core, h.arr, ← hu, State.setCore_core, if_pos rfl]; rfl
    · rw [State.bump_pad, h.pad, ← hu, State.setCore_pad]
    · rw [State.bump_marks, h.marks, ← hu, State.setCore_marks]
    · rw [State.bump_gantries, h.gantries, ← hu, State.setCore_gantries]
    · show t.bump.core d = s.core d
      rw [State.bump_core, (h.others d hd).1, ← hu, State.setCore_core, if_neg hd]

end Sys2Proof.Machine
end

section
/-! SUPPORT. The passes of an array and its drains: accumulators after a pass, and the scratchpad after an output (R61-R70). -/

namespace Sys2Proof.Machine

/-! ### What storing rows and outputs leaves alone -/

/-- What the storing of bytes in a core's scratchpad may change: bytes and marks, the core's health, and the log. -/
structure Stored (c : Nat) (s t : State) : Prop where
  rest : t = { s with health := t.health, pad := t.pad, marks := t.marks, log := t.log, hosts := t.hosts, sivar := t.sivar }
  heal : ∀ d, d ≠ c → t.heal d = s.heal d

namespace Stored

variable {c : Nat} {s t u : State}

theorem refl (c : Nat) (s : State) : Stored c s s := ⟨rfl, fun _ _ => rfl⟩

theorem trans (h : Stored c s t) (g : Stored c t u) : Stored c s u :=
  ⟨by conv_lhs => rw [g.rest, h.rest], fun d hd => (g.heal d hd).trans (h.heal d hd)⟩

theorem of_counted (h : Counted c s t) : Stored c s t := by
  have hp : t.pad = s.pad := by rw [h.rest]
  have hm : t.marks = s.marks := by rw [h.rest]
  refine ⟨?_, h.heal⟩
  rw [hp, hm]; exact h.rest

theorem bytes (c : Nat) (s : State) (m : List Host.Cell) (k : Tbl (Option Mark)) : Stored c s { s with pad := m, marks := k } :=
  ⟨rfl, fun _ _ => rfl⟩

theorem rowWritten (c : Nat) (s : State) (row : Nat) : Stored c s (s.rowWritten c row) := by
  unfold State.rowWritten
  dsimp only
  split
  · exact of_counted (Counted.setHeal c s _)
  · exact refl c s

theorem foldl {α : Type} {f : State → α → State} (h : ∀ s a, Stored c s (f s a)) (l : List α) (s : State) :
    Stored c s (l.foldl f s) := by
  induction l generalizing s with
  | nil => exact refl c s
  | cons a l ih => exact (h s a).trans (ih _)

theorem writeRow (c : Nat) (s : State) (row : Nat) (d : Row) : Stored c s (s.writeRow c row d) :=
  (bytes c s _ _).trans (rowWritten c _ row)

theorem mergeRow (c : Nat) (s : State) (row : Nat) : Stored c s (s.mergeRow c row) :=
  (of_counted (Counted.addCorrected c s _)).trans (writeRow c _ row _)

theorem writeOut (c : Nat) (s : State) (a : Nat) (bs : List Byte) (bad : List Bool) (first last : Bool) :
    Stored c s (s.writeOut c a bs bad first last) := by
  unfold State.writeOut
  dsimp only
  split
  · exact refl c s
  · exact ((foldl (fun s row => mergeRow c s row) _ s).trans (bytes c _ _ _)).trans (foldl (fun s i => rowWritten c s _) _ _)

theorem cores (h : Stored c s t) : t.cores = s.cores := by rw [h.rest]
theorem freeCtr (h : Stored c s t) : t.freeCtr = s.freeCtr := by rw [h.rest]
theorem now (h : Stored c s t) : t.now = s.now := by rw [h.rest]

end Stored

/-- Bytes that are stored without a merge change bytes, marks and the core's health, and nothing of the log. -/
theorem State.writeOut_whole_frame (s : State) (c a : Nat) (bs : List Byte) (bad : List Bool) (first last : Bool)
    (h : partRows a bs.length first last = []) :
    s.writeOut c a bs bad first last = { s with
      health := (s.writeOut c a bs bad first last).health, pad := (s.writeOut c a bs bad first last).pad
      marks := (s.writeOut c a bs bad first last).marks } := by
  have hrows : ∀ (l : List Nat) (row : Nat) (u : State),
      ∃ hl, l.foldl (fun t i => t.rowWritten c (row + i)) u = { u with health := hl } := by
    intro l row
    induction l with
    | nil => exact fun u => ⟨u.health, rfl⟩
    | cons i l ih =>
      intro u
      obtain ⟨hl, e⟩ := ih (u.rowWritten c (row + i))
      refine ⟨hl, e.trans ?_⟩
      unfold State.rowWritten
      dsimp only
      split <;> rfl
  unfold State.writeOut
  dsimp only
  split
  · rfl
  · rw [h]
    obtain ⟨hl, e⟩ := hrows (List.range ((a % 2097152 + bs.length - 1) / 512 + 1 - a % 2097152 / 512)) (a % 2097152 / 512) { s with
      pad := writeBytes s.pad a bs
      marks := (List.range (wordOf (a + bs.length - 1) + 1 - wordOf a)).foldl (fun m i =>
        putMark m (wordOf a + i)
          ((((bad.drop (max a (8 * (wordOf a + i)) - a)).take (min (a + bs.length) (8 * (wordOf a + i) + 8)
            - max a (8 * (wordOf a + i)))).any id)
          || (!(decide (min (a + bs.length) (8 * (wordOf a + i) + 8) - max a (8 * (wordOf a + i)) = 8)
            || (last && decide (wordOf a + i = wordOf (a + bs.length - 1) ∧ max a (8 * (wordOf a + i)) = 8 * (wordOf a + i))))
            && wordBad s (wordOf a + i)))) s.marks }
    simp only [List.foldl_nil]
    rw [e]

/-! ### The bytes after a merge and after an output -/

/-- A row's bytes after it is written. -/
theorem State.writeRow_byte (s : State) (c row x : Nat) (d : Row) (hd : d.bytes.length = 512) :
    readByte (s.writeRow c row d).pad x
      = if padAt c row ≤ x ∧ x < padAt c row + 512 then d.bytes[x - padAt c row]? else readByte s.pad x := by
  simp only [State.writeRow, State.rowWritten_pad, fitBytes_of_length d.bytes 512 hd, readByte_writeBytes, hd]

/-- A row's marks after it is written; every other word's stands. -/
theorem State.writeRow_mark (s : State) (c row w : Nat) (d : Row) :
    tget none (s.writeRow c row d).marks w
      = if wordOf (padAt c row) ≤ w ∧ w < wordOf (padAt c row) + 64
        then storedMark (decide (w - wordOf (padAt c row) ∈ d.poison)) else tget none s.marks w := by
  simp only [State.writeRow, State.rowWritten_marks]
  exact tget_foldl_putMark (fun w => decide (w ∈ d.poison)) s.marks _ 64 w

/-- A byte whose word is stored reads as it is stored. -/
theorem padByte_of_stored {t : State} {x : Nat} {bad : Bool} {v : Byte} (hm : tget none t.marks (wordOf x) = storedMark bad)
    (hb : readByte t.pad x = some v) : padByte t x = v := by
  unfold padByte
  rw [hm, hb]
  cases bad <;> rfl

/-- Every byte of a row that is merged is stored as it was read, and reads as it did before; no other byte changes (R67). -/
theorem State.mergeRow_byte (s : State) (c row x : Nat) :
    readByte (s.mergeRow c row).pad x
        = (if padAt c row ≤ x ∧ x < padAt c row + 512 then some (padByte s x) else readByte s.pad x)
      ∧ padByte (s.mergeRow c row) x = padByte s x := by
  have hcount := Counted.addCorrected c s (correctedIn s c row)
  have hfree : (s.mergeRow c row).freeCtr = s.freeCtr := (Stored.mergeRow c s row).freeCtr
  have hmarks : (s.addCorrected c (correctedIn s c row)).marks = s.marks := by rw [hcount.rest]
  have hpad : (s.addCorrected c (correctedIn s c row)).pad = s.pad := by rw [hcount.rest]
  have hbyte : readByte (s.mergeRow c row).pad x
      = (if padAt c row ≤ x ∧ x < padAt c row + 512 then some (padByte s x) else readByte s.pad x) := by
    rw [State.mergeRow, State.writeRow_byte _ _ _ _ _ (by simp [readRow]), hpad]
    split
    next h =>
      rw [readRow, List.getElem?_map, List.getElem?_range (by omega)]
      exact congrArg (fun y => some (padByte s y)) (by omega)
    next => rfl
  refine ⟨hbyte, ?_⟩
  have hmark := (s.addCorrected c (correctedIn s c row)).writeRow_mark c row (wordOf x) (readRow s c row)
  have hw := wordOf_padAt c row
  by_cases hin : padAt c row ≤ x ∧ x < padAt c row + 512
  · rw [if_pos hin] at hbyte
    rw [if_pos (by unfold wordOf at hw ⊢; omega)] at hmark
    exact padByte_of_stored hmark hbyte
  · rw [if_neg hin] at hbyte
    rw [if_neg (by unfold wordOf at hw ⊢; omega), hmarks] at hmark
    unfold padByte
    rw [hfree, hbyte]
    rw [State.mergeRow, hmark]

/-- The bytes after several rows are merged. -/
theorem State.foldl_mergeRow_byte (s : State) (c x : Nat) (l : List Nat) :
    readByte (l.foldl (fun (t : State) row => t.mergeRow c row) s).pad x
      = if ∃ r ∈ l, padAt c r ≤ x ∧ x < padAt c r + 512 then some (padByte s x) else readByte s.pad x := by
  induction l generalizing s with
  | nil => simp
  | cons r l ih =>
    obtain ⟨hb, hp⟩ := s.mergeRow_byte c r x
    rw [List.foldl_cons, ih, hp, hb]
    by_cases hl : ∃ r ∈ l, padAt c r ≤ x ∧ x < padAt c r + 512
    · rw [if_pos hl, if_pos (by obtain ⟨r', hr', hx⟩ := hl; exact ⟨r', List.mem_cons_of_mem _ hr', hx⟩)]
    · rw [if_neg hl]
      by_cases hr : padAt c r ≤ x ∧ x < padAt c r + 512
      · rw [if_pos hr, if_pos ⟨r, List.mem_cons_self, hr⟩]
      · rw [if_neg hr, if_neg]
        rintro ⟨r', hr', hx⟩
        rcases List.mem_cons.1 hr' with rfl | hm
        · exact hr hx
        · exact hl ⟨r', hm, hx⟩

/-- The bytes after an output is written (R67). -/
theorem State.writeOut_merged (s t : State) (c a : Nat) (bs : List Byte) (bad : List Bool) (first last : Bool)
    (ht : t.pad = (s.writeOut c a bs bad first last).pad) : WroteMerged s t c a bs first last := by
  intro x
  rw [ht]
  unfold State.writeOut
  dsimp only
  split
  next h0 =>
    have : bs = [] := List.length_eq_zero_iff.1 h0
    subst this
    simp
  next h0 =>
    have hne : bs ≠ [] := fun h => h0 (by rw [h]; rfl)
    rw [State.foldl_rowWritten_pad, readByte_writeBytes, State.foldl_mergeRow_byte]
    simp only [hne, ne_eq, not_false_eq_true, true_and]

/-- The bytes after an output that covers its rows whole. -/
theorem State.writeOut_wrote (s : State) (c a : Nat) (bs : List Byte) (bad : List Bool) (first last : Bool)
    (h : partRows a bs.length first last = []) : WroteBytes s.pad (s.writeOut c a bs bad first last).pad a bs := by
  intro x
  have := s.writeOut_merged _ c a bs bad first last rfl x
  rw [h] at this
  simpa using this

/-! ### The accumulators after a pass -/

theorem accKey_inj {bank t n t' n' : Nat} (hn : n < 32) (hn' : n' < 32) (h : accKey bank t n = accKey bank t' n') :
    t = t' ∧ n = n' := by
  unfold accKey at h
  omega

/-- One token's row of accumulators after it is stored. -/
theorem tget_accRow (bank t : Nat) (v : Nat → F32) (k : Nat) (m : Tbl F32) (hk : k ≤ 32) (t' n : Nat) (hn : n < 32) :
    tget fZero ((List.range k).foldl (fun m n => tput fZero m (accKey bank t n) (v n)) m) (accKey bank t' n)
      = if t' = t ∧ n < k then v n else tget fZero m (accKey bank t' n) := by
  induction k with
  | zero => simp
  | succ k ih =>
    rw [List.range_succ, List.foldl_append, List.foldl_cons, List.foldl_nil, tget_tput, ih (by omega)]
    by_cases hkey : accKey bank t' n = accKey bank t k
    · obtain ⟨rfl, rfl⟩ := accKey_inj hn (by omega) hkey
      simp
    · have hne : ¬ (t' = t ∧ n = k) := fun h => hkey (by rw [h.1, h.2])
      rw [if_neg hkey]
      exact if_congr (by omega) rfl rfl

/-- All tokens' accumulators after a pass: each its own new value. -/
theorem tget_accRows (bank : Nat) (v : Nat → Nat → F32) (T : Nat) (m : Tbl F32) (t n : Nat) (ht : t < T) (hn : n < 32) :
    tget fZero ((List.range T).foldl (fun m t => (List.range 32).foldl (fun m n => tput fZero m (accKey bank t n) (v t n)) m) m)
      (accKey bank t n) = v t n := by
  induction T with
  | zero => omega
  | succ T ih =>
    rw [show List.range (T + 1) = List.range T ++ [T] from List.range_succ, List.foldl_append, List.foldl_cons, List.foldl_nil,
      tget_accRow bank T (v T) 32 _ le_rfl t n hn]
    by_cases h : t = T
    · rw [if_pos ⟨h, hn⟩, h]
    · rw [if_neg (fun hh => h hh.1), ih (by omega)]

/-! ### Passes -/

section
variable (a : ArrayState) (i : ArrInstr)
theorem stepPass_live : (stepPass a i).live = a.live := by unfold stepPass; split <;> [rfl; split <;> rfl]
theorem stepPass_shadow : (stepPass a i).shadow = a.shadow := by unfold stepPass; split <;> [rfl; split <;> rfl]
theorem stepPass_bankBit : (stepPass a i).bankBit = a.bankBit := by unfold stepPass; split <;> [rfl; split <;> rfl]
theorem stepPass_acc : (stepPass a i).acc = a.acc := by unfold stepPass; split <;> [rfl; split <;> rfl]
theorem stepPass_drains : (stepPass a i).drains = a.drains := by unfold stepPass; split <;> [rfl; split <;> rfl]
end

/-- A freeze of drains changes their shifts alone. -/
theorem freezeDrains_noShifts (js : List DrainJob) (f : Nat × Nat) :
    (freezeDrains js f).map (fun d => { d with shifts := [] }) = js.map (fun d => { d with shifts := [] }) := by
  unfold freezeDrains
  split <;> simp

/-- The value that a pass accumulates onto: +0.0 in the first pass of a chain that continues none. -/
def accBefore (a : ArrayState) (i : ArrInstr) (t n : Nat) : F32 :=
  if decide (a.pass = 0) && !i.continues a then fZero else tget fZero a.acc (accKey (nextBank a i) t n)

/-- The byte address of the slice of stream A that a pass reads. -/
def sliceBase (c : Nat) (a : ArrayState) (i : ArrInstr) : Nat :=
  padAt c i.srcA.first + (8 * arrStrmOff i.regs + a.pass * sliceBytes (arrA i.regs) (arrT i.regs))

/-- What a pass of an array leaves: the time, its core's array, and what the reads of its operands may change. -/
structure Passed (s t : State) (c : Nat) (k : Core) (a : ArrayState) : Prop where
  arr : (t.core c).arr = a
  pad : t.pad = s.pad
  marks : t.marks = s.marks
  others : SameBut {} s.cores t.cores c

theorem Passed.of_noted {s t : State} {c start : Nat} {k : Core} {a : ArrayState} (n : Nat)
    (h : Noted c (((s.advance start).setCore c { k with arr := a }).addFreezes c n) t) : Passed s t.bump c k a := by
  have hf : ∀ u : State, (u.addFreezes c n).pad = u.pad ∧ (u.addFreezes c n).marks = u.marks
      ∧ ∀ d, (u.addFreezes c n).core d = u.core d := fun u => ⟨by simp [State.addFreezes], by simp [State.addFreezes],
    fun d => by simp [State.addFreezes]⟩
  obtain ⟨hp, hm, hk⟩ := hf ((s.advance start).setCore c { k with arr := a })
  refine ⟨?_, ?_, ?_, fun d hd => ?_⟩
  · rw [State.bump_core, h.arr, hk, State.setCore_core, if_pos rfl]
  · rw [State.bump_pad, h.pad, hp, State.setCore_pad, State.advance_pad]
  · rw [State.bump_marks, h.marks, hm, State.setCore_marks, State.advance_marks]
  · show t.bump.core d = s.core d
    rw [State.bump_core, (h.others d hd).1, hk, State.setCore_core, if_neg hd, State.advance_core]

/-- A weight-stationary pass that nothing holds up. -/
theorem swapWs_passes (s : State) (c : Nat) (k : Core) (i : ArrInstr) (b : TileBank)
    (hfree : k.arr.drains.any (awaited k.arr i) = false) :
    ∃ a, Passed s (swapWs s c k i b) c k a ∧ a.live = some b ∧ a.shadow = none ∧ a.bankBit = !k.arr.bankBit
      ∧ ∀ t n, t < arrT i.regs → n < 32 → tget fZero a.acc (accKey (nextBank k.arr i) t n)
        = fadd (accBefore k.arr i t n) (passSum b (fun r => sliceElem s (sliceBase c k.arr i) (arrA i.regs) (arrT i.regs) 0 t r) n) := by
  unfold swapWs
  extract_lets a T begins opening continues bank due start S off base fresh acc broken badT keep poison clash lastVec ends moved drains a1
  rw [if_neg (by rw [hfree]; simp)]
  have hpass : ∀ t, Noted c (((s.advance start).setCore c { k with arr := stepPass a1 i }).addFreezes c (start - due + clash.2)) t →
      Passed s t.bump c k (stepPass a1 i) := fun t h => Passed.of_noted _ h
  refine ⟨stepPass a1 i, ?_, stepPass_live a1 i, stepPass_shadow a1 i, stepPass_bankBit a1 i, fun t n ht hn => ?_⟩
  · clear_value a1 start due clash
    generalize touched i.srcA.first off S = ro
    obtain ⟨r0, rn⟩ := ro
    dsimp only
    have h1 := Noted.noteRows c (((s.advance start).setCore c { k with arr := stepPass a1 i }).addFreezes c (start - due + clash.2)) r0 rn
    generalize State.noteRows _ c r0 rn = s1 at h1
    apply hpass
    have h2 : Noted c s1 (if b.skip = true then
        match s.partOfCore c with
        | some p => s1.setCtl p { s1.ctlOf p with
            counts := { (s1.ctlOf p).counts with skippedTiles := (s1.ctlOf p).counts.skippedTiles + 1 } }
        | none => s1 else s1) := by
      split
      · split
        · exact Noted.setCtl c s1 _ _
        · exact Noted.refl c s1
      · exact Noted.refl c s1
    have h3 : ∀ u : State, Noted c u (if (b.poison && i.fromQueue || broken) = true then u.raise c .poison else u) := fun u => by
      split
      · exact Noted.raise c u _
      · exact Noted.refl c u
    exact (h1.trans h2).trans (h3 _)
  · rw [stepPass_acc]
    exact tget_accRows bank _ T a.acc t n ht hn

/-- An output-stationary pass that nothing holds up: its tile waits behind the drains before it. -/
theorem swapOsp_passes (s : State) (c : Nat) (k : Core) (i : ArrInstr)
    (hfree : k.arr.drains.any (awaited k.arr i) = false) :
    ∃ a js j, Passed s (swapOsp s c k i) c k a ∧ a.drains = js ++ [j]
      ∧ js.map (fun d => { d with shifts := [] }) = k.arr.drains.map (fun d => { d with shifts := [] })
      ∧ j.ins = i ∧ j.chain = k.arr.chain ∧ j.pass = k.arr.pass ∧ j.bank = nextBank k.arr i := by
  unfold swapOsp
  extract_lets a T bank due start sa sb offA offB baseA baseB seedRow seed acc bad clash lastVec keep a1
  rw [if_neg (by rw [hfree]; simp)]
  have hdrains : (stepPass a1 i).drains = freezeDrains (freezeDrains a.drains (due, start - due)) clash
      ++ [{ ins := i, chain := a.chain, pass := a.pass, bank := bank, lastVec := lastVec, shifts := [] }] := stepPass_drains a1 i
  refine ⟨stepPass a1 i, _, _, ?_, hdrains, by rw [freezeDrains_noShifts, freezeDrains_noShifts], rfl, rfl, rfl, rfl⟩
  clear_value a1 start due clash
  generalize touched i.srcA.first offA sa = ra
  generalize touched i.srcB.first offB sb = rb
  obtain ⟨ra, na⟩ := ra
  obtain ⟨rb, nb⟩ := rb
  dsimp only
  apply Passed.of_noted
  have h3 : ∀ u : State, Noted c u (if i.seedz = true then u else u.noteRows c seedRow 8) := fun u => by
    split
    · exact Noted.refl c u
    · exact Noted.noteRows c u _ _
  exact ((Noted.noteRows c _ ra na).trans (Noted.noteRows c _ rb nb)).trans (h3 _)

/-- A pass waits for no drain where none of the drains holds the bank that it takes. -/
theorem not_awaited {a : ArrayState} {i : ArrInstr}
    (h : i.osp = true ∨ a.pass = 0 → ∀ j ∈ a.drains, j.ins.osp ≠ i.osp ∨ j.bank ≠ nextBank a i) :
    a.drains.any (awaited a i) = false := by
  rw [List.any_eq_false]
  intro j hj haw
  simp only [awaited, Bool.and_eq_true, Bool.or_eq_true, decide_eq_true_eq, beq_iff_eq] at haw
  obtain ⟨⟨hp, ho⟩, hb⟩ := haw
  rcases h hp j hj with h | h
  · exact h ho
  · exact h hb

/-- PASS_SWAP on a core whose instruction is at work and whose array is not frozen. -/
theorem execPassSwap_osp {s : State} {c : Nat} {i : ArrInstr} (hc : coreExists s c = true)
    (hcur : (nextArr (s.core c)).arr.cur = some i) (hosp : i.osp = true) (hfr : arrayFrozen s c = false) :
    exec (.passSwap c) s = .next (swapOsp s c (nextArr (s.core c)) i) := by
  refine (onCore_exists _ hc).trans (congrArg Host.Outcome.next ?_)
  simp only [hcur, hfr, hosp]
  rfl

theorem execPassSwap_ws {s : State} {c : Nat} {i : ArrInstr} {b : TileBank} (hc : coreExists s c = true)
    (hcur : (nextArr (s.core c)).arr.cur = some i) (hosp : i.osp = false) (hfr : arrayFrozen s c = false)
    (hsh : (nextArr (s.core c)).arr.shadow = some b) :
    exec (.passSwap c) s = .next (swapWs s c (nextArr (s.core c)) i b) := by
  refine (onCore_exists _ hc).trans (congrArg Host.Outcome.next ?_)
  simp only [hcur, hfr, hosp, hsh]
  rfl

/-! ### Drains -/

/-- A core whose oldest drain is done: the drains that are left, and the cycle. -/
def Core.drainedTo (k : Core) (js : List DrainJob) (cycle : Nat) : Core :=
  { k with arr := { k.arr with drains := js, drainedAt := cycle } }

/-- The outputs of a drain are those of the accumulators: time alone does not change them. -/
theorem chainBytes_advance (s : State) (n c : Nat) (j : DrainJob) : chainBytes (s.advance n) c j = chainBytes s c j := by
  rfl

theorem ospBytes_advance (s : State) (n c : Nat) (j : DrainJob) : ospBytes (s.advance n) c j = ospBytes s c j := by
  rfl

/-- CHAIN_DRAIN of a drain that is due. -/
theorem execChainDrain_due {s : State} {c : Nat} {j0 j : DrainJob} {js : List DrainJob} (hc : coreExists s c = true)
    (hd : (s.core c).arr.drains = j0 :: js) (hfr : arrayFrozen s c = false) (hj : heldDrain (s.core c) j0 = some j) :
    exec (.chainDrain c) s = .next ((drainJob (s.advance (drainEnd j)) c j).setCore c
      (((drainJob (s.advance (drainEnd j)) c j).core c).drainedTo js (drainEnd j))) := by
  refine (onCore_exists _ hc).trans (congrArg Host.Outcome.next ?_)
  simp only [hd, hfr, hj]
  rfl

/-- CHAIN_DRAIN of a drain that a freeze holds does nothing. -/
theorem execChainDrain_held {s : State} {c : Nat} {j0 : DrainJob} {js : List DrainJob} (hc : coreExists s c = true)
    (hd : (s.core c).arr.drains = j0 :: js) (h : arrayFrozen s c = true ∨ heldDrain (s.core c) j0 = none) :
    exec (.chainDrain c) s = .next s := by
  refine (onCore_exists _ hc).trans (congrArg Host.Outcome.next ?_)
  rcases h with h | h
  · simp only [hd, h]; rfl
  · simp only [hd, h, ite_self]

/-- A drain that waits for its pass is the same drain, later at most. -/
theorem heldDrain_sameJob {k : Core} {j0 j : DrainJob} (h : heldDrain k j0 = some j) :
    { j with shifts := [] } = { j0 with shifts := [] } := by
  unfold heldDrain at h
  split at h
  · cases h; rfl
  · split at h
    · cases h; rfl
    · split at h
      · cases h
      · rename_i i due _ _ _
        have hmap := freezeDrains_noShifts [j0] (due, k.arr.loadDone - due)
        cases hf : freezeDrains [j0] (due, k.arr.loadDone - due) with
        | nil => rw [hf] at h; cases h
        | cons y ys =>
          rw [hf] at h hmap
          cases h
          simpa using congrArg List.head? hmap

/-- With no instruction at work or queued, no pass waits for a drain. -/
theorem heldDrain_of_idle {k : Core} (j : DrainJob) (hc : k.arr.cur = none) (hq : k.iss.arrQ = []) : heldDrain k j = some j := by
  have hn : nextArr k = k := by
    unfold nextArr
    rw [hc, hq]
    cases k.snap <;> rfl
  have hw : passWaits k = none := by unfold passWaits; rw [hn]; dsimp only; rw [hc]; rfl
  unfold heldDrain
  rw [hw]

theorem leBytes_length (n v : Nat) : (leBytes n v).length = n := by
  induction n generalizing v with
  | zero => rfl
  | succ n ih => simp [leBytes, ih]

theorem ospBytes_length (s : State) (c : Nat) (j : DrainJob) : (ospBytes s c j).1.length = 4096 := by
  have h : ∀ (l : List (F32 × Bool)), (f32sOut l).1.length = 4 * l.length := by
    intro l
    induction l with
    | nil => rfl
    | cons v l ih =>
      have : (f32sOut (v :: l)).1 = leBytes 4 v.1.toNat ++ (f32sOut l).1 := rfl
      rw [this, List.length_append, ih, leBytes_length, List.length_cons]
      omega
  unfold ospBytes
  rw [h, List.length_map, List.length_range]

/-- An output that begins and ends on row boundaries covers its rows whole. -/
theorem partRows_aligned {a n : Nat} (ha : a % 512 = 0) (hn : (a + n) % 512 = 0) : partRows a n false false = [] := by
  unfold partRows
  simp only [ha, hn]
  split <;> rfl

/-- An OSP tile covers eight rows whole. -/
theorem partRows_osp (s : State) (c : Nat) (j : DrainJob) :
    partRows (ospAddr c j) (ospBytes s c j).1.length false false = [] := by
  have h : ospAddr c j % 512 = 0 := by unfold ospAddr padAt; omega
  exact partRows_aligned h (by rw [ospBytes_length]; omega)

/-- Settles O7: passes accumulate, or hand their tile to the drains; drains write their outputs. -/
theorem passesAccumulateAndDrain : Obligations.PassesAccumulateAndDrain := by
  refine ⟨?ws, ?osp, fun s c j0 j js hc hd hfr hj ho => ?chain, fun s c j0 js hc hd => ?held,
    fun s c j0 j js hc hd hfr hj ho => ?tile⟩
  case ws =>
    intro s c i b hc hcur hosp hfr hsh a T cont fresh bank base hfree
    have hcont : a.pass = 0 → (i.continues a = true ↔ cont) := fun h0 => by
      simp only [ArrInstr.continues, Bool.and_eq_true, decide_eq_true_eq, cont, h0, T]
      tauto
    have hfresh : (decide (a.pass = 0) && !i.continues a) = true ↔ fresh := by
      simp only [Bool.and_eq_true, decide_eq_true_eq, Bool.not_eq_true', ← Bool.not_eq_true, fresh]
      constructor
      · exact fun ⟨h0, h1⟩ => ⟨h0, fun hh => h1 ((hcont h0).2 hh)⟩
      · exact fun ⟨h0, h1⟩ => ⟨h0, fun hh => h1 ((hcont h0).1 hh)⟩
    have hbank : nextBank a i = bank := by
      unfold nextBank
      rw [if_neg (by simp [hosp])]
      exact if_congr hfresh rfl rfl
    have hnone : a.drains.any (awaited a i) = false := not_awaited fun hp j hj => by
      rcases hp with hp | hp
      · rw [hosp] at hp; cases hp
      · rw [hbank, hosp]
        simpa using hfree hp j hj
    obtain ⟨a', ⟨harr, hp, hm, ho⟩, hlive, hshadow, hbit, hacc⟩ := swapWs_passes s c (nextArr (s.core c)) i b hnone
    refine ⟨_, execPassSwap_ws hc hcur hosp hfr hsh, by rw [harr, hlive], by rw [harr, hshadow], by rw [harr, hbit],
      fun tok n ht hn => ?_, hp, hm, ho⟩
    rw [harr, ← hbank, hacc tok n ht hn, accBefore]
    exact congrArg (fadd · _) (if_congr hfresh rfl rfl)
  case osp =>
    intro s c i hc hcur hosp hfr a hfree
    have hbank : nextBank a i = 1 - a.ospBank := by unfold nextBank; rw [if_pos hosp]
    have hnone : a.drains.any (awaited a i) = false := not_awaited fun _ j hj => by
      rw [hbank, hosp]
      simpa using hfree j hj
    obtain ⟨a', js, j, ⟨harr, hp, hm, ho⟩, hdr, hjs, hi, hch, hps, hbk⟩ := swapOsp_passes s c (nextArr (s.core c)) i hnone
    exact ⟨_, js, j, execPassSwap_osp hc hcur hosp hfr, by rw [harr, hdr], hjs, hi, hch, hps, hbk.trans hbank, hp, hm, ho⟩
  case chain =>
    have hex := execChainDrain_due hc hd hfr hj
    have hjob : drainJob (s.advance (drainEnd j)) c j = ((s.advance (drainEnd j)).writeOut c (chainAddr c j)
        (chainBytes s c j).1 (chainBytes s c j).2 (decide (j.chain ≠ 0)) (decide (j.chain + 1 < j.ins.drained))).bump := by
      unfold drainJob
      rw [if_neg (by simp [ho]), drainWs, chainBytes_advance]
    rw [hjob] at hex
    have hst := Stored.writeOut c (s.advance (drainEnd j)) (chainAddr c j) (chainBytes s c j).1 (chainBytes s c j).2
      (decide (j.chain ≠ 0)) (decide (j.chain + 1 < j.ins.drained))
    have hw := fun t => (s.advance (drainEnd j)).writeOut_merged t c (chainAddr c j) (chainBytes s c j).1 (chainBytes s c j).2
      (decide (j.chain ≠ 0)) (decide (j.chain + 1 < j.ins.drained))
    generalize (s.advance (drainEnd j)).writeOut c _ _ _ _ _ = u at hex hst hw
    have hcore : ∀ d, u.core d = s.core d := fun d => by rw [State.core, hst.cores]; rfl
    obtain ⟨k, hk, hdrains⟩ : ∃ k, (u.bump.core c).drainedTo js (drainEnd j) = k ∧ k.arr.drains = js := ⟨_, rfl, rfl⟩
    rw [hk] at hex
    refine ⟨_, hex, ?_, hw _ ?_, ?_, fun d hd => ?_, fun d hd => ?_, ?_⟩
    · rw [State.setCore_core, if_pos rfl, hdrains]
    · rw [State.setCore_pad, State.bump_pad]
    · rw [State.setCore_now, State.bump_now, hst.now]; rfl
    · show State.core _ d = s.core d
      rw [State.setCore_core, if_neg hd, State.bump_core, hcore]
    · exact hst.heal d hd
    · exact congrArg (fun w : State => { w with now := u.now, rtc := u.rtc, freeCtr := u.freeCtr + 1, cores := tput {} u.cores c k }) hst.rest
  case held =>
    exact ⟨heldDrain_of_idle j0, fun j hj => heldDrain_sameJob hj, execChainDrain_held hc hd⟩
  case tile =>
    have hex := execChainDrain_due hc hd hfr hj
    obtain ⟨n, hn⟩ : ∃ n, drainEnd j = n := ⟨_, rfl⟩
    rw [hn] at hex ⊢
    have hjob : drainJob (s.advance n) c j = (s.advance n).writeOut c (ospAddr c j)
        (ospBytes s c j).1 (ospBytes s c j).2 false false := by
      unfold drainJob
      rw [if_pos ho, drainOsp, ospBytes_advance]
    rw [hjob] at hex
    have hrows : partRows (ospAddr c j) (ospBytes s c j).1.length false false = [] := partRows_osp s c j
    have hst := Stored.writeOut c (s.advance n) (ospAddr c j) (ospBytes s c j).1 (ospBytes s c j).2 false false
    have hfr := (s.advance n).writeOut_whole_frame c (ospAddr c j) (ospBytes s c j).1 (ospBytes s c j).2 false false hrows
    have hw := (s.advance n).writeOut_wrote c (ospAddr c j) (ospBytes s c j).1 (ospBytes s c j).2 false false hrows
    obtain ⟨u, hu⟩ : ∃ u, (s.advance n).writeOut c (ospAddr c j) (ospBytes s c j).1 (ospBytes s c j).2 false false = u := ⟨_, rfl⟩
    rw [hu] at hex hst hw hfr
    have hcore : ∀ d, u.core d = s.core d := fun d => by rw [State.core, hst.cores]; rfl
    obtain ⟨k, hk, hdrains⟩ : ∃ k, (u.core c).drainedTo js n = k ∧ k.arr.drains = js := ⟨_, rfl, rfl⟩
    rw [hk] at hex
    refine ⟨_, hex, ?_, ?_, ?_, fun d hd => ?_, fun d hd => ?_, ?_⟩
    · rw [State.setCore_core, if_pos rfl, hdrains]
    · rw [State.setCore_pad]; rw [State.advance_pad] at hw; exact hw
    · rw [State.setCore_now, hst.now]; rfl
    · show State.core _ d = s.core d
      rw [State.setCore_core, if_neg hd, hcore]
    · exact hst.heal d hd
    · exact congrArg (fun w : State => { w with now := u.now, rtc := u.rtc, cores := tput {} u.cores c k }) hfr

end Sys2Proof.Machine
end

section
/-! SUPPORT. Spare substitution, the scrubber's reads and rewrites, barriers and heartbeats (R35-R41, R128, R130, R330, R366). -/

namespace Sys2Proof.Machine

/-! ### A column shift -/

/-- What the hardware's part of a column shift may change: content of scratchpads, and who is dead or offered. -/
structure Moved (s t : State) : Prop where
  rest : t = { s with health := t.health, pad := t.pad, marks := t.marks }
  heal : ∀ d, t.heal d = { s.heal d with dead := (t.heal d).dead, offered := (t.heal d).offered }

namespace Moved

variable {s t u : State}

theorem refl (s : State) : Moved s s := ⟨rfl, fun _ => rfl⟩

theorem trans (h : Moved s t) (g : Moved t u) : Moved s u :=
  ⟨by conv_lhs => rw [g.rest, h.rest], fun d => by conv_lhs => rw [g.heal, h.heal]⟩

theorem foldl {α : Type} {f : State → α → State} (h : ∀ s a, Moved s (f s a)) (l : List α) (s : State) : Moved s (l.foldl f s) := by
  induction l generalizing s with
  | nil => exact refl s
  | cons a l ih => exact (h s a).trans (ih _)

theorem setHeal (s : State) (c : Nat) (x y : Bool) : Moved s (s.setHeal c { s.heal c with dead := x, offered := y }) := by
  refine ⟨rfl, fun d => ?_⟩
  rw [State.setHeal_heal]
  split
  next h => rw [h]
  next => rfl

theorem forgetPad (s : State) (c : Nat) (m : Bool) : Moved s (s.forgetPad c m) := ⟨rfl, fun _ => rfl⟩

theorem shiftSites (s : State) (site : Nat) : Moved s (s.shiftSites site) := by
  have hm : ∀ (u : State) t col f, Moved u (u.moveHealth t col f) := fun u t col f => by
    unfold State.moveHealth
    refine foldl (fun v r => ?_) _ u
    extract_lets core n h
    split
    · exact refl v
    · exact setHeal v _ _ _
  exact (hm s _ _ _).trans (foldl (fun v _ => forgetPad v _ true) _ _)

theorem overlay (h : Moved s t) : t.overlay = s.overlay := by rw [h.rest]

end Moved

/-- A state without what a column shift may change. -/
def State.offShift (s : State) : State :=
  { s with health := [], overlay := {}, pad := [], marks := [], log := {}, hosts := [], sivar := {} }

theorem Moved.offShift {s t : State} (h : Moved s t) : t.offShift = s.offShift := by
  conv_lhs => rw [h.rest]
  rfl

/-- An event leaves all but the log. -/
theorem State.event_frame (s : State) (a b c d : Nat) :
    s.event a b c d = { s with log := (s.event a b c d).log, hosts := (s.event a b c d).hosts, sivar := (s.event a b c d).sivar } :=
  State.eventAt_frame s s.now a b c d

theorem State.event_offShift (s : State) (a b c d : Nat) : (s.event a b c d).offShift = s.offShift := by
  conv_lhs => rw [s.event_frame]
  rfl

/-- A column shift has been made: its column's spare map byte, its entry, and nothing beyond the content of the scratchpads, the health
that moves with the sites, and the log. -/
structure Shifted (site used origin flags : Nat) (s t : State) : Prop where
  rest : t.offShift = s.offShift
  heal : ∀ d, t.heal d = { s.heal d with dead := (t.heal d).dead, offered := (t.heal d).offered }
  spare : spareOf t (siteTile site) (siteCol site) = used
  entries : s.overlay.entries.length < 1024 → ∃ f, t.overlay.entries = s.overlay.entries ++ [f] ∧ f.cls = 2 ∧ f.unit = site
    ∧ f.origin = origin ∧ f.flags = flags

/-- A column with a spare is no column of a part without spares. -/
theorem spareOf_eq_zero_iff (s : State) (t col : Nat) :
    spareOf s t col = 0 ↔ ¬ (s.isD = true ∧ 22 ≤ col) ∧ tget 0 s.overlay.spare (t * 24 + col) = 0 := by
  unfold spareOf
  by_cases h : s.isD = true ∧ 22 ≤ col
  · rw [if_pos (by simpa using h)]; simp [h]
  · rw [if_neg (by simpa using h)]; simp only [h, not_false_eq_true, true_and]

theorem State.noteShift_spare (s : State) (site used : Nat) (h : ¬ (s.isD = true ∧ 22 ≤ siteCol site)) :
    spareOf (s.noteShift site used) (siteTile site) (siteCol site) = used := by
  have hD : (s.noteShift site used).isD = s.isD := rfl
  unfold spareOf
  rw [hD, if_neg (by simpa using h)]
  simp [State.noteShift, tget_tset]

/-- A column with a free spare is shifted at once. -/
theorem State.shiftColumn_shifts (s : State) (site used origin flags : Nat) (h : spareOf s (siteTile site) (siteCol site) = 0) :
    Shifted site used origin flags s (s.shiftColumn site used origin flags).1 := by
  have hD := ((spareOf_eq_zero_iff s _ _).1 h).1
  have hm := Moved.shiftSites s site
  obtain ⟨u, hu⟩ : ∃ u, s.shiftSites site = u := ⟨_, rfl⟩
  rw [hu] at hm
  obtain ⟨f, hf, hcls, hunit, horigin, hflags⟩ : ∃ f : Fence,
      { cls := 2, origin := origin, flags := flags, unit := site, utc := u.utc, quaySerial := 0 } = f
        ∧ f.cls = 2 ∧ f.unit = site ∧ f.origin = origin ∧ f.flags = flags := ⟨_, rfl, rfl, rfl, rfl, rfl⟩
  have hDof : ∀ w : State, w.ident = s.ident → ¬ (w.isD = true ∧ 22 ≤ siteCol site) := fun w hw => by
    unfold State.isD at hD ⊢; rw [hw]; exact hD
  by_cases hlen : u.overlay.entries.length < 1024
  · have e : (s.shiftColumn site used origin flags).1
        = State.noteShift { u with overlay := { u.overlay with entries := u.overlay.entries ++ [f] } } site used := by
      unfold State.shiftColumn State.addFence
      rw [if_pos h, hu]
      dsimp only
      rw [if_pos hlen, hf]
      rfl
    rw [e]
    have hDu : ¬ (u.isD = true ∧ 22 ≤ siteCol site) := hDof u (by rw [hm.rest])
    exact ⟨hm.offShift, hm.heal, State.noteShift_spare _ _ _ hDu, fun _ => ⟨f, by rw [← hm.overlay]; rfl, hcls, hunit, horigin, hflags⟩⟩
  · obtain ⟨v, hv⟩ : ∃ v : State,
        { u with overlay := { u.overlay with startFences := u.overlay.startFences ++ [f] } } = v := ⟨_, rfl⟩
    have e : (s.shiftColumn site used origin flags).1 = (v.event sevFault evOverlayFull site 2).noteShift site used := by
      unfold State.shiftColumn State.addFence
      rw [if_pos h, hu]
      dsimp only
      rw [if_neg hlen, hf, ← hv]
      rfl
    have hvr : v.offShift = s.offShift := by rw [← hv]; exact hm.offShift
    have hvh : ∀ d, v.heal d = u.heal d := fun d => by rw [← hv]; rfl
    have hvi : v.ident = s.ident := by rw [← hv]; show u.ident = _; rw [hm.rest]
    have he := v.event_offShift sevFault evOverlayFull site 2
    have heh : ∀ d, (v.event sevFault evOverlayFull site 2).heal d = u.heal d := fun d => by rw [State.event_heal, hvh]
    have hei : (v.event sevFault evOverlayFull site 2).ident = s.ident := by rw [State.event_ident, hvi]
    obtain ⟨w, hw⟩ : ∃ w, v.event sevFault evOverlayFull site 2 = w := ⟨_, rfl⟩
    rw [hw] at he heh hei e
    rw [e]
    have hn : ∀ d, (w.noteShift site used).heal d = u.heal d := heh
    exact ⟨he.trans hvr, fun d => by rw [hn]; exact hm.heal d, State.noteShift_spare _ _ _ (hDof w hei),
      fun hl => absurd (hm.overlay ▸ hl) hlen⟩

/-- A column with a free spare is shifted, at once or for the restart of the partition that holds it. -/
theorem State.shiftLater_shifts (s : State) (site used origin flags : Nat) (h : spareOf s (siteTile site) (siteCol site) = 0) :
    Shifted site used origin flags s (s.shiftLater site used origin flags).1 := by
  have hD := ((spareOf_eq_zero_iff s _ _).1 h).1
  unfold State.shiftLater
  split
  next => exact s.shiftColumn_shifts site used origin flags h
  next hno =>
    obtain ⟨-, hhold, hlen⟩ : ¬ spareOf s (siteTile site) (siteCol site) ≠ 0 ∧ ¬ holders s 2 site = []
      ∧ ¬ 1024 ≤ s.overlay.entries.length := by tauto
    unfold State.addFenceLater
    split
    next hnil => exact absurd hnil hhold
    next p ps hp =>
      dsimp only
      rw [if_pos (Nat.not_le.1 hlen)]
      exact ⟨rfl, fun _ => rfl, State.noteShift_spare _ _ _ hD, fun _ => ⟨_, rfl, rfl, rfl, rfl, rfl⟩⟩

/-- The site of a core is in its tile and column. -/
theorem coreSite_tile_col (s : State) (c : Nat) : siteTile (coreSite s c) = coreTile c ∧ siteCol (coreSite s c) = coreX c % 24 := by
  have hsite : ∀ tile col r, col < 256 → r < 256 → siteTile (siteId tile col r) = tile ∧ siteCol (siteId tile col r) = col :=
    fun tile col r hcol hr => by unfold siteTile siteCol siteId; omega
  have hy : coreY c % 24 < 24 := Nat.mod_lt _ (by decide)
  have hx : coreX c % 24 < 24 := Nat.mod_lt _ (by decide)
  unfold coreSite
  refine hsite _ _ _ (by omega) ?_
  split
  · split <;> omega
  · omega

/-- An idle core of state `s` that takes its column's spare (R40, R366). -/
def TakesSpare (s : State) (c : Nat) : Prop :=
  (s.heal c).offered = true ∧ s.cfg 0x3100 1 ≠ 2 ∧ spareOf s (coreTile c) (coreX c % 24) = 0 ∧ operationShifts s (coreX c) = 0
    ∧ ∀ p, s.partOfColumn (coreX c / 24) = some p → (s.part p).run = .stopped

/-- A core that does not meet the conditions of a substitution keeps its place. -/
theorem State.substituteIdle_of_not {s : State} {c : Nat} (h : ¬ TakesSpare s c) : s.substituteIdle c = s := by
  have hoffer : ∀ p, ¬ ((s.heal c).offered = true ∧ s.cfg 0x3100 1 ≠ 2 ∧ spareOf s (coreTile c) (coreX c % 24) = 0
      ∧ operationShifts s (coreX c) = 0) → s.substituteOffer true c p = s := fun p hn => by
    unfold State.substituteOffer
    rw [if_pos]
    simp only [Bool.or_eq_true, Bool.not_eq_true', decide_eq_true_eq]
    by_contra hc
    push Not at hc
    obtain ⟨⟨⟨ho, hp⟩, hs⟩, hx⟩ := hc
    exact hn ⟨by simpa using ho, hp, by simpa using hs, by omega⟩
  unfold State.substituteIdle
  split
  next hp => exact hoffer _ fun ⟨a, b, d, e⟩ => h ⟨a, b, d, e, fun p hp' => by rw [hp] at hp'; cases hp'⟩
  next p hp =>
    split
    next hrun => exact hoffer _ fun ⟨a, b, d, e⟩ => h ⟨a, b, d, e, fun p' hp' => by rw [hp] at hp'; cases hp'; exact hrun⟩
    next => rfl

/-- A core that meets them takes the spare of its column. -/
theorem State.substituteIdle_shifts {s : State} {c : Nat} (h : TakesSpare s c) :
    Shifted (coreSite s c) 3 3 2 s (s.substituteIdle c) := by
  obtain ⟨ho, hp, hs, hx, hrun⟩ := h
  obtain ⟨htile, hcol⟩ := coreSite_tile_col s c
  have hsh := s.shiftLater_shifts (coreSite s c) 3 3 2 (by rw [htile, hcol]; exact hs)
  have hoffer : ∀ p, s.substituteOffer true c p
      = (s.shiftLater (coreSite s c) 3 3 2).1.event sevAbsorbed evSpareSubstituted (coreSite s c) p := fun p => by
    unfold State.substituteOffer
    rw [if_neg (by simp [ho, hp, hs, hx])]
    rfl
  have hdone : ∀ p, Shifted (coreSite s c) 3 3 2 s (s.substituteOffer true c p) := fun p => by
    rw [hoffer]
    obtain ⟨u, hu⟩ : ∃ u, (s.shiftLater (coreSite s c) 3 3 2).1 = u := ⟨_, rfl⟩
    rw [hu] at hsh ⊢
    have he := u.event_offShift sevAbsorbed evSpareSubstituted (coreSite s c) p
    have heal : ∀ d, (u.event sevAbsorbed evSpareSubstituted (coreSite s c) p).heal d = u.heal d := fun d => by simp
    have hov : (u.event sevAbsorbed evSpareSubstituted (coreSite s c) p).overlay = u.overlay := by simp
    have hid : (u.event sevAbsorbed evSpareSubstituted (coreSite s c) p).ident = u.ident := by simp
    refine ⟨he.trans hsh.rest, fun d => by rw [heal]; exact hsh.heal d, ?_, fun hl => by rw [hov]; exact hsh.entries hl⟩
    have := hsh.spare
    unfold spareOf State.isD at this ⊢
    rw [hov, hid]; exact this
  unfold State.substituteIdle
  split
  next => exact hdone _
  next p hp => rw [if_pos (hrun p hp)]; exact hdone _

/-! ### The scrubber -/

/-- Whether the counting of n corrected words offers a core (R40). -/
theorem State.addCorrected_offered (s : State) (c n : Nat) :
    ((s.addCorrected c n).heal c).offered = true ↔ (s.heal c).offered = true
      ∨ ((s.heal c).passCorrected < s.cfg 0x3100 0x11 ∧ s.cfg 0x3100 0x11 ≤ (s.heal c).passCorrected + n) := by
  unfold State.addCorrected
  dsimp only
  split
  next h0 => constructor
             · exact Or.inl
             · rintro (h | h)
               · exact h
               · omega
  next h0 =>
    split
    next h => simp [h]
    next h =>
      have : ¬ ((s.heal c).passCorrected < s.cfg 0x3100 0x11 ∧ s.cfg 0x3100 0x11 ≤ (s.heal c).passCorrected + n) := fun hh =>
        h ⟨by omega, hh⟩
      simp [this]

/-- The health of a core beside the counts of corrected words. -/
theorem State.addCorrected_rest (s : State) (c n : Nat) :
    (s.addCorrected c n).heal c = { s.heal c with
      corrected := ((s.addCorrected c n).heal c).corrected, passCorrected := ((s.addCorrected c n).heal c).passCorrected
      offered := ((s.addCorrected c n).heal c).offered } := by
  unfold State.addCorrected
  dsimp only
  split
  · rfl
  · split <;> simp

/-- The health of a core after the scrubber has read a row: `h` before it, `fixed` and `bad` words found at time n (R40). -/
def CoreHealth.scrubbed (h : CoreHealth) (row fixed bad n : Nat) : CoreHealth :=
  { h with
    scrubPending := if fixed = 0 then h.scrubPending else addOnce h.scrubPending row
    scrubUncorrectable := satAdd 16 h.scrubUncorrectable bad
    scrubRow := if row = 4095 then 0 else row + 1
    scrubLast := n
    scrubDone := if row = 4095 then n else h.scrubDone
    passCorrected := if row = 4095 then 0 else h.passCorrected }

/-- SCRUB_ROW_READ of a core whose clock runs. -/
theorem execScrubRowRead_runs {s : State} {c : Nat} (hc : coreExists s c = true) (hclk : (s.tile (coreTile c)).fastClock = true)
    (hf : (s.heal c).fenced = false) (s1 u : State) (hs1 : s.advance ((s.heal c).scrubLast + scrubInterval s) = s1)
    (hu : s1.addCorrected c (correctedIn s c (s.heal c).scrubRow) = u) (v : State)
    (hv : u.setHeal c ((u.heal c).scrubbed (s.heal c).scrubRow (correctedIn s c (s.heal c).scrubRow)
      (badIn s c (s.heal c).scrubRow) s1.now) = v) :
    exec (.scrubRowRead c) s = .next ((if badIn s c (s.heal c).scrubRow = 0 then v
      else v.event sevAbsorbed evScrubUncorrectable c (s.heal c).scrubRow).substituteIdle c).bump := by
  generalize hR : State.bump _ = R
  refine (onCore_exists _ hc).trans (congrArg Host.Outcome.next ?_)
  rw [if_neg (by simp [hclk, hf])]
  rw [← hR, ← hv, ← hu, ← hs1]
  simp only [CoreHealth.scrubbed, decide_eq_true_eq]

/-- The conditions of a substitution are those of what they name. -/
theorem takesSpare_congr {s t : State} {c : Nat} (hcfg : ∀ i j, t.cfg i j = s.cfg i j) (hov : t.overlay = s.overlay)
    (hid : t.ident = s.ident) (hparts : t.parts = s.parts) :
    TakesSpare t c ↔ (t.heal c).offered = true ∧ s.cfg 0x3100 1 ≠ 2 ∧ spareOf s (coreTile c) (coreX c % 24) = 0
      ∧ operationShifts s (coreX c) = 0 ∧ ∀ p, s.partOfColumn (coreX c / 24) = some p → (s.part p).run = .stopped := by
  have hspare : spareOf t (coreTile c) (coreX c % 24) = spareOf s (coreTile c) (coreX c % 24) := by
    unfold spareOf State.isD; rw [hov, hid]
  have hshifts : operationShifts t (coreX c) = operationShifts s (coreX c) := by unfold operationShifts; rw [hov]
  have hband : ∀ x, t.partOfColumn x = s.partOfColumn x := fun x => by
    unfold State.partOfColumn State.bandHas State.firstCol State.widthOf
    simp only [hcfg]
  have hpart : ∀ p, t.part p = s.part p := fun p => by unfold State.part; rw [hparts]
  unfold TakesSpare
  simp only [hcfg, hspare, hshifts, hband, hpart]

/-- SCRUB_ROW_READ: what it counts in the core's health, and whether the core takes its column's spare. -/
theorem execScrubRowRead_counts (s : State) (c : Nat) (hc : coreExists s c = true) (hclk : (s.tile (coreTile c)).fastClock = true)
    (hf : (s.heal c).fenced = false) :
    ∃ t, exec (.scrubRowRead c) s = .next t
      ∧ t.now = max s.now ((s.heal c).scrubLast + scrubInterval s) ∧ (t.heal c).scrubLast = t.now
      ∧ (t.heal c).scrubRow = (if (s.heal c).scrubRow = 4095 then 0 else (s.heal c).scrubRow + 1)
      ∧ (t.heal c).corrected = (if correctedIn s c (s.heal c).scrubRow = 0 then (s.heal c).corrected
          else min 4294967295 ((s.heal c).corrected + correctedIn s c (s.heal c).scrubRow))
      ∧ (t.heal c).scrubUncorrectable = min 65535 ((s.heal c).scrubUncorrectable + badIn s c (s.heal c).scrubRow)
      ∧ (correctedIn s c (s.heal c).scrubRow ≠ 0 → (s.heal c).scrubRow ∈ (t.heal c).scrubPending)
      ∧ t = { s with now := t.now, rtc := t.rtc, health := t.health, freeCtr := t.freeCtr, log := t.log, hosts := t.hosts
                     sivar := t.sivar, overlay := t.overlay, pad := t.pad, marks := t.marks }
      ∧ (let before := (s.heal c).passCorrected
         let takes := ((s.heal c).offered = true ∨ (before < s.cfg 0x3100 0x11
             ∧ s.cfg 0x3100 0x11 ≤ before + correctedIn s c (s.heal c).scrubRow))
           ∧ s.cfg 0x3100 1 ≠ 2 ∧ spareOf s (coreTile c) (coreX c % 24) = 0 ∧ operationShifts s (coreX c) = 0
           ∧ (∀ p, s.partOfColumn (coreX c / 24) = some p → (s.part p).run = .stopped)
         (¬ takes → SameBut {} s.health t.health c ∧ t.overlay = s.overlay ∧ t.pad = s.pad ∧ t.marks = s.marks)
         ∧ (takes → spareOf t (coreTile c) (coreX c % 24) = 3
             ∧ (s.overlay.entries.length < 1024 →
                 ∃ f, t.overlay.entries = s.overlay.entries ++ [f] ∧ f.cls = 2 ∧ f.unit = coreSite s c ∧ f.origin = 3 ∧ f.flags = 2))) := by
  obtain ⟨n, hn⟩ : ∃ n, (s.heal c).scrubLast + scrubInterval s = n := ⟨_, rfl⟩
  obtain ⟨fixed, hfix⟩ : ∃ n, correctedIn s c (s.heal c).scrubRow = n := ⟨_, rfl⟩
  obtain ⟨bad, hbad⟩ : ∃ n, badIn s c (s.heal c).scrubRow = n := ⟨_, rfl⟩
  obtain ⟨row, hrow⟩ : ∃ n, (s.heal c).scrubRow = n := ⟨_, rfl⟩
  obtain ⟨s1, hs1⟩ : ∃ s1, s.advance n = s1 := ⟨_, rfl⟩
  obtain ⟨u, hu⟩ : ∃ u, s1.addCorrected c fixed = u := ⟨_, rfl⟩
  obtain ⟨v, hv⟩ : ∃ v, u.setHeal c ((u.heal c).scrubbed row fixed bad s1.now) = v := ⟨_, rfl⟩
  obtain ⟨w, hw⟩ : ∃ w, (if bad = 0 then v else v.event sevAbsorbed evScrubUncorrectable c row) = w := ⟨_, rfl⟩
  have hex := execScrubRowRead_runs hc hclk hf s1 u (hn ▸ hs1) (hfix ▸ hu) v (by rw [hfix, hbad, hrow]; exact hv)
  rw [hbad, hrow, hw] at hex
  rw [hfix, hbad, hrow, hn]
  have hcor := s1.addCorrected_corrected c fixed
  have hoff := s1.addCorrected_offered c fixed
  have hrest := s1.addCorrected_rest c fixed
  have h1 : Counted c s1 u := hu ▸ Counted.addCorrected c s1 fixed
  have h2 : Counted c u v := hv ▸ Counted.setHeal c u _
  have h3 : Counted c v w := by
    rw [← hw]
    split
    · exact Counted.refl c v
    · exact Counted.event c v _ _ _ _
  have hcount := (h1.trans h2).trans h3
  rw [hu] at hcor hoff hrest
  have hs1h : ∀ d, s1.heal d = s.heal d := fun d => by rw [← hs1, State.advance_heal]
  have hs1cfg : ∀ i j, s1.cfg i j = s.cfg i j := fun i j => by rw [← hs1, State.advance_cfg]
  have hwheal : w.heal c = (u.heal c).scrubbed row fixed bad s1.now := by
    have : v.heal c = (u.heal c).scrubbed row fixed bad s1.now := by rw [← hv, State.setHeal_heal, if_pos rfl]
    rw [← hw, ← this]; split <;> simp
  have hwcfg : ∀ i j, w.cfg i j = s.cfg i j := fun i j => by rw [← hs1cfg]; unfold State.cfg; rw [hcount.config]
  have hwov : w.overlay = s.overlay := by rw [hcount.rest, ← hs1]; rfl
  have hwid : w.ident = s.ident := by rw [hcount.rest, ← hs1]; rfl
  have hwparts : w.parts = s.parts := by rw [hcount.rest, ← hs1]; rfl
  have hwpad : w.pad = s.pad := by rw [hcount.rest, ← hs1]; rfl
  have hwmarks : w.marks = s.marks := by rw [hcount.rest, ← hs1]; rfl
  have hwnow : w.now = max s.now n := by rw [hcount.rest, ← hs1]; rfl
  have htakes := takesSpare_congr (c := c) hwcfg hwov hwid hwparts
  have hwoff : (w.heal c).offered = true ↔ (s.heal c).offered = true
      ∨ ((s.heal c).passCorrected < s.cfg 0x3100 0x11 ∧ s.cfg 0x3100 0x11 ≤ (s.heal c).passCorrected + fixed) := by
    rw [hwheal, ← hs1h, ← hs1cfg]; exact hoff
  rw [hwoff] at htakes
  obtain ⟨x, hx⟩ : ∃ x, w.substituteIdle c = x := ⟨_, rfl⟩
  rw [hx] at hex
  have hkeep : ¬ TakesSpare w c → x = w := fun h => by rw [← hx, State.substituteIdle_of_not h]
  have hshift : TakesSpare w c → Shifted (coreSite w c) 3 3 2 w x := fun h => hx ▸ State.substituteIdle_shifts h
  have hxoff : x.offShift = w.offShift := by
    by_cases h : TakesSpare w c
    · exact (hshift h).rest
    · rw [hkeep h]
  have hxheal : ∀ d, x.heal d = { w.heal d with dead := (x.heal d).dead, offered := (x.heal d).offered } := fun d => by
    by_cases h : TakesSpare w c
    · exact (hshift h).heal d
    · rw [hkeep h]
  have hxn : x.now = w.now := show x.offShift.now = w.offShift.now by rw [hxoff]
  have hxc : x.heal c = { ((u.heal c).scrubbed row fixed bad s1.now) with
      dead := (x.heal c).dead, offered := (x.heal c).offered } := by rw [← hwheal]; exact hxheal c
  have hs1n : s1.now = max s.now n := by rw [← hs1]; rfl
  have hsite : coreSite w c = coreSite s c := by
    unfold coreSite shiftRow pendingFence; rw [hwov]
  refine ⟨x.bump, hex, hxn.trans hwnow, ?_, ?_, ?_, ?_, fun hne => ?_, ?_, fun hno => ?_, fun hyes => ?_⟩
  · rw [State.bump_heal, hxc, State.bump_now, hxn, hwnow, ← hs1n]; rfl
  · rw [State.bump_heal, hxc]; rfl
  · rw [State.bump_heal, hxc, ← hs1h]; exact hcor
  · rw [State.bump_heal, hxc, ← hs1h]
    show satAdd 16 (u.heal c).scrubUncorrectable bad = _
    rw [hrest]; rfl
  · rw [State.bump_heal, hxc]
    show row ∈ (if fixed = 0 then (u.heal c).scrubPending else addOnce (u.heal c).scrubPending row)
    rw [if_neg hne]
    unfold addOnce
    split
    next h => exact h
    next => simp
  · have hframe : x.offShift = { s.offShift with now := x.now, rtc := x.rtc } := by
      have hr : x.rtc = w.rtc := show x.offShift.rtc = w.offShift.rtc by rw [hxoff]
      rw [hxoff, hxn, hr]
      conv_lhs => rw [hcount.rest, ← hs1]
      conv_rhs => rw [hcount.rest, ← hs1]
      rfl
    exact congrArg (fun y : State => { y with health := x.health, overlay := x.overlay, pad := x.pad, marks := x.marks, log := x.log
                                              hosts := x.hosts, sivar := x.sivar, freeCtr := x.freeCtr + 1 }) hframe
  · have e := hkeep (fun h => hno (htakes.1 h))
    rw [e]
    exact ⟨fun d hd => (hcount.heal d hd).trans (hs1h d), hwov, hwpad, hwmarks⟩
  · have h := hshift (htakes.2 hyes)
    obtain ⟨htile, hcol⟩ := coreSite_tile_col w c
    refine ⟨?_, fun hl => ?_⟩
    · have := h.spare
      rw [htile, hcol] at this
      exact this
    · rw [← hwov, ← hsite]
      exact h.entries (hwov ▸ hl)

/-! ### The write-back -/

/-- What the rewriting of the first n words of a row changes: a word that decodes is stored anew, and only a word that decoded by chance
loses its bytes (R39, R41). -/
theorem rewriteRow_words (s : State) (w0 n : Nat) :
    ∃ t : State, (List.range n).foldl (fun (t : State) w =>
        if wordCorrected s (w0 + w) then
          { t with marks := putMark t.marks (w0 + w) false
                   pad := if tget none s.marks (w0 + w) = some .many then forget t.pad (8 * (w0 + w)) 8 else t.pad }
        else t) s = t
      ∧ t = { s with pad := t.pad, marks := t.marks }
      ∧ (∀ w, tget none t.marks w = if w0 ≤ w ∧ w < w0 + n ∧ wordCorrected s w = true then none else tget none s.marks w)
      ∧ (∀ a, readByte t.pad a = if w0 ≤ wordOf a ∧ wordOf a < w0 + n ∧ wordCorrected s (wordOf a) = true
            ∧ tget none s.marks (wordOf a) = some .many then none else readByte s.pad a) := by
  induction n with
  | zero => exact ⟨s, rfl, rfl, fun w => by rw [if_neg (by omega)], fun a => by rw [if_neg (by omega)]⟩
  | succ n ih =>
    obtain ⟨t, ht, hrest, hmark, hbyte⟩ := ih
    rw [List.range_succ, List.foldl_append, ht, List.foldl_cons, List.foldl_nil]
    split
    next hcor =>
      refine ⟨_, rfl, ?_, fun w => ?_, fun x => ?_⟩
      · conv_lhs => rw [hrest]
      · rw [tget_putMark, hmark]
        by_cases hw : w = w0 + n
        · rw [if_pos hw, if_pos ⟨by omega, by omega, hw ▸ hcor⟩]; rfl
        · rw [if_neg hw]
          exact if_congr ⟨fun ⟨a, b, d⟩ => ⟨a, by omega, d⟩, fun ⟨a, b, d⟩ => ⟨a, by omega, d⟩⟩ rfl rfl
      · by_cases hmany : tget none s.marks (w0 + n) = some .many
        · simp only [if_pos hmany]
          rw [readByte_forget, hbyte]
          by_cases ha : wordOf x = w0 + n
          · rw [if_pos (by unfold wordOf at ha; omega), if_pos ⟨by omega, by omega, ha ▸ hcor, ha ▸ hmany⟩]
          · rw [if_neg (by unfold wordOf at ha; omega)]
            exact if_congr ⟨fun ⟨a, b, d⟩ => ⟨a, by omega, d⟩, fun ⟨a, b, d⟩ => ⟨a, by omega, d⟩⟩ rfl rfl
        · simp only [if_neg hmany]
          rw [hbyte]
          refine if_congr ⟨fun ⟨a, b, d⟩ => ⟨a, by omega, d⟩, fun ⟨a, b, d, e⟩ => ⟨a, ?_, d, e⟩⟩ rfl rfl
          by_contra hlt
          exact hmany ((by omega : wordOf x = w0 + n) ▸ e)
    next hno =>
      refine ⟨t, rfl, hrest, fun w => ?_, fun x => ?_⟩
      · rw [hmark]
        refine if_congr ⟨fun ⟨a, b, d⟩ => ⟨a, by omega, d⟩, fun ⟨a, b, d⟩ => ⟨a, ?_, d⟩⟩ rfl rfl
        by_contra hlt
        exact hno ((by omega : w = w0 + n) ▸ d)
      · rw [hbyte]
        refine if_congr ⟨fun ⟨a, b, d⟩ => ⟨a, by omega, d⟩, fun ⟨a, b, d, e⟩ => ⟨a, ?_, d, e⟩⟩ rfl rfl
        by_contra hlt
        exact hno ((by omega : wordOf x = w0 + n) ▸ d)

/-- SCRUB_WRITE_BACK of a row that waits. -/
theorem execScrubWriteBack_rewrites (s : State) (c row : Nat) (hc : coreExists s c = true)
    (hrow : row ∈ (s.heal c).scrubPending ∨ row ∈ (s.heal c).writeBack) :
    let w0 := wordOf (padAt c row)
    ∃ t, exec (.scrubWriteBack c row) s = .next t
      ∧ (∀ w, tget none t.marks w
          = if w0 ≤ w ∧ w < w0 + 64 ∧ wordCorrected s w = true then none else tget none s.marks w)
      ∧ (∀ a, readByte t.pad a = if w0 ≤ wordOf a ∧ wordOf a < w0 + 64 ∧ wordCorrected s (wordOf a) = true
            ∧ tget none s.marks (wordOf a) = some .many then none else readByte s.pad a)
      ∧ row ∉ (t.heal c).scrubPending ∧ row ∉ (t.heal c).writeBack ∧ SameBut {} s.health t.health c
      ∧ (t.heal c).scrubUncorrectable
          = min 65535 ((s.heal c).scrubUncorrectable + (if row ∈ (s.heal c).scrubPending then 0 else badIn s c row))
      ∧ t = { s with pad := t.pad, marks := t.marks, health := t.health, freeCtr := t.freeCtr, log := t.log, hosts := t.hosts
                     sivar := t.sivar } := by
  intro w0
  obtain ⟨u, hu, hrest, hmark, hbyte⟩ := rewriteRow_words s w0 64
  obtain ⟨bad, hbad⟩ : ∃ n, (if row ∈ (s.heal c).scrubPending then 0 else badIn s c row) = n := ⟨_, rfl⟩
  obtain ⟨h, hh, hpend, hwb, hunc⟩ : ∃ h : CoreHealth, { s.heal c with
      scrubPending := (s.heal c).scrubPending.filter (· != row), writeBack := (s.heal c).writeBack.filter (· != row)
      scrubUncorrectable := satAdd 16 (s.heal c).scrubUncorrectable bad } = h ∧ row ∉ h.scrubPending ∧ row ∉ h.writeBack
        ∧ h.scrubUncorrectable = min 65535 ((s.heal c).scrubUncorrectable + bad) :=
    ⟨_, rfl, by simp, by simp, rfl⟩
  obtain ⟨v, hv⟩ : ∃ v, u.setHeal c h = v := ⟨_, rfl⟩
  obtain ⟨w, hw⟩ : ∃ w, (if bad = 0 then v else v.event sevAbsorbed evScrubUncorrectable c row) = w := ⟨_, rfl⟩
  have hex : exec (.scrubWriteBack c row) s = .next w.bump := by
    refine (onCore_exists _ hc).trans (congrArg Host.Outcome.next ?_)
    rw [if_pos hrow]
    dsimp only
    rw [← hw, ← hv, ← hh, ← hu, hbad]
    rfl
  have hcount : Counted c u w := by
    refine Counted.trans (hv ▸ Counted.setHeal c u h : Counted c u v) ?_
    rw [← hw]
    split
    · exact Counted.refl c v
    · exact Counted.event c v _ _ _ _
  have hwheal : w.heal c = h := by
    have : v.heal c = h := by rw [← hv, State.setHeal_heal, if_pos rfl]
    rw [← hw, ← this]; split <;> simp
  have huheal : ∀ d, u.heal d = s.heal d := fun d => by rw [hrest]; rfl
  have hwp : w.pad = u.pad := by rw [hcount.rest]
  have hwm : w.marks = u.marks := by rw [hcount.rest]
  refine ⟨w.bump, hex, fun x => by rw [State.bump_marks, hwm]; exact hmark x, fun x => by rw [State.bump_pad, hwp]; exact hbyte x,
    by rw [State.bump_heal, hwheal]; exact hpend, by rw [State.bump_heal, hwheal]; exact hwb,
    fun d hd => (hcount.heal d hd).trans (huheal d), by rw [State.bump_heal, hwheal, hbad]; exact hunc, ?_⟩
  have hframe := hcount.rest
  rw [hrest] at hframe
  refine (congrArg (fun y : State => { y with freeCtr := w.freeCtr + 1, pad := w.pad, marks := w.marks }) hframe).trans ?_
  rfl

/-! ### Barriers and heartbeats -/

/-- The cores that a completed barrier releases: each of a list that waits on the wire runs on. -/
theorem foldl_release_core (wire : Nat) (l : List Nat) (s : State) (d : Nat) :
    let t := l.foldl (fun (t : State) c =>
      if (t.core c).wait = .wire wire then t.setCore c { t.core c with wait := .running, nextIssue := t.now + 1 } else t) s
    (t.core d = if d ∈ l ∧ (s.core d).wait = .wire wire then { s.core d with wait := .running, nextIssue := s.now + 1 } else s.core d)
      ∧ t = { s with cores := t.cores } := by
  induction l generalizing s with
  | nil => simp
  | cons c l ih =>
    rw [List.foldl_cons]
    obtain ⟨s', hs'⟩ : ∃ s' : State, (if (s.core c).wait = .wire wire
      then s.setCore c { s.core c with wait := .running, nextIssue := s.now + 1 } else s) = s' := ⟨_, rfl⟩
    rw [hs']
    obtain ⟨hcore, hrest⟩ := ih s'
    have hr : s' = { s with cores := s'.cores } := by rw [← hs']; split <;> rfl
    have hn : s'.now = s.now := by rw [hr]
    refine ⟨?_, ?_⟩
    · rw [hcore, hn]
      by_cases hdc : d = c
      · subst hdc
        by_cases hwait : (s.core d).wait = .wire wire
        · have hc' : s'.core d = { s.core d with wait := .running, nextIssue := s.now + 1 } := by
            rw [← hs', if_pos hwait, State.setCore_core, if_pos rfl]
          rw [hc', if_neg (by simp), if_pos ⟨List.mem_cons_self, hwait⟩]
        · have hc' : s'.core d = s.core d := by rw [← hs', if_neg hwait]
          rw [hc', if_neg (fun h => hwait h.2), if_neg (fun h => hwait h.2)]
      · have hc' : s'.core d = s.core d := by
          rw [← hs']; split
          · rw [State.setCore_core, if_neg hdc]
          · rfl
        rw [hc']
        exact if_congr (by simp [hdc]) rfl rfl
    · generalize List.foldl _ s' l = t at hrest ⊢
      conv_lhs => rw [hrest, hr]

/-- BARRIER_COMPLETE with every enabled core arrived. -/
theorem execBarrierComplete_releases (s : State) (p wire : Nat) (hp : p < 8) :
    let here := (s.part p).barriers.filter (fun e => e.1 == wire)
    here ≠ [] → (∀ c ∈ s.enabledCores p, ∃ e ∈ here, e.2.1 = c) →
    ∃ t, exec (.barrierComplete p wire) s = .next t
      ∧ t.now = max s.now (here.foldl (fun m e => max m e.2.2) 0 + (s.part p).barrierLatency)
      ∧ (t.part p).barriers = (s.part p).barriers.filter (fun e => e.1 != wire)
      ∧ (∀ c, t.core c = if c ∈ s.enabledCores p ∧ (s.core c).wait = .wire wire
          then { s.core c with wait := .running, nextIssue := t.now + 1 } else s.core c)
      ∧ SameBut {} s.parts t.parts p
      ∧ t = { s with cores := t.cores, parts := t.parts, now := t.now, rtc := t.rtc } := by
  intro here hne hall
  obtain ⟨pt, hpt, hbar⟩ : ∃ pt : Partition, { s.part p with barriers := (s.part p).barriers.filter (fun e => e.1 != wire) } = pt
    ∧ pt.barriers = (s.part p).barriers.filter (fun e => e.1 != wire) := ⟨_, rfl, rfl⟩
  obtain ⟨n, hn⟩ : ∃ n, here.foldl (fun m e => max m e.2.2) 0 + (s.part p).barrierLatency = n := ⟨_, rfl⟩
  obtain ⟨u, hu⟩ : ∃ u, (s.advance n).setPart p pt = u := ⟨_, rfl⟩
  have hcond : (here.isEmpty || !(s.enabledCores p).all (fun c => here.any (fun e => e.2.1 == c))) = false := by
    simp only [Bool.or_eq_false_iff, List.isEmpty_eq_false_iff, Bool.not_eq_false', List.all_eq_true, List.any_eq_true, beq_iff_eq]
    exact ⟨hne, hall⟩
  have hex : exec (.barrierComplete p wire) s = .next ((s.enabledCores p).foldl (fun (t : State) c =>
      if (t.core c).wait = .wire wire then t.setCore c { t.core c with wait := .running, nextIssue := t.now + 1 } else t) u) := by
    refine (if_pos hp).trans (congrArg Host.Outcome.next ?_)
    rw [← hu, ← hpt, ← hn]
    exact if_neg (by rw [hcond]; decide)
  obtain ⟨t, ht⟩ : ∃ t, (s.enabledCores p).foldl (fun (t : State) c =>
      if (t.core c).wait = .wire wire then t.setCore c { t.core c with wait := .running, nextIssue := t.now + 1 } else t) u = t := ⟨_, rfl⟩
  have hfold := fun d => foldl_release_core wire (s.enabledCores p) u d
  rw [ht] at hex
  simp only [ht] at hfold
  have hrest := (hfold 0).2
  have hucore : ∀ d, u.core d = s.core d := fun d => by rw [← hu]; simp
  have hunow : u.now = max s.now n := by rw [← hu]; rfl
  have htn : t.now = max s.now n := by rw [hrest, ← hunow]
  have htp : t.parts = u.parts := by rw [hrest]
  have htpart : ∀ q, t.part q = if q = p then pt else s.part q := fun q => by
    unfold State.part; rw [htp, ← hu]; exact tget_tput ({} : Partition) _ _ _ _
  refine ⟨t, hex, by rw [hn]; exact htn, by rw [htpart, if_pos rfl, hbar], fun d => ?_, fun q hq => (htpart q).trans (if_neg hq), ?_⟩
  · rw [(hfold d).1, hucore, hunow, htn]
  · have htr : t.rtc = u.rtc := by rw [hrest]
    rw [htp, htn, htr, ← hunow]
    refine hrest.trans ?_
    rw [← hu]
    rfl

/-- Settles O8: the scrubber's reads and write-backs, barriers, and the heartbeat. -/
theorem scrubberBarriersAndHeartbeats : Obligations.ScrubberBarriersAndHeartbeats := by
  refine ⟨execScrubRowRead_counts, execScrubWriteBack_rewrites, execBarrierComplete_releases,
    fun s c hc hb hd hclk => ?toggle, fun s c p hc hb hclk hlate hp => ?miss⟩
  case toggle =>
    obtain ⟨u, hu⟩ : ∃ u, s.advance (((s.heal c).toggled + 1) * 1500) = u := ⟨_, rfl⟩
    obtain ⟨h, hh⟩ : ∃ h : CoreHealth, { s.heal c with toggled := u.now / 1500, toggleBit := !(s.heal c).toggleBit } = h := ⟨_, rfl⟩
    have hex : exec (.heartbeatToggle c) s = .next (u.setHeal c h) := by
      refine (onCore_exists _ hc).trans (congrArg Host.Outcome.next ?_)
      rw [← hh, ← hu]
      exact if_neg (by simp [hb, hd, hclk])
    have huh : ∀ d, u.heal d = s.heal d := fun d => by rw [← hu, State.advance_heal]
    have hr : u = { s with now := u.now, rtc := u.rtc } := by rw [← hu]; rfl
    refine ⟨_, hex, ?_, ?_, fun d hd => ?_, ?_⟩
    · rw [State.setHeal_now, ← hu]; rfl
    · rw [State.setHeal_heal, if_pos rfl, State.setHeal_now, hh]
    · exact (State.setHeal_heal u c h d).trans ((if_neg hd).trans (huh d))
    · exact congrArg (fun y : State => { y with health := tput {} u.health c h }) hr
  case miss =>
    obtain ⟨h, hh⟩ : ∃ h : CoreHealth, { s.heal c with dead := true, heartbeat := false } = h := ⟨_, rfl⟩
    obtain ⟨ct, hct, hf⟩ : ∃ ct : PartControl, { s.ctlOf p with faults := (s.ctlOf p).faults ++ [.coreDead c] } = ct
      ∧ ct.faults = (s.ctlOf p).faults ++ [.coreDead c] := ⟨_, rfl, rfl⟩
    have hex : exec (.heartbeatMiss c) s = .next ((s.setHeal c h).setCtl p ct) := by
      refine (onCore_exists _ hc).trans (congrArg Host.Outcome.next ?_)
      rw [← hct, ← hh]
      rw [if_neg (by simp only [hb, hclk]; simp [tickOf, cyPerTick, Nat.not_le.2 hlate]), hp]
      rfl
    refine ⟨_, hex, ?_, ?_, fun d hd => ?_, fun q hq => ?_, rfl⟩
    · rw [State.setCtl_heal, State.setHeal_heal, if_pos rfl, hh]
    · rw [State.setCtl_ctlOf, if_pos rfl, hf]
    · exact (State.setHeal_heal s c h d).trans (if_neg hd)
    · exact (State.setCtl_ctlOf (s.setHeal c h) p ct q).trans (if_neg hq)

end Sys2Proof.Machine
end

section
/-! SUPPORT. Remote rows and requests at their window, the packets that go back, window writes and segment loads (R47-R51, R109-R112,
R138, R139). -/

namespace Sys2Proof.Machine

/-! ### Packets put out -/

/-- The bits of a sum of a high and a low part. -/
theorem bits_ofNat_high {x w lo hi : Nat} (hx : x < 2 ^ w) : bits (BitVec.ofNat w x) hi lo = x / 2 ^ lo % 2 ^ (hi + 1 - lo) := by
  unfold bits
  rw [BitVec.toNat_ofNat, Nat.mod_eq_of_lt hx, Nat.shiftRight_eq_div_pow]

/-- A packet's type is the one it was made with. -/
theorem netType_netHeader (type vc dx dy sx sy ch row tag : Nat) : netType (netHeader type vc dx dy sx sy ch row tag) = type % 8 := by
  unfold netType netHeader
  rw [bits_ofNat_high (by omega)]
  omega

/-- What putting a packet out of a core leaves of the cores and their scratchpads: all but the core's router. -/
structure PutOut (c : Nat) (s t : State) : Prop where
  pad : t.pad = s.pad
  marks : t.marks = s.marks
  others : ∀ d, d ≠ c → t.core d = s.core d
  own : t.core c = { s.core c with
    routerTurn := (t.core c).routerTurn, responses := (t.core c).responses, portBusy := (t.core c).portBusy }

namespace PutOut

variable {c : Nat} {s t u : State}

theorem refl (c : Nat) (s : State) : PutOut c s s := ⟨rfl, rfl, fun _ _ => rfl, rfl⟩

theorem trans (h : PutOut c s t) (g : PutOut c t u) : PutOut c s u :=
  ⟨g.pad.trans h.pad, g.marks.trans h.marks, fun d hd => (g.others d hd).trans (h.others d hd), by conv_lhs => rw [g.own, h.own]⟩

theorem of_cores_eq (hp : t.pad = s.pad) (hm : t.marks = s.marks) (hc : t.cores = s.cores) : PutOut c s t := by
  have h : ∀ d, t.core d = s.core d := fun d => by unfold State.core; rw [hc]
  exact ⟨hp, hm, fun d _ => h d, by rw [h]⟩

theorem sendPacket (c : Nat) (s : State) (q : Nat) (f : FabHead) (bs : List Byte) : PutOut c s (s.sendPacket q f bs) := by
  refine of_cores_eq (s.sendPacket_pad q f bs) (s.sendPacket_marks q f bs) ?_
  unfold State.sendPacket
  dsimp only
  split <;> rfl

theorem forwardRow (c : Nat) (s : State) (p : NetPacket) : PutOut c s (s.forwardRow p) := by
  unfold State.forwardRow
  split
  · exact refl c s
  · dsimp only
    split
    · exact refl c s
    · exact sendPacket c s _ _ _

theorem inject (c : Nat) (s : State) (p : NetPacket) : PutOut c s (s.inject c p) := by
  unfold State.inject
  dsimp only
  split
  · exact of_cores_eq rfl rfl rfl
  · refine trans (t := { s.setCore c { s.core c with
      routerTurn := tput 0 (s.core c).routerTurn (firstOutput p.header) (16 + netVc p.header + 1) } with
      net := s.net ++ [p], transit := s.transit ++ transitFlits s c p.header }) ⟨rfl, rfl, fun d hd => ?_, ?_⟩ (forwardRow c _ p)
    · exact (State.setCore_core ..).trans (if_neg hd)
    · have : ∀ k : Core, State.core { s.setCore c k with
          net := s.net ++ [p], transit := s.transit ++ transitFlits s c p.header } c = k := fun k =>
        (State.setCore_core s c k c).trans (if_pos rfl)
      rw [this]

theorem sendResponse (c : Nat) (s : State) : PutOut c s (s.sendResponse c) := by
  unfold State.sendResponse
  dsimp only
  split
  · exact refl c s
  next ready p rest _ =>
    split
    · exact refl c s
    · refine trans ⟨State.setCore_pad .., State.setCore_marks .., fun d hd => by rw [State.setCore_core, if_neg hd], ?_⟩ (inject c _ p)
      rw [State.setCore_core, if_pos rfl]
      rfl

theorem sendResponses (c : Nat) (s : State) : PutOut c s (s.sendResponses c) := by
  unfold State.sendResponses
  generalize (s.core c).responses = l
  induction l generalizing s with
  | nil => exact refl c s
  | cons x l ih => exact (sendResponse c s).trans (ih _)

theorem windows (h : PutOut c s t) : (t.core c).windows = (s.core c).windows := by rw [h.own]

end PutOut

/-- A packet of a core that another quay has no part in: it stands last on the DNet, and only the core's router has turned. -/
theorem State.inject_home (s : State) (c : Nat) (p : NetPacket) (ht : netType p.header ≤ 4)
    (ha : ∀ a, p.address = some a → a.toNat / 2 ^ 47 % 8 = 0) :
    s.inject c p = { s with cores := (s.inject c p).cores, net := s.net ++ [p], transit := (s.inject c p).transit } := by
  have hf : ∀ u : State, u.forwardRow p = u := fun u => by
    unfold State.forwardRow
    split
    · rfl
    next a h => rw [if_pos (Or.inr (by rw [ha a h]; decide))]
  unfold State.inject
  dsimp only
  rw [if_neg (by omega), hf]
  rfl

/-- A response or reject is a packet of its type, whose address, where it has one, names a core. -/
theorem responsePacket_home {s : State} {c sm sc type vc ch tag : Nat} {data : Option Row} {p : NetPacket}
    (h : responsePacket s c sm sc type vc ch tag data = some p) (ht : type ≤ 4) :
    netType p.header ≤ 4 ∧ ∀ a, p.address = some a → a.toNat / 2 ^ 47 % 8 = 0 := by
  unfold responsePacket at h
  split at h
  · obtain rfl := Option.some.inj h
    exact ⟨by rw [netType_netHeader]; omega, fun a ha => by cases ha⟩
  · split at h
    · cases h
    · dsimp only at h
      split at h
      · cases h
      · obtain rfl := Option.some.inj h
        refine ⟨by rw [netType_netHeader]; omega, fun a ha => ?_⟩
        obtain rfl := Option.some.inj ha
        rw [BitVec.toNat_ofNat]
        omega

/-- A response or reject that goes out stands last on the DNet. -/
theorem State.injectSome_response (s : State) (c : Nat) {u : State} {c' sm sc type vc ch tag : Nat} {data : Option Row}
    (ht : type ≤ 4) : s.injectSome c (responsePacket u c' sm sc type vc ch tag data)
      = { s with cores := (s.injectSome c (responsePacket u c' sm sc type vc ch tag data)).cores
                 net := s.net ++ (responsePacket u c' sm sc type vc ch tag data).toList
                 transit := (s.injectSome c (responsePacket u c' sm sc type vc ch tag data)).transit } := by
  cases h : responsePacket u c' sm sc type vc ch tag data with
  | none => simp [State.injectSome]
  | some p =>
    obtain ⟨h1, h2⟩ := responsePacket_home h ht
    exact s.inject_home c p h1 h2

theorem PutOut.injectSome (c : Nat) (s : State) (p : Option NetPacket) : PutOut c s (s.injectSome c p) := by
  cases p with
  | none => exact PutOut.refl c s
  | some p => exact PutOut.inject c s p

/-- The packet that answers a row does not depend on what rows and their counts change. -/
theorem responsePacket_congr {s t : State} (c sm sc type vc ch tag : Nat) (data : Option Row)
    (h : t = { s with cores := t.cores, health := t.health, pad := t.pad, marks := t.marks }) :
    responsePacket t c sm sc type vc ch tag data = responsePacket s c sm sc type vc ch tag data := by
  rw [h]; rfl

/-! ### Rows and requests turned away -/

/-- A core that refuses a transfer counts it, remembers it, and puts out a reject. -/
theorem State.rejectRow_turnsAway (s : State) (c sm sc ch tag : Nat) : TurnedAway s (s.rejectRow c (sm, sc, ch, tag)) c sm sc ch tag := by
  obtain ⟨h, hh, hrej⟩ : ∃ h : CoreHealth, { s.heal c with windowRejects := satAdd 8 (s.heal c).windowRejects 1 } = h
    ∧ h.windowRejects = min 255 ((s.heal c).windowRejects + 1) := ⟨_, rfl, rfl⟩
  obtain ⟨k, hk, hmem, hwin⟩ : ∃ k : Core, { s.core c with rejecting := addOnce (s.core c).rejecting (Sender.transfer (sm, sc, ch, tag)) } = k
    ∧ Sender.transfer (sm, sc, ch, tag) ∈ k.rejecting ∧ k.windows = (s.core c).windows := by
    refine ⟨_, rfl, ?_, rfl⟩
    show _ ∈ addOnce _ _
    unfold addOnce
    split
    next h => exact h
    next => simp
  obtain ⟨u, hu⟩ : ∃ u, (s.setCore c k).setHeal c h = u := ⟨_, rfl⟩
  have hframe : u = { s with cores := u.cores, health := u.health } := by rw [← hu]; rfl
  have hresp := responsePacket_congr (s := s) (t := u) c sm sc 4 3 ch tag none (by rw [hframe])
  have e : s.rejectRow c (sm, sc, ch, tag) = u.injectSome c (responsePacket u c sm sc 4 3 ch tag none) := by
    unfold State.rejectRow State.turnBack
    rw [← hu, ← hh, ← hk]
  rw [e]
  have hnet := u.injectSome_response c (u := u) (c' := c) (sm := sm) (sc := sc) (type := 4) (vc := 3) (ch := ch) (tag := tag) (data := none) (by decide)
  have hput := PutOut.injectSome c u (responsePacket u c sm sc 4 3 ch tag none)
  rw [hresp] at hnet hput ⊢
  obtain ⟨t, ht⟩ : ∃ t, u.injectSome c (responsePacket s c sm sc 4 3 ch tag none) = t := ⟨_, rfl⟩
  rw [ht] at hnet hput ⊢
  have huc : ∀ d, u.core d = if d = c then k else s.core d := fun d => by rw [← hu, State.setHeal_core, State.setCore_core]
  have huh : ∀ d, t.heal d = if d = c then h else s.heal d := fun d => by
    have : t.health = u.health := by rw [hnet]
    unfold State.heal
    rw [this, ← hu]
    exact tget_tput ({} : CoreHealth) _ _ _ _
  have hown := hput.own
  rw [huc, if_pos rfl] at hown
  refine ⟨by rw [huh, if_pos rfl, hrej], by rw [hown]; exact hmem, by rw [hown]; exact hwin, ?_, fun d hd => ?_,
    fun d hd => (huh d).trans (if_neg hd), ?_⟩
  · rw [hnet, hframe]
  · exact (hput.others d hd).trans ((huc d).trans (if_neg hd))
  · have hth : t.health = u.health := by rw [hnet]
    have htn : t.net = u.net ++ (responsePacket s c sm sc 4 3 ch tag none).toList := by rw [hnet]
    rw [hth, htn]
    exact hnet.trans (congrArg (fun y : State => { y with
      cores := t.cores, net := u.net ++ (responsePacket s c sm sc 4 3 ch tag none).toList, transit := t.transit }) hframe)

/-! ### Rows admitted -/

/-- The window of a core after an admitted row. -/
theorem countRow_window (k : Core) (win : Nat) (bad : Bool) :
    (tget {} (countRow k win bad).windows win).left = (tget {} k.windows win).left - 1
      ∧ ((tget {} (countRow k win bad).windows win).armed = true ↔ (tget {} k.windows win).left ≠ 1)
      ∧ SameBut {} k.windows (countRow k win bad).windows win
      ∧ ((tget {} k.windows win).left = 1 → ∀ e ∈ (countRow k win bad).iss.sb, e.party ≠ .window win) := by
  refine ⟨?_, ?_, fun n hn => ?_, fun hl e he => ?_⟩
  · simp [countRow]
  · simp [countRow]
  · simp [countRow, tget_tput, hn]
  · simp only [countRow, hl, decide_true, if_true, List.mem_filter, bne_iff_ne] at he
    exact he.2

/-- REMOTE_ROW_ARRIVAL at a window that admits the row, once the bank port serves it. -/
theorem State.rowArrives_admitted (s : State) (c sm sc ch tag row w : Nat) (data : Row) (ha : answers s c = true)
    (hw : takingWindow (s.core c) 1 (sm, sc, ch, tag) row = some w) (hd : data.bytes.length = 512) (hwait : remoteWaits s c 1 = false) :
    let t := s.rowArrives c (sm, sc, ch, tag) row data
    WroteBytes s.pad t.pad (padAt c row) data.bytes
      ∧ (tget {} (t.core c).windows w).left = (tget {} (s.core c).windows w).left - 1
      ∧ ((tget {} (t.core c).windows w).armed = true ↔ (tget {} (s.core c).windows w).left ≠ 1)
      ∧ ((tget {} (s.core c).windows w).left = 1 → ∀ e ∈ (t.core c).iss.sb, e.party ≠ .window w)
      ∧ t.net = s.net ++ (responsePacket s c sm sc 3 3 ch tag none).toList
      ∧ SameBut {} (s.core c).windows (t.core c).windows w ∧ SameBut {} s.cores t.cores c ∧ SameBut {} s.health t.health c
      ∧ t = { s with cores := t.cores, health := t.health, pad := t.pad, marks := t.marks, net := t.net, transit := t.transit } := by
  obtain ⟨hleft, harmed, hsame, hsb⟩ := countRow_window (s.core c) w (!data.poison.isEmpty)
  obtain ⟨k, hk, hkw, hki⟩ : ∃ k : Core, (countRow (s.core c) w (!data.poison.isEmpty)).takePort s.now 1 (remoteAt s c 1) 1 = k
    ∧ k.windows = (countRow (s.core c) w (!data.poison.isEmpty)).windows
    ∧ k.iss = (countRow (s.core c) w (!data.poison.isEmpty)).iss := ⟨_, rfl, rfl, rfl⟩
  have hst := Stored.writeRow c s row data
  have hbyte : ∀ x, readByte (s.writeRow c row data).pad x
      = if padAt c row ≤ x ∧ x < padAt c row + 512 then data.bytes[x - padAt c row]? else readByte s.pad x :=
    fun x => s.writeRow_byte c row x data hd
  have hframe : s.writeRow c row data = { s with
      health := (s.writeRow c row data).health, pad := (s.writeRow c row data).pad, marks := (s.writeRow c row data).marks } := by
    unfold State.writeRow State.rowWritten
    dsimp only
    split <;> rfl
  have e : s.rowArrives c (sm, sc, ch, tag) row data = ((s.writeRow c row data).setCore c k).injectSome c
      (responsePacket ((s.writeRow c row data).setCore c k) c sm sc 3 3 ch tag none) := by
    have hcore : (s.writeRow c row data).core c = s.core c := by unfold State.core; rw [hst.cores]
    unfold State.rowArrives
    rw [if_neg (by simp [ha]), hw]
    dsimp only
    rw [if_neg (by simp [hwait]), hcore, hk]
  intro t
  obtain ⟨v, hv⟩ : ∃ v, s.writeRow c row data = v := ⟨_, rfl⟩
  rw [hv] at e hbyte hframe hst
  obtain ⟨u, hu⟩ : ∃ u, v.setCore c k = u := ⟨_, rfl⟩
  rw [hu] at e
  have huf : u = { s with cores := u.cores, health := u.health, pad := u.pad, marks := u.marks } := by
    rw [← hu]
    exact congrArg (fun y : State => { y with cores := tput {} v.cores c k }) hframe
  have huc : ∀ d, u.core d = if d = c then k else s.core d := fun d => by
    rw [← hu, State.setCore_core]
    unfold State.core
    rw [hst.cores]
  have hup : u.pad = v.pad := by rw [← hu, State.setCore_pad]
  have huh : ∀ d, d ≠ c → u.heal d = s.heal d := fun d hd => by rw [← hu, State.setCore_heal]; exact hst.heal d hd
  have hnet := u.injectSome_response c (u := u) (c' := c) (sm := sm) (sc := sc) (type := 3) (vc := 3) (ch := ch) (tag := tag)
    (data := none) (by decide)
  have hput := PutOut.injectSome c u (responsePacket u c sm sc 3 3 ch tag none)
  rw [responsePacket_congr c sm sc 3 3 ch tag none huf] at e hnet hput
  have ht : u.injectSome c (responsePacket s c sm sc 3 3 ch tag none) = t := e.symm
  clear_value t
  rw [ht] at hnet hput
  have hown := hput.own
  rw [huc, if_pos rfl] at hown
  have htw : (t.core c).windows = (countRow (s.core c) w (!data.poison.isEmpty)).windows := by rw [hown]; exact hkw
  have hti : (t.core c).iss = (countRow (s.core c) w (!data.poison.isEmpty)).iss := by rw [hown]; exact hki
  have hth : t.health = u.health := by rw [hnet]
  have htn : t.net = u.net ++ (responsePacket s c sm sc 3 3 ch tag none).toList := by rw [hnet]
  have hun : u.net = s.net := by rw [huf]
  refine ⟨fun x => ?_, by rw [htw]; exact hleft, by rw [htw]; exact harmed, by rw [hti]; exact hsb, by rw [htn, hun],
    by rw [htw]; exact hsame, fun d hd => ?_, fun d hd => ?_, ?_⟩
  · rw [hput.pad, hup, hbyte, hd]
  · exact (hput.others d hd).trans ((huc d).trans (if_neg hd))
  · show t.heal d = s.heal d
    unfold State.heal
    rw [hth]; exact huh d hd
  · rw [hth, htn, hput.pad, hput.marks]
    exact hnet.trans (congrArg (fun y : State => { y with
      cores := t.cores, net := u.net ++ (responsePacket s c sm sc 3 3 ch tag none).toList, transit := t.transit }) huf)

/-- A core that answers nothing turns the row or the request back. -/
theorem State.turnBack_frame (s : State) (c sm sc ch tag : Nat) :
    s.turnBack c (sm, sc, ch, tag) = { s with
      cores := (s.turnBack c (sm, sc, ch, tag)).cores, net := s.net ++ (responsePacket s c sm sc 4 3 ch tag none).toList
      transit := (s.turnBack c (sm, sc, ch, tag)).transit } :=
  s.injectSome_response c (by decide)

/-! ### Requests admitted -/

/-- With channels 0 and 1 at rest, no high-priority packet is ready. -/
theorem highReady_of_rest {k : Core} (port t : Nat) (h : ∀ n, n < 2 → (k.chan n).state ≠ .active) : highReady k port t = false := by
  unfold highReady
  rw [List.any_eq_false]
  intro ch hch
  have : nextActs k ch = [] := by
    unfold nextActs
    rw [if_pos (h ch (List.mem_range.1 hch))]
  simp [this]

/-- A read response that waits alone goes out, unless channel 0 or 1 comes before it. -/
theorem State.sendResponses_alone {s : State} {c ready : Nat} {p : NetPacket} (hq : (s.core c).responses = [(ready, p)])
    (ht : netType p.header ≤ 4) (ha : ∀ a, p.address = some a → a.toNat / 2 ^ 47 % 8 = 0) :
    ((s.sendResponses c).net = s.net ++ [p]
        ∨ (s.sendResponses c).net = s.net ∧ ((s.sendResponses c).core c).responses = [(ready, p)])
      ∧ ((∀ n, n < 2 → ((s.core c).chan n).state ≠ .active) → (s.sendResponses c).net = s.net ++ [p]) := by
  have e : s.sendResponses c = s.sendResponse c := by unfold State.sendResponses; rw [hq]; rfl
  obtain ⟨t, hpt⟩ : ∃ t, (s.core c).portAt 2 (max s.now ready) 4 = t := ⟨_, rfl⟩
  obtain ⟨u, hu, hun⟩ : ∃ u, s.setCore c (({ s.core c with responses := [] } : Core).takePort s.now 2 t 4) = u ∧ u.net = s.net :=
    ⟨_, rfl, State.setCore_net ..⟩
  have hgo : highReady (s.core c) 2 t = false → (s.sendResponse c).net = s.net ++ [p] := fun hh => by
    have : s.sendResponse c = u.inject c p := by
      unfold State.sendResponse
      dsimp only
      rw [hq]
      dsimp only
      rw [hpt, if_neg (by simp [hh]), hu]
    rw [this, u.inject_home c p ht ha, hun]
  rw [e]
  refine ⟨?_, fun h => hgo (highReady_of_rest 2 t h)⟩
  cases hh : highReady (s.core c) 2 t with
  | false => exact Or.inl (hgo hh)
  | true =>
    have : s.sendResponse c = s := by
      unfold State.sendResponse
      dsimp only
      rw [hq]
      dsimp only
      rw [hpt, if_pos hh]
    rw [this]
    exact Or.inr ⟨rfl, hq⟩

/-- The core of an admitted request: its window has counted the row, and its answer waits for the injection port. -/
def Core.answering (k : Core) (w now t : Nat) (back : Option NetPacket) : Core :=
  { (countRow k w false).takePort now 0 t 1 with
    responses := ((countRow k w false).takePort now 0 t 1).responses ++ (back.map (fun p => (t + 5, p))).toList }

/-- REMOTE_READ_REQUEST at a window that admits it, once the bank port serves it. -/
theorem execRemoteReadRequest_admitted (s : State) (c sm sc vc ch tag row w : Nat) (hc : coreExists s c = true)
    (ha : answers s c = true) (hw : takingWindow (s.core c) 2 (sm, sc, ch, tag) row = some w) (hwait : remoteWaits s c 0 = false) :
    let back := (responsePacket s c sm sc 2 vc ch tag (some (readRow s c row))).toList
    ∃ t, exec (.remoteReadRequest c sm sc ⟨vc, ch, tag⟩ row) s = .next t
      ∧ t.link = some (readRow s c row) ∧ t.pad = s.pad ∧ t.marks = s.marks
      ∧ ((s.core c).responses = [] → t.net = s.net ++ back
          ∨ t.net = s.net ∧ (t.core c).responses = back.map (fun p => (remoteAt s c 0 + 5, p)))
      ∧ ((s.core c).responses = [] → (∀ n, n < 2 → ((s.core c).chan n).state ≠ .active) → t.net = s.net ++ back)
      ∧ (tget {} (t.core c).windows w).left = (tget {} (s.core c).windows w).left - 1
      ∧ SameBut {} (s.core c).windows (t.core c).windows w ∧ SameBut {} s.cores t.cores c := by
  intro back
  obtain ⟨hleft, -, hsame, -⟩ := countRow_window (s.core c) w false
  obtain ⟨k, hk, hkw, hkr, hkc⟩ : ∃ k : Core,
      (s.core c).answering w s.now (remoteAt s c 0) (responsePacket s c sm sc 2 vc ch tag (some (readRow s c row))) = k
    ∧ k.windows = (countRow (s.core c) w false).windows
    ∧ k.responses = (s.core c).responses ++ back.map (fun p => (remoteAt s c 0 + 5, p))
    ∧ ∀ n, k.chan n = (s.core c).chan n := by
    refine ⟨_, rfl, rfl, ?_, fun _ => rfl⟩
    simp only [back]
    cases responsePacket s c sm sc 2 vc ch tag (some (readRow s c row)) <;> rfl
  obtain ⟨u, hu⟩ : ∃ u, s.setCore c k = u := ⟨_, rfl⟩
  have hnoted := Noted.noteRows c u row 1
  obtain ⟨v, hv⟩ : ∃ v, (u.noteRows c row 1).bump = v := ⟨_, rfl⟩
  have hex : exec (.remoteReadRequest c sm sc ⟨vc, ch, tag⟩ row) s
      = .next { v.sendResponses c with link := some (readRow s c row) } := by
    refine (onCore_exists _ hc).trans (congrArg Host.Outcome.next ?_)
    rw [← hv, ← hu, ← hk]
    dsimp only
    rw [if_neg (by simp [ha]), hw]
    dsimp only
    rw [if_neg (by simp [hwait])]
    rfl
  have huc : ∀ d, u.core d = if d = c then k else s.core d := fun d => by rw [← hu, State.setCore_core]
  have hvc : ∀ d, v.core d = (u.noteRows c row 1).core d := fun d => by rw [← hv, State.bump_core]
  have hvo : ∀ d, d ≠ c → v.core d = s.core d := fun d hd => by rw [hvc, (hnoted.others d hd).1, huc, if_neg hd]
  have hvown : v.core c = { k with firstFault := (v.core c).firstFault, laterFaults := (v.core c).laterFaults } := by
    conv_lhs => rw [hvc, hnoted.own, huc, if_pos rfl]
    rw [hvc]
  have hvn : v.net = s.net := by
    rw [← hv, State.bump_net, show (u.noteRows c row 1).net = u.net by rw [hnoted.rest], ← hu, State.setCore_net]
  have hvp : v.pad = s.pad := by rw [← hv, State.bump_pad, hnoted.pad, ← hu, State.setCore_pad]
  have hvm : v.marks = s.marks := by rw [← hv, State.bump_marks, hnoted.marks, ← hu, State.setCore_marks]
  have hvr : (s.core c).responses = [] → (v.core c).responses = back.map (fun p => (remoteAt s c 0 + 5, p)) := fun h0 => by
    rw [hvown]; exact hkr.trans (by rw [h0, List.nil_append])
  have hvch : ∀ n, (v.core c).chan n = (s.core c).chan n := fun n => by rw [hvown]; exact hkc n
  have hput := PutOut.sendResponses c v
  have hout : (s.core c).responses = [] → ((v.sendResponses c).net = s.net ++ back
        ∨ (v.sendResponses c).net = s.net
          ∧ ((v.sendResponses c).core c).responses = back.map (fun p => (remoteAt s c 0 + 5, p)))
      ∧ ((∀ n, n < 2 → ((s.core c).chan n).state ≠ .active) → (v.sendResponses c).net = s.net ++ back) := fun h0 => by
    have hr := hvr h0
    cases hb : responsePacket s c sm sc 2 vc ch tag (some (readRow s c row)) with
    | none =>
      have hback : back = [] := by simp only [back, hb, Option.toList]
      rw [hback] at hr ⊢
      have hnone : v.sendResponses c = v := by unfold State.sendResponses; rw [hr]; rfl
      rw [hnone, hvn]
      exact ⟨Or.inl (List.append_nil _).symm, fun _ => (List.append_nil _).symm⟩
    | some p =>
      have hback : back = [p] := by simp only [back, hb, Option.toList]
      rw [hback] at hr ⊢
      obtain ⟨h1, h2⟩ := responsePacket_home hb (by decide)
      have := State.sendResponses_alone (s := v) hr h1 h2
      rw [hvn] at this
      exact ⟨this.1, fun h => this.2 fun n hn => by rw [hvch]; exact h n hn⟩
  obtain ⟨t, ht⟩ : ∃ t, v.sendResponses c = t := ⟨_, rfl⟩
  rw [ht] at hex hput hout
  have htw : (t.core c).windows = (countRow (s.core c) w false).windows := by rw [hput.windows, hvown]; exact hkw
  exact ⟨_, hex, rfl, hput.pad.trans hvp, hput.marks.trans hvm, fun h0 => (hout h0).1, fun h0 => (hout h0).2,
    (congrArg (fun m => (tget {} m w).left) htw).trans hleft, fun n hn => (congrArg (fun m => tget {} m n) htw).trans (hsame n hn),
    fun d hd => (hput.others d hd).trans (hvo d hd)⟩

/-! ### Window writes and segment loads -/

/-- The cores of a set after their stores are loaded: each has the segment, and no other core has changed. -/
theorem foldl_loadSegment (x : Nat) (seg : Segment) (rows : List Nat) (s : State) :
    let t := rows.foldl (fun (t : State) y => t.loadSegment (y * 192 + x) seg) s
    (∀ y ∈ rows, t.core (y * 192 + x) = { s.core (y * 192 + x) with
        bundles := seg.bundles, ranges := seg.ranges, descs := seg.descs, branch := seg.branch
        participates := seg.participates, entry := seg.entry, storeBad := [] })
      ∧ (∀ d, (∀ y ∈ rows, d ≠ y * 192 + x) → t.core d = s.core d) ∧ t = { s with cores := t.cores } := by
  induction rows generalizing s with
  | nil => exact ⟨fun y hy => absurd hy List.not_mem_nil, fun _ _ => rfl, rfl⟩
  | cons y rows ih =>
    rw [List.foldl_cons]
    obtain ⟨u, hu⟩ : ∃ u, s.loadSegment (y * 192 + x) seg = u := ⟨_, rfl⟩
    have huc : ∀ d, u.core d = if d = y * 192 + x then { s.core (y * 192 + x) with
        bundles := seg.bundles, ranges := seg.ranges, descs := seg.descs, branch := seg.branch
        participates := seg.participates, entry := seg.entry, storeBad := [] } else s.core d := fun d => by
      rw [← hu, State.loadSegment, State.setCore_core]
    have huf : u = { s with cores := u.cores } := by rw [← hu]; rfl
    rw [hu]
    obtain ⟨h1, h2, h3⟩ := ih u
    generalize List.foldl _ u rows = t at h1 h2 h3 ⊢
    refine ⟨fun z hz => ?_, fun d hd => ?_, by conv_lhs => rw [h3, huf]⟩
    · by_cases hzr : z ∈ rows
      · rw [h1 z hzr, huc]
        split
        next he => rw [he]
        next => rfl
      · obtain rfl : z = y := (List.mem_cons.1 hz).resolve_right hzr
        rw [h2 _ (fun y' hy' he => hzr (by rwa [show z = y' by omega])), huc, if_pos rfl]
    · rw [h2 d (fun y' hy' => hd y' (List.mem_cons_of_mem _ hy')), huc, if_neg (hd y List.mem_cons_self)]

/-- STORE_LOAD of a set of cores of one column. -/
theorem execStoreLoad_loads (s : State) (x : Nat) (rows : List Nat) (seg : Segment) (p : Nat) (hx : columnExists s x = true)
    (hrows : ∀ y ∈ rows, y < 144) (hp : s.partOfColumn (x / 24) = some p) :
    exec (.storeLoad ⟨x, rows⟩ seg) s = .next (if loadable s p
      then (rows.foldl (fun (t : State) y => t.loadSegment (y * 192 + x) seg) s).answer stOk else s.answer stState) := by
  have hlt : x < 192 := by
    unfold columnExists at hx
    simp only [Bool.and_eq_true, decide_eq_true_eq] at hx
    exact hx.1
  have hall : rows.all (fun y => coreExists s (y * 192 + x)) = true := List.all_eq_true.2 fun y hy => by
    have hy' := hrows y hy
    unfold coreExists
    rw [show (y * 192 + x) % 192 = x by omega, hx, Bool.and_true, decide_eq_true_eq]
    omega
  refine (if_pos hall).trans ((if_pos hx).trans (congrArg Host.Outcome.next ?_))
  rw [hp]

/-- Settles O9: rows and requests at a window that admits them, refuses them, or does not answer; window writes and segment loads. -/
theorem windowsAdmitRowsAndLoad : Obligations.WindowsAdmitRowsAndLoad := by
  refine ⟨fun s c sm sc ch tag row data w hc ha hw hd => ⟨fun hwait => ?rowWaits, fun hwait => ?rowTaken⟩,
    fun s c sm sc ch tag row data hc ha hw => ?rowRefused,
    fun s c sm sc vc ch tag row w hc ha hw => ⟨fun hwait => ?askWaits, fun hwait => ?askTaken⟩,
    fun s c sm sc vc ch tag row hc ha hw => ?askRefused, fun s c sm sc vc ch tag row data hc ha => ?silent,
    fun s cl p c win map hp hs hm hwin hc hpart harm hmarks => ?setNow, fun s cl p c win map hp hs hm hwin hc hpart harm hmarks => ?setLater,
    fun s x rows seg p hx hrows hp => ⟨fun hl => ?load, fun hl => ?noLoad⟩⟩
  case rowWaits =>
    rw [exec_remoteRowArrival s c sm sc ch tag row data hc]
    unfold State.rowArrives
    rw [if_neg (by simp [ha]), hw]
    dsimp only
    rw [if_pos hwait]
  case rowTaken =>
    exact ⟨_, exec_remoteRowArrival s c sm sc ch tag row data hc, s.rowArrives_admitted c sm sc ch tag row w data ha hw hd hwait⟩
  case rowRefused =>
    refine ⟨_, exec_remoteRowArrival s c sm sc ch tag row data hc, ?_⟩
    have : s.rowArrives c (sm, sc, ch, tag) row data = s.rejectRow c (sm, sc, ch, tag) := by
      unfold State.rowArrives
      rw [if_neg (by simp [ha]), hw]
    rw [this]
    exact s.rejectRow_turnsAway c sm sc ch tag
  case askWaits =>
    refine (onCore_exists _ hc).trans (congrArg Host.Outcome.next ?_)
    dsimp only
    rw [if_neg (by simp [ha]), hw]
    dsimp only
    rw [if_pos hwait]
  case askTaken => exact execRemoteReadRequest_admitted s c sm sc vc ch tag row w hc ha hw hwait
  case askRefused =>
    have hex : exec (.remoteReadRequest c sm sc ⟨vc, ch, tag⟩ row) s = .next (s.rejectRow c (sm, sc, ch, tag)) := by
      refine (onCore_exists _ hc).trans (congrArg Host.Outcome.next ?_)
      dsimp only
      rw [if_neg (by simp [ha]), hw]
    have h := s.rejectRow_turnsAway c sm sc ch tag
    refine ⟨_, hex, ?_, h⟩
    obtain ⟨-, -, -, -, -, -, hf⟩ := h
    rw [hf]
  case silent =>
    have h1 : exec (.remoteRowArrival c sm sc ⟨ch, tag⟩ row data) s = .next (s.turnBack c (sm, sc, ch, tag)) := by
      rw [exec_remoteRowArrival s c sm sc ch tag row data hc]
      unfold State.rowArrives
      rw [if_pos (by simp [ha])]
    have h2 : exec (.remoteReadRequest c sm sc ⟨vc, ch, tag⟩ row) s = .next (s.turnBack c (sm, sc, ch, tag)) := by
      refine (onCore_exists _ hc).trans (congrArg Host.Outcome.next ?_)
      dsimp only
      rw [if_pos (by simp [ha])]
    have hf := s.turnBack_frame c sm sc ch tag
    obtain ⟨t, ht⟩ : ∃ t, s.turnBack c (sm, sc, ch, tag) = t := ⟨_, rfl⟩
    rw [ht] at h1 h2 hf
    have hn : t.net = s.net ++ (responsePacket s c sm sc 4 3 ch tag none).toList := by rw [hf]
    exact ⟨t, h1, h2, hn, by rw [hn]; exact hf⟩
  case setNow =>
    obtain ⟨k, hk, hkw⟩ : ∃ k : Core, { s.core c with windows := tput {} (s.core c).windows win { tget {} (s.core c).windows win with
        map := map, armed := false, left := 0, closedSinceLoad := decide (winDir map = 0) } } = k
      ∧ ∀ n, tget {} k.windows n = if n = win then { tget {} (s.core c).windows win with
        map := map, armed := false, left := 0, closedSinceLoad := decide (winDir map = 0) } else tget {} (s.core c).windows n :=
      ⟨_, rfl, fun n => tget_tput ({} : Window) _ _ _ _⟩
    have hdo : doWindowSet p c win map s.asked = (s.asked.setCore c k, stOk) := by
      have h1 : (!winMapOk map || decide (15 < win) || !coreExists s.asked c || decide (s.asked.partOfCore c ≠ some p)) = false := by
        have h2 : coreExists s.asked c = true := hc
        have h3 : s.asked.partOfCore c = some p := hpart
        simp [hm, h2, h3, Nat.not_lt.2 hwin]
      unfold doWindowSet
      rw [if_neg (by rw [h1]; decide), if_neg (by rw [show (tget {} (s.asked.core c).windows win).armed = false from harm]; decide),
        if_neg (by rw [show (s.asked.part p).marks = false from hmarks]; decide), ← hk]
      rfl
    have hex : exec (.windowSet cl p c win map) s = .next ((s.asked.setCore c k).answer stOk) := by
      refine (if_pos hp).trans (congrArg Host.Outcome.next ?_)
      rw [State.command_served _ hs, hdo]
    have hcore : ∀ d, ((s.asked.setCore c k).answer stOk).core d = if d = c then k else s.core d := fun d => by
      rw [State.answer_core, State.setCore_core]; rfl
    refine ⟨_, hex, rfl, ?_, fun n hn => ?_, fun d hd => (hcore d).trans (if_neg hd), rfl⟩
    · rw [hcore, if_pos rfl, hkw, if_pos rfl]
    · rw [hcore, if_pos rfl, hkw, if_neg hn]
  case setLater =>
    obtain ⟨ct, hct, hsets⟩ : ∃ ct : PartControl, { s.ctlOf p with windowSets := (s.ctlOf p).windowSets ++ [(c, win, map)] } = ct
      ∧ ct.windowSets = (s.ctlOf p).windowSets ++ [(c, win, map)] := ⟨_, rfl, rfl⟩
    have hdo : doWindowSet p c win map s.asked = (s.asked.setCtl p ct, stOk) := by
      have h1 : (!winMapOk map || decide (15 < win) || !coreExists s.asked c || decide (s.asked.partOfCore c ≠ some p)) = false := by
        have h2 : coreExists s.asked c = true := hc
        have h3 : s.asked.partOfCore c = some p := hpart
        simp [hm, h2, h3, Nat.not_lt.2 hwin]
      unfold doWindowSet
      rw [if_neg (by rw [h1]; decide), if_neg (by rw [show (tget {} (s.asked.core c).windows win).armed = false from harm]; decide),
        if_pos (show (s.asked.part p).marks = true from hmarks), ← hct]
      rfl
    have hex : exec (.windowSet cl p c win map) s = .next ((s.asked.setCtl p ct).answer stOk) := by
      refine (if_pos hp).trans (congrArg Host.Outcome.next ?_)
      rw [State.command_served _ hs, hdo]
    have hctl : ∀ q, ((s.asked.setCtl p ct).answer stOk).ctlOf q = if q = p then ct else s.ctlOf q := fun q => by
      rw [State.answer_ctlOf, State.setCtl_ctlOf]; rfl
    exact ⟨_, hex, rfl, by rw [hctl, if_pos rfl, hsets], fun q hq => (hctl q).trans (if_neg hq), rfl⟩
  case load =>
    have hex := execStoreLoad_loads s x rows seg p hx hrows hp
    rw [if_pos hl] at hex
    obtain ⟨h1, h2, h3⟩ := foldl_loadSegment x seg rows s
    obtain ⟨t, ht⟩ : ∃ t, rows.foldl (fun (t : State) y => t.loadSegment (y * 192 + x) seg) s = t := ⟨_, rfl⟩
    rw [ht] at hex h3
    simp only [ht] at h1 h2
    exact ⟨_, hex, h1, h2, rfl, congrArg (fun y : State => { y with resp := (t.answer stOk).resp }) h3⟩
  case noLoad =>
    have hex := execStoreLoad_loads s x rows seg p hx hrows hp
    rw [if_neg (by simp [hl])] at hex
    exact ⟨_, hex, rfl, rfl⟩

end Sys2Proof.Machine
end

section
/-! SUPPORT. The beginning of a descriptor and the row actions of a channel (R44, R45, R108, R109, R136-R144). -/

namespace Sys2Proof.Machine

/-! ### Channels of a core -/

theorem Core.putChan_chan (k : Core) (ch n : Nat) (v : Channel) : (k.putChan ch v).chan n = if n = ch then v else k.chan n :=
  tget_tput ({} : Channel) k.chans ch n v

/-- Waking a core that waits for a channel touches its wait and its next issue alone. -/
theorem wakeDma_eq (k : Core) (ch now : Nat) :
    wakeDma k ch now = { k with wait := (wakeDma k ch now).wait, nextIssue := (wakeDma k ch now).nextIssue } := by
  unfold wakeDma; split <;> rfl

theorem coreElastic_advance (s : State) (n c : Nat) : coreElastic (s.advance n) c = coreElastic s c := rfl

/-! ### DESCRIPTOR_BEGIN -/

/-- A channel whose descriptor has begun at a cycle (R137). -/
def Channel.begun (v : Channel) (s : State) (c : Nat) (pd : Pending) (at' : Nat) : Channel :=
  { v with
    state := .active, desc := pd.desc, idx := pd.idx, rowsRead := 0, rowsSent := 0, rowsDone := 0, owed := 0
    resultOwed := false, resultDone := false, staging := [], ready := [], check := checkInit pd.desc, poison := false
    rejected := none, target := tagTarget s c pd.desc, since := at', flight := [], doneAt := none
    tag := (v.tag + 1) % 4096, lastDone := at' }

/-- The core after a pending descriptor has begun at a cycle. -/
def Core.begun (k : Core) (s : State) (c ch : Nat) (pd : Pending) (at' : Nat) : Core :=
  { k.putChan ch ((k.chan ch).begun s c pd at') with
    iss := { k.iss with pend := tput none k.iss.pend ch none, sb := k.iss.sb ++ descEntries pd.desc ch k.iss.serial
                        serial := k.iss.serial + 1 }
    lastBegin := some at' }

theorem Core.begun_chan (k : Core) (s : State) (c ch n : Nat) (pd : Pending) (at' : Nat) :
    (k.begun s c ch pd at').chan n = if n = ch then (k.chan ch).begun s c pd at' else k.chan n :=
  Core.putChan_chan k ch n ((k.chan ch).begun s c pd at')

section
variable {s : State} {c ch : Nat} {pd : Pending} (hc : coreExists s c = true) (ha : answers s c = true)
  (hpend : tget none (s.core c).iss.pend ch = some pd)
include hc ha hpend

omit ha in
/-- A descriptor whose bundle comes first, or that was refused before, does not begin. -/
theorem execDescriptorBegin_waits (h : bundleDue s c (max s.now ((s.core c).beginAt pd)) = true ∨ pd.refused = true) :
    exec (.descriptorBegin c ch) s = .next s := by
  refine (onCore_exists _ hc).trans (congrArg Host.Outcome.next ?_)
  dsimp only
  rw [hpend]
  have hnow : (s.advance ((s.core c).beginAt pd)).now = max s.now ((s.core c).beginAt pd) := rfl
  dsimp only
  rw [hnow]
  rw [if_pos]
  rcases h with h | h <;> simp [h]

/-- The checks that a descriptor meets once nothing comes before it. -/
theorem execDescriptorBegin_checked (hsnap : (s.core c).snap = none) (hidle : ((s.core c).chan ch).state = .idle)
    (hdue : bundleDue s c (max s.now ((s.core c).beginAt pd)) = false) (href : pd.refused = false)
    (hfirst : ∀ n, n < ch → takesBegin (s.core c) (max s.now ((s.core c).beginAt pd)) n = false) :
    exec (.descriptorBegin c ch) s = .next (
      let s1 := s.advance ((s.core c).beginAt pd)
      if !descInRange pd.desc then s1.rejectDesc c ch pd 2
      else if !descAligned pd.desc then s1.rejectDesc c ch pd 1
      else
        match checkSb (s.core c).iss.sb [] (descEntries pd.desc ch (s.core c).iss.serial) with
        | .clear => s1.setCore c ((s.core c).begun s c ch pd s1.now)
        | .full => s1.heldBegin c ch pd .sbFull
        | _ => s1.heldBegin c ch pd .sbHazard) := by
  refine (onCore_exists _ hc).trans (congrArg Host.Outcome.next ?_)
  have hnow : (s.advance ((s.core c).beginAt pd)).now = max s.now ((s.core c).beginAt pd) := rfl
  have hany : (List.range ch).any (takesBegin (s.core c) (max s.now ((s.core c).beginAt pd))) = false := by
    rw [List.any_eq_false]
    intro n hn
    rw [hfirst n (List.mem_range.1 hn)]; decide
  dsimp only
  rw [hpend]
  dsimp only
  rw [hnow, if_neg (by simp [hsnap, hidle, ha, href, hdue]), if_neg (by simp [hany])]
  rfl

end

/-- A rejected descriptor: its status word says which check it failed, and it never begins (R137, R145). -/
theorem State.rejectDesc_rejects (u : State) (c ch : Nat) (pd : Pending) (n : Nat) (hidle : ((u.core c).chan ch).state = .idle) :
    let t := u.rejectDesc c ch pd n
    ((t.core c).chan ch).status = statusWord pd.idx n false 0 0
      ∧ ((t.core c).chan ch).state = .idle ∧ (t.core c).lastBegin = some u.now
      ∧ ((t.core c).chan ch).rejectedCount = min 65535 (((u.core c).chan ch).rejectedCount + 1)
      ∧ tget none (t.core c).iss.pend ch = none ∧ (t.core c).iss.sb = (u.core c).iss.sb
      ∧ SameBut {} (u.core c).chans (t.core c).chans ch ∧ SameBut {} u.cores t.cores c
      ∧ (∀ p, u.partOfCore c ≠ some p → t.ctlOf p = u.ctlOf p) ∧ (descTag pd.desc = 0xFFF → t.ctl = u.ctl)
      ∧ t.now = u.now ∧ t = { u with cores := t.cores, ctl := t.ctl } := by
  obtain ⟨v, hv, hst, hidle', hcnt⟩ : ∃ v : Channel, { (u.core c).chan ch with
      status := statusWord pd.idx n false 0 0, rejectedCount := satAdd 16 ((u.core c).chan ch).rejectedCount 1 } = v
      ∧ v.status = statusWord pd.idx n false 0 0 ∧ v.state = .idle
      ∧ v.rejectedCount = min 65535 (((u.core c).chan ch).rejectedCount + 1) := ⟨_, rfl, rfl, hidle, rfl⟩
  obtain ⟨k1, hk1, hch1, hlb1, hp1, hsb1⟩ : ∃ k1 : Core, { (u.core c).putChan ch v with
      iss := { (u.core c).iss with pend := tput none (u.core c).iss.pend ch none }, lastBegin := some u.now } = k1
      ∧ (∀ m, k1.chan m = if m = ch then v else (u.core c).chan m) ∧ k1.lastBegin = some u.now
      ∧ tget none k1.iss.pend ch = none ∧ k1.iss.sb = (u.core c).iss.sb :=
    ⟨_, rfl, fun m => Core.putChan_chan _ _ _ _, rfl, by simp, rfl⟩
  have hw := wakeDma_eq k1 ch u.now
  obtain ⟨k, hk⟩ : ∃ k, wakeDma k1 ch u.now = k := ⟨_, rfl⟩
  rw [hk] at hw
  have hch : ∀ m, k.chan m = if m = ch then v else (u.core c).chan m := fun m => by rw [hw]; exact hch1 m
  have hlb : k.lastBegin = some u.now := by rw [hw]; exact hlb1
  have hp : tget none k.iss.pend ch = none := by rw [hw]; exact hp1
  have hsb : k.iss.sb = (u.core c).iss.sb := by rw [hw]; exact hsb1
  have key : ∀ t : State, (∀ d, t.core d = if d = c then k else u.core d) →
      ((t.core c).chan ch).status = statusWord pd.idx n false 0 0
      ∧ ((t.core c).chan ch).state = .idle ∧ (t.core c).lastBegin = some u.now
      ∧ ((t.core c).chan ch).rejectedCount = min 65535 (((u.core c).chan ch).rejectedCount + 1)
      ∧ tget none (t.core c).iss.pend ch = none ∧ (t.core c).iss.sb = (u.core c).iss.sb
      ∧ SameBut {} (u.core c).chans (t.core c).chans ch ∧ SameBut {} u.cores t.cores c := fun t ht => by
    have hkc : t.core c = k := by rw [ht, if_pos rfl]
    rw [hkc]
    exact ⟨by rw [hch, if_pos rfl, hst], by rw [hch, if_pos rfl, hidle'], hlb, by rw [hch, if_pos rfl, hcnt], hp, hsb,
      fun m hm => (hch m).trans (if_neg hm), fun d hd => (ht d).trans (if_neg hd)⟩
  have hset : ∀ d, (u.setCore c k).core d = if d = c then k else u.core d := fun d => State.setCore_core ..
  have hcase : u.rejectDesc c ch pd n = u.setCore c k
      ∨ descTag pd.desc ≠ 0xFFF ∧ ∃ p ct, u.partOfCore c = some p ∧ u.rejectDesc c ch pd n = (u.setCore c k).setCtl p ct := by
    unfold State.rejectDesc
    dsimp only
    rw [hv, hk1, hk]
    split
    next p hp =>
      split
      next he =>
        refine Or.inr ⟨fun htag => ?_, p, _, hp, rfl⟩
        unfold tagEarly tagTarget at he
        rw [if_pos htag] at he
        cases he
      next => exact Or.inl rfl
    next => exact Or.inl rfl
  intro t
  rcases hcase with e | ⟨htag, p, ct, hp', e⟩
  · obtain ⟨h1, h2, h3, h4, h5, h6, h7, h8⟩ := key (u.setCore c k) hset
    have : t = u.setCore c k := e
    rw [this]
    exact ⟨h1, h2, h3, h4, h5, h6, h7, h8, fun _ _ => rfl, fun _ => rfl, rfl, rfl⟩
  · obtain ⟨h1, h2, h3, h4, h5, h6, h7, h8⟩ := key ((u.setCore c k).setCtl p ct) (fun d => (State.setCtl_core ..).trans (hset d))
    have : t = (u.setCore c k).setCtl p ct := e
    rw [this]
    refine ⟨h1, h2, h3, h4, h5, h6, h7, h8, fun q hq => ?_, fun h => absurd h htag, rfl, rfl⟩
    rw [State.setCtl_ctlOf, if_neg (fun h => hq (by rw [hp', h])), State.setCore_ctlOf]

/-- A descriptor that is held in STRICT mode stops its core and does not issue later (R44). -/
theorem State.heldBegin_stops (u : State) (c ch : Nat) (pd : Pending) (x : Cause) (he : coreElastic u c = false) :
    let t := u.heldBegin c ch pd x
    (t.core c).wait = .stopped ∧ (t.core c).chans = (u.core c).chans
      ∧ (t.core c).iss = { (u.core c).iss with pend := (t.core c).iss.pend }
      ∧ tget none (t.core c).iss.pend ch = some { pd with refused := true }
      ∧ SameBut none (u.core c).iss.pend (t.core c).iss.pend ch
      ∧ ((u.core c).firstFault = none → (t.core c).firstFault = some x) ∧ SameBut {} u.cores t.cores c
      ∧ t.pad = u.pad ∧ t.marks = u.marks := by
  obtain ⟨k, hk, hkw, hkc, hki, hkp, hkf⟩ : ∃ k : Core, { u.core c with
      wait := .stopped
      iss := { (u.core c).iss with pend := tput none (u.core c).iss.pend ch (some { pd with refused := true }) } } = k
      ∧ k.wait = .stopped ∧ k.chans = (u.core c).chans ∧ k.iss = { (u.core c).iss with pend := k.iss.pend }
      ∧ (∀ n, tget none k.iss.pend n = if n = ch then some { pd with refused := true } else tget none (u.core c).iss.pend n)
      ∧ k.firstFault = (u.core c).firstFault :=
    ⟨_, rfl, rfl, rfl, rfl, fun n => by simp only [tget_tput], rfl⟩
  have e : u.heldBegin c ch pd x = (u.setCore c k).raise c x := by
    unfold State.heldBegin
    rw [if_neg (by simp [he]), ← hk]
  obtain ⟨v, hv⟩ : ∃ v, u.setCore c k = v := ⟨_, rfl⟩
  have hvc : ∀ d, v.core d = if d = c then k else u.core d := fun d => by rw [← hv, State.setCore_core]
  have hvp : v.pad = u.pad := by rw [← hv, State.setCore_pad]
  have hvm : v.marks = u.marks := by rw [← hv, State.setCore_marks]
  rw [hv] at e
  have hn := Noted.raise c v x
  obtain ⟨-, -, hf, -, -⟩ := v.raise_core c x
  intro t
  have ht : t = v.raise c x := e
  rw [ht]
  generalize v.raise c x = w at hn hf
  have hown := hn.own
  rw [hvc, if_pos rfl] at hown
  rw [hvc, if_pos rfl, hkf] at hf
  refine ⟨by rw [hown]; exact hkw, by rw [hown]; exact hkc, by rw [hown]; exact hki, by rw [hown]; exact (hkp ch).trans (if_pos rfl),
    fun n hn' => by rw [hown]; exact (hkp n).trans (if_neg hn'), hf, fun d hd => ?_, hn.pad.trans hvp, hn.marks.trans hvm⟩
  exact ((hn.others d hd).1).trans ((hvc d).trans (if_neg hd))

/-! ### The action that a port serves -/

/-- A fold that keeps the first of the least values keeps one of the list's, and none of the list's is less. -/
theorem foldl_least {α : Type} (f : α → Nat) (l : List α) (b : Option α) (a : α)
    (F : Option α → α → Option α) (hnone : ∀ y, F none y = some y) (hsome : ∀ b y, F (some b) y = if f y < f b then some y else some b)
    (h : l.foldl F b = some a) :
    (a ∈ l ∨ b = some a) ∧ (∀ x, x ∈ l ∨ b = some x → f a ≤ f x) := by
  induction l generalizing b with
  | nil =>
    rw [List.foldl_nil] at h
    refine ⟨Or.inr h, fun x hx => ?_⟩
    rcases hx with hx | hx
    · cases hx
    · rw [h] at hx
      cases hx
      exact le_rfl
  | cons y l ih =>
    rw [List.foldl_cons] at h
    obtain ⟨hmem, hle⟩ := ih _ h
    cases b with
    | none =>
      rw [hnone] at hmem hle
      refine ⟨Or.inl ?_, fun x hx => ?_⟩
      · rcases hmem with hm | hm
        · exact List.mem_cons_of_mem _ hm
        · cases hm; exact List.mem_cons_self
      · rcases hx with hx | hx
        · rcases List.mem_cons.1 hx with rfl | hx
          · exact hle x (Or.inr rfl)
          · exact hle x (Or.inl hx)
        · cases hx
    | some b =>
      rw [hsome] at hmem hle
      by_cases hlt : f y < f b
      · rw [if_pos hlt] at hmem hle
        have hy := hle y (Or.inr rfl)
        refine ⟨Or.inl ?_, fun x hx => ?_⟩
        · rcases hmem with hm | hm
          · exact List.mem_cons_of_mem _ hm
          · cases hm; exact List.mem_cons_self
        · rcases hx with hx | hx
          · rcases List.mem_cons.1 hx with rfl | hx
            · exact hy
            · exact hle x (Or.inl hx)
          · cases hx; omega
      · rw [if_neg hlt] at hmem hle
        have hb := hle b (Or.inr rfl)
        refine ⟨?_, fun x hx => ?_⟩
        · rcases hmem with hm | hm
          · exact Or.inl (List.mem_cons_of_mem _ hm)
          · exact Or.inr hm
        · rcases hx with hx | hx
          · rcases List.mem_cons.1 hx with rfl | hx
            · omega
            · exact hle x (Or.inl hx)
          · cases hx; exact hb

/-- The action chosen is one of the next, no other channel comes before it, and none of those is served earlier (R138-R140). -/
theorem chosenAct_least {s : State} {c ch : Nat} {a : RowAct} {early : Nat} (h : chosenAct s c ch = some (a, early)) :
    (a, early) ∈ nextActs (s.core c) ch ∧ portRival s c ch a.port (grantAt s c a.port early a.cycles) = false
      ∧ ∀ b e, (b, e) ∈ nextActs (s.core c) ch → portRival s c ch b.port (grantAt s c b.port e b.cycles) = false →
          grantAt s c a.port early a.cycles ≤ grantAt s c b.port e b.cycles := by
  obtain ⟨hmem, hle⟩ := foldl_least (fun a : RowAct × Nat => grantAt s c a.1.port a.2 a.1.cycles) _ none _ _
    (fun _ => rfl) (fun _ _ => rfl) h
  have hin := hmem.resolve_right (by simp)
  rw [List.mem_filter, Bool.not_eq_true'] at hin
  refine ⟨hin.1, hin.2, fun b e hb hr => hle (b, e) (Or.inl ?_)⟩
  rw [List.mem_filter, Bool.not_eq_true']
  exact ⟨hb, hr⟩

/-! ### A channel served at its port -/

/-- What serving a channel at a port leaves: the channel's wait counts up, and the port's pointer moves past the channel. -/
structure ChannelServed (s u : State) (c ch port cycle : Nat) : Prop where
  frame : u = { s with cores := u.cores, now := u.now, rtc := u.rtc }
  now : u.now = max s.now cycle
  others : ∀ d, d ≠ c → u.core d = s.core d
  own : u.core c = { s.core c with
    chans := (u.core c).chans, portBusy := (u.core c).portBusy, rrRead := (u.core c).rrRead
    rrWrite := (u.core c).rrWrite, rrInject := (u.core c).rrInject }
  waits : ∃ n, (u.core c).chan ch = { (s.core c).chan ch with bankWait := satAdd 32 ((s.core c).chan ch).bankWait n }
  chans : ∀ n, n ≠ ch → (u.core c).chan n = (s.core c).chan n
  read : port = 0 → (u.core c).rrRead = passRr (s.core c).rrRead ch
  write : port = 1 → (u.core c).rrWrite = passRr (s.core c).rrWrite ch
  inject : port = 2 → (u.core c).rrInject = passRr (s.core c).rrInject ch

theorem Core.served_own (k : Core) (now port ch t n : Nat) :
    k.served now port ch t n = { k with
        portBusy := (k.served now port ch t n).portBusy, rrRead := (k.served now port ch t n).rrRead
        rrWrite := (k.served now port ch t n).rrWrite, rrInject := (k.served now port ch t n).rrInject } := by
  unfold Core.served; dsimp only; split <;> rfl

theorem State.serve_served (s : State) (c ch : Nat) (a : RowAct) (early : Nat) :
    ChannelServed s (s.serve c ch a early) c ch a.port (grantAt s c a.port early a.cycles) := by
  obtain ⟨w, hw⟩ : ∃ w, (if a.port = 2 then 0 else grantAt s c a.port early a.cycles - max (max s.now ((s.core c).chan ch).triedAt) early) = w :=
    ⟨_, rfl⟩
  obtain ⟨v, hv⟩ : ∃ v : Channel, { (s.core c).chan ch with bankWait := satAdd 32 ((s.core c).chan ch).bankWait w } = v := ⟨_, rfl⟩
  obtain ⟨t, ht⟩ : ∃ t, grantAt s c a.port early a.cycles = t := ⟨_, rfl⟩
  obtain ⟨k1, hk1, hk1c, hk1o, hr0, hr1, hr2⟩ : ∃ k1, (s.core c).putChan ch v = k1
      ∧ (∀ n, k1.chan n = if n = ch then v else (s.core c).chan n)
      ∧ k1 = { s.core c with chans := k1.chans } ∧ k1.rrRead = (s.core c).rrRead ∧ k1.rrWrite = (s.core c).rrWrite
      ∧ k1.rrInject = (s.core c).rrInject := ⟨_, rfl, fun n => Core.putChan_chan .., rfl, rfl, rfl, rfl⟩
  obtain ⟨k, hk⟩ : ∃ k, k1.served s.now a.port ch t a.cycles = k := ⟨_, rfl⟩
  have hown := k1.served_own s.now a.port ch t a.cycles
  have e : s.serve c ch a early = (s.advance t).setCore c k := by
    unfold State.serve
    dsimp only
    rw [State.advance_core, hw, hv, ht, hk1, hk]
  have hp0 : a.port = 0 → k.rrRead = passRr (s.core c).rrRead ch := fun h => by rw [← hk, h, ← hr0]; rfl
  have hp1 : a.port = 1 → k.rrWrite = passRr (s.core c).rrWrite ch := fun h => by rw [← hk, h, ← hr1]; rfl
  have hp2 : a.port = 2 → k.rrInject = passRr (s.core c).rrInject ch := fun h => by rw [← hk, h, ← hr2]; rfl
  rw [hk] at hown
  obtain ⟨u, hu⟩ : ∃ u, s.serve c ch a early = u := ⟨_, rfl⟩
  have huc : ∀ d, u.core d = if d = c then k else s.core d := fun d => by rw [← hu, e, State.setCore_core, State.advance_core]
  have hkc : u.core c = k := (huc c).trans (if_pos rfl)
  have hkn : ∀ n, k.chan n = if n = ch then v else (s.core c).chan n := fun n => by rw [hown]; exact hk1c n
  rw [hu, ht]
  refine ⟨?_, ?_, fun d hd => (huc d).trans (if_neg hd), ?_, ⟨w, ?_⟩, fun n hn => ?_, ?_, ?_, ?_⟩
  · rw [← hu, e]; rfl
  · rw [← hu, e]; rfl
  · rw [hkc, hown]
    exact congrArg (fun y : Core => { y with
      portBusy := k.portBusy, rrRead := k.rrRead, rrWrite := k.rrWrite, rrInject := k.rrInject }) hk1o
  · rw [hkc, hkn, if_pos rfl, hv]
  · rw [hkc, hkn, if_neg hn]
  · rw [hkc]; exact hp0
  · rw [hkc]; exact hp1
  · rw [hkc]; exact hp2

/-- With no response waiting, none goes out. -/
theorem State.sendResponses_none {s : State} {c : Nat} (h : (s.core c).responses = []) : s.sendResponses c = s := by
  unfold State.sendResponses; rw [h]; rfl

theorem execChannelRowMove_moves {s : State} {c ch : Nat} {a : RowAct} {early : Nat} (hc : coreExists s c = true)
    (ha : answers s c = true) (h : chosenAct s c ch = some (a, early)) :
    exec (.channelRowMove c ch) s = .next (((s.serve c ch a early).act c ch a).sendResponses c) := by
  refine (onCore_exists _ hc).trans (congrArg Host.Outcome.next ?_)
  rw [if_neg (by simp [ha]), h]

/-! ### A row retires in the scratchpad -/

/-- The core and the channel after a row has retired at its local destination. -/
theorem State.retireRow_retires (u : State) (c ch n : Nat) (row : Row) (hl : row.bytes.length = 512) :
    let t := u.retireRow c ch n row
    (∀ x, readByte t.pad x = if padAt c (dstRowOf ((u.core c).chan ch).desc n) ≤ x
          ∧ x < padAt c (dstRowOf ((u.core c).chan ch).desc n) + 512 then row.bytes[x - padAt c (dstRowOf ((u.core c).chan ch).desc n)]?
        else readByte u.pad x)
      ∧ (t.core c).chan ch
        = { ((u.core c).chan ch).leave n row with rowsDone := ((u.core c).chan ch).rowsDone + 1, lastDone := u.now }
      ∧ (∀ m, m ≠ ch → (t.core c).chan m = (u.core c).chan m) ∧ t.core c = { u.core c with chans := (t.core c).chans }
      ∧ (∀ d, d ≠ c → t.core d = u.core d) ∧ (∀ d, d ≠ c → t.heal d = u.heal d)
      ∧ t = { u with cores := t.cores, health := t.health, pad := t.pad, marks := t.marks } := by
  have hst := Stored.writeRow c u (dstRowOf ((u.core c).chan ch).desc n) row
  have hbyte := fun x => u.writeRow_byte c (dstRowOf ((u.core c).chan ch).desc n) x row hl
  have hframe : u.writeRow c (dstRowOf ((u.core c).chan ch).desc n) row = { u with
      health := (u.writeRow c (dstRowOf ((u.core c).chan ch).desc n) row).health
      pad := (u.writeRow c (dstRowOf ((u.core c).chan ch).desc n) row).pad
      marks := (u.writeRow c (dstRowOf ((u.core c).chan ch).desc n) row).marks } := by
    unfold State.writeRow State.rowWritten
    dsimp only
    split <;> rfl
  obtain ⟨v, hv⟩ : ∃ v : Channel, { ((u.core c).chan ch).leave n row with
    rowsDone := ((u.core c).chan ch).rowsDone + 1, lastDone := u.now } = v := ⟨_, rfl⟩
  obtain ⟨w, hw⟩ : ∃ w, u.writeRow c (dstRowOf ((u.core c).chan ch).desc n) row = w := ⟨_, rfl⟩
  rw [hw] at hst hbyte hframe
  have hwc : ∀ d, w.core d = u.core d := fun d => by unfold State.core; rw [hst.cores]
  have hwh : ∀ d, d ≠ c → w.heal d = u.heal d := hst.heal
  have e : u.retireRow c ch n row = w.setCore c ((u.core c).putChan ch v) := by
    unfold State.retireRow
    dsimp only
    rw [hw, hwc, hv]
  obtain ⟨k, hk, hkc, hko⟩ : ∃ k, (u.core c).putChan ch v = k
      ∧ (∀ m, k.chan m = if m = ch then v else (u.core c).chan m) ∧ k = { u.core c with chans := k.chans } :=
    ⟨_, rfl, fun m => Core.putChan_chan .., rfl⟩
  rw [hk] at e
  intro t
  have ht : t = w.setCore c k := e
  have htc : ∀ d, t.core d = if d = c then k else u.core d := fun d => by rw [ht, State.setCore_core, hwc]
  have htk : t.core c = k := (htc c).trans (if_pos rfl)
  have htp : t.pad = w.pad := by rw [ht, State.setCore_pad]
  have hth : ∀ d, t.heal d = w.heal d := fun d => by rw [ht, State.setCore_heal]
  have hf : t = { w with cores := t.cores } := by rw [ht]; rfl
  have h1 : t.health = w.health := by rw [hf]
  have h2 : t.marks = w.marks := by rw [hf]
  clear_value t
  rw [hv]
  refine ⟨fun x => by rw [htp]; exact hbyte x, by rw [htk, hkc, if_pos rfl], fun m hm => by rw [htk, hkc, if_neg hm],
    by rw [htk]; exact hko, fun d hd => (htc d).trans (if_neg hd), fun d hd => (hth d).trans (hwh d hd), ?_⟩
  rw [htp, h1, h2]
  exact hf.trans (congrArg (fun y : State => { y with cores := t.cores }) hframe)

/-- A row that a channel writes in the cycle its port serves it (R142, R143). -/
theorem State.retireRow_served {s u : State} {c ch early n : Nat} {row : Row} (hu : ChannelServed s u c ch 1 (grantAt s c 1 early 1))
    (hr : (s.core c).responses = []) (hl : row.bytes.length = 512) :
    let t := (u.retireRow c ch n row).sendResponses c
    WroteBytes s.pad t.pad (padAt c (dstRowOf ((s.core c).chan ch).desc n)) row.bytes
      ∧ (((t.core c).chan ch).poison = true ↔ ((s.core c).chan ch).poison = true ∨ row.poison ≠ [])
      ∧ tfind ((t.core c).chan ch).staging n = none ∧ RowRetired s t c ch early := by
  obtain ⟨hbyte, hch, hchs, hown, hoth, hheal, hfr⟩ := u.retireRow_retires c ch n row hl
  obtain ⟨t, ht⟩ : ∃ t, u.retireRow c ch n row = t := ⟨_, rfl⟩
  rw [ht] at hbyte hch hchs hown hoth hheal hfr
  have htr : (t.core c).responses = [] := by rw [hown, hu.own]; exact hr
  rw [ht, State.sendResponses_none htr]
  obtain ⟨m, hw⟩ := hu.waits
  have hpad : u.pad = s.pad := by rw [hu.frame]
  have hnow : t.now = u.now := by rw [hfr]
  have hdesc : ((u.core c).chan ch).desc = ((s.core c).chan ch).desc := by rw [hw]
  rw [hdesc] at hbyte
  have hrr : (t.core c).rrWrite = (u.core c).rrWrite := by rw [hown]
  refine ⟨fun x => ?_, ?_, ?_, ?_, ?_, ?_, ?_, fun d hd => ?_, fun d hd => ?_, fun d hd => ?_, ?_⟩
  · rw [hbyte, hl, hpad]
  · rw [hch, hw]
    show (_ || _) = true ↔ _
    rw [Bool.or_eq_true, Bool.not_eq_true', List.isEmpty_eq_false_iff]
  · rw [hch]
    exact (tfind_tdel _ _ _).trans (if_pos rfl)
  · rw [hch, hw]
  · rw [hch, hnow]
  · rw [hrr, hu.write rfl]
  · rw [hnow, hu.now]
  · exact (hchs d hd).trans (hu.chans d hd)
  · exact (hoth d hd).trans (hu.others d hd)
  · exact (hheal d hd).trans (by rw [hu.frame]; rfl)
  · have h1 : t.rtc = u.rtc := by rw [hfr]
    rw [hnow, h1]
    exact hfr.trans (congrArg (fun y : State => { y with
      cores := t.cores, health := t.health, pad := t.pad, marks := t.marks }) hu.frame)

/-- A filling channel with rows left does one thing next: its next row. -/
theorem nextActs_fill {k : Core} {ch : Nat} (hst : (k.chan ch).state = .active) (hf : descFill (k.chan ch).desc = true)
    (hn : (k.chan ch).rowsDone < descN (k.chan ch).desc) : nextActs k ch = [(.fill, (k.chan ch).since + 6)] := by
  unfold nextActs
  dsimp only
  rw [if_neg (by simp [hst]), if_pos hf, if_pos hn]

theorem chosenAct_fill {s : State} {c ch : Nat} (hst : ((s.core c).chan ch).state = .active)
    (hf : descFill ((s.core c).chan ch).desc = true) (hn : ((s.core c).chan ch).rowsDone < descN ((s.core c).chan ch).desc)
    (hr : portRival s c ch 1 (grantAt s c 1 (((s.core c).chan ch).since + 6) 1) = false) :
    chosenAct s c ch = some (.fill, ((s.core c).chan ch).since + 6) := by
  have hr' : portRival s c ch RowAct.fill.port (grantAt s c RowAct.fill.port (((s.core c).chan ch).since + 6) RowAct.fill.cycles) = false := hr
  unfold chosenAct
  dsimp only
  rw [nextActs_fill hst hf hn, List.filter_cons, if_pos (by simp only [hr', Bool.not_false])]
  rfl

/-! ### A local row read into staging -/

theorem State.sendResponses_now (s : State) (c : Nat) : (s.sendResponses c).now = s.now := by
  have h1 : ∀ u : State, ∀ p, (u.inject c p).now = u.now := fun u p => by
    unfold State.inject State.forwardRow State.sendPacket
    dsimp only
    repeat' split
    all_goals rfl
  have h2 : ∀ u : State, (u.sendResponse c).now = u.now := fun u => by
    unfold State.sendResponse
    dsimp only
    split
    · rfl
    · split
      · rfl
      · exact h1 _ _
  unfold State.sendResponses
  generalize (s.core c).responses = l
  induction l generalizing s with
  | nil => rfl
  | cons x l ih => exact (ih _).trans (h2 s)

theorem State.readLocal_served {s u : State} {c ch early : Nat} (hu : ChannelServed s u c ch 0 (grantAt s c 0 early 1)) :
    let v := (s.core c).chan ch
    let t := (u.readLocal c ch).sendResponses c
    ((t.core c).chan ch) = { v with
          staging := ((t.core c).chan ch).staging, ready := ((t.core c).chan ch).ready, rowsRead := v.rowsRead + 1
          bankWait := ((t.core c).chan ch).bankWait }
      ∧ (∃ n, ((t.core c).chan ch).bankWait = satAdd 32 v.bankWait n) ∧ (t.core c).rrRead = passRr (s.core c).rrRead ch
      ∧ tfind ((t.core c).chan ch).staging v.rowsRead = some (readRow s c (srcRowOf v.desc v.rowsRead))
      ∧ (∀ n, n ≠ v.rowsRead → tfind ((t.core c).chan ch).staging n = tfind v.staging n)
      ∧ tfind ((t.core c).chan ch).ready v.rowsRead = some (t.now + 4) ∧ t.now = max s.now (grantAt s c 0 early 1)
      ∧ SameBut {} (s.core c).chans (t.core c).chans ch ∧ SameBut {} s.cores t.cores c
      ∧ t.pad = s.pad ∧ t.marks = s.marks := by
  obtain ⟨v, hv⟩ : ∃ v, (s.core c).chan ch = v := ⟨_, rfl⟩
  obtain ⟨m, hw⟩ := hu.waits
  rw [hv] at hw ⊢
  have hread : readRow u c (srcRowOf v.desc v.rowsRead) = readRow s c (srcRowOf v.desc v.rowsRead) := by rw [hu.frame]; rfl
  have hpad : u.pad = s.pad := by rw [hu.frame]
  have hmarks : u.marks = s.marks := by rw [hu.frame]
  obtain ⟨r, hr⟩ : ∃ r, readRow s c (srcRowOf v.desc v.rowsRead) = r := ⟨_, rfl⟩
  obtain ⟨w, hwe, hws, hwr, hwb, hwf⟩ : ∃ w : Channel, { (u.core c).chan ch with
      staging := tset ((u.core c).chan ch).staging ((u.core c).chan ch).rowsRead r
      ready := tset ((u.core c).chan ch).ready ((u.core c).chan ch).rowsRead (u.now + 4)
      rowsRead := ((u.core c).chan ch).rowsRead + 1 } = w ∧ w.staging = tset v.staging v.rowsRead r
      ∧ w.ready = tset v.ready v.rowsRead (u.now + 4) ∧ w.bankWait = satAdd 32 v.bankWait m
      ∧ w = { v with staging := w.staging, ready := w.ready, rowsRead := v.rowsRead + 1, bankWait := w.bankWait } := by
    rw [hw]; exact ⟨_, rfl, rfl, rfl, rfl, rfl⟩
  obtain ⟨k, hk, hkc, hko⟩ : ∃ k, (u.core c).putChan ch w = k
      ∧ (∀ m, k.chan m = if m = ch then w else (u.core c).chan m) ∧ k = { u.core c with chans := k.chans } :=
    ⟨_, rfl, fun m => Core.putChan_chan .., rfl⟩
  obtain ⟨x, hx⟩ : ∃ x, u.setCore c k = x := ⟨_, rfl⟩
  have hxc : ∀ d, x.core d = if d = c then k else u.core d := fun d => by rw [← hx, State.setCore_core]
  have hxp : x.pad = u.pad := by rw [← hx, State.setCore_pad]
  have hxm : x.marks = u.marks := by rw [← hx, State.setCore_marks]
  have hxn : x.now = u.now := by rw [← hx]; rfl
  have e : u.readLocal c ch = (x.noteRows c (srcRowOf v.desc v.rowsRead) 1).bump := by
    have h1 : ((u.core c).chan ch).desc = v.desc := by rw [hw]
    have h2 : ((u.core c).chan ch).rowsRead = v.rowsRead := by rw [hw]
    have h3 : srcRowOf ((u.core c).chan ch).desc ((u.core c).chan ch).rowsRead = srcRowOf v.desc v.rowsRead := by rw [h1, h2]
    dsimp only at hwe
    unfold State.readLocal
    dsimp only
    rw [h3, hread, hr, hwe, hk, hx]
  have hn := Noted.noteRows c x (srcRowOf v.desc v.rowsRead) 1
  obtain ⟨y, hy⟩ : ∃ y, x.noteRows c (srcRowOf v.desc v.rowsRead) 1 = y := ⟨_, rfl⟩
  rw [hy] at e hn
  have hp := PutOut.sendResponses c y.bump
  have htn := State.sendResponses_now y.bump c
  rw [e]
  obtain ⟨t, ht⟩ : ∃ t, y.bump.sendResponses c = t := ⟨_, rfl⟩
  rw [ht] at hp htn
  dsimp only
  rw [ht]
  have hyn : y.now = x.now := by rw [hn.rest]
  have hnow : t.now = u.now := htn.trans (hyn.trans hxn)
  have hcore : ∀ d, y.bump.core d = y.core d := fun d => State.bump_core ..
  have hchan : ∀ n, (t.core c).chan n = if n = ch then w else (u.core c).chan n := fun n => by
    rw [hp.own, hcore, hn.own, hxc, if_pos rfl]
    exact hkc n
  have hrr : (t.core c).rrRead = (u.core c).rrRead := by
    rw [hp.own, hcore, hn.own, hxc, if_pos rfl, hko]
  have hchv : (t.core c).chan ch = w := (hchan ch).trans (if_pos rfl)
  rw [hchv]
  refine ⟨hwf, ⟨m, hwb⟩, by rw [hrr, hu.read rfl], ?_, fun n hne => ?_, ?_, by rw [hnow, hu.now], fun n hne => ?_, fun d hd => ?_, ?_, ?_⟩
  · rw [hws, hr, tfind_tset, if_pos rfl]
  · rw [hws, tfind_tset, if_neg hne]
  · rw [hwr, tfind_tset, if_pos rfl, hnow]
  · exact (hchan n).trans ((if_neg hne).trans (hu.chans n hne))
  · exact (hp.others d hd).trans ((hcore d).trans (((hn.others d hd).1).trans (((hxc d).trans (if_neg hd)).trans (hu.others d hd))))
  · exact hp.pad.trans ((State.bump_pad ..).trans (hn.pad.trans (hxp.trans hpad)))
  · exact hp.marks.trans ((State.bump_marks ..).trans (hn.marks.trans (hxm.trans hmarks)))

/-! ### The result row in the scratchpad -/

theorem State.storeResult_served {s u : State} {c ch early : Nat} (hu : ChannelServed s u c ch 1 (grantAt s c 1 early 1)) :
    let v := (s.core c).chan ch
    let t := (u.act c ch .storeResult).sendResponses c
    ((t.core c).chan ch).resultDone = true ∧ ((t.core c).chan ch).rowsDone = v.rowsDone ∧ t.now = max s.now (grantAt s c 1 early 1)
      ∧ WroteBytes s.pad t.pad (padAt c (dstRowOf v.desc (descN v.desc - 1) + 1)) (resultRow v).bytes := by
  obtain ⟨v, hv⟩ : ∃ v, (s.core c).chan ch = v := ⟨_, rfl⟩
  obtain ⟨m, hw⟩ := hu.waits
  rw [hv] at hw ⊢
  have hlen : (resultRow v).bytes.length = 512 := by
    unfold resultRow
    simp only [List.length_append, leBytes_length, List.length_replicate]
  have hrow : resultRow ((u.core c).chan ch) = resultRow v := by rw [hw]; rfl
  have hdesc : ((u.core c).chan ch).desc = v.desc := by rw [hw]
  have hpad : u.pad = s.pad := by rw [hu.frame]
  have hbyte := fun x => u.writeRow_byte c (dstRowOf v.desc (descN v.desc - 1) + 1) x (resultRow v) hlen
  have hst := Stored.writeRow c u (dstRowOf v.desc (descN v.desc - 1) + 1) (resultRow v)
  obtain ⟨x, hx⟩ : ∃ x, u.writeRow c (dstRowOf v.desc (descN v.desc - 1) + 1) (resultRow v) = x := ⟨_, rfl⟩
  rw [hx] at hbyte hst
  obtain ⟨w, hwe, hwd, hwr⟩ : ∃ w : Channel, { (u.core c).chan ch with resultDone := true } = w ∧ w.resultDone = true
      ∧ w.rowsDone = v.rowsDone := by rw [hw]; exact ⟨_, rfl, rfl, rfl⟩
  obtain ⟨k, hk, hkc⟩ : ∃ k, (x.core c).putChan ch w = k ∧ k.chan ch = w :=
    ⟨_, rfl, (Core.putChan_chan ..).trans (if_pos rfl)⟩
  have e : u.act c ch .storeResult = x.setCore c k := by
    dsimp only at hwe
    unfold State.act
    dsimp only
    have hd : dstRowOf ((u.core c).chan ch).desc (descN ((u.core c).chan ch).desc - 1) + 1
        = dstRowOf v.desc (descN v.desc - 1) + 1 := by rw [hdesc]
    rw [hrow, hd, hx, hwe, hk]
  rw [e]
  have hp := PutOut.sendResponses c (x.setCore c k)
  have htn := State.sendResponses_now (x.setCore c k) c
  dsimp only
  obtain ⟨t, ht⟩ : ∃ t, (x.setCore c k).sendResponses c = t := ⟨_, rfl⟩
  rw [ht] at hp htn ⊢
  have hch : (t.core c).chan ch = w := by
    rw [hp.own, State.setCore_core, if_pos rfl]
    exact hkc
  have hnow : t.now = u.now := htn.trans hst.now
  refine ⟨by rw [hch, hwd], by rw [hch, hwr], by rw [hnow, hu.now], fun y => ?_⟩
  rw [hp.pad, State.setCore_pad, hbyte, hpad, hlen]

/-! ### Rows and requests that go out -/

/-- A packet that a core puts out: its cores, its transit and, for another quay, the fabric. -/
theorem State.inject_frame (s : State) (c : Nat) (p : NetPacket) (ht : netType p.header ≤ 4) :
    s.inject c p = { s with
      cores := (s.inject c p).cores, net := s.net ++ [p], transit := (s.inject c p).transit, fabric := (s.inject c p).fabric
      ledger := { s.ledger with rejectsReceived := (s.inject c p).ledger.rejectsReceived } } := by
  unfold State.inject
  dsimp only
  rw [if_neg (by omega)]
  unfold State.forwardRow
  split
  · rfl
  · dsimp only
    split
    · rfl
    · unfold State.sendPacket
      dsimp only
      split <;> rfl

/-- What a quay sends depends on the module's ports and fabric alone. -/
theorem State.sendPacket_fabric {s x : State} (hm : x.moduleNumber = s.moduleNumber) (hf : x.fabric = s.fabric)
    (hr : ∀ q m dq flow, routePort x q m dq flow = routePort s q m dq flow) (q : Nat) (f : FabHead) (bs : List Byte) :
    (x.sendPacket q f bs).fabric = (s.sendPacket q f bs).fabric := by
  unfold State.sendPacket
  dsimp only
  rw [hm, hr]
  cases routePort s q f.dm f.dq (flowKey s.moduleNumber q f.dm f.dq f.typ f.shard) with
  | none => exact hf
  | some port => dsimp only; rw [hf]

theorem State.forwardRow_fabric {s x : State} (p : NetPacket)
    (hx : x = { s with cores := x.cores, now := x.now, rtc := x.rtc, net := x.net, transit := x.transit }) :
    (x.forwardRow p).fabric = (s.forwardRow p).fabric := by
  have hm : x.moduleNumber = s.moduleNumber := by rw [hx]; rfl
  have hf : x.fabric = s.fabric := by rw [hx]
  have hr : ∀ q m dq flow, routePort x q m dq flow = routePort s q m dq flow := fun q m dq flow => by rw [hx]; rfl
  unfold State.forwardRow
  cases p.address with
  | none => exact hf
  | some a =>
    dsimp only
    rw [hm]
    split
    · exact hf
    · exact State.sendPacket_fabric hm hf hr _ _ _

theorem State.inject_fabric (u : State) (c : Nat) (p : NetPacket) (ht : netType p.header ≤ 4) :
    (u.inject c p).fabric = (u.forwardRow p).fabric := by
  unfold State.inject
  dsimp only
  rw [if_neg (by omega)]
  exact State.forwardRow_fabric p rfl

theorem State.forwardRow_cores (s : State) (p : NetPacket) : (s.forwardRow p).cores = s.cores := by
  unfold State.forwardRow State.sendPacket
  dsimp only
  repeat' split
  all_goals rfl

theorem State.inject_responses (s : State) (c : Nat) (p : NetPacket) : ((s.inject c p).core c).responses = (s.core c).responses := by
  unfold State.inject
  dsimp only
  split
  · rfl
  · have hcore : ∀ (u : State) (d : Nat), (u.forwardRow p).core d = u.core d := fun u d => by
      unfold State.core; rw [State.forwardRow_cores]
    rw [hcore]
    exact (congrArg Core.responses ((State.setCore_core s c _ c).trans (if_pos rfl))).trans rfl

theorem netType_rowPacket (s : State) (c loc a type vc ch tag : Nat) (data : Option Row) (h : type ≤ 4) :
    netType (rowPacket s c loc a type vc ch tag data).header ≤ 4 := by
  unfold rowPacket
  dsimp only
  rw [netType_netHeader]
  omega

/-- A packet that a channel puts out in the cycle the injection port serves it. -/
theorem State.putOut_served {s u : State} {c ch early n : Nat} (hu : ChannelServed s u c ch 2 (grantAt s c 2 early n))
    (hr : (s.core c).responses = []) {w : Channel} (ho : w.owed = ((s.core c).chan ch).owed + 1)
    (hs : w.rowsSent = ((s.core c).chan ch).rowsSent + 1) (hd : w.rowsDone = ((s.core c).chan ch).rowsDone)
    {p : NetPacket} (ht : netType p.header ≤ 4) :
    let t := ((u.setCore c ((u.core c).putChan ch w)).inject c p).sendResponses c
    (t.core c).chan ch = w ∧ RowPutOut s t c ch early n p ∧ t.fabric = (s.forwardRow p).fabric := by
  obtain ⟨k, hk, hkc, hko⟩ : ∃ k, (u.core c).putChan ch w = k
      ∧ (∀ m, k.chan m = if m = ch then w else (u.core c).chan m) ∧ k = { u.core c with chans := k.chans } :=
    ⟨_, rfl, fun m => Core.putChan_chan .., rfl⟩
  rw [hk]
  obtain ⟨x, hx⟩ : ∃ x, u.setCore c k = x := ⟨_, rfl⟩
  have hxc : ∀ d, x.core d = if d = c then k else u.core d := fun d => by rw [← hx, State.setCore_core]
  have hxf : x = { s with cores := x.cores, now := u.now, rtc := u.rtc } := by
    have : x = { u with cores := x.cores } := by rw [← hx]; rfl
    exact this.trans (congrArg (fun y : State => { y with cores := x.cores }) hu.frame)
  rw [hx]
  have hput := PutOut.inject c x p
  have hfr := x.inject_frame c p ht
  have hfab : (x.inject c p).fabric = (s.forwardRow p).fabric := by
    have hxf' : x = { s with cores := x.cores, now := x.now, rtc := x.rtc, net := x.net, transit := x.transit } := by
      rw [hxf]
    exact (State.inject_fabric x c p ht).trans (State.forwardRow_fabric p hxf')
  obtain ⟨t, ht'⟩ : ∃ t, x.inject c p = t := ⟨_, rfl⟩
  rw [ht'] at hput hfr hfab ⊢
  have hown := hput.own
  rw [hxc, if_pos rfl] at hown
  have hres : (t.core c).responses = [] := by
    have hx1 : (x.core c).responses = [] := by rw [hxc, if_pos rfl, hko, hu.own]; exact hr
    rw [← ht', State.inject_responses]
    exact hx1
  rw [State.sendResponses_none hres]
  have hch : ∀ m, (t.core c).chan m = if m = ch then w else (u.core c).chan m := fun m => by rw [hown]; exact hkc m
  have hrr : (t.core c).rrInject = (u.core c).rrInject := by rw [hown, hko]
  have hch0 : (t.core c).chan ch = w := (hch ch).trans (if_pos rfl)
  have hnet : t.net = s.net ++ [p] := by rw [hfr, hxf]
  have hnow : t.now = u.now := by rw [hfr, hxf]
  have hrtc : t.rtc = u.rtc := by rw [hfr, hxf]
  refine ⟨hch0, ⟨by rw [hch0, ho], by rw [hch0, hs], by rw [hch0, hd], hnet, by rw [hrr, hu.inject rfl], by rw [hnow, hu.now],
    fun m hm => (hch m).trans ((if_neg hm).trans (hu.chans m hm)),
    fun d hd => (hput.others d hd).trans (((hxc d).trans (if_neg hd)).trans (hu.others d hd)), ?_⟩, hfab⟩
  rw [hnow, hrtc, hnet]
  have hl : x.ledger = s.ledger := by rw [hxf]
  have hn : x.net = s.net := by rw [hxf]
  rw [hl, hn] at hfr
  exact hfr.trans (congrArg (fun y : State => { y with
    cores := t.cores, net := s.net ++ [p], transit := t.transit, fabric := t.fabric
    ledger := { s.ledger with rejectsReceived := t.ledger.rejectsReceived } }) hxf)

/-- A row that goes out (R109, R136). -/
theorem State.sendRow_served {s u : State} {c ch early n a : Nat} {row : Row}
    (hu : ChannelServed s u c ch 2 (grantAt s c 2 early 4)) (hr : (s.core c).responses = [])
    (hn : n < descN ((s.core c).chan ch).desc) (haddr : dstAddrOf ((s.core c).chan ch).desc n = some a)
    (hrej : routerRejects s c (descDstLoc ((s.core c).chan ch).desc) a = false) :
    let v := (s.core c).chan ch
    let p := rowPacket s c (descDstLoc v.desc) a 0 (descVc v.desc) ch v.tag (some row)
    let t := (u.sendRow c ch n row).sendResponses c
    ((t.core c).chan ch).flight = v.flight ++ [(n, row)] ∧ tfind ((t.core c).chan ch).staging n = none
      ∧ RowPutOut s t c ch early 4 p ∧ t.fabric = (s.forwardRow p).fabric := by
  obtain ⟨v, hv⟩ : ∃ v, (s.core c).chan ch = v := ⟨_, rfl⟩
  obtain ⟨m, hw⟩ := hu.waits
  rw [hv] at hw hn haddr hrej ⊢
  have hrej' : routerRejects u c (descDstLoc v.desc) a = false := by rw [hu.frame]; exact hrej
  have hpk : rowPacket u c (descDstLoc v.desc) a 0 (descVc v.desc) ch v.tag (some row)
      = rowPacket s c (descDstLoc v.desc) a 0 (descVc v.desc) ch v.tag (some row) := by rw [hu.frame]; rfl
  have hdesc : ((u.core c).chan ch).desc = v.desc := by rw [hw]
  have htag : ((u.core c).chan ch).tag = v.tag := by rw [hw]
  obtain ⟨w, hwe, hwo, hws, hwd, hwf, hwg⟩ : ∃ w : Channel, { ({ ((u.core c).chan ch).leave n row with
        rowsSent := ((u.core c).chan ch).rowsSent + 1 } : Channel) with
        owed := ((u.core c).chan ch).owed + 1, flight := ((u.core c).chan ch).flight ++ [(n, row)] } = w
      ∧ w.owed = v.owed + 1 ∧ w.rowsSent = v.rowsSent + 1 ∧ w.rowsDone = v.rowsDone ∧ w.flight = v.flight ++ [(n, row)]
      ∧ w.staging = tdel v.staging n := by rw [hw]; exact ⟨_, rfl, rfl, rfl, rfl, rfl, rfl⟩
  have e : u.sendRow c ch n row = (u.setCore c ((u.core c).putChan ch w)).inject c
      (rowPacket s c (descDstLoc v.desc) a 0 (descVc v.desc) ch v.tag (some row)) := by
    dsimp only at hwe
    unfold State.sendRow
    dsimp only
    rw [hdesc, htag, haddr]
    dsimp only
    rw [if_neg (by simp [hrej']), if_pos hn, hpk]
    exact congrArg (fun w => (u.setCore c ((u.core c).putChan ch w)).inject c
      (rowPacket s c (descDstLoc v.desc) a 0 (descVc v.desc) ch v.tag (some row))) hwe
  rw [← hv] at hwo hws hwd
  obtain ⟨hch, hput, hfab⟩ := State.putOut_served hu hr hwo hws hwd
    (netType_rowPacket s c (descDstLoc v.desc) a 0 (descVc v.desc) ch v.tag (some row) (by decide))
  rw [e]
  dsimp only
  refine ⟨by rw [hch, hwf], ?_, hput, hfab⟩
  rw [hch, hwg]
  exact (tfind_tdel _ _ _).trans (if_pos rfl)

/-- A request that goes out (R111). -/
theorem State.sendRequest_served {s u : State} {c ch early a : Nat}
    (hu : ChannelServed s u c ch 2 (grantAt s c 2 early 1)) (hr : (s.core c).responses = [])
    (haddr : srcAddrOf ((s.core c).chan ch).desc ((s.core c).chan ch).rowsSent = some a)
    (hrej : routerRejects s c (descSrcLoc ((s.core c).chan ch).desc) a = false) :
    let v := (s.core c).chan ch
    let t := (u.sendRequest c ch).sendResponses c
    ((t.core c).chan ch).staging = v.staging
      ∧ RowPutOut s t c ch early 1 (rowPacket s c (descSrcLoc v.desc) a 1 (descVc v.desc) ch v.tag none) := by
  obtain ⟨v, hv⟩ : ∃ v, (s.core c).chan ch = v := ⟨_, rfl⟩
  obtain ⟨m, hw⟩ := hu.waits
  rw [hv] at hw haddr hrej ⊢
  have hrej' : routerRejects u c (descSrcLoc v.desc) a = false := by rw [hu.frame]; exact hrej
  have hpk : rowPacket u c (descSrcLoc v.desc) a 1 (descVc v.desc) ch v.tag none
      = rowPacket s c (descSrcLoc v.desc) a 1 (descVc v.desc) ch v.tag none := by rw [hu.frame]; rfl
  have hdesc : ((u.core c).chan ch).desc = v.desc := by rw [hw]
  have htag : ((u.core c).chan ch).tag = v.tag := by rw [hw]
  have hsent : ((u.core c).chan ch).rowsSent = v.rowsSent := by rw [hw]
  obtain ⟨w, hwe, hwo, hws, hwd, hwg⟩ : ∃ w : Channel, { (u.core c).chan ch with
        rowsSent := ((u.core c).chan ch).rowsSent + 1, owed := ((u.core c).chan ch).owed + 1 } = w
      ∧ w.owed = v.owed + 1 ∧ w.rowsSent = v.rowsSent + 1 ∧ w.rowsDone = v.rowsDone
      ∧ w.staging = v.staging := by rw [hw]; exact ⟨_, rfl, rfl, rfl, rfl, rfl⟩
  have e : u.sendRequest c ch = (u.setCore c ((u.core c).putChan ch w)).inject c
      (rowPacket s c (descSrcLoc v.desc) a 1 (descVc v.desc) ch v.tag none) := by
    have haddr' : srcAddrOf ((u.core c).chan ch).desc ((u.core c).chan ch).rowsSent = some a := by rw [hdesc, hsent]; exact haddr
    dsimp only at hwe
    unfold State.sendRequest
    dsimp only
    rw [haddr']
    dsimp only
    rw [if_neg (by simp [hdesc, hrej']), hwe, hdesc, htag, hpk]
  rw [← hv] at hwo hws hwd
  obtain ⟨hch, hput, hfab⟩ := State.putOut_served hu hr hwo hws hwd
    (netType_rowPacket s c (descSrcLoc v.desc) a 1 (descVc v.desc) ch v.tag none (by decide))
  rw [e]
  exact ⟨by rw [hch, hwg], hput⟩

/-- A row of class 1 or 2 for another module is a packet of the quay fabric that carries its own address (R109). -/
theorem State.forwardRow_sent (s t : State) (c a vc ch tag : Nat) (row : Row) (hm : addrModule s 0 a ≠ s.moduleNumber)
    (hk : addrClass a = 1 ∨ addrClass a = 2)
    (ht : t.fabric = (s.forwardRow (rowPacket s c 0 a 0 vc ch tag (some row))).fabric) :
    Sent s t (addrQuay a) (rowHead (addrModule s 0 a) (addrQuay a) (addrOffset a) (some row))
      (netBytes (rowPacket s c 0 a 0 vc ch tag (some row))) := by
  have hfar : (netDest s c 0 a).2.2 = true := by
    unfold netDest
    rcases hk with h | h <;> rw [h] <;> rfl
  obtain ⟨p, hp⟩ : ∃ p, rowPacket s c 0 a 0 vc ch tag (some row) = p := ⟨_, rfl⟩
  have hpa : p.address = some (BitVec.ofNat 64 (globalAddr s 0 a)) := by
    rw [← hp]
    unfold rowPacket
    dsimp only
    rw [if_pos hfar]
  have hpd : p.data = some row := by rw [← hp]; rfl
  have hmod : addrModule s 0 a = a / 2 ^ 50 % 16384 := rfl
  have hg : (BitVec.ofNat 64 (globalAddr s 0 a)).toNat = addrModule s 0 a * 2 ^ 50 + a % 2 ^ 50 := by
    rw [BitVec.toNat_ofNat, globalAddr]
    omega
  have h1 : (BitVec.ofNat 64 (globalAddr s 0 a)).toNat / 2 ^ 50 % 16384 = addrModule s 0 a := by rw [hg]; omega
  have h2 : (BitVec.ofNat 64 (globalAddr s 0 a)).toNat / 2 ^ 47 % 8 = addrClass a := by
    rw [hg, addrClass]; omega
  have h3 : (BitVec.ofNat 64 (globalAddr s 0 a)).toNat / 2 ^ 45 % 4 = addrQuay a := by rw [hg, addrQuay]; omega
  have h4 : (BitVec.ofNat 64 (globalAddr s 0 a)).toNat % 2 ^ 45 = addrOffset a := by rw [hg, addrOffset]; omega
  rw [hp] at ht ⊢
  have e : s.forwardRow p = s.sendPacket (addrQuay a) (rowHead (addrModule s 0 a) (addrQuay a) (addrOffset a) (some row)) (netBytes p) := by
    unfold State.forwardRow
    rw [hpa]
    dsimp only
    rw [h1, h2, h3, h4, hpd, if_neg (by omega)]
  rw [e] at ht
  unfold State.sendPacket at ht
  refine ⟨fun port h => ?_, fun h => ?_⟩
  · dsimp only at ht
    rw [show routePort s (addrQuay a) _ _ _ = some port from h] at ht
    rw [ht]
  · dsimp only at ht
    rw [show routePort s (addrQuay a) _ _ _ = none from h] at ht
    rw [ht]

/-! ### A channel that another comes before -/

theorem execChannelRowMove_waits (s : State) (c ch : Nat) (hc : coreExists s c = true) (ha : answers s c = true)
    (h : chosenAct s c ch = none) :
    ∃ t, exec (.channelRowMove c ch) s = .next t ∧ (t.core c).chan ch = { (s.core c).chan ch with
          bankWait := ((t.core c).chan ch).bankWait, triedAt := ((t.core c).chan ch).triedAt }
      ∧ SameBut {} (s.core c).chans (t.core c).chans ch ∧ SameBut {} s.cores t.cores c ∧ t = { s with cores := t.cores } := by
  have hstay : ∀ port, s.notServed c ch port = s ∨ ∃ w : Channel, w = { (s.core c).chan ch with bankWait := w.bankWait, triedAt := w.triedAt }
      ∧ s.notServed c ch port = s.setCore c ((s.core c).putChan ch w) := fun port => by
    unfold State.notServed
    dsimp only
    split
    · exact Or.inl rfl
    · exact Or.inr ⟨_, rfl, rfl⟩
  obtain ⟨t, ht, hcase⟩ : ∃ t, exec (.channelRowMove c ch) s = .next t ∧ (t = s ∨ ∃ port, t = s.notServed c ch port) := by
    refine ⟨_, (onCore_exists _ hc).trans rfl, ?_⟩
    rw [if_neg (by simp [ha]), h]
    dsimp only
    split
    · exact Or.inl rfl
    · exact Or.inr ⟨_, rfl⟩
  have hcase : t = s ∨ ∃ w : Channel, w = { (s.core c).chan ch with bankWait := w.bankWait, triedAt := w.triedAt }
      ∧ t = s.setCore c ((s.core c).putChan ch w) := by
    rcases hcase with h | ⟨port, h⟩
    · exact Or.inl h
    · exact (hstay port).imp (h.trans ·) (fun ⟨w, hw, e⟩ => ⟨w, hw, h.trans e⟩)
  refine ⟨t, ht, ?_⟩
  rcases hcase with h | ⟨w, hw, h⟩
  · rw [h]
    exact ⟨rfl, fun _ _ => rfl, fun _ _ => rfl, rfl⟩
  · obtain ⟨k, hk, hkc⟩ : ∃ k, (s.core c).putChan ch w = k ∧ ∀ m, k.chan m = if m = ch then w else (s.core c).chan m :=
      ⟨_, rfl, fun m => Core.putChan_chan ..⟩
    rw [hk] at h
    have htc : ∀ d, t.core d = if d = c then k else s.core d := fun d => by rw [h, State.setCore_core]
    have hch : ∀ m, (t.core c).chan m = if m = ch then w else (s.core c).chan m := fun m => by rw [htc, if_pos rfl, hkc]
    refine ⟨?_, fun m hm => (hch m).trans (if_neg hm), fun d hd => (htc d).trans (if_neg hd), by rw [h]; rfl⟩
    rw [hch, if_pos rfl]
    exact hw

/-! ### The obligation -/

theorem execDescriptorBegin_clear {s : State} {c ch : Nat} {pd : Pending} (hc : coreExists s c = true) (ha : answers s c = true)
    (hpend : tget none (s.core c).iss.pend ch = some pd) (hsnap : (s.core c).snap = none)
    (hidle : ((s.core c).chan ch).state = .idle)
    (hdue : bundleDue s c (max s.now ((s.core c).beginAt pd)) = false) (href : pd.refused = false)
    (hfirst : ∀ n, n < ch → takesBegin (s.core c) (max s.now ((s.core c).beginAt pd)) n = false)
    (hrange : descInRange pd.desc = true) (halign : descAligned pd.desc = true)
    (hsb : checkSb (s.core c).iss.sb [] (descEntries pd.desc ch (s.core c).iss.serial) = .clear) :
    exec (.descriptorBegin c ch) s = .next ((s.advance ((s.core c).beginAt pd)).setCore c
      ((s.core c).begun s c ch pd (max s.now ((s.core c).beginAt pd)))) := by
  rw [execDescriptorBegin_checked hc ha hpend hsnap hidle hdue href hfirst]
  dsimp only
  rw [if_neg (by simp [hrange]), if_neg (by simp [halign]), hsb]
  rfl

/-- Settles O10: a descriptor meets its checks in order; each row action is the model's own at the cycle its port serves it. -/
theorem descriptorsBeginAndChannelsMoveRows : Obligations.DescriptorsBeginAndChannelsMoveRows := by
  unfold Obligations.DescriptorsBeginAndChannelsMoveRows
  refine ⟨fun s c ch pd hc ha hpend hsnap hidle => ?begin', fun s c ch a early h => chosenAct_least h, ?fill, ?read, ?store, ?result,
    ?send, ?ask, execChannelRowMove_waits⟩
  case begin' =>
    have hnow : (s.advance ((s.core c).beginAt pd)).now = max s.now ((s.core c).beginAt pd) := rfl
    refine ⟨execDescriptorBegin_waits hc hpend, fun hdue href hfirst => ⟨fun hrange halign hsb => ?_, fun hbad => ?_,
      fun hrange halign hsb he => ?_⟩⟩
    · obtain ⟨at', hat⟩ : ∃ n, max s.now ((s.core c).beginAt pd) = n := ⟨_, rfl⟩
      obtain ⟨k, hk, hkc, hklast, hkiss, hkpend, hkp⟩ : ∃ k, (s.core c).begun s c ch pd at' = k
          ∧ (∀ n, n ≠ ch → k.chan n = (s.core c).chan n) ∧ k.lastBegin = some at'
          ∧ k.iss = { (s.core c).iss with pend := k.iss.pend
                                          sb := (s.core c).iss.sb ++ descEntries pd.desc ch (s.core c).iss.serial
                                          serial := (s.core c).iss.serial + 1 }
          ∧ tget none k.iss.pend ch = none ∧ ∀ n, n ≠ ch → tget none k.iss.pend n = tget none (s.core c).iss.pend n :=
        ⟨_, rfl, fun n hn => (Core.begun_chan ..).trans (if_neg hn), rfl, rfl, by simp [Core.begun], fun n hn => by
          simp [Core.begun, tget_tput, hn]⟩
      obtain ⟨h1, h2, h3, h4, h5, h6, h7⟩ : (k.chan ch).state = .active ∧ (k.chan ch).desc = pd.desc ∧ (k.chan ch).idx = pd.idx
          ∧ (k.chan ch).rowsRead = 0 ∧ (k.chan ch).rowsDone = 0 ∧ (k.chan ch).owed = 0
          ∧ (k.chan ch).tag = (((s.core c).chan ch).tag + 1) % 4096 := by
        rw [← hk, Core.begun_chan, if_pos rfl]
        exact ⟨rfl, rfl, rfl, rfl, rfl, rfl, rfl⟩
      have hex := execDescriptorBegin_clear hc ha hpend hsnap hidle hdue href hfirst hrange halign hsb
      rw [hat, hk] at hex
      obtain ⟨t, ht⟩ : ∃ t, (s.advance ((s.core c).beginAt pd)).setCore c k = t := ⟨_, rfl⟩
      rw [ht] at hex
      have htc : ∀ d, t.core d = if d = c then k else s.core d := fun d => by rw [← ht, State.setCore_core, State.advance_core]
      have htk : t.core c = k := (htc c).trans (if_pos rfl)
      refine ⟨t, hex, ?_⟩
      rw [htk]
      exact ⟨h1, h2, h3, h4, h5, h6, h7, by rw [hklast, hat], hkiss, hkpend, hkp, hkc, fun d hd => (htc d).trans (if_neg hd),
        by rw [← ht]; rfl, by rw [← ht]; rfl⟩
    · obtain ⟨u, hu⟩ : ∃ u, s.advance ((s.core c).beginAt pd) = u := ⟨_, rfl⟩
      have hcore : ∀ d, u.core d = s.core d := fun d => by rw [← hu, State.advance_core]
      have hctl : ∀ p, u.ctlOf p = s.ctlOf p := fun d => by rw [← hu, State.advance_ctlOf]
      have hun : u.now = max s.now ((s.core c).beginAt pd) := by rw [← hu, hnow]
      have huf : u = { s with now := u.now, rtc := u.rtc } := by rw [← hu]; rfl
      have hpart : ∀ d, u.partOfCore d = s.partOfCore d := fun d => by rw [huf]; rfl
      obtain ⟨h1, h2, h3, h4, h5, h6, h7, h8, h9, h10, h11, h12⟩ := u.rejectDesc_rejects c ch pd
        (if descInRange pd.desc = false then 2 else 1) (by rw [hcore]; exact hidle)
      have hex : exec (.descriptorBegin c ch) s = .next (u.rejectDesc c ch pd (if descInRange pd.desc = false then 2 else 1)) := by
        rw [execDescriptorBegin_checked hc ha hpend hsnap hidle hdue href hfirst]
        dsimp only
        rw [hu]
        cases hr : descInRange pd.desc with
        | false => rfl
        | true =>
          have hal : descAligned pd.desc = false := hbad.resolve_left (by simp [hr])
          rw [if_neg (by simp), if_pos (by simp [hal])]
          rfl
      refine ⟨_, hex, ?_⟩
      obtain ⟨t, ht⟩ : ∃ t, u.rejectDesc c ch pd (if descInRange pd.desc = false then 2 else 1) = t := ⟨_, rfl⟩
      rw [ht] at h1 h2 h3 h4 h5 h6 h7 h8 h9 h10 h11 h12 ⊢
      rw [hcore] at h4 h6 h7
      refine ⟨h1, h2, by rw [h3, hun], h4, h5, h6, h7, fun d hd => (h8 d hd).trans (hcore d),
        fun p hp => (h9 p (by rw [hpart]; exact hp)).trans (hctl p), fun h => by rw [h10 h, huf], by rw [h11, hun], ?_⟩
      have hr : t.rtc = u.rtc := by rw [h12]
      rw [h11, hr]
      exact h12.trans (congrArg (fun y : State => { y with cores := t.cores, ctl := t.ctl }) huf)
    · obtain ⟨u, hu⟩ : ∃ u, s.advance ((s.core c).beginAt pd) = u := ⟨_, rfl⟩
      have hcore : ∀ d, u.core d = s.core d := fun d => by rw [← hu, State.advance_core]
      have hup : u.pad = s.pad := by rw [← hu, State.advance_pad]
      have hum : u.marks = s.marks := by rw [← hu, State.advance_marks]
      have he' : coreElastic u c = false := by rw [← hu]; exact he
      obtain ⟨h1, h2, h3, h4, h5, h6, h7, h8, h9⟩ := u.heldBegin_stops c ch pd .sbHazard he'
      have hex : exec (.descriptorBegin c ch) s = .next (u.heldBegin c ch pd .sbHazard) := by
        rw [execDescriptorBegin_checked hc ha hpend hsnap hidle hdue href hfirst]
        dsimp only
        rw [hu, if_neg (by simp [hrange]), if_neg (by simp [halign]), hsb]
      refine ⟨_, hex, ?_⟩
      rw [hcore] at h2 h3 h5 h6
      exact ⟨h1, h2, h3, h4, h5, h6, fun d hd => (h7 d hd).trans (hcore d), h8.trans hup, h9.trans hum⟩
  case fill =>
    intro s c ch v early hc ha hst hf hn hr hrival
    have hch := chosenAct_fill hst hf hn hrival
    have hsrv := s.serve_served c ch .fill early
    have hrows : (((s.serve c ch .fill early).core c).chan ch).rowsDone = v.rowsDone := by
      obtain ⟨m, hw⟩ := hsrv.waits
      rw [hw]
    have hdesc : (((s.serve c ch .fill early).core c).chan ch).desc = v.desc := by
      obtain ⟨m, hw⟩ := hsrv.waits
      rw [hw]
    have hlen : (List.replicate 64 (leBytes 8 (descPattern v.desc).toNat)).flatten.length = 512 := by
      rw [List.length_flatten, List.map_replicate, leBytes_length]; rfl
    obtain ⟨h1, h2, h3, h4⟩ := State.retireRow_served (n := v.rowsDone)
      (row := { bytes := (List.replicate 64 (leBytes 8 (descPattern v.desc).toNat)).flatten, poison := [] }) hsrv hr hlen
    refine ⟨_, execChannelRowMove_moves hc ha hch, ?_⟩
    unfold State.act
    dsimp only
    rw [hrows, hdesc]
    exact ⟨h1, h4⟩
  case read =>
    intro s c ch early v hc ha h
    exact ⟨_, execChannelRowMove_moves hc ha h, State.readLocal_served (s.serve_served c ch .read early)⟩
  case store =>
    intro s c ch n row early v hc ha h hr hl
    exact ⟨_, execChannelRowMove_moves hc ha h, State.retireRow_served (s.serve_served c ch (.store n row) early) hr hl⟩
  case result =>
    intro s c ch early v hc ha h
    exact ⟨_, execChannelRowMove_moves hc ha h, State.storeResult_served (s.serve_served c ch .storeResult early)⟩
  case send =>
    intro s c ch n row a early v hc ha h hn hr haddr hrej p
    obtain ⟨h1, h2, h3, h4⟩ := State.sendRow_served (s.serve_served c ch (.send n row) early) hr hn haddr hrej
    refine ⟨_, execChannelRowMove_moves hc ha h, h1, h2, h3, fun hloc hm hk => ?_⟩
    have hp : p = rowPacket s c 0 a 0 (descVc v.desc) ch v.tag (some row) := by
      show rowPacket s c (descDstLoc v.desc) a 0 (descVc v.desc) ch v.tag (some row) = _
      rw [hloc]
    rw [hp]
    refine State.forwardRow_sent s _ c a _ ch _ row hm hk ?_
    rw [← hp]
    exact h4
  case ask =>
    intro s c ch a early v hc ha h hr haddr hrej
    exact ⟨_, execChannelRowMove_moves hc ha h, State.sendRequest_served (s.serve_served c ch .ask early) hr haddr hrej⟩

end Sys2Proof.Machine
end

section
/-! SUPPORT. Responses, rejects, completion and the disable action of a channel (R140, R144-R148). -/

namespace Sys2Proof.Machine

/-! ### Responses and rejects -/

/-- What a step leaves that writes one channel of a core. -/
structure ChannelWritten (s t : State) (c ch : Nat) (w : Channel) : Prop where
  chan : (t.core c).chan ch = w
  own : t.core c = { s.core c with chans := (t.core c).chans }
  chans : SameBut {} (s.core c).chans (t.core c).chans ch
  cores : SameBut {} s.cores t.cores c
  frame : t = { s with cores := t.cores }

theorem State.putChan_written (s : State) (c ch : Nat) (w : Channel) :
    ChannelWritten s (s.setCore c ((s.core c).putChan ch w)) c ch w := by
  obtain ⟨k, hk, hkc, hko⟩ : ∃ k, (s.core c).putChan ch w = k ∧ (∀ n, k.chan n = if n = ch then w else (s.core c).chan n)
      ∧ k = { s.core c with chans := k.chans } := ⟨_, rfl, fun n => Core.putChan_chan .., rfl⟩
  rw [hk]
  obtain ⟨t, ht⟩ : ∃ t, s.setCore c k = t := ⟨_, rfl⟩
  have htc : ∀ d, t.core d = if d = c then k else s.core d := fun d => by rw [← ht, State.setCore_core]
  have htk : t.core c = k := (htc c).trans (if_pos rfl)
  rw [ht]
  refine ⟨by rw [htk, hkc, if_pos rfl], by rw [htk]; exact hko, fun n hn => ?_, fun d hd => (htc d).trans (if_neg hd), by rw [← ht]; rfl⟩
  rw [htk]
  exact (hkc n).trans (if_neg hn)

/-- The channel that a response's effect leaves, where one is owed to the transfer that it names. -/
theorem takeResponse_active {k : Core} {ch now : Nat} (f : Channel → Channel) (hst : (k.chan ch).state = .active)
    (ho : (k.chan ch).owed ≠ 0) :
    takeResponse k ch (k.chan ch).tag now f = k.putChan ch { f (k.chan ch) with owed := (k.chan ch).owed - 1 } := by
  unfold takeResponse
  dsimp only
  rw [if_neg (by simp [ho]), hst]

theorem takeResponse_foreign {k : Core} {ch tag : Nat} (now : Nat) (f : Channel → Channel) (h : tag ≠ (k.chan ch).tag) :
    takeResponse k ch tag now f = k := by
  unfold takeResponse
  dsimp only
  rw [if_pos (Or.inr h)]

/-- A draining channel is idle with the last response that it is owed (R147). -/
theorem takeResponse_draining {k : Core} {ch : Nat} (now : Nat) (f : Channel → Channel) (hst : (k.chan ch).state = .draining)
    (ho : (k.chan ch).owed ≠ 0) :
    let k' := takeResponse k ch (k.chan ch).tag now f
    (k'.chan ch).owed = (k.chan ch).owed - 1 ∧ ((k'.chan ch).state = .idle ↔ (k.chan ch).owed = 1)
      ∧ ∀ n, n ≠ ch → k'.chan n = k.chan n := by
  unfold takeResponse
  dsimp only
  rw [if_neg (by simp [ho]), hst]
  dsimp only
  by_cases h1 : (k.chan ch).owed = 1
  · rw [if_pos h1]
    obtain ⟨w, hw, hwo, hws⟩ : ∃ w : Channel, { k.chan ch with owed := 0, state := .idle, flight := [] } = w ∧ w.owed = 0 ∧ w.state = .idle :=
      ⟨_, rfl, rfl, rfl⟩
    rw [hw]
    have hk := wakeDma_eq (k.putChan ch w) ch now
    have hch : ∀ n, (wakeDma (k.putChan ch w) ch now).chan n = if n = ch then w else k.chan n := fun n => by
      rw [hk]; exact Core.putChan_chan k ch n w
    refine ⟨?_, ?_, fun n hn => (hch n).trans (if_neg hn)⟩
    · rw [hch, if_pos rfl, hwo, h1]
    · rw [hch, if_pos rfl, hws, h1]
      exact iff_of_true rfl rfl
  · rw [if_neg h1]
    obtain ⟨w, hw, hwo, hws⟩ : ∃ w : Channel, { k.chan ch with state := .draining, owed := (k.chan ch).owed - 1 } = w
      ∧ w.owed = (k.chan ch).owed - 1 ∧ w.state = .draining := ⟨_, rfl, rfl, rfl⟩
    rw [hw]
    have hch := fun n => Core.putChan_chan k ch n w
    refine ⟨?_, ?_, fun n hn => (hch n).trans (if_neg hn)⟩
    · rw [hch, if_pos rfl, hwo]
    · rw [hch, if_pos rfl, hws]
      exact ⟨(by cases ·), (absurd · h1)⟩

theorem State.takeResponse_drains (s : State) (c ch : Nat) (f : Channel → Channel) (hst : ((s.core c).chan ch).state = .draining)
    (ho : ((s.core c).chan ch).owed ≠ 0) :
    let t := s.setCore c (takeResponse (s.core c) ch ((s.core c).chan ch).tag s.now f)
    ((t.core c).chan ch).owed = ((s.core c).chan ch).owed - 1
      ∧ (((t.core c).chan ch).state = .idle ↔ ((s.core c).chan ch).owed = 1)
      ∧ SameBut {} (s.core c).chans (t.core c).chans ch ∧ SameBut {} s.cores t.cores c ∧ t = { s with cores := t.cores } := by
  obtain ⟨h1, h2, h3⟩ := takeResponse_draining s.now f hst ho
  obtain ⟨k, hk⟩ : ∃ k, takeResponse (s.core c) ch ((s.core c).chan ch).tag s.now f = k := ⟨_, rfl⟩
  rw [hk] at h1 h2 ⊢
  simp only [hk] at h3
  have htk : (s.setCore c k).core c = k := (State.setCore_core ..).trans (if_pos rfl)
  dsimp only
  rw [htk]
  exact ⟨h1, h2, h3, fun d hd => (State.setCore_core ..).trans (if_neg hd), rfl⟩

/-! ### Completion -/

/-- A channel that completes: its status word, its entries gone, the core that waits for it woken (R144, R145). -/
theorem State.completeChannel_completes (s : State) (c ch p : Nat) (hp : s.partOfCore c = some p) :
    let v := (s.core c).chan ch
    let t := s.completeChannel c ch
    ((t.core c).chan ch).state = .idle
      ∧ ((t.core c).chan ch).status = statusWord v.idx (if v.rejected.isSome then 3 else 0) v.poison (v.rejected.getD 0) v.rowsDone
      ∧ (∀ e, e ∈ (t.core c).iss.sb ↔ e ∈ (s.core c).iss.sb ∧ e.party ≠ .dma ch)
      ∧ (t.core c).iss.pend = (s.core c).iss.pend
      ∧ (tget none (s.core c).iss.pend ch = none → (s.core c).wait = .dma ch → (t.core c).wait = .running)
      ∧ (t.ctlOf p).counts.rejectedTransfers = (s.ctlOf p).counts.rejectedTransfers + (if v.rejected.isSome then 1 else 0)
      ∧ (t.ctlOf p).counts.early = (if tagEarly s c v.desc v.target then min 4294967295 ((s.ctlOf p).counts.early + 1)
          else (s.ctlOf p).counts.early)
      ∧ SameBut {} (s.core c).chans (t.core c).chans ch ∧ SameBut {} s.cores t.cores c ∧ SameBut {} s.ctl t.ctl p
      ∧ t = { s with cores := t.cores, ctl := t.ctl } := by
  obtain ⟨v, hv⟩ : ∃ v, (s.core c).chan ch = v := ⟨_, rfl⟩
  rw [hv]
  obtain ⟨w, hw, hwi, hws⟩ : ∃ w : Channel, { v with
      state := .idle, staging := [], ready := [], flight := [], doneAt := some s.now
      status := statusWord v.idx (if v.rejected.isSome then 3 else 0) v.poison (v.rejected.getD 0) v.rowsDone
      rejectedCount := if v.rejected.isSome then satAdd 16 v.rejectedCount 1 else v.rejectedCount } = w
      ∧ w.state = .idle
      ∧ w.status = statusWord v.idx (if v.rejected.isSome then 3 else 0) v.poison (v.rejected.getD 0) v.rowsDone := ⟨_, rfl, rfl, rfl⟩
  obtain ⟨k1, hk1, hk1c, hk1s, hk1p, hk1w⟩ : ∃ k1, (releaseChannel (s.core c) ch).putChan ch w = k1
      ∧ (∀ n, k1.chan n = if n = ch then w else (s.core c).chan n)
      ∧ (∀ e, e ∈ k1.iss.sb ↔ e ∈ (s.core c).iss.sb ∧ e.party ≠ .dma ch) ∧ k1.iss.pend = (s.core c).iss.pend
      ∧ k1.wait = (s.core c).wait := by
    refine ⟨_, rfl, fun n => Core.putChan_chan .., fun e => ?_, rfl, rfl⟩
    show e ∈ (s.core c).iss.sb.filter _ ↔ _
    rw [List.mem_filter, bne_iff_ne]
  have hwake : ∀ x y, wakeDma k1 x y = { k1 with wait := (wakeDma k1 x y).wait, nextIssue := (wakeDma k1 x y).nextIssue } := wakeDma_eq k1
  have hrun : tget none (s.core c).iss.pend ch = none → (s.core c).wait = .dma ch → (wakeDma k1 ch s.now).wait = .running := fun h1 h2 => by
    have hfree : channelFree k1 ch = true := by
      unfold channelFree
      have : tget {} k1.chans ch = w := (hk1c ch).trans (if_pos rfl)
      rw [this, hwi, hk1p, h1]
      rfl
    unfold wakeDma
    rw [if_pos ⟨by rw [hk1w, h2], hfree⟩]
  obtain ⟨k, hk⟩ : ∃ k, wakeDma k1 ch s.now = k := ⟨_, rfl⟩
  have hwk := hwake ch s.now
  rw [hk] at hwk hrun
  obtain ⟨ct, hct, hctr, hcte⟩ : ∃ ct : PartControl, { s.ctlOf p with counts := { (s.ctlOf p).counts with
      rejectedTransfers := (s.ctlOf p).counts.rejectedTransfers + (if v.rejected.isSome then 1 else 0)
      early := if tagEarly s c v.desc v.target then satAdd 32 (s.ctlOf p).counts.early 1 else (s.ctlOf p).counts.early } } = ct
      ∧ ct.counts.rejectedTransfers = (s.ctlOf p).counts.rejectedTransfers + (if v.rejected.isSome then 1 else 0)
      ∧ ct.counts.early = (if tagEarly s c v.desc v.target then min 4294967295 ((s.ctlOf p).counts.early + 1)
          else (s.ctlOf p).counts.early) := ⟨_, rfl, rfl, rfl⟩
  have e : s.completeChannel c ch = (s.setCore c k).setCtl p ct := by
    unfold State.completeChannel
    dsimp only
    rw [hv, hw, hk1, hk, hp]
    dsimp only
    rw [State.setCore_ctlOf, hct]
  rw [e]
  obtain ⟨t, ht⟩ : ∃ t, (s.setCore c k).setCtl p ct = t := ⟨_, rfl⟩
  rw [ht]
  have htc : ∀ d, t.core d = if d = c then k else s.core d := fun d => by rw [← ht, State.setCtl_core, State.setCore_core]
  have htk : t.core c = k := (htc c).trans (if_pos rfl)
  have hctl : ∀ q, t.ctlOf q = if q = p then ct else s.ctlOf q := fun q => by rw [← ht, State.setCtl_ctlOf, State.setCore_ctlOf]
  have hkc : ∀ n, k.chan n = if n = ch then w else (s.core c).chan n := fun n => by rw [hwk]; exact hk1c n
  have hks : k.iss = k1.iss := by rw [hwk]
  dsimp only
  rw [htk, hkc, if_pos rfl, hctl, if_pos rfl, hks]
  exact ⟨hwi, hws, hk1s, hk1p, hrun, hctr, hcte, fun n hn => (hkc n).trans (if_neg hn), fun d hd => (htc d).trans (if_neg hd),
    fun q hq => (hctl q).trans (if_neg hq), by rw [← ht]; rfl⟩

/-! ### The disable action -/

/-- Of a core, only what its channels own has changed: their state, the issue state, and what waits for them. -/
def ChannelsOnly (k k' : Core) : Prop :=
  k' = { k with iss := k'.iss, snap := k'.snap, wait := k'.wait, nextIssue := k'.nextIssue, chans := k'.chans }

theorem ChannelsOnly.trans {k k' k'' : Core} (h : ChannelsOnly k k') (g : ChannelsOnly k' k'') : ChannelsOnly k k'' :=
  Eq.trans g (congrArg (fun y : Core => { y with
    iss := k''.iss, snap := k''.snap, wait := k''.wait, nextIssue := k''.nextIssue, chans := k''.chans }) h)

theorem channelsOnly_wakeDma (k : Core) (ch now : Nat) : ChannelsOnly k (wakeDma k ch now) := by
  unfold wakeDma
  split <;> rfl

theorem channelsOnly_release (k : Core) (ch : Nat) (w : Channel) : ChannelsOnly k ((releaseChannel k ch).putChan ch w) := rfl

theorem channelsOnly_dropPending (k : Core) (ch : Nat) : ChannelsOnly k (dropPending k ch) := rfl

theorem State.completeChannel_own (s : State) (c ch : Nat) : ChannelsOnly (s.core c) ((s.completeChannel c ch).core c) := by
  have key : ∀ k : Core, ChannelsOnly (s.core c) k → ∀ t : State, t.cores = (s.setCore c k).cores → ChannelsOnly (s.core c) (t.core c) :=
    fun k hk t ht => by
      have : t.core c = k := by
        have := (State.setCore_core s c k c).trans (if_pos rfl)
        unfold State.core at this ⊢
        rw [ht]; exact this
      rw [this]; exact hk
  unfold State.completeChannel
  dsimp only
  split
  · exact key _ ((channelsOnly_release _ _ _).trans (channelsOnly_wakeDma _ _ _)) _ rfl
  · exact key _ ((channelsOnly_release _ _ _).trans (channelsOnly_wakeDma _ _ _)) _ rfl

/-- What ending the transfers of one channel leaves (R147, R148). -/
structure ChannelEnded (u w : State) (c ch p : Nat) : Prop where
  pend : tget none (w.core c).iss.pend ch = none
  ended : ((w.core c).chan ch).state ≠ .active
  idle : ((u.core c).chan ch).state = .active →
    (((w.core c).chan ch).state = .idle ↔ ((u.core c).chan ch).owed = 0 ∨ ((u.core c).chan ch).since = u.now)
  pends : ∀ n, tget none (u.core c).iss.pend n = none → tget none (w.core c).iss.pend n = none
  chans : ∀ n, n ≠ ch → (w.core c).chan n = (u.core c).chan n
  bytes : ∀ a, readByte w.pad a = readByte u.pad a ∨ ∃ e, e ∈ ((u.core c).chan ch).staging
    ∧ padAt c (dstRowOf ((u.core c).chan ch).desc e.1) ≤ a ∧ a < padAt c (dstRowOf ((u.core c).chan ch).desc e.1) + 512
  own : ChannelsOnly (u.core c) (w.core c)
  heal : ∀ d, d ≠ c → w.heal d = u.heal d
  cores : ∀ d, d ≠ c → w.core d = u.core d
  ctl : ∀ q, q ≠ p → w.ctlOf q = u.ctlOf q
  frame : w = { u with
    cores := w.cores, health := w.health, pad := w.pad, marks := w.marks, freeCtr := w.freeCtr, ctl := w.ctl }

theorem dropPending_chan (k : Core) (ch n : Nat) : (dropPending k ch).chan n = k.chan n := rfl

theorem dropPending_pend (k : Core) (ch n : Nat) :
    tget none (dropPending k ch).iss.pend n = if n = ch then none else tget none k.iss.pend n := by
  simp only [dropPending, tget_tput]

theorem State.writeRow_frame (u : State) (c row : Nat) (d : Row) :
    u.writeRow c row d = { u with health := (u.writeRow c row d).health, pad := (u.writeRow c row d).pad
                                  marks := (u.writeRow c row d).marks } := by
  unfold State.writeRow State.rowWritten
  dsimp only
  split <;> rfl

theorem fitBytes_length (n : Nat) (bs : List Byte) : (fitBytes n bs).length = n := by
  rw [fitBytes, List.length_append, List.length_take, List.length_replicate]
  omega

theorem State.writeRow_bytes_outside (u : State) (c row a : Nat) (d : Row) (h : ¬ (padAt c row ≤ a ∧ a < padAt c row + 512)) :
    readByte (u.writeRow c row d).pad a = readByte u.pad a := by
  simp only [State.writeRow, State.rowWritten_pad, readByte_writeBytes, fitBytes_length]
  rw [if_neg h]

/-- The staged rows that are written, whichever they are: the rest of the state stands, and so does every byte outside them. -/
theorem foldl_writeStaged (c : Nat) (d : BitVec 512) (g : Nat → Bool) (l : List (Nat × Row)) (s : State) :
    let t := l.foldl (fun (t : State) e => if g e.1 then t.writeRow c (dstRowOf d e.1) e.2 else t) s
    t = { s with health := t.health, pad := t.pad, marks := t.marks } ∧ (∀ n, n ≠ c → t.heal n = s.heal n)
      ∧ ∀ a, readByte t.pad a = readByte s.pad a
          ∨ ∃ e, e ∈ l ∧ padAt c (dstRowOf d e.1) ≤ a ∧ a < padAt c (dstRowOf d e.1) + 512 := by
  induction l generalizing s with
  | nil => exact ⟨rfl, fun _ _ => rfl, fun a => Or.inl rfl⟩
  | cons x l ih =>
    rw [List.foldl_cons]
    obtain ⟨u, hu⟩ : ∃ u, (if g x.1 then s.writeRow c (dstRowOf d x.1) x.2 else s) = u := ⟨_, rfl⟩
    have huf : u = { s with health := u.health, pad := u.pad, marks := u.marks } ∧ (∀ n, n ≠ c → u.heal n = s.heal n)
        ∧ ∀ a, readByte u.pad a = readByte s.pad a ∨ padAt c (dstRowOf d x.1) ≤ a ∧ a < padAt c (dstRowOf d x.1) + 512 := by
      rw [← hu]
      split
      · refine ⟨State.writeRow_frame .., (Stored.writeRow c s _ _).heal, fun a => ?_⟩
        by_cases h : padAt c (dstRowOf d x.1) ≤ a ∧ a < padAt c (dstRowOf d x.1) + 512
        · exact Or.inr h
        · exact Or.inl (State.writeRow_bytes_outside s c _ a _ h)
      · exact ⟨rfl, fun _ _ => rfl, fun a => Or.inl rfl⟩
    rw [hu]
    obtain ⟨hf, hh, hb⟩ := huf
    obtain ⟨h1, hheal, h2⟩ := ih u
    obtain ⟨t, ht⟩ : ∃ t, l.foldl (fun (t : State) e => if g e.1 then t.writeRow c (dstRowOf d e.1) e.2 else t) u = t := ⟨_, rfl⟩
    rw [ht] at h1 h2 hheal ⊢
    refine ⟨h1.trans (congrArg (fun y : State => { y with health := t.health, pad := t.pad, marks := t.marks }) hf),
      fun n hn => (hheal n hn).trans (hh n hn), fun a => ?_⟩
    rcases h2 a with h | ⟨e, he, h⟩
    · rcases hb a with h' | h'
      · exact Or.inl (h.trans h')
      · exact Or.inr ⟨x, List.mem_cons_self, h'⟩
    · exact Or.inr ⟨e, List.mem_cons_of_mem _ he, h⟩

/-- A core's pending registers and channels after a channel's state is written and its entries leave. -/
theorem wakeDma_release (k : Core) (ch now : Nat) (w : Channel) :
    let k' := wakeDma ((releaseChannel k ch).putChan ch w) ch now
    (∀ n, k'.chan n = if n = ch then w else k.chan n) ∧ k'.iss.pend = k.iss.pend := by
  have hk := wakeDma_eq ((releaseChannel k ch).putChan ch w) ch now
  dsimp only
  rw [hk]
  exact ⟨fun n => Core.putChan_chan (releaseChannel k ch) ch n w, rfl⟩

/-- An active transfer that ends (R147). -/
theorem State.endTransfer_ends (u : State) (c ch p : Nat)
    (hpend : tget none (u.core c).iss.pend ch = none) (hsince : ((u.core c).chan ch).since ≠ u.now) :
    ChannelEnded u (u.endTransfer c ch) c ch p := by
  obtain ⟨v, hv⟩ : ∃ v, (u.core c).chan ch = v := ⟨_, rfl⟩
  obtain ⟨w, hw, hws⟩ : ∃ w : Channel, { v with
      state := if v.owed = 0 then .idle else .draining
      staging := [], ready := [], flight := [], target := none, doneAt := none, rejected := none, drainSince := u.now
      status := statusWord v.idx 4 v.poison 0 (Config.freeNat u.freeCtr (8 * c + ch) % 4097) } = w
      ∧ w.state = if v.owed = 0 then .idle else .draining := ⟨_, rfl, rfl⟩
  obtain ⟨s1, hs1, hs1f, hs1h, hs1b⟩ : ∃ s1, (if descDstHere v.desc && v.rejected.isNone then
      v.staging.foldl (fun (t : State) e =>
        if Config.freeBool u.freeCtr e.1 then t.writeRow c (dstRowOf v.desc e.1) e.2 else t) u
    else u) = s1 ∧ s1 = { u with health := s1.health, pad := s1.pad, marks := s1.marks } ∧ (∀ n, n ≠ c → s1.heal n = u.heal n)
      ∧ ∀ a, readByte s1.pad a = readByte u.pad a
          ∨ ∃ e, e ∈ v.staging ∧ padAt c (dstRowOf v.desc e.1) ≤ a ∧ a < padAt c (dstRowOf v.desc e.1) + 512 := by
    refine ⟨_, rfl, ?_⟩
    split
    · exact foldl_writeStaged c v.desc (Config.freeBool u.freeCtr) v.staging u
    · exact ⟨rfl, fun _ _ => rfl, fun a => Or.inl rfl⟩
  obtain ⟨hkc, hkp⟩ := wakeDma_release (u.core c) ch u.now w
  have hko := (channelsOnly_release (u.core c) ch w).trans (channelsOnly_wakeDma _ ch u.now)
  obtain ⟨k, hk⟩ : ∃ k, wakeDma ((releaseChannel (u.core c) ch).putChan ch w) ch u.now = k := ⟨_, rfl⟩
  rw [hk] at hkp hko
  simp only [hk] at hkc
  have hs1c : ∀ d, s1.core d = u.core d := fun d => by rw [hs1f]; rfl
  have e : u.endTransfer c ch = (s1.setCore c k).bump := by
    unfold State.endTransfer
    dsimp only
    rw [hv, hs1, hw, hk]
  rw [e]
  obtain ⟨t, ht⟩ : ∃ t, (s1.setCore c k).bump = t := ⟨_, rfl⟩
  have htc : ∀ d, t.core d = if d = c then k else u.core d := fun d => by
    rw [← ht, State.bump_core, State.setCore_core, hs1c]
  have htk : t.core c = k := (htc c).trans (if_pos rfl)
  have htp : t.pad = s1.pad := by rw [← ht, State.bump_pad, State.setCore_pad]
  have hctl : ∀ q, t.ctlOf q = s1.ctlOf q := fun q => by rw [← ht]; rfl
  have hheal : ∀ d, t.heal d = s1.heal d := fun d => by rw [← ht]; rfl
  have hf : t = { s1 with cores := t.cores, freeCtr := t.freeCtr } := by rw [← ht]; rfl
  rw [ht]
  refine ⟨by rw [htk, hkp]; exact hpend, ?_, fun _ => ?_, fun n hn => by rw [htk, hkp]; exact hn, fun n hn => ?_, fun a => ?_,
    by rw [htk]; exact hko, fun d hd => (hheal d).trans (hs1h d hd), fun d hd => (htc d).trans (if_neg hd), fun q _ => (hctl q).trans (by rw [hs1f]; rfl), ?_⟩
  · rw [htk, hkc, if_pos rfl, hws]
    split <;> exact fun h => by cases h
  · rw [htk, hkc, if_pos rfl, hws, hv]
    rw [hv] at hsince
    by_cases ho : v.owed = 0
    · rw [if_pos ho]
      exact iff_of_true rfl (Or.inl ho)
    · rw [if_neg ho]
      exact ⟨(by cases ·), fun h => (h.elim ho hsince).elim⟩
  · rw [htk, hkc, if_neg hn]
  · rw [htp, hv]
    exact hs1b a
  · have h1 : t.health = s1.health := by rw [hf]
    have h2 : t.marks = s1.marks := by rw [hf]
    have h3 : t.ctl = u.ctl := by rw [hf, hs1f]
    rw [htp, h1, h2, h3]
    exact hf.trans (congrArg (fun y : State => { y with cores := t.cores, freeCtr := t.freeCtr }) hs1f)

/-- Two steps on one channel, the first of which only empties its pending register. -/
theorem ChannelEnded.of_dropped {s u w : State} {c ch p : Nat} (h : ChannelEnded u w c ch p)
    (hu : u = s.setCore c (dropPending (s.core c) ch)) : ChannelEnded s w c ch p := by
  obtain ⟨k, hk, hko, hkc, hkp⟩ : ∃ k, dropPending (s.core c) ch = k ∧ ChannelsOnly (s.core c) k ∧ (∀ n, k.chan n = (s.core c).chan n)
      ∧ ∀ n, tget none k.iss.pend n = if n = ch then none else tget none (s.core c).iss.pend n :=
    ⟨_, rfl, channelsOnly_dropPending .., fun n => dropPending_chan .., fun n => dropPending_pend ..⟩
  rw [hk] at hu
  have huc : ∀ d, u.core d = if d = c then k else s.core d := fun d => by rw [hu, State.setCore_core]
  have huk : u.core c = k := (huc c).trans (if_pos rfl)
  have hch : ∀ n, (u.core c).chan n = (s.core c).chan n := fun n => by rw [huk, hkc]
  have hpad : u.pad = s.pad := by rw [hu, State.setCore_pad]
  have hnow : u.now = s.now := by rw [hu]; rfl
  have hctl : ∀ q, u.ctlOf q = s.ctlOf q := fun q => by rw [hu, State.setCore_ctlOf]
  have hf : u = { s with cores := u.cores } := by rw [hu]; rfl
  have hheal : ∀ d, u.heal d = s.heal d := fun d => by rw [hf]; rfl
  obtain ⟨h1, h2, h3, h4, h5, h6, ho, hh, h7, h8, h9⟩ := h
  rw [hch, hnow] at h3
  rw [hch, hpad] at h6
  refine ⟨h1, h2, h3, fun n hn => h4 n ?_, fun n hn => (h5 n hn).trans (hch n), h6,
    hko.trans (by rw [← huk]; exact ho), fun d hd => (hh d hd).trans (hheal d), fun d hd => (h7 d hd).trans ((huc d).trans (if_neg hd)), fun q hq => (h8 q hq).trans (hctl q), ?_⟩
  · rw [huk, hkp, hn, ite_self]
  · exact h9.trans (congrArg (fun y : State => { y with
      cores := w.cores, health := w.health, pad := w.pad, marks := w.marks, freeCtr := w.freeCtr, ctl := w.ctl }) hf)

/-- A step that writes the core alone, in which the channel is idle. -/
theorem ChannelEnded.of_core {u : State} {c ch p : Nat} {k : Core} (hko : ChannelsOnly (u.core c) k) (hpend : tget none k.iss.pend ch = none)
    (hst : (k.chan ch).state ≠ .active)
    (hidle : ((u.core c).chan ch).state = .active →
      ((k.chan ch).state = .idle ↔ ((u.core c).chan ch).owed = 0 ∨ ((u.core c).chan ch).since = u.now))
    (hpends : ∀ n, tget none (u.core c).iss.pend n = none → tget none k.iss.pend n = none)
    (hch : ∀ n, n ≠ ch → k.chan n = (u.core c).chan n) : ChannelEnded u (u.setCore c k) c ch p := by
  obtain ⟨t, ht⟩ : ∃ t, u.setCore c k = t := ⟨_, rfl⟩
  have htc : ∀ d, t.core d = if d = c then k else u.core d := fun d => by rw [← ht, State.setCore_core]
  have htk : t.core c = k := (htc c).trans (if_pos rfl)
  rw [ht]
  exact ⟨by rw [htk]; exact hpend, by rw [htk]; exact hst, by rw [htk]; exact hidle, by rw [htk]; exact hpends,
    by rw [htk]; exact hch, fun a => Or.inl (by rw [← ht, State.setCore_pad]), by rw [htk]; exact hko,
    fun d _ => by rw [← ht, State.setCore_heal], fun d hd => (htc d).trans (if_neg hd),
    fun q _ => by rw [← ht, State.setCore_ctlOf], by rw [← ht]; rfl⟩

theorem wakeDma_chan (k : Core) (ch now n : Nat) : (wakeDma k ch now).chan n = k.chan n := by rw [wakeDma_eq]; rfl
theorem wakeDma_pend (k : Core) (ch now : Nat) : (wakeDma k ch now).iss.pend = k.iss.pend := by rw [wakeDma_eq]

/-- A channel that is done owes nothing. -/
theorem owed_of_channelDone {v : Channel} (h : channelDone v = true) : v.owed = 0 := by
  unfold channelDone at h
  simp only [Bool.and_eq_true, decide_eq_true_eq] at h
  exact h.1.2

theorem State.disableChannel_ends (s : State) (c ch p : Nat) (hp : s.partOfCore c = some p) :
    ChannelEnded s (s.disableChannel c ch) c ch p := by
  obtain ⟨u, hu⟩ : ∃ u, s.setCore c (dropPending (s.core c) ch) = u := ⟨_, rfl⟩
  have huc : u.core c = dropPending (s.core c) ch := by rw [← hu, State.setCore_core, if_pos rfl]
  have hpend : tget none (u.core c).iss.pend ch = none := by rw [huc, dropPending_pend, if_pos rfl]
  have hpart : u.partOfCore c = some p := by rw [← hu]; exact hp
  have hnow : u.now = s.now := by rw [← hu]; rfl
  refine ChannelEnded.of_dropped (u := u) ?_ hu.symm
  obtain ⟨v, hv⟩ : ∃ v, (u.core c).chan ch = v := ⟨_, rfl⟩
  unfold State.disableChannel
  dsimp only
  rw [hu, hv, ← hnow]
  cases hst : v.state with
  | idle =>
    refine ChannelEnded.of_core (channelsOnly_wakeDma ..) (by rw [wakeDma_pend]; exact hpend) (by rw [wakeDma_chan, hv, hst]; decide)
      (fun h => by rw [hv, hst] at h; cases h) (fun n hn => by rw [wakeDma_pend]; exact hn) (fun n _ => wakeDma_chan ..)
  | draining =>
    exact ⟨hpend, by rw [hv, hst]; decide, fun h => (by rw [hv, hst] at h; cases h), fun n hn => hn, fun n _ => rfl, fun a => Or.inl rfl,
      rfl, fun _ _ => rfl, fun d _ => rfl, fun q _ => rfl, rfl⟩
  | active =>
    dsimp only
    by_cases hd : channelDone v = true
    · rw [if_pos hd]
      obtain ⟨h1, -, -, h4, -, -, -, h8, h9, h10, h11⟩ := u.completeChannel_completes c ch p hpart
      have hown := u.completeChannel_own c ch
      obtain ⟨t, ht⟩ : ∃ t, u.completeChannel c ch = t := ⟨_, rfl⟩
      rw [ht] at h1 h4 h8 h9 h10 h11 hown ⊢
      have hpad : t.pad = u.pad := by rw [h11]
      have hf1 : t.health = u.health := by rw [h11]
      have hf2 : t.marks = u.marks := by rw [h11]
      have hf3 : t.freeCtr = u.freeCtr := by rw [h11]
      refine ⟨by rw [h4]; exact hpend, by rw [h1]; decide, fun _ => ?_, fun n hn => by rw [h4]; exact hn, h8,
        fun a => Or.inl (by rw [hpad]), hown, fun d _ => by rw [h11]; rfl, h9, h10, ?_⟩
      · exact iff_of_true h1 (Or.inl (by rw [hv]; exact owed_of_channelDone hd))
      · rw [hpad, hf1, hf2, hf3]; exact h11
    · rw [if_neg hd]
      by_cases hs : v.since = u.now
      · rw [if_pos hs]
        obtain ⟨w, hw, hws⟩ : ∃ w : Channel, { v with state := .idle, staging := [], ready := [], target := none } = w ∧ w.state = .idle :=
          ⟨_, rfl, rfl⟩
        rw [hw]
        obtain ⟨hkc, hkp⟩ := wakeDma_release (u.core c) ch u.now w
        have hko := (channelsOnly_release (u.core c) ch w).trans (channelsOnly_wakeDma _ ch u.now)
        obtain ⟨k, hk⟩ : ∃ k, wakeDma ((releaseChannel (u.core c) ch).putChan ch w) ch u.now = k := ⟨_, rfl⟩
        rw [hk] at hkp hko ⊢
        simp only [hk] at hkc
        have hki : (k.chan ch).state = .idle := by rw [hkc, if_pos rfl, hws]
        exact ChannelEnded.of_core hko (by rw [hkp]; exact hpend) (by rw [hki]; decide)
          (fun _ => iff_of_true hki (Or.inr (by rw [hv]; exact hs))) (fun n hn => by rw [hkp]; exact hn)
          (fun n hn => by rw [hkc, if_neg hn])
      · rw [if_neg hs]
        exact u.endTransfer_ends c ch p hpend (by rw [hv]; exact hs)

/-- What the disable action leaves once it has gone through the channels below a number. -/
structure MaskEnded (s t : State) (c p mask n : Nat) : Prop where
  pend : ∀ ch, ch < n → mask.testBit ch = true → tget none (t.core c).iss.pend ch = none
  ended : ∀ ch, ch < n → mask.testBit ch = true → ((t.core c).chan ch).state ≠ .active
  idle : ∀ ch, ch < n → mask.testBit ch = true → ((s.core c).chan ch).state = .active →
    (((t.core c).chan ch).state = .idle ↔ ((s.core c).chan ch).owed = 0 ∨ ((s.core c).chan ch).since = s.now)
  chans : ∀ ch, n ≤ ch ∨ mask.testBit ch = false → (t.core c).chan ch = (s.core c).chan ch
  bytes : ∀ a, readByte t.pad a = readByte s.pad a ∨ ∃ ch e, mask.testBit ch = true ∧ e ∈ ((s.core c).chan ch).staging
    ∧ padAt c (dstRowOf ((s.core c).chan ch).desc e.1) ≤ a ∧ a < padAt c (dstRowOf ((s.core c).chan ch).desc e.1) + 512
  own : ChannelsOnly (s.core c) (t.core c)
  heal : ∀ d, d ≠ c → t.heal d = s.heal d
  cores : ∀ d, d ≠ c → t.core d = s.core d
  ctl : ∀ q, q ≠ p → t.ctlOf q = s.ctlOf q
  frame : t = { s with
    cores := t.cores, health := t.health, pad := t.pad, marks := t.marks, freeCtr := t.freeCtr, ctl := t.ctl }

theorem MaskEnded.step {s u w : State} {c p mask n : Nat} (h : MaskEnded s u c p mask n) (hn : mask.testBit n = true)
    (hw : ChannelEnded u w c n p) : MaskEnded s w c p mask (n + 1) := by
  have hsame : (u.core c).chan n = (s.core c).chan n := h.chans n (Or.inl le_rfl)
  have hnow : u.now = s.now := by rw [h.frame]
  have hlt : ∀ {ch}, ch < n + 1 → ch ≠ n → ch < n := fun h1 h2 => by omega
  refine ⟨fun ch hc hb => ?_, fun ch hc hb => ?_, fun ch hc hb ha => ?_, fun ch hc => ?_, fun a => ?_,
    h.own.trans hw.own, fun d hd => (hw.heal d hd).trans (h.heal d hd), fun d hd => (hw.cores d hd).trans (h.cores d hd), fun q hq => (hw.ctl q hq).trans (h.ctl q hq), ?_⟩
  · by_cases hcn : ch = n
    · rw [hcn]; exact hw.pend
    · exact hw.pends ch (h.pend ch (hlt hc hcn) hb)
  · by_cases hcn : ch = n
    · rw [hcn]; exact hw.ended
    · rw [hw.chans ch hcn]; exact h.ended ch (hlt hc hcn) hb
  · by_cases hcn : ch = n
    · rw [hcn] at ha ⊢
      have := hw.idle (by rw [hsame]; exact ha)
      rw [hsame, hnow] at this
      exact this
    · rw [hw.chans ch hcn]; exact h.idle ch (hlt hc hcn) hb ha
  · have hcn : ch ≠ n := fun e => by
      rw [e, hn] at hc
      exact hc.elim (by omega) (by decide)
    rw [hw.chans ch hcn]
    exact h.chans ch (hc.imp (by omega) id)
  · rcases hw.bytes a with h1 | ⟨e, he, h1⟩
    · rcases h.bytes a with h2 | h2
      · exact Or.inl (h1.trans h2)
      · exact Or.inr h2
    · rw [hsame] at he h1
      exact Or.inr ⟨n, e, hn, he, h1⟩
  · exact hw.frame.trans (congrArg (fun y : State => { y with
      cores := w.cores, health := w.health, pad := w.pad, marks := w.marks, freeCtr := w.freeCtr, ctl := w.ctl }) h.frame)

theorem MaskEnded.skip {s u : State} {c p mask n : Nat} (h : MaskEnded s u c p mask n) (hn : mask.testBit n = false) :
    MaskEnded s u c p mask (n + 1) := by
  have hlt : ∀ {ch}, ch < n + 1 → mask.testBit ch = true → ch < n := fun {ch} h1 h2 => by
    rcases Nat.lt_succ_iff_lt_or_eq.1 h1 with h | h
    · exact h
    · rw [h, hn] at h2; cases h2
  exact ⟨fun ch hc hb => h.pend ch (hlt hc hb) hb, fun ch hc hb => h.ended ch (hlt hc hb) hb, fun ch hc hb => h.idle ch (hlt hc hb) hb,
    fun ch hc => h.chans ch (hc.imp (by omega) id), h.bytes, h.own, h.heal, h.cores, h.ctl, h.frame⟩

theorem State.disableMask_ends (s : State) (c mask p : Nat) (hp : s.partOfCore c = some p) :
    MaskEnded s (s.disableMask c mask) c p mask 8 := by
  have key : ∀ n, MaskEnded s ((List.range n).foldl (fun t ch => if mask.testBit ch then t.disableChannel c ch else t) s) c p mask n := fun n => by
    induction n with
    | zero =>
      exact ⟨fun _ h => by omega, fun _ h => by omega, fun _ h => by omega, fun _ _ => rfl, fun _ => Or.inl rfl, rfl,
        fun _ _ => rfl, fun _ _ => rfl, fun _ _ => rfl, rfl⟩
    | succ n ih =>
      rw [List.range_succ, List.foldl_append, List.foldl_cons, List.foldl_nil]
      obtain ⟨u, hu⟩ : ∃ u, (List.range n).foldl (fun t ch => if mask.testBit ch then t.disableChannel c ch else t) s = u := ⟨_, rfl⟩
      rw [hu] at ih ⊢
      cases hb : mask.testBit n with
      | false => exact ih.skip hb
      | true =>
        refine ih.step hb (State.disableChannel_ends u c n p ?_)
        rw [ih.frame]; exact hp
  exact key 8

/-- The answer on a state whose answer was cleared. -/
theorem State.answer_cleared {u : State} {st : Nat} (h : u.resp = {}) : u.answer st = { u with resp := answered st } := by
  unfold State.answer
  rw [h]
  rfl

/-! ### The obligation -/

/-- Settles O11: a response acts on the channel whose transfer it names; a channel completes or is disabled as a whole. -/
theorem responsesReachChannelsThatComplete : Obligations.ResponsesReachChannelsThatComplete := by
  unfold Obligations.ResponsesReachChannelsThatComplete
  refine ⟨⟨?write, ?read, ?reject, ?drain, ?foreign⟩, ?complete, ?disable, ?later⟩
  case write =>
    intro s c ch n row rest v hc hst ho hfl
    have hw := s.putChan_written c ch (if n = descN v.desc
      then { v with owed := v.owed - 1, flight := rest, resultOwed := false, resultDone := true }
      else { v with owed := v.owed - 1, flight := rest, rowsDone := v.rowsDone + 1, lastDone := s.now })
    refine ⟨_, (onCore_exists _ hc).trans (congrArg (fun k => Host.Outcome.next (s.setCore c k)) ?_), hw.chan, hw.own, hw.chans,
      hw.cores, hw.frame⟩
    refine (takeResponse_active _ hst ho).trans (congrArg _ ?_)
    dsimp only
    rw [show ((s.core c).chan ch).flight = (n, row) :: rest from hfl]
    dsimp only
    by_cases hn : n = descN v.desc
    · rw [if_pos hn, if_pos (show n = descN ((s.core c).chan ch).desc from hn)]
    · rw [if_neg hn, if_neg (show ¬ n = descN ((s.core c).chan ch).desc from hn)]
  case read =>
    intro s c ch k data v hc hst ho hrej
    have hw := s.putChan_written c ch { v with
      owed := v.owed - 1, staging := tset v.staging k data, ready := tset v.ready k s.now }
    obtain ⟨t, ht⟩ : ∃ t, s.setCore c ((s.core c).putChan ch { v with
      owed := v.owed - 1, staging := tset v.staging k data, ready := tset v.ready k s.now }) = t := ⟨_, rfl⟩
    rw [ht] at hw
    refine ⟨t, (onCore_exists _ hc).trans (congrArg Host.Outcome.next ?_), by rw [hw.chan]; exact (tfind_tset ..).trans (if_pos rfl),
      by rw [hw.chan]; exact (tfind_tset ..).trans (if_pos rfl), fun n hn => by rw [hw.chan]; exact (tfind_tset ..).trans (if_neg hn),
      by rw [hw.chan], hw.own, hw.chans, hw.cores, hw.frame⟩
    rw [← ht]
    refine congrArg (s.setCore c) ((takeResponse_active _ hst ho).trans (congrArg _ ?_))
    dsimp only
    cases hr : ((s.core c).chan ch).rejected with
    | none => rfl
    | some r =>
      dsimp only
      rw [if_neg (Nat.not_le.2 (hrej r hr))]
  case reject =>
    intro s c ch k v hc hst ho
    obtain ⟨w, hwe, hwr, hwo, hwd⟩ : ∃ w : Channel, { v with
        owed := v.owed - 1
        rejected := some (min (v.rejected.getD k) k)
        staging := v.staging.filter (fun e => !descSrcHere v.desc && decide (e.1 < k))
        flight := v.flight.filter (fun e => e.1 != k) } = w ∧ w.rejected = some (min (v.rejected.getD k) k)
        ∧ w.owed = v.owed - 1 ∧ w.rowsDone = v.rowsDone := ⟨_, rfl, rfl, rfl, rfl⟩
    have hw := s.putChan_written c ch w
    refine ⟨_, (onCore_exists _ hc).trans (congrArg (fun k => Host.Outcome.next (s.setCore c k)) ?_), by rw [hw.chan, hwr],
      by rw [hw.chan, hwo], by rw [hw.chan, hwd], hw.own, hw.chans, hw.cores, hw.frame⟩
    refine (takeResponse_active _ hst ho).trans (congrArg _ ?_)
    rw [← hwe]
    dsimp only
    cases hr : ((s.core c).chan ch).rejected with
    | none => rw [Option.getD_none, min_self]
    | some r => rw [Option.getD_some]
  case drain =>
    intro s c ch v hc hst ho
    exact ⟨_, onCore_exists _ hc, s.takeResponse_drains c ch _ hst ho⟩
  case foreign =>
    intro s c ch tag k data hc htag
    refine ⟨s.setCore c (s.core c), ?_, ?_, ?_, fun d => ?_, rfl⟩
    · exact (onCore_exists _ hc).trans (congrArg (fun k => Host.Outcome.next (s.setCore c k)) (takeResponse_foreign _ _ htag))
    · exact (onCore_exists _ hc).trans (congrArg (fun k => Host.Outcome.next (s.setCore c k)) (takeResponse_foreign _ _ htag))
    · exact (onCore_exists _ hc).trans (congrArg (fun k => Host.Outcome.next (s.setCore c k)) (takeResponse_foreign _ _ htag))
    · rw [State.setCore_core]
      split
      next h => rw [h]
      next => rfl
  case complete =>
    intro s c ch p v hc hd hsnap hp
    obtain ⟨h1, h2, h3, -, h5, h6, h7, h8, h9, h10, h11⟩ := s.completeChannel_completes c ch p hp
    refine ⟨_, (onCore_exists _ hc).trans (congrArg Host.Outcome.next (if_neg ?_)), h1, h2, h3, h5, h6, h7, h8, h9, h10, h11⟩
    rw [show channelDone ((s.core c).chan ch) = true from hd, hsnap]
    decide
  case disable =>
    intro s cl p c mask hp hs hc hpart hmask hmarks
    have hdo : doDmaDisable p c mask s.asked = (s.asked.disableMask c mask, stOk) := by
      have h2 : coreExists s.asked c = true := hc
      have h3 : s.asked.partOfCore c = some p := hpart
      unfold doDmaDisable
      rw [if_neg (by simp [h2, h3, Nat.not_lt.2 hmask]), if_neg (by rw [show (s.asked.part p).marks = false from hmarks]; decide)]
    have hex : exec (.dmaDisable cl p c mask) s = .next ((s.asked.disableMask c mask).answer stOk) := by
      refine (if_pos hp).trans (congrArg Host.Outcome.next ?_)
      rw [State.command_served _ hs, hdo]
    have hm := s.asked.disableMask_ends c mask p hpart
    obtain ⟨u, hu⟩ : ∃ u, s.asked.disableMask c mask = u := ⟨_, rfl⟩
    rw [hu] at hm hex
    obtain ⟨h1, h2, h3, h4, h5, -, -, h6, h7, h8⟩ := hm
    have hresp : u.resp = {} := by rw [h8]; rfl
    rw [State.answer_cleared hresp] at hex
    exact ⟨_, hex, rfl, fun ch hch hb => ⟨h1 ch hch hb, h2 ch hch hb, h3 ch hch hb⟩, fun ch hb => h4 ch (Or.inr hb), h5, h6, h7,
      congrArg (fun y : State => { y with resp := answered stOk }) h8⟩
  case later =>
    intro s cl p c mask hp hs hc hpart hmask hmarks
    obtain ⟨ct, hct, hd⟩ : ∃ ct : PartControl, { s.ctlOf p with disables := (s.ctlOf p).disables ++ [(c, mask)] } = ct
      ∧ ct.disables = (s.ctlOf p).disables ++ [(c, mask)] := ⟨_, rfl, rfl⟩
    have hdo : doDmaDisable p c mask s.asked = (s.asked.setCtl p ct, stOk) := by
      have h2 : coreExists s.asked c = true := hc
      have h3 : s.asked.partOfCore c = some p := hpart
      unfold doDmaDisable
      rw [if_neg (by simp [h2, h3, Nat.not_lt.2 hmask]), if_pos (show (s.asked.part p).marks = true from hmarks), ← hct]
      rfl
    have hex : exec (.dmaDisable cl p c mask) s = .next ((s.asked.setCtl p ct).answer stOk) := by
      refine (if_pos hp).trans (congrArg Host.Outcome.next ?_)
      rw [State.command_served _ hs, hdo]
    have hctl : ∀ q, ((s.asked.setCtl p ct).answer stOk).ctlOf q = if q = p then ct else s.ctlOf q := fun q => by
      rw [State.answer_ctlOf, State.setCtl_ctlOf]; rfl
    exact ⟨_, hex, rfl, by rw [hctl, if_pos rfl, hd], fun q hq => (hctl q).trans (if_neg hq), rfl⟩

end Sys2Proof.Machine
end

section
/-! SUPPORT. The gantries: commits, arrivals, credits, stalls and transit slots (R55, R113-R121). -/

namespace Sys2Proof.Machine

/-! ### Events in the log -/

theorem State.append_log (s : State) (e : Event) :
    (s.append e).log.entries = (if 4096 ≤ s.log.entries.length then dropLowest s.log.entries else s.log.entries)
      ++ [{ e with seq := (s.log.seq + 1) % 2 ^ 32 }] := by
  unfold State.append
  by_cases h : 4096 ≤ s.log.entries.length
  · simp [h]
  · simp [h]

/-- An event of a state whose log, controller and lowest recorded severity are those of another is logged there too (R377-R380). -/
theorem logged_event_of {s u : State} (hlog : u.log = s.log) (hmc : u.mc = s.mc) (hcfg : u.cfg 0x8000 3 = s.cfg 0x8000 3)
    (sev code unit detail : Nat) : Logged s (u.event sev code unit detail) sev code unit detail := by
  intro hr hs
  have h1 : ¬ (sev < sevFault ∧ sev < u.cfg 0x8000 3) := by
    rw [hcfg]
    have : sevFault = 3 := rfl
    omega
  refine ⟨{ time := if u.bring.active && decide (u.bring.stage < 8) then 0 else u.now, seq := (s.log.seq + 1) % 2 ^ 32
            severity := sev, code := code, unit := unit, detail := detail, utc := u.utc }, ?_, rfl, rfl, rfl, rfl, rfl⟩
  unfold State.event State.eventAt
  rw [if_neg h1]
  dsimp only
  rw [if_neg (by rw [hmc, hr]; decide), State.append_log, List.getLast?_concat, hlog]

/-! ### The ends of a gantry -/

theorem Gantry.side_putSide (g : Gantry) (n : Bool) (e : GantryEnd) : (g.putSide n e).side n = e := by cases n <;> rfl

theorem Gantry.side_putSide_other (g : Gantry) (n : Bool) (e : GantryEnd) : (g.putSide n e).side (!n) = g.side (!n) := by
  cases n <;> rfl

theorem Gantry.masks_putSide (g : Gantry) (n : Bool) (e : GantryEnd) : (g.putSide n e).masks = g.masks := by cases n <;> rfl

theorem onColumn_exists {s : State} {x : Nat} (k : State) (h : columnExists s x = true) : onColumn s x k = .next k := if_pos h

/-- One end of one gantry is written. -/
structure EndWritten (s t : State) (x : Nat) (north : Bool) (e : GantryEnd) : Prop where
  side : (t.gantry x).side north = e
  other : (t.gantry x).side (!north) = (s.gantry x).side (!north)
  masks : (t.gantry x).masks = (s.gantry x).masks
  gantries : SameBut {} s.gantries t.gantries x

theorem State.setEnd_written {s u : State} {x : Nat} {north : Bool} {e : GantryEnd} (hu : u.gantries = s.gantries) :
    EndWritten s (u.setGantry x ((s.gantry x).putSide north e)) x north e := by
  obtain ⟨g, hg, h1, h2, h3⟩ : ∃ g, (s.gantry x).putSide north e = g ∧ g.side north = e ∧ g.side (!north) = (s.gantry x).side (!north)
      ∧ g.masks = (s.gantry x).masks := ⟨_, rfl, Gantry.side_putSide .., Gantry.side_putSide_other .., Gantry.masks_putSide ..⟩
  rw [hg]
  have ht : ∀ y, (u.setGantry x g).gantry y = if y = x then g else s.gantry y := fun y => by
    rw [State.setGantry_gantry, State.gantry, State.gantry, hu]
  have hx := (ht x).trans (if_pos rfl)
  exact ⟨by rw [hx, h1], by rw [hx, h2], by rw [hx, h3], fun y hy => (ht y).trans (if_neg hy)⟩

/-! ### Commits -/

/-- The head packet of an end leaves it, and its buffer credit is owed to the quay that sent it (R198). -/
theorem popInbound_cons {e : GantryEnd} {i : Inbound} {rest : List Inbound} (h : e.inbound = i :: rest) (now : Nat) :
    popInbound e now = { e with inbound := rest, nextSince := now, stallReported := false, owed := e.owed ++ [i.quay] } := by
  unfold popInbound
  rw [h]
  rfl

/-- Each accepting core's credit counts down by one for each place that it has in the list. -/
theorem foldl_takeCredit (rows : List Nat) (m : Tbl Nat) (y : Nat) :
    tget 0 (rows.foldl (fun m y => tput 0 m y (tget 0 m y - 1)) m) y = tget 0 m y - rows.count y := by
  induction rows generalizing m with
  | nil => rfl
  | cons x rows ih =>
    rw [List.foldl_cons, ih, List.count_cons]
    by_cases h : y = x
    · rw [h]
      simp only [tget_tput, if_true, beq_self_eq_true]
      omega
    · have hx : (x == y) = false := by rw [beq_eq_false_iff_ne]; exact fun e => h e.symm
      rw [hx]
      simp only [tget_tput, if_neg h]
      rfl

theorem execGantryCommit_orphan {s : State} {x : Nat} {north : Bool} {i : Inbound} {rest : List Inbound} (hc : columnExists s x = true)
    (hi : ((s.gantry x).side north).inbound = i :: rest) (hr : acceptors (s.gantry x) (hdrTag (injectPacket i.packet).header) = []) :
    exec (.gantryCommit x north) s = .next (s.setGantry x ((s.gantry x).putSide north { (s.gantry x).side north with
      inbound := rest, nextSince := s.now, stallReported := false, owed := ((s.gantry x).side north).owed ++ [i.quay]
      orphans := ((s.gantry x).side north).orphans + 1 })) := by
  refine (onColumn_exists _ hc).trans (congrArg Host.Outcome.next ?_)
  dsimp only
  rw [hi]
  dsimp only
  rw [hr, if_pos (by rfl), popInbound_cons hi]

theorem execGantryCommit_commits {s : State} {x : Nat} {north : Bool} {i : Inbound} {rest : List Inbound} {at' : Nat}
    (hc : columnExists s x = true) (hi : ((s.gantry x).side north).inbound = i :: rest)
    (hr : acceptors (s.gantry x) (hdrTag (injectPacket i.packet).header) ≠ [])
    (hcr : ∀ y ∈ acceptors (s.gantry x) (hdrTag (injectPacket i.packet).header), 0 < tget 0 ((s.gantry x).side north).credits y)
    (hat : nextSlot (s.gantry x) north (max s.now ((s.gantry x).side north).nextFree) = some at') :
    exec (.gantryCommit x north) s = .next ((s.advance at').setGantry x ((s.gantry x).putSide north { (s.gantry x).side north with
      inbound := rest, nextSince := at', stallReported := false, owed := ((s.gantry x).side north).owed ++ [i.quay]
      credits := (acceptors (s.gantry x) (hdrTag (injectPacket i.packet).header)).foldl (fun m y => tput 0 m y (tget 0 m y - 1))
        ((s.gantry x).side north).credits
      nextFree := slotAfter (s.gantry x) north at' (packetBeats (injectPacket i.packet) - 1) + 1
      lane := ((s.gantry x).side north).lane ++ beatsInLane s (s.gantry x) north x at' (injectPacket i.packet)
        (acceptors (s.gantry x) (hdrTag (injectPacket i.packet).header)) })) := by
  refine (onColumn_exists _ hc).trans (congrArg Host.Outcome.next ?_)
  have hall : (acceptors (s.gantry x) (hdrTag (injectPacket i.packet).header)).all
      (fun y => decide (0 < tget 0 ((s.gantry x).side north).credits y)) = true :=
    List.all_eq_true.2 fun y hy => decide_eq_true (hcr y hy)
  dsimp only
  rw [hi]
  dsimp only
  rw [if_neg (by rw [List.isEmpty_iff]; exact hr), hall, if_neg (by decide), hat]
  dsimp only
  rw [popInbound_cons hi]

/-! ### Beats, credits and stalls -/

/-- A beat that a core's mask does not take is discarded. -/
theorem execGantryBeatArrival_discards {s : State} {c n due : Nat} {north : Bool} {b : Beat} (hc : coreExists s c = true)
    (hf : ((s.gantry (coreX c)).side north).lane.findIdx? (fun l => l.1 == c) = some n)
    (hn : ((s.gantry (coreX c)).side north).lane[n]? = some (c, due, b)) :
    exec (.gantryBeatArrival c north) s = .next (
      let s1 := (s.advance due).setGantry (coreX c) ((s.gantry (coreX c)).putSide north
        { (s.gantry (coreX c)).side north with lane := ((s.gantry (coreX c)).side north).lane.eraseIdx n })
      if (tget 0 (s.gantry (coreX c)).masks (coreY c)).getLsbD b.tag then s1.tapBeat c north b else s1) := by
  refine (onCore_exists _ hc).trans (congrArg Host.Outcome.next ?_)
  dsimp only
  rw [hf]
  dsimp only
  rw [hn]

/-- A beat joins its packet at the tap; with the last one the packet is in the tile queue (R55). -/
theorem State.tapBeat_taps (u : State) (c : Nat) (north : Bool) (b : Beat) :
    let e := (u.gantry (coreX c)).side north
    let have' := tget [] e.taps (coreY c) ++ [b]
    let t := u.tapBeat c north b
    (t.core c).queue = (if b.last = true then (u.core c).queue ++ [packetOfBeats have' north] else (u.core c).queue)
      ∧ tget [] ((t.gantry (coreX c)).side north).taps (coreY c) = (if b.last then [] else have')
      ∧ ((t.gantry (coreX c)).side north).lane = e.lane ∧ SameBut {} u.cores t.cores c ∧ SameBut {} u.gantries t.gantries (coreX c)
      ∧ t = { u with cores := t.cores, gantries := t.gantries } := by
  obtain ⟨e, he⟩ : ∃ e, (u.gantry (coreX c)).side north = e := ⟨_, rfl⟩
  obtain ⟨p, hp⟩ : ∃ p, tget [] e.taps (coreY c) ++ [b] = p := ⟨_, rfl⟩
  unfold State.tapBeat
  dsimp only
  rw [he, hp]
  cases hl : b.last with
  | true =>
    rw [if_pos rfl, if_pos rfl, if_pos rfl]
    obtain ⟨e', he', hel, het⟩ : ∃ e', { e with taps := tdel e.taps (coreY c) } = e' ∧ e'.lane = e.lane
        ∧ tget [] e'.taps (coreY c) = [] := ⟨_, rfl, rfl, by simp [tget, tfind_tdel]⟩
    rw [he']
    have hw := State.setEnd_written (s := u) (u := u) (x := coreX c) (north := north) (e := e') rfl
    obtain ⟨v, hv, hvc⟩ : ∃ v, u.setGantry (coreX c) ((u.gantry (coreX c)).putSide north e') = v ∧ ∀ d, v.core d = u.core d :=
      ⟨_, rfl, fun d => State.setGantry_core ..⟩
    have hvf : v = { u with gantries := v.gantries } := by rw [← hv]; rfl
    rw [hv] at hw ⊢
    rw [hvc]
    obtain ⟨k, hk, hkq⟩ : ∃ k : Core, { u.core c with queue := (u.core c).queue ++ [packetOfBeats p north] } = k
        ∧ k.queue = (u.core c).queue ++ [packetOfBeats p north] := ⟨_, rfl, rfl⟩
    rw [hk]
    have hcore : ∀ d, (v.setCore c k).core d = if d = c then k else u.core d := fun d => by rw [State.setCore_core, hvc]
    have hg : ∀ y, (v.setCore c k).gantry y = v.gantry y := fun y => State.setCore_gantry ..
    rw [hcore, if_pos rfl, hg, hw.side]
    exact ⟨hkq, het, hel, fun d hd => (hcore d).trans (if_neg hd), fun y hy => (hg y).trans (hw.gantries y hy),
      congrArg (fun y : State => { y with cores := (v.setCore c k).cores }) hvf⟩
  | false =>
    rw [if_neg (by decide), if_neg (by decide), if_neg (by decide)]
    obtain ⟨e', he', hel, het⟩ : ∃ e', { e with taps := tset e.taps (coreY c) p } = e' ∧ e'.lane = e.lane
        ∧ tget [] e'.taps (coreY c) = p := ⟨_, rfl, rfl, by simp [tget, tfind_tset]⟩
    rw [he']
    have hw := State.setEnd_written (s := u) (u := u) (x := coreX c) (north := north) (e := e') rfl
    obtain ⟨v, hv, hvc⟩ : ∃ v, u.setGantry (coreX c) ((u.gantry (coreX c)).putSide north e') = v ∧ ∀ d, v.core d = u.core d :=
      ⟨_, rfl, fun d => State.setGantry_core ..⟩
    have hvf : v = { u with cores := v.cores, gantries := v.gantries } := by rw [← hv]; rfl
    rw [hv] at hw ⊢
    rw [hvc, hw.side]
    exact ⟨rfl, het, hel, fun d _ => hvc d, hw.gantries, hvf⟩

theorem execMulticastStall_quiet {s : State} {x : Nat} {north : Bool} (hc : columnExists s x = true)
    (h : stalls (s.gantry x) ((s.gantry x).side north) north s.now = false) : exec (.multicastStall x north) s = .next s := by
  refine (onColumn_exists _ hc).trans (congrArg Host.Outcome.next ?_)
  dsimp only
  split
  · rfl
  · rw [if_pos (by rw [h]; simp)]

theorem execMulticastStall_stalls {s : State} {x p : Nat} {north : Bool} {i : Inbound} {rest : List Inbound}
    (hc : columnExists s x = true) (hi : ((s.gantry x).side north).inbound = i :: rest)
    (hrep : ((s.gantry x).side north).stallReported = false)
    (hst : stalls (s.gantry x) ((s.gantry x).side north) north s.now = true) (hp : s.partOfX x = some p) :
    exec (.multicastStall x north) s = .next (
      let e := (s.gantry x).side north
      let u := (s.advance (e.nextSince + 4096)).setGantry x ((s.gantry x).putSide north { e with stallReported := true })
      if (s.part p).elastic then u.event 2 0x0105 (columnEnd x north) (hdrTag i.packet.header)
      else u.setCtl p { u.ctlOf p with
        faults := (u.ctlOf p).faults ++ [.multicastStall (columnEnd x north) (hdrTag i.packet.header)] }) := by
  refine (onColumn_exists _ hc).trans (congrArg Host.Outcome.next ?_)
  dsimp only
  rw [hi]
  dsimp only
  rw [if_neg (by rw [hrep, hst]; decide), hp]
  rfl

/-! ### Transit slots -/

theorem State.useTransit_from (s : State) (p y cycle : Nat) (east : Bool) : transitFrom (s.useTransit p y east cycle) p y east = cycle + 1 := by
  have h : (s.useTransit p y east cycle).transitUsed.find? (fun e => e.1 == p && e.2.1 == y && e.2.2.1 == east) = some (p, y, east, cycle) := by
    have hnone : (s.transitUsed.filter (fun e => !(e.1 == p && e.2.1 == y && e.2.2.1 == east))).find?
        (fun e => e.1 == p && e.2.1 == y && e.2.2.1 == east) = none := by
      rw [List.find?_eq_none]
      intro e he
      have := (List.mem_filter.1 he).2
      rw [Bool.not_eq_true'] at this
      rw [this]
      decide
    show (s.transitUsed.filter _ ++ [(p, y, east, cycle)]).find? _ = _
    rw [List.find?_append, hnone]
    simp
  unfold transitFrom
  rw [h]

/-! ### The obligation -/

/-- Settles O12: each command of a gantry writes one end of one column, and a transit flit enters in a slot that is held. -/
theorem gantriesCommitDeliverAndPass : Obligations.GantriesCommitDeliverAndPass := by
  unfold Obligations.GantriesCommitDeliverAndPass
  refine ⟨?commit, ⟨?beat, ?credit, ?quiet, ?stall⟩, ?slot, ?none⟩
  case commit =>
    intro s x north i rest hc hi g e p rows
    refine ⟨fun hr => ?_, fun at' hr hcr hat => ?_⟩
    · have hw := State.setEnd_written (s := s) (u := s) (x := x) (north := north) (e := { e with
        inbound := rest, nextSince := s.now, stallReported := false, owed := e.owed ++ [i.quay], orphans := e.orphans + 1 }) rfl
      exact ⟨_, execGantryCommit_orphan hc hi hr, hw.side, hw.other, hw.gantries, rfl⟩
    · obtain ⟨e', he', h1, h2, h3, h4, h5⟩ : ∃ e' : GantryEnd, { e with
          inbound := rest, nextSince := at', stallReported := false, owed := e.owed ++ [i.quay]
          credits := rows.foldl (fun m y => tput 0 m y (tget 0 m y - 1)) e.credits
          nextFree := slotAfter g north at' (packetBeats p - 1) + 1
          lane := e.lane ++ beatsInLane s g north x at' p rows } = e' ∧ e'.inbound = rest ∧ e'.owed = e.owed ++ [i.quay]
          ∧ (∀ y, tget 0 e'.credits y = tget 0 e.credits y - rows.count y) ∧ e'.lane = e.lane ++ beatsInLane s g north x at' p rows
          ∧ e'.nextFree = slotAfter g north at' (packetBeats p - 1) + 1 :=
        ⟨_, rfl, rfl, rfl, fun y => foldl_takeCredit rows e.credits y, rfl, rfl⟩
      have hw := State.setEnd_written (s := s) (u := s.advance at') (x := x) (north := north) (e := e') rfl
      refine ⟨_, (execGantryCommit_commits hc hi hr hcr hat).trans (congrArg (fun e => Host.Outcome.next
        ((s.advance at').setGantry x ((s.gantry x).putSide north e))) he'), ?_⟩
      rw [hw.side]
      exact ⟨h1, h2, h3, h4, h5, hw.other, hw.masks, rfl, hw.gantries, rfl⟩
  case beat =>
    intro s c north n due b e mine have' hc hf hn
    have hex := execGantryBeatArrival_discards hc hf hn
    obtain ⟨e1, he1, he1l, he1t⟩ : ∃ e1 : GantryEnd, { e with lane := e.lane.eraseIdx n } = e1 ∧ e1.lane = e.lane.eraseIdx n
      ∧ e1.taps = e.taps := ⟨_, rfl, rfl, rfl⟩
    have hw := State.setEnd_written (s := s) (u := s.advance due) (x := coreX c) (north := north) (e := e1) rfl
    obtain ⟨u, hu⟩ : ∃ u, (s.advance due).setGantry (coreX c) ((s.gantry (coreX c)).putSide north e1) = u := ⟨_, rfl⟩
    have huc : ∀ d, u.core d = s.core d := fun d => by rw [← hu, State.setGantry_core, State.advance_core]
    have hun : u.now = max s.now due := by rw [← hu]; rfl
    have huf : u = { s with cores := u.cores, gantries := u.gantries, now := u.now, rtc := u.rtc } := by rw [← hu]; rfl
    have hex' : exec (.gantryBeatArrival c north) s = .next (if mine then u.tapBeat c north b else u) := by
      rw [hex, ← hu, ← he1]
    rw [hu] at hw
    by_cases hm : mine
    · rw [if_pos hm] at hex'
      obtain ⟨h1, h2, h3, h4, h5, h6⟩ := u.tapBeat_taps c north b
      obtain ⟨t, ht⟩ : ∃ t, u.tapBeat c north b = t := ⟨_, rfl⟩
      rw [ht] at h1 h2 h3 h4 h5 h6 hex'
      rw [hw.side] at h1 h2 h3
      rw [he1t, huc] at h1
      rw [he1t] at h2
      rw [he1l] at h3
      have htn : t.now = u.now := by rw [h6]
      have htr : t.rtc = u.rtc := by rw [h6]
      refine ⟨t, hex', ?_, ?_, h3, htn.trans hun, fun d hd => (h4 d hd).trans (huc d), fun y hy => (h5 y hy).trans (hw.gantries y hy), ?_⟩
      · rw [h1]
        by_cases hl : b.last = true
        · rw [if_pos hl, if_pos ⟨hm, hl⟩]
        · rw [if_neg hl, if_neg (fun h => hl h.2)]
      · exact h2.trans (if_neg (by simp [hm])).symm
      · rw [htn, htr]
        exact h6.trans (congrArg (fun y : State => { y with cores := t.cores, gantries := t.gantries }) huf)
    · rw [if_neg hm] at hex'
      refine ⟨u, hex', ?_⟩
      rw [huc, hw.side, he1t, he1l]
      exact ⟨(if_neg (fun h => hm h.1)).symm, (if_pos (by simp [hm])).symm, rfl, hun, fun d _ => huc d, hw.gantries, huf⟩
  case credit =>
    intro s c north freed e held hc hret
    refine ⟨fun hh => ?_, fun hh => ?_⟩
    · refine (onCore_exists _ hc).trans (congrArg Host.Outcome.next ?_)
      dsimp only
      rw [show tfind ((s.gantry (coreX c)).side north).returning c = some freed from hret]
      dsimp only
      rw [if_pos (by simp only [Bool.and_eq_true, decide_eq_true_eq]; exact hh)]
    · obtain ⟨e', he', h1, h2⟩ : ∃ e' : GantryEnd, { e with
          returning := e.returning.erase (c, freed), credits := tput 0 e.credits (coreY c) (tget 0 e.credits (coreY c) + 1) } = e'
          ∧ (∀ y, tget 0 e'.credits y = if y = coreY c then tget 0 e.credits y + 1 else tget 0 e.credits y)
          ∧ e'.returning = e.returning.erase (c, freed) := by
        refine ⟨_, rfl, fun y => ?_, rfl⟩
        dsimp only
        rw [tget_tput]
        by_cases h : y = coreY c
        · rw [if_pos h, if_pos h, h]
        · rw [if_neg h, if_neg h]
      have hex : exec (.creditReturn c north) s = .next ((s.advance (freed + beatLatency s north (coreX c) (coreY c))).setGantry (coreX c)
          ((s.gantry (coreX c)).putSide north e')) := by
        refine (onCore_exists _ hc).trans (congrArg Host.Outcome.next ?_)
        dsimp only
        rw [show tfind ((s.gantry (coreX c)).side north).returning c = some freed from hret]
        dsimp only
        rw [if_neg (by simp only [Bool.and_eq_true, decide_eq_true_eq]; exact hh), ← he']
      have hw := State.setEnd_written (s := s) (u := s.advance (freed + beatLatency s north (coreX c) (coreY c))) (x := coreX c)
        (north := north) (e := e') rfl
      refine ⟨_, hex, ?_⟩
      rw [hw.side]
      exact ⟨h1, h2, rfl, hw.other, hw.gantries, rfl⟩
  case quiet => exact fun s x north hc h => execMulticastStall_quiet hc h
  case stall =>
    intro s x north i rest p e hc hi hrep hst hp
    have hex := execMulticastStall_stalls hc hi hrep hst hp
    have hw := State.setEnd_written (s := s) (u := s.advance (e.nextSince + 4096)) (x := x) (north := north)
      (e := { e with stallReported := true }) rfl
    obtain ⟨u, hu⟩ : ∃ u, (s.advance (e.nextSince + 4096)).setGantry x ((s.gantry x).putSide north { e with stallReported := true }) = u :=
      ⟨_, rfl⟩
    have hun : u.now = max s.now (e.nextSince + 4096) := by rw [← hu]; rfl
    have huf : u = { s with gantries := u.gantries, now := u.now, rtc := u.rtc } := by rw [← hu]; rfl
    rw [hu] at hw
    have hul : u.log = s.log := by rw [huf]
    have huctl : ∀ q, u.ctlOf q = s.ctlOf q := fun q => by rw [huf]; rfl
    have hex' : exec (.multicastStall x north) s = .next (if (s.part p).elastic then
        u.event 2 0x0105 (columnEnd x north) (hdrTag i.packet.header)
      else u.setCtl p { u.ctlOf p with
        faults := (u.ctlOf p).faults ++ [.multicastStall (columnEnd x north) (hdrTag i.packet.header)] }) := by
      rw [← hu]; exact hex
    cases he : (s.part p).elastic with
    | true =>
      rw [he, if_pos rfl] at hex'
      have hlog := logged_event_of (s := s) (u := u) hul (by rw [huf]) (by rw [huf]; rfl) 2 0x0105 (columnEnd x north) (hdrTag i.packet.header)
      have hfr := u.event_frame 2 0x0105 (columnEnd x north) (hdrTag i.packet.header)
      obtain ⟨t, ht⟩ : ∃ t, u.event 2 0x0105 (columnEnd x north) (hdrTag i.packet.header) = t := ⟨_, rfl⟩
      rw [ht] at hex' hlog hfr
      have htg : ∀ y, t.gantry y = u.gantry y := fun y => by rw [hfr]; rfl
      have htctl : t.ctl = s.ctl := by rw [hfr, huf]
      have htn : t.now = u.now := by rw [hfr]
      have htr : t.rtc = u.rtc := by rw [hfr]
      have htga : t.gantries = u.gantries := by rw [hfr]
      refine ⟨t, hex', htn.trans hun, by rw [htg, hw.side], fun _ => ⟨htctl, hlog⟩, (by cases ·),
        fun y hy => (htg y).trans (hw.gantries y hy), ?_⟩
      rw [htn, htr, htctl, htga]
      exact hfr.trans (congrArg (fun y : State => { y with log := t.log, hosts := t.hosts, sivar := t.sivar }) huf)
    | false =>
      rw [he, if_neg (by decide)] at hex'
      obtain ⟨ct, hct, hctf⟩ : ∃ ct : PartControl, { u.ctlOf p with
          faults := (u.ctlOf p).faults ++ [.multicastStall (columnEnd x north) (hdrTag i.packet.header)] } = ct
          ∧ ct.faults = (s.ctlOf p).faults ++ [.multicastStall (columnEnd x north) (hdrTag i.packet.header)] := by
        rw [huctl]; exact ⟨_, rfl, rfl⟩
      rw [hct] at hex'
      obtain ⟨t, ht⟩ : ∃ t, u.setCtl p ct = t := ⟨_, rfl⟩
      rw [ht] at hex'
      have hctl : ∀ q, t.ctlOf q = if q = p then ct else s.ctlOf q := fun q => by rw [← ht, State.setCtl_ctlOf, huctl]
      have htg : ∀ y, t.gantry y = u.gantry y := fun y => by rw [← ht]; rfl
      have hfr : t = { u with ctl := t.ctl } := by rw [← ht]; rfl
      have htl : t.log = s.log := by rw [hfr, huf]
      have hth : t.hosts = s.hosts := by rw [hfr, huf]
      have hts : t.sivar = s.sivar := by rw [hfr, huf]
      have htn : t.now = u.now := by rw [hfr]
      have htr : t.rtc = u.rtc := by rw [hfr]
      have htga : t.gantries = u.gantries := by rw [hfr]
      refine ⟨t, hex', htn.trans hun, by rw [htg, hw.side], (by cases ·),
        fun _ => ⟨htl, by rw [hctl, if_pos rfl, hctf], fun q hq => (hctl q).trans (if_neg hq)⟩,
        fun y hy => (htg y).trans (hw.gantries y hy), ?_⟩
      rw [htn, htr, htl, hth, hts, htga]
      exact hfr.trans (congrArg (fun y : State => { y with ctl := t.ctl }) huf)
  case slot =>
    intro s p y x cycle east n f hp hfind hn hband at'
    refine ⟨fun hslot => ?_, fun hslot => ?_⟩
    · have hex : exec (.transitSlotEntry p ⟨y, x⟩ cycle east) s = .next (if f.entered.isNone
          then ({ s.advance at' with transit := moveFlit s.transit n x at' f } : State).useTransit p y east at'
          else { s.advance at' with transit := moveFlit s.transit n x at' f }) := by
        refine (if_pos hp).trans (congrArg Host.Outcome.next ?_)
        dsimp only
        rw [hfind]
        dsimp only
        rw [hn]
        dsimp only
        exact if_neg (by
          rw [hband, Bool.false_or, Bool.not_eq_true', Bool.not_eq_false]
          exact hslot)
      cases hent : f.entered with
      | none =>
        rw [hent] at hex
        exact ⟨_, hex, rfl, rfl, rfl, State.useTransit_from ..⟩
      | some w =>
        rw [hent] at hex
        exact ⟨_, hex, rfl, rfl, rfl, rfl⟩
    · refine (if_pos hp).trans (congrArg Host.Outcome.next ?_)
      dsimp only
      rw [hfind]
      dsimp only
      rw [hn]
      dsimp only
      exact if_pos (by
        rw [hband, Bool.false_or, Bool.not_eq_true']
        exact hslot)
  case none =>
    intro s p y x cycle east hp h
    refine (if_pos hp).trans (congrArg Host.Outcome.next ?_)
    dsimp only
    rcases h with h | h
    · rw [h]
    · split
      · rfl
      · split
        · rfl
        · exact if_pos (by rw [h, Bool.true_or])

end Sys2Proof.Machine
end

section
/-! SUPPORT. Clock starts, boundary checks, lost beacon clocks and router errors (R150-R153, R355). -/

namespace Sys2Proof.Machine

/-! ### Faults added to partitions -/

theorem State.addFault_frame (s : State) (p : Nat) (f : PFault) : s.addFault p f = { s with ctl := (s.addFault p f).ctl } := by
  unfold State.addFault
  split <;> rfl

theorem State.addFault_faults (s : State) (p q : Nat) (f : PFault) :
    ((s.addFault p f).ctlOf q).faults = if q = p ∧ (s.part p).live = true then (s.ctlOf q).faults ++ [f] else (s.ctlOf q).faults := by
  unfold State.addFault
  by_cases hl : (s.part p).live = true
  · rw [if_pos hl, State.setCtl_ctlOf]
    by_cases h : q = p
    · rw [if_pos h, if_pos ⟨h, hl⟩, h]
    · rw [if_neg h, if_neg (fun e => h e.1)]
  · rw [if_neg hl, if_neg (fun e => hl e.2)]

theorem State.addFaults_frame (s : State) (l : List Nat) (f : PFault) : s.addFaults l f = { s with ctl := (s.addFaults l f).ctl } := by
  unfold State.addFaults
  induction l generalizing s with
  | nil => rfl
  | cons p l ih =>
    rw [List.foldl_cons]
    obtain ⟨u, hu⟩ : ∃ u, s.addFault p f = u := ⟨_, rfl⟩
    have huf : u = { s with ctl := u.ctl } := by rw [← hu]; exact State.addFault_frame ..
    rw [hu]
    exact (ih u).trans (congrArg (fun y : State => { y with ctl := (l.foldl (fun (t : State) p => t.addFault p f) u).ctl }) huf)

theorem State.addFaults_faults (s : State) (l : List Nat) (f : PFault) (hl : l.Nodup) (q : Nat) :
    ((s.addFaults l f).ctlOf q).faults = if q ∈ l ∧ (s.part q).live = true then (s.ctlOf q).faults ++ [f] else (s.ctlOf q).faults := by
  unfold State.addFaults
  induction l generalizing s with
  | nil => simp
  | cons p l ih =>
    obtain ⟨hp, hl⟩ := List.nodup_cons.1 hl
    rw [List.foldl_cons, ih (s.addFault p f) hl]
    have hpart : (s.addFault p f).part q = s.part q := by rw [State.addFault_frame]; rfl
    rw [hpart, State.addFault_faults]
    by_cases hq : q = p
    · rw [hq, if_neg (fun e => hp e.1)]
      by_cases hlive : (s.part p).live = true
      · rw [if_pos ⟨rfl, hlive⟩, if_pos ⟨List.mem_cons_self, hlive⟩]
      · rw [if_neg (fun e => hlive e.2), if_neg (fun e => hlive e.2)]
    · have : q ∈ p :: l ↔ q ∈ l := by rw [List.mem_cons]; exact or_iff_right hq
      simp only [this, hq, false_and, if_false]

theorem mem_partsWhere {f : Nat → Bool} {p : Nat} : p ∈ partsWhere f ↔ p < 8 ∧ f p = true := by
  rw [partsWhere, List.mem_filter, List.mem_range]

/-- The partitions of a test that may run get the cause. -/
theorem State.addFaults_added (s : State) (hit : Nat → Bool) (f : PFault) : FaultsAdded s (s.addFaults (partsWhere hit) f) hit f := fun p => by
  have hnd : (partsWhere hit).Nodup := List.nodup_range.filter _
  rw [State.addFaults_faults s _ f hnd p]
  simp only [mem_partsWhere, and_assoc]

/-- What `FaultsAdded` says depends on the partitions and their control alone. -/
theorem FaultsAdded.congr {s t s' t' : State} {hit : Nat → Bool} {f : PFault} (h : FaultsAdded s t hit f)
    (hp : ∀ p, s'.part p = s.part p) (hs : ∀ p, s'.ctlOf p = s.ctlOf p) (ht : ∀ p, t'.ctlOf p = t.ctlOf p) :
    FaultsAdded s' t' hit f := fun p => by
  rw [hp, hs, ht]; exact h p

/-! ### Columns that become unusable -/

theorem State.markUnusable_frame (s : State) (t : Nat) :
    s.markUnusable t = { s with overlay := (s.markUnusable t).overlay, log := (s.markUnusable t).log, hosts := (s.markUnusable t).hosts
                                sivar := (s.markUnusable t).sivar } := by
  unfold State.markUnusable
  split
  · rfl
  · rw [State.event_overlay]
    exact State.event_frame ..

theorem State.markUnusable_overlay (s : State) (t : Nat) :
    t % 8 ∈ (s.markUnusable t).overlay.unusable ∧ (s.markUnusable t).overlay.spare = s.overlay.spare := by
  unfold State.markUnusable
  split
  next h => exact ⟨h, rfl⟩
  next =>
    rw [State.event_overlay]
    exact ⟨List.mem_append_right _ (List.mem_singleton.2 rfl), rfl⟩

/-! ### A tile's children -/

/-- A child of a lost tile takes another parent. -/
def State.reparentChild (w : State) (t u : Nat) : State :=
  let cand := (tileNeighbours u).filter (fun v => v != t && (w.tile v).fastClock && !(decide (u ∈ ancestors w 48 v)))
  w.setTile u { w.tile u with parent := cand[Config.freeNat w.freeCtr u % cand.length]? }

theorem State.reparentChild_tile (w : State) (t u v : Nat) :
    (v ≠ u → (w.reparentChild t u).tile v = w.tile v) ∧ ((w.reparentChild t u).tile u).parent ≠ some t
      ∧ ((w.reparentChild t u).tile u).unreachable = (w.tile u).unreachable
      ∧ ((w.reparentChild t u).tile u).fastClock = (w.tile u).fastClock := by
  unfold State.reparentChild
  dsimp only
  obtain ⟨l, hl, hlt⟩ : ∃ l, (tileNeighbours u).filter (fun v => v != t && (w.tile v).fastClock && !(decide (u ∈ ancestors w 48 v))) = l
      ∧ ∀ x ∈ l, x ≠ t := by
    refine ⟨_, rfl, fun x hx => ?_⟩
    have := (List.mem_filter.1 hx).2
    rw [Bool.and_eq_true, Bool.and_eq_true, bne_iff_ne] at this
    exact this.1.1
  rw [hl]
  refine ⟨fun h => (State.setTile_tile ..).trans (if_neg h), ?_, ?_, ?_⟩
  · rw [State.setTile_tile, if_pos rfl]
    exact fun h => hlt t (List.mem_of_getElem? h) rfl
  · rw [State.setTile_tile, if_pos rfl]
  · rw [State.setTile_tile, if_pos rfl]

theorem State.reparentChild_frame (w : State) (t u : Nat) : w.reparentChild t u = { w with tiles := (w.reparentChild t u).tiles } := rfl

/-- Going through a list of children writes those alone, and none of them stays the lost tile's. -/
theorem foldl_reparentChild (t : Nat) (l : List Nat) (w : State) :
    let x := l.foldl (fun w u => w.reparentChild t u) w
    (∀ v, v ∉ l → x.tile v = w.tile v) ∧ (∀ v, v ∈ l → (x.tile v).parent ≠ some t) ∧ x = { w with tiles := x.tiles } := by
  induction l generalizing w with
  | nil => exact ⟨fun _ _ => rfl, fun _ h => absurd h List.not_mem_nil, rfl⟩
  | cons u l ih =>
    rw [List.foldl_cons]
    obtain ⟨h1, h2, h3⟩ := ih (w.reparentChild t u)
    refine ⟨fun v hv => ?_, fun v hv => ?_, h3⟩
    · rw [List.mem_cons, not_or] at hv
      rw [h1 v hv.2, (w.reparentChild_tile t u v).1 hv.1]
    · by_cases hl : v ∈ l
      · exact h2 v hl
      · obtain rfl := (List.mem_cons.1 hv).resolve_right hl
        rw [h1 v hl]
        exact (w.reparentChild_tile t v v).2.1

theorem State.reparent_children (s : State) (t : Nat) :
    (∀ v, (s.tile v).parent ≠ some t → (s.reparent t).tile v = s.tile v)
      ∧ (∀ v, v < 48 → (s.tile v).parent = some t → ((s.reparent t).tile v).parent ≠ some t)
      ∧ s.reparent t = { s with tiles := (s.reparent t).tiles, freeCtr := (s.reparent t).freeCtr } := by
  obtain ⟨l, hl, hmem⟩ : ∃ l, (List.range 48).filter (fun u => (s.tile u).parent == some t) = l
      ∧ ∀ v, v ∈ l ↔ v < 48 ∧ (s.tile v).parent = some t :=
    ⟨_, rfl, fun v => by rw [List.mem_filter, List.mem_range, beq_iff_eq]⟩
  have e : s.reparent t = (l.foldl (fun w u => w.reparentChild t u) s).bump := by
    unfold State.reparent
    dsimp only
    rw [hl]
    rfl
  obtain ⟨h1, h2, h3⟩ := foldl_reparentChild t l s
  obtain ⟨x, hx⟩ : ∃ x, l.foldl (fun w u => w.reparentChild t u) s = x := ⟨_, rfl⟩
  rw [hx] at e
  simp only [hx] at h1 h2 h3
  have ht : ∀ v, (s.reparent t).tile v = x.tile v := fun v => by rw [e, State.bump_tile]
  refine ⟨fun v hv => (ht v).trans (h1 v (fun h => hv ((hmem v).1 h).2)), fun v hv hp => by rw [ht]; exact h2 v ((hmem v).2 ⟨hv, hp⟩), ?_⟩
  rw [e]
  exact congrArg (fun y : State => { y with freeCtr := x.freeCtr + 1 }) h3

/-! ### The cores of a tile -/

theorem foldl_killCores (l : List Nat) (s : State) :
    let t := l.foldl (fun (t : State) c => t.setHeal c { t.heal c with dead := true, heartbeat := false }) s
    (∀ c, c ∈ l → (t.heal c).dead = true ∧ (t.heal c).heartbeat = false) ∧ (∀ c, c ∉ l → t.heal c = s.heal c)
      ∧ t = { s with health := t.health } := by
  induction l generalizing s with
  | nil => exact ⟨fun _ h => absurd h List.not_mem_nil, fun _ _ => rfl, rfl⟩
  | cons u l ih =>
    rw [List.foldl_cons]
    obtain ⟨h, hh, hd, hb⟩ : ∃ h : CoreHealth, { s.heal u with dead := true, heartbeat := false } = h ∧ h.dead = true ∧ h.heartbeat = false :=
      ⟨_, rfl, rfl, rfl⟩
    rw [hh]
    obtain ⟨h1, h2, h3⟩ := ih (s.setHeal u h)
    refine ⟨fun c hc => ?_, fun c hc => ?_, h3⟩
    · by_cases hl : c ∈ l
      · exact h1 c hl
      · obtain rfl := (List.mem_cons.1 hc).resolve_right hl
        rw [h2 c hl, State.setHeal_heal, if_pos rfl]
        exact ⟨hd, hb⟩
    · rw [List.mem_cons, not_or] at hc
      rw [h2 c hc.2, State.setHeal_heal, if_neg hc.1]

/-! ### The obligation -/

theorem onTile_exists {s : State} {t : Nat} (h : t < 48) : onTile t s = .next s := if_pos h

/-- A lost beacon clock (R152): the tile, its cores, its children and its column. -/
theorem execBeaconClockLost_loses (s : State) (tile : Nat) (ht : tile < 48) (hu : (s.tile tile).unreachable = false) :
    ∃ t, exec (.beaconClockLost tile) s = .next t
      ∧ (t.tile tile).unreachable = true ∧ (t.tile tile).fastClock = false
      ∧ (∀ c ∈ s.cores.map (·.1), coreTile c = tile → (t.heal c).dead = true ∧ (t.heal c).heartbeat = false)
      ∧ (∀ c, coreTile c ≠ tile → t.heal c = s.heal c)
      ∧ (∀ u, u < 48 → u ≠ tile → (s.tile u).parent = some tile → (t.tile u).parent ≠ some tile)
      ∧ (∀ u, (s.tile u).parent ≠ some tile → u ≠ tile → t.tile u = s.tile u)
      ∧ tile % 8 ∈ t.overlay.unusable
      ∧ FaultsAdded s t (fun p => crossesTile s p tile)
          (.routerDead (siteId tile 0 0) (partMask (partsWhere (fun p => crossesTile s p tile))))
      ∧ t.cores = s.cores ∧ t.pad = s.pad := by
  obtain ⟨f, hf⟩ : ∃ f, PFault.routerDead (siteId tile 0 0) (partMask (partsWhere (fun p => crossesTile s p tile))) = f := ⟨_, rfl⟩
  obtain ⟨v, hv, hvu, hvc, hvp⟩ : ∃ v : Tile, { s.tile tile with unreachable := true, fastClock := false, parent := none } = v
      ∧ v.unreachable = true ∧ v.fastClock = false ∧ v.parent ≠ some tile := ⟨_, rfl, rfl, rfl, by simp⟩
  obtain ⟨a, ha⟩ : ∃ a, s.setTile tile v = a := ⟨_, rfl⟩
  have hat : ∀ u, a.tile u = if u = tile then v else s.tile u := fun u => by rw [← ha, State.setTile_tile]
  have haf : a = { s with tiles := a.tiles } := by rw [← ha]; rfl
  obtain ⟨hsame, hkids, hbf⟩ := a.reparent_children tile
  obtain ⟨b, hb⟩ : ∃ b, a.reparent tile = b := ⟨_, rfl⟩
  rw [hb] at hbf
  simp only [hb] at hsame hkids
  obtain ⟨cs, hcs, hmem⟩ : ∃ cs, (s.cores.map (fun e => e.1)).filter (fun c => coreTile c == tile) = cs
      ∧ ∀ c, c ∈ cs ↔ c ∈ s.cores.map (fun e => e.1) ∧ coreTile c = tile :=
    ⟨_, rfl, fun c => by rw [List.mem_filter, beq_iff_eq]⟩
  obtain ⟨hdead, hlive, hdf⟩ := foldl_killCores cs b
  obtain ⟨d, hd⟩ : ∃ d, cs.foldl (fun (t : State) c => t.setHeal c { t.heal c with dead := true, heartbeat := false }) b = d := ⟨_, rfl⟩
  rw [hd] at hdf
  simp only [hd] at hdead hlive
  have hfa := d.addFaults_added (fun p => crossesTile s p tile) f
  have hfr := d.addFaults_frame (partsWhere (fun p => crossesTile s p tile)) f
  obtain ⟨e, he⟩ : ∃ e, d.addFaults (partsWhere (fun p => crossesTile s p tile)) f = e := ⟨_, rfl⟩
  rw [he] at hfa hfr
  obtain ⟨hun, -⟩ := e.markUnusable_overlay tile
  have hmf := e.markUnusable_frame tile
  have hex : exec (.beaconClockLost tile) s = .next (e.markUnusable tile) := by
    refine (onTile_exists ht).trans (congrArg Host.Outcome.next ?_)
    rw [if_neg (by rw [hu]; decide)]
    dsimp only
    rw [hf, hv, ha, hb, hcs, hd, he]
  obtain ⟨t, htt⟩ : ∃ t, e.markUnusable tile = t := ⟨_, rfl⟩
  rw [htt] at hun hmf hex
  have htile : ∀ u, t.tile u = b.tile u := fun u => by
    have : t.tiles = b.tiles := by rw [hmf, hfr, hdf]
    unfold State.tile
    rw [this]
  have hheal : ∀ c, t.heal c = d.heal c := fun c => by
    have : t.health = d.health := by rw [hmf, hfr]
    unfold State.heal
    rw [this]
  have hbh : ∀ c, b.heal c = s.heal c := fun c => by
    have : b.health = s.health := by rw [hbf, haf]
    unfold State.heal
    rw [this]
  have hself : t.tile tile = v := by
    have hp : (a.tile tile).parent ≠ some tile := by rw [hat, if_pos rfl]; exact hvp
    rw [htile, hsame tile hp, hat, if_pos rfl]
  have hother : ∀ u, u ≠ tile → a.tile u = s.tile u := fun u h => (hat u).trans (if_neg h)
  refine ⟨t, hex, by rw [hself, hvu], by rw [hself, hvc], fun c hc hct => ?_, fun c hc => ?_, fun u h48 hne hp => ?_,
    fun u hp hne => ?_, hun, ?_, ?_, ?_⟩
  · rw [hheal]
    exact hdead c ((hmem c).2 ⟨hc, hct⟩)
  · rw [hheal, hlive c (fun h => hc ((hmem c).1 h).2), hbh]
  · rw [htile]
    exact hkids u h48 (by rw [hother u hne]; exact hp)
  · rw [htile, hsame u (by rw [hother u hne]; exact hp), hother u hne]
  · rw [hf]
    refine hfa.congr (fun p => ?_) (fun p => ?_) (fun p => ?_)
    · have : s.parts = d.parts := by rw [hdf, hbf, haf]
      unfold State.part
      rw [this]
    · have : s.ctl = d.ctl := by rw [hdf, hbf, haf]
      unfold State.ctlOf
      rw [this]
    · have : t.ctl = e.ctl := by rw [hmf]
      unfold State.ctlOf
      rw [this]
  · rw [hmf, hfr, hdf, hbf, haf]
  · rw [hmf, hfr, hdf, hbf, haf]

/-- A router error at a site in use (R355). -/
theorem execRouterError_faults (s : State) (site : Nat) (h1 : siteTile site < 48) (h2 : siteCol site < 24) (h3 : siteRow site < 25)
    (hdown : site ∉ s.routersDown) (huse : siteInUse s site = true)
    (hhit : ∃ p, p < 8 ∧ (crossesTile s p (siteTile site) && (s.part p).live) = true) :
    exec (.routerError site) s = .next (
      let u := ({ s with routersDown := s.routersDown ++ [site] } : State).addFaults
        (partsWhere (fun p => crossesTile s p (siteTile site) && (s.part p).live))
        (.routerDead site (partMask (partsWhere (fun p => crossesTile s p (siteTile site) && (s.part p).live))))
      if spareOf s (siteTile site) (siteCol site) = 0 then u else u.loseColumn (siteTile site) (siteCol site)) := by
  have hne : (partsWhere (fun p => crossesTile s p (siteTile site) && (s.part p).live)).isEmpty = false := by
    obtain ⟨p, hp, hph⟩ := hhit
    rw [List.isEmpty_eq_false_iff]
    exact List.ne_nil_of_mem (mem_partsWhere.2 ⟨hp, hph⟩)
  refine (if_pos ⟨h1, h2, h3⟩).trans (congrArg Host.Outcome.next ?_)
  rw [if_neg (by simp [hdown, huse])]
  refine (if_neg (by rw [Bool.not_eq_true]; exact hne)).trans ?_
  rfl

theorem State.loseColumn_loses (s : State) (t col : Nat) :
    let u := s.loseColumn t col
    (s.isD = false ∨ col < 22 → spareOf u t col = 4) ∧ t % 8 ∈ u.overlay.unusable
      ∧ u = { s with overlay := u.overlay, log := u.log, hosts := u.hosts, sivar := u.sivar } := by
  obtain ⟨v, hv, hvs⟩ : ∃ v : State, { s with overlay := { s.overlay with spare := tset s.overlay.spare (t * 24 + col) 4 } } = v
      ∧ v.overlay.spare = tset s.overlay.spare (t * 24 + col) 4 := ⟨_, rfl, rfl⟩
  have hvf : v = { s with overlay := v.overlay } := by rw [← hv]
  obtain ⟨h1, h2⟩ := v.markUnusable_overlay t
  have hfr := v.markUnusable_frame t
  intro u
  have hu : u = v.markUnusable t := by rw [← hv]; rfl
  rw [← hu] at h1 h2 hfr
  clear_value u
  have hf : u = { s with overlay := u.overlay, log := u.log, hosts := u.hosts, sivar := u.sivar } :=
    hfr.trans (congrArg (fun y : State => { y with overlay := u.overlay, log := u.log, hosts := u.hosts, sivar := u.sivar }) hvf)
  refine ⟨fun h => ?_, h1, hf⟩
  have hd : (u.isD && decide (22 ≤ col)) = false := by
    have : u.isD = s.isD := by rw [hf]; rfl
    rw [this]
    rcases h with h | h
    · rw [h]; rfl
    · rw [decide_eq_false (by omega), Bool.and_false]
  unfold spareOf
  rw [hd, h2, hvs]
  simp [tget, tfind_tset]

/-- Settles O13: each command writes the tile, the boundary or the site that it names, and faults the partitions that cross it. -/
theorem clocksBoundariesAndLostTiles : Obligations.ClocksBoundariesAndLostTiles := by
  unfold Obligations.ClocksBoundariesAndLostTiles
  refine ⟨fun s tile ht hclk hall => ?_, fun s a b err hb => ⟨fun herr => ?_, fun herr => ?_⟩, fun s a b hb hrest => ?_,
    execBeaconClockLost_loses, ?_⟩
  · have hex : exec (.fastClockStart tile) s = .next (s.setTile tile { s.tile tile with
        fastClock := true, pickUp := (s.now / 1500 + 1) * 1500 }) := by
      refine (onTile_exists ht).trans (congrArg Host.Outcome.next ?_)
      unfold State.startClock
      rw [if_neg (by simp [hclk, hall])]
      rfl
    exact ⟨_, hex, (State.setTile_tile ..).trans (if_pos rfl), fun u hu => (State.setTile_tile ..).trans (if_neg hu), rfl⟩
  · exact (if_neg (by simp [hb])).trans (if_pos herr)
  · obtain ⟨u, hu, hub⟩ : ∃ u : State, { s with boundaries := tput 0 s.boundaries (boundaryKey a b) err } = u
        ∧ ∀ k, tget 0 u.boundaries k = if k = boundaryKey a b then err else tget 0 s.boundaries k :=
      ⟨_, rfl, fun k => tget_tput 0 _ _ _ _⟩
    have huf : u = { s with boundaries := u.boundaries } := by rw [← hu]
    have hfa := u.addFaults_added (fun p => crossesBoundary s p a b) (.boundaryPhase a b err)
    have hfr := u.addFaults_frame (partsWhere (fun p => crossesBoundary s p a b)) (.boundaryPhase a b err)
    obtain ⟨w, hw⟩ : ∃ w, u.addFaults (partsWhere (fun p => crossesBoundary s p a b)) (.boundaryPhase a b err) = w := ⟨_, rfl⟩
    have hex : exec (.boundaryPhaseCheck a b err) s = .next (w.event 3 0x0104 (boundaryKey a b) (unsignedOf 32 err)) := by
      refine (if_neg (by simp [hb])).trans ((if_neg (by omega)).trans ?_)
      rw [← hw, ← hu]
      rfl
    rw [hw] at hfa hfr
    have hlog := logged_event_of (s := s) (u := w) (by rw [hfr, huf]) (by rw [hfr, huf]) (by rw [hfr, huf]; rfl) 3 0x0104
      (boundaryKey a b) (unsignedOf 32 err)
    have hef := w.event_frame 3 0x0104 (boundaryKey a b) (unsignedOf 32 err)
    obtain ⟨t, ht⟩ : ∃ t, w.event 3 0x0104 (boundaryKey a b) (unsignedOf 32 err) = t := ⟨_, rfl⟩
    rw [ht] at hex hlog hef
    have htb : t.boundaries = u.boundaries := by rw [hef, hfr]
    have htc : t.ctl = w.ctl := by rw [hef]
    refine ⟨t, hex, by rw [htb, hub, if_pos rfl], fun k hk => by rw [htb, hub, if_neg hk], ?_, hlog, ?_⟩
    · refine hfa.congr (fun p => by rw [huf]; rfl) (fun p => by rw [huf]; rfl) (fun p => ?_)
      unfold State.ctlOf
      rw [htc]
    · rw [htb, htc]
      exact hef.trans (congrArg (fun y : State => { y with log := t.log, hosts := t.hosts, sivar := t.sivar })
        (hfr.trans (congrArg (fun y : State => { y with ctl := w.ctl }) huf)))
  · refine ⟨{ s with boundaries := tdel s.boundaries (boundaryKey a b) }, (if_neg (by simp [hb])).trans (if_pos ?_), ?_, fun k hk => ?_, rfl⟩
    · exact List.all_eq_true.2 fun p hp => by
        obtain ⟨h8, hc⟩ := mem_partsWhere.1 hp
        exact hrest p h8 hc
    · simp [tget, tfind_tdel]
    · simp [tget, tfind_tdel, hk]
  · intro s site h1 h2 h3 hdown huse hit hhit
    have hex := execRouterError_faults s site h1 h2 h3 hdown huse hhit
    obtain ⟨u, hu⟩ : ∃ u : State, { s with routersDown := s.routersDown ++ [site] } = u := ⟨_, rfl⟩
    have huf : u = { s with routersDown := u.routersDown } := by rw [← hu]
    have hur : u.routersDown = s.routersDown ++ [site] := by rw [← hu]
    have hfa := u.addFaults_added hit (.routerDead site (partMask (partsWhere hit)))
    have hfr := u.addFaults_frame (partsWhere hit) (.routerDead site (partMask (partsWhere hit)))
    obtain ⟨w, hw⟩ : ∃ w, u.addFaults (partsWhere hit) (.routerDead site (partMask (partsWhere hit))) = w := ⟨_, rfl⟩
    rw [hw] at hfa hfr
    have hwf : w = { s with routersDown := w.routersDown, ctl := w.ctl } := by
      have : w.routersDown = u.routersDown := by rw [hfr]
      rw [this]
      exact hfr.trans (congrArg (fun y : State => { y with ctl := w.ctl }) huf)
    have hwr : w.routersDown = s.routersDown ++ [site] := by rw [hfr, hur]
    have hex' : exec (.routerError site) s = .next (if spareOf s (siteTile site) (siteCol site) = 0 then w
        else w.loseColumn (siteTile site) (siteCol site)) := by
      rw [← hw, ← hu]; exact hex
    have hadd : ∀ t : State, t.ctl = w.ctl → FaultsAdded s t hit (.routerDead site (partMask (partsWhere hit))) := fun t ht =>
      hfa.congr (fun p => by rw [huf]; rfl) (fun p => by rw [huf]; rfl) (fun p => by unfold State.ctlOf; rw [ht])
    by_cases hsp : spareOf s (siteTile site) (siteCol site) = 0
    · rw [if_pos hsp] at hex'
      exact ⟨w, hex', hwr, hadd w rfl, fun _ => hwf, fun h => absurd hsp h⟩
    · rw [if_neg hsp] at hex'
      obtain ⟨h4, h5, h6⟩ := w.loseColumn_loses (siteTile site) (siteCol site)
      obtain ⟨t, ht⟩ : ∃ t, w.loseColumn (siteTile site) (siteCol site) = t := ⟨_, rfl⟩
      rw [ht] at h4 h5 h6 hex'
      have htc : t.ctl = w.ctl := by rw [h6]
      have htr : t.routersDown = w.routersDown := by rw [h6]
      have hd : w.isD = s.isD := by rw [hwf]; rfl
      refine ⟨t, hex', htr.trans hwr, hadd t htc, fun h => absurd h hsp, fun _ => ⟨fun h => h4 (by rw [hd]; exact h), h5, ?_⟩⟩
      rw [htc, htr]
      exact h6.trans (congrArg (fun y : State => { y with overlay := t.overlay, log := t.log, hosts := t.hosts, sivar := t.sivar }) hwf)

end Sys2Proof.Machine
end

section
/-! SUPPORT. Core and berth resets, their completion and the abandoning of a drain (R345-R347). -/

namespace Sys2Proof.Machine

/-! ### Work that a core abandons -/

theorem Stored.poisonRows (c : Nat) (s : State) (first n : Nat) : Stored c s (s.poisonRows c first n) :=
  Stored.foldl (fun s _ => (Stored.bytes c s s.pad _).trans (Stored.rowWritten c _ _)) _ s

theorem State.foldl_config {α : Type} {f : State → α → State} (h : ∀ s a, (f s a).sivar.config = s.sivar.config) (l : List α) (s : State) :
    (l.foldl f s).sivar.config = s.sivar.config := by
  induction l generalizing s with
  | nil => rfl
  | cons a l ih => exact (ih _).trans (h s a)

theorem State.rowWritten_config (s : State) (c row : Nat) : (s.rowWritten c row).sivar.config = s.sivar.config := by
  unfold State.rowWritten
  dsimp only
  split <;> rfl

theorem State.poisonRows_config (s : State) (c first n : Nat) : (s.poisonRows c first n).sivar.config = s.sivar.config := by
  have one : ∀ (u : State) (m : Tbl (Option Mark)) (row : Nat), (({ u with marks := m } : State).rowWritten c row).sivar.config = u.sivar.config :=
    fun u m row => State.rowWritten_config _ c row
  exact State.foldl_config (fun s _ => one s _ _) _ s

theorem State.writeRow_config (s : State) (c row : Nat) (d : Row) : (s.writeRow c row d).sivar.config = s.sivar.config := by
  have one : ∀ (u : State) (b : List Host.Cell) (m : Tbl (Option Mark)),
      (({ u with pad := b, marks := m } : State).rowWritten c row).sivar.config = u.sivar.config :=
    fun u b m => State.rowWritten_config _ c row
  exact one s _ _

theorem State.writeOut_config (s : State) (c a : Nat) (bs : List Byte) (bad : List Bool) (first last : Bool) :
    (s.writeOut c a bs bad first last).sivar.config = s.sivar.config := by
  have hmerge : ∀ (t : State) row, (t.mergeRow c row).sivar.config = t.sivar.config := fun t row =>
    (State.writeRow_config _ c row _).trans (Counted.addCorrected c t _).config
  have hlast : ∀ (u : State) (b : List Host.Cell) (m : Tbl (Option Mark)) (r : Nat) (l : List Nat),
      (l.foldl (fun (t : State) i => t.rowWritten c (r + i)) ({ u with pad := b, marks := m } : State)).sivar.config = u.sivar.config :=
    fun u b m r l => State.foldl_config (fun v i => State.rowWritten_config v c _) l _
  unfold State.writeOut
  dsimp only
  split
  · rfl
  · exact (hlast _ _ _ _ _).trans (State.foldl_config (fun u row => hmerge u row) _ s)

/-- The partition of a column depends on the configuration alone. -/
theorem State.partOfColumn_congr {s t : State} (h : t.sivar.config = s.sivar.config) (x : Nat) : t.partOfColumn x = s.partOfColumn x := by
  have hcfg : ∀ i j, t.cfg i j = s.cfg i j := fun i j => by rw [State.cfg, State.cfg, h]
  have hband : ∀ p, t.bandHas p x = s.bandHas p x := fun p => by
    unfold State.bandHas State.firstCol State.widthOf
    rw [hcfg, hcfg]
  unfold State.partOfColumn
  rw [funext hband]

/-- What the abandoning and the disabling of a core's work may change: its health, bytes and marks, the log, and the free choices. -/
structure WorkLost (c : Nat) (s t : State) : Prop where
  rest : t = { s with health := t.health, pad := t.pad, marks := t.marks, log := t.log, hosts := t.hosts, sivar := t.sivar
                      freeCtr := t.freeCtr }
  heal : ∀ d, d ≠ c → t.heal d = s.heal d
  config : t.sivar.config = s.sivar.config

namespace WorkLost

variable {c : Nat} {s t u : State}

theorem of_stored (h : Stored c s t) (hc : t.sivar.config = s.sivar.config) : WorkLost c s t := by
  have hf : t.freeCtr = s.freeCtr := by rw [h.rest]
  refine ⟨?_, h.heal, hc⟩
  rw [hf]
  exact h.rest

theorem refl (c : Nat) (s : State) : WorkLost c s s := ⟨rfl, fun _ _ => rfl, rfl⟩

theorem trans (h : WorkLost c s t) (g : WorkLost c t u) : WorkLost c s u :=
  ⟨by conv_lhs => rw [g.rest, h.rest], fun d hd => (g.heal d hd).trans (h.heal d hd), g.config.trans h.config⟩

theorem bump (c : Nat) (s : State) : WorkLost c s s.bump := ⟨rfl, fun _ _ => rfl, rfl⟩

theorem foldl {α : Type} {f : State → α → State} (h : ∀ s a, WorkLost c s (f s a)) (l : List α) (s : State) :
    WorkLost c s (l.foldl f s) := by
  induction l generalizing s with
  | nil => exact refl c s
  | cons a l ih => exact (h s a).trans (ih _)

theorem drainJob (c : Nat) (s : State) (j : DrainJob) : WorkLost c s (drainJob s c j) := by
  unfold Machine.drainJob
  split
  · unfold drainOsp
    exact of_stored (Stored.writeOut c s _ _ _ _ _) (State.writeOut_config ..)
  · unfold drainWs
    exact (of_stored (Stored.writeOut c s _ _ _ _ _) (State.writeOut_config ..)).trans (bump c _)

end WorkLost

/-- Of a core, what a reset clears or its channels own: the work in flight. -/
def WorkOnly (k k' : Core) : Prop :=
  k' = { k with iss := k'.iss, snap := k'.snap, wait := k'.wait, nextIssue := k'.nextIssue, chans := k'.chans
                arr := k'.arr, spb := k'.spb, vec := k'.vec, queue := k'.queue }

theorem WorkOnly.refl (k : Core) : WorkOnly k k := rfl

theorem WorkOnly.trans {k k' k'' : Core} (h : WorkOnly k k') (g : WorkOnly k' k'') : WorkOnly k k'' :=
  Eq.trans g (congrArg (fun y : Core => { y with
    iss := k''.iss, snap := k''.snap, wait := k''.wait, nextIssue := k''.nextIssue, chans := k''.chans
    arr := k''.arr, spb := k''.spb, vec := k''.vec, queue := k''.queue }) h)

theorem WorkOnly.of_channelsOnly {k k' k'' : Core} (h : WorkOnly k k') (g : ChannelsOnly k' k'') : WorkOnly k k'' :=
  h.trans (by
    have e := g
    unfold ChannelsOnly at e
    have h1 : k''.arr = k'.arr := by rw [e]
    have h2 : k''.spb = k'.spb := by rw [e]
    have h3 : k''.vec = k'.vec := by rw [e]
    have h4 : k''.queue = k'.queue := by rw [e]
    unfold WorkOnly
    rw [h1, h2, h3, h4]
    exact g)

/-- A core whose work is abandoned (R346): its work in flight is gone, and no other core changes. -/
theorem State.abandon_abandons (s : State) (c : Nat) :
    let t := s.abandon c
    WorkOnly (s.core c) (t.core c) ∧ (t.core c).chans = (s.core c).chans ∧ (∀ d, d ≠ c → t.core d = s.core d)
      ∧ (∀ d, d ≠ c → t.heal d = s.heal d) ∧ t.sivar.config = s.sivar.config
      ∧ t = { s with cores := t.cores, health := t.health, pad := t.pad, marks := t.marks, log := t.log, hosts := t.hosts
                     sivar := t.sivar, freeCtr := t.freeCtr } := by
  have key : ∀ (k : Core) (u : State), WorkOnly (s.core c) k → k.chans = (s.core c).chans → WorkLost c s u →
      let t := (u.setCore c k).bump
      WorkOnly (s.core c) (t.core c) ∧ (t.core c).chans = (s.core c).chans ∧ (∀ d, d ≠ c → t.core d = s.core d)
      ∧ (∀ d, d ≠ c → t.heal d = s.heal d) ∧ t.sivar.config = s.sivar.config
      ∧ t = { s with cores := t.cores, health := t.health, pad := t.pad, marks := t.marks, log := t.log, hosts := t.hosts
                     sivar := t.sivar, freeCtr := t.freeCtr } := fun k u hk hc hu => by
    have huc : u.cores = s.cores := by rw [hu.rest]
    obtain ⟨t, ht⟩ : ∃ t, (u.setCore c k).bump = t := ⟨_, rfl⟩
    have htc : ∀ d, t.core d = if d = c then k else s.core d := fun d => by
      rw [← ht, State.bump_core, State.setCore_core]
      unfold State.core
      rw [huc]
    have htk : t.core c = k := (htc c).trans (if_pos rfl)
    have hth : ∀ d, t.heal d = u.heal d := fun d => by rw [← ht]; rfl
    have hf : t = { u with cores := t.cores, freeCtr := t.freeCtr } := by rw [← ht]; rfl
    have h1 : t.health = u.health := by rw [hf]
    have h2 : t.pad = u.pad := by rw [hf]
    have h3 : t.marks = u.marks := by rw [hf]
    have h4 : t.log = u.log := by rw [hf]
    have h5 : t.hosts = u.hosts := by rw [hf]
    have h6 : t.sivar = u.sivar := by rw [hf]
    dsimp only
    rw [ht]
    refine ⟨by rw [htk]; exact hk, by rw [htk]; exact hc, fun d hd => (htc d).trans (if_neg hd), fun d hd => (hth d).trans (hu.heal d hd),
      by rw [h6]; exact hu.config, ?_⟩
    rw [h1, h2, h3, h4, h5, h6]
    exact hf.trans (congrArg (fun y : State => { y with cores := t.cores, freeCtr := t.freeCtr }) hu.rest)
  unfold State.abandon
  dsimp only
  refine key _ _ rfl rfl ?_
  have hfreeze : ∀ (u : State) n, WorkLost c u (u.addFreezes c n) := fun u n => WorkLost.of_stored (Stored.of_counted (Counted.setHeal c u _)) rfl
  have hpoison : ∀ (u : State) a n, WorkLost c u (u.poisonRows c a n) := fun u a n => WorkLost.of_stored (Stored.poisonRows c u a n) (State.poisonRows_config ..)
  have hrows := fun (u : State) (k : Core) (now : Nat) => WorkLost.foldl (c := c) (f := fun (t : State) (i : ArrInstr) =>
    ((List.range (arrDstRows i)).filter (fun r => !arrRowRetired now k i r)).foldl
      (fun t r => t.poisonRows c (i.dst.first + r) 1) t)
    (fun t i => WorkLost.foldl (fun t r => hpoison t _ _) _ t) (arrInFlight k) u
  have h1 : ∀ (u : State) (l : List DrainJob), WorkLost c u (l.foldl (fun t j => drainJob t c j) u) := fun u l => WorkLost.foldl (fun t j => WorkLost.drainJob c t j) l u
  have h2 := fun (u : State) n l k now => ((hfreeze u n).trans (h1 _ l)).trans (hrows _ k now)
  split
  · split
    · split
      · split
        · exact ((h2 ..).trans (hpoison ..)).trans (hpoison ..)
        · exact (h2 ..).trans (hpoison ..)
      · exact (h2 ..).trans (hpoison ..)
    · split
      · split
        · exact (h2 ..).trans (hpoison ..)
        · exact h2 ..
      · exact h2 ..
  · split
    · split
      · exact (h2 ..).trans (hpoison ..)
      · exact h2 ..
    · exact h2 ..

/-! ### The stop and the clearing of a core -/

/-- What the stopping of one core leaves (R346). -/
structure CoreStopped (c p : Nat) (s t : State) : Prop where
  own : WorkOnly (s.core c) (t.core c)
  ended : ∀ ch, ch < 8 → ((t.core c).chan ch).state ≠ .active
  cores : ∀ d, d ≠ c → t.core d = s.core d
  heal : ∀ d, d ≠ c → t.heal d = s.heal d
  ctl : ∀ q, q ≠ p → t.ctlOf q = s.ctlOf q
  config : t.sivar.config = s.sivar.config
  frame : t = { s with gantries := t.gantries, cores := t.cores, health := t.health, pad := t.pad, marks := t.marks
                       freeCtr := t.freeCtr, ctl := t.ctl, log := t.log, hosts := t.hosts, sivar := t.sivar }

theorem State.coreStop_stops (s : State) (c p : Nat) (hp : s.partOfCore c = some p) : CoreStopped c p s (s.coreStop c) := by
  obtain ⟨a, ha⟩ : ∃ a, s.setGantry (coreX c) { s.gantry (coreX c) with masks := tput 0 (s.gantry (coreX c)).masks (coreY c) 0 } = a := ⟨_, rfl⟩
  have hac : ∀ d, a.core d = s.core d := fun d => by rw [← ha, State.setGantry_core]
  have hah : ∀ d, a.heal d = s.heal d := fun d => by rw [← ha]; rfl
  have haf : a = { s with gantries := a.gantries } := by rw [← ha]; rfl
  obtain ⟨hwork, -, hbc, hbh, hbcfg, hbf⟩ := a.abandon_abandons c
  obtain ⟨b, hb⟩ : ∃ b, a.abandon c = b := ⟨_, rfl⟩
  rw [hb] at hwork hbf hbcfg
  simp only [hb] at hbc hbh
  have hpart : b.partOfCore c = some p := 
    (State.partOfColumn_congr (hbcfg.trans (by rw [haf])) _).trans hp
  have hm := b.disableMask_ends c 255 p hpart
  have e : s.coreStop c = b.disableMask c 255 := by
    unfold State.coreStop
    dsimp only
    rw [ha, hb]
  rw [e]
  obtain ⟨t, ht⟩ : ∃ t, b.disableMask c 255 = t := ⟨_, rfl⟩
  rw [ht] at hm ⊢
  rw [hac] at hwork
  refine ⟨hwork.of_channelsOnly hm.own, fun ch hch => hm.ended ch hch ?_, fun d hd => ?_, fun d hd => ?_, fun q hq => ?_, ?_, ?_⟩
  · have : ∀ ch, ch < 8 → (255 : Nat).testBit ch = true := by decide
    exact this ch hch
  · exact (hm.cores d hd).trans ((hbc d hd).trans (hac d))
  · exact (hm.heal d hd).trans ((hbh d hd).trans (hah d))
  · exact (hm.ctl q hq).trans (by rw [hbf, haf]; rfl)
  · rw [hm.frame]
    exact hbcfg.trans (by rw [haf])
  · have h1 : t.gantries = a.gantries := by rw [hm.frame, hbf]
    have h2 : t.log = b.log := by rw [hm.frame]
    have h3 : t.hosts = b.hosts := by rw [hm.frame]
    have h4 : t.sivar = b.sivar := by rw [hm.frame]
    rw [h1, h2, h3, h4]
    exact hm.frame.trans (congrArg (fun y : State => { y with
      cores := t.cores, health := t.health, pad := t.pad, marks := t.marks, freeCtr := t.freeCtr, ctl := t.ctl })
      (hbf.trans (congrArg (fun y : State => { y with
        cores := b.cores, health := b.health, pad := b.pad, marks := b.marks, log := b.log, hosts := b.hosts, sivar := b.sivar
        freeCtr := b.freeCtr }) haf)))

/-- The stopping of a set of cores of one partition. -/
structure CoresStopped (cs : List Nat) (p : Nat) (s t : State) : Prop where
  own : ∀ c, WorkOnly (s.core c) (t.core c)
  ended : ∀ c, c ∈ cs → ∀ ch, ch < 8 → ((t.core c).chan ch).state ≠ .active
  others : ∀ d, d ∉ cs → t.core d = s.core d ∧ t.heal d = s.heal d
  ctl : ∀ q, q ≠ p → t.ctlOf q = s.ctlOf q
  frame : t = { s with gantries := t.gantries, cores := t.cores, health := t.health, pad := t.pad, marks := t.marks
                       freeCtr := t.freeCtr, ctl := t.ctl, log := t.log, hosts := t.hosts, sivar := t.sivar }

theorem foldl_coreStop (cs : List Nat) (p : Nat) (s : State) (hp : ∀ c ∈ cs, s.partOfCore c = some p) :
    CoresStopped cs p s (cs.foldl (fun t c => t.coreStop c) s) := by
  induction cs generalizing s with
  | nil => exact ⟨fun _ => WorkOnly.refl _, fun _ h => absurd h List.not_mem_nil, fun _ _ => ⟨rfl, rfl⟩, fun _ _ => rfl, rfl⟩
  | cons c cs ih =>
    rw [List.foldl_cons]
    have h1 := s.coreStop_stops c p (hp c List.mem_cons_self)
    obtain ⟨u, hu⟩ : ∃ u, s.coreStop c = u := ⟨_, rfl⟩
    rw [hu] at h1 ⊢
    have h2 := ih u (fun d hd => (State.partOfColumn_congr h1.config _).trans (hp d (List.mem_cons_of_mem _ hd)))
    obtain ⟨t, ht⟩ : ∃ t, cs.foldl (fun t c => t.coreStop c) u = t := ⟨_, rfl⟩
    rw [ht] at h2 ⊢
    have huc : ∀ d, WorkOnly (s.core d) (u.core d) := fun d => by
      by_cases hd : d = c
      · rw [hd]; exact h1.own
      · rw [h1.cores d hd]; exact WorkOnly.refl _
    refine ⟨fun d => (huc d).trans (h2.own d), fun d hd => ?_, fun d hd => ?_, fun q hq => (h2.ctl q hq).trans (h1.ctl q hq), ?_⟩
    · by_cases hcs : d ∈ cs
      · exact h2.ended d hcs
      · obtain rfl := (List.mem_cons.1 hd).resolve_right hcs
        rw [(h2.others d hcs).1]
        exact h1.ended
    · rw [List.mem_cons, not_or] at hd
      obtain ⟨g1, g2⟩ := h2.others d hd.2
      exact ⟨g1.trans (h1.cores d hd.1), g2.trans (h1.heal d hd.1)⟩
    · exact h2.frame.trans (congrArg (fun y : State => { y with
        gantries := t.gantries, cores := t.cores, health := t.health, pad := t.pad, marks := t.marks
        freeCtr := t.freeCtr, ctl := t.ctl, log := t.log, hosts := t.hosts, sivar := t.sivar }) h1.frame)

/-- A core after its reset, in terms of the core before it. -/
def ResetTo (k k' : Core) : Prop :=
  k' = { k with
    bp := k.entry, ix := [], loops := [], wait := .idle, iss := {}, snap := none, arr := {}, spb := {}, vec := {}
    queue := [], windows := [], responses := [], portBusy := [], firstFault := none, laterFaults := 0, genSeed := none, genPaused := 0
    routerTurn := k'.routerTurn, chans := k'.chans, nextIssue := k'.nextIssue }

/-- What the clearing of one core leaves (R345, R346). -/
structure CoreEmptied (c : Nat) (s t : State) : Prop where
  own : ResetTo (s.core c) (t.core c)
  chans : (t.core c).chans = (s.core c).chans
  cores : ∀ d, d ≠ c → t.core d = s.core d
  beat : (t.heal c).heartbeat = false ∧ (t.heal c).writeBack = [] ∧ (t.heal c).scrubPending = []
  heal : ∀ d, d ≠ c → t.heal d = s.heal d
  bytes : ∀ a, readByte t.pad a = if padAt c 0 ≤ a ∧ a < padAt c 0 + 2097152 then none else readByte s.pad a
  quiet : (s.core c).responses = [] →
    t.net = s.net ∧ t.transit = s.transit ∧ t.tiles = s.tiles ∧ t.fabric = s.fabric ∧ t.ledger = s.ledger
  frame : t = { s with cores := t.cores, health := t.health, pad := t.pad, net := t.net, transit := t.transit, tiles := t.tiles
                       fabric := t.fabric, ledger := t.ledger }

/-- The read responses that wait go out (R346). -/
theorem foldl_inject (c : Nat) (l : List (Nat × NetPacket)) (s : State) :
    let t := l.foldl (fun (t : State) r => t.inject c r.2) s
    t.core c = { s.core c with routerTurn := (t.core c).routerTurn } ∧ (∀ d, d ≠ c → t.core d = s.core d)
      ∧ t = { s with cores := t.cores, net := t.net, transit := t.transit, tiles := t.tiles, fabric := t.fabric, ledger := t.ledger } := by
  have one : ∀ (u : State) p, (u.inject c p).core c = { u.core c with routerTurn := ((u.inject c p).core c).routerTurn }
      ∧ u.inject c p = { u with
        cores := (u.inject c p).cores, net := (u.inject c p).net, transit := (u.inject c p).transit, tiles := (u.inject c p).tiles
        fabric := (u.inject c p).fabric, ledger := (u.inject c p).ledger } := fun u p => by
    unfold State.inject
    dsimp only
    split
    · exact ⟨rfl, rfl⟩
    · constructor
      · have hcore : ∀ (v : State) (d : Nat), (v.forwardRow p).core d = v.core d := fun v d => by
          unfold State.core; rw [State.forwardRow_cores]
        rw [hcore]
        obtain ⟨k, hk, hkt⟩ : ∃ k : Core, { u.core c with
            routerTurn := tput 0 (u.core c).routerTurn (firstOutput p.header) (16 + netVc p.header + 1) } = k
            ∧ k = { u.core c with routerTurn := k.routerTurn } := ⟨_, rfl, rfl⟩
        rw [hk]
        have : State.core { u.setCore c k with
            net := u.net ++ [p], transit := u.transit ++ transitFlits u c p.header } c = k :=
          (State.setCore_core u c k c).trans (if_pos rfl)
        exact (congrArg (fun k' => k' = { u.core c with routerTurn := k'.routerTurn }) this).mpr hkt
      · unfold State.forwardRow State.sendPacket
        dsimp only
        repeat' split
        all_goals rfl
  induction l generalizing s with
  | nil => exact ⟨rfl, fun _ _ => rfl, rfl⟩
  | cons r l ih =>
    rw [List.foldl_cons]
    obtain ⟨h1, h2⟩ := one s r.2
    have h3 := (PutOut.inject c s r.2).others
    obtain ⟨u, hu⟩ : ∃ u, s.inject c r.2 = u := ⟨_, rfl⟩
    rw [hu] at h1 h2 h3 ⊢
    obtain ⟨g1, g2, g3⟩ := ih u
    obtain ⟨t, ht⟩ : ∃ t, l.foldl (fun (t : State) r => t.inject c r.2) u = t := ⟨_, rfl⟩
    rw [ht] at g1 g3 ⊢
    simp only [ht] at g2
    refine ⟨?_, fun d hd => (g2 d hd).trans (h3 d hd), ?_⟩
    · exact g1.trans (congrArg (fun y : Core => { y with routerTurn := (t.core c).routerTurn }) h1)
    · exact g3.trans (congrArg (fun y : State => { y with
        cores := t.cores, net := t.net, transit := t.transit, tiles := t.tiles, fabric := t.fabric, ledger := t.ledger }) h2)

theorem State.coreClear_clears (s : State) (c : Nat) : CoreEmptied c s (s.coreClear c) := by
  obtain ⟨a, ha, hab, hac, hah, haf⟩ : ∃ a, s.forgetPad c false = a
      ∧ (∀ x, readByte a.pad x = if padAt c 0 ≤ x ∧ x < padAt c 0 + 2097152 then none else readByte s.pad x)
      ∧ (∀ d, a.core d = s.core d) ∧ (∀ d, a.heal d = s.heal d) ∧ a = { s with pad := a.pad } :=
    ⟨_, rfl, fun x => readByte_forget .., fun _ => rfl, fun _ => rfl, rfl⟩
  obtain ⟨h1, h2, h3⟩ := foldl_inject c (a.core c).responses a
  obtain ⟨b, hb⟩ : ∃ b, (a.core c).responses.foldl (fun (t : State) r => t.inject c r.2) a = b := ⟨_, rfl⟩
  have hquiet : (s.core c).responses = [] → b = a := fun h => by rw [← hb, hac, h]; rfl
  rw [hb] at h1 h3
  simp only [hb] at h2
  obtain ⟨k, hk, hkr, hkc⟩ : ∃ k : Core, { b.core c with
      bp := (b.core c).entry, ix := [], loops := [], wait := .idle, iss := {}, snap := none, arr := {}, spb := {}, vec := {}
      queue := [], windows := [], responses := [], portBusy := [], firstFault := none, laterFaults := 0, genSeed := none
      genPaused := 0 } = k ∧ ResetTo (s.core c) k ∧ k.chans = (s.core c).chans := by
    rw [h1, hac]; exact ⟨_, rfl, rfl, rfl⟩
  obtain ⟨h, hh, hhb, hhw, hhs⟩ : ∃ h : CoreHealth, { a.heal c with
      heartbeat := false, resetting := (a.core c).chans.any (fun e => decide (e.2.state = .draining)), writeBack := [], scrubPending := [] } = h
      ∧ h.heartbeat = false ∧ h.writeBack = [] ∧ h.scrubPending = [] := ⟨_, rfl, rfl, rfl, rfl⟩
  have e : s.coreClear c = (b.setCore c k).setHeal c h := by
    unfold State.coreClear
    dsimp only
    rw [ha, hb, hk, hh]
  rw [e]
  obtain ⟨t, ht⟩ : ∃ t, (b.setCore c k).setHeal c h = t := ⟨_, rfl⟩
  have htc : ∀ d, t.core d = if d = c then k else b.core d := fun d => by rw [← ht, State.setHeal_core, State.setCore_core]
  have htk : t.core c = k := (htc c).trans (if_pos rfl)
  have hbh : ∀ d, b.heal d = s.heal d := fun d => by rw [h3]; exact hah d
  have hth : ∀ d, t.heal d = if d = c then h else s.heal d := fun d => by
    rw [← ht, State.setHeal_heal, State.setCore_heal, hbh]
  have htp : t.pad = a.pad := by
    have : t.pad = b.pad := by rw [← ht]; rfl
    rw [this, h3]
  have htf : t = { b with cores := t.cores, health := t.health } := by rw [← ht]; rfl
  have g1 : t.net = b.net := by rw [htf]
  have g2 : t.transit = b.transit := by rw [htf]
  have g3 : t.tiles = b.tiles := by rw [htf]
  have g4 : t.fabric = b.fabric := by rw [htf]
  have g5 : t.ledger = b.ledger := by rw [htf]
  rw [ht]
  refine ⟨by rw [htk]; exact hkr, by rw [htk]; exact hkc, fun d hd => ?_, ?_, fun d hd => (hth d).trans (if_neg hd),
    fun x => by rw [htp]; exact hab x, fun hr => ?_, ?_⟩
  · exact (htc d).trans ((if_neg hd).trans ((h2 d hd).trans (hac d)))
  · rw [hth, if_pos rfl]; exact ⟨hhb, hhw, hhs⟩
  · rw [g1, g2, g3, g4, g5, hquiet hr, haf]
    exact ⟨rfl, rfl, rfl, rfl, rfl⟩
  · rw [g1, g2, g3, g4, g5, htp]
    exact htf.trans (congrArg (fun y : State => { y with cores := t.cores, health := t.health })
      (h3.trans (congrArg (fun y : State => { y with
        cores := b.cores, net := b.net, transit := b.transit, tiles := b.tiles, fabric := b.fabric, ledger := b.ledger }) haf)))

theorem ResetTo.trans {k k' k'' : Core} (h : ResetTo k k') (g : ResetTo k' k'') : ResetTo k k'' :=
  Eq.trans g (congrArg (fun y : Core => { y with
    bp := y.entry, ix := [], loops := [], wait := .idle, iss := {}, snap := none, arr := {}, spb := {}, vec := {}
    queue := [], windows := [], responses := [], portBusy := [], firstFault := none, laterFaults := 0, genSeed := none, genPaused := 0
    routerTurn := k''.routerTurn, chans := k''.chans, nextIssue := k''.nextIssue }) h)

theorem ResetTo.of_work {k k' k'' : Core} (h : WorkOnly k k') (g : ResetTo k' k'') : ResetTo k k'' :=
  Eq.trans g (congrArg (fun y : Core => { y with
    bp := y.entry, ix := [], loops := [], wait := .idle, iss := {}, snap := none, arr := {}, spb := {}, vec := {}
    queue := [], windows := [], responses := [], portBusy := [], firstFault := none, laterFaults := 0, genSeed := none, genPaused := 0
    routerTurn := k''.routerTurn, chans := k''.chans, nextIssue := k''.nextIssue }) h)

/-- The clearing of a set of cores. -/
structure CoresEmptied (cs : List Nat) (s t : State) : Prop where
  own : ∀ c, c ∈ cs → ResetTo (s.core c) (t.core c)
  chans : ∀ c, (t.core c).chans = (s.core c).chans
  others : ∀ d, d ∉ cs → t.core d = s.core d ∧ t.heal d = s.heal d
  beat : ∀ c, c ∈ cs → (t.heal c).heartbeat = false ∧ (t.heal c).writeBack = [] ∧ (t.heal c).scrubPending = []
  undefined : ∀ c, c ∈ cs → ∀ a, padAt c 0 ≤ a → a < padAt c 0 + 2097152 → readByte t.pad a = none
  bytes : ∀ a, readByte s.pad a = none → readByte t.pad a = none
  quiet : (∀ c, c ∈ cs → (s.core c).responses = []) →
    t.net = s.net ∧ t.transit = s.transit ∧ t.tiles = s.tiles ∧ t.fabric = s.fabric ∧ t.ledger = s.ledger
  frame : t = { s with cores := t.cores, health := t.health, pad := t.pad, net := t.net, transit := t.transit, tiles := t.tiles
                       fabric := t.fabric, ledger := t.ledger }

theorem foldl_coreClear (cs : List Nat) (s : State) : CoresEmptied cs s (cs.foldl (fun t c => t.coreClear c) s) := by
  induction cs generalizing s with
  | nil =>
    exact ⟨fun _ h => absurd h List.not_mem_nil, fun _ => rfl, fun _ _ => ⟨rfl, rfl⟩, fun _ h => absurd h List.not_mem_nil,
      fun _ h => absurd h List.not_mem_nil, fun _ h => h, fun _ => ⟨rfl, rfl, rfl, rfl, rfl⟩, rfl⟩
  | cons c cs ih =>
    rw [List.foldl_cons]
    have h1 := s.coreClear_clears c
    obtain ⟨u, hu⟩ : ∃ u, s.coreClear c = u := ⟨_, rfl⟩
    rw [hu] at h1 ⊢
    have h2 := ih u
    obtain ⟨t, ht⟩ : ∃ t, cs.foldl (fun t c => t.coreClear c) u = t := ⟨_, rfl⟩
    rw [ht] at h2 ⊢
    have hgone : ∀ a, readByte s.pad a = none → readByte u.pad a = none := fun a h => by
      rw [h1.bytes, h, ite_self]
    refine ⟨fun d hd => ?_, fun d => (h2.chans d).trans ?_, fun d hd => ?_, fun d hd => ?_, fun d hd a ha hb => ?_,
      fun a h => h2.bytes a (hgone a h), fun hq => ?_, ?_⟩
    · by_cases hdc : d = c
      · rw [hdc]
        by_cases hcs : c ∈ cs
        · exact h1.own.trans (h2.own c hcs)
        · rw [(h2.others c hcs).1]
          exact h1.own
      · have := h2.own d ((List.mem_cons.1 hd).resolve_left hdc)
        rw [h1.cores d hdc] at this
        exact this
    · by_cases hdc : d = c
      · rw [hdc]; exact h1.chans
      · rw [h1.cores d hdc]
    · rw [List.mem_cons, not_or] at hd
      obtain ⟨g1, g2⟩ := h2.others d hd.2
      exact ⟨g1.trans (h1.cores d hd.1), g2.trans (h1.heal d hd.1)⟩
    · by_cases hcs : d ∈ cs
      · exact h2.beat d hcs
      · obtain rfl := (List.mem_cons.1 hd).resolve_right hcs
        rw [(h2.others d hcs).2]
        exact h1.beat
    · by_cases hcs : d ∈ cs
      · exact h2.undefined d hcs a ha hb
      · obtain rfl := (List.mem_cons.1 hd).resolve_right hcs
        exact h2.bytes a (by rw [h1.bytes, if_pos ⟨ha, hb⟩])
    · obtain ⟨g1, g2, g3, g4, g5⟩ := h1.quiet (hq c List.mem_cons_self)
      obtain ⟨k1, k2, k3, k4, k5⟩ := h2.quiet (fun d hd => by
        by_cases hdc : d = c
        · rw [hdc, h1.own]
        · rw [h1.cores d hdc]; exact hq d (List.mem_cons_of_mem _ hd))
      exact ⟨k1.trans g1, k2.trans g2, k3.trans g3, k4.trans g4, k5.trans g5⟩
    · exact h2.frame.trans (congrArg (fun y : State => { y with
        cores := t.cores, health := t.health, pad := t.pad, net := t.net, transit := t.transit, tiles := t.tiles
        fabric := t.fabric, ledger := t.ledger }) h1.frame)

/-- The reset of a set of cores of one partition (R345-R348). -/
theorem State.coresReset_clears (s : State) (cs : List Nat) (p : Nat) (hp : ∀ c ∈ cs, s.partOfCore c = some p) :
    let t := s.coresReset cs
    (∀ c ∈ cs, CoreCleared s t c) ∧ (∀ d, d ∉ cs → t.core d = s.core d ∧ t.heal d = s.heal d) ∧ SameBut {} s.ctl t.ctl p
      ∧ t = { s with gantries := t.gantries, cores := t.cores, health := t.health
                     pad := t.pad, marks := t.marks, freeCtr := t.freeCtr, ctl := t.ctl, log := t.log, hosts := t.hosts
                     sivar := t.sivar, net := t.net, transit := t.transit, tiles := t.tiles, fabric := t.fabric
                     ledger := t.ledger }
      ∧ ((∀ c ∈ cs, (s.core c).responses = []) →
          t.net = s.net ∧ t.transit = s.transit ∧ t.tiles = s.tiles ∧ t.fabric = s.fabric ∧ t.ledger = s.ledger) := by
  have h1 := foldl_coreStop cs p s hp
  obtain ⟨u, hu⟩ : ∃ u, cs.foldl (fun t c => t.coreStop c) s = u := ⟨_, rfl⟩
  rw [hu] at h1
  have h2 := foldl_coreClear cs u
  obtain ⟨t, ht⟩ : ∃ t, cs.foldl (fun t c => t.coreClear c) u = t := ⟨_, rfl⟩
  rw [ht] at h2
  have e : s.coresReset cs = t := by
    unfold State.coresReset
    rw [hu, ht]
  rw [e]
  have hctl : t.ctl = u.ctl := by rw [h2.frame]
  refine ⟨fun c hc => ⟨ResetTo.of_work (h1.own c) (h2.own c hc), fun ch hch => ?_, (h2.beat c hc).1, (h2.beat c hc).2.1, (h2.beat c hc).2.2,
    h2.undefined c hc⟩, fun d hd => ⟨(h2.others d hd).1.trans (h1.others d hd).1, (h2.others d hd).2.trans (h1.others d hd).2⟩,
    fun q hq => ?_, ?_, fun hq => ?_⟩
  · have : (t.core c).chan ch = (u.core c).chan ch := by
      unfold Core.chan
      rw [h2.chans]
    rw [this]
    exact h1.ended c hc ch hch
  · rw [hctl]
    exact h1.ctl q hq
  · have g1 : t.gantries = u.gantries := by rw [h2.frame]
    have g2 : t.marks = u.marks := by rw [h2.frame]
    have g3 : t.freeCtr = u.freeCtr := by rw [h2.frame]
    have g4 : t.log = u.log := by rw [h2.frame]
    have g5 : t.hosts = u.hosts := by rw [h2.frame]
    have g6 : t.sivar = u.sivar := by rw [h2.frame]
    rw [g1, g2, g3, hctl, g4, g5, g6]
    exact h2.frame.trans (congrArg (fun y : State => { y with
      cores := t.cores, health := t.health, pad := t.pad, net := t.net, transit := t.transit, tiles := t.tiles
      fabric := t.fabric, ledger := t.ledger }) h1.frame)
  · obtain ⟨g1, g2, g3, g4, g5⟩ := h2.quiet (fun c hc => by rw [h1.own c]; exact hq c hc)
    rw [g1, g2, g3, g4, g5, h1.frame]
    exact ⟨rfl, rfl, rfl, rfl, rfl⟩

/-! ### The obligation -/

/-- The cores of a berth lie in one column of tiles. -/
theorem coreX_berth {s : State} {c d : Nat} (h : d ∈ berthCores s c) : coreX d / 24 = coreX c / 24 := by
  unfold berthCores at h
  obtain ⟨h, -⟩ := List.mem_filter.1 h
  obtain ⟨i, hi, rfl⟩ := List.mem_map.1 h
  rw [List.mem_range] at hi
  have hx : coreX c < 192 := Nat.mod_lt _ (by decide)
  show (((coreY c / 4 * 4 + i / 4) * 192 + coreX c / 4 * 4 + i % 4) % 192) / 24 = coreX c / 24
  omega

/-- The reset of cores of a partition at rest, at the next tick boundary (R345). -/
theorem unitReset_resets {s : State} {cl : Client} {p c : Nat} (cs : List Nat) (hs : Serves s cl false) (hc : coreExists s c = true)
    (hp : s.partOfCore c = some p) (hrun : (s.part p).run = .stopped ∨ (s.part p).run = .fault)
    (hcs : ∀ d ∈ cs, s.partOfCore d = some p) :
    ∃ t, s.command cl false (doUnitReset p c cs) = t ∧ t.resp = answered stOk ∧ t.now = max s.now ((s.now / 1500 + 1) * 1500)
      ∧ (∀ d ∈ cs, CoreCleared s t d) ∧ (∀ d, d ∉ cs → t.core d = s.core d ∧ t.heal d = s.heal d) ∧ SameBut {} s.ctl t.ctl p
      ∧ t = { s with resp := t.resp, now := t.now, rtc := t.rtc, gantries := t.gantries, cores := t.cores, health := t.health
                     pad := t.pad, marks := t.marks, freeCtr := t.freeCtr, ctl := t.ctl, log := t.log, hosts := t.hosts
                     sivar := t.sivar, net := t.net, transit := t.transit, tiles := t.tiles, fabric := t.fabric
                     ledger := t.ledger }
      ∧ ((∀ d ∈ cs, (s.core d).responses = []) →
          t.net = s.net ∧ t.transit = s.transit ∧ t.tiles = s.tiles ∧ t.fabric = s.fabric ∧ t.ledger = s.ledger) := by
  obtain ⟨a, ha, han, hac, hah, hap, haf⟩ : ∃ a, s.asked.advance ((tickOf s.asked.now + 1) * cyPerTick) = a
      ∧ a.now = max s.now ((s.now / 1500 + 1) * 1500) ∧ (∀ d, a.core d = s.core d) ∧ (∀ d, a.heal d = s.heal d)
      ∧ (∀ d, a.partOfCore d = s.partOfCore d)
      ∧ a = { s with resp := {}, now := a.now, rtc := a.rtc } :=
    ⟨_, rfl, rfl, fun _ => rfl, fun _ => rfl, fun _ => rfl, rfl⟩
  obtain ⟨h1, h2, h3, h4, h5⟩ := a.coresReset_clears cs p (fun d hd => (hap d).trans (hcs d hd))
  have hdo : doUnitReset p c cs s.asked = (a.coresReset cs, stOk) := by
    have g1 : coreExists s.asked c = true := hc
    have g2 : s.asked.partOfCore c = some p := hp
    unfold doUnitReset
    rw [if_neg (by simp [g1, g2]), if_neg (fun h => hrun.elim h.1 h.2), ha]
  have hcmd : s.command cl false (doUnitReset p c cs) = (a.coresReset cs).answer stOk := by
    rw [State.command_served _ hs, hdo]
  obtain ⟨u, hu⟩ : ∃ u, a.coresReset cs = u := ⟨_, rfl⟩
  rw [hu] at h3 h4 h5 hcmd
  simp only [hu] at h1 h2
  have hresp : u.resp = {} := by rw [h4, haf]
  rw [State.answer_cleared hresp] at hcmd
  obtain ⟨t, ht⟩ : ∃ t : State, { u with resp := answered stOk } = t := ⟨_, rfl⟩
  rw [ht] at hcmd
  have htc : ∀ d, t.core d = u.core d := fun d => by rw [← ht]; rfl
  have hth : ∀ d, t.heal d = u.heal d := fun d => by rw [← ht]; rfl
  have htp : t.pad = u.pad := by rw [← ht]
  have htn : t.now = a.now := by
    have : u.now = a.now := by rw [h4]
    rw [← ht]; exact this
  have hctl : t.ctl = u.ctl := by rw [← ht]
  have hactl : a.ctl = s.ctl := by rw [haf]
  have hnet : t.net = u.net ∧ t.transit = u.transit ∧ t.tiles = u.tiles ∧ t.fabric = u.fabric ∧ t.ledger = u.ledger := by
    rw [← ht]; exact ⟨rfl, rfl, rfl, rfl, rfl⟩
  have hanet : a.net = s.net ∧ a.transit = s.transit ∧ a.tiles = s.tiles ∧ a.fabric = s.fabric ∧ a.ledger = s.ledger := by
    rw [haf]; exact ⟨rfl, rfl, rfl, rfl, rfl⟩
  refine ⟨t, hcmd, by rw [← ht], htn.trans han, fun d hd => ?_, fun d hd => ?_, ?_, ?_, fun hq => ?_⟩
  · obtain ⟨g1, g2, g3, g4, g5, g6⟩ := h1 d hd
    unfold CoreCleared
    rw [htc, hth, htp]
    rw [hac] at g1
    exact ⟨g1, g2, g3, g4, g5, g6⟩
  · rw [htc, hth]
    exact ⟨(h2 d hd).1.trans (hac d), (h2 d hd).2.trans (hah d)⟩
  · rw [hctl, ← hactl]; exact h3
  · have hr : t.rtc = a.rtc := by
      have : u.rtc = a.rtc := by rw [h4]
      rw [← ht]; exact this
    have hf : u = { s with resp := {}, now := a.now, rtc := a.rtc, gantries := u.gantries, cores := u.cores, health := u.health
                           pad := u.pad, marks := u.marks, freeCtr := u.freeCtr, ctl := u.ctl, log := u.log, hosts := u.hosts
                           sivar := u.sivar, net := u.net, transit := u.transit, tiles := u.tiles, fabric := u.fabric
                           ledger := u.ledger } :=
      h4.trans (congrArg (fun y : State => { y with
        gantries := u.gantries, cores := u.cores, health := u.health, pad := u.pad, marks := u.marks, freeCtr := u.freeCtr
        ctl := u.ctl, log := u.log, hosts := u.hosts, sivar := u.sivar, net := u.net, transit := u.transit, tiles := u.tiles
        fabric := u.fabric, ledger := u.ledger }) haf)
    rw [htn, hr, ← ht]
    exact congrArg (fun y : State => { y with resp := answered stOk }) hf
  · obtain ⟨g1, g2, g3, g4, g5⟩ := h5 (fun d hd => by rw [hac]; exact hq d hd)
    obtain ⟨k1, k2, k3, k4, k5⟩ := hnet
    obtain ⟨l1, l2, l3, l4, l5⟩ := hanet
    exact ⟨k1.trans (g1.trans l1), k2.trans (g2.trans l2), k3.trans (g3.trans l3), k4.trans (g4.trans l4), k5.trans (g5.trans l5)⟩

theorem unitReset_busy {s : State} {cl : Client} {p c : Nat} (cs : List Nat) (hs : Serves s cl false) (hc : coreExists s c = true)
    (hp : s.partOfCore c = some p) (h1 : (s.part p).run ≠ .stopped) (h2 : (s.part p).run ≠ .fault) :
    s.command cl false (doUnitReset p c cs) = { s with resp := answered stBusy } := by
  have hdo : doUnitReset p c cs s.asked = (s.asked, stBusy) := by
    have g1 : coreExists s.asked c = true := hc
    have g2 : s.asked.partOfCore c = some p := hp
    unfold doUnitReset
    rw [if_neg (by simp [g1, g2]), if_pos ⟨h1, h2⟩]
  rw [State.command_served _ hs, hdo]
  rfl

/-- Settles O14: a unit reset stops and clears its cores one by one, each without touching another. -/
theorem coreResetsClearTheirCores : Obligations.CoreResetsClearTheirCores := by
  unfold Obligations.CoreResetsClearTheirCores
  refine ⟨?core, ?berth, ?busy, ?complete, ?abandon⟩
  case core =>
    intro s cl p c hp hs hc hpart hrun
    obtain ⟨t, ht, h1, h2, h3, h4, h5, h6, h7⟩ := unitReset_resets [c] hs hc hpart hrun
      (fun d hd => by rw [List.mem_singleton.1 hd]; exact hpart)
    exact ⟨t, (if_pos hp).trans (congrArg Host.Outcome.next ht), h1, h2, h3 c (List.mem_singleton.2 rfl),
      fun d hd => (h4 d (fun h => hd (List.mem_singleton.1 h))).1, fun d hd => (h4 d (fun h => hd (List.mem_singleton.1 h))).2, h5, h6,
      fun hr => h7 (fun d hd => by rw [List.mem_singleton.1 hd]; exact hr)⟩
  case berth =>
    intro s cl p c hp hs hc hpart hrun
    obtain ⟨t, ht, h1, -, h3, h4, h5, h6, h7⟩ := unitReset_resets (berthCores s c) hs hc hpart hrun (fun d hd => by
      have hx := coreX_berth hd
      unfold State.partOfCore at hpart ⊢
      rw [hx]; exact hpart)
    exact ⟨t, (if_pos hp).trans (congrArg Host.Outcome.next ht), h1, h3, h4, h5, h6, h7⟩
  case busy =>
    intro s cl p c hp hs hc hpart h1 h2
    exact ⟨(if_pos hp).trans (congrArg Host.Outcome.next (unitReset_busy [c] hs hc hpart h1 h2)),
      (if_pos hp).trans (congrArg Host.Outcome.next (unitReset_busy (berthCores s c) hs hc hpart h1 h2))⟩
  case complete =>
    intro s c hc hd
    have hany : (s.core c).chans.any (fun e => decide (e.2.state = .draining)) = false :=
      List.any_eq_false.2 fun e he => by simp [hd e he]
    exact ⟨_, (onCore_exists _ hc).trans (congrArg Host.Outcome.next (if_neg (by rw [hany]; decide))),
      (State.setHeal_heal ..).trans (if_pos rfl), fun d hd => (State.setHeal_heal ..).trans (if_neg hd), rfl⟩
  case abandon =>
    intro s c ch hc hst hr
    have hw := (s.advance (((s.core c).chan ch).drainSince + 1500000)).putChan_written c ch
      { (s.core c).chan ch with state := .idle, owed := 0, flight := [] }
    refine ⟨_, (onCore_exists _ hc).trans (congrArg Host.Outcome.next (if_neg (by simp [hst, hr]))), hw.chan, rfl, hw.chans, hw.cores, rfl⟩

end Sys2Proof.Machine
end

section
/-! SUPPORT. The commands of a running partition (R178). -/

namespace Sys2Proof.Machine

/-! ### Tickets -/

theorem State.append_sivar (s : State) (e : Event) : (s.append e).sivar = { s.sivar with sessions := (s.append e).sivar.sessions } := by
  unfold State.append
  dsimp only
  split <;> rfl

/-- An event touches nothing of the controller's objects but the sessions that it notifies (R379). -/
theorem State.event_sivar (s : State) (a b c d : Nat) :
    (s.event a b c d).sivar = { s.sivar with sessions := (s.event a b c d).sivar.sessions } := by
  unfold State.event State.eventAt
  dsimp only
  split
  · rfl
  · split
    · split <;> rfl
    · exact State.append_sivar ..

theorem State.event_tickets (s : State) (a b c d : Nat) : (s.event a b c d).sivar.tickets = s.sivar.tickets := by
  rw [State.event_sivar]

/-- A ticket that opens is the last of the list, and open; the answer names it (R396). -/
theorem State.openTicket_opens (s : State) (idx sub : Nat) :
    ∃ l k, s.openTicket idx sub = { s with
        sivar := { s.sivar with tickets := l, nextTicket := s.sivar.nextTicket + 1 }
        resp := { s.resp with flags := 1, ticket := s.sivar.nextTicket } }
      ∧ List.getLast? l = some k ∧ k.number = s.sivar.nextTicket ∧ k.done = false ∧ k.index = idx ∧ k.sub = sub
      ∧ (∀ x ∈ l, x ∈ s.sivar.tickets ∨ x = k) := by
  refine ⟨_, { number := s.sivar.nextTicket, index := idx, sub := sub, done := false, status := 0,
               taken := s.utc, finish := 0, journalled := false }, rfl, ?_, rfl, rfl, rfl, rfl, fun x hx => ?_⟩
  · rw [List.getLast?_drop, List.length_append, List.length_singleton, if_neg (by omega), List.getLast?_concat]
  · rcases List.mem_append.1 (List.mem_of_mem_drop hx) with h | h
    · exact Or.inl h
    · exact Or.inr (List.mem_singleton.1 h)

/-- Ending a ticket leaves none of that number open. -/
theorem State.endTicket_done (s : State) (n status : Nat) (k : Ticket) (h : k ∈ (s.endTicket n status).sivar.tickets)
    (hk : k.number = n) : k.done = true := by
  obtain ⟨x, -, rfl⟩ := List.mem_map.1 h
  split at hk
  next hx => rw [if_pos hx]
  next hx =>
    rw [if_neg hx]
    cases hd : x.done with
    | true => rfl
    | false => exact absurd ⟨by rw [hd]; rfl, hk⟩ hx

/-- Withdrawing a PREEMPT that waits (R178). -/
theorem State.withdrawPreempt_withdraws {s : State} {p n since : Nat} (status : Nat) (h : (s.ctlOf p).preempt = some (n, since)) :
    let t := s.withdrawPreempt p status
    t.ctlOf p = { s.ctlOf p with preempt := none } ∧ (∀ k ∈ t.sivar.tickets, k.number = n → k.done = true)
      ∧ SameBut {} s.ctl t.ctl p ∧ t = { s with ctl := t.ctl, sivar := t.sivar } := by
  obtain ⟨ct, hct⟩ : ∃ ct : PartControl, { s.ctlOf p with preempt := none } = ct := ⟨_, rfl⟩
  obtain ⟨u, hu⟩ : ∃ u, s.setCtl p ct = u := ⟨_, rfl⟩
  have e : s.withdrawPreempt p status = u.endTicket n status := by
    unfold State.withdrawPreempt
    rw [h]
    dsimp only
    rw [hct, hu]
  rw [e]
  have hctl : ∀ q, (u.endTicket n status).ctlOf q = if q = p then ct else s.ctlOf q := fun q => by
    rw [← hu]; exact State.setCtl_ctlOf ..
  dsimp only
  rw [hct]
  refine ⟨(hctl p).trans (if_pos rfl), fun k hk hn => u.endTicket_done n status k hk hn, fun q hq => (hctl q).trans (if_neg hq), ?_⟩
  rw [← hu]
  rfl

/-! ### The obligation -/

/-- A partition's command on a partition that does not run (R178). -/
theorem command_refusedState {s : State} {cl : Client} {f : State → State × Nat} (hs : Serves s cl false)
    (hf : f s.asked = (s.asked, stState)) : s.command cl false f = { s with resp := answered stState } := by
  rw [State.command_served _ hs, hf]
  rfl

/-- Settles O15: each command writes the control of its partition alone; a ticket ends with the PREEMPT that it stands for. -/
theorem partitionCommandsWaitForMarks : Obligations.PartitionCommandsWaitForMarks := by
  unfold Obligations.PartitionCommandsWaitForMarks
  refine ⟨?preempt, ?flags, ?withdraw, ?timeout, ?idle⟩
  case preempt =>
    intro s cl p hp hs hrun hpre htide
    obtain ⟨l, k, hopen, hk, hkn, hkd, -⟩ := s.asked.openTicket_opens (0x2100 + p) 0x0D
    obtain ⟨u, hu, hur, huc, hun, hul, hus, huf⟩ : ∃ u, s.asked.openTicket (0x2100 + p) 0x0D = u
        ∧ u.resp = { flags := 1, ticket := s.sivar.nextTicket } ∧ (∀ q, u.ctlOf q = s.ctlOf q)
        ∧ u.sivar.nextTicket = s.sivar.nextTicket + 1 ∧ u.sivar.tickets = l
        ∧ u.sivar = { s.sivar with tickets := u.sivar.tickets, nextTicket := u.sivar.nextTicket }
        ∧ u = { s with resp := u.resp, sivar := u.sivar } := ⟨_, hopen, rfl, fun _ => rfl, rfl, rfl, rfl, rfl⟩
    obtain ⟨ct, hct⟩ : ∃ ct : PartControl, { s.ctlOf p with preempt := some (s.sivar.nextTicket, s.now) } = ct := ⟨_, rfl⟩
    have hdo : doPreempt p s.asked = (u.setCtl p ct, stOk) := by
      unfold doPreempt
      dsimp only
      rw [if_neg (by
        have h1 : (s.asked.part p).run = .running := hrun
        have h2 : (s.asked.ctlOf p).preempt = none := hpre
        have h3 : (tideTable (s.asked.part p)).any tidePreempt = true := htide
        rw [h1, h2, h3]; decide), hu, huc, ← hct]
      rfl
    have hex : exec (.preempt cl p) s = .next ((u.setCtl p ct).answer stOk) := by
      refine (if_pos hp).trans (congrArg Host.Outcome.next ?_)
      rw [State.command_served _ hs, hdo]
    rw [← hul] at hk
    obtain ⟨t, ht⟩ : ∃ t, (u.setCtl p ct).answer stOk = t := ⟨_, rfl⟩
    rw [ht] at hex
    have hctl : ∀ q, t.ctlOf q = if q = p then ct else s.ctlOf q := fun q => by
      rw [← ht, State.answer_ctlOf, State.setCtl_ctlOf, huc]
    have hts : t.sivar = u.sivar := by rw [← ht]; rfl
    have htr : t.resp = { u.resp with status := stOk, executed := 1 } := by rw [← ht]; rfl
    have htf : t = { u with ctl := t.ctl, resp := t.resp } := by rw [← ht]; rfl
    refine ⟨t, hex, by rw [htr, hur]; rfl, by rw [hctl, if_pos rfl, hct], ⟨k, by rw [hts]; exact hk, hkn, hkd⟩, by rw [hts, hun],
      by rw [hts]; exact hus, fun q hq => (hctl q).trans (if_neg hq), ?_⟩
    rw [hts]
    exact htf.trans (congrArg (fun y : State => { y with ctl := t.ctl, resp := t.resp }) huf)
  case flags =>
    intro s cl p hp hs hrun
    have hset : ∀ ct : PartControl, let t := (s.asked.setCtl p ct).answer stOk
        t.resp = answered stOk ∧ t.ctlOf p = ct ∧ SameBut {} s.ctl t.ctl p ∧ t = { s with ctl := t.ctl, resp := t.resp } := fun ct => by
      have hctl : ∀ q, ((s.asked.setCtl p ct).answer stOk).ctlOf q = if q = p then ct else s.ctlOf q := fun q => by
        rw [State.answer_ctlOf, State.setCtl_ctlOf]; rfl
      exact ⟨rfl, (hctl p).trans (if_pos rfl), fun q hq => (hctl q).trans (if_neg hq), rfl⟩
    refine ⟨⟨_, (if_pos hp).trans (congrArg Host.Outcome.next ?_), hset { s.ctlOf p with halt := true }⟩,
      ⟨_, (if_pos hp).trans (congrArg Host.Outcome.next ?_), hset { s.ctlOf p with ending := true }⟩⟩
    · rw [State.command_served _ hs]
      unfold doHalt
      rw [if_neg (by rw [show (s.asked.part p).run = .running from hrun]; decide)]
      rfl
    · rw [State.command_served _ hs]
      unfold doEnd
      rw [if_neg (by rw [show (s.asked.part p).run = .running from hrun]; decide)]
      rfl
  case withdraw =>
    intro s cl p n since hp hs hrun hpre
    have hpre' : (s.asked.ctlOf p).preempt = some (n, since) := hpre
    obtain ⟨h1, h2, h3, h4⟩ := State.withdrawPreempt_withdraws stState hpre'
    have hdo : doWithdraw p s.asked = (s.asked.withdrawPreempt p stState, stOk) := by
      unfold doWithdraw
      rw [if_neg (by rw [show (s.asked.part p).run = .running from hrun, hpre']; simp)]
    have hex : exec (.withdraw cl p) s = .next ((s.asked.withdrawPreempt p stState).answer stOk) := by
      refine (if_pos hp).trans (congrArg Host.Outcome.next ?_)
      rw [State.command_served _ hs, hdo]
    obtain ⟨u, hu⟩ : ∃ u, s.asked.withdrawPreempt p stState = u := ⟨_, rfl⟩
    rw [hu] at h1 h2 h3 h4 hex
    have hresp : u.resp = {} := by rw [h4]; rfl
    rw [State.answer_cleared hresp] at hex
    exact ⟨_, hex, rfl, h1, h2, h3, congrArg (fun y : State => { y with resp := answered stOk }) h4⟩
  case timeout =>
    intro s p n since hp hpre
    obtain ⟨a, ha, hac, han, haf⟩ : ∃ a, s.advance (since + 4 * (s.part p).period * cyPerTick) = a ∧ (∀ q, a.ctlOf q = s.ctlOf q)
        ∧ a.now = max s.now (since + 4 * (s.part p).period * 1500) ∧ a = { s with now := a.now, rtc := a.rtc } :=
      ⟨_, rfl, fun _ => rfl, rfl, rfl⟩
    obtain ⟨h1, h2, h3, h4⟩ := State.withdrawPreempt_withdraws (s := a) stTimeout (by rw [hac]; exact hpre)
    obtain ⟨u, hu⟩ : ∃ u, a.withdrawPreempt p stTimeout = u := ⟨_, rfl⟩
    rw [hu] at h1 h2 h3 h4
    have hex : exec (.preemptTimeout p) s = .next (u.event sevInfo evPreemptDeferred p 0xFFFF) := by
      refine (if_pos hp).trans (congrArg Host.Outcome.next ?_)
      rw [hpre]
      dsimp only
      rw [ha, hu]
    have hef := u.event_frame sevInfo evPreemptDeferred p 0xFFFF
    have het := u.event_tickets sevInfo evPreemptDeferred p 0xFFFF
    obtain ⟨t, ht⟩ : ∃ t, u.event sevInfo evPreemptDeferred p 0xFFFF = t := ⟨_, rfl⟩
    rw [ht] at hex hef het
    have hctl : t.ctl = u.ctl := by rw [hef]
    have htctl : ∀ q, t.ctlOf q = u.ctlOf q := fun q => by unfold State.ctlOf; rw [hctl]
    have hactl : a.ctl = s.ctl := by rw [haf]
    have hnow : t.now = a.now := by rw [hef, h4]
    have hrtc : t.rtc = a.rtc := by rw [hef, h4]
    refine ⟨t, hex, hnow.trans han, by rw [htctl, h1, hac], by rw [het]; exact h2, ?_, ?_⟩
    · rw [hctl, ← hactl]; exact h3
    · rw [hctl, hnow, hrtc]
      exact hef.trans (congrArg (fun y : State => { y with log := t.log, hosts := t.hosts, sivar := t.sivar })
        (h4.trans (congrArg (fun y : State => { y with ctl := u.ctl, sivar := u.sivar }) haf)))
  case idle =>
    intro s cl p hp hs hrun
    have hrun' : (s.asked.part p).run ≠ .running := hrun
    refine ⟨(if_pos hp).trans (congrArg Host.Outcome.next (command_refusedState hs ?_)),
      (if_pos hp).trans (congrArg Host.Outcome.next (command_refusedState hs ?_)),
      (if_pos hp).trans (congrArg Host.Outcome.next (command_refusedState hs ?_)),
      (if_pos hp).trans (congrArg Host.Outcome.next (command_refusedState hs ?_))⟩
    · exact if_pos (Or.inl hrun')
    · exact if_pos hrun'
    · exact if_pos hrun'
    · exact if_pos (Or.inl hrun')

end Sys2Proof.Machine
end

section
/-! SUPPORT. LAUNCH, RESUME, CANCEL and the image upload (R172-R177). -/

namespace Sys2Proof.Machine

/-! ### What the start of a partition leaves alone -/

/-- What a launch leaves alone of the rest of the module: the time and the answer, the partitions, the quays' bytes and tensors, the tide,
the configuration, and the launch record of every partition. -/
def State.launchView (s : State) :
    Nat × Resp × Tbl Partition × List Host.Cell × List Host.Cell × Tbl Tensor × Tide × Tbl (List Byte) × (Nat → BitVec 256) :=
  (s.now, s.resp, s.parts, s.dram, s.flash, s.tensors, s.tide, s.sivar.config, fun p => (s.ctlOf p).launchRecord)

@[simp] theorem launchView_fold (s : State) :
    (s.now, s.resp, s.parts, s.dram, s.flash, s.tensors, s.tide, s.sivar.config, fun p => (s.ctlOf p).launchRecord) = s.launchView := by rfl

@[simp] theorem launchView_ite {p : Prop} [Decidable p] (s t : State) :
    (if p then s else t).launchView = if p then s.launchView else t.launchView := apply_ite State.launchView p s t

@[simp] theorem foldl_launchView {α : Type} {f : State → α → State} (hf : ∀ t a, (f t a).launchView = t.launchView) (l : List α) (s : State) :
    (l.foldl f s).launchView = s.launchView :=
  List.foldlRecOn (motive := fun t => t.launchView = s.launchView) l f rfl fun t ht a _ => (hf t a).trans ht

@[simp] theorem State.setCore_launchView (s : State) (c : Nat) (v : Core) : (s.setCore c v).launchView = s.launchView := by rfl
@[simp] theorem State.setHeal_launchView (s : State) (c : Nat) (v : CoreHealth) : (s.setHeal c v).launchView = s.launchView := by rfl
@[simp] theorem State.setTile_launchView (s : State) (c : Nat) (v : Tile) : (s.setTile c v).launchView = s.launchView := by rfl
@[simp] theorem State.setGantry_launchView (s : State) (x : Nat) (v : Gantry) : (s.setGantry x v).launchView = s.launchView := by rfl
@[simp] theorem State.setSlot_launchView (s : State) (k : Nat) (v : ImageSlot) : (s.setSlot k v).launchView = s.launchView := by rfl
@[simp] theorem State.setQuay_launchView (s : State) (q : Nat) (v : Quay) : (s.setQuay q v).launchView = s.launchView := by rfl
@[simp] theorem State.setPair_launchView (s : State) (p : Nat) (v : Pair) : (s.setPair p v).launchView = s.launchView := by rfl
@[simp] theorem State.setPort_launchView (s : State) (i : Nat) (v : Port) : (s.setPort i v).launchView = s.launchView := by rfl
@[simp] theorem State.bump_launchView (s : State) : s.bump.launchView = s.launchView := by rfl
@[simp] theorem State.forgetPad_launchView (s : State) (c : Nat) (m : Bool) : (s.forgetPad c m).launchView = s.launchView := by rfl
@[simp] theorem State.setRun_launchView (s : State) (p : Nat) (r : UpdateRun) : (s.setRun p r).launchView = s.launchView := by rfl
@[simp] theorem State.journal_launchView (s : State) (k u e : Nat) : (s.journal k u e).launchView = s.launchView := by rfl
@[simp] theorem State.journalDone_launchView (s : State) (k u : Nat) : (s.journalDone k u).launchView = s.launchView := by rfl
@[simp] theorem State.overlay_launchView (s : State) (o : Overlay) : ({ s with overlay := o } : State).launchView = s.launchView := by rfl
@[simp] theorem State.routersDown_launchView (s : State) (r : List Nat) : ({ s with routersDown := r } : State).launchView = s.launchView := by rfl
@[simp] theorem State.quays_launchView (s : State) (q : Tbl Quay) : ({ s with quays := q } : State).launchView = s.launchView := by rfl

/-- A write of a partition's control that keeps its launch record. -/
theorem State.setCtl_launchView (s : State) (p : Nat) (v : PartControl) (h : v.launchRecord = (s.ctlOf p).launchRecord) :
    (s.setCtl p v).launchView = s.launchView := by
  have : (fun q => ((s.setCtl p v).ctlOf q).launchRecord) = fun q => (s.ctlOf q).launchRecord := funext fun q => by
    rw [State.setCtl_ctlOf]
    split
    next e => rw [e, h]
    next => rfl
  unfold State.launchView
  rw [this]
  rfl

@[simp] theorem State.event_launchView (s : State) (a b c d : Nat) : (s.event a b c d).launchView = s.launchView := by
  simp [State.launchView, -launchView_fold]

@[simp] theorem State.decideNow_launchView (s : State) (p k u v c : Nat) : (s.decideNow p k u v c).launchView = s.launchView := by
  unfold State.decideNow
  rw [State.journalDone_launchView]
  unfold State.decided
  dsimp only
  rw [State.setCtl_launchView]
  · rfl
  · rfl

@[simp] theorem State.loadSegment_launchView (s : State) (c : Nat) (g : Segment) : (s.loadSegment c g).launchView = s.launchView := by rfl
@[simp] theorem State.restartCore_launchView (s : State) (c : Nat) : (s.restartCore c).launchView = s.launchView := by rfl
@[simp] theorem State.putWindow_launchView (s : State) (c w : Nat) (m : BitVec 128) : (s.putWindow c w m).launchView = s.launchView := by rfl
@[simp] theorem State.moveHealth_launchView (s : State) (t col f : Nat) : (s.moveHealth t col f).launchView = s.launchView := by
  simp [State.moveHealth]
@[simp] theorem State.shiftSites_launchView (s : State) (site : Nat) : (s.shiftSites site).launchView = s.launchView := by
  simp [State.shiftSites]
@[simp] theorem State.noteShift_launchView (s : State) (site used : Nat) : (s.noteShift site used).launchView = s.launchView := by rfl
@[simp] theorem State.markUnusable_launchView (s : State) (t : Nat) : (s.markUnusable t).launchView = s.launchView := by
  simp [State.markUnusable]
@[simp] theorem State.loseColumn_launchView (s : State) (t col : Nat) : (s.loseColumn t col).launchView = s.launchView := by
  simp [State.loseColumn]
@[simp] theorem State.notePort_launchView (s : State) (i : Nat) (v : Port) : (s.notePort i v).launchView = s.launchView := by
  simp [State.notePort]
@[simp] theorem State.dropWavelength_launchView (s : State) (i w : Nat) : (s.dropWavelength i w).launchView = s.launchView := by
  simp [State.dropWavelength]
@[simp] theorem State.applyFence_launchView (s : State) (cls unit : Nat) : (s.applyFence cls unit).launchView = s.launchView := by
  simp only [State.applyFence]
  split
  · simp
  · simp
  · simp
  · rfl
  · rfl
@[simp] theorem State.addFence_launchView (s : State) (cls o f unit : Nat) : (s.addFence cls o f unit).1.launchView = s.launchView := by
  simp only [State.addFence]
  split <;> simp
@[simp] theorem State.shiftColumn_launchView (s : State) (site used o f : Nat) : (s.shiftColumn site used o f).1.launchView = s.launchView := by
  simp only [State.shiftColumn]
  split <;> simp
@[simp] theorem State.applyPending_launchView (s : State) (p : Nat) : (s.applyPending p).launchView = s.launchView := by
  simp [State.applyPending]
@[simp] theorem State.substituteSite_launchView (s : State) (site p : Nat) : (s.substituteSite site p).launchView = s.launchView := by
  simp [State.substituteSite]
@[simp] theorem State.substituteOffer_launchView (s : State) (c p : Nat) : (s.substituteOffer false c p).launchView = s.launchView := by
  simp [State.substituteOffer]
@[simp] theorem State.substituteBand_launchView (s : State) (p : Nat) : (s.substituteBand p).launchView = s.launchView := by
  simp [State.substituteBand]
@[simp] theorem State.verifySlot_launchView (s : State) (k : Nat) (p : Option Nat) : (s.verifySlot k p).launchView = s.launchView := by
  simp only [State.verifySlot]
  split <;> simp
@[simp] theorem State.loadStores_launchView (s : State) (p : Nat) (img : Image) (vs : List Nat) : (s.loadStores p img vs).launchView = s.launchView := by
  unfold State.loadStores
  refine (foldl_launchView (fun u i => ?_) _ _).trans (foldl_launchView (fun u c => by simp) _ _)
  dsimp only
  split
  · split <;> simp
  · rfl
@[simp] theorem State.loadBandTaps_launchView (s : State) (p : Nat) (img : Image) (vs : List Nat) : (s.loadBandTaps p img vs).launchView = s.launchView := by
  simp [State.loadBandTaps]
@[simp] theorem State.openWindows_launchView (s : State) (p : Nat) (img : Image) : (s.openWindows p img).launchView = s.launchView := by
  simp [State.openWindows]
@[simp] theorem State.startClock_launchView (s : State) (t : Nat) : (s.startClock t).launchView = s.launchView := by
  simp [State.startClock]
@[simp] theorem State.startClocks_launchView (s : State) (p : Nat) (img : Image) : (s.startClocks p img).launchView = s.launchView := by
  simp [State.startClocks]
@[simp] theorem State.freshCredits_launchView (s : State) (p : Nat) : (s.freshCredits p).launchView = s.launchView := by
  simp [State.freshCredits]
@[simp] theorem State.freshQuays_launchView (s : State) (p : Nat) (k : IssuedFetch → Bool) : (s.freshQuays p k).launchView = s.launchView := by
  simp [State.freshQuays]
@[simp] theorem State.freshLeads_launchView (s : State) (p : Nat) : (s.freshLeads p).launchView = s.launchView := by rfl
@[simp] theorem State.weighBand_launchView (s : State) (p : Nat) : (s.weighBand p).launchView = s.launchView := by
  simp [State.weighBand]
@[simp] theorem State.weighLaunch_launchView (s : State) (p : Nat) : (s.weighLaunch p).launchView = s.launchView := by
  simp [State.weighLaunch]
@[simp] theorem State.clearEgress_launchView (s : State) (p : Nat) : (s.clearEgress p).launchView = s.launchView := by rfl
@[simp] theorem State.fencePair_launchView (s : State) (p : Nat) : (s.fencePair p).launchView = s.launchView := by
  simp [State.fencePair]
@[simp] theorem State.refence_launchView (s : State) (p : Nat) : (s.refence p).launchView = s.launchView := by
  simp [State.refence]
@[simp] theorem State.clearMail_launchView (s : State) (p : Nat) : (s.clearMail p).launchView = s.launchView := by rfl
@[simp] theorem State.ownLedger_launchView (s : State) : s.ownLedger.launchView = s.launchView := by
  unfold State.ownLedger
  split <;> rfl
@[simp] theorem State.backUpdates_launchView (s : State) (p n0 : Nat) : (s.backUpdates p n0).launchView = s.launchView := by
  simp [State.backUpdates]
@[simp] theorem State.notePair_launchView (s : State) (p : Nat) : (s.notePair p).launchView = s.launchView := by
  simp [State.notePair]
@[simp] theorem State.notePairs_launchView (s : State) (p : Nat) : (s.notePairs p).launchView = s.launchView := by
  simp [State.notePairs]
theorem placeIn_launchView {s t : State} {q tier kind tid size : Nat} (h : placeIn s q tier kind tid size = some t) : t.launchView = s.launchView := by
  simp only [placeIn] at h
  split at h
  · cases h
  · cases h; simp
theorem allocStores_launchView {s t : State} (h : allocStores s = some t) : t.launchView = s.launchView := by
  revert t
  refine List.foldlRecOn (motive := fun (o : Option State) => ∀ {t}, o = some t → t.launchView = s.launchView) _ _
    (fun h => by cases h; rfl) fun o ho e _ t h => ?_
  split at h
  next => cases h
  next u => exact (placeIn_launchView h).trans (ho rfl)
@[simp] theorem State.fitStores_launchView (s : State) : s.fitStores.launchView = s.launchView := by
  unfold State.fitStores
  split_ifs
  · cases h : allocStores s with
    | none => rfl
    | some t => exact allocStores_launchView h
  · rfl

/-! ### The start of a partition -/

/-- The partition that a launch starts. -/
def launchedPart (s : State) (p : Nat) (img : Image) (vs : List Nat) (rec : BitVec 256) (recovery : Bool) : Partition :=
  { run := .starting, elastic := decide (s.cfg (0x2100 + p) 4 = 1), image := some (loadedImage img vs), variants := vs
    launchTick := lrTick rec, period := periodFor img vs, steps := lrSteps rec, n0 := lrFirst rec
    nb := if recovery then (s.part p).nb else lrFirst rec, barrierLatency := measuredBarrier s p
    leftGroup := recovery && (s.part p).leftGroup }

/-- A partition's start writes its partition and its launch record; the rest of the view stands. -/
theorem State.startPartition_launchView (s : State) (p : Nat) (img : Image) (vs : List Nat) (rec : BitVec 256) (recovery : Bool) :
    (s.startPartition p img vs rec recovery).launchView
      = ((s.setPart p (launchedPart s p img vs rec recovery)).setCtl p (launchCtl (s.ctlOf p) rec recovery)).launchView := by
  unfold State.startPartition
  dsimp only
  simp [launchedPart]
/-! ### The words of a launch record -/

/-- The kind byte that `withKind` writes is the kind that is read back. -/
theorem lrKind_withKind (k : Nat) (r : BitVec 256) : lrKind (withKind k r) = k % 256 := by
  have hlow : (withKind k r).extractLsb' 96 8 = BitVec.ofNat 8 k := by
    refine BitVec.eq_of_getLsbD_eq fun i hi => ?_
    have hmask : (255 : Nat).testBit i = true := by
      have := Nat.testBit_two_pow_sub_one 8 i
      simpa [hi] using this
    have hk : (k % 256).testBit i = k.testBit i := by
      have := Nat.testBit_mod_two_pow k 8 i
      simpa [hi] using this
    simp only [withKind, BitVec.getLsbD_extractLsb', BitVec.getLsbD_or, BitVec.getLsbD_and, BitVec.getLsbD_not, BitVec.getLsbD_shiftLeft,
      BitVec.getLsbD_ofNat, Nat.add_sub_cancel_left]
    have h1 : i < 256 := by omega
    have h2 : 96 + i < 256 := by omega
    have h3 : ¬ 96 + i < 96 := by omega
    simp [hi, h1, h2, h3, hmask, hk]
  have := congrArg BitVec.toNat hlow
  simpa [lrKind, bits, BitVec.extractLsb'_toNat] using this

/-- The configuration decides what a configuration field reads. -/
theorem State.cfg_congr {s t : State} (h : t.sivar.config = s.sivar.config) (o m : Nat) : t.cfg o m = s.cfg o m := by
  unfold State.cfg
  rw [h]

/-- What an equal launch view says. -/
theorem State.of_launchView {s t : State} (h : t.launchView = s.launchView) :
    t.now = s.now ∧ t.resp = s.resp ∧ t.parts = s.parts ∧ t.dram = s.dram ∧ t.flash = s.flash ∧ t.tensors = s.tensors ∧ t.tide = s.tide
      ∧ t.sivar.config = s.sivar.config ∧ (∀ p, (t.ctlOf p).launchRecord = (s.ctlOf p).launchRecord) := by
  simp only [State.launchView, Prod.mk.injEq] at h
  obtain ⟨h1, h2, h3, h4, h5, h6, h7, h8, h9⟩ := h
  exact ⟨h1, h2, h3, h4, h5, h6, h7, h8, fun p => congrFun h9 p⟩

/-- A partition's launch record that its checks and its command accept is answered with the command's status, which the partition notes. -/
theorem launchWrite_answered {s u : State} {cl : Client} {p st : Nat} {r : BitVec 256} (hs : Serves s cl false) (hr : recordOk s r = true)
    (hdo : (if lrKind r = 1 then doLaunch p r s.asked else if lrKind r = 2 then doResume p r s.asked else doCancel p s.asked) = (u, st))
    (hresp : u.resp = {}) :
    s.command cl false (doLaunchWrite p r)
      = { u.setCtl p { u.ctlOf p with launchStatus := st } with resp := answered st } := by
  have hok : recordOk s.asked r = true := hr
  rw [State.command_served _ hs]
  unfold doLaunchWrite
  rw [hok, hdo]
  exact State.answer_cleared hresp

/-- A launch that every check accepts starts the partition (R170, R171). -/
theorem doLaunch_accepted {s : State} {p : Nat} {r : BitVec 256} {img : Image} (hrun : (s.part p).run = .stopped) (hdef : s.defined p = true)
    (himg : ((s.substituteBand p).slotOf ((s.substituteBand p).cfg (0x2100 + p) 5)).image = some img)
    (hadm : admitStatus (s.substituteBand p) p img = none) :
    ∃ v : State, v.launchView = s.launchView ∧ doLaunch p r s = (v.startPartition p img [] r false, stOk) := by
  refine ⟨(s.substituteBand p).verifySlot ((s.substituteBand p).cfg (0x2100 + p) 5) (some p), by simp, ?_⟩
  unfold doLaunch
  rw [if_neg (by rw [hrun, hdef]; simp)]
  dsimp only
  rw [himg]
  dsimp only
  rw [hadm]

/-! ### What a resume leaves in the cores -/

/-- The bundle, range and descriptor stores of every core. -/
def State.storesView (s : State) (c : Nat) : List (BitVec 128) × List (BitVec 32) × List (BitVec 512) :=
  ((s.core c).bundles, (s.core c).ranges, (s.core c).descs)

theorem State.storesView_of_cores {s t : State} (h : t.cores = s.cores) : t.storesView = s.storesView := by
  unfold State.storesView State.core
  rw [h]

theorem State.setCore_storesView {s : State} {c : Nat} {v : Core} (hb : v.bundles = (s.core c).bundles) (hr : v.ranges = (s.core c).ranges)
    (hd : v.descs = (s.core c).descs) : (s.setCore c v).storesView = s.storesView := funext fun j => by
  unfold State.storesView
  rw [State.setCore_core]
  split
  next e => rw [hb, hr, hd, e]
  next => rfl

@[simp] theorem storesView_ite {p : Prop} [Decidable p] (s t : State) :
    (if p then s else t).storesView = if p then s.storesView else t.storesView := apply_ite State.storesView p s t
@[simp] theorem foldl_storesView {α : Type} {f : State → α → State} (hf : ∀ t a, (f t a).storesView = t.storesView) (l : List α) (s : State) :
    (l.foldl f s).storesView = s.storesView :=
  List.foldlRecOn (motive := fun t => t.storesView = s.storesView) l f rfl fun t ht a _ => (hf t a).trans ht

@[simp] theorem State.setHeal_storesView (s : State) (c : Nat) (v : CoreHealth) : (s.setHeal c v).storesView = s.storesView := by rfl
@[simp] theorem State.setTile_storesView (s : State) (c : Nat) (v : Tile) : (s.setTile c v).storesView = s.storesView := by rfl
@[simp] theorem State.setGantry_storesView (s : State) (x : Nat) (v : Gantry) : (s.setGantry x v).storesView = s.storesView := by rfl
@[simp] theorem State.setSlot_storesView (s : State) (k : Nat) (v : ImageSlot) : (s.setSlot k v).storesView = s.storesView := by rfl
@[simp] theorem State.setQuay_storesView (s : State) (q : Nat) (v : Quay) : (s.setQuay q v).storesView = s.storesView := by rfl
@[simp] theorem State.setPair_storesView (s : State) (p : Nat) (v : Pair) : (s.setPair p v).storesView = s.storesView := by rfl
@[simp] theorem State.setPart_storesView (s : State) (p : Nat) (v : Partition) : (s.setPart p v).storesView = s.storesView := by rfl
@[simp] theorem State.setCtl_storesView (s : State) (p : Nat) (v : PartControl) : (s.setCtl p v).storesView = s.storesView := by rfl
@[simp] theorem State.setPort_storesView (s : State) (i : Nat) (v : Port) : (s.setPort i v).storesView = s.storesView := by rfl
@[simp] theorem State.bump_storesView (s : State) : s.bump.storesView = s.storesView := by rfl
@[simp] theorem State.forgetPad_storesView (s : State) (c : Nat) (m : Bool) : (s.forgetPad c m).storesView = s.storesView := by rfl
@[simp] theorem State.overlay_storesView (s : State) (o : Overlay) : ({ s with overlay := o } : State).storesView = s.storesView := by rfl
@[simp] theorem State.quays_storesView (s : State) (q : Tbl Quay) : ({ s with quays := q } : State).storesView = s.storesView := by rfl
@[simp] theorem State.event_storesView (s : State) (a b c d : Nat) : (s.event a b c d).storesView = s.storesView :=
  State.storesView_of_cores (s.event_cores a b c d)
@[simp] theorem State.decideNow_storesView (s : State) (p k u v c : Nat) : (s.decideNow p k u v c).storesView = s.storesView := by rfl
@[simp] theorem State.moveHealth_storesView (s : State) (t col f : Nat) : (s.moveHealth t col f).storesView = s.storesView := by
  simp [State.moveHealth]
@[simp] theorem State.shiftSites_storesView (s : State) (site : Nat) : (s.shiftSites site).storesView = s.storesView := by
  simp [State.shiftSites]
@[simp] theorem State.markUnusable_storesView (s : State) (t : Nat) : (s.markUnusable t).storesView = s.storesView := by
  simp [State.markUnusable]
@[simp] theorem State.loseColumn_storesView (s : State) (t col : Nat) : (s.loseColumn t col).storesView = s.storesView := by
  simp [State.loseColumn]
@[simp] theorem State.notePort_storesView (s : State) (i : Nat) (v : Port) : (s.notePort i v).storesView = s.storesView := by
  simp [State.notePort]
@[simp] theorem State.dropWavelength_storesView (s : State) (i w : Nat) : (s.dropWavelength i w).storesView = s.storesView := by
  simp [State.dropWavelength]
@[simp] theorem State.applyFence_storesView (s : State) (cls unit : Nat) : (s.applyFence cls unit).storesView = s.storesView := by
  simp only [State.applyFence]
  split
  · simp
  · simp
  · simp
  · rfl
  · rfl
@[simp] theorem State.applyPending_storesView (s : State) (p : Nat) : (s.applyPending p).storesView = s.storesView := by
  simp [State.applyPending]
@[simp] theorem State.verifySlot_storesView (s : State) (k : Nat) (p : Option Nat) : (s.verifySlot k p).storesView = s.storesView := by
  simp only [State.verifySlot]
  split <;> simp
@[simp] theorem State.loadBandTaps_storesView (s : State) (p : Nat) (img : Image) (vs : List Nat) :
    (s.loadBandTaps p img vs).storesView = s.storesView := by
  simp [State.loadBandTaps]
@[simp] theorem State.startClock_storesView (s : State) (t : Nat) : (s.startClock t).storesView = s.storesView := by
  simp [State.startClock]
@[simp] theorem State.startClocks_storesView (s : State) (p : Nat) (img : Image) : (s.startClocks p img).storesView = s.storesView := by
  simp [State.startClocks]
@[simp] theorem State.freshQuays_storesView (s : State) (p : Nat) (k : IssuedFetch → Bool) : (s.freshQuays p k).storesView = s.storesView := by
  simp [State.freshQuays, State.freshCredits]
@[simp] theorem State.weighLaunch_storesView (s : State) (p : Nat) : (s.weighLaunch p).storesView = s.storesView := by
  simp [State.weighLaunch, State.weighBand]
@[simp] theorem State.refence_storesView (s : State) (p : Nat) : (s.refence p).storesView = s.storesView := by
  have hf : (s.fencePair p).storesView = s.storesView := by
    unfold State.fencePair
    dsimp only
    rw [State.setPair_storesView]
    exact foldl_storesView (fun u c => by exact State.setCore_storesView rfl rfl rfl) _ _
  simp [State.refence, hf]

/-- The partition that a resume starts. -/
def resumedPart (s : State) (p : Nat) : Partition :=
  { s.part p with run := .starting, slip := 0, barriers := [], elastic := decide (s.cfg (0x2100 + p) 4 = 1), demoted := false }

/-- A resume writes its partition and its launch record, and no store of a core. -/
theorem State.startResume_resumes {s : State} {p : Nat} (point : ResumePoint) (rec : BitVec 256) {img : Image} (hi : (s.part p).image = some img) :
    (s.startResume p point rec).launchView
        = ((s.setPart p (resumedPart s p)).setCtl p { s.ctlOf p with launchRecord := rec, launchStatus := stOk }).launchView
      ∧ (s.startResume p point rec).storesView = s.storesView := by
  unfold State.startResume
  dsimp only
  rw [hi]
  dsimp only
  constructor
  · simp [resumedPart, hi]
  · simp only [State.bump_storesView, State.refence_storesView, State.weighLaunch_storesView, State.freshQuays_storesView,
      State.startClocks_storesView, State.loadBandTaps_storesView]
    refine (foldl_storesView (fun u c => by exact State.setCore_storesView rfl rfl rfl) _ _).trans ?_
    simp

/-- A resume that every check accepts starts the partition from its saved point (R175, R176). -/
theorem doResume_accepted {s : State} {p : Nat} {r : BitVec 256} {point : ResumePoint} {img slot : Image}
    (hrun : (s.part p).run = .stopped) (hpt : (s.part p).resume = some point) (himg : (s.part p).image = some img)
    (hslot : (s.slotOf (s.cfg (0x2100 + p) 5)).image = some slot) (hrel : (s.ctlOf p).reloaded = false) (hdig : img.digest = slot.digest)
    (hoff : offsetOf point.time ≤ 1497) (hadm : admitStatus (s.applyPending p) p slot = none) :
    ∃ v : State, v.launchView = s.launchView ∧ v.storesView = s.storesView ∧ doResume p r s = (v.startResume p point r, stOk) := by
  refine ⟨(s.applyPending p).verifySlot (s.cfg (0x2100 + p) 5) (some p), by simp, by simp, ?_⟩
  unfold doResume
  dsimp only
  rw [if_neg (by rw [hrun]; simp), hpt, himg, hslot]
  dsimp only
  rw [if_neg (by rw [hrel, hdig]; simp), if_neg (Nat.not_lt.2 hoff), hadm]

/-! ### Image upload -/

/-- An upload marks every partition of its slot as reloaded, and writes nothing else. -/
theorem foldl_reloaded (l : List Nat) (s : State) :
    let t := l.foldl (fun (u : State) p => u.setCtl p { u.ctlOf p with reloaded := true }) s
    (∀ p ∈ l, (t.ctlOf p).reloaded = true) ∧ (∀ p, (s.ctlOf p).reloaded = true → (t.ctlOf p).reloaded = true) ∧ t = { s with ctl := t.ctl } := by
  induction l generalizing s with
  | nil => exact ⟨fun p h => absurd h List.not_mem_nil, fun p h => h, rfl⟩
  | cons q l ih =>
    obtain ⟨ct, hct, hctr⟩ : ∃ ct : PartControl, { s.ctlOf q with reloaded := true } = ct ∧ ct.reloaded = true := ⟨_, rfl, rfl⟩
    rw [List.foldl_cons, hct]
    obtain ⟨h1, h2, h3⟩ := ih (s.setCtl q ct)
    have hkeep : ∀ p, (s.ctlOf p).reloaded = true ∨ p = q → ((s.setCtl q ct).ctlOf p).reloaded = true := fun p h => by
      rw [State.setCtl_ctlOf]
      split
      next => exact hctr
      next hne => exact h.resolve_right hne
    refine ⟨fun p hp => ?_, fun p hp => h2 p (hkeep p (.inl hp)), h3⟩
    rcases List.mem_cons.1 hp with rfl | hp
    · exact h2 p (hkeep p (.inr rfl))
    · exact h1 p hp

/-- Verification of a slot that holds an image writes its result beside the image. -/
theorem State.verifySlot_result {s : State} {k : Nat} {p : Option Nat} {img : Image} (h : (s.slotOf k).image = some img) :
    ∃ x : ImageSlot, s.verifySlot k p = s.setSlot k x ∧ x.image = some img ∧ 1 ≤ x.state ∧ x.state ≤ 4 := by
  have hs : ∀ n, 1 ≤ slotStateOf n ∧ slotStateOf n ≤ 4 := fun n => by
    unfold slotStateOf
    split_ifs <;> decide
  unfold State.verifySlot
  dsimp only
  rw [h]
  exact ⟨_, rfl, rfl, hs _⟩

/-- Settles O16. -/
theorem launchResumeCancelAndUpload : Obligations.LaunchResumeCancelAndUpload := by
  unfold Obligations.LaunchResumeCancelAndUpload
  refine ⟨?launch, ?cancel, ?resume, ?upload⟩
  case launch =>
    intro s cl p rec img hp hs hrun hdef r s1 hr himg hadm
    obtain ⟨v, hv, hdo⟩ := doLaunch_accepted (s := s.asked) (r := r) hrun hdef himg hadm
    have hkind : lrKind r = 1 := lrKind_withKind 1 rec
    have hview := v.startPartition_launchView p img [] r false
    obtain ⟨u, hu⟩ : ∃ u, v.startPartition p img [] r false = u := ⟨_, rfl⟩
    rw [hu] at hdo hview
    obtain ⟨hvn, hvr, hvp, hvd, hvf, hvt, hvti, hvc, -⟩ := State.of_launchView hv
    obtain ⟨hun, hur, hup, hud, huf, hut, huti, -, hul⟩ := State.of_launchView hview
    have hresp : u.resp = {} := hur.trans hvr
    have hex : exec (.launch cl p rec) s = .next _ :=
      (if_pos hp).trans (congrArg Host.Outcome.next (launchWrite_answered hs hr ((if_pos hkind).trans hdo) hresp))
    obtain ⟨ct, hct, hctl, hcts⟩ : ∃ ct : PartControl, { u.ctlOf p with launchStatus := stOk } = ct ∧ ct.launchRecord = (u.ctlOf p).launchRecord
        ∧ ct.launchStatus = 0 := ⟨_, rfl, rfl, rfl⟩
    rw [hct] at hex
    obtain ⟨pt, hpt⟩ : ∃ pt, launchedPart v p img [] r false = pt := ⟨_, rfl⟩
    have hel : pt.elastic = decide (s.cfg (0x2100 + p) 4 = 1) := by rw [← hpt, ← State.cfg_congr (s := s) hvc]; rfl
    rw [hpt] at hup
    have hpart : ∀ q, tget {} u.parts q = if q = p then pt else s.part q := fun q => by
      rw [hup]
      refine (tget_tput _ _ _ _ _).trans ?_
      rw [hvp]
      rfl
    have hme : tget {} u.parts p = pt := (hpart p).trans (if_pos rfl)
    refine ⟨_, hex, rfl, ?_, ?_, ?_, ?_, ?_, ?_, ?_, ?_, ?_, fun q hq => (hpart q).trans (if_neg hq), hun.trans hvn, hud.trans hvd, huf.trans hvf,
      hut.trans hvt, huti.trans hvti⟩
    · exact (congrArg Partition.run hme).trans (by rw [← hpt]; rfl)
    · exact (congrArg Partition.image hme).trans (by rw [← hpt]; rfl)
    · exact (congrArg Partition.launchTick hme).trans (by rw [← hpt]; rfl)
    · exact (congrArg Partition.elastic hme).trans hel
    · exact (congrArg Partition.period hme).trans (by rw [← hpt]; rfl)
    · exact (congrArg Partition.steps hme).trans (by rw [← hpt]; rfl)
    · exact (congrArg Partition.n0 hme).trans (by rw [← hpt]; rfl)
    · refine (congrArg PartControl.launchRecord (State.setCtl_ctlOf_same u p ct)).trans (hctl.trans ((hul p).trans ?_))
      rw [State.setCtl_ctlOf_same]
      rfl
    · exact (congrArg PartControl.launchStatus (State.setCtl_ctlOf_same u p ct)).trans hcts
  case cancel =>
    intro s cl p rec hp hs hrun hr hat
    have hkind : lrKind (withKind 3 rec) = 3 := lrKind_withKind 3 rec
    obtain ⟨pt, hpt⟩ : ∃ pt : Partition, { s.part p with run := .stopped } = pt := ⟨_, rfl⟩
    have hdo : doCancel p s.asked = (s.asked.setPart p pt, stOk) := by
      unfold doCancel
      have h1 : (s.asked.part p).run = .starting := hrun
      have h2 : ¬ launchAt s.asked p < s.asked.now + 500 * cyPerTick := Nat.not_lt.2 hat
      dsimp only
      rw [if_neg (by rw [h1]; decide), if_neg h2, ← hpt]
      rfl
    have hex : exec (.cancel cl p rec) s = .next _ := (if_pos hp).trans (congrArg Host.Outcome.next (launchWrite_answered hs hr
      ((if_neg (by rw [hkind]; decide)).trans ((if_neg (by rw [hkind]; decide)).trans hdo)) (u := s.asked.setPart p pt) rfl))
    rw [hpt]
    exact ⟨_, hex, rfl, tget_tput_same .., tget_tput_same .., fun q hq => tget_tput_ne _ _ _ _ _ hq,
      fun q hq => tget_tput_ne _ _ _ _ _ hq, rfl⟩
  case resume =>
    intro s cl p rec point img slot hp hs hrun hr hpt himg hslot hrel hdig hoff hadm
    obtain ⟨r, hrr⟩ : ∃ r, withKind 2 rec = r := ⟨_, rfl⟩
    have hkind : lrKind r = 2 := hrr ▸ lrKind_withKind 2 rec
    rw [hrr] at hr ⊢
    obtain ⟨v, hv, hvs, hdo⟩ := doResume_accepted (s := s.asked) (r := r) hrun hpt himg hslot hrel hdig hoff hadm
    obtain ⟨hvn, hvr, hvp, hvd, hvf, hvt, hvti, hvc, -⟩ := State.of_launchView hv
    have hvpart : ∀ q, v.part q = s.part q := fun q => by unfold State.part; rw [hvp]; rfl
    obtain ⟨hview, hstores⟩ := State.startResume_resumes point r ((congrArg Partition.image (hvpart p)).trans himg)
    obtain ⟨u, hu⟩ : ∃ u, v.startResume p point r = u := ⟨_, rfl⟩
    rw [hu] at hdo hview hstores
    obtain ⟨hun, hur, hup, hud, huf, hut, -, -, hul⟩ := State.of_launchView hview
    have hans := launchWrite_answered hs hr ((if_neg (by rw [hkind]; decide)).trans ((if_pos hkind).trans hdo)) (hur.trans hvr)
    have hex : exec (.resume cl p rec) s = .next _ := (if_pos hp).trans
      (congrArg Host.Outcome.next ((congrArg (fun x => s.command cl false (doLaunchWrite p x)) hrr).trans hans))
    obtain ⟨ct, hct, hctl, hcts⟩ : ∃ ct : PartControl, { u.ctlOf p with launchStatus := stOk } = ct ∧ ct.launchRecord = (u.ctlOf p).launchRecord
        ∧ ct.launchStatus = 0 := ⟨_, rfl, rfl, rfl⟩
    rw [hct] at hex
    obtain ⟨pt, hpt'⟩ : ∃ pt, resumedPart v p = pt := ⟨_, rfl⟩
    have hel : pt.elastic = decide (s.cfg (0x2100 + p) 4 = 1) := by rw [← hpt', ← State.cfg_congr (s := s) hvc]; rfl
    rw [hpt'] at hup
    have hpart : ∀ q, tget {} u.parts q = if q = p then pt else s.part q := fun q => by
      rw [hup]
      refine (tget_tput _ _ _ _ _).trans ?_
      rw [hvp]
      rfl
    have hme : tget {} u.parts p = pt := (hpart p).trans (if_pos rfl)
    have hst : ∀ c, (u.core c).bundles = (s.core c).bundles ∧ (u.core c).ranges = (s.core c).ranges ∧ (u.core c).descs = (s.core c).descs :=
      fun c => by
        have := congrFun (hstores.trans hvs) c
        simp only [State.storesView, Prod.mk.injEq] at this
        exact this
    refine ⟨_, hex, rfl, ?_, ?_, ?_, ?_, ?_, ?_, ?_, ?_, hst, fun q hq => (hpart q).trans (if_neg hq), hun.trans hvn, hud.trans hvd,
      huf.trans hvf, hut.trans hvt⟩
    · exact (congrArg Partition.run hme).trans (by rw [← hpt']; rfl)
    · exact (congrArg Partition.resume hme).trans (by rw [← hpt', ← hpt, ← hvpart]; rfl)
    · exact (congrArg Partition.image hme).trans (by rw [← hpt', ← himg, ← hvpart]; rfl)
    · exact (congrArg Partition.elastic hme).trans hel
    · exact (congrArg Partition.variant hme).trans (by rw [← hpt', ← hvpart]; rfl)
    · exact (congrArg Partition.delta hme).trans (by rw [← hpt', ← hvpart]; rfl)
    · refine (congrArg PartControl.launchRecord (State.setCtl_ctlOf_same u p ct)).trans (hctl.trans ((hul p).trans ?_))
      rw [State.setCtl_ctlOf_same]
    · exact (congrArg PartControl.launchStatus (State.setCtl_ctlOf_same u p ct)).trans hcts
  case upload =>
    intro s cl k img hs hk used
    have hstart : ∀ st : Nat, (doImageUpload k img s.asked) = (s.asked, st) → exec (.imageUpload cl k img) s = .next { s with resp := answered st } :=
      fun st h => congrArg Host.Outcome.next (by rw [State.command_served _ hs, h]; rfl)
    have husers : ∀ p, p ∈ partsWhere (fun p => s.asked.busyPart p && decide (s.asked.cfg (0x2100 + p) 5 = k))
        ↔ p < 8 ∧ s.busyPart p = true ∧ s.cfg (0x2100 + p) 5 = k := fun p => by
      rw [mem_partsWhere, Bool.and_eq_true, decide_eq_true_iff]
      exact Iff.rfl
    obtain ⟨busy, hbusy⟩ : ∃ b, partsWhere (fun p => s.asked.busyPart p && decide (s.asked.cfg (0x2100 + p) 5 = k)) = b := ⟨_, rfl⟩
    rw [hbusy] at husers
    have hk' : ¬ 8 ≤ k := Nat.not_le.2 hk
    refine ⟨fun hroom hfree => ?_, fun hfull => hstart _ ?_, fun hroom hbusyEx => hstart _ ?_⟩
    · obtain ⟨users, husr⟩ : ∃ l, partsWhere (fun p => decide (s.asked.cfg (0x2100 + p) 5 = k)) = l := ⟨_, rfl⟩
      obtain ⟨hrel, -, hframe⟩ := foldl_reloaded users s.asked
      obtain ⟨s0, hs0⟩ : ∃ u, users.foldl (fun (u : State) p => u.setCtl p { u.ctlOf p with reloaded := true }) s.asked = u := ⟨_, rfl⟩
      rw [hs0] at hrel hframe
      obtain ⟨y, hy, hyi⟩ : ∃ y : ImageSlot, { image := some img, state := 1 } = y ∧ y.image = some img := ⟨_, rfl, rfl⟩
      obtain ⟨x, hver, hxi, hlo, hhi⟩ := State.verifySlot_result (s := s0.setSlot k y) (k := k) (p := slotUser s0 k) (img := img)
        (by rw [State.setSlot_slotOf_same, hyi])
      obtain ⟨t, ht⟩ : ∃ t, (s0.setSlot k y).setSlot k x = t := ⟨_, rfl⟩
      rw [ht] at hver
      have hslot : ∀ j, t.slotOf j = if j = k then x else s.slotOf j := fun j => by
        rw [← ht, State.setSlot_slotOf, State.setSlot_slotOf]
        split
        next => rfl
        next => rw [hframe]; rfl
      have hme : t.slotOf k = x := (hslot k).trans (if_pos rfl)
      have htf : t = { s0 with slots := t.slots } := by rw [← ht]; rfl
      have hctl : t.ctl = s0.ctl := by rw [htf]
      have hdo : doImageUpload k img s.asked = (t, x.status) := by
        refine (if_neg hk').trans ((if_neg (Nat.not_lt.2 hroom)).trans ((if_neg ?_).trans ?_))
        · rw [hbusy]
          cases busy with
          | nil => decide
          | cons p l =>
            obtain ⟨hp, hb, hc⟩ := (husers p).1 List.mem_cons_self
            exact absurd hb (by rw [hfree p hp hc]; decide)
        · dsimp only
          rw [husr, hs0, hy, hver, hme]
      have hresp : t.resp = {} := by rw [htf, hframe]; rfl
      have hex : exec (.imageUpload cl k img) s = .next { t with resp := answered x.status } :=
        congrArg Host.Outcome.next (by rw [State.command_served _ hs, hdo]; exact State.answer_cleared hresp)
      have hreloaded : ∀ p, p < 8 → s.cfg (0x2100 + p) 5 = k → (t.ctlOf p).reloaded = true := fun p hp hc => by
        have hmem : p ∈ users := by
          rw [← husr, mem_partsWhere, decide_eq_true_iff]
          exact ⟨hp, hc⟩
        unfold State.ctlOf
        rw [hctl]
        exact hrel p hmem
      refine ⟨_, hex, (congrArg ImageSlot.image hme).trans hxi, congrArg (fun z : ImageSlot => answered z.status) hme.symm, ?_, ?_, hreloaded,
        fun j hj => (hslot j).trans (if_neg hj), ?_⟩
      · exact (congrArg ImageSlot.state hme).symm ▸ hlo
      · exact (congrArg ImageSlot.state hme).symm ▸ hhi
      · rw [← hctl] at hframe
        exact congrArg (fun z : State => { z with resp := answered x.status })
          (htf.trans (congrArg (fun z : State => { z with slots := t.slots }) hframe))
    · exact (if_neg hk').trans (if_pos hfull)
    · refine (if_neg hk').trans ((if_neg (Nat.not_lt.2 hroom)).trans (if_pos ?_))
      rw [hbusy]
      obtain ⟨p, hp, hc, hb⟩ := hbusyEx
      cases busy with
      | nil => exact absurd ((husers p).2 ⟨hp, hb, hc⟩) List.not_mem_nil
      | cons => rfl

end Sys2Proof.Machine
end

section
/-! SUPPORT. The tide function: its start, stop and lock, and the join of a domain. -/

namespace Sys2Proof.Machine


/-! ### The partitions at rest -/

/-- No partition is busy exactly where every one is STOPPED. -/
theorem busyParts_eq_nil {s : State} : partsWhere (fun p => (s.part p).busy) = [] ↔ ∀ p, p < 8 → (s.part p).run = .stopped := by
  constructor
  · intro h p hp
    have hn : p ∉ partsWhere (fun p => (s.part p).busy) := by rw [h]; exact List.not_mem_nil
    rw [mem_partsWhere] at hn
    have hb : (s.part p).busy ≠ true := fun hb => hn ⟨hp, hb⟩
    simpa [Partition.busy] using hb
  · intro h
    refine List.eq_nil_iff_forall_not_mem.2 fun p hp => ?_
    obtain ⟨hlt, hb⟩ := mem_partsWhere.1 hp
    simp [Partition.busy, h p hlt] at hb

/-- Some partition is busy. -/
theorem busyParts_ne_nil {s : State} (h : ∃ p, p < 8 ∧ (s.part p).run ≠ .stopped) : partsWhere (fun p => (s.part p).busy) ≠ [] := fun he => by
  obtain ⟨p, hp, hrun⟩ := h
  exact hrun (busyParts_eq_nil.1 he p hp)

/-! ### The obligation -/

/-- An event after the tide's control took effect at a later time writes the log beside the tide and the clock. -/
theorem State.tideEvent_frame (s : State) (at' : Nat) (td : Tide) (sev code unit detail : Nat) :
    ∃ t, ({ s.advance at' with tide := td } : State).event sev code unit detail = t ∧ t.tide = td ∧ t.now = max s.now at' ∧ Logged s t sev code unit detail
      ∧ t = { s with tide := t.tide, now := t.now, rtc := t.rtc, log := t.log, hosts := t.hosts, sivar := t.sivar } := by
  obtain ⟨u, hu, hul, hum, huc, hut, hun, huf⟩ : ∃ u : State, ({ s.advance at' with tide := td } : State) = u ∧ u.log = s.log ∧ u.mc = s.mc
      ∧ u.cfg 0x8000 3 = s.cfg 0x8000 3 ∧ u.tide = td ∧ u.now = max s.now at' ∧ u = { s with tide := u.tide, now := u.now, rtc := u.rtc } :=
    ⟨_, rfl, rfl, rfl, rfl, rfl, rfl, rfl⟩
  have hlog := logged_event_of hul hum huc sev code unit detail
  have hef := u.event_frame sev code unit detail
  rw [hu]
  obtain ⟨t, ht⟩ : ∃ t, u.event sev code unit detail = t := ⟨_, rfl⟩
  rw [ht] at hlog hef
  have f1 : t.tide = u.tide := by rw [hef]
  have f2 : t.now = u.now := by rw [hef]
  have f3 : t.rtc = u.rtc := by rw [hef]
  refine ⟨t, ht, f1.trans hut, f2.trans hun, hlog, ?_⟩
  rw [f1, f2, f3]
  exact hef.trans (congrArg (fun y : State => { y with log := t.log, hosts := t.hosts, sivar := t.sivar }) huf)

/-- Settles O18. -/
theorem tideStartsLocksAndJoins : Obligations.TideStartsLocksAndJoins := by
  unfold Obligations.TideStartsLocksAndJoins
  refine ⟨?stop, ?start, ?lock, ?join⟩
  case stop =>
    intro s cl hs
    refine ⟨fun hrest => ?_, fun hbusy => ?_⟩
    · refine ⟨_, congrArg Host.Outcome.next (?_ : s.command cl false doTideStop
        = { s with tide := { s.tide with run := .stopped, joined := false, isRoot := false, lock := 0, sent := [] }, resp := answered stOk }),
        rfl, rfl, rfl⟩
      rw [State.command_served _ hs]
      unfold doTideStop
      rw [if_neg (by rw [(busyParts_eq_nil (s := s.asked)).2 hrest]; decide)]
      rfl
    · refine congrArg Host.Outcome.next ((State.command_served _ hs).trans ?_)
      unfold doTideStop
      rw [if_pos (bne_iff_ne.2 (busyParts_ne_nil (s := s.asked) hbusy))]
      rfl
  case start =>
    intro s cl hs
    refine ⟨fun hrun hstage => ?_, fun hrun => ?_⟩
    · have hfree : ¬ (s.asked.tide.run ≠ .stopped ∨ (s.asked.bring.active = true ∧ s.asked.bring.stage = 8)) := fun h =>
        h.elim (fun h => h hrun) hstage
      by_cases hd : s.cfg 0x4000 2 = 0
      · refine ⟨_, congrArg Host.Outcome.next (?_ : s.command cl false doTideStart
          = { s with tide := { s.tide with run := .running, lock := 0, joined := false, isRoot := false, startedAt := s.now },
                     resp := answered stOk }), rfl, rfl, (if_pos hd).symm, (if_pos hd).symm, ?_, rfl, rfl, rfl⟩
        · rw [State.command_served _ hs]
          unfold doTideStart
          rw [if_neg hfree, if_pos (show domainId s.asked = 0 from hd)]
          rfl
        · exact ⟨(by cases ·), fun h => absurd hd h.1⟩
      · refine ⟨_, congrArg Host.Outcome.next (?_ : s.command cl false doTideStart
          = { s with tide := { s.tide with run := .starting, lock := 1, startedAt := s.now, joined := namedRoot s, isRoot := namedRoot s,
                                           skewBad := 0, root := s.cfg 0x4000 3 },
                     resp := answered stOk }), rfl, rfl, (if_neg hd).symm, (if_neg hd).symm, ?_, rfl, rfl, rfl⟩
        · rw [State.command_served _ hs]
          unfold doTideStart
          rw [if_neg hfree, if_neg (show domainId s.asked ≠ 0 from hd)]
          rfl
        · exact ⟨fun h => ⟨hd, decide_eq_true_iff.1 h⟩, fun h => decide_eq_true h.2⟩
    · refine congrArg Host.Outcome.next ((State.command_served _ hs).trans ?_)
      unfold doTideStart
      rw [if_pos (Or.inl (show s.asked.tide.run ≠ .stopped from hrun))]
      rfl
  case lock =>
    intro s hrun
    have hr : ¬ s.tide.run ≠ .starting := fun h => h hrun
    refine ⟨fun hl => ?_, fun hroot hlock => ?_⟩
    · refine ⟨_, congrArg Host.Outcome.next ((if_neg hr).trans (if_pos ?_)), rfl, rfl⟩
      rw [Bool.or_eq_true, decide_eq_true_iff]
      exact hl
    · obtain ⟨l, hl⟩ : ∃ l, (if s.tide.lock = 3 then 3 else 0) = l := ⟨_, rfl⟩
      obtain ⟨td, htd, hrunning, hlk⟩ : ∃ td : Tide, { s.tide with run := .running, lock := l } = td ∧ td.run = .running ∧ td.lock = l :=
        ⟨_, rfl, rfl, rfl⟩
      obtain ⟨t, ht, h1, h2, h3, h4⟩ := s.tideEvent_frame (s.tide.startedAt + 10000000 * cyPerTick) td sevDegraded evTideState s.moduleNumber l
      have hex : exec .tideLock s = .next t := by
        refine congrArg Host.Outcome.next ((if_neg hr).trans ((if_neg ?_).trans ?_))
        · rw [hroot]
          simpa using hlock
        · rw [← ht, ← htd, ← hl]
          rfl
      refine ⟨t, hex, h2, (congrArg Tide.run h1).trans hrunning, ?_, ?_, h4⟩
      · rw [h1, hlk]
        exact hl.symm
      · rw [h1, hlk]
        exact h3
  case join =>
    intro s domain root rev tick hrun hjoin hdom hdom0 hroot
    have hadm : ¬ (s.tide.run = .stopped ∨ s.tide.joined = true ∨ domain ≠ domainId s ∨ domain = 0 ∨ root ≠ s.cfg 0x4000 3) := by
      rw [hjoin]
      rintro (h | h | h | h | h)
      · exact hrun h
      · cases h
      · exact h hdom
      · exact hdom0 h
      · exact h hroot
    refine ⟨fun hrest hrev => ?_, fun hbusy => ?_⟩
    · refine ⟨_, congrArg Host.Outcome.next ((if_neg hadm).trans ((if_neg ?_).trans (if_neg (fun h => h hrev)))), rfl, rfl, rfl, rfl, rfl, rfl⟩
      rw [busyParts_eq_nil.2 hrest]
      decide
    · exact ⟨_, congrArg Host.Outcome.next ((if_neg hadm).trans (if_pos (bne_iff_ne.2 (busyParts_ne_nil hbusy)))), rfl, rfl⟩

end Sys2Proof.Machine
end

section
/-! SUPPORT. Markers: what the sender announces, what the receiver takes from one, and the turn to the other upstream. -/

namespace Sys2Proof.Machine


/-! ### Markers that leave -/

/-- What a module decides before its markers leave: targets, notes and formats in the tide's control, the modes in its partitions' control,
and the journal; what the tide does now stands. -/
structure Announces (s t : State) : Prop where
  run : t.tide.run = s.tide.run
  stretch : t.tide.stretch = s.tide.stretch
  epoch : t.tide.epoch = s.tide.epoch
  frame : t = { s with tide := t.tide, ctl := t.ctl, mc := t.mc }

theorem Announces.refl (s : State) : Announces s s := ⟨rfl, rfl, rfl, rfl⟩

theorem Announces.trans {s t u : State} (h : Announces s t) (g : Announces t u) : Announces s u :=
  ⟨g.run.trans h.run, g.stretch.trans h.stretch, g.epoch.trans h.epoch,
    g.frame.trans (congrArg (fun y : State => { y with tide := u.tide, ctl := u.ctl, mc := u.mc }) h.frame)⟩

theorem foldl_announces {α : Type} {f : State → α → State} (hf : ∀ t a, Announces t (f t a)) (l : List α) (s : State) :
    Announces s (l.foldl f s) :=
  List.foldlRecOn (motive := Announces s) l f (Announces.refl s) fun _ ht a _ => ht.trans (hf _ a)

theorem State.announceStretch_announces (s : State) : Announces s s.announceStretch := by
  unfold State.announceStretch
  generalize (if s.tide.joined then largestRequest s else s.tide.ownRequest) = m
  dsimp only
  split
  next => exact Announces.refl s
  next => exact ⟨rfl, rfl, rfl, rfl⟩

theorem State.setCtl_announces (s : State) (p : Nat) (v : PartControl) : Announces s (s.setCtl p v) := ⟨rfl, rfl, rfl, rfl⟩

theorem State.announceModes_announces (s : State) : Announces s s.announceModes := by
  unfold State.announceModes
  split
  next => exact Announces.refl s
  next =>
    dsimp only
    refine Announces.trans ?_ (foldl_announces (fun u p => ?_) _ _)
    · exact ⟨rfl, rfl, rfl, rfl⟩
    · split
      next => exact Announces.refl u
      next => exact foldl_announces (fun w q => w.setCtl_announces q _) _ _

/-- The formats of foreign groups stand in the tide's control and in the journal alone. -/
structure FormatsOnly (s t : State) : Prop extends Announces s t where
  ctl : t.ctl = s.ctl
  target : t.tide.target = s.tide.target

theorem State.foreignFormat_only (s : State) (g layer : Nat) : FormatsOnly s (s.foreignFormat g layer) := by
  unfold State.foreignFormat
  dsimp only
  split
  next => exact ⟨Announces.refl s, rfl, rfl⟩
  next =>
    split
    next =>
      split_ifs
      · exact ⟨⟨rfl, rfl, rfl, rfl⟩, rfl, rfl⟩
      · exact ⟨Announces.refl s, rfl, rfl⟩
      · exact ⟨⟨rfl, rfl, rfl, rfl⟩, rfl, rfl⟩
    next => exact ⟨Announces.refl s, rfl, rfl⟩

theorem foldl_formatsOnly {α : Type} {f : State → α → State} (hf : ∀ t a, FormatsOnly t (f t a)) (l : List α) (s : State) :
    FormatsOnly s (l.foldl f s) :=
  List.foldlRecOn (motive := FormatsOnly s) l f ⟨Announces.refl s, rfl, rfl⟩ fun _ ht a _ =>
    ⟨ht.toAnnounces.trans (hf _ a).toAnnounces, (hf _ a).ctl.trans ht.ctl, (hf _ a).target.trans ht.target⟩

theorem State.foreignFormats_only (s : State) : FormatsOnly s s.foreignFormats := by
  unfold State.foreignFormats
  split
  next => exact ⟨Announces.refl s, rfl, rfl⟩
  next => exact foldl_formatsOnly (fun u g => foldl_formatsOnly (fun w l => w.foreignFormat_only g l) _ _) _ _

/-- A member that follows decides no stretch and no mode, and no format unless it stands by for the root. -/
theorem State.announces_nothing {s : State} (h : decidesTide s = false) : s.announceStretch.announceModes = s := by
  have h1 : s.announceStretch = s := by
    unfold State.announceStretch
    rw [h]
    rfl
  rw [h1]
  unfold State.announceModes
  rw [h]
  rfl

theorem State.foreignFormats_none {s : State} (h : decidesTide s = false) (hb : standsBy s = false) : s.foreignFormats = s := by
  have hr : s.tide.isRoot = false := by
    unfold decidesTide at h
    exact (Bool.or_eq_false_iff.1 h).2
  unfold State.foreignFormats
  rw [hr, hb]
  rfl

/-! ### Markers that arrive -/

/-- What a member steers by: the last marker of its upstream, and which upstream that is. -/
def State.steerView (s : State) : Nat × Option Marker × Bool × Tbl (List Byte) :=
  (s.tide.lastMarker, s.tide.heard, s.tide.upstreamSecondary, s.sivar.config)

@[simp] theorem foldl_steerView {α : Type} {f : State → α → State} (hf : ∀ t a, (f t a).steerView = t.steerView) (l : List α) (s : State) :
    (l.foldl f s).steerView = s.steerView :=
  List.foldlRecOn (motive := fun t => t.steerView = s.steerView) l f rfl fun t ht a _ => (hf t a).trans ht

@[simp] theorem State.event_steerView (s : State) (a b c d : Nat) : (s.event a b c d).steerView = s.steerView := by
  simp [State.steerView]

@[simp] theorem State.setCtl_steerView (s : State) (p : Nat) (v : PartControl) : (s.setCtl p v).steerView = s.steerView := by rfl
@[simp] theorem State.setPart_steerView (s : State) (p : Nat) (v : Partition) : (s.setPart p v).steerView = s.steerView := by rfl
@[simp] theorem State.setGov_steerView (s : State) (p : Nat) (v : Governor) : (s.setGov p v).steerView = s.steerView := by rfl
@[simp] theorem State.answer_steerView (s : State) (st : Nat) : (s.answer st).steerView = s.steerView := by rfl
@[simp] theorem State.journal_steerView (s : State) (k u e : Nat) : (s.journal k u e).steerView = s.steerView := by rfl

@[simp] theorem State.reportHandoff_steerView (s : State) (p r : Nat) (h : Bool) : (s.reportHandoff p r h).steerView = s.steerView := by rfl

@[simp] theorem State.handoffAnnounced_steerView (s : State) (p : Nat) (m w : BitVec 16) : (s.handoffAnnounced p m w).steerView = s.steerView := by
  unfold State.handoffAnnounced
  dsimp only
  split_ifs <;> simp

@[simp] theorem State.takeVariant_steerView (s : State) (p : Nat) (v : VariantNote) : (s.takeVariant p v).steerView = s.steerView := by
  unfold State.takeVariant
  dsimp only
  split
  next => simp
  next =>
    split
    next => rfl
    next r _ =>
      have h1 : ((s.handoffAnnounced p v.mask v.word).hearStash p r).steerView = s.steerView := by
        unfold State.hearStash
        split_ifs <;> simp
      split_ifs <;> simp [h1]

/-- What the root announces changes nothing that a member steers by. -/
theorem State.takeAnnouncements_steerView (s : State) (m : Marker) : (s.takeAnnouncements m).steerView = s.steerView := by
  unfold State.takeAnnouncements
  dsimp only
  refine (foldl_steerView (fun u g => ?_) _ _).trans ((foldl_steerView (fun u e => ?_) _ _).trans
    ((foldl_steerView (fun u e => ?_) _ _).trans ((foldl_steerView (fun u v => ?_) _ _).trans ?_)))
  · refine (foldl_steerView (fun w p => ?_) _ _).trans (by rfl)
    split <;> simp
  · refine foldl_steerView (fun w p => ?_) _ _
    split <;> simp
  · refine foldl_steerView (fun w p => ?_) _ _
    split <;> simp
  · split
    next => rfl
    next => exact (foldl_steerView (fun w p => w.takeVariant_steerView p v) _ _).trans (by rfl)
  · split
    next => split <;> rfl
    next => rfl

/-- A marker with no announcement but the stretch. -/
theorem State.takeAnnouncements_plain {s : State} {m : Marker} (hv : m.variants = []) (hm : m.modes = []) (hf : m.formats = [])
    (hr : m.relaunches = []) (hs : m.stretch = none) : s.takeAnnouncements m = s := by
  unfold State.takeAnnouncements
  rw [hv, hm, hf, hr, hs]
  rfl

/-- What a marker that steers leaves before its announcements are taken: the upstream is the port that it came by (R184). -/
def markerTaken (s : State) (port : Nat) (m : Marker) : State :=
  let isUp := decide (primaryUp s = some port) || decide (secondaryUp s = some port)
  let bad := decide (skewLimit * (256 + s.tide.stretch) < m.skewPs.natAbs * 256)
  { s with tide := { s.tide with
      reports := mergeReports s.moduleNumber s.tide.reports m.reports
      seen := if isUp then tset s.tide.seen port s.now else s.tide.seen
      lastAny := s.now
      upstreamSecondary := if isUp && decide (s.tide.lock = 3 ∨ s.tide.lock = 0) then decide (primaryUp s ≠ some port) else s.tide.upstreamSecondary
      lastMarker := s.now
      heard := some m
      root := m.root
      skewPs := m.skewPs
      skewBad := if bad then s.tide.skewBad + 1 else 0
      lock := if bad then s.tide.lock else if s.tide.lock = 0 then 1 else 2 } }

/-- A marker of the present epoch that comes by the upstream in use, or by one to which the member turns, is taken. -/
theorem execTideMarkerReceive_steers {s : State} {port : Nat} {m : Marker} (hp : port < 640) (hrun : s.tide.run ≠ .stopped)
    (hjoin : s.tide.joined = true) (hroot : s.tide.isRoot = false) (hup : (s.port port).up = true) (hep : m.epoch = s.tide.epoch)
    (hsteer : upstreamNow (markerTaken s port m) = some port) :
    exec (.tideMarkerReceive port m) s = .next ((markerTaken s port m).takeAnnouncements m) := by
  have hadm : ¬ (s.tide.run = .stopped ∨ (!s.tide.joined) = true ∨ (!((s.port port).up || (s.port port).hold)) = true ∨ m.epoch < s.tide.epoch) := by
    rw [hjoin, hup, hep]
    simp [hrun]
  refine (if_pos hp).trans (congrArg Host.Outcome.next ((if_neg hadm).trans ?_))
  obtain ⟨isUp, hisUp⟩ : ∃ b, (decide (primaryUp s = some port) || decide (secondaryUp s = some port)) = b := ⟨_, rfl⟩
  have hnew : decide (s.tide.epoch < m.epoch) = false := by rw [hep]; simp
  unfold markerTaken at hsteer ⊢
  dsimp only at hsteer ⊢
  rw [hisUp] at hsteer ⊢
  obtain ⟨turn, hturn⟩ : ∃ b, (isUp && decide (s.tide.lock = 3 ∨ s.tide.lock = 0)) = b := ⟨_, rfl⟩
  rw [hturn] at hsteer ⊢
  simp only [hnew, Bool.and_false, Bool.false_eq_true, if_false, if_pos (Or.inr hep : isUp = true ∨ m.epoch = s.tide.epoch)]
  cases turn with
  | true =>
    rw [if_pos rfl] at hsteer ⊢
    refine (if_neg ?_).trans rfl
    rw [Bool.or_eq_true, decide_eq_true_iff]
    rintro (h | h)
    · exact absurd (hroot.symm.trans h) (by decide)
    · exact h hsteer
  | false =>
    simp only [Bool.false_eq_true, if_false] at hsteer ⊢
    refine (if_neg ?_).trans rfl
    rw [Bool.or_eq_true, decide_eq_true_iff]
    rintro (h | h)
    · exact absurd (hroot.symm.trans h) (by decide)
    · exact h hsteer

/-- A marker that announces another stretch, and nothing else: the target and its start, journalled (R18, R181). -/
theorem State.takeAnnouncements_stretch {s : State} {m : Marker} {target at' : Nat} (hv : m.variants = []) (hm : m.modes = [])
    (hf : m.formats = []) (hr : m.relaunches = []) (hs : m.stretch = some (target, at')) (hne : target ≠ s.tide.target) :
    let t := s.takeAnnouncements m
    t.tide.target = target ∧ t.tide.rampFrom = at' ∧ t.tide.stretch = s.tide.stretch ∧ t = { s with tide := t.tide, mc := t.mc } := by
  unfold State.takeAnnouncements
  rw [hv, hm, hf, hr, hs]
  dsimp only
  rw [if_neg hne]
  exact ⟨rfl, rfl, rfl, rfl⟩

/-- After a marker is taken its port is the upstream in use: it was, or the member turned to it. -/
theorem upstreamNow_markerTaken {s : State} {port : Nat} (m : Marker)
    (h : upstreamNow s = some port ∨ ((primaryUp s = some port ∨ secondaryUp s = some port) ∧ (s.tide.lock = 3 ∨ s.tide.lock = 0))) :
    upstreamNow (markerTaken s port m) = some port := by
  have e : upstreamNow (markerTaken s port m) = if (if ((decide (primaryUp s = some port) || decide (secondaryUp s = some port))
      && decide (s.tide.lock = 3 ∨ s.tide.lock = 0)) = true then decide (primaryUp s ≠ some port) else s.tide.upstreamSecondary) = true
      then secondaryUp s else primaryUp s := rfl
  rw [e]
  by_cases hturn : (primaryUp s = some port ∨ secondaryUp s = some port) ∧ (s.tide.lock = 3 ∨ s.tide.lock = 0)
  · have ht : ((decide (primaryUp s = some port) || decide (secondaryUp s = some port)) && decide (s.tide.lock = 3 ∨ s.tide.lock = 0)) = true := by
      simpa using hturn
    rw [if_pos ht]
    by_cases hprim : primaryUp s = some port
    · rw [if_neg (by simpa using hprim), hprim]
    · rw [if_pos (by simpa using hprim)]
      exact hturn.1.resolve_left hprim
  · have ht : ¬ ((decide (primaryUp s = some port) || decide (secondaryUp s = some port)) && decide (s.tide.lock = 3 ∨ s.tide.lock = 0)) = true := by
      simpa using hturn
    rw [if_neg ht]
    exact h.resolve_right hturn

/-! ### The obligation -/

/-- The upstream that two states name is one where the configuration and the choice agree. -/
theorem upstreamNow_congr {s t : State} (hc : t.sivar.config = s.sivar.config) (hu : t.tide.upstreamSecondary = s.tide.upstreamSecondary) :
    upstreamNow t = upstreamNow s := by
  unfold upstreamNow primaryUp secondaryUp
  rw [hu, State.cfg_congr hc]

/-- Settles O19. -/
theorem markersSteerTheModule : Obligations.MarkersSteerTheModule := by
  unfold Obligations.MarkersSteerTheModule
  refine ⟨?send, ?take, ?turn, ?stretch, ?old, ?switch⟩
  case send =>
    intro s hrun s1
    obtain ⟨s0, h0, h0n, h0c, h0t, h0m, h0cf, h0f⟩ : ∃ u, s.advance (markerTick s * 1500) = u ∧ u.now = max s.now (markerTick s * 1500)
        ∧ u.ctl = s.ctl ∧ u.tide = s.tide ∧ u.mc = s.mc ∧ u.sivar = s.sivar ∧ u = { s with now := u.now, rtc := u.rtc } :=
      ⟨_, rfl, rfl, rfl, rfl, rfl, rfl, rfl⟩
    have hann : Announces s0 s0.announceStretch.announceModes := s0.announceStretch_announces.trans s0.announceStretch.announceModes_announces
    have hfo := s0.announceStretch.announceModes.foreignFormats_only
    obtain ⟨u, hu, hs1⟩ : ∃ u, s0.announceStretch.announceModes.foreignFormats = u ∧ s1 = u := ⟨_, rfl, by rw [← h0]⟩
    have hall : Announces s0 u := hu ▸ hann.trans hfo.toAnnounces
    have hdec : decidesTide s0 = false → decidesTide s = false := fun h => by rw [← h]; unfold decidesTide; rw [h0t]
    have hdec' : decidesTide s = false → decidesTide s0 = false := fun h => by rw [← h]; unfold decidesTide; rw [h0t]
    have hrest : decidesTide s = false → u.ctl = s.ctl ∧ u.tide.target = s.tide.target ∧ (standsBy s = false → u.mc = s.mc) := fun h => by
      rw [State.announces_nothing (hdec' h)] at hfo hu
      rw [hu] at hfo
      refine ⟨hfo.ctl.trans h0c, hfo.target.trans (by rw [h0t]), fun hb => ?_⟩
      have hb0 : standsBy s0 = false := by rw [← hb]; unfold standsBy State.cfg State.moduleNumber State.cfg; rw [h0cf]
      rw [← hu, State.foreignFormats_none (hdec' h) hb0, h0m]
    have hrunu : u.tide.run ≠ .stopped := by rw [hall.run, h0t]; exact hrun
    obtain ⟨td, htd, hsent, hrel, hstretch, hepoch, htarget⟩ : ∃ td : Tide, { u.tide with
          sent := (markerPorts u).map (fun i => (i, markerNow u))
          relaunches := u.tide.relaunches.filter (fun g => decide (tickOf u.now < g.tick)) } = td
        ∧ td.sent = (markerPorts u).map (fun i => (i, markerNow u)) ∧ (∀ g ∈ td.relaunches, u.now / 1500 < g.tick)
        ∧ td.stretch = u.tide.stretch ∧ td.epoch = u.tide.epoch ∧ td.target = u.tide.target :=
      ⟨_, rfl, rfl, fun g hg => of_decide_eq_true (List.mem_filter.1 hg).2, rfl, rfl, rfl⟩
    have hex : exec .tideMarkerSend s = .next { u with tide := td } := by
      refine congrArg Host.Outcome.next ?_
      have e : (((s.advance (markerTick s * cyPerTick)).announceStretch).announceModes).foreignFormats = u := hs1
      dsimp only
      rw [e, if_neg hrunu, htd]
    have hnow : u.now = s0.now := by rw [hall.frame]
    rw [hs1]
    refine ⟨_, hex, hnow.trans h0n, hsent, hrel, hstretch.trans (hall.stretch.trans (by rw [h0t])), hepoch.trans (hall.epoch.trans (by rw [h0t])),
      fun h => ?_, ?_⟩
    · obtain ⟨h1, h2, h3⟩ := hrest h
      exact ⟨h1, htarget.trans h2, h3⟩
    · have hrtc : u.rtc = s0.rtc := by rw [hall.frame]
      have := hall.frame.trans (congrArg (fun y : State => { y with tide := u.tide, ctl := u.ctl, mc := u.mc }) h0f)
      rw [← hnow, ← hrtc] at this
      exact congrArg (fun y : State => { y with tide := td }) this
  case take =>
    intro s port m hp hrun hjoin hroot hup hep hsteer hstr hv hm hf hr
    have hkeep := upstreamNow_markerTaken m (.inl hsteer)
    refine ⟨_, (execTideMarkerReceive_steers hp hrun hjoin hroot hup hep hkeep).trans (congrArg Host.Outcome.next
      (State.takeAnnouncements_plain hv hm hf hr hstr)), rfl, rfl, rfl, ?_, ?_, rfl, rfl, rfl⟩
    · show (if decide (_ < _) = true then _ else _) = if _ then _ else _
      simp only [decide_eq_true_eq]
      rfl
    · show (if decide (_ < _) = true then _ else _) = if _ then _ else _
      simp only [decide_eq_true_eq]
      rfl
  case turn =>
    intro s port m hp hrun hjoin hroot hup hep hport hlock
    have hkeep := upstreamNow_markerTaken m (.inr ⟨hport, hlock⟩)
    have hview := (markerTaken s port m).takeAnnouncements_steerView m
    have hex := execTideMarkerReceive_steers hp hrun hjoin hroot hup hep hkeep
    simp only [State.steerView, Prod.mk.injEq] at hview
    obtain ⟨h1, h2, h3, h4⟩ := hview
    exact ⟨_, hex, h1.trans rfl, h2.trans rfl, (upstreamNow_congr h4 h3).trans hkeep⟩
  case stretch =>
    intro s port m target at' hp hrun hjoin hroot hup hep hsteer hstr hne hv hm hf hr
    have hkeep := upstreamNow_markerTaken m (.inl hsteer)
    obtain ⟨h1, h2, h3, h4⟩ := State.takeAnnouncements_stretch (s := markerTaken s port m) hv hm hf hr hstr hne
    exact ⟨_, execTideMarkerReceive_steers hp hrun hjoin hroot hup hep hkeep, h1, h2, h3.trans rfl, h4⟩
  case old =>
    intro s port m hp hep
    exact (if_pos hp).trans (congrArg Host.Outcome.next (if_pos (.inr (.inr (.inr hep)))))
  case switch =>
    intro s hfol hl0 hl3 other at'
    have hadm : ¬ ((!follows s || decide (s.tide.lock = 0 ∨ s.tide.lock = 3)) = true) := by
      rw [hfol]
      simpa using ⟨hl0, hl3⟩
    refine ⟨fun i hi hup => ?_, fun hnone => ?_⟩
    · obtain ⟨a, ha, han, hat, haf⟩ : ∃ a, s.advance ((tickOf s.tide.lastMarker + 3) * cyPerTick) = a ∧ a.now = at' ∧ a.tide = s.tide
          ∧ a = { s with now := a.now, rtc := a.rtc } := ⟨_, rfl, rfl, rfl, rfl⟩
      obtain ⟨td, htd, hsec, hlock, hlast⟩ : ∃ td : Tide,
          { a.tide with upstreamSecondary := !s.tide.upstreamSecondary, lastMarker := a.now } = td
          ∧ td.upstreamSecondary = !s.tide.upstreamSecondary ∧ td.lock = a.tide.lock ∧ td.lastMarker = a.now := ⟨_, rfl, rfl, rfl, rfl⟩
      have hex : exec .upstreamSwitch s = .next { a with tide := td } := by
        refine congrArg Host.Outcome.next ((if_neg hadm).trans ?_)
        have hi' : (if s.tide.upstreamSecondary then primaryUp s else secondaryUp s) = some i := hi
        dsimp only
        rw [ha, hi']
        dsimp only
        rw [if_pos (by rw [han]; exact hup), htd]
      exact ⟨_, hex, hsec, hlock.trans (by rw [hat]), hlast, han, congrArg (fun y : State => { y with tide := td }) haf⟩
    · obtain ⟨td, htd, hlock, hsince⟩ : ∃ td : Tide, { s.tide with lock := 3, holdoverSince := at' } = td ∧ td.lock = 3
          ∧ td.holdoverSince = at' := ⟨_, rfl, rfl, rfl⟩
      obtain ⟨t, ht, h1, h2, h3, h4⟩ := s.tideEvent_frame ((tickOf s.tide.lastMarker + 3) * cyPerTick) td sevDegraded evTideState s.moduleNumber 3
      have hex : exec .upstreamSwitch s = .next t := by
        refine congrArg Host.Outcome.next ((if_neg hadm).trans ?_)
        rw [← ht, ← htd]
        obtain ⟨o, ho, ho'⟩ : ∃ o, (if s.tide.upstreamSecondary then primaryUp s else secondaryUp s) = o ∧ other = o := ⟨_, rfl, rfl⟩
        rw [ho'] at hnone
        dsimp only
        rw [ho]
        cases o with
        | none => rfl
        | some i =>
          dsimp only
          rw [if_neg (by
            have := hnone i rfl
            show ¬ upstreamPresent s i at' = true
            rw [this]
            decide)]
          rfl
      exact ⟨t, hex, (congrArg Tide.lock h1).trans hlock, (congrArg Tide.holdoverSince h1).trans (hsince.trans h2.symm), h2, h3, h4⟩

end Sys2Proof.Machine
end

section
/-! SUPPORT. Free run, takeover and stretch ramps, the real-time clock, and the rows of timed links. -/

namespace Sys2Proof.Machine


/-! ### The rounding of times -/

theorem le_ceilDiv_mul (a : Nat) {b : Nat} (hb : 0 < b) : a ≤ ceilDiv a b * b := by
  have h := Nat.div_add_mod (a + b - 1) b
  have hm := Nat.mod_lt (a + b - 1) hb
  have : ceilDiv a b * b = b * ((a + b - 1) / b) := Nat.mul_comm ..
  omega

/-! ### The stretch ramp -/

/-- As a ramp starts the partitions note its target and the journal its end; nothing else changes. -/
theorem State.listStretch_frame (s : State) :
    s.listStretch = { s with ctl := s.listStretch.ctl, mc := s.listStretch.mc } := by
  unfold State.listStretch
  split
  next =>
    have hfold : ∀ l : List Nat, ∃ ct : Tbl PartControl,
        l.foldl (fun (u : State) p => u.decided p jThermal 0 s.tide.target s.thermal.request) s = { s with ctl := ct } := fun l =>
      List.foldlRecOn (motive := fun (u : State) => ∃ ct : Tbl PartControl, u = ({ s with ctl := ct } : State)) l _ ⟨s.ctl, rfl⟩
        fun u hu p _ => by
          obtain ⟨ct, rfl⟩ := hu
          exact ⟨_, rfl⟩
    obtain ⟨ct, hct⟩ := hfold (partsWhere (fun p => (s.part p).marks))
    rw [hct]
    rfl
  next => rfl

/-! ### Timed rows -/

/-- At its release a row of a timed link that the image names is admitted like any remote row where it is complete, and a link overrun of
the partition where it is not (R186). -/
theorem execTimedRowRelease_at {s : State} {p port sent c sm sc : Nat} {tag : TransferTag} {row : Nat} {complete : Bool} {data : Row}
    {img : Image} {link : Nat × Nat × Nat} (hc : coreExists s c = true) (hp : p < 8) (hm : (s.part p).marks = true)
    (he : (s.part p).elastic = false) (hpc : s.partOfCore c = some p) (himg : (s.part p).image = some img)
    (hfind : img.links.find? (fun (e : Nat × Nat × Nat) => fabricPort e.1 e.2.1 == port) = some link) :
    exec (.timedRowRelease p port sent c sm sc tag row complete data) s
      = .next (if complete then (s.advance (sent + link.2.2)).rowArrives c (sm, sc, tag.ch, tag.tag) row data
          else (s.advance (sent + link.2.2)).addFault p (.overrun 3 port false)) := by
  refine (onCore_exists _ hc).trans (congrArg Host.Outcome.next ?_)
  dsimp only
  rw [if_neg (by rw [hm, he, hpc]; simp; omega), himg]
  dsimp only
  rw [hfind]

/-! ### The obligation -/

/-- Settles O20. -/
theorem freeRunClocksAndTimedRows : Obligations.FreeRunClocksAndTimedRows := by
  unfold Obligations.FreeRunClocksAndTimedRows
  refine ⟨?free, ?takeover, ?ramp, ?sync, ?lost, ?tick, ?timed⟩
  case free =>
    intro s hfol hl0 hcause
    have hadm : ¬ ((!follows s || !(decide (s.tide.lock = 3) || decide (4 ≤ s.tide.skewBad)) || decide (s.tide.lock = 0)) = true) := by
      rw [hfol]
      simpa [hl0] using or_iff_not_imp_left.1 hcause
    obtain ⟨td, htd⟩ : ∃ td : Tide, { s.tide with lock := 0, skewBad := 0 } = td := ⟨_, rfl⟩
    obtain ⟨a, ha, han, hat, haf⟩ : ∃ a, (if 4 ≤ s.tide.skewBad then s else s.advance (s.tide.holdoverSince + 1000 * cyPerTick)) = a
        ∧ a.now = (if 4 ≤ s.tide.skewBad then s.now else max s.now (s.tide.holdoverSince + 1500000)) ∧ a.tide = s.tide
        ∧ a = { s with now := a.now, rtc := a.rtc } := by
      refine ⟨_, rfl, ?_, ?_, ?_⟩
      · split <;> rfl
      · split <;> rfl
      · split <;> rfl
    obtain ⟨b, hb, hbt, hbn, hbr, hbf⟩ : ∃ b : State, { a with tide := td } = b ∧ b.tide = td ∧ b.now = a.now ∧ b.rtc = a.rtc
        ∧ b = { a with tide := td } := ⟨_, rfl, rfl, rfl, rfl, rfl⟩
    have hbs : b = { s with tide := td, now := a.now, rtc := a.rtc } := hbf.trans (congrArg (fun y : State => { y with tide := td }) haf)
    have hlog := logged_event_of (s := s) (u := b) (by rw [hbs]) (by rw [hbs]) (by rw [hbs]; rfl) sevDegraded evTideState s.moduleNumber 0
    have hef := b.event_frame sevDegraded evTideState s.moduleNumber 0
    obtain ⟨u, hu⟩ : ∃ u, b.event sevDegraded evTideState s.moduleNumber 0 = u := ⟨_, rfl⟩
    rw [hu] at hlog hef
    have hadd := u.addFaults_added (holdsTimed b) .tideFree
    have hframe := u.addFaults_frame (partsWhere (holdsTimed b)) .tideFree
    obtain ⟨t, ht⟩ : ∃ t, u.addFaults (partsWhere (holdsTimed b)) .tideFree = t := ⟨_, rfl⟩
    rw [ht] at hadd hframe
    have hex : exec .freeEntry s = .next t := by
      refine congrArg Host.Outcome.next ((if_neg hadm).trans ?_)
      dsimp only
      rw [ha, hat, htd, hb, hu, ht]
    have huf : u = { s with tide := td, now := a.now, rtc := a.rtc, log := u.log, hosts := u.hosts, sivar := u.sivar } :=
      hef.trans (congrArg (fun y : State => { y with log := u.log, hosts := u.hosts, sivar := u.sivar }) hbs)
    have htf : t = { s with tide := td, now := a.now, rtc := a.rtc, log := u.log, hosts := u.hosts, sivar := u.sivar, ctl := t.ctl } :=
      hframe.trans (congrArg (fun y : State => { y with ctl := t.ctl }) huf)
    have hholds : holdsTimed b = holdsTimed s := by rw [hbs]; rfl
    refine ⟨t, hex, ?_, ?_, ?_, ?_, ?_⟩
    · exact (congrArg State.now htf).trans han
    · exact (congrArg State.tide htf).trans htd.symm
    · rw [hholds] at hadd
      have huctl : u.ctl = s.ctl := (congrArg State.ctl huf).trans rfl
      have hupart : u.parts = s.parts := (congrArg State.parts huf).trans rfl
      exact hadd.congr (fun p => by unfold State.part; rw [hupart]) (fun p => by unfold State.ctlOf; rw [huctl]) (fun p => rfl)
    · have hl : t.log = u.log := (congrArg State.log htf).trans rfl
      unfold Logged at hlog ⊢
      rw [hl]
      exact hlog
    · have e1 : t.tide = td := (congrArg State.tide htf).trans rfl
      have e2 : t.now = a.now := (congrArg State.now htf).trans rfl
      have e3 : t.rtc = a.rtc := (congrArg State.rtc htf).trans rfl
      have e4 : t.log = u.log := (congrArg State.log htf).trans rfl
      have e5 : t.hosts = u.hosts := (congrArg State.hosts htf).trans rfl
      have e6 : t.sivar = u.sivar := (congrArg State.sivar htf).trans rfl
      rw [← e1, ← e2, ← e3, ← e4, ← e5, ← e6] at htf
      exact htf
  case takeover =>
    intro s hfol hroot
    have hadm : ¬ ((!follows s || decide (s.cfg 0x4000 0x0D ≠ s.moduleNumber)) = true) := by
      rw [hfol]
      simpa using hroot
    obtain ⟨td, htd⟩ : ∃ td : Tide, { s.tide with epoch := (s.tide.epoch + 1) % 65536, isRoot := true, root := s.moduleNumber } = td := ⟨_, rfl⟩
    obtain ⟨t, ht, h1, h2, h3, h4⟩ := s.tideEvent_frame ((tickOf s.tide.lastAny + 5) * cyPerTick) td sevDegraded evTideState s.moduleNumber 0x10
    have hex : exec .rootTakeover s = .next t := by
      refine congrArg Host.Outcome.next ((if_neg hadm).trans ?_)
      rw [← ht, ← htd]
      rfl
    exact ⟨t, hex, h2, h1.trans htd.symm, h3, h4⟩
  case ramp =>
    intro s hne
    obtain ⟨n, hn⟩ : ∃ n, (if s.tide.stretch < s.tide.target then s.tide.stretch + 1 else s.tide.stretch - 1) = n := ⟨_, rfl⟩
    obtain ⟨a, ha, han, hat, haf⟩ : ∃ a, s.advance (s.tide.rampFrom * cyPerTick) = a ∧ a.now = max s.now (s.tide.rampFrom * 1500)
        ∧ a.tide = s.tide ∧ a = { s with now := a.now, rtc := a.rtc } := ⟨_, rfl, rfl, rfl, rfl⟩
    have hlf := a.listStretch_frame
    obtain ⟨b, hb⟩ : ∃ b, a.listStretch = b := ⟨_, rfl⟩
    rw [hb] at hlf
    have hbt : b.tide = s.tide := (congrArg State.tide hlf).trans hat
    obtain ⟨td, htd, htds, htdt, htdr⟩ : ∃ td : Tide, { b.tide with stretch := n, rampFrom := b.tide.rampFrom + 1 } = td ∧ td.stretch = n
        ∧ td.target = b.tide.target ∧ td.rampFrom = b.tide.rampFrom + 1 := ⟨_, rfl, rfl, rfl, rfl⟩
    obtain ⟨c, hc, hct, hcf⟩ : ∃ c : State, { b with tide := td } = c ∧ c.tide = td ∧ c = { b with tide := td } := ⟨_, rfl, rfl, rfl⟩
    obtain ⟨t, ht, htf⟩ : ∃ t, (if n = s.tide.target then c.event (if n = 0 then sevInfo else sevDegraded) evStretch s.moduleNumber n else c) = t
        ∧ t = { c with log := t.log, hosts := t.hosts, sivar := t.sivar } := by
      refine ⟨_, rfl, ?_⟩
      split
      next => exact c.event_frame ..
      next => rfl
    have hex : exec .stretchRampStep s = .next t := by
      refine congrArg Host.Outcome.next ((if_neg hne).trans ?_)
      dsimp only
      rw [ha, hb, hn, htd, hc, ht]
    have hall : t = { s with now := a.now, rtc := a.rtc, ctl := b.ctl, mc := b.mc, tide := td, log := t.log, hosts := t.hosts, sivar := t.sivar } :=
      htf.trans (congrArg (fun y : State => { y with log := t.log, hosts := t.hosts, sivar := t.sivar })
        (hcf.trans (congrArg (fun y : State => { y with tide := td })
          (hlf.trans (congrArg (fun y : State => { y with ctl := b.ctl, mc := b.mc }) haf)))))
    have e1 : t.tide = td := (congrArg State.tide hall).trans rfl
    have e2 : t.now = a.now := (congrArg State.now hall).trans rfl
    have e3 : t.rtc = a.rtc := (congrArg State.rtc hall).trans rfl
    have e4 : t.ctl = b.ctl := (congrArg State.ctl hall).trans rfl
    have e5 : t.mc = b.mc := (congrArg State.mc hall).trans rfl
    refine ⟨t, hex, e2.trans han, by rw [e1, htds]; exact hn.symm, by rw [e1, htdt, hbt], by rw [e1, htdr, hbt], ?_⟩
    rw [← e1, ← e2, ← e3, ← e4, ← e5] at hall
    exact hall
  case sync =>
    intro s utc
    refine ⟨_, rfl, ?_, rfl, rfl⟩
    exact (if_pos rfl).trans (Nat.mul_div_cancel utc (by decide))
  case lost => exact fun s => ⟨_, rfl, rfl, rfl⟩
  case tick =>
    intro s hv
    obtain ⟨next, hnext⟩ : ∃ n, (s.rtc.units / unitsPerSecond + 1) * unitsPerSecond = n := ⟨_, rfl⟩
    obtain ⟨cy, hcy⟩ : ∃ n, ceilDiv (next - s.rtc.units) (256 + s.tide.stretch) = n := ⟨_, rfl⟩
    obtain ⟨at', hat⟩ : ∃ n, ceilDiv (s.now + cy) cyPerTick * cyPerTick = n := ⟨_, rfl⟩
    have hlow : s.now + cy ≤ at' := hat ▸ le_ceilDiv_mul _ (by decide)
    have hreach : next - s.rtc.units ≤ cy * (256 + s.tide.stretch) := hcy ▸ le_ceilDiv_mul _ (by omega)
    have hgo : next ≤ s.rtc.units + (at' - s.now) * (256 + s.tide.stretch) := by
      have : cy * (256 + s.tide.stretch) ≤ (at' - s.now) * (256 + s.tide.stretch) := Nat.mul_le_mul_right _ (by omega)
      omega
    obtain ⟨a, ha, han, hau, haf⟩ : ∃ a, s.advance at' = a ∧ a.now = max s.now at' ∧ a.rtc.units = s.rtc.units + (at' - s.now) * (256 + s.tide.stretch)
        ∧ a = { s with now := a.now, rtc := a.rtc } := ⟨_, rfl, rfl, rfl, rfl⟩
    have hptp : a.rtc.ptp = s.rtc.ptp := by rw [← ha]; rfl
    have hnow : a.now = at' := han.trans (Nat.max_eq_right (by omega))
    obtain ⟨r, hr, hrt, hru, hrs, hrn⟩ : ∃ r : Rtc, { a.rtc with refTick := tickOf a.now, refUtc := a.utc, refSource := if a.rtc.ptp then 2 else 1 } = r
        ∧ r.refTick = tickOf a.now ∧ r.refUtc = ({ a with rtc := r } : State).utc ∧ r.refSource = (if a.rtc.ptp then 2 else 1)
        ∧ r.units = a.rtc.units := ⟨_, rfl, rfl, rfl, rfl, rfl⟩
    have hex : exec .referenceTick s = .next { a with rtc := r } := by
      refine congrArg Host.Outcome.next ((if_neg ?_).trans ?_)
      · rw [hv]; decide
      · dsimp only
        rw [hnext, hcy, hat, ha, hr]
    refine ⟨_, hex, ?_, hrt, hru, ?_, ?_, congrArg (fun y : State => { y with rtc := r }) haf⟩
    · show a.now % 1500 = 0
      rw [hnow, ← hat]
      exact Nat.mul_mod_left _ _
    · show s.rtc.units / 384000000000 + 1 ≤ r.units / 384000000000
      rw [hrn, hau]
      refine (Nat.le_div_iff_mul_le (by decide)).2 (le_trans (le_of_eq ?_) hgo)
      exact hnext
    · exact hrs.trans (by rw [hptp])
  case timed =>
    rintro s p port sent c sm sc ch tag row data link hc hp hm he hpc ⟨img, himg, hfind⟩
    obtain ⟨a, ha, han, hafr⟩ : ∃ a, s.advance (sent + link.2.2) = a ∧ a.now = max s.now (sent + link.2.2)
        ∧ a = { s with now := a.now, rtc := a.rtc } := ⟨_, rfl, rfl, rfl⟩
    have hexec := fun b => execTimedRowRelease_at (port := port) (sent := sent) (sm := sm) (sc := sc) (tag := ⟨ch, tag⟩) (row := row)
      (complete := b) (data := data) hc hp hm he hpc himg hfind
    rw [ha] at hexec ⊢
    have hca : coreExists a c = true := by rw [hafr]; exact hc
    have harr : exec (.timedRowRelease p port sent c sm sc ⟨ch, tag⟩ row true data) s = exec (.remoteRowArrival c sm sc ⟨ch, tag⟩ row data) a :=
      ((hexec true).trans (congrArg Host.Outcome.next (if_pos rfl))).trans (onCore_exists _ hca).symm
    refine ⟨harr, ?_, fun w hans htake hlen hwait => ?_⟩
    · have hlive : (a.part p).live = true := by
        have : (s.part p).live = true := by
          simp only [Partition.marks, Bool.or_eq_true, decide_eq_true_eq] at hm
          rcases hm with h | h <;> simp [Partition.live, h]
        rw [hafr]
        exact this
      have hfault := fun q => a.addFault_faults p q (.overrun 3 port false)
      have hother : ∀ q, q ≠ p → (a.addFault p (.overrun 3 port false)).ctlOf q = s.ctlOf q := fun q hq => by
        unfold State.addFault
        rw [if_pos hlive, State.setCtl_ctlOf_ne _ _ _ _ hq, hafr]
        rfl
      have hframe := a.addFault_frame p (.overrun 3 port false)
      have hctl : a.ctlOf p = s.ctlOf p := by rw [hafr]; rfl
      obtain ⟨t, ht⟩ : ∃ t, a.addFault p (.overrun 3 port false) = t := ⟨_, rfl⟩
      have hex := hexec false
      rw [if_neg (by decide), ht] at hex
      rw [ht] at hfault hframe hother
      have hall := hframe.trans (congrArg (fun y : State => { y with ctl := t.ctl }) hafr)
      have e1 : t.now = a.now := (congrArg State.now hall).trans rfl
      have e2 : t.rtc = a.rtc := (congrArg State.rtc hall).trans rfl
      refine ⟨t, hex, e1.trans han, (congrArg State.pad hall).trans rfl, ?_, hother, ?_⟩
      · rw [hfault p, if_pos ⟨rfl, hlive⟩, hctl]
      · rw [← e1, ← e2] at hall
        exact hall
    · have hcore : ∀ j, a.core j = s.core j := fun j => by rw [hafr]; rfl
      have hansa : answers a c = true := by rw [← hans, hafr]; rfl
      obtain ⟨t, hex, hpad, hleft, -, -, hnet, hwin, hcores, hhealth, htf⟩ :=
        (windowsAdmitRowsAndLoad.1 a c sm sc ch tag row data w hca hansa (by rw [hcore]; exact htake) hlen).2 hwait
      have hresp : responsePacket a c sm sc 3 3 ch tag none = responsePacket s c sm sc 3 3 ch tag none := by rw [hafr]; rfl
      have hall := htf.trans (congrArg (fun y : State => { y with cores := t.cores, health := t.health, pad := t.pad, marks := t.marks
                                                                  net := t.net, transit := t.transit }) hafr)
      have e1 : t.now = a.now := (congrArg State.now hall).trans rfl
      have e2 : t.rtc = a.rtc := (congrArg State.rtc hall).trans rfl
      rw [hcore] at hleft hwin
      refine ⟨t, harr.trans hex, e1.trans han, ?_, hleft, ?_, hwin, ?_, ?_, ?_⟩
      · rw [hafr] at hpad; exact hpad
      · rw [hnet, hresp, hafr]
      · rw [hafr] at hcores; exact hcores
      · rw [hafr] at hhealth; exact hhealth
      · rw [← e1, ← e2] at hall
        exact hall

end Sys2Proof.Machine
end

section
/-! SUPPORT. The tensor table: where a record is placed, what a deletion frees, and the pins. -/

namespace Sys2Proof.Machine


/-! ### The bytes of a record -/

/-- What `recPut` writes: the bytes below and above stand, and the field is the value. -/
theorem recPut_toNat (r : BitVec 512) {lo n : Nat} (v : Nat) (h : lo + n ≤ 64) :
    (recPut r lo n v).toNat = r.toNat % 256 ^ lo + 256 ^ lo * (v % 256 ^ n + 256 ^ n * (r.toNat / 256 ^ lo / 256 ^ n)) := by
  obtain ⟨K, hK, hKpos⟩ : ∃ K, 256 ^ lo = K ∧ 0 < K := ⟨_, rfl, by positivity⟩
  obtain ⟨N, hN, hNpos⟩ : ∃ N, 256 ^ n = N ∧ 0 < N := ⟨_, rfl, by positivity⟩
  obtain ⟨x, hx, hlt⟩ : ∃ x, r.toNat = x ∧ x < 2 ^ 512 := ⟨_, rfl, r.isLt⟩
  unfold recPut recAt
  rw [BitVec.toNat_ofNat, hK, hN, hx]
  obtain ⟨w, hw, hwlt⟩ : ∃ w, v % N = w ∧ w < N := ⟨_, rfl, Nat.mod_lt _ hNpos⟩
  rw [hw]
  have h1 := Nat.div_add_mod x K
  have h2 := Nat.div_add_mod (x / K) N
  have ha : x % K < K := Nat.mod_lt _ hKpos
  have hm : x / K % N < N := Nat.mod_lt _ hNpos
  obtain ⟨a, hadef⟩ : ∃ a, x % K = a := ⟨_, rfl⟩
  obtain ⟨m, hmdef⟩ : ∃ m, x / K % N = m := ⟨_, rfl⟩
  obtain ⟨b, hbdef⟩ : ∃ b, x / K / N = b := ⟨_, rfl⟩
  rw [hmdef, hbdef] at h2
  rw [hadef, ← h2] at h1
  rw [hadef] at ha ⊢
  rw [hmdef] at hm ⊢
  rw [hbdef]
  have hexp : K * (N * b + m) = K * (N * b) + K * m := Nat.mul_add ..
  have hexp' : K * (w + N * b) = K * w + K * (N * b) := Nat.mul_add ..
  have hcm : m * K = K * m := Nat.mul_comm ..
  have hcw : w * K = K * w := Nat.mul_comm ..
  have heq : x + w * K - m * K = a + K * (w + N * b) := by omega
  rw [heq]
  refine Nat.mod_eq_of_lt ?_
  have hKN : K * N ∣ 2 ^ 512 := by
    rw [← hK, ← hN, ← pow_add]
    exact (pow_dvd_pow 256 h).trans (dvd_of_eq (by rw [show (256 : Nat) = 2 ^ 8 from rfl, ← pow_mul]))
  obtain ⟨q, hq⟩ := hKN
  have hbq : b < q := by
    by_contra hge
    have h3 : K * N * q ≤ K * N * b := Nat.mul_le_mul_left _ (by omega)
    have h4 : K * N * b = K * (N * b) := Nat.mul_assoc ..
    omega
  have h5 : K * (N * (b + 1)) ≤ K * (N * q) := Nat.mul_le_mul_left _ (Nat.mul_le_mul_left _ hbq)
  have h6 : K * (N * (b + 1)) = K * (N * b) + K * N := by ring
  have h7 : K * (w + 1) ≤ K * N := Nat.mul_le_mul_left _ hwlt
  have h8 : K * (w + 1) = K * w + K := by ring
  have h9 : K * N * q = K * (N * q) := Nat.mul_assoc ..
  omega

theorem recAt_recPut_same (r : BitVec 512) {lo n : Nat} (v : Nat) (h : lo + n ≤ 64) : recAt (recPut r lo n v) lo n = v % 256 ^ n := by
  have hK : 0 < 256 ^ lo := by positivity
  unfold recAt
  rw [recPut_toNat r v h, Nat.add_mul_div_left _ _ hK, Nat.div_eq_of_lt (Nat.mod_lt _ hK), Nat.zero_add, Nat.add_mul_mod_self_left,
    Nat.mod_mod]

theorem recAt_recPut_below (r : BitVec 512) {lo n lo' n' : Nat} (v : Nat) (h : lo + n ≤ 64) (hb : lo' + n' ≤ lo) :
    recAt (recPut r lo n v) lo' n' = recAt r lo' n' := by
  have hdvd : 256 ^ lo' * 256 ^ n' ∣ 256 ^ lo := by rw [← pow_add]; exact pow_dvd_pow 256 hb
  have hmod : (recPut r lo n v).toNat % 256 ^ lo = r.toNat % 256 ^ lo := by
    rw [recPut_toNat r v h, Nat.add_mul_mod_self_left, Nat.mod_mod]
  unfold recAt
  rw [← Nat.mod_mul_right_div_self, ← Nat.mod_mul_right_div_self, ← Nat.mod_mod_of_dvd _ hdvd, hmod, Nat.mod_mod_of_dvd _ hdvd]

theorem recAt_recPut_above (r : BitVec 512) {lo n lo' n' : Nat} (v : Nat) (h : lo + n ≤ 64) (ha : lo + n ≤ lo') :
    recAt (recPut r lo n v) lo' n' = recAt r lo' n' := by
  have hK : 0 < 256 ^ lo := by positivity
  have hN : 0 < 256 ^ n := by positivity
  have hdiv : (recPut r lo n v).toNat / 256 ^ lo / 256 ^ n = r.toNat / 256 ^ lo / 256 ^ n := by
    rw [recPut_toNat r v h, Nat.add_mul_div_left _ _ hK, Nat.div_eq_of_lt (Nat.mod_lt _ hK), Nat.zero_add, Nat.add_mul_div_left _ _ hN,
      Nat.div_eq_of_lt (Nat.mod_lt _ hN), Nat.zero_add]
  have hsplit : ∀ x : Nat, x / 256 ^ lo' = x / 256 ^ lo / 256 ^ n / 256 ^ (lo' - (lo + n)) := fun x => by
    rw [Nat.div_div_eq_div_mul, Nat.div_div_eq_div_mul, ← pow_add, ← pow_add, ← Nat.add_assoc, Nat.add_sub_cancel' ha]
  unfold recAt
  rw [hsplit, hdiv, ← hsplit]

theorem recByte_eq_recAt (r : BitVec 512) (i : Nat) : recByte r i = recAt r i 1 := by
  unfold recByte recAt
  rw [pow_one]

/-! ### The table of tensors -/

theorem tfind_tput_ne {α : Type} [DecidableEq α] (d : α) (m : List (Nat × α)) {k j : Nat} (v : α) (h : j ≠ k) :
    tfind (tput d m k v) j = tfind m j := by
  unfold tput
  split
  next => rw [tfind_tdel, if_neg h]
  next => rw [tfind_tset, if_neg h]

/-- A table whose entries are all rewritten by one function that keeps the default. -/
theorem tget_map {α : Type} {d : α} {f : α → α} (hd : f d = d) (m : List (Nat × α)) (j : Nat) :
    tget d (m.map (fun e => (e.1, f e.2))) j = f (tget d m j) := by
  induction m with
  | nil => exact hd.symm
  | cons e m ih =>
    unfold tget at ih ⊢
    rw [List.map_cons]
    unfold tfind
    split
    next => rfl
    next => exact ih

/-- What an allocation writes: the quays' allocations, and for a region the marks of its bytes. -/
structure Allocated (s t : State) : Prop where
  damaged : ∀ q, (t.quay q).damaged = (s.quay q).damaged
  resident : ∀ q, ∀ d ∈ (t.quay q).resident, d ∈ (s.quay q).resident
  frame : t = { s with quays := t.quays, quayMarks := t.quayMarks }

theorem Allocated.trans {s t u : State} (h : Allocated s t) (g : Allocated t u) : Allocated s u :=
  ⟨fun q => (g.damaged q).trans (h.damaged q), fun q d hd => h.resident q d (g.resident q d hd),
    g.frame.trans (congrArg (fun y : State => { y with quays := u.quays, quayMarks := u.quayMarks }) h.frame)⟩

/-- A quay's new content that keeps what is damaged and adds no resident tensor. -/
theorem State.setQuay_allocated {s : State} {q : Nat} {v : Quay} (hd : v.damaged = (s.quay q).damaged)
    (hr : ∀ d ∈ v.resident, d ∈ (s.quay q).resident) : Allocated s (s.setQuay q v) := by
  refine ⟨fun j => ?_, fun j d hj => ?_, rfl⟩
  · rw [State.setQuay_quay]
    split
    next e => rw [hd, e]
    next => rfl
  · rw [State.setQuay_quay] at hj
    split at hj
    next e => rw [e]; exact hr d hj
    next => exact hj

theorem placeIn_allocated {s t : State} {q tier kind tid size : Nat} (h : placeIn s q tier kind tid size = some t) : Allocated s t := by
  unfold placeIn at h
  dsimp only at h
  split at h
  next => cases h
  next =>
    cases h
    refine State.setQuay_allocated ?_ fun d hd => ?_
    · split <;> rfl
    · dsimp only at hd
      split at hd
      · exact hd
      · exact (List.mem_filter.1 hd).1

theorem placeAll_allocated {s t : State} {tid : Nat} {l : List (Nat × Nat × Nat)} (h : placeAll s tid l = some t) : Allocated s t := by
  induction l generalizing s with
  | nil =>
    cases h
    exact ⟨fun _ => rfl, fun _ _ hd => hd, rfl⟩
  | cons e l ih =>
    obtain ⟨q, tier, size⟩ := e
    unfold placeAll at h
    split at h
    next u hu => exact (placeIn_allocated hu).trans (ih h)
    next => cases h

theorem allocate_allocated {s t : State} {r : BitVec 512} {n : Nat} (h : allocate s r n = some t) : Allocated s t := by
  unfold allocate at h
  split at h
  next =>
    dsimp only at h
    split at h
    next =>
      cases h
      have hq : Allocated s (s.setQuay (recPrimary r) _) := State.setQuay_allocated
        (v := { (s.quay (recPrimary r)).yieldPool (recTier r) [(recBase r, recSize r)] with
                  allocs := ((s.quay (recPrimary r)).yieldPool (recTier r) [(recBase r, recSize r)]).allocs
                    ++ [{ tier := recTier r, kind := 1, tid := recId r, base := recBase r, size := recSize r }] })
        rfl (fun d hd => (List.mem_filter.1 hd).1)
      exact ⟨hq.damaged, hq.resident, rfl⟩
    next => cases h
  next => exact placeAll_allocated h

/-- What a quay keeps once a tensor's space is free and its state forgotten (R193). -/
def Quay.without (qu : Quay) (tid : Nat) : Quay :=
  { qu with
    allocs := qu.allocs.filter (fun a => a.tid != tid || a.kind == 3)
    damaged := qu.damaged.filter (fun d => d.1 != tid)
    resident := qu.resident.filter (fun d => d.1 != tid)
    copying := qu.copying.filter (fun d => d.1 != tid)
    copied := qu.copied.filter (fun d => d.1 != tid)
    leaving := qu.leaving.filter (· != tid)
    gathered := qu.gathered.filter (fun d => d.1 != tid)
    scanned := qu.scanned.filter (fun d => d.1 != tid)
    leads := qu.leads.filter (fun d => d.1 / 2 != tid) }

theorem forgetTensor_quay (s : State) (tid q : Nat) : ((freeAll s tid).forgetTensor tid).quay q = (s.quay q).without tid := by
  have e : ((freeAll s tid).forgetTensor tid).quays = s.quays.map (fun e => (e.1, e.2.without tid)) := by
    unfold State.forgetTensor freeAll
    dsimp only
    rw [List.map_map]
    rfl
  unfold State.quay
  rw [e]
  exact tget_map (f := fun qu : Quay => qu.without tid) rfl _ _

theorem forgetTensor_frame (s : State) (tid : Nat) :
    (freeAll s tid).forgetTensor tid = { s with quays := ((freeAll s tid).forgetTensor tid).quays, opt := ((freeAll s tid).forgetTensor tid).opt } := by
  rfl

/-! ### The obligation -/

/-- A client's command that changes nothing answers its status. -/
theorem command_unchanged {s : State} {cl : Client} {f : State → State × Nat} {a : Bool} {st : Nat} (hs : Serves s cl a)
    (hf : f s.asked = (s.asked, st)) : s.command cl a f = { s with resp := answered st } := by
  rw [State.command_served _ hs, hf]
  rfl

/-- A client's command that leaves the cleared answer alone answers its status. -/
theorem command_changed {s u : State} {cl : Client} {f : State → State × Nat} {a : Bool} {st : Nat} (hs : Serves s cl a)
    (hf : f s.asked = (u, st)) (hu : u.resp = {}) : s.command cl a f = { u with resp := answered st } := by
  rw [State.command_served _ hs, hf]
  exact State.answer_cleared hu

/-- A tensor's record in place of what the table held. -/
theorem State.setTensor_wrote (s : State) (id : Nat) (v : Tensor) (r : Resp) :
    let t : State := { s.setTensor id v with resp := r }
    t.tensor id = v ∧ (∀ j, j ≠ id → tfind t.tensors j = tfind s.tensors j) ∧ t = { s with tensors := t.tensors, resp := r } :=
  ⟨tget_tput_same _ _ _ _, fun _ hj => tfind_tput_ne _ _ _ hj, rfl⟩

/-- A record for an ID with none: the allocation decides (R193). -/
theorem doTensorCreate_new {s : State} {rec : BitVec 512} (hr : recInRange rec = true) (hh : handleUsed s rec = false)
    (hb : tensorBusy s (recId rec) = false) (hf : tfind s.tensors (recId rec) = none) :
    (∀ u, allocate s rec 0 = some u → doTensorCreate rec s = (u.setTensor (recId rec) { record := rec }, stOk))
      ∧ (allocate s rec 0 = none → doTensorCreate rec s = (s, stCapacity)) := by
  refine ⟨fun u hu => ?_, fun hu => ?_⟩
  · unfold doTensorCreate
    rw [hr, hh, hb]
    dsimp only
    rw [hf]
    dsimp only
    rw [hu]
    rfl
  · unfold doTensorCreate
    rw [hr, hh, hb]
    dsimp only
    rw [hf]
    dsimp only
    rw [hu]
    rfl

/-- A record of the same shape takes the place of the old one and keeps its content. -/
theorem doTensorCreate_same {s : State} {rec : BitVec 512} {old : Tensor} (hr : recInRange rec = true) (hh : handleUsed s rec = false)
    (hb : tensorBusy s (recId rec) = false) (hf : tfind s.tensors (recId rec) = some old) (hsh : sameShape old.record rec = true)
    (hreg : recRegion rec = false) :
    doTensorCreate rec s = (s.setTensor (recId rec) { old with record := rec }, stOk) := by
  unfold doTensorCreate
  rw [hr, hh, hb]
  dsimp only
  rw [hf]
  dsimp only
  rw [hsh, hreg]
  rfl

/-- A record of another shape, or of a region, begins anew in space allocated after the old one's is free; where there is none the old
one stands. -/
theorem doTensorCreate_other {s : State} {rec : BitVec 512} {old : Tensor} (hr : recInRange rec = true) (hh : handleUsed s rec = false)
    (hb : tensorBusy s (recId rec) = false) (hf : tfind s.tensors (recId rec) = some old)
    (hsh : sameShape old.record rec = false ∨ recRegion rec = true) :
    doTensorCreate rec s = (s, stCapacity)
      ∨ ∃ u, Allocated ((freeAll s (recId rec)).forgetTensor (recId rec)) u
        ∧ ∃ o : Optimizer, doTensorCreate rec s = ({ u.setTensor (recId rec) { record := rec } with opt := o }, stOk) := by
  have hno : ¬ (sameShape old.record rec && !recRegion rec) = true := by
    rcases hsh with h | h <;> simp [h]
  obtain ⟨n, hn⟩ : ∃ n, (if recFrozen rec || recRegion rec || !(tget {} s.opt.tensors (recId rec) : OptState).assigned then 0
      else stateBytes rec (s.groupRec (tget {} s.opt.tensors (recId rec) : OptState).group)) = n := ⟨_, rfl⟩
  cases ha : allocate ((freeAll s (recId rec)).forgetTensor (recId rec)) rec n with
  | none =>
    refine .inl ?_
    unfold doTensorCreate
    rw [hr, hh, hb]
    dsimp only
    rw [hf]
    dsimp only
    rw [if_neg hno, hn, ha]
    rfl
  | some u =>
    refine .inr ⟨u, allocate_allocated ha, ?_⟩
    unfold doTensorCreate
    rw [hr, hh, hb]
    dsimp only
    rw [hf]
    dsimp only
    rw [if_neg hno, hn, ha]
    exact ⟨_, rfl⟩

/-- A pin edit notes the pins that were in force for the partitions that use the tensor, in their control alone (R20). -/
theorem foldl_notePins (l : List Nat) (id lead residency : Nat) (s : State) :
    ∃ ct : Tbl PartControl, l.foldl (fun (u : State) p =>
      let ct := u.ctlOf p
      if ct.tensorPins.any (fun e => e.1 == id) then u
      else u.setCtl p { ct with tensorPins := ct.tensorPins ++ [(id, lead, residency)] }) s = { s with ctl := ct } :=
  List.foldlRecOn (motive := fun (u : State) => ∃ ct : Tbl PartControl, u = ({ s with ctl := ct } : State)) l _ ⟨s.ctl, rfl⟩ fun u hu p _ => by
    obtain ⟨ct, rfl⟩ := hu
    dsimp only
    split
    next => exact ⟨ct, rfl⟩
    next => exact ⟨_, rfl⟩

/-- Settles O21. -/
theorem tensorTableCommands : Obligations.TensorTableCommands := by
  unfold Obligations.TensorTableCommands
  refine ⟨?create, ?delete, ?pins⟩
  case create =>
    intro s cl rec hs
    have hgo : ∀ {st : Nat}, doTensorCreate rec s.asked = (s.asked, st) → exec (.tensorCreate cl rec) s = .next { s with resp := answered st } :=
      fun h => congrArg Host.Outcome.next (command_unchanged hs h)
    refine ⟨fun hr => hgo ?_, fun hr hh => hgo ?_, fun hr hh hb => hgo ?_, fun hr hh hb hf => ⟨fun u hu => ?_, fun hu => ?_⟩,
      fun hr hh hb old hf hsh hreg => ?_, fun hr hh hb old hf hsh => ?_⟩
    · exact if_pos (by rw [hr]; rfl)
    · exact (if_neg (by rw [hr]; decide)).trans (if_pos hh)
    · exact (if_neg (by rw [hr]; decide)).trans ((if_neg (by rw [show handleUsed s.asked rec = false from hh]; decide)).trans (if_pos hb))
    · have hal := allocate_allocated hu
      have hdo := (doTensorCreate_new (s := s.asked) hr hh hb hf).1 u hu
      have htn : u.tensors = s.tensors := (congrArg State.tensors hal.frame).trans rfl
      have hex : exec (.tensorCreate cl rec) s = .next { u.setTensor (recId rec) { record := rec } with resp := answered stOk } :=
        congrArg Host.Outcome.next (command_changed hs hdo (congrArg State.resp hal.frame))
      obtain ⟨h1, h2, h3⟩ := u.setTensor_wrote (recId rec) { record := rec } (answered stOk)
      exact ⟨_, hex, rfl, h1, rfl, fun j hj => (h2 j hj).trans (by rw [htn]),
        h3.trans (congrArg (fun y : State => { y with tensors := (u.setTensor (recId rec) { record := rec }).tensors, resp := answered stOk }) hal.frame)⟩
    · exact hgo ((doTensorCreate_new (s := s.asked) hr hh hb hf).2 hu)
    · have hdo := doTensorCreate_same (s := s.asked) hr hh hb hf hsh hreg
      have hex : exec (.tensorCreate cl rec) s = .next { s.asked.setTensor (recId rec) { old with record := rec } with resp := answered stOk } :=
        congrArg Host.Outcome.next (command_changed hs hdo rfl)
      obtain ⟨h1, h2, h3⟩ := s.asked.setTensor_wrote (recId rec) { old with record := rec } (answered stOk)
      exact ⟨_, hex, rfl, h1, h2, h3⟩
    · rcases doTensorCreate_other (s := s.asked) hr hh hb hf hsh with hdo | ⟨u, hal, o, hdo⟩
      · exact ⟨_, hgo hdo, .inl ⟨rfl, rfl⟩⟩
      · have hq := forgetTensor_quay s.asked (recId rec)
        have hfr := hal.frame.trans (congrArg (fun y : State => { y with quays := u.quays, quayMarks := u.quayMarks })
          (forgetTensor_frame s.asked (recId rec)))
        have htn : u.tensors = s.tensors := (congrArg State.tensors hfr).trans rfl
        have hex : exec (.tensorCreate cl rec) s = .next { u.setTensor (recId rec) { record := rec } with opt := o, resp := answered stOk } :=
          congrArg Host.Outcome.next (command_changed hs hdo ((congrArg State.resp hfr).trans rfl))
        refine ⟨_, hex, .inr ⟨rfl, tget_tput_same _ _ _ _, fun q d hd => ?_, fun q d hd => ?_, fun j hj => ?_, ?_⟩⟩
        · have : d ∈ (u.quay q).damaged := hd
          rw [hal.damaged, hq] at this
          exact bne_iff_ne.1 (List.mem_filter.1 this).2
        · have := hal.resident q d hd
          rw [hq] at this
          exact bne_iff_ne.1 (List.mem_filter.1 this).2
        · exact (tfind_tput_ne _ _ _ hj).trans (by rw [htn])
        · exact congrArg (fun y : State => { y with tensors := (u.setTensor (recId rec) { record := rec }).tensors, opt := o, resp := answered stOk }) hfr
  case delete =>
    intro s cl id hs hrec hbusy
    have hq := forgetTensor_quay s.asked id
    obtain ⟨u, hu, huf⟩ : ∃ u, (freeAll s.asked id).forgetTensor id = u ∧ u = { s.asked with quays := u.quays, opt := u.opt } := ⟨_, rfl, rfl⟩
    rw [hu] at hq
    have htn : u.tensors = s.tensors := (congrArg State.tensors huf).trans rfl
    have hdo : doTensorDelete id s.asked
        = ({ u with tensors := tdel u.tensors id, opt := { u.opt with tensors := tdel u.opt.tensors id } }, stOk) := by
      refine (if_neg ?_).trans ((if_neg ?_).trans ?_)
      · have : (s.asked.recOf id).isSome = true := hrec
        rw [Option.isNone_iff_eq_none]
        intro h
        rw [h] at this
        cases this
      · have : tensorBusy s.asked id = false := hbusy
        rw [this]
        decide
      · dsimp only
        rw [hu]
    have hex : exec (.tensorDelete cl id) s = .next { u with tensors := tdel u.tensors id, opt := { u.opt with tensors := tdel u.opt.tensors id },
                                                             resp := answered stOk } :=
      congrArg Host.Outcome.next (command_changed hs hdo ((congrArg State.resp huf).trans rfl))
    refine ⟨_, hex, rfl, ?_, fun j hj => ?_, fun q a => ?_, fun q d => ?_, ?_⟩
    · show (tfind (tdel u.tensors id) id).map _ = none
      rw [tfind_tdel, if_pos rfl]
      rfl
    · show tfind (tdel u.tensors id) j = _
      rw [tfind_tdel, if_neg hj, htn]
    · show a ∈ (u.quay q).allocs ↔ _
      rw [hq]
      exact List.mem_filter.trans (by simp [show s.asked.quay q = s.quay q from rfl])
    · show d ∈ (u.quay q).damaged ↔ _
      rw [hq]
      exact List.mem_filter.trans (by simp [show s.asked.quay q = s.quay q from rfl])
    · exact congrArg (fun y : State => { y with tensors := tdel u.tensors id, opt := { u.opt with tensors := tdel u.opt.tensors id }
                                                resp := answered stOk }) huf
  case pins =>
    intro s cl id lead residency tt hs hf hlead hres htier
    obtain ⟨ct, hct⟩ := foldl_notePins (partsWhere (fun p => (s.asked.part p).marks && namesTensor s.asked p id)) id (recLead tt.record)
      (recResidency tt.record) s.asked
    obtain ⟨rec, hrec⟩ : ∃ r, recPut (recPut tt.record 20 2 lead) 22 1 residency = r := ⟨_, rfl⟩
    have hdo : doPinEdit id lead residency s.asked
        = (({ s.asked with ctl := ct } : State).setTensor id { tt with record := rec }, stOk) := by
      unfold doPinEdit
      rw [show tfind s.asked.tensors id = some tt from hf]
      dsimp only
      rw [if_neg (by omega)]
      dsimp only at hct
      rw [hct, hrec]
    have hex : exec (.pinEdit cl id lead residency) s
        = .next { ({ s.asked with ctl := ct } : State).setTensor id { tt with record := rec } with resp := answered stOk } :=
      congrArg Host.Outcome.next (command_changed hs hdo rfl)
    obtain ⟨h1, h2, h3⟩ := State.setTensor_wrote { s.asked with ctl := ct } id { tt with record := rec } (answered stOk)
    have hr : ∀ t : State, t.tensor id = { tt with record := rec } → (t.tensor id).record = rec := fun t h => congrArg Tensor.record h
    refine ⟨_, hex, rfl, h1.trans (congrArg (fun r => ({ tt with record := r } : Tensor)) (hr _ h1).symm), ?_, ?_, fun i hi h20 h21 h22 => ?_, h2, h3⟩
    · rw [hr _ h1, ← hrec]
      unfold recLead
      rw [recAt_recPut_below _ _ (by decide) (by decide), recAt_recPut_same _ _ (by decide)]
      exact Nat.mod_eq_of_lt (by omega)
    · rw [hr _ h1, ← hrec]
      unfold recResidency
      rw [recByte_eq_recAt, recAt_recPut_same _ _ (by decide)]
      exact Nat.mod_eq_of_lt (by omega)
    · rw [hr _ h1, ← hrec]
      simp only [recByte_eq_recAt]
      by_cases hlow : i < 20
      · rw [recAt_recPut_below _ _ (by decide) (by omega), recAt_recPut_below _ _ (by decide) (by omega)]
      · rw [recAt_recPut_above _ _ (by decide) (by omega), recAt_recPut_above _ _ (by decide) (by omega)]

end Sys2Proof.Machine
end

section
/-! SUPPORT. Content of tensors and regions: its writes, its checkpoints, and the rows of other modules. -/

namespace Sys2Proof.Machine


/-! ### Versions and their slots -/

/-- A version's slot and the record of a tensor stand; the table's other tensors and everything but the table and the quays too. -/
structure SlotStands (s t : State) (id version : Nat) : Prop where
  slot : (t.tensor id).slot version = (s.tensor id).slot version
  record : (t.tensor id).record = (s.tensor id).record
  others : ∀ j, j ≠ id → tfind t.tensors j = tfind s.tensors j
  frame : t = { s with tensors := t.tensors, quays := t.quays }

theorem SlotStands.refl (s : State) (id version : Nat) : SlotStands s s id version := ⟨rfl, rfl, fun _ _ => rfl, rfl⟩

theorem SlotStands.trans {s t u : State} {id version : Nat} (h : SlotStands s t id version) (g : SlotStands t u id version) :
    SlotStands s u id version :=
  ⟨g.slot.trans h.slot, g.record.trans h.record, fun j hj => (g.others j hj).trans (h.others j hj),
    g.frame.trans (congrArg (fun y : State => { y with tensors := u.tensors, quays := u.quays }) h.frame)⟩

/-- A tensor's new value that keeps a slot and the record. -/
theorem State.setTensor_slotStands {s : State} {id version : Nat} {v : Tensor} (hs : v.slot version = (s.tensor id).slot version)
    (hr : v.record = (s.tensor id).record) : SlotStands s (s.setTensor id v) id version := by
  have e : (s.setTensor id v).tensor id = v := tget_tput_same _ _ _ _
  exact ⟨by rw [e, hs], by rw [e, hr], fun j hj => tfind_tput_ne _ _ _ hj, rfl⟩

/-- The tensor that a version's retirement leaves. -/
theorem State.retireVersion_tensor (s : State) (id n : Nat) :
    (s.retireVersion id n).tensor id = { s.tensor id with versions := (s.tensor id).versions.filter (fun x => x.number != n) } :=
  tget_tput_same _ _ _ _

theorem State.retireVersion_frame (s : State) (id n : Nat) :
    (∀ j, j ≠ id → tfind (s.retireVersion id n).tensors j = tfind s.tensors j)
      ∧ s.retireVersion id n = { s with tensors := (s.retireVersion id n).tensors, quays := (s.retireVersion id n).quays } :=
  ⟨fun _ hj => tfind_tput_ne _ _ _ hj, rfl⟩

/-- Another version's retirement leaves a version's slot. -/
theorem State.retireVersion_slotStands (s : State) (id : Nat) {n version : Nat} (h : n ≠ version) :
    SlotStands s (s.retireVersion id n) id version := by
  obtain ⟨h1, h2⟩ := s.retireVersion_frame id n
  refine ⟨?_, ?_, h1, h2⟩
  · rw [s.retireVersion_tensor]
    unfold Tensor.slot
    dsimp only
    rw [List.find?_filter]
    refine congrArg (fun f => List.find? f (s.tensor id).versions) (funext fun x => ?_)
    by_cases hx : x.number = version
    · simp [hx, Ne.symm h]
    · simp [hx]
  · rw [s.retireVersion_tensor]

/-- The retirement of the versions that no entry names leaves one that does not wait to retire. -/
theorem State.retireUnnamed_slotStands (s : State) {id version : Nat} (h : version ∉ (s.tensor id).retiring) :
    SlotStands s (s.retireUnnamed id) id version := by
  have hfold : ∀ (l : List Nat), version ∉ l → ∀ u : State, SlotStands u (l.foldl (fun u n => u.retireVersion id n) u) id version := by
    intro l
    induction l with
    | nil => exact fun _ u => SlotStands.refl u id version
    | cons n l ih =>
      intro hl u
      rw [List.mem_cons, not_or] at hl
      exact (u.retireVersion_slotStands id (Ne.symm hl.1)).trans (ih hl.2 _)
  unfold State.retireUnnamed
  dsimp only
  split
  next => exact SlotStands.refl s id version
  next =>
    refine (hfold _ (fun hm => h (List.mem_filter.1 hm).1) s).trans (State.setTensor_slotStands ?_ ?_)
    · rfl
    · rfl

/-- A version's slot after it is put. -/
theorem Tensor.putSlot_slot (t : Tensor) (v : Version) : (t.putSlot v).slot v.number = some v ∧ (t.putSlot v).record = t.record
    ∧ (t.putSlot v).retiring = t.retiring := by
  unfold Tensor.putSlot
  split
  next h =>
    refine ⟨?_, rfl, rfl⟩
    unfold Tensor.slot at h ⊢
    dsimp only
    generalize t.versions = l at h
    induction l with
    | nil => simp at h
    | cons x l ih =>
      rw [List.map_cons]
      by_cases hx : x.number = v.number
      · rw [if_pos hx, List.find?_cons_of_pos (by simp)]
      · rw [if_neg hx, List.find?_cons_of_neg (by simpa using hx)]
        rw [List.find?_cons_of_neg (by simpa using hx)] at h
        exact ih h
  next h =>
    refine ⟨?_, rfl, rfl⟩
    unfold Tensor.slot at h ⊢
    dsimp only
    rw [List.find?_append, Option.not_isSome_iff_eq_none.1 h]
    simp

/-- The version of a slot has the slot's number. -/
theorem Tensor.slot_number {t : Tensor} {n : Nat} {x : Version} (h : t.slot n = some x) : x.number = n := by
  have := List.find?_some h
  exact eq_of_beq this

/-- A slot that is ready is there once it is opened: as it was, or empty (R195). -/
theorem State.openSlot_opens {s : State} {id version : Nat} (hr : slotReady s id version = true) :
    ∃ x : Version, ((s.openSlot id version).tensor id).slot version = some x ∧ x.number = version
      ∧ x.bytes = (((s.tensor id).slot version).map (fun w => w.bytes)).getD []
      ∧ ((s.openSlot id version).tensor id).record = (s.tensor id).record
      ∧ ((s.openSlot id version).tensor id).retiring = (s.tensor id).retiring
      ∧ (∀ j, j ≠ id → tfind (s.openSlot id version).tensors j = tfind s.tensors j)
      ∧ s.openSlot id version = { s with tensors := (s.openSlot id version).tensors, quays := (s.openSlot id version).quays } := by
  cases hslot : (s.tensor id).slot version with
  | some x =>
    have e : s.openSlot id version = s := if_pos (by rw [hslot]; rfl)
    rw [e]
    exact ⟨x, hslot, Tensor.slot_number hslot, rfl, rfl, rfl, fun _ _ => rfl, rfl⟩
  | none =>
    obtain ⟨u, hu⟩ : ∃ u, (if (s.tensor id).versions.length < recSlots (s.tensor id).record then s
        else s.retireVersion id (s.tensor id).oldest) = u := ⟨_, rfl⟩
    have hkeep : (u.tensor id).record = (s.tensor id).record ∧ (u.tensor id).retiring = (s.tensor id).retiring
        ∧ (∀ j, j ≠ id → tfind u.tensors j = tfind s.tensors j) ∧ u = { s with tensors := u.tensors, quays := u.quays } := by
      rw [← hu]
      split
      next => exact ⟨rfl, rfl, fun _ _ => rfl, rfl⟩
      next =>
        obtain ⟨h3, h4⟩ := s.retireVersion_frame id (s.tensor id).oldest
        exact ⟨by rw [s.retireVersion_tensor], by rw [s.retireVersion_tensor], h3, h4⟩
    obtain ⟨h1, h2, h3, h4⟩ := hkeep
    obtain ⟨x, hx, hxn, hxb⟩ : ∃ x : Version, { number := version, committed := false, complete := false, bytes := [] } = x
        ∧ x.number = version ∧ x.bytes = [] := ⟨_, rfl, rfl, rfl⟩
    obtain ⟨p1, p2, p3⟩ := (u.tensor id).putSlot_slot x
    rw [hxn] at p1
    obtain ⟨w, hw⟩ : ∃ w, (u.tensor id).putSlot x = w := ⟨_, rfl⟩
    rw [hw] at p1 p2 p3
    have eo : s.openSlot id version = u.setTensor id w := by
      unfold State.openSlot
      dsimp only
      rw [if_neg (by rw [hslot, hr]; decide), hu, hx, hw]
    have e : (u.setTensor id w).tensor id = w := tget_tput_same _ _ _ _
    rw [eo, e]
    exact ⟨x, p1, hxn, hxb, p2.trans h1, p3.trans h2, fun j hj => (tfind_tput_ne _ _ _ hj).trans (h3 j hj),
      congrArg (fun y : State => { y with tensors := (u.setTensor id w).tensors }) h4⟩

/-- A committed version's slot holds the bytes that it held; older versions retire once none names them (R195). -/
theorem State.commitVersion_commits {s : State} {id version : Nat} {x : Version} (h : (s.tensor id).slot version = some x)
    (hr : version ∉ (s.tensor id).retiring) :
    ((s.commitVersion id version).tensor id).slot version = some { x with committed := true, complete := true }
      ∧ ((s.commitVersion id version).tensor id).record = (s.tensor id).record
      ∧ (∀ j, j ≠ id → tfind (s.commitVersion id version).tensors j = tfind s.tensors j)
      ∧ s.commitVersion id version = { s with tensors := (s.commitVersion id version).tensors, quays := (s.commitVersion id version).quays } := by
  have hn : x.number = version := Tensor.slot_number h
  obtain ⟨y, hy, hyn⟩ : ∃ y : Version, { x with committed := true, complete := true } = y ∧ y.number = version := ⟨_, rfl, hn⟩
  obtain ⟨p1, p2, -⟩ := (s.tensor id).putSlot_slot y
  rw [hyn] at p1
  obtain ⟨old, hold, hlt⟩ : ∃ l, ((s.tensor id).versions.filter (fun y => decide (y.number + recWindow (s.tensor id).record < version))).map (·.number) = l
      ∧ version ∉ l := by
    refine ⟨_, rfl, fun hm => ?_⟩
    obtain ⟨z, hz, rfl⟩ := List.mem_map.1 hm
    have := of_decide_eq_true (List.mem_filter.1 hz).2
    omega
  obtain ⟨v, hv, hvs, hvr, hvl⟩ : ∃ v : Tensor, { (s.tensor id).putSlot y with retiring := ((s.tensor id).retiring ++ old).eraseDups } = v
      ∧ v.slot version = some y ∧ v.record = (s.tensor id).record ∧ v.retiring = ((s.tensor id).retiring ++ old).eraseDups :=
    ⟨_, rfl, p1, p2, rfl⟩
  have e : s.commitVersion id version = (s.setTensor id v).retireUnnamed id := by
    unfold State.commitVersion
    dsimp only
    rw [h]
    dsimp only
    rw [hold, hy, hv]
  have et : (s.setTensor id v).tensor id = v := tget_tput_same _ _ _ _
  have hnot : version ∉ ((s.setTensor id v).tensor id).retiring := by
    rw [et, hvl, List.mem_eraseDups, List.mem_append]
    exact fun h => h.elim hr hlt
  obtain ⟨h1, h2, h3, h4⟩ := State.retireUnnamed_slotStands _ hnot
  rw [e, hy]
  exact ⟨h1.trans (by rw [et, hvs]), h2.trans (by rw [et, hvr]), fun j hj => (h3 j hj).trans (tfind_tput_ne _ _ _ hj), h4⟩

/-- A content write to a tensor whose checks pass: the version's slot decides (R194). -/
theorem doContentWrite_version {s : State} {id version offset : Nat} {final : Bool} {data : List Byte} {tt : Tensor}
    (hf : tfind s.tensors id = some tt) (hreg : recRegion tt.record = false)
    (hlen : offset + data.length ≤ recTiles tt.record * tileBytes (recStream tt.record))
    (hfro : recFrozen tt.record = true → version = recBase tt.record) (hbusy : (partsWhere (fun p => s.busyPart p && fetches s p id)) = []) :
    (((s.openSlot id version).tensor id).slot version = none → doContentWrite id version offset final data s = (s, stState))
      ∧ (∀ v, ((s.openSlot id version).tensor id).slot version = some v →
        let v1 := { v with bytes := writeBytes v.bytes offset data }
        let s2 := (s.openSlot id version).setTensor id (((s.openSlot id version).tensor id).putSlot v1)
        doContentWrite id version offset final data s
          = (if final then (s2.commitVersion id version).seedMaster id tt.record v1 else s2, stOk)) := by
  refine ⟨fun h => ?_, fun v h => ?_⟩
  · unfold doContentWrite
    rw [hf]
    dsimp only
    rw [if_neg (by rw [hreg]; decide), if_neg (by omega), if_neg (fun h => h.2 (hfro h.1)), if_neg (fun h => h hbusy), h]
  · unfold doContentWrite
    rw [hf]
    dsimp only
    rw [if_neg (by rw [hreg]; decide), if_neg (by omega), if_neg (fun h => h.2 (hfro h.1)), if_neg (fun h => h hbusy), h]
    dsimp only
    split <;> rfl

/-- The master weights' first content stands in the optimizer's objects alone (R248). -/
theorem State.seedMaster_frame (s : State) (id : Nat) (r : BitVec 512) (v : Version) :
    s.seedMaster id r v = { s with opt := (s.seedMaster id r v).opt } := by
  unfold State.seedMaster
  dsimp only
  split <;> rfl

/-- A version's slot that is not ready is not opened. -/
theorem State.openSlot_not {s : State} {id version : Nat} (hr : slotReady s id version = false) :
    s.openSlot id version = s ∧ (s.tensor id).slot version = none := by
  refine ⟨if_pos (by rw [hr]; simp), ?_⟩
  unfold slotReady at hr
  simp only [Bool.or_eq_false_iff] at hr
  simpa using hr.1.1

/-! ### Rows of other modules -/

/-- The answer to a row goes back where it came from: nowhere for a row of this module, by the fabric for another's (R191, R293). -/
theorem State.answerRow_answers {s u : State}
    (hu : u = { s with dram := u.dram, quayMarks := u.quayMarks, quays := u.quays, link := u.link, freeCtr := u.freeCtr })
    (q m c offset type : Nat) (data : Option Row) :
    let t := u.answerRow q m c offset type data
    (m = s.moduleNumber → t.fabric = s.fabric ∧ t.ledger = s.ledger)
    ∧ (m ≠ s.moduleNumber → ∃ ch tag, Sent s t q (rowHead m q offset data)
        (netBytes { header := netHeader type 3 (coreX c) (coreY c) 0 0 ch 0 tag
                    address := some (BitVec.ofNat 64 (m % 16384 * 2 ^ 50 + c % 32768 * 2 ^ 32)), data := data }))
    ∧ t.quays = u.quays ∧ t.link = u.link ∧ t.dram = u.dram ∧ t.quayMarks = u.quayMarks
    ∧ t = { s with dram := t.dram, quayMarks := t.quayMarks, quays := t.quays, link := t.link, freeCtr := t.freeCtr, fabric := t.fabric
                   ledger := { s.ledger with rejectsReceived := t.ledger.rejectsReceived } } := by
  have hmod : u.moduleNumber = s.moduleNumber := by rw [hu]; rfl
  have hfab : u.fabric = s.fabric := by rw [hu]
  have hled : u.ledger = s.ledger := by rw [hu]
  have hroute : ∀ q m dq flow, routePort u q m dq flow = routePort s q m dq flow := fun q m dq flow => by rw [hu]; rfl
  by_cases hm : m = s.moduleNumber
  · have e : u.answerRow q m c offset type data = u := if_pos (hm.trans hmod.symm)
    rw [e]
    refine ⟨fun _ => ⟨hfab, hled⟩, fun h => absurd hm h, rfl, rfl, rfl, rfl, ?_⟩
    dsimp only
    rw [hled, hfab]
    exact hu
  · obtain ⟨ch, hch⟩ : ∃ n, Config.freeNat u.freeCtr 2097152 = n := ⟨_, rfl⟩
    obtain ⟨tag, htag⟩ : ∃ n, Config.freeNat u.freeCtr 2097153 = n := ⟨_, rfl⟩
    obtain ⟨f, hf⟩ : ∃ f, rowHead m q offset data = f := ⟨_, rfl⟩
    obtain ⟨pl, hpl⟩ : ∃ b, netBytes { header := netHeader type 3 (coreX c) (coreY c) 0 0 ch 0 tag
                                       address := some (BitVec.ofNat 64 (m % 16384 * 2 ^ 50 + c % 32768 * 2 ^ 32)), data := data } = b := ⟨_, rfl⟩
    have e : u.answerRow q m c offset type data = (u.sendPacket q f pl).bump := by
      unfold State.answerRow
      rw [if_neg (fun h => hm (h.trans hmod))]
      dsimp only
      rw [hch, htag, hf, hpl]
    rw [e]
    refine ⟨fun h => absurd h hm, fun _ => ⟨ch, tag, ?_⟩, ?_⟩
    · rw [hpl, hf]
      unfold Sent State.sendPacket
      dsimp only
      rw [hmod, hroute]
      refine ⟨fun port h => ?_, fun h => ?_⟩
      · rw [h, hfab]
        rfl
      · rw [h]
        exact congrArg Fabric.sent hfab
    · unfold State.sendPacket
      dsimp only
      split
      next =>
        refine ⟨rfl, rfl, rfl, rfl, ?_⟩
        exact congrArg (fun y : State => { y with freeCtr := u.freeCtr + 1, ledger := { y.ledger with rejectsReceived := satAdd 32 u.ledger.rejectsReceived 1 } })
          (hu.trans (by rw [← hfab]))
      next port h =>
        refine ⟨rfl, rfl, rfl, rfl, ?_⟩
        obtain ⟨fb, hfb⟩ : ∃ fb : Fabric, { u.fabric with
            sent := u.fabric.sent ++ [(port, fabHeader u.moduleNumber q (tget 0 u.fabric.nextSeq (flowKey u.moduleNumber q f.dm f.dq f.typ f.shard)) f pl, pl)]
            nextSeq := tput 0 u.fabric.nextSeq (flowKey u.moduleNumber q f.dm f.dq f.typ f.shard)
              ((tget 0 u.fabric.nextSeq (flowKey u.moduleNumber q f.dm f.dq f.typ f.shard) + 1) % 65536) } = fb := ⟨_, rfl⟩
        rw [hfb]
        have hrej : s.ledger.rejectsReceived = u.ledger.rejectsReceived := by rw [hled]
        exact (congrArg (fun y : State => { y with freeCtr := u.freeCtr + 1, fabric := fb }) hu).trans
          (congrArg (fun n : Nat => ({ s with dram := u.dram, quayMarks := u.quayMarks, quays := u.quays, link := u.link, freeCtr := u.freeCtr + 1
                                              fabric := fb, ledger := { s.ledger with rejectsReceived := n } } : State)) hrej)

/-! ### The obligation -/

/-- Settles O22. -/
theorem contentCheckpointsAndRegions : Obligations.ContentCheckpointsAndRegions := by
  unfold Obligations.ContentCheckpointsAndRegions
  refine ⟨?write, ?noSlot, ?region, ?checkpoint, ?complete, ?rows⟩
  case write =>
    intro s cl id version offset final data tt hs hf hreg hlen hfro hbusy hready hret
    have htt : s.tensor id = tt := by unfold State.tensor tget; rw [hf]; rfl
    obtain ⟨x, hx, hxn, hxb, hxr, hxl, hxo, hxf⟩ := State.openSlot_opens (s := s.asked) (id := id) (version := version) hready
    obtain ⟨u, hu⟩ : ∃ u, s.asked.openSlot id version = u := ⟨_, rfl⟩
    obtain ⟨v, hv, hvn, hvb⟩ : ∃ v : Version, { x with bytes := writeBytes x.bytes offset data } = v ∧ v.number = version
        ∧ v.bytes = writeBytes x.bytes offset data := ⟨_, rfl, hxn, rfl⟩
    have hdo := (doContentWrite_version (s := s.asked) (final := final) hf hreg hlen hfro hbusy).2 x hx
    rw [hu] at hx hxr hxl hxo hxf hdo
    dsimp only at hdo
    rw [hv] at hdo
    obtain ⟨p1, p2, p3⟩ := (u.tensor id).putSlot_slot v
    obtain ⟨w, hw⟩ : ∃ w, (u.tensor id).putSlot v = w := ⟨_, rfl⟩
    rw [hw] at p1 p2 p3 hdo
    rw [hvn] at p1
    have hwt : (u.setTensor id w).tensor id = w := tget_tput_same _ _ _ _
    have hwf : (u.setTensor id w) = { s.asked with tensors := (u.setTensor id w).tensors, quays := u.quays } :=
      congrArg (fun y : State => { y with tensors := (u.setTensor id w).tensors }) hxf
    have hwo : ∀ j, j ≠ id → tfind (u.setTensor id w).tensors j = tfind s.tensors j := fun j hj => (tfind_tput_ne _ _ _ hj).trans (hxo j hj)
    have hwr : w.record = tt.record := p2.trans (hxr.trans (congrArg Tensor.record htt))
    have hwl : version ∉ ((u.setTensor id w).tensor id).retiring := by
      rw [hwt, p3, hxl]
      exact fun h => hret (by rw [← htt]; exact h)
    have hbytes : WroteBytes (match tt.slot version with | some w => w.bytes | none => []) v.bytes offset data := by
      have : x.bytes = (match tt.slot version with | some w => w.bytes | none => []) := by
        rw [hxb, show s.asked.tensor id = tt from htt]
        cases tt.slot version <;> rfl
      rw [← this, hvb]
      exact fun a => readByte_writeBytes data x.bytes offset a
    cases final with
    | false =>
      rw [if_neg (by decide)] at hdo
      have hex : exec (.contentWrite cl id version offset false data) s = .next { u.setTensor id w with resp := answered stOk } :=
        congrArg Host.Outcome.next (command_changed hs hdo ((congrArg State.resp hwf).trans rfl))
      refine ⟨_, v, hex, rfl, (congrArg (fun z : Tensor => z.slot version) hwt).trans p1, hbytes, (by cases ·), (congrArg Tensor.record hwt).trans hwr,
        hwo, ?_⟩
      have ho : u.opt = s.opt := (congrArg State.opt hxf).trans rfl
      exact (congrArg (fun y : State => { y with resp := answered stOk }) hwf).trans
        (congrArg (fun o : Optimizer => ({ s with tensors := (u.setTensor id w).tensors, quays := u.quays, opt := o, resp := answered stOk } : State))
          ho.symm)
    | true =>
      rw [if_pos rfl] at hdo
      obtain ⟨c1, c2, c3, c4⟩ := State.commitVersion_commits (s := u.setTensor id w) (x := v) (by rw [hwt]; exact p1) hwl
      obtain ⟨y, hy⟩ : ∃ y, (u.setTensor id w).commitVersion id version = y := ⟨_, rfl⟩
      rw [hy] at hdo c1 c2 c3 c4
      have hsf := y.seedMaster_frame id tt.record v
      obtain ⟨z, hz⟩ : ∃ z, y.seedMaster id tt.record v = z := ⟨_, rfl⟩
      rw [hz] at hdo hsf
      have hzf : z = { s.asked with tensors := y.tensors, quays := y.quays, opt := z.opt } :=
        hsf.trans (congrArg (fun a : State => { a with opt := z.opt }) (c4.trans (congrArg (fun a : State => { a with tensors := y.tensors, quays := y.quays }) hwf)))
      have hzt : z.tensors = y.tensors := (congrArg State.tensors hzf).trans rfl
      have hztn : z.tensor id = y.tensor id := by unfold State.tensor; rw [hzt]
      have hex : exec (.contentWrite cl id version offset true data) s = .next { z with resp := answered stOk } :=
        congrArg Host.Outcome.next (command_changed hs hdo ((congrArg State.resp hzf).trans rfl))
      refine ⟨_, { v with committed := true, complete := true }, hex, rfl, (congrArg (fun a : Tensor => a.slot version) hztn).trans c1, hbytes,
        fun _ => ⟨rfl, rfl⟩, (congrArg Tensor.record hztn).trans (c2.trans (by rw [hwt, hwr])), fun j hj => ?_, ?_⟩
      · exact (congrArg (fun a => tfind a j) hzt).trans ((c3 j hj).trans (hwo j hj))
      · have hzq : z.quays = y.quays := (congrArg State.quays hzf).trans rfl
        rw [← hzt, ← hzq] at hzf
        exact congrArg (fun a : State => { a with resp := answered stOk }) hzf
  case noSlot =>
    intro s cl id version offset final data tt hs hf hreg hlen hfro hbusy hready
    obtain ⟨h1, h2⟩ := State.openSlot_not (s := s.asked) (id := id) (version := version) hready
    refine congrArg Host.Outcome.next (command_unchanged hs ?_)
    exact (doContentWrite_version (s := s.asked) hf hreg hlen hfro hbusy).1 (by rw [h1]; exact h2)
  case region =>
    intro s cl id version offset final data tt hs hf hreg hlen base
    have hbase : WroteBytes s.dram (writeBytes s.dram base data) base data := fun x => readByte_writeBytes data s.dram base x
    have hbasef : WroteBytes s.flash (writeBytes s.flash base data) base data := fun x => readByte_writeBytes data s.flash base x
    obtain ⟨marks, hmarks⟩ : ∃ m, clearWords s.quayMarks (tierBase (recPrimary tt.record) (recTier tt.record) + recBase tt.record + offset) data.length = m :=
      ⟨_, rfl⟩
    have hdo : doContentWrite id version offset final data s.asked
        = (if recTier tt.record = 0 then ({ s.asked with dram := writeBytes s.dram base data, quayMarks := marks } : State)
            else ({ s.asked with flash := writeBytes s.flash base data, quayMarks := marks } : State), stOk) := by
      unfold doContentWrite
      rw [show tfind s.asked.tensors id = some tt from hf]
      dsimp only
      rw [if_pos hreg, if_neg (Nat.not_lt.2 hlen), ← hmarks]
      rfl
    by_cases ht : recTier tt.record = 0
    · rw [if_pos ht] at hdo
      exact ⟨_, congrArg Host.Outcome.next (command_changed hs hdo rfl), rfl, fun _ => ⟨hbase, rfl⟩, fun h => absurd ht h, rfl⟩
    · rw [if_neg ht] at hdo
      exact ⟨_, congrArg Host.Outcome.next (command_changed hs hdo rfl), rfl, fun h => absurd h ht, fun _ => ⟨hbasef, rfl⟩, rfl⟩
  case checkpoint =>
    intro s cl id tt v hs hid hf hnew hheld
    have htt : s.tensor id = tt := by unfold State.tensor tget; rw [hf]; rfl
    obtain ⟨l, k, hopen, -⟩ := s.asked.openTicket_opens 0x5100 7
    obtain ⟨u, hu, hur, hut, huo, hun, huf⟩ : ∃ u, (s.asked.openTicket 0x5100 7).journal jCheckpoint id s.now = u
        ∧ u.resp = { flags := 1, ticket := s.sivar.nextTicket } ∧ u.tensors = s.tensors ∧ u.opt = s.opt ∧ u.sivar.nextTicket = s.sivar.nextTicket + 1
        ∧ u = { s with sivar := u.sivar, mc := u.mc, resp := u.resp } := by
      rw [hopen]
      exact ⟨_, rfl, rfl, rfl, rfl, rfl, rfl⟩
    have hutt : u.tensor id = tt := by unfold State.tensor; rw [hut]; exact htt
    have hstate : ∀ key n, stateAt u key n = stateAt s key n := fun key n => by unfold stateAt; rw [huo]
    obtain ⟨w, hw⟩ : ∃ w : Tensor, { tt with checkpointing := some (s.sivar.nextTicket, { version := v, state := stateAt s id v.number },
        { version := v, state := stateAt s (id + 2 ^ 24) v.number }) } = w := ⟨_, rfl⟩
    have hbegin : u.beginCheckpoint s.sivar.nextTicket id = u.setTensor id w := by
      unfold State.beginCheckpoint
      dsimp only
      rw [hutt, hnew]
      dsimp only
      rw [hstate, hstate, hw]
    have hdo : doCheckpoint id s.asked = (u.setTensor id w, stOk) := by
      unfold doCheckpoint
      dsimp only
      have hrec : ¬ (id ≠ 0 ∧ (s.asked.recOf id).isNone = true) := fun h => by
        have := h.2
        unfold State.recOf at this
        rw [show tfind s.asked.tensors id = some tt from hf] at this
        cases this
      rw [if_neg hrec, if_neg (by rw [show s.asked.heldByTicket 0x5100 7 = false from hheld]; decide), if_neg hid]
      rw [show (s.asked.openTicket 0x5100 7).journal jCheckpoint id s.asked.now = u from hu]
      rw [show s.asked.sivar.nextTicket = s.sivar.nextTicket from rfl, List.foldl_cons, List.foldl_nil, hbegin]
      rw [if_neg (by simp), if_neg (by rw [List.any_cons, show s.asked.tensor id = tt from htt, hnew]; simp)]
    have hex : exec (.checkpoint cl id) s = .next ((u.setTensor id w).answer stOk) :=
      congrArg Host.Outcome.next ((State.command_served _ hs).trans (by rw [hdo]))
    obtain ⟨t, ht, htr, htt', htf⟩ : ∃ t, (u.setTensor id w).answer stOk = t ∧ t.resp = { u.resp with status := stOk, executed := 1 }
        ∧ t.tensors = (u.setTensor id w).tensors ∧ t = { u with tensors := t.tensors, resp := t.resp } := ⟨_, rfl, rfl, rfl, rfl⟩
    rw [ht] at hex
    have hall := htf.trans (congrArg (fun y : State => { y with tensors := t.tensors, resp := t.resp }) huf)
    have e1 : t.sivar = u.sivar := (congrArg State.sivar hall).trans rfl
    have e2 : t.mc = u.mc := (congrArg State.mc hall).trans rfl
    refine ⟨t, hex, by rw [htr, hur]; rfl, ?_, fun hprior => ?_, fun j hj => ?_, ?_⟩
    · rw [hw]
      unfold State.tensor
      rw [htt']
      exact tget_tput_same _ _ _ _
    · have : s.opt.runs.findSome? (fun e => (e.2.prior.find? (fun x => decide (v.number ≤ x.1))).bind (fun x => tfind x.2 id)) = none := by
        rw [List.findSome?_eq_none_iff]
        intro e he
        rw [hprior e he]
        rfl
      unfold stateAt
      rw [this]
    · rw [htt']
      exact (tfind_tput_ne _ _ _ hj).trans (by rw [hut])
    · rw [← e1, ← e2] at hall
      exact hall
  case complete =>
    intro s id n ck rep ok hck
    obtain ⟨w, hw, hwc, hwk, hwr⟩ : ∃ w : Tensor, (if ok then { s.tensor id with checkpointing := none, checkpoint := some ck, replica := some rep }
        else { s.tensor id with checkpointing := none }) = w ∧ w.checkpointing = none
        ∧ w.checkpoint = (if ok = true then some ck else (s.tensor id).checkpoint)
        ∧ w.replica = (if ok = true then some rep else (s.tensor id).replica) := by
      refine ⟨_, rfl, ?_, ?_, ?_⟩
      · split <;> rfl
      · split <;> rfl
      · split <;> rfl
    obtain ⟨u, hu, hut, huf⟩ : ∃ u, s.setTensor id w = u ∧ u.tensor id = w ∧ u = { s with tensors := u.tensors } :=
      ⟨_, rfl, tget_tput_same _ _ _ _, rfl⟩
    have huo : ∀ j, j ≠ id → tfind u.tensors j = tfind s.tensors j := fun j hj => hu ▸ tfind_tput_ne _ _ _ hj
    obtain ⟨more, hmore, hex⟩ : ∃ more : Bool, ((∀ e ∈ u.tensors, ∀ c, e.2.checkpointing = some c → c.1 ≠ n) → more = false)
        ∧ exec (.checkpointComplete id ok) s = .next (if !ok then u.endTicket n stTimeout
            else if more then u else (u.endTicket n stOk).journalDone jCheckpoint id) := by
      refine ⟨?_, ?_, congrArg Host.Outcome.next ?_⟩
      rotate_left 2
      · dsimp only
        rw [hck]
        dsimp only
        rw [hw, hu]
      · intro h
        rw [List.any_eq_false]
        intro e he
        split
        next c hc => simpa using h e he c hc
        next => decide
    obtain ⟨t, ht, htt, htf, hdone⟩ : ∃ t, (if !ok then u.endTicket n stTimeout
            else if more then u else (u.endTicket n stOk).journalDone jCheckpoint id) = t ∧ t.tensors = u.tensors
        ∧ t = { u with sivar := t.sivar, mc := t.mc }
        ∧ ((ok = false ∨ more = false) → ∀ k ∈ t.sivar.tickets, k.number = n → k.done = true) := by
      cases ok with
      | false => exact ⟨_, rfl, rfl, rfl, fun _ k hk hn => u.endTicket_done n stTimeout k hk hn⟩
      | true =>
        cases more with
        | false => exact ⟨_, rfl, rfl, rfl, fun _ k hk hn => u.endTicket_done n stOk k hk hn⟩
        | true => exact ⟨_, rfl, rfl, rfl, fun h => h.elim (by cases ·) (by cases ·)⟩
    rw [ht] at hex
    have htn : t.tensor id = w := by unfold State.tensor; rw [htt]; exact hut
    refine ⟨t, hex, by rw [htn]; exact hwc, by rw [htn]; exact hwk, by rw [htn]; exact hwr, fun h => ?_, fun j hj => by rw [htt]; exact huo j hj, ?_⟩
    · rw [htt] at h
      exact hdone (h.imp_right hmore)
    · have hall := htf.trans (congrArg (fun y : State => { y with sivar := t.sivar, mc := t.mc }) huf)
      rw [← htt] at hall
      exact hall
  case rows =>
    refine ⟨fun s q m c offset data hq hreach hoff hgrant => ?_, fun s q m c offset flash hq hreach hoff hgrant => ?_,
      fun s q m c offset flash data hq hreach hno => ?_, fun s q m c offset flash data hq hreach => ?_⟩
    · obtain ⟨u, hu, hud, hum, huq, hul, huf⟩ : ∃ u : State, ({ s with
            dram := writeBytes s.dram (q * 2 ^ 45 + offset) (fitBytes 512 data.bytes)
            quayMarks := (List.range 64).foldl (fun m w => putMark m ((q * 2 ^ 45 + offset) / 8 + w) (decide (w ∈ data.poison))) s.quayMarks } : State) = u
          ∧ u.dram = writeBytes s.dram (q * 2 ^ 45 + offset) (fitBytes 512 data.bytes)
          ∧ (∀ w, w < 64 → tget none u.quayMarks ((q * 2 ^ 45 + offset) / 8 + w) = if w ∈ data.poison then some .uncorrectable else none)
          ∧ u.quays = s.quays ∧ u.link = s.link
          ∧ u = { s with dram := u.dram, quayMarks := u.quayMarks, quays := u.quays, link := u.link, freeCtr := u.freeCtr } := by
        refine ⟨_, rfl, rfl, fun w hw => ?_, rfl, rfl, rfl⟩
        refine (tget_foldl_putMark_within (fun w => decide (w ∈ data.poison)) s.quayMarks _ 64 w hw).trans ?_
        unfold storedMark
        simp only [decide_eq_true_eq]
      obtain ⟨h1, h2, h3, h4, h5, h6, h7⟩ := State.answerRow_answers huf q m c offset 3 none
      have hex : exec (.quayRowWrite q m c offset false data) s = .next (u.answerRow q m c offset 3 none) := by
        refine (if_pos hq).trans (congrArg Host.Outcome.next ((if_neg ?_).trans ((if_pos ?_).trans ?_)))
        · rw [hreach]; decide
        · rw [hgrant]; simpa using hoff
        · rw [← hu]
      refine ⟨_, hex, ?_, fun w hw => by rw [h6]; exact hum w hw, ⟨h1, h2⟩, h3.trans huq, h4.trans hul, h7⟩
      rw [h5, hud]
      exact fun x => readByte_writeBytes _ _ _ _
    · obtain ⟨row, hrow, hlen, hbytes⟩ : ∃ row, quayRow s q m c offset flash = some row ∧ row.bytes.length = 512
          ∧ ∀ i b, i < 512 → readByte (if flash = true then s.flash else s.dram) (q * 2 ^ 45 + offset + i) = some b → row.bytes[i]? = some b := by
        have hplain : ¬ (!flash && decide (2 ^ 44 ≤ offset)) = true := by
          rcases hoff with h | h
          · rw [h]; simp
          · simp only [Bool.and_eq_true, decide_eq_true_eq, not_and]
            exact fun _ => by omega
        refine ⟨_, (if_neg hplain).trans (if_pos hgrant), ?_, fun i b hi hb => ?_⟩
        · unfold readBytes
          rw [List.length_map, List.length_range]
        · unfold readBytes
          rw [List.getElem?_map, List.getElem?_range hi, Option.map_some, hb]
          rfl
      obtain ⟨u, hu, hud, hum, huq, hul, huf⟩ : ∃ u : State, ({ s with link := some row } : State).bump = u ∧ u.dram = s.dram
          ∧ u.quayMarks = s.quayMarks ∧ u.quays = s.quays ∧ u.link = some row
          ∧ u = { s with dram := u.dram, quayMarks := u.quayMarks, quays := u.quays, link := u.link, freeCtr := u.freeCtr } :=
        ⟨_, rfl, rfl, rfl, rfl, rfl, rfl⟩
      obtain ⟨h1, h2, h3, h4, h5, h6, h7⟩ := State.answerRow_answers huf q m c offset 2 (some row)
      have hex : exec (.quayRowRead q m c offset flash) s = .next (u.answerRow q m c offset 2 (some row)) := by
        refine (if_pos hq).trans (congrArg Host.Outcome.next ((if_neg ?_).trans ?_))
        · rw [hreach]; decide
        · rw [hrow]
          dsimp only
          rw [hu]
      exact ⟨_, row, hex, h4.trans hul, hlen, hbytes, ⟨h1, h2⟩, h3.trans huq, h5.trans hud, h6.trans hum, h7⟩
    · obtain ⟨v, hv, hvr⟩ : ∃ v : Quay, { s.quay q with
            rejects := satAdd 32 (s.quay q).rejects 1
            rangeRejects := (s.quay q).rangeRejects + (if (!flash && decide (offset < 2 ^ 44 ∧ dramCap s q ≤ offset)) = true then 1 else 0) } = v
          ∧ v.rejects = satAdd 32 (s.quay q).rejects 1 := ⟨_, rfl, rfl⟩
      obtain ⟨u, hu, hud, hum, huq, hul, huf⟩ : ∃ u : State, s.quayReject q offset flash = u ∧ u.dram = s.dram
          ∧ u.quayMarks = s.quayMarks ∧ (∀ j, tget {} u.quays j = if j = q then v else s.quay j) ∧ u.link = none
          ∧ u = { s with dram := u.dram, quayMarks := u.quayMarks, quays := u.quays, link := u.link, freeCtr := u.freeCtr } := by
        refine ⟨_, rfl, rfl, rfl, fun j => ?_, rfl, rfl⟩
        unfold State.quayReject
        dsimp only
        rw [hv]
        exact State.setQuay_quay s q v j
      obtain ⟨h1, h2, h3, h4, h5, h6, h7⟩ := State.answerRow_answers huf q m c offset 4 none
      have hex : exec (.quayRowWrite q m c offset flash data) s = .next (u.answerRow q m c offset 4 none) := by
        refine (if_pos hq).trans (congrArg Host.Outcome.next ((if_neg ?_).trans ((if_neg ?_).trans ?_)))
        · rw [hreach]; decide
        · simp only [Bool.and_eq_true, Bool.not_eq_true', decide_eq_true_eq]
          rintro ⟨⟨hf, ho⟩, hg⟩
          rcases hno with h | h | h
          · rw [h] at hf; cases hf
          · omega
          · rw [h] at hg; cases hg
        · rw [hu]
      have hquay : ∀ j, tget {} (u.answerRow q m c offset 4 none).quays j = if j = q then v else s.quay j := fun j => by rw [h3]; exact huq j
      exact ⟨_, hex, h4.trans hul, ((congrArg Quay.rejects (hquay q)).trans (by rw [if_pos rfl])).trans hvr,
        fun j hj => (hquay j).trans (if_neg hj), ⟨h1, h2⟩, h5.trans hud, h6.trans hum, h7⟩
    · exact ⟨(if_pos hq).trans (congrArg Host.Outcome.next (if_pos (by rw [hreach]; rfl))),
        (if_pos hq).trans (congrArg Host.Outcome.next (if_pos (by rw [hreach]; rfl)))⟩

end Sys2Proof.Machine
end

section
/-! SUPPORT. The quays' memories, DRAM and flash, under the operations that store bytes in scratchpads or mailboxes alone. -/

namespace Sys2Proof.Machine


/-- DRAM and flash, of the four byte memories. -/
def tiersOf (m : List Host.Cell × List Host.Cell × List Host.Cell × List Host.Cell) : List Host.Cell × List Host.Cell := (m.2.1, m.2.2.1)

theorem State.dram_of_tiers {s t : State} (h : tiersOf t.memories = tiersOf s.memories) : t.dram = s.dram := congrArg Prod.fst h
theorem State.flash_of_tiers {s t : State} (h : tiersOf t.memories = tiersOf s.memories) : t.flash = s.flash := congrArg Prod.snd h

theorem State.tiers_of {s t : State} (hd : t.dram = s.dram) (hf : t.flash = s.flash) : tiersOf t.memories = tiersOf s.memories := by
  show (t.dram, t.flash) = (s.dram, s.flash)
  rw [hd, hf]

@[simp] theorem tiersOf_mk (a b c d : List Host.Cell) : tiersOf (a, b, c, d) = (b, c) := rfl

@[simp] theorem tiersOf_fold (s : State) : (s.dram, s.flash) = tiersOf s.memories := rfl

@[simp] theorem tiersOf_ite {p : Prop} [Decidable p] (a b : List Host.Cell × List Host.Cell × List Host.Cell × List Host.Cell) :
    tiersOf (if p then a else b) = if p then tiersOf a else tiersOf b := apply_ite tiersOf p a b

@[simp] theorem foldl_tiers {α : Type} {f : State → α → State} (hf : ∀ t a, tiersOf (f t a).memories = tiersOf t.memories) (l : List α) (s : State) :
    tiersOf (l.foldl f s).memories = tiersOf s.memories :=
  List.foldlRecOn (motive := fun t => tiersOf t.memories = tiersOf s.memories) l f rfl fun t ht a _ => (hf t a).trans ht

/-- Work of a core's engines stores in its scratchpad alone. -/
theorem EngStep.tiers {c : Nat} {s t : State} (e : EngStep c s t) : tiersOf t.memories = tiersOf s.memories := by
  have hrest := e.rest
  exact State.tiers_of (by rw [hrest]) (by rw [hrest])

/-! ### Of Machine/Operands.lean -/

@[simp] theorem State.writeRow_tiers (s : State) (c row : Nat) (d : Row) : tiersOf (s.writeRow c row d).memories = tiersOf s.memories :=
  (EngStep.writeRow c s row d).tiers
@[simp] theorem State.writeOut_tiers (s : State) (c a : Nat) (bs : List Byte) (bad : List Bool) (joinFirst joinLast : Bool) :
    tiersOf (s.writeOut c a bs bad joinFirst joinLast).memories = tiersOf s.memories := (EngStep.writeOut c s a bs bad joinFirst joinLast).tiers
@[simp] theorem drainJob_tiers (s : State) (c : Nat) (j : DrainJob) : tiersOf (drainJob s c j).memories = tiersOf s.memories := by
  simp only [drainJob, drainWs, drainOsp]
  split <;> simp
@[simp] theorem State.abandon_tiers (s : State) (c : Nat) : tiersOf (s.abandon c).memories = tiersOf s.memories := by
  unfold State.abandon
  extract_lets fs k0 hold arr k s1 t0 t1 late t2 t3
  have h0 : tiersOf t0.memories = tiersOf s.memories := (foldl_tiers (fun t j => drainJob_tiers t c j) _ _).trans (by simp [s1])
  have h1 : tiersOf t1.memories = tiersOf t0.memories := by
    refine foldl_tiers (fun t i => ?_) _ _
    exact foldl_tiers (fun t r => by simp) _ _
  have h2 : t2.memories = t1.memories := by
    simp only [t2, late]
    split
    · split <;> simp
    · rfl
  have h3 : t3.memories = t2.memories := by
    simp only [t3, late]
    split
    · split <;> simp
    · rfl
  simpa [h3, h2, h1] using h0

/-! ### Of Machine/Dma.lean -/

@[simp] theorem State.disableChannel_tiers (s : State) (c ch : Nat) : tiersOf (s.disableChannel c ch).memories = tiersOf s.memories := by
  have hend (u : State) (d e : Nat) : tiersOf (u.endTransfer d e).memories = tiersOf u.memories := by
    unfold State.endTransfer
    dsimp only
    rw [State.bump_memories, State.setCore_memories]
    split
    · exact foldl_tiers (fun t x => by split <;> simp) _ _
    · rfl
  simp only [State.disableChannel]
  split <;> simp [hend]
@[simp] theorem State.disableMask_tiers (s : State) (c mask : Nat) : tiersOf (s.disableMask c mask).memories = tiersOf s.memories := by
  unfold State.disableMask
  exact foldl_tiers (fun t x => by simp) _ _

/-! ### Of Machine/Sparing.lean -/

@[simp] theorem State.forgetPad_tiers (s : State) (c : Nat) (marks : Bool) : tiersOf (s.forgetPad c marks).memories = tiersOf s.memories := rfl
@[simp] theorem State.shiftSites_tiers (s : State) (site : Nat) : tiersOf (s.shiftSites site).memories = tiersOf s.memories := by
  unfold State.shiftSites
  exact (foldl_tiers (fun t r => by simp) _ _).trans (by simp)
@[simp] theorem State.applyFence_tiers (s : State) (cls unit : Nat) : tiersOf (s.applyFence cls unit).memories = tiersOf s.memories := by
  simp only [State.applyFence]
  split <;> simp
@[simp] theorem State.addFence_tiers (s : State) (cls origin flags unit : Nat) :
    tiersOf (s.addFence cls origin flags unit).1.memories = tiersOf s.memories := by
  simp [State.addFence]
@[simp] theorem State.shiftColumn_tiers (s : State) (site used origin flags : Nat) :
    tiersOf (s.shiftColumn site used origin flags).1.memories = tiersOf s.memories := by
  simp [State.shiftColumn]
@[simp] theorem State.addFenceLater_tiers (s : State) (cls origin flags unit : Nat) :
    tiersOf (s.addFenceLater cls origin flags unit).1.memories = tiersOf s.memories := by
  simp only [State.addFenceLater]
  split <;> simp
@[simp] theorem State.shiftLater_tiers (s : State) (site used origin flags : Nat) :
    tiersOf (s.shiftLater site used origin flags).1.memories = tiersOf s.memories := by
  simp [State.shiftLater]
@[simp] theorem State.applyPending_tiers (s : State) (p : Nat) : tiersOf (s.applyPending p).memories = tiersOf s.memories := by
  unfold State.applyPending
  exact (foldl_tiers (fun t x => by simp) _ _).trans rfl
@[simp] theorem State.substituteOffer_tiers (s : State) (later : Bool) (c p : Nat) :
    tiersOf (s.substituteOffer later c p).memories = tiersOf s.memories := by
  simp [State.substituteOffer]

/-! ### Of Machine/Resets.lean -/

@[simp] theorem State.coreStop_tiers (s : State) (c : Nat) : tiersOf (s.coreStop c).memories = tiersOf s.memories := by
  simp [State.coreStop]
@[simp] theorem State.coreClear_tiers (s : State) (c : Nat) : tiersOf (s.coreClear c).memories = tiersOf s.memories := by
  simp [State.coreClear]
@[simp] theorem State.coresReset_tiers (s : State) (cs : List Nat) : tiersOf (s.coresReset cs).memories = tiersOf s.memories := by
  unfold State.coresReset
  exact (foldl_tiers (fun t c => by simp) _ _).trans (foldl_tiers (fun t c => by simp) _ _)
@[simp] theorem State.partitionReset_tiers (s : State) (p : Nat) : tiersOf (s.partitionReset p).memories = tiersOf s.memories := by
  simp [State.partitionReset]

/-! ### Of Machine/Heat.lean -/

@[simp] theorem State.powerOff_tiers (s : State) (t : Nat) : tiersOf (s.powerOff t).memories = tiersOf s.memories := by
  simp [State.powerOff]
@[simp] theorem State.toCompute_tiers (s : State) (t : Nat) : tiersOf (s.toCompute t).memories = tiersOf s.memories := by
  simp [State.toCompute]
@[simp] theorem State.toDark_tiers (s : State) (t : Nat) : tiersOf (s.toDark t).memories = tiersOf s.memories := by
  simp [State.toDark]
theorem State.shedNow_tiers {s : State} {t : Nat} {go : State → State} (hgo : ∀ u : State, tiersOf (go u).memories = tiersOf u.memories) :
    tiersOf (s.shedNow t go).memories = tiersOf s.memories := by
  simp [State.shedNow, hgo]
@[simp] theorem State.shedDue_tiers (s : State) (t : Nat) : tiersOf (s.shedDue t).memories = tiersOf s.memories := by
  unfold State.shedDue
  split
  · rfl
  · dsimp only
    split
    · exact State.shedNow_tiers fun u => by simp
    · split
      · exact State.shedNow_tiers fun u => by simp
      · split
        · split
          · exact (State.shedNow_tiers fun u => by simp).trans (by simp)
          · simp
        · simp
        · simp
        · exact State.shedNow_tiers fun u => by simp
@[simp] theorem State.shedBand_tiers (s : State) (p : Nat) : tiersOf (s.shedBand p).memories = tiersOf s.memories := by
  unfold State.shedBand
  exact foldl_tiers (fun t x => by simp) _ _

/-! ### Of Machine/Marks.lean -/

@[simp] theorem State.partitionFault_tiers (s : State) (p : Nat) (f : Firing) (causes : List PFault) :
    tiersOf (s.partitionFault p f causes).memories = tiersOf s.memories := by
  unfold State.partitionFault
  dsimp only
  (repeat' split) <;> simp
@[simp] theorem State.partitionStop_tiers (s : State) (p : Nat) : tiersOf (s.partitionStop p).memories = tiersOf s.memories := by
  simp [State.partitionStop]
@[simp] theorem State.deferred_tiers (s : State) (p : Nat) : tiersOf (s.deferred p).memories = tiersOf s.memories := by
  unfold State.deferred
  exact (foldl_tiers (fun u d => by simp) _ _).trans (by simp)
@[simp] theorem State.fireEffects_tiers (s : State) (p : Nat) (f : Firing) : tiersOf (s.fireEffects p f).memories = tiersOf s.memories := by
  simp [State.fireEffects]
@[simp] theorem State.takePreempt_tiers (s : State) (p : Nat) (f : Firing) (ticket : Nat) :
    tiersOf (s.takePreempt p f ticket).memories = tiersOf s.memories := by
  simp [State.takePreempt]
@[simp] theorem State.fireOn_tiers (s : State) (p : Nat) (f : Firing) : tiersOf (s.fireOn p f).memories = tiersOf s.memories := by
  simp only [State.fireOn]
  split <;> simp
@[simp] theorem State.fireAt_tiers (s : State) (p : Nat) (f : Firing) (t : Nat) (causes : List PFault) :
    tiersOf (s.fireAt p f t causes).memories = tiersOf s.memories := by
  unfold State.fireAt
  dsimp only
  (repeat' split) <;> simp

/-! ### Of Machine/Launch.lean -/

@[simp] theorem State.substituteSite_tiers (s : State) (site p : Nat) : tiersOf (s.substituteSite site p).memories = tiersOf s.memories := by
  simp [State.substituteSite]
@[simp] theorem State.substituteBand_tiers (s : State) (p : Nat) : tiersOf (s.substituteBand p).memories = tiersOf s.memories := by
  simp [State.substituteBand]
@[simp] theorem State.launchNow_tiers (s : State) (p : Nat) : tiersOf (s.launchNow p).memories = tiersOf s.memories := by
  simp [State.launchNow]
@[simp] theorem State.resumeNow_tiers (s : State) (p : Nat) (point : ResumePoint) : tiersOf (s.resumeNow p point).memories = tiersOf s.memories := by
  simp [State.resumeNow]

/-! ### Of Machine/ModuleReset.lean -/

@[simp] theorem State.stopForReset_tiers (s : State) (p : Nat) : tiersOf (s.stopForReset p).memories = tiersOf s.memories := by
  simp [State.stopForReset]
@[simp] theorem State.beginDrain_tiers (s : State) : tiersOf (s.beginDrain).memories = tiersOf s.memories := by
  simp [State.beginDrain]

/-! ### Of Machine/Power.lean -/

@[simp] theorem State.drainToStandby_tiers (s : State) : tiersOf (s.drainToStandby).memories = tiersOf s.memories := by
  simp [State.drainToStandby]
@[simp] theorem State.shedFlow_tiers (s : State) (t : Nat) : tiersOf (s.shedFlow t).memories = tiersOf s.memories := by
  unfold State.shedFlow
  (repeat' split) <;> simp

end Sys2Proof.Machine
end

section
/-! SUPPORT. Firmware and fuses: upload, apply, the counter and the owner's key (R435-R442). -/

namespace Sys2Proof.Machine

/-! ### Commands that the recovery loader serves too (R441) -/

/-- A client's upload or apply that changes nothing answers its status. -/
theorem loaderCommand_unchanged {s : State} {cl : Client} {a : Bool} {f : State → State × Nat} {st : Nat} (hs : s.serving = true)
    (hc : clientStatus s cl a = none) (hf : f s.asked = (s.asked, st)) : s.loaderCommand cl a f = { s with resp := answered st } := by
  rw [State.loaderCommand_served _ _ _ _ hs hc, hf]
  rfl

/-! ### Applying a staged image (R440) -/

/-- An image that is staged is applied where every function is STOPPED, under a journalled ticket. -/
theorem doApply_staged {s : State} {due : Nat} (hst : s.fw.stagingState = 1) (hall : allStopped s = true)
    (hdue : due = s.now + 45000000000) : ∃ l k,
    doApply s = ({ s with
      mc := { s.mc with journal := s.mc.journal ++ [{ kind := jApply, unit := 0, effect := due, done := false }] }
      resp := { s.resp with flags := 1, ticket := s.sivar.nextTicket }
      fw := { s.fw with stagingState := 2, applyTicket := s.sivar.nextTicket }
      sivar := { s.sivar with tickets := l, nextTicket := s.sivar.nextTicket + 1 } }, stOk)
    ∧ List.getLast? l = some k ∧ k.number = s.sivar.nextTicket ∧ k.done = false ∧ k.journalled = true := by
  rw [show due = s.now + 30 * 1500000000 by omega]
  obtain ⟨l, k, hopen, hlast, hnum, hdone, -⟩ := (s.journal jApply 0 (s.now + 30 * 1500000000)).openTicket_opens 0xA000 3
  refine ⟨l.map (fun t => if t.number = s.sivar.nextTicket then { t with journalled := true } else t), { k with journalled := true }, ?_,
    ?_, hnum, hdone, rfl⟩
  · unfold doApply
    rw [if_neg (by omega), if_neg (by rw [hst, hall]; simp)]
    dsimp only
    rw [hopen]
    rfl
  · rw [List.getLast?_map, hlast, Option.map_some]
    exact congrArg some (if_pos hnum)

/-! ### The security counter (R438) -/

/-- Blowing fuses only journals. -/
theorem blown_frame (l : List Nat) (s : State) : ∃ m,
    l.foldl (fun (t : State) k => (t.journal jFuse k t.now).journalDone jFuse k) s = { s with mc := m } := by
  induction l generalizing s with
  | nil => exact ⟨s.mc, rfl⟩
  | cons k l ih =>
    obtain ⟨m, hm⟩ := ih ((s.journal jFuse k s.now).journalDone jFuse k)
    exact ⟨m, hm⟩

/-- The counter goes up to the running image's security version. -/
theorem doCounterAdvance_advances {s : State} (hst : s.fw.stagingState ≠ 2) (hlt : s.fw.counter < runningSecurity s) : ∃ m,
    doCounterAdvance s = ({ s with mc := m, fw := { s.fw with counter := runningSecurity s } }, stOk) := by
  obtain ⟨m, hm⟩ := blown_frame (List.range' s.fw.counter (runningSecurity s - s.fw.counter)) s
  refine ⟨m, ?_⟩
  unfold doCounterAdvance
  rw [if_neg hst, if_neg (by omega)]
  dsimp only
  rw [hm]

/-- The owner's key is fused once, by an image that it signs. -/
theorem doOwnerKeyFuse_signed {s : State} {hash : BitVec 512} {i : FirmwareImage} (hno : s.fw.ownerFused = false)
    (hrun : s.fw.running = some i) (hsig : ownerSigned i hash = true) :
    doOwnerKeyFuse hash s = ({ s with fw := { s.fw with ownerFused := true, ownerHash := hash } }, stOk) := by
  simp [doOwnerKeyFuse, hno, hrun, hsig]

/-! ### The obligation -/

/-- Settles O53: upload and apply go by their checks, and each command of the fuses by its own conditions (R435-R442). -/
theorem firmwareAndFuses : Obligations.FirmwareAndFuses := by
  unfold Obligations.FirmwareAndFuses
  refine ⟨?upload, ?fuses, ?spdm⟩
  case upload =>
    intro s cl img hs hc
    have hgo : ∀ {f st}, f s.asked = (s.asked, st) → s.loaderCommand cl true f = { s with resp := answered st } :=
      fun h => loaderCommand_unchanged hs hc h
    refine ⟨fun hst => congrArg Host.Outcome.next ?_, fun hst => ⟨congrArg Host.Outcome.next (hgo (if_pos hst)),
      congrArg Host.Outcome.next (hgo (if_pos hst))⟩, fun hst hall => ?_, fun hst hno => congrArg Host.Outcome.next (hgo ?_)⟩
    · rw [State.loaderCommand_served _ _ _ _ hs hc,
        show doFirmwareUpload img s.asked = _ from if_neg (show s.asked.fw.stagingState ≠ 2 from hst)]
      rfl
    · obtain ⟨due, hdue⟩ : ∃ due, due = s.now + 45000000000 := ⟨_, rfl⟩
      obtain ⟨l, k, hdo, hk⟩ := doApply_staged (s := s.asked) hst hall hdue
      exact ⟨_, congrArg Host.Outcome.next ((State.loaderCommand_served s cl true doApply hs hc).trans
          (congrArg (fun r : State × Nat => r.1.answer r.2) hdo)), rfl, rfl, ⟨k, hk⟩, ⟨_, rfl, rfl, rfl, hdue⟩, rfl⟩
    · exact (if_neg hst).trans (if_pos (hno.imp_right fun h => by rw [show allStopped s.asked = false from h]; rfl))
  case fuses =>
    intro s cl hs
    refine ⟨fun hst => congrArg Host.Outcome.next (command_changed hs
      (show doDiscardStaging s.asked = ({ s.asked with fw := { s.fw with stagingState := 0, staging := none } }, stOk) from if_neg hst) rfl),
      fun hst hlt => ?_,
      fun hst hle => congrArg Host.Outcome.next (command_unchanged hs ((if_neg hst).trans (if_pos hle))),
      fun hash i hno hrun => ⟨fun hsig => congrArg Host.Outcome.next (command_changed hs (doOwnerKeyFuse_signed (s := s.asked) hno hrun hsig) rfl),
        fun hsig => congrArg Host.Outcome.next (command_unchanged hs ?_)⟩,
      fun hash hyes => congrArg Host.Outcome.next (command_unchanged hs (if_pos hyes)), fun nonce hlen => ?_⟩
    · obtain ⟨m, hm⟩ := doCounterAdvance_advances (s := s.asked) hst hlt
      exact ⟨_, congrArg Host.Outcome.next (command_changed hs hm rfl), rfl, rfl, rfl⟩
    · simp [doOwnerKeyFuse, State.asked, hno, hrun, hsig]
    · exact ⟨_, congrArg Host.Outcome.next (command_changed hs (if_neg (not_not.2 hlen)) rfl), rfl, rfl, rfl⟩
  case spdm =>
    intro s i hi hs hup
    refine ⟨_, (if_pos hi).trans (congrArg Host.Outcome.next (if_neg ?_)), rfl, rfl, rfl⟩
    rw [hs, hup]
    decide

end Sys2Proof.Machine
end

section
/-! SUPPORT. Sessions: how they open and close (R401). -/

namespace Sys2Proof.Machine

/-- A table with one entry put is the same but there. -/
theorem sameBut_tput {α : Type} [DecidableEq α] (d : α) (m : List (Nat × α)) (k : Nat) (v : α) : SameBut d m (tput d m k v) k :=
  fun j hj => tget_tput_ne d m k j v hj

/-! ### What closes with a session (R401) -/

/-- A session that has closed: its slot is free, and neither its draft nor its report is left. -/
def SessionClosed (s t : State) (k : Nat) : Prop :=
  tget none t.sivar.sessions k = none ∧ SameBut none s.sivar.sessions t.sivar.sessions k
    ∧ (∀ d, t.sivar.draft = some d → d.owner ≠ .session k)
    ∧ (∀ d, s.sivar.draft = some d → d.owner ≠ .session k → t.sivar.draft = some d)
    ∧ t.fw = { s.fw with reports := s.fw.reports.filter (fun e => e.1 != .session k) }

/-- What `closeSession` closes. -/
theorem State.closeSession_closed (s : State) (k : Nat) : SessionClosed s (s.closeSession k) k := by
  have hsame : SameBut none s.sivar.sessions (s.closeSession k).sivar.sessions k := sameBut_tput none s.sivar.sessions k none
  refine ⟨tget_tput_same none s.sivar.sessions k none, hsame, fun d hd => ?_, fun d hd ho => ?_, rfl⟩
  · cases hdr : s.sivar.draft with
    | none => simp [State.closeSession, hdr] at hd
    | some e =>
      by_cases he : e.owner = .session k
      · simp [State.closeSession, hdr, he] at hd
      · have : e = d := by simpa [State.closeSession, hdr, he] using hd
        exact this ▸ he
  · simp [State.closeSession, hd, ho]

/-- Closing a session touches the sessions, the draft and the reports. -/
theorem State.closeSession_frame (s : State) (k : Nat) :
    s.closeSession k = { s with sivar := (s.closeSession k).sivar, fw := (s.closeSession k).fw } := rfl

/-- After a session closes its slot has none, and every other slot has its own. -/
theorem State.session_closeSession (s : State) (k j : Nat) :
    (s.closeSession k).session j = if j = k then none else s.session j := by
  obtain ⟨hgone, hothers, -⟩ := s.closeSession_closed k
  unfold State.session
  by_cases h : j = k
  · rw [if_pos h, h, hgone]
  · rw [if_neg h, hothers j h]

/-- CLOSE_SESSIONS over a list of slots. -/
theorem closeSessions_closed (cl : Client) (l : List Nat) (s : State) :
    ∃ t, l.foldl (fun (t : State) k => if (t.session k).isNone ∨ cl = .session k then t else t.closeSession k) s = t
      ∧ (∀ j, t.session j = if j ∈ l ∧ cl ≠ .session j then none else s.session j)
      ∧ t = { s with sivar := t.sivar, fw := t.fw } := by
  induction l generalizing s with
  | nil => exact ⟨s, rfl, fun j => by simp, rfl⟩
  | cons k l ih =>
    rw [List.foldl_cons]
    by_cases hk : (s.session k).isNone ∨ cl = .session k
    · rw [if_pos hk]
      obtain ⟨t, ht, hses, hfr⟩ := ih s
      refine ⟨t, ht, fun j => (hses j).trans ?_, hfr⟩
      by_cases hj : j = k
      · rcases hk with hk | hk
        · simp [hj, Option.isNone_iff_eq_none.1 hk]
        · simp [hj, hk]
      · simp [hj]
    · rw [if_neg hk]
      obtain ⟨t, ht, hses, hfr⟩ := ih (s.closeSession k)
      refine ⟨t, ht, fun j => (hses j).trans ?_, hfr.trans (congrArg (fun y : State => { y with sivar := t.sivar, fw := t.fw })
        (s.closeSession_frame k))⟩
      rw [s.session_closeSession]
      by_cases hj : j = k
      · simp [hj, not_or.1 hk]
      · simp [hj]

/-! ### The open session of an ID -/

/-- An ID with an open session has a session. -/
theorem openOf_eq_some {s : State} {sid i : Nat} {x : Session} : openOf s sid = some (i, x) ↔ slotOfId s sid = some (i, x) ∧ x.phase = 2 := by
  unfold openOf
  cases h : slotOfId s sid with
  | none => simp
  | some e =>
    dsimp only
    constructor
    · intro he
      split at he
      next h2 => cases he; exact ⟨rfl, h2⟩
      next => cases he
    · rintro ⟨he, h2⟩
      cases he
      exact if_pos h2

/-! ### What HELLO and PROVE do -/

/-- HELLO within the ranges, for a key slot in use, takes the first free session slot. -/
theorem execHello_free {s : State} {k m : Nat} {notify : Bool} {nonce kem : List Byte} {i : Nat} (hs : s.serving = true)
    (hr : ¬ (15 < k ∨ m < 1280 ∨ 9000 < m)) (hkey : s.cfgBytes 0xA000 (0x20 + k) ≠ [])
    (hi : (List.range 8).find? (fun j => (tget none s.sivar.sessions j).isNone) = some i) : ∃ x d,
    execHello k m notify nonce kem s = .next { s with
        sivar := { s.sivar with sessions := tput none s.sivar.sessions i (some x), nextSession := s.sivar.nextSession + 1 }
        resp := { status := stOk, data := d, executed := 1 }, freeCtr := s.freeCtr + 1 }
      ∧ x.id = s.sivar.nextSession ∧ x.slot = k ∧ x.phase = 1 ∧ x.challengedAt = s.now ∧ x.maxDatagram = m ∧ x.notify = notify := by
  unfold execHello
  rw [if_neg (by rw [hs]; decide)]
  dsimp only
  rw [if_neg hr, if_neg (by simpa using hkey), hi]
  exact ⟨_, _, rfl, rfl, rfl, rfl, rfl, rfl, rfl⟩

/-- A message of an ID with no session is dropped. -/
theorem slotOfId_none_drops {s : State} {sid : Nat} {sig : List Byte} (hs : s.serving = true) (h : slotOfId s sid = none) :
    execProve sid sig s = .next s.dropMessage := by
  unfold execProve
  rw [if_neg (by rw [hs]; decide), h]

/-- PROVE in time: the signature decides. -/
theorem execProve_timely {s : State} {sid i : Nat} {x : Session} {sig : List Byte} (hs : s.serving = true)
    (h : slotOfId s sid = some (i, x)) (hp : x.phase = 1) (ht : s.now ≤ x.challengedAt + 15000000000) :
    (s.cfgBytes 0xA000 (0x20 + x.slot) ≠ [] → Config.mldsaVerify ((s.cfgBytes 0xA000 (0x20 + x.slot)).drop 8) x.transcript sig = true →
      ∃ y d, y = { x with phase := 2, role := leAt (s.cfgBytes 0xA000 (0x20 + x.slot)) 0 1, acceptedAt := s.now, lastValid := s.now }
        ∧ execProve sid sig s = .next { s with
        sivar := { s.sivar with sessions := tput none s.sivar.sessions i (some y) }
        resp := { status := stOk, data := d, executed := 1 } })
    ∧ (s.cfgBytes 0xA000 (0x20 + x.slot) = [] ∨
        Config.mldsaVerify ((s.cfgBytes 0xA000 (0x20 + x.slot)).drop 8) x.transcript sig = false →
      execProve sid sig s = .next { s.closeSession i with resp := answered stAuth }) := by
  have hlate : ¬ x.challengedAt + 10 * second < s.now := by
    have : 10 * second = 15000000000 := rfl
    omega
  unfold execProve
  rw [if_neg (by rw [hs]; decide), h]
  dsimp only
  rw [if_neg (by omega), if_neg hlate]
  constructor
  · intro hk hv
    rw [if_pos (by simp [hk, hv])]
    exact ⟨_, _, rfl, rfl⟩
  · intro hno
    rw [if_neg (by rcases hno with h | h <;> simp [h])]
    rfl

/-- CLOSE of an open session goes by its tag; of none it is dropped. -/
theorem execClose_cases {s : State} {sid : Nat} {ok : Bool} (hs : s.serving = true) :
    (∀ i x, openOf s sid = some (i, x) → execClose sid true s = .next (s.closeSession i))
    ∧ (openOf s sid = none ∨ ok = false → execClose sid ok s = .next s.dropMessage) := by
  have hserve : ¬ (!s.serving) = true := by rw [hs]; decide
  unfold execClose
  refine ⟨fun i x h => ?_, fun h => ?_⟩
  · rw [if_neg hserve, h]
    rfl
  · rw [if_neg hserve]
    rcases h with h | h
    · rw [h]
    · subst h
      cases openOf s sid <;> rfl

/-! ### The obligation -/

/-- A session that closes after an advance of the clock. -/
theorem State.closeSession_advanced (s : State) (at' k : Nat) :
    SessionClosed s ((s.advance at').closeSession k) k ∧ ((s.advance at').closeSession k).now = max s.now at'
      ∧ (s.advance at').closeSession k = { s with
          sivar := ((s.advance at').closeSession k).sivar, fw := ((s.advance at').closeSession k).fw
          now := ((s.advance at').closeSession k).now, rtc := ((s.advance at').closeSession k).rtc } :=
  ⟨(s.advance at').closeSession_closed k, rfl, rfl⟩

/-- Settles O46: HELLO and PROVE open a session, and what closes it frees its slot (R401, R402). -/
theorem sessionsOpenAndClose : Obligations.SessionsOpenAndClose := by
  unfold Obligations.SessionsOpenAndClose
  refine ⟨?hello, ?prove, fun s sid sig hs h => slotOfId_none_drops hs h, ?close, ?proveTimeout, ?timeouts, ?closeSessions⟩
  case hello =>
    intro s k m notify nonce kem hs
    have hserve : ¬ (!s.serving) = true := by rw [hs]; decide
    refine ⟨fun h15 h1280 h9000 hkey i hi => ?_, fun h15 h1280 h9000 hkey hfull => congrArg Host.Outcome.next ?_,
      fun h15 h1280 h9000 hkey => congrArg Host.Outcome.next ?_, fun hr => congrArg Host.Outcome.next ?_⟩
    · obtain ⟨x, d, hex, hid, hslot, hphase, hat, hmax, hnot⟩ := execHello_free (notify := notify) (nonce := nonce) (kem := kem) hs
        (by omega : ¬ (15 < k ∨ m < 1280 ∨ 9000 < m)) hkey hi
      exact ⟨_, x, hex, rfl, tget_tput_same none s.sivar.sessions i (some x), hid, hslot, hphase, hat, hmax, hnot, rfl,
        sameBut_tput none s.sivar.sessions i (some x), rfl, rfl⟩
    · have hnone : (List.range 8).find? (fun j => (tget none s.sivar.sessions j).isNone) = none :=
        List.find?_eq_none.2 fun j hj h => hfull j (List.mem_range.1 hj) (Option.isNone_iff_eq_none.1 h)
      rw [if_neg hserve]
      dsimp only
      rw [if_neg (by omega), if_neg (by simpa using hkey), hnone]
      rfl
    · rw [if_neg hserve]
      dsimp only
      rw [if_neg (by omega), if_pos (by simpa using hkey)]
      rfl
    · rw [if_neg hserve]
      dsimp only
      rw [if_pos hr]
      rfl
  case prove =>
    intro s sid sig i x hs hx hp ht
    obtain ⟨hok, hbad⟩ := execProve_timely (sig := sig) hs hx hp ht
    refine ⟨fun hk hv => ?_, fun hno => ⟨_, hbad hno, rfl, s.closeSession_closed i, rfl⟩⟩
    obtain ⟨y, d, hy, hd⟩ := hok hk hv
    exact ⟨_, hd, rfl, hy ▸ tget_tput_same none s.sivar.sessions i (some y), sameBut_tput none s.sivar.sessions i (some y), rfl, rfl⟩
  case close =>
    intro s sid hs
    exact ⟨fun i x h => ⟨_, (execClose_cases (ok := true) hs).1 i x h, s.closeSession_closed i, rfl⟩,
      fun h ok => (execClose_cases hs).2 (Or.inl h), (execClose_cases hs).2 (Or.inr rfl)⟩
  case proveTimeout =>
    intro s sid i x hx hp
    refine ⟨(s.advance (x.challengedAt + 15000000000)).closeSession i, congrArg Host.Outcome.next ?_, ?_⟩
    · rw [hx]
      exact if_neg (not_not.2 hp)
    · exact s.closeSession_advanced _ i
  case timeouts =>
    intro s sid i x hx
    refine ⟨⟨(s.advance (x.lastValid + 90000000000)).closeSession i, congrArg Host.Outcome.next ?_, ?_⟩,
      (s.advance (x.acceptedAt + 129600000000000)).closeSession i, congrArg Host.Outcome.next ?_, ?_⟩
    · rw [hx]
      rfl
    · exact s.closeSession_advanced _ i
    · rw [hx]
      rfl
    · exact s.closeSession_advanced _ i
  case closeSessions =>
    intro s cl hs
    obtain ⟨t, ht, hses, hfr⟩ := closeSessions_closed cl (List.range 8) s.asked
    have hdo : doCloseSessions cl s.asked = (t, stOk) := congrArg (·, stOk) ht
    refine ⟨_, congrArg Host.Outcome.next (command_changed hs hdo ((congrArg State.resp hfr).trans rfl)), rfl, fun k hk => ?_,
      congrArg (fun y : State => { y with resp := answered stOk }) hfr⟩
    refine (hses k).trans ?_
    by_cases hcl : cl = .session k
    · simp [hcl]; rfl
    · simp [hcl, hk]

end Sys2Proof.Machine
end

section
/-! SUPPORT. Requests, request slots and mailbox rows (R397, R403, R408, R414). -/

namespace Sys2Proof.Machine

/-! ### The operations of a message run in order (R397, R403) -/

/-- At least one operation of a nonempty message is executed, and all of them unless one is not OK. -/
theorem runOps_counts (cl : Client) (cap : Nat) (ops : List SivarOp) (s : State) (body : List Byte) (n : Nat) :
    let r := runOps cl cap ops s body n
    n ≤ r.2.2 ∧ (ops ≠ [] → n < r.2.2) ∧ r.2.2 ≤ n + ops.length ∧ (r.2.2 < n + ops.length → r.1.resp.status ≠ stOk) := by
  induction ops generalizing s body n with
  | nil => exact ⟨Nat.le_refl n, fun h => absurd rfl h, Nat.le_refl n, fun h => absurd h (Nat.lt_irrefl n)⟩
  | cons o rest ih =>
    dsimp only [runOps]
    rw [List.length_cons]
    split
    next hbad => exact ⟨Nat.le_succ n, fun _ => Nat.lt_succ_self n, by dsimp only; omega, fun _ => hbad⟩
    next =>
      obtain ⟨hle, -, htop, hst⟩ := ih (s.perform cl o)
        (body ++ resultBytes o (s.perform cl o).resp (cap - body.length - 16 - 16 * rest.length)) (n + 1)
      exact ⟨by omega, fun _ => by omega, by omega, fun h => hst (by omega)⟩

/-! ### REQUEST -/

/-- A stored session. -/
theorem State.putSession_puts (s : State) (i : Nat) (x : Session) :
    tget none (s.putSession i x).sivar.sessions i = some x ∧ SameBut none s.sivar.sessions (s.putSession i x).sivar.sessions i :=
  ⟨tget_tput_same none s.sivar.sessions i (some x), sameBut_tput none s.sivar.sessions i (some x)⟩

/-- A valid request of an open session goes by its number. -/
theorem execRequest_valid {s : State} {sid seq i : Nat} {x : Session} {ops : List SivarOp} (hs : s.serving = true)
    (hx : openOf s sid = some (i, x)) (hne : ops ≠ []) (hlen : ops.length ≤ 64) :
    let a := s.putSession i { x with lastValid := s.now }
    let m := a.message (.session i) ops
    (newNumber x seq = true →
      (∀ e, openOf m sid = some e → ∃ u, m.putSession i (keepResponse e.2 seq m.resp s.now) = u
        ∧ execRequest sid seq true ops s = .next { u with sivar := { u.sivar with turn := 2 } })
      ∧ (openOf m sid = none → execRequest sid seq true ops s = .next m))
    ∧ (newNumber x seq = false →
      (∀ e, x.kept.find? (fun e => e.1 == seq) = some e → execRequest sid seq true ops s = .next { a with resp := e.2 })
      ∧ (x.kept.find? (fun e => e.1 == seq) = none → execRequest sid seq true ops s = .next a.dropMessage)) := by
  intro a m
  have hserve : ¬ (!s.serving) = true := by rw [hs]; decide
  have hlong : ¬ (ops.isEmpty = true ∨ 64 < ops.length) := by simpa [hne] using hlen
  refine ⟨fun hnew => ⟨fun e he => ⟨_, rfl, ?_⟩, fun he => ?_⟩, fun hold => ⟨fun e he => ?_, fun he => ?_⟩⟩
  all_goals
    unfold execRequest
    rw [if_neg hserve, hx]
    dsimp only
    rw [if_neg (by decide), if_neg hlong]
  · rw [if_pos hnew, he]
  · rw [if_pos hnew, he]
  · rw [if_neg (by rw [hold]; decide), he]
  · rw [if_neg (by rw [hold]; decide), he]

/-- A request whose tag fails is dropped. -/
theorem execRequest_untagged {s : State} {sid seq i : Nat} {x : Session} {ops : List SivarOp} (hs : s.serving = true)
    (hx : openOf s sid = some (i, x)) : execRequest sid seq false ops s = .next s.dropMessage := by
  unfold execRequest
  rw [if_neg (by rw [hs]; decide), hx]
  rfl

/-! ### Request slots (R408) -/

/-- The controller's mark on a slot that it took. -/
theorem State.endSlot_marks (s : State) (i slot : Nat) (x : Slot) :
    tget {} ((s.endSlot i slot x).host i).slots slot = x ∧ ((s.endSlot i slot x).host i).lastSlot = slot
      ∧ (x.interrupt = true → 0 ∈ ((s.endSlot i slot x).host i).msix) ∧ SameBut {} s.hosts (s.endSlot i slot x).hosts i
      ∧ (s.endSlot i slot x).sivar = { s.sivar with turn := i }
      ∧ s.endSlot i slot x = { s with hosts := (s.endSlot i slot x).hosts, sivar := (s.endSlot i slot x).sivar } := by
  obtain ⟨h, hh⟩ : ∃ h, h = { s.host i with
    slots := tput {} (s.host i).slots slot x, lastSlot := slot, msix := if x.interrupt then addOnce (s.host i).msix 0 else (s.host i).msix } :=
    ⟨_, rfl⟩
  have hput : (s.endSlot i slot x).host i = h := hh ▸ tget_tput_same _ _ _ _
  refine ⟨?_, ?_, fun hi => ?_, sameBut_tput {} s.hosts i _, rfl, rfl⟩
  · rw [hput, hh]
    exact tget_tput_same _ _ _ _
  · rw [hput, hh]
  · rw [hput, hh]
    dsimp only
    rw [if_pos hi]
    unfold addOnce
    split
    next h0 => exact h0
    next => exact List.mem_append_right _ (List.mem_singleton.2 rfl)

/-- The requests that a slot may hold: carried out, refused without IDE, or malformed. -/
theorem execSlotTaken_cases {s : State} {port slot tag len zf : Nat} {interrupt : Bool} {ops : List SivarOp} (hp : port < 2)
    (hs : s.serving = true) (hup : (s.host port).up = true) (hslot : slot ≤ 127) :
    let m := s.message (.pcie port) ops
    (len ≤ 32704 → ops.length ≤ 64 → zf = 0 → s.cfg 0x2000 0x24 ≠ 1 ∨ (s.host port).ide = true →
      exec (.slotTaken port slot interrupt tag len zf ops) s = .next (m.endSlot port slot
          { interrupt := interrupt, tag := tag, state := 3, executed := m.resp.executed, status := m.resp.status, response := m.resp.data }))
    ∧ (len ≤ 32704 → ops.length ≤ 64 → zf = 0 → s.cfg 0x2000 0x24 = 1 → (s.host port).ide = false → ∃ r,
      exec (.slotTaken port slot interrupt tag len zf ops) s
        = .next (({ s with resp := r } : State).endSlot port slot { interrupt := interrupt, tag := tag, state := 4, status := stAuth }))
    ∧ (32704 < len ∨ 64 < ops.length ∨ zf ≠ 0 → ∃ r st,
      exec (.slotTaken port slot interrupt tag len zf ops) s
        = .next (({ s with resp := r } : State).endSlot port slot { interrupt := interrupt, tag := tag, state := 4, status := st }).bump) := by
  have hserve : ¬ (!s.serving || !(s.host port).up || decide (127 < slot)) = true := by simp [hs, hup, hslot]
  refine ⟨fun hl ho hz hide => ?_, fun hl ho hz hc hide => ⟨{ status := stAuth }, ?_⟩,
    fun hbad => ⟨{ status := Config.freeNat s.freeCtr slot % 65536 }, Config.freeNat s.freeCtr slot % 65536, ?_⟩⟩
  · refine (if_pos hp).trans (congrArg Host.Outcome.next ((if_neg hserve).trans ?_))
    dsimp only
    rw [if_neg (by omega), if_neg (by rcases hide with h | h <;> simp [h])]
  · refine (if_pos hp).trans (congrArg Host.Outcome.next ((if_neg hserve).trans ?_))
    dsimp only
    rw [if_neg (by omega), if_pos ⟨hc, by rw [hide]; decide⟩]
  · refine (if_pos hp).trans (congrArg Host.Outcome.next ((if_neg hserve).trans ?_))
    dsimp only
    rw [if_pos hbad]

/-! ### Mailbox rows (R414) -/

/-- A row that the controller takes into its partition's mailbox. -/
theorem execMailboxRowWrite_stores {s : State} {c p row : Nat} {data : Row} (hs : s.serving = true) (hp : p < 8)
    (hc : coreExists s c = true) (hpc : s.partOfCore c = some p) (hrow : row ≤ 255) (hlen : data.bytes.length = 512) :
    exec (.mailboxRowWrite c p row data) s = .next (({ s with
        mail := writeBytes s.mail (mailAt p row) data.bytes
        mailMarks := (List.range 64).foldl (fun m w => putMark m (wordOf (mailAt p row) + w) (decide (w ∈ data.poison))) s.mailMarks
        } : State).setCtl p { s.ctlOf p with
          mailRecords := tput (0, false, 0) (s.ctlOf p).mailRecords row
            (satAdd 32 (tget (0, false, 0) (s.ctlOf p).mailRecords row).1 1, data.poison != [], s.now) }) := by
  refine (if_neg (by omega)).trans ((onCore_exists _ hc).trans (congrArg Host.Outcome.next ?_))
  rw [if_neg (by simp [hs, hpc, hrow])]
  dsimp only
  rw [fitBytes_of_length _ _ hlen]

/-! ### The obligation -/

/-- Settles O47: a message's operations run in order, a slot ends with its results, a mailbox row is stored whole (R397, R403, R408, R414). -/
theorem requestsSlotsAndMailboxes : Obligations.RequestsSlotsAndMailboxes := by
  unfold Obligations.RequestsSlotsAndMailboxes
  refine ⟨?message, ?request, ?slot, ?mailbox⟩
  case message =>
    intro s cl ops hne
    obtain ⟨-, hpos, htop, hst⟩ := runOps_counts cl (roomOf s cl) ops { s with resp := {} } [] 0
    rw [Nat.zero_add] at htop hst
    exact ⟨hpos hne, htop, hst⟩
  case request =>
    intro s sid seq ops i x hs hx hne hlen
    obtain ⟨hnew, hold⟩ := execRequest_valid (seq := seq) hs hx hne hlen
    obtain ⟨a, ha⟩ : ∃ a, s.putSession i { x with lastValid := s.now } = a := ⟨_, rfl⟩
    obtain ⟨hput, hsame⟩ := s.putSession_puts i { x with lastValid := s.now }
    obtain ⟨l, hl⟩ : ∃ l, a = { s with sivar := { s.sivar with sessions := l } } := ⟨_, ha.symm⟩
    rw [ha] at hnew hold hput hsame
    refine ⟨fun hn => ?_, fun hn => ?_, execRequest_untagged hs hx⟩
    · rw [ha]
      obtain ⟨m, hm⟩ : ∃ m, a.message (.session i) ops = m := ⟨_, rfl⟩
      dsimp only at hnew ⊢
      rw [hm] at hnew ⊢
      obtain ⟨hopen, hgone⟩ := hnew hn
      cases he : openOf m sid with
      | none => exact ⟨m, hgone he, rfl, fun e h => absurd h (by simp), fun _ => rfl⟩
      | some e =>
        obtain ⟨u, hu, hex⟩ := hopen e he
        obtain ⟨hputm, hsamem⟩ := m.putSession_puts i (keepResponse e.2 seq m.resp s.now)
        have hufr : u = { m with sivar := u.sivar } := hu ▸ rfl
        rw [hu] at hputm hsamem
        refine ⟨_, hex, (congrArg State.resp hufr).trans rfl, fun e' h' => ?_, fun h => absurd h (by simp)⟩
        obtain rfl : e = e' := Option.some.inj h'
        exact ⟨hputm, hsamem, rfl, congrArg (fun y : State => { y with sivar := { u.sivar with turn := 2 } }) hufr⟩
    · obtain ⟨hagain, hunknown⟩ := hold hn
      subst hl
      cases hk : x.kept.find? (fun e => e.1 == seq) with
      | some e =>
        exact ⟨_, hagain e hk, fun e' h' => ⟨congrArg Prod.snd (Option.some.inj h'), rfl⟩, fun h => absurd h (by simp), hput, hsame, rfl, rfl⟩
      | none => exact ⟨_, hunknown hk, fun e' h' => absurd h' (by simp), fun _ => ⟨rfl, rfl⟩, hput, hsame, rfl, rfl⟩
  case slot =>
    intro s port slot interrupt tag len zf ops hp hs hup hslot
    obtain ⟨hdone, hrefused, hbad⟩ := execSlotTaken_cases (tag := tag) (len := len) (zf := zf) (interrupt := interrupt) (ops := ops)
      hp hs hup hslot
    refine ⟨fun hl ho hz hide => ?_, fun hl ho hz hc hide => ?_, fun hw => ?_⟩
    · obtain ⟨m, hm⟩ : ∃ m, s.message (.pcie port) ops = m := ⟨_, rfl⟩
      dsimp only at hdone ⊢
      rw [hm] at hdone ⊢
      obtain ⟨h1, h2, h3, h4, h5, h6⟩ := m.endSlot_marks port slot
          { interrupt := interrupt, tag := tag, state := 3, executed := m.resp.executed, status := m.resp.status, response := m.resp.data }
      exact ⟨_, hdone hl ho hz hide, rfl, ⟨h1, h2, h3, h4, h5⟩, h6⟩
    · obtain ⟨r, hr⟩ := hrefused hl ho hz hc hide
      obtain ⟨h1, h2, h3, h4, h5, h6⟩ := ({ s with resp := r } : State).endSlot_marks port slot
        { interrupt := interrupt, tag := tag, state := 4, status := stAuth }
      exact ⟨_, hr, ⟨h1, h2, h3, h4, h5⟩, h6⟩
    · obtain ⟨r, st, hr⟩ := hbad hw
      obtain ⟨h1, h2, h3, h4, h5, h6⟩ := ({ s with resp := r } : State).endSlot_marks port slot
        { interrupt := interrupt, tag := tag, state := 4, status := st }
      exact ⟨_, st, hr, ⟨h1, h2, h3, h4, h5⟩, congrArg State.bump h6⟩
  case mailbox =>
    intro s c p row data hs hp hc hpc hrow hlen
    have hex := execMailboxRowWrite_stores hs hp hc hpc hrow hlen
    refine ⟨_, hex, fun x => ?_, ?_, fun w hw => ?_, ?_, fun j hj => State.setCtl_ctlOf_ne _ _ _ j hj, rfl⟩
    · exact readByte_writeBytes _ _ _ _
    · rw [State.setCtl_ctlOf_same]
      exact tget_tput_same _ _ _ _
    · refine (tget_foldl_putMark_within (fun w => decide (w ∈ data.poison)) s.mailMarks _ 64 w hw).trans ?_
      unfold storedMark
      simp
    · rw [State.setCtl_ctlOf_same]
      exact sameBut_tput _ _ _ _

end Sys2Proof.Machine
end

section
/-! SUPPORT. What a change of a port's outcome leaves alone (R339, R340, R214). -/

namespace Sys2Proof.Machine

/-! ### The state around the ports -/

/-- Everything but what a port's new outcome may touch: the ports and the records of the quays' lanes, frames and packets that go out
again, and the events. -/
def State.aroundPorts (s : State) : State :=
  { s with ports := [], quays := [], log := {}, hosts := [], sivar := {}, fabric := {}, intakes := [], freeCtr := 0 }

/-- What leaves the state around the ports alone is told by the ports' own parts. -/
theorem State.of_aroundPorts {s t : State} (h : t.aroundPorts = s.aroundPorts) : t = { s with
    ports := t.ports, quays := t.quays, log := t.log, hosts := t.hosts, sivar := t.sivar, fabric := t.fabric
    intakes := t.intakes, freeCtr := t.freeCtr } :=
  congrArg (fun y : State => { y with
    ports := t.ports, quays := t.quays, log := t.log, hosts := t.hosts, sivar := t.sivar, fabric := t.fabric
    intakes := t.intakes, freeCtr := t.freeCtr }) h

@[simp] theorem State.setPort_aroundPorts (s : State) (i : Nat) (v : Port) : (s.setPort i v).aroundPorts = s.aroundPorts := rfl
@[simp] theorem State.bump_aroundPorts (s : State) : s.bump.aroundPorts = s.aroundPorts := rfl
@[simp] theorem State.setIntake_aroundPorts (s : State) (k : Nat) (v : Intake) : (s.setIntake k v).aroundPorts = s.aroundPorts := rfl
@[simp] theorem State.setQuay_aroundPorts (s : State) (q : Nat) (v : Quay) : (s.setQuay q v).aroundPorts = s.aroundPorts := rfl
@[simp] theorem State.event_aroundPorts (s : State) (a b c d : Nat) : (s.event a b c d).aroundPorts = s.aroundPorts := by
  rw [s.event_frame]
  rfl

theorem foldl_aroundPorts {α : Type} {f : State → α → State} (hf : ∀ t a, (f t a).aroundPorts = t.aroundPorts) (l : List α) (s : State) :
    (l.foldl f s).aroundPorts = s.aroundPorts :=
  List.foldlRecOn (motive := fun t => t.aroundPorts = s.aroundPorts) l f rfl fun t ht a _ => (hf t a).trans ht

@[simp] theorem State.resendFrame_aroundPorts (s : State) (key i : Nat) : (s.resendFrame key i).aroundPorts = s.aroundPorts := by
  unfold State.resendFrame
  dsimp only
  split
  · rfl
  · split <;> rfl

@[simp] theorem State.resendFrames_aroundPorts (s : State) : s.resendFrames.aroundPorts = s.aroundPorts := by
  refine foldl_aroundPorts (fun t key => foldl_aroundPorts (fun u i => ?_) _ t) _ s
  split
  · split_ifs <;> simp
  · rfl

@[simp] theorem State.putPacket_aroundPorts (s : State) (q : Nat) (h : BitVec 256) (d : List Byte) :
    (s.putPacket q h d).aroundPorts = s.aroundPorts := by
  unfold State.putPacket
  split <;> rfl

@[simp] theorem State.resendAll_aroundPorts (s : State) (i : Nat) : (s.resendAll i).aroundPorts = s.aroundPorts := by
  simp only [State.resendAll]
  split_ifs
  · rw [State.bump_aroundPorts]
    exact (foldl_aroundPorts (fun t e => by simp) _ _).trans s.resendFrames_aroundPorts
  · simp

@[simp] theorem State.notePort_aroundPorts (s : State) (i : Nat) (old : Port) : (s.notePort i old).aroundPorts = s.aroundPorts := by
  simp only [State.notePort]
  split_ifs <;> simp

@[simp] theorem State.weighPort_aroundPorts (s : State) (i : Nat) : (s.weighPort i).aroundPorts = s.aroundPorts := by
  simp only [State.weighPort]
  split_ifs <;> simp

@[simp] theorem State.changePort_aroundPorts (s : State) (i : Nat) (v : Port) : (s.changePort i v).aroundPorts = s.aroundPorts := by
  simp only [State.changePort]
  split_ifs <;> simp

@[simp] theorem State.pinNarrow_aroundPorts (s : State) (i : Nat) : (s.pinNarrow i).aroundPorts = s.aroundPorts := by
  simp only [State.pinNarrow, State.pinDown]
  split_ifs <;> simp

/-! ### The ports themselves -/

@[simp] theorem State.resendFrame_ports (s : State) (key i : Nat) : (s.resendFrame key i).ports = s.ports := by
  unfold State.resendFrame
  dsimp only
  split
  · rfl
  · split <;> rfl

theorem foldl_ports {α : Type} {f : State → α → State} (hf : ∀ t a, (f t a).ports = t.ports) (l : List α) (s : State) :
    (l.foldl f s).ports = s.ports :=
  List.foldlRecOn (motive := fun t => t.ports = s.ports) l f rfl fun t ht a _ => (hf t a).trans ht

@[simp] theorem State.resendFrames_ports (s : State) : s.resendFrames.ports = s.ports := by
  refine foldl_ports (fun t key => foldl_ports (fun u i => ?_) _ t) _ s
  split
  · split_ifs <;> simp
  · rfl

@[simp] theorem State.putPacket_ports (s : State) (q : Nat) (h : BitVec 256) (d : List Byte) : (s.putPacket q h d).ports = s.ports := by
  unfold State.putPacket
  split <;> rfl

@[simp] theorem State.resendAll_ports (s : State) (i : Nat) : (s.resendAll i).ports = s.ports := by
  simp only [State.resendAll]
  split_ifs
  · exact (foldl_ports (fun t e => by simp) _ _).trans s.resendFrames_ports
  · simp

@[simp] theorem State.notePort_ports (s : State) (i : Nat) (old : Port) : (s.notePort i old).ports = s.ports := by
  simp only [State.notePort]
  split_ifs <;> simp

@[simp] theorem State.weighPort_ports (s : State) (i : Nat) : (s.weighPort i).ports = s.ports := by
  simp only [State.weighPort]
  split_ifs <;> rfl

/-- The record that a port takes: one that goes DOWN notes the time. -/
def wentDown (s : State) (i : Nat) (v : Port) : Port :=
  if v.outcome = 0 ∧ (s.port i).outcome ≠ 0 then { v with downSince := s.now } else v

/-- A port takes its new record, and no other port changes. -/
theorem State.changePort_ports (s : State) (i : Nat) (v : Port) : (s.changePort i v).ports = tput {} s.ports i (wentDown s i v) := by
  show State.ports (if (wentDown s i v).outcome = 0 ∧ (s.port i).up
    then (((s.setPort i (wentDown s i v)).notePort i (s.port i)).weighPort i).resendAll i
    else (((s.setPort i (wentDown s i v)).notePort i (s.port i)).weighPort i).resendFrames) = _
  split <;> simp [State.setPort]

@[simp] theorem State.changePort_port (s : State) (i : Nat) (v : Port) : (s.changePort i v).port i = wentDown s i v := by
  unfold State.port
  rw [s.changePort_ports, tget_tput_same]

theorem State.changePort_sameBut (s : State) (i : Nat) (v : Port) : SameBut {} s.ports (s.changePort i v).ports i :=
  s.changePort_ports i v ▸ sameBut_tput {} s.ports i _

end Sys2Proof.Machine
end

section
/-! SUPPORT. Objects: how they are read, written, drafted and staged (R386-R405). -/

namespace Sys2Proof.Machine

/-! ### One operation by itself (R386) -/

/-- An operation whose head is in order (R386 step 1). -/
def HeadInOrder (o : SivarOp) : Prop :=
  1 ≤ o.op ∧ o.op ≤ 6 ∧ o.reserved = 0 ∧ (o.offset ≠ 0 → o.op = 5 ∨ o.op = 6) ∧ o.ticket = 0

/-- A connected client's operation is carried out, and its answer cut to the room that there is. -/
theorem State.single_served {s : State} {cl : Client} {role : Nat} (o : SivarOp) (hs : s.serving = true) (hr : s.roleOf cl = some role) :
    s.single cl o = { s.perform cl o with resp := cutAnswer o (s.perform cl o).resp (roomOf s cl - 16) } := by
  unfold State.single
  rw [if_neg (by simp [hs, hr])]

/-- A head in order passes the first check. -/
theorem HeadInOrder.passes {o : SivarOp} (h : HeadInOrder o) :
    ¬ (o.op < 1 ∨ 7 < o.op ∨ o.reserved ≠ 0 ∨ (o.op ≠ 5 ∧ o.op ≠ 6 ∧ o.offset ≠ 0) ∨ (o.op ≠ 7 ∧ o.ticket ≠ 0)) ∧ o.op ≠ 7 := by
  obtain ⟨h1, h6, hres, hoff, htic⟩ := h
  refine ⟨fun hbad => ?_, by omega⟩
  rcases hbad with hb | hb | hb | ⟨h5, h6', hb⟩ | ⟨-, hb⟩
  · omega
  · omega
  · exact hb hres
  · exact (hoff hb).elim h5 h6'
  · exact hb htic

/-- A name that no object has answers its status. -/
theorem State.perform_unnamed {s : State} {cl : Client} {o : SivarOp} {role st : Nat} (ho : HeadInOrder o) (hr : s.roleOf cl = some role)
    (hn : nameStatus o.index o.sub = some st) : s.perform cl o = { s with resp := answered st } := by
  obtain ⟨hhead, h7⟩ := ho.passes
  unfold State.perform
  rw [if_neg hhead, hr]
  dsimp only
  rw [if_neg h7, hn]
  rfl

/-- An operation that its client may make on its object is the object's part of it. -/
theorem State.perform_operates {s : State} {cl : Client} {o : SivarOp} {role : Nat} {info : ObjInfo} (ho : HeadInOrder o)
    (hr : s.roleOf cl = some role) (hl : s.bring.loader = false) (hn : nameStatus o.index o.sub = none)
    (hi : objInfo o.index o.sub = some info) (hrole : roleAllows role o.op o.index o.sub = true)
    (hacc : accessAllows s cl o.op o.index o.sub o.draft info = true) : s.perform cl o = s.asked.operate cl o info := by
  obtain ⟨hhead, h7⟩ := ho.passes
  unfold State.perform
  rw [if_neg hhead, hr]
  dsimp only
  rw [if_neg h7, hn, hi]
  dsimp only
  rw [if_neg (by rw [hrole]; decide), if_neg (by rw [hacc]; decide), if_neg (by rw [hl]; simp)]
  rfl

/-- A status alone fits in every room. -/
theorem cutAnswer_answered {o : SivarOp} (h : o.hostbuf = false) (st room : Nat) : cutAnswer o (answered st) room = answered st := by
  have hfit : fitData room [] = [] := by unfold fitData; split <;> simp
  unfold cutAnswer
  rw [if_neg (by rw [h]; decide)]
  simp [answered, hfit]

/-- An operation that answers a status alone. -/
theorem State.single_answers {s u : State} {cl : Client} {o : SivarOp} {role st : Nat} (hs : s.serving = true) (hr : s.roleOf cl = some role)
    (hb : o.hostbuf = false) (hp : s.perform cl o = { u with resp := answered st }) : s.single cl o = { u with resp := answered st } := by
  rw [State.single_served o hs hr, hp]
  exact congrArg (fun r => ({ u with resp := r } : State)) (cutAnswer_answered hb st _)

/-- An operation that answers data. -/
theorem State.single_answersData {s : State} {cl : Client} {o : SivarOp} {role : Nat} {d : List Byte} (hs : s.serving = true)
    (hr : s.roleOf cl = some role) (hb : o.hostbuf = false) (hp : s.perform cl o = s.asked.answerData d) :
    s.single cl o = { s with resp := { status := stOk, executed := 1, data := fitData (roomOf s.asked cl - 16) d,
                                       flags := if (fitData (roomOf s.asked cl - 16) d).length < d.length ∧ o.op ≠ 5 then 2 else 0 } } := by
  rw [State.single_served o hs hr, hp]
  unfold cutAnswer
  rw [if_neg (by rw [hb]; decide)]
  simp only [State.answerData, Nat.zero_add]
  rfl

/-! ### Readings -/

/-- A reading operation without a host buffer, by its kind. -/
theorem State.operate_reads {s : State} {cl : Client} {o : SivarOp} {info : ObjInfo} (hb : o.hostbuf = false) :
    (o.op = 1 → s.operate cl o info = s.answerData (readValue s cl o.index o.sub o.draft))
    ∧ (o.op = 4 → s.operate cl o info = s.answerData (describeBytes o.index o.sub info))
    ∧ (o.op = 5 → s.operate cl o info = if (readValue s cl o.index o.sub o.draft).length < o.offset then s.answer stRange
        else s.answerData (((readValue s cl o.index o.sub o.draft).drop o.offset).take o.length)) := by
  refine ⟨fun h => ?_, fun h => ?_, fun h => ?_⟩
  all_goals
    unfold State.operate
    rw [hb]
    simp [h]

/-- What is in force is what a read without the DRAFT flag delivers. -/
theorem readValue_current {s : State} {cl : Client} {idx sub : Nat} (hl : s.bring.loader = false) :
    readValue s cl idx sub false = objectBytes s cl idx sub := by
  unfold readValue
  rw [if_neg (by rw [hl]; simp)]
  split <;> rfl

/-- Every connected client may read and describe. -/
theorem roleAllows_reading {role op idx sub : Nat} (h : op = 1 ∨ op = 4 ∨ op = 5 ∨ op = 7) : roleAllows role op idx sub = true := by
  rcases h with rfl | rfl | rfl | rfl <;> simp [roleAllows]

/-- An object that is not write-only may be read, and every object described. -/
theorem accessAllows_reading {s : State} {cl : Client} {op idx sub : Nat} {draft : Bool} {info : ObjInfo}
    (h : op = 4 ∨ (op = 1 ∨ op = 5) ∧ info.access ≠ .wo ∧ info.access ≠ .cmd) : accessAllows s cl op idx sub draft info = true := by
  rcases h with rfl | ⟨rfl | rfl, hwo, hcmd⟩
  · cases cl <;> simp [accessAllows]
  · cases cl <;> simp [accessAllows, hwo, hcmd]
  · cases cl <;> simp [accessAllows, hwo, hcmd]

/-! ### Writing a saved object (R392) -/

/-- The new value of an object is what the new configuration says of it. -/
theorem savedBytes_tset (cfg : Tbl (List Byte)) (key : Nat) (v : List Byte) : savedBytes (tset cfg key v) key = v := by
  unfold savedBytes
  rw [tfind_tset, if_pos rfl]

/-- A write whose every check passes: the new configuration in force, with its effects. -/
theorem State.writeSaved_writable {s : State} {key : Nat} {v : List Byte} (h : Writable s key v) :
    s.asked.writeSaved key v =
      (((s.asked.prepareValue key v).1.newConfig (tset s.sivar.config key v)).settleValue s.asked key, stOk) := by
  obtain ⟨hval, hdraft, howner, hcross, hprep⟩ := h
  have hfo : firstKey (fun k => ownerStatus s.asked k (savedBytes (tset s.asked.sivar.config key v) k)) [key] = none := by
    simp only [firstKey, savedBytes_tset, howner]
  have hfc : firstKey (crossStatus s.asked (tset s.asked.sivar.config key v)) [key] = none := by
    simp only [firstKey]
    rw [show crossStatus s.asked (tset s.asked.sivar.config key v) key = none from hcross]
  have hall : prepareAll (tset s.asked.sivar.config key v) [key] s.asked = ((s.asked.prepareValue key v).1, stOk, 0) := by
    simp [prepareAll, savedBytes_tset, hprep]
  have hadopt : s.asked.adopt (tset s.asked.sivar.config key v) [key] true =
      (((s.asked.prepareValue key v).1.newConfig (tset s.sivar.config key v)).settleValue s.asked key, stOk, 0) := by
    simp only [State.adopt, hfo, hfc, hall]
    rfl
  unfold State.writeSaved
  rw [hval]
  dsimp only
  rw [if_neg (by rw [show s.asked.drafted key = false from hdraft]; decide), hadopt]

/-- The version of a write whose every check passes, and its cleared answer. -/
theorem Writable.saved {s t : State} {key : Nat} {v : List Byte} (h : Writable s key v) (hw : s.asked.writeSaved key v = (t, stOk)) :
    Saved s t key v ∧ t.resp = {} := by
  have hview : t.versionView = (s.asked.newConfig (tset s.sivar.config key v)).versionView := by
    rw [State.writeSaved_writable h] at hw
    obtain rfl : _ = t := congrArg Prod.fst hw
    simp
  obtain ⟨hresp, hsivar⟩ := Prod.mk.inj hview
  obtain ⟨hcfg, hprev, hver, hpver, -⟩ := Sivar.mk.inj hsivar
  exact ⟨⟨hcfg, hprev, hver, hpver⟩, hresp⟩
/-! ### Pins held for a step in work (R20) -/

/-- The objects whose pins are held have no other effect than those of the ports' pin. -/
theorem isPin_cases {key : Nat} (h : isPin key = true) :
    key / 256 ≠ 0x1000 ∧ (key / 256 = 0x6000 → key % 256 = 1) := by
  simp only [isPin, okey, within, Bool.or_eq_true, Bool.and_eq_true, decide_eq_true_eq, List.mem_cons, List.not_mem_nil, or_false] at h
  omega

/-- A pin's effect is to be held; the ports' pin may also take ports down. -/
theorem State.settleValue_pin {s before : State} {key : Nat} (h : isPin key = true) : s.settleValue before key =
    if key = okey 0x7000 1 then (List.range 640).foldl (fun (t : State) i => t.pinNarrow i) (s.holdPin key (before.cfg (key / 256) (key % 256)))
    else s.holdPin key (before.cfg (key / 256) (key % 256)) := by
  obtain ⟨h1000, h6000⟩ := isPin_cases h
  unfold State.settleValue
  dsimp only
  rw [if_pos h]
  split
  · rfl
  · rw [if_neg (fun hh => h1000 hh.1), if_neg, if_neg]
    · rintro rfl
      exact absurd (h6000 (by decide)) (by decide)
    · rintro ⟨h6, hw⟩
      rw [h6000 h6] at hw
      exact absurd hw (by decide)

/-- The old value of a pin goes to each partition with marks that does not hold one of that pin yet. -/
theorem foldl_holdPin {key old : Nat} (l : List Nat) (hl : l.Nodup) (s : State) (p : Nat) (hp : p ∈ l) (hm : (s.part p).marks = true)
    (hnew : ∀ e ∈ (s.ctlOf p).pins, e.1 ≠ key) :
    ((l.foldl (fun (t : State) p => if !(t.part p).marks || (t.ctlOf p).pins.any (fun e => e.1 == key) then t
      else t.setCtl p { t.ctlOf p with pins := (t.ctlOf p).pins ++ [(key, old)] }) s).ctlOf p).pins = (s.ctlOf p).pins ++ [(key, old)] := by
  obtain ⟨f, hf⟩ : ∃ f : State → Nat → State, f = fun (t : State) p => if !(t.part p).marks || (t.ctlOf p).pins.any (fun e => e.1 == key) then t
      else t.setCtl p { t.ctlOf p with pins := (t.ctlOf p).pins ++ [(key, old)] } := ⟨_, rfl⟩
  have hframe : ∀ (l : List Nat) (t : State), p ∉ l → (l.foldl f t).ctlOf p = t.ctlOf p ∧ (l.foldl f t).part p = t.part p := by
    intro l t hnot
    refine List.foldlRecOn (motive := fun u => u.ctlOf p = t.ctlOf p ∧ u.part p = t.part p) l f ⟨rfl, rfl⟩ fun u hu q hq => ?_
    have hne : p ≠ q := fun h => hnot (h ▸ hq)
    rw [hf]
    dsimp only
    split
    · exact hu
    · exact ⟨(State.setCtl_ctlOf_ne _ _ _ p hne).trans hu.1, hu.2⟩
  rw [← hf]
  obtain ⟨l1, l2, rfl⟩ := List.append_of_mem hp
  have hnd := List.nodup_append.1 hl
  obtain ⟨-, hnd2, hdisj⟩ := hnd
  have h1 : p ∉ l1 := fun h => hdisj p h p List.mem_cons_self rfl
  have h2 : p ∉ l2 := (List.nodup_cons.1 hnd2).1
  rw [List.foldl_append, List.foldl_cons, (hframe l2 _ h2).1]
  obtain ⟨u, hu⟩ : ∃ u, l1.foldl f s = u := ⟨_, rfl⟩
  obtain ⟨hctl, hpart⟩ := hframe l1 s h1
  rw [hu] at hctl hpart ⊢
  rw [hf]
  dsimp only
  rw [if_neg, State.setCtl_ctlOf_same, hctl]
  simp only [hpart, hm, hctl, Bool.not_true, Bool.false_or, List.any_eq_true, beq_iff_eq, not_exists, not_and]
  exact hnew

/-- A held pin, for a partition that runs. -/
theorem State.holdPin_holds {s : State} {key old p : Nat} (hp : p < 8) (hm : (s.part p).marks = true)
    (hnew : ∀ e ∈ (s.ctlOf p).pins, e.1 ≠ key) : ((s.holdPin key old).ctlOf p).pins = (s.ctlOf p).pins ++ [(key, old)] :=
  foldl_holdPin (List.range 8) List.nodup_range s p (List.mem_range.2 hp) hm hnew

/-- Ports that go DOWN under a pin leave the partitions' control alone. -/
theorem foldl_pinNarrow_ctlOf (l : List Nat) (s : State) (p : Nat) :
    (l.foldl (fun (t : State) i => t.pinNarrow i) s).ctlOf p = s.ctlOf p := by
  have hctl := congrArg State.ctl (foldl_aroundPorts (fun t i => State.pinNarrow_aroundPorts t i) l s)
  exact congrArg (fun m => tget {} m p) hctl

/-- A write of a pin while a partition runs keeps the old value for that partition's present step. -/
theorem writeSaved_holdsPin {s t : State} {key : Nat} {v : List Byte} (h : Writable s key v) (hw : s.asked.writeSaved key v = (t, stOk))
    (hpin : isPin key = true) {p : Nat} (hp : p < 8) (hm : (s.part p).marks = true) (hnew : ∀ e ∈ (s.ctlOf p).pins, e.1 ≠ key) :
    (t.ctlOf p).pins = (s.ctlOf p).pins ++ [(key, s.cfg (key / 256) (key % 256))] := by
  have hprep : (s.asked.prepareValue key v).1 = s.asked := by
    obtain ⟨-, h6000⟩ := isPin_cases hpin
    unfold State.prepareValue
    dsimp only
    split
    · rfl
    next h6 =>
      rw [h6000 (not_not.1 h6), if_neg (by decide), if_neg (by decide)]
  rw [State.writeSaved_writable h, hprep, State.settleValue_pin hpin] at hw
  obtain rfl := congrArg Prod.fst hw
  have hheld : (((s.asked.newConfig (tset s.sivar.config key v)).holdPin key (s.asked.cfg (key / 256) (key % 256))).ctlOf p).pins
      = (s.ctlOf p).pins ++ [(key, s.cfg (key / 256) (key % 256))] := State.holdPin_holds hp hm hnew
  dsimp only
  split
  · rw [foldl_pinNarrow_ctlOf]
    exact hheld
  · exact hheld

/-- A write of an object without effects beyond its value. -/
theorem writeSaved_plain {s t : State} {key : Nat} {v : List Byte} (h : Writable s key v) (hw : s.asked.writeSaved key v = (t, stOk))
    (hpin : isPin key = false) (h6000 : key / 256 ≠ 0x6000) (h1000 : ¬ (key / 256 = 0x1000 ∧ within (key % 256) 0x10 2 = true)) :
    t = s.asked.newConfig (tset s.sivar.config key v) := by
  have hprep : (s.asked.prepareValue key v).1 = s.asked := by
    unfold State.prepareValue
    rw [if_pos h6000]
  have h30 : key ≠ okey 0x6000 0x30 := by
    rintro rfl
    exact h6000 (by decide)
  rw [State.writeSaved_writable h, hprep] at hw
  obtain rfl := congrArg Prod.fst hw
  unfold State.settleValue
  dsimp only
  rw [if_neg (fun h7 => absurd (h7 ▸ hpin) (by decide)), if_neg h1000, if_neg (fun hh => h6000 hh.1),
    if_neg h30, if_neg (by rw [hpin]; decide)]
/-! ### Drafts and segments (R393, R404) -/

/-- A write into the client's own draft, of an object that it does not hold yet. -/
theorem State.draftWrite_adds {s : State} {cl : Client} {key : Nat} {v : List Byte} {d : Draft} (hval : valueStatus s key v = none)
    (hd : s.sivar.draft = some d) (ho : d.owner = cl) (hnew : ∀ e ∈ d.values, e.1 ≠ key) (hlen : d.values.length < 512)
    (hsum : (d.values ++ [(key, v)]).foldl (fun n e => n + e.2.length) 0 ≤ 4194304) :
    s.draftWrite cl key v = ({ s with sivar := { s.sivar with draft := some { d with values := d.values ++ [(key, v)] } } }, stOk) := by
  have hany : ¬ d.values.any (fun e => e.1 == key) = true := by
    simp only [List.any_eq_true, beq_iff_eq, not_exists, not_and]
    exact hnew
  unfold State.draftWrite
  rw [hval, hd]
  dsimp only
  rw [if_neg (not_not.2 ho), if_neg hany, if_neg]
  rw [List.length_append, List.length_singleton]
  omega

/-- What a filter leaves out is not found. -/
theorem find?_filter_eq_none {α : Type} {p q : α → Bool} (h : ∀ a, q a = true → p a = false) (l : List α) : (l.filter q).find? p = none :=
  List.find?_eq_none.2 fun a ha => by simp [h a (List.mem_filter.1 ha).2]

/-- A session with other bytes staged of one object. -/
def Session.restaged (x : Session) (key : Nat) (m : List Host.Cell) : Session :=
  { x with staging := if m.isEmpty then x.staging.filter (fun e => e.1 != key) else x.staging.filter (fun e => e.1 != key) ++ [(key, m)] }

/-- What a client stages is what it has staged. -/
theorem stagedOf_putStaged {s : State} {cl : Client} {role : Nat} (key : Nat) (m : List Host.Cell) (hr : s.roleOf cl = some role) :
    stagedOf (s.putStaged cl key m) cl key = m := by
  cases cl with
  | session k =>
    obtain ⟨x, hx, -⟩ : ∃ x, s.session k = some x ∧ x.role = role := Option.map_eq_some_iff.1 hr
    obtain ⟨y, hy⟩ : ∃ y, y = x.restaged key m := ⟨_, rfl⟩
    have hph : x.phase = 2 := by
      unfold State.session at hx
      split at hx
      · split at hx
        next h2 => exact Option.some.inj hx ▸ h2
        next => cases hx
      · cases hx
    have hput : (s.putStaged (.session k) key m).sivar.sessions = tput none s.sivar.sessions k (some y) := by
      unfold State.putStaged
      rw [hy]
      simp only [hx, Session.restaged]
    have hses : (s.putStaged (.session k) key m).session k = some y := by
      unfold State.session
      rw [hput, tget_tput_same]
      exact if_pos (by rw [hy]; exact hph)
    unfold stagedOf
    dsimp only
    rw [hses, hy]
    have hnone : (x.staging.filter (fun e => e.1 != key)).find? (fun e => e.1 == key) = none :=
      find?_filter_eq_none (fun a ha => by simpa using ha) _
    cases m with
    | nil => simp [Session.restaged, hnone]
    | cons c m => simp [Session.restaged, List.find?_append, hnone]
  | pcie i =>
    have hnone : (s.sivar.staging.filter (fun e => e.1 != i || e.2.1 != key)).find? (fun e => e.1 == i && e.2.1 == key) = none :=
      find?_filter_eq_none (fun a ha => by
        rcases (show a.1 ≠ i ∨ a.2.1 ≠ key by simpa using ha) with h | h
        · simp [h]
        · simp [h]) _
    unfold stagedOf State.putStaged
    cases m with
    | nil => simp [hnone]
    | cons c m => simp [List.find?_append, hnone]

/-- Staging touches the dictionary's own state. -/
theorem State.putStaged_frame (s : State) (cl : Client) (key : Nat) (m : List Host.Cell) :
    (s.putStaged cl key m).sivar.config = s.sivar.config ∧ s.putStaged cl key m = { s with sivar := (s.putStaged cl key m).sivar } := by
  cases cl with
  | session k =>
    unfold State.putStaged
    dsimp only
    split <;> exact ⟨rfl, rfl⟩
  | pcie i => exact ⟨rfl, rfl⟩

/-- A segment that is not the last is staged within its limit. -/
theorem doWriteSeg_stages {s : State} {cl : Client} {idx sub offset : Nat} {draft : Bool} {info : ObjInfo} {v : List Byte}
    (hfw : ¬ (idx = 0xA000 ∧ sub = 1)) (hlim : offset + v.length ≤ (if info.access = .wo then info.max else 67108864)) :
    doWriteSeg cl idx sub draft false offset info v s
      = (s.putStaged cl (okey idx sub) (writeBytes (if offset = 0 then [] else stagedOf s cl (okey idx sub)) offset v), stOk) := by
  have hfw' : decide (idx = 0xA000 ∧ sub = 1) = false := decide_eq_false hfw
  unfold doWriteSeg
  dsimp only
  rw [hfw', if_neg (by simp), if_neg (by omega), if_pos (show (!false) = true from rfl), if_neg (show ¬ (false = true ∧ offset = 0) by simp)]

/-- A writing operation without a host buffer, by its kind. -/
theorem State.operate_writes {s : State} {cl : Client} {o : SivarOp} {info : ObjInfo} (hb : o.hostbuf = false) :
    (o.op = 2 → s.operate cl o info = (doWriteOp cl o.index o.sub o.draft info o.data s).1.answer
        (doWriteOp cl o.index o.sub o.draft info o.data s).2)
    ∧ (o.op = 6 → s.operate cl o info = (doWriteSeg cl o.index o.sub o.draft o.final o.offset info o.data s).1.answer
        (doWriteSeg cl o.index o.sub o.draft o.final o.offset info o.data s).2) := by
  refine ⟨fun h => ?_, fun h => ?_⟩
  all_goals
    unfold State.operate
    rw [hb]
    simp [h]

/-- A write of a saved object, no pin of firmware, images or host rules in the way, is the direct write of its value. -/
theorem doWriteOp_saved {s : State} {cl : Client} {idx sub : Nat} {info : ObjInfo} {v : List Byte} (hsaved : info.saved = true)
    (hacc : info.access = .rw ∨ info.access = .rws) (htype : typeStatus info v = none) (hl : within idx 0x4110 8 = false)
    (hfw : ¬ (idx = 0xA000 ∧ sub = 1)) (hide : ¬ (idx = 0x2000 ∧ sub = 0x24)) :
    doWriteOp cl idx sub false info v s = s.writeSaved (okey idx sub) v := by
  have hcmd : info.access ≠ .cmd := by rcases hacc with h | h <;> rw [h] <;> decide
  have hwo : info.access ≠ .wo := by rcases hacc with h | h <;> rw [h] <;> decide
  unfold doWriteOp
  rw [htype]
  dsimp only
  rw [if_neg (by decide)]
  unfold doWrite
  rw [if_neg hcmd, if_neg hfw, if_neg hwo, if_neg (by rw [hl]; decide), if_neg (by rw [hsaved]; decide), if_neg (fun h => hide ⟨h.1, h.2.1⟩)]
/-! ### The obligation -/

/-- A read delivers the object's value, in whole or in a segment, and a descriptor its own. -/
theorem objects_read {s : State} {cl : Client} {role idx sub : Nat} {info : ObjInfo} (hr : s.roleOf cl = some role)
    (hl : s.bring.loader = false) (hn : nameStatus idx sub = none) (hi : objInfo idx sub = some info) (hwo : info.access ≠ .wo)
    (hcmd : info.access ≠ .cmd) :
    (s.perform cl (plainOp 1 idx sub) = s.asked.answerData (objectBytes s.asked cl idx sub))
    ∧ ∀ offset len, s.perform cl { plainOp 5 idx sub with offset := offset, length := len } =
        if (objectBytes s.asked cl idx sub).length < offset then s.asked.answer stRange
        else s.asked.answerData (((objectBytes s.asked cl idx sub).drop offset).take len) := by
  have hval : readValue s.asked cl idx sub false = objectBytes s.asked cl idx sub := readValue_current hl
  refine ⟨?_, fun offset len => ?_⟩
  · rw [State.perform_operates ⟨Nat.le_of_ble_eq_true rfl, Nat.le_of_ble_eq_true rfl, rfl, fun h => absurd rfl h, rfl⟩ hr hl hn hi (roleAllows_reading (Or.inl rfl))
      (accessAllows_reading (Or.inr ⟨Or.inl rfl, hwo, hcmd⟩)), (State.operate_reads rfl).1 rfl]
    exact congrArg _ hval
  · rw [State.perform_operates (o := { plainOp 5 idx sub with offset := offset, length := len })
      ⟨Nat.le_of_ble_eq_true rfl, Nat.le_of_ble_eq_true rfl, rfl, fun _ => Or.inl rfl, rfl⟩ hr hl hn hi (roleAllows_reading (Or.inr (Or.inr (Or.inl rfl))))
      (accessAllows_reading (Or.inr ⟨Or.inr rfl, hwo, hcmd⟩)), (State.operate_reads rfl).2.2 rfl]
    show (if (readValue s.asked cl idx sub false).length < offset then _ else s.asked.answerData (((readValue s.asked cl idx sub false).drop offset).take len)) = _
    rw [hval]

/-- An operation's index and sub-index are the parts of its key. -/
theorem okey_parts {idx sub : Nat} (h : sub < 256) : okey idx sub / 256 = idx ∧ okey idx sub % 256 = sub := by
  unfold okey
  omega

/-- TICKET reads a kept ticket. -/
theorem State.perform_ticket {s : State} {cl : Client} {role n : Nat} (hr : s.roleOf cl = some role) (hl : s.bring.loader = false) :
    s.perform cl { plainOp 7 0 0 with ticket := n } = s.asked.readTicket n := by
  unfold State.perform
  rw [if_neg (by simp [plainOp]), hr]
  dsimp only
  rw [if_pos (show (plainOp 7 0 0).op = 7 from rfl), if_neg (by rw [hl]; decide)]
  rfl

/-- Settles O48: reads deliver values, writes make new versions, drafts and segments hold what is written (R386-R405). -/
theorem objectsAreReadAndWritten : Obligations.ObjectsAreReadAndWritten := by
  unfold Obligations.ObjectsAreReadAndWritten
  refine ⟨?objects, ?unnamed, ?tickets, ?done⟩
  case objects =>
    intro s cl role idx sub info hs hr hl hn hi
    refine ⟨fun hwo hcmd => ⟨?_, fun offset len => ⟨fun hle => ?_, fun hgt => ?_⟩⟩, ?_, ?_, ?_, ?_⟩
    · have hex := State.single_answersData hs hr rfl (objects_read hr hl hn hi hwo hcmd).1
      exact ⟨_, congrArg Host.Outcome.next hex, rfl, rfl, if_congr (by simp [plainOp]) rfl rfl, rfl⟩
    · have hex := State.single_answersData hs hr rfl (((objects_read hr hl hn hi hwo hcmd).2 offset len).trans (if_neg (by omega)))
      exact ⟨_, congrArg Host.Outcome.next hex, rfl, rfl, rfl⟩
    · exact congrArg Host.Outcome.next (State.single_answers (u := s) hs hr rfl
        (((objects_read hr hl hn hi hwo hcmd).2 offset len).trans (if_pos hgt)))
    · have hp := (State.perform_operates (o := plainOp 4 idx sub) ⟨Nat.le_of_ble_eq_true rfl, Nat.le_of_ble_eq_true rfl, rfl, fun h => absurd rfl h, rfl⟩ hr hl hn hi
        (roleAllows_reading (Or.inr (Or.inl rfl))) (accessAllows_reading (Or.inl rfl))).trans ((State.operate_reads rfl).2.1 rfl)
      exact ⟨_, congrArg Host.Outcome.next (State.single_answersData hs hr rfl hp), rfl, rfl, rfl⟩
    · intro v hsaved hacc hrole hall htype hlaunch hsub hfw hide hw
      obtain ⟨hidx, hsb⟩ := okey_parts (idx := idx) hsub
      obtain ⟨t, ht⟩ : ∃ t, s.asked.writeSaved (okey idx sub) v = (t, stOk) := ⟨_, State.writeSaved_writable hw⟩
      obtain ⟨hsv, hresp⟩ := hw.saved ht
      have hp : s.perform cl { plainOp 2 idx sub with draft := false, data := v, length := v.length } = { t with resp := answered stOk } := by
        rw [State.perform_operates (o := { plainOp 2 idx sub with draft := false, data := v, length := v.length })
          ⟨Nat.le_of_ble_eq_true rfl, Nat.le_of_ble_eq_true rfl, rfl, fun h => absurd rfl h, rfl⟩ hr hl hn hi hrole hall, (State.operate_writes rfl).1 rfl]
        show (doWriteOp cl idx sub false info v s.asked).1.answer (doWriteOp cl idx sub false info v s.asked).2 = _
        rw [doWriteOp_saved hsaved hacc htype hlaunch hfw hide, ht]
        exact State.answer_cleared hresp
      refine ⟨_, congrArg Host.Outcome.next (State.single_answers hs hr rfl hp), rfl, hsv, fun hpin p hp8 hm hnew => ?_,
        fun hpin h6000 h1000 => ?_⟩
      · have := writeSaved_holdsPin hw ht hpin hp8 hm hnew
        rw [hidx, hsb] at this
        exact this
      · have := writeSaved_plain hw ht hpin (by rw [hidx]; exact h6000) (by rw [hidx, hsb]; exact h1000)
        rw [this]
        rfl
    · intro v d hsaved hacc hrole hall htype hval hd ho hnew hlen hsum
      have hw := State.draftWrite_adds (s := s.asked) hval hd ho hnew hlen hsum
      have hp : s.perform cl { plainOp 2 idx sub with draft := true, data := v, length := v.length } = { s with
          sivar := { s.sivar with draft := some { d with values := d.values ++ [(okey idx sub, v)] } }, resp := answered stOk } := by
        rw [State.perform_operates (o := { plainOp 2 idx sub with draft := true, data := v, length := v.length })
          ⟨Nat.le_of_ble_eq_true rfl, Nat.le_of_ble_eq_true rfl, rfl, fun h => absurd rfl h, rfl⟩ hr hl hn hi hrole hall, (State.operate_writes rfl).1 rfl]
        show (doWriteOp cl idx sub true info v s.asked).1.answer (doWriteOp cl idx sub true info v s.asked).2 = _
        rw [show doWriteOp cl idx sub true info v s.asked = s.asked.draftWrite cl (okey idx sub) v by unfold doWriteOp; rw [htype]; rfl, hw]
        rfl
      exact congrArg Host.Outcome.next (State.single_answers (u := { s with
        sivar := { s.sivar with draft := some { d with values := d.values ++ [(okey idx sub, v)] } } }) hs hr rfl hp)
    · intro v offset hrole hall hfw hlim
      obtain ⟨u, hu⟩ : ∃ u, s.asked.putStaged cl (okey idx sub)
        (writeBytes (if offset = 0 then [] else stagedOf s cl (okey idx sub)) offset v) = u := ⟨_, rfl⟩
      have hst := stagedOf_putStaged (s := s.asked) (role := role) (okey idx sub)
        (writeBytes (if offset = 0 then [] else stagedOf s cl (okey idx sub)) offset v) hr
      obtain ⟨hcfg, hfr⟩ := s.asked.putStaged_frame cl (okey idx sub)
        (writeBytes (if offset = 0 then [] else stagedOf s cl (okey idx sub)) offset v)
      rw [hu] at hst hcfg hfr
      have hp : s.perform cl { plainOp 6 idx sub with draft := false, final := false, offset := offset, data := v, length := v.length }
          = { u with resp := answered stOk } := by
        rw [State.perform_operates (o := { plainOp 6 idx sub with draft := false, final := false, offset := offset, data := v, length := v.length })
          ⟨Nat.le_of_ble_eq_true rfl, Nat.le_of_ble_eq_true rfl, rfl, fun _ => Or.inr rfl, rfl⟩ hr hl hn hi hrole hall, (State.operate_writes rfl).2 rfl]
        show (doWriteSeg cl idx sub false false offset info v s.asked).1.answer (doWriteSeg cl idx sub false false offset info v s.asked).2 = _
        rw [doWriteSeg_stages hfw hlim]
        refine (congrArg (fun y : State => y.answer stOk) hu).trans (State.answer_cleared ((congrArg State.resp hfr).trans rfl))
      exact ⟨_, congrArg Host.Outcome.next (State.single_answers hs hr rfl hp), rfl, hst, hcfg,
        congrArg (fun y : State => { y with resp := answered stOk }) hfr⟩
  case unnamed =>
    intro s cl role idx sub st hs hr hn
    exact ⟨congrArg Host.Outcome.next (State.single_answers (u := s) hs hr rfl
        (State.perform_unnamed (o := plainOp 1 idx sub) ⟨Nat.le_of_ble_eq_true rfl, Nat.le_of_ble_eq_true rfl, rfl, fun h => absurd rfl h, rfl⟩ hr hn)),
      congrArg Host.Outcome.next (State.single_answers (u := s) hs hr rfl
        (State.perform_unnamed (o := plainOp 4 idx sub) ⟨Nat.le_of_ble_eq_true rfl, Nat.le_of_ble_eq_true rfl, rfl, fun h => absurd rfl h, rfl⟩ hr hn))⟩
  case tickets =>
    intro s cl role n hs hr hl
    refine ⟨fun x hx => ?_, fun hx => ?_⟩
    · have hp : s.perform cl { plainOp 7 0 0 with ticket := n } = s.asked.answerData (ticketBytes x) := by
        rw [State.perform_ticket hr hl]
        unfold State.readTicket
        rw [show s.asked.sivar.tickets.find? (fun k => k.number == n) = some x from hx]
      exact ⟨_, congrArg Host.Outcome.next (State.single_answersData hs hr rfl hp), rfl, rfl, rfl⟩
    · have hp : s.perform cl { plainOp 7 0 0 with ticket := n } = { s with resp := answered stIndex } := by
        rw [State.perform_ticket hr hl]
        unfold State.readTicket
        rw [show s.asked.sivar.tickets.find? (fun k => k.number == n) = none from hx]
        rfl
      exact congrArg Host.Outcome.next (State.single_answers (u := s) hs hr rfl hp)
  case done =>
    intro s n st
    refine ⟨_, rfl, List.length_map _, fun i x hx => ?_, rfl⟩
    show (s.sivar.tickets.map _)[i]? = _
    rw [List.getElem?_map, hx]
    refine congrArg some (if_congr ?_ rfl rfl)
    simp

end Sys2Proof.Machine
end

section
/-! SUPPORT. The primary role and the draft change hands; commits, defaults and key slots (R393-R396, R412). -/

namespace Sys2Proof.Machine

/-! ### The primary role (R412) -/

/-- A connected client's command of the two hosts. -/
theorem hostCommand_served {s : State} {cl : Client} {r : Nat} (f : State → State × Nat) (hs : s.serving = true) (hr : s.roleOf cl = some r)
    (h2 : 2 ≤ r) : s.hostCommand cl f = (f s.asked).1.answer (f s.asked).2 := by
  unfold State.hostCommand
  rw [if_neg (by rw [hs]; decide), hr]
  exact if_neg (by omega)

/-- A command of the two hosts that changes nothing. -/
theorem hostCommand_unchanged {s : State} {cl : Client} {r st : Nat} {f : State → State × Nat} (hs : s.serving = true)
    (hr : s.roleOf cl = some r) (h2 : 2 ≤ r) (hf : f s.asked = (s.asked, st)) : s.hostCommand cl f = { s with resp := answered st } := by
  rw [hostCommand_served f hs hr h2, hf]
  rfl

/-- A host whose link is up acts as ADMIN. -/
theorem roleOf_pcie {s : State} {i : Nat} (h : (s.host i).up = true) : s.roleOf (.pcie i) = some 3 := if_pos h

/-- The primary role has passed: the old primary's READY slots are refused and its draft goes. -/
def RolePassed (s t : State) : Prop :=
  t.sivar.primary = 1 - s.sivar.primary ∧ t.sivar.offerUntil = none
    ∧ (∀ n x, tfind (s.host s.sivar.primary).slots n = some x → tfind (t.host s.sivar.primary).slots n
        = some (if x.state = 1 then { x with state := 4, status := stAccess } else x))
    ∧ (∀ d, t.sivar.draft = some d → s.sivar.draft = some d ∧ d.owner ≠ .pcie s.sivar.primary)
    ∧ SameBut {} s.hosts t.hosts s.sivar.primary
    ∧ t.sivar = { s.sivar with primary := t.sivar.primary, offerUntil := none, draft := t.sivar.draft }
    ∧ t = { s with sivar := t.sivar, hosts := t.hosts, resp := answered stOk }

/-- A table with each value mapped. -/
theorem tfind_map_snd {α : Type} (f : α → α) (m : List (Nat × α)) (n : Nat) :
    tfind (m.map (fun e => (e.1, f e.2))) n = (tfind m n).map f := by
  induction m with
  | nil => rfl
  | cons e m ih =>
    obtain ⟨k, v⟩ := e
    rw [List.map_cons]
    unfold tfind
    split
    · rfl
    · exact ih

/-- What passing the role does. -/
theorem State.passOwnership_passes (s : State) : RolePassed s { s.passOwnership with resp := answered stOk } := by
  refine ⟨rfl, rfl, fun n x hx => ?_, fun d hd => ?_, sameBut_tput {} s.hosts s.sivar.primary _, rfl, rfl⟩
  · show tfind (tget {} (tput {} s.hosts s.sivar.primary _) s.sivar.primary).slots n = _
    rw [tget_tput_same]
    exact (tfind_map_snd (fun x : Slot => if x.state = 1 then { x with state := 4, status := stAccess } else x) _ n).trans (by rw [hx]; rfl)
  · cases hdr : s.sivar.draft with
    | none => simp [State.passOwnership, State.setHost, hdr] at hd
    | some e =>
      by_cases he : e.owner = .pcie s.sivar.primary
      · simp [State.passOwnership, State.setHost, hdr, he] at hd
      · have : e = d := by simpa [State.passOwnership, State.setHost, hdr, he] using hd
        exact this ▸ ⟨rfl, he⟩

/-- A command that passes the role. -/
theorem hostCommand_passes {s : State} {cl : Client} {r : Nat} {f : State → State × Nat} (hs : s.serving = true) (hr : s.roleOf cl = some r)
    (h2 : 2 ≤ r) (hf : f s.asked = (s.asked.passOwnership, stOk)) :
    ∃ t, Host.Outcome.next (s.hostCommand cl f) = (.next t : Out) ∧ RolePassed s t :=
  ⟨{ s.passOwnership with resp := answered stOk }, congrArg Host.Outcome.next (by rw [hostCommand_served f hs hr h2, hf]; rfl),
    s.passOwnership_passes⟩

/-! ### Commits and defaults (R394, R396) -/

/-- Where the checks are passed over, the configuration is in force as a new version. -/
theorem State.adopt_unchecked {s : State} {cfg : Tbl (List Byte)} {keys : List Nat} (hp : (prepareAll cfg keys s).2.1 = stOk) :
    ∃ t, s.adopt cfg keys false = (t, stOk, 0) ∧ t.versionView = (s.newConfig cfg).versionView := by
  refine ⟨_, by simp only [State.adopt, hp]; rfl, ?_⟩
  rw [foldl_versionView fun t k => t.settleValue_versionView s k]
  simp

/-- A commit of the client's own draft that holds values. -/
theorem doCommit_adopts {s : State} {cl : Client} {d : Draft} (hd : s.sivar.draft = some d) (ho : d.owner = cl) (hne : d.values ≠ []) {u : State}
    {r : Nat × Nat} (ha : s.adopt (d.values.foldl (fun m e => tset m e.1 e.2) s.sivar.config) (d.values.map (fun e => e.1)) true = (u, r)) :
    doCommit cl s = ((if r.1 = stOk then { u with sivar := { u.sivar with draft := none } } else u).reportCommit r, r.1) := by
  unfold doCommit
  rw [hd]
  dsimp only
  rw [if_neg (not_not.2 ho), if_neg (by simpa using hne), ha]

/-- A client that does not own an open draft. -/
theorem not_ownsDraft {s : State} {cl : Client} (h : ∀ d, s.sivar.draft = some d → d.owner ≠ cl) :
    doDiscardDraft cl s = (s, stState) ∧ doCommit cl s = (s, stState) := by
  unfold doDiscardDraft doCommit ownsDraft
  cases hd : s.sivar.draft with
  | none => exact ⟨rfl, rfl⟩
  | some d => simp [h d hd]

/-- The key slots are no pins and no objects with effects. -/
theorem keySlot_plain {k : Nat} (hk : k ≤ 15) : isPin (okey 0xA000 (0x20 + k)) = false ∧ okey 0xA000 (0x20 + k) / 256 = 0xA000 := by
  have hdiv : okey 0xA000 (0x20 + k) / 256 = 0xA000 := (okey_parts (by omega)).1
  refine ⟨?_, hdiv⟩
  rw [Bool.eq_false_iff]
  intro hpin
  simp only [isPin, okey, within, Bool.or_eq_true, Bool.and_eq_true, decide_eq_true_eq, List.mem_cons, List.not_mem_nil, or_false] at hpin
  rcases hpin with h | ⟨h, -⟩
  · omega
  · have := of_decide_eq_true h
    omega

/-! ### The obligation -/

/-- Settles O49: the role passes by offer or by take, one draft is open at a time, a commit that passes is one new version (R393-R396, R412). -/
theorem hostsAndDraftsChangeHands : Obligations.HostsAndDraftsChangeHands := by
  unfold Obligations.HostsAndDraftsChangeHands
  refine ⟨⟨?hosts, ?expiry⟩, ?drafts, ?keys⟩
  case hosts =>
    intro s hs hp
    have hother : Client.pcie s.sivar.primary ≠ .pcie (1 - s.sivar.primary) := by simp; omega
    refine ⟨fun hup => ⟨congrArg Host.Outcome.next ?_, congrArg Host.Outcome.next ?_, congrArg Host.Outcome.next ?_⟩,
      fun hup => ⟨congrArg Host.Outcome.next ?_, fun u hu hlt => ?_, fun hno => congrArg Host.Outcome.next ?_, fun hdown hlate => ?_,
        fun hno => congrArg Host.Outcome.next ?_⟩⟩
    · exact (hostCommand_served _ hs (roleOf_pcie hup) (by decide)).trans (by rw [show doOffer (.pcie s.sivar.primary) s.asked = _ from if_pos rfl]; rfl)
    · exact hostCommand_unchanged hs (roleOf_pcie hup) (by decide) (if_pos hother)
    · exact hostCommand_unchanged hs (roleOf_pcie hup) (by decide) (if_pos hother)
    · exact hostCommand_unchanged hs (roleOf_pcie hup) (by decide) (if_neg hother.symm)
    · refine hostCommand_passes (f := doAccept _) hs (roleOf_pcie hup) (by decide) ((if_neg (not_not.2 rfl)).trans ?_)
      rw [show s.asked.sivar.offerUntil = some u from hu]
      exact if_pos hlt
    · refine hostCommand_unchanged hs (roleOf_pcie hup) (by decide) ((if_neg (not_not.2 rfl)).trans ?_)
      cases hof : s.sivar.offerUntil with
      | none => rw [show s.asked.sivar.offerUntil = none from hof]
      | some u =>
        rw [show s.asked.sivar.offerUntil = some u from hof]
        exact if_neg (Nat.not_lt.2 (hno u hof))
    · refine hostCommand_passes (f := doTake _) hs (roleOf_pcie hup) (by decide) ((if_neg (not_not.2 rfl)).trans (if_neg ?_))
      rintro (h | h)
      · exact absurd (hdown.symm.trans h) (by decide)
      · have h' : s.now < (s.host s.sivar.primary).downSince + 5 * 1500000000 := h
        omega
    · refine hostCommand_unchanged hs (roleOf_pcie hup) (by decide) ((if_neg (not_not.2 rfl)).trans (if_pos ?_))
      refine hno.imp id fun h => ?_
      show s.now < (s.host s.sivar.primary).downSince + 5 * 1500000000
      omega
  case expiry =>
    intro s u hu
    refine ⟨_, congrArg Host.Outcome.next (by rw [hu]), rfl, rfl, rfl⟩
  case drafts =>
    intro s cl hs
    refine ⟨fun hd => congrArg Host.Outcome.next ?_, fun hd => congrArg Host.Outcome.next ?_, fun d hd ho => congrArg Host.Outcome.next ?_,
      fun hno => ⟨congrArg Host.Outcome.next ?_, congrArg Host.Outcome.next ?_⟩, fun d hd ho hv => ?_, fun d hd ho hv => ⟨fun hown hcross hprep => ?_,
        fun st key hown hst => congrArg Host.Outcome.next ?_⟩, fun hall hprep => ?_, fun hall => congrArg Host.Outcome.next ?_⟩
    · exact command_changed hs (show doOpenDraft cl s.asked = ({ s.asked with sivar := { s.sivar with draft := some { owner := cl, values := [] } } }, stOk)
        from if_neg (by rw [show s.asked.sivar.draft = none from hd]; decide)) rfl
    · exact command_unchanged hs (if_pos (Option.isSome_iff_ne_none.2 hd))
    · exact command_changed hs (show doDiscardDraft cl s.asked = ({ s.asked with sivar := { s.sivar with draft := none } }, stOk)
        from if_pos (by simp [ownsDraft, State.asked, hd, ho])) rfl
    · exact command_unchanged hs (not_ownsDraft (s := s.asked) hno).1
    · exact command_unchanged hs (not_ownsDraft (s := s.asked) hno).2
    · have hdo : doCommit cl s.asked = (({ s.asked with sivar := { s.sivar with draft := none } } : State).reportCommit (stOk, 0), stOk) := by
        unfold doCommit
        rw [show s.asked.sivar.draft = some d from hd]
        dsimp only
        rw [if_neg (not_not.2 ho), if_pos (by rw [hv]; rfl)]
        rfl
      exact ⟨_, congrArg Host.Outcome.next (command_changed hs hdo rfl), rfl, rfl, rfl⟩
    · obtain ⟨t, ha, ht⟩ := State.adopt_of_passes hown hcross hprep
      obtain ⟨hresp, hsivar⟩ := Prod.mk.inj ht
      obtain ⟨hcfg, hprev, hver, hpver, -⟩ := Sivar.mk.inj hsivar
      have hdo := doCommit_adopts (s := s.asked) hd ho hv ha
      rw [if_pos rfl] at hdo
      exact ⟨_, congrArg Host.Outcome.next (command_changed hs hdo hresp), rfl, hcfg, hprev, hver, hpver, rfl, congrArg (·, stOk, 0) hver⟩
    · have hdo := doCommit_adopts (s := s.asked) hd ho hv (State.adopt_of_ownerFails hown)
      rw [if_neg hst, State.reportCommit_of_fails _ key hst] at hdo
      exact command_changed hs hdo rfl
    · obtain ⟨t, ha, ht⟩ := State.adopt_unchecked hprep
      obtain ⟨hresp, hsivar⟩ := Prod.mk.inj ht
      obtain ⟨hcfg, hprev, hver, -⟩ := Sivar.mk.inj hsivar
      have hdo : doConfigDefaults s.asked = (t, stOk) :=
        (if_neg (by rw [show allStopped s.asked = true from hall]; decide)).trans (congrArg (fun r : State × Nat × Nat => (r.1, r.2.1)) ha)
      exact ⟨_, congrArg Host.Outcome.next (command_changed hs hdo hresp), rfl, hcfg, hprev, hver⟩
    · exact command_unchanged hs (if_pos (by rw [show allStopped s.asked = false from hall]; rfl))
  case keys =>
    intro s cl k data hs hk hlen hw
    obtain ⟨hpin, hdiv⟩ := keySlot_plain hk
    obtain ⟨t, ht⟩ : ∃ t, s.asked.writeSaved (okey 0xA000 (0x20 + k)) data = (t, stOk) := ⟨_, State.writeSaved_writable hw⟩
    obtain ⟨hsaved, hresp⟩ := hw.saved ht
    have hfr := writeSaved_plain hw ht hpin (by rw [hdiv]; decide) (by rw [hdiv]; rintro ⟨h, -⟩; exact absurd h (by decide))
    have hdo : doKeySlotWrite k data s.asked = (t, stOk) := (if_neg (by omega)).trans ((if_neg (by omega)).trans ht)
    exact ⟨_, congrArg Host.Outcome.next (command_changed hs hdo hresp), rfl, hsaved, by rw [hfr]; rfl⟩

end Sys2Proof.Machine
end

section
/-! SUPPORT. Ports train, fail, are calibrated, retried and left (R335-R340). -/

namespace Sys2Proof.Machine

/-! ### Who uses a port, and its pin (R341, R20) -/

section
variable {s t : State}

theorem cfgBytes_congr (h : t.sivar.config = s.sivar.config) (o m : Nat) : t.cfgBytes o m = s.cfgBytes o m := by
  unfold State.cfgBytes
  rw [h]

theorem part_congr (hp : t.parts = s.parts) (p : Nat) : t.part p = s.part p := by
  unfold State.part
  rw [hp]

theorem ctlOf_congr (hc : t.ctl = s.ctl) (p : Nat) : t.ctlOf p = s.ctlOf p := by
  unfold State.ctlOf
  rw [hc]

theorem portUsed_congr (hp : t.parts = s.parts) (h : t.sivar.config = s.sivar.config) (p i : Nat) : portUsed t p i = portUsed s p i := by
  have hband : ∀ tx, t.bandHas p tx = s.bandHas p tx := fun tx => by
    unfold State.bandHas State.firstCol State.widthOf
    rw [State.cfg_congr h, State.cfg_congr h]
  have hdef : t.defined p = s.defined p := by
    unfold State.defined State.widthOf
    rw [State.cfg_congr h]
  have hroute : routeUses t p i = routeUses s p i := by simp only [routeUses, cfgBytes_congr h]
  have hlink : linkUses t p i = linkUses s p i := by
    unfold linkUses
    rw [part_congr hp]
  unfold portUsed
  rw [hdef, hroute, hlink]
  cases unitColumn 4 i with
  | none => rfl
  | some tx => simp only [hband]

theorem usersWithMarks_congr (hp : t.parts = s.parts) (h : t.sivar.config = s.sivar.config) (i : Nat) :
    usersWithMarks t i = usersWithMarks s i := by
  simp only [usersWithMarks, portUsed_congr hp h, part_congr hp]

theorem portPin_congr (hp : t.parts = s.parts) (hc : t.ctl = s.ctl) (h : t.sivar.config = s.sivar.config) (i : Nat) :
    portPin t i = portPin s i := by
  unfold portPin
  rw [usersWithMarks_congr hp h]
  split
  · simp only [pinFor, ctlOf_congr hc, State.cfg_congr h]
  · exact State.cfg_congr h _ _

end

/-- The configuration stands through a change of a port. -/
@[simp] theorem State.changePort_config (s : State) (i : Nat) (v : Port) : (s.changePort i v).sivar.config = s.sivar.config :=
  congrArg (fun x : Resp × Sivar => x.2.config) (s.changePort_versionView i v)

@[simp] theorem State.changePort_parts (s : State) (i : Nat) (v : Port) : (s.changePort i v).parts = s.parts :=
  (congrArg State.parts (State.of_aroundPorts (s.changePort_aroundPorts i v))).trans rfl

@[simp] theorem State.changePort_ctl (s : State) (i : Nat) (v : Port) : (s.changePort i v).ctl = s.ctl :=
  (congrArg State.ctl (State.of_aroundPorts (s.changePort_aroundPorts i v))).trans rfl

/-! ### A NARROW port under the pin (R339) -/

/-- A port whose outcome the pin leaves alone. -/
theorem State.pinNarrow_stays {s : State} {i : Nat} (h : portPin s i ≠ 1 ∨ usersWithMarks s i ≠ [] ∨ (s.port i).outcome ≠ 1) : s.pinNarrow i = s := by
  unfold State.pinNarrow
  refine if_neg fun ⟨ho, hp, hu⟩ => ?_
  rcases h with h | h | h
  · exact h hp
  · exact h (List.isEmpty_iff.1 hu)
  · exact h ho

/-- A NARROW port that the pin takes DOWN. -/
theorem State.pinNarrow_goesDown {s : State} {i : Nat} (hp : portPin s i = 1) (hu : usersWithMarks s i = []) (ho : (s.port i).outcome = 1) :
    s.pinNarrow i = s.changePort i { (s.port i).down s.now with pinnedDown := true } :=
  if_pos ⟨ho, hp, by rw [hu]; rfl⟩

/-- The pin, after a change of the port, is what it was before. -/
theorem State.changePort_pin {s : State} (i : Nat) (v : Port) :
    portPin (s.changePort i v) i = portPin s i ∧ usersWithMarks (s.changePort i v) i = usersWithMarks s i :=
  ⟨portPin_congr (by simp) (by simp) (by simp) i, usersWithMarks_congr (by simp) (by simp) i⟩

/-! ### Trainings (R338) -/

/-- A port that goes down or to another outcome keeps every field but the time of going down. -/
theorem wentDown_of_up {s : State} {i : Nat} {v : Port} (h : v.outcome ≠ 0) : wentDown s i v = v := if_neg fun hh => h hh.1

theorem wentDown_eq (s : State) (i : Nat) (v : Port) : wentDown s i v = { v with downSince := (wentDown s i v).downSince } := by
  unfold wentDown
  split <;> rfl

/-- What a port's frames leave alone: the events and the fabric. -/
def State.quietView (s : State) : EventLog × List (Nat × HostPort) × Sivar × Fabric × Nat := (s.log, s.hosts, s.sivar, s.fabric, s.freeCtr)

@[simp] theorem State.resendFrame_quietView (s : State) (key i : Nat) : (s.resendFrame key i).quietView = s.quietView := by
  unfold State.resendFrame
  dsimp only
  split
  · rfl
  · split <;> rfl

@[simp] theorem State.resendFrames_quietView (s : State) : s.resendFrames.quietView = s.quietView := by
  refine List.foldlRecOn (motive := fun t : State => t.quietView = s.quietView) _ _ rfl fun t ht key _ => ?_
  refine List.foldlRecOn (motive := fun u : State => u.quietView = s.quietView) _ _ ht fun u hu i _ => ?_
  split
  · split_ifs
    · exact hu
    · exact (u.resendFrame_quietView key i).trans hu
  · exact hu

@[simp] theorem State.weighPort_quietView (s : State) (i : Nat) : (s.weighPort i).quietView = s.quietView := by
  simp only [State.weighPort]
  split_ifs <;> rfl

/-- A port under training carries nothing and tells nobody: no event, and nothing goes out again on the fabric. -/
theorem State.changePort_training {s : State} {i : Nat} {v : Port} (h : v.outcome = 4) :
    s.changePort i v = { s with
      ports := (s.changePort i v).ports, quays := (s.changePort i v).quays, intakes := (s.changePort i v).intakes } := by
  obtain ⟨a, ha⟩ : ∃ a, a = s.setPort i v := ⟨_, rfl⟩
  have hav : a.port i = v := ha ▸ tget_tput_same _ s.ports i v
  have hnote : a.notePort i (s.port i) = a := by
    unfold State.notePort
    dsimp only
    rw [hav, if_pos h]
    exact ite_self a
  have hch : s.changePort i v = (a.weighPort i).resendFrames := by
    have h0 : s.changePort i v = if (wentDown s i v).outcome = 0 ∧ (s.port i).up
        then (((s.setPort i (wentDown s i v)).notePort i (s.port i)).weighPort i).resendAll i
        else (((s.setPort i (wentDown s i v)).notePort i (s.port i)).weighPort i).resendFrames := rfl
    rw [h0, wentDown_of_up (by omega), if_neg (by omega), ← ha, hnote]
  have hquiet : (s.changePort i v).quietView = s.quietView := by
    rw [hch, State.resendFrames_quietView, State.weighPort_quietView, ha]
    rfl
  obtain ⟨t, ht⟩ : ∃ t, s.changePort i v = t := ⟨_, rfl⟩
  have hfr := State.of_aroundPorts (s.changePort_aroundPorts i v)
  rw [ht] at hquiet hfr ⊢
  simp only [State.quietView, Prod.mk.injEq] at hquiet
  obtain ⟨h1, h2, h3, h4, h5⟩ := hquiet
  rw [h1, h2, h3, h4, h5] at hfr
  exact hfr

/-- A port under a full training. -/
def Port.training (v : Port) : Port :=
  { v with outcome := 4, lanes := 0, map := 0, calib := 0xFF, trainKind := 2, retrainPending := false, move := none, badCounts := []
           retrains := satAdd 16 v.retrains 1 }

/-- A full training begins: no traffic, outcome TRAINING. -/
theorem State.trainFull_trains (s : State) (i : Nat) : ∃ t, s.trainFull i = t ∧ t.port i = (s.port i).training
    ∧ SameBut {} s.ports t.ports i ∧ t = { s with ports := t.ports, quays := t.quays, intakes := t.intakes } := by
  have ht : s.trainFull i = s.changePort i (s.port i).training := rfl
  have hv : (s.changePort i (s.port i).training).port i = (s.port i).training := by
    rw [State.changePort_port]
    exact wentDown_of_up (show (4 : Nat) ≠ 0 by decide)
  rw [ht]
  exact ⟨_, rfl, hv, s.changePort_sameBut i _, State.changePort_training rfl⟩

/-! ### The state around the trainings -/

/-- Everything but what a training and its tests may touch. -/
def State.aroundTraining (s : State) : State := { s.aroundPorts with tiles := [], bring := {} }

/-- What leaves the state around the trainings alone is told by its own parts. -/
theorem State.of_aroundTraining {s t : State} (h : t.aroundTraining = s.aroundTraining) : t = { s with
    ports := t.ports, quays := t.quays, log := t.log, hosts := t.hosts, sivar := t.sivar, fabric := t.fabric
    tiles := t.tiles, intakes := t.intakes, freeCtr := t.freeCtr, bring := t.bring } :=
  congrArg (fun y : State => { y with
    ports := t.ports, quays := t.quays, log := t.log, hosts := t.hosts, sivar := t.sivar, fabric := t.fabric
    tiles := t.tiles, intakes := t.intakes, freeCtr := t.freeCtr, bring := t.bring }) h

theorem State.aroundTraining_of {s t : State} (h : t.aroundPorts = s.aroundPorts) : t.aroundTraining = s.aroundTraining :=
  congrArg (fun y : State => { y with tiles := [], bring := {} }) h

/-- A test that ends touches the results and the tiles whose clock stops again. -/
theorem State.abortLink_frame (s : State) (i : Nat) :
    s.abortLink i = { s with tiles := (s.abortLink i).tiles, bring := (s.abortLink i).bring } := by
  unfold State.abortLink
  split
  next x _ =>
    unfold State.endTest
    dsimp only
    have hfold : ∀ l : List Nat, l.foldl (fun (u : State) k => u.setTile k { u.tile k with fastClock := false }) s
        = { s with tiles := (l.foldl (fun (u : State) k => u.setTile k { u.tile k with fastClock := false }) s).tiles } :=
      fun l => List.foldlRecOn (motive := fun t : State => t = { s with tiles := t.tiles }) l _ rfl fun t ht k _ =>
        congrArg (fun y : State => { y with tiles := (t.setTile k { t.tile k with fastClock := false }).tiles }) ht
    rw [hfold]
  next => rfl

@[simp] theorem State.abortLink_aroundTraining (s : State) (i : Nat) : (s.abortLink i).aroundTraining = s.aroundTraining := by
  rw [s.abortLink_frame i]
  rfl

@[simp] theorem State.abortLink_ports (s : State) (i : Nat) : (s.abortLink i).ports = s.ports := by
  rw [s.abortLink_frame i]

@[simp] theorem State.abortLink_port (s : State) (i j : Nat) : (s.abortLink i).port j = s.port j := by
  unfold State.port
  rw [s.abortLink_ports i]

/-- What a port learns of its far end (R295). -/
theorem State.learnPeer_learns (s : State) (i : Nat) : (s.learnPeer i).ports = s.ports
    ∧ (512 ≤ i ∧ (s.port i).up = true → ∃ m q, (i, m, q) ∈ (s.learnPeer i).fabric.peers)
    ∧ (i < 512 ∨ (s.port i).up = false → (s.learnPeer i).fabric = s.fabric)
    ∧ (∀ e, e.1 ≠ i → (e ∈ (s.learnPeer i).fabric.peers ↔ e ∈ s.fabric.peers))
    ∧ (s.learnPeer i).fabric = { s.fabric with peers := (s.learnPeer i).fabric.peers }
    ∧ s.learnPeer i = { s with fabric := (s.learnPeer i).fabric, freeCtr := (s.learnPeer i).freeCtr } := by
  by_cases h : i < 512 ∨ (!(s.port i).up) = true
  · have hl : s.learnPeer i = s := if_pos h
    rw [hl]
    refine ⟨rfl, fun ⟨h512, hup⟩ => ?_, fun _ => rfl, fun e he => Iff.rfl, rfl, rfl⟩
    rw [hup] at h
    exact absurd (h.resolve_left (by omega)) (by decide)
  · have hl : s.learnPeer i = ({ s with fabric := { s.fabric with
        peers := (s.fabric.peers.filter (fun (e : Nat × Nat × Nat) => e.1 != i))
          ++ [(i, Config.freeNat s.freeCtr (2 * i) % 16384, Config.freeNat s.freeCtr (2 * i + 1) % 4)] } } : State).bump := if_neg h
    rw [hl]
    refine ⟨rfl, fun _ => ⟨_, _, List.mem_append_right _ (List.mem_singleton.2 rfl)⟩, fun hno => absurd ?_ h, fun e he => ?_, rfl, rfl⟩
    · exact hno.imp_right fun hup => by rw [hup]; rfl
    · refine List.mem_append.trans ⟨fun hm => ?_, fun hm => Or.inl (List.mem_filter.2 ⟨hm, bne_iff_ne.2 he⟩)⟩
      rcases hm with hm | hm
      · exact (List.mem_filter.1 hm).1
      · exact absurd (congrArg Prod.fst (List.mem_singleton.1 hm)) he

@[simp] theorem State.learnPeer_aroundPorts (s : State) (i : Nat) : (s.learnPeer i).aroundPorts = s.aroundPorts := by
  obtain ⟨-, -, -, -, -, hfr⟩ := s.learnPeer_learns i
  rw [hfr]
  rfl

theorem State.learnPeer_port (s : State) (i j : Nat) : (s.learnPeer i).port j = s.port j := by
  unfold State.port
  rw [(s.learnPeer_learns i).1]

/-! ### Wavelengths that are lost (R339) -/

/-- A wavelength of a port is removed with a fast training. -/
def WavelengthLost (s t : State) (i w : Nat) : Prop :=
  let good := (s.port i).used.filter (· != w)
  (t.port i).outcome = outcomeFor good.length ∧ (t.port i).lanes = lanesFor good.length ∧ w ∈ (t.port i).removed
    ∧ (t.port i).trainKind = (if good = [] then 0 else 1) ∧ (t.port i).retrains = satAdd 16 (s.port i).retrains 1
    ∧ SameBut {} s.ports t.ports i
    ∧ t = { s with ports := t.ports, quays := t.quays, log := t.log, hosts := t.hosts, sivar := t.sivar, bring := t.bring
                   tiles := t.tiles, intakes := t.intakes, fabric := t.fabric, freeCtr := t.freeCtr }

theorem mem_addOnce {α : Type} [DecidableEq α] (l : List α) (a : α) : a ∈ addOnce l a := by
  unfold addOnce
  split
  next h => exact h
  next => exact List.mem_append_right _ (List.mem_singleton.2 rfl)

/-- What the loss of a wavelength does to a port that the pin leaves alone. -/
theorem State.loseWavelength_loses {s : State} {i w : Nat} (h : portPin s i ≠ 1 ∨ usersWithMarks s i ≠ []) :
    WavelengthLost s (s.loseWavelength i w) i w := by
  obtain ⟨good, hg⟩ : ∃ good, (s.port i).used.filter (· != w) = good := ⟨_, rfl⟩
  obtain ⟨n, hn⟩ : ∃ n, n = { (s.port i).lane good with
    trainKind := if good.isEmpty then 0 else 1, removed := addOnce (s.port i).removed w, move := none, badCounts := tdel (s.port i).badCounts w
    retrains := satAdd 16 (s.port i).retrains 1 } := ⟨_, rfl⟩
  have hpin : (s.changePort i n).pinNarrow i = s.changePort i n := by
    obtain ⟨hp, hu⟩ := State.changePort_pin (s := s) i n
    exact State.pinNarrow_stays (by rw [hp, hu]; exact h.imp_right Or.inl)
  have hlose : s.loseWavelength i w = (s.changePort i n).abortLink i := by
    rw [← hpin, hn, ← hg]
    rfl
  have hport : (s.loseWavelength i w).port i = { n with downSince := (wentDown s i n).downSince } := by
    rw [hlose, State.abortLink_port, State.changePort_port]
    exact wentDown_eq s i n
  refine ⟨?_, ?_, ?_, ?_, ?_, ?_, State.of_aroundTraining ?_⟩
  · rw [hport, hn, hg]
    rfl
  · rw [hport, hn, hg]
    rfl
  · rw [hport, hn]
    exact mem_addOnce _ _
  · rw [hport, hn, hg]
    exact if_congr List.isEmpty_iff rfl rfl
  · rw [hport, hn]
  · rw [hlose, State.abortLink_ports]
    exact s.changePort_sameBut i n
  · rw [hlose, State.abortLink_aroundTraining]
    exact State.aroundTraining_of (s.changePort_aroundPorts i n)

/-! ### Calibration (R339) -/

/-- A port after a measurement of one of its data wavelengths. -/
def Port.measured (v : Port) (w ratio : Nat) : Port :=
  { v with worst9 := max 0 ratio, badCounts := tput 0 v.badCounts w (if 1000 < ratio then tget 0 v.badCounts w + 1 else 0) }

/-- What a measurement keeps of a port is what the loss of a wavelength goes by. -/
theorem WavelengthLost.of_measured {s t : State} {i w ratio : Nat}
    (h : WavelengthLost (s.setPort i ((s.port i).measured w ratio)) t i w) : WavelengthLost s t i w := by
  have hput : (s.setPort i ((s.port i).measured w ratio)).port i = (s.port i).measured w ratio := tget_tput_same _ _ _ _
  obtain ⟨h1, h2, h3, h4, h5, h6, h7⟩ := h
  rw [hput] at h1 h2 h4 h5
  exact ⟨h1, h2, h3, h4, h5, fun j hj => (h6 j hj).trans (sameBut_tput {} s.ports i _ j hj), h7⟩

/-- A measurement of one data wavelength. -/
theorem execCalibrationMeasure_one {s : State} {i w ratio calib : Nat} {drift : Bool} (hi : i < 640) (hup : (s.port i).up = true)
    (hbit : (s.port i).map.testBit w = true) (hw : w ≤ 8) :
    (100000 < ratio → exec (.calibrationMeasure i [(w, ratio)] calib drift) s
      = .next ((s.setPort i ((s.port i).measured w ratio)).loseWavelength i w))
    ∧ (ratio ≤ 100000 → (ratio ≤ 1000 ∨ tget 0 (s.port i).badCounts w + 1 < 100) →
      exec (.calibrationMeasure i [(w, ratio)] calib drift) s = .next (
        if (drift && decide ((s.port i).calib ≠ 0xFF)) || (s.port i).retrainPending then
          (if (s.port i).outcome = 1 ∨ portBusy s i = false then (s.setPort i ((s.port i).measured w ratio)).trainFull i
            else (s.setPort i ((s.port i).measured w ratio)).setPort i
              { (s.setPort i ((s.port i).measured w ratio)).port i with retrainPending := true })
        else s.setPort i ((s.port i).measured w ratio))) := by
  have hmine : [(w, ratio)].filter (fun e => (s.port i).map.testBit e.1 && decide (e.1 ≤ 8)) = [(w, ratio)] := by simp [hbit, hw]
  refine ⟨fun hbad => (if_pos hi).trans (congrArg Host.Outcome.next ((if_neg ?_).trans ?_)),
    fun hr hc => (if_pos hi).trans (congrArg Host.Outcome.next ((if_neg ?_).trans ?_))⟩
  · rw [hup]; decide
  · dsimp only
    rw [hmine, show [(w, ratio)].find? (fun e => decide (100000 < e.2)) = some (w, ratio) by simp [hbad]]
    rfl
  · rw [hup]; decide
  · have hcount : ¬ 100 ≤ tget 0 ((s.port i).measured w ratio).badCounts w := by
      unfold Port.measured
      rw [tget_tput_same]
      split <;> omega
    dsimp only
    rw [hmine, show [(w, ratio)].find? (fun e => decide (100000 < e.2)) = none by simpa using hr]
    dsimp only
    simp only [List.foldl_cons, List.foldl_nil]
    rw [show [(w, ratio)].find? (fun e => decide (100 ≤ tget 0 (tput 0 (s.port i).badCounts w
      (if 1000 < ratio then tget 0 (s.port i).badCounts w + 1 else 0)) e.1)) = none by
        rw [List.find?_eq_none]
        rintro e he h
        rw [List.mem_singleton.1 he] at h
        exact hcount (of_decide_eq_true h)]
    rfl

/-- A port after a full training that ends well: the lane rule over its good wavelengths. -/
def Port.trainedTo (v : Port) (good : List Nat) (latency : Nat) : Port :=
  { v.lane good with trainKind := 0, latency16 := latency, removed := [], pinnedDown := false, left := false }

/-- A port after a full training that fails. -/
def Port.trainingFailed (v : Port) (now : Nat) : Port := { v.down now with trainKind := 0, downSince := now }

/-- The end of a training, by its kind, on a port that may work. -/
theorem execTrainingComplete_cases {s : State} {i good latency : Nat} (hi : i < 640) (hf : fusedPort s i = false) (hu : unitFenced s 4 i = false) :
    ((s.port i).trainKind = 1 → exec (.trainingComplete i good latency true) s
        = .next ((s.setPort i { s.port i with trainKind := 0 }).learnPeer i)
      ∧ exec (.trainingComplete i good latency false) s = .next (s.trainFull i))
    ∧ (2 ≤ (s.port i).trainKind → exec (.trainingComplete i good latency true) s
        = .next (((s.changePort i ((s.port i).trainedTo (goodOf s i good) latency)).pinNarrow i).learnPeer i)
      ∧ exec (.trainingComplete i good latency false) s
        = .next ((s.changePort i ((s.port i).trainingFailed s.now)).abortLink i)) := by
  have hoff : ¬ (fusedPort s i || unitFenced s 4 i) = true := by rw [hf, hu]; decide
  refine ⟨fun hk => ⟨(if_pos hi).trans (congrArg Host.Outcome.next ?_), (if_pos hi).trans (congrArg Host.Outcome.next ?_)⟩,
    fun hk => ⟨(if_pos hi).trans (congrArg Host.Outcome.next ?_), (if_pos hi).trans (congrArg Host.Outcome.next ?_)⟩⟩
  all_goals
    dsimp only
    rw [if_neg (by omega), if_neg hoff]
  · rw [if_pos hk]; rfl
  · rw [if_pos hk]; rfl
  · rw [if_neg (by omega)]; rfl
  · rw [if_neg (by omega)]; rfl

/-- The end of a training on a port that is off. -/
theorem execTrainingComplete_off {s : State} {i good latency : Nat} {ok : Bool} (hi : i < 640) (hk : (s.port i).trainKind ≠ 0)
    (hoff : fusedPort s i = true ∨ unitFenced s 4 i = true) : ∃ v : Port,
    v = { (s.port i).down s.now with outcome := if fusedPort s i then 5 else 0, trainKind := 0 }
      ∧ exec (.trainingComplete i good latency ok) s = .next (if ok then s.setPort i v else (s.setPort i v).abortLink i) := by
  refine ⟨_, rfl, (if_pos hi).trans (congrArg Host.Outcome.next ?_)⟩
  dsimp only
  rw [if_neg hk, if_pos (by rcases hoff with h | h <;> simp [h])]

/-- The events stand while what a port carried goes out again. -/
theorem State.resendAll_records (s : State) (i : Nat) :
    (s.resendAll i).log = s.log ∧ (s.resendAll i).hosts = s.hosts ∧ (s.resendAll i).sivar = s.sivar := by
  have hq := s.resendFrames_quietView
  simp only [State.quietView, Prod.mk.injEq] at hq
  obtain ⟨h1, h2, h3, -⟩ := hq
  unfold State.resendAll
  dsimp only
  split
  · refine List.foldlRecOn (motive := fun t : State => t.bump.log = s.log ∧ t.bump.hosts = s.hosts ∧ t.bump.sivar = s.sivar) _ _
      ⟨h1, h2, h3⟩ fun t ht e _ => ?_
    unfold State.putPacket
    split
    · exact ht
    · exact ht
  · exact ⟨h1, h2, h3⟩

/-! ### The obligation -/

/-- Settles O41: trainings give the lane rule's outcome, lost wavelengths a fast training, leaving peers DOWN (R335-R340, R350). -/
theorem portsTrainAndFail : Obligations.PortsTrainAndFail := by
  unfold Obligations.PortsTrainAndFail
  refine ⟨?retrain, ?training, ?wavelength, ?retry, ?leave⟩
  case retrain =>
    intro s cl i hi hs hf hb
    have hchecks : ∀ full, doRetrain i full s.asked = if parkedPort s i then (s.asked, stState)
        else if full then (s.asked.trainFull i, stOk)
        else (s.asked.setPort i { s.port i with trainKind := 1, retrains := satAdd 16 (s.port i).retrains 1 }, stOk) := fun full =>
      (if_neg (by rw [show fusedPort s.asked i = false from hf]; simp; omega)).trans
        (if_neg (by rw [show portBusy s.asked i = false from hb]; decide))
    refine ⟨fun hp => ⟨congrArg Host.Outcome.next (command_unchanged hs ((hchecks _).trans (if_pos hp))),
      congrArg Host.Outcome.next (command_unchanged hs ((hchecks _).trans (if_pos hp)))⟩, fun hp => ?_, fun hp => ?_⟩
    · have hdo := (hchecks false).trans ((if_neg (by rw [hp]; decide)).trans (if_neg (by decide)))
      exact ⟨_, congrArg Host.Outcome.next (command_changed hs hdo rfl), rfl, tget_tput_same _ s.ports i _, sameBut_tput {} s.ports i _, rfl⟩
    · obtain ⟨t, ht, hport, hsame, hfr⟩ := s.asked.trainFull_trains i
      have hdo := (hchecks true).trans ((if_neg (by rw [hp]; decide)).trans (if_pos rfl))
      rw [ht] at hdo
      exact ⟨_, congrArg Host.Outcome.next (command_changed hs hdo ((congrArg State.resp hfr).trans rfl)), rfl, hport ▸ rfl, hport ▸ rfl, hport ▸ rfl, hport ▸ rfl, hsame,
        congrArg (fun y : State => { y with resp := answered stOk }) hfr⟩
  case training =>
    intro s i good latency hi
    refine ⟨fun hk hoff ok => ?_, fun hf hu hk => ?_, fun hf hu hk => ?_⟩
    · obtain ⟨v, hv, hex⟩ := execTrainingComplete_off (good := good) (latency := latency) (ok := ok) hi hk hoff
      have hput : (s.setPort i v).port i = v := tget_tput_same _ s.ports i v
      have hsame : SameBut {} s.ports (s.setPort i v).ports i := sameBut_tput {} s.ports i v
      cases ok with
      | true =>
        refine ⟨_, hex, ?_, ?_, ?_, hsame, rfl⟩
        all_goals
          rw [if_pos rfl, hput, hv]
        rfl
      | false =>
        rw [if_neg (by decide)] at hex
        refine ⟨_, hex, ?_, ?_, ?_, ?_, ?_⟩
        · rw [State.abortLink_port, hput, hv]
        · rw [State.abortLink_port, hput, hv]
          rfl
        · rw [State.abortLink_port, hput, hv]
        · rw [State.abortLink_ports]
          exact hsame
        · have hports : ((s.setPort i v).abortLink i).ports = (s.setPort i v).ports := State.abortLink_ports _ i
          rw [hports]
          exact (s.setPort i v).abortLink_frame i
    · obtain ⟨hgood, hbad⟩ := (execTrainingComplete_cases (good := good) (latency := latency) hi hf hu).1 hk
      obtain ⟨a, ha⟩ : ∃ a, a = s.setPort i { s.port i with trainKind := 0 } := ⟨_, rfl⟩
      have hput : a.port i = { s.port i with trainKind := 0 } := ha ▸ tget_tput_same _ s.ports i _
      have hsame : SameBut {} s.ports a.ports i := ha ▸ sameBut_tput {} s.ports i _
      have hafr : a = { s with ports := a.ports } := ha ▸ rfl
      have hfab : a.fabric = s.fabric := ha ▸ rfl
      rw [← ha] at hgood
      obtain ⟨hp, hnew, hnone, hothers, honly, hfr⟩ := a.learnPeer_learns i
      have hup : (a.port i).up = (s.port i).up := by rw [hput]; rfl
      obtain ⟨t, ht, hport, htsame, htfr⟩ := s.trainFull_trains i
      rw [hup] at hnew hnone
      rw [hfab] at hnone hothers honly
      refine ⟨⟨_, hgood, (State.learnPeer_port a i i).trans hput, hnew, hnone, hothers, honly, hp ▸ hsame, ?_⟩,
        t, ht ▸ hbad, hport ▸ rfl, hport ▸ rfl, htsame, State.of_aroundTraining ((congrArg State.aroundTraining htfr).trans rfl)⟩
      rw [hp]
      exact hfr.trans (congrArg (fun y : State => { y with fabric := (a.learnPeer i).fabric, freeCtr := (a.learnPeer i).freeCtr }) hafr)
    · obtain ⟨hgood, hbad⟩ := (execTrainingComplete_cases (good := good) (latency := latency) hi hf hu).2 hk
      obtain ⟨v, hv⟩ : ∃ v, v = (s.port i).trainedTo (goodOf s i good) latency := ⟨_, rfl⟩
      have hvo : v.outcome = outcomeFor (goodOf s i good).length := hv ▸ rfl
      rw [← hv] at hgood
      obtain ⟨hpin, husers⟩ := State.changePort_pin (s := s) i v
      have hport : (s.changePort i v).port i = { v with downSince := (wentDown s i v).downSince } :=
        (s.changePort_port i v).trans (wentDown_eq s i v)
      refine ⟨fun hum hp1 hone => ?_, fun hno => ?_, ?_⟩
      · have hdown := State.pinNarrow_goesDown (s := s.changePort i v) (hpin.trans hp1) (husers.trans hum)
          (by rw [hport]; exact hvo.trans hone)
        obtain ⟨w, hw⟩ : ∃ w, w = { ((s.changePort i v).port i).down (s.changePort i v).now with pinnedDown := true } := ⟨_, rfl⟩
        have hwe := wentDown_eq (s.changePort i v) i w
        rw [hdown, ← hw] at hgood
        refine ⟨_, hgood, ?_, ?_, fun j hj => ?_, State.of_aroundTraining ?_⟩
        · rw [State.learnPeer_port, State.changePort_port, hwe, hw]
          rfl
        · rw [State.learnPeer_port, State.changePort_port, hwe, hw]
        · rw [(State.learnPeer_learns _ i).1]
          exact ((s.changePort i v).changePort_sameBut i w j hj).trans (s.changePort_sameBut i v j hj)
        · exact State.aroundTraining_of (by simp)
      · have hstay : (s.changePort i v).pinNarrow i = s.changePort i v := State.pinNarrow_stays (by
          rw [hpin, husers, hport]
          exact hno.imp_right (Or.imp_right fun h => by rw [← hvo] at h; exact h))
        rw [hstay] at hgood
        refine ⟨_, hgood, ?_, ?_, ?_, ?_, ?_, ?_, State.of_aroundTraining (State.aroundTraining_of (by simp))⟩
        · rw [State.learnPeer_port, hport]; exact hvo
        · rw [State.learnPeer_port, hport, hv]; rfl
        · rw [State.learnPeer_port, hport, hv]; rfl
        · rw [State.learnPeer_port, hport, hv]; rfl
        · rw [State.learnPeer_port, hport, hv]; rfl
        · rw [(State.learnPeer_learns _ i).1]
          exact s.changePort_sameBut i v
      · have hwe : wentDown s i ((s.port i).trainingFailed s.now) = (s.port i).trainingFailed s.now := by
          unfold wentDown
          split <;> rfl
        refine ⟨_, hbad, ?_, ?_, ?_, ?_, ?_, State.of_aroundTraining ?_⟩
        · rw [State.abortLink_port, State.changePort_port, hwe]; rfl
        · rw [State.abortLink_port, State.changePort_port, hwe]; rfl
        · rw [State.abortLink_port, State.changePort_port, hwe]; rfl
        · rw [State.abortLink_port, State.changePort_port, hwe]; rfl
        · rw [State.abortLink_ports]
          exact s.changePort_sameBut i _
        · rw [State.abortLink_aroundTraining]
          exact State.aroundTraining_of (s.changePort_aroundPorts i _)
  case wavelength =>
    intro s i w hi hup hbit hw hpin
    have hone := fun ratio calib drift => execCalibrationMeasure_one (ratio := ratio) (calib := calib) (drift := drift) hi hup hbit hw
    refine ⟨?_, fun ratio calib drift hbad => ?_, fun ratio calib hr hc hpend => ?_, fun ratio calib hr hcal => ⟨fun hgo => ?_, fun ho hb => ?_⟩⟩
    · exact ⟨_, (if_pos hi).trans (congrArg Host.Outcome.next (if_neg (by simp [hup, hbit, hw]))), State.loseWavelength_loses hpin⟩
    · refine ⟨_, (hone ratio calib drift).1 hbad, WavelengthLost.of_measured (ratio := ratio) (State.loseWavelength_loses ?_)⟩
      rw [portPin_congr rfl rfl rfl, usersWithMarks_congr rfl rfl]
      exact hpin
    · have hput : (s.setPort i ((s.port i).measured w ratio)).port i = (s.port i).measured w ratio := tget_tput_same _ _ _ _
      refine ⟨_, ((hone ratio calib false).2 hr hc).trans (congrArg Host.Outcome.next (if_neg (by rw [hpend]; simp))), ?_, ?_, ?_,
        sameBut_tput {} s.ports i _, rfl⟩
      · rw [hput]; exact Nat.zero_max ratio
      · rw [hput]; exact tget_tput_same _ _ _ _
      · rw [hput]
        unfold Port.measured
        rw [Nat.zero_max]
    · have hif : ((true && decide ((s.port i).calib ≠ 0xFF)) || (s.port i).retrainPending) = true := by simp [hcal]
      obtain ⟨t, ht, hport, hsame, -⟩ := (s.setPort i ((s.port i).measured w ratio)).trainFull_trains i
      refine ⟨t, ((hone ratio calib true).2 (by omega) (Or.inl hr)).trans (congrArg Host.Outcome.next ?_), hport ▸ rfl, hport ▸ rfl,
        fun j hj => (hsame j hj).trans (sameBut_tput {} s.ports i _ j hj)⟩
      rw [if_pos hif, if_pos hgo, ht]
    · have hif : ((true && decide ((s.port i).calib ≠ 0xFF)) || (s.port i).retrainPending) = true := by simp [hcal]
      have hput : (s.setPort i ((s.port i).measured w ratio)).port i = (s.port i).measured w ratio := tget_tput_same _ _ _ _
      obtain ⟨a, ha⟩ : ∃ a, a = s.setPort i ((s.port i).measured w ratio) := ⟨_, rfl⟩
      have hex := ((hone ratio calib true).2 (by omega) (Or.inl hr)).trans (congrArg Host.Outcome.next
        ((if_pos hif).trans (if_neg (by rintro (h | h); exacts [ho h, by rw [hb] at h; cases h]))))
      obtain ⟨v, hv⟩ : ∃ v, v = { (s.setPort i ((s.port i).measured w ratio)).port i with retrainPending := true } := ⟨_, rfl⟩
      rw [← hv] at hex
      have hp2 : ((s.setPort i ((s.port i).measured w ratio)).setPort i v).port i = v := tget_tput_same _ _ _ _
      refine ⟨_, hex, ?_, ?_, fun j hj => ?_, rfl⟩
      · rw [hp2, hv]
      · rw [hp2, hv, hput]; rfl
      · exact (sameBut_tput {} (s.setPort i ((s.port i).measured w ratio)).ports i v j hj).trans (sameBut_tput {} s.ports i _ j hj)
  case retry =>
    intro s i hi h0 hf hoff
    have hfence : unitFenced s 4 i = false := by
      unfold unitFenced
      unfold unitOff at hoff
      rw [List.any_eq_false] at hoff ⊢
      intro f hfm h
      exact hoff f hfm (by simp only [Bool.and_eq_true] at h ⊢; exact h.1)
    refine ⟨fun hp => (if_pos hi).trans (congrArg Host.Outcome.next (if_pos ?_)), fun hp hpin => ?_⟩
    · exact Or.inr (Or.inr (Or.inr (Or.inl hp)))
    · obtain ⟨a, ha⟩ : ∃ a, a = s.advance ((s.port i).downSince + 15000000000) := ⟨_, rfl⟩
      have hafr : a = { s with now := a.now, rtc := a.rtc } := ha ▸ rfl
      have hap : a.ports = s.ports := ha ▸ rfl
      have hnow : a.now = max s.now ((s.port i).downSince + 15000000000) := ha ▸ rfl
      obtain ⟨t, ht, hport, hsame, hfr⟩ := a.trainFull_trains i
      have hall := hfr.trans (congrArg (fun y : State => { y with ports := t.ports, quays := t.quays, intakes := t.intakes }) hafr)
      have e1 : t.now = a.now := (congrArg State.now hall).trans rfl
      have e2 : t.rtc = a.rtc := (congrArg State.rtc hall).trans rfl
      refine ⟨t, (if_pos hi).trans (congrArg Host.Outcome.next ((if_neg ?_).trans ?_)), e1.trans hnow, hport ▸ rfl, hport ▸ rfl, hap ▸ hsame, ?_⟩
      · rintro (h | h | h | h | ⟨h, h'⟩)
        · exact h h0
        · rw [hf] at h; cases h
        · rw [hfence] at h; cases h
        · rw [hp] at h; cases h
        · rcases hpin with hpin | hpin
          · rw [hpin] at h; cases h
          · exact hpin h'
      · rw [← ht, ha]
        rfl
      · rw [← e1, ← e2] at hall
        exact hall
  case leave =>
    intro s i hi hup
    obtain ⟨v, hv⟩ : ∃ v, v = { (s.port i).down s.now with left := true } := ⟨_, rfl⟩
    obtain ⟨a, ha⟩ : ∃ a, a = ((s.setPort i v).weighPort i).resendAll i := ⟨_, rfl⟩
    have hap : a.ports = tput {} s.ports i v := by rw [ha]; simp [State.setPort]
    have hput : a.port i = v := by
      unfold State.port
      rw [hap, tget_tput_same]
    have haround : a.aroundPorts = s.aroundPorts := by rw [ha]; simp
    have hafr := State.of_aroundPorts haround
    obtain ⟨hlog, hhosts, hsivar⟩ : a.log = s.log ∧ a.hosts = s.hosts ∧ a.sivar = s.sivar := by
      obtain ⟨h1, h2, h3⟩ := ((s.setPort i v).weighPort i).resendAll_records i
      have hq := (s.setPort i v).weighPort_quietView i
      simp only [State.quietView, Prod.mk.injEq] at hq
      obtain ⟨g1, g2, g3, -⟩ := hq
      rw [ha]
      exact ⟨h1.trans g1, h2.trans g2, h3.trans g3⟩
    obtain ⟨u, hu⟩ : ∃ u, u = a.event sevInfo evPortOutcome i 0 := ⟨_, rfl⟩
    have hufr : u = { a with log := u.log, hosts := u.hosts, sivar := u.sivar } := hu ▸ a.event_frame _ _ _ _
    have hall := hufr.trans (congrArg (fun y : State => { y with log := u.log, hosts := u.hosts, sivar := u.sivar }) hafr)
    have hup' : u.ports = tput {} s.ports i v := (congrArg State.ports hufr).trans hap
    have huport : u.port i = v := by
      unfold State.port
      rw [hup', tget_tput_same]
    have hlogged : Logged s u sevInfo evPortOutcome i 0 := hu ▸ logged_event_of hlog ((congrArg State.mc hafr).trans rfl)
      (State.cfg_congr (congrArg Sivar.config hsivar) _ _) sevInfo evPortOutcome i 0
    have htide : u.tide = s.tide := (congrArg State.tide hall).trans rfl
    have hquays : u.quays = a.quays := (congrArg State.quays hufr).trans rfl
    have hintakes : u.intakes = a.intakes := (congrArg State.intakes hufr).trans rfl
    have hfabric : u.fabric = a.fabric := (congrArg State.fabric hufr).trans rfl
    have hfree : u.freeCtr = a.freeCtr := (congrArg State.freeCtr hufr).trans rfl
    have hports : u.ports = a.ports := (congrArg State.ports hufr).trans rfl
    rw [← hquays, ← hintakes, ← hfabric, ← hfree, ← hports] at hall
    have hexec : exec (.leaveReceived i) s = .next (if (upstreamPorts s).head? = some i
        then { u with tide := { u.tide with upstreamSecondary := true } } else u) := by
      refine (if_pos hi).trans (congrArg Host.Outcome.next ((if_neg (by rw [hup]; decide)).trans ?_))
      rw [hu, ha, hv]
    by_cases hhead : (upstreamPorts s).head? = some i
    · rw [if_pos hhead] at hexec
      refine ⟨_, hexec, ?_, ?_, hlogged, fun _ => congrArg (fun y : Tide => { y with upstreamSecondary := true }) htide,
        fun h => absurd hhead h, hup' ▸ sameBut_tput {} s.ports i v,
        congrArg (fun y : State => { y with tide := { u.tide with upstreamSecondary := true } }) hall⟩
      · exact (congrArg Port.outcome huport).trans (by rw [hv]; rfl)
      · exact (congrArg Port.left huport).trans (by rw [hv])
    · rw [if_neg hhead] at hexec
      refine ⟨u, hexec, ?_, ?_, hlogged, fun h => absurd h hhead, fun _ => htide, hup' ▸ sameBut_tput {} s.ports i v, ?_⟩
      · rw [huport, hv]; rfl
      · rw [huport, hv]
      · rw [htide]
        exact hall

end Sys2Proof.Machine
end

section
/-! SUPPORT. Tests during work and the overlay's entries (R328-R333, R344). -/

namespace Sys2Proof.Machine

/-! ### A wavelength fence on a port that works (R328, R336) -/

/-- A module that serves its host, with one port WIDE over nine wavelengths, which no partition uses. -/
def idleWidePort : State :=
  { State.reset with
    mc := { State.reset.mc with up := true }
    hosts := [(0, { up := true })]
    ports := [(0, { outcome := 3, lanes := 8, map := 255, calib := 8 })] }

/-- An operator's entry of class 5 for wavelength 0 of port 0. -/
def wavelengthEntry : BitVec 128 := 0x405#128

/-- The events that an outcome's next state holds. -/
def loggedEvents (o : Out) : Nat :=
  match o with
  | .next t => t.log.entries.length
  | _ => 0

/-- The entry takes a wavelength that the port uses: an event reports the port's lower outcome. -/
theorem overlayAdd_wavelength_logs : loggedEvents (exec (.overlayAdd (.pcie 0) wavelengthEntry) idleWidePort) = 1 := by decide

/-! ### The obligation -/

/-- Refutes O40: an operator's entry that fences a wavelength of a port that works, where no partition uses the port, writes the event of
the port's lower outcome, and the log is not in the frame of the clause on entries with effect at once. -/
theorem not_testsAndOverlayEntries : ¬ Obligations.TestsAndOverlayEntries := by
  unfold Obligations.TestsAndOverlayEntries
  rintro ⟨-, -, -, hadd, -⟩
  obtain ⟨t, ht, -, -, -, hnone⟩ := hadd idleWidePort (.pcie 0) wavelengthEntry ⟨by decide, by decide, by decide⟩ (by decide) (by decide) (by decide)
    (by decide) (by decide) (by decide) (by decide) (by decide)
  obtain ⟨-, -, -, hframe⟩ := hnone (by decide)
  have hlog : t.log = idleWidePort.log := (congrArg State.log hframe).trans rfl
  have hcount := overlayAdd_wavelength_logs
  rw [ht] at hcount
  have hempty : t.log.entries.length = 0 := by rw [hlog]; rfl
  exact absurd (hempty.symm.trans hcount) (by decide)

end Sys2Proof.Machine
end

section
/-! SUPPORT. The controller's restarts, its journal and the copy of its log (R376, R377, R440). -/

namespace Sys2Proof.Machine

/-! ### What an event touches (R377-R380) -/

/-- Everything but what an event touches: the log, the hosts' vectors and the sessions' notes. -/
def State.unlogged (s : State) : State := { s with log := {}, hosts := [], sivar := { s.sivar with sessions := [] } }

theorem State.of_unlogged {s t : State} (h : t.unlogged = s.unlogged) : t = { s with log := t.log, hosts := t.hosts, sivar := t.sivar }
    ∧ t.sivar = { s.sivar with sessions := t.sivar.sessions } :=
  ⟨congrArg (fun y : State => { y with log := t.log, hosts := t.hosts, sivar := t.sivar }) h,
    congrArg (fun y : State => { y.sivar with sessions := t.sivar.sessions }) h⟩

@[simp] theorem State.append_unlogged (s : State) (e : Event) : (s.append e).unlogged = s.unlogged := by
  unfold State.append State.unlogged
  dsimp only
  split <;> rfl

@[simp] theorem State.eventAt_unlogged (s : State) (time a b c d : Nat) : (s.eventAt time a b c d).unlogged = s.unlogged := by
  unfold State.eventAt
  dsimp only
  split
  · rfl
  split
  · split <;> rfl
  · exact State.append_unlogged _ _

@[simp] theorem State.event_unlogged (s : State) (a b c d : Nat) : (s.event a b c d).unlogged = s.unlogged := s.eventAt_unlogged ..

/-- Draining the units' buffers only logs, and leaves none. -/
theorem State.drainBuffers_drains (s : State) : s.drainBuffers.unlogged = s.unlogged ∧ s.drainBuffers.log.buffered = []
    ∧ (s.log.buffered = [] → s.drainBuffers = s) := by
  obtain ⟨a, ha⟩ : ∃ a : State, a = { s with log := { s.log with buffered := [] } } := ⟨_, rfl⟩
  have hdrain : s.drainBuffers = s.log.buffered.foldl (fun (t : State) e => t.append e) a := ha ▸ rfl
  have hfold : ∀ l : List Event, (l.foldl (fun (t : State) e => t.append e) a).unlogged = s.unlogged
      ∧ (l.foldl (fun (t : State) e => t.append e) a).log.buffered = [] := fun l =>
    List.foldlRecOn (motive := fun t : State => t.unlogged = s.unlogged ∧ t.log.buffered = []) l _ (ha ▸ ⟨rfl, rfl⟩)
      fun t ht e _ => ⟨(t.append_unlogged e).trans ht.1, ht.2⟩
  rw [hdrain]
  refine ⟨(hfold _).1, (hfold _).2, fun h => ?_⟩
  rw [h, List.foldl_nil, ha, ← h]

/-- While the controller does not restart, a FAULT or FATAL event is the log's last entry. -/
theorem State.event_logs {s : State} (hr : s.mc.restarting = false) {sev : Nat} (hs : 3 ≤ sev) (code unit detail : Nat) :
    ∃ e, (s.event sev code unit detail).log.entries.getLast? = some e ∧ e.severity = sev ∧ e.code = code ∧ e.unit = unit ∧ e.detail = detail := by
  obtain ⟨e, h1, h2, h3, h4, h5, -⟩ := logged_event_of (s := s) rfl rfl rfl sev code unit detail hr (Or.inl hs)
  exact ⟨e, h1, h2, h3, h4, h5⟩

/-- While the controller does not restart, an event leaves the buffers. -/
theorem State.event_buffered {s : State} (hr : s.mc.restarting = false) (a b c d : Nat) : (s.event a b c d).log.buffered = s.log.buffered := by
  unfold State.event State.eventAt
  dsimp only
  split
  · rfl
  · rw [if_neg (by rw [hr]; decide)]
    rfl

/-! ### Restarts (R376, R440) -/

/-- What goes with a restart of the controller. -/
def ClientsGone (s t : State) : Prop :=
  t.sivar.sessions = [] ∧ t.sivar.staging = [] ∧ t.sivar.draft = none ∧ t.sivar.offerUntil = none
    ∧ t.mail = [] ∧ t.mailMarks = [] ∧ (∀ k ∈ t.sivar.tickets, k.done = true ∨ k.journalled = true)
    ∧ t.sivar = { s.sivar with sessions := [], staging := [], draft := none, offerUntil := none, tickets := t.sivar.tickets }

/-- A restart drops the clients and the mailboxes, and leaves the causes of faults and the run states. -/
theorem State.restart_restarts (s : State) (expired : Bool) : ClientsGone s (s.restart expired)
    ∧ (s.restart expired).mc = { s.mc with restarting := true, expired := expired }
    ∧ (∀ p, ((s.restart expired).ctlOf p).faults = (s.ctlOf p).faults)
    ∧ s.restart expired = { s with mc := (s.restart expired).mc, sivar := (s.restart expired).sivar, mail := [], mailMarks := []
                                   ctl := (s.restart expired).ctl } := by
  refine ⟨⟨rfl, rfl, rfl, rfl, rfl, rfl, fun k hk => ?_, rfl⟩, rfl, fun p => ?_, rfl⟩
  · obtain ⟨x, -, rfl⟩ := List.mem_map.1 hk
    split
    next h => exact (Bool.or_eq_true_iff ..).1 h
    next => exact Or.inl rfl
  · have hctl : (s.restart expired).ctlOf p = { s.ctlOf p with mailRecords := [] } :=
      tget_map (f := fun c : PartControl => { c with mailRecords := [] }) rfl s.ctl p
    rw [hctl]

/-- The entries of the journal that a replay drops. -/
def droppedAt (now : Nat) (l : List JournalEntry) : List JournalEntry :=
  l.filter (fun e => !e.done && !decide (now < e.effect) && e.kind != jApply)

/-- The controller once the stored image has been taken up. -/
def State.restarted (s : State) (now : Nat) : State :=
  { s.advance now with
    mc := { s.mc with
      restarting := false
      dropped := (droppedAt (s.advance now).now s.mc.journal).length
      journal := s.mc.journal.filter (fun e => !e.done && decide ((s.advance now).now < e.effect))
      applying := false
      expired := false }
    fw := { s.fw with running := s.fw.stored, stagingState := if s.mc.applying then 0 else s.fw.stagingState
                      staging := if s.mc.applying then none else s.fw.staging } }

/-- Entries that are not replayed. -/
theorem filter_dropped (s : State) (l : List JournalEntry) :
    l.filter (fun e => !e.done && !replays s e && e.kind != jApply) = droppedAt s.now l := by
  unfold droppedAt
  congr 1
  funext e
  unfold replays
  cases e.done <;> rfl

/-- A replay of the journal. -/
theorem execJournalReplay_replays {s : State} (hr : s.mc.restarting = true) (hrom : romDetail s = 0) (hl : s.bring.loader = false) :
    ∃ a u, a = s.restarted (s.now + 12000000000)
      ∧ u = (if s.mc.expired then (if s.mc.applying then a.endTicket s.fw.applyTicket stOk else a).event sevFault evWatchdog 0 a.mc.dropped
          else if s.mc.applying then a.endTicket s.fw.applyTicket stOk else a)
      ∧ exec .journalReplay s = .next u.drainBuffers := by
  obtain ⟨v, hv⟩ : ∃ v, v = s.now + 12000000000 := ⟨_, rfl⟩
  obtain ⟨a, ha⟩ : ∃ a, a = s.restarted v := ⟨_, rfl⟩
  refine ⟨a, _, hv ▸ ha, rfl, congrArg Host.Outcome.next ?_⟩
  rw [if_neg (by rw [hr]; decide), show s.now + 8 * 1000000 * cyPerTick = v from hv.symm]
  dsimp only
  rw [if_neg (not_not.2 (show romDetail (s.advance v) = 0 from hrom)), filter_dropped]
  have hs1 : a = { s.advance v with
      mc := { (s.advance v).mc with
        restarting := false, dropped := (droppedAt (s.advance v).now (s.advance v).mc.journal).length,
        journal := (s.advance v).mc.journal.filter (replays (s.advance v)), applying := false, expired := false }
      fw := { (s.advance v).fw with
        running := (s.advance v).fw.stored, stagingState := if (s.advance v).mc.applying then 0 else (s.advance v).fw.stagingState,
        staging := if (s.advance v).mc.applying then none else (s.advance v).fw.staging } } := ha
  rw [← hs1, show (droppedAt (s.advance v).now (s.advance v).mc.journal).length = a.mc.dropped by rw [ha]; rfl]
  obtain ⟨u, hu⟩ : ∃ u, u = if s.mc.expired then
      (if s.mc.applying then a.endTicket s.fw.applyTicket stOk else a).event sevFault evWatchdog 0 a.mc.dropped
    else if s.mc.applying then a.endTicket s.fw.applyTicket stOk else a := ⟨_, rfl⟩
  have hbring : u.bring = s.bring := by
    have hab : a.bring = s.bring := ha ▸ rfl
    have hb : (if s.mc.applying then a.endTicket s.fw.applyTicket stOk else a).bring = s.bring := by
      split
      · exact hab
      · exact hab
    rw [hu]
    split
    · exact (congrArg State.bring (State.event_unlogged _ sevFault evWatchdog 0 a.mc.dropped)).trans hb
    · exact hb
  have hloader : u.drainBuffers.bring.loader = false :=
    (congrArg (fun y : State => y.bring.loader) u.drainBuffers_drains.1).trans ((congrArg BringUp.loader hbring).trans hl)
  refine (if_neg ?_).trans (hu ▸ rfl)
  rw [hu] at hloader
  intro h
  exact absurd (hloader.symm.trans h) (by decide)
/-- What the events of a replay leave of the restarted state. -/
theorem restarted_unlogged {a u : State} {expired applying : Bool} {n d st : Nat}
    (hu : u = (if expired then (if applying then a.endTicket n st else a).event sevFault evWatchdog 0 d else if applying then a.endTicket n st else a)) :
    u.unlogged = (if applying then a.endTicket n st else a).unlogged := by
  rw [hu]
  split
  · exact State.event_unlogged _ _ _ _ _
  · rfl

/-! ### The obligation -/

/-- Settles O45: a restart drops the clients and leaves the wafer, a replay takes up the stored image and logs what was dropped (R376, R377, R440). -/
theorem controllerRestartsAndReplays : Obligations.ControllerRestartsAndReplays := by
  unfold Obligations.ControllerRestartsAndReplays
  refine ⟨?watchdog, ?firmware, ?replay, ?loader, fun s h => congrArg Host.Outcome.next (if_pos h)⟩
  case watchdog =>
    intro s hup hr
    obtain ⟨a, ha⟩ : ∃ a, s.restart true = a := ⟨_, rfl⟩
    obtain ⟨hgone, hmc, hfaults, hafr⟩ := s.restart_restarts true
    rw [ha] at hgone hmc hfaults hafr
    have hpart : ∀ p, a.part p = s.part p := fun p => part_congr ((congrArg State.parts hafr).trans rfl) p
    obtain ⟨t, ht⟩ : ∃ t, a.addFaults (partsWhere (fun p => decide ((s.part p).run = .running))) .controllerLost = t := ⟨_, rfl⟩
    have hadd := a.addFaults_added (fun p => decide ((s.part p).run = .running)) .controllerLost
    have htfr := a.addFaults_frame (partsWhere (fun p => decide ((s.part p).run = .running))) .controllerLost
    rw [ht] at hadd htfr
    have hall := htfr.trans (congrArg (fun y : State => { y with ctl := t.ctl }) hafr)
    have hsivar : t.sivar = a.sivar := (congrArg State.sivar htfr).trans rfl
    have hmc' : t.mc = a.mc := (congrArg State.mc htfr).trans rfl
    have hmail : t.mail = [] := (congrArg State.mail hall).trans rfl
    have hmarks : t.mailMarks = [] := (congrArg State.mailMarks hall).trans rfl
    refine ⟨t, congrArg Host.Outcome.next ((if_neg (by rw [hup, hr]; decide)).trans ?_), hmc'.trans hmc, ?_, fun p => ?_, ?_⟩
    · rw [← ht, ← ha]
    · obtain ⟨h1, h2, h3, h4, -, -, h7, h8⟩ := hgone
      rw [← hsivar] at h1 h2 h3 h4 h7 h8
      exact ⟨h1, h2, h3, h4, hmail, hmarks, h7, h8⟩
    · rw [hadd p, hpart p, hfaults p]
    · rw [← hmail, ← hmarks, ← hsivar, ← hmc'] at hall
      exact hall
  case firmware =>
    intro s hst hr
    obtain ⟨b, hb⟩ : ∃ b : State, b = { s.journalDone jApply 0 with fw := { s.fw with stored := s.fw.staging } } := ⟨_, rfl⟩
    have hbfr : b = { s with mc := b.mc, fw := b.fw } := hb ▸ rfl
    have hbfw : b.fw = { s.fw with stored := s.fw.staging } := hb ▸ rfl
    have hbmc : b.mc = { s.mc with journal := b.mc.journal } := hb ▸ rfl
    have hbj : ∀ e ∈ b.mc.journal, e.kind = jApply → e.unit = 0 → e.done = true := by
      intro e he hk hu
      rw [hb] at he
      obtain ⟨x, -, rfl⟩ := List.mem_map.1 he
      split at hk
      next => rw [if_pos (by assumption)]
      next hno =>
        rw [if_neg hno] at hu
        exact absurd ⟨hk, hu⟩ hno
    have hbs : b.sivar = s.sivar := hb ▸ rfl
    have hbctl : b.ctl = s.ctl := hb ▸ rfl
    obtain ⟨a, ha⟩ : ∃ a, b.restart false = a := ⟨_, rfl⟩
    obtain ⟨hgone, hmc, hfaults, hafr⟩ := b.restart_restarts false
    rw [ha] at hgone hmc hfaults hafr
    obtain ⟨h1, h2, h3, h4, h5, h6, h7, h8⟩ := hgone
    have hall := hafr.trans (congrArg (fun y : State => { y with mc := a.mc, sivar := a.sivar, mail := [], mailMarks := [], ctl := a.ctl }) hbfr)
    have hafw : a.fw = b.fw := (congrArg State.fw hafr).trans rfl
    rw [← hafw, ← h5, ← h6] at hall
    rw [hbs] at h8
    refine ⟨{ a with mc := { a.mc with applying := true } }, congrArg Host.Outcome.next ((if_neg ?_).trans ?_), hafw.trans hbfw,
      ⟨h1, h2, h3, h4, h5, h6, h7, h8⟩, ?_, fun e he => hbj e ?_, fun p => ?_, congrArg (fun y : State => { y with mc := { a.mc with applying := true } }) hall⟩
    · rintro (h | h)
      · exact h hst
      · rw [hr] at h; cases h
    · rw [← ha, hb]
      rfl
    · rw [hmc, hbmc]
    · have he' : e ∈ a.mc.journal := he
      rw [hmc] at he'
      exact he'
    · exact (hfaults p).trans (congrArg PartControl.faults (ctlOf_congr hbctl p))
  case replay =>
    intro s hr hrom hl
    obtain ⟨a, u, ha, hu, hex⟩ := execJournalReplay_replays hr hrom hl
    obtain ⟨b, hb⟩ : ∃ b, b = if s.mc.applying then a.endTicket s.fw.applyTicket stOk else a := ⟨_, rfl⟩
    have hub : u.unlogged = b.unlogged := (restarted_unlogged hu).trans (by rw [hb])
    rw [← hb] at hu
    have hafr : a = { s with now := a.now, rtc := a.rtc, mc := a.mc, fw := a.fw } := ha ▸ rfl
    have hanow : a.now = s.now + 12000000000 := by rw [ha]; exact Nat.max_eq_right (Nat.le_add_right ..)
    have halog : a.log = s.log := ha ▸ rfl
    have hbfr : b = { a with sivar := b.sivar } := by rw [hb]; split <;> rfl
    obtain ⟨hdun, hbuf, hempty⟩ := u.drainBuffers_drains
    obtain ⟨t, ht⟩ : ∃ t, u.drainBuffers = t := ⟨_, rfl⟩
    rw [ht] at hdun hbuf hempty hex
    obtain ⟨htfr, hsiv⟩ := State.of_unlogged (hdun.trans hub)
    have hall := htfr.trans (congrArg (fun y : State => { y with log := t.log, hosts := t.hosts, sivar := t.sivar })
      (hbfr.trans (congrArg (fun y : State => { y with sivar := b.sivar }) hafr)))
    have hnow : t.now = a.now := (congrArg State.now hall).trans rfl
    have hrtc : t.rtc = a.rtc := (congrArg State.rtc hall).trans rfl
    have hmc : t.mc = a.mc := (congrArg State.mc hall).trans rfl
    have hfw : t.fw = a.fw := (congrArg State.fw hall).trans rfl
    rw [← hnow, ← hrtc, ← hmc, ← hfw] at hall
    have hblog : b.log = s.log := (congrArg State.log hbfr).trans halog
    have hbmc : b.mc = a.mc := (congrArg State.mc hbfr).trans rfl
    refine ⟨t, hex, hnow.trans hanow, ?_, ?_, hbuf, fun hexp hno => ?_, fun hexp hno => ?_, fun happ => ⟨?_, ?_, fun k hk hkn => ?_⟩, hall⟩
    · rw [hfw, ha]; rfl
    · rw [hmc, hnow, ha]; rfl
    · have hu' : u = b.event sevFault evWatchdog 0 a.mc.dropped := hu.trans (if_pos hexp)
      have hbr : b.mc.restarting = false := by rw [hbmc, ha]; rfl
      obtain ⟨e, he, hsev, hcode, -, hdet⟩ := State.event_logs hbr (sev := sevFault) (by decide) evWatchdog 0 a.mc.dropped
      have hub : u.log.buffered = [] := by
        rw [hu', State.event_buffered hbr, hblog]
        exact hno
      refine ⟨e, ?_, hsev, hcode, ?_⟩
      · rw [hempty hub, hu']
        exact he
      · rw [hdet, hmc]
    · have hu' : u = b := hu.trans (if_neg (by rw [hexp]; decide))
      rw [hempty (by rw [hu', hblog]; exact hno), hu', hblog]
    · rw [hfw, ha]
      exact if_pos happ
    · rw [hfw, ha]
      exact if_pos happ
    · rw [hsiv, hb, if_pos happ] at hk
      exact a.endTicket_done s.fw.applyTicket stOk k hk hkn
  case loader =>
    intro s hr hrom
    obtain ⟨v, hv⟩ : ∃ v, v = s.now + 12000000000 := ⟨_, rfl⟩
    obtain ⟨b, hb⟩ : ∃ b : State, b = { s.advance v with
      mc := { s.mc with up := true, restarting := false }
      bring := { s.bring with active := true, stage := 0, stopped := true, loader := true } } := ⟨_, rfl⟩
    have hbr : b.mc.restarting = false := hb ▸ rfl
    have hbfr : b = { s with now := b.now, rtc := b.rtc, mc := b.mc, bring := b.bring } := hb ▸ rfl
    obtain ⟨t, ht⟩ : ∃ t, b.event sevFatal evStageStop 0 (romDetail s) = t := ⟨_, rfl⟩
    obtain ⟨e, he, hsev, hcode, -, hdet⟩ := State.event_logs hbr (sev := sevFatal) (by decide) evStageStop 0 (romDetail s)
    obtain ⟨htfr, -⟩ := State.of_unlogged (b.event_unlogged sevFatal evStageStop 0 (romDetail s))
    rw [ht] at he htfr
    have hall := htfr.trans (congrArg (fun y : State => { y with log := t.log, hosts := t.hosts, sivar := t.sivar }) hbfr)
    have hnow : t.now = b.now := (congrArg State.now htfr).trans rfl
    have hrtc : t.rtc = b.rtc := (congrArg State.rtc htfr).trans rfl
    have hmc : t.mc = b.mc := (congrArg State.mc htfr).trans rfl
    have hbring : t.bring = b.bring := (congrArg State.bring htfr).trans rfl
    rw [← hnow, ← hrtc, ← hmc, ← hbring] at hall
    refine ⟨t, e, congrArg Host.Outcome.next ((if_neg (by rw [hr]; decide)).trans ?_), ?_, ?_, ?_, he, hsev, hcode, hdet, hall⟩
    · rw [show s.now + 8 * 1000000 * cyPerTick = v from hv.symm]
      dsimp only
      rw [if_pos (show romDetail (s.advance v) ≠ 0 from hrom), ← ht, hb]
      rfl
    · rw [hnow, hb]
      exact (Nat.max_eq_right (by omega)).trans hv
    · rw [hmc, hb]
    · rw [hbring, hb]

end Sys2Proof.Machine
end

section
/-! SUPPORT. Power states: the drain to STANDBY, the removal of power, and deep park (R423-R429). -/

namespace Sys2Proof.Machine

/-! ### What a reset of cores and partitions leaves alone -/

/-- The state without the cores, their scratchpads and gantries, packets on their way, the records of the partitions and quays, and
the clients' view. -/
def State.workless (s : State) : State :=
  { s with
    cores := [], health := [], pad := [], marks := [], gantries := [], net := [], transit := [], tiles := [], ctl := [], freeCtr := 0
    log := {}, hosts := [], sivar := {}, quays := [], intakes := [], fabric := {}, ledger := { s.ledger with rejectsReceived := 0 } }

/-- Everything but what a reset of cores and columns may touch. -/
def State.aroundReset (s : State) : State := { s.workless with sivar := { config := s.sivar.config } }

theorem State.aroundReset_congr {s t : State} (h : t.workless = s.workless) (hc : t.sivar.config = s.sivar.config) :
    t.aroundReset = s.aroundReset := by
  unfold State.aroundReset
  rw [h, hc]

theorem foldl_aroundReset {α : Type} {f : State → α → State} (hf : ∀ t a, (f t a).aroundReset = t.aroundReset) (l : List α) (s : State) :
    (l.foldl f s).aroundReset = s.aroundReset :=
  List.foldlRecOn (motive := fun t => t.aroundReset = s.aroundReset) l f rfl fun t ht a _ => (hf t a).trans ht

@[simp] theorem State.setCore_aroundReset (s : State) (c : Nat) (k : Core) : (s.setCore c k).aroundReset = s.aroundReset := rfl
@[simp] theorem State.setHeal_aroundReset (s : State) (c : Nat) (h : CoreHealth) : (s.setHeal c h).aroundReset = s.aroundReset := rfl
@[simp] theorem State.setCtl_aroundReset (s : State) (p : Nat) (v : PartControl) : (s.setCtl p v).aroundReset = s.aroundReset := rfl
@[simp] theorem State.setGantry_aroundReset (s : State) (x : Nat) (v : Gantry) : (s.setGantry x v).aroundReset = s.aroundReset := rfl
@[simp] theorem State.setQuay_aroundReset (s : State) (q : Nat) (v : Quay) : (s.setQuay q v).aroundReset = s.aroundReset := rfl
@[simp] theorem State.setTile_aroundReset (s : State) (k : Nat) (v : Tile) : (s.setTile k v).aroundReset = s.aroundReset := rfl
@[simp] theorem State.bump_aroundReset (s : State) : s.bump.aroundReset = s.aroundReset := rfl
@[simp] theorem State.forgetPad_aroundReset (s : State) (c : Nat) (b : Bool) : (s.forgetPad c b).aroundReset = s.aroundReset := rfl
@[simp] theorem State.endTicket_aroundReset (s : State) (n st : Nat) : (s.endTicket n st).aroundReset = s.aroundReset := rfl

@[simp] theorem State.event_aroundReset (s : State) (a b c d : Nat) : (s.event a b c d).aroundReset = s.aroundReset :=
  State.aroundReset_congr ((congrArg State.workless (s.event_frame a b c d)).trans rfl) (by rw [State.event_sivar])

@[simp] theorem State.rowWritten_aroundReset (s : State) (c row : Nat) : (s.rowWritten c row).aroundReset = s.aroundReset := by
  simp only [State.rowWritten]
  split <;> rfl

theorem State.bytes_rowWritten_aroundReset (s : State) (m : List Host.Cell) (k : Tbl (Option Mark)) (c row : Nat) :
    (({ s with pad := m, marks := k } : State).rowWritten c row).aroundReset = s.aroundReset :=
  (State.rowWritten_aroundReset _ c row).trans rfl

@[simp] theorem State.writeRow_aroundReset (s : State) (c row : Nat) (d : Row) : (s.writeRow c row d).aroundReset = s.aroundReset :=
  s.bytes_rowWritten_aroundReset ..

@[simp] theorem State.abandon_aroundReset (s : State) (c : Nat) : (s.abandon c).aroundReset = s.aroundReset := by
  obtain ⟨_, _, _, _, hconfig, hframe⟩ := s.abandon_abandons c
  exact State.aroundReset_congr ((congrArg State.workless hframe).trans rfl) hconfig

@[simp] theorem State.completeChannel_aroundReset (s : State) (c ch : Nat) : (s.completeChannel c ch).aroundReset = s.aroundReset := by
  simp only [State.completeChannel]
  split <;> simp

@[simp] theorem State.endTransfer_aroundReset (s : State) (c ch : Nat) : (s.endTransfer c ch).aroundReset = s.aroundReset := by
  simp only [State.endTransfer, State.bump_aroundReset, State.setCore_aroundReset]
  split
  · exact foldl_aroundReset (fun t e => by split <;> simp) _ _
  · rfl

@[simp] theorem State.disableChannel_aroundReset (s : State) (c ch : Nat) : (s.disableChannel c ch).aroundReset = s.aroundReset := by
  simp only [State.disableChannel]
  split
  · simp
  · simp
  · split_ifs <;> simp

@[simp] theorem State.disableMask_aroundReset (s : State) (c m : Nat) : (s.disableMask c m).aroundReset = s.aroundReset :=
  foldl_aroundReset (fun t ch => by split_ifs <;> simp) _ _

@[simp] theorem State.coreStop_aroundReset (s : State) (c : Nat) : (s.coreStop c).aroundReset = s.aroundReset := by
  simp [State.coreStop]

@[simp] theorem State.forwardRow_aroundReset (s : State) (p : NetPacket) : (s.forwardRow p).aroundReset = s.aroundReset := by
  unfold State.forwardRow State.sendPacket
  split
  · rfl
  · dsimp only
    split_ifs
    · rfl
    · split <;> rfl

@[simp] theorem State.inject_aroundReset (s : State) (c : Nat) (p : NetPacket) : (s.inject c p).aroundReset = s.aroundReset := by
  simp only [State.inject]
  split_ifs
  · rfl
  · rw [State.forwardRow_aroundReset]
    rfl

@[simp] theorem State.coreClear_aroundReset (s : State) (c : Nat) : (s.coreClear c).aroundReset = s.aroundReset := by
  simp only [State.coreClear, State.setHeal_aroundReset, State.setCore_aroundReset]
  exact (foldl_aroundReset (fun t r => by simp) _ _).trans (by simp)

@[simp] theorem State.coresReset_aroundReset (s : State) (cs : List Nat) : (s.coresReset cs).aroundReset = s.aroundReset :=
  (foldl_aroundReset (fun t c => by simp) _ _).trans (foldl_aroundReset (fun t c => by simp) _ _)

@[simp] theorem State.noteOrphans_aroundReset (s : State) (x : Nat) : (s.noteOrphans x).aroundReset = s.aroundReset := by
  simp only [State.noteOrphans]
  split_ifs <;> simp

@[simp] theorem State.closeStep_aroundReset (s : State) (p : Nat) : (s.closeStep p).aroundReset = s.aroundReset :=
  (foldl_aroundReset (fun t x => by simp) _ _).trans (by simp)

@[simp] theorem State.clearColumns_aroundReset (s : State) (p : Nat) : (s.clearColumns p).aroundReset = s.aroundReset :=
  (foldl_aroundReset (fun t q => by simp) _ _).trans rfl

@[simp] theorem State.clearEgress_aroundReset (s : State) (p : Nat) : (s.clearEgress p).aroundReset = s.aroundReset := rfl

@[simp] theorem State.withdrawPreempt_aroundReset (s : State) (p st : Nat) : (s.withdrawPreempt p st).aroundReset = s.aroundReset := by
  unfold State.withdrawPreempt
  split <;> simp

/-! ### Versions that stand -/

/-- What is told of the versions when fetches end: a tensor's record stands, no more versions retire, and every version that did not
retire is still there. -/
structure VersionsKept (s t : State) : Prop where
  record : ∀ id, (t.tensor id).record = (s.tensor id).record
  retiring : ∀ id n, n ∈ (t.tensor id).retiring → n ∈ (s.tensor id).retiring
  versions : ∀ id, ∀ v ∈ (s.tensor id).versions, v.number ∉ (s.tensor id).retiring → v ∈ (t.tensor id).versions

namespace VersionsKept

theorem refl (s : State) : VersionsKept s s := ⟨fun _ => rfl, fun _ _ h => h, fun _ _ h _ => h⟩

theorem trans {s t u : State} (a : VersionsKept s t) (b : VersionsKept t u) : VersionsKept s u :=
  ⟨fun id => (b.record id).trans (a.record id), fun id n h => a.retiring id n (b.retiring id n h),
    fun id v hv hn => b.versions id v (a.versions id v hv hn) fun hr => hn (a.retiring id _ hr)⟩

theorem of_tensors {s t : State} (h : t.tensors = s.tensors) : VersionsKept s t := by
  have hid : ∀ id, t.tensor id = s.tensor id := fun id => congrArg (fun m => tget ({} : Tensor) m id) h
  exact ⟨fun id => by rw [hid], fun id n hn => by rwa [hid] at hn, fun id v hv _ => by rwa [hid]⟩

theorem foldl {α : Type} {f : State → α → State} (hf : ∀ t a, VersionsKept t (f t a)) (l : List α) (s : State) :
    VersionsKept s (l.foldl f s) :=
  List.foldlRecOn (motive := VersionsKept s) l f (refl s) fun _ ht a _ => ht.trans (hf _ a)

end VersionsKept

/-- The versions that are left when some retire. -/
theorem State.foldl_retireVersion_tensor (tid : Nat) (l : List Nat) (s : State) :
    (l.foldl (fun u n => u.retireVersion tid n) s).tensor tid =
      { s.tensor tid with versions := (s.tensor tid).versions.filter (fun x => decide (x.number ∉ l)) } := by
  induction l generalizing s with
  | nil => simp
  | cons n l ih =>
    have hboth : ((s.tensor tid).versions.filter (fun x => x.number != n)).filter (fun x => decide (x.number ∉ l))
        = (s.tensor tid).versions.filter (fun x => decide (x.number ∉ n :: l)) := by
      rw [List.filter_filter]
      refine List.filter_congr fun x _ => ?_
      by_cases hx : x.number = n <;> simp [hx]
    rw [List.foldl_cons, ih, State.retireVersion_tensor]
    exact congrArg (fun vs => ({ s.tensor tid with versions := vs } : Tensor)) hboth

theorem State.foldl_retireVersion_others (tid : Nat) (l : List Nat) (s : State) {id : Nat} (h : id ≠ tid) :
    (l.foldl (fun u n => u.retireVersion tid n) s).tensor id = s.tensor id :=
  List.foldlRecOn (motive := fun t : State => t.tensor id = s.tensor id) l _ rfl fun _ ht _ _ =>
    (tget_tput_ne _ _ _ _ _ h).trans ht

theorem State.retireUnnamed_kept (s : State) (tid : Nat) : VersionsKept s (s.retireUnnamed tid) := by
  unfold State.retireUnnamed
  dsimp only
  split
  · exact .refl s
  · obtain ⟨l, hl⟩ : ∃ l, (s.tensor tid).retiring.filter (fun n => !versionNamed s tid n) = l := ⟨_, rfl⟩
    have hmem : ∀ n ∈ l, n ∈ (s.tensor tid).retiring := fun n hn => by
      rw [← hl] at hn
      exact (List.mem_filter.mp hn).1
    rw [hl]
    obtain ⟨u, hu⟩ : ∃ u, l.foldl (fun u n => u.retireVersion tid n) s = u := ⟨_, rfl⟩
    have hown : u.tensor tid = { s.tensor tid with versions := (s.tensor tid).versions.filter (fun x => decide (x.number ∉ l)) } := by rw [← hu]; exact State.foldl_retireVersion_tensor tid l s
    have hoth : ∀ {id}, id ≠ tid → u.tensor id = s.tensor id := fun h => by rw [← hu]; exact State.foldl_retireVersion_others tid l s h
    rw [hu]
    have hset : ∀ v id, (u.setTensor tid v).tensor id = if id = tid then v else u.tensor id := fun v id => tget_tput ..
    refine ⟨fun id => ?_, fun id n hn => ?_, fun id v hv hr => ?_⟩
    · rw [hset]
      by_cases h : id = tid
      · subst h; rw [if_pos rfl, hown]
      · rw [if_neg h, hoth h]
    · rw [hset] at hn
      by_cases h : id = tid
      · subst h
        rw [if_pos rfl] at hn
        exact (List.mem_filter.mp hn).1
      · rwa [if_neg h, hoth h] at hn
    · rw [hset]
      by_cases h : id = tid
      · subst h
        rw [if_pos rfl, hown]
        exact List.mem_filter.mpr ⟨hv, decide_eq_true fun hl => hr (hmem _ hl)⟩
      · rwa [if_neg h, hoth h]

theorem State.retireUnnamed_frame (s : State) (tid : Nat) :
    s.retireUnnamed tid = { s with tensors := (s.retireUnnamed tid).tensors, quays := (s.retireUnnamed tid).quays } := by
  have one : ∀ (l : List Nat) (t : State), t = { s with tensors := t.tensors, quays := t.quays } →
      l.foldl (fun u n => u.retireVersion tid n) t = { s with
        tensors := (l.foldl (fun u n => u.retireVersion tid n) t).tensors, quays := (l.foldl (fun u n => u.retireVersion tid n) t).quays } := by
    intro l
    induction l with
    | nil => exact fun t h => h
    | cons n l ih =>
      intro t h
      refine ih _ ?_
      rw [h]
      rfl
  unfold State.retireUnnamed
  dsimp only
  split
  · rfl
  · obtain ⟨u, hu⟩ : ∃ u, ((s.tensor tid).retiring.filter (fun n => !versionNamed s tid n)).foldl (fun u n => u.retireVersion tid n) s = u := ⟨_, rfl⟩
    have h := one ((s.tensor tid).retiring.filter (fun n => !versionNamed s tid n)) s rfl
    rw [hu] at h ⊢
    exact congrArg (fun y : State => y.setTensor tid
      { u.tensor tid with retiring := (s.tensor tid).retiring.filter (fun n => versionNamed s tid n) }) h

/-- The end of a set of tensors' retired versions changes their versions and the quays' notes of damage. -/
theorem State.retireAll_frame (l : List Nat) (s : State) :
    l.foldl (fun (u : State) tid => u.retireUnnamed tid) s = { s with
      tensors := (l.foldl (fun (u : State) tid => u.retireUnnamed tid) s).tensors
      quays := (l.foldl (fun (u : State) tid => u.retireUnnamed tid) s).quays } := by
  induction l generalizing s with
  | nil => rfl
  | cons tid l ih =>
    rw [List.foldl_cons]
    obtain ⟨u, hu⟩ : ∃ u, s.retireUnnamed tid = u := ⟨_, rfl⟩
    have h := s.retireUnnamed_frame tid
    rw [hu] at h ⊢
    obtain ⟨v, hv⟩ : ∃ v, l.foldl (fun (u : State) tid => u.retireUnnamed tid) u = v := ⟨_, rfl⟩
    have hih := ih u
    rw [hv] at hih ⊢
    exact hih.trans (congrArg (fun y : State => { y with tensors := v.tensors, quays := v.quays }) h)

theorem State.retireAll_kept (l : List Nat) (s : State) : VersionsKept s (l.foldl (fun (u : State) tid => u.retireUnnamed tid) s) :=
  .foldl (fun t tid => t.retireUnnamed_kept tid) l s

theorem State.cancelFetches_kept (s : State) (p : Nat) : VersionsKept s (s.cancelFetches p) :=
  VersionsKept.trans (t := { s with quays := s.quays.map (fun e => (e.1, (e.2.cancel p).takeWaiting)) }) (.of_tensors rfl)
    (State.retireAll_kept ..)

theorem State.cancelFetches_frame (s : State) (p : Nat) :
    s.cancelFetches p = { s with tensors := (s.cancelFetches p).tensors, quays := (s.cancelFetches p).quays } := by
  unfold State.cancelFetches
  dsimp only
  obtain ⟨a, ha⟩ : ∃ a, ({ s with quays := s.quays.map (fun e => (e.1, (e.2.cancel p).takeWaiting)) } : State) = a := ⟨_, rfl⟩
  have hf : a = { s with quays := a.quays } := by rw [← ha]
  obtain ⟨l, hl⟩ : ∃ l, s.tensors.map (fun e => e.1) = l := ⟨_, rfl⟩
  rw [ha, hl]
  obtain ⟨v, hv⟩ : ∃ v, l.foldl (fun (u : State) tid => u.retireUnnamed tid) a = v := ⟨_, rfl⟩
  have h := State.retireAll_frame l a
  rw [hv] at h ⊢
  exact h.trans (congrArg (fun y : State => { y with tensors := v.tensors, quays := v.quays }) hf)


/-! ### The stop of every partition -/

/-- Everything but what the stop of the partitions and of the tests may touch. -/
def State.aroundStop (s : State) : State :=
  { s.aroundReset with parts := [], tensors := [], bring := { s.bring with tests := [], finished := [] } }

theorem State.aroundStop_congr {s t : State} (h : t.aroundReset = s.aroundReset) : t.aroundStop = s.aroundStop :=
  (congrArg (fun y : State => ({ y with parts := [], tensors := [], bring := { y.bring with tests := [], finished := [] } } : State)) h :)

@[simp] theorem State.setPart_aroundStop (s : State) (p : Nat) (v : Partition) : (s.setPart p v).aroundStop = s.aroundStop := rfl
@[simp] theorem State.setCtl_aroundStop (s : State) (p : Nat) (v : PartControl) : (s.setCtl p v).aroundStop = s.aroundStop := rfl
@[simp] theorem State.coresReset_aroundStop (s : State) (cs : List Nat) : (s.coresReset cs).aroundStop = s.aroundStop :=
  State.aroundStop_congr (by simp)
@[simp] theorem State.closeStep_aroundStop (s : State) (p : Nat) : (s.closeStep p).aroundStop = s.aroundStop :=
  State.aroundStop_congr (by simp)
@[simp] theorem State.cancelFetches_aroundStop (s : State) (p : Nat) : (s.cancelFetches p).aroundStop = s.aroundStop :=
  (congrArg State.aroundStop (s.cancelFetches_frame p)).trans rfl
@[simp] theorem State.withdrawPreempt_aroundStop (s : State) (p st : Nat) : (s.withdrawPreempt p st).aroundStop = s.aroundStop :=
  State.aroundStop_congr (by simp)
@[simp] theorem State.clearColumns_aroundStop (s : State) (p : Nat) : (s.clearColumns p).aroundStop = s.aroundStop :=
  State.aroundStop_congr (by simp)
@[simp] theorem State.clearEgress_aroundStop (s : State) (p : Nat) : (s.clearEgress p).aroundStop = s.aroundStop := rfl

@[simp] theorem State.partitionReset_aroundStop (s : State) (p : Nat) : (s.partitionReset p).aroundStop = s.aroundStop := by
  simp [State.partitionReset]

@[simp] theorem State.stopForReset_aroundStop (s : State) (p : Nat) : (s.stopForReset p).aroundStop = s.aroundStop := by
  simp only [State.stopForReset]
  split_ifs <;> simp

theorem State.parts_of_aroundReset {s t : State} (h : t.aroundReset = s.aroundReset) : t.parts = s.parts := (congrArg State.parts h :)
theorem State.tensors_of_aroundReset {s t : State} (h : t.aroundReset = s.aroundReset) : t.tensors = s.tensors := (congrArg State.tensors h :)

/-- The reset of a partition keeps the run state of every partition, and writes no other partition. -/
theorem State.partitionReset_parts (s : State) (p : Nat) : ∃ v : Partition, v.run = (s.part p).run ∧ v.resume = none
    ∧ (s.partitionReset p).parts = tput {} s.parts p v := by
  have hbefore : ((((s.clearColumns p).clearEgress p).cancelFetches p).withdrawPreempt p stState).parts = s.parts := by
    rw [State.parts_of_aroundReset (State.withdrawPreempt_aroundReset ..)]
    refine ((congrArg State.parts (State.cancelFetches_frame ..)).trans rfl).trans (State.parts_of_aroundReset (t := (s.clearColumns p).clearEgress p) ?_)
    simp
  have hparts := (State.parts_of_aroundReset (State.coresReset_aroundReset _ (bandCores s p))).trans hbefore
  unfold State.partitionReset
  dsimp only
  obtain ⟨u, hu⟩ : ∃ u, ((((s.clearColumns p).clearEgress p).cancelFetches p).withdrawPreempt p stState).coresReset (bandCores s p) = u := ⟨_, rfl⟩
  rw [hu] at hparts ⊢
  have hpart : u.part p = s.part p := congrArg (fun m => tget ({} : Partition) m p) hparts
  refine ⟨{ u.part p with barriers := [], variant := 0, resume := none, latches := [], resetAt := if (bandCores s p).any (fun c => (u.heal c).resetting) then some (s.now + 1000 * cyPerTick) else none },
    (congrArg Partition.run hpart :), rfl, ?_⟩
  exact congrArg (fun m => tput ({} : Partition) m p _) hparts

theorem State.partitionReset_kept (s : State) (p : Nat) : VersionsKept s (s.partitionReset p) := by
  have h1 : VersionsKept s ((s.clearColumns p).clearEgress p) :=
    .of_tensors (State.tensors_of_aroundReset (t := (s.clearColumns p).clearEgress p) (by simp))
  have h2 := h1.trans (((s.clearColumns p).clearEgress p).cancelFetches_kept p)
  have h3 := h2.trans (.of_tensors (State.tensors_of_aroundReset (State.withdrawPreempt_aroundReset _ p stState)))
  have h4 := h3.trans (.of_tensors (State.tensors_of_aroundReset (State.coresReset_aroundReset _ (bandCores s p))))
  exact h4.trans (.of_tensors rfl)

theorem State.stopForReset_kept (s : State) (p : Nat) : VersionsKept s (s.stopForReset p) := by
  have hclose : ∀ b : Bool, VersionsKept s (if b then s.closeStep p else s) := fun b => by
    cases b
    · exact .refl s
    · exact .of_tensors (State.tensors_of_aroundReset (s.closeStep_aroundReset p))
  unfold State.stopForReset
  split
  · exact .refl s
  · obtain ⟨a, ha⟩ : ∃ a, (if (s.part p).marks then s.closeStep p else s) = a := ⟨_, rfl⟩
    have h := (ha ▸ hclose _ : VersionsKept s a).trans (a.partitionReset_kept p)
    dsimp only
    rw [ha]
    obtain ⟨u, hu⟩ : ∃ u, a.partitionReset p = u := ⟨_, rfl⟩
    rw [hu] at h ⊢
    exact h.trans (.of_tensors rfl)

theorem State.stopForReset_run (s : State) (p q : Nat) :
    ((s.stopForReset p).part q).run = if q = p then .stopped else (s.part q).run := by
  have hclose : ∀ b : Bool, (if b then s.closeStep p else s).parts = s.parts := fun b => by
    cases b
    · rfl
    · exact State.parts_of_aroundReset (s.closeStep_aroundReset p)
  unfold State.stopForReset
  split
  case isTrue h =>
    by_cases hq : q = p
    · rw [if_pos hq, hq, h]
    · rw [if_neg hq]
  case isFalse h =>
    obtain ⟨a, ha⟩ : ∃ a, (if (s.part p).marks then s.closeStep p else s) = a := ⟨_, rfl⟩
    have hap : a.parts = s.parts := by rw [← ha]; exact hclose _
    obtain ⟨v, _, _, hv⟩ := a.partitionReset_parts p
    rw [ha]
    show (tget ({} : Partition) (tput {} (a.partitionReset p).parts p _) q).run = _
    rw [tget_tput]
    by_cases hq : q = p
    · rw [if_pos hq, if_pos hq]
    · rw [if_neg hq, if_neg hq, hv, tget_tput_ne _ _ _ _ _ hq, hap]
      rfl

@[simp] theorem State.endTest_aroundStop (s : State) (x : TestRun) (a b c : Nat) : (s.endTest x a b c).aroundStop = s.aroundStop := by
  unfold State.endTest
  dsimp only
  obtain ⟨u, hu⟩ : ∃ u, ((List.range 48).filter (fun k => x.tiles.getLsbD k && decide ((s.tile k).state = .darkShed))).foldl
    (fun (u : State) k => u.setTile k { u.tile k with fastClock := false }) s = u := ⟨_, rfl⟩
  have h : u.aroundReset = s.aroundReset := by
    rw [← hu]
    exact foldl_aroundReset (fun t k => t.setTile_aroundReset k _) _ s
  rw [hu]
  have hb : u.bring = s.bring := (congrArg State.bring h :)
  rw [← hb]
  exact (State.aroundStop_congr h :)

theorem State.endTest_stays (s : State) (x : TestRun) (a b c : Nat) : (s.endTest x a b c).parts = s.parts
    ∧ (s.endTest x a b c).tensors = s.tensors ∧ (s.endTest x a b c).bring.tests = s.bring.tests.filter (fun y => y != x) := by
  unfold State.endTest
  dsimp only
  obtain ⟨u, hu⟩ : ∃ u, ((List.range 48).filter (fun k => x.tiles.getLsbD k && decide ((s.tile k).state = .darkShed))).foldl
    (fun (u : State) k => u.setTile k { u.tile k with fastClock := false }) s = u := ⟨_, rfl⟩
  have h : u.aroundReset = s.aroundReset := by
    rw [← hu]
    exact foldl_aroundReset (fun t k => t.setTile_aroundReset k _) _ s
  rw [hu]
  exact ⟨State.parts_of_aroundReset h, State.tensors_of_aroundReset h, rfl⟩

/-- What the drain of the module begins with: every partition stops, and every test ends. -/
structure DrainBegun (s t : State) : Prop where
  stopped : ∀ p, p < 8 → (t.part p).run = .stopped
  tests : t.bring.tests = []
  kept : VersionsKept s t
  around : t.aroundStop = s.aroundStop

theorem State.stopAll_runs (l : List Nat) (s : State) (q : Nat) (h : q ∈ l ∨ (s.part q).run = .stopped) :
    ((l.foldl (fun (t : State) p => t.stopForReset p) s).part q).run = .stopped := by
  induction l generalizing s with
  | nil => simpa using h
  | cons p l ih =>
    refine ih _ ?_
    rw [State.stopForReset_run]
    by_cases hq : q = p
    · exact .inr (if_pos hq)
    · rw [if_neg hq]
      simpa [hq] using h

/-- The tests that are left when some end. -/
theorem State.endAll_tests (l : List TestRun) (s : State) (a b c : Nat) :
    let t := l.foldl (fun (t : State) x => t.endTest x a b c) s
    t.parts = s.parts ∧ t.tensors = s.tensors ∧ t.aroundStop = s.aroundStop ∧ ∀ y ∈ t.bring.tests, y ∈ s.bring.tests ∧ y ∉ l := by
  induction l generalizing s with
  | nil => exact ⟨rfl, rfl, rfl, fun y hy => ⟨hy, List.not_mem_nil⟩⟩
  | cons x l ih =>
    obtain ⟨hp, ht, htests⟩ := s.endTest_stays x a b c
    obtain ⟨hp', ht', haround, hy'⟩ := ih (s.endTest x a b c)
    refine ⟨hp'.trans hp, ht'.trans ht, haround.trans (by simp), fun y hy => ?_⟩
    obtain ⟨hmem, hnot⟩ := hy' y hy
    rw [htests, List.mem_filter] at hmem
    exact ⟨hmem.1, by simpa [hnot] using hmem.2⟩

theorem State.beginDrain_begun (s : State) : DrainBegun s s.beginDrain := by
  unfold State.beginDrain
  dsimp only
  obtain ⟨u, hu⟩ : ∃ u, (List.range 8).foldl (fun (t : State) p => t.stopForReset p) s = u := ⟨_, rfl⟩
  have hstop : ∀ p, p < 8 → (u.part p).run = .stopped := fun p hp => by
    rw [← hu]
    exact State.stopAll_runs _ s p (.inl (List.mem_range.mpr hp))
  have hkept : VersionsKept s u := by rw [← hu]; exact .foldl (fun t p => t.stopForReset_kept p) _ s
  have haround : u.aroundStop = s.aroundStop := by
    rw [← hu]
    exact List.foldlRecOn (motive := fun t : State => t.aroundStop = s.aroundStop) _ _ rfl fun _ ht p _ =>
      (State.stopForReset_aroundStop _ p).trans ht
  rw [hu]
  obtain ⟨hparts, htensors, hall, hleft⟩ := State.endAll_tests u.bring.tests u 3 0 0
  refine ⟨fun p hp => ?_, List.eq_nil_iff_forall_not_mem.mpr fun y hy => (hleft y hy).2 (hleft y hy).1,
    hkept.trans (.of_tensors htensors), hall.trans haround⟩
  exact (congrArg (fun m => (tget ({} : Partition) m p).run) hparts).trans (hstop p hp)


/-! ### The drain to STANDBY, the removal of power, and the begin of bring-up -/

/-- What a drain to STANDBY begins with (R425): the module leaves service at the next tick, and its clients' configuration and the
versions of its tensors stand. -/
theorem State.drainToStandby_drains (s : State) (h : s.mc.mresetDraining = false) :
    let t := s.drainToStandby
    t.now = (s.now / 1500 + 1) * 1500 ∧ t.power = { s.power with draining := true, ready := false } ∧ t.mc.mresetAt = none
      ∧ (∀ p, p < 8 → (t.part p).run = .stopped) ∧ t.bring.tests = [] ∧ t.sivar.config = s.sivar.config ∧ t.resp = s.resp
      ∧ VersionsKept s t := by
  obtain ⟨a, ha⟩ : ∃ a, s.advance (nextTick s) = a := ⟨_, rfl⟩
  obtain ⟨hstop, htests, hkept, haround⟩ := a.beginDrain_begun
  have e : s.drainToStandby = { a.beginDrain with
      mc := { a.beginDrain.mc with mresetAt := none }, power := { a.beginDrain.power with draining := true, ready := false } } := by
    unfold State.drainToStandby
    rw [if_neg (by rw [h]; exact Bool.false_ne_true), ha]
  rw [e]
  obtain ⟨u, hu⟩ : ∃ u, a.beginDrain = u := ⟨_, rfl⟩
  rw [hu] at hstop htests hkept haround ⊢
  have hnow : u.now = (s.now / 1500 + 1) * 1500 := by
    rw [show u.now = a.now from (congrArg State.now haround :), ← ha]
    show max s.now ((s.now / 1500 + 1) * 1500) = _
    omega
  have hpower : u.power = s.power := (congrArg State.power haround :).trans (by rw [← ha]; rfl)
  have hconfig : u.sivar.config = s.sivar.config := (congrArg (fun y : State => y.sivar.config) haround :).trans (by rw [← ha]; rfl)
  have hresp : u.resp = s.resp := (congrArg State.resp haround :).trans (by rw [← ha]; rfl)
  refine ⟨hnow, congrArg (fun w : Power => { w with draining := true, ready := false }) hpower, rfl, hstop, htests, hconfig, hresp, ?_⟩
  exact (VersionsKept.of_tensors (s := s) (t := a) (by rw [← ha]; rfl)).trans (hkept.trans (.of_tensors rfl))

theorem State.clearWafer_frame (s : State) : s.clearWafer = { s with
    cores := [], health := [], pad := [], marks := [], gantries := [], boundaries := [], routersDown := [], intakes := [], net := []
    transit := [], tiles := s.clearWafer.tiles } := by
  unfold State.clearWafer
  dsimp only
  refine List.foldlRecOn (motive := fun t : State => t = { s with
    cores := [], health := [], pad := [], marks := [], gantries := [], boundaries := [], routersDown := [], intakes := [], net := []
    transit := [], tiles := t.tiles }) _ _ rfl fun t ht k _ => ?_
  exact congrArg (fun y : State => y.setTile k { t.tile k with
    fastClock := false, pickUp := 0, parent := none, unreachable := false
    state := if (t.tile k).state = .computeShed ∨ (t.tile k).state = .darkShed then (t.tile k).state else .normal }) ht

theorem State.clearQuays_frame (s : State) : s.clearQuays = { s with
    tensors := s.clearQuays.tensors, quays := s.clearQuays.quays, opt := s.clearQuays.opt, ledger := s.clearQuays.ledger } := by
  have key : ∀ (l : List Nat) (a : State), a = { s with tensors := a.tensors, quays := a.quays, opt := a.opt, ledger := a.ledger } →
      let v := l.foldl (fun (u : State) tid => u.retireUnnamed tid) a
      v = { s with tensors := v.tensors, quays := v.quays, opt := v.opt, ledger := v.ledger } := fun l a ha => by
    dsimp only
    have h := State.retireAll_frame l a
    obtain ⟨v, hv⟩ : ∃ v, l.foldl (fun (u : State) tid => u.retireUnnamed tid) a = v := ⟨_, rfl⟩
    rw [hv] at h ⊢
    have ho : v.opt = a.opt := by rw [h]
    have hl : v.ledger = a.ledger := by rw [h]
    rw [ho, hl]
    exact h.trans (congrArg (fun y : State => { y with tensors := v.tensors, quays := v.quays }) ha)
  exact key _ _ rfl

theorem State.clearQuays_record (s : State) (id : Nat) : (s.clearQuays.tensor id).record = (s.tensor id).record := by
  unfold State.clearQuays
  dsimp only
  exact (State.retireAll_kept _ _).record id

theorem State.dropVersions_tensor (s : State) (dram : Bool) (id : Nat) : (s.dropVersions dram).tensor id = { s.tensor id with
    versions := if dram && decide (recTier (s.tensor id).record = 0) then [] else (s.tensor id).versions.filter (fun v => v.committed)
    checkpointing := none } :=
  tget_map (f := fun e : Tensor => { e with
    versions := if dram && decide (recTier e.record = 0) then [] else e.versions.filter (fun v => v.committed), checkpointing := none })
    (by dsimp only; split_ifs <;> rfl) s.tensors id

/-- What the removal of power leaves (R423, R426): flash content, the configuration, the overlay and the saved results. -/
structure PowerGone (s t : State) (copyLog : Bool) (st : PowerState) : Prop where
  power : t.power = { s.power with state := st, ready := false, thermAlert := false, alertClearAt := 0, draining := false }
  wafer : t.cores = [] ∧ t.pad = [] ∧ t.dram = [] ∧ t.parts = [] ∧ t.hosts = []
  clients : t.mc.up = false ∧ t.bring.active = false ∧ t.sivar.sessions = [] ∧ t.sivar.tickets = [] ∧ t.sivar.volatileVals = []
  committed : ∀ id, ∀ v ∈ (t.tensor id).versions, v.committed = true
  inDram : ∀ id, recTier (s.tensor id).record = 0 → (t.tensor id).versions = []
  log : t.log.entries = (if copyLog then s.log.entries else s.log.flash)
  saved : t.flash = s.flash ∧ t.sivar.config = s.sivar.config ∧ t.overlay = s.overlay ∧ t.bring.results = s.bring.results
  stored : s.fw.stagingState ≠ 2 → t.fw.stored = s.fw.stored

theorem State.removePower_gone (s : State) (copyLog : Bool) (st : PowerState) : PowerGone s (s.removePower copyLog st) copyLog st := by
  obtain ⟨a, ha⟩ : ∃ a, s.clearWafer.clearQuays = a := ⟨_, rfl⟩
  have hw := s.clearWafer_frame
  obtain ⟨w, hwe⟩ : ∃ w, s.clearWafer = w := ⟨_, rfl⟩
  rw [hwe] at hw ha
  have hq := w.clearQuays_frame
  have hrec : ∀ id, (a.tensor id).record = (s.tensor id).record := fun id => by
    rw [← ha, w.clearQuays_record, hw]
    rfl
  rw [ha] at hq
  have htens : ∀ id, (a.dropVersions true).tensor id = _ := fun id => a.dropVersions_tensor true id
  have hfields : a.cores = [] ∧ a.pad = [] ∧ a.flash = s.flash ∧ a.sivar = s.sivar ∧ a.overlay = s.overlay ∧ a.bring = s.bring
      ∧ a.fw = s.fw ∧ a.power = s.power ∧ a.log = s.log ∧ a.mc = s.mc := by
    rw [hq, hw]
    exact ⟨rfl, rfl, rfl, rfl, rfl, rfl, rfl, rfl, rfl, rfl⟩
  obtain ⟨hcores, hpad, hflash, hsivar, hoverlay, hbring, hfw, hpower, hlog, hmc⟩ := hfields
  unfold State.removePower
  rw [hwe, ha]
  dsimp only
  refine ⟨?_, ⟨hcores, hpad, rfl, rfl, rfl⟩, ⟨rfl, rfl, rfl, rfl, rfl⟩, fun id v hv => ?_, fun id h0 => ?_, rfl,
    ⟨hflash, (congrArg Sivar.config hsivar :), hoverlay, (congrArg BringUp.results hbring :)⟩, fun h2 => ?_⟩
  · exact (congrArg (fun y : Power => { y with state := st, ready := false, thermAlert := false, alertClearAt := 0, draining := false }) hpower :)
  · have hv' : v ∈ ((a.dropVersions true).tensor id).versions := hv
    rw [htens] at hv'
    dsimp only at hv'
    split at hv'
    · cases hv'
    · exact (List.mem_filter.mp hv').2
  · show ((a.dropVersions true).tensor id).versions = []
    rw [htens]
    exact if_pos (by rw [hrec, h0]; rfl)
  · have e : (a.dropVersions true).bump.fw = s.fw := hfw
    show (if (a.dropVersions true).bump.fw.stagingState = 2 ∧ _ then none else (a.dropVersions true).bump.fw.stored) = _
    rw [e, if_neg fun h => h2 h.1]


/-- Everything but what the fences of a start may touch: fenced cores, their ports and engines, and the events. -/
def State.aroundFence (s : State) : State :=
  { s with
    health := [], gantries := [], ports := [], opt := { s.opt with engines := [] }, log := {}, hosts := []
    sivar := { s.sivar with sessions := [] } }

@[simp] theorem State.event_aroundFence (s : State) (a b c d : Nat) : (s.event a b c d).aroundFence = s.aroundFence := by
  have h : (s.event a b c d).sivar = _ := s.event_sivar a b c d
  obtain ⟨t, ht⟩ : ∃ t, s.event a b c d = t := ⟨_, rfl⟩
  have hf : t = { s with log := t.log, hosts := t.hosts, sivar := t.sivar } := by rw [← ht]; exact s.event_frame a b c d
  rw [ht] at h ⊢
  rw [h] at hf
  exact (congrArg State.aroundFence hf :)

@[simp] theorem State.notePort_aroundFence (s : State) (i : Nat) (old : Port) : (s.notePort i old).aroundFence = s.aroundFence := by
  simp only [State.notePort]
  split_ifs <;> simp

theorem State.applyFence_aroundFence (s : State) (h : s.pad = []) (cls unit : Nat) : (s.applyFence cls unit).aroundFence = s.aroundFence := by
  unfold State.applyFence
  split
  · show ({ s.aroundFence with pad := forget s.pad (padAt unit 0) 2097152, marks := s.marks } : State) = s.aroundFence
    rw [h]
    exact (congrArg (fun m => ({ s.aroundFence with pad := m } : State)) h).symm
  · rfl
  · simp only [State.dropWavelength]
    split_ifs
    · simp only [State.notePort_aroundFence]
      rfl
    · rfl
  · rfl
  · rfl

theorem State.applyFences_aroundFence (s : State) (h : s.pad = []) : s.applyFences.aroundFence = s.aroundFence :=
  List.foldlRecOn (motive := fun t : State => t.aroundFence = s.aroundFence) _ _ rfl fun t ht f _ =>
    (t.applyFence_aroundFence ((congrArg State.pad ht :).trans h) f.cls f.unit).trans ht

/-- What the begin of bring-up after a start leaves (R320). -/
theorem State.beginStages_begins (s : State) (form : Nat) : let t := s.beginStages form false
    t.bring.active = true ∧ t.bring.form = form ∧ t.bring.stage = (if form = 2 then 3 else 0) ∧ t.bring.stopped = false
      ∧ t.bring.moduleReset = false ∧ t.power = { s.power with state := .bringingUp, ready := false } ∧ t.cores = [] ∧ t.pad = []
      ∧ t.sivar.volatileVals = [] ∧ t.dram = s.dram ∧ t.flash = s.flash ∧ t.sivar.config = s.sivar.config ∧ t.resp = s.resp
      ∧ t.now = s.now := by
  have hstage : (stageList form false (s4Old s)).headD 0 = if form = 2 then 3 else 0 := by
    unfold stageList
    rw [if_neg Bool.false_ne_true]
    by_cases hf : form = 2
    · rw [if_pos hf, if_pos hf]
      split <;> rfl
    · rw [if_neg hf, if_neg hf]
      rfl
  obtain ⟨w, hw⟩ : ∃ w, s.clearWafer = w := ⟨_, rfl⟩
  have hframe := s.clearWafer_frame
  unfold State.beginStages
  dsimp only
  rw [hw] at hframe ⊢
  have hfields : w.cores = [] ∧ w.pad = [] ∧ w.power = s.power ∧ w.dram = s.dram ∧ w.flash = s.flash ∧ w.sivar = s.sivar
      ∧ w.resp = s.resp ∧ w.now = s.now := by
    rw [hframe]
    exact ⟨rfl, rfl, rfl, rfl, rfl, rfl, rfl, rfl⟩
  obtain ⟨hcores, hpad, hpower, hdram, hflash, hsivar, hresp, hnow⟩ := hfields
  have key : ∀ a : State, a.cores = [] → a.pad = [] → a.power = { s.power with state := .bringingUp, ready := false } → a.dram = s.dram →
      a.flash = s.flash → a.sivar.volatileVals = [] → a.sivar.config = s.sivar.config → a.resp = s.resp → a.now = s.now →
      a.bring.active = true → a.bring.form = form → a.bring.stage = (if form = 2 then 3 else 0) → a.bring.stopped = false →
      a.bring.moduleReset = false → let t := a.applyFences
      t.bring.active = true ∧ t.bring.form = form ∧ t.bring.stage = (if form = 2 then 3 else 0) ∧ t.bring.stopped = false
      ∧ t.bring.moduleReset = false ∧ t.power = { s.power with state := .bringingUp, ready := false } ∧ t.cores = [] ∧ t.pad = []
      ∧ t.sivar.volatileVals = [] ∧ t.dram = s.dram ∧ t.flash = s.flash ∧ t.sivar.config = s.sivar.config ∧ t.resp = s.resp
      ∧ t.now = s.now := by
    intro a h1 h2 h3 h4 h5 h6 h7 h8 h9 h10 h11 h12 h13 h14
    have h := a.applyFences_aroundFence h2
    have hb : a.applyFences.bring = a.bring := (congrArg State.bring h :)
    dsimp only
    rw [hb]
    exact ⟨h10, h11, h12, h13, h14, (congrArg State.power h :).trans h3, (congrArg State.cores h :).trans h1, (congrArg State.pad h :).trans h2,
      (congrArg (fun y : State => y.sivar.volatileVals) h :).trans h6, (congrArg State.dram h :).trans h4,
      (congrArg State.flash h :).trans h5, (congrArg (fun y : State => y.sivar.config) h :).trans h7, (congrArg State.resp h :).trans h8,
      (congrArg State.now h :).trans h9⟩
  refine key _ hcores hpad ?_ hdram hflash rfl ?_ hresp hnow rfl rfl hstage rfl rfl
  · exact (congrArg (fun y : Power => { y with state := .bringingUp, ready := false }) hpower :)
  · exact (congrArg Sivar.config hsivar :)


/-! ### The ports that leave before deep park -/

theorem tfind_eq_none_of_keys {α : Type} {m : List (Nat × α)} {k : Nat} (h : k ∉ m.map (fun e => e.1)) : tfind m k = none := by
  induction m with
  | nil => rfl
  | cons e m ih =>
    rw [List.map_cons, List.mem_cons, not_or] at h
    exact (if_neg (Ne.symm h.1)).trans (ih h.2)

/-- A port that leaves (R427). -/
def leftPort (v : Port) (now : Nat) : Port :=
  { v.down now with trainKind := 0, retrainPending := false, move := none, hold := false }

/-- Which ports a leave touches, and how: the service ports and those that are not equipped stand. -/
theorem State.leavePorts_leaves (s : State) :
    (∀ i, ¬ (496 ≤ i ∧ i < 512) → (s.port i).outcome ≠ 5 → (s.leavePorts.port i).outcome = 0)
    ∧ (∀ i, 496 ≤ i → i < 512 → s.leavePorts.port i = s.port i)
    ∧ s.leavePorts = { s with ports := s.leavePorts.ports } := by
  have one : ∀ (t : State) (i j : Nat), (if (496 ≤ i ∧ i < 512) ∨ (t.port i).outcome = 5 then t
      else t.setPort i (leftPort (t.port i) t.now)).port j
      = if j = i ∧ ¬ ((496 ≤ i ∧ i < 512) ∨ (t.port i).outcome = 5) then leftPort (t.port i) t.now else t.port j := fun t i j => by
    by_cases h : (496 ≤ i ∧ i < 512) ∨ (t.port i).outcome = 5
    · rw [if_pos h, if_neg fun hj => hj.2 h]
    · rw [if_neg h]
      show tget {} (tput {} t.ports i _) j = _
      rw [tget_tput]
      by_cases hj : j = i
      · rw [if_pos hj, if_pos ⟨hj, h⟩]
      · rw [if_neg hj, if_neg fun hj' => hj hj'.1]
        rfl
  have all : ∀ (l : List Nat) (t : State),
      let u := l.foldl (fun (t : State) i => if (496 ≤ i ∧ i < 512) ∨ (t.port i).outcome = 5 then t
        else t.setPort i (leftPort (t.port i) t.now)) t
      (∀ i, ¬ (496 ≤ i ∧ i < 512) → (t.port i).outcome ≠ 5 → i ∈ l ∨ (t.port i).outcome = 0 → (u.port i).outcome = 0)
        ∧ (∀ i, 496 ≤ i → i < 512 → u.port i = t.port i) ∧ u = { t with ports := u.ports } := by
    intro l
    induction l with
    | nil => exact fun t => ⟨fun i _ _ h => h.resolve_left List.not_mem_nil, fun _ _ _ => rfl, rfl⟩
    | cons k l ih =>
      intro t
      obtain ⟨v, hv⟩ : ∃ v, (if (496 ≤ k ∧ k < 512) ∨ (t.port k).outcome = 5 then t
        else t.setPort k (leftPort (t.port k) t.now)) = v := ⟨_, rfl⟩
      have hport := one t k
      have hframe : v = { t with ports := v.ports } := by
        rw [← hv]
        split <;> rfl
      obtain ⟨h1, h2, h3⟩ := ih v
      dsimp only [List.foldl_cons] at h1 h2 h3 ⊢
      rw [hv] at hport ⊢
      obtain ⟨u, hu⟩ : ∃ u, l.foldl (fun (t : State) i => if (496 ≤ i ∧ i < 512) ∨ (t.port i).outcome = 5 then t
        else t.setPort i (leftPort (t.port i) t.now)) v = u := ⟨_, rfl⟩
      rw [hu] at h1 h2 h3 ⊢
      refine ⟨fun i hi h5 h => ?_, fun i hlo hhi => (h2 i hlo hhi).trans ?_,
        h3.trans (congrArg (fun y : State => { y with ports := u.ports }) hframe)⟩
      · by_cases hk : i = k
        · have h0 : (v.port i).outcome = 0 := by
            subst hk
            rw [hport, if_pos ⟨rfl, fun hc => hc.elim hi h5⟩]
            rfl
          exact h1 i hi (by rw [h0]; exact Nat.zero_ne_add_one 4) (.inr h0)
        · have hsame : v.port i = t.port i := (hport i).trans (if_neg fun hc => hk hc.1)
          exact h1 i hi (by rwa [hsame]) (by rw [hsame]; exact h.imp_left fun hm => (List.mem_cons.mp hm).resolve_left hk)
      · exact (hport i).trans (if_neg fun hc => hc.2 (.inl (hc.1 ▸ ⟨hlo, hhi⟩)))
  obtain ⟨h1, h2, h3⟩ := all (s.ports.map (fun e => e.1)) s
  refine ⟨fun i hi h5 => h1 i hi h5 ?_, h2, h3⟩
  by_cases hm : i ∈ s.ports.map (fun e => e.1)
  · exact .inl hm
  · refine .inr ?_
    show (tget ({} : Port) s.ports i).outcome = 0
    have hnone := tfind_eq_none_of_keys hm
    rw [tget, hnone]
    rfl


/-! ### The commands of the power states -/

theorem busyParts_of_running {s : State} {p : Nat} (hp : p < 8) (hr : (s.part p).run ≠ .stopped) : (partsWhere (fun p => (s.part p).busy)) != [] := by
  have hm : p ∈ partsWhere (fun p => (s.part p).busy) := List.mem_filter.mpr ⟨List.mem_range.mpr hp, decide_eq_true hr⟩
  rw [bne_iff_ne]
  exact List.ne_nil_of_mem hm

theorem busyParts_of_stopped {s : State} (h : ∀ p, p < 8 → (s.part p).run = .stopped) : partsWhere (fun p => (s.part p).busy) = [] := by
  refine List.filter_eq_nil_iff.mpr fun p hp => ?_
  rw [Partition.busy, h p (List.mem_range.mp hp)]
  decide

/-- A command to enter deep park that a running partition or tide refuses changes nothing. -/
theorem doEnterDeepPark_refused {s : State} (h : (∃ p, p < 8 ∧ (s.part p).run ≠ .stopped) ∨ s.tide.run ≠ .stopped) :
    doEnterDeepPark s = (s, stState) := by
  refine if_pos ?_
  obtain ⟨p, hp, hr⟩ | ht := h
  · rw [busyParts_of_running hp hr]
    rfl
  · rw [decide_eq_true ht, Bool.or_true, Bool.true_or]

theorem doEnterDeepPark_enters {s : State} (hparts : ∀ p, p < 8 → (s.part p).run = .stopped) (htide : s.tide.run = .stopped)
    (hledger : ledgerAlone s = true) (htests : s.bring.tests = []) (hreset : resetting s = false) (hparked : s.power.state = .parked) :
    doEnterDeepPark s = ({ s.leavePorts with
      parts := s.leavePorts.parts.map (fun e => (e.1, { e.2 with resume := none }))
      power := { s.leavePorts.power with state := .transition, transitionAt := s.now, ready := false } }, stOk) := by
  refine (if_neg ?_).trans ((if_neg ?_).trans (if_neg (not_not.mpr hparked)))
  · rw [busyParts_of_stopped hparts, htide, hledger]
    decide
  · rw [htests, hreset]
    decide

/-- Settles O51, by what the removal of power, the drain to STANDBY, and the begin of bring-up each leave. -/
theorem powerStatesChange : Obligations.PowerStatesChange := by
  unfold Obligations.PowerStatesChange
  intro gone draining begun
  have hgone : ∀ (s a : State) (copyLog : Bool) (st : PowerState), PowerGone a (a.removePower copyLog st) copyLog st →
      (∃ w, a = { s with power := w }) → gone s (a.removePower copyLog st) copyLog st := fun s a copyLog st h ⟨w, ha⟩ => by
    obtain ⟨t, ht⟩ : ∃ t, a.removePower copyLog st = t := ⟨_, rfl⟩
    rw [ht] at h ⊢
    obtain ⟨hpower, ⟨h1, h2, h3, h4, h5⟩, ⟨h6, h7, h8, h9, h10⟩, hcom, hin, hlog, ⟨h11, h12, h13, h14⟩, hfw⟩ := h
    subst ha
    exact ⟨by rw [hpower], by rw [hpower], by rw [hpower], h1, h2, h3, h4, h5, h6, h7, h8, h9, h10, hcom, hin, hlog, h11, h12, h13, h14, hfw⟩
  have hdrain : ∀ (s a : State), (∃ w r, a = { s with power := w, resp := r }) → a.mc.mresetDraining = false →
      draining s a.drainToStandby := fun s a ⟨w, r, ha⟩ hm => by
    obtain ⟨_, hpower, hmc, hstop, htests, hconfig, _, hkept⟩ := a.drainToStandby_drains hm
    have hmem := a.drainToStandby_tiers
    obtain ⟨t, ht⟩ : ∃ t, a.drainToStandby = t := ⟨_, rfl⟩
    rw [ht] at hpower hmc hstop htests hconfig hkept hmem ⊢
    subst ha
    exact ⟨by rw [hpower], by rw [hpower], hmc, hstop, htests, State.dram_of_tiers hmem, State.flash_of_tiers hmem, hconfig, hkept.versions⟩
  have hbegun : ∀ (s a : State) (form : Nat), (∃ w r, a = { s with power := w, resp := r }) →
      begun s (a.beginStages form false) form (if form = 2 then 3 else 0) := fun s a form ⟨w, r, ha⟩ => by
    obtain ⟨h1, h2, h3, h4, h5, hpower, h6, h7, h8, h9, h10, h11, _⟩ := a.beginStages_begins form
    obtain ⟨t, ht⟩ : ∃ t, a.beginStages form false = t := ⟨_, rfl⟩
    rw [ht] at h1 h2 h3 h4 h5 h6 h7 h8 h9 h10 h11 hpower ⊢
    subst ha
    exact ⟨h1, h2, h3, h4, h5, by rw [hpower], by rw [hpower], h6, h7, h8, h9, h10, h11⟩
  have hstart : ∀ (s a : State), (∃ w, a = { s with power := w }) →
      begun s a.startUp (if fastAllowed s then 1 else 0) 0 ∧ a.startUp.power = { a.power with state := .bringingUp, ready := false } := fun s a ⟨w, ha⟩ => by
    have hfast : fastAllowed a = fastAllowed s := by rw [ha]; rfl
    have hne : ¬ (if fastAllowed s then 1 else 0) = 2 := by split <;> decide
    have h := hbegun s a (if fastAllowed s then 1 else 0) ⟨w, s.resp, ha⟩
    obtain ⟨_, _, _, _, _, hpower, _⟩ := a.beginStages_begins (if fastAllowed s then 1 else 0)
    unfold State.startUp
    rw [hfast]
    rw [if_neg hne] at h
    exact ⟨h, hpower⟩
  refine ⟨fun s hoff => ⟨fun hst hn => ?_, fun hno => ?_⟩, fun s hoff => ⟨fun hst hn => ?_, fun hno => ?_⟩,
    fun s hon => ⟨fun hidle => ?_, fun h1 h2 h3 hact => ?_, fun h1 h2 h3 hact hm => ?_⟩, fun s hd => ?_, fun s hn hst => ?_, fun s cl hs hd hm => ?_,
    fun s mv hst hmv => ?_, fun s hst => ?_, fun s hst => congrArg Host.Outcome.next (if_neg (not_not.mpr hst)), fun s cl hs => ⟨?_, ?_, ?_, ?_⟩, ?_⟩
  · obtain ⟨h, hp⟩ := hstart s { s with power := { s.power with pwrEn := true } } ⟨_, rfl⟩
    exact ⟨_, congrArg Host.Outcome.next ((if_neg (by rw [hoff]; exact Bool.false_ne_true)).trans (if_pos ⟨hst, hn⟩)), by rw [hp], h⟩
  · refine congrArg Host.Outcome.next ((if_neg (by rw [hoff]; exact Bool.false_ne_true)).trans (if_neg fun h => ?_))
    exact hno.elim (fun h' => h' h.1) (fun h' => Bool.false_ne_true (h'.symm.trans h.2))
  · obtain ⟨h, hp⟩ := hstart s { s with power := { s.power with modResetN := true } } ⟨_, rfl⟩
    exact ⟨_, congrArg Host.Outcome.next ((if_neg (by rw [hoff]; exact Bool.false_ne_true)).trans (if_pos ⟨hst, hn⟩)), by rw [hp], h⟩
  · refine congrArg Host.Outcome.next ((if_neg (by rw [hoff]; exact Bool.false_ne_true)).trans (if_neg fun h => ?_))
    exact hno.elim (fun h' => h' h.1) (fun h' => Bool.false_ne_true (h'.symm.trans h.2))
  · exact congrArg Host.Outcome.next ((if_neg (by rw [hon]; decide)).trans (if_pos hidle))
  · refine ⟨_, congrArg Host.Outcome.next ((if_neg (by rw [hon]; decide)).trans ((if_neg ?_).trans (if_pos hact))), ?_,
      hgone s { s with power := { s.power with pwrEn := false } } _ _ (State.removePower_gone _ _ _) ⟨_, rfl⟩⟩
    · rintro (h | h | h)
      · exact h1 h
      · exact h2 h
      · exact Bool.false_ne_true (h3.symm.trans h)
    · rw [(State.removePower_gone _ _ _).power]
  · obtain ⟨hnow, hpower, _⟩ := State.drainToStandby_drains { s with power := { s.power with pwrEn := false } } hm
    refine ⟨_, congrArg Host.Outcome.next ((if_neg (by rw [hon]; decide)).trans ((if_neg ?_).trans (if_neg ?_))), by rw [hpower], hnow,
      hdrain s { s with power := { s.power with pwrEn := false } } ⟨_, s.resp, rfl⟩ hm⟩
    · rintro (h | h | h)
      · exact h1 h
      · exact h2 h
      · exact Bool.false_ne_true (h3.symm.trans h)
    · rw [show ({ s with power := { s.power with pwrEn := false } } : State).bring.active = false from hact]
      exact Bool.false_ne_true
  · exact ⟨_, congrArg Host.Outcome.next (if_pos hd), hgone s s _ _ (State.removePower_gone _ _ _) ⟨_, rfl⟩⟩
  · refine ⟨_, congrArg Host.Outcome.next (if_neg ?_), ?_,
      hgone s { s with power := { s.power with modResetN := false } } _ _ (State.removePower_gone _ _ _) ⟨_, rfl⟩⟩
    · rw [hn]
      exact fun h => h.elim (by decide) hst
    · rw [(State.removePower_gone _ _ _).power]
  · obtain ⟨hnow, _, _, _, _, _, hresp, _⟩ := s.asked.drainToStandby_drains hm
    have h := hdrain s s.asked ⟨_, _, rfl⟩ hm
    have hdo : doStandby s.asked = (s.asked.drainToStandby, stOk) := if_neg (by
      rw [show s.asked.power.draining = false from hd]
      exact Bool.false_ne_true)
    have hexec := command_changed hs hdo hresp
    obtain ⟨t, ht⟩ : ∃ t, s.asked.drainToStandby = t := ⟨_, rfl⟩
    rw [ht] at hnow h hexec
    exact ⟨_, congrArg Host.Outcome.next hexec, rfl, hnow, h⟩
  · have h := hgone s { s with power := { s.power with input := false, lossUtc := s.utc, lossMv := mv, lossState := powerNumber s, lossKind := 1 } }
      s.mc.up .off (State.removePower_gone _ _ _) ⟨_, rfl⟩
    have hp := (State.removePower_gone { s with power := { s.power with
      input := false, lossUtc := s.utc, lossMv := mv, lossState := powerNumber s, lossKind := 1 } } s.mc.up .off).power
    refine ⟨_, congrArg Host.Outcome.next (if_neg fun hc => hc.elim hst fun h => absurd hmv (Nat.not_lt.mpr h)), h, ?_⟩
    obtain ⟨t, ht⟩ : ∃ t, s.loseInput mv 1 s.mc.up = t := ⟨_, rfl⟩
    rw [ht]
    rw [show State.removePower _ _ _ = t from ht] at hp
    rw [hp]
    exact ⟨rfl, rfl, rfl, rfl, rfl⟩
  · have h := hgone s { s with power := { s.power with
        input := false, lossUtc := s.utc, lossMv := Config.freeNat s.freeCtr 0, lossState := powerNumber s, lossKind := 2 } }
      false .off (State.removePower_gone _ _ _) ⟨_, rfl⟩
    have hp := (State.removePower_gone { s with power := { s.power with
      input := false, lossUtc := s.utc, lossMv := Config.freeNat s.freeCtr 0, lossState := powerNumber s, lossKind := 2 } } false .off).power
    refine ⟨_, congrArg Host.Outcome.next (if_neg hst), h, ?_⟩
    obtain ⟨t, ht⟩ : ∃ t, s.loseInput (Config.freeNat s.freeCtr 0) 2 false = t := ⟨_, rfl⟩
    rw [ht]
    rw [show State.removePower _ _ _ = t from ht] at hp
    show t.power.input = false ∧ t.power.lossKind = 2 ∧ t.power.lossState = powerNumber s
    rw [hp]
    exact ⟨rfl, rfl, rfl⟩
  · intro hparts htide hledger htests hreset hparked
    obtain ⟨hleft, hservice, hframe⟩ := s.asked.leavePorts_leaves
    have hdo := doEnterDeepPark_enters (s := s.asked) hparts htide hledger htests hreset hparked
    obtain ⟨a, ha⟩ : ∃ a, s.asked.leavePorts = a := ⟨_, rfl⟩
    rw [ha] at hleft hservice hframe hdo
    have hpower : a.power = s.power := by rw [hframe]; rfl
    have hap : a.parts = s.parts := by rw [hframe]; rfl
    have hresp : a.resp = {} := by rw [hframe]; rfl
    refine ⟨_, congrArg Host.Outcome.next (command_changed hs hdo hresp), rfl, ?_, fun p => ?_, hleft, hservice, ?_⟩
    · exact (congrArg (fun y : Power => { y with state := .transition, transitionAt := s.now, ready := false }) hpower :)
    · have hpart : tget ({} : Partition) (a.parts.map (fun e => (e.1, { e.2 with resume := none }))) p = { s.part p with resume := none } := by
        rw [hap]
        exact tget_map (f := fun v : Partition => { v with resume := none }) rfl s.parts p
      exact ⟨(congrArg Partition.resume hpart :), (congrArg Partition.run hpart :)⟩
    · exact (congrArg (fun y : State => { y with
        parts := a.parts.map (fun e : Nat × Partition => (e.1, ({ e.2 with resume := none } : Partition)))
        power := { a.power with state := .transition, transitionAt := s.now, ready := false }, resp := answered stOk }) hframe :)
  · exact fun h => congrArg Host.Outcome.next (command_unchanged hs (doEnterDeepPark_refused (s := s.asked) h))
  · intro hpark
    obtain ⟨_, _, _, _, _, _, _, _, _, _, _, _, hresp, _⟩ := s.asked.beginStages_begins 2
    have h := hbegun s s.asked 2 ⟨_, _, rfl⟩
    have hexec := command_changed hs (f := doLeaveDeepPark) (if_neg (not_not.mpr hpark)) hresp
    obtain ⟨t, ht⟩ : ∃ t, s.asked.beginStages 2 false = t := ⟨_, rfl⟩
    rw [ht] at h hexec
    exact ⟨_, congrArg Host.Outcome.next hexec, rfl, h⟩
  · exact fun h => congrArg Host.Outcome.next (command_unchanged hs (if_pos h))
  · intro s htr
    have hframe := s.clearWafer_frame
    obtain ⟨a, ha⟩ : ∃ a, s.clearWafer = a := ⟨_, rfl⟩
    have hexec : exec (.deepParkEntryComplete) s = .next { a with power := { a.power with state := .deepPark } } := by
      rw [← ha]
      exact congrArg Host.Outcome.next (if_neg (not_not.mpr htr))
    rw [ha] at hframe
    refine ⟨_, hexec, ?_, ?_⟩
    · exact congrArg (fun y : State => { y.power with state := .deepPark }) hframe
    · rw [hframe]
      exact ⟨rfl, rfl, rfl, rfl, rfl, rfl, rfl⟩


end Sys2Proof.Machine
end

section
/-! SUPPORT. The coolant, the thermal alert and the host ports' links (R418-R422). -/

namespace Sys2Proof.Machine

/-! ### What work on one core leaves of the other cores -/

/-- What an operation on one core leaves: the other cores and their health, the tiles' states, and the partitions' faults. -/
structure OtherCores (c : Nat) (s t : State) : Prop where
  cores : ∀ d, d ≠ c → tfind t.cores d = tfind s.cores d
  heal : ∀ d, d ≠ c → t.heal d = s.heal d
  tiles : ∀ k, (t.tile k).state = (s.tile k).state ∧ (t.tile k).due = (s.tile k).due
  faults : ∀ q, (t.ctlOf q).faults = (s.ctlOf q).faults

namespace OtherCores

variable {c : Nat} {s t u : State}

theorem refl (c : Nat) (s : State) : OtherCores c s s := ⟨fun _ _ => rfl, fun _ _ => rfl, fun _ => ⟨rfl, rfl⟩, fun _ => rfl⟩

theorem trans (a : OtherCores c s t) (b : OtherCores c t u) : OtherCores c s u :=
  ⟨fun d h => (b.cores d h).trans (a.cores d h), fun d h => (b.heal d h).trans (a.heal d h),
    fun k => ⟨(b.tiles k).1.trans (a.tiles k).1, (b.tiles k).2.trans (a.tiles k).2⟩, fun q => (b.faults q).trans (a.faults q)⟩

theorem foldl {α : Type} {f : State → α → State} (hf : ∀ t a, OtherCores c t (f t a)) (l : List α) (s : State) :
    OtherCores c s (l.foldl f s) :=
  List.foldlRecOn (motive := OtherCores c s) l f (refl c s) fun _ ht a _ => ht.trans (hf _ a)

theorem of_workLost (h : WorkLost c s t) : OtherCores c s t := by
  have hcores : t.cores = s.cores := by rw [h.rest]
  have htiles : t.tiles = s.tiles := by rw [h.rest]
  have hctl : t.ctl = s.ctl := by rw [h.rest]
  have htile : ∀ k, t.tile k = s.tile k := fun k => congrArg (fun m => tget ({} : Tile) m k) htiles
  exact ⟨fun d _ => by rw [hcores], h.heal, fun k => by rw [htile]; exact ⟨rfl, rfl⟩,
    fun q => congrArg (fun m => (tget ({} : PartControl) m q).faults) hctl⟩

theorem setCore (c : Nat) (s : State) (k : Core) : OtherCores c s (s.setCore c k) :=
  ⟨fun _ h => tfind_tput_ne _ _ _ h, fun _ _ => rfl, fun _ => ⟨rfl, rfl⟩, fun _ => rfl⟩

theorem setHeal (c : Nat) (s : State) (v : CoreHealth) : OtherCores c s (s.setHeal c v) :=
  ⟨fun _ _ => rfl, fun _ h => tget_tput_ne _ _ _ _ _ h, fun _ => ⟨rfl, rfl⟩, fun _ => rfl⟩

/-- A step report's counts are no fault. -/
theorem setCtl (c : Nat) (s : State) (p : Nat) (v : PartControl) (h : v.faults = (s.ctlOf p).faults) : OtherCores c s (s.setCtl p v) := by
  refine ⟨fun _ _ => rfl, fun _ _ => rfl, fun _ => ⟨rfl, rfl⟩, fun q => ?_⟩
  rw [State.setCtl_ctlOf]
  split
  · next hq => rw [h, hq]
  · rfl

theorem writeRow (c : Nat) (s : State) (row : Nat) (d : Row) : OtherCores c s (s.writeRow c row d) :=
  of_workLost (.of_stored (.writeRow c s row d) (s.writeRow_config c row d))

theorem completeChannel (c : Nat) (s : State) (ch : Nat) : OtherCores c s (s.completeChannel c ch) := by
  unfold State.completeChannel
  dsimp only
  split
  · exact setCore ..
  · exact (setCore ..).trans (setCtl _ _ _ _ rfl)

theorem endTransfer (c : Nat) (s : State) (ch : Nat) : OtherCores c s (s.endTransfer c ch) := by
  unfold State.endTransfer
  dsimp only
  have hput : ∀ a k, OtherCores c s a → OtherCores c s (a.setCore c k).bump := fun a k h =>
    (h.trans (setCore c a k)).trans (of_workLost (.bump c _))
  refine hput _ _ ?_
  split
  · exact foldl (fun t e => by split; exacts [writeRow .., refl ..]) _ s
  · exact refl c s

theorem disableChannel (c : Nat) (s : State) (ch : Nat) : OtherCores c s (s.disableChannel c ch) := by
  unfold State.disableChannel
  dsimp only
  refine (setCore c s (dropPending (s.core c) ch)).trans ?_
  split
  · exact setCore ..
  · exact refl ..
  · split_ifs
    · exact completeChannel ..
    · exact setCore ..
    · exact endTransfer ..

theorem disableMask (c : Nat) (s : State) (m : Nat) : OtherCores c s (s.disableMask c m) :=
  foldl (fun t ch => by split; exacts [disableChannel .., refl ..]) _ s

end OtherCores

/-- A core that abandons its work is written once, after what its work in flight loses. -/
theorem State.abandon_puts (s : State) (c : Nat) : ∃ u k, WorkLost c s u ∧ s.abandon c = (u.setCore c k).bump := by
  have hfreeze : ∀ (u : State) n, WorkLost c u (u.addFreezes c n) := fun u n =>
    WorkLost.of_stored (Stored.of_counted (Counted.setHeal c u _)) rfl
  have hpoison : ∀ (u : State) a n, WorkLost c u (u.poisonRows c a n) := fun u a n =>
    WorkLost.of_stored (Stored.poisonRows c u a n) (State.poisonRows_config ..)
  unfold State.abandon
  extract_lets fs k0 hold arr k s1 t0 t1 late t2 t3
  have h0 : WorkLost c s t0 := (hfreeze s _).trans (WorkLost.foldl (fun t j => WorkLost.drainJob c t j) _ s1)
  have h1 : WorkLost c t0 t1 := WorkLost.foldl (fun t i => WorkLost.foldl (fun t r => hpoison ..) _ t) _ t0
  have h2 : WorkLost c t1 t2 := by
    simp only [t2, late]
    split
    · split
      · exact hpoison ..
      · exact .refl ..
    · exact .refl ..
  have h3 : WorkLost c t2 t3 := by
    simp only [t3, late]
    split
    · split
      · exact hpoison ..
      · exact .refl ..
    · exact .refl ..
  exact ⟨t3, _, ((h0.trans h1).trans h2).trans h3, rfl⟩

namespace OtherCores

theorem coreStop (c : Nat) (s : State) : OtherCores c s (s.coreStop c) := by
  obtain ⟨a, ha⟩ : ∃ a, s.setGantry (coreX c) { s.gantry (coreX c) with masks := tput 0 (s.gantry (coreX c)).masks (coreY c) 0 } = a := ⟨_, rfl⟩
  have h0 : OtherCores c s a := by
    rw [← ha]
    exact ⟨fun _ _ => rfl, fun _ _ => rfl, fun _ => ⟨rfl, rfl⟩, fun _ => rfl⟩
  obtain ⟨u, k, hu, he⟩ := a.abandon_puts c
  unfold State.coreStop
  dsimp only
  rw [ha, he]
  exact (h0.trans ((of_workLost hu).trans ((setCore c u k).trans (of_workLost (.bump c _))))).trans (disableMask ..)

theorem inject (c : Nat) (s : State) (p : NetPacket) : OtherCores c s (s.inject c p) := by
  have hforward : ∀ v : State, OtherCores c s v → OtherCores c s (v.forwardRow p) := fun v hv => by
    refine hv.trans ?_
    unfold State.forwardRow State.sendPacket
    dsimp only
    repeat' split
    all_goals exact ⟨fun _ _ => rfl, fun _ _ => rfl, fun _ => ⟨rfl, rfl⟩, fun _ => rfl⟩
  unfold State.inject
  dsimp only
  split
  · refine ⟨fun _ _ => rfl, fun _ _ => rfl, fun k => ?_, fun _ => rfl⟩
    have h : ((s.setTile (coreTile c) { s.tile (coreTile c) with badTypes := (s.tile (coreTile c)).badTypes + 1 }).tile k) =
        if k = coreTile c then { s.tile (coreTile c) with badTypes := (s.tile (coreTile c)).badTypes + 1 } else s.tile k := tget_tput ..
    rw [h]
    split
    · next hk => rw [hk]; exact ⟨rfl, rfl⟩
    · exact ⟨rfl, rfl⟩
  · refine hforward _ ?_
    have h := setCore c s { s.core c with routerTurn := tput 0 (s.core c).routerTurn (firstOutput p.header) (16 + netVc p.header + 1) }
    exact ⟨h.cores, h.heal, h.tiles, h.faults⟩

theorem coreClear (c : Nat) (s : State) : OtherCores c s (s.coreClear c) := by
  have hput : ∀ a k v, OtherCores c s a → OtherCores c s ((a.setCore c k).setHeal c v) := fun a k v h =>
    (h.trans (setCore c a k)).trans (setHeal ..)
  obtain ⟨a, ha, h0⟩ : ∃ a, s.forgetPad c false = a ∧ OtherCores c s a :=
    ⟨_, rfl, fun _ _ => rfl, fun _ _ => rfl, fun _ => ⟨rfl, rfl⟩, fun _ => rfl⟩
  have h1 := foldl (f := fun (t : State) (r : Nat × NetPacket) => t.inject c r.2) (fun t r => inject c t r.2) (a.core c).responses a
  obtain ⟨b, hb⟩ : ∃ b, (a.core c).responses.foldl (fun (t : State) r => t.inject c r.2) a = b := ⟨_, rfl⟩
  unfold State.coreClear
  dsimp only
  rw [ha, hb]
  rw [hb] at h1
  exact hput b _ _ (h0.trans h1)

end OtherCores

/-! ### The shed of a tile -/

/-- What a shed of one tile leaves: the cores of the other tiles, the other tiles' states, and every fault there was. -/
structure OtherTiles (k : Nat) (s t : State) : Prop where
  cores : ∀ c, coreTile c ≠ k → tfind t.cores c = tfind s.cores c ∧ t.heal c = s.heal c
  tiles : ∀ j, j ≠ k → (t.tile j).state = (s.tile j).state ∧ (t.tile j).due = (s.tile j).due
  faults : ∀ q f, f ∈ (s.ctlOf q).faults → f ∈ (t.ctlOf q).faults
  around : t.aroundReset = s.aroundReset

/-- A core whose work is gone and whose heartbeat stands still. -/
def CoreQuiet (s : State) (c : Nat) : Prop := (s.heal c).heartbeat = false ∧ (s.core c).arr = {} ∧ (s.core c).iss = {}

theorem foldl_otherCores {f : State → Nat → State} (hf : ∀ t c, OtherCores c t (f t c)) (cs : List Nat) (s : State) :
    let t := cs.foldl f s
    (∀ d, d ∉ cs → tfind t.cores d = tfind s.cores d ∧ t.heal d = s.heal d)
      ∧ (∀ k, (t.tile k).state = (s.tile k).state ∧ (t.tile k).due = (s.tile k).due) ∧ ∀ q, (t.ctlOf q).faults = (s.ctlOf q).faults := by
  refine List.foldlRecOn (motive := fun t : State => (∀ d, d ∉ cs → tfind t.cores d = tfind s.cores d ∧ t.heal d = s.heal d)
      ∧ (∀ k, (t.tile k).state = (s.tile k).state ∧ (t.tile k).due = (s.tile k).due) ∧ ∀ q, (t.ctlOf q).faults = (s.ctlOf q).faults)
    cs f ⟨fun _ _ => ⟨rfl, rfl⟩, fun _ => ⟨rfl, rfl⟩, fun _ => rfl⟩ fun t ⟨hc, hk, hq⟩ c hm => ?_
  have h := hf t c
  refine ⟨fun d hd => ?_, fun k => ⟨(h.tiles k).1.trans (hk k).1, (h.tiles k).2.trans (hk k).2⟩, fun q => (h.faults q).trans (hq q)⟩
  have hne : d ≠ c := fun e => hd (e ▸ hm)
  exact ⟨(h.cores d hne).trans (hc d hd).1, (h.heal d hne).trans (hc d hd).2⟩

/-- The heartbeats of a shed tile stop. -/
def State.stopBeat (s : State) (c : Nat) : State := s.setHeal c { s.heal c with heartbeat := false, resetting := false }

theorem foldl_stopBeat (cs : List Nat) (s : State) (c : Nat) (h : (s.heal c).heartbeat = false) :
    ((cs.foldl State.stopBeat s).heal c).heartbeat = false :=
  List.foldlRecOn (motive := fun t : State => (t.heal c).heartbeat = false) cs _ h fun t ht d _ => by
    rw [State.stopBeat, State.setHeal_heal]
    split
    · rfl
    · exact ht

theorem mem_tileCores_of_stored {s : State} {c k : Nat} (hk : coreTile c = k) (h : c ∈ s.cores.map (fun e => e.1)) : c ∈ tileCores s k :=
  List.mem_filter.mpr ⟨h, by rw [hk]; exact beq_self_eq_true k⟩

theorem State.powerOff_offs (s : State) (k : Nat) : OtherTiles k s (s.powerOff k)
    ∧ (∀ c ∈ tileCores s k, CoreQuiet (s.powerOff k) c)
    ∧ ∀ j, ((s.powerOff k).tile j).state = (s.tile j).state ∧ ((s.powerOff k).tile j).due = (s.tile j).due := by
  obtain ⟨cs, hcs⟩ : ∃ cs, tileCores s k = cs := ⟨_, rfl⟩
  have hof : ∀ c, coreTile c ≠ k → c ∉ cs := fun c hc hm => by
    rw [← hcs] at hm
    exact hc (eq_of_beq (List.mem_filter.mp hm).2)
  obtain ⟨a, ha⟩ : ∃ a, cs.foldl (fun t c => t.coreStop c) s = a := ⟨_, rfl⟩
  obtain ⟨b, hb⟩ : ∃ b, cs.foldl (fun t c => t.coreClear c) a = b := ⟨_, rfl⟩
  have h1 := foldl_otherCores (f := fun t c => t.coreStop c) (fun t c => .coreStop c t) cs s
  have h2 := foldl_otherCores (f := fun t c => t.coreClear c) (fun t c => .coreClear c t) cs a
  have h3 := foldl_otherCores (f := State.stopBeat) (fun t c => .setHeal c t _) cs b
  have hclear := foldl_coreClear cs a
  have hbeat := foldl_stopBeat cs b
  have e : s.powerOff k = cs.foldl State.stopBeat b := by
    unfold State.powerOff State.coresReset
    rw [hcs, ha, hb]
    rfl
  have haround : (s.powerOff k).aroundReset = s.aroundReset := by
    unfold State.powerOff
    exact (foldl_aroundReset (fun t c => t.setHeal_aroundReset c _) _ _).trans (s.coresReset_aroundReset _)
  rw [e] at haround ⊢
  rw [ha] at h1
  rw [hb] at h2 hclear
  have hcore : (cs.foldl State.stopBeat b).cores = b.cores :=
    List.foldlRecOn (motive := fun t : State => t.cores = b.cores) cs _ rfl fun t ht c _ => ht
  obtain ⟨t, ht⟩ : ∃ t, cs.foldl State.stopBeat b = t := ⟨_, rfl⟩
  rw [ht] at h3 haround hcore ⊢
  simp only [ht] at hbeat
  obtain ⟨hc1, hk1, hq1⟩ := h1
  obtain ⟨hc2, hk2, hq2⟩ := h2
  obtain ⟨hc3, hk3, hq3⟩ := h3
  have htiles : ∀ j, (t.tile j).state = (s.tile j).state ∧ (t.tile j).due = (s.tile j).due := fun j =>
    ⟨(hk3 j).1.trans ((hk2 j).1.trans (hk1 j).1), (hk3 j).2.trans ((hk2 j).2.trans (hk1 j).2)⟩
  refine ⟨⟨fun c hc => ?_, fun j _ => htiles j, fun q f hf => ?_, haround⟩, fun c hc => ?_, htiles⟩
  · obtain ⟨g1, e1⟩ := hc1 c (hof c hc)
    obtain ⟨g2, e2⟩ := hc2 c (hof c hc)
    obtain ⟨g3, e3⟩ := hc3 c (hof c hc)
    exact ⟨g3.trans (g2.trans g1), e3.trans (e2.trans e1)⟩
  · rw [hq3, hq2, hq1]
    exact hf
  · rw [hcs] at hc
    have hown := hclear.own c hc
    have htc : t.core c = b.core c := congrArg (fun m => tget ({} : Core) m c) hcore
    refine ⟨hbeat c (hclear.beat c hc).1, ?_, ?_⟩
    · rw [htc, hown]
    · rw [htc, hown]

theorem State.toCompute_sheds (s : State) (k : Nat) : OtherTiles k s (s.toCompute k) ∧ ((s.toCompute k).tile k).state = .computeShed
    ∧ ∀ c ∈ tileCores s k, CoreQuiet (s.toCompute k) c := by
  obtain ⟨hother, hquiet, _⟩ := s.powerOff_offs k
  unfold State.toCompute
  dsimp only
  obtain ⟨a, ha⟩ : ∃ a, s.powerOff k = a := ⟨_, rfl⟩
  rw [ha] at hother
  simp only [ha] at hquiet ⊢
  have htile : ∀ v j, ((a.setTile k v).tile j) = if j = k then v else a.tile j := fun v j => tget_tput ..
  refine ⟨⟨hother.cores, fun j hj => ?_, hother.faults, hother.around⟩, ?_, hquiet⟩
  · rw [htile, if_neg hj]
    exact hother.tiles j hj
  · rw [htile, if_pos rfl]


theorem OtherTiles.refl (k : Nat) (s : State) : OtherTiles k s s :=
  ⟨fun _ _ => ⟨rfl, rfl⟩, fun _ _ => ⟨rfl, rfl⟩, fun _ _ h => h, rfl⟩

theorem OtherTiles.of_event {k : Nat} {s t : State} (h : OtherTiles k s t) (a b c d : Nat) : OtherTiles k s (t.event a b c d) := by
  have hf := t.event_frame a b c d
  have haround := t.event_aroundReset a b c d
  obtain ⟨u, hu⟩ : ∃ u, t.event a b c d = u := ⟨_, rfl⟩
  rw [hu] at hf haround ⊢
  have hcores : u.cores = t.cores := by rw [hf]
  have hheal : u.health = t.health := by rw [hf]
  have htiles : u.tiles = t.tiles := by rw [hf]
  have hctl : u.ctl = t.ctl := by rw [hf]
  refine ⟨fun c hc => ⟨by rw [hcores]; exact (h.cores c hc).1, ?_⟩, fun j hj => ?_, fun q f hq => ?_, haround.trans h.around⟩
  · exact (congrArg (fun m => tget ({} : CoreHealth) m c) hheal).trans (h.cores c hc).2
  · have : u.tile j = t.tile j := congrArg (fun m => tget ({} : Tile) m j) htiles
    rw [this]
    exact h.tiles j hj
  · have : u.ctlOf q = t.ctlOf q := congrArg (fun m => tget ({} : PartControl) m q) hctl
    rw [this]
    exact h.faults q f hq

/-- Whether a partition with work to do has columns over a tile. -/
def tileHeld (s : State) (k p : Nat) : Bool := (s.part p).live && s.bandHas p (k % 8)

/-- What the shed for want of flow makes of a tile (R422): a shed one stands, one that no partition holds is shed at once, and of the
first partition that holds it a fault is due. -/
structure ShedOutcome (s : State) (k : Nat) (t : State) : Prop where
  stands : (s.tile k).shed = true → (t.tile k).state = (s.tile k).state
  free : (s.tile k).shed = false → (∀ p, p < 8 → tileHeld s k p = false) →
    (t.tile k).state = .computeShed ∧ ∀ c ∈ s.cores.map (fun e => e.1), coreTile c = k → CoreQuiet t c
  held : ∀ p, (s.tile k).shed = false → p < 8 → tileHeld s k p = true → (∀ q, q < p → tileHeld s k q = false) →
    (t.tile k).due = true ∧ (t.tile k).state = (s.tile k).state ∧ PFault.tileShed k ∈ (t.ctlOf p).faults

theorem firstHolder {f : Nat → Bool} {p : Nat} (hp : p < 8) (h : f p = true) (hfirst : ∀ q, q < p → f q = false) :
    (partsWhere f).head? = some p := by
  rw [partsWhere, List.head?_filter, List.find?_range_eq_some]
  exact ⟨h, List.mem_range.mpr hp, fun j hj => by rw [hfirst j hj]; rfl⟩

theorem noHolder {f : Nat → Bool} (h : ∀ p, p < 8 → f p = false) : (partsWhere f).head? = none := by
  rw [partsWhere, List.head?_filter, List.find?_eq_none]
  exact fun p hp => by rw [h p (List.mem_range.mp hp)]; exact Bool.false_ne_true

theorem State.shedFlow_sheds (s : State) (k : Nat) : OtherTiles k s (s.shedFlow k) ∧ ShedOutcome s k (s.shedFlow k) := by
  by_cases hshed : (s.tile k).shed = true
  · have e : s.shedFlow k = s := if_pos hshed
    rw [e]
    exact ⟨.refl k s, fun _ => rfl, fun h => absurd hshed (by rw [h]; exact Bool.false_ne_true),
      fun _ h => absurd hshed (by rw [h]; exact Bool.false_ne_true)⟩
  have hstands : ∀ t : State, (s.tile k).shed = true → (t.tile k).state = (s.tile k).state := fun _ h => absurd h hshed
  rcases hhead : (partsWhere (tileHeld s k)).head? with _ | p
  · have e : s.shedFlow k = (s.toCompute k).event sevDegraded evTileShed k 2 := by
      unfold State.shedFlow
      rw [if_neg hshed]
      split
      · next p hp => exact absurd (hp.symm.trans hhead) (Option.some_ne_none _)
      · rfl
    obtain ⟨hother, hstate, hquiet⟩ := s.toCompute_sheds k
    obtain ⟨a, ha⟩ : ∃ a, s.toCompute k = a := ⟨_, rfl⟩
    have hf := a.event_frame sevDegraded evTileShed k 2
    rw [e]
    rw [ha] at hother hstate ⊢
    simp only [ha] at hquiet
    have hother' := hother.of_event sevDegraded evTileShed k 2
    obtain ⟨t, ht⟩ : ∃ t, a.event sevDegraded evTileShed k 2 = t := ⟨_, rfl⟩
    rw [ht] at hf hother' ⊢
    have htile : t.tile k = a.tile k := by rw [hf]; rfl
    refine ⟨hother', hstands t, fun _ _ => ⟨by rw [htile]; exact hstate, fun c hc hck => ?_⟩, fun p _ hp hheld hfirst => ?_⟩
    · obtain ⟨h1, h2, h3⟩ := hquiet c (mem_tileCores_of_stored hck hc)
      have hh : t.heal c = a.heal c := by rw [hf]; rfl
      have hcc : t.core c = a.core c := by rw [hf]; rfl
      exact ⟨by rw [hh]; exact h1, by rw [hcc]; exact h2, by rw [hcc]; exact h3⟩
    · exact absurd ((firstHolder hp hheld hfirst).symm.trans hhead) (Option.some_ne_none _)
  · have e : s.shedFlow k = (s.setTile k { s.tile k with due := true }).addFault p (.tileShed k) := by
      unfold State.shedFlow
      rw [if_neg hshed]
      split
      · next q hq => rw [Option.some.inj (hq.symm.trans hhead)]
      · next hq => exact absurd (hhead.symm.trans hq) (Option.some_ne_none _)
    obtain ⟨a, ha⟩ : ∃ a, s.setTile k { s.tile k with due := true } = a := ⟨_, rfl⟩
    have haf : a = { s with tiles := a.tiles } := by rw [← ha]; rfl
    have hatile : ∀ j, a.tile j = if j = k then { s.tile k with due := true } else s.tile j := fun j => by
      rw [← ha]
      exact tget_tput ..
    have hf := a.addFault_frame p (.tileShed k)
    have hfaults : ∀ q, _ := fun q => a.addFault_faults p q (.tileShed k)
    rw [e, ha]
    obtain ⟨t, ht⟩ : ∃ t, a.addFault p (.tileShed k) = t := ⟨_, rfl⟩
    rw [ht] at hf ⊢
    simp only [ht] at hfaults
    have htile : ∀ j, t.tile j = a.tile j := fun j => by rw [hf]; rfl
    have hcores : t.cores = s.cores := by rw [hf, haf]
    have hheal : ∀ c, t.heal c = s.heal c := fun c => by rw [hf, haf]; rfl
    have hctl : ∀ q, (a.ctlOf q).faults = (s.ctlOf q).faults := fun q => by rw [haf]; rfl
    have hpart : a.part p = s.part p := by rw [haf]; rfl
    have hmem : ∀ q f, f ∈ (s.ctlOf q).faults → f ∈ (t.ctlOf q).faults := fun q f h => by
      rw [hfaults]
      split
      · exact List.mem_append_left _ (by rw [hctl]; exact h)
      · rw [hctl]; exact h
    have haround : t.aroundReset = s.aroundReset := by
      rw [hf, haf]
      rfl
    refine ⟨⟨fun c _ => ⟨by rw [hcores], hheal c⟩, fun j hj => ?_, hmem, haround⟩, hstands t, fun _ hno => ?_, fun q _ hq hheld hfirst => ?_⟩
    · rw [htile, hatile, if_neg hj]
      exact ⟨rfl, rfl⟩
    · exact absurd ((noHolder hno).symm.trans hhead) (Option.some_ne_none _).symm
    · obtain rfl := Option.some.inj ((firstHolder hq hheld hfirst).symm.trans hhead)
      refine ⟨by rw [htile, hatile, if_pos rfl], by rw [htile, hatile, if_pos rfl], ?_⟩
      rw [hfaults, if_pos ⟨rfl, by rw [hpart]; exact (Bool.and_eq_true_iff.mp hheld).1⟩]
      exact List.mem_append_right _ List.mem_cons_self

theorem tileHeld_congr {s t : State} (h : t.aroundReset = s.aroundReset) (k p : Nat) : tileHeld t k p = tileHeld s k p := by
  have hconfig : t.sivar.config = s.sivar.config := (congrArg (fun y : State => y.sivar.config) h :)
  have hpart : t.part p = s.part p := congrArg (fun m => tget ({} : Partition) m p) (State.parts_of_aroundReset h)
  have hcfg : ∀ i j, t.cfg i j = s.cfg i j := fun i j => by rw [State.cfg, State.cfg, hconfig]
  unfold tileHeld State.bandHas State.firstCol State.widthOf
  rw [hpart, hcfg, hcfg]

theorem mem_keys_iff {α : Type} {m : List (Nat × α)} {k : Nat} : k ∈ m.map (fun e => e.1) ↔ tfind m k ≠ none := by
  induction m with
  | nil => simp [tfind]
  | cons e m ih =>
    rw [List.map_cons, List.mem_cons, ih, tfind]
    by_cases h : e.1 = k
    · simp [h]
    · simp [h, Ne.symm h]

/-- The shed of every tile of a list. -/
theorem State.shedAll_sheds (l : List Nat) (hl : l.Nodup) (s : State) :
    let t := l.foldl (fun (t : State) k => t.shedFlow k) s
    (∀ c, coreTile c ∉ l → tfind t.cores c = tfind s.cores c ∧ t.heal c = s.heal c)
      ∧ (∀ j, j ∉ l → (t.tile j).state = (s.tile j).state ∧ (t.tile j).due = (s.tile j).due)
      ∧ (∀ q f, f ∈ (s.ctlOf q).faults → f ∈ (t.ctlOf q).faults) ∧ t.aroundReset = s.aroundReset ∧ ∀ k ∈ l, ShedOutcome s k t := by
  induction l generalizing s with
  | nil => exact ⟨fun _ _ => ⟨rfl, rfl⟩, fun _ _ => ⟨rfl, rfl⟩, fun _ _ h => h, rfl, fun _ h => absurd h List.not_mem_nil⟩
  | cons k l ih =>
    obtain ⟨hk, hl⟩ := List.nodup_cons.mp hl
    obtain ⟨hother, hown⟩ := s.shedFlow_sheds k
    dsimp only [List.foldl_cons]
    obtain ⟨u, hu⟩ : ∃ u, s.shedFlow k = u := ⟨_, rfl⟩
    rw [hu] at hother hown ⊢
    obtain ⟨hcores, htiles, hfaults, haround, hout⟩ := ih hl u
    obtain ⟨t, ht⟩ : ∃ t, l.foldl (fun (t : State) k => t.shedFlow k) u = t := ⟨_, rfl⟩
    rw [ht] at hcores htiles hfaults haround ⊢
    simp only [ht] at hout
    refine ⟨fun c hc => ?_, fun j hj => ?_, fun q f hf => hfaults q f (hother.faults q f hf), haround.trans hother.around, fun j hj => ?_⟩
    · rw [List.mem_cons, not_or] at hc
      exact ⟨(hcores c hc.2).1.trans (hother.cores c hc.1).1, (hcores c hc.2).2.trans (hother.cores c hc.1).2⟩
    · rw [List.mem_cons, not_or] at hj
      exact ⟨(htiles j hj.2).1.trans (hother.tiles j hj.1).1, (htiles j hj.2).2.trans (hother.tiles j hj.1).2⟩
    · by_cases hjk : j = k
      · subst hjk
        obtain ⟨hst, hdue⟩ := htiles j hk
        refine ⟨fun h => hst.trans (hown.stands h), fun h1 h2 => ?_, fun p h1 h2 h3 h4 => ?_⟩
        · obtain ⟨g1, g2⟩ := hown.free h1 h2
          refine ⟨hst.trans g1, fun c hc hcj => ?_⟩
          obtain ⟨q1, q2, q3⟩ := g2 c hc hcj
          obtain ⟨e1, e2⟩ := hcores c (by rw [hcj]; exact hk)
          have e3 : t.core c = u.core c := congrArg (fun o : Option Core => o.getD {}) e1
          exact ⟨by rw [e2]; exact q1, by rw [e3]; exact q2, by rw [e3]; exact q3⟩
        · obtain ⟨g1, g2, g3⟩ := hown.held p h1 h2 h3 h4
          exact ⟨hdue.trans g1, hst.trans g2, hfaults _ _ g3⟩
      · have hout := hout j ((List.mem_cons.mp hj).resolve_left hjk)
        obtain ⟨e1, e2⟩ := hother.tiles j hjk
        have hsh : (u.tile j).shed = (s.tile j).shed := by rw [Tile.shed, Tile.shed, e1]
        have hheld : ∀ p, tileHeld u j p = tileHeld s j p := tileHeld_congr hother.around j
        refine ⟨fun h => (hout.stands (hsh.trans h)).trans e1, fun h1 h2 => ?_, fun p h1 h2 h3 h4 => ?_⟩
        · obtain ⟨g1, g2⟩ := hout.free (hsh.trans h1) fun p hp => (hheld p).trans (h2 p hp)
          refine ⟨g1, fun c hc hcj => g2 c ?_ hcj⟩
          rw [mem_keys_iff] at hc ⊢
          rwa [(hother.cores c (by rw [hcj]; exact hjk)).1]
        · obtain ⟨g1, g2, g3⟩ := hout.held p (hsh.trans h1) h2 ((hheld p).trans h3) fun q hq => (hheld q).trans (h4 q hq)
          exact ⟨g1, g2.trans e1, g3⟩


/-! ### The alert and the host ports -/

theorem State.noteAlert_notes (s : State) : s.noteAlert.power.pumpOk = s.power.pumpOk ∧ s.noteAlert.power.pumpLostAt = s.power.pumpLostAt
    ∧ s.noteAlert.power.pumpOkSince = s.power.pumpOkSince ∧ (flowLost s = true → s.noteAlert.power.thermAlert = true)
    ∧ (s.power.thermAlert = true → s.noteAlert.power.thermAlert = true) ∧ s.noteAlert = { s with power := s.noteAlert.power } := by
  unfold State.noteAlert
  by_cases hc : alertCause s = true
  · rw [if_pos hc]
    exact ⟨rfl, rfl, rfl, fun _ => rfl, fun _ => rfl, rfl⟩
  · have hflow : flowLost s = true → False := fun h => hc (by rw [alertCause, h, Bool.or_true])
    rw [if_neg hc]
    split
    · exact ⟨rfl, rfl, rfl, fun h => (hflow h).elim, id, rfl⟩
    · exact ⟨rfl, rfl, rfl, fun h => (hflow h).elim, id, rfl⟩

/-- A host port's new record, and the others'. -/
theorem State.setHost_sets (s : State) (i : Nat) (v : HostPort) : (s.setHost i v).host i = v ∧ SameBut {} s.hosts (s.setHost i v).hosts i
    ∧ s.setHost i v = { s with hosts := (s.setHost i v).hosts } :=
  ⟨tget_tput_same _ _ _ _, sameBut_tput _ _ _ _, rfl⟩

/-- Settles O52, by the shed of every tile, the drain to STANDBY, and the one record that a host port's event writes. -/
theorem pumpAlertAndHostLinks : Obligations.PumpAlertAndHostLinks := by
  unfold Obligations.PumpAlertAndHostLinks
  refine ⟨fun s hok => ?_, fun s hno => ?_, fun s hlost => ?_, fun s hno hup hd hm => ?_, fun s => rfl, fun s halert hcause => ?_, fun s i hi => ?_⟩
  · obtain ⟨h1, h2, _, h4, _, h6⟩ := State.noteAlert_notes { s with power := { s.power with pumpOk := false, pumpLostAt := s.now } }
    refine ⟨_, congrArg Host.Outcome.next (if_neg (by rw [hok]; decide)), h1, h2, fun hfast => h4 ?_, h6⟩
    exact Bool.and_eq_true_iff.mpr ⟨rfl, hfast⟩
  · obtain ⟨h1, _, h3, _, h5, h6⟩ := State.noteAlert_notes { s with power := { s.power with pumpOk := true, pumpOkSince := s.now } }
    exact ⟨_, congrArg Host.Outcome.next (if_neg (by rw [hno]; decide)), h1, h3, h5, h6⟩
  · obtain ⟨a, ha⟩ : ∃ a, s.advance (s.power.pumpLostAt + 10 * 1500000000) = a := ⟨_, rfl⟩
    have haf : a = { s with now := a.now, rtc := a.rtc } := by rw [← ha]; rfl
    have hnow : a.now = max s.now (s.power.pumpLostAt + 15000000000) := by rw [← ha]; rfl
    have hexec : exec (.pumpLossShed) s = .next ((List.range 48).foldl (fun (t : State) k => t.shedFlow k) a) := by
      rw [← ha]
      exact congrArg Host.Outcome.next (if_neg (by rw [hlost]; decide))
    obtain ⟨-, -, -, haround, hout⟩ := State.shedAll_sheds (List.range 48) List.nodup_range a
    have hmem := foldl_tiers (fun (t : State) k => t.shedFlow_tiers k) (List.range 48) a
    obtain ⟨t, ht⟩ : ∃ t, (List.range 48).foldl (fun (t : State) k => t.shedFlow k) a = t := ⟨_, rfl⟩
    rw [ht] at haround hexec hmem
    simp only [ht] at hout
    have htile : ∀ k, a.tile k = s.tile k := fun k => by rw [haf]; rfl
    have hheld : ∀ k p, tileHeld a k p = ((s.part p).live && s.bandHas p (k % 8)) := fun k p => by rw [haf]; rfl
    refine ⟨t, hexec, (congrArg State.now haround :).trans hnow, fun k hk h => ?_, fun k hk h hfree => ?_, fun k p hk h hp hlive hband hfirst => ?_,
      ?_, ?_, ?_⟩
    · exact ((hout k (List.mem_range.mpr hk)).stands (by rw [htile]; exact h)).trans (by rw [htile])
    · obtain ⟨h1, h2⟩ := (hout k (List.mem_range.mpr hk)).free (by rw [htile]; exact h) fun p hp => by
        rw [hheld]
        by_cases hl : (s.part p).live = true
        · rw [hfree p hp hl, Bool.and_false]
        · rw [Bool.not_eq_true _ |>.mp hl, Bool.false_and]
      exact ⟨h1, fun c hc hck => h2 c (by rw [haf]; exact hc) hck⟩
    · obtain ⟨h1, h2, h3⟩ := (hout k (List.mem_range.mpr hk)).held p (by rw [htile]; exact h) hp
        (by rw [hheld, hlive, hband]; rfl) fun q hq => by
          rw [hheld]
          by_cases hl : (s.part q).live = true
          · rw [hfirst q hq hl, Bool.and_false]
          · rw [Bool.not_eq_true _ |>.mp hl, Bool.false_and]
      exact ⟨h1, h2.trans (by rw [htile]), h3⟩
    · exact (State.parts_of_aroundReset haround).trans (by rw [haf])
    · exact (State.dram_of_tiers hmem).trans (by rw [haf])
    · exact (State.flash_of_tiers hmem).trans (by rw [haf])
  · obtain ⟨a, ha⟩ : ∃ a, s.advance (s.power.pumpLostAt + 60 * 1500000000) = a := ⟨_, rfl⟩
    have haf : a = { s with now := a.now, rtc := a.rtc } := by rw [← ha]; rfl
    have hnow : a.now = max s.now (s.power.pumpLostAt + 90000000000) := by rw [← ha]; rfl
    have hexec : exec (.pumpLossStandby) s = .next a.drainToStandby := by
      rw [← ha]
      exact congrArg Host.Outcome.next (if_neg (by rw [hno, hup, hd]; decide))
    obtain ⟨hdn, hpower, _, hstop, _⟩ := a.drainToStandby_drains (by rw [haf]; exact hm)
    have hmem := a.drainToStandby_tiers
    obtain ⟨t, ht⟩ : ∃ t, a.drainToStandby = t := ⟨_, rfl⟩
    rw [ht] at hexec hdn hpower hmem
    simp only [ht] at hstop
    refine ⟨t, hexec, ?_, by rw [hpower], by rw [hpower], hstop, (State.dram_of_tiers hmem).trans (by rw [haf]),
      (State.flash_of_tiers hmem).trans (by rw [haf])⟩
    rw [hdn]
    omega
  · refine ⟨_, congrArg Host.Outcome.next (if_neg (by rw [halert, hcause]; decide)), rfl, rfl, rfl⟩
  · intro h
    refine ⟨?_, fun hup => ?_, fun width rate flit hup hdown hw hr => ?_, fun hup => ?_⟩
    · obtain ⟨h1, h2, h3⟩ := s.setHost_sets i { h with
        up := false, width := 0, rate := 0, flit := false, ide := false, msix := [], downSince := if h.up then s.now else h.downSince }
      exact ⟨_, if_pos hi, by rw [h1], by rw [h1], by rw [h1], by rw [h1], h2, h3⟩
    · obtain ⟨h1, h2, h3⟩ := s.setHost_sets i { h with
        up := false, width := 0, rate := 0, flit := false, ide := false, surpriseDown := h.surpriseDown + 1, reportDue := true, downSince := s.now }
      refine ⟨_, (if_pos hi).trans (congrArg Host.Outcome.next (if_neg ?_)), by rw [h1], by rw [h1], by rw [h1], by rw [h1], by rw [h1], h2, h3⟩
      rw [hup]
      decide
    · obtain ⟨h1, h2, h3⟩ := s.setHost_sets i { h with
        up := true, width := width, rate := rate, flit := flit || decide (rate = 64), reportDue := false
        aerUncorrectable := if h.reportDue then h.aerUncorrectable + 1 else h.aerUncorrectable }
      refine ⟨_, (if_pos hi).trans (congrArg Host.Outcome.next (if_neg ?_)), by rw [h1], by rw [h1], by rw [h1], by rw [h1], by rw [h1], h2, h3⟩
      rw [hup, hdown, decide_eq_true hw, decide_eq_true hr]
      decide
    · obtain ⟨h1, h2, h3⟩ := s.setHost_sets i { h with ide := true }
      exact ⟨_, (if_pos hi).trans (congrArg Host.Outcome.next (if_pos hup)), h1, h2, h3⟩


end Sys2Proof.Machine
end

section
/-! SUPPORT. Membership tables and RESTORE (R298, R309). -/

namespace Sys2Proof.Machine

/-! ### What a new table changes beside the ledger's table -/

/-- What the ledger's messages and records of a new table leave: the table in force, its state and its roles; no message is taken back. -/
structure TableStands (s t : State) : Prop where
  frame : t = { s with ledger := t.ledger, log := t.log, hosts := t.hosts, sivar := t.sivar }
  membership : t.ledger.membership = s.ledger.membership
  state : t.ledger.state = s.ledger.state
  roles : t.ledger.roles = s.ledger.roles
  tableVersion : t.ledger.tableVersion = s.ledger.tableVersion
  said : ∀ m ∈ s.ledger.sentMsgs, m ∈ t.ledger.sentMsgs

namespace TableStands

variable {s t u : State}

theorem refl (s : State) : TableStands s s := ⟨rfl, rfl, rfl, rfl, rfl, fun _ h => h⟩

theorem trans (a : TableStands s t) (b : TableStands t u) : TableStands s u :=
  ⟨b.frame.trans (congrArg (fun y : State => { y with ledger := u.ledger, log := u.log, hosts := u.hosts, sivar := u.sivar }) a.frame),
    b.membership.trans a.membership, b.state.trans a.state, b.roles.trans a.roles, b.tableVersion.trans a.tableVersion,
    fun m h => b.said m (a.said m h)⟩

theorem event (s : State) (a b c d : Nat) : TableStands s (s.event a b c d) := by
  have hf := s.event_frame a b c d
  obtain ⟨t, ht⟩ : ∃ t, s.event a b c d = t := ⟨_, rfl⟩
  rw [ht] at hf ⊢
  have hl : t.ledger = s.ledger := by rw [hf]
  exact ⟨by rw [hl]; exact hf, by rw [hl], by rw [hl], by rw [hl], by rw [hl], fun m h => by rw [hl]; exact h⟩

theorem say (h : TableStands s t) (m : LedgerMsg) : TableStands s (t.say m) :=
  h.trans ⟨rfl, rfl, rfl, rfl, rfl, fun _ h => List.mem_append_left _ h⟩

theorem ledger (h : TableStands s t) {l : Ledger} (h1 : l.membership = t.ledger.membership) (h2 : l.state = t.ledger.state)
    (h3 : l.roles = t.ledger.roles) (h4 : l.tableVersion = t.ledger.tableVersion) (h5 : l.sentMsgs = t.ledger.sentMsgs) :
    TableStands s { t with ledger := l } :=
  h.trans ⟨rfl, h1, h2, h3, h4, fun m h => by rw [h5]; exact h⟩

/-- A record of a table (kind 3) becomes effective by being in the journal. -/
theorem applyRecord (h : TableStands s t) {rec : LedgerRecord} (hk : rec.kind = 3) : TableStands s (t.applyRecord rec) := by
  simp only [State.applyRecord, hk]
  split
  · exact h
  · exact h.ledger (by rfl) (by rfl) (by rfl) (by rfl) (by rfl)

theorem commitIfHeld (h : TableStands s t) {rec : LedgerRecord} (hk : rec.kind = 3) : TableStands s (t.commitIfHeld rec) := by
  unfold State.commitIfHeld
  split
  · exact h
  · dsimp only
    split
    · exact h
    · exact ((h.ledger (by rfl) (by rfl) (by rfl) (by rfl) (by rfl)).applyRecord hk).say _

theorem propose (h : TableStands s t) {rec : LedgerRecord} (hk : rec.kind = 3) : TableStands s (t.propose rec) := by
  unfold State.propose
  split
  · exact h
  · dsimp only
    split
    · exact h
    · refine TableStands.commitIfHeld (TableStands.ledger (TableStands.say ?_ _) (by rfl) (by rfl) (by rfl) (by rfl) (by rfl)) hk
      exact h.ledger (by rfl) (by rfl) (by rfl) (by rfl) (by rfl)

end TableStands

/-- A new table is told to the members (R298): its digest goes out, and it stands. -/
theorem settleTable_tells (table : Membership) (was : Nat) (s : State) : TableStands s (settleTable (some table) was s)
    ∧ LedgerMsg.digest (Config.sha3 (encodeTable table)) ∈ (settleTable (some table) was s).ledger.sentMsgs := by
  have hsay := (TableStands.refl s).say (.digest (Config.sha3 (encodeTable table)))
  have hin : LedgerMsg.digest (Config.sha3 (encodeTable table)) ∈ (s.say (.digest (Config.sha3 (encodeTable table)))).ledger.sentMsgs :=
    List.mem_append_right _ List.mem_cons_self
  obtain ⟨a, ha⟩ : ∃ a, s.say (.digest (Config.sha3 (encodeTable table))) = a := ⟨_, rfl⟩
  rw [ha] at hsay hin
  have hrest : TableStands a (settleTable (some table) was s) := by
    unfold settleTable
    dsimp only
    rw [ha]
    have hev : TableStands a (if (tableHalls table).length < 3 then a.event sevInfo evLedgerHalls table.ledger (tableHalls table).length else a) := by
      split
      · exact .event ..
      · exact .refl a
    split
    · exact hev.propose rfl
    · exact hev
  exact ⟨hsay.trans hrest, hrest.said _ hin⟩

theorem allocStores_frame {s t : State} (h : allocStores s = some t) : t = { s with quays := t.quays, quayMarks := t.quayMarks } := by
  revert t
  refine List.foldlRecOn (motive := fun (o : Option State) => ∀ {t}, o = some t → t = { s with quays := t.quays, quayMarks := t.quayMarks }) _ _
    (fun h => by cases h; rfl) fun o ho e _ t h => ?_
  split at h
  next => cases h
  next u => exact (placeIn_allocated h).frame.trans (congrArg (fun y : State => { y with quays := t.quays, quayMarks := t.quayMarks }) (ho rfl))


theorem State.prepareValue_table (s : State) (v : List Byte) :
    s.prepareValue (okey 0x6000 0x30) v = prepareTable (decodeTable v) s := by
  unfold State.prepareValue
  rw [if_neg (by decide), if_neg (by decide), if_pos (by decide)]

theorem State.settleValue_table (s before : State) :
    s.settleValue before (okey 0x6000 0x30) = settleTable s.ledger.membership before.ledger.state s := by
  unfold State.settleValue
  dsimp only
  rw [if_neg (by decide), if_neg (by decide), if_neg (by decide), if_pos rfl, if_neg (by decide)]

/-- A write of a table that passes every check (R298). -/
theorem State.writeTable (s : State) (table : Membership) (hdec : decodeTable (encodeTable table) = some table)
    (hw : Writable s (okey 0x6000 0x30) (encodeTable table)) : ∃ t, s.asked.writeSaved (okey 0x6000 0x30) (encodeTable table) = (t, stOk)
      ∧ t.ledger.membership = some table ∧ t.ledger.state = 1 ∧ t.ledger.roles = [] ∧ t.ledger.tableVersion = table.version + 1
      ∧ LedgerMsg.digest (Config.sha3 (encodeTable table)) ∈ t.ledger.sentMsgs ∧ t.now = s.now ∧ t.tensors = s.tensors := by
  have hprep : ∃ u, (s.asked.prepareValue (okey 0x6000 0x30) (encodeTable table)).1 = u ∧ u.ledger.membership = some table ∧ u.ledger.state = 1
      ∧ u.ledger.roles = [] ∧ u.ledger.tableVersion = table.version + 1 ∧ u.now = s.now ∧ u.tensors = s.tensors := by
    have hok := hw.2.2.2.2
    rw [State.prepareValue_table, hdec] at hok ⊢
    unfold prepareTable at hok ⊢
    dsimp only at hok ⊢
    split at hok
    · exact absurd (show stCapacity = stOk from hok) (by decide)
    · next u hu =>
      have hf := allocStores_frame hu
      have hl := congrArg State.ledger hf
      refine ⟨u, rfl, ?_, ?_, ?_, ?_, (congrArg State.now hf :), (congrArg State.tensors hf :)⟩ <;> rw [hl]
  obtain ⟨u, hu, h1, h2, h3, h4, h5, h6⟩ := hprep
  have hwrite := State.writeSaved_writable hw
  rw [hu, State.settleValue_table, show (u.newConfig (tset s.sivar.config (okey 0x6000 0x30) (encodeTable table))).ledger.membership = some table
    from h1] at hwrite
  obtain ⟨hstands, hsaid⟩ := settleTable_tells table s.asked.ledger.state (u.newConfig (tset s.sivar.config (okey 0x6000 0x30) (encodeTable table)))
  obtain ⟨t, ht⟩ : ∃ t, settleTable (some table) s.asked.ledger.state
    (u.newConfig (tset s.sivar.config (okey 0x6000 0x30) (encodeTable table))) = t := ⟨_, rfl⟩
  rw [ht] at hwrite hstands hsaid
  exact ⟨t, hwrite, hstands.membership.trans h1, hstands.state.trans h2, hstands.roles.trans h3, hstands.tableVersion.trans h4, hsaid,
    (congrArg State.now hstands.frame).trans h5, (congrArg State.tensors hstands.frame).trans h6⟩

/-! ### The tensors that a RESTORE loads -/

/-- Tensors loaded from their copies of a version, with each quay's own copy of the state (R309). -/
structure Restored (s : State) (c : Nat) (done : List Nat) (t : State) : Prop where
  copies : ∀ j, (t.tensor j).record = (s.tensor j).record ∧ (t.tensor j).checkpoint = (s.tensor j).checkpoint
    ∧ (t.tensor j).replica = (s.tensor j).replica
  others : ∀ j, j ∉ done → t.tensor j = s.tensor j
  versions : ∀ j ∈ done, ∀ k, (s.tensor j).copyOf c = some k →
    (t.tensor j).versions = [{ k.version with committed := true, complete := true }]
  state : (∀ x ∈ done, x < mirrorKey) → ∀ j ∈ done, ∀ k, (s.tensor j).copyOf c = some k → t.optOf j = k.state
  mirror : (∀ x ∈ done, x < mirrorKey) → ∀ j ∈ done, recMirror (s.tensor j).record = true → ∀ k, (s.tensor j).replica = some k →
    k.version.number = c → t.optOf (j + mirrorKey) = k.state
  frame : t = { s with tensors := t.tensors, opt := t.opt }

theorem Tensor.copyOf_of_replica {x : Tensor} {c : Nat} {k : Checkpoint} (h : x.replica = some k) (hk : k.version.number = c) :
    (x.copyOf c).isSome = true := by
  unfold Tensor.copyOf
  dsimp only
  rw [h, Option.isSome_or, Option.filter_some, if_pos (beq_iff_eq.mpr hk), Option.isSome_some, Bool.or_true]

theorem Restored.refl (s : State) (c : Nat) : Restored s c [] s :=
  ⟨fun _ => ⟨rfl, rfl, rfl⟩, fun _ _ => rfl, fun _ h => absurd h List.not_mem_nil, fun _ _ h => absurd h List.not_mem_nil,
    fun _ _ h => absurd h List.not_mem_nil, rfl⟩

/-- The optimizer state that the mirror of a restored tensor takes: its own copy where that has the version. -/
def mirrorState (x : Tensor) (k : Checkpoint) (c : Nat) : OptState :=
  match x.replica with
  | some r => if r.version.number = c then r.state else k.state
  | none => k.state

theorem State.restoreTensor_of_copy {s : State} {tid c : Nat} {k : Checkpoint} (h : (s.tensor tid).copyOf c = some k) :
    let a := (s.setTensor tid { s.tensor tid with versions := [{ k.version with committed := true, complete := true }] }).setOptOf tid k.state
    s.restoreTensor tid c = if recMirror (s.tensor tid).record then a.setOptOf (tid + mirrorKey) (mirrorState (s.tensor tid) k c) else a := by
  dsimp only
  unfold State.restoreTensor
  dsimp only
  rw [h]
  rfl

theorem State.setOptOf_optOf (s : State) (j i : Nat) (o : OptState) : (s.setOptOf j o).optOf i = if i = j then o else s.optOf i := tget_tput ..

theorem State.restoreTensor_restores (s : State) (tid c : Nat) {k : Checkpoint} (h : (s.tensor tid).copyOf c = some k) :
    let t := s.restoreTensor tid c
    (∀ j, t.tensor j = if j = tid then { s.tensor tid with versions := [{ k.version with committed := true, complete := true }] } else s.tensor j)
      ∧ (t.optOf tid = k.state) ∧ (recMirror (s.tensor tid).record = true → t.optOf (tid + mirrorKey) = mirrorState (s.tensor tid) k c)
      ∧ (∀ j, j ≠ tid → j ≠ tid + mirrorKey → t.optOf j = s.optOf j) ∧ t = { s with tensors := t.tensors, opt := t.opt } := by
  have hne : tid ≠ tid + mirrorKey := Nat.ne_of_lt (Nat.lt_add_of_pos_right (by decide))
  dsimp only
  rw [State.restoreTensor_of_copy h]
  obtain ⟨a, ha⟩ : ∃ a, (s.setTensor tid { s.tensor tid with versions := [{ k.version with committed := true, complete := true }] }).setOptOf
    tid k.state = a := ⟨_, rfl⟩
  have htensor : ∀ j, a.tensor j = if j = tid then { s.tensor tid with versions := [{ k.version with committed := true, complete := true }] }
      else s.tensor j := fun j => by rw [← ha]; exact tget_tput ..
  have hopt : ∀ j, a.optOf j = if j = tid then k.state else s.optOf j := fun j => by rw [← ha]; exact State.setOptOf_optOf ..
  have hframe : a = { s with tensors := a.tensors, opt := a.opt } := by rw [← ha]; rfl
  rw [ha]
  split
  · refine ⟨htensor, ?_, fun _ => (State.setOptOf_optOf ..).trans (if_pos rfl), fun j h1 h2 => ?_, ?_⟩
    · rw [State.setOptOf_optOf, if_neg hne, hopt, if_pos rfl]
    · rw [State.setOptOf_optOf, if_neg h2, hopt, if_neg h1]
    · exact congrArg (fun y : State => y.setOptOf (tid + mirrorKey) (mirrorState (s.tensor tid) k c)) hframe
  · next hm =>
    exact ⟨htensor, (hopt tid).trans (if_pos rfl), fun h => absurd h hm, fun j h1 _ => (hopt j).trans (if_neg h1), hframe⟩

theorem Restored.step {s t : State} {c : Nat} {done : List Nat} (h : Restored s c done t) {tid : Nat}
    (hc : ((s.tensor tid).copyOf c).isSome = true) : Restored s c (done ++ [tid]) (t.restoreTensor tid c) := by
  obtain ⟨k, hk⟩ := Option.isSome_iff_exists.mp hc
  obtain ⟨hrec, hcheck, hrep⟩ := h.copies tid
  have hcopy : (t.tensor tid).copyOf c = some k := by
    unfold Tensor.copyOf at hk ⊢
    rwa [hcheck, hrep]
  have hmir : mirrorState (t.tensor tid) k c = mirrorState (s.tensor tid) k c := by
    unfold mirrorState
    rw [hrep]
  obtain ⟨htensor, hown, hmirror, hothers, hframe⟩ := t.restoreTensor_restores tid c hcopy
  obtain ⟨u, hu⟩ : ∃ u, t.restoreTensor tid c = u := ⟨_, rfl⟩
  rw [hu] at hown hmirror hframe ⊢
  simp only [hu] at htensor hothers
  have hmem : ∀ {j}, j ∈ done ++ [tid] → j = tid ∨ j ∈ done := fun hj => by simpa [or_comm] using hj
  have hlow : (∀ x ∈ done ++ [tid], x < mirrorKey) → (∀ x ∈ done, x < mirrorKey) ∧ tid < mirrorKey := fun hx =>
    ⟨fun x hd => hx x (List.mem_append_left _ hd), hx tid (List.mem_append_right _ List.mem_cons_self)⟩
  refine ⟨fun j => ?_, fun j hj => ?_, fun j hj k' hk' => ?_, fun hx j hj k' hk' => ?_, fun hx j hj hm k' hk' hn => ?_,
    hframe.trans (congrArg (fun y : State => { y with tensors := u.tensors, opt := u.opt }) h.frame)⟩
  · rw [htensor]
    split
    · next hj => rw [hj]; exact h.copies tid
    · exact h.copies j
  · rw [List.mem_append, not_or] at hj
    rw [htensor, if_neg fun e : j = tid => hj.2 (e ▸ List.mem_cons_self)]
    exact h.others j hj.1
  · rw [htensor]
    split
    · next he => rw [he, hk] at hk'; rw [Option.some.inj hk']
    · next he => exact h.versions j ((hmem hj).resolve_left he) k' hk'
  · obtain ⟨hlo, htid⟩ := hlow hx
    by_cases he : j = tid
    · rw [he, hk] at hk'
      rw [he, hown, Option.some.inj hk']
    · have hd := (hmem hj).resolve_left he
      rw [hothers j he (Nat.ne_of_lt (Nat.lt_of_lt_of_le (hlo j hd) (Nat.le_add_left ..)))]
      exact h.state hlo j hd k' hk'
  · obtain ⟨hlo, htid⟩ := hlow hx
    by_cases he : j = tid
    · rw [he] at hk' hm ⊢
      rw [hmirror (by rw [hrec]; exact hm), hmir, mirrorState, hk']
      exact if_pos hn
    · have hd := (hmem hj).resolve_left he
      rw [hothers (j + mirrorKey) (Nat.ne_of_gt (Nat.lt_of_lt_of_le htid (Nat.le_add_left ..))) fun e => he (Nat.add_right_cancel e)]
      exact h.mirror hlo j hd hm k' hk' hn

theorem Restored.all {s : State} {c : Nat} (l : List Nat) {done : List Nat} {t : State} (h : Restored s c done t)
    (hc : ∀ tid ∈ l, ((s.tensor tid).copyOf c).isSome = true) :
    Restored s c (done ++ l) (l.foldl (fun (t : State) tid => t.restoreTensor tid c) t) := by
  induction l generalizing done t with
  | nil => rwa [List.append_nil]
  | cons tid l ih =>
    have h1 := ih (h.step (hc tid List.mem_cons_self)) fun x hx => hc x (List.mem_cons_of_mem _ hx)
    rwa [List.append_assoc] at h1


/-- The write of an empty table takes the module out of its ledger (R298). -/
theorem State.writeSaved_noTable {s : State} (hw : Writable s (okey 0x6000 0x30) []) :
    s.asked.writeSaved (okey 0x6000 0x30) [] =
      (({ s.asked with ledger := { s.ledger with
          membership := none, state := 0, hm := none, roles := [], digests := [], proposed := [], dones := [] } } : State).newConfig
        (tset s.sivar.config (okey 0x6000 0x30) []), stOk) := by
  rw [State.writeSaved_writable hw, State.prepareValue_table, State.settleValue_table]
  rfl

/-- The updates that a RESTORE drops: the exchanges, and the run. -/
theorem State.dropExchanges_frame (l : List Nat) (s : State) (p : Nat) :
    l.foldl (fun (u : State) k => u.setExchange p k {}) s =
      { s with ledger := { s.ledger with exchange := (l.foldl (fun (u : State) k => u.setExchange p k {}) s).ledger.exchange } } :=
  List.foldlRecOn (motive := fun t : State => t = { s with ledger := { s.ledger with exchange := t.ledger.exchange } }) l _ rfl
    fun _ ht k _ => congrArg (fun y : State => y.setExchange p k {}) ht

/-- The state of a ledger that goes on from a checkpoint (R309). -/
def State.ledgerAt (b : State) (p ledger c : Nat) : State :=
  { b.setRun p {} with ledger := { (b.setRun p {}).ledger with
      state := 2, proposed := [], dones := [], committed := tset b.ledger.committed ledger c } }

theorem doRestore_loads {s : State} {ledger p : Nat} (hst : s.ledger.state = 6)
    (hp : (ledgerParts s).find? (fun p => ledgerOf s p == ledger) = some p)
    (hall : ∀ tid ∈ domainTensors s p, ((s.tensor tid).copyOf s.ledger.rollbackTo).isSome = true) :
    doRestore ledger s = (State.ledgerAt ((List.range 4).foldl (fun (u : State) k => u.setExchange p k {})
      ((domainTensors s p).foldl (fun (t : State) tid => t.restoreTensor tid s.ledger.rollbackTo) s)) p ledger s.ledger.rollbackTo, stOk) := by
  have hnone : ((domainTensors s p).any fun tid => ((s.tensor tid).copyOf s.ledger.rollbackTo).isNone) = false :=
    List.any_eq_false.mpr fun tid hm => by
      rw [Option.isNone_iff_eq_none]
      exact fun e => by have h := hall tid hm; rw [e] at h; cases h
  unfold doRestore
  rw [if_neg (not_not.mpr hst), hp]
  dsimp only
  rw [hnone, if_neg Bool.false_ne_true]
  rfl

/-- Settles O36, by what the write of a table prepares and settles, and by the fold of the loads over the ledger's tensors. -/
theorem membershipAndRestore : Obligations.MembershipAndRestore := by
  unfold Obligations.MembershipAndRestore
  refine ⟨fun s cl table hs hdec hw => ?_, fun s cl hs hw => ?_, fun s cl ledger p hs hst hp hall => ?_⟩
  · obtain ⟨t, ht, h1, h2, h3, h4, h5, hnow, htensors⟩ := s.writeTable table hdec hw
    obtain ⟨⟨hcfg, _, hver, _⟩, hresp⟩ := hw.saved ht
    have hmem := s.asked.writeSaved_memories (okey 0x6000 0x30) (encodeTable table)
    rw [ht] at hmem
    have hdo : doMembershipWrite (some table) s.asked = (t, stOk) := (if_pos hdec).trans ht
    exact ⟨_, congrArg Host.Outcome.next (command_changed hs hdo hresp), rfl, h1, h2, h3, h4, h5, hcfg, hver, hnow, htensors,
      congrArg Prod.fst hmem, State.dram_of_tiers (congrArg tiersOf hmem), State.flash_of_tiers (congrArg tiersOf hmem)⟩
  · have hdo : doMembershipWrite none s.asked = _ := State.writeSaved_noTable hw
    exact ⟨_, congrArg Host.Outcome.next (command_changed hs hdo rfl), rfl, rfl, ⟨rfl, rfl, rfl, rfl⟩, rfl⟩
  · have hdo := doRestore_loads (s := s.asked) hst hp hall
    have hr := Restored.all (domainTensors s.asked p) (Restored.refl s.asked s.asked.ledger.rollbackTo) hall
    rw [List.nil_append] at hr
    obtain ⟨a, ha⟩ : ∃ a, (domainTensors s.asked p).foldl (fun (t : State) tid => t.restoreTensor tid s.asked.ledger.rollbackTo) s.asked = a := ⟨_, rfl⟩
    rw [ha] at hr hdo
    have hb := State.dropExchanges_frame (List.range 4) a p
    obtain ⟨b, hbe⟩ : ∃ b, (List.range 4).foldl (fun (u : State) k => u.setExchange p k {}) a = b := ⟨_, rfl⟩
    rw [hbe] at hb hdo
    have hbt : b.tensors = a.tensors := by rw [hb]
    have hbo : b.opt = a.opt := by rw [hb]
    have hresp : b.resp = {} := by rw [hb, hr.frame]; rfl
    have htensor : ∀ j, b.tensor j = a.tensor j := fun j => congrArg (fun m => tget ({} : Tensor) m j) hbt
    have hopt : ∀ j, b.optOf j = a.optOf j := fun j => congrArg (fun o : Optimizer => tget ({} : OptState) o.tensors j) hbo
    refine ⟨_, congrArg Host.Outcome.next (command_changed hs hdo hresp), rfl, rfl, ?_, ?_, fun tid hm c hc => ⟨?_, fun hlow => ⟨?_, fun hmir k hk hn => ?_⟩⟩,
      fun tid hm => ?_, ?_⟩
    · exact (tget_tset ..).trans (if_pos rfl)
    · exact congrArg UpdateRun.phase (tget_tput_same ({} : UpdateRun) b.opt.runs p {})
    · exact (congrArg Tensor.versions (htensor tid)).trans (hr.versions tid hm c hc)
    · exact (hopt tid).trans (hr.state hlow tid hm c hc)
    · exact (hopt _).trans (hr.mirror hlow tid hm hmir k hk hn)
    · exact (htensor tid).trans (hr.others tid hm)
    · rw [hb]
      exact (congrArg (fun y : State => ({ y with
        opt := { a.opt with runs := tput {} a.opt.runs p {} }, resp := answered stOk, ledger := { a.ledger with
          exchange := b.ledger.exchange, state := 2, proposed := [], dones := []
          committed := tset a.ledger.committed ledger s.ledger.rollbackTo } } : State)) hr.frame :)


end Sys2Proof.Machine
end

section
/-! SUPPORT. Optimizer objects: assignments, resets, state writes and group records (R248-R253). -/

namespace Sys2Proof.Machine

/-! ### The space of a group's state -/

theorem placeAll_quays {s t : State} {tid : Nat} {l : List (Nat × Nat × Nat)} (h : placeAll s tid l = some t) : t = { s with quays := t.quays } := by
  induction l generalizing s with
  | nil => cases h; rfl
  | cons e l ih =>
    obtain ⟨q, tier, size⟩ := e
    unfold placeAll at h
    split at h
    · next u hu =>
      have hone : u = { s with quays := u.quays } := by
        unfold placeIn at hu
        dsimp only at hu
        split at hu
        · cases hu
        · cases hu; rfl
      exact (ih h).trans (congrArg (fun y : State => { y with quays := t.quays }) hone)
    · cases h

/-- New space for a tensor's state is written into the quays' allocations alone. -/
theorem reallocate_quays {s t : State} {id : Nat} {r g : BitVec 512} (hr : s.recOf id = some r) (hreg : recRegion r = false)
    (h : reallocate s id g = some t) : t = { s with quays := t.quays } := by
  unfold reallocate at h
  rw [hr] at h
  dsimp only at h
  unfold allocate at h
  rw [if_neg (by rw [hreg]; exact Bool.false_ne_true)] at h
  exact (placeAll_quays h).trans rfl

theorem freeAll_allocated (s : State) (tid : Nat) : freeAll s tid = { s with quays := (freeAll s tid).quays } := rfl

theorem reallocate_frame {s t : State} {id : Nat} {g : BitVec 512} (h : reallocate s id g = some t) :
    t = { s with quays := t.quays, quayMarks := t.quayMarks } := by
  unfold reallocate at h
  split at h
  · cases h
  · exact (allocate_allocated h).frame.trans rfl

theorem regroup_frame {s t : State} {gi : Nat} {old new : BitVec 512} {l : List Nat} (h : regroup s gi old new l = some t) :
    t = { s with quays := t.quays, quayMarks := t.quayMarks, opt := t.opt } := by
  induction l generalizing s with
  | nil => cases h; rfl
  | cons tid l ih =>
    unfold regroup at h
    dsimp only at h
    split at h
    · cases h
    · next u hu =>
      have hf := reallocate_frame hu
      have hstep : ∀ a : State, a = { u with opt := a.opt } → t = { a with quays := t.quays, quayMarks := t.quayMarks, opt := t.opt } →
          t = { s with quays := t.quays, quayMarks := t.quayMarks, opt := t.opt } := fun a ha ht => by
        have hau : a = { s with quays := a.quays, quayMarks := a.quayMarks, opt := a.opt } := by
          have hq : a.quays = u.quays := by rw [ha]
          have hm : a.quayMarks = u.quayMarks := by rw [ha]
          rw [hq, hm]
          exact ha.trans (congrArg (fun y : State => { y with opt := a.opt }) hf)
        exact ht.trans (congrArg (fun y : State => { y with quays := t.quays, quayMarks := t.quayMarks, opt := t.opt }) hau)
      refine hstep _ ?_ (ih h)
      split <;> rfl

theorem settleGroup_frame (gi : Nat) (s : State) : settleGroup gi s = { s with opt := (settleGroup gi s).opt } := by
  unfold settleGroup
  refine List.foldlRecOn (motive := fun t : State => t = { s with opt := t.opt }) _ _ rfl fun t ht tid _ => ?_
  split
  · next r v _ _ =>
    have hf := t.seedMaster_frame tid r v
    exact hf.trans (congrArg (fun y : State => { y with opt := (t.seedMaster tid r v).opt }) ht)
  · exact ht

/-! ### Assignments -/

/-- The state of a tensor that an assignment gives a group (R248): fresh where the rule changes, or none was assigned. -/
def assignedState (fresh : Bool) (group : Nat) (o : OptState) : OptState :=
  if fresh then { group := group, assigned := true } else { o with group := group, assigned := true }

theorem assignedState_group (fresh : Bool) (group : Nat) (o : OptState) :
    (assignedState fresh group o).group = group ∧ (assignedState fresh group o).assigned = true := by
  unfold assignedState
  split <;> exact ⟨rfl, rfl⟩

/-- The two states of a tensor, its quay's and its mirror's (R246), put in place. -/
def State.putStates (s : State) (id : Nat) (mirror : Bool) (f : OptState → OptState) : State :=
  if mirror then (s.setOptOf id (f (s.optOf id))).setOptOf (id + mirrorKey) (f (s.optOf (id + mirrorKey))) else s.setOptOf id (f (s.optOf id))

theorem State.putStates_puts (s : State) (id : Nat) (mirror : Bool) (f : OptState → OptState) : let t := s.putStates id mirror f
    t.optOf id = f (s.optOf id) ∧ (mirror = true → t.optOf (id + mirrorKey) = f (s.optOf (id + mirrorKey)))
      ∧ (∀ k, k ≠ id → k ≠ id + mirrorKey → t.optOf k = s.optOf k) ∧ t = { s with opt := t.opt } := by
  have hne : id ≠ id + mirrorKey := Nat.ne_of_lt (Nat.lt_add_of_pos_right (by decide))
  dsimp only
  unfold State.putStates
  split
  · refine ⟨?_, fun _ => ?_, fun k h1 h2 => ?_, rfl⟩
    · rw [State.setOptOf_optOf, if_neg hne, State.setOptOf_optOf, if_pos rfl]
    · rw [State.setOptOf_optOf, if_pos rfl]
    · rw [State.setOptOf_optOf, if_neg h2, State.setOptOf_optOf, if_neg h1]
  · next h =>
    exact ⟨by rw [State.setOptOf_optOf, if_pos rfl], fun hm => absurd hm h, fun k h1 _ => by rw [State.setOptOf_optOf, if_neg h1], rfl⟩

/-- The first master weights change no group (R248). -/
theorem State.seedMaster_keeps (s : State) (id : Nat) (r : BitVec 512) (v : Version) : let t := s.seedMaster id r v
    (t.optOf id).group = (s.optOf id).group ∧ (t.optOf id).assigned = (s.optOf id).assigned
      ∧ (∀ k, k ≠ id → k ≠ id + mirrorKey → t.optOf k = s.optOf k) := by
  have hne : id ≠ id + mirrorKey := Nat.ne_of_lt (Nat.lt_add_of_pos_right (by decide))
  have hkey : (2 ^ 24 : Nat) = mirrorKey := rfl
  dsimp only
  unfold State.seedMaster
  dsimp only
  split
  · exact ⟨rfl, rfl, fun _ _ _ => rfl⟩
  · rw [hkey]
    obtain ⟨w, hw⟩ : ∃ w : Tbl F32, (List.range (recTiles r)).flatMap (fun t =>
      (tileElems (recStream r) (versionTile s.freeCtr r v t)).zipIdx.filterMap (fun e =>
        if e.1 = 0 then none else some (1024 * t + e.2, e.1))) = w := ⟨_, rfl⟩
    have hcalc : ∀ (k : Nat) (ts : Tbl OptState), State.optOf { s with opt := { s.opt with tensors := ts } } k = tget {} ts k := fun _ _ => rfl
    rw [hw]
    simp only [hcalc]
    split
    · refine ⟨?_, ?_, fun k h1 h2 => ?_⟩
      · rw [tget_tset, if_neg hne, tget_tset, if_pos rfl]
      · rw [tget_tset, if_neg hne, tget_tset, if_pos rfl]
      · rw [tget_tset, if_neg h2, tget_tset, if_neg h1]
    · refine ⟨?_, ?_, fun k h1 _ => ?_⟩
      · rw [tget_tset, if_pos rfl]
      · rw [tget_tset, if_pos rfl]
      · rw [tget_tset, if_neg h1]

theorem doAssignment_assigns {s u : State} {id group : Nat} {r : BitVec 512} (hg : group ≤ 15) (hr : s.recOf id = some r)
    (hfro : recFrozen r = false ∨ grpRule (s.groupRec group) = 0) (hreg : recRegion r = false) (hfits : precondFits r (s.groupRec group) = true)
    (hbusy : recFrozen r = true ∨ feedBusy s id = false) (hu : reallocate s id (s.groupRec group) = some u) :
    let fresh := decide (grpRule (s.groupRec (u.optOf id).group) ≠ grpRule (s.groupRec group)) || !(u.optOf id).assigned
    let a := u.putStates id (recMirror r) (assignedState fresh group)
    doAssignment id group s = ((match (a.tensor id).newest with
      | some v => if fresh then a.seedMaster id r v else a
      | none => a), stOk) := by
  dsimp only
  unfold doAssignment
  rw [if_neg (Nat.not_lt.mpr hg), hr]
  dsimp only
  rw [if_neg fun h => hfro.elim (fun h' => Bool.false_ne_true (h'.symm.trans h.1)) h.2, hreg, hfits, if_neg (by decide)]
  rw [if_neg (by rcases hbusy with h | h <;> rw [h] <;> simp), hu]
  rfl

/-- An assignment's two states keep their group through the first master weights (R248). -/
theorem State.seeded_keeps (a : State) (id : Nat) (r : BitVec 512) (fresh : Bool) (o : Option Version) :
    let t := match o with
      | some v => if fresh then a.seedMaster id r v else a
      | none => a
    (t.optOf id).group = (a.optOf id).group ∧ (t.optOf id).assigned = (a.optOf id).assigned
      ∧ (∀ k, k ≠ id → k ≠ id + mirrorKey → t.optOf k = a.optOf k) ∧ (fresh = false → t = a) ∧ t = { a with opt := t.opt } := by
  dsimp only
  split
  · next v =>
    split
    · next hf =>
      obtain ⟨h1, h2, h3⟩ := a.seedMaster_keeps id r v
      exact ⟨h1, h2, h3, fun h => absurd (h.symm.trans hf) Bool.false_ne_true, a.seedMaster_frame id r v⟩
    · exact ⟨rfl, rfl, fun _ _ _ => rfl, fun _ => rfl, rfl⟩
  · exact ⟨rfl, rfl, fun _ _ _ => rfl, fun _ => rfl, rfl⟩

/-! ### Writes of a tensor's state and of a group's record -/

/-- A state that is reset: no moments, no counts, fallback blocks, and the master weights as they were (R249). -/
def OptState.restarted (o : OptState) : OptState :=
  { o with m := [], v := [], u := 0, rows := [], blocks := o.blocks.map (fun e => (e.1, e.2.zeroed)) }

/-- A write of one part of a tensor's state leaves the others (R252). -/
theorem OptState.write_others (o : OptState) (r g : BitVec 512) (part off : Nat) (data : List Byte) : let x := o.write r g part off data
    (part ≠ 0 → x.w = o.w) ∧ (part ≠ 1 → x.m = o.m) ∧ (part ≠ 2 → x.v = o.v)
      ∧ (part ≤ 3 → part ≠ 3 → x.u = o.u ∧ x.rows = o.rows) := by
  match part with
  | 0 => exact ⟨fun h => absurd rfl h, fun _ => rfl, fun _ => rfl, fun _ _ => ⟨rfl, rfl⟩⟩
  | 1 => exact ⟨fun _ => rfl, fun h => absurd rfl h, fun _ => rfl, fun _ _ => ⟨rfl, rfl⟩⟩
  | 2 => exact ⟨fun _ => rfl, fun _ => rfl, fun h => absurd rfl h, fun _ _ => ⟨rfl, rfl⟩⟩
  | n + 3 => exact ⟨fun _ => rfl, fun _ => rfl, fun _ => rfl, fun h3 hn => absurd (Nat.le_antisymm h3 (Nat.le_add_left ..)) hn⟩

theorem doStateWrite_writes {s : State} {id part off : Nat} {data : List Byte} {r : BitVec 512} (hok : stateChecks s id = none)
    (hr : s.recOf id = some r) (hpart : part ≤ 3) (hlen : off + data.length ≤ partBytes r (s.groupRec (s.optOf id).group) part) :
    doStateWrite id part off data s = (s.putStates id (recMirror r) (fun o => o.write r (s.groupRec (s.optOf id).group) part off data), stOk) := by
  have hne : id + mirrorKey ≠ id := Nat.ne_of_gt (Nat.lt_add_of_pos_right (by decide))
  unfold doStateWrite
  rw [hok, hr]
  dsimp only
  rw [if_neg (by omega), State.setOptOf_optOf, if_neg hne]
  rfl

theorem leNat_leBytes (n v : Nat) : leNat (leBytes n v) = v % 256 ^ n := by
  induction n generalizing v with
  | zero => simp [leBytes, leNat, Nat.mod_one]
  | succ n ih =>
    rw [leBytes, leNat, ih, show (BitVec.ofNat 8 v).toNat = v % 256 from BitVec.toNat_ofNat v 8, Nat.pow_succ', Nat.mod_mul]

theorem BitVec.ofNat_leNat_leBytes (v : BitVec 512) : BitVec.ofNat 512 (leNat (leBytes 64 v.toNat)) = v := by
  rw [leNat_leBytes]
  refine BitVec.eq_of_toNat_eq ?_
  rw [BitVec.toNat_ofNat]
  have h := v.isLt
  rw [show (256 : Nat) ^ 64 = 2 ^ 512 from by rw [show (256 : Nat) = 2 ^ 8 from rfl, ← Nat.pow_mul], Nat.mod_mod, Nat.mod_eq_of_lt h]

theorem groupKey_parts {g : Nat} (hg : g ≤ 15) : okey 0x6000 (0x10 + g) / 256 = 0x6000 ∧ okey 0x6000 (0x10 + g) % 256 = 0x10 + g := by
  unfold okey
  omega

/-- What the write of a group record leaves (R253): the time, and the tensors. -/
theorem State.writeGroup_stays {s t : State} {g : Nat} {bs : List Byte} (hg : g ≤ 15) (hw : Writable s (okey 0x6000 (0x10 + g)) bs)
    (ht : s.asked.writeSaved (okey 0x6000 (0x10 + g)) bs = (t, stOk)) : t.now = s.now ∧ t.tensors = s.tensors := by
  obtain ⟨hidx, hsub⟩ := groupKey_parts hg
  have hgroup : within (0x10 + g) 0x10 16 = true := by
    unfold within
    simp
    omega
  have hprep : ∃ u, (s.asked.prepareValue (okey 0x6000 (0x10 + g)) bs).1 = u ∧ u.now = s.now ∧ u.tensors = s.tensors := by
    refine ⟨_, rfl, ?_⟩
    unfold State.prepareValue
    dsimp only
    rw [hidx, hsub, hgroup, if_neg (not_not.mpr rfl), if_pos rfl]
    unfold prepareGroup
    dsimp only
    split
    · exact ⟨rfl, rfl⟩
    · split
      · exact ⟨rfl, rfl⟩
      · next u hu =>
        have hf := regroup_frame hu
        exact ⟨(congrArg State.now hf :), (congrArg State.tensors hf :)⟩
  obtain ⟨u, hu, hnow, htensors⟩ := hprep
  have hpin : isPin (okey 0x6000 (0x10 + g)) = false := by
    by_contra h
    have h1 := (isPin_cases (Bool.not_eq_false _ |>.mp h)).2 hidx
    rw [hsub] at h1
    omega
  have hne : okey 0x6000 (0x10 + g) ≠ okey 0x7000 1 := fun h => by
    have h1 : okey 0x6000 (0x10 + g) / 256 = okey 0x7000 1 / 256 := by rw [h]
    rw [hidx] at h1
    exact absurd h1 (by decide)
  have hsettle : ∀ a b : State, a.settleValue b (okey 0x6000 (0x10 + g)) = settleGroup (0x10 + g - 0x10) a := fun a b => by
    unfold State.settleValue
    dsimp only
    rw [hidx, hsub, hpin, hgroup, if_neg hne, if_neg fun h => absurd h.1 (by decide), if_pos ⟨rfl, rfl⟩, if_neg Bool.false_ne_true]
  rw [State.writeSaved_writable hw, hu, hsettle] at ht
  have hf := settleGroup_frame (0x10 + g - 0x10) (u.newConfig (tset s.sivar.config (okey 0x6000 (0x10 + g)) bs))
  rw [show settleGroup _ _ = t from congrArg Prod.fst ht] at hf
  exact ⟨(congrArg State.now hf :).trans hnow, (congrArg State.tensors hf :).trans htensors⟩

/-- Settles O32, by the two states that each command puts in place, and by what a group record prepares and settles. -/
theorem optimizerObjectsAreWritten : Obligations.OptimizerObjectsAreWritten := by
  unfold Obligations.OptimizerObjectsAreWritten
  refine ⟨fun s cl id group r u hs hg hr hfro hreg hfits hbusy hu => ?_, fun s cl id hs hok => ?_, fun s cl id part off data r hs hok hr hpart hlen => ?_,
    fun s cl g rec hs hg hw => ?_⟩
  · have hdo := doAssignment_assigns (s := s.asked) hg hr hfro hreg hfits hbusy hu
    have huf := reallocate_quays (s := s.asked) hr hreg hu
    have hopt : ∀ k, u.optOf k = s.optOf k := fun k => (congrArg (fun y : State => y.optOf k) huf :).trans rfl
    dsimp only at hdo
    obtain ⟨fresh, hfresh⟩ : ∃ fresh, (decide (grpRule (s.asked.groupRec (u.optOf id).group) ≠ grpRule (s.asked.groupRec group))
      || !(u.optOf id).assigned) = fresh := ⟨_, rfl⟩
    rw [hfresh] at hdo
    obtain ⟨hown, hmir, hoth, haf⟩ := u.putStates_puts id (recMirror r) (assignedState fresh group)
    obtain ⟨a, ha⟩ : ∃ a, u.putStates id (recMirror r) (assignedState fresh group) = a := ⟨_, rfl⟩
    rw [ha] at hown hmir haf hdo
    simp only [ha] at hoth
    obtain ⟨h1, h2, h3, h4, h5⟩ := a.seeded_keeps id r fresh (a.tensor id).newest
    obtain ⟨t, ht⟩ : ∃ t, (match (a.tensor id).newest with
      | some v => if fresh then a.seedMaster id r v else a
      | none => a) = t := ⟨_, rfl⟩
    rw [ht] at hdo
    have ht' := ht
    replace h1 : (t.optOf id).group = (a.optOf id).group := by rw [← ht]; exact h1
    replace h2 : (t.optOf id).assigned = (a.optOf id).assigned := by rw [← ht]; exact h2
    replace h3 : ∀ k, k ≠ id → k ≠ id + mirrorKey → t.optOf k = a.optOf k := by rw [← ht]; exact h3
    replace h4 : fresh = false → t = a := by rw [← ht]; exact h4
    replace h5 : t = { a with opt := t.opt } := by rw [← ht]; exact h5
    obtain ⟨g1, g2⟩ := assignedState_group fresh group (u.optOf id)
    have haq : a.quays = u.quays := by rw [haf]
    have htq : t.quays = a.quays := by rw [h5]
    have hframe : t = { s.asked with quays := t.quays, opt := t.opt } := by
      rw [htq, haq]
      exact h5.trans (congrArg (fun y : State => { y with opt := t.opt })
        (haf.trans (congrArg (fun y : State => { y with opt := a.opt }) huf)))
    have hresp : t.resp = {} := by rw [hframe]; rfl
    refine ⟨_, congrArg Host.Outcome.next (command_changed hs hdo hresp), rfl, h1.trans (by rw [hown]; exact g1), h2.trans (by rw [hown]; exact g2),
      htq.trans haq, fun hrule hass => ?_, fun k hk hk' => ((h3 k hk hk').trans (hoth k hk hk')).trans (hopt k),
      (congrArg (fun y : State => { y with resp := answered stOk }) hframe :)⟩
    have hnot : fresh = false := by
      rw [← hfresh, hopt id, hass]
      exact Bool.or_eq_false_iff.mpr ⟨decide_eq_false (not_not.mpr hrule), rfl⟩
    have hta := h4 hnot
    have hopt' : ∀ k, (show State from { t with resp := answered stOk }).optOf k = a.optOf k := fun k => by rw [hta]; rfl
    refine ⟨(hopt' id).trans ?_, fun hm => (hopt' _).trans ?_⟩
    · rw [hown, hnot, hopt id]
      exact congrArg (fun b => ({ s.optOf id with group := group, assigned := b } : OptState)) hass.symm
    · rw [hmir hm, hnot, hopt]
      rfl
  · have hdo : doStateReset id s.asked = (s.asked.putStates id true OptState.restarted, stOk) := by
      unfold doStateReset
      rw [show stateChecks s.asked id = none from hok]
      rfl
    obtain ⟨hown, _, hoth, hf⟩ := s.asked.putStates_puts id true OptState.restarted
    obtain ⟨t, ht⟩ : ∃ t, s.asked.putStates id true OptState.restarted = t := ⟨_, rfl⟩
    rw [ht] at hown hf hdo
    simp only [ht] at hoth
    have hresp : t.resp = {} := by rw [hf]; rfl
    exact ⟨_, congrArg Host.Outcome.next (command_changed hs hdo hresp), rfl, hown, hoth,
      (congrArg (fun y : State => { y with resp := answered stOk }) hf :)⟩
  · have hdo : doStateWrite id part off data s.asked = (s.asked.putStates id (recMirror r)
        (fun o => o.write r (s.groupRec (s.optOf id).group) part off data), stOk) :=
      doStateWrite_writes (s := s.asked) hok hr hpart hlen
    obtain ⟨hown, _, hoth, hf⟩ := s.asked.putStates_puts id (recMirror r) (fun o => o.write r (s.groupRec (s.optOf id).group) part off data)
    obtain ⟨t, ht⟩ : ∃ t, s.asked.putStates id (recMirror r) (fun o => o.write r (s.groupRec (s.optOf id).group) part off data) = t := ⟨_, rfl⟩
    rw [ht] at hown hf hdo
    simp only [ht] at hoth
    have hresp : t.resp = {} := by rw [hf]; rfl
    obtain ⟨k0, k1, k2, k3⟩ := (s.optOf id).write_others r (s.groupRec (s.optOf id).group) part off data
    have hown' : (show State from { t with resp := answered stOk }).optOf id = (s.optOf id).write r (s.groupRec (s.optOf id).group) part off data := hown
    exact ⟨_, congrArg Host.Outcome.next (command_changed hs hdo hresp), rfl, hown, fun h => (congrArg OptState.w hown').trans (k0 h),
      fun h => (congrArg OptState.m hown').trans (k1 h), fun h => (congrArg OptState.v hown').trans (k2 h),
      fun h => ⟨(congrArg OptState.u hown').trans (k3 hpart h).1, (congrArg OptState.rows hown').trans (k3 hpart h).2⟩, hoth,
      (congrArg (fun y : State => { y with resp := answered stOk }) hf :)⟩
  · obtain ⟨t, ht⟩ : ∃ t, s.asked.writeSaved (okey 0x6000 (0x10 + g)) (leBytes 64 rec.toNat) = (t, stOk) :=
      ⟨_, State.writeSaved_writable hw⟩
    obtain ⟨hsaved, hresp⟩ := hw.saved ht
    obtain ⟨hnow, htensors⟩ := State.writeGroup_stays hg hw ht
    have hmem := s.asked.writeSaved_memories (okey 0x6000 (0x10 + g)) (leBytes 64 rec.toNat)
    rw [ht] at hmem
    refine ⟨_, congrArg Host.Outcome.next (command_changed hs ((if_neg (Nat.not_lt.mpr hg)).trans ht) hresp), rfl, hsaved, ?_, hnow, htensors,
      congrArg Prod.fst hmem, State.dram_of_tiers (congrArg tiersOf hmem), State.flash_of_tiers (congrArg tiersOf hmem)⟩
    have hbytes : tget [] t.sivar.config (okey 0x6000 (0x10 + g)) = leBytes 64 rec.toNat := by
      rw [hsaved.1, tget_tset, if_pos rfl]
    exact (congrArg (fun bs => BitVec.ofNat 512 (leNat bs)) hbytes).trans (BitVec.ofNat_leNat_leBytes rec)


end Sys2Proof.Machine
end

section
/-! SUPPORT. Handoff results and the decision of a micro-batch's path (R281-R284). -/

namespace Sys2Proof.Machine

/-! ### The decision at one partition (R286, R287, R289) -/

/-- Whether a HARD decision sets the bit at the branch, and not the fault (R287). -/
def setsHardBit (s : State) (q : Nat) (hard : Bool) : Bool := hard && decide (pinFor s q 0x6300 1 ≠ 1)

/-- A pair record that has its decision. -/
def decidedPair (s : State) (q result : Nat) (hard : Bool) : Pair :=
  { s.pair q with
    decided := true
    counts := tput 0 (s.pair q).counts result (satAdd 32 (tget 0 (s.pair q).counts result) 1)
    report := (((s.part q).n0 + (s.pair q).checkStep, (s.pair q).checkOuter, result, hard, (s.pair q).late) :: (s.pair q).report).take 256 }

/-- The requests for the variant bit that a decision adds. -/
def decidedLatches (s : State) (q code : Nat) (hard : Bool) : List VariantReq :=
  if hard then (if pinFor s q 0x6300 1 = 1 then [] else [{ hardRequest s q true code with detail := none }])
  else if hardSet s q || (s.tide.joined && s.tide.isRoot) then [hardRequest s q false 0] else []

/-- A partition's control record once the decision has asked for the fault, where it does. -/
def decidedCtl (s : State) (q code : Nat) (hard : Bool) : PartControl :=
  if hard && decide (pinFor s q 0x6300 1 = 1) then { s.ctlOf q with logitsLateAt := some (hardRequest s q true code) } else s.ctlOf q

/-- What one decision leaves. -/
structure PathTaken (q result code : Nat) (hard : Bool) (s t : State) : Prop where
  pair : t.pair q = decidedPair s q result (setsHardBit s q hard)
  part : t.part q = { s.part q with latches := (s.part q).latches ++ decidedLatches s q code hard }
  ctl : t.ctlOf q = decidedCtl s q code hard
  others : ∀ j, j ≠ q → t.pair j = s.pair j ∧ t.part j = s.part j ∧ t.ctlOf j = s.ctlOf j
  sameCtl : hard = false ∨ pinFor s q 0x6300 1 ≠ 1 → t.ctl = s.ctl
  sameParts : hard = true → pinFor s q 0x6300 1 = 1 → t.parts = s.parts
  logged : hard = true → pinFor s q 0x6300 1 ≠ 1 → Logged s t sevAbsorbed evHardPath q code
  config : t.sivar.config = s.sivar.config
  frame : t = { s with pairs := t.pairs, parts := t.parts, ctl := t.ctl, mc := t.mc, log := t.log, hosts := t.hosts, sivar := t.sivar }

theorem State.reportHandoff_eq (s : State) (q result : Nat) (b : Bool) : s.reportHandoff q result b = s.setPair q (decidedPair s q result b) := rfl

theorem State.decideHandoff_takes (s : State) (q result code : Nat) (hard : Bool) :
    PathTaken q result code hard s (s.decideHandoff q result code hard) := by
  have hlatch : ∀ l, l = [] → s.part q = { s.part q with latches := (s.part q).latches ++ l } := fun l hl => by rw [hl, List.append_nil]
  obtain ⟨a, ha⟩ : ∃ a, s.journal jHandoff q (s.pair q).branchTime = a := ⟨_, rfl⟩
  have haf : a = { s with mc := a.mc } := by rw [← ha]; rfl
  have hmc : a.mc.restarting = s.mc.restarting := by rw [← ha]; rfl
  have hpair : ∀ b, decidedPair a q result b = decidedPair s q result b := fun b => by rw [haf]; rfl
  have hlatched : ∀ (l : List VariantReq) (b : Bool),
      let c := a.setPart q { a.part q with latches := (a.part q).latches ++ l }
      let t := c.setPair q (decidedPair c q result b)
      t.pair q = decidedPair s q result b ∧ t.part q = { s.part q with latches := (s.part q).latches ++ l }
        ∧ (∀ j, j ≠ q → t.pair j = s.pair j ∧ t.part j = s.part j) ∧ t = { s with pairs := t.pairs, parts := t.parts, mc := a.mc } := fun l b => by
    dsimp only
    have hpart : a.part q = s.part q := by rw [haf]; rfl
    have hn0 : ((a.setPart q { a.part q with latches := (a.part q).latches ++ l }).part q).n0 = (s.part q).n0 := by
      rw [State.setPart_part, if_pos rfl, hpart]
    have hp : (a.setPart q { a.part q with latches := (a.part q).latches ++ l }).pair q = s.pair q := by rw [haf]; rfl
    refine ⟨?_, ?_, fun j hj => ⟨?_, ?_⟩, ?_⟩
    · rw [State.setPair_pair, if_pos rfl, decidedPair, hn0, hp]
      rfl
    · refine Eq.trans (State.setPart_part ..) ?_
      rw [if_pos rfl, hpart]
    · rw [State.setPair_pair, if_neg hj, haf]
      rfl
    · refine Eq.trans (State.setPart_part ..) ?_
      rw [if_neg hj, haf]
      rfl
    · exact (congrArg (fun y : State => (y.setPart q { a.part q with latches := (a.part q).latches ++ l }).setPair q _) haf).trans (by rw [haf]; rfl)
  unfold State.decideHandoff
  dsimp only
  rw [ha]
  cases hard with
  | true =>
    by_cases hpin : pinFor s q 0x6300 1 = 1
    · have hset : setsHardBit s q true = false := by rw [setsHardBit, decide_eq_false (not_not.mpr hpin)]; rfl
      rw [if_pos (by rw [decide_eq_true hpin]; rfl), State.reportHandoff_eq]
      have e : decidedPair (a.setCtl q { a.ctlOf q with logitsLateAt := some (hardRequest s q true code) }) q result false = decidedPair s q result false := by
        rw [haf]; rfl
      rw [e]
      refine ⟨?_, ?_, ?_, fun j hj => ⟨?_, ?_, ?_⟩, fun h => ?_, fun _ _ => by rw [haf]; rfl, fun _ h => absurd hpin h, by rw [haf]; rfl, by rw [haf]; rfl⟩
      · rw [State.setPair_pair, if_pos rfl, hset]
      · refine Eq.trans (by rw [haf]; rfl) (hlatch _ ?_)
        rw [decidedLatches, if_pos rfl, if_pos hpin]
      · rw [decidedCtl, decide_eq_true hpin, haf]
        exact tget_tput_same ..
      · rw [State.setPair_pair, if_neg hj, haf]; rfl
      · rw [haf]; rfl
      · rw [haf]; exact tget_tput_ne _ _ _ _ _ hj
      · exact h.elim (fun h => absurd h (by decide)) (fun h => absurd hpin h)
    · have hset : setsHardBit s q true = true := by rw [setsHardBit, decide_eq_true hpin]; rfl
      rw [if_neg (by rw [decide_eq_false hpin]; exact Bool.false_ne_true), if_pos rfl, State.reportHandoff_eq]
      obtain ⟨h1, h2, h3, h4⟩ := hlatched [{ hardRequest s q true code with detail := none }] true
      obtain ⟨b, hb⟩ : ∃ b, (a.setPart q { a.part q with latches := (a.part q).latches ++ [{ hardRequest s q true code with detail := none }] }).setPair q
        (decidedPair (a.setPart q { a.part q with latches := (a.part q).latches ++ [{ hardRequest s q true code with detail := none }] }) q result true) = b :=
        ⟨_, rfl⟩
      rw [hb] at h1 h2 h4 ⊢
      simp only [hb] at h3
      have hlog : b.log = a.log := by rw [h4, haf]
      have hbm : b.mc = a.mc := by rw [h4]
      have hlogged : Logged s (b.event sevAbsorbed evHardPath q code) sevAbsorbed evHardPath q code := fun hr hsev =>
        logged_event_of (s := b) rfl rfl rfl sevAbsorbed evHardPath q code (by rw [hbm, hmc]; exact hr) (by rw [h4]; exact hsev) |>.imp fun e he => by
          rw [hlog, show a.log = s.log by rw [haf]] at he
          exact he
      have hf := b.event_frame sevAbsorbed evHardPath q code
      have hsv : (b.event sevAbsorbed evHardPath q code).sivar.config = b.sivar.config := by rw [State.event_sivar]
      obtain ⟨t, ht⟩ : ∃ t, b.event sevAbsorbed evHardPath q code = t := ⟨_, rfl⟩
      rw [ht] at hf hsv hlogged ⊢
      have hctl : t.ctl = s.ctl := by rw [hf, h4]
      refine ⟨?_, ?_, ?_, fun j hj => ⟨?_, ?_, ?_⟩, fun _ => hctl, fun _ h => absurd h hpin, fun _ _ => hlogged, hsv.trans (by rw [h4]), ?_⟩
      · rw [hset, ← h1, hf]; rfl
      · refine Eq.trans (by rw [hf]; rfl) (h2.trans ?_)
        rw [decidedLatches, if_pos rfl, if_neg hpin]
      · refine Eq.trans (congrArg (fun m => tget ({} : PartControl) m q) hctl) ?_
        rw [decidedCtl, decide_eq_false hpin]; rfl
      · refine Eq.trans (by rw [hf]; rfl) (h3 j hj).1
      · refine Eq.trans (by rw [hf]; rfl) (h3 j hj).2
      · exact congrArg (fun m => tget ({} : PartControl) m j) hctl
      · have e1 : t.pairs = b.pairs := by rw [hf]
        have e2 : t.parts = b.parts := by rw [hf]
        have e3 : t.mc = b.mc := by rw [hf]
        rw [e1, e2, e3, hbm, hctl]
        exact hf.trans (congrArg (fun y : State => { y with log := t.log, hosts := t.hosts, sivar := t.sivar }) h4)
  | false =>
    have hset : setsHardBit s q false = false := rfl
    have hcond : decidedLatches s q code false = if hardSet s q || (s.tide.joined && s.tide.isRoot) then [hardRequest s q false 0] else [] := rfl
    rw [if_neg (by simp), if_neg Bool.false_ne_true]
    split
    · next h =>
      obtain ⟨h1, h2, h3, h4⟩ := hlatched [hardRequest s q false 0] false
      rw [State.reportHandoff_eq]
      refine ⟨by rw [hset]; exact h1, by rw [hcond, if_pos h]; exact h2, by rw [h4]; rfl, fun j hj => ⟨(h3 j hj).1, (h3 j hj).2, by rw [h4]; rfl⟩,
        fun _ => by rw [h4], fun h => absurd h Bool.false_ne_true, fun h => absurd h Bool.false_ne_true, by rw [h4], ?_⟩
      exact Eq.trans (b := { s with pairs := _, parts := _, mc := a.mc }) h4 (by rw [haf]; rfl)
    · next h =>
      rw [State.reportHandoff_eq, hpair]
      refine ⟨(State.setPair_pair ..).trans (if_pos rfl), Eq.trans (by rw [haf]; rfl) (hlatch _ (by rw [hcond, if_neg h])), by rw [haf]; rfl,
        fun j hj => ⟨(State.setPair_pair ..).trans ((if_neg hj).trans (by rw [haf]; rfl)), by rw [haf]; rfl, by rw [haf]; rfl⟩,
        fun _ => by rw [haf]; rfl, fun h => absurd h Bool.false_ne_true, fun h => absurd h Bool.false_ne_true, by rw [haf]; rfl, by rw [haf]; rfl⟩

/-! ### The decision for a group (R286) -/

/-- What a decision at a partition reads. -/
structure SameKnown (q : Nat) (s t : State) : Prop where
  pair : t.pair q = s.pair q
  part : t.part q = s.part q
  ctl : t.ctlOf q = s.ctlOf q
  config : t.sivar.config = s.sivar.config
  tide : t.tide = s.tide

theorem SameKnown.reads {q : Nat} {s t : State} (h : SameKnown q s t) (code : Nat) (hard : Bool) :
    setsHardBit t q hard = setsHardBit s q hard ∧ (∀ r b, decidedPair t q r b = decidedPair s q r b)
      ∧ decidedLatches t q code hard = decidedLatches s q code hard ∧ decidedCtl t q code hard = decidedCtl s q code hard := by
  have hcfg : ∀ i j, t.cfg i j = s.cfg i j := fun i j => by rw [State.cfg, State.cfg, h.config]
  have hbytes : pairBytes t q = pairBytes s q := by rw [pairBytes, pairBytes, State.cfgBytes, State.cfgBytes, h.config]
  have hpin : pinFor t q 0x6300 1 = pinFor s q 0x6300 1 := by rw [pinFor, pinFor, h.ctl, hcfg]
  have hmask : hardMask t q = hardMask s q := by rw [hardMask, hardMask, hbytes]
  have hreq : ∀ b c, hardRequest t q b c = hardRequest s q b c := fun b c => by
    unfold hardRequest
    rw [h.pair, hmask, hbytes]
  have hset : hardSet t q = hardSet s q := by
    unfold hardSet
    rw [h.part, hmask]
  refine ⟨by rw [setsHardBit, setsHardBit, hpin], fun r b => ?_, ?_, ?_⟩
  · unfold decidedPair
    rw [h.pair, h.part]
  · unfold decidedLatches
    rw [hpin, hset, h.tide, hreq, hreq]
  · unfold decidedCtl
    rw [hpin, h.ctl, hreq]

/-- The result that a partition's report names, and the code of its event. -/
def reportedResult (s : State) (missing : Bool) (q code : Nat) : Nat := if missing then ownCode s q code else (s.pair q).ownResult

/-- What the decisions for a set of partitions leave. -/
structure GroupDecided (l : List Nat) (code : Nat) (hard missing : Bool) (s t : State) : Prop where
  pair : ∀ q ∈ l, t.pair q = decidedPair s q (reportedResult s missing q code) (setsHardBit s q hard)
  part : ∀ q ∈ l, t.part q = { s.part q with latches := (s.part q).latches ++ decidedLatches s q (ownCode s q code) hard }
  ctl : ∀ q ∈ l, t.ctlOf q = decidedCtl s q (ownCode s q code) hard
  others : ∀ j, j ∉ l → t.pair j = s.pair j ∧ t.part j = s.part j ∧ t.ctlOf j = s.ctlOf j
  soft : hard = false → t.ctl = s.ctl
  config : t.sivar.config = s.sivar.config
  frame : t = { s with pairs := t.pairs, parts := t.parts, ctl := t.ctl, mc := t.mc, log := t.log, hosts := t.hosts, sivar := t.sivar }

theorem State.decideAll_decides (code : Nat) (hard missing : Bool) (l : List Nat) (hl : l.Nodup) (s : State) :
    GroupDecided l code hard missing s (l.foldl (fun (u : State) q =>
      u.decideHandoff q (reportedResult u missing q code) (ownCode u q code) hard) s) := by
  induction l generalizing s with
  | nil =>
    exact ⟨fun _ h => absurd h List.not_mem_nil, fun _ h => absurd h List.not_mem_nil, fun _ h => absurd h List.not_mem_nil,
      fun _ _ => ⟨rfl, rfl, rfl⟩, fun _ => rfl, rfl, rfl⟩
  | cons p l ih =>
    obtain ⟨hp, hl⟩ := List.nodup_cons.mp hl
    have h1 := s.decideHandoff_takes p (reportedResult s missing p code) (ownCode s p code) hard
    rw [List.foldl_cons]
    obtain ⟨u, hu⟩ : ∃ u, s.decideHandoff p (reportedResult s missing p code) (ownCode s p code) hard = u := ⟨_, rfl⟩
    rw [hu] at h1 ⊢
    have h2 := ih hl u
    obtain ⟨t, ht⟩ : ∃ t, l.foldl (fun (u : State) q => u.decideHandoff q (reportedResult u missing q code) (ownCode u q code) hard) u = t := ⟨_, rfl⟩
    rw [ht] at h2 ⊢
    have htide : u.tide = s.tide := by rw [h1.frame]
    have hknown : ∀ q, q ≠ p → SameKnown q s u := fun q hq =>
      ⟨(h1.others q hq).1, (h1.others q hq).2.1, (h1.others q hq).2.2, h1.config, htide⟩
    have hown : ∀ q, q ≠ p → ownCode u q code = ownCode s q code ∧ reportedResult u missing q code = reportedResult s missing q code := fun q hq => by
      unfold reportedResult ownCode
      rw [(hknown q hq).pair]
      exact ⟨rfl, rfl⟩
    have hne : ∀ q ∈ l, q ≠ p := fun q hq e => hp (e ▸ hq)
    obtain ⟨o1, o2, o3⟩ := h2.others p hp
    refine ⟨fun q hq => ?_, fun q hq => ?_, fun q hq => ?_, fun j hj => ?_, fun h => (h2.soft h).trans (h1.sameCtl (.inl h)),
      h2.config.trans h1.config, ?_⟩
    · rcases List.mem_cons.mp hq with rfl | hq
      · exact o1.trans h1.pair
      · obtain ⟨k1, k2, _, _⟩ := (hknown q (hne q hq)).reads code hard
        rw [h2.pair q hq, k1, k2, (hown q (hne q hq)).2]
    · rcases List.mem_cons.mp hq with rfl | hq
      · exact o2.trans h1.part
      · obtain ⟨_, _, k3, _⟩ := (hknown q (hne q hq)).reads (ownCode s q code) hard
        rw [h2.part q hq, (hown q (hne q hq)).1, k3, (hknown q (hne q hq)).part]
    · rcases List.mem_cons.mp hq with rfl | hq
      · exact o3.trans h1.ctl
      · obtain ⟨_, _, _, k4⟩ := (hknown q (hne q hq)).reads (ownCode s q code) hard
        rw [h2.ctl q hq, (hown q (hne q hq)).1, k4]
    · rw [List.mem_cons, not_or] at hj
      obtain ⟨a1, a2, a3⟩ := h2.others j hj.2
      obtain ⟨b1, b2, b3⟩ := h1.others j hj.1
      exact ⟨a1.trans b1, a2.trans b2, a3.trans b3⟩
    · exact h2.frame.trans (congrArg (fun y : State => { y with
        pairs := t.pairs, parts := t.parts, ctl := t.ctl, mc := t.mc, log := t.log, hosts := t.hosts, sivar := t.sivar }) h1.frame)

theorem handoffPeers_nodup (s : State) (p : Nat) : (handoffPeers s p).Nodup := by
  unfold handoffPeers
  dsimp only
  refine List.nodup_cons.mpr ⟨fun h => ?_, ?_⟩
  · split at h
    · have h1 := (List.mem_filter.mp h).2
      simp at h1
    · exact absurd h List.not_mem_nil
  · split
    · exact (List.nodup_range.filter _).filter _
    · exact List.nodup_nil

theorem State.decideGroup_eq (s : State) (p code : Nat) (hard missing : Bool) :
    s.decideGroup p code hard missing = (handoffPeers s p).foldl (fun (u : State) q =>
      u.decideHandoff q (reportedResult u missing q code) (ownCode u q code) hard) s := rfl


/-- A state in which only results of the partition's own pair, and the time, are new. -/
structure ResultsNoted (p : Nat) (s a : State) : Prop where
  pair : ∀ q, a.pair q = { s.pair q with results := (a.pair q).results }
  others : ∀ q, q ≠ p → a.pair q = s.pair q
  frame : a = { s with pairs := a.pairs, now := a.now, rtc := a.rtc }

theorem ResultsNoted.setPair (s : State) (p : Nat) (rs : List (Nat × Nat)) :
    ResultsNoted p s (s.setPair p { s.pair p with results := rs }) := by
  refine ⟨fun q => ?_, fun q hq => ?_, rfl⟩
  · rw [State.setPair_pair]
    split
    · next h => rw [h]
    · rfl
  · rw [State.setPair_pair, if_neg hq]

theorem ResultsNoted.advance (s : State) (p t : Nat) : ResultsNoted p s (s.advance t) := ⟨fun _ => rfl, fun _ _ => rfl, rfl⟩

theorem ResultsNoted.handoffPeers {p : Nat} {s a : State} (h : ResultsNoted p s a) : handoffPeers a p = handoffPeers s p := by
  have hgroup : inGroup a p = inGroup s p ∧ groupParts a p = groupParts s p := by rw [h.frame]; exact ⟨rfl, rfl⟩
  have hbytes : ∀ q, pairBytes a q = pairBytes s q := fun q => by rw [h.frame]; rfl
  have hstep : (a.pair p).checkStep = (s.pair p).checkStep ∧ (a.pair p).checkOuter = (s.pair p).checkOuter := by
    rw [h.pair p]
    exact ⟨rfl, rfl⟩
  unfold Machine.handoffPeers
  dsimp only
  rw [hgroup.1, hgroup.2, hstep.1, hstep.2]
  congr 1
  split
  · refine List.filter_congr fun q _ => ?_
    by_cases hq : q = p
    · simp [hq]
    · rw [hbytes, h.others q hq]
  · rfl

/-- What the decisions read is what was known before. -/
theorem ResultsNoted.reads {p : Nat} {s a : State} (h : ResultsNoted p s a) (q code : Nat) (hard missing : Bool) :
    setsHardBit a q hard = setsHardBit s q hard ∧ (∀ r b, decidedPair a q r b = { decidedPair s q r b with results := (a.pair q).results })
      ∧ decidedLatches a q code hard = decidedLatches s q code hard ∧ decidedCtl a q code hard = decidedCtl s q code hard
      ∧ reportedResult a missing q code = reportedResult s missing q code ∧ ownCode a q code = ownCode s q code ∧ a.part q = s.part q
      ∧ a.ctlOf q = s.ctlOf q ∧ pinFor a q 0x6300 1 = pinFor s q 0x6300 1 := by
  have hpart : a.part q = s.part q := by rw [h.frame]; rfl
  have hctl : a.ctlOf q = s.ctlOf q := by rw [h.frame]; rfl
  have hpin : pinFor a q 0x6300 1 = pinFor s q 0x6300 1 := by rw [h.frame]; rfl
  have hmask : hardMask a q = hardMask s q := by rw [h.frame]; rfl
  have hbytes : pairBytes a q = pairBytes s q := by rw [h.frame]; rfl
  have htide : a.tide = s.tide := by rw [h.frame]
  have hres : (a.pair q).ownResult = (s.pair q).ownResult := by rw [h.pair q]
  have hreq : ∀ b c, hardRequest a q b c = hardRequest s q b c := fun b c => by
    unfold hardRequest
    rw [hmask, hbytes, h.pair q]
  have hset : hardSet a q = hardSet s q := by
    unfold hardSet
    rw [hpart, hmask]
  refine ⟨by rw [setsHardBit, setsHardBit, hpin], fun r b => ?_, ?_, ?_, by rw [reportedResult, reportedResult, ownCode, ownCode, hres],
    by rw [ownCode, ownCode, hres], hpart, hctl, hpin⟩
  · unfold decidedPair
    rw [hpart, h.pair q]
  · unfold decidedLatches
    rw [hpin, hset, htide, hreq, hreq]
  · unfold decidedCtl
    rw [hpin, hctl, hreq]

/-- The decisions from a state in which a result was noted, as the steps leave them. -/
def State.decideFor (a : State) (who : List Nat) (code : Nat) (hard missing : Bool) : State :=
  who.foldl (fun (u : State) q => u.decideHandoff q (reportedResult u missing q code) (ownCode u q code) hard) a

theorem notRoot_of {joined root : Bool} (h : joined = true → root = true) : ¬ (joined && !root) = true := by
  cases joined <;> simp_all

/-- A result that passes every check is noted, and decides where this module is the root (R286). -/
theorem handoffResult_noted {s : State} {p member result : Nat} (hp : p < 8) (hcheck : (s.pair p).checkTime ≠ none)
    (hundecided : (s.pair p).decided = false) (hbytes : pairBytes s p ≠ []) (hres : result ≤ 8)
    (hmem : member ∈ tideMembers s ∨ member ∈ handoffMembers s p) (hnew : ∀ r ∈ (s.pair p).results, r.1 ≠ member)
    (hown : member = s.moduleNumber → result = (s.pair p).ownResult)
    (hroot : (s.tide.joined = true → s.tide.isRoot = true) ∨ member = s.moduleNumber) :
    exec (.handoffResultReceive p member result) s = .next (
      let a := s.setPair p { s.pair p with results := (s.pair p).results ++ [(member, result)] }
      if s.tide.joined && !s.tide.isRoot then a
      else if result ≠ 0 then a.decideGroup p result true false
      else if (handoffMembers s p).all (fun m => ((s.pair p).results ++ [(member, result)]).any (fun r => r.1 == m)) then a.decideGroup p 0 false false
      else a) := by
  refine (if_pos hp).trans (congrArg Host.Outcome.next (if_neg ?_))
  have h1 : (s.pair p).checkTime.isNone = false := by
    rw [Option.isNone_eq_false_iff, Option.isSome_iff_ne_none]
    exact hcheck
  have h2 : (pairBytes s p).isEmpty = false := by rwa [List.isEmpty_eq_false_iff]
  have h3 : (s.pair p).results.any (fun r => r.1 == member) = false := List.any_eq_false.mpr fun r hr => by simpa using hnew r hr
  have h4 : (decide (member = s.moduleNumber) && decide (result ≠ (s.pair p).ownResult)) = false := by
    rw [Bool.and_eq_false_iff]
    by_cases h : member = s.moduleNumber
    · exact .inr (decide_eq_false (not_not.mpr (hown h)))
    · exact .inl (decide_eq_false h)
  have h5 : (!decide (member = s.moduleNumber) && s.tide.joined && !s.tide.isRoot && !standsBy s) = false := by
    rcases hroot with h | h
    · by_cases hj : s.tide.joined = true
      · rw [h hj]; simp
      · simp [hj]
    · simp [h]
  rw [h1, hundecided, h2, h3, h4, h5, decide_eq_false (Nat.not_lt.mpr hres), decide_eq_true hmem]
  decide

theorem handoffDeadline_due {s : State} {p : Nat} (hp : p < 8) (hcheck : (s.pair p).checkTime ≠ none)
    (hundecided : (s.pair p).decided = false) (hbytes : pairBytes s p ≠ []) (htime : s.now ≤ (s.pair p).branchTime) :
    exec (.handoffReportDeadline p) s = .next (
      let a := s.advance ((s.pair p).branchTime - (if s.tide.joined && !s.tide.isRoot then 4 else 8) * cyPerTick)
      if s.tide.joined && !s.tide.isRoot then a.decideHandoff p (ownCode s p 6) (ownCode s p 6) true else a.decideGroup p 6 true true) := by
  refine (if_pos hp).trans (congrArg Host.Outcome.next (if_neg ?_))
  have h1 : (s.pair p).checkTime.isNone = false := by
    rw [Option.isNone_eq_false_iff, Option.isSome_iff_ne_none]
    exact hcheck
  have h2 : (pairBytes s p).isEmpty = false := by rwa [List.isEmpty_eq_false_iff]
  rw [h1, hundecided, h2, decide_eq_false (Nat.not_lt.mpr htime)]
  decide

/-- Settles O26, by the decisions for the group's partitions from the state that has the result. -/
theorem handoffResultsDecideThePath : Obligations.HandoffResultsDecideThePath := by
  unfold Obligations.HandoffResultsDecideThePath
  intro s p hp hcheck hundecided hbytes x own line decided
  have hdec : ∀ (a : State) (who : List Nat) (code : Nat) (hard missing : Bool), ResultsNoted p s a → p ∈ who → who.Nodup →
      decided (a.decideFor who code hard missing) who (fun q => reportedResult s missing q code) code hard
        ∧ (a.decideFor who code hard missing).now = a.now := by
    intro a who code hard missing hbase hpw hnd
    have hall := State.decideAll_decides code hard missing who hnd a
    have hone : who = [p] → PathTaken p (reportedResult a missing p code) (ownCode a p code) hard a (a.decideFor who code hard missing) := fun e => by
      rw [e]
      exact a.decideHandoff_takes p _ _ hard
    obtain ⟨t, ht⟩ : ∃ t, a.decideFor who code hard missing = t := ⟨_, rfl⟩
    rw [show who.foldl _ a = t from ht] at hall
    rw [ht] at hone ⊢
    have hparts : a.parts = s.parts := by rw [hbase.frame]
    have hctls : a.ctl = s.ctl := by rw [hbase.frame]
    obtain ⟨_, _, hlp, hcp, _, hop, hpp, hctlp, hpinp⟩ := hbase.reads p (ownCode a p code) hard missing
    obtain ⟨_, _, _, _, _, hocp, _⟩ := hbase.reads p code hard missing
    refine ⟨⟨fun q hq => ?_, fun q hq => ?_, fun hh hpin => ⟨?_, fun e => ⟨?_, ?_⟩⟩, fun hh hpin => ⟨?_, fun e => ?_⟩, fun hh => ⟨?_, ?_⟩, ?_⟩, ?_⟩
    · obtain ⟨k1, k2, k3, _, k5, _, k7, _⟩ := hbase.reads q code hard missing
      have hpair := hall.pair q hq
      rw [k1, k2, k5] at hpair
      rw [hpair]
      refine ⟨rfl, rfl, ?_, ?_⟩
      · exact tget_tput_same 0 (s.pair q).counts (reportedResult s missing q code) _
      · have hpart := hall.part q hq
        rw [k7] at hpart
        rw [hpart]
    · obtain ⟨o1, o2, o3⟩ := hall.others q hq
      have hqp : q ≠ p := fun e => hq (e ▸ hpw)
      obtain ⟨_, _, _, _, _, _, k7, k8, _⟩ := hbase.reads q code hard missing
      exact ⟨o1.trans (hbase.others q hqp), o2.trans k7, o3.trans k8⟩
    · rw [hall.part p hpw, hpp, hlp, hocp]
      exact congrArg (fun l => (s.part p).latches ++ l) ((if_pos hh).trans (if_neg hpin))
    · exact ((hone e).sameCtl (.inr (by rw [hpinp]; exact hpin))).trans hctls
    · have hlog := (hone e).logged hh (by rw [hpinp]; exact hpin)
      rw [hocp, hbase.frame] at hlog
      exact hlog
    · rw [hall.ctl p hpw, hcp, hocp]
      exact if_pos (by rw [hh, decide_eq_true hpin]; rfl)
    · exact ((hone e).sameParts hh (by rw [hpinp]; exact hpin)).trans hparts
    · exact (hall.soft hh).trans hctls
    · rw [hall.part p hpw, hpp, hlp]
      exact congrArg (fun l => (s.part p).latches ++ l) (if_neg (by rw [hh]; exact Bool.false_ne_true))
    · have hn : t.now = a.now := by rw [hall.frame]
      have hr : t.rtc = a.rtc := by rw [hall.frame]
      rw [hn, hr]
      exact hall.frame.trans (congrArg (fun y : State => { y with
        pairs := t.pairs, parts := t.parts, ctl := t.ctl, mc := t.mc, log := t.log, hosts := t.hosts, sivar := t.sivar }) hbase.frame)
    · rw [hall.frame]
  have hmine : p ∈ handoffPeers s p := List.mem_cons_self
  refine ⟨hmine, fun member result hres hmem hnew hown => ⟨fun hroot => ⟨fun hne => ?_, fun h0 hlast => ?_, fun h0 hmiss => ?_⟩,
    fun hj hr hme => ?_⟩, fun htime => ⟨fun hroot => ?_, fun hj hr => ?_⟩⟩
  · have hb := ResultsNoted.setPair s p (x.results ++ [(member, result)])
    obtain ⟨h1, h2⟩ := hdec _ _ result true false hb hmine (handoffPeers_nodup s p)
    refine ⟨_, (handoffResult_noted hp hcheck hundecided hbytes hres hmem hnew hown (.inl hroot)).trans (congrArg Host.Outcome.next ?_), h1, h2⟩
    rw [if_neg (notRoot_of hroot), if_pos hne, State.decideGroup_eq, hb.handoffPeers]
    rfl
  · have hb := ResultsNoted.setPair s p (x.results ++ [(member, result)])
    obtain ⟨h1, h2⟩ := hdec _ _ 0 false false hb hmine (handoffPeers_nodup s p)
    refine ⟨_, (handoffResult_noted hp hcheck hundecided hbytes hres hmem hnew hown (.inl hroot)).trans (congrArg Host.Outcome.next ?_), h1, h2⟩
    rw [if_neg (notRoot_of hroot), if_neg (not_not.mpr h0), if_pos ?_, State.decideGroup_eq, hb.handoffPeers]
    · rfl
    · refine List.all_eq_true.mpr fun m hm => ?_
      rw [List.any_append, Bool.or_eq_true]
      rcases hlast m hm with rfl | ⟨r, hr, hrm⟩
      · exact .inr (by simp)
      · exact .inl (List.any_eq_true.mpr ⟨r, hr, beq_iff_eq.mpr hrm⟩)
  · refine (handoffResult_noted hp hcheck hundecided hbytes hres hmem hnew hown (.inl hroot)).trans (congrArg Host.Outcome.next ?_)
    obtain ⟨m, hm, hmne, hmr⟩ := hmiss
    rw [if_neg (notRoot_of hroot), if_neg (not_not.mpr h0), if_neg fun hall => ?_]
    have h1 := List.all_eq_true.mp hall m hm
    obtain ⟨r, hr, hrm⟩ := List.any_eq_true.mp h1
    rcases List.mem_append.mp hr with hr | hr
    · exact hmr r hr (beq_iff_eq.mp hrm)
    · rw [List.mem_singleton.mp hr] at hrm
      exact hmne (beq_iff_eq.mp hrm).symm
  · refine (handoffResult_noted hp hcheck hundecided hbytes hres hmem hnew hown (.inr hme)).trans (congrArg Host.Outcome.next ?_)
    rw [if_pos (by rw [hj, hr]; rfl)]
  · have hb := ResultsNoted.advance s p ((s.pair p).branchTime - 8 * cyPerTick)
    obtain ⟨h1, h2⟩ := hdec _ _ 6 true true hb hmine (handoffPeers_nodup s p)
    refine ⟨_, (handoffDeadline_due hp hcheck hundecided hbytes htime).trans (congrArg Host.Outcome.next ?_), h2.trans rfl, h1⟩
    rw [if_neg (notRoot_of hroot), if_neg (notRoot_of hroot), State.decideGroup_eq, hb.handoffPeers]
    rfl
  · have hb := ResultsNoted.advance s p ((s.pair p).branchTime - 4 * cyPerTick)
    obtain ⟨h1, h2⟩ := hdec _ [p] 6 true true hb List.mem_cons_self (List.nodup_singleton p)
    refine ⟨_, (handoffDeadline_due hp hcheck hundecided hbytes htime).trans (congrArg Host.Outcome.next ?_), h2.trans rfl, h1⟩
    rw [if_pos (by rw [hj, hr]; rfl), if_pos (by rw [hj, hr]; rfl)]
    rfl


end Sys2Proof.Machine
end

section
/-! SUPPORT. Tile packets and their credits, residency copies, and the flash scan (R199, R207, R210). -/

namespace Sys2Proof.Machine

/-! ### The ports' turns (R207) -/

theorem nextPort_isSome (s : State) (q p lane i : Nat) (h : portCarries s q p i = true) : (nextPort s q p lane).isSome = true := by
  have hi : i < 60 := by
    unfold portCarries at h
    simp only [Bool.and_eq_true, decide_eq_true_eq] at h
    exact h.1.1.1
  unfold nextPort
  dsimp only
  split
  · rfl
  · rw [Option.isSome_map, List.find?_isSome]
    refine ⟨i, List.mem_map.mpr ⟨(i + 60 - (tget 0 (s.quay q).turn (8 * lane + p) % 64 + 1) % 60) % 60, List.mem_range.mpr (Nat.mod_lt _ (by decide)), ?_⟩, h⟩
    omega

theorem nextPort_carries (s : State) (q p lane : Nat) {port : Nat × Nat} (h : nextPort s q p lane = some port) :
    portCarries s q p port.1 = true ∧ 1 ≤ port.2 ∧ port.2 ≤ (s.quay q).weight port.1 := by
  unfold nextPort at h
  dsimp only at h
  split at h
  · next hc =>
    obtain ⟨h1, h2⟩ := Bool.and_eq_true_iff.mp hc
    cases h
    exact ⟨h1, Nat.le_add_left .., of_decide_eq_true h2⟩
  · obtain ⟨i, hi, rfl⟩ := Option.map_eq_some_iff.mp h
    have hcar := List.find?_some hi
    refine ⟨hcar, Nat.le_refl _, ?_⟩
    unfold portCarries at hcar
    simp only [Bool.and_eq_true, decide_eq_true_eq] at hcar
    exact hcar.1.2

/-! ### Residents that give way (R199) -/

theorem Quay.oldestOf_mem (qu : Quay) {l : List Nat} {a : Nat} (h : qu.oldestOf l = some a) : a ∈ l := by
  induction l generalizing a with
  | nil => cases h
  | cons b l ih =>
    unfold Quay.oldestOf at h
    split at h
    · cases h
      exact List.mem_cons_self
    · next c hc =>
      split at h
      · cases h
        exact List.mem_cons_self
      · cases h
        exact List.mem_cons_of_mem _ (ih hc)

theorem giveWay_mem (s : State) (q id size : Nat) {n : Nat} {gone left l : List Nat} (h : giveWay s q id size n gone left = some l) :
    ∀ x ∈ l, x ∈ gone ∨ x ∈ left := by
  induction n generalizing gone left with
  | zero =>
    unfold giveWay at h
    split at h
    · cases h
      exact fun x hx => .inl hx
    · cases h
  | succ n ih =>
    unfold giveWay at h
    split at h
    · cases h
      exact fun x hx => .inl hx
    · split at h
      · cases h
      · next tid ht =>
        intro x hx
        rcases ih h x hx with h1 | h1
        · rcases List.mem_append.mp h1 with h2 | h2
          · exact .inl h2
          · rw [List.mem_singleton.mp h2]
            exact .inr ((s.quay q).oldestOf_mem ht)
        · exact .inr (List.mem_filter.mp h1).1

/-- A resident tensor is named to leave at the next mark, journalled first. -/
def State.nameLeaving (s : State) (q now tid : Nat) : State :=
  (s.setQuay q { s.quay q with leaving := (s.quay q).leaving ++ [tid] }).journal jResidency tid now

theorem State.nameAllLeaving (q now : Nat) (l : List Nat) (s : State) : let t := l.foldl (fun (u : State) tid => u.nameLeaving q now tid) s
    t.quay q = { s.quay q with leaving := (s.quay q).leaving ++ l } ∧ SameBut {} s.quays t.quays q ∧ t = { s with quays := t.quays, mc := t.mc } := by
  induction l generalizing s with
  | nil => exact ⟨by rw [List.append_nil]; rfl, fun _ _ => rfl, rfl⟩
  | cons tid l ih =>
    dsimp only [List.foldl_cons]
    have hq : (s.nameLeaving q now tid).quay q = { s.quay q with leaving := (s.quay q).leaving ++ [tid] } := tget_tput_same _ _ _ _
    have hs : SameBut {} s.quays (s.nameLeaving q now tid).quays q := sameBut_tput _ _ _ _
    have hf : s.nameLeaving q now tid = { s with quays := (s.nameLeaving q now tid).quays, mc := (s.nameLeaving q now tid).mc } := rfl
    obtain ⟨u, hu⟩ : ∃ u, s.nameLeaving q now tid = u := ⟨_, rfl⟩
    rw [hu] at hq hs hf ⊢
    obtain ⟨h1, h2, h3⟩ := ih u
    obtain ⟨t, ht⟩ : ∃ t, l.foldl (fun (u : State) tid => u.nameLeaving q now tid) u = t := ⟨_, rfl⟩
    rw [ht] at h1 h2 h3 ⊢
    refine ⟨?_, fun j hj => (h2 j hj).trans (hs j hj), h3.trans (congrArg (fun y : State => { y with quays := t.quays, mc := t.mc }) hf)⟩
    rw [h1, hq, List.append_assoc]
    rfl

theorem State.setQuay_sets (s : State) (q : Nat) (v : Quay) : (s.setQuay q v).quay q = v ∧ SameBut {} s.quays (s.setQuay q v).quays q :=
  ⟨tget_tput_same _ _ _ _, sameBut_tput _ _ _ _⟩

theorem placeIn_resident {s u : State} {q id size : Nat} (h : placeIn s q 0 2 id size = some u) :
    u.quay q = { s.quay q with allocs := (u.quay q).allocs } ∧ u = { s with quays := u.quays } ∧ SameBut {} s.quays u.quays q := by
  unfold placeIn at h
  dsimp only at h
  split at h
  · cases h
  · cases h
    obtain ⟨h1, h2⟩ := s.setQuay_sets q { s.quay q with allocs := (s.quay q).allocs ++ List.map _ _ }
    exact ⟨by rw [if_pos rfl, h1], rfl, by rw [if_pos rfl]; exact h2⟩


/-! ### The flash scan (R210) -/

/-- A quay that has noted a page of its scan. -/
def scannedQuay (s : State) (q id page : Nat) : Quay :=
  let scanned := addOnce (s.quay q).scanned (id, page)
  let total := s.tensors.foldl (fun n e =>
    let x := e.2.record
    if recPrimary x = q ∧ recTier x = 1 ∧ !recRegion x then n + ceilDiv (recTiles x * tileBytes (recStream x)) 16384 else n) 0
  { s.quay q with scanned := scanned, scan := 100 * scanned.length / max 1 total }

/-- What the scan of a page leaves, by the step of recovery that read it. -/
def scanOutcome (s : State) (q id step : Nat) (tt : Tensor) (v : Quay) : State :=
  let s1 := s.setQuay q v
  if step = 0 then s1
  else if step ≤ 3 then (s1.setQuay q ((s1.quay q).count 8 1)).event sevAbsorbed evFlashPage q step
  else ((s1.setQuay q ((s1.quay q).count 9 1)).setTensor id { tt with flashDamaged := true }).event sevDegraded evFlashPage q 4

theorem State.setQuay_twice (s : State) (q : Nat) (v w : Quay) :
    ((s.setQuay q v).setQuay q w).quay q = w ∧ SameBut {} s.quays ((s.setQuay q v).setQuay q w).quays q :=
  ⟨tget_tput_same _ _ _ _, fun j hj => (sameBut_tput _ _ _ _ j hj).trans (sameBut_tput _ _ _ _ j hj)⟩

/-- Settles O25, clause by clause: each writes the records of one quay, and of one gantry where a packet or a credit moves. -/
theorem packetsCreditsCopiesAndScans : Obligations.PacketsCreditsCopiesAndScans := by
  unfold Obligations.PacketsCreditsCopiesAndScans
  refine ⟨fun s q p lane => ⟨fun i => nextPort_isSome s q p lane i, fun port => nextPort_carries s q p lane⟩, fun s q p col seq hq hseq => ?_,
    fun s q p col port o hq hp hport => ?_, fun s x north q rest hx howed => ?_, fun s q id c r u hq hc hr hu => ?_, fun s q id c r hq hc hr hnone => ?_,
    fun s q id page step tt hq htt hprim htier hreg hstage hact hpage => ?_⟩
  · refine (if_pos hq).trans (congrArg Host.Outcome.next ?_)
    dsimp only
    split
    · rfl
    · rw [if_pos (.inr (.inl hseq))]
  · intro x north next hcredit hband hfind
    have hgo : ¬ (p ≥ 8 ∨ next ≠ next ∨ tget 0 (s.quay q).credits x = 0 ∨ (!s.bandHas p (x / 24)) = true) := by
      rintro (h | h | h | h)
      · omega
      · exact h rfl
      · exact hcredit h
      · rw [hband] at h
        cases h
    obtain ⟨v, hv⟩ : ∃ v : Quay, ({ (s.quay q).carried p 0 port with
      outgoing := (s.quay q).outgoing.erase o
      sentSeq := tput 0 (s.quay q).sentSeq (p * 256 + col) ((next + 1) % 65536)
      credits := tput 0 (s.quay q).credits x (tget 0 (s.quay q).credits x - 1)
      entries := ((s.quay q).entries.map (fun e => if e.outcome.isSome && e.ready then
        { e with waiters := e.waiters.filter (fun w => w.part != p || w.col != col || w.seq != next) } else e)).filter
          (fun e => e.outcome.isNone || !e.spent) } : Quay) = v := ⟨_, rfl⟩
    obtain ⟨h1, h2⟩ := s.setQuay_sets q v.takeWaiting
    obtain ⟨e, he, hin⟩ : ∃ e : GantryEnd, { (s.gantry x).side north with
        inbound := ((s.gantry x).side north).inbound ++ [{ packet := o.packet, seq := next, part := p, quay := q }]
        nextSince := if ((s.gantry x).side north).inbound.isEmpty then s.now else ((s.gantry x).side north).nextSince
        stallReported := !((s.gantry x).side north).inbound.isEmpty && ((s.gantry x).side north).stallReported } = e
      ∧ e.inbound = ((s.gantry x).side north).inbound ++ [{ packet := o.packet, seq := next, part := p, quay := q }] := ⟨_, rfl, rfl⟩
    have ht : exec (.tilePacketSend q p col next) s = .next ((s.setQuay q v.takeWaiting).setGantry x ((s.gantry x).putSide north e)) := by
      rw [← he, ← hv]
      refine (if_pos hq).trans (congrArg Host.Outcome.next ?_)
      dsimp only
      rw [hport]
      dsimp only
      rw [if_neg hgo, hfind]
    obtain ⟨t, hte⟩ : ∃ t, (s.setQuay q v.takeWaiting).setGantry x ((s.gantry x).putSide north e) = t := ⟨_, rfl⟩
    have hg : t.gantry x = (s.gantry x).putSide north e := by rw [← hte]; exact tget_tput_same _ _ _ _
    have hgs : SameBut {} s.gantries t.gantries x := by rw [← hte]; exact sameBut_tput _ _ _ _
    have hqu : t.quay q = v.takeWaiting := by rw [← hte]; exact h1
    have hqs : SameBut {} s.quays t.quays q := by rw [← hte]; exact h2
    have hf : t = { s with quays := t.quays, gantries := t.gantries } := by rw [← hte]; rfl
    rw [hte] at ht
    refine ⟨t, ht, by rw [hg, Gantry.side_putSide, hin], by rw [hg, Gantry.side_putSide_other], by rw [hqu, ← hv]; rfl, ?_, ?_, ?_, hgs, hqs, hf⟩
    · rw [hqu, ← hv]
      have hturn : tget 0 (tput 0 (s.quay q).turn (8 * 0 + p) (64 * port.2 + port.1)) p = 64 * port.2 + port.1 := by
        rw [Nat.mul_zero, Nat.zero_add]
        exact tget_tput_same 0 (s.quay q).turn p _
      exact hturn
    · rw [hqu, ← hv]
      exact tget_tput_same 0 (s.quay q).credits x (tget 0 (s.quay q).credits x - 1)
    · rw [hqu, ← hv]
      exact tget_tput_same 0 (s.quay q).sentSeq (p * 256 + col) ((next + 1) % 65536)
  · have ht : exec (.bufferCreditReturn x north) s = .next ((s.setGantry x ((s.gantry x).putSide north { (s.gantry x).side north with owed := rest })).setQuay q
        { s.quay q with credits := tput 0 (s.quay q).credits x (tget 0 (s.quay q).credits x + 1) }) := by
      refine (if_pos hx).trans (congrArg Host.Outcome.next ?_)
      dsimp only
      rw [howed]
    obtain ⟨t, hte⟩ : ∃ t, (s.setGantry x ((s.gantry x).putSide north { (s.gantry x).side north with owed := rest })).setQuay q
        { s.quay q with credits := tput 0 (s.quay q).credits x (tget 0 (s.quay q).credits x + 1) } = t := ⟨_, rfl⟩
    have hg : t.gantry x = (s.gantry x).putSide north { (s.gantry x).side north with owed := rest } := by rw [← hte]; exact tget_tput_same _ _ _ _
    have hgs : SameBut {} s.gantries t.gantries x := by rw [← hte]; exact sameBut_tput _ _ _ _
    have hqu : t.quay q = { s.quay q with credits := tput 0 (s.quay q).credits x (tget 0 (s.quay q).credits x + 1) } := by
      rw [← hte]; exact tget_tput_same _ _ _ _
    have hqs : SameBut {} s.quays t.quays q := by rw [← hte]; exact sameBut_tput _ _ _ _
    rw [hte] at ht
    refine ⟨t, ht, by rw [hg, Gantry.side_putSide], ?_, by rw [hg, Gantry.side_putSide_other], hgs, hqs, by rw [← hte]; rfl⟩
    rw [hqu]
    exact tget_tput_same 0 (s.quay q).credits x (tget 0 (s.quay q).credits x + 1)
  · obtain ⟨hown, huf, hus⟩ := placeIn_resident hu
    obtain ⟨v, hv⟩ : ∃ v : Quay, { u.quay q with copying := (u.quay q).copying.erase c, copied := (u.quay q).copied ++ [c] } = v := ⟨_, rfl⟩
    have ht : exec (.residencyCopyDone q id) s = .next ((u.setQuay q v).journal jResidency id s.now) := by
      rw [← hv]
      refine (if_pos hq).trans (congrArg Host.Outcome.next ?_)
      dsimp only
      rw [hc]
      dsimp only
      rw [hr]
      dsimp only
      rw [hu]
    obtain ⟨h1, h2⟩ := u.setQuay_sets q v
    have hcopied : v.copied = (s.quay q).copied ++ [c] := by rw [← hv, hown]
    have hcopying : v.copying = (s.quay q).copying.erase c := by rw [← hv, hown]
    have hallocs : v.allocs = (u.quay q).allocs := by rw [← hv]
    have hresident : v.resident = (s.quay q).resident := by rw [← hv, hown]
    have hqu : ((u.setQuay q v).journal jResidency id s.now).quay q = v := h1
    refine ⟨_, ht, by rw [hqu, hcopied], by rw [hqu, hcopying], by rw [hqu, hallocs], by rw [hqu, hresident], fun j hj => (h2 j hj).trans (hus j hj), ?_⟩
    have hmc : ((u.setQuay q v).journal jResidency id s.now).mc = (s.journal jResidency id s.now).mc := by rw [huf]; rfl
    rw [hmc]
    exact (congrArg (fun y : State => (y.setQuay q v).journal jResidency id s.now) huf :)
  · obtain ⟨may, hmay⟩ : ∃ may, (((s.quay q).resident.map (fun e => e.1)).eraseDups).filter
      (fun tid => tid != id && !decide (tid ∈ (s.quay q).leaving) && !pinnedResident s tid) = may := ⟨_, rfl⟩
    have hmem : ∀ x ∈ may, x ≠ id ∧ pinnedResident s x = false ∧ x ∈ (s.quay q).resident.map (fun e => e.1) := fun x hx => by
      rw [← hmay, List.mem_filter] at hx
      obtain ⟨hx1, hx2⟩ := hx
      simp only [Bool.and_eq_true, bne_iff_ne, Bool.not_eq_true'] at hx2
      exact ⟨hx2.1.1, hx2.2, List.mem_eraseDups.mp hx1⟩
    have hexec : exec (.residencyCopyDone q id) s = .next (
        match giveWay s q id ((if c.2 = 0 then recTiles r else recTin r) * tileBytes (recStream r)) may.length (s.quay q).leaving may with
        | none => s
        | some gone => (gone.filter (fun tid => !decide (tid ∈ (s.quay q).leaving))).foldl (fun (u : State) tid => u.nameLeaving q s.now tid) s) := by
      rw [← hmay]
      refine (if_pos hq).trans (congrArg Host.Outcome.next ?_)
      dsimp only
      rw [hc]
      dsimp only
      rw [hr]
      dsimp only
      rw [hnone]
      dsimp only
      generalize giveWay s q id _ _ _ _ = o
      cases o <;> rfl
    cases hgive : giveWay s q id ((if c.2 = 0 then recTiles r else recTin r) * tileBytes (recStream r)) may.length (s.quay q).leaving may with
    | none =>
      rw [hgive] at hexec
      exact ⟨s, hexec, rfl, fun x hx => .inl hx, fun _ _ => rfl, rfl⟩
    | some gone =>
      rw [hgive] at hexec
      obtain ⟨h1, h2, h3⟩ := State.nameAllLeaving q s.now (gone.filter (fun tid => !decide (tid ∈ (s.quay q).leaving))) s
      obtain ⟨t, hte⟩ : ∃ t, (gone.filter (fun tid => !decide (tid ∈ (s.quay q).leaving))).foldl (fun (u : State) tid => u.nameLeaving q s.now tid) s = t :=
        ⟨_, rfl⟩
      rw [hte] at h1 h2 h3
      refine ⟨t, hexec.trans (congrArg Host.Outcome.next hte), by rw [h1], fun x hx => ?_, h2, h3⟩
      rw [h1] at hx
      rcases List.mem_append.mp hx with hx | hx
      · exact .inl hx
      · rcases giveWay_mem s q id _ hgive x (List.mem_filter.mp hx).1 with hx | hx
        · exact .inl hx
        · exact .inr (hmem x hx)
  · obtain ⟨v, hv, hin⟩ : ∃ v, scannedQuay s q id page = v ∧ (id, page) ∈ v.scanned := ⟨_, rfl, mem_addOnce _ _⟩
    have hexec : exec (.flashScanPage q id page step) s = .next (scanOutcome s q id step tt v) := by
      rw [← hv]
      refine (if_pos hq).trans (congrArg Host.Outcome.next ?_)
      dsimp only
      rw [htt]
      dsimp only
      rw [if_neg (by
        rw [hprim, htier, hreg, hact, decide_eq_false (Nat.not_lt.mpr hstage), decide_eq_false (Nat.not_le.mpr hpage)]
        simp)]
      rfl
    obtain ⟨h1, h2⟩ := s.setQuay_sets q v
    refine ⟨_, hexec, ?_⟩
    by_cases h0 : step = 0
    · have e : scanOutcome s q id step tt v = s.setQuay q v := if_pos h0
      rw [e]
      exact ⟨by rw [h1]; exact hin, fun _ => rfl, fun h => by omega, fun h => by omega, h2, rfl⟩
    · by_cases h3 : step ≤ 3
      · have e : scanOutcome s q id step tt v = ((s.setQuay q v).setQuay q (v.count 8 1)).event sevAbsorbed evFlashPage q step := by
          unfold scanOutcome
          rw [if_neg h0, if_pos h3, h1]
        rw [e]
        obtain ⟨g1, g2⟩ := s.setQuay_twice q v (v.count 8 1)
        obtain ⟨a, ha⟩ : ∃ a, (s.setQuay q v).setQuay q (v.count 8 1) = a := ⟨_, rfl⟩
        have haf : a = { s with quays := a.quays } := by rw [← ha]; rfl
        have hlogged : Logged s (a.event sevAbsorbed evFlashPage q step) sevAbsorbed evFlashPage q step := by
          refine logged_event_of ?_ ?_ ?_ _ _ _ _ <;> rw [haf] <;> rfl
        have hf := a.event_frame sevAbsorbed evFlashPage q step
        rw [ha] at g1 g2 ⊢
        obtain ⟨t, ht⟩ : ∃ t, a.event sevAbsorbed evFlashPage q step = t := ⟨_, rfl⟩
        rw [ht] at hf hlogged ⊢
        have hqs : t.quays = a.quays := by rw [hf]
        have hts : t.tensors = s.tensors := by rw [hf, haf]
        have hqu : t.quay q = v.count 8 1 := (congrArg (fun m => tget ({} : Quay) m q) hqs).trans g1
        refine ⟨by rw [hqu]; exact hin, fun h => absurd h h0, fun _ _ => ⟨hts, hlogged⟩, fun h => by omega, by rw [hqs]; exact g2, ?_⟩
        rw [hqs, hts]
        exact hf.trans (congrArg (fun y : State => { y with log := t.log, hosts := t.hosts, sivar := t.sivar }) haf)
      · have e : scanOutcome s q id step tt v =
            (((s.setQuay q v).setQuay q (v.count 9 1)).setTensor id { tt with flashDamaged := true }).event sevDegraded evFlashPage q 4 := by
          unfold scanOutcome
          rw [if_neg h0, if_neg h3, h1]
        rw [e]
        obtain ⟨g1, g2⟩ := s.setQuay_twice q v (v.count 9 1)
        obtain ⟨a, ha⟩ : ∃ a, ((s.setQuay q v).setQuay q (v.count 9 1)).setTensor id { tt with flashDamaged := true } = a := ⟨_, rfl⟩
        have haf : a = { s with quays := a.quays, tensors := a.tensors } := by rw [← ha]; rfl
        have haq : a.quays = ((s.setQuay q v).setQuay q (v.count 9 1)).quays := by rw [← ha]; rfl
        have hat : a.tensor id = { tt with flashDamaged := true } := by rw [← ha]; exact tget_tput_same _ _ _ _
        have hao : ∀ j, j ≠ id → tfind a.tensors j = tfind s.tensors j := fun j hj => by rw [← ha]; exact tfind_tput_ne _ _ _ hj
        have hlogged : Logged s (a.event sevDegraded evFlashPage q 4) sevDegraded evFlashPage q 4 := by
          refine logged_event_of ?_ ?_ ?_ _ _ _ _ <;> rw [haf] <;> rfl
        have hf := a.event_frame sevDegraded evFlashPage q 4
        rw [ha]
        obtain ⟨t, ht⟩ : ∃ t, a.event sevDegraded evFlashPage q 4 = t := ⟨_, rfl⟩
        rw [ht] at hf hlogged ⊢
        have hqs : t.quays = a.quays := by rw [hf]
        have hts : t.tensors = a.tensors := by rw [hf]
        have hqu : t.quay q = v.count 9 1 := (congrArg (fun m => tget ({} : Quay) m q) (hqs.trans haq)).trans g1
        refine ⟨by rw [hqu]; exact hin, fun h => absurd h h0, fun _ h => absurd h h3,
          fun _ => ⟨(congrArg (fun m => tget ({} : Tensor) m id) hts).trans hat, hlogged, fun j hj => by rw [hts]; exact hao j hj⟩,
          by rw [hqs, haq]; exact g2, ?_⟩
        rw [hqs, hts]
        exact hf.trans (congrArg (fun y : State => { y with log := t.log, hosts := t.hosts, sivar := t.sivar }) haf)


end Sys2Proof.Machine
end

section
/-! SUPPORT. Intake rows and the frames that they give (R225-R230). -/

namespace Sys2Proof.Machine

/-! ### Rows that are rejected -/

theorem State.rejectEgress_rejects (s : State) (p : Option Nat) : let t := s.rejectEgress p
    t.link = none ∧ (∀ j, (t.ctlOf j).counts.egressRejects = (s.ctlOf j).counts.egressRejects + (if p = some j then 1 else 0))
      ∧ (∀ j, p ≠ some j → t.ctlOf j = s.ctlOf j) ∧ t = { s with ctl := t.ctl, link := none } := by
  cases p with
  | none => exact ⟨rfl, fun _ => rfl, fun _ _ => rfl, rfl⟩
  | some p =>
    have hctl : ∀ j, (s.rejectEgress (some p)).ctlOf j = if j = p then { s.ctlOf p with counts := { (s.ctlOf p).counts with
        egressRejects := (s.ctlOf p).counts.egressRejects + 1 } } else s.ctlOf j := fun j => State.setCtl_ctlOf ..
    refine ⟨rfl, fun j => ?_, fun j hj => ?_, rfl⟩
    · rw [hctl]
      by_cases h : j = p
      · rw [if_pos h, if_pos (by rw [h]), h]
      · rw [if_neg h, if_neg fun e => h (Option.some.inj e).symm]
        rfl
    · rw [hctl, if_neg fun e => hj (by rw [e])]

theorem OpenRec.takeRow_takes (o : OpenRec) (y : Nat) : (o.takeRow y).rows = o.rows + 1
    ∧ (∀ z, tget 0 (o.takeRow y).perCore z = tget 0 o.perCore z + (if egRows o.record = true ∧ z = y then 1 else 0))
    ∧ o.takeRow y = { o with rows := (o.takeRow y).rows, perCore := (o.takeRow y).perCore } := by
  unfold OpenRec.takeRow
  by_cases h : egRows o.record = true
  · rw [if_pos h]
    refine ⟨rfl, fun z => ?_, rfl⟩
    dsimp only
    rw [tget_tput]
    by_cases hz : z = y
    · rw [if_pos hz, if_pos ⟨h, hz⟩, hz]
    · rw [if_neg hz, if_neg fun h' => hz h'.2, Nat.add_zero]
  · rw [if_neg h]
    exact ⟨rfl, fun z => by rw [if_neg fun h' => h h'.1]; rfl, rfl⟩

/-! ### Frames that go out (R229, R230) -/

theorem nextPort_lt {s : State} {q p lane : Nat} {port : Nat × Nat} (h : nextPort s q p lane = some port) : port.1 < 60 := by
  have hc := (nextPort_carries s q p lane h).1
  unfold portCarries at hc
  simp only [Bool.and_eq_true, decide_eq_true_eq] at hc
  exact hc.1.1.1

/-- Whether the oldest frame of an intake cannot go: no credit, or no usable port of its quay. -/
def FramesWait (s : State) (key : Nat) : Prop :=
  (s.intake key).credits = 0 ∨ ∀ f, (s.intake key).unsent.head? = some f →
    nextPort s (frameQuay s key f.header) (frPart f.header) 1 = none

/-- The oldest frames of an intake have gone out. -/
structure FramesSent (key n : Nat) (s t : State) : Prop where
  credits : (t.intake key).credits + n = (s.intake key).credits
  unsent : (t.intake key).unsent = (s.intake key).unsent.drop n
  count : n ≤ (s.intake key).unsent.length
  sent : ∃ l, (t.intake key).sent = (s.intake key).sent ++ l ∧ l.map bareFrame = ((s.intake key).unsent.take n).map bareFrame
    ∧ ∀ f ∈ l, f.port / 60 = frameQuay s key f.header
  held : (t.intake key).held = (s.intake key).held
  opens : (t.intake key).opens = (s.intake key).opens
  others : SameBut {} s.intakes t.intakes key
  quays : ∀ q, t.quay q = { s.quay q with turn := (t.quay q).turn }
  frame : t = { s with intakes := t.intakes, quays := t.quays }

theorem FramesSent.refl (key : Nat) (s : State) : FramesSent key 0 s s :=
  ⟨rfl, rfl, Nat.zero_le _, ⟨[], (List.append_nil _).symm, rfl, fun _ h => absurd h List.not_mem_nil⟩, rfl, rfl, fun _ _ => rfl, fun _ => rfl, rfl⟩

theorem FramesSent.frameQuay {key n : Nat} {s t : State} (h : FramesSent key n s t) (x : BitVec 256) : frameQuay t key x = frameQuay s key x := by
  rw [h.frame]
  rfl

theorem FramesSent.step {key n : Nat} {s t : State} (h : FramesSent key n s t) :
    (FramesWait t key ∧ t.sendFrame key = t) ∨ FramesSent key (n + 1) s (t.sendFrame key) := by
  unfold State.sendFrame
  dsimp only
  split
  · next hnil => exact .inl ⟨.inr fun f hf => by (rw [hnil] at hf; cases hf), rfl⟩
  · next f rest hcons =>
    split
    · next hport =>
      refine .inl ⟨.inr fun g hg => ?_, rfl⟩
      rw [hcons] at hg
      cases hg
      exact hport
    · next port hport =>
      split
      · next h0 => exact .inl ⟨.inl h0, rfl⟩
      · next h0 =>
        refine .inr ?_
        obtain ⟨q, hq⟩ : ∃ q, Machine.frameQuay t key f.header = q := ⟨_, rfl⟩
        rw [hq] at hport ⊢
        obtain ⟨v, hv⟩ : ∃ v, (t.quay q).carried (frPart f.header) 1 port = v := ⟨_, rfl⟩
        have hvt : v = { t.quay q with turn := v.turn } := by rw [← hv]; rfl
        rw [hv]
        obtain ⟨ik, hik⟩ : ∃ ik : Intake, { t.intake key with
          sent := (t.intake key).sent ++ [{ f with port := 60 * q + port.1 }], unsent := rest, credits := (t.intake key).credits - 1 } = ik := ⟨_, rfl⟩
        rw [hik]
        have hin : ((t.setQuay q v).setIntake key ik).intake key = ik := by rw [State.setIntake_intake, if_pos rfl]
        have hdrop : (s.intake key).unsent.drop n = f :: rest := h.unsent.symm.trans hcons
        have hlt : n < (s.intake key).unsent.length := by
          by_contra hge
          rw [List.drop_eq_nil_of_le (Nat.not_lt.mp hge)] at hdrop
          cases hdrop
        obtain ⟨l, hl, hbare, hports⟩ := h.sent
        have hget : (s.intake key).unsent.take (n + 1) = (s.intake key).unsent.take n ++ [f] := by
          rw [List.take_add, hdrop]
          rfl
        have hone : ∃ l, ik.sent = (s.intake key).sent ++ l ∧ l.map bareFrame = ((s.intake key).unsent.take (n + 1)).map bareFrame
            ∧ ∀ g ∈ l, g.port / 60 = Machine.frameQuay s key g.header := by
          refine ⟨l ++ [{ f with port := 60 * q + port.1 }], by rw [← hik]; dsimp only; rw [hl, List.append_assoc], ?_, fun g hg => ?_⟩
          · rw [hget, List.map_append, List.map_append, hbare]
            rfl
          · rcases List.mem_append.mp hg with hg | hg
            · exact hports g hg
            · rw [List.mem_singleton.mp hg, ← h.frameQuay]
              show (60 * q + port.1) / 60 = Machine.frameQuay t key f.header
              have := nextPort_lt hport
              rw [hq]
              omega
        refine ⟨?_, ?_, hlt, by rw [hin]; exact hone, by rw [hin, ← hik]; exact h.held, by rw [hin, ← hik]; exact h.opens, ?_, fun j => ?_, ?_⟩
        · rw [hin, ← hik]
          have := h.credits
          show (t.intake key).credits - 1 + (n + 1) = _
          omega
        · rw [hin, ← hik]
          show rest = (s.intake key).unsent.drop (n + 1)
          rw [← List.tail_drop, hdrop]
          rfl
        · exact fun j hj => (tget_tput_ne _ _ _ _ _ hj).trans (h.others j hj)
        · have hqj : ((t.setQuay q v).setIntake key ik).quay j = if j = q then v else t.quay j := tget_tput ..
          rw [hqj]
          split
          · next e =>
            rw [hvt, e, h.quays q]
          · exact h.quays j
        · exact (congrArg (fun y : State => (y.setQuay q v).setIntake key ik) h.frame :).trans rfl

theorem State.sendFrames_sends (s : State) (key : Nat) : ∃ n, FramesSent key n s (s.sendFrames key) ∧ FramesWait (s.sendFrames key) key := by
  have all : ∀ m, ∃ n t, (List.range m).foldl (fun (t : State) _ => t.sendFrame key) s = t ∧ FramesSent key n s t
      ∧ (n = m ∨ FramesWait t key ∧ t.sendFrame key = t) := by
    intro m
    induction m with
    | zero => exact ⟨0, s, rfl, .refl key s, .inl rfl⟩
    | succ m ih =>
      obtain ⟨n, t, ht, h, hor⟩ := ih
      have hnext : (List.range (m + 1)).foldl (fun (t : State) _ => t.sendFrame key) s = t.sendFrame key := by
        rw [List.range_succ, List.foldl_append, ht]
        rfl
      rcases hor with hn | ⟨hw, he⟩
      · rcases h.step with ⟨hw, he⟩ | hs
        · exact ⟨n, t, hnext.trans he, h, .inr ⟨hw, he⟩⟩
        · exact ⟨n + 1, _, hnext, hs, .inl (by rw [hn])⟩
      · exact ⟨n, t, hnext.trans he, h, .inr ⟨hw, he⟩⟩
  obtain ⟨n, t, ht, h, hor⟩ := all (s.intake key).unsent.length
  have e : s.sendFrames key = t := ht
  rw [e]
  refine ⟨n, h, hor.elim (fun hn => .inr fun f hf => ?_) And.left⟩
  rw [h.unsent, List.drop_eq_nil_of_le (Nat.le_of_eq hn.symm)] at hf
  cases hf

/-- A row that the oldest open case expects. -/
theorem execIntakeRow_admits {s : State} {a m c p i : Nat} {data : Row} {o : OpenRec} (hclass : addrClass a = 4)
    (hmod : addrModule s 0 a = s.moduleNumber) (hnamed : intakeNamed s a = true)
    (hroom : (s.intake (intakeKey (intakeColumn a) (addrNorth a))).held.length < 32) (hp : s.partOfX (intakeColumn a) = some p)
    (hm : m = s.moduleNumber) (hc : coreX c = intakeColumn a) (hy : coreY c < 144)
    (hi : (s.intake (intakeKey (intakeColumn a) (addrNorth a))).opens.findIdx? (fun o => o.part == p
      && expects o (coreY c) (decide (coreY c = if addrNorth a then 143 else 0))) = some i)
    (ho : (s.intake (intakeKey (intakeColumn a) (addrNorth a))).opens[i]? = some o) :
    let key := intakeKey (intakeColumn a) (addrNorth a)
    execIntakeRow a m c data s = .next (s.setIntake key { s.intake key with
      opens := (s.intake key).opens.modify i (fun o => o.takeRow (coreY c)), held := (s.intake key).held ++ [(heldKey (coreY c) (egRows o.record), data)] }) := by
  dsimp only
  unfold execIntakeRow
  rw [if_neg (not_or.mpr ⟨not_not.mpr hclass, not_not.mpr hmod⟩), hnamed, if_neg (by decide)]
  dsimp only
  rw [if_neg (Nat.not_le.mpr hroom), hp]
  dsimp only
  rw [if_pos ⟨hm, hc, hy⟩, hi]
  dsimp only
  rw [ho]

/-- A row that no open case expects. -/
theorem execIntakeRow_rejects {s : State} {a m c p : Nat} {data : Row} (hclass : addrClass a = 4)
    (hmod : addrModule s 0 a = s.moduleNumber) (hnamed : intakeNamed s a = true)
    (hroom : (s.intake (intakeKey (intakeColumn a) (addrNorth a))).held.length < 32) (hp : s.partOfX (intakeColumn a) = some p)
    (hno : m ≠ s.moduleNumber ∨ coreX c ≠ intakeColumn a ∨ 144 ≤ coreY c
      ∨ (s.intake (intakeKey (intakeColumn a) (addrNorth a))).opens.findIdx? (fun o => o.part == p
        && expects o (coreY c) (decide (coreY c = if addrNorth a then 143 else 0))) = none) :
    execIntakeRow a m c data s = .next (s.rejectEgress (some p)) := by
  unfold execIntakeRow
  rw [if_neg (not_or.mpr ⟨not_not.mpr hclass, not_not.mpr hmod⟩), hnamed, if_neg (by decide)]
  dsimp only
  rw [if_neg (Nat.not_le.mpr hroom), hp]
  dsimp only
  by_cases hgo : m = s.moduleNumber ∧ coreX c = intakeColumn a ∧ coreY c < 144
  · obtain ⟨h1, h2, h3⟩ := hgo
    rw [if_pos ⟨h1, h2, h3⟩]
    rcases hno with h | h | h | h
    · exact absurd h1 h
    · exact absurd h2 h
    · exact absurd h3 (Nat.not_lt.mpr h)
    · rw [h]
  · rw [if_neg hgo]

/-- Settles O27, by the record of the intake that a row is held in, and by the frames that go out while credits and ports allow. -/
theorem intakeRowsBecomeFrames : Obligations.IntakeRowsBecomeFrames := by
  unfold Obligations.IntakeRowsBecomeFrames
  refine ⟨fun s a m c data hclass hmod => ?_, fun s unit col hunit hcol => ?_⟩
  · intro x north y terminal key ik rejected source
    refine ⟨fun hno => ⟨_, ?_, s.rejectEgress_rejects source⟩, fun hnamed hfull => ?_, fun hnamed hroom hnone => ⟨_, ?_, s.rejectEgress_rejects source⟩,
      fun p hnamed hroom hp => ⟨fun i o hm hc hy hi ho => ?_, fun hnot => ?_⟩⟩
    · show execIntakeRow a m c data s = _
      unfold execIntakeRow
      rw [if_neg (not_or.mpr ⟨not_not.mpr hclass, not_not.mpr hmod⟩), hno]
      exact if_pos rfl
    · show execIntakeRow a m c data s = _
      unfold execIntakeRow
      rw [if_neg (not_or.mpr ⟨not_not.mpr hclass, not_not.mpr hmod⟩), hnamed, if_neg (by decide)]
      exact if_pos hfull
    · show execIntakeRow a m c data s = _
      unfold execIntakeRow
      rw [if_neg (not_or.mpr ⟨not_not.mpr hclass, not_not.mpr hmod⟩), hnamed, if_neg (by decide)]
      dsimp only
      rw [if_neg (Nat.not_le.mpr hroom), hnone]
      rfl
    · obtain ⟨v, hv⟩ : ∃ v : Intake, { ik with
        opens := ik.opens.modify i (fun o => o.takeRow y), held := ik.held ++ [(heldKey y (egRows o.record), data)] } = v := ⟨_, rfl⟩
      have hexec : exec (.intakeRow a m c data) s = .next (s.setIntake key v) := by
        rw [← hv]
        exact execIntakeRow_admits hclass hmod hnamed hroom hp hm hc hy hi ho
      have hin : (s.setIntake key v).intake key = v := by rw [State.setIntake_intake, if_pos rfl]
      obtain ⟨h1, h2, h3⟩ := o.takeRow_takes y
      refine ⟨_, hexec, by rw [hin, ← hv], ⟨o.takeRow y, ?_, h1, h2, h3⟩, fun n hn => ?_, by rw [hin, ← hv], sameBut_tput _ _ _ _, rfl⟩
      · rw [hin, ← hv]
        show (ik.opens.modify i (fun o => o.takeRow y))[i]? = _
        rw [List.getElem?_modify, show ik.opens[i]? = some o from ho]
        simp
      · rw [hin, ← hv]
        show (ik.opens.modify i (fun o => o.takeRow y))[n]? = _
        rw [List.getElem?_modify]
        simp [Ne.symm hn]
    · exact ⟨_, execIntakeRow_rejects hclass hmod hnamed hroom hp hnot, s.rejectEgress_rejects (some p)⟩
  · intro x north key ik sends
    have hsends : ∀ (a : State) (frames : List EgFrame), (a.intake key).unsent = ik.unsent ++ frames → (a.intake key).sent = ik.sent →
        (a.intake key).credits = ik.credits → SameBut {} s.intakes a.intakes key → a = { s with intakes := a.intakes } →
        sends (a.sendFrames key) frames ∧ ((a.sendFrames key).intake key).held = (a.intake key).held
          ∧ ((a.sendFrames key).intake key).opens = (a.intake key).opens := by
      intro a frames hun hse hcr hsame hfr
      obtain ⟨n, h, hw⟩ := a.sendFrames_sends key
      obtain ⟨t, ht⟩ : ∃ t, a.sendFrames key = t := ⟨_, rfl⟩
      rw [ht] at h hw ⊢
      obtain ⟨l, hl, hbare, hports⟩ := h.sent
      rw [hse] at hl
      have hdrop : (t.intake key).sent.drop ik.sent.length = l := by rw [hl, List.drop_left]
      have hcred := h.credits
      rw [hcr] at hcred
      have hfq : ∀ z, frameQuay a key z = frameQuay s key z := fun z => by rw [hfr]; rfl
      have haq : ∀ q, a.quay q = s.quay q := fun q => by rw [hfr]; rfl
      refine ⟨⟨n, by omega, by rw [h.unsent, hun], hcred, by rw [hl, List.take_left], by rw [hdrop, hbare, hun], fun f hf => ?_, hw,
        fun j hj => (h.others j hj).trans (hsame j hj), fun q => by rw [h.quays q, haq], ?_⟩, h.held, h.opens⟩
      · rw [hdrop] at hf
        rw [hports f hf, hfq]
      · exact h.frame.trans (congrArg (fun y : State => { y with intakes := t.intakes, quays := t.quays }) hfr)
    have hunit' : ¬ (192 ≤ unit ∨ 1 < col) := by omega
    refine ⟨fun hnone => ?_, fun i o hi ho => ?_⟩
    · have hexec : exec (.frameConvert unit col) s = .next (s.sendFrames key) := by
        show execFrameConvert unit col s = _
        unfold execFrameConvert
        rw [if_neg hunit']
        dsimp only
        rw [show (s.intake _).opens.findIdx? frameReady = none from hnone]
      obtain ⟨h1, h2, h3⟩ := hsends s [] (List.append_nil _).symm rfl rfl (fun _ _ => rfl) rfl
      exact ⟨_, hexec, h1, h2, h3⟩
    · intro y taken
      obtain ⟨o1, ho1⟩ : ∃ o1 : OpenRec, { o with
        framed := o.framed + 1
        framedCore := if egRows o.record then tput 0 o.framedCore y (tget 0 o.framedCore y + 1) else o.framedCore } = o1 := ⟨_, rfl⟩
      obtain ⟨opens, hopens, hor⟩ : ∃ opens, (if openDone ((s.enabledCores o.part).filter (fun c => coreX c == x)).length o1
          then ik.opens.eraseIdx i else ik.opens.set i o1) = opens ∧ (opens = ik.opens.eraseIdx i ∨ opens = ik.opens.set i o1) := by
        split
        · exact ⟨_, rfl, .inl rfl⟩
        · exact ⟨_, rfl, .inr rfl⟩
      obtain ⟨v, hv⟩ : ∃ v : Intake, { ik with opens := opens, held := taken.2, unsent := ik.unsent ++ framesOf s o x y taken.1 } = v := ⟨_, rfl⟩
      have hexec : exec (.frameConvert unit col) s = .next ((s.setIntake key v).sendFrames key) := by
        rw [← hv, ← hopens, ← ho1]
        show execFrameConvert unit col s = _
        unfold execFrameConvert
        rw [if_neg hunit']
        dsimp only
        rw [show (s.intake _).opens.findIdx? frameReady = some i from hi]
        dsimp only
        rw [show (s.intake _).opens[i]? = some o from ho]
      have hin : (s.setIntake key v).intake key = v := by rw [State.setIntake_intake, if_pos rfl]
      obtain ⟨h1, h2, h3⟩ := hsends (s.setIntake key v) (framesOf s o x y taken.1) (by rw [hin, ← hv]) (by rw [hin, ← hv]) (by rw [hin, ← hv])
        (sameBut_tput _ _ _ _) rfl
      refine ⟨_, hexec, h1, h2.trans (by rw [hin, ← hv]), ?_⟩
      rw [h3, hin, ← hv]
      refine hor.imp id fun h => ⟨o1, h, by rw [← ho1], fun z => ?_, by rw [← ho1]⟩
      rw [← ho1]
      dsimp only
      by_cases hr : egRows o.record = true
      · rw [if_pos hr, tget_tput]
        by_cases hz : z = y
        · rw [if_pos hz, if_pos ⟨hr, hz⟩, hz]
        · rw [if_neg hz, if_neg fun h => hz h.2, Nat.add_zero]
      · rw [if_neg hr, if_neg fun h => hr h.1, Nat.add_zero]


end Sys2Proof.Machine
end

section
/-! SUPPORT. The harbour master's election and its heartbeats (R303-R307). -/

namespace Sys2Proof.Machine

/-! ### What the sums, packets and messages of an update touch (R295, R301, R302, R309) -/

/-- All but the exchanges, the messages said, the fabric, the optimizer state and the tensor table. -/
def State.aroundSums (s : State) : State :=
  { s with ledger := { s.ledger with exchange := [], sentMsgs := [], rejectsReceived := 0 }, fabric := {}, opt := {}, tensors := [] }

/-- A step of an update's exchange: nothing else of the module changes, and no message that was said is taken back. -/
structure Summed (s t : State) : Prop where
  around : t.aroundSums = s.aroundSums
  said : s.ledger.sentMsgs <+: t.ledger.sentMsgs

namespace Summed

variable {s t u : State}

theorem refl (s : State) : Summed s s := ⟨rfl, List.prefix_refl _⟩

theorem trans (a : Summed s t) (b : Summed t u) : Summed s u := ⟨b.around.trans a.around, a.said.trans b.said⟩

theorem foldl {α : Type} {f : State → α → State} (hf : ∀ t a, Summed t (f t a)) (l : List α) (s : State) : Summed s (l.foldl f s) :=
  List.foldlRecOn (motive := fun t => Summed s t) l f (refl s) fun t ht a _ => ht.trans (hf t a)

theorem frame (h : Summed s t) : t = { s with ledger := t.ledger, fabric := t.fabric, opt := t.opt, tensors := t.tensors } :=
  congrArg (fun y : State => { y with ledger := t.ledger, fabric := t.fabric, opt := t.opt, tensors := t.tensors }) h.around

theorem ledger (h : Summed s t) : t.ledger = { s.ledger with
    exchange := t.ledger.exchange, sentMsgs := t.ledger.sentMsgs, rejectsReceived := t.ledger.rejectsReceived } :=
  congrArg (fun y : State => { y.ledger with
    exchange := t.ledger.exchange, sentMsgs := t.ledger.sentMsgs, rejectsReceived := t.ledger.rejectsReceived }) h.around

end Summed

section
variable (s : State)

theorem State.say_summed (m : LedgerMsg) : Summed s (s.say m) := ⟨rfl, List.prefix_append ..⟩
theorem State.setExchange_summed (p q : Nat) (e : Exchange) : Summed s (s.setExchange p q e) := ⟨rfl, List.prefix_refl _⟩
theorem State.setRun_summed (p : Nat) (r : UpdateRun) : Summed s (s.setRun p r) := ⟨rfl, List.prefix_refl _⟩
theorem State.setTensor_summed (t : Nat) (x : Tensor) : Summed s (s.setTensor t x) := ⟨rfl, List.prefix_refl _⟩
theorem State.pushReport_summed (r : UpdateReport) : Summed s (s.pushReport r) := ⟨rfl, List.prefix_refl _⟩

theorem State.sendPacket_summed (q : Nat) (f : FabHead) (bs : List Byte) : Summed s (s.sendPacket q f bs) := by
  simp only [State.sendPacket]
  split <;> exact ⟨rfl, List.prefix_refl _⟩

theorem State.sendBytes_summed (p q n step dm : Nat) (bs : List Byte) : Summed s (s.sendBytes p q n step dm bs) :=
  Summed.foldl (fun t _ => t.sendPacket_summed q _ _) _ s

theorem State.formNorm_summed (p q : Nat) : Summed s (s.formNorm p q) := by
  simp only [State.formNorm]
  split
  · exact .refl s
  · exact s.setRun_summed p _

theorem State.sendShardSum_summed (p q n : Nat) : Summed s (s.sendShardSum p q n) := by
  simp only [State.sendShardSum]
  split
  · exact .refl s
  · refine ((s.setExchange_summed p q _).trans (Summed.foldl (fun t h => ?_) _ _)).trans (State.formNorm_summed _ p q)
    split
    · exact .refl t
    · exact t.sendPacket_summed ..

theorem State.sendNorm_summed (p q : Nat) : Summed s (s.sendNorm p q) := by
  simp only [State.sendNorm]
  split
  · exact .refl s
  · exact Summed.foldl (fun t n => t.sendShardSum_summed p q n) _ s

theorem State.relayGather_summed (p q : Nat) : Summed s (s.relayGather p q) := by
  simp only [State.relayGather]
  split
  · exact .refl s
  · refine (s.setExchange_summed p q _).trans (Summed.foldl (fun t j => ?_) _ _)
    split
    · exact .refl t
    · exact Summed.foldl (fun u n => u.sendBytes_summed ..) _ t

theorem State.completeVersion_summed (p q : Nat) : Summed s (s.completeVersion p q) := by
  unfold State.completeVersion
  dsimp only
  split
  · exact .refl s
  · have done (v : State) (c : Bool) (r : UpdateRun) (x : UpdateReport) : Summed v (if c then (v.setRun p r).pushReport x else v) := by
      split
      · exact (v.setRun_summed p r).trans (State.pushReport_summed _ x)
      · exact .refl v
    refine Summed.trans ?_ (done _ _ _ _)
    refine Summed.trans ?_ (State.setExchange_summed _ p q _)
    refine (Summed.foldl (fun t tid => ?_) _ s).trans (Summed.foldl (fun t e => t.say_summed _) _ _)
    split
    · exact t.setTensor_summed ..
    · exact .refl t

theorem State.speakAgain_summed (q : Nat) : Summed s (s.speakAgain q) :=
  Summed.foldl (fun t p => (t.sendNorm_summed p q).trans (Summed.foldl (fun u k => u.completeVersion_summed p k) _ _)) _ s

theorem State.freeAcks_summed : Summed s s.freeAcks := by
  refine Summed.foldl (fun t p => Summed.foldl (fun u q => ?_) _ t) _ s
  dsimp only
  split
  · exact .refl u
  · exact (u.setExchange_summed p q _).trans (State.sendNorm_summed _ p q)

end

/-! ### What a record of the ledger does (R308-R315) -/

/-- A record is in the journal of the module, which keeps the last n, and no longer one that it has only heard. -/
def State.keepRecord (s : State) (n : Nat) (rec : LedgerRecord) : State :=
  let kept := s.ledger.records ++ [rec]
  { s with ledger := { s.ledger with
    records := kept.drop (kept.length - n), heard := s.ledger.heard.filter (fun r => r != rec) } }

/-- The journal keeps the last 65,536 records (R308). -/
def State.journalled (s : State) (rec : LedgerRecord) : State := s.keepRecord 65536 rec

/-- The step of a record counts as committed in its ledger. -/
def State.stepped (s : State) (rec : LedgerRecord) : State :=
  { s with ledger := { s.ledger with committed := tset s.ledger.committed rec.ledger (rec.step + 1) } }

/-- The role map of a record takes the place of the one in force. -/
def State.withRoles (s : State) (rec : LedgerRecord) : State :=
  { s with ledger := { s.ledger with
    roles := rec.roles, roleMap := rec.roleMap
    dones := s.ledger.dones.filter (fun d => rec.roles.any (fun r => r.1 == d.2.2.2.2.shard && (r.2.1 == d.2.2.1 && r.2.2.1 == d.2.2.2.1) || d.2.2.2.2.mirror)) } }

/-- A ROLLBACK takes back the step records that are proposed. -/
def State.rolledBack (s : State) (rec : LedgerRecord) : State :=
  { s with ledger := { s.ledger with rollbackTo := rec.step, proposed := s.ledger.proposed.filter (fun e => e.1.kind != 1) } }

section
variable (s : State) (rec : LedgerRecord)

theorem State.applyRecord_known (h : rec ∈ s.ledger.records) : s.applyRecord rec = s := if_pos h

theorem State.applyRecord_step (h : rec ∉ s.ledger.records) (hk : rec.kind = 1) : s.applyRecord rec =
    (s.journalled rec).stepped rec := by
  unfold State.applyRecord State.journalled State.keepRecord State.stepped
  generalize 65536 = n
  rw [if_neg h, hk]
  rfl

theorem State.applyRecord_roles (h : rec ∉ s.ledger.records) (hk : rec.kind = 2) : s.applyRecord rec =
    ((rec.roles.filter (fun r => !r.2.2.2 && !(s.ledger.roles.any (fun x => x.1 == r.1 && !x.2.2.2)))).foldl (fun (t : State) r =>
      t.event sevDegraded evShardUnmirrored r.1 r.2.1) ((s.journalled rec).withRoles rec)).takeRoles (heldNow s) := by
  unfold State.applyRecord State.journalled State.keepRecord State.withRoles
  generalize 65536 = n
  rw [if_neg h, hk]
  rfl

theorem State.applyRecord_rollback (h : rec ∉ s.ledger.records) (hk : rec.kind = 4) : s.applyRecord rec =
    ((s.journalled rec).rolledBack rec).ledgerHalt 6 := by
  unfold State.applyRecord State.journalled State.keepRecord State.rolledBack
  generalize 65536 = n
  rw [if_neg h, hk]
  rfl

theorem State.applyRecord_other (h : rec ∉ s.ledger.records) (h1 : rec.kind ≠ 1) (h2 : rec.kind ≠ 2) (h4 : rec.kind ≠ 4) :
    s.applyRecord rec = s.journalled rec := by
  simp only [State.applyRecord, if_neg h, State.journalled, State.keepRecord]

end

/-- What a record does: nothing where it is known, else it is journalled and has the effect of its kind. -/
theorem State.applyRecord_cases {P : State → Prop} (s : State) (rec : LedgerRecord) (known : P s) (other : P (s.journalled rec))
    (step : P ((s.journalled rec).stepped rec))
    (roles : P (((rec.roles.filter (fun r => !r.2.2.2 && !(s.ledger.roles.any (fun x => x.1 == r.1 && !x.2.2.2)))).foldl (fun (t : State) r =>
      t.event sevDegraded evShardUnmirrored r.1 r.2.1) ((s.journalled rec).withRoles rec)).takeRoles (heldNow s)))
    (rollback : P (((s.journalled rec).rolledBack rec).ledgerHalt 6)) : P (s.applyRecord rec) := by
  by_cases h : rec ∈ s.ledger.records
  · rw [s.applyRecord_known rec h]
    exact known
  by_cases h1 : rec.kind = 1
  · rw [s.applyRecord_step rec h h1]
    exact step
  by_cases h2 : rec.kind = 2
  · rw [s.applyRecord_roles rec h h2]
    exact roles
  by_cases h4 : rec.kind = 4
  · rw [s.applyRecord_rollback rec h h4]
    exact rollback
  · rw [s.applyRecord_other rec h h1 h2 h4]
    exact other

/-! ### What a record of the ledger touches (R308-R315) -/

/-- All of the ledger but what a committed record can change. -/
def Ledger.aroundRecord (x : Ledger) : Ledger :=
  { x with exchange := [], sentMsgs := [], rejectsReceived := 0, records := [], heard := [], committed := [], roles := [], roleMap := 0
           dones := [], rollbackTo := 0, proposed := [], state := 0 }

/-- All but what a committed record can change. -/
def State.aroundRecord (s : State) : State :=
  { s with
    ledger := s.ledger.aroundRecord
    fabric := {}, opt := {}, tensors := [], ctl := [], log := {}, hosts := [], sivar := {}, quays := [], freeCtr := 0 }

theorem Summed.aroundRecord {s t : State} (h : Summed s t) : t.aroundRecord = s.aroundRecord :=
  (congrArg State.aroundRecord h.around :)

theorem foldl_aroundRecord {α : Type} {f : State → α → State} (hf : ∀ t a, (f t a).aroundRecord = t.aroundRecord) (l : List α) (s : State) :
    (l.foldl f s).aroundRecord = s.aroundRecord :=
  List.foldlRecOn (motive := fun t => t.aroundRecord = s.aroundRecord) l f rfl fun t ht a _ => (hf t a).trans ht

section
variable (s : State)

@[simp] theorem State.bump_aroundRecord : s.bump.aroundRecord = s.aroundRecord := rfl
@[simp] theorem State.setCtl_aroundRecord (p : Nat) (v : PartControl) : (s.setCtl p v).aroundRecord = s.aroundRecord := rfl
@[simp] theorem State.setRun_aroundRecord (p : Nat) (v : UpdateRun) : (s.setRun p v).aroundRecord = s.aroundRecord := rfl
@[simp] theorem State.setTensor_aroundRecord (p : Nat) (v : Tensor) : (s.setTensor p v).aroundRecord = s.aroundRecord := rfl
@[simp] theorem State.setExchange_aroundRecord (p q : Nat) (v : Exchange) : (s.setExchange p q v).aroundRecord = s.aroundRecord := rfl
@[simp] theorem State.clearDamage_aroundRecord (t v : Nat) : (s.clearDamage t v).aroundRecord = s.aroundRecord := rfl

theorem State.keepRecord_aroundRecord (n : Nat) (rec : LedgerRecord) : (s.keepRecord n rec).aroundRecord = s.aroundRecord := rfl
@[simp] theorem State.journalled_aroundRecord (rec : LedgerRecord) : (s.journalled rec).aroundRecord = s.aroundRecord :=
  s.keepRecord_aroundRecord 65536 rec
@[simp] theorem State.stepped_aroundRecord (rec : LedgerRecord) : (s.stepped rec).aroundRecord = s.aroundRecord := rfl
@[simp] theorem State.withRoles_aroundRecord (rec : LedgerRecord) : (s.withRoles rec).aroundRecord = s.aroundRecord := rfl
@[simp] theorem State.rolledBack_aroundRecord (rec : LedgerRecord) : (s.rolledBack rec).aroundRecord = s.aroundRecord := rfl

@[simp] theorem State.event_aroundRecord (a b c d : Nat) : (s.event a b c d).aroundRecord = s.aroundRecord := by
  rw [s.event_frame]
  rfl

@[simp] theorem State.openSlot_aroundRecord (tid v : Nat) : (s.openSlot tid v).aroundRecord = s.aroundRecord := by
  simp only [State.openSlot, State.retireVersion]
  split_ifs <;> simp

@[simp] theorem State.putStream_aroundRecord (p n version off : Nat) (data : List Byte) :
    (s.putStream p n version off data).aroundRecord = s.aroundRecord := by
  unfold State.putStream
  refine List.foldlRecOn (motive := fun (acc : State × Nat) => acc.1.aroundRecord = s.aroundRecord) _ _ rfl fun acc h e _ => ?_
  split
  · exact h
  · dsimp only
    split_ifs
    · split
      · exact h
      · simpa using h
    · exact h

@[simp] theorem State.landStream_aroundRecord (p n step off : Nat) (data : List Byte) :
    (s.landStream p n step off data).aroundRecord = s.aroundRecord := by
  simp only [State.landStream, State.setExchange_aroundRecord, State.putStream_aroundRecord]

@[simp] theorem State.publishHeld_aroundRecord (p q n : Nat) : (s.publishHeld p q n).aroundRecord = s.aroundRecord := by
  unfold State.publishHeld
  refine (foldl_aroundRecord (fun t d => ?_) _ _).trans (s.setRun_aroundRecord p _)
  dsimp only
  split_ifs
  · exact (State.relayGather_summed _ _ _).aroundRecord.trans (t.landStream_aroundRecord ..)
  · exact (t.sendBytes_summed ..).aroundRecord

@[simp] theorem State.inherit_aroundRecord (p q n : Nat) : (s.inherit p q n).aroundRecord = s.aroundRecord := by
  have norm : ((if s.updating p && (s.exchange p q).began then
      s.setExchange p q { s.exchange p q with inherited := addOnce (s.exchange p q).inherited n } else s).sendNorm p q).aroundRecord
      = s.aroundRecord := by
    rw [(State.sendNorm_summed _ p q).aroundRecord]
    split <;> rfl
  simp only [State.inherit]
  split
  · rw [State.bump_aroundRecord, (State.completeVersion_summed _ _ _).aroundRecord, State.publishHeld_aroundRecord, norm]
  · exact norm

@[simp] theorem State.takeRoles_aroundRecord (before : List (Nat × Nat × Nat)) : (s.takeRoles before).aroundRecord = s.aroundRecord := by
  rw [State.takeRoles, (State.freeAcks_summed _).aroundRecord]
  exact foldl_aroundRecord (fun (t : State) (e : Nat × Nat × Nat) => t.inherit_aroundRecord e.1 e.2.1 e.2.2) _ s

@[simp] theorem State.haltFeeders_aroundRecord : s.haltFeeders.aroundRecord = s.aroundRecord := by
  refine foldl_aroundRecord (fun t p => foldl_aroundRecord (fun u k => ?_) _ t) _ s
  split_ifs <;> simp

@[simp] theorem State.ledgerHalt_aroundRecord (st : Nat) : (s.ledgerHalt st).aroundRecord = s.aroundRecord := by
  simp only [State.ledgerHalt, State.event_aroundRecord, State.haltFeeders_aroundRecord]
  rfl

@[simp] theorem State.applyRecord_aroundRecord (rec : LedgerRecord) : (s.applyRecord rec).aroundRecord = s.aroundRecord := by
  refine s.applyRecord_cases (P := fun t => t.aroundRecord = s.aroundRecord) rec rfl (s.journalled_aroundRecord rec) ?step ?roles ?rollback
  case step => rw [State.stepped_aroundRecord, State.journalled_aroundRecord]
  case roles =>
    rw [State.takeRoles_aroundRecord, foldl_aroundRecord fun t r => t.event_aroundRecord _ _ _ _, State.withRoles_aroundRecord,
      State.journalled_aroundRecord]
  case rollback => rw [State.ledgerHalt_aroundRecord, State.rolledBack_aroundRecord, State.journalled_aroundRecord]

@[simp] theorem State.commitIfHeld_aroundRecord (rec : LedgerRecord) : (s.commitIfHeld rec).aroundRecord = s.aroundRecord := by
  simp only [State.commitIfHeld]
  split
  · rfl
  · split_ifs
    · rfl
    · exact State.applyRecord_aroundRecord _ rec

theorem State.propose_none (rec : LedgerRecord) (h : hmPosition s = none) : s.propose rec = s := by
  simp only [State.propose, h]

/-- A harbour master journals what it proposes; what else can change is what a record can. -/
theorem State.propose_aroundRecord (rec : LedgerRecord) : (s.propose rec).aroundRecord = s.aroundRecord
    ∨ ∃ w, (s.propose rec).aroundRecord = (s.setWitness w ((s.witness w).append rec)).aroundRecord := by
  unfold State.propose
  split
  · exact .inl rfl
  · next w _ =>
    dsimp only
    split
    · exact .inl rfl
    · refine .inr ⟨w, (State.commitIfHeld_aroundRecord _ rec).trans ?_⟩
      generalize (s.witness w).append rec = x
      rfl

end

/-! ### The layout of a domain's shards (R297) -/

/-- Two states between which nothing changes that the layout of the shards reads. -/
structure SameLayout (s t : State) : Prop where
  parts : t.parts = s.parts
  opt : t.opt = s.opt
  tensors : t.tensors = s.tensors
  config : t.sivar.config = s.sivar.config
  membership : t.ledger.membership = s.ledger.membership

namespace SameLayout

variable {s t u : State}

theorem refl (s : State) : SameLayout s s := ⟨rfl, rfl, rfl, rfl, rfl⟩

theorem trans (a : SameLayout s t) (b : SameLayout t u) : SameLayout s u :=
  ⟨b.parts.trans a.parts, b.opt.trans a.opt, b.tensors.trans a.tensors, b.config.trans a.config, b.membership.trans a.membership⟩

variable (h : SameLayout s t)
include h

theorem cfg (i j : Nat) : t.cfg i j = s.cfg i j := congrArg (cfgOf · i j) h.config
theorem cfgBytes (i j : Nat) : t.cfgBytes i j = s.cfgBytes i j := congrArg (tget [] · (okey i j)) h.config
theorem moduleNumber : t.moduleNumber = s.moduleNumber := h.cfg _ _
theorem groupRec (g : Nat) : t.groupRec g = s.groupRec g := congrArg (fun b => BitVec.ofNat 512 (leNat b)) (h.cfgBytes _ _)
theorem part (p : Nat) : t.part p = s.part p := congrArg (tget ({} : Partition) · p) h.parts
theorem run (p : Nat) : t.run p = s.run p := by simp only [State.run, h.opt]
theorem optOf (k : Nat) : t.optOf k = s.optOf k := by simp only [State.optOf, h.opt]
theorem recOf (k : Nat) : t.recOf k = s.recOf k := congrArg (fun m => (tfind m k).map fun x : Tensor => x.record) h.tensors
theorem updating (p : Nat) : t.updating p = s.updating p := congrArg (fun r : UpdateRun => decide (0 < r.phase)) (h.run p)
theorem groupOf (p : Nat) : groupOf t p = groupOf s p := by simp only [Machine.groupOf, h.part]
theorem groupParts (p : Nat) : groupParts t p = groupParts s p := by simp only [Machine.groupParts, h.groupOf]
theorem ledgerOf (p : Nat) : ledgerOf t p = ledgerOf s p := by simp only [Machine.ledgerOf, h.updating, h.run, h.groupOf]
theorem feedOf (p : Nat) : feedOf t p = feedOf s p := by simp only [Machine.feedOf, h.groupParts, h.part]
theorem feeders : feeders t = feeders s := by simp only [Machine.feeders, h.updating, h.feedOf, h.ledgerOf]

theorem witnessList : witnessList t = witnessList s := by simp only [Machine.witnessList, h.membership, h.moduleNumber]

theorem tableOf (p : Nat) : tableOf t p = tableOf s p := by simp only [Machine.tableOf, h.updating, h.run, h.membership, h.ledgerOf]

theorem placeOf (p : Nat) : placeOf t p = placeOf s p := by simp only [Machine.placeOf, h.tableOf, h.moduleNumber]
theorem memberModule (p i d : Nat) : memberModule t p i d = memberModule s p i d := by
  simp only [Machine.memberModule, h.tableOf, h.moduleNumber]
theorem partnerOf (p i d : Nat) : partnerOf t p i d = partnerOf s p i d := by simp only [Machine.partnerOf, h.tableOf, h.moduleNumber]
theorem ownerOf (p n : Nat) : ownerOf t p n = ownerOf s p n := by simp only [Machine.ownerOf, h.placeOf, h.memberModule]
theorem ledgerParts : ledgerParts t = ledgerParts s := by simp only [Machine.ledgerParts, h.membership, h.feeders, h.tableOf]

theorem ruleOf (k : Nat) : t.ruleOf k = s.ruleOf k := by simp only [State.ruleOf, h.recOf, h.opt, h.groupRec]
theorem namesTensor (p k : Nat) : namesTensor t p k = namesTensor s p k := by simp only [Machine.namesTensor, h.part]
theorem domainNames (p k : Nat) : domainNames t p k = domainNames s p k := by
  simp only [Machine.domainNames, State.trained, h.ruleOf, h.groupParts, h.namesTensor]
theorem domainTensors (p : Nat) : domainTensors t p = domainTensors s p := by
  simp only [Machine.domainTensors, h.updating, h.run, h.tensors, funext (h.domainNames p)]
theorem slabCount (k : Nat) : slabCount t k = slabCount s k := by simp only [Machine.slabCount, Machine.elemsOf, h.recOf]
theorem domainSlabs (p : Nat) : domainSlabs t p = domainSlabs s p := by simp only [Machine.domainSlabs, h.domainTensors, h.slabCount]
theorem groupFor (p k : Nat) : groupFor t p k = groupFor s p k := by simp only [Machine.groupFor, h.updating, h.run, h.optOf, h.groupRec]
theorem blockRowTiles (p k : Nat) : blockRowTiles t p k = blockRowTiles s p k := by simp only [Machine.blockRowTiles, h.recOf, h.groupFor]
theorem alignBound (p : Nat) (l : List (Nat × Nat)) (b : Nat) : alignBound t p l b = alignBound s p l b := by
  simp only [Machine.alignBound, h.blockRowTiles, h.slabCount]
theorem sliceRange (p : Nat) (pl : Place) (i : Nat) : sliceRange t p pl i = sliceRange s p pl i := by
  simp only [Machine.sliceRange, h.domainSlabs, h.alignBound]
theorem shardRange (p : Nat) (pl : Place) (i d : Nat) : shardRange t p pl i d = shardRange s p pl i d := by
  simp only [Machine.shardRange, h.domainSlabs, h.sliceRange, h.alignBound]
theorem shardSlabsNo (p n : Nat) : shardSlabsNo t p n = shardSlabsNo s p n := by
  simp only [Machine.shardSlabsNo, Machine.shardSlabs, slabsIn, h.placeOf, h.shardRange, h.domainSlabs, h.recOf]
theorem liveShards (p : Nat) : liveShards t p = liveShards s p := by simp only [Machine.liveShards, h.placeOf, h.shardSlabsNo]
theorem mirrorSlabs (p n q : Nat) : mirrorSlabs t p n q = mirrorSlabs s p n q := by simp only [Machine.mirrorSlabs, h.shardSlabsNo, h.recOf]
theorem ownShard (p q : Nat) : ownShard t p q = ownShard s p q := by simp only [Machine.ownShard, h.placeOf]

/-- Where the role map stands too, every shard has the same holder. -/
theorem holderOf (hr : t.ledger.roles = s.ledger.roles) (p n : Nat) : holderOf t p n = holderOf s p n := by
  simp only [Machine.holderOf, hr, h.placeOf, h.memberModule]

theorem copyQuays (hr : t.ledger.roles = s.ledger.roles) (p n : Nat) : copyQuays t p n = copyQuays s p n := by
  simp only [Machine.copyQuays, h.holderOf hr, h.ownerOf, h.placeOf, h.mirrorSlabs, h.partnerOf]

end SameLayout

/-- How many witnesses there are is a matter of the table alone. -/
theorem faultsBorne_of_membership {s t : State} (h : t.ledger.membership = s.ledger.membership) : faultsBorne t = faultsBorne s := by
  simp only [faultsBorne, witnessList, h]
  cases s.ledger.membership <;> rfl

/-! ### Heartbeats (R310, R311) -/

/-- The state of a quay and a witness that hears a heartbeat. -/
def State.noteHeartbeat (s : State) : State :=
  { s with ledger := { s.ledger with
    lastHm := (List.range 4).map (fun q => (q, s.now))
    silent := []
    witnesses := (List.range (witnessList s).length).foldl (fun m w =>
      if ownWitness s w then
        let x := tget {} m w
        tput {} m w { x with lastHeartbeat := s.now, candidate := false, term := max x.term s.ledger.term }
      else m) s.ledger.witnesses } }

theorem State.noteHeartbeat_witness (s : State) {w : Nat} (hw : w < (witnessList s).length) (ho : ownWitness s w = true) :
    (s.noteHeartbeat.witness w).lastHeartbeat = s.now ∧ (s.noteHeartbeat.witness w).candidate = false := by
  simp only [State.witness, State.noteHeartbeat]
  generalize (witnessList s).length = n at hw
  induction n with
  | zero => omega
  | succ n ih =>
    rw [List.range_succ, List.foldl_append, List.foldl_cons, List.foldl_nil]
    rcases Nat.lt_succ_iff_lt_or_eq.mp hw with h | rfl
    · split
      · rw [tget_tput_ne (h := by omega)]
        exact ih h
      · exact ih h
    · rw [if_pos ho, tget_tput_same]
      exact ⟨rfl, rfl⟩

/-- A heartbeat is answered by the four quays, and what they held back goes out. -/
theorem State.hearHeartbeat_hears (s : State) : Summed s.noteHeartbeat s.hearHeartbeat
    ∧ ∀ q, q < 4 → LedgerMsg.answer q ∈ s.hearHeartbeat.ledger.sentMsgs := by
  have spoken (t : State) (l : List Nat) : Summed t (l.foldl (fun t q => t.speakAgain q) t) := Summed.foldl (fun t q => t.speakAgain_summed q) l t
  have answered : Summed s.noteHeartbeat ((List.range 4).foldl (fun (t : State) q => t.say (.answer q)) s.noteHeartbeat) :=
    Summed.foldl (fun t q => t.say_summed _) _ _
  have said : ((List.range 4).foldl (fun (t : State) q => t.say (.answer q)) s.noteHeartbeat).ledger.sentMsgs
      = s.ledger.sentMsgs ++ [.answer 0] ++ [.answer 1] ++ [.answer 2] ++ [.answer 3] := rfl
  refine ⟨answered.trans (spoken _ _), fun q hq => (spoken _ s.ledger.silent).said.mem (?_ : _ ∈
    ((List.range 4).foldl (fun (t : State) q => t.say (.answer q)) s.noteHeartbeat).ledger.sentMsgs)⟩
  rw [said]
  interval_cases q <;> simp

theorem State.activate_cases (s : State) : s.activate = s
    ∨ s.ledger.state = 1 ∧ s.activate = { s with ledger := { s.ledger with state := 2 } } := by
  unfold State.activate
  split
  · exact .inl rfl
  · dsimp only
    split
    · next h => exact .inr ⟨h.1, rfl⟩
    · exact .inl rfl

/-- What hearing a heartbeat leaves of a module. -/
structure HeartbeatHeard (s t : State) : Prop where
  frame : t = { s with ledger := t.ledger, fabric := t.fabric, opt := t.opt, tensors := t.tensors }
  hm : t.ledger.hm = s.ledger.hm
  term : t.ledger.term = s.ledger.term
  state : s.ledger.state = 2 → t.ledger.state = 2
  said : s.ledger.sentMsgs <+: t.ledger.sentMsgs
  answered : ∀ q, q < 4 → tget 0 t.ledger.lastHm q = s.now ∧ LedgerMsg.answer q ∈ t.ledger.sentMsgs
  silent : t.ledger.silent = []
  witnesses : ∀ w, w < (witnessList s).length → ownWitness s w = true →
    (t.witness w).lastHeartbeat = s.now ∧ (t.witness w).candidate = false

theorem State.hearHeartbeat_heard (s : State) : HeartbeatHeard s s.hearHeartbeat := by
  obtain ⟨hsum, hans⟩ := s.hearHeartbeat_hears
  obtain ⟨t, ht⟩ : ∃ t, s.hearHeartbeat = t := ⟨_, rfl⟩
  rw [ht] at hsum hans ⊢
  have hl := hsum.ledger
  have hw (w : Nat) : t.witness w = s.noteHeartbeat.witness w := (congrArg (fun y : Ledger => tget ({} : Witness) y.witnesses w) hl :)
  exact {
    frame := hsum.frame
    hm := (congrArg Ledger.hm hl :)
    term := (congrArg Ledger.term hl :)
    state := fun h => (congrArg Ledger.state hl).trans h
    said := hsum.said
    answered := fun q hq => ⟨by
      have : t.ledger.lastHm = (List.range 4).map (fun q => (q, s.now)) := (congrArg Ledger.lastHm hl :)
      rw [this]
      interval_cases q <;> rfl, hans q hq⟩
    silent := (congrArg Ledger.silent hl :)
    witnesses := fun w h ho => by
      rw [hw]
      exact s.noteHeartbeat_witness h ho }

theorem HeartbeatHeard.activate {s t : State} (h : HeartbeatHeard s t) : HeartbeatHeard s t.activate := by
  rcases t.activate_cases with ht | ⟨h1, ht⟩
  · rwa [ht]
  · rw [ht]
    exact { frame := (congrArg (fun y : State => { y with ledger := { t.ledger with state := 2 } }) h.frame :)
            hm := h.hm, term := h.term, state := fun _ => rfl, said := h.said, answered := h.answered, silent := h.silent
            witnesses := h.witnesses }

/-! ### Elections (R310) -/

/-- A candidate that f + 1 votes make harbour master. -/
def State.elected (s : State) (w voter : Nat) : State :=
  let x := s.witness w
  let votes := addOnce x.votes voter
  let s1 := s.setWitness w { x with votes := votes }
  { s1.setWitness w { x with votes := votes, candidate := false } with
    ledger := { (s1.setWitness w { x with votes := votes, candidate := false }).ledger with
      term := x.term, hm := (witnessList s)[w]?, heartbeatAt := s.now, proposed := []
      lastAnswer := (s.ledger.membership.map (fun t => t.members.flatMap (fun m => (List.range 4).map (fun q => (m.module, q, s.now))))).getD [] } }

/-- A new harbour master goes on where every shard is covered, and holds the ledger where one is not. -/
def State.goOn (s : State) : State :=
  if (ledgerParts s).all (fun p => (liveShards s p).all (fun n => holderOf s p n ∉ s.ledger.lost)) then
    (if s.ledger.state = 3 then { s with ledger := { s.ledger with state := 2 } } else s)
  else if s.ledger.state = 2 then s.ledgerHalt 3 else s

/-- It proposes its last record again, unless that is known to be committed. -/
def State.proposeLast (s : State) (x : Witness) (known : List LedgerRecord) : State :=
  match x.journal.getLast? with
  | some r => if r ∈ known then s else s.propose { r with term := x.term }
  | none => s

theorem exec_voteGrant {s : State} {w voter : Nat} (ho : ownWitness s w = true) (hc : (s.witness w).candidate = true)
    (hv : voter < (witnessList s).length) : exec (.voteGrant w (s.witness w).term voter) s =
      .next (if (addOnce (s.witness w).votes voter).length ≤ faultsBorne s then
          s.setWitness w { s.witness w with votes := addOnce (s.witness w).votes voter }
        else ((s.elected w voter).goOn.activate).proposeLast (s.witness w) s.ledger.records) := by
  refine congrArg Host.Outcome.next ((if_neg (by simp [ho, hc, hv])).trans ?_)
  by_cases h : (addOnce (s.witness w).votes voter).length ≤ faultsBorne s
  · exact (if_pos h).trans (if_pos h).symm
  · refine (if_neg h).trans (Eq.trans ?_ (if_neg h).symm)
    unfold State.proposeLast
    cases (s.witness w).journal.getLast? <;> rfl

/-! #### Proposals that are not committed at once -/

theorem State.commitIfHeld_short (s : State) (rec : LedgerRecord) (h : ∀ e ∈ s.ledger.proposed, e.2.length ≤ faultsBorne s) :
    s.commitIfHeld rec = s := by
  unfold State.commitIfHeld
  split
  · rfl
  · next e he => exact if_pos (h e (List.mem_of_find?_eq_some he))

/-- A record that the harbour master, witness w, has in its own journal and has sent to the others. -/
def State.offered (s : State) (w : Nat) (rec : LedgerRecord) : State :=
  let s1 := (s.setWitness w ((s.witness w).append rec)).say (.propose rec)
  { s1 with ledger := { s1.ledger with proposed := s1.ledger.proposed ++ [(rec, [w])] } }

section
variable (s : State) (w : Nat) (rec : LedgerRecord)

theorem State.offered_proposed : (s.offered w rec).ledger.proposed = s.ledger.proposed ++ [(rec, [w])] := rfl

theorem State.offered_faults : faultsBorne (s.offered w rec) = faultsBorne s := by
  unfold State.offered
  generalize (s.witness w).append rec = x
  rfl

theorem State.offered_frame : s.offered w rec = { s with ledger := { s.ledger with
    witnesses := tput {} s.ledger.witnesses w ((s.witness w).append rec), proposed := s.ledger.proposed ++ [(rec, [w])]
    sentMsgs := s.ledger.sentMsgs ++ [.propose rec] } } := by
  unfold State.offered
  generalize (s.witness w).append rec = x
  rfl

end

theorem State.propose_here (s : State) (rec : LedgerRecord) {w : Nat} (hw : hmPosition s = some w) (hd : s.mc.mresetDraining = false)
    (hh : hmHere s = true) : s.propose rec = (s.offered w rec).commitIfHeld rec := by
  simp only [State.propose, hw]
  exact if_neg (by simp [hd, hh])

/-- Where more than one witness must hold a record, a proposal commits none. -/
theorem State.propose_quiet (s : State) (rec : LedgerRecord) (hf : 1 ≤ faultsBorne s)
    (h : ∀ e ∈ s.ledger.proposed, e.2.length ≤ faultsBorne s) : s.propose rec = s ∨ ∃ w, s.propose rec = s.offered w rec := by
  cases hw : hmPosition s with
  | none => exact .inl (s.propose_none rec hw)
  | some w =>
    simp only [State.propose, hw]
    split
    · exact .inl rfl
    · refine .inr ⟨w, ?_⟩
      obtain ⟨t, ht⟩ : ∃ t, s.offered w rec = t := ⟨_, rfl⟩
      have hp := s.offered_proposed w rec
      have hb := s.offered_faults w rec
      rw [ht] at hp hb
      refine (congrArg (State.commitIfHeld · rec) ht).trans ((t.commitIfHeld_short rec fun e he => ?_).trans ht.symm)
      rw [hp] at he
      rw [hb]
      rcases List.mem_append.mp he with hin | hnew
      · exact h e hin
      · rw [List.mem_singleton.mp hnew]
        exact hf

/-! #### A new harbour master -/

section
variable (s : State)

@[simp] theorem State.activate_aroundRecord : s.activate.aroundRecord = s.aroundRecord := by
  rcases s.activate_cases with h | ⟨-, h⟩ <;> rw [h]
  rfl

@[simp] theorem State.goOn_aroundRecord : s.goOn.aroundRecord = s.aroundRecord := by
  unfold State.goOn
  split
  · split <;> rfl
  · split
    · exact s.ledgerHalt_aroundRecord 3
    · rfl

theorem State.haltFeeders_ledger : s.haltFeeders.ledger = s.ledger :=
  List.foldlRecOn (motive := fun t : State => t.ledger = s.ledger) _ _ rfl fun t ht p _ =>
    List.foldlRecOn (motive := fun t : State => t.ledger = s.ledger) _ _ ht fun u hu k _ => by
      split
      · exact hu
      · exact hu

theorem State.haltFeeders_frame : s.haltFeeders = { s with ctl := s.haltFeeders.ctl } :=
  List.foldlRecOn (motive := fun t : State => t = { s with ctl := t.ctl }) _ _ rfl fun t ht p _ =>
    List.foldlRecOn (motive := fun t : State => t = { s with ctl := t.ctl }) _ _ ht fun u hu k _ => by
      split
      · exact (congrArg (fun y : State => { y with ctl := (u.setCtl k { u.ctlOf k with haltAtStepStart := true }).ctl }) hu :)
      · exact hu

/-- A ledger that stops keeps its records: its state, the halts and the event are all. -/
theorem State.ledgerHalt_frame (st : Nat) : s.ledgerHalt st = { s with
    ledger := { s.ledger with state := st }, ctl := (s.ledgerHalt st).ctl, log := (s.ledgerHalt st).log
    hosts := (s.ledgerHalt st).hosts, sivar := (s.ledgerHalt st).sivar } := by
  unfold State.ledgerHalt
  dsimp only
  generalize tableId s = u
  have hf := State.haltFeeders_frame { s with ledger := { s.ledger with state := st } }
  obtain ⟨a, ha⟩ : ∃ a, State.haltFeeders { s with ledger := { s.ledger with state := st } } = a := ⟨_, rfl⟩
  rw [ha] at hf ⊢
  have he := a.event_frame sevFault evLedgerHalt u st
  obtain ⟨b, hb⟩ : ∃ b, a.event sevFault evLedgerHalt u st = b := ⟨_, rfl⟩
  rw [hb] at he ⊢
  have hc : b.ctl = a.ctl := (congrArg State.ctl he :)
  rw [hc]
  exact he.trans (congrArg (fun y : State => { y with log := b.log, hosts := b.hosts, sivar := b.sivar }) hf :)

theorem State.activate_frame : s.activate = { s with ledger := { s.ledger with state := s.activate.ledger.state } } := by
  rcases s.activate_cases with h | ⟨-, h⟩ <;> rw [h]

theorem State.goOn_frame : s.goOn = { s with
    ledger := { s.ledger with state := s.goOn.ledger.state }, ctl := s.goOn.ctl, log := s.goOn.log, hosts := s.goOn.hosts
    sivar := s.goOn.sivar } := by
  unfold State.goOn
  split
  · split <;> rfl
  · split
    · have h := s.ledgerHalt_frame 3
      have hs : (s.ledgerHalt 3).ledger.state = 3 := (congrArg (fun y : State => y.ledger.state) h :)
      rw [hs]
      exact h
    · rfl

end

/-- The witness that becomes harbour master is no candidate any more. -/
theorem State.proposeLast_elects (s : State) (x : Witness) (known : List LedgerRecord) {w : Nat} (h : (s.witness w).candidate = false) :
    ((s.proposeLast x known).witness w).candidate = false
      ∧ ∃ ws, (s.proposeLast x known).aroundRecord = ({ s with ledger := { s.ledger with witnesses := ws } } : State).aroundRecord := by
  have stands (t : State) (ht : t.aroundRecord = s.aroundRecord) : (t.witness w).candidate = false
      ∧ ∃ ws, t.aroundRecord = ({ s with ledger := { s.ledger with witnesses := ws } } : State).aroundRecord := by
    have hw : t.ledger.witnesses = s.ledger.witnesses := (congrArg (fun y : State => y.ledger.witnesses) ht :)
    refine ⟨?_, s.ledger.witnesses, ht⟩
    rw [State.witness, hw]
    exact h
  unfold State.proposeLast
  split
  · next r _ =>
    split
    · exact stands s rfl
    · rcases s.propose_aroundRecord { r with term := x.term } with ht | ⟨v, ht⟩
      · exact stands _ ht
      · obtain ⟨t, hp⟩ : ∃ t, s.propose { r with term := x.term } = t := ⟨_, rfl⟩
        rw [hp] at ht ⊢
        generalize { r with term := x.term } = rec at ht
        have hw : t.ledger.witnesses = tput {} s.ledger.witnesses v ((s.witness v).append rec) :=
          (congrArg (fun y : State => y.ledger.witnesses) ht :)
        refine ⟨?_, _, ht⟩
        rw [State.witness, hw]
        by_cases hv : v = w
        · rw [hv, tget_tput_same]
          exact h
        · rw [tget_tput_ne (h := Ne.symm hv)]
          exact h
  · exact stands s rfl

/-- With more than one witness needed, a new harbour master's proposal changes the ledger alone, and not its state. -/
theorem State.proposeLast_quiet (s : State) (x : Witness) (known : List LedgerRecord) (hf : 1 ≤ faultsBorne s) (hp : s.ledger.proposed = []) :
    (s.proposeLast x known).tensors = s.tensors ∧ (s.proposeLast x known).ledger.state = s.ledger.state := by
  unfold State.proposeLast
  split
  · split
    · exact ⟨rfl, rfl⟩
    · next r _ _ =>
      rcases s.propose_quiet { r with term := x.term } hf (by simp [hp]) with h | ⟨w, h⟩ <;> rw [h]
      · exact ⟨rfl, rfl⟩
      · rw [State.offered_frame]
        exact ⟨rfl, rfl⟩
  · exact ⟨rfl, rfl⟩

/-- The state of a witness in a term that it is asked for. -/
def Witness.inTerm (x : Witness) (term : Nat) : Witness :=
  if x.term < term then { x with term := term, candidate := false, votes := [], votedFor := none } else x

/-- Whether a witness votes for a candidate of a term: its journal ends no later, and it has not voted for another in that term. -/
def Witness.grants (x : Witness) (term c lastTerm lastRecord : Nat) : Prop :=
  (x.tip.1 < lastTerm ∨ (x.tip.1 = lastTerm ∧ x.tip.2 ≤ lastRecord)) ∧ (x.term < term ∨ x.votedFor = none ∨ x.votedFor = some (term, c))

section
variable (x : Witness) {term : Nat}

theorem Witness.inTerm_journal : (x.inTerm term).journal = x.journal := by
  unfold Witness.inTerm
  split <;> rfl

theorem Witness.inTerm_tip : (x.inTerm term).tip = x.tip := by
  unfold Witness.inTerm
  split <;> rfl

theorem Witness.inTerm_term (h : x.term ≤ term) : (x.inTerm term).term = term := by
  unfold Witness.inTerm
  split
  · rfl
  · omega

theorem Witness.inTerm_votedFor (c : Nat) : ((x.inTerm term).votedFor = none ∨ (x.inTerm term).votedFor = some (term, c)) ↔
    (x.term < term ∨ x.votedFor = none ∨ x.votedFor = some (term, c)) := by
  unfold Witness.inTerm
  split
  · next h => simp [h]
  · next h => simp [h]

end

open Classical in
theorem exec_voteRequest {s : State} {w term c lastTerm lastRecord : Nat} (ho : ownWitness s w = true) (ht : (s.witness w).term ≤ term) :
    exec (.voteRequest w term c lastTerm lastRecord) s = .next (if (s.witness w).grants term c lastTerm lastRecord then
        (s.setWitness w { (s.witness w).inTerm term with votedFor := some (term, c) }).say (.vote w term c)
      else s.setWitness w ((s.witness w).inTerm term)) := by
  refine congrArg Host.Outcome.next ((if_neg (by simp [ho])).trans ((if_neg (by omega)).trans ?_))
  have hgrant : (s.witness w).grants term c lastTerm lastRecord ↔
      (decide (((s.witness w).inTerm term).tip.1 < lastTerm ∨ (((s.witness w).inTerm term).tip.1 = lastTerm ∧ ((s.witness w).inTerm term).tip.2 ≤ lastRecord))
        && (match ((s.witness w).inTerm term).votedFor with | none => true | some v => v == (term, c))) = true := by
    rw [Witness.grants, ← Witness.inTerm_votedFor, Witness.inTerm_tip, Bool.and_eq_true, decide_eq_true_iff]
    refine and_congr_right' ?_
    cases ((s.witness w).inTerm term).votedFor <;> simp
  exact if_congr hgrant.symm rfl rfl

theorem State.setWitness_witness (s : State) (w : Nat) (x : Witness) : (s.setWitness w x).witness w = x := tget_tput_same ..

theorem State.say_witness (s : State) (m : LedgerMsg) (w : Nat) : (s.say m).witness w = s.witness w := rfl

theorem State.setWitness_says (s : State) (w : Nat) (x : Witness) (m : LedgerMsg) :
    SameBut {} s.ledger.witnesses ((s.setWitness w x).say m).ledger.witnesses w := sameBut_tput ({} : Witness) s.ledger.witnesses w x

theorem exec_electionTimeout {s : State} {w : Nat} (ho : ownWitness s w = true) (hhm : hmPosition s ≠ some w ∨ hmHere s = false) :
    exec (.electionTimeout w) s = .next (((s.advance ((s.witness w).lastHeartbeat + (20000 + 5000 * w) * 1500)).setWitness w
      { s.witness w with
        term := max (s.witness w).term s.ledger.term + 1, votedFor := some (max (s.witness w).term s.ledger.term + 1, w)
        candidate := true, votes := [w], lastHeartbeat := max s.now ((s.witness w).lastHeartbeat + (20000 + 5000 * w) * 1500) }).say
      (.askVote w (max (s.witness w).term s.ledger.term + 1))) :=
  congrArg Host.Outcome.next (if_neg (by rcases hhm with h | h <;> simp [ho, h]))

/-- What an elected harbour master is before it goes on: all but the ledger stands. -/
theorem State.elected_frame (s : State) (w voter : Nat) : s.elected w voter = { s with ledger := (s.elected w voter).ledger } := rfl

theorem State.elected_ledger (s : State) (w voter : Nat) : (s.elected w voter).ledger = { s.ledger with
    witnesses := (s.elected w voter).ledger.witnesses, term := (s.witness w).term, hm := (witnessList s)[w]?, heartbeatAt := s.now
    proposed := [], lastAnswer := (s.elected w voter).ledger.lastAnswer } := rfl

section
variable (s : State) (w voter : Nat) (x : Witness) (known : List LedgerRecord)

/-- The harbour master of a module, once it has proposed its last record again. -/
def State.newMaster : State := ((s.elected w voter).goOn.activate).proposeLast x known

theorem State.newMaster_leads : (s.newMaster w voter x known).ledger.hm = (witnessList s)[w]?
    ∧ (s.newMaster w voter x known).ledger.term = (s.witness w).term ∧ ((s.newMaster w voter x known).witness w).candidate = false
    ∧ (s.newMaster w voter x known).ledger.heartbeatAt = s.now ∧ (s.newMaster w voter x known).now = s.now
    ∧ (s.newMaster w voter x known).parts = s.parts ∧ (s.newMaster w voter x known).pad = s.pad
    ∧ (s.newMaster w voter x known).dram = s.dram ∧ (s.newMaster w voter x known).flash = s.flash := by
  obtain ⟨e, he⟩ : ∃ e, s.elected w voter = e := ⟨_, rfl⟩
  have hc : (e.witness w).candidate = false := by
    rw [← he]
    exact congrArg Witness.candidate (State.setWitness_witness _ w _)
  have hfr := s.elected_frame w voter
  have hld := s.elected_ledger w voter
  rw [State.newMaster]
  rw [he] at hfr hld ⊢
  have hm : e.ledger.hm = (witnessList s)[w]? ∧ e.ledger.term = (s.witness w).term ∧ e.ledger.heartbeatAt = s.now :=
    ⟨(congrArg Ledger.hm hld :), (congrArg Ledger.term hld :), (congrArg Ledger.heartbeatAt hld :)⟩
  have hk : e.now = s.now ∧ e.parts = s.parts ∧ e.pad = s.pad ∧ e.dram = s.dram ∧ e.flash = s.flash :=
    ⟨(congrArg State.now hfr :), (congrArg State.parts hfr :), (congrArg State.pad hfr :), (congrArg State.dram hfr :),
      (congrArg State.flash hfr :)⟩
  clear he
  have hgo : e.goOn.activate.aroundRecord = e.aroundRecord := by simp
  obtain ⟨u, hu⟩ : ∃ u, e.goOn.activate = u := ⟨_, rfl⟩
  rw [hu] at hgo ⊢
  have hc' : (u.witness w).candidate = false := by
    have hws : u.ledger.witnesses = e.ledger.witnesses := (congrArg (fun y : State => y.ledger.witnesses) hgo :)
    rw [State.witness, hws]
    exact hc
  obtain ⟨hcand, ws, hr⟩ := u.proposeLast_elects x known hc'
  obtain ⟨t, ht⟩ : ∃ t, u.proposeLast x known = t := ⟨_, rfl⟩
  rw [ht] at hcand hr ⊢
  have hl : t.ledger.hm = e.ledger.hm ∧ t.ledger.term = e.ledger.term ∧ t.ledger.heartbeatAt = e.ledger.heartbeatAt :=
    ⟨(congrArg (fun y : State => y.ledger.hm) hr :).trans (congrArg (fun y : State => y.ledger.hm) hgo :),
      (congrArg (fun y : State => y.ledger.term) hr :).trans (congrArg (fun y : State => y.ledger.term) hgo :),
      (congrArg (fun y : State => y.ledger.heartbeatAt) hr :).trans (congrArg (fun y : State => y.ledger.heartbeatAt) hgo :)⟩
  have hf : t.now = e.now ∧ t.parts = e.parts ∧ t.pad = e.pad ∧ t.dram = e.dram ∧ t.flash = e.flash :=
    ⟨(congrArg State.now hr :).trans (congrArg State.now hgo :), (congrArg State.parts hr :).trans (congrArg State.parts hgo :),
      (congrArg State.pad hr :).trans (congrArg State.pad hgo :), (congrArg State.dram hr :).trans (congrArg State.dram hgo :),
      (congrArg State.flash hr :).trans (congrArg State.flash hgo :)⟩
  rw [hl.1, hl.2.1, hl.2.2, hf.1, hf.2.1, hf.2.2.1, hf.2.2.2.1, hf.2.2.2.2]
  exact ⟨hm.1, hm.2.1, hcand, hm.2.2, hk⟩

/-- With more than one witness needed, its proposal commits nothing: the tensors stand, and a held ledger whose shards are all covered goes on. -/
theorem State.newMaster_quiet (hf : 1 ≤ faultsBorne s) : (s.newMaster w voter x known).tensors = s.tensors
    ∧ (s.ledger.state = 3 → (∀ p ∈ ledgerParts s, ∀ n ∈ liveShards s p, holderOf s p n ∉ s.ledger.lost) →
        (s.newMaster w voter x known).ledger.state = 2) := by
  obtain ⟨e, he⟩ : ∃ e, s.elected w voter = e := ⟨_, rfl⟩
  have hfr := s.elected_frame w voter
  have hld := s.elected_ledger w voter
  rw [State.newMaster]
  rw [he] at hfr hld ⊢
  clear he
  have hmem : e.ledger.membership = s.ledger.membership := (congrArg Ledger.membership hld :)
  have hroles : e.ledger.roles = s.ledger.roles := (congrArg Ledger.roles hld :)
  have hlost : e.ledger.lost = s.ledger.lost := (congrArg Ledger.lost hld :)
  have hep : e.ledger.proposed = [] := (congrArg Ledger.proposed hld :)
  have hes : e.ledger.state = s.ledger.state := (congrArg Ledger.state hld :)
  have het : e.tensors = s.tensors := (congrArg State.tensors hfr :)
  have hlay : SameLayout s e := ⟨(congrArg State.parts hfr :), (congrArg State.opt hfr :), het, (congrArg (fun y : State => y.sivar.config) hfr :), hmem⟩
  have hhold := hlay.holderOf hroles
  have hg := e.goOn_frame
  have hcov (h : (ledgerParts e).all (fun p => (liveShards e p).all fun n => holderOf e p n ∉ e.ledger.lost) = true)
      (h3 : e.ledger.state = 3) : e.goOn = { e with ledger := { e.ledger with state := 2 } } := (if_pos h).trans (if_pos h3)
  obtain ⟨g, hgo⟩ : ∃ g, e.goOn = g := ⟨_, rfl⟩
  rw [hgo] at hg hcov ⊢
  have ha := g.activate_frame
  have hkeep : g.ledger.state = 2 → g.activate = g := fun h => by
    rcases g.activate_cases with h' | ⟨h1, -⟩
    · exact h'
    · omega
  obtain ⟨a, hac⟩ : ∃ a, g.activate = a := ⟨_, rfl⟩
  rw [hac] at ha hkeep ⊢
  have hf' : faultsBorne a = faultsBorne s := faultsBorne_of_membership
    ((congrArg (fun y : State => y.ledger.membership) ha :).trans ((congrArg (fun y : State => y.ledger.membership) hg :).trans hmem))
  have hp : a.ledger.proposed = [] := (congrArg (fun y : State => y.ledger.proposed) ha :).trans
    ((congrArg (fun y : State => y.ledger.proposed) hg :).trans hep)
  have ht : a.tensors = s.tensors := (congrArg State.tensors ha :).trans ((congrArg State.tensors hg :).trans het)
  obtain ⟨htens, hstate⟩ := a.proposeLast_quiet x known (hf'.symm ▸ hf) hp
  refine ⟨htens.trans ht, fun h3 hall => hstate.trans ?_⟩
  have hg2 := hcov (by simpa only [hlay.ledgerParts, hlay.liveShards, hhold, hlost, List.all_eq_true, decide_eq_true_eq] using hall) (hes.trans h3)
  have hs2 : g.ledger.state = 2 := (congrArg (fun y : State => y.ledger.state) hg2 :)
  rw [hkeep hs2]
  exact hs2

end

/-- The heartbeat of the harbour master in this module goes out. -/
def State.beat (s : State) : State :=
  let s1 := (s.advance (s.ledger.heartbeatAt + 1000 * cyPerTick)).say (.heartbeat s.ledger.term)
  { s1 with ledger := { s1.ledger with heartbeatAt := s1.now } }

/-- A module follows the harbour master whose heartbeat it hears; a halted one goes on where the term is later. -/
def State.followed (s : State) (module quay term : Nat) : State :=
  { s with ledger := { s.ledger with
    hm := some (module, quay), term := term, proposed := if hmHere s then [] else s.ledger.proposed
    state := if decide (s.ledger.term < term ∧ (s.ledger.state = 3 ∨ s.ledger.state = 4)) then 2 else s.ledger.state } }

/-- Settles O37: a candidate's own state, one vote by the journal's end, the votes counted against f, and a heartbeat as
`State.hearHeartbeat_heard` gives it. -/
theorem harbourMastersAreElected : Obligations.HarbourMastersAreElected := by
  refine ⟨?timeout, ?request, ?grant, ?heartbeat, ?answer⟩
  case timeout =>
    intro s w ho hhm term
    refine ⟨_, exec_electionTimeout ho hhm, rfl, ?_, rfl, State.setWitness_says (s.advance _) w _ _, rfl⟩
    rw [State.say_witness, State.setWitness_witness]
    rfl
  case request =>
    intro s w term c lastTerm lastRecord ho ht x grant
    have hexec := exec_voteRequest (c := c) (lastTerm := lastTerm) (lastRecord := lastRecord) ho ht
    by_cases hg : grant
    · rw [if_pos (show (s.witness w).grants term c lastTerm lastRecord from hg)] at hexec
      have hw : (((s.setWitness w { (s.witness w).inTerm term with votedFor := some (term, c) }).say (.vote w term c)).witness w)
          = { (s.witness w).inTerm term with votedFor := some (term, c) } :=
        State.setWitness_witness s w _
      refine ⟨_, hexec, fun _ => ⟨by rw [hw], rfl⟩, fun h => absurd hg h, ?_, ?_, fun j hj => tget_tput_ne _ _ _ _ _ hj, rfl⟩
      · rw [hw]
        exact (s.witness w).inTerm_term ht
      · rw [hw]
        exact (s.witness w).inTerm_journal
    · rw [if_neg (show ¬ (s.witness w).grants term c lastTerm lastRecord from hg)] at hexec
      have hw : ((s.setWitness w ((s.witness w).inTerm term)).witness w) = (s.witness w).inTerm term :=
        State.setWitness_witness s w _
      refine ⟨_, hexec, fun h => absurd h hg, fun _ => rfl, ?_, ?_, fun j hj => tget_tput_ne _ _ _ _ _ hj, rfl⟩
      · rw [hw]
        exact (s.witness w).inTerm_term ht
      · rw [hw]
        exact (s.witness w).inTerm_journal
  case grant =>
    intro s w voter ho hc hv term votes
    have hexec := exec_voteGrant ho hc hv
    by_cases hfew : votes.length ≤ faultsBorne s
    · rw [if_pos hfew] at hexec
      exact ⟨_, hexec, fun _ => ⟨State.setWitness_witness s w _, rfl⟩, fun h => absurd hfew (by omega), fun _ => rfl, rfl, rfl, rfl, rfl, rfl⟩
    · rw [if_neg hfew] at hexec
      obtain ⟨hlead, hterm, hcand, hat, hkept⟩ := s.newMaster_leads w voter (s.witness w) s.ledger.records
      have hquiet := s.newMaster_quiet w voter (s.witness w) s.ledger.records
      exact ⟨_, hexec, fun h => absurd h hfew, fun _ => ⟨hlead, hterm, hcand, hat, fun hf => (hquiet hf).2⟩, fun hf => (hquiet hf).1, hkept⟩
  case heartbeat =>
    intro s module quay term hin hhm halted hother
    by_cases hm : module = s.moduleNumber
    · have hexec : exec (.hmHeartbeat module quay term) s = .next (State.beat s).hearHeartbeat :=
        congrArg Host.Outcome.next ((if_neg (not_not_intro hin)).trans ((if_pos hm).trans (if_neg (not_not_intro (hhm hm)))))
      have h := s.beat.hearHeartbeat_heard
      obtain ⟨t, ht⟩ : ∃ t, s.beat.hearHeartbeat = t := ⟨_, rfl⟩
      rw [ht] at h hexec
      have hnow : t.now = s.beat.now := (congrArg State.now h.frame :)
      refine ⟨t, hexec, by rw [if_pos hm]; exact hnow, h.hm.trans (hhm hm), by rw [if_pos hm]; exact h.term, fun h => absurd hm h,
        fun _ => h.said.mem (List.mem_append_right _ (List.mem_singleton_self _)), h.silent, fun q hq => by rw [hnow]; exact h.answered q hq,
        fun w hw ho => by rw [hnow]; exact h.witnesses w hw ho, ?_⟩
      have hrtc : t.rtc = s.beat.rtc := (congrArg State.rtc h.frame :)
      rw [hnow, hrtc]
      exact h.frame
    · obtain ⟨hterm, hmoved⟩ := hother hm
      have hexec : exec (.hmHeartbeat module quay term) s = .next ((s.followed module quay term).hearHeartbeat.activate) :=
        congrArg Host.Outcome.next ((if_neg (not_not_intro hin)).trans ((if_neg hm).trans (if_neg ?_)))
      · have h := (s.followed module quay term).hearHeartbeat_heard.activate
        have hstate : halted → (s.followed module quay term).ledger.state = 2 := fun hh => if_pos (decide_eq_true hh)
        obtain ⟨t, ht⟩ : ∃ t, (s.followed module quay term).hearHeartbeat.activate = t := ⟨_, rfl⟩
        rw [ht] at h hexec
        have hnow : t.now = s.now := (congrArg State.now h.frame :)
        refine ⟨t, hexec, by rw [if_neg hm]; exact hnow, h.hm, by rw [if_neg hm]; exact h.term, fun _ hh => h.state (hstate hh),
          fun h => absurd h hm, h.silent, fun q hq => by rw [hnow]; exact h.answered q hq,
          fun w hw ho => by rw [hnow]; exact h.witnesses w hw ho, ?_⟩
        have hrtc : t.rtc = s.rtc := (congrArg State.rtc h.frame :)
        rw [hnow, hrtc]
        exact h.frame
      · rintro (h | ⟨h, h'⟩)
        · omega
        · exact h' (hmoved (of_decide_eq_true h))
  case answer =>
    intro s module quay hh
    refine ⟨_, congrArg Host.Outcome.next (if_neg (by simp [hh])), List.mem_append_right _ (List.mem_singleton_self _), fun e he h1 h2 => ?_, rfl⟩
    rcases List.mem_append.mp he with h | h
    · have := (List.mem_filter.mp h).2
      simp [h1, h2] at this
    · rw [List.mem_singleton.mp h]


end Sys2Proof.Machine
end

section
/-! SUPPORT. Lost members, splits and rejoins (R311-R317): who proposes what, and which parts of a shard a copy replaces. -/

namespace Sys2Proof.Machine

/-! ### What has been said stays said -/

theorem foldl_said {α : Type} {f : State → α → State} (hf : ∀ t a, t.ledger.sentMsgs <+: (f t a).ledger.sentMsgs) (l : List α) (s : State) :
    s.ledger.sentMsgs <+: (l.foldl f s).ledger.sentMsgs :=
  List.foldlRecOn (motive := fun t => s.ledger.sentMsgs <+: t.ledger.sentMsgs) l f (List.prefix_refl _) fun t ht a _ => ht.trans (hf t a)

section
variable (s : State)

@[simp] theorem State.openSlot_ledger (tid v : Nat) : (s.openSlot tid v).ledger = s.ledger := by
  simp only [State.openSlot, State.retireVersion, State.clearDamage]
  split_ifs <;> rfl

theorem State.putStream_ledger (p n version off : Nat) (data : List Byte) : (s.putStream p n version off data).ledger = s.ledger := by
  unfold State.putStream
  refine List.foldlRecOn (motive := fun (acc : State × Nat) => acc.1.ledger = s.ledger) _ _ rfl fun acc h e _ => ?_
  split
  · exact h
  · dsimp only
    split_ifs
    · split
      · exact h
      · exact (State.openSlot_ledger _ _ _).trans h
    · exact h

theorem State.landStream_said (p n step off : Nat) (data : List Byte) :
    s.ledger.sentMsgs <+: (s.landStream p n step off data).ledger.sentMsgs := by
  have h : (s.landStream p n step off data).ledger.sentMsgs = (s.putStream p n (step + 1) off data).ledger.sentMsgs := rfl
  rw [h, State.putStream_ledger]

theorem State.publishHeld_said (p q n : Nat) : s.ledger.sentMsgs <+: (s.publishHeld p q n).ledger.sentMsgs := by
  unfold State.publishHeld
  refine (State.setRun_summed s p _).said.trans (foldl_said (fun t d => ?_) _ _)
  dsimp only
  split_ifs
  · exact (t.landStream_said ..).trans (State.relayGather_summed _ _ _).said
  · exact (t.sendBytes_summed ..).said

theorem State.inherit_said (p q n : Nat) : s.ledger.sentMsgs <+: (s.inherit p q n).ledger.sentMsgs := by
  have norm : s.ledger.sentMsgs <+: ((if s.updating p && (s.exchange p q).began then
      s.setExchange p q { s.exchange p q with inherited := addOnce (s.exchange p q).inherited n } else s).sendNorm p q).ledger.sentMsgs := by
    refine List.IsPrefix.trans ?_ (State.sendNorm_summed _ p q).said
    split <;> exact List.prefix_refl _
  simp only [State.inherit]
  obtain ⟨u, hu⟩ : ∃ u, (if s.updating p && (s.exchange p q).began then
      s.setExchange p q { s.exchange p q with inherited := addOnce (s.exchange p q).inherited n } else s).sendNorm p q = u := ⟨_, rfl⟩
  rw [hu] at norm ⊢
  split
  · exact norm.trans ((State.publishHeld_said _ p q n).trans (State.completeVersion_summed _ _ _).said)
  · exact norm

theorem State.takeRoles_said (before : List (Nat × Nat × Nat)) : s.ledger.sentMsgs <+: (s.takeRoles before).ledger.sentMsgs := by
  rw [State.takeRoles]
  exact (foldl_said (fun (t : State) (e : Nat × Nat × Nat) => t.inherit_said e.1 e.2.1 e.2.2) _ s).trans (State.freeAcks_summed _).said

theorem State.event_said (a b c d : Nat) : s.ledger.sentMsgs <+: (s.event a b c d).ledger.sentMsgs := by
  rw [s.event_frame]

theorem State.ledgerHalt_said (st : Nat) : s.ledger.sentMsgs <+: (s.ledgerHalt st).ledger.sentMsgs := by
  rw [s.ledgerHalt_frame]

theorem State.keepRecord_sentMsgs (n : Nat) (rec : LedgerRecord) : (s.keepRecord n rec).ledger.sentMsgs = s.ledger.sentMsgs := rfl

theorem State.journalled_said (rec : LedgerRecord) : s.ledger.sentMsgs <+: (s.journalled rec).ledger.sentMsgs := by
  rw [State.journalled, s.keepRecord_sentMsgs]

theorem State.stepped_said (rec : LedgerRecord) : s.ledger.sentMsgs <+: (s.stepped rec).ledger.sentMsgs := List.prefix_refl _
theorem State.rolledBack_said (rec : LedgerRecord) : s.ledger.sentMsgs <+: (s.rolledBack rec).ledger.sentMsgs := List.prefix_refl _
theorem State.withRoles_said (rec : LedgerRecord) : s.ledger.sentMsgs <+: (s.withRoles rec).ledger.sentMsgs := List.prefix_refl _

theorem State.applyRecord_said (rec : LedgerRecord) : s.ledger.sentMsgs <+: (s.applyRecord rec).ledger.sentMsgs := by
  refine s.applyRecord_cases (P := fun t => s.ledger.sentMsgs <+: t.ledger.sentMsgs) rec (List.prefix_refl _) (s.journalled_said rec)
    ?step ?roles ?rollback
  case step => exact (s.journalled_said rec).trans (State.stepped_said _ rec)
  case rollback => exact (s.journalled_said rec).trans ((State.rolledBack_said _ rec).trans (State.ledgerHalt_said _ 6))
  exact (s.journalled_said rec).trans <| (State.withRoles_said _ rec).trans <| (foldl_said (fun t r => t.event_said _ _ _ _) _ ((s.journalled rec).withRoles rec)).trans (State.takeRoles_said _ _)

/-- A record that is to be committed waits no more. -/
def State.unproposed (s : State) (rec : LedgerRecord) : State :=
  { s with ledger := { s.ledger with proposed := s.ledger.proposed.filter (fun x => x.1 != rec) } }

theorem State.commitIfHeld_cases (rec : LedgerRecord) : s.commitIfHeld rec = s
    ∨ s.commitIfHeld rec = ((s.unproposed rec).applyRecord rec).say (.commit rec.ledger rec.step s.ledger.term) := by
  unfold State.commitIfHeld
  split
  · exact .inl rfl
  · dsimp only
    split
    · exact .inl rfl
    · exact .inr rfl

theorem State.commitIfHeld_said (rec : LedgerRecord) : s.ledger.sentMsgs <+: (s.commitIfHeld rec).ledger.sentMsgs := by
  rcases s.commitIfHeld_cases rec with h | h <;> rw [h]
  exact (State.applyRecord_said (s.unproposed rec) rec).trans (State.say_summed _ _).said

theorem State.propose_said (rec : LedgerRecord) : s.ledger.sentMsgs <+: (s.propose rec).ledger.sentMsgs := by
  cases hw : hmPosition s with
  | none => rw [s.propose_none rec hw]
  | some w =>
    simp only [State.propose, hw]
    split
    · exact List.prefix_refl _
    · exact (List.prefix_append ..).trans (State.commitIfHeld_said (s.offered w rec) rec)

/-- The harbour master sends what it proposes. -/
theorem State.propose_sends (rec : LedgerRecord) {w : Nat} (hw : hmPosition s = some w) (hd : s.mc.mresetDraining = false)
    (hh : hmHere s = true) : LedgerMsg.propose rec ∈ (s.propose rec).ledger.sentMsgs := by
  rw [s.propose_here rec hw hd hh]
  refine (State.commitIfHeld_said (s.offered w rec) rec).mem ?_
  rw [State.offered_frame]
  exact List.mem_append_right _ (List.mem_singleton_self _)

end

/-! ### What a proposal leaves of the module -/

/-- All but the ledger and what a record can change. -/
def State.aroundLedger (s : State) : State := { s.aroundRecord with ledger := { lost := s.ledger.lost } }

theorem State.aroundLedger_of_record {s t : State} (h : t.aroundRecord = s.aroundRecord) : t.aroundLedger = s.aroundLedger :=
  (congrArg (fun y : State => { y with ledger := { lost := y.ledger.lost } }) h :)

theorem foldl_aroundLedger {α : Type} {f : State → α → State} (hf : ∀ t a, (f t a).aroundLedger = t.aroundLedger) (l : List α) (s : State) :
    (l.foldl f s).aroundLedger = s.aroundLedger :=
  List.foldlRecOn (motive := fun t => t.aroundLedger = s.aroundLedger) l f rfl fun t ht a _ => (hf t a).trans ht

section
variable (s : State)

theorem State.setWitness_aroundLedger (w : Nat) (x : Witness) : (s.setWitness w x).aroundLedger = s.aroundLedger := rfl

theorem State.propose_aroundLedger (rec : LedgerRecord) : (s.propose rec).aroundLedger = s.aroundLedger := by
  rcases s.propose_aroundRecord rec with h | ⟨w, h⟩
  · exact State.aroundLedger_of_record h
  · exact (State.aroundLedger_of_record h).trans (s.setWitness_aroundLedger w _)

theorem State.proposeRoles_aroundLedger (p : Nat) (roles : List (Nat × Nat × Nat × Bool)) :
    (s.proposeRoles p roles).aroundLedger = s.aroundLedger := s.propose_aroundLedger _

theorem State.proposeRollback_aroundLedger (p c : Nat) : (s.proposeRollback p c).aroundLedger = s.aroundLedger :=
  State.propose_aroundLedger _ _

theorem State.ledgerHalt_aroundLedger (st : Nat) : (s.ledgerHalt st).aroundLedger = s.aroundLedger :=
  State.aroundLedger_of_record (s.ledgerHalt_aroundRecord st)

end

/-- No record that is proposed is held by more than f witnesses. -/
def State.quiet (s : State) : Prop := ∀ e ∈ s.ledger.proposed, e.2.length ≤ faultsBorne s

/-- Where more than one witness must hold a record, a proposal leaves the tensors and commits nothing. -/
structure StaysQuiet (s t : State) : Prop where
  tensors : t.tensors = s.tensors
  faults : faultsBorne t = faultsBorne s
  quiet : s.quiet → t.quiet

namespace StaysQuiet

variable {s t u : State}

theorem refl (s : State) : StaysQuiet s s := ⟨rfl, rfl, id⟩
theorem trans (a : StaysQuiet s t) (b : StaysQuiet t u) : StaysQuiet s u :=
  ⟨b.tensors.trans a.tensors, b.faults.trans a.faults, fun h => b.quiet (a.quiet h)⟩

end StaysQuiet

theorem State.propose_staysQuiet (s : State) (rec : LedgerRecord) (hf : 1 ≤ faultsBorne s) (h : s.quiet) : StaysQuiet s (s.propose rec) := by
  rcases s.propose_quiet rec hf h with ht | ⟨w, ht⟩
  · rw [ht]
    exact .refl s
  · rw [ht]
    refine ⟨by rw [State.offered_frame], s.offered_faults w rec, fun _ e he => ?_⟩
    rw [State.offered_proposed] at he
    rw [State.offered_faults]
    rcases List.mem_append.mp he with hin | hnew
    · exact h e hin
    · rw [List.mem_singleton.mp hnew]
      exact hf

theorem State.proposeRollback_staysQuiet (s : State) (p c : Nat) (hf : 1 ≤ faultsBorne s) (h : s.quiet) : StaysQuiet s (s.proposeRollback p c) := by
  have h0 : StaysQuiet s { s with ledger := { s.ledger with proposed := s.ledger.proposed.filter (fun e => e.1.kind != 1) } } :=
    ⟨rfl, rfl, fun h e he => h e (List.mem_of_mem_filter he)⟩
  exact h0.trans (State.propose_staysQuiet _ _ hf (h0.quiet h))

theorem State.ledgerHalt_staysQuiet (s : State) (st : Nat) : StaysQuiet s (s.ledgerHalt st) := by
  have hf := s.ledgerHalt_frame st
  obtain ⟨t, ht⟩ : ∃ t, s.ledgerHalt st = t := ⟨_, rfl⟩
  rw [ht] at hf ⊢
  have hb : faultsBorne t = faultsBorne s := faultsBorne_of_membership (congrArg (fun y : State => y.ledger.membership) hf :)
  refine ⟨(congrArg State.tensors hf :), hb, fun h e he => ?_⟩
  rw [hb]
  rw [show t.ledger.proposed = s.ledger.proposed from (congrArg (fun y : State => y.ledger.proposed) hf :)] at he
  exact h e he

/-! ### Shards of a lost quay (R311, R313, R315) -/

section
variable {s t : State} (h : SameLayout s t)
include h

theorem SameLayout.mirrorFull (p n q : Nat) : mirrorFull t p n q = mirrorFull s p n q := by
  simp only [Machine.mirrorFull, h.mirrorSlabs, h.shardSlabsNo]

theorem SameLayout.copyWhole (hr : t.ledger.roles = s.ledger.roles) (p n : Nat) : copyWhole t p n = copyWhole s p n := by
  simp only [Machine.copyWhole, h.holderOf hr, h.ownerOf, h.mirrorFull]

theorem SameLayout.rolesAfter (hr : t.ledger.roles = s.ledger.roles) (hi : t.ledger.mirrorInvalid = s.ledger.mirrorInvalid)
    (hl : t.ledger.lost = s.ledger.lost) (p : Nat) (gone goneMirror : Nat → Bool) :
    rolesAfter t p gone goneMirror = rolesAfter s p gone goneMirror := by
  simp only [Machine.rolesAfter, h.liveShards, h.holderOf hr, h.copyQuays hr, Machine.mirrorBad, hr, hi, hl, h.copyWhole hr]
  rfl

theorem SameLayout.commonCheckpoint (hc : t.freeCtr = s.freeCtr) (p : Nat) : commonCheckpoint t p = commonCheckpoint s p := by
  simp only [Machine.commonCheckpoint, h.domainTensors, State.tensor, h.tensors, h.tableOf, hc]

end

/-- What the harbour master does for one domain whose shards are lost. -/
def State.loseIn (t : State) (gone goneMirror : Nat → Nat → Bool) (split : Bool) (p : Nat) : State :=
  if !(liveShards t p).any (fun n => gone p n || goneMirror p n) then t
  else
    match rolesAfter t p (gone p) (goneMirror p) with
    | some roles => t.proposeRoles p roles
    | none =>
      if split then t.ledgerHalt 3
      else
        match commonCheckpoint t p with
        | some c => t.proposeRollback p c
        | none => t.ledgerHalt 3

theorem State.loseShards_eq (s : State) (gone goneMirror : Nat → Nat → Bool) (split : Bool) (hh : hmHere s = true) :
    s.loseShards gone goneMirror split = (ledgerParts s).foldl (fun t p => t.loseIn gone goneMirror split p) s :=
  if_neg (by simp [hh])

section
variable (t : State) (gone goneMirror : Nat → Nat → Bool) (split : Bool) (p : Nat)

/-- A domain none of whose shards is lost is left alone; else a role map, a rollback or a halt follows. -/
theorem State.loseIn_cases {P : State → Prop} (same : P t) (roles : ∀ r, P (t.proposeRoles p r)) (back : ∀ c, P (t.proposeRollback p c))
    (halt : P (t.ledgerHalt 3)) : P (t.loseIn gone goneMirror split p) := by
  unfold State.loseIn
  split
  · exact same
  · split
    · exact roles _
    · split
      · exact halt
      · split
        · exact back _
        · exact halt

theorem State.loseIn_aroundLedger : (t.loseIn gone goneMirror split p).aroundLedger = t.aroundLedger :=
  t.loseIn_cases (P := fun u => u.aroundLedger = t.aroundLedger) gone goneMirror split p rfl (fun r => t.proposeRoles_aroundLedger p r)
    (fun c => t.proposeRollback_aroundLedger p c) (t.ledgerHalt_aroundLedger 3)

theorem State.loseIn_staysQuiet (hf : 1 ≤ faultsBorne t) (h : t.quiet) : StaysQuiet t (t.loseIn gone goneMirror split p) :=
  t.loseIn_cases (P := StaysQuiet t) gone goneMirror split p (.refl t) (fun _ => t.propose_staysQuiet _ hf h)
    (fun c => t.proposeRollback_staysQuiet p c hf h) (t.ledgerHalt_staysQuiet 3)

variable {t gone goneMirror split p}

theorem State.loseIn_of_none (h : ∀ n ∈ liveShards t p, gone p n = false ∧ goneMirror p n = false) :
    t.loseIn gone goneMirror split p = t := if_pos (by simpa using h)

theorem State.loseIn_of_roles (h : (liveShards t p).any (fun n => gone p n || goneMirror p n) = true) {roles : List (Nat × Nat × Nat × Bool)}
    (hr : rolesAfter t p (gone p) (goneMirror p) = some roles) : t.loseIn gone goneMirror split p = t.proposeRoles p roles := by
  simp only [State.loseIn, h, hr, Bool.not_true, Bool.false_eq_true, if_false]

theorem State.loseIn_of_checkpoint (h : (liveShards t p).any (fun n => gone p n || goneMirror p n) = true)
    (hr : rolesAfter t p (gone p) (goneMirror p) = none) (hs : split = false) {c : Nat} (hc : commonCheckpoint t p = some c) :
    t.loseIn gone goneMirror split p = t.proposeRollback p c := by
  simp only [State.loseIn, h, hr, hs, hc, Bool.not_true, Bool.false_eq_true, if_false]

theorem State.loseIn_of_nothing (h : (liveShards t p).any (fun n => gone p n || goneMirror p n) = true)
    (hr : rolesAfter t p (gone p) (goneMirror p) = none) (hs : split = true ∨ commonCheckpoint t p = none) :
    t.loseIn gone goneMirror split p = t.ledgerHalt 3 := by
  rcases hs with hs | hc
  · simp only [State.loseIn, h, hr, hs, Bool.not_true, Bool.false_eq_true, if_false, if_true]
  · simp only [State.loseIn, h, hr, hc, Bool.not_true, Bool.false_eq_true, if_false, ite_self]

end

/-- A domain's lost shards in a state in which more than one witness must hold a record. -/
theorem State.loseShards_staysQuiet (s : State) (gone goneMirror : Nat → Nat → Bool) (split : Bool) (hf : 1 ≤ faultsBorne s) (h : s.quiet) :
    StaysQuiet s (s.loseShards gone goneMirror split) := by
  unfold State.loseShards
  split
  · exact .refl s
  · refine List.foldlRecOn (motive := StaysQuiet s) _ _ (.refl s) fun t ht p _ => ht.trans ?_
    exact t.loseIn_staysQuiet gone goneMirror split p (ht.faults.symm ▸ hf) (ht.quiet h)

/-! ### Silence and partition (R311, R315) -/

theorem State.haltFeeders_halts (s : State) {p k : Nat} (hp : p ∈ ledgerParts s) (hk : k ∈ groupParts s p) (hm : (s.part k).marks = true) :
    (s.haltFeeders.ctlOf k).haltAtStepStart = true := by
  have one (t : State) (j : Nat) (h : (t.ctlOf k).haltAtStepStart = true ∨ j = k) (ht : t.parts = s.parts) :
      ((if (t.part j).marks then t.setCtl j { t.ctlOf j with haltAtStepStart := true } else t).ctlOf k).haltAtStepStart = true := by
    split
    · by_cases hj : k = j
      · subst hj
        exact congrArg PartControl.haltAtStepStart (tget_tput_same ({} : PartControl) t.ctl k _)
      · exact (congrArg PartControl.haltAtStepStart (tget_tput_ne ({} : PartControl) t.ctl j k _ hj)).trans (h.resolve_right (Ne.symm hj))
    · next hn =>
      refine h.resolve_right fun hj => hn ?_
      rw [State.part, ht, hj]
      exact hm
  have parts (t : State) (l : List Nat) : (l.foldl (fun (u : State) k =>
      if (u.part k).marks then u.setCtl k { u.ctlOf k with haltAtStepStart := true } else u) t).parts = t.parts :=
    List.foldlRecOn (motive := fun u : State => u.parts = t.parts) _ _ rfl fun u hu j _ => by split <;> exact hu
  have inner (l : List Nat) (t : State) (h : (t.ctlOf k).haltAtStepStart = true ∨ k ∈ l) (ht : t.parts = s.parts) :
      ((l.foldl (fun (u : State) k => if (u.part k).marks then u.setCtl k { u.ctlOf k with haltAtStepStart := true } else u) t).ctlOf k).haltAtStepStart
        = true := by
    induction l generalizing t with
    | nil => exact h.resolve_right List.not_mem_nil
    | cons j l ih =>
      refine ih _ ?_ ((parts t [j]).trans ht)
      rcases h with h | h
      · exact .inl (one t j (.inl h) ht)
      · rcases List.mem_cons.mp h with h | h
        · exact .inl (one t j (.inr h.symm) ht)
        · exact .inr h
  have groups (t : State) (ht : t.parts = s.parts) (p : Nat) : groupParts t p = groupParts s p := by
    simp only [groupParts, groupOf, State.part, ht]
  have outer (l : List Nat) (t : State) (h : (t.ctlOf k).haltAtStepStart = true ∨ p ∈ l) (ht : t.parts = s.parts) :
      ((l.foldl (fun (t : State) p => (groupParts t p).foldl (fun (u : State) k =>
        if (u.part k).marks then u.setCtl k { u.ctlOf k with haltAtStepStart := true } else u) t) t).ctlOf k).haltAtStepStart = true := by
    induction l generalizing t with
    | nil => exact h.resolve_right List.not_mem_nil
    | cons j l ih =>
      refine ih _ ?_ ((parts t _).trans ht)
      rcases h with h | h
      · exact .inl (inner _ t (.inl h) ht)
      · rcases List.mem_cons.mp h with h | h
        · exact .inl (inner _ t (.inr (by rw [← h, groups t ht]; exact hk)) ht)
        · exact .inr h
  exact outer _ s (.inr hp) rfl

/-! ### Rejoin (R317) -/

/-- A tensor with its committed versions alone. -/
def Tensor.committedOnly (x : Tensor) : Tensor := { x with versions := x.versions.filter (fun v => v.committed) }

theorem Tensor.committedOnly_committedOnly (x : Tensor) : x.committedOnly.committedOnly = x.committedOnly := by
  simp [Tensor.committedOnly, List.filter_filter]

/-- What was not committed is dropped from every tensor that the domains of L name, and their exchanges and runs are at rest. -/
structure Discarded (s u : State) (L : List Nat) : Prop where
  frame : u = { s with tensors := u.tensors, opt := { s.opt with runs := u.opt.runs }, ledger := { s.ledger with exchange := u.ledger.exchange } }
  runs : ∀ p, p ∉ L → u.run p = s.run p
  idle : ∀ p ∈ L, (u.run p).phase = 0 ∧ ∀ k, k < 4 → u.exchange p k = {}
  tensor : ∀ tid, u.tensor tid = s.tensor tid ∨ u.tensor tid = (s.tensor tid).committedOnly
  named : ∀ p ∈ L, ∀ tid ∈ domainTensors s p, u.tensor tid = (s.tensor tid).committedOnly
  records : ∀ tid r, u.recOf tid = some r → s.recOf tid = some r

theorem State.setTensor_committedOnly_recOf (u : State) (tid j : Nat) (r : BitVec 512)
    (h : (u.setTensor tid (u.tensor tid).committedOnly).recOf j = some r) : u.recOf j = some r := by
  by_cases hj : j = tid
  · subst hj
    cases ht : tfind u.tensors j with
    | none =>
      have hx : u.tensor j = {} := by rw [State.tensor, tget, ht]; rfl
      have hrec : (u.setTensor j (u.tensor j).committedOnly).recOf j = none := by
        rw [hx]
        simp only [State.setTensor, State.recOf, tput, Tensor.committedOnly, List.filter_nil, if_true, tfind_tdel, Option.map_none]
      rw [hrec] at h
      cases h
    | some x =>
      have hx : u.tensor j = x := by rw [State.tensor, tget, ht]; rfl
      rw [hx] at h
      simp only [State.recOf, ht, Option.map_some]
      simp only [State.recOf, State.setTensor, tput] at h
      split at h
      · simp [tfind_tdel] at h
      · simpa [tfind_tset, Tensor.committedOnly] using h
  · rw [← h]
    simp only [State.recOf, State.setTensor, tfind_tput_ne _ _ _ hj]

/-- The tensors of a list, each with its committed versions alone. -/
def State.keepCommitted (s : State) (l : List Nat) : State :=
  l.foldl (fun (u : State) tid => u.setTensor tid (u.tensor tid).committedOnly) s

theorem State.keepCommitted_keeps (l : List Nat) (s : State) :
    s.keepCommitted l = { s with tensors := (s.keepCommitted l).tensors }
    ∧ (∀ tid, (s.keepCommitted l).tensor tid = if tid ∈ l then (s.tensor tid).committedOnly else s.tensor tid)
    ∧ ∀ tid r, (s.keepCommitted l).recOf tid = some r → s.recOf tid = some r := by
  induction l generalizing s with
  | nil => exact ⟨rfl, fun _ => by simp [State.keepCommitted], fun _ _ h => h⟩
  | cons k l ih =>
    obtain ⟨hf, ht, hr⟩ := ih (s.setTensor k (s.tensor k).committedOnly)
    refine ⟨hf, fun tid => ?_, fun tid r h => s.setTensor_committedOnly_recOf k tid r (hr tid r h)⟩
    refine (ht tid).trans ?_
    by_cases hk : tid = k
    · subst hk
      have hx : (s.setTensor tid (s.tensor tid).committedOnly).tensor tid = (s.tensor tid).committedOnly := tget_tput_same ..
      rw [hx]
      simp [Tensor.committedOnly_committedOnly]
    · have hx : (s.setTensor k (s.tensor k).committedOnly).tensor tid = s.tensor tid := tget_tput_ne _ _ _ _ _ hk
      rw [hx]
      simp [hk]

/-- A tensor that a domain names is still one that it names, or it has gone whole, for it had no committed version. -/
theorem Discarded.domain_or_gone {s u : State} {L : List Nat} (h : Discarded s u L) {p tid : Nat} (hp : p ∉ L) (ht : tid ∈ domainTensors s p) :
    tid ∈ domainTensors u p ∨ u.tensor tid = {} := by
  have hrun := h.runs p hp
  have hup : u.updating p = s.updating p := by rw [State.updating, hrun]; rfl
  simp only [domainTensors] at ht ⊢
  rw [hup, hrun]
  split at ht
  · next hc => exact .inl (by rw [if_pos hc]; exact ht)
  · next hc =>
    rw [if_neg hc]
    cases hf : tfind u.tensors tid with
    | none => exact .inr (by rw [State.tensor, tget, hf]; rfl)
    | some x =>
      refine .inl (List.mem_filter.mpr ⟨mem_keys_iff.mpr (by simp [hf]), ?_⟩)
      have hu : u.recOf tid = some x.record := by rw [State.recOf, hf]; rfl
      have hs := h.records tid _ hu
      have hn := (List.mem_filter.mp ht).2
      have hparts : u.parts = s.parts := (congrArg State.parts h.frame :)
      have hopt : u.opt.tensors = s.opt.tensors := (congrArg (fun y : State => y.opt.tensors) h.frame :)
      have hcfg : u.sivar.config = s.sivar.config := (congrArg (fun y : State => y.sivar.config) h.frame :)
      simpa only [domainNames, State.trained, State.ruleOf, hu, hs, State.groupRec, State.cfgBytes, hopt, hcfg, groupParts, groupOf, namesTensor,
        State.part, hparts] using hn

/-- The exchanges of a domain in the quays of a list, at rest. -/
def State.clearExchanges (s : State) (p : Nat) (l : List Nat) : State := l.foldl (fun (u : State) k => u.setExchange p k {}) s

theorem State.clearExchanges_clears (p : Nat) (l : List Nat) (s : State) :
    s.clearExchanges p l = { s with ledger := { s.ledger with exchange := (s.clearExchanges p l).ledger.exchange } }
    ∧ (∀ k ∈ l, tget {} (s.clearExchanges p l).ledger.exchange (4 * p + k) = {})
    ∧ ∀ j, tget {} s.ledger.exchange j = {} → tget {} (s.clearExchanges p l).ledger.exchange j = {} := by
  induction l generalizing s with
  | nil => exact ⟨rfl, fun k hk => absurd hk List.not_mem_nil, fun j hj => hj⟩
  | cons k l ih =>
    obtain ⟨hf, hc, hk⟩ := ih (s.setExchange p k {})
    refine ⟨hf, fun j hj => ?_, fun j hj => hk j ?_⟩
    · rcases List.mem_cons.mp hj with rfl | hin
      · exact hk _ (tget_tput_same ({} : Exchange) s.ledger.exchange (4 * p + j) {})
      · exact hc j hin
    · refine (tget_tput ({} : Exchange) s.ledger.exchange (4 * p + k) j {}).trans ?_
      split
      · rfl
      · exact hj

theorem State.discardStep_eq (s : State) (p : Nat) : s.discardStep p =
    (((s.keepCommitted (domainTensors s p)).clearExchanges p (List.range 4)).setRun p
      { ((s.keepCommitted (domainTensors s p)).clearExchanges p (List.range 4)).run p with phase := 0, par := [] }) := rfl

/-- A domain's step is dropped: what was not committed, the exchanges, and the run's place. -/
theorem State.discardStep_discards (s : State) (p : Nat) :
    (s.discardStep p = { s with tensors := (s.discardStep p).tensors, opt := { s.opt with runs := (s.discardStep p).opt.runs }
                                ledger := { s.ledger with exchange := (s.discardStep p).ledger.exchange } })
    ∧ (∀ j, (s.discardStep p).run j = if j = p then { s.run p with phase := 0, par := [] } else s.run j)
    ∧ (∀ tid, (s.discardStep p).tensor tid = if tid ∈ domainTensors s p then (s.tensor tid).committedOnly else s.tensor tid)
    ∧ (∀ tid r, (s.discardStep p).recOf tid = some r → s.recOf tid = some r)
    ∧ (∀ k, k < 4 → (s.discardStep p).exchange p k = {})
    ∧ ∀ j k, s.exchange j k = {} → (s.discardStep p).exchange j k = {} := by
  obtain ⟨hf, ht, hr⟩ := State.keepCommitted_keeps (domainTensors s p) s
  rw [s.discardStep_eq p]
  obtain ⟨u, hu⟩ : ∃ u, s.keepCommitted (domainTensors s p) = u := ⟨_, rfl⟩
  rw [hu] at hf ht hr ⊢
  obtain ⟨hc, hx, hk⟩ := State.clearExchanges_clears p (List.range 4) u
  obtain ⟨c, hcu⟩ : ∃ c, u.clearExchanges p (List.range 4) = c := ⟨_, rfl⟩
  rw [hcu] at hc hx hk ⊢
  have htens : c.tensors = u.tensors := (congrArg State.tensors hc :)
  have hopt : c.opt = s.opt := (congrArg State.opt hc :).trans (congrArg State.opt hf :)
  have hex : u.ledger.exchange = s.ledger.exchange := (congrArg (fun y : State => y.ledger.exchange) hf :)
  have hrun (j : Nat) : c.run j = s.run j := by simp only [State.run, hopt]
  have hframe : c = { s with tensors := c.tensors, ledger := { s.ledger with exchange := c.ledger.exchange } } := by
    rw [htens]
    exact hc.trans (congrArg (fun y : State => { y with ledger := { y.ledger with exchange := c.ledger.exchange } }) hf :)
  refine ⟨?_, fun j => ?_, fun tid => ?_, fun tid r h => ?_, fun k h => ?_, fun j k h => ?_⟩
  · generalize ({ c.run p with phase := 0, par := [] } : UpdateRun) = r
    exact (congrArg (fun y : State => y.setRun p r) hframe :).trans (by simp only [State.setRun, hopt])
  · rw [← hrun p, ← hrun j]
    exact tget_tput ({} : UpdateRun) c.opt.runs p j _
  · rw [← ht]
    exact congrArg (tget ({} : Tensor) · tid) htens
  · refine hr tid r ?_
    rw [← h]
    exact congrArg (fun m : Tbl Tensor => (tfind m tid).map fun x => x.record) htens.symm
  · exact hx k (List.mem_range.mpr h)
  · refine hk _ ?_
    rw [hex]
    exact h

theorem Discarded.step {s u : State} {L : List Nat} (h : Discarded s u L) (p : Nat) : Discarded s (u.discardStep p) (p :: L) := by
  obtain ⟨hfr, hrun, hten, hrec, hclear, hkeep⟩ := u.discardStep_discards p
  obtain ⟨v, hv⟩ : ∃ v, u.discardStep p = v := ⟨_, rfl⟩
  rw [hv] at hfr hrun hten hrec hclear hkeep ⊢
  have only (tid : Nat) (hc : u.tensor tid = (s.tensor tid).committedOnly) : v.tensor tid = (s.tensor tid).committedOnly := by
    rw [hten, hc]
    split
    · exact Tensor.committedOnly_committedOnly _
    · rfl
  have hframe : v = { s with tensors := v.tensors, opt := { s.opt with runs := v.opt.runs }, ledger := { s.ledger with exchange := v.ledger.exchange } } := by
    have hopt : u.opt = { s.opt with runs := u.opt.runs } := (congrArg State.opt h.frame :)
    have hled : u.ledger = { s.ledger with exchange := u.ledger.exchange } := (congrArg State.ledger h.frame :)
    rw [hopt, hled] at hfr
    exact hfr.trans (congrArg (fun y : State => { y with tensors := v.tensors, opt := { s.opt with runs := v.opt.runs }, ledger := { s.ledger with exchange := v.ledger.exchange } }) h.frame :)
  refine ⟨hframe, fun j hj => ?_, fun j hj => ?_, fun tid => ?_, fun j hj tid htid => ?_, fun tid r hr => h.records tid r (hrec tid r hr)⟩
  · rw [List.mem_cons, not_or] at hj
    rw [hrun, if_neg hj.1]
    exact h.runs j hj.2
  · refine ⟨?_, fun k hk => ?_⟩
    · rw [hrun]
      split
      · rfl
      · next hn => exact (h.idle j ((List.mem_cons.mp hj).resolve_left hn)).1
    · rcases List.mem_cons.mp hj with rfl | hin
      · exact hclear k hk
      · exact hkeep j k ((h.idle j hin).2 k hk)
  · rcases h.tensor tid with hs | hs
    · rw [hten, hs]
      split
      · exact .inr rfl
      · exact .inl rfl
    · exact .inr (only tid hs)
  · by_cases hin : j ∈ L
    · exact only tid (h.named j hin tid htid)
    · obtain rfl := (List.mem_cons.mp hj).resolve_right hin
      rcases h.domain_or_gone hin htid with hd | hd
      · rw [hten, if_pos hd]
        rcases h.tensor tid with hs | hs <;> rw [hs]
        exact Tensor.committedOnly_committedOnly _
      · refine only tid (hd.trans ?_)
        rcases h.tensor tid with hs | hs
        · rw [← hs, hd]
          rfl
        · rw [← hs, hd]

theorem Discarded.refl (s : State) : Discarded s s [] :=
  ⟨rfl, fun _ _ => rfl, fun _ h => absurd h List.not_mem_nil, fun _ => .inl rfl, fun _ h => absurd h List.not_mem_nil, fun _ _ h => h⟩

theorem Discarded.foldl {s u : State} {L : List Nat} (h : Discarded s u L) (l : List Nat) :
    Discarded s (l.foldl (fun (t : State) p => t.discardStep p) u) (l.reverse ++ L) := by
  induction l generalizing u L with
  | nil => exact h
  | cons p l ih =>
    rw [List.reverse_cons, List.append_assoc]
    exact ih (h.step p)

/-- Asking the holders for copies is all packets. -/
theorem State.askHolder_frame (s : State) (p n : Nat) : s.askHolder p n =
    { s with fabric := (s.askHolder p n).fabric, ledger := { s.ledger with rejectsReceived := (s.askHolder p n).ledger.rejectsReceived } } := by
  unfold State.askHolder
  dsimp only
  split
  · rfl
  · simp only [State.sendPacket]
    split <;> rfl

theorem State.askHolders_frame (l : List (Nat × Nat)) (s : State) : ∃ x n, l.foldl (fun (t : State) e => t.askHolder e.1 e.2) s =
    { s with fabric := x, ledger := { s.ledger with rejectsReceived := n } } := by
  induction l generalizing s with
  | nil => exact ⟨s.fabric, s.ledger.rejectsReceived, rfl⟩
  | cons e l ih =>
    obtain ⟨x, n, h⟩ := ih (s.askHolder e.1 e.2)
    refine ⟨x, n, h.trans ?_⟩
    rw [s.askHolder_frame e.1 e.2]

/-- The role map of a later term as far as a module has it: the ledger's roles are all that it changes. -/
theorem State.hearRoles_frame (s : State) (term : Nat) : s.hearRoles term =
    { s with ledger := { s.ledger with roles := (s.hearRoles term).ledger.roles, roleMap := (s.hearRoles term).ledger.roleMap } } := by
  unfold State.hearRoles
  split <;> rfl

/-- A quay's journal in a rejoin: with shards that have moved, the records known to be committed alone stay. -/
def Witness.rejoined (x : Witness) (term : Nat) (whole : Bool) (known : List LedgerRecord) : Witness :=
  { x with candidate := false, term := max x.term term
           journal := if whole then x.journal else x.journal.filter (fun r => decide (r ∈ known)) }

/-- What a rejoin leaves of the ledger before quays speak again. -/
def State.rejoined (s t : State) (term : Nat) (copies : List (Nat × Nat)) : State :=
  { t with ledger := { t.ledger with
    term := term, state := if copies.isEmpty then 2 else 5, resyncing := copies, proposed := []
    dones := if copies.isEmpty then t.ledger.dones else []
    lastHm := (List.range 4).map (fun k => (k, s.now)), silent := []
    heard := if copies.isEmpty then t.ledger.heard else []
    witnesses := t.ledger.witnesses.map (fun e => (e.1, e.2.rejoined term copies.isEmpty s.ledger.records)) } }

/-- The state of a module that drops the shards that have moved and asks for copies. -/
def State.dropMoved (s : State) (moved : List (Nat × Nat)) : State :=
  ((moved.map (fun e => e.1)).eraseDups).foldl (fun (t : State) p => t.discardStep p) (moved.foldl (fun (t : State) e => t.askHolder e.1 e.2) s)

theorem exec_rejoin {s : State} {q term : Nat} (hq : q < 4) (ht : s.ledger.term < term) (hs : s.ledger.state = 3 ∨ s.ledger.state = 4) :
    exec (.rejoin q term) s = .next
      (if ((movedShards (s.hearRoles term)).map (fun e => (e.2 % 4, e.2))).isEmpty then
        s.ledger.silent.foldl (fun (t : State) k => t.speakAgain k)
          (s.rejoined ((s.hearRoles term).dropMoved (movedShards (s.hearRoles term))) term ((movedShards (s.hearRoles term)).map (fun e => (e.2 % 4, e.2))))
      else s.rejoined ((s.hearRoles term).dropMoved (movedShards (s.hearRoles term))) term ((movedShards (s.hearRoles term)).map (fun e => (e.2 % 4, e.2)))) :=
  (if_pos hq).trans (congrArg Host.Outcome.next (if_neg (by omega)))

theorem State.rejoined_journal (s t : State) (term : Nat) (copies : List (Nat × Nat)) (w : Nat) :
    ((s.rejoined t term copies).witness w).journal = if copies.isEmpty then (t.witness w).journal
      else (t.witness w).journal.filter (fun r => decide (r ∈ s.ledger.records)) := by
  have h : (s.rejoined t term copies).witness w =
      ((tfind t.ledger.witnesses w).map (fun x => x.rejoined term copies.isEmpty s.ledger.records)).getD {} :=
    congrArg (fun o : Option Witness => o.getD {})
      (tfind_map_snd (fun x : Witness => x.rejoined term copies.isEmpty s.ledger.records) t.ledger.witnesses w)
  rw [h, State.witness, tget]
  cases tfind t.ledger.witnesses w with
  | none => split <;> rfl
  | some x => rfl

theorem State.dropMoved_nil (s : State) : s.dropMoved [] = s := rfl

/-- Shards that have moved: their domains are at rest without what was not committed, and nothing else but packets changes. -/
theorem State.dropMoved_discards (s : State) (moved : List (Nat × Nat)) : ∃ v L, Discarded v (s.dropMoved moved) L ∧ (∀ e ∈ moved, e.1 ∈ L)
    ∧ ∃ x n, v = { s with fabric := x, ledger := { s.ledger with rejectsReceived := n } } := by
  obtain ⟨x, n, hv⟩ := State.askHolders_frame moved s
  refine ⟨_, _, (Discarded.refl _).foldl _, fun e he => ?_, x, n, hv⟩
  simp only [List.append_nil, List.mem_reverse, List.mem_eraseDups, List.mem_map]
  exact ⟨e, he, rfl⟩

/-! ### Copies of a shard (R317) -/

/-- A copy of a shard brings its optimizer state, its versions and its count of committed steps, which only grows. -/
structure ShardCopied (s t : State) : Prop where
  frame : t = { s with ledger := { s.ledger with committed := t.ledger.committed }, opt := t.opt, tensors := t.tensors, freeCtr := t.freeCtr }
  committed : ∀ l, committedNext s l ≤ committedNext t l

namespace ShardCopied

variable {s t u : State}

theorem refl (s : State) : ShardCopied s s := ⟨rfl, fun _ => Nat.le_refl _⟩

theorem trans (a : ShardCopied s t) (b : ShardCopied t u) : ShardCopied s u :=
  ⟨b.frame.trans (congrArg (fun y : State => { y with
      ledger := { y.ledger with committed := u.ledger.committed }, opt := u.opt, tensors := u.tensors, freeCtr := u.freeCtr }) a.frame :),
    fun l => (a.committed l).trans (b.committed l)⟩

theorem foldl {α : Type} {f : State → α → State} (hf : ∀ t a, ShardCopied t (f t a)) (l : List α) (s : State) : ShardCopied s (l.foldl f s) :=
  List.foldlRecOn (motive := fun t => ShardCopied s t) l f (refl s) fun t ht a _ => ht.trans (hf t a)

end ShardCopied

/-- The optimizer state and the tensors take a copy; the ledger counts it apart. -/
def CopyTaken (s t : State) : Prop := t = { s with opt := t.opt, tensors := t.tensors, freeCtr := t.freeCtr }

theorem CopyTaken.trans {s t u : State} (a : CopyTaken s t) (b : CopyTaken t u) : CopyTaken s u :=
  Eq.trans b (congrArg (fun y : State => { y with opt := u.opt, tensors := u.tensors, freeCtr := u.freeCtr }) a :)

theorem CopyTaken.foldl {α : Type} {f : State → α → State} (hf : ∀ t a, CopyTaken t (f t a)) (l : List α) (s : State) : CopyTaken s (l.foldl f s) :=
  List.foldlRecOn (motive := fun t => CopyTaken s t) l f rfl fun t ht a _ => CopyTaken.trans ht (hf t a)

section
variable (s : State) (p n : Nat)

theorem State.setOptOf_taken (k : Nat) (o : OptState) : CopyTaken s (s.setOptOf k o) := rfl
theorem State.setTensor_taken (k : Nat) (x : Tensor) : CopyTaken s (s.setTensor k x) := rfl
theorem State.bump_taken : CopyTaken s s.bump := rfl

theorem State.takeShard_taken : CopyTaken s (s.takeShard p n) := CopyTaken.foldl (fun t _ => t.setOptOf_taken _ _) _ s

theorem State.freeShard_taken : CopyTaken s (s.freeShard p n) :=
  ((((CopyTaken.foldl (fun t _ => t.setOptOf_taken _ _) _ s).trans (State.bump_taken _)).trans (State.bump_taken _)).trans
    (State.bump_taken _)).trans (State.bump_taken _)

theorem State.copyWindow_taken (m : Nat) : CopyTaken s (s.copyWindow p n m) := CopyTaken.foldl (fun t _ => t.setTensor_taken _ _) _ s

theorem State.copyShard_copies : ShardCopied s (s.copyShard p n) := by
  unfold State.copyShard
  split
  · have h := s.takeShard_taken p n
    obtain ⟨t, ht⟩ : ∃ t, s.takeShard p n = t := ⟨_, rfl⟩
    rw [ht] at h ⊢
    have hl : t.ledger = s.ledger := (congrArg State.ledger h :)
    exact ⟨by rw [hl]; exact h, fun l => by rw [committedNext, committedNext, hl]⟩
  · have h := (s.freeShard_taken p n).trans (State.copyWindow_taken (s.freeShard p n) p n (resyncNext s p))
    unfold State.fetchShard
    dsimp only
    obtain ⟨t, ht⟩ : ∃ t, (s.freeShard p n).copyWindow p n (resyncNext s p) = t := ⟨_, rfl⟩
    rw [ht] at h ⊢
    have hl : t.ledger = s.ledger := (congrArg State.ledger h :)
    generalize ({ t.run p with phase := 0, done := decide (0 < resyncNext s p), step := resyncNext s p - 1 } : UpdateRun) = r
    refine ⟨?_, fun l => ?_⟩
    · simp only [State.setRun, hl]
      exact (congrArg (fun y : State => { y with
        opt := { t.opt with runs := tput {} t.opt.runs p r }
        ledger := { s.ledger with committed := tset s.ledger.committed (ledgerOf s p) (resyncNext s p) } }) h :)
    · have hc : committedNext { t.setRun p r with ledger := { (t.setRun p r).ledger with
            committed := tset (t.setRun p r).ledger.committed (ledgerOf s p) (resyncNext s p) } } l =
          if l = ledgerOf s p then resyncNext s p else tget 0 t.ledger.committed l := tget_tset 0 t.ledger.committed (ledgerOf s p) l _
      rw [hc]
      split
      · next hn =>
        subst hn
        exact Nat.le_add_right _ _
      · rw [hl]
        exact Nat.le_refl _

end

/-! ### The harbour master misses a member (R311) -/

theorem State.ledgerHalt_halts (s : State) (st : Nat) {p k : Nat} (hp : p ∈ ledgerParts s) (hk : k ∈ groupParts s p) (hm : (s.part k).marks = true) :
    ((s.ledgerHalt st).ctlOf k).haltAtStepStart = true := by
  have hlay : SameLayout s { s with ledger := { s.ledger with state := st } } := ⟨rfl, rfl, rfl, rfl, rfl⟩
  have h := State.haltFeeders_halts { s with ledger := { s.ledger with state := st } } (hlay.ledgerParts.symm ▸ hp) ((hlay.groupParts p).symm ▸ hk) hm
  unfold State.ledgerHalt
  dsimp only
  rw [State.event_frame]
  exact h

theorem State.ledgerHalt_logs (s : State) (st : Nat) : Logged s (s.ledgerHalt st) sevFault evLedgerHalt (tableId s) st := by
  unfold State.ledgerHalt
  dsimp only
  have hf := State.haltFeeders_frame { s with ledger := { s.ledger with state := st } }
  obtain ⟨a, ha⟩ : ∃ a, State.haltFeeders { s with ledger := { s.ledger with state := st } } = a := ⟨_, rfl⟩
  rw [ha] at hf ⊢
  exact logged_event_of (congrArg State.log hf :) (congrArg State.mc hf :) (congrArg (fun y : State => y.cfg 0x8000 3) hf :) _ _ _ _

/-- The harbour master counts a quay as lost, at the time it would have answered by. -/
def State.missed (s : State) (module quay time : Nat) : State :=
  { s.advance time with ledger := { s.ledger with lost := s.ledger.lost ++ [(module, quay)] } }

/-- When the harbour master last heard a quay. -/
def State.lastHeard (s : State) (module quay : Nat) : Nat :=
  match s.ledger.lastAnswer.find? (fun e => e.1 == module && e.2.1 == quay) with | some e => e.2.2 | none => 0

theorem State.missed_layout (s : State) (module quay time : Nat) : SameLayout s (s.missed module quay time) := ⟨rfl, rfl, rfl, rfl, rfl⟩

/-- The record of a role map. -/
def State.rolesRecord (s : State) (p : Nat) (roles : List (Nat × Nat × Nat × Bool)) : LedgerRecord :=
  { ledger := ledgerOf s p, kind := 2, step := committedNext s (ledgerOf s p) - 1, term := s.ledger.term, roleMap := s.ledger.roleMap + 1
    g2 := 0, flags := 0, entries := [], digest := 0, roles := roles }

/-- The record of a rollback to a checkpoint. -/
def State.rollbackRecord (s : State) (p c : Nat) : LedgerRecord :=
  { ledger := ledgerOf s p, kind := 4, step := c, term := s.ledger.term, roleMap := s.ledger.roleMap
    g2 := 0, flags := 0, entries := [], digest := 0, roles := [] }

/-- No step record is proposed any more. -/
def State.forgetSteps (s : State) : State :=
  { s with ledger := { s.ledger with proposed := s.ledger.proposed.filter (fun e => e.1.kind != 1) } }

/-- The first domain alone, where there is no other. -/
theorem State.loseShards_one {s : State} {p : Nat} (h : ledgerParts s = [p]) (gone goneMirror : Nat → Nat → Bool) (split : Bool)
    (hh : hmHere s = true) : s.loseShards gone goneMirror split = s.loseIn gone goneMirror split p := by
  rw [State.loseShards_eq _ _ _ _ hh, h]
  rfl

theorem State.loseShards_none {s : State} {gone goneMirror : Nat → Nat → Bool}
    (h : ∀ p ∈ ledgerParts s, ∀ n ∈ liveShards s p, gone p n = false ∧ goneMirror p n = false) (split : Bool) :
    s.loseShards gone goneMirror split = s := by
  unfold State.loseShards
  split
  · rfl
  · exact List.foldlRecOn (motive := fun t => t = s) _ _ rfl fun t ht p hp => by rw [ht]; exact State.loseIn_of_none (h p hp)

theorem State.loseShards_aroundLedger (s : State) (gone goneMirror : Nat → Nat → Bool) (split : Bool) :
    (s.loseShards gone goneMirror split).aroundLedger = s.aroundLedger := by
  unfold State.loseShards
  split
  · rfl
  · exact foldl_aroundLedger (fun t p => t.loseIn_aroundLedger gone goneMirror split p) _ s

theorem exec_memberLost {s : State} {module quay : Nat} (hh : hmHere s = true) (hl : (module, quay) ∉ s.ledger.lost) :
    exec (.memberLost module quay) s = .next ((s.missed module quay (s.lastHeard module quay + 15000000)).loseShards
      (fun p n => holderOf s p n == (module, quay)) (fun p n => decide ((module, quay) ∈ copyQuays s p n))
      (Config.freeNat s.freeCtr (2 ^ 22 + 8) % 2 == 1)).bump := by
  have hlay := s.missed_layout module quay (s.lastHeard module quay + 15000000)
  refine congrArg Host.Outcome.next ((if_neg (by simp [hh, hl])).trans ?_)
  have h1 : (fun p n => holderOf s p n == (module, quay)) =
      fun p n => holderOf (s.missed module quay (s.lastHeard module quay + 15000000)) p n == (module, quay) := by
    funext p n
    rw [hlay.holderOf rfl]
  have h2 : (fun p n => decide ((module, quay) ∈ copyQuays s p n)) =
      fun p n => decide ((module, quay) ∈ copyQuays (s.missed module quay (s.lastHeard module quay + 15000000)) p n) := by
    funext p n
    rw [hlay.copyQuays rfl]
  rw [h1, h2]
  rfl

/-- A shard whose copy is complete is a valid mirror. -/
def State.resynced (s : State) (q shard : Nat) (t : State) : State :=
  { t with ledger := { t.ledger with
    resyncing := s.ledger.resyncing.filter (fun e => e != (q, shard))
    state := if (s.ledger.resyncing.filter (fun e => e != (q, shard))).isEmpty then 2 else 5
    mirrorInvalid := t.ledger.mirrorInvalid.filter (· != shard)
    roles := t.ledger.roles.map (fun r => if r.1 = shard then (r.1, r.2.1, r.2.2.1, true) else r) } }

/-- A rejoin drops what was not committed of the domains whose shards have moved. -/
theorem State.dropMoved_drops (s : State) (term : Nat) (moved : List (Nat × Nat)) :
    ((s.hearRoles term).dropMoved moved = { s with
      tensors := ((s.hearRoles term).dropMoved moved).tensors, opt := ((s.hearRoles term).dropMoved moved).opt
      fabric := ((s.hearRoles term).dropMoved moved).fabric
      ledger := { s.ledger with
        exchange := ((s.hearRoles term).dropMoved moved).ledger.exchange
        rejectsReceived := ((s.hearRoles term).dropMoved moved).ledger.rejectsReceived
        roles := (s.hearRoles term).ledger.roles, roleMap := (s.hearRoles term).ledger.roleMap } })
    ∧ ∀ e ∈ moved, (((s.hearRoles term).dropMoved moved).run e.1).phase = 0
      ∧ (∀ k, k < 4 → ((s.hearRoles term).dropMoved moved).exchange e.1 k = {})
      ∧ ∀ tid ∈ domainTensors s e.1, (((s.hearRoles term).dropMoved moved).tensor tid).versions =
          (s.tensor tid).versions.filter (fun v => v.committed) := by
  have hr := s.hearRoles_frame term
  obtain ⟨h0, hh0⟩ : ∃ h0, s.hearRoles term = h0 := ⟨_, rfl⟩
  rw [hh0] at hr ⊢
  obtain ⟨v, L, hd, hin, x, n, hv⟩ := h0.dropMoved_discards moved
  obtain ⟨d, hdd⟩ : ∃ d, h0.dropMoved moved = d := ⟨_, rfl⟩
  rw [hdd] at hd ⊢
  have hvs : v = { s with fabric := x, ledger := { s.ledger with rejectsReceived := n, roles := h0.ledger.roles, roleMap := h0.ledger.roleMap } } :=
    hv.trans (congrArg (fun y : State => { y with fabric := x, ledger := { y.ledger with rejectsReceived := n } }) hr :)
  have hlay : SameLayout s v := ⟨(congrArg State.parts hvs :), (congrArg State.opt hvs :), (congrArg State.tensors hvs :),
    (congrArg (fun y : State => y.sivar.config) hvs :), (congrArg (fun y : State => y.ledger.membership) hvs :)⟩
  refine ⟨?_, fun e he => ⟨(hd.idle e.1 (hin e he)).1, (hd.idle e.1 (hin e he)).2, fun tid ht => ?_⟩⟩
  · have hdv := hd.frame
    have hdf : d.fabric = x := (congrArg State.fabric hdv :).trans (congrArg State.fabric hvs :)
    have hdr : d.ledger.rejectsReceived = n := (congrArg (fun y : State => y.ledger.rejectsReceived) hdv :).trans
      (congrArg (fun y : State => y.ledger.rejectsReceived) hvs :)
    have hdo : d.opt = { s.opt with runs := d.opt.runs } := (congrArg State.opt hdv :).trans
      (congrArg (fun y : State => { y.opt with runs := d.opt.runs }) hvs :)
    rw [hdf, hdr]
    refine hdv.trans ((congrArg (fun y : State => { y with
      tensors := d.tensors, opt := { y.opt with runs := d.opt.runs }, ledger := { y.ledger with exchange := d.ledger.exchange } }) hvs).trans ?_)
    rw [hdo]
  · rw [hd.named e.1 (hin e he) tid (hlay.domainTensors e.1 ▸ ht)]
    have ht' : v.tensor tid = s.tensor tid := congrArg (tget ({} : Tensor) · tid) hlay.tensors
    rw [ht']
    rfl

/-- Settles O38: the loss of a quay by the cases of `State.loseIn`, silence and partition by their equations, a rejoin by
`State.dropMoved_discards`, and a copy by `State.copyShard_copies`. -/
theorem lostMembersAndRejoins : Obligations.LostMembersAndRejoins := by
  refine ⟨?lost, ?silence, ?partitioned, ?rejoin, ?resync⟩
  case lost =>
    intro s module quay hh hl heard gone goneMirror u split hit
    have hexec := exec_memberLost hh hl
    obtain ⟨m, hm⟩ : ∃ m, s.missed module quay (s.lastHeard module quay + 15000000) = m := ⟨_, rfl⟩
    have hlay : SameLayout s m := hm ▸ s.missed_layout module quay _
    have hlu : SameLayout u m := ⟨hlay.parts, hlay.opt, hlay.tensors, hlay.config, hlay.membership⟩
    have hnow : m.now = max s.now (heard + 15000000) := hm ▸ rfl
    have hmu : m = { u with now := m.now, rtc := m.rtc } := hm ▸ rfl
    rw [hm] at hexec
    clear hm
    have hled : m.ledger = u.ledger := (congrArg State.ledger hmu :)
    have hhere : hmHere m = true := by rw [hmHere, hled, hlay.moduleNumber]; exact hh
    have hpos (w : Nat) (hw : hmPosition s = some w) : hmPosition m = some w := by rw [hmPosition, hled, hlay.witnessList]; exact hw
    have hdrain : m.mc = s.mc := (congrArg State.mc hmu :)
    have hroles := fun p => hlu.rolesAfter (by rw [hled]) (by rw [hled]) (by rw [hled]) p (gone p) (goneMirror p)
    have hcheck := hlay.commonCheckpoint (congrArg State.freeCtr hmu :)
    have hhit (p : Nat) : hit p → (liveShards m p).any (fun n => gone p n || goneMirror p n) = true := fun h => by rw [hlay.liveShards]; exact h
    have hparts := hlay.ledgerParts
    have haround := m.loseShards_aroundLedger gone goneMirror (Config.freeNat s.freeCtr (2 ^ 22 + 8) % 2 == 1)
    obtain ⟨hsq⟩ : Nonempty (1 ≤ faultsBorne m → m.quiet → StaysQuiet m (m.loseShards gone goneMirror (Config.freeNat s.freeCtr (2 ^ 22 + 8) % 2 == 1))) :=
      ⟨m.loseShards_staysQuiet gone goneMirror _⟩
    have hone (p : Nat) (hp : ledgerParts s = [p]) := State.loseShards_one (hparts.trans hp) gone goneMirror
      (Config.freeNat s.freeCtr (2 ^ 22 + 8) % 2 == 1) hhere
    have hnone := fun h => State.loseShards_none (s := m) (gone := gone) (goneMirror := goneMirror) h (Config.freeNat s.freeCtr (2 ^ 22 + 8) % 2 == 1)
    obtain ⟨t, ht⟩ : ∃ t, m.loseShards gone goneMirror (Config.freeNat s.freeCtr (2 ^ 22 + 8) % 2 == 1) = t := ⟨_, rfl⟩
    rw [show m.loseShards _ _ _ = t from ht] at hexec
    rw [ht] at haround hsq hone hnone
    have hfm : faultsBorne m = faultsBorne s := faultsBorne_of_membership hlay.membership
    refine ⟨t.bump, hexec, (congrArg State.now haround :).trans hnow, ?_, ?_, ?_, ?_, ?_, ?_, ?_⟩
    · have : t.ledger.lost = m.ledger.lost := (congrArg (fun y : State => y.ledger.lost) haround :)
      refine (this.trans (congrArg Ledger.lost hled)).symm ▸ (List.mem_append_right _ (List.mem_singleton_self _) : _ ∈ s.ledger.lost ++ [(module, quay)])
    · intro p w roles hp hw hd hh' hr
      refine ⟨m.rolesRecord p roles, ?_, rfl, rfl, (congrArg (fun l : Ledger => l.roleMap + 1) hled : m.ledger.roleMap + 1 = u.ledger.roleMap + 1)⟩
      have : t = m.propose (m.rolesRecord p roles) := (hone p hp).trans (State.loseIn_of_roles (hhit p hh') ((hroles p).trans hr))
      rw [this]
      exact m.propose_sends _ (hpos w hw) (hdrain ▸ hd) hhere
    · intro p w c hp hw hd hh' hr hs hc
      refine ⟨m.rollbackRecord p c, ?_, rfl, rfl⟩
      have : t = m.forgetSteps.propose (m.rollbackRecord p c) :=
        (hone p hp).trans (State.loseIn_of_checkpoint (hhit p hh') ((hroles p).trans hr) (beq_eq_false_iff_ne.mpr hs) ((hcheck p).trans hc))
      rw [this]
      exact m.forgetSteps.propose_sends _ (hpos w hw) (hdrain ▸ hd) hhere
    · intro p hp hh' hr hs
      have : t = m.ledgerHalt 3 := (hone p hp).trans (State.loseIn_of_nothing (hhit p hh') ((hroles p).trans hr)
        (hs.imp beq_iff_eq.mpr fun h => (hcheck p).trans h))
      rw [this]
      exact (congrArg (fun y : State => y.ledger.state) (m.ledgerHalt_frame 3) :)
    · intro h
      have : t = m := hnone fun p hp n hn => h p (hparts ▸ hp) n (hlay.liveShards p ▸ hn)
      rw [this]
      exact (congrArg State.bump hmu :)
    · intro hf hq
      have hqm : m.quiet := fun e he => by rw [hfm]; exact hq e (by rw [hled] at he; exact he)
      exact ((hsq (hfm.symm ▸ hf) hqm).tensors).trans hlay.tensors
    · exact ⟨(congrArg State.parts haround :).trans (congrArg State.parts hmu :), (congrArg State.pad haround :).trans (congrArg State.pad hmu :),
        (congrArg State.dram haround :).trans (congrArg State.dram hmu :), (congrArg State.flash haround :).trans (congrArg State.flash hmu :)⟩
  case silence =>
    intro s q hq
    refine ⟨_, if_pos hq, rfl, mem_addOnce _ _, fun k hk => ?_, rfl⟩
    have hk' : k ∈ addOnce s.ledger.silent q := hk
    unfold addOnce at hk'
    split at hk'
    · exact .inr hk'
    · exact (List.mem_append.mp hk').symm.imp_left List.mem_singleton.mp
  case partitioned =>
    intro s q hq hs
    have hexec : exec (.partitioned q) s = .next ((s.advance (tget 0 s.ledger.lastHm q + 150000000)).ledgerHalt 4) :=
      (if_pos hq).trans (congrArg Host.Outcome.next (if_neg hs))
    obtain ⟨a, ha⟩ : ∃ a, s.advance (tget 0 s.ledger.lastHm q + 150000000) = a := ⟨_, rfl⟩
    have hfa : a = { s with now := a.now, rtc := a.rtc } := ha ▸ rfl
    have hnow : a.now = max s.now (tget 0 s.ledger.lastHm q + 150000000) := ha ▸ rfl
    rw [ha] at hexec
    clear ha
    have hlay : SameLayout s a := ⟨(congrArg State.parts hfa :), (congrArg State.opt hfa :), (congrArg State.tensors hfa :),
      (congrArg (fun y : State => y.sivar.config) hfa :), (congrArg (fun y : State => y.ledger.membership) hfa :)⟩
    have hhalts := fun p k => @State.ledgerHalt_halts a 4 p k
    have hlog := a.ledgerHalt_logs 4
    have hf := a.ledgerHalt_frame 4
    obtain ⟨t, ht⟩ : ∃ t, a.ledgerHalt 4 = t := ⟨_, rfl⟩
    rw [ht] at hf hhalts hlog hexec
    have hn : t.now = a.now := (congrArg State.now hf :)
    have hr : t.rtc = a.rtc := (congrArg State.rtc hf :)
    have hl : t.ledger = { s.ledger with state := 4 } := (congrArg State.ledger hf :).trans (congrArg (fun y : State => { y.ledger with state := 4 }) hfa :)
    refine ⟨t, hexec, hn.trans hnow, hl, fun p hp k hk hm => ?_, ?_, ?_⟩
    · exact hhalts p k (hlay.ledgerParts ▸ hp) (hlay.groupParts p ▸ hk) (hlay.part k ▸ hm)
    · have hid : tableId a = tableId s := congrArg (fun o : Option Membership => match o with | some t => t.ledger | none => 0) hlay.membership
      rw [← hid]
      intro hmc hsev
      have h := hlog ((congrArg (fun y : State => y.mc.restarting) hfa :).trans hmc) (hsev.imp_right fun h => hlay.cfg .. ▸ h)
      rwa [show a.log = s.log from (congrArg State.log hfa :)] at h
    · rw [hn, hr, hl]
      exact hf.trans (congrArg (fun y : State => { y with
        ledger := { y.ledger with state := 4 }, ctl := t.ctl, log := t.log, hosts := t.hosts, sivar := t.sivar }) hfa :)
  case rejoin =>
    intro s q term hq ht hs moved
    have hexec := exec_rejoin hq ht hs
    have hr := s.hearRoles_frame term
    by_cases hmoved : moved = []
    · have hnil : movedShards (s.hearRoles term) = [] := hmoved
      rw [hnil, State.dropMoved_nil, List.map_nil, if_pos List.isEmpty_nil] at hexec
      obtain ⟨h0, hh0⟩ : ∃ h0, s.hearRoles term = h0 := ⟨_, rfl⟩
      rw [hh0] at hexec hr ⊢
      have hj := s.rejoined_journal h0 term []
      have hsum : Summed (s.rejoined h0 term []) (s.ledger.silent.foldl (fun (t : State) k => t.speakAgain k) (s.rejoined h0 term [])) :=
        Summed.foldl (fun t k => t.speakAgain_summed k) _ _
      obtain ⟨t, htt⟩ : ∃ t, s.ledger.silent.foldl (fun (t : State) k => t.speakAgain k) (s.rejoined h0 term []) = t := ⟨_, rfl⟩
      rw [htt] at hsum hexec
      have hl := hsum.ledger
      have hjs (w : Nat) : h0.witness w = s.witness w := (congrArg (fun y : State => tget ({} : Witness) y.ledger.witnesses w) hr :)
      refine ⟨t, hexec, (congrArg Ledger.term hl :), (congrArg Ledger.silent hl :), (congrArg Ledger.proposed hl :), (congrArg Ledger.roles hl :),
        by rw [hmoved]; exact (congrArg Ledger.resyncing hl :), by rw [if_pos hmoved]; exact (congrArg Ledger.state hl :), fun _ => ⟨?_, fun w => ?_⟩,
        fun h => absurd hmoved h, ?_⟩
      · exact (congrArg Ledger.dones hl :).trans (congrArg (fun y : State => y.ledger.dones) hr :)
      · have hw : t.witness w = (s.rejoined h0 term []).witness w := (congrArg (fun l : Ledger => tget ({} : Witness) l.witnesses w) hl :)
        rw [hw, hj w, ← hjs w]
        rfl
      · exact hsum.frame.trans (congrArg (fun y : State => { y with ledger := t.ledger, fabric := t.fabric, opt := t.opt, tensors := t.tensors }) hr :)
    · have hcop : (moved.map (fun e => (e.2 % 4, e.2))).isEmpty = false := by
        rw [List.isEmpty_map]
        exact List.isEmpty_eq_false_iff.mpr hmoved
      rw [if_neg (by rw [show movedShards (s.hearRoles term) = moved from rfl, hcop]; simp)] at hexec
      rw [show movedShards (s.hearRoles term) = moved from rfl] at hexec
      obtain ⟨mv, hmv⟩ : ∃ mv, moved = mv := ⟨_, rfl⟩
      rw [hmv] at hexec hmoved hcop ⊢
      obtain ⟨hd, hdone⟩ := s.dropMoved_drops term mv
      obtain ⟨d, hdd⟩ : ∃ d, (s.hearRoles term).dropMoved mv = d := ⟨_, rfl⟩
      rw [hdd] at hexec hd hdone
      have hj := s.rejoined_journal d term (mv.map (fun e => (e.2 % 4, e.2)))
      obtain ⟨cs, hcs⟩ : ∃ cs, mv.map (fun e => (e.2 % 4, e.2)) = cs := ⟨_, rfl⟩
      rw [hcs] at hexec hcop hj ⊢
      have hne : ¬ cs.isEmpty = true := by rw [hcop]; simp
      refine ⟨_, hexec, rfl, rfl, rfl, (congrArg (fun y : State => y.ledger.roles) hd :), rfl, (if_neg hne).trans (if_neg hmoved).symm,
        fun h => absurd h hmoved, fun _ => ⟨if_neg hne, if_neg hne, hdone, fun w r hwr => ?_⟩, ?_⟩
      · rw [hj w, if_neg hne] at hwr
        exact of_decide_eq_true (List.mem_filter.mp hwr).2
      · exact (congrArg (fun y : State => { y with ledger := (s.rejoined d term cs).ledger }) hd :)
  case resync =>
    intro s q shard hq hin
    have hexec : exec (.resyncDone q shard) s = .next (s.resynced q shard
        ((ledgerParts s).foldl (fun (t : State) p => if shard ∈ liveShards t p then t.copyShard p shard else t) s)) :=
      (if_pos hq).trans (congrArg Host.Outcome.next (if_neg (not_not_intro hin)))
    have hc : ShardCopied s ((ledgerParts s).foldl (fun (t : State) p => if shard ∈ liveShards t p then t.copyShard p shard else t) s) :=
      ShardCopied.foldl (fun t p => by split; exacts [t.copyShard_copies p shard, .refl t]) _ s
    obtain ⟨t, ht⟩ : ∃ t, (ledgerParts s).foldl (fun (t : State) p => if shard ∈ liveShards t p then t.copyShard p shard else t) s = t := ⟨_, rfl⟩
    rw [ht] at hexec hc
    refine ⟨_, hexec, rfl, ?_, ?_, fun r hr h => ?_, fun p _ => hc.committed _, ?_⟩
    · exact if_congr List.isEmpty_iff rfl rfl
    · simp [State.resynced]
    · obtain ⟨r', -, rfl⟩ := List.mem_map.mp hr
      by_cases h' : r'.1 = shard
      · rw [if_pos h']
      · rw [if_neg h'] at h
        exact absurd h h'
    · exact (congrArg (fun y : State => { y with ledger := (s.resynced q shard t).ledger }) hc.frame :)


end Sys2Proof.Machine
end

section
/-! SUPPORT. Shard reports, witness journals, commits and digests (R296, R308-R312). -/

namespace Sys2Proof.Machine

/-! ### The shards of a domain cover its slabs (R297) -/

/-- A domain's list of slabs: of every tensor, its slabs in a row. -/
def slabRow (count : Nat → Nat) (tids : List Nat) : List (Nat × Nat) := tids.flatMap (fun tid => (List.range (count tid)).map (fun j => (tid, j)))

theorem slabRow_head (count : Nat → Nat) (tids : List Nat) {e : Nat × Nat} (h : (slabRow count tids)[0]? = some e) : e.2 = 0 := by
  induction tids with
  | nil => simp [slabRow] at h
  | cons t tids ih =>
    rw [slabRow, List.flatMap_cons, List.getElem?_append] at h
    split at h
    · next hn =>
      rw [List.length_map, List.length_range] at hn
      simp [hn] at h
      rw [← h]
    · next hn =>
      rw [List.length_map, List.length_range] at hn h
      exact ih (by rwa [show 0 - count t = 0 by omega] at h)

/-- From a slab on, the rest of its tensor follows, and then a first slab. -/
theorem slabRow_rest (count : Nat → Nat) (tids : List Nat) {b tid j : Nat} (h : (slabRow count tids)[b]? = some (tid, j)) :
    (∀ i, i < count tid - j → (slabRow count tids)[b + i]? = some (tid, j + i))
      ∧ ∀ e, (slabRow count tids)[b + (count tid - j)]? = some e → e.2 = 0 := by
  induction tids generalizing b with
  | nil => simp [slabRow] at h
  | cons t tids ih =>
    have hcons : slabRow count (t :: tids) = (List.range (count t)).map (fun j => (t, j)) ++ slabRow count tids := List.flatMap_cons
    have hlen : ((List.range (count t)).map (fun j => (t, j))).length = count t := by simp
    rw [hcons] at h ⊢
    by_cases hb : b < count t
    · rw [List.getElem?_append_left (by omega)] at h
      obtain ⟨rfl, rfl⟩ : t = tid ∧ b = j := by simpa [hb] using h
      refine ⟨fun i hi => ?_, fun e he => ?_⟩
      · rw [List.getElem?_append_left (by omega)]
        simp [show b + i < count t by omega]
      · rw [List.getElem?_append_right (by omega), hlen, show b + (count t - b) - count t = 0 by omega] at he
        exact slabRow_head count tids he
    · rw [List.getElem?_append_right (by omega), hlen] at h
      obtain ⟨h1, h2⟩ := ih h
      refine ⟨fun i hi => ?_, fun e he => ?_⟩
      · rw [List.getElem?_append_right (by omega), hlen, show b + i - count t = b - count t + i by omega]
        exact h1 i hi
      · rw [List.getElem?_append_right (by omega), hlen, show b + (count tid - j) - count t = b - count t + (count tid - j) by omega] at he
        exact h2 e he

theorem domainSlabs_eq (s : State) (p : Nat) : domainSlabs s p = slabRow (slabCount s) (domainTensors s p) := rfl

/-- A boundary at the first slab of a tensor stands. -/
theorem alignBound_first (s : State) (p : Nat) {l : List (Nat × Nat)} {b : Nat} (h : ∀ e, l[b]? = some e → e.2 = 0) (hb : b ≤ l.length) :
    alignBound s p l b = b := by
  unfold alignBound
  cases hl : l[b]? with
  | none =>
    have := List.getElem?_eq_none_iff.mp hl
    dsimp only
    omega
  | some e =>
    obtain ⟨tid, j⟩ := e
    dsimp only
    cases blockRowTiles s p tid with
    | none => rfl
    | some t => exact if_pos (.inl (h _ hl))

theorem alignBound_idem (s : State) (p b : Nat) :
    alignBound s p (domainSlabs s p) (alignBound s p (domainSlabs s p) b) = alignBound s p (domainSlabs s p) b := by
  have hrow := domainSlabs_eq s p
  obtain ⟨l, hl⟩ : ∃ l, domainSlabs s p = l := ⟨_, rfl⟩
  rw [hl] at hrow ⊢
  cases hb : l[b]? with
  | none =>
    have h1 : alignBound s p l b = l.length := by rw [alignBound, hb]
    rw [h1]
    exact alignBound_first s p (fun e he => by simp at he) (Nat.le_refl _)
  | some e =>
    obtain ⟨tid, j⟩ := e
    obtain ⟨hin, hnext⟩ := slabRow_rest (slabCount s) (domainTensors s p) (hrow ▸ hb)
    rw [← hrow] at hin hnext
    have hlt : b < l.length := (List.getElem?_eq_some_iff.mp hb).1
    cases ht : blockRowTiles s p tid with
    | none =>
      have h1 : alignBound s p l b = b := by simp only [alignBound, hb, ht]
      rw [h1, h1]
    | some t =>
      by_cases h0 : j = 0 ∨ t = 0
      · have h1 : alignBound s p l b = b := by simp only [alignBound, hb, ht, if_pos h0]
        rw [h1, h1]
      · cases hf : (List.range (slabCount s tid - j)).find? (fun i => (16 * (j + i)) % t == 0) with
        | none =>
          have h1 : alignBound s p l b = b + (slabCount s tid - j) := by simp only [alignBound, hb, ht, if_neg h0, hf]
          rw [h1]
          refine alignBound_first s p hnext ?_
          by_cases hj : slabCount s tid - j = 0
          · omega
          · have := (List.getElem?_eq_some_iff.mp (hin (slabCount s tid - j - 1) (by omega))).1
            omega
        | some i =>
          have h1 : alignBound s p l b = b + i := by simp only [alignBound, hb, ht, if_neg h0, hf]
          have hi : i < slabCount s tid - j := List.mem_range.mp (List.mem_of_find?_eq_some hf)
          have hz := List.find?_some hf
          rw [h1]
          simp only [alignBound, hin i hi, ht]
          split
          · rfl
          · have h0' : (List.range (slabCount s tid - (j + i))).find? (fun k => (16 * (j + i + k)) % t == 0) = some 0 := by
              rw [show slabCount s tid - (j + i) = (slabCount s tid - (j + i) - 1) + 1 by omega, List.range_succ_eq_map, List.find?_cons]
              simp only [Nat.add_zero, hz]
            rw [h0']
            rfl

/-- A boundary that starts at or below a number and ends above it steps over it once. -/
theorem exists_step {f : Nat → Nat} {m k : Nat} (h0 : f 0 ≤ k) (hm : k < f m) : ∃ i, i < m ∧ f i ≤ k ∧ k < f (i + 1) := by
  induction m with
  | zero => omega
  | succ m ih =>
    by_cases h : f m ≤ k
    · exact ⟨m, by omega, h, hm⟩
    · obtain ⟨i, hi, h1⟩ := ih (by omega)
      exact ⟨i, by omega, h1⟩

theorem exists_shardRange (s : State) (p : Nat) {k : Nat} (hk : k < (domainSlabs s p).length) {pl : Place} (hm : 0 < pl.m) (hd : 0 < pl.dd) :
    ∃ i d, i < pl.m ∧ d < pl.dd ∧ (shardRange s p pl i d).1 ≤ k ∧ k < (shardRange s p pl i d).2 := by
  have halign0 : alignBound s p (domainSlabs s p) 0 = 0 :=
    alignBound_first s p (fun e he => slabRow_head _ _ (domainSlabs_eq s p ▸ he)) (Nat.zero_le _)
  have hidem := alignBound_idem s p
  obtain ⟨i, hi, h1, h2⟩ := exists_step (k := k) (m := pl.m)
    (f := fun i => if i = pl.m then (domainSlabs s p).length else alignBound s p (domainSlabs s p) ((domainSlabs s p).length * i / pl.m))
    (by simp only [Nat.mul_zero, Nat.zero_div, halign0, if_neg (show ¬ 0 = pl.m by omega)]; exact Nat.zero_le _)
    (by simpa using hk)
  rw [if_neg (show ¬ i = pl.m by omega)] at h1
  have hr1 : (sliceRange s p pl i).1 ≤ k := h1
  have hr2 : k < (sliceRange s p pl i).2 := h2
  have hfix : alignBound s p (domainSlabs s p) (sliceRange s p pl i).1 = (sliceRange s p pl i).1 := hidem _
  obtain ⟨d, hdlt, h3, h4⟩ := exists_step (k := k) (m := pl.dd)
    (f := fun d => if d = pl.dd then (sliceRange s p pl i).2 else min (sliceRange s p pl i).2 (alignBound s p (domainSlabs s p)
      ((sliceRange s p pl i).1 + ((sliceRange s p pl i).2 - (sliceRange s p pl i).1) * d / pl.dd)))
    (by
      simp only [Nat.mul_zero, Nat.zero_div, Nat.add_zero, hfix, if_neg (show ¬ 0 = pl.dd by omega)]
      omega)
    (by simpa using hr2)
  rw [if_neg (show ¬ d = pl.dd by omega)] at h3
  exact ⟨i, d, hi, hdlt, h3, h4⟩

theorem shardPlace_shardNo {pl : Place} {i d q : Nat} (hd : d < pl.dd) (hq : q < 4) : shardPlace pl (shardNo pl i d q) = (i, d, q) := by
  have h4 : (4 * (pl.dd * i + d) + q) / 4 = pl.dd * i + d := by omega
  have hpos : 0 < pl.dd := by omega
  simp only [shardPlace, shardNo, h4, Nat.mul_add_div hpos, Nat.div_eq_of_lt hd, Nat.mul_add_mod, Nat.mod_eq_of_lt hd, Nat.add_zero]
  rw [Nat.mod_eq_of_lt hq]

/-- A slab whose tensor has a primary quay lies in a live shard of that quay. -/
theorem exists_liveShard {s : State} {p tid j q : Nat} {r : BitVec 512} (h : (tid, j) ∈ domainSlabs s p) (hr : s.recOf tid = some r)
    (hq : recPrimary r = q) (hm : 0 < (placeOf s p).m) (hd : 0 < (placeOf s p).dd) : ∃ n ∈ liveShards s p, n % 4 = q := by
  obtain ⟨k, hk⟩ := List.mem_iff_getElem?.mp h
  have hlt := (List.getElem?_eq_some_iff.mp hk).1
  obtain ⟨i, d, hi, hdd, h1, h2⟩ := exists_shardRange s p hlt hm hd
  have hq4 : q < 4 := by
    have : recPrimary r < 4 := Nat.mod_lt _ (by decide)
    omega
  have hplace := shardPlace_shardNo (pl := placeOf s p) (i := i) hdd hq4
  refine ⟨shardNo (placeOf s p) i d q, List.mem_filter.mpr ⟨List.mem_range.mpr ?_, ?_⟩, ?_⟩
  · have : (placeOf s p).dd * i + d < (placeOf s p).dd * (placeOf s p).m := by
      calc (placeOf s p).dd * i + d < (placeOf s p).dd * i + (placeOf s p).dd := by omega
        _ = (placeOf s p).dd * (i + 1) := by ring
        _ ≤ (placeOf s p).dd * (placeOf s p).m := Nat.mul_le_mul_left _ hi
    have hc : 4 * (placeOf s p).m * (placeOf s p).dd = 4 * ((placeOf s p).dd * (placeOf s p).m) := by ring
    rw [hc, shardNo]
    omega
  · rw [Bool.not_eq_true', List.isEmpty_eq_false_iff_exists_mem]
    simp only [shardSlabsNo, hplace, shardSlabs, slabsIn]
    refine ⟨(k, tid, j), List.mem_map.mpr ⟨((tid, j), k), List.mem_filter.mpr ⟨?_, ?_⟩, rfl⟩⟩
    · exact List.mem_zipIdx_iff_getElem?.mpr hk
    · simp [h1, h2, hr, hq]
  · rw [shardNo]
    omega

/-! ### Step records (R309) -/

/-- A step record is proposed once: where it is, no record like it is proposed already. -/
theorem State.proposeStep_cases (s : State) (p step : Nat) : s.proposeStep p step = s
    ∨ ∃ rec, rec.kind = 1 ∧ (∀ e ∈ s.ledger.proposed, e.1 ≠ rec) ∧ s.proposeStep p step = s.propose rec := by
  unfold State.proposeStep
  dsimp only
  split
  · exact .inl rfl
  · split
    · exact .inl rfl
    · next h =>
      refine .inr ⟨_, rfl, fun e he heq => h ?_, rfl⟩
      simp only [Bool.or_eq_true, List.any_eq_true]
      refine .inl (.inl (.inl (.inl ⟨e, he, ?_⟩)))
      rw [heq]
      simp

/-- Where more than one witness must hold a record, a fresh one is offered, and not committed. -/
theorem State.propose_fresh (s : State) (rec : LedgerRecord) (hf : 1 ≤ faultsBorne s) (h : ∀ e ∈ s.ledger.proposed, e.1 ≠ rec) :
    s.propose rec = s ∨ ∃ w, s.propose rec = s.offered w rec := by
  cases hw : hmPosition s with
  | none => exact .inl (s.propose_none rec hw)
  | some w =>
    simp only [State.propose, hw]
    split
    · exact .inl rfl
    · refine .inr ⟨w, ?_⟩
      obtain ⟨t, ht⟩ : ∃ t, s.offered w rec = t := ⟨_, rfl⟩
      have hp := s.offered_proposed w rec
      have hb := s.offered_faults w rec
      rw [ht] at hp hb
      refine (congrArg (State.commitIfHeld · rec) ht).trans (Eq.trans ?_ ht.symm)
      have hfind : t.ledger.proposed.find? (fun e => e.1 == rec) = some (rec, [w]) := by
        rw [hp, List.find?_append, List.find?_eq_none.mpr (fun e he => by simpa using h e he)]
        simp
      rw [State.commitIfHeld, hfind]
      exact if_pos (by rw [hb]; exact hf)

/-- What a step record that is proposed and not committed leaves. -/
structure StepOffered (s t : State) : Prop where
  frame : t = { s with ledger := { s.ledger with
    witnesses := t.ledger.witnesses, proposed := t.ledger.proposed, sentMsgs := t.ledger.sentMsgs } }
  proposed : s.ledger.proposed <+: t.ledger.proposed
  said : s.ledger.sentMsgs <+: t.ledger.sentMsgs

namespace StepOffered

variable {s t u : State}

theorem refl (s : State) : StepOffered s s := ⟨rfl, List.prefix_refl _, List.prefix_refl _⟩

theorem trans (a : StepOffered s t) (b : StepOffered t u) : StepOffered s u :=
  ⟨b.frame.trans (congrArg (fun y : State => { y with ledger := { y.ledger with
      witnesses := u.ledger.witnesses, proposed := u.ledger.proposed, sentMsgs := u.ledger.sentMsgs } }) a.frame :),
    a.proposed.trans b.proposed, a.said.trans b.said⟩

theorem faults (h : StepOffered s t) : faultsBorne t = faultsBorne s :=
  faultsBorne_of_membership (congrArg (fun y : State => y.ledger.membership) h.frame :)

theorem offered (s : State) (w : Nat) (rec : LedgerRecord) : StepOffered s (s.offered w rec) := by
  have hf := s.offered_frame w rec
  obtain ⟨t, ht⟩ : ∃ t, s.offered w rec = t := ⟨_, rfl⟩
  rw [ht] at hf ⊢
  generalize (s.witness w).append rec = x at hf
  refine ⟨?_, ?_, ?_⟩ <;> rw [hf]
  · exact List.prefix_append ..
  · exact List.prefix_append ..

end StepOffered

theorem State.proposeStep_offers (s : State) (p step : Nat) (hf : 1 ≤ faultsBorne s) : StepOffered s (s.proposeStep p step) := by
  rcases s.proposeStep_cases p step with h | ⟨rec, -, hnew, h⟩
  · rw [h]
    exact .refl s
  · rw [h]
    rcases s.propose_fresh rec hf hnew with h' | ⟨w, h'⟩ <;> rw [h']
    · exact .refl s
    · exact .offered s w rec

/-! ### A shard's report (R312) -/

/-- The report of a shard, kept. -/
def State.keepDone (s : State) (d : Nat × Nat × Nat × Nat × ShardEntry) : State :=
  { s with ledger := { s.ledger with dones := s.ledger.dones ++ [d] } }

/-- A mirror whose sum differs from its owner's is invalid. -/
def State.mirrorFails (s : State) (step shard : Nat) : State :=
  ({ s with ledger := { s.ledger with mirrorInvalid := addOnce s.ledger.mirrorInvalid shard } } : State).event
    sevFault evMirrorMismatch shard (step % 2 ^ 32)

/-- The report of the same shard and step from the other of owner and mirror. -/
def State.otherReport (s : State) (p step : Nat) (e : ShardEntry) : Option (Nat × Nat × Nat × Nat × ShardEntry) :=
  s.ledger.dones.find? (fun d => d.1 == ledgerOf s p && d.2.1 == step && d.2.2.2.2.shard == e.shard && d.2.2.2.2.mirror != e.mirror)

/-- A report kept, and what a mirror whose sum differs brings about. -/
def State.takeReport (s : State) (p step m hq : Nat) (e : ShardEntry) : State :=
  let s1 := s.keepDone (ledgerOf s p, step, m, hq, e)
  match s.otherReport p step e with
  | some d => if d.2.2.2.2.streamSum ≠ e.streamSum then (s1.mirrorFails step e.shard).proposeRoles p (rolesWithout s p e.shard) else s1
  | none => s1

theorem exec_shardDoneReceive {s : State} {step m hq p : Nat} {e : ShardEntry} (hh : hmHere s = true)
    (hp : (ledgerParts s).find? (fun p => decide (e.shard ∈ liveShards s p)
      && (m != s.moduleNumber || (decide ((s.run p).step = step) && (s.exchange p hq).shardDone))) = some p)
    (hn : (ledgerOf s p, step, m, hq, e) ∉ s.ledger.dones) :
    exec (.shardDoneReceive step m hq e) s = .next ((s.takeReport p step m hq e).proposeStep p step) := by
  refine congrArg Host.Outcome.next ((if_neg (by simp [hh])).trans ?_)
  dsimp only
  rw [hp]
  refine (if_neg hn).trans (congrArg (State.proposeStep · p step) ?_)
  unfold State.takeReport State.otherReport
  generalize s.ledger.dones.find? _ = o
  cases o <;> rfl

theorem State.mirrorFails_fails (s : State) (step shard : Nat) : s.mirrorFails step shard = { s with
      ledger := { s.ledger with mirrorInvalid := addOnce s.ledger.mirrorInvalid shard }
      log := (s.mirrorFails step shard).log, hosts := (s.mirrorFails step shard).hosts, sivar := (s.mirrorFails step shard).sivar }
    ∧ (s.mirrorFails step shard).sivar.config = s.sivar.config
    ∧ Logged s (s.mirrorFails step shard) sevFault evMirrorMismatch shard (step % 2 ^ 32) := by
  refine ⟨?_, ?_, logged_event_of (by rfl) (by rfl) (by rfl) _ _ _ _⟩
  · conv_lhs => rw [State.mirrorFails, State.event_frame]
    rfl
  · rw [State.mirrorFails, State.event_sivar]

/-- What a report that is taken leaves, where it commits nothing. -/
structure ReportTaken (s t : State) (p step m hq : Nat) (e : ShardEntry) : Prop where
  frame : t = { s with ledger := t.ledger, log := t.log, hosts := t.hosts, sivar := t.sivar }
  dones : (ledgerOf s p, step, m, hq, e) ∈ t.ledger.dones
  membership : t.ledger.membership = s.ledger.membership
  differs : ∀ d, s.otherReport p step e = some d → d.2.2.2.2.streamSum ≠ e.streamSum →
    e.shard ∈ t.ledger.mirrorInvalid ∧ Logged s t sevFault evMirrorMismatch e.shard (step % 2 ^ 32)
      ∧ ∀ w, hmPosition s = some w → s.mc.mresetDraining = false →
        ∃ rec, LedgerMsg.propose rec ∈ t.ledger.sentMsgs ∧ rec.kind = 2 ∧ rec.roles = rolesWithout s p e.shard ∧ rec.roleMap = s.ledger.roleMap + 1

theorem State.takeReport_takes (s : State) (p step m hq : Nat) (e : ShardEntry) (hh : hmHere s = true) (hf : 1 ≤ faultsBorne s) (hs : s.quiet) :
    ReportTaken s (s.takeReport p step m hq e) p step m hq e := by
  have kept : (s.otherReport p step e = none ∨ ∃ d, s.otherReport p step e = some d ∧ d.2.2.2.2.streamSum = e.streamSum) →
      ReportTaken s (s.keepDone (ledgerOf s p, step, m, hq, e)) p step m hq e := fun hd =>
    ⟨rfl, List.mem_append_right _ (List.mem_singleton_self _), rfl, fun d h hne => by
      rcases hd with h' | ⟨d', h', he⟩
      · rw [h'] at h
        cases h
      · rw [h'] at h
        cases h
        exact absurd he hne⟩
  unfold State.takeReport
  dsimp only
  cases ho : s.otherReport p step e with
  | none => exact kept (.inl ho)
  | some d =>
    dsimp only
    split
    · next hne =>
      obtain ⟨hfr, hcfg, hlog⟩ := (s.keepDone (ledgerOf s p, step, m, hq, e)).mirrorFails_fails step e.shard
      obtain ⟨u, hu⟩ : ∃ u, (s.keepDone (ledgerOf s p, step, m, hq, e)).mirrorFails step e.shard = u := ⟨_, rfl⟩
      rw [hu] at hfr hcfg hlog ⊢
      have hus : u = { s with
          ledger := { s.ledger with dones := s.ledger.dones ++ [(ledgerOf s p, step, m, hq, e)], mirrorInvalid := addOnce s.ledger.mirrorInvalid e.shard }
          log := u.log, hosts := u.hosts, sivar := u.sivar } := hfr
      have hul : u.ledger = _ := (congrArg State.ledger hus :)
      have hlay : SameLayout s u := ⟨(congrArg State.parts hus :), (congrArg State.opt hus :), (congrArg State.tensors hus :), hcfg,
        (congrArg Ledger.membership hul :)⟩
      have hf' : faultsBorne u = faultsBorne s := faultsBorne_of_membership hlay.membership
      have hquiet : u.quiet := fun x hx => by
        rw [hf']
        rw [hul] at hx
        exact hs x hx
      have hhere : hmHere u = true := by
        rw [hmHere, hul, hlay.moduleNumber]
        exact hh
      have hsend (w : Nat) (hw : hmPosition s = some w) (hd : s.mc.mresetDraining = false) :
          LedgerMsg.propose (u.rolesRecord p (rolesWithout s p e.shard)) ∈ (u.proposeRoles p (rolesWithout s p e.shard)).ledger.sentMsgs := by
        refine u.propose_sends _ (w := w) ?_ ((congrArg (fun y : State => y.mc.mresetDraining) hus :).trans hd) hhere
        rw [hmPosition, hul, hlay.witnessList]
        exact hw
      have hstep : StepOffered u (u.proposeRoles p (rolesWithout s p e.shard)) := by
        rcases u.propose_quiet (u.rolesRecord p (rolesWithout s p e.shard)) (hf'.symm ▸ hf) hquiet with h | ⟨w, h⟩
        · rw [show u.proposeRoles p (rolesWithout s p e.shard) = u from h]
          exact .refl u
        · rw [show u.proposeRoles p (rolesWithout s p e.shard) = u.offered w _ from h]
          exact .offered u w _
      obtain ⟨t, ht⟩ : ∃ t, u.proposeRoles p (rolesWithout s p e.shard) = t := ⟨_, rfl⟩
      rw [ht] at hsend hstep ⊢
      have htf := hstep.frame
      have hln : t.log = u.log := (congrArg State.log htf :)
      have hinv : t.ledger.mirrorInvalid = addOnce s.ledger.mirrorInvalid e.shard :=
        (congrArg (fun y : State => y.ledger.mirrorInvalid) htf :).trans (congrArg Ledger.mirrorInvalid hul :)
      refine ⟨?_, ?_, (congrArg (fun y : State => y.ledger.membership) htf :).trans hlay.membership, fun d' hd' _ => ⟨?_, ?_, fun w hw hd => ⟨_, hsend w hw hd, rfl, rfl, ?_⟩⟩⟩
      · have h1 : t.hosts = u.hosts := (congrArg State.hosts htf :)
        have h2 : t.sivar = u.sivar := (congrArg State.sivar htf :)
        rw [h1, h2, hln]
        have htu : t = { u with ledger := t.ledger } := (congrArg (fun y : State => { y with ledger := t.ledger }) htf :)
        exact htu.trans (congrArg (fun y : State => { y with
          ledger := t.ledger, log := u.log, hosts := u.hosts, sivar := u.sivar }) hus :)
      · have : t.ledger.dones = s.ledger.dones ++ [(ledgerOf s p, step, m, hq, e)] :=
          (congrArg (fun y : State => y.ledger.dones) htf :).trans (congrArg Ledger.dones hul :)
        rw [this]
        exact List.mem_append_right _ (List.mem_singleton_self _)
      · rw [hinv]
        exact mem_addOnce _ _
      · intro hr hsv
        rw [hln]
        exact hlog hr hsv
      · exact congrArg (· + 1) (congrArg Ledger.roleMap hul :)
    · next he => exact kept (.inr ⟨d, ho, not_not.mp he⟩)

/-! ### Journals (R308, R310) -/

theorem mem_drop_append_singleton {α : Type} (l : List α) (a : α) {n : Nat} (hn : 0 < n) : a ∈ (l ++ [a]).drop ((l ++ [a]).length - n) := by
  rw [List.drop_append]
  refine List.mem_append_right _ ?_
  have : (l ++ [a]).length - n - l.length = 0 := by
    rw [List.length_append, List.length_singleton]
    omega
  rw [this]
  exact List.mem_singleton_self a

theorem Witness.append_mem (x : Witness) (rec : LedgerRecord) : rec ∈ (x.append rec).journal := by
  have h (n : Nat) (hn : 0 < n) : rec ∈ (x.journal ++ [rec]).drop ((x.journal ++ [rec]).length - n) := mem_drop_append_singleton _ _ hn
  obtain ⟨n, hn, h0⟩ : ∃ n, 65536 = n ∧ 0 < n := ⟨_, rfl, by omega⟩
  unfold Witness.append
  rw [hn]
  exact h n h0

/-- A witness's state once it has a record that comes with its term. -/
def Witness.journals (x : Witness) (rec : LedgerRecord) : Witness :=
  let x1 := if x.term < rec.term then { x with candidate := false } else x
  if rec ∈ x.journal then x1 else x1.append rec

theorem Witness.journals_mem (x : Witness) (rec : LedgerRecord) : rec ∈ (x.journals rec).journal := by
  unfold Witness.journals
  dsimp only
  split
  · next h =>
    split
    · exact h
    · exact h
  · exact Witness.append_mem _ rec

theorem Witness.append_candidate (x : Witness) (rec : LedgerRecord) : (x.append rec).candidate = x.candidate := by
  simp only [Witness.append]

theorem Witness.journals_candidate {x : Witness} {rec : LedgerRecord} (h : x.term < rec.term) : (x.journals rec).candidate = false := by
  unfold Witness.journals
  dsimp only
  rw [if_pos h]
  split
  · rfl
  · rw [Witness.append_candidate]

theorem exec_witnessRecordReceive {s : State} {w : Nat} {rec : LedgerRecord} (ho : ownWitness s w = true) (ht : (s.witness w).term ≤ rec.term) :
    exec (.witnessRecordReceive w rec) s = .next ({ s.setWitness w ((s.witness w).journals rec) with
      ledger := { (s.setWitness w ((s.witness w).journals rec)).ledger with term := max s.ledger.term rec.term } } |>.say (.ack w rec.term)) := by
  refine congrArg Host.Outcome.next ((if_neg (by simp [ho])).trans ((if_neg (by omega)).trans ?_))
  unfold Witness.journals
  dsimp only
  generalize (if (s.witness w).term < rec.term then { s.witness w with candidate := false } else s.witness w) = x1
  by_cases hj : rec ∈ (s.witness w).journal
  · rw [if_pos hj, if_pos hj]
    rfl
  · rw [if_neg hj, if_neg hj]
    generalize x1.append rec = x2
    rfl

/-! ### Acknowledgements (R309) -/

theorem State.keepRecord_mem (s : State) {n : Nat} (hn : 0 < n) (rec : LedgerRecord) : rec ∈ (s.keepRecord n rec).ledger.records :=
  mem_drop_append_singleton s.ledger.records rec hn

theorem State.journalled_mem (s : State) (rec : LedgerRecord) : rec ∈ (s.journalled rec).ledger.records :=
  s.keepRecord_mem (by norm_num) rec

/-- All of the ledger but exchanges, messages and rejects. -/
def Ledger.core (x : Ledger) : Ledger := { x with exchange := [], sentMsgs := [], rejectsReceived := 0 }

/-- Ledgers that differ in no more than that agree in the rest. -/
theorem Ledger.core_eq {x y : Ledger} (h : x.core = y.core) : x = { y with
    exchange := x.exchange, sentMsgs := x.sentMsgs, rejectsReceived := x.rejectsReceived } :=
  (congrArg (fun z : Ledger => { z with exchange := x.exchange, sentMsgs := x.sentMsgs, rejectsReceived := x.rejectsReceived }) h :)

theorem Ledger.core_records {x y : Ledger} (h : x.core = y.core) : x.records = y.records := (congrArg Ledger.records h :)
theorem Ledger.core_roles {x y : Ledger} (h : x.core = y.core) : x.roles = y.roles := (congrArg Ledger.roles h :)
theorem Ledger.core_roleMap {x y : Ledger} (h : x.core = y.core) : x.roleMap = y.roleMap := (congrArg Ledger.roleMap h :)

theorem Summed.core {s t : State} (h : Summed s t) : t.ledger.core = s.ledger.core := by
  rw [h.ledger]
  rfl

theorem foldl_core {α : Type} {f : State → α → State} (hf : ∀ t a, (f t a).ledger.core = t.ledger.core) (l : List α) (s : State) :
    (l.foldl f s).ledger.core = s.ledger.core :=
  List.foldlRecOn (motive := fun t => t.ledger.core = s.ledger.core) l f rfl fun t ht a _ => (hf t a).trans ht

section
variable (s : State)

theorem State.landStream_core (p n step off : Nat) (data : List Byte) : (s.landStream p n step off data).ledger.core = s.ledger.core := by
  have h := s.putStream_ledger p n (step + 1) off data
  unfold State.landStream
  obtain ⟨t, ht⟩ : ∃ t, s.putStream p n (step + 1) off data = t := ⟨_, rfl⟩
  rw [ht] at h ⊢
  exact (t.setExchange_summed ..).core.trans (congrArg Ledger.core h)

theorem State.publishHeld_core (p q n : Nat) : (s.publishHeld p q n).ledger.core = s.ledger.core := by
  unfold State.publishHeld
  dsimp only
  refine Eq.trans (foldl_core (fun t d => ?_) _ _) ?_
  · split_ifs
    · have h := t.landStream_core p n (s.run p).step 0 (mirrorStream s p q n)
      obtain ⟨v, hv⟩ : ∃ v, t.landStream p n (s.run p).step 0 (mirrorStream s p q n) = v := ⟨_, rfl⟩
      rw [hv] at h ⊢
      exact (v.relayGather_summed _ _).core.trans h
    · exact (t.sendBytes_summed ..).core
  · rfl

theorem State.inherit_core (p q n : Nat) : (s.inherit p q n).ledger.core = s.ledger.core := by
  have norm : ((if s.updating p && (s.exchange p q).began then
      s.setExchange p q { s.exchange p q with inherited := addOnce (s.exchange p q).inherited n } else s).sendNorm p q).ledger.core = s.ledger.core := by
    refine (State.sendNorm_summed _ p q).core.trans ?_
    split
    · exact (s.setExchange_summed p q _).core
    · rfl
  simp only [State.inherit]
  obtain ⟨u, hu⟩ : ∃ u, (if s.updating p && (s.exchange p q).began then
      s.setExchange p q { s.exchange p q with inherited := addOnce (s.exchange p q).inherited n } else s).sendNorm p q = u := ⟨_, rfl⟩
  rw [hu] at norm ⊢
  split
  · have h1 := u.publishHeld_core p q n
    obtain ⟨v, hv⟩ : ∃ v, u.publishHeld p q n = v := ⟨_, rfl⟩
    rw [hv] at h1 ⊢
    have h2 := (v.completeVersion_summed p (n % 4)).core
    obtain ⟨w, hw⟩ : ∃ w, v.completeVersion p (n % 4) = w := ⟨_, rfl⟩
    rw [hw] at h2 ⊢
    exact h2.trans (h1.trans norm)
  · exact norm

/-- Roles that pass to a module leave the ledger's records, roles and state. -/
theorem State.takeRoles_core (before : List (Nat × Nat × Nat)) : (s.takeRoles before).ledger.core = s.ledger.core := by
  rw [State.takeRoles, (State.freeAcks_summed _).core]
  exact foldl_core (fun (t : State) (e : Nat × Nat × Nat) => t.inherit_core e.1 e.2.1 e.2.2) _ s

/-- What a role map leaves of the ledger's own state. -/
theorem State.applyRecord_roles_core (rec : LedgerRecord) (h : rec ∉ s.ledger.records) (hk : rec.kind = 2) :
    (s.applyRecord rec).ledger.core = ((s.journalled rec).withRoles rec).ledger.core := by
  rw [s.applyRecord_roles rec h hk, State.takeRoles_core]
  exact foldl_core (fun t r => congrArg Ledger.core (t.event_ledger _ _ _ _)) _ _

theorem State.withRoles_records (rec : LedgerRecord) : (s.withRoles rec).ledger.records = s.ledger.records := rfl
theorem State.stepped_records (rec : LedgerRecord) : (s.stepped rec).ledger.records = s.ledger.records := rfl
theorem State.rolledBack_records (rec : LedgerRecord) : (s.rolledBack rec).ledger.records = s.ledger.records := rfl
theorem State.ledgerHalt_records (st : Nat) : (s.ledgerHalt st).ledger.records = s.ledger.records := by rw [s.ledgerHalt_frame]

/-- A record that is applied is in the journal. -/
theorem State.applyRecord_mem (rec : LedgerRecord) : rec ∈ (s.applyRecord rec).ledger.records := by
  by_cases h : rec ∈ s.ledger.records
  · rwa [s.applyRecord_known rec h]
  by_cases h1 : rec.kind = 1
  · rw [s.applyRecord_step rec h h1, State.stepped_records]
    exact s.journalled_mem rec
  by_cases h2 : rec.kind = 2
  · have hc := s.applyRecord_roles_core rec h h2
    have hr : (s.applyRecord rec).ledger.records = ((s.journalled rec).withRoles rec).ledger.records := Ledger.core_records hc
    rw [hr, State.withRoles_records]
    exact s.journalled_mem rec
  by_cases h4 : rec.kind = 4
  · rw [s.applyRecord_rollback rec h h4, State.ledgerHalt_records, State.rolledBack_records]
    exact s.journalled_mem rec
  · rw [s.applyRecord_other rec h h1 h2 h4]
    exact s.journalled_mem rec

theorem State.keepRecord_tensors (n : Nat) (rec : LedgerRecord) : (s.keepRecord n rec).tensors = s.tensors := rfl
theorem State.journalled_tensors (rec : LedgerRecord) : (s.journalled rec).tensors = s.tensors := by
  unfold State.journalled
  exact s.keepRecord_tensors 65536 rec
theorem State.stepped_tensors (rec : LedgerRecord) : (s.stepped rec).tensors = s.tensors := rfl
theorem State.rolledBack_tensors (rec : LedgerRecord) : (s.rolledBack rec).tensors = s.tensors := rfl
theorem State.ledgerHalt_tensors (st : Nat) : (s.ledgerHalt st).tensors = s.tensors := by rw [s.ledgerHalt_frame]

/-- Only a role map touches tensors. -/
theorem State.applyRecord_tensors (rec : LedgerRecord) (h2 : rec.kind ≠ 2) : (s.applyRecord rec).tensors = s.tensors := by
  by_cases h : rec ∈ s.ledger.records
  · rw [s.applyRecord_known rec h]
  by_cases h1 : rec.kind = 1
  · rw [s.applyRecord_step rec h h1, State.stepped_tensors, State.journalled_tensors]
  by_cases h4 : rec.kind = 4
  · rw [s.applyRecord_rollback rec h h4, State.ledgerHalt_tensors, State.rolledBack_tensors, State.journalled_tensors]
  · rw [s.applyRecord_other rec h h1 h2 h4, State.journalled_tensors]

theorem State.stepped_committed (rec : LedgerRecord) : tget 0 (s.stepped rec).ledger.committed rec.ledger = rec.step + 1 := by
  rw [State.stepped, tget_tset, if_pos rfl]

/-- An acknowledgement of a record that is proposed. -/
def State.acked (s : State) (rec : LedgerRecord) (w : Nat) : State :=
  { s with ledger := { s.ledger with proposed := s.ledger.proposed.map (fun x => if x.1 = rec then (x.1, x.2 ++ [w]) else x) } }

/-- Where a domain's step is done, its record is proposed next. -/
def State.proposeDone (s : State) : State :=
  (ledgerParts s).foldl (fun t p => if (t.run p).done then t.proposeStep p (t.run p).step else t) s

end

theorem exec_witnessAck {s : State} {w term : Nat} {e : LedgerRecord × List Nat} (hh : hmHere s = true) (hw : w < (witnessList s).length)
    (hp : s.ledger.proposed.find? (fun e => e.1.term == term && !decide (w ∈ e.2)) = some e) :
    exec (.witnessAck w term) s = .next ((s.acked e.1 w).commitIfHeld e.1).proposeDone := by
  refine congrArg Host.Outcome.next ((if_neg (by simp [hh, hw])).trans ?_)
  dsimp only
  rw [hp]
  rfl

theorem State.proposeDone_offers (s : State) (hf : 1 ≤ faultsBorne s) : StepOffered s s.proposeDone :=
  List.foldlRecOn (motive := StepOffered s) _ _ (.refl s) fun t ht p _ => by
    split
    · exact ht.trans (t.proposeStep_offers p _ (ht.faults.symm ▸ hf))
    · exact ht

/-- The record's holders after an acknowledgement, as a commit looks them up. -/
theorem State.acked_find (s : State) {e : LedgerRecord × List Nat} (w : Nat) (h : s.ledger.proposed.find? (fun x => x.1 == e.1) = some e) :
    (s.acked e.1 w).ledger.proposed.find? (fun x => x.1 == e.1) = some (e.1, e.2 ++ [w]) := by
  have hf : (fun x : LedgerRecord × List Nat => (if x.1 = e.1 then (x.1, x.2 ++ [w]) else x).1 == e.1) = fun x => x.1 == e.1 := by
    funext x
    split <;> rfl
  rw [State.acked, List.find?_map, Function.comp_def, hf, h]
  simp

/-- Too few holders still: the record waits. More than f: it is committed. -/
theorem State.acked_commit (s : State) {e : LedgerRecord × List Nat} (w : Nat) (h : s.ledger.proposed.find? (fun x => x.1 == e.1) = some e) :
    (s.acked e.1 w).commitIfHeld e.1 = if e.2.length + 1 ≤ faultsBorne s then s.acked e.1 w
      else (((s.acked e.1 w).unproposed e.1).applyRecord e.1).say (.commit e.1.ledger e.1.step s.ledger.term) := by
  have hb : faultsBorne (s.acked e.1 w) = faultsBorne s := rfl
  unfold State.commitIfHeld
  rw [s.acked_find w h]
  dsimp only
  rw [List.length_append, List.length_singleton, hb]
  rfl

/-! ### A version that is committed (R17, R309) -/

/-- What committing versions numbered n leaves: the ledger's counts only grow, no record changes, no tensor appears, and a version n that
does not wait to retire keeps its bytes, committed and complete once it has been. -/
structure Committing (n : Nat) (s u : State) : Prop where
  frame : u = { s with ledger := { s.ledger with committed := u.ledger.committed }, tensors := u.tensors, quays := u.quays }
  committed : ∀ l, committedNext s l ≤ committedNext u l
  record : ∀ tid, (u.tensor tid).record = (s.tensor tid).record
  absent : ∀ tid, s.recOf tid = none → u.recOf tid = none
  slot : ∀ tid v, (s.tensor tid).slot n = some v → n ∉ (s.tensor tid).retiring →
    ∃ v', (u.tensor tid).slot n = some v' ∧ v'.bytes = v.bytes ∧ n ∉ (u.tensor tid).retiring
      ∧ (v.committed = true → v.complete = true → v'.committed = true ∧ v'.complete = true)

namespace Committing

variable {n : Nat} {s t u : State}

theorem refl (s : State) : Committing n s s :=
  ⟨rfl, fun _ => Nat.le_refl _, fun _ => rfl, fun _ h => h, fun _ v h hr => ⟨v, h, rfl, hr, fun h1 h2 => ⟨h1, h2⟩⟩⟩

theorem trans (a : Committing n s t) (b : Committing n t u) : Committing n s u :=
  ⟨b.frame.trans (congrArg (fun y : State => { y with
      ledger := { y.ledger with committed := u.ledger.committed }, tensors := u.tensors, quays := u.quays }) a.frame :),
    fun l => (a.committed l).trans (b.committed l), fun tid => (b.record tid).trans (a.record tid), fun tid h => b.absent tid (a.absent tid h),
    fun tid v h hr => by
      obtain ⟨v1, h1, hb1, hr1, hc1⟩ := a.slot tid v h hr
      obtain ⟨v2, h2, hb2, hr2, hc2⟩ := b.slot tid v1 h1 hr1
      exact ⟨v2, h2, hb2.trans hb1, hr2, fun hc hd => hc2 (hc1 hc hd).1 (hc1 hc hd).2⟩⟩

theorem foldl {α : Type} {f : State → α → State} (hf : ∀ t a, Committing n t (f t a)) (l : List α) (s : State) : Committing n s (l.foldl f s) :=
  List.foldlRecOn (motive := fun t => Committing n s t) l f (refl s) fun t ht a _ => ht.trans (hf t a)

end Committing

theorem State.retireUnnamed_others (s : State) (tid : Nat) {j : Nat} (h : j ≠ tid) : tfind (s.retireUnnamed tid).tensors j = tfind s.tensors j := by
  have fold (l : List Nat) : tfind (l.foldl (fun u n => u.retireVersion tid n) s).tensors j = tfind s.tensors j :=
    List.foldlRecOn (motive := fun t : State => tfind t.tensors j = tfind s.tensors j) l _ rfl fun t ht n _ =>
      ((t.retireVersion_frame tid n).1 j h).trans ht
  unfold State.retireUnnamed
  dsimp only
  split
  · rfl
  · exact (tfind_tput_ne _ _ _ h).trans (fold _)

theorem State.tensor_of_absent {s : State} {tid : Nat} (h : s.recOf tid = none) : s.tensor tid = {} := by
  rw [State.tensor, tget, Option.map_eq_none_iff.mp h]
  rfl

theorem State.tensor_of_tfind {s t : State} {tid : Nat} (h : tfind t.tensors tid = tfind s.tensors tid) : t.tensor tid = s.tensor tid := by
  rw [State.tensor, tget, h]
  rfl

theorem State.commitVersion_committing (s : State) (tid n : Nat) : Committing n s (s.commitVersion tid n) := by
  cases hs : (s.tensor tid).slot n with
  | none =>
    have : s.commitVersion tid n = s := by rw [State.commitVersion, hs]
    rw [this]
    exact .refl s
  | some x =>
    have hn : x.number = n := Tensor.slot_number hs
    obtain ⟨old, hold, hlt⟩ : ∃ l, ((s.tensor tid).versions.filter (fun y => decide (y.number + recWindow (s.tensor tid).record < n))).map (·.number) = l
        ∧ n ∉ l := by
      refine ⟨_, rfl, fun hm => ?_⟩
      obtain ⟨z, hz, rfl⟩ := List.mem_map.1 hm
      have := of_decide_eq_true (List.mem_filter.1 hz).2
      omega
    obtain ⟨y, hy, hyn⟩ : ∃ y : Version, { x with committed := true, complete := true } = y ∧ y.number = n := ⟨_, rfl, hn⟩
    obtain ⟨-, hrec, -⟩ := (s.tensor tid).putSlot_slot y
    obtain ⟨v, hv, hvr, hvl⟩ : ∃ v : Tensor, { (s.tensor tid).putSlot y with retiring := ((s.tensor tid).retiring ++ old).eraseDups } = v
        ∧ v.record = (s.tensor tid).record ∧ v.retiring = ((s.tensor tid).retiring ++ old).eraseDups := ⟨_, rfl, hrec, rfl⟩
    have he : s.commitVersion tid n = (s.setTensor tid v).retireUnnamed tid := by
      unfold State.commitVersion
      dsimp only
      rw [hs]
      dsimp only
      rw [hold, hy, hv]
    have hown : (s.setTensor tid v).tensor tid = v := tget_tput_same _ _ _ _
    have hoth {j : Nat} (hj : j ≠ tid) : tfind (s.commitVersion tid n).tensors j = tfind s.tensors j := by
      rw [he]
      exact (State.retireUnnamed_others _ tid hj).trans (tfind_tput_ne _ _ _ hj)
    have hkept := (s.setTensor tid v).retireUnnamed_kept tid
    have hfr := (s.setTensor tid v).retireUnnamed_frame tid
    rw [← he] at hkept hfr
    have hcom := State.commitVersion_commits (s := s) (id := tid) (version := n) hs
    obtain ⟨t, ht⟩ : ∃ t, s.commitVersion tid n = t := ⟨_, rfl⟩
    rw [ht] at hkept hfr hoth hcom ⊢
    have hfr' : t = { s with tensors := t.tensors, quays := t.quays } := hfr
    have hl : t.ledger = s.ledger := (congrArg State.ledger hfr' :)
    refine ⟨by rw [hl]; exact hfr', fun l => by rw [committedNext, committedNext, hl], fun j => ?_, fun j hj => ?_, fun j z hz hr => ?_⟩
    · by_cases hj : j = tid
      · subst hj
        rw [hkept.record, hown, hvr]
      · rw [State.tensor_of_tfind (hoth hj)]
    · by_cases h : j = tid
      · subst h
        rw [State.tensor_of_absent hj] at hs
        cases hs
      · rw [State.recOf, hoth h]
        exact hj
    · by_cases h : j = tid
      · subst h
        obtain ⟨hslot, -⟩ := hcom hr
        rw [hs] at hz
        cases hz
        refine ⟨_, hslot, rfl, fun hin => ?_, fun _ _ => ⟨rfl, rfl⟩⟩
        have := hkept.retiring j n hin
        rw [hown, hvl, List.mem_eraseDups, List.mem_append] at this
        exact this.elim hr hlt
      · rw [State.tensor_of_tfind (hoth h)]
        exact ⟨z, hz, rfl, hr, fun h1 h2 => ⟨h1, h2⟩⟩

/-! #### What a tensor that comes to have no version leaves of the layout -/

namespace Committing

variable {n : Nat} {s u : State} (h : Committing n s u)
include h

theorem recOf {tid : Nat} {r : BitVec 512} (hr : u.recOf tid = some r) : s.recOf tid = some r := by
  cases hs : s.recOf tid with
  | none => rw [h.absent tid hs] at hr; cases hr
  | some x =>
    have h1 : (s.tensor tid).record = x := by
      obtain ⟨y, hy, rfl⟩ := Option.map_eq_some_iff.mp hs
      rw [State.tensor, tget, hy]
      rfl
    have h2 : (u.tensor tid).record = r := by
      obtain ⟨y, hy, rfl⟩ := Option.map_eq_some_iff.mp hr
      rw [State.tensor, tget, hy]
      rfl
    rw [← h1, ← h2, h.record]

theorem elemsOf (tid : Nat) : elemsOf u tid = elemsOf s tid := by
  unfold Machine.elemsOf
  cases hu : u.recOf tid with
  | some r => rw [h.recOf hu]
  | none =>
    cases hs : s.recOf tid with
    | none => rfl
    | some r =>
      have h1 : (s.tensor tid).record = r := by
        obtain ⟨y, hy, rfl⟩ := Option.map_eq_some_iff.mp hs
        rw [State.tensor, tget, hy]
        rfl
      have h2 : (s.tensor tid).record = 0 := by rw [← h.record, State.tensor_of_absent hu]
      have h0 : recTiles (0 : BitVec 512) = 0 := by simp [recTiles, recTin, recAt]
      rw [← h1, h2]
      exact (congrArg (1024 * ·) h0).symm

theorem parts : u.parts = s.parts := (congrArg State.parts h.frame :)
theorem opt : u.opt = s.opt := (congrArg State.opt h.frame :)
theorem sivar : u.sivar = s.sivar := (congrArg State.sivar h.frame :)
theorem run (p : Nat) : u.run p = s.run p := by rw [State.run, h.opt]; rfl
theorem exchange (p q : Nat) : u.exchange p q = s.exchange p q := (congrArg (fun y : State => tget ({} : Exchange) y.ledger.exchange (4 * p + q)) h.frame :)

theorem updating (p : Nat) : u.updating p = s.updating p := by rw [State.updating, h.run]; rfl
theorem part (p : Nat) : u.part p = s.part p := by rw [State.part, h.parts]; rfl
theorem moduleNumber : u.moduleNumber = s.moduleNumber := by rw [State.moduleNumber, State.cfg, h.sivar]; rfl

theorem ledgerOf (p : Nat) : ledgerOf u p = ledgerOf s p := by simp only [Machine.ledgerOf, h.updating, h.run, groupOf, h.part]

theorem placeOf (p : Nat) : placeOf u p = placeOf s p := by
  have hm : u.ledger.membership = s.ledger.membership := (congrArg (fun y : State => y.ledger.membership) h.frame :)
  simp only [Machine.placeOf, tableOf, h.updating, h.run, hm, h.ledgerOf, h.moduleNumber]

theorem domainNames {p tid : Nat} {r : BitVec 512} (hr : u.recOf tid = some r) : domainNames u p tid = domainNames s p tid := by
  simp only [Machine.domainNames, State.trained, State.ruleOf, hr, h.recOf hr, h.opt, State.groupRec, State.cfgBytes, h.sivar, groupParts, groupOf,
    namesTensor, h.part]

/-- A tensor that is still there and that the domain named is one that it names, and none else is. -/
theorem mem_domainTensors {p tid : Nat} {r : BitVec 512} (hr : u.recOf tid = some r) : tid ∈ domainTensors u p ↔ tid ∈ domainTensors s p := by
  simp only [domainTensors, h.updating, h.run]
  split
  · exact Iff.rfl
  · rw [List.mem_filter, List.mem_filter, h.domainNames hr, mem_keys_iff, mem_keys_iff]
    have h1 : tfind u.tensors tid ≠ none := fun hn => by rw [State.recOf, hn] at hr; cases hr
    have h2 : tfind s.tensors tid ≠ none := fun hn => by have := h.recOf hr; rw [State.recOf, hn] at this; cases this
    simp only [h1, h2, ne_eq, not_false_eq_true, true_and]

/-- A quay without a live shard stays without one, and what is done stays done. -/
theorem partDone {p q step : Nat} (hd : partDone s p q step = true) : partDone u p q step = true := by
  simp only [Machine.partDone, h.run, h.exchange, Bool.or_eq_true, Bool.and_eq_true] at hd ⊢
  refine hd.imp_right fun ⟨h1, h2⟩ => ⟨h1, h2.imp_right fun hemp => ?_⟩
  rw [List.isEmpty_iff, List.filter_eq_nil_iff] at hemp ⊢
  intro n' hn' hmod
  obtain ⟨hrange, hne⟩ := List.mem_filter.mp hn'
  have hmod' : n' % 4 = q := by simpa using hmod
  have hpos := List.mem_range.mp hrange
  rw [h.placeOf] at hpos
  have hm : 0 < (Machine.placeOf s p).m := Nat.pos_of_ne_zero fun hz => by simp [hz] at hpos
  have hdd : 0 < (Machine.placeOf s p).dd := Nat.pos_of_ne_zero fun hz => by simp [hz] at hpos
  rw [Bool.not_eq_true', List.isEmpty_eq_false_iff_exists_mem] at hne
  obtain ⟨e, he⟩ := hne
  simp only [shardSlabsNo, shardSlabs, slabsIn, shardPlace, hmod'] at he
  obtain ⟨⟨⟨tid, j⟩, k⟩, hmem, -⟩ := List.mem_map.mp he
  obtain ⟨hz, hcond⟩ := List.mem_filter.mp hmem
  have hslab : (tid, j) ∈ domainSlabs u p := List.mem_of_getElem? (List.mem_zipIdx_iff_getElem?.mp hz)
  obtain ⟨r, hr, hrq⟩ : ∃ r, u.recOf tid = some r ∧ recPrimary r = q := by
    simp only [Bool.and_eq_true] at hcond
    revert hcond
    cases u.recOf tid with
    | none => simp
    | some r => simp
  obtain ⟨tid', ht', hj⟩ := List.mem_flatMap.mp hslab
  obtain ⟨j', hj', heq⟩ := List.mem_map.mp hj
  cases heq
  have hs : (tid, j) ∈ domainSlabs s p := by
    refine List.mem_flatMap.mpr ⟨tid, (h.mem_domainTensors hr).mp ht', List.mem_map.mpr ⟨j, ?_, rfl⟩⟩
    rw [slabCount, ← h.elemsOf]
    exact hj'
  obtain ⟨n0, hn0, hq0⟩ := exists_liveShard hs (h.recOf hr) hrq hm hdd
  exact hemp n0 hn0 (by simp [hq0])

end Committing

/-! ### COMMIT (R309, R313) -/

/-- The versions of a domain's tensors of a quay, committed where its part is done. -/
def State.commitPart (q step : Nat) (t : State) (p : Nat) : State :=
  if partDone t p q step then
    let t1 : State := { t with ledger := { t.ledger with
      committed := tset t.ledger.committed (ledgerOf t p) (max (step + 1) (committedNext t (ledgerOf t p))) } }
    ((domainTensors t1 p).filter (fun tid => match t1.recOf tid with | some r => recPrimary r == q | none => false)).foldl
      (fun u tid => u.commitVersion tid (step + 1)) t1
  else t

/-- The records of a COMMIT take effect in a term. -/
def State.commitRecords (s : State) (step term : Nat) : State :=
  (namedRecords s step term).foldl (fun t r => t.applyRecord r) { s with ledger := { s.ledger with term := term } }

theorem exec_commitReceive {s : State} {q step term : Nat} (hq : q < 4) (ht : s.ledger.term ≤ term) :
    exec (.commitReceive q step term) s = .next (if s.ledger.state = 6 then s.commitRecords step term
      else (ledgerParts (s.commitRecords step term)).foldl (State.commitPart q step) (s.commitRecords step term)) :=
  (if_pos hq).trans (congrArg Host.Outcome.next (if_neg (by omega)))

section
variable {q step : Nat}

theorem State.count_committing (t : State) (l n : Nat) : Committing n t { t with ledger := { t.ledger with
    committed := tset t.ledger.committed l (max n (committedNext t l)) } } := by
  refine ⟨rfl, fun k => ?_, fun _ => rfl, fun _ h => h, fun _ v h hr => ⟨v, h, rfl, hr, fun h1 h2 => ⟨h1, h2⟩⟩⟩
  have h : committedNext { t with ledger := { t.ledger with committed := tset t.ledger.committed l (max n (committedNext t l)) } } k
      = if k = l then max n (committedNext t l) else committedNext t k := tget_tset 0 t.ledger.committed l k _
  rw [h]
  split
  · next hk =>
    rw [hk]
    exact Nat.le_max_right _ _
  · exact Nat.le_refl _

theorem State.commitPart_committing (t : State) (p : Nat) : Committing (step + 1) t (t.commitPart q step p) := by
  unfold State.commitPart
  split
  · exact (t.count_committing (ledgerOf t p) (step + 1)).trans (Committing.foldl (fun u tid => u.commitVersion_committing tid (step + 1)) _ _)
  · exact .refl t

/-- A version among those committed is committed and complete. -/
theorem State.commitVersions_commit {n tid : Nat} {v : Version} {l : List Nat} (hl : tid ∈ l) {s : State} (hv : (s.tensor tid).slot n = some v)
    (hr : n ∉ (s.tensor tid).retiring) : ∃ v', ((l.foldl (fun u tid => u.commitVersion tid n) s).tensor tid).slot n = some v'
      ∧ v'.committed = true ∧ v'.complete = true ∧ v'.bytes = v.bytes
      ∧ n ∉ ((l.foldl (fun u tid => u.commitVersion tid n) s).tensor tid).retiring := by
  obtain ⟨a, b, rfl⟩ := List.append_of_mem hl
  rw [List.foldl_append, List.foldl_cons]
  have ha : Committing n s (a.foldl (fun u tid => u.commitVersion tid n) s) := Committing.foldl (fun u tid => u.commitVersion_committing tid n) a s
  obtain ⟨u, hu⟩ : ∃ u, a.foldl (fun u tid => u.commitVersion tid n) s = u := ⟨_, rfl⟩
  rw [hu] at ha ⊢
  obtain ⟨v1, h1, hb1, hr1, -⟩ := ha.slot tid v hv hr
  obtain ⟨hc, -⟩ := State.commitVersion_commits h1 hr1
  obtain ⟨-, -, -, hret, -⟩ := (u.commitVersion_committing tid n).slot tid v1 h1 hr1
  have hb : Committing n (u.commitVersion tid n) (b.foldl (fun u tid => u.commitVersion tid n) (u.commitVersion tid n)) :=
    Committing.foldl (fun u tid => u.commitVersion_committing tid n) b _
  obtain ⟨v2, h2, hb2, hr2, hc2⟩ := hb.slot tid _ hc hret
  obtain ⟨hcm, hcp⟩ := hc2 rfl rfl
  exact ⟨v2, h2, hcm, hcp, hb2.trans hb1, hr2⟩

/-- A domain whose part is done is counted, and its versions of the quay are committed. -/
theorem State.commitPart_commits {t : State} {p : Nat} (hd : partDone t p q step = true) :
    step + 1 ≤ committedNext (t.commitPart q step p) (ledgerOf t p)
    ∧ ∀ tid ∈ domainTensors t p, ∀ r v, t.recOf tid = some r → recPrimary r = q → (t.tensor tid).slot (step + 1) = some v →
        step + 1 ∉ (t.tensor tid).retiring → ∃ v', ((t.commitPart q step p).tensor tid).slot (step + 1) = some v'
          ∧ v'.committed = true ∧ v'.complete = true ∧ v'.bytes = v.bytes ∧ step + 1 ∉ ((t.commitPart q step p).tensor tid).retiring := by
  unfold State.commitPart
  rw [if_pos hd]
  dsimp only
  have hlay : SameLayout t { t with ledger := { t.ledger with
      committed := tset t.ledger.committed (ledgerOf t p) (max (step + 1) (committedNext t (ledgerOf t p))) } } := ⟨rfl, rfl, rfl, rfl, rfl⟩
  have hcount : committedNext { t with ledger := { t.ledger with
      committed := tset t.ledger.committed (ledgerOf t p) (max (step + 1) (committedNext t (ledgerOf t p))) } } (ledgerOf t p)
      = max (step + 1) (committedNext t (ledgerOf t p)) := (tget_tset 0 t.ledger.committed _ _ _).trans (if_pos rfl)
  obtain ⟨u, hu⟩ : ∃ u : State, { t with ledger := { t.ledger with
      committed := tset t.ledger.committed (ledgerOf t p) (max (step + 1) (committedNext t (ledgerOf t p))) } } = u := ⟨_, rfl⟩
  have hten (tid : Nat) : u.tensor tid = t.tensor tid := hu ▸ rfl
  rw [hu] at hlay hcount ⊢
  refine ⟨?_, fun tid htid r v hr hp hv hret => ?_⟩
  · have := (Committing.foldl (fun u tid => u.commitVersion_committing tid (step + 1))
      ((domainTensors u p).filter (fun tid => match u.recOf tid with | some r => recPrimary r == q | none => false)) u).committed (ledgerOf t p)
    omega
  · refine State.commitVersions_commit (List.mem_filter.mpr ⟨hlay.domainTensors p ▸ htid, ?_⟩) (by rw [hten]; exact hv) (by rw [hten]; exact hret)
    simp [hlay.recOf, hr, hp]

/-- So for each domain of a list. -/
theorem State.commitParts_commit {s : State} {p : Nat} {l : List Nat} (hl : p ∈ l) (hd : partDone s p q step = true) :
    step + 1 ≤ committedNext (l.foldl (State.commitPart q step) s) (ledgerOf s p)
    ∧ ∀ tid ∈ domainTensors s p, ∀ r v, s.recOf tid = some r → recPrimary r = q → (s.tensor tid).slot (step + 1) = some v →
        step + 1 ∉ (s.tensor tid).retiring → ∃ v', ((l.foldl (State.commitPart q step) s).tensor tid).slot (step + 1) = some v'
          ∧ v'.committed = true ∧ v'.complete = true ∧ v'.bytes = v.bytes := by
  obtain ⟨a, b, rfl⟩ := List.append_of_mem hl
  rw [List.foldl_append, List.foldl_cons]
  have ha : Committing (step + 1) s (a.foldl (State.commitPart q step) s) := Committing.foldl (fun t p => t.commitPart_committing p) a s
  obtain ⟨u, hu⟩ : ∃ u, a.foldl (State.commitPart q step) s = u := ⟨_, rfl⟩
  rw [hu] at ha ⊢
  obtain ⟨hcount, hver⟩ := State.commitPart_commits (ha.partDone hd)
  have hb : Committing (step + 1) (u.commitPart q step p) (b.foldl (State.commitPart q step) (u.commitPart q step p)) :=
    Committing.foldl (fun t p => t.commitPart_committing p) b _
  rw [ha.ledgerOf] at hcount
  refine ⟨hcount.trans (hb.committed _), fun tid htid r v hr hp hv hret => ?_⟩
  obtain ⟨v1, h1, hb1, hr1, -⟩ := ha.slot tid v hv hret
  have hrec : u.recOf tid = some r := by
    cases hur : u.recOf tid with
    | none =>
      rw [State.tensor_of_absent hur] at h1
      cases h1
    | some r' =>
      have := ha.recOf hur
      rw [hr] at this
      exact this.symm
  obtain ⟨v2, h2, hc2, hd2, hb2, hr2⟩ := hver tid ((ha.mem_domainTensors hrec).mpr htid) r v1 hrec hp h1 hr1
  obtain ⟨v3, h3, hb3, -, hc3⟩ := hb.slot tid v2 h2 hr2
  exact ⟨v3, h3, (hc3 hc2 hd2).1, (hc3 hc2 hd2).2, hb3.trans (hb2.trans hb1)⟩

end

/-! #### The records that a COMMIT names -/

theorem State.keepRecord_frame (s : State) (n : Nat) (rec : LedgerRecord) : ∃ r h, s.keepRecord n rec =
    { s with ledger := { s.ledger with records := r, heard := h } } := ⟨_, _, rfl⟩

/-- Records of steps and tables change the ledger's journal and its counts alone. -/
theorem State.applyRecord_plain (s : State) (rec : LedgerRecord) (h2 : rec.kind ≠ 2) (h4 : rec.kind ≠ 4) :
    ∃ r h c, s.applyRecord rec = { s with ledger := { s.ledger with records := r, heard := h, committed := c } } := by
  obtain ⟨r, h, hj⟩ := s.keepRecord_frame 65536 rec
  have hj' : s.journalled rec = { s with ledger := { s.ledger with records := r, heard := h } } := hj
  by_cases hin : rec ∈ s.ledger.records
  · exact ⟨s.ledger.records, s.ledger.heard, s.ledger.committed, s.applyRecord_known rec hin⟩
  by_cases h1 : rec.kind = 1
  · rw [s.applyRecord_step rec hin h1, hj']
    exact ⟨_, _, _, rfl⟩
  · rw [s.applyRecord_other rec hin h1 h2 h4, hj']
    exact ⟨_, _, _, rfl⟩

theorem State.applyRecords_plain (l : List LedgerRecord) (s : State) (hl : ∀ r ∈ l, r.kind ≠ 2 ∧ r.kind ≠ 4) :
    ∃ r h c, l.foldl (fun t r => t.applyRecord r) s = { s with ledger := { s.ledger with records := r, heard := h, committed := c } } := by
  induction l generalizing s with
  | nil => exact ⟨s.ledger.records, s.ledger.heard, s.ledger.committed, rfl⟩
  | cons x l ih =>
    obtain ⟨h2, h4⟩ := hl x List.mem_cons_self
    obtain ⟨r, h, c, hx⟩ := s.applyRecord_plain x h2 h4
    obtain ⟨r', h', c', ht⟩ := ih (s.applyRecord x) fun y hy => hl y (List.mem_cons_of_mem _ hy)
    refine ⟨r', h', c', ht.trans ?_⟩
    rw [hx]

/-- A record that is named more than once takes its effect once. -/
theorem State.applyRecords_one {r : LedgerRecord} {l : List LedgerRecord} (s : State) (hl : ∀ x ∈ l, x = r) (hr : r ∈ l) :
    l.foldl (fun t r => t.applyRecord r) s = s.applyRecord r := by
  have stay (l : List LedgerRecord) (t : State) (hl : ∀ x ∈ l, x = r) (ht : r ∈ t.ledger.records) : l.foldl (fun t r => t.applyRecord r) t = t :=
    List.foldlRecOn (motive := fun u => u = t) l _ rfl fun u hu x hx => by rw [hu, hl x hx, t.applyRecord_known r ht]
  cases l with
  | nil => cases hr
  | cons x l =>
    rw [List.foldl_cons, hl x List.mem_cons_self]
    exact stay l _ (fun y hy => hl y (List.mem_cons_of_mem _ hy)) (s.applyRecord_mem r)

/-! ### Digests (R296) -/

/-- The digest of another member, reported anew. -/
def State.noteDigest (s : State) (module : Nat) (digest : BitVec 512) : State :=
  { s with ledger := { s.ledger with
    digests := s.ledger.digests.filter (fun (d : Nat × BitVec 512) => d.1 != module || module == s.moduleNumber)
      ++ (if module = s.moduleNumber then [] else [(module, digest)]) } }

theorem exec_digestReport {s : State} {module : Nat} {digest : BitVec 512} {tb : Membership} (ht : s.ledger.membership = some tb)
    (hm : ∃ m ∈ tb.members, m.module = module) : exec (.digestReport module digest) s = .next (s.noteDigest module digest).activate := by
  refine congrArg Host.Outcome.next ?_
  rw [ht]
  refine if_neg ?_
  obtain ⟨m, hm, h⟩ := hm
  simp only [Bool.not_eq_true', Bool.not_eq_false, List.any_eq_true]
  exact ⟨m, hm, by simp [h]⟩

/-- When the ledger becomes active. -/
theorem State.activate_state (s : State) {tb : Membership} (ht : s.ledger.membership = some tb) :
    s.activate.ledger.state = if s.ledger.state = 1 ∧ s.ledger.hm.isSome = true ∧ (∀ m ∈ tb.members, ∃ d ∈ s.ledger.digests, d.1 = m.module
      ∧ some d.2 = (s.ledger.digests.find? (fun d => d.1 == s.moduleNumber)).map (fun d => d.2)) then 2 else s.ledger.state := by
  have hall : (tb.members.all (fun m => s.ledger.digests.any (fun d => d.1 == m.module
      && some d.2 == (s.ledger.digests.find? (fun d => d.1 == s.moduleNumber)).map (fun d => d.2)))) = true ↔
      ∀ m ∈ tb.members, ∃ d ∈ s.ledger.digests, d.1 = m.module
        ∧ some d.2 = (s.ledger.digests.find? (fun d => d.1 == s.moduleNumber)).map (fun d => d.2) := by
    simp only [List.all_eq_true, List.any_eq_true, Bool.and_eq_true, beq_iff_eq]
  unfold State.activate
  rw [ht]
  dsimp only
  split
  · next h => rw [if_pos ⟨h.1, h.2.2, hall.mp h.2.1⟩]
  · next h => rw [if_neg fun h' => h ⟨h'.1, hall.mpr h'.2.2, h'.2.1⟩]

/-- What a record that is committed with an acknowledgement leaves of the module. -/
theorem State.ackedRecord_around (s : State) (rec : LedgerRecord) (w : Nat) :
    (((s.acked rec w).unproposed rec).applyRecord rec).aroundRecord = s.aroundRecord := by
  rw [State.applyRecord_aroundRecord]
  rfl

/-- Settles O35: a report by `State.takeReport_takes`, a journal by `Witness.journals`, an acknowledgement by `State.acked_commit`, and a COMMIT
by the records that it names and `State.commitParts_commit`. -/
theorem ledgerRecordsAreCommitted : Obligations.LedgerRecordsAreCommitted := by
  refine ⟨?report, ?journal, ?heard, ?ack, ?commit, ?digest⟩
  case report =>
    intro s step m hq e p hh hp hn hf hs
    have hexec := exec_shardDoneReceive hh hp hn
    have htake := s.takeReport_takes p step m hq e hh hf hs
    obtain ⟨u, hu⟩ : ∃ u, s.takeReport p step m hq e = u := ⟨_, rfl⟩
    rw [hu] at hexec htake
    have hstep := u.proposeStep_offers p step (faultsBorne_of_membership htake.membership ▸ hf)
    obtain ⟨t, ht⟩ : ∃ t, u.proposeStep p step = t := ⟨_, rfl⟩
    rw [ht] at hexec hstep
    have hfr := hstep.frame
    have hlog : t.log = u.log := (congrArg State.log hfr :)
    have hdones : t.ledger.dones = u.ledger.dones := (congrArg (fun y : State => y.ledger.dones) hfr :)
    have hinv : t.ledger.mirrorInvalid = u.ledger.mirrorInvalid := (congrArg (fun y : State => y.ledger.mirrorInvalid) hfr :)
    refine ⟨t, hexec, hdones ▸ htake.dones, fun d hd hne => ?_, ?_⟩
    · obtain ⟨h1, h2, h3⟩ := htake.differs d hd hne
      refine ⟨hinv ▸ h1, fun hr hsv => hlog ▸ h2 hr hsv, fun w hw hdr => ?_⟩
      obtain ⟨rec, hrec, hk⟩ := h3 w hw hdr
      exact ⟨rec, hstep.said.mem hrec, hk⟩
    · have h1 : t.hosts = u.hosts := (congrArg State.hosts hfr :)
      have h2 : t.sivar = u.sivar := (congrArg State.sivar hfr :)
      have htu : t = { u with ledger := t.ledger } := (congrArg (fun y : State => { y with ledger := t.ledger }) hfr :)
      rw [h1, h2, hlog]
      exact htu.trans (congrArg (fun y : State => { y with ledger := t.ledger, log := u.log, hosts := u.hosts, sivar := u.sivar }) htake.frame :)
  case journal =>
    intro s w rec ho ht
    obtain ⟨x, hx⟩ : ∃ x, (s.witness w).journals rec = x := ⟨_, rfl⟩
    have hmem := (s.witness w).journals_mem rec
    have hcand := fun h => Witness.journals_candidate (x := s.witness w) (rec := rec) h
    have hexec := exec_witnessRecordReceive ho ht
    rw [hx] at hexec hmem hcand
    have hw : (({ s.setWitness w x with ledger := { (s.setWitness w x).ledger with term := max s.ledger.term rec.term } } : State).say (.ack w rec.term)).witness w
        = x := tget_tput_same ({} : Witness) s.ledger.witnesses w x
    exact ⟨_, hexec, by rw [hw]; exact hmem, rfl, rfl, fun h => by rw [hw]; exact hcand h,
      fun j hj => tget_tput_ne ({} : Witness) s.ledger.witnesses w j x hj, rfl⟩
  case heard =>
    intro s w rec ho hw ht hn
    refine congrArg Host.Outcome.next ((if_pos (by simp [ho])).trans (if_neg ?_))
    rintro (h | h | h)
    · omega
    · omega
    · exact hn h
  case ack =>
    intro s w term e hh hw hf hp hrec
    have hexec := exec_witnessAck hh hw hp
    rw [s.acked_commit w hrec] at hexec
    by_cases hfew : e.2.length + 1 ≤ faultsBorne s
    · rw [if_pos hfew] at hexec
      have hoff := (s.acked e.1 w).proposeDone_offers hf
      have hin : (e.1, e.2 ++ [w]) ∈ (s.acked e.1 w).ledger.proposed := List.mem_of_find?_eq_some (s.acked_find w hrec)
      obtain ⟨t, ht⟩ : ∃ t, (s.acked e.1 w).proposeDone = t := ⟨_, rfl⟩
      rw [ht] at hexec hoff
      have hfr := hoff.frame
      exact ⟨t, hexec, fun _ => ⟨hoff.proposed.mem hin, (congrArg (fun y : State => y.ledger.records) hfr :)⟩, fun h => absurd hfew (by omega),
        fun _ => (congrArg State.tensors hfr :), (congrArg State.now hfr :), (congrArg State.parts hfr :), (congrArg State.pad hfr :),
        (congrArg State.dram hfr :), (congrArg State.flash hfr :)⟩
    · rw [if_neg hfew] at hexec
      have haround := s.ackedRecord_around e.1 w
      have hmem := State.applyRecord_mem ((s.acked e.1 w).unproposed e.1) e.1
      have htens := State.applyRecord_tensors ((s.acked e.1 w).unproposed e.1) e.1
      have hcount (h1 : e.1.kind = 1) (hn : e.1 ∉ s.ledger.records) :
          tget 0 (((s.acked e.1 w).unproposed e.1).applyRecord e.1).ledger.committed e.1.ledger = e.1.step + 1 := by
        rw [State.applyRecord_step ((s.acked e.1 w).unproposed e.1) e.1 hn h1]
        exact State.stepped_committed _ e.1
      obtain ⟨a, ha⟩ : ∃ a, ((s.acked e.1 w).unproposed e.1).applyRecord e.1 = a := ⟨_, rfl⟩
      rw [ha] at hexec haround hmem htens hcount
      obtain ⟨b, hb⟩ : ∃ b, a.say (.commit e.1.ledger e.1.step s.ledger.term) = b := ⟨_, rfl⟩
      have hsaid : LedgerMsg.commit e.1.ledger e.1.step s.ledger.term ∈ b.ledger.sentMsgs := hb ▸ List.mem_append_right _ (List.mem_singleton_self _)
      have hba : b = { a with ledger := { a.ledger with sentMsgs := b.ledger.sentMsgs } } := hb ▸ rfl
      rw [hb] at hexec
      have hfb : faultsBorne b = faultsBorne s := faultsBorne_of_membership
        ((congrArg (fun y : State => y.ledger.membership) hba :).trans (congrArg (fun y : State => y.ledger.membership) haround :))
      have hoff := b.proposeDone_offers (hfb ▸ hf)
      obtain ⟨t, ht⟩ : ∃ t, b.proposeDone = t := ⟨_, rfl⟩
      rw [ht] at hexec hoff
      have hfr := hoff.frame
      have hrecs : t.ledger.records = a.ledger.records := (congrArg (fun y : State => y.ledger.records) hfr :).trans (congrArg (fun y : State => y.ledger.records) hba :)
      have hcomm : t.ledger.committed = a.ledger.committed :=
        (congrArg (fun y : State => y.ledger.committed) hfr :).trans (congrArg (fun y : State => y.ledger.committed) hba :)
      have htt : t.tensors = a.tensors := (congrArg State.tensors hfr :).trans (congrArg State.tensors hba :)
      exact ⟨t, hexec, fun h => absurd h hfew, fun _ => ⟨hrecs ▸ hmem, hoff.said.mem hsaid, fun h1 hn => hcomm ▸ hcount h1 hn⟩,
        fun h2 => htt.trans (htens h2),
        ((congrArg State.now hfr :).trans (congrArg State.now hba :)).trans (congrArg State.now haround :),
        ((congrArg State.parts hfr :).trans (congrArg State.parts hba :)).trans (congrArg State.parts haround :),
        ((congrArg State.pad hfr :).trans (congrArg State.pad hba :)).trans (congrArg State.pad haround :),
        ((congrArg State.dram hfr :).trans (congrArg State.dram hba :)).trans (congrArg State.dram haround :),
        ((congrArg State.flash hfr :).trans (congrArg State.flash hba :)).trans (congrArg State.flash haround :)⟩
  case commit =>
    intro s q step term hq hterm waiting
    have hexec := exec_commitReceive (step := step) hq hterm
    obtain ⟨s1, hs1⟩ : ∃ s1 : State, { s with ledger := { s.ledger with term := term } } = s1 := ⟨_, rfl⟩
    have haround1 : s1 = { s with ledger := { s.ledger with term := term } } := hs1.symm
    have hfold : s.commitRecords step term = waiting.foldl (fun t r => t.applyRecord r) s1 := hs1 ▸ rfl
    have haround : (s.commitRecords step term).aroundRecord = s1.aroundRecord := by
      rw [hfold]
      exact foldl_aroundRecord (fun t r => t.applyRecord_aroundRecord r) _ _
    obtain ⟨m, hm⟩ : ∃ m, s.commitRecords step term = m := ⟨_, rfl⟩
    rw [hm] at hexec hfold haround
    have hcom : Committing (step + 1) m (if s.ledger.state = 6 then m else (ledgerParts m).foldl (State.commitPart q step) m) := by
      split
      · exact .refl m
      · exact Committing.foldl (fun t p => t.commitPart_committing p) _ m
    have hparts (hs : s.ledger.state ≠ 6) : (if s.ledger.state = 6 then m else (ledgerParts m).foldl (State.commitPart q step) m)
        = (ledgerParts m).foldl (State.commitPart q step) m := if_neg hs
    obtain ⟨t, ht⟩ : ∃ t, (if s.ledger.state = 6 then m else (ledgerParts m).foldl (State.commitPart q step) m) = t := ⟨_, rfl⟩
    rw [ht] at hexec hcom hparts
    have hfr := hcom.frame
    have hone (r : LedgerRecord) (hr : r ∈ waiting) (hall : ∀ x ∈ waiting, x = r) : m = s1.applyRecord r := hfold.trans (s1.applyRecords_one hall hr)
    have hled1 : s1.ledger = { s.ledger with term := term } := (congrArg State.ledger haround1 :)
    refine ⟨t, hexec, ?_, fun hplain => ⟨fun hs p hp hd => ?_, ?_⟩, fun r hr hall hk hn => ?_, fun r hr hall hk hn => ?_, ?_⟩
    · exact ((congrArg (fun y : State => y.ledger.term) hfr :).trans (congrArg (fun y : State => y.ledger.term) haround :)).trans (congrArg Ledger.term hled1 :)
    · obtain ⟨rs, he, cs, hms⟩ := State.applyRecords_plain waiting s1 hplain
      have hmf : m = { s with ledger := { s.ledger with term := term, records := rs, heard := he, committed := cs } } := by
        rw [hfold, hms, ← hs1]
      have hlay : SameLayout s m := ⟨(congrArg State.parts hmf :), (congrArg State.opt hmf :), (congrArg State.tensors hmf :),
        (congrArg (fun y : State => y.sivar.config) hmf :), (congrArg (fun y : State => y.ledger.membership) hmf :)⟩
      have hexch (k : Nat) : m.exchange p k = s.exchange p k := (congrArg (fun y : State => tget ({} : Exchange) y.ledger.exchange (4 * p + k)) hmf :)
      have hdm : partDone m p q step = true := by
        simpa only [partDone, hlay.run, hexch, hlay.liveShards] using hd
      rw [hparts hs, ← hlay.ledgerOf p, ← hlay.domainTensors p]
      obtain ⟨h1, h2⟩ := State.commitParts_commit (hlay.ledgerParts.symm ▸ hp) hdm
      have hten (tid : Nat) : s.tensor tid = m.tensor tid := congrArg (tget ({} : Tensor) · tid) hlay.tensors.symm
      refine ⟨h1, fun tid htid r v hr => ?_⟩
      rw [hten]
      exact h2 tid htid r v ((hlay.recOf tid).trans hr)
    · obtain ⟨rs, he, cs, hms⟩ := State.applyRecords_plain waiting s1 hplain
      have hmf : m = { s with ledger := { s.ledger with term := term, records := rs, heard := he, committed := cs } } := by
        rw [hfold, hms, ← hs1]
      have htm : t = { m with ledger := t.ledger, tensors := t.tensors, quays := t.quays } :=
        (congrArg (fun y : State => { y with ledger := t.ledger }) hfr :)
      exact htm.trans (congrArg (fun y : State => { y with ledger := t.ledger, tensors := t.tensors, quays := t.quays }) hmf :)
    · have hm1 := hone r hr hall
      have hn1 : r ∉ s1.ledger.records := by
        rw [hled1]
        exact hn
      have hcore := s1.applyRecord_roles_core r hn1 hk
      have hmem := s1.applyRecord_mem r
      rw [← hm1] at hcore hmem
      have h1 : t.ledger.roles = m.ledger.roles := (congrArg (fun y : State => y.ledger.roles) hfr :)
      have h2 : t.ledger.roleMap = m.ledger.roleMap := (congrArg (fun y : State => y.ledger.roleMap) hfr :)
      have h3 : t.ledger.records = m.ledger.records := (congrArg (fun y : State => y.ledger.records) hfr :)
      exact ⟨h1.trans (Ledger.core_roles hcore), h2.trans (Ledger.core_roleMap hcore), h3 ▸ hmem⟩
    · have hm1 := hone r hr hall
      have hn1 : r ∉ s1.ledger.records := by
        rw [hled1]
        exact hn
      have hrs : r.step = step := by
        have := (List.mem_filter.mp hr).2
        simp only [Bool.and_eq_true, beq_iff_eq] at this
        exact this.1.1
      rw [s1.applyRecord_rollback r hn1 hk] at hm1
      have hhalt := State.ledgerHalt_frame ((s1.journalled r).rolledBack r) 6
      rw [← hm1] at hhalt
      have h1 : t.ledger.state = m.ledger.state := (congrArg (fun y : State => y.ledger.state) hfr :)
      have h2 : t.ledger.rollbackTo = m.ledger.rollbackTo := (congrArg (fun y : State => y.ledger.rollbackTo) hfr :)
      obtain ⟨j, hj⟩ : ∃ j, s1.journalled r = j := ⟨_, rfl⟩
      rw [hj] at hhalt
      exact ⟨h1.trans (congrArg (fun y : State => y.ledger.state) hhalt :),
        (h2.trans (congrArg (fun y : State => y.ledger.rollbackTo) hhalt :)).trans hrs⟩
    · exact ⟨((congrArg State.now hfr :).trans (congrArg State.now haround :)).trans (congrArg State.now haround1 :),
        ((congrArg State.pad hfr :).trans (congrArg State.pad haround :)).trans (congrArg State.pad haround1 :),
        ((congrArg State.dram hfr :).trans (congrArg State.dram haround :)).trans (congrArg State.dram haround1 :),
        ((congrArg State.flash hfr :).trans (congrArg State.flash haround :)).trans (congrArg State.flash haround1 :)⟩
  case digest =>
    intro s module digest tb ht hm hne
    have hexec := exec_digestReport (digest := digest) ht hm
    obtain ⟨u, hu⟩ : ∃ u, s.noteDigest module digest = u := ⟨_, rfl⟩
    have hdig : u.ledger.digests = s.ledger.digests.filter (fun (d : Nat × BitVec 512) => d.1 != module || module == s.moduleNumber) ++ [(module, digest)] := by
      rw [← hu]
      exact congrArg (_ ++ ·) (if_neg hne)
    have huf : u = { s with ledger := { s.ledger with digests := u.ledger.digests } } := hu ▸ rfl
    have hfr := u.activate_frame
    have hst := u.activate_state (tb := tb) ((congrArg (fun y : State => y.ledger.membership) huf :).trans ht)
    rw [hu] at hexec
    obtain ⟨t, htt⟩ : ∃ t, u.activate = t := ⟨_, rfl⟩
    rw [htt] at hexec hfr hst
    have htd : t.ledger.digests = u.ledger.digests := (congrArg (fun y : State => y.ledger.digests) hfr :)
    have hs0 : u.ledger.state = s.ledger.state := (congrArg (fun y : State => y.ledger.state) huf :)
    have hh0 : u.ledger.hm = s.ledger.hm := (congrArg (fun y : State => y.ledger.hm) huf :)
    have hn0 : u.moduleNumber = s.moduleNumber := (congrArg State.moduleNumber huf :)
    rw [hs0, hh0, hn0, ← htd] at hst
    rw [← htd] at hdig
    refine ⟨t, hexec, by rw [hdig]; exact List.mem_append_right _ (List.mem_singleton_self _), fun d hd h => ?_, ⟨fun h1 h2 h3 => ?_, fun h => ?_⟩, ?_⟩
    · rw [hdig] at hd
      rcases List.mem_append.mp hd with hin | hin
      · have := (List.mem_filter.mp hin).2
        simp [h, hne] at this
      · rw [List.mem_singleton.mp hin]
    · rw [hst, if_pos ⟨h1, h2, h3⟩]
    · rw [hst, if_neg]
      rintro ⟨h1, h2, h3⟩
      rcases h with h | h | h
      · exact h h1
      · rw [h] at h2
        cases h2
      · exact h h3
    · rw [htd]
      exact hfr.trans (congrArg (fun y : State => { y with ledger := { y.ledger with state := t.ledger.state } }) huf :)


end Sys2Proof.Machine
end

section
/-! SUPPORT. Fabric packets: forwarded, mirrored, answered, gathered (R299-R304). -/

namespace Sys2Proof.Machine

/-! ### Packets that a quay takes (R294) -/

/-- A packet that is taken is noted as seen, and nothing else changes. -/
theorem State.fabricTake_takes {s s1 : State} {q typ : Nat} {h : BitVec 256} {bs : List Byte} {p : Nat}
    (ht : s.fabricTake q typ h bs = (s1, some p)) : ∃ x, s1 = { s with fabric := { s.fabric with seen := x } } := by
  unfold State.fabricTake at ht
  split at ht
  · cases ht
  split at ht
  · cases ht
  split at ht
  · cases ht
  split at ht
  · cases ht
  dsimp only at ht
  split at ht
  · cases ht
  · generalize 32767 = n at ht
    cases ht
    exact ⟨_, rfl⟩

/-- A packet is sent on the port of its way, or on none; what was seen does not matter. -/
theorem State.sendPacket_sent (s : State) (x : List (Nat × Nat × Nat)) (q : Nat) (f : FabHead) (bs : List Byte) :
    Sent s (State.sendPacket { s with fabric := { s.fabric with seen := x } } q f bs) q f bs := by
  have hr (q m dq flow : Nat) : routePort { s with fabric := { s.fabric with seen := x } } q m dq flow = routePort s q m dq flow := rfl
  have hm : State.moduleNumber { s with fabric := { s.fabric with seen := x } } = s.moduleNumber := rfl
  unfold State.sendPacket Sent
  dsimp only
  rw [hr, hm]
  generalize routePort s q f.dm f.dq (flowKey s.moduleNumber q f.dm f.dq f.typ f.shard) = o
  cases o with
  | none => exact ⟨fun _ h => (by cases h), fun _ => rfl⟩
  | some port =>
    refine ⟨fun p h => ?_, fun h => by cases h⟩
    cases h
    rfl

theorem State.sendPacket_frame (s : State) (q : Nat) (f : FabHead) (bs : List Byte) : s.sendPacket q f bs =
    { s with fabric := (s.sendPacket q f bs).fabric, ledger := { s.ledger with rejectsReceived := (s.sendPacket q f bs).ledger.rejectsReceived } } := by
  unfold State.sendPacket
  dsimp only
  split <;> rfl

/-! ### The sums of an exchange (R301) -/

/-- What the norms that a quay sends leave: packets, the exchange and the run are all that changes. -/
structure NormSent (s t : State) : Prop where
  frame : t = { s with
    ledger := { s.ledger with exchange := t.ledger.exchange, rejectsReceived := t.ledger.rejectsReceived }
    fabric := t.fabric, opt := { s.opt with runs := t.opt.runs } }
  acks : ∀ p q, (t.exchange p q).mirrorAcks = (s.exchange p q).mirrorAcks

namespace NormSent

variable {s t u : State}

theorem refl (s : State) : NormSent s s := ⟨rfl, fun _ _ => rfl⟩

theorem trans (a : NormSent s t) (b : NormSent t u) : NormSent s u :=
  ⟨b.frame.trans (congrArg (fun y : State => { y with
      ledger := { y.ledger with exchange := u.ledger.exchange, rejectsReceived := u.ledger.rejectsReceived }
      fabric := u.fabric, opt := { y.opt with runs := u.opt.runs } }) a.frame :),
    fun p q => (b.acks p q).trans (a.acks p q)⟩

theorem foldl {α : Type} {f : State → α → State} (hf : ∀ t a, NormSent t (f t a)) (l : List α) (s : State) : NormSent s (l.foldl f s) :=
  List.foldlRecOn (motive := fun t => NormSent s t) l f (refl s) fun t ht a _ => ht.trans (hf t a)

end NormSent

theorem State.exchange_setExchange (s : State) (p q : Nat) (e : Exchange) : (s.setExchange p q e).exchange p q = e :=
  tget_tput_same ({} : Exchange) s.ledger.exchange (4 * p + q) e

/-- Another exchange's part stands. -/
theorem State.exchange_setExchange_of {α : Type} (f : Exchange → α) (s : State) {p q : Nat} {e : Exchange} (h : f e = f (s.exchange p q)) (p' q' : Nat) :
    f ((s.setExchange p q e).exchange p' q') = f (s.exchange p' q') := by
  have he : (s.setExchange p q e).exchange p' q' = if 4 * p' + q' = 4 * p + q then e else s.exchange p' q' :=
    tget_tput ({} : Exchange) s.ledger.exchange (4 * p + q) (4 * p' + q') e
  rw [he]
  split
  · next hk =>
    rw [h]
    exact congrArg (fun k => f (tget ({} : Exchange) s.ledger.exchange k)) hk.symm
  · rfl

section
variable (s : State)

theorem State.sendPacket_normSent (q : Nat) (f : FabHead) (bs : List Byte) : NormSent s (s.sendPacket q f bs) := by
  have h := s.sendPacket_frame q f bs
  obtain ⟨t, ht⟩ : ∃ t, s.sendPacket q f bs = t := ⟨_, rfl⟩
  rw [ht] at h ⊢
  refine ⟨?_, fun p q => (congrArg (fun y : State => (tget ({} : Exchange) y.ledger.exchange (4 * p + q)).mirrorAcks) h :)⟩
  have h1 : t.ledger.exchange = s.ledger.exchange := (congrArg (fun y : State => y.ledger.exchange) h :)
  have h2 : t.opt = s.opt := (congrArg State.opt h :)
  rw [h1, h2]
  exact h

theorem State.setRun_normSent (p : Nat) (r : UpdateRun) : NormSent s (s.setRun p r) := ⟨rfl, fun _ _ => rfl⟩

theorem State.setExchange_normSent {p q : Nat} {e : Exchange} (h : e.mirrorAcks = (s.exchange p q).mirrorAcks) : NormSent s (s.setExchange p q e) :=
  ⟨rfl, fun p' q' => State.exchange_setExchange_of Exchange.mirrorAcks s h p' q'⟩

theorem State.formNorm_normSent (p q : Nat) : NormSent s (s.formNorm p q) := by
  simp only [State.formNorm]
  split
  · exact .refl s
  · exact s.setRun_normSent p _

theorem State.sendShardSum_normSent (p q n : Nat) : NormSent s (s.sendShardSum p q n) := by
  simp only [State.sendShardSum]
  split
  · exact .refl s
  · refine ((s.setExchange_normSent ?_).trans (NormSent.foldl (fun t h => ?_) _ _)).trans (State.formNorm_normSent _ p q)
    · rfl
    · split
      · exact .refl t
      · exact t.sendPacket_normSent ..

theorem State.sendNorm_normSent (p q : Nat) : NormSent s (s.sendNorm p q) := by
  simp only [State.sendNorm]
  split
  · exact .refl s
  · exact NormSent.foldl (fun t n => t.sendShardSum_normSent p q n) _ s

/-- While a mirror has not acknowledged, no sum goes out. -/
theorem State.sendNorm_waits {p q : Nat} (h : (s.exchange p q).mirrorAcks ≠ []) : s.sendNorm p q = s := by
  unfold State.sendNorm
  dsimp only
  rw [if_pos]
  simp [h]

end

/-! ### Stream bytes (R302-R304) -/

/-- Part of an exchange stands where another part changes. -/
theorem State.setExchange_gathered (s : State) {p q : Nat} {e : Exchange} (h : e.gathered = (s.exchange p q).gathered) (p' q' : Nat) :
    ((s.setExchange p q e).exchange p' q').gathered = (s.exchange p' q').gathered := State.exchange_setExchange_of Exchange.gathered s h p' q'

theorem foldl_exchange {α : Type} {f : State → α → State} (hf : ∀ t a, (f t a).ledger.exchange = t.ledger.exchange) (l : List α) (s : State) :
    (l.foldl f s).ledger.exchange = s.ledger.exchange :=
  List.foldlRecOn (motive := fun t => t.ledger.exchange = s.ledger.exchange) l f rfl fun t ht a _ => (hf t a).trans ht

theorem State.sendPacket_exchange (s : State) (q : Nat) (f : FabHead) (bs : List Byte) : (s.sendPacket q f bs).ledger.exchange = s.ledger.exchange :=
  (congrArg (fun y : State => y.ledger.exchange) (s.sendPacket_frame q f bs) :)

theorem State.sendBytes_exchange (s : State) (p q n step dm : Nat) (bs : List Byte) : (s.sendBytes p q n step dm bs).ledger.exchange = s.ledger.exchange :=
  foldl_exchange (fun t _ => t.sendPacket_exchange q _ _) _ s

theorem State.exchange_of {s t : State} (h : t.ledger.exchange = s.ledger.exchange) (p q : Nat) : t.exchange p q = s.exchange p q :=
  congrArg (tget ({} : Exchange) · (4 * p + q)) h

theorem State.relayGather_gathered (s : State) (p q p' q' : Nat) : ((s.relayGather p q).exchange p' q').gathered = (s.exchange p' q').gathered := by
  unfold State.relayGather
  dsimp only
  split
  · rfl
  · obtain ⟨u, hu⟩ : ∃ u, s.setExchange p q { s.exchange p q with relayed := true } = u := ⟨_, rfl⟩
    have h : (u.exchange p' q').gathered = (s.exchange p' q').gathered := by
      rw [← hu]
      exact s.setExchange_gathered (e := { s.exchange p q with relayed := true }) rfl p' q'
    rw [hu, ← h]
    refine congrArg Exchange.gathered (State.exchange_of (foldl_exchange (fun t j => ?_) _ u) p' q')
    split
    · rfl
    · exact foldl_exchange (fun v n => v.sendBytes_exchange ..) _ t

theorem State.completeVersion_gathered (s : State) (p q p' q' : Nat) :
    ((s.completeVersion p q).exchange p' q').gathered = (s.exchange p' q').gathered := by
  unfold State.completeVersion
  dsimp only
  split
  · rfl
  · have done (v : State) (c : Bool) (r : UpdateRun) (x : UpdateReport) : (if c then (v.setRun p r).pushReport x else v).ledger.exchange = v.ledger.exchange := by
      split <;> rfl
    rw [State.exchange_of (done _ _ _ _)]
    have inner : ∀ v : State, v.ledger.exchange = s.ledger.exchange →
        ((v.setExchange p q { s.exchange p q with shardDone := true }).exchange p' q').gathered = (s.exchange p' q').gathered := fun v hv => by
      rw [v.setExchange_gathered (by rw [State.exchange_of hv]), State.exchange_of hv]
    refine inner _ ?_
    refine (foldl_exchange (fun t e => ?_) _ _).trans (foldl_exchange (fun t tid => ?_) _ s)
    · rfl
    · split <;> rfl

/-- Stream bytes go to the tensors; the quays forget the damage of what they replace. -/
def StreamTaken (s t : State) : Prop := t = { s with tensors := t.tensors, quays := t.quays }

theorem StreamTaken.trans {s t u : State} (a : StreamTaken s t) (b : StreamTaken t u) : StreamTaken s u :=
  Eq.trans b (congrArg (fun y : State => { y with tensors := u.tensors, quays := u.quays }) a :)

theorem State.setTensor_streamTaken (s : State) (k : Nat) (x : Tensor) : StreamTaken s (s.setTensor k x) := rfl

theorem State.openSlot_streamTaken (s : State) (tid v : Nat) : StreamTaken s (s.openSlot tid v) := by
  unfold State.openSlot
  dsimp only
  split_ifs <;> rfl

theorem State.putStream_streamTaken (s : State) (p n version off : Nat) (data : List Byte) : StreamTaken s (s.putStream p n version off data) := by
  unfold State.putStream
  refine List.foldlRecOn (motive := fun (acc : State × Nat) => StreamTaken s acc.1) _ _ rfl fun acc h e _ => ?_
  split
  · exact h
  · dsimp only
    split_ifs
    · split
      · exact h
      · exact (h.trans (State.openSlot_streamTaken _ _ _)).trans (State.setTensor_streamTaken _ _ _)
    · exact h

/-- Stream bytes that land count in the exchange of their quay. -/
theorem State.landStream_lands (s : State) (p n step off : Nat) (data : List Byte) :
    (s.landStream p n step off data = { s with
      tensors := (s.landStream p n step off data).tensors, quays := (s.landStream p n step off data).quays
      ledger := { s.ledger with exchange := (s.landStream p n step off data).ledger.exchange } })
    ∧ (s.landStream p n step off data).exchange p (n % 4) = (s.exchange p (n % 4)).gather n off data.length := by
  have h := s.putStream_streamTaken p n (step + 1) off data
  have hl := s.putStream_ledger p n (step + 1) off data
  unfold State.landStream
  obtain ⟨t, ht⟩ : ∃ t, s.putStream p n (step + 1) off data = t := ⟨_, rfl⟩
  rw [ht] at h hl ⊢
  have he : t.exchange p (n % 4) = s.exchange p (n % 4) := State.exchange_of (by rw [hl]) p (n % 4)
  dsimp only
  rw [he]
  refine ⟨?_, State.exchange_setExchange t p (n % 4) _⟩
  generalize (s.exchange p (n % 4)).gather n off data.length = e
  have hE : t.setExchange p (n % 4) e = { t with ledger := { s.ledger with exchange := tput {} t.ledger.exchange (4 * p + n % 4) e } } := by
    simp only [State.setExchange, hl]
  have h' : t = { s with tensors := t.tensors, quays := t.quays } := h
  rw [hE]
  exact (congrArg (fun y : State => { y with ledger := { s.ledger with exchange := tput {} t.ledger.exchange (4 * p + n % 4) e } }) h' :)
/-! ### What a taken packet leaves -/

/-- A state that differs in its fabric alone. -/
structure FabricOnly (s t : State) : Prop where
  frame : t = { s with fabric := t.fabric }

namespace FabricOnly

variable {s t : State} (h : FabricOnly s t)
include h

theorem layout : SameLayout s t :=
  ⟨(congrArg State.parts h.frame :), (congrArg State.opt h.frame :), (congrArg State.tensors h.frame :),
    (congrArg (fun y : State => y.sivar.config) h.frame :), (congrArg (fun y : State => y.ledger.membership) h.frame :)⟩

theorem ledger : t.ledger = s.ledger := (congrArg State.ledger h.frame :)

theorem exchange (p q : Nat) : t.exchange p q = s.exchange p q := State.exchange_of (congrArg Ledger.exchange h.ledger) p q

theorem setExchange_frame (p q : Nat) (e : Exchange) :
    t.setExchange p q e = { s with fabric := t.fabric, ledger := (t.setExchange p q e).ledger } :=
  (congrArg (fun y : State => { y with ledger := (t.setExchange p q e).ledger }) h.frame :)

theorem holderOf (p n : Nat) : holderOf t p n = holderOf s p n := h.layout.holderOf (congrArg Ledger.roles h.ledger) p n

theorem mirroredHere (p q : Nat) : mirroredHere t p q = mirroredHere s p q := by
  simp only [Machine.mirroredHere, h.layout.liveShards, h.layout.placeOf, h.layout.partnerOf, h.layout.moduleNumber, h.layout.mirrorSlabs]

theorem copyShards (p q : Nat) : copyShards t p q = copyShards s p q := by
  simp only [Machine.copyShards, h.mirroredHere, Machine.ownLive, h.layout.shardSlabsNo, h.layout.ownShard, Machine.holdsShard,
    h.holderOf, h.layout.moduleNumber, Machine.mirrorBad, h.ledger]

end FabricOnly

/-- The slabs of a copy are a matter of the layout and the role map. -/
theorem SameLayout.copySlabs {s t : State} (h : SameLayout s t) (hr : t.ledger.roles = s.ledger.roles) (p q n : Nat) :
    copySlabs t p q n = copySlabs s p q n := by
  simp only [Machine.copySlabs, h.ownShard, h.mirrorSlabs, h.holderOf hr]

theorem SameLayout.slabSpan {s t : State} (h : SameLayout s t) (tid j : Nat) : slabSpan t tid j = slabSpan s tid j := by
  simp only [Machine.slabSpan, elemsOf, h.recOf]

theorem SameLayout.slabBases {s t : State} (h : SameLayout s t) (l : List (Nat × Nat × Nat)) (b : Nat) : slabBases t l b = slabBases s l b := by
  induction l generalizing b with
  | nil => rfl
  | cons e l ih => obtain ⟨k, tid, j⟩ := e; simp only [Machine.slabBases, h.slabSpan, ih]

theorem SameLayout.locateSlab {s t : State} (h : SameLayout s t) (l : List (Nat × Nat × Nat)) (off : Nat) :
    locateSlab t l off = locateSlab s l off := by
  simp only [Machine.locateSlab, h.slabBases, h.slabSpan]

theorem SameLayout.mirrorWhole {s t : State} (h : SameLayout s t) (hr : t.ledger.roles = s.ledger.roles) {p q : Nat}
    (he : t.exchange p q = s.exchange p q) (n step : Nat) : mirrorWhole t p q n step = mirrorWhole s p q n step := by
  simp only [Machine.mirrorWhole, he, h.copySlabs hr, h.slabSpan]

theorem SameLayout.streamTiles {s t : State} (h : SameLayout s t) (l : List (Nat × Nat × Nat)) : streamTiles t l = streamTiles s l := by
  simp only [Machine.streamTiles, h.slabSpan]

/-- A shard's stream is read from the tensors. -/
theorem SameLayout.shardStream {s t : State} (h : SameLayout s t) (hc : t.freeCtr = s.freeCtr) (p n v : Nat) :
    shardStream t p n v = shardStream s p n v := by
  simp only [Machine.shardStream, h.shardSlabsNo, h.streamTiles, h.recOf, State.tensor, h.tensors, hc]

theorem State.fabricTake_only {s s1 : State} {q typ : Nat} {h : BitVec 256} {bs : List Byte} {p : Nat}
    (ht : s.fabricTake q typ h bs = (s1, some p)) : FabricOnly s s1 := by
  obtain ⟨x, hx⟩ := State.fabricTake_takes ht
  exact ⟨by rw [hx]⟩

/-! ### Packets that go on, and packets that are answered (R297, R308) -/

section
variable {s s1 : State} {q p : Nat} {h : BitVec 256} {pay : List Byte}

/-- The REJECT that answers a packet. -/
def rejectHead (h : BitVec 256) : FabHead :=
  { typ := 10, dm := fabSrc h, dq := fabSrcQuay h, ledger := fabLedger h, step := fabStep h, shard := fabShard h, off := fabOffset h }

theorem State.sendPacket_keeps (s : State) (q : Nat) (f : FabHead) (bs : List Byte) :
    s.sendPacket q f bs = { s with fabric := (s.sendPacket q f bs).fabric, ledger := (s.sendPacket q f bs).ledger } := by
  have h := s.sendPacket_frame q f bs
  obtain ⟨t, ht⟩ : ∃ t, s.sendPacket q f bs = t := ⟨_, rfl⟩
  rw [ht] at h ⊢
  have hl : t.ledger = { s.ledger with rejectsReceived := t.ledger.rejectsReceived } := (congrArg State.ledger h :)
  rw [hl]
  exact h

theorem exec_packetForward_elsewhere (hq : q < 4) (hd : fabDst h ≠ s.moduleNumber ∨ fabDstQuay h ≠ q) :
    exec (.packetForward q h pay) s = .next (if !fabOk h pay then s.dropPacket else
      match routePort s q (fabDst h) (fabDstQuay h)
          (flowKey (fabSrc h) (fabSrcQuay h) (fabDst h) (fabDstQuay h) (fabType h) (fabShard h)) with
      | some port => { s with fabric := { s.fabric with sent := s.fabric.sent ++ [(port, h, pay)] } }
      | none => if fabType h = 10 then s else s.rejectPacket q h) := by
  refine (if_pos hq).trans (congrArg Host.Outcome.next ((if_neg ?_).trans rfl))
  rintro ⟨h1, h2⟩
  exact hd.elim (· h1) (· h2)

theorem exec_packetForward_drops (hq : q < 4) (hd : fabDst h ≠ s.moduleNumber ∨ fabDstQuay h ≠ q) (hb : fabOk h pay = false) :
    exec (.packetForward q h pay) s = .next { s with fabric := { s.fabric with discarded := satAdd 32 s.fabric.discarded 1 } } := by
  rw [exec_packetForward_elsewhere hq hd, hb]
  rfl

theorem exec_packetForward_forwards (hq : q < 4) (hd : fabDst h ≠ s.moduleNumber ∨ fabDstQuay h ≠ q) (hb : fabOk h pay = true) {port : Nat}
    (hr : routePort s q (fabDst h) (fabDstQuay h)
      (flowKey (fabSrc h) (fabSrcQuay h) (fabDst h) (fabDstQuay h) (fabType h) (fabShard h)) = some port) :
    exec (.packetForward q h pay) s = .next { s with fabric := { s.fabric with sent := s.fabric.sent ++ [(port, h, pay)] } } := by
  rw [exec_packetForward_elsewhere hq hd, hb, hr]
  rfl

theorem exec_packetForward_rejects (hq : q < 4) (hd : fabDst h ≠ s.moduleNumber ∨ fabDstQuay h ≠ q) (hb : fabOk h pay = true)
    (hr : routePort s q (fabDst h) (fabDstQuay h)
      (flowKey (fabSrc h) (fabSrcQuay h) (fabDst h) (fabDstQuay h) (fabType h) (fabShard h)) = none) (hy : fabType h ≠ 10) :
    exec (.packetForward q h pay) s = .next (s.sendPacket q (rejectHead h) []) := by
  rw [exec_packetForward_elsewhere hq hd, hb, hr]
  exact congrArg Host.Outcome.next (if_neg hy)

theorem exec_rejectPacketReceive_counts (hq : q < 4) (ht : s.fabricTake q 10 h [] = (s1, some p)) :
    exec (.rejectPacketReceive q h) s
      = .next { s with fabric := s1.fabric, ledger := { s.ledger with rejectsReceived := satAdd 32 s.ledger.rejectsReceived 1 } } := by
  have hs := (State.fabricTake_only ht).frame
  refine (if_pos hq).trans (congrArg Host.Outcome.next ?_)
  rw [ht]
  exact (congrArg (fun y : State => { y with ledger := { y.ledger with rejectsReceived := satAdd 32 y.ledger.rejectsReceived 1 } }) hs :)

/-- The stream data that answers a read. -/
def readData (s : State) (p : Nat) (h : BitVec 256) : List Byte :=
  ((shardStream s p (fabShard h) (fabStep h)).drop (512 * fabOffset h)).take 4096

/-- The packet that answers a read. -/
def dataHead (h : BitVec 256) : FabHead :=
  { typ := 7, dm := fabSrc h, dq := fabSrcQuay h, ledger := fabLedger h, step := fabStep h, shard := fabShard h, off := fabOffset h, final := true }

theorem exec_quayReadReqReceive_answers (hq : q < 4) (ht : s.fabricTake q 6 h [] = (s1, some p))
    (ha : ∀ e ∈ streamTiles s (shardSlabsNo s p (fabShard h)), ((s.tensor e.1).slot (fabStep h)).isSome = true) (hd : readData s p h ≠ []) :
    exec (.quayReadReqReceive q h) s = .next (s1.sendPacket q (dataHead h) (readData s p h)).bump := by
  have hs := State.fabricTake_only ht
  have hl := hs.layout
  have hc : s1.freeCtr = s.freeCtr := (congrArg State.freeCtr hs.frame :)
  refine (if_pos hq).trans (congrArg Host.Outcome.next ?_)
  rw [ht]
  have hall : (streamTiles s1 (shardSlabsNo s1 p (fabShard h))).all (fun e => ((s1.tensor e.1).slot (fabStep h)).isSome) = true := by
    rw [hl.shardSlabsNo, hl.streamTiles, List.all_eq_true]
    intro e he
    simpa only [State.tensor, hl.tensors] using ha e he
  have hx : ((shardStream s1 p (fabShard h) (fabStep h)).drop (512 * fabOffset h)).take 4096 = readData s p h := by
    rw [hl.shardStream hc]; rfl
  dsimp only
  rw [if_pos hall, hx, if_neg (by simpa using hd)]
  rfl

/-- An answer goes out past what was seen of the fabric. -/
theorem State.sendPacket_answers (ht : s.fabricTake q 6 h [] = (s1, some p)) (f : FabHead) (bs : List Byte) :
    Sent s (s1.sendPacket q f bs).bump q f bs ∧ (s1.sendPacket q f bs).bump =
      { s with fabric := (s1.sendPacket q f bs).bump.fabric, ledger := (s1.sendPacket q f bs).bump.ledger, freeCtr := s.freeCtr + 1 } := by
  obtain ⟨x, hx⟩ := State.fabricTake_takes ht
  have hk := s1.sendPacket_keeps q f bs
  have hsent : Sent s (s1.sendPacket q f bs) q f bs := by rw [hx]; exact s.sendPacket_sent x q f bs
  obtain ⟨t, htt⟩ : ∃ t, s1.sendPacket q f bs = t := ⟨_, rfl⟩
  rw [htt] at hk hsent ⊢
  have h2 : t = { s with fabric := t.fabric, ledger := t.ledger } :=
    hk.trans (congrArg (fun y : State => { y with fabric := t.fabric, ledger := t.ledger }) hx :)
  exact ⟨hsent, (congrArg (fun y : State => { y with freeCtr := y.freeCtr + 1 }) h2 :)⟩

end

/-! ### Mirror data (R299) -/

/-- A copy that begins a new step forgets what it had of the step before. -/
def Exchange.mirrorAt (ex0 : Exchange) (n step : Nat) : Exchange :=
  if tfind ex0.mirrorStep n = some step then ex0
  else { ex0 with
    mirrorStep := tset ex0.mirrorStep n step, mirrorGot := ex0.mirrorGot.filter (fun e => e.1 != n)
    mirrorRows := ex0.mirrorRows.filter (fun e => e.1 != n), mirrorFinal := ex0.mirrorFinal.filter (fun e => e.1 != n) }

/-- Rows of a ROWS tensor, or values, join the copy. -/
def Exchange.mirrorPut (ex : Exchange) (n off tid first : Nat) (pay : List Byte) : Exchange :=
  if rowsMark ≤ off then { ex with mirrorRows := ((payloadRows tid pay).map (fun k => (n, k))).foldl addOnce ex.mirrorRows }
  else { ex with mirror := putValues ex.mirror tid first pay, mirrorGot := addOnce ex.mirrorGot (n, off) }

/-- The exchange after a packet of mirror data. -/
def Exchange.mirrored (ex0 : Exchange) (h : BitVec 256) (tid first : Nat) (pay : List Byte) : Exchange :=
  let n := fabShard h
  let step := fabStep h
  let ex1 := (ex0.mirrorAt n step).mirrorPut n (fabOffset h) tid first pay
  if fabFinal h then { ex1 with mirrorFinal := addOnce ex1.mirrorFinal (n, step) } else ex1

theorem mem_foldl_addOnce {α : Type} [DecidableEq α] (l m : List α) (a : α) : a ∈ l.foldl addOnce m ↔ a ∈ l ∨ a ∈ m := by
  induction l generalizing m with
  | nil => simp
  | cons b l ih =>
    have h : a ∈ addOnce m b ↔ a = b ∨ a ∈ m := by
      unfold addOnce
      split
      · next hb => exact ⟨.inr, fun h => h.elim (fun e => e ▸ hb) id⟩
      · simp [or_comm]
    rw [List.foldl_cons, ih, h, List.mem_cons]
    tauto

namespace Exchange

variable (ex : Exchange) (h : BitVec 256) (n step off tid first : Nat) (pay : List Byte)

theorem mirrorAt_step : tfind (ex.mirrorAt n step).mirrorStep n = some step := by
  unfold mirrorAt
  split
  · assumption
  · rw [tfind_tset, if_pos rfl]

theorem mirrorAt_mirror : (ex.mirrorAt n step).mirror = ex.mirror := by unfold mirrorAt; split <;> rfl

theorem mirrorPut_step : (ex.mirrorPut n off tid first pay).mirrorStep = ex.mirrorStep := by unfold mirrorPut; split <;> rfl

theorem mirrored_eq : ∃ f, ex.mirrored h tid first pay =
    { (ex.mirrorAt (fabShard h) (fabStep h)).mirrorPut (fabShard h) (fabOffset h) tid first pay with mirrorFinal := f }
    ∧ (fabFinal h = true → (fabShard h, fabStep h) ∈ f) := by
  unfold mirrored
  dsimp only
  split
  · exact ⟨_, rfl, fun _ => mem_addOnce ..⟩
  · next hf => exact ⟨_, rfl, fun h => absurd h hf⟩

theorem mirrored_step : tfind (ex.mirrored h tid first pay).mirrorStep (fabShard h) = some (fabStep h) := by
  obtain ⟨f, hf, -⟩ := ex.mirrored_eq h tid first pay
  rw [hf]
  dsimp only
  rw [mirrorPut_step]
  exact ex.mirrorAt_step _ _

theorem mirrored_final (hf : fabFinal h = true) : (fabShard h, fabStep h) ∈ (ex.mirrored h tid first pay).mirrorFinal := by
  obtain ⟨f, he, hm⟩ := ex.mirrored_eq h tid first pay
  rw [he]
  exact hm hf

theorem mirrored_values (ho : fabOffset h < rowsMark) : (ex.mirrored h tid first pay).mirror = putValues ex.mirror tid first pay
    ∧ (fabShard h, fabOffset h) ∈ (ex.mirrored h tid first pay).mirrorGot := by
  obtain ⟨f, hf, -⟩ := ex.mirrored_eq h tid first pay
  rw [hf, mirrorPut, if_neg (by omega)]
  exact ⟨congrArg (putValues · tid first pay) (ex.mirrorAt_mirror _ _), mem_addOnce ..⟩

theorem mirrored_rows (ho : rowsMark ≤ fabOffset h) : (ex.mirrored h tid first pay).mirror = ex.mirror
    ∧ ∀ r ∈ payloadRows tid pay, (fabShard h, r) ∈ (ex.mirrored h tid first pay).mirrorRows := by
  obtain ⟨f, hf, -⟩ := ex.mirrored_eq h tid first pay
  rw [hf, mirrorPut, if_pos ho]
  exact ⟨ex.mirrorAt_mirror _ _, fun r hr => (mem_foldl_addOnce ..).2 (.inl (List.mem_map_of_mem hr))⟩

end Exchange

/-- A copy that has become whole is acknowledged. -/
def State.acknowledge (s : State) (whole : Bool) (m : LedgerMsg) : State := if whole then s.say m else s

theorem exec_mirrorReceive_takes {s s1 : State} {q p k tid j first : Nat} {h : BitVec 256} {pay : List Byte} (hq : q < 4)
    (ht : s.fabricTake q 5 h pay = (s1, some p)) (hc : fabShard h ∈ copyShards s p q) (hstep : (s.exchange p q).step ≤ fabStep h)
    (hl : locateSlab s (copySlabs s p q (fabShard h)) (fabOffset h) = some (k, tid, j, first)) :
    exec (.mirrorReceive q h pay) s =
      .next ((s1.setExchange p q ((s.exchange p q).mirrored h tid first pay)).acknowledge
        (mirrorWhole (s1.setExchange p q ((s.exchange p q).mirrored h tid first pay)) p q (fabShard h) (fabStep h)
          && !mirrorWhole s p q (fabShard h) (fabStep h)) (.mirrorAck (fabShard h) (fabSrc h) (fabSrcQuay h))) := by
  have hs := State.fabricTake_only ht
  refine (if_pos hq).trans (congrArg Host.Outcome.next ?_)
  rw [ht]
  dsimp only
  rw [hs.copyShards, if_neg (not_not.2 hc), hs.exchange, if_neg (by omega), hs.layout.copySlabs (congrArg Ledger.roles hs.ledger),
    hs.layout.locateSlab, hl]
  rfl

theorem State.say_mirrorWhole (u : State) (m : LedgerMsg) (p q n step : Nat) : mirrorWhole (u.say m) p q n step = mirrorWhole u p q n step := by
  have hl : SameLayout u (u.say m) := ⟨rfl, rfl, rfl, rfl, rfl⟩
  have he : (u.say m).exchange p q = u.exchange p q := rfl
  have hr : (u.say m).ledger.roles = u.ledger.roles := rfl
  exact hl.mirrorWhole hr he n step

/-- What a packet of mirror data leaves. -/
theorem State.mirrored_takes {s s1 : State} {q p tid first : Nat} {h : BitVec 256} {pay : List Byte} (hs : FabricOnly s s1) (was : Bool)
    (m : LedgerMsg) {t : State} (ht : (s1.setExchange p q ((s.exchange p q).mirrored h tid first pay)).acknowledge
        (mirrorWhole (s1.setExchange p q ((s.exchange p q).mirrored h tid first pay)) p q (fabShard h) (fabStep h) && !was) m = t) :
    t.exchange p q = (s.exchange p q).mirrored h tid first pay
    ∧ (mirrorWhole t p q (fabShard h) (fabStep h) = true → was = false → t.ledger.sentMsgs = s.ledger.sentMsgs ++ [m])
    ∧ (mirrorWhole t p q (fabShard h) (fabStep h) = false → t.ledger.sentMsgs = s.ledger.sentMsgs)
    ∧ t = { s with fabric := s1.fabric, ledger := t.ledger } := by
  obtain ⟨e, hm⟩ : ∃ e, (s.exchange p q).mirrored h tid first pay = e := ⟨_, rfl⟩
  rw [hm] at ht ⊢
  obtain ⟨u, hu⟩ : ∃ u, s1.setExchange p q e = u := ⟨_, rfl⟩
  have he : u.exchange p q = e := hu ▸ State.exchange_setExchange ..
  have hsent : u.ledger.sentMsgs = s.ledger.sentMsgs :=
    (congrArg (fun y : State => y.ledger.sentMsgs) hu).symm.trans (congrArg Ledger.sentMsgs hs.ledger :)
  have hf : u = { s with fabric := s1.fabric, ledger := u.ledger } := by
    rw [← hu]
    exact hs.setExchange_frame p q e
  rw [hu] at ht
  obtain ⟨w, hw⟩ : ∃ w, mirrorWhole u p q (fabShard h) (fabStep h) = w := ⟨_, rfl⟩
  rw [hw] at ht
  have hsay : mirrorWhole (u.say m) p q (fabShard h) (fabStep h) = w := (u.say_mirrorWhole m p q _ _).trans hw
  unfold State.acknowledge at ht
  split at ht
  · next hc =>
    subst ht
    rw [hsay]
    have hw' : w = true := (Bool.and_eq_true_iff.1 hc).1
    refine ⟨he, fun _ _ => ?_, fun hn => ?_, (congrArg (fun y : State => y.say m) hf :)⟩
    · exact congrArg (· ++ [m]) hsent
    · rw [hw'] at hn; cases hn
  · next hc =>
    subst ht
    rw [hw]
    refine ⟨he, fun h1 h2 => ?_, fun _ => hsent, hf⟩
    rw [h1, h2] at hc
    exact absurd rfl hc

/-! ### Acknowledged mirrors and norms (R301) -/

theorem exec_mirrorAck_notes {s : State} {q n p : Nat} (hq : q < 4)
    (hp : exchangeWhere s q (fun p e => e.farClosed && decide (n ∈ e.mirrorAcks) && decide (n ∈ heldShards s p q)) = some p) :
    exec (.mirrorAck q n) s
      = .next ((s.setExchange p q { s.exchange p q with mirrorAcks := (s.exchange p q).mirrorAcks.erase n }).sendNorm p q) := by
  refine (if_pos hq).trans (congrArg Host.Outcome.next ?_)
  rw [hp]

/-- A copy that is acknowledged is no longer waited for; while another is, nothing goes out. -/
theorem State.acknowledged_sends (s : State) (q n p : Nat) {t : State}
    (ht : (s.setExchange p q { s.exchange p q with mirrorAcks := (s.exchange p q).mirrorAcks.erase n }).sendNorm p q = t) :
    (t.exchange p q).mirrorAcks = (s.exchange p q).mirrorAcks.erase n
    ∧ ((s.exchange p q).mirrorAcks.erase n ≠ [] → (t.exchange p q).normsSent = (s.exchange p q).normsSent ∧ t.fabric = s.fabric)
    ∧ t = { s with fabric := t.fabric, ledger := t.ledger, opt := t.opt } := by
  obtain ⟨u, hu⟩ : ∃ u, s.setExchange p q { s.exchange p q with mirrorAcks := (s.exchange p q).mirrorAcks.erase n } = u := ⟨_, rfl⟩
  have he : u.exchange p q = { s.exchange p q with mirrorAcks := (s.exchange p q).mirrorAcks.erase n } := hu ▸ State.exchange_setExchange ..
  have hf : u = { s with ledger := u.ledger } := by rw [← hu]; rfl
  rw [hu] at ht
  have hn := u.sendNorm_normSent p q
  rw [ht] at hn
  have hl : t.ledger = { u.ledger with exchange := t.ledger.exchange, rejectsReceived := t.ledger.rejectsReceived } := (congrArg State.ledger hn.frame :)
  have ho : t.opt = { u.opt with runs := t.opt.runs } := (congrArg State.opt hn.frame :)
  have hframe : t = { u with ledger := t.ledger, fabric := t.fabric, opt := t.opt } := by
    rw [hl, ho]
    exact hn.frame
  refine ⟨(hn.acks p q).trans (congrArg Exchange.mirrorAcks he), fun hne => ?_,
    hframe.trans (congrArg (fun y : State => { y with ledger := t.ledger, fabric := t.fabric, opt := t.opt }) hf :)⟩
  have htu : t = u := ht.symm.trans (u.sendNorm_waits (by rw [he]; exact hne))
  rw [htu]
  exact ⟨(congrArg Exchange.normsSent he :), (congrArg State.fabric hf :)⟩

section
variable {s s1 : State} {q p : Nat} {h : BitVec 256} {pay : List Byte} (hq : q < 4) (ht : s.fabricTake q 3 h pay = (s1, some p))
  (hh : holderOf s p (fabShard h) = (fabSrc h, fabSrcQuay h)) (hlen : pay.length = 8)
include hq ht hh hlen

theorem exec_normReceive_keeps (he : (s.exchange p q).step < fabStep h ∨ (s.exchange p q).began = false) :
    exec (.normReceive q h pay) s = .next (s1.setExchange p q { s.exchange p q with
      earlyNorms := (s.exchange p q).earlyNorms ++ [(fabStep h, fabShard h, BitVec.ofNat 64 (leNat pay))] }) := by
  have hs := State.fabricTake_only ht
  refine (if_pos hq).trans (congrArg Host.Outcome.next ?_)
  rw [ht]
  dsimp only
  rw [hs.exchange, hs.holderOf, if_neg (by simp [hh, hlen]), if_pos (he.imp_right (by simp +contextual))]

theorem exec_normReceive_forms (hb : (s.exchange p q).began = true) (hstep : fabStep h = (s.exchange p q).step) :
    exec (.normReceive q h pay) s = .next ((s1.setExchange p q { s.exchange p q with
      norms := tset (s.exchange p q).norms (fabShard h) (BitVec.ofNat 64 (leNat pay)) }).formNorm p q) := by
  have hs := State.fabricTake_only ht
  refine (if_pos hq).trans (congrArg Host.Outcome.next ?_)
  rw [ht]
  dsimp only
  rw [hs.exchange, hs.holderOf, if_neg (by simp [hh, hlen]), if_neg (by simp [hb, hstep]), if_neg (by omega)]

end

/-- The norm is formed of every shard's sum, in order, and the clip factor of it. -/
theorem State.formNorm_forms (u : State) (p q : Nat) {t : State} (ht : u.formNorm p q = t) :
    (t.exchange p q = u.exchange p q) ∧ t = { u with opt := t.opt } ∧
    ((u.run p).g2 = none → (∀ n ∈ liveShards u p, (tfind (u.exchange p q).norms n).isSome = true) →
      (t.run p).g2 = some (treeOf ((liveShards u p).map (fun n => tget 0 (u.exchange p q).norms n)))
      ∧ (t.run p).cf = clipFactor (treeOf ((liveShards u p).map (fun n => tget 0 (u.exchange p q).norms n))) (domTheta (u.run p).domRec)) := by
  simp only [State.formNorm] at ht
  split at ht
  · next hc =>
    subst ht
    refine ⟨rfl, rfl, fun hg hn => ?_⟩
    have hw : normsWhole u p q = true := List.all_eq_true.2 hn
    simp [hg, hw] at hc
  · subst ht
    refine ⟨rfl, rfl, fun _ _ => ?_⟩
    have hr : ∀ r : UpdateRun, (u.setRun p r).run p = r := fun r => tget_tput_same ({} : UpdateRun) u.opt.runs p r
    rw [hr]
    exact ⟨rfl, rfl⟩

/-! ### Gathered bytes (R302-R304) -/

theorem exec_gatherReceive_waits {s : State} {q p : Nat} {h : BitVec 256} {pay : List Byte} (hq : q < 4) (hp : p < 8)
    (hw : ∃ e ∈ streamTiles s (shardSlabsNo s p (fabShard h)), slotReady s e.1 ((s.exchange p q).step + 1) = false) :
    exec (.gatherReceive q h pay) s = .next s := by
  refine (if_pos hq).trans (congrArg Host.Outcome.next (if_pos ?_))
  obtain ⟨e, he, hr⟩ := hw
  exact List.any_eq_true.2 ⟨p, List.mem_range.2 hp, List.any_eq_true.2 ⟨e, he, by rw [hr]; rfl⟩⟩

/-- What bytes that a quay gathers leave. -/
def State.gathers (s : State) (p q n step off : Nat) (pay : List Byte) : State :=
  (((s.landStream p n step off pay).relayGather p q).completeVersion p q).bump

theorem exec_gatherReceive_gathers {s s1 : State} {q p : Nat} {h : BitVec 256} {pay : List Byte} (hq : q < 4)
    (ht : s.fabricTake q 4 h pay = (s1, some p)) (hstep : fabStep h = (s.exchange p q).step) (hn : fabShard h % 4 = q)
    (hr : ∀ j, j < 8 → ∀ e ∈ streamTiles s (shardSlabsNo s j (fabShard h)), slotReady s e.1 ((s.exchange j q).step + 1) = true)
    (hl : fabShard h ∈ liveShards s p) (hsk : (s.run p).skipped = false) :
    exec (.gatherReceive q h pay) s = .next (s1.gathers p q (fabShard h) (s.exchange p q).step (512 * fabOffset h) pay) := by
  have hs := State.fabricTake_only ht
  have hw : (List.range 8).any (fun p => (streamTiles s (shardSlabsNo s p (fabShard h))).any
      (fun e => !slotReady s e.1 ((s.exchange p q).step + 1))) = false := by
    rw [List.any_eq_false]
    intro j hj
    rw [List.any_eq_true, not_exists]
    rintro e ⟨he, hb⟩
    rw [hr j (List.mem_range.1 hj) e he] at hb
    cases hb
  refine (if_pos hq).trans (congrArg Host.Outcome.next ?_)
  dsimp only
  rw [hw, ht]
  dsimp only
  rw [hs.exchange, hs.layout.liveShards, hs.layout.run, if_neg Bool.false_ne_true, if_neg (by simp [hstep, hn, hl, hsk])]
  rfl

theorem Exchange.gather_counts (ex : Exchange) (n off len : Nat) :
    tget 0 (tget [] (ex.gather n off len).gathered n) off = max len (tget 0 (tget [] ex.gathered n) off) := by
  simp [Exchange.gather, tget_tset]

theorem Summed.keeps {s t : State} (h : Summed s t) :
    t = { s with fabric := t.fabric, ledger := t.ledger, opt := t.opt, tensors := t.tensors, quays := t.quays } := by
  have hq : t.quays = s.quays := (congrArg State.quays h.around :)
  rw [hq]
  exact (congrArg (fun y : State => { y with fabric := t.fabric, ledger := t.ledger, opt := t.opt, tensors := t.tensors }) h.around :)

theorem State.gathers_gathers {s s1 : State} (hs : FabricOnly s s1) (p n step off : Nat) (pay : List Byte) {t : State}
    (ht : s1.gathers p (n % 4) n step off pay = t) :
    tget 0 (tget [] (t.exchange p (n % 4)).gathered n) off = max pay.length (tget 0 (tget [] (s.exchange p (n % 4)).gathered n) off)
    ∧ t = { s with fabric := t.fabric, ledger := t.ledger, opt := t.opt, tensors := t.tensors, quays := t.quays, freeCtr := s.freeCtr + 1 } := by
  obtain ⟨hf, he⟩ := s1.landStream_lands p n step off pay
  unfold State.gathers at ht
  obtain ⟨u, hu⟩ : ∃ u, s1.landStream p n step off pay = u := ⟨_, rfl⟩
  rw [hu] at hf he ht
  have hg : (((u.relayGather p (n % 4)).completeVersion p (n % 4)).exchange p (n % 4)).gathered = (u.exchange p (n % 4)).gathered :=
    (State.completeVersion_gathered _ p (n % 4) p (n % 4)).trans (u.relayGather_gathered p (n % 4) p (n % 4))
  have hsum := ((u.relayGather_summed p (n % 4)).trans (State.completeVersion_summed _ p (n % 4)))
  obtain ⟨v, hv⟩ : ∃ v, (u.relayGather p (n % 4)).completeVersion p (n % 4) = v := ⟨_, rfl⟩
  rw [hv] at hg hsum ht
  subst ht
  refine ⟨?_, ?_⟩
  · refine (congrArg (fun g => tget 0 (tget [] g n) off) hg).trans ?_
    rw [he, hs.exchange]
    exact Exchange.gather_counts ..
  · have hu' := hsum.keeps.trans (congrArg (fun y : State =>
      { y with fabric := v.fabric, ledger := v.ledger, opt := v.opt, tensors := v.tensors, quays := v.quays }) hf :)
    have hs' := hu'.trans (congrArg (fun y : State =>
      { y with fabric := v.fabric, ledger := v.ledger, opt := v.opt, tensors := v.tensors, quays := v.quays }) hs.frame :)
    exact (congrArg (fun y : State => { y with freeCtr := y.freeCtr + 1 }) hs' :)


/-- Settles O34: a packet for another quay goes on or draws a REJECT, a REJECT is counted, a read is answered, mirror data, norms and
gathered bytes are kept under their shards (R297, R299-R304, R308). -/
theorem fabricPacketsAreHandled : Obligations.FabricPacketsAreHandled := by
  unfold Obligations.FabricPacketsAreHandled
  refine ⟨?_, ?_, ?_, ?_, ?_, ?_, ?_, ?_, ?_⟩
  · intro s q h pay hq hd hb
    exact ⟨fun port hr => exec_packetForward_forwards hq hd hb hr, fun hr hy =>
      ⟨_, exec_packetForward_rejects hq hd hb hr hy, s.sendPacket_sent s.fabric.seen q (rejectHead h) [], s.sendPacket_keeps q _ _⟩⟩
  · exact fun s q h pay hq hd hb => exec_packetForward_drops hq hd hb
  · exact fun s q h p s1 hq ht => exec_rejectPacketReceive_counts hq ht
  · exact fun s q h p s1 hq ht ha hd => ⟨_, exec_quayReadReqReceive_answers hq ht ha hd, State.sendPacket_answers ht _ _⟩
  · intro s q h pay p s1 k tid j first hq ht hc hstep hl
    refine ⟨_, exec_mirrorReceive_takes hq ht hc hstep hl, ?_⟩
    obtain ⟨t, htt⟩ : ∃ t, (s1.setExchange p q ((s.exchange p q).mirrored h tid first pay)).acknowledge
        (mirrorWhole (s1.setExchange p q ((s.exchange p q).mirrored h tid first pay)) p q (fabShard h) (fabStep h)
          && !mirrorWhole s p q (fabShard h) (fabStep h)) (.mirrorAck (fabShard h) (fabSrc h) (fabSrcQuay h)) = t := ⟨_, rfl⟩
    obtain ⟨he, hack, hquiet, hf⟩ := State.mirrored_takes (State.fabricTake_only ht) _ _ htt
    rw [htt, he]
    exact ⟨Exchange.mirrored_step .., Exchange.mirrored_values _ _ _ _ _, Exchange.mirrored_rows _ _ _ _ _,
      Exchange.mirrored_final _ _ _ _ _, hack, hquiet, hf⟩
  · exact fun s q n p hq hp => ⟨_, exec_mirrorAck_notes hq hp, s.acknowledged_sends q n p rfl⟩
  · intro s q h pay p s1 hq ht hh hlen
    have hs := State.fabricTake_only ht
    refine ⟨fun he => ⟨_, exec_normReceive_keeps hq ht hh hlen he, ?_, ?_⟩, fun hb hstep => ⟨_, exec_normReceive_forms hq ht hh hlen hb hstep, ?_⟩⟩
    · exact congrArg Exchange.earlyNorms (State.exchange_setExchange ..)
    · exact hs.setExchange_frame p q _
    · obtain ⟨e, hee⟩ : ∃ e, { s.exchange p q with
          norms := tset (s.exchange p q).norms (fabShard h) (BitVec.ofNat 64 (leNat pay)) } = e := ⟨_, rfl⟩
      have hx : tfind e.norms (fabShard h) = some (BitVec.ofNat 64 (leNat pay)) := by
        rw [← hee, tfind_tset, if_pos rfl]
      rw [hee]
      obtain ⟨u, hu⟩ : ∃ u, s1.setExchange p q e = u := ⟨_, rfl⟩
      have hue : u.exchange p q = e := hu ▸ State.exchange_setExchange ..
      have hul : SameLayout s u := hs.layout.trans (hu ▸ ⟨rfl, rfl, rfl, rfl, rfl⟩)
      have huf : u = { s with fabric := s1.fabric, ledger := u.ledger } := by
        rw [← hu]
        exact hs.setExchange_frame p q e
      obtain ⟨t, htt⟩ : ∃ t, u.formNorm p q = t := ⟨_, rfl⟩
      rw [hu, htt]
      obtain ⟨hte, htf, hg⟩ := u.formNorm_forms p q htt
      rw [hul.liveShards, hul.run] at hg
      rw [hte]
      refine ⟨by rw [hue]; exact hx, hg, ?_⟩
      have hl : t.ledger = u.ledger := (congrArg State.ledger htf :)
      rw [hl]
      exact htf.trans (congrArg (fun y : State => { y with opt := t.opt }) huf :)
  · exact fun s q h pay p hq hp hw => exec_gatherReceive_waits hq hp hw
  · intro s q h pay p s1 hq ht hstep hn hr hl hsk
    refine ⟨_, exec_gatherReceive_gathers hq ht hstep hn hr hl hsk, ?_⟩
    subst hn
    exact State.gathers_gathers (State.fabricTake_only ht) p _ _ _ pay rfl

end Sys2Proof.Machine
end

section
/-! SUPPORT. Contributions and partials, judged and summed (R296-R301). -/

namespace Sys2Proof.Machine

/-! ### Sums in order (R296) -/

/-- A run of writes to neighbouring keys sets those and leaves the others. -/
theorem tget_writes {α : Type} [DecidableEq α] (d : α) (f : Nat → α) (b n k : Nat) (m : Tbl α) :
    tget d ((List.range n).foldl (fun m i => tput d m (b + i) (f (b + i))) m) k = if b ≤ k ∧ k < b + n then f k else tget d m k := by
  induction n with
  | zero => rw [if_neg (by omega)]; rfl
  | succ n ih =>
    rw [List.range_succ, List.foldl_append, List.foldl_cons, List.foldl_nil, tget_tput, ih]
    split_ifs with h1 h2 h3 h4 h5 <;> first | omega | (subst h1; rfl) | rfl

/-- The sums of a slab are those of its own elements, with the fold store; no other element changes. -/
theorem tget_slabSums (s : State) (tid j : Nat) (stores : List (Tbl F32)) (fold out : Tbl F32) (k : Nat) :
    tget fZero (slabSums s tid j stores fold out) k =
      if ekey tid (slabSpan s tid j).1 ≤ k ∧ k < ekey tid (slabSpan s tid j).1 + (slabSpan s tid j).2 then
        fadd (orderedSum stores k) (tget fZero fold k) else tget fZero out k := by
  have h : slabSums s tid j stores fold out = (List.range (slabSpan s tid j).2).foldl (fun m i =>
      tput fZero m (ekey tid (slabSpan s tid j).1 + i)
        ((fun k => fadd (orderedSum stores k) (tget fZero fold k)) (ekey tid (slabSpan s tid j).1 + i))) out := by
    simp only [slabSums, ekey, Nat.add_assoc]
  rw [h]
  exact tget_writes fZero (fun k => fadd (orderedSum stores k) (tget fZero fold k)) _ _ k out

/-! ### States with one ledger and one layout -/

/-- Two states that lay their shards out alike and have the same role map and the same invalid mirrors. -/
structure SameBook (s t : State) : Prop where
  layout : SameLayout s t
  roles : t.ledger.roles = s.ledger.roles
  invalid : t.ledger.mirrorInvalid = s.ledger.mirrorInvalid

theorem FabricOnly.book {s t : State} (h : FabricOnly s t) : SameBook s t :=
  ⟨h.layout, congrArg Ledger.roles h.ledger, congrArg Ledger.mirrorInvalid h.ledger⟩

theorem State.advance_book (s : State) (time : Nat) : SameBook s (s.advance time) := ⟨⟨rfl, rfl, rfl, rfl, rfl⟩, rfl, rfl⟩

theorem State.setExchange_book (s : State) (p q : Nat) (e : Exchange) : SameBook s (s.setExchange p q e) := ⟨⟨rfl, rfl, rfl, rfl, rfl⟩, rfl, rfl⟩

namespace SameBook

variable {s t u : State}

theorem refl (s : State) : SameBook s s := ⟨.refl s, rfl, rfl⟩

theorem trans (a : SameBook s t) (b : SameBook t u) : SameBook s u := ⟨a.layout.trans b.layout, b.roles.trans a.roles, b.invalid.trans a.invalid⟩

variable (h : SameBook s t)
include h

theorem holderOf (p n : Nat) : holderOf t p n = holderOf s p n := h.layout.holderOf h.roles p n

theorem holdsShard (p q n : Nat) : holdsShard t p q n = holdsShard s p q n := by
  simp only [Machine.holdsShard, h.holderOf, h.layout.moduleNumber]

theorem heldShards (p q : Nat) : heldShards t p q = heldShards s p q := by
  simp only [Machine.heldShards, Machine.ownLive, h.layout.shardSlabsNo, h.layout.ownShard, Machine.mirroredHere, h.layout.liveShards,
    h.layout.placeOf, h.layout.partnerOf, h.layout.moduleNumber, h.layout.mirrorSlabs, funext (h.holdsShard p q)]

theorem heldSlabs (p q n : Nat) : heldSlabs t p q n = heldSlabs s p q n := by
  simp only [Machine.heldSlabs, h.layout.ownShard, h.layout.shardSlabsNo, h.layout.mirrorSlabs]

theorem farSlabs (p q : Nat) : farSlabs t p q = farSlabs s p q := by
  simp only [Machine.farSlabs, h.heldShards, funext (h.heldSlabs p q)]

theorem sliceSlabs (p q i : Nat) : sliceSlabs t p q i = sliceSlabs s p q i := by
  simp only [Machine.sliceSlabs, slabsIn, h.layout.domainSlabs, h.layout.recOf, h.layout.sliceRange, h.layout.placeOf]

theorem atSlab (l : List (Nat × Nat × Nat)) (off : Nat) : atSlab t l off = atSlab s l off := by
  simp only [Machine.atSlab, h.layout.slabBases]

theorem planOf : planOf t = planOf s := funext fun p => by simp only [Machine.planOf, h.layout.part]

theorem mayFold (p n m : Nat) : mayFold t p n m = mayFold s p n m := by
  simp only [Machine.mayFold, lateWindow, lagLambda, windowW, h.planOf, h.layout.groupParts, h.layout.domainNames, h.layout.tensors,
    h.layout.membership]
  rfl

theorem contribSource (p : Nat) (b : BitVec 256) : contribSource t p b = contribSource s p b := by
  simp only [Machine.contribSource, h.layout.placeOf, h.layout.memberModule]

theorem takeChunk (cs : List Chunk) (far : Bool) (src step slab tid j first off : Nat) (pay : List Byte) :
    takeChunk t cs far src step slab tid j first off pay = takeChunk s cs far src step slab tid j first off pay := by
  simp only [Machine.takeChunk, h.layout.slabSpan]

theorem slabSums (tid j : Nat) (stores : List (Tbl F32)) (fold out : Tbl F32) : slabSums t tid j stores fold out = slabSums s tid j stores fold out := by
  simp only [Machine.slabSums, h.layout.slabSpan]

theorem slabPartialOf (p : Nat) (ex : Exchange) (n k : Nat) : slabPartialOf t p ex n k = slabPartialOf s p ex n k :=
  funext fun d => by simp only [Machine.slabPartialOf, h.layout.placeOf]

theorem nearStore (he : ∀ p q, t.exchange p q = s.exchange p q) (p q : Nat) : nearStore t p q = nearStore s p q := by
  simp only [Machine.nearStore, h.sliceSlabs, h.layout.placeOf, h.slabSums, nearParts, he]

theorem farShards (he : ∀ p q, t.exchange p q = s.exchange p q) (p q : Nat) : farShards t p q = farShards s p q := by
  simp only [Machine.farShards, h.heldShards, he]

theorem farStore (he : ∀ p q, t.exchange p q = s.exchange p q) (p q : Nat) : farStore t p q = farStore s p q := by
  simp only [Machine.farStore, h.farShards he, h.heldSlabs, h.slabSums, h.layout.placeOf, h.slabPartialOf, he]

theorem mirrorTargets (p n : Nat) : mirrorTargets t p n = mirrorTargets s p n := by
  simp only [Machine.mirrorTargets, mirrorBad, h.roles, h.invalid, h.holderOf, h.layout.ownerOf, h.layout.placeOf, mirrorQuays, h.layout.partnerOf,
    h.layout.mirrorSlabs]
  rfl

end SameBook

/-! ### How a chunk is judged (R297-R300) -/

namespace Exchange

variable (ex : Exchange) (far : Bool) (src : Nat)

/-- Whether the sums of a level are closed. -/
def closed : Bool := if far then ex.farClosed else ex.nearClosed

/-- A source whose chunks are all there came on time. -/
def cameOnTime : Exchange :=
  if far then { ex with farLevel := { ex.farLevel with onTime := addOnce ex.farLevel.onTime src } }
  else { ex with near := { ex.near with onTime := addOnce ex.near.onTime src } }

/-- A late chunk joins the fold store of the next sums. -/
def folds (c : Chunk) : Exchange :=
  let rest := ex.chunks.filter (fun x => x != c)
  if far then
    { ex with chunks := rest, farFold := foldInto ex.farFold c.vals, farFoldRows := ex.farFoldRows ++ c.rows
              farLevel := if ex.closed far then ex.farLevel else ex.farLevel.fold src
              nextFar := if ex.closed far then ex.nextFar.fold src else ex.nextFar }
  else
    { ex with chunks := rest, nearFold := foldInto ex.nearFold c.vals, nearFoldRows := ex.nearFoldRows ++ c.rows
              near := if ex.closed far then ex.near else ex.near.fold src
              nextNear := if ex.closed far then ex.nextNear.fold src else ex.nextNear }

/-- A chunk that is too late is dropped. -/
def drops (c : Chunk) : Exchange :=
  let rest := ex.chunks.filter (fun x => x != c)
  if far then { ex with chunks := rest, farLevel := { ex.farLevel with dropped := addOnce ex.farLevel.dropped src } }
  else { ex with chunks := rest, near := { ex.near with dropped := addOnce ex.near.dropped src } }

/-- The sums of an exchange that a chunk does not touch. -/
def sums : Tbl F32 × Tbl F32 × Tbl F32 := (ex.own, ex.partialStore, ex.reduced)

theorem sums_iff {a b : Exchange} : a.sums = b.sums ↔ a.own = b.own ∧ a.partialStore = b.partialStore ∧ a.reduced = b.reduced := by
  simp [sums, Prod.ext_iff]

@[simp] theorem cameOnTime_sums : (ex.cameOnTime far src).sums = ex.sums := by cases far <;> rfl
@[simp] theorem folds_sums (c : Chunk) : (ex.folds far src c).sums = ex.sums := by cases far <;> rfl
@[simp] theorem drops_sums (c : Chunk) : (ex.drops far src c).sums = ex.sums := by cases far <;> rfl

theorem cameOnTime_keeps : (ex.cameOnTime far src).chunks = ex.chunks ∧ (ex.cameOnTime far src).nearFold = ex.nearFold
    ∧ (ex.cameOnTime far src).farFold = ex.farFold := by cases far <;> exact ⟨rfl, rfl, rfl⟩

theorem cameOnTime_mem :
    src ∈ (if far then (ex.cameOnTime far src).farLevel.onTime else (ex.cameOnTime far src).near.onTime) := by
  cases far <;> exact mem_addOnce ..

theorem folds_chunk (c : Chunk) : (ex.folds far src c).chunks = ex.chunks.filter (fun x => x != c)
    ∧ (ex.folds far src c).nearFold = (if far then ex.nearFold else foldInto ex.nearFold c.vals)
    ∧ (ex.folds far src c).farFold = (if far then foldInto ex.farFold c.vals else ex.farFold) := by
  cases far <;> exact ⟨rfl, rfl, rfl⟩

theorem drops_chunk (c : Chunk) : (ex.drops far src c).chunks = ex.chunks.filter (fun x => x != c)
    ∧ (ex.drops far src c).nearFold = ex.nearFold ∧ (ex.drops far src c).farFold = ex.farFold := by
  cases far <;> exact ⟨rfl, rfl, rfl⟩

end Exchange

/-- The first counter of a level's chunks. -/
def levelBase (far : Bool) : Nat := if far then 3 else 0

/-- The slabs that a quay sums at a level. -/
def levelSlabs (s : State) (p q : Nat) (far : Bool) : List (Nat × Nat × Nat) :=
  if far then farSlabs s p q else sliceSlabs s p q (placeOf s p).i

theorem SameBook.levelSlabs {s t : State} (h : SameBook s t) (p q : Nat) (far : Bool) : levelSlabs t p q far = levelSlabs s p q far := by
  simp only [Machine.levelSlabs, h.farSlabs, h.sliceSlabs, h.layout.placeOf]

section
variable (u : State) {p q k src step : Nat} {far : Bool} {c : Chunk}

theorem State.judgeChunk_none (hc : chunkOf (u.exchange p q) far src step k = none) : u.judgeChunk p q far src step k = u := by
  unfold State.judgeChunk
  dsimp only
  rw [hc]

theorem State.judgeChunk_ahead (ha : (u.exchange p q).step < step ∨ (u.exchange p q).began = false) : u.judgeChunk p q far src step k = u := by
  unfold State.judgeChunk
  dsimp only
  split
  · rfl
  · exact if_pos (ha.imp_right (by simp +contextual))

variable (hc : chunkOf (u.exchange p q) far src step k = some c) (hb : (u.exchange p q).began = true)
include hc hb

theorem State.judgeChunk_onTime (hs : step = (u.exchange p q).step) (hcl : (u.exchange p q).closed far = false) :
    u.judgeChunk p q far src step k =
      if sourceComplete (u.exchange p q) far src (levelSlabs u p q far) then
        (u.countChunk (levelBase far) 1).setExchange p q ((u.exchange p q).cameOnTime far src) else u.countChunk (levelBase far) 1 := by
  unfold State.judgeChunk
  dsimp only
  rw [hc]
  dsimp only
  have hcl' : (if far = true then (u.exchange p q).farClosed else (u.exchange p q).nearClosed) = false := hcl
  rw [if_neg (by simp [hb, ← hs]), if_pos ⟨hs, by rw [hcl']; rfl⟩]
  rfl

theorem State.judgeChunk_late (hs : step < (u.exchange p q).step ∨ (step = (u.exchange p q).step ∧ (u.exchange p q).closed far = true)) :
    u.judgeChunk p q far src step k =
      if mayFold u p step (if (u.exchange p q).closed far then (u.exchange p q).step + 1 else (u.exchange p q).step) then
        (u.countChunk (levelBase far + 1) 1).setExchange p q ((u.exchange p q).folds far src c)
      else (u.countChunk (levelBase far + 2) 1).setExchange p q ((u.exchange p q).drops far src c) := by
  unfold State.judgeChunk
  dsimp only
  rw [hc]
  dsimp only
  have hn : ¬(step = (u.exchange p q).step ∧ (!(if far = true then (u.exchange p q).farClosed else (u.exchange p q).nearClosed)) = true) := by
    rintro ⟨h1, h2⟩
    have h2' : (!(u.exchange p q).closed far) = true := h2
    rcases hs with h | ⟨-, h⟩
    · omega
    · rw [h] at h2'; cases h2'
  rw [if_neg (by simp [hb]; omega), if_neg hn]
  rfl

end

/-- The counter of a chunk's fate goes up by one. -/
theorem State.countChunk_counts (s : State) (n : Nat) : tget 0 (s.countChunk n 1).ledger.chunks n = satAdd 32 (tget 0 s.ledger.chunks n) 1 :=
  tget_tput_same (0 : Nat) s.ledger.chunks n _

theorem State.countChunk_exchange (s : State) (n m : Nat) (p q : Nat) : (s.countChunk n m).exchange p q = s.exchange p q := rfl

/-- The counters stand while an exchange changes. -/
theorem State.setExchange_chunks (s : State) (p q : Nat) (e : Exchange) : (s.setExchange p q e).ledger.chunks = s.ledger.chunks := rfl

/-- A part of the exchange that no note of a chunk touches stands through a judgement. -/
theorem State.judgeChunk_part {α : Type} (f : Exchange → α) (far : Bool) (src : Nat) (h1 : ∀ e, f (e.cameOnTime far src) = f e)
    (h2 : ∀ e c, f (e.folds far src c) = f e) (h3 : ∀ e c, f (e.drops far src c) = f e) (u : State) (p q step k : Nat) :
    f ((u.judgeChunk p q far src step k).exchange p q) = f (u.exchange p q) := by
  by_cases ha : (u.exchange p q).step < step ∨ (u.exchange p q).began = false
  · rw [u.judgeChunk_ahead ha]
  obtain ⟨hstep, hbg⟩ := not_or.1 ha
  rw [Bool.not_eq_false] at hbg
  cases hc : chunkOf (u.exchange p q) far src step k with
  | none => rw [u.judgeChunk_none hc]
  | some c =>
    by_cases hs : step = (u.exchange p q).step ∧ (u.exchange p q).closed far = false
    · rw [u.judgeChunk_onTime hc hbg hs.1 hs.2]
      split
      · rw [State.exchange_setExchange, h1]
      · rfl
    · rw [u.judgeChunk_late hc hbg (by rcases Nat.lt_or_ge step (u.exchange p q).step with h | h
                                       · exact .inl h
                                       · refine .inr ⟨by omega, ?_⟩
                                         have := not_and.1 hs (by omega)
                                         rwa [Bool.not_eq_false] at this)]
      obtain ⟨m, hm⟩ : ∃ m, (if (u.exchange p q).closed far then (u.exchange p q).step + 1 else (u.exchange p q).step) = m := ⟨_, rfl⟩
      rw [hm]
      split
      · rw [State.exchange_setExchange, h2]
      · rw [State.exchange_setExchange, h3]

theorem State.judgeChunk_sums (u : State) (p q : Nat) (far : Bool) (src step k : Nat) :
    ((u.judgeChunk p q far src step k).exchange p q).sums = (u.exchange p q).sums :=
  State.judgeChunk_part Exchange.sums far src (fun e => e.cameOnTime_sums far src) (fun e c => e.folds_sums far src c)
    (fun e c => e.drops_sums far src c) u p q step k

/-- A chunk that has been put into the exchange is judged by its step, its level's close and the windows. -/
theorem State.judgeChunk_judges {s u : State} (hb : SameBook s u) {p q : Nat} (far : Bool) (src step k : Nat) {cs : List Chunk}
    (he : u.exchange p q = { s.exchange p q with chunks := cs }) (hc : u.ledger.chunks = s.ledger.chunks) :
    ChunkJudged s (u.judgeChunk p q far src step k) p q far src step k cs := by
  unfold ChunkJudged
  dsimp only
  have hsums := (u.judgeChunk_sums p q far src step k).trans (congrArg Exchange.sums he)
  obtain ⟨e, hee⟩ : ∃ e, { s.exchange p q with chunks := cs } = e := ⟨_, rfl⟩
  have hst : e.step = (s.exchange p q).step := by rw [← hee]
  have hbg : e.began = (s.exchange p q).began := by rw [← hee]
  have hcl : e.closed far = (if far = true then (s.exchange p q).farClosed else (s.exchange p q).nearClosed) := by rw [← hee]; rfl
  have hcs : e.chunks = cs := by rw [← hee]
  have hnf : e.nearFold = (s.exchange p q).nearFold := by rw [← hee]
  have hff : e.farFold = (s.exchange p q).farFold := by rw [← hee]
  rw [hee] at he ⊢
  rw [← hst, ← hbg, ← hcl, ← hnf, ← hff, ← hcs, ← hc]
  refine ⟨fun hn => ?_, fun c hs hb1 hs1 hcl1 => ?_, fun ha => ?_, fun c hs hb1 hs1 => ?_, Exchange.sums_iff.1 hsums⟩
  · rw [u.judgeChunk_none (by rw [he]; exact hn), he]
  · have hk := Exchange.cameOnTime_keeps e far src
    change _ ∧ _ ∧ _ ∧ _ ∧ (sourceComplete e far src (levelSlabs s p q far) = true → _)
    rw [u.judgeChunk_onTime (by rw [he]; exact hs) (by rw [he]; exact hb1) (by rw [he]; exact hs1) (by rw [he]; exact hcl1), he, hb.levelSlabs]
    by_cases hw : sourceComplete e far src (levelSlabs s p q far) = true
    · rw [if_pos hw, State.exchange_setExchange]
      exact ⟨hk.1, u.countChunk_counts _, hk.2.1, hk.2.2, fun _ => e.cameOnTime_mem far src⟩
    · rw [if_neg hw, State.countChunk_exchange, he]
      exact ⟨rfl, u.countChunk_counts _, rfl, rfl, fun h => absurd h hw⟩
  · rw [u.judgeChunk_ahead (by rw [he]; exact ha.symm), he]
  · rw [u.judgeChunk_late (by rw [he]; exact hs) (by rw [he]; exact hb1) (by rw [he]; exact hs1), he, hb.mayFold]
    obtain ⟨hf1, hf2, hf3⟩ := e.folds_chunk far src c
    obtain ⟨hd1, hd2, hd3⟩ := e.drops_chunk far src c
    obtain ⟨m, hmm⟩ : ∃ m, (if e.closed far = true then e.step + 1 else e.step) = m := ⟨_, rfl⟩
    rw [hmm]
    by_cases hm : mayFold s p step m = true
    · rw [if_pos hm, State.exchange_setExchange]
      exact ⟨hf1, fun _ => ⟨State.countChunk_counts u _, hf2, hf3⟩, fun hn => by rw [hm] at hn; cases hn⟩
    · rw [if_neg hm, State.exchange_setExchange]
      exact ⟨hd1, fun hy => absurd hy hm, fun _ => ⟨State.countChunk_counts u _, hd2, hd3⟩⟩

/-- A judgement touches the exchanges and the counters alone. -/
theorem State.judgeChunk_frame (u : State) (p q : Nat) (far : Bool) (src step k : Nat) :
    u.judgeChunk p q far src step k = { u with ledger := (u.judgeChunk p q far src step k).ledger } := by
  unfold State.judgeChunk
  dsimp only
  split
  · rfl
  · split_ifs <;> rfl

/-! ### Contributions and partials (R297, R298) -/

/-- What a packet that no quay expects leaves: a REJECT, counted where a slab begins. -/
def State.refuseChunk (s : State) (q : Nat) (h : BitVec 256) (k : Nat) (at_ : Bool) : State :=
  (s.sendPacket q (rejectHead h) []).countChunk k (if at_ = true then 1 else 0)

theorem State.refuseChunk_refuses {s s1 : State} {q typ p : Nat} {h : BitVec 256} {pay : List Byte}
    (ht : s.fabricTake q typ h pay = (s1, some p)) (k : Nat) (b : Bool) {t : State} (htt : s1.refuseChunk q h k b = t) :
    (∀ p, t.exchange p q = s.exchange p q)
    ∧ tget 0 t.ledger.chunks k = satAdd 32 (tget 0 s.ledger.chunks k) (if b = true then 1 else 0)
    ∧ Sent s t q (rejectHead h) [] ∧ t = { s with fabric := t.fabric, ledger := t.ledger } := by
  obtain ⟨x, hx⟩ := State.fabricTake_takes ht
  have hk := s1.sendPacket_keeps q (rejectHead h) []
  have hl := congrArg State.ledger (s1.sendPacket_frame q (rejectHead h) [])
  have hsent : Sent s (s1.sendPacket q (rejectHead h) []) q (rejectHead h) [] := by rw [hx]; exact s.sendPacket_sent x q _ _
  have hs1 : s1.ledger = s.ledger := (congrArg State.ledger hx :)
  unfold State.refuseChunk at htt
  obtain ⟨u, hu⟩ : ∃ u, s1.sendPacket q (rejectHead h) [] = u := ⟨_, rfl⟩
  rw [hu] at hk hl hsent htt
  have hlc : u.ledger.chunks = s1.ledger.chunks := (congrArg Ledger.chunks hl :)
  have hle : u.ledger.exchange = s1.ledger.exchange := (congrArg Ledger.exchange hl :)
  have hchunks : u.ledger.chunks = s.ledger.chunks := hlc.trans (congrArg Ledger.chunks hs1)
  have hex : u.ledger.exchange = s.ledger.exchange := hle.trans (congrArg Ledger.exchange hs1)
  have huf : u = { s with fabric := u.fabric, ledger := u.ledger } :=
    hk.trans (congrArg (fun y : State => { y with fabric := u.fabric, ledger := u.ledger }) hx :)
  obtain ⟨n, hn⟩ : ∃ n, (if b = true then 1 else 0) = n := ⟨_, rfl⟩
  rw [hn] at htt ⊢
  subst htt
  refine ⟨fun p => State.exchange_of hex p q, ?_, hsent, ?_⟩
  · exact (tget_tput_same (0 : Nat) u.ledger.chunks k _).trans (by rw [hchunks])
  · exact (congrArg (fun y : State => y.countChunk k n) huf :).trans (congrArg (fun y : State =>
      { y with fabric := u.fabric, ledger := (u.countChunk k n).ledger }) rfl :)

section
variable {s s1 : State} {q p src : Nat} {h : BitVec 256} {pay : List Byte} (hq : q < 4) (ht : s.fabricTake q 1 h pay = (s1, some p))
  (hsrc : contribSource s p h = some src) (hw : contribWaits s q h pay = false)
include hq ht hsrc hw

/-- What a contribution that is for this quay does. -/
theorem exec_contribReceive_eq : exec (.contribReceive q h pay) s = .next (
    if shardPlace (placeOf s p) (fabShard h) ≠ ((placeOf s p).i, (placeOf s p).d, q) then
      s1.refuseChunk q h 2 (atSlab s (sliceSlabs s p (shardPlace (placeOf s p) (fabShard h)).2.2 (shardPlace (placeOf s p) (fabShard h)).1) (fabOffset h))
    else if pay.isEmpty then
      (if fabFinal h then s1.setExchange p q { s.exchange p q with ended := addOnce (s.exchange p q).ended (src, fabStep h) } else s1)
    else
      match locateSlab s (sliceSlabs s p q (placeOf s p).i) (fabOffset h) with
      | none => s1.dropPacket
      | some (k, tid, j, first) =>
        (s1.setExchange p q { s.exchange p q with
          chunks := takeChunk s (s.exchange p q).chunks false src (fabStep h) k tid j first (fabOffset h) pay }).judgeChunk p q false src (fabStep h) k) := by
  have hs := State.fabricTake_only ht
  have hb := hs.book
  refine (if_pos hq).trans (congrArg Host.Outcome.next ?_)
  dsimp only
  rw [hw, if_neg Bool.false_ne_true, ht]
  dsimp only
  rw [hb.contribSource, hsrc]
  dsimp only
  simp only [hb.layout.placeOf, hb.sliceSlabs, hb.atSlab, hb.layout.locateSlab, hs.exchange, hb.takeChunk]
  rfl

theorem exec_contribReceive_takes (hx : shardPlace (placeOf s p) (fabShard h) = ((placeOf s p).i, (placeOf s p).d, q)) (hp : pay ≠ [])
    {k tid j first : Nat} (hl : locateSlab s (sliceSlabs s p q (placeOf s p).i) (fabOffset h) = some (k, tid, j, first)) :
    exec (.contribReceive q h pay) s = .next ((s1.setExchange p q { s.exchange p q with
      chunks := takeChunk s (s.exchange p q).chunks false src (fabStep h) k tid j first (fabOffset h) pay }).judgeChunk p q false src (fabStep h) k) := by
  rw [exec_contribReceive_eq hq ht hsrc hw, if_neg (not_not.2 hx), if_neg (by simpa using hp), hl]

theorem exec_contribReceive_ends (hx : shardPlace (placeOf s p) (fabShard h) = ((placeOf s p).i, (placeOf s p).d, q)) (hp : pay = [])
    (hf : fabFinal h = true) : exec (.contribReceive q h pay) s =
      .next (s1.setExchange p q { s.exchange p q with ended := addOnce (s.exchange p q).ended (src, fabStep h) }) := by
  rw [exec_contribReceive_eq hq ht hsrc hw, if_neg (not_not.2 hx), if_pos (by rw [hp]; rfl), if_pos hf]

theorem exec_contribReceive_refuses (hx : shardPlace (placeOf s p) (fabShard h) ≠ ((placeOf s p).i, (placeOf s p).d, q)) :
    exec (.contribReceive q h pay) s = .next (s1.refuseChunk q h 2
      (atSlab s (sliceSlabs s p (shardPlace (placeOf s p) (fabShard h)).2.2 (shardPlace (placeOf s p) (fabShard h)).1) (fabOffset h))) := by
  rw [exec_contribReceive_eq hq ht hsrc hw, if_pos hx]

end

theorem exec_contribReceive_waits {s : State} {q p src k : Nat} {h : BitVec 256} {pay : List Byte} (hq : q < 4)
    (hp : feedByLedger s (fabLedger h) = some p) (hsrc : contribSource s p h = some src)
    (hl : (locateSlab s (sliceSlabs s p q (placeOf s p).i) (fabOffset h)).map (fun e => e.1) = some k)
    (ha : aheadOf s p q src (fabStep h) k = true) (hs : stagingFull s q pay.length = true) : exec (.contribReceive q h pay) s = .next s := by
  refine (if_pos hq).trans (congrArg Host.Outcome.next (if_pos ?_))
  unfold contribWaits
  rw [hp]
  dsimp only
  rw [hsrc]
  obtain ⟨⟨k', r⟩, he, rfl⟩ := Option.map_eq_some_iff.1 hl
  rw [he]
  exact Bool.and_eq_true_iff.2 ⟨ha, hs⟩

/-- What a chunk that a quay takes leaves. -/
theorem State.takenChunk_judged {s s1 : State} {q p : Nat} (hs : FabricOnly s s1) (far : Bool) (src step k : Nat) (cs : List Chunk) {t : State}
    (ht : (s1.setExchange p q { s.exchange p q with chunks := cs }).judgeChunk p q far src step k = t) :
    ChunkJudged s t p q far src step k cs ∧ t = { s with fabric := s1.fabric, ledger := t.ledger } := by
  subst ht
  obtain ⟨e, he⟩ : ∃ e, { s.exchange p q with chunks := cs } = e := ⟨_, rfl⟩
  have hb := hs.book.trans (s1.setExchange_book p q e)
  have hf := hs.setExchange_frame p q e
  have hx := s1.exchange_setExchange p q e
  have hc : (s1.setExchange p q e).ledger.chunks = s.ledger.chunks := (s1.setExchange_chunks p q e).trans (congrArg Ledger.chunks hs.ledger)
  rw [he]
  obtain ⟨u, hu⟩ : ∃ u, s1.setExchange p q e = u := ⟨_, rfl⟩
  rw [hu] at hb hf hx hc ⊢
  refine ⟨State.judgeChunk_judges hb far src step k (hx.trans he.symm) hc, ?_⟩
  exact (u.judgeChunk_frame p q far src step k).trans
    (congrArg (fun y : State => { y with ledger := (u.judgeChunk p q far src step k).ledger }) hf :)

section
variable {s s1 : State} {q p src : Nat} {h : BitVec 256} {pay : List Byte} (hq : q < 4) (ht : s.fabricTake q 2 h pay = (s1, some p))
  (hsrc : (List.range (placeOf s p).dd).find? (fun d => memberModule s p (shardPlace (placeOf s p) (fabShard h)).1 d == fabSrc h
    && ((shardPlace (placeOf s p) (fabShard h)).1 != (placeOf s p).i || d != (placeOf s p).d)) = some src)
include hq ht hsrc

theorem exec_partialReceive_eq : exec (.partialReceive q h pay) s = .next (
    if fabShard h ∉ heldShards s p q then s1.refuseChunk q h 5 (atSlab s (shardSlabsNo s p (fabShard h)) (fabOffset h))
    else
      match locateSlab s (heldSlabs s p q (fabShard h)) (fabOffset h) with
      | none => s1.dropPacket
      | some (k, tid, j, first) =>
        (s1.setExchange p q { s.exchange p q with
          chunks := takeChunk s (s.exchange p q).chunks true src (fabStep h) k tid j first (fabOffset h) pay }).judgeChunk p q true src (fabStep h) k) := by
  have hs := State.fabricTake_only ht
  have hb := hs.book
  refine (if_pos hq).trans (congrArg Host.Outcome.next ?_)
  dsimp only
  rw [ht]
  dsimp only
  simp only [hb.layout.placeOf, hb.layout.memberModule, hsrc, hb.heldShards, hb.heldSlabs, hb.layout.shardSlabsNo, hb.atSlab, hb.layout.locateSlab,
    hs.exchange, hb.takeChunk]
  rfl

theorem exec_partialReceive_takes (hn : fabShard h ∈ heldShards s p q) {k tid j first : Nat}
    (hl : locateSlab s (heldSlabs s p q (fabShard h)) (fabOffset h) = some (k, tid, j, first)) :
    exec (.partialReceive q h pay) s = .next ((s1.setExchange p q { s.exchange p q with
      chunks := takeChunk s (s.exchange p q).chunks true src (fabStep h) k tid j first (fabOffset h) pay }).judgeChunk p q true src (fabStep h) k) := by
  rw [exec_partialReceive_eq hq ht hsrc, if_neg (not_not.2 hn), hl]

theorem exec_partialReceive_refuses (hn : fabShard h ∉ heldShards s p q) :
    exec (.partialReceive q h pay) s = .next (s1.refuseChunk q h 5 (atSlab s (shardSlabsNo s p (fabShard h)) (fabOffset h))) := by
  rw [exec_partialReceive_eq hq ht hsrc, if_pos hn]

end

/-! ### The closes (R299, R300) -/

/-- Slabs that are sent touch the fabric and the counter of REJECTs alone. -/
structure Shipped (s t : State) : Prop where
  frame : t = { s with fabric := t.fabric, ledger := { s.ledger with rejectsReceived := t.ledger.rejectsReceived } }

namespace Shipped

variable {s t u : State}

theorem refl (s : State) : Shipped s s := ⟨rfl⟩

theorem trans (a : Shipped s t) (b : Shipped t u) : Shipped s u :=
  ⟨b.frame.trans (congrArg (fun y : State =>
    { y with fabric := u.fabric, ledger := { y.ledger with rejectsReceived := u.ledger.rejectsReceived } }) a.frame :)⟩

theorem foldl {α : Type} {f : State → α → State} (hf : ∀ t a, Shipped t (f t a)) (l : List α) (s : State) : Shipped s (l.foldl f s) :=
  List.foldlRecOn (motive := fun t => Shipped s t) l f (refl s) fun t ht a _ => ht.trans (hf t a)

theorem exchange (h : Shipped s t) (p q : Nat) : t.exchange p q = s.exchange p q :=
  State.exchange_of (congrArg (fun y : State => y.ledger.exchange) h.frame :) p q

theorem keeps (h : Shipped s t) : t = { s with fabric := t.fabric, ledger := t.ledger } := by
  have hl : t.ledger = { s.ledger with rejectsReceived := t.ledger.rejectsReceived } := (congrArg State.ledger h.frame :)
  rw [hl]
  exact h.frame

end Shipped

theorem State.sendSlabs_ships (s : State) (q : Nat) (f : FabHead) (slabs : List (Nat × Nat × Nat)) (store : Tbl F32) (rows : List Nat) :
    Shipped s (s.sendSlabs q f slabs store rows) := by
  unfold State.sendSlabs
  exact Shipped.foldl (fun t e => ⟨t.sendPacket_frame q _ _⟩) _ s

/-- The exchange after the near close. -/
def nearExchange (s : State) (p q : Nat) : Exchange :=
  let ex := s.exchange p q
  let used := ex.chunks.filter (fun c => !c.far && c.complete && c.step == ex.step)
  { ex with
    nearClosed := true, nearCloseAt := s.now, partialStore := nearStore s p q
    partialRows := (ex.ownRows ++ used.flatMap (fun c => c.rows) ++ ex.nearFoldRows).foldl addOnce [], nearFold := [], nearFoldRows := []
    chunks := ex.chunks.filter (fun c => c.far || !c.complete || c.step != ex.step)
    farLevel := { ex.farLevel with onTime := addOnce ex.farLevel.onTime (placeOf s p).d } }

theorem State.closeNear_closes (s : State) (p q : Nat) : Shipped (s.setExchange p q (nearExchange s p q)) (s.closeNear p q) := by
  unfold State.closeNear
  exact Shipped.foldl (fun t d => by
    dsimp only
    split_ifs
    · exact .refl t
    · exact t.sendSlabs_ships ..
    · exact t.sendSlabs_ships ..) _ _

/-- The exchange after the far close. -/
def farExchange (s : State) (p q : Nat) : Exchange :=
  let ex := s.exchange p q
  let used := ex.chunks.filter (fun c => c.far && c.complete && c.step == ex.step)
  { ex with
    farClosed := true, reduced := farStore s p q, reducedFor := farShards s p q
    rows := (ex.partialRows ++ used.flatMap (fun c => c.rows) ++ ex.farFoldRows).foldl addOnce [], farFold := [], farFoldRows := []
    mirrorAcks := ((farShards s p q).flatMap (fun n => (mirrorTargets s p n).map (fun t => (n, t)))).map (fun e => e.1)
    chunks := ex.chunks.filter (fun c => !c.far || !c.complete || c.step != ex.step) }

theorem State.closeFar_closes (s : State) (p q : Nat) : Shipped (s.setExchange p q (farExchange s p q)) (s.closeFar p q) := by
  unfold State.closeFar
  exact Shipped.foldl (fun t e => t.sendSlabs_ships ..) _ _

/-- What a near close leaves in the ledger and the free counter. -/
def State.nearClose (s s1 : State) (p q : Nat) : State :=
  let s2 := s1.closeNear p q
  let lag : Int := if (placeOf s p).dd = 1 then 0 else (Config.freeNat s2.freeCtr (s.exchange p q).step : Int)
  let lags := s2.ledger.lags.filter (fun e => e.1 != (s.exchange p q).step) ++ [((s.exchange p q).step, lag)]
  { s2 with ledger := { s2.ledger with lags := lags.drop (lags.length - 64) } }.bump

theorem exec_nearClose_closes {s s1 : State} {q p : Nat} (hq : q < 4)
    (h : (List.range 8).findSome? (fun p => (nearReady s p q).map (fun t => (p, t))) = some (p, s1)) :
    exec (.nearClose q) s = .next (s.nearClose s1 p q) := by
  refine (if_pos hq).trans (congrArg Host.Outcome.next ?_)
  rw [h]
  rfl

/-- A near close happens now, or at the entry of its phase. -/
theorem nearReady_advances {s s1 : State} {p q : Nat} (h : nearReady s p q = some s1) : s1 = s ∨ ∃ time, s1 = s.advance time := by
  unfold nearReady phaseReady at h
  dsimp only at h
  split_ifs at h
  · exact .inl (by cases h; rfl)
  · exact .inl (by cases h; rfl)
  · exact .inr ⟨_, by cases h; rfl⟩

/-- A state at the same or a later time. -/
structure Later (s t : State) : Prop where
  frame : t = { s with now := t.now, rtc := t.rtc }

theorem Later.refl (s : State) : Later s s := ⟨rfl⟩

namespace Later

variable {s t : State} (h : Later s t)
include h

theorem book : SameBook s t :=
  ⟨⟨(congrArg State.parts h.frame :), (congrArg State.opt h.frame :), (congrArg State.tensors h.frame :),
    (congrArg (fun y : State => y.sivar.config) h.frame :), (congrArg (fun y : State => y.ledger.membership) h.frame :)⟩,
    (congrArg (fun y : State => y.ledger.roles) h.frame :), (congrArg (fun y : State => y.ledger.mirrorInvalid) h.frame :)⟩

theorem exchange (p q : Nat) : t.exchange p q = s.exchange p q := State.exchange_of (congrArg (fun y : State => y.ledger.exchange) h.frame :) p q

/-- What is sent at a later time. -/
theorem ships {e : Exchange} {p q : Nat} {u : State} (hu : Shipped (t.setExchange p q e) u) :
    u.exchange p q = e ∧ u.now = t.now ∧ u = { s with now := u.now, rtc := u.rtc, fabric := u.fabric, ledger := u.ledger } := by
  have hx := t.exchange_setExchange p q e
  have hset : t.setExchange p q e = { t with ledger := (t.setExchange p q e).ledger } := rfl
  obtain ⟨v, hv⟩ : ∃ v, t.setExchange p q e = v := ⟨_, rfl⟩
  rw [hv] at hu hx hset
  have hn : u.now = v.now := (congrArg State.now hu.keeps :)
  have hr : u.rtc = v.rtc := (congrArg State.rtc hu.keeps :)
  have hvn : v.now = t.now := (congrArg State.now hset :)
  have hvr : v.rtc = t.rtc := (congrArg State.rtc hset :)
  refine ⟨(hu.exchange p q).trans hx, hn.trans hvn, ?_⟩
  rw [hn, hr, hvn, hvr]
  exact (hu.keeps.trans (congrArg (fun y : State => { y with fabric := u.fabric, ledger := u.ledger }) hset :)).trans
    (congrArg (fun y : State => { y with fabric := u.fabric, ledger := u.ledger }) h.frame :)

end Later

theorem State.advance_later (s : State) (time : Nat) : Later s (s.advance time) := ⟨rfl⟩

theorem nearReady_later {s s1 : State} {p q : Nat} (h : nearReady s p q = some s1) : Later s s1 := by
  rcases nearReady_advances h with rfl | ⟨time, rfl⟩
  · exact ⟨rfl⟩
  · exact s.advance_later time

/-- The near close sums the slice's slabs at its time; the fold store is empty then. -/
theorem State.nearClose_closes {s s1 : State} (hl : Later s s1) (p q : Nat) {t : State} (ht : s.nearClose s1 p q = t) :
    t.now = s1.now ∧ (t.exchange p q).nearClosed = true ∧ (t.exchange p q).nearCloseAt = s1.now ∧ (t.exchange p q).partialStore = nearStore s p q
    ∧ (t.exchange p q).nearFold = [] ∧ (t.exchange p q).own = (s.exchange p q).own ∧ (placeOf s p).d ∈ (t.exchange p q).farLevel.onTime
    ∧ t = { s with now := t.now, rtc := t.rtc, fabric := t.fabric, ledger := t.ledger, freeCtr := s.freeCtr + 1 } := by
  obtain ⟨hx, hn, hf⟩ := hl.ships (s1.closeNear_closes p q)
  have h1 : (nearExchange s1 p q).nearClosed = true := rfl
  have h2 : (nearExchange s1 p q).nearCloseAt = s1.now := rfl
  have h3 : (nearExchange s1 p q).partialStore = nearStore s p q := hl.book.nearStore hl.exchange p q
  have h4 : (nearExchange s1 p q).nearFold = [] := rfl
  have h5 : (nearExchange s1 p q).own = (s.exchange p q).own := (congrArg Exchange.own (hl.exchange p q) :)
  have h6 : (placeOf s p).d ∈ (nearExchange s1 p q).farLevel.onTime := by
    rw [← hl.book.layout.placeOf]
    exact mem_addOnce ..
  unfold State.nearClose at ht
  obtain ⟨u, hu⟩ : ∃ u, s1.closeNear p q = u := ⟨_, rfl⟩
  rw [hu] at hx hn hf ht
  dsimp only at ht
  obtain ⟨g, hg⟩ : ∃ g, (u.ledger.lags.filter (fun e => e.1 != (s.exchange p q).step) ++ [((s.exchange p q).step,
    (if (placeOf s p).dd = 1 then (0 : Int) else (Config.freeNat u.freeCtr (s.exchange p q).step : Int)))]) = g := ⟨_, rfl⟩
  rw [hg] at ht
  have hex : t.exchange p q = nearExchange s1 p q := by
    rw [← ht]
    exact hx
  obtain ⟨e, he⟩ : ∃ e, nearExchange s1 p q = e := ⟨_, rfl⟩
  rw [he] at h1 h2 h3 h4 h5 h6 hex
  rw [hex]
  refine ⟨by rw [← ht]; exact hn, h1, h2, h3, h4, h5, h6, ?_⟩
  rw [← ht]
  exact (congrArg (fun y : State => { y with ledger := { u.ledger with lags := g.drop (g.length - 64) }, freeCtr := y.freeCtr + 1 }) hf :)

section
variable {s : State} {q p : Nat} (hq : q < 4)
include hq

theorem exec_farClose_complete (h : exchangeWhere s q (fun p e => e.nearClosed && !e.farClosed && farComplete s p q) = some p) :
    exec (.farClose q) s = .next (s.closeFar p q) := by
  refine (if_pos hq).trans (congrArg Host.Outcome.next ?_)
  dsimp only
  rw [h]

theorem exec_farClose_waited (hn : exchangeWhere s q (fun p e => e.nearClosed && !e.farClosed && farComplete s p q) = none)
    (h : exchangeWhere s q (fun _ e => e.nearClosed && !e.farClosed) = some p) : exec (.farClose q) s = .next
      ((s.advance ((s.exchange p q).nearCloseAt + (match tableOf s p with | some t => t.farWait | none => 0) * cyPerTick)).closeFar p q) := by
  refine (if_pos hq).trans (congrArg Host.Outcome.next ?_)
  dsimp only
  rw [hn]
  dsimp only
  rw [h] <;> rfl

end

theorem State.closeFar_sums {s s1 : State} (hl : Later s s1) (p q : Nat) {t : State} (ht : s1.closeFar p q = t) :
    t.now = s1.now ∧ (t.exchange p q).farClosed = true ∧ (t.exchange p q).reduced = farStore s p q ∧ (t.exchange p q).reducedFor = farShards s p q
    ∧ (t.exchange p q).mirrorAcks = (farShards s p q).flatMap (fun n => (mirrorTargets s p n).map (fun _ => n))
    ∧ (t.exchange p q).farFold = [] ∧ (t.exchange p q).partialStore = (s.exchange p q).partialStore
    ∧ t = { s with now := t.now, rtc := t.rtc, fabric := t.fabric, ledger := t.ledger } := by
  obtain ⟨hx, hn, hf⟩ := hl.ships (s1.closeFar_closes p q)
  rw [ht] at hx hn hf
  have hacks : ((farShards s1 p q).flatMap (fun n => (mirrorTargets s1 p n).map (fun t => (n, t)))).map (fun e => e.1)
      = (farShards s p q).flatMap (fun n => (mirrorTargets s p n).map (fun _ => n)) := by
    rw [List.map_flatMap, hl.book.farShards hl.exchange]
    refine congrArg (fun f => List.flatMap f (farShards s p q)) (funext fun n => ?_)
    rw [hl.book.mirrorTargets, List.map_map]
    rfl
  rw [hx]
  exact ⟨hn, rfl, hl.book.farStore hl.exchange p q, hl.book.farShards hl.exchange p q, hacks, rfl,
    (congrArg Exchange.partialStore (hl.exchange p q) :), hf⟩

/-- Settles O33: chunks are judged, refused or waited for, and the closes sum in rank and domain order (R296-R300). -/
theorem contributionsAreSummedInOrder : Obligations.ContributionsAreSummedInOrder := by
  unfold Obligations.ContributionsAreSummedInOrder
  refine ⟨?_, ?_, ?_, ?_, ?_, ?_⟩
  · intro s q h pay p s1 src hq ht pl hsrc hw
    have hs := State.fabricTake_only ht
    refine ⟨fun hx hp k tid j first hl => ⟨_, exec_contribReceive_takes hq ht hsrc hw hx hp hl, State.takenChunk_judged hs _ _ _ _ _ rfl⟩,
      fun hx hp hf => ⟨_, exec_contribReceive_ends hq ht hsrc hw hx hp hf, ?_⟩,
      fun hx => ⟨_, exec_contribReceive_refuses hq ht hsrc hw hx, ?_⟩⟩
    · rw [State.exchange_setExchange]
      exact ⟨mem_addOnce .., rfl, hs.setExchange_frame p q _⟩
    · obtain ⟨t, htt⟩ : ∃ t, s1.refuseChunk q h 2 (atSlab s (sliceSlabs s p (shardPlace (placeOf s p) (fabShard h)).2.2
        (shardPlace (placeOf s p) (fabShard h)).1) (fabOffset h)) = t := ⟨_, rfl⟩
      obtain ⟨he, hc, hsent, hf⟩ := State.refuseChunk_refuses ht _ _ htt
      rw [htt]
      exact ⟨he p, hc, hsent, hf⟩
  · exact fun s q h pay p src k hq hp hsrc hl ha hst => exec_contribReceive_waits hq hp hsrc hl ha hst
  · intro s q h pay p s1 src hq ht pl i hsrc
    have hs := State.fabricTake_only ht
    refine ⟨fun hn k tid j first hl => ⟨_, exec_partialReceive_takes hq ht hsrc hn hl, State.takenChunk_judged hs _ _ _ _ _ rfl⟩,
      fun hn => ⟨_, exec_partialReceive_refuses hq ht hsrc hn, ?_⟩⟩
    obtain ⟨t, htt⟩ : ∃ t, s1.refuseChunk q h 5 (atSlab s (shardSlabsNo s p (fabShard h)) (fabOffset h)) = t := ⟨_, rfl⟩
    obtain ⟨he, hc, hsent, hf⟩ := State.refuseChunk_refuses ht _ _ htt
    rw [htt]
    exact ⟨he p, hc, hsent, hf⟩
  · intro s q p s1 hq h
    obtain ⟨p', -, hp'⟩ := List.exists_of_findSome?_eq_some h
    obtain ⟨s1', hr, he⟩ := Option.map_eq_some_iff.1 hp'
    cases he
    exact ⟨_, exec_nearClose_closes hq h, State.nearClose_closes (nearReady_later hr) p q rfl⟩
  · intro s q p hq due closed
    refine ⟨fun h => ?_, fun hn h => ?_⟩
    · obtain ⟨hnow, hr⟩ := State.closeFar_sums (Later.refl s) p q rfl
      exact ⟨_, exec_farClose_complete hq h, hnow, hr⟩
    · obtain ⟨hnow, hr⟩ := State.closeFar_sums (s.advance_later _) p q rfl
      exact ⟨_, exec_farClose_waited hq hn h, hr, hnow⟩
  · intro s tid j stores fold out span
    obtain ⟨sp, hsp⟩ : ∃ sp, slabSpan s tid j = sp := ⟨_, rfl⟩
    have hspan : span = sp := hsp
    rw [hspan]
    refine ⟨fun i hi => ?_, fun k hk => ?_⟩
    · exact (tget_slabSums ..).trans (if_pos (by rw [hsp]; unfold ekey; omega))
    · exact (tget_slabSums ..).trans (if_neg (by rw [hsp]; unfold ekey at hk ⊢; omega))


end Sys2Proof.Machine
end

section
/-! SUPPORT. The four phases of an update begin (R262-R270). -/

namespace Sys2Proof.Machine

/-! ### What the division of an update among the quays turns on (R263, R264) -/

/-- Two states in which a domain has the same tensors, table, group records and roles. -/
structure SamePlan (p : Nat) (s t : State) : Prop where
  domain : domainTensors t p = domainTensors s p
  table : tableOf t p = tableOf s p
  group : ∀ k, groupFor t p k = groupFor s p k
  records : ∀ k, t.recOf k = s.recOf k
  number : t.moduleNumber = s.moduleNumber
  roles : t.ledger.roles = s.ledger.roles

namespace SamePlan

variable {p : Nat} {s t : State} (h : SamePlan p s t)
include h

theorem placeOf : placeOf t p = placeOf s p := by simp only [Machine.placeOf, h.table, h.number]
theorem memberModule (i d : Nat) : memberModule t p i d = memberModule s p i d := by simp only [Machine.memberModule, h.table, h.number]
theorem partnerOf (i d : Nat) : partnerOf t p i d = partnerOf s p i d := by simp only [Machine.partnerOf, h.table, h.number]
theorem slabCount (k : Nat) : slabCount t k = slabCount s k := by simp only [Machine.slabCount, elemsOf, h.records]
theorem domainSlabs : domainSlabs t p = domainSlabs s p := by simp only [Machine.domainSlabs, h.domain, h.slabCount]
theorem alignBound (l : List (Nat × Nat)) (b : Nat) : alignBound t p l b = alignBound s p l b := by
  simp only [Machine.alignBound, blockRowTiles, h.records, h.group, h.slabCount]
theorem sliceRange (pl : Place) (i : Nat) : sliceRange t p pl i = sliceRange s p pl i := by
  simp only [Machine.sliceRange, h.domainSlabs, h.alignBound]
theorem shardRange (pl : Place) (i d : Nat) : shardRange t p pl i d = shardRange s p pl i d := by
  simp only [Machine.shardRange, h.domainSlabs, h.sliceRange, h.alignBound]
theorem shardSlabsNo (n : Nat) : shardSlabsNo t p n = shardSlabsNo s p n := by
  simp only [Machine.shardSlabsNo, shardSlabs, slabsIn, h.placeOf, h.shardRange, h.domainSlabs, h.records]
theorem liveShards : liveShards t p = liveShards s p := by simp only [Machine.liveShards, h.placeOf, h.shardSlabsNo]
theorem mirrorSlabs (n q : Nat) : mirrorSlabs t p n q = mirrorSlabs s p n q := by simp only [Machine.mirrorSlabs, h.shardSlabsNo, h.records]
theorem ownShard (q : Nat) : ownShard t p q = ownShard s p q := by simp only [Machine.ownShard, h.placeOf]
theorem mirroredHere (q : Nat) : mirroredHere t p q = mirroredHere s p q := by
  simp only [Machine.mirroredHere, h.liveShards, h.placeOf, h.partnerOf, h.number, h.mirrorSlabs]
theorem quaySlabs : quaySlabs t p = quaySlabs s p :=
  funext fun q => by simp only [Machine.quaySlabs, h.shardSlabsNo, h.ownShard, h.mirroredHere, h.mirrorSlabs]
theorem domainKeys : domainKeys t p = domainKeys s p := by simp only [Machine.domainKeys, h.quaySlabs]
theorem passTwoUnits : passTwoUnits t p = passTwoUnits s p :=
  funext fun q => by
    simp only [Machine.passTwoUnits, h.quaySlabs, h.records, h.group]

end SamePlan

theorem State.run_setRun (s : State) (p : Nat) (r : UpdateRun) : (s.setRun p r).run p = r := tget_tput_same ({} : UpdateRun) s.opt.runs p r

/-- While a run goes on, its own record says what the division turns on. -/
theorem samePlan_of_run {s t : State} {p : Nat} (hu : 0 < (s.run p).phase) (ht : 0 < (t.run p).phase) (hpar : (t.run p).par = (s.run p).par)
    (htab : (t.run p).table = (s.run p).table) (hrec : ∀ k, t.recOf k = s.recOf k) (hnum : t.moduleNumber = s.moduleNumber)
    (hroles : t.ledger.roles = s.ledger.roles) : SamePlan p s t := by
  have h1 : s.updating p = true := decide_eq_true hu
  have h2 : t.updating p = true := decide_eq_true ht
  exact ⟨by simp only [domainTensors, h1, h2, hpar, if_true], by simp only [tableOf, h1, h2, htab, if_true],
    fun k => by simp only [groupFor, h1, h2, hpar, if_true],
    hrec, hnum, hroles⟩

theorem State.setRun_samePlan (s : State) {p : Nat} {r : UpdateRun} (hu : 0 < (s.run p).phase) (hr : 0 < r.phase) (hpar : r.par = (s.run p).par)
    (htab : r.table = (s.run p).table) : SamePlan p s (s.setRun p r) := by
  have h := s.run_setRun p r
  exact samePlan_of_run hu (by rw [h]; exact hr) (by rw [h]; exact hpar) (by rw [h]; exact htab) (fun _ => rfl) rfl rfl

theorem SamePlan.trans {p : Nat} {s t u : State} (a : SamePlan p s t) (b : SamePlan p t u) : SamePlan p s u :=
  ⟨b.domain.trans a.domain, b.table.trans a.table, fun k => (b.group k).trans (a.group k), fun k => (b.records k).trans (a.records k),
    b.number.trans a.number, b.roles.trans a.roles⟩

theorem Later.samePlan {s t : State} (h : Later s t) (p : Nat) : SamePlan p s t :=
  ⟨h.book.layout.domainTensors p, h.book.layout.tableOf p, h.book.layout.groupFor p, h.book.layout.recOf, h.book.layout.moduleNumber, h.book.roles⟩

theorem phaseReady_later {s s1 : State} {p k : Nat} (h : phaseReady s p k = some s1) : Later s s1 := by
  unfold phaseReady at h
  dsimp only at h
  split_ifs at h
  · cases h; exact .refl s
  · cases h; exact s.advance_later _

/-! ### Passes (R258, R264) -/

/-- A quay that has units begins the pass. -/
def Began (e : Engines) (p pass : Nat) : Prop := e.dom = p ∧ e.pass = pass ∧ e.passDone = false

theorem Engines.take_began {e : Engines} {p pass : Nat} (h : Began e p pass) (k : Nat) : Began (e.take k) p pass := by
  unfold Engines.take
  split
  · exact h
  · split <;> exact h

theorem Engines.begin_began (e : Engines) (p pass : Nat) (l : List Nat) {us : List (Nat × Nat)} (hu : us ≠ []) : Began (e.begin p pass l us) p pass := by
  have hn : us.isEmpty = false := by simpa using hu
  unfold Engines.begin
  dsimp only
  rw [if_neg (by rw [hn]; decide)]
  exact List.foldlRecOn (motive := fun e => Began e p pass) _ _ ⟨rfl, rfl, hn⟩ fun e h k _ => Engines.take_began h k

/-- One quay's part in a pass that begins. -/
def State.beginQuay (s : State) (p pass : Nat) (units : Nat → List (Nat × Nat)) (q : Nat) : State :=
  if (units q).isEmpty then s else s.setEngines q ((s.engines q).begin p pass (enabledEngines s q) (units q))

theorem State.engines_setEngines (s : State) (q j : Nat) (e : Engines) : (s.setEngines q e).engines j = if j = q then e else s.engines j :=
  tget_tput ({} : Engines) s.opt.engines q j e

theorem State.beginQuay_others (s : State) (p pass : Nat) (units : Nat → List (Nat × Nat)) {q j : Nat} (h : j ≠ q) :
    (s.beginQuay p pass units q).engines j = s.engines j := by
  unfold State.beginQuay
  split
  · rfl
  · rw [State.engines_setEngines, if_neg h]

theorem State.beginQuay_began (s : State) (p pass : Nat) {units : Nat → List (Nat × Nat)} {q : Nat} (h : units q ≠ []) :
    Began ((s.beginQuay p pass units q).engines q) p pass := by
  unfold State.beginQuay
  rw [if_neg (by simpa using h), State.engines_setEngines, if_pos rfl]
  exact Engines.begin_began _ p pass _ h

/-- A pass begins on every quay that has units; nothing but the engines changes. -/
theorem State.beginPass_begins (s : State) (p pass : Nat) (units : Nat → List (Nat × Nat)) :
    (∀ q, q < 4 → units q ≠ [] → Began ((s.beginPass p pass units).engines q) p pass)
    ∧ s.beginPass p pass units = { s with opt := { s.opt with engines := (s.beginPass p pass units).opt.engines } } := by
  have e : s.beginPass p pass units = (List.range 4).foldl (fun t q => t.beginQuay p pass units q) s := rfl
  rw [e]
  constructor
  · have key : ∀ n, ∀ q, q < n → units q ≠ [] →
        Began (((List.range n).foldl (fun t q => t.beginQuay p pass units q) s).engines q) p pass := by
      intro n
      induction n with
      | zero => exact fun q h => absurd h (by omega)
      | succ n ih =>
        intro q hq hu
        rw [List.range_succ, List.foldl_append, List.foldl_cons, List.foldl_nil]
        by_cases hqn : q = n
        · subst hqn; exact State.beginQuay_began _ p pass hu
        · rw [State.beginQuay_others _ p pass units hqn]; exact ih q (by omega) hu
    exact key 4
  · refine List.foldlRecOn (motive := fun t : State => t = { s with opt := { s.opt with engines := t.opt.engines } }) _ _ rfl fun t h q _ => ?_
    unfold State.beginQuay
    split
    · exact h
    · obtain ⟨e, he⟩ : ∃ e, (t.engines q).begin p pass (enabledEngines t q) (units q) = e := ⟨_, rfl⟩
      rw [he]
      exact (congrArg (fun y : State => { y with opt := { y.opt with engines := (t.setEngines q e).opt.engines } }) h :)

/-! ### The phases that begin (R262-R265) -/

section
variable {s s1 : State} {p : Nat} (hp : p < 8)
include hp

/-- The run of a domain whose pass one begins. -/
def passOneRun (run : UpdateRun) (late : Nat) : UpdateRun :=
  { run with phase := 2, sums := [], report := { run.report with lateness := run.report.lateness ++ [late] } }

theorem exec_passOneBegin_begins (hph : (s.run p).phase = 1) (hc : ∀ q ∈ activeQuays s p, (s.exchange p q).farClosed = true)
    (he : enginesFree s p (quaySlabs s p) = true) (hr : phaseReady s p 1 = some s1) : exec (.passOneBegin p) s =
      .next ((s1.setRun p (passOneRun (s.run p) (lateTicks s1 p 1))).beginPass p 1
        (quaySlabs (s1.setRun p (passOneRun (s.run p) (lateTicks s1 p 1))) p)) := by
  refine (if_pos hp).trans (congrArg Host.Outcome.next ?_)
  dsimp only
  rw [if_neg (by rw [hph, he, List.all_eq_true.2 hc]; decide), hr]
  rfl

end

/-- Pass one begins where the quays have slabs. -/
theorem State.passOne_begins {s s1 : State} {p : Nat} (hl : Later s s1) (hph : (s.run p).phase = 1) (late : Nat) {t : State}
    (ht : (s1.setRun p (passOneRun (s.run p) late)).beginPass p 1 (quaySlabs (s1.setRun p (passOneRun (s.run p) late)) p) = t) :
    t.now = s1.now ∧ (t.run p).phase = 2 ∧ (t.run p).sums = [] ∧ (t.run p).step = (s.run p).step
      ∧ (∀ q, q < 4 → quaySlabs s p q ≠ [] → (t.engines q).dom = p ∧ (t.engines q).pass = 1 ∧ (t.engines q).passDone = false)
      ∧ t.opt.tensors = s.opt.tensors ∧ t = { s with now := t.now, rtc := t.rtc, opt := t.opt } := by
  have hrun : s1.run p = s.run p := hl.book.layout.run p
  have hplan : SamePlan p s (s1.setRun p (passOneRun (s.run p) late)) := (hl.samePlan p).trans
    (s1.setRun_samePlan (by rw [hrun]; omega) (by decide : 0 < 2) (by rw [hrun]; rfl) (by rw [hrun]; rfl))
  rw [hplan.quaySlabs] at ht
  have hx := s1.run_setRun p (passOneRun (s.run p) late)
  have hf : s1.setRun p (passOneRun (s.run p) late) = { s1 with opt := (s1.setRun p (passOneRun (s.run p) late)).opt } := rfl
  have hts : (s1.setRun p (passOneRun (s.run p) late)).opt.tensors = s1.opt.tensors := rfl
  obtain ⟨u, hu⟩ : ∃ u, s1.setRun p (passOneRun (s.run p) late) = u := ⟨_, rfl⟩
  rw [hu] at ht hx hf hts
  obtain ⟨hb, hbf⟩ := u.beginPass_begins p 1 (quaySlabs s p)
  rw [ht] at hb hbf
  have htr : t.run p = u.run p := (congrArg (fun y : State => y.run p) hbf :)
  have hto : t.opt.tensors = u.opt.tensors := (congrArg (fun y : State => y.opt.tensors) hbf :)
  have hso : s1.opt = s.opt := hl.book.layout.opt
  have htu : t = { u with opt := t.opt } := by
    rw [(congrArg State.opt hbf :)]
    exact hbf
  have htn : t.now = s1.now := ((congrArg State.now htu :)).trans (congrArg State.now hf :)
  have htc : t.rtc = s1.rtc := ((congrArg State.rtc htu :)).trans (congrArg State.rtc hf :)
  refine ⟨htn, ?_, ?_, ?_, hb, hto.trans (hts.trans (congrArg Optimizer.tensors hso)), ?_⟩
  · rw [htr, hx]; rfl
  · rw [htr, hx]; rfl
  · rw [htr, hx]; rfl
  · rw [htn, htc]
    exact (htu.trans (congrArg (fun y : State => { y with opt := t.opt }) hf :)).trans
      (congrArg (fun y : State => { y with opt := t.opt }) hl.frame :)

/-- The report of pass two. -/
def passTwoReport (s : State) (p late : Nat) (skip : Bool) (lr : F64) : UpdateReport :=
  let run := s.run p
  let rows := ((List.range 4).map (fun q => (lazyRows s p q).length)).foldl (· + ·) 0
  { run.report with
    lateness := run.report.lateness ++ [late], lr := f64ToF32 lr, touchedRows := if skip then 0 else rows
    flags := run.report.flags ||| (if skip then 1 else 0) ||| (if run.pinned then 4 else 0) }

/-- The run of a domain whose pass two begins. -/
def passTwoRun (s : State) (p late : Nat) (skip : Bool) : UpdateRun :=
  let run := s.run p
  let lr := lrAt (domPoints run.domRec) run.step
  { run with
    phase := 3, lr := lr, skipped := skip, report := passTwoReport s p late skip lr, prior := if skip then run.prior else priorStates s p }

/-- The folds of a quay that a skipped update drops. -/
def State.forgetFolds (s : State) (p q : Nat) : State :=
  let ex := s.exchange p q
  ((s.setExchange p q { ex with
    near := { ex.near with folded := [], foldedChunks := 0, dropped := ex.near.folded.foldl addOnce ex.near.dropped }
    farLevel := { ex.farLevel with folded := [], foldedChunks := 0, dropped := ex.farLevel.folded.foldl addOnce ex.farLevel.dropped } }).dropFolded
      0 ex.near.foldedChunks).dropFolded 3 ex.farLevel.foldedChunks

/-- One more update of a tensor's state. -/
def State.countUpdate (s : State) (k : Nat) : State := s.setOptOf k { s.optOf k with u := (s.optOf k).u + 1 }

/-- Pass two of a run whose norm is not finite is skipped; else its tensors' updates are counted and the quays begin. -/
def State.passTwo (s s1 : State) (p : Nat) (skip : Bool) : State :=
  let s2 := s1.setRun p (passTwoRun s p (lateTicks s1 p 2) skip)
  if skip then
    ((List.range 4).foldl (fun t q => t.forgetFolds p q) s2).event sevDegraded evUpdateSkipped (ledgerOf s p) ((s.run p).step % 2 ^ 32)
  else
    let s3 := (domainKeys s2 p).foldl (fun t k => t.countUpdate k) s2
    s3.beginPass p 2 (passTwoUnits s3 p)

theorem exec_passTwoBegin_begins {s s1 : State} {p : Nat} {g2 : F64} (hp : p < 8) (hg : (s.run p).g2 = some g2) (hph : (s.run p).phase = 2)
    (ho : passOver s p 1 = true) (hc : ∀ tid ∈ domainTensors s p, (s.tensor tid).checkpointing = none)
    (hn : ∀ q, q < 4 → heldShards s p q = [] ∨ ∀ n ∈ liveShards s p, tfind (s.exchange p q).norms n ≠ none)
    (he : enginesFree s p (passTwoUnits s p) = true) (hr : phaseReady s p 2 = some s1) :
    exec (.passTwoBegin p) s = .next (s.passTwo s1 p (!dFinite g2)) := by
  have hcopy : (domainTensors s p).any (fun tid => (s.tensor tid).checkpointing.isSome) = false := by
    rw [List.any_eq_false]
    intro tid ht
    rw [hc tid ht]
    decide
  have hwhole : (List.range 4).all (fun q => (heldShards s p q).isEmpty || normsWhole s p q) = true := by
    rw [List.all_eq_true]
    intro q hq
    rcases hn q (List.mem_range.1 hq) with h | h
    · rw [h]; rfl
    · have hw : normsWhole s p q = true := List.all_eq_true.2 fun n hm => Option.isSome_iff_ne_none.2 (h n hm)
      rw [hw, Bool.or_true]
  refine (if_pos hp).trans (congrArg Host.Outcome.next ?_)
  unfold State.passTwo passTwoRun passTwoReport
  dsimp only
  rw [hg]
  dsimp only
  rw [hcopy, hwhole, if_neg (by rw [hph, ho, he]; decide), hr]
  rfl

/-- Dropped folds touch the exchanges and the counters alone. -/
theorem State.forgetFolds_frame (s : State) (p q : Nat) : s.forgetFolds p q = { s with ledger := (s.forgetFolds p q).ledger } := by
  unfold State.forgetFolds
  dsimp only
  obtain ⟨e, he⟩ : ∃ e, { s.exchange p q with
    near := { (s.exchange p q).near with folded := [], foldedChunks := 0, dropped := (s.exchange p q).near.folded.foldl addOnce (s.exchange p q).near.dropped }
    farLevel := { (s.exchange p q).farLevel with
      folded := [], foldedChunks := 0, dropped := (s.exchange p q).farLevel.folded.foldl addOnce (s.exchange p q).farLevel.dropped } } = e := ⟨_, rfl⟩
  rw [he]
  rfl

theorem State.forgetAll_frame (s : State) (p : Nat) (l : List Nat) :
    l.foldl (fun t q => t.forgetFolds p q) s = { s with ledger := (l.foldl (fun t q => t.forgetFolds p q) s).ledger } :=
  List.foldlRecOn (motive := fun t : State => t = { s with ledger := t.ledger }) l _ rfl fun t h q _ =>
    (t.forgetFolds_frame p q).trans (congrArg (fun y : State => { y with ledger := (t.forgetFolds p q).ledger }) h :)

theorem State.optOf_setOptOf (s : State) (k j : Nat) (o : OptState) : (s.setOptOf k o).optOf j = if j = k then o else s.optOf j :=
  tget_tput ({} : OptState) s.opt.tensors k j o

/-- Each tensor of a list without repeats counts one more update. -/
theorem State.countUpdates_counts {l : List Nat} (hl : l.Nodup) (s : State) (j : Nat) :
    (l.foldl (fun t k => t.countUpdate k) s).optOf j = { s.optOf j with u := (s.optOf j).u + (if j ∈ l then 1 else 0) } := by
  induction l generalizing s with
  | nil => rfl
  | cons k l ih =>
    obtain ⟨hk, hl⟩ := List.nodup_cons.1 hl
    rw [List.foldl_cons, ih hl, State.countUpdate, State.optOf_setOptOf]
    by_cases hj : j = k
    · subst hj
      rw [if_pos rfl, if_neg hk, if_pos List.mem_cons_self]
    · rw [if_neg hj]
      simp [hj]

theorem State.countUpdates_frame (s : State) (l : List Nat) :
    l.foldl (fun t k => t.countUpdate k) s = { s with opt := { s.opt with tensors := (l.foldl (fun t k => t.countUpdate k) s).opt.tensors } } :=
  List.foldlRecOn (motive := fun t : State => t = { s with opt := { s.opt with tensors := t.opt.tensors } }) l _ rfl fun t h k _ =>
    (congrArg (fun y : State => { y with opt := { y.opt with tensors := (t.countUpdate k).opt.tensors } }) h :)

theorem nodup_addOnce {α : Type} [DecidableEq α] {l : List α} (h : l.Nodup) (a : α) : (addOnce l a).Nodup := by
  unfold addOnce
  split
  · exact h
  · next ha => exact List.nodup_append.2 ⟨h, List.nodup_singleton a, fun x hx y hy => by rintro rfl; exact ha (List.mem_singleton.1 hy ▸ hx)⟩

theorem domainKeys_nodup (s : State) (p : Nat) : (domainKeys s p).Nodup :=
  List.foldlRecOn (motive := List.Nodup) _ _ List.nodup_nil fun _ h _ _ => List.foldlRecOn (motive := List.Nodup) _ _ h fun _ h e _ => nodup_addOnce h e.1

/-- Pass two begins: the frame. -/
theorem State.passTwo_begins {s s1 : State} {p : Nat} (hl : Later s s1) (hph : (s.run p).phase = 2) (skip : Bool) {t : State}
    (ht : s.passTwo s1 p skip = t) :
    t.now = s1.now ∧ (t.run p).phase = 3 ∧ (t.run p).lr = lrAt (domPoints (s.run p).domRec) (s.run p).step ∧ (t.run p).skipped = skip
      ∧ (skip = true → t.opt.tensors = s.opt.tensors ∧ Logged s t sevDegraded evUpdateSkipped (ledgerOf s p) ((s.run p).step % 2 ^ 32))
      ∧ (skip = false →
        (∀ k, t.optOf k = { s.optOf k with u := (s.optOf k).u + (if k ∈ domainKeys s p then 1 else 0) })
        ∧ (∀ q, q < 4 → passTwoUnits s p q ≠ [] → (t.engines q).dom = p ∧ (t.engines q).pass = 2) ∧ t.log = s.log)
      ∧ t = { s with now := t.now, rtc := t.rtc, opt := t.opt, ledger := t.ledger, log := t.log, hosts := t.hosts, sivar := t.sivar } := by
  have hrun : s1.run p = s.run p := hl.book.layout.run p
  obtain ⟨r, hr⟩ : ∃ r, passTwoRun s p (lateTicks s1 p 2) skip = r := ⟨_, rfl⟩
  have hr1 : r.phase = 3 := by rw [← hr]; rfl
  have hr2 : r.lr = lrAt (domPoints (s.run p).domRec) (s.run p).step := by rw [← hr]; rfl
  have hr3 : r.skipped = skip := by rw [← hr]; rfl
  have hr4 : r.par = (s.run p).par := by rw [← hr]; rfl
  have hr5 : r.table = (s.run p).table := by rw [← hr]; rfl
  have hplan : SamePlan p s (s1.setRun p r) := (hl.samePlan p).trans
    (s1.setRun_samePlan (by rw [hrun]; omega) (by omega) (by rw [hrun]; exact hr4) (by rw [hrun]; exact hr5))
  have hx := s1.run_setRun p r
  have hf : s1.setRun p r = { s with now := s1.now, rtc := s1.rtc, opt := (s1.setRun p r).opt } :=
    (congrArg (fun y : State => { y with opt := (s1.setRun p r).opt }) hl.frame :)
  have hts : (s1.setRun p r).opt.tensors = s.opt.tensors := (congrArg (fun y : State => y.opt.tensors) hl.frame :)
  unfold State.passTwo at ht
  dsimp only at ht
  rw [hr] at ht
  obtain ⟨u, hu⟩ : ∃ u, s1.setRun p r = u := ⟨_, rfl⟩
  rw [hu] at ht hx hf hts hplan
  have hun : u.now = s1.now := (congrArg State.now hf :)
  have huc : u.rtc = s1.rtc := (congrArg State.rtc hf :)
  rw [← hun, ← huc] at hf
  rw [← hun]
  cases skip with
  | true =>
    rw [if_pos rfl] at ht
    have hv := u.forgetAll_frame p (List.range 4)
    obtain ⟨v, hvv⟩ : ∃ v, (List.range 4).foldl (fun t q => t.forgetFolds p q) u = v := ⟨_, rfl⟩
    rw [hvv] at ht hv
    have he := v.event_frame sevDegraded evUpdateSkipped (ledgerOf s p) ((s.run p).step % 2 ^ 32)
    have hvs : v = { s with now := u.now, rtc := u.rtc, opt := u.opt, ledger := v.ledger } :=
      hv.trans (congrArg (fun y : State => { y with ledger := v.ledger }) hf :)
    have hlog := logged_event_of (s := s) (u := v) (congrArg State.log hvs :) (congrArg State.mc hvs :) (congrArg (fun y : State => y.cfg 0x8000 3) hvs :)
      sevDegraded evUpdateSkipped (ledgerOf s p) ((s.run p).step % 2 ^ 32)
    rw [ht] at he hlog
    have hts' : t = { s with now := u.now, rtc := u.rtc, opt := u.opt, ledger := v.ledger, log := t.log, hosts := t.hosts, sivar := t.sivar } :=
      he.trans (congrArg (fun y : State => { y with log := t.log, hosts := t.hosts, sivar := t.sivar }) hvs :)
    have htn : t.now = u.now := (congrArg State.now hts' :)
    have htc : t.rtc = u.rtc := (congrArg State.rtc hts' :)
    have hto : t.opt = u.opt := (congrArg State.opt hts' :)
    have htl : t.ledger = v.ledger := (congrArg State.ledger hts' :)
    have htr : t.run p = r := by rw [State.run, hto]; exact hx
    rw [← htn, ← htc, ← hto, ← htl] at hts'
    rw [htr]
    exact ⟨htn, hr1, hr2, hr3, fun _ => ⟨(congrArg Optimizer.tensors hto).trans hts, hlog⟩, fun h => Bool.noConfusion h, hts'⟩
  | false =>
    rw [if_neg Bool.false_ne_true] at ht
    have hk := u.countUpdates_counts (domainKeys_nodup u p)
    have hv := u.countUpdates_frame (domainKeys u p)
    rw [hplan.domainKeys] at ht hk hv
    obtain ⟨v, hvv⟩ : ∃ v, (domainKeys s p).foldl (fun t k => t.countUpdate k) u = v := ⟨_, rfl⟩
    rw [hvv] at ht hk hv
    have hvr : v.run p = r := Eq.trans (congrArg (fun y : State => y.run p) hv :) hx
    have hvplan : SamePlan p s v := samePlan_of_run (by omega) (by rw [hvr]; omega) (by rw [hvr]; exact hr4) (by rw [hvr]; exact hr5)
      (fun k => (congrArg (fun y : State => y.recOf k) hv :).trans (hplan.records k))
      ((congrArg (fun y : State => y.moduleNumber) hv :).trans hplan.number)
      ((congrArg (fun y : State => y.ledger.roles) hv :).trans hplan.roles)
    rw [hvplan.passTwoUnits] at ht
    obtain ⟨hb, hbf⟩ := v.beginPass_begins p 2 (passTwoUnits s p)
    rw [ht] at hb hbf
    have htr : t.run p = r := Eq.trans (congrArg (fun y : State => y.run p) hbf :) hvr
    have hopt : ∀ k, t.optOf k = v.optOf k := fun k => (congrArg (fun y : State => y.optOf k) hbf :)
    have huo : ∀ k, u.optOf k = s.optOf k := fun k => congrArg (fun m => tget ({} : OptState) m k) hts
    have hvf : v = { u with opt := v.opt } := by
      rw [(congrArg State.opt hv :)]
      exact hv
    have htv : t = { v with opt := t.opt } := by
      rw [(congrArg State.opt hbf :)]
      exact hbf
    have hts' : t = { s with now := u.now, rtc := u.rtc, opt := t.opt } :=
      (htv.trans (congrArg (fun y : State => { y with opt := t.opt }) hvf :)).trans (congrArg (fun y : State => { y with opt := t.opt }) hf :)
    have htn : t.now = u.now := (congrArg State.now hts' :)
    have htc : t.rtc = u.rtc := (congrArg State.rtc hts' :)
    have htl : t.log = s.log := (congrArg State.log hts' :)
    have hth : t.hosts = s.hosts := (congrArg State.hosts hts' :)
    have htd : t.ledger = s.ledger := (congrArg State.ledger hts' :)
    have htz : t.sivar = s.sivar := (congrArg State.sivar hts' :)
    rw [htr]
    refine ⟨htn, hr1, hr2, hr3, fun h => Bool.noConfusion h, fun _ => ⟨fun k => ?_, fun q hq hu => ?_, htl⟩, ?_⟩
    · rw [hopt, hk, huo]
    · obtain ⟨h1, h2, -⟩ := hb q hq hu
      exact ⟨h1, h2⟩
    · rw [htl, hth, htd, htz, htn, htc]
      exact hts'

/-! ### The reduce-scatter (R262, R296) -/

/-- What fixes a quay's exchange while its update goes on. -/
def Exchange.start (e : Exchange) : Bool × Nat × Bool × Tbl F32 := (e.began, e.step, e.contributes, e.own)

theorem Exchange.start_iff {e : Exchange} {a : Bool} {b : Nat} {c : Bool} {d : Tbl F32} :
    e.start = (a, b, c, d) ↔ e.began = a ∧ e.step = b ∧ e.contributes = c ∧ e.own = d := by simp [start, Prod.ext_iff]

/-- The fabric and the ledger change, of the exchanges only one. -/
structure Posted (p q : Nat) (s t : State) : Prop where
  frame : t = { s with fabric := t.fabric, ledger := t.ledger }
  others : ∀ j, j ≠ q → t.exchange p j = s.exchange p j

namespace Posted

variable {p q : Nat} {s t u : State}

theorem refl (s : State) : Posted p q s s := ⟨rfl, fun _ _ => rfl⟩

theorem trans (a : Posted p q s t) (b : Posted p q t u) : Posted p q s u :=
  ⟨b.frame.trans (congrArg (fun y : State => { y with fabric := u.fabric, ledger := u.ledger }) a.frame :), fun j h => (b.others j h).trans (a.others j h)⟩

end Posted

theorem Shipped.posted {s t : State} (h : Shipped s t) (p q : Nat) : Posted p q s t := ⟨h.keeps, fun j _ => h.exchange p j⟩

theorem State.exchange_setExchange_ne (s : State) (p : Nat) {q j : Nat} (e : Exchange) (h : j ≠ q) : (s.setExchange p q e).exchange p j = s.exchange p j :=
  (tget_tput ({} : Exchange) s.ledger.exchange (4 * p + q) (4 * p + j) e).trans (if_neg (by omega))

theorem State.setExchange_posted (s : State) (p q : Nat) (e : Exchange) : Posted p q s (s.setExchange p q e) :=
  ⟨rfl, fun _ h => s.exchange_setExchange_ne p e h⟩

theorem State.countChunk_posted (s : State) (k n p q : Nat) : Posted p q s (s.countChunk k n) := ⟨rfl, fun _ _ => rfl⟩

/-- A judgement counts a chunk, and notes it in one exchange. -/
theorem State.judgeChunk_posted (u : State) (p q : Nat) (far : Bool) (src step k : Nat) : Posted p q u (u.judgeChunk p q far src step k) := by
  unfold State.judgeChunk
  dsimp only
  split
  · exact .refl u
  · split_ifs
    · exact .refl u
    all_goals first
      | exact (u.countChunk_posted _ _ p q).trans (State.setExchange_posted _ p q _)
      | exact u.countChunk_posted _ _ p q

theorem State.judgeChunk_start (u : State) (p q : Nat) (far : Bool) (src step k : Nat) :
    ((u.judgeChunk p q far src step k).exchange p q).start = (u.exchange p q).start :=
  State.judgeChunk_part Exchange.start far src (fun e => by cases far <;> rfl) (fun e c => by cases far <;> rfl) (fun e c => by cases far <;> rfl)
    u p q step k

theorem State.judgeHeld_judges (s : State) (p q step : Nat) :
    Posted p q s (s.judgeHeld p q step) ∧ ((s.judgeHeld p q step).exchange p q).start = (s.exchange p q).start := by
  unfold State.judgeHeld
  exact List.foldlRecOn (motive := fun t : State => Posted p q s t ∧ (t.exchange p q).start = (s.exchange p q).start) _ _ ⟨.refl s, rfl⟩
    fun t ht c _ => ⟨ht.1.trans (t.judgeChunk_posted p q c.far c.src c.step c.slab), (t.judgeChunk_start p q c.far c.src c.step c.slab).trans ht.2⟩

/-- The tensors of a domain that a quay keeps. -/
def quayTensors (s : State) (p q : Nat) : List Nat :=
  (domainTensors s p).filter (fun tid => match s.recOf tid with | some r => recPrimary r == q | none => false)

/-- A quay's exchange begins with the quay's own contribution. -/
theorem State.openExchange_opens (s : State) (p q step : Nat) (contributes cleared : Bool) :
    Posted p q s (s.openExchange p q step contributes cleared)
    ∧ ((s.openExchange p q step contributes cleared).exchange p q).start
      = (true, step, contributes, if contributes then ownStore s (quayTensors s p q) else []) := by
  obtain ⟨own, hown⟩ : ∃ own, (true, step, contributes, if contributes = true then ownStore s (quayTensors s p q) else []) = own := ⟨_, rfl⟩
  rw [hown]
  unfold State.openExchange
  dsimp only
  refine List.foldlRecOn (motive := fun t : State => Posted p q s t ∧ (t.exchange p q).start = own) _ _ ⟨s.setExchange_posted p q _, ?_⟩
    fun t ht k _ => ?_
  · rw [State.exchange_setExchange, ← hown]
    rfl
  · have send {u : State} (hu : Posted p q t u) (he : u.exchange p q = t.exchange p q) : Posted p q s u ∧ (u.exchange p q).start = own :=
      ⟨ht.1.trans hu, (congrArg Exchange.start he).trans ht.2⟩
    have ship {u : State} (hu : Shipped t u) := send (hu.posted p q) (hu.exchange p q)
    by_cases hc : contributes = true
    · rw [if_pos hc]
      split
      · exact ht
      · exact ship (t.sendSlabs_ships ..)
    · rw [if_neg hc]
      split
      · exact send (t.countChunk_posted ..) rfl
      · exact ship ⟨t.sendPacket_frame ..⟩

/-- One quay's part in a reduce-scatter that begins. -/
def State.openQuay (s : State) (p step : Nat) (holds cleared : Bool) (q : Nat) : State := (s.openExchange p q step holds cleared).judgeHeld p q step

theorem State.openQuay_opens (s : State) (p step : Nat) (holds cleared : Bool) (q : Nat) :
    Posted p q s (s.openQuay p step holds cleared q)
    ∧ ((s.openQuay p step holds cleared q).exchange p q).start = (true, step, holds, if holds then ownStore s (quayTensors s p q) else []) := by
  obtain ⟨h1, h2⟩ := s.openExchange_opens p q step holds cleared
  obtain ⟨h3, h4⟩ := (s.openExchange p q step holds cleared).judgeHeld_judges p q step
  exact ⟨h1.trans h3, h4.trans h2⟩

/-- The quays' exchanges that have begun, in a state whose optimizer and tensors stand. -/
theorem State.openQuays_open (s : State) (p step : Nat) (holds cleared : Bool) (hu : 0 < (s.run p).phase) (n : Nat) :
    let t := (List.range n).foldl (fun t q => t.openQuay p step holds cleared q) s
    t = { s with fabric := t.fabric, ledger := t.ledger }
    ∧ ∀ q, q < n → (t.exchange p q).start = (true, step, holds, if holds then ownStore s (quayTensors s p q) else []) := by
  induction n with
  | zero => exact ⟨rfl, fun q h => absurd h (by omega)⟩
  | succ n ih =>
    rw [List.range_succ, List.foldl_append, List.foldl_cons, List.foldl_nil]
    obtain ⟨t, ht⟩ : ∃ t, (List.range n).foldl (fun t q => t.openQuay p step holds cleared q) s = t := ⟨_, rfl⟩
    rw [ht] at ih ⊢
    obtain ⟨hf, hq⟩ := ih
    obtain ⟨h1, h2⟩ := t.openQuay_opens p step holds cleared n
    have hupd : s.updating p = true := decide_eq_true hu
    have htupd : t.updating p = true := Eq.trans (congrArg (fun y : State => y.updating p) hf :) hupd
    have hrun : t.run p = s.run p := (congrArg (fun y : State => y.run p) hf :)
    have hten : t.tensors = s.tensors := (congrArg State.tensors hf :)
    have hopt : t.opt = s.opt := (congrArg State.opt hf :)
    have hown : ownStore t (quayTensors t p n) = ownStore s (quayTensors s p n) := by
      simp only [ownStore, State.optOf, hopt, quayTensors, domainTensors, htupd, hupd, hrun, State.recOf, hten, if_true]
    rw [hown] at h2
    dsimp only
    refine ⟨h1.frame.trans (congrArg (fun y : State => { y with
      fabric := (t.openQuay p step holds cleared n).fabric, ledger := (t.openQuay p step holds cleared n).ledger }) hf :), fun q hlt => ?_⟩
    by_cases hqn : q = n
    · subst hqn; exact h2
    · rw [h1.others q hqn]
      exact hq q (by omega)

/-- A discarded gradient leaves the accumulators of its tensors empty. -/
theorem State.discardGradient_discards (s : State) (l : List Nat) (k : Nat) :
    (s.discardGradient l).optOf k = if k ∈ l then { s.optOf k with acc := [], touched := [], dense := false } else s.optOf k := by
  unfold State.discardGradient
  induction l generalizing s with
  | nil => rfl
  | cons a l ih =>
    rw [List.foldl_cons, ih, State.optOf_setOptOf]
    by_cases hk : k = a
    · subst hk
      simp
    · simp [hk]

theorem State.discardGradient_frame (s : State) (l : List Nat) :
    s.discardGradient l = { s with opt := { s.opt with tensors := (s.discardGradient l).opt.tensors } } :=
  List.foldlRecOn (motive := fun t : State => t = { s with opt := { s.opt with tensors := t.opt.tensors } }) l _ rfl fun t h k _ => by
    obtain ⟨o, ho⟩ : ∃ o, { t.optOf k with acc := [], touched := [], dense := false } = o := ⟨_, rfl⟩
    rw [ho]
    exact (congrArg (fun y : State => { y with opt := { y.opt with tensors := (t.setOptOf k o).opt.tensors } }) h :)

/-- What a reduce-scatter that begins leaves. -/
def State.reduceScatter (s s1 : State) (p step : Nat) (rec : BitVec 128) (holds cleared : Bool) : State :=
  let s3 := (List.range 4).foldl (fun t q => t.openQuay p step holds cleared q) (s1.setRun p (openRun s1 p step rec))
  if !holds && decide (step = stepNumber s p) then s3.discardGradient (domainTensors s3 p) else s3

/-- Whether a partition's launch has an update that other modules wait for. -/
def othersWait (s : State) (p : Nat) : Bool := match tableOf s p with | some tb => decide (1 < tb.members.length) | none => false

theorem exec_reduceScatterBegin_begins {s s1 : State} {p : Nat} {rec : BitVec 128} (hp : p < 8) (hu : updateRec s p = some rec)
    (hf : p ∈ feeders s) (hph : (s.run p).phase = 0) {others : Bool} (ho : othersWait s p = others)
    (hg : (s.part p).marks = true ∨ holdsGradient s p (nextUpdate s p others) = true ∨ (others = true ∧ s.ledger.state < 3))
    (hr : stepReady s p (updEntry rec 0) (nextUpdate s p others) = some s1) : exec (.reduceScatterBegin p) s =
      .next (s.reduceScatter s1 p (nextUpdate s p others) rec (holdsGradient s p (nextUpdate s p others))
        ((s.part p).marks && decide ((s.part p).n0 ≤ nextUpdate s p others ∧ nextUpdate s p others ≠ stepNumber s p))) := by
  refine (if_pos hp).trans (congrArg Host.Outcome.next ?_)
  dsimp only
  rw [hu]
  dsimp only
  have hno : (!(s.part p).marks && !holdsGradient s p (nextUpdate s p others) && (!others || decide (3 ≤ s.ledger.state))) = false := by
    rcases hg with h | h | ⟨h1, h2⟩
    · rw [h]; rfl
    · rw [h]; simp
    · rw [h1]; simp; omega
  rw [if_neg (by simp [hph, hf])]
  unfold othersWait at ho
  cases htab : tableOf s p with
  | none =>
    rw [htab] at ho
    change false = others at ho
    subst ho
    refine (if_neg (ne_true_of_eq_false hno)).trans ?_
    dsimp only
    rw [hr]
    rfl
  | some tb =>
    rw [htab] at ho
    change decide (1 < tb.members.length) = others at ho
    subst ho
    refine (if_neg (ne_true_of_eq_false hno)).trans ?_
    dsimp only
    rw [hr]
    rfl

theorem stepReady_later {s s1 : State} {p e step : Nat} (h : stepReady s p e step = some s1) : Later s s1 := by
  unfold stepReady at h
  dsimp only at h
  split_ifs at h
  · cases h; exact .refl s
  · cases h; exact .refl s
  · cases h; exact s.advance_later _

/-- The group record that an update takes for a tensor is the one of the tensor's group. -/
theorem groupFor_resting {s : State} {p : Nat} (h : (s.run p).phase = 0) (tid : Nat) : groupFor s p tid = s.groupRec (s.optOf tid).group := by
  have hu : s.updating p = false := by simp [State.updating, h]
  simp only [groupFor, hu, Bool.false_eq_true, if_false]

/-- What a reduce-scatter that begins leaves. -/
theorem State.reduceScatter_begins {s s1 : State} {p step : Nat} {rec : BitVec 128} {holds cleared : Bool} (hl : Later s s1) (hph : (s.run p).phase = 0)
    {t : State} (ht : s.reduceScatter s1 p step rec holds cleared = t) :
    t.now = s1.now ∧ (t.run p).phase = 1 ∧ (t.run p).step = step
      ∧ (t.run p).par = (domainTensors s p).map (fun tid => (tid, s.groupRec (s.optOf tid).group))
      ∧ (t.run p).domRec = domainRec s p ∧ (t.run p).table = tableOf s p ∧ (t.run p).launch = (s.part p).launchTick
      ∧ (∀ q, q < 4 → (t.exchange p q).start = (true, step, holds, if holds = true then ownStore s (quayTensors s p q) else []))
      ∧ (holds = true ∨ step ≠ stepNumber s p → t.opt.tensors = s.opt.tensors)
      ∧ (holds = false → step = stepNumber s p → ∀ k, t.optOf k =
          if k ∈ domainTensors s p then { s.optOf k with acc := [], touched := [], dense := false } else s.optOf k)
      ∧ t = { s with now := t.now, rtc := t.rtc, opt := t.opt, ledger := t.ledger, fabric := t.fabric } := by
  have hb := hl.book
  have hph1 : (s1.run p).phase = 0 := by rw [hb.layout.run]; exact hph
  have hdom1 : domainTensors s1 p = domainTensors s p := hb.layout.domainTensors p
  obtain ⟨r, hr⟩ : ∃ r, openRun s1 p step rec = r := ⟨_, rfl⟩
  have hr1 : r.phase = 1 := by rw [← hr]; rfl
  have hr2 : r.step = step := by rw [← hr]; rfl
  have hr3 : r.par = (domainTensors s p).map (fun tid => (tid, s.groupRec (s.optOf tid).group)) := by
    rw [← hr]
    refine (congrArg (fun l => l.map (fun tid => (tid, groupFor s1 p tid))) hdom1).trans (List.map_congr_left fun tid _ => ?_)
    rw [groupFor_resting hph1, hb.layout.groupRec, hb.layout.optOf]
  have hr4 : r.domRec = domainRec s p := by rw [← hr]; exact hb.layout.cfgBytes _ _
  have hr5 : r.table = tableOf s p := by rw [← hr]; exact hb.layout.tableOf p
  have hr6 : r.launch = (s.part p).launchTick := by rw [← hr]; exact congrArg Partition.launchTick (hb.layout.part p)
  have hx := s1.run_setRun p r
  have hf : s1.setRun p r = { s with now := s1.now, rtc := s1.rtc, opt := (s1.setRun p r).opt } :=
    (congrArg (fun y : State => { y with opt := (s1.setRun p r).opt }) hl.frame :)
  have hts : (s1.setRun p r).opt.tensors = s.opt.tensors := (congrArg (fun y : State => y.opt.tensors) hl.frame :)
  unfold State.reduceScatter at ht
  dsimp only at ht
  rw [hr] at ht
  obtain ⟨u, hu⟩ : ∃ u, s1.setRun p r = u := ⟨_, rfl⟩
  rw [hu] at ht hx hf hts
  have hup : u.updating p = true := decide_eq_true (by rw [hx]; omega)
  have hud : domainTensors u p = domainTensors s p := by
    simp only [domainTensors, hup, if_true, hx, hr3, List.map_map]
    exact (List.map_congr_left fun _ _ => rfl).trans (List.map_id _)
  have hurec : ∀ k, u.recOf k = s.recOf k := fun k => (congrArg (fun y : State => y.recOf k) hf :)
  have huo : ∀ k, u.optOf k = s.optOf k := fun k => congrArg (fun m => tget ({} : OptState) m k) hts
  have hown : ∀ q, ownStore u (quayTensors u p q) = ownStore s (quayTensors s p q) := fun q => by
    simp only [ownStore, quayTensors, hud, hurec, huo]
  obtain ⟨hvf, hvq⟩ := u.openQuays_open p step holds cleared (by rw [hx]; omega) 4
  obtain ⟨v, hv⟩ : ∃ v, (List.range 4).foldl (fun t q => t.openQuay p step holds cleared q) u = v := ⟨_, rfl⟩
  rw [hv] at ht hvf hvq
  have hvo : v.opt = u.opt := (congrArg State.opt hvf :)
  have hvr : v.run p = r := Eq.trans (congrArg (fun y : State => y.run p) hvf :) hx
  have hvd : domainTensors v p = domainTensors s p := Eq.trans (congrArg (fun y : State => domainTensors y p) hvf :) hud
  have hvs : v = { s with now := u.now, rtc := u.rtc, opt := v.opt, ledger := v.ledger, fabric := v.fabric } := by
    have hun : u.now = s1.now := (congrArg State.now hf :)
    have huc : u.rtc = s1.rtc := (congrArg State.rtc hf :)
    rw [hun, huc, hvo]
    exact hvf.trans (congrArg (fun y : State => { y with fabric := v.fabric, ledger := v.ledger }) hf :)
  have hun : u.now = s1.now := (congrArg State.now hf :)
  have hstart : ∀ q, q < 4 → (v.exchange p q).start = (true, step, holds, if holds = true then ownStore s (quayTensors s p q) else []) := fun q hq => by
    rw [hvq q hq, hown]
  by_cases hd : (!holds && decide (step = stepNumber s p)) = true
  · rw [if_pos hd, hvd] at ht
    obtain ⟨hh, hst⟩ := Bool.and_eq_true_iff.1 hd
    have hhf : holds = false := (Bool.not_eq_true' holds).mp hh
    have hst' := of_decide_eq_true hst
    have hg := v.discardGradient_frame (domainTensors s p)
    have hgo := v.discardGradient_discards (domainTensors s p)
    rw [ht] at hg hgo
    have htr : t.run p = r := Eq.trans (congrArg (fun y : State => y.run p) hg :) hvr
    have hte : ∀ q, t.exchange p q = v.exchange p q := fun q => (congrArg (fun y : State => y.exchange p q) hg :)
    have htv : t = { v with opt := t.opt } := by
      rw [(congrArg State.opt hg :)]
      exact hg
    have hts' : t = { s with now := u.now, rtc := u.rtc, opt := t.opt, ledger := v.ledger, fabric := v.fabric } :=
      htv.trans (congrArg (fun y : State => { y with opt := t.opt }) hvs :)
    have htn : t.now = u.now := (congrArg State.now hts' :)
    have htc : t.rtc = u.rtc := (congrArg State.rtc hts' :)
    have htl : t.ledger = v.ledger := (congrArg State.ledger hts' :)
    have htf : t.fabric = v.fabric := (congrArg State.fabric hts' :)
    rw [htr, htn, htc, htl, htf]
    refine ⟨hun, hr1, hr2, hr3, hr4, hr5, hr6, fun q hq => ?_, fun h => ?_, fun _ _ k => ?_, hts'⟩
    · rw [hte]
      exact hstart q hq
    · rcases h with h | h
      · rw [hhf] at h; cases h
      · exact absurd hst' h
    · rw [hgo]
      have hk : v.optOf k = s.optOf k := Eq.trans (congrArg (fun o : Optimizer => tget ({} : OptState) o.tensors k) hvo) (huo k)
      rw [hk]
  · rw [if_neg hd] at ht
    subst ht
    have htn : v.now = u.now := (congrArg State.now hvs :)
    have htc : v.rtc = u.rtc := (congrArg State.rtc hvs :)
    rw [hvr, htn, htc]
    refine ⟨hun, hr1, hr2, hr3, hr4, hr5, hr6, hstart, fun _ => (congrArg Optimizer.tensors hvo).trans hts, fun h1 h2 => ?_, hvs⟩
    exact absurd (by rw [h1, decide_eq_true h2]; rfl) hd

/-! ### The publication (R265, R302) -/

/-- What a published run stands on. -/
def UpdateRun.plan (r : UpdateRun) : Nat × Bool × Tbl (BitVec 512) × Nat := (r.phase, r.skipped, r.par, r.step)

/-- Publishing version `n`: its slots open, none of them goes, and what was ready for it stays so. -/
structure Opens (n : Nat) (s t : State) : Prop where
  slots : ∀ k, ((s.tensor k).slot n).isSome = true → ((t.tensor k).slot n).isSome = true
  ready : ∀ k, slotReady s k n = true → slotReady t k n = true
  records : ∀ k r, s.recOf k = some r → t.recOf k = some r
  runs : ∀ p, (t.run p).plan = (s.run p).plan
  frame : t = { s with opt := { s.opt with runs := t.opt.runs }, tensors := t.tensors, quays := t.quays, ledger := t.ledger, fabric := t.fabric }

namespace Opens

variable {n : Nat} {s t u : State}

theorem refl (s : State) : Opens n s s := ⟨fun _ h => h, fun _ h => h, fun _ _ h => h, fun _ => rfl, rfl⟩

theorem trans (a : Opens n s t) (b : Opens n t u) : Opens n s u :=
  ⟨fun k h => b.slots k (a.slots k h), fun k h => b.ready k (a.ready k h), fun k r h => b.records k r (a.records k r h),
    fun p => (b.runs p).trans (a.runs p),
    b.frame.trans (congrArg (fun y : State => { y with
      opt := { y.opt with runs := u.opt.runs }, tensors := u.tensors, quays := u.quays, ledger := u.ledger, fabric := u.fabric }) a.frame :)⟩

theorem foldl {α : Type} {f : State → α → State} (hf : ∀ t a, Opens n t (f t a)) (l : List α) (s : State) : Opens n s (l.foldl f s) :=
  List.foldlRecOn (motive := fun t => Opens n s t) l f (refl s) fun t ht a _ => ht.trans (hf t a)

end Opens

theorem Tensor.putSlot_slot_ne (t : Tensor) (v : Version) {m : Nat} (h : m ≠ v.number) : (t.putSlot v).slot m = t.slot m := by
  unfold Tensor.putSlot Tensor.slot
  split
  · dsimp only
    induction t.versions with
    | nil => rfl
    | cons x l ih =>
      rw [List.map_cons, List.find?_cons, List.find?_cons, ih]
      by_cases hx : x.number = v.number
      · rw [if_pos hx]
        have h1 : (v.number == m) = false := by simpa using Ne.symm h
        have h2 : (x.number == m) = false := by rw [hx]; exact h1
        rw [h1, h2]
      · rw [if_neg hx]
  · have h1 : (v.number == m) = false := by simpa using Ne.symm h
    simp [List.find?_append, h1]

/-- The record of a tensor with a slot. -/
theorem State.recOf_of_slot {s : State} {k n : Nat} (h : ((s.tensor k).slot n).isSome = true) : s.recOf k = some (s.tensor k).record := by
  cases hf : tfind s.tensors k with
  | none =>
    have : s.tensor k = {} := State.tensor_of_absent (by rw [State.recOf, hf]; rfl)
    rw [this] at h
    cases h
  | some x =>
    rw [State.recOf, hf, State.tensor, tget, hf]
    rfl

theorem State.record_of_recOf {s : State} {k : Nat} {r : BitVec 512} (h : s.recOf k = some r) : (s.tensor k).record = r := by
  obtain ⟨x, hx, rfl⟩ := Option.map_eq_some_iff.1 h
  rw [State.tensor, tget, hx]
  rfl

theorem slotReady_of_slot {s : State} {k n : Nat} (h : ((s.tensor k).slot n).isSome = true) : slotReady s k n = true := by
  unfold slotReady
  dsimp only
  rw [h]
  rfl

/-- Whether a version is named is a matter of the fetch entries. -/
theorem State.retireVersion_named (s : State) (id m k v : Nat) : versionNamed (s.retireVersion id m) k v = versionNamed s k v := by
  have h : (s.retireVersion id m).quays = s.quays.map (fun e =>
      (e.1, { e.2 with damaged := e.2.damaged.filter (fun d => d.1 != id || d.2.2.1 != m) })) := rfl
  unfold versionNamed
  rw [h, List.any_map]
  rfl

theorem State.openSlot_named (s : State) (id n k v : Nat) : versionNamed (s.openSlot id n) k v = versionNamed s k v := by
  unfold State.openSlot
  dsimp only
  split_ifs
  · rfl
  · rfl
  · exact s.retireVersion_named id _ k v

/-- Another tensor stands, and so does its readiness. -/
theorem slotReady_of_tensor {s t : State} {k n : Nat} (h : t.tensor k = s.tensor k) (hn : ∀ v, versionNamed t k v = versionNamed s k v) :
    slotReady t k n = slotReady s k n := by
  unfold slotReady
  dsimp only
  rw [h, hn]

theorem State.openSlot_opensN (s : State) (id n : Nat) : Opens n s (s.openSlot id n) := by
  cases hr : slotReady s id n with
  | false => rw [(State.openSlot_not hr).1]; exact .refl s
  | true =>
    obtain ⟨x, hx, -, -, hrec, -, hothers, hf⟩ := State.openSlot_opens hr
    have hnamed := s.openSlot_named id n
    obtain ⟨t, ht⟩ : ∃ t, s.openSlot id n = t := ⟨_, rfl⟩
    rw [ht] at hx hrec hothers hf hnamed ⊢
    have hsome : ((t.tensor id).slot n).isSome = true := by rw [hx]; rfl
    refine ⟨fun k hk => ?_, fun k hk => ?_, fun k r hk => ?_, fun p => (congrArg (fun y : State => (y.run p).plan) hf :), ?_⟩
    · by_cases h : k = id
      · rw [h]; exact hsome
      · rw [State.tensor_of_tfind (hothers k h)]; exact hk
    · by_cases h : k = id
      · rw [h]; exact slotReady_of_slot hsome
      · rw [slotReady_of_tensor (State.tensor_of_tfind (hothers k h)) (hnamed k)]; exact hk
    · by_cases h : k = id
      · subst h
        rw [State.recOf_of_slot hsome, hrec, State.record_of_recOf hk]
      · rw [State.recOf, hothers k h]; exact hk
    · have ho : t.opt = s.opt := (congrArg State.opt hf :)
      have hl : t.ledger = s.ledger := (congrArg State.ledger hf :)
      have hfb : t.fabric = s.fabric := (congrArg State.fabric hf :)
      rw [ho, hl, hfb]
      exact hf

theorem State.tensor_setTensor (s : State) (id k : Nat) (x : Tensor) : (s.setTensor id x).tensor k = if k = id then x else s.tensor k :=
  tget_tput ({} : Tensor) s.tensors id k x

/-- A slot that is there is written again. -/
theorem State.putSlot_opensN (s : State) {id n : Nat} {v : Version} (hs : ((s.tensor id).slot n).isSome = true) (hv : v.number = n) :
    Opens n s (s.setTensor id ((s.tensor id).putSlot v)) := by
  obtain ⟨p1, p2, -⟩ := (s.tensor id).putSlot_slot v
  rw [hv] at p1
  have hte := s.tensor_setTensor id
  have hnamed : ∀ k w, versionNamed (s.setTensor id ((s.tensor id).putSlot v)) k w = versionNamed s k w := fun _ _ => rfl
  have hf : s.setTensor id ((s.tensor id).putSlot v) = { s with tensors := (s.setTensor id ((s.tensor id).putSlot v)).tensors } := rfl
  have hothers : ∀ k, k ≠ id → (s.setTensor id ((s.tensor id).putSlot v)).recOf k = s.recOf k :=
    fun k h => congrArg (fun o => Option.map (fun x : Tensor => x.record) o) (tfind_tput_ne _ _ _ h)
  have hid : (s.setTensor id ((s.tensor id).putSlot v)).tensor id = (s.tensor id).putSlot v := (hte id _).trans (if_pos rfl)
  obtain ⟨t, ht⟩ : ∃ t, s.setTensor id ((s.tensor id).putSlot v) = t := ⟨_, rfl⟩
  have hne : ∀ k, k ≠ id → t.tensor k = s.tensor k := fun k h => by rw [← ht, hte, if_neg h]
  rw [ht] at hnamed hf hothers hid ⊢
  have hsome : ((t.tensor id).slot n).isSome = true := by rw [hid, p1]; rfl
  refine ⟨fun k hk => ?_, fun k hk => ?_, fun k r hk => ?_, fun p => (congrArg (fun y : State => (y.run p).plan) hf :), ?_⟩
  · by_cases h : k = id
    · rw [h]; exact hsome
    · rw [hne k h]; exact hk
  · by_cases h : k = id
    · rw [h]; exact slotReady_of_slot hsome
    · rw [slotReady_of_tensor (hne k h) (hnamed k)]; exact hk
  · by_cases h : k = id
    · subst h
      rw [State.recOf_of_slot hsome, hid, p2, State.record_of_recOf hk]
    · rw [hothers k h]; exact hk
  · have ho : t.opt = s.opt := (congrArg State.opt hf :)
    have hl : t.ledger = s.ledger := (congrArg State.ledger hf :)
    have hfb : t.fabric = s.fabric := (congrArg State.fabric hf :)
    have hq : t.quays = s.quays := (congrArg State.quays hf :)
    rw [ho, hl, hfb, hq]
    exact hf

/-- What leaves the tensors, the fetch entries and the runs leaves the publication. -/
theorem opens_of_frame {n : Nat} {s t : State} (h : t = { s with ledger := t.ledger, fabric := t.fabric }) : Opens n s t := by
  refine ⟨fun k => ?_, fun k => ?_, fun k r => ?_, fun p => (congrArg (fun y : State => (y.run p).plan) h :), ?_⟩
  · have hk : t.tensor k = s.tensor k := (congrArg (fun y : State => y.tensor k) h :)
    rw [hk]
    exact id
  · have hk : slotReady t k n = slotReady s k n := (congrArg (fun y : State => slotReady y k n) h :)
    rw [hk]
    exact id
  · have hk : t.recOf k = s.recOf k := (congrArg (fun y : State => y.recOf k) h :)
    rw [hk]
    exact id
  · have ho : t.opt = s.opt := (congrArg State.opt h :)
    have ht : t.tensors = s.tensors := (congrArg State.tensors h :)
    have hq : t.quays = s.quays := (congrArg State.quays h :)
    rw [ho, ht, hq]
    exact h

theorem Shipped.opens {n : Nat} {s t : State} (h : Shipped s t) : Opens n s t := by
  refine opens_of_frame (h.keeps.trans ?_)
  rfl

theorem State.setExchange_opensN (s : State) (n p q : Nat) (e : Exchange) : Opens n s (s.setExchange p q e) := opens_of_frame rfl

/-- A run's report does not bear on what it publishes. -/
theorem State.setRun_opensN (s : State) (n : Nat) {p : Nat} {r : UpdateRun} (h : r.plan = (s.run p).plan) : Opens n s (s.setRun p r) := by
  refine ⟨fun _ h => h, fun _ h => h, fun _ _ h => h, fun j => ?_, rfl⟩
  have hr : (s.setRun p r).run j = if j = p then r else s.run j := tget_tput ({} : UpdateRun) s.opt.runs p j r
  rw [hr]
  split
  · next hj => rw [h, hj]
  · rfl

theorem State.setReport_opensN (s : State) (n p : Nat) (r : UpdateReport) : Opens n s (s.setRun p { s.run p with report := r }) := s.setRun_opensN n rfl

/-- The bytes of a slot that is there are written. -/
theorem State.fillSlot_opensN {s : State} {id n : Nat} {v : Version} (hv : (s.tensor id).slot n = some v) (bs : List Host.Cell) :
    Opens n s (s.setTensor id ((s.tensor id).putSlot { v with bytes := bs })) :=
  s.putSlot_opensN (by rw [hv]; rfl) (Tensor.slot_number hv :)

theorem State.sendBytes_ships (s : State) (p q i step dm : Nat) (bs : List Byte) : Shipped s (s.sendBytes p q i step dm bs) := by
  unfold State.sendBytes
  exact Shipped.foldl (fun t _ => ⟨t.sendPacket_frame q _ _⟩) _ s

theorem State.relayGather_opensN (s : State) (n p q : Nat) : Opens n s (s.relayGather p q) := by
  unfold State.relayGather
  dsimp only
  split
  · exact .refl s
  · refine (s.setExchange_opensN n p q _).trans (Opens.foldl (fun t j => ?_) _ _)
    split
    · exact .refl t
    · exact Opens.foldl (fun u i => (u.sendBytes_ships p q i _ _ _).opens) _ t

/-- Stream bytes of a version land in its slots. -/
theorem State.landStream_opensN (s : State) (p i step off : Nat) (data : List Byte) : Opens (step + 1) s (s.landStream p i step off data) := by
  unfold State.landStream
  refine Opens.trans ?_ (State.setExchange_opensN _ _ _ _ _)
  unfold State.putStream
  refine List.foldlRecOn (motive := fun (acc : State × Nat) => Opens (step + 1) s acc.1) _ _ (.refl s) fun acc h e _ => ?_
  split
  · exact h
  · dsimp only
    split_ifs
    · split
      · exact h
      · next v hv =>
        exact (h.trans (acc.1.openSlot_opensN e.1 (step + 1))).trans (State.fillSlot_opensN hv _)
    · exact h

theorem State.publishOwn_opensN (s : State) (p q i : Nat) : Opens ((s.run p).step + 1) s (s.publishOwn p q i) := by
  unfold State.publishOwn
  dsimp only
  refine (Opens.trans (Opens.foldl (fun t e => ?_) _ s) (State.setExchange_opensN _ _ p q _)).trans (Opens.foldl (fun t d => ?_) _ _)
  · split
    · exact .refl t
    · split
      · exact .refl t
      · next v hv =>
        exact (State.fillSlot_opensN hv _).trans (State.setReport_opensN _ _ p _)
  · split
    · exact .refl t
    · exact (t.sendBytes_ships p q i _ _ _).opens

theorem State.publishHeld_opensN (s : State) (p q i : Nat) : Opens ((s.run p).step + 1) s (s.publishHeld p q i) := by
  unfold State.publishHeld
  dsimp only
  refine (s.setReport_opensN _ p _).trans (Opens.foldl (fun t d => ?_) _ _)
  split
  · exact (t.landStream_opensN p i _ _ _).trans (State.relayGather_opensN _ _ p _)
  · exact (t.sendBytes_ships p q i _ _ _).opens

/-- One tensor of a skipped update: the new version takes the bytes of the one before. -/
def State.carryOver (s : State) (step tid : Nat) : State :=
  let old := (s.tensor tid).slot step
  let t1 := s.openSlot tid (step + 1)
  let x := t1.tensor tid
  match x.slot (step + 1), old with
  | some v, some o => t1.setTensor tid (x.putSlot { v with bytes := o.bytes })
  | _, _ => t1

theorem State.carryOver_opensN (s : State) (step tid : Nat) : Opens (step + 1) s (s.carryOver step tid) := by
  unfold State.carryOver
  dsimp only
  split
  · next v o hv ho => exact (s.openSlot_opensN tid (step + 1)).trans (State.fillSlot_opensN hv _)
  · exact s.openSlot_opensN tid (step + 1)

/-- A tensor that is ready has its slot once it has been opened. -/
theorem State.openSlot_isSome {s : State} {tid n : Nat} (hr : slotReady s tid n = true) : (((s.openSlot tid n).tensor tid).slot n).isSome = true := by
  obtain ⟨x, hx, -⟩ := State.openSlot_opens hr
  rw [hx]
  rfl

theorem State.carryOver_isSome {s : State} {tid step : Nat} (hr : slotReady s tid (step + 1) = true) :
    (((s.carryOver step tid).tensor tid).slot (step + 1)).isSome = true := by
  have h := State.openSlot_isSome hr
  unfold State.carryOver
  dsimp only
  split
  · next v o hv ho => exact (State.fillSlot_opensN hv o.bytes).slots tid (by rw [hv]; rfl)
  · exact h

/-- A fold over ready tensors that opens each of them opens them all. -/
theorem foldl_isSome {n : Nat} {f : State → Nat → State} (hf : ∀ t k, Opens n t (f t k))
    (ho : ∀ t k, slotReady t k n = true → (((f t k).tensor k).slot n).isSome = true) (l : List Nat) (s : State)
    (hr : ∀ k ∈ l, slotReady s k n = true) : ∀ k ∈ l, (((l.foldl f s).tensor k).slot n).isSome = true := by
  induction l generalizing s with
  | nil => exact fun k h => absurd h List.not_mem_nil
  | cons a l ih =>
    have hrest : ∀ k ∈ l, slotReady (f s a) k n = true := fun k hk => (hf s a).ready k (hr k (List.mem_cons_of_mem _ hk))
    intro k hk
    rw [List.foldl_cons]
    rcases List.mem_cons.1 hk with rfl | hk
    · exact (Opens.foldl hf l (f s k)).slots k (ho s k (hr k List.mem_cons_self))
    · exact ih (f s a) hrest k hk

theorem State.publish_skipped (s : State) (p q : Nat) (h : (s.run p).skipped = true) :
    s.publish p q = (quayTensors s p q).foldl (fun t tid => t.carryOver (s.run p).step tid) s := by
  unfold State.publish
  dsimp only
  rw [if_pos h]
  rfl

theorem Opens.step {n : Nat} {s t : State} (h : Opens n s t) (p : Nat) : (t.run p).step = (s.run p).step :=
  congrArg (fun x => x.2.2.2) (h.runs p)

/-- The slots of a quay's tensors open, and nothing that follows takes them away. -/
theorem State.publish_computed (s : State) (p q : Nat) (h : (s.run p).skipped = false) :
    Opens ((s.run p).step + 1) ((quayTensors s p q).foldl (fun t tid => t.openSlot tid ((s.run p).step + 1)) s) (s.publish p q) := by
  unfold State.publish
  dsimp only
  rw [if_neg (by rw [h]; decide)]
  obtain ⟨u, hu⟩ : ∃ u, (quayTensors s p q).foldl (fun t tid => t.openSlot tid ((s.run p).step + 1)) s = u := ⟨_, rfl⟩
  have hopen : Opens ((s.run p).step + 1) s u := hu ▸ Opens.foldl (fun t tid => t.openSlot_opensN tid _) _ s
  change Opens ((s.run p).step + 1) _ (State.relayGather (List.foldl _
    ((quayTensors s p q).foldl (fun t tid => t.openSlot tid ((s.run p).step + 1)) s) _) p q)
  rw [hu]
  refine Opens.trans (List.foldlRecOn (motive := fun t => Opens ((s.run p).step + 1) u t) _ _ (.refl u) fun t ht i _ => ?_)
    (State.relayGather_opensN _ _ p q)
  have hstep : (t.run p).step = (s.run p).step := (hopen.trans ht).step p
  refine ht.trans ?_
  rw [← hstep]
  split
  · exact t.publishOwn_opensN p q i
  · exact t.publishHeld_opensN p q i

theorem State.publish_opensN (s : State) (p q : Nat) : Opens ((s.run p).step + 1) s (s.publish p q) := by
  cases hs : (s.run p).skipped with
  | true =>
    rw [s.publish_skipped p q hs]
    exact Opens.foldl (fun t tid => t.carryOver_opensN _ tid) _ s
  | false => exact (Opens.foldl (fun t tid => t.openSlot_opensN tid _) _ s).trans (s.publish_computed p q hs)

/-- What a quay publishes: the slots of its tensors are there. -/
theorem State.publish_isSome (s : State) (p q : Nat) (hr : ∀ tid ∈ quayTensors s p q, slotReady s tid ((s.run p).step + 1) = true) :
    ∀ tid ∈ quayTensors s p q, (((s.publish p q).tensor tid).slot ((s.run p).step + 1)).isSome = true := by
  cases hs : (s.run p).skipped with
  | true =>
    rw [s.publish_skipped p q hs]
    exact foldl_isSome (fun t k => t.carryOver_opensN _ k) (fun t k h => State.carryOver_isSome h) _ s hr
  | false =>
    intro tid ht
    exact (s.publish_computed p q hs).slots tid
      (foldl_isSome (fun t k => t.openSlot_opensN k _) (fun t k h => State.openSlot_isSome h) _ s hr tid ht)

/-- The tensors of a quay stand while every tensor of the domain has its record. -/
theorem Opens.quayTensors {n p : Nat} {s t : State} (h : Opens n s t) (hu : 0 < (s.run p).phase)
    (hr : ∀ tid ∈ domainTensors s p, s.recOf tid ≠ none) (q : Nat) : quayTensors t p q = quayTensors s p q := by
  have hphase : (t.run p).phase = (s.run p).phase := congrArg (fun x => x.1) (h.runs p)
  have hpar : (t.run p).par = (s.run p).par := congrArg (fun x => x.2.2.1) (h.runs p)
  have hd : domainTensors t p = domainTensors s p := by
    have h1 : s.updating p = true := decide_eq_true hu
    have h2 : t.updating p = true := decide_eq_true (by rw [hphase]; exact hu)
    simp only [domainTensors, h1, h2, hpar, if_true]
  unfold Machine.quayTensors
  rw [hd]
  refine List.filter_congr fun tid ht => ?_
  obtain ⟨r, hrec⟩ := Option.ne_none_iff_exists'.1 (hr tid ht)
  rw [hrec, h.records tid r hrec]

/-- The publication of all quays. -/
def State.publishAll (s : State) (p n : Nat) : State := (List.range n).foldl (fun t q => t.publish p q) s

/-- Every tensor of the domain has the new version's slot once its quay has published. -/
theorem State.publishAll_opens (s : State) (p : Nat) (hu : 0 < (s.run p).phase) (hr : ∀ tid ∈ domainTensors s p, s.recOf tid ≠ none)
    (hready : ∀ tid ∈ domainTensors s p, slotReady s tid ((s.run p).step + 1) = true) (n : Nat) :
    Opens ((s.run p).step + 1) s (s.publishAll p n)
    ∧ ∀ q, q < n → ∀ tid ∈ quayTensors s p q, (((s.publishAll p n).tensor tid).slot ((s.run p).step + 1)).isSome = true := by
  induction n with
  | zero => exact ⟨.refl s, fun q h => absurd h (by omega)⟩
  | succ n ih =>
    have e : s.publishAll p (n + 1) = (s.publishAll p n).publish p n := by
      unfold State.publishAll
      rw [List.range_succ, List.foldl_append]
      rfl
    rw [e]
    obtain ⟨t, ht⟩ : ∃ t, s.publishAll p n = t := ⟨_, rfl⟩
    rw [ht] at ih ⊢
    obtain ⟨ho, hq⟩ := ih
    have hp := t.publish_opensN p n
    have hs := t.publish_isSome p n
    rw [ho.quayTensors hu hr, ho.step p] at hs
    rw [ho.step p] at hp
    refine ⟨ho.trans hp, fun q hlt tid htid => ?_⟩
    by_cases hqn : q = n
    · subst hqn
      exact hs (fun k hk => ho.ready k (hready k (List.mem_of_mem_filter hk))) tid htid
    · exact hp.slots tid (hq q (by omega) tid htid)

/-- Each tensor with a record is of one of the four quays. -/
theorem mem_quayTensors {s : State} {p tid : Nat} (h : tid ∈ domainTensors s p) (hr : s.recOf tid ≠ none) :
    ∃ q, q < 4 ∧ tid ∈ quayTensors s p q := by
  obtain ⟨r, hrec⟩ := Option.ne_none_iff_exists'.1 hr
  refine ⟨recPrimary r, Nat.mod_lt _ (by decide), List.mem_filter.2 ⟨h, ?_⟩⟩
  rw [hrec]
  exact beq_self_eq_true _

/-! ### A skipped update carries the bytes over (R264) -/

/-- Another version's slot goes, or stands, when a slot opens. -/
theorem State.openSlot_slot_ne (s : State) {id n m : Nat} (h : m ≠ n) :
    ((s.openSlot id n).tensor id).slot m = none ∨ ((s.openSlot id n).tensor id).slot m = (s.tensor id).slot m := by
  unfold State.openSlot
  dsimp only
  split
  · exact .inr rfl
  · rw [State.tensor_setTensor, if_pos rfl, Tensor.putSlot_slot_ne _ _ h]
    split
    · exact .inr rfl
    · by_cases ho : m = (s.tensor id).oldest
      · left
        rw [s.retireVersion_tensor]
        subst ho
        unfold Tensor.slot
        simp
      · exact .inr ((s.retireVersion_slotStands id (Ne.symm ho)).slot)

/-- The new version of a tensor has the bytes of the old one. -/
def CarriedBytes (step : Nat) (s t : State) (tid : Nat) : Prop :=
  ∀ o, (s.tensor tid).slot step = some o → ∃ v, (t.tensor tid).slot (step + 1) = some v ∧ v.bytes = o.bytes

/-- While bytes are carried over: a tensor stands as it was or has its bytes, and its old version is what it was or gone. -/
def Carrying (step : Nat) (s t : State) : Prop :=
  ∀ tid, ((t.tensor tid).slot step = none ∨ (t.tensor tid).slot step = (s.tensor tid).slot step)
    ∧ (t.tensor tid = s.tensor tid ∨ CarriedBytes step s t tid)

theorem State.carryOver_others (t : State) (step : Nat) {tid k : Nat} (h : k ≠ tid) : (t.carryOver step tid).tensor k = t.tensor k := by
  have ho : (t.openSlot tid (step + 1)).tensor k = t.tensor k := by
    cases hr : slotReady t tid (step + 1) with
    | false => rw [(State.openSlot_not hr).1]
    | true =>
      obtain ⟨_, _, _, _, _, _, hothers, _⟩ := State.openSlot_opens hr
      exact State.tensor_of_tfind (hothers k h)
  unfold State.carryOver
  dsimp only
  split
  · rw [State.tensor_setTensor, if_neg h]; exact ho
  · exact ho

theorem State.carryOver_carries {s t : State} {step tid : Nat} (hc : Carrying step s t) (hr : slotReady t tid (step + 1) = true) :
    Carrying step s (t.carryOver step tid) ∧ CarriedBytes step s (t.carryOver step tid) tid := by
  obtain ⟨hold, hcar⟩ := hc tid
  obtain ⟨x, hx, hxn, hxb, -, -, -, -⟩ := State.openSlot_opens hr
  have hne := t.openSlot_slot_ne (id := tid) (show step ≠ step + 1 by omega)
  have key : ((t.carryOver step tid).tensor tid).slot step = none ∨ ((t.carryOver step tid).tensor tid).slot step = (t.tensor tid).slot step := by
    unfold State.carryOver
    dsimp only
    split
    · next v o hv ho =>
      rw [State.tensor_setTensor, if_pos rfl, Tensor.putSlot_slot_ne _ _ (by have := Tensor.slot_number hv; show step ≠ v.number; omega)]
      exact hne
    · exact hne
  have bytes : CarriedBytes step s (t.carryOver step tid) tid := by
    intro o ho
    unfold State.carryOver
    dsimp only
    cases hold' : (t.tensor tid).slot step with
    | some o' =>
      rw [hx]
      dsimp only
      have he : some o' = some o := by rw [← hold', ← ho]; exact hold.resolve_left (by rw [hold']; exact Option.some_ne_none _)
      cases he
      rw [State.tensor_setTensor, if_pos rfl]
      obtain ⟨w, hw⟩ : ∃ w, { x with bytes := o.bytes } = w := ⟨_, rfl⟩
      have hwn : w.number = step + 1 := by rw [← hw]; exact hxn
      have hwb : w.bytes = o.bytes := by rw [← hw]
      rw [hw]
      have hp := (((t.openSlot tid (step + 1)).tensor tid).putSlot_slot w).1
      rw [hwn] at hp
      exact ⟨w, hp, hwb⟩
    | none =>
      rw [hx]
      dsimp only
      rcases hcar with h | h
      · rw [h, ho] at hold'; cases hold'
      · obtain ⟨v, hv, hvb⟩ := h o ho
        refine ⟨x, hx, ?_⟩
        rw [hxb, hv]
        exact hvb
  refine ⟨fun k => ?_, bytes⟩
  by_cases hk : k = tid
  · subst hk
    refine ⟨?_, .inr bytes⟩
    rcases key with h | h
    · exact .inl h
    · rw [h]; exact hold
  · obtain ⟨h1, h2⟩ := hc k
    have ht := t.carryOver_others step hk
    unfold CarriedBytes at h2 ⊢
    rw [ht]
    exact ⟨h1, h2⟩

/-- Bytes that have been carried over stay. -/
theorem State.carryOver_keeps {s t : State} {step tid : Nat} (hc : Carrying step s t) (hr : slotReady t tid (step + 1) = true) {k : Nat}
    (hk : CarriedBytes step s t k) : CarriedBytes step s (t.carryOver step tid) k := by
  by_cases h : k = tid
  · subst h
    exact (State.carryOver_carries hc hr).2
  · unfold CarriedBytes at hk ⊢
    rw [t.carryOver_others step h]
    exact hk

theorem foldl_carries {s : State} {step : Nat} (l : List Nat) {t : State} (hc : Carrying step s t)
    (hr : ∀ k ∈ l, slotReady t k (step + 1) = true) :
    let u := l.foldl (fun t tid => t.carryOver step tid) t
    Carrying step s u ∧ (∀ k ∈ l, CarriedBytes step s u k) ∧ ∀ k, CarriedBytes step s t k → CarriedBytes step s u k := by
  induction l generalizing t with
  | nil => exact ⟨hc, fun k h => absurd h List.not_mem_nil, fun _ h => h⟩
  | cons a l ih =>
    have ha := hr a List.mem_cons_self
    obtain ⟨h1, h2⟩ := State.carryOver_carries hc ha
    have hrest : ∀ k ∈ l, slotReady (t.carryOver step a) k (step + 1) = true :=
      fun k hk => (t.carryOver_opensN step a).ready k (hr k (List.mem_cons_of_mem _ hk))
    obtain ⟨i1, i2, i3⟩ := ih h1 hrest
    rw [List.foldl_cons]
    refine ⟨i1, fun k hk => ?_, fun k hk => i3 k (State.carryOver_keeps hc ha hk)⟩
    rcases List.mem_cons.1 hk with rfl | hk
    · exact i3 k h2
    · exact i2 k hk

/-- A skipped update's publication carries the bytes of every quay's tensors over. -/
theorem State.publishAll_carries (s : State) (p : Nat) (hu : 0 < (s.run p).phase) (hr : ∀ tid ∈ domainTensors s p, s.recOf tid ≠ none)
    (hready : ∀ tid ∈ domainTensors s p, slotReady s tid ((s.run p).step + 1) = true) (hs : (s.run p).skipped = true) (n : Nat) :
    Carrying (s.run p).step s (s.publishAll p n)
    ∧ ∀ q, q < n → ∀ tid ∈ quayTensors s p q, CarriedBytes (s.run p).step s (s.publishAll p n) tid := by
  induction n with
  | zero => exact ⟨fun _ => ⟨.inr rfl, .inl rfl⟩, fun q h => absurd h (by omega)⟩
  | succ n ih =>
    obtain ⟨ho, -⟩ := s.publishAll_opens p hu hr hready n
    have e : s.publishAll p (n + 1) = (s.publishAll p n).publish p n := by
      unfold State.publishAll
      rw [List.range_succ, List.foldl_append]
      rfl
    rw [e]
    obtain ⟨t, ht⟩ : ∃ t, s.publishAll p n = t := ⟨_, rfl⟩
    rw [ht] at ih ho ⊢
    have hskip : (t.run p).skipped = true := (congrArg (fun x => x.2.1) (ho.runs p)).trans hs
    rw [t.publish_skipped p n hskip, ho.quayTensors hu hr, ho.step p]
    obtain ⟨h1, h2, h3⟩ := foldl_carries (quayTensors s p n) ih.1
      (fun k hk => ho.ready k (hready k (List.mem_of_mem_filter hk)))
    refine ⟨h1, fun q hlt tid htid => ?_⟩
    by_cases hqn : q = n
    · subst hqn; exact h2 tid htid
    · exact h3 tid (ih.2 q (by omega) tid htid)

/-! ### The version is complete once every quay has its share (R302) -/

/-- Completing a version marks it; its bytes stand, and so does what the fabric and the quays hold. -/
structure Marks (s t : State) : Prop where
  bytes : ∀ k m, ((t.tensor k).slot m).map (fun v => v.bytes) = ((s.tensor k).slot m).map (fun v => v.bytes)
  frame : t = { s with opt := { s.opt with runs := t.opt.runs, reports := t.opt.reports }, tensors := t.tensors, ledger := t.ledger }

namespace Marks

variable {s t u : State}

theorem refl (s : State) : Marks s s := ⟨fun _ _ => rfl, rfl⟩

theorem trans (a : Marks s t) (b : Marks t u) : Marks s u :=
  ⟨fun k m => (b.bytes k m).trans (a.bytes k m), b.frame.trans (congrArg (fun y : State =>
    { y with opt := { y.opt with runs := u.opt.runs, reports := u.opt.reports }, tensors := u.tensors, ledger := u.ledger }) a.frame :)⟩

theorem foldl {α : Type} {f : State → α → State} (hf : ∀ t a, Marks t (f t a)) (l : List α) (s : State) : Marks s (l.foldl f s) :=
  List.foldlRecOn (motive := fun t => Marks s t) l f (refl s) fun t ht a _ => ht.trans (hf t a)

end Marks

/-- A version that is marked keeps its bytes. -/
theorem State.markSlot_marks {s : State} {id n : Nat} {v : Version} (hv : (s.tensor id).slot n = some v) :
    Marks s (s.setTensor id ((s.tensor id).putSlot { v with complete := true })) := by
  refine ⟨fun k m => ?_, rfl⟩
  rw [State.tensor_setTensor]
  split
  · next hk =>
    subst hk
    obtain ⟨w, hw⟩ : ∃ w, { v with complete := true } = w := ⟨_, rfl⟩
    have hwn : w.number = n := by rw [← hw]; exact (Tensor.slot_number hv :)
    have hwb : w.bytes = v.bytes := by rw [← hw]
    rw [hw]
    by_cases hm : m = n
    · subst hm
      have hp := ((s.tensor k).putSlot_slot w).1
      rw [hwn] at hp
      rw [hp, hv]
      exact congrArg some hwb
    · rw [Tensor.putSlot_slot_ne _ _ (by rw [hwn]; exact hm)]
  · rfl

/-- Whether a publication still goes on, or is done. -/
def PublishPhase (r : UpdateRun) : Prop := r.phase = 4 ∨ (r.phase = 0 ∧ r.done = true)

theorem State.completeVersion_marks (s : State) (p q : Nat) : Marks s (s.completeVersion p q) ∧
    (PublishPhase (s.run p) → PublishPhase ((s.completeVersion p q).run p)) := by
  unfold State.completeVersion
  dsimp only
  split
  · exact ⟨.refl s, id⟩
  · have finish : ∀ (v : State) (c : Bool), (Marks s v ∧ v.opt = s.opt) →
        Marks s (if c = true then (v.setRun p { s.run p with phase := 0, done := true, par := [] }).pushReport (s.run p).report else v)
        ∧ (PublishPhase (s.run p) → PublishPhase
          ((if c = true then (v.setRun p { s.run p with phase := 0, done := true, par := [] }).pushReport (s.run p).report else v).run p)) := by
      intro v c hv
      split
      · refine ⟨hv.1.trans ⟨fun _ _ => rfl, rfl⟩, fun _ => .inr ?_⟩
        have hr : ((v.setRun p { s.run p with phase := 0, done := true, par := [] }).pushReport (s.run p).report).run p
            = { s.run p with phase := 0, done := true, par := [] } := v.run_setRun p _
        rw [hr]
        exact ⟨rfl, rfl⟩
      · refine ⟨hv.1, fun h => ?_⟩
        rw [State.run, hv.2]
        exact h
    refine finish _ _ ?_
    have said : ∀ v : State, (Marks s v ∧ v.opt = s.opt) → Marks s (v.setExchange p q { s.exchange p q with shardDone := true })
        ∧ (v.setExchange p q { s.exchange p q with shardDone := true }).opt = s.opt := fun v hv => ⟨hv.1.trans ⟨fun _ _ => rfl, rfl⟩, hv.2⟩
    refine said _ (List.foldlRecOn (motive := fun t => Marks s t ∧ t.opt = s.opt) _ _ ?_ fun t ht e _ => ⟨ht.1.trans ⟨fun _ _ => rfl, rfl⟩, ht.2⟩)
    refine List.foldlRecOn (motive := fun t => Marks s t ∧ t.opt = s.opt) _ _ ⟨.refl s, rfl⟩ fun t ht tid _ => ?_
    split
    · next v hv => exact ⟨ht.1.trans (State.markSlot_marks hv), ht.2⟩
    · exact ht

/-- The run of a domain whose publication begins. -/
def publishRun (s s1 : State) (p : Nat) : UpdateRun :=
  let run := s.run p
  { run with
    phase := 4
    report := { run.report with
      lateness := run.report.lateness ++ [lateTicks s1 p 3]
      fallbacks := blockTotals s1 p (fun b => b.fallbacks) - run.fallbackBase
      lateRoots := blockTotals s1 p (fun b => b.late) - run.lateBase }
    fallbackBase := blockTotals s1 p (fun b => b.fallbacks), lateBase := blockTotals s1 p (fun b => b.late) }

section
variable {s s1 : State} {p : Nat} (hp : p < 8) (hph : (s.run p).phase = 3) (ho : passOver s p 2 = true) (hr : phaseReady s p 3 = some s1)
include hp hph ho hr

theorem exec_publicationBegin_eq : exec (.publicationBegin p) s = .next (
    if !(domainTensors s p).all (fun tid => slotReady s tid ((s.run p).step + 1)) then s1
    else ((List.range 4).foldl (fun t q => t.completeVersion p q) ((s1.setRun p (publishRun s s1 p)).publishAll p 4)).bump) := by
  refine (if_pos hp).trans (congrArg Host.Outcome.next ?_)
  dsimp only
  rw [if_neg (by rw [hph, ho]; decide), hr]
  rfl

theorem exec_publicationBegin_waits (hw : ∃ tid ∈ domainTensors s p, slotReady s tid ((s.run p).step + 1) = false) :
    exec (.publicationBegin p) s = .next s1 := by
  rw [exec_publicationBegin_eq hp hph ho hr, if_pos]
  obtain ⟨tid, ht, hw⟩ := hw
  have : (domainTensors s p).all (fun tid => slotReady s tid ((s.run p).step + 1)) = false :=
    List.all_eq_false.2 ⟨tid, ht, by rw [hw]; decide⟩
  rw [this]
  rfl

theorem exec_publicationBegin_publishes (hready : ∀ tid ∈ domainTensors s p, slotReady s tid ((s.run p).step + 1) = true) :
    exec (.publicationBegin p) s
      = .next ((List.range 4).foldl (fun t q => t.completeVersion p q) ((s1.setRun p (publishRun s s1 p)).publishAll p 4)).bump := by
  rw [exec_publicationBegin_eq hp hph ho hr, if_neg]
  rw [List.all_eq_true.2 hready]
  decide

end

/-- What a publication that begins leaves. -/
theorem State.publication_begins {s s1 : State} {p : Nat} (hl : Later s s1) (hph : (s.run p).phase = 3)
    (hd : ∀ tid ∈ domainTensors s p, s.recOf tid ≠ none ∧ slotReady s tid ((s.run p).step + 1) = true) {t : State}
    (ht : ((List.range 4).foldl (fun t q => t.completeVersion p q) ((s1.setRun p (publishRun s s1 p)).publishAll p 4)).bump = t) :
    t.now = s1.now ∧ PublishPhase (t.run p) ∧ (∀ tid ∈ domainTensors s p, ((t.tensor tid).slot ((s.run p).step + 1)).isSome = true)
      ∧ ((s.run p).skipped = true → ∀ tid ∈ domainTensors s p, CarriedBytes (s.run p).step s t tid)
      ∧ t.opt.tensors = s.opt.tensors
      ∧ t = { s with now := t.now, rtc := t.rtc, opt := t.opt, tensors := t.tensors, quays := t.quays, ledger := t.ledger, fabric := t.fabric
                     freeCtr := t.freeCtr } := by
  have hrun : s1.run p = s.run p := hl.book.layout.run p
  obtain ⟨r, hr⟩ : ∃ r, publishRun s s1 p = r := ⟨_, rfl⟩
  have hr1 : r.phase = 4 := by rw [← hr]; rfl
  have hr2 : r.step = (s.run p).step := by rw [← hr]; rfl
  have hr3 : r.par = (s.run p).par := by rw [← hr]; rfl
  have hr4 : r.table = (s.run p).table := by rw [← hr]; rfl
  have hr5 : r.skipped = (s.run p).skipped := by rw [← hr]; rfl
  have hplan : SamePlan p s (s1.setRun p r) := (hl.samePlan p).trans
    (s1.setRun_samePlan (by rw [hrun]; omega) (by omega) (by rw [hrun]; exact hr3) (by rw [hrun]; exact hr4))
  have hx := s1.run_setRun p r
  have hf : s1.setRun p r = { s with now := s1.now, rtc := s1.rtc, opt := (s1.setRun p r).opt } :=
    (congrArg (fun y : State => { y with opt := (s1.setRun p r).opt }) hl.frame :)
  have hts : (s1.setRun p r).opt.tensors = s.opt.tensors := (congrArg (fun y : State => y.opt.tensors) hl.frame :)
  rw [hr] at ht
  obtain ⟨u, hu⟩ : ∃ u, s1.setRun p r = u := ⟨_, rfl⟩
  rw [hu] at ht hx hf hts hplan
  have hstep : (u.run p).step = (s.run p).step := by rw [hx]; exact hr2
  have hud : domainTensors u p = domainTensors s p := hplan.domain
  have hut : ∀ k, u.tensor k = s.tensor k := fun k => (congrArg (fun y : State => y.tensor k) hf :)
  have huready : ∀ k n, slotReady u k n = slotReady s k n := fun k n => (congrArg (fun y : State => slotReady y k n) hf :)
  have hrec : ∀ tid ∈ domainTensors u p, u.recOf tid ≠ none := fun tid h => by
    rw [hplan.records]; rw [hud] at h; exact (hd tid h).1
  have hready : ∀ tid ∈ domainTensors u p, slotReady u tid ((u.run p).step + 1) = true := fun tid h => by
    rw [huready, hstep]; rw [hud] at h; exact (hd tid h).2
  have hpos : 0 < (u.run p).phase := by rw [hx]; omega
  obtain ⟨ho, hq⟩ := u.publishAll_opens p hpos hrec hready 4
  have hcar := u.publishAll_carries p hpos hrec hready
  obtain ⟨v, hv⟩ : ∃ v, u.publishAll p 4 = v := ⟨_, rfl⟩
  have hcar4 : (u.run p).skipped = true → ∀ q, q < 4 → ∀ tid ∈ quayTensors u p q, CarriedBytes (u.run p).step u v tid :=
    fun h => hv ▸ (hcar h 4).2
  rw [hv] at ht ho hq
  have hvphase : (v.run p).phase = 4 := (congrArg (fun x => x.1) (ho.runs p)).trans (by rw [hx]; exact hr1)
  have hmark : Marks v ((List.range 4).foldl (fun t q => t.completeVersion p q) v) ∧
      PublishPhase (((List.range 4).foldl (fun t q => t.completeVersion p q) v).run p) :=
    List.foldlRecOn (motive := fun t : State => Marks v t ∧ PublishPhase (t.run p)) _ _ ⟨.refl v, .inl hvphase⟩ fun t h q _ =>
      ⟨h.1.trans (t.completeVersion_marks p q).1, (t.completeVersion_marks p q).2 h.2⟩
  obtain ⟨w, hw⟩ : ∃ w, (List.range 4).foldl (fun t q => t.completeVersion p q) v = w := ⟨_, rfl⟩
  rw [hw] at ht hmark
  obtain ⟨hm, hphase⟩ := hmark
  have htw : t = { w with freeCtr := t.freeCtr } := by rw [← ht]; rfl
  have htt : ∀ k, t.tensor k = w.tensor k := fun k => (congrArg (fun y : State => y.tensor k) htw :)
  have htr : t.run p = w.run p := (congrArg (fun y : State => y.run p) htw :)
  have hto : t.opt = w.opt := (congrArg State.opt htw :)
  have hwo : w.opt = { v.opt with runs := w.opt.runs, reports := w.opt.reports } := (congrArg State.opt hm.frame :)
  have hvo : v.opt = { u.opt with runs := v.opt.runs } := (congrArg State.opt ho.frame :)
  have hten : t.opt.tensors = s.opt.tensors := by
    rw [hto, hwo, hvo]
    exact hts
  have hslot : ∀ tid m, ((t.tensor tid).slot m).map (fun v => v.bytes) = ((v.tensor tid).slot m).map (fun v => v.bytes) := fun tid m => by
    rw [htt]; exact hm.bytes tid m
  have hframe : t = { s with now := s1.now, rtc := s1.rtc, opt := t.opt, tensors := t.tensors, quays := t.quays, ledger := t.ledger, fabric := t.fabric
                             freeCtr := t.freeCtr } := by
    have hvu : v = { u with opt := v.opt, tensors := v.tensors, quays := v.quays, ledger := v.ledger, fabric := v.fabric } := by
      rw [hvo]
      exact ho.frame
    have hwv : w = { v with opt := w.opt, tensors := w.tensors, ledger := w.ledger } := by
      rw [hwo]
      exact hm.frame
    have hwu := hwv.trans (congrArg (fun y : State => { y with opt := w.opt, tensors := w.tensors, ledger := w.ledger }) hvu :)
    have hws := hwu.trans (congrArg (fun y : State =>
      { y with opt := w.opt, tensors := w.tensors, quays := v.quays, ledger := w.ledger, fabric := v.fabric }) hf :)
    have hts := htw.trans (congrArg (fun y : State => { y with freeCtr := t.freeCtr }) hws :)
    have e1 : t.tensors = w.tensors := (congrArg State.tensors htw :)
    have e2 : t.ledger = w.ledger := (congrArg State.ledger htw :)
    have e3 : t.quays = v.quays := (congrArg State.quays hts :)
    have e4 : t.fabric = v.fabric := (congrArg State.fabric hts :)
    rw [hto, e1, e2, e3, e4]
    exact hts
  have hnow : t.now = s1.now := (congrArg State.now hframe :)
  have hrtc : t.rtc = s1.rtc := (congrArg State.rtc hframe :)
  refine ⟨hnow, by rw [htr]; exact hphase, fun tid h => ?_, fun hs tid h => ?_, hten, by rw [hnow, hrtc]; exact hframe⟩
  · rw [← hud] at h
    obtain ⟨q, hlt, hmem⟩ := mem_quayTensors h (hrec tid h)
    have h1 := hq q hlt tid hmem
    rw [hstep] at h1
    have h2 := congrArg Option.isSome (hslot tid ((s.run p).step + 1))
    simpa only [Option.isSome_map, h1] using h2
  · rw [← hud] at h
    obtain ⟨q, hlt, hmem⟩ := mem_quayTensors h (hrec tid h)
    have h1 := hcar4 (by rw [hx, hr5]; exact hs) q hlt tid hmem
    rw [hstep] at h1
    intro o hold
    obtain ⟨x, hx1, hx2⟩ := h1 o (by rw [hut]; exact hold)
    have h2 := hslot tid ((s.run p).step + 1)
    rw [hx1, Option.map_some, Option.map_eq_some_iff] at h2
    obtain ⟨y, hy1, hy2⟩ := h2
    exact ⟨y, hy1, hy2.trans hx2⟩

/-- Settles O30: the reduce-scatter, the two passes and the publication begin at their entries and fix what they must (R262-R265, R296, R302). -/
theorem updatePhasesBegin : Obligations.UpdatePhasesBegin := by
  unfold Obligations.UpdatePhasesBegin
  refine ⟨?_, ?_, ?_, ?_, ?_⟩
  · intro s p rec s1 hp hu hf hph pt others step holds hg hr
    obtain ⟨cleared, hc⟩ : ∃ c, ((s.part p).marks && decide ((s.part p).n0 ≤ step ∧ step ≠ stepNumber s p)) = c := ⟨_, rfl⟩
    have he := exec_reduceScatterBegin_begins hp hu hf hph (others := others) rfl hg hr
    obtain ⟨t, ht⟩ : ∃ t, s.reduceScatter s1 p step rec holds ((s.part p).marks && decide ((s.part p).n0 ≤ step ∧ step ≠ stepNumber s p)) = t :=
      ⟨_, rfl⟩
    obtain ⟨h1, h2, h3, h4, h5, h6, h7, h8, h9, h10, h11⟩ := State.reduceScatter_begins (stepReady_later hr) hph ht
    exact ⟨t, he.trans (congrArg Host.Outcome.next ht), h1, h2, h3, h4, h5, h6, h7, fun q hq => Exchange.start_iff.1 (h8 q hq), h9, h10, h11⟩
  · exact fun s p s1 hp hph hc he hr =>
      ⟨_, exec_passOneBegin_begins hp hph hc he hr, State.passOne_begins (phaseReady_later hr) hph _ rfl⟩
  · intro s p g2 s1 hp hg hph ho hc hn he hr
    obtain ⟨t, ht⟩ : ∃ t, s.passTwo s1 p (!dFinite g2) = t := ⟨_, rfl⟩
    obtain ⟨h1, h2, h3, h4, h5, h6, h7⟩ := State.passTwo_begins (phaseReady_later hr) hph _ ht
    exact ⟨t, (exec_passTwoBegin_begins hp hg hph ho hc hn he hr).trans (congrArg Host.Outcome.next ht), h1, h2, h3, h4,
      fun h => h5 (by rw [h]; rfl), fun h => h6 (by rw [h]; rfl), h7⟩
  · intro s p s1 hp hph ho hr hd
    obtain ⟨t, ht⟩ : ∃ t, ((List.range 4).foldl (fun t q => t.completeVersion p q) ((s1.setRun p (publishRun s s1 p)).publishAll p 4)).bump = t :=
      ⟨_, rfl⟩
    obtain ⟨h1, h2, h3, h4, h5, h6⟩ := State.publication_begins (phaseReady_later hr) hph (fun tid h => ⟨(hd tid h).1, (hd tid h).2.1⟩) ht
    exact ⟨t, (exec_publicationBegin_publishes hp hph ho hr fun tid h => (hd tid h).2.1).trans (congrArg Host.Outcome.next ht),
      h1, h2, h3, h4, h5, h6⟩
  · exact fun s p s1 hp hph ho hr hw => exec_publicationBegin_waits hp hph ho hr hw


end Sys2Proof.Machine
end

section
/-! SUPPORT. Update units, roots and engine faults (R258-R261, R266-R269). -/

namespace Sys2Proof.Machine

/-! ### A fault that ends a pass takes the snapshots of the blocks (R261, R267) -/

/-- A group record with the block preconditioner, roots taken at every update. -/
def preconditioned : BitVec 512 := 2#512 + 1#512 <<< (8 * 32)

/-- A tensor of one tile. -/
def oneTile : BitVec 512 := 1#512 <<< (8 * 12) + 1#512 <<< (8 * 16)

/-- A domain in pass two, whose first quay has one preconditioned tensor and no unit left to compute. -/
def passWithoutUnits : State :=
  { State.reset with
    tensors := [(1, { record := oneTile })]
    opt := { State.reset.opt with
      tensors := [(1, { blocks := [(0, { validFrom := 1 })] })]
      runs := [(0, { phase := 3, par := [(1, preconditioned)] })]
      engines := [(0, { pass := 2, passDone := false })] } }

/-- Whether the tensor's block waits for its root. -/
def rootDue (o : Out) : Bool :=
  match o with
  | .next t => (tget {} (tget {} t.opt.tensors 1).blocks 0).due.isSome
  | _ => false

theorem engineFault_snapshots : rootDue (exec (.engineFault 0 0 false) passWithoutUnits) = true := by decide +kernel

/-- Refutes O31: an engine's fault that leaves the pass with nothing to compute ends it, and the end of pass two takes the snapshots of the
blocks whose root is due, so the optimizer's tensors do not stand as the clause on a fault before the write says. -/
theorem not_enginesComputeAndFail : ¬ Obligations.EnginesComputeAndFail := by
  unfold Obligations.EnginesComputeAndFail
  rintro ⟨-, -, hfault⟩
  obtain ⟨t, ht, -, -, -, hbefore, -⟩ := hfault passWithoutUnits 0 0 false (by decide) (by decide) (by decide)
  obtain ⟨-, -, -, htensors, -⟩ := hbefore rfl
  have hdue := engineFault_snapshots
  rw [ht] at hdue
  have hnone : (tget {} (tget {} t.opt.tensors 1).blocks 0).due.isSome = false := by rw [htensors]; rfl
  exact absurd (hnone.symm.trans hdue) (by decide)


end Sys2Proof.Machine
end

section
/-! SUPPORT. Frames accumulated, held, discarded or buffered (R226-R235). -/

namespace Sys2Proof.Machine

/-! ### A frame leaves its unit, and its credit comes back (R229) -/

/-- A frame has left what its unit has in flight; of the quays only one's counters, held frames and exclusions may have changed. -/
structure FrameGone (key i q : Nat) (s u : State) : Prop where
  intake : ∀ k, u.intake k = if k = key then { s.intake k with sent := (s.intake k).sent.eraseIdx i } else s.intake k
  others : ∀ j, j ≠ q → u.quay j = s.quay j
  own : u.quay q = { s.quay q with
    frameCounts := (u.quay q).frameCounts, heldRows := (u.quay q).heldRows, lateFrames := (u.quay q).lateFrames, excluded := (u.quay q).excluded }

/-- The state once a frame has been taken from its unit's frames in flight. -/
def State.takeSent (s : State) (key i : Nat) : State := s.setIntake key { s.intake key with sent := (s.intake key).sent.eraseIdx i }

theorem State.takeSent_gone (s : State) (key i q : Nat) : FrameGone key i q s (s.takeSent key i) := by
  refine ⟨fun k => ?_, fun _ _ => rfl, rfl⟩
  have h : (s.takeSent key i).intake k = if k = key then { s.intake key with sent := (s.intake key).sent.eraseIdx i } else s.intake k :=
    tget_tput ({} : Intake) s.intakes key k _
  rw [h]
  split
  · next hk => rw [hk]
  · rfl

theorem State.takeSent_frame (s : State) (key i : Nat) : s.takeSent key i = { s with intakes := (s.takeSent key i).intakes } := rfl

namespace FrameGone

variable {key i q : Nat} {s u t : State}

/-- What leaves the intakes and the quays leaves the frame gone. -/
theorem congr (h : FrameGone key i q s u) (hi : t.intakes = u.intakes) (hq : t.quays = u.quays) : FrameGone key i q s t := by
  have h1 : ∀ k, t.intake k = u.intake k := fun k => congrArg (tget ({} : Intake) · k) hi
  have h2 : ∀ j, t.quay j = u.quay j := fun j => congrArg (tget ({} : Quay) · j) hq
  exact ⟨fun k => (h1 k).trans (h.intake k), fun j hj => (h2 j).trans (h.others j hj), by rw [h2]; exact h.own⟩

/-- The quay's counters, held frames and exclusions change. -/
theorem setQuay (h : FrameGone key i q s u) {v : Quay} (hv : v = { u.quay q with
    frameCounts := v.frameCounts, heldRows := v.heldRows, lateFrames := v.lateFrames, excluded := v.excluded }) :
    FrameGone key i q s (u.setQuay q v) := by
  have hq : ∀ j, (u.setQuay q v).quay j = if j = q then v else u.quay j := fun j => tget_tput ({} : Quay) u.quays q j v
  refine ⟨h.intake, fun j hj => ?_, ?_⟩
  · rw [hq, if_neg hj]; exact h.others j hj
  · rw [hq, if_pos rfl]
    exact hv.trans (congrArg (fun y : Quay => { y with
      frameCounts := v.frameCounts, heldRows := v.heldRows, lateFrames := v.lateFrames, excluded := v.excluded }) h.own :)

end FrameGone

/-- Credits of frames that are done come back to the unit, whose next frames go out. -/
theorem State.returnFrames_returns {s u : State} {key i q : Nat} (h : FrameGone key i q s u) (hi : i < (s.intake key).sent.length) (n : Nat)
    {t : State} (ht : u.returnFrames q (key % 192) n = t) :
    FrameTaken s t key i q n ∧ (∀ j, t.quay j = { u.quay j with turn := (t.quay j).turn }) ∧ t = { u with intakes := t.intakes, quays := t.quays } := by
  obtain ⟨home, hh⟩ : ∃ home, intakeKey (key % 192) (decide (q < 2)) = home := ⟨_, rfl⟩
  have ht' : (u.setIntake home { u.intake home with credits := (u.intake home).credits + n }).sendFrames home = t := by rw [← ht, ← hh]; rfl
  have hset : ∀ k, (u.setIntake home { u.intake home with credits := (u.intake home).credits + n }).intake k
      = if k = home then { u.intake home with credits := (u.intake home).credits + n } else u.intake k :=
    fun k => tget_tput ({} : Intake) u.intakes home k _
  have hquay : ∀ j, (u.setIntake home { u.intake home with credits := (u.intake home).credits + n }).quay j = u.quay j := fun _ => rfl
  have hfr : u.setIntake home { u.intake home with credits := (u.intake home).credits + n }
      = { u with intakes := (u.setIntake home { u.intake home with credits := (u.intake home).credits + n }).intakes } := rfl
  obtain ⟨a, ha⟩ : ∃ a, u.setIntake home { u.intake home with credits := (u.intake home).credits + n } = a := ⟨_, rfl⟩
  rw [ha] at ht' hset hquay hfr
  obtain ⟨m, hm, -⟩ := a.sendFrames_sends home
  rw [ht'] at hm
  have hq : ∀ j, t.quay j = { u.quay j with turn := (t.quay j).turn } := fun j =>
    (hm.quays j).trans (congrArg (fun y : Quay => { y with turn := (t.quay j).turn }) (hquay j))
  have herase : ((s.intake key).sent.eraseIdx i).length + 1 = (s.intake key).sent.length := by
    rw [List.length_eraseIdx_of_lt hi]; omega
  refine ⟨⟨fun k => ?_, fun j hj => ?_, ?_⟩, hq, hm.frame.trans (congrArg (fun y : State => { y with intakes := t.intakes, quays := t.quays }) hfr :)⟩
  · rw [hh]
    by_cases hk : k = home
    · subst hk
      obtain ⟨l, hl, hbare, -⟩ := hm.sent
      have hlen : l.length = m := by
        have := congrArg List.length hbare
        rw [List.length_map, List.length_map, List.length_take] at this
        rw [this]
        exact min_eq_left hm.count
      have hak := hset k
      rw [if_pos rfl, h.intake k] at hak
      have e1 : (a.intake k).sent = if k = key then (s.intake k).sent.eraseIdx i else (s.intake k).sent := by
        rw [hak]; split <;> rfl
      have e2 : (a.intake k).unsent = (s.intake k).unsent := by rw [hak]; split <;> rfl
      have e3 : (a.intake k).credits = (s.intake k).credits + n := by rw [hak]; split <;> rfl
      have e4 : (a.intake k).held = (s.intake k).held ∧ (a.intake k).opens = (s.intake k).opens := by rw [hak]; split <;> exact ⟨rfl, rfl⟩
      refine ⟨?_, ?_, ?_⟩
      · rw [hl, hm.unsent, e1, e2, List.append_assoc, List.map_append, List.map_append, List.map_append, hbare, e2, ← List.map_append,
          List.take_append_drop]
      · have hc := hm.credits
        rw [hl, e1, List.length_append, if_pos rfl, hlen]
        rw [e3] at hc
        split
        · next hkey => subst hkey; omega
        · omega
      · obtain ⟨e5, e6⟩ := e4
        have h1 := hm.held.trans e5
        have h2 := hm.opens.trans e6
        obtain ⟨y, hy⟩ : ∃ y, t.intake k = y := ⟨_, rfl⟩
        rw [hy] at h1 h2 ⊢
        dsimp only
        rw [← h1, ← h2]
    · have hak := hm.others k hk
      have hak' : t.intake k = a.intake k := hak
      rw [hset, if_neg hk, h.intake k] at hak'
      rw [hak', if_neg hk]
      split
      · next hkey => subst hkey; exact ⟨rfl, by dsimp only; omega, rfl⟩
      · exact ⟨rfl, rfl, rfl⟩
  · rw [hq j, h.others j hj]
  · have e := hq q
    obtain ⟨y, hy⟩ : ∃ y, t.quay q = y := ⟨_, rfl⟩
    rw [hy] at e ⊢
    have f1 : y.frameCounts = (u.quay q).frameCounts := (congrArg Quay.frameCounts e :)
    have f2 : y.heldRows = (u.quay q).heldRows := (congrArg Quay.heldRows e :)
    have f3 : y.lateFrames = (u.quay q).lateFrames := (congrArg Quay.lateFrames e :)
    have f4 : y.excluded = (u.quay q).excluded := (congrArg Quay.excluded e :)
    rw [f1, f2, f3, f4]
    exact e.trans (congrArg (fun z : Quay => { z with turn := y.turn }) h.own :)

/-- Where no credit comes back. -/
theorem FrameGone.taken {s u : State} {key i q : Nat} (h : FrameGone key i q s u) (hi : i < (s.intake key).sent.length) : FrameTaken s u key i q 0 := by
  have herase : ((s.intake key).sent.eraseIdx i).length + 1 = (s.intake key).sent.length := by
    rw [List.length_eraseIdx_of_lt hi]; omega
  refine ⟨fun k => ?_, fun j hj => by rw [h.others j hj], ?_⟩
  · rw [h.intake k]
    split
    · next hk =>
      subst hk
      refine ⟨rfl, ?_, rfl⟩
      dsimp only
      split <;> omega
    · refine ⟨rfl, ?_, rfl⟩
      split <;> omega
  · have e : (u.quay q).turn = (s.quay q).turn := (congrArg Quay.turn h.own :)
    rw [e]
    exact h.own

/-! ### Frames that are counted, and frames that are not added (R233) -/

/-- A quay's counter of a reason goes up by one for a partition. -/
def FrameCounted (s t : State) (q p reason : Nat) : Prop :=
  tget 0 (t.quay q).frameCounts (8 * p + reason) = satAdd 32 (tget 0 (s.quay q).frameCounts (8 * p + reason)) 1
    ∧ SameBut 0 (s.quay q).frameCounts (t.quay q).frameCounts (8 * p + reason)

/-- A partition counts one more frame that was not added. -/
def FrameDiscarded (s t : State) (p : Nat) : Prop :=
  (t.ctlOf p).counts.discardedFrames = (s.ctlOf p).counts.discardedFrames + 1 ∧ SameBut {} s.ctl t.ctl p

theorem Quay.frames_counts (v : Quay) (p reason : Nat) :
    tget 0 (v.frames p reason).frameCounts (8 * p + reason) = satAdd 32 (tget 0 v.frameCounts (8 * p + reason)) 1
      ∧ SameBut 0 v.frameCounts (v.frames p reason).frameCounts (8 * p + reason) :=
  ⟨tget_tput_same (0 : Nat) v.frameCounts (8 * p + reason) _, sameBut_tput (0 : Nat) v.frameCounts (8 * p + reason) _⟩

theorem State.quay_setQuay_same (s : State) (q : Nat) (v : Quay) : (s.setQuay q v).quay q = v := tget_tput_same ({} : Quay) s.quays q v

/-- The state with one more frame counted at a quay. -/
def State.countFrame (u : State) (q p reason : Nat) : State := u.setQuay q ((u.quay q).frames p reason)

theorem State.countFrame_counts {s u : State} {q : Nat} (hc : (u.quay q).frameCounts = (s.quay q).frameCounts) (p reason : Nat) :
    FrameCounted s (u.countFrame q p reason) q p reason := by
  unfold FrameCounted State.countFrame
  rw [State.quay_setQuay_same, ← hc]
  exact (u.quay q).frames_counts p reason

/-- A frame that is not added: counted at its quay and at its partition, its credit back. -/
theorem State.dropFrame_drops {s u : State} {key i q p reason : Nat} (h : FrameGone key i q s u) (hi : i < (s.intake key).sent.length)
    (hc : (u.quay q).frameCounts = (s.quay q).frameCounts) (hd : (u.ctlOf p).counts.discardedFrames = (s.ctlOf p).counts.discardedFrames)
    (ho : SameBut {} s.ctl u.ctl p) {t : State} (ht : u.dropFrame q (key % 192) p reason = t) :
    FrameCounted s t q p reason ∧ FrameDiscarded s t p ∧ FrameTaken s t key i q 1 ∧ (t.quay q).excluded = (u.quay q).excluded
      ∧ t = { u with intakes := t.intakes, quays := t.quays, ctl := t.ctl } := by
  have hcount := State.countFrame_counts hc p reason
  have hgone : FrameGone key i q s (u.countFrame q p reason) := h.setQuay rfl
  have hexc : ((u.countFrame q p reason).quay q).excluded = (u.quay q).excluded := by
    unfold State.countFrame
    rw [State.quay_setQuay_same]
    rfl
  have hctl : ∀ ct, (u.countFrame q p reason).setCtl p ct = { u.countFrame q p reason with ctl := tput {} u.ctl p ct } := fun _ => rfl
  have hfc : u.countFrame q p reason = { u with quays := (u.countFrame q p reason).quays } := rfl
  obtain ⟨ct, hct⟩ : ∃ ct : PartControl, { u.ctlOf p with counts := { (u.ctlOf p).counts with
    discardedFrames := (u.ctlOf p).counts.discardedFrames + 1 } } = ct := ⟨_, rfl⟩
  have hcd : ct.counts.discardedFrames = (u.ctlOf p).counts.discardedFrames + 1 := by rw [← hct]
  have ht' : ((u.countFrame q p reason).setCtl p ct).returnFrames q (key % 192) 1 = t := by rw [← ht, ← hct]; rfl
  obtain ⟨c, hcc⟩ : ∃ c, u.countFrame q p reason = c := ⟨_, rfl⟩
  rw [hcc] at hcount hgone hexc hctl hfc ht'
  obtain ⟨v, hv⟩ : ∃ v, c.setCtl p ct = v := ⟨_, rfl⟩
  have hvc := (hctl ct).symm.trans hv
  rw [hv] at ht'
  have hvg : FrameGone key i q s v := by rw [← hvc]; exact hgone.congr rfl rfl
  obtain ⟨h1, h2, h3⟩ := State.returnFrames_returns hvg hi 1 ht'
  have hvq : v.quay q = c.quay q := by rw [← hvc]; rfl
  have htq := h2 q
  rw [hvq] at htq
  have hf1 : (t.quay q).frameCounts = (c.quay q).frameCounts := (congrArg Quay.frameCounts htq :)
  have hf2 : (t.quay q).excluded = (c.quay q).excluded := (congrArg Quay.excluded htq :)
  have htc : t.ctl = tput {} u.ctl p ct := Eq.trans (congrArg State.ctl h3 :) (by rw [← hvc])
  refine ⟨?_, ⟨?_, fun j hj => ?_⟩, h1, hf2.trans hexc, ?_⟩
  · unfold FrameCounted
    rw [hf1]
    exact hcount
  · unfold State.ctlOf
    rw [htc, tget_tput_same]
    exact hcd.trans (congrArg (· + 1) hd)
  · rw [htc]
    exact (sameBut_tput ({} : PartControl) u.ctl p ct j hj).trans (ho j hj)
  · have hvu : v = { u with quays := v.quays, ctl := v.ctl } := by
      rw [← hvc]
      exact (congrArg (fun y : State => { y with ctl := tput {} u.ctl p ct }) hfc :)
    have hctl' : t.ctl = v.ctl := (congrArg State.ctl h3 :)
    rw [hctl']
    exact h3.trans (congrArg (fun y : State => { y with intakes := t.intakes, quays := t.quays }) hvu :)

/-- The micro-batch of a bad frame is excluded at its quay. -/
theorem State.exclude_excludes (u : State) (q p step outer : Nat) {v : State} (hv : u.exclude q p step outer = v) :
    (∀ j, j ≠ q → v.quay j = u.quay j) ∧ v.quay q = { u.quay q with excluded := (v.quay q).excluded } ∧ (p, step, outer) ∈ (v.quay q).excluded
      ∧ (v.ctlOf p).counts.discardedFrames = (u.ctlOf p).counts.discardedFrames ∧ SameBut {} u.ctl v.ctl p
      ∧ v.intakes = u.intakes ∧ v = { u with quays := v.quays, ctl := v.ctl } := by
  unfold State.exclude at hv
  dsimp only at hv
  split at hv
  · next hm =>
    subst hv
    exact ⟨fun _ _ => rfl, rfl, hm, rfl, fun _ _ => rfl, rfl, rfl⟩
  · subst hv
    have hq : ∀ (w : Quay) (ct : PartControl) j, ((u.setQuay q w).setCtl p ct).quay j = if j = q then w else u.quay j :=
      fun w ct j => tget_tput ({} : Quay) u.quays q j w
    have hc : ∀ (w : Quay) (ct : PartControl), ((u.setQuay q w).setCtl p ct).ctlOf p = ct := fun w ct => tget_tput_same ({} : PartControl) u.ctl p ct
    refine ⟨fun j hj => ?_, ?_, ?_, ?_, sameBut_tput ({} : PartControl) u.ctl p _, rfl, rfl⟩
    · rw [hq, if_neg hj]
    · rw [hq, if_pos rfl]
    · rw [hq, if_pos rfl]
      exact List.mem_append_right _ List.mem_cons_self
    · rw [hc]

/-- A bad frame: its micro-batch excluded, the frame counted and not added, an event. -/
def State.refuseFrame (u : State) (q x p n outer : Nat) : State :=
  ((u.exclude q p n outer).dropFrame q x p 3).event sevDegraded evFrameDiscarded p 3

theorem State.refuseFrame_refuses {s u : State} {key i q : Nat} (hu : u = { s with intakes := u.intakes }) (h : FrameGone key i q s u)
    (hi : i < (s.intake key).sent.length) (p n outer : Nat) {t : State} (ht : u.refuseFrame q (key % 192) p n outer = t) :
    FrameCounted s t q p 3 ∧ FrameDiscarded s t p ∧ FrameTaken s t key i q 1 ∧ (p, n, outer) ∈ (t.quay q).excluded
      ∧ Logged s t sevDegraded evFrameDiscarded p 3
      ∧ t = { s with intakes := t.intakes, quays := t.quays, ctl := t.ctl, log := t.log, hosts := t.hosts, sivar := t.sivar } := by
  unfold State.refuseFrame at ht
  obtain ⟨v, hv⟩ : ∃ v, u.exclude q p n outer = v := ⟨_, rfl⟩
  obtain ⟨h1, h2, h3, h4, h5, h6, h7⟩ := u.exclude_excludes q p n outer hv
  rw [hv] at ht
  have hvi : ∀ k, v.intake k = u.intake k := fun k => congrArg (tget ({} : Intake) · k) h6
  have huq : u.quay q = s.quay q := (congrArg (fun y : State => y.quay q) hu :)
  have huc : u.ctl = s.ctl := (congrArg State.ctl hu :)
  have hvg : FrameGone key i q s v := by
    refine ⟨fun k => (hvi k).trans (h.intake k), fun j hj => (h1 j hj).trans (h.others j hj), ?_⟩
    rw [huq] at h2
    obtain ⟨y, hy⟩ : ∃ y, v.quay q = y := ⟨_, rfl⟩
    rw [hy] at h2 ⊢
    have e1 : y.frameCounts = (s.quay q).frameCounts := (congrArg Quay.frameCounts h2 :)
    have e2 : y.heldRows = (s.quay q).heldRows := (congrArg Quay.heldRows h2 :)
    have e3 : y.lateFrames = (s.quay q).lateFrames := (congrArg Quay.lateFrames h2 :)
    rw [e1, e2, e3]
    exact h2
  have hfu : (v.quay q).frameCounts = (u.quay q).frameCounts := (congrArg Quay.frameCounts h2 :)
  have hfc : (v.quay q).frameCounts = (s.quay q).frameCounts := hfu.trans (congrArg Quay.frameCounts huq)
  have hcd : (v.ctlOf p).counts.discardedFrames = (s.ctlOf p).counts.discardedFrames := h4.trans
    (congrArg (fun m => (tget ({} : PartControl) m p).counts.discardedFrames) huc)
  have hcs : SameBut {} s.ctl v.ctl p := by rw [← huc]; exact h5
  obtain ⟨w, hw⟩ : ∃ w, v.dropFrame q (key % 192) p 3 = w := ⟨_, rfl⟩
  obtain ⟨d1, d2, d3, d4, d5⟩ := State.dropFrame_drops hvg hi hfc hcd hcs hw
  rw [hw] at ht
  have hws : w = { s with intakes := w.intakes, quays := w.quays, ctl := w.ctl } :=
    (d5.trans (congrArg (fun y : State => { y with intakes := w.intakes, quays := w.quays, ctl := w.ctl }) h7 :)).trans
      (congrArg (fun y : State => { y with intakes := w.intakes, quays := w.quays, ctl := w.ctl }) hu :)
  have hlog := logged_event_of (s := s) (u := w) (congrArg State.log hws :) (congrArg State.mc hws :) (congrArg (fun y : State => y.cfg 0x8000 3) hws :)
    sevDegraded evFrameDiscarded p 3
  have hf := w.event_frame sevDegraded evFrameDiscarded p 3
  rw [ht] at hlog hf
  have hti : t.intakes = w.intakes := (congrArg State.intakes hf :)
  have htq : t.quays = w.quays := (congrArg State.quays hf :)
  have htc : t.ctl = w.ctl := (congrArg State.ctl hf :)
  have hq : ∀ j, t.quay j = w.quay j := fun j => congrArg (tget ({} : Quay) · j) htq
  have hk : ∀ j, t.intake j = w.intake j := fun j => congrArg (tget ({} : Intake) · j) hti
  refine ⟨?_, ?_, ?_, ?_, hlog, ?_⟩
  · unfold FrameCounted at d1 ⊢
    rw [hq]
    exact d1
  · unfold FrameDiscarded State.ctlOf at d2 ⊢
    rw [htc]
    exact d2
  · unfold FrameTaken at d3 ⊢
    simp only [hq, hk]
    exact d3
  · rw [hq, d4]
    exact h3
  · rw [hti, htq, htc]
    exact hf.trans (congrArg (fun y : State => { y with log := t.log, hosts := t.hosts, sivar := t.sivar }) hws :)

/-! ### Statistics and accumulators (R231, R232, R234) -/

/-- A frame's statistics have joined its layer's sums. -/
def StatsAdded (s t : State) (q p : Nat) (er : BitVec 512) (h : BitVec 256) : Prop :=
  let old := tget {} (s.gov p).stats (q * 4096 + egLayer er)
  ∃ l, tfind (t.gov p).stats (q * 4096 + egLayer er) = some l
    ∧ l.amax = fmax old.amax (BitVec.ofNat 32 (bits h 151 120)) ∧ l.nonzero = old.nonzero + bits h 87 77
    ∧ l.uMx = old.uMx + bits h 76 66 ∧ l.uE5 = old.uE5 + bits h 65 55 ∧ l.uBf = old.uBf + bits h 54 44
    ∧ l.overflow = old.overflow + bits h 43 33 ∧ t.gov p = { s.gov p with stats := (t.gov p).stats }
    ∧ SameBut {} s.govs t.govs p

/-- The sums are a matter of the governors. -/
theorem StatsAdded.congr {s t u : State} {q p : Nat} {er : BitVec 512} {h : BitVec 256} (ht : StatsAdded s t q p er h) (hg : u.govs = t.govs) :
    StatsAdded s u q p er h := by
  unfold StatsAdded State.gov at ht ⊢
  rw [hg]
  exact ht

theorem State.addStats_adds {s u : State} (q number : Nat) {h : BitVec 256} {er : BitVec 512} (hg : u.govs = s.govs)
    (hr : frameRecord u number h = some er) : StatsAdded s (u.addStats q number h) q (frPart h) er h := by
  have hp : ∀ j, u.gov j = s.gov j := fun j => congrArg (tget ({} : Governor) · j) hg
  unfold State.addStats
  rw [hr]
  dsimp only
  rw [hp]
  obtain ⟨l, hl⟩ : ∃ l : LayerStats, { amax := fmax (tget {} (s.gov (frPart h)).stats (q * 4096 + egLayer er)).amax (BitVec.ofNat 32 (bits h 151 120))
                                       sumsq := dadd (tget {} (s.gov (frPart h)).stats (q * 4096 + egLayer er)).sumsq (f32ToF64 (BitVec.ofNat 32 (bits h 119 88)))
                                       nonzero := (tget {} (s.gov (frPart h)).stats (q * 4096 + egLayer er)).nonzero + bits h 87 77
                                       uMx := (tget {} (s.gov (frPart h)).stats (q * 4096 + egLayer er)).uMx + bits h 76 66
                                       uE5 := (tget {} (s.gov (frPart h)).stats (q * 4096 + egLayer er)).uE5 + bits h 65 55
                                       uBf := (tget {} (s.gov (frPart h)).stats (q * 4096 + egLayer er)).uBf + bits h 54 44
                                       overflow := (tget {} (s.gov (frPart h)).stats (q * 4096 + egLayer er)).overflow + bits h 43 33 } = l :=
    ⟨_, rfl⟩
  have hv : ∀ v, (u.setGov (frPart h) v).gov (frPart h) = v := fun v => tget_tput_same ({} : Governor) u.govs _ v
  unfold StatsAdded
  dsimp only
  rw [hl]
  refine ⟨l, ?_, ?_, ?_, ?_, ?_, ?_, ?_, ?_, ?_⟩
  · rw [hv]
    exact (tfind_tset ..).trans (if_pos rfl)
  · rw [← hl]
  · rw [← hl]
  · rw [← hl]
  · rw [← hl]
  · rw [← hl]
  · rw [← hl]
  · rw [hv]
  · rw [← hg]
    exact sameBut_tput ({} : Governor) u.govs (frPart h) _

theorem State.addStats_frame (u : State) (q number : Nat) (h : BitVec 256) : u.addStats q number h = { u with govs := (u.addStats q number h).govs } := by
  unfold State.addStats
  dsimp only
  split <;> rfl

/-- A DENSE frame's values join its tensor's accumulators. -/
theorem State.addDense_adds (u : State) (r : BitVec 512) (h : BitVec 256) (pay : List Byte) {v : State} (hv : u.addDense r h pay = v) :
    (v.optOf (recId r)).acc = addAcc (u.optOf (recId r)).acc
        ((frameElems (frFormat h) (frK h) false 1024 pay).zipIdx.map (fun e => (1024 * frTile h + e.2, e.1)))
      ∧ v.optOf (recId r) = { u.optOf (recId r) with acc := (v.optOf (recId r)).acc, dense := (v.optOf (recId r)).dense }
      ∧ SameBut {} u.opt.tensors v.opt.tensors (recId r) ∧ v.opt = { u.opt with tensors := v.opt.tensors } ∧ v = { u with opt := v.opt } := by
  unfold State.addDense at hv
  dsimp only at hv
  obtain ⟨es, hes⟩ : ∃ es, (frameElems (frFormat h) (frK h) false 1024 pay).zipIdx.map (fun e => (1024 * frTile h + e.2, e.1)) = es := ⟨_, rfl⟩
  rw [hes] at hv ⊢
  subst hv
  rw [State.optOf_setOptOf, if_pos rfl]
  exact ⟨rfl, rfl, sameBut_tput ({} : OptState) u.opt.tensors (recId r) _, rfl, rfl⟩

section
variable {s u : State} {key i q p : Nat} {h : BitVec 256} {pay : List Byte}

/-- The branches of a frame's judgement (R231-R233, R307). -/
theorem State.judgeFrame_unknown (u : State) (q x number : Nat) (hr : u.recOf (frTensor h) = none) :
    u.judgeFrame q x { number := number, header := h, payload := pay }
      = u.refuseFrame q x (frPart h) (frameStep (stepNumber u (frPart h)) (frStep16 h)) (frOuter h) := by
  unfold State.judgeFrame
  dsimp only
  rw [hr]
  rfl

/-- A frame that a quay takes: whole, of one of its own trained tensors, in a format of gradients. -/
def FrameGood (q : Nat) (h : BitVec 256) (pay : List Byte) (r : BitVec 512) : Prop :=
  bits h 31 0 = crc32c (headerCrcBytes h ++ pay) ∧ recPrimary r = q ∧ recRegion r = false ∧ (frFormat h = 1 ∨ frFormat h = 2 ∨ frFormat h = 5)

/-- The model's test for a frame that is not good. -/
def frameBad (q : Nat) (h : BitVec 256) (pay : List Byte) (r : BitVec 512) : Bool :=
  decide (bits h 31 0 ≠ crc32c (headerCrcBytes h ++ pay)) || decide (recPrimary r ≠ q) || recRegion r
    || !(decide (frFormat h = 1 ∨ frFormat h = 2 ∨ frFormat h = 5))

theorem frameBad_eq_false {r : BitVec 512} : frameBad q h pay r = false ↔ FrameGood q h pay r := by
  unfold frameBad FrameGood
  simp only [Bool.or_eq_false_iff, decide_eq_false_iff_not, ne_eq, not_not, Bool.not_eq_false', decide_eq_true_eq]
  tauto

/-- What the judgement does with a frame of a tensor that there is. -/
theorem State.judgeFrame_known (u : State) (q x number : Nat) {r : BitVec 512} (hr : u.recOf (frTensor h) = some r) :
    let f : EgFrame := { number := number, header := h, payload := pay }
    let p := frPart h
    let cur := stepNumber u p
    let n := frameStep cur (frStep16 h)
    u.judgeFrame q x f =
      if frameBad q h pay r then u.refuseFrame q x p n (frOuter h)
      else if isExcluded u p n (frOuter h) then (u.addStats q number h).dropFrame q x p 1
      else if frPoison h then u.dropFrame q x p 2
      else if recFrozen r || !u.trained (frTensor h) then u.dropFrame q x p 4
      else if scatterBegun u p then
        if ((u.quay q).lateFrames.map (fun e => 32 + e.2.payload.length)).foldl (· + ·) 0 + 32 + pay.length ≤ 67108864
            ∧ (n = cur ∨ mayFold u p n (cur + 1)) then
          { u.setQuay q ({ u.quay q with lateFrames := (u.quay q).lateFrames ++ [(x, f)] }.frames p 7) with
            ledger := { u.ledger with framesHeld := satAdd 32 u.ledger.framesHeld 1 } }
        else { u.dropFrame q x p 6 with ledger := { u.ledger with framesDropped := satAdd 32 u.ledger.framesDropped 1 } }
      else if n = cur || mayFold u p n cur then u.takeFrame q x r f
      else { u.dropFrame q x p 6 with ledger := { u.ledger with framesDropped := satAdd 32 u.ledger.framesDropped 1 } } := by
  intro f p cur n
  unfold State.judgeFrame
  dsimp only [f]
  rw [hr]
  rfl

end

/-! ### A frame that is added (R231, R232) -/

section
variable {s u : State} {key i q number : Nat} {h : BitVec 256} {pay : List Byte} {r er : BitVec 512}

theorem State.takeFrame_dense (u : State) (q x number : Nat) (r : BitVec 512) (hd : frRows h = false) :
    u.takeFrame q x r { number := number, header := h, payload := pay }
      = (((u.countFrame q (frPart h) 0).addStats q number h).addDense r h pay).returnFrames q x 1 := by
  unfold State.takeFrame
  dsimp only
  rw [if_neg (by rw [hd]; decide)]
  rfl

/-- A DENSE frame: counted, its statistics and its values added, its credit back. -/
theorem State.takeDense_takes (hu : u = { s with intakes := u.intakes }) (hg : FrameGone key i q s u) (hi : i < (s.intake key).sent.length) {t : State}
    (ht : (((u.countFrame q (frPart h) 0).addStats q number h).addDense r h pay).returnFrames q (key % 192) 1 = t) :
    FrameCounted s t q (frPart h) 0 ∧ FrameTaken s t key i q 1
      ∧ (t.optOf (recId r)).acc = addAcc (s.optOf (recId r)).acc
          ((frameElems (frFormat h) (frK h) false 1024 pay).zipIdx.map (fun e => (1024 * frTile h + e.2, e.1)))
      ∧ t.optOf (recId r) = { s.optOf (recId r) with acc := (t.optOf (recId r)).acc, dense := (t.optOf (recId r)).dense }
      ∧ SameBut {} s.opt.tensors t.opt.tensors (recId r) ∧ t.opt = { s.opt with tensors := t.opt.tensors }
      ∧ (∀ er, frameRecord s number h = some er → StatsAdded s t q (frPart h) er h)
      ∧ t = { s with intakes := t.intakes, quays := t.quays, opt := t.opt, govs := t.govs } := by
  have huq : u.quay q = s.quay q := (congrArg (fun y : State => y.quay q) hu :)
  have hc := State.countFrame_counts (s := s) (congrArg Quay.frameCounts huq) (frPart h) 0
  have hcg : FrameGone key i q s (u.countFrame q (frPart h) 0) := hg.setQuay rfl
  have hcf : u.countFrame q (frPart h) 0 = { u with quays := (u.countFrame q (frPart h) 0).quays } := rfl
  obtain ⟨c, hcc⟩ : ∃ c, u.countFrame q (frPart h) 0 = c := ⟨_, rfl⟩
  rw [hcc] at hc hcg hcf ht
  have hcs : c = { s with intakes := u.intakes, quays := c.quays } := hcf.trans (congrArg (fun y : State => { y with quays := c.quays }) hu :)
  have hcr : frameRecord c number h = frameRecord s number h := (congrArg (fun y : State => frameRecord y number h) hcs :)
  have hcgov : c.govs = s.govs := (congrArg State.govs hcs :)
  have hstats : ∀ er, frameRecord s number h = some er → StatsAdded s (c.addStats q number h) q (frPart h) er h :=
    fun er he => State.addStats_adds q number hcgov (hcr.trans he)
  have hdf := c.addStats_frame q number h
  obtain ⟨d, hdd⟩ : ∃ d, c.addStats q number h = d := ⟨_, rfl⟩
  rw [hdd] at hstats hdf ht
  have hds : d = { s with intakes := u.intakes, quays := c.quays, govs := d.govs } := hdf.trans (congrArg (fun y : State => { y with govs := d.govs }) hcs :)
  obtain ⟨e, hee⟩ : ∃ e, d.addDense r h pay = e := ⟨_, rfl⟩
  obtain ⟨a1, a2, a3, a4, a5⟩ := d.addDense_adds r h pay hee
  rw [hee] at ht
  have hdo : d.opt = s.opt := (congrArg State.opt hds :)
  have hdt : d.optOf (recId r) = s.optOf (recId r) := congrArg (fun o : Optimizer => tget ({} : OptState) o.tensors (recId r)) hdo
  rw [hdt] at a1 a2
  rw [hdo] at a3 a4
  have hes : e = { s with intakes := u.intakes, quays := c.quays, govs := d.govs, opt := e.opt } :=
    a5.trans (congrArg (fun y : State => { y with opt := e.opt }) hds :)
  have heg : FrameGone key i q s e := hcg.congr (Eq.trans (congrArg State.intakes hes :) (congrArg State.intakes hcs :).symm) (congrArg State.quays hes :)
  obtain ⟨h1, h2, h3⟩ := State.returnFrames_returns heg hi 1 ht
  have hto : t.opt = e.opt := (congrArg State.opt h3 :)
  have htg : t.govs = d.govs := Eq.trans (congrArg State.govs h3 :) (congrArg State.govs hes :)
  have htk : t.optOf (recId r) = e.optOf (recId r) := congrArg (fun o : Optimizer => tget ({} : OptState) o.tensors (recId r)) hto
  have hec : e.quay q = c.quay q := (congrArg (fun y : State => y.quay q) hes :)
  have htc : (t.quay q).frameCounts = (c.quay q).frameCounts := by
    have hte : (t.quay q).frameCounts = (e.quay q).frameCounts := (congrArg Quay.frameCounts (h2 q) :)
    exact hte.trans (congrArg Quay.frameCounts hec)
  refine ⟨?_, h1, ?_, ?_, ?_, ?_, fun er he => (hstats er he).congr htg, ?_⟩
  · unfold FrameCounted
    rw [htc]
    exact hc
  · rw [htk]; exact a1
  · rw [htk]; exact a2
  · rw [hto]; exact a3
  · rw [hto]; exact a4
  · rw [hto, htg]
    exact h3.trans (congrArg (fun y : State => { y with intakes := t.intakes, quays := t.quays }) hes :)

theorem State.addRows_bad (u : State) (q j : Nat) (pay : List Byte) (hn : frameToken u q er r h = none) :
    u.addRows q j er r h pay = u.countDrop q (frPart h) 5 := by
  unfold State.addRows
  dsimp only
  rw [hn]

/-- The elements of a ROWS frame, at their places in the tensor's accumulators. -/
def rowElems (er r : BitVec 512) (h : BitVec 256) (pay : List Byte) (j v : Nat) : List (Nat × F32) :=
  (frameElems (frFormat h) (frK h) true (32 * (if frTile h % 2 = 0 then min (egSlices er) 32 else egSlices er - 32)) pay).zipIdx.map (fun e =>
    (1024 * (v / 32 * recTin r + (egFirst er + egColStride er + j * egSlices er + 32 * (frTile h % 2) + e.2 / 32)) + 32 * (e.2 % 32) + v % 32, e.1))

theorem State.addRows_adds (u : State) (q j : Nat) (pay : List Byte) {v : Nat} (hv : frameToken u q er r h = some v) :
    u.addRows q j er r h pay = ((u.countFrame q (frPart h) 0).setOptOf (recId r) { u.optOf (recId r) with
      acc := addAcc (u.optOf (recId r)).acc (rowElems er r h pay j v), touched := addOnce (u.optOf (recId r)).touched v }).bump := by
  unfold State.addRows
  dsimp only
  rw [hv]
  rfl

/-- What rows that are added, or counted, leave. -/
structure RowsAdded (q k : Nat) (s t : State) : Prop where
  intakes : t.intakes = s.intakes
  others : ∀ j, j ≠ q → t.quay j = s.quay j
  own : t.quay q = { s.quay q with frameCounts := (t.quay q).frameCounts }
  tensors : SameBut {} s.opt.tensors t.opt.tensors k
  frame : t = { s with quays := t.quays, opt := t.opt, ctl := t.ctl, freeCtr := t.freeCtr }

theorem RowsAdded.refl (q k : Nat) (s : State) : RowsAdded q k s s := ⟨rfl, fun _ _ => rfl, rfl, fun _ _ => rfl, rfl⟩

theorem RowsAdded.trans {q k : Nat} {s t u : State} (a : RowsAdded q k s t) (b : RowsAdded q k t u) : RowsAdded q k s u :=
  ⟨b.intakes.trans a.intakes, fun j hj => (b.others j hj).trans (a.others j hj),
    b.own.trans (congrArg (fun y : Quay => { y with frameCounts := (u.quay q).frameCounts }) a.own :),
    fun j hj => (b.tensors j hj).trans (a.tensors j hj),
    b.frame.trans (congrArg (fun y : State => { y with quays := u.quays, opt := u.opt, ctl := u.ctl, freeCtr := u.freeCtr }) a.frame :)⟩

theorem State.countFrame_rows (u : State) (q p reason k : Nat) : RowsAdded q k u (u.countFrame q p reason) := by
  have hq : ∀ v j, (u.setQuay q v).quay j = if j = q then v else u.quay j := fun v j => tget_tput ({} : Quay) u.quays q j v
  unfold State.countFrame
  refine ⟨rfl, fun j hj => ?_, ?_, fun _ _ => rfl, rfl⟩
  · rw [hq, if_neg hj]
  · rw [hq, if_pos rfl]
    rfl

theorem State.addRows_rows (u : State) (q j : Nat) (er r : BitVec 512) (h : BitVec 256) (pay : List Byte) :
    RowsAdded q (recId r) u (u.addRows q j er r h pay) := by
  cases hv : frameToken u q er r h with
  | none =>
    rw [u.addRows_bad q j pay hv]
    exact (u.countFrame_rows q (frPart h) 5 (recId r)).trans ⟨rfl, fun _ _ => rfl, rfl, fun _ _ => rfl, rfl⟩
  | some v =>
    rw [u.addRows_adds q j pay hv]
    refine (u.countFrame_rows q (frPart h) 0 (recId r)).trans ?_
    obtain ⟨o, ho⟩ : ∃ o, { u.optOf (recId r) with
      acc := addAcc (u.optOf (recId r)).acc (rowElems er r h pay j v), touched := addOnce (u.optOf (recId r)).touched v } = o := ⟨_, rfl⟩
    rw [ho]
    obtain ⟨c, hc⟩ : ∃ c, u.countFrame q (frPart h) 0 = c := ⟨_, rfl⟩
    rw [hc]
    exact ⟨rfl, fun _ _ => rfl, rfl, sameBut_tput ({} : OptState) c.opt.tensors (recId r) o, rfl⟩

/-- The state in which a ROWS frame's token has been judged: its statistics have joined the sums, or it has none. -/
def State.rowStats (u : State) (q number : Nat) (h : BitVec 256) (er r : BitVec 512) : State :=
  if (frameToken u q er r h).isSome then u.addStats q number h else u

theorem State.rowStats_frame (u : State) (q number : Nat) (h : BitVec 256) (er r : BitVec 512) :
    u.rowStats q number h er r = { u with govs := (u.rowStats q number h er r).govs } := by
  unfold State.rowStats
  split
  · exact u.addStats_frame q number h
  · rfl

/-- A column's frames, summed in the order of their tiles. -/
def State.sumColumn (u : State) (q x : Nat) (er r : BitVec 512) (f : EgFrame) : State :=
  let all := (u.quay q).heldRows.filter (sameColumn x f) ++ [(x, f)]
  (sortFrames all).foldl (fun t e => t.addRows q (x - bandX t (frPart f.header) (egFirstCol er)) er r e.2.header e.2.payload)
    (u.setQuay q { u.quay q with heldRows := (u.quay q).heldRows.filter (fun e => !sameColumn x f e) })

theorem State.takeFrame_rows (u : State) (q x number : Nat) (r : BitVec 512) (hd : frRows h = true) (hr : frameRecord u number h = some er) :
    let f : EgFrame := { number := number, header := h, payload := pay }
    let s0 := u.rowStats q number h er r
    let held := (s0.quay q).heldRows.filter (sameColumn x f)
    u.takeFrame q x r f =
      if held.length + 1 < columnFrames s0 (frPart h) x er then s0.setQuay q { s0.quay q with heldRows := (s0.quay q).heldRows ++ [(x, f)] }
      else (s0.sumColumn q x er r f).returnFrames q x (held.length + 1) := by
  intro f s0 held
  have hlen : (held ++ [(x, f)]).length = held.length + 1 := by rw [List.length_append]; rfl
  unfold State.takeFrame
  dsimp only [f]
  rw [if_pos hd, hr]
  dsimp only
  rw [← hlen]
  rfl

end

/-! ### A column's frames (R232) -/

section
variable {s u : State} {key i q number : Nat} {h : BitVec 256} {pay : List Byte} {r er : BitVec 512}

/-- What a column's sum leaves. -/
theorem State.sumColumn_rows (u : State) (q x : Nat) (er r : BitVec 512) (f : EgFrame) :
    RowsAdded q (recId r) (u.setQuay q { u.quay q with heldRows := (u.quay q).heldRows.filter (fun e => !sameColumn x f e) }) (u.sumColumn q x er r f) := by
  unfold State.sumColumn
  dsimp only
  obtain ⟨v, hv⟩ : ∃ v, u.setQuay q { u.quay q with heldRows := (u.quay q).heldRows.filter (fun e => !sameColumn x f e) } = v := ⟨_, rfl⟩
  rw [hv]
  exact List.foldlRecOn (motive := fun t => RowsAdded q (recId r) v t) _ _ (.refl q _ v) fun t ht e _ => ht.trans (t.addRows_rows ..)

/-- A column whose only frame is this one. -/
theorem State.sumColumn_alone (u : State) (q x : Nat) (er r : BitVec 512) (f : EgFrame) (hh : (u.quay q).heldRows.filter (sameColumn x f) = []) {v : State}
    (hv : u.setQuay q { u.quay q with heldRows := (u.quay q).heldRows.filter (fun e => !sameColumn x f e) } = v) :
    u.sumColumn q x er r f = v.addRows q (x - bandX v (frPart f.header) (egFirstCol er)) er r f.header f.payload := by
  unfold State.sumColumn
  dsimp only
  rw [hh, hv]
  rfl

/-- A ROWS frame whose column is not complete is held. -/
theorem State.holdRow_holds (hu : u = { s with intakes := u.intakes }) (hg : FrameGone key i q s u) (hi : i < (s.intake key).sent.length)
    (f : EgFrame) {s0 t : State} (h0 : u.rowStats q number h er r = s0) (hr : frameRecord s number h = some er)
    (ht : s0.setQuay q { s0.quay q with heldRows := (s0.quay q).heldRows ++ [(key % 192, f)] } = t) :
    FrameTaken s t key i q 0 ∧ (t.quay q).heldRows = (s.quay q).heldRows ++ [(key % 192, f)] ∧ (t.quay q).frameCounts = (s.quay q).frameCounts
      ∧ (∀ v, frameToken s q er r h = some v → StatsAdded s t q (frPart h) er h)
      ∧ t = { s with intakes := t.intakes, quays := t.quays, govs := t.govs } := by
  have h0f := u.rowStats_frame q number h er r
  have hug : u.govs = s.govs := (congrArg State.govs hu :)
  have hur : frameRecord u number h = frameRecord s number h := (congrArg (fun y : State => frameRecord y number h) hu :)
  have hut : frameToken u q er r h = frameToken s q er r h := (congrArg (fun y : State => frameToken y q er r h) hu :)
  have hstats : ∀ v, frameToken s q er r h = some v → StatsAdded s s0 q (frPart h) er h := fun v hv => by
    rw [← h0, State.rowStats, if_pos (by rw [hut, hv]; rfl)]
    exact State.addStats_adds q number hug (hur.trans hr)
  rw [h0] at h0f
  have h0s : s0 = { s with intakes := u.intakes, govs := s0.govs } := h0f.trans (congrArg (fun y : State => { y with govs := s0.govs }) hu :)
  have h0g : FrameGone key i q s s0 := hg.congr (congrArg State.intakes h0s :) (Eq.trans (congrArg State.quays h0s :) (congrArg State.quays hu :).symm)
  have h0q : s0.quay q = s.quay q := (congrArg (fun y : State => y.quay q) h0s :)
  have htq : t.quay q = { s0.quay q with heldRows := (s0.quay q).heldRows ++ [(key % 192, f)] } := by
    rw [← ht]
    exact s0.quay_setQuay_same q _
  have htg : FrameGone key i q s t := by rw [← ht]; exact h0g.setQuay rfl
  have htf : t = { s0 with quays := t.quays } := by rw [← ht]; rfl
  have htgov : t.govs = s0.govs := (congrArg State.govs htf :)
  have hti : t.intakes = u.intakes := Eq.trans (congrArg State.intakes htf :) (congrArg State.intakes h0s :)
  refine ⟨htg.taken hi, ?_, ?_, fun v hv => (hstats v hv).congr htgov, ?_⟩
  · rw [htq, h0q]
  · rw [htq]
    exact (congrArg Quay.frameCounts h0q :)
  · rw [hti, htgov]
    exact htf.trans (congrArg (fun y : State => { y with quays := t.quays }) h0s :)

/-- A ROWS frame that completes its column: the column's frames are added in order, their credits come back. -/
theorem State.completeColumn_adds (hu : u = { s with intakes := u.intakes }) (hg : FrameGone key i q s u) (hi : i < (s.intake key).sent.length)
    {s0 t : State} (h0 : u.rowStats q number h er r = s0) (hr : frameRecord s number h = some er) (n : Nat)
    (ht : (s0.sumColumn q (key % 192) er r { number := number, header := h, payload := pay }).returnFrames q (key % 192) n = t) :
    let f : EgFrame := { number := number, header := h, payload := pay }
    let x := key % 192
    let held := (s.quay q).heldRows.filter (sameColumn x f)
    FrameTaken s t key i q n
      ∧ (t.quay q).heldRows = (s.quay q).heldRows.filter (fun e => !sameColumn x f e)
      ∧ (∀ v, held = [] → frameToken s q er r h = some v →
          FrameCounted s t q (frPart h) 0 ∧ v ∈ (t.optOf (recId r)).touched ∧ StatsAdded s t q (frPart h) er h
          ∧ (t.optOf (recId r)).acc = addAcc (s.optOf (recId r)).acc (rowElems er r h pay (x - bandX s (frPart h) (egFirstCol er)) v))
      ∧ (held = [] → frameToken s q er r h = none →
          FrameCounted s t q (frPart h) 5 ∧ FrameDiscarded s t (frPart h) ∧ t.opt = s.opt ∧ t.govs = s.govs)
      ∧ SameBut {} s.opt.tensors t.opt.tensors (recId r)
      ∧ t = { s with intakes := t.intakes, quays := t.quays, opt := t.opt, govs := t.govs, ctl := t.ctl, freeCtr := t.freeCtr } := by
  intro f x held
  have h0f := u.rowStats_frame q number h er r
  have hug : u.govs = s.govs := (congrArg State.govs hu :)
  have hur : frameRecord u number h = frameRecord s number h := (congrArg (fun y : State => frameRecord y number h) hu :)
  have hut : frameToken u q er r h = frameToken s q er r h := (congrArg (fun y : State => frameToken y q er r h) hu :)
  have hstats : ∀ v, frameToken s q er r h = some v → StatsAdded s s0 q (frPart h) er h := fun v hv => by
    rw [← h0, State.rowStats, if_pos (by rw [hut, hv]; rfl)]
    exact State.addStats_adds q number hug (hur.trans hr)
  have hnostats : frameToken s q er r h = none → s0.govs = s.govs := fun hn => by
    rw [← h0, State.rowStats, if_neg (by rw [hut, hn]; decide)]
    exact hug
  rw [h0] at h0f
  have h0s : s0 = { s with intakes := u.intakes, govs := s0.govs } := h0f.trans (congrArg (fun y : State => { y with govs := s0.govs }) hu :)
  have h0g : FrameGone key i q s s0 := hg.congr (congrArg State.intakes h0s :) (Eq.trans (congrArg State.quays h0s :) (congrArg State.quays hu :).symm)
  have h0q : s0.quay q = s.quay q := (congrArg (fun y : State => y.quay q) h0s :)
  have hrows := s0.sumColumn_rows q x er r f
  have halone := s0.sumColumn_alone q x er r f
  obtain ⟨w, hw⟩ : ∃ w, s0.setQuay q { s0.quay q with heldRows := (s0.quay q).heldRows.filter (fun e => !sameColumn x f e) } = w := ⟨_, rfl⟩
  have hwg : FrameGone key i q s w := by rw [← hw]; exact h0g.setQuay rfl
  have hwq : w.quay q = { s0.quay q with heldRows := (s0.quay q).heldRows.filter (fun e => !sameColumn x f e) } := by
    rw [← hw]; exact s0.quay_setQuay_same q _
  have hwf : w = { s0 with quays := w.quays } := by rw [← hw]; rfl
  have hws : w = { s with intakes := u.intakes, quays := w.quays, govs := s0.govs } := hwf.trans (congrArg (fun y : State => { y with quays := w.quays }) h0s :)
  rw [hw] at hrows
  replace halone := fun hh => halone hh hw
  obtain ⟨c, hc⟩ : ∃ c, s0.sumColumn q x er r f = c := ⟨_, rfl⟩
  have ht' : c.returnFrames q (key % 192) n = t := by rw [← hc]; exact ht
  rw [hc] at hrows halone
  have hcg : FrameGone key i q s c := by
    refine ⟨fun k => ?_, fun j hj => (hrows.others j hj).trans (hwg.others j hj), ?_⟩
    · exact (congrArg (tget ({} : Intake) · k) hrows.intakes).trans (hwg.intake k)
    · have e := hrows.own
      obtain ⟨y, hy⟩ : ∃ y, c.quay q = y := ⟨_, rfl⟩
      rw [hy] at e ⊢
      have f1 : y.heldRows = (w.quay q).heldRows := (congrArg Quay.heldRows e :)
      have f2 : y.lateFrames = (w.quay q).lateFrames := (congrArg Quay.lateFrames e :)
      have f3 : y.excluded = (w.quay q).excluded := (congrArg Quay.excluded e :)
      rw [f1, f2, f3]
      exact e.trans (congrArg (fun z : Quay => { z with frameCounts := y.frameCounts }) hwg.own :)
  obtain ⟨h1, h2, h3⟩ := State.returnFrames_returns hcg hi n ht'
  have hto : t.opt = c.opt := (congrArg State.opt h3 :)
  have htg : t.govs = c.govs := (congrArg State.govs h3 :)
  have htc : t.ctl = c.ctl := (congrArg State.ctl h3 :)
  have htn : t.freeCtr = c.freeCtr := (congrArg State.freeCtr h3 :)
  have htk : t.optOf (recId r) = c.optOf (recId r) := congrArg (fun o : Optimizer => tget ({} : OptState) o.tensors (recId r)) hto
  have hcs : c = { s with intakes := u.intakes, quays := c.quays, opt := c.opt, govs := s0.govs, ctl := c.ctl, freeCtr := c.freeCtr } :=
    hrows.frame.trans (congrArg (fun y : State => { y with quays := c.quays, opt := c.opt, ctl := c.ctl, freeCtr := c.freeCtr }) hws :)
  have hcgov : c.govs = s0.govs := (congrArg State.govs hcs :)
  have htheld : (t.quay q).heldRows = (c.quay q).heldRows := (congrArg Quay.heldRows (h2 q) :)
  have htcnt : (t.quay q).frameCounts = (c.quay q).frameCounts := (congrArg Quay.frameCounts (h2 q) :)
  have hcheld : (c.quay q).heldRows = (w.quay q).heldRows := (congrArg Quay.heldRows hrows.own :)
  have hwcnt : (w.quay q).frameCounts = (s.quay q).frameCounts := by
    rw [hwq]
    exact (congrArg Quay.frameCounts h0q :)
  have hwopt : w.opt = s.opt := (congrArg State.opt hws :)
  have hwctl : w.ctl = s.ctl := (congrArg State.ctl hws :)
  have hwtok : frameToken w q er r h = frameToken s q er r h := (congrArg (fun y : State => frameToken y q er r h) hws :)
  have hwband : bandX w (frPart h) (egFirstCol er) = bandX s (frPart h) (egFirstCol er) := (congrArg (fun y : State => bandX y (frPart h) (egFirstCol er)) hws :)
  have hheld : (s0.quay q).heldRows.filter (sameColumn x f) = held := by rw [h0q]
  refine ⟨h1, ?_, fun v hh hv => ?_, fun hh hn => ?_, ?_, ?_⟩
  · rw [htheld, hcheld, hwq, h0q]
  · have hca := halone (hheld.trans hh)
    dsimp only [f] at hca
    rw [w.addRows_adds q _ pay (hwtok.trans hv), hwband] at hca
    have hcount := State.countFrame_counts hwcnt (frPart h) 0
    have hko : (w.countFrame q (frPart h) 0).optOf (recId r) = s.optOf (recId r) :=
      congrArg (fun o : Optimizer => tget ({} : OptState) o.tensors (recId r)) hwopt
    have hwo : w.optOf (recId r) = s.optOf (recId r) := hko
    rw [hwo] at hca
    obtain ⟨es, hes⟩ : ∃ es, rowElems er r h pay (x - bandX s (frPart h) (egFirstCol er)) v = es := ⟨_, rfl⟩
    rw [hes] at hca ⊢
    obtain ⟨o, ho⟩ : ∃ o, { s.optOf (recId r) with
      acc := addAcc (s.optOf (recId r)).acc es, touched := addOnce (s.optOf (recId r)).touched v } = o := ⟨_, rfl⟩
    have ho1 : o.acc = addAcc (s.optOf (recId r)).acc es := by rw [← ho]
    have ho2 : v ∈ o.touched := by rw [← ho]; exact mem_addOnce ..
    rw [ho] at hca
    obtain ⟨k, hk⟩ : ∃ k, w.countFrame q (frPart h) 0 = k := ⟨_, rfl⟩
    rw [hk] at hca hcount
    have hco : c.optOf (recId r) = o := by
      rw [hca]
      exact (k.optOf_setOptOf (recId r) (recId r) o).trans (if_pos rfl)
    have hcq : c.quay q = k.quay q := by rw [hca]; rfl
    refine ⟨?_, ?_, (hstats v hv).congr (htg.trans hcgov), ?_⟩
    · unfold FrameCounted
      rw [htcnt, hcq]
      exact hcount
    · rw [htk, hco]; exact ho2
    · rw [htk, hco]; exact ho1
  · have hca := halone (hheld.trans hh)
    dsimp only [f] at hca
    rw [w.addRows_bad q _ pay (hwtok.trans hn)] at hca
    have hcount := State.countFrame_counts hwcnt (frPart h) 5
    have hcd : w.countDrop q (frPart h) 5 = (w.countFrame q (frPart h) 5).setCtl (frPart h) { w.ctlOf (frPart h) with
      counts := { (w.ctlOf (frPart h)).counts with discardedFrames := (w.ctlOf (frPart h)).counts.discardedFrames + 1 } } := rfl
    obtain ⟨ct, hct⟩ : ∃ ct : PartControl, { w.ctlOf (frPart h) with counts := { (w.ctlOf (frPart h)).counts with
      discardedFrames := (w.ctlOf (frPart h)).counts.discardedFrames + 1 } } = ct := ⟨_, rfl⟩
    have hctd : ct.counts.discardedFrames = (s.ctlOf (frPart h)).counts.discardedFrames + 1 := by
      rw [← hct]
      exact congrArg (fun m => (tget ({} : PartControl) m (frPart h)).counts.discardedFrames + 1) hwctl
    rw [hcd, hct] at hca
    have hkopt : (w.countFrame q (frPart h) 5).opt = s.opt := hwopt
    have hkctl : (w.countFrame q (frPart h) 5).ctl = s.ctl := hwctl
    obtain ⟨k, hk⟩ : ∃ k, w.countFrame q (frPart h) 5 = k := ⟨_, rfl⟩
    rw [hk] at hca hcount hkopt hkctl
    have hcq : c.quay q = k.quay q := by rw [hca]; rfl
    have hcctl : c.ctl = tput {} s.ctl (frPart h) ct := by rw [hca, ← hkctl]; rfl
    refine ⟨?_, ⟨?_, ?_⟩, ?_, ?_⟩
    · unfold FrameCounted
      rw [htcnt, hcq]
      exact hcount
    · unfold State.ctlOf
      rw [htc, hcctl, tget_tput_same]
      exact hctd
    · rw [htc, hcctl]
      exact sameBut_tput ({} : PartControl) s.ctl (frPart h) ct
    · rw [hto, hca]
      exact hkopt
    · rw [htg, hcgov]
      exact hnostats hn
  · rw [hto]
    intro j hj
    exact (hrows.tensors j hj).trans (by rw [hwopt])
  · rw [hto, htg, htc, htn, hcgov]
    exact h3.trans (congrArg (fun y : State => { y with intakes := t.intakes, quays := t.quays }) hcs :)

end

/-! ### The obligation -/

theorem exec_frameAccumulate_none {s : State} {q : Nat} {h : BitVec 256} {pay : List Byte} (hq : q < 4) (hn : frameSource s q h pay = none) :
    exec (.frameAccumulate q h pay) s = .next s := by
  refine (if_pos hq).trans (congrArg Host.Outcome.next ?_)
  rw [hn]

theorem exec_frameAccumulate_judges {s : State} {q key i : Nat} {h : BitVec 256} {pay : List Byte} {f0 : EgFrame} (hq : q < 4)
    (hs : frameSource s q h pay = some (key, i)) (hf : (s.intake key).sent[i]? = some f0) : exec (.frameAccumulate q h pay) s =
      .next ((s.takeSent key i).judgeFrame q (key % 192) { number := f0.number, header := h, payload := pay }) := by
  refine (if_pos hq).trans (congrArg Host.Outcome.next ?_)
  rw [hs]
  dsimp only
  rw [hf]
  rfl

/-- The sizes of the held frames add up. -/
theorem foldl_add_eq_sum (l : List Nat) : l.foldl (· + ·) 0 = l.sum := by
  rw [List.sum_eq_foldl]

section
variable {s u : State} {key i q : Nat} {h : BitVec 256} {pay : List Byte}

/-- A frame that may not be folded in is dropped, and the ledger counts it. -/
theorem State.dropLate_drops (hu : u = { s with intakes := u.intakes }) (hg : FrameGone key i q s u) (hi : i < (s.intake key).sent.length) (n : Nat)
    {t : State} (ht : { u.dropFrame q (key % 192) (frPart h) 6 with ledger := { u.ledger with framesDropped := n } } = t) :
    FrameCounted s t q (frPart h) 6 ∧ FrameDiscarded s t (frPart h) ∧ FrameTaken s t key i q 1
      ∧ t = { s with intakes := t.intakes, quays := t.quays, ctl := t.ctl, ledger := { s.ledger with framesDropped := n } } := by
  have huq : u.quay q = s.quay q := (congrArg (fun y : State => y.quay q) hu :)
  have huc : u.ctl = s.ctl := (congrArg State.ctl hu :)
  have hul : u.ledger = s.ledger := (congrArg State.ledger hu :)
  obtain ⟨w, hw⟩ : ∃ w, u.dropFrame q (key % 192) (frPart h) 6 = w := ⟨_, rfl⟩
  obtain ⟨d1, d2, d3, -, d5⟩ := State.dropFrame_drops hg hi (congrArg Quay.frameCounts huq)
    (congrArg (fun m => (tget ({} : PartControl) m (frPart h)).counts.discardedFrames) huc) (fun j _ => by rw [huc]) hw
  rw [hw, hul] at ht
  have hws : w = { s with intakes := w.intakes, quays := w.quays, ctl := w.ctl } :=
    d5.trans (congrArg (fun y : State => { y with intakes := w.intakes, quays := w.quays, ctl := w.ctl }) hu :)
  subst ht
  exact ⟨d1, d2, d3, (congrArg (fun y : State => { y with ledger := { s.ledger with framesDropped := n } }) hws :)⟩

/-- A frame that comes after the reduce-scatter began is held. -/
theorem State.holdLate_holds (hu : u = { s with intakes := u.intakes }) (hg : FrameGone key i q s u) (hi : i < (s.intake key).sent.length) (f : EgFrame)
    (p n : Nat) {t : State} (ht : { u.setQuay q ({ u.quay q with lateFrames := (u.quay q).lateFrames ++ [(key % 192, f)] }.frames p 7) with
      ledger := { u.ledger with framesHeld := n } } = t) :
    FrameCounted s t q p 7 ∧ FrameTaken s t key i q 0 ∧ (t.quay q).lateFrames = (s.quay q).lateFrames ++ [(key % 192, f)]
      ∧ t = { s with intakes := t.intakes, quays := t.quays, ledger := { s.ledger with framesHeld := n } } := by
  have huq : u.quay q = s.quay q := (congrArg (fun y : State => y.quay q) hu :)
  have hul : u.ledger = s.ledger := (congrArg State.ledger hu :)
  obtain ⟨v, hv⟩ : ∃ v : Quay, { u.quay q with lateFrames := (u.quay q).lateFrames ++ [(key % 192, f)] } = v := ⟨_, rfl⟩
  have hv1 : v.frameCounts = (s.quay q).frameCounts := by rw [← hv, huq]
  have hv2 : (v.frames p 7).lateFrames = (s.quay q).lateFrames ++ [(key % 192, f)] := by rw [← hv, huq]; rfl
  have hgone : FrameGone key i q s (u.setQuay q (v.frames p 7)) := hg.setQuay (by rw [← hv]; rfl)
  have hcount := v.frames_counts p 7
  rw [hv1] at hcount
  rw [hv, hul] at ht
  obtain ⟨c, hc⟩ : ∃ c, v.frames p 7 = c := ⟨_, rfl⟩
  rw [hc] at hv2 hgone hcount ht
  have hq : (u.setQuay q c).quay q = c := u.quay_setQuay_same q c
  have hf : u.setQuay q c = { u with quays := (u.setQuay q c).quays } := rfl
  obtain ⟨w, hw⟩ : ∃ w, u.setQuay q c = w := ⟨_, rfl⟩
  rw [hw] at hgone ht hq hf
  have htg : FrameGone key i q s t := by rw [← ht]; exact hgone.congr rfl rfl
  have htq : t.quay q = c := by rw [← ht]; exact hq
  have hwi : w.intakes = u.intakes := (congrArg State.intakes hf :)
  have hws : w = { s with intakes := w.intakes, quays := w.quays } := by
    rw [hwi]
    exact hf.trans (congrArg (fun y : State => { y with quays := w.quays }) hu :)
  refine ⟨?_, htg.taken hi, by rw [htq]; exact hv2, ?_⟩
  · unfold FrameCounted
    rw [htq]
    exact hcount
  · rw [← ht]
    exact (congrArg (fun y : State => { y with ledger := { s.ledger with framesHeld := n } }) hws :)

/-- A frame that is counted and not added, with or without its statistics. -/
theorem State.dropCounted_drops (hu : u = { s with intakes := u.intakes }) (hg : FrameGone key i q s u) (hi : i < (s.intake key).sent.length)
    (reason : Nat) {v t : State} (hv : v = { u with govs := v.govs }) (ht : v.dropFrame q (key % 192) (frPart h) reason = t) :
    FrameCounted s t q (frPart h) reason ∧ FrameDiscarded s t (frPart h) ∧ FrameTaken s t key i q 1 ∧ t.govs = v.govs
      ∧ t = { s with intakes := t.intakes, quays := t.quays, ctl := t.ctl, govs := v.govs } := by
  have hvs : v = { s with intakes := u.intakes, govs := v.govs } := hv.trans (congrArg (fun y : State => { y with govs := v.govs }) hu :)
  have hvq : v.quay q = s.quay q := (congrArg (fun y : State => y.quay q) hvs :)
  have hvc : v.ctl = s.ctl := (congrArg State.ctl hvs :)
  have hvg : FrameGone key i q s v := hg.congr (congrArg State.intakes hv :) (congrArg State.quays hv :)
  obtain ⟨d1, d2, d3, -, d5⟩ := State.dropFrame_drops hvg hi (congrArg Quay.frameCounts hvq)
    (congrArg (fun m => (tget ({} : PartControl) m (frPart h)).counts.discardedFrames) hvc) (fun j _ => by rw [hvc]) ht
  exact ⟨d1, d2, d3, (congrArg State.govs d5 :),
    d5.trans (congrArg (fun y : State => { y with intakes := t.intakes, quays := t.quays, ctl := t.ctl }) hvs :)⟩

end

/-- Settles O28: a frame is added, held, discarded or buffered by its check, its exclusion, its step and its tensor (R229-R234, R307). -/
theorem framesAreAccumulated : Obligations.FramesAreAccumulated := by
  unfold Obligations.FramesAreAccumulated
  refine ⟨fun s q h pay hq hn => exec_frameAccumulate_none hq hn, ?_⟩
  intro s q h pay key i f0 hq hsrc hf0 f p x cur n counted discarded excludes
  have hi : i < (s.intake key).sent.length := (List.getElem?_eq_some_iff.1 hf0).1
  have hexec := exec_frameAccumulate_judges hq hsrc hf0
  have hg := s.takeSent_gone key i q
  have hu := s.takeSent_frame key i
  obtain ⟨u, huu⟩ : ∃ u, s.takeSent key i = u := ⟨_, rfl⟩
  rw [huu] at hexec hg hu
  have hurec : u.recOf (frTensor h) = s.recOf (frTensor h) := (congrArg (fun y : State => y.recOf (frTensor h)) hu :)
  have hustep : stepNumber u p = cur := (congrArg (fun y : State => stepNumber y p) hu :)
  have huexc : isExcluded u p n (frOuter h) = isExcluded s p n (frOuter h) := (congrArg (fun y : State => isExcluded y p n (frOuter h)) hu :)
  have hutr : u.trained (frTensor h) = s.trained (frTensor h) := (congrArg (fun y : State => y.trained (frTensor h)) hu :)
  have husc : scatterBegun u p = scatterBegun s p := (congrArg (fun y : State => scatterBegun y p) hu :)
  have hufold : ∀ m, mayFold u p n m = mayFold s p n m := fun m => (congrArg (fun y : State => mayFold y p n m) hu :)
  have huq : u.quay q = s.quay q := (congrArg (fun y : State => y.quay q) hu :)
  have hul : u.ledger = s.ledger := (congrArg State.ledger hu :)
  have refused : exec (.frameAccumulate q h pay) s = .next (u.refuseFrame q x p n (frOuter h)) → excludes := fun he =>
    ⟨_, he, by
      obtain ⟨h1, h2, h3, h4, h5, h6⟩ := State.refuseFrame_refuses hu hg hi p n (frOuter h) rfl
      exact ⟨h1, h2, h3, h4, h5, h6⟩⟩
  refine ⟨fun hr => refused (hexec.trans (congrArg Host.Outcome.next ?_)), fun r hr => ?_⟩
  · rw [u.judgeFrame_unknown q x f0.number (hurec.trans hr), hustep]
  · have hk := u.judgeFrame_known q x f0.number (pay := pay) (hurec.trans hr)
    dsimp only at hk
    rw [hustep, huexc, hutr, husc, hufold, hufold, huq, hul] at hk
    rw [hk] at hexec
    intro good trains measured
    have hgood : good ↔ frameBad q h pay r = false := frameBad_eq_false.symm
    have htrains : trains → frPoison h = false ∧ (recFrozen r || !s.trained (frTensor h)) = false := fun ⟨h1, h2, h3⟩ => ⟨h1, by rw [h2, h3]; rfl⟩
    have hsize : ((s.quay q).lateFrames.map (fun e => 32 + e.2.payload.length)).foldl (· + ·) 0
        = ((s.quay q).lateFrames.map (fun f => 32 + f.2.payload.length)).sum := foldl_add_eq_sum _
    rw [hsize] at hexec
    refine ⟨fun hgd hex htr hsc hstep => ?_, fun hgd hex htr hsc => ?_, fun hgd => ?_, fun hgd hex => ?_, fun hgd hex hno => ?_⟩
    · obtain ⟨hpo, hfz⟩ := htrains htr
      have hin : (decide (n = cur) || mayFold s p n cur) = true := by
        rcases hstep with h1 | h1
        · rw [decide_eq_true h1]; rfl
        · rw [h1, Bool.or_true]
      rw [hgood.1 hgd, hex, hpo, hfz, hsc, if_neg Bool.false_ne_true, if_neg Bool.false_ne_true, if_neg Bool.false_ne_true, if_neg Bool.false_ne_true,
        if_neg Bool.false_ne_true, if_pos hin] at hexec
      refine ⟨fun hd => ?_, fun hd er her => ?_⟩
      · rw [u.takeFrame_dense q x f0.number r hd] at hexec
        exact ⟨_, hexec, State.takeDense_takes hu hg hi rfl⟩
      · intro held all
        have hur : frameRecord u f0.number h = some er := Eq.trans (congrArg (fun y : State => frameRecord y f0.number h) hu :) her
        rw [u.takeFrame_rows q x f0.number r hd hur] at hexec
        have h0f := u.rowStats_frame q f0.number h er r
        obtain ⟨s0, h0⟩ : ∃ s0, u.rowStats q f0.number h er r = s0 := ⟨_, rfl⟩
        rw [h0] at h0f hexec
        have h0s : s0 = { s with intakes := u.intakes, govs := s0.govs } := h0f.trans (congrArg (fun y : State => { y with govs := s0.govs }) hu :)
        have h0q : s0.quay q = s.quay q := (congrArg (fun y : State => y.quay q) h0s :)
        have h0c : columnFrames s0 (frPart h) x er = all := (congrArg (fun y : State => columnFrames y (frPart h) x er) h0s :)
        refine ⟨fun hlt => ?_, fun hge => ?_⟩
        · have hlt' : ((s0.quay q).heldRows.filter (sameColumn x f)).length + 1 < columnFrames s0 (frPart h) x er := by
            rw [h0q, h0c]; exact hlt
          exact ⟨_, hexec.trans (congrArg Host.Outcome.next (if_pos hlt')), State.holdRow_holds hu hg hi f h0 her rfl⟩
        · have hge' : ¬ ((s0.quay q).heldRows.filter (sameColumn x f)).length + 1 < columnFrames s0 (frPart h) x er := by
            rw [h0q, h0c]; exact Nat.not_lt.2 hge
          have hlen : ((s0.quay q).heldRows.filter (sameColumn x f)).length = held.length := by rw [h0q]
          refine ⟨_, hexec.trans (congrArg Host.Outcome.next (if_neg hge')), ?_⟩
          rw [hlen]
          exact State.completeColumn_adds hu hg hi h0 her (held.length + 1) rfl
    · obtain ⟨hpo, hfz⟩ := htrains htr
      rw [hgood.1 hgd, hex, hpo, hfz, hsc, if_neg Bool.false_ne_true, if_neg Bool.false_ne_true, if_neg Bool.false_ne_true, if_neg Bool.false_ne_true,
        if_pos rfl] at hexec
      intro fits
      refine ⟨fun hfit => ?_, fun hfit => ?_⟩
      · exact ⟨_, hexec.trans (congrArg Host.Outcome.next (if_pos ⟨hfit.2, hfit.1⟩)), State.holdLate_holds hu hg hi f p _ (by rw [huq, hul])⟩
      · exact ⟨_, hexec.trans (congrArg Host.Outcome.next (if_neg fun hc => hfit ⟨hc.2, hc.1⟩)), State.dropLate_drops hu hg hi _ (by rw [hul])⟩
    · have hb : frameBad q h pay r = true := by
        rw [← Bool.not_eq_false]
        exact fun hb => hgd (hgood.2 hb)
      rw [if_pos hb] at hexec
      exact refused hexec
    · rw [hgood.1 hgd, hex, if_neg Bool.false_ne_true, if_pos rfl] at hexec
      obtain ⟨h1, h2, h3, h4, h5⟩ := State.dropCounted_drops hu hg hi 1 (u.addStats_frame q f0.number h) rfl
      refine ⟨_, hexec, h1, h2, h3, fun er her => ?_, by rw [h4]; exact h5⟩
      have hug : u.govs = s.govs := (congrArg State.govs hu :)
      exact (State.addStats_adds q f0.number hug (Eq.trans (congrArg (fun y : State => frameRecord y f0.number h) hu :) her)).congr h4
    · have hug : u.govs = s.govs := (congrArg State.govs hu :)
      have plain : ∀ reason, exec (.frameAccumulate q h pay) s = .next (u.dropFrame q x p reason) →
          ∃ t, exec (.frameAccumulate q h pay) s = .next t ∧ counted t reason ∧ discarded t ∧ FrameTaken s t key i q 1
            ∧ t = { s with intakes := t.intakes, quays := t.quays, ctl := t.ctl } := fun reason he => by
        obtain ⟨h1, h2, h3, h4, h5⟩ := State.dropCounted_drops hu hg hi reason (v := u) rfl rfl
        rw [hug] at h5
        exact ⟨_, he, h1, h2, h3, h5⟩
      rw [hgood.1 hgd, hex, if_neg Bool.false_ne_true, if_neg Bool.false_ne_true] at hexec
      by_cases hpo : frPoison h = true
      · rw [if_pos hpo] at hexec ⊢
        exact plain 2 hexec
      · have hfz : (recFrozen r || !s.trained (frTensor h)) = true := by
          rcases hno with h1 | h1 | h1
          · exact absurd h1 hpo
          · rw [h1]; rfl
          · rw [h1]; simp
        rw [if_neg hpo, if_pos hfz] at hexec
        rw [if_neg hpo]
        exact plain 4 hexec


end Sys2Proof.Machine
end

section
/-! SUPPORT. The governors of formats and stashes (R234-R245). -/

namespace Sys2Proof.Machine

/-! ### A quay's sums of a layer join the reported ones (R236) -/

theorem State.gov_setGov (s : State) (p : Nat) (g : Governor) : (s.setGov p g).gov p = g := tget_tput_same _ _ _ _

/-- A partition's governor in place of what it was: no other governor changed, and nothing but governors. -/
theorem State.setGov_sets (s : State) (p : Nat) (g : Governor) :
    (s.setGov p g).gov p = g ∧ SameBut {} s.govs (s.setGov p g).govs p ∧ s.setGov p g = { s with govs := (s.setGov p g).govs } :=
  ⟨s.gov_setGov p g, sameBut_tput _ _ _ _, rfl⟩

theorem State.reportStats_joins {s : State} {p step key layer : Nat} {l : LayerStats} (hk : key % 4096 = layer)
    (h : tfind (s.gov p).stats key = some l) :
    s.reportStats p step key = s.setGov p { s.gov p with
      stats := tdel (s.gov p).stats key
      reported := tset (s.gov p).reported layer (match tfind (s.gov p).reported layer with | some o => joinStats o l | none => l)
      reportedStep := tset (s.gov p).reportedStep layer (step + 1) } := by
  subst hk
  unfold State.reportStats
  dsimp only
  rw [h] <;> rfl

theorem State.reportStats_nothing {s : State} {p step key : Nat} (h : tfind (s.gov p).stats key = none) :
    s.reportStats p step key = s := by
  unfold State.reportStats
  dsimp only
  rw [h]

theorem State.reportNone_reported {s : State} {p step layer : Nat} (h : (tfind (s.gov p).reported layer).isSome = true) :
    s.reportNone p step layer = s := by
  unfold State.reportNone State.reportEmpty
  rw [if_pos (Or.inl h), ite_self]

/-- A quay still has sums of the layer. -/
def sumsWait (s : State) (p layer : Nat) : Bool := (List.range 4).any (fun q => (tfind (s.gov p).stats (q * 4096 + layer)).isSome)

theorem sumsWait_false {s : State} {p layer : Nat} :
    sumsWait s p layer = false ↔ ∀ q, q < 4 → tfind (s.gov p).stats (q * 4096 + layer) = none := by
  simp [sumsWait]

theorem State.reportNone_cases (s : State) (p step layer : Nat) :
    s.reportNone p step layer = s
      ∧ ((∀ j, j < 4 → tfind (s.gov p).stats (j * 4096 + layer) = none) → layer ∈ layersOf s p →
          tfind (s.gov p).reported layer = none → tget 0 (s.gov p).reportedStep layer = step + 1)
    ∨ s.reportNone p step layer = s.setGov p { s.gov p with
        reported := tset (s.gov p).reported layer {}, reportedStep := tset (s.gov p).reportedStep layer (step + 1) } := by
  unfold State.reportNone State.reportEmpty
  dsimp only
  by_cases h1 : (sumsWait s p layer || !decide (layer ∈ layersOf s p)) = true
  · refine .inl ⟨if_pos h1, fun hn hl _ => ?_⟩
    rw [sumsWait_false.mpr hn, Bool.false_or, Bool.not_eq_true', decide_eq_false_iff_not] at h1
    exact absurd hl h1
  · by_cases h2 : (tfind (s.gov p).reported layer).isSome = true ∨ tget 0 (s.gov p).reportedStep layer = step + 1
    · refine .inl ⟨(if_neg h1).trans (if_pos h2), fun _ _ hr => h2.resolve_left ?_⟩
      rw [hr]
      exact Bool.false_ne_true
    · exact .inr ((if_neg h1).trans (if_neg h2))

theorem execStatisticsReport_eq {q p layer : Nat} {s : State} (hq : q < 4) (hp : p < 8) (hl : layer < 4096) :
    exec (.statisticsReport q p layer) s
      = if layerFired s p layer = true ∧ (∀ e ∈ s.intakes, ∀ o ∈ e.2.opens, o.part = p → egLayer o.record ≠ layer) then
          .next ((s.reportStats p (stepNumber s p) (q * 4096 + layer)).reportNone p (stepNumber s p) layer)
        else .next s := by
  have hu : ¬ (4 ≤ q ∨ 8 ≤ p) := by omega
  refine (if_neg hu).trans ?_
  have hc : (s.intakes.any (fun e => e.2.opens.any (fun o => o.part == p && egLayer o.record == layer))
        || decide (4096 ≤ layer) || !layerFired s p layer) = true
      ↔ ¬ (layerFired s p layer = true ∧ (∀ e ∈ s.intakes, ∀ o ∈ e.2.opens, o.part = p → egLayer o.record ≠ layer)) := by
    have h4 : decide (4096 ≤ layer) = false := by simp; omega
    rw [h4, Bool.or_false, Bool.or_eq_true, not_and_or, or_comm]
    refine or_congr (by simp) ?_
    simp only [List.any_eq_true, Bool.and_eq_true, beq_iff_eq, not_forall, ne_eq, not_not, exists_prop]
  by_cases h : layerFired s p layer = true ∧ (∀ e ∈ s.intakes, ∀ o ∈ e.2.opens, o.part = p → egLayer o.record ≠ layer)
  · rw [if_neg (fun hx => hc.mp hx h), if_pos h]
  · rw [if_pos (hc.mpr h), if_neg h]
theorem statisticsReport_clause (s : State) (q p layer : Nat) (hq : q < 4) (hp : p < 8) (hl : layer < 4096) :
    let key := q * 4096 + layer
    let closed := ∀ e ∈ s.intakes, ∀ o ∈ e.2.opens, o.part = p → egLayer o.record ≠ layer
    (layerFired s p layer = false ∨ ¬ closed → exec (.statisticsReport q p layer) s = .next s)
    ∧ (layerFired s p layer = true → closed → ∃ t, exec (.statisticsReport q p layer) s = .next t
      ∧ (∀ l, tfind (s.gov p).stats key = some l →
          tfind (t.gov p).reported layer
            = some (match tfind (s.gov p).reported layer with | some o => joinStats o l | none => l)
          ∧ tget 0 (t.gov p).reportedStep layer = stepNumber s p + 1)
      ∧ ((∀ j, j < 4 → tfind (s.gov p).stats (j * 4096 + layer) = none) → layer ∈ layersOf s p →
          tfind (s.gov p).reported layer = none → tget 0 (s.gov p).reportedStep layer ≠ stepNumber s p + 1 →
          tfind (t.gov p).reported layer = some {} ∧ tget 0 (t.gov p).reportedStep layer = stepNumber s p + 1)
      ∧ tfind (t.gov p).stats key = none ∧ (∀ k, k ≠ key → tfind (t.gov p).stats k = tfind (s.gov p).stats k)
      ∧ (∀ k, k ≠ layer → tfind (t.gov p).reported k = tfind (s.gov p).reported k)
      ∧ SameBut 0 (s.gov p).reportedStep (t.gov p).reportedStep layer
      ∧ t.gov p = { s.gov p with stats := (t.gov p).stats, reported := (t.gov p).reported, reportedStep := (t.gov p).reportedStep }
      ∧ SameBut {} s.govs t.govs p ∧ t = { s with govs := t.govs }) := by
  intro key closed
  rw [execStatisticsReport_eq hq hp hl]
  refine ⟨fun h => if_neg fun hx => h.elim (fun hf => Bool.false_ne_true (hf.symm.trans hx.1)) (· hx.2), fun hf hc => ?_⟩
  refine ⟨_, if_pos ⟨hf, hc⟩, ?_⟩
  have hk : key % 4096 = layer := by show (q * 4096 + layer) % 4096 = layer; omega
  generalize stepNumber s p = step
  cases hs : tfind (s.gov p).stats key with
  | some l =>
    have e1 := State.reportStats_joins (step := step) hk hs
    rw [e1]
    obtain ⟨hg, ho, hfr⟩ := s.setGov_sets p { s.gov p with
      stats := tdel (s.gov p).stats key
      reported := tset (s.gov p).reported layer (match tfind (s.gov p).reported layer with | some o => joinStats o l | none => l)
      reportedStep := tset (s.gov p).reportedStep layer (step + 1) }
    generalize s.setGov p _ = t at hg ho hfr
    have hr : tfind (t.gov p).reported layer
        = some (match tfind (s.gov p).reported layer with | some o => joinStats o l | none => l) := by
      rw [hg]; exact (tfind_tset ..).trans (if_pos rfl)
    rw [State.reportNone_reported (by rw [hr]; rfl)]
    have hst : tget 0 (t.gov p).reportedStep layer = step + 1 := by rw [hg]; exact (tget_tset ..).trans (if_pos rfl)
    refine ⟨fun l' hl' => ?_, fun hn => ?_, ?_, fun k hk' => ?_, fun k hk' => ?_, fun k hk' => ?_, ?_, ho, hfr⟩
    · cases hl'; exact ⟨hr, hst⟩
    · exact absurd (hs.symm.trans (hn q hq)) (by simp)
    · rw [hg]; exact (tfind_tdel ..).trans (if_pos rfl)
    · rw [hg]; exact (tfind_tdel ..).trans (if_neg hk')
    · rw [hg]; exact (tfind_tset ..).trans (if_neg hk')
    · rw [hg]; exact (tget_tset ..).trans (if_neg hk')
    · rw [hg]
  | none =>
    rw [State.reportStats_nothing hs]
    rcases s.reportNone_cases p step layer with ⟨e, hno⟩ | e
    · rw [e]
      exact ⟨(by simp), fun hn hl' hr ht => absurd (hno hn hl' hr) ht, hs, fun _ _ => rfl, fun _ _ => rfl, fun _ _ => rfl, rfl,
        fun _ _ => rfl, rfl⟩
    · rw [e]
      obtain ⟨hg, ho, hfr⟩ := s.setGov_sets p { s.gov p with
        reported := tset (s.gov p).reported layer {}, reportedStep := tset (s.gov p).reportedStep layer (step + 1) }
      generalize s.setGov p _ = t at hg ho hfr
      refine ⟨(by simp), fun _ _ _ _ => ⟨?_, ?_⟩, ?_, fun k _ => ?_, fun k hk' => ?_, fun k hk' => ?_, ?_, ho, hfr⟩
      · rw [hg]; exact (tfind_tset ..).trans (if_pos rfl)
      · rw [hg]; exact (tget_tset ..).trans (if_pos rfl)
      · rw [hg]; exact hs
      · rw [hg]
      · rw [hg]; exact (tfind_tset ..).trans (if_neg hk')
      · rw [hg]; exact (tget_tset ..).trans (if_neg hk')
      · rw [hg]
/-! ### The format decision of a layer (R236) -/

/-- A layer's format state once the choice over a window has been made. -/
structure Chooses (l m : FormatState) : Prop where
  most : (m.aHat, m.uHat) = windowMax m.window
  choice : m.lastChoice = formatChoice m.aHat m.uHat
  run : m.run = (if m.lastChoice = l.inForce then 0 else if m.lastChoice = l.lastChoice then l.run + 1 else 1)
  inForce : m.inForce = l.inForce
  k : m.k = l.k
  pin : m.pin = l.pin
  forced : m.forced = l.forced

/-- A layer's format state whose choice takes effect with the next step. -/
structure Pends (l m : FormatState) : Prop where
  format : m.pendingFormat = (if 4 ≤ m.run then m.lastChoice else l.inForce)
  k : m.pendingK = nextK m.aHat

theorem FormatState.decideOver_chooses (l : FormatState) (win : List LayerStats) : Chooses l (l.decideOver win) ∧ Pends l (l.decideOver win) :=
  ⟨⟨rfl, rfl, rfl, rfl, rfl, rfl, rfl⟩, ⟨rfl, rfl⟩⟩

theorem FormatState.decide_window (l : FormatState) (st : LayerStats) (next : Nat) :
    (l.decide st next).window = (l.window ++ [st]).drop (l.window.length + 1 - 16) := by
  show (l.window ++ [st]).drop ((l.window ++ [st]).length - 16) = _
  rw [List.length_append]
  rfl

theorem FormatState.decide_chooses (l : FormatState) (st : LayerStats) (next : Nat) :
    Chooses l (l.decide st next) ∧ Pends l (l.decide st next) :=
  ⟨⟨rfl, rfl, rfl, rfl, rfl, rfl, rfl⟩, ⟨rfl, rfl⟩⟩

theorem FormatState.shadow_chooses (l : FormatState) (st : LayerStats) : Chooses l (l.shadow st) :=
  ⟨rfl, rfl, rfl, rfl, rfl, rfl, rfl⟩

/-- What one decision leaves of the partition's governor: the own sums kept for the root, none reported, the layer's new state. -/
structure LayerSettled (s t : State) (p layer : Nat) (st : LayerStats) (m : FormatState) : Prop where
  kept : (t.gov p).toRoot = (s.gov p).toRoot.filter (fun e => e.1 != layer) ++ [(layer, tget 0 (s.gov p).reportedStep layer - 1, st)]
  gone : tfind (t.gov p).reported layer = none
  reported : ∀ k, k ≠ layer → tfind (t.gov p).reported k = tfind (s.gov p).reported k
  layers : SameBut {} (s.gov p).layers (t.gov p).layers layer
  state : tget {} (t.gov p).layers layer = m
  rest : t.gov p = { s.gov p with toRoot := (t.gov p).toRoot, reported := (t.gov p).reported, layers := (t.gov p).layers }
  govs : SameBut {} s.govs t.govs p
  frame : t = { s with govs := t.govs, mc := t.mc }

/-- The governor after a decision that leaves the layer in state `m`. -/
def settledGov (s : State) (p layer : Nat) (st : LayerStats) (m : FormatState) : Governor :=
  { s.gov p with
    reported := tdel (s.gov p).reported layer
    toRoot := (s.gov p).toRoot.filter (fun e => e.1 != layer) ++ [(layer, tget 0 (s.gov p).reportedStep layer - 1, st)]
    layers := tput {} (s.gov p).layers layer m }

theorem State.settledGov_settles (s : State) (p layer : Nat) (st : LayerStats) (m : FormatState) :
    LayerSettled s (s.setGov p (settledGov s p layer st m)) p layer st m
      ∧ (s.setGov p (settledGov s p layer st m)).mc = s.mc := by
  obtain ⟨hg, ho, hfr⟩ := s.setGov_sets p (settledGov s p layer st m)
  generalize s.setGov p _ = t at hg ho hfr
  have hm : t.mc = s.mc := (congrArg State.mc hfr :)
  refine ⟨⟨by rw [hg]; rfl, ?_, fun k hk => ?_, ?_, ?_, by rw [hg]; rfl, ho, ?_⟩, hm⟩
  · rw [hg]; exact (tfind_tdel ..).trans (if_pos rfl)
  · rw [hg]; exact (tfind_tdel ..).trans (if_neg hk)
  · rw [hg]; exact sameBut_tput _ _ _ _
  · rw [hg]; exact tget_tput_same ..
  · rw [hm]; exact hfr

/-- A decision written to the journal is still that decision. -/
theorem LayerSettled.journal {s t : State} {p layer : Nat} {st : LayerStats} {m : FormatState} (h : LayerSettled s t p layer st m)
    (kind unit effect : Nat) : LayerSettled s (t.journal kind unit effect) p layer st m :=
  ⟨h.kept, h.gone, h.reported, h.layers, h.state, h.rest, h.govs,
    (congrArg (fun y : State => { y with mc := (t.journal kind unit effect).mc }) h.frame :)⟩

/-- The own sums, or the group's where the partition is one of a group. -/
def decidingSums (s : State) (p layer : Nat) (st : LayerStats) : Option LayerStats :=
  if inGroup s p = true then groupStats s p (tget 0 (s.gov p).reportedStep layer - 1) layer st else some st

theorem State.decideFormat_elsewhere {s : State} {p layer : Nat} {st : LayerStats} (h : decidedElsewhere s p = true) :
    s.decideFormat p layer st = s.setGov p (settledGov s p layer st ((tget {} (s.gov p).layers layer).shadow
      (if standsBy s = true then (groupStats s p (tget 0 (s.gov p).reportedStep layer - 1) layer st).getD st else st))) :=
  if_pos h

theorem State.decideFormat_own {s : State} {p layer : Nat} {st sum : LayerStats} (h : decidedElsewhere s p = false)
    (hs : decidingSums s p layer st = some sum) :
    s.decideFormat p layer st = (s.setGov p (settledGov s p layer st ((tget {} (s.gov p).layers layer).decide sum
      (tget 0 (s.gov p).reportedStep layer - 1 + 1)))).journal jFormat (p * 4096 + layer) (nextStepStart (s.part p)) := by
  refine (if_neg (by rw [h]; exact Bool.false_ne_true)).trans ?_
  unfold decidingSums at hs
  rw [hs] <;> rfl

theorem State.decideFormat_waiting {s : State} {p layer : Nat} {st : LayerStats} (h : decidedElsewhere s p = false)
    (hs : decidingSums s p layer st = none) :
    s.decideFormat p layer st = if s.now + 64 * cyPerTick < nextStepStart (s.part p) then s
      else (s.setGov p (settledGov s p layer st (tget {} (s.gov p).layers layer).decideLate)).journal jFormat (p * 4096 + layer)
        (nextStepStart (s.part p)) := by
  refine (if_neg (by rw [h]; exact Bool.false_ne_true)).trans ?_
  unfold decidingSums at hs
  rw [hs] <;> rfl

theorem execFormatDecision_eq {p layer : Nat} {s : State} {st : LayerStats} (hp : p < 8)
    (hr : tfind (s.gov p).reported layer = some st) :
    exec (.formatDecision p layer) s = .next (if sumsWait s p layer = true then s else s.decideFormat p layer st) := by
  refine (if_pos hp).trans (congrArg Host.Outcome.next ?_)
  dsimp only
  rw [hr] <;> rfl

theorem execFormatDecision_none {p layer : Nat} {s : State} (hp : p < 8) (hr : tfind (s.gov p).reported layer = none) :
    exec (.formatDecision p layer) s = .next s := by
  refine (if_pos hp).trans (congrArg Host.Outcome.next ?_)
  dsimp only
  rw [hr]

theorem formatDecision_waits (s : State) (p layer : Nat) (hp : p < 8)
    (h : tfind (s.gov p).reported layer = none ∨ ∃ q, q < 4 ∧ tfind (s.gov p).stats (q * 4096 + layer) ≠ none) :
    exec (.formatDecision p layer) s = .next s := by
  cases hr : tfind (s.gov p).reported layer with
  | none => exact execFormatDecision_none hp hr
  | some st =>
    obtain ⟨q, hq, hn⟩ := h.resolve_left (by rw [hr]; exact Option.some_ne_none st)
    have hw : sumsWait s p layer = true := by
      cases hw : sumsWait s p layer with
      | true => rfl
      | false => exact absurd (sumsWait_false.mp hw q hq) hn
    rw [execFormatDecision_eq hp hr, if_pos hw]
theorem formatDecision_clause (s : State) (p layer : Nat) (st : LayerStats) (hp : p < 8)
    (hr : tfind (s.gov p).reported layer = some st) (hn : ∀ q, q < 4 → tfind (s.gov p).stats (q * 4096 + layer) = none) :
    let step := tget 0 (s.gov p).reportedStep layer - 1
    let l := tget {} (s.gov p).layers layer
    let sums := if inGroup s p = true then groupStats s p step layer st else some st
    let late := decide (nextStepStart (s.part p) ≤ s.now + 64 * 1500)
    let done := fun (t : State) =>
      (t.gov p).toRoot = (s.gov p).toRoot.filter (fun e => e.1 != layer) ++ [(layer, step, st)]
      ∧ tfind (t.gov p).reported layer = none ∧ (∀ k, k ≠ layer → tfind (t.gov p).reported k = tfind (s.gov p).reported k)
      ∧ SameBut {} (s.gov p).layers (t.gov p).layers layer
      ∧ t.gov p = { s.gov p with toRoot := (t.gov p).toRoot, reported := (t.gov p).reported, layers := (t.gov p).layers }
      ∧ SameBut {} s.govs t.govs p ∧ t = { s with govs := t.govs, mc := t.mc }
    let chosen := fun (m : FormatState) =>
      (m.aHat, m.uHat) = windowMax m.window ∧ m.lastChoice = formatChoice m.aHat m.uHat
      ∧ m.run = (if m.lastChoice = l.inForce then 0 else if m.lastChoice = l.lastChoice then l.run + 1 else 1)
      ∧ m.inForce = l.inForce ∧ m.k = l.k ∧ m.pin = l.pin ∧ m.forced = l.forced
    let pends := fun (m : FormatState) =>
      m.pendingFormat = (if 4 ≤ m.run then m.lastChoice else l.inForce) ∧ m.pendingK = nextK m.aHat
    (decidedElsewhere s p = true → ∃ t, exec (.formatDecision p layer) s = .next t ∧ done t ∧ t.mc = s.mc
      ∧ (let m := tget {} (t.gov p).layers layer
         chosen m ∧ m.pendingFormat = l.pendingFormat ∧ m.pendingK = l.pendingK ∧ m.decidedFor = l.decidedFor
         ∧ m.window = (l.window ++ [if standsBy s = true then (groupStats s p step layer st).getD st else st]).drop (l.window.length + 1 - 16)))
    ∧ (decidedElsewhere s p = false →
      (∀ sum, sums = some sum → ∃ t, exec (.formatDecision p layer) s = .next t ∧ done t
        ∧ (let m := tget {} (t.gov p).layers layer
           chosen m ∧ pends m ∧ m.decidedFor = step + 1 ∧ m.window = (l.window ++ [sum]).drop (l.window.length + 1 - 16)))
      ∧ (sums = none → late = false → exec (.formatDecision p layer) s = .next s)
      ∧ (sums = none → late = true → ∃ t, exec (.formatDecision p layer) s = .next t ∧ done t
        ∧ (let m := tget {} (t.gov p).layers layer
           chosen m ∧ pends m ∧ m.decidedFor = l.decidedFor ∧ m.window = l.window))) := by
  intro step l sums late done chosen pends
  have hex : exec (.formatDecision p layer) s = .next (s.decideFormat p layer st) := by
    rw [execFormatDecision_eq hp hr, if_neg (by rw [sumsWait_false.mpr hn]; exact Bool.false_ne_true)]
  have hd : ∀ {t : State} {m}, LayerSettled s t p layer st m → done t :=
    fun h => ⟨h.kept, h.gone, h.reported, h.layers, h.rest, h.govs, h.frame⟩
  have hc : ∀ {m}, Chooses l m → chosen m := fun h => ⟨h.most, h.choice, h.run, h.inForce, h.k, h.pin, h.forced⟩
  have hp' : ∀ {m}, Pends l m → pends m := fun h => ⟨h.format, h.k⟩
  have hl : late = decide (¬ s.now + 64 * cyPerTick < nextStepStart (s.part p)) := decide_eq_decide.mpr Nat.not_lt.symm
  refine ⟨fun h => ?_, fun h => ⟨fun sum hs => ?_, fun hs hlate => ?_, fun hs hlate => ?_⟩⟩
  · obtain ⟨hset, hmc⟩ := s.settledGov_settles p layer st
      (l.shadow (if standsBy s = true then (groupStats s p step layer st).getD st else st))
    refine ⟨_, hex.trans (congrArg _ (State.decideFormat_elsewhere h)), hd hset, hmc, ?_⟩
    rw [hset.state]
    exact ⟨hc (FormatState.shadow_chooses ..), rfl, rfl, rfl, FormatState.decide_window _ _ 0⟩
  · have hset := ((s.settledGov_settles p layer st (l.decide sum (step + 1))).1).journal jFormat (p * 4096 + layer)
      (nextStepStart (s.part p))
    refine ⟨_, hex.trans (congrArg _ (State.decideFormat_own h hs)), hd hset, ?_⟩
    rw [hset.state]
    exact ⟨hc (FormatState.decide_chooses ..).1, hp' (FormatState.decide_chooses ..).2, rfl, FormatState.decide_window ..⟩
  · rw [hex, State.decideFormat_waiting h hs, if_pos (by rw [hl] at hlate; simpa using hlate)]
  · have hset := ((s.settledGov_settles p layer st l.decideLate).1).journal jFormat (p * 4096 + layer)
      (nextStepStart (s.part p))
    have hw : ¬ s.now + 64 * cyPerTick < nextStepStart (s.part p) := by rw [hl] at hlate; simpa using hlate
    refine ⟨_, hex.trans (congrArg _ ((State.decideFormat_waiting h hs).trans (if_neg hw))), hd hset, ?_⟩
    rw [hset.state]
    exact ⟨hc (FormatState.decideOver_chooses ..).1, hp' (FormatState.decideOver_chooses ..).2, rfl, rfl⟩

/-! ### A layer's pin (R237) -/

theorem doLayerPin_range {p layer pin : Nat} (s : State) (h : 3 < pin ∨ 8 ≤ p) : doLayerPin p layer pin s = (s, stRange) := if_pos h

theorem doLayerPin_index {p layer pin : Nat} {s : State} (h : ¬ (3 < pin ∨ 8 ≤ p)) (hl : layer ∉ layersOf s p) :
    doLayerPin p layer pin s = (s, stIndex) :=
  (if_neg h).trans (if_pos (by simpa using hl))

/-- A layer's format state with its pin written: at once, or at the next step of a partition that has marks. -/
def pinned (s : State) (p pin : Nat) (l : FormatState) : FormatState :=
  if (s.part p).marks = true then { l with pinNext := some pin } else { l with pin := pin, pinNext := none }

theorem doLayerPin_pins {p layer pin : Nat} {s : State} (h : ¬ (3 < pin ∨ 8 ≤ p)) (hl : layer ∈ layersOf s p) :
    doLayerPin p layer pin s = (s.setGov p { s.gov p with
      layers := tput {} (s.gov p).layers layer (pinned s p pin (tget {} (s.gov p).layers layer)) }, stOk) :=
  (if_neg h).trans (if_neg (by simpa using hl))

theorem layerPin_clause (s : State) (cl : Client) (p layer pin : Nat) (hs : Serves s cl false) :
    (3 < pin ∨ 8 ≤ p → exec (.layerPin cl p layer pin) s = .next { s with resp := answered stRange })
    ∧ (pin ≤ 3 → p < 8 → layer ∉ layersOf s p → exec (.layerPin cl p layer pin) s = .next { s with resp := answered stIndex })
    ∧ (pin ≤ 3 → p < 8 → layer ∈ layersOf s p →
      let l := tget {} (s.gov p).layers layer
      ∃ t, exec (.layerPin cl p layer pin) s = .next t ∧ t.resp = answered stOk
        ∧ tget {} (t.gov p).layers layer
          = (if (s.part p).marks = true then { l with pinNext := some pin } else { l with pin := pin, pinNext := none })
        ∧ t.gov p = { s.gov p with layers := (t.gov p).layers }
        ∧ SameBut {} (s.gov p).layers (t.gov p).layers layer
        ∧ SameBut {} s.govs t.govs p ∧ t = { s with govs := t.govs, resp := t.resp }) := by
  refine ⟨fun h => ?_, fun h1 h2 hl => ?_, fun h1 h2 hl => ?_⟩
  · exact congrArg Host.Outcome.next (command_unchanged hs (doLayerPin_range s.asked h))
  · exact congrArg Host.Outcome.next (command_unchanged hs (doLayerPin_index (s := s.asked) (by omega) hl))
  · intro l
    have e := doLayerPin_pins (s := s.asked) (pin := pin) (by omega) hl
    obtain ⟨hg, ho, hfr⟩ := s.asked.setGov_sets p { s.gov p with
      layers := tput {} (s.gov p).layers layer (pinned s p pin l) }
    refine ⟨_, congrArg Host.Outcome.next (command_changed hs e rfl), rfl, ?_, ?_, ?_, ho, rfl⟩
    · exact (congrArg (fun g : Governor => tget {} g.layers layer) hg).trans (tget_tput_same ..)
    · exact hg.trans (congrArg (fun g : Governor => ({ s.gov p with layers := g.layers } : Governor)) hg.symm)
    · intro j hj
      exact (congrArg (fun g : Governor => tget {} g.layers j) hg).trans (sameBut_tput _ _ _ _ j hj)
/-! ### The stash decision of a micro-batch (R243, R244) -/

/-- The decision of a micro-batch is noted in its partition's governor, which changed in nothing else but its stash log. -/
structure StashNoted (s t : State) (p step o : Nat) : Prop where
  done : (t.gov p).stashDone = (s.gov p).stashDone ++ [(step, o)]
  rest : t.gov p = { s.gov p with stashDone := (t.gov p).stashDone, stashLog := (t.gov p).stashLog }
  govs : SameBut {} s.govs t.govs p

/-- The micro-batch's decision noted, before anything is asked for. -/
def State.stashNoted (s : State) (p step o : Nat) : State :=
  s.setGov p { s.gov p with stashDone := (s.gov p).stashDone ++ [(step, o)] }

theorem State.stashNoted_notes (s : State) (p step o : Nat) :
    StashNoted s (s.stashNoted p step o) p step o
      ∧ ((s.stashNoted p step o).gov p).stashLog = (s.gov p).stashLog
      ∧ s.stashNoted p step o = { s with govs := (s.stashNoted p step o).govs } := by
  obtain ⟨hg, ho, hfr⟩ := s.setGov_sets p { s.gov p with stashDone := (s.gov p).stashDone ++ [(step, o)] }
  change (s.stashNoted p step o).gov p = _ at hg
  change SameBut _ _ (s.stashNoted p step o).govs _ at ho
  exact ⟨⟨by rw [hg], by rw [hg], ho⟩, by rw [hg], hfr⟩

/-- What is appended to a list that keeps its last entries stands last. -/
theorem getLast?_capped {α : Type} (xs : List α) (x : α) {n : Nat} (hn : 0 < n) :
    ((xs ++ [x]).drop ((xs ++ [x]).length - n)).getLast? = some x := by
  have hl : (xs ++ [x]).length = xs.length + 1 := List.length_append
  rw [List.getLast?_drop, if_neg (by omega), List.getLast?_concat]

/-- A line at the end of the stash log: nothing else of the governor changed, and no other governor. -/
theorem State.stashLine_lines (u : State) (p : Nat) (l : StashLine) :
    ((u.stashLine p l).gov p).stashLog.getLast? = some l
      ∧ (u.stashLine p l).gov p = { u.gov p with stashLog := ((u.stashLine p l).gov p).stashLog }
      ∧ SameBut {} u.govs (u.stashLine p l).govs p
      ∧ u.stashLine p l = { u with govs := (u.stashLine p l).govs } := by
  have hc : (((u.gov p).stashLog ++ [l]).drop (((u.gov p).stashLog ++ [l]).length - 256)).getLast? = some l :=
    getLast?_capped _ l (Nat.succ_pos 255)
  have e : u.stashLine p l = u.setGov p
      { u.gov p with stashLog := ((u.gov p).stashLog ++ [l]).drop (((u.gov p).stashLog ++ [l]).length - 256) } := rfl
  generalize List.drop _ _ = xs at hc e
  obtain ⟨hg, ho, hfr⟩ := u.setGov_sets p { u.gov p with stashLog := xs }
  rw [← e] at hg ho hfr
  exact ⟨(congrArg (fun g : Governor => g.stashLog.getLast?) hg).trans hc, by rw [hg], ho, hfr⟩

/-- The decision's line stands at the end of the stash log. -/
def StashLined (t : State) (p : Nat) (l : StashLine) : Prop := (t.gov p).stashLog.getLast? = some l

/-- The decision noted, written to the journal and to the stash log. -/
def State.stashLogged (s : State) (p step o time : Nat) (l : StashLine) : State :=
  ((s.stashNoted p step o).journal jStash p time).stashLine p l

theorem State.stashLogged_logs (s : State) (p step o time : Nat) (l : StashLine) :
    StashNoted s (s.stashLogged p step o time l) p step o ∧ StashLined (s.stashLogged p step o time l) p l
      ∧ s.stashLogged p step o time l
        = { s with govs := (s.stashLogged p step o time l).govs, mc := (s.stashLogged p step o time l).mc }
      ∧ (s.stashLogged p step o time l).mc.restarting = s.mc.restarting := by
  obtain ⟨hn, hlog, hfr⟩ := s.stashNoted_notes p step o
  unfold State.stashLogged
  generalize s.stashNoted p step o = u at hn hlog hfr
  obtain ⟨hl, hg, ho, hf⟩ := (u.journal jStash p time).stashLine_lines p l
  generalize (u.journal jStash p time).stashLine p l = t at hl hg ho hf
  have hg' : t.gov p = { u.gov p with stashLog := (t.gov p).stashLog } := hg
  have hd : (t.gov p).stashDone = (u.gov p).stashDone := (congrArg Governor.stashDone hg' :)
  have hmc : t.mc = (u.journal jStash p time).mc := (congrArg State.mc hf :)
  refine ⟨⟨hd.trans hn.done, ?_, fun j hj => (ho j hj).trans (hn.govs j hj)⟩, hl, ?_, ?_⟩
  · rw [hd]
    exact hg'.trans (congrArg (fun g : Governor => { g with stashLog := (t.gov p).stashLog }) hn.rest)
  · rw [hmc]
    exact hf.trans (congrArg (fun y : State => { y with govs := t.govs, mc := (u.journal jStash p time).mc }) hfr :)
  · rw [hmc]
    exact (congrArg (fun y : State => y.mc.restarting) hfr :)

/-- The event is logged in a state that has the same log, configuration and no other restart. -/
theorem logged_event_after {s u : State} (hlog : u.log = s.log) (hmc : u.mc.restarting = s.mc.restarting)
    (hcfg : u.cfg 0x8000 3 = s.cfg 0x8000 3) (sev code unit detail : Nat) :
    Logged s (u.event sev code unit detail) sev code unit detail := by
  have h := logged_event_of (s := u) (u := u) rfl rfl rfl sev code unit detail
  unfold Logged at h ⊢
  rw [hmc, hcfg, hlog] at h
  exact h

/-- The request of a stash decision can no longer take effect in time (R243). -/
def stashLate (s : State) (p : Nat) (r : VariantReq) : Prop :=
  reqTime (s.part p) r < s.now + 1500 ∨ passedElsewhere s p (reqTime (s.part p) r) = true

/-- The line of a decision that asks for `r`. -/
def stashLineFor (s : State) (p step o kind segs smax bit : Nat) (r : VariantReq) : StashLine :=
  { time := reqTime (s.part p) r, step := step, outer := o, bit := bit, kind := kind, s := segs, smax := smax }

/-- A latched request of partition `p`, with no other partition's record changed. -/
def Latched (s t : State) (p : Nat) (r : VariantReq) : Prop :=
  t.part p = { s.part p with latches := (s.part p).latches ++ [r] } ∧ SameBut {} s.parts t.parts p

/-- A stash decision that asks for a variant: noted, in the log, and latched. -/
structure StashAsked (s t : State) (p step o : Nat) (l : StashLine) (r : VariantReq) : Prop where
  noted : StashNoted s t p step o
  line : StashLined t p l
  latched : Latched s t p r
  frame : t = { s with govs := t.govs, mc := t.mc, parts := t.parts }

theorem State.latch_asks {s u : State} {p step o : Nat} {l : StashLine} (r : VariantReq) (hn : StashNoted s u p step o)
    (hl : StashLined u p l) (hf : u = { s with govs := u.govs, mc := u.mc }) :
    StashAsked s (u.setPart p { u.part p with latches := (u.part p).latches ++ [r] }) p step o l r := by
  have hp : u.parts = s.parts := (congrArg State.parts hf :)
  have hq : u.part p = s.part p := by rw [State.part, State.part, hp]
  refine ⟨⟨hn.done, hn.rest, hn.govs⟩, hl, ⟨?_, ?_⟩, ?_⟩
  · rw [hq]
    exact tget_tput_same _ _ _ _
  · intro j hj
    exact (sameBut_tput _ _ _ _ j hj).trans (by rw [hp])
  · exact (congrArg (fun y : State => { y with parts := (u.setPart p { u.part p with latches := (u.part p).latches ++ [r] }).parts }) hf :)

/-- A stash decision that asks for a fault: noted, in the log, and the overflow kept for its firing. -/
structure OverflowAsked (s t : State) (p step o : Nat) (l : StashLine) (r : VariantReq) : Prop where
  noted : StashNoted s t p step o
  line : StashLined t p l
  asked : t.ctlOf p = { s.ctlOf p with overflowAt := (s.ctlOf p).overflowAt ++ [r] }
  ctl : SameBut {} s.ctl t.ctl p
  frame : t = { s with govs := t.govs, mc := t.mc, ctl := t.ctl }

theorem State.overflow_asks {s u : State} {p step o : Nat} {l : StashLine} (r : VariantReq) (hn : StashNoted s u p step o)
    (hl : StashLined u p l) (hf : u = { s with govs := u.govs, mc := u.mc }) :
    OverflowAsked s (u.setCtl p { u.ctlOf p with overflowAt := (u.ctlOf p).overflowAt ++ [r] }) p step o l r := by
  have hp : u.ctl = s.ctl := (congrArg State.ctl hf :)
  have hq : u.ctlOf p = s.ctlOf p := by rw [State.ctlOf, State.ctlOf, hp]
  refine ⟨⟨hn.done, hn.rest, hn.govs⟩, hl, ?_, ?_, ?_⟩
  · rw [hq]
    exact tget_tput_same _ _ _ _
  · intro j hj
    exact (sameBut_tput _ _ _ _ j hj).trans (by rw [hp])
  · exact (congrArg (fun y : State => { y with ctl := (u.setCtl p { u.ctlOf p with overflowAt := (u.ctlOf p).overflowAt ++ [r] }).ctl }) hf :)

theorem State.requestStash_late {s : State} {p o kind segs smax bit : Nat} {r : VariantReq} (step : Nat) (h : stashLate s p r) :
    (s.stashNoted p step o).requestStash p o kind segs smax bit r = (s.stashNoted p step o).answer stTimeout :=
  if_pos h

theorem State.requestStash_variant {s : State} {p step o kind segs smax bit : Nat} {r : VariantReq} (h : ¬ stashLate s p r)
    (hs : (s.part p).n0 + r.step = step) (hk : kind ≠ 3) :
    StashAsked s ((s.stashNoted p step o).requestStash p o kind segs smax bit r) p step o (stashLineFor s p step o kind segs smax bit r) r := by
  obtain ⟨hn, hl, hf, -⟩ := s.stashLogged_logs p step o (reqTime (s.part p) r) (stashLineFor s p step o kind segs smax bit r)
  have e : (s.stashNoted p step o).requestStash p o kind segs smax bit r
      = (fun u : State => u.setPart p { u.part p with latches := (u.part p).latches ++ [r] })
        (s.stashLogged p step o (reqTime (s.part p) r) (stashLineFor s p step o kind segs smax bit r)) := by
    refine (if_neg h).trans ((if_neg hk).trans ?_)
    subst hs
    rfl
  rw [e]
  exact State.latch_asks r hn hl hf

theorem State.requestStash_fault {s : State} {p step o segs smax bit : Nat} {r : VariantReq} (h : ¬ stashLate s p r)
    (hs : (s.part p).n0 + r.step = step) :
    OverflowAsked s ((s.stashNoted p step o).requestStash p o 3 segs smax bit r) p step o (stashLineFor s p step o 3 segs smax bit r) r := by
  obtain ⟨hn, hl, hf, -⟩ := s.stashLogged_logs p step o (reqTime (s.part p) r) (stashLineFor s p step o 3 segs smax bit r)
  have e : (s.stashNoted p step o).requestStash p o 3 segs smax bit r
      = (fun u : State => u.setCtl p { u.ctlOf p with overflowAt := (u.ctlOf p).overflowAt ++ [r] })
        (s.stashLogged p step o (reqTime (s.part p) r) (stashLineFor s p step o 3 segs smax bit r)) := by
    refine (if_neg h).trans ((if_pos rfl).trans ?_)
    subst hs
    rfl
  rw [e]
  exact State.overflow_asks r hn hl hf
/-- A stash decision of an event ahead that needs nothing: noted, in the log, and latched without a bit (R243). -/
theorem State.noteStash_latches {s : State} {p step o segs smax : Nat} {r : VariantReq} (h : s.now < reqTime (s.part p) r)
    (hs : (s.part p).n0 + r.step = step) :
    StashAsked s ((s.stashNoted p step o).noteStash p o segs smax r) p step o (stashLineFor s p step o 0 segs smax 0xFF r)
      { r with mask := 0 } := by
  obtain ⟨hn, hl, hf, -⟩ := s.stashLogged_logs p step o (reqTime (s.part p) r) (stashLineFor s p step o 0 segs smax 0xFF r)
  have e : (s.stashNoted p step o).noteStash p o segs smax r
      = (fun u : State => u.setPart p { u.part p with latches := (u.part p).latches ++ [{ r with mask := 0 }] })
        (s.stashLogged p step o (reqTime (s.part p) r) (stashLineFor s p step o 0 segs smax 0xFF r)) := by
    refine (if_neg (Nat.not_le.mpr h)).trans ?_
    subst hs
    rfl
  rw [e]
  exact State.latch_asks _ hn hl hf

/-- One of an event that has passed: noted, in the log, and its event at once. -/
theorem State.noteStash_logs {s : State} {p step o segs smax : Nat} {r : VariantReq} (h : reqTime (s.part p) r ≤ s.now)
    (hs : (s.part p).n0 + r.step = step) :
    let t := (s.stashNoted p step o).noteStash p o segs smax r
    StashNoted s t p step o ∧ StashLined t p (stashLineFor s p step o 0 segs smax 0xFF r)
      ∧ Logged s t sevInfo evStashDecision p (256 * 0xFF)
      ∧ t = { s with govs := t.govs, mc := t.mc, log := t.log, hosts := t.hosts, sivar := t.sivar } := by
  intro t
  obtain ⟨hn, hl, hf, hrs⟩ := s.stashLogged_logs p step o (reqTime (s.part p) r) (stashLineFor s p step o 0 segs smax 0xFF r)
  have e : t = (fun u : State => (u.event sevInfo evStashDecision p (256 * 0xFF)).journalDone jStash p)
        (s.stashLogged p step o (reqTime (s.part p) r) (stashLineFor s p step o 0 segs smax 0xFF r)) := by
    refine (if_pos h).trans ?_
    subst hs
    rfl
  generalize s.stashLogged p step o _ _ = u at hn hl hf hrs e
  clear_value t
  have hlog := logged_event_after (u := u) (s := s) (congrArg State.log hf :) hrs (by rw [hf]; rfl) sevInfo evStashDecision p (256 * 0xFF)
  have hev := u.event_frame sevInfo evStashDecision p (256 * 0xFF)
  dsimp only at e
  generalize u.event sevInfo evStashDecision p (256 * 0xFF) = v at hlog hev e
  subst e
  have hgv : (v.journalDone jStash p).gov p = u.gov p := by
    show tget {} v.govs p = tget {} u.govs p
    rw [(congrArg State.govs hev :)]
  refine ⟨⟨by rw [hgv]; exact hn.done, by rw [hgv]; exact hn.rest, ?_⟩, ?_, hlog, ?_⟩
  · show SameBut _ _ v.govs _
    rw [(congrArg State.govs hev :)]
    exact hn.govs
  · unfold StashLined
    rw [hgv]
    exact hl
  · have hg : v.govs = u.govs := (congrArg State.govs hev :)
    refine (congrArg (fun y : State => { y with mc := (v.journalDone jStash p).mc }) hev).trans ?_
    refine (congrArg (fun y : State => { y with mc := (v.journalDone jStash p).mc, log := v.log, hosts := v.hosts, sivar := v.sivar }) hf).trans ?_
    rw [← hg]
    rfl

/-- The stash decision is asked for: the partition has its marks, the groups' segments are known, and nothing decided it before. -/
def StashAsks (s : State) (p step o segs : Nat) : Prop :=
  (s.part p).marks = true ∧ groupSegments s p step o = some segs ∧ (step, o) ∉ (s.gov p).stashDone
    ∧ decidedElsewhere s p = false ∧ (s.part p).n0 ≤ step

theorem execStashDecision_asks {s : State} {p step o segs : Nat} (hp : p < 8) (h : StashAsks s p step o segs) :
    exec (.stashDecision p step o segs) s = .next ((s.stashNoted p step o).decideStash p (step - (s.part p).n0) o segs) := by
  obtain ⟨hm, hg, hd, he, hn⟩ := h
  refine (if_pos hp).trans (congrArg Host.Outcome.next (if_neg ?_))
  rw [hm, he]
  simp [hg, hd, hn]

theorem execStashDecision_idle {s : State} {p step o segs : Nat} (hp : p < 8) (h : ¬ StashAsks s p step o segs) :
    exec (.stashDecision p step o segs) s = .next s := by
  refine (if_pos hp).trans (congrArg Host.Outcome.next (if_pos ?_))
  by_contra hc
  refine h ?_
  simp only [Bool.or_eq_true, Bool.not_eq_true', decide_eq_false_iff_not, decide_eq_true_eq, not_or, not_not] at hc
  obtain ⟨⟨⟨⟨hm, hg⟩, hd⟩, he⟩, hn⟩ := hc
  exact ⟨by simpa using hm, hg, hd, by simpa using he, by omega⟩

/-- The least variant is one of those it was taken from. -/
theorem leastStash_mem {ls : List StashLayout} {v : StashLayout} (h : leastStash ls = some v) : v ∈ ls := by
  cases ls with
  | nil => exact absurd h (by simp [leastStash])
  | cons l ls =>
    have hf : ∀ (xs : List StashLayout) (m : StashLayout),
        xs.foldl (fun m x => if x.smax < m.smax ∨ (x.smax = m.smax ∧ x.bit < m.bit) then x else m) m ∈ m :: xs := by
      intro xs
      induction xs with
      | nil => exact fun m => List.mem_singleton.mpr rfl
      | cons x xs ih =>
        intro m
        rw [List.foldl_cons]
        split
        · exact List.mem_cons_of_mem _ (ih x)
        · rcases List.mem_cons.mp (ih m) with e | e
          · rw [e]; exact List.mem_cons_self
          · exact List.mem_cons_of_mem _ (List.mem_cons_of_mem _ e)
    have e : ls.foldl (fun m x => if x.smax < m.smax ∨ (x.smax = m.smax ∧ x.bit < m.bit) then x else m) l = v := Option.some.inj h
    rw [← e]
    exact hf ls l

/-- A wanted variant recomputes or offloads: it is never the base layout's kind, nor the fault's. -/
theorem stashWant_kind {s : State} {p segs : Nat} {b v : StashLayout} (h : stashWant s p segs b = .variant v) : v.kind ≠ 3 := by
  unfold stashWant stashWantFor at h
  dsimp only at h
  split at h
  · cases h
  · split at h
    · cases h
    · split at h
      · rename_i w hw
        cases h
        have hm := leastStash_mem hw
        rw [List.mem_filter] at hm
        have hk : v.kind = if stashPolicy s p = 0 then 1 else 2 := by simpa using (Bool.and_eq_true_iff.mp (Bool.and_eq_true_iff.mp hm.2).1).1
        rw [hk]
        split <;> decide
      · cases h

theorem stashWant_none_iff {s : State} {p segs : Nat} {b : StashLayout} (h : segs ≤ b.smax) : stashWant s p segs b = .none := if_pos h
/-- What a micro-batch's stash decision asks for. -/
def stashAsk (s : State) (p n o segs : Nat) (b l : StashLayout) (w : BitVec 16) (detail : Nat) : VariantReq :=
  { mask := stashMask s p, word := w, entry := l.latchEntry, inner := l.latchInner, outer := o, step := n
    detail := some detail, choice := some (stashWantFor s p 0 segs b).word }

theorem State.decideStash_unlaid {s : State} {p step o n segs : Nat} (h : baseLayout s p = none) :
    (s.stashNoted p step o).decideStash p n o segs = s.stashNoted p step o := by
  have h' : baseLayout (s.stashNoted p step o) p = none := h
  unfold State.decideStash
  rw [h']

theorem State.decideStash_fits {s : State} {p step o n segs : Nat} {b : StashLayout} (h : baseLayout s p = some b) (hs : segs ≤ b.smax) :
    (s.stashNoted p step o).decideStash p n o segs
      = if wordAhead s p &&& stashMask s p ≠ 0 then
          (s.stashNoted p step o).requestStash p o 0 segs b.smax 0xFF (stashAsk s p n o segs b b 0 (256 * 0xFF))
        else (s.stashNoted p step o).noteStash p o segs b.smax (stashAsk s p n o segs b b 0 (256 * 0xFF)) := by
  have h' : baseLayout (s.stashNoted p step o) p = some b := h
  have hw : stashWant (s.stashNoted p step o) p segs b = .none := stashWant_none_iff hs
  unfold State.decideStash
  rw [h']
  dsimp only
  rw [hw] <;> rfl

theorem State.decideStash_variant {s : State} {p step o n segs : Nat} {b v : StashLayout} (h : baseLayout s p = some b)
    (hv : stashWant s p segs b = .variant v) :
    (s.stashNoted p step o).decideStash p n o segs = (s.stashNoted p step o).requestStash p o v.kind segs v.smax v.bit
      (stashAsk s p n o segs b v (BitVec.ofNat 16 (2 ^ v.bit)) (256 * v.bit + v.kind)) := by
  have h' : baseLayout (s.stashNoted p step o) p = some b := h
  have hw : stashWant (s.stashNoted p step o) p segs b = .variant v := hv
  unfold State.decideStash
  rw [h']
  dsimp only
  rw [hw] <;> rfl

theorem State.decideStash_fault {s : State} {p step o n segs : Nat} {b : StashLayout} (h : baseLayout s p = some b)
    (hv : stashWant s p segs b = .fault) :
    (s.stashNoted p step o).decideStash p n o segs
      = (s.stashNoted p step o).requestStash p o 3 segs b.smax 0xFF (stashAsk s p n o segs b b 0 segs) := by
  have h' : baseLayout (s.stashNoted p step o) p = some b := h
  have hw : stashWant (s.stashNoted p step o) p segs b = .fault := hv
  unfold State.decideStash
  rw [h']
  dsimp only
  rw [hw] <;> rfl

theorem stashDecision_clause (s : State) (p step o segs : Nat) (hp : p < 8) :
    let asks := (s.part p).marks = true ∧ groupSegments s p step o = some segs ∧ (step, o) ∉ (s.gov p).stashDone
      ∧ decidedElsewhere s p = false ∧ (s.part p).n0 ≤ step
    (¬ asks → exec (.stashDecision p step o segs) s = .next s)
    ∧ (asks →
      let n := step - (s.part p).n0
      let noted := fun (t : State) => (t.gov p).stashDone = (s.gov p).stashDone ++ [(step, o)]
        ∧ t.gov p = { s.gov p with stashDone := (t.gov p).stashDone, stashLog := (t.gov p).stashLog } ∧ SameBut {} s.govs t.govs p
      let line := fun (t : State) (kind bit smax time : Nat) =>
        ∃ l, (t.gov p).stashLog.getLast? = some l ∧ l.step = step ∧ l.outer = o ∧ l.kind = kind ∧ l.bit = bit ∧ l.s = segs
          ∧ l.smax = smax ∧ l.time = time
      (baseLayout s p = none → ∃ t, exec (.stashDecision p step o segs) s = .next t ∧ noted t ∧ t = { s with govs := t.govs })
      ∧ (∀ b, baseLayout s p = some b →
        let ask := fun (l : StashLayout) (w : BitVec 16) (detail : Nat) =>
          ({ mask := stashMask s p, word := w, entry := l.latchEntry, inner := l.latchInner, outer := o, step := n
             detail := some detail, choice := some (stashWantFor s p 0 segs b).word } : VariantReq)
        let refused := fun (r : VariantReq) => reqTime (s.part p) r < s.now + 1500 ∨ passedElsewhere s p (reqTime (s.part p) r) = true
        let late := ∃ t, exec (.stashDecision p step o segs) s = .next t ∧ noted t ∧ (t.gov p).stashLog = (s.gov p).stashLog
          ∧ t = { s.answer stTimeout with govs := t.govs }
        let latched := fun (t : State) (r : VariantReq) =>
          t.part p = { s.part p with latches := (s.part p).latches ++ [r] } ∧ SameBut {} s.parts t.parts p
        (segs ≤ b.smax → wordAhead s p &&& stashMask s p = 0 →
          let r := ask b 0 (256 * 0xFF)
          ∃ t, exec (.stashDecision p step o segs) s = .next t ∧ noted t ∧ line t 0 0xFF b.smax (reqTime (s.part p) r)
            ∧ (s.now < reqTime (s.part p) r → latched t { r with mask := 0 } ∧ t = { s with govs := t.govs, mc := t.mc, parts := t.parts })
            ∧ (reqTime (s.part p) r ≤ s.now → Logged s t sevInfo evStashDecision p (256 * 0xFF)
                ∧ t = { s with govs := t.govs, mc := t.mc, log := t.log, hosts := t.hosts, sivar := t.sivar }))
        ∧ (segs ≤ b.smax → wordAhead s p &&& stashMask s p ≠ 0 →
          let r := ask b 0 (256 * 0xFF)
          (refused r → late)
          ∧ (¬ refused r → ∃ t, exec (.stashDecision p step o segs) s = .next t ∧ noted t ∧ line t 0 0xFF b.smax (reqTime (s.part p) r)
              ∧ latched t r ∧ t = { s with govs := t.govs, mc := t.mc, parts := t.parts }))
        ∧ (∀ v, stashWant s p segs b = .variant v →
          let r := ask v (BitVec.ofNat 16 (2 ^ v.bit)) (256 * v.bit + v.kind)
          (refused r → late)
          ∧ (¬ refused r → ∃ t, exec (.stashDecision p step o segs) s = .next t ∧ noted t
              ∧ line t v.kind v.bit v.smax (reqTime (s.part p) r)
              ∧ latched t r ∧ t = { s with govs := t.govs, mc := t.mc, parts := t.parts }))
        ∧ (stashWant s p segs b = .fault →
          let r := ask b 0 segs
          (refused r → late)
          ∧ (¬ refused r → ∃ t, exec (.stashDecision p step o segs) s = .next t ∧ noted t
              ∧ line t 3 0xFF b.smax (reqTime (s.part p) r)
              ∧ (t.ctlOf p) = { s.ctlOf p with overflowAt := (s.ctlOf p).overflowAt ++ [r] }
              ∧ SameBut {} s.ctl t.ctl p ∧ t = { s with govs := t.govs, mc := t.mc, ctl := t.ctl })))) := by
  intro asks
  refine ⟨fun h => execStashDecision_idle hp h, fun hasks => ?_⟩
  intro n noted line
  have hex := execStashDecision_asks hp hasks
  have hstep : (s.part p).n0 + n = step := Nat.add_sub_cancel' hasks.2.2.2.2
  have hno : ∀ {t : State}, StashNoted s t p step o → noted t := fun h => ⟨h.done, h.rest, h.govs⟩
  have hli : ∀ {t : State} {kind bit smax : Nat} {r : VariantReq},
      StashLined t p (stashLineFor s p step o kind segs smax bit r) → line t kind bit smax (reqTime (s.part p) r) :=
    fun h => ⟨_, h, rfl, rfl, rfl, rfl, rfl, rfl, rfl⟩
  obtain ⟨hn0, hl0, hf0⟩ := s.stashNoted_notes p step o
  refine ⟨fun hb => ⟨_, hex.trans (congrArg _ (State.decideStash_unlaid hb)), hno hn0, hf0⟩, fun b hb => ?_⟩
  intro ask refused late latched
  have hlate : ∀ {kind smax bit : Nat} {r : VariantReq},
      (s.stashNoted p step o).decideStash p n o segs = (s.stashNoted p step o).requestStash p o kind segs smax bit r → refused r → late :=
    fun he hr => ⟨_, hex.trans (congrArg _ (he.trans (State.requestStash_late step hr))), hno ⟨hn0.done, hn0.rest, hn0.govs⟩, hl0,
      (congrArg (fun y : State => y.answer stTimeout) hf0 :)⟩
  have hasked : ∀ {kind smax bit : Nat} {r : VariantReq}, r.step = n → kind ≠ 3 →
      (s.stashNoted p step o).decideStash p n o segs = (s.stashNoted p step o).requestStash p o kind segs smax bit r → ¬ refused r →
      ∃ t, exec (.stashDecision p step o segs) s = .next t ∧ noted t ∧ line t kind bit smax (reqTime (s.part p) r)
        ∧ latched t r ∧ t = { s with govs := t.govs, mc := t.mc, parts := t.parts } := by
    intro kind smax bit r hrn hk he hr
    have ha := State.requestStash_variant (s := s) (p := p) (step := step) (o := o) (segs := segs) (smax := smax) (bit := bit) hr
      (by rw [hrn]; exact hstep) hk
    exact ⟨_, hex.trans (congrArg _ he), hno ha.noted, hli ha.line, ha.latched, ha.frame⟩
  refine ⟨fun hs hw => ?_, fun hs hw => ?_, fun v hv => ?_, fun hv => ?_⟩
  · intro r
    have he := (State.decideStash_fits (step := step) (o := o) (n := n) hb hs).trans (if_neg (not_not.mpr hw))
    by_cases ht : s.now < reqTime (s.part p) r
    · have ha := State.noteStash_latches (step := step) (o := o) (segs := segs) (smax := b.smax) ht hstep
      exact ⟨_, hex.trans (congrArg _ he), hno ha.noted, hli ha.line, fun _ => ⟨ha.latched, ha.frame⟩, fun hx => absurd ht (Nat.not_lt.mpr hx)⟩
    · obtain ⟨hn1, hl1, hlog, hfr⟩ := State.noteStash_logs (step := step) (o := o) (segs := segs) (smax := b.smax) (Nat.not_lt.mp ht) hstep
      exact ⟨_, hex.trans (congrArg _ he), hno hn1, hli hl1, fun hx => absurd hx ht, fun _ => ⟨hlog, hfr⟩⟩
  · have he := (State.decideStash_fits (step := step) (o := o) (n := n) hb hs).trans (if_pos hw)
    exact ⟨hlate he, hasked rfl (by decide) he⟩
  · have he := State.decideStash_variant (step := step) (o := o) (n := n) hb hv
    exact ⟨hlate he, hasked rfl (stashWant_kind hv) he⟩
  · have he := State.decideStash_fault (step := step) (o := o) (n := n) hb hv
    refine ⟨hlate he, fun hr => ?_⟩
    have ha := State.requestStash_fault (s := s) (p := p) (step := step) (o := o) (segs := segs) (smax := b.smax) (bit := 0xFF) hr hstep
    exact ⟨_, hex.trans (congrArg _ he), hno ha.noted, hli ha.line, ha.asked, ha.ctl, ha.frame⟩

/-- Settles O29: the sums, the decisions of formats, the pins and the stash decisions, each by its own law above. -/
theorem governorsMeasureAndDecide : Obligations.GovernorsMeasureAndDecide :=
  ⟨fun s q p layer hq hp hl => statisticsReport_clause s q p layer hq hp hl,
    fun s p layer hp h => formatDecision_waits s p layer hp h,
    fun s p layer st hp hr hn => formatDecision_clause s p layer st hp hr hn,
    fun s cl p layer pin hs => layerPin_clause s cl p layer pin hs,
    fun s p step o segs hp => stashDecision_clause s p step o segs hp⟩

end Sys2Proof.Machine
end

section
/-! SUPPORT. The stages of bring-up. -/

namespace Sys2Proof.Machine

/-! ### What the end of a stage leaves (R321-R323) -/

/-- The report of a stage that ends. -/
def stageReport (s : State) (k : Nat) (e : StageEnd) : StageReport :=
  { stage := k, result := e.result, detail := e.detail, start := msOf (s.bring.stageAt - s.bring.startAt)
    duration := msOf (s.now - s.bring.stageAt), tested := e.tested, fenced := e.fenced, passing := e.passing, firstFailing := e.first }

/-- Bring-up after a stage that passed. -/
def stagePassed (s : State) (k : Nat) (e : StageEnd) : BringUp :=
  { s.bring with reports := tset s.bring.reports k (stageReport s k e), stage := stageAfter s k, stageAt := s.now }

theorem stagePassed_report (s : State) (k : Nat) (e : StageEnd) : tget {} (stagePassed s k e).reports k = stageReport s k e :=
  (tget_tset ..).trans (if_pos rfl)

theorem State.closeStage_passes {s : State} {k : Nat} {e : StageEnd} (he : e.result ≠ 2) (hk : stageAfter s k ≠ 7) :
    s.closeStage k e = { s with bring := stagePassed s k e } :=
  (if_neg he).trans (if_neg hk)

/-- Bring-up after a stage that stopped it. -/
def stageStopped (s : State) (k : Nat) (e : StageEnd) : BringUp :=
  { s.bring with reports := tset s.bring.reports k (stageReport s k e), stopped := true }

theorem stageStopped_report (s : State) (k : Nat) (e : StageEnd) : tget {} (stageStopped s k e).reports k = stageReport s k e :=
  (tget_tset ..).trans (if_pos rfl)

theorem State.closeStage_stops {s : State} {k : Nat} {e : StageEnd} (he : e.result = 2) :
    s.closeStage k e = ({ s with bring := stageStopped s k e }).event sevFatal evStageStop k e.detail :=
  if_pos he

/-- Only the end of S6 leads to S7, whatever the form of the run. -/
theorem stageAfter_ne_seven (s : State) {k : Nat} (hk : k < 10) (h : k ≠ 6) : stageAfter s k ≠ 7 := by
  have hreset : ∀ k, k < 10 → k ≠ 6 → (([3, 4, 5, 6, 7, 8, 9] : List Nat).find? (fun j => decide (k < j))).getD 9 ≠ 7 := by decide
  have hwarm : ∀ k, k < 10 → k ≠ 6 → (([3, 5, 6, 7, 8, 9] : List Nat).find? (fun j => decide (k < j))).getD 9 ≠ 7 := by decide
  have hstart : ∀ k, k < 10 → k ≠ 6 →
      (([0, 1, 2, 3, 4, 5, 6, 7, 8, 9] : List Nat).find? (fun j => decide (k < j))).getD 9 ≠ 7 := by decide
  unfold stageAfter stageList
  dsimp only
  split
  · exact hreset k hk h
  · split
    · split
      · exact hreset k hk h
      · exact hwarm k hk h
    · exact hstart k hk h

theorem State.closeStage_zero (s : State) (e : StageEnd) {k : Nat} (hk : k < 10) (h6 : k ≠ 6) :
    s.closeStage k { e with result := 0 } = { s with bring := stagePassed s k { e with result := 0 } } :=
  State.closeStage_passes (Nat.zero_ne_add_one 1) (stageAfter_ne_seven s hk h6)

/-! ### The stages themselves -/

/-- The report of a stage as the tester hands it over. -/
def stageEndOf (result detail tested first : Nat) (failing : List (Nat × Nat)) : StageEnd :=
  { result := result, detail := detail, tested := tested
    first := match failing.head? with | some u => unitWord u.1 u.2 | none => first }

theorem execStageEnd_drains {s : State} (result detail tested first : Nat) (failing passing : List (Nat × Nat))
    (h : s.power.draining = true) : exec (.stageEnd result detail tested first failing passing) s = .next s :=
  congrArg Host.Outcome.next (if_pos (by rw [h, Bool.or_true]))

/-- The stage that ends, of a bring-up that runs. -/
theorem execStageEnd_runs {s : State} (result detail tested first : Nat) (failing passing : List (Nat × Nat))
    (ha : s.bring.active = true) (hs : s.bring.stopped = false) (hd : s.power.draining = false) :
    let e := stageEndOf result detail tested first failing
    let run := exec (.stageEnd result detail tested first failing passing) s
    (s.bring.stage = 0 → run = .next (s.endS0 e)) ∧ (s.bring.stage = 3 → run = .next (s.endS3 e failing))
      ∧ (s.bring.stage = 5 → run = .next (s.endS5 e failing passing)) ∧ (s.bring.stage = 8 → run = .next (s.endS8 e))
      ∧ (s.bring.stage = 9 → run = .next (s.endS9 e)) := by
  have hc : ¬ (!s.bring.active || s.bring.stopped || s.power.draining) = true := by rw [ha, hs, hd]; decide
  refine ⟨fun h => ?_, fun h => ?_, fun h => ?_, fun h => ?_, fun h => ?_⟩ <;>
  · refine congrArg Host.Outcome.next ((if_neg hc).trans ?_)
    rw [h] <;> rfl

/-- The S0 that finds a good image: the controller answers and runs what is stored (R321). -/
theorem State.endS0_passes {s : State} {e : StageEnd} (h : romDetail s = 0) (he : e.result ≠ 2) :
    s.endS0 e = { s with
      bring := stagePassed s 0 { e with result := 0 }
      mc := { s.mc with up := true, restarting := false }
      sivar := { s.sivar with primary := if (s.host 0).up then 0 else 1 }
      fw := { s.fw with running := s.fw.stored } } := by
  have hd : (if romDetail s ≠ 0 then romDetail s else if e.result = 2 then e.detail else 0) = 0 :=
    (if_neg (not_not.mpr h)).trans (if_neg he)
  unfold State.endS0
  dsimp only
  rw [hd, if_neg (not_not.mpr rfl)]
  exact State.closeStage_zero _ e (by decide) (by decide)

/-- The state in which the recovery loader leaves its event. -/
def State.inLoader (s : State) (e : StageEnd) : State :=
  { s with
    bring := stageStopped { s with bring := { s.bring with loader := true } } 0 { e with result := 2, detail := romDetail s }
    mc := { s.mc with up := true, restarting := false }
    sivar := { s.sivar with primary := if (s.host 0).up then 0 else 1 } }

theorem State.endS0_stops {s : State} {e : StageEnd} (h : romDetail s ≠ 0) :
    s.endS0 e = (s.inLoader e).event sevFatal evStageStop 0 (romDetail s) := by
  have hd : (if romDetail s ≠ 0 then romDetail s else if e.result = 2 then e.detail else 0) = romDetail s := if_pos h
  unfold State.endS0
  dsimp only
  rw [hd, if_pos h]
  exact State.closeStage_stops rfl

/-- The S3 without coolant flow. -/
theorem State.endS3_stops {s : State} {e : StageEnd} (failing : List (Nat × Nat))
    (h : s.power.pumpOk = false ∨ s.bring.stageAt + 87000000000 < s.power.pumpOkSince) :
    s.endS3 e failing = (s.advance (s.bring.stageAt + 90000000000)).closeStage 3 { e with result := 2, detail := 0x0301 } :=
  if_pos (by
    rcases h with h | h
    · rw [h]; rfl
    · rw [decide_eq_true h, Bool.or_true])

/-- A scrub of every scratchpad. -/
def State.padsCleared (s : State) : State := { s with pad := [], marks := [], bring := { s.bring with filledAt := s.now } }

theorem State.endS5_passes {s : State} {e : StageEnd} (passing : List (Nat × Nat)) (h : s.bring.coldS5 = false) :
    s.endS5 e [] passing = { s with pad := [], marks := [], bring := stagePassed s.padsCleared 5 { e with result := 0 } } := by
  have hc : (!s.bring.coldS5) = true := by rw [h]; rfl
  exact (if_pos hc).trans ((if_pos rfl).trans (s.padsCleared.closeStage_zero e (k := 5) (by decide) (by decide)))

theorem State.endS5_fails {s : State} {e : StageEnd} {failing : List (Nat × Nat)} (passing : List (Nat × Nat)) (h : s.bring.coldS5 = false)
    (hf : failing ≠ []) :
    s.endS5 e failing passing
      = { s with pad := [], marks := [], bring := { s.bring with coldS5 := true, filledAt := s.now } } := by
  have hc : (!s.bring.coldS5) = true := by rw [h]; rfl
  exact (if_pos hc).trans (if_neg (by simpa using hf))

theorem State.endS8_passes {s : State} {e : StageEnd} (h : domainId s = 0) :
    s.endS8 e = { s with
      tide := { s.tide with run := .running, lock := 0 }
      bring := stagePassed { s with tide := { s.tide with run := .running, lock := 0 } } 8 { e with result := 0 } } := by
  unfold State.endS8
  rw [if_pos (Or.inl h), if_pos h]
  exact State.closeStage_zero _ e (by decide) (by decide)

/-! ### S9: the service bytes and the saved results -/

/-- The service bytes of a run, read from the service ports that are up in the runs that save them. -/
def savedService (s : State) : List Byte :=
  if s.bring.moduleReset || decide (s.bring.form = 2) then s.bring.service
  else (List.range 1024).map (fun i => if (s.port (496 + i / 64)).up then Config.freeByte s.freeCtr i else s.bring.service.getD i 0)

theorem State.saveService_saves (s : State) :
    s.saveService = { s with bring := { s.bring with service := savedService s }, freeCtr := s.saveService.freeCtr } := by
  unfold State.saveService savedService
  by_cases h : (s.bring.moduleReset || decide (s.bring.form = 2)) = true
  · rw [if_pos h, if_pos h]
  · rw [if_neg h, if_neg h]
    rfl

theorem savedService_kept {s : State} (h : s.bring.moduleReset = true ∨ s.bring.form = 2) : savedService s = s.bring.service :=
  if_pos (by rcases h with h | h <;> simp [h])

theorem savedService_down {s : State} {n k : Nat} (hn : n < 16) (hk : k < 64) (h : (s.port (496 + n)).up = false) :
    (savedService s).getD (64 * n + k) 0 = s.bring.service.getD (64 * n + k) 0 := by
  unfold savedService
  split
  · rfl
  · have hi : 64 * n + k < 1024 := by omega
    have hd : (64 * n + k) / 64 = n := by omega
    rw [List.getD_eq_getElem?_getD, List.getElem?_map, List.getElem?_range hi]
    show (if (s.port (496 + (64 * n + k) / 64)).up = true then _ else _) = _
    rw [hd, h]
    rfl
/-- The results that a cold S5 leaves saved (R337). -/
def freshResults (s : State) : ResultsRecord :=
  { written := s.utc, digest := 0, inputs := startInputs s, pll := s.bring.pll, minMv := s.bring.minMv
    margins := s.bring.margins, lanes := s.ports.map (fun e => (e.1, e.2.map)) }

/-- The state in which S9 closes: service bytes saved, its report written, the module parked and ready. -/
def State.parkedReady (s : State) (e : StageEnd) : State :=
  { s with
    bring := { stagePassed s 9 { e with result := 0 } with active := false, moduleReset := false }
    power := { s.power with state := .parked, ready := true } }

theorem State.endS9_parks (s : State) (e : StageEnd) :
    s.endS9 e = if s.bring.coldS5 = true then (s.saveService.parkedReady e).writeResults else s.saveService.parkedReady e := by
  have h := s.saveService.closeStage_zero e (k := 9) (by decide) (by decide)
  have hc : s.saveService.bring.coldS5 = s.bring.coldS5 := (congrArg (fun y : State => y.bring.coldS5) s.saveService_saves :)
  unfold State.endS9
  dsimp only
  rw [h, ← hc]
  rfl

/-- The end of S9. -/
structure ServiceBegins (s t : State) : Prop where
  active : t.bring.active = false
  reset : t.bring.moduleReset = false
  power : t.power = { s.power with state := .parked, ready := true }
  report : (tget {} t.bring.reports 9).result = 0
  service : t.bring.service = savedService s
  frame : t = { s with bring := t.bring, power := t.power, freeCtr := t.freeCtr }

theorem State.parkedReady_begins (s : State) (e : StageEnd) : ServiceBegins s (s.saveService.parkedReady e)
    ∧ (s.saveService.parkedReady e).bring.results = s.bring.results ∧ (s.saveService.parkedReady e).utc = s.utc := by
  have hs := s.saveService_saves
  generalize s.saveService = u at hs
  have hp : u.power = s.power := (congrArg State.power hs :)
  refine ⟨⟨rfl, rfl, ?_, ?_, ?_, ?_⟩, ?_, ?_⟩
  · show ({ u.power with state := _, ready := _ } : Power) = _
    rw [hp]
  · exact congrArg StageReport.result (stagePassed_report u 9 { e with result := 0 })
  · exact (congrArg (fun y : State => y.bring.service) hs :)
  · exact (congrArg (fun y : State => { y with bring := (u.parkedReady e).bring, power := (u.parkedReady e).power }) hs :)
  · exact (congrArg (fun y : State => y.bring.results) hs :)
  · exact (congrArg State.utc hs :)

theorem State.writeResults_begins {s u : State} (h : ServiceBegins s u) : ServiceBegins s u.writeResults :=
  ⟨h.active, h.reset, h.power, h.report, h.service,
    (congrArg (fun y : State => { y with bring := u.writeResults.bring }) h.frame :)⟩

theorem State.writeResults_saves (u : State) :
    ∃ r, u.writeResults.bring.results = some r ∧ r.written = u.utc ∧ r.digest = Config.sha3 r.content :=
  ⟨{ freshResults u with digest := Config.sha3 (freshResults u).content }, rfl, rfl, rfl⟩

theorem State.endS9_begins (s : State) (e : StageEnd) : ServiceBegins s (s.endS9 e)
    ∧ (s.bring.coldS5 = false → (s.endS9 e).bring.results = s.bring.results)
    ∧ (s.bring.coldS5 = true → ∃ r, (s.endS9 e).bring.results = some r ∧ r.written = s.utc ∧ r.digest = Config.sha3 r.content) := by
  obtain ⟨hb, hr, hu⟩ := s.parkedReady_begins e
  have he := s.endS9_parks e
  cases hc : s.bring.coldS5 with
  | false =>
    rw [hc, if_neg Bool.false_ne_true] at he
    rw [he]
    exact ⟨hb, fun _ => hr, fun h => absurd h Bool.false_ne_true⟩
  | true =>
    rw [hc, if_pos rfl] at he
    rw [he]
    exact ⟨State.writeResults_begins hb, fun h => absurd h.symm Bool.false_ne_true, fun _ => by
      rw [← hu]
      exact State.writeResults_saves _⟩

/-- What bring-up keeps of partitions, tensors, memories and configuration. -/
def StageFrame (s t : State) : Prop :=
  t.parts = s.parts ∧ t.tensors = s.tensors ∧ t.dram = s.dram ∧ t.flash = s.flash ∧ t.sivar.config = s.sivar.config

theorem State.event_stageFrame {s u : State} (h : StageFrame s u) (a b c d : Nat) : StageFrame s (u.event a b c d) := by
  obtain ⟨hp, ht, hd, hf, hc⟩ := h
  have hv := u.event_frame a b c d
  have hs := u.event_sivar a b c d
  generalize u.event a b c d = v at hv hs
  exact ⟨(congrArg State.parts hv :).trans hp, (congrArg State.tensors hv :).trans ht, (congrArg State.dram hv :).trans hd,
    (congrArg State.flash hv :).trans hf, (congrArg Sivar.config hs :).trans hc⟩
/-- Settles O39: the stages that its clauses name, each by its own law. -/
theorem bringUpStagesEnd : Obligations.BringUpStagesEnd := by
  intro s result detail tested first failing passing ha hs run frame
  refine ⟨execStageEnd_drains result detail tested first failing passing, fun hd => ?_⟩
  obtain ⟨h0, h3, h5, h8, h9⟩ := execStageEnd_runs result detail tested first failing passing ha hs hd
  generalize he : stageEndOf result detail tested first failing = e at h0 h3 h5 h8 h9
  have her : e.result = result := by rw [← he]; rfl
  have hpass : ∀ (u : State) k, (tget {} (stagePassed u k { e with result := 0 }).reports k).result = 0 :=
    fun u k => congrArg StageReport.result (stagePassed_report u k { e with result := 0 })
  refine ⟨fun hk hrom hr => ?_, fun hk hrom => ?_, fun hk hflow => ?_, fun hk hc hf => ?_, fun hk hc hf => ?_, fun hk hdom => ?_,
    fun hk => ?_⟩
  · refine ⟨_, (h0 hk).trans (congrArg _ (State.endS0_passes hrom (by rw [her]; exact hr))), rfl, rfl, hpass s 0, rfl, hs, rfl, rfl,
      ⟨rfl, rfl, rfl, rfl, rfl⟩, rfl⟩
  · have hex := (h0 hk).trans (congrArg Host.Outcome.next (State.endS0_stops (e := e) hrom))
    have hev := (s.inLoader e).event_frame sevFatal evStageStop 0 (romDetail s)
    have hlog := State.event_logs (s := s.inLoader e) rfl (sev := sevFatal) (by decide) evStageStop 0 (romDetail s)
    have hfr : StageFrame s ((s.inLoader e).event sevFatal evStageStop 0 (romDetail s)) :=
      State.event_stageFrame ⟨rfl, rfl, rfl, rfl, rfl⟩ _ _ _ _
    have hrep := stageStopped_report { s with bring := { s.bring with loader := true } } 0 { e with result := 2, detail := romDetail s }
    obtain ⟨u, hu⟩ : ∃ u, s.inLoader e = u := ⟨_, rfl⟩
    have hb : u.bring = stageStopped { s with bring := { s.bring with loader := true } } 0 { e with result := 2, detail := romDetail s } := by
      rw [← hu]; rfl
    have hm : u.mc.up = true := by rw [← hu]; rfl
    have hw : u.fw = s.fw := by rw [← hu]; rfl
    rw [hu] at hex hev hlog hfr
    generalize u.event sevFatal evStageStop 0 (romDetail s) = t at hex hev hlog hfr
    have htb := ((congrArg State.bring hev :) : t.bring = u.bring).trans hb
    refine ⟨t, hex, (congrArg (fun y : State => y.mc.up) hev :).trans hm, by rw [htb]; rfl, by rw [htb]; rfl, ?_, ?_, hlog,
      (congrArg State.fw hev :).trans hw, hfr⟩
    · rw [htb]; exact congrArg StageReport.result hrep
    · rw [htb]; exact congrArg StageReport.detail hrep
  · have hex := (h3 hk).trans (congrArg Host.Outcome.next ((State.endS3_stops (e := e) failing hflow).trans (State.closeStage_stops rfl)))
    have hrep := stageStopped_report (s.advance (s.bring.stageAt + 90000000000)) 3 { e with result := 2, detail := 0x0301 }
    obtain ⟨b, hb⟩ : ∃ b, stageStopped (s.advance (s.bring.stageAt + 90000000000)) 3 { e with result := 2, detail := 0x0301 } = b := ⟨_, rfl⟩
    have hstop : b.stopped = true := by rw [← hb]; rfl
    rw [hb] at hex hrep
    obtain ⟨u, hu⟩ : ∃ u : State, { s.advance (s.bring.stageAt + 90000000000) with bring := b } = u := ⟨_, rfl⟩
    have hnow : u.now = max s.now (s.bring.stageAt + 90000000000) := by rw [← hu]; rfl
    have hub : u.bring = b := by rw [← hu]
    have htl : u.tiles = s.tiles := by rw [← hu]; rfl
    have hlog := logged_event_of (s := s) (u := u) (by rw [← hu]; rfl) (by rw [← hu]; rfl) (by rw [← hu]; rfl) sevFatal evStageStop 3 0x0301
    have hfr : StageFrame s (u.event sevFatal evStageStop 3 0x0301) :=
      State.event_stageFrame (by rw [← hu]; exact ⟨rfl, rfl, rfl, rfl, rfl⟩) _ _ _ _
    have hev := u.event_frame sevFatal evStageStop 3 0x0301
    replace hex : run = .next (u.event sevFatal evStageStop 3 0x0301) := by rw [← hu]; exact hex
    generalize u.event sevFatal evStageStop 3 0x0301 = t at hex hev hlog hfr
    have htb := ((congrArg State.bring hev :) : t.bring = u.bring).trans hub
    refine ⟨t, hex, (congrArg State.now hev :).trans hnow, by rw [htb]; exact hstop, ?_, ?_, hlog, hfr, (congrArg State.tiles hev :).trans htl⟩
    · rw [htb]; exact congrArg StageReport.result hrep
    · rw [htb]; exact congrArg StageReport.detail hrep
  · subst hf
    exact ⟨_, (h5 hk).trans (congrArg _ (State.endS5_passes passing hc)), rfl, rfl, hpass s.padsCleared 5, rfl, rfl, ⟨rfl, rfl, rfl, rfl, rfl⟩, rfl⟩
  · exact ⟨_, (h5 hk).trans (congrArg _ (State.endS5_fails passing hc hf)), rfl, rfl, rfl, rfl⟩
  · exact ⟨_, (h8 hk).trans (congrArg _ (State.endS8_passes hdom)), rfl, hpass { s with tide := _ } 8, rfl, rfl⟩
  · obtain ⟨hb, hwarm, hcold⟩ := s.endS9_begins e
    generalize s.endS9 e = t at hb hwarm hcold h9
    exact ⟨t, h9 hk, hb.active, hb.reset, hb.power, hb.report, fun h => hb.service.trans (savedService_kept h),
      fun n k hn hkk hup _ => by rw [hb.service]; exact savedService_down hn hkk hup, hwarm, hcold, hb.frame⟩

end Sys2Proof.Machine
end

section
/-! SUPPORT. A module reset. -/

namespace Sys2Proof.Machine

/-! ### The request of a module reset (R350) -/

/-- The state in which the request of a module reset leaves its event: journalled first. -/
def State.resetAsked (s : State) : State :=
  { s.journal jReset 0 (nextTick s) with mc := { (s.journal jReset 0 (nextTick s)).mc with mresetAt := some (nextTick s) } }

theorem doModuleReset_asks {s : State} (h : resetting s = false) :
    doModuleReset s = (s.resetAsked.event sevFault evModuleReset 0 0, stOk) :=
  if_neg (by rw [h]; exact Bool.false_ne_true)

theorem doModuleReset_busy {s : State} (h : resetting s = true) : doModuleReset s = (s, stBusy) := if_pos h

theorem moduleResetRequest_asks (s : State) (cl : Client) (hs : Serves s cl false) (h : resetting s = false) :
    ∃ t, exec (.moduleResetRequest cl) s = .next t ∧ t.resp = answered stOk
      ∧ t.mc = { s.mc with mresetAt := some ((s.now / 1500 + 1) * 1500), journal := t.mc.journal }
      ∧ (∃ e, t.mc.journal = s.mc.journal ++ [e] ∧ e.kind = jReset ∧ e.effect = (s.now / 1500 + 1) * 1500 ∧ e.done = false)
      ∧ Logged s t sevFault evModuleReset 0 0
      ∧ t = { s with mc := t.mc, log := t.log, hosts := t.hosts, sivar := t.sivar, resp := t.resp } := by
  have hf := doModuleReset_asks (s := s.asked) h
  obtain ⟨u, hu⟩ : ∃ u, s.asked.resetAsked = u := ⟨_, rfl⟩
  have hmc : u.mc = { s.mc with
      mresetAt := some ((s.now / 1500 + 1) * 1500)
      journal := s.mc.journal ++ [{ kind := jReset, unit := 0, effect := (s.now / 1500 + 1) * 1500, done := false }] } := by
    rw [← hu]; rfl
  have hframe : u = { s with mc := u.mc, resp := {} } := by rw [← hu]; rfl
  have hlog := logged_event_after (s := s) (u := u) (by rw [hframe]) (by rw [hmc]) (by rw [hframe]; rfl) sevFault evModuleReset 0 0
  rw [hu] at hf
  have hev := u.event_frame sevFault evModuleReset 0 0
  generalize u.event sevFault evModuleReset 0 0 = t at hf hlog hev
  have htm : t.mc = u.mc := (congrArg State.mc hev :)
  have hresp : t.resp = {} := ((congrArg State.resp hev :) : t.resp = u.resp).trans (congrArg State.resp hframe :)
  refine ⟨_, congrArg Host.Outcome.next (command_changed hs hf hresp), rfl, ?_, ⟨_, congrArg _ (htm.trans hmc), rfl, rfl, rfl⟩, hlog, ?_⟩
  · have e : t.mc = { s.mc with mresetAt := some ((s.now / 1500 + 1) * 1500), journal := t.mc.journal } := by rw [htm, hmc]
    exact e
  · have hf' : u = { s with mc := t.mc, resp := {} } := by rw [htm]; exact hframe
    refine (congrArg (fun y : State => { y with resp := answered stOk }) hev).trans ?_
    exact (congrArg (fun y : State => { y with log := t.log, hosts := t.hosts, sivar := t.sivar, resp := answered stOk }) hf' :)
/-! ### A stop that leaves no event: no array drains, and no orphan stands in a gantry (R118) -/

/-- No core's array has a drain left to write, and no gantry an orphan to report. -/
structure Undisturbed (s : State) : Prop where
  drains : ∀ c, (s.core c).arr.drains = []
  orphans : ∀ x, (s.gantry x).north.orphans = 0 ∧ (s.gantry x).south.orphans = 0

/-- An undisturbed module stays so, and no event is logged. -/
structure Silent (s t : State) : Prop where
  keeps : Undisturbed s → t.log = s.log ∧ Undisturbed t

namespace Silent

variable {s t u : State}

theorem refl (s : State) : Silent s s := ⟨fun h => ⟨rfl, h⟩⟩

theorem trans (a : Silent s t) (b : Silent t u) : Silent s u :=
  ⟨fun h => ⟨(b.keeps (a.keeps h).2).1.trans (a.keeps h).1, (b.keeps (a.keeps h).2).2⟩⟩

theorem foldl {α : Type} {f : State → α → State} (hf : ∀ t a, Silent t (f t a)) (l : List α) (s : State) : Silent s (l.foldl f s) :=
  List.foldlRecOn (motive := Silent s) l f (refl s) fun _ ht a _ => ht.trans (hf _ a)

theorem of_same (hl : t.log = s.log) (hc : t.cores = s.cores) (hg : t.gantries = s.gantries) : Silent s t := ⟨fun h =>
  ⟨hl, fun c => (congrArg (fun m => (tget ({} : Core) m c).arr.drains) hc).trans (h.drains c),
    fun x => by
      have e : t.gantry x = s.gantry x := congrArg (fun m => tget ({} : Gantry) m x) hg
      rw [e]
      exact h.orphans x⟩⟩

theorem setCore (s : State) (c : Nat) (k : Core) (hk : k.arr.drains = [] ∨ k.arr.drains = (s.core c).arr.drains) :
    Silent s (s.setCore c k) := ⟨fun h =>
  ⟨rfl, fun d => by
    show (tget ({} : Core) (tput {} s.cores c k) d).arr.drains = []
    rw [tget_tput]
    split
    · exact hk.elim id fun he => he.trans (h.drains c)
    · exact h.drains d, h.orphans⟩⟩

theorem setGantry (s : State) (x : Nat) (g : Gantry) (hn : g.north.orphans = 0 ∨ g.north.orphans = (s.gantry x).north.orphans)
    (hs : g.south.orphans = 0 ∨ g.south.orphans = (s.gantry x).south.orphans) : Silent s (s.setGantry x g) := ⟨fun h =>
  ⟨rfl, h.drains, fun y => by
    show (tget ({} : Gantry) (tput {} s.gantries x g) y).north.orphans = 0 ∧ (tget ({} : Gantry) (tput {} s.gantries x g) y).south.orphans = 0
    rw [tget_tput]
    split
    · exact ⟨hn.elim id fun e => e.trans (h.orphans x).1, hs.elim id fun e => e.trans (h.orphans x).2⟩
    · exact h.orphans y⟩⟩

theorem rowWritten (s : State) (c row : Nat) : Silent s (s.rowWritten c row) := by
  unfold State.rowWritten
  dsimp only
  split
  · exact of_same rfl rfl rfl
  · exact refl s

theorem writeRow (s : State) (c row : Nat) (d : Row) : Silent s (s.writeRow c row d) :=
  trans (t := { s with
    pad := writeBytes s.pad (padAt c row) (fitBytes 512 d.bytes)
    marks := (List.range 64).foldl (fun m w => putMark m (wordOf (padAt c row) + w) (decide (w ∈ d.poison))) s.marks })
    (of_same rfl rfl rfl) (rowWritten ..)

theorem poisonRows (s : State) (c first n : Nat) : Silent s (s.poisonRows c first n) :=
  foldl (fun t i => trans (t := { t with
    marks := (List.range 64).foldl (fun m w => putMark m (wordOf (padAt c (first + i)) + w) true) t.marks })
    (of_same rfl rfl rfl) (rowWritten ..)) _ s

theorem bump (s : State) : Silent s s.bump := of_same rfl rfl rfl

theorem wakeDma_arr (k : Core) (ch now : Nat) : (wakeDma k ch now).arr = k.arr := by
  unfold wakeDma
  split <;> rfl

theorem completeChannel (s : State) (c ch : Nat) : Silent s (s.completeChannel c ch) := by
  have put : ∀ v, Silent s (s.setCore c (wakeDma ((releaseChannel (s.core c) ch).putChan ch v) ch s.now)) := fun v =>
    setCore _ _ _ (.inr (congrArg (fun a : ArrayState => a.drains) (wakeDma_arr ..)))
  unfold State.completeChannel
  dsimp only
  split
  · exact put _
  · exact (put _).trans (of_same rfl rfl rfl)

theorem endTransfer (s : State) (c ch : Nat) : Silent s (s.endTransfer c ch) := by
  unfold State.endTransfer
  extract_lets k v s1 v1
  have h1 : Silent s s1 := by
    simp only [s1]
    split
    · exact foldl (fun t e => by split; exacts [writeRow .., refl ..]) _ s
    · exact refl s
  refine ⟨fun h => ?_⟩
  have hk : Silent s1 (s1.setCore c (wakeDma ((releaseChannel k ch).putChan ch v1) ch s.now)) :=
    setCore _ _ _ (.inl ((congrArg (fun a : ArrayState => a.drains) (wakeDma_arr ..)).trans (h.drains c)))
  exact (h1.trans (hk.trans (bump _))).keeps h

theorem disableChannel (s : State) (c ch : Nat) : Silent s (s.disableChannel c ch) := by
  unfold State.disableChannel
  extract_lets s1 k v
  have h1 : Silent s s1 := setCore _ _ _ (.inr rfl)
  have put : ∀ j : Core, j.arr = k.arr → Silent s1 (s1.setCore c (wakeDma j ch s1.now)) := fun j hj =>
    setCore _ _ _ (.inr (congrArg (fun a : ArrayState => a.drains) ((wakeDma_arr ..).trans hj)))
  refine h1.trans ?_
  split
  · exact put k rfl
  · exact refl _
  · split_ifs
    · exact completeChannel ..
    · exact put _ rfl
    · exact endTransfer ..

theorem disableMask (s : State) (c m : Nat) : Silent s (s.disableMask c m) :=
  foldl (fun t ch => by split; exacts [disableChannel .., refl ..]) _ s

end Silent
/-- A table in which the entries of some keys changed. -/
theorem tfind_map_where {α : Type} (P : Nat → Bool) (f : α → α) (m : List (Nat × α)) (k : Nat) :
    tfind (m.map (fun e => if P e.1 then (e.1, f e.2) else e)) k = (tfind m k).map (fun v => if P k then f v else v) := by
  induction m with
  | nil => rfl
  | cons e m ih =>
    rw [List.map_cons]
    by_cases hk : e.1 = k
    · subst hk
      cases P e.1 <;> simp [tfind]
    · cases P e.1 <;> simp [tfind, hk, ih]

namespace Silent

theorem abandon (s : State) (c : Nat) : Silent s (s.abandon c) := by
  refine ⟨fun h => ?_⟩
  unfold State.abandon
  extract_lets fs k0 hold arr k s1 t0 t1 late t2 t3
  have hk : k.arr.drains = [] := by
    show k0.arr.drains.map _ = []
    rw [show k0.arr.drains = [] from h.drains c]
    rfl
  have h0 : Silent s t0 := by
    simp only [t0, hk, List.foldl_nil]
    exact of_same rfl rfl rfl
  have h1 : Silent t0 t1 := foldl (fun t i => foldl (fun t r => poisonRows ..) _ t) _ t0
  have h2 : Silent t1 t2 := by
    simp only [t2, late]
    split
    · split
      · exact poisonRows ..
      · exact .refl ..
    · exact .refl ..
  have h3 : Silent t2 t3 := by
    simp only [t3, late]
    split
    · split
      · exact poisonRows ..
      · exact .refl ..
    · exact .refl ..
  exact ((((h0.trans h1).trans h2).trans h3).trans ((setCore _ _ _ (.inl rfl)).trans (bump _))).keeps h

theorem coreStop (s : State) (c : Nat) : Silent s (s.coreStop c) := by
  have h := setGantry s (coreX c) { s.gantry (coreX c) with masks := tput 0 (s.gantry (coreX c)).masks (coreY c) 0 } (.inr rfl) (.inr rfl)
  unfold State.coreStop
  dsimp only
  generalize s.setGantry (coreX c) _ = a at h
  exact h.trans ((abandon a c).trans (disableMask _ c 255))

theorem forwardRow (s : State) (p : NetPacket) : Silent s (s.forwardRow p) := by
  unfold State.forwardRow State.sendPacket
  dsimp only
  repeat' split
  all_goals exact of_same rfl rfl rfl

theorem inject (s : State) (c : Nat) (p : NetPacket) : Silent s (s.inject c p) := by
  have hforward : ∀ v : State, Silent s v → Silent s (v.forwardRow p) := fun v hv => hv.trans (forwardRow v p)
  unfold State.inject
  dsimp only
  split
  · exact of_same rfl rfl rfl
  · refine hforward _ ?_
    have h := setCore s c { s.core c with
      routerTurn := tput 0 (s.core c).routerTurn (firstOutput p.header) (16 + netVc p.header + 1) } (.inr rfl)
    exact ⟨fun hq => ⟨(h.keeps hq).1, ⟨(h.keeps hq).2.drains, (h.keeps hq).2.orphans⟩⟩⟩

theorem coreClear (s : State) (c : Nat) : Silent s (s.coreClear c) := by
  unfold State.coreClear
  extract_lets s2 k busy h s3 k3
  have h2 : Silent s s2 := of_same rfl rfl rfl
  have h3 : Silent s2 s3 := foldl (f := fun (t : State) (r : Nat × NetPacket) => t.inject c r.2) (fun t r => inject t c r.2) _ s2
  exact (h2.trans h3).trans ((setCore _ _ _ (.inl rfl)).trans (of_same rfl rfl rfl))

theorem coresReset (s : State) (cs : List Nat) : Silent s (s.coresReset cs) :=
  trans (foldl (f := fun (t : State) c => t.coreStop c) coreStop cs s) (foldl (f := fun (t : State) c => t.coreClear c) coreClear cs _)

theorem clearColumns (s : State) (p : Nat) : Silent s (s.clearColumns p) := by
  have hcredits : ∀ t : State, Silent s t → Silent s (t.freshCredits p) := fun t ht =>
    List.foldlRecOn (motive := Silent s) _ _ ht fun u hu q _ => hu.trans (of_same rfl rfl rfl)
  refine hcredits _ ⟨fun h => ⟨rfl, h.drains, fun x => ?_⟩⟩
  show (tget ({} : Gantry) (s.gantries.map (fun e => if s.bandHas p (e.1 / 24) then (e.1, clearGantry e.2) else e)) x).north.orphans = 0
    ∧ (tget ({} : Gantry) (s.gantries.map (fun e => if s.bandHas p (e.1 / 24) then (e.1, clearGantry e.2) else e)) x).south.orphans = 0
  rw [tget, tfind_map_where (fun k => s.bandHas p (k / 24)) clearGantry]
  have hx := h.orphans x
  unfold State.gantry tget at hx
  cases hf : tfind s.gantries x with
  | none => exact ⟨rfl, rfl⟩
  | some g =>
    rw [hf] at hx
    rw [Option.map_some, Option.getD_some]
    split
    · exact hx
    · exact hx

theorem cancelFetches (s : State) (p : Nat) : Silent s (s.cancelFetches p) := by
  have h := s.cancelFetches_frame p
  generalize s.cancelFetches p = t at h
  exact of_same (congrArg State.log h :) (congrArg State.cores h :) (congrArg State.gantries h :)

theorem withdrawPreempt (s : State) (p status : Nat) : Silent s (s.withdrawPreempt p status) := by
  unfold State.withdrawPreempt
  split
  · exact of_same rfl rfl rfl
  · exact refl s

theorem partitionReset (s : State) (p : Nat) : Silent s (s.partitionReset p) := by
  have h1 : Silent s ((s.clearColumns p).clearEgress p) := (clearColumns s p).trans (of_same rfl rfl rfl)
  have h2 := (h1.trans (cancelFetches _ p)).trans (withdrawPreempt _ p stState)
  exact (h2.trans (coresReset _ (bandCores s p))).trans (of_same rfl rfl rfl)

theorem noteOrphans (s : State) (x : Nat) : Silent s (s.noteOrphans x) := by
  refine ⟨fun h => ?_⟩
  have h0 : (s.gantry x).north.orphans + (s.gantry x).south.orphans = 0 := by rw [(h.orphans x).1, (h.orphans x).2]
  have e : s.noteOrphans x = s := if_pos h0
  rw [e]
  exact ⟨rfl, h⟩

theorem closeStep (s : State) (p : Nat) : Silent s (s.closeStep p) :=
  List.foldlRecOn (motive := Silent s) _ _ (of_same rfl rfl rfl) fun u hu x _ => hu.trans (noteOrphans u x)

theorem stopForReset (s : State) (p : Nat) : Silent s (s.stopForReset p) := by
  unfold State.stopForReset
  split
  · exact refl s
  · have h : Silent s (if (s.part p).marks then s.closeStep p else s) := by
      split
      · exact closeStep s p
      · exact refl s
    have h2 := h.trans (partitionReset _ p)
    dsimp only
    generalize State.partitionReset _ p = u at h2
    exact h2.trans (of_same rfl rfl rfl)

theorem endTest (s : State) (x : TestRun) (a b c : Nat) : Silent s (s.endTest x a b c) := by
  have h := List.foldlRecOn (motive := Silent s) ((List.range 48).filter (fun k => x.tiles.getLsbD k && decide ((s.tile k).state = .darkShed)))
    (fun (u : State) k => u.setTile k { u.tile k with fastClock := false }) (refl s) fun u hu k _ => hu.trans (of_same rfl rfl rfl)
  unfold State.endTest
  dsimp only
  generalize List.foldl _ s _ = u at h
  exact h.trans (of_same rfl rfl rfl)

theorem beginDrain (s : State) : Silent s s.beginDrain :=
  trans (foldl (f := fun (t : State) p => t.stopForReset p) stopForReset _ s)
    (foldl (f := fun (t : State) x => t.endTest x 3 0 0) (fun t x => endTest t x 3 0 0) _ _)

end Silent
/-! ### What a stop does to a partition and its recovery (R350, R367) -/

/-- No partition's recovery changed. -/
structure SameRecovery (s t : State) : Prop where
  recovery : ∀ q, (t.ctlOf q).recovery = (s.ctlOf q).recovery

namespace SameRecovery

variable {s t u : State}

theorem refl (s : State) : SameRecovery s s := ⟨fun _ => rfl⟩
theorem trans (a : SameRecovery s t) (b : SameRecovery t u) : SameRecovery s u := ⟨fun q => (b.recovery q).trans (a.recovery q)⟩

theorem foldl {α : Type} {f : State → α → State} (hf : ∀ t a, SameRecovery t (f t a)) (l : List α) (s : State) :
    SameRecovery s (l.foldl f s) :=
  List.foldlRecOn (motive := SameRecovery s) l f (refl s) fun _ ht a _ => ht.trans (hf _ a)

theorem of_ctl (h : t.ctl = s.ctl) : SameRecovery s t := ⟨fun q => congrArg (fun m => (tget ({} : PartControl) m q).recovery) h⟩

theorem setCtl (s : State) (p : Nat) (v : PartControl) (h : v.recovery = (s.ctlOf p).recovery) : SameRecovery s (s.setCtl p v) := by
  refine ⟨fun q => ?_⟩
  rw [State.setCtl_ctlOf]
  split
  · next hq => rw [h, hq]
  · rfl

theorem of_workLost {c : Nat} (h : WorkLost c s t) : SameRecovery s t := of_ctl (by rw [h.rest])

theorem setCore (s : State) (c : Nat) (k : Core) : SameRecovery s (s.setCore c k) := of_ctl rfl

theorem coreAndHeal (s : State) (c : Nat) (k : Core) (v : CoreHealth) : SameRecovery s ((s.setCore c k).setHeal c v) := of_ctl rfl

theorem writeRow (s : State) (c row : Nat) (d : Row) : SameRecovery s (s.writeRow c row d) :=
  of_workLost (c := c) (.of_stored (.writeRow c s row d) (s.writeRow_config c row d))

theorem completeChannel (s : State) (c ch : Nat) : SameRecovery s (s.completeChannel c ch) := by
  unfold State.completeChannel
  dsimp only
  split
  · exact of_ctl rfl
  · exact (setCore ..).trans (setCtl _ _ _ rfl)

theorem endTransfer (s : State) (c ch : Nat) : SameRecovery s (s.endTransfer c ch) := by
  unfold State.endTransfer
  extract_lets k v s1 v1
  have h1 : SameRecovery s s1 := by
    simp only [s1]
    split
    · exact foldl (fun t e => by split; exacts [writeRow .., refl ..]) _ s
    · exact refl s
  exact h1.trans (of_ctl rfl)

theorem disableMask (s : State) (c m : Nat) : SameRecovery s (s.disableMask c m) := by
  refine foldl (fun t ch => ?_) _ s
  split
  · unfold State.disableChannel
    extract_lets s1 k v
    have h1 : SameRecovery t s1 := of_ctl rfl
    refine h1.trans ?_
    split
    · exact of_ctl rfl
    · exact refl s1
    · split_ifs
      · exact completeChannel ..
      · exact of_ctl rfl
      · exact endTransfer ..
  · exact refl t

theorem coreStop (s : State) (c : Nat) : SameRecovery s (s.coreStop c) := by
  have h : SameRecovery s (s.setGantry (coreX c) { s.gantry (coreX c) with masks := tput 0 (s.gantry (coreX c)).masks (coreY c) 0 }) :=
    of_ctl rfl
  unfold State.coreStop
  dsimp only
  generalize s.setGantry (coreX c) _ = a at h
  obtain ⟨u, k, hu, he⟩ := a.abandon_puts c
  have h2 := (h.trans (of_workLost hu)).trans ((setCore u c k).trans (of_ctl (t := (u.setCore c k).bump) rfl))
  rw [← he] at h2
  exact h2.trans (disableMask _ c 255)

theorem coreClear (s : State) (c : Nat) : SameRecovery s (s.coreClear c) := by
  have hinject : ∀ (t : State) (p : NetPacket), SameRecovery t (t.inject c p) := fun t p => by
    unfold State.inject State.forwardRow State.sendPacket
    dsimp only
    repeat' split
    all_goals exact of_ctl rfl
  unfold State.coreClear
  extract_lets s2 k busy h s3 k3
  have h3 : SameRecovery s2 s3 := foldl (f := fun (t : State) (r : Nat × NetPacket) => t.inject c r.2) (fun t r => hinject t r.2) _ s2
  have h2 : SameRecovery s s2 := of_ctl rfl
  exact (h2.trans h3).trans (coreAndHeal s3 c _ _)

theorem coresReset (s : State) (cs : List Nat) : SameRecovery s (s.coresReset cs) :=
  trans (foldl (f := fun (t : State) c => t.coreStop c) coreStop cs s) (foldl (f := fun (t : State) c => t.coreClear c) coreClear cs _)

theorem clearColumns (s : State) (p : Nat) : SameRecovery s (s.clearColumns p) := by
  have hcredits : ∀ t : State, SameRecovery s t → SameRecovery s (t.freshCredits p) := fun t ht =>
    List.foldlRecOn (motive := SameRecovery s) _ _ ht fun u hu q _ => hu.trans (of_ctl rfl)
  exact hcredits _ (of_ctl rfl)

theorem withdrawPreempt (s : State) (p status : Nat) : SameRecovery s (s.withdrawPreempt p status) := by
  unfold State.withdrawPreempt
  split
  · have h := setCtl s p { s.ctlOf p with preempt := none } rfl
    generalize s.setCtl p _ = u at h
    exact h.trans (of_ctl rfl)
  · exact refl s

theorem partitionReset (s : State) (p : Nat) : SameRecovery s (s.partitionReset p) := by
  have h1 : SameRecovery s ((s.clearColumns p).clearEgress p) := (clearColumns s p).trans (of_ctl rfl)
  have h2 : SameRecovery s (((s.clearColumns p).clearEgress p).cancelFetches p) :=
    h1.trans (of_ctl (by rw [State.cancelFetches_frame]))
  have h3 := (h2.trans (withdrawPreempt _ p stState)).trans (coresReset _ (bandCores s p))
  unfold State.partitionReset
  dsimp only
  generalize State.coresReset _ (bandCores s p) = u at h3
  exact h3.trans (trans (t := u.setPart p _) (of_ctl rfl) (setCtl _ p _ rfl))

theorem closeStep (s : State) (p : Nat) : SameRecovery s (s.closeStep p) := by
  unfold State.closeStep
  refine List.foldlRecOn (motive := SameRecovery s) _ _ (setCtl s p _ rfl) fun u hu x _ => hu.trans ?_
  unfold State.noteOrphans
  dsimp only
  split
  · exact refl u
  · exact of_ctl (by rw [State.event_frame]; rfl)

end SameRecovery
/-- A partition that has been stopped for a module reset: no resume point is left, and a recovery in progress is cancelled. -/
structure Cancelled (s t : State) (p : Nat) : Prop where
  resume : (t.part p).resume = none
  recovery : (s.ctlOf p).recovery.state = 1 ∨ (s.ctlOf p).recovery.state = 2 → (t.ctlOf p).recovery.state = 5

/-- What the stop of one partition leaves of the others. -/
theorem State.stopForReset_others (s : State) {p q : Nat} (h : q ≠ p) :
    (s.stopForReset p).part q = s.part q ∧ ((s.stopForReset p).ctlOf q).recovery = (s.ctlOf q).recovery := by
  have hclose : ∀ b : Bool, (if b then s.closeStep p else s).parts = s.parts ∧ SameRecovery s (if b then s.closeStep p else s) := fun b => by
    cases b
    · exact ⟨rfl, .refl s⟩
    · exact ⟨State.parts_of_aroundReset (s.closeStep_aroundReset p), .closeStep s p⟩
  unfold State.stopForReset
  split
  · exact ⟨rfl, rfl⟩
  · obtain ⟨a, ha⟩ : ∃ a, (if (s.part p).marks then s.closeStep p else s) = a := ⟨_, rfl⟩
    obtain ⟨hap, har⟩ : a.parts = s.parts ∧ SameRecovery s a := by rw [← ha]; exact hclose _
    obtain ⟨v, -, -, hv⟩ := a.partitionReset_parts p
    have hr := har.trans (.partitionReset a p)
    dsimp only
    rw [ha]
    generalize a.partitionReset p = u at hv hr
    constructor
    · show tget ({} : Partition) (tput {} u.parts p _) q = _
      rw [tget_tput_ne _ _ _ _ _ h, hv, tget_tput_ne _ _ _ _ _ h, hap]
      rfl
    · refine (congrArg PartControl.recovery (tget_tput_ne _ _ _ _ _ h)).trans ?_
      exact hr.recovery q

theorem State.stopForReset_cancels {s : State} {p : Nat} (h : (s.part p).run ≠ .stopped) : Cancelled s (s.stopForReset p) p := by
  have hclose : SameRecovery s (if (s.part p).marks then s.closeStep p else s) := by
    split
    · exact .closeStep s p
    · exact .refl s
  have e : s.stopForReset p = _ := if_neg h
  rw [e]
  obtain ⟨a, ha⟩ : ∃ a, (if (s.part p).marks then s.closeStep p else s) = a := ⟨_, rfl⟩
  have hr := hclose.trans (.partitionReset _ p)
  dsimp only
  rw [ha] at hr ⊢
  generalize a.partitionReset p = u at hr
  refine ⟨?_, fun hs => ?_⟩
  · exact congrArg Partition.resume (tget_tput_same ({} : Partition) u.parts p _)
  · refine (congrArg (fun c : PartControl => c.recovery.state) (tget_tput_same ({} : PartControl) _ p _)).trans ?_
    rw [← hr.recovery p] at hs
    exact if_pos hs

/-- Every partition of a list that had not stopped is cancelled; one that had, or is not in it, stays what it was. -/
theorem State.stopAll_cancels (l : List Nat) (s : State) :
    let t := l.foldl (fun (t : State) p => t.stopForReset p) s
    ∀ q, (q ∈ l ∧ (s.part q).run ≠ .stopped → Cancelled s t q)
      ∧ (q ∉ l ∨ (s.part q).run = .stopped → t.part q = s.part q ∧ (t.ctlOf q).recovery = (s.ctlOf q).recovery) := by
  induction l generalizing s with
  | nil => exact fun q => ⟨fun h => absurd h.1 List.not_mem_nil, fun _ => ⟨rfl, rfl⟩⟩
  | cons p l ih =>
    intro t q
    have hrun := s.stopForReset_run p q
    obtain ⟨hin, hout⟩ := ih (s.stopForReset p) q
    have hst : (s.part p).run = .stopped → s.stopForReset p = s := fun h => if_pos h
    by_cases hq : q = p
    · subst hq
      rw [if_pos rfl] at hrun
      obtain ⟨hp, hr⟩ := hout (.inr hrun)
      refine ⟨fun h => ?_, fun h => ?_⟩
      · have hc := State.stopForReset_cancels h.2
        exact ⟨(congrArg Partition.resume hp).trans hc.resume, fun hs => (congrArg (fun r => r.state) hr).trans (hc.recovery hs)⟩
      · have hsame := hst (h.resolve_left fun hn => hn List.mem_cons_self)
        exact ⟨hp.trans (by rw [hsame]), hr.trans (by rw [hsame])⟩
    · obtain ⟨hp, hr⟩ := s.stopForReset_others hq
      rw [if_neg hq] at hrun
      refine ⟨fun h => ?_, fun h => ?_⟩
      · have hc := hin ⟨(List.mem_cons.mp h.1).resolve_left hq, by rw [hrun]; exact h.2⟩
        exact ⟨hc.resume, fun hs => hc.recovery (by rw [hr]; exact hs)⟩
      · obtain ⟨hp', hr'⟩ := hout (h.imp (fun hn hm => hn (List.mem_cons_of_mem _ hm)) fun he => hrun.trans he)
        exact ⟨hp'.trans hp, hr'.trans hr⟩

theorem State.endTest_ctl (s : State) (x : TestRun) (a b c : Nat) : (s.endTest x a b c).ctl = s.ctl :=
  List.foldlRecOn (motive := fun t : State => t.ctl = s.ctl) _ _ rfl fun _ h _ _ => h

/-- The drain of a module reset stops every partition that had not stopped, and cancels its recovery. -/
theorem State.beginDrain_cancels (s : State) {p : Nat} (hp : p < 8) (h : (s.part p).run ≠ .stopped) : Cancelled s s.beginDrain p := by
  have hc := (State.stopAll_cancels (List.range 8) s p).1 ⟨List.mem_range.mpr hp, h⟩
  unfold State.beginDrain
  dsimp only
  generalize List.foldl _ s (List.range 8) = u at hc
  have hsame := List.foldlRecOn (motive := fun t : State => t.parts = u.parts ∧ t.ctl = u.ctl) u.bring.tests
    (fun (t : State) x => t.endTest x 3 0 0) ⟨rfl, rfl⟩
    fun t ht x _ => ⟨(t.endTest_stays x 3 0 0).1.trans ht.1, (t.endTest_ctl x 3 0 0).trans ht.2⟩
  generalize List.foldl _ u u.bring.tests = t at hsame
  obtain ⟨hparts, hctl⟩ := hsame
  exact ⟨(congrArg (fun m => (tget ({} : Partition) m p).resume) hparts).trans hc.resume,
    fun hs => (congrArg (fun m => (tget ({} : PartControl) m p).recovery.state) hctl).trans (hc.recovery hs)⟩

theorem mem_of_tfind {α : Type} {m : List (Nat × α)} {k : Nat} {v : α} (h : tfind m k = some v) : (k, v) ∈ m := by
  induction m with
  | nil => cases h
  | cons e m ih =>
    rw [tfind] at h
    split at h
    · next hk =>
      cases h
      exact hk ▸ List.mem_cons_self
    · exact List.mem_cons_of_mem _ (ih h)

theorem moduleResetInstance_drains (s : State) (at' : Nat) (h : s.mc.mresetAt = some at') :
    ∃ t, exec (.moduleResetInstance) s = .next t ∧ t.now = max s.now at' ∧ t.mc = { s.mc with mresetDraining := true }
      ∧ (∀ p, p < 8 → (t.part p).run = .stopped) ∧ t.bring.tests = []
      ∧ (∀ p, p < 8 → (s.part p).run ≠ .stopped → (t.part p).resume = none
          ∧ ((s.ctlOf p).recovery.state = 1 ∨ (s.ctlOf p).recovery.state = 2 → (t.ctlOf p).recovery.state = 5))
      ∧ t.dram = s.dram ∧ t.flash = s.flash ∧ t.sivar.config = s.sivar.config
      ∧ (∀ id, ∀ v ∈ (s.tensor id).versions, v.number ∉ (s.tensor id).retiring → v ∈ (t.tensor id).versions)
      ∧ ((∀ e ∈ s.cores, e.2.arr.drains = []) → (∀ x, (s.gantry x).north.orphans = 0 ∧ (s.gantry x).south.orphans = 0) → t.log = s.log) := by
  have hex : exec (.moduleResetInstance) s = .next { (s.advance at').beginDrain with
      mc := { (s.advance at').beginDrain.mc with mresetDraining := true }
      power := { (s.advance at').beginDrain.power with ready := false } } := by
    refine congrArg Host.Outcome.next ?_
    rw [h]
  obtain ⟨a, ha⟩ : ∃ a, s.advance at' = a := ⟨_, rfl⟩
  have haf : a = { s with now := a.now, rtc := a.rtc } := by rw [← ha]; rfl
  have han : a.now = max s.now at' := by rw [← ha]; rfl
  have hfields : a.mc = s.mc ∧ a.dram = s.dram ∧ a.flash = s.flash ∧ a.sivar = s.sivar ∧ a.log = s.log ∧ a.tensors = s.tensors := by
    rw [haf]
    exact ⟨rfl, rfl, rfl, rfl, rfl, rfl⟩
  obtain ⟨hamc, hadram, haflash, hasivar, halog, hatens⟩ := hfields
  have hap : ∀ p, a.part p = s.part p := fun p => by rw [haf]; rfl
  have hac : ∀ p, a.ctlOf p = s.ctlOf p := fun p => by rw [haf]; rfl
  rw [ha] at hex
  obtain ⟨hstop, htests, hkept, haround⟩ := a.beginDrain_begun
  have hcancel : ∀ p, p < 8 → (a.part p).run ≠ .stopped → Cancelled a a.beginDrain p := fun p hp hr => a.beginDrain_cancels hp hr
  have hsilent := Silent.beginDrain a
  generalize a.beginDrain = u at hex hstop htests hkept haround hcancel hsilent
  have hmc : u.mc = s.mc := ((congrArg State.mc haround :) : u.mc = a.mc).trans hamc
  refine ⟨_, hex, ((congrArg State.now haround :) : u.now = a.now).trans han, ?_, hstop, htests, fun p hp hr => ?_, ?_, ?_, ?_,
    fun id v hv hr => ?_, fun hd ho => ?_⟩
  · exact congrArg (fun m : Controller => { m with mresetDraining := true }) hmc
  · have hc := hcancel p hp (by rw [hap]; exact hr)
    exact ⟨hc.resume, fun hs => hc.recovery (by rw [hac]; exact hs)⟩
  · exact ((congrArg State.dram haround :) : u.dram = a.dram).trans hadram
  · exact ((congrArg State.flash haround :) : u.flash = a.flash).trans haflash
  · have hc : u.sivar.config = a.sivar.config := (congrArg (fun y : State => y.sivar.config) haround :)
    exact hc.trans (congrArg Sivar.config hasivar)
  · have hid : a.tensor id = s.tensor id := congrArg (fun m => tget ({} : Tensor) m id) hatens
    exact hkept.versions id v (by rw [hid]; exact hv) (by rw [hid]; exact hr)
  · have hq : Undisturbed a := by
      rw [haf]
      refine ⟨fun c => ?_, ho⟩
      show (tget ({} : Core) s.cores c).arr.drains = []
      cases hf : tfind s.cores c with
      | none => rw [tget, hf]; rfl
      | some k => rw [tget, hf]; exact hd _ (mem_of_tfind hf)
    exact ((hsilent.keeps hq).1).trans halog
/-! ### Shards lost in progress (R270, R313) -/

/-- No update runs and no exchange is under way. -/
structure AtRest (s : State) : Prop where
  runs : s.opt.runs = []
  exchange : s.ledger.exchange = []

theorem AtRest.run {s : State} (h : AtRest s) (p : Nat) : s.run p = {} := by
  rw [State.run, h.runs]
  rfl

theorem AtRest.exchangeOf {s : State} (h : AtRest s) (p q : Nat) : s.exchange p q = {} := by
  rw [State.exchange, h.exchange]
  rfl

theorem State.sendNorm_unclosed {s : State} {p q : Nat} (h : (s.exchange p q).farClosed = false) : s.sendNorm p q = s := by
  unfold State.sendNorm
  dsimp only
  rw [h]
  rfl

theorem State.inherit_atRest {s : State} (h : AtRest s) (p q n : Nat) : s.inherit p q n = s := by
  have hx := h.exchangeOf p q
  have hr := h.run p
  unfold State.inherit
  dsimp only
  rw [hx, hr]
  simp only [Bool.and_false, Bool.false_eq_true, if_false]
  rw [State.sendNorm_unclosed (by rw [hx])]
  rfl

theorem State.freeAcks_atRest {s : State} (h : AtRest s) : s.freeAcks = s := by
  unfold State.freeAcks
  refine List.foldlRecOn (motive := fun t : State => t = s) _ _ rfl fun t ht p _ => ?_
  refine List.foldlRecOn (motive := fun t : State => t = s) _ _ ht fun u hu q _ => ?_
  subst hu
  dsimp only
  rw [h.exchangeOf p q]
  rfl

theorem State.takeRoles_atRest {s : State} (h : AtRest s) (before : List (Nat × Nat × Nat)) : s.takeRoles before = s := by
  have hi : ((heldNow s).filter (fun e => e ∉ before)).foldl (fun (t : State) e => t.inherit e.1 e.2.1 e.2.2) s = s :=
    List.foldlRecOn (motive := fun t : State => t = s) _ _ rfl fun t ht e _ => by
      subst ht
      exact State.inherit_atRest h _ _ _
  unfold State.takeRoles
  rw [hi]
  exact State.freeAcks_atRest h

/-- Only the ledger, the requests to partitions and the log changed. -/
structure LedgerOnly (s t : State) : Prop where
  around : t.aroundLedger = s.aroundLedger
  opt : t.opt = s.opt
  tensors : t.tensors = s.tensors
  config : t.sivar.config = s.sivar.config
  exchange : t.ledger.exchange = s.ledger.exchange

namespace LedgerOnly

variable {s t u : State}

theorem refl (s : State) : LedgerOnly s s := ⟨rfl, rfl, rfl, rfl, rfl⟩
theorem trans (a : LedgerOnly s t) (b : LedgerOnly t u) : LedgerOnly s u :=
  ⟨b.around.trans a.around, b.opt.trans a.opt, b.tensors.trans a.tensors, b.config.trans a.config, b.exchange.trans a.exchange⟩

theorem atRest (a : LedgerOnly s t) (h : AtRest s) : AtRest t := ⟨by rw [a.opt]; exact h.runs, a.exchange.trans h.exchange⟩

theorem foldl {α : Type} {f : State → α → State} (hf : ∀ t a, LedgerOnly t (f t a)) (l : List α) (s : State) : LedgerOnly s (l.foldl f s) :=
  List.foldlRecOn (motive := LedgerOnly s) l f (refl s) fun _ ht a _ => ht.trans (hf _ a)

theorem event (s : State) (a b c d : Nat) : LedgerOnly s (s.event a b c d) := by
  have h := s.event_frame a b c d
  have hs := s.event_sivar a b c d
  have hr := s.event_aroundRecord a b c d
  generalize s.event a b c d = t at h hs hr
  exact ⟨State.aroundLedger_of_record hr, (congrArg State.opt h :), (congrArg State.tensors h :), (congrArg Sivar.config hs :),
    (congrArg (fun y : State => y.ledger.exchange) h :)⟩

theorem setCtl (s : State) (p : Nat) (v : PartControl) : LedgerOnly s (s.setCtl p v) := ⟨rfl, rfl, rfl, rfl, rfl⟩

theorem setWitness (s : State) (w : Nat) (x : Witness) : LedgerOnly s (s.setWitness w x) := ⟨rfl, rfl, rfl, rfl, rfl⟩

theorem say (s : State) (m : LedgerMsg) : LedgerOnly s (s.say m) := ⟨rfl, rfl, rfl, rfl, rfl⟩

theorem haltFeeders (s : State) : LedgerOnly s s.haltFeeders :=
  foldl (fun t p => foldl (fun u k => by
    split
    · exact setCtl ..
    · exact refl u) _ t) _ s

theorem ledgerHalt (s : State) (st : Nat) : LedgerOnly s (s.ledgerHalt st) := by
  have h0 : LedgerOnly s { s with ledger := { s.ledger with state := st } } := ⟨rfl, rfl, rfl, rfl, rfl⟩
  exact (h0.trans (haltFeeders _)).trans (event ..)

theorem keepRecord (s : State) (n : Nat) (rec : LedgerRecord) : LedgerOnly s (s.keepRecord n rec) :=
  ⟨State.aroundLedger_of_record (s.keepRecord_aroundRecord n rec), rfl, rfl, rfl, rfl⟩

theorem stepped (s : State) (rec : LedgerRecord) : LedgerOnly s (s.stepped rec) := ⟨rfl, rfl, rfl, rfl, rfl⟩
theorem withRoles (s : State) (rec : LedgerRecord) : LedgerOnly s (s.withRoles rec) := ⟨rfl, rfl, rfl, rfl, rfl⟩
theorem rolledBack (s : State) (rec : LedgerRecord) : LedgerOnly s (s.rolledBack rec) := ⟨rfl, rfl, rfl, rfl, rfl⟩

/-- A record that is applied while no update runs changes the ledger alone. -/
theorem applyRecord {s : State} (h : AtRest s) (rec : LedgerRecord) : LedgerOnly s (s.applyRecord rec) := by
  have hj : LedgerOnly s (s.journalled rec) := LedgerOnly.keepRecord s 65536 rec
  refine s.applyRecord_cases (P := LedgerOnly s) rec (refl s) hj ?step ?roles ?rollback
  case step => exact hj.trans (stepped _ rec)
  case roles =>
    have hall := (hj.trans (withRoles _ rec)).trans (foldl (fun t (r : Nat × Nat × Nat × Bool) => event t sevDegraded evShardUnmirrored r.1 r.2.1)
      (rec.roles.filter (fun r => !r.2.2.2 && !(s.ledger.roles.any (fun x => x.1 == r.1 && !x.2.2.2)))) _)
    rw [State.takeRoles_atRest (hall.atRest h)]
    exact hall
  case rollback => exact (hj.trans (rolledBack _ rec)).trans (ledgerHalt _ 6)

theorem commitIfHeld {s : State} (h : AtRest s) (rec : LedgerRecord) : LedgerOnly s (s.commitIfHeld rec) := by
  unfold State.commitIfHeld
  split
  · exact refl s
  · split
    · exact refl s
    · have h0 : LedgerOnly s { s with ledger := { s.ledger with proposed := s.ledger.proposed.filter (fun x => x.1 != rec) } } :=
        ⟨rfl, rfl, rfl, rfl, rfl⟩
      dsimp only
      generalize ({ s with ledger := { s.ledger with proposed := s.ledger.proposed.filter (fun x => x.1 != rec) } } : State) = u at h0
      exact (h0.trans (applyRecord (h0.atRest h) rec)).trans (say ..)

theorem propose {s : State} (h : AtRest s) (rec : LedgerRecord) : LedgerOnly s (s.propose rec) := by
  unfold State.propose
  split
  · exact refl s
  · next w _ =>
    dsimp only
    split
    · exact refl s
    · have h0 : LedgerOnly s ((s.setWitness w ((s.witness w).append rec)).say (.propose rec)) := (setWitness ..).trans (say ..)
      generalize (s.setWitness w ((s.witness w).append rec)).say (.propose rec) = u at h0
      have h1 : LedgerOnly s { u with ledger := { u.ledger with proposed := u.ledger.proposed ++ [(rec, [w])] } } :=
        h0.trans ⟨rfl, rfl, rfl, rfl, rfl⟩
      exact h1.trans (commitIfHeld (h1.atRest h) rec)

theorem loseShards {s : State} (h : AtRest s) (gone goneMirror : Nat → Nat → Bool) (split' : Bool) :
    LedgerOnly s (s.loseShards gone goneMirror split') := by
  unfold State.loseShards
  split
  · exact refl s
  · refine List.foldlRecOn (motive := LedgerOnly s) _ _ (refl s) fun t ht p _ => ht.trans ?_
    have hr := ht.atRest h
    split
    · exact refl t
    · split
      · exact propose hr _
      · split
        · exact ledgerHalt t 3
        · split
          · have h0 : LedgerOnly t { t with ledger := { t.ledger with proposed := t.ledger.proposed.filter (fun e => e.1.kind != 1) } } :=
              ⟨rfl, rfl, rfl, rfl, rfl⟩
            unfold State.proposeRollback
            dsimp only
            generalize ({ t with ledger := { t.ledger with proposed := t.ledger.proposed.filter (fun e => e.1.kind != 1) } } : State) = u at h0
            exact h0.trans (propose (h0.atRest hr) _)
          · exact ledgerHalt t 3

theorem ownLedger (s : State) : LedgerOnly s s.ownLedger := by
  unfold State.ownLedger
  split
  · exact ⟨rfl, rfl, rfl, rfl, rfl⟩
  · exact refl s

end LedgerOnly
/-! ### The reports of what was lost -/

theorem take_keepFirst {α : Type} (f : α → Bool) (l : List α) : ∀ n m, m ≤ n → (keepFirst f n l).take m = l.take m := by
  induction l with
  | nil => intro n m _; rw [keepFirst]
  | cons a l ih =>
    intro n m h
    cases m with
    | zero => rw [List.take_zero, List.take_zero]
    | succ m =>
      cases n with
      | zero => omega
      | succ n =>
        rw [keepFirst]
        split
        · rw [List.take_succ_cons, List.take_succ_cons, ih n m (by omega)]
        · rw [List.take_succ_cons, List.take_succ_cons, ih (n + 1) m (by omega)]

/-- The ledger hears what was lost, and the reports of the updates gain theirs: nothing else of the quays' work changed. -/
structure ProgressLost (s t : State) : Prop where
  around : t.aroundLedger = s.aroundLedger
  opt : t.opt = { s.opt with reports := t.opt.reports }
  tensors : t.tensors = s.tensors
  config : t.sivar.config = s.sivar.config
  exchange : t.ledger.exchange = s.ledger.exchange

namespace ProgressLost

variable {s t u : State}

theorem refl (s : State) : ProgressLost s s := ⟨rfl, rfl, rfl, rfl, rfl⟩

theorem ledgerOnly (a : ProgressLost s t) (b : LedgerOnly t u) : ProgressLost s u :=
  ⟨b.around.trans a.around, by rw [b.opt]; exact a.opt, b.tensors.trans a.tensors, b.config.trans a.config, b.exchange.trans a.exchange⟩

theorem pushReport (a : ProgressLost s t) (rep : UpdateReport) : ProgressLost s (t.pushReport rep) :=
  ⟨a.around, (congrArg (fun o : Optimizer => { o with reports := (t.pushReport rep).opt.reports }) a.opt :), a.tensors, a.config, a.exchange⟩

theorem atRest (a : ProgressLost s t) (h : AtRest s) : AtRest t := ⟨by rw [a.opt]; exact h.runs, a.exchange.trans h.exchange⟩

end ProgressLost

/-- One update's lost shards: its report first, and nothing but the ledger after it. -/
theorem State.loseOne {s : State} (h : AtRest s) (e : Nat × UpdateReport × List (Nat × Nat)) :
    ∃ t, s.loseProgress [e] = t ∧ ProgressLost s t
      ∧ t.opt.reports = keepFirst (fun r => r.domain == e.2.1.domain) 16 ({ e.2.1 with flags := e.2.1.flags ||| 2 } :: s.opt.reports) := by
  obtain ⟨a, ha⟩ : ∃ a, s.pushReport { e.2.1 with flags := e.2.1.flags ||| 2 } = a := ⟨_, rfl⟩
  have hp : ProgressLost s a := ha ▸ (ProgressLost.refl s).pushReport _
  have hrep : a.opt.reports = keepFirst (fun r => r.domain == e.2.1.domain) 16 ({ e.2.1 with flags := e.2.1.flags ||| 2 } :: s.opt.reports) := by
    rw [← ha]; rfl
  refine ⟨_, rfl, ?_⟩
  unfold State.loseProgress
  rw [List.foldl_cons, List.foldl_nil]
  dsimp only
  rw [ha]
  have hsaid := LedgerOnly.foldl (f := fun (u : State) (x : Nat × Nat) => u.say (.shardLost e.2.1.domain e.2.1.step x.2))
    (fun u x => LedgerOnly.say u _) e.2.2 a
  generalize List.foldl _ a e.2.2 = b at hsaid
  split
  · exact ⟨hp.ledgerOnly hsaid, by rw [hsaid.opt]; exact hrep⟩
  · have hown := hsaid.trans (LedgerOnly.ownLedger b)
    have hall := hown.trans (LedgerOnly.loseShards (hown.atRest (hp.atRest h)) (fun o n => o == e.1 && decide (n ∈ e.2.2.map (fun x => x.2)))
      (fun o n => o == e.1 && decide (n ∈ e.2.2.map (fun x => x.2))) false)
    exact ⟨hp.ledgerOnly hall, by rw [hall.opt]; exact hrep⟩

/-- The lost updates' reports stand first, the last one foremost. -/
theorem State.loseProgress_loses (l : List (Nat × UpdateReport × List (Nat × Nat))) {s : State} (h : AtRest s) :
    ProgressLost s (s.loseProgress l)
      ∧ ∀ pre, pre.length + l.length ≤ 16 → s.opt.reports.take pre.length = pre →
        (s.loseProgress l).opt.reports.take (l.length + pre.length)
          = (l.map (fun e => { e.2.1 with flags := e.2.1.flags ||| 2 })).reverse ++ pre := by
  induction l generalizing s with
  | nil => exact ⟨.refl s, fun pre _ hp => by simpa [State.loseProgress] using hp⟩
  | cons e l ih =>
    obtain ⟨t, ht, hl, hr⟩ := State.loseOne h e
    have hcons : s.loseProgress (e :: l) = t.loseProgress l := by rw [← ht]; rfl
    obtain ⟨hb, hrest⟩ := ih (hl.atRest h)
    rw [hcons]
    refine ⟨⟨hb.around.trans hl.around, ?_, hb.tensors.trans hl.tensors, hb.config.trans hl.config, hb.exchange.trans hl.exchange⟩, fun pre hn hp => ?_⟩
    · exact hb.opt.trans (congrArg (fun o : Optimizer => { o with reports := (t.loseProgress l).opt.reports }) hl.opt :)
    · rw [List.length_cons] at hn
      have h1 := hrest ({ e.2.1 with flags := e.2.1.flags ||| 2 } :: pre) (by rw [List.length_cons]; omega)
        (by rw [hr, List.length_cons, take_keepFirst _ _ _ _ (by omega), List.take_succ_cons, hp])
      rw [List.length_cons] at h1
      rw [List.length_cons, List.map_cons, List.reverse_cons, List.append_assoc, List.singleton_append, ← h1]
      congr 1
      omega

theorem inProgress_length (s : State) : (inProgress s).length ≤ 8 := by
  unfold inProgress feeders
  rw [List.length_map]
  exact (List.length_filter_le _ _).trans ((List.length_filter_le _ _).trans (by rw [List.length_range]))

theorem mem_inProgress {s : State} {p : Nat} (hp : p ∈ feeders s) (h : (s.run p).phase = 3 ∨ (s.run p).phase = 4) :
    ∃ e ∈ inProgress s, e.2.1 = (s.run p).report :=
  ⟨_, List.mem_map.mpr ⟨p, List.mem_filter.mpr ⟨hp, decide_eq_true h⟩, rfl⟩, rfl⟩

theorem inProgress_nil {s : State} (h : ∀ p ∈ feeders s, ¬ ((s.run p).phase = 3 ∨ (s.run p).phase = 4)) : inProgress s = [] := by
  unfold inProgress
  rw [List.map_eq_nil_iff, List.filter_eq_nil_iff]
  exact fun p hp => by simpa using h p hp

/-- Every update in work is reported with its shards lost. -/
theorem State.loseProgress_reports {s u : State} (h : AtRest u) {p : Nat} (hp : p ∈ feeders s) (hw : (s.run p).phase = 3 ∨ (s.run p).phase = 4) :
    { (s.run p).report with flags := (s.run p).report.flags ||| 2 } ∈ (u.loseProgress (inProgress s)).opt.reports := by
  obtain ⟨e, he, hrep⟩ := mem_inProgress hp hw
  have hl := inProgress_length s
  have ht := (State.loseProgress_loses (inProgress s) h).2 [] (by rw [List.length_nil]; omega) rfl
  refine List.mem_of_mem_take (i := (inProgress s).length + ([] : List UpdateReport).length) ?_
  rw [ht, List.append_nil, List.mem_reverse]
  exact List.mem_map.mpr ⟨e, he, by rw [hrep]⟩
/-! ### The fences that a run puts in force again -/

/-- A wavelength fence meets a port that carries traffic on that wavelength. -/
def fenceBites (s : State) (f : Fence) : Prop :=
  f.cls = 5 ∧ 1 ≤ (s.port (f.unit / 16)).outcome ∧ (s.port (f.unit / 16)).outcome ≤ 3 ∧ f.unit % 16 ∈ (s.port (f.unit / 16)).used

/-- Fences bring no port up, and a hold stands. -/
structure Fenced (s t : State) : Prop where
  hold : ∀ i, (s.port i).hold = true → (t.port i).hold = true
  down : ∀ i, (s.port i).outcome = 0 → (t.port i).outcome = 0

namespace Fenced

variable {s t u : State}

theorem refl (s : State) : Fenced s s := ⟨fun _ h => h, fun _ h => h⟩
theorem trans (a : Fenced s t) (b : Fenced t u) : Fenced s u :=
  ⟨fun i h => b.hold i (a.hold i h), fun i h => b.down i (a.down i h)⟩

theorem of_ports (h : t.ports = s.ports) : Fenced s t := by
  have e : ∀ i, t.port i = s.port i := fun i => congrArg (fun m => tget ({} : Port) m i) h
  exact ⟨fun i hi => by rw [e]; exact hi, fun i hi => by rw [e]; exact hi⟩

theorem setPort (s : State) (i : Nat) (v : Port) (hh : v.hold = (s.port i).hold) (hd : (s.port i).outcome = 0 → v.outcome = 0) :
    Fenced s (s.setPort i v) := by
  have e : ∀ j, (s.setPort i v).port j = if j = i then v else s.port j := fun j => tget_tput ..
  refine ⟨fun j hj => ?_, fun j hj => ?_⟩ <;> rw [e j] <;> split
  · next h => rw [hh, ← h]; exact hj
  · exact hj
  · next h => exact hd (h ▸ hj)
  · exact hj

theorem notePort (s : State) (i : Nat) (old : Port) : Fenced s (s.notePort i old) := by
  unfold State.notePort
  dsimp only
  have hev : ∀ a b c d, Fenced s (s.event a b c d) := fun a b c d => of_ports (s.event_ports a b c d)
  split_ifs
  · exact refl s
  · exact refl s
  · exact hev ..
  · exact hev ..
  · exact refl s

theorem dropWavelength (s : State) (i w : Nat) : Fenced s (s.dropWavelength i w) := by
  unfold State.dropWavelength
  extract_lets v off
  split
  · next h =>
    have hl : Fenced s (s.setPort i (off.lane (v.used.filter (· != w)))) := setPort s i _ rfl fun h0 => by
      have h1 : 1 ≤ (s.port i).outcome := h.1
      omega
    generalize s.setPort i (off.lane _) = u at hl
    exact hl.trans (notePort u i v)
  · exact setPort s i off rfl id

theorem applyFence (s : State) (cls unit : Nat) : Fenced s (s.applyFence cls unit) := by
  unfold State.applyFence
  split
  · exact of_ports rfl
  · exact setPort _ _ _ rfl fun _ => rfl
  · exact dropWavelength ..
  · exact of_ports rfl
  · exact refl s

theorem applyFences (s : State) : Fenced s s.applyFences :=
  List.foldlRecOn (motive := Fenced s) _ _ (refl s) fun t ht f _ => ht.trans (applyFence t f.cls f.unit)

end Fenced

/-- A fence that meets no wavelength in use logs nothing, and after it no other fence meets one that it did not meet before. -/
theorem State.applyFence_unbitten {s : State} {f : Fence} (h : ¬ fenceBites s f) :
    (s.applyFence f.cls f.unit).log = s.log ∧ ∀ g, ¬ fenceBites s g → ¬ fenceBites (s.applyFence f.cls f.unit) g := by
  have same : ∀ t : State, t.ports = s.ports → ∀ g, ¬ fenceBites s g → ¬ fenceBites t g := fun t ht g hg => by
    have e : t.port (g.unit / 16) = s.port (g.unit / 16) := congrArg (fun m => tget ({} : Port) m (g.unit / 16)) ht
    unfold fenceBites
    rw [e]
    exact hg
  have put : ∀ i v, (v.outcome = 0 ∨ v.outcome = (s.port i).outcome ∧ v.used = (s.port i).used) →
      ∀ g, ¬ fenceBites s g → ¬ fenceBites (s.setPort i v) g := fun i v hv g hg => by
    have e : (s.setPort i v).port (g.unit / 16) = if g.unit / 16 = i then v else s.port (g.unit / 16) := tget_tput ..
    unfold fenceBites
    rw [e]
    split
    · next hi =>
      rcases hv with hv | ⟨ho, hu⟩
      · rw [hv]
        exact fun hx => absurd hx.2.1 (by decide)
      · rw [ho, hu, ← hi]
        exact hg
    · exact hg
  unfold State.applyFence
  split
  · exact ⟨rfl, same _ rfl⟩
  · exact ⟨rfl, put _ _ (.inl rfl)⟩
  · next hc =>
    have hn : ¬ (1 ≤ (s.port (f.unit / 16)).outcome ∧ (s.port (f.unit / 16)).outcome ≤ 3 ∧ f.unit % 16 ∈ (s.port (f.unit / 16)).used) :=
      fun hx => h ⟨hc, hx⟩
    unfold State.dropWavelength
    dsimp only
    rw [if_neg hn]
    exact ⟨rfl, put _ _ (.inr ⟨rfl, rfl⟩)⟩
  · exact ⟨rfl, same _ rfl⟩
  · exact ⟨rfl, fun _ hg => hg⟩

theorem State.applyFences_unbitten {s : State} (h : ∀ f ∈ s.overlay.fuses ++ s.overlay.entries ++ s.overlay.startFences, ¬ fenceBites s f) :
    s.applyFences.log = s.log :=
  (List.foldlRecOn (motive := fun t : State => t.log = s.log ∧
      ∀ f ∈ s.overlay.fuses ++ s.overlay.entries ++ s.overlay.startFences, ¬ fenceBites t f) _ _ ⟨rfl, h⟩ fun t ht f hf => by
    obtain ⟨hl, hn⟩ := State.applyFence_unbitten (ht.2 f hf)
    exact ⟨hl.trans ht.1, fun g hg => hn g (ht.2 g hg)⟩).1

/-! ### The run of bring-up that a module reset begins (R350 step 5) -/

/-- What the begin of that run leaves. -/
structure ResetRun (s t : State) : Prop where
  active : t.bring.active = true
  reset : t.bring.moduleReset = true
  stage : t.bring.stage = 3
  stopped : t.bring.stopped = false
  loader : t.bring.loader = false
  power : t.power.state = .bringingUp ∧ t.power.ready = false
  wafer : t.cores = [] ∧ t.pad = [] ∧ t.marks = []
  kept : t.parts = s.parts ∧ t.tensors = s.tensors ∧ t.dram = s.dram ∧ t.flash = s.flash ∧ t.sivar.config = s.sivar.config
    ∧ t.mc = s.mc ∧ t.now = s.now ∧ t.opt.reports = s.opt.reports
  fenced : Fenced s t
  log : (∀ f ∈ s.overlay.fuses ++ s.overlay.entries ++ s.overlay.startFences, ¬ fenceBites s f) → t.log = s.log

/-- The state in which that run puts the fences in force. -/
structure ResetReady (s a : State) : Prop where
  bring : a.bring.active = true ∧ a.bring.moduleReset = true ∧ a.bring.stage = 3 ∧ a.bring.stopped = false ∧ a.bring.loader = false
  power : a.power.state = .bringingUp ∧ a.power.ready = false
  wafer : a.cores = [] ∧ a.pad = [] ∧ a.marks = []
  kept : a.parts = s.parts ∧ a.tensors = s.tensors ∧ a.dram = s.dram ∧ a.flash = s.flash ∧ a.sivar = s.sivar
    ∧ a.mc = s.mc ∧ a.now = s.now ∧ a.opt = s.opt
  ports : a.ports = s.ports
  log : a.log = s.log
  fences : a.overlay.fuses ++ a.overlay.entries ++ a.overlay.startFences = s.overlay.fuses ++ s.overlay.entries ++ s.overlay.startFences

theorem ResetReady.applyFences {s a : State} (h : ResetReady s a) : ResetRun s a.applyFences := by
  obtain ⟨⟨b1, b2, b3, b4, b5⟩, ⟨b6, b7⟩, ⟨g1, g2, g3⟩, ⟨g4, g5, g6, g7, g8, g9, g10, g11⟩, g12, g13, ho⟩ := h
  have hf := a.applyFences_aroundFence g2
  have hfe := Fenced.applyFences a
  have hlog := State.applyFences_unbitten (s := a)
  rw [ho] at hlog
  generalize a.applyFences = t at hf hfe hlog
  have hbr : t.bring = a.bring := (congrArg State.bring hf :)
  have hpw : t.power = a.power := (congrArg State.power hf :)
  refine ⟨by rw [hbr]; exact b1, by rw [hbr]; exact b2, by rw [hbr]; exact b3, by rw [hbr]; exact b4, by rw [hbr]; exact b5,
    by rw [hpw]; exact ⟨b6, b7⟩, ⟨(congrArg State.cores hf :).trans g1, (congrArg State.pad hf :).trans g2, (congrArg State.marks hf :).trans g3⟩,
    ⟨(congrArg State.parts hf :).trans g4, (congrArg State.tensors hf :).trans g5, (congrArg State.dram hf :).trans g6,
      (congrArg State.flash hf :).trans g7, ?_, (congrArg State.mc hf :).trans g9, (congrArg State.now hf :).trans g10, ?_⟩,
    (Fenced.of_ports g12).trans hfe, fun h => (hlog fun f hm => ?_).trans g13⟩
  · have hc : t.sivar.config = a.sivar.config := (congrArg (fun y : State => y.sivar.config) hf :)
    exact hc.trans (congrArg Sivar.config g8)
  · have hc : t.opt.reports = a.opt.reports := (congrArg (fun y : State => y.opt.reports) hf :)
    exact hc.trans (congrArg Optimizer.reports g11)
  · have e : a.port (f.unit / 16) = s.port (f.unit / 16) := congrArg (fun m => tget ({} : Port) m (f.unit / 16)) g12
    unfold fenceBites
    rw [e]
    exact h f hm

theorem State.beginStages_resets (s : State) (form : Nat) : ResetRun s (s.beginStages form true) := by
  have hstage : ∀ b, (stageList form true b).headD 0 = 3 := fun _ => rfl
  obtain ⟨w, hw⟩ : ∃ w, s.clearWafer = w := ⟨_, rfl⟩
  have hframe := s.clearWafer_frame
  rw [hw] at hframe
  have hfields : w.cores = [] ∧ w.pad = [] ∧ w.marks = [] ∧ w.parts = s.parts ∧ w.tensors = s.tensors ∧ w.dram = s.dram ∧ w.flash = s.flash
      ∧ w.sivar = s.sivar ∧ w.mc = s.mc ∧ w.now = s.now ∧ w.opt = s.opt ∧ w.ports = s.ports ∧ w.log = s.log ∧ w.overlay = s.overlay := by
    rw [hframe]
    exact ⟨rfl, rfl, rfl, rfl, rfl, rfl, rfl, rfl, rfl, rfl, rfl, rfl, rfl, rfl⟩
  clear hframe
  obtain ⟨hcores, hpad, hmarks, hparts, htens, hdram, hflash, hsivar, hmc, hnow, hopt, hports, hlog, hover⟩ := hfields
  unfold State.beginStages
  dsimp only
  rw [hw]
  refine ResetReady.applyFences ⟨⟨rfl, rfl, hstage (s4Old s), rfl, rfl⟩, ⟨rfl, rfl⟩, ⟨hcores, hpad, hmarks⟩,
    ⟨hparts, htens, hdram, hflash, hsivar, hmc, hnow, hopt⟩, hports, hlog, ?_⟩
  rw [← hover]
  have hx : ∀ v : Overlay, v.fuses = w.overlay.fuses → v.entries = w.overlay.entries → v.startFences = w.overlay.startFences →
      v.fuses ++ v.entries ++ v.startFences = w.overlay.fuses ++ w.overlay.entries ++ w.overlay.startFences := fun v h1 h2 h3 => by
    rw [h1, h2, h3]
  refine hx _ ?_ ?_ ?_ <;> simp only [if_true] <;> split <;> rfl
/-! ### The reset itself, after the drain or by the fallback -/

/-- What a module reset leaves: bring-up begins at S3, the wafer holds nothing, and what was not committed is gone. -/
structure ModuleReset (s t : State) : Prop where
  run : t.bring.active = true ∧ t.bring.moduleReset = true ∧ t.bring.stage = 3 ∧ t.bring.stopped = false ∧ t.bring.loader = false
  power : t.power.state = .bringingUp ∧ t.power.ready = false
  mc : t.mc.mresetAt = none ∧ t.mc.mresetDraining = false
  wafer : t.cores = [] ∧ t.pad = [] ∧ t.marks = []
  parts : ∀ p, (t.part p).run = .stopped ∧ (t.part p).resume = none
  committed : ∀ id, ∀ v ∈ (t.tensor id).versions, v.committed = true
  kept : t.dram = s.dram ∧ t.flash = s.flash ∧ t.sivar.config = s.sivar.config
  now : t.now = s.now
  lost : ∀ p ∈ feeders s, (s.run p).phase = 3 ∨ (s.run p).phase = 4 →
    { (s.run p).report with flags := (s.run p).report.flags ||| 2 } ∈ t.opt.reports
  fenced : Fenced s t
  log : (∀ f ∈ s.overlay.fuses ++ s.overlay.entries ++ s.overlay.startFences, ¬ fenceBites s f) →
    (∀ p ∈ feeders s, ¬ ((s.run p).phase = 3 ∨ (s.run p).phase = 4)) → t.log = s.log

/-- The state in which the shards in progress are lost: the quays' work reset, the uncommitted versions dropped, every partition stopped. -/
def State.dropped (s : State) : State :=
  let s1 := (s.clearQuays.dropVersions false).journalDone jReset 0
  { s1 with
    parts := s1.parts.map (fun e => (e.1, { e.2 with run := .stopped, resume := none, barriers := [], resetAt := none }))
    tide := { s1.tide with run := .stopped, joined := false, isRoot := false, lock := 0, sent := [] }
    mc := { s1.mc with mresetAt := none, mresetDraining := false } }

theorem State.clearQuays_atRest (s : State) : AtRest s.clearQuays := by
  have key : ∀ (l : List Nat) (a : State), AtRest a → AtRest (l.foldl (fun (u : State) tid => u.retireUnnamed tid) a) := fun l a ha => by
    have h := State.retireAll_frame l a
    generalize l.foldl (fun (u : State) tid => u.retireUnnamed tid) a = t at h
    exact ⟨((congrArg State.opt h :) : t.opt = a.opt).symm ▸ ha.runs, ((congrArg State.ledger h :) : t.ledger = a.ledger).symm ▸ ha.exchange⟩
  exact key _ _ ⟨rfl, rfl⟩

/-- What the drop leaves. -/
structure Dropped (s t : State) : Prop where
  rest : AtRest t
  parts : ∀ p, (t.part p).run = .stopped ∧ (t.part p).resume = none
  committed : ∀ id, ∀ v ∈ (t.tensor id).versions, v.committed = true
  mc : t.mc.mresetAt = none ∧ t.mc.mresetDraining = false
  kept : t.dram = s.dram ∧ t.flash = s.flash ∧ t.sivar = s.sivar ∧ t.now = s.now ∧ t.ports = s.ports ∧ t.log = s.log ∧ t.overlay = s.overlay

theorem State.dropped_drops (s : State) : Dropped s s.dropped := by
  have hrest := s.clearQuays_atRest
  have hframe := s.clearQuays_frame
  unfold State.dropped
  dsimp only
  generalize s.clearQuays = a at hrest hframe
  have hfields : a.dram = s.dram ∧ a.flash = s.flash ∧ a.sivar = s.sivar ∧ a.now = s.now ∧ a.ports = s.ports ∧ a.log = s.log
      ∧ a.overlay = s.overlay := by
    rw [hframe]
    exact ⟨rfl, rfl, rfl, rfl, rfl, rfl, rfl⟩
  refine ⟨⟨hrest.runs, hrest.exchange⟩, fun p => ?_, fun id v hv => ?_, ⟨rfl, rfl⟩, hfields⟩
  · have e : ∀ (m : Tbl Partition), (tget ({} : Partition) (m.map (fun e => (e.1, { e.2 with run := .stopped, resume := none, barriers := [], resetAt := none }))) p)
        = { tget ({} : Partition) m p with run := .stopped, resume := none, barriers := [], resetAt := none } := fun m =>
      tget_map (f := fun v : Partition => { v with run := .stopped, resume := none, barriers := [], resetAt := none }) rfl m p
    exact ⟨congrArg Partition.run (e _), congrArg Partition.resume (e _)⟩
  · have hd := a.dropVersions_tensor false id
    have hv' : v ∈ ((a.dropVersions false).tensor id).versions := hv
    rw [hd] at hv'
    exact (List.mem_filter.mp hv').2

theorem State.noteAlert_frame (s : State) : s.noteAlert = { s with power := s.noteAlert.power }
    ∧ s.noteAlert.power.state = s.power.state ∧ s.noteAlert.power.ready = s.power.ready := by
  unfold State.noteAlert
  split_ifs <;> exact ⟨rfl, rfl, rfl⟩

theorem State.resetModule_resets (s : State) : ModuleReset s s.resetModule := by
  have hd := s.dropped_drops
  have e : s.resetModule = ((s.dropped.loseProgress (inProgress s)).beginStages s.dropped.bring.form true).noteAlert := rfl
  rw [e]
  have hlost := (State.loseProgress_loses (inProgress s) hd.rest).1
  have hnone : (∀ p ∈ feeders s, ¬ ((s.run p).phase = 3 ∨ (s.run p).phase = 4)) → s.dropped.loseProgress (inProgress s) = s.dropped := fun h => by
    rw [inProgress_nil h]
    rfl
  have hrep := fun p hp hw => State.loseProgress_reports (s := s) hd.rest (p := p) hp hw
  generalize s.dropped = a at hd hlost hnone hrep
  generalize a.loseProgress (inProgress s) = b at hlost hnone hrep
  obtain ⟨hrest, hparts, hcomm, hmc, hdram, hflash, hsivar, hnow, hports, hlog, hover⟩ := hd
  have hr := b.beginStages_resets a.bring.form
  generalize b.beginStages a.bring.form true = c at hr
  obtain ⟨halert, hstate, hready⟩ := c.noteAlert_frame
  generalize c.noteAlert = t at halert hstate hready
  have hbr : t.bring = c.bring := (congrArg State.bring halert :)
  have hcp : c.parts = a.parts := hr.kept.1.trans (congrArg State.parts hlost.around :)
  have htp : ∀ p, t.part p = a.part p := fun p => by
    have h1 : t.parts = a.parts := (congrArg State.parts halert :).trans hcp
    rw [State.part, State.part, h1]
  have htt : ∀ id, t.tensor id = a.tensor id := fun id => by
    have h1 : t.tensors = a.tensors := (congrArg State.tensors halert :).trans (hr.kept.2.1.trans hlost.tensors)
    rw [State.tensor, State.tensor, h1]
  have hmc' : t.mc = a.mc := ((congrArg State.mc halert :) : t.mc = c.mc).trans (hr.kept.2.2.2.2.2.1.trans (congrArg State.mc hlost.around :))
  obtain ⟨-, -, kd, kf, kc, -, kn, kr⟩ := hr.kept
  have hbp : b.ports = s.ports := ((congrArg State.ports hlost.around :) : b.ports = a.ports).trans hports
  have hbo : b.overlay = s.overlay := ((congrArg State.overlay hlost.around :) : b.overlay = a.overlay).trans hover
  refine ⟨by rw [hbr]; exact ⟨hr.active, hr.reset, hr.stage, hr.stopped, hr.loader⟩, ⟨hstate.trans hr.power.1, hready.trans hr.power.2⟩,
    by rw [hmc']; exact hmc, ⟨(congrArg State.cores halert :).trans hr.wafer.1, (congrArg State.pad halert :).trans hr.wafer.2.1,
      (congrArg State.marks halert :).trans hr.wafer.2.2⟩, fun p => by rw [htp]; exact hparts p, fun id => by rw [htt]; exact hcomm id,
    ⟨?_, ?_, ?_⟩, ?_, fun p hp hw => ?_, ?_, fun hq hn => ?_⟩
  · exact (((congrArg State.dram halert :) : t.dram = c.dram).trans kd).trans (((congrArg State.dram hlost.around :) : b.dram = a.dram).trans hdram)
  · exact (((congrArg State.flash halert :) : t.flash = c.flash).trans kf).trans (((congrArg State.flash hlost.around :) : b.flash = a.flash).trans hflash)
  · have h1 : t.sivar.config = c.sivar.config := (congrArg (fun y : State => y.sivar.config) halert :)
    exact (h1.trans kc).trans (hlost.config.trans (congrArg Sivar.config hsivar))
  · exact (((congrArg State.now halert :) : t.now = c.now).trans kn).trans (((congrArg State.now hlost.around :) : b.now = a.now).trans hnow)
  · have h1 : t.opt.reports = b.opt.reports := ((congrArg (fun y : State => y.opt.reports) halert :) : t.opt.reports = c.opt.reports).trans kr
    rw [h1]
    exact hrep p hp hw
  · exact ((Fenced.of_ports hbp).trans hr.fenced).trans (Fenced.of_ports (congrArg State.ports halert :))
  · have hba := hnone hn
    refine ((congrArg State.log halert :) : t.log = c.log).trans ((hr.log fun f hf => ?_).trans (by rw [hba]; exact hlog))
    rw [hbo] at hf
    have ep : b.port (f.unit / 16) = s.port (f.unit / 16) := congrArg (fun m => tget ({} : Port) m (f.unit / 16)) hbp
    unfold fenceBites
    rw [ep]
    exact hq f hf
/-- Every port stands, or goes DOWN as it leaves. -/
theorem State.leavePorts_standsOrDown (s : State) (i : Nat) : s.leavePorts.port i = s.port i ∨ (s.leavePorts.port i).outcome = 0 := by
  refine List.foldlRecOn (motive := fun t : State => t.port i = s.port i ∨ (t.port i).outcome = 0) _ _ (.inl rfl) fun t ht k _ => ?_
  dsimp only
  split
  · exact ht
  · have e : ∀ v, (t.setPort k v).port i = if i = k then v else t.port i := fun v => tget_tput ..
    rw [e]
    split
    · exact .inr rfl
    · exact ht

theorem fenceBites_of_port {s t : State} {f : Fence} (h : ∀ i, t.port i = s.port i ∨ (t.port i).outcome = 0) (hn : ¬ fenceBites s f) :
    ¬ fenceBites t f := by
  intro hb
  rcases h (f.unit / 16) with e | e
  · unfold fenceBites at hb
    rw [e] at hb
    exact hn hb
  · exact absurd (hb.2.1.trans_eq e) (by decide)

theorem execModuleResetDrainDone_eq {s : State} (h : s.mc.mresetDraining = true) :
    exec (.moduleResetDrainDone) s = .next s.leavePorts.resetModule :=
  congrArg Host.Outcome.next (if_neg (by rw [h]; exact Bool.false_ne_true))

/-- Every port that carries traffic, but the service ports, holds. -/
def State.holdPorts (s : State) : State :=
  (s.ports.map (fun e => e.1)).foldl (fun (u : State) i =>
    if (u.port i).up ∧ ¬(496 ≤ i ∧ i < 512) then u.setPort i { u.port i with hold := true } else u) s

/-- A port that holds, or stands. -/
def heldPort (v w : Port) : Prop := w = v ∨ w = { v with hold := true }

theorem State.holdPorts_holds (s : State) :
    s.holdPorts = { s with ports := s.holdPorts.ports } ∧ (∀ i, heldPort (s.port i) (s.holdPorts.port i))
      ∧ ∀ i, ¬ (496 ≤ i ∧ i < 512) → (s.port i).up = true → (s.holdPorts.port i).hold = true := by
  have one : ∀ (u : State) (k i : Nat), heldPort (u.port i)
      ((if (u.port k).up = true ∧ ¬(496 ≤ k ∧ k < 512) then u.setPort k { u.port k with hold := true } else u).port i) := fun u k i => by
    split
    · have e : (u.setPort k { u.port k with hold := true }).port i = if i = k then { u.port k with hold := true } else u.port i := tget_tput ..
      rw [e]
      split
      · next hi => exact .inr (by rw [hi])
      · exact .inl rfl
    · exact .inl rfl
  have all : ∀ (l : List Nat) (u : State),
      let t := l.foldl (fun (u : State) k => if (u.port k).up ∧ ¬(496 ≤ k ∧ k < 512) then u.setPort k { u.port k with hold := true } else u) u
      t = { u with ports := t.ports } ∧ (∀ i, heldPort (u.port i) (t.port i))
        ∧ ∀ i, ¬ (496 ≤ i ∧ i < 512) → (u.port i).up = true → i ∈ l ∨ (u.port i).hold = true → (t.port i).hold = true := by
    intro l
    induction l with
    | nil => exact fun u => ⟨rfl, fun _ => .inl rfl, fun i _ _ h => h.resolve_left List.not_mem_nil⟩
    | cons k l ih =>
      intro u
      have hone := one u k
      have hself : ¬ (496 ≤ k ∧ k < 512) → (u.port k).up = true →
          ((if (u.port k).up = true ∧ ¬(496 ≤ k ∧ k < 512) then u.setPort k { u.port k with hold := true } else u).port k).hold = true := fun h1 h2 => by
        rw [if_pos ⟨h2, h1⟩]
        exact congrArg Port.hold (tget_tput_same ({} : Port) u.ports k _)
      have hframe : (if (u.port k).up = true ∧ ¬(496 ≤ k ∧ k < 512) then u.setPort k { u.port k with hold := true } else u)
          = { u with ports := (if (u.port k).up = true ∧ ¬(496 ≤ k ∧ k < 512) then u.setPort k { u.port k with hold := true } else u).ports } := by
        split <;> rfl
      rw [List.foldl_cons]
      generalize (if (u.port k).up = true ∧ ¬(496 ≤ k ∧ k < 512) then u.setPort k { u.port k with hold := true } else u) = v at hone hself hframe
      obtain ⟨h1, h2, h3⟩ := ih v
      dsimp only at h1 h2 h3 ⊢
      generalize List.foldl _ v l = t at h1 h2 h3
      have hup : ∀ i, (u.port i).up = true → (v.port i).up = true := fun i h => by
        rcases hone i with e | e <;> rw [e] <;> exact h
      refine ⟨h1.trans (congrArg (fun y : State => { y with ports := t.ports }) hframe), fun i => ?_, fun i hi hu h => ?_⟩
      · rcases hone i with e | e <;> rcases h2 i with e' | e'
        · exact .inl (e'.trans e)
        · exact .inr (by rw [e', e])
        · exact .inr (e'.trans e)
        · exact .inr (by rw [e', e])
      · refine h3 i hi (hup i hu) ?_
        rcases h with hm | hh
        · rcases List.mem_cons.mp hm with rfl | hm
          · exact .inr (hself hi hu)
          · exact .inl hm
        · refine .inr ?_
          rcases hone i with e | e <;> rw [e]
          exact hh
  obtain ⟨h1, h2, h3⟩ := all (s.ports.map (fun e => e.1)) s
  refine ⟨h1, h2, fun i hi hu => h3 i hi hu ?_⟩
  by_cases hm : i ∈ s.ports.map (fun e => e.1)
  · exact .inl hm
  · have hd : s.port i = {} := by
      rw [State.port, tget, tfind_eq_none_of_keys hm]
      rfl
    rw [hd] at hu
    exact absurd hu (by decide)

theorem execFallbackReset_eq {s : State} {at' : Nat} (ha : s.mc.mresetAt = some at') (h : s.mc.mresetDraining = true) :
    exec (.fallbackReset) s = .next (((s.advance (at' + 150000)).holdPorts.event sevFault evModuleReset 0 1).resetModule) := by
  refine congrArg Host.Outcome.next ?_
  rw [ha]
  exact if_neg (by rw [h]; exact Bool.false_ne_true)

/-- Settles O42: the request, the tick boundary, and the reset after the drain or by the fallback. -/
theorem moduleResetDrainsAndRestarts : Obligations.ModuleResetDrainsAndRestarts := by
  unfold Obligations.ModuleResetDrainsAndRestarts
  intro begun settled inWork lost
  have hbegun : ∀ {s u t : State}, ModuleReset u t → u.dram = s.dram → u.flash = s.flash → u.sivar.config = s.sivar.config → begun s t :=
    fun h hd hf hc => by
      obtain ⟨h1, h2, h3, h4, h5⟩ := h.run
      exact ⟨h1, h2, h3, h4, h5, h.power.1, h.power.2, h.mc.1, h.mc.2, h.wafer.1, h.wafer.2.1, h.wafer.2.2, h.parts, h.committed,
        h.kept.1.trans hd, h.kept.2.1.trans hf, h.kept.2.2.trans hc⟩
  have hset : ∀ {s : State}, settled s → ∀ f ∈ s.overlay.fuses ++ s.overlay.entries ++ s.overlay.startFences, ¬ fenceBites s f :=
    fun h f hf hb => h f hf hb.1 hb.2
  refine ⟨moduleResetRequest_asks, fun s cl hs h => ?_, moduleResetInstance_drains, fun s h => ?_, fun s at' ha h => ?_⟩
  · exact congrArg Host.Outcome.next (command_unchanged hs (doModuleReset_busy (s := s.asked) h))
  · obtain ⟨hdown, -, hframe⟩ := s.leavePorts_leaves
    have hstand := s.leavePorts_standsOrDown
    have hex := execModuleResetDrainDone_eq h
    generalize s.leavePorts = u at hdown hframe hstand hex
    have hfeed : feeders u = feeders s := by rw [hframe]; rfl
    have hrun : ∀ p, u.run p = s.run p := fun p => by rw [hframe]; rfl
    have hover : u.overlay = s.overlay := by rw [hframe]
    have hr := u.resetModule_resets
    generalize u.resetModule = t at hex hr
    refine ⟨t, hex, hbegun hr (by rw [hframe]) (by rw [hframe]) (by rw [hframe]), hr.now.trans (by rw [hframe]), fun p hp hw => ?_,
      fun hq hn => ?_, fun i hi h5 => hr.fenced.down i (hdown i hi h5)⟩
    · have hl := hr.lost p (hfeed ▸ hp)
      rw [hrun] at hl
      exact hl hw
    · refine (hr.log (fun f hf => ?_) (fun p hp => ?_)).trans (by rw [hframe])
      · exact fenceBites_of_port hstand (hset hq f (hover ▸ hf))
      · rw [hrun]
        exact hn p (hfeed ▸ hp)
  · obtain ⟨a, hadv⟩ : ∃ a, s.advance (at' + 150000) = a := ⟨_, rfl⟩
    have haf : a = { s with now := a.now, rtc := a.rtc } := by rw [← hadv]; rfl
    have han : a.now = max s.now (at' + 150000) := by rw [← hadv]; rfl
    have hex := execFallbackReset_eq ha h
    rw [hadv] at hex
    obtain ⟨hframe, hheld, hhold⟩ := a.holdPorts_holds
    generalize a.holdPorts = u at hex hframe hheld hhold
    have hus : u = { s with now := a.now, rtc := a.rtc, ports := u.ports } := hframe.trans (congrArg (fun y : State => { y with ports := u.ports }) haf :)
    have hlog := logged_event_of (s := s) (u := u) (by rw [hus]) (by rw [hus]) (by rw [hus]; rfl) sevFault evModuleReset 0 1
    have hev := u.event_frame sevFault evModuleReset 0 1
    have hsiv := u.event_sivar sevFault evModuleReset 0 1
    generalize u.event sevFault evModuleReset 0 1 = v at hex hlog hev hsiv
    have hvs : v = { s with now := a.now, rtc := a.rtc, ports := u.ports, log := v.log, hosts := v.hosts, sivar := v.sivar } :=
      hev.trans (congrArg (fun y : State => { y with log := v.log, hosts := v.hosts, sivar := v.sivar }) hus :)
    have hfeed : feeders v = feeders s := by
      have hc : v.sivar.config = s.sivar.config := by rw [hsiv, hus]
      exact SameLayout.feeders (s := s) (t := v) ⟨by rw [hvs], by rw [hvs], by rw [hvs], hc, by rw [hvs]⟩
    have hrun : ∀ p, v.run p = s.run p := fun p => by rw [hvs]; rfl
    have hover : v.overlay = s.overlay := by rw [hvs]
    have hap : ∀ i, a.port i = s.port i := fun i => by rw [haf]; rfl
    have hvp : ∀ i, v.port i = u.port i := fun i => by rw [hvs]; rfl
    have hr := v.resetModule_resets
    generalize v.resetModule = t at hex hr
    refine ⟨t, hex, hbegun hr (by rw [hvs]) (by rw [hvs]) (by rw [hsiv, hus]), hr.now.trans ?_, fun p hp hw => ?_, fun hq hn => ?_, fun i hi hup => ?_⟩
    · rw [hvs]
      exact han
    · have hl := hr.lost p (hfeed ▸ hp)
      rw [hrun] at hl
      exact hl hw
    · have hl := hr.log (fun f hf hb => ?_) (fun p hp => ?_)
      · unfold Logged at hlog ⊢
        rw [hl]
        exact hlog
      · refine hset hq f (hover ▸ hf) ?_
        unfold fenceBites at hb ⊢
        rw [hvp] at hb
        rcases hheld (f.unit / 16) with e | e <;> rw [e, hap] at hb <;> exact hb
      · rw [hrun]
        exact hn p (hfeed ▸ hp)
    · exact hr.fenced.hold i (by rw [hvp]; exact hhold i hi (by rw [hap]; exact hup))

end Sys2Proof.Machine
end

section
/-! SUPPORT. Recovery of a faulted partition. -/

namespace Sys2Proof.Machine

/-! ### What a substitution and the launch checks do not read -/

/-- A state with other journal entries, other control of the partitions and another answer. -/
def State.over (s : State) (j : List JournalEntry) (c : Tbl PartControl) (r : Resp) : State :=
  { s with mc := { s.mc with journal := j }, ctl := c, resp := r }

section
variable (s : State) (j : List JournalEntry) (c : Tbl PartControl) (r : Resp)

theorem pairStatus_over (p : Nat) (img : Image) : pairStatus (s.over j c r) p img = pairStatus s p img := by
  have h1 : pairBytes (s.over j c r) p = pairBytes s p := rfl
  have h2 : ∀ b, teacherHere (s.over j c r) b = teacherHere s b := fun _ => rfl
  have h3 : tideMembers (s.over j c r) = tideMembers s := rfl
  have h4 : ∀ q, imageFor (s.over j c r) q = imageFor s q := fun _ => rfl
  have h5 : ∀ q, (s.over j c r).defined q = s.defined q := fun _ => rfl
  have h6 : ∀ q, (s.over j c r).recOf q = s.recOf q := fun _ => rfl
  have h7 : (s.over j c r).freeCtr = s.freeCtr := rfl
  have h8 : (s.over j c r).tide = s.tide := rfl
  simp only [pairStatus, h1, h2, h3, h4, h5, h6, h7, h8]

theorem State.placeIn_over (q tier kind tid size : Nat) :
    placeIn (s.over j c r) q tier kind tid size = (placeIn s q tier kind tid size).map (fun t => t.over j c r) := by
  have h1 : (s.over j c r).quay q = s.quay q := rfl
  have h2 : tierCap (s.over j c r) q tier = tierCap s q tier := rfl
  unfold placeIn
  rw [h1, h2]
  dsimp only
  cases takeDown (gapsFrom (tierCap s q tier) 0 (usedIn (s.quay q).allocs tier (decide (kind = 2)))).reverse size <;> rfl

theorem State.sameLayout_over : SameLayout s (s.over j c r) := ⟨rfl, rfl, rfl, rfl, rfl⟩

theorem storeBytesOf_over (p q : Nat) : storeBytesOf (s.over j c r) p q = storeBytesOf s p q := by
  have h := s.sameLayout_over j c r
  simp only [storeBytesOf, sliceSlabs, slabsIn, h.shardSlabsNo, h.ownShard, h.slabSpan, h.placeOf, h.sliceRange, h.domainSlabs, h.recOf]

theorem allocStores_over : allocStores (s.over j c r) = (allocStores s).map (fun t => t.over j c r) := by
  have key : ∀ (l : List (Nat × Nat)) (o : Option State),
      l.foldl (fun (o : Option State) e => match o with
        | none => none
        | some t => placeIn t e.2 0 3 (ledgerOf t e.1) (storeBytesOf t e.1 e.2)) (o.map (fun t => t.over j c r))
      = (l.foldl (fun (o : Option State) e => match o with
        | none => none
        | some t => placeIn t e.2 0 3 (ledgerOf t e.1) (storeBytesOf t e.1 e.2)) o).map (fun t => t.over j c r) := by
    intro l
    induction l with
    | nil => exact fun _ => rfl
    | cons e l ih =>
      intro o
      rw [List.foldl_cons, List.foldl_cons, ← ih]
      congr 1
      cases o with
      | none => rfl
      | some t =>
        show placeIn (t.over j c r) e.2 0 3 (ledgerOf (t.over j c r) e.1) (storeBytesOf (t.over j c r) e.1 e.2) = _
        rw [(t.sameLayout_over j c r).ledgerOf, storeBytesOf_over, State.placeIn_over]
  unfold allocStores
  dsimp only
  obtain ⟨u, hu⟩ : ∃ u : State, { s with quays := s.quays.map (fun e => (e.1, { e.2 with allocs := e.2.allocs.filter (fun a => a.kind != 3) })) } = u := ⟨_, rfl⟩
  have hv : ({ s.over j c r with quays := (s.over j c r).quays.map (fun e => (e.1, { e.2 with allocs := e.2.allocs.filter (fun a => a.kind != 3) })) } : State)
      = u.over j c r := by rw [← hu]; rfl
  rw [hu, hv, (u.sameLayout_over j c r).ledgerParts]
  exact key _ (some u)

theorem storesFit_over (p : Nat) (img : Image) : storesFit (s.over j c r) p img = storesFit s p img := by
  have h : (s.over j c r).setPart p { (s.over j c r).part p with image := some img } = (s.setPart p { s.part p with image := some img }).over j c r := rfl
  unfold storesFit
  rw [h, allocStores_over, Option.isSome_map]

theorem ledgerStatus_over (p : Nat) (img : Image) : ledgerStatus (s.over j c r) p img = ledgerStatus s p img := by
  have h1 : (s.over j c r).ledger = s.ledger := rfl
  have h2 : digestDiffers (s.over j c r) = digestDiffers s := rfl
  simp only [ledgerStatus, h1, h2, storesFit_over]

theorem admitStatus_over (p : Nat) (img : Image) : admitStatus (s.over j c r) p img = admitStatus s p img := by
  have h1 : verifyStatus (s.over j c r) p img = verifyStatus s p img := rfl
  have h2 : plansStatus (s.over j c r) p img = plansStatus s p img := rfl
  have h3 : egressesStatus (s.over j c r) p img = egressesStatus s p img := rfl
  have h4 : spillStatus (s.over j c r) p img = spillStatus s p img := rfl
  unfold admitStatus
  rw [h1, h2, h3, h4, ledgerStatus_over, pairStatus_over]
  rfl

end
/-- An operation that neither reads nor writes what `over` replaces. -/
def Blind (f : State → State) : Prop := ∀ s j c r, f (State.over s j c r) = (f s).over j c r

namespace Blind

theorem foldl {α : Type} {f : State → α → State} (hf : ∀ a, Blind fun t => f t a) (l : List α) : Blind fun s => l.foldl f s := by
  induction l with
  | nil => exact fun _ _ _ _ => rfl
  | cons a l ih =>
    intro s j c r
    exact (congrArg (fun t => l.foldl f t) (hf a s j c r)).trans (ih (f s a) j c r)

theorem comp {f g : State → State} (hg : Blind g) (hf : Blind f) : Blind fun s => g (f s) := fun s j c r =>
  (congrArg g (hf s j c r)).trans (hg (f s) j c r)

theorem ite {P : Prop} [Decidable P] {a b x y : State} {j : List JournalEntry} {c : Tbl PartControl} {r : Resp}
    (ha : x = a.over j c r) (hb : y = b.over j c r) : (if P then x else y) = (if P then a else b).over j c r := by
  split
  · exact ha
  · exact hb

theorem append (e : Event) : Blind fun s => s.append e := fun _ _ _ _ => rfl

theorem event (a b u d : Nat) : Blind fun s => s.event a b u d := fun s j c r =>
  ite rfl (ite (ite rfl rfl) (append _ s j c r))

theorem forgetPad (k : Nat) (m : Bool) : Blind fun s => s.forgetPad k m := fun _ _ _ _ => rfl

theorem moveHealth (t col f : Nat) : Blind fun s => s.moveHealth t col f := fun s j c r => by
  unfold State.moveHealth
  dsimp only
  refine foldl (f := fun (u : State) (i : Nat) =>
    let n := if i < 23 then s.heal ((t / 8 * 24 + (i + 1)) * 192 + (t % 8 * 24 + col)) else {}
    let h := s.heal ((t / 8 * 24 + i) * 192 + (t % 8 * 24 + col))
    if h.dead = n.dead ∧ h.offered = n.offered then u
    else u.setHeal ((t / 8 * 24 + i) * 192 + (t % 8 * 24 + col)) { u.heal ((t / 8 * 24 + i) * 192 + (t % 8 * 24 + col)) with
      dead := n.dead, offered := n.offered }) (fun i u j c r => ite rfl rfl) _ s j c r

theorem shiftSites (site : Nat) : Blind fun s => s.shiftSites site := fun s j c r => by
  unfold State.shiftSites
  exact comp (foldl (fun i => forgetPad _ true) _) (moveHealth _ _ _) s j c r

theorem notePort (i : Nat) (old : Port) : Blind fun s => s.notePort i old := fun s j c r =>
  ite rfl (ite rfl (ite (event _ _ _ _ s j c r) (ite (event _ _ _ _ s j c r) rfl)))

theorem dropWavelength (i w : Nat) : Blind fun s => s.dropWavelength i w := fun s j c r =>
  ite (notePort i _ (s.setPort i _) j c r) rfl

theorem applyFence (cls unit : Nat) : Blind fun s => s.applyFence cls unit := fun s j c r => by
  unfold State.applyFence
  split
  · rfl
  · rfl
  · exact dropWavelength _ _ s j c r
  · rfl
  · rfl

theorem applyPending (p : Nat) : Blind fun s => s.applyPending p := fun s j c r => by
  unfold State.applyPending
  exact foldl (f := fun (t : State) (e : Nat × Fence) => if e.2.cls = 2 then t.shiftSites e.2.unit else t.applyFence e.2.cls e.2.unit)
    (fun e u j c r => ite (shiftSites _ u j c r) (applyFence _ _ u j c r)) _ { s with overlay := { s.overlay with pending := s.overlay.pending.filter (fun e => e.1 != p) } } j c r

/-- Adding a fence, and the status with it. -/
theorem addFence (cls o f unit : Nat) (s : State) (j c r) :
    ((s.over j c r).addFence cls o f unit).1 = ((s.addFence cls o f unit).1).over j c r := by
  unfold State.addFence
  dsimp only
  by_cases h : s.overlay.entries.length < 1024
  · rw [if_pos h]
    refine (congrArg Prod.fst (if_pos h)).trans ?_
    exact applyFence _ _ { s with overlay := _ } j c r
  · rw [if_neg h]
    refine (congrArg Prod.fst (if_neg h)).trans ?_
    exact comp (event sevFault evOverlayFull unit cls) (applyFence cls unit) { s with overlay := { s.overlay with
      startFences := s.overlay.startFences
        ++ [{ cls := cls, origin := o, flags := f, unit := unit, utc := s.utc, quaySerial := 0 }] } } j c r

theorem markUnusable (t : Nat) : Blind fun s => s.markUnusable t := fun s j c r =>
  ite rfl (event _ _ _ _ { s with overlay := { s.overlay with unusable := s.overlay.unusable ++ [t % 8] } } j c r)

theorem shiftColumn (site used o f : Nat) (s : State) (j c r) :
    ((s.over j c r).shiftColumn site used o f).1 = ((s.shiftColumn site used o f).1).over j c r := by
  unfold State.shiftColumn
  by_cases h : spareOf s (siteTile site) (siteCol site) = 0
  · rw [if_pos h]
    refine (congrArg Prod.fst (if_pos h)).trans ?_
    have h1 : (s.over j c r).shiftSites site = (s.shiftSites site).over j c r := shiftSites site s j c r
    dsimp only
    rw [h1, addFence]
    rfl
  · rw [if_neg h]
    refine (congrArg Prod.fst (if_neg h)).trans ?_
    exact markUnusable _ { s with overlay := _ } j c r

theorem substituteSite (site p : Nat) : Blind fun s => s.substituteSite site p := fun s j c r => by
  have h : ((s.over j c r).shiftColumn site 3 3 2).1 = ((s.shiftColumn site 3 3 2).1).over j c r := shiftColumn ..
  refine ite rfl ?_
  dsimp only
  rw [h]
  exact event _ _ _ _ { (s.shiftColumn site 3 3 2).1 with routersDown := (s.shiftColumn site 3 3 2).1.routersDown.filter (· != site) } j c r

theorem substituteOffer (k p : Nat) : Blind fun s => s.substituteOffer false k p := fun s j c r => by
  have h : ((s.over j c r).shiftColumn (coreSite s k) 3 3 2).1 = ((s.shiftColumn (coreSite s k) 3 3 2).1).over j c r := shiftColumn ..
  refine ite rfl ?_
  show ((s.over j c r).shiftColumn (coreSite s k) 3 3 2).1.event sevAbsorbed evSpareSubstituted (coreSite s k) p = _
  rw [h]
  exact event _ _ _ _ (s.shiftColumn (coreSite s k) 3 3 2).1 j c r

theorem substituteBand (p : Nat) : Blind fun s => s.substituteBand p := fun s j c r => by
  have h0 : (s.over j c r).applyPending p = (s.applyPending p).over j c r := applyPending p s j c r
  unfold State.substituteBand
  dsimp only
  rw [h0]
  generalize s.applyPending p = a
  have h1 := foldl (f := fun (u : State) k => u.substituteSite k p) (fun k => substituteSite k p)
    (a.routersDown.filter (fun k => a.bandHas p (siteTile k % 8) && siteInUse a k)) a j c r
  dsimp only at h1
  have hl : (a.over j c r).routersDown.filter (fun k => (a.over j c r).bandHas p (siteTile k % 8) && siteInUse (a.over j c r) k)
      = a.routersDown.filter (fun k => a.bandHas p (siteTile k % 8) && siteInUse a k) := rfl
  rw [hl, h1]
  generalize (a.routersDown.filter (fun k => a.bandHas p (siteTile k % 8) && siteInUse a k)).foldl (fun (u : State) k => u.substituteSite k p) a = b
  exact foldl (f := fun (u : State) k => u.substituteOffer false k p) (fun k => substituteOffer k p) _ b j c r

end Blind
/-! ### What the start of a partition leaves of the partitions' control -/

/-- Every partition's control, a partition's own decisions apart. -/
def State.ctlApart (own : Nat) (s : State) : Nat → PartControl :=
  fun q => if q = own then { s.ctlOf q with decisions := [] } else s.ctlOf q

section
variable (own : Nat)

theorem State.ctlApart_of_ctl {s t : State} (h : t.ctl = s.ctl) : t.ctlApart own = s.ctlApart own := by
  unfold State.ctlApart State.ctlOf
  rw [h]

@[simp] theorem ctlApart_ite {p : Prop} [Decidable p] (s t : State) :
    (if p then s else t).ctlApart own = if p then s.ctlApart own else t.ctlApart own := apply_ite (State.ctlApart own) p s t

@[simp] theorem foldl_ctlApart {α : Type} {f : State → α → State} (hf : ∀ t a, (f t a).ctlApart own = t.ctlApart own) (l : List α) (s : State) :
    (l.foldl f s).ctlApart own = s.ctlApart own :=
  List.foldlRecOn (motive := fun t => t.ctlApart own = s.ctlApart own) l f rfl fun t ht a _ => (hf t a).trans ht

@[simp] theorem State.setCore_ctlApart (s : State) (c : Nat) (v : Core) : (s.setCore c v).ctlApart own = s.ctlApart own := by rfl
@[simp] theorem State.setHeal_ctlApart (s : State) (c : Nat) (v : CoreHealth) : (s.setHeal c v).ctlApart own = s.ctlApart own := by rfl
@[simp] theorem State.setTile_ctlApart (s : State) (c : Nat) (v : Tile) : (s.setTile c v).ctlApart own = s.ctlApart own := by rfl
@[simp] theorem State.setGantry_ctlApart (s : State) (x : Nat) (v : Gantry) : (s.setGantry x v).ctlApart own = s.ctlApart own := by rfl
@[simp] theorem State.setSlot_ctlApart (s : State) (k : Nat) (v : ImageSlot) : (s.setSlot k v).ctlApart own = s.ctlApart own := by rfl
@[simp] theorem State.setQuay_ctlApart (s : State) (q : Nat) (v : Quay) : (s.setQuay q v).ctlApart own = s.ctlApart own := by rfl
@[simp] theorem State.setPair_ctlApart (s : State) (p : Nat) (v : Pair) : (s.setPair p v).ctlApart own = s.ctlApart own := by rfl
@[simp] theorem State.setPort_ctlApart (s : State) (i : Nat) (v : Port) : (s.setPort i v).ctlApart own = s.ctlApart own := by rfl
@[simp] theorem State.bump_ctlApart (s : State) : s.bump.ctlApart own = s.ctlApart own := by rfl
@[simp] theorem State.forgetPad_ctlApart (s : State) (c : Nat) (m : Bool) : (s.forgetPad c m).ctlApart own = s.ctlApart own := by rfl
@[simp] theorem State.setRun_ctlApart (s : State) (p : Nat) (r : UpdateRun) : (s.setRun p r).ctlApart own = s.ctlApart own := by rfl
@[simp] theorem State.journal_ctlApart (s : State) (k u e : Nat) : (s.journal k u e).ctlApart own = s.ctlApart own := by rfl
@[simp] theorem State.journalDone_ctlApart (s : State) (k u : Nat) : (s.journalDone k u).ctlApart own = s.ctlApart own := by rfl
@[simp] theorem State.overlay_ctlApart (s : State) (o : Overlay) : ({ s with overlay := o } : State).ctlApart own = s.ctlApart own := by rfl
@[simp] theorem State.routersDown_ctlApart (s : State) (r : List Nat) : ({ s with routersDown := r } : State).ctlApart own = s.ctlApart own := by rfl
@[simp] theorem State.quays_ctlApart (s : State) (q : Tbl Quay) : ({ s with quays := q } : State).ctlApart own = s.ctlApart own := by rfl

@[simp] theorem State.event_ctlApart (s : State) (a b c d : Nat) : (s.event a b c d).ctlApart own = s.ctlApart own :=
  State.ctlApart_of_ctl own (by rw [State.event_frame])

/-- A decision of the partition itself is noted apart. -/
@[simp] theorem State.decideNow_ctlApart (s : State) (k u v c : Nat) : (s.decideNow own k u v c).ctlApart own = s.ctlApart own := by
  unfold State.decideNow State.ctlApart
  funext q
  have e : ∀ w, ((((s.journal k u s.now).setCtl own w)).journalDone k u).ctlOf q = if q = own then w else s.ctlOf q := fun w => tget_tput ..
  dsimp only [State.decided]
  by_cases h : q = own
  · rw [if_pos h, if_pos h, e, if_pos h, h]
    rfl
  · rw [if_neg h, if_neg h, e, if_neg h]

@[simp] theorem State.loadSegment_ctlApart (s : State) (c : Nat) (g : Segment) : (s.loadSegment c g).ctlApart own = s.ctlApart own := by rfl
@[simp] theorem State.restartCore_ctlApart (s : State) (c : Nat) : (s.restartCore c).ctlApart own = s.ctlApart own := by rfl
@[simp] theorem State.putWindow_ctlApart (s : State) (c w : Nat) (m : BitVec 128) : (s.putWindow c w m).ctlApart own = s.ctlApart own := by rfl
@[simp] theorem State.moveHealth_ctlApart (s : State) (t col f : Nat) : (s.moveHealth t col f).ctlApart own = s.ctlApart own := by
  simp [State.moveHealth]
@[simp] theorem State.shiftSites_ctlApart (s : State) (site : Nat) : (s.shiftSites site).ctlApart own = s.ctlApart own := by
  simp [State.shiftSites]
@[simp] theorem State.noteShift_ctlApart (s : State) (site used : Nat) : (s.noteShift site used).ctlApart own = s.ctlApart own := by rfl
@[simp] theorem State.markUnusable_ctlApart (s : State) (t : Nat) : (s.markUnusable t).ctlApart own = s.ctlApart own := by
  simp [State.markUnusable]
@[simp] theorem State.loseColumn_ctlApart (s : State) (t col : Nat) : (s.loseColumn t col).ctlApart own = s.ctlApart own := by
  simp [State.loseColumn]
@[simp] theorem State.notePort_ctlApart (s : State) (i : Nat) (v : Port) : (s.notePort i v).ctlApart own = s.ctlApart own := by
  simp [State.notePort]
@[simp] theorem State.dropWavelength_ctlApart (s : State) (i w : Nat) : (s.dropWavelength i w).ctlApart own = s.ctlApart own := by
  simp [State.dropWavelength]
@[simp] theorem State.applyFence_ctlApart (s : State) (cls unit : Nat) : (s.applyFence cls unit).ctlApart own = s.ctlApart own := by
  simp only [State.applyFence]
  split
  · simp
  · simp
  · simp
  · rfl
  · rfl
@[simp] theorem State.addFence_ctlApart (s : State) (cls o f unit : Nat) : (s.addFence cls o f unit).1.ctlApart own = s.ctlApart own := by
  simp only [State.addFence]
  split <;> simp
@[simp] theorem State.shiftColumn_ctlApart (s : State) (site used o f : Nat) : (s.shiftColumn site used o f).1.ctlApart own = s.ctlApart own := by
  simp only [State.shiftColumn]
  split <;> simp
@[simp] theorem State.applyPending_ctlApart (s : State) (p : Nat) : (s.applyPending p).ctlApart own = s.ctlApart own := by
  simp [State.applyPending]
@[simp] theorem State.substituteSite_ctlApart (s : State) (site p : Nat) : (s.substituteSite site p).ctlApart own = s.ctlApart own := by
  simp [State.substituteSite]
@[simp] theorem State.substituteOffer_ctlApart (s : State) (c p : Nat) : (s.substituteOffer false c p).ctlApart own = s.ctlApart own := by
  simp [State.substituteOffer]
@[simp] theorem State.substituteBand_ctlApart (s : State) (p : Nat) : (s.substituteBand p).ctlApart own = s.ctlApart own := by
  simp [State.substituteBand]
@[simp] theorem State.verifySlot_ctlApart (s : State) (k : Nat) (p : Option Nat) : (s.verifySlot k p).ctlApart own = s.ctlApart own := by
  simp only [State.verifySlot]
  split <;> simp
@[simp] theorem State.loadStores_ctlApart (s : State) (p : Nat) (img : Image) (vs : List Nat) : (s.loadStores p img vs).ctlApart own = s.ctlApart own := by
  unfold State.loadStores
  refine (foldl_ctlApart own (fun u i => ?_) _ _).trans (foldl_ctlApart own (fun u c => by simp) _ _)
  dsimp only
  split
  · split <;> simp
  · rfl
@[simp] theorem State.loadBandTaps_ctlApart (s : State) (p : Nat) (img : Image) (vs : List Nat) : (s.loadBandTaps p img vs).ctlApart own = s.ctlApart own := by
  simp [State.loadBandTaps]
@[simp] theorem State.openWindows_ctlApart (s : State) (p : Nat) (img : Image) : (s.openWindows p img).ctlApart own = s.ctlApart own := by
  simp [State.openWindows]
@[simp] theorem State.startClock_ctlApart (s : State) (t : Nat) : (s.startClock t).ctlApart own = s.ctlApart own := by
  simp [State.startClock]
@[simp] theorem State.startClocks_ctlApart (s : State) (p : Nat) (img : Image) : (s.startClocks p img).ctlApart own = s.ctlApart own := by
  simp [State.startClocks]
@[simp] theorem State.freshCredits_ctlApart (s : State) (p : Nat) : (s.freshCredits p).ctlApart own = s.ctlApart own := by
  simp [State.freshCredits]
@[simp] theorem State.freshQuays_ctlApart (s : State) (p : Nat) (k : IssuedFetch → Bool) : (s.freshQuays p k).ctlApart own = s.ctlApart own := by
  simp [State.freshQuays]
@[simp] theorem State.freshLeads_ctlApart (s : State) (p : Nat) : (s.freshLeads p).ctlApart own = s.ctlApart own := by rfl
@[simp] theorem State.weighBand_ctlApart (s : State) : (s.weighBand own).ctlApart own = s.ctlApart own := by
  simp [State.weighBand]
@[simp] theorem State.weighLaunch_ctlApart (s : State) : (s.weighLaunch own).ctlApart own = s.ctlApart own := by
  simp [State.weighLaunch]
@[simp] theorem State.clearEgress_ctlApart (s : State) (p : Nat) : (s.clearEgress p).ctlApart own = s.ctlApart own := by rfl
@[simp] theorem State.fencePair_ctlApart (s : State) (p : Nat) : (s.fencePair p).ctlApart own = s.ctlApart own := by
  simp [State.fencePair]
@[simp] theorem State.refence_ctlApart (s : State) (p : Nat) : (s.refence p).ctlApart own = s.ctlApart own := by
  simp [State.refence]
@[simp] theorem State.clearMail_ctlApart (s : State) (p : Nat) : (s.clearMail p).ctlApart own = s.ctlApart own := by rfl
@[simp] theorem State.ownLedger_ctlApart (s : State) : s.ownLedger.ctlApart own = s.ctlApart own := by
  unfold State.ownLedger
  split <;> rfl
@[simp] theorem State.backUpdates_ctlApart (s : State) (p n0 : Nat) : (s.backUpdates p n0).ctlApart own = s.ctlApart own := by
  simp [State.backUpdates]
@[simp] theorem State.notePair_ctlApart (s : State) (p : Nat) : (s.notePair p).ctlApart own = s.ctlApart own := by
  simp [State.notePair]
@[simp] theorem State.notePairs_ctlApart (s : State) (p : Nat) : (s.notePairs p).ctlApart own = s.ctlApart own := by
  simp [State.notePairs]
theorem placeIn_ctlApart {s t : State} {q tier kind tid size : Nat} (h : placeIn s q tier kind tid size = some t) : t.ctlApart own = s.ctlApart own := by
  simp only [placeIn] at h
  split at h
  · cases h
  · cases h; simp
theorem allocStores_ctlApart {s t : State} (h : allocStores s = some t) : t.ctlApart own = s.ctlApart own := by
  revert t
  refine List.foldlRecOn (motive := fun (o : Option State) => ∀ {t}, o = some t → t.ctlApart own = s.ctlApart own) _ _
    (fun h => by cases h; rfl) fun o ho e _ t h => ?_
  split at h
  next => cases h
  next u => exact (placeIn_ctlApart own h).trans (ho rfl)
@[simp] theorem State.fitStores_ctlApart (s : State) : s.fitStores.ctlApart own = s.ctlApart own := by
  unfold State.fitStores
  split_ifs
  · cases h : allocStores s with
    | none => rfl
    | some t => exact allocStores_ctlApart own h
  · rfl

/-- A partition's start writes its control; the rest of the partitions' control stands. -/
theorem State.startPartition_ctlApart (s : State) (img : Image) (vs : List Nat) (rec : BitVec 256) (recovery : Bool) :
    (s.startPartition own img vs rec recovery).ctlApart own
      = (s.setCtl own (launchCtl (s.ctlOf own) rec recovery)).ctlApart own := by
  have h : ∀ v w, ((s.setPart own v).setCtl own w).ctlApart own = (s.setCtl own w).ctlApart own := fun _ _ => rfl
  unfold State.startPartition
  dsimp only
  simp [h]

end
/-! ### A relaunch in place (R357, R363) -/

/-- The tick of a relaunch. -/
def relaunchTick (s : State) (p base : Nat) : Nat :=
  (s.part p).launchTick + (s.part p).delta + relaunchStep s p base * (s.part p).period

/-- The launch record of a relaunch: the steps that are left, from the step start that the lead gives. -/
def relaunchRec (s : State) (p base : Nat) : BitVec 256 :=
  launchRecord (relaunchTick s p base) (if (s.part p).steps = 0 then 0 else (s.part p).steps - relaunchStep s p base) 1
    ((s.part p).n0 + relaunchStep s p base)

/-- The control of a partition that relaunches in place. -/
def relaunchCtl (s : State) (p base : Nat) (units : List (Nat × Nat)) : PartControl :=
  { s.ctlOf p with
    recovery := { (s.ctlOf p).recovery with state := 3, path := 0, status := stOk, units := units, relaunch := relaunchTick s p base * cyPerTick }
    relaunches := (s.ctlOf p).relaunches ++ [(s.ctlOf p).recovery.step] }

theorem State.relaunch_eq {s : State} {p base : Nat} (units : List (Nat × Nat)) {img : Image} (vs : List Nat)
    (hs : (s.part p).steps = 0 ∨ relaunchStep s p base < (s.part p).steps) (ha : admitStatus (s.substituteBand p) p img = none) :
    s.relaunch p 0 base units img vs
      = ((((((s.substituteBand p).setCtl p (relaunchCtl s p base units)).verifySlot (s.cfg (0x2100 + p) 5) (some p)).startPartition p img vs
          (relaunchRec s p base) true).event sevInfo evRelaunch p 0).journalDone jRecovery p) := by
  have hl : (s.tide.joined && decide (2 ≤ 0 ∧ groupAction s p = 1)) = false := by simp
  have hr : (if (s.part p).steps ≠ 0 ∧ (s.part p).steps ≤ relaunchStep s p base then some stState else admitStatus (s.substituteBand p) p img) = none := by
    rw [if_neg (by omega), ha]
  unfold State.relaunch
  dsimp only
  rw [hl, if_neg Bool.false_ne_true, hr]
  rfl

theorem State.relaunch_relaunches {s : State} {p base : Nat} (units : List (Nat × Nat)) {img : Image} (vs : List Nat)
    (hs : (s.part p).steps = 0 ∨ relaunchStep s p base < (s.part p).steps) (ha : admitStatus (s.substituteBand p) p img = none) :
    RelaunchedInPlace s (s.relaunch p 0 base units img vs) p base ∧ (s.relaunch p 0 base units img vs).resp = s.resp := by
  rw [State.relaunch_eq units vs hs ha]
  obtain ⟨w, hw⟩ : ∃ w, relaunchCtl s p base units = w := ⟨_, rfl⟩
  have hwf : w.launchRecord = (s.ctlOf p).launchRecord ∧ w.recovery.state = 3 ∧ w.recovery.path = 0
      ∧ w.recovery.relaunch = relaunchTick s p base * 1500 ∧ w.relaunches = (s.ctlOf p).relaunches ++ [(s.ctlOf p).recovery.step] := by
    rw [← hw]
    exact ⟨rfl, rfl, rfl, rfl, rfl⟩
  rw [hw]
  obtain ⟨a, hA⟩ : ∃ a, s.substituteBand p = a := ⟨_, rfl⟩
  have hav : a.launchView = s.launchView := by rw [← hA]; simp
  have hac : a.ctlApart p = s.ctlApart p := by rw [← hA]; simp
  rw [hA]
  have hlr : (a.ctlOf p).launchRecord = (s.ctlOf p).launchRecord := (State.of_launchView hav).2.2.2.2.2.2.2.2 p
  have hbv : ((a.setCtl p w).verifySlot (s.cfg (0x2100 + p) 5) (some p)).launchView = s.launchView := by
    rw [State.verifySlot_launchView, State.setCtl_launchView _ _ _ (hwf.1.trans hlr.symm), hav]
  have hbc : ((a.setCtl p w).verifySlot (s.cfg (0x2100 + p) 5) (some p)).ctlApart p = (a.setCtl p w).ctlApart p := State.verifySlot_ctlApart ..
  generalize (a.setCtl p w).verifySlot (s.cfg (0x2100 + p) 5) (some p) = v at hbv hbc
  obtain ⟨rec, hrec⟩ : ∃ rec, relaunchRec s p base = rec := ⟨_, rfl⟩
  rw [hrec]
  have hview : ((((v.startPartition p img vs rec true).event sevInfo evRelaunch p 0).journalDone jRecovery p)).launchView
      = (v.startPartition p img vs rec true).launchView := by simp
  have hctl : ((((v.startPartition p img vs rec true).event sevInfo evRelaunch p 0).journalDone jRecovery p)).ctlApart p
      = (v.startPartition p img vs rec true).ctlApart p := by simp
  rw [v.startPartition_launchView] at hview
  rw [v.startPartition_ctlApart] at hctl
  generalize (((v.startPartition p img vs rec true).event sevInfo evRelaunch p 0).journalDone jRecovery p) = t at hview hctl
  obtain ⟨pt, hpt⟩ : ∃ pt, launchedPart v p img vs rec true = pt := ⟨_, rfl⟩
  have hptf : pt.run = .starting ∧ pt.launchTick = lrTick rec ∧ pt.steps = lrSteps rec ∧ pt.n0 = lrFirst rec := by
    rw [← hpt]
    exact ⟨rfl, rfl, rfl, rfl⟩
  rw [hpt] at hview
  obtain ⟨hvn, hvr, hvp, hvd, hvf, hvt, -, -, -⟩ := State.of_launchView hbv
  obtain ⟨htn, htr, htp, htd, htf, htt, -, -, -⟩ := State.of_launchView hview
  have hpart : ∀ q, t.part q = if q = p then pt else s.part q := fun q => by
    have h1 : t.part q = tget {} (tput {} v.parts p pt) q := congrArg (fun m => tget ({} : Partition) m q) htp
    rw [h1, tget_tput, hvp]
    rfl
  have hvw : { v.ctlOf p with decisions := [] } = { w with decisions := [] } := by
    have h := congrFun hbc p
    unfold State.ctlApart at h
    rw [if_pos rfl, if_pos rfl] at h
    exact h.trans (congrArg (fun c : PartControl => { c with decisions := [] }) (tget_tput_same ({} : PartControl) a.ctl p w))
  have hme : { t.ctlOf p with decisions := [] } = { launchCtl (v.ctlOf p) rec true with decisions := [] } := by
    have h := congrFun hctl p
    unfold State.ctlApart at h
    rw [if_pos rfl, if_pos rfl] at h
    exact h.trans (congrArg (fun c : PartControl => { c with decisions := [] }) (tget_tput_same ({} : PartControl) v.ctl p _))
  have hother : ∀ q, q ≠ p → t.ctlOf q = s.ctlOf q := fun q hq => by
    have h1 := congrFun hctl q
    have h2 := congrFun hbc q
    have h3 := congrFun hac q
    unfold State.ctlApart at h1 h2 h3
    rw [if_neg hq, if_neg hq] at h1 h2 h3
    exact h1.trans ((tget_tput_ne _ _ _ _ _ hq).trans (h2.trans ((tget_tput_ne _ _ _ _ _ hq).trans h3)))
  obtain ⟨-, hw3, hw0, hwr, hwl⟩ := hwf
  have hrecov : (t.ctlOf p).recovery = w.recovery :=
    ((congrArg PartControl.recovery hme :) : (t.ctlOf p).recovery = (v.ctlOf p).recovery).trans (congrArg PartControl.recovery hvw :)
  have hrel : (t.ctlOf p).relaunches = w.relaunches :=
    ((congrArg PartControl.relaunches hme :) : (t.ctlOf p).relaunches = (v.ctlOf p).relaunches).trans (congrArg PartControl.relaunches hvw :)
  have hlrec : (t.ctlOf p).launchRecord = rec := (congrArg PartControl.launchRecord hme :)
  have hp : t.part p = pt := (hpart p).trans (if_pos rfl)
  have hrec' : relaunchRec s p base = launchRecord ((s.part p).launchTick + (s.part p).delta + relaunchStep s p base * (s.part p).period)
      (if (s.part p).steps = 0 then 0 else (s.part p).steps - relaunchStep s p base) 1 ((s.part p).n0 + relaunchStep s p base) := rfl
  refine ⟨?_, htr.trans hvr⟩
  unfold RelaunchedInPlace
  intro pt' ct j tick rec'
  have hrr : rec' = rec := hrec'.symm.trans hrec
  rw [hrr]
  exact ⟨by rw [hp]; exact hptf.1, by rw [hp]; exact hptf.2.1, by rw [hp]; exact hptf.2.2.1, by rw [hp]; exact hptf.2.2.2, hlrec,
    by rw [hrecov]; exact hw3, by rw [hrecov]; exact hw0, by rw [hrecov]; exact hwr, hrel.trans hwl,
    fun q hq => (hpart q).trans (if_neg hq), hother, htn.trans hvn, htd.trans hvd, htf.trans hvf, htt.trans hvt⟩

/-- A relaunch of a state with other journal entries, control and answer is one of the state itself, where the partition's control agrees
on the relaunches and the step. -/
theorem RelaunchedInPlace.of_over {s t : State} {p base : Nat} {j : List JournalEntry} {c : Tbl PartControl} {r : Resp}
    (hr : (tget {} c p).relaunches = (s.ctlOf p).relaunches) (hst : (tget {} c p).recovery.step = (s.ctlOf p).recovery.step)
    (hc : ∀ q, q ≠ p → tget {} c q = s.ctlOf q) (h : RelaunchedInPlace (s.over j c r) t p base) : RelaunchedInPlace s t p base := by
  unfold RelaunchedInPlace at h ⊢
  obtain ⟨h1, h2, h3, h4, h5, h6, h7, h8, h9, h10, h11, h12, h13, h14, h15⟩ := h
  refine ⟨h1, h2, h3, h4, h5, h6, h7, h8, h9.trans ?_, h10, fun q hq => (h11 q hq).trans (hc q hq), h12, h13, h14, h15⟩
  show (tget {} c p).relaunches ++ [(tget {} c p).recovery.step] = _
  rw [hr, hst]
/-- A relaunch in place that can be written is written, in a state with other journal entries, control and answer too. -/
theorem InPlaceReady.relaunches {s : State} {p base : Nat} {all : Bool} {img : Image} (h : InPlaceReady s p base all img)
    {j : List JournalEntry} {c : Tbl PartControl} {r : Resp}
    (hr : (tget {} c p).relaunches = (s.ctlOf p).relaunches) (hst : (tget {} c p).recovery.step = (s.ctlOf p).recovery.step)
    (hc : ∀ q, q ≠ p → tget {} c q = s.ctlOf q) :
    RelaunchedInPlace s ((s.over j c r).relaunchInPlace p base all) p base ∧ ((s.over j c r).relaunchInPlace p base all).resp = r := by
  obtain ⟨hall, himg, hsteps, hadm⟩ := h
  have hrec : recentRelaunches ((s.over j c r).ctlOf p) ((s.over j c r).ctlOf p).recovery.step
      = recentRelaunches (s.ctlOf p) (s.ctlOf p).recovery.step := by
    show ((tget {} c p).relaunches.filter (fun n => decide ((tget {} c p).recovery.step < n + 64))).length = _
    rw [hr, hst]
    rfl
  have hlim : inPlaceLimit (s.over j c r) p = inPlaceLimit s p := rfl
  have hno : ¬ (!all && decide (inPlaceLimit (s.over j c r) p
      ≤ recentRelaunches ((s.over j c r).ctlOf p) ((s.over j c r).ctlOf p).recovery.step)) = true := by
    rw [hrec, hlim]
    rcases hall with ha | hl
    · simp [ha]
    · simp [Nat.not_le.mpr hl]
  have hadm' : admitStatus ((s.over j c r).substituteBand p) p img = none := by
    have hb : (s.over j c r).substituteBand p = (s.substituteBand p).over j c r := Blind.substituteBand p s j c r
    rw [hb, admitStatus_over]
    exact hadm
  have e : (s.over j c r).relaunchInPlace p base all
      = (s.over j c r).relaunch p 0 base ((s.over j c r).ctlOf p).recovery.units img ((s.over j c r).part p).variants := by
    have himg' : ((s.over j c r).slotOf ((s.over j c r).cfg (0x2100 + p) 5)).image = some img := himg
    unfold State.relaunchInPlace
    dsimp only
    rw [if_neg hno, himg']
  rw [e]
  obtain ⟨h1, h2⟩ := State.relaunch_relaunches (s := s.over j c r) (p := p) (base := base) ((s.over j c r).ctlOf p).recovery.units
    ((s.over j c r).part p).variants hsteps hadm'
  exact ⟨h1.of_over hr hst hc, h2⟩

/-! ### The ends of a recovery that does not relaunch -/

/-- A recovery has ended in NO_RECOVERY with a status and a path. -/
structure NoRecovery (s t : State) (p status path : Nat) : Prop where
  state : (t.ctlOf p).recovery.state = 4
  answer : (t.ctlOf p).recovery.status = status
  way : (t.ctlOf p).recovery.path = path
  logged : Logged s t sevFault evNoRecovery p status
  ctl : SameBut {} s.ctl t.ctl p
  frame : t = { s with ctl := t.ctl, mc := t.mc, log := t.log, hosts := t.hosts, sivar := t.sivar }

theorem State.noRecovery_ends {s u : State} (hu : u = { s with mc := u.mc }) (hm : u.mc.restarting = s.mc.restarting)
    (p status path : Nat) (units : List (Nat × Nat)) : NoRecovery s (u.noRecovery p status path units) p status path := by
  obtain ⟨w, hw⟩ : ∃ w, { u.ctlOf p with recovery := { (u.ctlOf p).recovery with state := 4, status := status, path := path, units := units, relaunch := 0 } } = w :=
    ⟨_, rfl⟩
  have hwf : w.recovery.state = 4 ∧ w.recovery.status = status ∧ w.recovery.path = path := by
    rw [← hw]
    exact ⟨rfl, rfl, rfl⟩
  have e : u.noRecovery p status path units = ((u.setCtl p w).event sevFault evNoRecovery p status).journalDone jRecovery p := by
    rw [← hw]; rfl
  rw [e]
  obtain ⟨v, hv⟩ : ∃ v, u.setCtl p w = v := ⟨_, rfl⟩
  have huc : u.ctl = s.ctl := (congrArg State.ctl hu :)
  have hvc : v.ctl = tput {} s.ctl p w := by rw [← hv, ← huc]; rfl
  have hvf : v = { s with mc := u.mc, ctl := v.ctl } := by
    rw [hvc, ← hv]
    exact (congrArg (fun y : State => y.setCtl p w) hu :)
  rw [hv]
  have hlog := logged_event_after (s := s) (u := v) (by rw [hvf]) (by rw [hvf]; exact hm) (by rw [hvf]; rfl) sevFault evNoRecovery p status
  have hev := v.event_frame sevFault evNoRecovery p status
  generalize v.event sevFault evNoRecovery p status = x at hlog hev
  have hxc : x.ctl = tput {} s.ctl p w := ((congrArg State.ctl hev :) : x.ctl = v.ctl).trans hvc
  have hme : (x.journalDone jRecovery p).ctlOf p = w := by
    show tget {} x.ctl p = w
    rw [hxc]
    exact tget_tput_same ..
  refine ⟨by rw [hme]; exact hwf.1, by rw [hme]; exact hwf.2.1, by rw [hme]; exact hwf.2.2, hlog, fun q hq => ?_, ?_⟩
  · show tget {} x.ctl q = _
    rw [hxc]
    exact tget_tput_ne _ _ _ _ _ hq
  · have h1 : x.ctl = v.ctl := (congrArg State.ctl hev :)
    refine (congrArg (fun y : State => { y with mc := (x.journalDone jRecovery p).mc }) hev).trans ?_
    refine (congrArg (fun y : State => { y with log := x.log, hosts := x.hosts, sivar := x.sivar, mc := (x.journalDone jRecovery p).mc }) hvf).trans ?_
    rw [← h1]
    rfl

/-! ### The decision (R358, R359) -/

/-- A recovery that is decided: the partition is in FAULT with a cause, its reset is complete, and it does not stop. -/
structure Decides (s : State) (p : Nat) (c : PFault) : Prop where
  fault : (s.part p).run = .fault
  reset : resetDone s p = true
  serving : s.mc.restarting = false
  stopping : (s.ctlOf p).recovery.stopping = false
  cause : (s.ctlOf p).recovery.cause = some c

/-- The state that a decision leaves, its journal entry first. -/
def State.deciding (s : State) (p : Nat) : State := s.journal jRecovery p (s.ctlOf p).recovery.fault

/-- The pin in force for a decision. -/
def recoveryPin (s : State) (all : Bool) : Nat := if all then 0 else s.cfg 0x3100 1

theorem Decides.not_idle {s : State} {p : Nat} {c : PFault} (h : Decides s p c) :
    ¬ ((s.part p).run ≠ .fault ∨ (!resetDone s p) = true ∨ s.mc.restarting = true) := by
  rw [h.fault, h.reset, h.serving]
  simp

theorem State.decideRecovery_remedy {s : State} {p : Nat} {c : PFault} (all : Bool) (h : Decides s p c) (hb : bandLost s p = false) :
    (remedyOf (s.ctlOf p) (s.ctlOf p).recovery.step c = .inPlace →
      s.decideRecovery p all = (s.deciding p).relaunchInPlace p (s.ctlOf p).recovery.fault all)
    ∧ (remedyOf (s.ctlOf p) (s.ctlOf p).recovery.step c = .imageFault →
      s.decideRecovery p all = if all then (s.deciding p).relaunchInPlace p (s.ctlOf p).recovery.fault all
        else (s.deciding p).noRecovery p stOk 0xFF (s.ctlOf p).recovery.units)
    ∧ (remedyOf (s.ctlOf p) (s.ctlOf p).recovery.step c = .whenLocked →
      s.decideRecovery p all = if recoveryReady s p then (s.deciding p).relaunchInPlace p s.now all else (s.deciding p).recoveryWaits p) := by
  have hstop : ¬ (s.ctlOf p).recovery.stopping = true := by rw [h.stopping]; exact Bool.false_ne_true
  have hlost : ¬ bandLost s p = true := by rw [hb]; exact Bool.false_ne_true
  refine ⟨fun hr => ?_, fun hr => ?_, fun hr => ?_⟩ <;>
  · unfold State.decideRecovery
    dsimp only
    rw [if_neg h.not_idle, if_neg hstop, h.cause]
    dsimp only
    rw [if_neg hlost, hr]
    rfl

/-- A band that is lost, or failed sites, are recovered by the paths. -/
theorem State.decideRecovery_sites {s : State} {p : Nat} {c : PFault} (all : Bool) (h : Decides s p c)
    (hs : bandLost s p = true ∨ remedyOf (s.ctlOf p) (s.ctlOf p).recovery.step c = .sites) :
    s.decideRecovery p all
      = if (((s.deciding p).recoverSites p (s.ctlOf p).recovery.fault (recoveryPin s all)).ctlOf p).recovery.path = 3 then
          ((s.deciding p).recoverSites p (s.ctlOf p).recovery.fault (recoveryPin s all)).groupFollows p 3
        else (s.deciding p).recoverSites p (s.ctlOf p).recovery.fault (recoveryPin s all) := by
  have hstop : ¬ (s.ctlOf p).recovery.stopping = true := by rw [h.stopping]; exact Bool.false_ne_true
  unfold State.decideRecovery
  dsimp only
  rw [if_neg h.not_idle, if_neg hstop, h.cause]
  dsimp only
  by_cases hb : bandLost s p = true
  · rw [if_pos hb]
    rfl
  · rw [if_neg hb, hs.resolve_left hb]
    rfl
theorem pathsOf_deciding (s : State) (p : Nat) (img : Image) (pin : Nat) (us : List Nat) :
    ∀ earlier, pathsOf (s.deciding p) p img pin earlier us = pathsOf s p img pin earlier us := by
  induction us with
  | nil => exact fun _ => rfl
  | cons u us ih =>
    intro earlier
    have h1 : pathOne (s.deciding p) earlier u = pathOne s earlier u := rfl
    have h2 : pathTwo (s.deciding p) p img earlier u = pathTwo s p img earlier u := rfl
    unfold pathsOf
    rw [ih, h1, h2]

/-- Where no path serves a failed unit, or the band is lost, and the pin allows no path 3, there is no recovery. -/
theorem State.recoverSites_none {s : State} {p pin : Nat} {img : Image} (base : Nat)
    (himg : (s.slotOf (s.cfg (0x2100 + p) 5)).image = some img) (hpin : pathAllowed pin 3 = false)
    (hn : bandLost s p = true ∨ ∃ e ∈ pathsOf s p img pin [] (failedUnits s p), e.2 = 3) :
    ∃ path units, (s.deciding p).recoverSites p base pin = (s.deciding p).noRecovery p stNospare path units := by
  have himg' : ((s.deciding p).slotOf ((s.deciding p).cfg (0x2100 + p) 5)).image = some img := himg
  have hunits : failedUnits (s.deciding p) p = failedUnits s p := rfl
  have hlost : bandLost (s.deciding p) p = bandLost s p := rfl
  have hc : (bandLost s p || (pathsOf s p img pin [] (failedUnits s p)).any (fun e => e.2 == 3)) = true := by
    rw [Bool.or_eq_true]
    refine hn.imp id fun ⟨e, he, h3⟩ => List.any_eq_true.mpr ⟨e, he, by rw [h3]; rfl⟩
  unfold State.recoverSites
  rw [himg']
  dsimp only
  rw [hunits, hlost, pathsOf_deciding, if_pos hc, hpin, if_neg Bool.false_ne_true]
  exact ⟨_, _, rfl⟩

/-- A group follows only a relaunch. -/
theorem State.groupFollows_not_starting {s : State} {p k : Nat} (h : (s.part p).run ≠ .starting) : s.groupFollows p k = s := by
  unfold State.groupFollows
  dsimp only
  split
  · rfl
  · rw [if_pos]
    simp [h]

/-- What serves a cause reads the control of its partition for the poisons alone. -/
theorem remedyOf_congr {a b : PartControl} (h : a.poisons = b.poisons) (step : Nat) (c : PFault) :
    remedyOf a step c = remedyOf b step c := by
  have e : poisonAgain a = poisonAgain b := by
    unfold poisonAgain
    rw [h]
  unfold remedyOf
  rw [e]

/-! ### The commands (R353) -/

theorem doReset_refused {p : Nat} {s : State} (h : (s.part p).run ≠ .fault) : doReset p s = (s, stState) := if_pos h
theorem doRecover_refused {p : Nat} {s : State} (h : (s.part p).run ≠ .fault) : doRecover p s = (s, stState) := if_pos h

/-- The control of a partition that a RESET stops. -/
def resetCtl (s : State) (p : Nat) : PartControl :=
  { s.ctlOf p with recovery := { (s.ctlOf p).recovery with
      state := if (s.ctlOf p).recovery.state = 1 ∨ (s.ctlOf p).recovery.state = 2 then 5 else (s.ctlOf p).recovery.state } }

theorem doReset_stops {p : Nat} {s : State} (h : (s.part p).run = .fault) :
    doReset p s = (((s.setPart p { s.part p with run := .stopped }).setCtl p (resetCtl s p)).journalDone jRecovery p, stOk) :=
  if_neg (not_not.mpr h)

/-- The control of a partition that a RECOVER asks to recover by every path. -/
def recoverCtl (s : State) (p : Nat) : PartControl :=
  { s.ctlOf p with recovery := { (s.ctlOf p).recovery with state := 1, allPaths := true } }

theorem doRecover_decides {p : Nat} {s : State} (h : (s.part p).run = .fault) :
    doRecover p s = ((s.setCtl p (recoverCtl s p)).decideRecovery p true, stOk) :=
  if_neg (not_not.mpr h)

theorem recover_commands (s : State) (cl : Client) (p : Nat) (hp : p < 8) (hs : Serves s cl false) :
    ((s.part p).run = .fault → ∃ t, exec (.reset cl p) s = .next t ∧ t.resp = answered stOk
      ∧ t.part p = { s.part p with run := .stopped }
      ∧ (t.ctlOf p).recovery.state = (if (s.ctlOf p).recovery.state = 1 ∨ (s.ctlOf p).recovery.state = 2 then 5
          else (s.ctlOf p).recovery.state)
      ∧ SameBut {} s.parts t.parts p ∧ SameBut {} s.ctl t.ctl p
      ∧ t = { s with parts := t.parts, ctl := t.ctl, mc := t.mc, resp := t.resp })
    ∧ ((s.part p).run ≠ .fault → exec (.reset cl p) s = .next { s with resp := answered stState }
        ∧ exec (.recover cl p) s = .next { s with resp := answered stState })
    ∧ ((s.part p).run = .fault → resetDone s p = false → ∃ t, exec (.recover cl p) s = .next t ∧ t.resp = answered stOk
      ∧ t.ctlOf p = { s.ctlOf p with recovery := { (s.ctlOf p).recovery with state := 1, allPaths := true } }
      ∧ SameBut {} s.ctl t.ctl p ∧ t = { s with ctl := t.ctl, resp := t.resp })
    ∧ (∀ c img, (s.part p).run = .fault → resetDone s p = true → (s.ctlOf p).recovery.stopping = false →
      (s.ctlOf p).recovery.cause = some c → bandLost s p = false →
      remedyOf (s.ctlOf p) (s.ctlOf p).recovery.step c = .inPlace ∨ remedyOf (s.ctlOf p) (s.ctlOf p).recovery.step c = .imageFault →
      InPlaceReady s p (s.ctlOf p).recovery.fault true img →
      ∃ t, exec (.recover cl p) s = .next t ∧ t.resp = answered stOk ∧ RelaunchedInPlace s t p (s.ctlOf p).recovery.fault) := by
  refine ⟨fun h => ?_, fun h => ⟨?_, ?_⟩, fun h hr => ?_, fun c img h hr hst hcause hb hrem hready => ?_⟩
  · refine ⟨_, (if_pos hp).trans (congrArg Host.Outcome.next (command_changed hs (doReset_stops (s := s.asked) h) rfl)), rfl,
      tget_tput_same ({} : Partition) s.parts p _, ?_, fun q hq => tget_tput_ne _ _ _ _ _ hq, fun q hq => tget_tput_ne _ _ _ _ _ hq, rfl⟩
    exact congrArg (fun c : PartControl => c.recovery.state) (tget_tput_same ({} : PartControl) s.ctl p _)
  · exact (if_pos hp).trans (congrArg Host.Outcome.next (command_unchanged hs (doReset_refused (s := s.asked) h)))
  · exact (if_pos hp).trans (congrArg Host.Outcome.next (command_unchanged hs (doRecover_refused (s := s.asked) h)))
  · have hd : (s.asked.setCtl p (recoverCtl s p)).decideRecovery p true = s.asked.setCtl p (recoverCtl s p) := by
      refine if_pos (.inr (.inl ?_))
      have e : resetDone (s.asked.setCtl p (recoverCtl s p)) p = resetDone s p := rfl
      rw [e, hr]
      rfl
    have hdo : doRecover p s.asked = (s.asked.setCtl p (recoverCtl s p), stOk) := (doRecover_decides (s := s.asked) h).trans (congrArg (·, stOk) hd)
    exact ⟨_, (if_pos hp).trans (congrArg Host.Outcome.next (command_changed hs hdo rfl)), rfl,
      tget_tput_same ({} : PartControl) s.ctl p _, fun q hq => tget_tput_ne _ _ _ _ _ hq, rfl⟩
  · obtain ⟨w, hw⟩ : ∃ w, recoverCtl s p = w := ⟨_, rfl⟩
    have hwf : w.recovery.stopping = (s.ctlOf p).recovery.stopping ∧ w.recovery.cause = (s.ctlOf p).recovery.cause
        ∧ w.recovery.step = (s.ctlOf p).recovery.step ∧ w.recovery.fault = (s.ctlOf p).recovery.fault ∧ w.relaunches = (s.ctlOf p).relaunches
        ∧ w.poisons = (s.ctlOf p).poisons := by
      rw [← hw]
      exact ⟨rfl, rfl, rfl, rfl, rfl, rfl⟩
    obtain ⟨hw1, hw2, hw3, hw4, hw5, hw6⟩ := hwf
    have hdo := doRecover_decides (s := s.asked) h
    rw [show recoverCtl s.asked p = w from hw] at hdo
    obtain ⟨u, hu⟩ : ∃ u, s.asked.setCtl p w = u := ⟨_, rfl⟩
    have huw : u.ctlOf p = w := by rw [← hu]; exact tget_tput_same ..
    have hserv : s.mc.restarting = false := by
      have hx := hs.1
      unfold State.serving at hx
      simpa using (Bool.and_eq_true_iff.mp hx).2
    have hdec : Decides u p c := by
      refine ⟨by rw [← hu]; exact h, by rw [← hu]; exact hr, by rw [← hu]; exact hserv, by rw [huw, hw1]; exact hst, by rw [huw, hw2]; exact hcause⟩
    have hub : bandLost u p = false := by rw [← hu]; exact hb
    have hrem' : remedyOf (u.ctlOf p) (u.ctlOf p).recovery.step c = remedyOf (s.ctlOf p) (s.ctlOf p).recovery.step c := by
      rw [huw, hw3]
      exact remedyOf_congr hw6 _ c
    have hover : u.deciding p = s.over (s.mc.journal ++ [{ kind := jRecovery, unit := p, effect := (u.ctlOf p).recovery.fault, done := false }])
        (tput {} s.ctl p w) {} := by rw [← hu]; rfl
    obtain ⟨hin, himf, -⟩ := State.decideRecovery_remedy true hdec hub
    have hd : u.decideRecovery p true = (u.deciding p).relaunchInPlace p (s.ctlOf p).recovery.fault true := by
      rw [← hw4, ← huw]
      rcases hrem with hrm | hrm
      · exact hin (hrem'.trans hrm)
      · exact (himf (hrem'.trans hrm)).trans (if_pos rfl)
    have hc : ∀ q, q ≠ p → tget {} (tput {} s.ctl p w) q = s.ctlOf q := fun q hq => tget_tput_ne _ _ _ _ _ hq
    have hme : tget {} (tput {} s.ctl p w) p = w := tget_tput_same ..
    rw [hu, hd, hover] at hdo
    obtain ⟨hrl, hresp⟩ := hready.relaunches (j := s.mc.journal ++ [{ kind := jRecovery, unit := p, effect := (u.ctlOf p).recovery.fault, done := false }])
      (c := tput {} s.ctl p w) (r := {}) (by rw [hme, hw5]) (by rw [hme, hw3]) hc
    generalize State.relaunchInPlace _ p (s.ctlOf p).recovery.fault true = t at hdo hrl hresp
    refine ⟨_, (if_pos hp).trans (congrArg Host.Outcome.next (command_changed hs hdo hresp)), rfl, ?_⟩
    exact hrl

/-! ### The decision and the end of the wait (R358, R359) -/

theorem recoveryDecision_decides {s : State} {p : Nat} (hp : p < 8) (h : (s.part p).run = .fault) (h1 : (s.ctlOf p).recovery.state = 1) :
    exec (.recoveryDecision p) s = .next (s.decideRecovery p (s.ctlOf p).recovery.allPaths) := by
  refine (if_pos hp).trans (congrArg Host.Outcome.next ?_)
  rw [h]
  exact if_pos h1

/-- The journal entry of a decision is all that it has done. -/
theorem State.deciding_frame (s : State) (p : Nat) : s.deciding p = { s with mc := (s.deciding p).mc } := rfl

theorem State.deciding_over (s : State) (p : Nat) : s.deciding p = s.over (s.deciding p).mc.journal s.ctl s.resp := rfl

theorem State.relaunchInPlace_limit {s : State} {p : Nat} (base : Nat)
    (h : inPlaceLimit s p ≤ recentRelaunches (s.ctlOf p) (s.ctlOf p).recovery.step) :
    s.relaunchInPlace p base false = s.noRecovery p stOk 0 (s.ctlOf p).recovery.units := by
  refine if_pos ?_
  rw [Bool.not_false, Bool.true_and]
  exact decide_eq_true h

theorem State.decideRecovery_stops {s : State} {p : Nat} (all : Bool) (h : (s.part p).run = .fault) (hr : resetDone s p = true)
    (hm : s.mc.restarting = false) (hs : (s.ctlOf p).recovery.stopping = true) :
    s.decideRecovery p all = (s.setPart p { s.part p with run := .stopped }).setCtl p
      { s.ctlOf p with recovery := { (s.ctlOf p).recovery with state := 0 } } := by
  have hi : ¬ ((s.part p).run ≠ .fault ∨ (!resetDone s p) = true ∨ s.mc.restarting = true) := by
    rw [h, hr, hm]
    simp
  exact (if_neg hi).trans (if_pos hs)

/-- A decision that finds no recovery ends it with a status and a path, and no group follows. -/
theorem State.decideRecovery_noPath {s : State} {p : Nat} {c : PFault} {img : Image} (h : Decides s p c)
    (hs : bandLost s p = true ∨ remedyOf (s.ctlOf p) (s.ctlOf p).recovery.step c = .sites)
    (hpin : pathAllowed (s.cfg 0x3100 1) 3 = false) (himg : (s.slotOf (s.cfg (0x2100 + p) 5)).image = some img)
    (hn : bandLost s p = true ∨ ∃ e ∈ pathsOf s p img (s.cfg 0x3100 1) [] (failedUnits s p), e.2 = 3) :
    ∃ path, NoRecovery s (s.decideRecovery p false) p stNospare path := by
  obtain ⟨path, units, hno⟩ := State.recoverSites_none (s.ctlOf p).recovery.fault himg hpin hn
  have hend := State.noRecovery_ends (s.deciding_frame p) rfl p stNospare path units
  have e := State.decideRecovery_sites false h hs
  rw [show recoveryPin s false = s.cfg 0x3100 1 from rfl, hno] at e
  generalize (s.deciding p).noRecovery p stNospare path units = u at hend e
  have hrun : (u.part p).run ≠ .starting := by
    have hpt : u.parts = s.parts := (congrArg State.parts hend.frame :)
    show (tget {} u.parts p).run ≠ .starting
    rw [hpt]
    exact fun hx => RunState.noConfusion (h.fault.symm.trans hx)
  rw [State.groupFollows_not_starting hrun, ite_self] at e
  exact ⟨path, e ▸ hend⟩

theorem recovery_decisions (s : State) (p : Nat) (hp : p < 8) (h : (s.part p).run = .fault) (h1 : (s.ctlOf p).recovery.state = 1)
    (hr : resetDone s p = true) (hm : s.mc.restarting = false) :
    let ct := s.ctlOf p
    let r := ct.recovery
    let run := exec (.recoveryDecision p) s
    let ended := fun (t : State) (status path : Nat) => (t.ctlOf p).recovery.state = 4 ∧ (t.ctlOf p).recovery.status = status
      ∧ (t.ctlOf p).recovery.path = path ∧ Logged s t sevFault evNoRecovery p status ∧ SameBut {} s.ctl t.ctl p
      ∧ t = { s with ctl := t.ctl, mc := t.mc, log := t.log, hosts := t.hosts, sivar := t.sivar }
    (r.stopping = true → ∃ t, run = .next t ∧ t.part p = { s.part p with run := .stopped } ∧ (t.ctlOf p).recovery.state = 0
      ∧ SameBut {} s.parts t.parts p ∧ SameBut {} s.ctl t.ctl p ∧ t = { s with parts := t.parts, ctl := t.ctl })
    ∧ (∀ c, r.stopping = false → r.cause = some c →
      (∀ img, bandLost s p = false → remedyOf ct r.step c = .inPlace → InPlaceReady s p r.fault r.allPaths img →
        ∃ t, run = .next t ∧ RelaunchedInPlace s t p r.fault)
      ∧ (bandLost s p = false → remedyOf ct r.step c = .inPlace → r.allPaths = false →
          inPlaceLimit s p ≤ recentRelaunches ct r.step → ∃ t, run = .next t ∧ ended t stOk 0)
      ∧ (bandLost s p = false → remedyOf ct r.step c = .imageFault → r.allPaths = false → ∃ t, run = .next t ∧ ended t stOk 0xFF)
      ∧ (bandLost s p = false → remedyOf ct r.step c = .whenLocked → c = .tideFree → s.tide.lock ≠ 2 →
          ∃ t, run = .next t ∧ (t.ctlOf p).recovery = { r with state := 2 } ∧ SameBut {} s.ctl t.ctl p
            ∧ t = { s with ctl := t.ctl, mc := t.mc })
      ∧ (∀ img, bandLost s p = true ∨ remedyOf ct r.step c = .sites → r.allPaths = false → pathAllowed (s.cfg 0x3100 1) 3 = false →
          (s.slotOf (s.cfg (0x2100 + p) 5)).image = some img →
          bandLost s p = true ∨ (∃ e ∈ pathsOf s p img (s.cfg 0x3100 1) [] (failedUnits s p), e.2 = 3) →
          ∃ t path, run = .next t ∧ ended t stNospare path)) := by
  intro ct r run ended
  have hrun := recoveryDecision_decides hp h h1
  have hended : ∀ {t : State} {status path : Nat}, NoRecovery s t p status path → ended t status path :=
    fun he => ⟨he.state, he.answer, he.way, he.logged, he.ctl, he.frame⟩
  refine ⟨fun hst => ?_, fun c hst hc => ?_⟩
  · refine ⟨_, hrun.trans (congrArg Host.Outcome.next (State.decideRecovery_stops _ h hr hm hst)),
      tget_tput_same ({} : Partition) s.parts p _, ?_, fun q hq => tget_tput_ne _ _ _ _ _ hq, fun q hq => tget_tput_ne _ _ _ _ _ hq, rfl⟩
    exact congrArg (fun c : PartControl => c.recovery.state) (tget_tput_same ({} : PartControl) s.ctl p _)
  · have hd : Decides s p c := ⟨h, hr, hm, hst, hc⟩
    refine ⟨fun img hb hrem hready => ?_, fun hb hrem hall hlim => ?_, fun hb hrem hall => ?_, fun hb hrem htide hlock => ?_,
      fun img hs hall hpin himg hn => ?_⟩
    · refine ⟨_, hrun.trans (congrArg Host.Outcome.next ((State.decideRecovery_remedy _ hd hb).1 hrem)), ?_⟩
      exact (hready.relaunches (j := (s.deciding p).mc.journal) (c := s.ctl) (r := s.resp) rfl rfl fun _ _ => rfl).1
    · refine ⟨_, hrun.trans (congrArg Host.Outcome.next ?_), hended (State.noRecovery_ends (s.deciding_frame p) rfl p stOk 0 r.units)⟩
      rw [hall]
      exact ((State.decideRecovery_remedy _ hd hb).1 hrem).trans (State.relaunchInPlace_limit (s := s.deciding p) r.fault hlim)
    · refine ⟨_, hrun.trans (congrArg Host.Outcome.next ?_), hended (State.noRecovery_ends (s.deciding_frame p) rfl p stOk 0xFF r.units)⟩
      rw [hall]
      exact (State.decideRecovery_remedy false hd hb).2.1 hrem
    · have hready : recoveryReady s p = false := by
        unfold recoveryReady
        rw [hc, htide]
        exact decide_eq_false hlock
      refine ⟨_, hrun.trans (congrArg Host.Outcome.next (((State.decideRecovery_remedy _ hd hb).2.2 hrem).trans
        (if_neg (by rw [hready]; exact Bool.false_ne_true)))), ?_, fun q hq => tget_tput_ne _ _ _ _ _ hq, rfl⟩
      exact congrArg (fun c : PartControl => c.recovery) (tget_tput_same ({} : PartControl) s.ctl p _)
    · obtain ⟨path, hno⟩ := State.decideRecovery_noPath hd hs hpin himg hn
      refine ⟨_, path, hrun, hended ?_⟩
      rw [hall]
      exact hno

theorem recoveryWaitEnd_relaunches (s : State) (p : Nat) (img : Image) (hp : p < 8) (h : (s.part p).run = .fault)
    (h2 : (s.ctlOf p).recovery.state = 2) (hready : recoveryReady s p = true) (hr : resetDone s p = true) (hm : s.mc.restarting = false)
    (hi : InPlaceReady s p s.now (s.ctlOf p).recovery.allPaths img) :
    ∃ t, exec (.recoveryWaitEnd p) s = .next t ∧ RelaunchedInPlace s t p s.now := by
  have hn : ¬ ((s.part p).run ≠ .fault ∨ (s.ctlOf p).recovery.state ≠ 2 ∨ (!recoveryReady s p) = true ∨ (!resetDone s p) = true
      ∨ s.mc.restarting = true) := by
    rw [h, h2, hready, hr, hm]
    simp
  refine ⟨_, (if_pos hp).trans (congrArg Host.Outcome.next (if_neg hn)), ?_⟩
  exact (hi.relaunches (j := s.mc.journal) (c := s.ctl) (r := s.resp) rfl rfl fun _ _ => rfl).1

/-- Settles O43, by the commands, the decision and the end of the wait, each over the relaunch in place or its end. -/
theorem faultedPartitionsRecover : Obligations.FaultedPartitionsRecover :=
  ⟨fun s cl p => recover_commands s cl p, fun s p => recovery_decisions s p, fun s p img => recoveryWaitEnd_relaunches s p img⟩

end Sys2Proof.Machine
end

section
/-! SUPPORT. The thermal governor's decisions, frozen tiles, and tiles that shed or stop (R369 to R375). -/

namespace Sys2Proof.Machine

/-! ### A drain that merges into a row with a corrected word (R35, R40, R67) -/

/-- A finished chain of one token, whose output covers the first row of the scratchpad in part. -/
def shortChain : DrainJob where
  ins := { id := 0, issued := 0, op := .wsg, regs := [], srcA := ⟨0, 0⟩, srcB := ⟨0, 0⟩, dst := ⟨0, 1⟩, sr := false, drain := true,
           acc := false, seedz := false }
  chain := 0
  pass := 0
  bank := 0
  lastVec := 0
  shifts := []

/-- A module that serves its host. A core of tile 0, with 15 corrected words counted in the scrubber's pass, has still to write a chain into
a row that holds one more. -/
def drainBeforeShed : State :=
  { State.reset with
    mc := { State.reset.mc with up := true }
    hosts := [(0, { up := true })]
    cores := [(0, { arr := { drains := [shortChain] } })]
    health := [(0, { passCorrected := 15 })]
    marks := [(0, some .single)] }

/-- The number of the newest event, 0 with none. -/
def newestSeq (o : Out) : Nat :=
  match o with
  | .next t => (t.log.entries.getLast?.map Event.seq).getD 0
  | _ => 0

/-- The row that the chain shares is read back first, and its corrected word reaches the threshold: two events are recorded. -/
theorem manualShedCompute_logs_twice : newestSeq (exec (.manualShedCompute (.pcie 0) 0) drainBeforeShed) = 2 := by decide +kernel

/-! ### The obligation -/

/-- Refutes O44: a manual shed writes the chain that a core of the tile has finished, and where that reads back a row whose corrected word
reaches the threshold of R40, the event of that comes before the shed's own, so the shed's event does not follow the log's last one. -/
theorem not_heatStretchesAndSheds : ¬ Obligations.HeatStretchesAndSheds := by
  unfold Obligations.HeatStretchesAndSheds
  rintro ⟨-, -, hmanual, -⟩
  obtain ⟨-, -, -, hshed, -⟩ := hmanual drainBeforeShed (.pcie 0) 0 ⟨by decide, by decide, by decide⟩ (by decide) (by decide)
  obtain ⟨t, ht, -, -, -, -, hlogged, -⟩ := hshed (by decide)
  obtain ⟨e, hlast, -, -, -, -, hseq⟩ := hlogged rfl (.inr (by decide))
  have htwice := manualShedCompute_logs_twice
  rw [ht] at htwice
  have hnewest : newestSeq (.next t) = e.seq := congrArg (fun o : Option Event => (o.map Event.seq).getD 0) hlast
  have hone : e.seq = 1 := hseq.trans (by decide)
  exact absurd (hone.symm.trans (hnewest.symm.trans htwice)) (by decide)

end Sys2Proof.Machine
end

section
/-! SUPPORT. Fetches that are issued and the entries that they join (R201-R205). -/

namespace Sys2Proof.Machine

/-! ### Which versions the entries name (R17, R204) -/

/-- An entry apart from whether it waits for room in its quay. -/
def FetchEntry.plain (e : FetchEntry) : FetchEntry := { e with waiting := false }

/-- Entries that get room change in nothing else. -/
theorem admitIn_plain (l : List FetchEntry) (n : Nat) : (admitIn n l).map FetchEntry.plain = l.map FetchEntry.plain := by
  induction l generalizing n with
  | nil => rfl
  | cons e l ih =>
    unfold admitIn
    split_ifs
    · rw [List.map_cons, List.map_cons, ih]
    · rfl
    · rw [List.map_cons, List.map_cons, ih]
      rfl

theorem mem_of_mem_tput {α : Type} [DecidableEq α] {d : α} {m : List (Nat × α)} {k : Nat} {v : α} {x : Nat × α} (h : x ∈ tput d m k v) :
    x ∈ m ∨ x = (k, v) := by
  unfold tput at h
  split at h
  · exact .inl (List.mem_of_mem_filter h)
  · induction m with
    | nil => exact .inr (List.mem_singleton.mp h)
    | cons e m ih =>
      unfold tset at h
      split_ifs at h
      · exact (List.mem_cons.mp h).elim .inr fun hm => .inl (List.mem_cons_of_mem _ hm)
      · exact (List.mem_cons.mp h).elim .inr .inl
      · exact (List.mem_cons.mp h).elim (fun he => .inl (he ▸ List.mem_cons_self)) fun hm => (ih hm).imp_left (List.mem_cons_of_mem _)

/-- An entry that names a version: its outcome is open, or its data is still read from the shadow copy. -/
def FetchEntry.names (tid v : Nat) (f : FetchEntry) : Bool :=
  f.tid == tid && f.version == v && !f.waiters.isEmpty && (f.outcome.isNone || (decide (f.outcome = some .shadow) && !f.ready))

theorem any_names_plain (tid v : Nat) (l : List FetchEntry) : (l.map FetchEntry.plain).any (FetchEntry.names tid v) = l.any (FetchEntry.names tid v) := by
  rw [List.any_map]
  rfl

/-- What names a version after a quay's entries have got room named it before. -/
theorem versionNamed_setQuay {s : State} {q tid n : Nat} {v : Quay}
    (he : v.entries.map FetchEntry.plain = (s.quay q).entries.map FetchEntry.plain) (h : versionNamed (s.setQuay q v) tid n = true) :
    versionNamed s tid n = true := by
  obtain ⟨x, hx, hn⟩ := List.any_eq_true.mp h
  rcases mem_of_mem_tput hx with hm | rfl
  · exact List.any_eq_true.mpr ⟨x, hm, hn⟩
  · have hn' : v.entries.any (FetchEntry.names tid n) = true := hn
    rw [← any_names_plain, he, any_names_plain] at hn'
    rcases hf : tfind s.quays q with _ | y
    · have hq : s.quay q = {} := by rw [State.quay, tget, hf]; rfl
      rw [hq] at hn'
      exact absurd hn' Bool.false_ne_true
    · have hq : s.quay q = y := by rw [State.quay, tget, hf]; rfl
      rw [hq] at hn'
      exact List.any_eq_true.mpr ⟨(q, y), mem_of_tfind hf, hn'⟩

/-! ### Versions that no entry names retire (R17) -/

theorem State.clearDamage_quay (s : State) (tid v j : Nat) : (s.clearDamage tid v).quay j
    = { s.quay j with damaged := (s.quay j).damaged.filter (fun d => d.1 != tid || d.2.2.1 != v) } :=
  tget_map (f := fun y : Quay => { y with damaged := y.damaged.filter (fun d => d.1 != tid || d.2.2.1 != v) }) rfl s.quays j

/-- What is damaged of other tensors, and of versions that do not retire, stays so. -/
theorem State.foldl_retireVersion_quay (tid : Nat) (l : List Nat) (s : State) (j : Nat) :
    (l.foldl (fun u n => u.retireVersion tid n) s).quay j
      = { s.quay j with damaged := (s.quay j).damaged.filter (fun d => decide (d.1 ≠ tid ∨ d.2.2.1 ∉ l)) } := by
  induction l generalizing s with
  | nil => simp
  | cons n l ih =>
    have hone : (s.retireVersion tid n).quay j
        = { s.quay j with damaged := (s.quay j).damaged.filter (fun d => d.1 != tid || d.2.2.1 != n) } := State.clearDamage_quay _ tid n j
    rw [List.foldl_cons, ih, hone]
    refine congrArg (fun ds => ({ s.quay j with damaged := ds } : Quay)) ?_
    rw [List.filter_filter]
    refine List.filter_congr fun d _ => ?_
    by_cases ht : d.1 = tid <;> by_cases hn : d.2.2.1 = n <;> simp [ht, hn]

theorem State.foldl_retireVersion_named (tid : Nat) (l : List Nat) (s : State) (k v : Nat) :
    versionNamed (l.foldl (fun u n => u.retireVersion tid n) s) k v = versionNamed s k v :=
  List.foldlRecOn (motive := fun t : State => versionNamed t k v = versionNamed s k v) l _ rfl fun t ht n _ =>
    (t.retireVersion_named tid n k v).trans ht

theorem State.foldl_retireVersion_frame (tid : Nat) (l : List Nat) (s : State) :
    l.foldl (fun u n => u.retireVersion tid n) s = { s with
      tensors := (l.foldl (fun u n => u.retireVersion tid n) s).tensors, quays := (l.foldl (fun u n => u.retireVersion tid n) s).quays } :=
  List.foldlRecOn (motive := fun t : State => t = { s with tensors := t.tensors, quays := t.quays }) l _ rfl fun t ht n _ =>
    (congrArg (fun y : State => { y with tensors := (t.retireVersion tid n).tensors, quays := (t.retireVersion tid n).quays }) ht :)

/-- What the retirement of a tensor's unnamed versions does. -/
structure Retires (s t : State) (tid : Nat) : Prop where
  quays : ∀ j, t.quay j = { s.quay j with damaged := (t.quay j).damaged }
  cleared : ∀ j, ∀ d ∈ (t.quay j).damaged, d ∈ (s.quay j).damaged
  damage : ∀ j, ∀ d ∈ (s.quay j).damaged, d.1 ≠ tid ∨ d.2.2.1 ∉ (s.tensor tid).retiring → d ∈ (t.quay j).damaged
  others : ∀ j, j ≠ tid → t.tensor j = s.tensor j
  tensor : t.tensor tid = { s.tensor tid with versions := (t.tensor tid).versions, retiring := (t.tensor tid).retiring }
  fewer : ∀ v ∈ (t.tensor tid).versions, v ∈ (s.tensor tid).versions
  kept : ∀ v ∈ (s.tensor tid).versions, v.number ∉ (s.tensor tid).retiring ∨ versionNamed s tid v.number = true → v ∈ (t.tensor tid).versions
  named : ∀ k v, versionNamed t k v = versionNamed s k v
  frame : t = { s with quays := t.quays, tensors := t.tensors }

theorem State.retireUnnamed_retires (s : State) (tid : Nat) : Retires s (s.retireUnnamed tid) tid := by
  unfold State.retireUnnamed
  dsimp only
  split
  · exact ⟨fun _ => rfl, fun _ _ h => h, fun _ _ h _ => h, fun _ _ => rfl, rfl, fun _ h => h, fun _ h _ => h, fun _ _ => rfl, rfl⟩
  · obtain ⟨l, hl⟩ : ∃ l, (s.tensor tid).retiring.filter (fun n => !versionNamed s tid n) = l := ⟨_, rfl⟩
    have hmem : ∀ n ∈ l, n ∈ (s.tensor tid).retiring ∧ versionNamed s tid n = false := fun n hn => by
      rw [← hl] at hn
      simpa using List.mem_filter.mp hn
    rw [hl]
    obtain ⟨ret, hret⟩ : ∃ ret, (s.tensor tid).retiring.filter (fun n => versionNamed s tid n) = ret := ⟨_, rfl⟩
    rw [hret]
    have hq := State.foldl_retireVersion_quay tid l s
    have hn := State.foldl_retireVersion_named tid l s
    have hf := State.foldl_retireVersion_frame tid l s
    have hown := State.foldl_retireVersion_tensor tid l s
    have hoth := fun {id} => State.foldl_retireVersion_others tid l s (id := id)
    generalize l.foldl (fun u n => u.retireVersion tid n) s = u at hq hn hf hown hoth
    have hset : ∀ v id, (u.setTensor tid v).tensor id = if id = tid then v else u.tensor id := fun v id => tget_tput ..
    have hqu : ∀ v j, (u.setTensor tid v).quay j = u.quay j := fun _ _ => rfl
    refine ⟨fun j => ?_, fun j d hd => ?_, fun j d hd hk => ?_, fun j hj => ?_, ?_, fun v hv => ?_, fun v hv hk => ?_, fun k v => hn k v, ?_⟩
    · rw [hqu, hq]
    · rw [hqu, hq] at hd
      exact List.mem_of_mem_filter hd
    · rw [hqu, hq]
      exact List.mem_filter.mpr ⟨hd, decide_eq_true (hk.imp_right fun h hm => h (hmem _ hm).1)⟩
    · rw [hset, if_neg hj, hoth hj]
    · rw [hset, if_pos rfl, hown]
    · rw [hset, if_pos rfl, hown] at hv
      exact List.mem_of_mem_filter hv
    · rw [hset, if_pos rfl, hown]
      refine List.mem_filter.mpr ⟨hv, decide_eq_true fun hm => ?_⟩
      obtain ⟨h1, h2⟩ := hmem _ hm
      exact hk.elim (fun h => h h1) fun h => absurd (h2.symm.trans h) Bool.false_ne_true
    · exact (congrArg (fun y : State => { y with tensors := tput {} u.tensors tid { u.tensor tid with retiring := ret } }) hf :)

/-- What the settling of a quay's entries does: those that wait get room, and a tensor's unnamed versions retire. -/
structure Settled (s t : State) (q tid : Nat) : Prop where
  entries : (t.quay q).entries.map FetchEntry.plain = (s.quay q).entries.map FetchEntry.plain
  quay : t.quay q = { s.quay q with entries := (t.quay q).entries, damaged := (t.quay q).damaged }
  damage : ∀ d ∈ (s.quay q).damaged, d.1 ≠ tid ∨ d.2.2.1 ∉ (s.tensor tid).retiring → d ∈ (t.quay q).damaged
  retires : OnlyRetires s t q tid
  frame : t = { s with quays := t.quays, tensors := t.tensors }

theorem State.settle_settles (s : State) (q tid : Nat) : Settled s (s.settle q tid) q tid := by
  unfold State.settle
  obtain ⟨v, hv⟩ : ∃ v, (s.quay q).takeWaiting = v := ⟨_, rfl⟩
  have hve : v.entries.map FetchEntry.plain = (s.quay q).entries.map FetchEntry.plain := by
    rw [← hv]
    exact admitIn_plain ..
  have hvq : v = { s.quay q with entries := v.entries } := by
    rw [← hv]
    rfl
  rw [hv]
  have hr := (s.setQuay q v).retireUnnamed_retires tid
  have hq : ∀ j, (s.setQuay q v).quay j = if j = q then v else s.quay j := fun j => tget_tput ..
  have htens : ∀ j, (s.setQuay q v).tensor j = s.tensor j := fun _ => rfl
  have hf := hr.frame
  generalize (s.setQuay q v).retireUnnamed tid = t at hr hf
  obtain ⟨hquays, hcleared, hdamage, hothers, htensor, hfewer, hkept, hn, -⟩ := hr
  have hqq := hquays q
  rw [hq, if_pos rfl] at hqq
  refine ⟨?_, ?_, fun d hd hk => ?_, ⟨hothers, htensor, hfewer, fun x hx hk => ?_, fun j hj => ?_, fun j hj d hd => ?_⟩, ?_⟩
  · have : (t.quay q).entries = v.entries := (congrArg Quay.entries hqq :)
    rw [this, hve]
  · have h1 : (t.quay q).entries = v.entries := (congrArg Quay.entries hqq :)
    refine hqq.trans ?_
    rw [h1]
    exact (congrArg (fun y : Quay => { y with damaged := (t.quay q).damaged }) hvq :)
  · refine hdamage q d ?_ hk
    rw [hq, if_pos rfl, hvq]
    exact hd
  · exact hkept x hx (hk.imp_right fun h => (hn _ _).symm.trans h)
  · have h := hquays j
    rw [hq, if_neg hj] at h
    exact h
  · have h := hcleared j d hd
    rw [hq, if_neg hj] at h
    exact h
  · exact hf

/-! ### What a gather writes (R54, R211) -/

theorem packElems_pair (p q : Nat) (qs : List Nat) : packElems 4 (p :: q :: qs) = BitVec.ofNat 8 (p % 16 + 16 * (q % 16)) :: packElems 4 qs := rfl

theorem packElems_cons {code : Nat} (h : code ≠ 4) (p : Nat) (ps : List Nat) :
    packElems code (p :: ps) = leBytes (codeBits code / 8) p ++ packElems code ps := by
  delta packElems List.brecOn packElems._f
  dsimp only [List.brecOn.go]
  exact if_neg h

theorem packElems_length_pairs (n : Nat) : ∀ ps : List Nat, ps.length = 2 * n → (packElems 4 ps).length = n := by
  induction n with
  | zero => exact fun ps h => by rw [List.length_eq_zero_iff.mp h]; rfl
  | succ n ih =>
    intro ps h
    match ps, h with
    | p :: q :: qs, h =>
      rw [packElems_pair, List.length_cons, ih qs (by simp only [List.length_cons] at h; omega)]

theorem packElems_length {code : Nat} (h : code ≠ 4) (ps : List Nat) : (packElems code ps).length = ps.length * (codeBits code / 8) := by
  induction ps with
  | nil => exact (Nat.zero_mul _).symm
  | cons p ps ih => rw [packElems_cons h, List.length_append, leBytes_length, ih, List.length_cons, Nat.succ_mul, Nat.add_comm]

/-- The 32 elements of a token of a slice take its bytes. -/
theorem packElems_token (code : Nat) (ps : List Nat) (h : ps.length = 32) : (packElems code ps).length = codeBytes code := by
  by_cases h4 : code = 4
  · rw [h4]
    exact packElems_length_pairs 16 ps h
  · rw [packElems_length h4, h]
    unfold codeBits codeWidth codeBytes
    split <;> first | rfl | simp_all

theorem leBytes_zero (n : Nat) : leBytes n 0 = List.replicate n 0 := by
  induction n with
  | zero => rfl
  | succ n ih => exact congrArg (List.cons 0) ih

/-- Zero elements are zero bytes. -/
theorem packElems_zeros_pairs (n : Nat) : ∀ b ∈ packElems 4 (List.replicate (2 * n) 0), b = 0 := by
  induction n with
  | zero => exact fun b hb => absurd hb List.not_mem_nil
  | succ n ih =>
    intro b hb
    have e : List.replicate (2 * (n + 1)) (0 : Nat) = 0 :: 0 :: List.replicate (2 * n) 0 := rfl
    rw [e, packElems_pair] at hb
    exact (List.mem_cons.mp hb).elim id (ih b)

theorem packElems_zeros {code : Nat} (h : code ≠ 4) (n : Nat) : ∀ b ∈ packElems code (List.replicate n 0), b = 0 := by
  induction n with
  | zero => exact fun b hb => absurd hb List.not_mem_nil
  | succ n ih =>
    intro b hb
    rw [List.replicate_succ, packElems_cons h, leBytes_zero] at hb
    exact (List.mem_append.mp hb).elim List.eq_of_mem_replicate (ih b)

theorem packElems_token_zeros (code b : Nat) (hb : b < codeBytes code) : (packElems code (List.replicate 32 0))[b]? = some 0 := by
  have hlen := packElems_token code (List.replicate 32 0) List.length_replicate
  rw [List.getElem?_eq_getElem (by rw [hlen]; exact hb)]
  refine congrArg some ?_
  by_cases h4 : code = 4
  · subst h4
    exact packElems_zeros_pairs 16 _ (List.getElem_mem _)
  · exact packElems_zeros h4 32 _ (List.getElem_mem _)

/-- The bytes of a gather's slice. -/
def GatherPlace (q : Nat) (g : GatherTag) (code tin x : Nat) : Prop :=
  (gatherElems q g code tin ≤ x ∧ x < gatherElems q g code tin + codeBytes code) ∨ (codeMx code = true ∧ x = gatherScale q g code tin)

/-- A byte of DRAM after a gather's slice is written, its scale last. -/
theorem State.gatherWrite_reads (s : State) (q : Nat) (g : GatherTag) (code tin : Nat) (pats : List Nat) (scale x : Nat) :
    readByte (s.gatherWrite q g code tin pats scale).dram x
      = if codeMx code = true ∧ x = gatherScale q g code tin then some (BitVec.ofNat 8 scale)
        else readByte (writeBytes s.dram (gatherElems q g code tin) (packElems code pats)) x := by
  unfold State.gatherWrite
  dsimp only
  cases hc : codeMx code
  · rw [if_neg Bool.false_ne_true, if_neg fun h => Bool.false_ne_true h.1]
  · rw [if_pos rfl, readByte_writeByte]
    by_cases hx : x = gatherScale q g code tin
    · rw [if_pos hx, if_pos ⟨rfl, hx⟩]
    · rw [if_neg hx, if_neg fun h => hx h.2]

theorem State.gatherWrite_stands (s : State) (q : Nat) (g : GatherTag) (code tin : Nat) (pats : List Nat) (scale : Nat) (hp : pats.length = 32)
    {x : Nat} (hx : ¬ GatherPlace q g code tin x) : readByte (s.gatherWrite q g code tin pats scale).dram x = readByte s.dram x := by
  rw [State.gatherWrite_reads, if_neg fun h => hx (.inr h), readByte_writeBytes, packElems_token code pats hp, if_neg fun h => hx (.inl h)]

theorem State.gatherWrite_frame (s : State) (q : Nat) (g : GatherTag) (code tin : Nat) (pats : List Nat) (scale : Nat) :
    s.gatherWrite q g code tin pats scale = { s with
      dram := (s.gatherWrite q g code tin pats scale).dram, quayMarks := (s.gatherWrite q g code tin pats scale).quayMarks } := rfl

/-! ### An outcome's delivery (R204, R205, R211) -/

/-- The waiters of an entry that are columns. -/
def FetchEntry.columns (e : FetchEntry) : List Waiter := e.waiters.filter (fun w => w.gather.isNone)

/-- What a delivery leaves of an entry. -/
def FetchEntry.delivered (e : FetchEntry) : FetchEntry := { e with ready := true, waiters := e.columns }

/-- A quay's entries once the data of one has gone. -/
def deliveredEntries (es : List FetchEntry) (i : Nat) (e : FetchEntry) : List FetchEntry :=
  if e.delivered.spent then es.eraseIdx i else es.set i e.delivered

/-- What writes to DRAM, where a gather that waits wants its slice. -/
structure Gathers (s t : State) (q : Nat) (e : FetchEntry) (r : BitVec 512) : Prop where
  stands : ∀ x, ¬ gatherStores q e r x → readByte t.dram x = readByte s.dram x
  none : (∀ w ∈ e.waiters, w.gather = none) → t.dram = s.dram
  frame : t = { s with dram := t.dram, quayMarks := t.quayMarks }

/-- One slice of an outcome. -/
def State.deliverSlice (t : State) (q : Nat) (r : BitVec 512) (d : Nat × Nat × Nat × List Byte) (g : GatherTag) : State :=
  if d.2.2.2.isEmpty then t.gatherZero q g (recStream r) (recTin r)
  else
    let x := gatherSlice (recStream r) d (g.token % 32)
    t.gatherWrite q g (recStream r) (recTin r) x.1 x.2

theorem State.deliverSlice_writes (t : State) (q : Nat) (r : BitVec 512) (d : Nat × Nat × Nat × List Byte) (g : GatherTag) :
    (∀ x, ¬ GatherPlace q g (recStream r) (recTin r) x → readByte (t.deliverSlice q r d g).dram x = readByte t.dram x)
      ∧ t.deliverSlice q r d g = { t with dram := (t.deliverSlice q r d g).dram, quayMarks := (t.deliverSlice q r d g).quayMarks } := by
  unfold State.deliverSlice State.gatherZero
  dsimp only
  split
  · exact ⟨fun x hx => t.gatherWrite_stands q g _ _ _ _ List.length_replicate hx, t.gatherWrite_frame ..⟩
  · refine ⟨fun x hx => t.gatherWrite_stands q g _ _ _ _ ?_ hx, t.gatherWrite_frame ..⟩
    rw [gatherSlice, List.length_map, List.length_range]

theorem State.deliverSlices_gathers (s : State) (q : Nat) (e : FetchEntry) (r : BitVec 512) (d : Nat × Nat × Nat × List Byte) :
    Gathers s ((e.waiters.filterMap (fun w => w.gather)).foldl (fun t g => t.deliverSlice q r d g) s) q e r := by
  refine ⟨fun x hx => ?_, fun hn => ?_, ?_⟩
  · refine List.foldlRecOn (motive := fun t : State => readByte t.dram x = readByte s.dram x) _ _ rfl fun t ht g hg => ?_
    refine ((t.deliverSlice_writes q r d g).1 x fun hp => hx ⟨g, ?_, hp⟩).trans ht
    obtain ⟨w, hw, hwg⟩ := List.mem_filterMap.mp hg
    exact List.mem_map.mpr ⟨w, hw, hwg⟩
  · rw [List.filterMap_eq_nil_iff.mpr hn]
    rfl
  · exact List.foldlRecOn (motive := fun t : State => t = { s with dram := t.dram, quayMarks := t.quayMarks }) _ _ rfl fun t ht g _ =>
      (t.deliverSlice_writes q r d g).2.trans
        (congrArg (fun y : State => { y with dram := (t.deliverSlice q r d g).dram, quayMarks := (t.deliverSlice q r d g).quayMarks }) ht :)

/-- A quay that has delivered an outcome. -/
def deliveredQuay (s : State) (q i : Nat) (e : FetchEntry) (r : BitVec 512) (o : Outcome) : Quay := { s.quay q with
  entries := deliveredEntries (s.quay q).entries i e
  outgoing := (s.quay q).outgoing ++ e.columns.map (waiterPacket q e (outcomeTile s e r o)) }

/-- What the delivery of an outcome does. -/
structure Delivers (s t : State) (q i : Nat) (e : FetchEntry) (r : BitVec 512) (o : Outcome) : Prop where
  quay : t.quay q = deliveredQuay s q i e r o
  others : ∀ j, j ≠ q → t.quay j = s.quay j
  stands : ∀ x, ¬ gatherStores q e r x → readByte t.dram x = readByte s.dram x
  none : (∀ w ∈ e.waiters, w.gather = none) → t.dram = s.dram
  frame : t = { s with quays := t.quays, dram := t.dram, quayMarks := t.quayMarks, freeCtr := t.freeCtr }

theorem State.deliver_delivers {s : State} {q i : Nat} {e : FetchEntry} {r : BitVec 512} (o : Outcome) (h : (s.quay q).entries[i]? = some e)
    (hr : s.recOf e.tid = some r) : Delivers s (s.deliver q i o) q i e r o := by
  obtain ⟨v, hv⟩ : ∃ v, deliveredQuay s q i e r o = v := ⟨_, rfl⟩
  have he : s.deliver q i o
      = ((e.waiters.filterMap (fun w => w.gather)).foldl (fun t g => t.deliverSlice q r (outcomeTile s e r o) g) (s.setQuay q v)).bump := by
    rw [← hv]
    unfold State.deliver
    rw [h]
    dsimp only
    rw [hr]
    rfl
  have hg := (s.setQuay q v).deliverSlices_gathers q e r (outcomeTile s e r o)
  rw [he]
  generalize List.foldl _ (s.setQuay q v) (e.waiters.filterMap _) = t at hg
  obtain ⟨hs, hn, hf⟩ := hg
  have hquay : ∀ j, t.bump.quay j = if j = q then v else s.quay j := fun j => by
    rw [← s.setQuay_quay q v j]
    exact (congrArg (fun y : State => y.quay j) hf :)
  refine ⟨(hquay q).trans ((if_pos rfl).trans hv.symm), fun j hj => (hquay j).trans (if_neg hj), hs, hn, ?_⟩
  exact (congrArg (fun y : State => { y with freeCtr := t.freeCtr + 1 }) hf).trans (by
    have : t.quays = tput {} s.quays q v := (congrArg State.quays hf :)
    show _ = { s with quays := t.quays, dram := t.dram, quayMarks := t.quayMarks, freeCtr := t.freeCtr + 1 }
    rw [this]
    rfl)

/-! ### Micro-batches that are excluded (R206) -/

/-- What the exclusion of the micro-batches of some waiters does. -/
structure Excludes (s t : State) (q : Nat) (ws : List Waiter) : Prop where
  quay : t.quay q = { s.quay q with excluded := (t.quay q).excluded }
  mem : ∀ w ∈ ws, (w.part, w.step, w.outer) ∈ (t.quay q).excluded
  keeps : ∀ x ∈ (s.quay q).excluded, x ∈ (t.quay q).excluded
  others : ∀ j, j ≠ q → t.quay j = s.quay j
  frame : t = { s with quays := t.quays, ctl := t.ctl }

theorem State.exclude_waiter (s : State) (q : Nat) (w : Waiter) : Excludes s (s.exclude q w.part w.step w.outer) q [w] := by
  unfold State.exclude
  dsimp only
  split
  next h => exact ⟨rfl, fun x hx => by rw [List.mem_singleton.mp hx]; exact h, fun _ h => h, fun _ _ => rfl, rfl⟩
  next h =>
    obtain ⟨v, hv⟩ : ∃ v, ({ s.quay q with excluded := (s.quay q).excluded ++ [(w.part, w.step, w.outer)] } : Quay) = v := ⟨_, rfl⟩
    obtain ⟨k, hk⟩ : ∃ k, ({ s.ctlOf w.part with counts := { (s.ctlOf w.part).counts with
        excluded := addOnce (s.ctlOf w.part).counts.excluded (w.step, w.outer) } } : PartControl) = k := ⟨_, rfl⟩
    have hve : v.excluded = (s.quay q).excluded ++ [(w.part, w.step, w.outer)] := by rw [← hv]
    have hvf : v = { s.quay q with excluded := v.excluded } := by rw [← hv]
    rw [hv, hk]
    have hq : ∀ j, ((s.setQuay q v).setCtl w.part k).quay j = if j = q then v else s.quay j := fun j => tget_tput ..
    refine ⟨?_, fun x hx => ?_, fun x hx => ?_, fun j hj => (hq j).trans (if_neg hj), rfl⟩
    · rw [hq, if_pos rfl]
      exact hvf
    · rw [hq, if_pos rfl, hve, List.mem_singleton.mp hx]
      exact List.mem_append_right _ List.mem_cons_self
    · rw [hq, if_pos rfl, hve]
      exact List.mem_append_left _ hx

theorem Excludes.trans {s t u : State} {q : Nat} {ws vs : List Waiter} (a : Excludes s t q ws) (b : Excludes t u q vs) :
    Excludes s u q (ws ++ vs) :=
  ⟨b.quay.trans (congrArg (fun y : Quay => { y with excluded := (u.quay q).excluded }) a.quay :),
    fun w hw => (List.mem_append.mp hw).elim (fun h => b.keeps _ (a.mem w h)) (b.mem w),
    fun x hx => b.keeps x (a.keeps x hx), fun j hj => (b.others j hj).trans (a.others j hj),
    b.frame.trans (congrArg (fun y : State => { y with quays := u.quays, ctl := u.ctl }) a.frame :)⟩

theorem State.foldl_exclude_excludes (q : Nat) (ws : List Waiter) (s : State) :
    Excludes s (ws.foldl (fun t w => t.exclude q w.part w.step w.outer) s) q ws := by
  induction ws generalizing s with
  | nil => exact ⟨rfl, fun _ h => absurd h List.not_mem_nil, fun _ h => h, fun _ _ => rfl, rfl⟩
  | cons w ws ih => exact (s.exclude_waiter q w).trans (ih _)

/-! ### An outcome is fixed (R204, R205) -/

/-- An entry whose outcome has just been fixed. -/
def FetchEntry.fixed (e : FetchEntry) (now : Nat) (o : Outcome) (miss : Bool) : FetchEntry :=
  { e with outcome := some o, ready := false, since := now, missed := if miss then (e.waiters.map (fun w => w.part)).eraseDups else [] }

/-- A substitute's entry whose waiters have joined another read. -/
def FetchEntry.handedOver (e : FetchEntry) : FetchEntry := { e with waiters := [], ready := true }

/-- A quay's entries once the waiters of one have joined a read under way. -/
def joinedEntries (es : List FetchEntry) (i n : Nat) (e e1 : FetchEntry) : List FetchEntry :=
  let es' := es.modify n (fun f => { f with waiters := f.waiters ++ e.waiters })
  if e1.handedOver.spent then es'.eraseIdx i else es'.set i e1.handedOver

/-- A quay's entries once an outcome is fixed. -/
def fixedEntries (s : State) (q i : Nat) (e : FetchEntry) (o : Outcome) (miss : Bool) : List FetchEntry :=
  let es := (s.quay q).entries
  let e1 := e.fixed s.now o miss
  if o.substitute then
    match (s.quay q).sameRead e o with
    | some n => joinedEntries es i n e e1
    | none => es.set i e1
  else if (s.recOf e.tid).isSome then deliveredEntries (es.set i e1) i e1 else es.set i e1

/-- The packets that leave when an outcome is fixed. -/
def fixedPackets (s : State) (q : Nat) (e : FetchEntry) (o : Outcome) : List Outgoing :=
  match s.recOf e.tid with
  | some r => if o.substitute then [] else e.columns.map (waiterPacket q e (outcomeTile s e r o))
  | none => []

/-- What an outcome does before its quay settles, apart from micro-batches that are excluded. -/
structure Places (s t : State) (q i : Nat) (e : FetchEntry) (o : Outcome) (miss : Bool) : Prop where
  entries : (t.quay q).entries = fixedEntries s q i e o miss
  outgoing : (t.quay q).outgoing = (s.quay q).outgoing ++ fixedPackets s q e o
  quay : t.quay q = { s.quay q with entries := (t.quay q).entries, outgoing := (t.quay q).outgoing, counts := (t.quay q).counts }
  others : ∀ j, j ≠ q → t.quay j = s.quay j
  stands : ∀ r, s.recOf e.tid = some r → ∀ x, ¬ gatherStores q e r x → readByte t.dram x = readByte s.dram x
  same : o.substitute = true ∨ (∀ w ∈ e.waiters, w.gather = none) → t.dram = s.dram
  frame : t = { s with quays := t.quays, dram := t.dram, quayMarks := t.quayMarks, freeCtr := t.freeCtr }

/-- A quay whose counts take note of an outcome. -/
def Quay.outcomeCounted (qu : Quay) (o : Outcome) (miss : Bool) : Quay :=
  let c := qu.count (match o with | .data => 0 | .shadow => 4 | .skip => 5 | .checkpoint => 6 | .fault => 7) 1
  if miss then c.count 1 1 else c

theorem Quay.outcomeCounted_frame (qu : Quay) (o : Outcome) (miss : Bool) :
    qu.outcomeCounted o miss = { qu with counts := (qu.outcomeCounted o miss).counts } := by
  unfold Quay.outcomeCounted
  dsimp only
  split <;> rfl

/-- The state in which an outcome is fixed, before what it excludes, its event and the quay's settling. -/
def State.placeOutcome (s : State) (q i : Nat) (e : FetchEntry) (o : Outcome) (miss : Bool) : State :=
  let qu1 := (s.quay q).outcomeCounted o miss
  let e1 := e.fixed s.now o miss
  if o.substitute then
    match qu1.sameRead e o with
    | some n => s.setQuay q { qu1 with entries := joinedEntries qu1.entries i n e e1 }
    | none => s.setQuay q { qu1 with entries := qu1.entries.set i e1 }
  else (s.setQuay q { qu1 with entries := qu1.entries.set i e1 }).deliver q i o

theorem State.fixOutcome_eq {s : State} {q i : Nat} {e : FetchEntry} (o : Outcome) (miss : Bool) (h : (s.quay q).entries[i]? = some e) :
    s.fixOutcome q i o miss
      = (if o = .fault then
          (if o = .skip then e.waiters.foldl (fun t w => t.exclude q w.part w.step w.outer) (s.placeOutcome q i e o miss)
            else s.placeOutcome q i e o miss).event sevFault evFetchFault e.tid e.tile
        else if o = .skip then e.waiters.foldl (fun t w => t.exclude q w.part w.step w.outer) (s.placeOutcome q i e o miss)
          else s.placeOutcome q i e o miss).settle q e.tid := by
  unfold State.fixOutcome
  rw [h]
  rfl

theorem State.placeOutcome_places {s : State} {q i : Nat} {e : FetchEntry} (o : Outcome) (miss : Bool) (h : (s.quay q).entries[i]? = some e) :
    Places s (s.placeOutcome q i e o miss) q i e o miss := by
  unfold State.placeOutcome
  dsimp only
  obtain ⟨v, hv⟩ : ∃ v, (s.quay q).outcomeCounted o miss = v := ⟨_, rfl⟩
  have hvf : v = { s.quay q with counts := v.counts } := hv ▸ (s.quay q).outcomeCounted_frame o miss
  have hve : v.entries = (s.quay q).entries := (congrArg Quay.entries hvf :)
  have hvo : v.outgoing = (s.quay q).outgoing := (congrArg Quay.outgoing hvf :)
  have hvs : v.sameRead e o = (s.quay q).sameRead e o := (congrArg (fun y : Quay => y.sameRead e o) hvf :)
  obtain ⟨e1, he1⟩ : ∃ e1, e.fixed s.now o miss = e1 := ⟨_, rfl⟩
  rw [hv, he1, hvs, hve]
  have put : ∀ es : List FetchEntry, o.substitute = true → fixedEntries s q i e o miss = es →
      Places s (s.setQuay q { v with entries := es }) q i e o miss := fun es hsub hes => by
    have hq := s.setQuay_quay q { v with entries := es }
    have hout : fixedPackets s q e o = [] := by
      unfold fixedPackets
      split
      · rw [if_pos hsub]
      · rfl
    refine ⟨?_, ?_, ?_, fun j hj => (hq j).trans (if_neg hj), fun _ _ _ _ => rfl, fun _ => rfl, rfl⟩
    · rw [hq, if_pos rfl]
      exact hes.symm
    · rw [hq, if_pos rfl, hout, List.append_nil]
      exact hvo
    · rw [hq, if_pos rfl]
      exact (congrArg (fun y : Quay => { y with entries := es, outgoing := v.outgoing }) hvf :)
  by_cases hsub : o.substitute = true
  · rw [if_pos hsub]
    split
    next n hn => exact put _ hsub (by unfold fixedEntries; rw [if_pos hsub, hn, he1])
    next hn => exact put _ hsub (by unfold fixedEntries; rw [if_pos hsub, hn, he1])
  · rw [if_neg hsub]
    obtain ⟨u, hu⟩ : ∃ u, s.setQuay q { v with entries := (s.quay q).entries.set i e1 } = u := ⟨_, rfl⟩
    have hq : ∀ j, u.quay j = if j = q then { v with entries := (s.quay q).entries.set i e1 } else s.quay j := fun j => by
      rw [← hu]
      exact tget_tput ..
    have huf : u = { s with quays := u.quays } := by rw [← hu]; rfl
    have hqe : (u.quay q).entries = (s.quay q).entries.set i e1 := by rw [hq, if_pos rfl]
    have hqo : (u.quay q).outgoing = (s.quay q).outgoing := by rw [hq, if_pos rfl]; exact hvo
    have hqf : u.quay q = { s.quay q with entries := (u.quay q).entries, counts := (u.quay q).counts } := by
      rw [hq, if_pos rfl]
      exact (congrArg (fun y : Quay => { y with entries := (s.quay q).entries.set i e1 }) hvf :)
    have hlt : i < (s.quay q).entries.length := (List.getElem?_eq_some_iff.mp h).1
    have hget : (u.quay q).entries[i]? = some e1 := by rw [hqe, List.getElem?_set_self hlt]
    have hrec : ∀ k, u.recOf k = s.recOf k := fun k => (congrArg (fun y : State => y.recOf k) huf :)
    have he1t : e1.tid = e.tid := by rw [← he1]; rfl
    rw [hu]
    rcases hr : s.recOf e.tid with _ | r
    · have hd : u.deliver q i o = u := by
        unfold State.deliver
        rw [hget]
        dsimp only
        rw [he1t, hrec, hr]
      rw [hd]
      refine ⟨?_, ?_, ?_, fun j hj => (hq j).trans (if_neg hj), fun r hr' => ?_, fun _ => (congrArg State.dram huf :), ?_⟩
      · rw [hqe]
        unfold fixedEntries
        rw [if_neg hsub, hr, he1]
        rfl
      · rw [hqo]
        unfold fixedPackets
        rw [hr, List.append_nil]
      · exact hqf.trans (by rw [hqo])
      · exact absurd (hr.symm.trans hr') (Option.some_ne_none _).symm
      · exact (congrArg (fun y : State => { y with dram := u.dram, quayMarks := u.quayMarks, freeCtr := u.freeCtr }) huf :)
    · obtain ⟨hdq, hdo, hds, hdn, hdf⟩ := State.deliver_delivers o hget (by rw [he1t, hrec, hr])
      have hudram : u.dram = s.dram := (congrArg State.dram huf :)
      generalize u.deliver q i o = t at hdq hdo hds hdn hdf
      have hte : (t.quay q).entries = deliveredEntries ((s.quay q).entries.set i e1) i e1 := by rw [hdq, ← hqe]; rfl
      have hpack : e1.columns.map (waiterPacket q e1 (outcomeTile u e1 r o)) = e.columns.map (waiterPacket q e (outcomeTile s e r o)) := by
        have htile : outcomeTile u e1 r o = outcomeTile s e r o := by
          rw [← he1]
          exact (congrArg (fun y : State => outcomeTile y e r o) huf :)
        rw [htile, ← he1]
        rfl
      have hto : (t.quay q).outgoing = (s.quay q).outgoing ++ e.columns.map (waiterPacket q e (outcomeTile s e r o)) := by
        rw [hdq, ← hpack, ← hqo]
        rfl
      refine ⟨?_, ?_, ?_, fun j hj => (hdo j hj).trans ((hq j).trans (if_neg hj)), fun r' hr' x hx => ?_, fun hn => ?_, ?_⟩
      · rw [hte]
        unfold fixedEntries
        rw [if_neg hsub, hr, he1]
        rfl
      · rw [hto]
        unfold fixedPackets
        rw [hr]
        exact (congrArg ((s.quay q).outgoing ++ ·) (if_neg hsub)).symm
      · have hc : (t.quay q).counts = (u.quay q).counts := by rw [hdq]; rfl
        have : t.quay q = { u.quay q with entries := (t.quay q).entries, outgoing := (t.quay q).outgoing } := by
          rw [hdq]
          rfl
        refine this.trans ?_
        rw [hc]
        exact (congrArg (fun y : Quay => { y with entries := (t.quay q).entries, outgoing := (t.quay q).outgoing }) hqf :)
      · obtain rfl : r = r' := Option.some.inj (hr.symm.trans hr')
        refine (hds x fun hs => hx ?_).trans (by rw [hudram])
        rw [← he1] at hs
        exact hs
      · refine (hdn fun w hw => (hn.resolve_left hsub) w ?_).trans hudram
        rw [← he1] at hw
        exact hw
      · exact hdf.trans (congrArg (fun y : State => { y with quays := t.quays, dram := t.dram, quayMarks := t.quayMarks, freeCtr := t.freeCtr }) huf :)

/-! ### Where versions retire, seen from before and after (R17) -/

theorem OnlyRetires.of_start {s u t : State} {q tid : Nat} (h : OnlyRetires u t q tid) (ht : u.tensors = s.tensors)
    (ho : ∀ j, j ≠ q → u.quay j = s.quay j) : OnlyRetires s t q tid := by
  have htens : ∀ j, u.tensor j = s.tensor j := fun j => congrArg (fun m => tget ({} : Tensor) m j) ht
  obtain ⟨h1, h2, h3, h4, h5, h6⟩ := h
  rw [htens] at h2 h3 h4
  refine ⟨fun j hj => (h1 j hj).trans (htens j), h2, h3, h4, fun j hj => ?_, fun j hj d hd => ?_⟩
  · rw [← ho j hj]
    exact h5 j hj
  · rw [← ho j hj]
    exact h6 j hj d hd

theorem OnlyRetires.of_end {s t u : State} {q tid : Nat} (h : OnlyRetires s t q tid) (ht : u.tensors = t.tensors)
    (ho : ∀ j, j ≠ q → u.quay j = t.quay j) (hn : ∀ n, versionNamed u tid n = true → versionNamed t tid n = true) : OnlyRetires s u q tid := by
  have htens : ∀ j, u.tensor j = t.tensor j := fun j => congrArg (fun m => tget ({} : Tensor) m j) ht
  obtain ⟨h1, h2, h3, h4, h5, h6⟩ := h
  rw [← htens tid] at h2 h3 h4
  refine ⟨fun j hj => (htens j).trans (h1 j hj), h2, h3, fun v hv hk => h4 v hv (hk.imp_right (hn _)), fun j hj => ?_, fun j hj d hd => ?_⟩
  · rw [ho j hj]
    exact h5 j hj
  · rw [ho j hj] at hd
    exact h6 j hj d hd

theorem OnlyRetires.refl (s : State) (q tid : Nat) : OnlyRetires s s q tid :=
  ⟨fun _ _ => rfl, rfl, fun _ h => h, fun _ h _ => h, fun _ _ => rfl, fun _ _ _ h => h⟩

/-- A change of the quay that leaves its entries. -/
theorem OnlyRetires.setQuay {s t : State} {q tid : Nat} (h : OnlyRetires s t q tid) {v : Quay} (hv : v.entries = (t.quay q).entries) :
    OnlyRetires s (t.setQuay q v) q tid :=
  h.of_end rfl (fun j hj => t.setQuay_quay_ne q v j hj) fun _ hn => versionNamed_setQuay (by rw [hv]) hn

/-! ### What fixing an outcome does (R204, R205) -/

/-- What the fixing of an entry's outcome does. -/
structure Fixes (s t : State) (q i : Nat) (e : FetchEntry) (o : Outcome) (miss : Bool) : Prop where
  entries : (t.quay q).entries.map FetchEntry.plain = (fixedEntries s q i e o miss).map FetchEntry.plain
  outgoing : (t.quay q).outgoing = (s.quay q).outgoing ++ fixedPackets s q e o
  quay : t.quay q = { s.quay q with
    entries := (t.quay q).entries, outgoing := (t.quay q).outgoing, counts := (t.quay q).counts
    excluded := (t.quay q).excluded, damaged := (t.quay q).damaged }
  skip : o = .skip → ∀ w ∈ e.waiters, (w.part, w.step, w.outer) ∈ (t.quay q).excluded
  kept : o ≠ .skip → t.ctl = s.ctl ∧ (t.quay q).excluded = (s.quay q).excluded
  stands : ∀ r, s.recOf e.tid = some r → ∀ x, ¬ gatherStores q e r x → readByte t.dram x = readByte s.dram x
  same : o.substitute = true ∨ (∀ w ∈ e.waiters, w.gather = none) → t.dram = s.dram
  damage : ∀ d ∈ (s.quay q).damaged, d.1 ≠ e.tid ∨ d.2.2.1 ∉ (s.tensor e.tid).retiring → d ∈ (t.quay q).damaged
  retires : OnlyRetires s t q e.tid
  frame : t = { s with quays := t.quays, ctl := t.ctl, dram := t.dram, quayMarks := t.quayMarks, tensors := t.tensors, log := t.log
                       hosts := t.hosts, sivar := t.sivar, freeCtr := t.freeCtr }

/-- What an outcome does before its quay settles. -/
structure FixesOpen (s t : State) (q i : Nat) (e : FetchEntry) (o : Outcome) (miss : Bool) : Prop where
  entries : (t.quay q).entries = fixedEntries s q i e o miss
  outgoing : (t.quay q).outgoing = (s.quay q).outgoing ++ fixedPackets s q e o
  quay : t.quay q = { s.quay q with
    entries := (t.quay q).entries, outgoing := (t.quay q).outgoing, counts := (t.quay q).counts, excluded := (t.quay q).excluded }
  skip : o = .skip → ∀ w ∈ e.waiters, (w.part, w.step, w.outer) ∈ (t.quay q).excluded
  kept : o ≠ .skip → t.ctl = s.ctl ∧ (t.quay q).excluded = (s.quay q).excluded
  others : ∀ j, j ≠ q → t.quay j = s.quay j
  stands : ∀ r, s.recOf e.tid = some r → ∀ x, ¬ gatherStores q e r x → readByte t.dram x = readByte s.dram x
  same : o.substitute = true ∨ (∀ w ∈ e.waiters, w.gather = none) → t.dram = s.dram
  frame : t = { s with quays := t.quays, ctl := t.ctl, dram := t.dram, quayMarks := t.quayMarks, log := t.log
                       hosts := t.hosts, sivar := t.sivar, freeCtr := t.freeCtr }

theorem Places.open_of_kept {s t : State} {q i : Nat} {e : FetchEntry} {o : Outcome} {miss : Bool} (h : Places s t q i e o miss)
    (ho : o ≠ .skip) : FixesOpen s t q i e o miss := by
  have hx : (t.quay q).excluded = (s.quay q).excluded := (congrArg Quay.excluded h.quay :)
  refine ⟨h.entries, h.outgoing, ?_, fun h' => absurd h' ho, fun _ => ⟨(congrArg State.ctl h.frame :), hx⟩, h.others, h.stands, h.same, ?_⟩
  · exact (congrArg (fun y : Quay => { y with excluded := (t.quay q).excluded }) h.quay :)
  · exact (congrArg (fun y : State => { y with ctl := t.ctl, log := t.log, hosts := t.hosts, sivar := t.sivar }) h.frame :)

theorem Places.open_of_skip {s u t : State} {q i : Nat} {e : FetchEntry} {o : Outcome} {miss : Bool} (h : Places s u q i e o miss)
    (ho : o = .skip) (hx : Excludes u t q e.waiters) : FixesOpen s t q i e o miss := by
  have hdram : t.dram = u.dram := (congrArg State.dram hx.frame :)
  have he : (t.quay q).entries = (u.quay q).entries := (congrArg Quay.entries hx.quay :)
  have hout : (t.quay q).outgoing = (u.quay q).outgoing := (congrArg Quay.outgoing hx.quay :)
  have hc : (t.quay q).counts = (u.quay q).counts := (congrArg Quay.counts hx.quay :)
  refine ⟨he.trans h.entries, hout.trans h.outgoing, ?_, fun _ => hx.mem, fun h' => absurd ho h', fun j hj => (hx.others j hj).trans (h.others j hj),
    fun r hr x hg => (by rw [hdram]; exact h.stands r hr x hg), fun hs => hdram.trans (h.same hs), ?_⟩
  · rw [he, hout, hc]
    exact hx.quay.trans (congrArg (fun y : Quay => { y with excluded := (t.quay q).excluded }) h.quay :)
  · have h1 : t.quayMarks = u.quayMarks := (congrArg State.quayMarks hx.frame :)
    have h2 : t.freeCtr = u.freeCtr := (congrArg State.freeCtr hx.frame :)
    have h3 : t.log = u.log ∧ t.hosts = u.hosts ∧ t.sivar = u.sivar :=
      ⟨(congrArg State.log hx.frame :), (congrArg State.hosts hx.frame :), (congrArg State.sivar hx.frame :)⟩
    rw [h1, h2, hdram, h3.1, h3.2.1, h3.2.2]
    refine hx.frame.trans ((congrArg (fun y : State => { y with quays := t.quays, ctl := t.ctl, log := u.log, hosts := u.hosts, sivar := u.sivar }) h.frame :) : _ = _)

theorem FixesOpen.event {s t : State} {q i : Nat} {e : FetchEntry} {o : Outcome} {miss : Bool} (h : FixesOpen s t q i e o miss)
    (a b c d : Nat) : FixesOpen s (t.event a b c d) q i e o miss := by
  have hf := t.event_frame a b c d
  generalize t.event a b c d = u at hf
  have hq : ∀ j, u.quay j = t.quay j := fun j => (congrArg (fun y : State => y.quay j) hf :)
  have hd : u.dram = t.dram := (congrArg State.dram hf :)
  have hc : u.ctl = t.ctl := (congrArg State.ctl hf :)
  refine ⟨by rw [hq]; exact h.entries, by rw [hq]; exact h.outgoing, by rw [hq]; exact h.quay, by rw [hq]; exact h.skip,
    by rw [hq, hc]; exact h.kept, fun j hj => (hq j).trans (h.others j hj), by rw [hd]; exact h.stands, by rw [hd]; exact h.same, ?_⟩
  have h1 : u.quays = t.quays ∧ u.quayMarks = t.quayMarks ∧ u.freeCtr = t.freeCtr :=
    ⟨(congrArg State.quays hf :), (congrArg State.quayMarks hf :), (congrArg State.freeCtr hf :)⟩
  rw [hd, hc, h1.1, h1.2.1, h1.2.2]
  exact hf.trans ((congrArg (fun y : State => { y with log := u.log, hosts := u.hosts, sivar := u.sivar }) h.frame :) : _ = _)

theorem FixesOpen.settle {s t : State} {q i : Nat} {e : FetchEntry} {o : Outcome} {miss : Bool} (h : FixesOpen s t q i e o miss) :
    Fixes s (t.settle q e.tid) q i e o miss := by
  have hs := t.settle_settles q e.tid
  generalize t.settle q e.tid = u at hs
  have htens : t.tensors = s.tensors := (congrArg State.tensors h.frame :)
  have htt : t.tensor e.tid = s.tensor e.tid := (congrArg (fun m => tget ({} : Tensor) m e.tid) htens :)
  have hd : u.dram = t.dram := (congrArg State.dram hs.frame :)
  have hc : u.ctl = t.ctl := (congrArg State.ctl hs.frame :)
  have hx : (u.quay q).excluded = (t.quay q).excluded := (congrArg Quay.excluded hs.quay :)
  have ho : (u.quay q).outgoing = (t.quay q).outgoing := (congrArg Quay.outgoing hs.quay :)
  have hn : (u.quay q).counts = (t.quay q).counts := (congrArg Quay.counts hs.quay :)
  have hdm : (t.quay q).damaged = (s.quay q).damaged := (congrArg Quay.damaged h.quay :)
  refine ⟨hs.entries.trans (by rw [h.entries]), ho.trans h.outgoing, ?_, by rw [hx]; exact h.skip, by rw [hx, hc]; exact h.kept,
    by rw [hd]; exact h.stands, by rw [hd]; exact h.same, fun d hdd hk => hs.damage d (by rw [hdm]; exact hdd) (by rw [htt]; exact hk),
    hs.retires.of_start htens h.others, ?_⟩
  · rw [ho, hx, hn]
    exact hs.quay.trans (congrArg (fun y : Quay => { y with entries := (u.quay q).entries, damaged := (u.quay q).damaged }) h.quay :)
  · have h1 : u.quayMarks = t.quayMarks ∧ u.freeCtr = t.freeCtr ∧ u.log = t.log ∧ u.hosts = t.hosts ∧ u.sivar = t.sivar :=
      ⟨(congrArg State.quayMarks hs.frame :), (congrArg State.freeCtr hs.frame :), (congrArg State.log hs.frame :),
        (congrArg State.hosts hs.frame :), (congrArg State.sivar hs.frame :)⟩
    rw [hd, hc, h1.1, h1.2.1, h1.2.2.1, h1.2.2.2.1, h1.2.2.2.2]
    exact hs.frame.trans ((congrArg (fun y : State => { y with quays := u.quays, tensors := u.tensors }) h.frame :) : _ = _)

theorem State.fixOutcome_fixes {s : State} {q i : Nat} {e : FetchEntry} (o : Outcome) (miss : Bool) (h : (s.quay q).entries[i]? = some e) :
    Fixes s (s.fixOutcome q i o miss) q i e o miss := by
  have hp := State.placeOutcome_places o miss h
  rw [State.fixOutcome_eq o miss h]
  generalize s.placeOutcome q i e o miss = u at hp
  refine FixesOpen.settle ?_
  by_cases hs : o = .skip
  · rw [if_neg (by rw [hs]; exact fun h => nomatch h), if_pos hs]
    exact hp.open_of_skip hs (State.foldl_exclude_excludes q e.waiters u)
  · rw [if_neg hs]
    have hk := hp.open_of_kept hs
    split
    · exact hk.event ..
    · exact hk

/-! ### Where the waiters of a fixed entry are -/

theorem mem_of_plain {l m : List FetchEntry} (h : l.map FetchEntry.plain = m.map FetchEntry.plain) {f : FetchEntry} (hf : f ∈ m) :
    ∃ g ∈ l, g.plain = f.plain := by
  have : f.plain ∈ l.map FetchEntry.plain := h ▸ List.mem_map_of_mem hf
  exact List.mem_map.mp this

/-- The read that the waiters of an open entry may join is another entry's. -/
theorem sameRead_other {qu : Quay} {i n : Nat} {e : FetchEntry} {o : Outcome} (h : qu.entries[i]? = some e) (he : e.outcome = none)
    (hn : qu.sameRead e o = some n) :
    n ≠ i ∧ ∃ f, qu.entries[n]? = some f ∧ f.tid = e.tid ∧ f.tile = e.tile ∧ f.version = e.version ∧ f.outcome = some o := by
  obtain ⟨hlt, hp, -⟩ := List.findIdx?_eq_some_iff_getElem.mp hn
  simp only [Bool.and_eq_true, beq_iff_eq] at hp
  obtain ⟨⟨⟨⟨⟨h1, h2⟩, h3⟩, h4⟩, -⟩, -⟩ := hp
  refine ⟨fun hni => ?_, qu.entries[n], List.getElem?_eq_getElem hlt, h1, h2, h3, h4⟩
  subst hni
  have : qu.entries[n] = e := Option.some.inj ((List.getElem?_eq_getElem hlt).symm.trans h)
  rw [this, he] at h4
  exact absurd h4 (Option.some_ne_none _).symm

/-- The read that waiters join holds them with its own. -/
theorem mem_joinedEntries {es : List FetchEntry} {i n : Nat} {e e1 f : FetchEntry} (hn : n ≠ i) (hf : es[n]? = some f) :
    { f with waiters := f.waiters ++ e.waiters } ∈ joinedEntries es i n e e1 := by
  have hm : (es.modify n (fun f => { f with waiters := f.waiters ++ e.waiters }))[n]? = some { f with waiters := f.waiters ++ e.waiters } := by
    rw [List.getElem?_modify_eq, hf]
    rfl
  unfold joinedEntries
  dsimp only
  split
  · exact List.mem_eraseIdx_iff_getElem?.mpr ⟨n, hn, hm⟩
  · exact List.mem_of_getElem? (i := n) (by rw [List.getElem?_set_ne hn.symm]; exact hm)

/-- An entry that keeps waiters is not spent. -/
theorem FetchEntry.spent_of_mem {e : FetchEntry} {w : Waiter} (h : w ∈ e.waiters) : e.spent = false := by
  unfold FetchEntry.spent
  cases hw : e.waiters with
  | nil => rw [hw] at h; cases h
  | cons _ _ => rfl

/-- A column that waits for an open entry waits still when its outcome is fixed, for that entry or for the read that it joins. -/
theorem Fixes.waits {s t : State} {q i : Nat} {e : FetchEntry} {o : Outcome} {miss : Bool} (h : Fixes s t q i e o miss)
    (hi : (s.quay q).entries[i]? = some e) (he : e.outcome = none) {w : Waiter} (hw : w ∈ e.waiters) (hg : w.gather = none) :
    ∃ f ∈ (t.quay q).entries, f.tid = e.tid ∧ f.tile = e.tile ∧ f.version = e.version ∧ w ∈ f.waiters := by
  have hlt : i < (s.quay q).entries.length := (List.getElem?_eq_some_iff.mp hi).1
  suffices hs : ∃ f ∈ fixedEntries s q i e o miss, f.tid = e.tid ∧ f.tile = e.tile ∧ f.version = e.version ∧ w ∈ f.waiters by
    obtain ⟨f, hf, h1, h2, h3, h4⟩ := hs
    obtain ⟨g, hgm, hp⟩ := mem_of_plain h.entries hf
    exact ⟨g, hgm, ((congrArg FetchEntry.tid hp :) : g.tid = f.tid).trans h1, ((congrArg FetchEntry.tile hp :) : g.tile = f.tile).trans h2,
      ((congrArg FetchEntry.version hp :) : g.version = f.version).trans h3, ((congrArg FetchEntry.waiters hp :) : g.waiters = f.waiters) ▸ h4⟩
  have hcol : w ∈ (e.fixed s.now o miss).delivered.waiters := List.mem_filter.mpr ⟨hw, by rw [hg]; rfl⟩
  unfold fixedEntries
  dsimp only
  split
  · split
    next n hn =>
      obtain ⟨hne, f, hf, h1, h2, h3, -⟩ := sameRead_other hi he hn
      exact ⟨_, mem_joinedEntries hne hf, h1, h2, h3, List.mem_append_right _ hw⟩
    next => exact ⟨_, List.mem_set hlt _, rfl, rfl, rfl, hw⟩
  · split
    · unfold deliveredEntries
      rw [if_neg (by rw [FetchEntry.spent_of_mem hcol]; exact Bool.false_ne_true)]
      exact ⟨_, List.mem_set (by rw [List.length_set]; exact hlt) _, rfl, rfl, rfl, hcol⟩
    · exact ⟨_, List.mem_set hlt _, rfl, rfl, rfl, hw⟩

/-! ### A waiter joins an entry (R202, R203) -/

/-- What the arrival of a waiter at a quay's entries does. -/
structure Joins (s t : State) (q tid tile version : Nat) (w : Waiter) : Prop where
  joined : w.gather = none ∨ ((s.quay q).damaged = [] ∧ (s.tensor tid).retired version = false) →
    ∃ f ∈ (t.quay q).entries, f.tid = tid ∧ f.tile = tile ∧ f.version = version ∧ w ∈ f.waiters
  issued : (t.quay q).issued = (s.quay q).issued
  seqs : (t.quay q).seqs = (s.quay q).seqs
  dram : w.gather = none → t.dram = s.dram
  retires : OnlyRetires s t q tid
  frame : t = { s with quays := t.quays, ctl := t.ctl, dram := t.dram, quayMarks := t.quayMarks, tensors := t.tensors, log := t.log
                       hosts := t.hosts, sivar := t.sivar, freeCtr := t.freeCtr }

/-- The entry that a waiter opens. -/
def openedEntry (s : State) (q tid tile version : Nat) (w : Waiter) : FetchEntry where
  tid := tid
  tile := tile
  version := version
  waiters := [w]
  outcome := none
  ready := false
  since := s.now
  missed := []
  rebuilt := false
  recovery := 0
  unreadable := false
  waiting := decide (65536 ≤ (s.quay q).inUse) || (s.quay q).entries.any (fun e => e.waiting)

/-- A quay in which a waiter has opened an entry. -/
def openedQuay (s : State) (q tid tile version : Nat) (w : Waiter) : Quay := { s.quay q with
  entries := (s.quay q).entries ++ [openedEntry s q tid tile version w]
  highWater := max (s.quay q).highWater (min 65536 ((s.quay q).inUse + 1))
  issueWaits := (s.quay q).issueWaits + (if (openedEntry s q tid tile version w).waiting then 1 else 0) }

/-- The entries of a quay change, and nothing else that an entry's end would touch. -/
theorem Joins.of_setQuay {s : State} {q tid tile version : Nat} {w : Waiter} {v : Quay}
    (hj : ∃ f ∈ v.entries, f.tid = tid ∧ f.tile = tile ∧ f.version = version ∧ w ∈ f.waiters)
    (hi : v.issued = (s.quay q).issued) (hs : v.seqs = (s.quay q).seqs) : Joins s (s.setQuay q v) q tid tile version w := by
  have hq := s.setQuay_quay_same q v
  refine ⟨fun _ => by rw [hq]; exact hj, by rw [hq]; exact hi, by rw [hq]; exact hs, fun _ => rfl,
    OnlyRetires.of_start (OnlyRetires.refl (s.setQuay q v) q tid) rfl fun j hj => s.setQuay_quay_ne q v j hj, rfl⟩

theorem Joins.of_fixes {s t : State} {q tid tile version : Nat} {w : Waiter} {o : Outcome} {miss : Bool}
    (h : Fixes (s.setQuay q (openedQuay s q tid tile version w)) t q (s.quay q).entries.length (openedEntry s q tid tile version w) o miss)
    (hn : ¬ ((s.quay q).damaged = [] ∧ (s.tensor tid).retired version = false)) : Joins s t q tid tile version w := by
  have hq := s.setQuay_quay_same q (openedQuay s q tid tile version w)
  have hget : ((s.setQuay q (openedQuay s q tid tile version w)).quay q).entries[(s.quay q).entries.length]?
      = some (openedEntry s q tid tile version w) := by
    rw [hq]
    exact List.getElem?_concat_length
  have hiss : (t.quay q).issued = ((s.setQuay q (openedQuay s q tid tile version w)).quay q).issued := (congrArg Quay.issued h.quay :)
  have hseq : (t.quay q).seqs = ((s.setQuay q (openedQuay s q tid tile version w)).quay q).seqs := (congrArg Quay.seqs h.quay :)
  rw [hq] at hiss hseq
  refine ⟨fun hj => ?_, hiss, hseq, fun hg => h.same (.inr fun x hx => ?_), ?_, ?_⟩
  · exact h.waits hget rfl List.mem_cons_self (hj.resolve_right hn)
  · rw [List.mem_singleton.mp hx]
    exact hg
  · exact h.retires.of_start rfl fun j hj => s.setQuay_quay_ne q _ j hj
  · exact h.frame

/-- A count of the quay. -/
theorem Joins.setQuay {s t : State} {q tid tile version : Nat} {w : Waiter} (h : Joins s t q tid tile version w) {v : Quay}
    (he : v.entries = (t.quay q).entries) (hi : v.issued = (t.quay q).issued) (hs : v.seqs = (t.quay q).seqs) :
    Joins s (t.setQuay q v) q tid tile version w := by
  have hq := t.setQuay_quay_same q v
  refine ⟨fun hj => by rw [hq, he]; exact h.joined hj, by rw [hq, hi]; exact h.issued, by rw [hq, hs]; exact h.seqs, h.dram,
    h.retires.setQuay he, ?_⟩
  exact (congrArg (fun y : State => { y with quays := tput {} t.quays q v }) h.frame :)

/-- An open entry of a tile and version that waits. -/
def Quay.openEntry (qu : Quay) (tid tile version : Nat) : Option Nat :=
  qu.entries.findIdx? (fun e => e.tid == tid && e.tile == tile && e.version == version && e.outcome.isNone && !e.waiters.isEmpty)

/-- The state in which a waiter has opened an entry. -/
def State.openEntry (s : State) (q tid tile version : Nat) (w : Waiter) : State := s.setQuay q (openedQuay s q tid tile version w)

theorem State.joinEntry_open {s : State} {q tid tile version : Nat} (w : Waiter) (h : (s.quay q).openEntry tid tile version = none) :
    s.joinEntry q tid tile version w
      = match (s.quay q).damaged.find? (fun d => d.1 == tid && d.2.1 == tile && d.2.2.1 == version) with
        | some d => (s.openEntry q tid tile version w).fixOutcome q (s.quay q).entries.length d.2.2.2 false
        | none =>
          if (s.tensor tid).retired version then
            ((s.openEntry q tid tile version w).fixOutcome q (s.quay q).entries.length .skip false).setQuay q
              ((((s.openEntry q tid tile version w).fixOutcome q (s.quay q).entries.length .skip false).quay q).count 2 1)
          else s.openEntry q tid tile version w := by
  unfold Quay.openEntry at h
  unfold State.joinEntry
  dsimp only
  rw [h]
  rfl

theorem State.joinEntry_joins (s : State) (q tid tile version : Nat) (w : Waiter) :
    Joins s (s.joinEntry q tid tile version w) q tid tile version w := by
  rcases hopen : (s.quay q).openEntry tid tile version with _ | i
  · have hget : ((s.openEntry q tid tile version w).quay q).entries[(s.quay q).entries.length]? = some (openedEntry s q tid tile version w) := by
      rw [State.openEntry, s.setQuay_quay_same q]
      exact List.getElem?_concat_length
    have hfix : ∀ o, ¬ ((s.quay q).damaged = [] ∧ (s.tensor tid).retired version = false) →
        Joins s ((s.openEntry q tid tile version w).fixOutcome q (s.quay q).entries.length o false) q tid tile version w := fun o hn =>
      .of_fixes (State.fixOutcome_fixes o false hget) hn
    rw [State.joinEntry_open w hopen]
    split
    next d hd =>
      refine hfix _ fun h => ?_
      rw [h.1] at hd
      cases hd
    next =>
      split
      next hr =>
        have hj := hfix .skip fun h => absurd hr (by rw [h.2]; exact Bool.false_ne_true)
        generalize (s.openEntry q tid tile version w).fixOutcome q (s.quay q).entries.length .skip false = u at hj
        exact hj.setQuay rfl rfl rfl
      next => exact .of_setQuay ⟨_, List.mem_append_right _ List.mem_cons_self, rfl, rfl, rfl, List.mem_cons_self⟩ rfl rfl
  · obtain ⟨hlt, hp, -⟩ := List.findIdx?_eq_some_iff_getElem.mp hopen
    simp only [Bool.and_eq_true, beq_iff_eq] at hp
    obtain ⟨⟨⟨⟨h1, h2⟩, h3⟩, -⟩, -⟩ := hp
    have e : s.joinEntry q tid tile version w
        = s.setQuay q { s.quay q with entries := (s.quay q).entries.modify i (fun e => { e with waiters := e.waiters ++ [w] }) } := by
      unfold Quay.openEntry at hopen
      unfold State.joinEntry
      dsimp only
      rw [hopen]
    rw [e]
    refine .of_setQuay ⟨{ (s.quay q).entries[i] with waiters := (s.quay q).entries[i].waiters ++ [w] }, ?_, h1, h2, h3,
      List.mem_append_right _ List.mem_cons_self⟩ rfl rfl
    refine List.mem_of_getElem? (i := i) ?_
    rw [List.getElem?_modify_eq, List.getElem?_eq_getElem hlt]
    rfl

/-! ### A fetch is issued (R202) -/

/-- A fetch has been noted as issued, at its time; of its quay nothing changed that an entry or an outcome would touch. -/
structure Issued (s u : State) (q at' : Nat) (key : IssuedFetch) : Prop where
  now : u.now = max s.now at'
  issued : key ∈ (u.quay q).issued
  entries : (u.quay q).entries = (s.quay q).entries
  damaged : (u.quay q).damaged = (s.quay q).damaged
  others : ∀ j, j ≠ q → u.quay j = s.quay j
  frame : u = { s with now := u.now, rtc := u.rtc, quays := u.quays }

/-- The quay's notes of a fetch: sequence numbers, segments, gathers and bad tokens. -/
theorem Issued.setQuay {s u : State} {q at' : Nat} {key : IssuedFetch} (h : Issued s u q at' key) {v : Quay} (hi : v.issued = (u.quay q).issued)
    (he : v.entries = (u.quay q).entries) (hd : v.damaged = (u.quay q).damaged) : Issued s (u.setQuay q v) q at' key := by
  have hq := u.setQuay_quay_same q v
  refine ⟨h.now, by rw [hq, hi]; exact h.issued, by rw [hq, he]; exact h.entries, by rw [hq, hd]; exact h.damaged,
    fun j hj => (u.setQuay_quay_ne q v j hj).trans (h.others j hj), ?_⟩
  exact (congrArg (fun y : State => { y with quays := tput {} u.quays q v }) h.frame :)

theorem Issued.tensors {s u : State} {q at' : Nat} {key : IssuedFetch} (h : Issued s u q at' key) : u.tensors = s.tensors :=
  (congrArg State.tensors h.frame :)

/-- The state in which a fetch is noted as issued. -/
def State.noteIssue (s : State) (q tid at' : Nat) (key : IssuedFetch) : State :=
  (s.advance at').setQuay q ((((s.advance at').quay q).noteFetch tid at').noteIssued key)

theorem State.noteIssue_issued (s : State) (q tid at' : Nat) (key : IssuedFetch) : Issued s (s.noteIssue q tid at' key) q at' key := by
  obtain ⟨u, hu⟩ : ∃ u, s.advance at' = u := ⟨_, rfl⟩
  have hn : u.now = max s.now at' := by rw [← hu]; rfl
  have hf : u = { s with now := u.now, rtc := u.rtc, quays := u.quays } := by rw [← hu]; rfl
  have hquay : ∀ j, u.quay j = s.quay j := fun j => by rw [← hu]; rfl
  unfold State.noteIssue
  rw [hu]
  have hq := u.setQuay_quay_same q (((u.quay q).noteFetch tid at').noteIssued key)
  refine ⟨hn, ?_, ?_, ?_, fun j hj => (u.setQuay_quay_ne q _ j hj).trans (hquay j), ?_⟩
  · rw [hq]
    exact List.mem_append_right _ List.mem_cons_self
  · rw [hq, ← hquay]
    rfl
  · rw [hq, ← hquay]
    rfl
  · exact (congrArg (fun y : State => { y with quays := tput {} u.quays q (((u.quay q).noteFetch tid at').noteIssued key) }) hf :)

theorem Issued.measureSegments {s u : State} {q at' : Nat} {key : IssuedFetch} (h : Issued s u q at' key) (p rec step outer : Nat) (r : BitVec 512) :
    Issued s (u.measureSegments q p rec step outer r) q at' key ∧ ((u.measureSegments q p rec step outer r).quay q).badTokens = (u.quay q).badTokens := by
  unfold State.measureSegments
  split
  · split
    · refine ⟨h.setQuay rfl rfl rfl, ?_⟩
      rw [u.setQuay_quay_same q]
    · exact ⟨h, rfl⟩
  · exact ⟨h, rfl⟩

/-- A gather's position lies in a block of tokens. -/
theorem fetchKnown_gather {s : State} {p n j k step i o : Nat} {pr r : BitVec 512} (h : fetchKnown s p n j k step i o = some (pr, r))
    (hg : planGather pr = true) : 0 < gatherT pr := by
  unfold fetchKnown at h
  dsimp only at h
  split at h
  next => cases h
  next pr' hpr =>
    split at h
    next => cases h
    next r' hr =>
      obtain ⟨hin, he⟩ := Option.ite_none_right_eq_some.mp h
      obtain ⟨rfl, rfl⟩ := Prod.mk.inj (Option.some.inj he)
      rw [hg, if_pos rfl, Bool.and_eq_true, decide_eq_true_eq] at hin
      refine Nat.pos_of_ne_zero fun h0 => ?_
      rw [h0, Nat.zero_mul] at hin
      exact absurd hin.2.1 (Nat.not_lt_zero _)

/-- A token's scale lies behind the elements of its slice. -/
theorem gatherElems_lt_scale {q : Nat} {g : GatherTag} (code tin : Nat) (h : 0 < gatherT g.record) :
    gatherElems q g code tin + codeBytes code ≤ gatherScale q g code tin := by
  have hlt : g.position % gatherT g.record + 1 ≤ gatherT g.record := Nat.mod_lt _ h
  have hm := Nat.mul_le_mul_right (codeBytes code) hlt
  rw [Nat.succ_mul] at hm
  unfold gatherElems gatherScale
  omega

/-- A padding token's slice: zeros, under a scale of 1. -/
theorem State.gatherZero_reads (s : State) (q : Nat) (g : GatherTag) (code tin : Nat) (h : 0 < gatherT g.record) :
    (∀ b, b < codeBytes code → readByte (s.gatherZero q g code tin).dram (gatherElems q g code tin + b) = some 0)
      ∧ (codeMx code = true → readByte (s.gatherZero q g code tin).dram (gatherScale q g code tin) = some 127)
      ∧ (∀ b, (b < gatherElems q g code tin ∨ gatherElems q g code tin + codeBytes code ≤ b) → (codeMx code = false ∨ b ≠ gatherScale q g code tin) →
        readByte (s.gatherZero q g code tin).dram b = readByte s.dram b) := by
  have hs := gatherElems_lt_scale (q := q) (g := g) code tin h
  unfold State.gatherZero
  refine ⟨fun b hb => ?_, fun hc => ?_, fun b hb hc => ?_⟩
  · rw [State.gatherWrite_reads, if_neg (by omega),
      readByte_writeBytes_within _ _ _ _ (by rw [packElems_token code _ List.length_replicate]; exact hb)]
    exact packElems_token_zeros code b hb
  · exact (State.gatherWrite_reads ..).trans (if_pos ⟨hc, rfl⟩)
  · refine s.gatherWrite_stands q g code tin _ _ List.length_replicate fun hp => ?_
    rcases hp with ⟨h1, h2⟩ | ⟨h1, h2⟩
    · omega
    · exact hc.elim (fun hf => Bool.false_ne_true (hf.symm.trans h1)) fun hn => hn h2

/-! ### The obligation -/

/-- A fetch of a column that is issued: it takes the column's next sequence number, and waits. -/
theorem fetchIssue_column {s : State} {p n j k step i o : Nat} {pr r : BitVec 512} (hp : p < 8) (hm : (s.part p).marks = true)
    (hk : fetchKnown s p n j k step i o = some (pr, r)) (hg : planGather pr = false)
    (hn : ({ part := p, number := n, j := j, k := k, step := step, inner := i, outer := o } : IssuedFetch) ∉ (s.quay (recPrimary r)).issued)
    (hf : issuesFirst s p n j k (issueTime s p n pr r j k step i o) = false) :
    let q := recPrimary r
    let at' := issueTime s p n pr r j k step i o
    let seqKey := p * 256 + (planFirstCol pr + j)
    let seq := tget 0 (s.quay q).seqs seqKey
    let u := s.noteIssue q (recId r) at' { part := p, number := n, j := j, k := k, step := step, inner := i, outer := o }
    exec (.fetchIssue p n j k step i o) s
      = .next ((u.setQuay q { u.quay q with seqs := tput 0 (u.quay q).seqs seqKey ((seq + 1) % 65536) }).joinEntry q (recId r)
          (planTile pr j k) (versionNow s p r step (planLag pr)) (fetchWaiter s p pr j k step o i seq at' 0)) := by
  intro q at' seqKey seq u
  refine (if_pos hp).trans (congrArg Host.Outcome.next ?_)
  rw [hk]
  dsimp only
  rw [if_neg (by rw [hm, decide_eq_false hn, hf]; exact Bool.false_ne_true), hg, if_neg Bool.false_ne_true]
  unfold fetchWaiter
  dsimp only
  rw [hg]
  rfl

/-- A gather's fetch that is issued: its token list is measured, and its tile is fetched or its slice zeroed. -/
theorem fetchIssue_gather {s : State} {p n j k step i o : Nat} {pr r : BitVec 512} (hp : p < 8) (hm : (s.part p).marks = true)
    (hk : fetchKnown s p n j k step i o = some (pr, r)) (hg : planGather pr = true)
    (hn : ({ part := p, number := n, j := j, k := k, step := step, inner := i, outer := o } : IssuedFetch) ∉ (s.quay (recPrimary r)).issued)
    (hf : issuesFirst s p n j k (issueTime s p n pr r j k step i o) = false) :
    let q := recPrimary r
    let at' := issueTime s p n pr r j k step i o
    let seq := tget 0 (s.quay q).seqs (p * 256 + (planFirstCol pr + j))
    let token := gatherToken s q pr j
    let g : GatherTag := { record := pr, position := j, slice := k, token := token }
    let u := (s.noteIssue q (recId r) at' { part := p, number := n, j := j, k := k, step := step, inner := i, outer := o }).measureSegments
      q p n ((s.part p).n0 + step) o pr
    ∃ w : Waiter, w.part = p ∧ w.gather = some g ∧ w = fetchWaiter s p pr j k step o i seq at' token
      ∧ exec (.fetchIssue p n j k step i o) s = .next (u.gatherFetch q r g (versionNow s p r step (planLag pr)) w).bump := by
  intro q at' seq token g u
  refine ⟨fetchWaiter s p pr j k step o i seq at' token, rfl, ?_, rfl, ?_⟩
  · unfold fetchWaiter
    dsimp only
    rw [hg]
    rfl
  refine (if_pos hp).trans (congrArg Host.Outcome.next ?_)
  rw [hk]
  dsimp only
  rw [if_neg (by rw [hm, decide_eq_false hn, hf]; exact Bool.false_ne_true), hg, if_pos rfl]
  unfold fetchWaiter
  dsimp only
  rw [hg]
  rfl

theorem Quay.noteGather_keeps (qu : Quay) (tid o : Nat) : (qu.noteGather tid o).issued = qu.issued
    ∧ (qu.noteGather tid o).entries = qu.entries ∧ (qu.noteGather tid o).damaged = qu.damaged := by
  unfold Quay.noteGather
  exact ⟨rfl, rfl, rfl⟩

/-- What an issue and what it leads to leave. -/
structure FetchFrame (s t : State) (q tid : Nat) : Prop where
  retires : OnlyRetires s t q tid
  frame : t = { s with now := t.now, rtc := t.rtc, quays := t.quays, ctl := t.ctl, dram := t.dram, quayMarks := t.quayMarks
                       tensors := t.tensors, log := t.log, hosts := t.hosts, sivar := t.sivar, freeCtr := t.freeCtr }

theorem FetchFrame.of_frame {s t : State} {q tid n c : Nat} {rtc : Rtc} {qs : Tbl Quay} {d : List Host.Cell} {m : Tbl (Option Mark)}
    (h : OnlyRetires s t q tid) (hf : t = { s with now := n, rtc := rtc, quays := qs, dram := d, quayMarks := m, freeCtr := c }) :
    FetchFrame s t q tid :=
  ⟨h, by rw [hf]⟩

/-- A waiter that joins an entry after its issue. -/
theorem Issued.joins {s u t : State} {q at' tid tile version : Nat} {key : IssuedFetch} {w : Waiter} (h : Issued s u q at' key)
    (hj : Joins u t q tid tile version w) : t.now = max s.now at' ∧ key ∈ (t.quay q).issued ∧ FetchFrame s t q tid := by
  refine ⟨((congrArg State.now hj.frame :) : t.now = u.now).trans h.now, by rw [hj.issued]; exact h.issued,
    hj.retires.of_start h.tensors h.others, ?_⟩
  have hn : t.now = u.now := (congrArg State.now hj.frame :)
  have hr : t.rtc = u.rtc := (congrArg State.rtc hj.frame :)
  rw [hn, hr]
  exact hj.frame.trans ((congrArg (fun y : State => { y with quays := t.quays, ctl := t.ctl, dram := t.dram, quayMarks := t.quayMarks
                                                             tensors := t.tensors, log := t.log, hosts := t.hosts, sivar := t.sivar
                                                             freeCtr := t.freeCtr }) h.frame :) : _ = _)

theorem FetchFrame.bump {s t : State} {q tid : Nat} (h : FetchFrame s t q tid) : FetchFrame s t.bump q tid :=
  ⟨h.retires.of_end rfl (fun _ _ => rfl) fun _ hn => hn,
    (congrArg (fun y : State => { y with freeCtr := t.freeCtr + 1 }) h.frame :)⟩

theorem fetchIssue_of_column {s : State} {p n j k step i o : Nat} {pr r : BitVec 512} (hp : p < 8) (hm : (s.part p).marks = true)
    (hk : fetchKnown s p n j k step i o = some (pr, r)) (hg : planGather pr = false)
    (hn : ({ part := p, number := n, j := j, k := k, step := step, inner := i, outer := o } : IssuedFetch) ∉ (s.quay (recPrimary r)).issued)
    (hf : issuesFirst s p n j k (issueTime s p n pr r j k step i o) = false) :
    let q := recPrimary r
    let at' := issueTime s p n pr r j k step i o
    let w0 := fetchWaiter s p pr j k step o i 0 0 0
    let seqKey := p * 256 + (planFirstCol pr + j)
    let key : IssuedFetch := { part := p, number := n, j := j, k := k, step := step, inner := i, outer := o }
    ∃ t, exec (.fetchIssue p n j k step i o) s = .next t ∧ t.now = max s.now at' ∧ key ∈ (t.quay q).issued ∧ FetchFrame s t q (recId r)
      ∧ (∃ e ∈ (t.quay q).entries, e.tid = recId r ∧ e.tile = planTile pr j k ∧ e.version = versionNow s p r step (planLag pr)
          ∧ ∃ w ∈ e.waiters, w.part = p ∧ w.col = planFirstCol pr + j ∧ w.seq = tget 0 (s.quay q).seqs seqKey
            ∧ w.deadline = w0.deadline ∧ w.tag = planTag pr ∧ w.issued = at' ∧ w.gather = none)
      ∧ tget 0 (t.quay q).seqs seqKey = (tget 0 (s.quay q).seqs seqKey + 1) % 65536 ∧ t.dram = s.dram := by
  intro q at' w0 seqKey key
  have he : exec (.fetchIssue p n j k step i o) s = .next (((s.noteIssue q (recId r) at' key).setQuay q
      { (s.noteIssue q (recId r) at' key).quay q with
        seqs := tput 0 ((s.noteIssue q (recId r) at' key).quay q).seqs seqKey ((tget 0 (s.quay q).seqs seqKey + 1) % 65536) }).joinEntry
      q (recId r) (planTile pr j k) (versionNow s p r step (planLag pr))
      (fetchWaiter s p pr j k step o i (tget 0 (s.quay q).seqs seqKey) at' 0)) := fetchIssue_column hp hm hk hg hn hf
  obtain ⟨seq, hseq⟩ : ∃ seq, tget 0 (s.quay q).seqs seqKey = seq := ⟨_, rfl⟩
  obtain ⟨w, hw⟩ : ∃ w, fetchWaiter s p pr j k step o i seq at' 0 = w := ⟨_, rfl⟩
  have hwf : w.part = p ∧ w.col = planFirstCol pr + j ∧ w.seq = seq ∧ w.deadline = w0.deadline ∧ w.tag = planTag pr ∧ w.issued = at'
      ∧ w.gather = none := by
    rw [← hw]
    unfold w0 fetchWaiter
    dsimp only
    rw [hg]
    exact ⟨rfl, rfl, rfl, rfl, rfl, rfl, rfl⟩
  have hi := s.noteIssue_issued q (recId r) at' key
  have hseqs : ((s.noteIssue q (recId r) at' key).quay q).seqs = (s.quay q).seqs := by
    rw [State.noteIssue, State.setQuay_quay_same]
    rfl
  rw [hseq] at he ⊢
  rw [hw, hseqs] at he
  generalize s.noteIssue q (recId r) at' key = u at he hi hseqs
  obtain ⟨m, hmod⟩ : ∃ m, (seq + 1) % 65536 = m := ⟨_, rfl⟩
  rw [hmod] at he ⊢
  have hv := hi.setQuay (v := { u.quay q with seqs := tput 0 (s.quay q).seqs seqKey m }) rfl rfl rfl
  have hvs : ((u.setQuay q { u.quay q with seqs := tput 0 (s.quay q).seqs seqKey m }).quay q).seqs = tput 0 (s.quay q).seqs seqKey m := by
    rw [State.setQuay_quay_same]
  generalize u.setQuay q { u.quay q with seqs := tput 0 (s.quay q).seqs seqKey m } = v at he hv hvs
  have hj := v.joinEntry_joins q (recId r) (planTile pr j k) (versionNow s p r step (planLag pr)) w
  generalize v.joinEntry q (recId r) (planTile pr j k) (versionNow s p r step (planLag pr)) w = t at he hj
  obtain ⟨h1, h2, h3⟩ := hv.joins hj
  obtain ⟨f, hfm, hf1, hf2, hf3, hfw⟩ := hj.joined (.inl hwf.2.2.2.2.2.2)
  refine ⟨t, he, h1, h2, h3, ⟨f, hfm, hf1, hf2, hf3, w, hfw, hwf⟩, ?_, ?_⟩
  · rw [hj.seqs, hvs]
    exact tget_tput_same ..
  · exact (hj.dram hwf.2.2.2.2.2.2).trans (congrArg State.dram hv.frame :)

theorem fetchIssue_of_gather {s : State} {p n j k step i o : Nat} {pr r : BitVec 512} (hp : p < 8) (hm : (s.part p).marks = true)
    (hk : fetchKnown s p n j k step i o = some (pr, r)) (hg : planGather pr = true)
    (hn : ({ part := p, number := n, j := j, k := k, step := step, inner := i, outer := o } : IssuedFetch) ∉ (s.quay (recPrimary r)).issued)
    (hf : issuesFirst s p n j k (issueTime s p n pr r j k step i o) = false) :
    let q := recPrimary r
    let at' := issueTime s p n pr r j k step i o
    let version := versionNow s p r step (planLag pr)
    let token := gatherToken s q pr j
    let key : IssuedFetch := { part := p, number := n, j := j, k := k, step := step, inner := i, outer := o }
    let g : GatherTag := { record := pr, position := j, slice := k, token := token }
    ∃ t, exec (.fetchIssue p n j k step i o) s = .next t ∧ t.now = max s.now at' ∧ key ∈ (t.quay q).issued ∧ FetchFrame s t q (recId r)
      ∧ (tokenReads r token = true → (s.quay q).damaged = [] → (s.tensor (recId r)).retired version = false →
          ∃ e ∈ (t.quay q).entries, e.tid = recId r ∧ e.tile = token / 32 * recTin r + k ∧ e.version = version
            ∧ ∃ w ∈ e.waiters, w.part = p ∧ w.gather = some g)
      ∧ (tokenReads r token = false →
          let a := gatherElems q g (recStream r) (recTin r)
          let sc := gatherScale q g (recStream r) (recTin r)
          (t.quay q).entries = (s.quay q).entries
          ∧ (t.quay q).badTokens = (s.quay q).badTokens + (if token ≠ 0xFFFFFFFF ∧ k = 0 then 1 else 0)
          ∧ (∀ b, b < codeBytes (recStream r) → readByte t.dram (a + b) = some 0)
          ∧ (codeMx (recStream r) = true → readByte t.dram sc = some 127)
          ∧ (∀ b, (b < a ∨ a + codeBytes (recStream r) ≤ b) → (codeMx (recStream r) = false ∨ b ≠ sc) →
              readByte t.dram b = readByte s.dram b)) := by
  intro q at' version token key g
  obtain ⟨w, hwp, hwg, -, he⟩ := fetchIssue_gather hp hm hk hg hn hf
  have hpos : 0 < gatherT g.record := fetchKnown_gather hk hg
  have hi0 := s.noteIssue_issued q (recId r) at' key
  have hbad0 : ((s.noteIssue q (recId r) at' key).quay q).badTokens = (s.quay q).badTokens := by
    rw [State.noteIssue, State.setQuay_quay_same]
    rfl
  obtain ⟨hi, hbad⟩ := hi0.measureSegments p n ((s.part p).n0 + step) o pr
  rw [hbad0] at hbad
  generalize (s.noteIssue q (recId r) at' key).measureSegments q p n ((s.part p).n0 + step) o pr = u at he hi hbad
  cases hread : tokenReads r token
  · have e : u.gatherFetch q r g version w = (u.setQuay q { u.quay q with badTokens := (u.quay q).badTokens
        + (if decide (token ≠ 0xFFFFFFFF) && decide (k = 0) then 1 else 0) }).gatherZero q g (recStream r) (recTin r) :=
      if_neg (by rw [hread]; exact Bool.false_ne_true)
    rw [e] at he
    obtain ⟨m, hmb⟩ : ∃ m, (u.quay q).badTokens + (if decide (token ≠ 0xFFFFFFFF) && decide (k = 0) then 1 else 0) = m := ⟨_, rfl⟩
    have hm' : m = (s.quay q).badTokens + (if token ≠ 0xFFFFFFFF ∧ k = 0 then 1 else 0) := by
      rw [← hmb, hbad]
      simp only [Bool.and_eq_true, decide_eq_true_eq]
    rw [hmb] at he
    rw [← hm']
    have hv := hi.setQuay (v := { u.quay q with badTokens := m }) rfl rfl rfl
    have hvb : ((u.setQuay q { u.quay q with badTokens := m }).quay q).badTokens = m := by rw [State.setQuay_quay_same]
    generalize u.setQuay q { u.quay q with badTokens := m } = v at he hv hvb
    obtain ⟨h1, h2, h3⟩ := v.gatherZero_reads q g (recStream r) (recTin r) hpos
    have hzf : v.gatherZero q g (recStream r) (recTin r) = { v with
        dram := (v.gatherZero q g (recStream r) (recTin r)).dram, quayMarks := (v.gatherZero q g (recStream r) (recTin r)).quayMarks } := rfl
    generalize v.gatherZero q g (recStream r) (recTin r) = z at he h1 h2 h3 hzf
    have hvd : v.dram = s.dram := (congrArg State.dram hv.frame :)
    have hzq : ∀ x, z.bump.quay x = v.quay x := fun x => (congrArg (fun y : State => y.quay x) hzf :)
    have hzn : z.bump.now = v.now := (congrArg State.now hzf :)
    refine ⟨z.bump, he, hzn.trans hv.now, by rw [hzq]; exact hv.issued, .of_frame ?_
        (((congrArg (fun y : State => { y with freeCtr := z.freeCtr + 1 }) hzf :) : z.bump = _).trans
          (congrArg (fun y : State => { y with dram := z.dram, quayMarks := z.quayMarks, freeCtr := z.freeCtr + 1 }) hv.frame :)), fun h => absurd h Bool.false_ne_true,
      fun _ => ⟨by rw [hzq]; exact hv.entries, by rw [hzq]; exact hvb, h1, h2, fun b hb hc => (h3 b hb hc).trans (by rw [hvd])⟩⟩
    exact (OnlyRetires.refl z.bump q (recId r)).of_start (((congrArg State.tensors hzf :) : z.bump.tensors = v.tensors).trans hv.tensors)
      fun x hx => (hzq x).trans (hv.others x hx)
  · have e : u.gatherFetch q r g version w
        = (u.setQuay q ((u.quay q).noteGather (recId r) (token / 32))).joinEntry q (recId r) (token / 32 * recTin r + k) version w := if_pos hread
    rw [e] at he
    obtain ⟨hg1, hg2, hg3⟩ := (u.quay q).noteGather_keeps (recId r) (token / 32)
    have hv := hi.setQuay hg1 hg2 hg3
    generalize u.setQuay q ((u.quay q).noteGather (recId r) (token / 32)) = v at he hv
    have hj := v.joinEntry_joins q (recId r) (token / 32 * recTin r + k) version w
    generalize v.joinEntry q (recId r) (token / 32 * recTin r + k) version w = z at he hj
    obtain ⟨h1, h2, h3⟩ := hv.joins hj
    refine ⟨z.bump, he, h1, h2, h3.bump, fun _ hd hr => ?_, fun h => absurd h.symm Bool.false_ne_true⟩
    have htens : v.tensor (recId r) = s.tensor (recId r) := congrArg (fun m => tget ({} : Tensor) m (recId r)) hv.tensors
    obtain ⟨f, hfm, hf1, hf2, hf3, hfw⟩ := hj.joined (.inr ⟨hv.damaged.trans hd, by rw [htens]; exact hr⟩)
    exact ⟨f, hfm, hf1, hf2, hf3, w, hfw, hwp, hwg⟩

/-- Settles O23: a fetch of a column or of a gather is noted as issued and joins an entry or zeroes its slice. -/
theorem fetchesIssueAndJoinEntries : Obligations.FetchesIssueAndJoinEntries := by
  unfold Obligations.FetchesIssueAndJoinEntries
  intro s p n j k step i o pr r hp hm hk q at' w0 seqKey version token key g hn hf
  cases hg : planGather pr
  · obtain ⟨t, he, h1, h2, ⟨h3, h4⟩, h5, h6, h7⟩ := fetchIssue_of_column hp hm hk hg hn hf
    exact ⟨t, he, h1, rfl, h2, fun _ => ⟨h5, h6, h7⟩, fun h => absurd h Bool.false_ne_true, fun h => absurd h Bool.false_ne_true, h3, h4⟩
  · obtain ⟨t, he, h1, h2, ⟨h3, h4⟩, h5, h6⟩ := fetchIssue_of_gather hp hm hk hg hn hf
    exact ⟨t, he, h1, rfl, h2, fun h => absurd h.symm Bool.false_ne_true, fun _ => h5, fun _ => h6, h3, h4⟩

end Sys2Proof.Machine
end

section
/-! SUPPORT. What becomes of an entry: its data, its decision point, and its recovery (R204-R208). -/

namespace Sys2Proof.Machine

/-! ### An outcome seen from before what leads to it -/

/-- A state that differs from another at a quay's counts and leads, and in one entry whose outcome is still open. -/
structure Near (s u : State) (q i : Nat) (e1 : FetchEntry) : Prop where
  entries : (u.quay q).entries = (s.quay q).entries.set i e1
  before : ∃ e, (s.quay q).entries[i]? = some e ∧ e.outcome = none
  outcome : e1.outcome = none
  outgoing : (u.quay q).outgoing = (s.quay q).outgoing
  excluded : (u.quay q).excluded = (s.quay q).excluded
  others : ∀ j, j ≠ q → u.quay j = s.quay j
  tensors : u.tensors = s.tensors
  dram : u.dram = s.dram
  ctl : u.ctl = s.ctl
  freeCtr : u.freeCtr = s.freeCtr

theorem Near.refl {s : State} {q i : Nat} {e : FetchEntry} (h : (s.quay q).entries[i]? = some e) (he : e.outcome = none) : Near s s q i e := by
  refine ⟨?_, ⟨e, h, he⟩, he, rfl, rfl, fun _ _ => rfl, rfl, rfl, rfl, rfl⟩
  obtain ⟨hlt, hg⟩ := List.getElem?_eq_some_iff.mp h
  rw [← hg, List.set_getElem_self]

/-- Counts and leads of the quay. -/
theorem Near.setQuay {s u : State} {q i : Nat} {e1 : FetchEntry} (h : Near s u q i e1) {v : Quay} (he : v.entries = (u.quay q).entries)
    (ho : v.outgoing = (u.quay q).outgoing) (hx : v.excluded = (u.quay q).excluded) : Near s (u.setQuay q v) q i e1 := by
  have hq := u.setQuay_quay_same q v
  exact ⟨by rw [hq, he]; exact h.entries, h.before, h.outcome, by rw [hq, ho]; exact h.outgoing, by rw [hq, hx]; exact h.excluded,
    fun j hj => (u.setQuay_quay_ne q v j hj).trans (h.others j hj), h.tensors, h.dram, h.ctl, h.freeCtr⟩

/-- What an outcome does not turn on. -/
theorem Near.of_same {s u v : State} {q i : Nat} {e1 : FetchEntry} (h : Near s u q i e1) (hq : v.quays = u.quays) (ht : v.tensors = u.tensors)
    (hd : v.dram = u.dram) (hc : v.ctl = u.ctl) (hf : v.freeCtr = u.freeCtr) : Near s v q i e1 := by
  have hquay : ∀ j, v.quay j = u.quay j := fun j => congrArg (fun m => tget ({} : Quay) m j) hq
  exact ⟨by rw [hquay]; exact h.entries, h.before, h.outcome, by rw [hquay]; exact h.outgoing, by rw [hquay]; exact h.excluded,
    fun j hj => (hquay j).trans (h.others j hj), ht.trans h.tensors, hd.trans h.dram, hc.trans h.ctl, hf.trans h.freeCtr⟩

theorem Near.get {s u : State} {q i : Nat} {e1 : FetchEntry} (h : Near s u q i e1) : (u.quay q).entries[i]? = some e1 := by
  obtain ⟨e, he, -⟩ := h.before
  rw [h.entries, List.getElem?_set_self (List.getElem?_eq_some_iff.mp he).1]

theorem getElem?_of_plain {l m : List FetchEntry} (h : l.map FetchEntry.plain = m.map FetchEntry.plain) {i : Nat} {f : FetchEntry}
    (hf : m[i]? = some f) : ∃ g, l[i]? = some g ∧ g.plain = f.plain := by
  have hm : (l.map FetchEntry.plain)[i]? = some f.plain := by rw [h, List.getElem?_map, hf]; rfl
  rw [List.getElem?_map] at hm
  obtain ⟨g, hg, hp⟩ := Option.map_eq_some_iff.mp hm
  exact ⟨g, hg, hp⟩

/-- The read that waiters may join is found among the entries whose outcome is fixed. -/
theorem Near.sameRead {s u : State} {q i : Nat} {e1 : FetchEntry} (h : Near s u q i e1) (o : Outcome) :
    (u.quay q).sameRead e1 o = (s.quay q).sameRead e1 o := by
  obtain ⟨e, he, hno⟩ := h.before
  unfold Quay.sameRead
  rw [h.entries]
  generalize hp : (fun f : FetchEntry => f.tid == e1.tid && f.tile == e1.tile && f.version == e1.version && f.outcome == some o && !f.ready
    && !f.waiters.isEmpty) = p
  have hopen : ∀ f : FetchEntry, f.outcome = none → p f = false := fun f hf => by
    rw [← hp]
    simp [hf]
  have hmap : ∀ l : List FetchEntry, l.findIdx? p = (l.map p).findIdx? id := fun l => by
    rw [List.findIdx?_map]
    rfl
  obtain ⟨hlt, hg⟩ := List.getElem?_eq_some_iff.mp he
  rw [hmap, hmap, List.map_set, hopen e1 h.outcome, ← hopen e hno, ← hg]
  have : p (s.quay q).entries[i] = ((s.quay q).entries.map p)[i]'(by rw [List.length_map]; exact hlt) := (List.getElem_map _).symm
  rw [this, List.set_getElem_self]

theorem Near.outcomeTile {s u : State} {q i : Nat} {e1 : FetchEntry} (h : Near s u q i e1) (e : FetchEntry) (r : BitVec 512) (o : Outcome) :
    outcomeTile u e r o = Machine.outcomeTile s e r o := by
  have ht : u.tensor e.tid = s.tensor e.tid := congrArg (fun m => tget ({} : Tensor) m e.tid) h.tensors
  unfold Machine.outcomeTile
  rw [ht, h.freeCtr]

theorem Near.recOf {s u : State} {q i : Nat} {e1 : FetchEntry} (h : Near s u q i e1) (k : Nat) : u.recOf k = s.recOf k :=
  congrArg (fun m => (tfind m k).map (fun t : Tensor => t.record)) h.tensors

/-- The outcome of an entry, once fixed, as a state before what led to it sees it. -/
theorem Near.outcomeFixed {s u t : State} {q i : Nat} {e1 : FetchEntry} {r : BitVec 512} {o : Outcome} {miss : Bool} (h : Near s u q i e1)
    (hr : s.recOf e1.tid = some r) (hf : Fixes u t q i e1 o miss) : OutcomeFixed s t q i e1 r o := by
  have hru : u.recOf e1.tid = some r := (h.recOf _).trans hr
  have hlt : i < (s.quay q).entries.length := by
    obtain ⟨e, he, -⟩ := h.before
    exact (List.getElem?_eq_some_iff.mp he).1
  have hlu : i < (u.quay q).entries.length := (List.getElem?_eq_some_iff.mp h.get).1
  have hlen : (t.quay q).entries.length = (fixedEntries u q i e1 o miss).length := by
    simpa using congrArg List.length hf.entries
  have hnow : t.now = u.now := (congrArg State.now hf.frame :)
  refine ⟨fun hs => ⟨?_, fun hk => ?_, fun hk => ?_⟩, fun hs => ⟨?_, ?_, fun hn => ?_, fun n f hn hfn => ?_⟩, fun ho => hf.skip ho,
    fun ho => ⟨(hf.kept ho).1.trans h.ctl, (hf.kept ho).2.trans h.excluded⟩, fun x hx => (hf.stands r hru x hx).trans (by rw [h.dram]),
    hf.retires.of_start h.tensors h.others⟩
  · rw [hf.outgoing, h.outgoing]
    unfold fixedPackets
    rw [hru]
    refine congrArg ((s.quay q).outgoing ++ ·) ((if_neg (by rw [hs]; exact Bool.false_ne_true)).trans ?_)
    rw [h.outcomeTile]
    rfl
  · obtain ⟨w, hw⟩ := List.exists_mem_of_ne_nil _ hk
    have hin : (fixedEntries u q i e1 o miss)[i]? = some (e1.fixed u.now o miss).delivered := by
      unfold fixedEntries
      dsimp only
      rw [if_neg (by rw [hs]; exact Bool.false_ne_true), if_pos (by rw [hru]; rfl), deliveredEntries,
        if_neg (by rw [FetchEntry.spent_of_mem (w := w) hw]; exact Bool.false_ne_true),
        List.getElem?_set_self (by rw [List.length_set]; exact hlu)]
    obtain ⟨g, hg, hp⟩ := getElem?_of_plain hf.entries hin
    exact ⟨g, hg, (congrArg FetchEntry.outcome hp :), (congrArg FetchEntry.ready hp :), (congrArg FetchEntry.waiters hp :)⟩
  · have hin : fixedEntries u q i e1 o miss = deliveredEntries ((u.quay q).entries.set i (e1.fixed u.now o miss)) i (e1.fixed u.now o miss) := by
      unfold fixedEntries
      dsimp only
      rw [if_neg (by rw [hs]; exact Bool.false_ne_true), if_pos (by rw [hru]; rfl)]
    by_cases hsp : (e1.fixed u.now o miss).delivered.spent = true
    · refine .inl ?_
      rw [hlen, hin, deliveredEntries, if_pos hsp, List.length_eraseIdx_of_lt (by rw [List.length_set]; exact hlu), List.length_set, h.entries,
        List.length_set]
      omega
    · have hget : (fixedEntries u q i e1 o miss)[i]? = some (e1.fixed u.now o miss).delivered := by
        rw [hin, deliveredEntries, if_neg hsp, List.getElem?_set_self (by rw [List.length_set]; exact hlu)]
      obtain ⟨g, hg, hp⟩ := getElem?_of_plain hf.entries hget
      exact .inr ⟨g, hg, (congrArg FetchEntry.outcome hp :), ((congrArg FetchEntry.waiters hp :) : g.waiters = e1.columns).trans hk⟩
  · rw [hf.outgoing, h.outgoing]
    unfold fixedPackets
    rw [hru]
    exact (congrArg ((s.quay q).outgoing ++ ·) (if_pos hs)).trans (List.append_nil _)
  · exact (hf.same (.inl hs)).trans h.dram
  · have hin : (fixedEntries u q i e1 o miss)[i]? = some (e1.fixed u.now o miss) := by
      unfold fixedEntries
      dsimp only
      rw [if_pos hs, h.sameRead, hn]
      exact List.getElem?_set_self hlu
    obtain ⟨g, hg, hp⟩ := getElem?_of_plain hf.entries hin
    exact ⟨g, hg, (congrArg FetchEntry.outcome hp :), (congrArg FetchEntry.ready hp :), (congrArg FetchEntry.waiters hp :),
      ((congrArg FetchEntry.since hp :) : g.since = u.now).trans hnow.symm⟩
  · obtain ⟨e, he, hno⟩ := h.before
    have hnu : (u.quay q).sameRead e1 o = some n := (h.sameRead o).trans hn
    obtain ⟨hne, f', hfu, -, -, -, hfo⟩ := sameRead_other h.get h.outcome hnu
    have hff : f' = f := by
      rw [h.entries, List.getElem?_set_ne hne.symm, hfn] at hfu
      exact (Option.some.inj hfu).symm
    subst hff
    have hin : { f' with waiters := f'.waiters ++ e1.waiters } ∈ fixedEntries u q i e1 o miss := by
      unfold fixedEntries
      dsimp only
      rw [if_pos hs, hnu]
      exact mem_joinedEntries hne hfu
    obtain ⟨g, hg, hp⟩ := mem_of_plain hf.entries hin
    exact ⟨g, hg, ((congrArg FetchEntry.outcome hp :) : g.outcome = f'.outcome).trans hfo, (congrArg FetchEntry.waiters hp :)⟩

/-! ### What a fetch entry's end leaves alone -/

/-- The state without what an entry's end may change: quays, control, DRAM, tensors, log and hosts, the clock, and packets that ask a replica. -/
def State.aroundEntry (s : State) : State := { s with
  quays := [], ctl := [], dram := [], quayMarks := [], tensors := [], log := {}, hosts := [], sivar := {}, freeCtr := 0, now := 0, rtc := {}
  fabric := {}, ledger := { s.ledger with rejectsReceived := 0 } }

theorem State.of_aroundEntry {s t : State} (h : t.aroundEntry = s.aroundEntry) :
    t = { s with quays := t.quays, ctl := t.ctl, dram := t.dram, quayMarks := t.quayMarks, tensors := t.tensors, log := t.log
                 hosts := t.hosts, sivar := t.sivar, freeCtr := t.freeCtr, now := t.now, rtc := t.rtc, fabric := t.fabric
                 ledger := { s.ledger with rejectsReceived := t.ledger.rejectsReceived } } :=
  (congrArg (fun y : State => { y with
    quays := t.quays, ctl := t.ctl, dram := t.dram, quayMarks := t.quayMarks, tensors := t.tensors, log := t.log
    hosts := t.hosts, sivar := t.sivar, freeCtr := t.freeCtr, now := t.now, rtc := t.rtc, fabric := t.fabric
    ledger := { y.ledger with rejectsReceived := t.ledger.rejectsReceived } }) h :)

/-- The end of an entry, at the same time, with no packet asked for. -/
structure EntryEnds (s t : State) : Prop where
  now : t.now = s.now
  fabric : t.fabric = s.fabric
  ledger : t.ledger = s.ledger
  around : t.aroundEntry = s.aroundEntry

namespace EntryEnds

variable {s t u : State}

theorem refl (s : State) : EntryEnds s s := ⟨rfl, rfl, rfl, rfl⟩

theorem trans (a : EntryEnds s t) (b : EntryEnds t u) : EntryEnds s u :=
  ⟨b.now.trans a.now, b.fabric.trans a.fabric, b.ledger.trans a.ledger, b.around.trans a.around⟩

theorem setQuay (s : State) (q : Nat) (v : Quay) : EntryEnds s (s.setQuay q v) := ⟨rfl, rfl, rfl, rfl⟩

theorem event (s : State) (a b c d : Nat) : EntryEnds s (s.event a b c d) := by
  have hf := s.event_frame a b c d
  generalize s.event a b c d = t at hf
  exact ⟨(congrArg State.now hf :), (congrArg State.fabric hf :), (congrArg State.ledger hf :), (congrArg State.aroundEntry hf :)⟩

theorem of_fixes {q i : Nat} {e : FetchEntry} {o : Outcome} {miss : Bool} (h : Fixes s t q i e o miss) : EntryEnds s t :=
  ⟨(congrArg State.now h.frame :), (congrArg State.fabric h.frame :), (congrArg State.ledger h.frame :), (congrArg State.aroundEntry h.frame :)⟩

theorem of_settled {q tid : Nat} (h : Settled s t q tid) : EntryEnds s t :=
  ⟨(congrArg State.now h.frame :), (congrArg State.fabric h.frame :), (congrArg State.ledger h.frame :), (congrArg State.aroundEntry h.frame :)⟩

end EntryEnds

/-! ### The outcome stands when counts follow -/

theorem OutcomeFixed.setQuay {s t : State} {q i : Nat} {e : FetchEntry} {r : BitVec 512} {o : Outcome} (h : OutcomeFixed s t q i e r o)
    {v : Quay} (he : v.entries = (t.quay q).entries) (ho : v.outgoing = (t.quay q).outgoing) (hx : v.excluded = (t.quay q).excluded) :
    OutcomeFixed s (t.setQuay q v) q i e r o := by
  obtain ⟨h1, h2, h3, h4, h5, h6⟩ := h
  have hq := t.setQuay_quay_same q v
  have hq' : ∀ w : Quay, v = w → (t.setQuay q v).quay q = w := fun w hw => hq.trans hw
  refine ⟨?_, ?_, ?_, ?_, h5, h6.setQuay he⟩
  · rw [hq, he, ho]
    exact h1
  · rw [hq, he, ho]
    exact h2
  · rw [hq, hx]
    exact h3
  · rw [hq, hx]
    exact h4

theorem OutcomeFixed.event {s t : State} {q i : Nat} {e : FetchEntry} {r : BitVec 512} {o : Outcome} (h : OutcomeFixed s t q i e r o)
    (a b c d : Nat) : OutcomeFixed s (t.event a b c d) q i e r o := by
  obtain ⟨h1, h2, h3, h4, h5, h6⟩ := h
  have hf := t.event_frame a b c d
  generalize t.event a b c d = u at hf
  have hq : ∀ j, u.quay j = t.quay j := fun j => (congrArg (fun y : State => y.quay j) hf :)
  have hd : u.dram = t.dram := (congrArg State.dram hf :)
  have hc : u.ctl = t.ctl := (congrArg State.ctl hf :)
  have hn : u.now = t.now := (congrArg State.now hf :)
  refine ⟨?_, ?_, ?_, ?_, ?_, h6.of_end (congrArg State.tensors hf :) (fun j _ => hq j) fun n hv => ?_⟩
  · rw [hq]; exact h1
  · rw [hq, hd, hn]; exact h2
  · rw [hq]; exact h3
  · rw [hq, hc]; exact h4
  · rw [hd]; exact h5
  · rw [← hv]
    exact (congrArg (fun y : State => versionNamed y e.tid n) hf :).symm

/-- A tally is a matter of the leads. -/
theorem Quay.tally_frame (qu : Quay) (parts : List Nat) (tid tier fetches misses : Nat) (late : Bool) :
    qu.tally parts tid tier fetches misses late = { qu with leads := (qu.tally parts tid tier fetches misses late).leads } := rfl

theorem Near.tally {s u : State} {q i : Nat} {e1 : FetchEntry} (h : Near s u q i e1) (parts : List Nat) (tid tier fetches misses : Nat)
    (late : Bool) : Near s (u.setQuay q ((u.quay q).tally parts tid tier fetches misses late)) q i e1 :=
  h.setQuay rfl rfl rfl

/-- What is damaged of versions that do not retire stays so. -/
structure DamageStays (s u t : State) (q tid : Nat) : Prop where
  stays : ∀ d ∈ (u.quay q).damaged, d.1 ≠ tid ∨ d.2.2.1 ∉ (s.tensor tid).retiring → d ∈ (t.quay q).damaged

/-! ### Misses, data, and unreadable entries -/

theorem Near.data {s u : State} {q i : Nat} {e1 : FetchEntry} {r : BitVec 512} (h : Near s u q i e1) (hr : s.recOf e1.tid = some r) (e : FetchEntry) :
    OutcomeFixed s (u.dataEntry q i e) q i e1 r .data ∧ EntryEnds u (u.dataEntry q i e) := by
  unfold State.dataEntry
  have hn := h.tally e.parts e.tid (entryTier u q e) 1 0 false
  have hs := EntryEnds.setQuay u q ((u.quay q).tally e.parts e.tid (entryTier u q e) 1 0 false)
  generalize u.setQuay q ((u.quay q).tally e.parts e.tid (entryTier u q e) 1 0 false) = v at hn hs
  have hf := State.fixOutcome_fixes .data false hn.get
  exact ⟨hn.outcomeFixed hr hf, hs.trans (.of_fixes hf)⟩

/-- The cheaper path, taken once. -/
theorem Near.path {s u : State} {q i : Nat} {e1 e : FetchEntry} {r : BitVec 512} (h : Near s u q i e1) (hr : s.recOf e1.tid = some r)
    (ht : e.tid = e1.tid) (hv : e.version = e1.version) (misses : Nat) (miss : Bool) :
    let t := (u.setQuay q ((u.quay q).tally e.parts e.tid (entryTier u q e) 1 misses false)).fixOutcome q i (cheaperPath (u.tensor e.tid) e.version) miss
    OutcomeFixed s t q i e1 r (cheaperPath (s.tensor e1.tid) e1.version) ∧ EntryEnds u t ∧ DamageStays s u t q e1.tid := by
  intro t
  have htens : u.tensor e.tid = s.tensor e1.tid := by
    rw [ht]
    exact congrArg (fun m => tget ({} : Tensor) m e1.tid) h.tensors
  have hn := h.tally e.parts e.tid (entryTier u q e) 1 misses false
  have hs := EntryEnds.setQuay u q ((u.quay q).tally e.parts e.tid (entryTier u q e) 1 misses false)
  have hf := State.fixOutcome_fixes (cheaperPath (u.tensor e.tid) e.version) miss hn.get
  have hdm : ((u.setQuay q ((u.quay q).tally e.parts e.tid (entryTier u q e) 1 misses false)).quay q).damaged = (u.quay q).damaged := by
    rw [State.setQuay_quay_same]
    rfl
  unfold t
  generalize u.setQuay q ((u.quay q).tally e.parts e.tid (entryTier u q e) 1 misses false) = v at hn hs hf hdm
  rw [htens, hv] at hf ⊢
  refine ⟨hn.outcomeFixed hr hf, hs.trans (.of_fixes hf), ⟨fun d hd hk => hf.damage d (by rw [hdm]; exact hd) ?_⟩⟩
  rw [show v.tensor e1.tid = s.tensor e1.tid from congrArg (fun m => tget ({} : Tensor) m e1.tid) hn.tensors]
  exact hk

theorem Near.miss {s u : State} {q i : Nat} {e1 e : FetchEntry} {r : BitVec 512} (h : Near s u q i e1) (hr : s.recOf e1.tid = some r)
    (ht : e.tid = e1.tid) (hv : e.version = e1.version) :
    OutcomeFixed s (u.missEntry q i e) q i e1 r
        (if (s.tensor e1.tid).retired e1.version = true then .skip else cheaperPath (s.tensor e1.tid) e1.version)
      ∧ EntryEnds u (u.missEntry q i e) ∧ DamageStays s u (u.missEntry q i e) q e1.tid := by
  have htens : u.tensor e.tid = s.tensor e1.tid := by
    rw [ht]
    exact congrArg (fun m => tget ({} : Tensor) m e1.tid) h.tensors
  unfold State.missEntry
  rw [show (u.tensor e.tid).retired e.version = (s.tensor e1.tid).retired e1.version by rw [htens, hv]]
  by_cases hret : (s.tensor e1.tid).retired e1.version = true
  · rw [if_pos hret, if_pos hret]
    have hf := State.fixOutcome_fixes .skip false h.get
    have ho := h.outcomeFixed hr hf
    have hs := EntryEnds.of_fixes hf
    have hdm := hf.damage
    dsimp only
    generalize u.fixOutcome q i .skip false = t at ho hs hdm
    refine ⟨ho.setQuay rfl rfl rfl, hs.trans (.setQuay t q _), ⟨fun d hd hk => ?_⟩⟩
    rw [State.setQuay_quay_same]
    refine hdm d hd ?_
    rw [show u.tensor e1.tid = s.tensor e1.tid from congrArg (fun m => tget ({} : Tensor) m e1.tid) h.tensors]
    exact hk
  · rw [if_neg hret, if_neg hret]
    exact h.path hr ht hv 1 true

theorem Near.unreadable {s u : State} {q i : Nat} {e1 e : FetchEntry} {r : BitVec 512} (h : Near s u q i e1) (hr : s.recOf e1.tid = some r)
    (ht : e.tid = e1.tid) (hv : e.version = e1.version) :
    OutcomeFixed s (u.unreadableEntry q i e) q i e1 r
        (if decisionTime u q e < u.now ∧ (s.tensor e1.tid).retired e1.version = true then .skip else cheaperPath (s.tensor e1.tid) e1.version)
      ∧ EntryEnds u (u.unreadableEntry q i e) ∧ DamageStays s u (u.unreadableEntry q i e) q e1.tid := by
  unfold State.unreadableEntry
  dsimp only
  by_cases hp : decisionTime u q e < u.now
  · rw [if_pos hp]
    simp only [hp, true_and]
    exact h.miss hr ht hv
  · have hx : ¬ (decisionTime u q e < u.now ∧ (s.tensor e1.tid).retired e1.version = true) := fun hx => hp hx.1
    rw [if_neg hp, if_neg hx]
    exact h.path hr ht hv _ _

/-! ### The commands on an entry that is open -/

/-- An open entry of a quay that somebody waits for. -/
structure OpenEntry (s : State) (q i : Nat) (e : FetchEntry) (r : BitVec 512) : Prop where
  quay : q < 4
  entry : (s.quay q).entries[i]? = some e
  tensor : s.recOf e.tid = some r
  outcome : e.outcome = none
  waiters : e.waiters ≠ []

theorem OpenEntry.near {s : State} {q i : Nat} {e : FetchEntry} {r : BitVec 512} (h : OpenEntry s q i e r) : Near s s q i e :=
  .refl h.entry h.outcome

theorem OpenEntry.waits {s : State} {q i : Nat} {e : FetchEntry} {r : BitVec 512} (h : OpenEntry s q i e r) : e.waiters.isEmpty = false := by
  cases hw : e.waiters with
  | nil => exact absurd hw h.waiters
  | cons _ _ => rfl

/-- A version that is served has not retired. -/
theorem retired_of_served {s : State} {e : FetchEntry} (h : dataServed s e = true) : (s.tensor e.tid).retired e.version = false := by
  unfold dataServed Tensor.served at h
  unfold Tensor.retired
  split at h
  next x hx => rw [hx]; rfl
  next => cases h

theorem decisionPoint_fixes {s : State} {q i : Nat} {e : FetchEntry} {r : BitVec 512} (h : OpenEntry s q i e r) :
    ∃ t, exec (.decisionPoint q i) s = .next t ∧ t.now = max s.now (decisionTime s q e + 1)
      ∧ OutcomeFixed s t q i e r (if (s.tensor e.tid).retired e.version = true then .skip else cheaperPath (s.tensor e.tid) e.version)
      ∧ t.aroundEntry = s.aroundEntry ∧ t.fabric = s.fabric ∧ t.ledger = s.ledger := by
  have he : exec (.decisionPoint q i) s = .next ((s.advance (decisionTime s q e + 1)).missEntry q i e) := by
    refine (if_pos h.quay).trans (congrArg Host.Outcome.next ?_)
    rw [h.entry]
    exact if_neg (by rw [h.outcome, h.waits]; exact Bool.false_ne_true)
  have hn : Near s (s.advance (decisionTime s q e + 1)) q i e := h.near.of_same rfl rfl rfl rfl rfl
  obtain ⟨hf, hs, -⟩ := hn.miss h.tensor rfl rfl
  exact ⟨_, he, hs.now, hf, hs.around, hs.fabric, hs.ledger⟩

/-- What P makes of data that has come (R204, R210). -/
theorem Near.data_or_miss {s u : State} {q i : Nat} {e : FetchEntry} {r : BitVec 512} (h : Near s u q i e) (hr : s.recOf e.tid = some r)
    (hd : dataServed s e = true) (late : Prop) [Decidable late] :
    let t := if late then u.missEntry q i e else u.dataEntry q i e
    OutcomeFixed s t q i e r (if late then cheaperPath (s.tensor e.tid) e.version else .data) ∧ EntryEnds u t := by
  intro t
  unfold t
  by_cases hl : late
  · rw [if_pos hl, if_pos hl]
    obtain ⟨hf, hs, -⟩ := h.miss hr rfl rfl
    rw [retired_of_served hd, if_neg Bool.false_ne_true] at hf
    exact ⟨hf, hs⟩
  · rw [if_neg hl, if_neg hl]
    exact h.data hr e

theorem Quay.measure_keeps (qu : Quay) (tid tier latency : Nat) : (qu.measure tid tier latency).entries = qu.entries
    ∧ (qu.measure tid tier latency).outgoing = qu.outgoing ∧ (qu.measure tid tier latency).excluded = qu.excluded := by
  unfold Quay.measure
  exact ⟨rfl, rfl, rfl⟩

theorem fetchDataReady_fixes {s : State} {q i : Nat} {e : FetchEntry} {r : BitVec 512} (h : OpenEntry s q i e r) (hw : e.waiting = false)
    (hu : e.unreadable = false) (hrec : e.recovery = 0) (hd : dataServed s e = true) (hc : canSend s q e = true) :
    ∃ t, exec (.fetchDataReady q i) s = .next t ∧ t.now = s.now
      ∧ OutcomeFixed s t q i e r (if s.now ≤ decisionTime s q e then .data else cheaperPath (s.tensor e.tid) e.version)
      ∧ t.aroundEntry = s.aroundEntry ∧ t.fabric = s.fabric ∧ t.ledger = s.ledger := by
  obtain ⟨u, huq⟩ : ∃ u, s.setQuay q ((s.quay q).measure e.tid (entryTier s q e) (s.now - e.issuedAt s.now)) = u := ⟨_, rfl⟩
  have he : exec (.fetchDataReady q i) s = .next (if decisionTime s q e < s.now then
      (u.missEntry q i e).setQuay q (((u.missEntry q i e).quay q).tally e.parts e.tid (entryTier s q e) 0 0 true) else u.dataEntry q i e) := by
    refine (if_pos h.quay).trans (congrArg Host.Outcome.next ?_)
    rw [h.entry]
    dsimp only
    rw [h.outcome]
    refine (if_neg ?_).trans (by rw [← huq])
    rw [hw, hu, hrec, hd, hc]
    exact Bool.false_ne_true
  obtain ⟨hm1, hm2, hm3⟩ := (s.quay q).measure_keeps e.tid (entryTier s q e) (s.now - e.issuedAt s.now)
  have hn : Near s u q i e := huq ▸ h.near.setQuay hm1 hm2 hm3
  have hs0 : EntryEnds s u := huq ▸ EntryEnds.setQuay s q _
  obtain ⟨hf, hs⟩ := hn.data_or_miss h.tensor hd (decisionTime s q e < s.now)
  by_cases hl : decisionTime s q e < s.now
  · rw [if_pos hl] at he
    rw [if_pos hl, if_pos hl] at hf
    rw [if_pos hl] at hs
    rw [if_neg (Nat.not_le.mpr hl)]
    generalize u.missEntry q i e = t at he hf hs
    have hend := hs0.trans (hs.trans (EntryEnds.setQuay t q ((t.quay q).tally e.parts e.tid (entryTier s q e) 0 0 true)))
    exact ⟨_, he, hend.now, hf.setQuay rfl rfl rfl, hend.around, hend.fabric, hend.ledger⟩
  · rw [if_neg hl] at he
    rw [if_neg hl, if_neg hl] at hf
    rw [if_neg hl] at hs
    rw [if_pos (Nat.not_lt.mp hl)]
    have hend := hs0.trans hs
    exact ⟨_, he, hend.now, hf, hend.around, hend.fabric, hend.ledger⟩

/-! ### Data that DRAM cannot correct (R208, R312) -/

theorem State.askReplica_frame (s : State) (q tid tile version : Nat) : s.askReplica q tid tile version
    = { s with fabric := (s.askReplica q tid tile version).fabric
               ledger := { s.ledger with rejectsReceived := (s.askReplica q tid tile version).ledger.rejectsReceived } } := by
  unfold State.askReplica
  split
  · split
    · rfl
    · unfold State.sendPacket
      dsimp only
      split <;> rfl
  · rfl

/-- A tile that DRAM gives up, with or without the replica's data. -/
def State.dramAsked (s : State) (q : Nat) (e : FetchEntry) (retryOk : Bool) : State :=
  let s0 := if retryOk then s else s.askReplica q e.tid e.tile e.version
  s0.setQuay q ((s0.quay q).count 10 1)

/-- Whether a retry or the mirror gives the data. -/
def dramGives (s : State) (e : FetchEntry) (retryOk mirrorOk : Bool) : Bool :=
  retryOk || (mirrorOk && recMirror (s.tensor e.tid).record && mirrorServes s e.tid e.tile)

/-- A quay that marks a tile as damaged, with the path taken. -/
def State.markDamaged (s : State) (q : Nat) (e : FetchEntry) : State :=
  s.setQuay q { (s.quay q).count 11 1 with
    damaged := ((s.quay q).count 11 1).damaged ++ [(e.tid, e.tile, e.version, cheaperPath (s.tensor e.tid) e.version)] }

theorem dramUncorrectable_eq {s : State} {q i : Nat} {e : FetchEntry} {r : BitVec 512} (h : OpenEntry s q i e r) (hw : e.waiting = false)
    (hd : dataServed s e = true) (retryOk mirrorOk : Bool) : exec (.dramUncorrectable q i retryOk mirrorOk) s
      = .next (if dramGives s e retryOk mirrorOk then
          if canSend s q e then
            if decisionTime s q e < s.now then (s.dramAsked q e retryOk).missEntry q i e else (s.dramAsked q e retryOk).dataEntry q i e
          else s.dramAsked q e retryOk
        else ((s.markDamaged q e).unreadableEntry q i e).event sevDegraded evTileDamaged e.tid e.tile) := by
  refine (if_pos h.quay).trans (congrArg Host.Outcome.next ?_)
  rw [h.entry]
  dsimp only
  rw [if_neg (by rw [h.waits]; exact Bool.false_ne_true)]
  refine (if_neg ?_).trans ((if_neg ?_).trans ?_)
  · rw [h.outcome]
    simp
  · rw [h.outcome, hw, hd]
    exact Bool.false_ne_true
  · cases canSend s q e <;> rfl

theorem State.dramAsked_near {s : State} {q i : Nat} {e : FetchEntry} {r : BitVec 512} (h : OpenEntry s q i e r) (retryOk : Bool) :
    Near s (s.dramAsked q e retryOk) q i e ∧ (s.dramAsked q e retryOk).now = s.now ∧ (s.dramAsked q e retryOk).aroundEntry = s.aroundEntry
      ∧ (retryOk = true → (s.dramAsked q e retryOk).fabric = s.fabric ∧ (s.dramAsked q e retryOk).ledger = s.ledger) := by
  have hf := s.askReplica_frame q e.tid e.tile e.version
  unfold State.dramAsked
  dsimp only
  cases retryOk
  · rw [if_neg Bool.false_ne_true]
    generalize s.askReplica q e.tid e.tile e.version = u at hf
    have hn : Near s u q i e := h.near.of_same (congrArg State.quays hf :) (congrArg State.tensors hf :) (congrArg State.dram hf :)
      (congrArg State.ctl hf :) (congrArg State.freeCtr hf :)
    exact ⟨hn.setQuay rfl rfl rfl, (congrArg State.now hf :), (congrArg State.aroundEntry hf :), fun hb => absurd hb Bool.false_ne_true⟩
  · rw [if_pos rfl]
    exact ⟨h.near.setQuay rfl rfl rfl, rfl, rfl, fun _ => ⟨rfl, rfl⟩⟩

/-- An entry set back is itself. -/
theorem Near.entries_same {s u : State} {q i : Nat} {e : FetchEntry} (h : Near s u q i e) (he : (s.quay q).entries[i]? = some e) :
    (u.quay q).entries = (s.quay q).entries := by
  obtain ⟨hlt, hg⟩ := List.getElem?_eq_some_iff.mp he
  rw [h.entries, ← hg, List.set_getElem_self]

theorem dramUncorrectable_gives {s : State} {q i : Nat} {e : FetchEntry} {r : BitVec 512} (h : OpenEntry s q i e r) (hw : e.waiting = false)
    (hd : dataServed s e = true) (retryOk mirrorOk : Bool) (hg : dramGives s e retryOk mirrorOk = true) :
    ∃ t, exec (.dramUncorrectable q i retryOk mirrorOk) s = .next t ∧ t.now = s.now
      ∧ (canSend s q e = true → OutcomeFixed s t q i e r (if s.now ≤ decisionTime s q e then .data else cheaperPath (s.tensor e.tid) e.version))
      ∧ (canSend s q e = false → (t.quay q).entries = (s.quay q).entries ∧ SameBut {} s.quays t.quays q ∧ t.dram = s.dram ∧ t.tensors = s.tensors)
      ∧ t.aroundEntry = s.aroundEntry ∧ (retryOk = true → t.fabric = s.fabric ∧ t.ledger = s.ledger) := by
  have he := dramUncorrectable_eq h hw hd retryOk mirrorOk
  rw [if_pos hg] at he
  obtain ⟨hn, hnow, haround, hquiet⟩ := State.dramAsked_near h retryOk
  generalize s.dramAsked q e retryOk = u at he hn hnow haround hquiet
  cases hc : canSend s q e
  · rw [if_neg (by rw [hc]; exact Bool.false_ne_true)] at he
    exact ⟨u, he, hnow, fun hx => absurd hx Bool.false_ne_true, fun _ => ⟨hn.entries_same h.entry, hn.others, hn.dram, hn.tensors⟩, haround, hquiet⟩
  · rw [if_pos hc] at he
    obtain ⟨hf, hs⟩ := hn.data_or_miss h.tensor hd (decisionTime s q e < s.now)
    have ho : (if decisionTime s q e < s.now then cheaperPath (s.tensor e.tid) e.version else .data)
        = (if s.now ≤ decisionTime s q e then Outcome.data else cheaperPath (s.tensor e.tid) e.version) := by
      by_cases hl : decisionTime s q e < s.now
      · rw [if_pos hl, if_neg (Nat.not_le.mpr hl)]
      · rw [if_neg hl, if_pos (Nat.not_lt.mp hl)]
    rw [ho] at hf
    exact ⟨_, he, hs.now.trans hnow, fun _ => hf, fun hx => absurd hx.symm Bool.false_ne_true, hs.around.trans haround,
      fun hr => ⟨hs.fabric.trans (hquiet hr).1, hs.ledger.trans (hquiet hr).2⟩⟩

theorem dramUncorrectable_damages {s : State} {q i : Nat} {e : FetchEntry} {r : BitVec 512} (h : OpenEntry s q i e r) (hw : e.waiting = false)
    (hd : dataServed s e = true) (retryOk mirrorOk : Bool) (hg : dramGives s e retryOk mirrorOk = false) :
    ∃ t, exec (.dramUncorrectable q i retryOk mirrorOk) s = .next t ∧ t.now = s.now
      ∧ (e.version ∉ (s.tensor e.tid).retiring → (e.tid, e.tile, e.version, cheaperPath (s.tensor e.tid) e.version) ∈ (t.quay q).damaged)
      ∧ OutcomeFixed s t q i e r (cheaperPath (s.tensor e.tid) e.version)
      ∧ t.aroundEntry = s.aroundEntry ∧ t.fabric = s.fabric ∧ t.ledger = s.ledger := by
  have he := dramUncorrectable_eq h hw hd retryOk mirrorOk
  rw [if_neg (by rw [hg]; exact Bool.false_ne_true)] at he
  have hn : Near s (s.markDamaged q e) q i e := h.near.setQuay rfl rfl rfl
  have hs0 : EntryEnds s (s.markDamaged q e) := EntryEnds.setQuay s q _
  have hmem : (e.tid, e.tile, e.version, cheaperPath (s.tensor e.tid) e.version) ∈ ((s.markDamaged q e).quay q).damaged := by
    rw [State.markDamaged, State.setQuay_quay_same]
    exact List.mem_append_right _ List.mem_cons_self
  generalize s.markDamaged q e = u at he hn hs0 hmem
  obtain ⟨hf, hs, hdm⟩ := hn.unreadable h.tensor rfl rfl
  rw [if_neg fun hx => Bool.false_ne_true ((retired_of_served hd).symm.trans hx.2)] at hf
  generalize u.unreadableEntry q i e = v at he hf hs hdm
  have hev := EntryEnds.event v sevDegraded evTileDamaged e.tid e.tile
  have hend := hs0.trans (hs.trans hev)
  have hq : (v.event sevDegraded evTileDamaged e.tid e.tile).quay q = v.quay q :=
    (congrArg (fun y : State => y.quay q) (v.event_frame sevDegraded evTileDamaged e.tid e.tile) :)
  refine ⟨_, he, hend.now, fun hv => ?_, hf.event .., hend.around, hend.fabric, hend.ledger⟩
  rw [hq]
  exact hdm.stays _ hmem (.inr hv)

/-! ### Recovery of a page of flash (R207) -/

/-- An entry that is written back into its quay. -/
def State.putEntry (s : State) (q i : Nat) (e1 : FetchEntry) : State := s.setQuay q { s.quay q with
  entries := if e1.spent then (s.quay q).entries.eraseIdx i else (s.quay q).entries.set i e1 }

/-- No copy of a version lies in the replica quay. -/
def lacksCopy (t : Tensor) (v : Nat) : Bool :=
  match t.replica with
  | some c => c.version.number != v
  | none => true

theorem lacksCopy_iff {t : Tensor} {v : Nat} : lacksCopy t v = false ↔ ∃ c, t.replica = some c ∧ c.version.number = v := by
  unfold lacksCopy
  cases t.replica with
  | none => simp
  | some c => simp

/-- An entry whose page a step has recovered. -/
def FetchEntry.recovered (e : FetchEntry) : FetchEntry :=
  { e with recovery := 0, missed := [], rebuilt := e.rebuilt || decide (1 ≤ e.recovery) }

/-- An entry whose page no step has recovered. -/
def FetchEntry.lost (e : FetchEntry) : FetchEntry := { e with recovery := 4, missed := [], unreadable := true }

/-- A step of recovery that gives the data, with its event. -/
def State.pageRead (s : State) (q i : Nat) (e : FetchEntry) : State :=
  ((s.putEntry q i e.recovered).setQuay q (((s.putEntry q i e.recovered).quay q).count 8 1)).event sevAbsorbed evFlashPage q (e.recovery + 1)

/-- The last step of recovery fails, with its event. -/
def State.pageLost (s : State) (q i : Nat) (e : FetchEntry) : State :=
  ((s.putEntry q i e.lost).setQuay q (((s.putEntry q i e.lost).quay q).count 9 1)).event sevDegraded evFlashPage q 4

theorem flashRecovery_works {s : State} {q i : Nat} {e : FetchEntry} {r : BitVec 512} (h : OpenEntry s q i e r) (hw : e.waiting = false)
    (hu : e.unreadable = false) (ht : recTier (s.tensor e.tid).record = 1) (hc : e.recovery < 2 ∨ lacksCopy (s.tensor e.tid) e.version = false) :
    exec (.flashRecoveryStep q i true) s = .next (if dataServed s e && canSend s q e && decide (s.now ≤ decisionTime s q e) then
      (s.pageRead q i e).dataEntry q i e else (s.pageRead q i e).settle q e.tid) := by
  refine (if_pos h.quay).trans (congrArg Host.Outcome.next ?_)
  rw [h.entry]
  dsimp only
  refine (if_neg ?_).trans ((if_pos ?_).trans ?_)
  · rw [hw, hu, ht, h.outcome]
    simp
  · rw [Bool.true_and, Bool.not_eq_true', Bool.and_eq_false_iff, decide_eq_false_iff_not]
    exact hc.imp (fun h => by omega) id
  · have hr : (decide (2 ≤ e.recovery + 1) : Bool) = decide (1 ≤ e.recovery) := by
      congr 1
      exact propext ⟨fun h => by omega, fun h => by omega⟩
    have hb : (e.outcome.isNone && !e.waiters.isEmpty && dataServed s e && canSend s q e && decide (s.now ≤ decisionTime s q e))
        = (dataServed s e && canSend s q e && decide (s.now ≤ decisionTime s q e)) := by
      rw [h.outcome, h.waits]
      rfl
    rw [hb, hr]
    rfl

theorem flashRecovery_fails {s : State} {q i : Nat} {e : FetchEntry} {r : BitVec 512} (h : OpenEntry s q i e r) (hw : e.waiting = false)
    (hu : e.unreadable = false) (ht : recTier (s.tensor e.tid).record = 1) :
    (e.recovery = 0 → exec (.flashRecoveryStep q i false) s = .next (s.putEntry q i { e with recovery := e.recovery + 1 }))
    ∧ (e.recovery = 1 → lacksCopy (s.tensor e.tid) e.version = false → exec (.flashRecoveryStep q i false) s
        = .next ((s.putEntry q i { e with recovery := e.recovery + 1 }).askReplica q e.tid e.tile e.version))
    ∧ (2 ≤ e.recovery ∨ (e.recovery = 1 ∧ lacksCopy (s.tensor e.tid) e.version = true) →
        exec (.flashRecoveryStep q i false) s = .next ((s.pageLost q i e).unreadableEntry q i e)) := by
  obtain ⟨next, hnext⟩ : ∃ next, (if e.recovery + 1 = 2 ∧ lacksCopy (s.tensor e.tid) e.version = true then 3 else e.recovery + 1) = next :=
    ⟨_, rfl⟩
  have he : exec (.flashRecoveryStep q i false) s = .next (if next < 3 then
      if next = 2 then (s.putEntry q i { e with recovery := next }).askReplica q e.tid e.tile e.version
      else s.putEntry q i { e with recovery := next }
    else (s.pageLost q i e).unreadableEntry q i e) := by
    refine (if_pos h.quay).trans (congrArg Host.Outcome.next ?_)
    rw [h.entry]
    dsimp only
    refine (if_neg ?_).trans ((if_neg (by rw [Bool.false_and]; exact Bool.false_ne_true)).trans ?_)
    · rw [hw, hu, ht, h.outcome]
      simp
    · have hb : (e.outcome.isNone && !e.waiters.isEmpty) = true := by
        rw [h.outcome, h.waits]
        rfl
      rw [hb, ← hnext]
      rfl
  refine ⟨fun h0 => ?_, fun h1 hc => ?_, fun h2 => ?_⟩
  · have hn : next = e.recovery + 1 := by rw [← hnext, if_neg (by omega)]
    rw [he, hn, if_pos (by omega), if_neg (by omega)]
  · have hn : next = e.recovery + 1 := by rw [← hnext, hc, if_neg fun hx => Bool.false_ne_true hx.2]
    rw [he, hn, if_pos (by omega), if_pos (by omega)]
  · have hn : 3 ≤ next := by
      rw [← hnext]
      split
      · exact Nat.le_refl 3
      · next hx =>
        rcases h2 with h2 | ⟨h1, hc⟩
        · omega
        · exact absurd ⟨by omega, hc⟩ hx
    rw [he, if_neg (by omega)]

/-- An open entry, written back with the same waiters. -/
theorem OpenEntry.put {s : State} {q i : Nat} {e : FetchEntry} {r : BitVec 512} (h : OpenEntry s q i e r) {e1 : FetchEntry}
    (ho : e1.outcome = none) (hw : e1.waiters = e.waiters) : Near s (s.putEntry q i e1) q i e1 ∧ EntryEnds s (s.putEntry q i e1) := by
  have hsp : e1.spent = false := by
    unfold FetchEntry.spent
    rw [hw, h.waits]
    rfl
  have hq : (s.putEntry q i e1).quay q = { s.quay q with entries := (s.quay q).entries.set i e1 } := by
    rw [State.putEntry, State.setQuay_quay_same, if_neg (by rw [hsp]; exact Bool.false_ne_true)]
  refine ⟨⟨by rw [hq], ⟨e, h.entry, h.outcome⟩, ho, by rw [hq], by rw [hq], fun j hj => s.setQuay_quay_ne q _ j hj, rfl, rfl, rfl, rfl⟩, ?_⟩
  exact EntryEnds.setQuay s q _

theorem Near.event {s u : State} {q i : Nat} {e1 : FetchEntry} (h : Near s u q i e1) (a b c d : Nat) : Near s (u.event a b c d) q i e1 := by
  have hf := u.event_frame a b c d
  generalize u.event a b c d = v at hf
  exact h.of_same (congrArg State.quays hf :) (congrArg State.tensors hf :) (congrArg State.dram hf :) (congrArg State.ctl hf :)
    (congrArg State.freeCtr hf :)

theorem OpenEntry.pageRead {s : State} {q i : Nat} {e : FetchEntry} {r : BitVec 512} (h : OpenEntry s q i e r) :
    Near s (s.pageRead q i e) q i e.recovered ∧ EntryEnds s (s.pageRead q i e) ∧ Logged s (s.pageRead q i e) sevAbsorbed evFlashPage q (e.recovery + 1) := by
  unfold State.pageRead
  obtain ⟨hn, hs⟩ := h.put (e1 := e.recovered) h.outcome rfl
  have hsame : (s.putEntry q i e.recovered).log = s.log ∧ (s.putEntry q i e.recovered).mc = s.mc
      ∧ (s.putEntry q i e.recovered).sivar = s.sivar := ⟨rfl, rfl, rfl⟩
  generalize s.putEntry q i e.recovered = u at hn hs hsame
  have hn' := hn.setQuay (v := (u.quay q).count 8 1) rfl rfl rfl
  have hs' := hs.trans (EntryEnds.setQuay u q ((u.quay q).count 8 1))
  have hsame' : (u.setQuay q ((u.quay q).count 8 1)).log = s.log ∧ (u.setQuay q ((u.quay q).count 8 1)).mc = s.mc
      ∧ (u.setQuay q ((u.quay q).count 8 1)).sivar = s.sivar := hsame
  generalize u.setQuay q ((u.quay q).count 8 1) = v at hn' hs' hsame'
  obtain ⟨h1, h2, h3⟩ := hsame'
  refine ⟨hn'.event .., hs'.trans (.event ..), logged_event_after h1 (congrArg (fun m => m.restarting) h2) ?_ sevAbsorbed evFlashPage q (e.recovery + 1)⟩
  rw [State.cfg, State.cfg, h3]

theorem OpenEntry.pageLost {s : State} {q i : Nat} {e : FetchEntry} {r : BitVec 512} (h : OpenEntry s q i e r) :
    Near s (s.pageLost q i e) q i e.lost ∧ EntryEnds s (s.pageLost q i e) ∧ decisionTime (s.pageLost q i e) q e = decisionTime s q e := by
  unfold State.pageLost
  obtain ⟨hn, hs⟩ := h.put (e1 := e.lost) h.outcome rfl
  have hl : ((s.putEntry q i e.lost).quay q).leads = (s.quay q).leads := by rw [State.putEntry, State.setQuay_quay_same]
  have hp : (s.putEntry q i e.lost).parts = s.parts := rfl
  generalize s.putEntry q i e.lost = u at hn hs hl hp
  have hn' := hn.setQuay (v := (u.quay q).count 9 1) rfl rfl rfl
  have hs' := hs.trans (EntryEnds.setQuay u q ((u.quay q).count 9 1))
  have hl' : ((u.setQuay q ((u.quay q).count 9 1)).quay q).leads = (s.quay q).leads := by
    rw [State.setQuay_quay_same, ← hl]
    rfl
  have hp' : (u.setQuay q ((u.quay q).count 9 1)).parts = s.parts := hp
  generalize u.setQuay q ((u.quay q).count 9 1) = v at hn' hs' hl' hp'
  have hev := v.event_frame sevDegraded evFlashPage q 4
  refine ⟨hn'.event .., hs'.trans (.event ..), ?_⟩
  have hnear := hn'.event sevDegraded evFlashPage q 4
  have hnow := (hs'.trans (EntryEnds.event v sevDegraded evFlashPage q 4)).now
  generalize v.event sevDegraded evFlashPage q 4 = w at hev hnear hnow
  have hwl : (w.quay q).leads = (s.quay q).leads := ((congrArg (fun y : State => (y.quay q).leads) hev :) : (w.quay q).leads = _).trans hl'
  have hwp : w.parts = s.parts := ((congrArg State.parts hev :) : w.parts = v.parts).trans hp'
  have hslip : ∀ p, slipOf w p = slipOf s p := fun p => by
    unfold slipOf State.part
    rw [hwp]
  have hlead : ∀ r, decisionLead (w.quay q) r = decisionLead (s.quay q) r := fun r => by
    unfold decisionLead substituteTerm
    rw [hwl]
  unfold decisionTime
  simp only [hslip, hlead, hnow, hnear.recOf]

theorem flashRecovery_data {s : State} {q i : Nat} {e : FetchEntry} {r : BitVec 512} (h : OpenEntry s q i e r) (hw : e.waiting = false)
    (hu : e.unreadable = false) (ht : recTier (s.tensor e.tid).record = 1) (hc : e.recovery < 2 ∨ lacksCopy (s.tensor e.tid) e.version = false) :
    (dataServed s e = true → canSend s q e = true → s.now ≤ decisionTime s q e →
      ∃ t, exec (.flashRecoveryStep q i true) s = .next t ∧ OutcomeFixed s t q i e.recovered r .data ∧ EntryEnds s t)
    ∧ (dataServed s e = false ∨ canSend s q e = false ∨ decisionTime s q e < s.now →
      ∃ t, exec (.flashRecoveryStep q i true) s = .next t
        ∧ (t.quay q).entries.map FetchEntry.plain = ((s.quay q).entries.set i e.recovered).map FetchEntry.plain
        ∧ OnlyRetires s t q e.tid ∧ Logged s t sevAbsorbed evFlashPage q (e.recovery + 1) ∧ t.dram = s.dram ∧ t.ctl = s.ctl ∧ EntryEnds s t) := by
  have he := flashRecovery_works h hw hu ht hc
  obtain ⟨hn, hs, hlog⟩ := h.pageRead
  generalize s.pageRead q i e = u at he hn hs hlog
  refine ⟨fun hd hcs hP => ?_, fun hno => ?_⟩
  · rw [hd, hcs, decide_eq_true hP, if_pos (by rfl)] at he
    obtain ⟨hf, hs'⟩ := hn.data h.tensor e
    exact ⟨_, he, hf, hs.trans hs'⟩
  · have hneg : ¬ (dataServed s e && canSend s q e && decide (s.now ≤ decisionTime s q e)) = true := by
      rcases hno with hx | hx | hx
      · rw [hx]; exact Bool.false_ne_true
      · rw [hx, Bool.and_false]; exact Bool.false_ne_true
      · rw [decide_eq_false (Nat.not_le.mpr hx), Bool.and_false]; exact Bool.false_ne_true
    rw [if_neg hneg] at he
    have hst := u.settle_settles q e.tid
    generalize u.settle q e.tid = t at he hst
    have htl : t.log = u.log := (congrArg State.log hst.frame :)
    refine ⟨t, he, hst.entries.trans (by rw [hn.entries]), hst.retires.of_start hn.tensors hn.others, fun ha hb => ?_,
      ((congrArg State.dram hst.frame :) : t.dram = u.dram).trans hn.dram, ((congrArg State.ctl hst.frame :) : t.ctl = u.ctl).trans hn.ctl,
      hs.trans (.of_settled hst)⟩
    rw [htl]
    exact hlog ha hb

theorem flashRecovery_goesOn {s : State} {q i : Nat} {e : FetchEntry} {r : BitVec 512} (h : OpenEntry s q i e r) (hw : e.waiting = false)
    (hu : e.unreadable = false) (ht : recTier (s.tensor e.tid).record = 1)
    (hc : e.recovery = 0 ∨ (e.recovery = 1 ∧ lacksCopy (s.tensor e.tid) e.version = false)) :
    ∃ t, exec (.flashRecoveryStep q i false) s = .next t ∧ (t.quay q).entries[i]? = some { e with recovery := e.recovery + 1 }
      ∧ SameBut {} s.quays t.quays q ∧ t.dram = s.dram ∧ t.tensors = s.tensors ∧ t.log = s.log ∧ t.now = s.now
      ∧ t.aroundEntry = s.aroundEntry ∧ (e.recovery = 0 → t.fabric = s.fabric ∧ t.ledger = s.ledger) := by
  obtain ⟨h0, h1, -⟩ := flashRecovery_fails h hw hu ht
  obtain ⟨hn, hs⟩ := h.put (e1 := { e with recovery := e.recovery + 1 }) h.outcome rfl
  have hlog : (s.putEntry q i { e with recovery := e.recovery + 1 }).log = s.log := rfl
  generalize s.putEntry q i { e with recovery := e.recovery + 1 } = u at h0 h1 hn hs hlog
  rcases hc with hz | ⟨hone, hcopy⟩
  · exact ⟨u, h0 hz, hn.get, hn.others, hn.dram, hn.tensors, hlog, hs.now, hs.around, fun _ => ⟨hs.fabric, hs.ledger⟩⟩
  · have he := h1 hone hcopy
    have hf := u.askReplica_frame q e.tid e.tile e.version
    generalize u.askReplica q e.tid e.tile e.version = t at he hf
    have hq : ∀ j, t.quay j = u.quay j := fun j => (congrArg (fun y : State => y.quay j) hf :)
    refine ⟨t, he, by rw [hq]; exact hn.get, fun j hj => (hq j).trans (hn.others j hj), ((congrArg State.dram hf :) : t.dram = u.dram).trans hn.dram,
      ((congrArg State.tensors hf :) : t.tensors = u.tensors).trans hn.tensors, ((congrArg State.log hf :) : t.log = u.log).trans hlog,
      ((congrArg State.now hf :) : t.now = u.now).trans hs.now,
      ((congrArg State.aroundEntry hf :) : t.aroundEntry = u.aroundEntry).trans hs.around, fun hx => by omega⟩

theorem flashRecovery_gives_up {s : State} {q i : Nat} {e : FetchEntry} {r : BitVec 512} (h : OpenEntry s q i e r) (hw : e.waiting = false)
    (hu : e.unreadable = false) (ht : recTier (s.tensor e.tid).record = 1)
    (hc : 2 ≤ e.recovery ∨ (e.recovery = 1 ∧ lacksCopy (s.tensor e.tid) e.version = true)) :
    ∃ t, exec (.flashRecoveryStep q i false) s = .next t
      ∧ OutcomeFixed s t q i e.lost r
          (if decisionTime s q e < s.now ∧ (s.tensor e.tid).retired e.version = true then .skip else cheaperPath (s.tensor e.tid) e.version)
      ∧ EntryEnds s t := by
  obtain ⟨-, -, h2⟩ := flashRecovery_fails h hw hu ht
  have he := h2 hc
  obtain ⟨hn, hs, hP⟩ := h.pageLost
  generalize s.pageLost q i e = u at he hn hs hP
  obtain ⟨hf, hs', -⟩ := hn.unreadable (e := e) h.tensor rfl rfl
  rw [hP, hs.now] at hf
  exact ⟨_, he, hf, hs.trans hs'⟩

/-! ### The obligation -/

/-- What an entry's end leaves, as the obligation writes it. -/
theorem EntryEnds.quiet {s t : State} (h : EntryEnds s t) : t.fabric = s.fabric ∧ t.ledger = s.ledger := ⟨h.fabric, h.ledger⟩

/-- An entry without waiters is no longer anybody's: nothing is decided for it. -/
theorem abandoned_entry {s : State} {q i : Nat} {e : FetchEntry} (hq : q < 4) (h : (s.quay q).entries[i]? = some e) (ho : e.outcome = none)
    (hw : e.waiters = []) (retryOk mirrorOk : Bool) : exec (.decisionPoint q i) s = .next s ∧ exec (.fetchDataReady q i) s = .next s
      ∧ exec (.dramUncorrectable q i retryOk mirrorOk) s = .next s := by
  have hc : canSend s q e = false := by
    unfold canSend
    rw [hw]
    rfl
  refine ⟨(if_pos hq).trans (congrArg Host.Outcome.next ?_), (if_pos hq).trans (congrArg Host.Outcome.next ?_),
    (if_pos hq).trans (congrArg Host.Outcome.next ?_)⟩ <;> rw [h] <;> dsimp only
  · exact if_pos (by rw [hw, ho]; rfl)
  · rw [ho]
    exact if_pos (by rw [hc, Bool.not_false, Bool.or_true])
  · exact if_pos (by rw [hw]; rfl)

/-- Settles O24: by what fixing an outcome does, seen from before the steps that lead to it. -/
theorem entryOutcomesAreFixed : Obligations.EntryOutcomesAreFixed := by
  unfold Obligations.EntryOutcomesAreFixed
  refine ⟨fun s q i e hq h ho hw retryOk mirrorOk => abandoned_entry hq h ho hw retryOk mirrorOk, ?_⟩
  intro s q i e r hq hentry hr ho hw tt path P frame quiet
  have h : OpenEntry s q i e r := ⟨hq, hentry, hr, ho, hw⟩
  have hframe : ∀ {t : State}, t.aroundEntry = s.aroundEntry → frame t := fun ht => State.of_aroundEntry ht
  refine ⟨?_, fun hwait hun hrec hd hc => ?_, fun hwait hd retryOk mirrorOk => ⟨fun hg => ?_, fun hno hm => ?_⟩, fun hwait hun htier => ?_⟩
  · obtain ⟨t, he, h1, h2, h3, h4, h5⟩ := decisionPoint_fixes h
    exact ⟨t, he, h1, h2, hframe h3, h4, h5⟩
  · obtain ⟨t, he, h1, h2, h3, h4, h5⟩ := fetchDataReady_fixes h hwait hun hrec hd hc
    exact ⟨t, he, h1, h2, hframe h3, h4, h5⟩
  · have hgive : dramGives s e retryOk mirrorOk = true := by
      unfold dramGives
      rcases hg with hg | ⟨h1, h2, h3⟩
      · rw [hg, Bool.true_or]
      · rw [h1, h2, h3, Bool.and_self, Bool.and_self, Bool.or_true]
    obtain ⟨t, he, h1, h2, h3, h4, h5⟩ := dramUncorrectable_gives h hwait hd retryOk mirrorOk hgive
    refine ⟨fun hc => ⟨t, he, h1, h2 hc, hframe h4, h5⟩, fun hc => ?_⟩
    obtain ⟨g1, g2, g3, g4⟩ := h3 hc
    exact ⟨t, he, h1, g1, g2, g3, g4, hframe h4, h5⟩
  · have hgive : dramGives s e retryOk mirrorOk = false := by
      unfold dramGives
      rw [hno, Bool.false_or]
      rcases hm with hm | hm | hm
      · rw [hm, Bool.false_and, Bool.false_and]
      · rw [hm, Bool.and_false, Bool.false_and]
      · rw [hm, Bool.and_false]
    obtain ⟨t, he, h1, h2, h3, h4, h5, h6⟩ := dramUncorrectable_damages h hwait hd retryOk mirrorOk hgive
    exact ⟨t, he, h1, h2, h3, hframe h4, h5, h6⟩
  · intro copy e1 plain
    have hcopy : copy ↔ lacksCopy (s.tensor e.tid) e.version = false := lacksCopy_iff.symm
    refine ⟨fun hc => ?_, fun hc => ?_, fun hc => ?_⟩
    · obtain ⟨h1, h2⟩ := flashRecovery_data h hwait hun htier (hc.imp_right hcopy.mp)
      refine ⟨fun hd hcs hP => ?_, fun hx => ?_⟩
      · obtain ⟨t, he, hf, hs⟩ := h1 hd hcs hP
        exact ⟨t, he, hs.now, hf, hframe hs.around, hs.quiet⟩
      · obtain ⟨t, he, g1, g2, g3, g4, g5, hs⟩ := h2 hx
        exact ⟨t, he, g1, g2, g3, g4, g5, hframe hs.around, hs.quiet⟩
    · obtain ⟨t, he, g1, g2, g3, g4, g5, g6, g7, g8⟩ := flashRecovery_goesOn h hwait hun htier (hc.imp_right fun hx => ⟨hx.1, hcopy.mp hx.2⟩)
      exact ⟨t, he, g1, g2, g3, g4, g5, g6, hframe g7, g8⟩
    · have hlacks : 2 ≤ e.recovery ∨ (e.recovery = 1 ∧ lacksCopy (s.tensor e.tid) e.version = true) :=
        hc.imp_right fun hx => ⟨hx.1, Bool.of_not_eq_false fun hf => hx.2 (hcopy.mpr hf)⟩
      obtain ⟨t, he, hf, hs⟩ := flashRecovery_gives_up h hwait hun htier hlacks
      exact ⟨t, he, hs.now, hf, hframe hs.around, hs.quiet⟩

end Sys2Proof.Machine
end

section
/-! SUPPORT. A launch mark over a core table that lists a core twice (R25, R175). -/

namespace Sys2Proof.Machine

/-- A module whose partition 0 waits for its launch mark. Its core table lists core 0 twice: the first entry, which every read of the core
returns, is the default; the second has a bundle, and with it the core counts as an enabled one. -/
def coreListedTwice : State :=
  { State.reset with
    sivar := { config := [(okey 0x2100 3, [8])] }
    parts := [(0, { run := .starting })]
    cores := [(0, {}), (0, { bundles := [0] })] }

/-- Whether core 0 runs after an outcome. -/
def coreZeroRuns (o : Out) : Bool :=
  match o with
  | .next t => decide ((t.core 0).wait = Wait.running)
  | _ => false

/-- Nothing stops the launch. -/
theorem launchCauses_coreListedTwice :
    launchCauses ((coreListedTwice.advance (launchAt coreListedTwice 0)).journalDone jLaunch 0) 0 = [] := by decide +kernel

/-- The step start that comes with the launch mark restarts the core's counts and so writes its default back, which takes both entries out
of the table: no core is enabled any more when the launch begins the enabled ones. -/
theorem launchMark_leaves_coreZero : coreZeroRuns (exec (.launchMark 0) coreListedTwice) = false := by decide +kernel

/-! ### The obligation -/

/-- Refutes O17: the statement is about every state, and in one whose core table lists a core twice, the default first, the core is enabled
before the launch mark and not begun by it. (Writes of the model to a table in key order keep
one entry for a key, so it takes a table that no run is known to reach; the statement does not ask for key order.) -/
theorem not_marksLaunchFireFaultAndStop : ¬ Obligations.MarksLaunchFireFaultAndStop := by
  unfold Obligations.MarksLaunchFireFaultAndStop
  rintro ⟨hlaunch, -, -⟩
  obtain ⟨t, ht, -, -, hbegun, -⟩ := hlaunch coreListedTwice 0 (by decide) (by decide) (by decide) launchCauses_coreListedTwice
  obtain ⟨hruns, -⟩ := hbegun 0 (by decide) (by decide)
  have hleft := launchMark_leaves_coreZero
  rw [ht] at hleft
  exact absurd hruns (of_decide_eq_false hleft)

end Sys2Proof.Machine
end
